-- ==== Sys2Proof/Word.lean ====
section
/-! DEFINITION. The word types of the Dunpex block model and their plainest names.

Multi-byte values are little-endian and bits are numbered from 0 at the least significant end (R24). -/

namespace Sys2Proof

/-- One byte. -/
abbrev Byte := BitVec 8

/-- A 32-bit register or Pennant parameter word. -/
abbrev W32 := BitVec 32

/-- A 64-bit word: a memory word, an air-time stamp, a telemetry counter. -/
abbrev W64 := BitVec 64

/-- A half word. -/
abbrev W16 := BitVec 16

end Sys2Proof
end

