-- ==== Sys2Proof/Syntax.lean ====
section
/-! DEFINITION. The commands of the block: one constructor per row of the opcode table, with the operands each row carries.

A Pennant command carries the stream and the parameter words of its packet. A row that stands for something that happens
(a timer, a measurement, a received frame) carries what happened: the unit, the reading, the words received. -/

namespace Sys2Proof

/-- The status codes of R499. -/
inductive Status where
  | ok | busy | badOpcode | badParam | lengthRange | notPresent | notPermitted | authFail | integrity | timeout
  | state | noResource | remoteUnreachable | late | deferred | partialDone | fenced
deriving DecidableEq, Repr

/-- A Pennant command as its stream runs it (R477, R490): the stream it came in, its TAG, its flags NOTE, CRCV and LOCAL,
its SOURCE and its parameter words; over Lace the exchange number of its sender (R494). PLEN is the number of parameter words. -/
structure Req where
  stream : Fin 11
  tag    : W16
  note   : Bool
  crcv   : Bool
  self   : Bool
  source : W16
  params : List W32
  xid    : Nat := 0
deriving DecidableEq, Repr

/-- The carriers of a Pennant packet (R479, R490). -/
inductive Transport where
  /-- queue pair QP0–QP7; the packet length that the SQ entry gives -/
  | pcie (qp : Fin 8) (len : Nat)
  /-- an I3C private write of `len` bytes -/
  | i3c (len : Nat)
  /-- the Lace links, from device `src`, `len` bytes in all its fragments, under exchange number `xid` -/
  | lace (src : W16) (len xid : Nat)
deriving DecidableEq, Repr

/-- A received Pennant packet: its 32-bit words in order, and whether one of them was poisoned or read with an error. -/
structure Packet where
  carrier  : Transport
  words    : List W32
  poisoned : Bool
deriving DecidableEq, Repr

/-- Who makes a register access (R20): the management processor, the host through BAR0, or an Awl core at a privilege. -/
inductive Writer where
  | mp
  | host
  | core (privF : Bool)
deriving DecidableEq, Repr

/-- A temperature reading in 0.125 °C (R539); `none` where the shell's self-check fails. -/
abbrev Reading := Option Int

/-- An engine instance that runs tasks (R52, R220, R291): engine i of bench b, unit i of a coding half, a MAC's transmit or
receive side, a notify engine. -/
inductive Site where
  | bench (b : Fin 16) (i : Fin 16)
  | pool (h : Fin 2) (i : Fin 46)
  | mac (m : Fin 128) (tx : Bool)
  | notify (n : Fin 4)
deriving DecidableEq, Repr

/-- A 64-bit word on a port or a link, with its poison tag (R56, R347). -/
abbrev TWord := BitVec 64 × Bool

/-- The source of a stream-queue access (R241). -/
inductive Producer where
  | fabric (n : Fin 40)
  | mac (m : Fin 128)
  | lace (p : Fin 32)
  | host
deriving DecidableEq, Repr

/-- An Awl core: its bench and its number. -/
structure CoreId where
  bench : Fin 16
  core  : Fin 8
deriving DecidableEq, Repr

/-- The fields of a Shank instruction in format SV and in format SX (R145). -/
structure ShSv where
  d : Fin 16
  a : Fin 16
  b : Fin 16
  m : Fin 4
  t : Fin 4
  imm : BitVec 10
deriving DecidableEq, Repr
structure ShSx where
  d : Fin 16
  a : Fin 16
  imm : BitVec 18
deriving DecidableEq, Repr

/-- A received 544-bit block of a Lace port (R441): its type field, its 16 payload words, its CRC, and what the lane's receiver
saw on the way: the symbols received after full runs, in order (R379; bits at L28, levels 0–3 at L56; one that is not listed
is the one expected), FEC codewords corrected and uncorrectable (R442). -/
structure Block where
  typ     : Byte
  payload : List W32
  crc     : BitVec 24
  stuffed : List Nat
  fecFixed : Nat
  fecBad  : Nat
deriving DecidableEq, Repr

/-- What the converters of an array's pilot rows 32 and 33 read, real and imaginary, in units of 2^−32 (R175). -/
structure PilotRead where
  i32 : W64
  q32 : W64
  i33 : W64
  q33 : W64
deriving DecidableEq, Repr

/-- A lane and one of its training phases 0–6 (R383). -/
structure LanePhase where
  lane  : Fin 256
  phase : Fin 7
deriving DecidableEq, Repr

/-- A Lace port whose link may be lost (R448), and whether two consecutive markers are missing on it. -/
structure LinkLoss where
  port    : Fin 32
  markers : Bool
deriving DecidableEq, Repr

/-- How the host link stands (R422), as its LTSSM and the function's configuration space leave it: lanes, speed (1 for 2.5 GT/s
to 5 for 32 GT/s), Max_Payload_Size and Max_Read_Request_Size in bytes, ECRC in use, ASPM L1 entered, the function in D3hot. -/
structure PcieTrain where
  lanes : Nat
  gen   : Nat
  mps   : Nat
  mrrs  : Nat
  ecrc  : Bool
  l1    : Bool
  d3    : Bool
deriving DecidableEq, Repr

/-- A received Ethernet frame (R404): the bytes from the destination address up to the FCS, whether the FCS is good, its
receive timestamp in ATS_BASE (R417), how many words of it had entered a stream queue when it was found faulty, and the FEC
codewords corrected and uncorrectable since the frame before (R403, R430). -/
structure EthFrame where
  bytes   : List Byte
  fcsOk   : Bool
  stamp   : BitVec 64
  entered : Nat
  fecFixed : Nat
  fecBad  : Nat
deriving DecidableEq, Repr

/-- The commands: one constructor per row of the opcode table. -/
inductive Instr where
  /-- `DEV_CAPS` (R7): Command that replies with the variant word and the present-quad masks. -/
  | devCaps (q : Req)
  /-- `REGISTER_WRITE` (R20): Write to a register that has no row of its own, applied under its access code, including W1C clears and writes that absent units ignore. -/
  | registerWrite (w : Writer) (a : BitVec 64) (v : W32)
  /-- `LIMIT_TAKE_EFFECT` (R17): A limit from the management plane takes effect in the data plane at the next tick, and capacity is re-evaluated. -/
  | limitTakeEffect
  /-- `ATS_CAPTURE_READ` (R31): A read of ATS_LO or ATS captures the air-time registers for the reading initiator. -/
  | atsCaptureRead (who : Nat)
  /-- `REF_QUALIFY` (R33): A timing reference meets its qualification condition and may be selected under R32 and R34. -/
  | refQualify (r : Fin 4)
  /-- `REF_LOST` (R33): A timing reference meets its loss condition, and the timing unit changes state under R34. -/
  | refLost (r : Fin 4)
  /-- `PPS_EDGE_MISSED` (R33): An expected PPS_IN edge does not arrive in its window, and PPS_MISS is raised. -/
  | ppsEdgeMissed
  /-- `FREQ_SETTLED` (R34): In ACQUIRE the frequency has stayed within 0.5 ppb for 4 s, and the unit enters LOCKED or OFFSET_HELD. -/
  | freqSettled
  /-- `PHASE_MEASUREMENT` (R34): A phase-error measurement is taken and drives the LOCKED and OFFSET_HELD transitions. -/
  | phaseMeasurement (err : Int) (freq : W32)
  /-- `REVERT_HOLDOFF_EXPIRY` (R34): A higher-ranked reference has been qualified for REVERT_S seconds, and the unit switches to it. -/
  | revertHoldoffExpiry (r : Fin 3)
  /-- `HOLDOVER_ESTIMATE_UPDATE` (R35): Each second in HOLDOVER the error estimate is recomputed, and HOLD_LIMIT is raised when it first exceeds the limit. -/
  | holdoverEstimateUpdate
  /-- `TIME_STEP_APPLY` (R40): At the step boundary H, ATS becomes H plus delta, or an ALIGN step with no phase reference is abandoned. -/
  | timeStepApply (err : Int)
  /-- `PPS_IN_EDGE` (R420): A rising edge on PPS_IN is timestamped and compensated for reference qualification. -/
  | ppsInEdge (stamp : W64) (wide : Bool)
  /-- `TOD_MESSAGE_RX` (R421): A time-of-day message is received on TOD_RX and checked for validity. -/
  | todMessageRx (bytes : List Byte) (inTime : Bool)
  /-- `TIME_STATUS` (R47): Command that replies with the timing status, ATS and any pending step. -/
  | timeStatus (q : Req)
  /-- `TIME_REF_CONFIG` (R48): Command that sets the reference enables, the holdover parameters and the PPS compensation. -/
  | timeRefConfig (q : Req)
  /-- `TIME_STEP` (R49): Commit that stages an air-time step at a hyperframe boundary and refuses the later pending commits. -/
  | timeStep (q : Req)
  /-- `TIME_STEP_CANCEL` (R50): Command that removes a pending time step before its arm point. -/
  | timeStepCancel (q : Req)
  /-- `TDD_TABLE_SET` (R51): Commit that stages a cell's TDD slot-format table for a boundary, with admission. -/
  | tddTableSet (q : Req)
  /-- `COMMIT_APPLY` (R497): At a boundary tick, every commit staged for that boundary is applied in opcode order. -/
  | commitApply
  /-- `BENCH_MEM_READ` (R56): A port read of bench memory is checked by SECDED and returns clean, corrected or poisoned data. -/
  | benchMemRead (b : Fin 16) (w : Fin 1048576)
  /-- `BENCH_MEM_WRITE` (R57): A port write to bench memory stores data, clearing or keeping poison by write width. -/
  | benchMemWrite (b : Fin 16) (off : Fin 8388608) (data : List Byte) (poison : Bool)
  /-- `SCRUB_ACCESS` (R58): The scrubber reads a line of a bank, correcting or poisoning words, and takes a forced cycle after 4,096 missed cycles. -/
  | scrubAccess (b : Fin 16) (line : Fin 131072)
  /-- `DMA_START` (R64): A write of START in HOST mode begins a descriptor chain at DMA_DESC. -/
  | dmaStart (b : Fin 16) (n : Fin 4)
  /-- `DMA_ABORT` (R64): A write of ABORT stops the channel after the request in progress. -/
  | dmaAbort (b : Fin 16) (n : Fin 4)
  /-- `DMA_TASK_START` (R60): A channel in SCHED mode starts a DMA task at the task's first descriptor. -/
  | dmaTaskStart (b : Fin 16) (n : Fin 4)
  /-- `DMA_REQUEST_COMPLETE` (R62): A DMA request completes, and the channel issues the next request, faults, or ends the descriptor or chain. -/
  | dmaRequestComplete (b : Fin 16) (n : Fin 4) (src : Option (Status × List TWord)) (dst : Option Status)
  /-- `DS_STAGE` (R65): A task granted by the Cordwainer is staged in a free slot of the local dispatch stage. -/
  | dsStage (x : Site)
  /-- `ENGINE_TASK_START` (R286): An engine instance starts its next staged task, which moves from STAGED to RUN. -/
  | engineTaskStart (x : Site)
  /-- `BUNDLE_ISSUE` (R67): An Awl core issues a 128-bit bundle whose four slots execute together, after the bundle-level checks. -/
  | bundleIssue (id : CoreId)
  /-- `BRANCH_RESOLVE` (R77): A branch resolves 2 cycles after issue, and a misprediction squashes the younger bundles. -/
  | branchResolve (id : CoreId)
  /-- `INTERRUPT_ACCEPT` (R108): An enabled pending interrupt is taken at a bundle boundary outside a hold region. -/
  | interruptAccept (id : CoreId)
  /-- `CORE_TASK_START` (R112): An idle core starts a staged task with PC, privilege and task CSRs set. -/
  | coreTaskStart (id : CoreId)
  /-- `AWL_WATCHDOG_EXPIRY` (R113): The core watchdog expires, setting IPEND.WDOG the first time and stopping the core with TIMEOUT the second time. -/
  | awlWatchdogExpiry (id : CoreId)
  /-- `TICKCMP_REACHED` (R82): The tick in TICKCMP is reached, and IPEND.TICK is set. -/
  | tickcmpReached (id : CoreId)
  /-- `CORE_IPI_WRITE` (R108): A write to CORE_IPI sets IPEND.IPI. -/
  | coreIpiWrite (id : CoreId) (v : W32)
  /-- `WAITEV_COMPLETE` (R111): A waiting WAITEV completes when an enabled interrupt is pending. -/
  | waitevComplete (id : CoreId)
  /-- `ADD` (R115): Scalar add. -/
  | add (id : CoreId) (d a b : Fin 32)
  /-- `SUB` (R115): Scalar subtract. -/
  | sub (id : CoreId) (d a b : Fin 32)
  /-- `AND` (R115): Scalar bitwise AND. -/
  | and (id : CoreId) (d a b : Fin 32)
  /-- `OR` (R115): Scalar bitwise OR. -/
  | or (id : CoreId) (d a b : Fin 32)
  /-- `XOR` (R115): Scalar bitwise XOR. -/
  | xor (id : CoreId) (d a b : Fin 32)
  /-- `SLL` (R115): Scalar logical left shift by register. -/
  | sll (id : CoreId) (d a b : Fin 32)
  /-- `SRL` (R115): Scalar logical right shift by register. -/
  | srl (id : CoreId) (d a b : Fin 32)
  /-- `SRA` (R115): Scalar arithmetic right shift by register. -/
  | sra (id : CoreId) (d a b : Fin 32)
  /-- `SLT` (R115): Scalar signed set-less-than. -/
  | slt (id : CoreId) (d a b : Fin 32)
  /-- `SLTU` (R115): Scalar unsigned set-less-than. -/
  | sltu (id : CoreId) (d a b : Fin 32)
  /-- `MIN` (R115): Scalar signed minimum. -/
  | min (id : CoreId) (d a b : Fin 32)
  /-- `MAX` (R115): Scalar signed maximum. -/
  | max (id : CoreId) (d a b : Fin 32)
  /-- `MINU` (R115): Scalar unsigned minimum. -/
  | minu (id : CoreId) (d a b : Fin 32)
  /-- `MAXU` (R115): Scalar unsigned maximum. -/
  | maxu (id : CoreId) (d a b : Fin 32)
  /-- `ADDS` (R115): Scalar saturating add. -/
  | adds (id : CoreId) (d a b : Fin 32)
  /-- `SUBS` (R115): Scalar saturating subtract. -/
  | subs (id : CoreId) (d a b : Fin 32)
  /-- `ABS` (R115): Scalar saturating absolute value. -/
  | abs (id : CoreId) (d a : Fin 32)
  /-- `CLZ` (R115): Scalar count of leading zeros. -/
  | clz (id : CoreId) (d a : Fin 32)
  /-- `CLS` (R115): Scalar count of redundant sign bits. -/
  | cls (id : CoreId) (d a : Fin 32)
  /-- `MUL` (R115): Scalar multiply, low 32 bits. -/
  | mul (id : CoreId) (d a b : Fin 32)
  /-- `MULH` (R115): Scalar signed multiply, high 32 bits. -/
  | mulh (id : CoreId) (d a b : Fin 32)
  /-- `MULHU` (R115): Scalar unsigned multiply, high 32 bits. -/
  | mulhu (id : CoreId) (d a b : Fin 32)
  /-- `ADDI` (R115): Scalar add of a sign-extended immediate. -/
  | addi (id : CoreId) (d a : Fin 32) (imm : W16)
  /-- `ANDI` (R115): Scalar AND with a zero-extended immediate. -/
  | andi (id : CoreId) (d a : Fin 32) (imm : W16)
  /-- `ORI` (R115): Scalar OR with a zero-extended immediate. -/
  | ori (id : CoreId) (d a : Fin 32) (imm : W16)
  /-- `XORI` (R115): Scalar XOR with a zero-extended immediate. -/
  | xori (id : CoreId) (d a : Fin 32) (imm : W16)
  /-- `SLLI` (R115): Scalar logical left shift by immediate. -/
  | slli (id : CoreId) (d a : Fin 32) (sh : Fin 32)
  /-- `SRLI` (R115): Scalar logical right shift by immediate. -/
  | srli (id : CoreId) (d a : Fin 32) (sh : Fin 32)
  /-- `SRAI` (R115): Scalar arithmetic right shift by immediate. -/
  | srai (id : CoreId) (d a : Fin 32) (sh : Fin 32)
  /-- `RORI` (R115): Scalar rotate right by immediate. -/
  | rori (id : CoreId) (d a : Fin 32) (sh : Fin 32)
  /-- `SLTI` (R115): Scalar signed compare with an immediate. -/
  | slti (id : CoreId) (d a : Fin 32) (imm : W16)
  /-- `LUI` (R115): Load an immediate into the upper half of a scalar register. -/
  | lui (id : CoreId) (d : Fin 32) (imm : W16)
  /-- `PADD` (R115): Pointer plus scalar. -/
  | padd (id : CoreId) (d a : Fin 16) (b : Fin 32)
  /-- `PSUB` (R115): Pointer minus scalar. -/
  | psub (id : CoreId) (d a : Fin 16) (b : Fin 32)
  /-- `PMOV` (R115): Move a scalar into a pointer. -/
  | pmov (id : CoreId) (d : Fin 16) (a : Fin 32)
  /-- `SMOV` (R115): Move a pointer into a scalar. -/
  | smov (id : CoreId) (d : Fin 32) (a : Fin 16)
  /-- `PDIFF` (R115): Difference of two pointers into a scalar. -/
  | pdiff (id : CoreId) (d : Fin 32) (a b : Fin 16)
  /-- `PADDI` (R115): Pointer plus a sign-extended immediate. -/
  | paddi (id : CoreId) (d a : Fin 16) (imm : W16)
  /-- `BEQ` (R115): Branch if equal. -/
  | beq (id : CoreId) (a b : Fin 32) (off : W16)
  /-- `BNE` (R115): Branch if not equal. -/
  | bne (id : CoreId) (a b : Fin 32) (off : W16)
  /-- `BLT` (R115): Branch if signed less than. -/
  | blt (id : CoreId) (a b : Fin 32) (off : W16)
  /-- `BGE` (R115): Branch if signed greater or equal. -/
  | bge (id : CoreId) (a b : Fin 32) (off : W16)
  /-- `BLTU` (R115): Branch if unsigned less than. -/
  | bltu (id : CoreId) (a b : Fin 32) (off : W16)
  /-- `BGEU` (R115): Branch if unsigned greater or equal. -/
  | bgeu (id : CoreId) (a b : Fin 32) (off : W16)
  /-- `BR` (R115): Unconditional branch. -/
  | br (id : CoreId) (off : BitVec 26)
  /-- `CALL` (R115): Branch that sets the link register s31. -/
  | call (id : CoreId) (off : BitVec 26)
  /-- `JR` (R115): Jump to the address held in a scalar register. -/
  | jr (id : CoreId) (a : Fin 32)
  /-- `BKANY` (R115): Branch if any active predicate bit is set. -/
  | bkany (id : CoreId) (k : Fin 8) (off : W16)
  /-- `BKNONE` (R115): Branch if no active predicate bit is set. -/
  | bknone (id : CoreId) (k : Fin 8) (off : W16)
  /-- `CSRR` (R81): Read a CSR, subject to privilege checks. -/
  | csrr (id : CoreId) (d : Fin 32) (csr : Fin 4096)
  /-- `CSRW` (R81): Write a CSR, subject to privilege and encoding checks. -/
  | csrw (id : CoreId) (a : Fin 32) (csr : Fin 4096)
  /-- `CSRS` (R81): Set bits of a CSR. -/
  | csrs (id : CoreId) (a : Fin 32) (csr : Fin 4096)
  /-- `CSRC` (R81): Clear bits of a CSR. -/
  | csrc (id : CoreId) (a : Fin 32) (csr : Fin 4096)
  /-- `IRQ_HOLD` (R75): Open a hold region without interlocks or interrupts. -/
  | irqHold (id : CoreId)
  /-- `IRQ_RELEASE` (R75): Close a hold region. -/
  | irqRelease (id : CoreId)
  /-- `WAITEV` (R111): Wait until an enabled interrupt is pending. -/
  | waitev (id : CoreId)
  /-- `ERET` (R110): Return from a handler, restoring state from ESTATUS. -/
  | eret (id : CoreId)
  /-- `TRAP` (R105): Raise the TRAP exception with a code in BADADDR. -/
  | trap (id : CoreId) (code : Fin 4096)
  /-- `BRK` (R115): Halt under an attached debugger, or raise BREAK. -/
  | brk (id : CoreId)
  /-- `FENCE` (R112): Wait until all of the core's stores are visible. -/
  | fence (id : CoreId)
  /-- `TDONE` (R112): Complete the current task with a status once its stores are visible. -/
  | tdone (id : CoreId) (a : Fin 32)
  /-- `LEXIT0` (R102): Deactivate loop level 0. -/
  | lexit0 (id : CoreId)
  /-- `LEXIT1` (R102): Deactivate loop level 1. -/
  | lexit1 (id : CoreId)
  /-- `LOOP0` (R99): Open a level-0 hardware loop, with optional stages and rotation. -/
  | loop0 (id : CoreId) (last : Fin 1024) (cnt : Fin 256) (ci : Bool) (stg : Fin 16) (sp rb : Bool)
  /-- `LOOP1` (R99): Open a level-1 hardware loop. -/
  | loop1 (id : CoreId) (last : Fin 1024) (cnt : Fin 256) (ci : Bool) (stg : Fin 16) (sp rb : Bool)
  /-- `LDW` (R86): Load a word into a scalar register. -/
  | ldw (id : CoreId) (m1 : Bool) (r : Fin 32) (p : Fin 16) (upd : Fin 4) (imm : BitVec 12) (inc : Fin 32)
  /-- `LDH` (R86): Load a sign-extended half-word. -/
  | ldh (id : CoreId) (m1 : Bool) (r : Fin 32) (p : Fin 16) (upd : Fin 4) (imm : BitVec 12) (inc : Fin 32)
  /-- `LDHU` (R86): Load a zero-extended half-word. -/
  | ldhu (id : CoreId) (m1 : Bool) (r : Fin 32) (p : Fin 16) (upd : Fin 4) (imm : BitVec 12) (inc : Fin 32)
  /-- `LDB` (R86): Load a sign-extended byte. -/
  | ldb (id : CoreId) (m1 : Bool) (r : Fin 32) (p : Fin 16) (upd : Fin 4) (imm : BitVec 12) (inc : Fin 32)
  /-- `LDBU` (R86): Load a zero-extended byte. -/
  | ldbu (id : CoreId) (m1 : Bool) (r : Fin 32) (p : Fin 16) (upd : Fin 4) (imm : BitVec 12) (inc : Fin 32)
  /-- `LDP` (R86): Load a pointer register. -/
  | ldp (id : CoreId) (m1 : Bool) (r : Fin 16) (p : Fin 16) (upd : Fin 4) (imm : BitVec 12) (inc : Fin 32)
  /-- `STW` (R86): Store a word. -/
  | stw (id : CoreId) (m1 : Bool) (r : Fin 32) (p : Fin 16) (upd : Fin 4) (imm : BitVec 12) (inc : Fin 32)
  /-- `STH` (R86): Store a half-word. -/
  | sth (id : CoreId) (m1 : Bool) (r : Fin 32) (p : Fin 16) (upd : Fin 4) (imm : BitVec 12) (inc : Fin 32)
  /-- `STB` (R86): Store a byte. -/
  | stb (id : CoreId) (m1 : Bool) (r : Fin 32) (p : Fin 16) (upd : Fin 4) (imm : BitVec 12) (inc : Fin 32)
  /-- `STP` (R86): Store a pointer register. -/
  | stp (id : CoreId) (m1 : Bool) (r : Fin 16) (p : Fin 16) (upd : Fin 4) (imm : BitVec 12) (inc : Fin 32)
  /-- `LDV` (R86): Load the active words of a vector register. -/
  | ldv (id : CoreId) (m1 : Bool) (r : Fin 32) (p : Fin 16) (upd : Fin 4) (k : Fin 8) (imm : BitVec 12) (inc : Fin 32)
  /-- `STV` (R86): Store the active words of a vector register. -/
  | stv (id : CoreId) (m1 : Bool) (r : Fin 32) (p : Fin 16) (upd : Fin 4) (k : Fin 8) (imm : BitVec 12) (inc : Fin 32)
  /-- `LDV_BC` (R86): Broadcast one loaded word to the active words of a vector register. -/
  | ldvBc (id : CoreId) (m1 : Bool) (r : Fin 32) (p : Fin 16) (upd : Fin 4) (k : Fin 8) (imm : BitVec 12) (inc : Fin 32)
  /-- `LDA` (R97): Load a whole accumulator from memory. -/
  | lda (id : CoreId) (m1 : Bool) (r : Fin 8) (p : Fin 16) (upd : Fin 4) (imm : BitVec 12) (inc : Fin 32)
  /-- `STA` (R97): Store a whole accumulator to memory. -/
  | sta (id : CoreId) (m1 : Bool) (r : Fin 8) (p : Fin 16) (upd : Fin 4) (imm : BitVec 12) (inc : Fin 32)
  /-- `VGATHER` (R138): Element-precise indexed vector load. -/
  | vgather (id : CoreId) (m1 : Bool) (r : Fin 32) (p : Fin 16) (k : Fin 8) (x : Fin 32) (w : Fin 4)
  /-- `VSCATTER` (R138): Element-precise indexed vector store. -/
  | vscatter (id : CoreId) (m1 : Bool) (r : Fin 32) (p : Fin 16) (k : Fin 8) (x : Fin 32) (w : Fin 4)
  /-- `VLDS` (R138): Element-precise strided vector load. -/
  | vlds (id : CoreId) (m1 : Bool) (r : Fin 32) (p : Fin 16) (k : Fin 8) (x : Fin 32) (w : Fin 4)
  /-- `VSTS` (R138): Element-precise strided vector store. -/
  | vsts (id : CoreId) (m1 : Bool) (r : Fin 32) (p : Fin 16) (k : Fin 8) (x : Fin 32) (w : Fin 4)
  /-- `CMAC` (R92): Complex multiply-accumulate. -/
  | cmac (id : CoreId) (d : Fin 8) (a : Fin 32) (b : Fin 32) (k : Fin 8) (z : Bool)
  /-- `CMACJ` (R92): Complex multiply-accumulate with the conjugate of b. -/
  | cmacj (id : CoreId) (d : Fin 8) (a : Fin 32) (b : Fin 32) (k : Fin 8) (z : Bool)
  /-- `CMSC` (R92): Complex multiply-subtract. -/
  | cmsc (id : CoreId) (d : Fin 8) (a : Fin 32) (b : Fin 32) (k : Fin 8) (z : Bool)
  /-- `CMSCJ` (R92): Complex multiply-subtract with the conjugate of b. -/
  | cmscj (id : CoreId) (d : Fin 8) (a : Fin 32) (b : Fin 32) (k : Fin 8) (z : Bool)
  /-- `CSQ` (R92): Accumulate squared magnitude. -/
  | csq (id : CoreId) (d : Fin 8) (a : Fin 32) (k : Fin 8) (z : Bool)
  /-- `RMAC16` (R92): Real int16 multiply-accumulate. -/
  | rmac16 (id : CoreId) (d : Fin 8) (a : Fin 32) (b : Fin 32) (k : Fin 8) (z : Bool)
  /-- `RMAC8` (R92): Real int8 pairwise multiply-accumulate. -/
  | rmac8 (id : CoreId) (d : Fin 8) (a : Fin 32) (b : Fin 32) (k : Fin 8) (z : Bool)
  /-- `CMUL` (R95): Complex multiply into a vector, rounded and saturated. -/
  | cmul (id : CoreId) (d : Fin 32) (a : Fin 32) (b : Fin 32) (k : Fin 8)
  /-- `CMULJ` (R95): Complex multiply by the conjugate of b. -/
  | cmulj (id : CoreId) (d : Fin 32) (a : Fin 32) (b : Fin 32) (k : Fin 8)
  /-- `CROTJ` (R95): Rotate by +j. -/
  | crotj (id : CoreId) (d : Fin 32) (a : Fin 32) (k : Fin 8)
  /-- `CROTNJ` (R95): Rotate by -j. -/
  | crotnj (id : CoreId) (d : Fin 32) (a : Fin 32) (k : Fin 8)
  /-- `RMUL16` (R95): Real int16 multiply. -/
  | rmul16 (id : CoreId) (d : Fin 32) (a : Fin 32) (b : Fin 32) (k : Fin 8)
  /-- `ACCX` (R96): Extract an accumulator to 16 ci16 elements. -/
  | accx (id : CoreId) (d : Fin 32) (a : Fin 8) (b : Fin 32) (k : Fin 8) (sr rt : Bool) (sh : Fin 64)
  /-- `ACCX_WL` (R96): Extract accumulator lanes 0-7 as ci32 elements. -/
  | accxWl (id : CoreId) (d : Fin 32) (a : Fin 8) (b : Fin 32) (k : Fin 8) (sr rt : Bool) (sh : Fin 64)
  /-- `ACCX_WH` (R96): Extract accumulator lanes 8-15 as ci32 elements. -/
  | accxWh (id : CoreId) (d : Fin 32) (a : Fin 8) (b : Fin 32) (k : Fin 8) (sr rt : Bool) (sh : Fin 64)
  /-- `ACCZ` (R97): Zero the active accumulator lanes. -/
  | accz (id : CoreId) (d : Fin 8) (k : Fin 8)
  /-- `ACCMV` (R97): Copy one accumulator to another. -/
  | accmv (id : CoreId) (d : Fin 8) (a : Fin 8)
  /-- `NORM` (R98): Per-lane count of redundant sign bits. -/
  | norm (id : CoreId) (d : Fin 32) (a : Fin 32) (k : Fin 8)
  /-- `EXPB` (R98): Block exponent, the minimum NORM over the active lanes. -/
  | expb (id : CoreId) (d : Fin 32) (a : Fin 32) (k : Fin 8)
  /-- `SHL_B` (R98): Block shift by a scalar amount. -/
  | shlB (id : CoreId) (d : Fin 32) (a : Fin 32) (b : Fin 32) (k : Fin 8)
  /-- `SHL_BI` (R98): Block shift by an immediate amount. -/
  | shlBi (id : CoreId) (d : Fin 32) (a : Fin 32) (b : Fin 32) (k : Fin 8)
  /-- `SETVL` (R117): Set the vector length and return the granted element count. -/
  | setvl (id : CoreId) (d : Fin 32) (a : Fin 32) (et : Fin 8)
  /-- `VADD` (R127): Vector add. -/
  | vadd (id : CoreId) (d : Fin 32) (a : Fin 32) (b : Fin 32) (k : Fin 8) (et : Fin 8)
  /-- `VSUB` (R127): Vector subtract. -/
  | vsub (id : CoreId) (d : Fin 32) (a : Fin 32) (b : Fin 32) (k : Fin 8) (et : Fin 8)
  /-- `VADDS` (R127): Vector saturating add. -/
  | vadds (id : CoreId) (d : Fin 32) (a : Fin 32) (b : Fin 32) (k : Fin 8) (et : Fin 8)
  /-- `VSUBS` (R127): Vector saturating subtract. -/
  | vsubs (id : CoreId) (d : Fin 32) (a : Fin 32) (b : Fin 32) (k : Fin 8) (et : Fin 8)
  /-- `VNEG` (R127): Vector saturating negate. -/
  | vneg (id : CoreId) (d : Fin 32) (a : Fin 32) (k : Fin 8) (et : Fin 8)
  /-- `VABS` (R127): Vector saturating absolute value. -/
  | vabs (id : CoreId) (d : Fin 32) (a : Fin 32) (k : Fin 8) (et : Fin 8)
  /-- `VMIN` (R127): Vector signed minimum. -/
  | vmin (id : CoreId) (d : Fin 32) (a : Fin 32) (b : Fin 32) (k : Fin 8) (et : Fin 8)
  /-- `VMAX` (R127): Vector signed maximum. -/
  | vmax (id : CoreId) (d : Fin 32) (a : Fin 32) (b : Fin 32) (k : Fin 8) (et : Fin 8)
  /-- `VAVG` (R127): Vector rounded average. -/
  | vavg (id : CoreId) (d : Fin 32) (a : Fin 32) (b : Fin 32) (k : Fin 8) (et : Fin 8)
  /-- `VMUL` (R127): Vector multiply, low bits. -/
  | vmul (id : CoreId) (d : Fin 32) (a : Fin 32) (b : Fin 32) (k : Fin 8) (et : Fin 8)
  /-- `VMOV` (R127): Vector move. -/
  | vmov (id : CoreId) (d : Fin 32) (a : Fin 32) (k : Fin 8) (et : Fin 8)
  /-- `VAND` (R127): Vector AND. -/
  | vand (id : CoreId) (d : Fin 32) (a : Fin 32) (b : Fin 32) (k : Fin 8) (et : Fin 8)
  /-- `VOR` (R127): Vector OR. -/
  | vor (id : CoreId) (d : Fin 32) (a : Fin 32) (b : Fin 32) (k : Fin 8) (et : Fin 8)
  /-- `VXOR` (R127): Vector XOR. -/
  | vxor (id : CoreId) (d : Fin 32) (a : Fin 32) (b : Fin 32) (k : Fin 8) (et : Fin 8)
  /-- `VANDN` (R127): Vector AND NOT. -/
  | vandn (id : CoreId) (d : Fin 32) (a : Fin 32) (b : Fin 32) (k : Fin 8) (et : Fin 8)
  /-- `VNOT` (R127): Vector NOT. -/
  | vnot (id : CoreId) (d : Fin 32) (a : Fin 32) (k : Fin 8) (et : Fin 8)
  /-- `VSLL` (R127): Vector logical left shift by element. -/
  | vsll (id : CoreId) (d : Fin 32) (a : Fin 32) (b : Fin 32) (k : Fin 8) (et : Fin 8)
  /-- `VSRL` (R127): Vector logical right shift by element. -/
  | vsrl (id : CoreId) (d : Fin 32) (a : Fin 32) (b : Fin 32) (k : Fin 8) (et : Fin 8)
  /-- `VSRA` (R127): Vector arithmetic right shift by element. -/
  | vsra (id : CoreId) (d : Fin 32) (a : Fin 32) (b : Fin 32) (k : Fin 8) (et : Fin 8)
  /-- `VSLLI` (R127): Vector logical left shift by immediate. -/
  | vslli (id : CoreId) (d : Fin 32) (a : Fin 32) (b : Fin 32) (k : Fin 8) (et : Fin 8)
  /-- `VSRLI` (R127): Vector logical right shift by immediate. -/
  | vsrli (id : CoreId) (d : Fin 32) (a : Fin 32) (b : Fin 32) (k : Fin 8) (et : Fin 8)
  /-- `VSRAI` (R127): Vector arithmetic right shift by immediate. -/
  | vsrai (id : CoreId) (d : Fin 32) (a : Fin 32) (b : Fin 32) (k : Fin 8) (et : Fin 8)
  /-- `VSRAR` (R127): Vector rounded arithmetic right shift by immediate. -/
  | vsrar (id : CoreId) (d : Fin 32) (a : Fin 32) (b : Fin 32) (k : Fin 8) (et : Fin 8)
  /-- `VCEQ` (R128): Compare equal into a predicate. -/
  | vceq (id : CoreId) (d : Fin 8) (a : Fin 32) (b : Fin 32) (k : Fin 8) (et : Fin 8)
  /-- `VCNE` (R128): Compare not equal into a predicate. -/
  | vcne (id : CoreId) (d : Fin 8) (a : Fin 32) (b : Fin 32) (k : Fin 8) (et : Fin 8)
  /-- `VCLT` (R128): Compare signed or floating less than. -/
  | vclt (id : CoreId) (d : Fin 8) (a : Fin 32) (b : Fin 32) (k : Fin 8) (et : Fin 8)
  /-- `VCLE` (R128): Compare signed or floating less or equal. -/
  | vcle (id : CoreId) (d : Fin 8) (a : Fin 32) (b : Fin 32) (k : Fin 8) (et : Fin 8)
  /-- `VCLTU` (R128): Compare unsigned less than. -/
  | vcltu (id : CoreId) (d : Fin 8) (a : Fin 32) (b : Fin 32) (k : Fin 8) (et : Fin 8)
  /-- `VCLEU` (R128): Compare unsigned less or equal. -/
  | vcleu (id : CoreId) (d : Fin 8) (a : Fin 32) (b : Fin 32) (k : Fin 8) (et : Fin 8)
  /-- `VCONJ` (R129): Complex conjugate. -/
  | vconj (id : CoreId) (d : Fin 32) (a : Fin 32) (k : Fin 8) (et : Fin 8)
  /-- `VCSWAP` (R129): Swap real and imaginary parts. -/
  | vcswap (id : CoreId) (d : Fin 32) (a : Fin 32) (k : Fin 8) (et : Fin 8)
  /-- `VCMAG2` (R129): Complex squared magnitude. -/
  | vcmag2 (id : CoreId) (d : Fin 32) (a : Fin 32) (k : Fin 8)
  /-- `VWIDL` (R129): Widen the lower half of the elements. -/
  | vwidl (id : CoreId) (d : Fin 32) (a : Fin 32) (k : Fin 8) (et : Fin 8)
  /-- `VWIDH` (R129): Widen the upper half of the elements. -/
  | vwidh (id : CoreId) (d : Fin 32) (a : Fin 32) (k : Fin 8) (et : Fin 8)
  /-- `VNARR` (R129): Narrow with saturation. -/
  | vnarr (id : CoreId) (d : Fin 32) (a : Fin 32) (b : Fin 32) (k : Fin 8) (et : Fin 8)
  /-- `VFADD` (R130): Floating add. -/
  | vfadd (id : CoreId) (d : Fin 32) (a : Fin 32) (b : Fin 32) (k : Fin 8) (et : Fin 8)
  /-- `VFSUB` (R130): Floating subtract. -/
  | vfsub (id : CoreId) (d : Fin 32) (a : Fin 32) (b : Fin 32) (k : Fin 8) (et : Fin 8)
  /-- `VFMUL` (R130): fp32 multiply. -/
  | vfmul (id : CoreId) (d : Fin 32) (a : Fin 32) (b : Fin 32) (k : Fin 8)
  /-- `VFCMUL` (R130): cfp16 complex multiply. -/
  | vfcmul (id : CoreId) (d : Fin 32) (a : Fin 32) (b : Fin 32) (k : Fin 8)
  /-- `VFMA` (R130): fp32 fused multiply-add. -/
  | vfma (id : CoreId) (d : Fin 32) (a : Fin 32) (b : Fin 32) (k : Fin 8)
  /-- `VFCMA` (R130): cfp16 complex multiply-add. -/
  | vfcma (id : CoreId) (d : Fin 32) (a : Fin 32) (b : Fin 32) (k : Fin 8)
  /-- `VFMS` (R130): fp32 fused multiply-subtract. -/
  | vfms (id : CoreId) (d : Fin 32) (a : Fin 32) (b : Fin 32) (k : Fin 8)
  /-- `VFCMS` (R130): cfp16 complex multiply-subtract. -/
  | vfcms (id : CoreId) (d : Fin 32) (a : Fin 32) (b : Fin 32) (k : Fin 8)
  /-- `VFMIN` (R130): fp32 minimum. -/
  | vfmin (id : CoreId) (d : Fin 32) (a : Fin 32) (b : Fin 32) (k : Fin 8)
  /-- `VFCMULJ` (R130): cfp16 multiply by the conjugate of b. -/
  | vfcmulj (id : CoreId) (d : Fin 32) (a : Fin 32) (b : Fin 32) (k : Fin 8)
  /-- `VFMAX` (R130): fp32 maximum. -/
  | vfmax (id : CoreId) (d : Fin 32) (a : Fin 32) (b : Fin 32) (k : Fin 8)
  /-- `VFCMAJ` (R130): cfp16 multiply-add with the conjugate of b. -/
  | vfcmaj (id : CoreId) (d : Fin 32) (a : Fin 32) (b : Fin 32) (k : Fin 8)
  /-- `VFABS` (R130): fp32 absolute value. -/
  | vfabs (id : CoreId) (d : Fin 32) (a : Fin 32) (k : Fin 8)
  /-- `VFNEG` (R130): Floating negate. -/
  | vfneg (id : CoreId) (d : Fin 32) (a : Fin 32) (k : Fin 8) (et : Fin 8)
  /-- `VFRCP` (R130): fp32 reciprocal estimate. -/
  | vfrcp (id : CoreId) (d : Fin 32) (a : Fin 32) (k : Fin 8)
  /-- `VFRSQ` (R130): fp32 reciprocal square-root estimate. -/
  | vfrsq (id : CoreId) (d : Fin 32) (a : Fin 32) (k : Fin 8)
  /-- `VCVT_F32_I32` (R131): Convert int32 to fp32. -/
  | vcvtF32I32 (id : CoreId) (d : Fin 32) (a : Fin 32) (k : Fin 8)
  /-- `VCVT_I32_F32` (R131): Convert fp32 to int32 with saturation. -/
  | vcvtI32F32 (id : CoreId) (d : Fin 32) (a : Fin 32) (k : Fin 8)
  /-- `VCVT_CF16_CI16` (R131): Convert ci16 to scaled cfp16. -/
  | vcvtCf16Ci16 (id : CoreId) (d : Fin 32) (a : Fin 32) (b : Fin 32) (k : Fin 8)
  /-- `VCVT_CI16_CF16` (R131): Convert cfp16 to scaled ci16. -/
  | vcvtCi16Cf16 (id : CoreId) (d : Fin 32) (a : Fin 32) (b : Fin 32) (k : Fin 8)
  /-- `VCVT_F32L` (R131): Convert complex elements 0-7 to fp32 pairs. -/
  | vcvtF32l (id : CoreId) (d : Fin 32) (a : Fin 32) (k : Fin 8)
  /-- `VCVT_F32H` (R131): Convert complex elements 8-15 to fp32 pairs. -/
  | vcvtF32h (id : CoreId) (d : Fin 32) (a : Fin 32) (k : Fin 8)
  /-- `VCVT_CF16_F32` (R131): Convert fp32 pairs to cfp16. -/
  | vcvtCf16F32 (id : CoreId) (d : Fin 32) (a : Fin 32) (b : Fin 32) (k : Fin 8)
  /-- `VPERM` (R132): Indexed permute. -/
  | vperm (id : CoreId) (d : Fin 32) (a : Fin 32) (b : Fin 32) (k : Fin 8) (et : Fin 8)
  /-- `VZIPL` (R132): Interleave the lower halves. -/
  | vzipl (id : CoreId) (d : Fin 32) (a : Fin 32) (b : Fin 32) (k : Fin 8) (et : Fin 8)
  /-- `VZIPH` (R132): Interleave the upper halves. -/
  | vziph (id : CoreId) (d : Fin 32) (a : Fin 32) (b : Fin 32) (k : Fin 8) (et : Fin 8)
  /-- `VUZPE` (R132): De-interleave the even elements. -/
  | vuzpe (id : CoreId) (d : Fin 32) (a : Fin 32) (b : Fin 32) (k : Fin 8) (et : Fin 8)
  /-- `VUZPO` (R132): De-interleave the odd elements. -/
  | vuzpo (id : CoreId) (d : Fin 32) (a : Fin 32) (b : Fin 32) (k : Fin 8) (et : Fin 8)
  /-- `VSLDN` (R132): Slide elements down. -/
  | vsldn (id : CoreId) (d : Fin 32) (a : Fin 32) (b : Fin 32) (k : Fin 8) (et : Fin 8)
  /-- `VSLUP` (R132): Slide elements up. -/
  | vslup (id : CoreId) (d : Fin 32) (a : Fin 32) (b : Fin 32) (k : Fin 8) (et : Fin 8)
  /-- `VREV` (R132): Reverse the elements. -/
  | vrev (id : CoreId) (d : Fin 32) (a : Fin 32) (k : Fin 8) (et : Fin 8)
  /-- `VBCAST` (R132): Broadcast a scalar to the active elements. -/
  | vbcast (id : CoreId) (d : Fin 32) (a : Fin 32) (b : Fin 32) (k : Fin 8) (et : Fin 8)
  /-- `VINS` (R132): Insert a scalar into one element. -/
  | vins (id : CoreId) (d : Fin 32) (a : Fin 32) (b : Fin 32) (et : Fin 8)
  /-- `VEXT` (R132): Extract one element into a scalar. -/
  | vext (id : CoreId) (d : Fin 32) (a : Fin 32) (b : Fin 32) (et : Fin 8)
  /-- `VSEL` (R132): Select elements by predicate. -/
  | vsel (id : CoreId) (d : Fin 32) (a : Fin 32) (b : Fin 32) (k : Fin 8) (et : Fin 8)
  /-- `VRADD` (R133): Saturated sum reduction. -/
  | vradd (id : CoreId) (d : Fin 32) (a : Fin 32) (k : Fin 8) (et : Fin 8)
  /-- `VRMAX` (R133): Maximum reduction. -/
  | vrmax (id : CoreId) (d : Fin 32) (a : Fin 32) (k : Fin 8) (et : Fin 8)
  /-- `VRMIN` (R133): Minimum reduction. -/
  | vrmin (id : CoreId) (d : Fin 32) (a : Fin 32) (k : Fin 8) (et : Fin 8)
  /-- `VRIMAX` (R133): Index of the largest element. -/
  | vrimax (id : CoreId) (d : Fin 32) (a : Fin 32) (k : Fin 8) (et : Fin 8)
  /-- `VFRADD` (R133): Pairwise fp32 sum reduction. -/
  | vfradd (id : CoreId) (d : Fin 32) (a : Fin 32) (k : Fin 8)
  /-- `KAND` (R134): Predicate AND. -/
  | kand (id : CoreId) (d : Fin 8) (a : Fin 8) (b : Fin 8)
  /-- `KOR` (R134): Predicate OR. -/
  | kor (id : CoreId) (d : Fin 8) (a : Fin 8) (b : Fin 8)
  /-- `KXOR` (R134): Predicate XOR. -/
  | kxor (id : CoreId) (d : Fin 8) (a : Fin 8) (b : Fin 8)
  /-- `KANDN` (R134): Predicate AND NOT. -/
  | kandn (id : CoreId) (d : Fin 8) (a : Fin 8) (b : Fin 8)
  /-- `KNOT` (R134): Predicate NOT. -/
  | knot (id : CoreId) (d : Fin 8) (a : Fin 8)
  /-- `KVL` (R134): Predicate of the elements below the vector length. -/
  | kvl (id : CoreId) (d : Fin 8) (et : Fin 8)
  /-- `KPOIS` (R134): Predicate of the poisoned elements. -/
  | kpois (id : CoreId) (d : Fin 8) (a : Fin 32) (et : Fin 8)
  /-- `KPOP` (R134): Count of the set predicate bits. -/
  | kpop (id : CoreId) (d : Fin 32) (a : Fin 8)
  /-- `KFIRST` (R134): Index of the lowest set predicate bit. -/
  | kfirst (id : CoreId) (d : Fin 32) (a : Fin 8)
  /-- `KSET` (R134): Set a predicate from two scalars. -/
  | kset (id : CoreId) (d : Fin 8) (a : Fin 32) (b : Fin 32)
  /-- `KGET` (R134): Read half of a predicate into a scalar. -/
  | kget (id : CoreId) (d : Fin 32) (a : Fin 8) (b : Fin 32)
  /-- `EY_BFP_UNPACK` (R161): Unpack a block-floating-point resource block to ci16. -/
  | eyBfpUnpack (id : CoreId) (d : Fin 32) (a : Fin 32) (b : Fin 32) (w : Fin 4)
  /-- `EY_BFP_PACK` (R162): Pack 12 ci16 REs into a block-floating-point block. -/
  | eyBfpPack (id : CoreId) (d : Fin 32) (a : Fin 32) (b : Fin 32) (w : Fin 4)
  /-- `EY_SEQ_STEP` (R163): Advance the Gold sequence state by 64 and output 64 bits. -/
  | eySeqStep (id : CoreId) (d : Fin 32) (a : Fin 32)
  /-- `EY_SEQ_INIT` (R163): Initialise the Gold sequence from c_init and output the first bits. -/
  | eySeqInit (id : CoreId) (d : Fin 32) (a : Fin 32)
  /-- `EY_SEQ_SKIP` (R163): Advance the Gold sequence state by 64 times k. -/
  | eySeqSkip (id : CoreId) (d : Fin 32) (a : Fin 32) (b : Fin 32)
  /-- `EY_CRC` (R165): Feed up to 64 message bits into a CRC remainder. -/
  | eyCrc (id : CoreId) (d : Fin 32) (a : Fin 32) (b : Fin 32) (gen : Fin 8) (order : Bool)
  /-- `EY_DEMAP` (R167): Compute max-log LLRs for 16 REs. -/
  | eyDemap (id : CoreId) (d : Fin 32) (a : Fin 32) (b : Fin 32) (k : Fin 8) (modn : Fin 8)
  /-- `EY_PHASE` (R169): Rotate elements by a linear phase ramp. -/
  | eyPhase (id : CoreId) (d : Fin 32) (a : Fin 32) (b : Fin 32) (k : Fin 8) (adv conj : Bool)
  /-- `SHANK_TASK_START` (R152): The Shank starts a task at its entry index with x1 set. -/
  | shankTaskStart (b : Fin 16)
  /-- `XADD` (R147): Shank scalar add. -/
  | xadd (b : Fin 16) (f : ShSv)
  /-- `XSUB` (R147): Shank scalar subtract. -/
  | xsub (b : Fin 16) (f : ShSv)
  /-- `XADDI` (R147): Shank scalar add of an immediate. -/
  | xaddi (b : Fin 16) (f : ShSx)
  /-- `XLD` (R147): Shank scalar load. -/
  | xld (b : Fin 16) (f : ShSx)
  /-- `XST` (R147): Shank scalar store. -/
  | xst (b : Fin 16) (f : ShSx)
  /-- `XSTAT` (R147): Read SH_STAT into a scalar. -/
  | xstat (b : Fin 16) (f : ShSx)
  /-- `SLOOP` (R147): Shank hardware loop. -/
  | sloop (b : Fin 16) (f : ShSx)
  /-- `SBNZ` (R147): Shank branch if not zero. -/
  | sbnz (b : Fin 16) (f : ShSx)
  /-- `SJ` (R147): Shank unconditional branch. -/
  | sj (b : Fin 16) (f : ShSx)
  /-- `SEND` (R147): Complete the Shank task once its writes are visible. -/
  | send (b : Fin 16) (f : ShSx)
  /-- `LLD` (R147): Long-vector contiguous load. -/
  | lld (b : Fin 16) (f : ShSv)
  /-- `LST` (R147): Long-vector contiguous store. -/
  | lst (b : Fin 16) (f : ShSv)
  /-- `LLDS` (R147): Long-vector strided row load. -/
  | llds (b : Fin 16) (f : ShSv)
  /-- `LSTS` (R147): Long-vector strided row store. -/
  | lsts (b : Fin 16) (f : ShSv)
  /-- `LLDH` (R149): Hermitian-transpose block load. -/
  | lldh (b : Fin 16) (f : ShSv)
  /-- `LDUP` (R147): Broadcast one element to a long vector. -/
  | ldup (b : Fin 16) (f : ShSv)
  /-- `LMLEN` (R147): Set a mask from a length. -/
  | lmlen (b : Fin 16) (f : ShSv)
  /-- `LMLD` (R147): Load a mask from memory. -/
  | lmld (b : Fin 16) (f : ShSv)
  /-- `LADD` (R147): Long-vector add. -/
  | ladd (b : Fin 16) (f : ShSv)
  /-- `LSUB` (R147): Long-vector subtract. -/
  | lsub (b : Fin 16) (f : ShSv)
  /-- `LCMUL` (R147): Long-vector complex multiply. -/
  | lcmul (b : Fin 16) (f : ShSv)
  /-- `LCMULJ` (R147): Long-vector multiply by a conjugate. -/
  | lcmulj (b : Fin 16) (f : ShSv)
  /-- `LCONJ` (R147): Long-vector conjugate. -/
  | lconj (b : Fin 16) (f : ShSv)
  /-- `LCVT` (R147): Long-vector type conversion. -/
  | lcvt (b : Fin 16) (f : ShSv)
  /-- `LRSQ` (R147): Long-vector reciprocal square root of the real part. -/
  | lrsq (b : Fin 16) (f : ShSv)
  /-- `LFCMA` (R147): Long-vector fused complex multiply-add. -/
  | lfcma (b : Fin 16) (f : ShSv)
  /-- `LCMAC` (R147): Long accumulator complex MAC. -/
  | lcmac (b : Fin 16) (f : ShSv)
  /-- `LCMACJ` (R147): Long accumulator complex MAC with a conjugate. -/
  | lcmacj (b : Fin 16) (f : ShSv)
  /-- `LCMSC` (R147): Long accumulator complex multiply-subtract. -/
  | lcmsc (b : Fin 16) (f : ShSv)
  /-- `LMV16` (R148): 16 by 16 matrix-vector product accumulate. -/
  | lmv16 (b : Fin 16) (f : ShSv)
  /-- `LMV8` (R148): 8 by 8 block matrix-vector product accumulate. -/
  | lmv8 (b : Fin 16) (f : ShSv)
  /-- `LACCZ` (R147): Zero the active long accumulator lanes. -/
  | laccz (b : Fin 16) (f : ShSv)
  /-- `LACCX` (R147): Extract a long accumulator to ci16. -/
  | laccx (b : Fin 16) (f : ShSv)
  /-- `LCHOL` (R150): One Cholesky step in place. -/
  | lchol (b : Fin 16) (f : ShSv)
  /-- `SHANK_RESUME` (R151): A write of RESUME re-executes the faulting instruction from LEIX. -/
  | shankResume (b : Fin 16)
  /-- `CMA_SEGMENT_START` (R187): At a segment start the shell demand-loads and prefetches weight sets. -/
  | cmaSegmentStart (b : Fin 16)
  /-- `CMA_VECTOR_EXIT` (R188): A vector leaves the array, and its outputs, quality byte, pilot error and drift count are written. -/
  | cmaVectorExit (b : Fin 16) (ev : PilotRead)
  /-- `CMA_LOAD_COMPLETE` (R180): A weight-set load ends, and the bank's WSID is set or invalidated. -/
  | cmaLoadComplete (b : Fin 16) (err : Option Status) (stall : W32)
  /-- `CMA_JOB_COMPLETE` (R189): The last vector of a job leaves, or the job stops, and the result record and completion are written. -/
  | cmaJobComplete (b : Fin 16)
  /-- `CMA_BAND_SAMPLE` (R193): Every 10 us the bench IVR current is sampled, and the load band may change. -/
  | cmaBandSample (b : Fin 16) (cur : Fin 256)
  /-- `CMA_BG_CAL_STEP` (R194): A background calibration step ends, and a completed pass writes the band's record. -/
  | cmaBgCalStep (b : Fin 16) (err : Fin 256)
  /-- `CMA_FULL_CAL_START` (R192): A pending full calibration starts once no task is running. -/
  | cmaFullCalStart (b : Fin 16)
  /-- `CMA_FULL_CAL_END` (R202): A full calibration's check ends, and the array moves to READY, repeats, or becomes FAILED. -/
  | cmaFullCalEnd (b : Fin 16) (ev : W16) (trim : Fin 1001)
  /-- `CMA_CAL_START_BIT` (R203): A write of SHELL_CTL.CAL_START requests a full calibration. -/
  | cmaCalStartBit (w : Writer) (b : Fin 16)
  /-- `CMA_SHELL_INJ_ARM` (R203): A write of ARM arms the selected beam-array injection. -/
  | cmaShellInjArm (w : Writer) (b : Fin 16)
  /-- `CMA_SPARE_PRELOAD` (R198): The spare array is preloaded from the drifting array's banks once its running task completes. -/
  | cmaSparePreload (b : Fin 16)
  /-- `CMA_STATUS` (R204): Command that replies with the beam-array status registers. -/
  | cmaStatus (q : Req)
  /-- `CMA_CALIBRATE` (R205): Command that requests a full calibration of an array. -/
  | cmaCalibrate (q : Req)
  /-- `CMA_CONFIG` (R206): Command that sets band, drift, calibration and background settings of arrays. -/
  | cmaConfig (q : Req)
  /-- `CMA_PRELOAD` (R207): Command that loads a weight set into a bank that is not in service. -/
  | cmaPreload (q : Req)
  /-- `CMA_SERVICE` (R208): Command that excludes an array from placement or restores it. -/
  | cmaService (q : Req)
  /-- `FFT_OFDM_RX` (R212): FFT job in OFDM_RX mode completes, with its symbols transformed and the result record written. -/
  | fftOfdmRx (b : Fin 16) (i : Fin 2) (err : Option (Fin 14 × Status))
  /-- `FFT_OFDM_TX` (R212): FFT job in OFDM_TX mode completes. -/
  | fftOfdmTx (b : Fin 16) (i : Fin 2) (err : Option (Fin 14 × Status))
  /-- `FFT_DFT` (R209): FFT job in DFT mode completes. -/
  | fftDft (b : Fin 16) (i : Fin 2) (err : Option (Fin 14 × Status))
  /-- `FFT_IDFT` (R209): FFT job in IDFT mode completes. -/
  | fftIdft (b : Fin 16) (i : Fin 2) (err : Option (Fin 14 × Status))
  /-- `FFT_PRACH` (R216): FFT job in PRACH mode completes. -/
  | fftPrach (b : Fin 16) (i : Fin 2) (err : Option (Fin 14 × Status))
  /-- `FFT_RAW` (R209): FFT job in FFT_RAW mode completes. -/
  | fftRaw (b : Fin 16) (i : Fin 2) (err : Option (Fin 14 × Status))
  /-- `IFFT_RAW` (R209): FFT job in IFFT_RAW mode completes. -/
  | ifftRaw (b : Fin 16) (i : Fin 2) (err : Option (Fin 14 × Status))
  /-- `FFT_CONVERT` (R209): FFT job in CONVERT mode completes. -/
  | fftConvert (b : Fin 16) (i : Fin 2) (err : Option (Fin 14 × Status))
  /-- `LDEC_COMPLETE` (R226): An LDPC decode job ends, and its result record is written. -/
  | ldecComplete (h : Fin 2) (i : Fin 12) (err : Option Status)
  /-- `LENC_COMPLETE` (R228): An LDPC encode job ends. -/
  | lencComplete (h : Fin 2) (i : Fin 4) (err : Option Status)
  /-- `PDEC_COMPLETE` (R230): A polar decode job ends. -/
  | pdecComplete (h : Fin 2) (i : Fin 4) (err : Option Status)
  /-- `PENC_COMPLETE` (R230): A polar encode job ends. -/
  | pencComplete (h : Fin 2) (i : Fin 4) (err : Option Status)
  /-- `TDEC_COMPLETE` (R232): A turbo decode job ends. -/
  | tdecComplete (h : Fin 2) (i : Fin 8) (err : Option Status)
  /-- `TENC_COMPLETE` (R232): A turbo encode job ends. -/
  | tencComplete (h : Fin 2) (i : Fin 2) (err : Option Status)
  /-- `DEMATCH_COMPLETE` (R234): A rate-dematch job ends. -/
  | dematchComplete (h : Fin 2) (i : Fin 8) (err : Option Status)
  /-- `MATCH_COMPLETE` (R234): A rate-match job ends. -/
  | matchComplete (h : Fin 2) (i : Fin 8) (err : Option Status)
  /-- `HC_NEW_COMPLETE` (R237): A HARQ NEW job ends and releases its buffer lock. -/
  | hcNewComplete (h : Fin 2) (i : Fin 4) (err : Option Status)
  /-- `HC_COMBINE_COMPLETE` (R237): A HARQ COMBINE job ends and releases its buffer lock. -/
  | hcCombineComplete (h : Fin 2) (i : Fin 4) (err : Option Status)
  /-- `HC_READ_COMPLETE` (R237): A HARQ READ job ends and releases its buffer lock. -/
  | hcReadComplete (h : Fin 2) (i : Fin 4) (err : Option Status)
  /-- `HC_LOCK_ACQUIRE` (R238): A HARQ job waiting on a locked buffer or a full lock table takes the lock and starts. -/
  | hcLockAcquire (h : Fin 2) (i : Fin 4)
  /-- `Q_HDR_WRITE` (R246): A header arrives at a queue and is checked, reserved, held or refused. -/
  | qHdrWrite (b : Fin 16) (q : Fin 64) (src : Producer) (hdr : BitVec 64) (parityBad : Bool)
  /-- `Q_HELD_HEADER_ACCEPT` (R247): A held header is accepted once releases have freed enough space. -/
  | qHeldHeaderAccept (b : Fin 16) (q : Fin 64)
  /-- `Q_PUSH_WORD` (R250): A payload word arrives, extending the open packet or counting as an orphan. -/
  | qPushWord (b : Fin 16) (q : Fin 64) (src : Producer) (word : TWord) (parityBad : Bool)
  /-- `Q_ABORT_WRITE` (R250): A write to ABORT truncates the open packet. -/
  | qAbortWrite (b : Fin 16) (q : Fin 64) (src : Producer)
  /-- `Q_POP_READ` (R249): A PORT-mode pop reads and frees words, or is answered BUSY. -/
  | qPopRead (b : Fin 16) (q : Fin 64) (n : Fin 257) (parityBad : List Nat)
  /-- `Q_RELEASE_WRITE` (R251): A write of n to Q_RELEASE frees the oldest complete packets in INPLACE mode. -/
  | qReleaseWrite (b : Fin 16) (q : Fin 64) (n : Fin 65536)
  /-- `Q_PKT_TIMEOUT` (R250): PKT_TMO ticks pass with no payload word, and the open packet is truncated. -/
  | qPktTimeout (b : Fin 16) (q : Fin 64)
  /-- `Q_FLUSH` (R256): A write of FLUSH to a disabled queue empties it. -/
  | qFlush (b : Fin 16) (q : Fin 64)
  /-- `Q_XCNT_READ` (R255): A read of Q_XCNT returns the crossing count and clears it. -/
  | qXcntRead (b : Fin 16) (q : Fin 64)
  /-- `Q_INJ_ARM` (R256): A write of PAR arms a parity injection after SKIP words. -/
  | qInjArm (w : Writer) (b : Fin 16) (q : Fin 64) (skip : Fin 65536)
  /-- `QUEUE_CONFIG` (R264): Commit that stages a queue's configuration for a boundary. -/
  | queueConfig (q : Req)
  /-- `QUEUE_STATUS` (R265): Command that replies with a queue's status registers. -/
  | queueStatus (q : Req)
  /-- `HBM_PARTITION` (R266): Commit that replaces the HBM partition table at a boundary. -/
  | hbmPartition (q : Req)
  /-- `HBM_READ` (R260): An HBM read is checked by the controller code and on-die ECC. -/
  | hbmRead (a : Fin 34359738368) (n : Fin 33) (ondieCe : Nat) (ondieUe : Bool)
  /-- `HBM_WRITE` (R260): An HBM write, with read-modify-write for partial lines. -/
  | hbmWrite (a : Fin 34359738368) (data : List Byte) (poison : Bool)
  /-- `BAR2_WRITE` (R263): A host BAR2 write to HBM drops the bytes that lie in PATTERN regions. -/
  | bar2Write (a : Fin 34359738368) (data : List Byte) (poison : Bool)
  /-- `HBM_SCRUB` (R261): The patrol scrubber reads and corrects HBM words. -/
  | hbmScrub (a : Fin 34359738368)
  /-- `PATTERN_LOAD` (R308): Command that reads, checks and stores a pattern image. -/
  | patternLoad (q : Req)
  /-- `PATTERN_IMAGE_READ_DONE` (R271): The image read ends, and the pattern is checked and stored or refused. -/
  | patternImageReadDone (i : Fin 1024) (ov : Option (Status × List TWord))
  /-- `PATTERN_UNLOAD` (R309): Command that frees a loaded pattern. -/
  | patternUnload (q : Req)
  /-- `PATTERN_STATUS` (R310): Command that replies with a pattern's state and load units. -/
  | patternStatus (q : Req)
  /-- `SLOTREQ_RING_CONFIG` (R311): Command that enables or disables a slot-request ring. -/
  | slotreqRingConfig (q : Req)
  /-- `CORD_STATUS` (R312): Command that replies with the Cordwainer status registers. -/
  | cordStatus (q : Req)
  /-- `CELL_START` (R306): Commit that creates a cell with admission and returns its handle. -/
  | cellStart (q : Req)
  /-- `CELL_STOP` (R307): Commit that stops a cell's instantiation at a boundary. -/
  | cellStop (q : Req)
  /-- `SR_TAIL_WRITE` (R283): The host rings a slot-request ring by writing its tail. -/
  | srTailWrite (r : Fin 64) (v : W32)
  /-- `INSTANTIATE` (R275): At tick I the Cordwainer binds a slot request and begins creating the slot's instance. -/
  | instantiate
  /-- `INSTANCE_CREATED` (R276): The last descriptor of an instance is written, and its tasks are evaluated. -/
  | instanceCreated
  /-- `DELAY_RELEASE` (R288): At a tick edge up to 512 delayed tasks move to READY, and the rest carry over. -/
  | delayRelease
  /-- `TASK_COMPLETION` (R286): A completion reaches the Cordwainer, updating successors and instance counts. -/
  | taskCompletion
  /-- `DISPATCH_GRANT` (R292): A free staging slot is granted the highest-ranked eligible task that placement permits. -/
  | dispatchGrant (x : Site)
  /-- `ERASE_DONE` (R297): A skipped task's erase regions have been written with poison, and it completes PARTIAL. -/
  | eraseDone (i : Fin 131072) (tmo : Option (Bool × Nat))
  /-- `NOTIFY_TASK_START` (R299): A notify engine starts a NOTIFY task and sends its event and remote completion. -/
  | notifyTaskStart (n : Fin 4) (ov : Option (Status × List TWord))
  /-- `NOTIFY_ACK_RX` (R302): The acknowledgement of a remote completion arrives, and the NOTIFY task completes. -/
  | notifyAckRx (dev : W16) (result : Fin 4) (seq : W32)
  /-- `NOTIFY_ACK_TIMEOUT` (R302): No acknowledgement arrives in the remote timeout, and the task completes REMOTE_UNREACHABLE. -/
  | notifyAckTimeout (seq : W32)
  /-- `REMOTE_COMPLETION_RX` (R301): A remote completion is applied, held early, or discarded, and acknowledged. -/
  | remoteCompletionRx (src : W16) (cell : W16) (rtick : W32) (tmpl : Fin 2048) (g : Fin 3) (seq : W32)
  /-- `EARLY_ENTRY_EXPIRE` (R301): An early entry's RTICK is reached with no instance, and it is discarded as an orphan. -/
  | earlyEntryExpire
  /-- `DEADLINE_CHECK` (R320): Each tick up to 1,024 tasks past their deadlines receive late actions, and the rest carry over. -/
  | deadlineCheck
  /-- `GV_LOAD_UPDATE` (R329): Every 64 ticks the bench and coding-half load averages update. -/
  | gvLoadUpdate (busy : List Nat)
  /-- `LOOKAHEAD_RECOMPUTE` (R334): Every tick each bench's next-due tick is recomputed. -/
  | lookaheadRecompute
  /-- `SPARE_DESIGNATE_STARTUP` (R332): Once every array has ended its first calibration, the governor designates the spare arrays. -/
  | spareDesignateStartup
  /-- `GOV_POLICY_SET` (R338): Commit that replaces the governor policy at a boundary. -/
  | govPolicySet (q : Req)
  /-- `PLACE_EXCLUDE` (R339): Command that adds or removes the host's placement exclusions. -/
  | placeExclude (q : Req)
  /-- `GOV_STATUS` (R340): Command that replies with capacities, commitments, spares and bands. -/
  | govStatus (q : Req)
  /-- `GOV_CELL_STATS` (R341): Command that replies with a cell's miss counters and its largest loads. -/
  | govCellStats (q : Req)
  /-- `NI_REQUEST_SEND` (R353): A source NI checks and resolves a request and sends it or answers it itself. -/
  | niRequestSend (n : Fin 40) (vn : Fin 4) (kind : Fin 4) (fc : Bool) (a : BitVec 45) (len : Fin 64) (words : List TWord)
  /-- `ROUTER_PACKET_RX` (R347): A router receives a packet, checks its ECC and forwards, holds or discards it. -/
  | routerPacketRx (k : Fin 38) (ce : Fin 41) (headUe : Bool) (payUe : W32)
  /-- `NI_RESPONSE_RX` (R357): A response reaches its initiator's NI and is delivered, or discarded as late. -/
  | niResponseRx (n : Fin 40)
  /-- `NI_TIMEOUT` (R356): An outstanding request's timer expires, and the initiator receives TIMEOUT. -/
  | niTimeout (n : Fin 40) (slot : Fin 256)
  /-- `NI_TOKEN_RELEASE` (R355): A packet waiting for rate tokens leaves once the bucket holds enough. -/
  | niTokenRelease (n : Fin 40) (vn : Fin 4) (cycles : Fin 65536)
  /-- `ROUTE_ENTRY_COMMIT` (R354): A write to word 0 of a route-table entry commits the whole entry. -/
  | routeEntryCommit (w : Writer) (n : Fin 40) (e : Fin 256) (v : W32)
  /-- `FENCE_REQUEST` (R359): REQ is set for a domain, and draining begins. -/
  | fenceRequest (d : Fin 39)
  /-- `FENCE_DRAIN_END` (R359): A domain's outstanding requests reach zero, and FENCE messages are sent. -/
  | fenceDrainEnd (d : Fin 37)
  /-- `FENCE_MSG_RX` (R359): An NI receives a FENCE message, marks its entries and acknowledges. -/
  | fenceMsgRx (n : Fin 40) (d : Fin 37)
  /-- `FENCE_ACK_RX` (R359): A fence acknowledgement arrives, and the last one completes the fence. -/
  | fenceAckRx (n : Fin 40) (d : Fin 37)
  /-- `FENCE_TIMEOUT` (R361): A fence does not complete within FENCE_TMO and fails back to OPEN. -/
  | fenceTimeout (d : Fin 37)
  /-- `UNFENCE_START` (R362): A fenced domain leaves FENCED, reloads its entries and delivers its held packets. -/
  | unfenceStart (d : Fin 37)
  /-- `UNFENCE_MSG_RX` (R362): An NI receives UNFENCE, clears the domain's entries and acknowledges. -/
  | unfenceMsgRx (n : Fin 40) (d : Fin 37)
  /-- `WB_EXPIRE` (R364): A packet held in a wake buffer longer than WB_TMO is answered FENCED. -/
  | wbExpire (d : Fin 39)
  /-- `RT_RCFG_GO` (R365): A write of GO starts a port reconfiguration with QUIESCE. -/
  | rtRcfgGo (w : Writer) (k : Fin 38) (v : W32)
  /-- `RC_APPLY` (R365): The named ports hold no partial packets, and the change is applied. -/
  | rcApply (k : Fin 38)
  /-- `RC_QUIESCE_TIMEOUT` (R365): Quiesce exceeds 1 us, and the reconfiguration aborts. -/
  | rcQuiesceTimeout (k : Fin 38)
  /-- `RC_PORT_WAIT_TIMEOUT` (R366): A packet waits 1 us at a quiesced port and is discarded. -/
  | rcPortWaitTimeout (k : Fin 38)
  /-- `NI_INJ_TMO` (R368): A write of NI_INJ.TMO arms a forced request timeout. -/
  | niInjTmo (w : Writer) (n : Fin 40)
  /-- `RT_INJ_ARM` (R570): A write of RT_INJ.ARM arms a link ECC corruption of the next flit. -/
  | rtInjArm (w : Writer) (k : Fin 38) (port : Fin 16) (ue : Bool)
  /-- `LANE_CONFIG` (R395): Command that sets the role, rate and training settings of lanes. -/
  | laneConfig (q : Req)
  /-- `LANE_STATUS` (R396): Command that replies with a lane's status. -/
  | laneStatus (q : Req)
  /-- `LANE_RETRAIN` (R397): Command that restarts training of lanes. -/
  | laneRetrain (q : Req)
  /-- `LANE_RETRAIN_BIT` (R394): A write of SHELL_CTL.RETRAIN restarts a lane's training. -/
  | laneRetrainBit (w : Writer) (n : Fin 256)
  /-- `LANE_TEST` (R398): Command that configures a lane's generator, checker, loopback and injector. -/
  | laneTest (q : Req)
  /-- `LANE_TEST_READ` (R399): Command that replies with a lane's checker counts. -/
  | laneTestRead (q : Req)
  /-- `REFCLK_CONFIG` (R400): Command that declares reference frequencies and recovered-clock sources. -/
  | refclkConfig (q : Req)
  /-- `QUAD_REF` (R401): Command that selects a quad's reference. -/
  | quadRef (q : Req)
  /-- `LOS_CHANGE` (R381): A lane's loss-of-signal detector asserts or clears, acting by lane state. -/
  | losChange (n : Fin 256) (on : Bool)
  /-- `LOL_CHANGE` (R381): A lane's loss-of-lock detector asserts or clears, acting by lane state. -/
  | lolChange (n : Fin 256) (on : Bool)
  /-- `TRAINING_PHASE_PASS` (R383): A lane meets its current training phase condition and advances, reaching UP after HANDSHAKE. -/
  | trainingPhasePass (n : Fin 256) (freq : W32) (eqv : List W16) (skew : Bool) (sync : List Block)
  /-- `TRAINING_PHASE_TIMEOUT` (R384): A training phase times out, and the lane goes to BACKOFF or NO_PARTNER. -/
  | trainingPhaseTimeout (n : LanePhase)
  /-- `BACKOFF_END` (R384): A lane's backoff wait ends, and a new attempt starts. -/
  | backoffEnd (n : Fin 256)
  /-- `NO_PARTNER_RETRY` (R384): The NO_PARTNER retry timer expires, and a new attempt starts. -/
  | noPartnerRetry (n : Fin 256)
  /-- `EQ_BG_STEP` (R385): Background equaliser adaptation steps a tap. -/
  | eqBgStep (n : Fin 256) (item : Fin 13) (v : W16)
  /-- `EI_ENTRY` (R387): A Lace lane enters electrical idle at the link layer's request. -/
  | eiEntry (n : Fin 256)
  /-- `EI_EXIT_REQUEST` (R388): The link layer requests exit from electrical idle, and the burst and SYNC64 are sent. -/
  | eiExitRequest (n : Fin 256)
  /-- `EI_EXIT_COMPLETE` (R388): The receiver delivers the first block after exit, and the lane returns to UP. -/
  | eiExitComplete (n : Fin 256)
  /-- `EI_SYNC64_MISSING` (R384): SYNC64 is not found within 256 UI of exit detection, and the lane retrains. -/
  | eiSync64Missing (n : Fin 256)
  /-- `TRACK_HOLD` (R375): A recovered-clock track's source lane fails, and the track holds its frequency. -/
  | trackHold (t : Fin 4)
  /-- `TRACK_HOLD_RELEASE` (R375): The source lane has been UP for 1 s, and the track slews back. -/
  | trackHoldRelease (t : Fin 4)
  /-- `CHECKER_LOCK_LOSS` (R390): More than 16 errors in 64 bits drop the pattern checker's lock. -/
  | checkerLockLoss (n : Fin 256) (bits : List Bool)
  /-- `LANE_INJGO` (R391): A write of INJGO starts bit-error injection. -/
  | laneInjgo (w : Writer) (n : Fin 256)
  /-- `LANE_SHELL_INJ_ARM` (R394): A write of ARM forces a lane's LOS or LOL detector for DUR. -/
  | laneShellInjArm (w : Writer) (n : Fin 256) (kind : Fin 4) (dur : Fin 65536)
  /-- `QUAD_SHELL_INJ_ARM` (R570): A write of ARM forces a quad PLL's lock output false. -/
  | quadShellInjArm (w : Writer) (q : Fin 64) (kind : Fin 4) (dur : Fin 65536)
  /-- `PLL_UNLOCK` (R394): A quad PLL loses lock, taking its lanes through LOL. -/
  | pllUnlock (q : Fin 64) (pll : Fin 2) (regained : Bool)
  /-- `REF_LOSS` (R394): A quad's reference is lost. -/
  | refLoss (q : Fin 64) (regained : Bool)
  /-- `FH_MAC_CONFIG` (R431): Command that configures a MAC. -/
  | fhMacConfig (q : Req)
  /-- `FH_MAC_STATUS` (R432): Command that replies with a MAC's status and events. -/
  | fhMacStatus (q : Req)
  /-- `FH_FLOW_CONFIG` (R433): Commit that stages a fronthaul flow entry. -/
  | fhFlowConfig (q : Req)
  /-- `FH_FLOW_STATUS` (R434): Command that replies with a flow's counts. -/
  | fhFlowStatus (q : Req)
  /-- `PTP_CONFIG` (R435): Command that sets the PTP profile, role and ports. -/
  | ptpConfig (q : Req)
  /-- `SYNCE_OUT_CONFIG` (R436): Command that sets the SyncE output frequencies. -/
  | synceOutConfig (q : Req)
  /-- `PIN_CONFIG` (R437): Command that sets the GPIO modes and FC pin levels. -/
  | pinConfig (q : Req)
  /-- `ETH_FRAME_RX` (R407): A received frame is checked, timestamped, classified and delivered to a queue or jitter buffer, or discarded. -/
  | ethFrameRx (m : Fin 128) (f : EthFrame)
  /-- `PFC_FRAME_RX` (R404): A received PFC frame holds a priority for its quanta. -/
  | pfcFrameRx (m : Fin 128) (prio : Fin 8) (quanta : Fin 65536)
  /-- `PAUSE_FRAME_RX` (R404): A received PAUSE frame is honoured. -/
  | pauseFrameRx (m : Fin 128) (quanta : Fin 65536)
  /-- `PFC_HOLD_EXPIRY` (R404): A PFC or PAUSE hold's quanta run out, and transmission of that priority resumes. -/
  | pfcHoldExpiry (m : Fin 128) (prio : Fin 9)
  /-- `PFC_REPEAT` (R404): While XOFF lasts a PFC is resent every PQ/2 quanta. -/
  | pfcRepeat (m : Fin 128) (prio : Fin 8)
  /-- `ECPRI_DMR_RX` (R406): An eCPRI delay-measurement request is answered in hardware. -/
  | ecpriDmrRx (m : Fin 128) (sa : BitVec 48) (id : Byte) (rx tx : BitVec 64)
  /-- `FHRX_JOB_START` (R413): An FHRX job starts counting the sections of its symbols. -/
  | fhrxJobStart (m : Fin 128)
  /-- `FHRX_COMPLETE` (R413): An FHRX job completes by count or at close, poisoning missing PRBs. -/
  | fhrxComplete (m : Fin 128) (i : Fin 131072)
  /-- `FHTX_JOB_START` (R414): An FHTX job starts and builds its frames. -/
  | fhtxJobStart (m : Fin 128)
  /-- `FHTX_FRAME_ELIGIBLE` (R415): A symbol's frames become eligible at the later of job start and OPEN and are queued. -/
  | fhtxFrameEligible (m : Fin 128) (i : Fin 131072) (l : Fin 14)
  /-- `FHTX_FRAME_SENT` (R415): A transmit frame has left the line. -/
  | fhtxFrameSent (m : Fin 128)
  /-- `FHTX_CLOSE_EXPIRE` (R415): CLOSE passes, and unsent frames are discarded and the job completes. -/
  | fhtxCloseExpire (m : Fin 128) (i : Fin 131072) (l : Fin 14)
  /-- `PPS_OUT_PULSE` (R420): PPS_OUT rises at a whole second for 100 us. -/
  | ppsOutPulse
  /-- `TOD_TX_SEND` (R420): 100 ms after each edge a time-of-day message is sent. -/
  | todTxSend
  /-- `FC_IN_CHANGE` (R429): An FC_IN pin changes level, holding or releasing its TX flows. -/
  | fcInChange (k : Fin 8) (level : Bool)
  /-- `GPIO_EDGE` (R429): An edge on an EVENT-mode GPIO raises GPIO_EDGE. -/
  | gpioEdge (k : Fin 16) (level : Bool)
  /-- `GPIO_MARK_PULSE` (R429): A MARK-mode GPIO pulses at a frame or slot boundary plus an offset. -/
  | gpioMarkPulse (k : Fin 16)
  /-- `PCIE_SQ_DOORBELL` (R424): A write of SQ_TAIL posts new submission entries. -/
  | pcieSqDoorbell (p : Fin 64) (tail : Fin 8192)
  /-- `PENNANT_SQ_ENTRY` (R486): The device reads a Pennant SQ entry, checks it, and fetches the packet. -/
  | pennantSqEntry (p : Fin 8) (e : List W32) (readErr : Bool)
  /-- `HOST_DMA_ENTRY` (R424): The device reads a host DMA SQ entry and starts the transfer. -/
  | hostDmaEntry (p : Fin 64) (e : List W32)
  /-- `HOST_DMA_COMPLETE` (R424): A host DMA transfer ends, and its CQ entry is written. -/
  | hostDmaComplete (p : Fin 64) (data : List Byte)
  /-- `QP_ENABLE` (R424): EN goes from 0 to 1, resetting the ring counts. -/
  | qpEnable (p : Fin 64) (log2n : Fin 16)
  /-- `QP_DISABLE` (R424): EN goes from 1 to 0, stopping entry reads and CQ writes. -/
  | qpDisable (p : Fin 64)
  /-- `CQ_HEAD_WRITE` (R424): The host writes CQ_HEAD, freeing completion entries. -/
  | cqHeadWrite (p : Fin 64) (head : Fin 8192)
  /-- `PCIE_FLR` (R426): A function-level reset resets the PCIe function and its queues without touching the data plane. -/
  | pcieFlr
  /-- `PCIE_EP_WRITE_RX` (R423): A received write with EP set stores the poison code. -/
  | pcieEpWriteRx (a : BitVec 45) (words : List W64)
  /-- `I3C_PRIVATE_WRITE` (R489): A private write carries one Pennant command packet, or is NACKed. -/
  | i3cPrivateWrite (p : Packet)
  /-- `I3C_PRIVATE_READ` (R489): A private read returns the pending reply or the oldest event. -/
  | i3cPrivateRead
  /-- `I3C_ENTDAA` (R427): CCC ENTDAA: dynamic address assignment. -/
  | i3cEntdaa (addr : Fin 128)
  /-- `I3C_SETDASA` (R427): CCC SETDASA: set the dynamic address from the static address. -/
  | i3cSetdasa (static_ dyn : Fin 128)
  /-- `I3C_RSTDAA` (R427): CCC RSTDAA: reset the dynamic address. -/
  | i3cRstdaa
  /-- `I3C_GETPID` (R427): CCC GETPID. -/
  | i3cGetpid
  /-- `I3C_GETBCR` (R427): CCC GETBCR. -/
  | i3cGetbcr
  /-- `I3C_GETDCR` (R427): CCC GETDCR. -/
  | i3cGetdcr
  /-- `I3C_GETSTATUS` (R427): CCC GETSTATUS. -/
  | i3cGetstatus
  /-- `I3C_ENEC` (R427): CCC ENEC: enable target events. -/
  | i3cEnec (events : Byte)
  /-- `I3C_DISEC` (R427): CCC DISEC: disable target events. -/
  | i3cDisec (events : Byte)
  /-- `I3C_SETMWL` (R427): CCC SETMWL. -/
  | i3cSetmwl (n : Fin 65536)
  /-- `I3C_SETMRL` (R427): CCC SETMRL. -/
  | i3cSetmrl (n : Fin 65536)
  /-- `I3C_GETMWL` (R427): CCC GETMWL. -/
  | i3cGetmwl
  /-- `I3C_GETMRL` (R427): CCC GETMRL. -/
  | i3cGetmrl
  /-- `I3C_RSTACT` (R427): CCC RSTACT. -/
  | i3cRstact (action : Byte)
  /-- `LACE_PORT_CONFIG` (R468): Command that configures a Lace port. -/
  | lacePortConfig (q : Req)
  /-- `LACE_JOIN` (R469): Command that joins the domain and splices bypass groups. -/
  | laceJoin (q : Req)
  /-- `LACE_LEAVE` (R470): Command that leaves groups or the domain. -/
  | laceLeave (q : Req)
  /-- `LACE_STATUS` (R471): Command that replies with domain and port status. -/
  | laceStatus (q : Req)
  /-- `LACE_ROUTE_SET` (R472): Command that writes a remote route entry. -/
  | laceRouteSet (q : Req)
  /-- `LACE_EXPORT_SET` (R473): Command that sets an export window. -/
  | laceExportSet (q : Req)
  /-- `LACE_TRANSIT_SET` (R474): Command that sets or clears bits of a ring transit map. -/
  | laceTransitSet (q : Req)
  /-- `LACE_DOMAIN_COMMIT` (R475): Command that applies an inner commit on a set of devices at one boundary. -/
  | laceDomainCommit (q : Req)
  /-- `LACE_MASTHEAD_HANDOVER` (R476): Command that hands the masthead role to the designated standby. -/
  | laceMastheadHandover (q : Req)
  /-- `LACE_MASTHEAD_DESIGNATE` (R476): Command that designates the standby masthead. -/
  | laceMastheadDesignate (q : Req)
  /-- `HSK_RX` (R443): A handshake block is received and completes or fails the link handshake. -/
  | hskRx (p : Fin 32) (b : Block)
  /-- `HSK_SEND_TIMER` (R443): Every 1 us during the handshake an HSK block is sent. -/
  | hskSendTimer (p : Fin 32)
  /-- `FLIT_RX` (R447): A FLIT block is received and accepted in sequence, or discarded with a NAK. -/
  | flitRx (p : Fin 32) (seq : Fin 256) (b : Block)
  /-- `LCTL_RX` (R446): A link-control block returns acknowledgements and credits, or requests a replay. -/
  | lctlRx (p : Fin 32) (b : Block)
  /-- `LCTL_SEND_TIMER` (R446): An LCTL is sent after 32 FLIT blocks or 1 us with credits held. -/
  | lctlSendTimer (p : Fin 32)
  /-- `REPLAY_TIMEOUT` (R447): No LCTL arrives for 4 us with blocks outstanding, and all are replayed. -/
  | replayTimeout (p : Fin 32)
  /-- `LACE_LINK_LOSS` (R448): Invalid blocks, missing markers or replay exhaustion lose the link, and the lanes retrain. -/
  | laceLinkLoss (p : LinkLoss)
  /-- `MARKER_RX` (R462): A marker is received, updating epoch, Hoist time error and heartbeat. -/
  | markerRx (p : Fin 32) (b : Block) (stamp : BitVec 64)
  /-- `EIE_RX` (R457): An EIE block announces electrical idle or a LEAVE by the partner. -/
  | eieRx (p : Fin 32) (b : Block)
  /-- `EI_IDLE_TIMER` (R449): After 2 us with nothing to send, a port announces and enters electrical idle. -/
  | eiIdleTimer (p : Fin 32)
  /-- `REMOTE_PACKET_RX` (R452): A remote packet received on a Lace port is delivered, transited, forwarded or answered. -/
  | remotePacketRx (p : Fin 32)
  /-- `SPLICE` (R456): A bypass group opens its switch at a marker boundary and splices into the ring. -/
  | splice (k : Fin 4) (west east : Fin 256)
  /-- `SPLICE_TIMEOUT` (R456): A splice does not reach UP within 20 us, and the switch closes again. -/
  | spliceTimeout (k : Fin 4)
  /-- `BYPASS_CLOSE_LEAVE` (R457): After LEAVE, the switch closes at the next marker boundary. -/
  | bypassCloseLeave (k : Fin 4)
  /-- `MH_FAILOVER` (R458): The standby sees the heartbeat unchanged for 3 marker periods and takes over as masthead. -/
  | mhFailover
  /-- `HOIST_LOST` (R463): Hoist markers are missing for 3 periods, and the Hoist reference is lost. -/
  | hoistLost
  /-- `HOIST_ALIGN_STEP` (R464): With TSET, once the Hoist qualifies, firmware issues an ALIGN time step. -/
  | hoistAlignStep
  /-- `JOIN_REQUEST_RX` (R439): The masthead grants or refuses a joining device's requested ID. -/
  | joinRequestRx (want : Fin 65536) (standby : Bool) (gone : List (Fin 65536))
  /-- `PREPARE_RX` (R465): A target checks and stages a domain commit's inner command and replies. -/
  | prepareRx (inner : List W32)
  /-- `DOMAIN_COMMIT_DECISION` (R465): The masthead sends CONFIRM or ABORT once all replies arrive or B minus CONF_LEAD passes. -/
  | domainCommitDecision (stream : Fin 11) (replies : List (Fin 65536 × Status))
  /-- `CONFIRM_RX` (R465): A target receives CONFIRM and will apply its staging at B. -/
  | confirmRx (op : Fin 65536) (tag : BitVec 16)
  /-- `ABORT_RX` (R465): A target receives ABORT and discards its staging. -/
  | abortRx (op : Fin 65536) (tag : BitVec 16)
  /-- `PREP_EXPIRED` (R466): A target still PREPARED at B minus 1 discards its staging. -/
  | prepExpired (named : Bool)
  /-- `DOMAIN_ACK_DEADLINE` (R466): At B minus 1 the masthead replies PARTIAL for missing acknowledgements. -/
  | domainAckDeadline (stream : Fin 11)
  /-- `LC_INJ_ARM` (R467): A write of LC_INJ arms a CRC or marker injection. -/
  | lcInjArm (w : Writer) (p : Fin 32) (v : W32)
  /-- `COMMAND_PACKET_RX` (R480): A Pennant command packet is checked in order, forwarded, or executed with one reply. -/
  | commandPacketRx (p : Packet)
  /-- `FORWARD_REPLY_RX` (R493): The reply to a forwarded command returns, or is discarded as late. -/
  | forwardReplyRx (xid : Fin 65536) (st : Status) (ws : List W32)
  /-- `FORWARD_TIMEOUT` (R493): A forwarded command gets no reply within FWD_TMO and replies TIMEOUT. -/
  | forwardTimeout (xid : Fin 65536)
  /-- `LACE_FRAGMENT_RX` (R494): A Pennant fragment arrives over Lace and completes a packet when all have arrived. -/
  | laceFragmentRx (src : BitVec 16) (xid : Fin 65536) (frag last : Fin 32) (data : List TWord)
  /-- `FRAGMENT_TIMEOUT` (R494): Fragments incomplete after 1 ms are discarded as a header failure. -/
  | fragmentTimeout (src : BitVec 16) (xid : Fin 65536)
  /-- `EVENT_SINK_DRAIN` (R485): Space frees in a sink buffer, EV_LOST is queued if needed, and events are delivered. -/
  | eventSinkDrain (k : Fin 3)
  /-- `DEV_ECHO` (R501): Command that echoes up to 16 words. -/
  | devEcho (q : Req)
  /-- `PENNANT_CONFIG` (R502): Command that writes PN_CFG. -/
  | pennantConfig (q : Req)
  /-- `COMMIT_STATUS` (R503): Command that lists pending commits. -/
  | commitStatus (q : Req)
  /-- `COMMIT_CANCEL` (R504): Command that removes a pending commit. -/
  | commitCancel (q : Req)
  /-- `COMMIT_GROUP` (R505): Commit that stages up to 32 inner commits as one. -/
  | commitGroup (q : Req)
  /-- `EVENT_SINK_SET` (R506): Command that routes an event kind to sinks. -/
  | eventSinkSet (q : Req)
  /-- `EVENT_ENABLE` (R507): Command that sets or clears event enables. -/
  | eventEnable (q : Req)
  /-- `EVENT_STATUS` (R508): Command that replies with the event sequence and queue counts. -/
  | eventStatus (q : Req)
  /-- `PN_INJ_ARM` (R509): A write of PN_INJ arms a header or CRC check failure. -/
  | pnInjArm (w : Writer) (v : W32)
  /-- `PWR_STATUS` (R533): Command that replies with a domain's power status. -/
  | pwrStatus (q : Req)
  /-- `PWR_DOMAIN_SET` (R534): Command that requests a domain state, hold or reload flag. -/
  | pwrDomainSet (q : Req)
  /-- `PWR_LIMIT_SET` (R535): Command that sets the device power limit and window. -/
  | pwrLimitSet (q : Req)
  /-- `PWR_IDLE_CONFIG` (R536): Command that sets idle and retention policy. -/
  | pwrIdleConfig (q : Req)
  /-- `PWR_FIT_CAP` (R537): Command that sets a host fit cap and clears OCLATCH. -/
  | pwrFitCap (q : Req)
  /-- `FIT_RAMP_END` (R513): A fit-level ramp step ends, and any pending change begins. -/
  | fitRampEnd (d : Fin 18)
  /-- `POWER_LOOP_STEP` (R514): Every 100 us the power-limit loop lowers or raises one domain's PCAP. -/
  | powerLoopStep (p : Fin 65536) (draws : List Nat)
  /-- `ILIM_HIT` (R515): An IVR reaches ILIM, and the clock skips cycles until the current falls. -/
  | ilimHit (d : Fin 39) (fallen : Bool)
  /-- `IVR_OVER_CURRENT` (R515): Current above 1.25 ILIM for 1 us raises OC and sets OCLATCH. -/
  | ivrOverCurrent (d : Fin 39)
  /-- `IDLE_ENTRY` (R520): After IDLE_T tick edges without engine activity a domain enters IDLE. -/
  | idleEntry (d : Fin 39) (edges : Nat)
  /-- `IDLE_EXIT` (R517): Work arrives at an IDLE domain, and its engine clock ungates. -/
  | idleExit (d : Fin 39)
  /-- `LOW_POWER_ENTRY_START` (R520): The guard holds at a tick edge, and entry to RETAIN or OFF begins with the fence. -/
  | lowPowerEntryStart (d : Fin 39) (idle : Nat) (quiet : Nat)
  /-- `ENTRY_STEP_DONE` (R522): An entry step ends, and the next begins, or the domain reaches RETAIN or OFF. -/
  | entryStepDone (d : Fin 39)
  /-- `WAKE_EVENT` (R523): A wake source arrives, aborting an entry, going pending, or starting exit. -/
  | wakeEvent (d : Fin 39) (src : Fin 7)
  /-- `PREWAKE` (R524): At next-due minus WAKE minus MARGIN a sleeping domain starts exit. -/
  | prewake (d : Fin 16)
  /-- `EXIT_STEP_DONE` (R525): An exit step's ready signal arrives, and at LOGIC_OK the domain runs and unfences. -/
  | exitStepDone (d : Fin 39) (bad : W32)
  /-- `BROWN_OUT` (R528): Low-power current exceeds its limit for 1 us, and the domain drops to OFF. -/
  | brownOut (d : Fin 39)
  /-- `IVR_SHELL_INJ_ARM` (R532): A write of ARM arms an IVR limit, over-current or brown-out injection. -/
  | ivrShellInjArm (w : Writer) (d : Fin 38) (kind : Fin 4) (dur : Fin 65536)
  /-- `SENSOR_SAMPLE` (R539): Every 10 us the sensors are sampled, and zone and device Tj, thresholds and bands are evaluated. -/
  | sensorSample (readings : List Reading)
  /-- `EXTERNAL_TEMP_READ` (R540): Every 1 ms the HBM and MRAM temperatures are read. -/
  | externalTempRead (t0 t1 mram : Reading)
  /-- `THROTTLE_STEP` (R542): Every 2 ms under the throttle condition THR_PCT falls by 5. -/
  | throttleStep
  /-- `THROTTLE_RECOVER_STEP` (R542): Every 20 ms when clear and below 100 C THR_PCT rises by 5. -/
  | throttleRecoverStep
  /-- `THERMAL_RESTART_TIMER` (R545): Device Tj has been below 90 C for 10 s, and a tripped device begins restarting. -/
  | thermalRestartTimer
  /-- `THERMAL_RESTART_RELEASE` (R545): After 1 ms the internal reset is released, and the device boots. -/
  | thermalRestartRelease (bootSel laceRole : Fin 4)
  /-- `SENSOR_SHELL_INJ_ARM` (R561): A write of ARM overrides or invalidates a sensor. -/
  | sensorShellInjArm (w : Writer) (k : Fin 64) (kind : Fin 4) (value : Fin 4096) (dur : Fin 65536)
  /-- `MRAM_SHELL_INJ_ARM` (R561): A write of ARM arms a journal CRC or MRAM ECC injection. -/
  | mramShellInjArm (w : Writer) (kind : Fin 4)
  /-- `THERM_STATUS` (R562): Command that replies with the thermal status. -/
  | thermStatus (q : Req)
  /-- `THERM_CONFIG` (R563): Command that writes TH_CFG. -/
  | thermConfig (q : Req)
  /-- `THERM_RESTART` (R564): Command that clears a lockout and requests a restart. -/
  | thermRestart (q : Req)
  /-- `JOURNAL_READ` (R565): Command that reads counted journal records. -/
  | journalRead (q : Req)
  /-- `LEDGER_READ` (R566): Command that reads words of the live ledger. -/
  | ledgerRead (q : Req)
  /-- `JOURNAL_COMPACT` (R567): Command that runs a journal compaction. -/
  | journalCompact (q : Req)
  /-- `COMPACTION` (R556): Fewer than 16 free segments start a compaction into a new epoch. -/
  | compaction
  /-- `BOOT_PROFILE_BEGIN` (R568): BOOT_PROFILE_WRITE with OP BEGIN opens a profile write. -/
  | bootProfileBegin (q : Req)
  /-- `BOOT_PROFILE_DATA` (R568): BOOT_PROFILE_WRITE with OP DATA writes profile bytes. -/
  | bootProfileData (q : Req)
  /-- `BOOT_PROFILE_COMMIT` (R568): BOOT_PROFILE_WRITE with OP COMMIT checks and selects the new profile. -/
  | bootProfileCommit (q : Req)
  /-- `BOOT_PROFILE_CLEAR` (R568): BOOT_PROFILE_WRITE with OP CLEAR selects no profile. -/
  | bootProfileClear (q : Req)
  /-- `BOOT_PROFILE_READ` (R569): Command that reads bytes of the profile in force. -/
  | bootProfileRead (q : Req)
  /-- `LEDGER_SECOND_UPDATE` (R559): Each second the live ledger's time, Tj bins and thermal cycles advance. -/
  | ledgerSecondUpdate (avg : Int)
  /-- `LEDGER_PERIODIC_WRITE` (R559): Every 600 s of power-on the ledger is written to the journal. -/
  | ledgerPeriodicWrite
  /-- `TELEMETRY_SAMPLE` (R577): Every 10 ms Urvar samples the detectors and writes DETECT records. -/
  | telemetrySample
  /-- `MP_WATCHDOG_EXPIRY` (R574): An MP pair's watchdog expires, and the pair restarts from ROM. -/
  | mpWatchdogExpiry (pair : Fin 2)
  /-- `LOCKSTEP_MISMATCH` (R574): An MP pair's cores disagree, and the pair restarts from ROM. -/
  | lockstepMismatch (pair : Fin 2)
  /-- `DET_STATUS` (R578): Command that replies with a detector's status. -/
  | detStatus (q : Req)
  /-- `DET_INJECT` (R579): Command that arms a detector injection in a diagnostic session. -/
  | detInject (q : Req)
  /-- `DET_LOG_READ` (R580): Command that reads detector-log records. -/
  | detLogRead (q : Req)
  /-- `PWR_OK_RISE` (R624): PWR_OK rises, OSC_IN is measured, and a power cycle is counted at start-up. -/
  | pwrOkRise (freq : Nat)
  /-- `PWR_OK_FALL` (R559): PWR_OK falls, the ledger is written, and domains are held in reset. -/
  | pwrOkFall
  /-- `SUPPLY_OUT_OF_RANGE` (R582): A monitored supply leaves its range for 2 us, and the device resets internally. -/
  | supplyOutOfRange
  /-- `OSC_IN_LOSS` (R625): OSC_IN stops or drifts over 500 ppm, and the device resets internally. -/
  | oscInLoss
  /-- `RESET_N_ASSERT` (R583): RESET_N low resets everything outside domain 38 and closes the bypass groups. -/
  | resetNAssert
  /-- `RESET_RELEASE` (R584): Reset release samples the straps and starts the boot ROM. -/
  | resetRelease (bootSel laceRole : Fin 4)
  /-- `IMAGE_FETCH_COMPLETE` (R590): An image has been fetched, and it is verified and started, or boot falls back or waits. -/
  | imageFetchComplete (img : List W32) (clean : Bool)
  /-- `BOOT_PUSH_GO` (R586): A write of BOOT_PUSH.GO starts verification of a pushed image. -/
  | bootPushGo (w : Writer)
  /-- `LACE_BOOT_CHUNK_RX` (R587): A boot image chunk arrives on P00. -/
  | laceBootChunkRx (idx : Fin 65536) (ws : List W32)
  /-- `LACE_BOOT_RETRY` (R587): Every 10 ms the ROM asks again for missing chunks. -/
  | laceBootRetry
  /-- `URVAR_STARTUP` (R591): Urvar writes routes, trains HBM, replays the journal, merges trips, runs the profile and sets FW_UP. -/
  | urvarStartup
  /-- `FW_STATUS` (R604): Command that replies with boot and firmware status. -/
  | fwStatus (q : Req)
  /-- `FW_UPDATE_BEGIN` (R605): Command that opens a firmware update. -/
  | fwUpdateBegin (q : Req)
  /-- `FW_UPDATE_DATA` (R606): Command that writes image bytes into staging. -/
  | fwUpdateData (q : Req)
  /-- `FW_ACTIVATE_ACTIVATE` (R607): FW_ACTIVATE with OP ACTIVATE verifies, writes flash and restarts the MP on the staged image. -/
  | fwActivateActivate (q : Req) (flashOk : Bool)
  /-- `FW_ACTIVATE_CONFIRM` (R607): FW_ACTIVATE with OP CONFIRM writes the selector and optionally raises SECVER. -/
  | fwActivateConfirm (q : Req) (raise_ : Bool)
  /-- `FW_ACTIVATE_FALLBACK` (R600): The new image has not set FW_UP within 2 s, and the MP restarts from the previous image. -/
  | fwActivateFallback
  /-- `ID_CERT_READ` (R608): Command that reads the certificate chain. -/
  | idCertRead (q : Req)
  /-- `ATTEST_QUOTE` (R609): ATTEST with OP QUOTE signs the nonce and measurement log. -/
  | attestQuote (q : Req)
  /-- `ATTEST_LOG` (R609): ATTEST with OP LOG returns measurement log entries. -/
  | attestLog (q : Req) (first : Fin 8)
  /-- `OWNER_KEY_INSTALL` (R610): Command that fuses the owner key hash. -/
  | ownerKeyInstall (q : Req)
  /-- `DEBUG_UNLOCK_CHALLENGE` (R611): DEBUG_UNLOCK with OP CHALLENGE issues a nonce. -/
  | debugUnlockChallenge (q : Req)
  /-- `DEBUG_UNLOCK_OPEN` (R611): DEBUG_UNLOCK with OP OPEN verifies a debug token and unlocks. -/
  | debugUnlockOpen (q : Req)
  /-- `DEBUG_UNLOCK_CLOSE` (R611): DEBUG_UNLOCK with OP CLOSE ends the unlock. -/
  | debugUnlockClose (q : Req)
  /-- `DIAG_SESSION_CHALLENGE` (R611): DIAG_SESSION with OP CHALLENGE issues a nonce. -/
  | diagSessionChallenge (q : Req)
  /-- `DIAG_SESSION_OPEN` (R611): DIAG_SESSION with OP OPEN verifies a diagnostic token and opens a session. -/
  | diagSessionOpen (q : Req)
  /-- `DIAG_SESSION_CLOSE` (R611): DIAG_SESSION with OP CLOSE ends the session. -/
  | diagSessionClose (q : Req)
  /-- `CHALLENGE_EXPIRY` (R598): A challenge nonce becomes invalid 60 s after issue. -/
  | challengeExpiry (kind : Fin 2)
  /-- `CHECKER_LOCK` (R390): The lane pattern checker locks after 64 consecutive error-free bits and begins counting compared and mismatched bits. -/
  | checkerLock (n : Fin 256) (bits : List Bool)
  /-- `PCIE_LINK_STATE_CHANGE` (R422): The PCIe host link comes up or goes down under the PCIe 5.0 LTSSM. -/
  | pcieLinkStateChange (up : Bool) (train : PcieTrain)
  /-- `VAO_RISE` (R581): VAO rises, the always-on domain starts with its state reset, and every ring bypass group is closed. -/
  | vaoRise
  /-- `VAO_LOSS` (R545): VAO is removed, the always-on state, trip latch and lockout are lost, and the bypass switches close. -/
  | vaoLoss
  /-- `DEBUG_REQUEST` (R523): A debug request from the JTAG debugger reaches a unit, setting IPEND.DEBUG and waking its domain with source DEBUG. -/
  | debugRequest (id : CoreId)
  /-- `CONFIRM_ACK_RX` (R466): The masthead receives a target's acknowledgement of a domain-commit CONFIRM and records it. -/
  | confirmAckRx (stream : Fin 11) (dev : Fin 65536)
  /-- `JOIN_GRANT_RX` (R469): A joining device receives the masthead's grant or refusal of its DEVID and becomes joined or fails the join. -/
  | joinGrantRx (granted : Bool) (mh epoch : Fin 65536) (standby : Bool)
deriving DecidableEq, Repr

end Sys2Proof
end

