-- ==== Sys2Proof/WellFormed.lean ====
section
/-! DEFINITION. The well-formed commands: what the shapes of R477, R490 and the units' sizes bound before any unit sees a command. -/

namespace Sys2Proof

/-- The parameter words of a Pennant command fit the largest packet of its stream: 4,096 bytes less the header and CRC
over PCIe and Lace, 256 bytes over I3C, 4,096 bytes in a profile (R477, R479). -/
def Req.wf (q : Req) : Bool := decide (q.params.length ≤ (if q.stream.val = 8 then 59 else 1020))

/-- A packet holds at least its header word and at most 4,096 bytes (R477). -/
def Packet.wf (p : Packet) : Bool := decide (1 ≤ p.words.length) && decide (p.words.length ≤ 1024)

/-- What must hold of a command's operands beside their types. -/
def Instr.wf : Instr → Bool
  | .devCaps q => Req.wf q
  | .registerWrite _ _ _ => true
  | .limitTakeEffect => true
  | .atsCaptureRead _ => true
  | .refQualify _ => true
  | .refLost _ => true
  | .ppsEdgeMissed => true
  | .freqSettled => true
  | .phaseMeasurement _ _ => true
  | .revertHoldoffExpiry _ => true
  | .holdoverEstimateUpdate => true
  | .timeStepApply _ => true
  | .ppsInEdge _ _ => true
  | .todMessageRx bytes _ => decide (bytes.length ≤ 8388608)
  | .timeStatus q => Req.wf q
  | .timeRefConfig q => Req.wf q
  | .timeStep q => Req.wf q
  | .timeStepCancel q => Req.wf q
  | .tddTableSet q => Req.wf q
  | .commitApply => true
  | .benchMemRead _ _ => true
  | .benchMemWrite _ _ data _ => decide (data.length ≤ 8388608)
  | .scrubAccess _ _ => true
  | .dmaStart _ _ => true
  | .dmaAbort _ _ => true
  | .dmaTaskStart _ _ => true
  | .dmaRequestComplete _ _ _ _ => true
  | .dsStage _ => true
  | .engineTaskStart _ => true
  | .bundleIssue _ => true
  | .branchResolve _ => true
  | .interruptAccept _ => true
  | .coreTaskStart _ => true
  | .awlWatchdogExpiry _ => true
  | .tickcmpReached _ => true
  | .coreIpiWrite _ _ => true
  | .waitevComplete _ => true
  | .add _ _ _ _ => true
  | .sub _ _ _ _ => true
  | .and _ _ _ _ => true
  | .or _ _ _ _ => true
  | .xor _ _ _ _ => true
  | .sll _ _ _ _ => true
  | .srl _ _ _ _ => true
  | .sra _ _ _ _ => true
  | .slt _ _ _ _ => true
  | .sltu _ _ _ _ => true
  | .min _ _ _ _ => true
  | .max _ _ _ _ => true
  | .minu _ _ _ _ => true
  | .maxu _ _ _ _ => true
  | .adds _ _ _ _ => true
  | .subs _ _ _ _ => true
  | .abs _ _ _ => true
  | .clz _ _ _ => true
  | .cls _ _ _ => true
  | .mul _ _ _ _ => true
  | .mulh _ _ _ _ => true
  | .mulhu _ _ _ _ => true
  | .addi _ _ _ _ => true
  | .andi _ _ _ _ => true
  | .ori _ _ _ _ => true
  | .xori _ _ _ _ => true
  | .slli _ _ _ _ => true
  | .srli _ _ _ _ => true
  | .srai _ _ _ _ => true
  | .rori _ _ _ _ => true
  | .slti _ _ _ _ => true
  | .lui _ _ _ => true
  | .padd _ _ _ _ => true
  | .psub _ _ _ _ => true
  | .pmov _ _ _ => true
  | .smov _ _ _ => true
  | .pdiff _ _ _ _ => true
  | .paddi _ _ _ _ => true
  | .beq _ _ _ _ => true
  | .bne _ _ _ _ => true
  | .blt _ _ _ _ => true
  | .bge _ _ _ _ => true
  | .bltu _ _ _ _ => true
  | .bgeu _ _ _ _ => true
  | .br _ _ => true
  | .call _ _ => true
  | .jr _ _ => true
  | .bkany _ _ _ => true
  | .bknone _ _ _ => true
  | .csrr _ _ _ => true
  | .csrw _ _ _ => true
  | .csrs _ _ _ => true
  | .csrc _ _ _ => true
  | .irqHold _ => true
  | .irqRelease _ => true
  | .waitev _ => true
  | .eret _ => true
  | .trap _ _ => true
  | .brk _ => true
  | .fence _ => true
  | .tdone _ _ => true
  | .lexit0 _ => true
  | .lexit1 _ => true
  | .loop0 _ _ _ _ _ _ _ => true
  | .loop1 _ _ _ _ _ _ _ => true
  | .ldw _ _ _ _ _ _ _ => true
  | .ldh _ _ _ _ _ _ _ => true
  | .ldhu _ _ _ _ _ _ _ => true
  | .ldb _ _ _ _ _ _ _ => true
  | .ldbu _ _ _ _ _ _ _ => true
  | .ldp _ _ _ _ _ _ _ => true
  | .stw _ _ _ _ _ _ _ => true
  | .sth _ _ _ _ _ _ _ => true
  | .stb _ _ _ _ _ _ _ => true
  | .stp _ _ _ _ _ _ _ => true
  | .ldv _ _ _ _ _ _ _ _ => true
  | .stv _ _ _ _ _ _ _ _ => true
  | .ldvBc _ _ _ _ _ _ _ _ => true
  | .lda _ _ _ _ _ _ _ => true
  | .sta _ _ _ _ _ _ _ => true
  | .vgather _ _ _ _ _ _ _ => true
  | .vscatter _ _ _ _ _ _ _ => true
  | .vlds _ _ _ _ _ _ _ => true
  | .vsts _ _ _ _ _ _ _ => true
  | .cmac _ _ _ _ _ _ => true
  | .cmacj _ _ _ _ _ _ => true
  | .cmsc _ _ _ _ _ _ => true
  | .cmscj _ _ _ _ _ _ => true
  | .csq _ _ _ _ _ => true
  | .rmac16 _ _ _ _ _ _ => true
  | .rmac8 _ _ _ _ _ _ => true
  | .cmul _ _ _ _ _ => true
  | .cmulj _ _ _ _ _ => true
  | .crotj _ _ _ _ => true
  | .crotnj _ _ _ _ => true
  | .rmul16 _ _ _ _ _ => true
  | .accx _ _ _ _ _ _ _ _ => true
  | .accxWl _ _ _ _ _ _ _ _ => true
  | .accxWh _ _ _ _ _ _ _ _ => true
  | .accz _ _ _ => true
  | .accmv _ _ _ => true
  | .norm _ _ _ _ => true
  | .expb _ _ _ _ => true
  | .shlB _ _ _ _ _ => true
  | .shlBi _ _ _ _ _ => true
  | .setvl _ _ _ _ => true
  | .vadd _ _ _ _ _ _ => true
  | .vsub _ _ _ _ _ _ => true
  | .vadds _ _ _ _ _ _ => true
  | .vsubs _ _ _ _ _ _ => true
  | .vneg _ _ _ _ _ => true
  | .vabs _ _ _ _ _ => true
  | .vmin _ _ _ _ _ _ => true
  | .vmax _ _ _ _ _ _ => true
  | .vavg _ _ _ _ _ _ => true
  | .vmul _ _ _ _ _ _ => true
  | .vmov _ _ _ _ _ => true
  | .vand _ _ _ _ _ _ => true
  | .vor _ _ _ _ _ _ => true
  | .vxor _ _ _ _ _ _ => true
  | .vandn _ _ _ _ _ _ => true
  | .vnot _ _ _ _ _ => true
  | .vsll _ _ _ _ _ _ => true
  | .vsrl _ _ _ _ _ _ => true
  | .vsra _ _ _ _ _ _ => true
  | .vslli _ _ _ _ _ _ => true
  | .vsrli _ _ _ _ _ _ => true
  | .vsrai _ _ _ _ _ _ => true
  | .vsrar _ _ _ _ _ _ => true
  | .vceq _ _ _ _ _ _ => true
  | .vcne _ _ _ _ _ _ => true
  | .vclt _ _ _ _ _ _ => true
  | .vcle _ _ _ _ _ _ => true
  | .vcltu _ _ _ _ _ _ => true
  | .vcleu _ _ _ _ _ _ => true
  | .vconj _ _ _ _ _ => true
  | .vcswap _ _ _ _ _ => true
  | .vcmag2 _ _ _ _ => true
  | .vwidl _ _ _ _ _ => true
  | .vwidh _ _ _ _ _ => true
  | .vnarr _ _ _ _ _ _ => true
  | .vfadd _ _ _ _ _ _ => true
  | .vfsub _ _ _ _ _ _ => true
  | .vfmul _ _ _ _ _ => true
  | .vfcmul _ _ _ _ _ => true
  | .vfma _ _ _ _ _ => true
  | .vfcma _ _ _ _ _ => true
  | .vfms _ _ _ _ _ => true
  | .vfcms _ _ _ _ _ => true
  | .vfmin _ _ _ _ _ => true
  | .vfcmulj _ _ _ _ _ => true
  | .vfmax _ _ _ _ _ => true
  | .vfcmaj _ _ _ _ _ => true
  | .vfabs _ _ _ _ => true
  | .vfneg _ _ _ _ _ => true
  | .vfrcp _ _ _ _ => true
  | .vfrsq _ _ _ _ => true
  | .vcvtF32I32 _ _ _ _ => true
  | .vcvtI32F32 _ _ _ _ => true
  | .vcvtCf16Ci16 _ _ _ _ _ => true
  | .vcvtCi16Cf16 _ _ _ _ _ => true
  | .vcvtF32l _ _ _ _ => true
  | .vcvtF32h _ _ _ _ => true
  | .vcvtCf16F32 _ _ _ _ _ => true
  | .vperm _ _ _ _ _ _ => true
  | .vzipl _ _ _ _ _ _ => true
  | .vziph _ _ _ _ _ _ => true
  | .vuzpe _ _ _ _ _ _ => true
  | .vuzpo _ _ _ _ _ _ => true
  | .vsldn _ _ _ _ _ _ => true
  | .vslup _ _ _ _ _ _ => true
  | .vrev _ _ _ _ _ => true
  | .vbcast _ _ _ _ _ _ => true
  | .vins _ _ _ _ _ => true
  | .vext _ _ _ _ _ => true
  | .vsel _ _ _ _ _ _ => true
  | .vradd _ _ _ _ _ => true
  | .vrmax _ _ _ _ _ => true
  | .vrmin _ _ _ _ _ => true
  | .vrimax _ _ _ _ _ => true
  | .vfradd _ _ _ _ => true
  | .kand _ _ _ _ => true
  | .kor _ _ _ _ => true
  | .kxor _ _ _ _ => true
  | .kandn _ _ _ _ => true
  | .knot _ _ _ => true
  | .kvl _ _ _ => true
  | .kpois _ _ _ _ => true
  | .kpop _ _ _ => true
  | .kfirst _ _ _ => true
  | .kset _ _ _ _ => true
  | .kget _ _ _ _ => true
  | .eyBfpUnpack _ _ _ _ _ => true
  | .eyBfpPack _ _ _ _ _ => true
  | .eySeqStep _ _ _ => true
  | .eySeqInit _ _ _ => true
  | .eySeqSkip _ _ _ _ => true
  | .eyCrc _ _ _ _ _ _ => true
  | .eyDemap _ _ _ _ _ _ => true
  | .eyPhase _ _ _ _ _ _ _ => true
  | .shankTaskStart _ => true
  | .xadd _ _ => true
  | .xsub _ _ => true
  | .xaddi _ _ => true
  | .xld _ _ => true
  | .xst _ _ => true
  | .xstat _ _ => true
  | .sloop _ _ => true
  | .sbnz _ _ => true
  | .sj _ _ => true
  | .send _ _ => true
  | .lld _ _ => true
  | .lst _ _ => true
  | .llds _ _ => true
  | .lsts _ _ => true
  | .lldh _ _ => true
  | .ldup _ _ => true
  | .lmlen _ _ => true
  | .lmld _ _ => true
  | .ladd _ _ => true
  | .lsub _ _ => true
  | .lcmul _ _ => true
  | .lcmulj _ _ => true
  | .lconj _ _ => true
  | .lcvt _ _ => true
  | .lrsq _ _ => true
  | .lfcma _ _ => true
  | .lcmac _ _ => true
  | .lcmacj _ _ => true
  | .lcmsc _ _ => true
  | .lmv16 _ _ => true
  | .lmv8 _ _ => true
  | .laccz _ _ => true
  | .laccx _ _ => true
  | .lchol _ _ => true
  | .shankResume _ => true
  | .cmaSegmentStart _ => true
  | .cmaVectorExit _ _ => true
  | .cmaLoadComplete _ _ _ => true
  | .cmaJobComplete _ => true
  | .cmaBandSample _ _ => true
  | .cmaBgCalStep _ _ => true
  | .cmaFullCalStart _ => true
  | .cmaFullCalEnd _ _ _ => true
  | .cmaCalStartBit _ _ => true
  | .cmaShellInjArm _ _ => true
  | .cmaSparePreload _ => true
  | .cmaStatus q => Req.wf q
  | .cmaCalibrate q => Req.wf q
  | .cmaConfig q => Req.wf q
  | .cmaPreload q => Req.wf q
  | .cmaService q => Req.wf q
  | .fftOfdmRx _ _ _ => true
  | .fftOfdmTx _ _ _ => true
  | .fftDft _ _ _ => true
  | .fftIdft _ _ _ => true
  | .fftPrach _ _ _ => true
  | .fftRaw _ _ _ => true
  | .ifftRaw _ _ _ => true
  | .fftConvert _ _ _ => true
  | .ldecComplete _ _ _ => true
  | .lencComplete _ _ _ => true
  | .pdecComplete _ _ _ => true
  | .pencComplete _ _ _ => true
  | .tdecComplete _ _ _ => true
  | .tencComplete _ _ _ => true
  | .dematchComplete _ _ _ => true
  | .matchComplete _ _ _ => true
  | .hcNewComplete _ _ _ => true
  | .hcCombineComplete _ _ _ => true
  | .hcReadComplete _ _ _ => true
  | .hcLockAcquire _ _ => true
  | .qHdrWrite _ _ _ _ _ => true
  | .qHeldHeaderAccept _ _ => true
  | .qPushWord _ _ _ _ _ => true
  | .qAbortWrite _ _ _ => true
  | .qPopRead _ _ _ parityBad => decide (parityBad.length ≤ 4096)
  | .qReleaseWrite _ _ _ => true
  | .qPktTimeout _ _ => true
  | .qFlush _ _ => true
  | .qXcntRead _ _ => true
  | .qInjArm _ _ _ _ => true
  | .queueConfig q => Req.wf q
  | .queueStatus q => Req.wf q
  | .hbmPartition q => Req.wf q
  | .hbmRead _ _ _ _ => true
  | .hbmWrite _ data _ => decide (data.length ≤ 8388608)
  | .bar2Write _ data _ => decide (data.length ≤ 8388608)
  | .hbmScrub _ => true
  | .patternLoad q => Req.wf q
  | .patternImageReadDone _ _ => true
  | .patternUnload q => Req.wf q
  | .patternStatus q => Req.wf q
  | .slotreqRingConfig q => Req.wf q
  | .cordStatus q => Req.wf q
  | .cellStart q => Req.wf q
  | .cellStop q => Req.wf q
  | .srTailWrite _ _ => true
  | .instantiate => true
  | .instanceCreated => true
  | .delayRelease => true
  | .taskCompletion => true
  | .dispatchGrant _ => true
  | .eraseDone _ _ => true
  | .notifyTaskStart _ _ => true
  | .notifyAckRx _ _ _ => true
  | .notifyAckTimeout _ => true
  | .remoteCompletionRx _ _ _ _ _ _ => true
  | .earlyEntryExpire => true
  | .deadlineCheck => true
  | .gvLoadUpdate busy => decide (busy.length ≤ 4096)
  | .lookaheadRecompute => true
  | .spareDesignateStartup => true
  | .govPolicySet q => Req.wf q
  | .placeExclude q => Req.wf q
  | .govStatus q => Req.wf q
  | .govCellStats q => Req.wf q
  | .niRequestSend _ _ _ _ _ _ words => decide (words.length ≤ 1048576)
  | .routerPacketRx _ _ _ _ => true
  | .niResponseRx _ => true
  | .niTimeout _ _ => true
  | .niTokenRelease _ _ _ => true
  | .routeEntryCommit _ _ _ _ => true
  | .fenceRequest _ => true
  | .fenceDrainEnd _ => true
  | .fenceMsgRx _ _ => true
  | .fenceAckRx _ _ => true
  | .fenceTimeout _ => true
  | .unfenceStart _ => true
  | .unfenceMsgRx _ _ => true
  | .wbExpire _ => true
  | .rtRcfgGo _ _ _ => true
  | .rcApply _ => true
  | .rcQuiesceTimeout _ => true
  | .rcPortWaitTimeout _ => true
  | .niInjTmo _ _ => true
  | .rtInjArm _ _ _ _ => true
  | .laneConfig q => Req.wf q
  | .laneStatus q => Req.wf q
  | .laneRetrain q => Req.wf q
  | .laneRetrainBit _ _ => true
  | .laneTest q => Req.wf q
  | .laneTestRead q => Req.wf q
  | .refclkConfig q => Req.wf q
  | .quadRef q => Req.wf q
  | .losChange _ _ => true
  | .lolChange _ _ => true
  | .trainingPhasePass _ _ _ _ sync => sync.all fun b => decide (b.payload.length = 16)
  | .trainingPhaseTimeout _ => true
  | .backoffEnd _ => true
  | .noPartnerRetry _ => true
  | .eqBgStep _ _ _ => true
  | .eiEntry _ => true
  | .eiExitRequest _ => true
  | .eiExitComplete _ => true
  | .eiSync64Missing _ => true
  | .trackHold _ => true
  | .trackHoldRelease _ => true
  | .checkerLockLoss _ _ => true
  | .laneInjgo _ _ => true
  | .laneShellInjArm _ _ _ _ => true
  | .quadShellInjArm _ _ _ _ => true
  | .pllUnlock _ _ _ => true
  | .refLoss _ _ => true
  | .fhMacConfig q => Req.wf q
  | .fhMacStatus q => Req.wf q
  | .fhFlowConfig q => Req.wf q
  | .fhFlowStatus q => Req.wf q
  | .ptpConfig q => Req.wf q
  | .synceOutConfig q => Req.wf q
  | .pinConfig q => Req.wf q
  | .ethFrameRx _ _ => true
  | .pfcFrameRx _ _ _ => true
  | .pauseFrameRx _ _ => true
  | .pfcHoldExpiry _ _ => true
  | .pfcRepeat _ _ => true
  | .ecpriDmrRx _ _ _ _ _ => true
  | .fhrxJobStart _ => true
  | .fhrxComplete _ _ => true
  | .fhtxJobStart _ => true
  | .fhtxFrameEligible _ _ _ => true
  | .fhtxFrameSent _ => true
  | .fhtxCloseExpire _ _ _ => true
  | .ppsOutPulse => true
  | .todTxSend => true
  | .fcInChange _ _ => true
  | .gpioEdge _ _ => true
  | .gpioMarkPulse _ => true
  | .pcieSqDoorbell _ _ => true
  | .pennantSqEntry _ e _ => decide (e.length ≤ 1048576)
  | .hostDmaEntry _ e => decide (e.length ≤ 1048576)
  | .hostDmaComplete _ data => decide (data.length ≤ 8388608)
  | .qpEnable _ _ => true
  | .qpDisable _ => true
  | .cqHeadWrite _ _ => true
  | .pcieFlr => true
  | .pcieEpWriteRx _ words => decide (words.length ≤ 1048576)
  | .i3cPrivateWrite p => Packet.wf p
  | .i3cPrivateRead => true
  | .i3cEntdaa _ => true
  | .i3cSetdasa _ _ => true
  | .i3cRstdaa => true
  | .i3cGetpid => true
  | .i3cGetbcr => true
  | .i3cGetdcr => true
  | .i3cGetstatus => true
  | .i3cEnec _ => true
  | .i3cDisec _ => true
  | .i3cSetmwl _ => true
  | .i3cSetmrl _ => true
  | .i3cGetmwl => true
  | .i3cGetmrl => true
  | .i3cRstact _ => true
  | .lacePortConfig q => Req.wf q
  | .laceJoin q => Req.wf q
  | .laceLeave q => Req.wf q
  | .laceStatus q => Req.wf q
  | .laceRouteSet q => Req.wf q
  | .laceExportSet q => Req.wf q
  | .laceTransitSet q => Req.wf q
  | .laceDomainCommit q => Req.wf q
  | .laceMastheadHandover q => Req.wf q
  | .laceMastheadDesignate q => Req.wf q
  | .hskRx _ _ => true
  | .hskSendTimer _ => true
  | .flitRx _ _ _ => true
  | .lctlRx _ _ => true
  | .lctlSendTimer _ => true
  | .replayTimeout _ => true
  | .laceLinkLoss _ => true
  | .markerRx _ _ _ => true
  | .eieRx _ _ => true
  | .eiIdleTimer _ => true
  | .remotePacketRx _ => true
  | .splice _ _ _ => true
  | .spliceTimeout _ => true
  | .bypassCloseLeave _ => true
  | .mhFailover => true
  | .hoistLost => true
  | .hoistAlignStep => true
  | .joinRequestRx _ _ _ => true
  | .prepareRx inner => decide (inner.length ≤ 1048576)
  | .domainCommitDecision _ _ => true
  | .confirmRx _ _ => true
  | .abortRx _ _ => true
  | .prepExpired _ => true
  | .domainAckDeadline _ => true
  | .lcInjArm _ _ _ => true
  | .commandPacketRx p => Packet.wf p
  | .forwardReplyRx _ _ ws => decide (ws.length ≤ 1048576)
  | .forwardTimeout _ => true
  | .laceFragmentRx _ _ _ _ data => decide (data.length ≤ 1048576)
  | .fragmentTimeout _ _ => true
  | .eventSinkDrain _ => true
  | .devEcho q => Req.wf q
  | .pennantConfig q => Req.wf q
  | .commitStatus q => Req.wf q
  | .commitCancel q => Req.wf q
  | .commitGroup q => Req.wf q
  | .eventSinkSet q => Req.wf q
  | .eventEnable q => Req.wf q
  | .eventStatus q => Req.wf q
  | .pnInjArm _ _ => true
  | .pwrStatus q => Req.wf q
  | .pwrDomainSet q => Req.wf q
  | .pwrLimitSet q => Req.wf q
  | .pwrIdleConfig q => Req.wf q
  | .pwrFitCap q => Req.wf q
  | .fitRampEnd _ => true
  | .powerLoopStep _ draws => decide (draws.length ≤ 4096)
  | .ilimHit _ _ => true
  | .ivrOverCurrent _ => true
  | .idleEntry _ _ => true
  | .idleExit _ => true
  | .lowPowerEntryStart _ _ _ => true
  | .entryStepDone _ => true
  | .wakeEvent _ _ => true
  | .prewake _ => true
  | .exitStepDone _ _ => true
  | .brownOut _ => true
  | .ivrShellInjArm _ _ _ _ => true
  | .sensorSample readings => decide (readings.length = 64)
  | .externalTempRead _ _ _ => true
  | .throttleStep => true
  | .throttleRecoverStep => true
  | .thermalRestartTimer => true
  | .thermalRestartRelease _ _ => true
  | .sensorShellInjArm _ _ _ _ _ => true
  | .mramShellInjArm _ _ => true
  | .thermStatus q => Req.wf q
  | .thermConfig q => Req.wf q
  | .thermRestart q => Req.wf q
  | .journalRead q => Req.wf q
  | .ledgerRead q => Req.wf q
  | .journalCompact q => Req.wf q
  | .compaction => true
  | .bootProfileBegin q => Req.wf q
  | .bootProfileData q => Req.wf q
  | .bootProfileCommit q => Req.wf q
  | .bootProfileClear q => Req.wf q
  | .bootProfileRead q => Req.wf q
  | .ledgerSecondUpdate _ => true
  | .ledgerPeriodicWrite => true
  | .telemetrySample => true
  | .mpWatchdogExpiry _ => true
  | .lockstepMismatch _ => true
  | .detStatus q => Req.wf q
  | .detInject q => Req.wf q
  | .detLogRead q => Req.wf q
  | .pwrOkRise _ => true
  | .pwrOkFall => true
  | .supplyOutOfRange => true
  | .oscInLoss => true
  | .resetNAssert => true
  | .resetRelease _ _ => true
  | .imageFetchComplete img _ => decide (img.length ≤ 1048576)
  | .bootPushGo _ => true
  | .laceBootChunkRx _ ws => decide (ws.length ≤ 1048576)
  | .laceBootRetry => true
  | .urvarStartup => true
  | .fwStatus q => Req.wf q
  | .fwUpdateBegin q => Req.wf q
  | .fwUpdateData q => Req.wf q
  | .fwActivateActivate q _ => Req.wf q
  | .fwActivateConfirm q _ => Req.wf q
  | .fwActivateFallback => true
  | .idCertRead q => Req.wf q
  | .attestQuote q => Req.wf q
  | .attestLog q _ => Req.wf q
  | .ownerKeyInstall q => Req.wf q
  | .debugUnlockChallenge q => Req.wf q
  | .debugUnlockOpen q => Req.wf q
  | .debugUnlockClose q => Req.wf q
  | .diagSessionChallenge q => Req.wf q
  | .diagSessionOpen q => Req.wf q
  | .diagSessionClose q => Req.wf q
  | .challengeExpiry _ => true
  | .checkerLock _ _ => true
  | .pcieLinkStateChange _ _ => true
  | .vaoRise => true
  | .vaoLoss => true
  | .debugRequest _ => true
  | .confirmAckRx _ _ => true
  | .joinGrantRx _ _ _ _ => true

end Sys2Proof
end

