-- ==== Sys2Proof/Machine/Bits.lean ====
section
/-! DEFINITION. Bit fields, sign extension, byte order, saturation and the check codes the manual names (R24, R421, R478). -/

namespace Sys2Proof.Machine

/-- Bits [hi:lo] of a word, as a number. -/
def fld {n : Nat} (w : BitVec n) (hi lo : Nat) : Nat := (w.toNat / 2 ^ lo) % 2 ^ (hi + 1 - lo)

/-- Bit k of a word. -/
def bit {n : Nat} (w : BitVec n) (k : Nat) : Bool := w.getLsbD k

/-- The word with bits [hi:lo] replaced by the low bits of v. -/
def setFld {n : Nat} (w : BitVec n) (hi lo v : Nat) : BitVec n :=
  let m : BitVec n := BitVec.ofNat n ((2 ^ (hi + 1 - lo) - 1) * 2 ^ lo)
  (w &&& ~~~m) ||| (BitVec.ofNat n (2 ^ lo * v) &&& m)

/-- A word with one bit set or cleared. -/
def setBit {n : Nat} (w : BitVec n) (k : Nat) (b : Bool) : BitVec n := setFld w k k (if b then 1 else 0)

/-- 1 or 0. -/
def b2n (b : Bool) : Nat := if b then 1 else 0

/-- A word from fields, each a (low bit, value) pair; the values are taken as they are. -/
def packF (fs : List (Nat × Nat)) : W32 := BitVec.ofNat 32 (fs.foldl (fun a f => a + 2 ^ f.1 * f.2) 0)

/-- A 32-bit word from a number, modulo 2^32. -/
def w32 (n : Nat) : W32 := BitVec.ofNat 32 n

/-- The two's-complement reading of the low k bits of v. -/
def sext (k v : Nat) : Int :=
  let m := v % 2 ^ k
  if m < 2 ^ (k - 1) then (m : Int) else (m : Int) - (2 ^ k : Int)

/-- The low k bits of an integer, as a number. -/
def wrapTo (k : Nat) (v : Int) : Nat := (v % (2 ^ k : Int)).toNat

/-- v limited to lo … hi. -/
def clampI (lo hi v : Int) : Int := if v < lo then lo else if hi < v then hi else v

/-- v saturated to a signed k-bit integer. -/
def satS (k : Nat) (v : Int) : Int := clampI (-(2 ^ (k - 1) : Int)) ((2 ^ (k - 1) : Int) - 1) v

/-- A number saturated at 2^k − 1. -/
def satU (k n : Nat) : Nat := if 2 ^ k ≤ n then 2 ^ k - 1 else n

/-- Division rounded up; 0 when the divisor is 0. -/
def cdiv (a b : Nat) : Nat := if b = 0 then 0 else (a + b - 1) / b

/-- Division by 2^s rounded to nearest, ties to even. -/
def rneShift (v : Int) (s : Nat) : Int :=
  if s = 0 then v else
  let d : Int := 2 ^ s
  let q := v / d
  let r := v % d
  let h : Int := 2 ^ (s - 1)
  if r < h then q else if h < r then q + 1 else if q % 2 = 0 then q else q + 1

/-- How many bits of a word are 1. -/
def popcount {n : Nat} (w : BitVec n) : Nat :=
  (List.range n).foldl (fun a k => a + b2n (w.getLsbD k)) 0

/-- The low and high 32-bit halves of a 64-bit number. -/
def lo32 (n : Nat) : W32 := BitVec.ofNat 32 n
def hi32 (n : Nat) : W32 := BitVec.ofNat 32 (n / 2 ^ 32)

/-- The 64-bit number of a low and a high word. -/
def pair64 (lo hi : W32) : Nat := lo.toNat + 2 ^ 32 * hi.toNat

/-- The bytes of a word, least significant first (R24). -/
def bytesOf (k n : Nat) : List Byte := (List.range k).map fun i => BitVec.ofNat 8 (n / 2 ^ (8 * i))

/-- A number from its bytes, least significant first (R24). -/
def ofBytes : List Byte → Nat
  | [] => 0
  | b :: bs => b.toNat + 256 * ofBytes bs

/-- The bytes of a list of 32-bit words. -/
def wordBytes (ws : List W32) : List Byte := ws.flatMap fun w => bytesOf 4 w.toNat

/-- 32-bit words from bytes; a short last word is padded with zeros. -/
def bytesWords : Nat → List Byte → List W32
  | 0, _ => []
  | _, [] => []
  | k + 1, bs => BitVec.ofNat 32 (ofBytes (bs.take 4)) :: bytesWords k (bs.drop 4)

/-- One bit of an unreflected CRC of width n. -/
def crcBit {n : Nat} (poly : BitVec n) (c : BitVec n) (b : Bool) : BitVec n :=
  let t := xor (c.getLsbD (n - 1)) b
  let c' := c <<< 1
  if t then c' ^^^ poly else c'

/-- The CRC16 of R421 and R478: polynomial 0x1021, initial value 0xFFFF, each byte most significant bit first. -/
def crc16 (bs : List Byte) : W16 :=
  bs.foldl (fun c b => (List.range 8).foldl (fun c i => crcBit 0x1021#16 c (b.getLsbD (7 - i))) c) 0xFFFF#16

/-- One bit of a reflected 32-bit CRC with reflected polynomial p. -/
def crc32Bit (p c : W32) (b : Bool) : W32 :=
  let t := xor (c.getLsbD 0) b
  let c' := c >>> 1
  if t then c' ^^^ p else c'

/-- The Castagnoli CRC-32C of R478: reflected, initial value and final XOR all ones. -/
def crc32c (bs : List Byte) : W32 :=
  ~~~ (bs.foldl (fun c b => (List.range 8).foldl (fun c i => crc32Bit 0x82F63B78#32 c (b.getLsbD i)) c) 0xFFFFFFFF#32)

/-- List element or a default. -/
def nth {α : Type} (l : List α) (i : Nat) (d : α) : α := (l[i]?).getD d

/-- Replace the element of index i, if there is one. -/
def setNth {α : Type} : List α → Nat → α → List α
  | [], _, _ => []
  | _ :: xs, 0, v => v :: xs
  | x :: xs, i + 1, v => x :: setNth xs i v

/-- Apply f to the element of index i, if there is one. -/
def modNth {α : Type} : List α → Nat → (α → α) → List α
  | [], _, _ => []
  | x :: xs, 0, f => f x :: xs
  | x :: xs, i + 1, f => x :: modNth xs i f

/-- The value of the first entry with a key. -/
def assoc {α : Type} : List (Nat × α) → Nat → Option α
  | [], _ => none
  | (k, v) :: r, q => if k = q then some v else assoc r q

/-- A sparse map with one more entry: keys strictly rising; `none` removes the key. -/
def putKey {α : Type} : List (Nat × α) → Nat → Option α → List (Nat × α)
  | [], q, some v => [(q, v)]
  | [], _, none => []
  | (k, w) :: r, q, v =>
    if q < k then (match v with
      | some x => (q, x) :: (k, w) :: r
      | none => (k, w) :: r)
    else if q = k then (match v with
      | some x => (q, x) :: r
      | none => r)
    else (k, w) :: putKey r q v

/-- The canonical form of a sparse map: keys strictly rising. -/
def risingFrom {α : Type} : Nat → List (Nat × α) → Bool
  | _, [] => true
  | m, (k, _) :: r => decide (m ≤ k) && risingFrom (k + 1) r

/-- The canonical form of a whole sparse map. -/
def keysRise {α : Type} (l : List (Nat × α)) : Bool := risingFrom 0 l

/-- The index of the first element that holds p. -/
def findIdx {α : Type} (p : α → Bool) : List α → Option Nat
  | [] => none
  | x :: xs => if p x then some 0 else (findIdx p xs).map (· + 1)

/-- The largest element, 0 of the empty list. -/
def listMax (l : List Nat) : Nat := l.foldl Nat.max 0

/-- The sum of a list. -/
def listSum (l : List Nat) : Nat := l.foldl (· + ·) 0

/-- Remove the first element that holds p. -/
def removeFirst {α : Type} (p : α → Bool) : List α → List α
  | [] => []
  | x :: xs => if p x then xs else x :: removeFirst p xs

/-- Insert x before the first element that must stand behind it. -/
def insertBy {α : Type} (before : α → α → Bool) (x : α) : List α → List α
  | [] => [x]
  | y :: ys => if before x y then x :: y :: ys else y :: insertBy before x ys

/-- A list in the order of `before`, equal elements in their order of arrival. -/
def sortBy {α : Type} (before : α → α → Bool) (l : List α) : List α :=
  l.foldl (fun acc x => insertBy before x acc) []

end Sys2Proof.Machine
end

