-- ==== Sys2Proof/Machine/Variant.lean ====
section
/-! DEFINITION. The twelve variants (R1–R4) and which units each of them has (R8). -/

namespace Sys2Proof

/-- The variant of the part, fused at manufacture (R1). -/
inductive Variant where
  | l16a | l16d | l12a | l12d | l08a | l08d | m12a | m12d | m08a | m08d | m04a | m04d
deriving DecidableEq, Repr

end Sys2Proof

namespace Sys2Proof.Machine

/-- `CAPS_VARIANT` of each variant (R2). -/
def Variant.caps : Variant → W32
  | .l16a => 0x00F70101#32 | .l16d => 0x00F50102#32 | .l12a => 0x00F2C103#32 | .l12d => 0x00F0C104#32
  | .l08a => 0x00F28105#32 | .l08d => 0x00F08106#32 | .m12a => 0x002AC207#32 | .m12d => 0x0028C208#32
  | .m08a => 0x002A8209#32 | .m08d => 0x0028820A#32 | .m04a => 0x002A420B#32 | .m04d => 0x0028420C#32

/-- The bench count N (R2). -/
def benches : Variant → Nat
  | .l16a | .l16d => 16
  | .l12a | .l12d | .m12a | .m12d => 12
  | .l08a | .l08d | .m08a | .m08d => 8
  | .m04a | .m04d => 4

/-- A variants carry one beam array on every bench (R2). -/
def hasCma : Variant → Bool
  | .l16a | .l12a | .l08a | .m12a | .m08a | .m04a => true
  | _ => false

/-- The L package (R2). -/
def isL : Variant → Bool
  | .l16a | .l16d | .l12a | .l12d | .l08a | .l08d => true
  | _ => false

/-- Wake-on-packet buffers present (R2). -/
def hasWop : Variant → Bool
  | .l16a | .l16d => true
  | _ => false

/-- The variant's TDP in watts (R2). -/
def tdp : Variant → Nat
  | .l16a => 380 | .l16d => 350 | .l12a => 300 | .l12d => 280 | .l08a => 220 | .l08d => 205
  | .m12a => 270 | .m12d => 250 | .m08a => 190 | .m08d => 175 | .m04a => 120 | .m04d => 110

/-- HBM3 stackCount present (R2). -/
def stackCount (v : Variant) : Nat := if isL v then 2 else 1

/-- The East coding half is present (R2). -/
def hasEast (v : Variant) : Bool := isL v

/-- Logical bench b exists (R4). -/
def benchHere (v : Variant) (b : Nat) : Bool := decide (b < benches v)

/-- Beam array of bench b exists. -/
def cmaHere (v : Variant) (b : Nat) : Bool := hasCma v && benchHere v b

/-- HBM stack s exists (R11). -/
def stackHere (v : Variant) (s : Nat) : Bool := decide (s < stackCount v)

/-- Quad q is bonded out (R3). -/
def quadHere (v : Variant) (q : Nat) : Bool := decide (q < 64) && (isL v || decide (q < 24) || decide (56 ≤ q))

/-- Lane n is bonded out: lane n belongs to quad n / 4. -/
def laneHere (v : Variant) (n : Nat) : Bool := decide (n < 256) && quadHere v (n / 4)

/-- Shore k serves quads 4k to 4k + 3; S06–S13 are absent on M variants (R342). -/
def shoreHere (v : Variant) (k : Nat) : Bool := decide (k < 16) && (isL v || decide (k < 6) || decide (14 ≤ k))

/-- Coding half: 0 West, 1 East. -/
def halfHere (v : Variant) (h : Nat) : Bool := decide (h = 0) || (decide (h = 1) && hasEast v)

/-- Power domain d exists (R358, R510). -/
def domainHere (v : Variant) (d : Nat) : Bool :=
  if d < 16 then benchHere v d
  else if d = 17 then hasEast v
  else if d = 19 then stackHere v 1
  else if d < 20 then true
  else if d < 36 then shoreHere v (d - 20)
  else decide (d ≤ 38)

/-- Thermal sensor s exists (R538). -/
def sensorHere (v : Variant) (s : Nat) : Bool :=
  if s < 48 then benchHere v (s / 3)
  else if s = 50 ∨ s = 51 ∨ s = 53 then isL v
  else if 57 ≤ s ∧ s ≤ 60 then isL v
  else decide (s < 64)

/-- Network interface n exists (R345). -/
def niHere (v : Variant) (n : Nat) : Bool :=
  if n < 16 then benchHere v n
  else if n < 32 then shoreHere v (n - 16)
  else if n = 33 then stackHere v 1
  else if n = 35 then hasEast v
  else decide (n < 40)

/-- The power domain of network interface n (R345). -/
def niDomain (n : Nat) : Nat :=
  if n < 16 then n
  else if n < 32 then 20 + (n - 16)
  else if n = 32 then 18 else if n = 33 then 19 else if n = 34 then 16 else if n = 35 then 17
  else if n = 36 then 36 else if n = 39 then 20 else 37

/-- Router k exists: bench routers always; S06–S13, CODE and HBM1 only on L variants (R342, R368). -/
def routerHere (v : Variant) (k : Nat) : Bool :=
  if k < 16 then true
  else if k < 32 then shoreHere v (k - 16)
  else if k = 33 ∨ k = 35 then isL v
  else decide (k < 38)

/-! ## Router links (R342) -/

/-- The bench router of column x and row y. -/
def brAt (x y : Nat) : Nat := 4 * y + x

/-- The bench router that shore k links to. -/
def shoreBench (k : Nat) : Nat :=
  if k < 4 then brAt k 0 else if k < 8 then brAt 3 (k - 4) else if k < 12 then brAt (11 - k) 3 else brAt 0 (15 - k)

/-- The shores linked to bench router (x, y): on the north or south edge, and on the east or west edge. -/
def northSouth (x y : Nat) : Option Nat := if y = 0 then some x else if y = 3 then some (11 - x) else none
def eastWest (x y : Nat) : Option Nat := if x = 3 then some (4 + y) else if x = 0 then some (15 - y) else none

/-- The router that output port p of bench router (x, y) leads to, on the largest variant; the router itself at port 0. -/
def brPort (x y p : Nat) : Option Nat :=
  match p with
  | 0 => some (brAt x y)
  | 1 => if 1 ≤ y then some (brAt x (y - 1)) else none
  | 2 => if x ≤ 2 then some (brAt (x + 1) y) else none
  | 3 => if y ≤ 2 then some (brAt x (y + 1)) else none
  | 4 => if 1 ≤ x then some (brAt (x - 1) y) else none
  | 5 => if 2 ≤ y then some (brAt x (y - 2)) else none
  | 6 => if x ≤ 1 then some (brAt (x + 2) y) else none
  | 7 => if y ≤ 1 then some (brAt x (y + 2)) else none
  | 8 => if 2 ≤ x then some (brAt (x - 2) y) else none
  | 9 => ((northSouth x y).or (eastWest x y)).map (16 + ·)
  | 10 => if (northSouth x y).isSome then (eastWest x y).map (16 + ·) else none
  | 11 => some (if x = 0 then 32 else if x = 1 then 34 else if x = 2 then 35 else 33)
  | 12 =>
    if (x = 1 ∨ x = 2) ∧ (y = 1 ∨ y = 2) then some 36
    else if (x = 0 ∨ x = 3) ∧ (y = 0 ∨ y = 3) then some 37 else none
  | _ => none

/-- The router that output port p of router k leads to, on the largest variant. -/
def anyPort (k p : Nat) : Option Nat :=
  if k < 16 then brPort (k % 4) (k / 4) p
  else if k < 32 then
    match p with
    | 0 => some k
    | 1 => some (16 + (k - 15) % 16)
    | 2 => some (16 + (k - 1) % 16)
    | 3 => some (shoreBench (k - 16))
    | _ => none
  else
    let at4 (l : List Nat) : Option Nat := if p = 0 then some k else (l[p - 1]?)
    match k with
    | 32 => at4 [brAt 0 0, brAt 0 1, brAt 0 2, brAt 0 3]
    | 34 => at4 [brAt 1 0, brAt 1 1, brAt 1 2, brAt 1 3]
    | 35 => at4 [brAt 2 0, brAt 2 1, brAt 2 2, brAt 2 3]
    | 33 => at4 [brAt 3 0, brAt 3 1, brAt 3 2, brAt 3 3]
    | 36 => at4 [brAt 1 1, brAt 2 1, brAt 2 2, brAt 1 2]
    | 37 => at4 [brAt 0 0, brAt 3 0, brAt 3 3, brAt 0 3]
    | _ => none

/-- The router that output port p of router k leads to; none where the variant has no such link (R342). -/
def routerPort (v : Variant) (k p : Nat) : Option Nat :=
  if routerHere v k then (anyPort k p).filter (routerHere v) else none

/-- The mask of the ports that router k has. -/
def portsHere (v : Variant) (k : Nat) : Nat :=
  (List.range 13).foldl (fun a p => if (routerPort v k p).isSome then a + 2 ^ p else a) 0

end Sys2Proof.Machine
end

