-- ==== Sys2Proof/Machine/AwlParts.lean ====
section
/-! DEFINITION. The state of an Awl core and of a Shank engine, as plain data (R79, R82, R143). -/

namespace Sys2Proof.Machine

/-- The 512 bits of a vector register. -/
abbrev VBits := BitVec 512

/-- A vector register with one poison bit per 32-bit word (R122). -/
structure VReg where
  bits : VBits
  po   : W16
deriving DecidableEq, Repr

/-- A complex accumulator lane with its poison bit (R91). -/
structure Lane where
  re : BitVec 40
  im : BitVec 40
  po : Bool
deriving DecidableEq, Repr

/-- A register that an instruction writes; a vector register by its physical number (R103). -/
inductive Dst where
  | s (n : Nat)
  | p (n : Nat)
  | v (n : Nat)
  | acc (n : Nat)
  | k (n : Nat)
deriving DecidableEq, Repr

/-- What a MAC form does to a complex lane when its pipeline ends (R92–R94): the terms it adds to the components named, `z`
clears them first, `po` marks a poisoned input. -/
structure LaneOp where
  z    : Bool
  doRe : Bool
  doIm : Bool
  po   : Bool
  re   : Int
  im   : Int
deriving DecidableEq, Repr

/-- What a write leaves: a word, the written bits of a vector with the words that take poison, an accumulator, what a MAC
form does to each lane of the accumulator that its pipeline's end finds (R73), a predicate. -/
inductive Val where
  | w (x : W32)
  | v (bits mask : VBits) (po : W16)
  | acc (l : List Lane)
  | mac (sat : Bool) (ops : List (Option LaneOp))
  | k (x : W64)
deriving DecidableEq, Repr

/-- A result in flight (R72): it lands when `left` more bundles have issued. -/
structure Flight where
  dst  : Dst
  val  : Val
  left : Nat
deriving DecidableEq, Repr

/-- A branch that has issued and is not resolved yet (R77); `missed` when the predictor was wrong. -/
structure BrInfo where
  pc     : W32
  taken  : Bool
  target : W32
  missed : Bool
deriving DecidableEq, Repr

/-- An Awl core (R79, R82). -/
structure Core where
  pc    : W32
  s     : List W32
  p     : List W32
  v     : List VReg
  acc   : List (List Lane)
  k     : List W64
  /-- results in flight, older first -/
  flight : List Flight
  coreCfg : W32
  corePm  : W32
  tail    : Nat
  veix    : W32
  eyeEn   : W32
  status  : W32
  estatus : W32
  cause   : W32
  epc     : W32
  badaddr : W32
  holdPc  : W32
  evec    : W32
  fvec    : W32
  ien     : W32
  ipend   : W32
  wdog    : W32
  pmode0  : W32
  pmode1  : W32
  klim    : W32
  tickcmp : W32
  taskPc  : W32
  taskParam : W32
  taskId  : W32
  cycle   : W64
  kscr0   : W32
  kscr1   : W32
  cbb     : List W32
  cbl     : List W32
  lc0     : W32
  lc1     : W32
  ls0     : W32
  le0     : W32
  ls1     : W32
  le1     : W32
  rrb     : W32
  lstg    : W32
  /-- stage predicates are enabled in loop level 0 (R104) -/
  sp      : Bool
  /-- bundles of the hold region that have committed, and the address of its `IRQ_HOLD` bundle (R76) -/
  holdN   : Nat
  holdAt  : W32
  /-- the task that the core runs -/
  task    : Option Nat
  /-- no bundle issues: between tasks, in `WAITEV`, halted by a debugger at `BRK` -/
  idle    : Bool
  waiting : Bool
  halted  : Bool
  /-- a debugger is attached; a debug request is pending (R82, R115) -/
  debug   : Bool
  dbgReq  : Bool
  /-- the watchdog has expired once since its last reload (R113) -/
  wdFirst : Bool
  /-- the tick from which the watchdog counts -/
  wdAt    : Nat
  /-- bundles prefetched (R85): address, words, poison -/
  pre     : List (W32 × List W32 × Bool)
  /-- the branch predictor: counter and target by PC [10:4]; the return stack; branches not resolved yet (R77) -/
  pred    : List (Nat × Nat × W32)
  ras     : List W32
  open_   : List BrInfo
deriving DecidableEq, Repr

def Lane.zero : Lane := { re := 0, im := 0, po := false }
def VReg.zero : VReg := { bits := 0, po := 0 }

/-- A core after its reset (R79, R82).
DESIGN CHOICE, unsafe: log entry 48. -/
def Core.reset : Core :=
  { pc := 0, s := List.replicate 32 0, p := List.replicate 16 0, v := List.replicate 32 VReg.zero,
    acc := List.replicate 8 (List.replicate 16 Lane.zero), k := List.replicate 8 0, flight := [], coreCfg := 3, corePm := 0, tail := 0,
    veix := 0, eyeEn := 0x001F1F1F, status := 0x2000, estatus := 0, cause := 0, epc := 0, badaddr := 0, holdPc := 0, evec := 0x80000,
    fvec := 0x80000, ien := 0, ipend := 0, wdog := 0, pmode0 := 0, pmode1 := 0, klim := 0, tickcmp := 0, taskPc := 0, taskParam := 0,
    taskId := 0, cycle := 0, kscr0 := 0, kscr1 := 0, cbb := List.replicate 8 0, cbl := List.replicate 8 0, lc0 := 0, lc1 := 0, ls0 := 0,
    le0 := 0, ls1 := 0, le1 := 0, rrb := 0, lstg := 0, sp := false, holdN := 0, holdAt := 0, task := none, idle := false,
    waiting := false, halted := false, debug := false, dbgReq := false, wdFirst := false, wdAt := 0, pre := [], pred := [], ras := [], open_ := [] }

/-- A 32-bit element of a long register with its poison bit (R143). -/
abbrev LWord := W32 × Bool

/-- A loop level of the Shank: runs left, first and last instruction (R147). -/
structure ShLoop where
  count : Nat
  first : Nat
  last  : Nat
deriving DecidableEq, Repr

/-- A Shank engine beside its registers (R143). -/
structure Shank where
  pc   : Nat
  x    : List W32
  l    : List (List LWord)
  acc  : List (List Lane)
  lm   : List (BitVec 256)
  loops : List ShLoop
  task : Option Nat
  /-- the next instruction resumes at element `LEIX` (R151) -/
  resume : Bool
deriving DecidableEq, Repr

/-- DESIGN CHOICE, unsafe: log entry 15.
DESIGN CHOICE, unsafe: log entry 62. -/
def Shank.reset : Shank :=
  { pc := 0, x := List.replicate 16 0, l := List.replicate 16 (List.replicate 256 (0, false)),
    acc := List.replicate 4 (List.replicate 256 Lane.zero), lm := List.replicate 4 0, loops := [], task := none, resume := false }

end Sys2Proof.Machine
end

