-- ==== Sys2Proof/Machine/Float.lean ====
section
/-! DEFINITION. The IEEE 754 subset of R121: exact values, rounding to nearest even, subnormals flushed. -/

namespace Sys2Proof.Machine

/-- A floating-point format: fraction bits and exponent bits. -/
structure Fmt where
  mb : Nat
  eb : Nat

def f32 : Fmt := { mb := 23, eb := 8 }
def f16 : Fmt := { mb := 10, eb := 5 }

def Fmt.bias (f : Fmt) : Nat := 2 ^ (f.eb - 1) - 1
/-- The default NaN. -/
def Fmt.qnan (f : Fmt) : Nat := (2 ^ f.eb - 1) * 2 ^ f.mb + 2 ^ (f.mb - 1)
def Fmt.infBits (f : Fmt) (neg : Bool) : Nat := (2 ^ f.eb - 1) * 2 ^ f.mb + (if neg then 2 ^ (f.mb + f.eb) else 0)
def Fmt.zeroBits (f : Fmt) (neg : Bool) : Nat := if neg then 2 ^ (f.mb + f.eb) else 0

/-- An exact value: (−1)^neg × m × 2^e, an infinity or a NaN. -/
inductive FV where
  | nan
  | inf (neg : Bool)
  | fin (neg : Bool) (m : Nat) (e : Int)
deriving DecidableEq, Repr

def FV.zero : FV := .fin false 0 0

/-- The value of a format's bits, and whether a subnormal was read as zero. -/
def unpackF (f : Fmt) (w : Nat) : FV × Bool :=
  let neg := w.testBit (f.mb + f.eb)
  let ex := w / 2 ^ f.mb % 2 ^ f.eb
  let fr := w % 2 ^ f.mb
  if ex = 2 ^ f.eb - 1 then (if fr = 0 then (.inf neg, false) else (.nan, false))
  else if ex = 0 then (.fin neg 0 0, decide (fr ≠ 0))
  else (.fin neg (2 ^ f.mb + fr) ((ex : Int) - f.bias - f.mb), false)

/-- m × 2^(−s) rounded to nearest even. -/
def rneNat (m s : Nat) : Nat := (rneShift (m : Int) s).toNat

/-- The bits of an exact value in a format, and whether a subnormal result was replaced by zero. -/
def packFlt (f : Fmt) : FV → Nat × Bool
  | .nan => (f.qnan, false)
  | .inf neg => (f.infBits neg, false)
  | .fin neg m e =>
    if m = 0 then (f.zeroBits neg, false)
    else
      let top : Int := e + Nat.log2 m
      let emin : Int := 1 - f.bias
      let q : Int := (if top < emin then emin else top) - f.mb
      let r := if q ≤ e then m * 2 ^ (e - q).toNat else rneNat m (q - e).toNat
      let (r, q) := if 2 ^ (f.mb + 1) ≤ r then (r / 2, q + 1) else (r, q)
      if r < 2 ^ f.mb then (f.zeroBits neg, true)
      else
        let ex := (q + f.mb + f.bias).toNat
        if 2 ^ f.eb - 1 ≤ ex then (f.infBits neg, false)
        else (f.zeroBits neg + 2 ^ f.mb * ex + (r - 2 ^ f.mb), false)

def FV.neg : FV → FV
  | .nan => .nan
  | .inf n => .inf (!n)
  | .fin n m e => .fin (!n) m e

def FV.mul : FV → FV → FV
  | .nan, _ => .nan
  | _, .nan => .nan
  | .inf a, .inf b => .inf (xor a b)
  | .inf a, .fin b m _ => if m = 0 then .nan else .inf (xor a b)
  | .fin a m _, .inf b => if m = 0 then .nan else .inf (xor a b)
  | .fin a m e, .fin b n d => .fin (xor a b) (m * n) (e + d)

/-- The signed integer m as an exact value at exponent e; an exact cancellation is +0. -/
def FV.ofInt (v : Int) (e : Int) : FV := .fin (decide (v < 0)) v.natAbs e

def FV.add : FV → FV → FV
  | .nan, _ => .nan
  | _, .nan => .nan
  | .inf a, .inf b => if a = b then .inf a else .nan
  | .inf a, .fin _ _ _ => .inf a
  | .fin _ _ _, .inf b => .inf b
  | .fin a m e, .fin b n d =>
    if m = 0 ∧ n = 0 then .fin (a && b) 0 0
    else
      let lo := min e d
      let x : Int := (if a then -1 else 1) * m * 2 ^ (e - lo).toNat
      let y : Int := (if b then -1 else 1) * n * 2 ^ (d - lo).toNat
      FV.ofInt (x + y) lo

def FV.sub (a b : FV) : FV := a.add b.neg

/-- A quotient with 64 more bits than it needs and a sticky last bit. -/
def FV.div : FV → FV → FV
  | .nan, _ => .nan
  | _, .nan => .nan
  | .inf _, .inf _ => .nan
  | .inf a, .fin b _ _ => .inf (xor a b)
  | .fin a _ _, .inf b => .fin (xor a b) 0 0
  | .fin a m e, .fin b n d =>
    if n = 0 then (if m = 0 then .nan else .inf (xor a b))
    else if m = 0 then .fin (xor a b) 0 0
    else
      let k := 64 + Nat.log2 n
      let x := m * 2 ^ k
      .fin (xor a b) (2 * (x / n) + b2n (decide (x % n ≠ 0))) (e - d - k - 1)

/-- Bits of an integer square root, from bit k down: the largest r with r² ≤ n. -/
def isqrt (n : Nat) : Nat → Nat → Nat
  | 0, r => r
  | k + 1, r =>
    let t := r + 2 ^ k
    isqrt n k (if t * t ≤ n then t else r)

/-- A square root with 64 more bits than it needs and a sticky last bit; −0 gives −0. -/
def FV.sqrt : FV → FV
  | .nan => .nan
  | .inf n => if n then .nan else .inf false
  | .fin n m e =>
    if m = 0 then .fin n 0 0
    else if n then .nan
    else
      let odd := decide (e % 2 ≠ 0)
      let x := m * 2 ^ (128 + b2n odd)
      let e' := e - 128 - b2n odd
      let r := isqrt x (Nat.log2 x / 2 + 1) 0
      .fin false (2 * r + b2n (decide (r * r ≠ x))) (e' / 2 - 1)

/-- a < b; false with a NaN. -/
def FV.lt (a b : FV) : Bool :=
  match a, b with
  | .nan, _ => false
  | _, .nan => false
  | .inf x, .inf y => x && !y
  | .inf x, .fin _ _ _ => x
  | .fin _ _ _, .inf y => !y
  | .fin x m e, .fin y n d =>
    let lo := min e d
    let u : Int := (if x then -1 else 1) * m * 2 ^ (e - lo).toNat
    let v : Int := (if y then -1 else 1) * n * 2 ^ (d - lo).toNat
    decide (u < v)

/-- a = b; false with a NaN; the zeros are equal. -/
def FV.eq (a b : FV) : Bool :=
  match a, b with
  | .nan, _ => false
  | _, .nan => false
  | _, _ => !a.lt b && !b.lt a

/-- An exact value rounded to nearest even as an integer, saturated to k signed bits; a NaN gives 0. The second result says
that it saturated. -/
def FV.toInt (k : Nat) : FV → Int × Bool
  | .nan => (0, false)
  | .inf n => (if n then -(2 ^ (k - 1) : Int) else (2 ^ (k - 1) : Int) - 1, true)
  | .fin n m e =>
    let a : Int := if 0 ≤ e then (m : Int) * 2 ^ e.toNat else rneShift (m : Int) (-e).toNat
    let v := if n then -a else a
    (satS k v, decide (satS k v ≠ v))

/-- An exact value times 2^k. -/
def FV.scale (k : Int) : FV → FV
  | .fin n m e => .fin n m (e + k)
  | v => v

end Sys2Proof.Machine
end

