-- ==== Sys2Proof/Machine/Operands.lean ====
section
/-! DEFINITION. Operand forms of the vector and long-vector instructions: element types, elements and their poison, active
elements, pointers (R88–R91, R116–R123). -/

namespace Sys2Proof.Machine

/-! ## Element types (R119) -/

/-- Width of an element type in bits. -/
def etW : Nat → Nat
  | 0 => 8 | 1 => 16 | 2 => 32 | 3 => 16 | 4 => 32 | 5 => 64 | _ => 32

/-- Elements of a type in a register. -/
def etN (et : Nat) : Nat := 512 / etW et

/-- Complex types, and the width of one component. -/
def etComplex (et : Nat) : Bool := decide (3 ≤ et) && decide (et ≤ 5) || decide (et = 7)
def etC (et : Nat) : Nat := if etComplex et then etW et / 2 else etW et

/-! ## Elements of a register -/

/-- Element e of width w, as bits. -/
def VReg.elem (r : VReg) (w e : Nat) : Nat := (r.bits.toNat / 2 ^ (w * e)) % 2 ^ w

/-- Element e of width w is poisoned: some word it occupies is (R122). -/
def VReg.bad (r : VReg) (w e : Nat) : Bool :=
  let a := w * e / 32
  let b := (w * e + w - 1) / 32
  r.po.getLsbD a || r.po.getLsbD b

/-- Element e as the arithmetic reads it: 0 where poisoned (R123). -/
def VReg.get (r : VReg) (w e : Nat) : Nat := if r.bad w e then 0 else r.elem w e

/-- An element result: its index, its bits, its poison. -/
abbrev El := Nat × Nat × Bool

/-- The write that a list of element results of width w makes. -/
def vWrite (w : Nat) (l : List El) : Val :=
  let bits := l.foldl (fun (a : Nat) x => a + 2 ^ (w * x.1) * (x.2.1 % 2 ^ w)) 0
  let mask := l.foldl (fun (a : Nat) x => a + (2 ^ w - 1) * 2 ^ (w * x.1)) 0
  let po := (List.range 16).foldl (fun (a : Nat) j =>
    if l.any fun x => x.2.2 && decide (w * x.1 / 32 ≤ j) && decide (j ≤ (w * x.1 + w - 1) / 32) then a + 2 ^ j else a) 0
  .v (BitVec.ofNat 512 bits) (BitVec.ofNat 512 mask) (BitVec.ofNat 16 po)

/-- A register with a write landed: the poison bit of a wholly written word is replaced, that of a partly written one is
kept as well (R123). -/
def VReg.land (r : VReg) (bits mask : VBits) (po : W16) : VReg :=
  let b := (r.bits &&& ~~~mask) ||| (bits &&& mask)
  let p := (List.range 16).foldl (fun (a : Nat) j =>
    let m := (mask.toNat / 2 ^ (32 * j)) % 2 ^ 32
    let x := if m = 0 then r.po.getLsbD j else if m = 2 ^ 32 - 1 then po.getLsbD j else r.po.getLsbD j || po.getLsbD j
    a + 2 ^ j * b2n x) 0
  { bits := b, po := BitVec.ofNat 16 p }

/-! ## Components -/

/-- The signed components of an element: one, or the real and the imaginary part. -/
def comps (et v : Nat) : List Int :=
  let c := etC et
  if etComplex et then [sext c v, sext c (v / 2 ^ c)] else [sext c v]

/-- An element from its components, each cut to the component's width. -/
def uncomps (et : Nat) (l : List Int) : Nat :=
  let c := etC et
  match l with
  | [a] => wrapTo c a
  | a :: b :: _ => wrapTo c a + 2 ^ c * wrapTo c b
  | [] => 0

/-! ## Registers of a core -/

/-- The physical number of architectural vector register n (R103). -/
def Core.vIdx (c : Core) (n : Nat) : Nat := if n < 16 then n else 16 + (n - 16 + c.rrb.toNat % 16) % 16

def Core.rs (c : Core) (n : Nat) : W32 := if n = 0 then 0 else nth c.s n 0
def Core.rp (c : Core) (n : Nat) : W32 := nth c.p n 0
def Core.rv (c : Core) (n : Nat) : VReg := nth c.v (c.vIdx n) VReg.zero
def Core.ra (c : Core) (n : Nat) : List Lane := nth c.acc n []
def Core.rk (c : Core) (n : Nat) : W64 := if n = 0 then BitVec.allOnes 64 else nth c.k n 0

/-- The current vector length in bytes (R116). -/
def Core.vl (c : Core) : Nat := 64 - c.tail

/-- Element e of width w (in bits) is active under predicate k (R118). -/
def Core.active (c : Core) (k w e : Nat) : Bool := (c.rk k).getLsbD e && decide (e * w < 8 * c.vl)

/-- The active elements of width w. -/
def Core.actives (c : Core) (k w : Nat) : List Nat := (List.range (512 / w)).filter (c.active k w)

/-! ## Pointers (R88–R90) -/

/-- The circular buffer that pointer i is bound to, in force: base and length (R89). -/
def Core.ring (c : Core) (i : Nat) : Option (Nat × Nat) :=
  let w := if i < 8 then c.pmode0 else c.pmode1
  let f := fld w (4 * (i % 8) + 3) (4 * (i % 8))
  let n := f % 8
  let len := (nth c.cbl n 0).toNat
  if bit c.status 13 && decide (8 ≤ f) && decide (len ≠ 0) then some ((nth c.cbb n 0).toNat, len) else none

/-- o of R89, and whether it was adjusted. -/
def ringOff (p base len : Nat) : Nat × Bool :=
  let o := (p + 2 ^ 32 - base) % 2 ^ 32
  if len ≤ o then (o % len, true) else (o, false)

/-- n bits reversed. -/
def revBits (n v : Nat) : Nat := (List.range n).foldl (fun a i => if v.testBit i then a + 2 ^ (n - 1 - i) else a) 0

/-- An address form: the address of byte offset x of the access, the pointer after it, whether CB_ADJ is set; none where
UPD = 3 raises ADDR_MODE. -/
structure Addr where
  at_  : Nat → Nat
  upd  : Option W32
  adj  : Bool

/-- The address and update of an M-slot access (R88–R90): pointer p, its update mode, the immediate, s[INC]. -/
def Core.addr (c : Core) (p upd : Nat) (imm inc : Int) : Option Addr :=
  let v := (c.rp p).toNat
  let w (n : Int) : Nat := wrapTo 32 n
  match c.ring p with
  | none =>
    match upd with
    | 0 => some { at_ := fun x => w ((v : Int) + imm + x), upd := none, adj := false }
    | 1 => some { at_ := fun x => w ((v : Int) + x), upd := some (w32 (w ((v : Int) + imm))), adj := false }
    | 2 => some { at_ := fun x => w ((v : Int) + x), upd := some (w32 (w ((v : Int) + inc))), adj := false }
    | _ => none
  | some (b, l) =>
    let (o, big) := ringOff v b l
    let go (k : Int) : Nat := (((o : Int) + k) % (l : Int)).toNat
    let put (k : Nat) : W32 := w32 ((b + k) % 2 ^ 32)
    match upd with
    | 0 => some { at_ := fun x => (b + (go imm + x) % l) % 2 ^ 32, upd := none, adj := false }
    | 1 => some { at_ := fun x => (b + (o + x) % l) % 2 ^ 32, upd := some (put (go imm)), adj := big }
    | 2 => some { at_ := fun x => (b + (o + x) % l) % 2 ^ 32, upd := some (put (go inc)), adj := big }
    | _ =>
      let n := Nat.log2 l
      if 2 ^ n ≠ l ∨ b % l ≠ 0 then none
      else
        let i := (imm % (l : Int)).toNat
        some { at_ := fun x => (b + (o + x) % l) % 2 ^ 32, upd := some (put (revBits n ((revBits n o + revBits n i) % l))), adj := big }

/-- The address of a gathered or strided element at an offset from p (R137). -/
def Core.elAddr (c : Core) (p : Nat) (off : Int) : Nat :=
  match c.ring p with
  | none => wrapTo 32 (((c.rp p).toNat : Int) + off)
  | some (b, l) => (b + ((((ringOff (c.rp p).toNat b l).1 : Int) + off) % (l : Int)).toNat) % 2 ^ 32

/-! ## A shift that rounds (R95, R96) -/

/-- A right shift: truncated towards minus infinity, or rounded half-even. -/
def shiftR (v : Int) (n : Nat) (trunc : Bool) : Int := if trunc then v / (2 ^ n : Int) else rneShift v n

end Sys2Proof.Machine
end

