-- ==== Sys2Proof/Machine/Flags.lean ====
section
/-! DEFINITION. The sticky flags of cores and Shanks, and the saturations that set them (R93, R95, R96, R120, R121). -/

namespace Sys2Proof.Machine

/-- The sticky flags that an instruction can set. -/
structure Sticky where
  aov  : Nat := 0
  xsat : Bool := false
  vsat : Bool := false
  ftz  : Bool := false
  adj  : Bool := false
  npd  : Bool := false

def Sticky.or (a b : Sticky) : Sticky :=
  { aov := Nat.lor a.aov b.aov, xsat := a.xsat || b.xsat, vsat := a.vsat || b.vsat, ftz := a.ftz || b.ftz, adj := a.adj || b.adj,
    npd := a.npd || b.npd }

/-- The bits of `STATUS` [11:0] that the flags set (CSR 0x005). -/
def Sticky.status (f : Sticky) : W32 :=
  packF [(0, f.aov % 256), (8, b2n f.xsat), (9, b2n f.vsat), (10, b2n f.ftz), (11, b2n f.adj)]

/-- The bits of `SH_STAT` that the flags set (R152). -/
def Sticky.shank (f : Sticky) : W32 :=
  packF [(0, f.aov % 16), (4, b2n f.xsat), (5, b2n f.vsat), (6, b2n f.ftz), (7, b2n f.npd)]

/-- A value saturated to k signed bits, and whether it changed. -/
def satF (k : Nat) (v : Int) : Int × Bool := (satS k v, decide (satS k v ≠ v))

/-- An accumulator component after an addition: clamped with SAT, else its low 40 bits; whether it left the range (R93). -/
def accPut (sat : Bool) (v : Int) : BitVec 40 × Bool :=
  let out := decide (satS 40 v ≠ v)
  (BitVec.ofInt 40 (if sat then satS 40 v else v), out)

end Sys2Proof.Machine
end

