-- ==== Sys2Proof/Machine/AwlIsa.lean ====
section
/-! DEFINITION. The instructions of an Awl bundle: their words, what makes a word illegal, the registers they read and write,
and when their results land (R67–R72, R86, R92–R99, R115, R117, R126–R136, R153–R166). -/

namespace Sys2Proof.Machine

/-! ## S slot -/

/-- The S-slot operations (R115). -/
inductive SFn where
  | nop | add | sub | and_ | or_ | xor_ | sll | srl | sra | slt | sltu | min_ | max_ | minu | maxu | adds | subs | abs_ | clz | cls
  | mul | mulh | mulhu | addi | andi | ori | xori | slli | srli | srai | rori | slti | lui | padd | psub | pmov | smov | pdiff | paddi
  | beq | bne | blt | bge | bltu | bgeu | br | call | jr | bkany | bknone | csrr | csrw | csrs | csrc
  | irqHold | irqRelease | waitev | eret | trap | brk | fence | tdone | lexit | loop_
deriving DecidableEq, Repr

/-- An S-slot instruction: its operation, register fields and immediate; a loop's fields (R71, R99). -/
structure SIns where
  fn  : SFn
  d   : Nat := 0
  a   : Nat := 0
  b   : Nat := 0
  imm : Int := 0
  lvl : Nat := 0
  rb  : Bool := false
  sp  : Bool := false
  stg : Nat := 0
  ci  : Bool := false
  cnt : Nat := 0
  end_ : Nat := 0

/-- The register-register operations of MAJ 0x01, by FN. -/
def srFns : List SFn := [.add, .sub, .and_, .or_, .xor_, .sll, .srl, .sra, .slt, .sltu, .min_, .max_, .minu, .maxu, .adds, .subs, .abs_,
  .clz, .cls, .mul, .mulh, .mulhu]

/-- The operations of MAJ 0x21, by FN. -/
def sxFns : List SFn := [.irqHold, .irqRelease, .waitev, .eret, .trap, .brk, .fence, .tdone, .lexit, .lexit]

/-- The S-slot instruction of a word; none where the word raises ILLEGAL (R68, R69, R71, R115). A register field that an
operation does not use must be 0, and so must CNT [17:15] of a loop that takes its count from a register.
DESIGN CHOICE, unsafe: log entry 127.
DESIGN CHOICE, unsafe: log entry 128. -/
def decodeS (w : W32) : Option SIns :=
  let maj := fld w 31 26
  let d := fld w 25 21
  let a := fld w 20 16
  let b := fld w 15 11
  let imm16 := fld w 15 0
  let se : Int := sext 16 imm16
  if maj = 0 then (if w = 0#32 then some { fn := .nop } else none)
  else if maj = 1 then
    match srFns[fld w 10 0]? with
    | none => none
    | some f => if (f = .abs_ ∨ f = .clz ∨ f = .cls) ∧ b ≠ 0 then none else some { fn := f, d := d, a := a, b := b }
  else if maj = 9 then
    match fld w 10 0 with
    | 0 => if d < 16 ∧ a < 16 then some { fn := .padd, d := d, a := a, b := b } else none
    | 1 => if d < 16 ∧ a < 16 then some { fn := .psub, d := d, a := a, b := b } else none
    | 2 => if d < 16 ∧ b = 0 then some { fn := .pmov, d := d, a := a } else none
    | 3 => if a < 16 ∧ b = 0 then some { fn := .smov, d := d, a := a } else none
    | 4 => if a < 16 ∧ b < 16 then some { fn := .pdiff, d := d, a := a, b := b } else none
    | _ => none
  else if maj = 6 then
    if 128 ≤ imm16 then none
    else some { fn := match imm16 / 32 with
                  | 0 => .slli
                  | 1 => .srli
                  | 2 => .srai
                  | _ => .rori, d := d, a := a, imm := (imm16 % 32 : Nat) }
  else if maj = 2 then some { fn := .addi, d := d, a := a, imm := se }
  else if maj = 3 then some { fn := .andi, d := d, a := a, imm := (imm16 : Nat) }
  else if maj = 4 then some { fn := .ori, d := d, a := a, imm := (imm16 : Nat) }
  else if maj = 5 then some { fn := .xori, d := d, a := a, imm := (imm16 : Nat) }
  else if maj = 7 then some { fn := .slti, d := d, a := a, imm := se }
  else if maj = 8 then (if a = 0 then some { fn := .lui, d := d, imm := (imm16 : Nat) } else none)
  else if maj = 10 then (if d < 16 ∧ a < 16 then some { fn := .paddi, d := d, a := a, imm := se } else none)
  else if 16 ≤ maj ∧ maj ≤ 21 then
    some { fn := nth [.beq, .bne, .blt, .bge, .bltu, .bgeu] (maj - 16) .nop, a := d, b := a, imm := se }
  else if maj = 22 then some { fn := .br, imm := sext 26 (fld w 25 0) }
  else if maj = 23 then some { fn := .call, imm := sext 26 (fld w 25 0) }
  else if maj = 24 then (if d = 0 ∧ imm16 = 0 then some { fn := .jr, a := a } else none)
  else if maj = 25 ∨ maj = 26 then
    if fld w 22 16 ≠ 0 then none else some { fn := if maj = 25 then .bkany else .bknone, a := fld w 25 23, imm := se }
  else if maj = 32 then
    let csr : Int := (fld w 15 4 : Nat)
    match fld w 3 0 with
    | 0 => if a = 0 then some { fn := .csrr, d := d, imm := csr } else none
    | 1 => if d = 0 then some { fn := .csrw, a := a, imm := csr } else none
    | 2 => if d = 0 then some { fn := .csrs, a := a, imm := csr } else none
    | 3 => if d = 0 then some { fn := .csrc, a := a, imm := csr } else none
    | _ => none
  else if maj = 33 then
    match sxFns[fld w 3 0]? with
    | none => none
    | some f =>
      let i := fld w 15 4
      if d ≠ 0 ∨ (f ≠ .tdone ∧ a ≠ 0) ∨ (f ≠ .trap ∧ i ≠ 0) then none
      else some { fn := f, a := a, imm := (i : Nat), lvl := if fld w 3 0 = 9 then 1 else 0 }
  else if maj = 34 then
    let ci := bit w 18
    let cnt := fld w 17 10
    if !ci ∧ 32 ≤ cnt then none
    else some { fn := .loop_, lvl := fld w 25 25, rb := bit w 24, sp := bit w 23, stg := fld w 22 19, ci := ci, cnt := cnt, end_ := fld w 9 0,
                a := if ci then 0 else cnt }
  else none

/-- The registers an S-slot instruction reads. -/
def SIns.reads (i : SIns) : List Dst :=
  match i.fn with
  | .nop | .lui | .br | .call | .csrr | .irqHold | .irqRelease | .waitev | .eret | .trap | .brk | .fence | .lexit => []
  | .padd | .psub => [.p i.a, .s i.b]
  | .smov | .paddi => [.p i.a]
  | .pdiff => [.p i.a, .p i.b]
  | .bkany | .bknone => [.k i.a]
  | .loop_ => if i.ci then [] else [.s i.a]
  | .add | .sub | .and_ | .or_ | .xor_ | .sll | .srl | .sra | .slt | .sltu | .min_ | .max_ | .minu | .maxu | .adds | .subs | .mul | .mulh
  | .mulhu | .beq | .bne | .blt | .bge | .bltu | .bgeu => [.s i.a, .s i.b]
  | _ => [.s i.a]

/-- The register an S-slot instruction writes. -/
def SIns.writes (i : SIns) : List Dst :=
  match i.fn with
  | .nop | .beq | .bne | .blt | .bge | .bltu | .bgeu | .br | .jr | .bkany | .bknone | .csrw | .csrs | .csrc | .irqHold | .irqRelease
  | .waitev | .eret | .trap | .brk | .fence | .tdone | .lexit | .loop_ => []
  | .call => [.s 31]
  | .padd | .psub | .pmov | .paddi => [.p i.d]
  | _ => [.s i.d]

/-! ## M slots -/

/-- The M-slot operations (R86, R136). -/
inductive MFn where
  | nop | ldw | ldh | ldhu | ldb | ldbu | ldp | stw | sth | stb | stp | ldv | stv | ldvBc | lda | sta | vgather | vscatter | vlds | vsts
deriving DecidableEq, Repr

/-- An M-slot instruction (R71, R136). -/
structure MIns where
  fn  : MFn
  r   : Nat := 0
  p   : Nat := 0
  upd : Nat := 0
  k   : Nat := 0
  imm : Int := 0
  inc : Nat := 0
  x   : Nat := 0
  w   : Nat := 0

def mFns : List (Nat × MFn) := [(1, .ldw), (2, .ldh), (3, .ldhu), (4, .ldb), (5, .ldbu), (6, .ldp), (8, .stw), (9, .sth), (10, .stb), (11, .stp),
  (12, .ldv), (13, .stv), (14, .ldvBc), (15, .lda), (16, .sta), (17, .vgather), (18, .vscatter), (19, .vlds), (20, .vsts)]

/-- Element-precise forms (R136, R138). -/
def MFn.precise (f : MFn) : Bool := decide (f = .vgather) || decide (f = .vscatter) || decide (f = .vlds) || decide (f = .vsts)

/-- Vector forms with a word predicate. -/
def MFn.masked (f : MFn) : Bool := decide (f = .ldv) || decide (f = .stv) || decide (f = .ldvBc)

/-- The fields of an M-slot instruction are legal (R69, R71, R86, R136, R137). -/
def MIns.legal (i : MIns) : Bool :=
  if i.fn = .nop then true
  else if i.fn.precise then decide (i.w < 3) && !(decide (i.fn = .vgather) && decide (i.r = i.x))
  else
    (i.fn.masked || decide (i.k = 0)) &&
    (!(decide (i.fn = .ldp) || decide (i.fn = .stp)) || decide (i.r < 16)) &&
    (!(decide (i.fn = .lda) || decide (i.fn = .sta)) || decide (i.r < 8)) &&
    !(decide (i.fn = .ldp) && decide (i.r = i.p) && decide (i.upd ≠ 0))

/-- The M-slot instruction of a word; none where the word raises ILLEGAL. -/
def decodeM (w : W32) : Option MIns :=
  if w = 0#32 then some { fn := .nop }
  else match assoc mFns (fld w 31 26) with
    | none => none
    | some f =>
      let r := fld w 25 21
      let p := fld w 20 17
      let u := fld w 16 15
      let k := fld w 14 12
      let i : MIns :=
        if f.precise then { fn := f, r := r, p := p, k := k, x := fld w 11 7, w := fld w 6 5 }
        else if u = 2 then { fn := f, r := r, p := p, upd := u, k := k, inc := fld w 11 7 }
        else { fn := f, r := r, p := p, upd := u, k := k, imm := sext 12 (fld w 11 0) }
      let clean := if f.precise then decide (u = 0) && decide (fld w 4 0 = 0) else !decide (u = 2) || decide (fld w 6 0 = 0)
      if clean && i.legal then some i else none

/-- The registers an M-slot instruction reads; `v` maps vector register numbers to physical ones. -/
def MIns.reads (v : Nat → Nat) (i : MIns) : List Dst :=
  if i.fn = .nop then [] else
  [.p i.p] ++ (if i.upd = 2 then [.s i.inc] else []) ++ (if i.fn.masked || i.fn.precise then [.k i.k] else []) ++
  (match i.fn with
    | .stw | .sth | .stb => [.s i.r]
    | .stp => [.p i.r]
    | .stv => [.v (v i.r)]
    | .sta => [.acc i.r]
    | .vgather => [.v (v i.x)]
    | .vscatter => [.v (v i.r), .v (v i.x)]
    | .vlds => [.s i.x]
    | .vsts => [.v (v i.r), .s i.x]
    | _ => [])

/-- The registers an M-slot instruction writes. -/
def MIns.writes (v : Nat → Nat) (i : MIns) : List Dst :=
  (match i.fn with
    | .ldw | .ldh | .ldhu | .ldb | .ldbu => [Dst.s i.r]
    | .ldp => [.p i.r]
    | .ldv | .ldvBc | .vgather | .vlds => [.v (v i.r)]
    | .lda => [.acc i.r]
    | _ => []) ++ (if i.upd ≠ 0 then [.p i.p] else [])

/-! ## V slot -/

/-- The V-slot operations (R92, R95–R98, R117, R127–R134, R153). -/
inductive VFn where
  | nop | cmac | cmacj | cmsc | cmscj | csq | rmac16 | rmac8 | cmul | cmulj | crotj | crotnj | rmul16 | accx | accxWl | accxWh | accz | accmv
  | norm | expb | shlB | shlBi | setvl | vadd | vsub | vadds | vsubs | vneg | vabs | vmin | vmax | vavg | vmul | vmov
  | vand | vor | vxor | vandn | vnot | vsll | vsrl | vsra | vslli | vsrli | vsrai | vsrar | vceq | vcne | vclt | vcle | vcltu | vcleu
  | vconj | vcswap | vcmag2 | vwidl | vwidh | vnarr | vfadd | vfsub | vfmul | vfcmul | vfma | vfcma | vfms | vfcms | vfmin | vfcmulj
  | vfmax | vfcmaj | vfabs | vfneg | vfrcp | vfrsq | cvtF32I32 | cvtI32F32 | cvtCf16Ci16 | cvtCi16Cf16 | cvtF32l | cvtF32h | cvtCf16F32
  | vperm | vzipl | vziph | vuzpe | vuzpo | vsldn | vslup | vrev | vbcast | vins | vext | vsel | vradd | vrmax | vrmin | vrimax | vfradd
  | kand | kor | kxor | kandn | knot | kvl | kpois | kpop | kfirst | kset | kget
  | eyUnpack | eyPack | eySeqStep | eySeqInit | eySeqSkip | eyCrc | eyDemap | eyPhase
deriving DecidableEq, Repr

/-- What a register field of a V-slot instruction names: nothing (it must be 0), a register, or an immediate. -/
inductive VKind where
  | none_ | v | s | k | acc | imm
deriving DecidableEq, Repr

/-- The shape of a V-slot operation: what D, A and B name, whether K predicates it, its element types as a mask (0 where it
has none), and its latency (R72, R135, R155). -/
structure VShape where
  d   : VKind
  a   : VKind
  b   : VKind
  k   : Bool
  ets : Nat
  lat : Nat

def vShape : VFn → VShape
  | .nop => ⟨.none_, .none_, .none_, false, 0, 0⟩
  | .cmac | .cmacj | .cmsc | .cmscj | .rmac16 | .rmac8 => ⟨.acc, .v, .v, true, 0, 4⟩
  | .csq => ⟨.acc, .v, .none_, true, 0, 4⟩
  | .cmul | .cmulj | .rmul16 => ⟨.v, .v, .v, true, 0, 3⟩
  | .crotj | .crotnj => ⟨.v, .v, .none_, true, 0, 3⟩
  | .accx | .accxWl | .accxWh => ⟨.v, .acc, .s, true, 0, 2⟩
  | .accz => ⟨.acc, .none_, .none_, true, 0, 4⟩
  | .accmv => ⟨.acc, .acc, .none_, false, 0, 2⟩
  | .norm => ⟨.v, .v, .none_, true, 0, 1⟩
  | .expb => ⟨.s, .v, .none_, true, 0, 2⟩
  | .shlB => ⟨.v, .v, .s, true, 0, 1⟩
  | .shlBi => ⟨.v, .v, .imm, true, 0, 1⟩
  | .setvl => ⟨.s, .s, .none_, false, 0xFF, 1⟩
  | .vadd | .vsub | .vadds | .vsubs | .vavg => ⟨.v, .v, .v, true, 0x3F, 2⟩
  | .vneg => ⟨.v, .v, .none_, true, 0x3F, 2⟩
  | .vabs | .vnot => ⟨.v, .v, .none_, true, 0x07, 2⟩
  | .vmin | .vmax | .vand | .vor | .vxor | .vandn | .vsll | .vsrl | .vsra => ⟨.v, .v, .v, true, 0x07, 2⟩
  | .vmul => ⟨.v, .v, .v, true, 0x07, 3⟩
  | .vmov => ⟨.v, .v, .none_, true, 0xFF, 2⟩
  | .vslli | .vsrli | .vsrai | .vsrar => ⟨.v, .v, .imm, true, 0x07, 2⟩
  | .vceq | .vcne | .vclt | .vcle => ⟨.k, .v, .v, true, 0x47, 2⟩
  | .vcltu | .vcleu => ⟨.k, .v, .v, true, 0x07, 2⟩
  | .vconj | .vcswap => ⟨.v, .v, .none_, true, 0xB8, 2⟩
  | .vcmag2 => ⟨.v, .v, .none_, true, 0x10, 3⟩
  | .vwidl | .vwidh => ⟨.v, .v, .none_, true, 0x1B, 3⟩
  | .vnarr => ⟨.v, .v, .v, true, 0x36, 3⟩
  | .vfadd | .vfsub => ⟨.v, .v, .v, true, 0xC0, 4⟩
  | .vfmul | .vfma | .vfms | .vfmin | .vfmax => ⟨.v, .v, .v, true, 0x40, 4⟩
  | .vfcmul | .vfcma | .vfcms | .vfcmulj | .vfcmaj => ⟨.v, .v, .v, true, 0x80, 4⟩
  | .vfabs | .vfrcp | .vfrsq | .cvtI32F32 => ⟨.v, .v, .none_, true, 0x40, 4⟩
  | .vfneg => ⟨.v, .v, .none_, true, 0xC0, 4⟩
  | .cvtF32I32 => ⟨.v, .v, .none_, true, 0x04, 4⟩
  | .cvtCf16Ci16 => ⟨.v, .v, .s, true, 0x10, 4⟩
  | .cvtCi16Cf16 => ⟨.v, .v, .s, true, 0x80, 4⟩
  | .cvtF32l | .cvtF32h => ⟨.v, .v, .none_, true, 0x80, 4⟩
  | .cvtCf16F32 => ⟨.v, .v, .v, true, 0x40, 4⟩
  | .vperm | .vzipl | .vziph | .vuzpe | .vuzpo | .vsel => ⟨.v, .v, .v, true, 0xFF, 2⟩
  | .vsldn | .vslup => ⟨.v, .v, .s, true, 0xFF, 2⟩
  | .vrev => ⟨.v, .v, .none_, true, 0xFF, 2⟩
  | .vbcast => ⟨.v, .s, .s, true, 0xFF, 2⟩
  | .vins => ⟨.v, .s, .s, false, 0xDF, 2⟩
  | .vext => ⟨.s, .v, .s, false, 0xDF, 3⟩
  | .vradd | .vrmax | .vrmin => ⟨.s, .v, .none_, true, 0x07, 3⟩
  | .vrimax => ⟨.s, .v, .none_, true, 0x47, 3⟩
  | .vfradd => ⟨.s, .v, .none_, true, 0x40, 4⟩
  | .kand | .kor | .kxor | .kandn => ⟨.k, .k, .k, false, 0, 1⟩
  | .knot => ⟨.k, .k, .none_, false, 0, 1⟩
  | .kvl => ⟨.k, .none_, .none_, false, 0xFF, 1⟩
  | .kpois => ⟨.k, .v, .none_, false, 0xFF, 2⟩
  | .kpop | .kfirst => ⟨.s, .k, .none_, false, 0, 3⟩
  | .kset => ⟨.k, .s, .s, false, 0, 1⟩
  | .kget => ⟨.s, .k, .imm, false, 0, 3⟩
  | .eyUnpack | .eyPack => ⟨.v, .v, .s, false, 0, 3⟩
  | .eySeqStep => ⟨.v, .v, .none_, false, 0, 2⟩
  | .eySeqInit => ⟨.v, .v, .none_, false, 0, 3⟩
  | .eySeqSkip => ⟨.v, .v, .s, false, 0, 6⟩
  | .eyCrc => ⟨.s, .v, .s, false, 0, 2⟩
  | .eyDemap => ⟨.v, .v, .s, true, 0, 3⟩
  | .eyPhase => ⟨.v, .v, .s, true, 0, 3⟩

/-- A V-slot instruction: register fields, predicate, element type, and the rest of its function bits: Z of a MAC form; SR, RT
and SH of an extraction; the parameter bits of an eyelet. -/
structure VIns where
  fn : VFn
  d  : Nat := 0
  a  : Nat := 0
  b  : Nat := 0
  k  : Nat := 0
  et : Nat := 0
  x  : Nat := 0

/-- Registers that EY.DEMAP writes, by its modulation field (R166). -/
def demapRegs (m : Nat) : Nat := (2 * m + 3) / 4

def kindOk : VKind → Nat → Bool
  | .none_, n => decide (n = 0)
  | .k, n => decide (n < 8)
  | .acc, n => decide (n < 8)
  | _, n => decide (n < 32)

def VFn.mac (f : VFn) : Bool := [VFn.cmac, .cmacj, .cmsc, .cmscj, .csq, .rmac16, .rmac8].contains f
def VFn.extract (f : VFn) : Bool := [VFn.accx, .accxWl, .accxWh].contains f
def VFn.eyelet (f : VFn) : Option Nat :=
  match f with
  | .eyUnpack | .eyPack => some 0
  | .eySeqStep | .eySeqInit | .eySeqSkip => some 1
  | .eyCrc => some 2
  | .eyDemap => some 3
  | .eyPhase => some 4
  | _ => none

/-- The fields of a V-slot instruction are legal (R69, R96, R126, R153, R159, R164, R166, R169); one that it does not use must
be 0.
DESIGN CHOICE, unsafe: log entry 127. -/
def VIns.legal (i : VIns) : Bool :=
  let h := vShape i.fn
  kindOk h.d i.d && kindOk h.a i.a && kindOk h.b i.b && (h.k || decide (i.k = 0)) &&
  (if h.ets = 0 then decide (i.et = 0) else h.ets.testBit i.et) &&
  (match i.fn with
    | .accx | .accxWl | .accxWh => if i.x.testBit 7 then decide (i.x % 64 = 0) else decide (i.x % 64 < 40) && decide (i.b = 0)
    | .vslli | .vsrli | .vsrai | .vsrar => decide (i.b < etW i.et)
    | .vbcast => decide (i.et = 5) || decide (i.b = 0)
    | .kget => decide (i.b < 2)
    | .eyUnpack | .eyPack => decide (i.x < 4)
    | .eyCrc => decide (i.x % 8 < 6) && decide (i.x < 16)
    | .eyDemap => decide (1 ≤ i.x) && decide (i.x ≤ 5) && decide (i.d + demapRegs i.x ≤ 32)
    | .eyPhase => decide (i.x < 4) && decide (i.b % 2 = 0)
    | _ => if i.fn.mac then decide (i.x < 2) else decide (i.x = 0))

/-- The operations of a V-slot major opcode in format VV, by FN; MAJ 0x14 differs by element type. -/
def vvFns (maj et : Nat) : List VFn :=
  match maj with
  | 0x10 => [.vadd, .vsub, .vadds, .vsubs, .vneg, .vabs, .vmin, .vmax, .vavg, .vmul, .vmov]
  | 0x11 => [.vand, .vor, .vxor, .vandn, .vnot, .vsll, .vsrl, .vsra, .vslli, .vsrli, .vsrai, .vsrar]
  | 0x12 => [.vceq, .vcne, .vclt, .vcle, .vcltu, .vcleu]
  | 0x13 => [.vconj, .vcswap, .vcmag2, .vwidl, .vwidh, .vnarr]
  | 0x14 =>
    if et = 6 then [.vfadd, .vfsub, .vfmul, .vfma, .vfms, .vfmin, .vfmax, .vfabs, .vfneg, .vfrcp, .vfrsq]
    else [.vfadd, .vfsub, .vfcmul, .vfcma, .vfcms, .vfcmulj, .vfcmaj, .vfabs, .vfneg, .vfrcp, .vfrsq]
  | 0x15 => [.cvtF32I32, .cvtI32F32, .cvtCf16Ci16, .cvtCi16Cf16, .cvtF32l, .cvtF32h, .cvtCf16F32]
  | 0x16 => [.vperm, .vzipl, .vziph, .vuzpe, .vuzpo, .vsldn, .vslup, .vrev, .vbcast, .vins, .vext, .vsel]
  | 0x17 => [.vradd, .vrmax, .vrmin, .vrimax, .vfradd]
  | 0x18 => [.kand, .kor, .kxor, .kandn, .knot, .kvl, .kpois, .kpop, .kfirst, .kset, .kget]
  | 0x19 => [.setvl]
  | _ => []

/-- The operation and function bits of a V-slot word in format VA. -/
def vaFn (maj fn : Nat) : Option (VFn × Nat) :=
  match maj with
  | 0x08 => ([VFn.cmac, .cmacj, .cmsc, .cmscj, .csq, .rmac16, .rmac8][fn % 128]?).map fun f => (f, fn / 128)
  | 0x09 => ([VFn.cmul, .cmulj, .crotj, .crotnj, .rmul16][fn]?).map fun f => (f, 0)
  | 0x0B => ([VFn.norm, .expb, .shlB, .shlBi][fn]?).map fun f => (f, 0)
  | 0x0E => ([VFn.accz, .accmv][fn]?).map fun f => (f, 0)
  | 0x30 => if fn < 4 then some (.eyUnpack, fn) else if fn < 8 then some (.eyPack, fn - 4) else none
  | 0x31 => ([VFn.eySeqStep, .eySeqInit, .eySeqSkip][fn]?).map fun f => (f, 0)
  | 0x32 => some (.eyCrc, fn)
  | 0x33 => some (.eyDemap, fn)
  | 0x34 => some (.eyPhase, fn)
  | _ => none

/-- The V-slot instruction of a word; none where the word raises ILLEGAL. -/
def decodeV (w : W32) : Option VIns :=
  if w = 0#32 then some { fn := .nop }
  else
    let maj := fld w 31 26
    let d := fld w 25 21
    let a := fld w 20 16
    let b := fld w 15 11
    let k := fld w 10 8
    let i : Option VIns :=
      if maj = 0x0A ∨ maj = 0x0C ∨ maj = 0x0D then
        some { fn := if maj = 0x0A then .accx else if maj = 0x0C then .accxWl else .accxWh, d := d, a := a, b := b, k := k, x := fld w 7 0 }
      else if 0x10 ≤ maj ∧ maj ≤ 0x19 then
        ((vvFns maj (fld w 7 5))[fld w 4 0]?).map fun f => { fn := f, d := d, a := a, b := b, k := k, et := fld w 7 5 }
      else (vaFn maj (fld w 7 0)).map fun f => { fn := f.1, d := d, a := a, b := b, k := k, x := f.2 }
    i.filter VIns.legal

def kindDst (v : Nat → Nat) : VKind → Nat → List Dst
  | .v, n => [.v (v n)]
  | .s, n => [.s n]
  | .k, n => [.k n]
  | .acc, n => [.acc n]
  | _, _ => []

/-- Forms that read the old value of D. -/
def VFn.readsD (f : VFn) : Bool := [VFn.vfma, .vfcma, .vfms, .vfcms, .vfcmaj, .vsldn, .vslup].contains f

/-- The registers a V-slot instruction reads. A MAC form takes its accumulator at the end of its pipeline (R73). -/
def VIns.reads (v : Nat → Nat) (i : VIns) : List Dst :=
  let h := vShape i.fn
  kindDst v h.a i.a ++ (if i.fn.extract && !i.x.testBit 7 then [] else kindDst v h.b i.b) ++ (if h.k then [Dst.k i.k] else []) ++
  (if i.fn.readsD then [Dst.v (v i.d)] else []) ++ (if i.fn = .eyPhase then [Dst.s (i.b + 1)] else [])

/-- The registers a V-slot instruction writes. -/
def VIns.writes (v : Nat → Nat) (i : VIns) : List Dst :=
  if i.fn = .eyDemap then (List.range (demapRegs i.x)).map fun j => Dst.v (v (i.d + j))
  else kindDst v (vShape i.fn).d i.d ++ (if i.fn = .eyPhase ∧ i.x.testBit 0 then [Dst.s i.b] else [])

end Sys2Proof.Machine
end

