-- ==== Sys2Proof/Machine/AwlV.lean ====
section
/-! DEFINITION. What the V slot computes: accumulators, multiplies, extraction, block floating point, vector operations
(R91–R98, R116–R134). The eyelets follow in their own file. -/

namespace Sys2Proof.Machine

/-- What a slot's instruction does when it commits: register writes with their latencies and sticky flags. -/
structure Out where
  wr : List (Dst × Val × Nat) := []
  st : Sticky := {}

/-- An exception: its code, its slot, `BADADDR`, and the 64-bit words whose reading has counted in their memory. -/
structure Exc where
  code  : Nat
  slot  : Nat
  bad   : Option Nat := none
  probe : List Nat := []

abbrev VRes := Except Exc Out

/-- A write of vector register d with the latency of the operation. -/
def vOut (c : Core) (i : VIns) (w : Nat) (l : List El) (st : Sticky := {}) : VRes :=
  .ok { wr := [(.v (c.vIdx i.d), vWrite w l, (vShape i.fn).lat)], st := st }
def sOut (i : VIns) (x : W32) (st : Sticky := {}) : VRes := .ok { wr := [(.s i.d, .w x, (vShape i.fn).lat)], st := st }
def kOut (i : VIns) (x : Nat) (st : Sticky := {}) : VRes := .ok { wr := [(.k i.d, .k (BitVec.ofNat 64 x), (vShape i.fn).lat)], st := st }

/-- DATA_POISON of the V slot (R124). -/
def vPoison : VRes := .error { code := 7, slot := 3 }

/-! ## Elementwise forms -/

/-- An element from component results, with whether one saturated. -/
def sat2 (et : Nat) (l : List (Int × Bool)) : Nat × Bool := (uncomps et (l.map fun x => x.1), l.any fun x => x.2)

/-- One result per active element of the element type, from the element's bits. -/
def mapEls (c : Core) (i : VIns) (f : Nat → Nat × Bool) : VRes :=
  let w := etW i.et
  let a := c.rv i.a
  let r := (c.actives i.k w).map fun e => (e, f (a.get w e), a.bad w e)
  vOut c i w (r.map fun x => (x.1, x.2.1.1, x.2.2)) { vsat := r.any fun x => x.2.1.2 }

/-- One result per active element, from the elements of A and B. -/
def mapEls2 (c : Core) (i : VIns) (f : Nat → Nat → Nat × Bool) : VRes :=
  let w := etW i.et
  let a := c.rv i.a
  let b := c.rv i.b
  let r := (c.actives i.k w).map fun e => (e, f (a.get w e) (b.get w e), a.bad w e || b.bad w e)
  vOut c i w (r.map fun x => (x.1, x.2.1.1, x.2.2)) { vsat := r.any fun x => x.2.1.2 }

/-- Componentwise forms: exact, or saturating to the component's width. -/
def mapC (et : Nat) (f : Int → Int × Bool) (x : Nat) : Nat × Bool := sat2 et ((comps et x).map f)
def mapC2 (et : Nat) (f : Int → Int → Int × Bool) (x y : Nat) : Nat × Bool :=
  sat2 et (((comps et x).zip (comps et y)).map fun p => f p.1 p.2)

/-! ## Integer, logic and shift forms (R127) -/

def evalInt (c : Core) (i : VIns) : VRes :=
  let et := i.et
  let w := etW et
  let cw := etC et
  let sg (x : Nat) : Int := sext w x
  let cut (v : Int) : Nat × Bool := (wrapTo w v, false)
  match i.fn with
  | .vadd => mapEls2 c i (mapC2 et fun x y => (x + y, false))
  | .vsub => mapEls2 c i (mapC2 et fun x y => (x - y, false))
  | .vadds => mapEls2 c i (mapC2 et fun x y => satF cw (x + y))
  | .vsubs => mapEls2 c i (mapC2 et fun x y => satF cw (x - y))
  | .vneg => mapEls c i (mapC et fun x => satF cw (-x))
  | .vabs => mapEls c i (mapC et fun x => satF cw (x.natAbs : Int))
  | .vmin => mapEls2 c i fun x y => cut (min (sg x) (sg y))
  | .vmax => mapEls2 c i fun x y => cut (max (sg x) (sg y))
  | .vavg => mapEls2 c i (mapC2 et fun x y => (rneShift (x + y) 1, false))
  | .vmul => mapEls2 c i fun x y => (x * y % 2 ^ w, false)
  | .vmov => mapEls c i fun x => (x, false)
  | .vand => mapEls2 c i fun x y => (Nat.land x y, false)
  | .vor => mapEls2 c i fun x y => (Nat.lor x y, false)
  | .vxor => mapEls2 c i fun x y => (Nat.xor x y, false)
  | .vandn => mapEls2 c i fun x y => (Nat.land x (2 ^ w - 1 - y), false)
  | .vnot => mapEls c i fun x => (2 ^ w - 1 - x, false)
  | .vsll => mapEls2 c i fun x y => (if w ≤ y then 0 else x * 2 ^ y % 2 ^ w, false)
  | .vsrl => mapEls2 c i fun x y => (if w ≤ y then 0 else x / 2 ^ y, false)
  | .vsra => mapEls2 c i fun x y => cut (if w ≤ y then (if sg x < 0 then -1 else 0) else sg x / 2 ^ y)
  | .vslli => mapEls c i fun x => (x * 2 ^ i.b % 2 ^ w, false)
  | .vsrli => mapEls c i fun x => (x / 2 ^ i.b, false)
  | .vsrai => mapEls c i fun x => cut (sg x / 2 ^ i.b)
  | _ => mapEls c i fun x => cut (rneShift (sg x) i.b)

/-! ## Compares (R128) -/

/-- The relation of a compare on two elements' bits, and whether a subnormal was read.
DEDUCED, unsafe: log entry 57. -/
def relHolds (i : VIns) (x y : Nat) : Bool × Bool :=
  let w := etW i.et
  if i.et = 6 then
    let a := unpackF f32 x
    let b := unpackF f32 y
    let r := match i.fn with
      | .vceq => a.1.eq b.1
      | .vcne => !a.1.eq b.1
      | .vclt => a.1.lt b.1
      | _ => a.1.lt b.1 || a.1.eq b.1
    (r, a.2 || b.2)
  else
    let u : Int := sext w x
    let v : Int := sext w y
    let r := match i.fn with
      | .vceq => decide (x = y)
      | .vcne => decide (x ≠ y)
      | .vclt => decide (u < v)
      | .vcle => decide (u ≤ v)
      | .vcltu => decide (x < y)
      | _ => decide (x ≤ y)
    (r, false)

def evalCmp (c : Core) (i : VIns) : VRes :=
  let w := etW i.et
  let a := c.rv i.a
  let b := c.rv i.b
  let l := ((c.actives i.k w).filter fun e => !(a.bad w e || b.bad w e)).map fun e => (e, relHolds i (a.elem w e) (b.elem w e))
  kOut i (listSum (l.map fun x => if x.2.1 then 2 ^ x.1 else 0)) { ftz := l.any fun x => x.2.2 }

/-! ## Complex and width forms (R129) -/

/-- Destination elements of width w, each from one source element of width v. -/
def mapWidth (c : Core) (i : VIns) (w v : Nat) (src : Nat → VReg × Nat) (f : Nat → Nat × Bool) : VRes :=
  let r := (c.actives i.k w).map fun e => let p := src e; (e, f (p.1.get v p.2), p.1.bad v p.2)
  vOut c i w (r.map fun x => (x.1, x.2.1.1, x.2.2)) { vsat := r.any fun x => x.2.1.2 }

/-- DEDUCED, unsafe: log entry 58. -/
def evalCplx (c : Core) (i : VIns) : VRes :=
  let et := i.et
  let w := etW et
  let cw := etC et
  let n := etN et
  let a := c.rv i.a
  let b := c.rv i.b
  match i.fn with
  | .vconj => mapEls c i fun x =>
      if et = 7 then (Nat.xor x 0x80000000, false)
      else match comps et x with
        | p :: q :: _ => let s := satF cw (-q); (uncomps et [p, s.1], s.2)
        | _ => (x, false)
  | .vcswap => mapEls c i fun x => (x / 2 ^ cw + 2 ^ cw * (x % 2 ^ cw), false)
  | .vcmag2 => mapEls c i fun x => match comps 4 x with
      | p :: q :: _ => let s := satF 32 (p * p + q * q); (wrapTo 32 s.1, s.2)
      | _ => (0, false)
  | .vwidl | .vwidh =>
    let off := if i.fn = .vwidh then n / 2 else 0
    mapWidth c i (2 * w) w (fun e => (a, off + e)) fun x =>
      match comps et x with
      | [p] => (wrapTo (2 * w) p, false)
      | p :: q :: _ => (wrapTo (2 * cw) p + 2 ^ (2 * cw) * wrapTo (2 * cw) q, false)
      | [] => (0, false)
  | _ =>
    mapWidth c i (w / 2) w (fun e => if e < n then (a, e) else (b, e - n)) fun x =>
      let l := (comps et x).map (satF (cw / 2))
      match l with
      | [p] => (wrapTo (cw / 2) p.1, p.2)
      | p :: q :: _ => (wrapTo (cw / 2) p.1 + 2 ^ (cw / 2) * wrapTo (cw / 2) q.1, p.2 || q.2)
      | [] => (0, false)

/-! ## Floating point (R121, R130, R131) -/

/-- Elementwise floating results: the bits and whether FTZ is set. -/
def mapFlt (c : Core) (i : VIns) (w : Nat) (ops : Nat → List (VReg × Nat)) (f : Nat → List Nat → Nat × Bool) : VRes :=
  let r := (c.actives i.k w).map fun e => let l := ops e; (e, f e (l.map fun p => p.1.get w p.2), l.any fun p => p.1.bad w p.2)
  vOut c i w (r.map fun x => (x.1, x.2.1.1, x.2.2)) { ftz := r.any fun x => x.2.1.2 }

/-- One fp32 operation. -/
def flt32 (g : List FV → FV) (l : List Nat) : Nat × Bool :=
  let xs := l.map (unpackF f32)
  let r := packFlt f32 (g (xs.map fun x => x.1))
  (r.1, r.2 || xs.any fun x => x.2)

/-- One cfp16 operation: a result of two components from the operands' components. -/
def flt16 (g : List (FV × FV) → FV × FV) (l : List Nat) : Nat × Bool :=
  let xs := l.map fun x => (unpackF f16 (x % 65536), unpackF f16 (x / 65536))
  let r := g (xs.map fun x => (x.1.1, x.2.1))
  let p := packFlt f16 r.1
  let q := packFlt f16 r.2
  (p.1 + 65536 * q.1, p.2 || q.2 || xs.any fun x => x.1.2 || x.2.2)

def arg {α : Type} (l : List α) (n : Nat) (d : α) : α := nth l n d

/-- The exact complex product, of the conjugate of b where asked. -/
def cmulF (a b : FV × FV) (conj : Bool) : FV × FV :=
  let bi := if conj then b.2.neg else b.2
  ((a.1.mul b.1).sub (a.2.mul bi), (a.1.mul bi).add (a.2.mul b.1))

/-- The minimum or maximum of two values' bits (R130); `pick` decides between zeros of opposite sign.
DESIGN CHOICE, safe: log entry 56. -/
def minmaxF (least pick : Bool) (x y : Nat) : Nat × Bool :=
  let a := unpackF f32 x
  let b := unpackF f32 y
  let va := packFlt f32 a.1
  let vb := packFlt f32 b.1
  let r := match a.1, b.1 with
    | .nan, _ => vb.1
    | _, .nan => va.1
    | p, q => if p.lt q then (if least then va.1 else vb.1) else if q.lt p then (if least then vb.1 else va.1) else if pick then va.1 else vb.1
  (r, a.2 || b.2)

/-- `cand` lies within a relative error of 2^−22 of 1/x, or of 1/√x. -/
def nearInv (root : Bool) (x cand : FV) : Bool :=
  let one : FV := .fin false 1 0
  let lo : FV := .fin false (2 ^ 22 - 1) (-22)
  let hi : FV := .fin false (2 ^ 22 + 1) (-22)
  let t := if root then x.mul (cand.mul cand) else x.mul cand
  let (l, h) := if root then (lo.mul lo, hi.mul hi) else (lo, hi)
  l.lt t && t.lt h && (one.lt hi)

/-- 1/x or 1/√x with an error below 2^−22 that the manual leaves open: `off` moves the result by some units of its last
place, where the bound still holds.
DESIGN CHOICE, safe: log entry 55. -/
def approxInv (root : Bool) (off : Nat) (x : Nat) : Nat × Bool :=
  let a := unpackF f32 x
  let one : FV := .fin false 1 0
  let r := packFlt f32 (one.div (if root then a.1.sqrt else a.1))
  let cand := r.1 + off - 4
  let v := unpackF f32 cand
  (if nearInv root a.1 v.1 then cand else r.1, r.2 || a.2)

def evalFlt (c : Core) (i : VIns) (fw : Nat) : VRes :=
  let w := 32
  let a := c.rv i.a
  let b := c.rv i.b
  let d := c.rv i.d
  let two (e : Nat) := [(a, e), (b, e)]
  let three (e : Nat) := [(d, e), (a, e), (b, e)]
  let one (e : Nat) := [(a, e)]
  let z := FV.zero
  let zz := (z, z)
  let f2 (g : FV → FV → FV) : VRes :=
    if i.et = 6 then mapFlt c i w two fun _ l => flt32 (fun v => g (arg v 0 z) (arg v 1 z)) l
    else mapFlt c i w two fun _ l => flt16 (fun v => (g (arg v 0 zz).1 (arg v 1 zz).1, g (arg v 0 zz).2 (arg v 1 zz).2)) l
  let addc (x y : FV × FV) : FV × FV := (x.1.add y.1, x.2.add y.2)
  let subc (x y : FV × FV) : FV × FV := (x.1.sub y.1, x.2.sub y.2)
  match i.fn with
  | .vfadd => f2 FV.add
  | .vfsub => f2 FV.sub
  | .vfmul => f2 FV.mul
  | .vfma => mapFlt c i w three fun _ l => flt32 (fun v => (arg v 0 z).add ((arg v 1 z).mul (arg v 2 z))) l
  | .vfms => mapFlt c i w three fun _ l => flt32 (fun v => (arg v 0 z).sub ((arg v 1 z).mul (arg v 2 z))) l
  | .vfcmul => mapFlt c i w two fun _ l => flt16 (fun v => cmulF (arg v 0 zz) (arg v 1 zz) false) l
  | .vfcmulj => mapFlt c i w two fun _ l => flt16 (fun v => cmulF (arg v 0 zz) (arg v 1 zz) true) l
  | .vfcma => mapFlt c i w three fun _ l => flt16 (fun v => addc (arg v 0 zz) (cmulF (arg v 1 zz) (arg v 2 zz) false)) l
  | .vfcmaj => mapFlt c i w three fun _ l => flt16 (fun v => addc (arg v 0 zz) (cmulF (arg v 1 zz) (arg v 2 zz) true)) l
  | .vfcms => mapFlt c i w three fun _ l => flt16 (fun v => subc (arg v 0 zz) (cmulF (arg v 1 zz) (arg v 2 zz) false)) l
  | .vfmin => mapFlt c i w two fun e l => minmaxF true (fw.testBit e) (arg l 0 0) (arg l 1 0)
  | .vfmax => mapFlt c i w two fun e l => minmaxF false (fw.testBit e) (arg l 0 0) (arg l 1 0)
  | .vfabs => mapFlt c i w one fun _ l => flt32 (fun v => match arg v 0 z with
      | .fin _ m e => .fin false m e
      | .inf _ => .inf false
      | .nan => .nan) l
  | .vfneg =>
    if i.et = 6 then mapFlt c i w one fun _ l => flt32 (fun v => (arg v 0 z).neg) l
    else mapFlt c i w one fun _ l => flt16 (fun v => ((arg v 0 zz).1.neg, (arg v 0 zz).2.neg)) l
  | .vfrcp => mapFlt c i w one fun e l => approxInv false (fw / 8 ^ e % 8) (arg l 0 0)
  | _ => mapFlt c i w one fun e l => approxInv true (fw / 8 ^ e % 8) (arg l 0 0)

/-- A float rounded to k bits, saturating: its bits, whether it saturated, whether a subnormal was read. -/
def fltToInt (f : Fmt) (k : Nat) (sc : Int) (x : Nat) : Nat × Bool × Bool :=
  let a := unpackF f x
  let r := (a.1.scale sc).toInt k
  (wrapTo k r.1, r.2, a.2)

def evalCvt (c : Core) (i : VIns) : VRes :=
  let a := c.rv i.a
  let b := c.rv i.b
  let n : Int := clampI (-32) 32 (sext 32 (c.rs i.b).toNat)
  let cf (x : Nat × Bool) (y : Nat × Bool) : Nat × Bool := (x.1 + 65536 * y.1, x.2 || y.2)
  match i.fn with
  | .cvtF32I32 => mapFlt c i 32 (fun e => [(a, e)]) fun _ l => packFlt f32 (FV.ofInt (sext 32 (arg l 0 0)) 0)
  | .cvtI32F32 =>
    let r := (c.actives i.k 32).map fun e => (e, fltToInt f32 32 0 (a.get 32 e), a.bad 32 e)
    vOut c i 32 (r.map fun x => (x.1, x.2.1.1, x.2.2)) { vsat := r.any fun x => x.2.1.2.1, ftz := r.any fun x => x.2.1.2.2 }
  | .cvtCf16Ci16 => mapFlt c i 32 (fun e => [(a, e)]) fun _ l =>
      cf (packFlt f16 (FV.ofInt (sext 16 (arg l 0 0)) (n - 15))) (packFlt f16 (FV.ofInt (sext 16 (arg l 0 0 / 65536)) (n - 15)))
  | .cvtCi16Cf16 =>
    let r := (c.actives i.k 32).map fun e =>
      (e, fltToInt f16 16 (15 - n) (a.get 32 e % 65536), fltToInt f16 16 (15 - n) (a.get 32 e / 65536), a.bad 32 e)
    vOut c i 32 (r.map fun x => (x.1, x.2.1.1 + 65536 * x.2.2.1.1, x.2.2.2))
      { vsat := r.any fun x => x.2.1.2.1 || x.2.2.1.2.1, ftz := r.any fun x => x.2.1.2.2 || x.2.2.1.2.2 }
  | .cvtF32l | .cvtF32h =>
    let off := if i.fn = .cvtF32h then 8 else 0
    mapFlt c i 32 (fun e => [(a, off + e / 2)]) fun e l =>
      let u := unpackF f16 (arg l 0 0 / 65536 ^ (e % 2) % 65536)
      let r := packFlt f32 u.1
      (r.1, r.2 || u.2)
  | _ =>
    mapFlt c i 32 (fun e => if e < 8 then [(a, 2 * e), (a, 2 * e + 1)] else [(b, 2 * e - 16), (b, 2 * e - 15)]) fun _ l =>
      let p := unpackF f32 (arg l 0 0)
      let q := unpackF f32 (arg l 1 0)
      let x := packFlt f16 p.1
      let y := packFlt f16 q.1
      (x.1 + 65536 * y.1, x.2 || y.2 || p.2 || q.2)

/-! ## Permutes (R132) -/

/-- Destination elements each copied from one element of some register; `idx` adds the poison of an index element. -/
def copyEls (c : Core) (i : VIns) (es : List Nat) (src : Nat → VReg × Nat) (idx : Nat → Bool := fun _ => false) : VRes :=
  let w := etW i.et
  vOut c i w (es.map fun e => let p := src e; (e, p.1.get w p.2, p.1.bad w p.2 || idx e))

/-- DEDUCED, unsafe: log entry 59. -/
def evalPerm (c : Core) (i : VIns) : VRes :=
  let w := etW i.et
  let n := etN i.et
  let a := c.rv i.a
  let b := c.rv i.b
  let d := c.rv i.d
  let es := c.actives i.k w
  let kk := (clampI 0 n (sext 32 (c.rs i.b).toNat)).toNat
  let cat (x y : VReg) (e : Nat) : VReg × Nat := if e < n then (x, e) else (y, e - n)
  let at_ := (c.rs i.b).toNat % n
  match i.fn with
  | .vperm => copyEls c i es (fun e => (a, b.get w e % n)) (b.bad w)
  | .vzipl => copyEls c i es fun e => (if e % 2 = 0 then a else b, e / 2)
  | .vziph => copyEls c i es fun e => (if e % 2 = 0 then a else b, n / 2 + e / 2)
  | .vuzpe => copyEls c i es fun e => cat a b (2 * e)
  | .vuzpo => copyEls c i es fun e => cat a b (2 * e + 1)
  | .vsldn => copyEls c i es fun e => cat a d (e + kk)
  | .vslup => copyEls c i es fun e => cat d a (n - kk + e)
  | .vrev => copyEls c i es fun e => (a, n - 1 - e)
  | .vbcast => vOut c i w (es.map fun e => (e, (c.rs i.a).toNat + (if i.et = 5 then 2 ^ 32 * (c.rs i.b).toNat else 0), false))
  | .vins => vOut c i w (if at_ * w < 8 * c.vl then [(at_, (c.rs i.a).toNat, false)] else [])
  | .vext => if a.bad w at_ && decide (at_ * w < 8 * c.vl) then vPoison else sOut i (w32 (wrapTo 32 (sext w (a.get w at_))))
  | _ => copyEls c i ((List.range n).filter fun e => decide (e * w < 8 * c.vl)) fun e => (if (c.rk i.k).getLsbD e then a else b, e)

/-! ## Reductions (R133) -/

/-- The pair sums of a list. -/
def pairSums : List Nat → List (Nat × Bool)
  | x :: y :: r => flt32 (fun v => (arg v 0 FV.zero).add (arg v 1 FV.zero)) [x, y] :: pairSums r
  | _ => []

/-- A pairwise sum of 2^k fp32 values. -/
def treeSum : Nat → List Nat → Bool → Nat × Bool
  | 0, l, z => (arg l 0 0, z)
  | k + 1, l, z => let r := pairSums l; treeSum k (r.map fun x => x.1) (z || r.any fun x => x.2)

/-- The index of the largest of some (index, value) pairs, the first on a tie. -/
def argmax {α : Type} (gt : α → α → Bool) : List (Nat × α) → Option (Nat × α)
  | [] => none
  | x :: xs => match argmax gt xs with
    | none => some x
    | some y => if gt y.2 x.2 then some y else some x

def evalRed (c : Core) (i : VIns) : VRes :=
  let w := etW i.et
  let a := c.rv i.a
  let es := c.actives i.k w
  if es.any (a.bad w) then vPoison else
  let vs : List Int := es.map fun e => sext w (a.elem w e)
  match i.fn with
  | .vradd => let r := satF 32 (vs.foldl (· + ·) 0); sOut i (w32 (wrapTo 32 r.1)) { vsat := r.2 }
  | .vrmax => sOut i (w32 (wrapTo 32 (vs.foldl max (-(2 ^ (w - 1) : Int)))))
  | .vrmin => sOut i (w32 (wrapTo 32 (vs.foldl min ((2 ^ (w - 1) : Int) - 1))))
  | .vrimax =>
    if i.et = 6 then
      let l := es.map fun e => (e, unpackF f32 (a.elem w e))
      let r := argmax FV.lt' ((l.filter fun x => decide (x.2.1 ≠ .nan)).map fun x => (x.1, x.2.1))
      sOut i (w32 ((r.map fun x => x.1).getD 0xFFFFFFFF)) { ftz := l.any fun x => x.2.2 }
    else
      let r := argmax (fun (x y : Int) => decide (y < x)) (es.zip vs)
      sOut i (w32 ((r.map fun x => x.1).getD 0xFFFFFFFF))
  | _ =>
    let r := treeSum 4 ((List.range 16).map fun e => if es.contains e then a.elem 32 e else 0) false
    sOut i (w32 r.1) { ftz := r.2 }
where FV.lt' (x y : FV) : Bool := y.lt x

/-! ## Predicates and SETVL (R117, R134) -/

def evalPred (c : Core) (i : VIns) : VRes :=
  let ka := (c.rk i.a).toNat
  let kb := (c.rk i.b).toNat
  let w := etW i.et
  let a := c.rv i.a
  let bits (p : Nat → Bool) (n : Nat) : Nat := listSum ((List.range n).map fun e => if p e then 2 ^ e else 0)
  match i.fn with
  | .kand => kOut i (Nat.land ka kb)
  | .kor => kOut i (Nat.lor ka kb)
  | .kxor => kOut i (Nat.xor ka kb)
  | .kandn => kOut i (Nat.land ka (2 ^ 64 - 1 - kb))
  | .knot => kOut i (2 ^ 64 - 1 - ka)
  | .kvl => kOut i (bits (fun e => decide (e * w < 8 * c.vl)) (512 / w))
  | .kpois => kOut i (bits (a.bad w) (512 / w))
  | .kpop => sOut i (w32 (popcount (c.rk i.a)))
  | .kfirst => sOut i (w32 (((List.range 64).find? fun e => ka.testBit e).getD 64))
  | .kset => kOut i ((c.rs i.a).toNat + 2 ^ 32 * (c.rs i.b).toNat)
  | .kget => sOut i (if i.b = 0 then lo32 ka else hi32 ka)
  | _ => sOut i (w32 (Nat.min (c.rs i.a).toNat (512 / w)))

/-- TAIL after a SETVL (R117). -/
def setvlTail (c : Core) (i : VIns) : Nat :=
  let w := etW i.et
  64 - Nat.min (c.rs i.a).toNat (512 / w) * w / 8

/-! ## Accumulators (R91–R97) -/

/-- The product terms that a MAC form adds to a complex lane. -/
def macTerm (f : VFn) (a b : Nat) : Int × Int :=
  let ar : Int := sext 16 a
  let ai : Int := sext 16 (a / 65536)
  let br : Int := sext 16 b
  let bi : Int := sext 16 (b / 65536)
  let i8 (x k : Nat) : Int := sext 8 (x / 2 ^ (8 * k))
  match f with
  | .cmac => (ar * br - ai * bi, ar * bi + ai * br)
  | .cmacj => (ar * br + ai * bi, ai * br - ar * bi)
  | .cmsc => (-(ar * br - ai * bi), -(ar * bi + ai * br))
  | .cmscj => (-(ar * br + ai * bi), -(ai * br - ar * bi))
  | .csq => (ar * ar + ai * ai, 0)
  | .rmac16 => (ar * br, ai * bi)
  | _ => (i8 a 0 * i8 b 0 + i8 a 1 * i8 b 1, i8 a 2 * i8 b 2 + i8 a 3 * i8 b 3)

/-- A lane after terms are added to the components named: `z` clears them first; `po` marks a poisoned input. A Z form that
rewrites one component of a lane keeps the lane's poison.
DESIGN CHOICE, safe: log entry 131. -/
def laneAdd (sat z doRe doIm po : Bool) (l : Lane) (t : Int × Int) : Lane × Bool :=
  let re := if doRe then accPut sat ((if z then 0 else l.re.toInt) + t.1) else (l.re, false)
  let im := if doIm then accPut sat ((if z then 0 else l.im.toInt) + t.2) else (l.im, false)
  ({ re := re.1, im := im.1, po := po || (l.po && !(z && doRe && doIm)) }, re.2 || im.2)

/-- A MAC form (R92–R94): what it does to each active lane of the accumulator that its pipeline's end finds (R73). -/
def evalMac (c : Core) (i : VIns) : VRes :=
  let a := c.rv i.a
  let b := c.rv i.b
  let real := decide (i.fn = .rmac16) || decide (i.fn = .rmac8)
  let ops := (List.range 16).map fun e =>
    let re := if real then c.active i.k 16 (2 * e) else c.active i.k 32 e
    let im := if real then c.active i.k 16 (2 * e + 1) else c.active i.k 32 e
    let t := macTerm i.fn (a.get 32 e) (b.get 32 e)
    if re || im then
      some { z := i.x.testBit 0, doRe := re, doIm := im, po := a.bad 32 e || (decide (i.fn ≠ .csq) && b.bad 32 e), re := t.1, im := t.2 : LaneOp }
    else none
  .ok { wr := [(.acc i.d, .mac (bit c.coreCfg 0) ops, 4)] }

/-- An accumulator after a MAC form, with whether a component overflowed. -/
def macLand (sat : Bool) (ops : List (Option LaneOp)) (acc : List Lane) : List Lane × Bool :=
  let r := (List.range 16).map fun e =>
    let l := nth acc e Lane.zero
    match nth ops e none with
    | some o => laneAdd sat o.z o.doRe o.doIm o.po l (o.re, o.im)
    | none => (l, false)
  (r.map fun x => x.1, r.any fun x => x.2)

/-- ACCZ and ACCMV (R97). -/
def evalAccCtl (c : Core) (i : VIns) : VRes :=
  if i.fn = .accz then
    .ok { wr := [(.acc i.d, .mac false ((List.range 16).map fun e =>
      if c.active i.k 32 e then some { z := true, doRe := true, doIm := true, po := false, re := 0, im := 0 } else none), 4)] }
  else .ok { wr := [(.acc i.d, .acc (c.ra i.a), 2)] }

/-- One extracted component: shifted, rounded, saturated to k bits (R96). -/
def extractC (k n : Nat) (trunc : Bool) (v : BitVec 40) : Nat × Bool :=
  let r := satF k (shiftR v.toInt n trunc)
  (wrapTo k r.1, r.2)

def evalExtract (c : Core) (i : VIns) : VRes :=
  let l := c.ra i.a
  let n := if i.x.testBit 7 then (clampI 0 39 (sext 32 (c.rs i.b).toNat)).toNat else i.x % 64
  let tr := i.x.testBit 6
  let (k, w, off) := if i.fn = .accx then (16, 32, 0) else if i.fn = .accxWl then (32, 64, 0) else (32, 64, 8)
  let r := (c.actives i.k w).map fun e =>
    let x := nth l (off + e) Lane.zero
    let p := extractC k n tr x.re
    let q := extractC k n tr x.im
    (e, p.1 + 2 ^ k * q.1, x.po, p.2 || q.2)
  vOut c i w (r.map fun x => (x.1, x.2.1, x.2.2.1)) { xsat := r.any fun x => x.2.2.2 }

/-- The multiply group (R95). -/
def evalMul (c : Core) (i : VIns) : VRes :=
  let q (v : Int) := satF 16 (rneShift v 15)
  let at16 (l : List Int) (n : Nat) : Int := nth l n 0
  if i.fn = .rmul16 then mapEls2 c { i with et := 1 } fun x y => sat2 1 [q (sext 16 x * sext 16 y)]
  else if i.fn = .crotj then mapEls c { i with et := 4 } fun x => let l := comps 4 x; sat2 4 [satF 16 (-(at16 l 1)), (at16 l 0, false)]
  else if i.fn = .crotnj then mapEls c { i with et := 4 } fun x => let l := comps 4 x; sat2 4 [(at16 l 1, false), satF 16 (-(at16 l 0))]
  else mapEls2 c { i with et := 4 } fun x y =>
    let t := macTerm (if i.fn = .cmul then .cmac else .cmacj) x y
    sat2 4 [q t.1, q t.2]

/-! ## Block floating point (R98) -/

/-- Bits below the sign bit of an int16 that equal it. -/
def normOf (x : Nat) : Nat :=
  let v := x % 65536
  let u := if 32768 ≤ v then 65535 - v else v
  if u = 0 then 15 else 14 - Nat.log2 u

/-- SHL.B by n: left and saturating, or right and rounded. -/
def shlB (n : Int) (x : Nat) : Nat × Bool :=
  if 0 ≤ n then let r := satF 16 (sext 16 x * 2 ^ n.toNat); (wrapTo 16 r.1, r.2)
  else (wrapTo 16 (rneShift (sext 16 x) (-n).toNat), false)

def evalBfp (c : Core) (i : VIns) : VRes :=
  let a := c.rv i.a
  match i.fn with
  | .norm => mapEls c { i with et := 1 } fun x => (normOf x, false)
  | .expb =>
    let l := ((c.actives i.k 16).filter fun e => !a.bad 16 e).map fun e => normOf (a.elem 16 e)
    sOut i (w32 (l.foldl Nat.min 15))
  | .shlB => mapEls c { i with et := 1 } (shlB (clampI (-16) 15 (sext 32 (c.rs i.b).toNat)))
  | _ => mapEls c { i with et := 1 } (shlB (sext 5 i.b))

end Sys2Proof.Machine
end

