-- ==== Sys2Proof/Machine/AwlEy.lean ====
section
/-! DEFINITION. The eyelets: block floating point, Gold sequences, CRC, soft demapping, phase rotation (R153–R170). -/

namespace Sys2Proof.Machine

/-- EYELET_PARAM with its reason (R157, R170). -/
def eyParam (reason : Nat) : VRes := .error { code := 0x0A, slot := 3, bad := some reason }

/-- A rational n / d rounded half-even. -/
def rneDiv (n d : Int) : Int :=
  let q := n / d
  let r := n % d
  if 2 * r < d then q else if d < 2 * r then q + 1 else if q % 2 = 0 then q else q + 1

/-! ## EY.BFP (R159–R162) -/

def bfpW (x : Nat) : Nat := nth [8, 9, 12, 14] x 8
def bfpS (x : Nat) : Nat := 1 + 3 * bfpW x

/-- The 24 mantissas of a packed block, by its bytes behind the exponent: most significant bit first. -/
def mantissas (w : Nat) (bytes : List Nat) : List Int :=
  let all := bytes.foldl (fun a b => a * 256 + b) 0
  (List.range 24).map fun k => sext w (all / 2 ^ (8 * bytes.length - w * (k + 1)))

/-- Bytes of a register. -/
def VReg.byte (r : VReg) (j : Nat) : Nat := r.elem 8 j

/-- Some word that holds bytes o to o + n − 1 is poisoned. -/
def VReg.badBytes (r : VReg) (o n : Nat) : Bool := (List.range n).any fun j => r.bad 8 (o + j)

def evalUnpack (c : Core) (i : VIns) : VRes :=
  let a := c.rv i.a
  let w := bfpW i.x
  let n := bfpS i.x
  let o := fld (c.rs i.b) 5 0
  if 64 < o + n then eyParam 1
  else
    let bad := a.badBytes o n
    let e := if bad then 0 else a.byte o % 16
    let m := if bad then List.replicate 24 0 else mantissas w ((List.range (n - 1)).map fun j => a.byte (o + 1 + j))
    let r := (List.range 16).map fun k =>
      if k < 12 then
        let p := satF 16 (nth m (2 * k) 0 * 2 ^ e)
        let q := satF 16 (nth m (2 * k + 1) 0 * 2 ^ e)
        (k, wrapTo 16 p.1 + 65536 * wrapTo 16 q.1, bad, p.2 || q.2)
      else (k, 0, false, false)
    vOut c i 32 (r.map fun x => (x.1, x.2.1, x.2.2.1)) { vsat := r.any fun x => x.2.2.2 }

/-- The exponent that PACK chooses (R162): the smallest that fits every component, else 16 − w. -/
def packExp (w : Nat) (l : List Int) : Nat × Bool :=
  match (List.range (17 - w)).find? fun e => l.all fun v => decide (satS w (rneShift v e) = rneShift v e) with
  | some e => (e, false)
  | none => (16 - w, true)

def evalPack (c : Core) (i : VIns) : VRes :=
  let a := c.rv i.a
  let w := bfpW i.x
  let n := bfpS i.x
  let o := fld (c.rs i.b) 5 0
  if 64 < o + n then eyParam 1
  else
    let bad := (List.range 12).any (a.bad 32)
    let l := (List.range 12).flatMap fun k => comps 4 (a.get 32 k)
    let (e, cl) := packExp w l
    let m := l.map fun v => wrapTo w (satS w (rneShift v e))
    let all := m.foldl (fun x v => 2 ^ w * x + v) 0
    let bytes := e :: (List.range (n - 1)).map fun j => all / 2 ^ (8 * (n - 2 - j)) % 256
    let els := (List.range n).map (fun j => (o + j, nth bytes j 0, bad)) ++ (List.range (64 - o - n)).map fun j => (o + n + j, 0, false)
    vOut c i 8 els { vsat := cl }

/-! ## EY.SEQ (R163) -/

/-- Both shift registers advanced by one bit. -/
def goldStep (x : Nat × Nat) : Nat × Nat :=
  let f1 := b2n (xor (x.1.testBit 3) (x.1.testBit 0))
  let f2 := b2n (xor (xor (x.2.testBit 3) (x.2.testBit 2)) (xor (x.2.testBit 1) (x.2.testBit 0)))
  (x.1 / 2 + 2 ^ 30 * f1, x.2 / 2 + 2 ^ 30 * f2)

def goldN : Nat → Nat × Nat → Nat × Nat
  | 0, x => x
  | n + 1, x => goldN n (goldStep x)

/-- n output bits from a state, first bit lowest. -/
def goldBits : Nat → Nat × Nat → Nat
  | 0, _ => 0
  | n + 1, x => b2n (xor (x.1.testBit 0) (x.2.testBit 0)) + 2 * goldBits n (goldStep x)

def seqOut (c : Core) (i : VIns) (bad : Bool) (x : Nat × Nat) (out : Nat) : VRes :=
  vOut c i 32 ([(0, x.1, bad), (1, x.2, bad), (2, out % 2 ^ 32, bad), (3, out / 2 ^ 32, bad)] ++ (List.range 12).map fun k => (4 + k, 0, false))

def evalSeq (c : Core) (i : VIns) : VRes :=
  let a := c.rv i.a
  let w0 := a.get 32 0 % 2 ^ 31
  let w1 := a.get 32 1 % 2 ^ 31
  match i.fn with
  | .eySeqStep => seqOut c i (a.bad 32 0 || a.bad 32 1) (goldN 64 (w0, w1)) (goldBits 64 (w0, w1))
  | .eySeqInit =>
    let x := goldN 1600 (1, w1)
    seqOut c i (a.bad 32 1) (goldN 64 x) (goldBits 64 x)
  | _ =>
    let k := (c.rs i.b).toNat
    if 4095 < k then eyParam 2
    else seqOut c i (a.bad 32 0 || a.bad 32 1) (goldN (64 * k) (w0, w1)) 0

/-! ## EY.CRC (R164, R165) -/

def crcGen (x : Nat) : Nat × Nat := nth [(24, 0x864CFB), (24, 0x800063), (24, 0xB2B117), (16, 0x1021), (11, 0x0621), (6, 0x21)] x (24, 0)

/-- Message bits fed into a remainder. -/
def crcFeed (l g : Nat) : List Bool → Nat → Nat
  | [], r => r
  | b :: bs, r =>
    let fb := xor b (r.testBit (l - 1))
    crcFeed l g bs (Nat.xor (r * 2 % 2 ^ l) (if fb then g else 0))

def evalCrc (c : Core) (i : VIns) : VRes :=
  let a := c.rv i.a
  let w := c.rs i.b
  let (l, g) := crcGen (i.x % 8)
  let n := fld w 30 24
  if n = 0 ∨ 64 < n then eyParam 3
  else if a.bad 32 0 || a.bad 32 1 then vPoison
  else
    let m := a.elem 64 0
    let bits := (List.range n).map fun k => m.testBit (if i.x < 8 then 63 - k else k)
    sOut i (w32 (2 ^ 24 * n + crcFeed l g bits ((fld w 23 0) % 2 ^ l)))

/-! ## EY.DEMAP (R166–R168) -/

/-- The level of the bits of one dimension, sign bit first, in units of Δ. -/
def level : List Bool → Int
  | [] => 0
  | [b] => if b then -1 else 1
  | b :: bs => (if b then -1 else 1) * (2 ^ bs.length - level bs)

/-- All bit patterns of n bits. -/
def patterns : Nat → List (List Bool)
  | 0 => [[]]
  | n + 1 => (patterns n).flatMap fun p => [false :: p, true :: p]

def minSq (y : Int) (l : List Int) : Int :=
  match l with
  | [] => 0
  | p :: ps => ps.foldl (fun a q => min a ((y - q) * (y - q))) ((y - p) * (y - p))

/-- The LLR of bit k of a dimension of q bits (R167), and whether it was clamped. -/
def llrOf (q k : Nat) (y delta g sh : Int) : Int × Bool :=
  let ps := patterns q
  let pts (b : Bool) := (ps.filter fun p => decide (nth p k false = b)).map fun p => level p * delta
  let num := (minSq y (pts true) - minSq y (pts false)) * g
  let v := rneDiv num (4 * delta * sh)
  (clampI (-127) 127 v, decide (clampI (-127) 127 v ≠ v))

def evalDemap (c : Core) (i : VIns) : VRes :=
  let a := c.rv i.a
  let w := c.rs i.b
  let delta := fld w 15 0
  let qm := 2 * i.x
  if delta = 0 ∨ 32767 < delta ∨ fld w 31 29 ≠ 0 then eyParam 4
  else
    let act := c.actives i.k 32
    let res := act.flatMap fun r =>
      let bad := a.bad 32 r
      let ys := comps 4 (a.get 32 r)
      (List.range qm).map fun b =>
        if bad then (r * qm + b, 0, true, false)
        else
          let v := llrOf (qm / 2) (b / 2) (nth ys (b % 2) 0) delta (fld w 23 16) (2 ^ fld w 28 24)
          (r * qm + b, wrapTo 8 v.1, false, v.2)
    let n := demapRegs i.x
    let tail := (List.range (64 * n - 16 * qm)).map fun k => (16 * qm + k, 0, false)
    let els := res.map (fun x => (x.1, x.2.1, x.2.2.1)) ++ tail
    .ok { wr := (List.range n).map fun j =>
            (.v (c.vIdx (i.d + j)), vWrite 8 ((els.filter fun x => decide (x.1 / 64 = j)).map fun x => (x.1 - 64 * j, x.2.1, x.2.2)), 3 + n),
          st := { vsat := res.any fun x => x.2.2.2 } }

/-! ## EY.PHASE (R169) -/

/-- π in units of 2^−100. -/
def pi100 : Int := 3982441812995697363688351113952

/-- Terms of the cosine and sine series in units of 2^−100: the angle, the number of terms left, the index, the last terms. -/
def cosSin (x : Int) : Nat → Int → Int → Int → Int × Int
  | 0, _, _, _ => (0, 0)
  | n + 1, k, t, u =>
    let f : Int := 2 ^ 100
    let t' := -(t * x / f * x / f / ((2 * k - 1) * (2 * k)))
    let u' := -(u * x / f * x / f / ((2 * k) * (2 * k + 1)))
    let r := cosSin x n (k + 1) t' u'
    (t' + r.1, u' + r.2)

/-- 32,767 × cos and × sin of 2πr / 2^14, rounded, for r up to 2^11. -/
def octant (r : Nat) : Int × Int :=
  let f : Int := 2 ^ 100
  let x := (r : Int) * pi100 / 8192
  let p := cosSin x 15 1 f x
  (rneDiv (32767 * (f + p.1)) f, rneDiv (32767 * (x + p.2)) f)

/-- The rotation factors of angle k (R169).
DEDUCED, safe: log entry 108. -/
def rotor (k : Nat) : Int × Int :=
  let r := k % 4096
  let (c, s) := if r ≤ 2048 then octant r else let (a, b) := octant (4096 - r); (b, a)
  match k / 4096 % 4 with
  | 0 => (c, s)
  | 1 => (-s, c)
  | 2 => (-c, -s)
  | _ => (s, -c)

def evalPhase (c : Core) (i : VIns) : VRes :=
  let a := c.rv i.a
  let th := (c.rs i.b).toNat
  let dl := (c.rs (i.b + 1)).toNat
  let r := (c.actives i.k 32).map fun e =>
    let k := (th + e * dl + 2 ^ 17) % 2 ^ 32 / 2 ^ 18
    let (co, si) := rotor k
    let s1 := if i.x.testBit 1 then -si else si
    let l := comps 4 (a.get 32 e)
    let x := nth l 0 0
    let y := nth l 1 0
    let p := satF 16 (rneShift (x * co - y * s1) 15)
    let q := satF 16 (rneShift (x * s1 + y * co) 15)
    (e, wrapTo 16 p.1 + 65536 * wrapTo 16 q.1, a.bad 32 e, p.2 || q.2)
  let w := (Dst.v (c.vIdx i.d), vWrite 32 (r.map fun x => (x.1, x.2.1, x.2.2.1)), 3)
  let adv := if i.x.testBit 0 then [(Dst.s i.b, Val.w (w32 (th + 16 * dl)), 2)] else []
  .ok { wr := w :: adv, st := { vsat := r.any fun x => x.2.2.2 } }

/-! ## The V slot -/

/-- The privilege level of a core: 0 F, 1 K, 2 T. -/
def Core.pl (c : Core) : Nat := fld c.status 18 17

/-- What the V-slot instruction does, with a free word for the values the manual leaves open. -/
def evalV (c : Core) (i : VIns) (fw : Nat) : VRes :=
  match i.fn.eyelet with
  | some n =>
    if !bit c.eyeEn (8 * c.pl + n) then .error { code := 9, slot := 3 }
    else match i.fn with
      | .eyUnpack => evalUnpack c i
      | .eyPack => evalPack c i
      | .eyCrc => evalCrc c i
      | .eyDemap => evalDemap c i
      | .eyPhase => evalPhase c i
      | _ => evalSeq c i
  | none =>
    if i.fn = .nop then .ok {}
    else if i.fn.mac then evalMac c i
    else if i.fn.extract then evalExtract c i
    else match i.fn with
      | .accz | .accmv => evalAccCtl c i
      | .cmul | .cmulj | .crotj | .crotnj | .rmul16 => evalMul c i
      | .norm | .expb | .shlB | .shlBi => evalBfp c i
      | .vceq | .vcne | .vclt | .vcle | .vcltu | .vcleu => evalCmp c i
      | .vconj | .vcswap | .vcmag2 | .vwidl | .vwidh | .vnarr => evalCplx c i
      | .vfadd | .vfsub | .vfmul | .vfcmul | .vfma | .vfcma | .vfms | .vfcms | .vfmin | .vfcmulj | .vfmax | .vfcmaj | .vfabs | .vfneg
      | .vfrcp | .vfrsq => evalFlt c i fw
      | .cvtF32I32 | .cvtI32F32 | .cvtCf16Ci16 | .cvtCi16Cf16 | .cvtF32l | .cvtF32h | .cvtCf16F32 => evalCvt c i
      | .vperm | .vzipl | .vziph | .vuzpe | .vuzpo | .vsldn | .vslup | .vrev | .vbcast | .vins | .vext | .vsel => evalPerm c i
      | .vradd | .vrmax | .vrmin | .vrimax | .vfradd => evalRed c i
      | .kand | .kor | .kxor | .kandn | .knot | .kvl | .kpois | .kpop | .kfirst | .kset | .kget | .setvl => evalPred c i
      | _ => evalInt c i

end Sys2Proof.Machine
end

