-- ==== Sys2Proof/Config.lean ====
section
/-! DEFINITION. What the manual leaves open: free values (opaque, no body) and values fixed at manufacture. -/

namespace Sys2Proof.Config

/-- The free value of the k-th draw where the manual states no value.
DESIGN CHOICE, safe: log entry 3. -/
opaque freeWord : Nat → W64

/-- The fused hash of the vendor key: 12 words (R589). -/
opaque vendorKeyHash : List W32
/-- The public key (24 words) that the signature of `OWNER_KEY_INSTALL` verifies with: R610 does not name it. -/
opaque ownerInstallKey : List W32
/-- The on-die route that start-up firmware writes from the fuse map, by source and destination NI (R4, R343): the hop
words 1 and 2 and the hop count.
DESIGN CHOICE, safe: log entry 37. -/
opaque route : Nat → Nat → W32 × W16 × Nat
/-- SECVER as fused at manufacture, 0–64 (R589). -/
opaque secver : Nat
/-- The certificate chain as its mirror holds it (R594), in bytes. -/
opaque certChain : List Byte
/-- The boot ROM's bytes (R595). -/
opaque bootRom : List Byte
/-- The device's Burgee public key, x then y (R593): 24 words. -/
opaque burgeeKey : List W32
/-- The signing engine: the 24-word signature of a 12-word digest under the Burgee private key (R593, R596). -/
opaque burgeeSign : List W32 → List W32
/-- The nonce that the on-die random source draws, by draw number (R598). -/
opaque nonce : Nat → W64

/-- The trim that a shell's `SHELL_CAL_STAT` reads (R532, R561), by kind (0 IVR, 1 sensor, 2 MRAM), unit and item: fixed at
manufacture.
DESIGN CHOICE, safe: log entry 117. -/
opaque trim : Nat → Nat → Nat → W16
/-- What a register of R19 reads, by address, that the manual places in a shell and gives no content.
DESIGN CHOICE, safe: log entry 117. -/
opaque shellWord : Nat → W32

/-- What a word of the MRAM store holds where the device has written nothing that the model keeps.
DESIGN CHOICE, unsafe: log entry 145. -/
opaque mramWord : Nat → W32

/-- The I3C target's provisioned ID, BCR and DCR bytes (R427). -/
opaque i3cPid : List Byte
opaque i3cBcr : Byte
opaque i3cDcr : Byte

/-- What a MAC's line shows of its error rate and faults at an instant of air-time, by MAC, ATS and the count of free values.
DESIGN CHOICE, safe: log entry 146. -/
opaque macLine : Nat → W64 → Nat → W32

/-- udCompHdr as a queue packet shows it for a section of a flow with STATIC = 1 and CMP = PASS (R409).
DESIGN CHOICE, safe: log entry 143. -/
opaque passHdr : Byte

/-! The tables of the 3GPP documents that R221 cites and the manual does not give. -/

/-- The circulant shift of TS 38.212 5.3.2 at (base graph 2?, lifting size, row, column); none for a zero block.
DESIGN CHOICE, safe: log entry 39. -/
opaque ldpcShift : Bool → Nat → Nat → Nat → Option Nat
/-- The polar sequence of TS 38.212 Table 5.3.1.2-1, the least reliable first. -/
opaque polarOrder : List Nat
/-- The sub-block interleaver of TS 38.212 Table 5.4.1.1-1, and the interleaver of its Table 5.3.1.1-1. -/
opaque polarSub : Nat → Nat
opaque polarInter : Nat → Nat
/-- f1 and f2 of the turbo interleaver of TS 36.212 Table 5.1.3-3, by K. -/
opaque turboQpp : Nat → Nat × Nat

/-! How the decoders narrow their numbers, and the PRACH filter: the manual names the algorithms (R216, R226, R230, R232) and
gives no word lengths and no taps. -/

/-- How a check message whose exact magnitude is no whole number is rounded, from 16 times that magnitude: up where odd (R226).
DESIGN CHOICE, safe: log entry 73. -/
opaque ldMessage : Nat → Nat
/-- The LLR of the sum of two bits from theirs (R230). -/
opaque polarCheck : Int → Int → Int
/-- How a scaled extrinsic LLR that is no whole number is rounded, from 16 times its exact value: up where odd (R232). -/
opaque turboExtrinsic : Int → Nat
/-- The gain of the PRACH filter for a decimation, a transform size and a bin of its input, in units of 2^−30 (R216).
DESIGN CHOICE, unsafe: log entry 71. -/
opaque prachGain : Nat → Nat → Nat → Int × Int

end Sys2Proof.Config
end

