-- ==== Sys2Proof/Machine/RegMap.lean ====
section
/-! DEFINITION. The register map: every register the manual places at an address, with its access code (R20) and its
reset value. A register not listed in the state's register file holds the reset value given here.

`key` is the internal physical address of the register; the queue-pair registers, which the manual places in BAR0
only, have the key 2^60 + BAR0 offset (a numbering of the model's own). -/

namespace Sys2Proof.Machine

/-- Who may write a register from the fabric or the host.
DEDUCED, unsafe: log entry 30. -/
inductive Guard where
  /-- only the management processor -/
  | mp
  /-- any initiator -/
  | open_
deriving DecidableEq, Repr

/-- A register block: where its units stand and which of them exist. -/
structure Blk where
  base  : Nat
  step  : Nat := 0
  units : Nat := 1
  here  : Variant → Nat → Bool := fun _ _ => true

/-- A register: its block, its offset, how often it repeats inside a unit, its access masks and its reset value. -/
structure Reg where
  blk   : Blk
  off   : Nat
  items : Nat := 1
  istep : Nat := 0
  rw    : W32 := 0
  w1c   : W32 := 0
  w1s   : W32 := 0
  ini   : Variant → Nat → Nat → W32 := fun _ _ _ => 0
  guard : Guard := .mp
  /-- the bits that exist in item i of unit u: a 1 written to another bit is ignored (R22) -/
  bits  : Variant → Nat → Nat → W32 := fun _ _ _ => 0xFFFFFFFF#32
  /-- a write that would leave this value is ignored unless it holds -/
  legal : W32 → Bool := fun _ => true

/-- The key of item i of unit u. -/
def Reg.key (r : Reg) (u i : Nat) : Nat := r.blk.base + r.blk.step * u + r.off + r.istep * i

namespace R

/-! ## Capability block (R5, R603) -/
def capB : Blk := { base := 0x030000000000 }
def capsVariant : Reg := { blk := capB, off := 0x04, ini := fun v _ _ => Variant.caps v }
def bootStat : Reg := { blk := capB, off := 0x10 }
def bootPush : Reg := { blk := capB, off := 0x14, rw := 0x003FFFFF#32, w1s := 0x80000000#32, guard := .open_ }
def fwVer : Reg := { blk := capB, off := 0x18 }
def secStat : Reg := { blk := capB, off := 0x1C }
def bootErr : Reg := { blk := capB, off := 0x20 }

/-! ## Timing shell (R31, R624) -/
def timB : Blk := { base := 0x030000100000 }
def timStat : Reg := { blk := timB, off := 0x08 }
def timEvt : Reg := { blk := timB, off := 0x0C, w1c := 0x1FF#32, guard := .open_ }
def timEvtEn : Reg := { blk := timB, off := 0x10, rw := 0x1FF#32 }
def timEvtCnt : Reg := { blk := timB, off := 0x14 }
def atCtl : Reg := { blk := timB, off := 0x40, rw := 0x0001FF0F#32, ini := fun _ _ _ => 0x00000A0F#32 }
def atStat : Reg := { blk := timB, off := 0x44 }
def atsOffset : Reg := { blk := timB, off := 0x50 }
def atPhaseErr : Reg := { blk := timB, off := 0x6C }
def atFreqOff : Reg := { blk := timB, off := 0x70 }
def atHoldErr : Reg := { blk := timB, off := 0x74, ini := fun _ _ _ => 0xFFFFFFFF#32 }
def atHoldCfg : Reg := { blk := timB, off := 0x78, rw := 0xFFFFFFFF#32, ini := fun _ _ _ => 0x01F40032#32 }
def atHoldLim : Reg := { blk := timB, off := 0x7C, rw := 0xFFFFFFFF#32, ini := fun _ _ _ => 0x5DC#32 }

/-! ## HBM shells (R260–R262) -/
def hbmB : Blk := { base := 0x030000200000, step := 0x10000, units := 2, here := stackHere }
def hbmEvt : Reg := { blk := hbmB, off := 0x0C, w1c := 0x1F#32, guard := .open_ }
def hbmEvtEn : Reg := { blk := hbmB, off := 0x10, rw := 0x1F#32 }
def hbmEvtCnt : Reg := { blk := hbmB, off := 0x14 }
def hbmCfg : Reg := { blk := hbmB, off := 0x40, rw := 0x1FF#32, ini := fun _ _ _ => 0x118#32 }
def hbmErrLo : Reg := { blk := hbmB, off := 0x48 }
def hbmErrHi : Reg := { blk := hbmB, off := 0x4C }
def hbmCount : Reg := { blk := hbmB, off := 0x50, items := 6, istep := 8 }

/-! ## Beam-array shells (R203) and job interface -/
def cmaB : Blk := { base := 0x030000400000, step := 0x10000, units := 16, here := cmaHere }
def cmaId : Reg := { blk := cmaB, off := 0x00, ini := fun _ u _ => packF [(0, 0x0B5), (12, u), (16, 1)] }
def cmaCtl : Reg := { blk := cmaB, off := 0x04, rw := 0xF#32, w1s := 0x10#32, ini := fun _ _ _ => 0xB#32, legal := fun w => decide (fld w 2 1 ≠ 3) }
def cmaStat : Reg := { blk := cmaB, off := 0x08, w1c := 0x2000#32, ini := fun _ _ _ => 0x100#32 }
def cmaEvt : Reg := { blk := cmaB, off := 0x0C, w1c := 0x1FF#32 }
def cmaEvtEn : Reg := { blk := cmaB, off := 0x10, rw := 0x1FF#32 }
def cmaEvtCnt : Reg := { blk := cmaB, off := 0x14 }
def cmaInj : Reg := { blk := cmaB, off := 0x18, rw := 0xFFFFFF07#32, w1s := 0x8#32, legal := fun w => decide (fld w 2 0 < 4) }
def cmaCalSel : Reg := { blk := cmaB, off := 0x1C, rw := 0x1F#32 }
def cmaPerrLast : Reg := { blk := cmaB, off := 0x24, ini := fun _ _ _ => 0x8000#32 }
def cmaRunCnt : Reg := { blk := cmaB, off := 0x28 }
def cmaWsid : Reg := { blk := cmaB, off := 0x2C, items := 4, istep := 4 }
def cmaTjNow : Reg := { blk := cmaB, off := 0x3C }
def cmaBandThr : Reg := { blk := cmaB, off := 0x40, rw := 0x0FFFFFFF#32, ini := fun _ _ _ => 0x02483018#32, legal := fun w => decide (fld w 7 0 < fld w 15 8) && decide (fld w 15 8 < fld w 23 16) }
def cmaDriftCfg : Reg := { blk := cmaB, off := 0x44, rw := 0x00FFFFFF#32, ini := fun _ _ _ => 0x000040C0#32, legal := fun w => decide (160 ≤ fld w 7 0) && decide (fld w 7 0 ≤ 216) && decide (16 ≤ fld w 23 8) && decide (fld w 23 8 ≤ 1024) }
def cmaCalCfg : Reg := { blk := cmaB, off := 0x48, rw := 0x1F#32, ini := fun _ _ _ => 0x8#32, legal := fun w => decide (2 ≤ fld w 4 0) }
def cmaBankStat : Reg := { blk := cmaB, off := 0x4C }
def cmaCount : Reg := { blk := cmaB, off := 0x50, items := 10, istep := 8 }
def cmaBankAddrLo : Reg := { blk := cmaB, off := 0xA0, items := 4, istep := 8 }
def cmaBankAddrHi : Reg := { blk := cmaB, off := 0xA4, items := 4, istep := 8 }

/-! ## Benches (R59–R66, R152, R203, R219, R256) -/
def benB : Blk := { base := 0x010000000000, step := 0x1000000, units := 16, here := benchHere }
def benArrB : Blk := { base := 0x010000000000, step := 0x1000000, units := 16, here := cmaHere }
def benchId : Reg := { blk := benB, off := 0x800000, ini := fun v u _ => packF [(0, u), (4, b2n (hasCma v))] }
def memCfg : Reg := { blk := benB, off := 0x800008, rw := 0x1FF#32, ini := fun _ _ _ => 0x13C#32 }
def memEvt : Reg := { blk := benB, off := 0x80000C, w1c := 0x7#32, guard := .open_ }
def memEvtEn : Reg := { blk := benB, off := 0x800010, rw := 0x7#32 }
def memEvtCnt : Reg := { blk := benB, off := 0x800014 }
def memErrAddr : Reg := { blk := benB, off := 0x800018 }
def memCount : Reg := { blk := benB, off := 0x800020, items := 4, istep := 8 }
def dmaCtl : Reg := { blk := benB, off := 0x810000, items := 4, istep := 0x100, rw := 0x1#32, w1s := 0x6#32, guard := .open_ }
def dmaStat : Reg := { blk := benB, off := 0x810004, items := 4, istep := 0x100 }
def dmaDescLo : Reg := { blk := benB, off := 0x810008, items := 4, istep := 0x100, rw := 0xFFFFFFC0#32, guard := .open_ }
def dmaDescHi : Reg := { blk := benB, off := 0x81000C, items := 4, istep := 0x100, rw := 0x0000FFFF#32, guard := .open_ }
def dmaCurLo : Reg := { blk := benB, off := 0x810010, items := 4, istep := 0x100 }
def dmaCurHi : Reg := { blk := benB, off := 0x810014, items := 4, istep := 0x100 }
def dmaProg : Reg := { blk := benB, off := 0x810018, items := 4, istep := 0x100 }
def dmaEvt : Reg := { blk := benB, off := 0x81001C, items := 4, istep := 0x100, w1c := 0x7#32, guard := .open_ }
/-- The counter of `DMA_EVT` (R64, R628): the manual gives it no offset, and no register map lists it.
DEDUCED, safe: log entry 28. -/
def dmaEvtCnt : Reg := { blk := { benB with base := 0x2010000000000000 }, off := 0x81001C, items := 4, istep := 0x100 }
def dsCount : Reg := { blk := benB, off := 0x820008, items := 2, istep := 8 }
def qCfg : Reg := { blk := benB, off := 0x830000, items := 64, istep := 0x100, rw := 0x00FF0FFF#32 }
def qBase : Reg := { blk := benB, off := 0x830004, items := 64, istep := 0x100, rw := 0x007FF000#32 }
def qSize : Reg := { blk := benB, off := 0x830008, items := 64, istep := 0x100, rw := 0x1FF#32, ini := fun _ _ _ => 1#32 }
def qProd : Reg := { blk := benB, off := 0x83000C, items := 64, istep := 0x100, rw := 0xFF07#32 }
def qHi : Reg := { blk := benB, off := 0x830010, items := 64, istep := 0x100, rw := 0x3FFFF#32 }
def qLo : Reg := { blk := benB, off := 0x830014, items := 64, istep := 0x100, rw := 0x3FFFF#32 }
def qLevel : Reg := { blk := benB, off := 0x830018, items := 64, istep := 0x100, rw := 0x3FFFF#32 }
def qCt : Reg := { blk := benB, off := 0x83001C, items := 64, istep := 0x100, rw := 0x3FFFF#32 }
def qStat : Reg := { blk := benB, off := 0x830020, items := 64, istep := 0x100, w1c := 0x40#32, ini := fun _ _ _ => 0x20#32, guard := .open_ }
def qEvt : Reg := { blk := benB, off := 0x830024, items := 64, istep := 0x100, w1c := 0xFF#32, guard := .open_ }
def qEvtEn : Reg := { blk := benB, off := 0x830028, items := 64, istep := 0x100, rw := 0xFF#32 }
def qEvtCnt : Reg := { blk := benB, off := 0x83002C, items := 64, istep := 0x100 }
def qXcnt : Reg := { blk := benB, off := 0x830034, items := 64, istep := 0x100 }
def qRdptr : Reg := { blk := benB, off := 0x830038, items := 64, istep := 0x100 }
def qWrptr : Reg := { blk := benB, off := 0x83003C, items := 64, istep := 0x100 }
def qRdstat : Reg := { blk := benB, off := 0x830048, items := 64, istep := 0x100 }
def qInj : Reg := { blk := benB, off := 0x83004C, items := 64, istep := 0x100, rw := 0x1FFFE#32, w1s := 0x1#32 }
def qCount (k : Nat) : Reg := { blk := benB, off := 0x830050 + 8 * k, items := 64, istep := 0x100 }
def lmemCount (k : Nat) : Reg := { blk := benB, off := 0x880020 + 8 * k, items := 8, istep := 0x10000 }
def shCtl : Reg := { blk := benB, off := 0x900000, rw := 0x3#32, w1s := 0x4#32, ini := fun _ _ _ => 1#32, guard := .open_ }
def shStat : Reg := { blk := benB, off := 0x900004, w1c := 0xFF#32, guard := .open_ }
/-- The counter of `SH_STAT` (R152, R628): the manual gives it no offset, and no register map lists it.
DEDUCED, safe: log entry 28. -/
def shStatCnt : Reg := { blk := { benB with base := 0x2010000000000000 }, off := 0x900004 }
def shCause : Reg := { blk := benB, off := 0x900008 }
def shEpc : Reg := { blk := benB, off := 0x90000C }
def leix : Reg := { blk := benB, off := 0x900010 }
def shBadaddr : Reg := { blk := benB, off := 0x900014 }
def fftStat : Reg := { blk := benB, off := 0x910000, items := 2, istep := 0x10000 }
def fftSymCount : Reg := { blk := benB, off := 0x910008, items := 2, istep := 0x10000 }
def fftPoisonCount : Reg := { blk := benB, off := 0x910010, items := 2, istep := 0x10000 }
def cmaJobStat : Reg := { blk := benArrB, off := 0x930000 }
def cmaJobVec : Reg := { blk := benArrB, off := 0x930008 }
def cmaJobTask : Reg := { blk := benArrB, off := 0x930010 }

/-! ## Cordwainer (R283, R305) -/
def cwB : Blk := { base := 0x020000D00000 }
def cwLiveMax : Reg := { blk := cwB, off := 0x04 }
def cwEvt : Reg := { blk := cwB, off := 0x18, w1c := 0xFFF#32, guard := .open_ }
def cwEvtEn : Reg := { blk := cwB, off := 0x1C, rw := 0xFFF#32 }
def cwEvtCnt : Reg := { blk := cwB, off := 0x20 }
def cwLastFailTask : Reg := { blk := cwB, off := 0x24 }
def cwLastFailStat : Reg := { blk := cwB, off := 0x28 }
def cwCount : Reg := { blk := cwB, off := 0x40, items := 16, istep := 8 }
def srB : Blk := { base := 0x020000D10000, step := 0x40, units := 64 }
def srBaseLo : Reg := { blk := srB, off := 0x00 }
def srBaseHi : Reg := { blk := srB, off := 0x04 }
def srCfg : Reg := { blk := srB, off := 0x08 }
def srTail : Reg := { blk := srB, off := 0x0C }
def srHead : Reg := { blk := srB, off := 0x10 }
def srDone : Reg := { blk := srB, off := 0x14 }

/-! ## Governor (R337) -/
def gvB : Blk := { base := 0x020000D20000 }
def gvStat : Reg := { blk := gvB, off := 0x00 }
def gvEvt : Reg := { blk := gvB, off := 0x04, w1c := 0x1FF#32, guard := .open_ }
def gvEvtEn : Reg := { blk := gvB, off := 0x08, rw := 0x1FF#32 }
def gvEvtCnt : Reg := { blk := gvB, off := 0x0C }
def gvTherm : Reg := { blk := gvB, off := 0x10 }
def gvSpare : Reg := { blk := gvB, off := 0x14 }
def gvDueValid : Reg := { blk := gvB, off := 0x18 }
def gvPoolTherm : Reg := { blk := gvB, off := 0x1C }
def gvCap : Reg := { blk := gvB, off := 0x40, items := 16, istep := 4 }
def gvCommit : Reg := { blk := gvB, off := 0x80, items := 16, istep := 4 }
def gvNextDue : Reg := { blk := gvB, off := 0xC0, items := 16, istep := 4 }
def gvLoad : Reg := { blk := gvB, off := 0x100, items := 18, istep := 4 }
def gvExcl : Reg := { blk := gvB, off := 0x150, items := 16, istep := 4 }
def gvExclPoolLo : Reg := { blk := gvB, off := 0x190, items := 2, istep := 8 }
def gvExclPoolHi : Reg := { blk := gvB, off := 0x194, items := 2, istep := 8 }
def gvCount : Reg := { blk := gvB, off := 0x200, items := 21, istep := 8 }

/-! ## Fabric (R368, R570) -/
def niB : Blk := { base := 0x030000800000, step := 0x2000, units := 40, here := niHere }
def niId : Reg := { blk := niB, off := 0x000, ini := fun _ u _ => packF [(0, u), (8, niDomain u)] }
def niTmo : Reg := { blk := niB, off := 0x004, rw := 0xFFFFFFFF#32, ini := fun _ _ _ => 0x1F4000FA#32, legal := fun w => decide (fld w 15 0 ≠ 0) && decide (fld w 31 16 ≠ 0) }
def niStat : Reg := { blk := niB, off := 0x008 }
def niEvt : Reg := { blk := niB, off := 0x00C, w1c := 0x7F#32 }
def niEvtEn : Reg := { blk := niB, off := 0x010, rw := 0x7F#32 }
def niEvtCnt : Reg := { blk := niB, off := 0x014 }
def niInj : Reg := { blk := niB, off := 0x018, w1s := 1#32 }
def niRate : Reg := { blk := niB, off := 0x020, items := 4, istep := 4, rw := 0x00FFF1FF#32, ini := fun _ _ _ => 0x00040000#32, legal := fun w => decide (fld w 8 0 ≤ 256) && decide (5 ≤ fld w 23 12) }
def niCount : Reg := { blk := niB, off := 0x040, items := 8, istep := 8 }
def rtB : Blk := { base := 0x030000900000, step := 0x100, units := 38, here := routerHere }
def rtPortEn : Reg := { blk := rtB, off := 0x00, ini := fun v k _ => BitVec.ofNat 32 (portsHere v k) }
def rtRcfg : Reg := { blk := rtB, off := 0x04, rw := 0x03FFFFFF#32, w1s := 0x04000000#32 }
def rtEvt : Reg := { blk := rtB, off := 0x08, w1c := 0xFF#32 }
def rtEvtEn : Reg := { blk := rtB, off := 0x0C, rw := 0xFF#32 }
def rtEvtCnt : Reg := { blk := rtB, off := 0x10 }
def rtInj : Reg := { blk := rtB, off := 0x18, rw := 0x1F#32, w1s := 0x20#32 }
def rtCount : Reg := { blk := rtB, off := 0x20, items := 5, istep := 8 }
def fnB : Blk := { base := 0x030000980000 }
def fnCfg : Reg := { blk := fnB, off := 0x000, rw := 0xFFFF#32, ini := fun _ _ _ => 0x4014#32, legal := fun w => decide (fld w 7 0 ≠ 0) && decide (fld w 15 8 ≠ 0) }
def fnEvt : Reg := { blk := fnB, off := 0x004, w1c := 0xF#32 }
def fnEvtEn : Reg := { blk := fnB, off := 0x008, rw := 0xF#32 }
def fnEvtCnt : Reg := { blk := fnB, off := 0x00C }
/-- the domains whose spine router holds a wake buffer on L16 variants (R363) -/
def spineDomain (d : Nat) : Bool := decide (d < 20) || decide (d = 36)
/-- the bits of `FN_CTL_d`: WOP_EN with a wake buffer only, and none for domains 37 and 38 (R363, R368) -/
def fnBits (v : Variant) (d : Nat) : W32 := if 37 ≤ d then 0#32 else if hasWop v && spineDomain d then 3#32 else 1#32
def fnCtl : Reg := { blk := fnB, off := 0x040, items := 39, istep := 4, rw := 0x3#32, bits := fun v _ d => fnBits v d, ini := fun v _ d => if hasWop v && spineDomain d then 2#32 else 0#32 }
def fnCount : Reg := { blk := fnB, off := 0x200, items := 3, istep := 8 }

/-! ## Lanes, quads and tracks (R394, R570) -/
def laneB : Blk := { base := 0x030001000000, step := 0x400, units := 256, here := laneHere }
def laneId : Reg := { blk := laneB, off := 0x00, ini := fun _ u _ => packF [(0, 0x0A1), (12, u), (20, 1)] }
def laneCtl : Reg := { blk := laneB, off := 0x04, rw := 0x1FF#32, w1s := 0x200#32, ini := fun _ u _ => if u < 16 then 0x103#32 else 0x100#32 }
def laneStat : Reg := { blk := laneB, off := 0x08, w1c := 0x400#32, ini := fun _ _ _ => 0x180#32 }
def laneEvt : Reg := { blk := laneB, off := 0x0C, w1c := 0x3FF#32 }
def laneEvtEn : Reg := { blk := laneB, off := 0x10, rw := 0x3FF#32 }
def laneEvtCnt : Reg := { blk := laneB, off := 0x14 }
def laneInj : Reg := { blk := laneB, off := 0x18, rw := 0xFFFF0003#32, w1s := 0x4#32, legal := fun w => decide (fld w 1 0 ≠ 3) }
def laneCalSel : Reg := { blk := laneB, off := 0x1C, rw := 0x1F#32 }
def lnFreq : Reg := { blk := laneB, off := 0x24 }
def lnLast : Reg := { blk := laneB, off := 0x28 }
def lnTrn0 : Reg := { blk := laneB, off := 0x40, rw := 0xFFFFFFFF#32, ini := fun _ _ _ => 0x0A321414#32, legal := fun w => decide (fld w 7 0 ≠ 0) && decide (fld w 15 8 ≠ 0) && decide (fld w 23 16 ≠ 0) && decide (fld w 31 24 ≠ 0) }
def lnTrn1 : Reg := { blk := laneB, off := 0x44, rw := 0x00FFFFFF#32, ini := fun _ _ _ => 0x0001140A#32, legal := fun w => decide (fld w 7 0 ≠ 0) && decide (fld w 15 8 ≠ 0) }
def lnLosCfg : Reg := { blk := laneB, off := 0x48, rw := 0xFFF#32, ini := fun _ _ _ => 0x314#32, legal := fun w => decide (10 ≤ fld w 7 0) && decide (fld w 7 0 ≤ 40) }
def lnTest : Reg := { blk := laneB, off := 0x4C, rw := 0x001FFFFF#32, w1s := 0x00200000#32, legal := fun w => decide (fld w 4 2 < 6) && decide (fld w 6 5 ≠ 3) && (decide (fld w 8 7 ≠ 3) || (decide (4 ≤ fld w 20 15) && decide (fld w 20 15 ≤ 40))) }
def lnUserLo : Reg := { blk := laneB, off := 0x50, rw := 0xFFFFFFFF#32 }
def lnUserHi : Reg := { blk := laneB, off := 0x54, rw := 0xFFFFFFFF#32 }
def lnChkErrLo : Reg := { blk := laneB, off := 0x58 }
def lnChkErrHi : Reg := { blk := laneB, off := 0x5C }
def lnChkBitsLo : Reg := { blk := laneB, off := 0x60 }
def lnChkBitsHi : Reg := { blk := laneB, off := 0x64 }
def lnCount : Reg := { blk := laneB, off := 0x80, items := 7, istep := 8 }
def quadB : Blk := { base := 0x030001040000, step := 0x100, units := 64, here := quadHere }
def quadId : Reg := { blk := quadB, off := 0x00, ini := fun _ u _ => packF [(0, 0x0A2), (12, u)] }
def quadStat : Reg := { blk := quadB, off := 0x08 }
def quadEvt : Reg := { blk := quadB, off := 0x0C, w1c := 0x3#32 }
def quadEvtEn : Reg := { blk := quadB, off := 0x10, rw := 0x3#32 }
def quadEvtCnt : Reg := { blk := quadB, off := 0x14 }
def quadInj : Reg := { blk := quadB, off := 0x18, rw := 0xFFFF0003#32, w1s := 0x4#32, legal := fun w => decide (fld w 1 0 ≠ 3) }
def qref : Reg := { blk := quadB, off := 0x40, rw := 0xF#32, ini := fun _ q _ => if 4 ≤ q ∧ q ≤ 7 then 1#32 else 0#32, legal := fun w => decide (fld w 1 0 ≠ 3) }
def rclkSel : Reg := { blk := { base := 0x030001044000 }, off := 0, items := 4, istep := 4, rw := 0x1FF#32 }

/-! ## Ethernet MACs (R430); one MAC block serves two lanes -/
def macB : Blk := { base := 0x030000C00000, step := 0x400, units := 128, here := fun v m => laneHere v (2 * m) }
def macCfg : Reg := { blk := macB, off := 0x00 }
def macStat : Reg := { blk := macB, off := 0x04 }
def macEvt : Reg := { blk := macB, off := 0x0C, w1c := 0x7F#32 }
def macEvtEn : Reg := { blk := macB, off := 0x10, rw := 0x7F#32 }
def macEvtCnt : Reg := { blk := macB, off := 0x14 }
def ptpAsym : Reg := { blk := macB, off := 0x20, rw := 0xFFFFFFFF#32 }
def macCount : Reg := { blk := macB, off := 0x40, items := 16, istep := 8 }
def pcieDrop : Reg := { blk := { base := 0x030000C00000 }, off := 0xC0 }

/-! ## PCIe queue pairs (R424) -/
/-- DESIGN CHOICE, safe: log entry 6. -/
def qpB : Blk := { base := 0x1000000000100000, step := 0x40, units := 64 }
def sqBaseLo : Reg := { blk := qpB, off := 0x00, rw := 0xFFFFFFC0#32, guard := .open_ }
def sqBaseHi : Reg := { blk := qpB, off := 0x04, rw := 0xFFFFFFFF#32, guard := .open_ }
def qpCfg : Reg := { blk := qpB, off := 0x08, rw := 0xF#32, guard := .open_, legal := fun v => 4 ≤ fld v 3 0 && fld v 3 0 ≤ 12 }
def sqTail : Reg := { blk := qpB, off := 0x0C }
def sqHead : Reg := { blk := qpB, off := 0x10 }
def cqBaseLo : Reg := { blk := qpB, off := 0x14, rw := 0xFFFFFFC0#32, guard := .open_ }
def cqBaseHi : Reg := { blk := qpB, off := 0x18, rw := 0xFFFFFFFF#32, guard := .open_ }
def cqHead : Reg := { blk := qpB, off := 0x1C }
def cqTail : Reg := { blk := qpB, off := 0x20 }

/-! ## Lace (R467) -/
def lcB : Blk := { base := 0x030000E00000, step := 0x200, units := 32 }
def lcCfg : Reg := { blk := lcB, off := 0x00 }
def lcStat : Reg := { blk := lcB, off := 0x04 }
def lcAsym : Reg := { blk := lcB, off := 0x08, rw := 0xFFFFFFFF#32 }
def lcEvt : Reg := { blk := lcB, off := 0x0C, w1c := 0xFF#32, guard := .open_ }
def lcEvtEn : Reg := { blk := lcB, off := 0x10, rw := 0xFF#32 }
def lcEvtCnt : Reg := { blk := lcB, off := 0x14 }
def lcInj : Reg := { blk := lcB, off := 0x18, w1s := 0x3#32 }
def lcCount : Reg := { blk := lcB, off := 0x40, items := 9, istep := 8 }
def ldB : Blk := { base := 0x030000E10000 }
def ldId : Reg := { blk := ldB, off := 0x00 }
def ldDom : Reg := { blk := ldB, off := 0x04 }
def ldHoist : Reg := { blk := ldB, off := 0x08, ini := fun _ _ _ => 0xF#32 }
def ldHerr : Reg := { blk := ldB, off := 0x0C, ini := fun _ _ _ => 0xFFFF#32 }
def ldCfg : Reg := { blk := ldB, off := 0x10, rw := 0x00FFFFFF#32, ini := fun _ _ _ => 0x003000F0#32, legal := fun w => decide (fld w 15 0 ≠ 0) && decide (fld w 23 16 ≠ 0) }
def ldBypass : Reg := { blk := ldB, off := 0x14, ini := fun _ _ _ => 0xF#32 }
def ldEvt : Reg := { blk := ldB, off := 0x18, w1c := 0xFF#32, guard := .open_ }
def ldEvtEn : Reg := { blk := ldB, off := 0x1C, rw := 0xFF#32 }
def ldEvtCnt : Reg := { blk := ldB, off := 0x20 }
def lcExportDeny : Reg := { blk := ldB, off := 0x40 }
def exportWin (k : Nat) : Reg := { blk := ldB, off := 0x100 + 4 * k, items := 8, istep := 0x20 }
def transitMap : Reg := { blk := { base := 0x030000E20000, step := 0x2000, units := 4 }, off := 0, items := 2048, istep := 4 }

/-! ## Pennant (R509) -/
def pnB : Blk := { base := 0x030000F00000 }
def pnCfg : Reg := { blk := pnB, off := 0x00, rw := 0xFF03#32, ini := fun _ _ _ => 0x3201#32, legal := fun w => decide (fld w 15 8 ≠ 0) }
def pnStat : Reg := { blk := pnB, off := 0x04 }
def pnEvt : Reg := { blk := pnB, off := 0x0C, w1c := 0x7F#32, guard := .open_ }
def pnEvtEn : Reg := { blk := pnB, off := 0x10, rw := 0x7F#32 }
def pnEvtCnt : Reg := { blk := pnB, off := 0x14 }
/-- item k is `PN_EVSINK_k`; item 0 reads 0 and `PN_EVSINK_7` routes nothing -/
def pnEvsink : Reg := { blk := pnB, off := 0x20, items := 8, istep := 4, rw := 0xFFFF0007#32, ini := fun _ _ i => if i = 0 ∨ i = 7 then 0#32 else 1#32 }
def pnCount : Reg := { blk := pnB, off := 0x40, items := 8, istep := 8 }
def pnEvseq : Reg := { blk := pnB, off := 0x80 }
def pnInj : Reg := { blk := pnB, off := 0x84, w1s := 0x3#32 }

/-! ## Power (R532) -/
/-- the low-power IVR limit of a domain in mA (R510) -/
def lpLimit (d : Nat) : Nat :=
  if d < 16 then 30 else if d < 18 then 40 else if d < 20 then 20 else if d < 36 then 15 else 0
def pwrB : Blk := { base := 0x030000680000 }
def pwrCfg : Reg := { blk := pwrB, off := 0x000, rw := 0xFFFF#32, ini := fun _ _ _ => 0x0802#32, legal := fun w => decide (fld w 15 8 ≠ 0) }
def pwrLimit : Reg := { blk := pwrB, off := 0x004, rw := 0xFFFFFFFF#32, ini := fun v _ _ => packF [(0, 10 * tdp v), (16, 1000)] }
def pwrStat : Reg := { blk := pwrB, off := 0x008, ini := fun _ _ _ => 0x00640000#32 }
def pwrEvt : Reg := { blk := pwrB, off := 0x00C, w1c := 0x3#32, guard := .open_ }
def pwrEvtEn : Reg := { blk := pwrB, off := 0x010, rw := 0x3#32 }
def pwrEvtCnt : Reg := { blk := pwrB, off := 0x014 }
def pdB : Blk := { base := 0x030000680100, step := 0x40, units := 39, here := domainHere }
/-- the fields of `PD_CFG` that a domain's allowed states support (R510, R532) -/
def pdCfgMask (d : Nat) : W32 :=
  if d < 18 then 0x003FFFFF#32 else if d < 36 then 0x000FFFFF#32 else if d < 38 then 0x000100FF#32 else 0#32
def pdCfg : Reg := { blk := pdB, off := 0x00, rw := 0x003FFFFF#32, ini := fun _ d _ => (if d < 20 then 0x00330402#32 else 0x00310402#32) &&& pdCfgMask d, bits := fun _ d _ => pdCfgMask d }
def pdStat : Reg := { blk := pdB, off := 0x04, ini := fun _ _ _ => 0x0001E000#32 }
def pdWake : Reg := { blk := pdB, off := 0x08 }
def pdWtick : Reg := { blk := pdB, off := 0x0C }
def pdLost : Reg := { blk := pdB, off := 0x10 }
def pdEvt : Reg := { blk := pdB, off := 0x14, w1c := 0x3F#32, guard := .open_ }
def pdEvtEn : Reg := { blk := pdB, off := 0x18, rw := 0x3F#32 }
def pdEvtCnt : Reg := { blk := pdB, off := 0x1C }
def pdCount : Reg := { blk := pdB, off := 0x20, items := 4, istep := 8 }
def ivrB : Blk := { base := 0x030000600000, step := 0x100, units := 38, here := domainHere }
def ivrId : Reg := { blk := ivrB, off := 0x00, ini := fun _ d _ => packF [(0, 0x1C0), (12, d), (18, 1)] }
def ivrCtl : Reg := { blk := ivrB, off := 0x04 }
def ivrStat : Reg := { blk := ivrB, off := 0x08, w1c := 0x4#32 }
def ivrEvt : Reg := { blk := ivrB, off := 0x0C, w1c := 0x7#32, guard := .open_ }
def ivrEvtEn : Reg := { blk := ivrB, off := 0x10, rw := 0x7#32 }
def ivrEvtCnt : Reg := { blk := ivrB, off := 0x14 }
def ivrInj : Reg := { blk := ivrB, off := 0x18, rw := 0xFFFF0003#32, w1s := 0x4#32 }
def ivrCalSel : Reg := { blk := ivrB, off := 0x1C, rw := 0xF#32 }
def ivrIout : Reg := { blk := ivrB, off := 0x24 }
def ivrVout : Reg := { blk := ivrB, off := 0x28 }
def ivrIlim : Reg := { blk := ivrB, off := 0x40, rw := 0xFFF#32, ini := fun _ _ _ => 0xC8#32, legal := fun w => decide (fld w 11 0 ≠ 0) }
def ivrLplim : Reg := { blk := ivrB, off := 0x44, ini := fun _ d _ => w32 (lpLimit d) }

/-! ## Thermal and MRAM (R561) -/
def tsB : Blk := { base := 0x030000700000, step := 0x100, units := 64, here := sensorHere }
def tsId : Reg := { blk := tsB, off := 0x00, ini := fun _ s _ => packF [(0, 0x0C5), (12, s), (18, 1)] }
def tsCtl : Reg := { blk := tsB, off := 0x04, rw := 0x1#32, ini := fun _ _ _ => 1#32 }
def tsStat : Reg := { blk := tsB, off := 0x08, w1c := 0x2#32 }
def tsEvt : Reg := { blk := tsB, off := 0x0C, w1c := 0x1#32, guard := .open_ }
def tsEvtEn : Reg := { blk := tsB, off := 0x10, rw := 0x1#32 }
def tsEvtCnt : Reg := { blk := tsB, off := 0x14 }
def tsInj : Reg := { blk := tsB, off := 0x18, rw := 0xFFFF7FFB#32, w1s := 0x4#32, legal := fun w => decide (fld w 1 0 ≠ 3) }
def tsCalSel : Reg := { blk := tsB, off := 0x1C, rw := 0x3#32 }
def tsValue : Reg := { blk := tsB, off := 0x24 }
def thB : Blk := { base := 0x030000704000 }
def thStat : Reg := { blk := thB, off := 0x00, ini := fun _ _ _ => 0x06400000#32 }
def thCfg : Reg := { blk := thB, off := 0x04, rw := 0xFF01#32, ini := fun _ _ _ => 0x5F01#32, legal := fun w => decide (80 ≤ fld w 15 8) && decide (fld w 15 8 ≤ 105) }
def thEvt : Reg := { blk := thB, off := 0x08, w1c := 0x1FF#32, guard := .open_ }
def thEvtEn : Reg := { blk := thB, off := 0x0C, rw := 0x1FF#32 }
def thEvtCnt : Reg := { blk := thB, off := 0x10 }
def thTripseq : Reg := { blk := thB, off := 0x14 }
def thTripAtsLo : Reg := { blk := thB, off := 0x18 }
def thTripAtsHi : Reg := { blk := thB, off := 0x1C }
def thTripInfo : Reg := { blk := thB, off := 0x20 }
def thHbm : Reg := { blk := thB, off := 0x24 }
def thMram : Reg := { blk := thB, off := 0x28 }
def thZone : Reg := { blk := thB, off := 0x40, items := 38, istep := 4 }
def thCount : Reg := { blk := thB, off := 0x100, items := 4, istep := 8 }
def mrB : Blk := { base := 0x030000780000 }
def mrId : Reg := { blk := mrB, off := 0x00, ini := fun _ _ _ => packF [(0, 0x0D1), (18, 1)] }
def mrCtl : Reg := { blk := mrB, off := 0x04, rw := 1#32, ini := fun _ _ _ => 1#32 }
def mrStat : Reg := { blk := mrB, off := 0x08, w1c := 0x8#32 }
def mrEvt : Reg := { blk := mrB, off := 0x0C, w1c := 0x1FF#32, guard := .open_ }
def mrEvtEn : Reg := { blk := mrB, off := 0x10, rw := 0x1FF#32 }
def mrEvtCnt : Reg := { blk := mrB, off := 0x14 }
def mrInj : Reg := { blk := mrB, off := 0x18, rw := 0x3#32, w1s := 0x4#32 }
def mrCalSel : Reg := { blk := mrB, off := 0x1C, rw := 0x3#32 }
def jnEpoch : Reg := { blk := mrB, off := 0x40 }
def jnSeg : Reg := { blk := mrB, off := 0x44 }
def jnNextseq : Reg := { blk := mrB, off := 0x48 }
def jnNextseqHi : Reg := { blk := mrB, off := 0x4C }
def mrCount : Reg := { blk := mrB, off := 0x80, items := 4, istep := 8 }

end R

/-- Every register, in the order of the manual's chapters.
DEDUCED, safe: log entry 16. -/
def allRegs : List Reg :=
  [R.capsVariant, R.bootStat, R.bootPush, R.fwVer, R.secStat, R.bootErr, R.timStat, R.timEvt, R.timEvtEn, R.timEvtCnt,
   R.atCtl, R.atStat, R.atsOffset, R.atPhaseErr, R.atFreqOff, R.atHoldErr, R.atHoldCfg, R.atHoldLim] ++
  [R.hbmEvt, R.hbmEvtEn, R.hbmEvtCnt, R.hbmCfg, R.hbmErrLo, R.hbmErrHi, R.hbmCount,
   R.cmaId, R.cmaCtl, R.cmaStat, R.cmaEvt, R.cmaEvtEn, R.cmaEvtCnt, R.cmaInj, R.cmaCalSel, R.cmaPerrLast, R.cmaRunCnt,
   R.cmaWsid, R.cmaTjNow, R.cmaBandThr, R.cmaDriftCfg, R.cmaCalCfg, R.cmaBankStat, R.cmaCount, R.cmaBankAddrLo, R.cmaBankAddrHi] ++
  [R.benchId, R.memCfg, R.memEvt, R.memEvtEn, R.memEvtCnt, R.memErrAddr, R.memCount, R.dmaCtl, R.dmaStat, R.dmaDescLo,
   R.dmaDescHi, R.dmaCurLo, R.dmaCurHi, R.dmaProg, R.dmaEvt, R.dsCount, R.qCfg, R.qBase, R.qSize, R.qProd, R.qHi, R.qLo,
   R.qLevel, R.qCt, R.qStat, R.qEvt, R.qEvtEn, R.qEvtCnt, R.qXcnt, R.qRdptr, R.qWrptr, R.qRdstat, R.qInj] ++
  (List.range 6).map R.qCount ++ (List.range 4).map R.lmemCount ++
  [R.shCtl, R.shStat, R.shCause, R.shEpc, R.leix, R.shBadaddr, R.fftStat, R.fftSymCount, R.fftPoisonCount, R.cmaJobStat,
   R.cmaJobVec, R.cmaJobTask, R.cwLiveMax, R.cwEvt, R.cwEvtEn, R.cwEvtCnt, R.cwLastFailTask, R.cwLastFailStat, R.cwCount,
   R.srBaseLo, R.srBaseHi, R.srCfg, R.srTail, R.srHead, R.srDone] ++
  [R.gvStat, R.gvEvt, R.gvEvtEn, R.gvEvtCnt, R.gvTherm, R.gvSpare, R.gvDueValid, R.gvPoolTherm, R.gvCap, R.gvCommit,
   R.gvNextDue, R.gvLoad, R.gvExcl, R.gvExclPoolLo, R.gvExclPoolHi, R.gvCount, R.niId, R.niTmo, R.niStat, R.niEvt, R.niEvtEn,
   R.niEvtCnt, R.niInj, R.niRate, R.niCount, R.rtPortEn, R.rtRcfg, R.rtEvt, R.rtEvtEn, R.rtEvtCnt, R.rtInj, R.rtCount, R.fnCfg,
   R.fnEvt, R.fnEvtEn, R.fnEvtCnt, R.fnCtl, R.fnCount] ++
  [R.laneId, R.laneCtl, R.laneStat, R.laneEvt, R.laneEvtEn, R.laneEvtCnt, R.laneInj, R.laneCalSel, R.lnFreq, R.lnLast, R.lnTrn0,
   R.lnTrn1, R.lnLosCfg, R.lnTest, R.lnUserLo, R.lnUserHi, R.lnChkErrLo, R.lnChkErrHi, R.lnChkBitsLo, R.lnChkBitsHi, R.lnCount,
   R.quadId, R.quadStat, R.quadEvt, R.quadEvtEn, R.quadEvtCnt, R.quadInj, R.qref, R.rclkSel, R.macCfg, R.macStat, R.macEvt,
   R.macEvtEn, R.macEvtCnt, R.ptpAsym, R.macCount, R.pcieDrop] ++
  [R.sqBaseLo, R.sqBaseHi, R.qpCfg, R.sqTail, R.sqHead, R.cqBaseLo, R.cqBaseHi, R.cqHead, R.cqTail, R.lcCfg, R.lcStat, R.lcAsym,
   R.lcEvt, R.lcEvtEn, R.lcEvtCnt, R.lcInj, R.lcCount, R.ldId, R.ldDom, R.ldHoist, R.ldHerr, R.ldCfg, R.ldBypass, R.ldEvt,
   R.ldEvtEn, R.ldEvtCnt, R.lcExportDeny] ++ (List.range 6).map R.exportWin ++
  [R.transitMap, R.pnCfg, R.pnStat, R.pnEvt, R.pnEvtEn, R.pnEvtCnt, R.pnEvsink, R.pnCount, R.pnEvseq, R.pnInj,
   R.pwrCfg, R.pwrLimit, R.pwrStat, R.pwrEvt, R.pwrEvtEn, R.pwrEvtCnt, R.pdCfg, R.pdStat, R.pdWake, R.pdWtick, R.pdLost, R.pdEvt,
   R.pdEvtEn, R.pdEvtCnt, R.pdCount, R.ivrId, R.ivrCtl, R.ivrStat, R.ivrEvt, R.ivrEvtEn, R.ivrEvtCnt, R.ivrInj, R.ivrCalSel,
   R.ivrIout, R.ivrVout, R.ivrIlim, R.ivrLplim] ++
  [R.tsId, R.tsCtl, R.tsStat, R.tsEvt, R.tsEvtEn, R.tsEvtCnt, R.tsInj, R.tsCalSel, R.tsValue, R.thStat, R.thCfg, R.thEvt,
   R.thEvtEn, R.thEvtCnt, R.thTripseq, R.thTripAtsLo, R.thTripAtsHi, R.thTripInfo, R.thHbm, R.thMram, R.thZone, R.thCount,
   R.mrId, R.mrCtl, R.mrStat, R.mrEvt, R.mrEvtEn, R.mrEvtCnt, R.mrInj, R.mrCalSel, R.jnEpoch, R.jnSeg, R.jnNextseq, R.jnNextseqHi, R.mrCount]

/-- The unit and item that an address names in a register, if it names one. -/
def Reg.at? (r : Reg) (a : Nat) : Option (Nat × Nat) :=
  if a < r.blk.base + r.off then none
  else
    let d := a - r.blk.base - r.off
    let u := if r.blk.step = 0 then 0 else d / r.blk.step
    let e := if r.blk.step = 0 then d else d % r.blk.step
    let i := if r.istep = 0 then 0 else e / r.istep
    if u < r.blk.units ∧ i < r.items ∧ e = i * r.istep then some (u, i) else none

/-- The register, unit and item at an address. -/
def regAt (a : Nat) : Option (Reg × Nat × Nat) :=
  allRegs.findSome? fun r => (r.at? a).map fun ui => (r, ui.1, ui.2)

end Sys2Proof.Machine
end

