-- ==== Sys2Proof/Machine/Parts.lean ====
section
/-! DEFINITION. The pieces of the state that the manual gives the units beside their registers: plain data. -/

namespace Sys2Proof.Machine

/-! ## Memories (R53, R56, R83, R259) -/

/-- What a 64-bit memory word's check byte says (R56): correct, the poison code, one flipped bit, or anything else.
DESIGN CHOICE, unsafe: log entry 22. -/
inductive Mark where
  | clean | poison | single | double
deriving DecidableEq, Repr

/-- The addressed memories: HBM, bench memories and the Awl local and program memories, by internal address. -/
structure Memory where
  /-- the bytes; an address not listed reads 0 -/
  bytes : List Host.Cell
  /-- the check state of 64-bit words, by word number (address / 8); a word not listed reads as `lost` says -/
  marks : List (Nat × Mark)
  /-- word ranges (first, count) whose words not listed in `marks` are poison: memories lost (R526, R527) -/
  lost  : List (Nat × Nat)
deriving DecidableEq, Repr

/-! ## Air-time (R25–R51, R420, R421) -/

/-- The timing unit beside its registers. -/
structure AirTime where
  /-- the captures of R31 by fabric initiator: `ATS` and `ATS_OFFSET` at the capture -/
  captures : List (Nat × W64 × W32)
  /-- consecutive measurements at or above 1 µs in LOCKED, and below 1 µs in OFFSET_HELD (R34) -/
  overN    : Nat
  underN   : Nat
  /-- LOCKED or OFFSET_HELD was reached since reset (R34) -/
  reached  : Bool
  /-- E0 in Tc and the seconds since HOLDOVER was entered (R35) -/
  e0       : Nat
  held     : Nat
  /-- the magnitude in Tc of the last phase error measured (R35) -/
  lastErr  : Nat
  /-- the holdover estimate is a known one (R35), and was above its limit at its last update -/
  estKnown : Bool
  estOver  : Bool
  /-- good consecutive `PPS_IN` edges, consecutive missed ones, and the stamp of the last edge (R33, R420) -/
  edges    : Nat
  missed   : Nat
  lastEdge : Option Nat
  /-- a valid time-of-day message has arrived since the last edge, and its GPS seconds (R421) -/
  todFresh : Option Nat
  /-- GPS − UTC seconds once known (R47) -/
  leaps    : Option Byte
  /-- `PPS_IN` compensation in Tc (R48) -/
  ppsComp  : W32
  /-- Δ of the last step applied, saturated (R47) -/
  lastDelta : W32
  /-- the furthest air-time before a backward step: what recurs up to it triggers nothing again (R41) -/
  barTo    : Nat
  /-- the ticks that the last forward step skipped: the first and the tick it reached (R41, R276) -/
  skipFrom : Nat
  skipTo   : Nat
  /-- `PPS_OUT` pulses and time-of-day messages sent: the stamp of the last pulse, the message's bytes (R420) -/
  ppsOut   : Option Nat
  todOut   : Option (List Byte)
deriving DecidableEq, Repr

/-! ## Pennant (R477–R509) -/

/-- A reply the device has sent (R482): the stream it goes back on, the command's TAG and OPCODE, LOCAL, TARGET, whether it
carries a CRC, its status and its parameters. -/
structure Reply where
  stream : Nat
  tag    : W16
  opcode : Nat
  self   : Bool
  target : W16
  crcv   : Bool
  status : Status
  words  : List W32
deriving DecidableEq, Repr

/-- An event packet (R483): its kind k (0x0E80 + k), its SEQ, the ATS at which it arose, and words 2 onward. -/
structure Event where
  kind  : Nat
  seq   : Nat
  ats   : W64
  words : List W32
deriving DecidableEq, Repr

/-- An event sink's buffer (R485). -/
structure Sink where
  buf  : List Event
  /-- events dropped since the last EV_LOST, and the SEQ of the first of them -/
  lost : Nat
  lostSeq : Nat
deriving DecidableEq, Repr

/-- A command of a commit: its opcode and its parameters. -/
structure Inner where
  opcode : Nat
  tag    : W16
  note   : Bool
  params : List W32
deriving DecidableEq, Repr

/-- A commit staged in shadow state (R495): its boundary instant, and for a `COMMIT_GROUP` its inner commands. -/
structure Commit where
  opcode : Nat
  tag    : W16
  stream : Nat
  note   : Bool
  /-- the boundary instant B as an ATS value (R38), and its word pair -/
  bnd    : Nat
  w0     : W32
  w1     : W32
  params : List W32
  inner  : List Inner
  /-- staged by a domain commit that is not yet confirmed (R465) -/
  prepared : Bool
deriving DecidableEq, Repr

/-- A command that is executing and holds its stream (R490). -/
structure Held where
  opcode : Nat
  req    : Req
  /-- the status with which a check of R480 has refused it, and whether its header was unreadable (no reply packet) -/
  fail   : Option Status := none
  noHdr  : Bool := false
  /-- the device that it is to be forwarded to (R493) -/
  fwd    : Option Nat := none
deriving DecidableEq, Repr

/-- A command forwarded over Lace, awaiting its reply (R493). -/
structure Forward where
  opcode : Nat
  req    : Req
  xid    : Nat
  target : Nat
deriving DecidableEq, Repr

/-- Fragments of a Pennant packet arriving over Lace (R494). -/
structure Partial where
  src   : W16
  xid   : Nat
  last  : Nat
  frags : List (Nat × List W32)
  /-- a word of it was poisoned -/
  bad   : Bool
deriving DecidableEq, Repr

/-- The Pennant unit beside its registers.
DESIGN CHOICE, safe: log entry 17. -/
structure Pennant where
  replies : List Reply
  /-- event sinks: PCIe, I3C, Lace -/
  pcieSink : Sink
  i3cSink  : Sink
  laceSink : Sink
  /-- commands that wait for their stream or for Urvar (R490, R491) -/
  waiting  : List Held
  /-- commands executing that hold their stream -/
  held     : List Held
  commits  : List Commit
  forwards : List Forward
  nextXid  : Nat
  partials : List Partial
  /-- the reply awaiting an I3C private read (R489) -/
  i3cReply : Option Reply
  /-- packets sent over Lace: target device, opcode, tag -/
  laceSent : List (Nat × Nat × Nat)
deriving DecidableEq, Repr

/-! ## Power (R510–R532) -/

/-- A power domain beside its registers. -/
structure Domain where
  /-- the state held before the entry under way (R522): 0 RUN, 1 IDLE -/
  prev     : Nat
  /-- the running entry or exit takes the OFF path -/
  offPath  : Bool
  /-- SLOW applies to this entry (R534) -/
  slow     : Bool
  /-- the entry is an automatic one (R529) -/
  auto     : Bool
  /-- HOLD of the pending request (R530) -/
  pendHold : Bool
  /-- the source of the pending wake, 0 none (R523) -/
  pendSrc  : Nat
  /-- OFF was reached by a brown-out (R527, R528) -/
  brown    : Bool
  /-- a save image of the listed registers is held in the AO save memory (R518) -/
  image    : Bool
  /-- tick edges with no engine active (R520) -/
  idleT    : Nat
  /-- an entry to RETAIN commanded while busy waits (R531) -/
  waitRet  : Bool
  /-- the frequency level the domain runs at, and the ramp's target while one runs (R513) -/
  fitNow   : Nat
  fitGoal  : Option Nat
  fitNext  : Option Nat
  /-- banks whose canaries the next entry writes inverted (DID 0x13), and those so written -/
  canary   : W32
  canaryOn : W32
  /-- memory retention CRCs were taken in step C (R522) -/
  crcTaken : Bool
  /-- excluded from placement by its power state (R330) -/
  excl     : Bool
  /-- the ATS at which RETAIN or OFF was entered, for `PD_RES_TICKS` -/
  since    : Nat
  /-- the due tick that the last pre-wake was for (R524, R41) -/
  preFor   : Option Nat
  /-- the last phase of an entry to OFF: the IVR output is being removed (R522) -/
  removing : Bool
deriving DecidableEq, Repr

/-! ## Thermal, journal and ledger (R538–R560) -/

/-- The thermal unit beside its registers; the fields named AO survive a shutdown (R543). -/
structure Thermal where
  /-- AO: the seconds counter -/
  seconds : Nat
  /-- AO: stamps of the last three trips, newest first -/
  stamps  : List Nat
  /-- consecutive samples of device Tj at or above 120 °C -/
  shutRun : Nat
  /-- the sensor that first crossed 120 °C in the present run -/
  firstHot : Nat
  /-- ATS at which the injection at a sensor ends, by sensor -/
  injEnd  : List (Nat × Nat)
  /-- sensors whose invalid reading has raised SENSOR_FAIL -/
  failed  : List Nat
  /-- AO: `THERM_RESTART` was accepted -/
  restart : Bool
  /-- AO: the trip latched is LOCKED -/
  lockTrip : Bool
  /-- the latched HBM readings at or above HBM_THR -/
  hbmHot  : Bool
  /-- AO: power and THR_PCT latched at the trip -/
  tripPower : Nat
  tripPct : Nat
deriving DecidableEq, Repr

/-- A trip record (R548). -/
structure TripRec where
  sensor : Nat
  inj    : Bool
  lock   : Bool
  tj     : Nat
  ats    : W64
  seq    : Nat
  power  : Nat
  pct    : Nat
deriving DecidableEq, Repr

/-- A journal record (R552); `bad` when its stored CRC is wrong. -/
structure JRec where
  typ     : Nat
  seq     : Nat
  group   : Nat
  key     : W32
  payload : List W32
  bad     : Bool
deriving DecidableEq, Repr

/-- The state word of a segment (R551). -/
inductive SegState where
  | open_ | sealed | retired
deriving DecidableEq, Repr

/-- A journal segment that is not FREE (R551). -/
structure Seg where
  idx    : Nat
  gen    : Nat
  epoch  : Nat
  first  : Nat
  state  : SegState
  recs   : List JRec
deriving DecidableEq, Repr

/-- The journal (R551–R557). -/
structure Journal where
  segs    : List Seg
  nextGen : Nat
  nextGroup : Nat
  /-- changes held in MP memory during a compaction -/
  held    : List JRec
  /-- DETECT records counted in MP memory only while the journal is full (R577) -/
  memOnly : Nat
deriving DecidableEq, Repr

/-- A boot-profile slot of the MRAM store (R560). -/
structure Profile where
  len   : Nat
  count : Nat
  crc   : W32
  bytes : List Byte
deriving DecidableEq, Repr

/-- An open boot-profile write (R568). -/
structure ProfWrite where
  len   : Nat
  bytes : List (Nat × Byte)
deriving DecidableEq, Repr

/-- The MRAM store and what firmware keeps beside it. -/
structure Store where
  journal : Journal
  /-- AO: the trip ring, by slot (R548) -/
  ring    : List (Nat × TripRec)
  /-- boot-profile slots A and B -/
  profA   : Option Profile
  profB   : Option Profile
  /-- the profile in force by the latest counted PROFILE_SEL: 0 A, 1 B -/
  profSel : Option Nat
  profOpen : Option ProfWrite
  /-- the live ledger by word number; a word not listed is 0 (R558) -/
  ledger  : List (Nat × W32)
  /-- seconds of power-on since the last ledger write, and the lowest 1 s average since the last thermal cycle, 0.125 °C -/
  sinceWrite : Nat
  lowAvg  : Option Int
  /-- the identity mirror copies read correctly (R594) -/
  copy0   : Bool
  copy1   : Bool
  /-- 32-bit words stored through the MRAM window, by word number (R24, R550) -/
  raw     : List (Nat × W32)
deriving DecidableEq, Repr

/-! ## Detectors (R570–R580) -/

/-- What the journal last recorded of a detector (R578). -/
structure LastDetect where
  did  : Nat
  inst : Nat
  ats  : W64
  inj  : Bool
deriving DecidableEq, Repr

/-- What the sampling of R577 keeps of a detector instance: its count when the last DETECT record was written, its latched
bits at the last sample, the ATS of the first sample since that record that saw an occurrence, the second of that record. -/
structure DetSeen where
  count  : Nat
  /-- the block status that it last read as a level (R16), and which counters `count` was read from -/
  level  : Nat
  from_  : Nat
  bits   : Nat
  first  : Option W64
  second : Option Nat
deriving DecidableEq, Repr

/-- The detectors' firmware state. -/
structure Detect where
  last     : List (Nat × LastDetect)
  /-- by key DID + 256 × INST -/
  seen     : List (Nat × DetSeen)
  /-- MP pair restart counts: control, management -/
  restarts : Nat × Nat
  /-- a watchdog kick suspended or a compare mismatch forced, by pair: DIDs 0x16, 0x17 -/
  kickOff  : List Nat
  cmpForce : List Nat
  /-- armed injections that no register holds: DID, INST, ARG0, ADDR -/
  armed    : List (Nat × Nat × Nat × Nat)
  /-- words whose memory ECC errors were injected (R573), those that the scrubber passes over once (R572), and those whose
  error has been met since the last sample -/
  eccAddrs : List Nat
  eccSkip  : List Nat
  eccHits  : List Nat
  /-- instances without an INJ bit whose next DETECT record is marked injected, by key -/
  marked   : List Nat
deriving DecidableEq, Repr

/-! ## Identity, firmware and start-up (R581–R611) -/

/-- An open firmware update (R599). -/
structure Staging where
  len   : Nat
  words : List (Nat × W32)
deriving DecidableEq, Repr

/-- Identity, firmware and start-up beside the registers. -/
structure Boot where
  /-- supplies and pins -/
  pwrOk   : Bool
  resetN  : Bool
  /-- the device is held in reset because `OSC_IN` was out of range at the rise of `PWR_OK` (R625) -/
  oscHold : Bool
  /-- the running image's words and the other image memory's -/
  running : List W32
  other   : List W32
  /-- flash slots and the selector (R585) -/
  flash0  : List W32
  flash1  : List W32
  selMagic : W32
  selPref : Bool
  /-- the preferred slot failed; the ROM waits with no source left (R585) -/
  tried   : Bool
  romWait : Bool
  staging : Option Staging
  /-- the next write of a flash slot fails (R607) -/
  flashBad : Bool
  /-- an ACTIVATE is in progress: the restart of the MP pairs (R599, R600) -/
  activating : Bool
  /-- the start-up under way is a restart of the MP alone (R574, R600) -/
  mpOnly  : Bool
  /-- the owner key hash fused by `OWNER_KEY_INSTALL`, over a blank slot (R589) -/
  ownerFused : Option (List W32)
  /-- fuse steps of SECVER blown since manufacture (R589) -/
  svSteps : Nat
  /-- a rise of `PWR_OK` not yet counted in PCYC (R559) -/
  powerCycle : Bool
  /-- profile packets run, PROF_BAD, first failing packet + 1 and its status (R592) -/
  profRun : Nat
  profBad : Bool
  profFail : Nat
  profStat : Status
  /-- an image copy was repaired at step 2 of R584: the copy rewritten -/
  repaired : Option Nat
  /-- measurement log entries 1, 3, 4 as last measured, and the sticky entry 5 (R595) -/
  meas1 : List W32
  meas3 : List W32
  meas4 : List W32
  sticky : Nat
  /-- challenges outstanding for KIND 1 and 2 (R598) -/
  nonce1 : Option Nat
  nonce2 : Option Nat
  /-- the scope of an open debug unlock (R598) -/
  unlock : Option Nat
  /-- the stream that owns the open diagnostic session (R500) -/
  diag   : Option Nat
  /-- image chunks received from the Lace (R587), and their retry -/
  chunks : List (Nat × List W32)
  /-- the nonces drawn from the random source so far -/
  drawn  : Nat
deriving DecidableEq, Repr

end Sys2Proof.Machine
end

