-- ==== Sys2Proof/Machine/LinkParts.lean ====
section
/-! DEFINITION. The pieces of the state that hold the serial lanes, the fronthaul MACs, the host link and the Lace. -/

namespace Sys2Proof.Machine

/-! ## Lanes (R376–R392) -/

/-- A pattern checker (R390): bits taken as seed, the reference generator's history newest first, the error-free run, and
the mismatches of the last 64 compared bits newest first. -/
structure Checker where
  seed : List Bool
  hist : List Bool
  good : Nat
  win  : List Bool
deriving DecidableEq, Repr

/-- A lane beside its registers. -/
structure LineSt where
  /-- scrambler and descrambler state (R376) -/
  txScr : W32
  rxScr : W32
  /-- stuffing run counters of transmitter and receiver: the last symbol and the length of its run (R379) -/
  txRun : Nat × Nat
  rxRun : Nat × Nat
  /-- the last 64 blocks received, newest first: invalid or not (R448) -/
  bad : List Bool
  /-- phase and reason of the attempt that ended last, as `EV_LANE` shows them (R384) -/
  last : Nat × Nat
  /-- the equaliser items of `SHELL_CAL_SEL` 0–17; empty when none has a value -/
  eq : List W16
  /-- phase 4 is passed and the lane waits for the others of its port (R383) -/
  blockOk : Bool
  /-- the first retry after NO_PARTNER has been made (R384) -/
  retried : Bool
  /-- the link layer has requested the exit from electrical idle (R388) -/
  exiting : Bool
  /-- continuous error injection runs, with the bits sent since its last flip; bits still to be flipped by a commanded
  burst (R391) -/
  injOn : Bool
  gap : Nat
  flips : Nat
  /-- line bits flipped so far, in every role (R391) -/
  flipped : Nat
  /-- symbols put on the line outside blocks, newest last: test patterns and exit bursts; a bit that waits for the second of its
  pair (R378, R388, R389, R392) -/
  line : List Nat
  odd : List Bool
  /-- the history of the pattern generator, newest first; empty while it has not begun (R389) -/
  gen : List Bool
  chk : Checker
deriving DecidableEq, Repr

/-! ## Fronthaul (R402–R416) -/

/-- A frame of an FHTX job: its task, its symbol, its first PRB or sample or byte, how many; eligible since. -/
structure FhFrame where
  task  : Nat
  sym   : Nat
  first : Nat
  count : Nat
  elig  : Bool
deriving DecidableEq, Repr

/-- A fronthaul job (R412): its task, its flow's number and entry as they stood, its descriptor. -/
structure FhJob where
  task  : Nat
  mac   : Nat
  tx    : Bool
  flow  : Nat
  entry : List W32
  desc  : List W32
  param : Nat
  /-- FHTX: frames not begun, frames sent and unsent -/
  frames : List FhFrame
  sent   : Nat
  unsent : Nat
deriving DecidableEq, Repr

/-- What a flow has counted of a symbol number (R411): sections accepted, early, late; PRB runs written (JIT). -/
structure SymCount where
  n     : Nat
  got   : Nat
  early : Nat
  late  : Nat
  prbs  : List (Nat × Nat)
deriving DecidableEq, Repr

/-- A flow's counts (R434), sequence numbers (R406) and its last 64 symbol numbers (R411). -/
structure FlowStat where
  recv  : Nat
  early : Nat
  late  : Nat
  gap   : Nat
  sent  : Nat
  unsent : Nat
  rxSeq : Option Nat
  txSeq : Nat
  syms  : List SymCount
deriving DecidableEq, Repr

/-- A MAC beside its registers. -/
structure Mac where
  /-- the six words of the last `FH_MAC_CONFIG` (R431) -/
  cfg : List W32
  /-- a PAUSE holds every priority (R404) -/
  paused : Bool
  /-- priorities for which a PFC is being sent: their queue is XOFF (R254, R404) -/
  xoff : W16
  /-- the frame on the line, with the instant it began; eligible frames in their order -/
  line : Option FhFrame
  wait : List FhFrame
  /-- the transmit timestamp latched for firmware, with its sequenceId (R417) -/
  txStamp : Option (W64 × W16)
deriving DecidableEq, Repr

/-- The fronthaul MACs beside their registers. -/
structure Fh where
  /-- flow entries by flow number: the words of R405; a flow not listed is disabled -/
  flows : List (Nat × List W32)
  stats : List (Nat × FlowStat)
  macs  : List (Nat × Mac)
  jobs  : List FhJob
  /-- frames the device has sent: MAC, bytes from the destination address on -/
  out   : List (Nat × List Byte)
deriving DecidableEq, Repr

/-! ## Host link and board ports (R422–R437) -/

/-- A Pennant submission read, whose completion is not written: its queue pair, its SQ index, RBUFLEN and RBUF (R486). -/
structure Sub where
  qp   : Nat
  sqix : Nat
  rlen : Nat
  rbuf : Nat
  /-- its pair was disabled or reset: the reply is discarded (R424, R492) -/
  dead : Bool
  /-- the status that its entry or its packet's read has earned: it has no command, and completes in its turn (R486, R490) -/
  bad  : Option Status := none
deriving DecidableEq, Repr

/-- A host DMA transfer in progress (R424): queue pair, SQ index, the entry's words. -/
structure HostDma where
  qp    : Nat
  sqix  : Nat
  words : List W32
deriving DecidableEq, Repr

/-- The host link, the I3C target and the pins.
DESIGN CHOICE, safe: log entry 19.
DESIGN CHOICE, unsafe: log entry 92. -/
structure HostLink where
  /-- the PCIe link: up, how many lanes from L000 it occupies, and the rest of its state -/
  up    : Bool
  lanes : Nat
  train : PcieTrain
  subs  : List Sub
  dmas  : List HostDma
  /-- completions that wait for room in their CQ: queue pair, words, interrupt -/
  cqWait : List (Nat × List W32 × Bool)
  /-- what the device wrote to host memory: CQ entries by queue pair, and buffers by address, with EP set or not -/
  cqOut  : List (Nat × List W32)
  bufOut : List (Nat × List W32 × Bool)
  /-- vectors signalled, errors reported through AER (the numbers of DID 0x1E) -/
  msix  : List Nat
  aer   : List Nat
  /-- I3C: static address, dynamic address, target events enabled, MWL, MRL, the mandatory byte of a pending IBI, the data
  the latest read or CCC returned -/
  i3cStatic : Nat
  i3cDyn : Option Nat
  i3cEv : Bool
  mwl   : Nat
  mrl   : Nat
  ibi   : Option Nat
  i3cOut : List Byte
  /-- the action that RSTACT has set -/
  i3cRst : Nat
  /-- `PIN_CONFIG`: 16 GPIO words, FC_IN and FC_OUT active levels; pin levels; edges seen on EVENT pins; MARK pulses -/
  gpio  : List W32
  fcInPol : W16
  fcOutPol : W16
  gpioIn : W16
  fcIn  : W16
  gpioEdge : W16
  marks : List (Nat × W64)
  /-- `SYNCE_OUT_CONFIG`, `PTP_CONFIG` -/
  synce : W32
  ptp   : List W32
deriving DecidableEq, Repr

/-! ## Lace (R438–R476) -/

/-- A Lace port beside its registers. -/
structure LPort where
  /-- sequence of the next FLIT to send; FLITs sent and not acknowledged, with their VN lanes; FLITs that wait -/
  txSeq  : Nat
  unacked : List (Nat × Nat × List W32)
  txq    : List (Nat × List W32)
  /-- credits in hand and credits to return, by VN lane -/
  credits : List Nat
  owed   : List Nat
  /-- sequence of the next FLIT expected; NAK sent for the present failure; FLITs received since the last LCTL -/
  rxSeq  : Nat
  naked  : Bool
  since  : Nat
  ackDue : Bool
  /-- FLITs received in order and not yet taken as packets, with their VN lanes -/
  rx     : List (List W32)
  /-- replays in a row from one sequence number -/
  replays : Nat
  replayAt : Nat
  /-- handshake: partner's HSK received, its ACK received -/
  hsRx   : Bool
  hsAck  : Bool
  /-- own marker sequence; the ATS of the markers sent, by MSEQ; the partner's last marker: MSEQ and receive ATS -/
  mseq   : Nat
  sentMk : List (Nat × W64)
  lastMk : Option (Nat × W64)
  /-- the partner's masthead, epoch, sender, depth, error estimate, heartbeat as last seen in a marker -/
  pmark  : Option (Nat × Nat × Nat × Nat × Nat × Nat)
  /-- markers alike in heartbeat in a row; theta values in a row, newest first; the delay last computed -/
  same   : Nat
  thetas : List Int
  delay  : Int
  /-- markers ignored by an injection (DID 0x1C); the next marker is not sent -/
  ignore : Nat
  /-- electrical idle is announced; LEAVE received -/
  eiReq  : Bool
  leave  : Bool
  /-- where the port's next block stands in its stream (R442); the markers of the period have gone out with the blocks already -/
  pos    : Nat
  marked : Bool
  /-- sequence numbers of FLITs that an injection has sent with an inverted CRC (R467) -/
  injSeq : List Nat
  /-- the RXSEQ of the splice that has given the port its present partner, until the partner's first FLIT or LCTL (R456) -/
  spliceAt : Option Nat
  /-- blocks sent, newest last: type and payload -/
  out    : List (Nat × List W32)
deriving DecidableEq, Repr

/-- A `LACE_JOIN` in progress at this device (R469): its request, and how far it has come. -/
structure LJoin where
  req    : Req
  devid  : Nat
  tset   : Bool
  /-- groups still to be spliced, groups spliced by this command -/
  todo   : List Nat
  did    : List Nat
  /-- 0 a splice before asking, 1 asking the masthead, 2 splicing the rest -/
  stage  : Nat
deriving DecidableEq, Repr

/-- A domain commit at the masthead (R465): its targets, their replies, the confirmations acknowledged. -/
structure DCommit where
  req     : Req
  opcode  : Nat
  bnd     : Nat
  targets : List Nat
  replies : List (Nat × Status)
  confirmed : Bool
  acks    : List Nat
  inner   : List W32
  /-- commits that the masthead's own step has refused (R49) -/
  refused : W32
deriving DecidableEq, Repr

/-- Messages between devices of the domain that the manual names without giving a layout: kind, device, words.
DESIGN CHOICE, safe: log entry 36. -/
structure LMsg where
  kind  : Nat
  dev   : Nat
  words : List W32
deriving DecidableEq, Repr

/-- The Lace domain beside its registers. -/
structure Lace where
  ports   : List (Nat × LPort)
  /-- at the masthead: joined devices, and whether each is strapped STANDBY; the designated standby -/
  members : List (Nat × Bool)
  standby : Option Nat
  join    : Option LJoin
  /-- groups whose splice is in progress; groups whose switch closes at the next marker boundary -/
  splicing : Option Nat
  leaving : List Nat
  commits : List DCommit
  /-- the masthead's heartbeat -/
  beat    : Nat
  /-- at the standby: the masthead has called for the handover (R458) -/
  called  : Bool
  /-- an alignment step is due once the Hoist qualifies (R464) -/
  tset    : Bool
  /-- the domain is left once no group is leaving (R470) -/
  leaveAll : Bool
  /-- the upstream lies too deep (R460) -/
  deep    : Bool
  /-- ports that `LACE_PORT_CONFIG` has configured (R467) -/
  shown   : List Nat
  /-- messages sent -/
  out     : List LMsg
deriving DecidableEq, Repr

end Sys2Proof.Machine
end

