-- ==== Sys2Proof/Machine/WorkParts.lean ====
section
/-! DEFINITION. The pieces of the state that hold work: stream queues, patterns, cells, tasks, the governor and the fabric. -/

namespace Sys2Proof.Machine

/-! ## Stream queues (R240–R258) -/

/-- A packet in a queue whose words are not all freed. -/
structure QPkt where
  /-- word offset of its header in the queue's region -/
  start  : Nat
  len    : Nat
  /-- payload words that have arrived -/
  got    : Nat
  /-- padding words reserved before it at the end of the region (R246) -/
  pad    : Nat
  /-- words delivered in PORT mode, the header counted -/
  popped : Nat
  trunc  : Bool
  /-- a delivered word was poisoned -/
  poison : Bool
deriving DecidableEq, Repr

/-- A stream queue beside its registers. -/
structure Queue where
  /-- packets in arrival order; the last one may be open -/
  pkts  : List QPkt
  /-- reserved and unfreed words: `Q_OCC` -/
  occ   : Nat
  /-- headers held under R247, the oldest first; whether each came over the fabric -/
  held  : List (W64 × Bool)
  /-- the tick at which the open packet's latest word arrived (R250) -/
  last  : Nat
deriving DecidableEq, Repr

/-- A region of the HBM partition in 2 MiB units (R262). -/
structure Region where
  base : Nat
  size : Nat
  kind : Nat
deriving DecidableEq, Repr

/-! ## Patterns, cells and tasks (R267–R312) -/

/-- A loaded pattern: its image as 32-bit words, and where it was placed (R273). -/
structure Pat where
  image : List W32
  inHbm : Bool
  /-- byte offset in the on-die store, or internal HBM address -/
  place : Nat
  bytes : Nat
deriving DecidableEq, Repr

/-- A `PATTERN_LOAD` in progress (R308). -/
structure PatLoad where
  index : Nat
  src   : Nat
  len   : Nat
  req   : Req
deriving DecidableEq, Repr

/-- A TDD slot-format table (R43). -/
structure Tdd where
  mu      : Nat
  period  : Nat
  entries : List (W32 × W32)
deriving DecidableEq, Repr

/-- The states of a cell that is not FREE (R305). -/
inductive CellState where
  | starting | active | stopping
deriving DecidableEq, Repr

/-- A cell (R274). -/
structure Cell where
  h     : Nat
  st    : CellState
  mu    : Nat
  ring  : Nat
  home  : Nat
  lead  : Nat
  /-- its tables with their boundaries, in the order they took effect: the last is in force, and earlier ones stay while a slot
  that they govern can still be instantiated (R45) -/
  tables : List (Nat × Tdd)
  /-- the tick of the boundary of its `CELL_STOP`, once that has taken effect (R307) -/
  stopAt : Option Nat
  /-- slots whose start tick lies before this one are not instantiated any more -/
  from_ : Nat
  live  : Nat
  /-- late actions RUN_LATE, SKIP, DEGRADE, ESCALATE and RUN_OVER (R324) -/
  miss  : List Nat
  /-- the frame of the last late action, late actions in it, MISS_BURST raised in it -/
  frame : Nat
  lateN : Nat
  burst : Bool
deriving DecidableEq, Repr

/-- Task states (R284). -/
inductive TState where
  | free | wait | delay | ready | staged | run | erase
deriving DecidableEq, Repr

/-- A live task descriptor (R284). -/
structure Task where
  cls     : Nat
  prio    : Nat
  flow    : Nat
  dep     : Nat
  late    : Nat
  release : Nat
  deadline : Nat
  bench   : Nat
  aff     : Nat
  unit    : Nat
  unitV   : Bool
  half    : Bool
  succ    : List Nat
  /-- descriptors of its fan-out nodes (R285) -/
  nodes   : List Nat
  st      : TState
  instat  : Nat
  onfail  : Bool
  skipped : Bool
  laterel : Bool
  missed  : Bool
  param   : Nat
  pattern : Nat
  tmpl    : Nat
  inum    : Nat
  cell    : Nat
  alt     : Nat
  altV    : Bool
  entry   : Nat
  er0     : Nat × Nat
  er1     : Nat × Nat
  /-- delay list and place in it; place in the order of entry into READY; ATS of that entry -/
  dlist   : Nat
  dseq    : Nat
  rseq    : Nat
  rats    : W64
  /-- the MAC an FH task is bound to (R292) -/
  mac     : Option Nat
  /-- the instance that stages or runs it, whether it has reached the stage (R293), and its place in the stage -/
  site    : Option Site
  arrived : Bool
  sseq    : Nat
  /-- carried over past a tick by the limit of late actions (R320) -/
  carried : Bool
  /-- its late action for the present deadline has been applied (R321); RUN_OVER counted for it (R322) -/
  acted   : Bool
  overDone : Bool
  /-- a forward step of 2^31 ticks or more has skipped its release, its deadline (R41) -/
  pastRel : Bool
  pastDl  : Bool
deriving DecidableEq, Repr

/-- A live instance of a pattern (R287). -/
structure Inst where
  num     : Nat
  cell    : Nat
  pattern : Nat
  slot    : Nat
  start   : Nat
  live    : Nat
  req     : Nat
  defreq  : Bool
  ring    : Option (Nat × Nat)
  creating : Bool
  /-- remote completions that wait for the end of the creation: template, group -/
  waiting : List (Nat × Nat)
  /-- OFF and LEN of the blocks of the container bound (R279) -/
  blocks  : List (Nat × Nat)
  /-- descriptor of each template, none for spares -/
  tasks   : List (Option Nat)
deriving DecidableEq, Repr

/-- An entry of the early table (R301). -/
structure Early where
  cell  : Nat
  rtick : Nat
  tmpl  : Nat
  group : Nat
  /-- a forward step of 2^31 ticks or more has skipped its tick (R41) -/
  past  : Bool
deriving DecidableEq, Repr

/-- A NOTIFY task that waits for its acknowledgement (R302). -/
structure NotifyWait where
  task : Nat
  dev  : Nat
  seq  : Nat
deriving DecidableEq, Repr

/-- The Cordwainer beside its registers. -/
structure Cord where
  pats    : List (Nat × Pat)
  loads   : List PatLoad
  cells   : List Cell
  lastH   : Nat
  /-- ring entries done but not yet passed by DONE: ring, entry index -/
  doneSet : List (Nat × Nat)
  tasks   : List (Nat × Task)
  insts   : List (Nat × Inst)
  nextNum : Nat
  rctr    : Nat
  dctr    : Nat
  sctr    : Nat
  early   : List Early
  notify  : List NotifyWait
  nseq    : Nat
  /-- acknowledgements (R300) of completions that the row `REMOTE_COMPLETION_RX` brought: device, record -/
  acks    : List (Nat × List W32)
  /-- completions on their way to the Cordwainer: task, status -/
  inbox   : List (Nat × W16)
  /-- FREE descriptors whose last task was skipped (R284, R286) -/
  skips   : List Nat
deriving DecidableEq, Repr

/-! ## The governor (R313–R341) -/

/-- The policy in force (R336). -/
structure Policy where
  util    : List Nat
  cellres : List Nat
  spill   : Nat
  bal     : Nat
  tw1     : Nat
  tw2     : Nat
  spares  : Nat
  degExt  : Nat
  burst   : Nat
deriving DecidableEq, Repr

/-- The governor beside its registers. -/
structure Gov where
  policy  : Policy
  /-- the host's exclusions as imposed: benches, coding halves (R339) -/
  hostB   : List Nat
  hostP   : List Nat
  /-- shores whose MACs are excluded by the power manager, as placement sees it (R330) -/
  shores  : List Nat
  /-- start-up designation of spares has happened (R332) -/
  started : Bool
  /-- benches whose hold has raised REHOME (R331) -/
  rehomed : List Nat
  /-- arrays that were serving when they drifted (R333) -/
  drifted : List Nat
deriving DecidableEq, Repr

/-! ## Beam arrays (R171–R203) -/


/-- Why a bank is loaded. -/
inductive LoadKind where
  | demand | prefetch | preload | spare
deriving DecidableEq, Repr

/-- The load in progress (R180); `void` when a full calibration or a loss of the banks overtook it. -/
structure CmaLoad where
  bank : Nat
  wsid : Nat
  addr : Nat
  kind : LoadKind
  req  : Option Req
  void : Bool
deriving DecidableEq, Repr

/-- The running job (R182–R190). -/
structure CmaJob where
  task  : Nat
  param : Nat
  desc  : List W32
  /-- segments begun, the entry of the one in progress, its vectors done; it waits for its bank -/
  seg   : Nat
  cur   : Option (List W32)
  done  : Nat
  need  : Bool
  /-- WSID and address of the set that the segment in progress names -/
  set   : Nat × Nat
  vectors : Nat
  suspect : Nat
  degraded : Nat
  osat  : Nat
  demand : Nat
  pfdrop : Nat
  worst : Option Int
  band  : Nat
  xfer  : Bool
  stall : Nat
  /-- by the bound in force (R174, in −dB): the squared converter error spent, and the outputs that shared it -/
  errs  : List (Nat × Nat × Nat)
  /-- the status that stopped it -/
  stop  : Option Status
deriving DecidableEq, Repr

/-- A data row's complex gain, in units of 2^−31, and offset, in units of 2^−33, that the pilot columns show (R175). -/
structure RowCal where
  gi : Int
  gq : Int
  oi : Int
  oq : Int
deriving DecidableEq, Repr

/-- A calibration record (R193): the tag's Tj in °C, the check result in −0.25 dB, when it was written, and the rows' gains and
offsets that a background pass has used (R175). -/
structure CalRec where
  tj  : Int
  err : Nat
  ats : W64
  rows : List RowCal
deriving DecidableEq, Repr

/-- A learned correction (R195): the vectors learned, the residual in −0.25 dB, a gain and an offset per row. -/
structure Correction where
  count : Nat
  resid : Nat
  rows  : List RowCal
deriving DecidableEq, Repr

/-- A beam array beside its registers. -/
structure Cma where
  /-- the weights of banks 0–3 -/
  banks : List (List Byte)
  recs  : List (Option CalRec)
  /-- corrections by 4 × record band + band -/
  corr  : List (Nat × Correction)
  /-- squared pilot-row errors of the last 16 vectors, newest first, in units of 2^−64 (R175) -/
  pilots : List Nat
  /-- of the last 16 vectors, newest first: the squared row errors relative to the range, in units of 2^−64 · F² / 2^12, and the
  rows that shared them (R175) -/
  rowErrs : List (Nat × Nat)
  /-- the pilot columns' contribution to each row in the first vector of a pair, and each row's gain and offset (R175) -/
  first : List (Int × Int)
  rowCal : List RowCal
  load  : Option CmaLoad
  /-- the background pass: steps done, its plane, its band -/
  bg    : Option (Nat × Nat × Nat)
  /-- BGMODE in force since the last job start (R194) -/
  mode  : Nat
  /-- a full calibration is pending; checks failed in a row -/
  pend  : Bool
  fails : Nat
  /-- the failed check was an injected one -/
  failInj : Bool
  /-- placement is not restored until CAL_DUE is 0 (R208) -/
  hold  : Bool
  /-- vectors that a PILOT_ERR injection still covers -/
  injLeft : Nat
  job   : Option CmaJob
  /-- the spare preload: the drifting array whose banks are still to be read; sets still to be loaded (bank, WSID, address) -/
  preFrom : Option Nat
  preQ  : List (Nat × Nat × Nat)
deriving DecidableEq, Repr

/-! ## Transform and coding engines (R209–R238) -/

/-- A job that an FFT engine or a coding unit runs: its task, its parameter pointer, its descriptor. -/
structure EngJob where
  task  : Nat
  param : Nat
  desc  : List W32
deriving DecidableEq, Repr

/-! ## Bench DMA (R60–R64) -/

/-- A DMA channel beside its registers. -/
structure DmaChan where
  /-- the SCHED task it runs -/
  task  : Option Nat
  /-- descriptors reached in the chain -/
  count : Nat
  /-- the descriptor in progress, empty while its fetch is -/
  desc  : List W32
  row   : Nat
  col   : Nat
  /-- ABORT was written: the channel stops after the request in progress -/
  abort : Bool
deriving DecidableEq, Repr

/-! ## The fabric (R342–R368) -/

/-- A route-table entry: its four words (R352). -/
structure RtEntry where
  w0 : W32
  w1 : W32
  w2 : W32
  w3 : W32
deriving DecidableEq, Repr

/-- Packet kinds (R347). -/
inductive PKind where
  | rd | wr | wrp | msg | resp
deriving DecidableEq, Repr

/-- What an engine asks of an address: a number of bytes read, words written, or bytes stored. -/
inductive EngOp where
  | rd (len : Nat)
  | wr (words : List (W64 × Bool))
  | st (bytes : List Byte)
deriving DecidableEq, Repr

/-- One request packet of an engine behind NI `ni`, acting as w, for the byte address `addr`. -/
structure EngAcc where
  ni   : Nat
  w    : Writer
  addr : Nat
  op   : EngOp
deriving DecidableEq, Repr

/-- A packet on the fabric (R347). -/
structure FPkt where
  route  : Nat
  hops   : Nat
  vn     : Nat
  kind   : PKind
  fc     : Bool
  src    : Nat
  dst    : Nat
  slot   : Nat
  gen    : Nat
  addr   : Nat
  len    : Nat
  words  : List (W64 × Bool)
  status : Status
  inj    : Bool
  /-- the Lace hop list of its remote entry, 0 on the die (R352); the initiating device; the reverse hops and their number
  (R451) -/
  lroute : Nat
  srcDev : Nat
  rev    : Nat
  nrev   : Nat
  /-- corruption on the link it travels: 0 none, 1 one bit, 2 two bits of its head flit (R570) -/
  hit    : Nat
  /-- the router it reaches next, and the port it came out of -/
  at_    : Nat
  /-- the engine's request that it carries, or answers -/
  eng    : Option EngAcc := none
deriving DecidableEq, Repr

/-- An outstanding request of an NI (R356). -/
structure Outst where
  ni   : Nat
  slot : Nat
  gen  : Nat
  len  : Nat
  rd   : Bool
  fc   : Bool
  remote : Bool
  /-- the engine's request that it stands for; none for one that a row handed over -/
  eng  : Option EngAcc := none
deriving DecidableEq, Repr

/-- A response an initiator has received from its NI. -/
structure Answer where
  ni     : Nat
  status : Status
  words  : List (W64 × Bool)
deriving DecidableEq, Repr

/-- The fabric beside its registers. -/
structure Fabric where
  /-- route tables, by 256 × NI + entry; an entry not listed is all zeros -/
  routes  : List (Nat × RtEntry)
  /-- staging copies of words 1–3 (R354) -/
  staging : List (Nat × RtEntry)
  flight  : List FPkt
  /-- packets that wait at an NI for rate tokens: NI, packet -/
  queued  : List (Nat × FPkt)
  /-- tokens in the bucket of VN v of NI n, by 4 n + v, where not full -/
  tokens  : List (Nat × Nat)
  outst   : List Outst
  /-- the TAG generation of slot k of NI n, by 256 n + k -/
  gens    : List (Nat × Nat)
  answers : List Answer
  /-- header writes held under R247, whose answer waits: 64 × bench + queue, the request -/
  heldReq : List (Nat × FPkt)
  /-- headers held under R247 that are released, with the status that answers them -/
  heldAns : List (FPkt × Status)
  /-- answers that engines' requests have received and their operations have not yet taken -/
  engAns  : List (EngAcc × Status × List (W64 × Bool))
  /-- within one row: the requests that its operation waits for; none between rows -/
  ask     : List EngAcc
  /-- wake buffers by domain (R363) -/
  wake    : List (Nat × List FPkt)
  /-- packets that wait at a quiesced or disabled port: router, port, packet (R366) -/
  portWait : List (Nat × Nat × FPkt)
  /-- repaired bit lanes: router, port, lane, spare -/
  repaired : List (Nat × Nat × Nat × Bool)
  /-- fence and unfence messages under way, their acknowledgements, and the NIs that have acknowledged: domain, NI (R359) -/
  fenceTo : List (Nat × Nat)
  ackTo   : List (Nat × Nat)
  acked   : List (Nat × Nat)
  unfTo   : List (Nat × Nat)
  unfAck  : List (Nat × Nat)
  /-- domains that leave FENCED by R362 and whose UNFENCE is not yet acknowledged everywhere -/
  unfDone : List Nat
  /-- domains that are ready and whose held packets are being delivered (R362) -/
  opening : List Nat
  /-- the network of VN0, VN1 and VN3 that an output port served last, by 16 × router + port (R350) -/
  turn    : List (Nat × Nat)
deriving DecidableEq, Repr

end Sys2Proof.Machine
end

