-- ==== Sys2Proof/Machine/State.lean ====
section
/-! DEFINITION. The state of the block as plain data, the reasons a command can stop, and the state after reset. -/

namespace Sys2Proof.Machine

/-- The reasons a command stops with a fault. -/
inductive Fault where
  /-- Raised by no command of this model: the device answers every access (R8, R346). Safe. -/
  | noSuchAddress
deriving DecidableEq, Repr

/-- The reasons a command is refused. -/
inductive Refusal where
  /-- The dispatch answers it for a command that has no meaning yet, by its mnemonic. Safe. -/
  | notModelled (mnemonic : String)
deriving DecidableEq, Repr

/-- The whole state of the block. -/
structure State where
  /-- the fused variant (R1) -/
  variant : Variant
  /-- the commands that wait, first in first out: the model's own -/
  pending : List Instr
  /-- the model's counter of free values: no statement rests on it -/
  freeCtr : Nat
  /-- air-time, as the ATS counter has it (R25, R30).
  DESIGN CHOICE, unsafe: log entry 7. -/
  ats     : W64
  /-- the register file by register key; a register not listed holds its reset value (R20) -/
  regs    : List (Nat × W32)
  tim     : AirTime
  mem     : Memory
  pn      : Pennant
  /-- power domains 0–38 -/
  dom     : List Domain
  th      : Thermal
  store   : Store
  det     : Detect
  boot    : Boot
  /-- stream queues by 64 × bench + queue; a queue not listed is empty -/
  queues  : List (Nat × Queue)
  /-- the HBM partition (R262) -/
  hbmPart : List Region
  /-- DMA channels by 4 × bench + channel that have run a chain -/
  dma     : List (Nat × DmaChan)
  cord    : Cord
  gov     : Gov
  fh      : Fh
  /-- lanes by number; one not listed is as its reset leaves it -/
  lanes   : List (Nat × LineSt)
  /-- the declarations of `REFCLK_CONFIG`: FREQ in [7:0], SSC0 in [8] (R370, R373) -/
  refclk  : W32
  /-- RCLK_HOLD as raised by the recovered-clock tracks, oldest first (R375) -/
  rclkHold : List Nat
  host    : HostLink
  lace    : Lace
  fab     : Fabric
  /-- Awl cores by 8 × bench + core, and Shanks by bench; one not listed is as its reset leaves it -/
  cores   : List (Nat × Core)
  shanks  : List (Nat × Shank)
  /-- beam arrays by bench; one not listed is as its reset leaves it -/
  cmas    : List (Nat × Cma)
  /-- jobs that run: FFT engine i of bench b at 2 b + i, unit i of coding half h at 64 + 64 h + i -/
  jobs    : List (Nat × EngJob)
  /-- the HARQ lock table (R238): buffer address, unit -/
  locks   : List (Nat × Nat)
  /-- register writes that arrived over the fabric and whose consequences the block has yet to take up: writer, address, value -/
  posted  : List (Writer × Nat × W32)
  /-- what the latest port, queue or window access was answered: status and words delivered, each with its poison tag -/
  readStat : Status
  readData : List (W64 × Bool)
deriving DecidableEq, Repr

def Memory.reset : Memory := { bytes := [], marks := [], lost := [] }

def AirTime.reset : AirTime :=
  { captures := [], overN := 0, underN := 0, reached := false, e0 := 0, held := 0, lastErr := 0, estKnown := false, estOver := false, edges := 0, missed := 0, lastEdge := none,
    todFresh := none, leaps := none, ppsComp := 0, lastDelta := 0, barTo := 0, skipFrom := 0, skipTo := 0, ppsOut := none, todOut := none }

def Sink.reset : Sink := { buf := [], lost := 0, lostSeq := 0 }

def Pennant.reset : Pennant :=
  { replies := [], pcieSink := Sink.reset, i3cSink := Sink.reset, laceSink := Sink.reset, waiting := [], held := [],
    commits := [], forwards := [], nextXid := 0, partials := [], i3cReply := none, laceSent := [] }

def Domain.reset : Domain :=
  { prev := 0, offPath := false, slow := false, auto := false, pendHold := false, pendSrc := 0, brown := false,
    image := false, idleT := 0, waitRet := false, fitNow := 3, fitGoal := none, fitNext := none, canary := 0, canaryOn := 0,
    crcTaken := false, excl := false, since := 0, preFor := none, removing := false }

def Thermal.reset : Thermal :=
  { seconds := 0, stamps := [], shutRun := 0, firstHot := 0, injEnd := [], failed := [], restart := false, lockTrip := false,
    hbmHot := false, tripPower := 0, tripPct := 0 }

def Store.reset : Store :=
  { journal := { segs := [], nextGen := 0, nextGroup := 1, held := [], memOnly := 0 }, ring := [], profA := none, profB := none,
    profSel := none, profOpen := none, ledger := [(0, 1#32)], sinceWrite := 0, lowAvg := none, copy0 := true, copy1 := true, raw := [] }

def Detect.reset : Detect :=
  { last := [], seen := [], restarts := (0, 0), kickOff := [], cmpForce := [], armed := [], eccAddrs := [], eccSkip := [], eccHits := [], marked := [] }

def Boot.reset : Boot :=
  { pwrOk := true, resetN := true, oscHold := false, running := [], other := [], flash0 := [], flash1 := [], selMagic := 0,
    selPref := false, tried := false, romWait := false, staging := none, flashBad := false, activating := false, mpOnly := false, ownerFused := none, svSteps := 0,
    powerCycle := true, profRun := 0,
    profBad := false, profFail := 0, profStat := .ok, repaired := none, meas1 := [], meas3 := [], meas4 := [], sticky := 0,
    nonce1 := none, nonce2 := none, unlock := none, diag := none, chunks := [], drawn := 0 }

def Queue.reset : Queue := { pkts := [], occ := 0, held := [], last := 0 }

def DmaChan.reset : DmaChan := { task := none, count := 0, desc := [], row := 0, col := 0, abort := false }

def Cord.reset : Cord :=
  { pats := [], loads := [], cells := [], lastH := 0, doneSet := [], tasks := [], insts := [], nextNum := 0, rctr := 0,
    dctr := 0, sctr := 0, early := [], notify := [], nseq := 0, acks := [], inbox := [], skips := [] }

/-- The policy after reset (R336). -/
def Policy.reset (v : Variant) : Policy :=
  { util := List.replicate 16 85, cellres := List.replicate 16 0, spill := 200, bal := 10, tw1 := 85, tw2 := 92,
    spares := if hasCma v then benches v / 8 else 0, degExt := 48, burst := 0 }

def Gov.reset (v : Variant) : Gov :=
  { policy := Policy.reset v, hostB := List.replicate 16 0, hostP := [0, 0], shores := [], started := false, rehomed := [], drifted := [] }

def Cma.reset : Cma :=
  { banks := List.replicate 4 [], recs := List.replicate 4 none, corr := [], pilots := [], rowErrs := [], first := [], rowCal := [], load := none, bg := none, mode := 1, pend := false,
    fails := 0, failInj := false, hold := false, injLeft := 0, job := none, preFrom := none, preQ := [] }

def Checker.reset : Checker := { seed := [], hist := [], good := 0, win := [] }

def LineSt.reset : LineSt :=
  { txScr := 0, rxScr := 0, txRun := (0, 0), rxRun := (0, 0), bad := [], last := (0, 0), eq := [], blockOk := false, retried := false,
    exiting := false, injOn := false, gap := 0, flips := 0, flipped := 0, line := [], odd := [], gen := [], chk := Checker.reset }

def Mac.reset : Mac := { cfg := [0, 9216, 0, 0, 0, 0], paused := false, xoff := 0, line := none, wait := [], txStamp := none }

def FlowStat.reset : FlowStat :=
  { recv := 0, early := 0, late := 0, gap := 0, sent := 0, unsent := 0, rxSeq := none, txSeq := 0, syms := [] }

def Fh.reset : Fh := { flows := [], stats := [], macs := [], jobs := [], out := [] }

def HostLink.reset : HostLink :=
  { up := false, lanes := 16,
    train := { lanes := 16, gen := 1, mps := 128, mrrs := 512, ecrc := false, l1 := false, d3 := false }, subs := [], dmas := [], cqWait := [], cqOut := [], bufOut := [], msix := [], aer := [],
    i3cStatic := 0x30, i3cDyn := none, i3cEv := true, mwl := 256, mrl := 256, ibi := none, i3cOut := [], i3cRst := 0,
    gpio := List.replicate 16 0, fcInPol := 0xFF, fcOutPol := 0xFF, gpioIn := 0, fcIn := 0, gpioEdge := 0, marks := [],
    synce := 0, ptp := List.replicate 6 0 }

def LPort.reset : LPort :=
  { txSeq := 0, unacked := [], txq := [], credits := List.replicate 8 64, owed := List.replicate 8 0, rxSeq := 0, naked := false,
    since := 0, ackDue := false, rx := [], replays := 0, replayAt := 0, hsRx := false, hsAck := false, mseq := 0, sentMk := [],
    lastMk := none, pmark := none, same := 0, thetas := [], delay := 0, ignore := 0, eiReq := false, leave := false, pos := 0, marked := false,
    injSeq := [], spliceAt := none, out := [] }

def Lace.reset : Lace :=
  { ports := [], members := [], standby := none, join := none, splicing := none, leaving := [], commits := [], beat := 0,
    called := false, tset := false, leaveAll := false, deep := false, shown := [], out := [] }

def Fabric.reset : Fabric :=
  { routes := [], staging := [], flight := [], queued := [], tokens := [], outst := [], gens := [], answers := [], heldReq := [], heldAns := [], engAns := [], ask := [], wake := [],
    portWait := [], repaired := [], fenceTo := [], ackTo := [], acked := [], unfTo := [], unfAck := [], unfDone := [],
    opening := [], turn := [] }

/-- The block right after reset: every register at its reset value (the register file lists nothing), every buffer and
queue empty.
DESIGN CHOICE, unsafe: log entry 2.
DESIGN CHOICE, unsafe: log entry 40. -/
def State.reset : State :=
  { variant := .l16a, pending := [], freeCtr := 0, ats := 0, regs := [], tim := AirTime.reset, mem := Memory.reset, pn := Pennant.reset,
    dom := List.replicate 39 Domain.reset, th := Thermal.reset, store := Store.reset, det := Detect.reset, boot := Boot.reset,
    queues := [], hbmPart := [], dma := [], cord := Cord.reset, gov := Gov.reset .l16a, fh := Fh.reset, lanes := [], refclk := 0x101, rclkHold := [], host := HostLink.reset,
    lace := Lace.reset, fab := Fabric.reset, cores := [], shanks := [], cmas := [], jobs := [], locks := [], posted := [],
    readStat := .ok, readData := [] }

end Sys2Proof.Machine
end

