-- ==== Sys2Proof/Machine/Ops.lean ====
section
/-! DEFINITION. The named operations over the register file, the event registers and event packets, and the replies. -/

namespace Sys2Proof.Machine

/-! ## The register file (R20) -/

/-- The value of item i of unit u of a register. -/
def rd (s : State) (r : Reg) (u : Nat := 0) (i : Nat := 0) : W32 :=
  (assoc s.regs (r.key u i)).getD (r.ini s.variant u i)

/-- The state with item i of unit u of a register holding v. A value equal to the reset value is not listed. -/
def wr (s : State) (r : Reg) (u i : Nat) (v : W32) : State :=
  { s with regs := putKey s.regs (r.key u i) (if v = r.ini s.variant u i then none else some v) }

/-- Field [hi:lo] of a register. -/
def rdF (s : State) (r : Reg) (u i hi lo : Nat) : Nat := fld (rd s r u i) hi lo

/-- The state with field [hi:lo] of a register replaced. -/
def wrF (s : State) (r : Reg) (u i hi lo v : Nat) : State := wr s r u i (setFld (rd s r u i) hi lo v)

/-- Bit k of a register. -/
def rdB (s : State) (r : Reg) (u i k : Nat) : Bool := bit (rd s r u i) k

/-- The state with bit k of a register set or cleared. -/
def wrB (s : State) (r : Reg) (u i k : Nat) (b : Bool) : State := wr s r u i (setBit (rd s r u i) k b)

/-- The register four bytes on: the high word of a 64-bit register, or the enable register behind an event register. -/
def Reg.next (r : Reg) (n : Nat) : Reg := { r with off := r.off + 4 * n, ini := fun _ _ _ => 0 }

/-- A 64-bit register whose high word follows its low word. -/
def rd64 (s : State) (r : Reg) (u : Nat := 0) (i : Nat := 0) : Nat := pair64 (rd s r u i) (rd s (r.next 1) u i)

/-- The state with a 64-bit register holding n modulo 2^64. -/
def wr64 (s : State) (r : Reg) (u i n : Nat) : State := wr (wr s r u i (lo32 n)) (r.next 1) u i (hi32 n)

/-- A telemetry counter raised by n (R16): 64 bits, wrapping. -/
def bump (s : State) (r : Reg) (u i n : Nat) : State := wr64 s r u i (rd64 s r u i + n)

/-! ## Air-time -/

/-- The current tick number, floor(ATS / 4,096) (R27). -/
def tickNow (s : State) : Nat := s.ats.toNat / 4096

/-- A 32-bit tick value t has been reached at the current tick (R29). -/
def tickReached (s : State) (t : Nat) : Bool :=
  let d := (t + 2 ^ 32 - tickNow s % 2 ^ 32) % 2 ^ 32
  !(decide (1 ≤ d) && decide (d ≤ 2 ^ 31 - 1))

/-- How many ticks ahead a 32-bit tick value lies, 0 when it has been reached (R29). -/
def ticksAhead (s : State) (t : Nat) : Nat :=
  if tickReached s t then 0 else (t + 2 ^ 32 - tickNow s % 2 ^ 32) % 2 ^ 32

/-- `ATS_OFFSET`, signed, in Tc (R26). -/
def offsetNow (s : State) : Int := sext 32 (rd s R.atsOffset).toNat

/-- ATS_BASE = ATS − `ATS_OFFSET` modulo 2^64 (R26). -/
def atsBase (s : State) : Nat := wrapTo 64 ((s.ats.toNat : Int) - offsetNow s)

/-- Tc in one second (R25). -/
def tcPerSec : Nat := 480000 * 4096

/-- GPS seconds at ATS_BASE, which is 0 at the GPS epoch (R26). -/
def gpsSeconds (s : State) : Nat := atsBase s / tcPerSec

/-- The timing unit's state: 0 FREE, 1 ACQUIRE, 2 LOCKED, 3 OFFSET_HELD, 4 HOLDOVER (R34). -/
def timState (s : State) : Nat := rdF s R.atStat 0 0 2 0

/-! ## Free values -/

/-- The next free value of the model, and the state that has drawn it. -/
def drawFree (s : State) : W64 × State := (Config.freeWord s.freeCtr, { s with freeCtr := s.freeCtr + 1 })

/-! ## Events (R21, R483–R485, R628) -/

/-- An event register: its bits at `evt`, its enables and its counter where the manual pairs it with them. -/
structure EvtReg where
  evt : Reg
  en  : Option Reg
  cnt : Option Reg

namespace E
def tim : EvtReg := { evt := R.timEvt, en := some R.timEvtEn, cnt := some R.timEvtCnt }
def hbm : EvtReg := { evt := R.hbmEvt, en := some R.hbmEvtEn, cnt := some R.hbmEvtCnt }
def cma : EvtReg := { evt := R.cmaEvt, en := some R.cmaEvtEn, cnt := some R.cmaEvtCnt }
def mem : EvtReg := { evt := R.memEvt, en := some R.memEvtEn, cnt := some R.memEvtCnt }
/-- DEDUCED, safe: log entry 28. -/
def dma : EvtReg := { evt := R.dmaEvt, en := none, cnt := some R.dmaEvtCnt }
def q : EvtReg := { evt := R.qEvt, en := some R.qEvtEn, cnt := some R.qEvtCnt }
/-- DEDUCED, safe: log entry 28. -/
def sh : EvtReg := { evt := R.shStat, en := none, cnt := some R.shStatCnt }
def cw : EvtReg := { evt := R.cwEvt, en := some R.cwEvtEn, cnt := some R.cwEvtCnt }
def gv : EvtReg := { evt := R.gvEvt, en := some R.gvEvtEn, cnt := some R.gvEvtCnt }
def ni : EvtReg := { evt := R.niEvt, en := some R.niEvtEn, cnt := some R.niEvtCnt }
def rt : EvtReg := { evt := R.rtEvt, en := some R.rtEvtEn, cnt := some R.rtEvtCnt }
def fn : EvtReg := { evt := R.fnEvt, en := some R.fnEvtEn, cnt := some R.fnEvtCnt }
def lane : EvtReg := { evt := R.laneEvt, en := some R.laneEvtEn, cnt := some R.laneEvtCnt }
def quad : EvtReg := { evt := R.quadEvt, en := some R.quadEvtEn, cnt := some R.quadEvtCnt }
def mac : EvtReg := { evt := R.macEvt, en := some R.macEvtEn, cnt := some R.macEvtCnt }
def lc : EvtReg := { evt := R.lcEvt, en := some R.lcEvtEn, cnt := some R.lcEvtCnt }
def ld : EvtReg := { evt := R.ldEvt, en := some R.ldEvtEn, cnt := some R.ldEvtCnt }
def pn : EvtReg := { evt := R.pnEvt, en := some R.pnEvtEn, cnt := some R.pnEvtCnt }
def pwr : EvtReg := { evt := R.pwrEvt, en := some R.pwrEvtEn, cnt := some R.pwrEvtCnt }
def pd : EvtReg := { evt := R.pdEvt, en := some R.pdEvtEn, cnt := some R.pdEvtCnt }
def ivr : EvtReg := { evt := R.ivrEvt, en := some R.ivrEvtEn, cnt := some R.ivrEvtCnt }
def ts : EvtReg := { evt := R.tsEvt, en := some R.tsEvtEn, cnt := some R.tsEvtCnt }
def th : EvtReg := { evt := R.thEvt, en := some R.thEvtEn, cnt := some R.thEvtCnt }
def mr : EvtReg := { evt := R.mrEvt, en := some R.mrEvtEn, cnt := some R.mrEvtCnt }
end E

/-- The event registers that have an enable register (R507). -/
def evtRegs : List EvtReg :=
  [E.tim, E.hbm, E.cma, E.mem, E.q, E.cw, E.gv, E.ni, E.rt, E.fn, E.lane, E.quad, E.mac, E.lc, E.ld, E.pn, E.pwr, E.pd,
   E.ivr, E.ts, E.th, E.mr]

/-- The three sinks of R485. -/
inductive SinkId where
  | pcie | i3c | lace
deriving DecidableEq, Repr

/-- A sink's buffer. -/
def sinkOf (s : State) : SinkId → Sink
  | .pcie => s.pn.pcieSink
  | .i3c => s.pn.i3cSink
  | .lace => s.pn.laceSink

/-- The state with a sink's buffer replaced. -/
def setSink (s : State) (k : SinkId) (b : Sink) : State :=
  match k with
  | .pcie => { s with pn := { s.pn with pcieSink := b } }
  | .i3c => { s with pn := { s.pn with i3cSink := b } }
  | .lace => { s with pn := { s.pn with laceSink := b } }

/-- Set event bits and count them, without an EV_REG packet (R21, R628). Answers the bits newly set that are enabled. -/
def latch (s : State) (e : EvtReg) (u i : Nat) (bits : W32) : State × W32 :=
  let old := rd s e.evt u i
  let s1 := wr s e.evt u i (old ||| bits)
  let s2 := match e.cnt with
    | none => s1
    | some c => wr s1 c u i (w32 (satU 32 ((rd s1 c u i).toNat + popcount bits)))
  let en := match e.en with
    | none => 0#32
    | some r => rd s r u i
  (s2, bits &&& ~~~old &&& en)

/-- An event that arrives at the I3C sink with no reply pending raises an IBI (R489). -/
def ibiEvent (s : State) (k : SinkId) : State :=
  if k = .i3c ∧ s.host.i3cEv = true ∧ s.pn.i3cReply.isNone then { s with host := { s.host with ibi := some 2 } } else s

/-- Offer an event to one sink: buffered, or dropped and counted when the 256 places are taken (R485). -/
def offer (s : State) (k : SinkId) (ev : Event) : State × Bool :=
  let b := sinkOf s k
  if b.buf.length < 256 then (ibiEvent (setSink s k { b with buf := b.buf ++ [ev] }) k, false)
  else
    let b' := { b with lost := b.lost + 1, lostSeq := if b.lost = 0 then ev.seq else b.lostSeq }
    (bump (setSink s k b') R.pnCount 0 7 1, true)

/-- The sinks that `PN_EVSINK_k` selects for an event kind (R485). -/
def sinksOf (s : State) (kind : Nat) : List SinkId :=
  (if rdB s R.pnEvsink 0 kind 0 then [SinkId.pcie] else []) ++
  (if rdB s R.pnEvsink 0 kind 1 then [SinkId.i3c] else []) ++
  (if rdB s R.pnEvsink 0 kind 2 then [SinkId.lace] else [])

/-- Offer an event to several sinks; answers whether any of them dropped it. -/
def offerAll (s : State) (ev : Event) : List SinkId → State × Bool
  | [] => (s, false)
  | k :: ks =>
    let (s1, d1) := offer s k ev
    let (s2, d2) := offerAll s1 ev ks
    (s2, d1 || d2)

/-- Generate an event of a kind (R483): it takes the next SEQ, whatever its sinks. A drop sets EV_DROP, which may itself
make an EV_REG; the second one's own drop finds EV_DROP already latched. -/
def emitN : Nat → State → Nat → List W32 → State
  | 0, s, _, _ => s
  | n + 1, s, kind, ws =>
    let seq := (rd s R.pnEvseq).toNat
    let s1 := wr s R.pnEvseq 0 0 (w32 (seq + 1))
    let (s2, dropped) := offerAll s1 { kind := kind, seq := seq, ats := s.ats, words := ws } (sinksOf s1 kind)
    if dropped then
      let (s3, newly) := latch s2 E.pn 0 0 0x4#32
      if newly = 0#32 then s3
      else emitN n s3 1 [w32 (R.pnEvt.key 0 0), w32 (R.pnEvt.key 0 0 / 2 ^ 32), newly, rd s3 R.pnEvtCnt]
    else s2

/-- Generate an event of a kind (R483). -/
def emit (s : State) (kind : Nat) (ws : List W32) : State := emitN 2 s kind ws

/-- Hardware sets event bits of item i of unit u of an event register (R21, R484, R628): the bits latch, the counter rises
by the number of bits, and each newly latched enabled bit produces EV_REG. -/
def raiseI (s : State) (e : EvtReg) (u i : Nat) (bits : W32) : State :=
  if bits = 0#32 then s else
  let (s1, newly) := latch s e u i bits
  if newly = 0#32 then s1
  else
    let c := match e.cnt with
      | none => 0#32
      | some r => rd s1 r u i
    emit s1 1 [w32 (e.evt.key u i), w32 (e.evt.key u i / 2 ^ 32), newly, c]

/-- Hardware sets bit k of an event register. -/
def raise (s : State) (e : EvtReg) (u k : Nat) : State := raiseI s e u 0 (w32 (2 ^ k))

/-- Hardware sets bit k when a condition holds. -/
def raiseIf (c : Bool) (s : State) (e : EvtReg) (u k : Nat) : State := if c then raise s e u k else s

/-! ## Packets (R477, R478) -/

/-- The numeric value of a status (R499). -/
def statNum : Status → Nat
  | .ok => 0 | .busy => 1 | .badOpcode => 2 | .badParam => 3 | .lengthRange => 4 | .notPresent => 5 | .notPermitted => 6
  | .authFail => 7 | .integrity => 8 | .timeout => 9 | .state => 10 | .noResource => 11 | .remoteUnreachable => 12
  | .late => 13 | .deferred => 14 | .partialDone => 15 | .fenced => 16

/-- The header check of a header's first three words and its STATUS (R478). -/
def hchk (w0 w1 w2 : W32) (status : Nat) : Nat := (crc16 (wordBytes [w0, w1, w2] ++ bytesOf 2 status)).toNat

/-- A Pennant packet (R477): opcode, tag, the flag bits of word 1, target, source, status, parameters, with a CRC or not. -/
def mkPacket (opcode tag flags target source status : Nat) (params : List W32) (crc : Bool) : List W32 :=
  let w0 := packF [(0, opcode % 65536), (16, tag % 65536)]
  let w1 := packF [(0, params.length), (16, 1), (22, b2n crc)] ||| w32 flags
  let w2 := packF [(0, target % 65536), (16, source % 65536)]
  let pk := [w0, w1, w2, packF [(0, status), (16, hchk w0 w1 w2 status)]] ++ params
  if crc then pk ++ [crc32c (wordBytes pk)] else pk

/-- The device is joined; the ID it answers to, 0 while not joined (R438). -/
def joined (s : State) : Bool := rdB s R.ldId 0 0 16
def ownId (s : State) : Nat := if joined s then rdF s R.ldId 0 0 15 0 else 0

/-- The packet of a reply (R482). -/
def replyPacket (s : State) (r : Reply) : List W32 :=
  mkPacket r.opcode r.tag.toNat (2 ^ 20 + (if r.self then 2 ^ 23 else 0)) r.target.toNat (ownId s) (statNum r.status) r.words r.crcv

/-! ## Replies (R482, R487) -/

/-- The host link's record changed. -/
def setHost (s : State) (f : HostLink → HostLink) : State := { s with host := f s.host }

/-- A queue pair is enabled; its ring size; entries in its submission and completion rings (R424). -/
def qpEn (s : State) (p : Nat) : Bool := rdB s R.qpCfg p 0 4
def qpSize (s : State) (p : Nat) : Nat := 2 ^ rdF s R.qpCfg p 0 3 0
def sqOcc (s : State) (p : Nat) : Nat := ((rd s R.sqTail p).toNat + 8192 - (rd s R.sqHead p).toNat) % 8192
def cqOcc (s : State) (p : Nat) : Nat := ((rd s R.cqTail p).toNat + 8192 - (rd s R.cqHead p).toNat) % 8192

/-- The device writes one CQ entry (R424): PHASE is 1 in the first pass of the ring and inverts on each later one. -/
def cqWrite (s : State) (p : Nat) (ws : List W32) (irq : Bool) : State :=
  let tail := (rd s R.cqTail p).toNat
  let phase := decide (tail / qpSize s p % 2 = 0)
  let s1 := setHost s fun h => { h with
    cqOut := h.cqOut ++ [(p, setNth ws 0 (setBit (nth ws 0 0#32) 16 phase))],
    msix := if irq then h.msix ++ [p] else h.msix }
  wr s1 R.cqTail p 0 (w32 ((tail + 1) % 8192))

/-- Entries of queue pair p that wait are written while its CQ has room; a disabled pair's are discarded. -/
def cqDrainN : Nat → State → Nat → State
  | 0, s, _ => s
  | n + 1, s, p =>
    match s.host.cqWait.find? fun e => decide (e.1 = p) with
    | none => s
    | some e =>
      if qpEn s p && decide (qpSize s p ≤ cqOcc s p) then s
      else
        let s1 := setHost s fun h => { h with cqWait := removeFirst (fun x => decide (x.1 = p)) h.cqWait }
        cqDrainN n (if qpEn s p then cqWrite s1 p e.2.1 e.2.2 else s1) p
def cqDrain (s : State) (p : Nat) : State := cqDrainN s.host.cqWait.length s p

/-- A CQ entry of queue pair p (R424, R487). -/
def cqPost (s : State) (p : Nat) (ws : List W32) (irq : Bool) : State :=
  cqDrain (setHost s fun h => { h with cqWait := h.cqWait ++ [(p, ws, irq)] }) p

/-- A CQ entry of a submission that has no reply packet (R480, R486, R487). -/
def bareEntry (sqix : Nat) (st : Status) : List W32 := [packF [(0, statNum st)], 0, w32 sqix, 0] ++ List.replicate 12 0#32

/-- Queue pair p has completed a submission: the refused ones that follow it complete too, in submission order (R490). -/
def subDrainN : Nat → State → Nat → State
  | 0, s, _ => s
  | n + 1, s, p =>
    match s.host.subs.find? fun x => decide (x.qp = p) with
    | none => s
    | some x => match x.bad with
      | none => s
      | some st =>
        let s1 := setHost s fun h => { h with subs := removeFirst (fun y => decide (y.qp = p)) h.subs }
        subDrainN n (if x.dead then s1 else cqPost s1 p (bareEntry x.sqix st) true) p
def subDrain (s : State) (p : Nat) : State := subDrainN s.host.subs.length s p

/-- The completion of a Pennant submission (R487): the reply inline, cut, or in the reply buffer. -/
def cqReply (s : State) (r : Reply) : State :=
  match s.host.subs.find? fun x => decide (x.qp = r.stream) with
  | none => s
  | some x =>
    let pk := replyPacket s r
    let n := 4 * pk.length
    let buf := decide (48 < n) && decide (x.rlen ≠ 0)
    let w0 := packF [(0, statNum r.status), (17, b2n (!buf)), (18, b2n (!buf && decide (48 < n)))]
    let ws := [w0, packF [(0, r.tag.toNat), (16, r.opcode)], w32 x.sqix, w32 n] ++
      (if buf then List.replicate 12 0#32 else (pk ++ List.replicate 12 0#32).take 12)
    let s1 := setHost s fun h => { h with
      subs := removeFirst (fun y => decide (y.qp = r.stream)) h.subs,
      bufOut := if buf && !x.dead then h.bufOut ++ [(x.rbuf, pk, false)] else h.bufOut }
    subDrain (if x.dead then s1 else cqPost s1 r.stream ws true) r.stream

/-- The MSG fragments of a packet under an exchange number: 248 bytes in each (R494). -/
def fragments (xid : Nat) (pk : List W32) : List (List W32) :=
  let n := (pk.length + 61) / 62
  (List.range n).map fun k => packF [(0, xid), (16, k), (21, n - 1)] :: 0 :: (pk.drop (62 * k)).take 62

/-- The Lace link's record changed. -/
def setLace (s : State) (f : Lace → Lace) : State := { s with lace := f s.lace }

/-- A message to a device of the domain that the manual names without a layout. -/
def laceMsg (s : State) (kind dev : Nat) (ws : List W32) : State :=
  setLace s fun l => { l with out := l.out ++ [{ kind := kind, dev := dev, words := ws }] }

/-- A reply goes back over Lace in the fragments of its command's exchange (R481, R494); a device that is not joined sends none. -/
def laceReply (s : State) (q : Req) (r : Reply) : State :=
  if !joined s then s
  else
    let s1 := { s with pn := { s.pn with laceSent := s.pn.laceSent ++ [(q.source.toNat, r.opcode, r.tag.toNat)] } }
    (fragments q.xid (replyPacket s r)).foldl (fun a w => laceMsg a 15 q.source.toNat w) s1

/-- A command's reply carries a CRC: the command did, or the way it goes requires one (R480, R482). -/
def replyCrc (s : State) (q : Req) : Bool :=
  q.crcv || decide (q.stream.val = 8) || decide (q.stream.val = 9) || (decide (q.stream.val < 8) && rdB s R.pnCfg 0 0 1)

/-- The state with a reply sent: recorded, counted (`PN_CMD_COUNT`, `PN_REFUSED_COUNT`), completed in its queue pair, sent over
Lace, or kept for the I3C read where the command came over I3C; there a reply beyond the slot becomes `LENGTH_RANGE` (R489). A reply in
stream 10 is kept in `FW_STATUS` (R592). -/
def reply (s : State) (opcode : Nat) (q : Req) (st : Status) (ws : List W32) : State :=
  let viaI3c := decide (q.stream.val = 8)
  let tooLong := viaI3c && decide (256 < 20 + 4 * ws.length)
  let st1 := if tooLong then .lengthRange else st
  let r : Reply :=
    { stream := q.stream.val, tag := q.tag, opcode := opcode, self := q.self, target := q.source,
      crcv := replyCrc s q, status := st1, words := if tooLong then [] else ws }
  let s1 := bump s R.pnCount 0 0 1
  let s2 := if st1 = .ok then s1 else bump s1 R.pnCount 0 1 1
  let s3 := { s2 with pn := { s2.pn with
      replies := s2.pn.replies ++ [r],
      i3cReply := if viaI3c then some r else s2.pn.i3cReply } }
  if viaI3c then setHost s3 fun h => { h with ibi := if h.i3cEv then some 1 else h.ibi }
  else if q.stream.val = 9 then laceReply s3 q r
  else if q.stream.val = 10 then
    if rdF s3 R.bootStat 0 0 2 0 ≠ 6 then s3 else { s3 with boot := { s3.boot with
        profRun := s3.boot.profRun + 1,
        profFail := if s3.boot.profFail = 0 ∧ st1 ≠ .ok then s3.boot.profRun + 1 else s3.boot.profFail,
        profStat := if s3.boot.profFail = 0 then st1 else s3.boot.profStat } }
  else cqReply s3 r

/-- A command body's result: the new state, the reply's status and its words; `hold` where the command holds its stream
until its operation ends (kind W of R500). -/
structure Done where
  st   : State
  stat : Status
  out  : List W32
  hold : Bool

/-- A body that ends with a status and no words. -/
def done (s : State) (st : Status) : Done := { st := s, stat := st, out := [], hold := false }

/-- A body that ends `OK` with words. -/
def doneW (s : State) (ws : List W32) : Done := { st := s, stat := .ok, out := ws, hold := false }

/-- A body that holds its stream. -/
def holding (s : State) : Done := { st := s, stat := .ok, out := [], hold := true }

/-- Parameter word k, 0 beyond the last. -/
def par (q : Req) (k : Nat) : W32 := nth q.params k 0#32

/-- No bit outside the mask is set in a word. -/
def onlyBits (w mask : W32) : Bool := decide (w &&& ~~~mask = 0#32)

/-- The reserved bits of all parameter words are 0, each word against its mask, and there are just as many words.
DEDUCED, safe: log entry 104. -/
def wellFormed (ws : List W32) (masks : List W32) : Bool :=
  decide (ws.length = masks.length) && (ws.zip masks).all fun p => onlyBits p.1 p.2

/-! ## Power domains -/

/-- A power domain's record. -/
def domOf (s : State) (d : Nat) : Domain := nth s.dom d Domain.reset

/-- The state with a power domain's record changed. -/
def setDom (s : State) (d : Nat) (f : Domain → Domain) : State := { s with dom := modNth s.dom d f }

end Sys2Proof.Machine
end

