-- ==== Sys2Proof/Machine/Mem.lean ====
section
/-! DEFINITION. The memories: which memory an address lies in, the check code of R56 and R57, and byte and word accesses.
Every memory is held by internal physical address. -/

namespace Sys2Proof.Machine

/-- The memory an internal address lies in. -/
inductive Unit_ where
  | bench (b : Nat)
  | lmem (b c : Nat)
  | spm (b : Nat)
  | hbm (s : Nat)
  | none_
deriving DecidableEq, Repr

/-- The base of bench b, and of the fabric window of its core c. -/
def benchBase (b : Nat) : Nat := 0x010000000000 + 0x1000000 * b
def lmemBase (b c : Nat) : Nat := 0x012000000000 + 0x1000000 * b + 0x100000 * c

/-- The present memory that an internal address lies in (R53, R83, R259): bench memory in the lower 8 MiB of a bench,
the Shank's program memory (R152), local and program memory in the first 576 KiB of a core's window, HBM of the present
stacks. A core's program memory counts its errors in the core's `LMEM_` counters (R84).
DESIGN CHOICE, unsafe: log entry 130. -/
def unitOf (v : Variant) (a : Nat) : Unit_ :=
  if a < 0x000800000000 then
    let s := a / 0x400000000
    if stackHere v s then .hbm s else .none_
  else if 0x010000000000 ≤ a ∧ a < 0x010010000000 then
    let b := (a - 0x010000000000) / 0x1000000
    let o := a - benchBase b
    if !benchHere v b then .none_ else if o < 0x800000 then .bench b else if 0x908000 ≤ o ∧ o < 0x910000 then .spm b else .none_
  else if 0x012000000000 ≤ a ∧ a < 0x012010000000 then
    let b := (a - 0x012000000000) / 0x1000000
    let o := (a - 0x012000000000) % 0x1000000
    if benchHere v b && decide (o < 0x800000) && decide (o % 0x100000 < 0x90000) then .lmem b (o / 0x100000) else .none_
  else .none_

/-- A word number lies in a lost range. -/
def inLost (l : List (Nat × Nat)) (w : Nat) : Bool := l.any fun r => decide (r.1 ≤ w) && decide (w < r.1 + r.2)

/-- What the marks of a word not listed read as. -/
def Memory.dflt (m : Memory) (w : Nat) : Mark := if inLost m.lost w then .poison else .clean

/-- The check state of word w. -/
def Memory.mark (m : Memory) (w : Nat) : Mark := (assoc m.marks w).getD (m.dflt w)

/-- The memory with the check state of word w set. -/
def Memory.setMark (m : Memory) (w : Nat) (k : Mark) : Memory :=
  { m with marks := putKey m.marks w (if k = m.dflt w then none else some k) }

/-- One stored byte; an address not listed reads 0.
DESIGN CHOICE, unsafe: log entry 21. -/
def Memory.byte (m : Memory) (a : Nat) : Byte := (assoc m.bytes a).getD 0

/-- The memory with one byte stored. -/
def Memory.setByte (m : Memory) (a : Nat) (b : Byte) : Memory :=
  { m with bytes := putKey m.bytes a (if b = 0 then none else some b) }

/-- The stored data of word w. -/
def Memory.data (m : Memory) (w : Nat) : Nat := ofBytes ((List.range 8).map fun i => m.byte (8 * w + i))

/-- Store bytes from address a on, whatever the check states. -/
def Memory.setBytes (m : Memory) (a : Nat) : List Byte → Memory
  | [] => m
  | b :: bs => (m.setByte a b).setBytes (a + 1) bs

/-- Store the data of word w. -/
def Memory.setData (m : Memory) (w v : Nat) : Memory := m.setBytes (8 * w) (bytesOf 8 v)

/-- Every word of a range becomes poison, and what was stored there is gone (R526, R527). -/
def Memory.lose (m : Memory) (w n : Nat) : Memory :=
  { bytes := m.bytes.filter fun e => decide (e.1 < 8 * w) || decide (8 * (w + n) ≤ e.1),
    marks := m.marks.filter fun e => decide (e.1 < w) || decide (w + n ≤ e.1),
    lost := if m.lost.contains (w, n) then m.lost else m.lost ++ [(w, n)] }

/-- The canonical form of the memories: addresses strictly rising, no byte 0 listed, no mark listed that a word not listed
reads as. -/
def Memory.wf (m : Memory) : Bool :=
  keysRise m.bytes && m.bytes.all (fun e => decide (e.2 ≠ 0)) && keysRise m.marks && m.marks.all (fun e => decide (e.2 ≠ m.dflt e.1))

/-! ## The counters of a memory (R56, R84, R260) -/

/-- Counter k of a memory: 0 corrected, 1 uncorrectable, 2 poison reads, 3 partial writes. -/
def countEcc (s : State) (m : Unit_) (k : Nat) : State :=
  match m with
  | .bench b => bump s R.memCount b k 1
  | .lmem b c => bump s (R.lmemCount k) b c 1
  | .hbm h => bump s R.hbmCount h (if k = 3 then 4 else k) 1
  | _ => s

/-- Raise event bit k of a memory's event register: 0 CE, 1 UE, 2 SCRUB_UE. Local memories have counters only. -/
def raiseEcc (s : State) (m : Unit_) (k : Nat) : State :=
  match m with
  | .bench b => raise s E.mem b k
  | .hbm h => raise s E.hbm h k
  | _ => s

/-- Record the address of the latest uncorrectable word. -/
def errAddr (s : State) (m : Unit_) (a : Nat) : State :=
  match m with
  | .bench b => wr s R.memErrAddr b 0 (packF [(3, (a - benchBase b) / 8), (31, 1)])
  | .hbm h =>
    let o := 8 * (a / 8)
    wr (wr s R.hbmErrLo h 0 (lo32 o)) R.hbmErrHi h 0 (packF [(0, o / 2 ^ 32), (31, 1)])
  | _ => s

/-- CE_WB of a memory: write corrected words back on read. Local memories follow their bench.
DEDUCED, unsafe: log entry 25. -/
def ceWb (s : State) (m : Unit_) : Bool :=
  match m with
  | .bench b => rdB s R.memCfg b 0 8
  | .lmem b _ => rdB s R.memCfg b 0 8
  | .hbm h => rdB s R.hbmCfg h 0 8
  | .spm b => rdB s R.memCfg b 0 8
  | .none_ => false

/-- A 64-bit word as a port sees it: its data, or poisoned. -/
abbrev MWord := W64 × Bool

def cleanW (n : Nat) : MWord := (BitVec.ofNat 64 n, false)
def poisonW : MWord := (0#64, true)

/-- An ECC error was met at a word: noted where an injection made it (R573). -/
def noteEcc (s : State) (a : Nat) : State :=
  if s.det.eccAddrs.contains a ∧ !s.det.eccHits.contains a then { s with det := { s.det with eccHits := a :: s.det.eccHits } } else s

/-- The scrubber's write-back of a word: passed over once where an injection wrote the word (R572). -/
def scrubBack (s : State) (a : Nat) (m : Memory) : State :=
  if s.det.eccSkip.contains a then { s with det := { s.det with eccSkip := s.det.eccSkip.filter fun x => decide (x ≠ a) } }
  else { s with mem := m }

/-- A read of the 64-bit word at address a by the rules of R56; `scrub` for a scrubber access (R58), which writes a corrected
word back whatever CE_WB is.
DEDUCED, unsafe: log entry 24.
DESIGN CHOICE, unsafe: log entry 126. -/
def readWord (s : State) (a : Nat) (scrub : Bool := false) : State × MWord :=
  let m := unitOf s.variant a
  let w := a / 8
  match m with
  | .none_ => (s, cleanW 0)
  | _ =>
    match s.mem.mark w with
    | .clean => (s, cleanW (s.mem.data w))
    | .single =>
      let s1 := raiseEcc (countEcc (noteEcc s (8 * w)) m 0) m 0
      let fixed := s1.mem.setMark w .clean
      let s2 := if scrub then scrubBack s1 (8 * w) fixed else if ceWb s1 m then { s1 with mem := fixed } else s1
      (s2, cleanW (s.mem.data w))
    | .poison => ((if scrub then s else countEcc s m 2), poisonW)
    | .double =>
      let s1 := raiseEcc (countEcc (noteEcc s (8 * w)) m 1) m (if scrub then 2 else 1)
      let s2 := errAddr s1 m a
      let spoilt := (s2.mem.setData w 0).setMark w .poison
      (if scrub then scrubBack s2 (8 * w) spoilt else { s2 with mem := spoilt }, poisonW)

/-- n words from address a on. -/
def readWords (s : State) (a : Nat) : Nat → State × List MWord
  | 0 => (s, [])
  | n + 1 =>
    let (s1, x) := readWord s a
    let (s2, xs) := readWords s1 (a + 8) n
    (s2, x :: xs)

/-- A full write of a 64-bit word: clean data clears poison; a poisoned element stores the poison code (R57). -/
def writeWord (s : State) (a : Nat) (x : MWord) : State :=
  match unitOf s.variant a with
  | .none_ => s
  | _ =>
    let w := a / 8
    if x.2 then { s with mem := (s.mem.setData w 0).setMark w .poison }
    else { s with mem := (s.mem.setData w x.1.toNat).setMark w .clean }

/-- Full words from address a on. -/
def writeWords (s : State) (a : Nat) : List MWord → State
  | [] => s
  | x :: xs => writeWords (writeWord s a x) (a + 8) xs

/-- A write of some bytes of one word, at byte offset o: a word that holds poison or an uncorrectable error keeps the
poison code and counts one partial write (R57).
DEDUCED, unsafe: log entry 23. -/
def writePart (s : State) (w o : Nat) (bs : List Byte) : State :=
  let a := 8 * w + o
  match unitOf s.variant a with
  | .none_ => s
  | m =>
    match s.mem.mark w with
    | .clean => { s with mem := s.mem.setBytes a bs }
    | .single => { s with mem := (s.mem.setBytes a bs).setMark w .clean }
    | .poison => countEcc s m 3
    | .double => countEcc { s with mem := (s.mem.setData w 0).setMark w .poison } m 3

/-- Bytes stored from address a on, word by word; `fuel` bounds the words touched. -/
def writeBytesN : Nat → State → Nat → List Byte → State
  | 0, s, _, _ => s
  | _, s, _, [] => s
  | n + 1, s, a, bs =>
    let o := a % 8
    let k := 8 - o
    let here := bs.take k
    let s1 := if o = 0 ∧ here.length = 8 then writeWord s a (cleanW (ofBytes here)) else writePart s (a / 8) o here
    writeBytesN n s1 (a + k) (bs.drop k)

/-- Bytes stored from address a on (R57). -/
def writeBytes (s : State) (a : Nat) (bs : List Byte) : State := writeBytesN (bs.length + 1) s a bs

/-- The controller of a stack reads a word of a line that it rewrites (R260): a corrected word is written back with the line. -/
def mendWord (s : State) (w : Nat) : State :=
  let single := decide (s.mem.mark w = .single)
  let s1 := (readWord s (8 * w)).1
  if single then { s1 with mem := s1.mem.setMark w .clean } else s1

/-- The words of the lines at the ends of n bytes from address a on that a write of those bytes does not touch: in HBM a write of
less than a line is a read-modify-write of it (R260).
DEDUCED, unsafe: log entry 165. -/
def mendLines (s : State) (a n : Nat) : State :=
  match unitOf s.variant a with
  | .hbm _ =>
    if n = 0 then s else
    let first := (List.range (a / 8 - 8 * (a / 64))).map fun k => 8 * (a / 64) + k
    let last := (a + n - 1) / 8
    let rest_ := (List.range (8 * (last / 8) + 7 - last)).map fun k => last + 1 + k
    (first ++ rest_).foldl mendWord s
  | _ => s

/-- n bytes read from address a on, and whether any word they lie in was poisoned. -/
def readBytes (s : State) (a n : Nat) : State × List Byte × Bool :=
  if n = 0 then (s, [], false) else
  let first := a / 8
  let last := (a + n - 1) / 8
  let (s1, ws) := readWords s (8 * first) (last + 1 - first)
  let all := ws.flatMap fun x => bytesOf 8 x.1.toNat
  (s1, (all.drop (a % 8)).take n, ws.any fun x => x.2)

/-- n 32-bit words from a 4-byte aligned address, and whether any was poisoned. -/
def read32s (s : State) (a n : Nat) : State × List W32 × Bool :=
  let (s1, bs, p) := readBytes s a (4 * n)
  (s1, bytesWords n bs, p)

/-- 32-bit words stored from address a on. -/
def write32s (s : State) (a : Nat) (ws : List W32) : State := writeBytes s a (wordBytes ws)

end Sys2Proof.Machine
end

