-- ==== Sys2Proof/Machine/CordBase.lean ====
section
/-! DEFINITION. The small operations over tasks and stages that other units use (R65, R66, R286, R290). -/

namespace Sys2Proof.Machine

def setCord (s : State) (f : Cord → Cord) : State := { s with cord := f s.cord }

/-- Live task i. -/
def taskOf (s : State) (i : Nat) : Option Task := assoc s.cord.tasks i

def putTask (s : State) (i : Nat) (t : Task) : State := setCord s fun c => { c with tasks := putKey c.tasks i (some t) }

def modTask (s : State) (i : Nat) (f : Task → Task) : State :=
  match taskOf s i with
  | none => s
  | some t => putTask s i (f t)

/-- The engine class that a site serves (R291, R220). -/
def siteClass : Site → Nat
  | .bench _ i => if i.val < 8 then 0 else if i.val = 8 then 1 else if i.val < 11 then 2 else if i.val = 11 then 3 else 14
  | .pool _ i =>
    let n := i.val
    if n < 12 then 4 else if n < 16 then 5 else if n < 20 then 6 else if n < 24 then 7 else if n < 32 then 8
    else if n < 34 then 9 else if n < 42 then 10 else 11
  | .mac _ tx => if tx then 12 else 13
  | .notify _ => 15

/-- The power domain of a site (R358). -/
def siteDomain : Site → Nat
  | .bench b _ => b.val
  | .pool h _ => 16 + h.val
  | .mac m _ => 20 + m.val / 8
  | .notify _ => 36

/-- A site exists in the variant. -/
def siteHere (v : Variant) : Site → Bool
  | .bench b i => if i.val = 11 then cmaHere v b.val else benchHere v b.val
  | .pool h _ => halfHere v h.val
  | .mac m _ => laneHere v (2 * m.val)
  | .notify _ => true

/-- Tasks staged at a site, in the order they were staged. -/
def stagedAt (s : State) (x : Site) : List (Nat × Task) :=
  sortBy (fun a b => decide (a.2.sseq < b.2.sseq))
    (s.cord.tasks.filter fun e => decide (e.2.site = some x) && decide (e.2.st = .staged))

/-- Staging slots of a site in use: a fronthaul task keeps its own until it completes (R412). -/
def slotsUsed (s : State) (x : Site) : Nat := (s.cord.tasks.filter fun e => decide (e.2.site = some x) &&
  (decide (e.2.st = .staged) || (match x with | .mac _ _ => decide (e.2.st = .run) | _ => false))).length

/-- Tasks running at a site. -/
def runningAt (s : State) (x : Site) : List (Nat × Task) :=
  s.cord.tasks.filter fun e => decide (e.2.site = some x) && decide (e.2.st = .run)

/-- A flow is busy: one of its tasks is staged or running (R290). -/
def flowBusy (s : State) (f : Nat) : Bool :=
  decide (f ≠ 0) && s.cord.tasks.any fun e => decide (e.2.flow = f) && (decide (e.2.st = .staged) || decide (e.2.st = .run))

/-- The bench of a site, if it is on one. -/
def siteBench : Site → Option Nat
  | .bench b _ => some b.val
  | _ => none

/-- One staged task goes back to its ready list with its position unchanged (R66). -/
def returnTask (s : State) (i : Nat) (t : Task) : State :=
  let s1 := putTask s i { t with st := .ready, site := none, arrived := false }
  match t.site.bind siteBench with
  | some b => bump s1 R.dsCount b 1 1
  | none => s1

/-- Every staged task of the sites that p selects goes back (R66). -/
def returnStaged (s : State) (p : Site → Bool) : State :=
  let l := sortBy (fun a b => decide (a.2.sseq < b.2.sseq)) (s.cord.tasks.filter fun e =>
    decide (e.2.st = .staged) && (match e.2.site with
      | some x => p x
      | none => false))
  l.foldl (fun a e => returnTask a e.1 e.2) s

/-- An engine sends the completion of a task (R55, R295). -/
def complete (s : State) (i : Nat) (st : W16) : State := setCord s fun c => { c with inbox := c.inbox ++ [(i, st)] }

/-- The 16-bit form of a status. -/
def st16 (st : Status) : W16 := BitVec.ofNat 16 (statNum st)

/-- A status of the FAIL group that the manual does not name (R295).
DESIGN CHOICE, safe: log entry 79. -/
def freeFail (s : State) : State × W16 :=
  let (w, s1) := drawFree s
  let v : W16 := BitVec.ofNat 16 w.toNat
  (s1, if v = 0#16 ∨ v = 15#16 then st16 .badParam else v)

/-- An instance starts the next task staged at it: STAGED to RUN (R65, R286). Answers the task's index. -/
def beginTask (s : State) (x : Site) : Option (State × Nat × Task) :=
  match (stagedAt s x).find? fun e => e.2.arrived with
  | none => none
  | some (i, t) =>
    let t' := { t with st := .run }
    let s1 := bump (putTask s i t') R.cwCount 0 1 1
    some (match siteBench x with
      | some b => bump s1 R.dsCount b 0 1
      | none => s1, i, t')

/-- A domain has a task running or staged. -/
def domainTasks (s : State) (d : Nat) : Bool := s.cord.tasks.any fun e =>
  (decide (e.2.st = .staged) || decide (e.2.st = .run)) && (match e.2.site with
    | some x => decide (siteDomain x = d)
    | none => false)

/-- A domain has a task running. -/
def domainRuns (s : State) (d : Nat) : Bool := s.cord.tasks.any fun e =>
  decide (e.2.st = .run) && (match e.2.site with
    | some x => decide (siteDomain x = d)
    | none => false)

end Sys2Proof.Machine
end

