-- ==== Sys2Proof/Machine/Commit.lean ====
section
/-! DEFINITION. The operand forms of a boundary (R38, R39) and the staging of commits (R15, R40, R495, R496). -/

namespace Sys2Proof.Machine

/-! ## Air-time units (R27, R28) -/

def tcHyper : Nat := 20132659200
def tcFrame : Nat := 19660800
def tcSubframe : Nat := 1966080
def tcHalf : Nat := 983040
def tcTick : Nat := 4096

/-- Slots per frame at a numerology. -/
def slotsPerFrame (mu : Nat) : Nat := 10 * 2 ^ mu

/-- The start of symbol k after the start of a half-subframe at numerology µ (R28): its first symbol is 1,024 Tc longer. -/
def symStartHalf (mu k : Nat) : Nat := k * (140288 / 2 ^ mu) + (if k = 0 then 0 else 1024)

/-- The exact start of symbol k (0–13, and 14 for the end) of a slot of the frame, in Tc after the start of the frame. -/
def symStart (mu slot k : Nat) : Nat :=
  let n := 14 * slot + k
  let per := 7 * 2 ^ mu
  n / per * tcHalf + symStartHalf mu (n % per)

/-- The exact start of a slot in Tc after the start of its frame (R27). -/
def slotStart (mu slot : Nat) : Nat := symStart mu slot 0

/-! ## Boundaries (R38, R39) -/

/-- A boundary word pair breaks R38. -/
def badBoundary (w0 w1 : W32) : Bool :=
  let kind := fld w0 1 0
  let mu := fld w0 3 2
  let slot := fld w0 10 4
  decide (kind = 3) || decide (fld w0 12 11 ≠ 0) || decide (fld w0 31 23 ≠ 0) ||
  (if kind = 0 then decide (slotsPerFrame mu ≤ slot) else decide (mu ≠ 0) || decide (slot ≠ 0)) ||
  (decide (kind = 2) && decide (fld w0 22 13 ≠ 0)) || decide (w1.toNat ≥ 2 ^ 32)

/-- The boundary instant B: the ATS at which the named unit starts. -/
def boundary (w0 w1 : W32) : Nat :=
  let kind := fld w0 1 0
  w1.toNat * tcHyper + (if kind = 2 then 0 else fld w0 22 13 * tcFrame) +
  (if kind = 0 then slotStart (fld w0 3 2) (fld w0 10 4) else 0)

/-- A boundary lies 2^31 ticks or more ahead (R39). -/
def tooFar (s : State) (b : Nat) : Bool := decide (tickNow s + 2 ^ 31 ≤ b / tcTick)

/-- A boundary pair gives `BAD_PARAM` (R38, R39). -/
def bndFault (s : State) (w0 w1 : W32) : Bool := badBoundary w0 w1 || tooFar s (boundary w0 w1)

/-- A boundary has passed: ATS is at or past B − 4,096 Tc (R39).
DESIGN CHOICE, unsafe: log entry 13. -/
def passed (s : State) (b : Nat) : Bool := decide (b ≤ s.ats.toNat + tcTick)

/-! ## Pending commits (R495–R498) -/

def setPn (s : State) (f : Pennant → Pennant) : State := { s with pn := f s.pn }

/-- The pending time step. -/
def pendingStep (s : State) : Option Commit := s.pn.commits.find? fun c => decide (c.opcode = 0x0703)

/-- A pending step bars a commit for a boundary later than its own (R40). -/
def stepBars (s : State) (b : Nat) : Bool :=
  match pendingStep s with
  | none => false
  | some c => decide (c.bnd < b)

/-- How many pending commits a commit counts as: each inner command of a group counts as one (R496). -/
def commitWeight (c : Commit) : Nat := if c.inner.isEmpty then 1 else c.inner.length

/-- Pending commits as the limit of R496 counts them. -/
def commitLoad (s : State) : Nat := listSum (s.pn.commits.map commitWeight)

/-- EV_COMMIT for a commit that ended with a status (R483, R495). -/
def emitCommit (s : State) (opcode : Nat) (tag : W16) (stream : Nat) (w0 w1 : W32) (st : Status) : State :=
  emit s 2 [packF [(0, opcode), (16, tag.toNat)], packF [(0, statNum st), (16, stream)], w0, w1]

/-- Remove a commit that was refused after acceptance, and report it (R495). -/
def refuseCommit (s : State) (c : Commit) (st : Status) : State :=
  let s1 := setPn s fun p => { p with commits := removeFirst (fun d => decide (d = c)) p.commits }
  emitCommit s1 c.opcode c.tag c.stream c.w0 c.w1 st

/-- Refuse several commits, in order. -/
def refuseAll (s : State) (st : Status) : List Commit → State
  | [] => s
  | c :: cs => refuseAll (refuseCommit s c st) st cs

/-- The last checks and the staging of a commit whose own checks passed (R15, R496): `NO_RESOURCE` where the shadow state is
full, `LATE` where the boundary has passed, else it is staged. -/
def stage (s : State) (c : Commit) : State × Status :=
  if 4096 < commitLoad s + commitWeight c then (s, .noResource)
  else if passed s c.bnd then (s, .late)
  else (setPn s fun p => { p with commits := p.commits ++ [c] }, .ok)

/-- A commit record of a command. -/
def mkCommit (opcode : Nat) (q : Req) (w0 w1 : W32) (prepared : Bool) : Commit :=
  { opcode := opcode, tag := q.tag, stream := q.stream.val, note := q.note, bnd := boundary w0 w1, w0 := w0, w1 := w1,
    params := q.params, inner := [], prepared := prepared }

end Sys2Proof.Machine
end

