-- ==== Sys2Proof/Machine/LineBase.lean ====
section
/-! DEFINITION. What a lane has beside its registers, the lanes of a MAC, and what leaves a lane's transmitter: symbols, and bits flipped
by its error injector (R371, R378, R391, R402, R403). -/

namespace Sys2Proof.Machine

/-! ## Lanes (R371, R394) -/

def laneSt (s : State) (n : Nat) : LineSt := (assoc s.lanes n).getD LineSt.reset
def putLaneSt (s : State) (n : Nat) (x : LineSt) : State := { s with lanes := putKey s.lanes n (if x = LineSt.reset then none else some x) }
def modLaneSt (s : State) (n : Nat) (f : LineSt → LineSt) : State := putLaneSt s n (f (laneSt s n))

/-- STATE of a lane: 0 OFF, 1 SIGDET, 2 CDR, 3 EQ, 4 BLOCK, 5 DESCR, 6 HANDSHAKE, 7 UP, 8 BACKOFF, 9 NO_PARTNER, 10 EI,
11 TEST, 12 PCIE (R394). -/
def laneState (s : State) (n : Nat) : Nat := rdF s R.laneStat n 0 3 0
def setLaneState (s : State) (n k : Nat) : State := wrF s R.laneStat n 0 3 0 k

/-- Role: 0 OFF, 1 ETH, 2 LACE, 3 PCIE, 4 TEST; rate code (R371). -/
def laneRole (s : State) (n : Nat) : Nat := rdF s R.laneCtl n 0 2 0
def laneRate (s : State) (n : Nat) : Nat := rdF s R.laneCtl n 0 5 3
def laneFails (s : State) (n : Nat) : Nat := rdF s R.laneStat n 0 6 4

/-- A lane is in an attempt: SIGDET to HANDSHAKE. -/
def inAttempt (s : State) (n : Nat) : Bool := decide (1 ≤ laneState s n) && decide (laneState s n ≤ 6)

/-! ## The lanes of a MAC (R402, R403) -/

/-- Lanes of a speed, the rate code they must have, and whether RS-FEC is always on. -/
def speedLanes (sp : Nat) : Nat := match sp with | 2 | 5 => 2 | 4 | 6 => 4 | _ => 1
def speedRate (sp : Nat) : Nat := match sp with | 0 => 0 | 1 | 2 | 4 => 1 | _ => 2
def speedFec (sp : Nat) : Bool := decide (sp = 2) || decide (sp = 3) || decide (sp = 5) || decide (sp = 6)

def macSpeed (s : State) (m : Nat) : Nat := rdF s R.macCfg m 0 10 8
def macLanes (s : State) (m : Nat) : List Nat := (List.range (speedLanes (macSpeed s m))).map fun i => 2 * m + i

/-! ## Symbols (R378) -/

/-- Gray mapping of line bits to symbols of L56, as levels 0–3 for −3, −1, +1, +3; the first bit is the more significant. -/
def pam4 : List Bool → List Nat
  | a :: b :: r => (if a then (if b then 2 else 3) else (if b then 1 else 0)) :: pam4 r
  | _ => []

/-- Bits that leave the transmitter outside blocks, as the symbols of the lane's modulation. -/
def lineSend (pam : Bool) (x : LineSt) (bs : List Bool) : LineSt :=
  if pam then
    let l := x.odd ++ bs
    { x with line := x.line ++ pam4 l, odd := l.drop (l.length / 2 * 2) }
  else { x with line := x.line ++ bs.map b2n }

/-- A rate of PAM4 modulation (R371). -/
def pamRate (r : Nat) : Bool := decide (r = 2) || decide (r = 4)

/-! ## The error injector (R391) -/

/-- The error injector over the next n line bits (R391): bits of a burst still to be flipped, and one bit in every 2^k while
continuous injection runs. Answers the bits flipped, by position. -/
def flipLine (x : LineSt) (k n : Nat) : LineSt × List Nat :=
  let hit (i : Nat) : Bool := decide (i < x.flips) || (x.injOn && decide ((x.gap + i + 1) % 2 ^ k = 0))
  ({ x with flips := x.flips - n, gap := if x.injOn then (x.gap + n) % 2 ^ k else 0 }, (List.range n).filter hit)

/-- Injection works in TEST, and in ETH or LACE while UP (R391). -/
def mayFlip (s : State) (n : Nat) : Bool := decide (laneState s n = 11) || decide (laneState s n = 7)

/-- The injector of a lane runs over the next k line bits that it sends, and says which it flips. On PAM4 a flipped bit moves its
symbol's Gray code by one step. -/
def injLine (s : State) (n k : Nat) : State × List Nat :=
  if !mayFlip s n then (s, [])
  else
    let (y, hit) := flipLine (laneSt s n) (rdF s R.lnTest n 0 20 15) k
    (putLaneSt s n { y with flipped := y.flipped + hit.length }, hit)

/-- Line bits of a frame of so many bytes on each of its MAC's lanes: with preamble, FCS and gap, in 64b/66b code.
PRESUMED, safe: log entry 175. -/
def frameLine (bytes lanes : Nat) : Nat := (8 * (bytes + 24) * 66 / 64 + lanes - 1) / lanes

/-- A frame of so many bytes passes the injectors of its MAC's lanes. -/
def injFrame (s : State) (m bytes : Nat) : State :=
  (macLanes s m).foldl (fun a n => (injLine a n (frameLine bytes (macLanes s m).length)).1) s

end Sys2Proof.Machine
end

