-- ==== Sys2Proof/Machine/Queue.lean ====
section
/-! DEFINITION. Bench memory ports and the scrubber (R56–R58), stream queues (R240–R258), HBM (R259–R263) and their
commands (R264–R266). -/

namespace Sys2Proof.Machine

/-- The state with the answer of an access.
DESIGN CHOICE, safe: log entry 78. -/
def answer (s : State) (st : Status) (ws : List MWord) : State := { s with readStat := st, readData := ws }

/-- Nothing of an absent unit changes, and a read of it gives 0 (R8). -/
def absent (s : State) : State := answer s .ok [cleanW 0]

/-! ## Bench memory (R56–R58) -/

/-- `BENCH_MEM_READ` (R56): one 64-bit word. -/
def execBenchMemRead (b : Fin 16) (w : Fin 1048576) (s : State) : Host.Outcome State Fault Refusal :=
  .next (if !benchHere s.variant b.val then absent s else
    let (s1, x) := readWord s (benchBase b.val + 8 * w.val)
    answer s1 .ok [x])

/-- The words that a byte range touches hold the poison code. -/
def poisonWords (s : State) (a : Nat) : Nat → State
  | 0 => s
  | n + 1 => poisonWords (writeWord s (8 * (a / 8)) poisonW) (8 * (a / 8) + 8) n

/-- Bytes or a poisoned element stored from address a on, kept inside the memory that ends at `lim` (R57). -/
def portWrite (s : State) (a lim : Nat) (data : List Byte) (poison : Bool) : State :=
  let bs := data.take (lim - a)
  if bs.isEmpty then s
  else if poison then poisonWords s a ((a + bs.length - 1) / 8 + 1 - a / 8)
  else writeBytes s a bs

/-- `BENCH_MEM_WRITE` (R57). -/
def execBenchMemWrite (b : Fin 16) (off : Fin 8388608) (data : List Byte) (poison : Bool) (s : State) :
    Host.Outcome State Fault Refusal :=
  .next (if !benchHere s.variant b.val then s
    else portWrite s (benchBase b.val + off.val) (benchBase b.val + 0x800000) data poison)

/-- The scrubber reads n words from address a on (R58). -/
def scrubWords (s : State) (a : Nat) : Nat → State
  | 0 => s
  | n + 1 => scrubWords (readWord s a true).1 (a + 8) n

/-- `SCRUB_ACCESS` (R58): one 64-byte line; with SCRUB_S = 0 the scrubber is off. -/
def execScrubAccess (b : Fin 16) (line : Fin 131072) (s : State) : Host.Outcome State Fault Refusal :=
  .next (if !benchHere s.variant b.val ∨ rdF s R.memCfg b.val 0 7 0 = 0 then s
    else scrubWords s (benchBase b.val + 64 * line.val) 8)

/-! ## The storage of a queue (R240, R245) -/

def queueOf (s : State) (b q : Nat) : Queue := (assoc s.queues (64 * b + q)).getD Queue.reset

def putQueue (s : State) (b q : Nat) (x : Queue) : State :=
  { s with queues := putKey s.queues (64 * b + q) (if x = Queue.reset then none else some x) }

/-- Words of a queue's region, CAP + 1. -/
def qWords (s : State) (b q : Nat) : Nat := rdF s R.qSize b q 8 0 * 512

/-- The address of word offset o of a queue's region. -/
def qAddr (s : State) (b q o : Nat) : Nat := benchBase b + (rd s R.qBase b q).toNat + 8 * o

def qOn (s : State) (b q : Nat) : Bool := rdB s R.qCfg b q 0
def qInplace (s : State) (b q : Nat) : Bool := rdB s R.qCfg b q 1
def qContig (s : State) (b q : Nat) : Bool := rdB s R.qCfg b q 2
def qXoff (s : State) (b q : Nat) : Bool := rdB s R.qStat b q 1

/-- A packet is open: its header is accepted and not all its payload has arrived (R250). -/
def openPkt (x : Queue) : Option QPkt :=
  match x.pkts.getLast? with
  | some p => if p.got < p.len then some p else none
  | none => none

/-- KIND and ID of a source (R241). -/
def srcKind : Producer → Nat × Nat
  | .fabric n => (1, n.val)
  | .mac m => (2, m.val)
  | .lace p => (3, p.val)
  | .host => (4, 0)

/-- A source is the queue's own producer. -/
def ownSrc (s : State) (b q : Nat) (src : Producer) : Bool :=
  decide (rdF s R.qProd b q 2 0 = (srcKind src).1) && decide (rdF s R.qProd b q 15 8 = (srcKind src).2)

/-- The live bits of `Q_STAT` that follow the configuration and the queue. -/
def syncQStat (s : State) (b q : Nat) : State :=
  let x := queueOf s b q
  let lvl := (rd s R.qLevel b q).toNat
  let w := rd s R.qStat b q
  let w1 := setBit (setBit w 0 (qOn s b q)) 2 (decide (lvl ≠ 0) && decide (lvl ≤ x.occ))
  let w2 := setBit (setBit w1 3 (openPkt x).isSome) 4 (!x.held.isEmpty)
  wr s R.qStat b q (setBit w2 5 (decide (x.occ = 0)))

/-- The state of a MAC beside its registers. -/
def macOf (s : State) (m : Nat) : Mac := (assoc s.fh.macs m).getD Mac.reset
def setFh (s : State) (f : Fh → Fh) : State := { s with fh := f s.fh }
def modMac (s : State) (m : Nat) (f : Mac → Mac) : State :=
  let x := f (macOf s m)
  setFh s fun h => { h with macs := putKey h.macs m (if x = Mac.reset then none else some x) }

/-- A frame leaves a MAC: its bytes from the destination address on. The injectors of its lanes may flip line bits of it (R391). -/
def sendFrame (s : State) (m : Nat) (bs : List Byte) : State :=
  setFh (injFrame s m bs.length) fun h => { h with out := h.out ++ [(m, bs)] }

/-- A MAC sends priority flow control for a priority (R254, R404), with some quanta; counted in `PFC_TX`. -/
def pfcSend (s : State) (m prio quanta : Nat) : State :=
  let sa := (bytesOf 6 (pair64 (nth (macOf s m).cfg 3 0) (nth (macOf s m).cfg 4 0))).reverse
  let times := (List.range 8).flatMap fun k => (bytesOf 2 (if k = prio then quanta else 0)).reverse
  let fr : List Byte := [0x01#8, 0x80#8, 0xC2#8, 0#8, 0#8, 0x01#8] ++ sa ++ [0x88#8, 0x08#8, 0x01#8, 0x01#8, 0#8, BitVec.ofNat 8 (2 ^ prio)] ++ times
  bump (sendFrame s m fr) R.macCount m 15 1

/-- Some queue other than (b, q) that is bound to MAC m and names the priority is in XOFF. -/
def otherXoff (s : State) (b q m prio : Nat) : Bool := s.queues.any fun e =>
  decide (e.1 ≠ 64 * b + q) && qXoff s (e.1 / 64) (e.1 % 64) && decide (rdF s R.qCfg (e.1 / 64) (e.1 % 64) 4 3 = 2) &&
  decide (rdF s R.qCfg (e.1 / 64) (e.1 % 64) 7 5 = prio) && decide (rdF s R.qProd (e.1 / 64) (e.1 % 64) 15 8 = m)

/-- XOFF of a queue carried out of the device by PFC (R254): a pause on entry, quanta 0 on exit. -/
def pfcXoff (s : State) (b q : Nat) (on : Bool) : State :=
  if rdF s R.qCfg b q 4 3 ≠ 2 ∨ rdF s R.qProd b q 2 0 ≠ 2 then s
  else
    let m := rdF s R.qProd b q 15 8
    let prio := rdF s R.qCfg b q 7 5
    if on then pfcSend (modMac s m fun x => { x with xoff := setBit x.xoff prio true }) m prio (fld (nth (macOf s m).cfg 2 0) 15 0)
    else if otherXoff s b q m prio then s
    else pfcSend (modMac s m fun x => { x with xoff := setBit x.xoff prio false }) m prio 0

/-- `Q_OCC` takes a new value (R253, R255): XOFF, the level crossing, and the pointers of an empty CONTIG queue (R246). -/
def setOcc (s : State) (b q n : Nat) : State :=
  let x := queueOf s b q
  let lvl := (rd s R.qLevel b q).toNat
  let hi := (rd s R.qHi b q).toNat
  let lo := (rd s R.qLo b q).toNat
  let s1 := putQueue s b q { x with occ := n }
  let crossed := decide (lvl ≠ 0) && decide (x.occ < lvl) && decide (lvl ≤ n)
  let s2 := if crossed then
      wr (raiseI s1 E.q b q 1#32) R.qXcnt b q (w32 (satU 16 ((rd s1 R.qXcnt b q).toNat + 1))) else s1
  let enter := decide (hi ≠ 0) && decide (hi ≤ n) && !qXoff s b q
  let leave := qXoff s b q && (decide (hi = 0) || decide (n ≤ lo)) && !enter
  let s3 := if enter then pfcXoff (raiseI (wrB s2 R.qStat b q 1 true) E.q b q 2#32) b q true
    else if leave then pfcXoff (wrB s2 R.qStat b q 1 false) b q false else s2
  let s4 := if n = 0 ∧ qContig s b q ∧ (openPkt (queueOf s3 b q)).isNone then wr (wr s3 R.qRdptr b q 0) R.qWrptr b q 0 else s3
  syncQStat s4 b q

/-- A word enters the queue block: answers whether the entry check fails, and counts the failure (R243, R256). -/
def entryCheck (s : State) (b q : Nat) (bad : Bool) : State × Bool :=
  let inj := rd s R.qInj b q
  let skip := fld inj 16 1
  let fire := bit inj 0 && decide (skip = 0)
  let s1 := if bit inj 0 then
      (if fire then wrB (wr s R.qInj b q 0) R.qStat b q 6 true else wr s R.qInj b q (setFld inj 16 1 (skip - 1))) else s
  if bad || fire then (raiseI (bump s1 (R.qCount 3) b q 1) E.q b q 0x20#32, true) else (s1, false)

/-- Padding that a CONTIG packet of n words needs before it (R246). -/
def padFor (s : State) (b q n : Nat) : Nat :=
  let w := (rd s R.qWrptr b q).toNat % qWords s b q
  if qContig s b q ∧ qWords s b q < w + n then qWords s b q - w else 0

/-- A header is accepted (R246, R248): its words are reserved and it is stored. -/
def acceptHdr (s : State) (b q : Nat) (hdr : W64) : State :=
  let len := fld hdr 15 0
  let pad := padFor s b q (len + 1)
  let size := qWords s b q
  let start := if pad = 0 then (rd s R.qWrptr b q).toNat % size else 0
  let x := queueOf s b q
  let s1 := writeWord s (qAddr s b q start) (hdr, false)
  let s2 := putQueue s1 b q { x with pkts := x.pkts ++ [{ start := start, len := len, got := 0, pad := pad, popped := 0, trunc := false, poison := false }], last := tickNow s }
  let s3 := wr s2 R.qWrptr b q (w32 (if size = 0 then 0 else (start + 1) % size))
  let s4 := bump (bump s3 (R.qCount 0) b q 1) (R.qCount 1) b q 1
  answer (setOcc s4 b q (x.occ + len + 1 + pad)) .ok []

/-- The last packet of a queue changed. -/
def modLast (l : List QPkt) (f : QPkt → QPkt) : List QPkt :=
  match l.getLast? with
  | none => l
  | some p => l.dropLast ++ [f p]

/-- Poison stored in n words of a queue from word offset o on. -/
def poisonRun (s : State) (b q o : Nat) : Nat → State
  | 0 => s
  | n + 1 => poisonRun (writeWord s (qAddr s b q (o % qWords s b q)) poisonW) b q (o + 1) n

/-- Truncate the open packet (R250): the missing words hold the poison code, the stored header has TRUNC set. -/
def truncate (s : State) (b q : Nat) : State :=
  let x := queueOf s b q
  match openPkt x with
  | none => s
  | some p =>
    let miss := p.len - p.got
    let s1 := poisonRun s b q (p.start + 1 + p.got) miss
    let ha := qAddr s b q p.start
    let s2 := if p.popped = 0 then
        writeWord s1 ha (setBit (BitVec.ofNat 64 (s1.mem.data (ha / 8))) 16 true, decide (s1.mem.mark (ha / 8) = .poison)) else s1
    let s3 := putQueue s2 b q { x with pkts := modLast x.pkts fun r => { r with got := r.len, trunc := true, poison := true } }
    let s4 := wr s3 R.qWrptr b q (w32 ((p.start + 1 + p.len) % qWords s b q))
    syncQStat (raiseI (bump s4 (R.qCount 2) b q 1) E.q b q 0x10#32) b q

/-- A header refused (R246): order 4 raises RANGE, every other refusal HDR_REFUSED. -/
def refuseHdr (s : State) (b q : Nat) (st : Status) : State :=
  let s1 := raiseI (bump s (R.qCount 5) b q 1) E.q b q (if st = .lengthRange then 4#32 else 8#32)
  answer s1 st []

/-- The first failing check of R246. -/
def hdrCheck (s : State) (b q : Nat) (src : Producer) (hdr : W64) : Status :=
  if !qOn s b q then .state
  else if !ownSrc s b q src then .notPermitted
  else if fld hdr 23 16 ≠ 0 then .badParam
  else if qWords s b q < fld hdr 15 0 + 1 then .lengthRange
  else .ok

/-- A header has room now (R246, R253). -/
def hdrFits (s : State) (b q : Nat) (hdr : W64) : Bool :=
  let n := fld hdr 15 0 + 1
  decide ((queueOf s b q).occ + n + padFor s b q n ≤ qWords s b q)

/-- A header passes the checks of R246 and must wait (R247, R253): for a producer that can be held, where there is no room, in
XOFF, and behind a header that waits already. -/
def mustHold (s : State) (b q : Nat) (src : Producer) (hdr : W64) : Bool :=
  (match src with | .mac _ => false | _ => true) && decide (hdrCheck s b q src hdr = .ok) &&
  !(hdrFits s b q hdr && !qXoff s b q && (queueOf s b q).held.isEmpty)

/-- A header enters whose parity is right (R246, R247): accepted, refused, or its frame dropped. -/
def takeHdr (s : State) (b q : Nat) (src : Producer) (hdr : W64) : State :=
  match hdrCheck s b q src hdr with
  | .ok => if hdrFits s b q hdr then acceptHdr s b q hdr else answer (raiseI (bump s (R.qCount 4) b q 1) E.q b q 0x40#32) .noResource []
  | st => refuseHdr s b q st

/-- `Q_HDR_WRITE` (R243, R246, R247, R250): the producer's open packet is truncated first. A header that must wait enters, with
its entry check, when it is accepted: `readStat` shows `BUSY` meanwhile; `fab` where it came over the fabric, whose NI waits for
the answer.
DEDUCED, safe: log entry 76. -/
def hdrWrite (s : State) (b q : Nat) (src : Producer) (hdr : W64) (bad : Bool) (fab : Bool := false) : State :=
  if !benchHere s.variant b then absent s
  else
    let s0 := if ownSrc s b q src then truncate s b q else s
    if !bad && mustHold s0 b q src hdr then
      syncQStat (answer (putQueue s0 b q { queueOf s0 b q with held := (queueOf s0 b q).held ++ [(hdr, fab)] }) .busy []) b q
    else
      let (s1, fails) := entryCheck s0 b q bad
      if fails then answer s1 .integrity [] else takeHdr s1 b q src hdr

def execQHdrWrite (b : Fin 16) (q : Fin 64) (src : Producer) (hdr : BitVec 64) (parityBad : Bool) (s : State) :
    Host.Outcome State Fault Refusal :=
  .next (hdrWrite s b.val q.val src hdr parityBad)

/-- A payload word (R250): it extends the open packet of the queue's own producer, or is an orphan. -/
def pushWord (s : State) (b q : Nat) (src : Producer) (w : MWord) (bad : Bool) : State :=
  if !benchHere s.variant b then s else
  let (s1, fails) := entryCheck s b q bad
  let x := queueOf s1 b q
  match openPkt x with
  | none => raiseI (bump s1 (R.qCount 5) b q 1) E.q b q 0x80#32
  | some p =>
    if !qOn s1 b q || !ownSrc s1 b q src then raiseI (bump s1 (R.qCount 5) b q 1) E.q b q 0x80#32
    else
      let o := (p.start + 1 + p.got) % qWords s1 b q
      let poison := fails || w.2
      let s2 := writeWord s1 (qAddr s1 b q o) (w.1, poison)
      let s3 := putQueue s2 b q { x with last := tickNow s, pkts := modLast x.pkts fun r => { r with got := r.got + 1, poison := r.poison || poison } }
      syncQStat (wr (bump s3 (R.qCount 1) b q 1) R.qWrptr b q (w32 ((o + 1) % qWords s1 b q))) b q

/-- `Q_PUSH_WORD` (R250). -/
def execQPushWord (b : Fin 16) (q : Fin 64) (src : Producer) (word : TWord) (parityBad : Bool) (s : State) :
    Host.Outcome State Fault Refusal :=
  .next (pushWord s b.val q.val src word parityBad)

/-- An ABORT from a source (R250). -/
def abortPkt (s : State) (b q : Nat) (src : Producer) : State :=
  if qOn s b q && ownSrc s b q src then truncate s b q else s

/-- `Q_ABORT_WRITE` (R250). -/
def execQAbortWrite (b : Fin 16) (q : Fin 64) (src : Producer) (s : State) : Host.Outcome State Fault Refusal :=
  .next (abortPkt s b.val q.val src)

/-- PKT_TMO tick boundaries have passed with no payload word, and the tick in which the last of them fell is over, since a word
in that tick would win (R250, R252). -/
def pktStale (s : State) (b q : Nat) : Bool :=
  let t := rdF s R.qCfg b q 23 16
  decide (t ≠ 0) && decide ((queueOf s b q).last + t < tickNow s)

/-- `Q_PKT_TIMEOUT` (R250). -/
def execQPktTimeout (b : Fin 16) (q : Fin 64) (s : State) : Host.Outcome State Fault Refusal :=
  .next (if pktStale s b.val q.val then truncate s b.val q.val else s)

/-- A packet is startable: its cut-through threshold has arrived (R249). -/
def startable (s : State) (b q : Nat) (p : QPkt) : Bool :=
  let ct := (rd s R.qCt b q).toNat
  decide ((if ct = 0 then p.len else Nat.min ct p.len) ≤ p.got)

/-- Words that a PORT consumer may pop now, in packet order; the first packet not wholly available ends them. -/
def popAvail (s : State) (b q : Nat) : List QPkt → Nat
  | [] => 0
  | p :: ps =>
    if p.popped = 0 ∧ !startable s b q p then 0
    else
      let n := p.got + 1 - p.popped
      if p.got = p.len then n + popAvail s b q ps else n

/-- Pop one word, its delivery check failing where `bad` says so (R244, R251). -/
def popOne (s : State) (b q : Nat) (bad : Bool) : State × MWord :=
  let x := queueOf s b q
  match x.pkts with
  | [] => (s, cleanW 0)
  | p :: ps =>
    let o := (p.start + p.popped) % qWords s b q
    let (s1, w) := readWord s (qAddr s b q o)
    let s2 := if bad then raiseI (bump s1 (R.qCount 3) b q 1) E.q b q 0x20#32 else s1
    let poison := bad || w.2
    let p' := { p with popped := p.popped + 1, poison := p.poison || poison }
    let full := decide (p'.popped = p.len + 1)
    let s3 := putQueue s2 b q { x with pkts := if full then ps else p' :: ps }
    let s4 := wr s3 R.qRdptr b q (w32 ((o + 1) % qWords s b q))
    let s5 := if full then wr s4 R.qRdstat b q (packF [(0, p.len), (16, b2n p.trunc), (17, b2n p'.poison)]) else s4
    let freed := 1 + (if p.popped = 0 then p.pad else 0)
    (setOcc s5 b q (x.occ - freed), if poison then poisonW else w)

/-- Pop n words; the k-th fails its delivery check where k is listed. -/
def popMany (s : State) (b q : Nat) (bad : List Nat) (k : Nat) : Nat → State × List MWord
  | 0 => (s, [])
  | n + 1 =>
    let (s1, w) := popOne s b q (bad.contains k)
    let (s2, ws) := popMany s1 b q bad (k + 1) n
    (s2, w :: ws)

/-- `Q_POP_READ` (R249, R257). -/
def popRead (s : State) (b q n : Nat) (bad : List Nat) : State :=
  if !benchHere s.variant b then absent s
  else if !qOn s b q || qInplace s b q then answer s .state []
  else if popAvail s b q (queueOf s b q).pkts < n then answer s .busy []
  else
    let (s1, ws) := popMany s b q bad 0 n
    answer s1 .ok ws

def execQPopRead (b : Fin 16) (q : Fin 64) (n : Fin 257) (parityBad : List Nat) (s : State) : Host.Outcome State Fault Refusal :=
  .next (popRead s b.val q.val n.val parityBad)

/-- Release the oldest complete packet of an INPLACE queue (R251). -/
def releaseOne (s : State) (b q : Nat) : State :=
  let x := queueOf s b q
  match x.pkts with
  | [] => s
  | p :: ps =>
    if p.got < p.len then s else
    let s1 := putQueue s b q { x with pkts := ps }
    let s2 := wr s1 R.qRdptr b q (w32 ((p.start + p.len + 1) % qWords s b q))
    let s3 := wr s2 R.qRdstat b q (packF [(0, p.len), (16, b2n p.trunc), (17, b2n p.poison)])
    setOcc s3 b q (x.occ - (p.len + 1 + p.pad))

/-- Release n packets, or as many as are complete (R251). -/
def releaseN (s : State) (b q : Nat) : Nat → State
  | 0 => s
  | n + 1 => releaseN (releaseOne s b q) b q n

/-- `Q_RELEASE_WRITE` (R251): ignored in PORT mode. -/
def releaseWrite (s : State) (b q n : Nat) : State :=
  if benchHere s.variant b && qInplace s b q then releaseN s b q (Nat.min n (queueOf s b q).pkts.length) else s

def execQReleaseWrite (b : Fin 16) (q : Fin 64) (n : Fin 65536) (s : State) : Host.Outcome State Fault Refusal :=
  .next (releaseWrite s b.val q.val n.val)

/-- The requests that wrote the oldest n of the headers that queue k holds over the fabric. -/
def heldFirst (l : List (Nat × FPkt)) (k n : Nat) : List (Nat × FPkt) := (l.filter fun e => decide (e.1 = k)).take n

/-- The oldest header that queue q holds is released with a status (R243, R247): who wrote it over the fabric is answered. -/
def heldRelease (s : State) (b q : Nat) (st : Status) : State :=
  let k := 64 * b + q
  let x := queueOf s b q
  let l := if (x.held.head?.map fun h => h.2) = some true then heldFirst s.fab.heldReq k 1 else []
  let s1 := { s with fab := { s.fab with
    heldReq := l.foldl (fun a e => removeFirst (fun y => decide (y = e)) a) s.fab.heldReq,
    heldAns := s.fab.heldAns ++ l.map fun e => (e.2, st) } }
  answer (putQueue s1 b q { x with held := x.held.drop 1 }) st []

/-- Every header that queue q holds is released with a status. -/
def heldReleaseAll (s : State) (b q : Nat) (st : Status) : State :=
  (queueOf s b q).held.foldl (fun t _ => heldRelease t b q st) s

/-- The oldest held header can be taken: the space is free and XOFF has ended; it then enters with its entry check (R243, R247),
after the truncation of a packet that is still open (R250). -/
def heldAccept (s : State) (b q : Nat) : State :=
  match (queueOf s b q).held with
  | [] => s
  | h :: _ =>
    if !hdrFits s b q h.1 || qXoff s b q then s
    else
      let (s1, fails) := entryCheck (truncate s b q) b q false
      if fails then syncQStat (heldRelease s1 b q .integrity) b q
      else acceptHdr (heldRelease s1 b q .ok) b q h.1

/-- Empty a queue as FLUSH does (R252, R256): words abandoned, pointers at the base. A header held is answered `STATE`.
DEDUCED, safe: log entry 77. -/
def emptyQueue (s : State) (b q : Nat) : State :=
  let x := queueOf s b q
  let s1 := heldReleaseAll s b q .state
  let s2 := putQueue s1 b q { Queue.reset with occ := x.occ }
  setOcc (wr (wr s2 R.qRdptr b q 0) R.qWrptr b q 0) b q 0

/-- A write of FLUSH (R256): ignored while the queue is enabled. -/
def flushQueue (s : State) (b q : Nat) : State :=
  if benchHere s.variant b && !qOn s b q then emptyQueue s b q else s

def execQFlush (b : Fin 16) (q : Fin 64) (s : State) : Host.Outcome State Fault Refusal := .next (flushQueue s b.val q.val)

/-- `Q_XCNT_READ` (R255): the count is returned and cleared. -/
def xcntRead (s : State) (b q : Nat) : State :=
  if benchHere s.variant b then answer (wr s R.qXcnt b q 0) .ok [cleanW (rd s R.qXcnt b q).toNat] else absent s

def execQXcntRead (b : Fin 16) (q : Fin 64) (s : State) : Host.Outcome State Fault Refusal := .next (xcntRead s b.val q.val)

/-- A writer may write an injection register (R571): code at privilege F of the management processor does; no register path
lets the host inject, which acts through `DET_INJECT`, and an Awl core raises only its own detectors. -/
def mayInject (_ : State) (w : Writer) : Bool := decide (w = .mp)

/-- `Q_INJ_ARM` (R256). -/
def execQInjArm (w : Writer) (b : Fin 16) (q : Fin 64) (skip : Fin 65536) (s : State) : Host.Outcome State Fault Refusal :=
  .next (if benchHere s.variant b.val && mayInject s w then wr s R.qInj b.val q.val (packF [(0, 1), (1, skip.val)]) else s)

/-- Truncate the open packet of every queue whose producer p selects (R250). -/
def truncProducers (s : State) (p : Nat → Nat → Bool) : State :=
  (s.queues.map fun e => e.1).foldl (fun a k =>
    let b := k / 64
    let q := k % 64
    if p (rdF a R.qProd b q 2 0) (rdF a R.qProd b q 15 8) then truncate a b q else a) s

/-- `FC_OUT[k]` (R254): some queue that names the pin is in XOFF. -/
def fcOut (s : State) (k : Nat) : Bool := s.queues.any fun e =>
  let b := e.1 / 64
  let q := e.1 % 64
  qXoff s b q && decide (rdF s R.qCfg b q 4 3 = 1) && decide (rdF s R.qCfg b q 7 5 = k)

/-! ## HBM (R260–R263) -/

/-- The address lies in a present stack. -/
def hbmHere (s : State) (a : Nat) : Bool := decide (a < 0x800000000) && stackHere s.variant (a / 0x400000000)

/-- A burst of n words that the stack reports uncorrectable on the die: every word poisoned and rewritten (R260). -/
def ondieBurst (s : State) (a n : Nat) : State :=
  raise (poisonWords s a n) E.hbm (a / 0x400000000) 3

/-- `HBM_READ` (R260): n words from address a, with the stack's own corrections and uncorrectable report. -/
def execHbmRead (a : Fin 34359738368) (n : Fin 33) (ondieCe : Nat) (ondieUe : Bool) (s : State) : Host.Outcome State Fault Refusal :=
  .next (
    let base := a.val / 8 * 8
    if !hbmHere s base then answer s .notPresent (List.replicate n.val poisonW)
    else
      let hit (e : Nat × Nat × Nat × Nat) : Bool := decide (e.1 = 4) && decide (base ≤ e.2.2.2) && decide (e.2.2.2 < base + 8 * n.val)
      let armed := s.det.armed.any hit
      let s0 := { s with det := { s.det with armed := s.det.armed.filter fun e => !hit e } }
      let s1 := bump s0 R.hbmCount (base / 0x400000000) 3 ondieCe
      if ondieUe || armed then answer (ondieBurst s1 base n.val) .ok (List.replicate n.val poisonW)
      else
        let (s2, ws) := readWords s1 base n.val
        answer s2 .ok ws)

/-- The end of the stack an address lies in. -/
def hbmEnd (a : Nat) : Nat := 0x400000000 * (a / 0x400000000 + 1)

/-- `HBM_WRITE` (R260, R57). -/
def execHbmWrite (a : Fin 34359738368) (data : List Byte) (poison : Bool) (s : State) : Host.Outcome State Fault Refusal :=
  .next (if !hbmHere s a.val then answer s .notPresent []
    else answer (portWrite (mendLines s a.val (Nat.min data.length (hbmEnd a.val - a.val))) a.val (hbmEnd a.val) data poison) .ok [])

/-- A byte address lies in a region of a kind. -/
def inRegion (s : State) (kind a : Nat) : Bool := s.hbmPart.any fun r =>
  decide (r.kind = kind) && decide (0x200000 * r.base ≤ a) && decide (a < 0x200000 * (r.base + r.size))

/-- A range of n bytes lies wholly within one region of a kind. -/
def withinRegion (s : State) (kind a n : Nat) : Bool := s.hbmPart.any fun r =>
  decide (r.kind = kind) && decide (0x200000 * r.base ≤ a) && decide (a + n ≤ 0x200000 * (r.base + r.size))

/-- The bytes of a BAR2 write, split into runs that lie in one 2 MiB unit. -/
def bar2Runs : Nat → Nat → List Byte → List (Nat × List Byte)
  | 0, _, _ => []
  | _, _, [] => []
  | f + 1, a, bs =>
    let k := 0x200000 - a % 0x200000
    (a, bs.take k) :: bar2Runs f (a + k) (bs.drop k)

/-- A BAR2 write (R263): the bytes in PATTERN regions are discarded. -/
def bar2Write (s : State) (a : Nat) (data : List Byte) (poison : Bool) : State :=
  if !hbmHere s a then s else
  let runs := bar2Runs (data.length / 0x200000 + 2) a (data.take (hbmEnd a - a))
  let drop := runs.any fun r => inRegion s 4 r.1
  let s1 := runs.foldl (fun t r => if inRegion s 4 r.1 then t else portWrite (mendLines t r.1 r.2.length) r.1 (hbmEnd a) r.2 poison) s
  if drop then bump (raise s1 E.hbm (a / 0x400000000) 4) R.hbmCount (a / 0x400000000) 5 1 else s1


/-- `HBM_SCRUB` (R261): one word. -/
def execHbmScrub (a : Fin 34359738368) (s : State) : Host.Outcome State Fault Refusal :=
  .next (if !hbmHere s a.val ∨ rdF s R.hbmCfg (a.val / 0x400000000) 0 7 0 = 0 then s else (readWord s (a.val / 8 * 8) true).1)

/-! ## QUEUE_CONFIG, QUEUE_STATUS and HBM_PARTITION (R264–R266) -/

/-- The registers of a queue as a `QUEUE_CONFIG` carries them, words 3–10. -/
def qcWord (ps : List W32) (k : Nat) : W32 := nth ps (3 + k) 0#32

def qcBench (ps : List W32) : Nat := fld (nth ps 0 0#32) 3 0
def qcQueue (ps : List W32) : Nat := fld (nth ps 0 0#32) 9 4
def qcFlush (ps : List W32) : Bool := bit (nth ps 0 0#32) 10

/-- The configuration words break R240, R241, R249, R253 or R254. -/
def qcRange (ps : List W32) : Bool :=
  let cfg := qcWord ps 0
  let base := fld (qcWord ps 1) 22 12
  let size := fld (qcWord ps 2) 8 0
  let kind := fld (qcWord ps 3) 2 0
  let id := fld (qcWord ps 3) 15 8
  let hi := (qcWord ps 4).toNat
  let lo := (qcWord ps 5).toNat
  let words := size * 512
  decide (fld cfg 4 3 = 3) || (decide (fld cfg 4 3 = 2) && decide (kind ≠ 2)) ||
  decide (size = 0) || decide (256 < size) || decide (2048 < base + size) ||
  decide (5 ≤ kind) || (bit cfg 0 && decide (kind = 0)) ||
  (match kind with
   | 0 => decide (id ≠ 0) | 1 => decide (40 ≤ id) | 2 => decide (128 ≤ id) | 3 => decide (32 ≤ id) | _ => decide (id ≠ 0)) ||
  (if hi = 0 then decide (lo ≠ 0) else decide (hi ≤ lo) || decide (words < hi)) ||
  decide (words < (qcWord ps 7).toNat + 1)

/-- The regions of two queues overlap. -/
def qOverlap (b1 s1 b2 s2 : Nat) : Bool := decide (b1 < b2 + s2) && decide (b2 < b1 + s1)

/-- The staged configurations of a queue for boundaries up to b, in boundary order. -/
def qStaged (s : State) (ps : List W32) (b : Nat) : List (List W32) :=
  let all := s.pn.commits.flatMap fun c =>
    if c.opcode = 0x0111 then [(c.bnd, c.params)]
    else (c.inner.filter fun i => decide (i.opcode = 0x0111)).map fun i => (c.bnd, i.params)
  let mine := all.filter fun e => decide (qcBench e.2 = qcBench ps) && decide (qcQueue e.2 = qcQueue ps) && decide (e.1 ≤ b)
  (sortBy (fun x y => decide (x.1 < y.1)) mine).map fun e => e.2

/-- EN, BASE and SIZE of a queue as they will stand at a boundary. -/
def qAtB (s : State) (bench q b : Nat) : Bool × Nat × Nat :=
  let ps := [w32 (bench + 16 * q)]
  match (qStaged s ps b).getLast? with
  | some c => (bit (qcWord c 0) 0, fld (qcWord c 1) 22 12, fld (qcWord c 2) 8 0)
  | none => (qOn s bench q, rdF s R.qBase bench q 22 12, rdF s R.qSize bench q 8 0)

/-- The new region overlaps a queue of the bench that is enabled at the boundary. -/
def qcOverlaps (s : State) (ps : List W32) (b : Nat) : Bool :=
  bit (qcWord ps 0) 0 && (List.range 64).any fun k =>
    let (on, bs, sz) := qAtB s (qcBench ps) k b
    decide (k ≠ qcQueue ps) && on && qOverlap (fld (qcWord ps 1) 22 12) (fld (qcWord ps 2) 8 0) bs sz

/-- Another commit for the same queue is pending for the same boundary. -/
def qcTwice (s : State) (ps : List W32) (b : Nat) : Bool := s.pn.commits.any fun c =>
  decide (c.bnd = b) && ((if c.opcode = 0x0111 then [c.params] else (c.inner.filter fun i => decide (i.opcode = 0x0111)).map fun i => i.params).any
    fun p => decide (qcBench p = qcBench ps) && decide (qcQueue p = qcQueue ps))

/-- BASE, SIZE, MODE, CONTIG and Q_PROD of a configuration. -/
def qcGeom (cfg base size prod : W32) : List Nat :=
  [fld base 22 12, fld size 8 0, fld cfg 2 1, prod.toNat]

/-- The queue is enabled at the boundary and its geometry or producer would change. -/
def qcLive (s : State) (ps : List W32) (b : Nat) : Bool :=
  let bench := qcBench ps
  let q := qcQueue ps
  let new := qcGeom (qcWord ps 0) (qcWord ps 1) (qcWord ps 2) (qcWord ps 3)
  match (qStaged s ps b).getLast? with
  | some c => bit (qcWord c 0) 0 && decide (qcGeom (qcWord c 0) (qcWord c 1) (qcWord c 2) (qcWord c 3) ≠ new)
  | none => qOn s bench q &&
      decide (qcGeom (rd s R.qCfg bench q) (rd s R.qBase bench q) (rd s R.qSize bench q) (rd s R.qProd bench q) ≠ new)

/-- The checks of `QUEUE_CONFIG` before the boundary test (R264). -/
def queueConfigCheck (s : State) (ps : List W32) : Status :=
  let masks : List W32 := [0x7FF#32, 0xFFFFFFFF#32, 0xFFFFFFFF#32, 0x00FF0FFF#32, 0x007FF000#32, 0x1FF#32, 0xFF07#32,
    0x3FFFF#32, 0x3FFFF#32, 0x3FFFF#32, 0x3FFFF#32]
  let b0 := nth ps 1 0#32
  let b1 := nth ps 2 0#32
  let b := boundary b0 b1
  if !wellFormed ps masks || qcRange ps || bndFault s b0 b1 || (qcFlush ps && bit (qcWord ps 0) 0) then .badParam
  else if benchHere s.variant (qcBench ps) && qcOverlaps s ps b then .badParam
  else if !benchHere s.variant (qcBench ps) ||
      (decide (fld (qcWord ps 3) 2 0 = 2) && !laneHere s.variant (2 * fld (qcWord ps 3) 15 8)) then .notPresent
  else if qcLive s ps b || qcTwice s ps b || stepBars s b then .state
  else .ok

/-- Where a queue's XOFF goes: FCSEL, FCIDX and the producer (R254). -/
def qcPause (cfg prod : W32) : List Nat := [fld cfg 7 3, prod.toNat]

/-- A `QUEUE_CONFIG` takes effect (R264). Where BASE, SIZE, MODE, CONTIG or Q_PROD change, the queue is emptied as FLUSH empties it;
one that holds no word thereby only has its pointers at the base (R240). A queue in XOFF whose FCSEL, FCIDX or producer changes
resumes what it paused by the old ones, and pauses by the new ones if it stays in XOFF (DEDUCED, safe: log entry 164).
DEDUCED, safe: log entry 113. -/
def queueConfigApply (s : State) (ps : List W32) : State :=
  let b := qcBench ps
  let q := qcQueue ps
  let old := qcGeom (rd s R.qCfg b q) (rd s R.qBase b q) (rd s R.qSize b q) (rd s R.qProd b q)
  let geom := decide (old ≠ qcGeom (qcWord ps 0) (qcWord ps 1) (qcWord ps 2) (qcWord ps 3))
  let empty := qcFlush ps || geom
  let moved := qXoff s b q && decide (qcPause (rd s R.qCfg b q) (rd s R.qProd b q) ≠ qcPause (qcWord ps 0) (qcWord ps 3))
  let s0 := if moved then pfcXoff s b q false else s
  let s1 := wr (wr (wr (wr s0 R.qCfg b q (qcWord ps 0)) R.qBase b q (qcWord ps 1)) R.qSize b q (qcWord ps 2)) R.qProd b q (qcWord ps 3)
  let s2 := wr (wr (wr (wr s1 R.qHi b q (qcWord ps 4)) R.qLo b q (qcWord ps 5)) R.qLevel b q (qcWord ps 6)) R.qCt b q (qcWord ps 7)
  let s3 := if !bit (qcWord ps 0) 0 then heldReleaseAll s2 b q .state else s2
  let s4 := if empty then emptyQueue s3 b q else s3
  syncQStat (if moved && qXoff s4 b q then pfcXoff s4 b q true else s4) b q

/-- `QUEUE_STATUS` (R265). -/
def queueStatus (p : Req) (s : State) : Done :=
  let b := fld (par p 0) 3 0
  let q := fld (par p 0) 9 4
  if !wellFormed p.params [0x3FF#32] then done s .badParam
  else if !benchHere s.variant b then done s .notPresent
  else doneW s [rd s R.qStat b q, w32 (queueOf s b q).occ, rd s R.qEvt b q, rd s R.qXcnt b q, rd s R.qRdptr b q, rd s R.qWrptr b q]

/-- The regions that an `HBM_PARTITION` carries. -/
def hpRegions (ps : List W32) : Nat → Nat → List Region
  | 0, _ => []
  | n + 1, k => { base := (nth ps k 0#32).toNat, size := (nth ps (k + 1) 0#32).toNat, kind := (nth ps (k + 2) 0#32).toNat } :: hpRegions ps n (k + 3)

def regionsOf (ps : List W32) : List Region := hpRegions ps (fld (nth ps 0 0#32) 3 0) 3

/-- Two regions of a list overlap. -/
def regionsClash : List Region → Bool
  | [] => false
  | r :: rs => (rs.any fun t => decide (r.base < t.base + t.size) && decide (t.base < r.base + r.size)) || regionsClash rs

/-- A region of a list covers a range of bytes. -/
def coveredBy (l : List Region) (kind a n : Nat) : Bool := l.any fun r =>
  decide (r.kind = kind) && decide (0x200000 * r.base ≤ a) && decide (a + n ≤ 0x200000 * (r.base + r.size))

/-- Enabled slot-request rings, as base and bytes. -/
def liveRings (s : State) : List (Nat × Nat) := (List.range 64).filterMap fun r =>
  if rdB s R.srCfg r 0 5 then some (pair64 (rd s R.srBaseLo r) (rd s R.srBaseHi r), 16 * 2 ^ rdF s R.srCfg r 0 4 0) else none

/-- Live device data that the new table would no longer cover: rings, pattern overflow, jitter buffers (R266); `jit` lists
the jitter buffers in use. -/
def partLoses (s : State) (jit : List (Nat × Nat)) (l : List Region) : Bool :=
  ((liveRings s).any fun r => !coveredBy l 3 r.1 r.2) ||
  (s.cord.pats.any fun e => e.2.inHbm && !coveredBy l 4 e.2.place e.2.bytes) ||
  (jit.any fun j => !coveredBy l 2 j.1 j.2)

/-- The checks of `HBM_PARTITION` before the boundary test (R266). -/
def hbmPartitionCheck (s : State) (jit : List (Nat × Nat)) (ps : List W32) : Status :=
  let n := fld (nth ps 0 0#32) 3 0
  let l := regionsOf ps
  let b0 := nth ps 1 0#32
  let b1 := nth ps 2 0#32
  if 8 < n then .lengthRange
  else if ps.length ≠ 3 + 3 * n || !onlyBits (nth ps 0 0#32) 0xF#32 || bndFault s b0 b1 ||
      (l.any fun r => decide (r.size = 0) || decide (0x4000 ≤ r.base) || decide (0x4000 ≤ r.size) || decide (r.kind = 0) ||
        decide (5 < r.kind) || decide (0x4000 < r.base + r.size)) || regionsClash l then .badParam
  else if l.any fun r => decide (0x2000 * stackCount s.variant < r.base + r.size) then .notPresent
  else if partLoses s jit l || stepBars s (boundary b0 b1) then .state
  else .ok

/-- An `HBM_PARTITION` takes effect. -/
def hbmPartitionApply (s : State) (ps : List W32) : State := { s with hbmPart := regionsOf ps }

end Sys2Proof.Machine
end

