-- ==== Sys2Proof/Machine/AwlS.lean ====
section
/-! DEFINITION. What the S slot computes: scalar and pointer arithmetic, branches, CSRs, loops and control (R77, R81, R82,
R99–R102, R105, R110–R112, R115). -/

namespace Sys2Proof.Machine

/-! ## Cores -/

def coreOf (s : State) (b c : Nat) : Core := (assoc s.cores (8 * b + c)).getD Core.reset

def putCore (s : State) (b c : Nat) (x : Core) : State :=
  { s with cores := putKey s.cores (8 * b + c) (if x = Core.reset then none else some x) }

/-- `IPEND` with its live bits (CSR 0x00E, R256). -/
def ipendOf (s : State) (b n : Nat) (c : Core) : W32 :=
  let q := (List.range 64).any fun k => rdB s R.qCfg b k 8 && decide (rdF s R.qCfg b k 11 9 = n) &&
    decide (rd s R.qEvt b k &&& rd s R.qEvtEn b k ≠ 0#32)
  setBit (setBit c.ipend 2 q) 4 c.dbgReq

/-! ## CSRs (R81, R82) -/

/-- The lowest privilege that may read a CSR and that may write it: 0 F, 1 K, 2 T; no write level where writes are ignored. -/
def csrLevels (n : Nat) : Option (Nat × Option Nat) :=
  match n with
  | 0x000 | 0x001 | 0x012 => some (2, some 1)
  | 0x002 | 0x014 | 0x015 | 0x016 | 0x018 | 0x019 => some (2, none)
  | 0x003 | 0x005 | 0x010 | 0x011 => some (2, some 2)
  | 0x004 => some (2, some 0)
  | 0x006 | 0x007 | 0x008 | 0x00B | 0x00D | 0x00E | 0x00F | 0x013 | 0x01A | 0x01B => some (1, some 1)
  | 0x009 | 0x00A => some (1, none)
  | 0x00C => some (0, some 0)
  | _ => if 0x020 ≤ n ∧ n ≤ 0x037 then some (2, some 2) else none

/-- The value of a CSR. -/
def csrRead (s : State) (b m : Nat) (c : Core) (n : Nat) : W32 :=
  match n with
  | 0x000 => c.coreCfg | 0x001 => c.corePm | 0x002 => packF [(0, 512), (16, c.tail)] | 0x003 => c.veix | 0x004 => c.eyeEn
  | 0x005 => c.status | 0x006 => c.estatus | 0x007 => c.cause | 0x008 => c.epc | 0x009 => c.badaddr | 0x00A => c.holdPc
  | 0x00B => c.evec | 0x00C => c.fvec | 0x00D => c.ien | 0x00E => ipendOf s b m c | 0x00F => c.wdog | 0x010 => c.pmode0
  | 0x011 => c.pmode1 | 0x012 => c.klim | 0x013 => c.tickcmp | 0x014 => c.taskPc | 0x015 => c.taskParam | 0x016 => c.taskId
  | 0x018 => lo32 c.cycle.toNat | 0x019 => hi32 c.cycle.toNat | 0x01A => c.kscr0 | 0x01B => c.kscr1
  | 0x030 => c.lc0 | 0x031 => c.lc1 | 0x032 => c.ls0 | 0x033 => c.le0 | 0x034 => c.ls1 | 0x035 => c.le1 | 0x036 => c.rrb | 0x037 => c.lstg
  | _ => if 0x020 ≤ n ∧ n < 0x028 then nth c.cbb (n - 0x020) 0 else if 0x028 ≤ n ∧ n < 0x030 then nth c.cbl (n - 0x028) 0 else 0

/-- The bits of a CSR that a write sets and clears, at a privilege, and those that writing 1 clears. -/
def csrMasks (n pl : Nat) : W32 × W32 :=
  match n with
  | 0x000 | 0x001 => (3, 0)
  | 0x003 => (0x7F, 0)
  | 0x004 => (0x001F1F1F, 0)
  | 0x005 => (if pl = 2 then 0x2000 else 0x3000, 0xFFF)
  | 0x006 => (0x0007FFFF, 0)
  | 0x007 => (0xFFF, 0)
  | 0x008 | 0x032 | 0x033 | 0x034 | 0x035 => (0xFFFFFFF0, 0)
  | 0x00B | 0x00C => (0xFFFFFF00, 0)
  | 0x00D => (0x1F, 0)
  | 0x00E => (0, 0x0B)
  | 0x00F => (0x00FFFFFF, 0)
  | 0x012 | 0x037 => (0xFF, 0)
  | 0x036 => (0xF, 0)
  | _ => if 0x020 ≤ n ∧ n < 0x028 then (0xFFFFFFFC, 0) else if 0x028 ≤ n ∧ n < 0x030 then (0x00FFFFFC, 0) else (0xFFFFFFFF, 0)

/-- A value leaves a reserved encoding in a field of a CSR. -/
def csrBad (n : Nat) (v : W32) : Bool :=
  match n with
  | 0x001 => decide (2 ≤ fld v 1 0)
  | 0x006 => decide (fld v 18 17 = 3)
  | 0x012 => decide (128 < fld v 7 0)
  | _ => false

/-- Store a CSR's value. -/
def csrPut (c : Core) (n : Nat) (v : W32) : Core :=
  match n with
  | 0x000 => { c with coreCfg := v } | 0x001 => { c with corePm := v } | 0x003 => { c with veix := v } | 0x004 => { c with eyeEn := v }
  | 0x005 => { c with status := v } | 0x006 => { c with estatus := v } | 0x007 => { c with cause := v } | 0x008 => { c with epc := v }
  | 0x00B => { c with evec := v } | 0x00C => { c with fvec := v } | 0x00D => { c with ien := v } | 0x00E => { c with ipend := v }
  | 0x00F => { c with wdog := v, wdFirst := false } | 0x010 => { c with pmode0 := v } | 0x011 => { c with pmode1 := v }
  | 0x012 => { c with klim := v } | 0x013 => { c with tickcmp := v } | 0x01A => { c with kscr0 := v } | 0x01B => { c with kscr1 := v }
  | 0x030 => { c with lc0 := v } | 0x031 => { c with lc1 := v } | 0x032 => { c with ls0 := v } | 0x033 => { c with le0 := v }
  | 0x034 => { c with ls1 := v } | 0x035 => { c with le1 := v } | 0x036 => { c with rrb := v } | 0x037 => { c with lstg := v }
  | _ =>
    if 0x020 ≤ n ∧ n < 0x028 then { c with cbb := setNth c.cbb (n - 0x020) v }
    else if 0x028 ≤ n ∧ n < 0x030 then { c with cbl := setNth c.cbl (n - 0x028) v } else c

/-- A CSR's value after CSRW, CSRS or CSRC with an operand: CSRW writes every bit, CSRS writes 1 to the bits named, CSRC
writes 0 to them.
DEDUCED, unsafe: log entry 54. -/
def csrNew (f : SFn) (n pl : Nat) (old x : W32) : W32 :=
  let (rw, w1c) := csrMasks n pl
  match f with
  | .csrw => ((old &&& ~~~rw) ||| (x &&& rw)) &&& ~~~(x &&& w1c)
  | .csrs => (old ||| (x &&& rw)) &&& ~~~(x &&& w1c)
  | _ => old &&& ~~~(x &&& rw)

/-! ## Scalar arithmetic (R115) -/

/-- The result of a scalar operation on two words. -/
def aluOf (f : SFn) (a b : W32) (imm : Int) : W32 :=
  let x := a.toInt
  let y := b.toInt
  let sh := b.toNat % 32
  let n := imm.toNat % 32
  let i : W32 := BitVec.ofInt 32 imm
  match f with
  | .add => a + b | .sub => a - b | .and_ => a &&& b | .or_ => a ||| b | .xor_ => a ^^^ b
  | .sll => a <<< sh | .srl => a >>> sh | .sra => a.sshiftRight sh
  | .slt => if x < y then 1 else 0
  | .sltu => if a.toNat < b.toNat then 1 else 0
  | .min_ => if x < y then a else b
  | .max_ => if x < y then b else a
  | .minu => if a.toNat < b.toNat then a else b
  | .maxu => if a.toNat < b.toNat then b else a
  | .adds => BitVec.ofInt 32 (satS 32 (x + y))
  | .subs => BitVec.ofInt 32 (satS 32 (x - y))
  | .abs_ => BitVec.ofInt 32 (satS 32 (x.natAbs : Int))
  | .clz => if a = 0#32 then 32 else w32 (31 - Nat.log2 a.toNat)
  | .cls => let u := if x < 0 then (~~~a).toNat else a.toNat; if u = 0 then 31 else w32 (30 - Nat.log2 u)
  | .mul => a * b
  | .mulh => BitVec.ofInt 32 (x * y / 2 ^ 32)
  | .mulhu => BitVec.ofNat 32 (a.toNat * b.toNat / 2 ^ 32)
  | .addi => a + i | .andi => a &&& i | .ori => a ||| i | .xori => a ^^^ i
  | .slli => a <<< n | .srli => a >>> n | .srai => a.sshiftRight n
  | .rori => if n = 0 then a else (a >>> n) ||| (a <<< (32 - n))
  | .slti => if x < imm then 1 else 0
  | .lui => i <<< 16
  | _ => 0

/-- Latency of a scalar result (R72). -/
def aluLat (f : SFn) : Nat := if f = .mul ∨ f = .mulh ∨ f = .mulhu then 2 else 1

/-- Whether a branch is taken (R115).
DEDUCED, unsafe: log entry 51. -/
def branchTaken (c : Core) (i : SIns) : Bool :=
  let a := c.rs i.a
  let b := c.rs i.b
  let any := (List.range 64).any fun e => (c.rk i.a).getLsbD e && decide (e < c.vl)
  match i.fn with
  | .beq => decide (a = b) | .bne => decide (a ≠ b) | .blt => decide (a.toInt < b.toInt) | .bge => decide (b.toInt ≤ a.toInt)
  | .bltu => decide (a.toNat < b.toNat) | .bgeu => decide (b.toNat ≤ a.toNat)
  | .bkany => any
  | .bknone => !any
  | _ => true

/-! ## Results of the S slot -/

/-- What an S-slot instruction does beside writing registers. -/
inductive Ctl where
  | none_
  /-- a branch: taken or not, and its target -/
  | branch (taken : Bool) (target : W32)
  | csr (n : Nat) (v : W32)
  | hold | release | waitev | eret | halt
  | tdone (st : W16)
  | lexit (lvl : Nat)
  | loop_ (i : SIns) (n : Nat)

structure SOut where
  wr  : List (Dst × Val × Nat) := []
  ctl : Ctl := .none_

/-- ILLEGAL and PRIVILEGE of the S slot that are found at issue (R69, R76, R81, R105, R110). A write to a read-only CSR is
ignored at every level.
DESIGN CHOICE, unsafe: log entry 129. -/
def sIssueExc (c : Core) (i : SIns) : Option Exc :=
  let lack (l : Nat) : Option Exc := if l < c.pl then some { code := 2, slot := 0 } else none
  let ill : Option Exc := some { code := 1, slot := 0 }
  match i.fn with
  | .csrr => match csrLevels i.imm.toNat with
    | none => ill
    | some (r, _) => lack r
  | .csrw | .csrs | .csrc => match csrLevels i.imm.toNat with
    | none => ill
    | some (_, none) => none
    | some (_, some w) => lack w
  | .waitev => if bit c.status 16 then ill else none
  | .eret => if c.pl = 2 ∨ fld c.estatus 18 17 < c.pl then some { code := 2, slot := 0 } else none
  | .tdone => if c.task.isNone then ill else none
  | _ => none

/-- The S-slot instruction's own exceptions and effects. -/
def evalS (s : State) (b m : Nat) (c : Core) (i : SIns) : Except Exc SOut :=
  let target : W32 := c.pc + BitVec.ofInt 32 (16 * i.imm)
  match i.fn with
  | .nop | .fence => .ok {}
  | .padd => .ok { wr := [(.p i.d, .w (c.rp i.a + c.rs i.b), 1)] }
  | .psub => .ok { wr := [(.p i.d, .w (c.rp i.a - c.rs i.b), 1)] }
  | .pmov => .ok { wr := [(.p i.d, .w (c.rs i.a), 1)] }
  | .smov => .ok { wr := [(.s i.d, .w (c.rp i.a), 1)] }
  | .pdiff => .ok { wr := [(.s i.d, .w (c.rp i.a - c.rp i.b), 1)] }
  | .paddi => .ok { wr := [(.p i.d, .w (c.rp i.a + BitVec.ofInt 32 i.imm), 1)] }
  | .beq | .bne | .blt | .bge | .bltu | .bgeu | .bkany | .bknone => .ok { ctl := .branch (branchTaken c i) target }
  | .br => .ok { ctl := .branch true target }
  | .call => .ok { wr := [(.s 31, .w (c.pc + 16), 1)], ctl := .branch true target }
  | .jr => .ok { ctl := .branch true (c.rs i.a &&& 0xFFFFFFF0) }
  | .csrr => .ok { wr := [(.s i.d, .w (csrRead s b m c i.imm.toNat), 1)] }
  | .csrw | .csrs | .csrc =>
    let n := i.imm.toNat
    match csrLevels n with
    | some (_, some _) =>
      let v := csrNew i.fn n c.pl (if n = 0x00E then c.ipend else csrRead s b m c n) (c.rs i.a)
      if csrBad n v then .error { code := 1, slot := 0 } else .ok { ctl := .csr n v }
    | _ => .ok {}
  | .irqHold => .ok { ctl := .hold }
  | .irqRelease => .ok { ctl := .release }
  | .waitev => .ok { ctl := .waitev }
  | .eret => .ok { ctl := .eret }
  | .trap => .error { code := 0x0D, slot := 0, bad := some i.imm.toNat }
  | .brk => if c.debug then .ok { ctl := .halt } else .error { code := 0x0E, slot := 0 }
  | .tdone => .ok { ctl := .tdone (BitVec.ofNat 16 (c.rs i.a).toNat) }
  | .lexit => .ok { ctl := .lexit i.lvl }
  | .loop_ =>
    let n := if i.ci then i.cnt else (c.rs i.a).toNat
    let le := c.pc + BitVec.ofNat 32 (16 * i.end_)
    let la0 := bit c.status 14
    let la1 := bit c.status 15
    if i.end_ = 0 ∨ (i.lvl = 0 ∧ 2 ^ 32 - 1 < n + i.stg) ∨ (if i.lvl = 0 then la0 else la1) ∨ (i.lvl = 1 ∧ la0) ∨
        (i.lvl = 0 ∧ la1 ∧ c.le1.toNat < le.toNat) ∨ (i.lvl = 1 ∧ (i.rb ∨ i.sp ∨ i.stg ≠ 0)) then .error { code := 0x0C, slot := 0 }
    else .ok { ctl := .loop_ i n }
  | _ => .ok { wr := [(.s i.d, .w (aluOf i.fn (c.rs i.a) (c.rs i.b) i.imm), aluLat i.fn)] }

end Sys2Proof.Machine
end

