-- ==== Sys2Proof/Machine/AwlM.lean ====
section
/-! DEFINITION. What the M slots do: loads, stores, accumulators, element-precise forms (R70, R83–R90, R97, R122, R125,
R136–R141). -/

namespace Sys2Proof.Machine

/-- The internal address of a core address that a data access may use (R83). -/
def coreMap (c : Core) (b m a : Nat) : Option Nat :=
  if a < 0x80000 then (if c.pl = 2 ∧ a < 4096 * (c.klim.toNat % 256) then none else some (lmemBase b m + a))
  else if 0x01000000 ≤ a ∧ a < 0x01800000 then some (benchBase b + (a - 0x01000000))
  else none

/-- An M slot's exception; an element-precise form carries what it performed (R138, R139). -/
structure MExc where
  exc  : Exc
  part : Option (State × Out × W32) := none

abbrev MRes := Except MExc (State × Out)

/-! ## Reads -/

/-- A list without its repeats, first places kept. -/
def distinct (l : List Nat) : List Nat := l.foldl (fun a x => if a.contains x then a else a ++ [x]) []

/-- Some 64-bit words, by word number, read in order. -/
def loadSet (s : State) : List Nat → State × List (Nat × MWord)
  | [] => (s, [])
  | a :: r =>
    let (s1, x) := readWord s (8 * a)
    let (s2, l) := loadSet s1 r
    (s2, (a, x) :: l)

/-- Elements of n bytes at internal addresses: their bits and poison. -/
def loadEls (s : State) (n : Nat) (as : List Nat) : State × List (Nat × Bool) :=
  let (s1, l) := loadSet s (distinct (as.map fun a => a / 8))
  (s1, as.map fun a => match assoc l (a / 8) with
    | some x => (x.1.toNat / 2 ^ (8 * (a % 8)) % 2 ^ (8 * n), x.2)
    | none => (0, false))

/-! ## Writes (R57, R125) -/

/-- One element of n bytes stored: a poisoned one writes the poison code to its whole word. -/
def storeEl (s : State) (a n v : Nat) (po : Bool) : State :=
  if po then writeWord s (a / 8 * 8) poisonW else writeBytes s a (bytesOf n v)

/-- 4-byte elements stored in order; two in one 64-bit word go as one write. -/
def storeRun (s : State) : List (Nat × Nat × Bool) → State
  | [] => s
  | [x] => storeEl s x.1 4 x.2.1 x.2.2
  | x :: y :: r =>
    if x.1 % 8 = 0 ∧ y.1 = x.1 + 4 then
      storeRun (if x.2.2 || y.2.2 then writeWord s x.1 poisonW else writeWord s x.1 (cleanW (x.2.1 + 2 ^ 32 * y.2.1))) r
    else storeRun (storeEl s x.1 4 x.2.1 x.2.2) (y :: r)

/-! ## Scalar forms and accumulators -/

/-- Bytes of a scalar form. -/
def mSize : MFn → Nat
  | .ldh | .ldhu | .sth => 2
  | .ldb | .ldbu | .stb => 1
  | _ => 4

def mExc (slot code : Nat) (bad : Option Nat := none) (probe : List Nat := []) : MRes :=
  .error { exc := { code := code, slot := slot, bad := bad, probe := probe } }

/-- The pointer write and the flag of an address form. -/
def updOut (i : MIns) (ad : Addr) : Out :=
  match ad.upd with
  | none => {}
  | some v => { wr := [(.p i.p, .w v, 1)], st := { adj := ad.adj } }

def Out.append (a b : Out) : Out := { wr := a.wr ++ b.wr, st := a.st.or b.st }

/-- A scalar or pointer load or store (R86, R87). -/
def evalScalarM (s : State) (b m : Nat) (c : Core) (i : MIns) (slot : Nat) (ad : Addr) : MRes :=
  let n := mSize i.fn
  let a := ad.at_ 0
  if a % n ≠ 0 then mExc slot 5 (some a)
  else match coreMap c b m a with
    | none => mExc slot 4 (some a)
    | some x =>
      let up := updOut i ad
      match i.fn with
      | .stw | .sth | .stb => .ok (storeEl s x n ((c.rs i.r).toNat % 2 ^ (8 * n)) false, up)
      | .stp => .ok (storeEl s x n (c.rp i.r).toNat false, up)
      | _ =>
        let (s1, l) := loadEls s n [x]
        let (v, po) := nth l 0 (0, false)
        if po then mExc slot 7 (some a) [x / 8]
        else
          let ext : W32 := if i.fn = .ldh ∨ i.fn = .ldb then BitVec.ofInt 32 (sext (8 * n) v) else w32 v
          .ok (s1, Out.append { wr := [(if i.fn = .ldp then .p i.r else .s i.r, .w ext, 3)] } up)

/-- The addresses of several 4-byte words of an access by byte offset: the first that may not be accessed faults, and its address
is the one that BADADDR gets.
DESIGN CHOICE, unsafe: log entry 160. -/
def mapWords (c : Core) (b m : Nat) (ad : Addr) : List Nat → Except Nat (List Nat)
  | [] => .ok []
  | o :: r =>
    let a := ad.at_ o
    match coreMap c b m a with
    | none => .error a
    | some x => match mapWords c b m ad r with
      | .error e => .error e
      | .ok l => .ok (x :: l)

/-- LDV, STV and LDV.BC (R86, R122, R125). -/
def evalVecM (s : State) (b m : Nat) (c : Core) (i : MIns) (slot : Nat) (ad : Addr) (act : List Nat) : MRes :=
  if ad.at_ 0 % 4 ≠ 0 then mExc slot 5 (some (ad.at_ 0))
  else
    let offs := if i.fn = .ldvBc then [0] else act.map (4 * ·)
    match mapWords c b m ad offs with
    | .error a => mExc slot 4 (some a)
    | .ok xs =>
      let up := updOut i ad
      if i.fn = .stv then
        let r := c.rv i.r
        .ok (storeRun s ((act.zip xs).map fun p => (p.2, r.elem 32 p.1, r.bad 32 p.1)), up)
      else
        let (s1, l) := loadEls s 4 xs
        let els := (List.range act.length).map fun k => let v := nth l (if i.fn = .ldvBc then 0 else k) (0, false); (nth act k 0, v.1, v.2)
        .ok (s1, Out.append { wr := [(.v (c.vIdx i.r), vWrite 32 els, 3)] } up)

/-- A 40-bit component as the two words of its 8 bytes. -/
def accWords (v : BitVec 40) : Nat × Nat :=
  let n := wrapTo 64 v.toInt
  (n % 2 ^ 32, n / 2 ^ 32)

/-- LDA and STA (R97). Through a circular pointer their 64 words wrap one by one, as those of a vector access do, which R89 does
not say of them.
DESIGN CHOICE, unsafe: log entry 159. -/
def evalAccM (s : State) (b m : Nat) (c : Core) (i : MIns) (slot : Nat) (ad : Addr) : MRes :=
  if ad.at_ 0 % 8 ≠ 0 then mExc slot 5 (some (ad.at_ 0))
  else match mapWords c b m ad ((List.range 64).map (4 * ·)) with
    | .error a => mExc slot 4 (some a)
    | .ok xs =>
      let up := updOut i ad
      if i.fn = .sta then
        let ws := (c.ra i.r).flatMap fun l =>
          let p := accWords l.re
          let q := accWords l.im
          [(p.1, l.po), (p.2, l.po), (q.1, l.po), (q.2, l.po)]
        .ok (storeRun s ((xs.zip ws).map fun p => (p.1, p.2.1, p.2.2)), up)
      else
        let (s1, l) := loadEls s 4 xs
        let w (k : Nat) := nth l k (0, false)
        let comp (k : Nat) : BitVec 40 := BitVec.ofNat 40 ((w k).1 + 2 ^ 32 * ((w (k + 1)).1 % 256))
        let lanes := (List.range 16).map fun e =>
          { re := comp (4 * e), im := comp (4 * e + 2), po := (w (4 * e)).2 || (w (4 * e + 1)).2 || (w (4 * e + 2)).2 || (w (4 * e + 3)).2 : Lane }
        .ok (s1, Out.append { wr := [(.acc i.r, .acc lanes, 4)] } up)

/-! ## Element-precise forms (R136–R140) -/

/-- Element e of a form in an M slot counts as done (R139). -/
def epDone (c : Core) (slot e : Nat) : Bool :=
  let idx := fld c.veix 5 0
  if slot = 1 then bit c.veix 6 || decide (e < idx) else bit c.veix 6 && decide (e < idx)

/-- The address of element e (R136, R137).
DEDUCED, unsafe: log entry 60. -/
def epAddr (c : Core) (i : MIns) (e : Nat) : Nat :=
  let w := 2 ^ (i.w + 1)
  if i.fn = .vgather ∨ i.fn = .vscatter then
    let idx := (c.rv i.x).get (8 * w) e % 2 ^ 32
    c.elAddr i.p ((idx * w % 2 ^ 32 : Nat) : Int)
  else c.elAddr i.p (sext 32 (wrapTo 32 ((e : Int) * (c.rs i.x).toInt)))

/-- The elements to perform and the first that fails, with its address. -/
def epSplit (c : Core) (b m : Nat) (i : MIns) : List Nat → List (Nat × Nat) × Option (Nat × Nat)
  | [] => ([], none)
  | e :: es =>
    let a := epAddr c i e
    match (coreMap c b m a).filter fun _ => decide (a % 2 ^ (i.w + 1) = 0) with
    | none => ([], some (e, a))
    | some x => let (l, f) := epSplit c b m i es; ((e, x) :: l, f)

/-- Elements stored in ascending order. -/
def storeEls (s : State) (n : Nat) : List (Nat × Nat × Bool) → State
  | [] => s
  | x :: r => storeEls (storeEl s x.1 n x.2.1 x.2.2) n r

/-- A gather, scatter or strided form in slot 1 (M0) or 2 (M1). -/
def evalPrecise (s : State) (b m : Nat) (c : Core) (i : MIns) (slot : Nat) : MRes :=
  let n := 2 ^ (i.w + 1)
  let w := 8 * n
  let es := (c.actives i.k w).filter fun e => !epDone c slot e
  let (l, bad) := epSplit c b m i es
  let r := c.rv i.r
  let ixBad (e : Nat) : Bool := (decide (i.fn = .vgather) || decide (i.fn = .vscatter)) && (c.rv i.x).bad w e
  let (s1, o) : State × Out :=
    if i.fn = .vscatter ∨ i.fn = .vsts then (storeEls s n (l.map fun p => (p.2, r.elem w p.1, r.bad w p.1 || ixBad p.1)), {})
    else
      let (s1, vs) := loadEls s n (l.map fun p => p.2)
      (s1, { wr := [(.v (c.vIdx i.r), vWrite w ((l.zip vs).map fun p => (p.1.1, p.2.1, p.2.2 || ixBad p.1.1)), 3)] })
  match bad with
  | none => .ok (s1, o)
  | some (e, a) => .error { exc := { code := 0x0B, slot := slot, bad := some a }, part := some (s1, o, packF [(0, e), (6, slot - 1)]) }

/-! ## The M slot -/

/-- What an M-slot instruction does in slot 1 (M0) or 2 (M1), on the memory it finds. An access that is wrong in several ways
raises ADDR_MODE before ALIGN, and ALIGN before ADDR_FAULT: R106 orders slots, not the exceptions of one slot.
DESIGN CHOICE, unsafe: log entry 155. -/
def evalM (s : State) (b m : Nat) (c : Core) (i : MIns) (slot : Nat) : MRes :=
  if i.fn = .nop then .ok (s, {})
  else if i.fn.precise then evalPrecise s b m c i slot
  else
    let act := c.actives i.k 32
    if i.fn.masked ∧ act.isEmpty then .ok (s, {})
    else match c.addr i.p i.upd i.imm (c.rs i.inc).toInt with
      | none => mExc slot 6
      | some ad =>
        match i.fn with
        | .ldv | .stv | .ldvBc => evalVecM s b m c i slot ad act
        | .lda | .sta => evalAccM s b m c i slot ad
        | _ => evalScalarM s b m c i slot ad

end Sys2Proof.Machine
end

