-- ==== Sys2Proof/Machine/Fence.lean ====
section
/-! DEFINITION. Route-table entries (R352, R354) and the fence controller (R358–R362). -/

namespace Sys2Proof.Machine

def setFab (s : State) (f : Fabric → Fabric) : State := { s with fab := f s.fab }

/-! ## Route tables (R352) -/

def RtEntry.zero : RtEntry := { w0 := 0, w1 := 0, w2 := 0, w3 := 0 }

/-- Entry e of the route table of NI n. -/
def rtEntry (s : State) (n e : Nat) : RtEntry := (assoc s.fab.routes (256 * n + e)).getD RtEntry.zero

def putRtEntry (s : State) (n e : Nat) (x : RtEntry) : State :=
  setFab s fun f => { f with routes := putKey f.routes (256 * n + e) (if x = RtEntry.zero then none else some x) }

def RtEntry.valid (x : RtEntry) : Bool := bit x.w0 4
def RtEntry.fenced (x : RtEntry) : Bool := bit x.w0 5
def RtEntry.wake (x : RtEntry) : Bool := bit x.w0 6
def RtEntry.domain (x : RtEntry) : Nat := fld x.w0 13 8
def RtEntry.absence (x : RtEntry) : Nat := fld x.w0 15 14

/-- FENCED and WAKE of an entry replaced: only fence messages do this (R354). -/
def RtEntry.setFence (x : RtEntry) (f w : Bool) : RtEntry := { x with w0 := setBit (setBit x.w0 5 f) 6 w }

/-- Word k of an entry. -/
def RtEntry.word (e : RtEntry) (k : Nat) : W32 := match k with | 0 => e.w0 | 1 => e.w1 | 2 => e.w2 | _ => e.w3
def RtEntry.setWord (e : RtEntry) (k : Nat) (v : W32) : RtEntry := match k with
  | 0 => { e with w0 := v } | 1 => { e with w1 := v } | 2 => { e with w2 := v } | _ => { e with w3 := v }

/-- Words 1–3 are held in a staging copy (R354). -/
def stageRt (s : State) (n e k : Nat) (v : W32) : State :=
  let x := (assoc s.fab.staging (256 * n + e)).getD (rtEntry s n e)
  setFab s fun f => { f with staging := putKey f.staging (256 * n + e) (some (x.setWord k v)) }

/-- A write to word 0 commits the whole entry; FENCED and WAKE ignore writes (R354). -/
def commitRt (s : State) (n e : Nat) (v : W32) : State :=
  let old := rtEntry s n e
  let x := (assoc s.fab.staging (256 * n + e)).getD old
  let nw := ({ x with w0 := v } : RtEntry).setFence old.fenced old.wake
  setFab (putRtEntry s n e nw) fun f => { f with staging := putKey f.staging (256 * n + e) none }

/-- A route-table word: the NI, the entry, the word (R352). -/
def routeWord (a : Nat) : Option (Nat × Nat × Nat) :=
  let n := (a - R.niB.base) / 0x2000
  let o := (a - R.niB.base) % 0x2000
  if R.niB.base ≤ a ∧ n < 40 ∧ 0x1000 ≤ o ∧ o % 4 = 0 then some (n, (o - 0x1000) / 16, o % 16 / 4) else none

/-- FENCED and WAKE of every entry of NI n whose DOMAIN p selects replaced by what g gives for the domain. An entry of zeros
names domain 0. -/
def fenceEntries (s : State) (n : Nat) (p : Nat → Bool) (g : Nat → Bool × Bool) : State :=
  let mark (e : RtEntry) : RtEntry := if p e.domain then e.setFence (g e.domain).1 (g e.domain).2 else e
  if p 0 ∧ g 0 ≠ (false, false) then (List.range 256).foldl (fun t e => putRtEntry t n e (mark (rtEntry t n e))) s
  else
    let l := s.fab.routes.map fun e => if e.1 / 256 = n then (e.1, mark e.2) else e
    setFab s fun fab => { fab with routes := l.filter fun e => decide (e.2 ≠ RtEntry.zero) }

/-- FENCED and WAKE written in every entry of NI n whose DOMAIN is d. -/
def markEntries (s : State) (n d : Nat) (f w : Bool) : State := fenceEntries s n (fun x => decide (x = d)) fun _ => (f, w)

/-! ## The fence controller (R358–R362) -/

/-- STATE of the fence of domain d: 0 OPEN, 1 DRAINING, 2 FENCING, 3 FENCED, 4 WAKING. -/
def fnState (s : State) (d : Nat) : Nat := rdF s R.fnCtl 0 d 4 2
def setFn (s : State) (d n : Nat) : State := wrF s R.fnCtl 0 d 4 2 n
/-- WOP_EN of domain d: only where its spine router holds a wake buffer (R12, R363). -/
def wopEn (s : State) (d : Nat) : Bool := rdB s R.fnCtl 0 d 1 && hasWop s.variant && R.spineDomain d

/-- Present NIs. -/
def nisHere (s : State) : List Nat := (List.range 40).filter fun n => niHere s.variant n

/-- The producer KIND and ID lie in domain d; a Lace port lies in the shore of its first lane (R342). -/
def producerIn (s : State) (d kind id : Nat) : Bool :=
  match kind with
  | 1 => decide (niDomain id = d)
  | 2 => decide (20 + id / 8 = d)
  | 3 => decide (20 + rdF s R.lcCfg id 0 7 0 / 16 = d)
  | 4 => decide (d = 20)
  | _ => false

/-- REQ set for a domain that is OPEN: its staged tasks return, its producers' open packets are truncated, draining begins
(R66, R250, R359). -/
def fenceRequest (s : State) (d : Nat) : State :=
  if 37 ≤ d ∨ !domainHere s.variant d then s else
  let s1 := wrB s R.fnCtl 0 d 0 true
  if fnState s d ≠ 0 then s1
  else
    let s2 := truncProducers (returnStaged s1 fun x => decide (siteDomain x = d)) (producerIn s d)
    setFn s2 d 1

/-- PEND of a fence: acknowledgements outstanding. -/
def syncPend (s : State) (d : Nat) : State :=
  wrF s R.fnCtl 0 d 15 8 ((s.fab.fenceTo ++ s.fab.ackTo).filter fun p => decide (p.1 = d)).length

/-- Everything under way for domain d forgotten. -/
def clearFence (s : State) (d : Nat) : State :=
  let keep (l : List (Nat × Nat)) := l.filter fun p => decide (p.1 ≠ d)
  setFab s fun f => { f with fenceTo := keep f.fenceTo, ackTo := keep f.ackTo, acked := keep f.acked }

/-- The fence of domain d is complete (R359). -/
def fenceDone (s : State) (d : Nat) : State :=
  bump (raise (setFn (syncPend s d) d 3) E.fn 0 0) R.fnCount 0 0 1

/-- The drain of domain d has ended (R359): none of its own requests is outstanding, and no header accepted from the fabric
waits for its answer. -/
def drained (s : State) (d : Nat) : Bool :=
  !(s.fab.outst.any fun o => decide (niDomain o.ni = d)) && !(s.fab.heldReq.any fun e => decide (niDomain e.2.dst = d))

/-- The drain ends (R359): FENCE goes to every present NI outside d and outside fenced domains. -/
def fenceDrainEnd (s : State) (d : Nat) : State :=
  if fnState s d ≠ 1 ∨ !drained s d then s else
  let dests := (nisHere s).filter fun n => decide (niDomain n ≠ d) && decide (fnState s (niDomain n) ≠ 3)
  let s1 := setFn (setFab s fun f => { f with fenceTo := f.fenceTo ++ dests.map fun n => (d, n) }) d 2
  if dests.isEmpty then fenceDone s1 d else syncPend s1 d

/-- An NI receives FENCE (R359): it marks its entries and acknowledges. -/
def fenceMsgRx (s : State) (n d : Nat) : State :=
  if !s.fab.fenceTo.contains (d, n) then s else
  let s1 := markEntries s n d true (wopEn s d)
  syncPend (setFab s1 fun f => { f with fenceTo := f.fenceTo.filter (fun p => decide (p ≠ (d, n))), ackTo := f.ackTo ++ [(d, n)] }) d

/-- UNFENCE goes to a list of NIs (R360, R361, R362). -/
def unfenceTo (s : State) (d : Nat) (l : List Nat) : State :=
  setFab s fun f => { f with unfTo := f.unfTo ++ l.map fun n => (d, n) }

/-- A fence is given up: the domain is OPEN again and the NIs that acknowledged are unfenced. -/
def fenceGiveUp (s : State) (d : Nat) : State :=
  let l := (s.fab.acked ++ s.fab.ackTo).filterMap fun p => if p.1 = d then some p.2 else none
  let s1 := unfenceTo (clearFence s d) d l
  wrB (syncPend (setFn s1 d 0) d) R.fnCtl 0 d 0 false

/-- FENCED and WAKE of an NI's own table reloaded from the states of the fence controller (R362). -/
def reloadNi (s : State) (n : Nat) : State :=
  fenceEntries s n (fun _ => true) fun d => let f := decide (fnState s d = 3); (f, f && wopEn s d)

/-- The router of a domain's wake buffer (R363). -/
def spineRouter (d : Nat) : Nat := if d < 16 then d else match d with
  | 16 => 34 | 17 => 35 | 18 => 32 | 19 => 33 | _ => 36

/-- The last part of leaving FENCED (R362): every held packet has been delivered, the domain is OPEN, UNFENCE goes to every
present NI. A REQ set meanwhile then fences the domain again. -/
def unfenceOpen (s : State) (d : Nat) : State :=
  let s1 := setFab s fun f => { f with opening := f.opening.filter (fun x => decide (x ≠ d)), unfDone := f.unfDone.filter (fun x => decide (x ≠ d)) ++ [d] }
  let s2 := unfenceTo (clearFence (setFn s1 d 0) d) d (nisHere s1)
  if rdB s2 R.fnCtl 0 d 0 then fenceRequest s2 d else s2

/-- A domain that is ready leaves FENCED or WAKING (R362): its NIs reload their tables, held packets are delivered, in the
order they arrived and ahead of any other, by its spine router; then the domain is OPEN. -/
def unfence (s : State) (d : Nat) : State :=
  if fnState s d ≠ 3 ∧ fnState s d ≠ 4 then s else
  let s1 := ((nisHere s).filter fun n => decide (niDomain n = d)).foldl reloadNi (wrB s R.fnCtl 0 d 0 false)
  match assoc s1.fab.wake d with
  | none => unfenceOpen s1 d
  | some _ => setFab (setFn s1 d 4) fun f => { f with opening := f.opening.filter (fun x => decide (x ≠ d)) ++ [d] }

/-- The domain begins to wake: STATE WAKING (R362). -/
def fenceWaking (s : State) (d : Nat) : State := if fnState s d = 3 then bump (setFn s d 4) R.fnCount 0 2 1 else s

/-- An NI receives UNFENCE (R362). -/
def unfenceMsgRx (s : State) (n d : Nat) : State :=
  if !s.fab.unfTo.contains (d, n) then s else
  let s1 := markEntries s n d false false
  setFab s1 fun f => { f with unfTo := removeFirst (fun p => decide (p = (d, n))) f.unfTo, unfAck := f.unfAck ++ [(d, n)] }

/-- The acknowledgement of an UNFENCE arrives: the last one raises UNFENCE_DONE for a domain that has left FENCED (R362), not
for a fence that failed or was abandoned. -/
def unfenceAckRx (s : State) (n d : Nat) : State :=
  let s1 := setFab s fun f => { f with unfAck := removeFirst (fun p => decide (p = (d, n))) f.unfAck }
  if (s1.fab.unfTo ++ s1.fab.unfAck).any fun p => decide (p.1 = d) then s1
  else raiseIf (s1.fab.unfDone.contains d) (setFab s1 fun f => { f with unfDone := f.unfDone.filter fun x => decide (x ≠ d) }) E.fn 0 3

/-- The acknowledgement of a FENCE arrives (R359); with REQ cleared meanwhile the unfence starts at once (R361). -/
def fenceAckRx (s : State) (n d : Nat) : State :=
  if s.fab.ackTo.contains (d, n) then
    let s1 := syncPend (setFab s fun f => { f with ackTo := f.ackTo.filter (fun p => decide (p ≠ (d, n))), acked := f.acked ++ [(d, n)] }) d
    if fnState s1 d = 2 ∧ rdF s1 R.fnCtl 0 d 15 8 = 0 then
      let s2 := fenceDone s1 d
      if rdB s2 R.fnCtl 0 d 0 then s2 else unfence (fenceWaking s2 d) d
    else s1
  else if s.fab.unfAck.contains (d, n) then unfenceAckRx s n d
  else s

/-- REQ cleared (R361, R362): a FENCED domain starts to unfence; one that drains or fences runs on to FENCED first. -/
def unfenceRequest (s : State) (d : Nat) : State := fenceWaking (wrB s R.fnCtl 0 d 0 false) d

/-! ## Router reconfiguration (R365) -/

/-- `RT_RCFG` of router r written with GO = 1 (R365, R368): ignored unless IDLE; a REPAIR names exactly one port and a lane. -/
def rcfgGo (s : State) (r : Nat) (v : W32) : State :=
  let op := fld v 14 13
  if rdF s R.rtRcfg r 0 28 27 ≠ 0 then s
  else
    let s1 := wr s R.rtRcfg r 0 (v &&& 0x03FFFFFF#32)
    if op = 3 ∨ (op = 2 ∧ (popcount (v &&& 0x1FFF#32) ≠ 1 ∨ 575 < fld v 24 15)) then s1 else wrF s1 R.rtRcfg r 0 28 27 1

end Sys2Proof.Machine
end

