-- ==== Sys2Proof/Machine/Journal.lean ====
section
/-! DEFINITION. The journal of the MRAM store: appending, replay, compaction (R551–R557), and the live ledger (R558). -/

namespace Sys2Proof.Machine

/-! ## Records and segments -/

/-- The bytes a record takes in its segment: a 32-byte header and the payload padded to a multiple of 32 (R552). -/
def recSize (r : JRec) : Nat := 32 + 32 * cdiv (4 * r.payload.length) 32

/-- The 8 header words of a record (R552): the CRC is inverted where the record was written so. -/
def recHeader (r : JRec) : List W32 :=
  let h : List W32 := [packF [(0, 0x4A52), (16, r.typ)], w32 (4 * r.payload.length), lo32 r.seq, hi32 r.seq, w32 r.group, r.key, 0]
  let c := crc32c (wordBytes (h ++ r.payload))
  h ++ [if r.bad then ~~~c else c]

/-- Bytes used in a segment: its 64-byte header and its records (R551). -/
def segUsed (g : Seg) : Nat := 0x40 + listSum (g.recs.map recSize)

/-- Segments of the store that are FREE: 240 less those listed. -/
def freeSegs (j : Journal) : Nat := 240 - j.segs.length

/-- The number of RETIRED segments. -/
def retiredSegs (j : Journal) : Nat := (j.segs.filter fun g => g.state = .retired).length

/-- The lowest-numbered free segment (which free segment is opened is the model's choice).
DESIGN CHOICE, unsafe: log entry 99. -/
def lowestFree (j : Journal) : Option Nat :=
  (List.range 240).find? fun i => !(j.segs.any fun g => g.idx = i)

/-- The journal is full (R557): fewer than 13 segments free and RETIRED segments in the way of a compaction. -/
def journalFull (j : Journal) : Bool := decide (freeSegs j < 13) && decide (0 < retiredSegs j)

/-- Epoch in force. -/
def epochOf (s : State) : Nat := (rd s R.jnEpoch).toNat

/-- SEQ of the next record. -/
def nextSeq (s : State) : Nat := rd64 s R.jnNextseq

def setStore (s : State) (f : Store → Store) : State := { s with store := f s.store }
def setJournal (s : State) (f : Journal → Journal) : State := setStore s fun t => { t with journal := f t.journal }

/-- What the unit itself writes into the MRAM from offset lo to hi takes the place of the words stored there by others. -/
def rawClear (s : State) (lo hi : Nat) : State :=
  setStore s fun t => { t with raw := t.raw.filter fun e => decide (4 * e.1 < lo) || decide (hi ≤ 4 * e.1) }

/-- The MRAM offset of segment i (R550). -/
def segBase (i : Nat) : Nat := 0x100000 + 0x10000 * i

/-- `JN_SEG` and the FULL flag follow the segments; LOW_SPACE is raised as fewer than 16 segments come to be free. -/
def syncSegs (s : State) : State :=
  let j := s.store.journal
  let was := rdF s R.jnSeg 0 0 7 0
  let s1 := wr s R.jnSeg 0 0 (packF [(0, freeSegs j), (8, retiredSegs j)])
  let s2 := raiseIf (decide (freeSegs j < 16) && decide (16 ≤ was)) s1 E.mr 0 4
  let full := journalFull j
  let s3 := raiseIf (full && !(rdB s2 R.mrStat 0 0 2)) s2 E.mr 0 5
  wrB s3 R.mrStat 0 0 2 full

/-- Open a free segment for an epoch, its first record to be `seq`; nothing where no segment is free. -/
def openSeg (s : State) (epoch seq : Nat) : State :=
  match lowestFree s.store.journal with
  | none => s
  | some i =>
    setJournal (rawClear s (segBase i) (segBase i + 0x40)) fun j =>
      { j with segs := j.segs ++ [{ idx := i, gen := j.nextGen, epoch := epoch, first := seq, state := .open_, recs := [] }],
               nextGen := j.nextGen + 1 }

/-- The open segment of an epoch. -/
def openOf (j : Journal) (epoch : Nat) : Option Seg := j.segs.find? fun g => g.state = .open_ && decide (g.epoch = epoch)

/-- Replace a segment. -/
def putSeg (j : Journal) (g : Seg) : Journal := { j with segs := j.segs.map fun h => if h.idx = g.idx then g else h }

/-- Write one record into an epoch's open segment; a record never spans two segments (R551). An armed JCRC injection
inverts the CRC of the next record written (R561). -/
def writeRec (s : State) (epoch : Nat) (r : JRec) : State :=
  let armed := rdB s R.mrInj 0 0 2 && decide (rdF s R.mrInj 0 0 1 0 = 1)
  let r := { r with bad := r.bad || armed }
  let s1 := if armed then wrB s R.mrInj 0 0 2 false else s
  let fits := match openOf s1.store.journal epoch with
    | none => false
    | some g => decide (segUsed g + recSize r ≤ 0x10000)
  let s2 := if fits then s1
    else openSeg (setJournal s1 fun j =>
      { j with segs := j.segs.map fun g => if g.state = .open_ ∧ g.epoch = epoch then { g with state := .sealed } else g }) epoch r.seq
  match openOf s2.store.journal epoch with
  | none => s2
  | some g =>
    let at_ := segBase g.idx + segUsed g
    let s3 := setJournal (rawClear s2 at_ (at_ + recSize r)) fun j => putSeg j { g with recs := g.recs ++ [r] }
    let s4 := wr64 s3 R.jnNextseq 0 0 (r.seq + 1)
    syncSegs (bump s4 R.mrCount 0 0 1)

/-- Append a record to the journal (R552): refused while the journal is full (R557), held while a compaction runs (R556).
Answers the record's SEQ. -/
def append (s : State) (typ group : Nat) (key : W32) (payload : List W32) : State × Nat :=
  let seq := nextSeq s
  let r : JRec := { typ := typ, seq := seq, group := group, key := key, payload := payload, bad := false }
  if journalFull s.store.journal then (s, seq)
  else if rdB s R.mrStat 0 0 1 then (setJournal s fun j => { j with held := if j.held.length < 64 then j.held ++ [r] else j.held }, seq)
  else (writeRec s (epochOf s) r, seq)

/-- Append a stand-alone record. -/
def log (s : State) (typ : Nat) (key : W32) (payload : List W32) : State := (append s typ 0 key payload).1

/-! ## Replay (R554, R555) -/

/-- Segments of an epoch in GEN order. -/
def epochSegs (j : Journal) (e : Nat) : List Seg :=
  sortBy (fun a b => decide (a.gen < b.gen)) (j.segs.filter fun g => decide (g.epoch = e) && decide (g.state ≠ .retired))

/-- The records of a segment accepted from SEQ `next` on, the SEQ after them, and whether the segment was left early. -/
def walkSeg : List JRec → Nat → List JRec × Nat × Bool
  | [], n => ([], n, false)
  | r :: rs, n =>
    if r.seq = n ∧ r.bad = false ∧ 4 * r.payload.length ≤ 4096 then
      let (a, m, b) := walkSeg rs (n + 1)
      (r :: a, m, b)
    else ([], n, true)

/-- The accepted records of a chain of segments, the next SEQ, and the event bits raised (JCRC 0, TORN 1). -/
def walk : List Seg → Nat → List JRec × Nat × W32
  | [], n => ([], n, 0)
  | g :: gs, n =>
    if g.first ≠ n then ([], n, 0)
    else
      let (a, m, early) := walkSeg g.recs n
      let (b, k, ev) := walk gs m
      (a ++ b, k, ev ||| (if early then (if gs.isEmpty then 2#32 else 1#32) else 0#32))

/-- The chain of an epoch. -/
def chain (j : Journal) (e : Nat) : List JRec × Nat × W32 :=
  match epochSegs j e with
  | [] => ([], 0, 0)
  | g :: gs => walk (g :: gs) g.first

/-- The chain of epoch e reaches a COMPACT_DONE with KEY e. -/
def epochValid (j : Journal) (e : Nat) : Bool := (chain j e).1.any fun r => decide (r.typ = 4) && decide (r.key = w32 e)

/-- The epoch in force at replay (R555): the highest valid one; a journal never compacted runs in epoch 0. -/
def findEpoch (j : Journal) : Nat := listMax ((j.segs.map fun g => g.epoch).filter fun e => epochValid j e)

/-- The group of a record is whole among the accepted records: one COMMIT, and a BEGIN that names just the members. -/
def groupWhole (rs : List JRec) (g : Nat) : Bool :=
  let mine := rs.filter fun r => decide (r.group = g)
  let members := (mine.filter fun r => decide (r.typ ≠ 1) && decide (r.typ ≠ 2)).length
  (mine.any fun r => decide (r.typ = 2)) && (mine.any fun r => decide (r.typ = 1) && decide ((nth r.payload 0 0).toNat = members))

/-- Whether an accepted record counts (R555). -/
def counts (rs : List JRec) (e : Nat) (r : JRec) : Bool :=
  decide (r.group = 0) || groupWhole rs r.group ||
  (rs.any fun c => decide (c.typ = 4) && decide (c.key = w32 e) && decide (r.seq < c.seq))

/-- The counted records of the epoch in force, in SEQ order. -/
def counted (j : Journal) (e : Nat) : List JRec :=
  let rs := (chain j e).1
  rs.filter (counts rs e)

/-- The latest counted record of a type. -/
def latest (rs : List JRec) (typ : Nat) : Option JRec := (rs.filter fun r => decide (r.typ = typ)).getLast?

/-- The last n elements of a list. -/
def lastN {α : Type} (n : Nat) (l : List α) : List α := l.drop (l.length - n)

/-- The records compaction copies (R553, R577, R602), with the LEDGER record replaced by the present ledger. -/
def liveState (rs : List JRec) (ledger : List W32) : List JRec :=
  let one (t : Nat) := (latest rs t).toList
  ((latest rs 0x10).map fun r => { r with payload := ledger }).toList ++
  lastN 64 (rs.filter fun r => decide (r.typ = 0x11)) ++ one 0x12 ++
  lastN 512 (rs.filter fun r => decide (0x20 ≤ r.typ) && decide (r.typ ≤ 0x22)) ++
  one 0x30 ++ one 0x31 ++ one 0x32 ++ lastN 64 (rs.filter fun r => decide (r.typ = 0x33)) ++ one 0x34

/-! ## The live ledger (R558) -/

/-- Word k of the live ledger. -/
def ledW (s : State) (k : Nat) : W32 := (assoc s.store.ledger k).getD 0

/-- The live ledger with word k replaced. -/
def setLed (s : State) (k : Nat) (v : W32) : State :=
  setStore s fun t => { t with ledger := putKey t.ledger k (if v = 0 then none else some v) }

/-- A 32-bit saturating ledger counter raised by n. -/
def ledAdd (s : State) (k n : Nat) : State := setLed s k (w32 (satU 32 ((ledW s k).toNat + n)))

/-- A 48-bit ledger counter in words k and k + 1 raised by n, saturating. -/
def ledAdd48 (s : State) (k n : Nat) : State :=
  let v := satU 48 (pair64 (ledW s k) (ledW s (k + 1)) + n)
  setLed (setLed s k (lo32 v)) (k + 1) (hi32 v)

/-- The 160 words of the live ledger. -/
def ledgerWords (s : State) : List W32 := (List.range 160).map (ledW s)

/-- The ledger written to the journal as a stand-alone record (R559). -/
def writeLedger (s : State) : State := setStore (log s 0x10 0 (ledgerWords s)) fun t => { t with sinceWrite := 0 }

/-! ## Compaction (R556) -/

/-- Copy records into a new epoch, SEQ continuing. -/
def copyRecs (s : State) (e : Nat) : List JRec → State
  | [] => s
  | r :: rs => copyRecs (writeRec s e { r with seq := nextSeq s, group := 0, bad := false }) e rs

/-- Append the changes held during a compaction, SEQ continuing. -/
def appendHeld (s : State) (e : Nat) : List JRec → State
  | [] => s
  | r :: rs => appendHeld (writeRec s e { r with seq := nextSeq s }) e rs

/-- An armed injection makes the next read of the store uncorrectable (R561). -/
def ueArmed (s : State) : Bool := rdB s R.mrInj 0 0 2 && decide (rdF s R.mrInj 0 0 1 0 = 2)

/-- The injected uncorrectable word is met: counted and raised. -/
def ueMeet (s : State) : State :=
  bump (raise (wrB (wrB s R.mrInj 0 0 2 false) R.mrStat 0 0 3 true) E.mr 0 7) R.mrCount 0 3 1

/-- A compaction from start to end (R556): the live state goes into epoch e + 1, COMPACT_DONE puts it in force, the segments
of epoch e become FREE, and one in which an uncorrectable word was read becomes RETIRED.
DESIGN CHOICE, unsafe: log entry 100. -/
def compact (s : State) : State :=
  let e := epochOf s
  let s0 := raise s E.mr 0 2
  let ue := ueArmed s0
  let s1 := if ue then ueMeet s0 else s0
  let old := epochSegs s1.store.journal e
  let s2 := ledAdd s1 25 1
  let live := liveState (counted s2.store.journal e) (ledgerWords s2)
  let s3 := copyRecs s2 (e + 1) live
  let s4 := writeRec s3 (e + 1) { typ := 4, seq := nextSeq s3, group := 0, key := w32 (e + 1), payload := [w32 e], bad := false }
  let s5 := wr s4 R.jnEpoch 0 0 (w32 (e + 1))
  let bad := if ue then (old.head?.map fun g => g.idx) else none
  let s6 := setJournal s5 fun j =>
    { j with segs := j.segs.filterMap fun g =>
        if g.epoch ≠ e then some g
        else if g.state = .retired then some g
        else if some g.idx = bad then some { g with state := .retired, recs := [] }
        else none }
  let h := s6.store.journal.held
  let s7 := appendHeld (setJournal s6 fun j => { j with held := [] }) (e + 1) h
  bump (raise (syncSegs s7) E.mr 0 3) R.mrCount 0 1 1

/-! ## Reading records (R565) -/

/-- As many whole records as fit the bytes given. -/
def fitRecs : List JRec → Nat → List JRec
  | [], _ => []
  | r :: rs, n =>
    let k := 32 + 4 * r.payload.length
    if k ≤ n then r :: fitRecs rs (n - k) else []

/-- The reply words of a journal read over the records that pass the filter (R565). -/
def journalReply (s : State) (start maxb : Nat) (pass : JRec → Bool) : List W32 :=
  let rs := (counted s.store.journal (epochOf s)).filter fun r => decide (start ≤ r.seq) && pass r
  let got := fitRecs rs maxb
  match got.getLast?, rs with
  | some l, _ => [lo32 (l.seq + 1), hi32 (l.seq + 1), w32 got.length] ++ got.flatMap fun r => recHeader r ++ r.payload
  | none, [] => [lo32 (nextSeq s), hi32 (nextSeq s), 0]
  | none, r :: _ => [lo32 (r.seq + 1), hi32 (r.seq + 1), packF [(0, 1), (31, 1)]] ++ recHeader r

end Sys2Proof.Machine
end

