-- ==== Sys2Proof/Machine/CmaBase.lean ====
section
/-! DEFINITION. Beam arrays: their record, calibration state and shell status (R178–R181, R192–R196, R200, R203). -/

namespace Sys2Proof.Machine

def cmaOf (s : State) (b : Nat) : Cma := (assoc s.cmas b).getD Cma.reset
def putCma (s : State) (b : Nat) (c : Cma) : State := { s with cmas := putKey s.cmas b (if c = Cma.reset then none else some c) }
def setCma (s : State) (b : Nat) (f : Cma → Cma) : State := putCma s b (f (cmaOf s b))

/-- STATE of the array of bench b: 0 OFF, 1 CAL, 2 READY, 3 DRIFT, 4 FAILED. -/
def cmaState (s : State) (b : Nat) : Nat := rdF s R.cmaStat b 0 2 0

/-- The load band in force (R193). -/
def cmaBand (s : State) (b : Nat) : Nat := rdF s R.cmaStat b 0 5 4

/-- CAL_DUE (R196). -/
def calDue (s : State) (b : Nat) : Bool := rdB s R.cmaStat b 0 6

/-- The band whose record a band uses: its own, or the nearest with one, the lower on a tie (R195). -/
def recBand (c : Cma) (band : Nat) : Option Nat :=
  ([(0 : Nat), 1, 2, 3].flatMap fun d => (if d ≤ band then [band - d] else []) ++ [band + d]).find? fun k => (nth c.recs k none).isSome

/-- The correction of a pair of bands; before learning, a gain of 1 and no offset. -/
def corrOf (c : Cma) (fr band : Nat) : Correction := (assoc c.corr (4 * fr + band)).getD { count := 0, resid := 0, rows := [] }

/-- Vectors that the correction of a pair of bands has learned. -/
def learned (c : Cma) (fr band : Nat) : Nat := (corrOf c fr band).count

/-- The correction in use is still being learned: XFER (R195). -/
def cmaXfer (s : State) (b : Nat) : Bool :=
  let c := cmaOf s b
  match recBand c (cmaBand s b) with
  | none => false
  | some r => decide (r ≠ cmaBand s b) && decide (learned c r (cmaBand s b) < 4096)

/-- The sensor's Tj in °C (R203). -/
def cmaTj (s : State) (b : Nat) : Int := sext 8 (rdF s R.cmaTjNow b 0 7 0)

/-- The WSID that bank k holds, 0 when invalid (R179). -/
def bankWsid (s : State) (b k : Nat) : Nat := (rd s R.cmaWsid b k).toNat

/-- The bank of the segment in progress. -/
def inService (c : Cma) : Option Nat :=
  match c.job with
  | some j => j.cur.map fun e => fld (nth e 0 0) 17 16
  | none => none

/-- The status registers of the shell follow the array (R203). -/
def cmaSync (s : State) (b : Nat) : State :=
  let c := cmaOf s b
  let lb := match c.load with
    | some l => l.bank
    | none => 0
  let w := packF [(0, cmaState s b), (3, b2n c.job.isSome), (4, cmaBand s b), (6, b2n (calDue s b)), (7, b2n (cmaXfer s b)),
    (8, b2n (decide (cmaState s b ≠ 2) || !rdB s R.cmaCtl b 0 0 || c.pend || c.hold)), (9, b2n c.load.isSome), (10, lb),
    (12, b2n c.bg.isSome), (13, b2n (rdB s R.cmaStat b 0 13))]
  let bank (k : Nat) : Nat :=
    b2n (decide (bankWsid s b k ≠ 0)) + 2 * b2n (match c.load with | some l => decide (l.bank = k) | none => false) +
    4 * b2n (decide (inService c = some k)) + 8 * b2n (match c.bg with | some g => decide (g.2.1 = k) | none => false)
  wr (wr s R.cmaStat b 0 w) R.cmaBankStat b 0 (packF ((List.range 4).map fun k => (4 * k, bank k)))

/-- Bank k becomes invalid (R181). -/
def dropBank (s : State) (b k : Nat) : State := wr s R.cmaWsid b k 0

/-- Every bank becomes invalid; a load in progress no longer sets its WSID.
DESIGN CHOICE, safe: log entry 70. -/
def dropBanks (s : State) (b : Nat) : State :=
  setCma ((List.range 4).foldl (fun a k => dropBank a b k) s) b fun c => { c with load := c.load.map fun l => { l with void := true } }

def setCmaState (s : State) (b st : Nat) : State := wrF s R.cmaStat b 0 2 0 st

/-- A full calibration starts (R192, R181). -/
def startCal (s : State) (b : Nat) : State :=
  cmaSync (setCma (dropBanks (setCmaState s b 1) b) b fun c => { c with pend := false, bg := none }) b

/-- A full calibration is requested of a READY array: at once, or when its running task completes (R192, R202).
DEDUCED, safe: log entry 67. -/
def requestCal (s : State) (b : Nat) : State :=
  if (cmaOf s b).job.isSome then cmaSync (setCma s b fun c => { c with pend := true }) b else startCal s b

/-- |Tj − Tj of the record in use| exceeds TDELTA. -/
def tjFar (s : State) (b : Nat) : Bool :=
  let c := cmaOf s b
  match recBand c (cmaBand s b) with
  | none => false
  | some r => match nth c.recs r none with
    | some x => decide ((rdF s R.cmaCalCfg b 0 4 0 : Int) < ((cmaTj s b - x.tj).natAbs : Int))
    | none => false

/-- CAL_DUE is raised when the condition of R196 holds and the bench is awake (R200); with AUTO_TCAL a READY array is then
calibrated. -/
def calDueCheck (s : State) (b : Nat) : State :=
  if calDue s b ∨ !tjFar s b ∨ 2 ≤ rdF s R.pdStat b 0 2 0 then s
  else
    let s1 := raise (wrB s R.cmaStat b 0 6 true) E.cma b 3
    if rdB s1 R.cmaCtl b 0 3 ∧ cmaState s1 b = 2 ∧ !(cmaOf s1 b).pend then requestCal s1 b else cmaSync s1 b

/-- A record is written for the band in force: its corrections start anew, and CAL_DUE clears when its tag is within TDELTA
(R193, R195, R196). -/
def writeCalRec (s : State) (b err : Nat) (rows : List RowCal) : State :=
  let band := cmaBand s b
  let x : CalRec := { tj := cmaTj s b, err := err, ats := s.ats, rows := rows }
  let s1 := setCma s b fun c => { c with recs := setNth c.recs band (some x), corr := c.corr.filter fun e => decide (e.1 / 4 ≠ band) }
  if tjFar s1 b then s1
  else setCma (wrB s1 R.cmaStat b 0 6 false) b fun c => { c with hold := false }

/-- The array keeps its domain busy (R519). -/
def cmaBusy (s : State) (b : Nat) : Bool := decide (cmaState s b = 1) || (cmaOf s b).bg.isSome

/-- The bench enters RETAIN: the banks become invalid (R200). -/
def cmaRetain (s : State) (b : Nat) : State := if cmaHere s.variant b then cmaSync (dropBanks s b) b else s

/-- The bench enters OFF: banks, records and corrections are lost (R200). -/
def cmaOff (s : State) (b : Nat) : State :=
  if !cmaHere s.variant b then s
  else
    let c := cmaOf s b
    let s1 := wr (wr (setCmaState s b 0) R.cmaRunCnt b 0 0) R.cmaPerrLast b 0 0x8000#32
    let s2 := (List.range 4).foldl (fun a k => wr (wr (dropBank a b k) R.cmaBankAddrLo b k 0) R.cmaBankAddrHi b k 0) (wrB (wrF s1 R.cmaStat b 0 5 4 0) R.cmaStat b 0 6 false)
    cmaSync (putCma s2 b { Cma.reset with load := c.load.map fun l => { l with void := true }, mode := c.mode, preFrom := c.preFrom, preQ := [] }) b

/-- `SHELL_CAL_STAT` (R203). -/
def calStatView (s : State) (b : Nat) : W32 :=
  let w := rd s R.cmaCalSel b
  let c := cmaOf s b
  let band := fld w 1 0
  let fr := fld w 4 3
  let r := nth c.recs (if bit w 2 then fr else band) none
  match r with
  | none => 0
  | some x =>
    let e := corrOf c fr band
    packF [(0, 1), (1, b2n (bit w 2 && decide (4096 ≤ e.count))), (2, wrapTo 8 x.tj), (10, satU 8 (if bit w 2 then e.resid else x.err)),
      (18, Nat.min 16383 ((s.ats.toNat - x.ats.toNat) / tcPerSec))]

end Sys2Proof.Machine
end

