-- ==== Sys2Proof/Machine/Units.lean ====
section
/-! DEFINITION. What the units of a power domain hold: when they keep it busy (R519), what they lose in RETAIN, OFF and in
a lost bank (R200, R516, R526, R527). -/

namespace Sys2Proof.Machine

/-- A DMA channel of bench b is in RUN. -/
def dmaRuns (s : State) (b : Nat) : Bool := (List.range 4).any fun n => decide (rdF s R.dmaStat b n 2 0 = 1)

/-- An enabled queue of bench b has a MAC, LACE or HOST producer. -/
def queueBusy (s : State) (b : Nat) : Bool := (List.range 64).any fun q =>
  qOn s b q && decide (2 ≤ rdF s R.qProd b q 2 0)

/-- An Awl core of bench b is in `WAITEV` with WMODE = 0. -/
def coreWaits (s : State) (b : Nat) : Bool :=
  s.cores.any fun e => decide (e.1 / 8 = b) && e.2.waiting && decide (fld e.2.corePm 1 0 = 0)

/-- The domain is busy (R519). -/
def busy (s : State) (d : Nat) : Bool :=
  domainTasks s d || (decide (d < 16) && (dmaRuns s d || coreWaits s d || cmaBusy s d || queueBusy s d))

/-- The registers of a bench that an OFF does not lose: telemetry counters, and what committed configuration had set, which
Urvar reloads (R527). -/
def benchKept (b : Nat) : List Nat :=
  let qs := (List.range 64).flatMap fun q =>
    [R.qCfg, R.qBase, R.qSize, R.qProd, R.qHi, R.qLo, R.qLevel, R.qCt].map (fun r => r.key b q) ++
    (List.range 6).flatMap fun k => [(R.qCount k).key b q, (R.qCount k).key b q + 4]
  let two (r : Reg) (n : Nat) := (List.range n).flatMap fun i => [r.key b i, r.key b i + 4]
  qs ++ two R.memCount 4 ++ two R.dsCount 2 ++ two R.fftSymCount 2 ++ two R.fftPoisonCount 2 ++
    (List.range 4).flatMap fun k => two (R.lmemCount k) 8

/-- Every queue of bench b emptied. -/
def dropQueues (s : State) (b : Nat) : State :=
  ((s.queues.filter fun e => decide (e.1 / 64 = b)).map fun e => e.1 % 64).foldl (fun a q => emptyQueue a b q) s

/-- The memories of a domain become poison (R527). -/
def loseMemories (s : State) (d : Nat) : State :=
  if d < 16 then
    let m := (List.range 8).foldl (fun (m : Memory) c => m.lose (lmemBase d c / 8) (0x90000 / 8)) (s.mem.lose (benchBase d / 8) (0x800000 / 8))
    { s with mem := m.lose ((benchBase d + 0x908000) / 8) (0x8000 / 8) }
  else if d = 18 ∨ d = 19 then { s with mem := s.mem.lose (0x400000000 * (d - 18) / 8) (0x400000000 / 8) }
  else s

/-- What a domain loses as it reaches OFF (R516, R527): memory arrays, the register files of cores and Shank, registers. The shells of
the other domains are kept whole.
DEDUCED, unsafe: log entry 183. -/
def loseOff (s : State) (d : Nat) : State :=
  let s0 := if d < 16 then { s with cores := s.cores.filter fun e => decide (e.1 / 8 ≠ d), shanks := putKey s.shanks d none, dma := s.dma.filter fun e => decide (e.1 / 4 ≠ d) } else s
  let s1 := if d < 16 then cmaOff (loseMemories s0 d) d else loseMemories s0 d
  if d < 16 then
    let s2 := dropQueues s1 d
    let lo := benchBase d + 0x800000
    let hi := benchBase d + 0x1000000
    let kept := benchKept d
    let s3 := { s2 with regs := s2.regs.filter fun e => decide (e.1 < lo) || decide (hi ≤ e.1) || kept.contains e.1 }
    (List.range 64).foldl (fun a q => syncQStat a d q) s3
  else s1

/-- What a domain loses as it reaches RETAIN (R200). -/
def loseRetain (s : State) (d : Nat) : State := if d < 16 then cmaRetain s d else s

/-- The banks marked LOST by a retention check (R526): `PD_LOST` bits. -/
def loseBanks (s : State) (d : Nat) (lost : W32) : State :=
  if 16 ≤ d then s else
  let one (m : Memory) (k : Nat) : Memory :=
    if !bit lost k then m
    else if k < 16 then m.lose ((benchBase d + 0x80000 * k) / 8) (0x80000 / 8)
    else if k < 24 then m.lose (lmemBase d (k - 16) / 8) (0x80000 / 8)
    else m.lose ((lmemBase d (k - 24) + 0x80000) / 8) (0x10000 / 8)
  { s with mem := (List.range 32).foldl one s.mem }

/-- The bits of `PD_LOST` that a domain has (R532). -/
def lostMask (d : Nat) : W32 := if d < 16 then 0xFFFFFFFF#32 else 1#32

end Sys2Proof.Machine
end

