-- ==== Sys2Proof/Machine/LineCode.lean ====
section
/-! DEFINITION. The line coding of Lace lanes: scrambling, PAM4 mapping and stuffing (R376–R380), and the block CRC (R442). -/

namespace Sys2Proof.Machine

/-! ## Scrambling (R376) -/

/-- The scrambler's output o in state s, and the next state. -/
def scrStep (s : W32) : Bool × W32 :=
  let o := bit s 30 ^^ bit s 27
  (o, ((s <<< 1) ||| (if o then 1#32 else 0#32)) &&& 0x7FFFFFFF#32)

/-- Payload and CRC bits scrambled, or descrambled, in line order. -/
def scramble (s : W32) : List Bool → W32 × List Bool
  | [] => (s, [])
  | d :: ds =>
    let (o, s1) := scrStep s
    let (s2, r) := scramble s1 ds
    (s2, (d ^^ o) :: r)

/-- The state after n bits. -/
def scrAdvance : Nat → W32 → W32
  | 0, s => s
  | n + 1, s => scrAdvance n (scrStep s).2

/-- A non-zero 31-bit seed made of a free word (R377): every non-zero seed is one of them.
DESIGN CHOICE, safe: log entry 90. -/
def seedOf (w : W64) : W32 := w32 (1 + w.toNat % (2 ^ 31 - 1))

/-- The descrambler's state from the first 31 scrambled payload bits of a SYNC block, the latest bit in s[0] (R377). -/
def stateOfBits (bs : List Bool) : W32 := bs.foldl (fun a b => ((a <<< 1) ||| (if b then 1#32 else 0#32)) &&& 0x7FFFFFFF#32) 0#32

/-- A received SYNC block's 512 scrambled payload bits at a receiver that has no state, or a state and so many payload bits
found zero (R377): the first 31 bits are taken as the state; a bit that is not zero starts the search again at the next
block. The CRC bits only advance the state. -/
def syncBlock (st : Option (W32 × Nat)) (bits : List Bool) : Option (W32 × Nat) :=
  let (w, n, rest) := match st with
    | none => (stateOfBits (bits.take 31), 0, bits.drop 31)
    | some (w, n) => (w, n, bits)
  let (w1, d) := scramble w rest
  if (d.take (1024 - n)).any id then none else some (scrAdvance 24 w1, Nat.min 1024 (n + d.length))

/-- The descrambler state of a receiver that SYNC blocks have synchronised. -/
def syncOf (blocks : List (List Bool)) : Option W32 :=
  match blocks.foldl syncBlock none with
  | some (w, 1024) => some w
  | _ => none

/-! ## Symbols and stuffing (R378, R379) -/

/-- The run counter over one symbol: the next counter, and whether a symbol is stuffed after it. On L28 a run is 63 bits, on
L56 31 symbols; the stuffed symbol is the complement, or the far extreme, and starts a new run. -/
def symStep (l56 : Bool) (r : Nat × Nat) (x : Nat) : (Nat × Nat) × Bool :=
  let n := if r.1 = x ∧ 0 < r.2 then r.2 + 1 else 1
  if n = (if l56 then 31 else 63) then (((if l56 then (if 2 ≤ x then 0 else 3) else 1 - x), 1), true) else ((x, n), false)

/-- A run counter that a free word picks: the last symbol, and a run that is not full. -/
def freeRun (l56 : Bool) (w : W64) : Nat × Nat :=
  if l56 then (w.toNat % 4, 1 + w.toNat / 4 % 30) else (w.toNat % 2, 1 + w.toNat / 2 % 62)

/-- The receiver's run counter over symbols, the symbols that followed full runs removed: how many of these were not the
complement or the far extreme (R379). A new run starts with the symbol that was due.
DESIGN CHOICE, unsafe: log entry 137. -/
def symCheck (l56 : Bool) : Nat × Nat → List Nat → List Nat → (Nat × Nat) × Nat
  | r, [], _ => (r, 0)
  | r, x :: xs, g =>
    let (r1, b) := symStep l56 r x
    let (r2, n) := symCheck l56 r1 xs (if b then g.drop 1 else g)
    (r2, n + b2n (b && decide (g.headD r1.1 ≠ r1.1)))

/-- The run counter over symbols, and how many were stuffed. -/
def symOver (l56 : Bool) : Nat × Nat → List Nat → (Nat × Nat) × Nat
  | r, [] => (r, 0)
  | r, x :: xs =>
    let (r1, b) := symStep l56 r x
    let (r2, n) := symOver l56 r1 xs
    (r2, n + b2n b)

/-! ## Blocks (R441, R442) -/

/-- Bits of a word, bit 0 first. -/
def bitsOf {n : Nat} (w : BitVec n) : List Bool := (List.range n).map fun k => w.getLsbD k

/-- The 520 type and payload bits of a block in line order. -/
def blockBits (typ : Byte) (payload : List W32) : List Bool := bitsOf typ ++ payload.flatMap bitsOf

/-- The CRC of a block (R164, R442): CRC24A from remainder 0xFFFFFF, CRC bit j holding r[23 − j]. -/
def blockCrc (typ : Byte) (payload : List W32) : BitVec 24 :=
  let r := (blockBits typ payload).foldl (crcBit 0x864CFB#24) 0xFFFFFF#24
  BitVec.ofNat 24 ((List.range 24).foldl (fun a j => if r.getLsbD (23 - j) then a + 2 ^ j else a) 0)

/-- The listed type codes. -/
def typeCodes : List Byte := [0x0F#8, 0x33#8, 0x55#8, 0x66#8, 0x99#8, 0xAA#8, 0xCC#8]

/-- A received type field: the code it stands for, and whether it was one bit off; none makes the block invalid. -/
def typeOf (t : Byte) : Option (Byte × Bool) :=
  if typeCodes.contains t then some (t, false)
  else (typeCodes.find? fun c => decide (popcount (c ^^^ t) = 1)).map fun c => (c, true)

/-- What a lane's transmitter does with a block (R376, R379): scrambler state, run counter, symbols stuffed. -/
def lineOut (x : LineSt) (l56 : Bool) (typ : Byte) (payload : List W32) (crc : BitVec 24) : LineSt × Nat :=
  let (scr, bs) := scramble x.txScr (payload.flatMap bitsOf ++ bitsOf crc)
  let line := bitsOf typ ++ bs
  let (run, n) := symOver l56 x.txRun (if l56 then pam4 line else line.map b2n)
  ({ x with txScr := scr, txRun := run }, n)

/-- The receiver's run counter over the line bits of a block: the stuffed symbols that were wrong are counted (R379). -/
def lineRun (x : LineSt) (l56 : Bool) (line : List Bool) (stuffed : List Nat) : LineSt × Nat :=
  let (run, n) := symCheck l56 x.rxRun (if l56 then pam4 line else line.map b2n) stuffed
  ({ x with rxRun := run }, n)

/-- What a lane's receiver does with a block (R376, R379): the descrambler advances over payload and CRC bits only. -/
def lineIn (x : LineSt) (l56 : Bool) (b : Block) : LineSt × Nat :=
  let (scr, bs) := scramble x.rxScr (b.payload.flatMap bitsOf ++ bitsOf b.crc)
  lineRun { x with rxScr := scr } l56 (bitsOf b.typ ++ bs) b.stuffed

/-- A block in training, as the line has it: its payload and CRC are still scrambled. -/
def lineTrain (x : LineSt) (l56 : Bool) (b : Block) : LineSt × Nat :=
  lineRun x l56 (bitsOf b.typ ++ b.payload.flatMap bitsOf ++ bitsOf b.crc) b.stuffed

/-- The exit from electrical idle (R388): 128 UI of alternating 1 and 0, then SYNC64; on L56 a 1 is +3 and a 0 is −3. -/
def exitBurst (l56 : Bool) : List Nat :=
  ((List.range 128).map (fun k => decide (k % 2 = 0)) ++ bitsOf 0xF0F0F0F000FF00FF#64).map fun b => if b then (if l56 then 3 else 1) else 0

end Sys2Proof.Machine
end

