-- ==== Sys2Proof/Machine/LaneBase.lean ====
section
/-! DEFINITION. Lanes: their states and transitions (R369–R388), and how MACs and Lace ports follow their lanes (R402, R440, R448). -/

namespace Sys2Proof.Machine

/-! ## Lanes, quads and references (R369–R373) -/

/-- The shore domain of a lane (R342). -/
def laneShore (n : Nat) : Nat := 20 + n / 16

/-- The reference input of a quad (R370): none while it takes a recovered-clock track. -/
def quadInput (s : State) (q : Nat) : Option Nat := match rdF s R.qref q 0 1 0 with
  | 0 => some (q / 8) | 1 => some ((q / 8 + 1) % 8) | _ => none

/-- The lane carries the PCIe host link (R422). -/
def carriesPcie (s : State) (n : Nat) : Bool := s.host.up && decide (n < s.host.lanes)

/-! ## MACs and their lanes (R402, R403) -/

def macEn (s : State) (m : Nat) : Bool := rdB s R.macCfg m 0 7

/-- A MAC uses RS-FEC (R403): at some speeds always, at 25 Gbit/s and at 100 Gbit/s over four lanes with FEC = 1, at 10 Gbit/s never. -/
def macFec (s : State) (m : Nat) : Bool :=
  speedFec (macSpeed s m) || (rdB s R.macCfg m 0 11 && (decide (macSpeed s m = 1) || decide (macSpeed s m = 4)))
def macUp (s : State) (m : Nat) : Bool := rdB s R.macStat m 0 0

/-- The enabled MACs that use a lane. -/
def macsOf (s : State) (n : Nat) : List Nat := [n / 2, n / 2 - 1].dedup.filter fun m => macEn s m && (macLanes s m).contains n

/-- `MAC_STAT` follows the MAC's lanes, which must have role ETH and its rate (R402): UP, ALIGN, FEC_LOCK; a change of UP raises LINK_UP or LINK_DOWN (R430). -/
def macSync (s : State) (m : Nat) : State :=
  let ls := macLanes s m
  let fit := macEn s m && ls.all fun n => decide (laneRole s n = 1) && decide (laneRate s n = speedRate (macSpeed s m))
  let up := fit && ls.all fun n => decide (laneState s n = 7)
  let al := fit && ls.all fun n => decide (5 ≤ laneState s n) && decide (laneState s n ≤ 7)
  let fec := up && macFec s m
  let was := macUp s m
  let s1 := wrF s R.macStat m 0 2 0 (b2n up + 2 * b2n al + 4 * b2n fec)
  raiseIf (was && !up) (raiseIf (up && !was) s1 E.mac m 0) E.mac m 1

/-! ## Lace ports and their lanes (R440, R448) -/

def portOf (s : State) (p : Nat) : LPort := (assoc s.lace.ports p).getD LPort.reset
def putPort (s : State) (p : Nat) (x : LPort) : State :=
  setLace s fun l => { l with ports := putKey l.ports p (if x = LPort.reset then none else some x) }
def modPort (s : State) (p : Nat) (f : LPort → LPort) : State := putPort s p (f (portOf s p))

def portEn (s : State) (p : Nat) : Bool := rdB s R.lcCfg p 0 11
def portWidth (s : State) (p : Nat) : Nat := 2 ^ rdF s R.lcCfg p 0 9 8
def portLanes (s : State) (p : Nat) : List Nat := (List.range (portWidth s p)).map fun i => rdF s R.lcCfg p 0 7 0 + i
def portRing (s : State) (p : Nat) : Bool := rdB s R.lcCfg p 0 12
def portState (s : State) (p : Nat) : Nat := rdF s R.lcStat p 0 2 0
def setPortState (s : State) (p k : Nat) : State := wrF s R.lcStat p 0 2 0 k

/-- The enabled port a lane belongs to. -/
def lanePort (s : State) (n : Nat) : Option Nat := (List.range 32).find? fun p => portEn s p && (portLanes s p).contains n

/-- A port is joined (R468): its ring group is, or the device is and its partner is. -/
def portJoined (s : State) (p : Nat) : Bool :=
  portEn s p && (if portRing s p then rdB s R.ldBypass 0 0 (4 + (rdF s R.lcCfg p 0 7 0 / 4 - 56) / 2)
    else rdB s R.ldId 0 0 16 && rdB s R.lcStat p 0 21)

/-- The bypass group of a lane's quad, Q56–Q63 (R455). -/
def laneGroup (n : Nat) : Option Nat := if 224 ≤ n ∧ n < 256 then some ((n / 4 - 56) / 2) else none
def groupClosed (s : State) (k : Nat) : Bool := rdB s R.ldBypass 0 0 k
def groupJoined (s : State) (k : Nat) : Bool := rdB s R.ldBypass 0 0 (4 + k)

/-- A lane behind its group's closed bypass: its transmitter is isolated, and it trains receive-only. Lanes outside the ring pair
are bypassed with it (R455). -/
def receiveOnly (s : State) (n : Nat) : Bool := match laneGroup n with | some k => groupClosed s k | none => false

/-- A port that `LACE_PORT_CONFIG` has configured; the block of another reads 0 (R467). -/
def portShown (s : State) (p : Nat) (v : W32) : W32 := if s.lace.shown.contains p then v else 0

/-- The link of a port is lost (R448): the replay buffer is discarded, and the rest of a packet begun; credits return to their
handshake values, packets partly received are truncated, and the next handshake starts afresh. Packets not begun wait on. -/
def linkDrop (s : State) (p : Nat) : State :=
  let x := portOf s p
  let s1 := putPort s p { LPort.reset with txq := x.txq.dropWhile (fun e => decide (8 ≤ e.1)), mseq := x.mseq, ignore := x.ignore, out := x.out }
  let s2 := wrB (wrB s1 R.lcStat p 0 21 false) R.lcStat p 0 4 false
  truncProducers s2 fun kind id => decide (kind = 3) && decide (id = p)

/-- The lanes of a port have role LACE and its rate (R440). -/
def portFits (s : State) (p : Nat) : Bool :=
  (portLanes s p).all fun n => decide (laneRole s n = 2) && decide (laneRate s n = if rdB s R.lcCfg p 0 10 then 4 else 3)

/-- The state that a port's lanes give it. -/
def portWant (s : State) (p : Nat) : Nat :=
  let sts := (portLanes s p).map (laneState s)
  if !portEn s p || !portFits s p then 0
  else if sts.all fun x => decide (x = 7) then 3
  else if sts.all fun x => decide (x = 10) then 4
  else if sts.all fun x => decide (x = 6) || decide (x = 7) then 2
  else if sts.any fun x => decide (x = 10) || decide (x = 7) then (if sts.all fun x => decide (x = 7) || decide (x = 10) then 4 else 1)
  else if sts.any fun x => decide (1 ≤ x) && decide (x ≤ 6) then 1 else 0

/-- `LC_STAT`.STATE follows the port's lanes; UP or EI reached or left is LINK_UP or LINK_DOWN (R467). -/
def portSync (s : State) (p : Nat) : State :=
  let old := portState s p
  let nw := portWant s p
  let live (k : Nat) := decide (k = 3) || decide (k = 4)
  if old = nw then s
  else if old = 5 ∧ nw ≠ 0 ∧ nw ≠ 3 then s
  else
    let s1 := setPortState s p nw
    if live nw && !live old then raise s1 E.lc p 0
    else if (live old || decide (old = 5)) && !live nw then raise (linkDrop s1 p) E.lc p 1
    else s1

/-- MACs and ports follow a lane. -/
def linkSync (s : State) (n : Nat) : State :=
  let s1 := (macsOf s n).foldl macSync s
  match lanePort s1 n with | some p => portSync s1 p | none => s1

/-! ## Transitions (R384) -/

/-- A new attempt starts: counted, and reported with the phase and reason of the attempt before it. An attempt that is
started afresh ended in its present phase with reason NONE.
DEDUCED, unsafe: log entry 138. -/
def beginAttempt (s : State) (n : Nat) (clear : Bool) : State :=
  let was := laneFails s n
  let last := if inAttempt s n then (laneState s n, 0) else (laneSt s n).last
  let s1 := if clear then wrF s R.laneStat n 0 6 4 0 else s
  let s2 := modLaneSt (setLaneState s1 n 1) n fun x =>
    { x with eq := [], blockOk := false, exiting := false, bad := [], last := last }
  let s3 := raise (bump s2 R.lnCount n 0 1) E.lane n 4
  emit s3 6 [packF [(0, n), (8, last.1), (12, last.2), (16, was)]]

/-- A lane goes OFF. Its error injector goes on as `LN_TEST` has it (R391). -/
def laneOff (s : State) (n : Nat) : State :=
  let s1 := modLaneSt (wrF (setLaneState s n 0) R.laneStat n 0 6 4 0) n fun x =>
    { LineSt.reset with flips := x.flips, injOn := x.injOn, gap := x.gap, flipped := x.flipped, line := x.line }
  linkSync (wrB s1 R.laneStat n 0 9 false) n

/-- A lane leaves OFF under its role. -/
def laneStart (s : State) (n : Nat) : State :=
  match laneRole s n with
  | 1 | 2 => if rdF s R.pdStat (laneShore n) 0 2 0 = 0 then linkSync (beginAttempt s n true) n else s
  | 3 => setLaneState s n 12
  | 4 => setLaneState s n 11
  | _ => s

/-- The attempt of one lane fails with a reason in its present phase. -/
def failLane (s : State) (n reason : Nat) : State :=
  if !inAttempt s n then s
  else if receiveOnly s n then modLaneSt (setLaneState s n 1) n fun x => { x with eq := [], blockOk := false }
  else
    let s1 := modLaneSt (wr s R.lnLast n 0 (packF [(0, laneState s n), (4, reason)])) n fun x => { x with last := (laneState s n, reason) }
    let f := laneFails s1 n
    if f + 1 ≤ 3 then wrF (setLaneState s1 n 8) R.laneStat n 0 6 4 (f + 1)
    else
      let s2 := wrF (setLaneState s1 n 9) R.laneStat n 0 6 4 4
      if f = 3 then raise (modLaneSt s2 n fun x => { x with retried := false }) E.lane n 5 else s2

/-- The lanes that share an attempt with a lane: those of its Lace port (R383). -/
def laneMates (s : State) (n : Nat) : List Nat := match lanePort s n with
  | some p => if laneRole s n = 2 then portLanes s p else [n]
  | none => [n]

/-- An attempt fails: on every lane of the port. -/
def failAttempt (s : State) (n reason : Nat) : State := linkSync ((laneMates s n).foldl (fun a k => failLane a k reason) s) n

/-- A lane in UP or electrical idle retrains: FAILS := 0, RETRAIN, ATTEMPT; counted in the ledger of its quad. -/
def retrainLane (s : State) (n : Nat) : State :=
  if laneState s n ≠ 7 ∧ laneState s n ≠ 10 then s else
  let s1 := raise (bump s R.lnCount n 1 1) E.lane n 3
  beginAttempt (ledAdd s1 (32 + n / 4) 1) n true

/-- The lanes of a port retrain together. -/
def retrain (s : State) (n : Nat) : State := linkSync ((laneMates s n).foldl retrainLane s) n

/-- `LANE_RETRAIN` on a lane (R384, R386). -/
def retrainCmd (s : State) (n : Nat) : State :=
  let k := laneState s n
  if k = 7 ∨ k = 10 then retrain s n
  else if inAttempt s n ∨ k = 8 ∨ k = 9 then linkSync (beginAttempt s n true) n
  else s

/-- A lane reaches UP. -/
def laneUp (s : State) (n : Nat) : State :=
  raise (wrF (setLaneState (modLaneSt s n fun x => { x with last := (6, 0) }) n 7) R.laneStat n 0 6 4 0) E.lane n 2

/-- A shore domain reaches RUN: its lanes start (R384). -/
def shoreUp (s : State) (d : Nat) : State :=
  if d < 20 ∨ 36 ≤ d then s else
  (List.range 16).foldl (fun a i =>
    let n := (d - 20) * 16 + i
    if laneHere a.variant n ∧ laneState a n = 0 then laneStart a n else a) s

/-- A shore domain leaves RUN and IDLE: its lanes go OFF and keep their configuration (R384). -/
def shoreDown (s : State) (d : Nat) : State :=
  if d < 20 ∨ 36 ≤ d then s else
  (List.range 16).foldl (fun a i =>
    let n := (d - 20) * 16 + i
    if laneHere a.variant n ∧ laneState a n ≠ 0 then laneOff a n else a) s

/-! ## Detectors (R381, R382) -/

/-- A lane's event was injected. -/
def markInj (s : State) (n : Nat) (inj : Bool) : State := if inj then wrB s R.laneStat n 0 10 true else s

/-- An error of the host link is reported through AER and by vector 64 (R382, R425). -/
def aerReport (s : State) (k : Nat) : State := setHost s fun h => { h with aer := h.aer ++ [k], msix := h.msix ++ [64] }

/-- LOS asserts or clears. It is masked in electrical idle until the exit (R387, R388); a lane in its exit that loses its signal then
retrains.
DESIGN CHOICE, safe: log entry 176. -/
def losChange (s : State) (n : Nat) (on inj : Bool) : State :=
  let k := laneState s n
  if (k = 10 ∧ (laneSt s n).exiting = false) ∨ rdB s R.laneStat n 0 7 = on then s else
  let s1 := markInj (raise (bump (wrB s R.laneStat n 0 7 on) R.lnCount n 2 1) E.lane n 0) n inj
  if !on then s1
  else if k = 7 ∨ k = 10 then retrain s1 n
  else if 2 ≤ k ∧ k ≤ 6 then failAttempt s1 n 2
  else if k = 12 then aerReport s1 0
  else s1

/-- LOL asserts or clears. -/
def lolChange (s : State) (n : Nat) (on inj : Bool) : State :=
  let k := laneState s n
  if rdB s R.laneStat n 0 8 = on then s else
  let s1 := markInj (raise (bump (wrB s R.laneStat n 0 8 on) R.lnCount n 3 1) E.lane n 1) n inj
  if !on then s1
  else if k = 7 ∨ k = 10 then retrain s1 n
  else if 2 ≤ k ∧ k ≤ 6 then failAttempt s1 n 3
  else if k = 12 then aerReport s1 0
  else s1

/-- A detector of a lane is forced true by `SHELL_INJ` (R394): KIND, and an end by the detector itself or by KIND 0. -/
def laneForced (s : State) (n kind : Nat) : Bool := rdB s R.laneInj n 0 2 && decide (rdF s R.laneInj n 0 1 0 = kind)

/-- A detector injection of a lane (R394): KIND 3 is ignored; KIND 0 ends what runs; any other forces the detector. -/
def laneInjArm (s : State) (n kind dur : Nat) : State :=
  if kind = 3 then s
  else
    let s1 := wr s R.laneInj n 0 (packF [(0, kind), (2, b2n (decide (kind ≠ 0))), (16, dur)])
    if kind = 1 then losChange s1 n true true else if kind = 2 then lolChange s1 n true true else s1

/-- A PLL of a quad loses lock (R394): every non-OFF lane of the quad goes through LOL. -/
def pllLose (s : State) (q pll : Nat) (inj : Bool) : State :=
  let s1 := raise (wrB s R.quadStat q 0 pll false) E.quad q 0
  (List.range 4).foldl (fun a i => if laneState a (4 * q + i) ≠ 0 then lolChange a (4 * q + i) true inj else a) s1

/-- A write of a quad's `SHELL_INJ` (R570). -/
def quadInjArm (s : State) (q kind dur : Nat) : State :=
  if kind = 3 then s
  else
    let s1 := wr s R.quadInj q 0 (packF [(0, kind), (2, b2n (decide (kind ≠ 0))), (16, dur)])
    if kind = 0 then s1 else pllLose s1 q (kind - 1) true

end Sys2Proof.Machine
end

