-- ==== Sys2Proof/Machine/Power.lean ====
section
/-! DEFINITION. Power domains: fit levels and the power limit (R512–R515), the states and their transitions (R516–R531),
and the power commands (R533–R537). -/

namespace Sys2Proof.Machine

/-! ## Fields of `PD_STAT` and `PD_CFG` (R532) -/

/-- STATE: 0 RUN, 1 IDLE, 2 RETAIN, 3 OFF, 4 ENTERING, 5 EXITING. -/
def pdState (s : State) (d : Nat) : Nat := rdF s R.pdStat d 0 2 0
def pdHeld (s : State) (d : Nat) : Bool := rdB s R.pdStat d 0 8
def pdStep (s : State) (d : Nat) : Nat := rdF s R.pdStat d 0 12 10
def needLoad (s : State) (d : Nat) : Bool := rdB s R.pdStat d 0 9
def setPd (s : State) (d hi lo v : Nat) : State := wrF s R.pdStat d 0 hi lo v
def pdEvent (s : State) (d k : Nat) : State := raise s E.pd d k

/-- STATE and TARGET of a domain at rest; a shore that reaches RUN starts its lanes (R384). -/
def rest (s : State) (d st : Nat) : State :=
  let s1 := setPd (setPd (setPd s d 2 0 st) d 4 3 st) d 12 10 0
  if st = 0 then shoreUp s1 d else s1

/-- The domain is held out of service (R316): held in RETAIN or OFF, or waiting to be reloaded. -/
def outOfService (s : State) (d : Nat) : Bool :=
  needLoad s d || (pdHeld s d && (decide (pdState s d = 2) || decide (pdState s d = 3)))

/-- The benches whose hold has ended raise REHOME again in their next one (R331). -/
def holdSync (s : State) : State := { s with gov := { s.gov with rehomed := s.gov.rehomed.filter (outOfService s) } }

/-- The domain's engines can run now. -/
def awake (s : State) (d : Nat) : Bool := decide (pdState s d < 2)

/-- What runs in the domain goes on: it is awake, or in step 0 of an entry, where running tasks complete (R66, R522). -/
def goesOn (s : State) (d : Nat) : Bool := awake s d || (decide (pdState s d = 4) && decide (pdStep s d = 0))

/-- The domain's hottest sensor, which means its zone Tj, reads 95 °C or more (R521, R539). -/
def hot (s : State) (d : Nat) : Bool := decide (d < 38) && decide (760 ≤ sext 12 (rdF s R.thZone 0 d 11 0))

/-! ## Fit levels (R512, R513) -/

/-- The effective cap of a domain: the lowest of HOSTCAP, PCAP and F0 while OCLATCH is set. -/
def effCap (s : State) (d : Nat) : Nat :=
  if 18 ≤ d then 3
  else if rdB s R.pdStat d 0 17 then 0
  else Nat.min (rdF s R.pdCfg d 0 21 20) (rdF s R.pdStat d 0 16 15)

/-- A change of the cap begins its ramp, or waits for the ramp under way (R513); asleep it applies at the next exit. -/
def syncFit (s : State) (d : Nat) : State :=
  if 18 ≤ d then s else
  let c := effCap s d
  if 2 ≤ pdState s d then s
  else
    let x := domOf s d
    let s1 := setPd s d 14 13 c
    match x.fitGoal with
    | some _ => setDom s1 d fun y => { y with fitNext := some c }
    | none => if x.fitNow = c then s1 else setDom s1 d fun y => { y with fitGoal := some c }

/-- `FIT_RAMP_END` (R513): a step of one level ends; a change requested meanwhile begins when the ramp has ended. -/
def execFitRampEnd (d : Fin 18) (s : State) : Host.Outcome State Fault Refusal :=
  .next (
    let x := domOf s d.val
    match x.fitGoal with
    | none => s
    | some g =>
      let now := if x.fitNow < g then x.fitNow + 1 else if g < x.fitNow then x.fitNow - 1 else g
      setDom s d.val fun y =>
        if now ≠ g then { y with fitNow := now }
        else
          let next := match y.fitNext with
            | none => none
            | some n => if n = now then none else some n
          { y with fitNow := now, fitGoal := next, fitNext := none })

/-! ## The power limit (R514, R515) -/

/-- Domains 0–17 that exist. -/
def fitDomains (s : State) : List Nat := (List.range 18).filter fun d => domainHere s.variant d

/-- The domain of a list with the best value, the lowest number on a tie. -/
def pickBest (better : Nat → Nat → Bool) : List (Nat × Nat) → Option Nat
  | [] => none
  | (d, v) :: l =>
    match l.foldl (fun (a : Nat × Nat) e => if better e.2 a.2 then e else a) (d, v) with
    | (k, _) => some k

/-- `POWER_LOOP_STEP` (R514): the device power in 0.1 W and the power each domain 0–17 draws.
DESIGN CHOICE, unsafe: log entry 97. -/
def execPowerLoopStep (p : Fin 65536) (draws : List Nat) (s : State) : Host.Outcome State Fault Refusal :=
  .next (
    let s0 := wrF s R.pwrStat 0 0 15 0 p.val
    let limit := rdF s R.pwrLimit 0 0 15 0 * rdF s R.pwrStat 0 0 22 16
    let ds := fitDomains s
    if limit < 100 * p.val then
      let s1 := if rdB s0 R.pwrStat 0 0 23 then s0 else raise (wrB s0 R.pwrStat 0 0 23 true) E.pwr 0 0
      match pickBest (fun a b => decide (b < a)) ((ds.filter fun d => decide (0 < effCap s d)).map fun d => (d, nth draws d 0)) with
      | some d => syncFit (setPd s1 d 16 15 (rdF s R.pdStat d 0 16 15 - 1)) d
      | none => raise s1 E.pwr 0 1
    else if 1000 * p.val < 9 * limit then
      let low (t : State) (d : Nat) : Bool := decide (rdF t R.pdStat d 0 16 15 < rdF t R.pdCfg d 0 21 20)
      let s1 := match pickBest (fun a b => decide (a < b)) ((ds.filter (low s)).map fun d => (d, nth draws d 0)) with
        | some d => syncFit (setPd s0 d 16 15 (rdF s R.pdStat d 0 16 15 + 1)) d
        | none => s0
      if ds.any (low s1) then s1 else wrB s1 R.pwrStat 0 0 23 false
    else s0)

/-- ILIM reached (R515), or the current fallen again. -/
def ilimHit (s : State) (d : Nat) (fallen inj : Bool) : State :=
  if !domainHere s.variant d ∨ 38 ≤ d then s
  else if fallen then wrB s R.ivrStat d 0 1 false
  else
    let s1 := raise (wrB s R.ivrStat d 0 1 true) E.ivr d 0
    if inj then wrB s1 R.ivrStat d 0 2 true else s1

/-- `ILIM_HIT` (R515). -/
def execIlimHit (d : Fin 39) (fallen : Bool) (s : State) : Host.Outcome State Fault Refusal :=
  .next (ilimHit s d.val fallen false)

/-- The current exceeded 1.25 ILIM for 1 µs (R515). -/
def overCurrent (s : State) (d : Nat) (inj : Bool) : State :=
  if !domainHere s.variant d ∨ 38 ≤ d then s
  else
    let s1 := raise s E.ivr d 1
    let s2 := if inj then wrB s1 R.ivrStat d 0 2 true else s1
    syncFit (wrB s2 R.pdStat d 0 17 true) d

/-- `IVR_OVER_CURRENT` (R515). -/
def execIvrOverCurrent (d : Fin 39) (s : State) : Host.Outcome State Fault Refusal := .next (overCurrent s d.val false)

/-! ## Transitions (R522–R531) -/

/-- Domains 0–35 have RETAIN and OFF; 0–37 IDLE (R510). -/
def hasLow (d : Nat) : Bool := decide (d < 36)
def hasIdle (d : Nat) : Bool := decide (d < 38)

/-- Exclusion sources of the domain for placement change with its state (R330). -/
def setExcl (s : State) (d : Nat) (e : Bool) : State := setDom s d fun x => { x with excl := e }

/-- Start entry to RETAIN or OFF (R522 step 0): staged tasks return whatever the state of the domain's fence (R66). -/
def startEntry (s : State) (d : Nat) (off slow auto : Bool) : State :=
  let st := pdState s d
  let s1 := setDom s d fun x =>
    { x with prev := st, offPath := off, slow := slow, auto := auto, pendSrc := 0, waitRet := false, removing := false }
  let s2 := returnStaged s1 fun x => decide (siteDomain x = d)
  shoreDown (fenceRequest (setPd (setPd (setPd s2 d 2 0 4) d 4 3 (if off then 3 else 2)) d 12 10 0) d) d

/-- The wake of a domain begins (R525 step 1). -/
def startExit (s : State) (d src : Nat) : State :=
  let off := decide (pdState s d = 3)
  let s1 := setDom s d fun x => { x with offPath := off, pendSrc := src }
  let s2 := bump s1 R.pdCount d 3 (tickNow s - (domOf s d).since)
  wrF (fenceWaking (holdSync (setPd (setPd (setPd s2 d 2 0 5) d 4 3 0) d 12 10 1)) d) R.ivrCtl d 0 1 0 0

/-- The IVR of a domain leaves its normal mode (R516, R532): MODE 1 low-power or 2 off, and IVR_OK low until the exit raises it (R525).
DEDUCED, safe: log entry 182. -/
def ivrLeaves (s : State) (d mode : Nat) : State := wrB (wrF s R.ivrCtl d 0 1 0 mode) R.ivrStat d 0 0 false

/-- The request pending when a transition ends is applied, or dropped where it names the state just reached (R530). A command
to RETAIN or OFF, IDLE or RUN is applied as it would be at rest; `auto` entries are not repeated. -/
def applyPending (s : State) (d : Nat) : State :=
  if !rdB s R.pdStat d 0 5 then s else
  let want := rdF s R.pdStat d 0 7 6
  let x := domOf s d
  let s1 := setPd (setPd s d 5 5 0) d 7 6 0
  let cmd := decide (x.pendSrc = 4)
  let s2 := if cmd then holdSync (setPd s1 d 8 8 (b2n x.pendHold)) else s1
  let s3 := setDom s2 d fun y => { y with pendHold := false, pendSrc := 0 }
  let st := pdState s3 d
  if st = want then s3
  else match st with
    | 0 | 1 =>
      if want = 0 then rest s3 d 0 else if want = 1 then rest s3 d 1
      else if want = 2 ∧ hot s3 d then s3
      else if want = 2 ∧ st = 1 ∧ busy s3 d then setDom s3 d fun y => { y with waitRet := true }
      else startEntry s3 d (decide (want = 3)) x.slow false
    | 2 =>
      if want = 3 then ivrLeaves (bump (rest (setDom (loseOff s3 d) d fun y => { y with brown := false }) d 3) R.pdCount d 1 1) d 2
      else startExit s3 d x.pendSrc
    | _ => startExit s3 d x.pendSrc

/-- Entry is abandoned (R522): the domain returns to the state it held, is unfenced, and the wake is recorded as ABORT. -/
def abandon (s : State) (d cause : Nat) : State :=
  let x := domOf s d
  let s1 := shoreUp (setDom (rest s d x.prev) d fun y => { y with image := false, pendSrc := 0, removing := false }) d
  let s2 := if fnState s1 d = 3 ∨ fnState s1 d = 4 then unfence (fenceWaking s1 d) d else fenceGiveUp s1 d
  let s3 := wr (wr s2 R.pdWake d 0 (packF [(0, 7), (3, cause)])) R.pdWtick d 0 (w32 (tickNow s))
  applyPending (bump (pdEvent s3 d 1) R.pdCount d 2 1) d

/-- The fence of an entering domain failed or was abandoned (R360, R361): it stays in RUN. -/
def fenceFailed (s : State) (d : Nat) : State :=
  if pdState s d = 4 then applyPending (rest s d 0) d else s

/-- A request held pending (R530). -/
def pend (s : State) (d want src : Nat) (hold slow : Bool) : State :=
  let s1 := if rdB s R.pdStat d 0 5 then pdEvent s d 5 else s
  setDom (setPd (setPd s1 d 5 5 1) d 7 6 want) d fun x => { x with pendSrc := src, pendHold := hold, slow := if want = 2 then slow else x.slow }

/-- An entry can still be abandoned: step 0 or A–C, or step 0 to B on the OFF path (R522). -/
def abortable (s : State) (d : Nat) : Bool :=
  let x := domOf s d
  decide (pdState s d = 4) && !x.removing && decide (pdStep s d ≤ (if x.offPath then 2 else 3))

/-- A wake source arrives at a domain (R522, R523, R531). -/
def wakeDomain (s : State) (d src : Nat) : State :=
  if !domainHere s.variant d ∨ 36 ≤ d then s
  else if pdHeld s d ∧ src ≠ 4 ∧ src ≠ 5 ∧ src ≠ 6 ∧ pdState s d ≠ 4 then s
  else match pdState s d with
    | 2 | 3 => startExit s d src
    | 4 =>
      if abortable s d ∧ src ≠ 6 then
        (if pdStep s d = 0 then abandon s d src else setDom s d fun x => { x with pendSrc := if x.pendSrc = 0 then src else x.pendSrc })
      else pend s d 0 src false false
    | _ => s

/-- `WAKE_EVENT` (R523): domain and source 1–6; source 3, wake-on-packet, only where a wake buffer is (R12, R363). -/
def execWakeEvent (d : Fin 39) (src : Fin 7) (s : State) : Host.Outcome State Fault Refusal :=
  .next (if src.val = 0 ∨ (src.val = 3 ∧ !(hasWop s.variant && R.spineDomain d.val)) then s else wakeDomain s d.val src.val)


/-- RETAIN or OFF is reached (R529). -/
def reachLow (s : State) (d : Nat) : State :=
  let x := domOf s d
  let off := x.offPath
  let s1 := if off then loseOff s d else loseRetain s d
  let s2 := setDom (rest s1 d (if off then 3 else 2)) d fun y =>
    { y with since := tickNow s, excl := !y.auto, removing := false, brown := false }
  let s3 := ivrLeaves (bump (pdEvent s2 d 0) R.pdCount d (if off then 1 else 0) 1) d (if off then 2 else 1)
  if pdHeld s3 d ∧ x.pendSrc ≠ 4 ∧ x.pendSrc ≠ 5 ∧ x.pendSrc ≠ 6 then setPd (setPd s3 d 5 5 0) d 7 6 0
  else applyPending s3 d

/-- A brown-out (R528): straight to OFF, the retention lost. -/
def brownOut (s : State) (d : Nat) (inj : Bool) : State :=
  let low := decide (pdState s d = 2) || (decide (pdState s d = 4) && decide (pdStep s d = 5))
  if !low then s else
  let s1 := setDom (rest (loseOff s d) d 3) d fun x => { x with brown := true, image := true, offPath := true, since := if pdState s d = 4 then tickNow s else x.since }
  let s2 := wr s1 R.pdLost d 0 (lostMask d)
  let s3 := raise (pdEvent s2 d 3) E.ivr d 2
  let s4 := if inj then wrB s3 R.ivrStat d 0 2 true else s3
  applyPending (ivrLeaves (bump (ledAdd s4 24 1) R.pdCount d 1 1) d 2) d

/-- `BROWN_OUT` (R528). -/
def execBrownOut (d : Fin 39) (s : State) : Host.Outcome State Fault Refusal :=
  .next (if hasLow d.val then brownOut s d.val false else s)

/-- `ENTRY_STEP_DONE` (R522). An armed brown-out injection fires at the next RETAIN (R532). -/
def execEntryStepDone (d : Fin 39) (s : State) : Host.Outcome State Fault Refusal :=
  .next (
    let k := d.val
    if pdState s k ≠ 4 then s else
    let x := domOf s k
    let stepNo := pdStep s k
    if stepNo = 0 then
      (if fnState s k ≠ 3 ∨ domainTasks s k = true then s else setPd s k 12 10 1)
    else if x.removing then reachLow s k
    else if abortable s k ∧ x.pendSrc ≠ 0 ∧ !rdB s R.pdStat k 0 5 then abandon s k x.pendSrc
    else if stepNo = 1 then setPd s k 12 10 2
    else if stepNo = 2 then
      let s1 := setDom s k fun y => { y with image := true }
      if x.offPath then setDom s1 k fun y => { y with removing := true } else setPd s1 k 12 10 3
    else if stepNo = 3 then
      setPd (setDom s k fun y => { y with canaryOn := y.canary, canary := 0, crcTaken := y.slow }) k 12 10 4
    else if stepNo = 4 then setPd s k 12 10 5
    else
      let s1 := reachLow s k
      let armed := rdB s1 R.ivrInj k 0 2 && decide (rdF s1 R.ivrInj k 0 1 0 = 3)
      if armed ∧ pdState s1 k = 2 then brownOut (wrB s1 R.ivrInj k 0 2 false) k true else s1)

/-- LOGIC_OK (R525, R527): the domain runs, is unfenced, and the wake is recorded. -/
def exitDone (s : State) (d : Nat) : State :=
  let x := domOf s d
  let load := x.offPath && decide (d < 16)
  let s1 := setPd (rest s d 0) d 9 9 (b2n (load || needLoad s d))
  let cap := effCap s1 d
  let s2 := setDom (if d < 18 then setPd s1 d 14 13 cap else s1) d fun y =>
    { y with image := false, excl := false, fitNow := if d < 18 then cap else 3, fitGoal := none, fitNext := none, crcTaken := false, canaryOn := 0, brown := false }
  let src := x.pendSrc
  let s3 := wr (wr s2 R.pdWake d 0 (packF [(0, src), (6, b2n x.offPath)])) R.pdWtick d 0 (w32 (tickNow s))
  let s4 := pdEvent (unfence (holdSync s3) d) d 0
  applyPending (if d < 16 ∧ x.offPath = false then calDueCheck s4 d else s4) d

/-- `EXIT_STEP_DONE` (R525, R526). `bad` gives, at step 3 from RETAIN, the banks whose monitor tripped, whose canary does not
read back or whose CRC differs. -/
def execExitStepDone (d : Fin 39) (bad : W32) (s : State) : Host.Outcome State Fault Refusal :=
  .next (
    let k := d.val
    if pdState s k ≠ 5 then s else
    let x := domOf s k
    match pdStep s k with
    | 1 => setPd (wrB s R.ivrStat k 0 0 true) k 12 10 2
    | 2 => setPd s k 12 10 3
    | 3 =>
      let lost := if x.offPath then (if x.brown then lostMask k else 0#32) else (bad ||| x.canaryOn) &&& lostMask k
      let s1 := wr s R.pdLost k 0 lost
      let s2 := if x.offPath ∨ lost = 0#32 then s1
        else pdEvent (ledAdd (loseBanks s1 k lost) 23 (popcount lost)) k 2
      setPd s2 k 12 10 4
    | _ => exitDone s k)

/-! ## Automatic entry and wake (R520, R521, R524) -/

/-- `IDLE_ENTRY` (R520, R529): tick edges with no engine active. -/
def execIdleEntry (d : Fin 39) (edges : Nat) (s : State) : Host.Outcome State Fault Refusal :=
  .next (if domainHere s.variant d.val && hasIdle d.val && decide (pdState s d.val = 0) && rdB s R.pdCfg d.val 0 16 &&
      !pdHeld s d.val && decide (rdF s R.pdCfg d.val 0 7 0 ≤ edges) && !domainRuns s d.val then rest s d.val 1 else s)

/-- `IDLE_EXIT` (R517, R529): work arrives; a domain held in IDLE stays there, its engine clock ungated. -/
def execIdleExit (d : Fin 39) (s : State) : Host.Outcome State Fault Refusal :=
  .next (if pdState s d.val = 1 ∧ pdHeld s d.val = false then rest s d.val 0 else s)

/-- WAKE of R520 and R524 in ticks; an array bench leaving OFF adds 192 (R524). -/
def wakeTicks (s : State) (d : Nat) (off slow : Bool) : Nat :=
  (if off then (if d < 16 ∧ hasCma s.variant then 212 else 20) else 2) + (if slow then 3 else 0)

/-- The lookahead of bench d leaves at least n ticks (R520). -/
def lookahead (s : State) (d n : Nat) : Bool :=
  !rdB s R.gvDueValid 0 0 d || decide (n ≤ ticksAhead s (rd s R.gvNextDue 0 d).toNat)

/-- MARGIN and RET_MIN. -/
def margin (s : State) : Nat := rdF s R.pwrCfg 0 0 7 0
def retMin (s : State) : Nat := rdF s R.pwrCfg 0 0 15 8

/-- The third condition of R520: the lookahead of a bench, or the ticks with no request for other domains. -/
def dueFar (s : State) (d quiet : Nat) (off slow : Bool) : Bool :=
  if d < 16 then lookahead s d ((if slow then 4 else 1) + wakeTicks s d off slow + margin s + retMin s)
  else decide (rdF s R.pdCfg d 0 15 8 ≤ quiet)

/-- `LOW_POWER_ENTRY_START` (R520, R521, R531): at a tick edge, with the idle edges and the edges without a request. A
commanded entry that waits for the domain to be not busy starts here too. -/
def execLowPowerEntryStart (d : Fin 39) (idle quiet : Nat) (s : State) : Host.Outcome State Fault Refusal :=
  .next (
    let k := d.val
    let x := domOf s k
    if !domainHere s.variant k || decide (1 < pdState s k) || busy s k then s
    else if x.waitRet then (if hot s k then s else startEntry s k false x.slow false)
    else
      let slow := rdB s R.pdCfg k 0 19
      if !rdB s R.pdCfg k 0 17 || decide (20 ≤ k) || pdHeld s k || decide (idle < rdF s R.pdCfg k 0 15 8) || !dueFar s k quiet false slow then s
      else if !hot s k then startEntry s k false slow true
      else
        let s1 := pdEvent s k 4
        if rdB s R.pdCfg k 0 18 && dueFar s k quiet true slow then startEntry s1 k true slow true else s1)

/-- The next due tick of a bench as a whole tick number. -/
def dueTick (s : State) (d : Nat) : Nat := tickNow s + ticksAhead s (rd s R.gvNextDue 0 d).toNat

/-- `PREWAKE` (R524): the domain sleeps under automatic management and its next due tick less WAKE and MARGIN is reached. A tick
that recurs after a backward step brings no second pre-wake for the same due tick (R41). -/
def execPrewake (d : Fin 16) (s : State) : Host.Outcome State Fault Refusal :=
  .next (
    let k := d.val
    let x := domOf s k
    let off := decide (pdState s k = 3)
    if (pdState s k = 2 ∨ pdState s k = 3) ∧ !pdHeld s k ∧ rdB s R.gvDueValid 0 0 k ∧
        ticksAhead s (rd s R.gvNextDue 0 k).toNat ≤ wakeTicks s k off x.slow + margin s ∧
        ¬(s.ats.toNat ≤ s.tim.barTo ∧ x.preFor = some (dueTick s k))
    then startExit (setDom s k fun y => { y with preFor := some (dueTick s k) }) k 1 else s)

/-- `IVR_SHELL_INJ_ARM` (R532): kinds 1 and 2 act at once, kind 3 at the next RETAIN. -/
def ivrInjArm (s : State) (d kind dur : Nat) : State :=
  let s1 := wr s R.ivrInj d 0 (packF [(0, kind), (2, b2n (decide (kind = 3))), (16, dur)])
  if kind = 1 then ilimHit s1 d false true else if kind = 2 then overCurrent s1 d true else s1

def execIvrShellInjArm (w : Writer) (d : Fin 38) (kind : Fin 4) (dur : Fin 65536) (s : State) : Host.Outcome State Fault Refusal :=
  .next (if domainHere s.variant d.val && mayInject s w then ivrInjArm s d.val kind.val dur.val else s)

/-! ## Commands (R533–R537) -/

/-- `PWR_STATUS` (R533). -/
def pwrStatus (q : Req) (s : State) : Done :=
  let d := (par q 0).toNat
  if !wellFormed q.params [0x3F#32] ∨ 38 < d then done s .badParam
  else if !domainHere s.variant d then done s .notPresent
  else doneW s [rd s R.pdStat d, rd s R.pdCfg d, rd s R.pdWake d, rd s R.pdWtick d, rd s R.pdLost d, rd s R.pwrStat, rd s R.pwrLimit,
    if d = 38 then 0#32 else rd s R.ivrIout d]

/-- STATE is allowed for the domain (R510). -/
def stateAllowed (d st : Nat) : Bool :=
  if d < 36 then true else if d < 38 then decide (st < 2) else decide (st = 0)

/-- A shore is in use (R534): a lane of its quads has role PCIE, belongs to a joined Lace port or serves an enabled MAC. -/
def shoreInUse (s : State) (d : Nat) : Bool :=
  (List.range 16).any fun i =>
    let n := (d - 20) * 16 + i
    laneHere s.variant n && (decide (laneRole s n = 3) || !(macsOf s n).isEmpty ||
      (match lanePort s n with | some p => portJoined s p | none => false))

/-- An HBM PHY is in use (R534): a region of the partition lies in its stack. -/
def hbmInUse (s : State) (d : Nat) : Bool :=
  s.hbmPart.any fun r => decide (r.base < 0x2000 * (d - 17)) && decide (0x2000 * (d - 18) < r.base + r.size)

/-- The transition that a `PWR_DOMAIN_SET` asks for, the domain at rest or asleep. -/
def commandState (s : State) (d st : Nat) (hold slow : Bool) : State :=
  let s1 := setDom (holdSync (setPd s d 8 8 (b2n hold))) d fun x => { x with waitRet := false }
  match pdState s d with
  | 0 | 1 =>
    if st < 2 then (if st = pdState s d then s1 else rest s1 d st)
    else if st = 2 ∧ pdState s d = 1 ∧ busy s d then setDom s1 d fun x => { x with waitRet := true, slow := slow }
    else startEntry s1 d (decide (st = 3)) slow false
  | 2 =>
    if st = 2 then setExcl s1 d true
    else if st = 3 then
      ivrLeaves (bump (rest (setDom (loseOff s1 d) d fun x => { x with excl := true, brown := false }) d 3) R.pdCount d 1 1) d 2
    else if st = 0 then startExit s1 d 4
    else setPd (setPd (startExit s1 d 4) d 5 5 1) d 7 6 1
  | _ =>
    if st = 3 then setExcl s1 d true
    else if st = 0 then startExit s1 d 4
    else setPd (setPd (startExit s1 d 4) d 5 5 1) d 7 6 st

/-- `PWR_DOMAIN_SET` (R534). -/
def pwrDomainSet (q : Req) (s : State) : Done :=
  let w := par q 0
  let d := fld w 5 0
  let st := fld w 7 6
  let hold := bit w 8
  let slow := bit w 9
  let loaded := bit w 10
  if !wellFormed q.params [0x7FF#32] ∨ 38 < d then done s .badParam
  else if !domainHere s.variant d then done s .notPresent
  else if !stateAllowed d st || (loaded && decide (st ≠ 0)) then done s .badParam
  else if st = 2 ∧ hot s d then done s .state
  else if (20 ≤ d ∧ d < 36 ∧ 2 ≤ st ∧ shoreInUse s d) ∨ ((d = 18 ∨ d = 19) ∧ st = 3 ∧ hbmInUse s d) then done s .state
  else
    let s1 := if loaded then holdSync (setPd s d 9 9 0) else s
    if pdState s1 d = 4 ∧ st = 0 ∧ abortable s1 d then done (wakeDomain (setPd s1 d 8 8 (b2n hold)) d 4) .ok
    else if pdState s1 d = 4 ∨ pdState s1 d = 5 then done (pend s1 d st 4 hold slow) .deferred
    else done (commandState s1 d st hold slow) .ok

/-- `PWR_LIMIT_SET` (R535). -/
def pwrLimitSet (q : Req) (s : State) : Done :=
  let lim := fld (par q 0) 15 0
  let win := fld (par q 0) 31 16
  if q.params.length ≠ 1 ∨ lim < 500 ∨ 10 * tdp s.variant < lim ∨ win < 100 ∨ 10000 < win then done s .badParam
  else done (wr s R.pwrLimit 0 0 (par q 0)) .ok

/-- `PD_CFG` bits [19:0] of a domain written as far as its states support them (R532). -/
def writePdCfg (s : State) (w : W32) (d : Nat) : State :=
  wr s R.pdCfg d 0 (((rd s R.pdCfg d &&& 0x00300000#32) ||| (w &&& 0x000FFFFF#32)) &&& R.pdCfgMask d)

/-- `PWR_IDLE_CONFIG` (R536).
DEDUCED, safe: log entry 96. -/
def pwrIdleConfig (q : Req) (s : State) : Done :=
  let d := (par q 0).toNat
  let w := par q 1
  let w2 := par q 2
  let ds := if d = 63 then (List.range 16).filter (benchHere s.variant) else [d]
  if !wellFormed q.params [0x3F#32, 0xFFFFF#32, 0xFFFF#32] ∨ (38 < d ∧ d ≠ 63) then done s .badParam
  else if d ≠ 63 ∧ !domainHere s.variant d then done s .notPresent
  else if (d ≠ 63 ∧ !hasLow d ∧ (bit w 17 || bit w 18 || bit w 19)) ∨ (w2 ≠ 0 ∧ fld w2 15 8 = 0) then done s .badParam
  else
    let s1 := ds.foldl (fun t k => writePdCfg t w k) s
    done (if w2 = 0 then s1 else wr s1 R.pwrCfg 0 0 w2) .ok

/-- HOSTCAP set and OCLATCH cleared (R537). -/
def setHostCap (s : State) (cap d : Nat) : State :=
  let s1 := wrB s R.pdStat d 0 17 false
  if d < 18 then syncFit (wrF s1 R.pdCfg d 0 21 20 cap) d else s1

/-- `PWR_FIT_CAP` (R537). -/
def pwrFitCap (q : Req) (s : State) : Done :=
  let d := fld (par q 0) 5 0
  let cap := fld (par q 0) 7 6
  if !wellFormed q.params [0xFF#32] ∨ (37 < d ∧ d ≠ 63) ∨ (18 ≤ d ∧ d ≠ 63 ∧ cap ≠ 3) then done s .badParam
  else if d ≠ 63 ∧ !domainHere s.variant d then done s .notPresent
  else done ((if d = 63 then fitDomains s else [d]).foldl (fun t k => setHostCap t cap k) s) .ok

/-- `FENCE_TIMEOUT` (R361): FENCE_TMO passed before the fence completed. -/
def execFenceTimeout (d : Fin 37) (s : State) : Host.Outcome State Fault Refusal :=
  .next (if fnState s d.val = 1 ∨ fnState s d.val = 2 then
      fenceFailed (bump (raise (fenceGiveUp s d.val) E.fn 0 1) R.fnCount 0 1 1) d.val
    else s)

/-- A request to a draining domain with WOP_EN abandons the fence (R360); the abandoned entry is recorded with CAUSE PACKET. -/
def fenceAbort (s : State) (d : Nat) : State :=
  let s1 := raise (fenceGiveUp s d) E.fn 0 2
  if pdState s1 d = 4 then abandon s1 d 3 else s1

/-- `FENCE_REQUEST` (R359): REQ is set for a domain. -/
def execFenceRequest (d : Fin 39) (s : State) : Host.Outcome State Fault Refusal := .next (fenceRequest s d.val)

/-- `FENCE_DRAIN_END` (R359). -/
def execFenceDrainEnd (d : Fin 37) (s : State) : Host.Outcome State Fault Refusal := .next (fenceDrainEnd s d.val)

/-- `FENCE_MSG_RX` (R359). -/
def execFenceMsgRx (n : Fin 40) (d : Fin 37) (s : State) : Host.Outcome State Fault Refusal := .next (fenceMsgRx s n.val d.val)

/-- `FENCE_ACK_RX` (R359, R362): the acknowledgement of a FENCE, or of an UNFENCE. -/
def execFenceAckRx (n : Fin 40) (d : Fin 37) (s : State) : Host.Outcome State Fault Refusal := .next (fenceAckRx s n.val d.val)

/-- A FENCED domain begins to leave that state (R362): WAKING, and the power manager restores it. One whose power state is RUN or
IDLE is ready; one asleep begins its exit, one that enters a low-power state leaves it, as for a command (R523, R530).
DESIGN CHOICE, unsafe: log entry 149. -/
def unfenceStart (s : State) (d : Nat) : State :=
  if fnState s d ≠ 3 ∧ fnState s d ≠ 4 then s
  else
    let s1 := unfenceRequest s d
    if awake s1 d then unfence s1 d else wakeDomain s1 d 4

/-- A write of `FN_CTL_d` (R361, R363, R368): WOP_EN where the bit exists, then REQ. -/
def fnCtlWrite (s : State) (d : Nat) (v : W32) : State :=
  if 37 ≤ d ∨ !domainHere s.variant d then s
  else
    let s1 := wrB s R.fnCtl 0 d 1 (bit (v &&& R.fnBits s.variant d) 1)
    if bit v 0 then fenceRequest s1 d
    else if rdB s1 R.fnCtl 0 d 0 then (if fnState s1 d = 3 then unfenceStart s1 d else wrB s1 R.fnCtl 0 d 0 false)
    else s1

/-- `UNFENCE_START` (R362). -/
def execUnfenceStart (d : Fin 37) (s : State) : Host.Outcome State Fault Refusal :=
  .next (unfenceStart s d.val)

/-- `UNFENCE_MSG_RX` (R362). -/
def execUnfenceMsgRx (n : Fin 40) (d : Fin 37) (s : State) : Host.Outcome State Fault Refusal := .next (unfenceMsgRx s n.val d.val)

end Sys2Proof.Machine
end

