-- ==== Sys2Proof/Machine/Mram.lean ====
section
/-! DEFINITION. The MRAM window: the words that the store shows at its offsets, and the words stored through it (R24, R548–R552, R560,
R594). -/

namespace Sys2Proof.Machine

/-- The eight words of a trip record (R548). -/
def tripWords (r : TripRec) : List W32 :=
  let l : List W32 := [packF [(0, 0x5452), (16, r.sensor), (22, b2n r.inj), (23, b2n r.lock)], packF [(0, r.tj)], lo32 r.ats.toNat, hi32 r.ats.toNat,
    w32 r.seq, packF [(0, r.power), (16, r.pct)], 0]
  l ++ [crc32c (wordBytes l)]

/-- The bytes of a record in its segment: header, payload, padding (R552). -/
def journalWords (r : JRec) : List W32 :=
  let l := recHeader r ++ r.payload
  l ++ List.replicate (recSize r / 4 - l.length) 0#32

/-- STATE of a segment header (R551). -/
def segStateNum : SegState → W32
  | .open_ => 1
  | .sealed => 2
  | .retired => 0xBB

/-- The words of a segment: its 64-byte header, then its records (R551). -/
def segWords (g : Seg) : List W32 :=
  let h : List W32 := [packF [(0, 0x5347), (16, 1)], w32 g.gen, w32 g.epoch, lo32 g.first, hi32 g.first]
  h ++ [crc32c (wordBytes h), segStateNum g.state, 0] ++ List.replicate 8 0#32 ++ g.recs.flatMap journalWords

/-- The words of a boot-profile slot: its header, then its packets (R560). -/
def profileWords (p : Profile) : List W32 :=
  [packF [(0, 0x4250), (16, 1)], w32 p.len, w32 p.count, p.crc] ++ List.replicate 12 0#32 ++ bytesWords (cdiv p.bytes.length 4) p.bytes

/-- The words of one copy of the identity mirror: the chain's length, then the chain (R594). -/
def mirrorWords : List W32 := w32 Config.certChain.length :: bytesWords (cdiv Config.certChain.length 4) Config.certChain

/-- What the device itself last wrote at MRAM offset o, word-aligned (R550); where it wrote nothing that the model holds, an
unspecified word.
DESIGN CHOICE, unsafe: log entry 145. -/
def mramLaid (t : Store) (o : Nat) : W32 :=
  let open_ := Config.mramWord o
  if o < 0x10000 then
    if (if o < 0x8000 then t.copy0 else t.copy1) then nth mirrorWords (o % 0x8000 / 4) open_ else open_
  else if o < 0x20000 then match assoc t.ring ((o - 0x10000) / 32) with
    | some r => nth (tripWords r) (o % 32 / 4) open_
    | none => open_
  else if o < 0x100000 then match (if o < 0x90000 then t.profA else t.profB) with
    | some p => nth (profileWords p) ((o - 0x20000) % 0x70000 / 4) open_
    | none => open_
  else match t.journal.segs.find? fun g => decide (g.idx = (o - 0x100000) / 0x10000) with
    | some g => nth (segWords g) (o % 0x10000 / 4) open_
    | none => open_

/-- The word at offset o of the MRAM window: the store lies in its first 16 MiB (R24). -/
def mramView (s : State) (o : Nat) : W32 :=
  if 0x1000000 ≤ o then 0 else (assoc s.store.raw (o / 4)).getD (mramLaid s.store (o / 4 * 4))

/-- A word stored at offset o of the MRAM window; the identity region is write-protected while IDWP is 1 (R561). A copy of the
identity mirror reads correctly only while its words stand.
DESIGN CHOICE, unsafe: log entry 145. -/
def mramWrite (s : State) (o : Nat) (v : W32) : State :=
  if 0x1000000 ≤ o ∨ (o < 0x10000 ∧ rdB s R.mrCtl 0 0 0 = true) then s
  else
    let s1 := setStore s fun t => { t with raw := putKey t.raw (o / 4) (some v) }
    let broken := decide (o < 0x10000) && decide (o % 0x8000 / 4 < mirrorWords.length) && decide (v ≠ nth mirrorWords (o % 0x8000 / 4) 0)
    if !broken then s1
    else setStore s1 fun t => if o < 0x8000 then { t with copy0 := false } else { t with copy1 := false }

end Sys2Proof.Machine
end

