-- ==== Sys2Proof/Machine/Time.lean ====
section
/-! DEFINITION. The timing unit (R25–R37, R420, R421) and the time commands (R47–R50). -/

namespace Sys2Proof.Machine

def setTim (s : State) (f : AirTime → AirTime) : State := { s with tim := f s.tim }

/-! ## The position registers (R27, R31) -/

/-- The slot of the frame and the symbol of the slot at x Tc into the frame. -/
def slotSym (mu x : Nat) : Nat × Nat :=
  let half := x / tcHalf
  let y := x % tcHalf
  let len := 140288 / 2 ^ mu
  let k := if y < len + 1024 then 0 else (y - 1024) / len
  let n := half * (7 * 2 ^ mu) + k
  (n / 14, n % 14)

/-- `AT_HFN`, `AT_FRAME`, `AT_SLOT`, `AT_SYM` of an air-time. -/
def atHfn (t : Nat) : W32 := w32 (t / tcHyper)
def atFrame (t : Nat) : W32 :=
  let x := t % tcFrame
  packF [(0, t / tcFrame % 1024), (10, x / tcSubframe), (14, x / tcTick)]
def atSlot (t : Nat) : W32 :=
  let x := t % tcHyper % tcFrame
  packF [(0, (slotSym 0 x).1), (4, (slotSym 1 x).1), (9, (slotSym 2 x).1), (15, (slotSym 3 x).1)]
def atSym (t : Nat) : W32 :=
  let x := t % tcHyper % tcFrame
  packF [(0, (slotSym 0 x).2), (4, (slotSym 1 x).2), (8, (slotSym 2 x).2), (12, (slotSym 3 x).2)]

/-- What an initiator's reads of the captured registers return, by offset in the timing shell: 0 before its first capture. -/
def captureView (s : State) (who off : Nat) : W32 :=
  match assoc s.tim.captures who with
  | none => 0
  | some (a, o) =>
    let t := a.toNat / 4 * 4
    match off with
    | 0x48 => lo32 t | 0x4C => hi32 t | 0x50 => o | 0x54 => atHfn a.toNat | 0x58 => atFrame a.toNat
    | 0x5C => atSlot a.toNat | 0x60 => atSym a.toNat | 0x64 => lo32 (a.toNat / tcTick) | 0x68 => hi32 (a.toNat / tcTick)
    | _ => 0

/-- `ATS_CAPTURE_READ` (R31): the instant is captured for the reading initiator alone. -/
def execAtsCaptureRead (who : Nat) (s : State) : Host.Outcome State Fault Refusal :=
  .next (setTim s fun t => { t with captures := putKey t.captures who (some (s.ats, rd s R.atsOffset)) })

/-! ## The timing state machine (R32–R35) -/

/-- `AT_STAT`.REF: 0 none, 1 Hoist, 2 1PPS, 3 PTP. -/
def refInUse (s : State) : Nat := rdF s R.atStat 0 0 4 3

/-- Reference r (bit order of REF_EN) is qualified and enabled. -/
def refGood (s : State) (r : Nat) : Bool := rdB s R.atStat 0 0 (5 + r) && rdB s R.atCtl 0 0 r

/-- The phase reference that R32 selects, as a REF code; 0 where none is qualified and enabled. -/
def bestRef (s : State) : Nat :=
  if refGood s 0 then 1 else if refGood s 1 then 2 else if refGood s 2 then 3 else 0

def setTimState (s : State) (n : Nat) : State :=
  setTim (wrF s R.atStat 0 0 2 0 n) fun t => { t with overN := 0, underN := 0, reached := t.reached || decide (n = 2) || decide (n = 3) }

/-- 1 µs is 1,966.08 Tc.
DEDUCED, safe: log entry 10. -/
def underMicro (e : Int) : Bool := decide (e.natAbs ≤ 1966)

/-- HOLD_LIM is live: the estimate, where it is known, is above the limit. An unknown estimate, 0xFFFF_FFFF as in FREE, is above
no limit: in ACQUIRE and OFFSET_HELD reached from FREE, and in a HOLDOVER before its first estimate, HOLD_LIM reads 0.
DESIGN CHOICE, unsafe: log entry 120. -/
def syncHoldLim (s : State) : State :=
  wrB s R.atStat 0 0 12 (s.tim.estKnown && decide ((rd s R.atHoldLim).toNat < (rd s R.atHoldErr).toNat))

/-- FREQ_ASSIST: a qualified, enabled SyncE holds the frequency in HOLDOVER (R32). -/
def syncAssist (s : State) : State := wrB s R.atStat 0 0 9 (decide (timState s = 4) && refGood s 3)

/-- Set STEP_REQ; its event is raised as it goes from 0 to 1. -/
def setStepReq (s : State) : State :=
  if rdB s R.atStat 0 0 10 then s else raise (wrB s R.atStat 0 0 10 true) E.tim 0 4

/-- Enter LOCKED: the holdover estimate reads 0, no step is needed. -/
def enterLocked (s : State) : State :=
  syncHoldLim (setTim (wr (wrB (setTimState s 2) R.atStat 0 0 10 false) R.atHoldErr 0 0 0) fun t => { t with estKnown := true })

/-- Enter ACQUIRE on a reference. -/
def enterAcquire (s : State) (ref : Nat) : State :=
  raise (wrF (setTimState s 1) R.atStat 0 0 4 3 ref) E.tim 0 1

/-- Leave every reference: HOLDOVER where LOCKED or OFFSET_HELD was reached since reset, else FREE. E0 is the magnitude of the
last phase error measured. `AT_HOLD_ERR` keeps its value until the estimate's first update, one second later (R35).
DESIGN CHOICE, unsafe: log entry 121. -/
def leaveRef (s : State) : State :=
  let s1 := wr (wrF s R.atStat 0 0 4 3 0) R.atPhaseErr 0 0 0
  if s.tim.reached then raise (setTim (setTimState s1 4) fun t => { t with e0 := t.lastErr, held := 0, estOver := false }) E.tim 0 2
  else setTim (wr (setTimState s1 0) R.atHoldErr 0 0 0xFFFFFFFF#32) fun t => { t with estKnown := false }

/-- The transitions of R34 that follow from which references are qualified and enabled. -/
def considerRefs (s : State) : State :=
  let best := bestRef s
  let s1 :=
    if timState s = 0 ∨ timState s = 4 then (if best = 0 then s else enterAcquire s best)
    else if refGood s (refInUse s - 1) then s
    else
      let s0 := raise s E.tim 0 0
      if best = 0 then leaveRef s0 else enterAcquire s0 best
  syncHoldLim (syncAssist s1)

/-- Four theta values in a row agree within 2 ns, which is 3.93 Tc (R463).
DEDUCED, safe: log entry 95. -/
def thetasAgree (l : List Int) : Bool :=
  decide (l.length = 4) && l.all fun a => l.all fun b => decide (a - b ≤ 3)

/-- The Hoist can be qualified (R33, R463): the device is a joined member with an upstream in the tree, ERR_EST is within
HOIST_LIM, and four theta values in a row agree. -/
def hoistGood (s : State) : Bool :=
  joined s && decide (rdF s R.ldHerr 0 0 15 0 ≤ rdF s R.ldCfg 0 0 15 0) && decide (rdF s R.ldHoist 0 0 3 0 ≠ 15) &&
  (List.range 32).any fun p => rdB s R.lcStat p 0 3 && thetasAgree ((assoc s.lace.ports p).getD LPort.reset).thetas

/-- PTP runs (R418, R435): a profile is set and one of its ports, a MAC, is UP. -/
def ptpRuns (s : State) : Bool :=
  let p := s.host.ptp
  decide (fld (nth p 0 0#32) 1 0 ≠ 0) &&
    (List.range 128).any fun m => bit (nth p (1 + m / 32) 0#32) (m % 32) && rdB s R.macStat m 0 0

/-- The conditions of R33 that the device itself can test: the Hoist's, four good 1PPS edges, PTP in use on a MAC that is UP (R418),
for SyncE track RC0 with a source lane and not in HOLD (R419). -/
def mayQualify (s : State) (r : Nat) : Bool :=
  if r = 0 then hoistGood s else if r = 1 then decide (4 ≤ s.tim.edges) else if r = 2 then ptpRuns s
  else rdB s R.rclkSel 0 0 8 && !rdB s R.rclkSel 0 0 9

/-- A reference is marked qualified and may be selected (R33); the Hoist in `LD_HOIST` too. -/
def qualifyRef (s : State) (r : Nat) : State :=
  considerRefs (wrB (if r = 0 then wrB s R.ldHoist 0 0 9 true else s) R.atStat 0 0 (5 + r) true)

/-- A lock of the PTP servo may bring the count of leap seconds (R47); whether it does, and its value, are free.
DESIGN CHOICE, safe: log entry 122. -/
def ptpLeaps (s : State) : State :=
  let (f, s1) := drawFree s
  if f.getLsbD 8 then setTim s1 fun t => { t with leaps := some (BitVec.ofNat 8 f.toNat) } else s1

/-- `REF_QUALIFY` (R33).
DESIGN CHOICE, unsafe: log entry 5. -/
def execRefQualify (r : Fin 4) (s : State) : Host.Outcome State Fault Refusal :=
  .next (if !mayQualify s r.val then s
    else if r.val = 2 then ptpLeaps (qualifyRef s 2) else qualifyRef s r.val)

/-- A reference is lost (R33). -/
def loseRef (s : State) (r : Nat) : State :=
  let s1 := wrB (if r = 0 then wrB s R.ldHoist 0 0 9 false else s) R.atStat 0 0 (5 + r) false
  considerRefs (if r = 1 then setTim s1 fun t => { t with edges := 0 } else s1)

/-- `REF_LOST` (R33): for 1PPS two edges in a row must have been missed. -/
def execRefLost (r : Fin 4) (s : State) : Host.Outcome State Fault Refusal :=
  .next (if r.val = 1 ∧ s.tim.missed < 2 then s else loseRef s r.val)

/-- `PPS_EDGE_MISSED` (R33). -/
def execPpsEdgeMissed (s : State) : Host.Outcome State Fault Refusal :=
  .next (raise (setTim s fun t => { t with missed := t.missed + 1, edges := 0, todFresh := none }) E.tim 0 8)

/-- `FREQ_SETTLED` (R34): from ACQUIRE to LOCKED or OFFSET_HELD, by the last phase error. -/
def execFreqSettled (s : State) : Host.Outcome State Fault Refusal :=
  .next (if timState s ≠ 1 then s
    else if underMicro (sext 32 (rd s R.atPhaseErr).toNat) then enterLocked s
    else setStepReq (setTimState s 3))

/-- A phase error as `AT_PHASE_ERR` holds it. -/
def satErr (e : Int) : W32 := w32 (wrapTo 32 (clampI (-(2 ^ 31 - 1 : Int)) (2 ^ 31 - 1) e))

/-- The timing unit takes a phase error in Tc and the frequency of `OSC_IN` in 0.001 ppb (R34).
DESIGN CHOICE, unsafe: log entry 8. -/
def phaseMeasured (s : State) (err : Int) (freq : W32) : State :=
  if refInUse s = 0 then s else
    let s1 := setTim (wr (wr s R.atPhaseErr 0 0 (satErr err)) R.atFreqOff 0 0 freq) fun t => { t with lastErr := err.natAbs }
    match timState s with
    | 2 =>
      if underMicro err then setTim s1 fun t => { t with overN := 0 }
      else if s.tim.overN + 1 < 3 then setTim s1 fun t => { t with overN := t.overN + 1 }
      else setStepReq (setTimState s1 3)
    | 3 =>
      if !underMicro err then setTim s1 fun t => { t with underN := 0 }
      else if s.tim.underN + 1 < 3 then setTim s1 fun t => { t with underN := t.underN + 1 }
      else enterLocked s1
    | _ => s1

/-- `PHASE_MEASUREMENT` (R34). -/
def execPhaseMeasurement (err : Int) (freq : W32) (s : State) : Host.Outcome State Fault Refusal :=
  .next (phaseMeasured s err freq)

/-- `REVERT_HOLDOFF_EXPIRY` (R34): the unit switches to the higher-ranked reference r, unless REVERT_S is 0. -/
def execRevertHoldoffExpiry (r : Fin 3) (s : State) : Host.Outcome State Fault Refusal :=
  .next (if (timState s = 2 ∨ timState s = 3) ∧ rdF s R.atCtl 0 0 15 8 ≠ 0 ∧ r.val + 1 < refInUse s ∧ refGood s r.val
    then syncHoldLim (enterAcquire s (r.val + 1)) else s)

/-- The estimate in ns, rounded down, and whether it is inexact. The three terms are taken high 30,720 × 172,800,000.
DESIGN CHOICE, safe: log entry 9. -/
def holdEst (e0 fu age t : Nat) (assist : Bool) : Nat × Bool :=
  let den := 30720 * 172800000
  let num := 15625 * 172800000 * e0 + 30720 * 172800 * (fu * t) + (if assist then 0 else 30720 * (age * t * t))
  (num / den, decide (num % den ≠ 0))

/-- `HOLDOVER_ESTIMATE_UPDATE` (R35): HOLD_LIMIT is raised as the estimate comes to exceed the limit. The manual does not say how
the estimate is rounded to ns: a free value. -/
def execHoldoverEstimateUpdate (s : State) : Host.Outcome State Fault Refusal :=
  .next (if timState s ≠ 4 then s else
    let t := s.tim.held + 1
    let (n, inexact) := holdEst s.tim.e0 (rdF s R.atHoldCfg 0 0 15 0) (rdF s R.atHoldCfg 0 0 31 16) t (rdB s R.atStat 0 0 9)
    let (f, s1) := drawFree (setTim s fun a => { a with held := t })
    let est := if inexact && f.getLsbD 0 then n + 1 else n
    let lim := (rd s R.atHoldLim).toNat
    let high := decide (lim ≠ 0) && decide (lim < est)
    let s2 := setTim (wr s1 R.atHoldErr 0 0 (w32 (satU 32 est))) fun a => { a with estKnown := true, estOver := high }
    raiseIf (high && !s.tim.estOver) (syncHoldLim s2) E.tim 0 3)

/-! ## 1PPS and time of day (R420, R421) -/

/-- An injection makes the device ignore `PPS_IN` edges (R571, DID 0x1F). -/
def ppsIgnored (s : State) : Bool := s.det.armed.any fun e => decide (e.1 = 0x1F) && decide (0 < e.2.2.1)

/-- One more edge has been ignored. -/
def ppsIgnore (s : State) : State := { s with det := { s.det with armed := (s.det.armed.map fun e =>
  if e.1 = 0x1F then (e.1, e.2.1, e.2.2.1 - 1, e.2.2.2) else e).filter fun e => decide (e.1 ≠ 0x1F) || decide (0 < e.2.2.1) } }

/-- `PPS_IN_EDGE` (R420): the stamp of the edge in Tc, and whether the pulse lasts at least 100 ns.
DEDUCED, unsafe: log entry 11. -/
def execPpsInEdge (stamp : W64) (wide : Bool) (s : State) : Host.Outcome State Fault Refusal :=
  .next (if ppsIgnored s then ppsIgnore s else if wide = false then s else
    let t := wrapTo 64 ((stamp.toNat : Int) + sext 32 s.tim.ppsComp.toNat)
    let near := match s.tim.lastEdge with
      | none => false
      | some p => decide (p + tcPerSec ≤ t + 19660) && decide (t ≤ p + tcPerSec + 19660)
    let n := if s.tim.todFresh.isNone then 0 else if near then Nat.min 4 (s.tim.edges + 1) else 1
    setTim s fun a => { a with edges := n, missed := 0, lastEdge := some t, todFresh := none })

/-- The 18 bytes hold a correct message of R421 with VALID = 1. -/
def todValid (bs : List Byte) : Bool :=
  let f (i n : Nat) := ofBytes ((bs.drop i).take n)
  decide (bs.length = 18) && decide (f 0 4 = 0x0C014ED7) && decide (f 11 1 / 8 = 0) && decide (f 11 1 % 2 = 1) &&
  decide (f 12 4 = 0) && decide (f 16 2 = (crc16 ((bs.drop 2).take 14)).toNat)

/-- `TOD_MESSAGE_RX` (R421): the message, and whether its last byte arrives at least 10 ms before the next edge. -/
def execTodMessageRx (bytes : List Byte) (inTime : Bool) (s : State) : Host.Outcome State Fault Refusal :=
  .next (if todValid bytes && inTime then
      setTim s fun a => { a with todFresh := some (ofBytes ((bytes.drop 4).take 6)), leaps := some (nth bytes 10 0) }
    else s)

/-- The time-of-day message for a GPS second (R421); VALID is 0 while the timing unit is FREE. The manual does not say how
LEAP_PEND and TRACEABLE of a message sent are formed: `free` gives them.
DESIGN CHOICE, safe: log entry 12. -/
def todMessage (s : State) (sec : Nat) (free : W64) : List Byte :=
  let flags := (if timState s = 0 then 0 else 1) + 2 * (free.toNat % 4)
  let head := bytesOf 6 sec ++ [s.tim.leaps.getD 0, BitVec.ofNat 8 flags] ++ bytesOf 4 0
  let body := bytesOf 2 0x0C01 ++ head
  bytesOf 2 0x4ED7 ++ body ++ bytesOf 2 (crc16 body).toNat

/-- The seconds of the time base that `PPS_OUT` marks (R31): ATS_BASE, or ATS. -/
def ppsBase (s : State) : Nat := if rdB s R.atCtl 0 0 16 then s.ats.toNat else atsBase s

/-- A whole second is within 2 Tc: the time of a pulse (R420). -/
def ppsDue (s : State) : Bool := decide ((ppsBase s + 2) % tcPerSec ≤ 4)

/-- `PPS_OUT_PULSE` (R420): the pulse rises at a whole second, within 2 Tc. -/
def execPpsOutPulse (s : State) : Host.Outcome State Fault Refusal :=
  .next (if ppsDue s then setTim s fun a => { a with ppsOut := some ((ppsBase s + 2) / tcPerSec) } else s)

/-- The level of `PPS_OUT` (R420): high for 100 µs from the second at which it rose. -/
def ppsOutHigh (s : State) : Bool := match s.tim.ppsOut with
  | some k => decide (k * tcPerSec ≤ ppsBase s + 2) && decide (ppsBase s < k * tcPerSec + 196608)
  | none => false

/-- `TOD_TX_SEND` (R420): the message for the next edge. -/
def execTodTxSend (s : State) : Host.Outcome State Fault Refusal :=
  let (f, s1) := drawFree s
  .next (setTim s1 fun a => { a with todOut := some (todMessage s (ppsBase s / tcPerSec + 1) f) })

/-! ## Time commands (R47–R50) -/

/-- `TIME_STATUS` (R47). -/
def timeStatus (q : Req) (s : State) : Done :=
  if q.params.length ≠ 0 then done s .badParam
  else
    let (k, h) := match pendingStep s with
      | none => (0#32, 0#32)
      | some c => (nth c.params 0 0#32, c.w1)
    doneW s [rd s R.atStat, lo32 s.ats.toNat, hi32 s.ats.toNat, rd s R.atPhaseErr, rd s R.atFreqOff, rd s R.atHoldErr, k, h,
      s.tim.lastDelta, match s.tim.leaps with
        | none => 0#32
        | some l => packF [(0, l.toNat), (8, 1)]]

/-- This device is the acting masthead (R33, R438). -/
def isMasthead (s : State) : Bool := decide (rdF s R.ldId 0 0 20 19 = 2)

/-- `TIME_REF_CONFIG` (R48). -/
def timeRefConfig (q : Req) (s : State) : Done :=
  if !wellFormed q.params [0x0001FF0F#32, 0xFFFFFFFF#32, 0xFFFFFFFF#32, 0xFFFFFFFF#32] then done s .badParam
  else
    let w0 := if isMasthead s then setBit (par q 0) 0 false else par q 0
    let s1 := wr (wr (wr s R.atCtl 0 0 w0) R.atHoldCfg 0 0 (par q 1)) R.atHoldLim 0 0 (par q 2)
    done (considerRefs (setTim s1 fun t => { t with ppsComp := par q 3 })) .ok

/-- The signed 64-bit VALUE of `TIME_STEP`. -/
def stepValue (ps : List W32) : Int := sext 64 (pair64 (nth ps 3 0#32) (nth ps 4 0#32))

/-- Δ of a step of kind DELTA or OFFSET as things stand; for ALIGN minus the phase error. -/
def stepDelta (s : State) (ps : List W32) (err : Int) : Int :=
  match fld (nth ps 0 0#32) 1 0 with
  | 0 => stepValue ps
  | 1 => -err
  | _ => stepValue ps - offsetNow s

/-- The `BAD_PARAM` cases of R49. -/
def stepBad (s : State) (ps : List W32) : Bool :=
  let w := nth ps 0 0#32
  let kind := fld w 1 0
  let b0 := nth ps 1 0#32
  let b1 := nth ps 2 0#32
  let v := stepValue ps
  decide (ps.length ≠ 5) || !onlyBits w 3#32 || decide (kind = 3) || decide (fld b0 1 0 ≠ 2) || bndFault s b0 b1 ||
  (if kind = 1 then decide (v ≠ 0)
   else decide (stepDelta s ps 0 = 0) || decide ((boundary b0 b1 : Int) + stepDelta s ps 0 < 0) ||
     (decide (kind = 2) && decide (v ≠ sext 32 (nth ps 3 0#32).toNat)))

/-- The status of a `TIME_STEP` before its boundary test (R49); `domain` where it is the inner command of a domain commit. -/
def stepCheck (s : State) (ps : List W32) (domain : Bool) : Status :=
  let kind := fld (nth ps 0 0#32) 1 0
  if stepBad s ps then .badParam
  else if refInUse s = 1 ∧ kind ≠ 1 ∧ domain = false then .notPermitted
  else if (pendingStep s).isSome ∨ (kind = 1 ∧ refInUse s = 0) then .state
  else .ok

/-- `TIME_STEP` accepted (R40): every commit for a later boundary is refused with `LATE`. Answers how many. -/
def stepAccepted (s : State) (h : Nat) : State × Nat :=
  let later := s.pn.commits.filter fun c => decide (h < c.bnd)
  let s1 := refuseAll s .late later
  (raiseIf (!later.isEmpty) s1 E.tim 0 7, later.length)

/-- `TIME_STEP` (R49). -/
def timeStep (q : Req) (domain : Bool) (s : State) : Done :=
  match stepCheck s q.params domain with
  | .ok =>
    let c := mkCommit 0x0703 q (par q 1) (par q 2) domain
    match stage s c with
    | (s1, .ok) =>
      let (s2, n) := stepAccepted s1 c.bnd
      doneW (wrB s2 R.atStat 0 0 11 true) [w32 n]
    | (_, st) => done s st
  | st => done s st

/-- Remove the pending step. -/
def dropStep (s : State) : State :=
  wrB (setPn s fun p => { p with commits := p.commits.filter fun c => decide (c.opcode ≠ 0x0703) }) R.atStat 0 0 11 false

/-- `TIME_STEP_CANCEL` (R50). -/
def timeStepCancel (q : Req) (s : State) : Done :=
  if q.params.length ≠ 0 then done s .badParam
  else match pendingStep s with
    | none => done s .state
    | some c => if passed s c.bnd then done s .late else done (dropStep s) .ok

/-- A 32-bit tick t, ahead at tick `a`, lies in the ticks that a step from `a` to `b` skips (R41). -/
def skippedTick (a b t : Nat) : Bool :=
  let d := (t + 2 ^ 32 - a % 2 ^ 32) % 2 ^ 32
  decide (1 ≤ d) && decide (d < 2 ^ 31) && decide (a + d ≤ b)

/-- The entries keyed to ticks that a forward step from tick a to tick b skips count as reached (R41). A step of fewer than 2^31
ticks leaves them behind the present tick, where R29 sees them as reached; after a longer one they are marked.
DEDUCED, safe: log entry 123. -/
def skipFar (s : State) (a b : Nat) : State :=
  if b < a + 2 ^ 31 then s
  else { s with
    cord := { s.cord with
      tasks := s.cord.tasks.map fun e => (e.1, { e.2 with
        pastRel := e.2.pastRel || skippedTick a b e.2.release, pastDl := e.2.pastDl || skippedTick a b e.2.deadline }),
      early := s.cord.early.map fun e => { e with past := e.past || skippedTick a b e.rtick } },
    cores := s.cores.map fun e => (e.1, if skippedTick a b e.2.tickcmp.toNat then { e.2 with ipend := setBit e.2.ipend 0 true } else e.2) }

/-- A step takes effect (R40, R41, R49): `err` is the phase error measured at H.
DESIGN CHOICE, unsafe: log entry 14. -/
def applyStep (s : State) (c : Commit) (err : Int) : State :=
  let kind := fld (nth c.params 0 0#32) 1 0
  let s0 := dropStep s
  if kind = 1 ∧ refInUse s = 0 then raise s0 E.tim 0 6
  else
    let d := stepDelta s c.params err
    let s1 := if kind = 2 then wr s0 R.atsOffset 0 0 (nth c.params 3 0#32) else s0
    let bar := if d < 0 then Nat.max s.tim.barTo s.ats.toNat else s.tim.barTo
    let s2 := { s1 with ats := BitVec.ofNat 64 (wrapTo 64 ((s.ats.toNat : Int) + d)) }
    let s3 := setTim (skipFar s2 (tickNow s) (tickNow s2)) fun t =>
      { t with lastDelta := w32 (wrapTo 32 (satS 32 d)), barTo := bar, skipFrom := if 0 ≤ d then tickNow s else 0,
               skipTo := if 0 ≤ d then tickNow s2 else 0 }
    let s4 := raise s3 E.tim 0 5
    let s5 := if timState s4 = 3 then setTimState (wrB s4 R.atStat 0 0 10 false) 1 else s4
    if c.note then emitCommit s5 c.opcode c.tag c.stream c.w0 c.w1 .ok else s5

end Sys2Proof.Machine
end

