-- ==== Sys2Proof/Machine/Views.lean ====
section
/-! DEFINITION. Registers and tables that only show other state: the Cordwainer's tables, the Pennant queues, the HBM partition,
the readouts of the shells (R203, R262, R284, R285, R287, R305, R394, R509). -/

namespace Sys2Proof.Machine

/-- `MAC_STAT` as read (R430): HI_BER, LFAULT and RFAULT are what the line shows at that instant.
DESIGN CHOICE, safe: log entry 146. -/
def macStatView (s : State) (m : Nat) : W32 :=
  if rdB s R.macCfg m 0 7 then rd s R.macStat m ||| (Config.macLine m s.ats s.freeCtr &&& 0x38#32) else rd s R.macStat m

/-! ## The Cordwainer (R284, R285, R287, R305) -/

/-- Descriptors in use, fan-out nodes included. -/
def liveCount (s : State) : Nat := listSum (s.cord.tasks.map fun e => 1 + e.2.nodes.length)

/-- Entries in delay list k. -/
def dlistLen (s : State) (k : Nat) : Nat := (s.cord.tasks.filter fun e => decide (e.2.st = .delay) && decide (e.2.dlist = k)).length

def cwDlist (s : State) (k : Nat) : W32 := packF [(0, satU 16 (dlistLen s (2 * k))), (16, satU 16 (dlistLen s (2 * k + 1)))]

/-- READY tasks of a class. -/
def readyCount (s : State) (c : Nat) : Nat := (s.cord.tasks.filter fun e => decide (e.2.st = .ready) && decide (e.2.cls = c)).length

def stateCode : TState → Nat
  | .free => 0 | .wait => 1 | .delay => 2 | .ready => 3 | .staged => 4 | .run => 5 | .erase => 6

/-- Word k of a task descriptor (R284). -/
def taskWord (t : Task) (k : Nat) : W32 := match k with
  | 0 => packF [(0, t.cls), (6, t.prio), (9, t.flow), (22, t.dep), (30, t.late)]
  | 1 => w32 t.release
  | 2 => w32 t.deadline
  | 3 => packF [(0, t.bench), (4, t.aff), (6, t.unit), (13, b2n t.unitV), (14, b2n t.half), (15, Nat.min 6 t.succ.length),
      (18, b2n (!t.nodes.isEmpty)), (19, stateCode t.st), (22, t.instat), (24, b2n t.onfail), (25, b2n t.skipped), (26, b2n t.laterel),
      (27, b2n t.missed)]
  | 4 => lo32 t.param
  | 5 => hi32 t.param
  | 6 => packF [(0, t.pattern), (10, t.tmpl)]
  | 7 => w32 t.inum
  | 14 => packF [(0, t.cell), (16, t.alt), (27, b2n t.altV)]
  | 15 => packF [(0, t.nodes.headD 0), (17, t.entry)]
  | _ => w32 (nth (t.succ.take 6) (k - 8) 0)

/-- Word k of fan-out node j of a task (R285). -/
def nodeWord (t : Task) (j k : Nat) : W32 :=
  let l := (t.succ.drop (6 + 14 * j)).take 14
  match k with
  | 0 => packF [(0, 63), (6, l.length)]
  | 15 => packF [(0, nth t.nodes (j + 1) 0), (17, b2n (decide (j + 1 < t.nodes.length)))]
  | _ => w32 (nth l (k - 1) 0)

/-- Word k of a FREE descriptor: SKIPPED of the task that it held last stays readable (R284, R286); what its other fields read
the manual does not say, and here they read 0.
DESIGN CHOICE, unsafe: log entry 148. -/
def freeWord (s : State) (i k : Nat) : W32 := if k = 3 ∧ s.cord.skips.contains i = true then packF [(25, 1)] else 0

/-- Word k of descriptor i: a task, a fan-out node, or that of a FREE one. -/
def descWord (s : State) (i k : Nat) : W32 := match taskOf s i with
  | some t => taskWord t k
  | none => match s.cord.tasks.find? fun e => e.2.nodes.contains i with
    | some e => nodeWord e.2 (e.2.nodes.length - (e.2.nodes.dropWhile fun n => decide (n ≠ i)).length) k
    | none => freeWord s i k

/-- Word k of instance record r (R287). -/
def instWord (s : State) (r k : Nat) : W32 := match s.cord.insts.find? fun e => decide (e.2.num % 16384 = r) with
  | none => 0
  | some (_, x) => match k with
    | 0 => w32 x.num
    | 1 => packF [(0, x.cell), (16, x.pattern), (26, 1), (27, b2n x.defreq)]
    | 2 => w32 x.slot
    | 3 => w32 x.live
    | 4 => lo32 x.req
    | 5 => hi32 x.req
    | 6 => match x.ring with
      | some (r, e) => packF [(0, e), (17, r)]
      | none => 0
    | _ => 0

def cellCode : CellState → Nat
  | .starting => 1 | .active => 2 | .stopping => 3

/-- Word k of cell table entry h (R305). -/
def cellWord (s : State) (h k : Nat) : W32 := match s.cord.cells.find? fun c => decide (c.h = h) with
  | none => 0
  | some c => match k with
    | 0 => packF [(0, cellCode c.st), (2, c.mu), (4, c.ring), (10, c.home)]
    | 1 => w32 c.lead
    | 2 => w32 c.live
    | _ => 0

/-- The word at byte offset o of the on-die pattern store. -/
def storeWord (s : State) (o : Nat) : W32 :=
  match s.cord.pats.find? fun e => !e.2.inHbm && decide (e.2.place ≤ o) && decide (o < e.2.place + e.2.bytes) with
  | some (_, p) => nth p.image ((o - p.place) / 4) 0
  | none => 0

/-- A word of the Cordwainer's tables and registers that shows other state, by offset; none where the register file has it. -/
def cordView (s : State) (o : Nat) : Option W32 :=
  if o < 0x800000 then some (descWord s (o / 64) (o % 64 / 4))
  else if o < 0xC00000 then some (storeWord s (o - 0x800000))
  else if o < 0xC80000 then some (instWord s ((o - 0xC00000) / 32) (o % 32 / 4))
  else if o < 0xC90000 then some (cellWord s ((o - 0xC80000) / 32 + 1) (o % 32 / 4))
  else if o = 0xD00000 then some (w32 (liveCount s))
  else if o = 0xD00008 then some (w32 s.cord.insts.length)
  else if o = 0xD0000C then some (cwDlist s 0)
  else if o = 0xD00010 then some (cwDlist s 1)
  else if o = 0xD00014 then some (w32 s.cord.early.length)
  else if 0xD00100 ≤ o ∧ o < 0xD00140 then some (w32 (readyCount s ((o - 0xD00100) / 4)))
  else none

/-! ## Pennant (R509) -/

/-- `PN_STAT`: the streams with a command executing, and FW_UP. -/
def pnStatView (s : State) : W32 :=
  (List.range 11).foldl (fun w k => setBit w k (s.pn.held.any fun h => decide (h.req.stream.val = k))) (rd s R.pnStat)

/-- `PN_PEND`. -/
def pnPendView (s : State) : W32 := w32 (Nat.min 4096 (listSum (s.pn.commits.map commitWeight)))

/-- `PN_EVQ`. -/
def evqView (s : State) : W32 :=
  packF [(0, s.pn.pcieSink.buf.length), (9, s.pn.i3cSink.buf.length), (18, s.pn.laceSink.buf.length)]

/-! ## The HBM partition and shell readouts -/

/-- Word k of partition entry n (R262). -/
def partView (s : State) (n k : Nat) : W32 := match s.hbmPart[n]? with
  | none => 0
  | some r => match k with | 0 => w32 r.base | 1 => w32 r.size | 2 => w32 r.kind | _ => 0

/-- A lane's equaliser readout (R394): an item has a value once training has set it. -/
def laneCalView (s : State) (n : Nat) : W32 :=
  let i := rdF s R.laneCalSel n 0 4 0
  match assoc s.lanes n with
  | none => 0
  | some x => match x.eq[i]? with
    | some v => if i < 18 then packF [(0, v.toNat), (16, 1)] else 0
    | none => 0

end Sys2Proof.Machine
end

