-- ==== Sys2Proof/Machine/Regs.lean ====
section
/-! DEFINITION. Register accesses by address: what a read returns and what a write changes, by the access codes (R20–R22). -/

namespace Sys2Proof.Machine

/-! ## Views: read-only registers that show other state -/

/-- Tasks staged at engine instance i of bench b (R65). -/
def occAt (s : State) (b i : Nat) : Nat := (s.cord.tasks.filter fun e =>
  decide (e.2.st = .staged) && (match e.2.site with
    | some (.bench x y) => decide (x.val = b) && decide (y.val = i)
    | _ => false)).length

/-- `DS_OCC` of bench b (R66). -/
def dsOcc (s : State) (b : Nat) : W32 := packF ((List.range 16).map fun i => (2 * i, Nat.min 3 (occAt s b i)))

/-- Requests outstanding at NI n (R356). -/
def outstOf (s : State) (n : Nat) : Nat := (s.fab.outst.filter fun o => decide (o.ni = n)).length

/-- `NI_STAT` of NI n (R368). -/
def niStatView (s : State) (n : Nat) : W32 := packF [(0, outstOf s n), (9, b2n (decide (outstOf s n = 256)))]

/-- Packets held in the wake buffer of router k (R363). -/
def wbHeld (s : State) (k : Nat) : Nat :=
  listSum (s.fab.wake.map fun e => if spineRouter e.1 = k ∧ R.spineDomain e.1 then e.2.length else 0)

/-- `Q_SUMMARY` word k of a bench: bit q set while queue q has an enabled event latched (R256). -/
def qSummary (s : State) (b k : Nat) : W32 :=
  w32 ((List.range 32).foldl (fun a i => if rd s R.qEvt b (32 * k + i) &&& rd s R.qEvtEn b (32 * k + i) = 0#32 then a else a + 2 ^ i) 0)

/-! ## Accesses -/

/-- A bench register that shows other state, by bench and offset. -/
def benchView (s : State) (b o : Nat) : Option W32 :=
  if o = 0x820000 then some (dsOcc s b)
  else if o = 0x834000 then some (qSummary s b 0)
  else if o = 0x834004 then some (qSummary s b 1)
  else if 0x830000 ≤ o ∧ o < 0x834000 ∧ o % 0x100 = 0x30 then some (w32 (queueOf s b ((o - 0x830000) / 0x100)).occ)
  else none

/-- Registers of R19 in the timing, HBM and quad shells to which the manual gives no content, by offset. -/
def bareShell (v : Variant) (o : Nat) : Bool :=
  let std (l : List Nat) (x : Nat) : Bool := l.contains x
  (decide (0x100000 ≤ o) && decide (o < 0x100040) && std [0x00, 0x04, 0x18, 0x1C, 0x20] (o % 0x100)) ||
  (decide (0x200000 ≤ o) && decide (o < 0x220000) && stackHere v ((o - 0x200000) / 0x10000) && std [0x00, 0x04, 0x08, 0x18, 0x1C, 0x20] (o % 0x10000)) ||
  (decide (0x1040000 ≤ o) && decide (o < 0x1044000) && quadHere v ((o - 0x1040000) / 0x100) && std [0x04, 0x1C, 0x20] (o % 0x100))

/-- A shell's trim readout (R532, R561). -/
def trimView (s : State) (o : Nat) : Option W32 :=
  let d := (o - 0x600000) / 0x100
  let k := (o - 0x700000) / 0x100
  if 0x600000 ≤ o ∧ o < 0x602600 ∧ o % 0x100 = 0x20 then
    some (if domainHere s.variant d then w32 (Config.trim 0 d (rdF s R.ivrCalSel d 0 3 0)).toNat else 0)
  else if 0x700000 ≤ o ∧ o < 0x704000 ∧ o % 0x100 = 0x20 then
    some (if sensorHere s.variant k then w32 (Config.trim 1 k (rdF s R.tsCalSel k 0 1 0)).toNat else 0)
  else if o = 0x780020 then
    let i := rdF s R.mrCalSel 0 0 1 0
    some (if i = 3 then 0 else packF [(0, (Config.trim 2 0 i).toNat), (16, 1)])
  else none

/-- A word of a route table (R352). -/
def routeView (s : State) (o : Nat) : Option W32 := (routeWord (0x030000000000 + o)).map fun x =>
  if niHere s.variant x.1 then (rtEntry s x.1 x.2.1).word x.2.2 else 0

/-- A register of the management area that shows other state, by offset from 0x0300_0000_0000. -/
def mgmtView (s : State) (o : Nat) : Option W32 :=
  if 0x200100 ≤ o ∧ o < 0x200180 then some (partView s ((o - 0x200100) / 16) (o % 16 / 4))
  else if 0x400000 ≤ o ∧ o < 0x500000 ∧ o % 0x10000 = 0x20 then
    some (if cmaHere s.variant ((o - 0x400000) / 0x10000) then calStatView s ((o - 0x400000) / 0x10000) else 0)
  else if 0x800000 ≤ o ∧ o < 0x850000 ∧ o % 0x2000 = 8 then
    some (if niHere s.variant ((o - 0x800000) / 0x2000) then niStatView s ((o - 0x800000) / 0x2000) else 0)
  else if 0x900000 ≤ o ∧ o < 0x902600 ∧ o % 0x100 = 0x14 then some (w32 (wbHeld s ((o - 0x900000) / 0x100)))
  else if 0x1000000 ≤ o ∧ o < 0x1040000 ∧ o % 0x400 = 0x20 then
    some (if laneHere s.variant ((o - 0x1000000) / 0x400) then laneCalView s ((o - 0x1000000) / 0x400) else 0)
  else if 0xE00000 ≤ o ∧ o < 0xE04000 ∧ portEn s ((o - 0xE00000) / 0x200) = false then some 0
  else if 0xC00000 ≤ o ∧ o < 0xC20000 ∧ o % 0x400 = 4 then
    some (if laneHere s.variant (2 * ((o - 0xC00000) / 0x400)) then macStatView s ((o - 0xC00000) / 0x400) else 0)
  else if o = 0xF00004 then some (pnStatView s)
  else if o = 0xF00008 then some (pnPendView s)
  else if o = 0xF00018 then some (evqView s)
  else if bareShell s.variant o then some (Config.shellWord (0x030000000000 + o))
  else (trimView s o).or (routeView s o)

/-- The base of the MRAM window (R24). -/
def mramBase : Nat := 0x040000000000
def inMram (a : Nat) : Bool := decide (mramBase ≤ a) && decide (a < 0x050000000000)

/-- A register or table word that shows other state; none where the register file holds it. -/
def viewAt (s : State) (a : Nat) : Option W32 :=
  if R.benB.base ≤ a ∧ a < R.benB.base + 0x10000000 then
    let b := (a - R.benB.base) / 0x1000000
    if benchHere s.variant b then benchView s b ((a - R.benB.base) % 0x1000000) else some 0
  else if 0x020000000000 ≤ a ∧ a < 0x020001000000 then cordView s (a - 0x020000000000)
  else if 0x030000000000 ≤ a ∧ a < 0x030002000000 then mgmtView s (a - 0x030000000000)
  else if inMram a then some (mramView s (a - mramBase))
  else none

/-- Router blocks, route tables and the MRAM window are readable at privilege F only (R24, R354, R368). -/
def fOnly (a : Nat) : Bool :=
  (routeWord a).isSome || (decide (R.rtB.base ≤ a) && decide (a < R.rtB.base + 0x10000)) ||
  inMram a

/-- The reader or writer acts at privilege F. -/
def privF : Writer → Bool
  | .mp => true
  | .core f => f
  | .host => false

/-! ## BAR0 (R258, R305, R337, R394, R509, R561, R603) -/

/-- The key of BAR0 offset 0: the model's own numbering of host accesses. -/
def bar0 : Nat := 0x1000000000000000

/-- The internal address that a BAR0 offset shows, with whether the window takes writes at this offset (R258, R283, R603). -/
def barTarget (o : Nat) : Option (Nat × Bool) :=
  if o < 0x100000 then some (0x030000000000 + o, decide (o = 0x14))
  else if 0x1000000 ≤ o ∧ o < 0x1001000 then some (R.srB.base + (o - 0x1000000), decide (o % 0x40 = 0x0C))
  else if 0x1010000 ≤ o ∧ o < 0x1020000 then some (R.cwB.base + (o - 0x1010000), false)
  else if 0x1020000 ≤ o ∧ o < 0x1030000 then some (R.gvB.base + (o - 0x1020000), false)
  else if 0x2000000 ≤ o ∧ o < 0x2400000 then
    some (R.benB.base + (o - 0x2000000) / 0x40000 * 0x1000000 + 0x840000 + (o - 0x2000000) % 0x40000, true)
  else if 0x2400000 ≤ o ∧ o < 0x2440000 then
    some (R.benB.base + (o - 0x2400000) / 0x4000 * 0x1000000 + 0x830000 + (o - 0x2400000) % 0x4000, decide (o % 0x100 = 0x24) || decide (o % 0x100 = 0x40))
  else if 0x4000000 ≤ o ∧ o < 0x10000000 then some (0x030000000000 + (o - 0x4000000), false)
  else none

/-- The address behind a host access in BAR0, other than the queue pairs, which stand in BAR0 only; none where BAR0 shows
nothing, and for the parts that the mirror omits or shows as 0 (R354, R368). -/
def barKey (a : Nat) : Option (Nat × Bool) :=
  if bar0 ≤ a ∧ a < bar0 + 0x10000000 ∧ !(R.qpB.base ≤ a ∧ a < R.qpB.base + 0x1000) then
    match barTarget (a - bar0) with
    | some (k, w) => if fOnly k then some (bar0 + 0x10000000, false) else some (k, w)
    | none => some (bar0 + 0x10000000, false)
  else none

/-- The internal address of an access: what BAR0 shows, or the address itself. -/
def realAddr (a : Nat) : Nat := match barKey a with
  | some (k, _) => k
  | none => a

/-- A BAR0 offset that takes no write. -/
def barDenied (a : Nat) : Bool := match barKey a with
  | some (_, ok) => !ok
  | none => false

/-- The value of the 32-bit register at address a as the views and the register file hold it; 0 where no register of a
present unit lies (R8, R59, R346).
DESIGN CHOICE, safe: log entry 33. -/
def regPeek (s : State) (a : Nat) : W32 :=
  let k := realAddr a
  match viewAt s k with
  | some v => v
  | none => match regAt k with
    | some (r, u, i) => if r.blk.here s.variant u then rd s r u i else 0
    | none => (assoc s.regs k).getD 0

/-- What a reader sees at address a: 0 below privilege F where only F may read (R354, R368). -/
def regRead (s : State) (w : Writer) (a : Nat) : W32 := if fOnly a && !privF w then 0 else regPeek s a

/-- Registers that a read clears (R20): `Q_XCNT`, and `CW_LIVE_MAX`, which then holds LIVE, the highest since that read (R305);
BAR0 shows the latter read-only. -/
def readClears (s : State) (a : Nat) : State :=
  match (if bar0 + 0x4000000 ≤ a ∨ (bar0 + 0x1000000 ≤ a ∧ a < bar0 + 0x2000000) then none else regAt (realAddr a)) with
  | none => s
  | some (r, u, i) => if r.off = R.qXcnt.off ∧ r.blk.base = R.benB.base then wr s R.qXcnt u i 0
    else if r.off = R.cwLiveMax.off ∧ r.blk.base = R.cwB.base then wr s R.cwLiveMax 0 0 (w32 (liveCount s)) else s

/-- The writer may write a register with this guard (R20, R571). -/
def mayWrite (w : Writer) (g : Guard) : Bool := decide (g = .open_) || decide (w = .mp)

/-- A DMA channel in RUN ignores writes to its descriptor address (R64). -/
def dmaLocked (s : State) (a : Nat) : Bool :=
  let b := (a - R.benB.base) / 0x1000000
  let o := (a - R.benB.base) % 0x1000000
  decide (R.benB.base ≤ a) && decide (b < 16) && decide (0x810000 ≤ o) && decide (o < 0x810400) && decide (8 ≤ o % 0x100) &&
    decide (o % 0x100 < 0x10) && decide (rdF s R.dmaStat b ((o - 0x810000) / 0x100) 2 0 = 1)

/-- A base register of a queue pair ignores writes while the pair is enabled (R424). -/
def qpBaseLocked (s : State) (a : Nat) : Bool :=
  let o := (a - R.qpB.base) % 0x40
  decide (R.qpB.base ≤ a) && decide (a < R.qpB.base + 0x1000) && qpEn s ((a - R.qpB.base) / 0x40) &&
    (decide (o < 8) || decide (o = 0x14) || decide (o = 0x18))

/-- `BOOT_PUSH` takes writes in PCIE_PUSH before READY (R586, R603). -/
def pushLocked (s : State) (a : Nat) : Bool :=
  decide (a = R.bootPush.key 0 0) && (decide (rdF s R.bootStat 0 0 4 3 ≠ 1) || decide (rdF s R.bootStat 0 0 2 0 ≠ 2))

/-- `PN_EVSINK_0` and `PN_EVSINK_7` route nothing and ignore writes (R509). -/
def sinkLocked (a : Nat) : Bool := decide (a = R.pnEvsink.key 0 0) || decide (a = R.pnEvsink.key 0 7)

/-- The bench and queue whose configuration registers (R256) hold address a, and the offset. -/
def queueReg (a : Nat) : Option (Nat × Nat × Nat) :=
  let b := (a - R.benB.base) / 0x1000000
  let o := (a - R.benB.base) % 0x1000000
  if R.benB.base ≤ a ∧ b < 16 ∧ 0x830000 ≤ o ∧ o < 0x834000 then some (b, (o - 0x830000) / 0x100, o % 0x100) else none

/-- A write to the register at address a is ignored for the state that it finds. -/
def writeLocked (s : State) (a : Nat) : Bool := dmaLocked s a || qpBaseLocked s a || pushLocked s a || sinkLocked a

/-- A write that would break R240, R241 or R253 is ignored (R256): the queue's configuration with the register at offset o
holding v. -/
def queueKeeps (s : State) (b q o : Nat) (v : W32) : Bool :=
  let cur (k : Nat) (r : Reg) : W32 := if o = k then v else rd s r b q
  let ps : List W32 := [w32 (b + 16 * q), 0, 0, cur 0x00 R.qCfg, cur 0x04 R.qBase, cur 0x08 R.qSize, cur 0x0C R.qProd, cur 0x10 R.qHi,
    cur 0x14 R.qLo, cur 0x18 R.qLevel, cur 0x1C R.qCt]
  0x20 ≤ o || (!qcRange ps && !(bit (qcWord ps 0) 0 && (List.range 64).any fun k => decide (k ≠ q) && qOn s b k &&
    qOverlap (fld (qcWord ps 1) 22 12) (fld (qcWord ps 2) 8 0) (rdF s R.qBase b k 22 12) (rdF s R.qSize b k 8 0)))

/-- r is the register x of the map. -/
def Reg.is (r x : Reg) : Bool := decide (r.blk.base = x.blk.base) && decide (r.off = x.off)

/-- Bits of item i of unit u of a register that a write does not change: `SH_CTL`.FHALT below privilege F (R152), MODE of a DMA
channel in RUN (R64), LOG2N of a queue pair that is enabled (R424). -/
def heldBits (s : State) (r : Reg) (u i : Nat) (w : Writer) : W32 :=
  if r.is R.qpCfg then (if qpEn s u then 0xF#32 else 0#32)
  else if r.blk.base ≠ R.benB.base then 0#32
  else if r.off = R.shCtl.off ∧ privF w = false then 2#32
  else if r.off = R.dmaCtl.off ∧ rdF s R.dmaStat u i 2 0 = 1 then 1#32
  else 0#32

/-- The RW and W1C bits of a write to item i of unit u of a register (R20, R22): a write that leaves an illegal value is
ignored. -/
def plainWrite (s : State) (w : Writer) (a : Nat) (r : Reg) (u i : Nat) (v : W32) : State :=
  let old := rd s r u i
  let m := r.rw &&& ~~~(heldBits s r u i w)
  let x := v &&& r.bits s.variant u i
  let nw := ((old &&& ~~~m) ||| (x &&& m)) &&& ~~~(x &&& r.w1c)
  if r.legal nw ∧ (match queueReg a with | some (b, q, o) => queueKeeps s b q o nw | none => true) = true then wr s r u i nw else s

/-- What follows at once from the new value of the register at address a: the timing unit considers its references, a queue's
live bits follow its configuration, a domain's fit level its cap. -/
def afterWrite (s : State) (a : Nat) : State :=
  if R.timB.base ≤ a ∧ a < R.timB.base + 0x100 then considerRefs (syncHoldLim s)
  else if R.pdB.base ≤ a ∧ a < R.pdB.base + 18 * 0x40 ∧ (a - R.pdB.base) % 0x40 = 0 then syncFit s ((a - R.pdB.base) / 0x40)
  else match queueReg a with
    | some (b, q, _) => syncQStat s b q
    | none => s

/-- Registers that the unit holding them takes up whole: their RW bits with what follows (R386, R391, R394, R532, R561, R570). -/
def wholeRegs : List Reg := [R.laneCtl, R.lnTest, R.laneInj, R.quadInj, R.ivrInj, R.tsInj]

/-- Registers whose W1S bits or new values their unit acts on. -/
def unitRegs : List Reg :=
  wholeRegs ++ [R.bootPush, R.dmaCtl, R.shCtl, R.cmaCtl, R.cmaInj, R.cmaBandThr, R.cmaDriftCfg, R.cmaCalCfg, R.qpCfg]

/-- Injection registers whose W1S bits stay set until they fire (R256, R368, R467, R509, R561, R570). -/
def stickyRegs : List Reg := [R.niInj, R.rtInj, R.qInj, R.lcInj, R.pnInj, R.mrInj]

/-- The Awl core whose `CORE_IPI` lies at address a (R108). -/
def ipiCore (a : Nat) : Option (Nat × Nat) :=
  let b := (a - R.benB.base) / 0x1000000
  let o := (a - R.benB.base) % 0x1000000
  if R.benB.base ≤ a ∧ b < 16 ∧ 0x880000 ≤ o ∧ o < 0x900000 ∧ o % 0x10000 = 0x10 then some (b, (o - 0x880000) / 0x10000) else none

/-- A write to address a is one that a unit acts on. -/
def unitWrite (a : Nat) : Bool := (ipiCore a).isSome || (match regAt a with
  | some (r, _, _) => unitRegs.any r.is
  | none => false)

/-- Entries that a slot-request ring holds (R283). -/
def ringSize (s : State) (r : Nat) : Nat := 2 ^ rdF s R.srCfg r 0 4 0

/-- A write of `SR_TAIL` (R283): ignored while the ring is off, refused where it would overrun. -/
def srTailWrite (s : State) (r : Nat) (v : W32) : State :=
  let t := fld v 16 0
  if !rdB s R.srCfg r 0 5 then s
  else if ringSize s r < (t + 2 ^ 17 - (rd s R.srDone r).toNat) % 2 ^ 17 then raise s E.cw 0 11
  else wr s R.srTail r 0 (w32 t)

/-- A write to a register of the register file, with what follows from it at once (R20–R22). -/
def fileWrite (s : State) (w : Writer) (a : Nat) (v : W32) : State :=
  match regAt a with
  | none => s
  | some (r, u, i) =>
    if r.is R.srTail then srTailWrite s u v
    else if !r.blk.here s.variant u ∨ !mayWrite w r.guard ∨ wholeRegs.any r.is = true then s
    else if r.is R.fnCtl then fnCtlWrite s i v
    else if r.is R.rtRcfg && bit v 26 then rcfgGo s u v
    else
      let s1 := plainWrite s w a r u i v
      afterWrite (if stickyRegs.any r.is then wr s1 r u i (rd s1 r u i ||| (v &&& r.w1s)) else s1) a

/-- A write of v to the register at address a, as it arrives: BAR0 takes writes at some offsets only (R258, R283, R603); RW
bits take the value, W1C bits written 1 clear, everything else stays (R20, R22); writes that the state locks, and those to
absent units, are ignored (R8, R64, R424). What the unit that holds the register must do is posted to it, except where
`now` says that the unit does it at once. -/
def regTake (s : State) (w : Writer) (a0 : Nat) (v : W32) (now : Bool) : State :=
  let a := realAddr a0
  if barDenied a0 || writeLocked s a then s
  else if inMram a then (if privF w then mramWrite s (a - mramBase) v else s)
  else match routeWord a with
    | some (n, e, k) => if w = .mp ∧ niHere s.variant n = true then (if k = 0 then commitRt s n e v else stageRt s n e k v) else s
    | none => match queueReg a with
      | some (b, q, 0x40) => releaseWrite s b q (v.toNat % 65536)
      | some (b, q, 0x44) => if bit v 0 && mayWrite w .mp then flushQueue s b q else s
      | _ =>
        let s1 := fileWrite s w a v
        if unitWrite a && !now then { s1 with posted := s1.posted ++ [(w, a, v)] } else s1

/-- A write that arrives over the fabric.
DEDUCED, unsafe: log entry 31.
DESIGN CHOICE, safe: log entry 32. -/
def regPoke (s : State) (w : Writer) (a : Nat) (v : W32) : State := regTake s w a v false

/-- A 64-bit read of two registers. -/
def regPeek64 (s : State) (w : Writer) (a : Nat) : W64 := BitVec.ofNat 64 (pair64 (regRead s w a) (regRead s w (a + 4)))

/-- A 64-bit write of two registers, low word first. -/
def regPoke64 (s : State) (w : Writer) (a : Nat) (v : W64) : State :=
  regPoke (regPoke s w a (lo32 v.toNat)) w (a + 4) (hi32 v.toNat)

end Sys2Proof.Machine
end

