-- ==== Sys2Proof/Machine/FabBase.lean ====
section
/-! DEFINITION. What every packet of the fabric passes: slots and generations, rate regulators, ports, the links of its route
(R343–R356, R365, R366). -/

namespace Sys2Proof.Machine

/-- A request of the host link that a target does not serve (R423): a read completes with EP = 1 and data all ones, a write is
dropped and counted. -/
def barLost (n : Nat) (st : Status) : Bool := decide (n = 39) && (decide (st = .timeout) || decide (st = .fenced) || decide (st = .notPresent))

/-- An initiator receives a response from its NI. -/
def niAnswer (s : State) (n : Nat) (st : Status) (ws : List MWord) : State :=
  let ones : MWord := (BitVec.allOnes 64, true)
  setFab (if barLost n st && ws.isEmpty then bump s R.pcieDrop 0 0 1 else s) fun f =>
    { f with answers := f.answers ++ [{ ni := n, status := st, words := if barLost n st then ws.map fun _ => ones else ws }] }

/-- The router of an NI (R345). -/
def niRouter (n : Nat) : Nat := if n < 37 then n else if n = 39 then 16 else 37

/-- The lowest free slot of an NI. -/
def freeSlot (s : State) (n : Nat) : Option Nat :=
  (List.range 256).find? fun k => !s.fab.outst.any fun o => decide (o.ni = n) && decide (o.slot = k)

/-- The generation that slot k of NI n takes when it is next used. -/
def nextGen (s : State) (n k : Nat) : Nat := (assoc s.fab.gens (256 * n + k)).getD 0

/-- Flits of a packet (R347). -/
def flitCount (p : FPkt) : Nat := 1 + (p.words.length + 7) / 8

/-- Tokens of a bucket in 1/256 flit, full where not listed (R355). -/
def rateOf (s : State) (n v : Nat) : Nat := rdF s R.niRate n v 8 0
def burstOf (s : State) (n v : Nat) : Nat := 256 * rdF s R.niRate n v 23 12
def tokensOf (s : State) (n v : Nat) : Nat := Nat.min ((assoc s.fab.tokens (4 * n + v)).getD (burstOf s n v)) (burstOf s n v)
def setTokens (s : State) (n v t : Nat) : State :=
  setFab s fun f => { f with tokens := putKey f.tokens (4 * n + v) (if burstOf s n v ≤ t then none else some t) }

/-- A port of router k takes no new packet: it is disabled, or quiesced (R365). -/
def portStopped (s : State) (k x : Nat) : Bool :=
  !rdB s R.rtPortEn k 0 x || (decide (rdF s R.rtRcfg k 0 28 27 = 1) && rdB s R.rtRcfg k 0 x)

/-- The link out of port x of router k takes no new packet (R365): the port is stopped, or the port at its far end is, which
then starts none in either direction. -/
def linkStopped (s : State) (k x : Nat) : Bool :=
  portStopped s k x || (decide (x ≠ 0) && (match routerPort s.variant k x with
    | some nb => (List.range 13).any fun y => decide (routerPort s.variant nb y = some k) && portStopped s nb y
    | none => false))

/-- A packet leaves its NI onto the fabric, through the local port of its router (R365, R366). -/
def launch (s : State) (n : Nat) (p : FPkt) : State :=
  let k := niRouter n
  let s1 := bump s R.niCount n 0 1
  if portStopped s1 k 0 then setFab s1 fun f => { f with portWait := f.portWait ++ [(k, 0, { p with at_ := k })] }
  else setFab s1 fun f => { f with flight := f.flight ++ [{ p with at_ := k }] }

/-- A response, for the lanes of R350. -/
def isResp (p : FPkt) : Bool := decide (p.kind = .resp)

/-- A packet, request or response, passes the rate regulator of its NI, or waits for tokens (R355). Each virtual network has a lane
for requests and one for responses; a response waits behind no request (R350).
DESIGN CHOICE, unsafe: log entry 88. -/
def regulate (s : State) (n : Nat) (p : FPkt) : State :=
  let wait := setFab s fun f => { f with queued := f.queued ++ [(n, p)] }
  if s.fab.queued.any fun e => decide (e.1 = n) && decide (e.2.vn = p.vn) && (!isResp p || isResp e.2) then wait
  else if rateOf s n p.vn = 0 then launch s n p
  else
    let t := tokensOf s n p.vn
    if 256 * flitCount p ≤ t then launch (setTokens s n p.vn (t - 256 * flitCount p)) n p else wait

/-- The packet that leaves VN v of NI n next: the oldest response, else the oldest request (R350). -/
def nextQueued (s : State) (n v : Nat) : Option (Nat × FPkt) :=
  let l := s.fab.queued.filter fun e => decide (e.1 = n) && decide (e.2.vn = v)
  (l.find? fun e => isResp e.2).or l.head?

/-- Cycles pass at the regulator of VN v of NI n (R355): tokens come in, and the packets that wait leave in order as soon as the
bucket holds enough. `NI_REG_STALL_COUNT` counts the cycles in which one waits. -/
def tokenRun : Nat → State → Nat → Nat → Nat → State
  | 0, s, _, _, _ => s
  | fuel + 1, s, n, v, cycles =>
    let rate := rateOf s n v
    let t := tokensOf s n v
    let fill (c : Nat) : Nat := Nat.min (t + rate * c) (burstOf s n v)
    match nextQueued s n v with
    | none => setTokens s n v (fill cycles)
    | some e =>
      let cost := 256 * flitCount e.2
      let c := if rate = 0 ∨ cost ≤ t then 0 else (cost - t + rate - 1) / rate
      if cycles < c then bump (setTokens s n v (fill cycles)) R.niCount n 6 cycles
      else
        let s1 := setFab (bump s R.niCount n 6 c) fun f => { f with queued := removeFirst (fun x => decide (x = e)) f.queued }
        tokenRun fuel (launch (if rate = 0 then s1 else setTokens s1 n v (fill c - cost)) n e.2) n v (cycles - c)

/-- A remote address (bit 47), and the device it names. -/
def isRemote (a : Nat) : Bool := decide (a / 2 ^ 47 % 2 = 1)
def remoteDev (a : Nat) : Nat := a / 2 ^ 31 % 2 ^ 16

/-- A request on its way: the packet along an entry. Only a packet for another device carries a Lace route and its device's ID
(R451). -/
def mkPkt (e : RtEntry) (n dst vn : Nat) (k : PKind) (fc : Bool) (a len slot gen : Nat) (ws : List MWord) (dev : Nat) : FPkt :=
  { route := pair64 e.w1 (e.w2 &&& 0xFFFF#32), hops := fld e.w0 3 0, vn := vn, kind := k, fc := fc, src := n, dst := dst, slot := slot,
    gen := gen, addr := a, len := len, words := ws, status := .ok, inj := false,
    lroute := if isRemote a then fld e.w2 31 16 + 2 ^ 16 * e.w3.toNat else 0, srcDev := if isRemote a then dev else 0,
    rev := 0, nrev := 0, hit := 0, at_ := 0 }

/-! ## Legs on which nothing holds a packet up (R344, R347, R355, R366, R570) -/

/-- No port of any router is disabled or quiesced, and no link corruption is armed. -/
def fabricQuiet (s : State) : Bool :=
  (List.range 38).all fun k => (assoc s.regs (R.rtPortEn.key k 0)).isNone && decide (rdF s R.rtRcfg k 0 28 27 ≠ 1) && !rdB s R.rtInj k 0 5

/-- A packet at router k with `hops` hops of a route left passes every port on its way and comes out at the local port of router
`last`. -/
def routeClear (s : State) (last : Nat) : Nat → Nat → Nat → Nat → Bool
  | 0, _, _, _ => false
  | fuel + 1, k, route, hops =>
    let x := route % 16
    if linkStopped s k x || (rdB s R.rtInj k 0 5 && decide (rdF s R.rtInj k 0 3 0 = x)) then false
    else if x = 0 then decide (k = last)
    else if hops ≤ 1 then false
    else match routerPort s.variant k x with
      | none => false
      | some nb => routeClear s last fuel nb (route / 16) (hops - 1)

/-- A packet of NI n along an entry reaches NI d with nothing on its way that stops it: it passes each port of the route, or the
route is the one that the firmware wrote and the whole fabric stands open.
DEDUCED, unsafe: log entry 166. -/
def legClear (s : State) (n d : Nat) (e : RtEntry) : Bool :=
  !portStopped s (niRouter n) 0 &&
  (routeClear s (niRouter d) 13 (niRouter n) (pair64 e.w1 (e.w2 &&& 0xFFFF#32)) (fld e.w0 3 0) ||
   (fabricQuiet s && decide (e.w1 = (Config.route n d).1) && decide (fld e.w2 15 0 = (Config.route n d).2.1.toNat)))

/-- The regulator of VN v of NI n lets a packet leave at once (R355). -/
def regFree (s : State) (n v : Nat) : Bool :=
  decide (rateOf s n v = 0) && !s.fab.queued.any fun e => decide (e.1 = n) && decide (e.2.vn = v)

end Sys2Proof.Machine
end

