-- ==== Sys2Proof/Machine/Net.lean ====
section
/-! DEFINITION. Accesses over the fabric (R345–R364): where a request goes, what answers it, and what a target does with it. -/

namespace Sys2Proof.Machine

/-! ## Destinations (R346, R353) -/

/-- The destination NI of an internal address. -/
def destNi (a : Nat) : Option Nat :=
  if a < 0x000800000000 then some (32 + a / 0x400000000)
  else if 0x010000000000 ≤ a ∧ a < 0x010010000000 then some ((a - 0x010000000000) / 0x1000000)
  else if 0x012000000000 ≤ a ∧ a < 0x012010000000 then some ((a - 0x012000000000) / 0x1000000)
  else if 0x020000000000 ≤ a ∧ a < 0x030000000000 then some 36
  else if 0x030000000000 ≤ a ∧ a < 0x040000000000 then some 37
  else if 0x040000000000 ≤ a ∧ a < 0x050000000000 then some 38
  else none

/-- The lowest valid remote entry of NI n for a device (R353). -/
def remoteEntry (s : State) (n dev : Nat) : Option RtEntry :=
  ((List.range 192).map fun k => rtEntry s n (64 + k)).find? fun e => e.valid && bit e.w0 7 && decide (fld e.w0 31 16 = dev)

/-- What the source NI makes of a request (R346, R353). -/
inductive Way where
  /-- answered by the source NI with a status and no event -/
  | local_ (st : Status)
  /-- the entry is not valid -/
  | miss
  /-- the unit is absent: `OK`, zeros -/
  | absent_
  /-- no memory behind it (R11): `NOT_PRESENT`, poisoned -/
  | noMem
  /-- the domain is fenced and does not wake -/
  | fenced
  /-- sent to NI `dst` along an entry -/
  | send (dst : Nat) (e : RtEntry)

/-- The first case of R353 that applies to a request of NI n for address a. A device that is not joined reaches no other device and
sends nothing over Lace (R438). -/
def wayOf (s : State) (n a : Nat) : Way :=
  let byEntry (dst : Nat) (e : RtEntry) : Way :=
    if !e.valid then .miss
    else if e.absence = 1 then .absent_
    else if e.absence = 2 then .noMem
    else if e.fenced && !e.wake then .fenced
    else .send dst e
  if isRemote a then
    if !joined s then .local_ .remoteUnreachable
    else match remoteEntry s n (remoteDev a) with
    | none => .local_ .remoteUnreachable
    | some e => byEntry 63 e
  else
    match destNi a with
    | none => .local_ .notPresent
    | some d => byEntry d (rtEntry s n d)

/-- NI n counts and reports a request it answered `FENCED`, or one whose entry is not valid. -/
def noteFenced (s : State) (n : Nat) : State := raise (bump s R.niCount n 4 1) E.ni n 3
def noteMiss (s : State) (n : Nat) : State := raise (bump s R.niCount n 5 1) E.ni n 2

/-! ## Service at a target -/

/-- The writer that an NI stands for, and the source it is to a stream queue. -/
def niWriter (n : Nat) : Writer := if n = 37 then .mp else if n = 39 then .host else .core false
def niProducer (n : Nat) : Producer := if n = 39 then .host else if h : n < 40 then .fabric ⟨n, h⟩ else .host

/-- The bench, queue and offset of an address in a queue's data port (R256, R257). -/
def queuePort (a : Nat) : Option (Nat × Nat × Nat) :=
  let b := (a - R.benB.base) / 0x1000000
  let o := (a - R.benB.base) % 0x1000000
  if R.benB.base ≤ a ∧ b < 16 ∧ 0x840000 ≤ o ∧ o < 0x880000 then some (b, (o - 0x840000) / 0x1000, (o - 0x840000) % 0x1000) else none

/-- One word written at offset o of a queue's data port (R257): a header, an ABORT, a payload word, or nothing; the status that
a header receives. -/
def portWord (s : State) (b q : Nat) (src : Producer) (o : Nat) (w : MWord) : State × Status :=
  if o < 8 then
    let s1 := hdrWrite s b q src w.1 w.2 true
    (s1, s1.readStat)
  else if o < 0x10 then (abortPkt s b q src, .ok)
  else if 0x100 ≤ o ∧ o < 0x800 then (pushWord s b q src w false, .ok)
  else (s, .ok)

/-- Words written from offset o of a queue's data port on, in order. -/
def portWords (s : State) (b q : Nat) (src : Producer) (o : Nat) : List MWord → State × Status
  | [] => (s, .ok)
  | w :: ws =>
    let (s1, st) := portWord s b q src o w
    let (s2, st2) := portWords s1 b q src (o + 8) ws
    (s2, if o < 8 then st else st2)

/-- A write to an address of a queue's data port that is a push: flow-controlled, so that no initiator timer runs for it
(R253, R356). -/
def isPush (a : Nat) : Bool := match queuePort a with
  | some (_, _, o) => decide (o < 0x800)
  | none => false

/-- The captured air-time registers (R31): `ATS` to `AT_TICK` of the timing shell. -/
def capturedAt (a : Nat) : Bool := decide (0x030000100048 ≤ a) && decide (a < 0x03000010006C)

/-- What initiator `who`, reading as w, sees at a register address: the captured registers are its own (R31). -/
def wordSeen (s : State) (who : Nat) (w : Writer) (a : Nat) : W32 :=
  if capturedAt a then captureView s who (a - 0x030000100000) else regRead s w a

/-- A read of `ATS_LO` captures for its initiator (R31). -/
def captureAts (s : State) (who : Nat) : State :=
  { s with tim := { s.tim with captures := putKey s.tim.captures who (some (s.ats, rd s R.atsOffset)) } }

/-- A target serves a read of k words from address a to initiator `who` (R8, R31, R56, R257); `part` selects the 32-bit halves
that a narrower read asks for: no other register is touched. -/
def serveRead (s : State) (who : Nat) (w : Writer) (a k : Nat) (part : Nat → Bool := fun _ => true) : State × Status × List MWord :=
  match queuePort a with
  | some (b, q, o) =>
    let low := if o < 0x800 then Nat.min k ((0x800 - o) / 8) else 0
    if low < k ∧ benchHere s.variant b then
      let s1 := popRead s b q (k - low) []
      (s1, s1.readStat, List.replicate low (cleanW 0) ++ s1.readData)
    else (s, .ok, List.replicate k (cleanW 0))
  | none =>
    if unitOf s.variant a = .none_ then
      let at_ := ((List.range (2 * k)).filter part).map fun i => a + 4 * i
      let bad := inMram a && privF w && ueArmed s
      let s0 := if bad then ueMeet s else s
      let s1 := if at_.contains 0x030000100048 then captureAts s0 who else s0
      (at_.foldl readClears s1, .ok, (List.range k).map fun i => if bad && decide (i = 0) then poisonW
        else (BitVec.ofNat 64 (pair64 (wordSeen s1 who w (a + 8 * i)) (wordSeen s1 who w (a + 8 * i + 4))), false))
    else
      let (s1, ws) := readWords s a k
      (s1, .ok, ws)

/-- Registers written word by word. -/
def pokeWords (s : State) (w : Writer) (a : Nat) : List MWord → State
  | [] => s
  | x :: xs => pokeWords (regPoke64 s w a x.1) w (a + 8) xs

/-- A target serves a write. A header write that a queue holds is answered later: `BUSY` here (R247). -/
def serveWrite (s : State) (src : Producer) (w : Writer) (a : Nat) (ws : List MWord) : State × Status :=
  match queuePort a with
  | some (b, q, o) => if !benchHere s.variant b then (s, .ok) else portWords s b q src o ws
  | none =>
    if unitOf s.variant a = .none_ then (pokeWords s w a ws, .ok)
    else (writeWords (mendLines s a (8 * ws.length)) a ws, .ok)

/-! ## The domain of the target (R360, R363, R364) -/

/-- What the target's domain does with a request that has reached it. -/
inductive Gate where
  | pass | fenced | hold
deriving DecidableEq, Repr

/-- The state of the target's domain decides (R360): served, answered `FENCED`, or held for a wake. -/
def gateOf (s : State) (d : Nat) : Gate :=
  match fnState s d with
  | 0 => .pass
  | 1 | 2 => if wopEn s d then .pass else .fenced
  | _ => if wopEn s d && hasWop s.variant && R.spineDomain d then .hold else .fenced

/-- A request that a draining domain with wake-on-packet serves abandons the fence (R360). -/
def gatePass (s : State) (d : Nat) : State := if fnState s d = 1 ∨ fnState s d = 2 then fenceAbort s d else s

/-- A held packet asks for its domain's wake (R364). -/
def gateWake (s : State) (d : Nat) : State := if fnState s d = 3 then wakeDomain s d 3 else s

/-! ## Accesses by engines

An engine reads and writes in one step of the model where nothing on the fabric holds its packets up; the timing of the packets is
left out. Where something does (tokens, a stopped port, a sleeping domain, a full slot table, another device), its operation has not
happened yet: the row sends the packets of the access it waits for, answers `DEFERRED`, and is repeated when they are answered. -/

/-- What the fabric answered in place of an on-die target: a time-out, or another device's answer. -/
abbrev Over := Option (Status × List MWord)

/-- An address of bench n itself, which its engines reach by their own ports (R54). -/
def ownBench (n a : Nat) : Bool :=
  decide (n < 16) && (decide (destNi a = some n)) && decide (a < 2 ^ 47)

/-- The packets of k requests and their responses counted at both NIs. -/
def countTrip (s : State) (n d : Nat) (k : Nat := 1) : State :=
  bump (bump (bump (bump s R.niCount n 0 k) R.niCount d 1 k) R.niCount d 0 k) R.niCount n 1 k

/-- NI n gives up a request after its time (R356). -/
def noteTimeout (s : State) (n : Nat) (inj : Bool) : State :=
  raiseI (bump s R.niCount n 2 1) E.ni n 0 (if inj then 0x41#32 else 1#32)

/-- A response that its initiator no longer waits for (R357). -/
def noteLate (s : State) (n : Nat) : State := raise (bump s R.niCount n 3 1) E.ni n 1

/-- Bytes as 64-bit words. -/
def byteWords (bs : List Byte) : List MWord :=
  (List.range (bs.length / 8)).map fun i => (BitVec.ofNat 64 (ofBytes ((bs.drop (8 * i)).take 8)), false)

/-! ### What a request does at its target -/

/-- Bytes stored at a target: in memory by R57, at a queue's data port whole words (R257), in registers word by word. -/
def storeAt (s : State) (n : Nat) (w : Writer) (a : Nat) (bs : List Byte) : State × Status :=
  if unitOf s.variant a ≠ .none_ then (writeBytes (mendLines s a bs.length) a bs, .ok)
  else if (queuePort a).isSome then (if a % 8 = 0 ∧ bs.length % 8 = 0 then serveWrite s (niProducer n) w a (byteWords bs) else (s, .ok))
  else if a % 4 ≠ 0 then (s, .ok)
  else (((bytesWords (bs.length / 4) bs).zipIdx).foldl (fun t p => regPoke t w (a + 4 * p.2) p.1) s, .ok)

/-- The words that n bytes from address a on lie in. -/
def wordsOver (a n : Nat) : Nat := if n = 0 then 0 else (a + n - 1) / 8 + 1 - a / 8

/-- One request served. Of registers only the 32-bit words that hold the bytes are read. -/
def engDo (s : State) (c : EngAcc) : State × Status × List MWord :=
  match c.op with
  | .rd n => serveRead s c.ni c.w (8 * (c.addr / 8)) (wordsOver c.addr n) fun i =>
      decide (c.addr < 8 * (c.addr / 8) + 4 * i + 4) && decide (8 * (c.addr / 8) + 4 * i < c.addr + n)
  | .wr ws => let (s1, st) := serveWrite s (niProducer c.ni) c.w c.addr ws; (s1, st, [])
  | .st bs => let (s1, st) := storeAt s c.ni c.w c.addr bs; (s1, st, [])

/-- Requests served one after another: the first status that is not `OK`, and the words in order. -/
def engDoAll (s : State) : List EngAcc → State × Status × List MWord
  | [] => (s, .ok, [])
  | c :: cs =>
    let (s1, st, ws) := engDo s c
    let (s2, st2, ws2) := engDoAll s1 cs
    (s2, if st = .ok then st2 else st, ws ++ ws2)

/-- A request writes; a write that is a push has no timer. -/
def EngAcc.writes (c : EngAcc) : Bool := match c.op with | .rd _ => false | _ => true
def EngAcc.fc (c : EngAcc) : Bool := c.writes && isPush c.addr

/-- The words a request asks for or carries. -/
def EngAcc.len (c : EngAcc) : Nat := match c.op with
  | .rd n => wordsOver c.addr n
  | .wr ws => ws.length
  | .st bs => wordsOver c.addr bs.length

/-- The payload of a request: bytes in the words they lie in. -/
def EngAcc.payload (c : EngAcc) : List MWord := match c.op with
  | .rd _ => []
  | .wr ws => ws
  | .st bs => byteWords (List.replicate (c.addr % 8) 0#8 ++ bs ++ List.replicate (8 * c.len - c.addr % 8 - bs.length) 0#8)

/-! ### Responses (R356, R357, R360) -/

/-- A response has reached NI n (R357): its initiator takes it, or it is late. -/
def takeResp (s : State) (n : Nat) (p : FPkt) : State :=
  let s1 := bump s R.niCount n 1 1
  match s1.fab.outst.find? fun o => decide (o.ni = n) && decide (o.slot = p.slot) && decide (o.gen = p.gen) with
  | none => noteLate s1 n
  | some o =>
    let s2 := raiseIf p.inj (setFab s1 fun f => { f with outst := removeFirst (fun x => decide (x = o)) f.outst }) E.ni n 6
    match o.eng with
    | some c => setFab s2 fun f => { f with engAns := f.engAns ++ [(c, p.status, p.words)] }
    | none => niAnswer s2 n p.status p.words

/-- NI d answers a request that came over the die; an engine's response whose way is clear arrives at once, and one of an engine
behind the queue's own bench needs no NI. -/
def respondHere (s : State) (d : Nat) (p : FPkt) (st : Status) (ws : List MWord) : State :=
  let e := rtEntry s d p.src
  let r : FPkt := { p with
    route := pair64 e.w1 (e.w2 &&& 0xFFFF#32), hops := fld e.w0 3 0, kind := .resp, src := d, dst := p.src, len := ws.length,
    words := ws, status := st }
  if p.kind ≠ .rd ∧ p.kind ≠ .wr then s
  else match p.eng with
    | some c =>
      if ownBench c.ni c.addr then setFab s fun f => { f with engAns := f.engAns ++ [(c, st, ws)] }
      else if e.fenced then raise (bump s R.niCount d 7 1) E.ni d 5
      else if legClear s d p.src e && regFree s d p.vn then takeResp (bump s R.niCount d 0 1) p.src r
      else regulate s d r
    | none => if e.fenced then raise (bump s R.niCount d 7 1) E.ni d 5 else regulate s d r

/-- An engine's request p is served at NI d. A header write that a queue holds is answered when it is accepted (R247). -/
def engServe (s : State) (d : Nat) (p : FPkt) (c : EngAcc) : State :=
  let (s1, st, ws) := engDo s c
  match queuePort c.addr with
  | some (b, q, _) =>
    if c.fc ∧ st = .busy then setFab s1 fun f => { f with heldReq := f.heldReq ++ [(64 * b + q, p)] } else respondHere s1 d p st ws
  | none => respondHere s1 d p st ws

/-! ### Packets that reach their target (R360, R363, R364) -/

/-- The packet p takes a place in the wake buffer of its target's domain and asks for its wake; a full buffer answers `FENCED`. -/
def holdPkt (s : State) (p : FPkt) : State × Option Status :=
  let dom := niDomain p.dst
  let k := spineRouter dom
  let held := (assoc s.fab.wake dom).getD []
  if 16 ≤ held.length then (raise (raise (gateWake s dom) E.rt k 6) E.ni p.dst 3, some .fenced)
  else (gateWake (bump (setFab s fun f => { f with wake := putKey f.wake dom (some (held ++ [p])) }) R.rtCount k 4 1) dom, none)

/-- The words of a `FENCED` answer. -/
def fencedWords (p : FPkt) : List MWord := if p.kind = .rd then List.replicate p.len poisonW else []

/-- An engine's request p has reached NI d. -/
def engArrive (s : State) (d : Nat) (p : FPkt) (c : EngAcc) : State :=
  match gateOf s (niDomain d) with
  | .pass => engServe (gatePass (bump s R.niCount d 1 1) (niDomain d)) d p c
  | .fenced => respondHere (noteFenced s d) d p .fenced (fencedWords p)
  | .hold => match holdPkt s p with
    | (s1, none) => s1
    | (s1, some st) => respondHere s1 d p st (fencedWords p)

/-! ### Requests that wait -/

/-- The packet of an engine's request for NI d: its slot and generation, on the way along an entry. -/
def engPkt (e : RtEntry) (d : Nat) (c : EngAcc) (k : PKind) (slot gen dev : Nat) : FPkt :=
  { mkPkt e c.ni d 1 k c.fc (8 * (c.addr / 8)) c.len slot gen c.payload dev with eng := some c }

def EngAcc.kind (c : EngAcc) : PKind := if c.writes then .wr else .rd

/-- A request is on its way, or a queue holds it. -/
def engBusy (s : State) (c : EngAcc) : Bool :=
  (s.fab.outst.any fun o => decide (o.eng = some c)) || s.fab.heldReq.any fun e => decide (e.2.eng = some c)

/-- The shore of the Lace port that a remote entry's route begins with. -/
def shoreNi (s : State) (e : RtEntry) : Nat := 16 + rdF s R.lcCfg (fld e.w2 21 16) 0 7 0 / 16

/-- The NI of an engine sends a request that is neither under way nor answered: with no free slot, or with its domain draining, it
holds the engine back (R356, R359). Where nothing is in its way the packet is at its target at once. -/
def engSend (s : State) (c : EngAcc) : State :=
  let n := c.ni
  if engBusy s c || s.fab.engAns.any fun e => decide (e.1 = c) then s
  else if ownBench n c.addr then engServe s n (engPkt RtEntry.zero n c c.kind 256 0 0) c
  else if fnState s (niDomain n) ≠ 0 then s
  else match wayOf s n c.addr, freeSlot s n with
    | .send d e, some sl =>
      let g := nextGen s n sl
      let p := engPkt e (if d = 63 then shoreNi s e else d) c c.kind sl g (ownId s)
      let s1 := setFab s fun f => { f with
        gens := putKey f.gens (256 * n + sl) (some ((g + 1) % 256)),
        outst := f.outst ++ [{ ni := n, slot := sl, gen := g, len := c.len, rd := !c.writes, fc := c.fc, remote := decide (d = 63), eng := some c }] }
      if d ≠ 63 ∧ legClear s1 n d e ∧ regFree s1 n 1 then engArrive (bump s1 R.niCount n 0 1) d p c else regulate s1 n p
    | _, _ => s

/-- The end of a row of an engine that began in state s: t where every access of its operation was answered; else nothing has
happened but that the packets of the access it waits for are sent.
DESIGN CHOICE, unsafe: log entry 86. -/
def settled (s t : State) : State := if t.fab.ask.length ≤ s.fab.ask.length then t else t.fab.ask.foldl engSend s

/-- Where an operation goes on without the access it waits for: its packets are sent, and the access is repeated later. -/
def engWait (s : State) : State := s.fab.ask.foldl engSend (setFab s fun f => { f with ask := [] })

/-- The operation of the row waits for the answers of some requests. -/
def askFor (s : State) (cs : List EngAcc) : State :=
  setFab s fun f => { f with ask := if f.ask.isEmpty then cs else f.ask }

/-- The answers of all the requests of an access. -/
def engTaken (s : State) : List EngAcc → Option (Status × List MWord)
  | [] => some (.ok, [])
  | c :: cs => match s.fab.engAns.find? fun e => decide (e.1 = c), engTaken s cs with
    | some e, some x => some (if e.2.1 = .ok then x.1 else e.2.1, e.2.2 ++ x.2)
    | _, _ => none

/-- An engine no longer waits for requests: their slots are free, their answers gone. -/
def engForget (s : State) (cs : List EngAcc) : State :=
  setFab s fun f => { f with
    engAns := f.engAns.filter fun e => !cs.contains e.1,
    outst := f.outst.filter fun o => match o.eng with | some c => !cs.contains c | none => true }

/-- An engine's request has timed out (R356, R357, R364): whether its target still serves it now. An injected expiry leaves the
request on its way; of another nothing says how far it has come.
DESIGN CHOICE, safe: log entry 114. -/
def timedOut (s : State) (n d : Nat) (inj : Bool) (cs : List EngAcc) : State × Bool :=
  let s1 := noteTimeout s n inj
  if d = 63 then (s1, false)
  else match gateOf s1 (niDomain d) with
    | .hold => (cs.foldl (fun t c => (holdPkt t (engPkt RtEntry.zero d c c.kind 256 0 0)).1) s1, false)
    | .fenced => (noteLate (noteFenced s1 d) n, false)
    | .pass =>
      let (v, s2) := drawFree s1
      if inj || bit (lo32 v.toNat) 0 then (noteLate (countTrip (gatePass s2 (niDomain d)) n d) n, true) else (s2, false)

/-- An armed `NI_INJ`.TMO fires on the next answered request (R368). -/
def tmoArmed (s : State) (n : Nat) : Bool := rdB s R.niInj n 0 0

/-- Nothing on the die holds up the requests of NI n along an entry to NI d, or their answers. -/
def engClear (s : State) (n d : Nat) (e : RtEntry) : Bool :=
  decide (fnState s (niDomain n) = 0) && (freeSlot s n).isSome && legClear s n d e && regFree s n 1 &&
  !(rtEntry s d n).fenced && legClear s d n (rtEntry s d n) && regFree s d 1

/-- An access of an engine behind NI n at address a, as its requests `cs`; `bad` are the words of an answer that is not `OK`, `zero`
those of an absent unit, `ov` what the fabric answered in place of an on-die target. A push has no timer (R253). -/
def netDo (s : State) (n a : Nat) (cs : List EngAcc) (bad zero : List MWord) (ov : Over) : State × Status × List MWord :=
  let wait : State × Status × List MWord := (askFor s cs, .deferred, [])
  let fc := cs.any EngAcc.fc
  let served (t : State) : State × Status × List MWord :=
    let (t1, st, ws) := engDoAll t cs
    if fc ∧ st = .busy then wait else (t1, st, ws)
  let late (d : Nat) (t : State) (inj : Bool) : State × Status × List MWord :=
    let (t1, go) := timedOut t n d inj cs
    (if go then (engDoAll t1 cs).1 else t1, .timeout, bad)
  match engTaken s cs with
  | some (st, ws) => (engForget s cs, st, ws)
  | none =>
    if ownBench n a then served s
    else match wayOf s n a with
      | .local_ st => (s, st, bad)
      | .miss => (noteMiss s n, .notPresent, bad)
      | .absent_ => (s, .ok, zero)
      | .noMem => (s, .notPresent, bad)
      | .fenced => (noteFenced s n, .fenced, bad)
      | .send d e =>
        let tmo : Bool := match ov with | some (.timeout, _) => !fc | _ => false
        if cs.any (engBusy s) then (if tmo then (engForget (noteTimeout s n false) cs, .timeout, bad) else wait)
        else if tmoArmed s n && !fc then late d (wr s R.niInj n 0 0) true
        else if tmo then late d s false
        else if d = 63 then (match ov with
          | some (st, ws) => if st = .timeout then wait else (s, st, if ws.length = bad.length then ws else bad)
          | none => wait)
        else if !engClear s n d e then wait
        else match gateOf s (niDomain d) with
          | .hold => wait
          | .fenced => (noteFenced s d, .fenced, bad)
          | .pass => served (countTrip (gatePass s (niDomain d)) n d cs.length)

/-- The pieces, first byte and length, that a range of n bytes is requested in: at most 32 words each, none across a 4 KiB
boundary (R348). -/
def cutRange : Nat → Nat → Nat → List (Nat × Nat)
  | 0, _, _ => []
  | f + 1, a, n =>
    if n = 0 then []
    else
      let k := Nat.min n (Nat.min (8 * (a / 8) + 256 - a) (4096 - a % 4096))
      (a, k) :: cutRange f (a + k) (n - k)

def cuts (a n : Nat) : List (Nat × Nat) := cutRange (n / 128 + 18) a n

/-- n bytes read by an engine behind NI `ni`, acting as w: the 64-bit words that they lie in. -/
def netGet (s : State) (ni a n : Nat) (ov : Over) (w : Writer) : State × Status × List MWord :=
  let k := wordsOver a n
  netDo s ni a ((cuts a n).map fun x => { ni := ni, w := w, addr := x.1, op := .rd x.2 }) (List.replicate k poisonW)
    (List.replicate k (cleanW 0)) ov

/-- A read of k words by an engine behind NI n, acting as w. -/
def netRead (s : State) (n a k : Nat) (ov : Over := none) (w : Writer := niWriter n) : State × Status × List MWord :=
  netGet s n a (8 * k) ov w

/-- An answered write by an engine behind NI n, acting as w. -/
def netWrite (s : State) (n a : Nat) (ws : List MWord) (ov : Over := none) (w : Writer := niWriter n) : State × Status :=
  let cs := (cuts a (8 * ws.length)).map fun x : Nat × Nat =>
    { ni := n, w := w, addr := x.1, op := EngOp.wr ((ws.drop ((x.1 - a) / 8)).take (x.2 / 8)) : EngAcc }
  let (s1, st, _) := netDo s n a cs [] [] ov
  (s1, st)

/-- The requests that store bytes. -/
def storeAccs (n a : Nat) (bs : List Byte) (w : Writer) : List EngAcc :=
  (cuts a bs.length).map fun x : Nat × Nat => { ni := n, w := w, addr := x.1, op := EngOp.st ((bs.drop (x.1 - a)).take x.2) : EngAcc }

/-- Bytes written by an engine behind NI n, acting as w, answered. -/
def netStore (s : State) (n a : Nat) (bs : List Byte) (w : Writer := niWriter n) : State × Status :=
  let (s1, st, _) := netDo s n a (storeAccs n a bs w) [] [] none
  (s1, st)

/-- n bytes read by an engine behind NI `ni`, acting as w, from an address, and whether a word they lie in was poisoned. -/
def netBytes (s : State) (ni a n : Nat) (w : Writer := niWriter ni) : State × Status × List Byte × Bool :=
  let (s1, st, ws) := netGet s ni a n none w
  let all := ws.flatMap fun x => bytesOf 8 x.1.toNat
  (s1, st, (all.drop (a % 8)).take n, ws.any fun x => x.2)

/-- n 32-bit words read by an engine behind NI `ni`. -/
def net32s (s : State) (ni a n : Nat) : State × Status × List W32 × Bool :=
  let (s1, st, bs, p) := netBytes s ni a (4 * n)
  (s1, st, bytesWords n bs, p)

/-- A read of n bytes by an engine behind NI `ni` has timed out: it no longer waits for it (R356). -/
def netGiveUp (s : State) (ni a n : Nat) (w : Writer := niWriter ni) : State :=
  engForget (noteTimeout s ni false) ((cuts a n).map fun x => { ni := ni, w := w, addr := x.1, op := .rd x.2 })

/-! ### Posted writes -/

/-- A posted write that its source NI answers is discarded and counted (R353). -/
def noteLost (s : State) (n : Nat) : State := bump s R.niCount n 5 1

/-- One posted write of an engine. -/
def postOne (s : State) (c : EngAcc) : State :=
  let n := c.ni
  if ownBench n c.addr then (engDo s c).1
  else match wayOf s n c.addr with
    | .local_ _ => noteLost s n
    | .miss => noteMiss s n
    | .absent_ => s
    | .noMem => noteLost s n
    | .fenced => noteFenced s n
    | .send d e =>
      let p := engPkt e (if d = 63 then shoreNi s e else d) c .wrp 0 0 (ownId s)
      if d ≠ 63 ∧ legClear s n d e ∧ regFree s n 1 then engArrive (bump s R.niCount n 0 1) d p c else regulate s n p

/-- Bytes written by an engine behind NI n that waits for no answer. -/
def netPost (s : State) (n a : Nat) (bs : List Byte) (w : Writer := niWriter n) : State := (storeAccs n a bs w).foldl postOne s

/-- Words written so. -/
def netPostWords (s : State) (n a : Nat) (ws : List MWord) (w : Writer := niWriter n) : State :=
  ((cuts a (8 * ws.length)).map fun x : Nat × Nat =>
    { ni := n, w := w, addr := x.1, op := EngOp.wr ((ws.drop ((x.1 - a) / 8)).take (x.2 / 8)) : EngAcc }).foldl postOne s

end Sys2Proof.Machine
end

