-- ==== Sys2Proof/Machine/Pattern.lean ====
section
/-! DEFINITION. Patterns: their image, the checks and the placement of `PATTERN_LOAD` (R10, R267–R273, R308–R310, R315). -/

namespace Sys2Proof.Machine

/-- A task template (R269). -/
structure Tmpl where
  cls     : Nat
  prio    : Nat
  flowsel : Nat
  flow    : Nat
  late    : Nat
  onfail  : Bool
  aff     : Nat
  modn    : Nat
  npred   : Nat
  nsucc   : Nat
  unit    : Nat
  unitV   : Bool
  half    : Bool
  spare   : Bool
  rel     : Int
  dl      : Int
  psrc    : Nat
  pidx    : Nat
  poff    : Nat
  paddr   : Nat
  succ    : Nat
  alt     : Nat
  altV    : Bool
  fb      : Nat
  fbV     : Bool
  entry   : Nat
  er0     : W32 × Nat
  er1     : W32 × Nat
  lu      : Nat

/-- A template from its 16 words. -/
def parseTmpl (w : List W32) : Tmpl :=
  let x (k : Nat) := nth w k 0
  { cls := fld (x 0) 5 0, prio := fld (x 0) 8 6, flowsel := fld (x 0) 10 9, flow := fld (x 0) 23 11, late := fld (x 0) 25 24,
    onfail := bit (x 0) 26, aff := fld (x 0) 28 27, modn := fld (x 0) 31 29, npred := fld (x 1) 7 0, nsucc := fld (x 1) 15 8,
    unit := fld (x 1) 22 16, unitV := bit (x 1) 23, half := bit (x 1) 24, spare := bit (x 1) 25, rel := sext 16 (fld (x 2) 15 0),
    dl := sext 16 (fld (x 2) 31 16), psrc := fld (x 3) 1 0, pidx := fld (x 3) 7 2, poff := fld (x 3) 31 8,
    paddr := pair64 (x 4) (x 5) % 2 ^ 48, succ := fld (x 6) 15 0, alt := fld (x 6) 26 16, altV := bit (x 6) 27,
    fb := fld (x 7) 10 0, fbV := bit (x 7) 11, entry := fld (x 7) 24 12, er0 := (x 8, fld (x 9) 15 0),
    er1 := (x 10, fld (x 11) 15 0), lu := fld (x 12) 15 0 }

/-- NTASK and NSUCCW of an image (R268). -/
def nTask (img : List W32) : Nat := fld (nth img 1 0) 11 0
def nSuccw (img : List W32) : Nat := fld (nth img 1 0) 31 16

/-- Template t of an image, and successor array entry k. -/
def tmplAt (img : List W32) (t : Nat) : Tmpl := parseTmpl ((img.drop (16 + 16 * t)).take 16)
def tmpls (img : List W32) : List Tmpl := (List.range (nTask img)).map (tmplAt img)
def succEntry (img : List W32) (k : Nat) : W32 := nth img (16 + 16 * nTask img + k) 0

/-- The successors of a template: template indices (R270). -/
def succsOf (img : List W32) (t : Tmpl) : List Nat := (List.range t.nsucc).map fun k => fld (succEntry img (t.succ + k)) 10 0

/-- The image size in bytes that R267 gives. -/
def imageSize (img : List W32) : Nat := 64 + 64 * nTask img + (4 * nSuccw img + 63) / 64 * 64

/-- Every predecessor entry of the non-spare templates within the array, as template indices. -/
def predEntries (img : List W32) : List Nat := (tmpls img).flatMap fun t =>
  if t.spare then [] else
    ((List.range t.nsucc).filter fun k => decide (t.succ + k < nSuccw img)).map fun k => fld (succEntry img (t.succ + k)) 10 0

/-- P_t for every template (R270). -/
def localPreds (img : List W32) : List Nat :=
  (predEntries img).foldl (fun l j => modNth l j (· + 1)) (List.replicate (nTask img) 0)

/-- The engine instance indices of a class (R52, R220). -/
def unitOfClass (cls i : Nat) : Bool :=
  match cls with
  | 0 => decide (i < 8) | 1 => decide (i = 8) | 2 => decide (i = 9) || decide (i = 10) | 3 => decide (i = 11)
  | 4 => decide (i < 12) | 5 => decide (12 ≤ i) && decide (i < 16) | 6 => decide (16 ≤ i) && decide (i < 20)
  | 7 => decide (20 ≤ i) && decide (i < 24) | 8 => decide (24 ≤ i) && decide (i < 32) | 9 => decide (32 ≤ i) && decide (i < 34)
  | 10 => decide (34 ≤ i) && decide (i < 42) | 11 => decide (42 ≤ i) && decide (i < 46)
  | 14 => decide (12 ≤ i) && decide (i < 16)
  | _ => false

/-- The classes whose instance R292 sets. -/
def boundClass (cls : Nat) : Bool := decide (cls = 12) || decide (cls = 13) || decide (cls = 15)

/-- Reserved bits of word k of a template. -/
def tmplRsv : List Nat := [0, 0xFC000000, 0, 0, 0, 0xFFFF0000, 0xF0000000, 0xFE000000, 0x3F, 0xFFFF0000, 0x3F, 0xFFFF0000, 0xFFFF0000, 0xFFFFFFFF, 0xFFFFFFFF, 0xFFFFFFFF]

/-- Reserved bits of word k of a header. -/
def headRsv : List Nat := [0xFFF00000, 0xF000, 0xFFFFFFFC, 0, 0xFFFF0000] ++ List.replicate 11 0xFFFFFFFF

/-- A word has a reserved bit set. -/
def rsvSet (ws : List W32) (rs : List Nat) : Bool := (ws.zip rs).any fun p => decide (p.1 &&& BitVec.ofNat 32 p.2 ≠ 0#32)

/-- A template breaks R271 order 3. -/
def tmplBad (img : List W32) (preds : List Nat) (i : Nat) : Bool :=
  let w := (img.drop (16 + 16 * i)).take 16
  let t := parseTmpl w
  let req := fld (nth img 2 0) 1 0
  let n := nTask img
  let ofAlt (j : Nat) := tmplAt img j
  rsvSet w tmplRsv || decide (15 < t.cls) || decide (t.flowsel = 3) || decide (5 < t.modn) || decide (t.psrc = 3) ||
  (match t.flowsel with
    | 0 => decide (t.flow ≠ 0)
    | 1 => decide (t.flow = 0)
    | _ => decide (15 < t.flow)) ||
  (decide (4 ≤ t.cls) && decide (t.cls ≤ 11) && decide (t.aff = 3)) || (boundClass t.cls && decide (t.aff ≠ 0)) ||
  decide (t.dl ≤ t.rel) || (decide (t.psrc ≠ 1) && (decide (t.pidx ≠ 0) || decide (t.poff ≠ 0))) || decide (t.poff % 64 ≠ 0) ||
  (decide (req = 0) && (decide (t.psrc = 1) || decide (t.flowsel = 2))) ||
  (if t.psrc = 0 then decide (t.paddr % 64 ≠ 0) || decide (2 ^ 47 ≤ t.paddr) else decide (t.paddr ≠ 0)) ||
  (decide (t.psrc = 2) && (decide (t.er0.2 ≠ 0) || decide (t.er1.2 ≠ 0))) ||
  (t.unitV && (boundClass t.cls || !unitOfClass t.cls t.unit)) || (!t.unitV && decide (t.unit ≠ 0)) ||
  (if t.cls = 0 then decide (4095 < t.entry) else if t.cls = 1 then decide (8191 < t.entry) else decide (t.entry ≠ 0)) ||
  decide (nSuccw img < t.succ + t.nsucc) ||
  (t.spare && (decide (t.npred ≠ 0) || decide (t.nsucc ≠ 0))) ||
  (t.altV && !(decide (t.alt < n) && (ofAlt t.alt).spare && decide ((ofAlt t.alt).cls = t.cls))) ||
  (t.fbV && !(decide (t.cls = 3) && decide (t.fb < n) && (ofAlt t.fb).spare && decide ((ofAlt t.fb).cls ≠ 3))) ||
  (decide (t.cls = 3) && decide (t.modn = 5)) || decide (t.npred < nth preds i 0)

/-- A successor entry names an index past the templates, its own template or a spare one. -/
def succBad (img : List W32) (i : Nat) : Bool :=
  let t := tmplAt img i
  !t.spare && (succsOf img t).any fun j => decide (nTask img ≤ j) || decide (j = i) || (tmplAt img j).spare

/-- Remove once the templates no remaining template leads to; what stays when nothing moves is a cycle. -/
def peel (img : List W32) (l : List Nat) : List Nat :=
  let dests := l.flatMap fun i => succsOf img (tmplAt img i)
  l.filter fun i => dests.contains i

def peelN (img : List W32) : Nat → List Nat → List Nat
  | 0, l => l
  | k + 1, l =>
    let m := peel img l
    if m.length = l.length then l else peelN img k m

/-- The successors hold a cycle. -/
def hasCycle (img : List W32) : Bool :=
  let l := (List.range (nTask img)).filter fun i => !(tmplAt img i).spare
  !(peelN img (l.length + 1) l).isEmpty

/-- The image words of template i after the binding of R272 on a variant without beam arrays. -/
def bindTmpl (img : List W32) (i : Nat) : List W32 :=
  let w := (img.drop (16 + 16 * i)).take 16
  let t := parseTmpl w
  if t.cls = 3 ∧ t.fbV ∧ !t.spare then
    let f := (img.drop (16 + 16 * t.fb)).take 16
    let x (k : Nat) := nth f k 0
    let w0 := setBit (setFld (x 0) 25 24 t.late) 26 t.onfail
    let w1 := setBit (setFld (setFld (x 1) 7 0 t.npred) 15 8 t.nsucc) 25 t.spare
    [w0, w1, nth w 2 0, x 3, x 4, x 5, setFld (x 6) 15 0 t.succ, x 7, x 8, x 9, x 10, x 11, x 12, x 13, x 14, x 15]
  else w

/-- The image as the loader keeps it (R272). -/
def bindImage (v : Variant) (img : List W32) : List W32 :=
  if hasCma v then img
  else img.take 16 ++ (List.range (nTask img)).flatMap (bindTmpl img) ++ img.drop (16 + 16 * nTask img)

/-- A template names a class or an instance the variant lacks (R10). A pool template that prefers the absent East half (AFF 1)
names no unit that it must run on and is accepted; one that must run there (AFF 2) is not.
DEDUCED, safe: log entry 119. -/
def tmplAbsent (v : Variant) (t : Tmpl) : Bool :=
  (decide (t.cls = 3) && !hasCma v && !t.spare) ||
  (decide (4 ≤ t.cls) && decide (t.cls ≤ 11) && t.half && decide (t.aff = 2) && !hasEast v)

/-- The first failing group of R271 before placement; `len` is the command's length. -/
def imageStatus (v : Variant) (img : List W32) (len : Nat) (poison : Bool) : Status :=
  if poison then .integrity
  else
    let n := nTask img
    let preds := localPreds img
    if 2048 < n ∨ len ≠ imageSize img ∨ preds.any (fun p => decide (255 < p)) then .lengthRange
    else
      let req := fld (nth img 2 0) 1 0
      let head := decide (fld (nth img 0 0) 15 0 ≠ 0x5054) || decide (fld (nth img 0 0) 19 16 ≠ 1) || decide (n = 0) || decide (req = 3) ||
        rsvSet (img.take 16) headRsv || (decide (req ≠ 2) && (decide (nth img 3 0 ≠ 0) || decide (nth img 4 0 ≠ 0))) ||
        (List.range (nSuccw img)).any (fun k => decide (fld (succEntry img k) 31 11 ≠ 0) || decide (n ≤ fld (succEntry img k) 10 0) ||
          (tmplAt img (fld (succEntry img k) 10 0)).spare) ||
        (img.drop (16 + 16 * n + nSuccw img)).any (fun w => decide (w ≠ 0#32))
      if head || (List.range n).any (fun i => tmplBad img preds i) || (List.range n).any (fun i => succBad img i) || hasCycle img then .badParam
      else if (tmpls (bindImage v img)).any (tmplAbsent v) then .notPresent
      else .ok

/-! ## The store (R273) -/

/-- The first free span of n bytes between base and limit that keeps clear of the spans in `used`, in units of 64 bytes.
DESIGN CHOICE, unsafe: log entry 81. -/
def firstFit (used : List (Nat × Nat)) (n lim : Nat) (base : Nat) : Option Nat :=
  let cand := (base :: (used.map fun u => u.1 + (u.2 + 63) / 64 * 64)).filter fun a => decide (base ≤ a)
  let free (a : Nat) : Bool := decide (a + n ≤ lim) && used.all fun u => decide (a + n ≤ u.1) || decide (u.1 + u.2 ≤ a)
  (sortBy (fun a b => decide (a < b)) (cand.filter free)).head?

/-- Where an image of n bytes goes: in the on-die store, in a PATTERN region, or nowhere. -/
def placePattern (s : State) (n : Nat) : Option (Bool × Nat) :=
  let die := s.cord.pats.filterMap fun e => if e.2.inHbm then none else some (e.2.place, e.2.bytes)
  match firstFit die n 0x400000 0 with
  | some a => some (false, a)
  | none =>
    let hbm := s.cord.pats.filterMap fun e => if e.2.inHbm then some (e.2.place, e.2.bytes) else none
    (s.hbmPart.findSome? fun r =>
      if r.kind = 4 then firstFit hbm n (0x200000 * (r.base + r.size)) (0x200000 * r.base) else none).map fun a => (true, a)

def patOf (s : State) (i : Nat) : Option Pat := assoc s.cord.pats i

/-- Fan-out nodes of a template with m successors (R285). -/
def fanNodes (m : Nat) : Nat := (m - 6 + 13) / 14

/-- D: descriptors of one instance (R276). -/
def descCount (img : List W32) : Nat := listSum ((tmpls img).map fun t => if t.spare then 0 else 1 + fanNodes t.nsucc)

/-- LU_c of a pattern (R315). -/
def luOf (img : List W32) (c : Nat) : Nat := listSum ((tmpls img).map fun t => if t.spare ∨ t.cls ≠ c then 0 else t.lu)

/-- The eight load-unit words of a pattern's replies, each class saturated. -/
def luWords (img : List W32) : List W32 := (List.range 8).map fun k =>
  packF [(0, satU 16 (luOf img (2 * k))), (16, satU 16 (luOf img (2 * k + 1)))]

/-! ## `PATTERN_LOAD` (R308) -/

/-- A held command ends: it leaves its stream and its reply is sent (R490). -/
def endHeld (s : State) (opcode : Nat) (q : Req) (st : Status) (ws : List W32) : State :=
  let mine (h : Held) : Bool := decide (h.opcode = opcode) && decide (h.req = q)
  if s.pn.held.any mine then reply (setPn s fun p => { p with held := removeFirst mine p.held }) opcode q st ws else s

/-- The memory of one bench or one HBM stack that holds n bytes from a on: bench index, or stack index + 16. -/
def oneMemory (a n : Nat) : Option Nat :=
  if a < 0x000800000000 then (if a / 0x400000000 = (a + n - 1) / 0x400000000 then some (16 + a / 0x400000000) else none)
  else if 0x010000000000 ≤ a ∧ a < 0x010010000000 then
    let o := (a - 0x010000000000) % 0x1000000
    if o + n ≤ 0x800000 then some ((a - 0x010000000000) / 0x1000000) else none
  else none

/-- `PATTERN_LOAD` (R308): it holds its stream until the image has been read. -/
def patternLoad (q : Req) (s : State) : Done :=
  if !wellFormed q.params [0x3FF#32, 0xFFFFFFFF#32, 0xFFFF#32, 0xFFFFFFFF#32] then done s .badParam
  else
    let i := fld (par q 0) 9 0
    let a := pair64 (par q 1) (par q 2)
    let n := (par q 3).toNat
    if a % 64 ≠ 0 ∨ isRemote a ∨ n = 0 ∨ n % 64 ≠ 0 then done s .badParam
    else match oneMemory a n with
      | none => done s .badParam
      | some m =>
        if 393280 < n then done s .lengthRange
        else if !(if m < 16 then benchHere s.variant m else stackHere s.variant (m - 16)) then done s .notPresent
        else if (patOf s i).isSome ∨ s.cord.loads.any (fun l => decide (l.index = i)) then done s .state
        else holding (setCord s fun c => { c with loads := c.loads ++ [{ index := i, src := a, len := n, req := q }] })

/-- A load ends with a status: the index is freed or holds the image, and the reply is sent. -/
def finishLoad (s : State) (l : PatLoad) (st : Status) (ws : List W32) : State :=
  endHeld (setCord s fun c => { c with loads := c.loads.filter fun x => decide (x.index ≠ l.index) }) 0x0303 l.req st ws

/-- The image of the load of index i has been read (R271, R308); `ov` is what the fabric answered in place of the memory. -/
def patternRead (s : State) (i : Nat) (ov : Over) : State :=
  match s.cord.loads.find? fun l => decide (l.index = i) with
  | none => s
  | some l =>
    let (s1, st, img, poison) := match ov with
      | some (e, _) => (if e = Status.timeout then netGiveUp s 36 l.src l.len else s, e, [], false)
      | none => net32s s 36 l.src (l.len / 4)
    if st ≠ .ok then finishLoad s1 l st []
    else
      match imageStatus s1.variant img l.len poison with
      | .ok =>
        match placePattern s1 l.len with
        | none => finishLoad s1 l .noResource []
        | some (h, a) =>
          let b := bindImage s1.variant img
          let s2 := setCord s1 fun c => { c with pats := putKey c.pats i (some { image := b, inHbm := h, place := a, bytes := l.len }) }
          let s3 := if h then write32s s2 a b else s2
          finishLoad s3 l .ok ([w32 (b2n h), w32 (descCount b)] ++ luWords b)
      | e => finishLoad s1 l e []

/-- Live instances of a pattern. -/
def patLive (s : State) (i : Nat) : Nat := (s.cord.insts.filter fun e => decide (e.2.pattern = i)).length

/-- `PATTERN_STATUS` (R310). -/
def patternStatus (q : Req) (s : State) : Done :=
  if !wellFormed q.params [0x3FF#32] then done s .badParam
  else match patOf s (fld (par q 0) 9 0) with
    | none => doneW s (List.replicate 11 0#32)
    | some p => doneW s ([packF [(0, 1), (1, b2n p.inHbm)], packF [(0, nTask p.image), (16, descCount p.image)],
        w32 (patLive s (fld (par q 0) 9 0))] ++ luWords p.image)

end Sys2Proof.Machine
end

