-- ==== Sys2Proof/Machine/Admit.lean ====
section
/-! DEFINITION. Load and capacity (R313–R319) and the limit junction (R17, R330). -/

namespace Sys2Proof.Machine

def setGov (s : State) (f : Gov → Gov) : State := { s with gov := f s.gov }

/-! ## Spares and exclusions of beam arrays -/

/-- The array of bench b is a designated spare. -/
def isSpare (s : State) (b : Nat) : Bool := rdB s R.gvSpare 0 0 b

/-! ## Counted instances and CAP_c (R314, R316) -/

/-- LU per ms of one instance at a fit level. -/
def luPerMs (level : Nat) : Nat := match level with
  | 3 => 100000 | 2 => 80000 | 1 => 60000 | _ => 33333

/-- The present instances of a class: its sites. -/
def sitesOf (v : Variant) (cls : Nat) : List Site :=
  if cls < 4 ∨ cls = 14 then
    ((List.finRange 16).flatMap fun b => ((List.finRange 16).filter fun i => decide (siteClass (.bench b i) = cls)).map fun i => Site.bench b i).filter (siteHere v)
  else if cls < 12 then
    ((List.finRange 2).flatMap fun h => ((List.finRange 46).filter fun i => decide (siteClass (.pool h i) = cls)).map fun i => Site.pool h i).filter (siteHere v)
  else if cls = 15 then (List.finRange 4).map Site.notify
  else ((List.finRange 128).map fun m => Site.mac m (decide (cls = 12))).filter (siteHere v)

/-- The host excludes the site (R339): as in force in the exclusion registers of benches, as imposed for the halves. -/
def hostExcl (s : State) (x : Site) : Bool :=
  match x with
  | .bench b i => (nth s.gov.hostB b.val 0).testBit i.val
  | .pool h i => (nth s.gov.hostP h.val 0).testBit i.val
  | _ => false

/-- The site counts towards its class's capacity (R316). -/
def countedSite (s : State) (x : Site) : Bool :=
  !outOfService s (siteDomain x) && !hostExcl s x &&
  (match x with
    | .bench b i => !(decide (i.val = 11) && (isSpare s b.val || decide (cmaState s b.val = 4)))
    | _ => true)

/-- CAP_c (R316). -/
def capOf (s : State) (c : Nat) : Nat :=
  nth s.gov.policy.util c 0 * listSum (((sitesOf s.variant c).filter (countedSite s)).map fun x => luPerMs (effCap s (siteDomain x))) / 100

/-! ## L_c and COMMIT_c (R315, R317) -/

/-- The table of a `TDD_TABLE_SET`'s parameters (R51). -/
def tddPairs : List W32 → List (W32 × W32)
  | a :: b :: r => (a, b) :: tddPairs r
  | _ => []

def tddOf (ps : List W32) : Tdd := { mu := fld (nth ps 0 0) 17 16, period := fld (nth ps 0 0) 24 18, entries := tddPairs (ps.drop 3) }

/-- The pattern of a table entry, none with NOPAT. -/
def entryPat (e : W32 × W32) : Option Nat := if bit e.2 15 then none else some (fld e.2 9 0)

/-- L_c of a table (R315). -/
def loadOf (s : State) (t : Tdd) (c : Nat) : Nat :=
  cdiv (2 ^ t.mu * listSum (t.entries.map fun e => match entryPat e with
    | none => 0
    | some p => match patOf s p with
      | none => 0
      | some x => luOf x.image c)) t.period

/-- Whether a command stands for a table of cell h, and the tables inside groups as well. -/
def tablesIn (c : Commit) : List (List W32) :=
  (if c.opcode = 0x0705 then [c.params] else []) ++ (c.inner.filterMap fun i => if i.opcode = 0x0705 then some i.params else none)

/-- The tables staged for cell h, in the order they were accepted. -/
def stagedTables (s : State) (h : Nat) : List (Commit × Tdd) :=
  s.pn.commits.flatMap fun c => ((tablesIn c).filter fun p => decide (fld (nth p 0 0) 15 0 = h)).map fun p => (c, tddOf p)

/-- The table of a cell that is in force. -/
def tableNow (x : Cell) : Option Tdd := x.tables.getLast?.map fun e => e.2

/-- The contribution of a cell to class c with tables `ts` beside the one in force. -/
def contribution (s : State) (x : Cell) (ts : List Tdd) (c : Nat) : Nat :=
  if x.st = .stopping then 0
  else nth s.gov.policy.cellres c 0 + listMax (((tableNow x).toList ++ ts).map fun t => loadOf s t c)

/-- COMMIT_c (R317). -/
def commitOf (s : State) (c : Nat) : Nat :=
  listSum (s.cord.cells.map fun x => contribution s x ((stagedTables s x.h).map fun e => e.2) c)

/-- `GV_COMMIT_c` and the OVER bits follow cells, tables and capacities; an OVER bit that rises raises OVERCOMMIT (R319). -/
def govSync (s : State) : State :=
  let s1 := (List.range 16).foldl (fun a c => wr a R.gvCommit 0 c (w32 (commitOf s c))) s
  let overs := (List.range 16).filter fun c => decide ((rd s1 R.gvCap 0 c).toNat < (rd s1 R.gvCommit 0 c).toNat)
  let old := rdF s R.gvStat 0 0 15 0
  let s2 := wrF s1 R.gvStat 0 0 15 0 (listSum (overs.map fun c => 2 ^ c))
  raiseIf (overs.any fun c => !old.testBit c) s2 E.gv 0 0

/-- `GV_CAP_c` takes the capacities of the moment. -/
def capSync (s : State) : State :=
  govSync ((List.range 16).foldl (fun a c => wr a R.gvCap 0 c (w32 (capOf s c))) s)

/-- SPARE_SHORT is live (R332). -/
def spareSync (s : State) : State :=
  wrB s R.gvStat 0 0 16 (decide (popcount (rd s R.gvSpare) < s.gov.policy.spares))

/-- A command is refused by admission (R318): some class would be over its capacity, and the command raises the cell's
contribution in that class. -/
def admissionFails (s : State) (old new : Nat → Nat) : Bool :=
  (List.range 16).any fun c => decide (old c < new c) && decide ((rd s R.gvCap 0 c).toNat < commitOf s c - old c + new c)

/-! ## Exclusions (R330) -/

/-- The array of bench b is excluded: pending or running calibration, DRIFT, FAILED or OFF, EN = 0. -/
def arrayExcl (s : State) (b : Nat) : Bool := decide (cmaState s b ≠ 2) || !rdB s R.cmaCtl b 0 0 || rdB s R.cmaStat b 0 8

/-- The exclusions of bench b from every source, by engine instance; a bench that waits to be reloaded stays excluded (R527). -/
def exclBench (s : State) (b : Nat) : Nat :=
  if (domOf s b).excl || needLoad s b then 0xFFFF
  else
    let h := nth s.gov.hostB b 0
    let a := if cmaHere s.variant b && (arrayExcl s b || isSpare s b) then 0x800 else 0
    h ||| a

/-- The exclusions of a coding half. -/
def exclPool (s : State) (h : Nat) : Nat := if (domOf s (16 + h)).excl then 2 ^ 46 - 1 else nth s.gov.hostP h 0

/-- A site is excluded as placement sees it now. -/
def excluded (s : State) (x : Site) : Bool :=
  match x with
  | .bench b i => rdB s R.gvExcl 0 b.val i.val
  | .pool h i => (pair64 (rd s R.gvExclPoolLo 0 h.val) (rd s R.gvExclPoolHi 0 h.val)).testBit i.val
  | .mac m _ => s.gov.shores.contains (m.val / 8)
  | .notify _ => false

/-- The limits that the management plane has imposed reach the data plane (R17): exclusions take effect, staged tasks of
excluded instances return (R66), and capacities are evaluated again. -/
def limitsTake (s : State) : State :=
  let bs := (List.range 16).filter (benchHere s.variant)
  let s1 := bs.foldl (fun a b => wr a R.gvExcl 0 b (packF [(0, exclBench s b), (16, nth s.gov.hostB b 0)])) s
  let hs := (List.range 2).filter (halfHere s.variant)
  let s2 := hs.foldl (fun a h => wr (wr a R.gvExclPoolLo 0 h (lo32 (exclPool s h))) R.gvExclPoolHi 0 h (hi32 (exclPool s h))) s1
  let s3 := setGov s2 fun g => { g with shores := (List.range 16).filter fun k => (domOf s (20 + k)).excl }
  capSync (returnStaged s3 fun x => excluded s3 x)

/-- `LIMIT_TAKE_EFFECT` (R17). -/
def execLimitTakeEffect (s : State) : Host.Outcome State Fault Refusal := .next (limitsTake s)

end Sys2Proof.Machine
end

