-- ==== Sys2Proof/Machine/Cell.lean ====
section
/-! DEFINITION. Cells, TDD tables and slot-request rings (R43–R45, R51, R274, R283, R306, R307, R309, R311, R312). -/

namespace Sys2Proof.Machine

/-! ## Cells -/

def cellOf (s : State) (h : Nat) : Option Cell := s.cord.cells.find? fun c => decide (c.h = h)

def modCell (s : State) (h : Nat) (f : Cell → Cell) : State :=
  setCord s fun c => { c with cells := c.cells.map fun x => if x.h = h then f x else x }

/-- A cell leaves the table: it is FREE. -/
def dropCell (s : State) (h : Nat) : State := setCord s fun c => { c with cells := c.cells.filter fun x => decide (x.h ≠ h) }

/-- The first free handle after the one last issued (R306). -/
def nextHandle (s : State) : Option Nat :=
  ((List.range 2048).map fun k => (s.cord.lastH + k) % 2048 + 1).find? fun h => (cellOf s h).isNone

/-- The checks of `CELL_START` that precede its staging, without its boundary's passing (R306, R318, R40). -/
def cellStartCheck (s : State) (ps : List W32) : Status :=
  let b0 := nth ps 2 0#32
  let b1 := nth ps 3 0#32
  let lead := fld (nth ps 1 0#32) 13 0
  let ring := fld (nth ps 0 0#32) 7 2
  if !wellFormed ps [0xFFF#32, 0x3FFF#32, 0xFFFFFFFF#32, 0xFFFFFFFF#32] || decide (lead = 0) || decide (9600 < lead) || bndFault s b0 b1 then .badParam
  else if !benchHere s.variant (fld (nth ps 0 0#32) 11 8) then .notPresent
  else if !rdB s R.srCfg ring 0 5 || stepBars s (boundary b0 b1) then .state
  else if (nextHandle s).isNone || admissionFails s (fun _ => 0) (fun c => nth s.gov.policy.cellres c 0) then .noResource
  else .ok

/-- The cell that an accepted `CELL_START` creates. -/
def newCell (ps : List W32) (h : Nat) : Cell :=
  let w := nth ps 0 0#32
  let lead := fld (nth ps 1 0#32) 13 0
  { h := h, st := .starting, mu := fld w 1 0, ring := fld w 7 2, home := fld w 11 8, lead := lead, tables := [], stopAt := none,
    from_ := boundary (nth ps 2 0#32) (nth ps 3 0#32) / tcTick + lead, live := 0, miss := [0, 0, 0, 0, 0], frame := 0, lateN := 0, burst := false }

/-- A `CELL_START` is staged: its cell is STARTING under the handle given. -/
def cellStartStaged (s : State) (ps : List W32) (h : Nat) : State :=
  govSync (setCord s fun c => { c with cells := c.cells ++ [newCell ps h], lastH := h })

/-- At its boundary the cell is ACTIVE. The handle follows the command's four words in a staged record. -/
def cellStartApply (s : State) (ps : List W32) : State := modCell s (nth ps 4 0#32).toNat fun c => { c with st := .active }

/-! ## Slots of a cell (R27, R45, R275) -/

/-- The start of slot g of frame f in Tc, where g may run past the frame. -/
def slotTc (mu f g : Nat) : Nat :=
  let n := slotsPerFrame mu
  (f + g / n) * tcFrame + slotStart mu (g % n)

/-- The first slot whose start tick is T or later: its start in Tc and its index within the hyperframe. -/
def slotFrom (mu t : Nat) : Nat × Nat :=
  let n := slotsPerFrame mu
  let x := t * tcTick
  let f := x / tcFrame
  let g := x % tcFrame * n / tcFrame
  let ok (k : Nat) : Bool := decide (t ≤ slotTc mu f k / tcTick)
  let k := if ok (g - 1) then g - 1 else if ok g then g else if ok (g + 1) then g + 1 else g + 2
  (slotTc mu f k, (f * n + k) % (1024 * n))

/-- The table that governs a slot of cell c starting at a time in Tc: of those in force or before it and those staged, the one
with the latest boundary at or before it, the later accepted on a tie (R45). A table that a domain-wide commit holds PREPARED
counts among those staged, though it may yet be aborted.
DESIGN CHOICE, unsafe: log entry 151. -/
def governing (s : State) (c : Cell) (start : Nat) : Option Tdd :=
  let l := (c.tables ++ (stagedTables s c.h).map fun e => (e.1.bnd, e.2)).filter fun e => decide (e.1 ≤ start)
  (l.foldl (fun (a : Option (Nat × Tdd)) e => match a with
    | none => some e
    | some b => if b.1 ≤ e.1 then some e else some b) none).map fun e => e.2

/-- The pattern that a slot instantiates. -/
def slotPattern (s : State) (c : Cell) (start idx : Nat) : Option Nat :=
  match governing s c start with
  | none => none
  | some t => if t.period = 0 then none else (t.entries[idx % t.period]?).bind entryPat

/-- The first slot of a cell from tick t on, no later than tick `lim`, that instantiates a pattern: start tick, start in Tc,
pattern. -/
def nextSlot (s : State) (c : Cell) (lim : Nat) : Nat → Nat → Option (Nat × Nat × Nat)
  | 0, _ => none
  | k + 1, t =>
    let (start, idx) := slotFrom c.mu t
    let tick := start / tcTick
    if lim < tick then none
    else match slotPattern s c start idx with
      | some p => some (tick, start, p)
      | none => nextSlot s c lim k (tick + 1)

/-- Ticks of the shortest slot of a numerology, rounded down. -/
def slotTicks (mu : Nat) : Nat := 480 / 2 ^ mu

/-- The inner and outer commands of the pending commits: opcode, parameters, commit. -/
def stagedCommands (s : State) : List (Nat × List W32 × Commit) := s.pn.commits.flatMap fun c =>
  if c.inner.isEmpty then [(c.opcode, c.params, c)] else c.inner.map fun i => (i.opcode, i.params, c)

/-- The tick of the boundary of a cell's `CELL_STOP`, in effect or staged: slots whose instantiation tick is at or after it are
not instantiated (R307, R303). -/
def stopTick (s : State) (c : Cell) : Option Nat := match c.stopAt with
  | some b => some b
  | none => ((stagedCommands s).find? fun e => decide (e.1 = 0x0302) && decide (fld (nth e.2.1 0 0#32) 15 0 = c.h)).map fun e => e.2.2.bnd / tcTick

/-- The start tick past which no slot of a cell is due at tick `now`. -/
def dueLim (s : State) (c : Cell) (now : Nat) : Nat := match stopTick s c with
  | none => now + 1 + c.lead
  | some b => Nat.min (now + 1) b + c.lead

/-- The first slot of a cell from tick t on whose instantiation tick lies at or before tick `now`: a slot of an active cell, or
one of a stopping cell that was due before its boundary (R276, R307). -/
def dueFrom (s : State) (c : Cell) (now t : Nat) : Option (Nat × Nat × Nat) :=
  let lim := dueLim s c now
  if c.st = .starting ∨ lim = 0 then none
  else nextSlot s c (lim - 1) ((lim - t) / (slotTicks c.mu - 1) + 2) t

/-- The first slot of a cell not yet instantiated that is due at tick `now`. -/
def dueSlot (s : State) (c : Cell) (now : Nat) : Option (Nat × Nat × Nat) := dueFrom s c now c.from_

/-! ## `CELL_STOP` (R307) -/

/-- A `CELL_STOP` is staged for cell h; at a boundary before b. -/
def stopStaged (s : State) (h : Nat) : Bool := (stagedCommands s).any fun e => decide (e.1 = 0x0302) && decide (fld (nth e.2.1 0 0#32) 15 0 = h)
def stopBefore (s : State) (h b : Nat) : Bool := (stagedCommands s).any fun e =>
  decide (e.1 = 0x0302) && decide (fld (nth e.2.1 0 0#32) 15 0 = h) && decide (e.2.2.bnd < b)

/-- The checks of `CELL_STOP` (R307). -/
def cellStopCheck (s : State) (ps : List W32) : Status :=
  let h := fld (nth ps 0 0#32) 15 0
  let b0 := nth ps 1 0#32
  let b1 := nth ps 2 0#32
  if !wellFormed ps [0xFFFF#32, 0xFFFFFFFF#32, 0xFFFFFFFF#32] || bndFault s b0 b1 then .badParam
  else match cellOf s h with
    | none => .badParam
    | some c => if stopStaged s h || decide (c.st = .stopping) || stepBars s (boundary b0 b1) then .state else .ok

/-- A commit concerns cell h beyond a boundary: a table, start or stop of it. -/
def concerns (h : Nat) (c : Commit) : Bool :=
  let one (op : Nat) (ps : List W32) : Bool :=
    ((decide (op = 0x0705) || decide (op = 0x0302)) && decide (fld (nth ps 0 0#32) 15 0 = h)) || (decide (op = 0x0301) && decide ((nth ps 4 0#32).toNat = h))
  if c.inner.isEmpty then one c.opcode c.params else c.inner.any fun i => one i.opcode i.params

/-- A STOPPING cell without live instances and without slots that are still due is FREE (R307). -/
def freeStopped (s : State) : State := setCord s fun c => { c with cells := c.cells.filter fun x =>
  !(decide (x.st = .stopping) && decide (x.live = 0) && (dueSlot s x (x.stopAt.getD 0)).isNone) }

/-- Cells whose staged `CELL_START` is gone go with it (R40, R307, R504). A table staged for such a cell stays pending and ends at
its own boundary, with no cell to change: R495 knows no other end for it.
DESIGN CHOICE, safe: log entry 150. -/
def cellsSync (s : State) : State :=
  let started (h : Nat) : Bool := (stagedCommands s).any fun e => decide (e.1 = 0x0301) && decide ((nth e.2.1 4 0#32).toNat = h)
  govSync (setCord s fun c => { c with cells := c.cells.filter fun x => !(decide (x.st = .starting) && !started x.h) })

/-- At its boundary a `CELL_STOP` makes the cell STOPPING, and later commits for it are refused, groups as a whole (R307, R495). -/
def cellStopApply (s : State) (ps : List W32) (b : Nat) : State :=
  let h := fld (nth ps 0 0#32) 15 0
  let s1 := modCell s h fun c => { c with st := .stopping, stopAt := some (b / tcTick) }
  let s2 := refuseAll s1 .state (s1.pn.commits.filter fun c => concerns h c && decide (b < c.bnd))
  cellsSync (freeStopped s2)

/-! ## TDD tables (R43–R45, R51) -/

/-- P is valid for a numerology (R43). -/
def periodValid (p mu : Nat) : Bool :=
  [1, 2, 4, 8, 16, 32, 64, 5, 10, 20, 40, 80].contains p && decide (10240 * 2 ^ mu % p = 0)

/-- A table entry breaks R43 or R44. -/
def entryBad (e : W32 × W32) : Bool :=
  let dl := fld e.1 15 2
  let ul := fld e.1 29 16
  decide (fld e.1 31 30 ≠ 0) || decide (fld e.2 14 10 ≠ 0) || decide (fld e.2 31 16 ≠ 0) || (bit e.2 15 && decide (fld e.2 9 0 ≠ 0)) ||
  (match fld e.1 1 0 with
    | 0 => decide (dl ≠ 0x3FFF) || decide (ul ≠ 0)
    | 1 => decide (dl ≠ 0) || decide (ul ≠ 0x3FFF)
    | 2 => decide (Nat.land dl ul ≠ 0)
    | _ => decide (dl ≠ 0x3FFF) || decide (ul ≠ 0x3FFF))

/-- The checks of `TDD_TABLE_SET` before its boundary's passing (R51, R318). -/
def tddCheck (s : State) (ps : List W32) : Status :=
  let w := nth ps 0 0#32
  let t := tddOf ps
  let h := fld w 15 0
  let b := boundary (nth ps 1 0#32) (nth ps 2 0#32)
  if 80 < t.period then .lengthRange
  else if decide (ps.length < 3) || decide (ps.length ≠ 3 + 2 * t.period) || decide (fld w 31 25 ≠ 0) then .badParam
  else match cellOf s h with
    | none => .badParam
    | some c =>
      if decide (t.mu ≠ c.mu) || bndFault s (nth ps 1 0#32) (nth ps 2 0#32) || !periodValid t.period t.mu || t.entries.any entryBad then .badParam
      else if (t.entries.any fun e => match entryPat e with
          | none => false
          | some p => (patOf s p).isNone) || decide (c.st = .stopping) || stopBefore s h b || stepBars s b then .state
      else
        let ts := (stagedTables s h).map fun e => e.2
        if admissionFails s (contribution s c ts) (contribution s c (ts ++ [t])) then .noResource else .ok

/-- The boundary of a table lies less than the cell's lead time ahead (R45). -/
def tddLate (s : State) (ps : List W32) : Bool :=
  match cellOf s (fld (nth ps 0 0#32) 15 0) with
  | none => false
  | some c => decide (boundary (nth ps 1 0#32) (nth ps 2 0#32) < s.ats.toNat + c.lead * tcTick)

/-- The tables of a cell with one more, without those that govern no slot from tick t on. -/
def tablesWith (l : List (Nat × Tdd)) (t : Nat) (e : Nat × Tdd) : List (Nat × Tdd) :=
  let all := l.filter (fun x => decide (x.1 ≠ e.1)) ++ [e]
  all.filter fun x => !all.any fun y => decide (x.1 < y.1) && decide (y.1 ≤ t * tcTick)

/-- A table takes effect (R45): slots that start before its boundary keep the table that governs them. -/
def tddApply (s : State) (ps : List W32) : State :=
  govSync (modCell s (fld (nth ps 0 0#32) 15 0) fun c => { c with
    tables := tablesWith c.tables c.from_ (boundary (nth ps 1 0#32) (nth ps 2 0#32), tddOf ps) })

/-! ## `PATTERN_UNLOAD` (R309) -/

/-- A table names a pattern. -/
def tddNames (t : Tdd) (p : Nat) : Bool := t.entries.any fun e => decide (entryPat e = some p)

/-- A slot of a cell that is due and not yet performed names a pattern. -/
def dueNames (s : State) (c : Cell) (p : Nat) : Nat → Nat → Bool
  | 0, _ => false
  | k + 1, t =>
    match dueFrom s c (tickNow s) t with
    | none => false
    | some (tick, _, q) => decide (q = p) || dueNames s c p k (tick + 1)

/-- `PATTERN_UNLOAD` (R309). -/
def patternUnload (q : Req) (s : State) : Done :=
  let i := fld (par q 0) 9 0
  if !wellFormed q.params [0x3FF#32] then done s .badParam
  else if (patOf s i).isNone ∨ (s.cord.cells.any fun c => ((tableNow c).toList.any fun t => tddNames t i) || (stagedTables s c.h).any fun e => tddNames e.2 i) ∨
      (s.cord.cells.any fun c => dueNames s c i (tickNow s + c.lead + 2 - c.from_) c.from_) ∨
      (s.cord.loads.any fun l => decide (l.index = i)) ∨ patLive s i ≠ 0 then done s .state
  else done (setCord s fun c => { c with pats := putKey c.pats i none }) .ok

/-! ## Rings (R283, R311) -/

/-- `SLOTREQ_RING_CONFIG` (R311). -/
def ringConfig (q : Req) (s : State) : Done :=
  let w := par q 0
  let r := fld w 5 0
  let n := fld w 10 6
  let en := bit w 11
  let base := pair64 (par q 1) (par q 2)
  let on := rdB s R.srCfg r 0 5
  if q.params.length ≠ 3 ∨ !onlyBits w 0xFFF#32 then done s .badParam
  else if en then
    if n < 4 ∨ 16 < n ∨ base % 64 ≠ 0 ∨ 2 ^ 48 ≤ base then done s .badParam
    else if on ∨ !withinRegion s 3 base (16 * 2 ^ n) then done s .state
    else
      let s1 := wr (wr (wr s R.srBaseLo r 0 (lo32 base)) R.srBaseHi r 0 (hi32 base)) R.srCfg r 0 (packF [(0, n), (5, 1)])
      let s2 := wr (wr (wr s1 R.srTail r 0 0) R.srHead r 0 0) R.srDone r 0 0
      done (setCord s2 fun c => { c with doneSet := c.doneSet.filter fun e => decide (e.1 ≠ r) }) .ok
  else if (s.cord.cells.any fun c => decide (c.ring = r)) ∨ rd s R.srHead r ≠ rd s R.srTail r then done s .state
  else done (wrB s R.srCfg r 0 5 false) .ok

/-- `SR_TAIL_WRITE` (R283). -/
def execSrTailWrite (r : Fin 64) (v : W32) (s : State) : Host.Outcome State Fault Refusal :=
  .next (srTailWrite s r.val v)

/-- DONE advances past the entries that are done (R283). -/
def advanceDone (s : State) (r : Nat) : Nat → State
  | 0 => s
  | k + 1 =>
    let d := (rd s R.srDone r).toNat
    if s.cord.doneSet.contains (r, d) then
      advanceDone (setCord (wr s R.srDone r 0 (w32 ((d + 1) % 2 ^ 17))) fun c => { c with doneSet := c.doneSet.filter fun e => decide (e ≠ (r, d)) }) r k
    else s

/-- Entry e of ring r is done. -/
def entryDone (s : State) (r e : Nat) : State :=
  let s1 := setCord s fun c => { c with doneSet := c.doneSet ++ [(r, e)] }
  advanceDone s1 r (s1.cord.doneSet.length + 1)

/-! ## Views and `CORD_STATUS` (R305, R312) -/

/-- `CORD_STATUS` (R312). -/
def cordStatus (q : Req) (s : State) : Done :=
  if q.params.length ≠ 0 then done s .badParam
  else doneW s [w32 (liveCount s), w32 s.cord.insts.length, cwDlist s 0, cwDlist s 1, w32 s.cord.early.length, rd s R.cwEvt]

end Sys2Proof.Machine
end

