-- ==== Sys2Proof/Machine/Fronthaul.lean ====
section
/-! DEFINITION. Fronthaul: MACs, flows, received frames, FHRX and FHTX jobs (R402–R416), and the commands that set them (R431–R435).
The layouts of eCPRI and of the O-RAN WG4 CUS-plane are those of the documents that R406 names. -/

namespace Sys2Proof.Machine

/-! ## Flow entries (R405) -/

abbrev FlowE := List W32
def fw (e : FlowE) (k : Nat) : W32 := nth e k 0
def fMac (e : FlowE) : Nat := fld (fw e 0) 6 0
def fTx (e : FlowE) : Bool := bit (fw e 0) 7
/-- 0 UPLANE, 1 CPLANE, 2 IQ_TD, 3 RAW. -/
def fhMode (e : FlowE) : Nat := fld (fw e 0) 9 8
def fPcp (e : FlowE) : Nat := fld (fw e 0) 12 10
def fTagv (e : FlowE) : Bool := bit (fw e 0) 13
def fVid (e : FlowE) : Nat := fld (fw e 0) 25 14
def fWin (e : FlowE) : Bool := bit (fw e 0) 26
def fStatic (e : FlowE) : Bool := bit (fw e 0) 27
def fFcin (e : FlowE) : Nat := fld (fw e 0) 31 28
def fEaxc (e : FlowE) : Nat := fld (fw e 1) 15 0
def fCmp (e : FlowE) : Nat := fld (fw e 1) 18 16
def fhMu (e : FlowE) : Nat := fld (fw e 1) 20 19
def fJit (e : FlowE) : Bool := bit (fw e 1) 21
def fBench (e : FlowE) : Nat := fld (fw e 2) 3 0
def fQueue (e : FlowE) : Nat := fld (fw e 2) 9 4
def fOpen (e : FlowE) : Int := sext 32 (fw e 3).toNat
def fClose (e : FlowE) : Int := sext 32 (fw e 4).toNat
def fJbase (e : FlowE) : Nat := pair64 (fw e 5) (fw e 6)
def fJdepth (e : FlowE) : Nat := (fw e 7).toNat
def fJsym (e : FlowE) : Nat := (fw e 8).toNat
def fAddr (e : FlowE) : Nat := pair64 (fw e 9) (fw e 10)

/-- Bytes of a PRB (R159, R410): uncompressed, or block floating point of a mantissa width. -/
def prbBytes (width : Nat) : Nat := if width = 16 ∨ width = 0 then 48 else 1 + 3 * width
def cmpWidth (c : Nat) : Nat := match c with | 1 => 8 | 2 => 9 | 3 => 12 | 4 => 14 | _ => 16

def flowOn (s : State) (f : Nat) : Option FlowE := assoc s.fh.flows f
def flowStat (s : State) (f : Nat) : FlowStat := (assoc s.fh.stats f).getD FlowStat.reset
def modStat (s : State) (f : Nat) (g : FlowStat → FlowStat) : State :=
  setFh s fun h => { h with stats := putKey h.stats f (some (g (flowStat s f))) }

/-- Symbol numbers in the hyperframe of a numerology. -/
def symRing (mu : Nat) : Nat := 143360 * 2 ^ mu

/-- The newest of some symbol numbers, on the circle of `ring` numbers; a where there is none. -/
def newestSym (ring a : Nat) (l : List Nat) : Nat := l.foldl (fun x y => if 2 * ((y + ring - x) % ring) < ring then y else x) a

/-- The symbols a flow keeps counts for (R411): the 64 up to the newest that has an accepted section, and ones to come whose
messages were early. -/
def keepSyms (ring n : Nat) (l : List SymCount) : List SymCount :=
  let acc := (l.filter fun y => decide (y.got ≠ 0)).map fun y => y.n
  let top := newestSym ring (acc.headD n) acc
  l.filter fun y => decide ((top + ring - y.n) % ring < 64) || (decide (y.got = 0) && decide ((y.n + ring - top) % ring < 64))

/-- The counts of a symbol number of a flow changed; those of the last 64 symbol numbers are kept (R411). -/
def modSym (s : State) (f n : Nat) (g : SymCount → SymCount) : State :=
  let ring := symRing (match flowOn s f with | some e => fhMu e | none => 3)
  modStat s f fun x =>
    let c := (x.syms.find? fun y => decide (y.n = n)).getD { n := n, got := 0, early := 0, late := 0, prbs := [] }
    let l := if x.syms.any fun y => decide (y.n = n) then x.syms.map fun y => if y.n = n then g c else y else x.syms ++ [g c]
    { x with syms := keepSyms ring n l }

/-! ## Frames on the wire (R404, R406) -/

/-- A big-endian number. -/
def beOf (bs : List Byte) : Nat := bs.foldl (fun a b => a * 256 + b.toNat) 0
def beAt (bs : List Byte) (i k : Nat) : Nat := beOf ((bs.drop i).take k)
def toBe (k n : Nat) : List Byte := (bytesOf k n).reverse

/-- A frame's classification fields: the source address, the VLAN ID of its one tag, the EtherType, the payload. -/
structure Parsed where
  sa   : Nat
  vid  : Option Nat
  ety  : Nat
  body : List Byte

/-- Whether a type is a tag's TPID. -/
def isTpid (t : Nat) : Bool := decide (t = 0x8100) || decide (t = 0x88A8)

/-- The fields of a frame; one with a second tag counts as untagged (R404). -/
def parseEth (bs : List Byte) : Parsed :=
  let t := beAt bs 12 2
  if isTpid t ∧ !isTpid (beAt bs 16 2) then
    { sa := beAt bs 6 6, vid := some (beAt bs 14 2 % 4096), ety := beAt bs 16 2, body := bs.drop 18 }
  else { sa := beAt bs 6 6, vid := none, ety := t, body := bs.drop 14 }

/-- An eCPRI message: its type, its eAxC identifier, its seqId, E, its payload after them, and all of it. -/
structure EMsg where
  typ  : Nat
  pcid : Nat
  seq  : Nat
  last : Bool
  body : List Byte
  all  : List Byte

/-- The messages of an eCPRI payload of revision 1, concatenated ones included (R406). -/
def eMsgs : Nat → List Byte → List EMsg
  | 0, _ => []
  | n + 1, bs =>
    let h := beAt bs 0 1
    let size := beAt bs 2 2
    if bs.length < 8 ∨ h / 16 ≠ 1 ∨ bs.length < 4 + size ∨ size < 4 then []
    else
      let m : EMsg :=
        { typ := beAt bs 1 1, pcid := beAt bs 4 2, seq := beAt bs 6 1, last := decide (128 ≤ beAt bs 7 1),
          body := (bs.drop 8).take (size - 4), all := bs.take (4 + size) }
      m :: (if h % 2 = 1 then eMsgs n (bs.drop ((4 + size + 3) / 4 * 4)) else [])

/-- The flow that a message or frame of MAC m matches (R407): tag, EtherType, message type against MODE, EAXC, address. -/
def matchFlow (s : State) (m : Nat) (p : Parsed) (modes : List Nat) (key : Nat) : Option (Nat × FlowE) :=
  s.fh.flows.find? fun e =>
    let f := e.2
    decide (fMac f = m) && !fTx f && modes.contains (fhMode f) && decide (fEaxc f = key) &&
    (match p.vid with | some v => fTagv f && decide (fVid f = v) | none => !fTagv f) &&
    (decide (fAddr f = 0) || decide (fAddr f = p.sa))

/-- The MODEs that an eCPRI message type stands for. -/
def typeModes (t : Nat) : List Nat := if t = 0 then [0, 2] else if t = 2 then [1] else []

/-! ## Positions and windows (R408) -/

/-- A position: SFN, slot of the frame, symbol; the start of the symbol in Tc of air-time, and its number in the hyperframe. -/
structure Pos where
  sfn  : Nat
  slot : Nat
  sym  : Nat
  start : Int
  n    : Nat

/-- The position that an application header names, for an arrival in air-time: the frame congruent to frameId modulo 256
whose symbol start lies nearest. None where a field is outside its range. -/
def posOf (mu : Nat) (hdr : List Byte) (arr : Nat) : Option Pos :=
  let frame := beAt hdr 1 1
  let x := beAt hdr 2 2
  let sub := x / 4096
  let slotId := x / 64 % 64
  let sym := x % 64
  if 10 ≤ sub ∨ 2 ^ mu ≤ slotId ∨ 14 ≤ sym then none
  else
    let g := sub * 2 ^ mu + slotId
    let off := symStart mu g sym
    let base := arr / tcFrame / 256 * 256 + frame
    let dist (f : Nat) : Nat := ((f * tcFrame + off : Nat) - (arr : Int)).natAbs
    let best (a b : Nat) : Nat := if dist a ≤ dist b then a else b
    let f := best base (best (base + 256) (if 256 ≤ base then base - 256 else base))
    some { sfn := f % 1024, slot := g, sym := sym, start := ((f * tcFrame + off : Nat) : Int), n := (f % 1024 * slotsPerFrame mu + g) * 14 + sym }

/-- A symbol's number in the hyperframe and its start, for symbol l of the slot that starts at a 32-bit tick (R413). -/
def absTick (s : State) (t : Nat) : Nat :=
  let d := (t + 2 ^ 32 - tickNow s % 2 ^ 32) % 2 ^ 32
  if d < 2 ^ 31 then tickNow s + d else tickNow s - (2 ^ 32 - d)
def jobSym (s : State) (mu tick l : Nat) : Nat × Nat :=
  let (st, idx) := slotFrom mu (absTick s tick)
  let g := idx % slotsPerFrame mu
  (idx * 14 + l, st - slotStart mu g + symStart mu g l)

/-! ## Receive (R407–R411) -/

def macCount (s : State) (m k n : Nat) : State := bump s R.macCount m k n

/-- ci16 samples in network order as little-endian ones, and the other way round. -/
def swap16 : List Byte → List Byte
  | a :: b :: r => b :: a :: swap16 r
  | r => r

/-- Bytes as 64-bit payload words, padded with zeros. -/
def payWords : Nat → List Byte → List MWord
  | 0, _ => []
  | _, [] => []
  | n + 1, bs => (BitVec.ofNat 64 (ofBytes (bs.take 8)), false) :: payWords n (bs.drop 8)

/-- Payload words pushed one after another. -/
def pushWords (s : State) (b q : Nat) (src : Producer) (ws : List MWord) : State := ws.foldl (fun t w => pushWord t b q src w false) s

/-- A queue delivery of MAC m (R409): header with TYPE and TAG, then the payload. A `cut` delivery stops after that many words
and is aborted (R404). `readStat` shows what the queue answered the header. -/
def deliver (s : State) (mh : Producer) (b q typ tag : Nat) (ws : List MWord) (cut : Option Nat) : State :=
  let hdr : W64 := BitVec.ofNat 64 (ws.length + 2 ^ 24 * typ + 2 ^ 32 * tag)
  let s1 := hdrWrite s b q mh hdr false
  if s1.readStat ≠ .ok then s1
  else match cut with
    | none => pushWords s1 b q mh ws
    | some n => abortPkt (pushWords s1 b q mh (ws.take (n - 1))) b q mh

/-- What a delivery left: whether it was whole and its queue took it. -/
def accepted (s : State) (cut : Option Nat) : Bool := cut.isNone && decide (s.readStat = .ok)

/-- TAG of a UPLANE section, CPLANE or IQ_TD message (R409). -/
def posTag (p : Pos) (seq : Nat) : Nat := p.sym + 2 ^ 4 * p.slot + 2 ^ 11 * p.sfn + 2 ^ 21 * seq

/-- The on-time sections of a message: section fields, compression header, PRB data. -/
structure Sect where
  head : Nat
  comp : Nat
  prbs : Nat
  size : Nat
  data : List Byte

/-- The sections of a UPLANE message after its application header; none where the bytes do not make a section. -/
def sects (e : FlowE) : Nat → List Byte → List Sect
  | 0, _ => []
  | n + 1, bs =>
    if bs.length < 4 then []
    else
      let head := beAt bs 0 4
      let hl := if fStatic e then 4 else 6
      let comp := if fStatic e then (match fCmp e with | 0 => 0 | 5 => Config.passHdr.toNat | c => cmpWidth c * 16 + 1) else beAt bs 4 1
      let size := if comp % 16 = 0 then 48 else prbBytes (comp / 16)
      let rest := bs.drop hl
      let num := head % 256
      if fCmp e = 5 then [{ head := head, comp := comp, prbs := num, size := 0, data := rest }]
      else
        let k := if num = 0 then rest.length / size else num
        if rest.length < k * size then []
        else { head := head, comp := comp, prbs := k, size := size, data := rest.take (k * size) } :: sects e n (rest.drop (k * size))

/-- The first payload word of a UPLANE packet (R409). -/
def sectWord (x : Sect) : W64 :=
  BitVec.ofNat 64 (x.head / 2 ^ 20 + 2 ^ 12 * (x.head / 2 ^ 19 % 2) + 2 ^ 13 * (x.head / 2 ^ 18 % 2) + 2 ^ 14 * (x.head / 2 ^ 8 % 1024) +
    2 ^ 24 * (x.head % 256) + 2 ^ 32 * x.comp)

/-- PRB data as the device stores it: uncompressed samples little-endian. -/
def sectData (x : Sect) : List Byte := if x.comp % 16 = 0 ∧ x.size = 48 then swap16 x.data else x.data

/-- The NI of a MAC: that of its shore (R345). -/
def macNi (m : Nat) : Nat := 16 + m / 8

/-- The PRBs of a section, in order; rb = 1 takes every second one. -/
def sectPrbs (x : Sect) : List Nat :=
  (List.range x.prbs).map fun i => x.head / 2 ^ 8 % 1024 + (if x.head / 2 ^ 19 % 2 = 1 then 2 * i else i)

/-- A section goes to the jitter buffer (R410), or is discarded whole where it reaches beyond it. The manual does not say whether
the MAC's writes are answered; they are posted.
DESIGN CHOICE, unsafe: log entry 167. -/
def jitSect (s : State) (m f : Nat) (e : FlowE) (p : Pos) (x : Sect) : State :=
  let ps := sectPrbs x
  if x.size = 0 ∨ ps.any fun k => decide (fJsym e / x.size ≤ k) then macCount s m 8 1
  else
    let base := fJbase e + p.n % fJdepth e * fJsym e
    let put (a : State) (y : Nat × Nat) : State :=
      netPost a (macNi m) (base + y.1 * x.size) ((sectData x).drop (y.2 * x.size) |>.take x.size)
    let s1 := ps.zipIdx.foldl put s
    modStat (modSym s1 f p.n fun c => { c with got := c.got + 1, prbs := c.prbs ++ ps.map fun k => (k, 1) }) f fun z => { z with recv := z.recv + 1 }

/-- A section goes to its queue; one whose header the queue refuses is not accepted. -/
def queueSect (s : State) (f : Nat) (src : Producer) (e : FlowE) (p : Pos) (seq : Nat) (cut : Option Nat) (x : Sect) : State :=
  let s1 := deliver s src (fBench e) (fQueue e) 1 (posTag p seq)
    ((sectWord x, false) :: payWords (x.data.length / 8 + 1) (sectData x)) cut
  if !accepted s1 cut then s1
  else modStat (modSym s1 f p.n fun c => { c with got := c.got + 1 }) f fun z => { z with recv := z.recv + 1 }

/-- The message's flow counts its seqId (R406). -/
def seqCheck (s : State) (m f seq : Nat) : State :=
  let x := flowStat s f
  let gap := match x.rxSeq with | some k => decide (seq ≠ (k + 1) % 256) | none => false
  let s1 := modStat s f fun y => { y with rxSeq := some seq, gap := y.gap + b2n gap }
  if gap then macCount s1 m 7 1 else s1

/-- What the window says of an arrival: on time, early or late (R408, R416). -/
def winOf (e : FlowE) (p : Pos) (arr : Nat) : Ordering :=
  if !fWin e then .eq
  else if (arr : Int) < p.start + fOpen e then .lt
  else if p.start + fClose e < (arr : Int) then .gt else .eq

/-- A message of a flow is delivered, or discarded as early or late. -/
def takeMsg (s : State) (m : Nat) (src : Producer) (f : Nat) (e : FlowE) (x : EMsg) (arr : Nat) (cut : Option Nat) : State :=
  if !x.last then macCount s m 6 1
  else
    let s1 := if cut.isSome then s else seqCheck s m f x.seq
    match posOf (fhMu e) x.body arr with
    | none => raise (macCount s1 m 3 1) E.mac m 5
    | some p =>
      match winOf e p arr with
      | .lt => raise (macCount (modStat (modSym s1 f p.n fun c => { c with early := c.early + 1 }) f fun z => { z with early := z.early + 1 }) m 4 1) E.mac m 3
      | .gt => raise (macCount (modStat (modSym s1 f p.n fun c => { c with late := c.late + 1 }) f fun z => { z with late := z.late + 1 }) m 5 1) E.mac m 4
      | .eq =>
        match fhMode e with
        | 0 =>
          let l := sects e x.body.length (x.body.drop 4)
          if fJit e then (if cut.isSome then s1 else l.foldl (fun a y => jitSect a m f e p y) s1)
          else l.foldl (fun a y => queueSect a f src e p x.seq cut y) s1
        | k =>
          let bs := if k = 1 then x.all else swap16 (x.body.drop 4)
          let s2 := deliver s1 src (fBench e) (fQueue e) (k + 1) (posTag p x.seq) (payWords (bs.length / 8 + 1) bs) cut
          if !accepted s2 cut then s2
          else modStat (modSym s2 f p.n fun c => { c with got := c.got + 1 }) f fun z => { z with recv := z.recv + 1 }

/-- A frame that matches no flow (R407): to the MAC's default queue, or discarded and counted. -/
def noFlow (s : State) (m : Nat) (src : Producer) (bs : List Byte) (cut : Option Nat) : State :=
  let w := nth (macOf s m).cfg 5 0#32
  if bit w 10 then deliver s src (fld w 3 0) (fld w 9 4) 5 m (payWords (bs.length / 8 + 1) bs) cut
  else if cut.isSome then s
  else raise (macCount s m 3 1) E.mac m 5

/-- A message that the MAC answers by itself: a delay-measurement request, with DMR = 1 (R406). -/
def answersDmr (s : State) (m : Nat) (x : EMsg) : Bool :=
  decide (x.typ = 5) && decide (x.pcid % 256 = 0) && bit (nth (macOf s m).cfg 0 0#32) 14

/-- A frame is classified and delivered (R407). eCPRI messages of other types than 0 and 2 go to RAW flows (R406): a frame that
carries one goes there once, whole, beside its messages of types 0 and 2. Of a frame that matches some flow, each message that matches
none counts in NOFLOW.
DESIGN CHOICE, safe: log entry 168. -/
def classify (s : State) (m : Nat) (src : Producer) (bs : List Byte) (arr : Nat) (cut : Option Nat) : State :=
  let p := parseEth bs
  let all := if p.ety = 0xAEFE then eMsgs p.body.length p.body else []
  let msgs := all.filter fun x => !(typeModes x.typ).isEmpty
  let others := all.filter fun x => (typeModes x.typ).isEmpty && !answersDmr s m x
  let raw := if all.isEmpty || !others.isEmpty then matchFlow s m p [3] p.ety else none
  let hits := msgs.filterMap fun x => (matchFlow s m p (typeModes x.typ) x.pcid).map fun e => (x, e)
  let lost := msgs.length - hits.length + (if raw.isNone then others.length else 0)
  if hits.isEmpty && raw.isNone then (if all.isEmpty || lost ≠ 0 then noFlow s m src bs cut else s)
  else
    let s1 := hits.foldl (fun a h => takeMsg a m src h.2.1 h.2.2 h.1 arr cut) s
    let s2 := match raw with
      | some (f, e) =>
        let t := deliver s1 src (fBench e) (fQueue e) 4 m (payWords (bs.length / 8 + 1) bs) cut
        if accepted t cut then modStat t f fun z => { z with recv := z.recv + 1 } else t
      | none => s1
    if cut.isNone ∧ lost ≠ 0 then raise (macCount s2 m 3 lost) E.mac m 5 else s2

/-- A time at a MAC's pins as its timestamp (R417): corrected by RXC on receive, TXC on transmit. -/
def rxStamp (s : State) (m : Nat) (t : Int) : Nat := wrapTo 64 (t + sext 16 (rdF s R.ptpAsym m 0 15 0))
def txStamp (s : State) (m : Nat) (t : Int) : Nat := wrapTo 64 (t + sext 16 (rdF s R.ptpAsym m 0 31 16))

/-! ### Transmit timestamps of PTP messages (R417), as IEEE 1588-2019 lays the messages out -/

/-- Where the PTP message of a frame begins, and the UDP checksum that covers it. -/
def ptpHead (bs : List Byte) : Option (Nat × Option Nat) :=
  let o := if isTpid (beAt bs 12 2) then 18 else 14
  let ety := beAt bs (o - 2) 2
  let ihl := 4 * (beAt bs o 1 % 16)
  if ety = 0x88F7 then some (o, none)
  else if ety = 0x0800 ∧ beAt bs (o + 9) 1 = 17 ∧ beAt bs (o + ihl + 2) 2 = 319 then
    some (o + ihl + 8, if beAt bs (o + ihl + 6) 2 = 0 then none else some (o + ihl + 6))
  else if ety = 0x86DD ∧ beAt bs (o + 6) 1 = 17 ∧ beAt bs (o + 42) 2 = 319 then some (o + 48, some (o + 46))
  else none

/-- Bytes of a frame from position i on replaced. -/
def putBytes (bs : List Byte) (i : Nat) (new : List Byte) : List Byte := bs.take i ++ new ++ bs.drop (i + new.length)

/-- An ATS_BASE value as PTP writes a time: 48 bits of TAI seconds, 32 bits of nanoseconds (R26). -/
def taiBytes (t : Nat) : List Byte := toBe 6 (t / tcPerSec + 315964819) ++ toBe 4 (t % tcPerSec * 1000000000 / tcPerSec)

/-- A one's complement sum of 16-bit numbers. -/
def onesSum (l : List Nat) : Nat := l.foldl (fun a b => (a + b) % 65536 + (a + b) / 65536) 0
def words16 (bs : List Byte) : List Nat := (List.range (bs.length / 2)).map fun i => beAt bs (2 * i) 2

/-- A Sync message with its origin timestamp, and the UDP checksum made good. -/
def oneStep (bs : List Byte) (h : Nat) (ck : Option Nat) (t : Nat) : List Byte :=
  let new := taiBytes t
  let old := (bs.drop (h + 34)).take 10
  let bs1 := putBytes bs (h + 34) new
  match ck with
  | none => bs1
  | some c =>
    let x := 65535 - onesSum ((65535 - beAt bs c 2) :: ((words16 old).map fun w => 65535 - w) ++ words16 new)
    putBytes bs1 c (toBe 2 (if x = 0 then 65535 else x))

/-- A frame leaves MAC m (R417): a one-step Sync message takes its origin timestamp, and the timestamp of any other PTP event
message is latched with its sequenceId for the firmware.
DEDUCED, safe: log entry 169. -/
def macSend (s : State) (m : Nat) (bs : List Byte) : State :=
  let t := txStamp s m (atsBase s)
  match ptpHead bs with
  | none => sendFrame s m bs
  | some (h, ck) =>
    let typ := beAt bs h 1 % 16
    if 4 ≤ typ then sendFrame s m bs
    else if typ = 0 ∧ beAt bs (h + 6) 1 / 2 % 2 = 0 then sendFrame s m (oneStep bs h ck t)
    else modMac (sendFrame s m bs) m fun c => { c with txStamp := some (BitVec.ofNat 64 t, BitVec.ofNat 16 (beAt bs (h + 30) 2)) }

/-- A received frame (R404): one too short, too long or with a bad FCS is discarded, and what of it had entered a queue is
aborted. The arrival is its timestamp on the air-time of R26.
DESIGN CHOICE, unsafe: log entry 91. -/
def ethRx (s : State) (m : Nat) (src : Producer) (f : EthFrame) : State :=
  if !macUp s m then s
  else
    let len := f.bytes.length + 4
    let arr := rxStamp s m ((f.stamp.toNat : Int) + offsetNow s)
    if !f.fcsOk ∨ len < 64 ∨ (nth (macOf s m).cfg 1 0#32).toNat < len then
      let s1 := if f.fcsOk then s else macCount s m 2 1
      if f.entered = 0 then s1 else classify s1 m src f.bytes arr (some f.entered)
    else classify (macCount (macCount s m 0 1) m 1 len) m src f.bytes arr none

/-- FEC codewords corrected and uncorrectable at a MAC (R430). -/
def fecCount (s : State) (m fixed bad : Nat) : State :=
  let s1 := macCount (macCount s m 12 fixed) m 13 bad
  if bad = 0 then s1 else raise s1 E.mac m 2

/-- `ETH_FRAME_RX` (R407). -/
def execEthFrameRx (m : Fin 128) (f : EthFrame) (s : State) : Host.Outcome State Fault Refusal :=
  .next (ethRx (if rdB s R.macStat m.val 0 2 then fecCount s m.val f.fecFixed f.fecBad else s) m.val (.mac m) f)

/-- An eCPRI delay-measurement request is answered in hardware (R406), with Tc timestamps, corrected as R417 has it: the request's
receive time and the response's transmit time. -/
def execEcpriDmrRx (m : Fin 128) (sa : BitVec 48) (id : Byte) (rx tx : BitVec 64) (s : State) : Host.Outcome State Fault Refusal :=
  .next (
    let c := macOf s m.val
    if !macUp s m.val ∨ !bit (nth c.cfg 0 0#32) 14 then s
    else
      let own := pair64 (nth c.cfg 3 0) (nth c.cfg 4 0)
      let r := rxStamp s m.val rx.toNat
      macSend s m.val (toBe 6 sa.toNat ++ toBe 6 own ++ [0xAE#8, 0xFE#8, 0x10#8, 0x05#8, 0x00#8, 0x14#8, id, 0x02#8] ++
        toBe 10 r ++ toBe 8 (wrapTo 64 ((txStamp s m.val tx.toNat : Int) - r))))

/-! ## Holds and the line (R404, R415, R429) -/

/-- The entry of a frame's job, and its flow's PCP. -/
def fhJobOf (s : State) (m i : Nat) : Option FhJob := s.fh.jobs.find? fun j => decide (j.mac = m) && decide (j.task = i)
def framePcp (s : State) (m : Nat) (x : FhFrame) : Nat := match fhJobOf s m x.task with | some j => fPcp j.entry | none => 0

/-- `FC_IN` pin k holds its flows: it is at its active level (R429). -/
def fcInHolds (s : State) (k : Nat) : Bool := decide (s.host.fcIn.getLsbD k = s.host.fcInPol.getLsbD k)

/-- The window of symbol l of a job in air-time: the instants of OPEN and CLOSE (R415). -/
def jobWindow (s : State) (j : FhJob) (l : Nat) : Int × Int :=
  let st : Int := (jobSym s (fhMu j.entry) (nth j.desc 2 0).toNat l).2
  (st + fOpen j.entry, st + fClose j.entry)

/-- CLOSE of a frame's symbol has passed. -/
def frameOver (s : State) (m : Nat) (x : FhFrame) : Bool := match fhJobOf s m x.task with
  | some j => decide ((jobWindow s j x.sym).2 < (s.ats.toNat : Int))
  | none => false

/-- A frame may not begin now: PFC, PAUSE or `FC_IN` holds it, or CLOSE has passed (R415). -/
def frameHeld (s : State) (m : Nat) (x : FhFrame) : Bool :=
  let c := macOf s m
  c.paused || frameOver s m x || rdB s R.macStat m 0 (6 + framePcp s m x) ||
  (match fhJobOf s m x.task with
   | some j => decide (fFcin j.entry ≠ 0) && fcInHolds s (fFcin j.entry - 1)
   | none => false)

/-- The frame that goes next: strict priority by PCP, eligibility order within it. -/
def nextFrame (s : State) (m : Nat) : Option FhFrame :=
  let l := (macOf s m).wait.filter fun x => !frameHeld s m x
  let top := listMax (l.map (framePcp s m))
  l.find? fun x => decide (framePcp s m x = top)

/-- An idle line takes the next frame. -/
def startLine (s : State) (m : Nat) : State :=
  if !macUp s m ∨ (macOf s m).line.isSome then s
  else match nextFrame s m with
    | none => s
    | some x => modMac s m fun c => { c with line := some x, wait := removeFirst (fun y => decide (y = x)) c.wait }

/-- Frames of a job that have not begun and are not on the line. -/
def jobLeft (s : State) (m i : Nat) : Bool :=
  (match fhJobOf s m i with | some j => !j.frames.isEmpty | none => false) ||
  (macOf s m).wait.any (fun x => decide (x.task = i)) ||
  (match (macOf s m).line with | some x => decide (x.task = i) | none => false)

def modJob (s : State) (m i : Nat) (f : FhJob → FhJob) : State :=
  setFh s fun h => { h with jobs := h.jobs.map fun j => if j.mac = m ∧ j.task = i then f j else j }

/-- An FHTX job whose frames are all sent or discarded completes (R414, R415); its record is posted.
DESIGN CHOICE, unsafe: log entry 167. -/
def fhtxEnd (s : State) (m i : Nat) : State :=
  match fhJobOf s m i with
  | none => s
  | some j =>
    if !j.tx ∨ jobLeft s m i then s
    else
      let st : Status := if j.unsent = 0 then .ok else if j.sent = 0 then .late else .partialDone
      let s1 := setFh s fun h => { h with jobs := h.jobs.filter fun k => !(decide (k.mac = m) && decide (k.task = i)) }
      complete (netPost s1 (macNi m) (j.param + 64) (wordBytes [w32 (statNum st), w32 j.sent, w32 j.unsent])) i (st16 st)

/-- Frames of a job counted as sent or as unsent, in the job and its flow (R415, R434). -/
def countFrames (s : State) (m i sent unsent : Nat) : State :=
  match fhJobOf s m i with
  | none => s
  | some j => modStat (modJob s m i fun k => { k with sent := k.sent + sent, unsent := k.unsent + unsent }) j.flow
      fun z => { z with sent := z.sent + sent, unsent := z.unsent + unsent }

/-- Frames discarded unsent; `late` counts them in TX_LATE (R415). -/
def dropFrames (s : State) (m i n : Nat) (late : Bool) : State :=
  let s1 := countFrames s m i 0 n
  if late ∧ n ≠ 0 then raise (macCount s1 m 11 n) E.mac m 6 else s1

/-- A job's remaining frames are unsent: its link left UP (R416). -/
def abandonJob (s : State) (j : FhJob) : State :=
  let c := macOf s j.mac
  let mine (x : FhFrame) := decide (x.task = j.task)
  let n := j.frames.length + (c.wait.filter mine).length + (match c.line with | some x => b2n (mine x) | none => 0)
  let s1 := modMac s j.mac fun c => { c with wait := c.wait.filter fun x => !mine x, line := c.line.filter fun x => !mine x }
  fhtxEnd (dropFrames (modJob s1 j.mac j.task fun k => { k with frames := [] }) j.mac j.task n false) j.mac j.task

/-- FHTX jobs on MACs that are not UP end (R416). -/
def fhDrop (s : State) : State := (s.fh.jobs.filter fun j => j.tx && !macUp s j.mac).foldl abandonJob s

/-- A received PFC frame (R404). -/
def execPfcFrameRx (m : Fin 128) (prio : Fin 8) (quanta : Fin 65536) (s : State) : Host.Outcome State Fault Refusal :=
  .next (
    if !macUp s m.val then s
    else
      let s1 := macCount s m.val 14 1
      if !bit (nth (macOf s m.val).cfg 0 0#32) 12 then s1
      else startLine (wrB s1 R.macStat m.val 0 (6 + prio.val) (decide (quanta.val ≠ 0))) m.val)

/-- A received PAUSE frame (R404). -/
def execPauseFrameRx (m : Fin 128) (quanta : Fin 65536) (s : State) : Host.Outcome State Fault Refusal :=
  .next (if !macUp s m.val ∨ !bit (nth (macOf s m.val).cfg 0 0#32) 13 then s
    else startLine (modMac s m.val fun c => { c with paused := decide (quanta.val ≠ 0) }) m.val)

/-- The quanta of a hold run out (R404): priority 0–7, or 8 for PAUSE. -/
def execPfcHoldExpiry (m : Fin 128) (prio : Fin 9) (s : State) : Host.Outcome State Fault Refusal :=
  .next (startLine (if prio.val = 8 then modMac s m.val fun c => { c with paused := false } else wrB s R.macStat m.val 0 (6 + prio.val) false) m.val)

/-- PFC is repeated while XOFF lasts (R404). -/
def execPfcRepeat (m : Fin 128) (prio : Fin 8) (s : State) : Host.Outcome State Fault Refusal :=
  .next (if (macOf s m.val).xoff.getLsbD prio.val then pfcSend s m.val prio.val (fld (nth (macOf s m.val).cfg 2 0) 15 0) else s)

/-- An `FC_IN` pin changes level (R429). -/
def execFcInChange (k : Fin 8) (level : Bool) (s : State) : Host.Outcome State Fault Refusal :=
  .next (
    let s1 := setHost s fun h => { h with fcIn := setBit h.fcIn k.val level }
    (s1.fh.macs.map fun e => e.1).foldl startLine s1)

/-! ## FHRX jobs (R412, R413) -/

/-- SYM0 and NSYM of a descriptor. -/
def symRange (d : List W32) : Nat × Nat := (fld (nth d 1 0) 3 0, fld (nth d 1 0) 7 4)
def jobSyms (d : List W32) : List Nat := (List.range (symRange d).2).map fun k => (symRange d).1 + k

/-- The checks that both descriptors share. -/
def fhRange (d : List W32) : Bool :=
  decide (fld (nth d 0 0) 3 0 = 1) && decide ((nth d 0 0).toNat < 2 ^ 16) && decide ((nth d 1 0).toNat < 2 ^ 8) &&
  decide (1 ≤ (symRange d).2) && decide ((symRange d).1 + (symRange d).2 ≤ 14)

/-- The status an FHRX job fails with at its start (R412); `STATE` where the flow has changed its MAC (R292). -/
def fhrxCheck (s : State) (m : Nat) (d : List W32) : Status :=
  if !fhRange d ∨ fld (nth d 3 0) 31 16 ≠ 0 ∨ fld (nth d 3 0) 15 0 = 0 ∨ fld (nth d 4 0) 31 9 ≠ 0 then .badParam
  else match flowOn s (fld (nth d 0 0) 15 4) with
    | none => .state
    | some e =>
      if fTx e ∨ fhMode e = 3 ∨ !fWin e ∨ (!fJit e ∧ fld (nth d 4 0) 8 0 ≠ 0) then .badParam
      else if fMac e ≠ m then .state else .ok

/-- The counts of a flow for a job's symbols: received, early, late. -/
def jobCounts (s : State) (j : FhJob) : Nat × Nat × Nat :=
  let ns := (jobSyms j.desc).map fun l => (jobSym s (fhMu j.entry) (nth j.desc 2 0).toNat l).1
  let cs := (flowStat s j.flow).syms.filter fun c => ns.contains c.n
  (listSum (cs.map fun c => c.got), listSum (cs.map fun c => c.early), listSum (cs.map fun c => c.late))

/-- The PRBs below NPRB of a symbol that no on-time section has written. -/
def missingPrbs (s : State) (j : FhJob) (n : Nat) : List Nat :=
  let w := ((flowStat s j.flow).syms.filter fun c => decide (c.n = n)).flatMap fun c => c.prbs
  (List.range (fld (nth j.desc 4 0) 8 0)).filter fun k => !(w.any fun p => decide (p.1 = k))

/-- PRBs of a jitter-buffer symbol written with the poison code: every word they touch. -/
def poisonPrbs (s : State) (j : FhJob) (n : Nat) (ks : List Nat) : State :=
  let size := prbBytes (cmpWidth (fCmp j.entry))
  let base := fJbase j.entry + n % fJdepth j.entry * fJsym j.entry
  ks.foldl (fun a k =>
    let lo := (base + k * size) / 8 * 8
    let hi := (base + (k + 1) * size + 7) / 8 * 8
    netPostWords a (macNi j.mac) lo (List.replicate ((hi - lo) / 8) poisonW)) s

/-- An FHRX job completes: by count, or at close with the missing PRBs poisoned (R413, R416). What it writes is posted.
DESIGN CHOICE, unsafe: log entry 167. -/
def fhrxEnd (s : State) (j : FhJob) : State :=
  let (got, early, late) := jobCounts s j
  let want := fld (nth j.desc 3 0) 15 0 * (symRange j.desc).2
  let byCount := decide (want ≤ got)
  let ns := (jobSyms j.desc).map fun l => (jobSym s (fhMu j.entry) (nth j.desc 2 0).toNat l).1
  let bad := if byCount ∨ !fJit j.entry then [] else ns.map fun n => (n, missingPrbs s j n)
  let s1 := bad.foldl (fun a x => poisonPrbs a j x.1 x.2) s
  let np := listSum (bad.map fun x => x.2.length)
  let st : Status := if want ≤ got ∧ np = 0 then .ok else .partialDone
  let s2 := setFh s1 fun h => { h with jobs := h.jobs.filter fun k => !(decide (k.mac = j.mac) && decide (k.task = j.task)) }
  let s3 := netPost s2 (macNi j.mac) (j.param + 64) (wordBytes [w32 (statNum st), w32 got, w32 (want - got), w32 early, w32 late, w32 np])
  complete s3 j.task (st16 st)

/-- The job is over: its count is reached, or air-time is at the start of its last symbol + CLOSE. -/
def fhrxOver (s : State) (j : FhJob) : Bool :=
  let last := (jobSym s (fhMu j.entry) (nth j.desc 2 0).toNat ((symRange j.desc).1 + (symRange j.desc).2 - 1)).2
  decide (fld (nth j.desc 3 0) 15 0 * (symRange j.desc).2 ≤ (jobCounts s j).1) || decide ((last : Int) + fClose j.entry ≤ (s.ats.toNat : Int))

/-- The descriptor of a fronthaul task, 64-byte aligned (R412): its words, or the status it fails with. -/
def fhDesc (s : State) (m : Nat) (t : Task) : State × Except Status (List W32) :=
  if t.param % 64 ≠ 0 then (s, .error .badParam) else
  let (s1, st, ws, p) := net32s s (macNi m) t.param 16
  if st ≠ .ok then (s1, .error st)
  else if p then (s1, .error .integrity) else (s1, .ok ws)

/-- `FHRX_JOB_START` (R412): the MAC starts the task that is staged. -/
def fhrxStart (s : State) (m : Fin 128) : State :=
  match beginTask s (.mac m false) with
  | none => s
  | some (s1, i, t) =>
    match fhDesc s1 m.val t with
    | (s2, .error st) => complete s2 i (st16 st)
    | (s2, .ok d) =>
      match fhrxCheck s2 m.val d with
      | .ok =>
        let f := fld (nth d 0 0) 15 4
        let j : FhJob :=
          { task := i, mac := m.val, tx := false, flow := f, entry := (flowOn s2 f).getD [], desc := d, param := t.param,
            frames := [], sent := 0, unsent := 0 }
        let s3 := setFh s2 fun h => { h with jobs := h.jobs ++ [j] }
        if fhrxOver s3 j then fhrxEnd s3 j else s3
      | st => complete s2 i (st16 st)

def execFhrxJobStart (m : Fin 128) (s : State) : Host.Outcome State Fault Refusal := .next (settled s (fhrxStart s m))

/-- `FHRX_COMPLETE` (R413): the count is reached, or the close has come; nothing before that. -/
def execFhrxComplete (m : Fin 128) (i : Fin 131072) (s : State) : Host.Outcome State Fault Refusal :=
  .next (match fhJobOf s m.val i.val with
    | some j => if j.tx ∨ !fhrxOver s j then s else fhrxEnd s j
    | none => s)

/-! ## FHTX jobs (R414, R415) -/

/-- Bytes of a frame of a flow beside its PRBs, samples or message: addresses, tag, EtherType, eCPRI and application
headers, section header, FCS.
DEDUCED, unsafe: log entry 170. -/
def frameExtra (e : FlowE) : Nat :=
  let eth := 18 + (if fTagv e then 4 else 0)
  match fhMode e with
  | 0 => eth + 8 + 4 + (if fStatic e then 4 else 6)
  | 1 => eth
  | _ => eth + 8 + 4

/-- The runs (first, count) of n units in frames of at most k. -/
def splitRuns (k : Nat) : Nat → Nat → Nat → List (Nat × Nat)
  | 0, _, _ => []
  | fuel + 1, first, n => if n = 0 ∨ k = 0 then [] else (first, Nat.min n k) :: splitRuns k fuel (first + Nat.min n k) (n - Nat.min n k)

/-- The frames of a symbol of a job. -/
def symFrames (s : State) (m i : Nat) (e : FlowE) (d : List W32) (l : Nat) : List FhFrame :=
  let maxf := (nth (macOf s m).cfg 1 0#32).toNat
  let mk (x : Nat × Nat) : FhFrame := { task := i, sym := l, first := x.1, count := x.2, elig := false }
  match fhMode e with
  | 0 => (splitRuns ((maxf - frameExtra e) / prbBytes (cmpWidth (fCmp e))) (fld (nth d 3 0) 18 10) 0 (fld (nth d 3 0) 18 10)).map mk
  | 1 => [mk (0, fld (nth d 3 0) 15 0)]
  | _ => (splitRuns ((maxf - frameExtra e) / 4) (fld (nth d 3 0) 15 0) 0 (fld (nth d 3 0) 15 0)).map mk

/-- The address of a symbol's data. -/
def symSrc (d : List W32) (l : Nat) : Nat :=
  wrapTo 48 ((pair64 (nth d 4 0) (nth d 5 0) + (l - (symRange d).1) * (nth d 6 0).toNat : Nat) : Int)

/-- Where the hardware fills the time, a message's sectionType must be 1 or 3 (R414): whether a job has one that is not. A
message that cannot be read is unsent when its turn comes. -/
def cplaneBad (s : State) (m : Nat) (d : List W32) : State × Bool :=
  if !bit (nth d 7 0) 0 then (s, false)
  else (jobSyms d).foldl (fun x l =>
    let (s1, st, bs, _) := netBytes x.1 (macNi m) (symSrc d l) 16
    (s1, x.2 || (decide (st = .ok) && !(decide (beAt bs 13 1 = 1) || decide (beAt bs 13 1 = 3))))) (s, false)

/-- The status an FHTX job fails with at its start (R412, R292), but for what its messages hold. -/
def fhtxCheck (s : State) (m : Nat) (d : List W32) : Status :=
  let maxf := (nth (macOf s m).cfg 1 0#32).toNat
  let w3 := nth d 3 0#32
  if !fhRange d ∨ fld (nth d 5 0) 31 16 ≠ 0 ∨ (nth d 6 0).toNat % 64 ≠ 0 ∨ fld (nth d 7 0) 31 1 ≠ 0 then .badParam
  else match flowOn s (fld (nth d 0 0) 15 4) with
    | none => .state
    | some e =>
      let bad : Bool := match fhMode e with
        | 0 => decide (fld w3 18 10 = 0) || decide (273 < fld w3 18 10) || bit w3 31 || decide (fCmp e = 5)
        | 1 => decide (fld w3 31 16 ≠ 0) || decide (fld w3 15 0 < 12) || decide (maxf < fld w3 15 0 + frameExtra e)
        | 2 => decide (fld w3 31 16 ≠ 0) || decide (fld w3 15 0 = 0)
        | _ => true
      if !fTx e ∨ bad ∨ (fhMode e ≠ 1 ∧ bit (nth d 7 0) 0) then .badParam
      else if fMac e ≠ m ∨ !macUp s m then .state else .ok

/-- `FHTX_JOB_START` (R412, R414). -/
def fhtxStart (s : State) (m : Fin 128) : State :=
  match beginTask s (.mac m true) with
  | none => s
  | some (s1, i, t) =>
    match fhDesc s1 m.val t with
    | (s2, .error st) => complete s2 i (st16 st)
    | (s2, .ok d) =>
      let st := fhtxCheck s2 m.val d
      let (s2, bad) := if st = .ok ∨ st = .state then cplaneBad s2 m.val d else (s2, false)
      match if bad then Status.badParam else st with
      | .ok =>
        let f := fld (nth d 0 0) 15 4
        let e := (flowOn s2 f).getD []
        let j : FhJob :=
          { task := i, mac := m.val, tx := true, flow := f, entry := e, desc := d, param := t.param,
            frames := (jobSyms d).flatMap fun l => symFrames s2 m.val i e d l, sent := 0, unsent := 0 }
        setFh s2 fun h => { h with jobs := h.jobs ++ [j] }
      | st => complete s2 i (st16 st)

def execFhtxJobStart (m : Fin 128) (s : State) : Host.Outcome State Fault Refusal := .next (settled s (fhtxStart s m))

/-- `FHTX_FRAME_ELIGIBLE` (R415): from start_l + OPEN on the frames of symbol l of a job are queued. -/
def execFhtxFrameEligible (m : Fin 128) (i : Fin 131072) (l : Fin 14) (s : State) : Host.Outcome State Fault Refusal :=
  .next (match fhJobOf s m.val i.val with
    | none => s
    | some j =>
      if (s.ats.toNat : Int) < (jobWindow s j l.val).1 then s else
      let go := j.frames.filter fun x => decide (x.sym = l.val)
      let s1 := modJob s m.val i.val fun k => { k with frames := k.frames.filter fun x => decide (x.sym ≠ l.val) }
      startLine (modMac s1 m.val fun c => { c with wait := c.wait ++ go.map fun x => { x with elig := true } }) m.val)

/-- The application header of a message for a symbol (R406): data direction downlink, payload version 1. -/
def appHeader (mu n : Nat) : List Byte :=
  let slot := n / 14 % slotsPerFrame mu
  let sfn := n / 14 / slotsPerFrame mu
  [0x90#8] ++ toBe 1 (sfn % 256) ++ toBe 2 (4096 * (slot / 2 ^ mu) + 64 * (slot % 2 ^ mu) + n % 14)

/-- The bytes of a frame of a job, from the destination address up to the FCS; none where its data could not be read
clean. -/
def frameBytes (s : State) (m : Nat) (j : FhJob) (x : FhFrame) : State × Option (List Byte) :=
  let e := j.entry
  let n := (jobSym s (fhMu e) (nth j.desc 2 0).toNat x.sym).1
  let size := prbBytes (cmpWidth (fCmp e))
  let (off, len) := match fhMode e with | 0 => (x.first * size, x.count * size) | 1 => (0, x.count) | _ => (4 * x.first, 4 * x.count)
  let (s1, st, bs, p) := netBytes s (macNi m) (symSrc j.desc x.sym + off) len
  if st ≠ .ok ∨ p then (s1, none)
  else
    let own := pair64 (nth (macOf s m).cfg 3 0) (nth (macOf s m).cfg 4 0)
    let seq := (flowStat s j.flow).txSeq
    let eth := toBe 6 (fAddr e) ++ toBe 6 own ++ (if fTagv e then [0x81#8, 0x00#8] ++ toBe 2 (8192 * fPcp e + fVid e) else []) ++ [0xAE#8, 0xFE#8]
    let raw := decide (fCmp e = 0) || decide (fhMode e = 2)
    let ecpri (typ : Nat) (body : List Byte) : List Byte :=
      [0x10#8] ++ toBe 1 typ ++ toBe 2 (4 + body.length) ++ toBe 2 (fEaxc e) ++ toBe 1 seq ++ [0x80#8] ++ body
    let w3 := nth j.desc 3 0#32
    let data := if raw then swap16 bs else bs
    let msg := match fhMode e with
      | 0 =>
        let head := 2 ^ 20 * fld w3 30 19 + 2 ^ 8 * ((fld w3 9 0 + x.first) % 1024) + (if 256 ≤ x.count then 0 else x.count)
        let comp := if fStatic e then [] else toBe 1 (if fCmp e = 0 then 0 else cmpWidth (fCmp e) * 16 + 1) ++ [0#8]
        ecpri 0 (appHeader (fhMu e) n ++ toBe 4 head ++ comp ++ data)
      | 1 =>
        let fill := if bit (nth j.desc 7 0) 0 then (bs.drop 8).take 1 ++ (appHeader (fhMu e) n).drop 1 else (bs.drop 8).take 4
        bs.take 6 ++ toBe 1 seq ++ (bs.drop 7).take 1 ++ fill ++ bs.drop 12
      | _ => ecpri 0 (appHeader (fhMu e) n ++ data)
    (modStat s1 j.flow fun z => { z with txSeq := (z.txSeq + 1) % 256 }, some (eth ++ msg))

/-- The frame on the line has left it. -/
def frameSent (s : State) (m : Nat) : State :=
  match (macOf s m).line with
  | none => s
  | some x =>
    let s0 := modMac s m fun c => { c with line := none }
    match fhJobOf s m x.task with
    | none => startLine s0 m
    | some j =>
      match frameBytes s0 m j x with
      | (s1, some bs) =>
        let s2 := macCount (macCount (macSend s1 m bs) m 9 1) m 10 (bs.length + 4)
        fhtxEnd (startLine (countFrames s2 m x.task 1 0) m) m x.task
      | (s1, none) => fhtxEnd (startLine (dropFrames s1 m x.task 1 false) m) m x.task

/-- `FHTX_FRAME_SENT` (R415): the frame on the line has left it. -/
def execFhtxFrameSent (m : Fin 128) (s : State) : Host.Outcome State Fault Refusal := .next (settled s (frameSent s m.val))

/-- `FHTX_CLOSE_EXPIRE` (R415): from start_l + CLOSE on frames of symbol l that have not begun are discarded. -/
def execFhtxCloseExpire (m : Fin 128) (i : Fin 131072) (l : Fin 14) (s : State) : Host.Outcome State Fault Refusal :=
  .next (match fhJobOf s m.val i.val with
    | none => s
    | some j =>
      if (s.ats.toNat : Int) < (jobWindow s j l.val).2 then s else
      let gone (x : FhFrame) := decide (x.task = i.val) && decide (x.sym = l.val)
      let n := (j.frames.filter gone).length + ((macOf s m.val).wait.filter gone).length
      let s1 := modMac s m.val fun c => { c with wait := c.wait.filter fun x => !gone x }
      let s2 := modJob s1 m.val i.val fun k => { k with frames := k.frames.filter fun x => !gone x }
      fhtxEnd (dropFrames s2 m.val i.val n true) m.val i.val)

/-! ## Commands (R431–R435) -/

/-- `FH_MAC_CONFIG` (R431). -/
def fhMacConfig (q : Req) (s : State) : Done :=
  let w := par q 0
  let m := fld w 6 0
  let en := bit w 7
  let sp := fld w 10 8
  let maxf := (par q 1).toNat
  let n := speedLanes sp
  let ls := (List.range n).map fun i => 2 * m + i
  let w5 := par q 5
  if !wellFormed q.params [0x7FFF#32, 0x3FFF#32, 0xFFFF#32, 0xFFFFFFFF#32, 0xFFFF#32, 0x7FF#32] then done s .badParam
  else if !laneHere s.variant (2 * m) ∨ (en ∧ ls.any fun k => !laneHere s.variant k) ∨ (bit w5 10 ∧ !benchHere s.variant (fld w5 3 0)) then done s .notPresent
  else if sp = 7 ∨ (speedFec sp ∧ !bit w 11) ∨ maxf < 1518 ∨ 9600 < maxf ∨ (n = 4 ∧ m % 2 = 1) then done s .badParam
  else if en ∧ ls.any fun k => carriesPcie s k then done s .notPermitted
  else if en ∧ (ls.any fun k => decide (laneRole s k ≠ 1) || decide (laneRate s k ≠ speedRate sp)) then done s .state
  else if en ∧ ((n = 4 ∧ macEn s (m + 1)) ∨ (m % 2 = 1 ∧ macEn s (m - 1) ∧ speedLanes (macSpeed s (m - 1)) = 4)) then done s .state
  else done (fhDrop (macSync (modMac (wr s R.macCfg m 0 w) m fun c => { c with cfg := q.params }) m)) .ok

/-- `FH_MAC_STATUS` (R432). -/
def fhMacStatus (q : Req) (s : State) : Done :=
  let m := (par q 0).toNat
  if !wellFormed q.params [0x7F#32] then done s .badParam
  else if !laneHere s.variant (2 * m) then done s .notPresent
  else doneW s [macStatView s m, rd s R.macEvt m]

/-- The number, enable and entry that an `FH_FLOW_CONFIG` carries. -/
def fcFlow (ps : List W32) : Nat := fld (nth ps 0 0) 11 0
def fcEn (ps : List W32) : Bool := bit (nth ps 0 0#32) 12
def fcEntry (ps : List W32) : FlowE := (ps.drop 3).take 12

/-- The commits of a kind that are staged, inner ones too, with the commit. -/
def stagedOf (s : State) (op : Nat) : List (Commit × List W32) := s.pn.commits.flatMap fun c =>
  if c.opcode = op then [(c, c.params)] else (c.inner.filter fun i => decide (i.opcode = op)).map fun i => (c, i.params)

/-- The flows enabled at a boundary: those of today with what is staged up to it applied. -/
def flowsAt (s : State) (b : Nat) : List (Nat × FlowE) :=
  ((sortBy (fun x y => decide (x.1.bnd < y.1.bnd)) ((stagedOf s 0x0503).filter fun c => decide (c.1.bnd ≤ b))).map fun c => c.2).foldl
    (fun l ps => putKey l (fcFlow ps) (if fcEn ps then some (fcEntry ps) else none)) s.fh.flows

/-- Two RX entries share their key (R407). -/
def sameKey (a b : FlowE) : Bool :=
  !fTx a && !fTx b && decide (fMac a = fMac b) && (fTagv a == fTagv b) && (!fTagv a || decide (fVid a = fVid b)) &&
  decide (fEaxc a = fEaxc b) &&
  ((decide (fhMode a = 3) && decide (fhMode b = 3)) ||
   (decide (fhMode a ≠ 3) && decide (fhMode b ≠ 3) && (decide (fhMode a = 1) == decide (fhMode b = 1))))

/-- A field of an entry is out of range (R405, R433). -/
def entryRange (e : FlowE) : Bool :=
  let rx := !fTx e
  onlyBits (fw e 1) 0x003FFFFF#32 && onlyBits (fw e 2) 0x3FF#32 && onlyBits (fw e 6) 0xFFFF#32 && onlyBits (fw e 7) 0x1FFF#32 &&
  onlyBits (fw e 10) 0xFFFF#32 && decide (fw e 11 = 0) &&
  decide (fCmp e ≤ 5) && decide (fFcin e ≤ 8) && (!rx || (decide (fPcp e = 0) && decide (fFcin e = 0))) && (rx || fWin e) &&
  (!fJit e || (rx && decide (fhMode e = 0) && decide (fCmp e ≠ 5))) &&
  ((rx && !fJit e) || decide (fw e 2 = 0)) && decide (fOpen e < fClose e) &&
  (if fJit e then decide (fJbase e % 64 = 0) && decide (0 < fJdepth e) && decide (143360 % fJdepth e = 0) && decide (0 < fJsym e) && decide (fJsym e % 64 = 0)
   else decide (fJbase e = 0))

/-- The checks of `FH_FLOW_CONFIG` before the boundary test (R433). The entry is checked whether or not EN is set; a disabled flow shares
its RX key with none.
DEDUCED, safe: log entry 118. -/
def fhFlowCheck (s : State) (ps : List W32) : Status :=
  let b := boundary (nth ps 1 0) (nth ps 2 0)
  let e := fcEntry ps
  let f := fcFlow ps
  if ps.length ≠ 15 ∨ !onlyBits (nth ps 0 0) 0x1FFF#32 ∨ bndFault s (nth ps 1 0) (nth ps 2 0) ∨ !entryRange e then .badParam
  else if fJit e ∧ !withinRegion s 2 (fJbase e) (fJdepth e * fJsym e) then .badParam
  else if fcEn ps ∧ (flowsAt s b).any (fun x => decide (x.1 ≠ f) && sameKey x.2 e) then .badParam
  else if (!laneHere s.variant (2 * fMac e) ∨ (!fTx e ∧ !fJit e ∧ !benchHere s.variant (fBench e))) then .notPresent
  else if (stagedOf s 0x0503).any (fun c => decide (c.1.bnd = b) && decide (fcFlow c.2 = f)) ∨ stepBars s b then .state
  else .ok

/-- An `FH_FLOW_CONFIG` takes effect. -/
def fhFlowApply (s : State) (ps : List W32) : State :=
  setFh s fun h => { h with flows := putKey h.flows (fcFlow ps) (if fcEn ps then some (fcEntry ps) else none) }

/-- `FH_FLOW_STATUS` (R434): the direction is that of the flow's entry, RX while it is disabled. -/
def fhFlowStatus (q : Req) (s : State) : Done :=
  let f := (par q 0).toNat
  let x := flowStat s f
  let tx := match flowOn s f with | some e => fTx e | none => false
  let two (n : Nat) : List W32 := [lo32 n, hi32 n]
  if !wellFormed q.params [0xFFF#32] then done s .badParam
  else doneW s ((if tx then [x.sent, x.unsent, 0, 0] else [x.recv, x.early, x.late, x.gap]).flatMap two)

/-- Jitter buffers in use, as base and bytes (R266). -/
def jitBuffers (s : State) : List (Nat × Nat) := s.fh.flows.filterMap fun e =>
  if fJit e.2 then some (fJbase e.2, fJdepth e.2 * fJsym e.2) else none

/-- `PTP_CONFIG` (R435). -/
def ptpConfig (q : Req) (s : State) : Done :=
  let ms := (List.range 128).filter fun m => bit (par q (1 + m / 32)) (m % 32)
  if !wellFormed q.params [0x7FF#32, 0xFFFFFFFF#32, 0xFFFFFFFF#32, 0xFFFFFFFF#32, 0xFFFFFFFF#32, 0xFF#32] then done s .badParam
  else if 16 < ms.length ∨ (!bit (par q 0) 2 ∧ 1 < ms.length) then done s .badParam
  else if ms.any fun m => !laneHere s.variant (2 * m) then done s .notPresent
  else if ms.any fun m => !macEn s m then done s .state
  else done (setHost s fun h => { h with ptp := q.params }) .ok

end Sys2Proof.Machine
end

