-- ==== Sys2Proof/Machine/LaceLink.lean ====
section
/-! DEFINITION. The Lace link layer: flits, blocks, handshake, credits, acknowledgements and replay (R441–R449). -/

namespace Sys2Proof.Machine

/-! ## Packets as flits (R347, R451) -/

/-- Requests and responses of a virtual network (R350): VN lane i = VN × 2 + response. -/
def vnLane (p : FPkt) : Nat := 2 * p.vn + (if p.kind = .resp then 1 else 0)

def kindNum : PKind → Nat | .rd => 0 | .wr => 1 | .wrp => 2 | .msg => 3 | .resp => 4
def kindOf : Nat → Option PKind | 0 => some .rd | 1 => some .wr | 2 => some .wrp | 3 => some .msg | 4 => some .resp | _ => none

/-- A status of R499 by its value. -/
def statOf (n : Nat) : Status := match n with
  | 0 => .ok | 1 => .busy | 2 => .badOpcode | 3 => .badParam | 4 => .lengthRange | 5 => .notPresent | 6 => .notPermitted
  | 7 => .authFail | 8 => .integrity | 9 => .timeout | 10 => .state | 11 => .noResource | 12 => .remoteUnreachable
  | 13 => .late | 14 => .deferred | 15 => .partialDone | _ => .fenced

/-- The head flit of a packet (R347, R451). -/
def headFlit (p : FPkt) : List W32 :=
  let pm := ((p.words.zipIdx).filter fun x => x.1.2).foldl (fun a x => a + 2 ^ x.2) 0
  [lo32 p.route, packF [(0, p.route / 2 ^ 32 % 2 ^ 16), (16, p.hops), (20, p.vn), (22, kindNum p.kind), (25, b2n p.fc)],
   packF [(0, p.src), (8, p.dst), (16, p.slot), (24, p.gen % 256)], lo32 p.addr, packF [(0, p.addr / 2 ^ 32 % 2 ^ 16), (16, p.len)],
   w32 pm, packF [(0, statNum p.status), (16, b2n p.inj)], lo32 p.lroute, packF [(0, p.lroute / 2 ^ 32 % 2 ^ 16), (16, p.srcDev)],
   lo32 p.rev, packF [(0, p.rev / 2 ^ 32 % 2 ^ 16), (16, p.nrev)], 0, 0, 0, 0, 0]

/-- Payload flits: 8 words of 64 bits each. -/
def payFlits : Nat → List (W64 × Bool) → List (List W32)
  | 0, _ => []
  | _, [] => []
  | n + 1, ws => ((ws.take 8 ++ List.replicate 8 (0#64, false)).take 8).flatMap (fun x => [lo32 x.1.toNat, hi32 x.1.toNat]) :: payFlits n (ws.drop 8)

/-- A packet's flits. -/
def flitsOf (p : FPkt) : List (List W32) := headFlit p :: payFlits 4 p.words

/-- The payload words that a head flit announces. -/
def headLen (h : List W32) : Nat := if fld (nth h 1 0) 24 22 = 0 then 0 else fld (nth h 4 0) 21 16

/-- The packet that a head flit and its payload flits make; none where KIND is reserved. -/
def packetOf (fs : List (List W32)) : Option FPkt :=
  let h := nth fs 0 []
  let w (k : Nat) : W32 := nth h k 0
  let body := (fs.drop 1).flatMap fun f => (List.range 8).map fun i => pair64 (nth f (2 * i) 0) (nth f (2 * i + 1) 0)
  let ws := ((body.take (headLen h)).zipIdx).map fun x => (BitVec.ofNat 64 x.1, bit (w 5) x.2)
  (kindOf (fld (w 1) 24 22)).map fun k =>
    { route := pair64 (w 0) (w 1) % 2 ^ 48, hops := fld (w 1) 19 16, vn := fld (w 1) 21 20, kind := k, fc := bit (w 1) 25,
      src := fld (w 2) 7 0, dst := fld (w 2) 15 8, slot := fld (w 2) 23 16, gen := fld (w 2) 31 24,
      addr := pair64 (w 3) (w 4) % 2 ^ 48, len := fld (w 4) 21 16, words := ws, status := statOf (fld (w 6) 15 0),
      inj := bit (w 6) 16, lroute := pair64 (w 7) (w 8) % 2 ^ 48, srcDev := fld (w 8) 31 16,
      rev := pair64 (w 9) (w 10) % 2 ^ 48, nrev := fld (w 10) 19 16, hit := 0, at_ := 0 }

/-! ## Blocks sent and received (R441, R442) -/

def tIDLE : Byte := 0x0F#8
def tFLIT : Byte := 0x33#8
def tLCTL : Byte := 0x55#8
def tMARKER : Byte := 0x66#8
def tSYNC : Byte := 0x99#8
def tEIE : Byte := 0xAA#8
def tHSK : Byte := 0xCC#8

def portL56 (s : State) (p : Nat) : Bool := rdB s R.lcCfg p 0 10

/-- The lane that carries block k of a port (R442). -/
def stripe (s : State) (p k : Nat) : Nat := nth (portLanes s p) (k % portWidth s p) 0

/-- A lane sends a block of its port: scrambled, stuffed, its line bits flipped where an injection says so (R391), recorded. The
transmitter of a lane behind a closed bypass is isolated (R455). -/
def sendOn (s : State) (p n : Nat) (typ : Byte) (payload : List W32) (crc : BitVec 24) (inv : Bool) : State :=
  if receiveOnly s n then s
  else
    let l56 := portL56 s p
    let (x, stuffed) := lineOut (laneSt s n) l56 typ payload crc
    let (s0, hit) := injLine (putLaneSt s n x) n (544 + (if l56 then 2 else 1) * stuffed)
    let s1 := bump (bump s0 R.lnCount n 4 stuffed) R.lcCount p 0 1
    modPort s1 p fun z => { z with out := z.out ++ [(typ.toNat + (if inv then 256 else 0) + (if hit.isEmpty then 0 else 512), payload)] }

/-- The next block of a port's stream leaves on the lane whose turn it is, its CRC inverted where `inv` says so. -/
def sendNext (s : State) (p : Nat) (typ : Byte) (payload : List W32) (inv : Bool) : State :=
  let crc := blockCrc typ payload
  modPort (sendOn s p (stripe s p (portOf s p).pos) typ payload (if inv then ~~~crc else crc) inv) p fun x => { x with pos := x.pos + 1 }

/-! ## Markers sent (R442, R458, R461) -/

def acting (s : State) : Nat := rdF s R.ldId 0 0 20 19
def mhId (s : State) : Nat := rdF s R.ldDom 0 0 15 0
def epochNow (s : State) : Nat := rdF s R.ldDom 0 0 31 16

/-- A port's MARKER payload (R461): TX_ATS is the present air-time. -/
def markerPayload (s : State) (p : Nat) : List W32 :=
  let x := portOf s p
  let on := joined s
  let (rq, ra) := match x.lastMk with
    | some (q, a) => (q, a.toNat)
    | none => (0, 0)
  [if on then rd s R.ldDom else 0#32, packF [(0, ownId s), (16, rdF s R.ldHoist 0 0 3 0), (20, x.mseq)], w32 s.lace.beat,
   lo32 s.ats.toNat, hi32 s.ats.toNat, lo32 ra, hi32 ra, w32 rq,
   packF [(0, rdF s R.ldHerr 0 0 15 0), (16, b2n (rdB s R.lcStat p 0 3))]] ++ List.replicate 7 0#32

/-- The port sends its marker of the period on every lane; where an injection leaves it out (R467), IDLE blocks stand in its place. -/
def sendMarker (s : State) (p : Nat) : State :=
  let s0 := if acting s = 2 then setLace s fun l => { l with beat := (l.beat + 1) % 2 ^ 32 } else s
  let q := (portOf s0 p).mseq
  let skip := rdB s0 R.lcInj p 0 1
  let m := markerPayload s0 p
  let s1 := if skip then wrB s0 R.lcInj p 0 1 false else s0
  let s2 := (List.range (portWidth s0 p)).foldl (fun a _ =>
    if skip then sendNext a p tIDLE (List.replicate 16 0#32) false else sendNext a p tMARKER m false) s1
  modPort s2 p fun y => { y with mseq := (q + 1) % 4096, sentMk := ((q, s.ats) :: y.sentMk).take 8 }

/-- The port's next block is block 4,095 of a run of 4,096 on each of its lanes: a MARKER (R442). -/
def markerPlace (s : State) (p : Nat) : Bool :=
  let k := (portOf s p).pos
  decide (k % portWidth s p = 0) && decide (k / portWidth s p % 4096 = 4095)

/-- IDLE blocks up to the place of the next marker. -/
def sendIdle : Nat → State → Nat → State
  | 0, s, _ => s
  | k + 1, s, p => if markerPlace s p then s else sendIdle k (sendNext s p tIDLE (List.replicate 16 0#32) false) p

/-- A marker period ends: what is left of the run is IDLE, then the marker follows, unless other blocks have filled the run before.
DESIGN CHOICE, safe: log entry 177. -/
def periodEnd (s : State) (p : Nat) : State :=
  if (portOf s p).marked then modPort s p fun x => { x with marked := false }
  else sendMarker (sendIdle (4096 * portWidth s p) s p) p

/-- A block leaves a port, and the marker whose place is reached with it. -/
def sendBlockInv (s : State) (p : Nat) (typ : Byte) (payload : List W32) (inv : Bool) : State :=
  let s1 := sendNext s p typ payload inv
  if markerPlace s1 p then modPort (sendMarker s1 p) p fun x => { x with marked := true } else s1
def sendBlock (s : State) (p : Nat) (typ : Byte) (payload : List W32) : State := sendBlockInv s p typ payload false

/-- A FLIT leaves a port; an injection inverts its CRC (R467). -/
def sendFlit (s : State) (p seq : Nat) (f : List W32) : State :=
  let inv := rdB s R.lcInj p 0 0
  let s1 := if inv then wrB s R.lcInj p 0 0 false else s
  modPort (sendBlockInv s1 p tFLIT f inv) p fun x =>
    { x with injSeq := if inv then seq :: x.injSeq else x.injSeq.filter fun q => decide (q ≠ seq) }

/-! ## Blocks received (R379, R441, R442, R448) -/

/-- SYNC blocks leave a lane in phase 5 (R377): payload and CRC are zero before scrambling. -/
def sendSync : Nat → State → Nat → Nat → State
  | 0, s, _, _ => s
  | k + 1, s, p, n => sendSync k (sendOn s p n tSYNC (List.replicate 16 0#32) 0#24 false) p n

/-- The type of a received block, and whether it was one bit off; none where it is invalid or its CRC fails. -/
def goodType (b : Block) : Option (Byte × Bool) := (typeOf b.typ).filter fun t => decide (blockCrc t.1 b.payload = b.crc)

/-- Wrong stuffed symbols are counted and reported (R379). -/
def stuffErrs (s : State) (n wrong : Nat) : State :=
  (List.range wrong).foldl (fun a _ => raise a E.lane n 7) (bump s R.lnCount n 5 wrong)

/-- What a block received on a port's lane leaves there (R379, R441, R442, R448): the line state, the blocks and errors
counted, the block invalid or not by its type. L28 has no FEC. -/
def recvLine (s : State) (p : Nat) (b : Block) : State :=
  let n := stripe s p (rd64 s R.lcCount p 1)
  let (x, wrong) := lineIn (laneSt s n) (portL56 s p) b
  let s0 := bump (putLaneSt s n { x with bad := ((typeOf b.typ).isNone :: x.bad).take 64 }) R.lcCount p 1 1
  let s1 := stuffErrs s0 n wrong
  let s2 := if portL56 s p then bump (bump s1 R.lcCount p 6 b.fecFixed) R.lcCount p 7 b.fecBad else s1
  match typeOf b.typ with
  | none => s2
  | some (t, fixed) =>
    let s3 := if fixed then bump s2 R.lcCount p 5 1 else s2
    if blockCrc t b.payload = b.crc then s3 else raise (bump s3 R.lcCount p 2 1) E.lc p 2

/-- A block arrives at a port: line errors counted, the type corrected, the CRC checked. Answers its type, or none where it
is invalid or its CRC fails. A port that is not configured has no lanes. -/
def recvBlock (s : State) (p : Nat) (b : Block) : State × Option Byte :=
  (if portEn s p then recvLine s p b else s, (goodType b).map fun t => t.1)

/-! ## Sending flits (R444, R447) -/

/-- A waiting packet with its payload flits, put in front of those that wait before it. -/
def frontPkt (ok : Nat → Bool) : Nat → List (Nat × List W32) → Option (List (Nat × List W32))
  | 0, _ => none
  | _, [] => none
  | k + 1, e :: r =>
    let (body, rest) := r.span fun x => decide (8 ≤ x.1)
    if ok e.1 then some (e :: r)
    else (frontPkt ok k rest).map fun q =>
      let (pkt, others) := (q.drop 1).span fun x => decide (8 ≤ x.1)
      q.take 1 ++ pkt ++ (e :: body) ++ others

/-- The flits that wait, the next to go first: the rest of a packet begun, else the first packet whose VN lane has a credit
(R444). -/
def nextFlits (x : LPort) : Option (List (Nat × List W32)) :=
  let ok (k : Nat) : Bool := decide (nth x.credits (k % 8) 0 ≠ 0)
  match x.txq with
  | [] => none
  | (k, f) :: r => if 8 ≤ k then (if ok k then some ((k, f) :: r) else none) else frontPkt ok x.txq.length x.txq

/-- The next flit that waits may go: the port is UP, the replay buffer has room, a credit is in hand. -/
def pumpOne (s : State) (p : Nat) : Option State :=
  let x := portOf s p
  if portState s p ≠ 3 ∨ 128 ≤ x.unacked.length then none
  else match nextFlits x with
    | some ((k, f) :: r) =>
      let v := k % 8
      let s1 := modPort s p fun y => { y with
        txq := r, txSeq := (y.txSeq + 1) % 256, unacked := y.unacked ++ [(y.txSeq, v, f)],
        credits := modNth y.credits v fun c => c - 1, eiReq := false }
      some (sendFlit s1 p x.txSeq f)
    | _ => none

/-- Every waiting flit that may go is sent. -/
def pumpN : Nat → State → Nat → State
  | 0, s, _ => s
  | n + 1, s, p => match pumpOne s p with | none => s | some t => pumpN n t p
def pump (s : State) (p : Nat) : State := pumpN (portOf s p).txq.length s p

/-- A packet's flits enter a queue (R444): VN2 ahead of packets of other networks that have not begun. A queue entry's
number is its VN lane, with 8 added for payload flits. -/
def enqueue (q : List (Nat × List W32)) (lane : Nat) (fs : List (Nat × List W32)) : List (Nat × List W32) :=
  if lane / 2 = 2 then
    let (a, b) := q.span fun e => decide (8 ≤ e.1) || decide (e.1 / 2 = 2)
    a ++ fs ++ b
  else q ++ fs

/-- A packet is given to a Lace port. A device that is not joined sends none (R438). -/
def laceTx (s : State) (port : Nat) (p : FPkt) : State :=
  if !joined s then s
  else
    let v := vnLane p
    let fs := (flitsOf p).zipIdx.map fun x => ((if x.2 = 0 then v else v + 8), x.1)
    pump (modPort s port fun y => { y with txq := enqueue y.txq v fs }) port

/-- The group of a ring port. -/
def portGroup (s : State) (p : Nat) : Nat := (rdF s R.lcCfg p 0 7 0 / 4 - 56) / 2

/-- The ring ports of group k, and the other port of a ring port's pair (R440). -/
def ringPorts (s : State) (k : Nat) : List Nat := (List.range 32).filter fun p =>
  portEn s p && portRing s p && decide (portGroup s p = k)
def pairOf (s : State) (p : Nat) : Option Nat := (ringPorts s (portGroup s p)).find? fun q =>
  decide (q ≠ p) && decide (rdF s R.lcCfg q 0 7 0 % 4 = rdF s R.lcCfg p 0 7 0 % 4)

/-- A packet goes back along REV, whose most recent hop is the port it leaves on; for a ring port that is not UP the other port of its
pair. Where that way is not open it is lost (R452, R453). -/
def laceBack (s : State) (p : FPkt) : State :=
  let h := p.rev % 64
  let k := { p with lroute := p.rev / 64 + 63 * 2 ^ (6 * (p.nrev - 1)), rev := 0, nrev := 0 }
  if 32 ≤ h then s
  else if portEn s h ∧ portRing s h ∧ portState s h ≠ 3 then
    match pairOf s h with
    | some x => if portState s x = 3 then laceTx s x k else s
    | none => s
  else if portState s h = 3 ∨ portState s h = 4 then laceTx s h k else s

/-! ## The Hoist upstream (R460) -/

/-- The upstream port selected. -/
def upstream (s : State) : Option Nat := (List.range 32).find? fun p => rdB s R.lcStat p 0 3

/-- DEPTH and ERR_EST follow the upstream's (R460, R462). An upstream that lies too deep raises HOIST_DEEP once, and the Hoist is not
qualified through it. -/
def takeDepth (s : State) (depth err : Nat) : State :=
  let nw := if 8 ≤ depth then 15 else depth + 1
  let s1 := wr (wrF s R.ldHoist 0 0 3 0 nw) R.ldHerr 0 0 (w32 (Nat.min 0xFFFF (err + 30)))
  let s2 := setLace s1 fun l => { l with deep := decide (nw = 15) }
  if nw ≠ 15 then s2
  else
    let s3 := if s.lace.deep then s2 else raise s2 E.ld 0 5
    if rdB s3 R.ldHoist 0 0 9 then loseRef s3 0 else s3

/-- The UP ports whose partner is joined in the same epoch and lies in the tree: port, depth, error estimate. -/
def hoistPorts (s : State) : List (Nat × Nat × Nat) := (List.range 32).filterMap fun p =>
  if portState s p = 3 ∧ rdB s R.lcStat p 0 21 = true then
    match (portOf s p).pmark with
    | some (_, e, _, d, r, _) => if e = epochNow s ∧ d ≠ 15 then some (p, d, r) else none
    | none => none
  else none

/-- The device selects an upstream port: smallest depth, then error estimate, then port. -/
def selectUp (s : State) : State :=
  let s0 := (List.range 32).foldl (fun a p => wrB a R.lcStat p 0 3 false) s
  let less (x y : Nat × Nat × Nat) : Bool := decide (x.2.1 < y.2.1) || (decide (x.2.1 = y.2.1) && decide (x.2.2 < y.2.2))
  match sortBy less (hoistPorts s0) with
  | [] => setLace (wr (wrF (wrF s0 R.ldHoist 0 0 3 0 15) R.ldHoist 0 0 8 4 0) R.ldHerr 0 0 0xFFFF#32) fun l => { l with deep := false }
  | (p, d, r) :: _ =>
    takeDepth (wrF (modPort (wrB s0 R.lcStat p 0 3 true) p fun x => { x with thetas := [], same := 0 }) R.ldHoist 0 0 8 4 p) d r

/-- The selection changes only where there is none or the upstream port's link is lost. -/
def hoistFix (s : State) : State :=
  if !joined s ∨ acting s = 2 then s else
  match upstream s with
  | some p => if portState s p = 3 then s else selectUp s
  | none => selectUp s

/-- The link of a port is lost (R448): its lanes retrain. -/
def linkLost (s : State) (p : Nat) : State := match portLanes s p with
  | [] => s
  | n :: _ => hoistFix (retrain s n)

/-- An injection re-arms `LC_INJ`.CRC ahead of a replay (DID 0x1B). -/
def rearmCrc (s : State) (p : Nat) : State :=
  if s.det.armed.any fun e => decide (e.1 = 0x1B) && decide (e.2.1 = p) && decide (0 < e.2.2.1) then
    wrB { s with det := { s.det with armed := (s.det.armed.map fun e =>
      if e.1 = 0x1B ∧ e.2.1 = p then (e.1, e.2.1, e.2.2.1 - 1, e.2.2.2) else e).filter fun e => decide (e.1 ≠ 0x1B) || decide (0 < e.2.2.1) } }
      R.lcInj p 0 0 true
  else s

/-- Every outstanding block from a sequence number on is replayed (R447); the 8th replay in a row of one number exhausts it. The
events carry INJ where an injection had spoilt one of the blocks (R467). -/
def replay (s : State) (p : Nat) : State :=
  let x := portOf s p
  match x.unacked with
  | [] => s
  | (q, _, _) :: _ =>
    let n := if x.replays ≠ 0 ∧ x.replayAt = q then x.replays + 1 else 1
    let inj : W32 := if x.unacked.any fun b => x.injSeq.contains b.1 then 0x80#32 else 0#32
    let s1 := raiseI (bump (modPort s p fun y => { y with replays := n, replayAt := q }) R.lcCount p 3 1) E.lc p 0 (0x08#32 ||| inj)
    if 8 ≤ n then linkLost (raiseI (bump s1 R.lcCount p 4 1) E.lc p 0 (0x10#32 ||| inj)) p
    else x.unacked.foldl (fun a b => sendFlit a p b.1 b.2.2) (rearmCrc s1 p)

/-- Blocks up to a sequence number are acknowledged. -/
def ackTo_ (l : List (Nat × Nat × List W32)) (q : Nat) : List (Nat × Nat × List W32) :=
  if l.any fun b => decide (b.1 = q) then (l.dropWhile fun b => decide (b.1 ≠ q)).drop 1 else l

/-- An LCTL block of a port (R446). -/
def sendLctl (s : State) (p : Nat) (nak : Bool) : State :=
  let x := portOf s p
  let w0 := packF [(0, (x.rxSeq + 255) % 256), (8, b2n nak)]
  let s1 := modPort s p fun y => { y with owed := List.replicate 8 0, since := 0, ackDue := false }
  sendBlock s1 p tLCTL ([w0] ++ x.owed.map w32 ++ List.replicate 7 0#32)

/-- `FLIT_RX` (R445–R447): its implicit sequence number is `seq`. Of a failure one NAK is sent: the replayed FLIT that fails again is a
failure of its own. The 32nd FLIT block received since the last LCTL, good or not, is answered with one at once. -/
def flitRx (s : State) (p seq : Nat) (b : Block) : State :=
  if portState s p ≠ 3 then s else
  let (s1, t) := recvBlock s p b
  let flit := decide ((typeOf b.typ).map (fun x => x.1) = some tFLIT)
  let s2 := modPort s1 p fun y => { y with since := y.since + b2n flit }
  let x := portOf s2 p
  let good := decide (t = some tFLIT) && decide (seq = x.rxSeq)
  if (flit || t.isNone) && !good && (!x.naked || decide (seq = x.rxSeq)) then
    sendLctl (modPort s2 p fun y => { y with naked := true }) p true
  else
    let s3 := if good then
        modPort s2 p fun y => { y with rxSeq := (y.rxSeq + 1) % 256, naked := false, ackDue := true, rx := y.rx ++ [b.payload], eiReq := false, spliceAt := none }
      else s2
    if 32 ≤ x.since then sendLctl s3 p false else s3

def execFlitRx (p : Fin 32) (seq : Fin 256) (b : Block) (s : State) : Host.Outcome State Fault Refusal :=
  .next (flitRx s p.val seq.val b)

/-- `LCTL_RX` (R446, R447). -/
def lctlRx (s : State) (p : Nat) (b : Block) : State :=
  if portState s p ≠ 3 then s else
  let (s1, t) := recvBlock s p b
  if t ≠ some tLCTL then s1
  else
    let w := nth b.payload 0 0#32
    let s2 := modPort s1 p fun y => { y with
      unacked := ackTo_ y.unacked (fld w 7 0), spliceAt := none,
      credits := (y.credits.zipIdx).map fun c => c.1 + fld (nth b.payload (1 + c.2) 0) 15 0 }
    pump (if bit w 8 then replay s2 p else s2) p

def execLctlRx (p : Fin 32) (b : Block) (s : State) : Host.Outcome State Fault Refusal := .next (lctlRx s p.val b)

/-- `LCTL_SEND_TIMER` (R446). -/
def execLctlSendTimer (p : Fin 32) (s : State) : Host.Outcome State Fault Refusal :=
  .next (
    let x := portOf s p.val
    if portState s p.val = 3 ∧ (x.ackDue ∨ x.owed.any fun c => decide (c ≠ 0)) then sendLctl s p.val false else s)

/-- `REPLAY_TIMEOUT` (R447). -/
def execReplayTimeout (p : Fin 32) (s : State) : Host.Outcome State Fault Refusal :=
  .next (if portState s p.val = 3 then replay s p.val else s)

/-! ## Handshake (R443) -/

/-- An HSK block's payload; `splice` gives RXSEQ of a join splice. -/
def hskPayload (s : State) (p : Nat) (splice : Option Nat) : List W32 :=
  let x := portOf s p
  let c := rd s R.lcCfg p
  [packF [(0, rdF s R.ldId 0 0 15 0), (16, b2n (joined s)), (17, b2n x.hsRx), (18, b2n splice.isSome)],
   packF [(0, if joined s then epochNow s else 0), (16, mhId s)],
   packF [(0, p), (5, fld c 9 8), (7, fld c 10 10), (8, splice.getD 0)]] ++ List.replicate 13 0#32

/-- Why a handshake fails (R443): 1 MISMATCH, 2 FOREIGN, 3 DISABLED. -/
def hskFault (s : State) (p : Nat) (b : List W32) : Option Nat :=
  let c := rd s R.lcCfg p
  let w (k : Nat) : W32 := nth b k 0
  if !portEn s p then some 3
  else if fld (w 2) 6 5 ≠ fld c 9 8 ∨ fld (w 2) 7 7 ≠ fld c 10 10 then some 1
  else if bit (w 0) 16 ∧ joined s ∧ fld (w 1) 31 16 ≠ mhId s then some 2 else none

/-- The partner that an HSK names is shown in `LC_STAT`. -/
def showPartner (s : State) (p : Nat) (b : List W32) : State :=
  wrB (wrF s R.lcStat p 0 20 5 (fld (nth b 0 0) 15 0)) R.lcStat p 0 21 (bit (nth b 0 0#32) 16)

/-- The handshake of a port is complete: its lanes reach UP. -/
def handshakeDone (s : State) (p : Nat) : State :=
  let s1 := (portLanes s p).foldl laneUp s
  let s2 := pump (portSync s1 p) p
  if p = 0 ∧ rdF s R.bootStat 0 0 4 3 = 2 ∧ rdF s R.bootStat 0 0 2 0 = 2 then
    setLace s2 fun l => { l with out := l.out ++ [{ kind := 6, dev := 0, words := [0x424F4F54] }] }
  else s2

/-- A handshake fails (R443): the reason is recorded, and lanes in phase 6 end their attempt (R384).
DEDUCED, safe: log entry 178. -/
def hskFail (s : State) (p r : Nat) : State :=
  let s1 := raise (wrF s R.lcStat p 0 24 22 r) E.lc p 5
  let mine (a : State) (n : Nat) : Bool := decide (laneRole a n = 2) && decide (laneState a n = 6) && decide ((lanePort a n).getD p = p)
  portSync ((portLanes s1 p).foldl (fun a n => if mine a n then failLane a n 0 else a) s1) p

/-- A neighbour of a spliced device takes it as its new partner (R456): credits as at a handshake, FLITs from RXSEQ replayed, the
transmit FIR adapted afresh to values that are free. Each of its HSKs is answered with ACK; the partner changes with the first. -/
def newPartner (s : State) (p : Nat) (b : List W32) : State :=
  let q := fld (nth b 2 0) 15 8
  let again := decide ((portOf s p).spliceAt = some q)
  let s1 := if again then s else
    let (f, s0) := drawFree (raise (showPartner s p b) E.lc p 6)
    (portLanes s0 p).foldl (fun a n => modLaneSt a n fun x =>
      { x with eq := if x.eq.isEmpty then [] else (List.range 4).foldl (fun l k => setNth l (13 + k) (BitVec.ofNat 16 (f.toNat / 2 ^ (16 * k)))) x.eq })
      (modPort s0 p fun y =>
        let keep := if y.unacked.any fun e => decide (e.1 = q) then y.unacked.dropWhile fun e => decide (e.1 ≠ q) else []
        { y with unacked := keep, txSeq := if keep.isEmpty then q else y.txSeq,
                 credits := (List.range 8).map fun v => 64 - (keep.filter fun e => decide (e.2.1 = v)).length,
                 owed := List.replicate 8 0, hsRx := true, spliceAt := some q })
  let s2 := sendBlock s1 p tHSK (hskPayload s1 p none)
  if again then s2 else replay s2 p

/-- `HSK_RX` (R443, R456). -/
def hskRx (s : State) (p : Nat) (b : Block) : State :=
  let (s1, t) := recvBlock s p b
  if t ≠ some tHSK then s1
  else match hskFault s1 p b.payload with
    | some r => hskFail s1 p r
    | none =>
      let w := nth b.payload 0 0#32
      if portState s1 p = 3 then (if bit w 18 ∧ portRing s1 p then newPartner s1 p b.payload else s1)
      else if portState s1 p = 2 ∨ portState s1 p = 5 then
        let s2 := modPort (showPartner s1 p b.payload) p fun y => { y with hsRx := true, hsAck := y.hsAck || bit w 17 }
        if bit w 17 ∧ !receiveOnly s2 (nth (portLanes s2 p) 0 0) then handshakeDone s2 p else s2
      else s1

/-- `HSK_SEND_TIMER` (R443). -/
def execHskSendTimer (p : Fin 32) (s : State) : Host.Outcome State Fault Refusal :=
  .next (if portState s p.val = 2 ∧ !receiveOnly s (nth (portLanes s p.val) 0 0) then
      sendBlock s p.val tHSK (hskPayload s p.val none)
    else if portState s p.val = 5 then sendBlock s p.val tHSK (hskPayload s p.val (some (portOf s p.val).rxSeq)) else s)

/-! ## Link loss and electrical idle (R448, R449, R457) -/

/-- 8 invalid blocks within the last 64 on a lane of the port (R448). -/
def linesBad (s : State) (p : Nat) : Bool :=
  (portLanes s p).any fun n => decide (8 ≤ ((laneSt s n).bad.filter id).length)

/-- `LACE_LINK_LOSS` (R448): 8 invalid blocks within 64, or two consecutive markers missing, as the row says; and the
change that follows a partner's LEAVE (R457). Exhaustion loses the link by itself. -/
def execLaceLinkLoss (p : LinkLoss) (s : State) : Host.Outcome State Fault Refusal :=
  .next (if (portState s p.port.val = 3 ∨ portState s p.port.val = 4) ∧ (p.markers || linesBad s p.port.val || (portOf s p.port.val).leave) = true then
    linkLost s p.port.val else s)

/-- A port that may be in electrical idle (R449): UP, no part of a ring pair, and without the Hoist in either direction. -/
def mayIdle (s : State) (p : Nat) : Bool :=
  !portRing s p && decide (portState s p = 3) && !rdB s R.lcStat p 0 3 && !rdB s R.lcStat p 0 4

/-- `EI_IDLE_TIMER` (R449): the port announces electrical idle with one EIE block. -/
def execEiIdleTimer (p : Fin 32) (s : State) : Host.Outcome State Fault Refusal :=
  .next (
    let k := p.val
    let x := portOf s k
    let may := rdB s R.lcCfg k 0 13 && mayIdle s k && x.txq.isEmpty && x.unacked.isEmpty && !x.eiReq
    if may then modPort (sendBlock s k tEIE (List.replicate 16 0#32)) k fun y => { y with eiReq := true } else s)

/-- `EIE_RX` (R449, R457): the partner enters electrical idle, or leaves the ring. -/
def execEieRx (p : Fin 32) (b : Block) (s : State) : Host.Outcome State Fault Refusal :=
  .next (
    let (s1, t) := recvBlock s p.val b
    if t ≠ some tEIE ∨ portState s p.val ≠ 3 then s1
    else if nth b.payload 0 0#32 = 0x4C454156#32 then modPort s1 p.val fun y => { y with leave := true }
    else if mayIdle s1 p.val then modPort s1 p.val fun y => { y with eiReq := true } else s1)

end Sys2Proof.Machine
end

