-- ==== Sys2Proof/Machine/Fabric.lean ====
section
/-! DEFINITION. The packets of the fabric: source NIs, routers, targets, responses, rate regulators, route tables and router
reconfiguration (R342–R368). -/

namespace Sys2Proof.Machine

/-! ## Answers at the source (R348, R353, R356) -/

/-- A request that its source answers: reads and answered writes get the status, a read LEN words with it; posted requests
are discarded. -/
def answerHere (s : State) (n : Nat) (k : PKind) (len : Nat) (st : Status) (w : MWord) : State :=
  match k with
  | .rd => niAnswer s n st (List.replicate len w)
  | .wr => niAnswer s n st []
  | _ => s

/-- Why the source NI refuses a packet (R348). -/
def badRequest (k : PKind) (a len : Nat) : Option Status :=
  if len = 0 ∧ k ≠ .msg then some .badParam
  else if 33 ≤ len then some .lengthRange
  else if a % 4096 + 8 * len > 4096 then some .badParam else none

/-- The address of a shell (R346). -/
def inShells (a : Nat) : Bool := decide (0x030000000000 ≤ a) && decide (a < 0x040000000000)

/-- The initiator behind NI n that sends a packet of kind k for address a is wired to virtual network vn (R349). Engines, DMA
channels and the Cordwainer access memory and queues on VN1; messages of units are completions, grants and staged tasks on VN2, or
limit-junction and fence messages on VN3. The management processor reaches shells on VN3 and stages on VN0; the MRAM interface is on
VN3. The PCIe endpoint reaches shells on VN3, for Pennant queues on VN0, all else on VN1.
DEDUCED, safe: log entry 115. -/
def vnWired (n vn : Nat) (k : PKind) (a : Nat) : Bool :=
  if k = .msg then decide (vn = 3) || (decide (n < 37) && decide (vn = 2))
  else if n = 37 then decide (vn = if inShells a then 3 else 0)
  else if n = 38 then decide (vn = 3)
  else if n = 39 then (if inShells a then decide (vn = 0) || decide (vn = 3) else decide (vn = 1))
  else decide (vn = 1)

/-- A posted write that its source answers without an event of its own is counted (R353). -/
def notePosted (s : State) (n : Nat) (k : PKind) : State := if k = .wrp then noteLost s n else s

/-- A request of VN vn waits for tokens at NI n, which holds its initiators back (R355). -/
def vnHeld (s : State) (n vn : Nat) : Bool :=
  s.fab.queued.any fun e => decide (e.1 = n) && decide (e.2.vn = vn) && !isResp e.2

/-- `NI_REQUEST_SEND` (R348, R353, R355, R356): an initiator behind NI n hands over a request at word address `a`. A full
slot table, a request that waits for tokens or a domain that drains holds the initiator back. The packet's FC bit is that of a push
into a queue (R253): the initiator does not choose it. -/
def requestSend (s : State) (n vn : Nat) (k : PKind) (a len : Nat) (words : List MWord) : State :=
  let fc := (decide (k = .wr) || decide (k = .wrp)) && isPush a
  if !niHere s.variant n ∨ !vnWired n vn k a ∨ vnHeld s n vn ∨ fnState s (niDomain n) ≠ 0 then s
  else match badRequest k a len with
    | some st => answerHere (raise s E.ni n 4) n k len st poisonW
    | none =>
      match wayOf s n a with
      | .local_ st => answerHere (notePosted s n k) n k len st poisonW
      | .miss => answerHere (noteMiss s n) n k len .notPresent poisonW
      | .absent_ => answerHere s n k len .ok (cleanW 0)
      | .noMem => answerHere (notePosted s n k) n k len .notPresent poisonW
      | .fenced => answerHere (noteFenced s n) n k len .fenced poisonW
      | .send d e =>
        let ws := if k = .rd then [] else (words ++ List.replicate len (cleanW 0)).take len
        let dst := if d = 63 then shoreNi s e else d
        if k = .rd ∨ k = .wr then
          match freeSlot s n with
          | none => s
          | some sl =>
            let g := nextGen s n sl
            let p := mkPkt e n dst vn k fc a len sl g ws (ownId s)
            let s1 := setFab s fun f => { f with gens := putKey f.gens (256 * n + sl) (some ((g + 1) % 256)) }
            if tmoArmed s1 n ∧ !fc then
              answerHere (noteTimeout (regulate (wr s1 R.niInj n 0 0) n { p with inj := true }) n true) n k len .timeout poisonW
            else
              let s2 := setFab s1 fun f => { f with outst := f.outst ++
                [{ ni := n, slot := sl, gen := g, len := len, rd := decide (k = .rd), fc := fc, remote := decide (d = 63) }] }
              regulate s2 n p
        else regulate s n (mkPkt e n dst vn k fc a len 0 0 ws (ownId s))

def execNiRequestSend (n : Fin 40) (vn : Fin 4) (kind : Fin 4) (_fc : Bool) (a : BitVec 45) (len : Fin 64) (words : List TWord)
    (s : State) : Host.Outcome State Fault Refusal :=
  .next (requestSend s n.val vn.val ((kindOf kind.val).getD .rd) (8 * a.toNat) len.val words)

/-- `NI_TOKEN_RELEASE` (R355): fabric cycles pass. -/
def execNiTokenRelease (n : Fin 40) (vn : Fin 4) (cycles : Fin 65536) (s : State) : Host.Outcome State Fault Refusal :=
  .next (tokenRun (s.fab.queued.length + 1) s n.val vn.val cycles.val)

/-! ## Responses (R356, R357, R360) -/

/-- A target's NI d sends the response to a request that came over the die. -/
def respond (s : State) (d : Nat) (p : FPkt) (st : Status) (ws : List MWord) : State :=
  if p.nrev = 0 then respondHere s d p st ws
  else if p.kind ≠ .rd ∧ p.kind ≠ .wr then s
  else
    laceBack s { p with kind := .resp, status := st, words := ws, len := ws.length, src := d, dst := p.src }

/-- `NI_RESPONSE_RX` (R357): the first response that has reached NI n is delivered, or discarded as late. -/
def execNiResponseRx (n : Fin 40) (s : State) : Host.Outcome State Fault Refusal :=
  .next (match s.fab.flight.find? fun p => decide (p.at_ = 64 + n.val) with
    | none => s
    | some p => takeResp (setFab s fun f => { f with flight := removeFirst (fun x => decide (x = p)) f.flight }) n.val p)

/-- `NI_TIMEOUT` (R356): the timer of a slot expires. -/
def execNiTimeout (n : Fin 40) (slot : Fin 256) (s : State) : Host.Outcome State Fault Refusal :=
  .next (match s.fab.outst.find? fun o => decide (o.ni = n.val) && decide (o.slot = slot.val) && !o.fc with
    | none => s
    | some o =>
      let s1 := noteTimeout (setFab s fun f => { f with outst := removeFirst (fun x => decide (x = o)) f.outst }) n.val false
      let ws := if o.rd then List.replicate o.len poisonW else []
      match o.eng with
      | some c => setFab s1 fun f => { f with engAns := f.engAns ++ [(c, .timeout, ws)] }
      | none => niAnswer s1 n.val .timeout ws)

/-! ## Targets (R360, R363, R364) -/

/-- The producer and the writer that a packet stands for: a remote one came through a Lace port (R454). -/
def pktProducer (p : FPkt) : Producer := if p.nrev = 0 then niProducer p.src else .lace ⟨p.rev % 64 % 32, Nat.mod_lt _ (by decide)⟩
def pktWriter (p : FPkt) : Writer := if p.nrev = 0 then niWriter p.src else .core false

/-- The initiator that a packet reads for: its NI, or a device of the Lace (R31). -/
def pktInitiator (p : FPkt) : Nat := if p.nrev = 0 then p.src else 64 * (p.srcDev + 1) + p.src

/-- A request that a row handed over is served. A header write that a queue holds is answered when it is accepted (R247). -/
def serveRow (s : State) (d : Nat) (p : FPkt) : State :=
  match p.kind with
  | .rd =>
    let (s1, st, ws) := serveRead s (pktInitiator p) (pktWriter p) p.addr p.len
    respond s1 d p st ws
  | .wr | .wrp =>
    let (s1, st) := serveWrite s (pktProducer p) (pktWriter p) p.addr p.words
    match queuePort p.addr with
    | some (b, q, _) =>
      if isPush p.addr ∧ st = .busy then setFab s1 fun f => { f with heldReq := f.heldReq ++ [(64 * b + q, p)] } else respond s1 d p st []
    | none => respond s1 d p st []
  | _ => s

/-- A request is served at its target NI d. -/
def serveAt (s : State) (d : Nat) (p : FPkt) : State :=
  let s0 := gatePass s (niDomain d)
  match p.eng with
  | some c => if p.kind = .rd ∨ p.kind = .wr ∨ p.kind = .wrp then engServe s0 d p c else s0
  | none => serveRow s0 d p

/-- A request is answered `FENCED` in place of its target (R360, R364). -/
def answerFenced (s : State) (d : Nat) (p : FPkt) : State :=
  respond s d p .fenced (fencedWords p)

/-- A packet reaches the local port of its last router (R347, R360, R364). -/
def deliverPkt (s : State) (p : FPkt) : State :=
  if p.kind = .resp then setFab s fun f => { f with flight := f.flight ++ [{ p with at_ := 64 + p.dst }] }
  else
    let d := p.dst
    let dom := niDomain d
    if isRemote p.addr then laceTx (bump s R.niCount d 1 1) (p.lroute % 64) { p with lroute := p.lroute / 64 + 63 * 2 ^ 42 }
    else match gateOf s dom with
      | .pass => serveAt (bump s R.niCount d 1 1) d p
      | .fenced => answerFenced (noteFenced s d) d p
      | .hold => match holdPkt s p with
        | (s1, none) => s1
        | (s1, some _) => answerFenced s1 d p

/-- `WB_EXPIRE` (R364): the oldest packet held for a domain has waited WB_TMO. One that reaches WB_TMO as the domain opens is
delivered (R367). -/
def execWbExpire (d : Fin 39) (s : State) : Host.Outcome State Fault Refusal :=
  .next (if s.fab.opening.contains d.val then s else match (assoc s.fab.wake d.val).getD [] with
    | [] => s
    | p :: r =>
      let s1 := setFab s fun f => { f with wake := putKey f.wake d.val (if r.isEmpty then none else some r) }
      answerFenced (raise (raise s1 E.rt (spineRouter d.val) 7) E.ni p.dst 3) p.dst p)

/-- The domain whose held packets router k is delivering: its local port takes packets (R365). -/
def openingAt (s : State) (k : Nat) : Option Nat :=
  if portStopped s k 0 then none else s.fab.opening.find? fun d => decide (spineRouter d = k)

/-- The spine router delivers the oldest packet held for domain d (R362, R364); after the last one the domain is OPEN. -/
def deliverHeld (s : State) (d : Nat) : State :=
  match (assoc s.fab.wake d).getD [] with
  | [] => unfenceOpen s d
  | p :: r =>
    let s1 := setFab s fun f => { f with wake := putKey f.wake d (if r.isEmpty then none else some r) }
    let s2 := serveAt (bump s1 R.niCount p.dst 1 1) p.dst p
    if r.isEmpty then unfenceOpen s2 d else s2

/-! ## Routers (R344, R347, R350, R366) -/

/-- The network that an output port serves next (R350): VN2 first, then VN0, VN1 and VN3 in turn after the one served last. -/
def nextVn (last : Nat) (here : Nat → Bool) : Option Nat :=
  if here 2 then some 2
  else (match last with | 0 => [1, 3, 0] | 1 => [3, 0, 1] | _ => [0, 1, 3]).find? here

/-- The packet that router k takes next (R350): at the output port of the one that has waited longest, the network whose turn
it is, responses first.
DESIGN CHOICE, unsafe: log entry 87. -/
def nextPkt (s : State) (k : Nat) : Option FPkt :=
  let l := s.fab.flight.filter fun p => decide (p.at_ = k)
  match l with
  | [] => none
  | p0 :: _ =>
    let m := l.filter fun p => decide (p.route % 16 = p0.route % 16)
    match nextVn ((assoc s.fab.turn (16 * k + p0.route % 16)).getD 3) fun v => m.any fun p => decide (p.vn = v) with
    | none => some p0
    | some v =>
      let n := m.filter fun p => decide (p.vn = v)
      (n.find? fun p => decide (p.kind = .resp)).or n.head?

/-- The port has served a network: VN2 takes no turn (R350). -/
def takeTurn (s : State) (k x vn : Nat) : State :=
  if vn = 2 then s else setFab s fun f => { f with turn := putKey f.turn (16 * k + x) (if vn = 3 then none else some vn) }

/-- `ROUTER_PACKET_RX` (R344, R347): router k takes its next packet. `ce` is the number of words corrected on the link it came
over, `headUe` says that its head flit is uncorrectable, `payUe` which payload words are. A packet whose hop names a disabled port
waits for it first (R366); RT_BAD comes with its discard.
DEDUCED, unsafe: log entry 116. -/
def routerRx (s : State) (k ce : Nat) (headUe : Bool) (payUe : W32) : State :=
  match openingAt s k with
  | some d => deliverHeld s d
  | none =>
  match nextPkt s k with
  | none => s
  | some p0 =>
    let x := p0.route % 16
    let s1 := takeTurn (setFab s fun f => { f with flight := removeFirst (fun y => decide (y = p0)) f.flight }) k x p0.vn
    let n := ce + (if p0.hit = 1 then 1 else 0)
    let s2 := if n = 0 then s1 else raise (bump s1 R.rtCount k 1 n) E.rt k 3
    if headUe ∨ p0.hit = 2 then raise (bump s2 R.rtCount k 2 1) E.rt k 4
    else
      let p : FPkt := { p0 with words := (p0.words.zipIdx).map fun w => (w.1.1, w.1.2 || bit payUe w.2), hit := 0, inj := p0.inj || decide (p0.hit ≠ 0) }
      if x ≠ 0 && ((routerPort s2.variant k x).isNone || decide (p.hops ≤ 1)) then raise (bump s2 R.rtCount k 3 1) E.rt k 5
      else if linkStopped s2 k x then setFab s2 fun f => { f with portWait := f.portWait ++ [(k, x, p)] }
      else if x = 0 then deliverPkt s2 p
      else
        let fire := rdB s2 R.rtInj k 0 5 && decide (rdF s2 R.rtInj k 0 3 0 = x)
        let s4 := if fire then wrB s2 R.rtInj k 0 5 false else s2
        let hit := if fire then (if rdB s4 R.rtInj k 0 4 then 2 else 1) else 0
        setFab s4 fun f => { f with flight := f.flight ++
          [{ p with route := p.route / 16, hops := p.hops - 1, at_ := (routerPort s4.variant k x).getD k, hit := hit }] }

def execRouterPacketRx (k : Fin 38) (ce : Fin 41) (headUe : Bool) (payUe : W32) (s : State) : Host.Outcome State Fault Refusal :=
  .next (routerRx s k.val ce.val headUe payUe)

/-! ## Route tables (R354) -/

/-- `ROUTE_ENTRY_COMMIT` (R354): only the management processor writes route tables. -/
def execRouteEntryCommit (w : Writer) (n : Fin 40) (e : Fin 256) (v : W32) (s : State) : Host.Outcome State Fault Refusal :=
  .next (if w = .mp ∧ niHere s.variant n.val then commitRt s n.val e.val v else s)

/-! ## Router reconfiguration (R365, R366) -/

/-- Packets that waited at ports that take packets again pass (R366). -/
def resumePorts (s : State) : State :=
  let go := s.fab.portWait.filter fun e => !linkStopped s e.1 e.2.1
  let stay := s.fab.portWait.filter fun e => linkStopped s e.1 e.2.1
  setFab s fun f => { f with portWait := stay, flight := (go.map fun e => { e.2.2 with at_ := e.1 }) ++ f.flight }

/-- `RT_RCFG_GO` (R365, R368): `RT_RCFG` is written with GO = 1. -/
def execRtRcfgGo (w : Writer) (k : Fin 38) (v : W32) (s : State) : Host.Outcome State Fault Refusal :=
  .next (if w ≠ .mp ∨ !routerHere s.variant k.val then s else rcfgGo s k.val v)

/-- `RC_APPLY` (R365): no named port holds a partial packet. APPLY begins and ends within this row: RT_RCFG.STATE is back at IDLE
when it ends (log entry 87). -/
def execRcApply (k : Fin 38) (s : State) : Host.Outcome State Fault Refusal :=
  .next (
    let r := k.val
    let w := rd s R.rtRcfg r
    let ports := w.toNat % 2 ^ 13
    let en := (rd s R.rtPortEn r).toNat
    if rdF s R.rtRcfg r 0 28 27 ≠ 1 then s
    else
      let s1 := match fld w 14 13 with
        | 0 => wr s R.rtPortEn r 0 (w32 en &&& ~~~w32 ports)
        | 1 => wr s R.rtPortEn r 0 ((w32 en ||| w32 ports) &&& w32 (portsHere s.variant r))
        | _ => setFab s fun f => { f with repaired := f.repaired ++ [(r, (List.range 13).foldl (fun a p => if bit w p then p else a) 0, fld w 24 15, bit w 25)] }
      raise (resumePorts (wrF s1 R.rtRcfg r 0 28 27 0)) E.rt r 0)

/-- `RC_QUIESCE_TIMEOUT` (R365): phase 1 has taken 1 µs; nothing changes. -/
def execRcQuiesceTimeout (k : Fin 38) (s : State) : Host.Outcome State Fault Refusal :=
  .next (if rdF s R.rtRcfg k.val 0 28 27 ≠ 1 then s
    else raise (resumePorts (wrF s R.rtRcfg k.val 0 28 27 0)) E.rt k.val 1)

/-- `RC_PORT_WAIT_TIMEOUT` (R366): the packet that has waited longest at router k is discarded. At a port that is disabled, not only
quiesced, the hop was also one that R347 calls bad: RT_BAD. -/
def execRcPortWaitTimeout (k : Fin 38) (s : State) : Host.Outcome State Fault Refusal :=
  .next (match s.fab.portWait.find? fun e => decide (e.1 = k.val) with
    | none => s
    | some e =>
      let s1 := raise (bump (setFab s fun f => { f with portWait := removeFirst (fun x => decide (x = e)) f.portWait }) R.rtCount k.val 0 1) E.rt k.val 2
      if rdB s R.rtPortEn k.val 0 e.2.1 then s1 else raise (bump s1 R.rtCount k.val 3 1) E.rt k.val 5)

/-! ## Injections (R368, R570) -/

/-- `NI_INJ_TMO`. -/
def execNiInjTmo (w : Writer) (n : Fin 40) (s : State) : Host.Outcome State Fault Refusal :=
  .next (if mayInject s w && niHere s.variant n.val then wr s R.niInj n.val 0 1 else s)

/-- `RT_INJ_ARM`. -/
def execRtInjArm (w : Writer) (k : Fin 38) (port : Fin 16) (ue : Bool) (s : State) : Host.Outcome State Fault Refusal :=
  .next (if mayInject s w && routerHere s.variant k.val then wr s R.rtInj k.val 0 (packF [(0, port.val), (4, b2n ue), (5, 1)]) else s)

/-- Headers that queues have released are answered to those who wrote them over the fabric (R243, R247). -/
def answerHeld (s : State) : State :=
  s.fab.heldAns.foldl (fun t e => respond t e.1.dst e.1 e.2 []) (setFab s fun f => { f with heldAns := [] })

/-- `Q_HELD_HEADER_ACCEPT` (R247): the space is free and XOFF has ended. -/
def execQHeldHeaderAccept (b : Fin 16) (q : Fin 64) (s : State) : Host.Outcome State Fault Refusal :=
  .next (answerHeld (heldAccept s b.val q.val))

end Sys2Proof.Machine
end

