-- ==== Sys2Proof/Machine/Task.lean ====
section
/-! DEFINITION. Live tasks (R284–R303): readiness, delay lists, completions, skipping, notify engines, remote completions. -/

namespace Sys2Proof.Machine

/-! ## The image behind a task -/

/-- The template of a task. -/
def tmplOf (s : State) (t : Task) : Option Tmpl := (patOf s t.pattern).map fun p => tmplAt p.image t.tmpl

/-- The record index of instance number n. -/
def recIdx (n : Nat) : Nat := n % 16384

def instOf (s : State) (n : Nat) : Option Inst := assoc s.cord.insts (recIdx n)

def modInst (s : State) (n : Nat) (f : Inst → Inst) : State :=
  match instOf s n with
  | none => s
  | some x => setCord s fun c => { c with insts := putKey c.insts (recIdx n) (some (f x)) }

/-- Completion groups (R295): 0 OK, 1 PARTIAL, 2 FAIL. -/
def groupOf (st : W16) : Nat := if st = 0#16 then 0 else if st = 15#16 then 1 else 2

/-! ## READY and DELAY (R286, R288, R289, R292) -/

/-- What binding an FH task to its MAC found. -/
inductive Bound where
  | mac (m : Nat)
  | wait
  | fail (st : Status)

/-- An FH task entering READY: word 0 of its descriptor, and the MAC of the flow it names (R292). -/
def bindMac (s : State) (t : Task) : State × Bound :=
  let (s1, st, ws, p) := net32s s 36 t.param 1
  if st = .deferred then (s1, .wait)
  else if st ≠ .ok then (s1, .fail st)
  else if p then (s1, .fail .integrity)
  else
    let m := fld (nth ((assoc s1.fh.flows (fld (nth ws 0 0) 15 4)).getD []) 0 0#32) 6 0
    if laneHere s1.variant (2 * m) then (s1, .mac m) else (s1, .fail .notPresent)

/-- Task i enters READY; `keep` keeps its place in the order of entry (R323). An FH task whose descriptor cannot serve
completes at once: its index and status are answered. -/
def enterReady (s : State) (i : Nat) (t : Task) (keep : Bool) : State × List (Nat × W16) :=
  let t1 := { t with st := .ready, rseq := if keep then t.rseq else s.cord.rctr, rats := if keep then t.rats else s.ats }
  let s1 := if keep then s else setCord s fun c => { c with rctr := c.rctr + 1 }
  if t.cls = 12 ∨ t.cls = 13 then
    match bindMac s1 t with
    | (s2, .mac m) => (putTask s2 i { t1 with mac := some m }, [])
    | (s2, .wait) => (putTask (engWait s2) i { t1 with mac := none }, [])
    | (s2, .fail st) => (putTask s2 i t1, [(i, st16 st)])
  else (putTask s1 i t1, [])

/-- The delay list with the fewest entries, the lowest-numbered on a tie.
DESIGN CHOICE, safe: log entry 82. -/
def shortestList (s : State) : Nat :=
  let n (k : Nat) := dlistLen s k
  let a := if n 1 < n 0 then 1 else 0
  let b := if n 2 < n a then 2 else a
  if n 3 < n b then 3 else b

/-- Task i enters DELAY. -/
def enterDelay (s : State) (i : Nat) (t : Task) : State :=
  setCord (putTask s i { t with st := .delay, dlist := shortestList s, dseq := s.cord.dctr }) fun c => { c with dctr := c.dctr + 1 }

/-- The release of a task, its deadline, and the tick of an early entry have been reached (R29, R41). -/
def releaseReached (s : State) (t : Task) : Bool := t.pastRel || tickReached s t.release
def deadlineReached (s : State) (t : Task) : Bool := t.pastDl || tickReached s t.deadline
def earlyReached (s : State) (e : Early) : Bool := e.past || tickReached s e.rtick

/-- A task whose predecessors are all done enters DELAY or READY (R286). -/
def release (s : State) (i : Nat) (t : Task) : State × List (Nat × W16) :=
  if releaseReached s t then enterReady s i t false else (enterDelay s i t, [])

/-- Task i is skipped (R297). One with nothing to erase completes `PARTIAL` at once, SKIPPED. -/
def skip (s : State) (i : Nat) (t : Task) : State × List (Nat × W16) :=
  let none_ := decide (t.er0.2 = 0) && decide (t.er1.2 = 0)
  let s1 := putTask (bump s R.cwCount 0 4 1) i { t with st := .erase, site := none, arrived := false, skipped := none_ }
  if none_ then (s1, [(i, st16 .partialDone)]) else (s1, [])

/-- A task whose DEPCNT is 0 and that was in WAIT: skipped or released (R296). -/
def settleTask (s : State) (i : Nat) (t : Task) : State × List (Nat × W16) :=
  if t.instat = 2 ∧ !t.onfail then skip s i t else release s i t

/-- A predecessor of task i has completed with a group (R286, R303). -/
def predDone (s : State) (i g : Nat) : State × List (Nat × W16) :=
  match taskOf s i with
  | none => (s, [])
  | some t =>
    if t.st ≠ .wait ∨ t.dep = 0 then (s, [])
    else
      let t1 := { t with dep := t.dep - 1, instat := Nat.max t.instat g }
      if t1.dep = 0 then settleTask s i t1 else (putTask s i t1, [])

/-- The predecessors of several tasks, in order. -/
def predsDone (s : State) (g : Nat) : List Nat → State × List (Nat × W16)
  | [] => (s, [])
  | i :: is =>
    let (s1, a) := predDone s i g
    let (s2, b) := predsDone s1 g is
    (s2, a ++ b)

/-! ## Completions (R286, R287, R295, R298) -/

/-- An instance whose LIVE count reached 0 retires (R287). -/
def retire (s : State) (x : Inst) : State :=
  let s1 := setCord s fun c => { c with insts := putKey c.insts (recIdx x.num) none }
  let s2 := freeStopped (modCell s1 x.cell fun c => { c with live := c.live - 1 })
  match x.ring with
  | some (r, e) => entryDone s2 r e
  | none => s2

/-- A completion of task i is applied: counted, reported, its successors updated, its descriptor freed. No task is bound to a
stream queue, so none of R251 follows.
DEDUCED, safe: log entry 125. -/
def applyCompletion (s : State) (i : Nat) (st : W16) : State × List (Nat × W16) :=
  match taskOf s i with
  | none => (s, [])
  | some t =>
    let g := groupOf st
    let s1 := bump s R.cwCount 0 2 1
    let s2 := if g = 2 then
        raise (wr (wr (bump s1 R.cwCount 0 3 1) R.cwLastFailTask 0 0 (packF [(0, i), (17, t.cls)])) R.cwLastFailStat 0 0 (w32 st.toNat)) E.cw 0 6
      else s1
    let s3 := setCord s2 fun c => { c with
      tasks := putKey c.tasks i none,
      skips := (if t.skipped then [i] else []) ++ c.skips.filter fun k => decide (k ≠ i) && !t.nodes.contains k }
    let (s4, more) := predsDone s3 g t.succ
    let s5 := match instOf s4 t.inum with
      | none => s4
      | some x =>
        if x.live ≤ 1 then retire s4 x else modInst s4 t.inum fun y => { y with live := y.live - 1 }
    (s5, more)

/-- Completions applied one after another, with those they bring at once. -/
def applyAll : Nat → State → List (Nat × W16) → State
  | 0, s, _ => s
  | _, s, [] => s
  | n + 1, s, (i, st) :: r =>
    let (s1, more) := applyCompletion s i st
    applyAll n s1 (r ++ more)

/-- The state after an operation that may complete tasks at once: each task completes at most once. -/
def finish (x : State × List (Nat × W16)) : State := applyAll (x.1.cord.tasks.length + 1) x.1 x.2

/-- The first completion on its way reaches the Cordwainer (R286, R294). -/
def takeCompletion (s : State) : State :=
  match s.cord.inbox with
  | [] => s
  | (i, st) :: r =>
    let s1 := setCord s fun c => { c with inbox := r }
    let live : Bool := match taskOf s1 i with
      | some t => decide (t.st = .staged) || decide (t.st = .run)
      | none => false
    if live then finish (s1, [(i, st)])
    else raise (bump s1 R.cwCount 0 15 1) E.cw 0 10

/-! ## The delay lists (R288) -/

/-- How long ago a release tick was reached, in ticks. -/
def tickAge (s : State) (t : Nat) : Nat := (tickNow s % 2 ^ 32 + 2 ^ 32 - t) % 2 ^ 32

/-- How long ago a tick was reached; one that a step of 2^31 ticks or more skipped is older than all others. -/
def ageOf (s : State) (past : Bool) (t : Nat) : Nat := if past then 2 ^ 31 else tickAge s t

/-- The order in which reached entries are taken. -/
def delayBefore (s : State) (a b : Nat × Task) : Bool :=
  let x := ageOf s a.2.pastRel a.2.release
  let y := ageOf s b.2.pastRel b.2.release
  decide (y < x) || (decide (x = y) && (decide (a.2.dlist < b.2.dlist) || (decide (a.2.dlist = b.2.dlist) && decide (a.2.dseq < b.2.dseq))))

/-- Entries moved to READY in order. -/
def readyEach (s : State) : List (Nat × Task) → State × List (Nat × W16)
  | [] => (s, [])
  | (i, t) :: r =>
    let (s1, a) := enterReady s i t false
    let (s2, b) := readyEach s1 r
    (s2, a ++ b)

/-- A tick edge takes the released entries of the delay lists (R288): at most 512, the others LATEREL. -/
def delayRelease (s : State) : State :=
  let due := sortBy (delayBefore s) (s.cord.tasks.filter fun e => decide (e.2.st = .delay) && releaseReached s e.2)
  let s1 := finish (readyEach s (due.take 512))
  let late := (due.drop 512).filter fun e => !e.2.laterel
  let s2 := late.foldl (fun a e => modTask a e.1 fun t => { t with laterel := true }) s1
  raiseIf (!late.isEmpty) (bump s2 R.cwCount 0 5 late.length) E.cw 0 4

/-! ## ERASE (R297) -/

/-- Lines of a region written with poison from address a on; `tmo` is the line whose write times out. The first fabric error
ends the region. -/
def eraseLines (s : State) (a : Nat) (tmo : Option Nat) : Nat → Nat → State × Option Status
  | 0, _ => (s, none)
  | n + 1, k =>
    let (s1, st) := netWrite s 36 ((a + 64 * k) % 2 ^ 48) (List.replicate 8 poisonW) (if tmo = some k then some (.timeout, []) else none)
    if st = .ok then eraseLines s1 a tmo n (k + 1) else (s1, some st)

/-- The start of an erase region of a task (R297). -/
def eraseBase (t : Task) (off : Nat) : Nat := wrapTo 48 ((t.param : Int) + sext 32 off)

/-- The erase regions of task i have been written; while the fabric answers a write later, the task stays in ERASE. -/
def eraseDone (s : State) (i : Nat) (tmo : Option (Bool × Nat)) : State :=
  match taskOf s i with
  | none => s
  | some t =>
    if t.st ≠ .erase then s else
    let at_ (r : Bool) : Option Nat := match tmo with
      | some (x, k) => if x = r then some k else none
      | none => none
    let (s1, e0) := eraseLines s (eraseBase t t.er0.1) (at_ false) t.er0.2 0
    let (s2, e1) := eraseLines s1 (eraseBase t t.er1.1) (at_ true) t.er1.2 0
    if e0 = some .deferred ∨ e1 = some .deferred then s2
    else finish (modTask s2 i fun x => { x with skipped := true }, [(i, st16 ((e0.or e1).getD .partialDone))])

/-! ## Remote completions (R299–R302) -/

/-- The own device ID; 0 on a device that is not joined (R438). -/
def ownDev (s : State) : Nat := fld (rd s R.ldId) 15 0

/-- A completion from another device, or from the device itself, is handled (R301): the state and the RESULT. A task that waits
for no completion is not in WAIT, be its instance still under creation. -/
def remoteRx (s : State) (cell rtick tmpl g : Nat) : State × Nat :=
  let s0 := bump s R.cwCount 0 12 1
  let orphan (t : State) : State × Nat := (raise (bump t R.cwCount 0 13 1) E.cw 0 8, 2)
  match (s0.cord.insts.find? fun e => decide (e.2.cell = cell) && decide (e.2.slot = rtick)) with
  | some (_, x) =>
    match nth x.tasks tmpl none with
    | none => orphan s0
    | some i =>
      match taskOf s0 i with
      | none => orphan s0
      | some t =>
        if t.st ≠ .wait ∨ t.dep = 0 then orphan s0
        else if x.creating then (modInst s0 x.num fun y => { y with waiting := y.waiting ++ [(tmpl, g)] }, 0)
        else (finish (predDone s0 i g), 0)
  | none =>
    if tickReached s0 rtick then orphan s0
    else if 4096 ≤ s0.cord.early.length then (raise s0 E.cw 0 9, 3)
    else (setCord s0 fun c => { c with early := c.early ++ [{ cell := cell, rtick := rtick, tmpl := tmpl, group := g, past := false }] }, 1)

/-- The status a NOTIFY task takes from a RESULT (R302). -/
def ackStatus (r : Nat) : Status := if r < 2 then .ok else if r = 2 then .state else .noResource

/-- The records of R300, as the 32-bit words of their 16 bytes. -/
def complRec (src cell rtick tmpl g seq : Nat) : List W32 := [packF [(0, src), (16, cell)], w32 rtick, packF [(0, tmpl), (11, g)], w32 seq]
def ackRec (dev r seq : Nat) : List W32 := [packF [(0, dev), (16, r)], w32 seq, 0, 0]

/-- A record as the two payload words of a MSG packet. -/
def recWords (ws : List W32) : List MWord :=
  (List.range 2).map fun k => (BitVec.ofNat 64 (pair64 (nth ws (2 * k) 0) (nth ws (2 * k + 1) 0)), false)

/-- A remote completion that arrived is handled and acknowledged to its sender with the device's own ID (R300, R301): the state
and the acknowledgement. -/
def remoteTake (s : State) (ws : List W32) : State × List W32 :=
  let w (k : Nat) : W32 := nth ws k 0
  let (s1, r) := remoteRx s (fld (w 0) 31 16) (w 1).toNat (fld (w 2) 10 0) (Nat.min 2 (fld (w 2) 12 11))
  (s1, ackRec (ownDev s) r (w 3).toNat)

/-- `EARLY_ENTRY_EXPIRE` (R301): the first entry whose RTICK has been reached goes as an orphan. -/
def execEarlyEntryExpire (s : State) : Host.Outcome State Fault Refusal :=
  .next (match s.cord.early.find? (earlyReached s) with
    | none => s
    | some e => raise (bump (setCord s fun c => { c with early := removeFirst (fun x => decide (x = e)) c.early }) R.cwCount 0 13 1) E.cw 0 8)

/-- The S of a task's instance. -/
def slotOf (s : State) (t : Task) : Nat := match instOf s t.inum with
  | some x => x.slot
  | none => 0

/-- A notify block is malformed (R299). -/
def notifyBad (b : List W32) : Bool :=
  rsvSet b ([0xFFFFFFFC, 0xFFFF0000, 0xFFFF0000, 0xF8000000, 0, 0xFFFFFFFE] ++ List.replicate 10 0xFFFFFFFF) || decide (fld (nth b 0 0) 1 0 = 3)

/-- EV_NOTIFY (R483). -/
def emitNotify (s : State) (t : Task) (code : Nat) : State :=
  emit s 3 [packF [(0, code), (16, t.cell)], packF [(0, t.pattern), (10, t.instat)], w32 t.inum, w32 (slotOf s t)]

/-- The Lace port that a remote entry's route begins with takes packets (R452): it is UP or in electrical idle, or it is a ring
port whose pair is UP. -/
def portTakes (s : State) (h : Nat) : Bool :=
  decide (h < 32) && portEn s h && (decide (portState s h = 3) || decide (portState s h = 4) ||
    (portRing s h && (List.range 32).any fun q => decide (q ≠ h) && portEn s q && portRing s q && decide (portState s q = 3) &&
      decide ((rdF s R.lcCfg q 0 7 0 / 4 - 56) / 2 = (rdF s R.lcCfg h 0 7 0 / 4 - 56) / 2) &&
      decide (rdF s R.lcCfg q 0 7 0 % 4 = rdF s R.lcCfg h 0 7 0 % 4)))

/-- The route of the Cordwainer to a device: none where it is down (R302). Its NI has no valid entry for the device, the entry or
its shore is fenced, or the Lace port it begins with takes nothing. -/
def routeTo (s : State) (dev : Nat) : Option RtEntry := match wayOf s 36 (2 ^ 47 + dev * 2 ^ 31) with
  | .send _ e => if portTakes s (fld e.w2 21 16) then some e else none
  | _ => none

/-- A record of R300 sent to a device: a MSG of two words on VN2, through the Lace port of the route. In its head flit SLOT is 0
for a completion and 1 for an acknowledgement.
DESIGN CHOICE, safe: log entry 124. -/
def sendRec (s : State) (e : RtEntry) (dev slot : Nat) (ws : List W32) : State :=
  regulate s 36 (mkPkt e 36 (shoreNi s e) 2 .msg false (2 ^ 47 + dev * 2 ^ 31) 2 slot 0 (recWords ws) (ownDev s))

/-- The REMOTE half of a NOTIFY task. -/
def notifyRemote (s : State) (i : Nat) (t : Task) (b : List W32) : State :=
  let dev := fld (nth b 2 0) 15 0
  let cell := fld (nth b 3 0) 15 0
  let tm := fld (nth b 3 0) 26 16
  let rtick := if bit (nth b 5 0) 0 then slotOf s t else (nth b 4 0).toNat
  let seq := s.cord.nseq
  let s1 := bump (setCord s fun c => { c with nseq := (c.nseq + 1) % 2 ^ 32 }) R.cwCount 0 11 1
  if dev = ownDev s then
    let (s2, r) := remoteRx s1 cell rtick tm t.instat
    complete s2 i (st16 (ackStatus r))
  else
    match routeTo s1 dev with
    | none => complete (raise s E.cw 0 7) i (st16 .remoteUnreachable)
    | some e => sendRec (setCord s1 fun c => { c with notify := c.notify ++ [{ task := i, dev := dev, seq := seq }] }) e dev 0
        (complRec (ownDev s) cell rtick tm t.instat seq)

/-- NOTIFY tasks of engine n that wait for acknowledgements. -/
def notifyWaits (s : State) (n : Fin 4) : Nat := (s.cord.notify.filter fun w => match taskOf s w.task with
  | some t => decide (t.site = some (.notify n))
  | none => false).length

/-- A notify engine starts its next staged task (R299); `ov` is what the fabric answered in place of the memory. -/
def notifyStart (s : State) (n : Fin 4) (ov : Option (Status × List TWord)) : State :=
  if 16 ≤ notifyWaits s n then s else match beginTask s (.notify n) with
    | none => s
    | some (s1, i, t) =>
      let (s2, st, b, p) := match ov with
        | some (e, _) => (netGiveUp s1 36 t.param 64, e, [], false)
        | none => net32s s1 36 t.param 16
      if st ≠ .ok then complete s2 i (st16 st)
      else if p then complete s2 i (st16 .integrity)
      else if notifyBad b then complete s2 i (st16 .badParam)
      else
        let kind := fld (nth b 0 0) 1 0
        let s3 := if kind = 1 then s2 else emitNotify s2 t (fld (nth b 1 0) 15 0)
        if kind = 0 then complete s3 i (st16 .ok) else notifyRemote s3 i t b

/-- `NOTIFY_TASK_START` (R299). -/
def execNotifyTaskStart (n : Fin 4) (ov : Option (Status × List TWord)) (s : State) : Host.Outcome State Fault Refusal :=
  .next (settled s (notifyStart s n ov))

/-- An acknowledgement arrives (R302): its task completes, or it is late. -/
def ackTake (s : State) (dev result seq : Nat) : State :=
  match s.cord.notify.find? fun w => decide (w.dev = dev) && decide (w.seq = seq) with
  | none => bump s R.cwCount 0 14 1
  | some w => complete (setCord s fun c => { c with notify := removeFirst (fun x => decide (x = w)) c.notify }) w.task (st16 (ackStatus result))

/-- `NOTIFY_ACK_RX` (R302). -/
def execNotifyAckRx (dev : W16) (result : Fin 4) (seq : W32) (s : State) : Host.Outcome State Fault Refusal :=
  .next (ackTake s dev.toNat result.val seq.toNat)

/-- `NOTIFY_ACK_TIMEOUT` (R302). -/
def execNotifyAckTimeout (seq : W32) (s : State) : Host.Outcome State Fault Refusal :=
  .next (match s.cord.notify.find? fun w => decide (w.seq = seq.toNat) with
    | none => s
    | some w => complete (raise (setCord s fun c => { c with notify := removeFirst (fun x => decide (x = w)) c.notify }) E.cw 0 7) w.task (st16 .remoteUnreachable))

end Sys2Proof.Machine
end

