-- ==== Sys2Proof/Machine/Instantiate.lean ====
section
/-! DEFINITION. Instantiation (R275–R282, R287, R331): the walk of the ring, the container, the descriptors and the end of
the creation. -/

namespace Sys2Proof.Machine

/-! ## The ring walk (R277, R278) -/

/-- What a walk found: the container address and the ring entry that named it. -/
inductive Found where
  | entry (addr e : Nat)
  | none_

/-- (TICK, CELL) comes before (S, c) (R277). -/
def keyBefore (t h s c : Nat) : Bool :=
  let d := (s + 2 ^ 32 - t) % 2 ^ 32
  (decide (1 ≤ d) && decide (d < 2 ^ 31)) || (decide (t = s) && decide (h < c))

/-- HEAD advances past entry e, which is done at once. -/
def discard (s : State) (r e : Nat) : State := entryDone (wr s R.srHead r 0 (w32 ((e + 1) % 2 ^ 17))) r e

/-- A ring entry that cannot be read, is poisoned or has reserved bits set. -/
def entryUnfit (st : Status) (ws : List W32) (p : Bool) : Bool :=
  decide (st ≠ .ok) || p || decide (fld (nth ws 0 0#32) 31 16 ≠ 0) || decide (fld (nth ws 3 0#32) 31 16 ≠ 0)

/-- BADREQ, counted. -/
def badReq (s : State) : State := raise (bump s R.cwCount 0 9 1) E.cw 0 2

/-- The walk of ring r for cell c and slot tick t; `n` entries lie between HEAD and the TAIL read at its start (R277, R303). -/
def walkRing (s : State) (r c t : Nat) : Nat → State × Found
  | 0 => (s, .none_)
  | n + 1 =>
    let h := (rd s R.srHead r).toNat
    let base := pair64 (rd s R.srBaseLo r) (rd s R.srBaseHi r)
    let (s1, st, ws, p) := net32s s 36 (base + 16 * (h % ringSize s r)) 4
    if entryUnfit st ws p then walkRing (badReq (discard s1 r h)) r c t n
    else
      let cell := fld (nth ws 0 0#32) 15 0
      let tick := (nth ws 1 0#32).toNat
      if keyBefore tick cell t c then walkRing (raise (bump (discard s1 r h) R.cwCount 0 10 1) E.cw 0 3) r c t n
      else if tick = t ∧ cell = c then
        (wr s1 R.srHead r 0 (w32 ((h + 1) % 2 ^ 17)), .entry (pair64 (nth ws 2 0#32) (nth ws 3 0#32)) h)
      else (s1, .none_)

/-- Entries between HEAD and the TAIL read when the walk starts. -/
def ringFill (s : State) (r : Nat) : Nat := ((rd s R.srTail r).toNat + 2 ^ 17 - (rd s R.srHead r).toNat) % 2 ^ 17

/-! ## Containers (R279, R280) -/

/-- What the Cordwainer takes from a container. -/
structure Box where
  base   : Nat
  homeV  : Bool
  home   : Nat
  flows  : List Nat
  blocks : List (Nat × Nat)

/-- The pairs of a block table. -/
def blockPairs : List W32 → List (Nat × Nat)
  | a :: b :: r => (a.toNat, b.toNat) :: blockPairs r
  | _ => []

/-- A container header breaks R279; `own` compares its CELL and TICK with a slot's. -/
def headerBad (v : Variant) (h : List W32) (own : Option (Nat × Nat)) : Bool :=
  let w (k : Nat) := nth h k 0#32
  decide (fld (w 0) 15 0 ≠ 0x5251) || decide (fld (w 0) 19 16 ≠ 1) || decide (fld (w 0) 31 20 ≠ 0) ||
  decide (64 < fld (w 1) 22 16) || decide (fld (w 1) 31 28 ≠ 0) || !benchHere v (fld (w 1) 27 24) ||
  decide (fld (w 3) 23 0 = 0) || decide (fld (w 3) 31 24 ≠ 0) ||
  ((h.drop 4).take 8).any (fun x => !onlyBits x 0x1FFF1FFF#32) || ((h.drop 12).take 4).any (fun x => decide (x ≠ 0#32)) ||
  (match own with
    | none => false
    | some (c, t) => decide (fld (w 1) 15 0 ≠ c) || decide ((w 2).toNat ≠ t))

/-- A block, or a template that uses one, breaks R279 or R280. -/
def blocksBad (img : List W32) (lines : Nat) (bs : List (Nat × Nat)) : Bool :=
  bs.any (fun b => decide (b.1 % 64 ≠ 0) || decide (64 * lines < b.1 + b.2)) ||
  (tmpls img).any fun t => decide (t.psrc = 1) && (decide (bs.length ≤ t.pidx) || decide ((nth bs t.pidx (0, 0)).2 ≤ t.poff))

/-- The container at an address for a pattern. -/
def readBox (s : State) (img : List W32) (a : Nat) (own : Option (Nat × Nat)) : State × Option Box :=
  if a % 64 ≠ 0 ∨ !withinRegion s 3 a 64 then (s, none)
  else
    let (s1, st, h, p) := net32s s 36 a 16
    if st ≠ .ok ∨ p ∨ headerBad s.variant h own then (s1, none)
    else
      let lines := fld (nth h 3 0#32) 23 0
      let npb := fld (nth h 1 0#32) 22 16
      if !withinRegion s 3 a (64 * lines) then (s1, none)
      else
        let (s2, st2, ws, p2) := net32s s1 36 (a + 64) (2 * npb)
        let bs := blockPairs ws
        if st2 ≠ .ok ∨ p2 ∨ blocksBad img lines bs then (s2, none)
        else (s2, some { base := a, homeV := bit (nth h 1 0#32) 23, home := fld (nth h 1 0#32) 27 24,
                         flows := (List.range 16).map fun k => fld (nth h (4 + k / 2) 0#32) (16 * (k % 2) + 12) (16 * (k % 2)),
                         blocks := bs })

/-! ## Descriptors (R281, R282, R285, R286, R331) -/

/-- PARAM of a template for a container at `base` with its block table (R281). -/
def paramOf (t : Tmpl) (base : Nat) (blocks : List (Nat × Nat)) : Nat :=
  match t.psrc with
  | 0 => t.paddr
  | 1 => (base + (nth blocks t.pidx (0, 0)).1 + t.poff) % 2 ^ 48
  | _ => 0

/-- The base and the block table of a bound container. -/
def boxBase : Option Box → Nat
  | some b => b.base
  | none => 0
def boxBlocks : Option Box → List (Nat × Nat)
  | some b => b.blocks
  | none => []

/-- FLOW of a template (R282). -/
def flowOf (t : Tmpl) (x : Option Box) : Nat :=
  match t.flowsel, x with
  | 1, _ => t.flow
  | 2, some b => nth b.flows (t.flow % 16) 0
  | _, _ => 0

/-- The lowest `n` free descriptors, in rising order, from index i on. -/
def freeFrom (used : Nat → Bool) : Nat → Nat → Nat → List Nat
  | 0, _, _ => []
  | _, 0, _ => []
  | f + 1, n + 1, i => if used i then freeFrom used f (n + 1) (i + 1) else i :: freeFrom used f n (i + 1)

/-- Descriptor i is in use, as a task or as a fan-out node. -/
def descUsed (s : State) (i : Nat) : Bool := s.cord.tasks.any fun e => decide (e.1 = i) || e.2.nodes.contains i

/-- Each non-spare template with its descriptor and its fan-out nodes, taken in template order from a list of free ones. -/
def allot : List (Nat × Tmpl) → List Nat → List (Nat × Tmpl × Nat × List Nat)
  | [], _ => []
  | (k, t) :: r, free =>
    if t.spare then allot r free
    else
      let m := fanNodes t.nsucc
      (k, t, nth free 0 0, (free.drop 1).take m) :: allot r (free.drop (1 + m))

/-- The bench that a slot's tasks use as BENCH: the home bench, or a re-home bench while it is held (R331). -/
def reHome (s : State) (b : Nat) : Option Nat :=
  let fit (k : Nat) : Bool := benchHere s.variant k && decide (k ≠ b) && !outOfService s k
  let x := Nat.xor b 1
  if !outOfService s b then none
  else if fit x then some x
  else
    let l := ((List.range 16).filter fit).map fun k => (k, (rd s R.gvLoad 0 k).toNat)
    (l.foldl (fun (a : Option (Nat × Nat)) e => match a with
      | none => some e
      | some y => if e.2 < y.2 then some e else some y) none).map fun e => e.1

/-- The next instance number whose record is free (R287). -/
def nextInst (s : State) : Nat → Nat → Option Nat
  | 0, _ => none
  | k + 1, n => if (instOf s n).isNone then some n else nextInst s k ((n + 1) % 2 ^ 32)

/-- The new task of a template, at tick `now`, for a slot that starts at tick `start`. -/
def newTask (now : Nat) (t : Tmpl) (k i num cell pat start bench : Nat) (x : Option Box) (succ nodes : List Nat) : Task :=
  let far (off : Int) : Bool := decide ((start : Int) + off + 2 ^ 31 ≤ now)
  { cls := t.cls, prio := t.prio, flow := flowOf t x, dep := t.npred, late := t.late, release := wrapTo 32 ((start : Int) + t.rel),
    deadline := wrapTo 32 ((start : Int) + t.dl), pastRel := far t.rel, pastDl := far t.dl, bench := bench, aff := t.aff, unit := t.unit, unitV := t.unitV, half := t.half,
    succ := succ, nodes := nodes, st := .wait, instat := 0, onfail := t.onfail, skipped := false, laterel := false, missed := false,
    param := paramOf t (boxBase x) (boxBlocks x), pattern := pat, tmpl := k, inum := num, cell := cell, alt := t.alt, altV := t.altV, entry := t.entry,
    er0 := (t.er0.1.toNat, t.er0.2), er1 := (t.er1.1.toNat, t.er1.2), dlist := 0, dseq := i, rseq := 0, rats := 0, mac := none,
    site := none, arrived := false, sseq := 0, carried := false, acted := false, overDone := false }

/-- The instance and its descriptors are written; none of its tasks is evaluated yet (R276).
DEDUCED, safe: log entry 80. -/
def createInst (s : State) (c : Cell) (p : Nat) (img : List W32) (tick num : Nat) (x : Option Box) (defreq : Bool)
    (ring : Option (Nat × Nat)) : State :=
  let slot := tick % 2 ^ 32
  let ts := tmpls img
  let need := descCount img
  let free := freeFrom (descUsed s) (need + liveCount s + 1) need 0
  let rows := allot ((List.range ts.length).zip ts) free
  let home := match x with
    | some b => if b.homeV then b.home else c.home
    | none => c.home
  let moved := reHome s home
  let bench := moved.getD home
  let descs := (List.range ts.length).map fun k => (rows.find? fun r => decide (r.1 = k)).map fun r => r.2.2.1
  let early := s.cord.early.filter fun e => decide (e.cell = c.h) && decide (e.rtick = slot)
  let inst : Inst := { num := num, cell := c.h, pattern := p, slot := slot, start := tick, live := rows.length,
                       req := boxBase x,
                       defreq := defreq, ring := ring, creating := true,
                       blocks := boxBlocks x,
                       waiting := early.map fun e => (e.tmpl, e.group), tasks := descs }
  let s1 := rows.foldl (fun a r => putTask a r.2.2.1
      (newTask (tickNow s) r.2.1 r.1 0 num c.h p tick bench x ((succsOf img r.2.1).filterMap fun k => nth descs k none) r.2.2.2)) s
  let s2 := setCord s1 fun d => { d with insts := putKey d.insts (recIdx num) (some inst), nextNum := (num + 1) % 2 ^ 32,
                                          early := d.early.filter fun e => !(decide (e.cell = c.h) && decide (e.rtick = slot)) }
  let s3 := bump (bump (modCell s2 c.h fun y => { y with live := y.live + 1 }) R.cwCount 0 6 1) R.cwCount 0 0 rows.length
  let s4 := wr s3 R.cwLiveMax 0 0 (w32 (Nat.max (rd s3 R.cwLiveMax).toNat (liveCount s3)))
  match moved with
  | none => s4
  | some _ =>
    let s5 := bump s4 R.gvCount 0 20 1
    if s5.gov.rehomed.contains home then s5
    else raise (setGov s5 fun g => { g with rehomed := g.rehomed ++ [home] }) E.gv 0 7

/-- No instance is created: the slot's ring entry, if one was consumed, is done. -/
def notCreated (s : State) (ring : Option (Nat × Nat)) : State := match ring with
  | some (r, e) => entryDone s r e
  | none => s

/-- The instance of a slot, its request bound: created, or INST_FAIL (R276). -/
def tryCreate (s : State) (c : Cell) (p : Nat) (img : List W32) (tick : Nat) (x : Option Box) (defreq : Bool)
    (ring : Option (Nat × Nat)) : State :=
  match nextInst s 16384 s.cord.nextNum with
  | none => notCreated (raise (bump s R.cwCount 0 7 1) E.cw 0 0) ring
  | some num =>
    if 131072 < liveCount s + descCount img then notCreated (raise (bump s R.cwCount 0 7 1) E.cw 0 0) ring
    else
      let i := tick - c.lead
      let by_ := if s.tim.skipFrom ≤ i ∧ i ≤ s.tim.skipTo then s.tim.skipTo else i
      raiseIf (decide (by_ < tickNow s)) (createInst s c p img tick num x defreq ring) E.cw 0 5

/-- The default container binds, or no instance is created (R280). -/
def tryDefault (s : State) (c : Cell) (p : Nat) (img : List W32) (tick : Nat) (ring : Option (Nat × Nat)) : State :=
  let a := pair64 (nth img 3 0#32) (nth img 4 0#32) % 2 ^ 48
  match readBox s img a none with
  | (s1, none) => notCreated (badReq s1) ring
  | (s1, some b) => tryCreate s1 c p img tick (some b) true ring

/-- REQ of an image: 0 NONE, 1 REQUIRED, 2 DEFAULT (R268). -/
def reqOf (img : List W32) : Nat := fld (nth img 2 0#32) 1 0

/-- The slot of an active cell with its pattern. -/
def instantiate (s : State) (c : Cell) (p tick : Nat) : State :=
  match patOf s p with
  | none => s
  | some x =>
    let slot := tick % 2 ^ 32
    if reqOf x.image = 0 then tryCreate s c p x.image tick none false none
    else
      let miss (s1 : State) (ring : Option (Nat × Nat)) (bad : Bool) : State :=
        if reqOf x.image = 2 then tryDefault s1 c p x.image tick ring
        else if bad then notCreated s1 ring
        else notCreated (raise (bump s1 R.cwCount 0 8 1) E.cw 0 1) ring
      match walkRing s c.ring c.h slot (ringFill s c.ring) with
      | (s1, .none_) => miss s1 none false
      | (s1, .entry a e) =>
        match readBox s1 x.image a (some (c.h, slot)) with
        | (s2, none) => miss (badReq s2) (some (c.ring, e)) true
        | (s2, some b) => tryCreate s2 c p x.image tick (some b) false (some (c.ring, e))

/-- The due slot that comes first: the smallest S, then the lowest handle (R275). -/
def firstDue (s : State) : Option (Cell × Nat × Nat) :=
  s.cord.cells.foldl (fun (a : Option (Cell × Nat × Nat)) c => match dueSlot s c (tickNow s) with
    | none => a
    | some (t, _, p) => match a with
      | none => some (c, t, p)
      | some (c0, t0, p0) => if t < t0 ∨ (t = t0 ∧ c.h < c0.h) then some (c, t, p) else some (c0, t0, p0)) none

/-- `INSTANTIATE` (R275): the first due slot is instantiated. A slot whose container cannot be read yet waits. -/
def execInstantiate (s : State) : Host.Outcome State Fault Refusal :=
  .next (match firstDue s with
    | none => s
    | some (c, t, p) => settled s (freeStopped (modCell (instantiate s c p t) c.h fun x => { x with from_ := t + 1 })))

/-! ## The end of a creation (R276, R286, R301) -/

/-- Tasks of a finished instance evaluated in template order. -/
def evalTasks (s : State) : List Nat → State × List (Nat × W16)
  | [] => (s, [])
  | i :: is =>
    let (s1, a) := match taskOf s i with
      | some t => if t.st = .wait ∧ t.dep = 0 then settleTask s i t else (s, [])
      | none => (s, [])
    let (s2, b) := evalTasks s1 is
    (s2, a ++ b)

/-- Remote completions that waited for the end of a creation, in order of arrival (R301). -/
def lateRemote (s : State) (ds : List (Option Nat)) : List (Nat × Nat) → State
  | [] => s
  | (k, g) :: r =>
    let orphan := raise (bump s R.cwCount 0 13 1) E.cw 0 8
    let s1 := match nth ds k none with
      | none => orphan
      | some i => match taskOf s i with
        | none => orphan
        | some t => if t.st = .wait ∧ t.dep ≠ 0 then finish (predDone s i g) else orphan
    lateRemote s1 ds r

/-- The oldest instance under creation. -/
def creatingInst (s : State) : Option Inst :=
  s.cord.insts.foldl (fun (a : Option Inst) e => if !e.2.creating then a else match a with
    | none => some e.2
    | some x => if (e.2.num + 2 ^ 32 - x.num) % 2 ^ 32 < 2 ^ 31 then some x else some e.2) none

/-- The last descriptor of the oldest instance under creation is written (R276). One without tasks retires (R287). -/
def creationEnd (s : State) : State :=
  match creatingInst s with
  | none => s
  | some x =>
    let s1 := modInst s x.num fun y => { y with creating := false, waiting := [] }
    if x.live = 0 then lateRemote (retire s1 x) x.tasks x.waiting
    else
      let s2 := finish (evalTasks s1 (x.tasks.filterMap id))
      lateRemote s2 x.tasks x.waiting

end Sys2Proof.Machine
end

