-- ==== Sys2Proof/Machine/Govern.lean ====
section
/-! DEFINITION. Placement, the deadline governor, spare arrays and the lookahead (R289–R292, R320–R341). -/

namespace Sys2Proof.Machine

/-! ## Placement (R292, R325–R328) -/

/-- The bench or the half of a site, as one number; none for MACs and notify engines. -/
def sitePlace : Site → Option Nat
  | .bench b _ => some b.val
  | .pool h _ => some h.val
  | _ => none

/-- The unit index of a site. -/
def siteUnit : Site → Nat
  | .bench _ i => i.val
  | .pool _ i => i.val
  | .mac m _ => m.val
  | .notify n => n.val

/-- The sites of a task's class that AFF, INSTV and its MAC leave it (R292). -/
def reach (s : State) (t : Task) : List Site :=
  (sitesOf s.variant t.cls).filter fun x =>
    (!t.unitV || decide (siteUnit x = t.unit)) &&
    (match x with
      | .mac m _ => decide (t.mac = some m.val)
      | .bench b _ => if t.aff = 2 then decide (b.val = t.bench) else if t.aff = 3 then decide (b.val = t.bench) || decide (b.val = Nat.xor t.bench 1) else true
      | .pool h _ => if t.aff = 2 then decide (h.val = b2n t.half) else true
      | .notify _ => true)

/-- A spare or failed array never takes a task (R325). -/
def arrayBarred (s : State) (x : Site) : Bool :=
  match x with
  | .bench b i => decide (i.val = 11) && (isSpare s b.val || decide (cmaState s b.val = 4))
  | _ => false

/-- A DMA channel in HOST mode: the Cordwainer dispatches only to channels in SCHED mode (R60, R291). -/
def siteHosted (s : State) (x : Site) : Bool :=
  match x with
  | .bench b i => decide (12 ≤ i.val) && rdB s R.dmaCtl b.val (i.val - 12) 0
  | _ => false

/-- A(t) (R325). -/
def allowed (s : State) (t : Task) : List Site := (reach s t).filter fun x => !excluded s x && !arrayBarred s x && !siteHosted s x

/-- A(t) with the instances of domains that are only asleep on demand, which the lookahead and R335 wake. -/
def wakeable (s : State) (t : Task) : List Site := (reach s t).filter fun x =>
  !hostExcl s x && !arrayBarred s x && !siteHosted s x && !outOfService s (siteDomain x) &&
  (match x with
    | .bench b i => !(decide (i.val = 11) && awake s b.val && arrayExcl s b.val)
    | _ => true)

/-- The input bench of a task (R325). -/
def inputBench (s : State) (t : Task) : Option Nat := match unitOf s.variant t.param with
  | .bench b => some b
  | _ => none

/-- The thermal band of a site: 0 COOL, 1 WARM, 2 HOT (R327). -/
def bandOf (s : State) (x : Site) : Nat :=
  match x with
  | .bench b _ => rdF s R.gvTherm 0 0 (2 * b.val + 1) (2 * b.val)
  | .pool h _ => rdF s R.gvPoolTherm 0 0 (2 * h.val + 1) (2 * h.val)
  | _ => 0

/-- `GV_LOAD` of a site's bench or half. -/
def loadAt (s : State) (x : Site) : Nat :=
  match x with
  | .bench b _ => (rd s R.gvLoad 0 b.val).toNat
  | .pool h _ => (rd s R.gvLoad 0 (16 + h.val)).toNat
  | _ => 0

def listMin (l : List Nat) : Nat := l.foldl Nat.min (2 ^ 32)

/-- The sites in the coolest band present among them. -/
def coolest (s : State) (l : List Site) : List Site :=
  let k := listMin (l.map (bandOf s))
  l.filter fun x => decide (bandOf s x = k)

/-- Pf(t) out of a given A(t) (R326). -/
def preferredOf (s : State) (t : Task) (a : List Site) : List Site :=
  let on (k : Nat) := a.filter fun x => decide (sitePlace x = some k)
  let home := if 4 ≤ t.cls ∧ t.cls < 12 then b2n t.half else t.bench
  if t.aff = 2 ∨ t.unitV ∨ t.cls = 12 ∨ t.cls = 13 ∨ t.cls = 15 then a
  else if t.aff = 1 then on home
  else if t.aff = 3 then
    match inputBench s t with
    | some b => if b = t.bench ∨ b = Nat.xor t.bench 1 then on b else on t.bench
    | none => on t.bench
  else
    let byLoad :=
      let c := coolest s a
      let m := listMin (c.map (loadAt s))
      c.filter fun x => decide (loadAt s x ≤ m + 10 * s.gov.policy.bal)
    match (inputBench s t).filter fun _ => t.cls < 4 ∨ t.cls = 14 with
    | some b => if (on b).isEmpty then byLoad else on b
    | none => byLoad

def preferred (s : State) (t : Task) : List Site := preferredOf s t (allowed s t)

/-- A task ready since `rats` has waited `ns` nanoseconds; one nanosecond is 1.96608 Tc (R25). -/
def waitedNs (s : State) (t : Task) (ns : Nat) : Bool := decide (196608 * ns ≤ 100000 * (s.ats - t.rats).toNat)

/-- Site x may take a task out of Pf(t), or else by the spill rules (R327, R328). -/
def takesPf (s : State) (x : Site) (t : Task) : Bool := (preferred s t).contains x
def takesSpill (s : State) (x : Site) (t : Task) : Bool :=
  let pf := preferred s t
  let b := bandOf s x
  (allowed s t).contains x && decide (b ≠ 2) &&
    (pf.all (fun y => decide (bandOf s y = 2)) || waitedNs s t (if b = 0 then s.gov.policy.spill else 2 * s.gov.policy.spill))

/-- How many tasks may be staged at a site (R65, R292, R327). -/
def stageDepth (s : State) (x : Site) : Nat :=
  match x with
  | .mac _ _ => 64
  | .notify _ => 2
  | _ => if bandOf s x = 0 then 2 else 1

/-- Only the oldest READY task of a flow is eligible, while the flow is not busy (R290). -/
def eligible (s : State) (e : Nat × Task) : Bool :=
  decide (e.2.st = .ready) && (decide (e.2.flow = 0) || (!flowBusy s e.2.flow &&
    s.cord.tasks.all fun o => !(decide (o.2.st = .ready) && decide (o.2.flow = e.2.flow)) || decide (e.2.rseq ≤ o.2.rseq)))

/-- A tick measured from the current one: zero or less once reached (R29); `past` for one that a long step has skipped. -/
def dueIn (s : State) (past : Bool) (d : Nat) : Int :=
  if past || tickReached s d then -(ageOf s past d : Int) else (ticksAhead s d : Int)

/-- The rank of R289. -/
def ranksBefore (s : State) (a b : Nat × Task) : Bool :=
  let x := dueIn s a.2.pastDl a.2.deadline
  let y := dueIn s b.2.pastDl b.2.deadline
  decide (a.2.prio < b.2.prio) || (decide (a.2.prio = b.2.prio) && (decide (x < y) || (decide (x = y) && decide (a.2.rseq < b.2.rseq))))

/-- FH tasks whose flow entry could not be read yet are bound now (R292). -/
def bindWaiting (s : State) : State :=
  let l := s.cord.tasks.filter fun e => decide (e.2.st = .ready) && (decide (e.2.cls = 12) || decide (e.2.cls = 13)) && decide (e.2.mac = none)
  l.foldl (fun a e => finish (enterReady a e.1 e.2 true)) s

/-- The domain of a site takes tasks: it is in RUN or IDLE, its fence is OPEN, and it does not wait to be reloaded (R66, R517, R527,
R335, R359). -/
def siteAwake (s : State) (x : Site) : Bool :=
  awake s (siteDomain x) && decide (fnState s (siteDomain x) = 0) && !needLoad s (siteDomain x)

/-- A free staging slot of a site takes the highest-ranked task that placement permits (R292, R328). -/
def grantAt (s : State) (x : Site) : State :=
  if !siteHere s.variant x ∨ excluded s x ∨ siteHosted s x ∨ !siteAwake s x ∨ stageDepth s x ≤ slotsUsed s x then s
  else
    let l := sortBy (ranksBefore s) (s.cord.tasks.filter fun e => decide (e.2.cls = siteClass x) && eligible s e)
    match l.find? fun e => takesPf s x e.2 || takesSpill s x e.2 with
    | none => s
    | some (i, t) =>
      let s1 := putTask s i { t with st := .staged, site := some x, arrived := false, sseq := s.cord.sctr }
      let s2 := setCord s1 fun c => { c with sctr := c.sctr + 1 }
      if takesPf s x t then s2 else bump s2 R.gvCount 0 18 1

/-- The sites that take tasks in the cycle in which site x does, up to it, in the order of R328: those of its class by bench or
half and instance, N0 to N3; a MAC takes its own. -/
def takers (s : State) (x : Site) : List Site := match x with
  | .mac _ _ => [x]
  | _ => ((sitesOf s.variant (siteClass x)).takeWhile fun y => decide (y ≠ x)) ++ [x]

/-- `DISPATCH_GRANT` (R292, R328): a staging slot of site x frees. Instances ahead of it whose slots are free take tasks first.
DESIGN CHOICE, unsafe: log entry 84. -/
def execDispatchGrant (x : Site) (s : State) : Host.Outcome State Fault Refusal :=
  .next ((takers s x).foldl grantAt (bindWaiting s))

/-- `DS_STAGE` (R65): the first task granted to a site reaches its stage. -/
def execDsStage (x : Site) (s : State) : Host.Outcome State Fault Refusal :=
  .next (match (stagedAt s x).find? fun e => !e.2.arrived with
    | none => s
    | some (i, t) => putTask s i { t with arrived := true })

/-! ## The deadline governor (R320–R324) -/

def stateNum : TState → Nat
  | .free => 0 | .wait => 1 | .delay => 2 | .ready => 3 | .staged => 4 | .run => 5 | .erase => 6

/-- EV_ESCALATE (R483, R321). -/
def escalate (s : State) (t : Task) : State :=
  raise (emit s 4 [packF [(0, t.cell), (16, t.pattern)], packF [(0, t.tmpl), (11, stateNum t.st)], w32 t.inum, w32 (slotOf s t)]) E.gv 0 2

/-- The frame now, numbered from air-time 0. -/
def frameNow (s : State) : Nat := s.ats.toNat / tcFrame

/-- Cell counter k counts one. -/
def cellMiss (s : State) (h k : Nat) : State := modCell s h fun c => { c with miss := modNth c.miss k fun n => (n + 1) % 2 ^ 64 }

/-- A late action of kind k of a task is counted, in its cell and class, and its frame's burst is watched (R324). -/
def countLate (s : State) (t : Task) (k : Nat) : State :=
  let s1 := raise (bump (cellMiss s t.cell k) R.gvCount 0 t.cls 1) E.gv 0 1
  match cellOf s1 t.cell with
  | none => s1
  | some c =>
    let f := frameNow s1
    let n := if c.frame = f then c.lateN + 1 else 1
    let b := decide (c.frame = f) && c.burst
    let hit := decide (s1.gov.policy.burst ≠ 0) && decide (s1.gov.policy.burst < n) && !b
    let s2 := modCell s1 t.cell fun x => { x with frame := f, lateN := n, burst := b || hit }
    if hit then raise (emit s2 5 [w32 t.cell, w32 (f % 1024), w32 (f / 1024), w32 n]) E.gv 0 3 else s2

/-- The task with the fields of its ALT template (R323). -/
def degraded (s : State) (t : Task) : Task :=
  match patOf s t.pattern with
  | none => t
  | some p =>
    let a := tmplAt p.image t.alt
    let x := instOf s t.inum
    { t with prio := a.prio, aff := a.aff, unit := a.unit, unitV := a.unitV, half := a.half, entry := a.entry,
             er0 := (a.er0.1.toNat, a.er0.2), er1 := (a.er1.1.toNat, a.er1.2),
             param := paramOf a ((x.map fun y => y.req).getD 0) ((x.map fun y => y.blocks).getD []),
             deadline := (t.deadline + s.gov.policy.degExt) % 2 ^ 32, late := 1, altV := false, acted := false }

/-- The late action that applies: DEGRADE without ALT is SKIP. -/
def lateOf (t : Task) : Nat := if t.late = 2 ∧ !t.altV then 1 else t.late

/-- Its instance is still being created. -/
def beingCreated (s : State) (t : Task) : Bool := match instOf s t.inum with
  | some x => x.creating
  | none => false

/-- A task that waits past its deadline (R320). -/
def lateTask (s : State) (e : Nat × Task) : Bool :=
  (decide (e.2.st = .wait) || decide (e.2.st = .delay) || decide (e.2.st = .ready)) && deadlineReached s e.2 && !e.2.acted &&
    !beingCreated s e.2

/-- The late action of task i in WAIT, DELAY or READY (R321, R323); none where an earlier one of the same check has ended its
wait. -/
def lateAction (s : State) (i : Nat) : State :=
  match taskOf s i with
  | none => s
  | some t0 =>
    if !lateTask s (i, t0) then s else
    let k := lateOf t0
    let t := { t0 with missed := true, acted := true }
    let s1 := countLate s t0 k
    let waits := decide (t.st = .wait)
    let w : Task := if waits then { t with dep := 0, instat := 2 } else t
    match k with
    | 0 =>
      if waits then finish (settleTask s1 i w)
      else if t.st = .delay then finish (enterReady s1 i t false)
      else putTask s1 i t
    | 1 => finish (skip s1 i t)
    | 2 =>
      if waits ∧ !t.onfail then finish (skip s1 i w)
      else finish (enterReady s1 i (degraded s1 w) (decide (t.st = .ready)))
    | _ => finish (skip (escalate s1 t0) i t)

/-- A task staged or running at its deadline: counted once (R322). -/
def runOver (s : State) (i : Nat) : State :=
  match taskOf s i with
  | none => s
  | some t =>
    let s1 := bump (cellMiss (putTask s i { t with missed := true, overDone := true }) t.cell 4) R.gvCount 0 16 1
    if t.late = 3 then escalate s1 t else s1

/-- A Shank in FAULT_HALT at its task's deadline: the task ends `TIMEOUT` (R151, R322). -/
def haltEnd (s : State) (i : Nat) : State :=
  match taskOf s i with
  | none => s
  | some t => match t.site with
    | some (.bench b e) =>
      if e.val = 8 ∧ t.st = .run ∧ rdF s R.shStat b.val 0 9 8 = 2 then
        raise (complete (wrF s R.shStat b.val 0 9 8 0) i (st16 .timeout)) E.gv 0 8
      else s
    | _ => s

/-- `DEADLINE_CHECK` (R320).
DESIGN CHOICE, unsafe: log entry 85. -/
def execDeadlineCheck (s : State) : Host.Outcome State Fault Refusal :=
  .next (
    let older (a b : Nat × Task) : Bool := decide (ageOf s b.2.pastDl b.2.deadline < ageOf s a.2.pastDl a.2.deadline)
    let late := sortBy older (s.cord.tasks.filter (lateTask s))
    let past := s.cord.tasks.filter fun e => (decide (e.2.st = .staged) || decide (e.2.st = .run)) && deadlineReached s e.2 && !e.2.acted
    let s1 := (late.take 1024).foldl (fun a e => lateAction a e.1) s
    let s2 := (past.filter fun e => !e.2.overDone).foldl (fun a e => runOver a e.1) s1
    let s3 := (past.filter fun e => !e.2.overDone).foldl (fun a e => haltEnd a e.1) s2
    let rest := (late.drop 1024).filter fun e => !e.2.carried
    let s4 := rest.foldl (fun a e => modTask a e.1 fun t => { t with carried := true }) s3
    raiseIf (!rest.isEmpty) (bump s4 R.gvCount 0 17 rest.length) E.gv 0 4)

/-! ## Load averages (R329) -/

/-- One step of an average with weight 1/8; the manual does not say how it rounds, and `up` decides.
DESIGN CHOICE, safe: log entry 83. -/
def emaStep (old x : Nat) (up : Bool) : Nat :=
  let n := 7 * old + x
  if up ∧ n % 8 ≠ 0 then n / 8 + 1 else n / 8

/-- `GV_LOAD_UPDATE` (R329): the busy fractions of the sixteen benches and the two halves since the last update, per mille. -/
def execGvLoadUpdate (busyOf : List Nat) (s : State) : Host.Outcome State Fault Refusal :=
  let (w, s1) := drawFree s
  .next ((List.range 18).foldl (fun a k =>
    if domainHere s.variant k then wr a R.gvLoad 0 k (w32 (emaStep (rd s R.gvLoad 0 k).toNat (Nat.min 1000 (nth busyOf k 0)) (bit w k))) else a) s1)

/-! ## Spare arrays (R332) -/

/-- The benches whose arrays the governor may designate, first choice first. -/
def spareOrder (s : State) (l : List Nat) : List Nat :=
  let band (b : Nat) := rdF s R.gvTherm 0 0 (2 * b + 1) (2 * b)
  sortBy (fun a b => decide (band a < band b) || (decide (band a = band b) && decide (b < a))) l

/-- READY arrays of the serving set. -/
def readyServing (s : State) : List Nat := (List.range 16).filter fun b => cmaHere s.variant b && !isSpare s b && decide (cmaState s b = 2)

def spareCount (s : State) : Nat := popcount (rd s R.gvSpare)

/-- Designate the array of bench b, or end its designation. -/
def setSpare (s : State) (b : Nat) (on : Bool) : State := capSync (spareSync (wrB s R.gvSpare 0 0 b on))

/-- Designate arrays until SPARES are designated or no READY array of the serving set remains. -/
def designate (s : State) : State :=
  ((spareOrder s (readyServing s)).take (s.gov.policy.spares - spareCount s)).foldl (fun a b => setSpare a b true) (spareSync s)

/-- Release the spares ranked last until SPARES remain. -/
def releaseSpares (s : State) : State :=
  ((spareOrder s ((List.range 16).filter (isSpare s))).drop s.gov.policy.spares).foldl (fun a b => setSpare a b false) (spareSync s)

/-- Every present array has ended its first full calibration. -/
def arraysSettled (s : State) : Bool := (List.range 16).all fun b => !cmaHere s.variant b || decide (cmaState s b = 2) || decide (cmaState s b = 4)

def spareStartup (s : State) : State :=
  if s.gov.started ∨ !arraysSettled s then s else designate (setGov s fun g => { g with started := true })

/-- `SPARE_DESIGNATE_STARTUP` (R332). -/
def execSpareDesignateStartup (s : State) : Host.Outcome State Fault Refusal := .next (spareStartup s)

/-! ## Lookahead (R334, R335) -/

/-- The first and only place of a list of sites, if they all lie on one. -/
def onePlace : List Site → Option Nat
  | [] => none
  | x :: xs => match sitePlace x with
    | none => none
    | some k => if xs.all fun y => decide (sitePlace y = some k) then some k else none

/-- A task of a bench class falls due on bench b alone. -/
def dueOn (s : State) (b : Nat) (t : Task) : Bool :=
  (decide (t.cls < 4) || decide (t.cls = 14)) && (decide (t.st = .wait) || decide (t.st = .delay) || decide (t.st = .ready)) &&
    (decide (onePlace (wakeable s t) = some b) || (decide (t.aff = 1) && decide (onePlace (preferredOf s t (wakeable s t)) = some b)))

/-- Ticks from now to the instantiation of a cell's next slot on bench b. -/
def cellDue (s : State) (b : Nat) (c : Cell) : Option Int :=
  if !(decide (c.home = b) || decide (reHome s c.home = some b)) then none
  else (dueSlot s c (tickNow s + 65535)).map fun e => (e.1 : Int) - c.lead - tickNow s

/-- `GV_NEXT_DUE_b` and its valid bit. -/
def lookBench (s : State) (a : State) (b : Nat) : State :=
  let tasks := ((s.cord.tasks.filter fun e => dueOn s b e.2).map fun e => dueIn s e.2.pastRel e.2.release) ++
    (if s.cord.tasks.any fun e => decide (e.2.st = .ready) && dueOn s b e.2 then [0] else [])
  let l := (tasks ++ s.cord.cells.filterMap (cellDue s b)).filter fun d => decide (d ≤ 65535)
  match l with
  | [] => wrB a R.gvDueValid 0 0 b false
  | d :: ds =>
    let m := ds.foldl min d
    wr (wrB a R.gvDueValid 0 0 b true) R.gvNextDue 0 b (w32 (wrapTo 32 ((tickNow s : Int) + m)))

/-- The place whose wake a READY task without an awake instance needs (R335), as a power domain. -/
def wakeFor (s : State) (t : Task) : Option Nat :=
  let a := wakeable s t
  if t.st ≠ .ready ∨ a.isEmpty ∨ a.any (fun x => awake s (siteDomain x)) then none
  else
    let pf := preferredOf s t a
    match pf, onePlace pf with
    | x :: _, some _ => some (siteDomain x)
    | _, _ =>
      let c := coolest s a
      let m := listMin (c.map (loadAt s))
      (c.find? fun x => decide (loadAt s x = m)).map siteDomain

/-- The wakes that READY tasks without an awake instance need are requested (R335). -/
def wakeReady (s : State) : State := (s.cord.tasks.filterMap fun e => wakeFor s e.2).foldl (fun a d => wakeDomain a d 2) s

/-- `LOOKAHEAD_RECOMPUTE` (R334, R335). -/
def execLookaheadRecompute (s : State) : Host.Outcome State Fault Refusal :=
  .next (wakeReady (((List.range 16).filter (benchHere s.variant)).foldl (lookBench s) s))

/-! ## What makes tasks READY (R276, R286, R288, R297, R301, R335) -/

/-- `TASK_COMPLETION` (R286, R294, R335). -/
def execTaskCompletion (s : State) : Host.Outcome State Fault Refusal := .next (wakeReady (takeCompletion s))

/-- `DELAY_RELEASE` (R288, R335). -/
def execDelayRelease (s : State) : Host.Outcome State Fault Refusal := .next (wakeReady (delayRelease s))

/-- `ERASE_DONE` (R297): `tmo` names the region and line whose write times out, if one does. -/
def execEraseDone (i : Fin 131072) (tmo : Option (Bool × Nat)) (s : State) : Host.Outcome State Fault Refusal :=
  .next (settled s (wakeReady (eraseDone s i.val tmo)))

/-- `INSTANCE_CREATED` (R276, R286, R287). -/
def execInstanceCreated (s : State) : Host.Outcome State Fault Refusal := .next (wakeReady (creationEnd s))

/-- `REMOTE_COMPLETION_RX` (R300, R301): applied, held or discarded, and acknowledged. -/
def execRemoteCompletionRx (src cell : W16) (rtick : W32) (tmpl : Fin 2048) (g : Fin 3) (seq : W32) (s : State) :
    Host.Outcome State Fault Refusal :=
  .next (
    let (s1, a) := remoteTake s (complRec src.toNat cell.toNat rtick.toNat tmpl.val g.val seq.toNat)
    wakeReady (setCord s1 fun c => { c with acks := c.acks ++ [(src.toNat, a)] }))

/-! ## Commands (R336, R338–R341) -/

/-- The policy that the 17 words of `GOV_POLICY_SET` hold. -/
def policyOf (ps : List W32) : Policy :=
  let w (k : Nat) := nth ps k 0#32
  { util := (List.range 16).map fun c => fld (w (5 + c / 4)) (8 * (c % 4) + 6) (8 * (c % 4)),
    cellres := (List.range 16).map fun c => fld (w (9 + c / 2)) (16 * (c % 2) + 15) (16 * (c % 2)),
    spill := fld (w 2) 15 0, bal := fld (w 2) 22 16, spares := fld (w 2) 25 23, tw1 := fld (w 3) 7 0, tw2 := fld (w 3) 15 8,
    degExt := fld (w 3) 28 16, burst := fld (w 4) 15 0 }

/-- A field lies outside R336. -/
def policyBad (p : Policy) : Bool :=
  p.util.any (fun u => decide (u < 50) || decide (100 < u)) || decide (10000 < p.spill) || decide (100 < p.bal) || decide (4 < p.spares) ||
  decide (p.tw1 < 60) || decide (104 < p.tw2) || decide (p.tw2 ≤ p.tw1) || decide (4800 < p.degExt)

/-- The reserved bits of the policy's words. -/
def policyMasks : List W32 :=
  [0xFFFFFFFF#32, 0xFFFFFFFF#32, 0x03FFFFFF#32, 0x1FFFFFFF#32, 0xFFFF#32] ++ List.replicate 4 0x7F7F7F7F#32 ++ List.replicate 8 0xFFFFFFFF#32

/-- The checks of `GOV_POLICY_SET` before its boundary's passing (R338). -/
def govPolicyCheck (s : State) (ps : List W32) : Status :=
  let b := boundary (nth ps 0 0#32) (nth ps 1 0#32)
  let p := policyOf ps
  if !wellFormed ps policyMasks || bndFault s (nth ps 0 0#32) (nth ps 1 0#32) || policyBad p then .badParam
  else if p.spares ≠ 0 ∧ !hasCma s.variant then .notPresent
  else if (stagedCommands s).any (fun e => decide (e.1 = 0x0308) && decide (e.2.2.bnd = b)) || stepBars s b then .state
  else .ok

/-- The whole policy is replaced (R338, R332). -/
def govPolicyApply (s : State) (ps : List W32) : State :=
  let p := policyOf ps
  let old := s.gov.policy.spares
  let s1 := setGov s fun g => { g with policy := p }
  let s2 := if !s1.gov.started then s1 else if old < p.spares then designate s1 else if p.spares < old then releaseSpares s1 else s1
  capSync (spareSync s2)

/-- `PLACE_EXCLUDE` (R339): the exclusions are imposed now and take effect at the limit junction. -/
def placeExclude (q : Req) (s : State) : Done :=
  let w := par q 0
  let pool := bit w 0
  let mask := pair64 (par q 1) (par q 2)
  let b := fld w 4 1
  let h := fld w 1 1
  let set := bit w 5
  if q.params.length ≠ 3 ∨ !onlyBits w (if pool then 0x23#32 else 0x3F#32) ∨ (if pool then 2 ^ 46 ≤ mask else 2 ^ 16 ≤ mask) ∨ mask = 0 then done s .badParam
  else
    let named := (List.range 46).filter fun i => mask.testBit i
    let put (old : Nat) : Nat := if set then Nat.lor old mask else Nat.land old (Nat.xor mask (2 ^ 46 - 1))
    if pool then
      if !halfHere s.variant h then done s .notPresent
      else done (setGov s fun g => { g with hostP := modNth g.hostP h put }) .ok
    else if !benchHere s.variant b ∨ (named.contains 11 ∧ !cmaHere s.variant b) then done s .notPresent
    else done (setGov s fun g => { g with hostB := modNth g.hostB b put }) .ok

/-- `GOV_STATUS` (R340). -/
def govStatus (q : Req) (s : State) : Done :=
  if q.params.length ≠ 0 then done s .badParam
  else doneW s ([rd s R.gvStat] ++ ((List.range 16).map fun c => rd s R.gvCap 0 c) ++ ((List.range 16).map fun c => rd s R.gvCommit 0 c) ++ [rd s R.gvSpare, rd s R.gvTherm])

/-- The two classes with the largest load, larger first, the lower class on a tie. -/
def topTwo (l : List (Nat × Nat)) : List (Nat × Nat) := (sortBy (fun a b => decide (b.2 < a.2)) l).take 2

/-- `GOV_CELL_STATS` (R341). -/
def govCellStats (q : Req) (s : State) : Done :=
  if !wellFormed q.params [0xFFFF#32] then done s .badParam
  else match cellOf s (par q 0).toNat with
    | none => done s .badParam
    | some c =>
      let ts := (stagedTables s c.h).map fun e => e.2
      let loads := (List.range 16).map fun k => (k, contribution s c ts k)
      doneW s ((c.miss.flatMap fun n => [lo32 n, hi32 n]) ++ (topTwo loads).map fun e => packF [(0, e.1), (4, satU 28 e.2)])

end Sys2Proof.Machine
end

