-- ==== Sys2Proof/Machine/Awl.lean ====
section
/-! DEFINITION. The Awl core: bundles, results in flight, hold regions, loops, exceptions, interrupts and tasks (R67–R85,
R99–R113). -/

namespace Sys2Proof.Machine

/-! ## Results in flight (R72–R75) -/

/-- A result lands in its register (R80). AOV is set as the sum lands; the sticky flags of other results are set as their bundle
commits: R72 gives flags no latency (R93).
DESIGN CHOICE, unsafe: log entry 158. -/
def Core.land (c : Core) (f : Flight) : Core :=
  match f.dst, f.val with
  | .s n, .w x => if n = 0 then c else { c with s := setNth c.s n x }
  | .p n, .w x => { c with p := setNth c.p n x }
  | .v n, .v bits mask po => { c with v := modNth c.v n fun r => r.land bits mask po }
  | .acc n, .acc l => { c with acc := setNth c.acc n l }
  | .acc n, .mac sat ops =>
    let r := macLand sat ops (c.ra n)
    { c with acc := setNth c.acc n r.1, status := if r.2 ∧ n < 8 then setBit c.status n true else c.status }
  | .k n, .k x => if n = 0 then c else { c with k := setNth c.k n x }
  | _, _ => c

/-- One more bundle's time passes: results that are due land, older first.
DESIGN CHOICE, safe: log entry 45. -/
def Core.tick (c : Core) : Core :=
  let due := c.flight.filter fun f => decide (f.left ≤ 1)
  let rest := (c.flight.filter fun f => decide (1 < f.left)).map fun f => { f with left := f.left - 1 }
  due.foldl Core.land { c with flight := rest }

def Core.tickN : Nat → Core → Core
  | 0, c => c
  | n + 1, c => Core.tickN n c.tick

/-- Every result in flight has landed; no latency is above 8. -/
def Core.landAll (c : Core) : Core := Core.tickN 8 c

/-- The interlock: time passes until no register in the list has a write in flight (R74). -/
def Core.waitFor (ds : List Dst) : Nat → Core → Core
  | 0, c => c
  | n + 1, c => if c.flight.any fun f => ds.contains f.dst then Core.waitFor ds n c.tick else c

/-- A result enters the pipeline. Outside a hold region an older result of the same register lands no later (R74). -/
def Core.send (hold : Bool) (c : Core) (w : Dst × Val × Nat) : Core :=
  let fs := if hold then c.flight else c.flight.map fun f => if f.dst = w.1 ∧ w.2.2 < f.left then { f with left := w.2.2 } else f
  { c with flight := fs ++ [{ dst := w.1, val := w.2.1, left := w.2.2 }] }

/-! ## Exceptions and interrupts (R76, R105–R108) -/

/-- The entry of R107 with a cause, a base offset and the pc to resume. An exception of the very bundle that holds `IRQ_HOLD`, which
has not committed, is not one inside the region: INHOLD is 0 and `HOLD_PC` stays (R76 leaves it open).
DESIGN CHOICE, unsafe: log entry 161. -/
def Core.enter (c0 : Core) (cause : W32) (bad : Option Nat) (off : W32) : Core :=
  let c := c0.landAll
  let inHold := bit c.status 16
  let f := decide (c.pl = 0)
  let st := setFld (setFld c.status 16 12 0) 18 17 (if f then 0 else 1)
  { c with estatus := c.status, epc := c.pc, cause := setBit cause 9 inHold, badaddr := (bad.map w32).getD c.badaddr,
           holdPc := if inHold then c.holdAt else c.holdPc, holdN := 0, pre := [], status := st, pc := (if f then c.fvec else c.evec) + off }

/-- A core takes an exception; the words it read have counted in their memory. -/
def takeExc (s : State) (b m : Nat) (c : Core) (e : Exc) : State :=
  let s1 := e.probe.foldl (fun a w => (readWord a (8 * w)).1) s
  putCore s1 b m (c.enter (packF [(0, e.code), (10, e.slot)]) e.bad 0)

/-- The lowest enabled pending interrupt. -/
def pendingIrq (s : State) (b m : Nat) (c : Core) : Option Nat :=
  let x := ipendOf s b m c &&& c.ien
  (List.range 5).find? fun k => bit x k

/-- An interrupt is accepted at a bundle boundary (R108). -/
def acceptIrq (s : State) (b m : Nat) : State :=
  let c := coreOf s b m
  match pendingIrq s b m c with
  | none => s
  | some k =>
    if !bit c.status 12 ∨ bit c.status 16 ∨ c.idle ∨ c.halted then s
    else putCore s b m { c.enter (packF [(0, k), (8, 1)]) none 0x80 with waiting := false }

/-! ## Loops (R99–R104) -/

/-- Writes to k1–k3 still in flight are overtaken by the hardware's own (R104, R134). -/
def Core.dropStages (c : Core) : Core :=
  { c with flight := c.flight.filter fun f => !decide (f.dst = .k 1) && !decide (f.dst = .k 2) && !decide (f.dst = .k 3) }

/-- k1–k3 at the start of a level-0 iteration (R104). -/
def Core.stages (c : Core) : Core :=
  if !c.sp then c
  else
    let k1 := decide (fld c.lstg 3 0 + 1 ≤ c.lc0.toNat)
    let k2 := decide (fld c.lstg 7 4 = 0)
    let v (x : Bool) : W64 := if x then BitVec.allOnes 64 else 0
    { c.dropStages with k := setNth (setNth (setNth c.k 1 (v k1)) 2 (v k2)) 3 (v (k1 && k2)) }

/-- A loop opens; the next pc (R99). SP stays beside the CSRs, and `LEXIT0` leaves k1–k3 as they are (R102, R104).
DESIGN CHOICE, unsafe: log entry 132. -/
def Core.open (c : Core) (i : SIns) (n : Nat) : Core × W32 :=
  let le := c.pc + BitVec.ofNat 32 (16 * i.end_)
  let c1 := if i.lvl = 0 then
      { c with lc0 := w32 (n + i.stg), ls0 := c.pc + 16, le0 := le, lstg := packF [(0, i.stg), (4, i.stg)], sp := i.sp,
               rrb := if i.rb then 0 else c.rrb }
    else { c with lc1 := w32 n, ls1 := c.pc + 16, le1 := le }
  if n = 0 then (c1, le + 16)
  else
    let c2 := { c1 with status := setBit c1.status (14 + i.lvl) true }
    (if i.lvl = 0 then c2.stages else c2, c.pc + 16)

/-- The loop-end action of level 1 at a bundle. -/
def Core.loopEnd1 (c : Core) (pc next : W32) : Core × W32 :=
  if bit c.status 15 ∧ pc = c.le1 then
    let c1 := { c with lc1 := c.lc1 - 1 }
    if c1.lc1 = 0 then ({ c1 with status := setBit c1.status 15 false }, next) else (c1, c1.ls1)
  else (c, next)

/-- The loop-end actions at a bundle (R100, R103, R104). -/
def Core.loopEnd (c : Core) (pc next : W32) : Core × W32 :=
  if bit c.status 14 ∧ pc = c.le0 then
    let pro := fld c.lstg 7 4
    let c1 := { c with lc0 := c.lc0 - 1, rrb := w32 ((c.rrb.toNat + 15) % 16), lstg := setFld c.lstg 7 4 (pro - 1) }
    if c1.lc0 = 0 then
      let c2 := { c1 with status := setBit c1.status 14 false }
      (if c2.sp then { c2.dropStages with k := setNth (setNth (setNth c2.k 1 0) 2 0) 3 0 } else c2).loopEnd1 pc next
    else (c1.stages, c1.ls0)
  else c.loopEnd1 pc next

/-! ## Bundles (R67–R70, R76, R106) -/

/-- A decoded bundle; a slot whose word raises ILLEGAL is none. -/
structure Bundle where
  s0 : Option SIns := some { fn := .nop }
  m0 : Option MIns := some { fn := .nop }
  m1 : Option MIns := some { fn := .nop }
  v  : Option VIns := some { fn := .nop }

/-- The instruction of a slot, or NOP. -/
def Bundle.sI (x : Bundle) : SIns := x.s0.getD { fn := .nop }
def Bundle.m0I (x : Bundle) : MIns := x.m0.getD { fn := .nop }
def Bundle.m1I (x : Bundle) : MIns := x.m1.getD { fn := .nop }
def Bundle.vI (x : Bundle) : VIns := x.v.getD { fn := .nop }

/-- A register occurs twice among the writes of a bundle; s0 and k0 never conflict (R69). -/
def twice : List Dst → Bool
  | [] => false
  | d :: r => (r.contains d && !decide (d = .s 0) && !decide (d = .k 0)) || twice r

/-- Another slot reads a register that an element-precise form writes (R140). -/
def preciseClash (v : Nat → Nat) (x : Bundle) : Bool :=
  let r (ds : List Dst) (l : List Dst) : Bool := ds.any fun d => l.contains d
  let a := x.m0I
  let b := x.m1I
  let rest := x.sI.reads ++ x.vI.reads v
  (a.fn.precise && r (a.writes v) (rest ++ b.reads v)) || (b.fn.precise && r (b.writes v) (rest ++ a.reads v))

/-- The exception that a bundle raises before its slots execute (R69, R76, R85, R106). PRIVILEGE or ILLEGAL of S comes first, then
ILLEGAL of M0, of M1 and of V, then a double write, with SLOT 0: R106 has them all in one step of its order.
DEDUCED, unsafe: log entry 49.
DESIGN CHOICE, unsafe: log entry 156. -/
def issueExc (c : Core) (x : Bundle) (noFetch : Bool) : Option Exc :=
  let v := c.vIdx
  if noFetch then some { code := 3, slot := 0, bad := some c.pc.toNat }
  else if bit c.status 16 ∧ 512 ≤ c.holdN then some { code := 8, slot := 0 }
  else if x.s0.isNone then some { code := 1, slot := 0 }
  else match sIssueExc c x.sI with
    | some e => some e
    | none =>
      if x.m0.isNone then some { code := 1, slot := 1 }
      else if x.m1.isNone then some { code := 1, slot := 2 }
      else if x.v.isNone then some { code := 1, slot := 3 }
      else if twice (x.sI.writes ++ x.m0I.writes v ++ x.m1I.writes v ++ x.vI.writes v) || preciseClash v x then some { code := 1, slot := 0 }
      else none

/-- The result of the two M slots: on a fault, the state and core that its exception finds.
DEDUCED, unsafe: log entry 53. -/
def runMs (s : State) (b m : Nat) (hold : Bool) (c : Core) (x : Bundle) : Except (State × Core × Exc) (State × Out) :=
  let part (s0 : State) (c0 : Core) (e : MExc) : State × Core × Exc := match e.part with
    | none => (s0, c0, e.exc)
    | some (s1, o, ix) => (s1, { o.wr.foldl (Core.send hold) c0 with veix := ix }, e.exc)
  match evalM s b m c x.m0I 1 with
  | .error e => .error (part s c e)
  | .ok (s1, o1) =>
    match evalM s1 b m c x.m1I 2 with
    | .ok (s2, o2) => .ok (s2, o1.append o2)
    | .error e =>
      if x.m0I.fn.precise then .error (part s1 (o1.wr.foldl (Core.send hold) c) e)
      else if !x.m1I.fn.precise then .error (s, c, e.exc)
      else match evalM s b m c x.m1I 2 with
        | .error e' => .error (part s c e')
        | .ok _ => .error (part s c e)

/-! ## Prediction (R77) -/

/-- The address at which the predictor expects the program to go on after the branch at the core's PC: BR and CALL taken, JR
through s31 by the return stack, any other JR not taken; a conditional branch by its table entry, else taken when backward.
DESIGN CHOICE, safe: log entry 47. -/
def Core.predict (c : Core) (i : SIns) : W32 :=
  let target := c.pc + BitVec.ofInt 32 (16 * i.imm)
  let next := c.pc + 16
  if !bit c.coreCfg 1 then next
  else match i.fn with
    | .br | .call => target
    | .jr => if i.a = 31 then c.ras.head?.getD next else next
    | _ => match assoc c.pred (fld c.pc 10 4) with
      | some (n, t) => if 2 ≤ n then t else next
      | none => if i.imm < 0 then target else next

/-- The control effects of the S slot on a core and the next pc, where the predictor expected `guess`; whether a taken branch
wins over the loop end. -/
def Core.control (c : Core) (irq : Bool) (guess : W32) : Ctl → Core × W32 × Bool
  | .none_ | .csr _ _ => (c, c.pc + 16, false)
  | .branch taken t =>
    let c1 := { c with open_ := c.open_ ++ [{ pc := c.pc, taken := taken, target := t, missed := decide (guess ≠ if taken then t else c.pc + 16) }] }
    if taken then (c1, t, true) else (c1, c.pc + 16, false)
  | .hold => if bit c.status 16 then (c, c.pc + 16, false) else ({ c with status := setBit c.status 16 true, holdN := 0, holdAt := c.pc }, c.pc + 16, false)
  | .release => ({ c with status := setBit c.status 16 false, holdN := 0 }, c.pc + 16, false)
  | .waitev => ({ c with waiting := !irq }, c.pc + 16, false)
  | .halt => ({ c with halted := true }, c.pc, true)
  | .eret => ({ c with status := setFld (setFld c.status 15 12 (fld c.estatus 15 12)) 18 17 (fld c.estatus 18 17) }, c.epc, true)
  | .tdone _ => ({ c with task := none, idle := true }, c.pc + 16, false)
  | .lexit l => ({ c with status := setBit c.status (14 + l) false }, c.pc + 16, false)
  | .loop_ i n => let (c1, t) := c.open i n; (c1, t, false)

/-- CALL pushes the return stack and JR through s31 pops it (R77). -/
def Core.returns (c : Core) (i : SIns) : Core :=
  if i.fn = .call then { c with ras := ((c.pc + 16) :: c.ras).take 4 }
  else if i.fn = .jr ∧ i.a = 31 then { c with ras := c.ras.drop 1 } else c

/-- The prefetched bundles that remain when a bundle has issued and the program goes on at `next` (R85). -/
def Core.ahead (c : Core) (next : W32) : List (W32 × List W32 × Bool) :=
  let r := match c.pre with
    | e :: r => if e.1 = c.pc then r else c.pre
    | [] => []
  match r with
  | e :: _ => if e.1 = next then r else []
  | [] => []

/-- A bundle commits: its results enter the pipeline, its flags and control effects apply, the loop ends act. LEXITn in the last
bundle of loop n clears LAn first: the loop's end then does nothing, and its counter stays (R100 and R102 leave it open).
DESIGN CHOICE, unsafe: log entry 157. -/
def Core.commit (c : Core) (x : Bundle) (o : Out) (so : SOut) (hold irq : Bool) (cyc : Nat) : Core :=
  let c1 := (so.wr ++ o.wr).foldl (Core.send hold) c
  let (c2, next, won) := (c1.returns x.sI).control irq (c.predict x.sI) so.ctl
  let c3 := if bit c2.status 16 then { c2 with holdN := c2.holdN + 1 } else c2
  let (c4, pc') := if won then (c3, next) else c3.loopEnd c.pc next
  let c5 := match so.ctl with
    | .csr n v => csrPut c4 n (if n = 0x005 then setFld c4.status 13 0 v.toNat else v)
    | _ => c4
  { c5 with pc := pc', status := c5.status ||| o.st.status, cycle := c5.cycle + BitVec.ofNat 64 (1 + cyc % 2 ^ 20),
            veix := if x.m0I.fn.precise || x.m1I.fn.precise then 0 else c5.veix,
            tail := if x.vI.fn = .setvl then setvlTail c x.vI else c5.tail, pre := c.ahead pc' }

/-- A core issues a bundle. The bundle that holds `IRQ_HOLD` is the first of its region (R75, R76). -/
def issue (s0 : State) (b m : Nat) (x : Bundle) (noFetch : Bool) : State :=
  let c1 := (coreOf s0 b m).tick
  let v := c1.vIdx
  let reads := x.sI.reads ++ x.m0I.reads v ++ x.m1I.reads v ++ x.vI.reads v
  let hold := bit c1.status 16 || decide (x.sI.fn = .irqHold)
  let c := if hold then c1 else Core.waitFor reads 8 c1
  let (fw, s1) := drawFree s0
  let (cy, s) := drawFree s1
  match issueExc c x noFetch with
  | some e => takeExc s b m c e
  | none =>
    match evalS s b m c x.sI with
    | .error e => takeExc s b m c e
    | .ok so =>
      match runMs s b m hold c x with
      | .error (s2, c2, e) => takeExc s2 b m c2 e
      | .ok (s2, o) =>
        match evalV c x.vI fw.toNat with
        | .error e => takeExc s b m c e
        | .ok ov =>
          let irq := (pendingIrq s b m c).isSome
          let c' := c.commit x (o.append ov) so hold irq cy.toNat
          let s3 := putCore s2 b m (match so.ctl with
            | .csr 0x00F _ => { c' with wdAt := tickNow s2 }
            | _ => c')
          match so.ctl, c.task with
          | .tdone st, some i => complete s3 i st
          | _, _ => s3

/-- The core can issue: its bench is present and goes on, and it is neither between tasks, waiting nor halted. -/
def coreRuns (s : State) (b m : Nat) : Bool :=
  let c := coreOf s b m
  benchHere s.variant b && goesOn s b && !c.idle && !c.waiting && !c.halted

/-- A core issues a bundle that holds one instruction; none where its word raises ILLEGAL.
DESIGN CHOICE, safe: log entry 44. -/
def runS (id : CoreId) (i : Option SIns) (s : State) : State :=
  if coreRuns s id.bench.val id.core.val then issue s id.bench.val id.core.val { s0 := i } false else s
def runM (id : CoreId) (m1 : Bool) (i : MIns) (s : State) : State :=
  let x := if i.legal then some i else none
  if coreRuns s id.bench.val id.core.val then issue s id.bench.val id.core.val (if m1 then { m1 := x } else { m0 := x }) false else s
def runV (id : CoreId) (i : VIns) (s : State) : State :=
  if coreRuns s id.bench.val id.core.val then issue s id.bench.val id.core.val { v := if i.legal then some i else none } false else s

/-- The four words of the bundle at an address and whether they are poisoned; none outside program memory (R85). -/
def fetchAt (s : State) (b m pc : Nat) : State × Option (List W32 × Bool) :=
  if pc < 0x80000 ∨ 0x90000 ≤ pc ∨ pc % 16 ≠ 0 then (s, none)
  else
    let (s1, ws, p) := read32s s (lmemBase b m + pc) 4
    (s1, some (ws, p))

/-- The four words of the bundle at the core's PC, prefetched or read now, or a fetch fault (R85). -/
def fetchBundle (s : State) (b m : Nat) : State × Option (List W32) :=
  let c := coreOf s b m
  let now := fetchAt s b m c.pc.toNat
  let (s1, x) := match c.pre with
    | e :: _ => if e.1 = c.pc then (s, some (e.2.1, e.2.2)) else now
    | [] => now
  (s1, x.bind fun y => if y.2 then none else some y.1)

/-- The address that is expected to follow the bundle of some words at pc: a loop's first bundle after its last (R77), the
predicted path of a branch, else the next bundle. -/
def Core.follow (c : Core) (pc : W32) (ws : List W32) : W32 :=
  if bit c.status 14 ∧ pc = c.le0 ∧ c.lc0 ≠ 1 then c.ls0
  else if bit c.status 15 ∧ pc = c.le1 ∧ c.lc1 ≠ 1 then c.ls1
  else match decodeS (nth ws 0 0) with
    | some i => if [SFn.beq, .bne, .blt, .bge, .bltu, .bgeu, .br, .call, .jr, .bkany, .bknone].contains i.fn then { c with pc := pc }.predict i else pc + 16
    | none => pc + 16

/-- A core prefetches: up to n bundles, and never more than two ahead (R85). -/
def fetchAhead (s : State) (b m : Nat) : Nat → State
  | 0 => s
  | n + 1 =>
    let c := coreOf s b m
    if 2 ≤ c.pre.length then s
    else
      let pc := match c.pre.getLast? with
        | some e => c.follow e.1 e.2.1
        | none => c.pc
      match fetchAt s b m pc.toNat with
      | (_, none) => s
      | (s1, some x) => fetchAhead (putCore s1 b m { c with pre := c.pre ++ [(pc, x.1, x.2)] }) b m n

/-- The bundle of four words (R67). -/
def bundleOf (ws : List W32) : Bundle :=
  { s0 := decodeS (nth ws 0 0), m0 := decodeM (nth ws 1 0), m1 := decodeM (nth ws 2 0), v := decodeV (nth ws 3 0) }

/-- `BUNDLE_ISSUE` (R67): the core fetches the bundle at its PC, issues it, and prefetches as many bundles as it likes.
DESIGN CHOICE, safe: log entry 46. -/
def execBundleIssue (id : CoreId) (s : State) : Host.Outcome State Fault Refusal :=
  .next (
    let b := id.bench.val
    let m := id.core.val
    if !coreRuns s b m then s
    else
      let (w, s0) := drawFree s
      let s2 := match fetchBundle s0 b m with
        | (s1, none) => issue s1 b m {} true
        | (s1, some ws) => issue s1 b m (bundleOf ws) false
      fetchAhead s2 b m (w.toNat % 3))

/-! ## The other events of a core -/

/-- `BRANCH_RESOLVE` (R77): the oldest branch resolves and its predictor entry takes its target; the manual does not state the
counter's new value. A misprediction costs two cycles, and what a wrong path issued has no effect (R78).
DESIGN CHOICE, safe: log entry 47. -/
def execBranchResolve (id : CoreId) (s : State) : Host.Outcome State Fault Refusal :=
  .next (
    let c := coreOf s id.bench.val id.core.val
    match c.open_ with
    | [] => s
    | x :: r =>
      let (w, s1) := drawFree s
      let k := fld x.pc 10 4
      let old := (assoc c.pred k).getD (0, 0)
      putCore s1 id.bench.val id.core.val { c with open_ := r, cycle := c.cycle + (if x.missed then 2 else 0), pred := putKey c.pred k (some (w.toNat % 4, if x.taken then x.target else old.2)) })

/-- `INTERRUPT_ACCEPT` (R108). -/
def execInterruptAccept (id : CoreId) (s : State) : Host.Outcome State Fault Refusal :=
  .next (if (coreOf s id.bench.val id.core.val).waiting then s else acceptIrq s id.bench.val id.core.val)

/-- The core address of an internal address in core (b, m), 0xFFFF_FFFF where R83 maps none (R281). -/
def coreAddrOf (b m a : Nat) : W32 :=
  let l := lmemBase b m
  if l ≤ a ∧ a < l + 0x90000 then w32 (a - l)
  else if benchBase b ≤ a ∧ a < benchBase b + 0x800000 then w32 (0x01000000 + (a - benchBase b))
  else 0xFFFFFFFF

/-- A core starts its next staged task (R112). -/
def coreTaskStart (s : State) (id : CoreId) : State :=
  let b := id.bench.val
  let m := id.core.val
  let c := coreOf s b m
  if c.task.isSome ∨ !awake s b then s
  else match beginTask s (.bench id.bench ⟨m, by have := id.core.isLt; omega⟩) with
    | none => s
    | some (s1, i, t) =>
      let pc := w32 (0x80000 + 16 * t.entry)
      putCore s1 b m { c with pc := pc, status := 0x43000#32, taskPc := pc, taskParam := coreAddrOf b m t.param, taskId := w32 i,
                              task := some i, idle := false, waiting := false, holdN := 0, wdFirst := false, wdAt := tickNow s1, pre := [] }

/-- `CORE_TASK_START` (R112). -/
def execCoreTaskStart (id : CoreId) (s : State) : Host.Outcome State Fault Refusal := .next (coreTaskStart s id)

/-- The watchdog expires: `IPEND`.WDOG, or at the second expiry the core stops, its task ends `TIMEOUT` and firmware restarts
the core (R113).
DEDUCED, unsafe: log entry 50. -/
def watchdogExpire (s : State) (b m : Nat) : State :=
  let c := coreOf s b m
  if !c.wdFirst then putCore s b m { c with ipend := setBit c.ipend 3 true, wdFirst := true, wdAt := tickNow s }
  else
    let s1 := match c.task with
      | some i => complete s i (st16 .timeout)
      | none => s
    putCore s1 b m { Core.reset with idle := true }

/-- `AWL_WATCHDOG_EXPIRY` (R113): the period of a running watchdog has passed, in ticks since its start. Ticks are told by their
numbers, so that an air-time step moves the expiry.
DESIGN CHOICE, unsafe: log entry 162. -/
def execAwlWatchdogExpiry (id : CoreId) (s : State) : Host.Outcome State Fault Refusal :=
  .next (
    let c := coreOf s id.bench.val id.core.val
    if fld c.wdog 23 0 = 0 ∨ tickNow s < c.wdAt + fld c.wdog 23 0 then s else watchdogExpire s id.bench.val id.core.val)

/-- `TICKCMP_REACHED` (R82). -/
def execTickcmpReached (id : CoreId) (s : State) : Host.Outcome State Fault Refusal :=
  .next (
    let c := coreOf s id.bench.val id.core.val
    if tickReached s c.tickcmp.toNat then putCore s id.bench.val id.core.val { c with ipend := setBit c.ipend 0 true } else s)

/-- A write to `CORE_IPI` (R108): bit 0 sets IPI. -/
def ipiWrite (s : State) (b m : Nat) (v : W32) : State :=
  let c := coreOf s b m
  if bit v 0 ∧ benchHere s.variant b then putCore s b m { c with ipend := setBit c.ipend 1 true } else s

/-- `CORE_IPI_WRITE` (R108). -/
def execCoreIpiWrite (id : CoreId) (v : W32) (s : State) : Host.Outcome State Fault Refusal :=
  .next (ipiWrite s id.bench.val id.core.val v)

/-- `WAITEV_COMPLETE` (R111). -/
def execWaitevComplete (id : CoreId) (s : State) : Host.Outcome State Fault Refusal :=
  .next (
    let b := id.bench.val
    let m := id.core.val
    let c := coreOf s b m
    if !c.waiting ∨ (pendingIrq s b m c).isNone then s
    else acceptIrq (putCore s b m { c with waiting := false }) b m)

end Sys2Proof.Machine
end

