-- ==== Sys2Proof/Machine/Fft.lean ====
section
/-! DEFINITION. The FFT engines: descriptors, symbols, transforms, block exponents and result records (R209–R219). -/

namespace Sys2Proof.Machine

/-- Word k of a descriptor, and the 64-bit address in words k and k + 1. -/
def dw (d : List W32) (k : Nat) : W32 := nth d k 0
def da (d : List W32) (k : Nat) : Nat := pair64 (dw d k) (dw d (k + 1))

def jobOf (s : State) (k : Nat) : Option EngJob := assoc s.jobs k
def putEng (s : State) (k : Nat) (j : Option EngJob) : State := { s with jobs := putKey s.jobs k j }

/-! ## Descriptors (R209–R211) -/

def fMode (d : List W32) : Nat := fld (dw d 0) 7 4
def fSize (d : List W32) : Nat := nth [128, 256, 512, 1024, 1536, 2048, 3072, 4096] (fld (dw d 0) 11 8) 0
def fIfmt (d : List W32) : Nat := fld (dw d 0) 14 12
def fOfmt (d : List W32) : Nat := fld (dw d 0) 17 15
def fMu (d : List W32) : Nat := fld (dw d 0) 21 20
def fNsym (d : List W32) : Nat := fld (dw d 1) 3 0
def fSym0 (d : List W32) : Nat := fld (dw d 1) 7 4
def fNsc (d : List W32) : Nat := fld (dw d 2) 15 0
def fKoff (d : List W32) : Int := sext 16 (fld (dw d 2) 31 16)
def fEcp (d : List W32) : Bool := bit (dw d 0) 19

/-- n with every factor p divided out, at most k times. -/
def divOut (p : Nat) : Nat → Nat → Nat
  | 0, n => n
  | k + 1, n => if n % p = 0 then divOut p k (n / p) else n

/-- 12 × 2^a × 3^b × 5^c, at most 3,300. -/
def dftLen (n : Nat) : Bool := decide (0 < n) && decide (n ≤ 3300) && decide (n % 12 = 0) && decide (divOut 5 12 (divOut 3 12 (divOut 2 12 (n / 12))) = 1)

/-- An address lies in HBM or in bench memory (R210, R222). -/
def inData (a : Nat) : Bool :=
  decide (a < 0x000800000000) || (decide (0x010000000000 ≤ a) && decide (a < 0x010010000000) && decide (a % 0x1000000 < 0x800000))

/-- An address that a descriptor may not hold: misaligned, remote, or outside bench memory and HBM. -/
def dataBad (a : Nat) : Bool := decide (a % 64 ≠ 0) || !inData a

/-- An address in an HBM range that the variant lacks (R11). -/
def dataAbsent (v : Variant) (a : Nat) : Bool := decide (a < 0x000800000000) && !stackHere v (a / 0x400000000)

/-- `BAD_PARAM` of R210. -/
def fftBad (param : Nat) (d : List W32) : Bool :=
  let w0 := dw d 0
  let m := fMode d
  let size := fld w0 11 8
  let bfp (x : Nat) := decide (x ≠ 0)
  let ofdm := decide (m < 2)
  let noSize := decide (m = 2) || decide (m = 3) || decide (m = 7)
  let nsc := fNsc d
  let x := sext 6 (fld (dw d 10) 5 0)
  decide (param % 64 ≠ 0) || decide (fld w0 3 0 ≠ 1) || decide (7 < m) || decide (7 < size) || (noSize && decide (size ≠ 0)) ||
  decide (4 < fIfmt d) || decide (4 < fOfmt d) || (fEcp d && decide (fMu d ≠ 2)) || ((bit w0 22 || bit w0 23) && decide (fMu d ≠ 0)) ||
  decide (fld w0 31 25 ≠ 0) || decide (fNsym d = 0) || decide (14 < fNsym d) || (decide (4 ≤ m) && decide (fSym0 d ≠ 0)) ||
  decide (2 ^ fMu d ≤ fld (dw d 1) 11 8) || decide (fld (dw d 1) 31 12 ≠ 0) ||
  (if m = 2 ∨ m = 3 then !dftLen nsc else if m = 7 then decide (nsc = 0) || decide (4096 < nsc) else decide (nsc = 0) || decide (fSize d < nsc)) ||
  ((bfp (fIfmt d) || bfp (fOfmt d)) && decide (nsc % 12 ≠ 0)) ||
  decide ((dw d 3).toNat % 64 ≠ 0) || decide ((dw d 8).toNat % 64 ≠ 0) || decide (fld (dw d 9) 31 27 ≠ 0) ||
  decide (x < -16) || decide (16 < x) || decide (fld (dw d 10) 31 6 ≠ 0) ||
  (if m = 4 then !([1, 2, 3, 4, 6, 8, 12, 16, 24, 32, 48, 64].contains (fld (dw d 11) 6 0)) || decide (fld (dw d 11) 15 7 ≠ 0)
   else decide (dw d 11 ≠ 0) || decide (dw d 12 ≠ 0)) ||
  decide (dw d 13 ≠ 0) || decide ((if fEcp d then 12 else 14) < fSym0 d + fNsym d) ||
  (bfp (fIfmt d) && (decide (m = 0) || decide (m = 4) || decide (m = 6))) || (bfp (fOfmt d) && (decide (m = 1) || decide (m = 6))) ||
  dataBad (da d 4) || dataBad (da d 6) || (decide (da d 14 ≠ 0) && dataBad (da d 14)) || (ofdm && decide (fSize d = 0))

/-- The check while the job is staged (R211). -/
def fftCheck (s : State) (b param : Nat) : State × Status × List W32 :=
  let (s1, st, d, p) := net32s s b param 16
  if st ≠ .ok then (s1, st, [])
  else if p then (s1, .integrity, d)
  else if fftBad param d then (s1, .badParam, d)
  else if dataAbsent s1.variant (da d 4) || dataAbsent s1.variant (da d 6) || (decide (da d 14 ≠ 0) && dataAbsent s1.variant (da d 14)) then (s1, .notPresent, d)
  else (s1, .ok, d)

/-- Engine i of bench b starts its next staged task; a faulty descriptor completes it at once (R211). -/
def fftStart (s : State) (b : Fin 16) (i : Fin 2) : State :=
  let k := 2 * b.val + i.val
  if (jobOf s k).isSome ∨ !awake s b.val then s
  else match beginTask s (.bench b ⟨9 + i.val, by omega⟩) with
    | none => s
    | some (s1, t, x) =>
      let (s2, st, d) := fftCheck s1 b.val x.param
      let s3 := wrF (wrF s2 R.fftStat b.val i.val 4 1 (fMode d)) R.fftStat b.val i.val 8 5 (fld (dw d 0) 11 8)
      if st = .ok then wrB (putEng s3 k (some { task := t, param := x.param, desc := d })) R.fftStat b.val i.val 0 true
      else complete (wrF s3 R.fftStat b.val i.val 31 16 (statNum st)) t (st16 st)

/-! ## Samples and formats (R159–R162, R215) -/

abbrev Cx := Int × Int

/-- Bytes of n elements in a format, without padding. -/
def fmtBytes (fmt n : Nat) : Nat := if fmt = 0 then 4 * n else (n + 11) / 12 * bfpS (fmt - 1)

/-- n elements from their bytes, and whether unpacking saturated. -/
def unpackEls (fmt n : Nat) (bs : List Byte) : List Cx × Bool :=
  if fmt = 0 then ((List.range n).map fun k => let v := ofBytes ((bs.drop (4 * k)).take 4); (sext 16 v, sext 16 (v / 65536)), false)
  else
    let w := bfpW (fmt - 1)
    let z := bfpS (fmt - 1)
    let all := (List.range ((n + 11) / 12)).flatMap fun p =>
      let blk := ((bs.drop (z * p)).take z).map fun b => b.toNat
      let m := mantissas w (blk.drop 1)
      let e := nth blk 0 0 % 16
      (List.range 12).map fun k => (satF 16 (nth m (2 * k) 0 * 2 ^ e), satF 16 (nth m (2 * k + 1) 0 * 2 ^ e))
    ((all.take n).map fun x => (x.1.1, x.2.1), (all.take n).any fun x => x.1.2 || x.2.2)

/-- Twelve elements packed as one PRB, and whether packing saturated (R162). -/
def packPrb (w z : Nat) (l : List Cx) : List Byte × Bool :=
  let vs := l.flatMap fun x => [x.1, x.2]
  let (e, cl) := packExp w vs
  let all := (vs.map fun v => wrapTo w (satS w (rneShift v e))).foldl (fun x v => 2 ^ w * x + v) 0
  (BitVec.ofNat 8 e :: (List.range (z - 1)).map fun j => BitVec.ofNat 8 (all / 2 ^ (8 * (z - 2 - j))), cl)

/-- A byte list padded with zeros to a multiple of n. -/
def padBytes (n : Nat) (l : List Byte) : List Byte := l ++ List.replicate ((n - l.length % n) % n) 0

/-- Elements in a format: the bytes of one symbol, BFP padded to 64 bytes. -/
def packEls (fmt : Nat) (l : List Cx) : List Byte × Bool :=
  if fmt = 0 then (l.flatMap fun x => bytesOf 4 (wrapTo 16 x.1 + 65536 * wrapTo 16 x.2), false)
  else
    let w := bfpW (fmt - 1)
    let z := bfpS (fmt - 1)
    let ps := (List.range ((l.length + 11) / 12)).map fun p =>
      let q := (l.drop (12 * p)).take 12
      packPrb w z (q ++ List.replicate (12 - q.length) (0, 0))
    (padBytes 64 (ps.flatMap fun x => x.1), ps.any fun x => x.2)

/-! ## Transforms (R209, R212, R213) -/

/-- 2^30 × (cos, sin) of 2πk / n. -/
def turn (k n : Nat) : Cx :=
  let f : Int := 2 ^ 100
  let r := 4 * k % n
  let x := pi100 * r / (2 * n)
  let p := cosSin x 15 1 f x
  let c := (f + p.1) / 2 ^ 70
  let s := (x + p.2) / 2 ^ 70
  match 4 * k / n % 4 with
  | 0 => (c, s)
  | 1 => (-s, c)
  | 2 => (-c, -s)
  | _ => (s, -c)

def cmulI (a b : Cx) : Cx := (a.1 * b.1 - a.2 * b.2, a.1 * b.2 + a.2 * b.1)
def conjI (a : Cx) : Cx := (a.1, -a.2)

/-- An unnormalised transform of n values, in units of 2^−30 of the input's (R209). -/
def dft (inv : Bool) (xs : List Cx) : List Cx :=
  let n := xs.length
  (List.range n).map fun k => (xs.zipIdx).foldl (fun acc x =>
    let t := turn (k * x.2 % n) n
    let p := cmulI x.1 (if inv then t else conjI t)
    (acc.1 + p.1, acc.2 + p.2)) (0, 0)

/-- Samples of the cyclic prefix of the symbol of index n in the subframe (R212). -/
def cpLen (size mu n : Nat) (ecp : Bool) : Nat :=
  if ecp then size / 4 else size * 9 / 128 + (if n % (7 * 2 ^ mu) = 0 then size * 2 ^ mu / 128 else 0)

/-- The symbol's place in the subframe, for symbol l of slot SLOTSF. -/
def symIndex (d : List W32) (l : Nat) : Nat := (if fEcp d then 12 else 14) * fld (dw d 1) 11 8 + l

/-- t_start + N_CP of symbol l in Tc (R213). -/
def phaseTime (d : List W32) (l : Nat) : Nat :=
  let mu := fMu d
  if fEcp d then symIndex d l * (163840 / 2 ^ mu) + 32768 / 2 ^ mu
  else
    let n := symIndex d l
    let per := 7 * 2 ^ mu
    n / per * tcHalf + symStartHalf mu (n % per) + 9216 / 2 ^ mu + (if n % per = 0 then 1024 else 0)

/-- φ_l in units of 2π / 2^32 (R213). -/
def phaseWord (d : List W32) (l : Nat) : Nat := 2 ^ 32 * (fld (dw d 9) 26 0 * phaseTime d l) / (480 * 4096) % 2 ^ 32

/-- A value turned by an angle in units of 2π / 2^32, by the table and rounding of R169. -/
def turnBy (th : Nat) (neg : Bool) (x : Cx) : Cx :=
  let r := rotor ((th + 2 ^ 17) % 2 ^ 32 / 2 ^ 18)
  let y := cmulI x (if neg then conjI r else r)
  (rneShift y.1 15, rneShift y.2 15)

/-- A value turned by the phase term; with MU 0 and no frequency PHC does nothing (R213). -/
def turnPhase (d : List W32) (l : Nat) (neg : Bool) (x : Cx) : Cx :=
  if !bit (dw d 0) 18 ∨ (fMu d = 0 ∧ fld (dw d 9) 26 0 = 0) then x
  else turnBy (phaseWord d l) neg x

/-- The FFT bin of RE n; with DCSKIP the bins from DC upward, the lower half of the transform, move up by one (R212).
DEDUCED, safe: log entry 136. -/
def binOf (d : List W32) (n : Nat) : Nat :=
  let k := ((fKoff d + n) % (fSize d : Int)).toNat
  if bit (dw d 0) 23 ∧ 2 * k < fSize d then k + 1 else k

/-- Time samples turned by half a subcarrier, upward or downward (R212). -/
def halfShift (d : List W32) (up : Bool) (l : List Cx) : List Cx :=
  if !bit (dw d 0) 22 then l
  else (l.zipIdx).map fun x =>
    let t := turn x.2 (2 * l.length)
    let y := cmulI x.1 (if up then t else conjI t)
    (rneShift y.1 30, rneShift y.2 30)

def scale30 (x : Cx) : Cx := (2 ^ 30 * x.1, 2 ^ 30 * x.2)

/-- The gain of the PRACH filter at bin k of the transform of its size × dec inputs (R216): 1 in the passband up to 0.4 / dec,
at most −70 dB in the stopband from 0.6 / dec, between them what Config gives, at most 1. -/
def prachGain (dec size k : Nat) : Cx :=
  let m := size * dec
  let j := Nat.min k (m - k)
  let g := Config.prachGain dec size k
  let within (b : Int) : Cx := (clampI (-b) b g.1, clampI (-b) b g.2)
  if 10 * j ≤ 4 * size then (2 ^ 30, 0) else if 6 * size ≤ 10 * j then within 240095 else within 759250124

/-- One PRACH repetition (R216): the input turned by PHINC per sample, filtered and decimated, transformed, its bins from KOFF.
The filter acts on the repetition as a period; what decimation folds onto a bin is summed there.
DESIGN CHOICE, unsafe: log entry 71. -/
def prachValues (d : List W32) (xs : List Cx) : List Cx :=
  let dec := fld (dw d 11) 6 0
  let size := fSize d
  let ys := dft false ((xs.zipIdx).map fun x =>
    let y := turnBy ((dw d 12).toNat * x.2 % 2 ^ 32) false x.1
    (satS 16 y.1, satS 16 y.2))
  (List.range (fNsc d)).map fun n =>
    let y := (List.range dec).foldl (fun (acc : Cx) m =>
      let k := binOf d n % size + m * size
      let p := cmulI (prachGain dec size k) (nth ys k (0, 0))
      (acc.1 + p.1, acc.2 + p.2)) (0, 0)
    (y.1 / (2 ^ 30 * dec), y.2 / (2 ^ 30 * dec))

/-- The values of symbol s of a job from its input elements, in units of 2^−30, and whether the engine computes them with an
error that the manual leaves open.
DESIGN CHOICE, unsafe: log entry 71. -/
def fftValues (d : List W32) (s : Nat) (xs : List Cx) : List Cx × Bool :=
  let l := fSym0 d + s
  let n := fNsc d
  match fMode d with
  | 0 =>
    let ys := dft false (halfShift d false xs)
    ((List.range n).map fun k => turnPhase d l false (nth ys (binOf d k) (0, 0)), true)
  | 1 =>
    let spec := (xs.zipIdx).foldl (fun (a : List Cx) x => setNth a (binOf d x.2) (turnPhase d l true x.1)) (List.replicate (fSize d) (0, 0))
    (halfShift d true (dft true spec), true)
  | 2 => (dft false xs, true)
  | 3 => (dft true xs, true)
  | 4 => (prachValues d xs, true)
  | 5 => (dft false xs, true)
  | 6 => (dft true xs, true)
  | _ => (xs.map scale30, false)

/-- A squared error t is at least 75 dB below a power p (R214). -/
def below75 (t p : Nat) : Bool := decide (t ^ 2 * 10 ^ 15 ≤ p ^ 2)

def cxPower (x : Cx) : Nat := x.1.natAbs ^ 2 + x.2.natAbs ^ 2

/-! ## Block exponents (R214) -/

/-- A value scaled by 2^−X, rounded. -/
def scaled (x : Int) (v : Int) : Int := rneShift v (30 + x).toNat

/-- The exponent of AUTO: the smallest that fits. -/
def autoExp (l : List Cx) : Int :=
  if l.all fun v => decide (v = (0, 0)) then 0
  else (((List.range 33).map fun k => (k : Int) - 16).find? fun x =>
    l.all fun v => decide (satS 16 (scaled x v.1) = scaled x v.1) && decide (satS 16 (scaled x v.2) = scaled x v.2)).getD 16

/-- The ci16 elements of a symbol, its exponent, and whether one saturated. -/
def scaleSym (d : List W32) (l : List Cx) : List Cx × Int × Bool :=
  let x := if bit (dw d 0) 24 then sext 6 (fld (dw d 10) 5 0) else autoExp l
  let ys := l.map fun v => (satF 16 (scaled x v.1), satF 16 (scaled x v.2))
  (ys.map fun y => (y.1.1, y.2.1), x, ys.any fun y => y.1.2 || y.2.2)

/-- The squared error of a symbol as it is written, in the units of its exact values. -/
def outError (exact : List Cx) (y : List Cx × Int × Bool) : Nat :=
  listSum ((exact.zip y.1).map fun v =>
    let u : Int := 2 ^ (30 + y.2.1).toNat
    cxPower (v.2.1 * u - v.1.1, v.2.2 * u - v.1.2))

/-- A symbol scaled and rounded as the engine computes it (R214): from its exact values, or from values with an error per component
that is free, as far as what is written stays within −75 dB of the symbol's power.
DESIGN CHOICE, unsafe: log entry 71. -/
def scaleFree (ctr : Nat) (d : List W32) (v : List Cx × Bool) : List Cx × Int × Bool :=
  let p := listSum (v.1.map cxPower)
  let off := ((v.1.zipIdx).foldl (fun (acc : List Cx × Nat) x =>
    let e : Cx := ((Config.freeWord (ctr + 2 * x.2)).toInt, (Config.freeWord (ctr + 2 * x.2 + 1)).toInt)
    let t := acc.2 + cxPower e
    if below75 t p then (acc.1 ++ [(x.1.1 + e.1, x.1.2 + e.2)], t) else (acc.1 ++ [x.1], acc.2)) ([], 0)).1
  let y := scaleSym d off
  if v.2 && below75 (outError v.1 y) p then y else scaleSym d v.1

/-! ## Jobs -/

/-- Where symbol s is read, and how many elements. -/
def fftInput (d : List W32) (s : Nat) : Nat × Nat :=
  let base := da d 4 + s * (dw d 3).toNat
  let size := fSize d
  match fMode d with
  | 0 => (base + 4 * cpLen size (fMu d) (symIndex d (fSym0 d + s)) (fEcp d), size)
  | 4 => (base + (if s = 0 then 4 * fld (dw d 11) 31 16 else 0), size * fld (dw d 11) 6 0)
  | 5 => (base, size)
  | 6 => (base, size)
  | _ => (base, fNsc d)

/-- What a job has done so far: symbols written, saturated, poisoned, exponents, the status that stopped it. -/
structure FftRun where
  st   : State
  n    : Nat := 0
  sat  : Nat := 0
  bad  : Nat := 0
  exps : List Nat := []
  stop : Option Status := none

/-- The bytes that symbol s writes, from its scaled elements: a transmitted symbol has its prefix in front. -/
def symBytes (d : List W32) (s : Nat) (ys : List Cx) : List Byte × Bool :=
  let cp := if fMode d = 1 then cpLen (fSize d) (fMu d) (symIndex d (fSym0 d + s)) (fEcp d) else 0
  packEls (fOfmt d) (ys.drop (ys.length - cp) ++ ys)

/-- One symbol; `err` is a fabric error received in place of its data. -/
def fftSymbol (b : Nat) (d : List W32) (err : Option Status) (r : FftRun) (s : Nat) : FftRun :=
  if r.stop.isSome then r
  else match err with
    | some e => { r with st := if e = .timeout then (let (a, n) := fftInput d s; netGiveUp r.st b a (fmtBytes (fIfmt d) n)) else r.st, stop := some e }
    | none =>
      let (a, n) := fftInput d s
      let (s1, st, bs, p) := netBytes r.st b a (fmtBytes (fIfmt d) n)
      if st ≠ .ok then { r with st := s1, stop := some st }
      else
        let (xs, sat1) := unpackEls (fIfmt d) n bs
        let vs := fftValues d s xs
        let (ys, x, sat2) := scaleFree s1.freeCtr d vs
        let (out, sat3) := symBytes d s ys
        let o := da d 6 + s * (dw d 8).toNat
        let s2 := { s1 with freeCtr := s1.freeCtr + 2 * vs.1.length }
        let (s3, wst) := if p then netWrite s2 b o (List.replicate ((out.length + 7) / 8) poisonW) else netStore s2 b o out
        if wst ≠ .ok then { r with st := s3, stop := some wst }
        else { st := s3, n := r.n + 1, sat := r.sat + b2n (!p && (sat1 || sat2 || sat3)), bad := r.bad + b2n p,
               exps := r.exps ++ [if p then 0 else wrapTo 8 x] }

/-- A job in one of the modes ends (R214, R218, R219).
DESIGN CHOICE, unsafe: log entry 72. -/
def fftComplete (s : State) (b i mode : Nat) (err : Option (Fin 14 × Status)) : State :=
  match jobOf s (2 * b + i) with
  | none => s
  | some j =>
    let d := j.desc
    if fMode d ≠ mode ∨ !goesOn s b then s
    else
      let r := (List.range (fNsym d)).foldl (fun r k => fftSymbol b d (err.bind fun e => if e.1.val = k then some e.2 else none) r k) { st := s }
      let (s1, xst) := if da d 14 = 0 then (r.st, Status.ok)
        else netStore r.st b (da d 14) (r.exps.map (BitVec.ofNat 8 ·) ++ List.replicate (64 - r.exps.length) 0)
      let st := match r.stop with
        | some e => e
        | none => if xst ≠ .ok then xst else if r.bad ≠ 0 then .partialDone else .ok
      let (s2, _) := netStore s1 b (j.param + 64) (wordBytes [w32 (statNum st), w32 r.n, w32 r.sat, w32 r.bad, 0, 0, 0, 0])
      let s3 := bump (bump s2 R.fftSymCount b i r.n) R.fftPoisonCount b i r.bad
      let s4 := wrF (wrB s3 R.fftStat b i 0 false) R.fftStat b i 31 16 (statNum st)
      complete (putEng s4 (2 * b + i) none) j.task (st16 st)

/-- A status that the fabric may answer a data access with (R211). -/
def fabricErr (e : Option (Fin 14 × Status)) : Option (Fin 14 × Status) :=
  e.bind fun x => if x.2 = .timeout ∨ x.2 = .fenced ∨ x.2 = .notPresent then some x else none

/-- `FFT_OFDM_RX` (R212): the job of engine i of bench b ends; `err` names a symbol whose data access the fabric answered
with an error. -/
def execFftOfdmRx (b : Fin 16) (i : Fin 2) (err : Option (Fin 14 × Status)) (s : State) : Host.Outcome State Fault Refusal :=
  .next (settled s (fftComplete s b.val i.val 0 (fabricErr err)))

/-- `FFT_OFDM_TX` (R212). -/
def execFftOfdmTx (b : Fin 16) (i : Fin 2) (err : Option (Fin 14 × Status)) (s : State) : Host.Outcome State Fault Refusal :=
  .next (settled s (fftComplete s b.val i.val 1 (fabricErr err)))

/-- `FFT_DFT` (R209). -/
def execFftDft (b : Fin 16) (i : Fin 2) (err : Option (Fin 14 × Status)) (s : State) : Host.Outcome State Fault Refusal :=
  .next (settled s (fftComplete s b.val i.val 2 (fabricErr err)))

/-- `FFT_IDFT` (R209). -/
def execFftIdft (b : Fin 16) (i : Fin 2) (err : Option (Fin 14 × Status)) (s : State) : Host.Outcome State Fault Refusal :=
  .next (settled s (fftComplete s b.val i.val 3 (fabricErr err)))

/-- `FFT_PRACH` (R216): the filter's taps, and with them the bins, are the manual's open values. -/
def execFftPrach (b : Fin 16) (i : Fin 2) (err : Option (Fin 14 × Status)) (s : State) : Host.Outcome State Fault Refusal :=
  .next (settled s (fftComplete s b.val i.val 4 (fabricErr err)))

/-- `FFT_RAW` (R209). -/
def execFftRaw (b : Fin 16) (i : Fin 2) (err : Option (Fin 14 × Status)) (s : State) : Host.Outcome State Fault Refusal :=
  .next (settled s (fftComplete s b.val i.val 5 (fabricErr err)))

/-- `IFFT_RAW` (R209). -/
def execIfftRaw (b : Fin 16) (i : Fin 2) (err : Option (Fin 14 × Status)) (s : State) : Host.Outcome State Fault Refusal :=
  .next (settled s (fftComplete s b.val i.val 6 (fabricErr err)))

/-- `FFT_CONVERT` (R209). -/
def execFftConvert (b : Fin 16) (i : Fin 2) (err : Option (Fin 14 × Status)) (s : State) : Host.Outcome State Fault Refusal :=
  .next (settled s (fftComplete s b.val i.val 7 (fabricErr err)))

end Sys2Proof.Machine
end

