-- ==== Sys2Proof/Machine/CodeBook.lean ====
section
/-! DEFINITION. The procedures of the 3GPP documents that the coding pool covers, as functions of bits and LLRs: LDPC parity and
min-sum, polar coding and list decoding, turbo coding and max-log-MAP (R221, R225–R232). The documents' tables are Config's.
PRESUMED, unsafe: log entry 135. -/

namespace Sys2Proof.Machine

/-! ## CRC (R225, R229) -/

/-- The check bits of a message by a generator of R165, and whether a message with its check bits is in order. -/
def crcTail (gen : Nat) (m : List Bool) : List Bool :=
  let (l, g) := crcGen gen
  let r := crcFeed l g m 0
  (List.range l).map fun k => r.testBit (l - 1 - k)
def crcHolds (gen : Nat) (m : List Bool) : Bool :=
  let (l, g) := crcGen gen
  decide (crcFeed l g m 0 = 0) && decide (l ≤ m.length)

def xorBits (a b : List Bool) : List Bool := List.zipWith xor a b

/-! ## LDPC (TS 38.212 5.3.2; R225–R228) -/

def ldKb (bg2 : Bool) : Nat := if bg2 then 10 else 22
def ldNb (bg2 : Bool) : Nat := if bg2 then 50 else 66

/-- A block of zc bits shifted by v: bit z is bit z + v of the block. -/
def shiftBlk (zc v : Nat) (l : List Bool) : List Bool := (List.range zc).map fun z => nth l ((z + v) % zc) false

/-- The sum of the blocks of row r, over the columns before n, of a word. -/
def ldRowSum (bg2 : Bool) (zc r n : Nat) (w : List Bool) : List Bool :=
  (List.range n).foldl (fun acc c => match Config.ldpcShift bg2 zc r c with
    | some v => xorBits acc (shiftBlk zc v ((w.drop (c * zc)).take zc))
    | none => acc) (List.replicate zc false)

/-- The shift that the sum of the four core rows leaves on the first parity block: the one that occurs an odd number of times. -/
def ldCoreShift (bg2 : Bool) (zc : Nat) : Nat :=
  let vs := (List.range 4).filterMap fun r => (Config.ldpcShift bg2 zc r (ldKb bg2)).map fun v => v % zc
  (vs.find? fun v => decide ((vs.filter fun x => decide (x = v)).length % 2 = 1)).getD 0

/-- The parity bits of the information bits: the four core blocks, then a block per further row. -/
def ldpcParity (bg2 : Bool) (zc : Nat) (info : List Bool) : List Bool :=
  let kb := ldKb bg2
  let l (r : Nat) := ldRowSum bg2 zc r kb info
  let total := (List.range 4).foldl (fun a r => xorBits a (l r)) (List.replicate zc false)
  let p0 := shiftBlk zc (zc - ldCoreShift bg2 zc) total
  let at0 (r : Nat) : List Bool := match Config.ldpcShift bg2 zc r kb with
    | some v => shiftBlk zc v p0
    | none => List.replicate zc false
  let p1 := xorBits (l 0) (at0 0)
  let p2 := xorBits (xorBits (l 1) (at0 1)) p1
  let p3 := xorBits (xorBits (l 2) (at0 2)) p2
  let core := info ++ p0 ++ p1 ++ p2 ++ p3
  (p0 ++ p1 ++ p2 ++ p3) ++ (List.range (ldNb bg2 - kb - 2)).flatMap fun k => ldRowSum bg2 zc (4 + k) (kb + 4) core

/-- The bits that check z of row r covers. -/
def ldEdges (bg2 : Bool) (zc r z : Nat) : List Nat :=
  (List.range (ldNb bg2 + 2)).filterMap fun c => (Config.ldpcShift bg2 zc r c).map fun v => c * zc + (z + v) % zc

/-- Checks of the first m rows that a word, its first two columns included, does not meet. -/
def ldpcUnsat (bg2 : Bool) (zc m : Nat) (w : List Bool) : Nat :=
  listSum ((List.range m).map fun r => ((List.range zc).filter fun z =>
    (ldEdges bg2 zc r z).foldl (fun (a : Bool) b => xor a (nth w b false)) false).length)

/-- A check message from 16 times its exact magnitude: a whole number stays, another is rounded either way (R226). -/
def ldMsg (x : Nat) : Nat := x / 16 + if x % 16 = 0 then 0 else Config.ldMessage x % 2

/-- One check of layered offset min-sum (R226): the messages it had sent are taken off, new ones of magnitude
α × max(|m| − OFFSET, 0) are sent. `known` names the fillers, which stay as they are. -/
def ldCheck (off al : Nat) (known : Nat → Bool) (es : List Nat) (x : List Int × List Int) : List Int × List Int :=
  let ms := (es.zipIdx).map fun e => nth x.1 e.1 0 - nth x.2 e.2 0
  let rs := (List.range es.length).map fun k =>
    let o := ms.eraseIdx k
    let v : Int := ldMsg (al * ((o.map Int.natAbs).foldl Nat.min (2 ^ 20) - off))
    if (o.filter fun m => decide (m < 0)).length % 2 = 1 then -v else v
  (((es.zip (ms.zip rs)).foldl (fun l e => if known e.1 then l else setNth l e.1 (e.2.1 + e.2.2)) x.1), rs)

/-- One iteration over the first m layers; the messages by check. -/
def ldIterate (bg2 : Bool) (zc m off al : Nat) (known : Nat → Bool) (x : List Int × List (List Int)) : List Int × List (List Int) :=
  (List.range (m * zc)).foldl (fun a k =>
    let y := ldCheck off al known (ldEdges bg2 zc (k / zc) (k % zc)) (a.1, nth a.2 k [])
    (y.1, setNth a.2 k y.2)) x

def hardBits (l : List Int) : List Bool := l.map fun v => decide (v < 0)

/-- Iterations until a stop is met, at most n: the hard decisions, and how many were run. -/
def ldRun (step : List Int × List (List Int) → List Int × List (List Int)) (stop : List Bool → Bool) :
    Nat → Nat → List Int × List (List Int) → List Bool × Nat
  | 0, it, x => (hardBits x.1, it)
  | n + 1, it, x =>
    let y := step x
    if stop (hardBits y.1) then (hardBits y.1, it + 1) else ldRun step stop n (it + 1) y

/-! ## Polar coding (TS 38.212 5.3.1, 5.4.1, 6.3.1, 7.1.4, 7.3.2; R229, R230) -/

/-- What a polar code depends on: its channel (0 DCI, 1 PBCH, 2 UCI), A and E. -/
structure Polar where
  chan : Nat
  a : Nat
  e : Nat

def Polar.gen (p : Polar) : Nat := if p.chan < 2 then 2 else if p.a < 20 then 5 else 4
def Polar.crcLen (p : Polar) : Nat := (crcGen p.gen).1
def Polar.k (p : Polar) : Nat := p.a + p.crcLen
def Polar.npc (p : Polar) : Nat := if p.chan = 2 ∧ p.a < 20 then 3 else 0

/-- ⌈log2 n⌉. -/
def ceilLog (n : Nat) : Nat := if n ≤ 1 then 0 else Nat.log2 (n - 1) + 1

/-- log2 of the mother code length. -/
def Polar.logN (p : Polar) : Nat :=
  let c := ceilLog p.e
  let n1 := if 8 * p.e ≤ 9 * 2 ^ (c - 1) ∧ 16 * p.k < 9 * p.e then c - 1 else c
  Nat.max 5 (Nat.min (Nat.min n1 (ceilLog (8 * p.k))) (if p.chan = 2 then 10 else 9))

def Polar.n (p : Polar) : Nat := 2 ^ p.logN

/-- Where bit n behind the sub-block interleaver comes from. -/
def Polar.sub (p : Polar) (n : Nat) : Nat := Config.polarSub (32 * n / p.n) * (p.n / 32) + n % (p.n / 32)

/-- Shortened rather than punctured where E < N. -/
def Polar.short (p : Polar) : Bool := decide (7 * p.e < 16 * p.k)

/-- Bits that rate matching freezes. -/
def Polar.preFrozen (p : Polar) : List Nat :=
  if p.n ≤ p.e then []
  else if p.short then (List.range (p.n - p.e)).map fun i => p.sub (p.e + i)
  else (List.range (p.n - p.e)).map p.sub ++
    List.range (if 3 * p.n ≤ 4 * p.e then cdiv (3 * p.n - 2 * p.e) 4 else cdiv (9 * p.n - 4 * p.e) 16)

/-- The bit positions that carry information or parity checks, the most reliable first. -/
def Polar.info (p : Polar) : List Nat :=
  ((Config.polarOrder.filter fun x => decide (x < p.n) && !p.preFrozen.contains x).reverse).take (p.k + p.npc)

/-- Weight of a row of the generator: 2 to the number of ones of its index. -/
def rowWeight (x : Nat) : Nat := popcount (BitVec.ofNat 64 x)

/-- The positions of the parity-check bits. -/
def Polar.pcs (p : Polar) : List Nat :=
  if p.npc = 0 then []
  else
    let wm := if p.k + 192 < p.e + 3 then 1 else 0
    let strong := p.info.take p.k
    let least := (strong.map rowWeight).foldl Nat.min 64
    (p.info.drop (p.k + wm)) ++ (if wm = 1 then (strong.filter fun x => decide (rowWeight x = least)).take 1 else [])

/-- The five-bit register of the parity checks after some bits, at its head the value of a check bit that comes next. -/
def Polar.check (p : Polar) (us : List Bool) : List Bool :=
  let turn (y : List Bool) : List Bool := y.drop 1 ++ y.take 1
  turn ((us.zipIdx).foldl (fun y x =>
    let z := turn y
    if p.info.contains x.2 && !p.pcs.contains x.2 then xor (nth z 0 false) x.1 :: z.drop 1 else z) (List.replicate 5 false))

/-- The input of the polar transform: position by position a payload bit, a parity check or a frozen 0. -/
def Polar.place (p : Polar) (c : List Bool) : List Bool :=
  ((List.range p.n).foldl (fun (a : List Bool × List Bool) x =>
    if p.pcs.contains x then (a.1 ++ [nth (p.check a.1) 0 false], a.2)
    else if p.info.contains x then (a.1 ++ [nth a.2 0 false], a.2.drop 1)
    else (a.1 ++ [false], a.2)) ([], c)).1

/-- The polar transform of 2^k bits. -/
def polarTurn : Nat → List Bool → List Bool
  | 0, u => u
  | k + 1, u =>
    let x := polarTurn k (u.take (2 ^ k))
    let y := polarTurn k (u.drop (2 ^ k))
    xorBits x y ++ y

/-- The order of the information bits behind their interleaver (DCI and PBCH). -/
def Polar.inter (p : Polar) : List Nat :=
  if p.chan = 2 then List.range p.k
  else ((List.range 164).map Config.polarInter).filterMap fun x => if 164 - p.k ≤ x then some (x - (164 - p.k)) else none

/-- The RNTI's mask on the check bits of DCI. -/
def Polar.mask (p : Polar) (rnti : Nat) (c : List Bool) : List Bool :=
  if p.chan ≠ 0 then c else (c.zipIdx).map fun x => xor x.1 (decide (p.a + 8 ≤ x.2) && rnti.testBit (15 - (x.2 - (p.a + 8))))

/-- Leading ones of the message of DCI. -/
def Polar.ones (p : Polar) : List Bool := if p.chan = 0 then List.replicate 24 true else []

/-- The place before the channel interleaver of each of the E bits behind it (UCI): a triangle filled by rows, read by columns. -/
def Polar.triangle (p : Polar) : List Nat :=
  if p.chan ≠ 2 then List.range p.e
  else
    let t := ((List.range (p.e + 1)).find? fun t => decide (2 * p.e ≤ t * (t + 1))).getD 0
    (List.range t).flatMap fun j => ((List.range (t - j)).map fun i => i * t - i * (i - 1) / 2 + j).filter fun x => decide (x < p.e)

/-- The position behind the sub-block interleaver of rate-matched bit k. -/
def Polar.pick (p : Polar) (k : Nat) : Nat := if p.n ≤ p.e then k % p.n else if p.short then k else k + p.n - p.e

/-- The E bits of a payload. -/
def Polar.encode (p : Polar) (rnti : Nat) (m : List Bool) : List Bool :=
  let c := p.mask rnti (m ++ crcTail p.gen (p.ones ++ m))
  let d := polarTurn p.logN (p.place (p.inter.map fun x => nth c x false))
  p.triangle.map fun k => nth d (p.sub (p.pick k)) false

/-- The LLRs of the mother code from the E received. -/
def Polar.gather (p : Polar) (ls : List Int) : List Int :=
  let base : List Int := List.replicate p.n 0
  let cut := if p.short ∧ p.e < p.n then (List.range (p.n - p.e)).foldl (fun l i => setNth l (p.sub (p.e + i)) (2 ^ 20 : Int)) base else base
  (p.triangle.zip ls).foldl (fun l x => let k := p.sub (p.pick x.1); setNth l k (nth l k 0 + x.2)) cut

/-- The LLR of bit i of 2^k, given the bits before it. -/
def polarLlr : Nat → List Int → List Bool → Nat → Int
  | 0, l, _, _ => nth l 0 0
  | k + 1, l, us, i =>
    let h := 2 ^ k
    let ab := (l.take h).zip (l.drop h)
    if i < h then polarLlr k (ab.map fun x => Config.polarCheck x.1 x.2) us i
    else
      let v := polarTurn k (us.take h)
      polarLlr k ((ab.zip v).map fun x => (if x.2 then -x.1.1 else x.1.1) + x.1.2) (us.drop h) (i - h)

/-- A path of the list decoder: its bits and its metric, the less the likelier. -/
abbrev PolarPath := List Bool × Nat

/-- A path goes on with a bit. -/
def pathStep (lam : Int) (x : PolarPath) (u : Bool) : PolarPath := (x.1 ++ [u], x.2 + if decide (lam < 0) = u then 0 else lam.natAbs)

/-- Successive cancellation with a list of eight: the paths, the likeliest first (R230). -/
def Polar.paths (p : Polar) (l : List Int) : List PolarPath :=
  (List.range p.n).foldl (fun xs i =>
    let next := xs.flatMap fun x =>
      let lam := polarLlr p.logN l x.1 i
      if p.pcs.contains i then [pathStep lam x (nth (p.check x.1) 0 false)]
      else if p.info.contains i then [pathStep lam x false, pathStep lam x true]
      else [pathStep lam x false]
    (sortBy (fun x y => decide (x.2 < y.2)) next).take 8) [([], 0)]

/-- The payload and check bits of a path. -/
def Polar.word (p : Polar) (us : List Bool) : List Bool :=
  let c := (List.range p.n).filterMap fun i => if p.info.contains i && !p.pcs.contains i then some (nth us i false) else none
  (p.inter.zip c).foldl (fun w x => setNth w x.1 x.2) (List.replicate p.k false)

/-- The CRC of a path's word passes. -/
def Polar.passes (p : Polar) (rnti : Nat) (c : List Bool) : Bool := crcHolds p.gen (p.ones ++ p.mask rnti c)

/-- The payload that the decoder chooses, whether its CRC passes, its rank and its metric. -/
def Polar.decode (p : Polar) (rnti : Nat) (ls : List Int) : List Bool × Bool × Nat × Nat :=
  let ws := ((p.paths (p.gather ls)).map fun x => (p.word x.1, x.2)).zipIdx
  match ws.find? fun x => p.passes rnti x.1.1 with
  | some x => (x.1.1.take p.a, true, x.2, x.1.2)
  | none => match ws with
    | x :: _ => (x.1.1.take p.a, false, 0, x.1.2)
    | [] => ([], false, 0, 0)

/-! ## Turbo (TS 36.212 5.1.3.2; R231, R232) -/

/-- A constituent encoder: parity bits of an input, and the state after it (shift register, newest first). -/
def rscRun : List Bool → Bool × Bool × Bool → List Bool × (Bool × Bool × Bool)
  | [], x => ([], x)
  | c :: cs, (a, b, e) =>
    let f := xor c (xor b e)
    let z := xor f (xor a e)
    let (zs, y) := rscRun cs (f, a, b)
    (z :: zs, y)

/-- Three tail steps: systematic and parity bits. -/
def rscTail : Nat → Bool × Bool × Bool → List (Bool × Bool)
  | 0, _ => []
  | n + 1, (a, b, e) => (xor b e, xor a e) :: rscTail n (false, a, b)

/-- The interleaver: where its bit n comes from. -/
def turboPi (k n : Nat) : Nat := ((Config.turboQpp k).1 * n + (Config.turboQpp k).2 * n * n) % k

/-- The three streams of D = K + 4 bits. -/
def turboEncode (c : List Bool) : List (List Bool) :=
  let k := c.length
  let c' := (List.range k).map fun n => nth c (turboPi k n) false
  let z0 := (false, false, false)
  let (z, x) := rscRun c z0
  let (z', x') := rscRun c' z0
  let t := rscTail 3 x
  let u := rscTail 3 x'
  let g (l : List (Bool × Bool)) (n : Nat) : Bool × Bool := nth l n (false, false)
  [c ++ [(g t 0).1, (g t 1).2, (g u 0).1, (g u 1).2], z ++ [(g t 0).2, (g t 2).1, (g u 0).2, (g u 2).1],
   z' ++ [(g t 1).1, (g t 2).2, (g u 1).1, (g u 2).2]]

/-- A trellis edge from state st (newest bit in bit 0) with an input bit: the next state and the parity bit. -/
def trellis (st : Nat) (u : Bool) : Nat × Bool :=
  let f := xor u (xor (st.testBit 1) (st.testBit 2))
  (b2n f + 2 * (st % 4), xor f (xor (st.testBit 0) (st.testBit 2)))

/-- The weight of an edge: LLRs favour 0. -/
def edgeWeight (x : Int × Int) (u p : Bool) : Int := (if u then -x.1 else x.1) + if p then -x.2 else x.2

def maxInt (l : List Int) : Int := l.foldl max (-(2 ^ 40))

/-- State weights: state 0 only. -/
def onlyZero : List Int := 0 :: List.replicate 7 (-(2 ^ 40) : Int)

/-- Forward weights before each step. -/
def mapForward : List (Int × Int) → List Int → List (List Int)
  | [], _ => []
  | x :: r, a => a :: mapForward r ((List.range 8).map fun t => maxInt ((List.range 8).flatMap fun st => [false, true].filterMap fun u =>
      if (trellis st u).1 = t then some (nth a st 0 + edgeWeight x u (trellis st u).2) else none))

/-- Backward weights after each step, and before the first. -/
def mapBackward : List (Int × Int) → List Int × List (List Int)
  | [] => (onlyZero, [])
  | x :: r =>
    let (b, l) := mapBackward r
    ((List.range 8).map fun st => maxInt ([false, true].map fun u => edgeWeight x u (trellis st u).2 + nth b (trellis st u).1 0), b :: l)

/-- Max-log-MAP of one constituent code: the LLR of each input bit from systematic (with a-priori) and parity LLRs, the tail's
three steps last. -/
def maxLog (xs : List (Int × Int)) : List Int :=
  let f := mapForward xs onlyZero
  let b := (mapBackward xs).2
  (xs.zip (f.zip b)).map fun e =>
    let best (u : Bool) : Int := maxInt ((List.range 8).map fun st => nth e.2.1 st 0 + edgeWeight e.1 u (trellis st u).2 + nth e.2.2 (trellis st u).1 0)
    (best false - best true) / 2

/-- A scaled extrinsic LLR from 16 times its exact value: a whole number stays, another is rounded either way (R232). -/
def turboExt (x : Int) : Int := x / 16 + if x % 16 = 0 then 0 else (Config.turboExtrinsic x % 2 : Nat)

/-- One full iteration from the a-priori LLRs of the first code: the hard decisions and the next a-priori LLRs. -/
def turboIterate (k f scale : Nat) (d0 d1 d2 apr : List Int) : List Bool × List Int :=
  let g (l : List Int) (n : Nat) : Int := nth l n 0
  let sys := (List.range k).map fun n => if n < f then (2 ^ 20 : Int) else g d0 n
  let siso (s a p : List Int) (tail : List (Int × Int)) : List Int :=
    (maxLog (((s.zip a).zip p).map (fun x => (x.1.1 + x.1.2, x.2)) ++ tail)).take k
  let ext (t s a : List Int) : List Int := (t.zip (s.zip a)).map fun x => turboExt (scale * (x.1 - x.2.1 - x.2.2))
  let swap (l : List Int) : List Int := (List.range k).map fun n => g l (turboPi k n)
  let back (l : List Int) : List Int := (l.zipIdx).foldl (fun a x => setNth a (turboPi k x.2) x.1) (List.replicate k 0)
  let t1 := siso sys apr (d1.take k) [(g d0 k, g d1 k), (g d2 k, g d0 (k + 1)), (g d1 (k + 1), g d2 (k + 1))]
  let a2 := swap (ext t1 sys apr)
  let t2 := siso (swap sys) a2 (d2.take k) [(g d0 (k + 2), g d1 (k + 2)), (g d2 (k + 2), g d0 (k + 3)), (g d1 (k + 3), g d2 (k + 3))]
  (hardBits (back t2), back (ext t2 (swap sys) a2))

/-- Iterations until a stop is met, at most n: the decisions, and how many were run. -/
def turboRun (step : List Int → List Bool × List Int) (stop : List Bool → Bool) : Nat → Nat → List Int → List Bool → List Bool × Nat
  | 0, it, _, w => (w, it)
  | n + 1, it, apr, _ =>
    let r := step apr
    if stop r.1 then (r.1, it + 1) else turboRun step stop n (it + 1) r.2 r.1

end Sys2Proof.Machine
end

