-- ==== Sys2Proof/Machine/Coding.lean ====
section
/-! DEFINITION. The coding pool: LDPC, polar and turbo units, rate matching and HARQ combining (R220–R239). -/

namespace Sys2Proof.Machine

/-! ## Inputs, outputs and ends of jobs (R222, R223) -/

/-- The NI of a coding half, and the key of unit i of half h. -/
def poolNi (h : Nat) : Nat := 34 + h
def poolKey (h i : Nat) : Nat := 64 + 64 * h + i

/-- LLRs read: their values, −128 read as −127, erasures as 0, and how many were erased.
DEDUCED, safe: log entry 74. -/
def readLlrs (s : State) (ni a n : Nat) : State × Status × List Int × Nat :=
  let (s1, st, ws) := netRead s ni a ((n + 7) / 8)
  let l := (ws.flatMap fun w => (bytesOf 8 w.1.toNat).map fun x => (if w.2 then 0 else max (-127) x.toInt, w.2)).take n
  (s1, st, l.map fun x => x.1, (l.filter fun x => x.2).length)

/-- Bits read, first bit in bit 7 of the first byte, and whether a word was poisoned. -/
def readBits (s : State) (ni a n : Nat) : State × Status × List Bool × Bool :=
  let (s1, st, bs, p) := netBytes s ni a ((n + 7) / 8)
  (s1, st, (bs.flatMap fun x => (List.range 8).map fun k => x.getLsbD (7 - k)).take n, p)

/-- Bytes of a bit string. -/
def packBits : Nat → List Bool → List Byte
  | 0, _ => []
  | _, [] => []
  | n + 1, l =>
    BitVec.ofNat 8 (((List.range 8).map fun k => if nth l k false then 2 ^ (7 - k) else 0).foldl (· + ·) 0) :: packBits n (l.drop 8)

/-- Whole lines written. -/
def putLines (s : State) (ni a : Nat) (bs : List Byte) : State × Status := netStore s ni a (padBytes 64 bs)

/-- A whole output written as the poison code: `n` bytes rounded up to lines. -/
def poisonLines (s : State) (ni a n : Nat) : State × Status := netWrite s ni a (List.replicate ((n + 63) / 64 * 8) poisonW)

/-- A job ends: its result record (the status in word 0 added), its completion, its lock. -/
def endPool (s : State) (h i : Nat) (j : EngJob) (st : Status) (rec_ : List W32) : State :=
  let r := (rec_ ++ List.replicate 8 0#32).take 8
  let (s1, _) := netStore s (poolNi h) (j.param + 64) (wordBytes (setNth r 0 (nth r 0 0 + w32 (statNum st))))
  complete { putEng s1 (poolKey h i) none with locks := s1.locks.filter fun e => decide (e.2 ≠ poolKey h i) } j.task (st16 st)

/-! ## Descriptor checks (R222, R225, R228, R229, R231, R233, R236) -/

/-- The engine class less 4 of unit i. -/
def unitKind (i : Nat) : Nat :=
  if i < 12 then 0 else if i < 16 then 1 else if i < 20 then 2 else if i < 24 then 3 else if i < 32 then 4 else if i < 34 then 5 else if i < 42 then 6 else 7

/-- A lifting size of TS 38.212 Table 5.3.2-1. -/
def zcOk (z : Nat) : Bool := decide (2 ≤ z) && decide (z ≤ 384) && [(2 : Nat), 3, 5, 7, 9, 11, 13, 15].any fun a => (List.range 8).any fun j => decide (a * 2 ^ j = z)

/-- One of the 188 sizes of TS 36.212 Table 5.1.3-3. -/
def turboK (k : Nat) : Bool :=
  (decide (40 ≤ k) && decide (k ≤ 512) && decide (k % 8 = 0)) || (decide (512 < k) && decide (k ≤ 1024) && decide (k % 16 = 0)) ||
  (decide (1024 < k) && decide (k ≤ 2048) && decide (k % 32 = 0)) || (decide (2048 < k) && decide (k ≤ 6144) && decide (k % 64 = 0))

def ldBg2 (d : List W32) : Bool := bit (dw d 0) 8
def ldZc (d : List W32) : Nat := fld (dw d 0) 17 9
def crcLen (c : Nat) : Nat := nth [0, 24, 24, 16] c 0

/-- The words from k on are 0. -/
def zeroFrom (d : List W32) (k : Nat) : Bool := (d.drop k).all fun w => decide (w = 0)

/-- K′ of a base graph is out of range. -/
def kprimeBad (bg2 : Bool) (zc kp : Nat) : Bool := !zcOk zc || decide (kp ≤ 2 * zc) || decide (ldKb bg2 * zc < kp)

/-- CRC bits of a polar code (R229). -/
def polarCrc (chan a : Nat) : Nat := if chan < 2 then 24 else if a < 20 then 6 else 11

/-- `BAD_PARAM` or `LENGTH_RANGE` of a descriptor of unit kind u; `OK` where it is in order. -/
def poolCheck (u : Nat) (d : List W32) : Status :=
  let w0 := dw d 0
  let w1 := dw d 1
  let bad (c : Bool) : Status := if c then .badParam else .ok
  if fld w0 3 0 ≠ 1 ∨ fld w0 7 4 ≠ u then .badParam
  else match u with
    | 0 => bad (decide (fld w0 31 27 ≠ 0) || kprimeBad (ldBg2 d) (ldZc d) (fld w1 14 0) || decide (fld w0 22 18 = 0) || decide (20 < fld w0 22 18) ||
        decide (fld w0 24 23 = 3) || (decide (fld w0 24 23 = 2) && decide (fld w0 26 25 = 0)) || bit w1 15 || bit w1 31 ||
        decide (fld w1 30 16 = 0) || decide (ldNb (ldBg2 d) * ldZc d < fld w1 30 16) || dataBad (da d 2) || dataBad (da d 4) ||
        decide (fld (dw d 6) 8 4 < 8) || decide (16 < fld (dw d 6) 8 4) || decide (fld (dw d 6) 31 9 ≠ 0) || !zeroFrom d 7)
    | 1 => bad (decide (fld w0 24 18 ≠ 0) || decide (fld w0 31 27 ≠ 0) || kprimeBad (ldBg2 d) (ldZc d) (fld w1 14 0) || decide (fld w1 31 15 ≠ 0) ||
        decide (fld w1 14 0 ≤ crcLen (fld w0 26 25)) || dataBad (da d 2) || dataBad (da d 4) || !zeroFrom d 6)
    | 4 => bad (decide (fld w0 31 20 ≠ 0) || decide (fld w0 11 8 = 0) || decide (8 < fld w0 11 8) || decide (fld w0 13 12 = 3) ||
        (bit w0 14 && decide (fld w0 13 12 = 0)) || decide (fld w0 19 15 < 8) || decide (16 < fld w0 19 15) || !turboK (fld w1 12 0) ||
        decide (fld w1 12 0 ≤ fld w1 18 13) || decide (fld w1 31 19 ≠ 0) || dataBad (da d 2) || dataBad (da d 4) || !zeroFrom d 6)
    | 5 => bad (decide (fld w0 31 8 ≠ 0) || !turboK (fld w1 12 0) || decide (fld w1 12 0 ≤ fld w1 18 13) || decide (fld w1 31 19 ≠ 0) ||
        dataBad (da d 2) || dataBad (da d 4) || !zeroFrom d 6)
    | 6 =>
      let turbo := bit w0 9
      let kp := fld (dw d 2) 15 0
      let ncb := fld (dw d 2) 31 16
      let full := if turbo then 96 * cdiv (kp + 4) 32 else ldNb (bit w0 16) * fld w0 25 17
      if decide (fld w0 31 26 ≠ 0) || decide (5 < fld w0 12 10) || decide (fld w1 17 0 = 0) || decide (fld w1 31 18 ≠ 0) || bit (dw d 3) 31 ||
          dataBad (da d 4) || dataBad (da d 6) || decide (fld (dw d 9) 31 6 ≠ 0) || !zeroFrom d 10 ||
          (if turbo then !turboK kp || decide (kp ≤ fld (dw d 9) 5 0) else kprimeBad (bit w0 16) (fld w0 25 17) kp || decide (dw d 9 ≠ 0)) then .badParam
      else if full < ncb then .lengthRange else .ok
    | 7 =>
      let op := fld w0 9 8
      bad (decide (fld w0 31 10 ≠ 0) || decide (op = 3) || decide (fld w1 15 0 = 0) || decide (25344 < fld w1 15 0) || decide (fld w1 15 0 < fld w1 31 16) ||
        decide (dw d 3 ≠ 0) || (if op = 2 then decide (da d 4 ≠ 0) else dataBad (da d 4)) ||
        (if da d 6 = 0 then decide (op = 2) else dataBad (da d 6)) || decide (da d 8 % 64 ≠ 0) || decide (0x000800000000 ≤ da d 8) || !zeroFrom d 10)
    | _ =>
      let chan := fld w0 9 8
      let a := fld w1 10 0
      bad (decide (fld w0 31 10 ≠ 0) || decide (chan = 3) || decide (fld w1 31 11 ≠ 0) || decide (fld (dw d 2) 13 0 = 0) || decide (8192 < fld (dw d 2) 13 0) ||
        decide (fld (dw d 2) 31 14 ≠ 0) || decide (fld (dw d 3) 31 16 ≠ 0) || dataBad (da d 4) || dataBad (da d 6) || !zeroFrom d 8 ||
        (if chan = 0 then decide (a < 12) || decide (140 < a) else if chan = 1 then decide (a ≠ 32) else decide (a < 12) || decide (1024 < a + 11)) ||
        decide (fld (dw d 2) 13 0 < a + polarCrc chan a))

/-- The data addresses of a descriptor. -/
def poolAddrs (u : Nat) (d : List W32) : List Nat := match u with
  | 0 | 1 | 4 | 5 => [da d 2, da d 4]
  | 7 => [da d 4, da d 6, da d 8]
  | _ => [da d 4, da d 6]

/-- The check while the job is staged (R222). -/
def poolStaged (s : State) (h u param : Nat) : State × Status × List W32 :=
  let (s1, st, d, p) := net32s s (poolNi h) param 16
  if st ≠ .ok then (s1, st, [])
  else if p then (s1, .integrity, d)
  else if param % 64 ≠ 0 then (s1, .badParam, d)
  else if poolCheck u d ≠ .ok then (s1, poolCheck u d, d)
  else if (poolAddrs u d).any (dataAbsent s1.variant) then (s1, .notPresent, d)
  else (s1, .ok, d)

/-- Unit i of half h starts its next staged job (R220, R222, R238): a HARQ job takes the lock on its buffer, and waits where
the buffer is locked or the table is full.
DEDUCED, safe: log entry 75. -/
def poolStart (s : State) (h : Fin 2) (i : Fin 46) : State :=
  let k := poolKey h.val i.val
  let u := unitKind i.val
  if (jobOf s k).isSome ∨ !awake s (16 + h.val) then s
  else match beginTask s (.pool h i) with
    | none => s
    | some (s1, t, x) =>
      let (s2, st, d) := poolStaged s1 h.val u x.param
      let buf := da d 8
      if st ≠ .ok then complete s2 t (st16 st)
      else if u = 7 ∧ (s.locks.any (fun e => decide (e.1 = buf)) ∨ 128 ≤ s.locks.length) then s
      else
        let s3 := putEng s2 k (some { task := t, param := x.param, desc := d })
        if u = 7 then { s3 with locks := s3.locks ++ [(buf, k)] } else s3

/-- `HC_LOCK_ACQUIRE` (R238). -/
def execHcLockAcquire (h : Fin 2) (i : Fin 4) (s : State) : Host.Outcome State Fault Refusal :=
  .next (settled s (poolStart s h ⟨42 + i.val, by omega⟩))

/-- The job of unit i of half h, where its domain goes on. -/
def runningPool (s : State) (h i : Nat) : Option EngJob := if goesOn s (16 + h) then jobOf s (poolKey h i) else none

/-- At most how many bytes a job of unit kind u accesses from each of its data addresses on. -/
def poolSpan (u : Nat) (d : List W32) : Nat := match u with
  | 0 | 1 => ldNb (ldBg2 d) * ldZc d
  | 2 | 3 => fld (dw d 2) 13 0
  | 4 | 5 => 3 * (fld (dw d 1) 12 0 + 68)
  | 6 => Nat.max (fld (dw d 1) 17 0) (if bit (dw d 0) 9 then 3 * (fld (dw d 2) 15 0 + 68) else ldNb (bit (dw d 0) 16) * fld (dw d 0) 25 17)
  | _ => fld (dw d 1) 15 0 + 64

/-- An access of a job to its data. -/
def poolOwns (h i : Nat) (d : List W32) (c : EngAcc) : Bool :=
  decide (c.ni = poolNi h) && (poolAddrs (unitKind i) d).any fun a => decide (a ≠ 0) && decide (a ≤ c.addr) && decide (c.addr < a + poolSpan (unitKind i) d)

/-- A job's access has timed out: it waits for none any more (R356). -/
def poolGiveUp (s : State) (h i : Nat) (d : List W32) : State :=
  let s1 := noteTimeout s (poolNi h) false
  engForget s1 ((s1.fab.outst.filterMap (fun o => o.eng) ++ s1.fab.engAns.map fun e => e.1).filter (poolOwns h i d))

/-- A data access of the job was answered with an error: the job stops with it. -/
def poolErr (s : State) (h i : Nat) (e : Status) : State :=
  match runningPool s h i with
  | none => s
  | some j => if e = .timeout ∨ e = .fenced ∨ e = .notPresent then endPool (if e = .timeout then poolGiveUp s h i j.desc else s) h i j e [] else s

/-! ## LDPC (R225–R228) -/

/-- A CRC code of R225: 1 CRC24A, 2 CRC24B, 3 CRC16, as EY.CRC numbers them. -/
def crcSel (c : Nat) : Nat := nth [0, 0, 1, 3] c 0

/-- The check bits that a message takes, and whether a message with its check bits is in order. -/
def crcBits (c : Nat) (m : List Bool) : List Bool := crcTail (crcSel c) m
def crcPass (c : Nat) (m : List Bool) : Bool := crcHolds (crcSel c) m

/-- Layers that the decoder processes (R226). -/
def ldLayers (bg2 : Bool) (zc nllr : Nat) : Nat := Nat.min (if bg2 then 42 else 46) (Nat.max 4 (cdiv (2 * zc + nllr) zc - ldKb bg2))

/-- A failed write of a whole poisoned output ends the job with its own status, a good one with `INTEGRITY` (R222, R223). -/
def endPoisoned (h i : Nat) (j : EngJob) (r : State × Status) : State :=
  endPool r.1 h i j (if r.2 ≠ .ok then r.2 else .integrity) []

/-- A channel LLR at each bit of a word: none for the first two columns, fillers known (R225). -/
def ldChannel (zc kp k n : Nat) (ls : List Int) : List Int :=
  (List.range n).map fun x => if kp ≤ x ∧ x < k then 2 ^ 20 else if x < 2 * zc then 0 else nth ls (x - 2 * zc) 0

/-- `LDEC_COMPLETE` (R226, R227): layered offset min-sum. -/
def ldecEnd (s : State) (h i : Nat) : State :=
  match runningPool s h i with
  | none => s
  | some j =>
    let d := j.desc
    let bg2 := ldBg2 d
    let zc := ldZc d
    let kp := fld (dw d 1) 14 0
    let nllr := fld (dw d 1) 30 16
    let (s1, st, ls, er) := readLlrs s (poolNi h) (da d 2) nllr
    if st ≠ .ok then endPool s1 h i j st []
    else
      let mr := ldLayers bg2 zc nllr
      let k := ldKb bg2 * zc
      let n := k + mr * zc
      let crc := fld (dw d 0) 26 25
      let et := fld (dw d 0) 24 23
      let unsat (w : List Bool) := ldpcUnsat bg2 zc mr w
      let pass (w : List Bool) := decide (crc ≠ 0) && crcPass crc (w.take kp)
      let stop (w : List Bool) := (decide (et = 1) && decide (unsat w = 0)) || (decide (et = 2) && pass w)
      let known (x : Nat) := decide (kp ≤ x) && decide (x < k)
      let (w, it) := ldRun (ldIterate bg2 zc mr (fld (dw d 6) 3 0) (fld (dw d 6) 8 4) known) stop (fld (dw d 0) 22 18) 0
        (ldChannel zc kp k n ls, List.replicate (mr * zc) [])
      let (s2, wst) := putLines s1 (poolNi h) (da d 4) (packBits (kp / 8 + 1) (w.take kp))
      let rec_ := [packF [(16, b2n (decide (crc ≠ 0))), (17, b2n (pass w)), (18, b2n (decide (unsat w = 0))), (19, it)], w32 er,
        w32 (satU 16 (unsat w)), w32 (64 + it * (mr * cdiv zc 96 + 8))]
      endPool s2 h i j (if wst ≠ .ok then wst else if er ≠ 0 then .partialDone else .ok) rec_

/-- `LENC_COMPLETE` (R228). -/
def lencEnd (s : State) (h i : Nat) : State :=
  match runningPool s h i with
  | none => s
  | some j =>
    let d := j.desc
    let bg2 := ldBg2 d
    let zc := ldZc d
    let kp := fld (dw d 1) 14 0
    let crc := fld (dw d 0) 26 25
    let n := ldNb bg2 * zc
    let (s1, st, m, p) := readBits s (poolNi h) (da d 2) (kp - crcLen crc)
    if st ≠ .ok then endPool s1 h i j st []
    else if p then endPoisoned h i j (poisonLines s1 (poolNi h) (da d 4) (cdiv n 8))
    else
      let c := m ++ (if crc = 0 then [] else crcBits crc m)
      let full := c ++ List.replicate (ldKb bg2 * zc - kp) false
      let (s2, wst) := putLines s1 (poolNi h) (da d 4) (packBits (n / 8 + 1) ((full.drop (2 * zc) ++ ldpcParity bg2 zc full).take n))
      endPool s2 h i j wst []

/-! ## Polar (R229, R230) -/

/-- The polar code of a descriptor (R229). -/
def polarOf (d : List W32) : Polar := { chan := fld (dw d 0) 9 8, a := fld (dw d 1) 10 0, e := fld (dw d 2) 13 0 }

/-- `PDEC_COMPLETE` (R230). -/
def pdecEnd (s : State) (h i : Nat) : State :=
  match runningPool s h i with
  | none => s
  | some j =>
    let d := j.desc
    let p := polarOf d
    let (s1, st, ls, er) := readLlrs s (poolNi h) (da d 4) p.e
    if st ≠ .ok then endPool s1 h i j st []
    else
      let (m, ok, rank, pm) := p.decode (fld (dw d 3) 15 0) ls
      let (s2, wst) := putLines s1 (poolNi h) (da d 6) (packBits (p.a / 8 + 1) m)
      let rec_ := [packF [(16, b2n ok), (17, rank)], w32 er, w32 (satU 32 pm)]
      endPool s2 h i j (if wst ≠ .ok then wst else if er ≠ 0 then .partialDone else .ok) rec_

/-- `PENC_COMPLETE` (R230). -/
def pencEnd (s : State) (h i : Nat) : State :=
  match runningPool s h i with
  | none => s
  | some j =>
    let d := j.desc
    let e := fld (dw d 2) 13 0
    let (s1, st, m, p) := readBits s (poolNi h) (da d 4) (fld (dw d 1) 10 0)
    if st ≠ .ok then endPool s1 h i j st []
    else if p then endPoisoned h i j (poisonLines s1 (poolNi h) (da d 6) (cdiv e 8))
    else
      let (s2, wst) := putLines s1 (poolNi h) (da d 6) (packBits (e / 8 + 1) ((polarOf d).encode (fld (dw d 3) 15 0) m))
      endPool s2 h i j wst []

/-! ## Turbo (R231, R232) -/

/-- Bytes from one LLR stream to the next, and from one bit stream to the next. -/
def llrStride (d_ : Nat) : Nat := cdiv d_ 64 * 64
def bitStride (d_ : Nat) : Nat := cdiv d_ 512 * 64

/-- `TDEC_COMPLETE` (R232): max-log-MAP with scaled extrinsics. -/
def tdecEnd (s : State) (h i : Nat) : State :=
  match runningPool s h i with
  | none => s
  | some j =>
    let d := j.desc
    let k := fld (dw d 1) 12 0
    let f := fld (dw d 1) 18 13
    let rd3 (t : State) (x : Nat) := readLlrs t (poolNi h) (da d 2 + x * llrStride (k + 4)) (k + 4)
    let (s1, st1, l0, e1) := rd3 s 0
    let (s2, st2, l1, e2) := rd3 s1 1
    let (s3, st3, l2, e3) := rd3 s2 2
    let st := if st1 ≠ .ok then st1 else if st2 ≠ .ok then st2 else st3
    if st ≠ .ok then endPool s3 h i j st []
    else
      let crc := fld (dw d 0) 13 12
      let pass (w : List Bool) := decide (crc ≠ 0) && crcPass crc (w.drop f)
      let (w, it) := turboRun (turboIterate k f (fld (dw d 0) 19 15) l0 l1 l2) (fun w => bit (dw d 0) 14 && pass w) (fld (dw d 0) 11 8) 0
        (List.replicate k 0) []
      let er := e1 + e2 + e3
      let (s4, wst) := putLines s3 (poolNi h) (da d 4) (packBits (k / 8 + 1) (w.drop f))
      let rec_ := [packF [(16, b2n (decide (crc ≠ 0))), (17, b2n (pass w)), (18, it)], w32 er, w32 (64 + 2 * it * (cdiv (k + 4) 24 + 16))]
      endPool s4 h i j (if wst ≠ .ok then wst else if er ≠ 0 then .partialDone else .ok) rec_

/-- `TENC_COMPLETE` (R232): fillers are encoded as zeros in front. -/
def tencEnd (s : State) (h i : Nat) : State :=
  match runningPool s h i with
  | none => s
  | some j =>
    let d := j.desc
    let k := fld (dw d 1) 12 0
    let f := fld (dw d 1) 18 13
    let st0 := bitStride (k + 4)
    let (s1, st, m, p) := readBits s (poolNi h) (da d 2) (k - f)
    if st ≠ .ok then endPool s1 h i j st []
    else if p then endPoisoned h i j (poisonLines s1 (poolNi h) (da d 4) (3 * st0))
    else
      let out := (turboEncode (List.replicate f false ++ m)).flatMap fun l => let b := packBits (l.length / 8 + 1) l; b ++ List.replicate (st0 - b.length) 0
      let (s2, wst) := putLines s1 (poolNi h) (da d 4) out
      endPool s2 h i j wst []

/-! ## Rate matching (R233, R234) -/

/-- The column permutation of TS 36.212 Table 5.1.4-1. -/
def turboCols : List Nat := [0, 16, 8, 24, 4, 20, 12, 28, 2, 18, 10, 26, 6, 22, 14, 30, 1, 17, 9, 25, 5, 21, 13, 29, 3, 19, 11, 27, 7, 23, 15, 31]

/-- Stream and index of position w of a turbo buffer (TS 36.212 5.1.4.1.1, 5.1.4.1.2); none for a dummy. -/
def turboPos (d_ w : Nat) : Option (Nat × Nat) :=
  let r := cdiv d_ 32
  let kp := 32 * r
  let (st, k) := if w < kp then (0, w) else if (w - kp) % 2 = 0 then (1, (w - kp) / 2) else (2, (w - kp) / 2)
  let y := nth turboCols (k / r) 0 + 32 * (k % r)
  let y' := if st = 2 then (y + 1) % kp else y
  let nd := kp - d_
  if y' < nd then none else some (st, y' - nd)

def rmTurbo (d : List W32) : Bool := bit (dw d 0) 9
def rmZc (d : List W32) : Nat := fld (dw d 0) 25 17
def rmKp (d : List W32) : Nat := fld (dw d 2) 15 0
def rmE (d : List W32) : Nat := fld (dw d 1) 17 0
def rmF (d : List W32) : Nat := fld (dw d 9) 5 0

/-- The full buffer length, and the length in force. -/
def rmFull (d : List W32) : Nat := if rmTurbo d then 96 * cdiv (rmKp d + 4) 32 else ldNb (bit (dw d 0) 16) * rmZc d
def rmNcb (d : List W32) : Nat := let n := fld (dw d 2) 31 16; if n = 0 then rmFull d else n

/-- A position that the walk skips as a filler. -/
def rmFiller (d : List W32) (w : Nat) : Bool :=
  if rmTurbo d then
    match turboPos (rmKp d + 4) w with
    | some (st, k) => decide (st < 2) && decide (k < rmF d)
    | none => false
  else
    let kb := ldKb (bit (dw d 0) 16)
    decide (rmKp d - 2 * rmZc d ≤ w) && decide (w < kb * rmZc d - 2 * rmZc d)

/-- A dummy position. -/
def rmDummy (d : List W32) (w : Nat) : Bool := rmTurbo d && (turboPos (rmKp d + 4) w).isNone

/-- k0 of the redundancy version (TS 38.212 Table 5.4.2.1-2, TS 36.212 5.1.4.1.2). -/
def rmK0 (d : List W32) : Nat :=
  let rv := fld (dw d 0) 14 13
  let ncb := rmNcb d
  if rmTurbo d then
    let r := cdiv (rmKp d + 4) 32
    r * (2 * cdiv ncb (8 * r) * rv + 2)
  else
    let bg2 := bit (dw d 0) 16
    let zc := rmZc d
    nth (if bg2 then [0, 13, 25, 43] else [0, 17, 33, 56]) rv 0 * ncb / (ldNb bg2 * zc) * zc

/-- The positions that the walk visits in one turn from k0. -/
def rmWalk (d : List W32) : List Nat :=
  ((List.range (rmNcb d)).map fun k => (rmK0 d + k) % rmNcb d).filter fun w => !rmFiller d w && !rmDummy d w

def rmQm (d : List W32) : Nat := nth [1, 2, 4, 6, 8, 10] (fld (dw d 0) 12 10) 1

/-- The place before bit interleaving of bit k behind it (TS 38.212 5.4.2.2); the turbo code has none. -/
def rmOrder (d : List W32) (k : Nat) : Nat :=
  if rmTurbo d then k else let q := rmQm d; k % q * cdiv (rmE d) q + k / q

/-- The scrambling bits of the code block (TS 38.211 5.2.1). -/
def rmScramble (d : List W32) : Nat :=
  if !bit (dw d 0) 15 then 0 else goldBits (rmE d) (goldN (dw d 8).toNat (goldN 1600 (1, fld (dw d 3) 30 0)))

/-- LLR sums of a buffer position. -/
def addLlr (b : List Int × Nat) (w : Nat) (v : Int) : List Int × Nat :=
  let x := nth b.1 w 0 + v
  let y := clampI (-127) 127 x
  (setNth b.1 w y, b.2 + b2n (decide (y ≠ x)))

/-- The bits behind bit interleaving in their order before it. -/
def rmReceived (d : List W32) : List Nat :=
  if rmTurbo d then List.range (rmE d)
  else
    let q := rmQm d
    let c := cdiv (rmE d) q
    ((List.range (q * c)).map fun e => e % c * q + e / c).filter fun k => decide (k < rmE d)

/-- The received LLRs laid into the buffer, descrambled and deinterleaved, in the order of the walk: sums, and clamps (R234). -/
def dematch (d : List W32) (ls : List Int) : List Int × Nat :=
  let walk := rmWalk d
  let sc := rmScramble d
  let n := walk.length
  if n = 0 then (List.replicate (rmNcb d) 0, 0)
  else (rmReceived d).foldl (fun acc k =>
    let v := nth ls k 0
    addLlr acc (nth walk (rmOrder d k % n) 0) (if sc.testBit k then -v else v)) (List.replicate (rmNcb d) 0, 0)

/-- One past the highest position that received an LLR, or NCB when the walk wrapped. -/
def rmHigh (d : List W32) : Nat :=
  let walk := rmWalk d
  let first := walk.filter fun w => decide (rmK0 d % rmNcb d ≤ w)
  if first.length < rmE d then rmNcb d else listMax ((first.take (rmE d)).map (· + 1))

/-- The bytes that DEMATCH writes. -/
def dematchOut (d : List W32) (b : List Int) : List Byte :=
  let val (w : Nat) : Byte := if rmFiller d w then 127 else BitVec.ofInt 8 (nth b w 0)
  if !rmTurbo d then (List.range (rmNcb d)).map val
  else
    let dd := rmKp d + 4
    let z := llrStride dd
    let blank : List Byte := List.replicate (3 * z) 0
    (List.range (rmFull d)).foldl (fun acc w => match turboPos dd w with
      | some (st, k) => setNth acc (z * st + k) (if w < rmNcb d then val w else if rmFiller d w then 127 else 0)
      | none => acc) blank

/-- `DEMATCH_COMPLETE` (R234). -/
def dematchEnd (s : State) (h i : Nat) : State :=
  match runningPool s h i with
  | none => s
  | some j =>
    let d := j.desc
    if !bit (dw d 0) 8 then s
    else
      let (s1, st, ls, er) := readLlrs s (poolNi h) (da d 4) (rmE d)
      if st ≠ .ok then endPool s1 h i j st []
      else
        let (b, sat) := dematch d ls
        let (s2, wst) := putLines s1 (poolNi h) (da d 6) (dematchOut d b)
        endPool s2 h i j (if wst ≠ .ok then wst else if er ≠ 0 then .partialDone else .ok) [0, w32 (rmHigh d), w32 er, w32 sat]

/-- The bits of a buffer as MATCH finds them in its input. -/
def matchBit (d : List W32) (m : List Bool) (w : Nat) : Bool :=
  if !rmTurbo d then nth m w false
  else match turboPos (rmKp d + 4) w with
    | some (st, k) => nth m (8 * bitStride (rmKp d + 4) * st + k) false
    | none => false

/-- `MATCH_COMPLETE` (R234): the inverse of DEMATCH. -/
def matchEnd (s : State) (h i : Nat) : State :=
  match runningPool s h i with
  | none => s
  | some j =>
    let d := j.desc
    if bit (dw d 0) 8 then s
    else
      let n := if rmTurbo d then 24 * bitStride (rmKp d + 4) else rmFull d
      let (s1, st, m, p) := readBits s (poolNi h) (da d 4) n
      if st ≠ .ok then endPool s1 h i j st []
      else if p then endPoisoned h i j (poisonLines s1 (poolNi h) (da d 6) (cdiv (rmE d) 8))
      else
        let walk := rmWalk d
        let sc := rmScramble d
        let out := (List.range (rmE d)).map fun k =>
          xor (walk.length ≠ 0 && matchBit d m (nth walk (rmOrder d k % walk.length) 0)) (sc.testBit k)
        let (s2, wst) := putLines s1 (poolNi h) (da d 6) (packBits (rmE d / 8 + 1) out)
        endPool s2 h i j wst []

/-! ## HARQ combining (R235–R237) -/

/-- The header of a soft buffer. -/
def softHeader (s : State) (ncb tag high combines : Nat) : List W32 :=
  [packF [(0, 0x5348), (16, ncb)], w32 tag, packF [(0, high), (16, combines)], w32 (tickNow s)] ++ List.replicate 12 0#32

def llrBytes (l : List Int) : List Byte := l.map fun v => BitVec.ofInt 8 v

/-- The buffer and the decoder's copy are written, and the job ends. -/
def softWrite (s : State) (h i : Nat) (j : EngJob) (l : List Int) (high comb en eb : Nat) : State :=
  let d := j.desc
  let ncb := fld (dw d 1) 15 0
  let (s1, w1) := netStore s (poolNi h) (da d 8) (wordBytes (softHeader s ncb (dw d 2).toNat high comb) ++ padBytes 64 (llrBytes l))
  let (s2, w2) := if da d 6 = 0 then (s1, Status.ok) else putLines s1 (poolNi h) (da d 6) (llrBytes l)
  let st := if w1 ≠ .ok then w1 else if w2 ≠ .ok then w2 else if en ≠ 0 ∨ eb ≠ 0 then .partialDone else .ok
  endPool s2 h i j st [0, w32 high, w32 comb, w32 en, w32 eb]

/-- `HC_NEW_COMPLETE` (R237). -/
def hcNew (s : State) (h i : Nat) : State :=
  match runningPool s h i with
  | none => s
  | some j =>
    let d := j.desc
    if fld (dw d 0) 9 8 ≠ 0 then s
    else
      let (s1, st, l, er) := readLlrs s (poolNi h) (da d 4) (fld (dw d 1) 15 0)
      if st ≠ .ok then endPool s1 h i j st [] else softWrite s1 h i j l (fld (dw d 1) 31 16) 1 er 0

/-- The soft buffer of a COMBINE or READ: its status, HIGH, COMBINES, LLRs and erased LLRs. -/
def readSoft (s : State) (h : Nat) (d : List W32) : State × Status × Nat × Nat × List Int × Nat :=
  let (s1, st, hd, p) := net32s s (poolNi h) (da d 8) 16
  let ncb := fld (dw d 1) 15 0
  if st ≠ .ok then (s1, st, 0, 0, [], 0)
  else if p ∨ fld (dw hd 0) 15 0 ≠ 0x5348 ∨ dw hd 1 ≠ dw d 2 ∨ fld (dw hd 0) 31 16 ≠ ncb then (s1, .state, 0, 0, [], 0)
  else
    let (s2, st2, l, er) := readLlrs s1 (poolNi h) (da d 8 + 64) ncb
    (s2, st2, fld (dw hd 2) 15 0, fld (dw hd 2) 23 16, l, er)

/-- `HC_COMBINE_COMPLETE` (R237). -/
def hcCombine (s : State) (h i : Nat) : State :=
  match runningPool s h i with
  | none => s
  | some j =>
    let d := j.desc
    if fld (dw d 0) 9 8 ≠ 1 then s
    else
      let (s1, st, high, comb, old, eb) := readSoft s h d
      if st ≠ .ok then endPool s1 h i j st []
      else
        let (s2, st2, l, en) := readLlrs s1 (poolNi h) (da d 4) (fld (dw d 1) 15 0)
        if st2 ≠ .ok then endPool s2 h i j st2 []
        else softWrite s2 h i j ((old.zip l).map fun x => clampI (-127) 127 (x.1 + x.2)) (Nat.max high (fld (dw d 1) 31 16)) (satU 8 (comb + 1)) en eb

/-- `HC_READ_COMPLETE` (R237). -/
def hcRead (s : State) (h i : Nat) : State :=
  match runningPool s h i with
  | none => s
  | some j =>
    let d := j.desc
    if fld (dw d 0) 9 8 ≠ 2 then s
    else
      let (s1, st, high, comb, old, eb) := readSoft s h d
      if st ≠ .ok then endPool s1 h i j st []
      else
        let (s2, wst) := putLines s1 (poolNi h) (da d 6) (llrBytes old)
        endPool s2 h i j (if wst ≠ .ok then wst else if eb ≠ 0 then .partialDone else .ok) [0, w32 high, w32 comb, 0, w32 eb]

/-- An end of a job, or its stop with a fabric error received in place of its data. -/
def poolEnd (f : State → Nat → Nat → State) (s : State) (h i : Nat) (err : Option Status) : State :=
  match err with
  | some e => poolErr s h i e
  | none => f s h i

/-! ## The units -/

/-- `LDEC_COMPLETE` (R226): `err` is a fabric error that a data access received. -/
def execLdecComplete (h : Fin 2) (i : Fin 12) (err : Option Status) (s : State) : Host.Outcome State Fault Refusal :=
  .next (settled s (poolEnd ldecEnd s h.val i.val err))

/-- `LENC_COMPLETE` (R228): `err` is a fabric error that a data access received. -/
def execLencComplete (h : Fin 2) (i : Fin 4) (err : Option Status) (s : State) : Host.Outcome State Fault Refusal :=
  .next (settled s (poolEnd lencEnd s h.val (12 + i.val) err))

/-- `PDEC_COMPLETE` (R230): `err` is a fabric error that a data access received. -/
def execPdecComplete (h : Fin 2) (i : Fin 4) (err : Option Status) (s : State) : Host.Outcome State Fault Refusal :=
  .next (settled s (poolEnd pdecEnd s h.val (16 + i.val) err))

/-- `PENC_COMPLETE` (R230): `err` is a fabric error that a data access received. -/
def execPencComplete (h : Fin 2) (i : Fin 4) (err : Option Status) (s : State) : Host.Outcome State Fault Refusal :=
  .next (settled s (poolEnd pencEnd s h.val (20 + i.val) err))

/-- `TDEC_COMPLETE` (R232): `err` is a fabric error that a data access received. -/
def execTdecComplete (h : Fin 2) (i : Fin 8) (err : Option Status) (s : State) : Host.Outcome State Fault Refusal :=
  .next (settled s (poolEnd tdecEnd s h.val (24 + i.val) err))

/-- `TENC_COMPLETE` (R232): `err` is a fabric error that a data access received. -/
def execTencComplete (h : Fin 2) (i : Fin 2) (err : Option Status) (s : State) : Host.Outcome State Fault Refusal :=
  .next (settled s (poolEnd tencEnd s h.val (32 + i.val) err))

/-- `DEMATCH_COMPLETE` (R234): `err` is a fabric error that a data access received. -/
def execDematchComplete (h : Fin 2) (i : Fin 8) (err : Option Status) (s : State) : Host.Outcome State Fault Refusal :=
  .next (settled s (poolEnd dematchEnd s h.val (34 + i.val) err))

/-- `MATCH_COMPLETE` (R234): `err` is a fabric error that a data access received. -/
def execMatchComplete (h : Fin 2) (i : Fin 8) (err : Option Status) (s : State) : Host.Outcome State Fault Refusal :=
  .next (settled s (poolEnd matchEnd s h.val (34 + i.val) err))

/-- `HC_NEW_COMPLETE` (R237): `err` is a fabric error that a data access received. -/
def execHcNewComplete (h : Fin 2) (i : Fin 4) (err : Option Status) (s : State) : Host.Outcome State Fault Refusal :=
  .next (settled s (poolEnd hcNew s h.val (42 + i.val) err))

/-- `HC_COMBINE_COMPLETE` (R237): `err` is a fabric error that a data access received. -/
def execHcCombineComplete (h : Fin 2) (i : Fin 4) (err : Option Status) (s : State) : Host.Outcome State Fault Refusal :=
  .next (settled s (poolEnd hcCombine s h.val (42 + i.val) err))

/-- `HC_READ_COMPLETE` (R237): `err` is a fabric error that a data access received. -/
def execHcReadComplete (h : Fin 2) (i : Fin 4) (err : Option Status) (s : State) : Host.Outcome State Fault Refusal :=
  .next (settled s (poolEnd hcRead s h.val (42 + i.val) err))

end Sys2Proof.Machine
end

