-- ==== Sys2Proof/Machine/Cma.lean ====
section
/-! DEFINITION. The charge-domain beam arrays: jobs, vectors, loads, calibration, drift and commands (R171–R208, R333). -/

namespace Sys2Proof.Machine

/-! ## Loads (R180, R181, R187, R198) -/

def cmaTelem (s : State) (b k n : Nat) : State := bump s R.cmaCount b k n

/-- The loader starts a load. -/
def startLoad (s : State) (b : Nat) (l : CmaLoad) : State :=
  let s1 := setCma (cmaTelem (dropBank s b l.bank) b 4 1) b fun c => { c with
    load := some l, bg := match c.bg with
      | some g => if g.2.1 = l.bank then none else some g
      | none => none }
  cmaSync s1 b

def mkLoad (kind : LoadKind) (bank wsid addr : Nat) : CmaLoad := { bank := bank, wsid := wsid, addr := addr, kind := kind, req := none, void := false }

/-- A set is being preloaded, or waits to be, into a bank. -/
def preloading (c : Cma) (bank wsid : Nat) : Bool :=
  (c.preQ.any fun e => decide (e.1 = bank) && decide (e.2.1 = wsid)) ||
  (match c.load with
    | some l => decide (l.kind = .spare) && decide (l.bank = bank) && decide (l.wsid = wsid)
    | none => false)

/-! ## Job descriptors (R182–R186) -/

def jw (d : List W32) (k : Nat) : W32 := nth d k 0
def jAddr (d : List W32) (k : Nat) : Nat := pair64 (jw d k) (jw d (k + 1))
def jCols (d : List W32) : Nat := pair64 (jw d 2) (jw d 3)
def jNseg (d : List W32) : Nat := fld (jw d 1) 12 0
def jNws (d : List W32) : Nat := fld (jw d 1) 19 13

/-- An address of R182 or R184 is misaligned, remote, or has reserved bits set. -/
def addrBad (a align : Nat) : Bool := decide (a % align ≠ 0) || decide (2 ^ 47 ≤ a)

/-- `BAD_PARAM` of the descriptor at `param`. -/
def jobBad (param : Nat) (d : List W32) : Bool :=
  let w0 := jw d 0
  decide (param % 64 ≠ 0) || decide (fld w0 3 0 ≠ 1) || decide (fld w0 7 4 = 0) || decide (4 < fld w0 7 4) || decide (fld w0 10 8 = 7) ||
  decide (fld w0 31 15 ≠ 0) || decide (jNseg d = 0) || decide (jNws d = 0) || decide (fld (jw d 1) 31 20 ≠ 0) || decide (jCols d = 0) ||
  addrBad (jAddr d 4) 4 || addrBad (jAddr d 6) 4 || addrBad (jAddr d 8) 64 || addrBad (jAddr d 10) 64 || addrBad (jAddr d 12) 1 ||
  decide (fld (jw d 14) 1 0 ≠ 0) || decide (fld (jw d 15) 1 0 ≠ 0)

/-- A weight-set table entry breaks R184. -/
def wsBad (e : List W32) : Bool := decide (jw e 0 = 0) || decide (jw e 1 ≠ 0) || addrBad (jAddr e 2) 64

/-- The check of the descriptor and the weight-set table: `OK`, or the status of R186. -/
def jobCheck (s : State) (b param : Nat) : State × Status × List W32 :=
  let (s1, st, d, p) := net32s s b param 16
  if st ≠ .ok then (s1, st, [])
  else if p then (s1, .integrity, d)
  else if jobBad param d then (s1, .badParam, d)
  else if 4096 < jNseg d ∨ 64 < jNws d then (s1, .lengthRange, d)
  else
    let (s2, st2, t, p2) := net32s s1 b (jAddr d 10) (4 * jNws d)
    if st2 ≠ .ok then (s2, st2, d)
    else if p2 then (s2, .integrity, d)
    else if (List.range (jNws d)).any fun k => wsBad ((t.drop (4 * k)).take 4) then (s2, .badParam, d)
    else (s2, .ok, d)

/-- An array takes no task while a calibration runs or is pending, or in DRIFT (R192, R202): the staged ones wait. -/
def cmaHolds (s : State) (b : Nat) : Bool := decide (cmaState s b = 1) || decide (cmaState s b = 3) || (cmaOf s b).pend

/-- The background pass that goes on when a mode comes into force (R194). -/
def bgKept (mode : Nat) (bg : Option (Nat × Nat × Nat)) : Option (Nat × Nat × Nat) :=
  bg.filter fun g => decide (mode = 1) || (decide (mode = 2) && decide (g.2.1 = 3))

/-- The array starts its next staged task (R186): a fault of the check stops the job before its first vector. -/
def cmaStart (s : State) (b : Fin 16) : State :=
  let k := b.val
  if (cmaOf s k).job.isSome ∨ cmaHolds s k ∨ !awake s k then s
  else match beginTask s (.bench b 11) with
    | none => s
    | some (s1, i, t) =>
      let (s2, st, d) := jobCheck s1 k t.param
      let stop := if st ≠ .ok then some st else if cmaState s2 k = 0 ∨ cmaState s2 k = 4 then some .state else none
      let j : CmaJob := { task := i, param := t.param, desc := d, seg := 0, cur := none, done := 0, need := false, set := (0, 0), vectors := 0,
                          suspect := 0, degraded := 0, osat := 0, demand := 0, pfdrop := 0, worst := none, band := 0, xfer := false, stall := 0,
                          errs := [], stop := stop }
      let mode := rdF s2 R.cmaCtl k 0 2 1
      let s3 := setCma s2 k fun c => { c with job := some j, mode := mode, bg := bgKept mode c.bg }
      let s4 := wr (wr s3 R.cmaJobVec k 0 0) R.cmaJobTask k 0 (w32 i)
      cmaSync (wrF (wrB s4 R.cmaJobStat k 0 0 true) R.cmaJobStat k 0 13 1 0) k

def setJob (s : State) (b : Nat) (f : CmaJob → CmaJob) : State := setCma s b fun c => { c with job := c.job.map f }

/-- The job stops with a status (R186, R187). -/
def stopJob (s : State) (b : Nat) (st : Status) : State :=
  cmaSync (setJob s b fun j => { j with stop := some (j.stop.getD st), need := false, cur := none }) b

/-! ## Segments (R183, R187) -/

/-- A segment entry breaks R183, or names bank 3 where BGMODE reserves it. -/
def segBad (e : List W32) (nws mode : Nat) : Bool :=
  let w0 := jw e 0
  let w1 := jw e 1
  decide (fld w0 15 0 = 0) || decide (nws ≤ fld w0 23 18) || decide (fld w0 29 24 = 0) || decide (32 < fld w0 29 24) || decide (fld w0 31 30 ≠ 0) ||
  (if bit w1 0 then decide (fld w1 2 1 = fld w0 17 16) || decide (nws ≤ fld w1 8 3) else decide (fld w1 8 1 ≠ 0)) ||
  decide (fld w1 31 9 ≠ 0) || decide (fld (jw e 2) 1 0 ≠ 0) || decide (fld (jw e 3) 1 0 ≠ 0) ||
  (decide (mode = 2) && (decide (fld w0 17 16 = 3) || (bit w1 0 && decide (fld w1 2 1 = 3))))

/-- Entry k of the job's weight-set table: WSID and address. -/
def wsEntry (s : State) (b : Nat) (d : List W32) (k : Nat) : State × Status × Nat × Nat :=
  let (s1, st, e, p) := net32s s b (jAddr d 10 + 16 * k) 4
  (s1, (if st = .ok ∧ p then .integrity else st), (jw e 0).toNat, jAddr e 2 % 2 ^ 48)

/-- The bank of the segment in progress holds its set: the vectors may enter; else a demand load starts once the loader is
free, unless the spare preload brings the set (R187, R198). -/
def seekBank (s : State) (b : Nat) : State :=
  let c := cmaOf s b
  match c.job with
  | none => s
  | some j => match j.cur with
    | none => s
    | some e =>
      let k := fld (jw e 0) 17 16
      let (wsid, addr) := j.set
      if bankWsid s b k = wsid then cmaSync (setJob s b fun x => { x with need := false }) b
      else if c.load.isSome ∨ preloading c k wsid then cmaSync (setJob s b fun x => { x with need := true }) b
      else startLoad (cmaTelem (setJob s b fun x => { x with need := true, demand := x.demand + 1 }) b 5 1) b (mkLoad .demand k wsid addr)

/-- The prefetch that a segment asks for (R187). -/
def prefetch (s : State) (b : Nat) (d e : List W32) : State :=
  let w1 := jw e 1
  if !bit w1 0 then s
  else
    let (s1, st, wsid, addr) := wsEntry s b d (fld w1 8 3)
    let k := fld w1 2 1
    if st ≠ .ok then s1
    else if bankWsid s1 b k = wsid then s1
    else if (cmaOf s1 b).load.isSome then cmaTelem (setJob s1 b fun j => { j with pfdrop := j.pfdrop + 1 }) b 6 1
    else startLoad s1 b (mkLoad .prefetch k wsid addr)

/-- `CMA_SEGMENT_START` (R187). -/
def segmentStart (s : State) (b : Nat) : State :=
  let c := cmaOf s b
  match c.job with
  | none => s
  | some j =>
    if !goesOn s b ∨ j.stop.isSome ∨ j.cur.isSome ∨ jNseg j.desc ≤ j.seg then s
    else
      let (s1, st, e, p) := net32s s b (jAddr j.desc 8 + 16 * j.seg) 4
      let s2 := wrF s1 R.cmaJobStat b 0 13 1 j.seg
      if st ≠ .ok then stopJob s2 b st
      else if p then stopJob s2 b .integrity
      else if segBad e (jNws j.desc) c.mode then stopJob s2 b .badParam
      else
        let (s3, wst, wsid, addr) := wsEntry s2 b j.desc (fld (jw e 0) 23 18)
        if wst ≠ .ok then stopJob s3 b wst
        else
          let s4 := seekBank (setJob s3 b fun x => { x with cur := some e, seg := x.seg + 1, done := 0, set := (wsid, addr) }) b
          cmaSync (prefetch s4 b j.desc e) b

def execCmaSegmentStart (b : Fin 16) (s : State) : Host.Outcome State Fault Refusal := .next (settled s (segmentStart s b.val))

/-! ## The signal path (R171–R177) -/

/-- The input elements of a vector: column, components and poison. A fabric error stops the reading. -/
def readInputs (s : State) (b base stride : Nat) : List Nat → State × Status × List (Nat × Nat × Bool)
  | [] => (s, .ok, [])
  | c :: r =>
    let (s1, st, bs, p) := netBytes s b ((base + c * stride) % 2 ^ 48) 4
    if st ≠ .ok then (s1, st, [])
    else
      let (s2, st2, l) := readInputs s1 b base stride r
      (s2, st2, (c, ofBytes bs, p) :: l)

/-- The block exponent E (R172). -/
def blockExp (xs : List (Nat × Nat × Bool)) : Nat :=
  ((xs.filter fun x => !x.2.2).flatMap fun x => [normOf x.2.1, normOf (x.2.1 / 65536)]).foldl Nat.min 15

/-- The DAC code of a component. -/
def dacCode (e : Nat) (x : Int) : Int := clampI (-512) 511 (rneShift (x * 2 ^ e) 6)

/-- A weight component of a bank. -/
def weightAt (w : List Byte) (k : Nat) : Int := sext 8 (nth w k 0).toNat

/-- The exact row sum in units of 2^−16 (R171, R173). -/
def rowSum (w : List Byte) (r e : Nat) (xs : List (Nat × Nat × Bool)) : Int × Int :=
  xs.foldl (fun acc x =>
    if x.2.2 then acc
    else
      let p := dacCode e (sext 16 x.2.1)
      let q := dacCode e (sext 16 (x.2.1 / 65536))
      let i := weightAt w (128 * r + 2 * x.1)
      let j := weightAt w (128 * r + 2 * x.1 + 1)
      (acc.1 + p * i - q * j, acc.2 + p * j + q * i)) (0, 0)

/-- The pilot columns' contribution to each component of a data row, in units of 2^−32: 0.125 with the sign of the vector's parity
(R175). -/
def pilotPart (odd : Bool) : Int := if odd then -(2 ^ 29) else 2 ^ 29

/-- One output component: the converter sees the pilot columns' contribution too and adds its error, in units of 2^−32; the conversion
clamps at the range F, the shell takes the pilots' part away again, and the output clamps at int16 (R173, R175). -/
def convert (again osh e : Nat) (odd : Bool) (sum err : Int) : Int × Bool :=
  let full : Int := 2 ^ (38 - again)
  let v := 2 ^ 16 * sum + err + pilotPart odd
  let a := clampI (-full) full v
  let y := satF 16 (rneShift (a - pilotPart odd) (17 + e + osh))
  (y.1, decide (a ≠ v) || y.2)

/-- The bound of R174 that applies, in −dB relative to 2F²; none where CAL_DUE's condition holds. -/
def errBound (s : State) (b : Nat) : Option Nat :=
  let c := cmaOf s b
  match recBand c (cmaBand s b) with
  | none => none
  | some r => if tjFar s b then none else if r = cmaBand s b then some 54 else if cmaXfer s b then some 49 else some 53

/-- A squared error t, in units of 2^−64, shared by n outputs of range 2^(6 − again), lies within −k dB of 2F² per output. -/
def withinBound (k again t n : Nat) : Bool := decide (t ^ 10 * 10 ^ k ≤ (n * 2 ^ (77 - 2 * again)) ^ 10)

/-- What the pilots of the last 16 vectors say of their rows (R175): the squared row error of those before this one, of which n rows
shared all, and the squared pilot error of `len` vectors. -/
structure PilotTie where
  past : Nat
  n    : Nat
  err  : Nat
  len  : Nat

/-- The mean row error of a window with total d lies at most 1 dB above that of the pilots, or at least 1 dB below it. -/
def PilotTie.under (p : PilotTie) (d : Nat) : Bool := decide ((d * p.len) ^ 10 ≤ 10 * (p.err * p.n * 512) ^ 10)
def PilotTie.over (p : PilotTie) (d : Nat) : Bool := decide ((p.err * p.n * 512) ^ 10 ≤ 10 * (d * p.len) ^ 10)

/-- The errors of a vector's rows: free values, of which one that would lift the mean over the job's vectors and rows above the bound
is not taken (R174), nor one that would lift the last 16 vectors' mean more than 1 dB above the pilots' (R175). Beside them the
squared error spent, t at first.
DESIGN CHOICE, unsafe: log entry 63. -/
def freeErrors (ctr again n : Nat) (k : Option Nat) (p : PilotTie) (t : Nat) (rows : List Nat) : List (Int × Int) × Nat :=
  rows.foldl (fun acc r =>
    let ei := (Config.freeWord (ctr + 2 * r)).toInt
    let eq := (Config.freeWord (ctr + 2 * r + 1)).toInt
    let t1 := acc.2 + ei.natAbs ^ 2 + eq.natAbs ^ 2
    if (k.all fun x => withinBound x again t1 n) && p.under (p.past + (t1 - t) * 4 ^ again) then (acc.1 ++ [(ei, eq)], t1)
    else (acc.1 ++ [(0, 0)], acc.2)) ([], t)

/-- The errors of a vector's rows. Where the free ones leave the last 16 vectors' mean more than 1 dB below the pilots', row 0 takes
what is missing, if the bound of R174 leaves room for it. -/
def rowErrors (ctr again n : Nat) (k : Option Nat) (p : PilotTie) (t : Nat) (rows : List Nat) : List (Int × Int) × Nat :=
  let (l, t1) := freeErrors ctr again n k p t rows
  if p.over (p.past + (t1 - t) * 4 ^ again) then (l, t1)
  else
    let x := nth l 0 (0, 0)
    let want := p.err * p.n * 512 / p.len - p.past
    let y : Int := (isqrt (want / 4 ^ again - (t1 - t) + x.1.natAbs ^ 2) 80 0 : Nat)
    let t2 := t1 - x.1.natAbs ^ 2 + y.natAbs ^ 2
    if k.all fun b => withinBound b again t2 n then (setNth l 0 (y, x.2), t2) else (l, t1)

/-- The outputs of the rows that have errors: their words, and OSAT. -/
def rowOutputs (again osh e : Nat) (odd : Bool) (w : List Byte) (xs : List (Nat × Nat × Bool)) (errs : List (Int × Int)) : List Nat × Bool :=
  let l := (List.range errs.length).map fun r =>
    let t := rowSum w r e xs
    let x := nth errs r (0, 0)
    let p := convert again osh e odd t.1 x.1
    let q := convert again osh e odd t.2 x.2
    (wrapTo 16 p.1 + 65536 * wrapTo 16 q.1, p.2 || q.2)
  (l.map fun x => x.1, l.any fun x => x.2)

/-! ## The pilots (R175) -/

/-- The ideal sums of pilot rows 32 and 33, in units of 2^−32, from the DAC codes: of the data columns, and of the pilot columns 64 and
65, driven with half the range and the sign of the vector's parity. -/
def pilotIdeal (e : Nat) (odd : Bool) (xs : List (Nat × Nat × Bool)) : List Int :=
  let h : Int := if odd then -256 else 256
  let l := (xs.filter fun x => !x.2.2).map (fun x =>
    (dacCode e (sext 16 x.2.1), dacCode e (sext 16 (x.2.1 / 65536)), (if x.1 % 2 = 0 then 1 else -1 : Int))) ++ [(h, 0, 1), (0, h, -1)]
  let sum (f : Int × Int × Int → Int) : Int := 2 ^ 17 * (l.map f).sum
  [sum fun x => x.1, sum fun x => x.2.1, sum fun x => -(x.2.2 * x.2.1), sum fun x => x.2.2 * x.1]

/-- The squared error of the pilot rows: what their converters read, clamped at ±2, against the ideal sums. -/
def pilotErr (e : Nat) (odd : Bool) (xs : List (Nat × Nat × Bool)) (conv : List W64) : Nat :=
  ((List.range 4).map fun k => (clampI (-(2 ^ 33)) (2 ^ 33) (nth conv k 0).toInt - nth (pilotIdeal e odd xs) k 0).natAbs ^ 2).sum

/-- The number of decimal digits of n after its first, up to a limit. -/
def logTen : Nat → Nat → Nat
  | 0, _ => 0
  | f + 1, n => if n < 10 then 0 else 1 + logTen f (n / 10)

/-- E_v (R175), in whole 0.25 dB below or at it: the mean over the vectors and the two pilot rows of the squared errors relative to 8;
−32767 where no error shows.
DESIGN CHOICE, unsafe: log entry 64. -/
def pilotEv (l : List Nat) : Int :=
  if l.sum = 0 then -32767 else (logTen 1200 (l.sum ^ 40 * 10 ^ 900 / (l.length * 2 ^ 68) ^ 40) : Int) - 900

/-- A vector's pilot error and its rows' errors join those of the last 16. -/
def pilotTake (s : State) (b err : Nat) (rows : Nat × Nat) : State :=
  setCma s b fun c => { c with pilots := (err :: c.pilots).take 16, rowErrs := (rows :: c.rowErrs).take 16 }

/-- The pilot columns' contribution to the rows, in units of 2^−32, and the row's error. -/
def pilotSeen (odd : Bool) (errs : List (Int × Int)) : List (Int × Int) := errs.map fun x => (pilotPart odd + x.1, pilotPart odd + x.2)

/-- A row's gain and offset from its contributions in the two vectors of a pair. -/
def rowCalOf (x y : Int × Int) : RowCal :=
  let di := x.1 - y.1
  let dq := x.2 - y.2
  { gi := di + dq, gq := dq - di, oi := x.1 + y.1, oq := x.2 + y.2 }

/-- The row figures that the array shows every two vectors (R175): the vector counter tells the first from the second. -/
def rowCalTake (s : State) (b : Nat) (odd : Bool) (errs : List (Int × Int)) : State :=
  let seen := pilotSeen odd errs
  if odd then setCma s b fun c => { c with first := [], rowCal := List.zipWith rowCalOf c.first seen }
  else setCma s b fun c => { c with first := seen }

/-- Outputs stored row by row. -/
def storeRows (s : State) (b base stride r : Nat) : List Nat → State
  | [] => s
  | v :: vs => storeRows (netStore s b ((base + r * stride) % 2 ^ 48) (bytesOf 4 v)).1 b base stride (r + 1) vs

/-! ## Drift (R197, R198, R333) -/

/-- The bench whose array takes the drifting array's work, and the state: the lowest-numbered spare, or the READY serving
array with the lowest load. -/
def takeSpare (s : State) (b : Nat) : State × Option Nat :=
  match (List.range 16).find? fun k => isSpare s k && decide (k ≠ b) with
  | some k => (raise (bump (setSpare s k false) R.gvCount 0 19 1) E.gv 0 5, some k)
  | none =>
    let s1 := raise s E.gv 0 6
    let best := sortBy (fun x y => decide ((rd s R.gvLoad 0 x).toNat < (rd s R.gvLoad 0 y).toNat)) ((readyServing s).filter fun k => decide (k ≠ b))
    (s1, best.head?)

/-- The array of bench b enters DRIFT; `inj` when injected errors led to it. -/
def enterDrift (s : State) (b : Nat) (inj : Bool) : State :=
  let s1 := raise (cmaTelem (setCmaState s b 3) b 9 1) E.cma b 0
  let s2 := ledAdd (if inj then wrB s1 R.cmaStat b 0 13 true else s1) (97 + 4 * b) 1
  let s3 := setLed s2 (99 + 4 * b) (if timState s2 = 0 then 0 else lo32 (gpsSeconds s2))
  let s4 := setGov s3 fun g => { g with drifted := g.drifted ++ [b] }
  let s5 := if isSpare s4 b then setSpare s4 b false
    else match takeSpare s4 b with
      | (t, some k) => setCma t k fun c => { c with preFrom := some b }
      | (t, none) => t
  cmaSync s5 b

/-- The E_v that a vector shows: measured, or LEVEL under an injection (R203). -/
def shownEv (s : State) (b : Nat) (ev : Int) : Int × Bool :=
  let w := rd s R.cmaInj b
  if bit w 3 ∧ fld w 2 0 = 1 then (-(fld w 15 8 : Int), true) else (ev, false)

/-- An injected vector is used up. -/
def spendInj (s : State) (b : Nat) : State :=
  if rdF s R.cmaInj b 0 31 16 = 0 then s
  else
    let n := (cmaOf s b).injLeft
    let s1 := setCma s b fun c => { c with injLeft := n - 1 }
    if n ≤ 1 then wrB s1 R.cmaInj b 0 3 false else s1

/-- E_v lies above THR (R188, R197): a measured one, given in whole 0.25 dB below it, or an injected level. -/
def evAbove (s : State) (b : Nat) (ev : Int) (inj : Bool) : Bool :=
  let t : Int := -(rdF s R.cmaDriftCfg b 0 7 0 : Int)
  if inj then decide (t < ev) else decide (t ≤ ev)

/-- RUN_CNT after a vector, and DRIFT when it reaches RUN (R197). -/
def runCount (s : State) (b : Nat) (above inj : Bool) : State :=
  let n := if above then satU 16 ((rd s R.cmaRunCnt b).toNat + 1) else 0
  let s1 := wr s R.cmaRunCnt b 0 (w32 n)
  if above ∧ cmaState s1 b = 2 ∧ rdF s1 R.cmaDriftCfg b 0 23 8 ≤ n then enterDrift s1 b inj else s1

/-- A figure moves 1/64 of the way to a measurement. -/
def drift64 (x y : Int) : Int := x + (y - x) / 64

/-- A correction's row moves to what a pair of vectors shows. -/
def learnRow (r m : RowCal) : RowCal :=
  { gi := drift64 r.gi m.gi, gq := drift64 r.gq m.gq, oi := drift64 r.oi m.oi, oq := drift64 r.oq m.oq }

/-- The correction in use learns from a vector, and with weight 1/64 from each pair (R195).
DESIGN CHOICE, safe: log entry 65. -/
def learn (s : State) (b : Nat) : State :=
  let c := cmaOf s b
  let band := cmaBand s b
  match recBand c band with
  | none => s
  | some r =>
    if r = band then s
    else
      let (w, s1) := drawFree s
      let x := corrOf c r band
      let rows := if c.first.isEmpty then
          (List.range (Nat.max x.rows.length c.rowCal.length)).map fun k =>
            let old := nth x.rows k { gi := 2 ^ 31, gq := 0, oi := 0, oq := 0 }
            match c.rowCal[k]? with
            | some m => learnRow old m
            | none => old
        else x.rows
      setCma s1 b fun y => { y with corr := putKey y.corr (4 * r + band) (some { count := x.count + 1, resid := w.toNat % 256, rows := rows }) }

/-- What the pilots say of the rows of a vector with n rows and squared pilot error err. -/
def tieOf (c : Cma) (err n : Nat) : PilotTie :=
  let past := c.rowErrs.take 15
  { past := listSum (past.map fun x => x.1), n := listSum (past.map fun x => x.2) + n, err := listSum ((err :: c.pilots).take 16),
    len := ((err :: c.pilots).take 16).length }

/-- An address that a vector uses is remote (R185). -/
def vectorRemote (d : List W32) (inp out flag rows : Nat) (cols : List Nat) : Bool :=
  isRemote flag || (cols.any fun c => isRemote ((inp + c * (jw d 14).toNat) % 2 ^ 48)) ||
  (List.range rows).any fun r => isRemote ((out + r * (jw d 15).toNat) % 2 ^ 48)

/-- The next vector of the segment leaves the array (R173–R175, R185, R188, R197); `conv` is what the pilot rows' converters
read. A vector with a remote address stops the job with `BAD_PARAM`, a status that R185 does not name.
DESIGN CHOICE, safe: log entry 174. -/
def vectorExit (s : State) (b : Nat) (conv : List W64) : State :=
  let c := cmaOf s b
  match c.job with
  | none => s
  | some j => match j.cur with
    | none => s
    | some e =>
      if !goesOn s b ∨ j.need ∨ j.stop.isSome then s
      else
        let d := j.desc
        let inp := (jAddr d 4 + (jw e 2).toNat + 4 * j.done) % 2 ^ 48
        let out := (jAddr d 6 + (jw e 3).toNat + 4 * j.done) % 2 ^ 48
        let flag := (jAddr d 12 + j.vectors) % 2 ^ 48
        let cols := (List.range 64).filter fun k => (jCols d).testBit k
        let rows := fld (jw e 0) 29 24
        let (s1, st, xs) := if vectorRemote d inp out flag rows cols then (s, Status.badParam, []) else readInputs s b inp (jw d 14).toNat cols
        if st ≠ .ok then stopJob s1 b st
        else
          let ex := blockExp xs
          let again := fld (jw d 0) 10 8
          let odd := bit (rd s1 R.cmaCount b 0) 0
          let perrSq := pilotErr ex odd xs conv
          let (ev, inj) := shownEv s1 b (pilotEv ((perrSq :: c.pilots).take 16))
          let above := evAbove s1 b ev inj
          let kind := errBound s1 b
          let spent := (assoc j.errs (kind.getD 0)).getD (0, 0)
          let (errs, t) := rowErrors s1.freeCtr again (spent.2 + rows) kind (tieOf c perrSq rows) spent.1 (List.range rows)
          let (ys, osat) := rowOutputs again (fld (jw d 0) 14 11) ex odd (nth c.banks (fld (jw e 0) 17 16) []) xs errs
          let s2 := rowCalTake (pilotTake (storeRows { s1 with freeCtr := s1.freeCtr + 64 } b out (jw d 15).toNat 0 ys) b perrSq
            ((t - spent.1) * 4 ^ again, rows)) b odd errs
          let s3 := if inj then spendInj s2 b else s2
          let xfer := cmaXfer s3 b
          let deg := xs.any fun x => x.2.2
          let s4 := runCount (learn s3 b) b above inj
          let susp := above || decide (cmaState s4 b = 3)
          let perr := (clampI 0 15 ((ev + 256) / 8)).toNat
          let qb := b2n susp + 2 * b2n deg + 4 * b2n osat + 8 * b2n xfer + 16 * perr
          let s5 := (netStore s4 b flag (bytesOf 1 qb)).1
          let s6 := cmaTelem (cmaTelem (cmaTelem (cmaTelem s5 b 0 1) b 1 (b2n susp)) b 2 (b2n deg)) b 3 (b2n osat)
          let s7 := wr (wr s6 R.cmaPerrLast b 0 (w32 (wrapTo 16 ev))) R.cmaJobVec b 0 (w32 (j.vectors + 1))
          let fin := decide (fld (jw e 0) 15 0 ≤ j.done + 1)
          cmaSync (setJob s7 b fun x => { x with
            errs := if kind.isSome then putKey x.errs (kind.getD 0) (some (t, spent.2 + rows)) else x.errs,
            vectors := x.vectors + 1, suspect := x.suspect + b2n susp, degraded := x.degraded + b2n deg, osat := x.osat + b2n osat,
            worst := some (match x.worst with
              | none => ev
              | some v => if v < ev then ev else v),
            band := if x.vectors = 0 then cmaBand s b else x.band, xfer := x.xfer || xfer,
            cur := if fin then none else x.cur, done := x.done + 1 }) b

/-- `CMA_VECTOR_EXIT` (R188): `ev` is what the converters of the pilot rows read.
DESIGN CHOICE, unsafe: log entry 64. -/
def execCmaVectorExit (b : Fin 16) (ev : PilotRead) (s : State) : Host.Outcome State Fault Refusal :=
  .next (settled s (vectorExit s b.val [ev.i32, ev.q32, ev.i33, ev.q33]))

/-! ## The end of a load (R180, R181, R187, R207) -/

/-- The next set of the spare preload is loaded when the loader is free; a bank in service, but for one whose segment
waits for its set, is passed over.
DEDUCED, safe: log entry 69. -/
def nextPreload (s : State) (b : Nat) : Nat → State
  | 0 => s
  | n + 1 =>
    let c := cmaOf s b
    if c.load.isSome then s
    else match c.preQ with
      | [] => s
      | (k, w, a) :: r =>
        let s1 := setCma s b fun x => { x with preQ := r }
        let waits := match c.job with
          | some j => j.need
          | none => false
        if (inService c = some k ∧ !waits) ∨ bankWsid s1 b k = w then nextPreload s1 b n else startLoad s1 b (mkLoad .spare k w a)

/-- What follows a load: the job that waits for its bank, then the spare preload. -/
def afterLoad (s : State) (b : Nat) : State :=
  let s1 := match (cmaOf s b).job with
    | some j => if j.need then seekBank s b else s
    | none => s
  cmaSync (nextPreload s1 b 5) b

/-- A load has ended with a status: events, the bank, the job or command that waits for it. -/
def endLoad (s : State) (b : Nat) (l : CmaLoad) (st : Status) (ws : List Byte) (inj : Bool) : State :=
  let s1 := setCma s b fun c => { c with load := none }
  let s2 := if st = .integrity then raise s1 E.cma b 4 else if st = .ok then s1 else raise s1 E.cma b 5
  let s3 := if inj then wrB s2 R.cmaStat b 0 13 true else s2
  let ok := decide (st = .ok) && !l.void
  let s4 := if ok then
      wr (wr (wr (setCma s3 b fun c => { c with banks := setNth c.banks l.bank ws }) R.cmaWsid b l.bank (w32 l.wsid))
        R.cmaBankAddrLo b l.bank (lo32 l.addr)) R.cmaBankAddrHi b l.bank (hi32 l.addr)
    else s3
  let s5 := if l.kind = .demand ∧ st ≠ .ok then stopJob s4 b st else s4
  let s6 := match l.req with
    | some q => endHeld s5 0x0B04 q (if st = .ok ∧ l.void then .state else st) []
    | none => s5
  afterLoad (cmaSync s6 b) b

/-- The load in progress reads its set; `ov` is what the fabric answered in its place. -/
def loadComplete (s : State) (b : Nat) (ov : Over) (stall : Nat) : State :=
  match (cmaOf s b).load with
  | none => s
  | some l =>
    let (s1, st, bs, p) : State × Status × List Byte × Bool := match ov with
      | some (e, _) => (if e = .timeout then netGiveUp s b l.addr 4096 else s, e, [], false)
      | none => netBytes s b l.addr 4096
    let arm := bit (rd s1 R.cmaInj b) 3 && decide (rdF s1 R.cmaInj b 0 2 0 = 3)
    let s2 := if arm ∧ st = .ok then wrB s1 R.cmaInj b 0 3 false else s1
    let waited := match (cmaOf s2 b).job with
      | some j => j.need
      | none => false
    let s3 := if waited then cmaTelem (setJob s2 b fun j => { j with stall := j.stall + stall }) b 7 stall else s2
    endLoad s3 b l (if st = .ok ∧ (p ∨ arm) then .integrity else st) bs (arm && decide (st = .ok))

/-- `CMA_LOAD_COMPLETE` (R180): `err` is a fabric error received in place of the set, `stall` the vector periods that the
array has waited for the load. -/
def execCmaLoadComplete (b : Fin 16) (err : Option Status) (stall : W32) (s : State) : Host.Outcome State Fault Refusal :=
  .next (match err with
    | none => settled s (loadComplete s b.val none stall.toNat)
    | some e => if e = .timeout ∨ e = .fenced ∨ e = .notPresent then settled s (loadComplete s b.val (some (e, [])) stall.toNat) else s)

/-- The sets that the banks of a drifting array hold, for a spare to load: those of valid banks, bank 3 only where the spare does not
reserve it (R198). -/
def spareSets (s : State) (b d : Nat) : List (Nat × Nat × Nat) :=
  ((List.range 4).filter fun k => decide (bankWsid s d k ≠ 0) && !(decide (k = 3) && decide ((cmaOf s b).mode = 2))).map fun k =>
    (k, bankWsid s d k, pair64 (rd s R.cmaBankAddrLo d k) (rd s R.cmaBankAddrHi d k))

/-- The shell of bench b's array reads the banks of the drifting array it takes over from, once that one's job and load have ended
(R198). -/
def spareRead (s : State) (b : Nat) : State :=
  match (cmaOf s b).preFrom with
  | none => s
  | some d => if (cmaOf s d).job.isSome ∨ (cmaOf s d).load.isSome then s
    else setCma s b fun y => { y with preFrom := none, preQ := spareSets s b d }

/-- The spare reads what it is to load, and loads it set by set. -/
def sparePreload (s : State) (b : Nat) : State :=
  if !awake s b then s
  else
    let s1 := spareRead s b
    if (cmaOf s1 b).preFrom.isSome then s else cmaSync (nextPreload s1 b 5) b

/-- `CMA_SPARE_PRELOAD` (R198): by the bench of the array that takes over. -/
def execCmaSparePreload (b : Fin 16) (s : State) : Host.Outcome State Fault Refusal := .next (sparePreload s b.val)

/-! ## The end of a job (R189) -/

/-- The completion status of a job. -/
def jobStatus (j : CmaJob) : Status := match j.stop with
  | some st => st
  | none => if j.suspect ≠ 0 ∨ j.degraded ≠ 0 then .partialDone else .ok

/-- The result record. -/
def jobRecord (j : CmaJob) : List W32 :=
  [w32 (statNum (jobStatus j)), w32 j.vectors, w32 j.suspect, w32 j.degraded, w32 j.osat,
   packF [(0, satU 16 j.demand), (16, satU 16 j.pfdrop)],
   packF [(0, match j.worst with
      | some v => wrapTo 16 v
      | none => 0x8000), (16, j.band), (18, b2n j.xfer)], w32 j.stall]

/-- `CMA_JOB_COMPLETE` (R189). -/
def jobComplete (s : State) (b : Nat) : State :=
  match (cmaOf s b).job with
  | none => s
  | some j =>
    if j.stop.isNone ∧ (j.cur.isSome ∨ j.seg < jNseg j.desc) then s
    else
      let s1 := (netStore s b (j.param + 64) (wordBytes (jobRecord j))).1
      let s2 := setCma (complete s1 j.task (st16 (jobStatus j))) b fun c => { c with job := none }
      cmaSync (wrF (wrB s2 R.cmaJobStat b 0 0 false) R.cmaJobStat b 0 31 16 (statNum (jobStatus j))) b

def execCmaJobComplete (b : Fin 16) (s : State) : Host.Outcome State Fault Refusal := .next (settled s (jobComplete s b.val))

/-! ## Bands and calibration (R192–R196, R201, R202) -/

/-- The band that a current leaves in force (R193): up at a threshold, down once it lies HYST below it. -/
def bandOfCurrent (s : State) (b i : Nat) : Nat :=
  let w := rd s R.cmaBandThr b
  let t (k : Nat) := fld w (8 * k + 7) (8 * k)
  let h := fld w 27 24
  let up := listMax ((List.range 3).map fun k => if t k ≤ i then k + 1 else 0)
  let now := cmaBand s b
  if now < up then up
  else ((List.range (now + 1)).filter fun k => decide (k = 0) || decide (t (k - 1) < i + h)).foldl Nat.max 0

/-- `CMA_BAND_SAMPLE` (R193): the IVR current in 0.25 A. -/
def execCmaBandSample (b : Fin 16) (cur : Fin 256) (s : State) : Host.Outcome State Fault Refusal :=
  .next (
    let n := bandOfCurrent s b.val cur.val
    if !cmaHere s.variant b.val ∨ n = cmaBand s b.val then s
    else
      let s1 := raise (wrF s R.cmaStat b.val 0 5 4 n) E.cma b.val 6
      let s2 := setCma s1 b.val fun c => { c with bg := c.bg.map fun g => (0, g.2.1, n) }
      calDueCheck (cmaSync s2 b.val) b.val)

/-- A plane is idle for background calibration (R194): not in service, not loading, not a prefetch target, not named by a remaining
segment of the job; `segs` are the segment in progress and those not begun yet. -/
def planeIdle (c : Cma) (segs : List (List W32)) (k : Nat) : Bool :=
  !(match c.load with | some l => decide (l.bank = k) | none => false) &&
  !(segs.any fun e => decide (fld (jw e 0) 17 16 = k) || (bit (jw e 1) 0 && decide (fld (jw e 1) 2 1 = k)))

/-- The entries of the segment in progress and of those that a job has not begun. -/
def restSegs (s : State) (b : Nat) : State × List (List W32) :=
  match (cmaOf s b).job with
  | none => (s, [])
  | some j => (List.range (jNseg j.desc - j.seg)).foldl (fun x k =>
      let (s1, _, e, _) := net32s x.1 b (jAddr j.desc 8 + 16 * (j.seg + k)) 4
      (s1, x.2 ++ [e])) (s, j.cur.toList)

/-- The plane that a new pass takes.
DESIGN CHOICE, unsafe: log entry 66. -/
def bgPlane (s : State) (b : Nat) : State × Option Nat :=
  let c := cmaOf s b
  let (s1, r) := restSegs s b
  (s1, if c.mode = 2 then (if planeIdle c r 3 then some 3 else none)
    else if c.mode = 1 then (List.range 4).find? (planeIdle c r)
    else none)

/-- `CMA_BG_CAL_STEP` (R194): a step has ended; the check result of a pass that it completes, in −0.25 dB. The record takes the rows'
figures that the pilots show (R175). -/
def execCmaBgCalStep (b : Fin 16) (err : Fin 256) (s : State) : Host.Outcome State Fault Refusal :=
  .next (
    let k := b.val
    if !awake s k ∨ cmaState s k ≠ 2 then s
    else match (cmaOf s k).bg with
      | none => settled s (match bgPlane s k with
        | (s1, none) => s1
        | (s1, some p) => cmaSync (setCma (dropBank s1 k p) k fun c => { c with bg := some (1, p, cmaBand s k) }) k)
      | some (n, p, band) =>
        if n + 1 < 66 then cmaSync (setCma s k fun c => { c with bg := some (n + 1, p, band) }) k
        else cmaSync (raise (writeCalRec (setCma s k fun c => { c with bg := none }) k err.val (cmaOf s k).rowCal) E.cma k 8) k)

/-- The arrays that are to take over the sets of array b and have not read its banks yet (R198). -/
def heirs (s : State) (b : Nat) : List Nat := (List.range 16).filter fun k => decide ((cmaOf s k).preFrom = some b)

/-- The array of bench b is to calibrate: it is OFF, in DRIFT, or has a calibration pending. -/
def calWanted (s : State) (b : Nat) : Bool :=
  decide (cmaState s b = 0) || decide (cmaState s b = 3) || ((cmaOf s b).pend && (decide (cmaState s b = 2) || decide (cmaState s b = 4)))

/-- `CMA_FULL_CAL_START` (R192, R198, R202): from OFF, from DRIFT, or one that is pending, once no task is running. An array that takes
over its sets reads its banks before; that read waits for a load in progress. -/
def execCmaFullCalStart (b : Fin 16) (s : State) : Host.Outcome State Fault Refusal :=
  .next (
    let k := b.val
    let c := cmaOf s k
    if !cmaHere s.variant k ∨ !awake s k ∨ c.job.isSome ∨ !calWanted s k ∨ (c.load.isSome ∧ !(heirs s k).isEmpty) then s
    else startCal ((heirs s k).foldl spareRead s) k)

/-- The ledger's record of a check (R201): its result, the worst one, the highest trim fraction. -/
def ledgerCheck (s : State) (b err trim : Nat) : State :=
  let s1 := ledAdd s (96 + 4 * b) 1
  let w := ledW s (98 + 4 * b)
  let worst := if ledW s (96 + 4 * b) = 0#32 then err else Nat.min err (fld w 15 8)
  setLed s1 (98 + 4 * b) (packF [(0, err), (8, worst), (16, Nat.max (fld w 25 16) trim)])

/-- A calibrated array that had drifted becomes a spare again while fewer than SPARES are designated (R333). -/
def rejoin (s : State) (b : Nat) : State :=
  if !s.gov.drifted.contains b then s
  else
    let s1 := setGov s fun g => { g with drifted := g.drifted.filter fun x => decide (x ≠ b) }
    if spareCount s1 < s1.gov.policy.spares then setSpare s1 b true else s1

/-- An array becomes FAILED (R202, R333). -/
def cmaFail (s : State) (b : Nat) : State :=
  let s1 := raise (setCmaState s b 4) E.cma b 2
  let s2 := if isSpare s1 b then setSpare s1 b false
    else if s1.gov.started ∧ !s1.gov.drifted.contains b then (takeSpare s1 b).1 else s1
  capSync (setGov s2 fun g => { g with drifted := g.drifted.filter fun x => decide (x ≠ b) })

/-- `CMA_FULL_CAL_END` (R192, R202): the mean E_v of the check, signed, in 0.25 dB, and the highest trim fraction, per mille. -/
def execCmaFullCalEnd (b : Fin 16) (ev : W16) (trim : Fin 1001) (s : State) : Host.Outcome State Fault Refusal :=
  .next (
    let k := b.val
    if cmaState s k ≠ 1 ∨ !goesOn s k then s
    else
      let arm := bit (rd s R.cmaInj k) 3 && decide (rdF s R.cmaInj k 0 2 0 = 2)
      let s1 := if arm then wrB s R.cmaInj k 0 3 false else s
      let err := (clampI 0 255 (-ev.toInt)).toNat
      let s2 := ledgerCheck (cmaTelem s1 k 8 1) k err trim.val
      let s3 := raiseIf (decide (900 ≤ trim.val)) s2 E.cma k 7
      if ev.toInt ≤ -216 ∧ !arm then
        let s4 := wr (setCma (setCmaState (writeCalRec s3 k err []) k 2) k fun c => { c with fails := 0, failInj := false, pend := false })
          R.cmaRunCnt k 0 0
        cmaSync (rejoin (raise (cmaSync s4 k) E.cma k 1) k) k
      else if (cmaOf s3 k).fails = 0 then cmaSync (setCma s3 k fun c => { c with fails := 1, failInj := arm }) k
      else
        let s4 := if arm || (cmaOf s3 k).failInj then wrB s3 R.cmaStat k 0 13 true else s3
        cmaSync (cmaFail (wr (setCma s4 k fun c => { c with fails := 0, failInj := false }) R.cmaRunCnt k 0 0) k) k)

/-- CAL_START is written, or `CMA_CALIBRATE` is sent (R199, R202, R205): the new state and the command's status. -/
def calibrate (s : State) (b : Nat) (force : Bool) : State × Status :=
  let c := cmaOf s b
  let st := cmaState s b
  if st = 0 ∨ (st = 4 ∧ !force) then (s, .state)
  else if st = 1 ∨ st = 3 ∨ (c.pend ∧ (st ≠ 4 ∨ c.job.isSome)) then (s, .ok)
  else if st = 4 then (if c.job.isSome then (cmaSync (setCma s b fun x => { x with pend := true }) b, .deferred) else (startCal s b, .ok))
  else (requestCal s b, if c.job.isSome then .deferred else .ok)

/-- `CMA_CAL_START_BIT` (R203): only the management processor writes the shell. -/
def execCmaCalStartBit (w : Writer) (b : Fin 16) (s : State) : Host.Outcome State Fault Refusal :=
  .next (if cmaHere s.variant b.val && decide (w = .mp) then (calibrate s b.val false).1 else s)

/-- `CMA_SHELL_INJ_ARM` (R203): ARM is written with the selected KIND. -/
def execCmaShellInjArm (w : Writer) (b : Fin 16) (s : State) : Host.Outcome State Fault Refusal :=
  .next (if cmaHere s.variant b.val && mayInject s w && decide (rdF s R.cmaInj b.val 0 2 0 ≠ 0) then
      setCma (wrB s R.cmaInj b.val 0 3 true) b.val fun c => { c with injLeft := rdF s R.cmaInj b.val 0 31 16 }
    else s)

/-- A write of `SHELL_INJ` (R203): KIND 0 disarms; ARM arms the kind written. -/
def cmaInjWrite (s : State) (b : Nat) (v : W32) : State :=
  if fld v 2 0 = 0 then setCma (wrB s R.cmaInj b 0 3 false) b fun c => { c with injLeft := 0 }
  else if bit v 3 then setCma (wrB s R.cmaInj b 0 3 true) b fun c => { c with injLeft := fld v 31 16 } else s

/-! ## Commands (R204–R208) -/

/-- `CMA_STATUS` (R204). -/
def cmaStatus (q : Req) (s : State) : Done :=
  let b := fld (par q 0) 3 0
  if !wellFormed q.params [0xF#32] then done s .badParam
  else if !cmaHere s.variant b then done s .notPresent
  else doneW s ([rd s R.cmaStat b, rd s R.cmaPerrLast b, rd s R.cmaRunCnt b] ++ ((List.range 4).map fun k => rd s R.cmaWsid b k) ++ [rd s R.cmaBankStat b])

/-- `CMA_CALIBRATE` (R205). -/
def cmaCalibrate (q : Req) (s : State) : Done :=
  let b := fld (par q 0) 3 0
  if !wellFormed q.params [0x1F#32] then done s .badParam
  else if !cmaHere s.variant b then done s .notPresent
  else
    let (s1, st) := calibrate s b (bit (par q 0) 4)
    done s1 st

/-- `CMA_CONFIG` (R206). -/
def cmaConfig (q : Req) (s : State) : Done :=
  let mask := (par q 0).toNat
  let bs := (List.range 16).filter fun b => mask.testBit b
  if !wellFormed q.params [0xFFFF#32, 0x0FFFFFFF#32, 0x00FFFFFF#32, 0x1F#32, 0xE#32] ∨ mask = 0 ∨ !R.cmaBandThr.legal (par q 1) ∨
      !R.cmaDriftCfg.legal (par q 2) ∨ !R.cmaCalCfg.legal (par q 3) ∨ !R.cmaCtl.legal (par q 4) then done s .badParam
  else if bs.any fun b => !cmaHere s.variant b then done s .notPresent
  else
    let one (a : State) (b : Nat) : State :=
      let a1 := wr (wr (wr a R.cmaBandThr b 0 (par q 1)) R.cmaDriftCfg b 0 (par q 2)) R.cmaCalCfg b 0 (par q 3)
      calDueCheck (wrF a1 R.cmaCtl b 0 3 1 (fld (par q 4) 3 1)) b
    done (bs.foldl one s) .ok

/-- `CMA_PRELOAD` (R207): it holds its stream until the load ends. -/
def cmaPreload (q : Req) (s : State) : Done :=
  let b := fld (par q 0) 3 0
  let k := fld (par q 0) 5 4
  let a := pair64 (par q 2) (par q 3)
  if !wellFormed q.params [0x3F#32, 0xFFFFFFFF#32, 0xFFFFFFFF#32, 0xFFFF#32] ∨ par q 1 = 0#32 ∨ addrBad a 64 then done s .badParam
  else if !cmaHere s.variant b then done s .notPresent
  else
    let c := cmaOf s b
    let target : Bool := match c.load with
      | some l => decide (l.bank = k)
      | none => false
    if cmaState s b ≠ 2 ∨ inService c = some k ∨ target ∨ (k = 3 ∧ c.mode = 2) then done s .state
    else if c.load.isSome then done s .busy
    else holding (startLoad s b { mkLoad .preload k (par q 1).toNat a with req := some q })

/-- `CMA_SERVICE` (R208).
DEDUCED, safe: log entry 68. -/
def cmaService (q : Req) (s : State) : Done :=
  let b := fld (par q 0) 3 0
  let en := bit (par q 0) 4
  if !wellFormed q.params [0x1F#32] then done s .badParam
  else if !cmaHere s.variant b then done s .notPresent
  else done (cmaSync (setCma (wrB s R.cmaCtl b 0 0 en) b fun c => { c with hold := en && calDue s b && (c.hold || !rdB s R.cmaCtl b 0 0) }) b) .ok

end Sys2Proof.Machine
end

