-- ==== Sys2Proof/Machine/Crypto.lean ====
section
/-! DEFINITION. The digests and signatures the manual takes from FIPS 180-4 and FIPS 186-5 (R588): SHA-384 and ECDSA P-384
verification. The constants are those standards'. -/

namespace Sys2Proof.Machine

/-! ## SHA-384 -/

def shaK : List W64 :=
  [0x428a2f98d728ae22#64, 0x7137449123ef65cd#64, 0xb5c0fbcfec4d3b2f#64, 0xe9b5dba58189dbbc#64,
   0x3956c25bf348b538#64, 0x59f111f1b605d019#64, 0x923f82a4af194f9b#64, 0xab1c5ed5da6d8118#64,
   0xd807aa98a3030242#64, 0x12835b0145706fbe#64, 0x243185be4ee4b28c#64, 0x550c7dc3d5ffb4e2#64,
   0x72be5d74f27b896f#64, 0x80deb1fe3b1696b1#64, 0x9bdc06a725c71235#64, 0xc19bf174cf692694#64,
   0xe49b69c19ef14ad2#64, 0xefbe4786384f25e3#64, 0x0fc19dc68b8cd5b5#64, 0x240ca1cc77ac9c65#64] ++
  [0x2de92c6f592b0275#64, 0x4a7484aa6ea6e483#64, 0x5cb0a9dcbd41fbd4#64, 0x76f988da831153b5#64,
   0x983e5152ee66dfab#64, 0xa831c66d2db43210#64, 0xb00327c898fb213f#64, 0xbf597fc7beef0ee4#64,
   0xc6e00bf33da88fc2#64, 0xd5a79147930aa725#64, 0x06ca6351e003826f#64, 0x142929670a0e6e70#64,
   0x27b70a8546d22ffc#64, 0x2e1b21385c26c926#64, 0x4d2c6dfc5ac42aed#64, 0x53380d139d95b3df#64,
   0x650a73548baf63de#64, 0x766a0abb3c77b2a8#64, 0x81c2c92e47edaee6#64, 0x92722c851482353b#64] ++
  [0xa2bfe8a14cf10364#64, 0xa81a664bbc423001#64, 0xc24b8b70d0f89791#64, 0xc76c51a30654be30#64,
   0xd192e819d6ef5218#64, 0xd69906245565a910#64, 0xf40e35855771202a#64, 0x106aa07032bbd1b8#64,
   0x19a4c116b8d2d0c8#64, 0x1e376c085141ab53#64, 0x2748774cdf8eeb99#64, 0x34b0bcb5e19b48a8#64,
   0x391c0cb3c5c95a63#64, 0x4ed8aa4ae3418acb#64, 0x5b9cca4f7763e373#64, 0x682e6ff3d6b2b8a3#64,
   0x748f82ee5defb2fc#64, 0x78a5636f43172f60#64, 0x84c87814a1f0ab72#64, 0x8cc702081a6439ec#64] ++
  [0x90befffa23631e28#64, 0xa4506cebde82bde9#64, 0xbef9a3f7b2c67915#64, 0xc67178f2e372532b#64,
   0xca273eceea26619c#64, 0xd186b8c721c0c207#64, 0xeada7dd6cde0eb1e#64, 0xf57d4f7fee6ed178#64,
   0x06f067aa72176fba#64, 0x0a637dc5a2c898a6#64, 0x113f9804bef90dae#64, 0x1b710b35131c471b#64,
   0x28db77f523047d84#64, 0x32caab7b40c72493#64, 0x3c9ebe0a15c9bebc#64, 0x431d67c49c100d4c#64,
   0x4cc5d4becb3e42b6#64, 0x597f299cfc657e2a#64, 0x5fcb6fab3ad6faec#64, 0x6c44198c4a475817#64]

def shaInit : List W64 :=
  [0xcbbb9d5dc1059ed8#64, 0x629a292a367cd507#64, 0x9159015a3070dd17#64, 0x152fecd8f70e5939#64,
   0x67332667ffc00b31#64, 0x8eb44a8768581511#64, 0xdb0c2e0d64f98fa7#64, 0x47b5481dbefa4fa4#64]

def rotr64 (x : W64) (n : Nat) : W64 := x.rotateRight n

/-- A 64-bit word from 8 bytes, most significant first. -/
def be64 (bs : List Byte) : W64 := BitVec.ofNat 64 (bs.foldl (fun a b => a * 256 + b.toNat) 0)

/-- The bytes of a number, most significant first. -/
def beBytes (k n : Nat) : List Byte := (bytesOf k n).reverse

/-- The message schedule from its last 16 words, newest first. -/
def shaSched : Nat → List W64 → List W64
  | 0, ws => ws
  | n + 1, ws =>
    let g (i : Nat) := nth ws i 0
    let a := g 1
    let b := g 14
    let s1 := rotr64 a 19 ^^^ rotr64 a 61 ^^^ (a >>> 6)
    let s0 := rotr64 b 1 ^^^ rotr64 b 8 ^^^ (b >>> 7)
    shaSched n ((s1 + g 6 + s0 + g 15) :: ws)

/-- The 80 rounds of one block. -/
def shaRounds : List (W64 × W64) → List W64 → List W64
  | (k, w) :: r, [a, b, c, d, e, f, g, h] =>
    let t1 := h + (rotr64 e 14 ^^^ rotr64 e 18 ^^^ rotr64 e 41) + ((e &&& f) ^^^ (~~~e &&& g)) + k + w
    let t2 := (rotr64 a 28 ^^^ rotr64 a 34 ^^^ rotr64 a 39) + ((a &&& b) ^^^ (a &&& c) ^^^ (b &&& c))
    shaRounds r [t1 + t2, a, b, c, d + t1, e, f, g]
  | _, v => v

/-- One 128-byte block. -/
def shaBlock (h : List W64) (blk : List Byte) : List W64 :=
  let w0 := (List.range 16).map fun i => be64 ((blk.drop (8 * i)).take 8)
  let w := (shaSched 64 w0.reverse).reverse
  (h.zip (shaRounds (shaK.zip w) h)).map fun p => p.1 + p.2

/-- The blocks of a padded message. -/
def shaBlocks : Nat → List W64 → List Byte → List W64
  | 0, h, _ => h
  | n + 1, h, bs => shaBlocks n (shaBlock h (bs.take 128)) (bs.drop 128)

/-- SHA-384 of a message: 48 bytes. -/
def sha384 (m : List Byte) : List Byte :=
  let n := m.length
  let z := (111 + 128 - n % 128) % 128
  let p := m ++ [0x80#8] ++ List.replicate z 0 ++ beBytes 16 (8 * n)
  ((shaBlocks (p.length / 128) shaInit p).take 6).flatMap fun w => beBytes 8 w.toNat

/-- SHA-384 as 12 little-endian words, its bytes in order. -/
def sha384w (m : List Byte) : List W32 := bytesWords 12 (sha384 m)

/-! ## ECDSA P-384 -/

def ecP : Nat := 2 ^ 384 - 2 ^ 128 - 2 ^ 96 + 2 ^ 32 - 1
def ecN : Nat := 0xffffffffffffffffffffffffffffffffffffffffffffffffc7634d81f4372ddf581a0db248b0a77aecec196accc52973
def ecB : Nat := 0xb3312fa7e23ee7e4988e056be3f82d19181d9c6efe8141120314088f5013875ac656398d8a2ed19d2a85c8edd3ec2aef
def ecG : Nat × Nat :=
  (0xaa87ca22be8b05378eb1c71ef320ad746e1d3b628ba79b9859f741e082542a385502f25dbf55296c3a545e3872760ab7,
   0x3617de4a96262c6f5d9e98bf9292dc29f8f41dbd289a147ce9da3113b5f0b8c00a60b1ce1d7e819d7a431d7c90ea0e5f)

/-- x^e modulo m, by the bits of e. -/
def powMod : Nat → Nat → Nat → Nat → Nat
  | 0, _, _, _ => 1
  | f + 1, x, e, m =>
    if e = 0 then 1
    else
      let h := powMod f (x * x % m) (e / 2) m
      if e % 2 = 1 then h * x % m else h

/-- The inverse modulo a prime. -/
def invMod (x m : Nat) : Nat := powMod 400 (x % m) (m - 2) m

/-- The sum of two points of the curve; `none` is the point at infinity. -/
def ecAdd : Option (Nat × Nat) → Option (Nat × Nat) → Option (Nat × Nat)
  | none, q => q
  | p, none => p
  | some (x1, y1), some (x2, y2) =>
    if x1 = x2 ∧ (y1 + y2) % ecP = 0 then none
    else
      let l := if x1 = x2 ∧ y1 = y2 then (3 * x1 * x1 + ecP - 3) * invMod (2 * y1) ecP % ecP
               else (y2 + ecP - y1) * invMod (x2 + ecP - x1) ecP % ecP
      let x3 := (l * l + 2 * ecP - x1 - x2) % ecP
      some (x3, (l * (x1 + ecP - x3) + ecP - y1) % ecP)

/-- A multiple of a point, by the bits of the multiplier. -/
def ecMul : Nat → Nat → Option (Nat × Nat) → Option (Nat × Nat)
  | 0, _, _ => none
  | f + 1, k, p =>
    if k = 0 then none
    else
      let h := ecMul f (k / 2) (ecAdd p p)
      if k % 2 = 1 then ecAdd h p else h

/-- A number of 12 words whose 48 bytes stand most significant first. -/
def beNum (ws : List W32) : Nat := (wordBytes (ws.take 12)).foldl (fun a b => a * 256 + b.toNat) 0

/-- An ECDSA P-384 signature (r, s: 24 words) of a 48-byte digest verifies with a public key (x, y: 24 words) (R588).
DESIGN CHOICE, safe: log entry 102. -/
def ecdsaOk (key sig : List W32) (digest : List Byte) : Bool :=
  let x := beNum key
  let y := beNum (key.drop 12)
  let r := beNum sig
  let s := beNum (sig.drop 12)
  let z := digest.foldl (fun a b => a * 256 + b.toNat) 0
  let onCurve := decide (x < ecP) && decide (y < ecP) &&
    decide (y * y % ecP = (x * x % ecP * x + (ecP - 3) * x + ecB) % ecP)
  if onCurve && decide (1 ≤ r) && decide (r < ecN) && decide (1 ≤ s) && decide (s < ecN) then
    let w := invMod s ecN
    match ecAdd (ecMul 400 (z * w % ecN) (some ecG)) (ecMul 400 (r * w % ecN) (some (x, y))) with
    | none => false
    | some (px, _) => decide (px % ecN = r)
  else false

end Sys2Proof.Machine
end

