-- ==== Sys2Proof/Machine/Reset.lean ====
section
/-! DEFINITION. The internal reset: what it clears and what the always-on domain, the MRAM store, the fuses and the boot
flash keep (R543, R545, R550, R583, R585, R589). -/

namespace Sys2Proof.Machine

/-- The registers whose value the always-on domain keeps (R561). -/
def aoKeys : List Nat :=
  [R.thCfg.key 0 0, R.thTripseq.key 0 0, R.thTripAtsLo.key 0 0, R.thTripAtsHi.key 0 0, R.thTripInfo.key 0 0, R.timStat.key 0 0]

/-- The MRAM store after MP memory is lost: the open profile write and the live ledger are gone. -/
def storeKept (t : Store) : Store :=
  { t with profOpen := none, ledger := [(0, 1#32)], sinceWrite := 0, lowAvg := none,
           journal := { t.journal with held := [], memOnly := 0 } }

/-- What start-up keeps of the identity and firmware unit: pins, fuses and the boot flash. -/
def bootKept (b : Boot) : Boot :=
  { Boot.reset with pwrOk := b.pwrOk, resetN := b.resetN, oscHold := b.oscHold, flash0 := b.flash0, flash1 := b.flash1,
                    selMagic := b.selMagic, selPref := b.selPref, ownerFused := b.ownerFused, svSteps := b.svSteps,
                    powerCycle := b.powerCycle, drawn := b.drawn }

/-- Everything outside the always-on domain reset; with `ao` false the always-on state is lost too (R545). -/
def resetAll (ao : Bool) (s : State) : State :=
  { State.reset with
    variant := s.variant, pending := s.pending, freeCtr := s.freeCtr,
    regs := if ao then s.regs.filter fun e => aoKeys.contains e.1 else [],
    th := if ao then { s.th with injEnd := [], failed := [], hbmHot := false } else Thermal.reset,
    host := { HostLink.reset with i3cStatic := s.host.i3cStatic, gpioIn := s.host.gpioIn, fcIn := s.host.fcIn },
    store := storeKept s.store, boot := bootKept s.boot,
    gov := Gov.reset s.variant }

/-- The thermal state TSTATE: 0 RUN, 1 TRIPPED, 2 LOCKED, 3 RESTARTING. -/
def tstate (s : State) : Nat := rdF s R.thStat 0 0 28 27

/-- The reset of everything outside domain 38, the thermal state kept. -/
def resetCore (s : State) : State :=
  let t := tstate s
  wrF (resetAll true s) R.thStat 0 0 28 27 t

/-- `ALERT_N` is asserted (low): WARN, THROT or LOCKED (R541). -/
def alertLow (s : State) : Bool := rdB s R.thStat 0 0 18 || rdB s R.thStat 0 0 19 || decide (tstate s = 2)

/-- `THERMTRIP_N` is low: from the trip to the release of the internal reset (R544, R545). -/
def thermTripLow (s : State) : Bool := decide (tstate s ≠ 0)

end Sys2Proof.Machine
end

