-- ==== Sys2Proof/Machine/Identity.lean ====
section
/-! DEFINITION. Burgee identity, firmware images, tokens and the commands of R604–R611. -/

namespace Sys2Proof.Machine

def setBoot (s : State) (f : Boot → Boot) : State := { s with boot := f s.boot }

/-- Boot phases of `BOOT_STAT` (R603). -/
def phase (s : State) : Nat := rdF s R.bootStat 0 0 2 0
def setPhase (s : State) (p : Nat) : State := wrF s R.bootStat 0 0 2 0 p

/-- The source strap as sampled: 0 QSPI, 1 PCIE_PUSH, 2 LACE, 3 HOLD (R583). -/
def bootSrc (s : State) : Nat := rdF s R.bootStat 0 0 4 3

/-- Urvar accepts commands (R491). -/
def fwUp (s : State) : Bool := rdB s R.pnStat 0 0 16

/-- SECVER: the fused counter with the steps blown since (R589). -/
def secverOf (s : State) : Nat := Nat.min 64 (Config.secver + s.boot.svSteps)

/-- Words i to i + n − 1 of an image. -/
def imgWords (img : List W32) (i n : Nat) : List W32 := (img.drop i).take n

def imgLen (img : List W32) : Nat := (nth img 1 0).toNat
def imgSvn (img : List W32) : Nat := fld (nth img 2 0) 6 0
def imgVersion (img : List W32) : W32 := nth img 3 0
def imgPayload (img : List W32) : List W32 := (img.drop 128).take (imgLen img / 4)

/-- The digest that the image signatures and the measurement log take: SHA-384 of header words 0–67 (R588, R595). -/
def imgDigest (img : List W32) : List Byte := sha384 (wordBytes (imgWords img 0 68))

/-- Check 2 of R590: MAGIC, VER and reserved words; LEN, ENTRY and SVN in range. -/
def imgFormat (img : List W32) : Bool :=
  let w0 := nth img 0 0
  let entry := (nth img 4 0).toNat
  decide (fld w0 15 0 = 0x5552) && decide (fld w0 19 16 = 1) && decide (fld w0 31 20 = 0) &&
  decide (imgLen img % 64 = 0) && decide (64 ≤ imgLen img) && decide (imgLen img ≤ 3145728) &&
  decide ((nth img 2 0).toNat ≤ 64) && decide (entry % 4 = 0) && decide (entry < imgLen img) &&
  (imgWords img 5 3).all (fun w => decide (w = 0)) && (imgWords img 116 12).all (fun w => decide (w = 0))

/-- The first failing check of R590 as its code, 0 when the image verifies. -/
def verifyCode (s : State) (img : List W32) (clean : Bool) : Nat :=
  let vkey := imgWords img 20 24
  let okey := imgWords img 44 24
  let d := imgDigest img
  if !clean || decide (img.length < 128) then 9
  else if !imgFormat img then 1
  else if img.length < 128 + imgLen img / 4 then 9
  else if sha384w (wordBytes vkey) ≠ Config.vendorKeyHash then 3
  else if !ecdsaOk vkey (imgWords img 68 24) d then 4
  else
    let owner : Nat := match s.boot.ownerFused with
      | none => 0
      | some h => if sha384w (wordBytes okey) ≠ h then 5 else if !ecdsaOk okey (imgWords img 92 24) d then 6 else 0
    if owner ≠ 0 then owner
    else if imgWords img 8 12 ≠ sha384w (wordBytes (imgPayload img)) then 7
    else if imgSvn img < secverOf s then 8
    else 0

/-- The status that `FW_ACTIVATE` gives a failed verification (R607); a fetch or format failure, which its table does not
list, is an integrity failure.
DEDUCED, safe: log entry 101. -/
def verifyStatus (code : Nat) : Status :=
  if 3 ≤ code ∧ code ≤ 6 then .authFail else if code = 8 then .late else .integrity

/-- The running image's registers: `FW_VER` and the SVN of `SEC_STAT`. -/
def showImage (s : State) : State :=
  let s1 := wr s R.fwVer 0 0 (imgVersion s.boot.running)
  wr s1 R.secStat 0 0 (packF [(0, secverOf s1), (7, imgSvn s1.boot.running)])

/-- Measurement entries 1 and 3 taken anew (R595). -/
def measure (s : State) : State :=
  setBoot s fun b => { b with
    meas1 := bytesWords 12 (imgDigest b.running),
    meas3 := [w32 (secverOf s), w32 (imgSvn b.running)] ++ List.replicate 10 0 }

/-- Entry 4: the digest of the boot profile in force, which is that of its packets; 0 if none.
DEDUCED, unsafe: log entry 187. -/
def measureProfile (s : State) : State :=
  let p := match s.store.profSel with
    | some 0 => s.store.profA
    | some _ => s.store.profB
    | none => none
  setBoot s fun b => { b with meas4 := match p with
    | none => List.replicate 12 0
    | some f => sha384w f.bytes }

/-! ## Identity -/

/-- BIND: the first 8 bytes of the SHA-384 of the Burgee public key (R593). -/
def bindWords : List W32 := (sha384w (wordBytes Config.burgeeKey)).take 2

def zeros (n : Nat) : List W32 := List.replicate n 0#32

/-- The words of a list, padded with zeros to n. -/
def padTo (n : Nat) (l : List W32) : List W32 := (l ++ zeros n).take n

/-- The value of measurement-log entry i (R595). -/
def measEntry (s : State) (i : Nat) : List W32 :=
  match i with
  | 0 => sha384w Config.bootRom
  | 1 => padTo 12 s.boot.meas1
  | 2 => sha384w (wordBytes (padTo 12 Config.vendorKeyHash ++ padTo 12 (s.boot.ownerFused.getD [])))
  | 3 => padTo 12 s.boot.meas3
  | 4 => padTo 12 s.boot.meas4
  | _ => padTo 12 [w32 s.boot.sticky]

/-- Log entries of given indexes, 13 words each. -/
def measLog (s : State) (is : List Nat) : List W32 := is.flatMap fun i => w32 i :: measEntry s i

/-! ## Firmware commands (R604–R607) -/

/-- `FW_STATUS` (R604). -/
def fwStatus (q : Req) (s : State) : Done :=
  if q.params.length ≠ 0 then done s .badParam
  else
    let got := match s.boot.staging with
      | none => 0xFFFFFFFF#32
      | some g => w32 (4 * g.words.length)
    doneW s [rd s R.bootStat, rd s R.fwVer, rd s R.secStat, rd s R.bootErr, imgVersion s.boot.other, got,
      packF [(0, s.boot.profRun), (16, b2n s.boot.profBad)],
      packF [(0, s.boot.profFail), (16, statNum s.boot.profStat)]]

/-- `FW_UPDATE_BEGIN` (R605). -/
def fwUpdateBegin (q : Req) (s : State) : Done :=
  let len := (par q 0).toNat
  if q.params.length ≠ 1 then done s .badParam
  else if 3146240 < len then done s .lengthRange
  else if len < 576 ∨ len % 64 ≠ 0 then done s .badParam
  else if s.boot.activating then done s .state
  else done (setBoot s fun b => { b with staging := some { len := len, words := [] } }) .ok

/-- Words laid into a sparse store from word index i on. -/
def layWords (m : List (Nat × W32)) (i : Nat) : List W32 → List (Nat × W32)
  | [] => m
  | w :: ws => layWords (putKey m i (some w)) (i + 1) ws

/-- `FW_UPDATE_DATA` (R606). -/
def fwUpdateData (q : Req) (s : State) : Done :=
  let off := (par q 0).toNat
  let data := q.params.drop 1
  if q.params.length < 2 ∨ 1020 < q.params.length ∨ off % 4 ≠ 0 then done s .badParam
  else match s.boot.staging with
    | none => done s .state
    | some g =>
      if g.len < off + 4 * data.length then done s .lengthRange
      else done (setBoot s fun b => { b with staging := some { g with words := layWords g.words (off / 4) data } }) .ok

/-- The image that a complete staging memory holds. -/
def stagedImage (g : Staging) : List W32 := g.words.map fun e => e.2

/-- The acting masthead has a domain commit in progress (R607). -/
def mastheadBusy (s : State) : Bool := s.pn.held.any fun h => decide (h.opcode = 0x0608)

/-- The flash slot that an ACTIVATE writes: the one not running (R599). -/
def writeFlash (s : State) (img : List W32) : State :=
  if bootSrc s ≠ 0 then s
  else if rdB s R.bootStat 0 0 7 then setBoot s fun b => { b with flash0 := img }
  else setBoot s fun b => { b with flash1 := img }

/-- Both MP pairs restart: Urvar stops accepting commands and starts anew; nothing else is reset (R574, R600). -/
def restartMp (s : State) : State :=
  let s1 := wrB s R.pnStat 0 0 16 false
  setPhase (setBoot s1 fun b => { b with mpOnly := true }) 4

/-- `FW_ACTIVATE` OP ACTIVATE (R599, R607); `flashOk` is whether the flash write succeeded. On success the reply comes from
the new image at FW_UP. -/
def fwActivate (flashOk : Bool) (s : State) : Done :=
  match s.boot.staging with
  | none => done s .state
  | some g =>
    let img := stagedImage g
    if 4 * g.words.length ≠ g.len ∨ rdB s R.bootStat 0 0 8 ∨ mastheadBusy s then done s .state
    else
      let code := verifyCode s img true
      if code ≠ 0 then done (wr s R.bootErr 0 0 (packF [(0, code), (8, b2n (rdB s R.bootStat 0 0 7))])) (verifyStatus code)
      else if bootSrc s = 0 ∧ flashOk = false then done s .integrity
      else
        let s1 := writeFlash s img
        let s2 := setBoot s1 fun b => { b with other := b.running, running := img, staging := none, activating := true }
        let s3 := wrB (wrB s2 R.bootStat 0 0 8 true) R.bootStat 0 0 9 false
        let s4 := if bootSrc s = 0 then wrB s3 R.bootStat 0 0 7 (!(rdB s R.bootStat 0 0 7)) else s3
        holding (showImage (restartMp s4))

/-- `FW_ACTIVATE` OP CONFIRM (R599, R607); a change of SECVER is measured (R595).
DEDUCED, safe: log entry 188. -/
def fwConfirm (raise_ : Bool) (s : State) : Done :=
  let trial := rdB s R.bootStat 0 0 8
  if !trial && !raise_ then done s .state
  else
    let slot := rdB s R.bootStat 0 0 7
    let s1 := if trial && decide (bootSrc s = 0) then setBoot s fun b => { b with selMagic := 0x5345, selPref := slot } else s
    let s2 := wrB s1 R.bootStat 0 0 8 false
    let run := s2.boot.running
    let s3 := if trial then log s2 0x30 0
        ([packF [(0, b2n slot), (1, 1)], imgVersion run, w32 (imgSvn run)] ++ bytesWords 12 (imgDigest run)) else s2
    let up := raise_ && decide (secverOf s3 < imgSvn run)
    let s4 := if up then setBoot s3 fun b => { b with svSteps := b.svSteps + (imgSvn run - secverOf s3) } else s3
    let s5 := if up then log s4 0x31 0 [w32 (secverOf s4)] else s4
    done (if up then measureProfile (measure (showImage s5)) else s5) .ok

/-- `FW_ACTIVATE` (0x0D04): word 0 [0] OP and [1] RAISE (R607). -/
def fwActivateCmd (q : Req) (s0 : State) : Done :=
  let flashOk := !s0.boot.flashBad
  let s := setBoot s0 fun b => { b with flashBad := false }
  let w := par q 0
  if q.params.length ≠ 1 ∨ !onlyBits w 3#32 then done s .badParam
  else if bit w 0 then fwConfirm (bit w 1) s
  else if bit w 1 then done s .badParam
  else fwActivate flashOk s

/-! ## Identity commands (R608–R611) -/

/-- `ID_CERT_READ` (R608). -/
def idCertRead (q : Req) (s : State) : Done :=
  let off := (par q 0).toNat
  let n := (par q 1).toNat
  if q.params.length ≠ 2 ∨ off % 4 ≠ 0 ∨ n < 4 ∨ 200 < n ∨ n % 4 ≠ 0 then done s .badParam
  else if !s.store.copy0 && !s.store.copy1 then done s .integrity
  else
    let bs := (Config.certChain.drop off).take n
    doneW s (w32 Config.certChain.length :: bytesWords 50 bs)

/-- `ATTEST` (R609): OP 0 QUOTE and OP 1 LOG. -/
def attest (q : Req) (s : State) : Done :=
  let w := par q 0
  let first := fld w 3 1
  if !onlyBits w 0xF#32 then done s .badParam
  else if bit w 0 then
    if q.params.length ≠ 1 ∨ 5 < first then done s .badParam
    else doneW s (measLog s ((List.range 6).filter fun i => decide (first ≤ i) && decide (i ≤ first + 3)))
  else
    if q.params.length ≠ 9 ∨ first ≠ 0 then done s .badParam
    else
      let logW := measLog s (List.range 6)
      doneW s ([6#32] ++ sha384w (wordBytes logW) ++ Config.burgeeSign (sha384w (wordBytes (q.params.drop 1 ++ logW))))

/-- `OWNER_KEY_INSTALL` (R610). -/
def ownerKeyInstall (q : Req) (s : State) : Done :=
  let key := q.params.take 24
  if q.params.length ≠ 48 then done s .badParam
  else if s.boot.ownerFused.isSome then done s .state
  else if !ecdsaOk Config.ownerInstallKey (q.params.drop 24) (sha384 (wordBytes (key ++ bindWords))) then done s .authFail
  else
    let h := sha384w (wordBytes key)
    let s1 := wrB (setBoot s fun b => { b with ownerFused := some h }) R.bootStat 0 0 10 true
    done (log s1 0x32 0 h) .ok

/-! ## Tokens (R597, R598, R611) -/

/-- Issue a challenge nonce for KIND 1 or 2: it replaces the one outstanding (R598). -/
def challenge (kind : Nat) (s : State) : Done :=
  let n := (Config.nonce s.boot.drawn).toNat
  doneW (setBoot s fun b =>
    if kind = 1 then { b with nonce1 := some n, drawn := b.drawn + 1 } else { b with nonce2 := some n, drawn := b.drawn + 1 })
    [lo32 n, hi32 n]

/-- The nonce outstanding for a KIND. -/
def nonceOf (s : State) (kind : Nat) : Option Nat := if kind = 1 then s.boot.nonce1 else s.boot.nonce2

/-- The nonce of a KIND used up. -/
def spend (s : State) (kind : Nat) : State :=
  setBoot s fun b => if kind = 1 then { b with nonce1 := none } else { b with nonce2 := none }

/-- With an owner key fused, the token's owner signature fails (R597). -/
def ownerTokenBad (s : State) (tok : List W32) (d : List Byte) : Bool :=
  let okey := imgWords s.boot.running 44 24
  match s.boot.ownerFused with
  | none => false
  | some h => decide (sha384w (wordBytes okey) ≠ h) || !ecdsaOk okey (tok.drop 32) d

/-- A token's status for a KIND (R597, R598, R611): the signatures verify with the running image's keys, whose hashes are
the fused ones. -/
def tokenStatus (s : State) (kind : Nat) (tok : List W32) : Status :=
  let w0 := nth tok 0 0
  let scope := fld w0 31 24
  let body := tok.take 8
  let d := sha384 (wordBytes body)
  match nonceOf s kind with
  | none => .state
  | some n =>
    if fld w0 15 0 ≠ 0x544B ∨ fld w0 19 16 ≠ 1 ∨ fld w0 23 20 ≠ kind ∨
        (if kind = 1 then 3 < scope else 1 < scope) ∨ nth tok 6 0 ≠ 0 ∨ nth tok 7 0 ≠ 0 then .badParam
    else if (tok.drop 1).take 2 ≠ bindWords ∨ (tok.drop 3).take 2 ≠ [lo32 n, hi32 n] ∨
        !ecdsaOk (imgWords s.boot.running 20 24) ((tok.drop 8).take 24) d ∨
        ownerTokenBad s tok d then .authFail
    else if nth tok 5 0 ≠ 0 ∧ timState s ≠ 0 ∧ (nth tok 5 0).toNat < gpsSeconds s % 2 ^ 32 then .late
    else .ok

/-- OP OPEN of `DEBUG_UNLOCK` and `DIAG_SESSION` (R611): every outcome is recorded in an UNLOCK record. -/
def openToken (kind : Nat) (q : Req) (tok : List W32) (s : State) : Done :=
  let want := if s.boot.ownerFused.isSome then 56 else 32
  if tok.length ≠ want then done s .badParam
  else
    let st := tokenStatus s kind tok
    let scope := fld (nth tok 0 0) 31 24
    let s1 := log s 0x33 0 [packF [(0, kind), (4, scope), (12, statNum st)], nth tok 3 0, nth tok 4 0, w32 q.stream.val]
    let s2 := if st = .state ∨ st = .badParam then s1 else spend s1 kind
    if st ≠ .ok then done s2 st
    else if kind = 1 then
      done (wrB (setBoot s2 fun b => { b with unlock := some scope, sticky := if b.sticky % 2 = 0 then b.sticky + 1 else b.sticky })
        R.bootStat 0 0 11 true) .ok
    else
      done (wrB (setBoot s2 fun b => { b with diag := some q.stream.val, sticky := if b.sticky / 2 % 2 = 0 then b.sticky + 2 else b.sticky })
        R.bootStat 0 0 12 true) .ok

/-- Debug access has ended (R598): no debugger is attached to a core, none is asked for, and none is halted.
DEDUCED, unsafe: log entry 133. -/
def detachAll (s : State) : State :=
  (s.cores.map fun e => e.1).foldl (fun a k =>
    putCore a (k / 8) (k % 8) { coreOf a (k / 8) (k % 8) with debug := false, dbgReq := false, halted := false }) s

/-- OP CLOSE: the unlock or the session ends. -/
def closeToken (kind : Nat) (s : State) : Done :=
  if kind = 1 then done (wrB (setBoot (detachAll s) fun b => { b with unlock := none }) R.bootStat 0 0 11 false) .ok
  else done (wrB (setBoot s fun b => { b with diag := none }) R.bootStat 0 0 12 false) .ok

/-- `DEBUG_UNLOCK` (KIND 1) and `DIAG_SESSION` (KIND 2): word 0 [1:0] OP. -/
def tokenCmd (kind : Nat) (q : Req) (s : State) : Done :=
  let w := par q 0
  if !onlyBits w 3#32 ∨ q.params.length = 0 then done s .badParam
  else match fld w 1 0 with
    | 0 => if q.params.length = 1 then challenge kind s else done s .badParam
    | 1 => openToken kind q (q.params.drop 1) s
    | 2 => if q.params.length = 1 then closeToken kind s else done s .badParam
    | _ => done s .badParam

end Sys2Proof.Machine
end

