-- ==== Sys2Proof/Machine/Lace.lean ====
section
/-! DEFINITION. The Lace domain: ports, joining and leaving, the ring bypass, the Hoist, remote packets and the Lace
commands (R438–R476). -/

namespace Sys2Proof.Machine

/-! ## The ring bypass (R455–R457) -/


/-- A lane that is UP or in electrical idle retrains; one that is in an attempt begins afresh. -/
def laneAfresh (s : State) (n : Nat) : State :=
  if laneState s n = 7 ∨ laneState s n = 10 then retrainLane s n else if inAttempt s n then beginAttempt s n true else s

/-- A port whose lanes have begun afresh has no handshake or splice any more. -/
def portAfresh (s : State) (p : Nat) : State :=
  portSync (if portState s p = 5 then setPortState (linkDrop s p) p 1 else s) p

/-- The eight lanes of a bypass group (R455). -/
def groupLanes (k : Nat) : List Nat := (List.range 8).map fun i => 224 + 8 * k + i

/-- The switch of group k closes: the group is not joined, and its lanes, those outside the ring pair too, train receive-only
(R455). -/
def closeGroup (s : State) (k : Nat) : State :=
  let s1 := wrB (wrB s R.ldBypass 0 0 k true) R.ldBypass 0 0 (4 + k) false
  let s2 := setLace s1 fun l => { l with splicing := if l.splicing = some k then none else l.splicing, leaving := l.leaving.filter fun x => decide (x ≠ k) }
  let s3 := (groupLanes k).foldl laneAfresh s2
  hoistFix ((groupLanes k).foldl linkSync ((ringPorts s3 k).foldl portAfresh s3))

/-- Every switch closes at once: loss of power, reset, thermal shutdown (R455, R457). -/
def closeAll (s : State) : State := (List.range 4).foldl (fun a k => if groupClosed a k then a else closeGroup a k) s

/-! ## Joining (R439, R456, R469) -/

/-- The device is joined under an ID. -/
def becomeJoined (s : State) (id mh epoch : Nat) (act : Nat) : State :=
  let s1 := wrF (wrB (wrF s R.ldId 0 0 15 0 id) R.ldId 0 0 16 true) R.ldId 0 0 20 19 act
  raise (wr s1 R.ldDom 0 0 (packF [(0, mh), (16, epoch)])) E.ld 0 0

/-- The device is not joined any more (R438, R466): the Hoist is lost (R33). -/
def becomeLeft (s : State) : State :=
  let s1 := wr s R.ldId 0 0 (rd s R.ldId &&& 0x00060000#32)
  let s2 := wr (wr (loseRef (wr s1 R.ldDom 0 0 0) 0) R.ldHoist 0 0 0xF#32) R.ldHerr 0 0 0xFFFF#32
  let s3 := (List.range 32).foldl (fun a p => wrB a R.lcStat p 0 3 false) s2
  raise (setLace s3 fun l => { l with members := [], standby := none, called := false, tset := false, deep := false }) E.ld 0 1

/-- The masthead's air-time becomes the Hoist (R458): depth 0, and the Hoist bit of its own REF_EN clears (R33). -/
def beMasthead (s : State) : State :=
  let s1 := (List.range 32).foldl (fun a p => wrB a R.lcStat p 0 3 false) (setLace s fun l => { l with called := false })
  considerRefs (wrB (wr (wr s1 R.ldHoist 0 0 0) R.ldHerr 0 0 0) R.atCtl 0 0 0 false)

/-- A join ends with a status (R469). -/
def joinEnd (s : State) (j : LJoin) (st : Status) : State :=
  endHeld (setLace s fun l => { l with join := none, splicing := none, tset := if st = .ok then j.tset else l.tset }) 0x0602 j.req st []

def setJoin (s : State) (j : LJoin) : State := setLace s fun l => { l with join := some j }

/-- The join goes on: the next group of BGMASK is spliced, or it ends `OK`. -/
def joinRest (s : State) (j : LJoin) : State :=
  match j.todo with
  | [] => joinEnd s j .ok
  | k :: r => setLace (setJoin s { j with todo := r, stage := 2 }) fun l => { l with splicing := some k }

/-- The device asks the masthead for its ID (message 1: the ID, whether it is strapped STANDBY). -/
def joinAsk (s : State) (j : LJoin) : State :=
  laceMsg (setJoin s { j with stage := 1 }) 1 0 [packF [(0, j.devid), (16, b2n (decide (rdF s R.ldId 0 0 18 17 = 1)))]]

/-- A cell of the device is not FREE. -/
def anyCell (s : State) : Bool := !s.cord.cells.isEmpty

/-! ## Leaving (R438, R457, R470) -/

/-- LEAVE goes to both neighbours of a group. -/
def sayLeave (s : State) (k : Nat) : State :=
  (ringPorts s k).foldl (fun a p => if portState a p = 3 then sendBlock a p tEIE (0x4C454156#32 :: List.replicate 15 0#32) else a) s

/-- The handshake of a port ends: its lanes begin afresh. -/
def endPort (s : State) (p : Nat) : State :=
  if portState s p = 3 ∨ portState s p = 4 then linkLost s p
  else if portState s p = 2 ∨ portState s p = 5 then portAfresh ((portLanes s p).foldl laneAfresh s) p
  else s

/-- The domain is left: the handshake of every port ends (R470). -/
def leaveDomain (s : State) : State := becomeLeft ((List.range 32).foldl endPort s)

/-- Groups leave their rings, and with `all` the device its domain. A group in its splice completes that first (R476). -/
def startLeave (s : State) (groups : List Nat) (all : Bool) : State :=
  let s1 := (groups.filter fun k => decide (s.lace.splicing ≠ some k)).foldl sayLeave s
  setLace s1 fun l => { l with leaving := (l.leaving ++ groups).dedup, leaveAll := l.leaveAll || all }

/-- Once every group is closed the leaves that wait for it end (R457). -/
def leavesEnd (s : State) : State :=
  if !s.lace.leaving.isEmpty then s
  else
    let s1 := if s.lace.leaveAll then leaveDomain (setLace s fun l => { l with leaveAll := false }) else s
    (s1.pn.held.filter fun h => decide (h.opcode = 0x0603)).foldl (fun a h => endHeld a 0x0603 h.req .ok []) s1

/-- A member has left the masthead's domain (R439). -/
def departed (s : State) (dev : Nat) : State :=
  if acting s ≠ 2 then s
  else setLace s fun l => { l with members := l.members.filter fun m => decide (m.1 ≠ dev), standby := if l.standby = some dev then none else l.standby }

/-- `LACE_JOIN` (R469). -/
def laceJoin (q : Req) (s : State) : Done :=
  if !wellFormed q.params [0x001FFFFF#32] then done s .badParam
  else
    let w := par q 0
    let strap := rdF s R.ldId 0 0 18 17
    let groups := (List.range 4).filter fun k => bit w (17 + k) && !groupJoined s k
    let path := (List.range 32).any fun p => decide (portState s p = 3) && !portRing s p && rdB s R.lcStat p 0 21
    let j : LJoin := { req := q, devid := fld w 15 0, tset := bit w 16, todo := groups, did := [], stage := 0 }
    if joined s ∨ s.lace.join.isSome ∨ strap = 3 ∨ (bit w 16 = true ∧ anyCell s = true) then done s .state
    else if strap = 2 then
      let s1 := beMasthead (becomeJoined s j.devid j.devid 1 2)
      if groups.isEmpty then done (setLace s1 fun l => { l with tset := j.tset }) .ok
      else holding (joinRest s1 j)
    else if path then holding (joinAsk s j)
    else match groups with
      | [] => done s .state
      | k :: r => holding (setLace (setJoin s { j with todo := r }) fun l => { l with splicing := some k })

/-- `JOIN_REQUEST_RX` (R439): the masthead enumerates a device that wants an ID; `standby` is its strap, `gone` the devices
whose departure the masthead has learnt since. -/
def execJoinRequestRx (want : Fin 65536) (standby : Bool) (gone : List (Fin 65536)) (s : State) : Host.Outcome State Fault Refusal :=
  .next (if acting s ≠ 2 then s else
    let s1 := gone.foldl (fun a g => departed a g.val) s
    let taken := decide (want.val = ownId s1) || s1.lace.members.any fun m => decide (m.1 = want.val)
    let s2 := if taken then s1 else setLace s1 fun l => { l with members := l.members ++ [(want.val, standby)] }
    laceMsg s2 2 want.val [packF [(0, b2n (!taken))], packF [(0, mhId s2), (16, epochNow s2)]])

/-- `JOIN_GRANT_RX` (R469, R439, R459): the masthead's answer, or its designation of the device as standby; where it names
the standby itself as the masthead, its call to hand over (R458). A device whose ID another holds leaves, as on command.
DESIGN CHOICE, safe: log entry 36. -/
def execJoinGrantRx (granted : Bool) (mh epoch : Fin 65536) (standby : Bool) (s : State) : Host.Outcome State Fault Refusal :=
  .next (match s.lace.join with
    | some j =>
      if j.stage ≠ 1 then s
      else if granted then joinRest (hoistFix (becomeJoined s j.devid mh.val epoch.val 0)) j
      else joinEnd (j.did.foldl closeGroup s) j .state
    | none =>
      if !joined s ∨ acting s = 2 then s
      else if granted then
        if acting s = 1 ∧ mh.val = ownId s then setLace s fun l => { l with called := true } else wrF s R.ldId 0 0 20 19 (b2n standby)
      else leavesEnd (startLeave s ((List.range 4).filter fun k => groupJoined s k || decide (s.lace.splicing = some k)) true))

/-- The switch of group k is open and every ring port of it is UP: the group is joined (R456). -/
def spliceDone (s : State) (k : Nat) : State :=
  let ps := ringPorts s k
  if s.lace.splicing ≠ some k ∨ groupClosed s k ∨ ps.isEmpty ∨ !ps.all fun p => decide (portState s p = 3) then s
  else
    let s0 := setLace (wrB s R.ldBypass 0 0 (4 + k) true) fun l => { l with splicing := none }
    let s1 := if s0.lace.leaving.contains k then sayLeave s0 k else s0
    match s1.lace.join with
    | none => s1
    | some j =>
      let j1 := { j with did := j.did ++ [k] }
      if j.stage = 0 then joinAsk s1 j1 else joinRest s1 j1

def spliceCheck (s : State) : State := match s.lace.splicing with
  | some k => spliceDone s k
  | none => s

/-- `HSK_RX` (R443, R456); the splice in progress goes on where it completes a handshake. -/
def execHskRx (p : Fin 32) (b : Block) (s : State) : Host.Outcome State Fault Refusal :=
  .next (spliceCheck (hoistFix (hskRx s p.val b)))

/-- The transmitters of a ring port send the exit burst and go on where the passing traffic stood (R456): its lanes take the
scrambler and stuffing state that the taps of the other side observed in state s. -/
def resumeTap (s a : State) (p : Nat) : State :=
  match pairOf s p with
  | none => a
  | some q => ((portLanes s p).zip (portLanes s q)).foldl (fun t e =>
      let y := laneSt s e.2
      modLaneSt t e.1 fun x => { x with txScr := y.rxScr, txRun := y.rxRun, line := x.line ++ exitBurst false }) a

/-- `SPLICE` (R456): the switch of group k opens at a marker boundary, its taps in receive-only sync on both sides;
`west` and `east` are the sequence numbers that the taps expect next on each side. -/
def execSplice (k : Fin 4) (west east : Fin 256) (s : State) : Host.Outcome State Fault Refusal :=
  .next (
    let ps := ringPorts s k.val
    let ready := !ps.isEmpty && ps.all fun p => (portLanes s p).all fun n => decide (laneState s n = 6)
    if s.lace.splicing ≠ some k.val ∨ !groupClosed s k.val ∨ !ready then s
    else
      let s1 := wrB s R.ldBypass 0 0 k.val false
      ps.foldl (fun a p =>
        let onWest := decide (rdF a R.lcCfg p 0 7 0 / 4 = 56 + 2 * k.val)
        let tap := if onWest then west.val else east.val
        let a1 := modPort (setPortState (resumeTap s a p) p 5) p fun x => { x with rxSeq := tap, txSeq := if onWest then east.val else west.val }
        sendBlock a1 p tHSK (hskPayload a1 p (some tap))) s1)

/-- `SPLICE_TIMEOUT` (R456): the splice has not reached UP within 20 µs; the switch closes again, the join ends `TIMEOUT`. -/
def execSpliceTimeout (k : Fin 4) (s : State) : Host.Outcome State Fault Refusal :=
  .next (if s.lace.splicing ≠ some k.val then s else
    let s1 := closeGroup s k.val
    leavesEnd (match s1.lace.join with
      | none => s1
      | some j => joinEnd s1 j .timeout))

/-- `LACE_LEAVE` (R470, R457). -/
def laceLeave (q : Req) (s : State) : Done :=
  if !wellFormed q.params [0x1F#32] then done s .badParam
  else if !joined s then done s .state
  else
    let w := par q 0
    let groups := (List.range 4).filter fun k => (bit w k || bit w 4) && (groupJoined s k || decide (s.lace.splicing = some k))
    if bit w 4 = true ∧ acting s = 2 ∧ s.lace.members ≠ [] then done s .notPermitted
    else
      let s1 := startLeave s groups (bit w 4)
      let s2 := if bit w 4 = true ∧ acting s ≠ 2 then laceMsg s1 3 (mhId s) [0x4C454156#32, w32 (ownId s)] else s1
      holding (leavesEnd s2)

/-- `BYPASS_CLOSE_LEAVE` (R457): at the next marker boundary the switch closes; a splice of the group completes first. -/
def execBypassCloseLeave (k : Fin 4) (s : State) : Host.Outcome State Fault Refusal :=
  .next (if !s.lace.leaving.contains k.val ∨ s.lace.splicing = some k.val then s else leavesEnd (closeGroup s k.val))

/-! ## Markers and the Hoist (R458–R463) -/


/-- A higher epoch is adopted with its masthead (R459). A masthead that yields becomes a member, sets the Hoist bit of its
REF_EN and raises EPOCH_CHANGE; the device asks the new masthead to enumerate it. -/
def adoptEpoch (s : State) (mh epoch : Nat) : State :=
  let was := acting s
  let s1 := setLace (wr s R.ldDom 0 0 (packF [(0, mh), (16, epoch)])) fun l => { l with called := false }
  let s2 := if was = 2 then raise (wrB (wrF (setLace s1 fun l => { l with members := [], standby := none }) R.ldId 0 0 20 19 0) R.atCtl 0 0 0 true) E.ld 0 3 else s1
  let s3 := if was = 2 then wr (wr s2 R.ldHoist 0 0 0xF#32) R.ldHerr 0 0 0xFFFF#32 else s2
  laceMsg s3 1 mh [packF [(0, ownId s), (16, b2n (decide (rdF s R.ldId 0 0 18 17 = 1)))]]

/-- A halved difference in Tc: where it is odd the manual does not say how it is rounded; a free value chooses.
DESIGN CHOICE, safe: log entry 94. -/
def halfTc (s : State) (x : Int) : Int × State :=
  if x % 2 = 0 then (x / 2, s)
  else
    let (f, s1) := drawFree s
    (x / 2 + (if f.getLsbD 0 then 1 else 0), s1)

/-- The upstream's marker gives theta and delay (R462); the Hoist may qualify (R463). -/
def hoistMeasure (s : State) (p : Nat) (b : List W32) (stamp : W64) : State :=
  let w (k : Nat) : W32 := nth b k 0
  match (portOf s p).sentMk.find? fun m => decide (m.1 = fld (w 7) 11 0) with
  | none => s
  | some (_, t3) =>
    let d21 := (stamp.toNat : Int) - (pair64 (w 3) (w 4) : Int)
    let d43 := (pair64 (w 5) (w 6) : Int) - (t3.toNat : Int)
    let (theta, s1) := halfTc s (d21 - d43 - sext 32 (rd s R.lcAsym p).toNat)
    let (delay, s2) := halfTc s1 (d21 + d43)
    let s3 := modPort s2 p fun x => { x with thetas := (theta :: x.thetas).take 4, delay := delay }
    let s4 := if refInUse s3 = 1 then phaseMeasured s3 theta (rd s3 R.atFreqOff) else s3
    if hoistGood s4 && !rdB s4 R.ldHoist 0 0 9 then qualifyRef s4 0 else s4

/-- A good marker arrived at an UP port.
DESIGN CHOICE, unsafe: log entry 18. -/
def markerTake (s : State) (p : Nat) (b : List W32) (stamp : W64) : State :=
  let w (k : Nat) : W32 := nth b k 0
  let mh := fld (w 0) 15 0
  let ep := fld (w 0) 31 16
  let s1 := modPort s p fun x => { x with lastMk := some (fld (w 1) 31 20, stamp) }
  let s2 := wrB (wrB (wrF s1 R.lcStat p 0 20 5 (fld (w 1) 15 0)) R.lcStat p 0 21 (decide (ep ≠ 0))) R.lcStat p 0 4 (bit (w 8) 16)
  if !joined s2 ∨ ep = 0 then s2
  else
    let s3 := if epochNow s2 < ep then adoptEpoch s2 mh ep else s2
    if ep < epochNow s3 then modPort s3 p fun x => { x with pmark := none }
    else
      let old := (portOf s3 p).pmark
      let beat := (w 2).toNat
      let alike := match old with
        | some (_, _, _, _, _, z) => decide (z = beat)
        | none => false
      let s4 := modPort s3 p fun x => { x with
        pmark := some (mh, ep, fld (w 1) 15 0, fld (w 1) 19 16, fld (w 8) 15 0, beat), same := if alike then x.same + 1 else 0 }
      let s5 := hoistFix s4
      if upstream s5 ≠ some p then s5
      else hoistMeasure (takeDepth (setLace s5 fun l => { l with beat := beat }) (fld (w 1) 19 16) (fld (w 8) 15 0)) p b stamp

/-- `MARKER_RX` (R442, R459–R463): a marker on one lane of a port; the port's own period ends beside it.
The markers of a period on the other lanes are copies, told by their MSEQ. -/
def execMarkerRx (p : Fin 32) (b : Block) (stamp : BitVec 64) (s : State) : Host.Outcome State Fault Refusal :=
  .next (
    let (s1, t) := recvBlock s p.val b
    let copy := decide (1 < portWidth s p.val) && decide (t = some tMARKER) &&
      decide ((portOf s p.val).lastMk.map (fun m => m.1) = some (fld (nth b.payload 1 0) 31 20))
    let s2 := if portState s1 p.val = 3 ∧ copy = false then periodEnd s1 p.val else s1
    if t ≠ some tMARKER ∨ portState s p.val ≠ 3 ∨ copy = true then s2
    else if (portOf s2 p.val).ignore ≠ 0 then modPort s2 p.val fun x => { x with ignore := x.ignore - 1 }
    else markerTake s2 p.val b.payload stamp)

/-- `HOIST_LOST` (R463): the markers of the upstream are missing for 3 periods; another upstream is selected (R460). -/
def execHoistLost (s : State) : Host.Outcome State Fault Refusal :=
  .next (if !joined s ∨ acting s = 2 then s else
    let s1 := match upstream s with
      | some p => modPort s p fun x => { x with pmark := none, thetas := [] }
      | none => s
    loseRef (selectUp (raise s1 E.ld 0 4)) 0)

/-- The epoch after one more change of masthead (R439). -/
def nextEpoch (e : Nat) : Nat := if e = 0xFFFF then 1 else e + 1

/-- The standby's reason to take over (R458): MH_BEAT unchanged for 3 marker periods of its upstream. Where it has no
upstream, MH_BEAT cannot change.
DEDUCED, unsafe: log entry 139. -/
def beatStands (s : State) : Bool := match upstream s with
  | some p => decide (3 ≤ (portOf s p).same)
  | none => true

/-- `MH_FAILOVER` (R458): the designated standby takes over, for want of a beat or at the masthead's call to hand over. -/
def execMhFailover (s : State) : Host.Outcome State Fault Refusal :=
  .next (if !joined s ∨ acting s ≠ 1 ∨ (s.lace.called || beatStands s) = false then s else
    let s1 := wrF (wr s R.ldDom 0 0 (packF [(0, ownId s), (16, nextEpoch (epochNow s))])) R.ldId 0 0 20 19 2
    raise (beMasthead s1) E.ld 0 2)

/-- `HOIST_ALIGN_STEP` (R464): firmware issues the alignment step that TSET asked for, for the first hyperframe boundary at
least one whole hyperframe ahead. -/
def execHoistAlignStep (s : State) : Host.Outcome State Fault Refusal :=
  .next (if !s.lace.tset ∨ !rdB s R.ldHoist 0 0 9 then s else
    let s1 := setLace s fun l => { l with tset := false }
    if anyCell s1 then s1
    else
      let n := cdiv (s1.ats.toNat + tcHyper) tcHyper
      (timeStep { stream := 10, tag := 0, note := false, crcv := false, self := true, source := 0, params := [1, 2, w32 n, 0, 0] } false s1).st)

/-! ## Remote packets (R451–R454) -/

/-- The hop list without its first hop. -/
def restHops (l : Nat) : Nat := l / 64 + 63 * 2 ^ 42

/-- The reverse list with an ingress port recorded. -/
def recordIn (p : FPkt) (ingress : Nat) : FPkt := { p with rev := (p.rev * 64 + ingress) % 2 ^ 48, nrev := Nat.min 8 (p.nrev + 1) }

/-- The export window that a request may use (R454): the internal address it reaches. -/
def exported (s : State) (p : FPkt) : Option Nat :=
  let o := p.addr % 2 ^ 31
  let n := 8 * p.len
  let word (w k : Nat) : W32 := rd s (R.exportWin k) 0 w
  ((List.range 8).find? fun w =>
    bit (word w 0) 0 && bit (word w 0) (if p.kind = .rd then 1 else 2) && decide ((word w 1).toNat ≤ o) &&
    decide (o + n ≤ (word w 1).toNat + (word w 2).toNat) && decide (fld (word w 5) 15 0 ≤ p.srcDev) && decide (p.srcDev ≤ fld (word w 5) 31 16)).map fun w =>
      pair64 (word w 3) (word w 4) % 2 ^ 48 + (o - (word w 1).toNat)

/-- Words of an answer that carries none. -/
def noData (p : FPkt) : List MWord := if p.kind = .rd then List.replicate p.len poisonW else []

/-- The image chunks of 62 words that a boot request asks for: those it lists, all where it lists none (R587). -/
def bootChunks (img : List W32) (want : List Nat) : List (Nat × List W32) :=
  ((List.range ((img.length + 61) / 62)).filter fun k => want.isEmpty || want.contains k).map fun k => (k, (img.drop (62 * k)).take 62)

/-- A message whose payload word 0 is 0x424F4F54 asks for a boot image (R587): the acting masthead sends its own running
image back, a member running Urvar passes the request on. -/
def bootRequest (s : State) (p : FPkt) : State :=
  match p.words with
  | w :: r =>
    if w.1 ≠ 0x424F4F54 ∨ w.2 = true ∨ !joined s ∨ !rdB s R.pnStat 0 0 16 then s
    else if acting s = 2 then
      (bootChunks s.boot.running (r.map fun x => x.1.toNat)).foldl (fun a c => laceMsg a 7 p.srcDev (w32 c.1 :: c.2)) s
    else laceMsg s 6 (mhId s) (0x424F4F54 :: r.map fun x => lo32 x.1.toNat)
  | [] => s

/-- A message for the Cordwainer (R300): a completion, acknowledged along the way it came (R453), or an acknowledgement. A
poisoned record is discarded. -/
def cordMessage (s : State) (p : FPkt) : State :=
  let ws := p.words.flatMap fun w => [lo32 w.1.toNat, hi32 w.1.toNat]
  if p.words.any (fun w => w.2) ∨ ws.length ≠ 4 then s
  else if p.slot = 1 then ackTake s (fld (nth ws 0 0) 15 0) (fld (nth ws 0 0) 17 16) (nth ws 1 0#32).toNat
  else
    let (s1, a) := remoteTake s ws
    let dev := fld (nth ws 0 0) 15 0
    wakeReady (laceBack s1 { p with slot := 1, words := recWords a, len := 2, addr := 2 ^ 47 + dev * 2 ^ 31, srcDev := ownId s })

/-- A request from another device is delivered on the die by the shore NI of its ingress port (R454). A message whose payload word 0
is LEAVE tells the masthead that a member has left.
DESIGN CHOICE, safe: log entry 36. -/
def remoteDeliver (s : State) (port : Nat) (p : FPkt) : State :=
  match p.kind with
  | .resp => setFab s fun f => { f with flight := f.flight ++ [{ p with at_ := 64 + p.dst }] }
  | .msg =>
    if p.vn = 2 then cordMessage s p
    else if p.words.head? = some (cleanW 0x4C454156) then departed s p.srcDev
    else bootRequest s p
  | _ => match exported s p with
    | none => if p.kind = .wrp then bump s R.lcExportDeny 0 0 1 else respond s 0 p .notPermitted (noData p)
    | some a =>
      let n := 16 + rdF s R.lcCfg port 0 7 0 / 16
      match wayOf s n a with
      | .local_ st => respond s 0 p st (noData p)
      | .miss => respond (noteMiss s n) 0 p .notPresent (noData p)
      | .absent_ => respond s 0 p .ok (if p.kind = .rd then List.replicate p.len (cleanW 0) else [])
      | .noMem => respond s 0 p .notPresent (noData p)
      | .fenced => respond (noteFenced s n) 0 p .fenced (noData p)
      | .send d e =>
        let x := mkPkt e n d p.vn p.kind p.fc a p.len p.slot p.gen p.words p.srcDev
        regulate s n { x with src := p.src, srcDev := p.srcDev, rev := p.rev, nrev := p.nrev }

/-- The device that a packet goes to: the one its address names, or for a response the initiating one. -/
def goesTo (p : FPkt) : Nat := if p.kind = .resp then p.srcDev else remoteDev p.addr

/-- The transit map of ring k has the bit of a device set. -/
def transitBit (s : State) (k dev : Nat) : Bool := bit (rd s R.transitMap k (dev / 32)) (dev % 32)

/-- A remote packet that arrived on a Lace port: the cases of R452 in order. -/
def remotePacket (s : State) (port : Nat) (p : FPkt) : State :=
  let h := p.lroute % 64
  let q := recordIn p port
  let onward (a : State) (x : Nat) : State := laceTx a x { q with lroute := restHops p.lroute }
  let unreachable (a : State) : State := if p.kind = .rd ∨ p.kind = .wr then respond a 0 q .remoteUnreachable (noData p) else a
  if joined s ∧ goesTo p = ownId s then remoteDeliver s port q
  else if portRing s port ∧ !transitBit s (portGroup s port) (goesTo p) then
    match pairOf s port with
    | some x => if portState s x = 3 then laceTx s x p else bump s R.lcCount x 8 1
    | none => bump s R.lcCount port 8 1
  else if h = 63 then unreachable s
  else if h < 32 ∧ portEn s h ∧ portRing s h ∧ portState s h ≠ 3 then
    match pairOf s h with
    | some x => onward s x
    | none => unreachable s
  else if 32 ≤ h ∨ !portEn s h ∨ (portState s h ≠ 3 ∧ portState s h ≠ 4) then unreachable s
  else onward s h

/-- `REMOTE_PACKET_RX` (R444, R452): the first complete packet received on a port; the flits it held are returned as credits. -/
def execRemotePacketRx (p : Fin 32) (s : State) : Host.Outcome State Fault Refusal :=
  .next (
    let x := portOf s p.val
    match x.rx with
    | [] => s
    | h :: _ =>
      let n := 1 + (headLen h + 7) / 8
      if x.rx.length < n then s
      else
        let lane := 2 * fld (nth h 1 0) 21 20 + (if fld (nth h 1 0) 24 22 = 4 then 1 else 0)
        let s1 := modPort s p.val fun y => { y with rx := y.rx.drop n, owed := modNth y.owed lane fun c => c + n }
        match packetOf (x.rx.take n) with
        | none => s1
        | some k => remotePacket s1 p.val k)

/-! ## The commands (R468–R476) -/

/-- RING of every enabled port (R440). -/
def ringsSync (s : State) : State :=
  let ringed (p : Nat) : Bool :=
    let c := rd s R.lcCfg p
    let quad := fld c 7 0 / 4
    bit c 11 && !bit c 10 && decide (56 ≤ quad) && (List.range 32).any fun q =>
      let d := rd s R.lcCfg q
      decide (q ≠ p) && bit d 11 && !bit d 10 && decide (fld d 9 8 = fld c 9 8) && decide (fld d 7 0 % 4 = fld c 7 0 % 4) &&
      decide (fld d 7 0 / 4 ≠ quad) && decide (56 ≤ fld d 7 0 / 4) && decide ((fld d 7 0 / 4 - 56) / 2 = (quad - 56) / 2)
  (List.range 32).foldl (fun a p => wrB a R.lcCfg p 0 12 (ringed p)) s

/-- `LACE_PORT_CONFIG` (R468). -/
def lacePortConfig (q : Req) (s : State) : Done :=
  if !wellFormed q.params [0x0003FFFF#32, 0xFFFFFFFF#32] then done s .badParam
  else
    let w := par q 0
    let p := fld w 4 0
    let lane0 := fld w 12 5
    let width := 2 ^ fld w 14 13
    let ls := (List.range width).map fun i => lane0 + i
    let l56 := bit w 15
    if fld w 14 13 = 3 ∨ lane0 % width ≠ 0 then done s .badParam
    else if !ls.all (laneHere s.variant) then done s .notPresent
    else if !(ls.all fun n => decide (laneRole s n = 2) && decide (laneRate s n = if l56 then 4 else 3)) ||
        ((List.range 32).any fun x => decide (x ≠ p) && portEn s x && ls.any fun n => (portLanes s x).contains n) ||
        portJoined s p || (portRing s p && ((pairOf s p).map (portJoined s)).getD false) then done s .state
    else
      let s0 := if bit w 16 then s else modPort s p fun x => { x with txq := [] }
      let s1 := if portState s p = 0 then s0 else raise (setPortState (linkDrop s0 p) p 0) E.lc p 1
      let cfg := packF [(0, lane0), (8, fld w 14 13), (10, b2n l56), (11, b2n (bit w 16)), (13, b2n (bit w 17))]
      let s2 := setLace (ringsSync (wr (wr s1 R.lcCfg p 0 cfg) R.lcAsym p 0 (par q 1))) fun l => { l with shown := (l.shown ++ [p]).dedup }
      done (hoistFix (portSync s2 p)) .ok

/-- `LACE_STATUS` (R471). -/
def laceStatus (q : Req) (s : State) : Done :=
  if q.params ≠ [] then done s .badParam
  else doneW s ([rd s R.ldId, rd s R.ldDom, rd s R.ldHoist, rd s R.ldHerr, rd s R.ldBypass, rd s R.ldEvt] ++ (List.range 32).map fun p => portShown s p (rd s R.lcStat p))

/-- `LACE_ROUTE_SET` (R472): the entry is written into every NI's table, with its route to the shore of the first hop's
port. -/
def laceRouteSet (q : Req) (s : State) : Done :=
  if !wellFormed q.params [0x1FF#32, 0xFFFF#32, 0xFFFFFFFF#32, 0xFFFF#32] then done s .badParam
  else
    let e := fld (par q 0) 7 0
    let l := pair64 (par q 2) (par q 3)
    let hops := (List.range 8).map fun i => l / 64 ^ i % 64
    let h := l % 64
    if e < 64 ∨ (hops.any fun x => decide (32 ≤ x) && decide (x ≠ 63)) ∨ !hops.contains 63 then done s .badParam
    else if 32 ≤ h ∨ !portEn s h then done s .state
    else
      let shore := 16 + rdF s R.lcCfg h 0 7 0 / 16
      done ((nisHere s).foldl (fun a n =>
        let r := rtEntry a n shore
        let a1 := stageRt a n e 1 r.w1
        let a2 := stageRt a1 n e 2 (setFld r.w2 31 16 (l % 2 ^ 16))
        let a3 := stageRt a2 n e 3 (w32 (l / 2 ^ 16))
        commitRt a3 n e (packF [(0, fld r.w0 3 0), (4, b2n (bit (par q 0) 8)), (7, 1), (8, niDomain shore), (16, (par q 1).toNat)])) s) .ok

/-- `LACE_EXPORT_SET` (R473). -/
def laceExportSet (q : Req) (s : State) : Done :=
  if !wellFormed q.params [0x7#32, 0x7#32, 0x7FFFFFFF#32, 0x7FFFFFFF#32, 0xFFFFFFFF#32, 0xFFFF#32, 0xFFFFFFFF#32] then done s .badParam
  else
    let w := fld (par q 0) 2 0
    let eoff := (par q 2).toNat
    let size := (par q 3).toNat
    let base := pair64 (par q 4) (par q 5)
    let word (v k : Nat) : Nat := (rd s (R.exportWin k) 0 v).toNat
    let overlap := bit (par q 1) 0 && (List.range 8).any fun v => decide (v ≠ w) && decide (word v 0 % 2 = 1) &&
      decide (eoff < word v 1 + word v 2) && decide (word v 1 < eoff + size)
    if size = 0 ∨ size % 65536 ≠ 0 ∨ eoff % 65536 ≠ 0 ∨ base % 65536 ≠ 0 ∨ isRemote base ∨ isRemote (base + size - 1) ∨
        (base < 0x050000000000 ∧ 0x040000000000 < base + size) ∨ fld (par q 6) 31 16 < fld (par q 6) 15 0 ∨ overlap then done s .badParam
    else done ((List.range 6).foldl (fun a k => wr a (R.exportWin k) 0 w (par q (1 + k))) s) .ok

/-- `LACE_TRANSIT_SET` (R474). -/
def laceTransitSet (q : Req) (s : State) : Done :=
  if !wellFormed q.params [0x7#32, 0xFFFFFFFF#32] then done s .badParam
  else
    let k := fld (par q 0) 1 0
    let a := fld (par q 1) 15 0
    let z := fld (par q 1) 31 16
    if z < a then done s .badParam
    else
      let mask (i : Nat) : W32 := w32 (2 ^ (Nat.min z (32 * i + 31) - 32 * i + 1) - 2 ^ (Nat.max a (32 * i) - 32 * i))
      done ((List.range (z / 32 + 1 - a / 32)).foldl (fun t j =>
        let i := a / 32 + j
        let old := rd t R.transitMap k i
        wr t R.transitMap k i (if bit (par q 0) 2 then old ||| mask i else old &&& ~~~mask i)) s) .ok

/-- `LACE_MASTHEAD` (R476): HANDOVER sends the designated standby its call (message 4), DESIGNATE the designation (5), which ends the
one of a standby designated before: a domain has at most one (R439). -/
def laceMasthead (q : Req) (s : State) : Done :=
  if !wellFormed q.params [0xFFFF0001#32] then done s .badParam
  else
    let dev := fld (par q 0) 31 16
    if acting s ≠ 2 then done s .notPermitted
    else match s.lace.members.find? fun m => decide (m.1 = dev) with
      | none => done s .state
      | some m =>
        if m.2 = false then done s .state
        else if bit (par q 0) 0 then
          let s1 := match s.lace.standby with
            | some old => if old = dev then s else laceMsg s 5 old [0]
            | none => s
          done (laceMsg (setLace s1 fun l => { l with standby := some dev }) 5 dev [1]) .ok
        else if s.lace.standby ≠ some dev then done s .state
        else done (laceMsg s 4 dev []) .ok

/-- `LC_INJ_ARM` (R467). -/
def execLcInjArm (w : Writer) (p : Fin 32) (v : W32) (s : State) : Host.Outcome State Fault Refusal :=
  .next (if mayInject s w then wr s R.lcInj p.val 0 (rd s R.lcInj p.val ||| (v &&& 3#32)) else s)

end Sys2Proof.Machine
end

