-- ==== Sys2Proof/Machine/Lanes.lean ====
section
/-! DEFINITION. The serial lanes: their commands, detectors, training, electrical idle and test loops (R369–R401). -/

namespace Sys2Proof.Machine

/-- What follows a change of lanes elsewhere: the Hoist upstream, and frames of MACs that are not UP. -/
def lanesMoved (s : State) : State := fhDrop (spliceCheck (hoistFix s))

/-- A row about a lane that the variant has. -/
def onLane (s : State) (n : Nat) (t : State) : Host.Outcome State Fault Refusal :=
  .next (if laneHere s.variant n then lanesMoved t else s)

/-! ## Configuration (R371–R373, R395) -/

/-- A rate code may go with a role (R371). -/
def rateFits (role rate : Nat) : Bool := match role with
  | 0 | 4 => decide (rate ≤ 4)
  | 1 => decide (rate ≤ 2)
  | 2 => decide (rate = 3) || decide (rate = 4)
  | 3 => decide (rate = 0)
  | _ => false

/-- The rate codes of a quad's non-OFF lanes, PCIE counted as one code, with roles and rates from `f`. -/
def quadCodes (s : State) (q : Nat) (f : Nat → Nat × Nat) : List Nat :=
  (((List.range 4).map fun i => 4 * q + i).filterMap fun n =>
    let (role, rate) := f n
    if !laneHere s.variant n ∨ role = 0 then none else some (if role = 3 then 8 else rate)).dedup

/-- A quad of the list breaks R373 with SSC0 and the lanes' roles from `f` and references from `g`. -/
def sscBroken (s : State) (ssc : Bool) (f : Nat → Nat) (g : Nat → Option Nat) : Bool :=
  ssc && (List.range 64).any fun q => quadHere s.variant q && decide (g q = some 0) && (List.range 4).any fun i =>
    decide (f (4 * q + i) ≠ 0) && decide (f (4 * q + i) ≠ 3)

/-- SSC0 as declared. -/
def ssc0 (s : State) : Bool := bit s.refclk 8

/-- A lane takes its configuration; a change of role or rate takes it OFF and starts it under the new role (R386). -/
def laneApply (s : State) (ctl los t0 t1 : W32) (n : Nat) : State :=
  let moved := decide (laneRole s n ≠ fld ctl 2 0) || decide (laneRate s n ≠ fld ctl 5 3)
  let s1 := if moved then laneOff s n else s
  let s2 := wr (wr (wr (wr s1 R.laneCtl n 0 ctl) R.lnLosCfg n 0 los) R.lnTrn0 n 0 t0) R.lnTrn1 n 0 t1
  if moved then linkSync (laneStart s2 n) n else s2

/-- `LANE_CONFIG` (R395). -/
def laneConfig (q : Req) (s : State) : Done :=
  if !wellFormed q.params [0x1FFFF#32, 0xFFF001FF#32, 0xFFFFFFFF#32, 0x00FFFFFF#32] then done s .badParam
  else
    let first := fld (par q 0) 7 0
    let n := fld (par q 0) 16 8
    let ctl := par q 1 &&& 0x1FF#32
    let los := packF [(0, fld (par q 1) 27 20), (8, fld (par q 1) 31 28)]
    let role := fld ctl 2 0
    let rate := fld ctl 5 3
    let ls := (List.range n).map fun i => first + i
    let f (k : Nat) : Nat × Nat := if ls.contains k then (role, rate) else (laneRole s k, laneRate s k)
    let bad := decide (n = 0) || !rateFits role rate || (decide (role = 3) && ls.any fun k => decide (16 ≤ k)) ||
      ((ls.map (· / 4)).dedup.any fun qd => decide (2 < (quadCodes s qd f).length)) ||
      !R.lnLosCfg.legal los || !R.lnTrn0.legal (par q 2) || !R.lnTrn1.legal (par q 3)
    if bad then done s .badParam
    else if 256 < first + n then done s .lengthRange
    else if !ls.all (laneHere s.variant) then done s .notPresent
    else if ls.any (carriesPcie s) then done s .notPermitted
    else if sscBroken s (ssc0 s) (fun k => (f k).1) (quadInput s) ||
        (ls.any fun k => decide (laneRole s k = 2) && ((lanePort s k).map (portJoined s)).getD false) then done s .state
    else done (lanesMoved (ls.foldl (fun a k => laneApply a ctl los (par q 2) (par q 3) k) s)) .ok

/-- `LANE_STATUS` (R396). -/
def laneStatus (q : Req) (s : State) : Done :=
  let n := fld (par q 0) 7 0
  if !wellFormed q.params [0xFF#32] then done s .badParam
  else if !laneHere s.variant n then done s .notPresent
  else doneW s [rd s R.laneStat n, rd s R.lnFreq n, rd s R.lnLast n, rd s R.lnCount n 1, rd s (R.lnCount.next 1) n 1]

/-- Lanes retrain, those of one Lace port once (R384). -/
def retrainAll (s : State) (seen : List Nat) : List Nat → State
  | [] => s
  | n :: r => if seen.contains n then retrainAll s seen r
    else retrainAll (retrainCmd s n) (if laneState s n = 7 ∨ laneState s n = 10 then laneMates s n ++ seen else seen) r

/-- `LANE_RETRAIN` (R397). -/
def laneRetrain (q : Req) (s : State) : Done :=
  let ls := (List.range (fld (par q 0) 16 8)).map fun i => fld (par q 0) 7 0 + i
  if !wellFormed q.params [0x1FFFF#32] ∨ ls = [] then done s .badParam
  else if 256 < fld (par q 0) 7 0 + ls.length then done s .lengthRange
  else if !ls.all (laneHere s.variant) then done s .notPresent
  else if ls.any fun n => decide (laneState s n = 0) || decide (laneState s n = 11) || decide (laneState s n = 12) then done s .state
  else done (lanesMoved (retrainAll s [] ls)) .ok

/-- `LANE_RETRAIN_BIT` (R394): the management processor writes RETRAIN of a lane's `SHELL_CTL`. -/
def execLaneRetrainBit (w : Writer) (n : Fin 256) (s : State) : Host.Outcome State Fault Refusal :=
  onLane s n.val (if w = .mp then retrainCmd s n.val else s)

/-! ## Detectors (R381, R382, R394) -/

/-- A detector's change while an injection forces it: none while it is forced true; its end closes an injection with a
duration. -/
def detectorChange (s : State) (n kind : Nat) (on : Bool) (act : State → Bool → State) : State :=
  if !laneForced s n kind then act s false
  else if on ∨ rdF s R.laneInj n 0 31 16 = 0 then s
  else act (wr s R.laneInj n 0 (rd s R.laneInj n &&& 0xFFFF0000#32)) true

/-- `LOS_CHANGE` (R381, R382). -/
def execLosChange (n : Fin 256) (on : Bool) (s : State) : Host.Outcome State Fault Refusal :=
  onLane s n.val (detectorChange s n.val 1 on fun t inj => losChange t n.val on inj)

/-- `LOL_CHANGE` (R381, R382). -/
def execLolChange (n : Fin 256) (on : Bool) (s : State) : Host.Outcome State Fault Refusal :=
  onLane s n.val (detectorChange s n.val 2 on fun t inj => lolChange t n.val on inj)

/-- `LANE_SHELL_INJ_ARM` (R394). -/
def execLaneShellInjArm (w : Writer) (n : Fin 256) (kind : Fin 4) (dur : Fin 65536) (s : State) : Host.Outcome State Fault Refusal :=
  onLane s n.val (if mayInject s w then laneInjArm s n.val kind.val dur.val else s)

/-- `QUAD_SHELL_INJ_ARM` (R570). -/
def execQuadShellInjArm (w : Writer) (q : Fin 64) (kind : Fin 4) (dur : Fin 65536) (s : State) : Host.Outcome State Fault Refusal :=
  .next (if mayInject s w && quadHere s.variant q.val then lanesMoved (quadInjArm s q.val kind.val dur.val) else s)

/-- `PLL_UNLOCK` (R394): a PLL of a quad loses lock, or has it again. -/
def execPllUnlock (q : Fin 64) (pll : Fin 2) (regained : Bool) (s : State) : Host.Outcome State Fault Refusal :=
  .next (if !quadHere s.variant q.val then s else
    let forced := rdB s R.quadInj q.val 0 2 && decide (rdF s R.quadInj q.val 0 1 0 = pll.val + 1)
    if regained then
      if forced ∧ rdF s R.quadInj q.val 0 31 16 = 0 then s
      else wrB (if forced then wr s R.quadInj q.val 0 (rd s R.quadInj q.val &&& 0xFFFF0000#32) else s) R.quadStat q.val 0 pll.val true
    else lanesMoved (pllLose s q.val pll.val false))

/-- `REF_LOSS` (R394): a quad's reference is lost, or present again. -/
def execRefLoss (q : Fin 64) (regained : Bool) (s : State) : Host.Outcome State Fault Refusal :=
  .next (if !quadHere s.variant q.val then s
    else if regained then wrB s R.quadStat q.val 0 2 true
    else raise (wrB s R.quadStat q.val 0 2 false) E.quad q.val 1)

/-! ## Training (R383, R384) -/

/-- The transmitter of a Lace lane in phase 5 sends SYNC blocks (R377). -/
def syncOut (s : State) (n k : Nat) : State := match lanePort s n with
  | some p => sendSync k s p n
  | none => s

/-- A Lace lane enters phase 5: its transmitter loads a seed chosen afresh and sends SYNC blocks (R377). Where the blocks of phase 4
have left the stuffing counter the manual does not say: it is free.
DESIGN CHOICE, unsafe: log entry 137. -/
def enterDescr (s : State) (n : Nat) : State :=
  let (f, s1) := drawFree s
  let (g, s2) := drawFree s1
  syncOut (modLaneSt (setLaneState s2 n 5) n fun x => { x with txScr := seedOf f, txRun := freeRun (decide (laneRate s n = 4)) g }) n 1

/-- Blocks of phases 4 and 5 as a Lace lane receives them: stuffing is checked from phase 4 on (R379). -/
def trainBlocks (s : State) (n : Nat) : List Block → State
  | [] => s
  | b :: r =>
    let (x, wrong) := lineTrain (laneSt s n) (decide (laneRate s n = 4)) b
    trainBlocks (stuffErrs (putLaneSt s n x) n wrong) n r

/-- Phase 5 of a Lace lane (R377): its transmitter sends as many SYNC blocks as have come in, whether or not its receiver is
synchronised by these.
DESIGN CHOICE, unsafe: log entry 137. -/
def descrMet (s : State) (n : Nat) (blocks : List Block) : State :=
  let s1 := syncOut s n blocks.length
  match syncOf ((blocks.filter fun b => decide ((typeOf b.typ).map (fun x => x.1) = some tSYNC)).map fun b => b.payload.flatMap bitsOf) with
  | none => s1
  | some w => modLaneSt (setLaneState s1 n 6) n fun x => { x with rxScr := w }

/-- Phase 4 of a lane is met; the lanes of a Lace port go on together. -/
def blockMet (s : State) (n : Nat) : State :=
  if laneRole s n ≠ 2 then setLaneState s n 6
  else
    let s1 := modLaneSt s n fun x => { x with blockOk := true }
    let ms := laneMates s1 n
    if ms.all fun k => decide (laneState s1 k = 4) && (laneSt s1 k).blockOk then ms.foldl enterDescr s1 else s1

/-- `TRAINING_PHASE_PASS` (R383): the lane meets the condition of its phase. `freq` is the offset measured in phase 2,
`eqv` the equaliser items converged in phase 3, `skew` whether phase 4 finds the port's lanes too far apart, `sync` the blocks that a
Lace lane received in phase 4 or 5, payload and CRC as the line had them. Stuffing begins with phase 4 (R379). A Lace lane leaves
phase 6 through its port's handshake, a lane behind a closed bypass not at all.
DESIGN CHOICE, unsafe: log entry 89. -/
def phasePass (s0 : State) (n : Nat) (freq : W32) (eqv : List W16) (skew : Bool) (sync : List Block) : State :=
  let lace := decide (laneRole s0 n = 2)
  let s := if lace ∧ (laneState s0 n = 4 ∨ laneState s0 n = 5) then trainBlocks s0 n sync else s0
  match laneState s n with
  | 1 => if rdB s R.laneStat n 0 7 then s else setLaneState s n 2
  | 2 =>
    let s1 := wr s R.lnFreq n 0 freq
    if lace ∧ 100 < (sext 32 freq.toNat).natAbs then failAttempt (raise s1 E.lane n 6) n 4 else setLaneState s1 n 3
  | 3 => modLaneSt (setLaneState s n 4) n fun x => { x with eq := eqv.take 18, txRun := (0, 0), rxRun := (0, 0) }
  | 4 => if lace ∧ skew then failAttempt s n 5 else blockMet s n
  | 5 => if lace then descrMet s n sync else setLaneState s n 6
  | 6 => if lace ∨ receiveOnly s n then s else laneUp s n
  | _ => s

def execTrainingPhasePass (n : Fin 256) (freq : W32) (eqv : List W16) (skew : Bool) (sync : List Block) (s : State) :
    Host.Outcome State Fault Refusal :=
  onLane s n.val (linkSync (phasePass s n.val freq eqv skew sync) n.val)

/-- `TRAINING_PHASE_TIMEOUT` (R384) of a phase: nothing where the lane has passed it (R386); the timeouts of receive-only
lanes are suspended (R455).
DESIGN CHOICE, safe: log entry 140. -/
def execTrainingPhaseTimeout (n : LanePhase) (s : State) : Host.Outcome State Fault Refusal :=
  onLane s n.lane.val (if receiveOnly s n.lane.val ∨ laneState s n.lane.val ≠ n.phase.val then s else failAttempt s n.lane.val 1)

/-- `BACKOFF_END` (R384). -/
def execBackoffEnd (n : Fin 256) (s : State) : Host.Outcome State Fault Refusal :=
  onLane s n.val (if laneState s n.val = 8 then linkSync (beginAttempt s n.val false) n.val else s)

/-- `NO_PARTNER_RETRY` (R384). -/
def execNoPartnerRetry (n : Fin 256) (s : State) : Host.Outcome State Fault Refusal :=
  onLane s n.val (if laneState s n.val = 9 ∧ (rdF s R.lnTrn1 n.val 0 23 16 ≠ 0 ∨ (laneSt s n.val).retried = false) then
      linkSync (beginAttempt (modLaneSt s n.val fun x => { x with retried := true }) n.val false) n.val
    else s)

/-- `EQ_BG_STEP` (R385): CTLE or a DFE tap of an UP lane adapts to a new value. -/
def execEqBgStep (n : Fin 256) (item : Fin 13) (v : W16) (s : State) : Host.Outcome State Fault Refusal :=
  onLane s n.val (if laneState s n.val = 7 ∧ rdB s R.laneCtl n.val 0 8 = true then
      modLaneSt s n.val fun x => { x with eq := setNth x.eq item.val v }
    else s)

/-! ## Electrical idle (R387, R388) -/

/-- `EI_ENTRY` (R387, R449): at the request of the lane's port, which may be in electrical idle and has announced it. The other lanes
of the port may have entered already. -/
def execEiEntry (n : Fin 256) (s : State) : Host.Outcome State Fault Refusal :=
  onLane s n.val (match lanePort s n.val with
    | none => s
    | some p =>
      let others := (portLanes s p).all fun k => decide (laneState s k = 7) || decide (laneState s k = 10)
      let may := !portRing s p && !rdB s R.lcStat p 0 3 && !rdB s R.lcStat p 0 4 && others && (portOf s p).eiReq
      if laneRole s n.val = 2 ∧ laneState s n.val = 7 ∧ may then linkSync (setLaneState s n.val 10) n.val else s)

/-- `EI_EXIT_REQUEST` (R388, R449): the port has a FLIT to send; the exit burst and SYNC64 go out, and the LOS mask is released. -/
def execEiExitRequest (n : Fin 256) (s : State) : Host.Outcome State Fault Refusal :=
  onLane s n.val (match lanePort s n.val with
    | none => s
    | some p =>
      if laneState s n.val = 10 ∧ (portOf s p).txq ≠ [] ∧ (laneSt s n.val).exiting = false then
        modLaneSt s n.val fun x => { x with exiting := true, line := x.line ++ exitBurst (portL56 s p) }
      else s)

/-- `EI_EXIT_COMPLETE` (R388). -/
def execEiExitComplete (n : Fin 256) (s : State) : Host.Outcome State Fault Refusal :=
  onLane s n.val (if laneState s n.val ≠ 10 then s else
    let s1 := linkSync (bump (modLaneSt (setLaneState s n.val 7) n.val fun x => { x with exiting := false }) R.lnCount n.val 6 1) n.val
    match lanePort s1 n.val with
    | some p => if portState s1 p = 3 then pump (modPort s1 p fun x => { x with eiReq := false }) p else s1
    | none => s1)

/-- `EI_SYNC64_MISSING` (R384). -/
def execEiSync64Missing (n : Fin 256) (s : State) : Host.Outcome State Fault Refusal :=
  onLane s n.val (if laneState s n.val = 10 then retrain (raise s E.lane n.val 8) n.val else s)

/-! ## Recovered-clock tracks and references (R370, R373–R375, R400, R401) -/

/-- `TRACK_HOLD` (R375): the source lane has raised LOS or LOL, or is not UP; RCLK_HOLD is raised.
DESIGN CHOICE, unsafe: log entry 141. -/
def execTrackHold (t : Fin 4) (s : State) : Host.Outcome State Fault Refusal :=
  .next (
    let w := rd s R.rclkSel 0 t.val
    let n := fld w 7 0
    if bit w 8 && (rdB s R.laneStat n 0 7 || rdB s R.laneStat n 0 8 || decide (laneState s n ≠ 7)) && !bit w 9 then
      { wrB s R.rclkSel 0 t.val 9 true with rclkHold := s.rclkHold ++ [t.val] }
    else s)

/-- `TRACK_HOLD_RELEASE` (R375): the source lane has been UP for 1 s. -/
def execTrackHoldRelease (t : Fin 4) (s : State) : Host.Outcome State Fault Refusal :=
  .next (if laneState s (rdF s R.rclkSel 0 t.val 7 0) = 7 then wrB s R.rclkSel 0 t.val 9 false else s)

/-- `REFCLK_CONFIG` (R400). -/
def refclkConfig (q : Req) (s : State) : Done :=
  if !wellFormed q.params [0x1FF#32, 0x1FF#32, 0x1FF#32, 0x1FF#32, 0x1FF#32] then done s .badParam
  else
    let w := par q 0
    let diff := w ^^^ s.refclk
    let serves (k : Nat) : Bool := (List.range 256).any fun n =>
      laneHere s.variant n && decide (laneRole s n ≠ 0) && decide (quadInput s (n / 4) = some k)
    if !(List.range 4).all fun t => laneHere s.variant (fld (par q (1 + t)) 7 0) then done s .notPresent
    else if s.host.up && (bit diff 0 || bit diff 8) then done s .notPermitted
    else if (List.range 8).any (fun k => bit diff k && serves k) || (bit w 8 && !bit w 0) || sscBroken s (bit w 8) (laneRole s) (quadInput s) then
      done s .state
    else
      done ((List.range 4).foldl (fun a t =>
        let v := par q (1 + t)
        let keep := decide (rd a R.rclkSel 0 t &&& 0x1FF#32 = v) && rdB a R.rclkSel 0 t 9
        wr a R.rclkSel 0 t (setBit v 9 keep)) { s with refclk := w }) .ok

/-- A reference input exists (R369). -/
def refHere (v : Variant) (k : Nat) : Bool := isL v || decide (k < 3) || decide (k = 7)

/-- `QUAD_REF` (R401). -/
def quadRef (q : Req) (s : State) : Done :=
  let qd := fld (par q 0) 5 0
  let sel := fld (par q 0) 7 6
  if !wellFormed q.params [0x3FF#32] ∨ sel = 3 then done s .badParam
  else if !quadHere s.variant qd ∨ (sel = 1 ∧ !refHere s.variant ((qd / 8 + 1) % 8)) then done s .notPresent
  else if (List.range 4).any fun i => decide (laneRole s (4 * qd + i) ≠ 0) then done s .state
  else done (wr s R.qref qd 0 (packF [(0, sel), (2, fld (par q 0) 9 8)])) .ok

/-! ## Test loops (R389–R392, R398, R399) -/

/-- The taps of a PRBS pattern. -/
def prbsTaps (pat : Nat) : Nat × Nat := match pat with
  | 0 => (7, 6) | 1 => (9, 5) | 2 => (15, 14) | 3 => (23, 18) | _ => (31, 28)

/-- The next bit of the reference generator from its history, newest first. -/
def refBit (pat : Nat) (h : List Bool) : Bool :=
  if pat = 5 then nth h 63 false else nth h ((prbsTaps pat).1 - 1) false ^^ nth h ((prbsTaps pat).2 - 1) false

/-- Bits the reference needs before it can predict. -/
def refLen (pat : Nat) : Nat := if pat = 5 then 64 else 31

/-- 64 received bits, newest first, are the USER pattern at some alignment. -/
def userAligned (user : List Bool) (h : List Bool) : Bool :=
  (List.range 64).any fun r => decide (h.reverse = user.drop r ++ user.take r)

/-- The checker locks. -/
def chkLock (s : State) (n : Nat) (h : List Bool) : State :=
  modLaneSt (wrB s R.laneStat n 0 9 true) n fun x => { x with chk := { seed := [], hist := h, good := 0, win := [] } }

/-- One received bit at a checker that is not locked (R390). -/
def chkSeek (s : State) (n pat : Nat) (user : List Bool) (b : Bool) : State :=
  let c := (laneSt s n).chk
  let put (x : Checker) : State := modLaneSt s n fun y => { y with chk := x }
  if pat = 5 then
    let h := (b :: c.seed).take 64
    if h.length = 64 ∧ userAligned user h then chkLock s n h else put { c with seed := h }
  else if c.seed.length < 31 then put { c with seed := b :: c.seed }
  else if b = refBit pat c.seed then
    let h := (b :: c.seed).take 31
    if 63 ≤ c.good then chkLock s n h else put { c with seed := h, good := c.good + 1 }
  else put { c with seed := [], good := 0 }

/-- One bit compared at a locked checker (R390). -/
def chkCount (s : State) (n pat : Nat) (b : Bool) : State :=
  let c := (laneSt s n).chk
  let e := refBit pat c.hist
  let win := (decide (b ≠ e) :: c.win).take 64
  let err := rd64 s R.lnChkErrLo n
  let s1 := wr64 s R.lnChkBitsLo n 0 (rd64 s R.lnChkBitsLo n + 1)
  let s2 := if b = e then s1 else wr64 s1 R.lnChkErrLo n 0 (satU 48 (err + 1))
  if 16 < (win.filter id).length then
    raise (modLaneSt (wrB s2 R.laneStat n 0 9 false) n fun x => { x with chk := Checker.reset }) E.lane n 9
  else modLaneSt s2 n fun x => { x with chk := { c with hist := (e :: c.hist).take (refLen pat), win := win } }

/-- The generator's next bits from its history, newest first. -/
def genBits (pat : Nat) : Nat → List Bool → List Bool × List Bool
  | 0, h => (h, [])
  | k + 1, h =>
    let b := refBit pat h
    let (h1, r) := genBits pat k ((b :: h).take (refLen pat))
    (h1, b :: r)

/-- The history that a generator begins with (R389): USER sends bit 0 first; where a PRBS begins the manual does not say, and
a free value, not zero, chooses.
DESIGN CHOICE, safe: log entry 142. -/
def genStart (pat : Nat) (user : List Bool) (f : W64) : List Bool :=
  if pat = 5 then user.reverse
  else
    let t := (prbsTaps pat).1
    (List.range 31).map fun i => (1 + f.toNat % (2 ^ t - 1)).testBit (i % t)

/-- Bits that a lane in role TEST transmits, errors injected (R391). -/
def testBits (s : State) (n : Nat) (bs : List Bool) : State × List Bool :=
  let (s1, hit) := injLine s n bs.length
  (s1, bs.zipIdx.map fun e => e.1 ^^ hit.contains e.2)

/-- The generator's next bits (R389). -/
def sendPattern (s : State) (n k : Nat) : State × List Bool :=
  let pat := rdF s R.lnTest n 0 4 2
  let user := bitsOf (rd s R.lnUserLo n) ++ bitsOf (rd s R.lnUserHi n)
  let (f, s1) := drawFree s
  let x := laneSt s1 n
  let (h, bs) := genBits pat k (if x.gen.isEmpty then genStart pat user f else x.gen)
  testBits (putLaneSt s1 n { x with gen := h }) n bs

/-- While bits come in on a lane in role TEST, its transmitter sends as many (R389, R392): in the loop FAR those, else its
generator's where GEN = 1. They go onto the line, in the loop NEAR to the lane's own receiver in place of what comes in.
DESIGN CHOICE, safe: log entry 180. -/
def testLine (s : State) (n : Nat) (bs : List Bool) : State × List Bool :=
  let loop := rdF s R.lnTest n 0 6 5
  let (s1, tx) := if loop = 2 then testBits s n bs else if rdB s R.lnTest n 0 0 then sendPattern s n bs.length else (s, [])
  if loop = 1 then (s1, tx) else (modLaneSt s1 n fun x => lineSend (pamRate (laneRate s n)) x tx, bs)

/-- Bits come in on a lane in role TEST; its checker runs with CHK = 1. -/
def chkBits (s : State) (n : Nat) (bs : List Bool) : State :=
  if laneState s n ≠ 11 then s else
  let pat := rdF s R.lnTest n 0 4 2
  let user := bitsOf (rd s R.lnUserLo n) ++ bitsOf (rd s R.lnUserHi n)
  let (s1, rx) := testLine s n bs
  if !rdB s R.lnTest n 0 1 then s1
  else rx.foldl (fun a b => if rdB a R.laneStat n 0 9 then chkCount a n pat b else chkSeek a n pat user b) s1

/-- `CHECKER_LOCK` (R390): bits arrive at a checker that is not locked. -/
def execCheckerLock (n : Fin 256) (bits : List Bool) (s : State) : Host.Outcome State Fault Refusal :=
  onLane s n.val (if rdB s R.laneStat n.val 0 9 then s else chkBits s n.val bits)

/-- `CHECKER_LOCK_LOSS` (R390): bits arrive at a locked checker. -/
def execCheckerLockLoss (n : Fin 256) (bits : List Bool) (s : State) : Host.Outcome State Fault Refusal :=
  onLane s n.val (if rdB s R.laneStat n.val 0 9 then chkBits s n.val bits else s)


/-- INJGO: line bits are flipped as INJMODE says (R391). -/
def injGo (s : State) (n : Nat) : State :=
  if !mayFlip s n then s else
  match rdF s R.lnTest n 0 8 7 with
  | 1 => modLaneSt s n fun x => { x with flips := x.flips + 1 }
  | 2 => modLaneSt s n fun x => { x with flips := x.flips + rdF s R.lnTest n 0 14 9 + 1 }
  | 3 => modLaneSt s n fun x => { x with injOn := true, gap := 0 }
  | _ => s

/-- A write of `LN_TEST`: CHK going from 0 to 1 clears the counts and the checker (R390); INJMODE 0 ends an injection; a
generator switched off, or to another pattern, begins anew. -/
def testWrite (s : State) (n : Nat) (v : W32) : State :=
  let was := rdB s R.lnTest n 0 1
  let s1 := wr s R.lnTest n 0 (v &&& 0x001FFFFF#32)
  let s2 := if bit v 1 ∧ was then s1 else
    let s0 := modLaneSt (wrB s1 R.laneStat n 0 9 false) n fun x => { x with chk := Checker.reset }
    if bit v 1 then wr64 (wr64 s0 R.lnChkErrLo n 0 0) R.lnChkBitsLo n 0 0 else s0
  let anew := !bit v 0 || decide (rdF s R.lnTest n 0 4 2 ≠ fld v 4 2)
  let s3 := modLaneSt s2 n fun x => { x with injOn := x.injOn && decide (fld v 8 7 ≠ 0), gen := if anew then [] else x.gen }
  if bit v 21 then injGo s3 n else s3

/-- `LANE_TEST` (R398): `LN_USER` is written whatever the first word holds; a word that `LN_TEST` ignores leaves that as it is. The
signed token's session is that of the command's own stream (R500). -/
def laneTest (q : Req) (s : State) : Done :=
  let w := par q 0
  let n := fld (par q 1) 7 0
  let inj := bit w 21 && decide (fld w 8 7 ≠ 0)
  if !wellFormed q.params [0x003FFFFF#32, 0xFF#32, 0xFFFFFFFF#32, 0xFFFFFFFF#32] then done s .badParam
  else if !laneHere s.variant n then done s .notPresent
  else if ((bit w 0 || bit w 1 || decide (fld w 6 5 ≠ 0)) && decide (laneRole s n ≠ 4)) || (inj && !mayFlip s n) then done s .state
  else if inj && decide (laneRole s n ≠ 4) && decide (s.boot.diag ≠ some q.stream.val) && decide (q.stream.val ≠ 10) then done s .notPermitted
  else
    let s1 := wr (wr s R.lnUserLo n 0 (par q 2)) R.lnUserHi n 0 (par q 3)
    done (if R.lnTest.legal w then testWrite s1 n w else s1) .ok

/-- `LANE_TEST_READ` (R399). -/
def laneTestRead (q : Req) (s : State) : Done :=
  let n := fld (par q 0) 7 0
  if !wellFormed q.params [0xFF#32] then done s .badParam
  else if !laneHere s.variant n then done s .notPresent
  else doneW s [rd s R.lnChkErrLo n, rd s R.lnChkErrHi n, rd s R.lnChkBitsLo n, rd s R.lnChkBitsHi n, rd s R.laneStat n]

/-- `LANE_INJGO` (R391): a write of INJGO. -/
def execLaneInjgo (w : Writer) (n : Fin 256) (s : State) : Host.Outcome State Fault Refusal :=
  onLane s n.val (if mayInject s w then injGo s n.val else s)

end Sys2Proof.Machine
end

