-- ==== Sys2Proof/Machine/Host.lean ====
section
/-! DEFINITION. The host link and the board ports: queue pairs, host DMA, function reset, the I3C target and the pins
(R422–R429, R436, R437, R486–R489). -/

namespace Sys2Proof.Machine

/-! ## Queue pairs (R424) -/

/-- `PCIE_SQ_DOORBELL` (R424): a write of `SQ_TAIL`; QP8 has no SQ (R488). -/
def execPcieSqDoorbell (p : Fin 64) (tail : Fin 8192) (s : State) : Host.Outcome State Fault Refusal :=
  .next (if !qpEn s p.val ∨ p.val = 8 ∨ qpSize s p.val < (tail.val + 8192 - (rd s R.sqHead p.val).toNat) % 8192 then s
    else wr s R.sqTail p.val 0 (w32 tail.val))

/-- The device reads one SQ entry; answers its index. -/
def sqTake (s : State) (p : Nat) : State × Nat :=
  let h := (rd s R.sqHead p).toNat
  (wr s R.sqHead p 0 (w32 ((h + 1) % 8192)), h % qpSize s p)

/-- The fault of a Pennant SQ entry (R486). -/
def sqFault (e : List W32) : Option Status :=
  let w (k : Nat) : W32 := nth e k 0
  let n := fld (w 0) 12 0
  if 4096 < n then some .lengthRange
  else if fld (w 0) 31 13 ≠ 0 ∨ fld (w 1) 31 13 ≠ 0 ∨ ((List.range 10).any fun k => decide (w (6 + k) ≠ 0)) ∨ n < 16 ∨ n % 4 ≠ 0 ∨
      (fld (w 1) 12 0 ≠ 0 ∧ fld (w 1) 12 0 < 4096) ∨ fld (w 2) 1 0 ≠ 0 ∨ fld (w 4) 1 0 ≠ 0 then some .badParam
  else none

/-- `PENNANT_SQ_ENTRY` (R486): the entry's words, and whether the host read of the packet failed, which is check 6 of R480. A good packet
arrives as `COMMAND_PACKET_RX`; a refused submission completes in its turn (R490). -/
def execPennantSqEntry (p : Fin 8) (e : List W32) (readErr : Bool) (s : State) : Host.Outcome State Fault Refusal :=
  .next (if !qpEn s p.val ∨ sqOcc s p.val = 0 ∨ !fwUp s then s else
    let (s1, ix) := sqTake s p.val
    let add (t : State) (bad : Option Status) : State := setHost t fun h => { h with subs := h.subs ++
        [{ qp := p.val, sqix := ix, rlen := fld (nth e 1 0) 12 0, rbuf := pair64 (nth e 4 0) (nth e 5 0), dead := false, bad := bad }] }
    match sqFault e with
    | some st => subDrain (add s1 (some st)) p.val
    | none =>
      if readErr then subDrain (add (raise (bump s1 R.pnCount 0 3 1) E.pn 0 1) (some .integrity)) p.val
      else add s1 none)

/-- A host DMA transfer's completion (R424). -/
def dmaPost (s : State) (d : HostDma) (st : Status) : State :=
  cqPost s d.qp ([packF [(0, statNum st)], nth d.words 6 0#32, w32 d.sqix] ++ List.replicate 13 0#32) (bit (nth d.words 0 0#32) 1)

/-- A transfer's entry names a length above 16,777,216 bytes or a remote address (R424).
DEDUCED, safe: log entry 144. -/
def dmaBad (e : List W32) : Bool :=
  let a := pair64 (nth e 4 0) (nth e 5 0)
  bit (nth e 1 0) 24 || isRemote a || isRemote (a + fld (nth e 1 0) 24 0)

/-- `HOST_DMA_ENTRY` (R424). -/
def execHostDmaEntry (p : Fin 64) (e : List W32) (s : State) : Host.Outcome State Fault Refusal :=
  .next (if p.val < 9 ∨ !qpEn s p.val ∨ sqOcc s p.val = 0 then s else
    let (s1, ix) := sqTake s p.val
    let d : HostDma := { qp := p.val, sqix := ix, words := (e ++ List.replicate 16 0#32).take 16 }
    if dmaBad d.words then dmaPost s1 d .badParam
    else setHost s1 fun h => { h with dmas := h.dmas ++ [d] })

/-- Bytes up to the next multiple of 256: one request of a transfer. -/
def dmaChunk (a n : Nat) : Nat := Nat.min n (256 - a % 256)

/-- A transfer into the device: request by request, until the first error. A header that its queue holds is answered when it is
accepted (R247); the transfer waits for that. -/
def dmaIn : Nat → State → Nat → List Byte → State × Status
  | 0, s, _, _ => (s, .ok)
  | k + 1, s, a, bs =>
    if bs.isEmpty then (s, .ok)
    else
      let n := dmaChunk a bs.length
      match netStore s 39 a (bs.take n) with
      | (s1, .ok) => dmaIn k s1 (a + n) (bs.drop n)
      | (s1, st) => (s1, st)

/-- A transfer out of the device: the bytes read, until the first error; one that met poison goes on and ends `INTEGRITY`.
DEDUCED, safe: log entry 144. -/
def dmaOut : Nat → State → Nat → Nat → List Byte → Bool → State × Status × List Byte × Bool
  | 0, s, _, _, out, ep => (s, if ep then .integrity else .ok, out, ep)
  | k + 1, s, a, n, out, ep =>
    if n = 0 then (s, if ep then .integrity else .ok, out, ep)
    else
      let m := dmaChunk a n
      let (s1, st, bs, poison) := netBytes s 39 a m
      if st ≠ .ok then (s1, st, out, ep)
      else dmaOut k s1 (a + m) (n - m) (out ++ bs) (ep || poison)

/-- `HOST_DMA_COMPLETE` (R424): the oldest transfer of a queue pair runs; `data` is what the host's memory held. One that must
wait for a domain to wake stays. -/
def execHostDmaComplete (p : Fin 64) (data : List Byte) (s : State) : Host.Outcome State Fault Refusal :=
  .next (match s.host.dmas.find? fun d => decide (d.qp = p.val) with
    | none => s
    | some d =>
      let w (k : Nat) : W32 := nth d.words k 0
      let len := fld (w 1) 24 0 + 1
      let a := pair64 (w 4) (w 5) % 2 ^ 48
      let gone (t : State) : State := setHost t fun h => { h with dmas := removeFirst (fun x => decide (x = d)) h.dmas }
      let n := len / 256 + 2
      settled s (if bit (w 0) 0 then
        let (s1, st, out, ep) := dmaOut n s a len [] false
        dmaPost (setHost (gone s1) fun h => { h with bufOut := h.bufOut ++ [(pair64 (w 2) (w 3), bytesWords out.length out, ep)] }) d st
      else
        let (s1, st) := dmaIn n s a ((data ++ List.replicate len 0#8).take len)
        dmaPost (gone s1) d st))

/-- The four counts of a pair cleared. -/
def qpClear (s : State) (p : Nat) : State :=
  wr (wr (wr (wr s R.sqTail p 0 0) R.sqHead p 0 0) R.cqTail p 0 0) R.cqHead p 0 0

/-- A pair starts with 2^log2n entries per ring. -/
def qpStart (s : State) (p log2n : Nat) : State :=
  if qpEn s p ∨ log2n < 4 ∨ 12 < log2n then s else qpClear (wr s R.qpCfg p 0 (packF [(0, log2n), (4, 1)])) p

/-- `QP_ENABLE` (R424): the host writes `QP_CFG` with EN = 1. -/
def execQpEnable (p : Fin 64) (log2n : Fin 16) (s : State) : Host.Outcome State Fault Refusal :=
  .next (qpStart s p.val log2n.val)

/-- A pair stops: commands already read still execute, their replies are discarded; transfers stop. -/
def qpStop (s : State) (p : Nat) : State :=
  let s1 := setHost (wrB s R.qpCfg p 0 4 false) fun h => { h with
    subs := h.subs.map fun x => if x.qp = p then { x with dead := true } else x,
    dmas := h.dmas.filter fun d => decide (d.qp ≠ p) }
  cqDrain s1 p

/-- `QP_DISABLE` (R424): the host writes `QP_CFG` with EN = 0. -/
def execQpDisable (p : Fin 64) (s : State) : Host.Outcome State Fault Refusal :=
  .next (if qpEn s p.val then qpStop s p.val else s)

/-- What EN of a `QP_CFG` write does (R424). -/
def qpCfgWrite (s : State) (p : Nat) (v : W32) : State :=
  if bit v 4 then qpStart s p (fld v 3 0) else if qpEn s p then qpStop s p else s

/-- `CQ_HEAD_WRITE` (R424): waiting completions are written. -/
def execCqHeadWrite (p : Fin 64) (head : Fin 8192) (s : State) : Host.Outcome State Fault Refusal :=
  .next (if qpEn s p.val then cqDrain (wr s R.cqHead p.val 0 (w32 head.val)) p.val else s)

/-- Commands of the PCIe streams that have not started are discarded, replies of the executing ones too; a diagnostic session
that a PCIe stream opened ends (R492, R500). -/
def flrStreams (s : State) : State :=
  let busy (p : Nat) : Bool := s.pn.held.any fun h => decide (h.req.stream.val = p)
  let dead := (List.range 8).filterMap fun p => if busy p then (s.host.subs.find? fun x => decide (x.qp = p)).map fun x => { x with dead := true } else none
  let s1 := setHost s fun h => { h with subs := dead }
  let s2 := setPn s1 fun n => { n with waiting := n.waiting.filter fun h => decide (8 ≤ h.req.stream.val) }
  match s2.boot.diag with
  | some k => if k < 8 then wrB { s2 with boot := { s2.boot with diag := none } } R.bootStat 0 0 12 false else s2
  | none => s2

/-- `PCIE_FLR` (R426, R492): the function and its queue pairs are reset; the data plane runs on. -/
def execPcieFlr (s : State) : Host.Outcome State Fault Refusal :=
  .next (flrStreams ((List.range 64).foldl (fun a p => qpClear (qpStop a p) p) s))

/-- A state of the link that the endpoint supports (R422): a width up to x16, a speed up to that of PCIe 5.0, payloads up to 512
bytes, read requests up to 4,096 bytes.
DEDUCED, safe: log entry 171. -/
def trainLegal (x : PcieTrain) : Bool :=
  [1, 2, 4, 8, 16].contains x.lanes && decide (1 ≤ x.gen) && decide (x.gen ≤ 5) && [128, 256, 512].contains x.mps &&
    [128, 256, 512, 1024, 2048, 4096].contains x.mrrs

/-- `PCIE_LINK_STATE_CHANGE` (R422): the link comes up on lanes that have role PCIE, changes its speed, width or power state, or goes
down. -/
def execPcieLinkStateChange (up : Bool) (x : PcieTrain) (s : State) : Host.Outcome State Fault Refusal :=
  .next (if up = true ∧ (!trainLegal x ∨ !(List.range x.lanes).all fun n => decide (laneState s n = 12)) then s
    else setHost s fun h => if up then { h with up := true, lanes := x.lanes, train := x } else { h with up := false })

/-- `PCIE_EP_WRITE_RX` (R423): the words of a received write with EP = 1 are written with the poison code; one that the
fabric does not answer `OK` is dropped and counted. -/
def execPcieEpWriteRx (a : BitVec 45) (words : List W64) (s : State) : Host.Outcome State Fault Refusal :=
  .next (
    let (s1, st) := netWrite s 39 (8 * a.toNat) (words.map fun w => (w, true))
    settled s (if st = .ok then s1 else bump s1 R.pcieDrop 0 0 1))

/-! ## BAR accesses (R258, R263, R423) -/

/-- A BAR access that NI 39 sends over the die for internal address a: where its target does not take it the write is dropped and
counted (R423); one for a domain that sleeps asks for its wake and is made again.
DESIGN CHOICE, unsafe: log entry 173. -/
def hostWrite (s : State) (a : Nat) (go : State → State) : State :=
  let drop (t : State) : State := bump t R.pcieDrop 0 0 1
  match wayOf s 39 a with
  | .local_ _ => drop s
  | .miss => drop (noteMiss s 39)
  | .absent_ => s
  | .noMem => drop s
  | .fenced => drop (noteFenced s 39)
  | .send d _ => match gateOf s (niDomain d) with
    | .pass => go (gatePass s (niDomain d))
    | .fenced => drop (noteFenced s d)
    | .hold => gateWake s (niDomain d)

/-- `BAR2_WRITE` (R263, R423). -/
def execBar2Write (a : Fin 34359738368) (data : List Byte) (poison : Bool) (s : State) : Host.Outcome State Fault Refusal :=
  .next (hostWrite s a.val fun t => bar2Write t a.val data poison)

/-! ## The I3C target (R427, R489) -/

/-- The state with an I3C answer of the target. -/
def i3cSay (s : State) (bs : List Byte) : State := setHost s fun h => { h with i3cOut := bs }

/-- A CCC addressed to the target is answered while it has a dynamic address. -/
def i3cAsk (s : State) (bs : List Byte) : State := if s.host.i3cDyn.isSome then i3cSay s bs else s

/-- The IBI that is due (R489): 0x01 a reply is ready, 0x02 an event is pending with no reply pending. -/
def ibiDue (s : State) : Option Nat :=
  if !s.host.i3cEv then none else if s.pn.i3cReply.isSome then some 1 else if s.pn.i3cSink.buf.isEmpty then none else some 2
def ibiSync (s : State) : State := let b := ibiDue s; setHost s fun h => { h with ibi := b }

/-- `I3C_ENTDAA`: the target takes part while it has no dynamic address. -/
def execI3cEntdaa (addr : Fin 128) (s : State) : Host.Outcome State Fault Refusal :=
  .next (if s.host.i3cDyn.isSome then s else
    setHost (i3cSay s (Config.i3cPid ++ [Config.i3cBcr, Config.i3cDcr])) fun h => { h with i3cDyn := some addr.val })

/-- `I3C_SETDASA`. -/
def execI3cSetdasa (static_ dyn : Fin 128) (s : State) : Host.Outcome State Fault Refusal :=
  .next (if static_.val = s.host.i3cStatic ∧ s.host.i3cDyn = none then setHost s fun h => { h with i3cDyn := some dyn.val } else s)

/-- `I3C_RSTDAA`. -/
def execI3cRstdaa (s : State) : Host.Outcome State Fault Refusal := .next (setHost s fun h => { h with i3cDyn := none })

def execI3cGetpid (s : State) : Host.Outcome State Fault Refusal := .next (i3cAsk s Config.i3cPid)
def execI3cGetbcr (s : State) : Host.Outcome State Fault Refusal := .next (i3cAsk s [Config.i3cBcr])
def execI3cGetdcr (s : State) : Host.Outcome State Fault Refusal := .next (i3cAsk s [Config.i3cDcr])

/-- `I3C_GETSTATUS`: the manual does not give the two bytes' contents, a free value.
DESIGN CHOICE, safe: log entry 93. -/
def execI3cGetstatus (s : State) : Host.Outcome State Fault Refusal :=
  .next (if s.host.i3cDyn.isNone then s else
    let (f, s1) := drawFree s
    i3cSay s1 (bytesOf 2 f.toNat))

/-- `I3C_ENEC`, `I3C_DISEC`: bit 0 of the event byte names target interrupts. -/
def execI3cEnec (events : Byte) (s : State) : Host.Outcome State Fault Refusal :=
  .next (if s.host.i3cDyn.isSome ∧ bit events 0 = true then ibiSync (setHost s fun h => { h with i3cEv := true }) else s)
def execI3cDisec (events : Byte) (s : State) : Host.Outcome State Fault Refusal :=
  .next (if s.host.i3cDyn.isSome ∧ bit events 0 = true then ibiSync (setHost s fun h => { h with i3cEv := false }) else s)

def execI3cSetmwl (n : Fin 65536) (s : State) : Host.Outcome State Fault Refusal :=
  .next (if s.host.i3cDyn.isSome then setHost s fun h => { h with mwl := n.val } else s)
def execI3cSetmrl (n : Fin 65536) (s : State) : Host.Outcome State Fault Refusal :=
  .next (if s.host.i3cDyn.isSome then setHost s fun h => { h with mrl := n.val } else s)
def execI3cGetmwl (s : State) : Host.Outcome State Fault Refusal := .next (i3cAsk s (bytesOf 2 s.host.mwl).reverse)
def execI3cGetmrl (s : State) : Host.Outcome State Fault Refusal := .next (i3cAsk s (bytesOf 2 s.host.mrl).reverse)
def execI3cRstact (action : Byte) (s : State) : Host.Outcome State Fault Refusal :=
  .next (setHost s fun h => { h with i3cRst := action.toNat })

/-- An event packet (R483). -/
def eventPacket (s : State) (ev : Event) (target : Nat) (crc : Bool) : List W32 :=
  mkPacket (0x0E80 + ev.kind) (ev.seq % 65536) (2 ^ 21) target (ownId s) 0 ([lo32 ev.ats.toNat, hi32 ev.ats.toNat] ++ ev.words) crc

/-- The oldest event of a sink leaves its buffer; where events were dropped EV_LOST takes the free place (R485). -/
def sinkPop (s : State) (k : SinkId) : State :=
  let b := sinkOf s k
  let s1 := bump (setSink s k { b with buf := b.buf.drop 1 }) R.pnCount 0 6 1
  if b.lost = 0 then s1
  else
    let seq := (rd s1 R.pnEvseq).toNat
    let ev : Event := { kind := 7, seq := seq, ats := s1.ats, words := [w32 b.lost, w32 b.lostSeq] }
    setSink (wr s1 R.pnEvseq 0 0 (w32 (seq + 1))) k { buf := b.buf.drop 1 ++ [ev], lost := 0, lostSeq := 0 }

/-- `I3C_PRIVATE_READ` (R489): the pending reply, else the oldest event, else no data. -/
def execI3cPrivateRead (s : State) : Host.Outcome State Fault Refusal :=
  .next (match s.pn.i3cReply with
    | some r => ibiSync (i3cSay (setPn s fun n => { n with i3cReply := none }) (wordBytes (replyPacket s r)))
    | none => match s.pn.i3cSink.buf with
      | [] => i3cSay s []
      | ev :: _ => ibiSync (sinkPop (i3cSay s (wordBytes (eventPacket s ev 0 true))) .i3c))

/-! ## Pins (R429, R436, R437) -/

/-- `SYNCE_OUT_CONFIG` (R436). -/
def synceOutConfig (q : Req) (s : State) : Done :=
  if !wellFormed q.params [0xFF#32] then done s .badParam else done (setHost s fun h => { h with synce := par q 0 }) .ok

/-- The boundary period of a MARK pin in ticks (R437): a frame, or a slot of numerology MU. -/
def markPeriod (w : W32) : Nat := if fld w 4 3 = 0 then 4800 else 480 / 2 ^ fld w 6 5

/-- `PIN_CONFIG` (R437). -/
def pinConfig (q : Req) (s : State) : Done :=
  if !wellFormed q.params (List.replicate 16 0x000FFFFF#32 ++ [0xFF#32, 0xFF#32]) ∨
      ((q.params.take 16).any fun w => decide (2 ≤ fld w 4 3) || decide (markPeriod w ≤ fld w 19 7)) then done s .badParam
  else
    let s1 := setHost s fun h => { h with gpio := q.params.take 16, fcInPol := BitVec.ofNat 16 (par q 16).toNat, fcOutPol := BitVec.ofNat 16 (par q 17).toNat }
    done ((s1.fh.macs.map fun e => e.1).foldl startLine s1) .ok

/-- What `SYNCE_OUT[k]` carries (R419, R436): 0 off, 1–3 the recovered clock of track RCk at 156.25, 25 or 10 MHz, which goes on at
the held frequency while the track is in HOLD; a track with no source lane carries none. -/
def synceOut (s : State) (k : Nat) : Nat := if rdB s R.rclkSel 0 k 8 then fld s.host.synce (2 * k + 1) (2 * k) else 0

/-- Outputs are driven: while `PWR_OK` or `RESET_N` is low each is high-impedance but `ALERT_N` and `THERMTRIP_N` (R618). -/
def driven (s : State) : Bool := s.boot.pwrOk && s.boot.resetN

/-- The level that GPIO k drives out, where it drives one (R429, R437, R618): OUTPUT its active level, MARK its active level for the
tick of a pulse.
DESIGN CHOICE, unsafe: log entry 172. -/
def gpioOut (s : State) (k : Nat) : Option Bool :=
  let w := nth s.host.gpio k 0#32
  if !driven s then none
  else match fld w 1 0 with
  | 1 => some (bit w 2)
  | 3 => some (bit w 2 == s.host.marks.any fun e => decide (e.1 = k) && decide (e.2.toNat / tcTick = s.ats.toNat / tcTick))
  | _ => none

/-- The levels of `FC_OUT[k]` (R254, R429) and of `PPS_OUT` (R420), none while high-impedance (R618). -/
def fcOutPin (s : State) (k : Nat) : Option Bool := if driven s then some (decide (fcOut s k = s.host.fcOutPol.getLsbD k)) else none
def ppsOutPin (s : State) : Option Bool := if driven s then some (ppsOutHigh s) else none

/-- `GPIO_EDGE` (R429): a pin changes level; in EVENT mode the edge raises GPIO_EDGE.
DESIGN CHOICE, unsafe: log entry 190. -/
def execGpioEdge (k : Fin 16) (level : Bool) (s : State) : Host.Outcome State Fault Refusal :=
  .next (if bit s.host.gpioIn k.val = level then s else
    setHost s fun h => { h with
      gpioIn := setBit h.gpioIn k.val level,
      gpioEdge := if fld (nth h.gpio k.val 0) 1 0 = 2 then setBit h.gpioEdge k.val true else h.gpioEdge })

/-- The present tick is OFF ticks after a boundary of a MARK pin (R429). -/
def markDue (s : State) (w : W32) : Bool := decide (tickNow s % markPeriod w = fld w 19 7)

/-- `GPIO_MARK_PULSE` (R429): a MARK pin pulses for one tick, OFF ticks after its boundary. -/
def execGpioMarkPulse (k : Fin 16) (s : State) : Host.Outcome State Fault Refusal :=
  .next (if fld (nth s.host.gpio k.val 0) 1 0 = 3 ∧ markDue s (nth s.host.gpio k.val 0) = true then setHost s fun h => { h with marks := h.marks ++ [(k.val, s.ats)] } else s)

end Sys2Proof.Machine
end

