-- ==== Sys2Proof/Machine/Thermal.lean ====
section
/-! DEFINITION. The thermal unit, the trip record, the ledger's upkeep, and the commands of the journal and the boot profile
(R538–R569). -/

namespace Sys2Proof.Machine

def setTh (s : State) (f : Thermal → Thermal) : State := { s with th := f s.th }

/-! ## Sensors and zones (R538, R539) -/

/-- Tc in one millisecond. -/
def tcPerMs : Nat := 1966080

/-- The injection at a sensor is in force: its KIND, 0 none (R561). -/
def tsInjKind (s : State) (k : Nat) : Nat := if rdB s R.tsInj k 0 2 then rdF s R.tsInj k 0 1 0 else 0

/-- Injections whose time has passed end. -/
def tsExpire (s : State) : State :=
  let gone := (s.th.injEnd.filter fun e => decide (e.2 ≤ s.ats.toNat)).map fun e => e.1
  gone.foldl (fun a k => setTh (wrF a R.tsInj k 0 2 0 0) fun t => { t with injEnd := putKey t.injEnd k none }) s

/-- What a sensor reads: an override in place of the measurement, none where the reading is invalid. -/
def reading (s : State) (k : Nat) (r : Reading) : Reading :=
  if !sensorHere s.variant k ∨ !rdB s R.tsCtl k 0 0 then none
  else match tsInjKind s k with
    | 2 => none
    | 1 => let v := sext 12 (rdF s R.tsInj k 0 14 3); if -360 ≤ v ∧ v ≤ 1200 then some v else none
    | _ => match r with
      | some v => if -360 ≤ v ∧ v ≤ 1200 then some v else none
      | none => none

/-- A temperature field of 12 bits. -/
def tj12 (v : Int) : Nat := wrapTo 12 v

/-- One sensor's registers take its reading; an invalid reading raises SENSOR_FAIL once (R539). -/
def sensorTake (s : State) (k : Nat) (r : Reading) : State :=
  match reading s k r with
  | some v => wrF (wr s R.tsValue k 0 (packF [(0, tj12 v), (12, 1)])) R.tsStat k 0 0 0 1
  | none =>
    let s1 := wrF (wrF s R.tsValue k 0 12 12 0) R.tsStat k 0 0 0 0
    if s.th.failed.contains k ∨ !rdB s R.tsCtl k 0 0 then s1
    else
      let s2 := raise (setTh s1 fun t => { t with failed := k :: t.failed }) E.ts k 0
      if tsInjKind s k = 2 then wrB s2 R.tsStat k 0 1 true else s2

/-- The zone of a sensor: one domain, or two for a pair of shores. -/
def zoneOf (k : Nat) : List Nat :=
  if k < 48 then [k / 3] else if k < 50 then [16] else if k < 52 then [17] else if k = 52 then [18] else if k = 53 then [19]
  else if k < 62 then [20 + 2 * (k - 54), 21 + 2 * (k - 54)] else if k = 62 then [36] else [37]

/-- The valid readings with their sensors. -/
def validOf (s : State) (rs : List Reading) : List (Nat × Int) :=
  (rs.zipIdx).filterMap fun e => (reading s e.2 e.1).map fun v => (e.2, v)

/-- The highest reading and the lowest sensor that gives it. -/
def hottest : List (Nat × Int) → Option (Nat × Int)
  | [] => none
  | e :: l => some (l.foldl (fun a b => if a.2 < b.2 then b else a) e)

/-- The band of R327 that follows from the band before and Tj in 0.125 °C. -/
def bandNext (p : Policy) (old : Nat) (tj : Int) : Nat :=
  if (8 * p.tw2 : Int) ≤ tj then 2
  else if old = 2 ∧ (8 * p.tw2 : Int) - 24 ≤ tj then 2
  else if (8 * p.tw1 : Int) ≤ tj then 1
  else if 1 ≤ old ∧ (8 * p.tw1 : Int) - 24 ≤ tj then 1 else 0

/-- A zone takes its Tj: its register, its band, and a wake of a domain in RETAIN that reaches 95 °C (R327, R523). -/
def zoneTake (s : State) (d : Nat) (tj : Int) (valid : Bool) : State :=
  let was := hot s d
  let s1 := wr s R.thZone 0 d (packF [(0, tj12 tj), (12, b2n valid)])
  let s2 :=
    if d < 16 then wrF s1 R.gvTherm 0 0 (2 * d + 1) (2 * d) (bandNext s.gov.policy (rdF s R.gvTherm 0 0 (2 * d + 1) (2 * d)) tj)
    else if d < 18 then
      let k := 2 * (d - 16)
      wrF s1 R.gvPoolTherm 0 0 (k + 1) k (bandNext s.gov.policy (rdF s R.gvPoolTherm 0 0 (k + 1) k) tj)
    else s1
  if hot s2 d ∧ (pdState s2 d = 2 ∨ (pdState s2 d = 4 ∧ (domOf s2 d).offPath = false ∧ was = false)) then wakeDomain s2 d 6 else s2

/-! ## Thresholds and throttling (R541, R542) -/

def thPct (s : State) : Nat := rdF s R.thStat 0 0 26 20
def throttled (s : State) : Bool := rdB s R.thStat 0 0 19 || s.th.hbmHot

/-- THR_PCT as the power loop applies it (R514, R542). -/
def setPct (s : State) (n : Nat) : State := wrF (wrF s R.thStat 0 0 26 20 n) R.pwrStat 0 0 22 16 n

/-- One step down, to the floor of 40. -/
def throttleStep (s : State) : State :=
  let n := thPct s
  if n ≤ 40 then s else raiseIf (decide (n - 5 ≤ 40)) (setPct s (Nat.max 40 (n - 5))) E.th 0 4

/-- The warning and throttle levels compared with Tj. -/
def levelsTake (s : State) (tj : Int) : State :=
  let warn := rdB s R.thStat 0 0 18
  let thr := rdB s R.thStat 0 0 19
  let before := throttled s
  let s1 := if !warn ∧ 760 ≤ tj then bump (raise (wrB s R.thStat 0 0 18 true) E.th 0 0) R.thCount 0 0 1
    else if warn = true ∧ tj < 720 then raise (wrB s R.thStat 0 0 18 false) E.th 0 1 else s
  let s2 := if !thr ∧ 840 ≤ tj then bump (raise (wrB s1 R.thStat 0 0 19 true) E.th 0 2) R.thCount 0 1 1
    else if thr = true ∧ tj < 800 then raise (wrB s1 R.thStat 0 0 19 false) E.th 0 3 else s1
  if throttled s2 && !before then throttleStep s2 else s2

/-- `THROTTLE_STEP` (R542). -/
def execThrottleStep (s : State) : Host.Outcome State Fault Refusal :=
  .next (if tstate s = 0 ∧ throttled s = true then throttleStep s else s)

/-- Device Tj as the policies take it: the throttle level while SENSOR_DEGRADED (R539).
DEDUCED, unsafe: log entry 184. -/
def deviceTj (s : State) : Int := if rdB s R.thStat 0 0 29 then 840 else sext 12 (rdF s R.thStat 0 0 11 0)

/-- `THROTTLE_RECOVER_STEP` (R542). -/
def execThrottleRecoverStep (s : State) : Host.Outcome State Fault Refusal :=
  .next (if tstate s = 0 ∧ !throttled s ∧ deviceTj s < 800 then setPct s (Nat.min 100 (thPct s + 5)) else s)

/-! ## Shutdown (R544, R545, R548) -/

/-- Earlier trips within the last 3,600 s. -/
def recentTrips (s : State) : Nat := (s.th.stamps.filter fun t => decide (s.th.seconds ≤ t + 3600)).length

/-- The hardware shutdown: the trip is latched, the record written into the ring, every domain but 38 is off. -/
def shutdown (s : State) (sensor : Nat) (tj : Int) (inj : Bool) : State :=
  let n := recentTrips s
  let lock := decide (2 ≤ n)
  let seq := (rd s R.thTripseq).toNat
  let power := rdF s R.pwrStat 0 0 15 0
  let pct := thPct s
  let r : TripRec := { sensor := sensor, inj := inj, lock := lock, tj := tj12 tj, ats := s.ats, seq := seq, power := power, pct := pct }
  let s1 := wr (wr64 (wr s R.thTripseq 0 0 (w32 (satU 32 (seq + 1)))) R.thTripAtsLo 0 0 s.ats.toNat) R.thTripInfo 0 0
    (packF [(0, sensor), (6, tj12 tj), (18, 1), (19, b2n inj), (20, Nat.min 3 (n + 1))])
  let s2 := setTh s1 fun t => { t with
    stamps := (t.seconds :: t.stamps).take 3, shutRun := 0, lockTrip := lock, tripPower := power, tripPct := pct, restart := false }
  let slot := 0x10000 + 32 * (seq % 2048)
  let s3 := resetAll true (setStore (rawClear s2 slot (slot + 32)) fun t => { t with ring := putKey t.ring (seq % 2048) (some r) })
  raise (wrF (bump s3 R.thCount 0 3 1) R.thStat 0 0 28 27 (if lock then 2 else 1)) E.mr 0 8

/-- The temperature of each array's nearest sensor in °C (R196); how a fraction is rounded the manual does not say.
DESIGN CHOICE, safe: log entry 98. -/
def arraysTake (s : State) (rs : List Reading) : State :=
  let (f, s0) := drawFree s
  (List.range 16).foldl (fun a b =>
    if !cmaHere a.variant b then a else
    match reading a (3 * b + 1) (nth rs (3 * b + 1) none) with
    | none => a
    | some v =>
      let c := if v % 8 ≠ 0 ∧ f.getLsbD b = true then v / 8 + 1 else v / 8
      calDueCheck (wrF a R.cmaTjNow b 0 7 0 (wrapTo 8 c)) b) s0

/-- `SENSOR_SAMPLE` (R539, R541–R545, R327): the readings of TS0–TS63. -/
def sensorSample (s : State) (rs : List Reading) : State :=
  let s0 := tsExpire s
  let here := (List.range 64).filter (sensorHere s0.variant)
  let vs := validOf s0 rs
  let bad := here.length - vs.length
  let s1 := here.foldl (fun a k => sensorTake a k (nth rs k none)) s0
  let s2 := match hottest vs with
    | some (k, v) => wrF (wrF s1 R.thStat 0 0 11 0 (tj12 v)) R.thStat 0 0 17 12 k
    | none => s1
  let s3 := if 8 < bad ∧ !rdB s2 R.thStat 0 0 29 then raise (wrB s2 R.thStat 0 0 29 true) E.th 0 8
    else if bad < 8 then wrB s2 R.thStat 0 0 29 false else s2
  let dev := deviceTj s3
  if tstate s3 ≠ 0 then s3
  else
    let zones := (List.range 38).filter (domainHere s3.variant)
    let s4 := zones.foldl (fun a d =>
      match hottest (vs.filter fun e => (zoneOf e.1).contains d) with
      | some (_, v) => zoneTake a d v true
      | none => zoneTake a d dev false) s3
    let s5 := levelsTake (arraysTake s4 rs) dev
    let run := if 960 ≤ dev then s5.th.shutRun + 1 else 0
    let hot1 := rdF s5 R.thStat 0 0 17 12
    let s6 := setTh s5 fun t => { t with shutRun := run, firstHot := if run = 1 then hot1 else t.firstHot }
    if run < 8 then s6
    else
      let k := s6.th.firstHot
      shutdown (closeAll s6) k (sext 12 (rdF s6 R.tsValue k 0 11 0)) (decide (tsInjKind s6 k = 1))

def execSensorSample (readings : List Reading) (s : State) : Host.Outcome State Fault Refusal := .next (sensorSample s readings)

/-- A reading as a register field: TJ and VALID. -/
def readField (r : Reading) : Nat := match r with | some v => tj12 v + 2 ^ 12 | none => 0

/-- `EXTERNAL_TEMP_READ` (R540, R542): the temperatures of the HBM stacks and the MRAM die, every millisecond; it counts the
milliseconds with THR_PCT below 100.
DESIGN CHOICE, unsafe: log entry 185. -/
def execExternalTempRead (t0 t1 mram : Reading) (s : State) : Host.Outcome State Fault Refusal :=
  .next (if tstate s ≠ 0 then s else
    let r1 := if stackHere s.variant 1 then t1 else none
    let s1 := wr (wr s R.thHbm 0 0 (packF [(0, readField t0), (16, readField r1)])) R.thMram 0 0 (packF [(0, readField mram)])
    let lim : Int := 8 * rdF s R.thCfg 0 0 15 8
    let over_ (r : Reading) : Bool := match r with | some v => decide (lim ≤ v) | none => false
    let nw := over_ t0 || over_ r1
    let before := throttled s1
    let s2 := raiseIf (nw && !s.th.hbmHot) (setTh s1 fun t => { t with hbmHot := nw }) E.th 0 5
    let s3 := if throttled s2 && !before then throttleStep s2 else s2
    if thPct s3 < 100 then bump s3 R.thCount 0 2 1 else s3)

/-- `THERMAL_RESTART_TIMER` (R545): device Tj has been below 90 °C for 10 s without a break. -/
def execThermalRestartTimer (s : State) : Host.Outcome State Fault Refusal :=
  .next (
    let t := tstate s
    if deviceTj s < 720 ∧ ((t = 1 ∧ (rdB s R.thCfg 0 0 0 = true ∨ s.th.restart = true)) ∨ (t = 2 ∧ s.th.restart = true)) then
      wrF s R.thStat 0 0 28 27 3
    else s)

/-- A write of a sensor's `SHELL_INJ` (R561): KIND 3 is ignored; KIND 0 ends what runs. -/
def sensorInjArm (s : State) (k kind value dur : Nat) : State :=
  if kind = 3 then s else
    let s1 := wr s R.tsInj k 0 (packF [(0, kind), (2, b2n (decide (kind ≠ 0))), (3, value), (16, dur)])
    setTh s1 fun t => { t with injEnd := putKey t.injEnd k (if kind = 0 ∨ dur = 0 then none else some (s.ats.toNat + dur * tcPerMs)) }

/-- `SENSOR_SHELL_INJ_ARM` (R561). -/
def execSensorShellInjArm (w : Writer) (k : Fin 64) (kind : Fin 4) (value : Fin 4096) (dur : Fin 65536) (s : State) :
    Host.Outcome State Fault Refusal :=
  .next (if mayInject s w && sensorHere s.variant k.val then sensorInjArm s k.val kind.val value.val dur.val else s)

/-- `MRAM_SHELL_INJ_ARM` (R561). -/
def execMramShellInjArm (w : Writer) (kind : Fin 4) (s : State) : Host.Outcome State Fault Refusal :=
  .next (if mayInject s w ∧ kind.val ≠ 3 then wr s R.mrInj 0 0 (packF [(0, kind.val), (2, b2n (decide (kind.val ≠ 0)))]) else s)

/-! ## The thermal commands (R562–R564) -/

/-- `THERM_STATUS` (R562). -/
def thermStatus (q : Req) (s : State) : Done :=
  if q.params ≠ [] then done s .badParam
  else doneW s [rd s R.thStat, rd s R.thCfg, rd s R.thTripseq, rd s R.thTripAtsLo, rd s R.thTripAtsHi, rd s R.thTripInfo, rd s R.thHbm,
    rd s R.thMram, w32 s.th.seconds]

/-- `THERM_CONFIG` (R563). -/
def thermConfig (q : Req) (s : State) : Done :=
  if !wellFormed q.params [0xFF01#32] ∨ !R.thCfg.legal (par q 0) then done s .badParam
  else done (wr s R.thCfg 0 0 (par q 0)) .ok

/-- `THERM_RESTART` (R564). -/
def thermRestart (q : Req) (s : State) : Done :=
  if q.params ≠ [] then done s .badParam
  else if tstate s = 0 ∨ tstate s = 3 then done s .state
  else done (setTh (wrF s R.thStat 0 0 28 27 1) fun t => { t with restart := true }) .ok

/-! ## The ledger's upkeep (R559) -/

/-- The bin of a device Tj (R558). -/
def tjBin (tj : Int) : Nat :=
  ([40, 55, 70, 85, 95, 105, 115].filter fun x => decide ((8 * x : Int) ≤ tj)).length

/-- A 64-bit ledger value. -/
def setLed64 (s : State) (k n : Nat) : State := setLed (setLed s k (lo32 n)) (k + 1) (hi32 n)

/-- The ledger's second (R559): `avg` is the 1 s average of device Tj. -/
def ledgerSecond (s : State) (avg : Int) : State :=
  let s1 := ledAdd48 (ledAdd48 s 1 1) (3 + 2 * tjBin avg) 1
  let low := s1.store.lowAvg.getD avg
  let cycle := decide (low + 320 < avg)
  let s2 := if cycle then ledAdd s1 20 1 else s1
  let s3 := setStore s2 fun t => { t with lowAvg := some (if cycle ∨ avg < low then avg else low), sinceWrite := t.sinceWrite + 1 }
  let known := decide (timState s3 ≠ 0)
  let gps := if known then gpsSeconds s3 else 0
  let s4 := if known ∧ pair64 (ledW s3 27) (ledW s3 28) = 0 then setLed64 s3 27 gps else s3
  let leaps := match s4.tim.leaps with | some l => l.toNat | none => 0
  setLed (setLed64 s4 29 gps) 31 (packF [(0, leaps), (8, b2n known)])

/-- `LEDGER_SECOND_UPDATE` (R559, R543): the always-on seconds counter counts too. -/
def execLedgerSecondUpdate (avg : Int) (s : State) : Host.Outcome State Fault Refusal :=
  .next (
    let s1 := setTh s fun t => { t with seconds := t.seconds + 1 }
    if tstate s = 0 ∧ fwUp s = true then ledgerSecond s1 avg else s1)

/-- `LEDGER_PERIODIC_WRITE` (R559). -/
def execLedgerPeriodicWrite (s : State) : Host.Outcome State Fault Refusal :=
  .next (if fwUp s = true ∧ 600 ≤ s.store.sinceWrite then writeLedger s else s)

/-! ## The journal commands (R565–R567) -/

/-- The slot of a stream's transport in bytes (R479). -/
def slotBytes (q : Req) : Nat := if q.stream.val = 8 then 256 else 4096

/-- `JOURNAL_READ` (R565). -/
def journalRead (q : Req) (s : State) : Done :=
  let w := par q 2
  let maxb := fld w 12 0
  let typ := fld w 23 16
  if !wellFormed q.params [0xFFFFFFFF#32, 0xFFFFFFFF#32, 0x00FF1FFF#32] ∨ maxb < 32 then done s .badParam
  else if slotBytes q - (if replyCrc s q then 32 else 28) < maxb then done s .lengthRange
  else doneW s (journalReply s (pair64 (par q 0) (par q 1)) maxb fun r => decide (typ = 0) || decide (r.typ = typ))

/-- `LEDGER_READ` (R566). -/
def ledgerRead (q : Req) (s : State) : Done :=
  let first := fld (par q 0) 7 0
  let n := fld (par q 0) 15 8
  if !wellFormed q.params [0xFFFF#32] ∨ n = 0 then done s .badParam
  else if 160 < first + n ∨ (q.stream.val = 8 ∧ 59 < n) then done s .lengthRange
  else doneW s (((ledgerWords s).drop first).take n)

/-- `JOURNAL_COMPACT` (R567). -/
def journalCompact (q : Req) (s : State) : Done :=
  if q.params ≠ [] then done s .badParam
  else if journalFull s.store.journal then done s .noResource
  else
    let s1 := compact s
    doneW s1 [rd s1 R.jnEpoch, rd s1 R.jnSeg]

/-- `COMPACTION` (R556): fewer than 16 segments are free. -/
def execCompaction (s : State) : Host.Outcome State Fault Refusal :=
  .next (if freeSegs s.store.journal < 16 ∧ !journalFull s.store.journal ∧ fwUp s = true then compact s else s)

/-! ## Boot profiles (R560, R568, R569) -/

/-- The packets that bytes hold end to end: each header whole with a correct HCHK; none where they do not just fill them. -/
def parsePackets : Nat → List Byte → Option (List (List W32))
  | 0, bs => if bs.isEmpty then some [] else none
  | k + 1, bs =>
    if bs.isEmpty then some []
    else
      let h := bytesWords 4 bs
      let w (i : Nat) : W32 := nth h i 0
      let n := 16 + 4 * fld (w 1) 15 0 + 4 * fld (w 1) 22 22
      if bs.length < 16 ∨ bs.length < n ∨ fld (w 3) 31 16 ≠ hchk (w 0) (w 1) (w 2) (fld (w 3) 15 0) then none
      else (parsePackets k (bs.drop n)).map fun l => bytesWords (n / 4) (bs.take n) :: l

/-- The bytes that an open profile write has been given, in the order of their offsets. -/
def openBytes (w : ProfWrite) : List Byte := w.bytes.map fun e => e.2

/-- The slot that a write goes to: the one not in force. -/
def otherSlot (s : State) : Nat := if s.store.profSel = some 0 then 1 else 0
def profileAt (s : State) (k : Nat) : Option Profile := if k = 0 then s.store.profA else s.store.profB

/-- `BOOT_PROFILE_WRITE` (R568). -/
def bootProfileWrite (q : Req) (s : State) : Done :=
  match (par q 0).toNat, q.params.length with
  | 0, 2 =>
    if 458688 < (par q 1).toNat then done s .lengthRange
    else done (setStore s fun t => { t with profOpen := some { len := (par q 1).toNat, bytes := [] } }) .ok
  | 1, n =>
    let off := (par q 1).toNat
    let data := wordBytes (q.params.drop 2)
    if n < 2 ∨ off % 4 ≠ 0 then done s .badParam
    else match s.store.profOpen with
      | none => done s .state
      | some w =>
        if w.len < off + data.length then done s .lengthRange
        else done (setStore s fun t => { t with profOpen := some { w with bytes := (data.zipIdx).foldl (fun m e => putKey m (off + e.2) (some e.1)) w.bytes } }) .ok
  | 2, 2 =>
    match s.store.profOpen with
    | none => done s .state
    | some w =>
      let bs := openBytes w
      if crc32c bs ≠ par q 1 then done s .integrity
      else match if bs.length = w.len then parsePackets (bs.length / 16 + 1) bs else none with
        | none => done s .badParam
        | some ps =>
          if journalFull s.store.journal then done s .noResource
          else
            let k := otherSlot s
            let p : Profile := { len := w.len, count := ps.length, crc := par q 1, bytes := bs }
            let at_ := 0x20000 + 0x70000 * k
            let s1 := setStore (rawClear s at_ (at_ + 0x70000)) fun t => { t with
              profA := if k = 0 then some p else t.profA, profB := if k = 0 then t.profB else some p, profSel := some k, profOpen := none }
            done (log s1 0x12 0 [packF [(0, k), (1, 1)], w32 w.len, par q 1]) .ok
  | 3, 1 =>
    if journalFull s.store.journal then done s .noResource
    else done (log (setStore s fun t => { t with profSel := none }) 0x12 0 [0, 0, 0]) .ok
  | _, _ => done s .badParam

/-- `BOOT_PROFILE_READ` (R569).
DEDUCED, safe: log entry 186. -/
def bootProfileRead (q : Req) (s : State) : Done :=
  let off := (par q 0).toNat
  let n := (par q 1).toNat
  if !wellFormed q.params [0xFFFFFFFC#32, 0xFFC#32] ∨ n = 0 then done s .badParam
  else if 4000 < n ∨ slotBytes q < 24 + n + (if replyCrc s q then 4 else 0) then done s .lengthRange
  else match s.store.profSel.bind (profileAt s) with
    | none => done s .state
    | some p =>
      let bs := (p.bytes.drop off).take n
      doneW s ([w32 p.len, p.crc] ++ bytesWords n bs)

end Sys2Proof.Machine
end

