-- ==== Sys2Proof/Machine/Detect.lean ====
section
/-! DEFINITION. The detectors: their catalogue, injection, sampling and the detector log (R570–R580). -/

namespace Sys2Proof.Machine

def setDet (s : State) (f : Detect → Detect) : State := { s with det := f s.det }

/-! ## The catalogue (R570) -/

/-- A detector instance as the sampling reads it (R577): its count; where that count comes from (0 telemetry counters, 1 the
block's saturating event counter, 2 the latched bits alone); its latched event bits; whether its block shows INJ; a block status
that counts and is read as a level (R16); which telemetry counters were read, where that can change. -/
structure DetUnit where
  count : Nat
  src   : Nat
  bits  : Nat
  inj   : Bool
  level : Nat := 0
  from_ : Nat := 0

/-- A DID of the catalogue. -/
def didValid (did : Nat) : Bool := decide (1 ≤ did) && decide (did ≤ 0x1F)

/-- How many units a DID numbers, and whether a unit is present in a variant. -/
def didUnits (did : Nat) : Nat := match did with
  | 0x01 => 16 | 0x02 => 128 | 0x03 => 2 | 0x04 => 2 | 0x05 => 1024 | 0x06 => 40 | 0x07 => 38 | 0x08 => 256 | 0x09 => 256
  | 0x0A => 64 | 0x0B => 256 | 0x0C => 38 | 0x0D => 38 | 0x0E => 38 | 0x0F => 64 | 0x10 => 16 | 0x11 => 16 | 0x12 => 16
  | 0x13 => 39 | 0x16 => 2 | 0x17 => 2 | 0x18 => 128 | 0x19 => 128 | 0x1A => 32 | 0x1B => 32 | 0x1C => 32 | _ => 1
def didHere (v : Variant) (did i : Nat) : Bool := match did with
  | 0x01 => benchHere v i
  | 0x02 => benchHere v (i / 8) | 0x18 => benchHere v (i / 8) | 0x19 => benchHere v (i / 8)
  | 0x03 => stackHere v i | 0x04 => stackHere v i
  | 0x05 => benchHere v (i / 64)
  | 0x06 => niHere v i
  | 0x07 => routerHere v i
  | 0x08 => laneHere v i | 0x09 => laneHere v i | 0x0B => laneHere v i
  | 0x0A => quadHere v i
  | 0x0C => domainHere v i | 0x0D => domainHere v i | 0x0E => domainHere v i | 0x13 => domainHere v i
  | 0x0F => sensorHere v i
  | 0x10 => cmaHere v i | 0x11 => cmaHere v i | 0x12 => cmaHere v i
  | _ => decide (i < didUnits did)

/-- The present units of a DID. -/
def didList (v : Variant) (did : Nat) : List Nat := (List.range (didUnits did)).filter (didHere v did)

/-- The event bits of a mask that are latched. -/
def latchedBits (s : State) (e : EvtReg) (u i : Nat) (mask : W32) : Nat := (rd s e.evt u i &&& mask).toNat

/-- An instance counted by telemetry counters. -/
def telemUnit (s : State) (e : EvtReg) (u i : Nat) (mask : W32) (n : Nat) (inj : Bool) : DetUnit :=
  { count := n, src := 0, bits := latchedBits s e u i mask, inj := inj }

/-- An instance counted by its block's event counter. -/
def eventUnit (s : State) (e : EvtReg) (u i : Nat) (mask : W32) (inj : Bool) : DetUnit :=
  { count := match e.cnt with | some c => (rd s c u i).toNat | none => 0, src := 1, bits := latchedBits s e u i mask, inj := inj }

/-- An injected memory error has been met at a word of a range since the last sample (R573). -/
def eccMet (s : State) (a n : Nat) : Bool := s.det.eccHits.any fun x => decide (a ≤ x) && decide (x < a + n)

/-- The telemetry counters of a lane's receive path, by its role: FEC and FCS of its MACs, FEC and CRC of its Lace port (R404,
R442); and which they are. -/
def laneErrors (s : State) (n : Nat) : Nat × Nat :=
  match laneRole s n with
  | 1 => (listSum ((macsOf s n).map fun m => rd64 s R.macCount m 2 + rd64 s R.macCount m 12 + rd64 s R.macCount m 13),
      1 + 4 * listSum ((macsOf s n).map fun m => 2 ^ m))
  | 2 => match lanePort s n with
    | some p => (rd64 s R.lcCount p 2 + rd64 s R.lcCount p 6 + rd64 s R.lcCount p 7, 2 + 4 * p)
    | none => (0, 0)
  | _ => (0, 0)

/-- The port that the Hoist takes its time from. -/
def hoistPort (s : State) : Nat := rdF s R.ldHoist 0 0 8 4

/-- A detector instance; one whose block has no INJ bit goes by the marks of its injections. -/
def detUnit (s : State) (did i : Nat) : DetUnit :=
  let mark := s.det.marked.contains (did + 256 * i)
  let cnt (r : Reg) (u k : Nat) := rd64 s r u k
  match did with
  | 0x01 => telemUnit s E.mem i 0 7#32 (cnt R.memCount i 0 + cnt R.memCount i 1) (eccMet s (benchBase i) 0x800000)
  | 0x02 => { count := cnt (R.lmemCount 0) (i / 8) (i % 8) + cnt (R.lmemCount 1) (i / 8) (i % 8), src := 0, bits := 0,
              inj := eccMet s (lmemBase (i / 8) (i % 8)) 0x90000 }
  | 0x03 => telemUnit s E.hbm i 0 7#32 (cnt R.hbmCount i 0 + cnt R.hbmCount i 1) (eccMet s (0x400000000 * i) 0x400000000)
  | 0x04 => eventUnit s E.hbm i 0 8#32 mark
  | 0x05 => telemUnit s E.q (i / 64) (i % 64) 0x20#32 (cnt (R.qCount 3) (i / 64) (i % 64)) (rdB s R.qStat (i / 64) (i % 64) 6)
  | 0x06 => telemUnit s E.ni i 0 1#32 (cnt R.niCount i 2) (rdB s R.niEvt i 0 6)
  | 0x07 => telemUnit s E.rt i 0 0x18#32 (cnt R.rtCount i 1 + cnt R.rtCount i 2) mark
  | 0x08 => telemUnit s E.lane i 0 1#32 (cnt R.lnCount i 2) (rdB s R.laneStat i 0 10)
  | 0x09 => telemUnit s E.lane i 0 2#32 (cnt R.lnCount i 3) (rdB s R.laneStat i 0 10)
  | 0x0A => eventUnit s E.quad i 0 1#32 mark
  | 0x0B => { count := (laneErrors s i).1, src := 0, bits := 0, inj := mark, level := rd64 s R.lnChkErrLo i, from_ := (laneErrors s i).2 }
  | 0x0C => eventUnit s E.ivr i 0 1#32 (rdB s R.ivrStat i 0 2)
  | 0x0D => eventUnit s E.ivr i 0 2#32 (rdB s R.ivrStat i 0 2)
  | 0x0E => eventUnit s E.ivr i 0 4#32 (rdB s R.ivrStat i 0 2)
  | 0x0F => if i = 64 then eventUnit s E.th 0 0 0x1FF#32 (rdB s R.tsStat (rdF s R.thStat 0 0 17 12) 0 1)
            else eventUnit s E.ts i 0 1#32 (rdB s R.tsStat i 0 1)
  | 0x10 => telemUnit s E.cma i 0 1#32 (cnt R.cmaCount i 9) (rdB s R.cmaStat i 0 13)
  | 0x11 => eventUnit s E.cma i 0 4#32 (rdB s R.cmaStat i 0 13)
  | 0x12 => eventUnit s E.cma i 0 0x10#32 (rdB s R.cmaStat i 0 13)
  | 0x13 => eventUnit s E.pd i 0 4#32 mark
  | 0x14 => eventUnit s E.mr 0 0 1#32 (rdB s R.mrStat 0 0 3)
  | 0x15 => telemUnit s E.mr 0 0 0x80#32 (cnt R.mrCount 0 3) (rdB s R.mrStat 0 0 3)
  | 0x16 => { count := if i = 0 then s.det.restarts.1 else s.det.restarts.2, src := 0, bits := 0, inj := mark }
  | 0x17 => { count := if i = 0 then s.det.restarts.1 else s.det.restarts.2, src := 0, bits := 0, inj := mark }
  | 0x18 => { count := 0, src := 2, bits := fld (coreOf s (i / 8) (i % 8)).ipend 3 3, inj := mark }
  | 0x19 => { count := 0, src := 2, bits := fld (coreOf s (i / 8) (i % 8)).status 7 0, inj := mark }
  | 0x1A => telemUnit s E.lc i 0 4#32 (cnt R.lcCount i 2) (rdB s R.lcEvt i 0 7)
  | 0x1B => telemUnit s E.lc i 0 0x10#32 (cnt R.lcCount i 4) mark
  | 0x1C => if i = hoistPort s then eventUnit s E.ld 0 0 0x10#32 mark else { count := 0, src := 2, bits := 0, inj := mark }
  | 0x1D => telemUnit s E.pn 0 0 3#32 (cnt R.pnCount 0 2 + cnt R.pnCount 0 3) (rdB s R.pnEvt 0 0 6)
  | 0x1E => { count := s.host.aer.length, src := 0, bits := 0, inj := mark }
  | _ => eventUnit s E.tim 0 0 0x100#32 mark

/-! ## The detector log (R577) -/

/-- Word 0 of a detector-log record, and its KEY. -/
def detWord (did i : Nat) (inj : Bool) : W32 := packF [(0, did), (8, b2n inj), (16, i)]

/-- What the sampling has kept of an instance; of counters read for the first time only what they count from now on. -/
def detSeen (s : State) (key : Nat) (u : DetUnit) : DetSeen :=
  match assoc s.det.seen key with
  | none => { count := 0, level := 0, from_ := u.from_, bits := 0, first := none, second := none }
  | some x => if x.from_ = u.from_ then x else { x with count := u.count, from_ := u.from_ }

/-- How many of the bits of n are 1. -/
def ones (n : Nat) : Nat := popcount (w32 n)

/-- Occurrences that a sample sees of an instance since its last record: of telemetry counters the difference modulo 2^64, of
block status the rise of its level (R16); 0xFFFF_FFFF where the count is unknown (R577).
DEDUCED, safe: log entry 103. -/
def occurred (u : DetUnit) (old : DetSeen) : Nat :=
  let fresh := (w32 u.bits &&& ~~~(w32 old.bits)).toNat
  match u.src with
  | 2 => ones fresh
  | 1 => if u.count = 0xFFFFFFFF ∧ fresh ≠ 0 then 0xFFFFFFFF else if u.bits = 0 then 0 else u.count - old.count
  | _ => satU 32 ((u.count % 2 ^ 64 + 2 ^ 64 - old.count % 2 ^ 64) % 2 ^ 64 + (u.level - old.level))

/-- One instance sampled: at most one DETECT record a second. -/
def sampleUnit (s : State) (did i : Nat) : State :=
  let key := did + 256 * i
  let shown := if did = 0x0F ∧ i = 64 then rdF s R.thStat 0 0 17 12 else i
  let u := detUnit s did i
  let old := detSeen s key u
  let n := occurred u old
  let now := s.ats.toNat / tcPerSec
  let put (a : State) (x : DetSeen) : State := setDet a fun d => { d with seen := putKey d.seen key (some x) }
  if n = 0 then
    if u.bits = old.bits ∧ (u.src ≠ 1 ∨ u.count = old.count) ∧ u.level = old.level ∧ (u.from_ = 0 ∨ assoc s.det.seen key = some old) then s
    else put s { old with bits := u.bits, level := u.level, count := if u.src = 1 ∧ u.bits = 0 then u.count else old.count }
  else
    let first := old.first.getD s.ats
    if old.second = some now ∧ u.src ≠ 2 then put s { old with bits := u.bits, first := some first }
    else
      let x : DetSeen := { count := u.count, level := u.level, from_ := u.from_, bits := u.bits, first := none, second := some now }
      let inj := u.inj || s.det.marked.contains key
      let s1 := put s x
      if journalFull s.store.journal then setJournal s1 fun j => { j with memOnly := j.memOnly + 1 }
      else
        let w := detWord did shown inj
        let s2 := log s1 0x20 (packF [(0, did), (16, shown)]) [w, w32 n, lo32 first.toNat, hi32 first.toNat]
        setDet s2 fun d => { d with
          last := putKey d.last did (some { did := did, inst := shown, ats := first, inj := inj }),
          marked := d.marked.filter fun k => decide (k ≠ key) }

/-- The DIDs that the sampling visits: those whose happenings are not FAULT records of their own (R574). -/
def sampledDids : List Nat := ((List.range 32).filter didValid).filter fun d => decide (d ≠ 0x16) && decide (d ≠ 0x17)

/-- `TELEMETRY_SAMPLE` (R577): Urvar samples every detector. -/
def telemetrySample (s : State) : State :=
  if !fwUp s then s else
  let s1 := sampledDids.foldl (fun a did => (didList a.variant did).foldl (fun b i => sampleUnit b did i) a) s
  setDet (sampleUnit s1 0x0F 64) fun d => { d with eccHits := [] }

def execTelemetrySample (s : State) : Host.Outcome State Fault Refusal := .next (telemetrySample s)

/-! ## Commands (R578–R580) -/

/-- `DET_STATUS` (R578). -/
def detStatus (q : Req) (s : State) : Done :=
  let did := (par q 0).toNat
  if !wellFormed q.params [0xFF#32] ∨ !didValid did then done s .badParam
  else
    let l := didList s.variant did
    if l.isEmpty then done s .notPresent
    else
      let us := l.map (detUnit s did)
      let th := if did = 0x0F then [detUnit s 0x0F 64] else []
      let sum := listSum ((us ++ th).map fun u => u.count + u.level)
      let lat := (us.filter fun u => decide (u.bits ≠ 0)).length
      match assoc s.det.last did with
      | none => doneW s [packF [(0, l.length), (16, lat)], lo32 sum, hi32 sum, 0, 0, 0]
      | some x => doneW s [packF [(0, l.length), (16, lat)], lo32 sum, hi32 sum, lo32 x.ats.toNat, hi32 x.ats.toNat,
          packF [(0, x.inst), (16, b2n x.inj)]]

/-- `DET_LOG_READ` (R580): `JOURNAL_READ` over records of types 0x20–0x22. -/
def detLogRead (q : Req) (s : State) : Done :=
  let w := par q 2
  let maxb := fld w 12 0
  let typ := fld w 23 16
  if !wellFormed q.params [0xFFFFFFFF#32, 0xFFFFFFFF#32, 0x00FF1FFF#32] ∨ maxb < 32 ∨ (typ ≠ 0 ∧ (typ < 0x20 ∨ 0x22 < typ)) then done s .badParam
  else if slotBytes q - (if replyCrc s q then 32 else 28) < maxb then done s .lengthRange
  else doneW s (journalReply s (pair64 (par q 0) (par q 1)) maxb fun r =>
    if typ = 0 then decide (0x20 ≤ r.typ) && decide (r.typ ≤ 0x22) else decide (r.typ = typ))

/-- ADDR lies in memory of the instance (R572). -/
def detAddrOk (v : Variant) (did i a : Nat) : Bool :=
  decide (a % 8 = 0) && (match did, unitOf v a with
    | 1, .bench b => decide (b = i)
    | 2, .lmem b c => decide (8 * b + c = i)
    | 3, .hbm h => decide (h = i)
    | 4, .hbm h => decide (h = i)
    | _, _ => false)

/-- The argument fields of a DID are in range (R570, R572). -/
def detArgsOk (s : State) (did i a0 a1 : Nat) : Bool := match did with
  | 0x01 | 0x02 | 0x03 => decide (a0 < 256) && decide (a0 ≠ 0) && (decide (ones a0 = 1) || decide (ones a0 % 2 = 0))
  | 0x05 => decide (a0 < 65536)
  | 0x07 => decide (a0 < 32) && decide (portsHere s.variant i / 2 ^ (a0 % 16) % 2 = 1)
  | 0x08 | 0x09 | 0x0C | 0x0D | 0x0E => decide (a0 < 65536)
  | 0x0A => decide (1 ≤ a0) && decide (a0 ≤ 2) && decide (a1 < 65536)
  | 0x0B => decide (a0 < 16384) && R.lnTest.legal (w32 (a0 * 128)) && decide (a0 % 4 ≠ 0)
  | 0x0F => decide (a0 < 4096) && decide (a1 < 65536)
  | 0x10 => decide (a0 < 256) && decide (a1 < 65536)
  | 0x13 => decide (a0 ≠ 0) && onlyBits (w32 a0) (lostMask i) && decide (a0 < 2 ^ 32)
  | 0x18 => decide (a0 ≤ 2)
  | 0x19 => decide (a0 < 8)
  | 0x1C | 0x1F => decide (1 ≤ a0) && decide (a0 ≤ 15)
  | 0x1D => decide (1 ≤ a0) && decide (a0 ≤ 3)
  | 0x1E => decide (a0 ≤ 4)
  | _ => true

/-- An injection of a DID at an instance is held as armed outside the registers. -/
def armedAt (s : State) (did i : Nat) : Bool := s.det.armed.any fun e => decide (e.1 = did) && decide (e.2.1 = i)

/-- The injection point is armed or active (R579). -/
def detBusy (s : State) (did i : Nat) : Bool := match did with
  | 0x05 => rdB s R.qInj (i / 64) (i % 64) 0
  | 0x06 => rdB s R.niInj i 0 0
  | 0x07 => rdB s R.rtInj i 0 5
  | 0x08 | 0x09 => rdB s R.laneInj i 0 2
  | 0x0A => rdB s R.quadInj i 0 2
  | 0x0B => (laneSt s i).injOn || decide ((laneSt s i).flips ≠ 0)
  | 0x0C | 0x0D | 0x0E => rdB s R.ivrInj i 0 2
  | 0x0F => rdB s R.tsInj i 0 2
  | 0x10 | 0x11 | 0x12 => rdB s R.cmaInj i 0 3
  | 0x13 => decide ((domOf s i).canary ≠ 0)
  | 0x14 | 0x15 => rdB s R.mrInj 0 0 2
  | 0x16 => s.det.kickOff.contains i
  | 0x17 => s.det.cmpForce.contains i
  | 0x1A | 0x1B => rdB s R.lcInj i 0 0 || armedAt s 0x1B i
  | 0x1C => decide ((portOf s i).ignore ≠ 0)
  | 0x1D => decide (rd s R.pnInj &&& 3#32 ≠ 0)
  | _ => armedAt s did i

/-- The unit's state forbids the injection (R579). -/
def detState (s : State) (did i : Nat) : Bool := match did with
  | 0x0B => !mayFlip s i
  | 0x13 => !stateAllowed i 2
  | 0x1C => decide (upstream s ≠ some i)
  | _ => false

/-- The sensor range of R539: a VALUE outside it is an invalid reading. -/
def tsInRange (v : Nat) : Bool := decide (-360 ≤ sext 12 v) && decide (sext 12 v ≤ 1200)

/-- An ECC write (R572): the word's data is written back with a check byte that differs in the mask's bits. -/
def eccWrite (s : State) (a mask : Nat) : State :=
  let k : Mark := if ones mask = 1 then .single else if mask = 3 then .poison else .double
  let s1 := { s with mem := s.mem.setMark (a / 8) k }
  setDet s1 fun d => { d with eccAddrs := if d.eccAddrs.contains a then d.eccAddrs else a :: d.eccAddrs,
                              eccSkip := if d.eccSkip.contains a then d.eccSkip else a :: d.eccSkip }

def armDet (s : State) (did i a0 addr : Nat) : State := setDet s fun d => { d with armed := d.armed ++ [(did, i, a0, addr)] }

/-- An injection is armed, or acts where it acts at once. R571 lets code at F on an Awl core raise its own DIDs 0x18 and 0x19, and
no opcode, CSR bit or register of the manual does so: here `DET_INJECT` alone raises them.
DESIGN CHOICE, safe: log entry 163. -/
def detArm (s : State) (did i a0 a1 addr : Nat) : State := match did with
  | 0x01 | 0x02 | 0x03 => eccWrite s addr a0
  | 0x05 => wr s R.qInj (i / 64) (i % 64) (packF [(0, 1), (1, a0)])
  | 0x06 => wr s R.niInj i 0 1
  | 0x07 => wr s R.rtInj i 0 (packF [(0, a0 % 16), (4, a0 / 16 % 2), (5, 1)])
  | 0x08 => lanesMoved (laneInjArm s i 1 a0)
  | 0x09 => lanesMoved (laneInjArm s i 2 a0)
  | 0x0A => lanesMoved (quadInjArm s i a0 a1)
  | 0x0B => testWrite s i (setFld (rd s R.lnTest i) 20 7 a0 ||| 0x00200000#32)
  | 0x0C => ivrInjArm s i 1 a0
  | 0x0D => ivrInjArm s i 2 a0
  | 0x0E => ivrInjArm s i 3 a0
  | 0x0F =>
    let s1 := wr s R.tsInj i 0 (packF [(0, if tsInRange a0 then 1 else 2), (2, 1), (3, a0), (16, a1)])
    let stop := if a1 = 0 then none else some (s.ats.toNat + a1 * tcPerMs)
    setTh s1 fun t => { t with injEnd := putKey t.injEnd i stop }
  | 0x10 => setCma (wr s R.cmaInj i 0 (packF [(0, 1), (3, 1), (8, a0), (16, a1)])) i fun c => { c with injLeft := a1 }
  | 0x11 => wr s R.cmaInj i 0 (packF [(0, 2), (3, 1)])
  | 0x12 => wr s R.cmaInj i 0 (packF [(0, 3), (3, 1)])
  | 0x13 => setDom s i fun d => { d with canary := w32 a0 }
  | 0x14 => wr s R.mrInj 0 0 (packF [(0, 1), (2, 1)])
  | 0x15 => wr s R.mrInj 0 0 (packF [(0, 2), (2, 1)])
  | 0x16 => setDet s fun d => { d with kickOff := i :: d.kickOff }
  | 0x17 => setDet s fun d => { d with cmpForce := i :: d.cmpForce }
  | 0x18 =>
    let s1 := watchdogExpire s (i / 8) (i % 8)
    if a0 = 2 ∧ (coreOf s1 (i / 8) (i % 8)).wdFirst then watchdogExpire s1 (i / 8) (i % 8) else s1
  | 0x19 =>
    let c := coreOf s (i / 8) (i % 8)
    putCore s (i / 8) (i % 8) { c with status := setBit c.status a0 true }
  | 0x1A => wrB s R.lcInj i 0 0 true
  | 0x1B => armDet (wrB s R.lcInj i 0 0 true) did i 8 0
  | 0x1C => modPort s i fun p => { p with ignore := a0 }
  | 0x1D => wr s R.pnInj 0 0 (w32 a0)
  | 0x1E => aerReport s a0
  | _ => armDet s did i a0 addr

/-- DIDs whose block has no INJ bit. -/
def noInjBit (did : Nat) : Bool := [0x04, 0x07, 0x0A, 0x0B, 0x13, 0x16, 0x17, 0x18, 0x19, 0x1B, 0x1C, 0x1E, 0x1F].contains did

/-- `DET_INJECT` (R573, R579): the session is checked before (R500). -/
def detInject (q : Req) (s : State) : Done :=
  let w := par q 0
  let did := fld w 7 0
  let i := fld w 31 16
  let a0 := (par q 1).toNat
  let a1 := (par q 2).toNat
  let addr := pair64 (par q 3) (par q 4)
  if !wellFormed q.params [0xFFFF00FF#32, 0xFFFFFFFF#32, 0xFFFFFFFF#32, 0xFFFFFFFF#32, 0xFFFF#32] ∨ !didValid did ∨ didUnits did ≤ i then done s .badParam
  else if (4 < did ∧ addr ≠ 0) ∨ (did ≤ 4 ∧ addr % 8 ≠ 0) ∨ !detArgsOk s did i a0 a1 then done s .badParam
  else if !didHere s.variant did i then done s .notPresent
  else if did ≤ 4 ∧ !detAddrOk s.variant did i addr then done s .badParam
  else if detBusy s did i then done s .busy
  else if detState s did i then done s .state
  else
    let (s1, seq) := append s 0x21 0 (packF [(0, did), (16, i)]) [detWord did i true, par q 1, par q 2, par q 3, par q 4, w32 q.stream.val]
    let key := did + 256 * i
    let s2 := if noInjBit did then setDet s1 fun d => { d with marked := if d.marked.contains key then d.marked else key :: d.marked } else s1
    doneW (detArm s2 did i a0 a1 addr) [lo32 seq, hi32 seq]

end Sys2Proof.Machine
end

