-- ==== Sys2Proof/Machine/Staging.lean ====
section
/-! DEFINITION. The commit junction: the checks and the staging of every commit, groups, application at the boundary,
domain-wide commits (R15, R40, R465, R466, R495–R498, R503–R505). -/

namespace Sys2Proof.Machine

/-! ## One commit -/

/-- The commits in the order in which they apply (R497). -/
def commitOps : List Nat := [0x0110, 0x0111, 0x0503, 0x0308, 0x0301, 0x0705, 0x0302, 0x0703]
def commitRank (op : Nat) : Nat := commitOps.length - ((commitOps.dropWhile fun o => decide (o ≠ op)).length)

/-- Which parameter word a commit's boundary pair starts at. -/
def bndAt (op : Nat) : Nat := match op with | 0x0301 => 2 | 0x0308 => 0 | _ => 1
def bndW0 (op : Nat) (ps : List W32) : W32 := nth ps (bndAt op) 0#32
def bndW1 (op : Nat) (ps : List W32) : W32 := nth ps (bndAt op + 1) 0#32

/-- A commit's own checks, up to those of R496. -/
def commitCheck (s : State) (op : Nat) (ps : List W32) : Status := match op with
  | 0x0110 => hbmPartitionCheck s (jitBuffers s) ps
  | 0x0111 => queueConfigCheck s ps
  | 0x0503 => fhFlowCheck s ps
  | 0x0308 => govPolicyCheck s ps
  | 0x0301 => cellStartCheck s ps
  | 0x0302 => cellStopCheck s ps
  | 0x0705 => match tddCheck s ps with
    | .ok => if tddLate s ps then .late else .ok
    | st => st
  | _ => .badParam

/-- The record of a commit: a `CELL_START` carries its handle behind its words. -/
def commitRec (s : State) (op : Nat) (q : Req) (prepared : Bool) : Commit :=
  let c := mkCommit op q (bndW0 op q.params) (bndW1 op q.params) prepared
  if op = 0x0301 then { c with params := q.params ++ [w32 ((nextHandle s).getD 0)] } else c

/-- What the staging of a commit changes at once: a cell comes to be STARTING, commitments follow tables and stops. -/
def stagedNow (s : State) (c : Commit) : State := match c.opcode with
  | 0x0301 => cellStartStaged s c.params (nth c.params 4 0#32).toNat
  | 0x0302 => govSync s
  | 0x0705 => govSync s
  | _ => s

/-- The words of a commit's `OK` reply. -/
def commitOut (c : Commit) : List W32 := if c.opcode = 0x0301 then [nth c.params 4 0#32] else []

/-- A commit other than a step or a group checked and staged (R495, R496). -/
def stageOne (s : State) (op : Nat) (q : Req) (prepared : Bool) : State × Status × List W32 :=
  match commitCheck s op q.params with
  | .ok =>
    let c := commitRec s op q prepared
    match stage s c with
    | (s1, .ok) => (stagedNow s1 c, .ok, commitOut c)
    | (_, st) => (s, st, [])
  | st => (s, st, [])

/-! ## Groups (R505) -/

/-- The packets that a list of words holds end to end, none where n of them do not just fill it. -/
def innerPackets : Nat → List W32 → Option (List (List W32))
  | 0, [] => some []
  | 0, _ => none
  | n + 1, ws =>
    let k := 4 + fld (nth ws 1 0#32) 15 0
    if ws.length < k then none else (innerPackets n (ws.drop k)).map fun l => ws.take k :: l

/-- A packet's opcode, and its words as a request of a stream. -/
def pktOp (pk : List W32) : Nat := fld (nth pk 0 0#32) 15 0
def pktReq (pk : List W32) (stream : Fin 11) : Req :=
  { stream := stream, tag := BitVec.ofNat 16 (fld (nth pk 0 0#32) 31 16), note := bit (nth pk 1 0#32) 24, crcv := false, self := true, source := 0,
    params := pk.drop 4 }

/-- An inner packet's header is faulty: HCHK, HVER 1, CRCV 0, LOCAL 1, neither reply nor event, the other fields 0 (R505). -/
def innerHdrBad (pk : List W32) : Bool :=
  let w (i : Nat) : W32 := nth pk i 0#32
  decide (fld (w 3) 31 16 ≠ hchk (w 0) (w 1) (w 2) (fld (w 3) 15 0)) || decide (fld (w 1) 19 16 ≠ 1) || decide (fld (w 1) 23 20 ≠ 8) ||
  decide (fld (w 1) 31 25 ≠ 0) || decide (w 2 ≠ 0) || decide (fld (w 3) 15 0 ≠ 0) || decide (pk.length ≠ 4 + fld (w 1) 15 0)

/-- An inner packet names another instant than B. -/
def otherInstant (pk : List W32) (b : Nat) : Bool := decide (boundary (bndW0 (pktOp pk) (pk.drop 4)) (bndW1 (pktOp pk) (pk.drop 4)) ≠ b)

/-- An inner packet breaks the rules of a group at boundary b. -/
def innerBad (pk : List W32) (b : Nat) : Bool :=
  innerHdrBad pk || !(commitOps.contains (pktOp pk)) || decide (pktOp pk = 0x0703) || otherInstant pk b

/-- The inner commands checked in order, each against what the earlier ones would leave; the failing index and status, or
the inner records. -/
def stageInner (q : Req) (b : Nat) (prepared : Bool) : State → Nat → List (List W32) → State × (Nat × Status) × List Inner
  | s, _, [] => (s, (0x3F, .ok), [])
  | s, i, pk :: r =>
    if innerBad pk b then (s, (i, .badParam), [])
    else match commitCheck s (pktOp pk) (pk.drop 4) with
      | .ok =>
        let c := commitRec s (pktOp pk) (pktReq pk q.stream) prepared
        let s1 := stagedNow (setPn s fun p => { p with commits := p.commits ++ [c] }) c
        let (s2, f, l) := stageInner q b prepared s1 (i + 1) r
        (s2, f, { opcode := c.opcode, tag := c.tag, note := c.note, params := c.params } :: l)
      | st => (s, (i, st), [])

/-- The reply word of a group (R505). -/
def groupWord (i : Nat) (st : Status) : List W32 := [packF [(0, i), (16, statNum st)]]

/-- `COMMIT_GROUP` checked and staged (R505). -/
def stageGroup (s : State) (q : Req) (prepared : Bool) : State × Status × List W32 :=
  let n := (par q 0).toNat
  let b := boundary (par q 1) (par q 2)
  let whole (st : Status) : State × Status × List W32 := (s, st, groupWord 0x3F st)
  if q.params.length < 3 ∨ n = 0 ∨ 32 < n then whole .badParam
  else match innerPackets n (q.params.drop 3) with
    | none => whole .lengthRange
    | some pks =>
      if bndFault s (par q 1) (par q 2) then whole .badParam
      else match stageInner q b prepared s 0 pks with
      | (s1, (_, .ok), inner) =>
        let c := { mkCommit 0x0203 q (par q 1) (par q 2) prepared with inner := inner }
        match stage s c with
        | (_, .ok) => (govSync (setPn s1 fun p => { p with commits := s.pn.commits ++ [c] }), .ok, groupWord 0x3F .ok)
        | (_, st) => whole st
      | (_, (i, st), _) => (s, st, groupWord i st)

/-- `TIME_STEP` checked and staged (R49); cells and commitments follow the commits that it refuses (R40, R317). -/
def stageStep (s : State) (q : Req) (domain : Bool) : Done :=
  let d := timeStep q domain s
  { d with st := if d.stat = .ok then cellsSync d.st else d.st }

/-- Any commit checked and staged; `prepared` for one that a domain commit brings (R42, R465). -/
def stageAny (s : State) (op : Nat) (q : Req) (prepared : Bool) : State × Status × List W32 :=
  if op = 0x0203 then stageGroup s q prepared
  else if op = 0x0703 then
    let d := stageStep s q prepared
    (d.st, d.stat, d.out)
  else stageOne s op q prepared

/-- A commit command. -/
def commitCmd (op : Nat) (q : Req) (s : State) : Done :=
  let (s1, st, ws) := stageAny s op q false
  { st := s1, stat := st, out := ws, hold := false }

/-! ## Application (R497) -/

/-- One command of a commit takes effect. -/
def applyCommand (s : State) (op : Nat) (ps : List W32) (b : Nat) : State := match op with
  | 0x0110 => hbmPartitionApply s ps
  | 0x0111 => queueConfigApply s ps
  | 0x0503 => fhFlowApply s ps
  | 0x0308 => govPolicyApply s ps
  | 0x0301 => cellStartApply s ps
  | 0x0705 => tddApply s ps
  | 0x0302 => cellStopApply s ps b
  | _ => s

/-- A commit's place among those of its boundary: that of its opcode, for a group that of its earliest-listed inner command. -/
def commitPlace (c : Commit) : Nat := if c.inner.isEmpty then commitRank c.opcode else
  c.inner.foldl (fun a i => Nat.min a (commitRank i.opcode)) commitOps.length

/-- EV_COMMIT `OK` where NOTE was set. -/
def noteCommit (s : State) (note : Bool) (op : Nat) (tag : W16) (stream : Nat) (w0 w1 : W32) : State :=
  if note then emitCommit s op tag stream w0 w1 .ok else s

/-- A commit takes effect and leaves the shadow state. -/
def applyCommit (s : State) (c : Commit) : State :=
  let s0 := setPn s fun p => { p with commits := removeFirst (fun d => decide (d = c)) p.commits }
  if c.inner.isEmpty then noteCommit (applyCommand s0 c.opcode c.params c.bnd) c.note c.opcode c.tag c.stream c.w0 c.w1
  else
    let l := sortBy (fun a b => decide (commitRank a.opcode < commitRank b.opcode)) c.inner
    let s1 := l.foldl (fun a i => applyCommand a i.opcode i.params c.bnd) s0
    let s2 := l.foldl (fun a i => noteCommit a i.note i.opcode i.tag c.stream (bndW0 i.opcode i.params) (bndW1 i.opcode i.params)) s1
    noteCommit s2 c.note c.opcode c.tag c.stream c.w0 c.w1

/-- A commit is due: its boundary lies at or before the present tick, and no domain commit still holds it PREPARED.
DEDUCED, unsafe: log entry 34. -/
def commitDue (s : State) (c : Commit) : Bool :=
  decide (c.opcode ≠ 0x0703) && !c.prepared && decide (c.bnd / tcTick ≤ tickNow s)

/-- The due commit that applies first: by boundary, then R497's order, then acceptance. -/
def firstCommit (s : State) : Option Commit :=
  (sortBy (fun a b => decide (a.bnd < b.bnd) || (decide (a.bnd = b.bnd) && decide (commitPlace a < commitPlace b))) (s.pn.commits.filter (commitDue s))).head?

def applyDueN : Nat → State → State
  | 0, s => s
  | n + 1, s => match firstCommit s with
    | none => s
    | some c => applyDueN n (applyCommit s c)

/-- Every due commit is applied. -/
def applyDue (s : State) : State := applyDueN s.pn.commits.length s

/-- `COMMIT_APPLY` (R497). -/
def execCommitApply (s : State) : Host.Outcome State Fault Refusal := .next (applyDue s)

/-- `TIME_STEP_APPLY` (R40): the commits naming H apply first, then the step; `err` is the phase error measured at H. -/
def execTimeStepApply (err : Int) (s : State) : Host.Outcome State Fault Refusal :=
  .next (match pendingStep s with
    | none => s
    | some c => if c.prepared ∨ s.ats.toNat < c.bnd then s else applyStep (applyDue s) c err)

/-! ## Commands over pending commits (R503, R504) -/

/-- The pending commits by boundary, then by acceptance. -/
def commitList (s : State) : List Commit := sortBy (fun a b => decide (a.bnd < b.bnd)) s.pn.commits

/-- `COMMIT_STATUS` (R503). -/
def commitStatus (q : Req) (s : State) : Done :=
  if !wellFormed q.params [0xFFF#32] then done s .badParam
  else
    let l := ((commitList s).drop (par q 0).toNat).take 250
    doneW s ([w32 s.pn.commits.length, w32 l.length] ++ l.flatMap fun c => [packF [(0, c.opcode), (16, c.tag.toNat)], w32 c.stream, c.w0, c.w1])

/-- The handles that a commit's `CELL_START`s would create. -/
def startsOf (c : Commit) : List Nat :=
  (if c.inner.isEmpty then [(c.opcode, c.params)] else c.inner.map fun i => (i.opcode, i.params)).filterMap fun e =>
    if e.1 = 0x0301 then some (nth e.2 4 0#32).toNat else none

/-- `COMMIT_CANCEL` (R504). -/
def commitCancel (q : Req) (s : State) : Done :=
  let op := fld (par q 0) 15 0
  let tag := BitVec.ofNat 16 (fld (par q 0) 31 16)
  let stream := (par q 1).toNat
  if !wellFormed q.params [0xFFFFFFFF#32, 0xF#32] ∨ op = 0x0703 ∨ 10 < stream then done s .badParam
  else match s.pn.commits.find? fun c => decide (c.opcode = op) && decide (c.tag = tag) && decide (c.stream = stream) with
    | none => done s .state
    | some c =>
      let rest_ := removeFirst (fun d => decide (d = c)) s.pn.commits
      if rest_.any fun d => (startsOf c).any fun h => concerns h d then done s .state
      else if passed s c.bnd then done s .late
      else done (cellsSync (setPn s fun p => { p with commits := rest_ })) .ok

/-! ## Domain-wide commits (R465, R466) -/

/-- The device has DIVERGED (R466). -/
def diverged (s : State) : Bool := rdB s R.ldId 0 0 21

/-- PREPARE at a target (R465): the inner command is checked and staged as if issued here, and held as PREPARED. A time step is for
the masthead and the devices that keep the Hoist's time (R466): another answers `OK` and takes no part.
DEDUCED, unsafe: log entry 179. -/
def prepareHere (s : State) (pk : List W32) (stream : Fin 11) : State × Status × List W32 :=
  if diverged s then (s, .state, [])
  else if innerHdrBad pk then (s, .badParam, [])
  else if pktOp pk = 0x0703 ∧ acting s ≠ 2 ∧ refInUse s ≠ 1 then (s, .ok, [])
  else stageAny s (pktOp pk) (pktReq pk stream) true

/-- The staging of a PREPARED commit of an opcode and tag. -/
def preparedOf (s : State) (op : Nat) (tag : W16) : Option Commit :=
  s.pn.commits.find? fun c => c.prepared && decide (c.opcode = op) && decide (c.tag = tag)

/-- CONFIRM: the staging will apply at B. -/
def confirmHere (s : State) (op : Nat) (tag : W16) : State :=
  match preparedOf s op tag with
  | none => s
  | some c => setPn s fun p => { p with commits := p.commits.map fun d => if d = c then { d with prepared := false } else d }

/-- A PREPARED staging is discarded. -/
def discardPrepared (s : State) (c : Commit) : State :=
  if c.opcode = 0x0703 then dropStep s
  else cellsSync (setPn s fun p => { p with commits := removeFirst (fun d => decide (d = c)) p.commits })
def abortHere (s : State) (op : Nat) (tag : W16) : State :=
  match preparedOf s op tag with
  | none => s
  | some c => discardPrepared s c

/-- A domain commit starts at the masthead: PREPARE goes to every target, and its stream is held (R465). -/
def domainStart (s : State) (q : Req) (op bnd : Nat) (targets : List Nat) (pk : List W32) : Done :=
  let own := ownId s
  let (s1, st, out) := if targets.contains own then prepareHere s pk q.stream else (s, .ok, [])
  let s2 := (targets.filter fun d => decide (d ≠ own)).foldl (fun a d => laceMsg a 8 d pk) s1
  let c : DCommit := { req := q, opcode := op, bnd := bnd, targets := targets, replies := if targets.contains own then [(own, st)] else [],
                       confirmed := false, acks := [], inner := pk, refused := nth out 0 0 }
  holding (setLace s2 fun l => { l with commits := l.commits ++ [c] })

/-- The IDs of a domain: the masthead's own and its members'. -/
def everyDevice (s : State) : List Nat := ownId s :: s.lace.members.map fun m => m.1

/-- Device IDs two to a word. -/
def idList (n : Nat) (ws : List W32) : List Nat := (ws.flatMap fun w => [fld w 15 0, fld w 31 16]).take n

/-- `LACE_DOMAIN_COMMIT` (R475). -/
def laceDomainCommit (q : Req) (s : State) : Done :=
  let n := fld (par q 0) 15 0
  let k := (n + 1) / 2
  let pk := q.params.drop (3 + k)
  let b := boundary (par q 1) (par q 2)
  if acting s ≠ 2 then done s .notPermitted
  else if 1000 < n then done s .lengthRange
  else if !onlyBits (par q 0) 0xFFFF#32 ∨ q.params.length < 3 + k + 4 ∨ bndFault s (par q 1) (par q 2) ∨ innerHdrBad pk ∨
      !(commitOps.contains (pktOp pk) || decide (pktOp pk = 0x0203)) ∨ otherInstant pk b ∨
      bndFault s (bndW0 (pktOp pk) (pk.drop 4)) (bndW1 (pktOp pk) (pk.drop 4)) then done s .badParam
  else if passed s b then done s .late
  else domainStart s q 0x0608 b (if n = 0 then everyDevice s else (idList n ((q.params.drop 3).take k)).dedup) pk

/-- `TIME_STEP` (R42, R49): at a masthead with members it runs as a domain-wide commit. -/
def timeStepCmd (q : Req) (s : State) : Done :=
  if acting s = 2 ∧ !s.lace.members.isEmpty then
    let d := timeStep q true s
    if d.stat ≠ .ok then { d with st := s }
    else
      let flags := 2 ^ 23 + (if q.note then 2 ^ 24 else 0)
      domainStart s q 0x0703 (boundary (par q 1) (par q 2)) (everyDevice s) (mkPacket 0x0703 q.tag.toNat flags 0 0 0 q.params false)
  else stageStep s q false

/-- A domain commit ends: its reply (R465, R466, R475). -/
def domainEnd (s : State) (c : DCommit) (st : Status) (dev : Nat) (dst : Status) (missing : List Nat) : State :=
  let s1 := setLace s fun l => { l with commits := removeFirst (fun d => decide (d = c)) l.commits }
  let ids := bytesWords 500 (missing.flatMap (bytesOf 2))
  let out := if c.opcode = 0x0703 then (if st = .ok then [c.refused] else [])
    else [packF [(0, if dst = .ok then 0 else dev), (16, statNum dst)], w32 missing.length] ++ ids
  endHeld s1 c.opcode c.req st out

/-- The domain commit that a stream holds. -/
def domainOf (s : State) (stream : Nat) : Option DCommit := s.lace.commits.find? fun c => decide (c.req.stream.val = stream)

def innerTag (c : DCommit) : W16 := BitVec.ofNat 16 (fld (nth c.inner 0 0#32) 31 16)

/-- Tick B − CONF_LEAD has come. -/
def confirmLate (s : State) (c : DCommit) : Bool := decide (c.bnd / tcTick ≤ tickNow s + rdF s R.ldCfg 0 0 23 16)

/-- The last tick before B has come. -/
def lastTick (s : State) (b : Nat) : Bool := decide (b / tcTick ≤ tickNow s + 1)

/-- The decision of R465 with the replies at hand: CONFIRM, ABORT, or wait.
DEDUCED, unsafe: log entry 35. -/
def domainDecide (s : State) (c : DCommit) (rs : List (Nat × Status)) : State :=
  let answer_ (d : Nat) : Option Status := ((c.replies ++ rs).find? fun e => decide (e.1 = d)).map fun e => e.2
  let all := c.targets.all fun d => (answer_ d).isSome
  let fails := c.targets.filterMap fun d => match answer_ d with
    | some .ok => none
    | some st => some (d, st)
    | none => some (d, Status.remoteUnreachable)
  let others := c.targets.filter fun d => decide (d ≠ ownId s)
  let late := confirmLate s c
  if c.confirmed ∨ (!all ∧ !late) then s
  else if fails.isEmpty ∧ !late then
    let s1 := others.foldl (fun a d => laceMsg a 9 d [packF [(0, pktOp c.inner), (16, (innerTag c).toNat)]]) s
    let s2 := confirmHere s1 (pktOp c.inner) (innerTag c)
    let c2 := { c with confirmed := true, acks := c.targets.filter fun d => decide (d = ownId s) }
    if others.isEmpty then domainEnd s2 c .ok 0 .ok []
    else setLace s2 fun l => { l with commits := l.commits.map fun d => if d = c then c2 else d }
  else
    let s1 := others.foldl (fun a d => laceMsg a 10 d [packF [(0, pktOp c.inner), (16, (innerTag c).toNat)]]) s
    let s2 := abortHere s1 (pktOp c.inner) (innerTag c)
    let f := fails.headD (0, .ok)
    domainEnd s2 c (if late ∨ fails.any (fun e => decide (e.2 = .late)) then .late else .state) f.1 f.2 []

/-- An acknowledgement of CONFIRM (R466). -/
def domainAck (s : State) (c : DCommit) (dev : Nat) : State :=
  if !c.confirmed ∨ !c.targets.contains dev then s
  else
    let c2 := { c with acks := if c.acks.contains dev then c.acks else c.acks ++ [dev] }
    if c.targets.all fun d => c2.acks.contains d then domainEnd s c .ok 0 .ok []
    else setLace s fun l => { l with commits := l.commits.map fun d => if d = c then c2 else d }

/-- At tick B − 1 acknowledgements are missing: `PARTIAL`, and the devices concerned are told (R466). -/
def domainDeadline (s : State) (c : DCommit) : State :=
  if !c.confirmed ∨ !lastTick s c.bnd then s
  else
    let missing := c.targets.filter fun d => !c.acks.contains d
    let s1 := missing.foldl (fun a d => laceMsg a 11 d []) s
    domainEnd s1 c .partialDone (missing.headD 0) .timeout missing

/-- `PREP_EXPIRED` (R466): PREPARED stagings whose tick B − 1 has come are discarded; a device that the masthead's
`PARTIAL` names has DIVERGED. -/
def prepExpired (s : State) (named : Bool) : State :=
  let gone := s.pn.commits.filter fun c => c.prepared && lastTick s c.bnd
  let s1 := gone.foldl discardPrepared s
  let s2 := if gone.isEmpty then s1 else raise s1 E.ld 0 6
  if named && joined s2 then raise (wrB s2 R.ldId 0 0 21 true) E.ld 0 7 else s2

end Sys2Proof.Machine
end

