-- ==== Sys2Proof/Machine/Commands.lean ====
section
/-! DEFINITION. The Pennant commands: the streams, the opcode index with its permissions, the commands of the Pennant
chapter, and one meaning per command (R7, R480–R508). -/

namespace Sys2Proof.Machine

/-! ## Commands of the Pennant chapter -/

/-- `DEV_CAPS` (R7): the variant word and the masks of the quads present. -/
def devCaps (q : Req) (s : State) : Done :=
  if q.params.length ≠ 0 then done s .badParam
  else
    let quads (k : Nat) : W32 := packF ((List.range 32).map fun i => (i, b2n (quadHere s.variant (32 * k + i))))
    doneW s [Variant.caps s.variant, quads 0, quads 1]

/-- `DEV_ECHO` (R501). -/
def devEcho (q : Req) (s : State) : Done := if 16 < q.params.length then done s .lengthRange else doneW s q.params

/-- `PENNANT_CONFIG` (R502): from streams 0–7 and 10 only. -/
def pennantConfig (q : Req) (s : State) : Done :=
  if q.stream.val = 8 ∨ q.stream.val = 9 then done s .notPermitted
  else if !wellFormed q.params [0xFF03#32] ∨ fld (par q 0) 15 8 = 0 then done s .badParam
  else done (wr s R.pnCfg 0 0 (par q 0)) .ok

/-- `EVENT_SINK_SET` (R506). -/
def eventSinkSet (q : Req) (s : State) : Done :=
  let w := par q 0
  let k := fld w 2 0
  if q.stream.val = 8 then done s .notPermitted
  else if !wellFormed q.params [0xFFFF003F#32] ∨ k = 0 then done s .badParam
  else if k = 7 then done s .ok
  else if bit w 5 ∧ !joined s then done s .state
  else done (wr s R.pnEvsink 0 k (packF [(0, fld w 5 3), (16, fld w 31 16)])) .ok

/-- The event register with an enable register at an address, its unit and its item. -/
def evtAt (a : Nat) : Option (EvtReg × Nat × Nat) := evtRegs.findSome? fun e => (e.evt.at? a).map fun ui => (e, ui.1, ui.2)

/-- `EVENT_ENABLE` (R507). -/
def eventEnable (q : Req) (s : State) : Done :=
  if !wellFormed q.params [0xFFFFFFFF#32, 0xFFFF#32, 0xFFFFFFFF#32, 1#32] then done s .badParam
  else match evtAt (pair64 (par q 0) (par q 1)) with
    | none => done s .badParam
    | some (e, u, i) => match e.en with
      | none => done s .badParam
      | some r =>
        if !onlyBits (par q 2) r.rw then done s .badParam
        else if !e.evt.blk.here s.variant u then done s .notPresent
        else done (wr s r u i (if bit (par q 3) 0 then rd s r u i ||| par q 2 else rd s r u i &&& ~~~(par q 2))) .ok

/-- `EVENT_STATUS` (R508). -/
def eventStatus (q : Req) (s : State) : Done :=
  if q.params.length ≠ 0 then done s .badParam
  else doneW s [rd s R.pnEvseq, evqView s, rd s R.pnCount 0 7, rd s (R.pnCount.next 1) 0 7]

/-! ## The opcode index (R499, R500) -/

/-- The Pennant and queue commands of the index (R500). -/
def body01 (op : Nat) (q : Req) (s : State) : Option Done := match op with
  | 0x0101 => some (devEcho q s)
  | 0x0102 => some (devCaps q s)
  | 0x0103 => some (pennantConfig q s)
  | 0x0110 => some (commitCmd 0x0110 q s)
  | 0x0111 => some (commitCmd 0x0111 q s)
  | 0x0112 => some (queueStatus q s)
  | _ => none

/-- The commit commands of the index (R500). -/
def body02 (op : Nat) (q : Req) (s : State) : Option Done := match op with
  | 0x0201 => some (commitStatus q s)
  | 0x0202 => some (commitCancel q s)
  | 0x0203 => some (commitCmd 0x0203 q s)
  | _ => none

/-- The Cordwainer and governing commands of the index (R500). -/
def body03 (op : Nat) (q : Req) (s : State) : Option Done := match op with
  | 0x0301 => some (commitCmd 0x0301 q s)
  | 0x0302 => some (commitCmd 0x0302 q s)
  | 0x0303 => some (patternLoad q s)
  | 0x0304 => some (patternUnload q s)
  | 0x0305 => some (patternStatus q s)
  | 0x0306 => some (ringConfig q s)
  | 0x0307 => some (cordStatus q s)
  | 0x0308 => some (commitCmd 0x0308 q s)
  | 0x0309 => some (placeExclude q s)
  | 0x030A => some (govStatus q s)
  | 0x030B => some (govCellStats q s)
  | _ => none

/-- The lane commands of the index (R500). -/
def body04 (op : Nat) (q : Req) (s : State) : Option Done := match op with
  | 0x0401 => some (laneConfig q s)
  | 0x0402 => some (laneStatus q s)
  | 0x0403 => some (laneRetrain q s)
  | 0x0404 => some (laneTest q s)
  | 0x0405 => some (laneTestRead q s)
  | 0x0406 => some (refclkConfig q s)
  | 0x0407 => some (quadRef q s)
  | _ => none

/-- The fronthaul and pin commands of the index (R500). -/
def body05 (op : Nat) (q : Req) (s : State) : Option Done := match op with
  | 0x0501 => some (fhMacConfig q s)
  | 0x0502 => some (fhMacStatus q s)
  | 0x0503 => some (commitCmd 0x0503 q s)
  | 0x0504 => some (fhFlowStatus q s)
  | 0x0505 => some (ptpConfig q s)
  | 0x0506 => some (synceOutConfig q s)
  | 0x0507 => some (pinConfig q s)
  | _ => none

/-- The Lace commands of the index (R500). -/
def body06 (op : Nat) (q : Req) (s : State) : Option Done := match op with
  | 0x0601 => some (lacePortConfig q s)
  | 0x0602 => some (laceJoin q s)
  | 0x0603 => some (laceLeave q s)
  | 0x0604 => some (laceStatus q s)
  | 0x0605 => some (laceRouteSet q s)
  | 0x0606 => some (laceExportSet q s)
  | 0x0607 => some (laceTransitSet q s)
  | 0x0608 => some (laceDomainCommit q s)
  | 0x0609 => some (laceMasthead q s)
  | _ => none

/-- The time commands of the index (R500). -/
def body07 (op : Nat) (q : Req) (s : State) : Option Done := match op with
  | 0x0701 => some (timeStatus q s)
  | 0x0702 => some (timeRefConfig q s)
  | 0x0703 => some (timeStepCmd q s)
  | 0x0704 => some (timeStepCancel q s)
  | 0x0705 => some (commitCmd 0x0705 q s)
  | _ => none

/-- The power commands of the index (R500). -/
def body08 (op : Nat) (q : Req) (s : State) : Option Done := match op with
  | 0x0801 => some (pwrStatus q s)
  | 0x0802 => some (pwrDomainSet q s)
  | 0x0803 => some (pwrLimitSet q s)
  | 0x0804 => some (pwrIdleConfig q s)
  | 0x0805 => some (pwrFitCap q s)
  | _ => none

/-- The thermal commands of the index (R500). -/
def body09 (op : Nat) (q : Req) (s : State) : Option Done := match op with
  | 0x0901 => some (thermStatus q s)
  | 0x0902 => some (thermConfig q s)
  | 0x0903 => some (thermRestart q s)
  | _ => none

/-- The journal, ledger and profile commands of the index (R500). -/
def body0A (op : Nat) (q : Req) (s : State) : Option Done := match op with
  | 0x0A01 => some (journalRead q s)
  | 0x0A02 => some (ledgerRead q s)
  | 0x0A03 => some (journalCompact q s)
  | 0x0A04 => some (bootProfileWrite q s)
  | 0x0A05 => some (bootProfileRead q s)
  | _ => none

/-- The beam array commands of the index (R500). -/
def body0B (op : Nat) (q : Req) (s : State) : Option Done := match op with
  | 0x0B01 => some (cmaStatus q s)
  | 0x0B02 => some (cmaCalibrate q s)
  | 0x0B03 => some (cmaConfig q s)
  | 0x0B04 => some (cmaPreload q s)
  | 0x0B05 => some (cmaService q s)
  | _ => none

/-- The detector commands of the index (R500). -/
def body0C (op : Nat) (q : Req) (s : State) : Option Done := match op with
  | 0x0C01 => some (detStatus q s)
  | 0x0C02 => some (detInject q s)
  | 0x0C03 => some (detLogRead q s)
  | _ => none

/-- The firmware and identity commands of the index (R500). -/
def body0D (op : Nat) (q : Req) (s : State) : Option Done := match op with
  | 0x0D01 => some (fwStatus q s)
  | 0x0D02 => some (fwUpdateBegin q s)
  | 0x0D03 => some (fwUpdateData q s)
  | 0x0D04 => some (fwActivateCmd q s)
  | 0x0D05 => some (idCertRead q s)
  | 0x0D06 => some (attest q s)
  | 0x0D07 => some (ownerKeyInstall q s)
  | 0x0D08 => some (tokenCmd 1 q s)
  | 0x0D09 => some (tokenCmd 2 q s)
  | _ => none

/-- The event commands of the index (R500). -/
def body0E (op : Nat) (q : Req) (s : State) : Option Done := match op with
  | 0x0E01 => some (eventSinkSet q s)
  | 0x0E02 => some (eventEnable q s)
  | 0x0E03 => some (eventStatus q s)
  | _ => none

/-- The command of an opcode, none where the index has none (R500). -/
def body (op : Nat) (q : Req) (s : State) : Option Done := match op / 256 with
  | 0x01 => body01 op q s
  | 0x02 => body02 op q s
  | 0x03 => body03 op q s
  | 0x04 => body04 op q s
  | 0x05 => body05 op q s
  | 0x06 => body06 op q s
  | 0x07 => body07 op q s
  | 0x08 => body08 op q s
  | 0x09 => body09 op q s
  | 0x0A => body0A op q s
  | 0x0B => body0B op q s
  | 0x0C => body0C op q s
  | 0x0D => body0D op q s
  | 0x0E => body0E op q s
  | _ => none

/-- The restricted set of the I3C column (R500). -/
def i3cOps : List Nat :=
  [0x0101, 0x0102, 0x0402, 0x0604, 0x0701, 0x0801, 0x0901, 0x0903, 0x0A01, 0x0A02, 0x0A05, 0x0C01, 0x0C03] ++
  [0x0D01, 0x0D02, 0x0D03, 0x0D04, 0x0D05, 0x0D06, 0x0D09, 0x0E03]

/-- The transport and the session permit a command (R500): `DET_INJECT` needs an open diagnostic session or stream 10. -/
def permitted (s : State) (op : Nat) (q : Req) : Bool :=
  (decide (q.stream.val ≠ 8) || i3cOps.contains op) &&
  (decide (op ≠ 0x0C02) || decide (q.stream.val = 10) || decide (s.boot.diag = some q.stream.val))

/-! ## Forwarding (R493, R494) -/


/-- The device that a command for device t leaves to: itself, or the masthead (R493). -/
def forwardTo (s : State) (t : Nat) : Option Nat :=
  if !joined s then none
  else if (remoteEntry s 37 t).isSome then some t
  else if (remoteEntry s 37 (mhId s)).isSome then some (mhId s) else none

/-- A command for another device is sent on and holds its stream (R481, R493). One that with its CRC does not fit the slot of Lace is
not (R479).
DEDUCED, safe: log entry 181. -/
def forwardCmd (s : State) (h : Held) (t : Nat) : State :=
  match forwardTo s t with
  | none => reply s h.opcode h.req .remoteUnreachable []
  | some via =>
    if 1019 < h.req.params.length then reply s h.opcode h.req .lengthRange [] else
    let pk := mkPacket h.opcode h.req.tag.toNat (if h.req.note then 2 ^ 24 else 0) t (ownId s) 0 h.req.params true
    let f : Forward := { opcode := h.opcode, req := h.req, xid := s.pn.nextXid, target := t }
    let s1 := setPn s fun p => { p with held := p.held ++ [h], forwards := p.forwards ++ [f], nextXid := (p.nextXid + 1) % 65536 }
    (fragments f.xid pk).foldl (fun a w => laceMsg a 13 via w) (bump s1 R.pnCount 0 4 1)

/-! ## Streams (R490, R491) -/

/-- The completion of a PCIe submission whose header is unreadable: no reply packet, TAG and OPCODE 0 (R480, R487). -/
def headerReply (s : State) (p : Nat) : State :=
  match s.host.subs.find? fun x => decide (x.qp = p) with
  | none => s
  | some x =>
    let s1 := setHost s fun h => { h with subs := removeFirst (fun y => decide (y.qp = p)) h.subs }
    subDrain (if x.dead then s1 else cqPost s1 p (bareEntry x.sqix .integrity) true) p

/-- The always-on responder answers a command while the device is TRIPPED or LOCKED (R546). -/
def trippedOp (s : State) (op stream : Nat) : Bool :=
  (decide (tstate s = 1) || decide (tstate s = 2)) && decide (stream = 8) && (decide (op = 0x0901) || decide (op = 0x0903))

/-- A command is executing in a stream. -/
def streamBusy (s : State) (k : Nat) : Bool := s.pn.held.any fun h => decide (h.req.stream.val = k)

/-- A completion of queue pair k still waits for room in its CQ: the stream has not replied (R424, R490). -/
def replyWaits (s : State) (k : Nat) : Bool := s.host.cqWait.any fun e => decide (e.1 = k)

/-- A waiting command may start: Urvar accepts commands, or it is stream 10 or the always-on responder; its stream is free, and the
reply before it is delivered. -/
def mayStart (s : State) (h : Held) : Bool :=
  (fwUp s || decide (h.req.stream.val = 10) || trippedOp s h.opcode h.req.stream.val) && !streamBusy s h.req.stream.val &&
    !(decide (h.req.stream.val < 8) && replyWaits s h.req.stream.val)

/-- A command runs: checks 9–11 of R480, its effect, and its reply where it does not hold its stream. -/
def runBody (s : State) (h : Held) : State :=
  match body h.opcode h.req (setPn s fun p => { p with held := p.held ++ [h] }) with
  | none => reply s h.opcode h.req .badOpcode []
  | some d =>
    if !permitted s h.opcode h.req then reply s h.opcode h.req .notPermitted []
    else if d.hold then d.st
    else reply (setPn d.st fun p => { p with held := removeFirst (fun x => decide (x = h)) p.held }) h.opcode h.req d.stat d.out

/-- A waiting command starts (R480): refused by an earlier check, forwarded, or run. -/
def startCmd (s : State) (h : Held) : State :=
  match h.fail, h.fwd with
  | some st, _ => if h.noHdr then headerReply s h.req.stream.val else reply s h.opcode h.req st []
  | none, some t => forwardCmd s h t
  | none, none => runBody s h

/-- Waiting commands start, in their order, at most n of them. -/
def settleN : Nat → State → State
  | 0, s => s
  | n + 1, s => match s.pn.waiting.find? (mayStart s) with
    | none => s
    | some h => settleN n (startCmd (setPn s fun p => { p with waiting := removeFirst (fun x => decide (x = h)) p.waiting }) h)

/-- Every waiting command that may start does.
DESIGN CHOICE, unsafe: log entry 105. -/
def settle (s : State) : State := settleN s.pn.waiting.length s

/-- A command joins its stream. -/
def arrive (s : State) (h : Held) : State := setPn s fun p => { p with waiting := p.waiting ++ [h] }

/-- A command whose packet has passed checks 1–8 arrives in its stream, and starts as soon as its stream allows (R490).
DESIGN CHOICE, safe: log entry 106. -/
def runCommand (op : Nat) (q : Req) (s : State) : State := settle (arrive s { opcode := op, req := q })

/-- A request with an OP word in front of its parameters, for the rows that give one OP of an opcode. -/
def withOp (q : Req) (op : Nat) : Req := { q with params := w32 op :: q.params }

/-- A request whose word 0 has bit 0 forced, for the two OPs of `LACE_MASTHEAD`. -/
def withBit0 (q : Req) (b : Bool) : Req := { q with params := setNth q.params 0 (setBit (par q 0) 0 b) }

/-! ## One meaning per command row -/

def execDevCaps (q : Req) (s : State) : Host.Outcome State Fault Refusal := .next (runCommand 0x0102 q s)
def execDevEcho (q : Req) (s : State) : Host.Outcome State Fault Refusal := .next (runCommand 0x0101 q s)
def execPennantConfig (q : Req) (s : State) : Host.Outcome State Fault Refusal := .next (runCommand 0x0103 q s)
def execHbmPartition (q : Req) (s : State) : Host.Outcome State Fault Refusal := .next (runCommand 0x0110 q s)
def execQueueConfig (q : Req) (s : State) : Host.Outcome State Fault Refusal := .next (runCommand 0x0111 q s)
def execQueueStatus (q : Req) (s : State) : Host.Outcome State Fault Refusal := .next (runCommand 0x0112 q s)
def execCommitStatus (q : Req) (s : State) : Host.Outcome State Fault Refusal := .next (runCommand 0x0201 q s)
def execCommitCancel (q : Req) (s : State) : Host.Outcome State Fault Refusal := .next (runCommand 0x0202 q s)
def execCommitGroup (q : Req) (s : State) : Host.Outcome State Fault Refusal := .next (runCommand 0x0203 q s)
def execCellStart (q : Req) (s : State) : Host.Outcome State Fault Refusal := .next (runCommand 0x0301 q s)
def execCellStop (q : Req) (s : State) : Host.Outcome State Fault Refusal := .next (runCommand 0x0302 q s)
def execPatternLoad (q : Req) (s : State) : Host.Outcome State Fault Refusal := .next (runCommand 0x0303 q s)
def execPatternUnload (q : Req) (s : State) : Host.Outcome State Fault Refusal := .next (runCommand 0x0304 q s)
def execPatternStatus (q : Req) (s : State) : Host.Outcome State Fault Refusal := .next (runCommand 0x0305 q s)
def execSlotreqRingConfig (q : Req) (s : State) : Host.Outcome State Fault Refusal := .next (runCommand 0x0306 q s)
def execCordStatus (q : Req) (s : State) : Host.Outcome State Fault Refusal := .next (runCommand 0x0307 q s)
def execGovPolicySet (q : Req) (s : State) : Host.Outcome State Fault Refusal := .next (runCommand 0x0308 q s)
def execPlaceExclude (q : Req) (s : State) : Host.Outcome State Fault Refusal := .next (runCommand 0x0309 q s)
def execGovStatus (q : Req) (s : State) : Host.Outcome State Fault Refusal := .next (runCommand 0x030A q s)
def execGovCellStats (q : Req) (s : State) : Host.Outcome State Fault Refusal := .next (runCommand 0x030B q s)
def execLaneConfig (q : Req) (s : State) : Host.Outcome State Fault Refusal := .next (runCommand 0x0401 q s)
def execLaneStatus (q : Req) (s : State) : Host.Outcome State Fault Refusal := .next (runCommand 0x0402 q s)
def execLaneRetrain (q : Req) (s : State) : Host.Outcome State Fault Refusal := .next (runCommand 0x0403 q s)
def execLaneTest (q : Req) (s : State) : Host.Outcome State Fault Refusal := .next (runCommand 0x0404 q s)
def execLaneTestRead (q : Req) (s : State) : Host.Outcome State Fault Refusal := .next (runCommand 0x0405 q s)
def execRefclkConfig (q : Req) (s : State) : Host.Outcome State Fault Refusal := .next (runCommand 0x0406 q s)
def execQuadRef (q : Req) (s : State) : Host.Outcome State Fault Refusal := .next (runCommand 0x0407 q s)
def execFhMacConfig (q : Req) (s : State) : Host.Outcome State Fault Refusal := .next (runCommand 0x0501 q s)
def execFhMacStatus (q : Req) (s : State) : Host.Outcome State Fault Refusal := .next (runCommand 0x0502 q s)
def execFhFlowConfig (q : Req) (s : State) : Host.Outcome State Fault Refusal := .next (runCommand 0x0503 q s)
def execFhFlowStatus (q : Req) (s : State) : Host.Outcome State Fault Refusal := .next (runCommand 0x0504 q s)
def execPtpConfig (q : Req) (s : State) : Host.Outcome State Fault Refusal := .next (runCommand 0x0505 q s)
def execSynceOutConfig (q : Req) (s : State) : Host.Outcome State Fault Refusal := .next (runCommand 0x0506 q s)
def execPinConfig (q : Req) (s : State) : Host.Outcome State Fault Refusal := .next (runCommand 0x0507 q s)
def execLacePortConfig (q : Req) (s : State) : Host.Outcome State Fault Refusal := .next (runCommand 0x0601 q s)
def execLaceJoin (q : Req) (s : State) : Host.Outcome State Fault Refusal := .next (runCommand 0x0602 q s)
def execLaceLeave (q : Req) (s : State) : Host.Outcome State Fault Refusal := .next (runCommand 0x0603 q s)
def execLaceStatus (q : Req) (s : State) : Host.Outcome State Fault Refusal := .next (runCommand 0x0604 q s)
def execLaceRouteSet (q : Req) (s : State) : Host.Outcome State Fault Refusal := .next (runCommand 0x0605 q s)
def execLaceExportSet (q : Req) (s : State) : Host.Outcome State Fault Refusal := .next (runCommand 0x0606 q s)
def execLaceTransitSet (q : Req) (s : State) : Host.Outcome State Fault Refusal := .next (runCommand 0x0607 q s)
def execLaceDomainCommit (q : Req) (s : State) : Host.Outcome State Fault Refusal := .next (runCommand 0x0608 q s)
def execLaceMastheadHandover (q : Req) (s : State) : Host.Outcome State Fault Refusal := .next (runCommand 0x0609 (withBit0 q false) s)
def execLaceMastheadDesignate (q : Req) (s : State) : Host.Outcome State Fault Refusal := .next (runCommand 0x0609 (withBit0 q true) s)
def execTimeStatus (q : Req) (s : State) : Host.Outcome State Fault Refusal := .next (runCommand 0x0701 q s)
def execTimeRefConfig (q : Req) (s : State) : Host.Outcome State Fault Refusal := .next (runCommand 0x0702 q s)
def execTimeStep (q : Req) (s : State) : Host.Outcome State Fault Refusal := .next (runCommand 0x0703 q s)
def execTimeStepCancel (q : Req) (s : State) : Host.Outcome State Fault Refusal := .next (runCommand 0x0704 q s)
def execTddTableSet (q : Req) (s : State) : Host.Outcome State Fault Refusal := .next (runCommand 0x0705 q s)
def execPwrStatus (q : Req) (s : State) : Host.Outcome State Fault Refusal := .next (runCommand 0x0801 q s)
def execPwrDomainSet (q : Req) (s : State) : Host.Outcome State Fault Refusal := .next (runCommand 0x0802 q s)
def execPwrLimitSet (q : Req) (s : State) : Host.Outcome State Fault Refusal := .next (runCommand 0x0803 q s)
def execPwrIdleConfig (q : Req) (s : State) : Host.Outcome State Fault Refusal := .next (runCommand 0x0804 q s)
def execPwrFitCap (q : Req) (s : State) : Host.Outcome State Fault Refusal := .next (runCommand 0x0805 q s)
def execThermStatus (q : Req) (s : State) : Host.Outcome State Fault Refusal := .next (runCommand 0x0901 q s)
def execThermConfig (q : Req) (s : State) : Host.Outcome State Fault Refusal := .next (runCommand 0x0902 q s)
def execThermRestart (q : Req) (s : State) : Host.Outcome State Fault Refusal := .next (runCommand 0x0903 q s)
def execJournalRead (q : Req) (s : State) : Host.Outcome State Fault Refusal := .next (runCommand 0x0A01 q s)
def execLedgerRead (q : Req) (s : State) : Host.Outcome State Fault Refusal := .next (runCommand 0x0A02 q s)
def execJournalCompact (q : Req) (s : State) : Host.Outcome State Fault Refusal := .next (runCommand 0x0A03 q s)
def execBootProfileBegin (q : Req) (s : State) : Host.Outcome State Fault Refusal := .next (runCommand 0x0A04 (withOp q 0) s)
def execBootProfileData (q : Req) (s : State) : Host.Outcome State Fault Refusal := .next (runCommand 0x0A04 (withOp q 1) s)
def execBootProfileCommit (q : Req) (s : State) : Host.Outcome State Fault Refusal := .next (runCommand 0x0A04 (withOp q 2) s)
def execBootProfileClear (q : Req) (s : State) : Host.Outcome State Fault Refusal := .next (runCommand 0x0A04 (withOp q 3) s)
def execBootProfileRead (q : Req) (s : State) : Host.Outcome State Fault Refusal := .next (runCommand 0x0A05 q s)
def execCmaStatus (q : Req) (s : State) : Host.Outcome State Fault Refusal := .next (runCommand 0x0B01 q s)
def execCmaCalibrate (q : Req) (s : State) : Host.Outcome State Fault Refusal := .next (runCommand 0x0B02 q s)
def execCmaConfig (q : Req) (s : State) : Host.Outcome State Fault Refusal := .next (runCommand 0x0B03 q s)
def execCmaPreload (q : Req) (s : State) : Host.Outcome State Fault Refusal := .next (runCommand 0x0B04 q s)
def execCmaService (q : Req) (s : State) : Host.Outcome State Fault Refusal := .next (runCommand 0x0B05 q s)
def execDetStatus (q : Req) (s : State) : Host.Outcome State Fault Refusal := .next (runCommand 0x0C01 q s)
def execDetInject (q : Req) (s : State) : Host.Outcome State Fault Refusal := .next (runCommand 0x0C02 q s)
def execDetLogRead (q : Req) (s : State) : Host.Outcome State Fault Refusal := .next (runCommand 0x0C03 q s)
def execFwStatus (q : Req) (s : State) : Host.Outcome State Fault Refusal := .next (runCommand 0x0D01 q s)
def execFwUpdateBegin (q : Req) (s : State) : Host.Outcome State Fault Refusal := .next (runCommand 0x0D02 q s)
def execFwUpdateData (q : Req) (s : State) : Host.Outcome State Fault Refusal := .next (runCommand 0x0D03 q s)

/-- `FW_ACTIVATE` with OP ACTIVATE; `flashOk` is whether the write of the flash slot will succeed (R607). -/
def execFwActivateActivate (q : Req) (flashOk : Bool) (s : State) : Host.Outcome State Fault Refusal :=
  .next (runCommand 0x0D04 (withOp q 0) { s with boot := { s.boot with flashBad := !flashOk } })
/-- `FW_ACTIVATE` with OP CONFIRM, RAISE as the row gives it. -/
def execFwActivateConfirm (q : Req) (raise_ : Bool) (s : State) : Host.Outcome State Fault Refusal :=
  .next (runCommand 0x0D04 (withOp q (1 + 2 * b2n raise_)) s)
def execIdCertRead (q : Req) (s : State) : Host.Outcome State Fault Refusal := .next (runCommand 0x0D05 q s)
/-- `ATTEST` with OP QUOTE: the parameters are the nonce. -/
def execAttestQuote (q : Req) (s : State) : Host.Outcome State Fault Refusal := .next (runCommand 0x0D06 (withOp q 0) s)
/-- `ATTEST` with OP LOG from entry FIRST on. -/
def execAttestLog (q : Req) (first : Fin 8) (s : State) : Host.Outcome State Fault Refusal :=
  .next (runCommand 0x0D06 (withOp q (1 + 2 * first.val)) s)
def execOwnerKeyInstall (q : Req) (s : State) : Host.Outcome State Fault Refusal := .next (runCommand 0x0D07 q s)
def execDebugUnlockChallenge (q : Req) (s : State) : Host.Outcome State Fault Refusal := .next (runCommand 0x0D08 (withOp q 0) s)
def execDebugUnlockOpen (q : Req) (s : State) : Host.Outcome State Fault Refusal := .next (runCommand 0x0D08 (withOp q 1) s)
def execDebugUnlockClose (q : Req) (s : State) : Host.Outcome State Fault Refusal := .next (runCommand 0x0D08 (withOp q 2) s)
def execDiagSessionChallenge (q : Req) (s : State) : Host.Outcome State Fault Refusal := .next (runCommand 0x0D09 (withOp q 0) s)
def execDiagSessionOpen (q : Req) (s : State) : Host.Outcome State Fault Refusal := .next (runCommand 0x0D09 (withOp q 1) s)
def execDiagSessionClose (q : Req) (s : State) : Host.Outcome State Fault Refusal := .next (runCommand 0x0D09 (withOp q 2) s)
def execEventSinkSet (q : Req) (s : State) : Host.Outcome State Fault Refusal := .next (runCommand 0x0E01 q s)
def execEventEnable (q : Req) (s : State) : Host.Outcome State Fault Refusal := .next (runCommand 0x0E02 q s)
def execEventStatus (q : Req) (s : State) : Host.Outcome State Fault Refusal := .next (runCommand 0x0E03 q s)

/-- `PATTERN_IMAGE_READ_DONE` (R271): the read that a `PATTERN_LOAD` waits for ends. -/
def execPatternImageReadDone (i : Fin 1024) (ov : Over) (s : State) : Host.Outcome State Fault Refusal :=
  .next (settled s (settle (patternRead s i.val ov)))

end Sys2Proof.Machine
end

