-- ==== Sys2Proof/Machine/Dma.lean ====
section
/-! DEFINITION. The bench DMA channels (R60–R64). -/

namespace Sys2Proof.Machine

def dmaOf (s : State) (b n : Nat) : DmaChan := (assoc s.dma (4 * b + n)).getD DmaChan.reset
def setDma (s : State) (b n : Nat) (c : DmaChan) : State :=
  { s with dma := putKey s.dma (4 * b + n) (if c = DmaChan.reset then none else some c) }

/-- `DMA_STAT`.STATE: 0 IDLE, 1 RUN, 2 DONE, 3 ERROR, 4 ABORTED. -/
def dmaState (s : State) (b n : Nat) : Nat := rdF s R.dmaStat b n 2 0

/-- A chain ends: STATE, ERR, the event bit, and the completion of its SCHED task (R60, R62, R64). -/
def dmaEnd (s : State) (b n st err : Nat) (status : W16) : State :=
  let c := dmaOf s b n
  let s1 := wrF (wrF s R.dmaStat b n 2 0 st) R.dmaStat b n 15 8 err
  let s2 := if st = 2 then raiseI s1 E.dma b n 2#32 else if st = 3 then raiseI s1 E.dma b n 4#32 else s1
  let s3 := setDma s2 b n DmaChan.reset
  match c.task with
  | some i => complete s3 i status
  | none => s3

/-- The chain stops with an error of R62 whose completion status the manual does not name.
DESIGN CHOICE, safe: log entry 26. -/
def dmaErr (s : State) (b n err : Nat) : State :=
  let (s1, v) := freeFail s
  dmaEnd s1 b n 3 err v

/-! ## Descriptors (R61, R62) -/

def dOp (d : List W32) : Nat := fld (nth d 0 0) 2 0
def dLen (d : List W32) : Nat := fld (nth d 1 0) 20 0
def dRows (d : List W32) : Nat := if dOp d = 1 then fld (nth d 2 0) 15 0 else 1
def dAddr (d : List W32) (k : Nat) : Nat := pair64 (nth d k 0) (nth d (k + 1) 0) % 2 ^ 48
def dStride (d : List W32) (k : Nat) : Int := if dOp d = 1 then sext 32 (nth d k 0).toNat else 0

/-- The reserved bits of word k. -/
def dRsv (d : List W32) (k : Nat) : Nat :=
  match k with
  | 0 => 0xFFFFFF80 | 1 => 0xFFE00000 | 2 => 0xFFFF0000 | 3 => 0xFFFFFFFF
  | 5 => if dOp d = 2 then 0 else 0xFFFF0000
  | 7 | 11 => 0xFFFF0000
  | 12 | 13 | 14 | 15 => 0xFFFFFFFF
  | _ => 0

/-- DESC_BAD. A stride that is not a multiple of 8 counts for COPY2D alone, which is the one operation that R61 gives strides.
DEDUCED, unsafe: log entry 154. -/
def descBad (d : List W32) : Bool :=
  decide (2 < dOp d) || decide (fld (nth d 0 0) 6 5 = 3) || decide (dLen d = 0) ||
  ((List.range 16).any fun k => decide (nth d k 0 &&& BitVec.ofNat 32 (dRsv d k) ≠ 0)) ||
  (if dOp d = 1 then decide (fld (nth d 2 0) 15 0 = 0) || decide (dStride d 8 % 8 ≠ 0) || decide (dStride d 9 % 8 ≠ 0)
   else decide (fld (nth d 2 0) 15 0 ≠ 0))

/-- The bounding range of an address, its stride and the descriptor's rows: first byte and the byte after the last. -/
def descSpan (d : List W32) (a : Nat) (st : Int) : Int × Int :=
  let last : Int := (a : Int) + st * ((dRows d : Int) - 1)
  let lo := if last < a then last else (a : Int)
  let hi := if last < a then (a : Int) else last
  (lo, hi + 8 * dLen d)

/-- DESC_OVERLAP. -/
def descOverlap (d : List W32) : Bool :=
  decide (dOp d ≠ 2) &&
  (let x := descSpan d (dAddr d 4) (dStride d 8)
   let y := descSpan d (dAddr d 6) (dStride d 9)
   decide (x.1 < y.2) && decide (y.1 < x.2))

/-- CHAIN of a descriptor. -/
def dChain (d : List W32) : Bool := bit (nth d 0 0) 3

/-- ALIGN. -/
def descAlign (d : List W32) : Bool :=
  (decide (dOp d ≠ 2) && decide (dAddr d 4 % 8 ≠ 0)) || decide (dAddr d 6 % 8 ≠ 0) || (dChain d && decide (dAddr d 10 % 64 ≠ 0))

/-- The error code of a descriptor, 0 for none, in the order of R62's table.
DEDUCED, unsafe: log entry 27. -/
def descErr (d : List W32) : Nat := if descBad d then 1 else if descOverlap d then 2 else if descAlign d then 3 else 0

/-- A descriptor lies in bench memory or HBM (R60). -/
def descHome (s : State) (a : Nat) : Bool :=
  match unitOf s.variant a with
  | .bench _ => true
  | .hbm _ => true
  | _ => decide (a < 0x000800000000)

/-- The 32-bit halves of 64-bit words. -/
def halves (ws : List MWord) : List W32 := ws.flatMap fun x => [lo32 x.1.toNat, hi32 x.1.toNat]

/-- The descriptor at `DMA_CUR` is fetched and checked (R62). A fetch that must wait leaves the channel as it is, and is sent. -/
def dmaFetch (s : State) (b n : Nat) (ov : Over) : State :=
  let a := rd64 s R.dmaCurLo b n
  let c := dmaOf s b n
  if a % 64 ≠ 0 then dmaErr s b n 3
  else if 4096 < c.count then dmaErr s b n 7
  else if !descHome s a then dmaErr s b n 6
  else
    let (s1, st, ws) := netRead s b a 8 ov
    if st = .deferred then engWait s1
    else if st ≠ .ok then dmaEnd s1 b n 3 6 (st16 st)
    else if ws.any fun x => x.2 then dmaEnd s1 b n 3 6 (st16 .integrity)
    else
      let d := halves ws
      if descErr d ≠ 0 then dmaErr s1 b n (descErr d)
      else setDma s1 b n { c with desc := d, row := 0, col := 0 }

/-- The channel goes to the descriptor at address a. -/
def dmaGoto (s : State) (b n a : Nat) : State :=
  let c := dmaOf s b n
  let s1 := wr (wr (wr s R.dmaCurLo b n (lo32 a)) R.dmaCurHi b n (hi32 a)) R.dmaProg b n 0
  setDma s1 b n { c with count := c.count + 1, desc := [], row := 0, col := 0 }

/-- A chain begins at address a. -/
def dmaBegin (s : State) (b n a : Nat) (task : Option Nat) : State :=
  let s1 := setDma (wr s R.dmaStat b n 1#32) b n { DmaChan.reset with task := task }
  dmaFetch (dmaGoto s1 b n (a % 2 ^ 48)) b n none

/-- START written to `DMA_CTL` (R64): only in HOST mode, and ignored in RUN. -/
def dmaStartBit (s : State) (b n : Nat) : State :=
  if benchHere s.variant b && rdB s R.dmaCtl b n 0 && decide (dmaState s b n ≠ 1) then
    dmaBegin s b n (pair64 (rd s R.dmaDescLo b n) (rd s R.dmaDescHi b n)) none
  else s

/-- ABORT written to `DMA_CTL` (R64): the request in progress completes first. -/
def dmaAbortBit (s : State) (b n : Nat) : State :=
  if benchHere s.variant b && decide (dmaState s b n = 1) then setDma s b n { dmaOf s b n with abort := true } else s

/-- `DMA_START` (R64). -/
def execDmaStart (b : Fin 16) (n : Fin 4) (s : State) : Host.Outcome State Fault Refusal := .next (dmaStartBit s b.val n.val)

/-- `DMA_ABORT` (R64). -/
def execDmaAbort (b : Fin 16) (n : Fin 4) (s : State) : Host.Outcome State Fault Refusal := .next (dmaAbortBit s b.val n.val)

/-- The site of channel n of bench b. -/
def dmaSite (b : Fin 16) (n : Fin 4) : Site := .bench b ⟨12 + n.val, by omega⟩

/-- A channel in SCHED mode that is not running starts its next staged task (R60). -/
def dmaTaskStart (s : State) (b : Fin 16) (n : Fin 4) : State :=
  if rdB s R.dmaCtl b.val n.val 0 || decide (dmaState s b.val n.val = 1) || !awake s b.val then s
  else match beginTask s (dmaSite b n) with
    | none => s
    | some (s1, i, t) => dmaBegin s1 b.val n.val t.param (some i)

/-- `DMA_TASK_START` (R60). -/
def execDmaTaskStart (b : Fin 16) (n : Fin 4) (s : State) : Host.Outcome State Fault Refusal := .next (dmaTaskStart s b n)

/-! ## Requests (R62, R63) -/

/-- Words of the request in progress: up to the size RSZ sets, within the row, and within 4 KiB of source and destination. -/
def reqWords (d : List W32) (c : DmaChan) (src dst : Nat) : Nat :=
  let size := match fld (nth d 0 0) 6 5 with
    | 0 => 32 | 1 => 16 | _ => 8
  let m := Nat.min (Nat.min size (dLen d - c.col)) ((4096 - dst % 4096) / 8)
  if dOp d = 2 then m else Nat.min m ((4096 - src % 4096) / 8)

/-- The address of the request in progress from a base and its stride. -/
def reqAddr (a : Nat) (st : Int) (c : DmaChan) : Nat := wrapTo 48 ((a : Int) + st * c.row + 8 * c.col)

/-- The fill value of a FILL descriptor. -/
def fillWord (d : List W32) : MWord := (BitVec.ofNat 64 (pair64 (nth d 4 0) (nth d 5 0)), false)

/-- A request has completed without error: the next request, the next descriptor, or the end of the chain. Whether an ABORT that
falls on the last request of a descriptor still lets DESC_DONE or CHAIN_DONE be raised is open: here the channel ends ABORTED
with neither.
DESIGN CHOICE, unsafe: log entry 111. -/
def dmaAdvance (s : State) (b n k : Nat) : State :=
  let c := dmaOf s b n
  let d := c.desc
  let s1 := wr s R.dmaProg b n (rd s R.dmaProg b n + w32 k)
  let c1 := if c.col + k < dLen d then { c with col := c.col + k } else { c with row := c.row + 1, col := 0 }
  let s2 := setDma s1 b n c1
  if c.abort then dmaEnd s2 b n 4 0 (st16 .state)
  else if c1.row < dRows d then s2
  else
    let s3 := if bit (nth d 0 0) 4 then raiseI s2 E.dma b n 1#32 else s2
    if !dChain d then dmaEnd s3 b n 2 0 (st16 .ok)
    else dmaFetch (dmaGoto s3 b n (dAddr d 10)) b n none

/-- The request in progress of a running channel ends. R62 names three statuses of a fault: any other that is not `OK` is
reported as SRC_FAULT or DST_FAULT too (DESIGN CHOICE, unsafe: log entry 112). Where ABORT was written and the request in progress
then faults, the channel ends in ERROR, not in ABORTED (DESIGN CHOICE, unsafe: log entry 153). Here `src` and `dst` say what the
fabric answered in place of an on-die target (R62).
DESIGN CHOICE, safe: log entry 29. -/
def dmaRequest (s : State) (b n : Nat) (src : Over) (dst : Over) : State :=
  let c := dmaOf s b n
  let d := c.desc
  if dmaState s b n ≠ 1 then s
  else if d.isEmpty then (if c.abort then dmaEnd s b n 4 0 (st16 .state) else dmaFetch s b n src)
  else
    let sa := reqAddr (dAddr d 4) (dStride d 8) c
    let da := reqAddr (dAddr d 6) (dStride d 9) c
    let k := reqWords d c sa da
    let (s1, st, ws) := if dOp d = 2 then (s, Status.ok, List.replicate k (fillWord d)) else netRead s b sa k src
    if st ≠ .ok then dmaEnd s1 b n 3 4 (st16 st)
    else
      let s2 := if ws.any fun x => x.2 then wrB s1 R.dmaStat b n 16 true else s1
      let (s3, wst) := netWrite s2 b da ws dst
      if wst ≠ .ok then dmaEnd s3 b n 3 5 (st16 wst)
      else dmaAdvance s3 b n k

/-- `DMA_REQUEST_COMPLETE` (R62). -/
def execDmaRequestComplete (b : Fin 16) (n : Fin 4) (src : Option (Status × List TWord)) (dst : Option Status) (s : State) :
    Host.Outcome State Fault Refusal :=
  .next (settled s (dmaRequest s b.val n.val src (dst.map fun x => (x, []))))

end Sys2Proof.Machine
end

