-- ==== Sys2Proof/Machine/Shank.lean ====
section
/-! DEFINITION. The Shank long-vector engine: its instructions, faults and tasks (R143–R152). -/

namespace Sys2Proof.Machine

/-- The Shank instructions (R147). -/
inductive ShFn where
  | xadd | xsub | xaddi | xld | xst | xstat | sloop | sbnz | sj | send
  | lld | lst | llds | lsts | lldh | ldup | lmlen | lmld
  | ladd | lsub | lcmul | lcmulj | lconj | lcvt | lrsq | lfcma
  | lcmac | lcmacj | lcmsc | lmv16 | lmv8 | laccz | laccx | lchol
deriving DecidableEq, Repr

/-- An instruction: its fields; IMM10 as it stands, IMM18 signed (R145). -/
structure ShI where
  fn  : ShFn
  d   : Nat
  a   : Nat
  b   : Nat := 0
  m   : Nat := 0
  t   : Nat := 0
  imm : Int := 0
deriving DecidableEq, Repr

def ShI.sv (fn : ShFn) (f : ShSv) : ShI := { fn := fn, d := f.d.val, a := f.a.val, b := f.b.val, m := f.m.val, t := f.t.val, imm := (f.imm.toNat : Int) }
def ShI.sx (fn : ShFn) (f : ShSx) : ShI := { fn := fn, d := f.d.val, a := f.a.val, imm := f.imm.toInt }

/-- IMM10 as a number. -/
def ShI.n (i : ShI) : Nat := i.imm.toNat

/-- No field that the instruction does not use is set, and types and immediates are in range (R143, R145, R147–R150). -/
def ShI.legal (i : ShI) : Bool :=
  let z (l : List Nat) : Bool := l.all fun x => decide (x = 0)
  let im0 := decide (i.imm = 0)
  let ty := decide (i.t < 3)
  match i.fn with
  | .xadd | .xsub => z [i.m, i.t] && im0
  | .xaddi | .xld | .xst => true
  | .xstat => decide (i.a = 0) && im0
  | .sloop => decide (i.d = 0) && decide (1 ≤ i.imm) && decide (i.imm ≤ 4095)
  | .sbnz => decide (i.d = 0)
  | .sj => z [i.d, i.a]
  | .send => decide (i.d = 0) && im0
  | .lld | .lst => decide (i.b = 0) && ty
  | .llds | .lsts => ty && im0
  | .lldh => ty && decide (i.n < 2) && !(decide (i.n = 1) && decide (i.t = 2))
  | .ldup => decide (i.b = 0) && ty && im0
  | .lmlen | .lmld => decide (i.d < 4) && z [i.b, i.m, i.t] && im0
  | .ladd | .lsub | .lcmul | .lcmulj => ty && im0
  | .lconj => decide (i.b = 0) && ty && im0
  | .lcvt => ty && decide (i.n < 3)
  | .lrsq => decide (i.b = 0) && (decide (i.t = 1) || decide (i.t = 2)) && im0
  | .lfcma => (decide (i.t = 1) || decide (i.t = 2)) && im0
  | .lcmac | .lcmacj | .lcmsc => decide (i.d < 4) && decide (i.t = 0) && im0
  | .lmv16 => decide (i.d < 4) && decide (i.t = 0) && decide (i.n < 256)
  | .lmv8 => decide (i.d < 4) && decide (i.t = 0) && decide (i.n < 256) && decide (i.n % 4 = 0)
  | .laccz => decide (i.d < 4) && z [i.a, i.b, i.t] && im0
  | .laccx => decide (i.a < 4) && z [i.b, i.t] && decide (i.n < 128) && decide (i.n % 64 < 40)
  | .lchol =>
    let big := decide (16 ≤ i.n)
    z [i.a, i.b] && (decide (i.t = 1) || decide (i.t = 2)) && decide (i.n < 32) && (big || decide (i.n % 16 < 8)) && !(big && decide (i.t = 2))

/-- The instruction of a word; none for an OP that R147 does not list (R145). -/
def decodeSh (w : W32) : Option ShI :=
  let sv (fn : ShFn) : ShI := { fn := fn, d := fld w 25 22, a := fld w 21 18, b := fld w 17 14, m := fld w 13 12, t := fld w 11 10, imm := (fld w 9 0 : Nat) }
  let sx (fn : ShFn) : ShI := { fn := fn, d := fld w 25 22, a := fld w 21 18, imm := sext 18 (fld w 17 0) }
  let op := fld w 31 26
  match assoc [(0x03, ShFn.xaddi), (0x04, .xld), (0x05, .xst), (0x06, .xstat), (0x08, .sloop), (0x09, .sbnz), (0x0A, .sj), (0x0B, .send)] op with
  | some f => some (sx f)
  | none => (assoc ([(0x01, ShFn.xadd), (0x02, .xsub), (0x10, .lld), (0x11, .lst), (0x12, .llds), (0x13, .lsts), (0x14, .lldh), (0x15, .ldup),
      (0x16, .lmlen), (0x17, .lmld)] ++ [(0x20, .ladd), (0x21, .lsub), (0x22, .lcmul), (0x23, .lcmulj), (0x24, .lconj), (0x25, .lcvt),
      (0x26, .lrsq), (0x27, .lfcma), (0x28, .lcmac), (0x29, .lcmacj), (0x2A, .lcmsc)] ++ [(0x2B, .lmv16), (0x2C, .lmv8), (0x2D, .laccz),
      (0x2E, .laccx), (0x30, .lchol)]) op).map sv

/-! ## Registers (R143) -/

def shankOf (s : State) (b : Nat) : Shank := (assoc s.shanks b).getD Shank.reset
def putShank (s : State) (b : Nat) (x : Shank) : State := { s with shanks := putKey s.shanks b (some x) }

def Shank.rx (h : Shank) (n : Nat) : W32 := if n = 0 then 0 else nth h.x n 0
def Shank.wx (h : Shank) (n : Nat) (v : W32) : Shank := if n = 0 then h else { h with x := setNth h.x n v }
def Shank.rl (h : Shank) (n : Nat) : List LWord := nth h.l n []
def Shank.racc (h : Shank) (n : Nat) : List Lane := nth h.acc n []
def Shank.rm (h : Shank) (n : Nat) : BitVec 256 := if n = 0 then BitVec.allOnes 256 else nth h.lm n 0

/-- Bytes of an element of type T, and elements in a register. -/
def ltB (t : Nat) : Nat := if t = 2 then 8 else 4
def ltN (t : Nat) : Nat := if t = 2 then 128 else 256

/-- Element e of type T: its bits, 0 where poisoned, and its poison (R122, R123). -/
def lGet (l : List LWord) (t e : Nat) : Nat × Bool :=
  if t = 2 then
    let a := nth l (2 * e) (0, false)
    let b := nth l (2 * e + 1) (0, false)
    if a.2 || b.2 then (0, true) else (a.1.toNat + 2 ^ 32 * b.1.toNat, false)
  else
    let a := nth l e (0, false)
    if a.2 then (0, true) else (a.1.toNat, false)

/-- A register with some elements of type T written. -/
def lPut (t : Nat) (l : List LWord) : List El → List LWord
  | [] => l
  | (e, v, po) :: r =>
    lPut t (if t = 2 then setNth (setNth l (2 * e) (w32 v, po)) (2 * e + 1) (w32 (v / 2 ^ 32), po) else setNth l e (w32 v, po)) r

/-- The active elements of type T under mask m. -/
def Shank.acts (h : Shank) (t m : Nat) : List Nat := (List.range (ltN t)).filter fun e => (h.rm m).getLsbD e

/-! ## Results -/

/-- What an instruction leaves: the state of the device and of the engine, sticky flags, a branch target, the status of a
`SEND`, or a fault: its code, the offset, the first element not performed. -/
structure ShOut where
  st    : State
  sh    : Shank
  fl    : Sticky := {}
  go    : Option Int := none
  fin   : Option W16 := none
  fault : Option (Nat × Option Nat × Nat) := none

/-- A write of elements to L[D]. -/
def shL (s : State) (h : Shank) (i : ShI) (t : Nat) (els : List El) (fl : Sticky := {}) : ShOut :=
  { st := s, sh := { h with l := setNth h.l i.d (lPut t (h.rl i.d) els) }, fl := fl }

def shFault (s : State) (h : Shank) (code : Nat) (bad : Option Nat := none) (ix : Nat := 0) : ShOut := { st := s, sh := h, fault := some (code, bad, ix) }

/-! ## Arithmetic (R120, R121, R147) -/

def ltFmt (t : Nat) : Fmt := if t = 2 then f32 else f16
def ltC (t : Nat) : Nat := if t = 2 then 32 else 16

/-- The components of an element, and whether a subnormal was read as zero. -/
def cUnpack (t x : Nat) : (FV × FV) × Bool :=
  let p := unpackF (ltFmt t) (x % 2 ^ ltC t)
  let q := unpackF (ltFmt t) (x / 2 ^ ltC t)
  ((p.1, q.1), p.2 || q.2)

/-- An element from its exact components, each rounded once, and whether a result was flushed. -/
def cPack (t : Nat) (v : FV × FV) : Nat × Bool :=
  let p := packFlt (ltFmt t) v.1
  let q := packFlt (ltFmt t) v.2
  (p.1 + 2 ^ ltC t * q.1, p.2 || q.2)

/-- One floating operation of a complex element from its operands. -/
def fltC (t : Nat) (g : List (FV × FV) → FV × FV) (l : List Nat) : Nat × Bool :=
  let xs := l.map (cUnpack t)
  let r := cPack t (g (xs.map fun x => x.1))
  (r.1, r.2 || xs.any fun x => x.2)

/-- A result per active element from operand registers: its bits, then VSAT and FTZ. -/
def shMap (s : State) (h : Shank) (i : ShI) (ops : List (List LWord)) (g : Nat → List Nat → Nat × Bool × Bool) : ShOut :=
  let r := (h.acts i.t i.m).map fun e =>
    let xs := ops.map fun l => lGet l i.t e
    (e, g e (xs.map fun x => x.1), xs.any fun x => x.2)
  shL s h i i.t (r.map fun x => (x.1, x.2.1.1, x.2.2)) { vsat := r.any fun x => x.2.1.2.1, ftz := r.any fun x => x.2.1.2.2 }

/-- An integer result with its saturation, and a floating one with its flush. -/
def intR (x : Nat × Bool) : Nat × Bool × Bool := (x.1, x.2, false)
def fltR (x : Nat × Bool) : Nat × Bool × Bool := (x.1, false, x.2)

def zzF : FV × FV := (FV.zero, FV.zero)

/-- Componentwise sum or difference, product and fused product of floating elements. -/
def addF (sub : Bool) (x y : FV × FV) : FV × FV := if sub then (x.1.sub y.1, x.2.sub y.2) else (x.1.add y.1, x.2.add y.2)

/-- A component converted from type `fr` to type `to_` with the scale n of R131. -/
def cvtC (fr to_ : Nat) (n : Int) (x : Nat) : Nat × Bool × Bool :=
  if fr = to_ then (x, false, false)
  else if fr = 0 then let r := packFlt (ltFmt to_) (FV.ofInt (sext 16 x) (n - 15)); (r.1, false, r.2)
  else if to_ = 0 then fltToInt (ltFmt fr) 16 (15 - n) x
  else
    let u := unpackF (ltFmt fr) x
    let r := packFlt (ltFmt to_) u.1
    (r.1, false, r.2 || u.2)

/-- A conversion reads element e of the source type for element e of the result; a source type of 128 elements gives 128. -/
def shCvt (s : State) (h : Shank) (i : ShI) : ShOut :=
  let fr := i.n % 4
  let n := clampI (-32) 32 (sext 32 (h.rx i.b).toNat)
  let src := h.rl i.a
  let cs := ltC fr
  let r := ((h.acts i.t i.m).filter fun e => decide (e < ltN fr)).map fun e =>
    let x := lGet src fr e
    let p := cvtC fr i.t n (x.1 % 2 ^ cs)
    let q := cvtC fr i.t n (x.1 / 2 ^ cs)
    (e, p.1 + 2 ^ ltC i.t * q.1, x.2, p.2.1 || q.2.1, p.2.2 || q.2.2)
  shL s h i i.t (r.map fun x => (x.1, x.2.1, x.2.2.1)) { vsat := r.any fun x => x.2.2.2.1, ftz := r.any fun x => x.2.2.2.2 }

/-- `cand` lies within one unit of its last place of 1/√x. -/
def nearRsq (x cand : FV) : Bool :=
  match cand with
  | .fin false m e =>
    let one : FV := .fin false 1 0
    let lo : FV := .fin false (m - 1) e
    let hi : FV := .fin false (m + 1) e
    !(one.lt (x.mul (lo.mul lo))) && !((x.mul (hi.mul hi)).lt one)
  | _ => false

/-- 1/√x, +0 for +∞, with an error of at most one unit of the last place that the manual leaves open; so is the result for −0. -/
def rsq (f : Fmt) (free x : Nat) : Nat × Bool :=
  let a := unpackF f x
  let one : FV := .fin false 1 0
  match a.1 with
  | .fin neg 0 _ => (if neg then (if free % 3 = 0 then f.infBits true else if free % 3 = 1 then f.infBits false else f.qnan) else f.infBits false, a.2)
  | v =>
    let r := packFlt f (one.div v.sqrt)
    let cand := r.1 + free % 3 - 1
    let c := unpackF f cand
    (if v ≠ .inf false ∧ nearRsq v c.1 then cand else r.1, r.2 || a.2)

/-! ## Accumulators (R92–R94, R96, R148) -/

/-- Terms added to the active lanes of Lacc[D]; each lane's term with the poison of what it reads. -/
def shMac (s : State) (b : Nat) (h : Shank) (i : ShI) (term : Nat → Option ((Int × Int) × Bool)) : ShOut :=
  let sat := rdB s R.shCtl b 0 0
  let acc := h.racc i.d
  let r := (List.range 256).map fun e =>
    let l := nth acc e Lane.zero
    if (h.rm i.m).getLsbD e then
      match term e with
      | some (t, po) => laneAdd sat false true true po l t
      | none => (l, false)
    else (l, false)
  { st := s, sh := { h with acc := setNth h.acc i.d (r.map fun x => x.1) }, fl := { aov := if r.any fun x => x.2 then 2 ^ i.d else 0 } }

/-- The exact sum of products of element pairs of L[A] and L[B]. -/
def dotTerm (a b : List LWord) (ps : List (Nat × Nat)) : (Int × Int) × Bool :=
  ps.foldl (fun acc p =>
    let x := lGet a 0 p.1
    let y := lGet b 0 p.2
    let t := macTerm .cmac x.1 y.1
    ((acc.1.1 + t.1, acc.1.2 + t.2), acc.2 || x.2 || y.2)) ((0, 0), false)

/-- The term of output lane e of LMV16 or LMV8; none for a lane that the group does not write. -/
def mvTerm (h : Shank) (i : ShI) (e : Nat) : Option ((Int × Int) × Bool) :=
  let a := h.rl i.a
  let b := h.rl i.b
  if i.fn = .lmv16 then
    if e / 16 ≠ i.n / 16 then none
    else some (dotTerm a b ((List.range 16).map fun j => (16 * (e % 16) + j, 16 * (i.n % 16) + j)))
  else
    if e / 32 ≠ i.n / 32 then none
    else
      let k := e % 32 / 8
      some (dotTerm a b ((List.range 8).map fun j => (64 * k + 8 * (e % 8) + j, 32 * (i.n / 4 % 8) + 8 * k + j)))

/-- `LACCX`: ci16 of Lacc[A]. -/
def shExtract (s : State) (h : Shank) (i : ShI) : ShOut :=
  let acc := h.racc i.a
  let r := (h.acts 0 i.m).map fun e =>
    let l := nth acc e Lane.zero
    let p := extractC 16 (i.n % 64) (i.n.testBit 6) l.re
    let q := extractC 16 (i.n % 64) (i.n.testBit 6) l.im
    (e, p.1 + 65536 * q.1, l.po, p.2 || q.2)
  shL s h i 0 (r.map fun x => (x.1, x.2.1, x.2.2.1)) { xsat := r.any fun x => x.2.2.2 }

/-! ## The Cholesky step (R150) -/

/-- A value rounded to a format, and whether it was flushed. -/
def rndF (f : Fmt) (x : FV) : FV × Bool :=
  let p := packFlt f x
  ((unpackF f p.1).1, p.2)
def rndC (f : Fmt) (x : FV × FV) : (FV × FV) × Bool :=
  let p := rndF f x.1
  let q := rndF f x.2
  ((p.1, q.1), p.2 || q.2)

/-- Step k on a block of n × n elements: the elements it writes by (row, column), then FTZ and NPD. Of the pivot only the real
part is read: `dk`, with whether a subnormal was read as zero. -/
def cholStep (f : Fmt) (n k : Nat) (dk : FV × Bool) (at_ : Nat → Nat → (FV × FV) × Bool) : List (Nat × Nat × (FV × FV)) × Bool × Bool :=
  let d := dk.1
  let rows := (List.range n).filter fun i => decide (k < i)
  if !(FV.zero.lt d) then ((k :: rows).map fun i => (i, k, zzF), dk.2, true)
  else
    let r := rndF f d.sqrt
    let col := rows.map fun i =>
      let x := at_ i k
      let y := rndC f (x.1.1.div r.1, x.1.2.div r.1)
      (i, y.1, x.2 || y.2)
    let get (i : Nat) : FV × FV := ((col.find? fun x => decide (x.1 = i)).map fun x => x.2.1).getD zzF
    let rest := rows.flatMap fun i => (rows.filter fun j => decide (j ≤ i)).map fun j =>
      let x := at_ i j
      let p := rndC f (cmulF (get i) (get j) true)
      let y := rndC f (addF true x.1 p.1)
      (i, j, y.1, x.2 || p.2 || y.2)
    ((k, k, (r.1, FV.zero)) :: (col.map fun x => (x.1, k, x.2.1)) ++ (rest.map fun x => (x.1, x.2.1, x.2.2.1)),
     dk.2 || r.2 || (col.any fun x => x.2.2) || (rest.any fun x => x.2.2.2), false)

/-- The elements that step k reads: the pivot, and with a positive pivot the column and the triangle behind it. -/
def cholReads (n k : Nat) (npd : Bool) : List (Nat × Nat) :=
  if npd then [(k, k)]
  else (List.range n).flatMap fun i => ((List.range n).filter fun j => decide (k ≤ j) && decide (j ≤ i)).map fun j => (i, j)

/-- Step k on block q: its writes, FTZ and NPD. -/
def cholBlock (h : Shank) (i : ShI) (n k q : Nat) : List El × Bool × Bool :=
  let src := h.rl i.d
  let ix (x y : Nat) : Nat := n * n * q + n * x + y
  let r := cholStep (ltFmt i.t) n k (unpackF (ltFmt i.t) ((lGet src i.t (ix k k)).1 % 2 ^ ltC i.t)) fun x y => cUnpack i.t (lGet src i.t (ix x y)).1
  let po := (cholReads n k r.2.2).any fun p => (lGet src i.t (ix p.1 p.2)).2
  let els : List El := r.1.map fun x => (ix x.1 x.2.1, (cPack i.t x.2.2).1, po)
  (els.filter fun x => (h.rm i.m).getLsbD x.1, r.2)

/-- `LCHOL`. -/
def shChol (s : State) (h : Shank) (i : ShI) : ShOut :=
  let n := if 16 ≤ i.n then 16 else 8
  let blocks := if n = 16 then 1 else if i.t = 2 then 2 else 4
  let r := (List.range blocks).map (cholBlock h i n (i.n % 16))
  shL s h i i.t (r.flatMap fun x => x.1) { ftz := r.any fun x => x.2.1, npd := r.any fun x => x.2.2 }

/-! ## Memory (R144, R147, R149) -/

/-- The offset of element e of a memory form, modulo 2^32; none where the form has no such element. -/
def shAddr (h : Shank) (i : ShI) (e : Nat) : Option Nat :=
  let x := (h.rx i.a).toNat
  let y := (h.rx i.b).toNat
  let sz := ltB i.t
  let w (v : Nat) : Nat := v % 2 ^ 32
  match i.fn with
  | .lld | .lst => some (w (x + 64 * i.n + sz * e))
  | .llds | .lsts => let per := 64 / sz; some (w (x + e / per * y + sz * (e % per)))
  | .lldh =>
    let n := if i.n = 1 then 16 else 8
    if n * n ≤ e then none else some (w (x + e % n * y + sz * (e / n)))
  | _ => some x

/-- The elements to perform with their offsets, up to the first that fails, and that one. -/
def shSplit (sz : Nat) : List (Nat × Nat) → List (Nat × Nat) × Option (Nat × Nat)
  | [] => ([], none)
  | (e, a) :: r =>
    if a < 0x800000 ∧ a % sz = 0 then
      let (l, f) := shSplit sz r
      ((e, a) :: l, f)
    else ([], some (e, a))

/-- A conjugated element: the low bits of −im for ci16, the sign turned for floats (R120). -/
def conjEl (t x : Nat) : Nat :=
  let c := ltC t
  let im := x / 2 ^ c
  x % 2 ^ c + 2 ^ c * (if t = 0 then wrapTo c (-(sext c im)) else Nat.xor im (2 ^ (c - 1)))

/-- A load or store of elements from element `ix` on. -/
def shMem (s : State) (b : Nat) (h : Shank) (i : ShI) (ix : Nat) : ShOut :=
  let sz := ltB i.t
  let base := benchBase b
  let all := ((h.acts i.t i.m).filter fun e => decide (ix ≤ e)).filterMap fun e => (shAddr h i e).map fun a => (e, a)
  let (go, bad) := shSplit sz all
  let o : ShOut :=
    if i.fn = .lst ∨ i.fn = .lsts then
      let src := h.rl i.d
      let els := go.map fun p => let x := lGet src i.t p.1; (base + p.2, x.1, x.2)
      { st := if sz = 4 then storeRun s els else els.foldl (fun t x => storeEl t x.1 8 x.2.1 x.2.2) s, sh := h }
    else
      let (s1, vs) := loadEls s sz (go.map fun p => base + p.2)
      shL s1 h i i.t ((go.zip vs).map fun p => (p.1.1, (if i.fn = .lldh then conjEl i.t p.2.1 else p.2.1), p.2.2))
  match bad with
  | none => o
  | some (e, a) => { o with fault := some (0x0B, some a, e) }

/-- XLD, XST and LMLD: one access of n bytes, its fault, or its bytes. -/
def shScalar (s : State) (b : Nat) (h : Shank) (i : ShI) : ShOut :=
  let a := wrapTo 32 (((h.rx i.a).toNat : Int) + i.imm)
  let n := if i.fn = .lmld then 32 else 4
  if i.fn ≠ .lmld ∧ a % 4 ≠ 0 then shFault s h 5 (some a)
  else if 0x800000 < a + n then shFault s h 4 (some a)
  else if i.fn = .xst then { st := writeBytes s (benchBase b + a) (bytesOf 4 (h.rx i.d).toNat), sh := h }
  else
    let (s1, bs, p) := readBytes s (benchBase b + a) n
    if p then shFault s1 h 7 (some a)
    else if i.fn = .xld then { st := s1, sh := h.wx i.d (w32 (ofBytes bs)) }
    else { st := s1, sh := { h with lm := setNth h.lm i.d (BitVec.ofNat 256 (ofBytes bs)) } }

/-! ## One instruction -/

/-- What an instruction does, from element `ix` on (R147). -/
def shEval (s : State) (b : Nat) (h : Shank) (i : ShI) (ix : Nat) : ShOut :=
  let la := h.rl i.a
  let lb := h.rl i.b
  let ld := h.rl i.d
  let q (v : Int) := satF 16 (rneShift v 15)
  let x (l : List Nat) (n : Nat) : Nat := nth l n 0
  let fx (l : List (FV × FV)) (n : Nat) : FV × FV := nth l n zzF
  let c16 (g : Int → Int → Int × Bool) (l : List Nat) : Nat × Bool × Bool := intR (mapC2 4 g (x l 0) (x l 1))
  match i.fn with
  | .xadd => { st := s, sh := h.wx i.d (h.rx i.a + h.rx i.b) }
  | .xsub => { st := s, sh := h.wx i.d (h.rx i.a - h.rx i.b) }
  | .xaddi => { st := s, sh := h.wx i.d (w32 (wrapTo 32 (((h.rx i.a).toNat : Int) + i.imm))) }
  | .xstat => { st := s, sh := h.wx i.d (rd s R.shStat b) }
  | .xld | .xst | .lmld => shScalar s b h i
  | .sloop =>
    let n := (h.rx i.a).toNat
    if n = 0 then { st := s, sh := h, go := some (h.pc + i.imm + 1) }
    else if 2 ≤ h.loops.length then shFault s h 1
    else { st := s, sh := { h with loops := { count := n, first := h.pc + 1, last := h.pc + i.n } :: h.loops } }
  | .sbnz => { st := s, sh := h, go := if h.rx i.a = 0 then none else some (h.pc + i.imm) }
  | .sj => { st := s, sh := h, go := some (h.pc + i.imm) }
  | .send => { st := s, sh := h, fin := some (BitVec.ofNat 16 (h.rx i.a).toNat) }
  | .lld | .lst | .llds | .lsts | .lldh | .ldup => shMem s b h i ix
  | .lmlen => { st := s, sh := { h with lm := setNth h.lm i.d (BitVec.ofNat 256 (2 ^ Nat.min 256 (h.rx i.a).toNat - 1)) } }
  | .ladd => shMap s h i [la, lb] fun _ l => if i.t = 0 then c16 (fun u v => satF 16 (u + v)) l else fltR (fltC i.t (fun v => addF false (fx v 0) (fx v 1)) l)
  | .lsub => shMap s h i [la, lb] fun _ l => if i.t = 0 then c16 (fun u v => satF 16 (u - v)) l else fltR (fltC i.t (fun v => addF true (fx v 0) (fx v 1)) l)
  | .lcmul | .lcmulj => shMap s h i [la, lb] fun _ l =>
      if i.t = 0 then
        let t := macTerm (if i.fn = .lcmul then .cmac else .cmacj) (x l 0) (x l 1)
        intR (sat2 4 [q t.1, q t.2])
      else fltR (fltC i.t (fun v => cmulF (fx v 0) (fx v 1) (decide (i.fn = .lcmulj))) l)
  | .lconj => shMap s h i [la] fun _ l => (conjEl i.t (x l 0), false, false)
  | .lcvt => shCvt s h i
  | .lrsq =>
    let k := s.freeCtr
    shMap { s with freeCtr := s.freeCtr + 256 } h i [la] fun e l =>
      fltR (rsq (ltFmt i.t) (Config.freeWord (k + e)).toNat (x l 0 % 2 ^ ltC i.t))
  | .lfcma => shMap s h i [ld, la, lb] fun _ l => fltR (fltC i.t (fun v => addF false (fx v 0) (cmulF (fx v 1) (fx v 2) false)) l)
  | .lcmac | .lcmacj | .lcmsc =>
    let f : VFn := if i.fn = .lcmac then .cmac else if i.fn = .lcmacj then .cmacj else .cmsc
    shMac s b h i fun e => let u := lGet la 0 e; let v := lGet lb 0 e; some (macTerm f u.1 v.1, u.2 || v.2)
  | .lmv16 | .lmv8 => shMac s b h i (mvTerm h i)
  | .laccz => { st := s, sh := { h with acc := setNth h.acc i.d ((List.range 256).map fun e => if (h.rm i.m).getLsbD e then Lane.zero else nth (h.racc i.d) e Lane.zero) } }
  | .laccx => shExtract s h i
  | .lchol => shChol s h i

/-- The loop-end action after the instruction at pc: the loops left and the next pc (R147). -/
def shLoopEnd (pc : Nat) : List ShLoop → List ShLoop × Nat
  | [] => ([], pc + 1)
  | l :: r => if l.last = pc then (if 1 < l.count then ({ l with count := l.count - 1 } :: r, l.first) else shLoopEnd pc r) else (l :: r, pc + 1)

/-- The status that ends a task on a fault (R151). -/
def shFaultStat (code : Nat) : Status := if code = 1 ∨ code = 3 then .badOpcode else if code = 7 then .integrity else .badParam

/-- The Shank stops on a fault (R151). -/
def shStop (s : State) (b : Nat) (h : Shank) (code : Nat) (bad : Option Nat) (ix : Nat) : State :=
  let s1 := wr (wr (wr s R.shCause b 0 (w32 code)) R.shEpc b 0 (w32 (h.pc % 8192))) R.leix b 0 (w32 ix)
  let s2 := match bad with
    | some a => wr s1 R.shBadaddr b 0 (w32 a)
    | none => s1
  if rdB s2 R.shCtl b 0 1 then wrF (putShank s2 b { h with resume := false }) R.shStat b 0 9 8 2
  else
    let s3 := wrF (putShank s2 b { h with resume := false, task := none }) R.shStat b 0 9 8 0
    match h.task with
    | some i => complete s3 i (st16 (shFaultStat code))
    | none => s3

/-- The Shank of bench b runs one instruction of its task. -/
def shRun (b : Nat) (i : ShI) (s : State) : State :=
  let h := shankOf s b
  if !(benchHere s.variant b && goesOn s b && decide (rdF s R.shStat b 0 9 8 = 1) && h.task.isSome) then s
  else
    let o : ShOut := if 8192 ≤ h.pc then shFault s h 3 else if !i.legal then shFault s h 1
      else shEval s b h i (if h.resume then (rd s R.leix b).toNat else 0)
    let s1 := raiseI o.st E.sh b 0 o.fl.shank
    match o.fault with
    | some (code, bad, ix) => shStop s1 b o.sh code bad ix
    | none =>
      let (loops, next) := match o.go with
        | some t => (o.sh.loops, wrapTo 32 t)
        | none => shLoopEnd h.pc o.sh.loops
      let h' := { o.sh with pc := next, loops := loops, resume := false }
      match o.fin, h.task with
      | some st, some k => complete (wrF (putShank s1 b { h' with task := none }) R.shStat b 0 9 8 0) k st
      | _, _ => putShank s1 b h'

/-- What the Shank of bench b fetches next raises a fault by itself (R145, R152): an index outside program memory, an OP that is
not listed, fields that are not legal. A legal instruction waits for its row.
DEDUCED, safe: log entry 134. -/
def shFetch (s : State) (b : Nat) : State :=
  let h := shankOf s b
  if !(benchHere s.variant b && goesOn s b && decide (rdF s R.shStat b 0 9 8 = 1) && h.task.isSome) then s
  else if 8192 ≤ h.pc then shStop s b h 3 none 0
  else
    let (s1, ws, p) := read32s s (benchBase b + 0x908000 + 4 * h.pc) 1
    if p then shStop s1 b h 3 none 0
    else match decodeSh (nth ws 0 0) with
      | some i => if i.legal then s else shStop s1 b h 1 none 0
      | none => shStop s1 b h 1 none 0

/-! ## Tasks (R151, R152) -/

/-- The bench offset of an internal address, 0xFFFF_FFFF outside the bench's memory. -/
def benchOff (b a : Nat) : W32 := if benchBase b ≤ a ∧ a < benchBase b + 0x800000 then w32 (a - benchBase b) else 0xFFFFFFFF

/-- The Shank of a bench starts its next staged task (R152). -/
def shankStart (s : State) (b : Fin 16) : State :=
  if rdF s R.shStat b.val 0 9 8 ≠ 0 ∨ !awake s b.val then s
  else match beginTask s (.bench b 8) with
    | none => s
    | some (s1, i, t) =>
      let h := shankOf s1 b.val
      let s2 := putShank s1 b.val { h.wx 1 (benchOff b.val t.param) with pc := t.entry, task := some i, resume := false }
      wr (wr s2 R.leix b.val 0 0) R.shStat b.val 0 0x100#32

/-- `RESUME` is written (R151). -/
def shankResume (s : State) (b : Nat) : State :=
  if rdF s R.shStat b 0 9 8 ≠ 2 then s
  else wrF (putShank s b { shankOf s b with resume := true }) R.shStat b 0 9 8 1

/-- `SHANK_TASK_START` (R152). -/
def execShankTaskStart (b : Fin 16) (s : State) : Host.Outcome State Fault Refusal := .next (shankStart s b)

/-- `SHANK_RESUME` (R151). -/
def execShankResume (b : Fin 16) (s : State) : Host.Outcome State Fault Refusal := .next (shankResume s b.val)

/-! ## The instructions (R147) -/

/-- `XADD` (R147): Shank scalar add. -/
def execXadd (b : Fin 16) (f : ShSv) (s : State) : Host.Outcome State Fault Refusal :=
  .next (shRun b.val (.sv .xadd f) s)

/-- `XSUB` (R147): Shank scalar subtract. -/
def execXsub (b : Fin 16) (f : ShSv) (s : State) : Host.Outcome State Fault Refusal :=
  .next (shRun b.val (.sv .xsub f) s)

/-- `XADDI` (R147): Shank scalar add of an immediate. -/
def execXaddi (b : Fin 16) (f : ShSx) (s : State) : Host.Outcome State Fault Refusal :=
  .next (shRun b.val (.sx .xaddi f) s)

/-- `XLD` (R147): Shank scalar load. -/
def execXld (b : Fin 16) (f : ShSx) (s : State) : Host.Outcome State Fault Refusal :=
  .next (shRun b.val (.sx .xld f) s)

/-- `XST` (R147): Shank scalar store. -/
def execXst (b : Fin 16) (f : ShSx) (s : State) : Host.Outcome State Fault Refusal :=
  .next (shRun b.val (.sx .xst f) s)

/-- `XSTAT` (R147): Read SH_STAT into a scalar. -/
def execXstat (b : Fin 16) (f : ShSx) (s : State) : Host.Outcome State Fault Refusal :=
  .next (shRun b.val (.sx .xstat f) s)

/-- `SLOOP` (R147): Shank hardware loop. -/
def execSloop (b : Fin 16) (f : ShSx) (s : State) : Host.Outcome State Fault Refusal :=
  .next (shRun b.val (.sx .sloop f) s)

/-- `SBNZ` (R147): Shank branch if not zero. -/
def execSbnz (b : Fin 16) (f : ShSx) (s : State) : Host.Outcome State Fault Refusal :=
  .next (shRun b.val (.sx .sbnz f) s)

/-- `SJ` (R147): Shank unconditional branch. -/
def execSj (b : Fin 16) (f : ShSx) (s : State) : Host.Outcome State Fault Refusal :=
  .next (shRun b.val (.sx .sj f) s)

/-- `SEND` (R147): Complete the Shank task once its writes are visible. -/
def execSend (b : Fin 16) (f : ShSx) (s : State) : Host.Outcome State Fault Refusal :=
  .next (shRun b.val (.sx .send f) s)

/-- `LLD` (R147): Long-vector contiguous load. -/
def execLld (b : Fin 16) (f : ShSv) (s : State) : Host.Outcome State Fault Refusal :=
  .next (shRun b.val (.sv .lld f) s)

/-- `LST` (R147): Long-vector contiguous store. -/
def execLst (b : Fin 16) (f : ShSv) (s : State) : Host.Outcome State Fault Refusal :=
  .next (shRun b.val (.sv .lst f) s)

/-- `LLDS` (R147): Long-vector strided row load. -/
def execLlds (b : Fin 16) (f : ShSv) (s : State) : Host.Outcome State Fault Refusal :=
  .next (shRun b.val (.sv .llds f) s)

/-- `LSTS` (R147): Long-vector strided row store. -/
def execLsts (b : Fin 16) (f : ShSv) (s : State) : Host.Outcome State Fault Refusal :=
  .next (shRun b.val (.sv .lsts f) s)

/-- `LLDH` (R149): Hermitian-transpose block load. -/
def execLldh (b : Fin 16) (f : ShSv) (s : State) : Host.Outcome State Fault Refusal :=
  .next (shRun b.val (.sv .lldh f) s)

/-- `LDUP` (R147): Broadcast one element to a long vector. -/
def execLdup (b : Fin 16) (f : ShSv) (s : State) : Host.Outcome State Fault Refusal :=
  .next (shRun b.val (.sv .ldup f) s)

/-- `LMLEN` (R147): Set a mask from a length. -/
def execLmlen (b : Fin 16) (f : ShSv) (s : State) : Host.Outcome State Fault Refusal :=
  .next (shRun b.val (.sv .lmlen f) s)

/-- `LMLD` (R147): Load a mask from memory. -/
def execLmld (b : Fin 16) (f : ShSv) (s : State) : Host.Outcome State Fault Refusal :=
  .next (shRun b.val (.sv .lmld f) s)

/-- `LADD` (R147): Long-vector add. -/
def execLadd (b : Fin 16) (f : ShSv) (s : State) : Host.Outcome State Fault Refusal :=
  .next (shRun b.val (.sv .ladd f) s)

/-- `LSUB` (R147): Long-vector subtract. -/
def execLsub (b : Fin 16) (f : ShSv) (s : State) : Host.Outcome State Fault Refusal :=
  .next (shRun b.val (.sv .lsub f) s)

/-- `LCMUL` (R147): Long-vector complex multiply. -/
def execLcmul (b : Fin 16) (f : ShSv) (s : State) : Host.Outcome State Fault Refusal :=
  .next (shRun b.val (.sv .lcmul f) s)

/-- `LCMULJ` (R147): Long-vector multiply by a conjugate. -/
def execLcmulj (b : Fin 16) (f : ShSv) (s : State) : Host.Outcome State Fault Refusal :=
  .next (shRun b.val (.sv .lcmulj f) s)

/-- `LCONJ` (R147): Long-vector conjugate. -/
def execLconj (b : Fin 16) (f : ShSv) (s : State) : Host.Outcome State Fault Refusal :=
  .next (shRun b.val (.sv .lconj f) s)

/-- `LCVT` (R147): Long-vector type conversion. -/
def execLcvt (b : Fin 16) (f : ShSv) (s : State) : Host.Outcome State Fault Refusal :=
  .next (shRun b.val (.sv .lcvt f) s)

/-- `LRSQ` (R147): Long-vector reciprocal square root of the real part. -/
def execLrsq (b : Fin 16) (f : ShSv) (s : State) : Host.Outcome State Fault Refusal :=
  .next (shRun b.val (.sv .lrsq f) s)

/-- `LFCMA` (R147): Long-vector fused complex multiply-add. -/
def execLfcma (b : Fin 16) (f : ShSv) (s : State) : Host.Outcome State Fault Refusal :=
  .next (shRun b.val (.sv .lfcma f) s)

/-- `LCMAC` (R147): Long accumulator complex MAC. -/
def execLcmac (b : Fin 16) (f : ShSv) (s : State) : Host.Outcome State Fault Refusal :=
  .next (shRun b.val (.sv .lcmac f) s)

/-- `LCMACJ` (R147): Long accumulator complex MAC with a conjugate. -/
def execLcmacj (b : Fin 16) (f : ShSv) (s : State) : Host.Outcome State Fault Refusal :=
  .next (shRun b.val (.sv .lcmacj f) s)

/-- `LCMSC` (R147): Long accumulator complex multiply-subtract. -/
def execLcmsc (b : Fin 16) (f : ShSv) (s : State) : Host.Outcome State Fault Refusal :=
  .next (shRun b.val (.sv .lcmsc f) s)

/-- `LMV16` (R148): 16 by 16 matrix-vector product accumulate. -/
def execLmv16 (b : Fin 16) (f : ShSv) (s : State) : Host.Outcome State Fault Refusal :=
  .next (shRun b.val (.sv .lmv16 f) s)

/-- `LMV8` (R148): 8 by 8 block matrix-vector product accumulate. -/
def execLmv8 (b : Fin 16) (f : ShSv) (s : State) : Host.Outcome State Fault Refusal :=
  .next (shRun b.val (.sv .lmv8 f) s)

/-- `LACCZ` (R147): Zero the active long accumulator lanes. -/
def execLaccz (b : Fin 16) (f : ShSv) (s : State) : Host.Outcome State Fault Refusal :=
  .next (shRun b.val (.sv .laccz f) s)

/-- `LACCX` (R147): Extract a long accumulator to ci16. -/
def execLaccx (b : Fin 16) (f : ShSv) (s : State) : Host.Outcome State Fault Refusal :=
  .next (shRun b.val (.sv .laccx f) s)

/-- `LCHOL` (R150): One Cholesky step in place. -/
def execLchol (b : Fin 16) (f : ShSv) (s : State) : Host.Outcome State Fault Refusal :=
  .next (shRun b.val (.sv .lchol f) s)

end Sys2Proof.Machine
end

