-- ==== Sys2Proof/Machine/Transport.lean ====
section
/-! DEFINITION. The transports of Pennant packets: the checks of a received packet, forwarding, fragments over Lace, domain commits
at a target and at the masthead, and the event sinks (R465, R466, R480–R494). -/

namespace Sys2Proof.Machine

/-! ## The checks of a received packet (R480) -/

/-- The stream of a carrier (R490). -/
def carrierStream : Transport → Fin 11
  | .pcie p _ => ⟨p.val, by omega⟩
  | .i3c _ => 8
  | .lace _ _ _ => 9

/-- A packet's slot, and the length its carrier gives it in bytes (R479). -/
def carrierSlot : Transport → Nat
  | .i3c _ => 256
  | _ => 4096
def carrierLen : Transport → Nat
  | .pcie _ n => n
  | .i3c n => n
  | .lace _ n _ => n

/-- The carrier is a Lace link; it requires a CRC (check 5). -/
def isLace : Transport → Bool
  | .lace _ _ _ => true
  | _ => false
def crcRequired (s : State) : Transport → Bool
  | .pcie _ _ => rdB s R.pnCfg 0 0 1
  | _ => true

/-- Word k of a packet. -/
def pkW (p : Packet) (k : Nat) : W32 := nth p.words k 0#32

/-- Check 1: a whole header with a correct HCHK (R478). -/
def headerOk (p : Packet) : Bool :=
  decide (4 ≤ p.words.length) && decide (fld (pkW p 3) 31 16 = hchk (pkW p 0) (pkW p 1) (pkW p 2) (fld (pkW p 3) 15 0))

/-- The packet's length by its header (R479), and over Lace in whole 64-bit words (R494). -/
def packetBytes (p : Packet) : Nat := 16 + 4 * fld (pkW p 1) 15 0 + 4 * fld (pkW p 1) 22 22
def carriedBytes (p : Packet) : Nat := if isLace p.carrier then (packetBytes p + 7) / 8 * 8 else packetBytes p

/-- Check 6: the CRC word is right, and no word is poisoned. -/
def crcOk (p : Packet) : Bool :=
  let n := packetBytes p / 4
  !p.poisoned && (!bit (pkW p 1) 22 || decide (crc32c (wordBytes (p.words.take (n - 1))) = pkW p (n - 1)))

/-- Checks 2–7 in their order; `armed` is `PN_INJ`.CRC. -/
def packetFault (s : State) (p : Packet) (armed : Bool) : Option Status :=
  let w1 := pkW p 1
  if fld w1 19 16 ≠ 1 then some .badParam
  else if 1020 < fld w1 15 0 ∨ carrierSlot p.carrier < packetBytes p then some .lengthRange
  else if carrierLen p.carrier ≠ carriedBytes p ∨ 4 * p.words.length < packetBytes p then some .badParam
  else if crcRequired s p.carrier && !bit w1 22 then some .badParam
  else if !crcOk p || (armed && bit w1 22) then some .integrity
  else if bit w1 20 ∨ bit w1 21 ∨ fld w1 31 25 ≠ 0 ∨ fld (pkW p 3) 15 0 ≠ 0 ∨ (!isLace p.carrier ∧ fld (pkW p 2) 31 16 ≠ 0) ∨
      (bit w1 23 ∧ fld (pkW p 2) 15 0 ≠ 0) then some .badParam
  else none

/-- The exchange number of a packet over Lace (R494). -/
def carrierXid : Transport → Nat
  | .lace _ _ x => x
  | _ => 0

/-- A packet as a request of its stream. -/
def packetReq (p : Packet) : Req :=
  { stream := carrierStream p.carrier, tag := BitVec.ofNat 16 (fld (pkW p 0) 31 16), note := bit (pkW p 1) 24, crcv := bit (pkW p 1) 22,
    self := bit (pkW p 1) 23, source := BitVec.ofNat 16 (fld (pkW p 2) 31 16), params := (p.words.drop 4).take (fld (pkW p 1) 15 0),
    xid := carrierXid p.carrier }

/-- Check 8: the device that a packet is for, none for this one, whose ID is 0 while it is not joined (R438). -/
def packetTarget (s : State) (p : Packet) : Option Nat :=
  if bit (pkW p 1) 23 ∨ fld (pkW p 2) 15 0 = ownId s then none else some (fld (pkW p 2) 15 0)

/-- A header failure is counted and raised (check 1). -/
def headerFailed (s : State) (inj : Bool) : State := raiseI (bump s R.pnCount 0 2 1) E.pn 0 0 (if inj then 0x41#32 else 1#32)

/-- Commands that stream 9 holds (R494). -/
def laceHeld (s : State) : Nat := ((s.pn.waiting ++ s.pn.held).filter fun h => decide (h.req.stream.val = 9)).length

/-- A packet whose header is good joins its stream. Over Lace PEER_EN and the 64 places of stream 9 answer at once (R494). -/
def acceptPacket (s : State) (p : Packet) : State :=
  let armed := rdB s R.pnInj 0 0 1
  let st := packetFault s p armed
  let hit := decide (st = some .integrity)
  let fired := hit && armed && bit (pkW p 1) 22
  let s1 := if !hit then s else raiseI (bump (if fired then wrB s R.pnInj 0 0 1 false else s) R.pnCount 0 3 1) E.pn 0 0 (if fired then 0x42#32 else 2#32)
  let q := packetReq p
  let op := fld (pkW p 0) 15 0
  let h : Held := { opcode := op, req := q, fail := st, fwd := packetTarget s p }
  if isLace p.carrier && st.isNone && h.fwd.isNone && !rdB s R.pnCfg 0 0 0 && (body op q s).isSome then reply s1 op q .notPermitted []
  else if isLace p.carrier && decide (64 ≤ laceHeld s) then reply (raise s1 E.pn 0 5) op q .busy []
  else settle (arrive s1 h)

/-- A packet is received (R480). -/
def receive (s : State) (p : Packet) : State :=
  let armed := rdB s R.pnInj 0 0 0
  if armed || !headerOk p then
    let s1 := headerFailed (if armed then wrB s R.pnInj 0 0 0 false else s) armed
    match p.carrier with
    | .pcie _ _ => settle (arrive s1 { opcode := 0, req := { packetReq p with tag := 0, params := [] }, fail := some .integrity, noHdr := true })
    | _ => s1
  else acceptPacket s p

/-! ## I3C (R489) -/

/-- The target NACKs a private write: a command is executing, its reply has not been read, or Urvar does not accept commands;
while the device is TRIPPED or LOCKED everything but the always-on responder's commands (R491, R546). -/
def i3cNack (s : State) (p : Packet) : Bool :=
  streamBusy s 8 || (s.pn.waiting.any fun h => decide (h.req.stream.val = 8)) || s.pn.i3cReply.isSome ||
  !(fwUp s || (headerOk p && trippedOp s (fld (pkW p 0) 15 0) 8))

/-- A private write carries one packet, or is NACKed: then `readStat` shows `BUSY`. -/
def i3cWrite (s : State) (p : Packet) : State :=
  if i3cNack s p then { s with readStat := .busy } else receive { s with readStat := .ok } p

/-- `I3C_PRIVATE_WRITE` (R489): whatever carrier the operand names, it is I3C. -/
def execI3cPrivateWrite (p : Packet) (s : State) : Host.Outcome State Fault Refusal :=
  .next (i3cWrite s (match p.carrier with
    | .i3c _ => p
    | _ => { p with carrier := .i3c (4 * p.words.length) }))

/-- `COMMAND_PACKET_RX` (R480). -/
def execCommandPacketRx (p : Packet) (s : State) : Host.Outcome State Fault Refusal :=
  .next (match p.carrier with
    | .i3c _ => i3cWrite s p
    | _ => receive s p)

/-- `PN_INJ_ARM` (R509). -/
def execPnInjArm (w : Writer) (v : W32) (s : State) : Host.Outcome State Fault Refusal :=
  .next (if mayInject s w then wr s R.pnInj 0 0 (rd s R.pnInj ||| (v &&& 3#32)) else s)

/-! ## Forwarded commands (R493) -/

/-- A forwarded command ends with a reply. -/
def forwardEnd (s : State) (f : Forward) (st : Status) (ws : List W32) : State :=
  settle (endHeld (setPn s fun p => { p with forwards := removeFirst (fun x => decide (x = f)) p.forwards }) f.opcode f.req st ws)

/-- The reply to exchange xid arrives; one that nothing waits for is late. -/
def forwardReply (s : State) (xid : Nat) (st : Status) (ws : List W32) : State :=
  match s.pn.forwards.find? fun f => decide (f.xid = xid) with
  | none => raise (bump s R.pnCount 0 5 1) E.pn 0 3
  | some f => forwardEnd s f st ws

/-- `FORWARD_REPLY_RX` (R493). -/
def execForwardReplyRx (xid : Fin 65536) (st : Status) (ws : List W32) (s : State) : Host.Outcome State Fault Refusal :=
  .next (forwardReply s xid.val st ws)

/-- `FORWARD_TIMEOUT` (R493): FWD_TMO has passed since the command was sent. -/
def execForwardTimeout (xid : Fin 65536) (s : State) : Host.Outcome State Fault Refusal :=
  .next (match s.pn.forwards.find? fun f => decide (f.xid = xid.val) with
    | none => s
    | some f => forwardEnd (raise s E.pn 0 4) f .timeout [])

/-! ## Fragments (R494) -/

/-- The status of a number (R499); one outside the table counts as `STATE`, a failure. -/
def numStat (n : Nat) : Status :=
  (nth [Status.ok, .busy, .badOpcode, .badParam, .lengthRange, .notPresent, .notPermitted, .authFail, .integrity, .timeout, .state, .noResource,
    .remoteUnreachable, .late, .deferred, .partialDone, .fenced] n .state)

/-- The words of a whole packet, fragment after fragment; none while one is missing. -/
def wholePacket (x : Partial) : Option (List W32) :=
  if (List.range (x.last + 1)).all fun k => (assoc x.frags k).isSome then
    some ((List.range (x.last + 1)).flatMap fun k => (assoc x.frags k).getD []) else none

/-- A packet that arrived whole: a reply of an exchange, an event (for software beside this device), or a command. -/
def lacePacket (s : State) (src : W16) (xid : Nat) (ws : List W32) (bad : Bool) : State :=
  let p : Packet := { carrier := .lace src (4 * ws.length) xid, words := ws, poisoned := bad }
  if headerOk p && bit (pkW p 1) 20 then forwardReply s xid (numStat (fld (pkW p 3) 15 0)) ((ws.drop 4).take (fld (pkW p 1) 15 0))
  else if headerOk p && bit (pkW p 1) 21 then s
  else receive s p

/-- The partial packet of a sender and an exchange. -/
def partialOf (s : State) (src : W16) (xid : Nat) : Option Partial :=
  s.pn.partials.find? fun x => decide (x.src = src) && decide (x.xid = xid)
def dropPartial (s : State) (src : W16) (xid : Nat) : State :=
  setPn s fun p => { p with partials := p.partials.filter fun x => !(decide (x.src = src) && decide (x.xid = xid)) }

/-- `LACE_FRAGMENT_RX` (R494). -/
def execLaceFragmentRx (src : BitVec 16) (xid : Fin 65536) (frag last : Fin 32) (data : List TWord) (s : State) : Host.Outcome State Fault Refusal :=
  .next (
    let ws := data.flatMap fun w => [lo32 w.1.toNat, hi32 w.1.toNat]
    let x := (partialOf s src xid.val).getD { src := src, xid := xid.val, last := last.val, frags := [], bad := false }
    let y : Partial := { x with frags := putKey x.frags frag.val (some ws), bad := x.bad || data.any fun w => w.2 }
    let s1 := dropPartial s src xid.val
    match wholePacket y with
    | some l => lacePacket s1 src xid.val l y.bad
    | none => setPn s1 fun p => { p with partials := p.partials ++ [y] })

/-- `FRAGMENT_TIMEOUT` (R494): 1 ms after the first fragment an incomplete packet is a header failure. -/
def execFragmentTimeout (src : BitVec 16) (xid : Fin 65536) (s : State) : Host.Outcome State Fault Refusal :=
  .next (if (partialOf s src xid.val).isSome then headerFailed (dropPartial s src xid.val) false else s)

/-! ## Domain commits (R465, R466) -/

/-- `PREPARE_RX` (R465): the inner command is staged and the reply goes to the masthead. -/
def execPrepareRx (inner : List W32) (s : State) : Host.Outcome State Fault Refusal :=
  .next (if !joined s then s else
    let (s1, st, out) := prepareHere s inner 9
    laceMsg s1 12 (mhId s) (packF [(0, statNum st)] :: out))

/-- `CONFIRM_RX` (R465): the staging will apply, and the target acknowledges. -/
def execConfirmRx (op : Fin 65536) (tag : BitVec 16) (s : State) : Host.Outcome State Fault Refusal :=
  .next (if (preparedOf s op.val tag).isNone then s
    else laceMsg (confirmHere s op.val tag) 12 (mhId s) [packF [(0, op.val), (16, tag.toNat)]])

/-- `ABORT_RX` (R465). -/
def execAbortRx (op : Fin 65536) (tag : BitVec 16) (s : State) : Host.Outcome State Fault Refusal := .next (abortHere s op.val tag)

/-- `PREP_EXPIRED` (R466). -/
def execPrepExpired (named : Bool) (s : State) : Host.Outcome State Fault Refusal := .next (prepExpired s named)

/-- `DOMAIN_COMMIT_DECISION` (R465): the replies to PREPARE received so far, by device. -/
def execDomainCommitDecision (stream : Fin 11) (replies : List (Fin 65536 × Status)) (s : State) : Host.Outcome State Fault Refusal :=
  .next (match domainOf s stream.val with
    | none => s
    | some c => settle (domainDecide s c (replies.map fun e => (e.1.val, e.2))))

/-- `CONFIRM_ACK_RX` (R466). -/
def execConfirmAckRx (stream : Fin 11) (dev : Fin 65536) (s : State) : Host.Outcome State Fault Refusal :=
  .next (match domainOf s stream.val with
    | none => s
    | some c => settle (domainAck s c dev.val))

/-- `DOMAIN_ACK_DEADLINE` (R466). -/
def execDomainAckDeadline (stream : Fin 11) (s : State) : Host.Outcome State Fault Refusal :=
  .next (match domainOf s stream.val with
    | none => s
    | some c => settle (domainDeadline s c))

/-! ## Event sinks (R485, R488) -/

/-- The Lace device an event goes to; EV_LOST to the device of the first kind that is routed there. -/
def eventDev (s : State) (kind : Nat) : Nat :=
  let k := if kind = 7 then ((List.range 7).find? fun i => rdB s R.pnEvsink 0 i 2).getD 1 else kind
  rdF s R.pnEvsink 0 k 31 16

/-- `EVENT_SINK_DRAIN` (R485): the oldest event of a sink is delivered where its way is open: 0 QP8, 1 the I3C sink, which a
private read drains, 2 Lace. -/
def execEventSinkDrain (k : Fin 3) (s : State) : Host.Outcome State Fault Refusal :=
  .next (match k.val with
    | 0 => match s.pn.pcieSink.buf with
      | [] => s
      | ev :: _ =>
        if !qpEn s 8 ∨ qpSize s 8 ≤ cqOcc s 8 then s
        else cqPost (sinkPop s .pcie) 8 ([0, w32 ev.seq, 0, 0] ++ (eventPacket s ev 0 false ++ List.replicate 12 0#32).take 12) true
    | 1 => ibiSync s
    | _ => match s.pn.laceSink.buf with
      | [] => s
      | ev :: _ =>
        if !joined s then s
        else (fragments s.pn.nextXid (eventPacket s ev (eventDev s ev.kind) true)).foldl (fun a w => laceMsg a 14 (eventDev s ev.kind) w)
          (setPn (sinkPop s .lace) fun p => { p with nextXid := (p.nextXid + 1) % 65536 }))

end Sys2Proof.Machine
end

