-- ==== Sys2Proof/Machine/Startup.lean ====
section
/-! DEFINITION. Reset, the boot ROM, the start-up of Urvar, the restarts of the management processor, and the clock edge that an
empty queue stands for (R30, R549, R555, R559, R574, R581–R592, R600, R624, R625). -/

namespace Sys2Proof.Machine

/-! ## Resets (R543, R545, R581–R583, R624, R625) -/

/-- The device resets internally: the bypass switches close, everything outside domain 38 is as after reset. -/
def deviceReset (s : State) : State := resetCore (closeAll s)

/-- `RESET_N_ASSERT` (R583). -/
def execResetNAssert (s : State) : Host.Outcome State Fault Refusal :=
  .next (setBoot (deviceReset s) fun b => { b with resetN := false })

/-- The device is held as while `PWR_OK` is low (R582): OSCF reads 0. -/
def powerDown (s : State) : State := wr (setBoot (deviceReset s) fun b => { b with pwrOk := false, oscHold := false }) R.timStat 0 0 0

/-- `PWR_OK_FALL` (R559, R581, R582): an orderly power-down writes the ledger. -/
def execPwrOkFall (s : State) : Host.Outcome State Fault Refusal :=
  .next (if !s.boot.pwrOk then s else powerDown (if fwUp s then writeLedger s else s))

/-- `SUPPLY_OUT_OF_RANGE` (R582): as a fall of `PWR_OK`, with no ledger record. -/
def execSupplyOutOfRange (s : State) : Host.Outcome State Fault Refusal := .next (if s.boot.pwrOk then powerDown s else s)

/-- `OSC_IN_LOSS` (R625). -/
def execOscInLoss (s : State) : Host.Outcome State Fault Refusal := .next (if s.boot.pwrOk then powerDown s else s)

/-- The OSCF code nearest to a frequency in Hz, and that code's frequency (R624). -/
def oscCode (f : Nat) : Nat := if f < 15000000 then 1 else if f < 22500000 then 2 else 3
def oscHz (c : Nat) : Nat := if c = 1 then 10000000 else if c = 2 then 20000000 else 25000000

/-- A frequency lies within `ppm` of another. -/
def nearHz (f g ppm : Nat) : Bool := decide (1000000 * f ≤ (1000000 + ppm) * g) && decide ((1000000 - ppm) * g ≤ 1000000 * f)

/-- `PWR_OK_RISE` (R545, R624, R625): `freq` is the frequency of `OSC_IN` measured, in Hz. -/
def execPwrOkRise (freq : Nat) (s : State) : Host.Outcome State Fault Refusal :=
  .next (if s.boot.pwrOk then s else
    let c := oscCode freq
    let s1 := setBoot s fun b => { b with pwrOk := true, powerCycle := true, oscHold := !nearHz freq (oscHz c) 20000 }
    let s2 := wr s1 R.timStat 0 0 (packF [(0, b2n (nearHz freq (oscHz c) 500)), (1, c)])
    setTh (wrF s2 R.thStat 0 0 28 27 0) fun t => { t with restart := false })

/-- `VAO_RISE` (R581): the always-on domain starts with its state reset, every bypass switch closed.
DEDUCED, unsafe: log entry 42. -/
def vaoReset (s : State) : State := setBoot (resetAll false (closeAll s)) fun b => { b with pwrOk := false, resetN := false, oscHold := false }
def execVaoRise (s : State) : Host.Outcome State Fault Refusal := .next (vaoReset s)

/-- `VAO_LOSS` (R545). -/
def execVaoLoss (s : State) : Host.Outcome State Fault Refusal := .next (vaoReset s)

/-! ## Reset release and the boot ROM (R583–R587) -/

/-- The identity mirror (R594): a copy that fails is rewritten from the other. -/
def mirrorRepair (s : State) : State :=
  let t := s.store
  if t.copy0 = t.copy1 then s
  else setBoot (setStore (rawClear s 0 0x10000) fun x => { x with copy0 := true, copy1 := true }) fun b => { b with repaired := some (if t.copy0 then 1 else 0) }

/-- In LACE mode the ROM sets up port P00 on lanes L016–L019 at L28 (R587). -/
def bootPort (s : State) : State :=
  let s1 := [16, 17, 18, 19].foldl (fun a n => laneApply a 0x11A#32 (rd a R.lnLosCfg n) (rd a R.lnTrn0 n) (rd a R.lnTrn1 n) n) s
  portSync (wr s1 R.lcCfg 0 0 (packF [(0, 16), (8, 2), (11, 1)])) 0

/-- The regulators of the domains are ready (R532).
DEDUCED, safe: log entry 182. -/
def ivrsReady (s : State) : State :=
  (List.range 38).foldl (fun a d => if domainHere a.variant d then wrB a R.ivrStat d 0 0 true else a) s

/-- Reset is released (R583, R584): the straps are sampled, and `GPIO[2:0]` for the I3C static address (R427), the arrays calibrate
(R192), the lanes start in their reset roles, and the ROM waits for an image. -/
def resetRelease (s : State) (bootSel laceRole : Nat) : State :=
  let s0 := setHost (ivrsReady s) fun h => { h with i3cStatic := 0x30 + h.gpioIn.toNat % 8 }
  let s1 := setBoot (mirrorRepair s0) fun b => { b with resetN := true, tried := false, romWait := false }
  let s2 := wr s1 R.bootStat 0 0 (packF [(0, 2), (3, bootSel), (5, laceRole), (10, b2n s.boot.ownerFused.isSome)])
  let s3 := wr (wrF s2 R.ldId 0 0 18 17 laceRole) R.secStat 0 0 (packF [(0, secverOf s2)])
  let s4 := (List.range 16).foldl (fun a b => if cmaHere a.variant b then startCal a b else a) s3
  let s5 := (List.range 16).foldl (fun a k => shoreUp a (20 + k)) s4
  if bootSel = 2 then bootPort s5 else s5

/-- `RESET_RELEASE` (R583): only with `PWR_OK` high, `OSC_IN` in range, and no thermal shutdown in force. -/
def execResetRelease (bootSel laceRole : Fin 4) (s : State) : Host.Outcome State Fault Refusal :=
  .next (if !s.boot.pwrOk ∨ s.boot.oscHold ∨ phase s ≠ 0 ∨ tstate s ≠ 0 then s else resetRelease s bootSel.val laceRole.val)

/-- `THERMAL_RESTART_RELEASE` (R545): the internal reset held for 1 ms is released. -/
def execThermalRestartRelease (bootSel laceRole : Fin 4) (s : State) : Host.Outcome State Fault Refusal :=
  .next (if tstate s ≠ 3 ∨ !s.boot.pwrOk then s else
    let s1 := setTh (wrF (resetCore s) R.thStat 0 0 28 27 0) fun t => { t with restart := false }
    resetRelease s1 bootSel.val laceRole.val)

/-- A verification fails: its code and the slot tried are recorded (R603). -/
def bootFailed (s : State) (code slot : Nat) : State := wr s R.bootErr 0 0 (packF [(0, code), (8, slot)])

/-- Urvar starts from a verified image (R584 step 5). -/
def startImage (s : State) (img : List W32) : State := setPhase (showImage (setBoot s fun b => { b with running := img })) 4

/-- The slot that the selector prefers, and a slot's content (R585). -/
def preferredSlot (s : State) : Nat := if s.boot.selMagic = 0x5345#32 then b2n s.boot.selPref else 0
def flashImage (s : State) (k : Nat) : List W32 := if k = 0 then s.boot.flash0 else s.boot.flash1

/-- A slot that the device has never written holds what the operand says.
DESIGN CHOICE, safe: log entry 41. -/
def fillFlash (s : State) (k : Nat) (img : List W32) : State :=
  if !(flashImage s k).isEmpty then s
  else setBoot s fun b => if k = 0 then { b with flash0 := img } else { b with flash1 := img }

/-- A slot of the boot flash has been read (R585): the preferred slot first, then the other. -/
def qspiFetched (s : State) (img : List W32) (clean : Bool) : State :=
  let k := if s.boot.tried then 1 - preferredSlot s else preferredSlot s
  let s1 := fillFlash s k img
  let code := verifyCode s1 (flashImage s1 k) clean
  if code = 0 then startImage (wrB s1 R.bootStat 0 0 7 (decide (k = 1))) (flashImage s1 k)
  else
    let s2 := bootFailed s1 code k
    if s.boot.tried then setBoot s2 fun b => { b with romWait := true }
    else wrB (setBoot s2 fun b => { b with tried := true }) R.bootStat 0 0 9 true

/-- Chunks of 62 words in the image that chunk 0 announces; none before it has arrived (R587). -/
def chunkCount (s : State) : Option Nat := (assoc s.boot.chunks 0).map fun c => (128 + imgLen c / 4 + 61) / 62

/-- The image from its chunks, once all have arrived. -/
def chunkImage (s : State) : Option (List W32) := match chunkCount s with
  | none => none
  | some n => if (List.range n).all fun k => (assoc s.boot.chunks k).isSome then
      some ((List.range n).flatMap fun k => (assoc s.boot.chunks k).getD []) else none

/-- `IMAGE_FETCH_COMPLETE` (R584, R585, R587, R590): from the boot flash, `img` being what a slot holds that the device has not
written itself; from the Lace, the image its chunks make up. -/
def execImageFetchComplete (img : List W32) (clean : Bool) (s : State) : Host.Outcome State Fault Refusal :=
  .next (if phase s ≠ 2 ∨ s.boot.romWait then s
    else if bootSrc s = 0 then qspiFetched s img clean
    else if bootSrc s = 2 then match chunkImage s with
      | none => s
      | some l =>
        let code := verifyCode s l clean
        if code = 0 then startImage s l else setBoot (bootFailed s code 0) fun b => { b with chunks := [] }
    else s)

/-- GO of `BOOT_PUSH` (R586): the pushed image lies at HBM address 0. -/
def bootPushGo (s : State) (w : Writer) : State :=
  if phase s ≠ 2 ∨ bootSrc s ≠ 1 ∨ (w ≠ .host ∧ w ≠ .mp) then s else
    let n := rdF s R.bootPush 0 0 21 0
    if n < 576 ∨ 3146240 < n then bootFailed s 0x0A 0
    else
      let (s1, ws) := readWords s 0 ((n + 7) / 8)
      let img := (ws.flatMap fun x => [lo32 x.1.toNat, hi32 x.1.toNat]).take (n / 4)
      let code := verifyCode s1 img (!(ws.any fun x => x.2))
      if code = 0 then startImage s1 img else bootFailed s1 code 0

/-- `BOOT_PUSH_GO` (R586). -/
def execBootPushGo (w : Writer) (s : State) : Host.Outcome State Fault Refusal := .next (bootPushGo s w)

/-- The ROM waits for image chunks over the Lace. -/
def laceBooting (s : State) : Bool := decide (phase s = 2) && decide (bootSrc s = 2)

/-- `LACE_BOOT_CHUNK_RX` (R587). -/
def execLaceBootChunkRx (idx : Fin 65536) (ws : List W32) (s : State) : Host.Outcome State Fault Refusal :=
  .next (if laceBooting s then setBoot s fun b => { b with chunks := putKey b.chunks idx.val (some (ws.take 62)) } else s)

/-- `LACE_BOOT_RETRY` (R587): every 10 ms the ROM asks for the chunks still missing; all while chunk 0 is. -/
def execLaceBootRetry (s : State) : Host.Outcome State Fault Refusal :=
  .next (if !laceBooting s ∨ (chunkImage s).isSome then s else
    let missing := match chunkCount s with
      | none => []
      | some n => (List.range n).filter fun k => (assoc s.boot.chunks k).isNone
    laceMsg s 6 0 (0x424F4F54#32 :: missing.map w32))

/-! ## Urvar's start-up (R591) -/

/-- The on-die entry of NI n to NI d (R4, R352). -/
def startRoute (v : Variant) (n d : Nat) : RtEntry :=
  let r := Config.route n d
  let abs := if niHere v d then 0 else if d = 33 then 2 else 1
  { w0 := packF [(0, r.2.2 % 16), (4, 1), (8, niDomain d), (14, abs)], w1 := r.1, w2 := packF [(0, r.2.1.toNat)], w3 := 0 }

/-- The route tables of every present NI are written. -/
def writeRoutes (s : State) : State :=
  ((List.range 40).filter (niHere s.variant)).foldl (fun a n => (List.range 40).foldl (fun t d => putRtEntry t n d (startRoute s.variant n d)) a) s

/-- The journal is replayed (R555): the epoch in force, the next SEQ, TORN and JCRC, a freshly opened segment. -/
def replayJournal (s : State) : State :=
  let e := findEpoch s.store.journal
  let (_, next, ev) := chain s.store.journal e
  let s1 := setJournal s fun j => { j with segs := j.segs.map fun g => if g.epoch = e ∧ g.state = .open_ then { g with state := .sealed } else g }
  let s2 := wr64 (wr (openSeg s1 e next) R.jnEpoch 0 0 (w32 e)) R.jnNextseq 0 0 next
  raiseI (syncSegs (wrB s2 R.mrStat 0 0 0 true)) E.mr 0 0 ev

/-- The counted records of the epoch in force. -/
def countedNow (s : State) : List JRec := counted s.store.journal (epochOf s)

/-- The profile in force by the latest counted PROFILE_SEL (R560). -/
def profileOf (rs : List JRec) : Option Nat := match latest rs 0x12 with
  | none => none
  | some r => if bit (nth r.payload 0 0#32) 1 then some (fld (nth r.payload 0 0#32) 0 0) else none

/-- The live ledger that the latest counted LEDGER record restores. -/
def ledgerFrom (rs : List JRec) : List (Nat × W32) := match latest rs 0x10 with
  | none => [(0, 1#32)]
  | some r => (r.payload.zipIdx.filter fun e => decide (e.1 ≠ 0#32)).map fun e => (e.2, e.1)

/-- The trip that the always-on registers hold, if they hold one (R549). -/
def latchedTrip (s : State) : Option TripRec :=
  let w := rd s R.thTripInfo
  if bit w 18 then some
    { sensor := fld w 5 0, inj := bit w 19, lock := s.th.lockTrip, tj := fld w 17 6, ats := BitVec.ofNat 64 (pair64 (rd s R.thTripAtsLo) (rd s R.thTripAtsHi)),
      seq := (rd s R.thTripseq).toNat - 1, power := s.th.tripPower, pct := s.th.tripPct }
  else none

/-- The trips to merge, ascending: from the latch where it holds them, else from the ring (R549). -/
def tripsToMerge (s : State) (last : Nat) : List TripRec :=
  let l := (latchedTrip s).toList
  let ring := (s.store.ring.map fun e => e.2).filter fun r => l.all fun x => decide (x.seq ≠ r.seq)
  sortBy (fun a b => decide (a.seq < b.seq)) ((l ++ ring).filter fun r => decide (last < r.seq))

/-- One member record of a merge, its TRIP_LOGGED, and LOCKOUT for one that entered LOCKED. -/
def mergeTrip (g : Nat) (s : State) (r : TripRec) : State :=
  let s1 := raise (append s 0x11 g (w32 r.seq) (tripWords r)).1 E.th 0 6
  raiseIf r.lock s1 E.th 0 7

/-- Trips are merged as one group (R549, R554). -/
def mergeTrips (s : State) : State :=
  let last := (ledW s 22).toNat
  let seqs := last :: ((latchedTrip s).toList.map (fun r => r.seq) ++ s.store.ring.map fun e => e.2.seq)
  let s0 := wr s R.thTripseq 0 0 (w32 (satU 32 (listMax seqs + 1)))
  match tripsToMerge s last with
  | [] => s0
  | r :: rs =>
    let l := r :: rs
    let g := s0.store.journal.nextGroup
    let s1 := setJournal s0 fun j => { j with nextGroup := g + 1 }
    let s2 := l.foldl (mergeTrip g) (append s1 1 g 0 [w32 (l.length + 1)]).1
    let s3 := setLed (ledAdd s2 21 l.length) 22 (w32 (listMax (l.map fun r => r.seq)))
    let s4 := ledAdd s3 26 (l.filter fun r => r.lock).length
    (append (append s4 0x10 g 0 (ledgerWords s4)).1 2 g 0 []).1

/-- A rise of `PWR_OK` counts in PCYC (R559). -/
def countPowerCycle (s : State) : State :=
  if s.boot.powerCycle then ledAdd (setBoot s fun b => { b with powerCycle := false }) 19 1 else s

/-- The record of a repaired mirror copy (R594). -/
def logRepair (s : State) : State := match s.boot.repaired with
  | none => s
  | some k => log (setBoot s fun b => { b with repaired := none }) 0x34 0 [w32 k]

/-- A profile packet as a command of stream 10, with the check that it fails, if any (R560, R592). -/
def profileCmd (s : State) (pk : List W32) : Held :=
  let p : Packet := { carrier := .pcie 0 (4 * pk.length), words := pk, poisoned := false }
  { opcode := fld (pkW p 0) 15 0, req := { packetReq p with stream := 10 }, fail := packetFault s p false, fwd := packetTarget s p }

/-- The profile's header or CRC is wrong: no packet runs (R592). -/
def profileBad (p : Profile) : Bool := decide (p.bytes.length ≠ p.len) || decide (458688 < p.len) || decide (crc32c p.bytes ≠ p.crc)

/-- The boot profile's packets join stream 10 (R591 step 6). -/
def queueProfile (s : State) : State := match s.store.profSel.bind (profileAt s) with
  | none => s
  | some p =>
    if profileBad p then setBoot s fun b => { b with profBad := true }
    else match parsePackets (p.bytes.length / 16 + 1) p.bytes with
      | none => setBoot s fun b => { b with profBad := true }
      | some l => setPn s fun n => { n with waiting := n.waiting ++ (l.take p.count).map (profileCmd s) }

/-- The device accepts commands (R591 step 7): FW_UP, PHASE = READY; an activation replies (R600, R607). -/
def becomeReady (s : State) : State :=
  let s1 := wrB (setPhase s 7) R.pnStat 0 0 16 true
  match s1.boot.activating, s1.pn.held.find? (fun h => decide (h.opcode = 0x0D04)) with
  | true, some h =>
    let s2 := setBoot s1 fun b => { b with activating := false }
    if rdB s2 R.bootStat 0 0 8 then endHeld s2 0x0D04 h.req .ok [imgVersion s2.boot.running] else endHeld s2 0x0D04 h.req .integrity []
  | true, none => setBoot s1 fun b => { b with activating := false }
  | false, _ => s1

/-- Stream 10 has nothing left to run. -/
def profileDone (s : State) : Bool := (s.pn.waiting ++ s.pn.held).all fun h => decide (h.req.stream.val ≠ 10)

/-- Step 7 of R591, once the profile has run and the governor has made its start-up designation (R332). -/
def bootReady (s : State) : State :=
  if phase s ≠ 6 ∨ !profileDone s then s
  else
    let s1 := spareStartup s
    if s1.gov.started then becomeReady s1 else s1

/-- Waiting commands go on, and a start-up that waited is completed.
DESIGN CHOICE, unsafe: log entry 107. -/
def progress (s : State) : State := settle (bootReady (settle s))

/-- Steps 3–5 of R591. -/
def replayAll (s : State) : State :=
  let s1 := replayJournal (setPhase s 5)
  let rs := countedNow s1
  let s2 := setStore s1 fun t => { t with profSel := profileOf rs, ledger := if s.boot.mpOnly then t.ledger else ledgerFrom rs }
  countPowerCycle (logRepair (mergeTrips s2))

/-- `URVAR_STARTUP` (R591): from FW_START the device is brought up; a restart of the management processor alone replays and merges
and leaves everything else as it is (R600). -/
def urvarStartup (s : State) : State :=
  if tstate s ≠ 0 then s
  else if phase s ≠ 4 then progress s
  else
    let s1 := replayAll (if s.boot.mpOnly then s else writeRoutes s)
    let s2 := measureProfile (measure (setPhase s1 6))
    progress (if s.boot.mpOnly then s2 else queueProfile s2)

def execUrvarStartup (s : State) : Host.Outcome State Fault Refusal := .next (urvarStartup s)

/-! ## Restarts of the management processor (R574, R600, R601) -/

/-- The ROM restarts the MP from the previous image, which the other image memory still holds (R600). -/
def fallBack (s : State) : State :=
  let s1 := setBoot s fun b => { b with running := b.other, other := b.running }
  let s2 := wrB (wrB s1 R.bootStat 0 0 8 false) R.bootStat 0 0 9 true
  let s3 := if bootSrc s = 0 then wrB s2 R.bootStat 0 0 7 (!(rdB s R.bootStat 0 0 7)) else s2
  restartMp (showImage s3)

/-- An activation is under way whose new image has not set FW_UP. -/
def onTrial (s : State) : Bool := s.boot.activating && !fwUp s && rdB s R.bootStat 0 0 8

/-- `FW_ACTIVATE_FALLBACK` (R600): 2 s have passed since the restart. -/
def execFwActivateFallback (s : State) : Host.Outcome State Fault Refusal := .next (if onTrial s then fallBack s else s)

/-- The commands executing receive no reply (R574): they leave their streams, and their PCIe submissions are forgotten. An
`FW_ACTIVATE` under way still waits for the new image. -/
def dropExecuting (s : State) : State :=
  let kept (h : Held) : Bool := s.boot.activating && decide (h.opcode = 0x0D04)
  let gone := s.pn.held.filter fun h => !kept h
  let s1 := setPn s fun p => { p with held := p.held.filter kept, forwards := [] }
  let s2 := setLace s1 fun l => { l with commits := [] }
  gone.foldl (fun a h =>
    subDrain (setHost a fun x => { x with subs := removeFirst (fun y => decide (y.qp = h.req.stream.val)) x.subs }) h.req.stream.val) s2

/-- Pair 0 (control) or 1 (management) restarts from ROM (R574); `did` is the detector. -/
def pairRestart (s : State) (did pair : Nat) : State :=
  if tstate s ≠ 0 ∨ phase s < 4 then s else
  let d := s.det
  let n := (if pair = 0 then d.restarts.1 else d.restarts.2) + 1
  let s1 := { s with det := { d with
    restarts := if pair = 0 then (n, d.restarts.2) else (d.restarts.1, n),
    kickOff := d.kickOff.filter fun x => decide (x ≠ pair), cmpForce := d.cmpForce.filter fun x => decide (x ≠ pair) } }
  let key := packF [(0, did), (16, pair)]
  let s2 := if phase s = 4 ∧ !s.boot.mpOnly then s1 else log s1 0x22 key [key, lo32 s.ats.toNat, hi32 s.ats.toNat, w32 n]
  if onTrial s then fallBack s2
  else if pair ≠ 0 then s2
  else if phase s = 7 then restartMp (dropExecuting s2)
  else if phase s = 6 then setPhase (setPn (dropExecuting s2) fun p => { p with waiting := p.waiting.filter fun h => decide (h.req.stream.val ≠ 10) }) 4
  else s2

/-- `MP_WATCHDOG_EXPIRY` (R574): DID 0x16. -/
def execMpWatchdogExpiry (pair : Fin 2) (s : State) : Host.Outcome State Fault Refusal := .next (pairRestart s 0x16 pair.val)

/-- `LOCKSTEP_MISMATCH` (R574): DID 0x17. -/
def execLockstepMismatch (pair : Fin 2) (s : State) : Host.Outcome State Fault Refusal := .next (pairRestart s 0x17 pair.val)

/-! ## Tokens and the debugger (R523, R598) -/

/-- `CHALLENGE_EXPIRY` (R598): 60 s after its issue a nonce is no longer valid; 0 for KIND 1, 1 for KIND 2. -/
def execChallengeExpiry (kind : Fin 2) (s : State) : Host.Outcome State Fault Refusal := .next (spend s (kind.val + 1))

/-- `DEBUG_REQUEST` (R523, R598): JTAG reaches an Awl core only within the scope of an open debug unlock; the bench wakes.
DEDUCED, unsafe: log entry 52. -/
def execDebugRequest (id : CoreId) (s : State) : Host.Outcome State Fault Refusal :=
  .next (
    let open_ := match s.boot.unlock with
      | some sc => decide (sc / 2 % 2 = 1)
      | none => false
    if !open_ ∨ !benchHere s.variant id.bench.val then s else
    let c := coreOf s id.bench.val id.core.val
    wakeDomain (putCore s id.bench.val id.core.val { c with debug := true, dbgReq := true }) id.bench.val 5)

/-! ## The clock edge of an empty queue (R30) -/

end Sys2Proof.Machine
end

