-- ==== Sys2Proof/Machine/Access.lean ====
section
/-! DEFINITION. Writes of registers that have no command of their own, and the start of staged tasks (R8, R20–R22, R65, R286). -/

namespace Sys2Proof.Machine

/-! ## Register writes (R20) -/

/-- A lane's `SHELL_CTL` written by the management processor: a change of role or rate restarts the lane (R386). -/
def laneCtlWrite (s : State) (n : Nat) (v : W32) : State :=
  laneApply s (v &&& 0x1FF#32) (rd s R.lnLosCfg n) (rd s R.lnTrn0 n) (rd s R.lnTrn1 n) n

/-- A write of an injection register (R394, R532, R561, R570): with ARM = 1, or KIND 0, it acts; else it stores its fields and leaves
ARM as it stands. -/
def injRegWrite (s : State) (r : Reg) (u : Nat) (v : W32) (act : State → State) : State :=
  if bit v 2 ∨ fld v 1 0 = 0 then act s
  else if r.legal v then wr s r u 0 (setBit (v &&& r.rw) 2 (rdB s r u 0 2)) else s

/-- A lane's registers that the lane takes up whole (R386, R391, R394): bit 9 of `SHELL_CTL` retrains it. -/
def laneWrite (s : State) (n o : Nat) (v : W32) : State :=
  if !laneHere s.variant n then s
  else if o = 0x04 then
    let s1 := laneCtlWrite s n v
    lanesMoved (if bit v 9 then retrainCmd s1 n else s1)
  else if o = 0x18 then lanesMoved (injRegWrite s R.laneInj n v fun t => laneInjArm t n (fld v 1 0) (fld v 31 16))
  else if R.lnTest.legal v then lanesMoved (testWrite s n v) else s

/-- A beam array's registers (R203): ARM arms the KIND selected, CAL_START asks for a calibration, and a configuration is
looked at at once. -/
def cmaWrite (s : State) (b : Nat) (r : Reg) (v : W32) : State :=
  if !cmaHere s.variant b then s
  else if r.is R.cmaInj then (if fld v 2 0 < 4 then cmaInjWrite s b v else s)
  else
    let s1 := capSync (cmaSync (calDueCheck s b) b)
    if r.is R.cmaCtl && bit v 4 && decide (fld v 2 1 ≠ 3) then (calibrate s1 b false).1 else s1

/-- The unit that holds the register at address a acts on a write of v (R20): the start of a DMA chain or its end, the Shank's
resume, a pushed image, an IPI, a lane, a PLL, a regulator, a sensor, a beam array. One write of `DMA_CTL` with START and ABORT
both 1 starts the chain and then asks for its abort (R64 says nothing of it).
DESIGN CHOICE, unsafe: log entry 152. -/
def unitTake (s : State) (w : Writer) (a : Nat) (v : W32) : State :=
  match ipiCore a with
  | some (b, c) => if benchHere s.variant b then ipiWrite s b c v else s
  | none => match regAt a with
    | none => s
    | some (r, u, i) =>
      if r.is R.dmaCtl then
        let s1 := if bit v 1 then dmaStartBit s u i else s
        if bit v 2 then dmaAbortBit s1 u i else s1
      else if r.is R.qpCfg then qpCfgWrite s u v
      else if r.is R.shCtl then (if bit v 2 then shankResume s u else s)
      else if r.is R.bootPush then (if bit v 31 then bootPushGo s w else s)
      else if w ≠ .mp then s
      else if r.blk.base = R.laneB.base then laneWrite s u r.off v
      else if r.is R.quadInj then
        if quadHere s.variant u then lanesMoved (injRegWrite s r u v fun t => quadInjArm t u (fld v 1 0) (fld v 31 16)) else s
      else if r.is R.ivrInj then
        if domainHere s.variant u then injRegWrite s r u v fun t => ivrInjArm t u (fld v 1 0) (fld v 31 16) else s
      else if r.is R.tsInj then
        if sensorHere s.variant u then injRegWrite s r u v fun t => sensorInjArm t u (fld v 1 0) (fld v 14 3) (fld v 31 16) else s
      else if r.blk.base = R.cmaB.base then cmaWrite s u r v
      else s

/-- The writes that the fabric brought are taken up by their units, oldest first.
DESIGN CHOICE, unsafe: log entry 110. -/
def takePosted (s : State) : State := s.posted.foldl (fun t p => unitTake t p.1 p.2.1 p.2.2) { s with posted := [] }

/-- A write of one register (R20–R22): by its access codes, with all that follows from it. -/
def registerWrite (s : State) (w : Writer) (a : Nat) (v : W32) : State :=
  let s1 := regTake s w a v true
  if barDenied a || writeLocked s (realAddr a) then s1 else unitTake s1 w (realAddr a) v

/-- A write of a 32-bit register by the host through BAR0 (R423): a misaligned one is aborted and reported through AER; one to a
bench crosses the fabric from NI 39.
DESIGN CHOICE, unsafe: log entry 173. -/
def bar0Write (s : State) (a : Nat) (v : W32) : State :=
  if a % 4 ≠ 0 then setHost s fun h => { h with aer := h.aer ++ [5] }
  else
    let k := realAddr a
    if !barDenied a && decide (R.benB.base ≤ k) && decide (k < R.benB.base + 0x10000000) then hostWrite s k fun t => registerWrite t .host a v
    else registerWrite s .host a v

/-- `REGISTER_WRITE` (R20). -/
def execRegisterWrite (w : Writer) (a : BitVec 64) (v : W32) (s : State) : Host.Outcome State Fault Refusal :=
  .next (if w = .host ∧ bar0 ≤ a.toNat ∧ a.toNat < bar0 + 0x10000000 then bar0Write s a.toNat v else registerWrite s w a.toNat v)

/-! ## The start of a task (R65, R286) -/

/-- The engine at a site starts its next staged task: the start that its own chapter describes. -/
def engineStart (s : State) : Site → State
  | .bench b i =>
    if h : i.val < 8 then coreTaskStart s { bench := b, core := ⟨i.val, h⟩ }
    else if i.val = 8 then shankStart s b
    else if i.val = 9 then fftStart s b 0
    else if i.val = 10 then fftStart s b 1
    else if i.val = 11 then cmaStart s b
    else dmaTaskStart s b ⟨i.val - 12, by omega⟩
  | .pool h i => poolStart s h i
  | .mac m tx => if tx then fhtxStart s m else fhrxStart s m
  | .notify n => notifyStart s n none

/-- `ENGINE_TASK_START` (R286): STAGED to RUN. -/
def execEngineTaskStart (x : Site) (s : State) : Host.Outcome State Fault Refusal :=
  .next (if siteHere s.variant x then settled s (engineStart s x) else s)

/-! ## The clock -/

/-- One edge of the timing clock (R30): air-time advances 4 Tc; posted register writes are taken up, and waiting Pennant
commands and a start-up that can go on do so, and a Shank stops at a word that is no instruction.
DESIGN CHOICE, unsafe: log entry 1. -/
def clockEdge (s : State) : State := (List.range 16).foldl shFetch (progress (takePosted { s with ats := s.ats + 4 }))

end Sys2Proof.Machine
end

