-- ==== Sys2Proof/Machine/AwlEyelet.lean ====
section
/-! DEFINITION. The eyelet instructions of an Awl core (R159–R169). -/

namespace Sys2Proof.Machine


/-- `EY_BFP_UNPACK` (R161): Unpack a block-floating-point resource block to ci16. -/
def execEyBfpUnpack (id : CoreId) (d : Fin 32) (a : Fin 32) (b : Fin 32) (w : Fin 4) (s : State) : Host.Outcome State Fault Refusal :=
  .next (runV id { fn := .eyUnpack, d := d.val, a := a.val, b := b.val, x := w.val } s)

/-- `EY_BFP_PACK` (R162): Pack 12 ci16 REs into a block-floating-point block. -/
def execEyBfpPack (id : CoreId) (d : Fin 32) (a : Fin 32) (b : Fin 32) (w : Fin 4) (s : State) : Host.Outcome State Fault Refusal :=
  .next (runV id { fn := .eyPack, d := d.val, a := a.val, b := b.val, x := w.val } s)

/-- `EY_SEQ_STEP` (R163): Advance the Gold sequence state by 64 and output 64 bits. -/
def execEySeqStep (id : CoreId) (d : Fin 32) (a : Fin 32) (s : State) : Host.Outcome State Fault Refusal :=
  .next (runV id { fn := .eySeqStep, d := d.val, a := a.val } s)

/-- `EY_SEQ_INIT` (R163): Initialise the Gold sequence from c_init and output the first bits. -/
def execEySeqInit (id : CoreId) (d : Fin 32) (a : Fin 32) (s : State) : Host.Outcome State Fault Refusal :=
  .next (runV id { fn := .eySeqInit, d := d.val, a := a.val } s)

/-- `EY_SEQ_SKIP` (R163): Advance the Gold sequence state by 64 times k. -/
def execEySeqSkip (id : CoreId) (d : Fin 32) (a : Fin 32) (b : Fin 32) (s : State) : Host.Outcome State Fault Refusal :=
  .next (runV id { fn := .eySeqSkip, d := d.val, a := a.val, b := b.val } s)

/-- `EY_CRC` (R165): Feed up to 64 message bits into a CRC remainder. -/
def execEyCrc (id : CoreId) (d : Fin 32) (a : Fin 32) (b : Fin 32) (gen : Fin 8) (order : Bool) (s : State) : Host.Outcome State Fault Refusal :=
  .next (runV id { fn := .eyCrc, d := d.val, a := a.val, b := b.val, x := gen.val + 8 * b2n order } s)

/-- `EY_DEMAP` (R167): Compute max-log LLRs for 16 REs. -/
def execEyDemap (id : CoreId) (d : Fin 32) (a : Fin 32) (b : Fin 32) (k : Fin 8) (modn : Fin 8) (s : State) : Host.Outcome State Fault Refusal :=
  .next (runV id { fn := .eyDemap, d := d.val, a := a.val, b := b.val, k := k.val, x := modn.val } s)

/-- `EY_PHASE` (R169): Rotate elements by a linear phase ramp.
DEDUCED, safe: log entry 20. -/
def execEyPhase (id : CoreId) (d : Fin 32) (a : Fin 32) (b : Fin 32) (k : Fin 8) (adv conj : Bool) (s : State) : Host.Outcome State Fault Refusal :=
  .next (runV id { fn := .eyPhase, d := d.val, a := a.val, b := b.val, k := k.val, x := b2n adv + 2 * b2n conj } s)

end Sys2Proof.Machine
end

