-- ==== Sys2Proof/Machine/AwlMemory.lean ====
section
/-! DEFINITION. The memory instructions of an Awl core, in M0 or M1 of a bundle of their own (R86–R90, R97, R136–R141). -/

namespace Sys2Proof.Machine

/-- A memory instruction in format M: INC with UPD 2, the immediate otherwise (R71). -/
def memForm (f : MFn) (r p upd k : Nat) (imm : BitVec 12) (inc : Nat) : MIns :=
  if upd = 2 then { fn := f, r := r, p := p, upd := upd, k := k, inc := inc } else { fn := f, r := r, p := p, upd := upd, k := k, imm := imm.toInt }

/-- `LDW` (R86): Load a word into a scalar register. -/
def execLdw (id : CoreId) (m1 : Bool) (r : Fin 32) (p : Fin 16) (upd : Fin 4) (imm : BitVec 12) (inc : Fin 32) (s : State) : Host.Outcome State Fault Refusal :=
  .next (runM id m1 (memForm .ldw r.val p.val upd.val 0 imm inc.val) s)

/-- `LDH` (R86): Load a sign-extended half-word. -/
def execLdh (id : CoreId) (m1 : Bool) (r : Fin 32) (p : Fin 16) (upd : Fin 4) (imm : BitVec 12) (inc : Fin 32) (s : State) : Host.Outcome State Fault Refusal :=
  .next (runM id m1 (memForm .ldh r.val p.val upd.val 0 imm inc.val) s)

/-- `LDHU` (R86): Load a zero-extended half-word. -/
def execLdhu (id : CoreId) (m1 : Bool) (r : Fin 32) (p : Fin 16) (upd : Fin 4) (imm : BitVec 12) (inc : Fin 32) (s : State) : Host.Outcome State Fault Refusal :=
  .next (runM id m1 (memForm .ldhu r.val p.val upd.val 0 imm inc.val) s)

/-- `LDB` (R86): Load a sign-extended byte. -/
def execLdb (id : CoreId) (m1 : Bool) (r : Fin 32) (p : Fin 16) (upd : Fin 4) (imm : BitVec 12) (inc : Fin 32) (s : State) : Host.Outcome State Fault Refusal :=
  .next (runM id m1 (memForm .ldb r.val p.val upd.val 0 imm inc.val) s)

/-- `LDBU` (R86): Load a zero-extended byte. -/
def execLdbu (id : CoreId) (m1 : Bool) (r : Fin 32) (p : Fin 16) (upd : Fin 4) (imm : BitVec 12) (inc : Fin 32) (s : State) : Host.Outcome State Fault Refusal :=
  .next (runM id m1 (memForm .ldbu r.val p.val upd.val 0 imm inc.val) s)

/-- `LDP` (R86): Load a pointer register. -/
def execLdp (id : CoreId) (m1 : Bool) (r : Fin 16) (p : Fin 16) (upd : Fin 4) (imm : BitVec 12) (inc : Fin 32) (s : State) : Host.Outcome State Fault Refusal :=
  .next (runM id m1 (memForm .ldp r.val p.val upd.val 0 imm inc.val) s)

/-- `STW` (R86): Store a word. -/
def execStw (id : CoreId) (m1 : Bool) (r : Fin 32) (p : Fin 16) (upd : Fin 4) (imm : BitVec 12) (inc : Fin 32) (s : State) : Host.Outcome State Fault Refusal :=
  .next (runM id m1 (memForm .stw r.val p.val upd.val 0 imm inc.val) s)

/-- `STH` (R86): Store a half-word. -/
def execSth (id : CoreId) (m1 : Bool) (r : Fin 32) (p : Fin 16) (upd : Fin 4) (imm : BitVec 12) (inc : Fin 32) (s : State) : Host.Outcome State Fault Refusal :=
  .next (runM id m1 (memForm .sth r.val p.val upd.val 0 imm inc.val) s)

/-- `STB` (R86): Store a byte. -/
def execStb (id : CoreId) (m1 : Bool) (r : Fin 32) (p : Fin 16) (upd : Fin 4) (imm : BitVec 12) (inc : Fin 32) (s : State) : Host.Outcome State Fault Refusal :=
  .next (runM id m1 (memForm .stb r.val p.val upd.val 0 imm inc.val) s)

/-- `STP` (R86): Store a pointer register. -/
def execStp (id : CoreId) (m1 : Bool) (r : Fin 16) (p : Fin 16) (upd : Fin 4) (imm : BitVec 12) (inc : Fin 32) (s : State) : Host.Outcome State Fault Refusal :=
  .next (runM id m1 (memForm .stp r.val p.val upd.val 0 imm inc.val) s)

/-- `LDV` (R86): Load the active words of a vector register. -/
def execLdv (id : CoreId) (m1 : Bool) (r : Fin 32) (p : Fin 16) (upd : Fin 4) (k : Fin 8) (imm : BitVec 12) (inc : Fin 32) (s : State) : Host.Outcome State Fault Refusal :=
  .next (runM id m1 (memForm .ldv r.val p.val upd.val k.val imm inc.val) s)

/-- `STV` (R86): Store the active words of a vector register. -/
def execStv (id : CoreId) (m1 : Bool) (r : Fin 32) (p : Fin 16) (upd : Fin 4) (k : Fin 8) (imm : BitVec 12) (inc : Fin 32) (s : State) : Host.Outcome State Fault Refusal :=
  .next (runM id m1 (memForm .stv r.val p.val upd.val k.val imm inc.val) s)

/-- `LDV_BC` (R86): Broadcast one loaded word to the active words of a vector register. -/
def execLdvBc (id : CoreId) (m1 : Bool) (r : Fin 32) (p : Fin 16) (upd : Fin 4) (k : Fin 8) (imm : BitVec 12) (inc : Fin 32) (s : State) : Host.Outcome State Fault Refusal :=
  .next (runM id m1 (memForm .ldvBc r.val p.val upd.val k.val imm inc.val) s)

/-- `LDA` (R97): Load a whole accumulator from memory. -/
def execLda (id : CoreId) (m1 : Bool) (r : Fin 8) (p : Fin 16) (upd : Fin 4) (imm : BitVec 12) (inc : Fin 32) (s : State) : Host.Outcome State Fault Refusal :=
  .next (runM id m1 (memForm .lda r.val p.val upd.val 0 imm inc.val) s)

/-- `STA` (R97): Store a whole accumulator to memory. -/
def execSta (id : CoreId) (m1 : Bool) (r : Fin 8) (p : Fin 16) (upd : Fin 4) (imm : BitVec 12) (inc : Fin 32) (s : State) : Host.Outcome State Fault Refusal :=
  .next (runM id m1 (memForm .sta r.val p.val upd.val 0 imm inc.val) s)

/-- `VGATHER` (R138): Element-precise indexed vector load. -/
def execVgather (id : CoreId) (m1 : Bool) (r : Fin 32) (p : Fin 16) (k : Fin 8) (x : Fin 32) (w : Fin 4) (s : State) : Host.Outcome State Fault Refusal :=
  .next (runM id m1 { fn := .vgather, r := r.val, p := p.val, k := k.val, x := x.val, w := w.val } s)

/-- `VSCATTER` (R138): Element-precise indexed vector store. -/
def execVscatter (id : CoreId) (m1 : Bool) (r : Fin 32) (p : Fin 16) (k : Fin 8) (x : Fin 32) (w : Fin 4) (s : State) : Host.Outcome State Fault Refusal :=
  .next (runM id m1 { fn := .vscatter, r := r.val, p := p.val, k := k.val, x := x.val, w := w.val } s)

/-- `VLDS` (R138): Element-precise strided vector load. -/
def execVlds (id : CoreId) (m1 : Bool) (r : Fin 32) (p : Fin 16) (k : Fin 8) (x : Fin 32) (w : Fin 4) (s : State) : Host.Outcome State Fault Refusal :=
  .next (runM id m1 { fn := .vlds, r := r.val, p := p.val, k := k.val, x := x.val, w := w.val } s)

/-- `VSTS` (R138): Element-precise strided vector store. -/
def execVsts (id : CoreId) (m1 : Bool) (r : Fin 32) (p : Fin 16) (k : Fin 8) (x : Fin 32) (w : Fin 4) (s : State) : Host.Outcome State Fault Refusal :=
  .next (runM id m1 { fn := .vsts, r := r.val, p := p.val, k := k.val, x := x.val, w := w.val } s)

end Sys2Proof.Machine
end

