-- ==== Sys2Proof/Machine/AwlScalar.lean ====
section
/-! DEFINITION. The scalar, pointer, branch, CSR, control and loop instructions of an Awl core, each issued as a bundle of its own at the
core's PC (R81, R99–R112, R115). -/

namespace Sys2Proof.Machine

/-- The loop instruction of a level from its fields; none where a register count has high bits set (R99). -/
def loopOf (lvl last cnt : Nat) (ci : Bool) (stg : Nat) (sp rb : Bool) : Option SIns :=
  if !ci ∧ 32 ≤ cnt then none
  else some { fn := .loop_, lvl := lvl, rb := rb, sp := sp, stg := stg, ci := ci, cnt := cnt, end_ := last, a := if ci then 0 else cnt }

/-- `ADD` (R115): Scalar add. -/
def execAdd (id : CoreId) (d a b : Fin 32) (s : State) : Host.Outcome State Fault Refusal :=
  .next (runS id (some { fn := .add, d := d.val, a := a.val, b := b.val }) s)

/-- `SUB` (R115): Scalar subtract. -/
def execSub (id : CoreId) (d a b : Fin 32) (s : State) : Host.Outcome State Fault Refusal :=
  .next (runS id (some { fn := .sub, d := d.val, a := a.val, b := b.val }) s)

/-- `AND` (R115): Scalar bitwise AND. -/
def execAnd (id : CoreId) (d a b : Fin 32) (s : State) : Host.Outcome State Fault Refusal :=
  .next (runS id (some { fn := .and_, d := d.val, a := a.val, b := b.val }) s)

/-- `OR` (R115): Scalar bitwise OR. -/
def execOr (id : CoreId) (d a b : Fin 32) (s : State) : Host.Outcome State Fault Refusal :=
  .next (runS id (some { fn := .or_, d := d.val, a := a.val, b := b.val }) s)

/-- `XOR` (R115): Scalar bitwise XOR. -/
def execXor (id : CoreId) (d a b : Fin 32) (s : State) : Host.Outcome State Fault Refusal :=
  .next (runS id (some { fn := .xor_, d := d.val, a := a.val, b := b.val }) s)

/-- `SLL` (R115): Scalar logical left shift by register. -/
def execSll (id : CoreId) (d a b : Fin 32) (s : State) : Host.Outcome State Fault Refusal :=
  .next (runS id (some { fn := .sll, d := d.val, a := a.val, b := b.val }) s)

/-- `SRL` (R115): Scalar logical right shift by register. -/
def execSrl (id : CoreId) (d a b : Fin 32) (s : State) : Host.Outcome State Fault Refusal :=
  .next (runS id (some { fn := .srl, d := d.val, a := a.val, b := b.val }) s)

/-- `SRA` (R115): Scalar arithmetic right shift by register. -/
def execSra (id : CoreId) (d a b : Fin 32) (s : State) : Host.Outcome State Fault Refusal :=
  .next (runS id (some { fn := .sra, d := d.val, a := a.val, b := b.val }) s)

/-- `SLT` (R115): Scalar signed set-less-than. -/
def execSlt (id : CoreId) (d a b : Fin 32) (s : State) : Host.Outcome State Fault Refusal :=
  .next (runS id (some { fn := .slt, d := d.val, a := a.val, b := b.val }) s)

/-- `SLTU` (R115): Scalar unsigned set-less-than. -/
def execSltu (id : CoreId) (d a b : Fin 32) (s : State) : Host.Outcome State Fault Refusal :=
  .next (runS id (some { fn := .sltu, d := d.val, a := a.val, b := b.val }) s)

/-- `MIN` (R115): Scalar signed minimum. -/
def execMin (id : CoreId) (d a b : Fin 32) (s : State) : Host.Outcome State Fault Refusal :=
  .next (runS id (some { fn := .min_, d := d.val, a := a.val, b := b.val }) s)

/-- `MAX` (R115): Scalar signed maximum. -/
def execMax (id : CoreId) (d a b : Fin 32) (s : State) : Host.Outcome State Fault Refusal :=
  .next (runS id (some { fn := .max_, d := d.val, a := a.val, b := b.val }) s)

/-- `MINU` (R115): Scalar unsigned minimum. -/
def execMinu (id : CoreId) (d a b : Fin 32) (s : State) : Host.Outcome State Fault Refusal :=
  .next (runS id (some { fn := .minu, d := d.val, a := a.val, b := b.val }) s)

/-- `MAXU` (R115): Scalar unsigned maximum. -/
def execMaxu (id : CoreId) (d a b : Fin 32) (s : State) : Host.Outcome State Fault Refusal :=
  .next (runS id (some { fn := .maxu, d := d.val, a := a.val, b := b.val }) s)

/-- `ADDS` (R115): Scalar saturating add. -/
def execAdds (id : CoreId) (d a b : Fin 32) (s : State) : Host.Outcome State Fault Refusal :=
  .next (runS id (some { fn := .adds, d := d.val, a := a.val, b := b.val }) s)

/-- `SUBS` (R115): Scalar saturating subtract. -/
def execSubs (id : CoreId) (d a b : Fin 32) (s : State) : Host.Outcome State Fault Refusal :=
  .next (runS id (some { fn := .subs, d := d.val, a := a.val, b := b.val }) s)

/-- `ABS` (R115): Scalar saturating absolute value. -/
def execAbs (id : CoreId) (d a : Fin 32) (s : State) : Host.Outcome State Fault Refusal :=
  .next (runS id (some { fn := .abs_, d := d.val, a := a.val }) s)

/-- `CLZ` (R115): Scalar count of leading zeros. -/
def execClz (id : CoreId) (d a : Fin 32) (s : State) : Host.Outcome State Fault Refusal :=
  .next (runS id (some { fn := .clz, d := d.val, a := a.val }) s)

/-- `CLS` (R115): Scalar count of redundant sign bits. -/
def execCls (id : CoreId) (d a : Fin 32) (s : State) : Host.Outcome State Fault Refusal :=
  .next (runS id (some { fn := .cls, d := d.val, a := a.val }) s)

/-- `MUL` (R115): Scalar multiply, low 32 bits. -/
def execMul (id : CoreId) (d a b : Fin 32) (s : State) : Host.Outcome State Fault Refusal :=
  .next (runS id (some { fn := .mul, d := d.val, a := a.val, b := b.val }) s)

/-- `MULH` (R115): Scalar signed multiply, high 32 bits. -/
def execMulh (id : CoreId) (d a b : Fin 32) (s : State) : Host.Outcome State Fault Refusal :=
  .next (runS id (some { fn := .mulh, d := d.val, a := a.val, b := b.val }) s)

/-- `MULHU` (R115): Scalar unsigned multiply, high 32 bits. -/
def execMulhu (id : CoreId) (d a b : Fin 32) (s : State) : Host.Outcome State Fault Refusal :=
  .next (runS id (some { fn := .mulhu, d := d.val, a := a.val, b := b.val }) s)

/-- `ADDI` (R115): Scalar add of a sign-extended immediate. -/
def execAddi (id : CoreId) (d a : Fin 32) (imm : W16) (s : State) : Host.Outcome State Fault Refusal :=
  .next (runS id (some { fn := .addi, d := d.val, a := a.val, imm := imm.toInt }) s)

/-- `ANDI` (R115): Scalar AND with a zero-extended immediate. -/
def execAndi (id : CoreId) (d a : Fin 32) (imm : W16) (s : State) : Host.Outcome State Fault Refusal :=
  .next (runS id (some { fn := .andi, d := d.val, a := a.val, imm := (imm.toNat : Int) }) s)

/-- `ORI` (R115): Scalar OR with a zero-extended immediate. -/
def execOri (id : CoreId) (d a : Fin 32) (imm : W16) (s : State) : Host.Outcome State Fault Refusal :=
  .next (runS id (some { fn := .ori, d := d.val, a := a.val, imm := (imm.toNat : Int) }) s)

/-- `XORI` (R115): Scalar XOR with a zero-extended immediate. -/
def execXori (id : CoreId) (d a : Fin 32) (imm : W16) (s : State) : Host.Outcome State Fault Refusal :=
  .next (runS id (some { fn := .xori, d := d.val, a := a.val, imm := (imm.toNat : Int) }) s)

/-- `SLLI` (R115): Scalar logical left shift by immediate. -/
def execSlli (id : CoreId) (d a : Fin 32) (sh : Fin 32) (s : State) : Host.Outcome State Fault Refusal :=
  .next (runS id (some { fn := .slli, d := d.val, a := a.val, imm := (sh.val : Int) }) s)

/-- `SRLI` (R115): Scalar logical right shift by immediate. -/
def execSrli (id : CoreId) (d a : Fin 32) (sh : Fin 32) (s : State) : Host.Outcome State Fault Refusal :=
  .next (runS id (some { fn := .srli, d := d.val, a := a.val, imm := (sh.val : Int) }) s)

/-- `SRAI` (R115): Scalar arithmetic right shift by immediate. -/
def execSrai (id : CoreId) (d a : Fin 32) (sh : Fin 32) (s : State) : Host.Outcome State Fault Refusal :=
  .next (runS id (some { fn := .srai, d := d.val, a := a.val, imm := (sh.val : Int) }) s)

/-- `RORI` (R115): Scalar rotate right by immediate. -/
def execRori (id : CoreId) (d a : Fin 32) (sh : Fin 32) (s : State) : Host.Outcome State Fault Refusal :=
  .next (runS id (some { fn := .rori, d := d.val, a := a.val, imm := (sh.val : Int) }) s)

/-- `SLTI` (R115): Scalar signed compare with an immediate. -/
def execSlti (id : CoreId) (d a : Fin 32) (imm : W16) (s : State) : Host.Outcome State Fault Refusal :=
  .next (runS id (some { fn := .slti, d := d.val, a := a.val, imm := imm.toInt }) s)

/-- `LUI` (R115): Load an immediate into the upper half of a scalar register. -/
def execLui (id : CoreId) (d : Fin 32) (imm : W16) (s : State) : Host.Outcome State Fault Refusal :=
  .next (runS id (some { fn := .lui, d := d.val, imm := (imm.toNat : Int) }) s)

/-- `PADD` (R115): Pointer plus scalar. -/
def execPadd (id : CoreId) (d a : Fin 16) (b : Fin 32) (s : State) : Host.Outcome State Fault Refusal :=
  .next (runS id (some { fn := .padd, d := d.val, a := a.val, b := b.val }) s)

/-- `PSUB` (R115): Pointer minus scalar. -/
def execPsub (id : CoreId) (d a : Fin 16) (b : Fin 32) (s : State) : Host.Outcome State Fault Refusal :=
  .next (runS id (some { fn := .psub, d := d.val, a := a.val, b := b.val }) s)

/-- `PMOV` (R115): Move a scalar into a pointer. -/
def execPmov (id : CoreId) (d : Fin 16) (a : Fin 32) (s : State) : Host.Outcome State Fault Refusal :=
  .next (runS id (some { fn := .pmov, d := d.val, a := a.val }) s)

/-- `SMOV` (R115): Move a pointer into a scalar. -/
def execSmov (id : CoreId) (d : Fin 32) (a : Fin 16) (s : State) : Host.Outcome State Fault Refusal :=
  .next (runS id (some { fn := .smov, d := d.val, a := a.val }) s)

/-- `PDIFF` (R115): Difference of two pointers into a scalar. -/
def execPdiff (id : CoreId) (d : Fin 32) (a b : Fin 16) (s : State) : Host.Outcome State Fault Refusal :=
  .next (runS id (some { fn := .pdiff, d := d.val, a := a.val, b := b.val }) s)

/-- `PADDI` (R115): Pointer plus a sign-extended immediate. -/
def execPaddi (id : CoreId) (d a : Fin 16) (imm : W16) (s : State) : Host.Outcome State Fault Refusal :=
  .next (runS id (some { fn := .paddi, d := d.val, a := a.val, imm := imm.toInt }) s)

/-- `BEQ` (R115): Branch if equal. -/
def execBeq (id : CoreId) (a b : Fin 32) (off : W16) (s : State) : Host.Outcome State Fault Refusal :=
  .next (runS id (some { fn := .beq, a := a.val, b := b.val, imm := off.toInt }) s)

/-- `BNE` (R115): Branch if not equal. -/
def execBne (id : CoreId) (a b : Fin 32) (off : W16) (s : State) : Host.Outcome State Fault Refusal :=
  .next (runS id (some { fn := .bne, a := a.val, b := b.val, imm := off.toInt }) s)

/-- `BLT` (R115): Branch if signed less than. -/
def execBlt (id : CoreId) (a b : Fin 32) (off : W16) (s : State) : Host.Outcome State Fault Refusal :=
  .next (runS id (some { fn := .blt, a := a.val, b := b.val, imm := off.toInt }) s)

/-- `BGE` (R115): Branch if signed greater or equal. -/
def execBge (id : CoreId) (a b : Fin 32) (off : W16) (s : State) : Host.Outcome State Fault Refusal :=
  .next (runS id (some { fn := .bge, a := a.val, b := b.val, imm := off.toInt }) s)

/-- `BLTU` (R115): Branch if unsigned less than. -/
def execBltu (id : CoreId) (a b : Fin 32) (off : W16) (s : State) : Host.Outcome State Fault Refusal :=
  .next (runS id (some { fn := .bltu, a := a.val, b := b.val, imm := off.toInt }) s)

/-- `BGEU` (R115): Branch if unsigned greater or equal. -/
def execBgeu (id : CoreId) (a b : Fin 32) (off : W16) (s : State) : Host.Outcome State Fault Refusal :=
  .next (runS id (some { fn := .bgeu, a := a.val, b := b.val, imm := off.toInt }) s)

/-- `BR` (R115): Unconditional branch. -/
def execBr (id : CoreId) (off : BitVec 26) (s : State) : Host.Outcome State Fault Refusal :=
  .next (runS id (some { fn := .br, imm := off.toInt }) s)

/-- `CALL` (R115): Branch that sets the link register s31. -/
def execCall (id : CoreId) (off : BitVec 26) (s : State) : Host.Outcome State Fault Refusal :=
  .next (runS id (some { fn := .call, imm := off.toInt }) s)

/-- `JR` (R115): Jump to the address held in a scalar register. -/
def execJr (id : CoreId) (a : Fin 32) (s : State) : Host.Outcome State Fault Refusal :=
  .next (runS id (some { fn := .jr, a := a.val }) s)

/-- `BKANY` (R115): Branch if any active predicate bit is set. -/
def execBkany (id : CoreId) (k : Fin 8) (off : W16) (s : State) : Host.Outcome State Fault Refusal :=
  .next (runS id (some { fn := .bkany, a := k.val, imm := off.toInt }) s)

/-- `BKNONE` (R115): Branch if no active predicate bit is set. -/
def execBknone (id : CoreId) (k : Fin 8) (off : W16) (s : State) : Host.Outcome State Fault Refusal :=
  .next (runS id (some { fn := .bknone, a := k.val, imm := off.toInt }) s)

/-- `CSRR` (R81): Read a CSR, subject to privilege checks. -/
def execCsrr (id : CoreId) (d : Fin 32) (csr : Fin 4096) (s : State) : Host.Outcome State Fault Refusal :=
  .next (runS id (some { fn := .csrr, d := d.val, imm := (csr.val : Int) }) s)

/-- `CSRW` (R81): Write a CSR, subject to privilege and encoding checks. -/
def execCsrw (id : CoreId) (a : Fin 32) (csr : Fin 4096) (s : State) : Host.Outcome State Fault Refusal :=
  .next (runS id (some { fn := .csrw, a := a.val, imm := (csr.val : Int) }) s)

/-- `CSRS` (R81): Set bits of a CSR. -/
def execCsrs (id : CoreId) (a : Fin 32) (csr : Fin 4096) (s : State) : Host.Outcome State Fault Refusal :=
  .next (runS id (some { fn := .csrs, a := a.val, imm := (csr.val : Int) }) s)

/-- `CSRC` (R81): Clear bits of a CSR. -/
def execCsrc (id : CoreId) (a : Fin 32) (csr : Fin 4096) (s : State) : Host.Outcome State Fault Refusal :=
  .next (runS id (some { fn := .csrc, a := a.val, imm := (csr.val : Int) }) s)

/-- `IRQ_HOLD` (R75): Open a hold region without interlocks or interrupts. -/
def execIrqHold (id : CoreId) (s : State) : Host.Outcome State Fault Refusal :=
  .next (runS id (some { fn := .irqHold }) s)

/-- `IRQ_RELEASE` (R75): Close a hold region. -/
def execIrqRelease (id : CoreId) (s : State) : Host.Outcome State Fault Refusal :=
  .next (runS id (some { fn := .irqRelease }) s)

/-- `WAITEV` (R111): Wait until an enabled interrupt is pending. -/
def execWaitev (id : CoreId) (s : State) : Host.Outcome State Fault Refusal :=
  .next (runS id (some { fn := .waitev }) s)

/-- `ERET` (R110): Return from a handler, restoring state from ESTATUS. -/
def execEret (id : CoreId) (s : State) : Host.Outcome State Fault Refusal :=
  .next (runS id (some { fn := .eret }) s)

/-- `TRAP` (R105): Raise the TRAP exception with a code in BADADDR. -/
def execTrap (id : CoreId) (code : Fin 4096) (s : State) : Host.Outcome State Fault Refusal :=
  .next (runS id (some { fn := .trap, imm := (code.val : Int) }) s)

/-- `BRK` (R115): Halt under an attached debugger, or raise BREAK. -/
def execBrk (id : CoreId) (s : State) : Host.Outcome State Fault Refusal :=
  .next (runS id (some { fn := .brk }) s)

/-- `FENCE` (R112): Wait until all of the core's stores are visible. -/
def execFence (id : CoreId) (s : State) : Host.Outcome State Fault Refusal :=
  .next (runS id (some { fn := .fence }) s)

/-- `TDONE` (R112): Complete the current task with a status once its stores are visible. -/
def execTdone (id : CoreId) (a : Fin 32) (s : State) : Host.Outcome State Fault Refusal :=
  .next (runS id (some { fn := .tdone, a := a.val }) s)

/-- `LEXIT0` (R102): Deactivate loop level 0. -/
def execLexit0 (id : CoreId) (s : State) : Host.Outcome State Fault Refusal :=
  .next (runS id (some { fn := .lexit, lvl := 0 }) s)

/-- `LEXIT1` (R102): Deactivate loop level 1. -/
def execLexit1 (id : CoreId) (s : State) : Host.Outcome State Fault Refusal :=
  .next (runS id (some { fn := .lexit, lvl := 1 }) s)

/-- `LOOP0` (R99): Open a level-0 hardware loop, with optional stages and rotation. -/
def execLoop0 (id : CoreId) (last : Fin 1024) (cnt : Fin 256) (ci : Bool) (stg : Fin 16) (sp rb : Bool) (s : State) : Host.Outcome State Fault Refusal :=
  .next (runS id (loopOf 0 last.val cnt.val ci stg.val sp rb) s)

/-- `LOOP1` (R99): Open a level-1 hardware loop. -/
def execLoop1 (id : CoreId) (last : Fin 1024) (cnt : Fin 256) (ci : Bool) (stg : Fin 16) (sp rb : Bool) (s : State) : Host.Outcome State Fault Refusal :=
  .next (runS id (loopOf 1 last.val cnt.val ci stg.val sp rb) s)

end Sys2Proof.Machine
end

