-- ==== Sys2Proof/Machine/AwlVector.lean ====
section
/-! DEFINITION. The V-slot instructions of an Awl core, each issued as a bundle of its own at the core's PC (R92–R98, R117, R127–R134). -/

namespace Sys2Proof.Machine


/-- `CMAC` (R92): Complex multiply-accumulate. -/
def execCmac (id : CoreId) (d : Fin 8) (a : Fin 32) (b : Fin 32) (k : Fin 8) (z : Bool) (s : State) : Host.Outcome State Fault Refusal :=
  .next (runV id { fn := .cmac, d := d.val, a := a.val, b := b.val, k := k.val, x := b2n z } s)

/-- `CMACJ` (R92): Complex multiply-accumulate with the conjugate of b. -/
def execCmacj (id : CoreId) (d : Fin 8) (a : Fin 32) (b : Fin 32) (k : Fin 8) (z : Bool) (s : State) : Host.Outcome State Fault Refusal :=
  .next (runV id { fn := .cmacj, d := d.val, a := a.val, b := b.val, k := k.val, x := b2n z } s)

/-- `CMSC` (R92): Complex multiply-subtract. -/
def execCmsc (id : CoreId) (d : Fin 8) (a : Fin 32) (b : Fin 32) (k : Fin 8) (z : Bool) (s : State) : Host.Outcome State Fault Refusal :=
  .next (runV id { fn := .cmsc, d := d.val, a := a.val, b := b.val, k := k.val, x := b2n z } s)

/-- `CMSCJ` (R92): Complex multiply-subtract with the conjugate of b. -/
def execCmscj (id : CoreId) (d : Fin 8) (a : Fin 32) (b : Fin 32) (k : Fin 8) (z : Bool) (s : State) : Host.Outcome State Fault Refusal :=
  .next (runV id { fn := .cmscj, d := d.val, a := a.val, b := b.val, k := k.val, x := b2n z } s)

/-- `CSQ` (R92): Accumulate squared magnitude. -/
def execCsq (id : CoreId) (d : Fin 8) (a : Fin 32) (k : Fin 8) (z : Bool) (s : State) : Host.Outcome State Fault Refusal :=
  .next (runV id { fn := .csq, d := d.val, a := a.val, k := k.val, x := b2n z } s)

/-- `RMAC16` (R92): Real int16 multiply-accumulate. -/
def execRmac16 (id : CoreId) (d : Fin 8) (a : Fin 32) (b : Fin 32) (k : Fin 8) (z : Bool) (s : State) : Host.Outcome State Fault Refusal :=
  .next (runV id { fn := .rmac16, d := d.val, a := a.val, b := b.val, k := k.val, x := b2n z } s)

/-- `RMAC8` (R92): Real int8 pairwise multiply-accumulate. -/
def execRmac8 (id : CoreId) (d : Fin 8) (a : Fin 32) (b : Fin 32) (k : Fin 8) (z : Bool) (s : State) : Host.Outcome State Fault Refusal :=
  .next (runV id { fn := .rmac8, d := d.val, a := a.val, b := b.val, k := k.val, x := b2n z } s)

/-- `CMUL` (R95): Complex multiply into a vector, rounded and saturated. -/
def execCmul (id : CoreId) (d : Fin 32) (a : Fin 32) (b : Fin 32) (k : Fin 8) (s : State) : Host.Outcome State Fault Refusal :=
  .next (runV id { fn := .cmul, d := d.val, a := a.val, b := b.val, k := k.val } s)

/-- `CMULJ` (R95): Complex multiply by the conjugate of b. -/
def execCmulj (id : CoreId) (d : Fin 32) (a : Fin 32) (b : Fin 32) (k : Fin 8) (s : State) : Host.Outcome State Fault Refusal :=
  .next (runV id { fn := .cmulj, d := d.val, a := a.val, b := b.val, k := k.val } s)

/-- `CROTJ` (R95): Rotate by +j. -/
def execCrotj (id : CoreId) (d : Fin 32) (a : Fin 32) (k : Fin 8) (s : State) : Host.Outcome State Fault Refusal :=
  .next (runV id { fn := .crotj, d := d.val, a := a.val, k := k.val } s)

/-- `CROTNJ` (R95): Rotate by -j. -/
def execCrotnj (id : CoreId) (d : Fin 32) (a : Fin 32) (k : Fin 8) (s : State) : Host.Outcome State Fault Refusal :=
  .next (runV id { fn := .crotnj, d := d.val, a := a.val, k := k.val } s)

/-- `RMUL16` (R95): Real int16 multiply. -/
def execRmul16 (id : CoreId) (d : Fin 32) (a : Fin 32) (b : Fin 32) (k : Fin 8) (s : State) : Host.Outcome State Fault Refusal :=
  .next (runV id { fn := .rmul16, d := d.val, a := a.val, b := b.val, k := k.val } s)

/-- `ACCX` (R96): Extract an accumulator to 16 ci16 elements. -/
def execAccx (id : CoreId) (d : Fin 32) (a : Fin 8) (b : Fin 32) (k : Fin 8) (sr rt : Bool) (sh : Fin 64) (s : State) : Host.Outcome State Fault Refusal :=
  .next (runV id { fn := .accx, d := d.val, a := a.val, b := b.val, k := k.val, x := 128 * b2n sr + 64 * b2n rt + sh.val } s)

/-- `ACCX_WL` (R96): Extract accumulator lanes 0-7 as ci32 elements. -/
def execAccxWl (id : CoreId) (d : Fin 32) (a : Fin 8) (b : Fin 32) (k : Fin 8) (sr rt : Bool) (sh : Fin 64) (s : State) : Host.Outcome State Fault Refusal :=
  .next (runV id { fn := .accxWl, d := d.val, a := a.val, b := b.val, k := k.val, x := 128 * b2n sr + 64 * b2n rt + sh.val } s)

/-- `ACCX_WH` (R96): Extract accumulator lanes 8-15 as ci32 elements. -/
def execAccxWh (id : CoreId) (d : Fin 32) (a : Fin 8) (b : Fin 32) (k : Fin 8) (sr rt : Bool) (sh : Fin 64) (s : State) : Host.Outcome State Fault Refusal :=
  .next (runV id { fn := .accxWh, d := d.val, a := a.val, b := b.val, k := k.val, x := 128 * b2n sr + 64 * b2n rt + sh.val } s)

/-- `ACCZ` (R97): Zero the active accumulator lanes. -/
def execAccz (id : CoreId) (d : Fin 8) (k : Fin 8) (s : State) : Host.Outcome State Fault Refusal :=
  .next (runV id { fn := .accz, d := d.val, k := k.val } s)

/-- `ACCMV` (R97): Copy one accumulator to another. -/
def execAccmv (id : CoreId) (d : Fin 8) (a : Fin 8) (s : State) : Host.Outcome State Fault Refusal :=
  .next (runV id { fn := .accmv, d := d.val, a := a.val } s)

/-- `NORM` (R98): Per-lane count of redundant sign bits. -/
def execNorm (id : CoreId) (d : Fin 32) (a : Fin 32) (k : Fin 8) (s : State) : Host.Outcome State Fault Refusal :=
  .next (runV id { fn := .norm, d := d.val, a := a.val, k := k.val } s)

/-- `EXPB` (R98): Block exponent, the minimum NORM over the active lanes. -/
def execExpb (id : CoreId) (d : Fin 32) (a : Fin 32) (k : Fin 8) (s : State) : Host.Outcome State Fault Refusal :=
  .next (runV id { fn := .expb, d := d.val, a := a.val, k := k.val } s)

/-- `SHL_B` (R98): Block shift by a scalar amount. -/
def execShlB (id : CoreId) (d : Fin 32) (a : Fin 32) (b : Fin 32) (k : Fin 8) (s : State) : Host.Outcome State Fault Refusal :=
  .next (runV id { fn := .shlB, d := d.val, a := a.val, b := b.val, k := k.val } s)

/-- `SHL_BI` (R98): Block shift by an immediate amount. -/
def execShlBi (id : CoreId) (d : Fin 32) (a : Fin 32) (b : Fin 32) (k : Fin 8) (s : State) : Host.Outcome State Fault Refusal :=
  .next (runV id { fn := .shlBi, d := d.val, a := a.val, b := b.val, k := k.val } s)

/-- `SETVL` (R117): Set the vector length and return the granted element count. -/
def execSetvl (id : CoreId) (d : Fin 32) (a : Fin 32) (et : Fin 8) (s : State) : Host.Outcome State Fault Refusal :=
  .next (runV id { fn := .setvl, d := d.val, a := a.val, et := et.val } s)

/-- `VADD` (R127): Vector add. -/
def execVadd (id : CoreId) (d : Fin 32) (a : Fin 32) (b : Fin 32) (k : Fin 8) (et : Fin 8) (s : State) : Host.Outcome State Fault Refusal :=
  .next (runV id { fn := .vadd, d := d.val, a := a.val, b := b.val, k := k.val, et := et.val } s)

/-- `VSUB` (R127): Vector subtract. -/
def execVsub (id : CoreId) (d : Fin 32) (a : Fin 32) (b : Fin 32) (k : Fin 8) (et : Fin 8) (s : State) : Host.Outcome State Fault Refusal :=
  .next (runV id { fn := .vsub, d := d.val, a := a.val, b := b.val, k := k.val, et := et.val } s)

/-- `VADDS` (R127): Vector saturating add. -/
def execVadds (id : CoreId) (d : Fin 32) (a : Fin 32) (b : Fin 32) (k : Fin 8) (et : Fin 8) (s : State) : Host.Outcome State Fault Refusal :=
  .next (runV id { fn := .vadds, d := d.val, a := a.val, b := b.val, k := k.val, et := et.val } s)

/-- `VSUBS` (R127): Vector saturating subtract. -/
def execVsubs (id : CoreId) (d : Fin 32) (a : Fin 32) (b : Fin 32) (k : Fin 8) (et : Fin 8) (s : State) : Host.Outcome State Fault Refusal :=
  .next (runV id { fn := .vsubs, d := d.val, a := a.val, b := b.val, k := k.val, et := et.val } s)

/-- `VNEG` (R127): Vector saturating negate. -/
def execVneg (id : CoreId) (d : Fin 32) (a : Fin 32) (k : Fin 8) (et : Fin 8) (s : State) : Host.Outcome State Fault Refusal :=
  .next (runV id { fn := .vneg, d := d.val, a := a.val, k := k.val, et := et.val } s)

/-- `VABS` (R127): Vector saturating absolute value. -/
def execVabs (id : CoreId) (d : Fin 32) (a : Fin 32) (k : Fin 8) (et : Fin 8) (s : State) : Host.Outcome State Fault Refusal :=
  .next (runV id { fn := .vabs, d := d.val, a := a.val, k := k.val, et := et.val } s)

/-- `VMIN` (R127): Vector signed minimum. -/
def execVmin (id : CoreId) (d : Fin 32) (a : Fin 32) (b : Fin 32) (k : Fin 8) (et : Fin 8) (s : State) : Host.Outcome State Fault Refusal :=
  .next (runV id { fn := .vmin, d := d.val, a := a.val, b := b.val, k := k.val, et := et.val } s)

/-- `VMAX` (R127): Vector signed maximum. -/
def execVmax (id : CoreId) (d : Fin 32) (a : Fin 32) (b : Fin 32) (k : Fin 8) (et : Fin 8) (s : State) : Host.Outcome State Fault Refusal :=
  .next (runV id { fn := .vmax, d := d.val, a := a.val, b := b.val, k := k.val, et := et.val } s)

/-- `VAVG` (R127): Vector rounded average. -/
def execVavg (id : CoreId) (d : Fin 32) (a : Fin 32) (b : Fin 32) (k : Fin 8) (et : Fin 8) (s : State) : Host.Outcome State Fault Refusal :=
  .next (runV id { fn := .vavg, d := d.val, a := a.val, b := b.val, k := k.val, et := et.val } s)

/-- `VMUL` (R127): Vector multiply, low bits. -/
def execVmul (id : CoreId) (d : Fin 32) (a : Fin 32) (b : Fin 32) (k : Fin 8) (et : Fin 8) (s : State) : Host.Outcome State Fault Refusal :=
  .next (runV id { fn := .vmul, d := d.val, a := a.val, b := b.val, k := k.val, et := et.val } s)

/-- `VMOV` (R127): Vector move. -/
def execVmov (id : CoreId) (d : Fin 32) (a : Fin 32) (k : Fin 8) (et : Fin 8) (s : State) : Host.Outcome State Fault Refusal :=
  .next (runV id { fn := .vmov, d := d.val, a := a.val, k := k.val, et := et.val } s)

/-- `VAND` (R127): Vector AND. -/
def execVand (id : CoreId) (d : Fin 32) (a : Fin 32) (b : Fin 32) (k : Fin 8) (et : Fin 8) (s : State) : Host.Outcome State Fault Refusal :=
  .next (runV id { fn := .vand, d := d.val, a := a.val, b := b.val, k := k.val, et := et.val } s)

/-- `VOR` (R127): Vector OR. -/
def execVor (id : CoreId) (d : Fin 32) (a : Fin 32) (b : Fin 32) (k : Fin 8) (et : Fin 8) (s : State) : Host.Outcome State Fault Refusal :=
  .next (runV id { fn := .vor, d := d.val, a := a.val, b := b.val, k := k.val, et := et.val } s)

/-- `VXOR` (R127): Vector XOR. -/
def execVxor (id : CoreId) (d : Fin 32) (a : Fin 32) (b : Fin 32) (k : Fin 8) (et : Fin 8) (s : State) : Host.Outcome State Fault Refusal :=
  .next (runV id { fn := .vxor, d := d.val, a := a.val, b := b.val, k := k.val, et := et.val } s)

/-- `VANDN` (R127): Vector AND NOT. -/
def execVandn (id : CoreId) (d : Fin 32) (a : Fin 32) (b : Fin 32) (k : Fin 8) (et : Fin 8) (s : State) : Host.Outcome State Fault Refusal :=
  .next (runV id { fn := .vandn, d := d.val, a := a.val, b := b.val, k := k.val, et := et.val } s)

/-- `VNOT` (R127): Vector NOT. -/
def execVnot (id : CoreId) (d : Fin 32) (a : Fin 32) (k : Fin 8) (et : Fin 8) (s : State) : Host.Outcome State Fault Refusal :=
  .next (runV id { fn := .vnot, d := d.val, a := a.val, k := k.val, et := et.val } s)

/-- `VSLL` (R127): Vector logical left shift by element. -/
def execVsll (id : CoreId) (d : Fin 32) (a : Fin 32) (b : Fin 32) (k : Fin 8) (et : Fin 8) (s : State) : Host.Outcome State Fault Refusal :=
  .next (runV id { fn := .vsll, d := d.val, a := a.val, b := b.val, k := k.val, et := et.val } s)

/-- `VSRL` (R127): Vector logical right shift by element. -/
def execVsrl (id : CoreId) (d : Fin 32) (a : Fin 32) (b : Fin 32) (k : Fin 8) (et : Fin 8) (s : State) : Host.Outcome State Fault Refusal :=
  .next (runV id { fn := .vsrl, d := d.val, a := a.val, b := b.val, k := k.val, et := et.val } s)

/-- `VSRA` (R127): Vector arithmetic right shift by element. -/
def execVsra (id : CoreId) (d : Fin 32) (a : Fin 32) (b : Fin 32) (k : Fin 8) (et : Fin 8) (s : State) : Host.Outcome State Fault Refusal :=
  .next (runV id { fn := .vsra, d := d.val, a := a.val, b := b.val, k := k.val, et := et.val } s)

/-- `VSLLI` (R127): Vector logical left shift by immediate. -/
def execVslli (id : CoreId) (d : Fin 32) (a : Fin 32) (b : Fin 32) (k : Fin 8) (et : Fin 8) (s : State) : Host.Outcome State Fault Refusal :=
  .next (runV id { fn := .vslli, d := d.val, a := a.val, b := b.val, k := k.val, et := et.val } s)

/-- `VSRLI` (R127): Vector logical right shift by immediate. -/
def execVsrli (id : CoreId) (d : Fin 32) (a : Fin 32) (b : Fin 32) (k : Fin 8) (et : Fin 8) (s : State) : Host.Outcome State Fault Refusal :=
  .next (runV id { fn := .vsrli, d := d.val, a := a.val, b := b.val, k := k.val, et := et.val } s)

/-- `VSRAI` (R127): Vector arithmetic right shift by immediate. -/
def execVsrai (id : CoreId) (d : Fin 32) (a : Fin 32) (b : Fin 32) (k : Fin 8) (et : Fin 8) (s : State) : Host.Outcome State Fault Refusal :=
  .next (runV id { fn := .vsrai, d := d.val, a := a.val, b := b.val, k := k.val, et := et.val } s)

/-- `VSRAR` (R127): Vector rounded arithmetic right shift by immediate. -/
def execVsrar (id : CoreId) (d : Fin 32) (a : Fin 32) (b : Fin 32) (k : Fin 8) (et : Fin 8) (s : State) : Host.Outcome State Fault Refusal :=
  .next (runV id { fn := .vsrar, d := d.val, a := a.val, b := b.val, k := k.val, et := et.val } s)

/-- `VCEQ` (R128): Compare equal into a predicate. -/
def execVceq (id : CoreId) (d : Fin 8) (a : Fin 32) (b : Fin 32) (k : Fin 8) (et : Fin 8) (s : State) : Host.Outcome State Fault Refusal :=
  .next (runV id { fn := .vceq, d := d.val, a := a.val, b := b.val, k := k.val, et := et.val } s)

/-- `VCNE` (R128): Compare not equal into a predicate. -/
def execVcne (id : CoreId) (d : Fin 8) (a : Fin 32) (b : Fin 32) (k : Fin 8) (et : Fin 8) (s : State) : Host.Outcome State Fault Refusal :=
  .next (runV id { fn := .vcne, d := d.val, a := a.val, b := b.val, k := k.val, et := et.val } s)

/-- `VCLT` (R128): Compare signed or floating less than. -/
def execVclt (id : CoreId) (d : Fin 8) (a : Fin 32) (b : Fin 32) (k : Fin 8) (et : Fin 8) (s : State) : Host.Outcome State Fault Refusal :=
  .next (runV id { fn := .vclt, d := d.val, a := a.val, b := b.val, k := k.val, et := et.val } s)

/-- `VCLE` (R128): Compare signed or floating less or equal. -/
def execVcle (id : CoreId) (d : Fin 8) (a : Fin 32) (b : Fin 32) (k : Fin 8) (et : Fin 8) (s : State) : Host.Outcome State Fault Refusal :=
  .next (runV id { fn := .vcle, d := d.val, a := a.val, b := b.val, k := k.val, et := et.val } s)

/-- `VCLTU` (R128): Compare unsigned less than. -/
def execVcltu (id : CoreId) (d : Fin 8) (a : Fin 32) (b : Fin 32) (k : Fin 8) (et : Fin 8) (s : State) : Host.Outcome State Fault Refusal :=
  .next (runV id { fn := .vcltu, d := d.val, a := a.val, b := b.val, k := k.val, et := et.val } s)

/-- `VCLEU` (R128): Compare unsigned less or equal. -/
def execVcleu (id : CoreId) (d : Fin 8) (a : Fin 32) (b : Fin 32) (k : Fin 8) (et : Fin 8) (s : State) : Host.Outcome State Fault Refusal :=
  .next (runV id { fn := .vcleu, d := d.val, a := a.val, b := b.val, k := k.val, et := et.val } s)

/-- `VCONJ` (R129): Complex conjugate. -/
def execVconj (id : CoreId) (d : Fin 32) (a : Fin 32) (k : Fin 8) (et : Fin 8) (s : State) : Host.Outcome State Fault Refusal :=
  .next (runV id { fn := .vconj, d := d.val, a := a.val, k := k.val, et := et.val } s)

/-- `VCSWAP` (R129): Swap real and imaginary parts. -/
def execVcswap (id : CoreId) (d : Fin 32) (a : Fin 32) (k : Fin 8) (et : Fin 8) (s : State) : Host.Outcome State Fault Refusal :=
  .next (runV id { fn := .vcswap, d := d.val, a := a.val, k := k.val, et := et.val } s)

/-- `VCMAG2` (R129): Complex squared magnitude. -/
def execVcmag2 (id : CoreId) (d : Fin 32) (a : Fin 32) (k : Fin 8) (s : State) : Host.Outcome State Fault Refusal :=
  .next (runV id { fn := .vcmag2, d := d.val, a := a.val, k := k.val, et := 4 } s)

/-- `VWIDL` (R129): Widen the lower half of the elements. -/
def execVwidl (id : CoreId) (d : Fin 32) (a : Fin 32) (k : Fin 8) (et : Fin 8) (s : State) : Host.Outcome State Fault Refusal :=
  .next (runV id { fn := .vwidl, d := d.val, a := a.val, k := k.val, et := et.val } s)

/-- `VWIDH` (R129): Widen the upper half of the elements. -/
def execVwidh (id : CoreId) (d : Fin 32) (a : Fin 32) (k : Fin 8) (et : Fin 8) (s : State) : Host.Outcome State Fault Refusal :=
  .next (runV id { fn := .vwidh, d := d.val, a := a.val, k := k.val, et := et.val } s)

/-- `VNARR` (R129): Narrow with saturation. -/
def execVnarr (id : CoreId) (d : Fin 32) (a : Fin 32) (b : Fin 32) (k : Fin 8) (et : Fin 8) (s : State) : Host.Outcome State Fault Refusal :=
  .next (runV id { fn := .vnarr, d := d.val, a := a.val, b := b.val, k := k.val, et := et.val } s)

/-- `VFADD` (R130): Floating add. -/
def execVfadd (id : CoreId) (d : Fin 32) (a : Fin 32) (b : Fin 32) (k : Fin 8) (et : Fin 8) (s : State) : Host.Outcome State Fault Refusal :=
  .next (runV id { fn := .vfadd, d := d.val, a := a.val, b := b.val, k := k.val, et := et.val } s)

/-- `VFSUB` (R130): Floating subtract. -/
def execVfsub (id : CoreId) (d : Fin 32) (a : Fin 32) (b : Fin 32) (k : Fin 8) (et : Fin 8) (s : State) : Host.Outcome State Fault Refusal :=
  .next (runV id { fn := .vfsub, d := d.val, a := a.val, b := b.val, k := k.val, et := et.val } s)

/-- `VFMUL` (R130): fp32 multiply. -/
def execVfmul (id : CoreId) (d : Fin 32) (a : Fin 32) (b : Fin 32) (k : Fin 8) (s : State) : Host.Outcome State Fault Refusal :=
  .next (runV id { fn := .vfmul, d := d.val, a := a.val, b := b.val, k := k.val, et := 6 } s)

/-- `VFCMUL` (R130): cfp16 complex multiply. -/
def execVfcmul (id : CoreId) (d : Fin 32) (a : Fin 32) (b : Fin 32) (k : Fin 8) (s : State) : Host.Outcome State Fault Refusal :=
  .next (runV id { fn := .vfcmul, d := d.val, a := a.val, b := b.val, k := k.val, et := 7 } s)

/-- `VFMA` (R130): fp32 fused multiply-add. -/
def execVfma (id : CoreId) (d : Fin 32) (a : Fin 32) (b : Fin 32) (k : Fin 8) (s : State) : Host.Outcome State Fault Refusal :=
  .next (runV id { fn := .vfma, d := d.val, a := a.val, b := b.val, k := k.val, et := 6 } s)

/-- `VFCMA` (R130): cfp16 complex multiply-add. -/
def execVfcma (id : CoreId) (d : Fin 32) (a : Fin 32) (b : Fin 32) (k : Fin 8) (s : State) : Host.Outcome State Fault Refusal :=
  .next (runV id { fn := .vfcma, d := d.val, a := a.val, b := b.val, k := k.val, et := 7 } s)

/-- `VFMS` (R130): fp32 fused multiply-subtract. -/
def execVfms (id : CoreId) (d : Fin 32) (a : Fin 32) (b : Fin 32) (k : Fin 8) (s : State) : Host.Outcome State Fault Refusal :=
  .next (runV id { fn := .vfms, d := d.val, a := a.val, b := b.val, k := k.val, et := 6 } s)

/-- `VFCMS` (R130): cfp16 complex multiply-subtract. -/
def execVfcms (id : CoreId) (d : Fin 32) (a : Fin 32) (b : Fin 32) (k : Fin 8) (s : State) : Host.Outcome State Fault Refusal :=
  .next (runV id { fn := .vfcms, d := d.val, a := a.val, b := b.val, k := k.val, et := 7 } s)

/-- `VFMIN` (R130): fp32 minimum. -/
def execVfmin (id : CoreId) (d : Fin 32) (a : Fin 32) (b : Fin 32) (k : Fin 8) (s : State) : Host.Outcome State Fault Refusal :=
  .next (runV id { fn := .vfmin, d := d.val, a := a.val, b := b.val, k := k.val, et := 6 } s)

/-- `VFCMULJ` (R130): cfp16 multiply by the conjugate of b. -/
def execVfcmulj (id : CoreId) (d : Fin 32) (a : Fin 32) (b : Fin 32) (k : Fin 8) (s : State) : Host.Outcome State Fault Refusal :=
  .next (runV id { fn := .vfcmulj, d := d.val, a := a.val, b := b.val, k := k.val, et := 7 } s)

/-- `VFMAX` (R130): fp32 maximum. -/
def execVfmax (id : CoreId) (d : Fin 32) (a : Fin 32) (b : Fin 32) (k : Fin 8) (s : State) : Host.Outcome State Fault Refusal :=
  .next (runV id { fn := .vfmax, d := d.val, a := a.val, b := b.val, k := k.val, et := 6 } s)

/-- `VFCMAJ` (R130): cfp16 multiply-add with the conjugate of b. -/
def execVfcmaj (id : CoreId) (d : Fin 32) (a : Fin 32) (b : Fin 32) (k : Fin 8) (s : State) : Host.Outcome State Fault Refusal :=
  .next (runV id { fn := .vfcmaj, d := d.val, a := a.val, b := b.val, k := k.val, et := 7 } s)

/-- `VFABS` (R130): fp32 absolute value. -/
def execVfabs (id : CoreId) (d : Fin 32) (a : Fin 32) (k : Fin 8) (s : State) : Host.Outcome State Fault Refusal :=
  .next (runV id { fn := .vfabs, d := d.val, a := a.val, k := k.val, et := 6 } s)

/-- `VFNEG` (R130): Floating negate. -/
def execVfneg (id : CoreId) (d : Fin 32) (a : Fin 32) (k : Fin 8) (et : Fin 8) (s : State) : Host.Outcome State Fault Refusal :=
  .next (runV id { fn := .vfneg, d := d.val, a := a.val, k := k.val, et := et.val } s)

/-- `VFRCP` (R130): fp32 reciprocal estimate. -/
def execVfrcp (id : CoreId) (d : Fin 32) (a : Fin 32) (k : Fin 8) (s : State) : Host.Outcome State Fault Refusal :=
  .next (runV id { fn := .vfrcp, d := d.val, a := a.val, k := k.val, et := 6 } s)

/-- `VFRSQ` (R130): fp32 reciprocal square-root estimate. -/
def execVfrsq (id : CoreId) (d : Fin 32) (a : Fin 32) (k : Fin 8) (s : State) : Host.Outcome State Fault Refusal :=
  .next (runV id { fn := .vfrsq, d := d.val, a := a.val, k := k.val, et := 6 } s)

/-- `VCVT_F32_I32` (R131): Convert int32 to fp32. -/
def execVcvtF32I32 (id : CoreId) (d : Fin 32) (a : Fin 32) (k : Fin 8) (s : State) : Host.Outcome State Fault Refusal :=
  .next (runV id { fn := .cvtF32I32, d := d.val, a := a.val, k := k.val, et := 2 } s)

/-- `VCVT_I32_F32` (R131): Convert fp32 to int32 with saturation. -/
def execVcvtI32F32 (id : CoreId) (d : Fin 32) (a : Fin 32) (k : Fin 8) (s : State) : Host.Outcome State Fault Refusal :=
  .next (runV id { fn := .cvtI32F32, d := d.val, a := a.val, k := k.val, et := 6 } s)

/-- `VCVT_CF16_CI16` (R131): Convert ci16 to scaled cfp16. -/
def execVcvtCf16Ci16 (id : CoreId) (d : Fin 32) (a : Fin 32) (b : Fin 32) (k : Fin 8) (s : State) : Host.Outcome State Fault Refusal :=
  .next (runV id { fn := .cvtCf16Ci16, d := d.val, a := a.val, b := b.val, k := k.val, et := 4 } s)

/-- `VCVT_CI16_CF16` (R131): Convert cfp16 to scaled ci16. -/
def execVcvtCi16Cf16 (id : CoreId) (d : Fin 32) (a : Fin 32) (b : Fin 32) (k : Fin 8) (s : State) : Host.Outcome State Fault Refusal :=
  .next (runV id { fn := .cvtCi16Cf16, d := d.val, a := a.val, b := b.val, k := k.val, et := 7 } s)

/-- `VCVT_F32L` (R131): Convert complex elements 0-7 to fp32 pairs. -/
def execVcvtF32l (id : CoreId) (d : Fin 32) (a : Fin 32) (k : Fin 8) (s : State) : Host.Outcome State Fault Refusal :=
  .next (runV id { fn := .cvtF32l, d := d.val, a := a.val, k := k.val, et := 7 } s)

/-- `VCVT_F32H` (R131): Convert complex elements 8-15 to fp32 pairs. -/
def execVcvtF32h (id : CoreId) (d : Fin 32) (a : Fin 32) (k : Fin 8) (s : State) : Host.Outcome State Fault Refusal :=
  .next (runV id { fn := .cvtF32h, d := d.val, a := a.val, k := k.val, et := 7 } s)

/-- `VCVT_CF16_F32` (R131): Convert fp32 pairs to cfp16. -/
def execVcvtCf16F32 (id : CoreId) (d : Fin 32) (a : Fin 32) (b : Fin 32) (k : Fin 8) (s : State) : Host.Outcome State Fault Refusal :=
  .next (runV id { fn := .cvtCf16F32, d := d.val, a := a.val, b := b.val, k := k.val, et := 6 } s)

/-- `VPERM` (R132): Indexed permute. -/
def execVperm (id : CoreId) (d : Fin 32) (a : Fin 32) (b : Fin 32) (k : Fin 8) (et : Fin 8) (s : State) : Host.Outcome State Fault Refusal :=
  .next (runV id { fn := .vperm, d := d.val, a := a.val, b := b.val, k := k.val, et := et.val } s)

/-- `VZIPL` (R132): Interleave the lower halves. -/
def execVzipl (id : CoreId) (d : Fin 32) (a : Fin 32) (b : Fin 32) (k : Fin 8) (et : Fin 8) (s : State) : Host.Outcome State Fault Refusal :=
  .next (runV id { fn := .vzipl, d := d.val, a := a.val, b := b.val, k := k.val, et := et.val } s)

/-- `VZIPH` (R132): Interleave the upper halves. -/
def execVziph (id : CoreId) (d : Fin 32) (a : Fin 32) (b : Fin 32) (k : Fin 8) (et : Fin 8) (s : State) : Host.Outcome State Fault Refusal :=
  .next (runV id { fn := .vziph, d := d.val, a := a.val, b := b.val, k := k.val, et := et.val } s)

/-- `VUZPE` (R132): De-interleave the even elements. -/
def execVuzpe (id : CoreId) (d : Fin 32) (a : Fin 32) (b : Fin 32) (k : Fin 8) (et : Fin 8) (s : State) : Host.Outcome State Fault Refusal :=
  .next (runV id { fn := .vuzpe, d := d.val, a := a.val, b := b.val, k := k.val, et := et.val } s)

/-- `VUZPO` (R132): De-interleave the odd elements. -/
def execVuzpo (id : CoreId) (d : Fin 32) (a : Fin 32) (b : Fin 32) (k : Fin 8) (et : Fin 8) (s : State) : Host.Outcome State Fault Refusal :=
  .next (runV id { fn := .vuzpo, d := d.val, a := a.val, b := b.val, k := k.val, et := et.val } s)

/-- `VSLDN` (R132): Slide elements down. -/
def execVsldn (id : CoreId) (d : Fin 32) (a : Fin 32) (b : Fin 32) (k : Fin 8) (et : Fin 8) (s : State) : Host.Outcome State Fault Refusal :=
  .next (runV id { fn := .vsldn, d := d.val, a := a.val, b := b.val, k := k.val, et := et.val } s)

/-- `VSLUP` (R132): Slide elements up. -/
def execVslup (id : CoreId) (d : Fin 32) (a : Fin 32) (b : Fin 32) (k : Fin 8) (et : Fin 8) (s : State) : Host.Outcome State Fault Refusal :=
  .next (runV id { fn := .vslup, d := d.val, a := a.val, b := b.val, k := k.val, et := et.val } s)

/-- `VREV` (R132): Reverse the elements. -/
def execVrev (id : CoreId) (d : Fin 32) (a : Fin 32) (k : Fin 8) (et : Fin 8) (s : State) : Host.Outcome State Fault Refusal :=
  .next (runV id { fn := .vrev, d := d.val, a := a.val, k := k.val, et := et.val } s)

/-- `VBCAST` (R132): Broadcast a scalar to the active elements. -/
def execVbcast (id : CoreId) (d : Fin 32) (a : Fin 32) (b : Fin 32) (k : Fin 8) (et : Fin 8) (s : State) : Host.Outcome State Fault Refusal :=
  .next (runV id { fn := .vbcast, d := d.val, a := a.val, b := b.val, k := k.val, et := et.val } s)

/-- `VINS` (R132): Insert a scalar into one element. -/
def execVins (id : CoreId) (d : Fin 32) (a : Fin 32) (b : Fin 32) (et : Fin 8) (s : State) : Host.Outcome State Fault Refusal :=
  .next (runV id { fn := .vins, d := d.val, a := a.val, b := b.val, et := et.val } s)

/-- `VEXT` (R132): Extract one element into a scalar. -/
def execVext (id : CoreId) (d : Fin 32) (a : Fin 32) (b : Fin 32) (et : Fin 8) (s : State) : Host.Outcome State Fault Refusal :=
  .next (runV id { fn := .vext, d := d.val, a := a.val, b := b.val, et := et.val } s)

/-- `VSEL` (R132): Select elements by predicate. -/
def execVsel (id : CoreId) (d : Fin 32) (a : Fin 32) (b : Fin 32) (k : Fin 8) (et : Fin 8) (s : State) : Host.Outcome State Fault Refusal :=
  .next (runV id { fn := .vsel, d := d.val, a := a.val, b := b.val, k := k.val, et := et.val } s)

/-- `VRADD` (R133): Saturated sum reduction. -/
def execVradd (id : CoreId) (d : Fin 32) (a : Fin 32) (k : Fin 8) (et : Fin 8) (s : State) : Host.Outcome State Fault Refusal :=
  .next (runV id { fn := .vradd, d := d.val, a := a.val, k := k.val, et := et.val } s)

/-- `VRMAX` (R133): Maximum reduction. -/
def execVrmax (id : CoreId) (d : Fin 32) (a : Fin 32) (k : Fin 8) (et : Fin 8) (s : State) : Host.Outcome State Fault Refusal :=
  .next (runV id { fn := .vrmax, d := d.val, a := a.val, k := k.val, et := et.val } s)

/-- `VRMIN` (R133): Minimum reduction. -/
def execVrmin (id : CoreId) (d : Fin 32) (a : Fin 32) (k : Fin 8) (et : Fin 8) (s : State) : Host.Outcome State Fault Refusal :=
  .next (runV id { fn := .vrmin, d := d.val, a := a.val, k := k.val, et := et.val } s)

/-- `VRIMAX` (R133): Index of the largest element. -/
def execVrimax (id : CoreId) (d : Fin 32) (a : Fin 32) (k : Fin 8) (et : Fin 8) (s : State) : Host.Outcome State Fault Refusal :=
  .next (runV id { fn := .vrimax, d := d.val, a := a.val, k := k.val, et := et.val } s)

/-- `VFRADD` (R133): Pairwise fp32 sum reduction. -/
def execVfradd (id : CoreId) (d : Fin 32) (a : Fin 32) (k : Fin 8) (s : State) : Host.Outcome State Fault Refusal :=
  .next (runV id { fn := .vfradd, d := d.val, a := a.val, k := k.val, et := 6 } s)

/-- `KAND` (R134): Predicate AND. -/
def execKand (id : CoreId) (d : Fin 8) (a : Fin 8) (b : Fin 8) (s : State) : Host.Outcome State Fault Refusal :=
  .next (runV id { fn := .kand, d := d.val, a := a.val, b := b.val } s)

/-- `KOR` (R134): Predicate OR. -/
def execKor (id : CoreId) (d : Fin 8) (a : Fin 8) (b : Fin 8) (s : State) : Host.Outcome State Fault Refusal :=
  .next (runV id { fn := .kor, d := d.val, a := a.val, b := b.val } s)

/-- `KXOR` (R134): Predicate XOR. -/
def execKxor (id : CoreId) (d : Fin 8) (a : Fin 8) (b : Fin 8) (s : State) : Host.Outcome State Fault Refusal :=
  .next (runV id { fn := .kxor, d := d.val, a := a.val, b := b.val } s)

/-- `KANDN` (R134): Predicate AND NOT. -/
def execKandn (id : CoreId) (d : Fin 8) (a : Fin 8) (b : Fin 8) (s : State) : Host.Outcome State Fault Refusal :=
  .next (runV id { fn := .kandn, d := d.val, a := a.val, b := b.val } s)

/-- `KNOT` (R134): Predicate NOT. -/
def execKnot (id : CoreId) (d : Fin 8) (a : Fin 8) (s : State) : Host.Outcome State Fault Refusal :=
  .next (runV id { fn := .knot, d := d.val, a := a.val } s)

/-- `KVL` (R134): Predicate of the elements below the vector length. -/
def execKvl (id : CoreId) (d : Fin 8) (et : Fin 8) (s : State) : Host.Outcome State Fault Refusal :=
  .next (runV id { fn := .kvl, d := d.val, et := et.val } s)

/-- `KPOIS` (R134): Predicate of the poisoned elements. -/
def execKpois (id : CoreId) (d : Fin 8) (a : Fin 32) (et : Fin 8) (s : State) : Host.Outcome State Fault Refusal :=
  .next (runV id { fn := .kpois, d := d.val, a := a.val, et := et.val } s)

/-- `KPOP` (R134): Count of the set predicate bits. -/
def execKpop (id : CoreId) (d : Fin 32) (a : Fin 8) (s : State) : Host.Outcome State Fault Refusal :=
  .next (runV id { fn := .kpop, d := d.val, a := a.val } s)

/-- `KFIRST` (R134): Index of the lowest set predicate bit. -/
def execKfirst (id : CoreId) (d : Fin 32) (a : Fin 8) (s : State) : Host.Outcome State Fault Refusal :=
  .next (runV id { fn := .kfirst, d := d.val, a := a.val } s)

/-- `KSET` (R134): Set a predicate from two scalars. -/
def execKset (id : CoreId) (d : Fin 8) (a : Fin 32) (b : Fin 32) (s : State) : Host.Outcome State Fault Refusal :=
  .next (runV id { fn := .kset, d := d.val, a := a.val, b := b.val } s)

/-- `KGET` (R134): Read half of a predicate into a scalar. -/
def execKget (id : CoreId) (d : Fin 32) (a : Fin 8) (b : Fin 32) (s : State) : Host.Outcome State Fault Refusal :=
  .next (runV id { fn := .kget, d := d.val, a := a.val, b := b.val } s)

end Sys2Proof.Machine
end

