-- ==== Sys2Proof/Machine/Dispatch.lean ====
section
/-! DEFINITION. The dispatch of a command to its meaning: one arm per constructor. -/

namespace Sys2Proof.Machine

def exec (i : Instr) (s : State) : Host.Outcome State Fault Refusal :=
  match i with
  | .devCaps q => Sys2Proof.Machine.execDevCaps q s
  | .registerWrite w a v => Sys2Proof.Machine.execRegisterWrite w a v s
  | .limitTakeEffect => Sys2Proof.Machine.execLimitTakeEffect s
  | .atsCaptureRead who => Sys2Proof.Machine.execAtsCaptureRead who s
  | .refQualify r => Sys2Proof.Machine.execRefQualify r s
  | .refLost r => Sys2Proof.Machine.execRefLost r s
  | .ppsEdgeMissed => Sys2Proof.Machine.execPpsEdgeMissed s
  | .freqSettled => Sys2Proof.Machine.execFreqSettled s
  | .phaseMeasurement err freq => Sys2Proof.Machine.execPhaseMeasurement err freq s
  | .revertHoldoffExpiry r => Sys2Proof.Machine.execRevertHoldoffExpiry r s
  | .holdoverEstimateUpdate => Sys2Proof.Machine.execHoldoverEstimateUpdate s
  | .timeStepApply err => Sys2Proof.Machine.execTimeStepApply err s
  | .ppsInEdge stamp wide => Sys2Proof.Machine.execPpsInEdge stamp wide s
  | .todMessageRx bytes inTime => Sys2Proof.Machine.execTodMessageRx bytes inTime s
  | .timeStatus q => Sys2Proof.Machine.execTimeStatus q s
  | .timeRefConfig q => Sys2Proof.Machine.execTimeRefConfig q s
  | .timeStep q => Sys2Proof.Machine.execTimeStep q s
  | .timeStepCancel q => Sys2Proof.Machine.execTimeStepCancel q s
  | .tddTableSet q => Sys2Proof.Machine.execTddTableSet q s
  | .commitApply => Sys2Proof.Machine.execCommitApply s
  | .benchMemRead b w => Sys2Proof.Machine.execBenchMemRead b w s
  | .benchMemWrite b off data poison => Sys2Proof.Machine.execBenchMemWrite b off data poison s
  | .scrubAccess b line => Sys2Proof.Machine.execScrubAccess b line s
  | .dmaStart b n => Sys2Proof.Machine.execDmaStart b n s
  | .dmaAbort b n => Sys2Proof.Machine.execDmaAbort b n s
  | .dmaTaskStart b n => Sys2Proof.Machine.execDmaTaskStart b n s
  | .dmaRequestComplete b n src dst => Sys2Proof.Machine.execDmaRequestComplete b n src dst s
  | .dsStage x => Sys2Proof.Machine.execDsStage x s
  | .engineTaskStart x => Sys2Proof.Machine.execEngineTaskStart x s
  | .bundleIssue id => Sys2Proof.Machine.execBundleIssue id s
  | .branchResolve id => Sys2Proof.Machine.execBranchResolve id s
  | .interruptAccept id => Sys2Proof.Machine.execInterruptAccept id s
  | .coreTaskStart id => Sys2Proof.Machine.execCoreTaskStart id s
  | .awlWatchdogExpiry id => Sys2Proof.Machine.execAwlWatchdogExpiry id s
  | .tickcmpReached id => Sys2Proof.Machine.execTickcmpReached id s
  | .coreIpiWrite id v => Sys2Proof.Machine.execCoreIpiWrite id v s
  | .waitevComplete id => Sys2Proof.Machine.execWaitevComplete id s
  | .add id d a b => Sys2Proof.Machine.execAdd id d a b s
  | .sub id d a b => Sys2Proof.Machine.execSub id d a b s
  | .and id d a b => Sys2Proof.Machine.execAnd id d a b s
  | .or id d a b => Sys2Proof.Machine.execOr id d a b s
  | .xor id d a b => Sys2Proof.Machine.execXor id d a b s
  | .sll id d a b => Sys2Proof.Machine.execSll id d a b s
  | .srl id d a b => Sys2Proof.Machine.execSrl id d a b s
  | .sra id d a b => Sys2Proof.Machine.execSra id d a b s
  | .slt id d a b => Sys2Proof.Machine.execSlt id d a b s
  | .sltu id d a b => Sys2Proof.Machine.execSltu id d a b s
  | .min id d a b => Sys2Proof.Machine.execMin id d a b s
  | .max id d a b => Sys2Proof.Machine.execMax id d a b s
  | .minu id d a b => Sys2Proof.Machine.execMinu id d a b s
  | .maxu id d a b => Sys2Proof.Machine.execMaxu id d a b s
  | .adds id d a b => Sys2Proof.Machine.execAdds id d a b s
  | .subs id d a b => Sys2Proof.Machine.execSubs id d a b s
  | .abs id d a => Sys2Proof.Machine.execAbs id d a s
  | .clz id d a => Sys2Proof.Machine.execClz id d a s
  | .cls id d a => Sys2Proof.Machine.execCls id d a s
  | .mul id d a b => Sys2Proof.Machine.execMul id d a b s
  | .mulh id d a b => Sys2Proof.Machine.execMulh id d a b s
  | .mulhu id d a b => Sys2Proof.Machine.execMulhu id d a b s
  | .addi id d a imm => Sys2Proof.Machine.execAddi id d a imm s
  | .andi id d a imm => Sys2Proof.Machine.execAndi id d a imm s
  | .ori id d a imm => Sys2Proof.Machine.execOri id d a imm s
  | .xori id d a imm => Sys2Proof.Machine.execXori id d a imm s
  | .slli id d a sh => Sys2Proof.Machine.execSlli id d a sh s
  | .srli id d a sh => Sys2Proof.Machine.execSrli id d a sh s
  | .srai id d a sh => Sys2Proof.Machine.execSrai id d a sh s
  | .rori id d a sh => Sys2Proof.Machine.execRori id d a sh s
  | .slti id d a imm => Sys2Proof.Machine.execSlti id d a imm s
  | .lui id d imm => Sys2Proof.Machine.execLui id d imm s
  | .padd id d a b => Sys2Proof.Machine.execPadd id d a b s
  | .psub id d a b => Sys2Proof.Machine.execPsub id d a b s
  | .pmov id d a => Sys2Proof.Machine.execPmov id d a s
  | .smov id d a => Sys2Proof.Machine.execSmov id d a s
  | .pdiff id d a b => Sys2Proof.Machine.execPdiff id d a b s
  | .paddi id d a imm => Sys2Proof.Machine.execPaddi id d a imm s
  | .beq id a b off => Sys2Proof.Machine.execBeq id a b off s
  | .bne id a b off => Sys2Proof.Machine.execBne id a b off s
  | .blt id a b off => Sys2Proof.Machine.execBlt id a b off s
  | .bge id a b off => Sys2Proof.Machine.execBge id a b off s
  | .bltu id a b off => Sys2Proof.Machine.execBltu id a b off s
  | .bgeu id a b off => Sys2Proof.Machine.execBgeu id a b off s
  | .br id off => Sys2Proof.Machine.execBr id off s
  | .call id off => Sys2Proof.Machine.execCall id off s
  | .jr id a => Sys2Proof.Machine.execJr id a s
  | .bkany id k off => Sys2Proof.Machine.execBkany id k off s
  | .bknone id k off => Sys2Proof.Machine.execBknone id k off s
  | .csrr id d csr => Sys2Proof.Machine.execCsrr id d csr s
  | .csrw id a csr => Sys2Proof.Machine.execCsrw id a csr s
  | .csrs id a csr => Sys2Proof.Machine.execCsrs id a csr s
  | .csrc id a csr => Sys2Proof.Machine.execCsrc id a csr s
  | .irqHold id => Sys2Proof.Machine.execIrqHold id s
  | .irqRelease id => Sys2Proof.Machine.execIrqRelease id s
  | .waitev id => Sys2Proof.Machine.execWaitev id s
  | .eret id => Sys2Proof.Machine.execEret id s
  | .trap id code => Sys2Proof.Machine.execTrap id code s
  | .brk id => Sys2Proof.Machine.execBrk id s
  | .fence id => Sys2Proof.Machine.execFence id s
  | .tdone id a => Sys2Proof.Machine.execTdone id a s
  | .lexit0 id => Sys2Proof.Machine.execLexit0 id s
  | .lexit1 id => Sys2Proof.Machine.execLexit1 id s
  | .loop0 id last cnt ci stg sp rb => Sys2Proof.Machine.execLoop0 id last cnt ci stg sp rb s
  | .loop1 id last cnt ci stg sp rb => Sys2Proof.Machine.execLoop1 id last cnt ci stg sp rb s
  | .ldw id m1 r p upd imm inc => Sys2Proof.Machine.execLdw id m1 r p upd imm inc s
  | .ldh id m1 r p upd imm inc => Sys2Proof.Machine.execLdh id m1 r p upd imm inc s
  | .ldhu id m1 r p upd imm inc => Sys2Proof.Machine.execLdhu id m1 r p upd imm inc s
  | .ldb id m1 r p upd imm inc => Sys2Proof.Machine.execLdb id m1 r p upd imm inc s
  | .ldbu id m1 r p upd imm inc => Sys2Proof.Machine.execLdbu id m1 r p upd imm inc s
  | .ldp id m1 r p upd imm inc => Sys2Proof.Machine.execLdp id m1 r p upd imm inc s
  | .stw id m1 r p upd imm inc => Sys2Proof.Machine.execStw id m1 r p upd imm inc s
  | .sth id m1 r p upd imm inc => Sys2Proof.Machine.execSth id m1 r p upd imm inc s
  | .stb id m1 r p upd imm inc => Sys2Proof.Machine.execStb id m1 r p upd imm inc s
  | .stp id m1 r p upd imm inc => Sys2Proof.Machine.execStp id m1 r p upd imm inc s
  | .ldv id m1 r p upd k imm inc => Sys2Proof.Machine.execLdv id m1 r p upd k imm inc s
  | .stv id m1 r p upd k imm inc => Sys2Proof.Machine.execStv id m1 r p upd k imm inc s
  | .ldvBc id m1 r p upd k imm inc => Sys2Proof.Machine.execLdvBc id m1 r p upd k imm inc s
  | .lda id m1 r p upd imm inc => Sys2Proof.Machine.execLda id m1 r p upd imm inc s
  | .sta id m1 r p upd imm inc => Sys2Proof.Machine.execSta id m1 r p upd imm inc s
  | .vgather id m1 r p k x w => Sys2Proof.Machine.execVgather id m1 r p k x w s
  | .vscatter id m1 r p k x w => Sys2Proof.Machine.execVscatter id m1 r p k x w s
  | .vlds id m1 r p k x w => Sys2Proof.Machine.execVlds id m1 r p k x w s
  | .vsts id m1 r p k x w => Sys2Proof.Machine.execVsts id m1 r p k x w s
  | .cmac id d a b k z => Sys2Proof.Machine.execCmac id d a b k z s
  | .cmacj id d a b k z => Sys2Proof.Machine.execCmacj id d a b k z s
  | .cmsc id d a b k z => Sys2Proof.Machine.execCmsc id d a b k z s
  | .cmscj id d a b k z => Sys2Proof.Machine.execCmscj id d a b k z s
  | .csq id d a k z => Sys2Proof.Machine.execCsq id d a k z s
  | .rmac16 id d a b k z => Sys2Proof.Machine.execRmac16 id d a b k z s
  | .rmac8 id d a b k z => Sys2Proof.Machine.execRmac8 id d a b k z s
  | .cmul id d a b k => Sys2Proof.Machine.execCmul id d a b k s
  | .cmulj id d a b k => Sys2Proof.Machine.execCmulj id d a b k s
  | .crotj id d a k => Sys2Proof.Machine.execCrotj id d a k s
  | .crotnj id d a k => Sys2Proof.Machine.execCrotnj id d a k s
  | .rmul16 id d a b k => Sys2Proof.Machine.execRmul16 id d a b k s
  | .accx id d a b k sr rt sh => Sys2Proof.Machine.execAccx id d a b k sr rt sh s
  | .accxWl id d a b k sr rt sh => Sys2Proof.Machine.execAccxWl id d a b k sr rt sh s
  | .accxWh id d a b k sr rt sh => Sys2Proof.Machine.execAccxWh id d a b k sr rt sh s
  | .accz id d k => Sys2Proof.Machine.execAccz id d k s
  | .accmv id d a => Sys2Proof.Machine.execAccmv id d a s
  | .norm id d a k => Sys2Proof.Machine.execNorm id d a k s
  | .expb id d a k => Sys2Proof.Machine.execExpb id d a k s
  | .shlB id d a b k => Sys2Proof.Machine.execShlB id d a b k s
  | .shlBi id d a b k => Sys2Proof.Machine.execShlBi id d a b k s
  | .setvl id d a et => Sys2Proof.Machine.execSetvl id d a et s
  | .vadd id d a b k et => Sys2Proof.Machine.execVadd id d a b k et s
  | .vsub id d a b k et => Sys2Proof.Machine.execVsub id d a b k et s
  | .vadds id d a b k et => Sys2Proof.Machine.execVadds id d a b k et s
  | .vsubs id d a b k et => Sys2Proof.Machine.execVsubs id d a b k et s
  | .vneg id d a k et => Sys2Proof.Machine.execVneg id d a k et s
  | .vabs id d a k et => Sys2Proof.Machine.execVabs id d a k et s
  | .vmin id d a b k et => Sys2Proof.Machine.execVmin id d a b k et s
  | .vmax id d a b k et => Sys2Proof.Machine.execVmax id d a b k et s
  | .vavg id d a b k et => Sys2Proof.Machine.execVavg id d a b k et s
  | .vmul id d a b k et => Sys2Proof.Machine.execVmul id d a b k et s
  | .vmov id d a k et => Sys2Proof.Machine.execVmov id d a k et s
  | .vand id d a b k et => Sys2Proof.Machine.execVand id d a b k et s
  | .vor id d a b k et => Sys2Proof.Machine.execVor id d a b k et s
  | .vxor id d a b k et => Sys2Proof.Machine.execVxor id d a b k et s
  | .vandn id d a b k et => Sys2Proof.Machine.execVandn id d a b k et s
  | .vnot id d a k et => Sys2Proof.Machine.execVnot id d a k et s
  | .vsll id d a b k et => Sys2Proof.Machine.execVsll id d a b k et s
  | .vsrl id d a b k et => Sys2Proof.Machine.execVsrl id d a b k et s
  | .vsra id d a b k et => Sys2Proof.Machine.execVsra id d a b k et s
  | .vslli id d a b k et => Sys2Proof.Machine.execVslli id d a b k et s
  | .vsrli id d a b k et => Sys2Proof.Machine.execVsrli id d a b k et s
  | .vsrai id d a b k et => Sys2Proof.Machine.execVsrai id d a b k et s
  | .vsrar id d a b k et => Sys2Proof.Machine.execVsrar id d a b k et s
  | .vceq id d a b k et => Sys2Proof.Machine.execVceq id d a b k et s
  | .vcne id d a b k et => Sys2Proof.Machine.execVcne id d a b k et s
  | .vclt id d a b k et => Sys2Proof.Machine.execVclt id d a b k et s
  | .vcle id d a b k et => Sys2Proof.Machine.execVcle id d a b k et s
  | .vcltu id d a b k et => Sys2Proof.Machine.execVcltu id d a b k et s
  | .vcleu id d a b k et => Sys2Proof.Machine.execVcleu id d a b k et s
  | .vconj id d a k et => Sys2Proof.Machine.execVconj id d a k et s
  | .vcswap id d a k et => Sys2Proof.Machine.execVcswap id d a k et s
  | .vcmag2 id d a k => Sys2Proof.Machine.execVcmag2 id d a k s
  | .vwidl id d a k et => Sys2Proof.Machine.execVwidl id d a k et s
  | .vwidh id d a k et => Sys2Proof.Machine.execVwidh id d a k et s
  | .vnarr id d a b k et => Sys2Proof.Machine.execVnarr id d a b k et s
  | .vfadd id d a b k et => Sys2Proof.Machine.execVfadd id d a b k et s
  | .vfsub id d a b k et => Sys2Proof.Machine.execVfsub id d a b k et s
  | .vfmul id d a b k => Sys2Proof.Machine.execVfmul id d a b k s
  | .vfcmul id d a b k => Sys2Proof.Machine.execVfcmul id d a b k s
  | .vfma id d a b k => Sys2Proof.Machine.execVfma id d a b k s
  | .vfcma id d a b k => Sys2Proof.Machine.execVfcma id d a b k s
  | .vfms id d a b k => Sys2Proof.Machine.execVfms id d a b k s
  | .vfcms id d a b k => Sys2Proof.Machine.execVfcms id d a b k s
  | .vfmin id d a b k => Sys2Proof.Machine.execVfmin id d a b k s
  | .vfcmulj id d a b k => Sys2Proof.Machine.execVfcmulj id d a b k s
  | .vfmax id d a b k => Sys2Proof.Machine.execVfmax id d a b k s
  | .vfcmaj id d a b k => Sys2Proof.Machine.execVfcmaj id d a b k s
  | .vfabs id d a k => Sys2Proof.Machine.execVfabs id d a k s
  | .vfneg id d a k et => Sys2Proof.Machine.execVfneg id d a k et s
  | .vfrcp id d a k => Sys2Proof.Machine.execVfrcp id d a k s
  | .vfrsq id d a k => Sys2Proof.Machine.execVfrsq id d a k s
  | .vcvtF32I32 id d a k => Sys2Proof.Machine.execVcvtF32I32 id d a k s
  | .vcvtI32F32 id d a k => Sys2Proof.Machine.execVcvtI32F32 id d a k s
  | .vcvtCf16Ci16 id d a b k => Sys2Proof.Machine.execVcvtCf16Ci16 id d a b k s
  | .vcvtCi16Cf16 id d a b k => Sys2Proof.Machine.execVcvtCi16Cf16 id d a b k s
  | .vcvtF32l id d a k => Sys2Proof.Machine.execVcvtF32l id d a k s
  | .vcvtF32h id d a k => Sys2Proof.Machine.execVcvtF32h id d a k s
  | .vcvtCf16F32 id d a b k => Sys2Proof.Machine.execVcvtCf16F32 id d a b k s
  | .vperm id d a b k et => Sys2Proof.Machine.execVperm id d a b k et s
  | .vzipl id d a b k et => Sys2Proof.Machine.execVzipl id d a b k et s
  | .vziph id d a b k et => Sys2Proof.Machine.execVziph id d a b k et s
  | .vuzpe id d a b k et => Sys2Proof.Machine.execVuzpe id d a b k et s
  | .vuzpo id d a b k et => Sys2Proof.Machine.execVuzpo id d a b k et s
  | .vsldn id d a b k et => Sys2Proof.Machine.execVsldn id d a b k et s
  | .vslup id d a b k et => Sys2Proof.Machine.execVslup id d a b k et s
  | .vrev id d a k et => Sys2Proof.Machine.execVrev id d a k et s
  | .vbcast id d a b k et => Sys2Proof.Machine.execVbcast id d a b k et s
  | .vins id d a b et => Sys2Proof.Machine.execVins id d a b et s
  | .vext id d a b et => Sys2Proof.Machine.execVext id d a b et s
  | .vsel id d a b k et => Sys2Proof.Machine.execVsel id d a b k et s
  | .vradd id d a k et => Sys2Proof.Machine.execVradd id d a k et s
  | .vrmax id d a k et => Sys2Proof.Machine.execVrmax id d a k et s
  | .vrmin id d a k et => Sys2Proof.Machine.execVrmin id d a k et s
  | .vrimax id d a k et => Sys2Proof.Machine.execVrimax id d a k et s
  | .vfradd id d a k => Sys2Proof.Machine.execVfradd id d a k s
  | .kand id d a b => Sys2Proof.Machine.execKand id d a b s
  | .kor id d a b => Sys2Proof.Machine.execKor id d a b s
  | .kxor id d a b => Sys2Proof.Machine.execKxor id d a b s
  | .kandn id d a b => Sys2Proof.Machine.execKandn id d a b s
  | .knot id d a => Sys2Proof.Machine.execKnot id d a s
  | .kvl id d et => Sys2Proof.Machine.execKvl id d et s
  | .kpois id d a et => Sys2Proof.Machine.execKpois id d a et s
  | .kpop id d a => Sys2Proof.Machine.execKpop id d a s
  | .kfirst id d a => Sys2Proof.Machine.execKfirst id d a s
  | .kset id d a b => Sys2Proof.Machine.execKset id d a b s
  | .kget id d a b => Sys2Proof.Machine.execKget id d a b s
  | .eyBfpUnpack id d a b w => Sys2Proof.Machine.execEyBfpUnpack id d a b w s
  | .eyBfpPack id d a b w => Sys2Proof.Machine.execEyBfpPack id d a b w s
  | .eySeqStep id d a => Sys2Proof.Machine.execEySeqStep id d a s
  | .eySeqInit id d a => Sys2Proof.Machine.execEySeqInit id d a s
  | .eySeqSkip id d a b => Sys2Proof.Machine.execEySeqSkip id d a b s
  | .eyCrc id d a b gen order => Sys2Proof.Machine.execEyCrc id d a b gen order s
  | .eyDemap id d a b k modn => Sys2Proof.Machine.execEyDemap id d a b k modn s
  | .eyPhase id d a b k adv conj => Sys2Proof.Machine.execEyPhase id d a b k adv conj s
  | .shankTaskStart b => Sys2Proof.Machine.execShankTaskStart b s
  | .xadd b f => Sys2Proof.Machine.execXadd b f s
  | .xsub b f => Sys2Proof.Machine.execXsub b f s
  | .xaddi b f => Sys2Proof.Machine.execXaddi b f s
  | .xld b f => Sys2Proof.Machine.execXld b f s
  | .xst b f => Sys2Proof.Machine.execXst b f s
  | .xstat b f => Sys2Proof.Machine.execXstat b f s
  | .sloop b f => Sys2Proof.Machine.execSloop b f s
  | .sbnz b f => Sys2Proof.Machine.execSbnz b f s
  | .sj b f => Sys2Proof.Machine.execSj b f s
  | .send b f => Sys2Proof.Machine.execSend b f s
  | .lld b f => Sys2Proof.Machine.execLld b f s
  | .lst b f => Sys2Proof.Machine.execLst b f s
  | .llds b f => Sys2Proof.Machine.execLlds b f s
  | .lsts b f => Sys2Proof.Machine.execLsts b f s
  | .lldh b f => Sys2Proof.Machine.execLldh b f s
  | .ldup b f => Sys2Proof.Machine.execLdup b f s
  | .lmlen b f => Sys2Proof.Machine.execLmlen b f s
  | .lmld b f => Sys2Proof.Machine.execLmld b f s
  | .ladd b f => Sys2Proof.Machine.execLadd b f s
  | .lsub b f => Sys2Proof.Machine.execLsub b f s
  | .lcmul b f => Sys2Proof.Machine.execLcmul b f s
  | .lcmulj b f => Sys2Proof.Machine.execLcmulj b f s
  | .lconj b f => Sys2Proof.Machine.execLconj b f s
  | .lcvt b f => Sys2Proof.Machine.execLcvt b f s
  | .lrsq b f => Sys2Proof.Machine.execLrsq b f s
  | .lfcma b f => Sys2Proof.Machine.execLfcma b f s
  | .lcmac b f => Sys2Proof.Machine.execLcmac b f s
  | .lcmacj b f => Sys2Proof.Machine.execLcmacj b f s
  | .lcmsc b f => Sys2Proof.Machine.execLcmsc b f s
  | .lmv16 b f => Sys2Proof.Machine.execLmv16 b f s
  | .lmv8 b f => Sys2Proof.Machine.execLmv8 b f s
  | .laccz b f => Sys2Proof.Machine.execLaccz b f s
  | .laccx b f => Sys2Proof.Machine.execLaccx b f s
  | .lchol b f => Sys2Proof.Machine.execLchol b f s
  | .shankResume b => Sys2Proof.Machine.execShankResume b s
  | .cmaSegmentStart b => Sys2Proof.Machine.execCmaSegmentStart b s
  | .cmaVectorExit b ev => Sys2Proof.Machine.execCmaVectorExit b ev s
  | .cmaLoadComplete b err stall => Sys2Proof.Machine.execCmaLoadComplete b err stall s
  | .cmaJobComplete b => Sys2Proof.Machine.execCmaJobComplete b s
  | .cmaBandSample b cur => Sys2Proof.Machine.execCmaBandSample b cur s
  | .cmaBgCalStep b err => Sys2Proof.Machine.execCmaBgCalStep b err s
  | .cmaFullCalStart b => Sys2Proof.Machine.execCmaFullCalStart b s
  | .cmaFullCalEnd b ev trim => Sys2Proof.Machine.execCmaFullCalEnd b ev trim s
  | .cmaCalStartBit w b => Sys2Proof.Machine.execCmaCalStartBit w b s
  | .cmaShellInjArm w b => Sys2Proof.Machine.execCmaShellInjArm w b s
  | .cmaSparePreload b => Sys2Proof.Machine.execCmaSparePreload b s
  | .cmaStatus q => Sys2Proof.Machine.execCmaStatus q s
  | .cmaCalibrate q => Sys2Proof.Machine.execCmaCalibrate q s
  | .cmaConfig q => Sys2Proof.Machine.execCmaConfig q s
  | .cmaPreload q => Sys2Proof.Machine.execCmaPreload q s
  | .cmaService q => Sys2Proof.Machine.execCmaService q s
  | .fftOfdmRx b ix err => Sys2Proof.Machine.execFftOfdmRx b ix err s
  | .fftOfdmTx b ix err => Sys2Proof.Machine.execFftOfdmTx b ix err s
  | .fftDft b ix err => Sys2Proof.Machine.execFftDft b ix err s
  | .fftIdft b ix err => Sys2Proof.Machine.execFftIdft b ix err s
  | .fftPrach b ix err => Sys2Proof.Machine.execFftPrach b ix err s
  | .fftRaw b ix err => Sys2Proof.Machine.execFftRaw b ix err s
  | .ifftRaw b ix err => Sys2Proof.Machine.execIfftRaw b ix err s
  | .fftConvert b ix err => Sys2Proof.Machine.execFftConvert b ix err s
  | .ldecComplete h ix err => Sys2Proof.Machine.execLdecComplete h ix err s
  | .lencComplete h ix err => Sys2Proof.Machine.execLencComplete h ix err s
  | .pdecComplete h ix err => Sys2Proof.Machine.execPdecComplete h ix err s
  | .pencComplete h ix err => Sys2Proof.Machine.execPencComplete h ix err s
  | .tdecComplete h ix err => Sys2Proof.Machine.execTdecComplete h ix err s
  | .tencComplete h ix err => Sys2Proof.Machine.execTencComplete h ix err s
  | .dematchComplete h ix err => Sys2Proof.Machine.execDematchComplete h ix err s
  | .matchComplete h ix err => Sys2Proof.Machine.execMatchComplete h ix err s
  | .hcNewComplete h ix err => Sys2Proof.Machine.execHcNewComplete h ix err s
  | .hcCombineComplete h ix err => Sys2Proof.Machine.execHcCombineComplete h ix err s
  | .hcReadComplete h ix err => Sys2Proof.Machine.execHcReadComplete h ix err s
  | .hcLockAcquire h ix => Sys2Proof.Machine.execHcLockAcquire h ix s
  | .qHdrWrite b q src hdr parityBad => Sys2Proof.Machine.execQHdrWrite b q src hdr parityBad s
  | .qHeldHeaderAccept b q => Sys2Proof.Machine.execQHeldHeaderAccept b q s
  | .qPushWord b q src word parityBad => Sys2Proof.Machine.execQPushWord b q src word parityBad s
  | .qAbortWrite b q src => Sys2Proof.Machine.execQAbortWrite b q src s
  | .qPopRead b q n parityBad => Sys2Proof.Machine.execQPopRead b q n parityBad s
  | .qReleaseWrite b q n => Sys2Proof.Machine.execQReleaseWrite b q n s
  | .qPktTimeout b q => Sys2Proof.Machine.execQPktTimeout b q s
  | .qFlush b q => Sys2Proof.Machine.execQFlush b q s
  | .qXcntRead b q => Sys2Proof.Machine.execQXcntRead b q s
  | .qInjArm w b q skip => Sys2Proof.Machine.execQInjArm w b q skip s
  | .queueConfig q => Sys2Proof.Machine.execQueueConfig q s
  | .queueStatus q => Sys2Proof.Machine.execQueueStatus q s
  | .hbmPartition q => Sys2Proof.Machine.execHbmPartition q s
  | .hbmRead a n ondieCe ondieUe => Sys2Proof.Machine.execHbmRead a n ondieCe ondieUe s
  | .hbmWrite a data poison => Sys2Proof.Machine.execHbmWrite a data poison s
  | .bar2Write a data poison => Sys2Proof.Machine.execBar2Write a data poison s
  | .hbmScrub a => Sys2Proof.Machine.execHbmScrub a s
  | .patternLoad q => Sys2Proof.Machine.execPatternLoad q s
  | .patternImageReadDone ix ov => Sys2Proof.Machine.execPatternImageReadDone ix ov s
  | .patternUnload q => Sys2Proof.Machine.execPatternUnload q s
  | .patternStatus q => Sys2Proof.Machine.execPatternStatus q s
  | .slotreqRingConfig q => Sys2Proof.Machine.execSlotreqRingConfig q s
  | .cordStatus q => Sys2Proof.Machine.execCordStatus q s
  | .cellStart q => Sys2Proof.Machine.execCellStart q s
  | .cellStop q => Sys2Proof.Machine.execCellStop q s
  | .srTailWrite r v => Sys2Proof.Machine.execSrTailWrite r v s
  | .instantiate => Sys2Proof.Machine.execInstantiate s
  | .instanceCreated => Sys2Proof.Machine.execInstanceCreated s
  | .delayRelease => Sys2Proof.Machine.execDelayRelease s
  | .taskCompletion => Sys2Proof.Machine.execTaskCompletion s
  | .dispatchGrant x => Sys2Proof.Machine.execDispatchGrant x s
  | .eraseDone ix tmo => Sys2Proof.Machine.execEraseDone ix tmo s
  | .notifyTaskStart n ov => Sys2Proof.Machine.execNotifyTaskStart n ov s
  | .notifyAckRx dev result seq => Sys2Proof.Machine.execNotifyAckRx dev result seq s
  | .notifyAckTimeout seq => Sys2Proof.Machine.execNotifyAckTimeout seq s
  | .remoteCompletionRx src cell rtick tmpl g seq => Sys2Proof.Machine.execRemoteCompletionRx src cell rtick tmpl g seq s
  | .earlyEntryExpire => Sys2Proof.Machine.execEarlyEntryExpire s
  | .deadlineCheck => Sys2Proof.Machine.execDeadlineCheck s
  | .gvLoadUpdate busy => Sys2Proof.Machine.execGvLoadUpdate busy s
  | .lookaheadRecompute => Sys2Proof.Machine.execLookaheadRecompute s
  | .spareDesignateStartup => Sys2Proof.Machine.execSpareDesignateStartup s
  | .govPolicySet q => Sys2Proof.Machine.execGovPolicySet q s
  | .placeExclude q => Sys2Proof.Machine.execPlaceExclude q s
  | .govStatus q => Sys2Proof.Machine.execGovStatus q s
  | .govCellStats q => Sys2Proof.Machine.execGovCellStats q s
  | .niRequestSend n vn kind fc a len words => Sys2Proof.Machine.execNiRequestSend n vn kind fc a len words s
  | .routerPacketRx k ce headUe payUe => Sys2Proof.Machine.execRouterPacketRx k ce headUe payUe s
  | .niResponseRx n => Sys2Proof.Machine.execNiResponseRx n s
  | .niTimeout n slot => Sys2Proof.Machine.execNiTimeout n slot s
  | .niTokenRelease n vn cycles => Sys2Proof.Machine.execNiTokenRelease n vn cycles s
  | .routeEntryCommit w n e v => Sys2Proof.Machine.execRouteEntryCommit w n e v s
  | .fenceRequest d => Sys2Proof.Machine.execFenceRequest d s
  | .fenceDrainEnd d => Sys2Proof.Machine.execFenceDrainEnd d s
  | .fenceMsgRx n d => Sys2Proof.Machine.execFenceMsgRx n d s
  | .fenceAckRx n d => Sys2Proof.Machine.execFenceAckRx n d s
  | .fenceTimeout d => Sys2Proof.Machine.execFenceTimeout d s
  | .unfenceStart d => Sys2Proof.Machine.execUnfenceStart d s
  | .unfenceMsgRx n d => Sys2Proof.Machine.execUnfenceMsgRx n d s
  | .wbExpire d => Sys2Proof.Machine.execWbExpire d s
  | .rtRcfgGo w k v => Sys2Proof.Machine.execRtRcfgGo w k v s
  | .rcApply k => Sys2Proof.Machine.execRcApply k s
  | .rcQuiesceTimeout k => Sys2Proof.Machine.execRcQuiesceTimeout k s
  | .rcPortWaitTimeout k => Sys2Proof.Machine.execRcPortWaitTimeout k s
  | .niInjTmo w n => Sys2Proof.Machine.execNiInjTmo w n s
  | .rtInjArm w k port ue => Sys2Proof.Machine.execRtInjArm w k port ue s
  | .laneConfig q => Sys2Proof.Machine.execLaneConfig q s
  | .laneStatus q => Sys2Proof.Machine.execLaneStatus q s
  | .laneRetrain q => Sys2Proof.Machine.execLaneRetrain q s
  | .laneRetrainBit w n => Sys2Proof.Machine.execLaneRetrainBit w n s
  | .laneTest q => Sys2Proof.Machine.execLaneTest q s
  | .laneTestRead q => Sys2Proof.Machine.execLaneTestRead q s
  | .refclkConfig q => Sys2Proof.Machine.execRefclkConfig q s
  | .quadRef q => Sys2Proof.Machine.execQuadRef q s
  | .losChange n on => Sys2Proof.Machine.execLosChange n on s
  | .lolChange n on => Sys2Proof.Machine.execLolChange n on s
  | .trainingPhasePass n freq eqv skew sync => Sys2Proof.Machine.execTrainingPhasePass n freq eqv skew sync s
  | .trainingPhaseTimeout n => Sys2Proof.Machine.execTrainingPhaseTimeout n s
  | .backoffEnd n => Sys2Proof.Machine.execBackoffEnd n s
  | .noPartnerRetry n => Sys2Proof.Machine.execNoPartnerRetry n s
  | .eqBgStep n item v => Sys2Proof.Machine.execEqBgStep n item v s
  | .eiEntry n => Sys2Proof.Machine.execEiEntry n s
  | .eiExitRequest n => Sys2Proof.Machine.execEiExitRequest n s
  | .eiExitComplete n => Sys2Proof.Machine.execEiExitComplete n s
  | .eiSync64Missing n => Sys2Proof.Machine.execEiSync64Missing n s
  | .trackHold t => Sys2Proof.Machine.execTrackHold t s
  | .trackHoldRelease t => Sys2Proof.Machine.execTrackHoldRelease t s
  | .checkerLockLoss n bits => Sys2Proof.Machine.execCheckerLockLoss n bits s
  | .laneInjgo w n => Sys2Proof.Machine.execLaneInjgo w n s
  | .laneShellInjArm w n kind dur => Sys2Proof.Machine.execLaneShellInjArm w n kind dur s
  | .quadShellInjArm w q kind dur => Sys2Proof.Machine.execQuadShellInjArm w q kind dur s
  | .pllUnlock q pll regained => Sys2Proof.Machine.execPllUnlock q pll regained s
  | .refLoss q regained => Sys2Proof.Machine.execRefLoss q regained s
  | .fhMacConfig q => Sys2Proof.Machine.execFhMacConfig q s
  | .fhMacStatus q => Sys2Proof.Machine.execFhMacStatus q s
  | .fhFlowConfig q => Sys2Proof.Machine.execFhFlowConfig q s
  | .fhFlowStatus q => Sys2Proof.Machine.execFhFlowStatus q s
  | .ptpConfig q => Sys2Proof.Machine.execPtpConfig q s
  | .synceOutConfig q => Sys2Proof.Machine.execSynceOutConfig q s
  | .pinConfig q => Sys2Proof.Machine.execPinConfig q s
  | .ethFrameRx m f => Sys2Proof.Machine.execEthFrameRx m f s
  | .pfcFrameRx m prio quanta => Sys2Proof.Machine.execPfcFrameRx m prio quanta s
  | .pauseFrameRx m quanta => Sys2Proof.Machine.execPauseFrameRx m quanta s
  | .pfcHoldExpiry m prio => Sys2Proof.Machine.execPfcHoldExpiry m prio s
  | .pfcRepeat m prio => Sys2Proof.Machine.execPfcRepeat m prio s
  | .ecpriDmrRx m sa id rx tx => Sys2Proof.Machine.execEcpriDmrRx m sa id rx tx s
  | .fhrxJobStart m => Sys2Proof.Machine.execFhrxJobStart m s
  | .fhrxComplete m ix => Sys2Proof.Machine.execFhrxComplete m ix s
  | .fhtxJobStart m => Sys2Proof.Machine.execFhtxJobStart m s
  | .fhtxFrameEligible m ix l => Sys2Proof.Machine.execFhtxFrameEligible m ix l s
  | .fhtxFrameSent m => Sys2Proof.Machine.execFhtxFrameSent m s
  | .fhtxCloseExpire m ix l => Sys2Proof.Machine.execFhtxCloseExpire m ix l s
  | .ppsOutPulse => Sys2Proof.Machine.execPpsOutPulse s
  | .todTxSend => Sys2Proof.Machine.execTodTxSend s
  | .fcInChange k level => Sys2Proof.Machine.execFcInChange k level s
  | .gpioEdge k level => Sys2Proof.Machine.execGpioEdge k level s
  | .gpioMarkPulse k => Sys2Proof.Machine.execGpioMarkPulse k s
  | .pcieSqDoorbell p tail => Sys2Proof.Machine.execPcieSqDoorbell p tail s
  | .pennantSqEntry p e readErr => Sys2Proof.Machine.execPennantSqEntry p e readErr s
  | .hostDmaEntry p e => Sys2Proof.Machine.execHostDmaEntry p e s
  | .hostDmaComplete p data => Sys2Proof.Machine.execHostDmaComplete p data s
  | .qpEnable p log2n => Sys2Proof.Machine.execQpEnable p log2n s
  | .qpDisable p => Sys2Proof.Machine.execQpDisable p s
  | .cqHeadWrite p head => Sys2Proof.Machine.execCqHeadWrite p head s
  | .pcieFlr => Sys2Proof.Machine.execPcieFlr s
  | .pcieEpWriteRx a words => Sys2Proof.Machine.execPcieEpWriteRx a words s
  | .i3cPrivateWrite p => Sys2Proof.Machine.execI3cPrivateWrite p s
  | .i3cPrivateRead => Sys2Proof.Machine.execI3cPrivateRead s
  | .i3cEntdaa addr => Sys2Proof.Machine.execI3cEntdaa addr s
  | .i3cSetdasa static_ dyn => Sys2Proof.Machine.execI3cSetdasa static_ dyn s
  | .i3cRstdaa => Sys2Proof.Machine.execI3cRstdaa s
  | .i3cGetpid => Sys2Proof.Machine.execI3cGetpid s
  | .i3cGetbcr => Sys2Proof.Machine.execI3cGetbcr s
  | .i3cGetdcr => Sys2Proof.Machine.execI3cGetdcr s
  | .i3cGetstatus => Sys2Proof.Machine.execI3cGetstatus s
  | .i3cEnec events => Sys2Proof.Machine.execI3cEnec events s
  | .i3cDisec events => Sys2Proof.Machine.execI3cDisec events s
  | .i3cSetmwl n => Sys2Proof.Machine.execI3cSetmwl n s
  | .i3cSetmrl n => Sys2Proof.Machine.execI3cSetmrl n s
  | .i3cGetmwl => Sys2Proof.Machine.execI3cGetmwl s
  | .i3cGetmrl => Sys2Proof.Machine.execI3cGetmrl s
  | .i3cRstact action => Sys2Proof.Machine.execI3cRstact action s
  | .lacePortConfig q => Sys2Proof.Machine.execLacePortConfig q s
  | .laceJoin q => Sys2Proof.Machine.execLaceJoin q s
  | .laceLeave q => Sys2Proof.Machine.execLaceLeave q s
  | .laceStatus q => Sys2Proof.Machine.execLaceStatus q s
  | .laceRouteSet q => Sys2Proof.Machine.execLaceRouteSet q s
  | .laceExportSet q => Sys2Proof.Machine.execLaceExportSet q s
  | .laceTransitSet q => Sys2Proof.Machine.execLaceTransitSet q s
  | .laceDomainCommit q => Sys2Proof.Machine.execLaceDomainCommit q s
  | .laceMastheadHandover q => Sys2Proof.Machine.execLaceMastheadHandover q s
  | .laceMastheadDesignate q => Sys2Proof.Machine.execLaceMastheadDesignate q s
  | .hskRx p b => Sys2Proof.Machine.execHskRx p b s
  | .hskSendTimer p => Sys2Proof.Machine.execHskSendTimer p s
  | .flitRx p seq b => Sys2Proof.Machine.execFlitRx p seq b s
  | .lctlRx p b => Sys2Proof.Machine.execLctlRx p b s
  | .lctlSendTimer p => Sys2Proof.Machine.execLctlSendTimer p s
  | .replayTimeout p => Sys2Proof.Machine.execReplayTimeout p s
  | .laceLinkLoss p => Sys2Proof.Machine.execLaceLinkLoss p s
  | .markerRx p b stamp => Sys2Proof.Machine.execMarkerRx p b stamp s
  | .eieRx p b => Sys2Proof.Machine.execEieRx p b s
  | .eiIdleTimer p => Sys2Proof.Machine.execEiIdleTimer p s
  | .remotePacketRx p => Sys2Proof.Machine.execRemotePacketRx p s
  | .splice k west east => Sys2Proof.Machine.execSplice k west east s
  | .spliceTimeout k => Sys2Proof.Machine.execSpliceTimeout k s
  | .bypassCloseLeave k => Sys2Proof.Machine.execBypassCloseLeave k s
  | .mhFailover => Sys2Proof.Machine.execMhFailover s
  | .hoistLost => Sys2Proof.Machine.execHoistLost s
  | .hoistAlignStep => Sys2Proof.Machine.execHoistAlignStep s
  | .joinRequestRx want standby gone => Sys2Proof.Machine.execJoinRequestRx want standby gone s
  | .prepareRx inner => Sys2Proof.Machine.execPrepareRx inner s
  | .domainCommitDecision stream replies => Sys2Proof.Machine.execDomainCommitDecision stream replies s
  | .confirmRx op tag => Sys2Proof.Machine.execConfirmRx op tag s
  | .abortRx op tag => Sys2Proof.Machine.execAbortRx op tag s
  | .prepExpired named => Sys2Proof.Machine.execPrepExpired named s
  | .domainAckDeadline stream => Sys2Proof.Machine.execDomainAckDeadline stream s
  | .lcInjArm w p v => Sys2Proof.Machine.execLcInjArm w p v s
  | .commandPacketRx p => Sys2Proof.Machine.execCommandPacketRx p s
  | .forwardReplyRx xid st ws => Sys2Proof.Machine.execForwardReplyRx xid st ws s
  | .forwardTimeout xid => Sys2Proof.Machine.execForwardTimeout xid s
  | .laceFragmentRx src xid frag last data => Sys2Proof.Machine.execLaceFragmentRx src xid frag last data s
  | .fragmentTimeout src xid => Sys2Proof.Machine.execFragmentTimeout src xid s
  | .eventSinkDrain k => Sys2Proof.Machine.execEventSinkDrain k s
  | .devEcho q => Sys2Proof.Machine.execDevEcho q s
  | .pennantConfig q => Sys2Proof.Machine.execPennantConfig q s
  | .commitStatus q => Sys2Proof.Machine.execCommitStatus q s
  | .commitCancel q => Sys2Proof.Machine.execCommitCancel q s
  | .commitGroup q => Sys2Proof.Machine.execCommitGroup q s
  | .eventSinkSet q => Sys2Proof.Machine.execEventSinkSet q s
  | .eventEnable q => Sys2Proof.Machine.execEventEnable q s
  | .eventStatus q => Sys2Proof.Machine.execEventStatus q s
  | .pnInjArm w v => Sys2Proof.Machine.execPnInjArm w v s
  | .pwrStatus q => Sys2Proof.Machine.execPwrStatus q s
  | .pwrDomainSet q => Sys2Proof.Machine.execPwrDomainSet q s
  | .pwrLimitSet q => Sys2Proof.Machine.execPwrLimitSet q s
  | .pwrIdleConfig q => Sys2Proof.Machine.execPwrIdleConfig q s
  | .pwrFitCap q => Sys2Proof.Machine.execPwrFitCap q s
  | .fitRampEnd d => Sys2Proof.Machine.execFitRampEnd d s
  | .powerLoopStep p draws => Sys2Proof.Machine.execPowerLoopStep p draws s
  | .ilimHit d fallen => Sys2Proof.Machine.execIlimHit d fallen s
  | .ivrOverCurrent d => Sys2Proof.Machine.execIvrOverCurrent d s
  | .idleEntry d edges => Sys2Proof.Machine.execIdleEntry d edges s
  | .idleExit d => Sys2Proof.Machine.execIdleExit d s
  | .lowPowerEntryStart d idle quiet => Sys2Proof.Machine.execLowPowerEntryStart d idle quiet s
  | .entryStepDone d => Sys2Proof.Machine.execEntryStepDone d s
  | .wakeEvent d src => Sys2Proof.Machine.execWakeEvent d src s
  | .prewake d => Sys2Proof.Machine.execPrewake d s
  | .exitStepDone d bad => Sys2Proof.Machine.execExitStepDone d bad s
  | .brownOut d => Sys2Proof.Machine.execBrownOut d s
  | .ivrShellInjArm w d kind dur => Sys2Proof.Machine.execIvrShellInjArm w d kind dur s
  | .sensorSample readings => Sys2Proof.Machine.execSensorSample readings s
  | .externalTempRead t0 t1 mram => Sys2Proof.Machine.execExternalTempRead t0 t1 mram s
  | .throttleStep => Sys2Proof.Machine.execThrottleStep s
  | .throttleRecoverStep => Sys2Proof.Machine.execThrottleRecoverStep s
  | .thermalRestartTimer => Sys2Proof.Machine.execThermalRestartTimer s
  | .thermalRestartRelease bootSel laceRole => Sys2Proof.Machine.execThermalRestartRelease bootSel laceRole s
  | .sensorShellInjArm w k kind value dur => Sys2Proof.Machine.execSensorShellInjArm w k kind value dur s
  | .mramShellInjArm w kind => Sys2Proof.Machine.execMramShellInjArm w kind s
  | .thermStatus q => Sys2Proof.Machine.execThermStatus q s
  | .thermConfig q => Sys2Proof.Machine.execThermConfig q s
  | .thermRestart q => Sys2Proof.Machine.execThermRestart q s
  | .journalRead q => Sys2Proof.Machine.execJournalRead q s
  | .ledgerRead q => Sys2Proof.Machine.execLedgerRead q s
  | .journalCompact q => Sys2Proof.Machine.execJournalCompact q s
  | .compaction => Sys2Proof.Machine.execCompaction s
  | .bootProfileBegin q => Sys2Proof.Machine.execBootProfileBegin q s
  | .bootProfileData q => Sys2Proof.Machine.execBootProfileData q s
  | .bootProfileCommit q => Sys2Proof.Machine.execBootProfileCommit q s
  | .bootProfileClear q => Sys2Proof.Machine.execBootProfileClear q s
  | .bootProfileRead q => Sys2Proof.Machine.execBootProfileRead q s
  | .ledgerSecondUpdate avg => Sys2Proof.Machine.execLedgerSecondUpdate avg s
  | .ledgerPeriodicWrite => Sys2Proof.Machine.execLedgerPeriodicWrite s
  | .telemetrySample => Sys2Proof.Machine.execTelemetrySample s
  | .mpWatchdogExpiry pair => Sys2Proof.Machine.execMpWatchdogExpiry pair s
  | .lockstepMismatch pair => Sys2Proof.Machine.execLockstepMismatch pair s
  | .detStatus q => Sys2Proof.Machine.execDetStatus q s
  | .detInject q => Sys2Proof.Machine.execDetInject q s
  | .detLogRead q => Sys2Proof.Machine.execDetLogRead q s
  | .pwrOkRise freq => Sys2Proof.Machine.execPwrOkRise freq s
  | .pwrOkFall => Sys2Proof.Machine.execPwrOkFall s
  | .supplyOutOfRange => Sys2Proof.Machine.execSupplyOutOfRange s
  | .oscInLoss => Sys2Proof.Machine.execOscInLoss s
  | .resetNAssert => Sys2Proof.Machine.execResetNAssert s
  | .resetRelease bootSel laceRole => Sys2Proof.Machine.execResetRelease bootSel laceRole s
  | .imageFetchComplete img clean => Sys2Proof.Machine.execImageFetchComplete img clean s
  | .bootPushGo w => Sys2Proof.Machine.execBootPushGo w s
  | .laceBootChunkRx idx ws => Sys2Proof.Machine.execLaceBootChunkRx idx ws s
  | .laceBootRetry => Sys2Proof.Machine.execLaceBootRetry s
  | .urvarStartup => Sys2Proof.Machine.execUrvarStartup s
  | .fwStatus q => Sys2Proof.Machine.execFwStatus q s
  | .fwUpdateBegin q => Sys2Proof.Machine.execFwUpdateBegin q s
  | .fwUpdateData q => Sys2Proof.Machine.execFwUpdateData q s
  | .fwActivateActivate q flashOk => Sys2Proof.Machine.execFwActivateActivate q flashOk s
  | .fwActivateConfirm q raise_ => Sys2Proof.Machine.execFwActivateConfirm q raise_ s
  | .fwActivateFallback => Sys2Proof.Machine.execFwActivateFallback s
  | .idCertRead q => Sys2Proof.Machine.execIdCertRead q s
  | .attestQuote q => Sys2Proof.Machine.execAttestQuote q s
  | .attestLog q first => Sys2Proof.Machine.execAttestLog q first s
  | .ownerKeyInstall q => Sys2Proof.Machine.execOwnerKeyInstall q s
  | .debugUnlockChallenge q => Sys2Proof.Machine.execDebugUnlockChallenge q s
  | .debugUnlockOpen q => Sys2Proof.Machine.execDebugUnlockOpen q s
  | .debugUnlockClose q => Sys2Proof.Machine.execDebugUnlockClose q s
  | .diagSessionChallenge q => Sys2Proof.Machine.execDiagSessionChallenge q s
  | .diagSessionOpen q => Sys2Proof.Machine.execDiagSessionOpen q s
  | .diagSessionClose q => Sys2Proof.Machine.execDiagSessionClose q s
  | .challengeExpiry kind => Sys2Proof.Machine.execChallengeExpiry kind s
  | .checkerLock n bits => Sys2Proof.Machine.execCheckerLock n bits s
  | .pcieLinkStateChange up train => Sys2Proof.Machine.execPcieLinkStateChange up train s
  | .vaoRise => Sys2Proof.Machine.execVaoRise s
  | .vaoLoss => Sys2Proof.Machine.execVaoLoss s
  | .debugRequest id => Sys2Proof.Machine.execDebugRequest id s
  | .confirmAckRx stream dev => Sys2Proof.Machine.execConfirmAckRx stream dev s
  | .joinGrantRx granted mh epoch standby => Sys2Proof.Machine.execJoinGrantRx granted mh epoch standby s

end Sys2Proof.Machine
end

