-- ==== Sys2Proof/Machine/Step.lean ====
section
/-! DEFINITION. One step of the block: the command at the front of the queue, or four periods of the air-time clock. -/

namespace Sys2Proof.Machine

/-- One step: exec of the command at the front of the queue on the state with the queue's rest.
DESIGN CHOICE, unsafe: log entry 1.
DESIGN CHOICE, safe: log entry 4. -/
def step (s : State) : Host.Outcome State Fault Refusal :=
  match s.pending with
  | [] => .next (clockEdge s)
  | c :: r => exec c { s with pending := r }

/-- The state with the command that a table word spells put at the front of its queue; unchanged where it spells none. -/
def State.withFetchWord (s : State) (nbits w : Nat) : State :=
  match Sys2Proof.decodeTableWord nbits w with
  | some c => { s with pending := c :: s.pending }
  | none => s

end Sys2Proof.Machine
end

