-- ==== Sys2Proof/Safety.lean ====
section
/-! DEFINITION. What a safe step and a well-kept state are, in the terms the statements use. -/

namespace Sys2Proof.Machine

/-- The step of a state answers a next state: the block neither faults nor refuses. -/
def Runs (s : State) : Prop := ∃ t, step s = .next t

/-- A sink's buffer holds at most 256 events (R485). -/
def SinkOk (b : Sink) : Prop := b.buf.length ≤ 256

/-- The streams of the commands that execute and hold their stream. -/
def heldStreams (p : Pennant) : List Nat := p.held.map fun h => h.req.stream.val

/-- The sinks are within their size (R485), and no stream executes two commands (R490). -/
structure PnOk (p : Pennant) : Prop where
  pcie : SinkOk p.pcieSink
  i3c : SinkOk p.i3cSink
  lace : SinkOk p.laceSink
  held : (heldStreams p).Nodup

/-- Fuses only go one way (R589): no security-version step is undone, and an owner key that is fused stays. -/
structure FuseUp (b c : Boot) : Prop where
  steps : b.svSteps ≤ c.svSteps
  owner : ∀ k, b.ownerFused = some k → c.ownerFused = some k

/-- The well-kept state: the register file and the memories are in their canonical form, there are 39 power domains, and the
Pennant is within its bounds. -/
structure Inv (s : State) : Prop where
  regs : keysRise s.regs = true
  mem : s.mem.wf = true
  dom : s.dom.length = 39
  pn : PnOk s.pn

/-! ## Commands that start at once -/

/-- A command's record in its stream. -/
def heldOf (op : Nat) (q : Req) : Held := { opcode := op, req := q }

/-- A command starts at once: Urvar accepts commands or it stands in stream 10, no command waits, its stream is free and has
delivered its earlier replies (R490, R491), and its transport and session permit it (R500). -/
structure Starts (s : State) (op : Nat) (q : Req) : Prop where
  up : fwUp s = true ∨ q.stream.val = 10
  idle : s.pn.waiting = []
  free : streamBusy s q.stream.val = false
  told : q.stream.val < 8 → replyWaits s q.stream.val = false
  allowed : permitted s op q = true

/-- The state in which a command's body runs: the command holds its stream. -/
def seated (s : State) (op : Nat) (q : Req) : State := setPn s fun p => { p with held := p.held ++ [heldOf op q] }

/-- The command has left its stream. -/
def unseated (s : State) (op : Nat) (q : Req) : State :=
  setPn s fun p => { p with held := removeFirst (fun x => decide (x = heldOf op q)) p.held }

/-- A command has had its effect `f`, left its stream and replied OK with the words `ws`. -/
def answered (s : State) (op : Nat) (q : Req) (f : State → State) (ws : List W32) : State :=
  reply (unseated (f (seated s op q)) op q) op q .ok ws

/-- The opcode and the request of a Pennant command, as its row gives them (R500); `FW_ACTIVATE` with OP ACTIVATE, whose row
also says whether the flash will take its write, apart. -/
def commandOf : Instr → Option (Nat × Req)
  | .devCaps q => some (0x0102, q)
  | .devEcho q => some (0x0101, q)
  | .pennantConfig q => some (0x0103, q)
  | .hbmPartition q => some (0x0110, q)
  | .queueConfig q => some (0x0111, q)
  | .queueStatus q => some (0x0112, q)
  | .commitStatus q => some (0x0201, q)
  | .commitCancel q => some (0x0202, q)
  | .commitGroup q => some (0x0203, q)
  | .cellStart q => some (0x0301, q)
  | .cellStop q => some (0x0302, q)
  | .patternLoad q => some (0x0303, q)
  | .patternUnload q => some (0x0304, q)
  | .patternStatus q => some (0x0305, q)
  | .slotreqRingConfig q => some (0x0306, q)
  | .cordStatus q => some (0x0307, q)
  | .govPolicySet q => some (0x0308, q)
  | .placeExclude q => some (0x0309, q)
  | .govStatus q => some (0x030A, q)
  | .govCellStats q => some (0x030B, q)
  | .laneConfig q => some (0x0401, q)
  | .laneStatus q => some (0x0402, q)
  | .laneRetrain q => some (0x0403, q)
  | .laneTest q => some (0x0404, q)
  | .laneTestRead q => some (0x0405, q)
  | .refclkConfig q => some (0x0406, q)
  | .quadRef q => some (0x0407, q)
  | .fhMacConfig q => some (0x0501, q)
  | .fhMacStatus q => some (0x0502, q)
  | .fhFlowConfig q => some (0x0503, q)
  | .fhFlowStatus q => some (0x0504, q)
  | .ptpConfig q => some (0x0505, q)
  | .synceOutConfig q => some (0x0506, q)
  | .pinConfig q => some (0x0507, q)
  | .lacePortConfig q => some (0x0601, q)
  | .laceJoin q => some (0x0602, q)
  | .laceLeave q => some (0x0603, q)
  | .laceStatus q => some (0x0604, q)
  | .laceRouteSet q => some (0x0605, q)
  | .laceExportSet q => some (0x0606, q)
  | .laceTransitSet q => some (0x0607, q)
  | .laceDomainCommit q => some (0x0608, q)
  | .laceMastheadHandover q => some (0x0609, withBit0 q false)
  | .laceMastheadDesignate q => some (0x0609, withBit0 q true)
  | .timeStatus q => some (0x0701, q)
  | .timeRefConfig q => some (0x0702, q)
  | .timeStep q => some (0x0703, q)
  | .timeStepCancel q => some (0x0704, q)
  | .tddTableSet q => some (0x0705, q)
  | .pwrStatus q => some (0x0801, q)
  | .pwrDomainSet q => some (0x0802, q)
  | .pwrLimitSet q => some (0x0803, q)
  | .pwrIdleConfig q => some (0x0804, q)
  | .pwrFitCap q => some (0x0805, q)
  | .thermStatus q => some (0x0901, q)
  | .thermConfig q => some (0x0902, q)
  | .thermRestart q => some (0x0903, q)
  | .journalRead q => some (0x0A01, q)
  | .ledgerRead q => some (0x0A02, q)
  | .journalCompact q => some (0x0A03, q)
  | .bootProfileBegin q => some (0x0A04, withOp q 0)
  | .bootProfileData q => some (0x0A04, withOp q 1)
  | .bootProfileCommit q => some (0x0A04, withOp q 2)
  | .bootProfileClear q => some (0x0A04, withOp q 3)
  | .bootProfileRead q => some (0x0A05, q)
  | .cmaStatus q => some (0x0B01, q)
  | .cmaCalibrate q => some (0x0B02, q)
  | .cmaConfig q => some (0x0B03, q)
  | .cmaPreload q => some (0x0B04, q)
  | .cmaService q => some (0x0B05, q)
  | .detStatus q => some (0x0C01, q)
  | .detInject q => some (0x0C02, q)
  | .detLogRead q => some (0x0C03, q)
  | .fwStatus q => some (0x0D01, q)
  | .fwUpdateBegin q => some (0x0D02, q)
  | .fwUpdateData q => some (0x0D03, q)
  | .fwActivateConfirm q raise_ => some (0x0D04, withOp q (1 + 2 * b2n raise_))
  | .idCertRead q => some (0x0D05, q)
  | .attestQuote q => some (0x0D06, withOp q 0)
  | .attestLog q first => some (0x0D06, withOp q (1 + 2 * first.val))
  | .ownerKeyInstall q => some (0x0D07, q)
  | .debugUnlockChallenge q => some (0x0D08, withOp q 0)
  | .debugUnlockOpen q => some (0x0D08, withOp q 1)
  | .debugUnlockClose q => some (0x0D08, withOp q 2)
  | .diagSessionChallenge q => some (0x0D09, withOp q 0)
  | .diagSessionOpen q => some (0x0D09, withOp q 1)
  | .diagSessionClose q => some (0x0D09, withOp q 2)
  | .eventSinkSet q => some (0x0E01, q)
  | .eventEnable q => some (0x0E02, q)
  | .eventStatus q => some (0x0E03, q)
  | _ => none

/-! ## Bundles of one instruction -/

/-- A core runs and is as `c` when a bundle that reads `reads` takes effect: the results due have landed, outside a hold region
no register read has a write in flight (R74), and a hold region has room for the bundle (R76). -/
structure Finds (s : State) (id : CoreId) (reads : List Dst) (c : Core) : Prop where
  runs : coreRuns s id.bench.val id.core.val = true
  core : c = if bit (coreOf s id.bench.val id.core.val).tick.status 16 then (coreOf s id.bench.val id.core.val).tick
    else Core.waitFor reads 8 (coreOf s id.bench.val id.core.val).tick
  room : bit c.status 16 = true → c.holdN < 512

/-- Two free values have been taken: what a bundle's result may leave open, and the cycles it takes. -/
def drawn (s : State) : State := { s with freeCtr := s.freeCtr + 2 }

/-- A core after a bundle's results have entered the pipeline; a hold region counts its bundle. -/
def Core.ran (c : Core) (ws : List (Dst × Val × Nat)) : Core :=
  let x := ws.foldl (Core.send (bit c.status 16)) c
  if bit x.status 16 then { x with holdN := x.holdN + 1 } else x

/-- The core and the next pc after a bundle that does not branch, with the loop-end actions (R100). -/
def Core.moved (c : Core) (ws : List (Dst × Val × Nat)) : Core × W32 := (c.ran ws).loopEnd c.pc (c.pc + 16)

/-- The state after a bundle issued in state `s`: `t` is the state its accesses left, `x` the core and its next pc, `f` the
flags it sets. Of the bundles prefetched those on the way of the next pc remain (R85). -/
def bundled (s t : State) (id : CoreId) (x : Core × W32) (f : Sticky) : State :=
  putCore t id.bench.val id.core.val { x.1 with
    pc := x.2, status := x.1.status ||| f.status, pre := x.1.ahead x.2,
    cycle := x.1.cycle + BitVec.ofNat 64 (1 + (Config.freeWord (s.freeCtr + 1)).toNat % 2 ^ 20) }

/-- A bundle that only writes registers and sets flags. -/
def plain (s : State) (id : CoreId) (c : Core) (ws : List (Dst × Val × Nat)) (f : Sticky) : State :=
  bundled s (drawn s) id (c.moved ws) f

/-- The same after an element-precise form, which clears `VEIX` (R139). -/
def Core.precisely (c : Core) (ws : List (Dst × Val × Nat)) : Core × W32 := ({ (c.moved ws).1 with veix := 0 }, (c.moved ws).2)

/-- A branch: its outcome, and whether the predictor had expected another address than it goes on at, is noted until it
resolves (R77); a taken one wins over the loop end. -/
def Core.branched (c : Core) (ws : List (Dst × Val × Nat)) (guess : W32) (taken : Bool) (t : W32) : Core × W32 :=
  let br : BrInfo := { pc := c.pc, taken := taken, target := t, missed := decide (guess ≠ if taken then t else c.pc + 16) }
  let x := Core.ran { c with open_ := c.open_ ++ [br] } ws
  if taken then (x, t) else x.loopEnd c.pc (c.pc + 16)

/-- A core has entered its handler (R107): the results in flight have landed, and the cause, `BADADDR` and the offset of the
entry are as given. -/
def entered (c : Core) (cause : W32) (bad : W32) (off : W32) : Core :=
  let x := c.landAll
  { x with
    estatus := x.status, epc := x.pc, cause := setBit cause 9 (bit x.status 16), badaddr := bad,
    holdPc := if bit x.status 16 then x.holdAt else x.holdPc, holdN := 0, pre := [],
    status := setFld (setFld x.status 16 12 0) 18 17 (if x.pl = 0 then 0 else 1),
    pc := (if x.pl = 0 then x.fvec else x.evec) + off }

/-- The pointer write of an access. -/
def stepped (p : Nat) (ad : Addr) : List (Dst × Val × Nat) :=
  match ad.upd with
  | none => []
  | some v => [(.p p, .w v, 1)]

/-- One result per active element of width w, from elements of width v of some registers: its index, its bits, its poison
(R122) and whether a flag is due. -/
def eachEl (c : Core) (k w v : Nat) (src : Nat → List (VReg × Nat)) (f : Nat → List Nat → Nat × Bool) : List (Nat × Nat × Bool × Bool) :=
  (c.actives k w).map fun e =>
    let r := f e ((src e).map fun p => p.1.get v p.2)
    (e, r.1, (src e).any fun p => p.1.bad v p.2, r.2)

/-- The write of such results to vector register d. -/
def elWrite (c : Core) (d w lat : Nat) (l : List (Nat × Nat × Bool × Bool)) : Dst × Val × Nat :=
  (.v (c.vIdx d), vWrite w (l.map fun x => (x.1, x.2.1, x.2.2.1)), lat)

/-- Some result asks for the flag. -/
def elFlag (l : List (Nat × Nat × Bool × Bool)) : Bool := l.any fun x => x.2.2.2

/-! ## Instructions of a Shank -/

/-- A Shank runs a task and its PC lies in its program memory (R146, R151). -/
structure ShReady (s : State) (b : Nat) : Prop where
  here : benchHere s.variant b = true
  up : goesOn s b = true
  run : rdF s R.shStat b 0 9 8 = 1
  task : (shankOf s b).task.isSome = true
  pc : (shankOf s b).pc < 8192

/-- The state after a Shank instruction that does not branch: `h` is the engine it leaves, `f` its flags (R147).
DESIGN CHOICE, safe: log entry 61.
DEDUCED, safe: log entry 109. -/
def shLeft (t : State) (b : Nat) (h : Shank) (f : Sticky) : State :=
  putShank (raiseI t E.sh b 0 f.shank) b { h with
    pc := (shLoopEnd h.pc h.loops).2, loops := (shLoopEnd h.pc h.loops).1, resume := false }

/-- The state after a taken branch. -/
def shWent (t : State) (b : Nat) (h : Shank) (target : Int) : State :=
  putShank (raiseI t E.sh b 0 0) b { h with pc := wrapTo 32 target, resume := false }

/-- One result per active element of type t from elements of some registers: its index, its bits with the flags it asks for,
its poison. -/
def shEach (h : Shank) (t m : Nat) (ops : List (List LWord)) (g : List Nat → Nat × Bool × Bool) : List (Nat × (Nat × Bool × Bool) × Bool) :=
  (h.acts t m).map fun e => (e, g (ops.map fun l => (lGet l t e).1), ops.any fun l => (lGet l t e).2)

/-- Such results written to long register d. -/
def shPut (h : Shank) (d t : Nat) (l : List (Nat × (Nat × Bool × Bool) × Bool)) : Shank :=
  { h with l := setNth h.l d (lPut t (h.rl d) (l.map fun x => (x.1, x.2.1.1, x.2.2))) }

/-- The flags of such results: saturation and flush. -/
def shFlags (l : List (Nat × (Nat × Bool × Bool) × Bool)) : Sticky := { vsat := l.any (fun x => x.2.1.2.1), ftz := l.any fun x => x.2.1.2.2 }

end Sys2Proof.Machine
end

