-- ==== Sys2Proof/Certificates/Slice0/Obligations.lean ====
section
/-! DEFINITION. The statements for the provers. -/

open Sys2Proof Sys2Proof.Machine

/-- A step with a command at the front of the queue is exec of that command on the state with the queue's rest. -/
def Obligations.StepRunsFront : Prop :=
  ∀ (s : State) (c : Instr) (r : List Instr), step { s with pending := c :: r } = exec c { s with pending := r }

/-- With no command waiting, a step is one cycle of the timing clock: air-time advances 4 Tc, the shell writes posted since the
last one act, waiting Pennant commands and a start-up that can go on do so, and a running Shank looks at the word it is at. That
the idle step stands for a clock edge is the model's choice (log entries 1 and 134). -/
def Obligations.IdleStepIsClockEdge : Prop :=
  ∀ s : State, s.pending = [] →
    step s = .next ((List.range 16).foldl shFetch (progress (takePosted { s with ats := s.ats + 4 })))

/-- What reset leaves: register values from the register tables, and every queue, sink and stream empty. -/
def Obligations.ResetRegisters : Prop :=
  rd State.reset R.atCtl = 0xA0F#32 ∧ rd State.reset R.atStat = 0#32 ∧ rd State.reset R.atHoldErr = 0xFFFFFFFF#32 ∧
  rd State.reset R.atHoldCfg = 0x01F40032#32 ∧ rd State.reset R.atHoldLim = 0x5DC#32 ∧ rd State.reset R.atsOffset = 0#32 ∧
  rd State.reset R.hbmCfg 1 = 0x118#32 ∧ rd State.reset R.timEvt = 0#32 ∧ rd State.reset R.timEvtEn = 0#32 ∧
  State.reset.pn.held = [] ∧ State.reset.pn.waiting = [] ∧ State.reset.pn.commits = [] ∧ State.reset.pn.pcieSink.buf = [] ∧
  State.reset.queues = [] ∧ State.reset.cord.tasks = [] ∧ State.reset.cord.cells = []

/-- The state after reset is well kept. -/
def Obligations.ResetIsWellKept : Prop := Inv State.reset

/-- Every step keeps the invariant: canonical register file and memories, 39 power domains, event sinks within 256 events
(R485), and no stream with two executing commands (R490). -/
def Obligations.StepKeepsInv : Prop := ∀ s t : State, Inv s → step s = .next t → Inv t

/-- Every step answers a next state, of the same fused variant, and takes exactly the front command from the queue. -/
def Obligations.EveryStepRuns : Prop :=
  ∀ s : State, ∃ t, step s = .next t ∧ t.variant = s.variant ∧ t.pending = s.pending.tail

/-- No step of the block, a reset or a loss of power included, clears a blown fuse (R589). -/
def Obligations.FusesStand : Prop := ∀ s t : State, step s = .next t → FuseUp s.boot t.boot

/-- A register written reads back; every register with another key reads as before; nothing else in the state changes. -/
def Obligations.RegisterReadBack : Prop :=
  ∀ (s : State) (r : Reg) (u i : Nat) (v : W32), keysRise s.regs = true →
    rd (wr s r u i v) r u i = v ∧
    (∀ (r' : Reg) (u' i' : Nat), r'.key u' i' ≠ r.key u i → rd (wr s r u i v) r' u' i' = rd s r' u' i') ∧
    { wr s r u i v with regs := s.regs } = s

/-- Hardware raises bit k of a timing event: the bit latches, the counter rises, and the rest of the state is as before. -/
def Obligations.EventLatchesAndCounts : Prop :=
  ∀ (s : State) (k : Nat), k < 9 → keysRise s.regs = true →
    rd (raise s E.tim 0 k) R.timEvt = rd s R.timEvt ||| w32 (2 ^ k) ∧
    rd (raise s E.tim 0 k) R.timEvtCnt = w32 (satU 32 ((rd s R.timEvtCnt).toNat + 1)) ∧
    { raise s E.tim 0 k with regs := s.regs, pn := s.pn, host := s.host } = s

/-- Within a stream each command starts only after the one before it has replied (R490): a command that finds its stream
executing waits, and nothing else changes. Stated for a block in which no other command waits. -/
def Obligations.CommandWaitsForItsStream : Prop :=
  ∀ (c : Instr) (op : Nat) (q : Req) (s : State), commandOf c = some (op, q) → s.pn.waiting = [] →
    streamBusy s q.stream.val = true → exec c s = .next (setPn s fun p => { p with waiting := [heldOf op q] })

/-- A command that R500 does not open to I3C is answered `NOT_PERMITTED` there and has no other effect. -/
def Obligations.CommandOutsideI3cSet : Prop :=
  ∀ (c : Instr) (op : Nat) (q : Req) (s : State), commandOf c = some (op, q) → op ∉ i3cOps → q.stream.val = 8 →
    fwUp s = true → s.pn.waiting = [] → streamBusy s 8 = false → exec c s = .next (reply s op q .notPermitted [])

/-- R31, with the 4 Tc resolution of R30: an `ATS_LO` read captures the instant for its reader; no other initiator's capture
and nothing else changes. -/
def Obligations.AirTimeCapture : Prop :=
  ∀ (who : Nat) (s : State), keysRise s.tim.captures = true → ∃ t, exec (.atsCaptureRead who) s = .next t ∧
    captureView t who 0x48 = lo32 (s.ats.toNat / 4 * 4) ∧ captureView t who 0x4C = hi32 (s.ats.toNat / 4 * 4) ∧
    captureView t who 0x50 = rd s R.atsOffset ∧ captureView t who 0x54 = atHfn s.ats.toNat ∧
    captureView t who 0x58 = atFrame s.ats.toNat ∧ captureView t who 0x5C = atSlot s.ats.toNat ∧
    captureView t who 0x60 = atSym s.ats.toNat ∧ captureView t who 0x64 = lo32 (s.ats.toNat / 4096) ∧
    captureView t who 0x68 = hi32 (s.ats.toNat / 4096) ∧
    (∀ other off, other ≠ who → captureView t other off = captureView s other off) ∧
    { t with tim := { t.tim with captures := s.tim.captures } } = s

/-- R32–R34: what `REF_QUALIFY`, `REF_LOST`, `FREQ_SETTLED`, `REVERT_HOLDOFF_EXPIRY`, `PHASE_MEASUREMENT` and
`PPS_EDGE_MISSED` do to the timing unit. 1PPS qualifies after 4 good edges, and is lost after 2 missed ones; the Hoist qualifies
while `hoistGood` holds, PTP with a profile and a port up (log entry 147), SyncE while track RC0 runs and does not hold. That PTP may bring the leap seconds as it qualifies is the model's reading: whether it does is open. -/
def Obligations.ReferenceTransitions : Prop :=
  (∀ (r : Fin 4) (s : State), r.val = 1 ∧ 4 ≤ s.tim.edges ∨
      r.val = 3 ∧ rdB s R.rclkSel 0 0 8 = true ∧ rdB s R.rclkSel 0 0 9 = false →
    exec (.refQualify r) s = .next (considerRefs (wrB s R.atStat 0 0 (5 + r.val) true))) ∧
  (∀ s : State, hoistGood s = true →
    exec (.refQualify 0) s = .next (considerRefs (wrB (wrB s R.ldHoist 0 0 9 true) R.atStat 0 0 5 true))) ∧
  (∀ s : State, hoistGood s = false → exec (.refQualify 0) s = .next s) ∧
  (∀ (r : Fin 4) (s : State), r.val = 1 ∧ s.tim.edges < 4 ∨ r.val = 2 ∧ ptpRuns s = false ∨
      r.val = 3 ∧ (rdB s R.rclkSel 0 0 8 = false ∨ rdB s R.rclkSel 0 0 9 = true) → exec (.refQualify r) s = .next s) ∧
  (∀ s : State, ptpRuns s = true → ∃ t, exec (.refQualify 2) s = .next t ∧
    { t with freeCtr := (considerRefs (wrB s R.atStat 0 0 7 true)).freeCtr,
             tim := { t.tim with leaps := (considerRefs (wrB s R.atStat 0 0 7 true)).tim.leaps } } =
      considerRefs (wrB s R.atStat 0 0 7 true)) ∧
  (∀ s : State, exec (.refLost 0) s = .next (considerRefs (wrB (wrB s R.ldHoist 0 0 9 false) R.atStat 0 0 5 false))) ∧
  (∀ (r : Fin 4) (s : State), 2 ≤ r.val → exec (.refLost r) s = .next (considerRefs (wrB s R.atStat 0 0 (5 + r.val) false))) ∧
  (∀ s : State, 2 ≤ s.tim.missed → exec (.refLost 1) s =
    .next (considerRefs (setTim (wrB s R.atStat 0 0 6 false) fun t => { t with edges := 0 }))) ∧
  (∀ s : State, timState s = 0 → bestRef s ≠ 0 → considerRefs s = syncHoldLim (syncAssist
    (raise (wrF (setTimState s 1) R.atStat 0 0 4 3 (bestRef s)) E.tim 0 1))) ∧
  (∀ s : State, timState s = 1 → (sext 32 (rd s R.atPhaseErr).toNat).natAbs ≤ 1966 → exec .freqSettled s =
    .next (syncHoldLim (setTim (wr (wrB (setTimState s 2) R.atStat 0 0 10 false) R.atHoldErr 0 0 0) fun t =>
      { t with estKnown := true }))) ∧
  (∀ s : State, timState s = 1 → 1966 < (sext 32 (rd s R.atPhaseErr).toNat).natAbs → rdB s R.atStat 0 0 10 = false →
    exec .freqSettled s = .next (if rdB (setTimState s 3) R.atStat 0 0 10 then setTimState s 3
      else raise (wrB (setTimState s 3) R.atStat 0 0 10 true) E.tim 0 4)) ∧
  (∀ (r : Fin 3) (s : State), timState s = 2 ∨ timState s = 3 → rdF s R.atCtl 0 0 15 8 ≠ 0 → r.val + 1 < refInUse s →
    refGood s r.val = true → exec (.revertHoldoffExpiry r) s =
    .next (syncHoldLim (raise (wrF (setTimState s 1) R.atStat 0 0 4 3 (r.val + 1)) E.tim 0 1))) ∧
  (∀ (e : Int) (f : W32) (s : State), refInUse s ≠ 0 → timState s = 1 → exec (.phaseMeasurement e f) s =
    .next (setTim (wr (wr s R.atPhaseErr 0 0 (satErr e)) R.atFreqOff 0 0 f) fun t => { t with lastErr := e.natAbs })) ∧
  (∀ s : State, exec .ppsEdgeMissed s =
    .next (raise (setTim s fun t => { t with missed := t.missed + 1, edges := 0, todFresh := none }) E.tim 0 8))

/-- R420 and R421: what an edge of `PPS_IN`, a time-of-day message, a `PPS_OUT` pulse and the message sent leave. Flag bits 1
and 2 of the message sent are not stated: a free value. R35 and R40: `HOLDOVER_ESTIMATE_UPDATE` and `TIME_STEP_APPLY`. Which way the estimate is rounded to ns is open: the
statement allows both. -/
def Obligations.PinsHoldoverSteps : Prop :=
  (∀ (stamp : W64) (s : State) (p : Nat), ppsIgnored s = false → s.tim.lastEdge = some p → s.tim.todFresh ≠ none →
    p + tcPerSec ≤ wrapTo 64 (stamp.toNat + sext 32 s.tim.ppsComp.toNat) + 19660 →
    wrapTo 64 (stamp.toNat + sext 32 s.tim.ppsComp.toNat) ≤ p + tcPerSec + 19660 →
    exec (.ppsInEdge stamp true) s = .next (setTim s fun a => { a with
      edges := Nat.min 4 (s.tim.edges + 1), missed := 0,
      lastEdge := some (wrapTo 64 (stamp.toNat + sext 32 s.tim.ppsComp.toNat)), todFresh := none })) ∧
  (∀ (stamp : W64) (s : State), ppsIgnored s = false → exec (.ppsInEdge stamp false) s = .next s) ∧
  (∀ (bytes : List Byte) (s : State), todValid bytes = true → exec (.todMessageRx bytes true) s =
    .next (setTim s fun a => { a with todFresh := some (ofBytes ((bytes.drop 4).take 6)), leaps := some (nth bytes 10 0) })) ∧
  (∀ (bytes : List Byte) (b : Bool) (s : State), todValid bytes = false ∨ b = false → exec (.todMessageRx bytes b) s = .next s) ∧
  (∀ s : State, (ppsDue s = true → exec .ppsOutPulse s = .next (setTim s fun a => { a with ppsOut := some ((ppsBase s + 2) / tcPerSec) })) ∧
    (ppsDue s = false → exec .ppsOutPulse s = .next s)) ∧
  (∀ s : State, ∃ t m, exec .todTxSend s = .next t ∧ t.tim.todOut = some m ∧ m.length = 18 ∧
    ofBytes (m.take 4) = 0x0C014ED7 ∧ ofBytes ((m.drop 4).take 6) = (ppsBase s / tcPerSec + 1) % 2 ^ 48 ∧
    ofBytes ((m.drop 16).take 2) = (crc16 ((m.drop 2).take 14)).toNat ∧
    { t with tim := { t.tim with todOut := s.tim.todOut }, freeCtr := s.freeCtr } = s) ∧
  (∀ s : State, timState s = 4 → keysRise s.regs = true → ∃ t n, exec .holdoverEstimateUpdate s = .next t ∧
    t.tim.held = s.tim.held + 1 ∧
    (n = (holdEst s.tim.e0 (rdF s R.atHoldCfg 0 0 15 0) (rdF s R.atHoldCfg 0 0 31 16) (s.tim.held + 1) (rdB s R.atStat 0 0 9)).1 ∨
     n = (holdEst s.tim.e0 (rdF s R.atHoldCfg 0 0 15 0) (rdF s R.atHoldCfg 0 0 31 16) (s.tim.held + 1) (rdB s R.atStat 0 0 9)).1 + 1) ∧
    rd t R.atHoldErr = w32 (satU 32 n) ∧ t.mem = s.mem ∧ t.ats = s.ats) ∧
  (∀ (e : Int) (s : State) (c : Commit), pendingStep s = some c → c.prepared = false → c.bnd ≤ s.ats.toNat →
    fld (nth c.params 0 0#32) 1 0 ≠ 1 → ∃ t, exec (.timeStepApply e) s = .next t ∧ t = applyStep (applyDue s) c e ∧
    t.ats = BitVec.ofNat 64 (wrapTo 64 ((applyDue s).ats.toNat + stepDelta (applyDue s) c.params e)) ∧ pendingStep t = none)

/-- The worked example of the air-time chapter: where the stamp 2,818,572,293,907,449,104 lies. -/
def Obligations.AirTimeWorkedExample : Prop :=
  (atHfn 2818572293907449104).toNat = 140000000 ∧ fld (atFrame 2818572293907449104) 9 0 = 300 ∧
  fld (atFrame 2818572293907449104) 13 10 = 4 ∧ fld (atFrame 2818572293907449104) 31 14 = 2248 ∧
  fld (atSlot 2818572293907449104) 8 4 = 9 ∧ fld (atSym 2818572293907449104) 7 4 = 5 ∧
  lo32 (2818572293907449104 / 4096) = 0x491601C8#32 ∧ hi32 (2818572293907449104 / 4096) = 0x271D9#32

/-- R501, for a command that starts at once: nothing but the reply. -/
def Obligations.DevEchoReplies : Prop :=
  ∀ (q : Req) (s : State), Starts s 0x0101 q →
    (q.params.length ≤ 16 → exec (.devEcho q) s = .next (reply s 0x0101 q .ok q.params)) ∧
    (16 < q.params.length → exec (.devEcho q) s = .next (reply s 0x0101 q .lengthRange []))

/-- R482 and R509, for streams 0–7 and 9: what a reply records and counts, and what it leaves alone. -/
def Obligations.ReplyIsRecorded : Prop :=
  ∀ (s : State) (op : Nat) (q : Req) (st : Status) (ws : List W32), q.stream.val < 8 ∨ q.stream.val = 9 →
    (reply s op q st ws).pn.replies = s.pn.replies ++
      [{ stream := q.stream.val, tag := q.tag, opcode := op, self := q.self, target := q.source,
         crcv := replyCrc s q, status := st, words := ws }] ∧
    (keysRise s.regs = true → rd64 (reply s op q st ws) R.pnCount 0 0 = (rd64 s R.pnCount 0 0 + 1) % 2 ^ 64 ∧
      rd64 (reply s op q st ws) R.pnCount 0 1 = (rd64 s R.pnCount 0 1 + (if st = .ok then 0 else 1)) % 2 ^ 64) ∧
    (reply s op q st ws).mem = s.mem ∧ (reply s op q st ws).ats = s.ats ∧ (reply s op q st ws).queues = s.queues ∧
    (reply s op q st ws).cord = s.cord ∧ (reply s op q st ws).dom = s.dom ∧ (reply s op q st ws).pn.held = s.pn.held

/-- R7, R47, R502–R504 and R506–R508, for commands that start at once with parameters as their rules want them. -/
def Obligations.PennantCommands : Prop :=
  (∀ (q : Req) (s : State), Starts s 0x0102 q → q.params = [] → ∃ lo hi, exec (.devCaps q) s =
    .next (reply s 0x0102 q .ok [Variant.caps s.variant, lo, hi]) ∧
    (∀ k < 32, bit lo k = quadHere s.variant k) ∧ (∀ k < 32, bit hi k = quadHere s.variant (32 + k))) ∧
  (∀ (q : Req) (s : State) (w : W32), Starts s 0x0103 q → q.stream.val ≤ 7 ∨ q.stream.val = 10 → q.params = [w] →
    onlyBits w 0xFF03#32 = true → fld w 15 8 ≠ 0 →
    exec (.pennantConfig q) s = .next (reply (wr s R.pnCfg 0 0 w) 0x0103 q .ok [])) ∧
  (∀ (q : Req) (s : State) (w : W32), Starts s 0x0E01 q → q.params = [w] → onlyBits w 0xFFFF003F#32 = true →
    1 ≤ fld w 2 0 → fld w 2 0 ≤ 6 → bit w 5 = false ∨ joined s = true → exec (.eventSinkSet q) s =
    .next (reply (wr s R.pnEvsink 0 (fld w 2 0) (packF [(0, fld w 5 3), (16, fld w 31 16)])) 0x0E01 q .ok [])) ∧
  (∀ (q : Req) (s : State) (lo hi mask set : W32) (e : EvtReg) (u i : Nat) (r : Reg), Starts s 0x0E02 q →
    q.params = [lo, hi, mask, set] → onlyBits hi 0xFFFF#32 = true → onlyBits set 1#32 = true →
    evtAt (pair64 lo hi) = some (e, u, i) → e.en = some r → onlyBits mask r.rw = true → e.evt.blk.here s.variant u = true →
    exec (.eventEnable q) s = .next (reply (wr s r u i
      (if bit set 0 then rd s r u i ||| mask else rd s r u i &&& ~~~mask)) 0x0E02 q .ok [])) ∧
  (∀ (q : Req) (s : State), Starts s 0x0E03 q → q.params = [] → exec (.eventStatus q) s = .next (reply s 0x0E03 q .ok
    [rd s R.pnEvseq, evqView s, rd s R.pnCount 0 7, rd s (R.pnCount.next 1) 0 7])) ∧
  (∀ (q : Req) (s : State) (w : W32), Starts s 0x0201 q → q.params = [w] → onlyBits w 0xFFF#32 = true →
    exec (.commitStatus q) s = .next (reply s 0x0201 q .ok
      ([w32 s.pn.commits.length, w32 (((commitList s).drop w.toNat).take 250).length] ++
        (((commitList s).drop w.toNat).take 250).flatMap fun c => [packF [(0, c.opcode), (16, c.tag.toNat)], w32 c.stream, c.w0, c.w1]))) ∧
  (∀ (q : Req) (s : State) (a b : W32) (c : Commit), Starts s 0x0202 q → q.params = [a, b] → b.toNat ≤ 10 →
    fld a 15 0 ≠ 0x0703 → s.pn.commits.find? (fun c => decide (c.opcode = fld a 15 0) &&
      decide (c.tag = BitVec.ofNat 16 (fld a 31 16)) && decide (c.stream = b.toNat)) = some c →
    startsOf c = [] → passed s c.bnd = false → exec (.commitCancel q) s = .next (reply (unseated (cellsSync (setPn (seated s 0x0202 q)
      fun p => { p with commits := removeFirst (fun d => decide (d = c)) p.commits })) 0x0202 q) 0x0202 q .ok [])) ∧
  (∀ (q : Req) (s : State), Starts s 0x0701 q → q.params = [] → pendingStep s = none → exec (.timeStatus q) s =
    .next (reply s 0x0701 q .ok [rd s R.atStat, lo32 s.ats.toNat, hi32 s.ats.toNat, rd s R.atPhaseErr, rd s R.atFreqOff,
      rd s R.atHoldErr, 0, 0, s.tim.lastDelta, match s.tim.leaps with
        | none => 0
        | some l => packF [(0, l.toNat), (8, 1)]]))

/-- R15, R40, R48–R50, R495, R496 and R505, for commits that start at once, pass their own checks, come before their arm
point and find room in shadow state. -/
def Obligations.CommitCommands : Prop :=
  (∀ (q : Req) (s : State) (a b c d : W32), Starts s 0x0702 q → q.params = [a, b, c, d] → onlyBits a 0x0001FF0F#32 = true →
    isMasthead s = false → exec (.timeRefConfig q) s = .next (reply (unseated (considerRefs (setTim
      (wr (wr (wr (seated s 0x0702 q) R.atCtl 0 0 a) R.atHoldCfg 0 0 b) R.atHoldLim 0 0 c) fun t => { t with ppsComp := d }))
      0x0702 q) 0x0702 q .ok [])) ∧
  (∀ (q : Req) (s : State), Starts s 0x0703 q → acting s ≠ 2 → stepCheck s q.params false = .ok → commitLoad s < 4096 →
    passed s (boundary (par q 1) (par q 2)) = false → exec (.timeStep q) s = .next (reply (unseated (cellsSync (wrB (stepAccepted
      (setPn (seated s 0x0703 q) fun p => { p with commits := p.commits ++ [mkCommit 0x0703 q (par q 1) (par q 2) false] })
      (boundary (par q 1) (par q 2))).1 R.atStat 0 0 11 true)) 0x0703 q) 0x0703 q .ok
      [w32 (s.pn.commits.filter fun c => decide (boundary (par q 1) (par q 2) < c.bnd)).length])) ∧
  (∀ (q : Req) (s : State) (c : Commit), Starts s 0x0704 q → q.params = [] → pendingStep s = some c → passed s c.bnd = false →
    exec (.timeStepCancel q) s = .next (reply (dropStep s) 0x0704 q .ok [])) ∧
  (∀ (q : Req) (s : State) (op : Nat) (i : Instr), (i, op) ∈ [(Instr.tddTableSet q, 0x0705), (Instr.cellStop q, 0x0302)] →
    Starts s op q → commitCheck s op q.params = .ok → commitLoad s < 4096 → passed s (boundary (bndW0 op q.params) (bndW1 op q.params)) = false →
    exec i s = .next (reply (unseated (govSync (setPn (seated s op q) fun p =>
      { p with commits := p.commits ++ [mkCommit op q (bndW0 op q.params) (bndW1 op q.params) false] })) op q) op q .ok [])) ∧
  (∀ (q : Req) (s : State) (op : Nat) (i : Instr), (i, op) ∈ [(Instr.hbmPartition q, 0x0110), (Instr.queueConfig q, 0x0111),
      (Instr.fhFlowConfig q, 0x0503), (Instr.govPolicySet q, 0x0308)] →
    Starts s op q → commitCheck s op q.params = .ok → commitLoad s < 4096 → passed s (boundary (bndW0 op q.params) (bndW1 op q.params)) = false →
    exec i s = .next (reply (setPn s fun p =>
      { p with commits := p.commits ++ [mkCommit op q (bndW0 op q.params) (bndW1 op q.params) false] }) op q .ok [])) ∧
  (∀ (q : Req) (s : State) (h : Nat), Starts s 0x0301 q → cellStartCheck s q.params = .ok → nextHandle s = some h → q.params.length = 4 →
    commitLoad s < 4096 → passed s (boundary (bndW0 0x0301 q.params) (bndW1 0x0301 q.params)) = false →
    exec (.cellStart q) s = .next (reply (unseated (cellStartStaged (setPn (seated s 0x0301 q) fun p =>
      { p with commits := p.commits ++ [{ mkCommit 0x0301 q (bndW0 0x0301 q.params) (bndW1 0x0301 q.params) false with
        params := q.params ++ [w32 h] }] }) (q.params ++ [w32 h]) (w32 h).toNat) 0x0301 q) 0x0301 q .ok [w32 h])) ∧
  (∀ (q : Req) (s : State) (pks : List (List W32)) (x : State) (e : Nat) (inner : List Inner), Starts s 0x0203 q → 3 ≤ q.params.length →
    (par q 0).toNat ≠ 0 → (par q 0).toNat ≤ 32 → innerPackets (par q 0).toNat (q.params.drop 3) = some pks →
    bndFault s (par q 1) (par q 2) = false →
    stageInner q (boundary (par q 1) (par q 2)) false (seated s 0x0203 q) 0 pks = (x, (e, .ok), inner) →
    inner ≠ [] → commitLoad s + inner.length ≤ 4096 → passed s (boundary (par q 1) (par q 2)) = false →
    exec (.commitGroup q) s = .next (reply (unseated (govSync (setPn x fun p => { p with
      commits := s.pn.commits ++ [{ mkCommit 0x0203 q (par q 1) (par q 2) false with inner := inner }] })) 0x0203 q)
      0x0203 q .ok [packF [(0, 0x3F), (16, 0)]])) ∧
  (∀ s : State, firstCommit s = none → exec .commitApply s = .next s) ∧
  (∀ (s : State) (c : Commit), s.pn.commits = [c] → commitDue s c = true → exec .commitApply s = .next (applyCommit s c))

/-- The memories in canonical form: bytes stored from a on read back, and no other byte and no check state changes. -/
def Obligations.MemoryReadBack : Prop :=
  ∀ (m : Memory) (a : Nat) (bs : List Byte), m.wf = true →
    (∀ k < bs.length, (m.setBytes a bs).byte (a + k) = nth bs k 0) ∧
    (∀ x, x < a ∨ a + bs.length ≤ x → (m.setBytes a bs).byte x = m.byte x) ∧
    (m.setBytes a bs).marks = m.marks ∧ (m.setBytes a bs).lost = m.lost

/-- R56–R58 and R8 at the ports of bench memory, for words that no injection has touched. R260–R263 and R11: the HBM ports. -/
def Obligations.MemoryPorts : Prop :=
  (∀ (b : Fin 16) (w : Fin 1048576) (s : State), benchHere s.variant b.val = true →
    s.mem.mark ((benchBase b.val + 8 * w.val) / 8) = .clean → exec (.benchMemRead b w) s =
    .next { s with readStat := .ok, readData := [cleanW (s.mem.data ((benchBase b.val + 8 * w.val) / 8))] }) ∧
  (∀ (b : Fin 16) (w : Fin 1048576) (s : State), benchHere s.variant b.val = true → s.det.eccAddrs = [] → rdB s R.memCfg b.val 0 8 = false →
    s.mem.mark ((benchBase b.val + 8 * w.val) / 8) = .single → exec (.benchMemRead b w) s =
    .next (answer (raise (bump s R.memCount b.val 0 1) E.mem b.val 0) .ok [cleanW (s.mem.data ((benchBase b.val + 8 * w.val) / 8))])) ∧
  (∀ (b : Fin 16) (w : Fin 1048576) (s : State), benchHere s.variant b.val = true →
    s.mem.mark ((benchBase b.val + 8 * w.val) / 8) = .poison → exec (.benchMemRead b w) s =
    .next (answer (bump s R.memCount b.val 2 1) .ok [poisonW])) ∧
  (∀ (b : Fin 16) (w : Fin 1048576) (s : State), benchHere s.variant b.val = true → s.det.eccAddrs = [] →
    s.mem.mark ((benchBase b.val + 8 * w.val) / 8) = .double → ∃ t, exec (.benchMemRead b w) s = .next t ∧ t.readData = [poisonW] ∧
    t.mem = (s.mem.setData ((benchBase b.val + 8 * w.val) / 8) 0).setMark ((benchBase b.val + 8 * w.val) / 8) .poison) ∧
  (∀ (b : Fin 16) (w : Fin 1048576) (s : State), benchHere s.variant b.val = false →
    exec (.benchMemRead b w) s = .next { s with readStat := .ok, readData := [cleanW 0] }) ∧
  (∀ (b : Fin 16) (off : Fin 8388608) (data : List Byte) (s : State), benchHere s.variant b.val = true → off.val % 8 = 0 →
    data.length = 8 → exec (.benchMemWrite b off data false) s = .next { s with
      mem := (s.mem.setData ((benchBase b.val + off.val) / 8) (ofBytes data)).setMark ((benchBase b.val + off.val) / 8) .clean }) ∧
  (∀ (b : Fin 16) (off : Fin 8388608) (data : List Byte) (s : State), benchHere s.variant b.val = true → off.val % 8 = 0 →
    data.length = 8 → exec (.benchMemWrite b off data true) s = .next { s with
      mem := (s.mem.setData ((benchBase b.val + off.val) / 8) 0).setMark ((benchBase b.val + off.val) / 8) .poison }) ∧
  (∀ (b : Fin 16) (off : Fin 8388608) (data : List Byte) (p : Bool) (s : State), benchHere s.variant b.val = false →
    exec (.benchMemWrite b off data p) s = .next s) ∧
  (∀ (b : Fin 16) (line : Fin 131072) (s : State), benchHere s.variant b.val = true → rdF s R.memCfg b.val 0 7 0 ≠ 0 →
    exec (.scrubAccess b line) s = .next (scrubWords s (benchBase b.val + 64 * line.val) 8)) ∧
  (∀ (b : Fin 16) (line : Fin 131072) (s : State), rdF s R.memCfg b.val 0 7 0 = 0 → exec (.scrubAccess b line) s = .next s) ∧
  (∀ (a : Fin 34359738368) (n : Fin 33) (ce : Nat) (s : State), hbmHere s (a.val / 8 * 8) = true → s.det.armed = [] →
    exec (.hbmRead a n ce false) s = .next (
      let r := readWords (bump s R.hbmCount (a.val / 8 * 8 / 0x400000000) 3 ce) (a.val / 8 * 8) n.val
      answer r.1 .ok r.2)) ∧
  (∀ (a : Fin 34359738368) (n : Fin 33) (ce : Nat) (s : State), hbmHere s (a.val / 8 * 8) = true → s.det.armed = [] →
    exec (.hbmRead a n ce true) s = .next (answer (raise (poisonWords (bump s R.hbmCount (a.val / 8 * 8 / 0x400000000) 3 ce)
      (a.val / 8 * 8) n.val) E.hbm (a.val / 8 * 8 / 0x400000000) 3) .ok (List.replicate n.val poisonW))) ∧
  (∀ (a : Fin 34359738368) (n : Fin 33) (ce : Nat) (ue : Bool) (s : State), hbmHere s (a.val / 8 * 8) = false →
    exec (.hbmRead a n ce ue) s = .next (answer s .notPresent (List.replicate n.val poisonW))) ∧
  (∀ (a : Fin 34359738368) (data : List Byte) (s : State), hbmHere s a.val = true → data ≠ [] → a.val + data.length ≤ hbmEnd a.val →
    exec (.hbmWrite a data false) s = .next (answer (writeBytes (mendLines s a.val data.length) a.val data) .ok [])) ∧
  (∀ (a : Fin 34359738368) (data : List Byte) (p : Bool) (s : State), hbmHere s a.val = false →
    exec (.hbmWrite a data p) s = .next (answer s .notPresent [])) ∧
  (∀ (a : Fin 34359738368) (b : Byte) (d : Nat) (e : RtEntry) (s : State), wayOf s 39 a.val = .send d e → fnState s (niDomain d) = 0 →
    hbmHere s a.val = true →
    (inRegion s 4 a.val = false → exec (.bar2Write a [b] false) s = .next (writeBytes (mendLines s a.val 1) a.val [b])) ∧
    (∀ p : Bool, inRegion s 4 a.val = true → exec (.bar2Write a [b] p) s =
      .next (bump (raise s E.hbm (a.val / 0x400000000) 4) R.hbmCount (a.val / 0x400000000) 5 1))) ∧
  (∀ (a : Fin 34359738368) (data : List Byte) (p : Bool) (s : State),
    (wayOf s 39 a.val = .noMem → exec (.bar2Write a data p) s = .next (bump s R.pcieDrop 0 0 1)) ∧
    (wayOf s 39 a.val = .miss → exec (.bar2Write a data p) s = .next (bump (noteMiss s 39) R.pcieDrop 0 0 1)) ∧
    (wayOf s 39 a.val = .fenced → exec (.bar2Write a data p) s = .next (bump (noteFenced s 39) R.pcieDrop 0 0 1)) ∧
    (wayOf s 39 a.val = .absent_ → exec (.bar2Write a data p) s = .next s)) ∧
  (∀ (a : Fin 34359738368) (s : State), hbmHere s a.val = true → rdF s R.hbmCfg (a.val / 0x400000000) 0 7 0 ≠ 0 →
    exec (.hbmScrub a) s = .next (readWord s (a.val / 8 * 8) true).1) ∧
  (∀ (a : Fin 34359738368) (s : State), rdF s R.hbmCfg (a.val / 0x400000000) 0 7 0 = 0 → exec (.hbmScrub a) s = .next s)

/-- R246, R247 and R253: a header that meets no entry-check failure at a queue with no header held and no packet open. -/
def Obligations.QueueHeaders : Prop :=
  ∀ (b : Fin 16) (q : Fin 64) (src : Producer) (hdr : W64) (s : State), benchHere s.variant b.val = true →
    (queueOf s b.val q.val).held = [] → openPkt (queueOf s b.val q.val) = none → rdB s R.qInj b.val q.val 0 = false →
    (qOn s b.val q.val = false → exec (.qHdrWrite b q src hdr false) s = .next (refuseHdr s b.val q.val .state)) ∧
    (qOn s b.val q.val = true → ownSrc s b.val q.val src = false →
      exec (.qHdrWrite b q src hdr false) s = .next (refuseHdr s b.val q.val .notPermitted)) ∧
    (qOn s b.val q.val = true → ownSrc s b.val q.val src = true → fld hdr 23 16 ≠ 0 →
      exec (.qHdrWrite b q src hdr false) s = .next (refuseHdr s b.val q.val .badParam)) ∧
    (qOn s b.val q.val = true → ownSrc s b.val q.val src = true → fld hdr 23 16 = 0 → qWords s b.val q.val < fld hdr 15 0 + 1 →
      exec (.qHdrWrite b q src hdr false) s = .next (refuseHdr s b.val q.val .lengthRange)) ∧
    (qOn s b.val q.val = true → ownSrc s b.val q.val src = true → fld hdr 23 16 = 0 → fld hdr 15 0 + 1 ≤ qWords s b.val q.val →
      hdrFits s b.val q.val hdr = true → qXoff s b.val q.val = false ∨ (∃ m, src = .mac m) →
      exec (.qHdrWrite b q src hdr false) s = .next (acceptHdr s b.val q.val hdr)) ∧
    (qOn s b.val q.val = true → ownSrc s b.val q.val src = true → fld hdr 23 16 = 0 → fld hdr 15 0 + 1 ≤ qWords s b.val q.val →
      hdrFits s b.val q.val hdr = false → (∃ m, src = .mac m) → exec (.qHdrWrite b q src hdr false) s = .next
        (answer (raiseI (bump s (R.qCount 4) b.val q.val 1) E.q b.val q.val 0x40#32) .noResource [])) ∧
    (qOn s b.val q.val = true → ownSrc s b.val q.val src = true → fld hdr 23 16 = 0 → fld hdr 15 0 + 1 ≤ qWords s b.val q.val →
      hdrFits s b.val q.val hdr = false ∨ qXoff s b.val q.val = true → (∀ m, src ≠ .mac m) → exec (.qHdrWrite b q src hdr false) s = .next
        (syncQStat (answer (putQueue s b.val q.val { queueOf s b.val q.val with held := [(hdr, false)] }) .busy []) b.val q.val))

/-- R249–R252, R255–R257 and R265: the other operations of a stream queue of a present bench. -/
def Obligations.QueueWords : Prop :=
  (∀ (b : Fin 16) (q : Fin 64) (src : Producer) (w : TWord) (s : State) (p : QPkt), benchHere s.variant b.val = true →
    rdB s R.qInj b.val q.val 0 = false → openPkt (queueOf s b.val q.val) = some p → qOn s b.val q.val = true →
    ownSrc s b.val q.val src = true → exec (.qPushWord b q src w false) s = .next (
      let o := (p.start + 1 + p.got) % qWords s b.val q.val
      let t := putQueue (writeWord s (qAddr s b.val q.val o) w) b.val q.val { queueOf s b.val q.val with
        last := tickNow s, pkts := modLast (queueOf s b.val q.val).pkts fun r => { r with got := r.got + 1, poison := r.poison || w.2 } }
      syncQStat (wr (bump t (R.qCount 1) b.val q.val 1) R.qWrptr b.val q.val (w32 ((o + 1) % qWords s b.val q.val))) b.val q.val)) ∧
  (∀ (b : Fin 16) (q : Fin 64) (src : Producer) (w : TWord) (s : State), benchHere s.variant b.val = true →
    rdB s R.qInj b.val q.val 0 = false → openPkt (queueOf s b.val q.val) = none → exec (.qPushWord b q src w false) s =
    .next (raiseI (bump s (R.qCount 5) b.val q.val 1) E.q b.val q.val 0x80#32)) ∧
  (∀ (b : Fin 16) (q : Fin 64) (n : Fin 257) (s : State), benchHere s.variant b.val = true → qOn s b.val q.val = true →
    qInplace s b.val q.val = false → n.val ≤ popAvail s b.val q.val (queueOf s b.val q.val).pkts → exec (.qPopRead b q n []) s =
    .next (answer (popMany s b.val q.val [] 0 n.val).1 .ok (popMany s b.val q.val [] 0 n.val).2)) ∧
  (∀ (b : Fin 16) (q : Fin 64) (n : Fin 65536) (s : State), benchHere s.variant b.val = true → qInplace s b.val q.val = true →
    n.val ≤ (queueOf s b.val q.val).pkts.length → exec (.qReleaseWrite b q n) s = .next (releaseN s b.val q.val n.val)) ∧
  (∀ (b : Fin 16) (q : Fin 64) (n : Fin 65536) (s : State), qInplace s b.val q.val = false → exec (.qReleaseWrite b q n) s = .next s) ∧
  (∀ (b : Fin 16) (q : Fin 64) (src : Producer) (s : State), qOn s b.val q.val = true → ownSrc s b.val q.val src = true →
    exec (.qAbortWrite b q src) s = .next (truncate s b.val q.val)) ∧
  (∀ (b : Fin 16) (q : Fin 64) (s : State), rdF s R.qCfg b.val q.val 23 16 ≠ 0 →
    (queueOf s b.val q.val).last + rdF s R.qCfg b.val q.val 23 16 < tickNow s →
    exec (.qPktTimeout b q) s = .next (truncate s b.val q.val)) ∧
  (∀ (b : Fin 16) (q : Fin 64) (s : State), rdF s R.qCfg b.val q.val 23 16 = 0 ∨
    tickNow s ≤ (queueOf s b.val q.val).last + rdF s R.qCfg b.val q.val 23 16 → exec (.qPktTimeout b q) s = .next s) ∧
  (∀ (b : Fin 16) (q : Fin 64) (s : State), benchHere s.variant b.val = true → qOn s b.val q.val = false →
    exec (.qFlush b q) s = .next (emptyQueue s b.val q.val)) ∧
  (∀ (b : Fin 16) (q : Fin 64) (s : State), qOn s b.val q.val = true → exec (.qFlush b q) s = .next s) ∧
  (∀ (b : Fin 16) (q : Fin 64) (s : State), benchHere s.variant b.val = true → exec (.qXcntRead b q) s =
    .next (answer (wr s R.qXcnt b.val q.val 0) .ok [cleanW (rd s R.qXcnt b.val q.val).toNat])) ∧
  (∀ (w : Writer) (b : Fin 16) (q : Fin 64) (k : Fin 65536) (s : State), benchHere s.variant b.val = true → mayInject s w = true →
    exec (.qInjArm w b q k) s = .next (wr s R.qInj b.val q.val (packF [(0, 1), (1, k.val)]))) ∧
  (∀ (p : Req) (s : State) (w : W32), Starts s 0x0112 p → p.params = [w] → onlyBits w 0x3FF#32 = true →
    benchHere s.variant (fld w 3 0) = true → exec (.queueStatus p) s = .next (reply s 0x0112 p .ok
      [rd s R.qStat (fld w 3 0) (fld w 9 4), w32 (queueOf s (fld w 3 0) (fld w 9 4)).occ, rd s R.qEvt (fld w 3 0) (fld w 9 4),
       rd s R.qXcnt (fld w 3 0) (fld w 9 4), rd s R.qRdptr (fld w 3 0) (fld w 9 4), rd s R.qWrptr (fld w 3 0) (fld w 9 4)]))

/-- R8, R17, R20 and R22: `REGISTER_WRITE` completes on every register with no unit behind it: RW bits take the value, W1C bits
written 1 clear, everything else stays; a value the register does not take, a writer that its guard shuts out, an absent unit
and a BAR0 offset without a write path leave the state as it is. On the event and enable registers of an HBM shell in full. The
MRAM window takes writes at F. `LIMIT_TAKE_EFFECT` completes in every state: the limits stand in the exclusion registers and
tasks staged on sites they shut out return to READY. -/
def Obligations.RegisterWrites : Prop :=
  (∀ (w : Writer) (a : W64) (v : W32) (s : State) (r : Reg) (u i : Nat), regAt a.toNat = some (r, u, i) →
    r.blk.here s.variant u = true → r.guard = .open_ ∨ w = .mp → a.toNat % 4 = 0 ∨ w ≠ .host → barKey a.toNat = none → inMram a.toNat = false →
    routeWord a.toNat = none → ipiCore a.toNat = none → queueReg a.toNat = none → writeLocked s a.toNat = false →
    r.is R.srTail = false → r.is R.fnCtl = false → r.is R.rtRcfg = false → stickyRegs.any r.is = false →
    unitRegs.any r.is = false → r.blk.base ≠ R.laneB.base → r.blk.base ≠ R.cmaB.base →
    exec (.registerWrite w a v) s = .next (
      let x := v &&& r.bits s.variant u i
      let nw := ((rd s r u i &&& ~~~r.rw) ||| (x &&& r.rw)) &&& ~~~(x &&& r.w1c)
      afterWrite (if r.legal nw = true then wr s r u i nw else s) a.toNat)) ∧
  (∀ (w : Writer) (a : W64) (v : W32) (s : State) (r : Reg) (u i : Nat), regAt a.toNat = some (r, u, i) →
    r.blk.here s.variant u = false ∨ (r.guard ≠ .open_ ∧ w ≠ .mp) → a.toNat % 4 = 0 ∨ w ≠ .host → barKey a.toNat = none → inMram a.toNat = false →
    routeWord a.toNat = none → ipiCore a.toNat = none → queueReg a.toNat = none → r.is R.srTail = false →
    unitRegs.any r.is = false → r.blk.base ≠ R.laneB.base → r.blk.base ≠ R.cmaB.base →
    exec (.registerWrite w a v) s = .next s) ∧
  (∀ (w : Writer) (a : W64) (v : W32) (s : State), barDenied a.toNat = true → a.toNat % 4 = 0 ∨ w ≠ .host →
    exec (.registerWrite w a v) s = .next s) ∧
  (∀ (a : W64) (v : W32) (s : State), bar0 ≤ a.toNat → a.toNat < bar0 + 0x10000000 → a.toNat % 4 ≠ 0 →
    exec (.registerWrite .host a v) s = .next (setHost s fun h => { h with aer := h.aer ++ [5] })) ∧
  (∀ (w : Writer) (a : W64) (v : W32) (s : State), inMram a.toNat = true → regAt a.toNat = none →
    (privF w = true → exec (.registerWrite w a v) s = .next (mramWrite s (a.toNat - mramBase) v)) ∧
    (privF w = false → exec (.registerWrite w a v) s = .next s)) ∧
  (∀ (w : Writer) (v : W32) (s : State), stackHere s.variant 0 = true → exec (.registerWrite w 0x03000020000C v) s =
    .next (wr s R.hbmEvt 0 0 (rd s R.hbmEvt &&& ~~~(v &&& 0x1F#32)))) ∧
  (∀ (v : W32) (s : State), stackHere s.variant 0 = true → exec (.registerWrite .mp 0x030000200010 v) s =
    .next (wr s R.hbmEvtEn 0 0 ((rd s R.hbmEvtEn &&& ~~~0x1F#32) ||| (v &&& 0x1F#32)))) ∧
  (∀ (v : W32) (s : State), exec (.registerWrite .host 0x030000200010 v) s = .next s) ∧
  (∀ (w : Writer) (v : W32) (s : State), stackHere s.variant 1 = false → exec (.registerWrite w 0x03000021000C v) s = .next s) ∧
  (∀ (w : Writer) (v : W32) (s : State), benchHere s.variant 15 = false →
    exec (.registerWrite w (0x01000F000000 + 0x830000) v) s = .next s) ∧
  (∀ s : State, exec .limitTakeEffect s = .next (
    let s1 := ((List.range 16).filter (benchHere s.variant)).foldl
      (fun a b => wr a R.gvExcl 0 b (packF [(0, exclBench s b), (16, nth s.gov.hostB b 0)])) s
    let s2 := ((List.range 2).filter (halfHere s.variant)).foldl
      (fun a h => wr (wr a R.gvExclPoolLo 0 h (lo32 (exclPool s h))) R.gvExclPoolHi 0 h (hi32 (exclPool s h))) s1
    capSync (returnStaged s2 fun x => excluded s2 x)))

/-- R60–R64: the four commands of a DMA channel. -/
def Obligations.DmaChains : Prop :=
  (∀ (b : Fin 16) (n : Fin 4) (s : State), benchHere s.variant b.val = true → rdB s R.dmaCtl b.val n.val 0 = true →
    dmaState s b.val n.val ≠ 1 → exec (.dmaStart b n) s =
    .next (dmaBegin s b.val n.val (pair64 (rd s R.dmaDescLo b.val n.val) (rd s R.dmaDescHi b.val n.val)) none)) ∧
  (∀ (b : Fin 16) (n : Fin 4) (s : State), dmaState s b.val n.val = 1 → exec (.dmaStart b n) s = .next s) ∧
  (∀ (b : Fin 16) (n : Fin 4) (s : State), benchHere s.variant b.val = true → dmaState s b.val n.val = 1 →
    exec (.dmaAbort b n) s = .next (setDma s b.val n.val { dmaOf s b.val n.val with abort := true })) ∧
  (∀ (b : Fin 16) (n : Fin 4) (s s1 : State) (i : Nat) (t : Task), rdB s R.dmaCtl b.val n.val 0 = false →
    dmaState s b.val n.val ≠ 1 → awake s b.val = true → beginTask s (dmaSite b n) = some (s1, i, t) →
    exec (.dmaTaskStart b n) s = .next (dmaBegin s1 b.val n.val t.param (some i))) ∧
  (∀ (b : Fin 16) (n : Fin 4) (s s1 s2 : State) (ws : List MWord), dmaState s b.val n.val = 1 → dOp (dmaOf s b.val n.val).desc = 0 →
    (dmaOf s b.val n.val).desc ≠ [] → netRead s b.val (reqAddr (dAddr (dmaOf s b.val n.val).desc 4) 0 (dmaOf s b.val n.val))
      (reqWords (dmaOf s b.val n.val).desc (dmaOf s b.val n.val)
        (reqAddr (dAddr (dmaOf s b.val n.val).desc 4) 0 (dmaOf s b.val n.val))
        (reqAddr (dAddr (dmaOf s b.val n.val).desc 6) 0 (dmaOf s b.val n.val))) none = (s1, .ok, ws) →
    (ws.any fun x => x.2) = false →
    netWrite s1 b.val (reqAddr (dAddr (dmaOf s b.val n.val).desc 6) 0 (dmaOf s b.val n.val)) ws none = (s2, .ok) →
    exec (.dmaRequestComplete b n none none) s = .next (settled s (dmaAdvance s2 b.val n.val (reqWords (dmaOf s b.val n.val).desc
      (dmaOf s b.val n.val) (reqAddr (dAddr (dmaOf s b.val n.val).desc 4) 0 (dmaOf s b.val n.val))
      (reqAddr (dAddr (dmaOf s b.val n.val).desc 6) 0 (dmaOf s b.val n.val)))))) ∧
  (∀ (b : Fin 16) (n : Fin 4) (s s1 : State) (src : Option (Status × List TWord)) (dst : Option Status) (st : Status) (ws : List MWord),
    dmaState s b.val n.val = 1 → dOp (dmaOf s b.val n.val).desc = 0 → (dmaOf s b.val n.val).desc ≠ [] →
    netRead s b.val (reqAddr (dAddr (dmaOf s b.val n.val).desc 4) 0 (dmaOf s b.val n.val))
      (reqWords (dmaOf s b.val n.val).desc (dmaOf s b.val n.val)
        (reqAddr (dAddr (dmaOf s b.val n.val).desc 4) 0 (dmaOf s b.val n.val))
        (reqAddr (dAddr (dmaOf s b.val n.val).desc 6) 0 (dmaOf s b.val n.val))) src = (s1, st, ws) → st ≠ .ok → st ≠ .deferred →
    exec (.dmaRequestComplete b n src dst) s = .next (settled s (dmaEnd s1 b.val n.val 3 4 (st16 st))))

/-- R65, R286, R289, R292, R299 and R328: from READY to RUN. -/
def Obligations.TasksStart : Prop :=
  (∀ (x : Site) (s : State) (i : Nat) (t : Task), ((stagedAt s x).find? fun e => !e.2.arrived) = some (i, t) →
    exec (.dsStage x) s = .next (putTask s i { t with arrived := true })) ∧
  (∀ (x : Site) (s : State), exec (.dispatchGrant x) s = .next ((takers s x).foldl grantAt (bindWaiting s))) ∧
  (∀ (x : Site) (s : State), siteHere s.variant x = false ∨ excluded s x = true ∨ siteHosted s x = true ∨ siteAwake s x = false ∨
    stageDepth s x ≤ slotsUsed s x → grantAt s x = s) ∧
  (∀ (x : Site) (s : State) (i : Nat) (t : Task), siteHere s.variant x = true → excluded s x = false → siteHosted s x = false →
    siteAwake s x = true →
    slotsUsed s x < stageDepth s x →
    ((sortBy (ranksBefore s) (s.cord.tasks.filter fun e => decide (e.2.cls = siteClass x) && eligible s e)).find? fun e =>
      takesPf s x e.2 || takesSpill s x e.2) = some (i, t) → grantAt s x = (
      let t1 := setCord (putTask s i { t with st := .staged, site := some x, arrived := false, sseq := s.cord.sctr }) fun c =>
        { c with sctr := c.sctr + 1 }
      if takesPf s x t = true then t1 else bump t1 R.gvCount 0 18 1)) ∧
  (∀ (id : CoreId) (s s1 : State) (i : Nat) (t : Task), (coreOf s id.bench.val id.core.val).task = none → awake s id.bench.val = true →
    beginTask s (.bench id.bench ⟨id.core.val, by have := id.core.isLt; omega⟩) = some (s1, i, t) → exec (.coreTaskStart id) s =
    .next (putCore s1 id.bench.val id.core.val { coreOf s id.bench.val id.core.val with
      pc := w32 (0x80000 + 16 * t.entry), status := 0x43000#32, taskPc := w32 (0x80000 + 16 * t.entry),
      taskParam := coreAddrOf id.bench.val id.core.val t.param, taskId := w32 i, task := some i, idle := false, waiting := false,
      holdN := 0, wdFirst := false, wdAt := tickNow s1, pre := [] })) ∧
  (∀ (id : CoreId) (s : State), (coreOf s id.bench.val id.core.val).task ≠ none → exec (.coreTaskStart id) s = .next s) ∧
  (∀ (x : Site) (s : State), siteHere s.variant x = false → exec (.engineTaskStart x) s = .next s) ∧
  (∀ (b : Fin 16) (n : Fin 4) (s s1 : State) (i : Nat) (t : Task), benchHere s.variant b.val = true →
    rdB s R.dmaCtl b.val n.val 0 = false → dmaState s b.val n.val ≠ 1 → awake s b.val = true →
    beginTask s (dmaSite b n) = some (s1, i, t) →
    exec (.engineTaskStart (dmaSite b n)) s = .next (settled s (dmaBegin s1 b.val n.val t.param (some i)))) ∧
  (∀ (b : Fin 16) (c : Fin 8) (s s1 : State) (i : Nat) (t : Task), benchHere s.variant b.val = true →
    (coreOf s b.val c.val).task = none → awake s b.val = true → beginTask s (.bench b ⟨c.val, by omega⟩) = some (s1, i, t) →
    exec (.engineTaskStart (.bench b ⟨c.val, by omega⟩)) s = .next (settled s (putCore s1 b.val c.val { coreOf s b.val c.val with
      pc := w32 (0x80000 + 16 * t.entry), status := 0x43000#32, taskPc := w32 (0x80000 + 16 * t.entry),
      taskParam := coreAddrOf b.val c.val t.param, taskId := w32 i, task := some i, idle := false, waiting := false,
      holdN := 0, wdFirst := false, wdAt := tickNow s1, pre := [] }))) ∧
  (∀ (b : Fin 16) (s : State), benchHere s.variant b.val = true →
    exec (.engineTaskStart (.bench b 8)) s = .next (settled s (shankStart s b)) ∧ exec (.engineTaskStart (.bench b 9)) s = .next (settled s (fftStart s b 0)) ∧
    exec (.engineTaskStart (.bench b 10)) s = .next (settled s (fftStart s b 1))) ∧
  (∀ (b : Fin 16) (s : State), siteHere s.variant (.bench b 11) = true →
    exec (.engineTaskStart (.bench b 11)) s = .next (settled s (cmaStart s b))) ∧
  (∀ (h : Fin 2) (i : Fin 46) (s : State), siteHere s.variant (.pool h i) = true →
    exec (.engineTaskStart (.pool h i)) s = .next (settled s (poolStart s h i))) ∧
  (∀ (m : Fin 128) (s : State), laneHere s.variant (2 * m.val) = true →
    exec (.engineTaskStart (.mac m true)) s = .next (settled s (fhtxStart s m)) ∧ exec (.engineTaskStart (.mac m false)) s = .next (settled s (fhrxStart s m))) ∧
  (∀ (n : Fin 4) (s : State), exec (.engineTaskStart (.notify n)) s = exec (.notifyTaskStart n none) s) ∧
  (∀ (n : Fin 4) (s s1 s2 : State) (i : Nat) (t : Task) (b : List W32), notifyWaits s n < 16 →
    beginTask s (.notify n) = some (s1, i, t) → net32s s1 36 t.param 16 = (s2, .ok, b, false) → notifyBad b = false →
    fld (nth b 0 0) 1 0 = 0 → exec (.notifyTaskStart n none) s =
    .next (settled s (complete (emitNotify s2 t (fld (nth b 1 0) 15 0)) i (st16 .ok)))) ∧
  (∀ (n : Fin 4) (s s1 s2 : State) (i : Nat) (t : Task) (b : List W32), notifyWaits s n < 16 →
    beginTask s (.notify n) = some (s1, i, t) → net32s s1 36 t.param 16 = (s2, .ok, b, true) →
    exec (.notifyTaskStart n none) s = .next (settled s (complete s2 i (st16 .integrity))))

/-- R286, R288, R294, R295, R297, R301 and R302. -/
def Obligations.TasksComplete : Prop :=
  (∀ (s : State) (i : Nat) (st : W16) (r : List (Nat × W16)) (t : Task), s.cord.inbox = (i, st) :: r → taskOf s i = some t →
    t.st = .staged ∨ t.st = .run → exec .taskCompletion s =
    .next (wakeReady (finish (setCord s (fun c => { c with inbox := r }), [(i, st)])))) ∧
  (∀ (s : State) (i : Nat) (st : W16) (r : List (Nat × W16)), s.cord.inbox = (i, st) :: r → taskOf s i = none →
    exec .taskCompletion s = .next (wakeReady (raise (bump (setCord s fun c => { c with inbox := r }) R.cwCount 0 15 1) E.cw 0 10))) ∧
  (∀ (s : State) (i : Nat) (t : Task), s.cord.tasks = [(i, t)] → t.st = .delay → t.pastRel = true ∨ tickReached s t.release = true →
    t.cls < 12 → exec .delayRelease s = .next (wakeReady (bump (setCord s fun c => { c with
      tasks := [(i, { t with st := .ready, rseq := s.cord.rctr, rats := s.ats })], rctr := c.rctr + 1 }) R.cwCount 0 5 0))) ∧
  (∀ (i : Fin 131072) (s s1 s2 : State) (t : Task), taskOf s i.val = some t → t.st = .erase →
    eraseLines s (eraseBase t t.er0.1) none t.er0.2 0 = (s1, none) → eraseLines s1 (eraseBase t t.er1.1) none t.er1.2 0 = (s2, none) →
    exec (.eraseDone i none) s =
    .next (settled s (wakeReady (finish (modTask s2 i.val (fun x => { x with skipped := true }), [(i.val, st16 .partialDone)]))))) ∧
  (∀ (src cell : W16) (rtick : W32) (tmpl : Fin 2048) (g : Fin 3) (seq : W32) (s : State),
    ∃ t r, exec (.remoteCompletionRx src cell rtick tmpl g seq) s = .next t ∧
      remoteRx s cell.toNat rtick.toNat tmpl.val g.val = r ∧ t = wakeReady (setCord r.1 fun c => { c with
        acks := c.acks ++ [(src.toNat, ackRec (ownDev s) r.2 seq.toNat)] })) ∧
  (∀ (s : State) (e : Early), s.cord.early = [e] → e.past = true ∨ tickReached s e.rtick = true → exec .earlyEntryExpire s =
    .next (raise (bump (setCord s fun c => { c with early := [] }) R.cwCount 0 13 1) E.cw 0 8)) ∧
  (∀ (dev : W16) (res : Fin 4) (seq : W32) (s : State) (w : NotifyWait), s.cord.notify = [w] → w.dev = dev.toNat → w.seq = seq.toNat →
    exec (.notifyAckRx dev res seq) s = .next (complete (setCord s fun c => { c with notify := [] }) w.task (st16 (ackStatus res.val)))) ∧
  (∀ (dev : W16) (res : Fin 4) (seq : W32) (s : State), s.cord.notify = [] →
    exec (.notifyAckRx dev res seq) s = .next (bump s R.cwCount 0 14 1)) ∧
  (∀ (seq : W32) (s : State) (w : NotifyWait), s.cord.notify = [w] → w.seq = seq.toNat → exec (.notifyAckTimeout seq) s =
    .next (complete (raise (setCord s fun c => { c with notify := [] }) E.cw 0 7) w.task (st16 .remoteUnreachable)))

/-- R286, R295 and R303: one completion applied to a task with one successor that waits for more. -/
def Obligations.CompletionFreesTask : Prop :=
  ∀ (s : State) (i j : Nat) (st : W16) (t u : Task), keysRise s.cord.tasks = true → i ≠ j → taskOf s i = some t → taskOf s j = some u →
    t.succ = [j] → u.st = .wait → 2 ≤ u.dep → instOf s t.inum = none →
    taskOf (applyCompletion s i st).1 i = none ∧
    taskOf (applyCompletion s i st).1 j = some { u with dep := u.dep - 1, instat := Nat.max u.instat (groupOf st) } ∧
    (∀ k, k ≠ i → k ≠ j → taskOf (applyCompletion s i st).1 k = taskOf s k) ∧ (applyCompletion s i st).2 = []

/-- R275, R276, R287, R320, R329, R332, R334 and R335. -/
def Obligations.InstancesAndDeadlines : Prop :=
  (∀ (s : State) (c : Cell) (t p num : Nat) (x : Pat), firstDue s = some (c, t, p) → patOf s p = some x → reqOf x.image = 0 →
    nextInst s 16384 s.cord.nextNum = some num → liveCount s + descCount x.image ≤ 131072 → tickNow s ≤ t - c.lead →
    s.tim.skipTo < t - c.lead → exec .instantiate s =
    .next (settled s (freeStopped (modCell (createInst s c p x.image t num none false none) c.h fun y => { y with from_ := t + 1 })))) ∧
  (∀ (s : State) (x : Inst), creatingInst s = some x → x.waiting = [] → x.live ≠ 0 → exec .instanceCreated s =
    .next (wakeReady (finish (evalTasks (modInst s x.num fun y => { y with creating := false, waiting := [] })
      (x.tasks.filterMap id))))) ∧
  (∀ (s : State) (x : Inst), creatingInst s = some x → x.waiting = [] → x.live = 0 → exec .instanceCreated s =
    .next (wakeReady (retire (modInst s x.num fun y => { y with creating := false, waiting := [] }) x))) ∧
  (∀ (s : State) (i : Nat) (t : Task), s.cord.tasks = [(i, t)] → lateTask s (i, t) = true →
    exec .deadlineCheck s = .next (bump (lateAction s i) R.gvCount 0 17 0)) ∧
  (∀ (l : List Nat) (s : State), ∃ up : Nat → Bool, exec (.gvLoadUpdate l) s = .next ((List.range 18).foldl (fun a k =>
    if domainHere s.variant k then wr a R.gvLoad 0 k (w32 (emaStep (rd s R.gvLoad 0 k).toNat (Nat.min 1000 (nth l k 0)) (up k))) else a)
    { s with freeCtr := s.freeCtr + 1 })) ∧
  (∀ s : State, s.gov.started = false → arraysSettled s = true → exec .spareDesignateStartup s =
    .next (designate (setGov s fun g => { g with started := true }))) ∧
  (∀ s : State, s.cord.tasks = [] → exec .lookaheadRecompute s =
    .next (((List.range 16).filter (benchHere s.variant)).foldl (lookBench s) s)) ∧
  (∀ (r : Fin 64) (v : W32) (s : State), rdB s R.srCfg r.val 0 5 = true →
    (fld v 16 0 + 2 ^ 17 - (rd s R.srDone r.val).toNat) % 2 ^ 17 ≤ ringSize s r.val →
    exec (.srTailWrite r v) s = .next (wr s R.srTail r.val 0 (w32 (fld v 16 0)))) ∧
  (∀ (r : Fin 64) (v : W32) (s : State), rdB s R.srCfg r.val 0 5 = true →
    ringSize s r.val < (fld v 16 0 + 2 ^ 17 - (rd s R.srDone r.val).toNat) % 2 ^ 17 →
    exec (.srTailWrite r v) s = .next (raise s E.cw 0 11))

/-- R271, R308–R312 and R339–R341, for commands that start at once with parameters as their rules want them. -/
def Obligations.CordwainerCommands : Prop :=
  (∀ (q : Req) (s : State) (a b c d : W32) (m : Nat), Starts s 0x0303 q → q.params = [a, b, c, d] → onlyBits a 0x3FF#32 = true →
    onlyBits c 0xFFFF#32 = true → pair64 b c % 64 = 0 → isRemote (pair64 b c) = false → d.toNat ≠ 0 → d.toNat % 64 = 0 →
    oneMemory (pair64 b c) d.toNat = some m → d.toNat ≤ 393280 → (if m < 16 then benchHere s.variant m else stackHere s.variant (m - 16)) = true →
    patOf s (fld a 9 0) = none → (s.cord.loads.any fun l => decide (l.index = fld a 9 0)) = false →
    exec (.patternLoad q) s = .next (setCord (seated s 0x0303 q) fun x => { x with
      loads := x.loads ++ [{ index := fld a 9 0, src := pair64 b c, len := d.toNat, req := q }] })) ∧
  (∀ (i : Fin 1024) (s : State) (l : PatLoad) (st : Status), (s.cord.loads.find? fun l => decide (l.index = i.val)) = some l →
    st ≠ .ok → st ≠ .deferred → exec (.patternImageReadDone i (some (st, []))) s = .next (settled s (settle (finishLoad s l st [])))) ∧
  (∀ (i : Fin 1024) (s s1 : State) (l : PatLoad) (img : List W32) (at_ : Nat),
    (s.cord.loads.find? fun l => decide (l.index = i.val)) = some l → net32s s 36 l.src (l.len / 4) = (s1, .ok, img, false) →
    imageStatus s1.variant img l.len false = .ok → placePattern s1 l.len = some (false, at_) →
    exec (.patternImageReadDone i none) s = .next (settled s (settle (finishLoad (setCord s1 fun c => { c with
      pats := putKey c.pats i.val (some { image := bindImage s1.variant img, inHbm := false, place := at_, bytes := l.len }) }) l .ok
      ([w32 0, w32 (descCount (bindImage s1.variant img))] ++ luWords (bindImage s1.variant img)))))) ∧
  (∀ (q : Req) (s : State) (a : W32) (p : Pat), Starts s 0x0304 q → q.params = [a] → onlyBits a 0x3FF#32 = true →
    patOf s (fld a 9 0) = some p → s.cord.cells = [] → (s.cord.loads.any fun l => decide (l.index = fld a 9 0)) = false →
    patLive s (fld a 9 0) = 0 → exec (.patternUnload q) s =
    .next (reply (setCord s fun c => { c with pats := putKey c.pats (fld a 9 0) none }) 0x0304 q .ok [])) ∧
  (∀ (q : Req) (s : State) (a : W32) (p : Pat), Starts s 0x0305 q → q.params = [a] → onlyBits a 0x3FF#32 = true →
    patOf s (fld a 9 0) = some p → exec (.patternStatus q) s = .next (reply s 0x0305 q .ok
      ([packF [(0, 1), (1, b2n p.inHbm)], packF [(0, nTask p.image), (16, descCount p.image)], w32 (patLive s (fld a 9 0))] ++ luWords p.image))) ∧
  (∀ (q : Req) (s : State) (a b c : W32), Starts s 0x0306 q → q.params = [a, b, c] → onlyBits a 0xFFF#32 = true → bit a 11 = true →
    4 ≤ fld a 10 6 → fld a 10 6 ≤ 16 → pair64 b c % 64 = 0 → pair64 b c < 2 ^ 48 → rdB s R.srCfg (fld a 5 0) 0 5 = false →
    withinRegion s 3 (pair64 b c) (16 * 2 ^ fld a 10 6) = true → exec (.slotreqRingConfig q) s = .next (reply (
      let s1 := wr (wr (wr s R.srBaseLo (fld a 5 0) 0 (lo32 (pair64 b c))) R.srBaseHi (fld a 5 0) 0 (hi32 (pair64 b c)))
        R.srCfg (fld a 5 0) 0 (packF [(0, fld a 10 6), (5, 1)])
      setCord (wr (wr (wr s1 R.srTail (fld a 5 0) 0 0) R.srHead (fld a 5 0) 0 0) R.srDone (fld a 5 0) 0 0) fun c => { c with
        doneSet := c.doneSet.filter fun e => decide (e.1 ≠ fld a 5 0) }) 0x0306 q .ok [])) ∧
  (∀ (q : Req) (s : State), Starts s 0x0307 q → q.params = [] → exec (.cordStatus q) s = .next (reply s 0x0307 q .ok
    [w32 (liveCount s), w32 s.cord.insts.length, cwDlist s 0, cwDlist s 1, w32 s.cord.early.length, rd s R.cwEvt])) ∧
  (∀ (q : Req) (s : State) (a b c : W32), Starts s 0x0309 q → q.params = [a, b, c] → onlyBits a 0x3F#32 = true → bit a 0 = false →
    bit a 5 = true → pair64 b c < 2 ^ 11 → pair64 b c ≠ 0 → benchHere s.variant (fld a 4 1) = true → exec (.placeExclude q) s =
    .next (reply (setGov s fun g => { g with hostB := modNth g.hostB (fld a 4 1) fun old => Nat.lor old (pair64 b c) }) 0x0309 q .ok [])) ∧
  (∀ (q : Req) (s : State), Starts s 0x030A q → q.params = [] → exec (.govStatus q) s = .next (reply s 0x030A q .ok
    ([rd s R.gvStat] ++ ((List.range 16).map fun c => rd s R.gvCap 0 c) ++ ((List.range 16).map fun c => rd s R.gvCommit 0 c) ++
      [rd s R.gvSpare, rd s R.gvTherm]))) ∧
  (∀ (q : Req) (s : State) (a : W32) (c : Cell), Starts s 0x030B q → q.params = [a] → onlyBits a 0xFFFF#32 = true →
    cellOf s a.toNat = some c → exec (.govCellStats q) s = .next (reply s 0x030B q .ok
      ((c.miss.flatMap fun n => [lo32 n, hi32 n]) ++ (topTwo ((List.range 16).map fun k =>
        (k, contribution s c ((stagedTables s c.h).map fun e => e.2) k))).map fun e => packF [(0, e.1), (4, satU 28 e.2)])))

/-- R513–R515, R528 and R532: the events of the power loop and of the IVR shells. -/
def Obligations.PowerLimits : Prop :=
  (∀ (d : Fin 18) (g : Nat) (s : State), (domOf s d.val).fitGoal = some g → (domOf s d.val).fitNow + 1 < g →
    exec (.fitRampEnd d) s = .next (setDom s d.val fun y => { y with fitNow := (domOf s d.val).fitNow + 1 })) ∧
  (∀ (d : Fin 18) (g : Nat) (s : State), (domOf s d.val).fitGoal = some g → (domOf s d.val).fitNow + 1 = g →
    (domOf s d.val).fitNext = none →
    exec (.fitRampEnd d) s = .next (setDom s d.val fun y => { y with fitNow := g, fitGoal := none, fitNext := none })) ∧
  (∀ (p : Fin 65536) (draws : List Nat) (s : State),
    100 * p.val ≤ rdF s R.pwrLimit 0 0 15 0 * rdF s R.pwrStat 0 0 22 16 →
    9 * (rdF s R.pwrLimit 0 0 15 0 * rdF s R.pwrStat 0 0 22 16) ≤ 1000 * p.val →
    exec (.powerLoopStep p draws) s = .next (wrF s R.pwrStat 0 0 15 0 p.val)) ∧
  (∀ (p : Fin 65536) (draws : List Nat) (d : Nat) (s : State),
    rdF s R.pwrLimit 0 0 15 0 * rdF s R.pwrStat 0 0 22 16 < 100 * p.val →
    rdB (wrF s R.pwrStat 0 0 15 0 p.val) R.pwrStat 0 0 23 = true →
    pickBest (fun a b => decide (b < a)) (((fitDomains s).filter fun d => decide (0 < effCap s d)).map fun d => (d, nth draws d 0)) = some d →
    exec (.powerLoopStep p draws) s =
      .next (syncFit (setPd (wrF s R.pwrStat 0 0 15 0 p.val) d 16 15 (rdF s R.pdStat d 0 16 15 - 1)) d)) ∧
  (∀ (p : Fin 65536) (draws : List Nat) (s : State),
    rdF s R.pwrLimit 0 0 15 0 * rdF s R.pwrStat 0 0 22 16 < 100 * p.val →
    rdB (wrF s R.pwrStat 0 0 15 0 p.val) R.pwrStat 0 0 23 = false → (∀ d ∈ fitDomains s, effCap s d = 0) →
    exec (.powerLoopStep p draws) s =
      .next (raise (raise (wrB (wrF s R.pwrStat 0 0 15 0 p.val) R.pwrStat 0 0 23 true) E.pwr 0 0) E.pwr 0 1)) ∧
  (∀ (d : Fin 39) (s : State), domainHere s.variant d.val = true → d.val < 38 →
    exec (.ilimHit d false) s = .next (raise (wrB s R.ivrStat d.val 0 1 true) E.ivr d.val 0)) ∧
  (∀ (d : Fin 39) (s : State), domainHere s.variant d.val = true → d.val < 38 →
    exec (.ilimHit d true) s = .next (wrB s R.ivrStat d.val 0 1 false)) ∧
  (∀ (d : Fin 39) (s : State), domainHere s.variant d.val = true → d.val < 38 →
    exec (.ivrOverCurrent d) s = .next (syncFit (wrB (raise s E.ivr d.val 1) R.pdStat d.val 0 17 true) d.val)) ∧
  (∀ (d : Fin 39) (s : State), d.val < 36 → pdState s d.val < 2 ∨ pdState s d.val = 3 ∨ pdState s d.val = 5 →
    exec (.brownOut d) s = .next s) ∧
  (∀ (d : Fin 39) (s : State), d.val < 36 → pdState s d.val = 2 → exec (.brownOut d) s =
    .next (applyPending (ivrLeaves (bump (ledAdd (raise (pdEvent (wr (setDom (rest (loseOff s d.val) d.val 3) d.val fun x =>
      { x with brown := true, image := true, offPath := true }) R.pdLost d.val 0 (lostMask d.val)) d.val 3) E.ivr d.val 2) 24 1)
      R.pdCount d.val 1 1) d.val 2) d.val)) ∧
  (∀ (w : Writer) (d : Fin 38) (dur : Fin 65536) (s : State), domainHere s.variant d.val = true → mayInject s w = true →
    exec (.ivrShellInjArm w d 3 dur) s = .next (wr s R.ivrInj d.val 0 (packF [(0, 3), (2, 1), (16, dur.val)])))

/-- R517 and R520–R531: each event of a domain's transitions, where it has its effect. -/
def Obligations.DomainTransitions : Prop :=
  (∀ (d : Fin 39) (n : Nat) (s : State), domainHere s.variant d.val = true → d.val < 38 → pdState s d.val = 0 →
    rdB s R.pdCfg d.val 0 16 = true → pdHeld s d.val = false → rdF s R.pdCfg d.val 0 7 0 ≤ n → domainRuns s d.val = false →
    exec (.idleEntry d n) s = .next (rest s d.val 1)) ∧
  (∀ (d : Fin 39) (n : Nat) (s : State), n < rdF s R.pdCfg d.val 0 7 0 → exec (.idleEntry d n) s = .next s) ∧
  (∀ (d : Fin 39) (s : State), pdState s d.val = 1 → pdHeld s d.val = false → exec (.idleExit d) s = .next (rest s d.val 0)) ∧
  (∀ (d : Fin 39) (src : Fin 7) (s : State), src.val ≠ 0 → src.val ≠ 3 ∨ (hasWop s.variant = true ∧ R.spineDomain d.val = true) →
    domainHere s.variant d.val = true → d.val < 36 → pdHeld s d.val = false →
    pdState s d.val = 2 ∨ pdState s d.val = 3 → exec (.wakeEvent d src) s = .next (startExit s d.val src.val)) ∧
  (∀ (d : Fin 39) (s : State), hasWop s.variant = false ∨ R.spineDomain d.val = false → exec (.wakeEvent d 3) s = .next s) ∧
  (∀ (d : Fin 39) (src : Fin 7) (s : State), pdHeld s d.val = true → pdState s d.val ≠ 4 → src.val < 4 → exec (.wakeEvent d src) s = .next s) ∧
  (∀ (d : Fin 39) (a b : Nat) (s : State), domainHere s.variant d.val = true → pdState s d.val < 2 → busy s d.val = false →
    (domOf s d.val).waitRet = true → hot s d.val = false →
    exec (.lowPowerEntryStart d a b) s = .next (startEntry s d.val false (domOf s d.val).slow false)) ∧
  (∀ (d : Fin 39) (a b : Nat) (s : State), domainHere s.variant d.val = true → d.val < 20 → pdState s d.val < 2 → busy s d.val = false →
    (domOf s d.val).waitRet = false → rdB s R.pdCfg d.val 0 17 = true → pdHeld s d.val = false → rdF s R.pdCfg d.val 0 15 8 ≤ a →
    dueFar s d.val b false (rdB s R.pdCfg d.val 0 19) = true → hot s d.val = false →
    exec (.lowPowerEntryStart d a b) s = .next (startEntry s d.val false (rdB s R.pdCfg d.val 0 19) true)) ∧
  (∀ (d : Fin 16) (s : State), pdState s d.val = 2 → pdHeld s d.val = false → rdB s R.gvDueValid 0 0 d.val = true →
    ticksAhead s (rd s R.gvNextDue 0 d.val).toNat ≤ wakeTicks s d.val false (domOf s d.val).slow + margin s →
    s.tim.barTo < s.ats.toNat ∨ (domOf s d.val).preFor ≠ some (dueTick s d.val) →
    exec (.prewake d) s = .next (startExit (setDom s d.val fun y => { y with preFor := some (dueTick s d.val) }) d.val 1)) ∧
  (∀ (d : Fin 16) (s : State), s.ats.toNat ≤ s.tim.barTo → (domOf s d.val).preFor = some (dueTick s d.val) →
    exec (.prewake d) s = .next s) ∧
  (∀ (d : Fin 39) (s : State), pdState s d.val = 4 → pdStep s d.val = 0 → fnState s d.val = 3 →
    domainTasks s d.val = false → exec (.entryStepDone d) s = .next (setPd s d.val 12 10 1)) ∧
  (∀ (d : Fin 39) (s : State), pdState s d.val = 4 → pdStep s d.val = 3 → (domOf s d.val).removing = false →
    (domOf s d.val).pendSrc = 0 → exec (.entryStepDone d) s = .next (setPd (setDom s d.val fun y =>
      { y with canaryOn := y.canary, canary := 0, crcTaken := y.slow }) d.val 12 10 4)) ∧
  (∀ (d : Fin 39) (s : State), pdState s d.val = 4 → pdStep s d.val = 0 → fnState s d.val ≠ 3 ∨ domainTasks s d.val = true → exec (.entryStepDone d) s = .next s) ∧
  (∀ (d : Fin 39) (s : State) (n : Nat), n = 1 ∨ n = 4 → pdState s d.val = 4 → pdStep s d.val = n → (domOf s d.val).removing = false →
    (domOf s d.val).pendSrc = 0 → exec (.entryStepDone d) s = .next (setPd s d.val 12 10 (n + 1))) ∧
  (∀ (d : Fin 39) (s : State), pdState s d.val = 4 → pdStep s d.val = 2 → (domOf s d.val).removing = false →
    (domOf s d.val).pendSrc = 0 → (domOf s d.val).offPath = true → exec (.entryStepDone d) s =
    .next (setDom (setDom s d.val fun y => { y with image := true }) d.val fun y => { y with removing := true })) ∧
  (∀ (d : Fin 39) (s : State), pdState s d.val = 4 → pdStep s d.val ≠ 0 → (domOf s d.val).removing = true →
    exec (.entryStepDone d) s = .next (reachLow s d.val)) ∧
  (∀ (d : Fin 39) (s : State), pdState s d.val = 4 → pdStep s d.val = 5 → (domOf s d.val).removing = false →
    (domOf s d.val).pendSrc = 0 → rdB (reachLow s d.val) R.ivrInj d.val 0 2 = false →
    exec (.entryStepDone d) s = .next (reachLow s d.val)) ∧
  (∀ (d : Fin 39) (s : State), pdState s d.val = 4 → pdStep s d.val ≠ 0 → (domOf s d.val).removing = false → abortable s d.val = true →
    (domOf s d.val).pendSrc ≠ 0 → rdB s R.pdStat d.val 0 5 = false →
    exec (.entryStepDone d) s = .next (abandon s d.val (domOf s d.val).pendSrc)) ∧
  (∀ (d : Fin 39) (bad : W32) (s : State), pdState s d.val = 5 → pdStep s d.val = 1 →
    exec (.exitStepDone d bad) s = .next (setPd (wrB s R.ivrStat d.val 0 0 true) d.val 12 10 2)) ∧
  (∀ (d : Fin 39) (bad : W32) (s : State), pdState s d.val = 5 → pdStep s d.val = 2 →
    exec (.exitStepDone d bad) s = .next (setPd s d.val 12 10 3)) ∧
  (∀ (d : Fin 39) (bad : W32) (s : State), pdState s d.val = 5 → pdStep s d.val = 3 → (domOf s d.val).offPath = false →
    (bad ||| (domOf s d.val).canaryOn) &&& lostMask d.val ≠ 0 → exec (.exitStepDone d bad) s =
    .next (setPd (pdEvent (ledAdd (loseBanks (wr s R.pdLost d.val 0 ((bad ||| (domOf s d.val).canaryOn) &&& lostMask d.val)) d.val
      ((bad ||| (domOf s d.val).canaryOn) &&& lostMask d.val)) 23 (popcount ((bad ||| (domOf s d.val).canaryOn) &&& lostMask d.val)))
      d.val 2) d.val 12 10 4)) ∧
  (∀ (d : Fin 39) (bad : W32) (s : State), pdState s d.val = 5 → pdStep s d.val = 4 →
    exec (.exitStepDone d bad) s = .next (exitDone s d.val))

/-- R533–R537, for commands that start at once. `PWR_IDLE_CONFIG` takes `PD_CFG` over at once (log entry 96). -/
def Obligations.PowerCommands : Prop :=
  (∀ (q : Req) (s : State) (d : W32), Starts s 0x0801 q → q.params = [d] → d.toNat < 39 → domainHere s.variant d.toNat = true →
    exec (.pwrStatus q) s = .next (reply s 0x0801 q .ok [rd s R.pdStat d.toNat, rd s R.pdCfg d.toNat, rd s R.pdWake d.toNat,
      rd s R.pdWtick d.toNat, rd s R.pdLost d.toNat, rd s R.pwrStat, rd s R.pwrLimit,
      if d.toNat = 38 then 0#32 else rd s R.ivrIout d.toNat])) ∧
  (∀ (q : Req) (s : State) (d : W32), Starts s 0x0801 q → q.params = [d] → 39 ≤ d.toNat →
    exec (.pwrStatus q) s = .next (reply s 0x0801 q .badParam [])) ∧
  (∀ (q : Req) (s : State) (d : W32), Starts s 0x0801 q → q.params = [d] → d.toNat < 39 → domainHere s.variant d.toNat = false →
    exec (.pwrStatus q) s = .next (reply s 0x0801 q .notPresent [])) ∧
  (∀ (q : Req) (s : State) (w : W32), Starts s 0x0802 q → q.params = [w] → onlyBits w 0x7FF#32 = true → fld w 5 0 < 16 →
    domainHere s.variant (fld w 5 0) = true → bit w 10 = false → fld w 7 6 = 3 → pdState s (fld w 5 0) < 2 →
    exec (.pwrDomainSet q) s = .next (answered s 0x0802 q (fun t => startEntry (setDom (holdSync (setPd t (fld w 5 0) 8 8 (b2n (bit w 8)))) (fld w 5 0)
      fun x => { x with waitRet := false }) (fld w 5 0) true (bit w 9) false) [])) ∧
  (∀ (q : Req) (s : State) (w : W32), Starts s 0x0802 q → q.params = [w] → onlyBits w 0x7FF#32 = true → fld w 5 0 < 16 →
    domainHere s.variant (fld w 5 0) = true → bit w 10 = false → fld w 7 6 = 0 → pdState s (fld w 5 0) = 2 →
    exec (.pwrDomainSet q) s = .next (answered s 0x0802 q (fun t => startExit (setDom (holdSync (setPd t (fld w 5 0) 8 8 (b2n (bit w 8)))) (fld w 5 0)
      fun x => { x with waitRet := false }) (fld w 5 0) 4) [])) ∧
  (∀ (q : Req) (s : State) (w : W32), Starts s 0x0802 q → q.params = [w] → onlyBits w 0x7FF#32 = true → fld w 5 0 < 16 →
    domainHere s.variant (fld w 5 0) = true → bit w 10 = false → fld w 7 6 = 1 → pdState s (fld w 5 0) = 5 →
    exec (.pwrDomainSet q) s = .next (reply (unseated (pend (seated s 0x0802 q) (fld w 5 0) 1 4 (bit w 8) (bit w 9)) 0x0802 q)
      0x0802 q .deferred [])) ∧
  (∀ (q : Req) (s : State) (w : W32), Starts s 0x0803 q → q.params = [w] → 500 ≤ fld w 15 0 → fld w 15 0 ≤ 10 * tdp s.variant →
    100 ≤ fld w 31 16 → fld w 31 16 ≤ 10000 →
    exec (.pwrLimitSet q) s = .next (reply (wr s R.pwrLimit 0 0 w) 0x0803 q .ok [])) ∧
  (∀ (q : Req) (s : State) (d w w2 : W32), Starts s 0x0804 q → q.params = [d, w, w2] → onlyBits w 0xFFFFF#32 = true →
    onlyBits w2 0xFFFF#32 = true → d.toNat < 36 → domainHere s.variant d.toNat = true → fld w2 15 8 ≠ 0 →
    exec (.pwrIdleConfig q) s = .next (reply (wr (wr s R.pdCfg d.toNat 0
      (((rd s R.pdCfg d.toNat &&& 0x00300000#32) ||| (w &&& 0x000FFFFF#32)) &&& R.pdCfgMask d.toNat)) R.pwrCfg 0 0 w2) 0x0804 q .ok [])) ∧
  (∀ (q : Req) (s : State) (w : W32), Starts s 0x0805 q → q.params = [w] → onlyBits w 0xFF#32 = true → fld w 5 0 < 18 →
    domainHere s.variant (fld w 5 0) = true → exec (.pwrFitCap q) s = .next (answered s 0x0805 q (fun t =>
      syncFit (wrF (wrB t R.pdStat (fld w 5 0) 0 17 false) R.pdCfg (fld w 5 0) 0 21 20 (fld w 7 6)) (fld w 5 0)) []))

/-- R359, R361 and R362: the messages and timers of a fence. -/
def Obligations.Fences : Prop :=
  (∀ (d : Fin 39) (s : State), d.val < 37 → domainHere s.variant d.val = true → fnState s d.val = 0 →
    exec (.fenceRequest d) s = .next (setFn (truncProducers (returnStaged (wrB s R.fnCtl 0 d.val 0 true)
      fun x => decide (siteDomain x = d.val)) (producerIn s d.val)) d.val 1)) ∧
  (∀ (d : Fin 39) (s : State), d.val < 37 → domainHere s.variant d.val = true → fnState s d.val ≠ 0 →
    exec (.fenceRequest d) s = .next (wrB s R.fnCtl 0 d.val 0 true)) ∧
  (∀ (d : Fin 37) (s : State) (l : List Nat), fnState s d.val = 1 → drained s d.val = true →
    ((nisHere s).filter fun n => decide (niDomain n ≠ d.val) && decide (fnState s (niDomain n) ≠ 3)) = l → l ≠ [] →
    exec (.fenceDrainEnd d) s = .next (syncPend (setFn (setFab s fun f =>
      { f with fenceTo := f.fenceTo ++ l.map fun n => (d.val, n) }) d.val 2) d.val)) ∧
  (∀ (d : Fin 37) (s : State), fnState s d.val ≠ 1 ∨ drained s d.val = false → exec (.fenceDrainEnd d) s = .next s) ∧
  (∀ (n : Fin 40) (d : Fin 37) (s : State), (d.val, n.val) ∈ s.fab.fenceTo → exec (.fenceMsgRx n d) s =
    .next (syncPend (setFab (markEntries s n.val d.val true (wopEn s d.val)) fun f =>
      { f with fenceTo := f.fenceTo.filter (fun p => decide (p ≠ (d.val, n.val))), ackTo := f.ackTo ++ [(d.val, n.val)] }) d.val)) ∧
  (∀ (n : Fin 40) (d : Fin 37) (s s1 : State), (d.val, n.val) ∈ s.fab.ackTo →
    syncPend (setFab s fun f => { f with
      ackTo := f.ackTo.filter (fun p => decide (p ≠ (d.val, n.val))), acked := f.acked ++ [(d.val, n.val)] }) d.val = s1 →
    fnState s1 d.val = 2 → rdF s1 R.fnCtl 0 d.val 15 8 ≠ 0 → exec (.fenceAckRx n d) s = .next s1) ∧
  (∀ (n : Fin 40) (d : Fin 37) (s s1 : State), (d.val, n.val) ∈ s.fab.ackTo →
    syncPend (setFab s fun f => { f with
      ackTo := f.ackTo.filter (fun p => decide (p ≠ (d.val, n.val))), acked := f.acked ++ [(d.val, n.val)] }) d.val = s1 →
    fnState s1 d.val = 2 → rdF s1 R.fnCtl 0 d.val 15 8 = 0 → rdB (fenceDone s1 d.val) R.fnCtl 0 d.val 0 = true →
    exec (.fenceAckRx n d) s = .next (bump (raise (setFn (syncPend s1 d.val) d.val 3) E.fn 0 0) R.fnCount 0 0 1)) ∧
  (∀ (d : Fin 37) (s : State), fnState s d.val = 1 ∨ fnState s d.val = 2 → exec (.fenceTimeout d) s =
    .next (fenceFailed (bump (raise (fenceGiveUp s d.val) E.fn 0 1) R.fnCount 0 1 1) d.val)) ∧
  (∀ (d : Fin 37) (s : State), fnState s d.val = 0 ∨ fnState s d.val = 3 ∨ fnState s d.val = 4 → exec (.fenceTimeout d) s = .next s) ∧
  (∀ (d : Fin 37) (s : State), keysRise s.regs = true → fnState s d.val = 3 → awake s d.val = true → exec (.unfenceStart d) s =
    .next (unfence (bump (setFn (wrB s R.fnCtl 0 d.val 0 false) d.val 4) R.fnCount 0 2 1) d.val)) ∧
  (∀ (d : Fin 37) (s : State), keysRise s.regs = true → fnState s d.val = 3 → awake s d.val = false → exec (.unfenceStart d) s =
    .next (wakeDomain (bump (setFn (wrB s R.fnCtl 0 d.val 0 false) d.val 4) R.fnCount 0 2 1) d.val 4)) ∧
  (∀ (d : Fin 37) (s : State), keysRise s.regs = true → fnState s d.val = 4 →
    (awake s d.val = true → exec (.unfenceStart d) s = .next (unfence (wrB s R.fnCtl 0 d.val 0 false) d.val)) ∧
    (awake s d.val = false → exec (.unfenceStart d) s = .next (wakeDomain (wrB s R.fnCtl 0 d.val 0 false) d.val 4))) ∧
  (∀ (d : Fin 37) (s : State), fnState s d.val < 3 → exec (.unfenceStart d) s = .next s) ∧
  (∀ (n : Fin 40) (d : Fin 37) (s : State), (d.val, n.val) ∈ s.fab.unfTo → exec (.unfenceMsgRx n d) s =
    .next (setFab (markEntries s n.val d.val false false) fun f => { f with
      unfTo := removeFirst (fun p => decide (p = (d.val, n.val))) f.unfTo, unfAck := f.unfAck ++ [(d.val, n.val)] }))

/-- R539–R545, R556, R559 and R561: what the timers and readings of the thermal unit and the store do. -/
def Obligations.ThermalEvents : Prop :=
  (∀ (rs : List Reading) (s s0 s1 s2 : State) (k : Nat) (v : Int), tsExpire s = s0 →
    ((List.range 64).filter (sensorHere s0.variant)).foldl (fun a k => sensorTake a k (nth rs k none)) s0 = s1 →
    ((List.range 64).filter (sensorHere s0.variant)).length = (validOf s0 rs).length → hottest (validOf s0 rs) = some (k, v) →
    wrB (wrF (wrF s1 R.thStat 0 0 11 0 (tj12 v)) R.thStat 0 0 17 12 k) R.thStat 0 0 29 false = s2 →
    (tstate s2 ≠ 0 → exec (.sensorSample rs) s = .next s2) ∧
    (tstate s2 = 0 → deviceTj s2 < 960 → exec (.sensorSample rs) s = .next (
      let t := levelsTake (arraysTake (((List.range 38).filter (domainHere s2.variant)).foldl (fun a d =>
        match hottest ((validOf s0 rs).filter fun e => (zoneOf e.1).contains d) with
        | some (_, w) => zoneTake a d w true
        | none => zoneTake a d (deviceTj s2) false) s2) rs) (deviceTj s2)
      setTh t fun x => { x with shutRun := 0 }))) ∧
  (∀ (t0 t1 m : Int) (s s1 : State), tstate s = 0 → stackHere s.variant 1 = true → t0 < 8 * rdF s R.thCfg 0 0 15 8 →
    t1 < 8 * rdF s R.thCfg 0 0 15 8 → s.th.hbmHot = false → wr (wr s R.thHbm 0 0 (packF [(0, readField (some t0)), (16, readField (some t1))]))
      R.thMram 0 0 (packF [(0, readField (some m))]) = s1 → thPct s1 = 100 →
    exec (.externalTempRead (some t0) (some t1) (some m)) s = .next (setTh s1 fun t => { t with hbmHot := false })) ∧
  (∀ s : State, tstate s = 0 → throttled s = true → 45 < thPct s → thPct s ≤ 100 →
    exec .throttleStep s = .next (setPct s (thPct s - 5))) ∧
  (∀ s : State, tstate s = 0 → throttled s = true → thPct s = 45 →
    exec .throttleStep s = .next (raise (setPct s 40) E.th 0 4)) ∧
  (∀ s : State, throttled s = false → exec .throttleStep s = .next s) ∧
  (∀ s : State, tstate s = 0 → throttled s = false → deviceTj s < 800 → thPct s ≤ 95 →
    exec .throttleRecoverStep s = .next (setPct s (thPct s + 5))) ∧
  (∀ s : State, deviceTj s < 720 → tstate s = 1 → rdB s R.thCfg 0 0 0 = true →
    exec .thermalRestartTimer s = .next (wrF s R.thStat 0 0 28 27 3)) ∧
  (∀ s : State, 720 ≤ deviceTj s → exec .thermalRestartTimer s = .next s) ∧
  (∀ (w : Writer) (k : Fin 64) (v : Fin 4096) (dur : Fin 65536) (s : State), mayInject s w = true → sensorHere s.variant k.val = true →
    dur.val ≠ 0 → exec (.sensorShellInjArm w k 1 v dur) s = .next (setTh (wr s R.tsInj k.val 0
      (packF [(0, 1), (2, 1), (3, v.val), (16, dur.val)])) fun t => { t with
        injEnd := putKey t.injEnd k.val (some (s.ats.toNat + dur.val * tcPerMs)) })) ∧
  (∀ (w : Writer) (s : State), mayInject s w = true →
    exec (.mramShellInjArm w 2) s = .next (wr s R.mrInj 0 0 (packF [(0, 2), (2, 1)]))) ∧
  (∀ (avg : Int) (s : State), fwUp s = false →
    exec (.ledgerSecondUpdate avg) s = .next (setTh s fun t => { t with seconds := t.seconds + 1 })) ∧
  (∀ (avg : Int) (s : State), tstate s = 0 → fwUp s = true → exec (.ledgerSecondUpdate avg) s =
    .next (ledgerSecond (setTh s fun t => { t with seconds := t.seconds + 1 }) avg)) ∧
  (∀ s : State, fwUp s = true → 600 ≤ s.store.sinceWrite → exec .ledgerPeriodicWrite s =
    .next (setStore (log s 0x10 0 (ledgerWords s)) fun t => { t with sinceWrite := 0 })) ∧
  (∀ s : State, s.store.sinceWrite < 600 → exec .ledgerPeriodicWrite s = .next s) ∧
  (∀ s : State, freeSegs s.store.journal < 16 → journalFull s.store.journal = false → fwUp s = true →
    exec .compaction s = .next (compact s)) ∧
  (∀ s : State, 16 ≤ freeSegs s.store.journal → exec .compaction s = .next s) ∧
  (∀ s : State, fwUp s = false → exec .telemetrySample s = .next s) ∧
  (∀ s : State, fwUp s = true → exec .telemetrySample s = .next (setDet (sampleUnit (sampledDids.foldl
    (fun a did => (didList a.variant did).foldl (fun b i => sampleUnit b did i) a) s) 0x0F 64) fun d => { d with eccHits := [] }))

/-- R562–R569 and R578–R580. -/
def Obligations.ThermalAndStoreCommands : Prop :=
  (∀ (q : Req) (s : State), Starts s 0x0901 q → q.params = [] → exec (.thermStatus q) s = .next (reply s 0x0901 q .ok
    [rd s R.thStat, rd s R.thCfg, rd s R.thTripseq, rd s R.thTripAtsLo, rd s R.thTripAtsHi, rd s R.thTripInfo, rd s R.thHbm,
      rd s R.thMram, w32 s.th.seconds])) ∧
  (∀ (q : Req) (s : State) (w : W32), Starts s 0x0902 q → q.params = [w] → onlyBits w 0xFF01#32 = true → R.thCfg.legal w = true →
    exec (.thermConfig q) s = .next (reply (wr s R.thCfg 0 0 w) 0x0902 q .ok [])) ∧
  (∀ (q : Req) (s : State), Starts s 0x0903 q → q.params = [] → tstate s = 2 → exec (.thermRestart q) s =
    .next (answered s 0x0903 q (fun t => setTh (wrF t R.thStat 0 0 28 27 1) fun x => { x with restart := true }) [])) ∧
  (∀ (q : Req) (s : State), Starts s 0x0903 q → q.params = [] → tstate s = 0 →
    exec (.thermRestart q) s = .next (reply s 0x0903 q .state [])) ∧
  (∀ (q : Req) (s : State) (a b c : W32), Starts s 0x0A01 q → q.params = [a, b, c] → onlyBits c 0x00FF1FFF#32 = true → 32 ≤ fld c 12 0 →
    fld c 12 0 ≤ slotBytes q - (if replyCrc s q then 32 else 28) → exec (.journalRead q) s = .next (reply s 0x0A01 q .ok
      (journalReply s (pair64 a b) (fld c 12 0) fun r => decide (fld c 23 16 = 0) || decide (r.typ = fld c 23 16)))) ∧
  (∀ (q : Req) (s : State) (w : W32), Starts s 0x0A02 q → q.params = [w] → onlyBits w 0xFFFF#32 = true → fld w 15 8 ≠ 0 →
    fld w 7 0 + fld w 15 8 ≤ 160 → q.stream.val ≠ 8 ∨ fld w 15 8 ≤ 59 → exec (.ledgerRead q) s =
    .next (reply s 0x0A02 q .ok (((ledgerWords s).drop (fld w 7 0)).take (fld w 15 8)))) ∧
  (∀ (q : Req) (s : State), Starts s 0x0A03 q → q.params = [] → journalFull s.store.journal = false → exec (.journalCompact q) s =
    .next (answered s 0x0A03 q compact [rd (compact (seated s 0x0A03 q)) R.jnEpoch, rd (compact (seated s 0x0A03 q)) R.jnSeg])) ∧
  (∀ (q : Req) (s : State) (n : W32), Starts s 0x0A04 (withOp q 0) → q.params = [n] → n.toNat ≤ 458688 → exec (.bootProfileBegin q) s =
    .next (answered s 0x0A04 (withOp q 0) (fun t => setStore t fun x => { x with profOpen := some { len := n.toNat, bytes := [] } }) [])) ∧
  (∀ (q : Req) (s : State) (off : W32) (ws : List W32) (x : ProfWrite), Starts s 0x0A04 (withOp q 1) → q.params = off :: ws →
    off.toNat % 4 = 0 → s.store.profOpen = some x → off.toNat + 4 * ws.length ≤ x.len → exec (.bootProfileData q) s =
    .next (answered s 0x0A04 (withOp q 1) (fun t => setStore t fun y => { y with
      profOpen := some { x with bytes := ((wordBytes ws).zipIdx).foldl (fun m e => putKey m (off.toNat + e.2) (some e.1)) x.bytes } }) [])) ∧
  (∀ (q : Req) (s : State) (c : W32) (x : ProfWrite) (ps : List (List W32)), Starts s 0x0A04 (withOp q 2) → q.params = [c] →
    s.store.profOpen = some x → (openBytes x).length = x.len → crc32c (openBytes x) = c → parsePackets ((openBytes x).length / 16 + 1) (openBytes x) = some ps →
    journalFull s.store.journal = false → otherSlot s = 1 → exec (.bootProfileCommit q) s =
    .next (answered s 0x0A04 (withOp q 2) (fun t => log (setStore (rawClear t 0x90000 0x100000) fun y => { y with
      profB := some { len := x.len, count := ps.length, crc := c, bytes := openBytes x }, profSel := some 1, profOpen := none })
      0x12 0 [3#32, w32 x.len, c]) [])) ∧
  (∀ (q : Req) (s : State), Starts s 0x0A04 (withOp q 3) → q.params = [] → journalFull s.store.journal = false →
    exec (.bootProfileClear q) s = .next (answered s 0x0A04 (withOp q 3)
      (fun t => log (setStore t fun y => { y with profSel := none }) 0x12 0 [0, 0, 0]) [])) ∧
  (∀ (q : Req) (s : State) (off n : W32) (p : Profile), Starts s 0x0A05 q → q.params = [off, n] → onlyBits off 0xFFFFFFFC#32 = true →
    onlyBits n 0xFFC#32 = true → n.toNat ≠ 0 → n.toNat ≤ 4000 → 24 + n.toNat + (if replyCrc s q then 4 else 0) ≤ slotBytes q →
    s.store.profSel.bind (profileAt s) = some p → exec (.bootProfileRead q) s =
    .next (reply s 0x0A05 q .ok ([w32 p.len, p.crc] ++ bytesWords n.toNat ((p.bytes.drop off.toNat).take n.toNat)))) ∧
  (∀ (q : Req) (s : State) (d : W32), Starts s 0x0C01 q → q.params = [d] → d.toNat < 32 → didValid d.toNat = true → d.toNat ≠ 0x0F →
    didList s.variant d.toNat ≠ [] → assoc s.det.last d.toNat = none → exec (.detStatus q) s = .next (reply s 0x0C01 q .ok
      [packF [(0, (didList s.variant d.toNat).length),
          (16, (((didList s.variant d.toNat).map (detUnit s d.toNat)).filter fun u => decide (u.bits ≠ 0)).length)],
        lo32 (listSum (((didList s.variant d.toNat).map (detUnit s d.toNat)).map fun u => u.count)),
        hi32 (listSum (((didList s.variant d.toNat).map (detUnit s d.toNat)).map fun u => u.count)), 0, 0, 0])) ∧
  (∀ (q : Req) (s s1 : State) (w a0 a1 : W32) (n : Nat), Starts s 0x0C02 q → q.params = [w, a0, a1, 0, 0] → onlyBits w 0xFFFF00FF#32 = true →
    4 < fld w 7 0 → didValid (fld w 7 0) = true → fld w 31 16 < didUnits (fld w 7 0) →
    detArgsOk s (fld w 7 0) (fld w 31 16) a0.toNat a1.toNat = true → didHere s.variant (fld w 7 0) (fld w 31 16) = true →
    detBusy s (fld w 7 0) (fld w 31 16) = false → detState s (fld w 7 0) (fld w 31 16) = false → noInjBit (fld w 7 0) = false →
    append (seated s 0x0C02 q) 0x21 0 (packF [(0, fld w 7 0), (16, fld w 31 16)])
      [detWord (fld w 7 0) (fld w 31 16) true, a0, a1, 0, 0, w32 q.stream.val] = (s1, n) →
    exec (.detInject q) s = .next (reply (unseated (detArm s1 (fld w 7 0) (fld w 31 16) a0.toNat a1.toNat 0) 0x0C02 q) 0x0C02 q .ok
      [lo32 n, hi32 n])) ∧
  (∀ (q : Req) (s : State) (a b c : W32), Starts s 0x0C03 q → q.params = [a, b, c] → onlyBits c 0x00FF1FFF#32 = true → 32 ≤ fld c 12 0 →
    fld c 12 0 ≤ slotBytes q - (if replyCrc s q then 32 else 28) → fld c 23 16 = 0 → exec (.detLogRead q) s = .next (reply s 0x0C03 q .ok
      (journalReply s (pair64 a b) (fld c 12 0) fun r => decide (0x20 ≤ r.typ) && decide (r.typ ≤ 0x22))))

/-- R545, R559, R574, R581–R583, R598, R600, R624 and R625. -/
def Obligations.ResetsAndPower : Prop :=
  (∀ s : State, exec .resetNAssert s = .next (setBoot (resetCore (closeAll s)) fun b => { b with resetN := false })) ∧
  (∀ s : State, s.boot.pwrOk = true → fwUp s = true → exec .pwrOkFall s = .next (powerDown (setStore (log s 0x10 0 (ledgerWords s))
    fun t => { t with sinceWrite := 0 }))) ∧
  (∀ s : State, s.boot.pwrOk = true → fwUp s = false → exec .pwrOkFall s = .next (powerDown s)) ∧
  (∀ s : State, s.boot.pwrOk = false → exec .pwrOkFall s = .next s ∧ exec .supplyOutOfRange s = .next s ∧ exec .oscInLoss s = .next s) ∧
  (∀ s : State, s.boot.pwrOk = true → exec .supplyOutOfRange s = .next (powerDown s) ∧ exec .oscInLoss s = .next (powerDown s)) ∧
  (∀ s : State, exec .vaoRise s = .next (vaoReset s) ∧ exec .vaoLoss s = .next (vaoReset s)) ∧
  (∀ s : State, s.boot.pwrOk = false → exec (.pwrOkRise 25000000) s = .next (setTh (wrF (wr (setBoot s fun b => { b with
    pwrOk := true, powerCycle := true, oscHold := false }) R.timStat 0 0 7) R.thStat 0 0 28 27 0) fun t => { t with restart := false })) ∧
  (∀ (b r : Fin 4) (s : State), s.boot.pwrOk = true → s.boot.oscHold = false → phase s = 0 → tstate s = 0 →
    exec (.resetRelease b r) s = .next (resetRelease s b.val r.val)) ∧
  (∀ (b r : Fin 4) (s : State), s.boot.pwrOk = false → exec (.resetRelease b r) s = .next s) ∧
  (∀ (b r : Fin 4) (s : State), s.boot.pwrOk = true → tstate s = 3 → exec (.thermalRestartRelease b r) s = .next (resetRelease
    (setTh (wrF (resetCore s) R.thStat 0 0 28 27 0) fun t => { t with restart := false }) b.val r.val)) ∧
  (∀ s : State, tstate s = 0 → phase s = 7 → onTrial s = false → exec (.mpWatchdogExpiry 0) s = .next (restartMp (dropExecuting (log
    { s with
      det := { s.det with
        restarts := (s.det.restarts.1 + 1, s.det.restarts.2), kickOff := s.det.kickOff.filter fun x => decide (x ≠ 0),
        cmpForce := s.det.cmpForce.filter fun x => decide (x ≠ 0) } }
    0x22 0x16#32 [0x16#32, lo32 s.ats.toNat, hi32 s.ats.toNat, w32 (s.det.restarts.1 + 1)])))) ∧
  (∀ s : State, tstate s = 0 → phase s = 7 → onTrial s = false → exec (.lockstepMismatch 1) s = .next (log
    { s with
      det := { s.det with
        restarts := (s.det.restarts.1, s.det.restarts.2 + 1), kickOff := s.det.kickOff.filter fun x => decide (x ≠ 1),
        cmpForce := s.det.cmpForce.filter fun x => decide (x ≠ 1) } }
    0x22 0x10017#32 [0x10017#32, lo32 s.ats.toNat, hi32 s.ats.toNat, w32 (s.det.restarts.2 + 1)])) ∧
  (∀ s : State, onTrial s = true → exec .fwActivateFallback s = .next (fallBack s)) ∧
  (∀ s : State, onTrial s = false → exec .fwActivateFallback s = .next s) ∧
  (∀ s : State, exec (.challengeExpiry 0) s = .next (setBoot s fun b => { b with nonce1 := none }) ∧
    exec (.challengeExpiry 1) s = .next (setBoot s fun b => { b with nonce2 := none })) ∧
  (∀ (id : CoreId) (s : State) (sc : Nat), s.boot.unlock = some sc → sc / 2 % 2 = 1 → benchHere s.variant id.bench.val = true →
    exec (.debugRequest id) s = .next (wakeDomain (putCore s id.bench.val id.core.val
      { coreOf s id.bench.val id.core.val with debug := true, dbgReq := true }) id.bench.val 5)) ∧
  (∀ (id : CoreId) (s : State), s.boot.unlock = none → exec (.debugRequest id) s = .next s)

/-- R584–R587, R590 and R591. -/
def Obligations.BootRom : Prop :=
  (∀ (img : List W32) (s : State), phase s = 2 → s.boot.romWait = false → bootSrc s = 0 → s.boot.tried = false →
    s.boot.selMagic ≠ 0x5345#32 → s.boot.flash0 = [] → exec (.imageFetchComplete img true) s =
    .next (let s1 := setBoot s fun b => { b with flash0 := img }
      if verifyCode s1 img true = 0 then startImage (wrB s1 R.bootStat 0 0 7 false) img
      else wrB (setBoot (wr s1 R.bootErr 0 0 (packF [(0, verifyCode s1 img true), (8, 0)])) fun b => { b with tried := true })
        R.bootStat 0 0 9 true)) ∧
  (∀ (img l : List W32) (clean : Bool) (s : State), phase s = 2 → s.boot.romWait = false → bootSrc s = 2 → chunkImage s = some l →
    exec (.imageFetchComplete img clean) s = .next (
      if verifyCode s l clean = 0 then setPhase (showImage (setBoot s fun b => { b with running := l })) 4
      else setBoot (wr s R.bootErr 0 0 (packF [(0, verifyCode s l clean), (8, 0)])) fun b => { b with chunks := [] })) ∧
  (∀ (img : List W32) (clean : Bool) (s : State), phase s ≠ 2 → exec (.imageFetchComplete img clean) s = .next s) ∧
  (∀ s : State, phase s = 2 → bootSrc s = 1 → 3146240 < rdF s R.bootPush 0 0 21 0 →
    exec (.bootPushGo .host) s = .next (wr s R.bootErr 0 0 0x0A#32)) ∧
  (∀ (s s1 : State) (ws : List MWord) (img : List W32) (c : Nat), phase s = 2 → bootSrc s = 1 → 576 ≤ rdF s R.bootPush 0 0 21 0 →
    rdF s R.bootPush 0 0 21 0 ≤ 3146240 → readWords s 0 ((rdF s R.bootPush 0 0 21 0 + 7) / 8) = (s1, ws) →
    img = (ws.flatMap fun x => [lo32 x.1.toNat, hi32 x.1.toNat]).take (rdF s R.bootPush 0 0 21 0 / 4) →
    c = verifyCode s1 img (!(ws.any fun x => x.2)) → exec (.bootPushGo .host) s =
    .next (if c = 0 then startImage s1 img else wr s1 R.bootErr 0 0 (packF [(0, c), (8, 0)]))) ∧
  (∀ (idx : Fin 65536) (ws : List W32) (s : State), phase s = 2 → bootSrc s = 2 → exec (.laceBootChunkRx idx ws) s =
    .next (setBoot s fun b => { b with chunks := putKey b.chunks idx.val (some (ws.take 62)) })) ∧
  (∀ (idx : Fin 65536) (ws : List W32) (s : State), phase s ≠ 2 → exec (.laceBootChunkRx idx ws) s = .next s) ∧
  (∀ s : State, phase s = 2 → bootSrc s = 2 → assoc s.boot.chunks 0 = none →
    exec .laceBootRetry s = .next (laceMsg s 6 0 [0x424F4F54#32])) ∧
  (∀ s : State, tstate s = 0 → phase s = 4 → s.boot.mpOnly = false → exec .urvarStartup s = .next (progress (queueProfile
    (measureProfile (measure (setPhase (replayAll (writeRoutes s)) 6)))))) ∧
  (∀ s : State, tstate s = 0 → phase s = 4 → s.boot.mpOnly = true → exec .urvarStartup s = .next (progress
    (measureProfile (measure (setPhase (replayAll s) 6))))) ∧
  (∀ s : State, tstate s ≠ 0 → exec .urvarStartup s = .next s)

/-- R604–R611. -/
def Obligations.IdentityCommands : Prop :=
  (∀ (q : Req) (s : State), Starts s 0x0D01 q → q.params = [] → s.boot.staging = none → exec (.fwStatus q) s =
    .next (reply s 0x0D01 q .ok [rd s R.bootStat, rd s R.fwVer, rd s R.secStat, rd s R.bootErr, imgVersion s.boot.other, 0xFFFFFFFF#32,
      packF [(0, s.boot.profRun), (16, b2n s.boot.profBad)], packF [(0, s.boot.profFail), (16, statNum s.boot.profStat)]])) ∧
  (∀ (q : Req) (s : State) (n : W32), Starts s 0x0D02 q → q.params = [n] → 576 ≤ n.toNat → n.toNat ≤ 3146240 → n.toNat % 64 = 0 →
    s.boot.activating = false → exec (.fwUpdateBegin q) s = .next (answered s 0x0D02 q
      (fun t => setBoot t fun b => { b with staging := some { len := n.toNat, words := [] } }) [])) ∧
  (∀ (q : Req) (s : State) (off w : W32) (ws : List W32) (g : Staging), Starts s 0x0D03 q → q.params = off :: w :: ws → ws.length < 1019 →
    off.toNat % 4 = 0 → s.boot.staging = some g → off.toNat + 4 * (ws.length + 1) ≤ g.len → exec (.fwUpdateData q) s =
    .next (answered s 0x0D03 q (fun t => setBoot t fun b => { b with
      staging := some { g with words := layWords g.words (off.toNat / 4) (w :: ws) } }) [])) ∧
  (∀ (q : Req) (s s1 : State) (g : Staging) (c : Nat), Starts s 0x0D04 (withOp q 0) → q.params = [] → s.boot.staging = some g →
    4 * g.words.length = g.len → rdB s R.bootStat 0 0 8 = false → mastheadBusy s = false → bootSrc s = 1 →
    s1 = setBoot (seated s 0x0D04 (withOp q 0)) (fun b => { b with flashBad := false }) → c = verifyCode s1 (stagedImage g) true →
    exec (.fwActivateActivate q true) s = .next (
      if c = 0 then showImage (restartMp (wrB (wrB (setBoot s1 fun b => { b with
        other := b.running, running := stagedImage g, staging := none, activating := true }) R.bootStat 0 0 8 true) R.bootStat 0 0 9 false))
      else reply (unseated (wr s1 R.bootErr 0 0 (packF [(0, c), (8, b2n (rdB s R.bootStat 0 0 7))])) 0x0D04 (withOp q 0))
        0x0D04 (withOp q 0) (verifyStatus c) [])) ∧
  (∀ (q : Req) (s : State) (ok : Bool), Starts s 0x0D04 (withOp q 0) → q.params = [] → s.boot.staging = none →
    exec (.fwActivateActivate q ok) s =
    .next (reply (setBoot s fun b => { b with flashBad := false }) 0x0D04 (withOp q 0) .state [])) ∧
  (∀ (q : Req) (s : State), Starts s 0x0D04 (withOp q 1) → q.params = [] → rdB s R.bootStat 0 0 8 = true → bootSrc s = 1 →
    exec (.fwActivateConfirm q false) s = .next (answered s 0x0D04 (withOp q 1)
      (fun t => log (wrB (setBoot t fun b => { b with flashBad := false }) R.bootStat 0 0 8 false) 0x30 0
        ([packF [(0, b2n (rdB s R.bootStat 0 0 7)), (1, 1)], imgVersion s.boot.running, w32 (imgSvn s.boot.running)] ++
          bytesWords 12 (imgDigest s.boot.running))) [])) ∧
  (∀ (q : Req) (s : State), Starts s 0x0D04 (withOp q 1) → q.params = [] → rdB s R.bootStat 0 0 8 = false →
    exec (.fwActivateConfirm q false) s =
    .next (reply (setBoot s fun b => { b with flashBad := false }) 0x0D04 (withOp q 1) .state [])) ∧
  (∀ (q : Req) (s : State) (off n : W32), Starts s 0x0D05 q → q.params = [off, n] → off.toNat % 4 = 0 → 4 ≤ n.toNat → n.toNat ≤ 200 →
    n.toNat % 4 = 0 → s.store.copy0 = true → exec (.idCertRead q) s = .next (reply s 0x0D05 q .ok
      (w32 Config.certChain.length :: bytesWords 50 ((Config.certChain.drop off.toNat).take n.toNat)))) ∧
  (∀ (q : Req) (s : State), Starts s 0x0D06 (withOp q 0) → q.params.length = 8 → exec (.attestQuote q) s =
    .next (reply s 0x0D06 (withOp q 0) .ok ([6#32] ++ sha384w (wordBytes (measLog s (List.range 6))) ++
      Config.burgeeSign (sha384w (wordBytes (q.params ++ measLog s (List.range 6))))))) ∧
  (∀ (q : Req) (first : Fin 8) (s : State), Starts s 0x0D06 (withOp q (1 + 2 * first.val)) → q.params = [] → first.val ≤ 5 →
    exec (.attestLog q first) s = .next (reply s 0x0D06 (withOp q (1 + 2 * first.val)) .ok
      (measLog s ((List.range 6).filter fun i => decide (first.val ≤ i) && decide (i ≤ first.val + 3))))) ∧
  (∀ (q : Req) (s : State), Starts s 0x0D07 q → q.params.length = 48 → s.boot.ownerFused = none → exec (.ownerKeyInstall q) s =
    .next (if ecdsaOk Config.ownerInstallKey (q.params.drop 24) (sha384 (wordBytes (q.params.take 24 ++ bindWords))) then
        answered s 0x0D07 q (fun t => log (wrB (setBoot t fun b => { b with
          ownerFused := some (sha384w (wordBytes (q.params.take 24))) }) R.bootStat 0 0 10 true) 0x32 0
          (sha384w (wordBytes (q.params.take 24)))) []
      else reply s 0x0D07 q .authFail [])) ∧
  (∀ (q : Req) (s : State) (h : List W32), Starts s 0x0D07 q → q.params.length = 48 → s.boot.ownerFused = some h →
    exec (.ownerKeyInstall q) s = .next (reply s 0x0D07 q .state [])) ∧
  (∀ (q : Req) (s : State), Starts s 0x0D08 (withOp q 0) → q.params = [] → exec (.debugUnlockChallenge q) s =
    .next (answered s 0x0D08 (withOp q 0)
      (fun t => setBoot t fun b => { b with nonce1 := some (Config.nonce s.boot.drawn).toNat, drawn := b.drawn + 1 })
      [lo32 (Config.nonce s.boot.drawn).toNat, hi32 (Config.nonce s.boot.drawn).toNat])) ∧
  (∀ (q : Req) (s : State), Starts s 0x0D09 (withOp q 0) → q.params = [] → exec (.diagSessionChallenge q) s =
    .next (answered s 0x0D09 (withOp q 0)
      (fun t => setBoot t fun b => { b with nonce2 := some (Config.nonce s.boot.drawn).toNat, drawn := b.drawn + 1 })
      [lo32 (Config.nonce s.boot.drawn).toNat, hi32 (Config.nonce s.boot.drawn).toNat])) ∧
  (∀ (q : Req) (s : State) (st : Status), Starts s 0x0D08 (withOp q 1) → q.params.length = 32 → s.boot.ownerFused = none →
    s.boot.sticky % 2 = 0 → st = tokenStatus s 1 q.params → exec (.debugUnlockOpen q) s = .next (
      let s1 := log (seated s 0x0D08 (withOp q 1)) 0x33 0
        [packF [(0, 1), (4, fld (nth q.params 0 0) 31 24), (12, statNum st)], nth q.params 3 0, nth q.params 4 0, w32 q.stream.val]
      let s2 := if st = .state ∨ st = .badParam then s1 else spend s1 1
      reply (unseated (if st = .ok then wrB (setBoot s2 fun b => { b with
        unlock := some (fld (nth q.params 0 0) 31 24), sticky := b.sticky + 1 }) R.bootStat 0 0 11 true else s2)
        0x0D08 (withOp q 1)) 0x0D08 (withOp q 1) st [])) ∧
  (∀ (q : Req) (s : State) (st : Status), Starts s 0x0D09 (withOp q 1) → q.params.length = 32 → s.boot.ownerFused = none →
    s.boot.sticky / 2 % 2 = 1 → st = tokenStatus s 2 q.params → exec (.diagSessionOpen q) s = .next (
      let s1 := log (seated s 0x0D09 (withOp q 1)) 0x33 0
        [packF [(0, 2), (4, fld (nth q.params 0 0) 31 24), (12, statNum st)], nth q.params 3 0, nth q.params 4 0, w32 q.stream.val]
      let s2 := if st = .state ∨ st = .badParam then s1 else spend s1 2
      reply (unseated (if st = .ok then wrB (setBoot s2 fun b => { b with diag := some q.stream.val }) R.bootStat 0 0 12 true else s2)
        0x0D09 (withOp q 1)) 0x0D09 (withOp q 1) st [])) ∧
  (∀ (q : Req) (s : State), Starts s 0x0D08 (withOp q 2) → q.params = [] → exec (.debugUnlockClose q) s =
    .next (answered s 0x0D08 (withOp q 2) (fun t => wrB (setBoot (detachAll t) fun b => { b with unlock := none }) R.bootStat 0 0 11 false) [])) ∧
  (∀ (q : Req) (s : State), Starts s 0x0D09 (withOp q 2) → q.params = [] → exec (.diagSessionClose q) s =
    .next (answered s 0x0D09 (withOp q 2) (fun t => wrB (setBoot t fun b => { b with diag := none }) R.bootStat 0 0 12 false) []))

/-- R465, R466, R480, R485, R489, R493, R494 and R509. -/
def Obligations.PacketsReceived : Prop :=
  (∀ (p : Packet) (qp : Fin 8) (n : Nat) (s : State), p.carrier = .pcie qp n → rdB s R.pnInj 0 0 0 = false → headerOk p = false →
    exec (.commandPacketRx p) s = .next (settle (arrive (raiseI (bump s R.pnCount 0 2 1) E.pn 0 0 1#32)
      { opcode := 0, req := { packetReq p with tag := 0, params := [] }, fail := some .integrity, noHdr := true }))) ∧
  (∀ (p : Packet) (src : W16) (n x : Nat) (s : State), p.carrier = .lace src n x → rdB s R.pnInj 0 0 0 = false → headerOk p = false →
    exec (.commandPacketRx p) s = .next (raiseI (bump s R.pnCount 0 2 1) E.pn 0 0 1#32)) ∧
  (∀ (p : Packet) (qp : Fin 8) (n : Nat) (s : State), p.carrier = .pcie qp n → rdB s R.pnInj 0 0 0 = false → headerOk p = true →
    packetFault s p (rdB s R.pnInj 0 0 1) = none → exec (.commandPacketRx p) s = .next (settle (arrive s
      { opcode := fld (pkW p 0) 15 0, req := packetReq p, fail := none, fwd := packetTarget s p }))) ∧
  (∀ (p : Packet) (n : Nat) (s : State), p.carrier = .i3c n → streamBusy s 8 = true →
    exec (.i3cPrivateWrite p) s = .next { s with readStat := .busy }) ∧
  (∀ (p : Packet) (n : Nat) (s : State), p.carrier = .i3c n → streamBusy s 8 = false → s.pn.waiting = [] → s.pn.i3cReply = none →
    fwUp s = true → exec (.i3cPrivateWrite p) s = .next (receive { s with readStat := .ok } p)) ∧
  (∀ (w : Writer) (v : W32) (s : State), mayInject s w = true →
    exec (.pnInjArm w v) s = .next (wr s R.pnInj 0 0 (rd s R.pnInj ||| (v &&& 3#32)))) ∧
  (∀ (x : Fin 65536) (st : Status) (ws : List W32) (s : State), (s.pn.forwards.find? fun f => decide (f.xid = x.val)) = none →
    exec (.forwardReplyRx x st ws) s = .next (raise (bump s R.pnCount 0 5 1) E.pn 0 3)) ∧
  (∀ (x : Fin 65536) (st : Status) (ws : List W32) (f : Forward) (s : State), (s.pn.forwards.find? fun f => decide (f.xid = x.val)) = some f →
    exec (.forwardReplyRx x st ws) s = .next (settle (endHeld (setPn s fun p => { p with
      forwards := removeFirst (fun y => decide (y = f)) p.forwards }) f.opcode f.req st ws))) ∧
  (∀ (x : Fin 65536) (f : Forward) (s : State), (s.pn.forwards.find? fun f => decide (f.xid = x.val)) = some f →
    exec (.forwardTimeout x) s = .next (forwardEnd (raise s E.pn 0 4) f .timeout [])) ∧
  (∀ (src : W16) (x : Fin 65536) (d : List TWord) (s : State), partialOf s src x.val = none →
    exec (.laceFragmentRx src x 0 1 d) s = .next (setPn (dropPartial s src x.val) fun p => { p with
      partials := p.partials ++ [{ src := src, xid := x.val, last := 1, frags := putKey [] 0 (some
        (d.flatMap fun w => [lo32 w.1.toNat, hi32 w.1.toNat])), bad := d.any fun w => w.2 }] })) ∧
  (∀ (src : W16) (x : Fin 65536) (d : List TWord) (s : State), partialOf s src x.val = none →
    exec (.laceFragmentRx src x 0 0 d) s = .next (lacePacket (dropPartial s src x.val) src x.val
      (d.flatMap fun w => [lo32 w.1.toNat, hi32 w.1.toNat]) (d.any fun w => w.2))) ∧
  (∀ (src : W16) (x : Fin 65536) (y : Partial) (s : State), partialOf s src x.val = some y →
    exec (.fragmentTimeout src x) s = .next (raiseI (bump (dropPartial s src x.val) R.pnCount 0 2 1) E.pn 0 0 1#32)) ∧
  (∀ (inner : List W32) (s s1 : State) (st : Status) (out : List W32), joined s = true → prepareHere s inner 9 = (s1, st, out) →
    exec (.prepareRx inner) s = .next (laceMsg s1 12 (mhId s) (packF [(0, statNum st)] :: out))) ∧
  (∀ (op : Fin 65536) (tag : W16) (c : Commit) (s : State), preparedOf s op.val tag = some c →
    exec (.confirmRx op tag) s = .next (laceMsg (confirmHere s op.val tag) 12 (mhId s) [packF [(0, op.val), (16, tag.toNat)]]) ∧
    exec (.abortRx op tag) s = .next (discardPrepared s c)) ∧
  (∀ (op : Fin 65536) (tag : W16) (s : State), preparedOf s op.val tag = none →
    exec (.confirmRx op tag) s = .next s ∧ exec (.abortRx op tag) s = .next s) ∧
  (∀ (n : Bool) (s : State), exec (.prepExpired n) s = .next (prepExpired s n)) ∧
  (∀ (x : Fin 11) (rs : List (Fin 65536 × Status)) (c : DCommit) (s : State), domainOf s x.val = some c →
    exec (.domainCommitDecision x rs) s = .next (settle (domainDecide s c (rs.map fun e => (e.1.val, e.2)))) ∧
    exec (.domainAckDeadline x) s = .next (settle (domainDeadline s c)) ∧
    ∀ dev : Fin 65536, exec (.confirmAckRx x dev) s = .next (settle (domainAck s c dev.val))) ∧
  (∀ (s : State) (ev : Event) (r : List Event), s.pn.pcieSink.buf = ev :: r → qpEn s 8 = true → cqOcc s 8 < qpSize s 8 →
    exec (.eventSinkDrain 0) s = .next (cqPost (sinkPop s .pcie) 8
      ([0, w32 ev.seq, 0, 0] ++ (eventPacket s ev 0 false ++ List.replicate 12 0#32).take 12) true)) ∧
  (∀ (k : Fin 3) (s : State), k.val ≠ 1 → s.pn.pcieSink.buf = [] → s.pn.laceSink.buf = [] →
    exec (.eventSinkDrain k) s = .next s)

/-- R422–R424, R426 and R486. -/
def Obligations.QueuePairs : Prop :=
  (∀ (p : Fin 64) (tail : Fin 8192) (s : State), qpEn s p.val = true → p.val ≠ 8 →
    (tail.val + 8192 - (rd s R.sqHead p.val).toNat) % 8192 ≤ qpSize s p.val →
    exec (.pcieSqDoorbell p tail) s = .next (wr s R.sqTail p.val 0 (w32 tail.val))) ∧
  (∀ (p : Fin 64) (tail : Fin 8192) (s : State), qpSize s p.val < (tail.val + 8192 - (rd s R.sqHead p.val).toNat) % 8192 →
    exec (.pcieSqDoorbell p tail) s = .next s) ∧
  (∀ (p : Fin 64) (n : Fin 16) (s : State), qpEn s p.val = false → 4 ≤ n.val → n.val ≤ 12 → exec (.qpEnable p n) s =
    .next (wr (wr (wr (wr (wr s R.qpCfg p.val 0 (packF [(0, n.val), (4, 1)])) R.sqTail p.val 0 0) R.sqHead p.val 0 0)
      R.cqTail p.val 0 0) R.cqHead p.val 0 0)) ∧
  (∀ (p : Fin 64) (s : State), qpEn s p.val = true → exec (.qpDisable p) s = .next (cqDrain (setHost (wrB s R.qpCfg p.val 0 4 false)
    fun h => { h with
      subs := h.subs.map (fun x => if x.qp = p.val then { x with dead := true } else x),
      dmas := h.dmas.filter fun d => decide (d.qp ≠ p.val) }) p.val)) ∧
  (∀ (p : Fin 64) (s : State), qpEn s p.val = false → exec (.qpDisable p) s = .next s) ∧
  (∀ (p : Fin 64) (h : Fin 8192) (s : State), qpEn s p.val = true →
    exec (.cqHeadWrite p h) s = .next (cqDrain (wr s R.cqHead p.val 0 (w32 h.val)) p.val)) ∧
  (∀ (p : Fin 8) (e : List W32) (s : State), qpEn s p.val = true → sqOcc s p.val ≠ 0 → fwUp s = true → sqFault e = none →
    exec (.pennantSqEntry p e false) s = .next (setHost (wr s R.sqHead p.val 0 (w32 (((rd s R.sqHead p.val).toNat + 1) % 8192)))
      fun h => { h with subs := h.subs ++ [{
        qp := p.val, sqix := (rd s R.sqHead p.val).toNat % qpSize s p.val, rlen := fld (nth e 1 0) 12 0,
        rbuf := pair64 (nth e 4 0) (nth e 5 0), dead := false }] })) ∧
  (∀ (p : Fin 8) (e : List W32) (r : Bool) (st : Status) (s : State), qpEn s p.val = true → sqOcc s p.val ≠ 0 → fwUp s = true →
    sqFault e = some st → exec (.pennantSqEntry p e r) s =
    .next (subDrain (setHost (wr s R.sqHead p.val 0 (w32 (((rd s R.sqHead p.val).toNat + 1) % 8192)))
      fun h => { h with subs := h.subs ++ [{
        qp := p.val, sqix := (rd s R.sqHead p.val).toNat % qpSize s p.val, rlen := fld (nth e 1 0) 12 0,
        rbuf := pair64 (nth e 4 0) (nth e 5 0), dead := false, bad := some st }] }) p.val)) ∧
  (∀ (p : Fin 8) (e : List W32) (s : State), qpEn s p.val = true → sqOcc s p.val ≠ 0 → fwUp s = true → sqFault e = none →
    exec (.pennantSqEntry p e true) s = .next (subDrain (setHost (raise (bump
      (wr s R.sqHead p.val 0 (w32 (((rd s R.sqHead p.val).toNat + 1) % 8192))) R.pnCount 0 3 1) E.pn 0 1)
      fun h => { h with subs := h.subs ++ [{
        qp := p.val, sqix := (rd s R.sqHead p.val).toNat % qpSize s p.val, rlen := fld (nth e 1 0) 12 0,
        rbuf := pair64 (nth e 4 0) (nth e 5 0), dead := false, bad := some .integrity }] }) p.val)) ∧
  (∀ (p : Nat) (s : State), ((s.host.subs.find? fun x => decide (x.qp = p)).map fun x => x.bad.isSome) ≠ some true →
    subDrain s p = s) ∧
  (∀ (p : Nat) (x : Sub) (st : Status) (l : List Sub) (s : State), s.host.subs = x :: l → x.qp = p → x.bad = some st → x.dead = false →
    ((l.find? fun x => decide (x.qp = p)).map fun x => x.bad.isSome) ≠ some true →
    subDrain s p = cqPost (setHost s fun h => { h with subs := l }) p
      ([packF [(0, statNum st)], 0, w32 x.sqix, 0] ++ List.replicate 12 0#32) true) ∧
  (∀ (p : Fin 64) (e : List W32) (s : State), 9 ≤ p.val → qpEn s p.val = true → sqOcc s p.val ≠ 0 → e.length = 16 →
    dmaBad e = false → exec (.hostDmaEntry p e) s =
    .next (setHost (wr s R.sqHead p.val 0 (w32 (((rd s R.sqHead p.val).toNat + 1) % 8192))) fun h => { h with
      dmas := h.dmas ++ [{ qp := p.val, sqix := (rd s R.sqHead p.val).toNat % qpSize s p.val, words := e }] })) ∧
  (∀ (p : Fin 64) (e : List W32) (s : State), 9 ≤ p.val → qpEn s p.val = true → sqOcc s p.val ≠ 0 → e.length = 16 →
    dmaBad e = true → exec (.hostDmaEntry p e) s =
    .next (dmaPost (wr s R.sqHead p.val 0 (w32 (((rd s R.sqHead p.val).toNat + 1) % 8192)))
      { qp := p.val, sqix := (rd s R.sqHead p.val).toNat % qpSize s p.val, words := e } .badParam)) ∧
  (∀ (p : Fin 64) (data : List Byte) (d : HostDma) (s s1 : State) (st : Status),
    (s.host.dmas.find? fun d => decide (d.qp = p.val)) = some d → bit (nth d.words 0 0#32) 0 = false →
    dmaIn ((fld (nth d.words 1 0#32) 24 0 + 1) / 256 + 2) s (pair64 (nth d.words 4 0#32) (nth d.words 5 0#32) % 2 ^ 48)
      ((data ++ List.replicate (fld (nth d.words 1 0#32) 24 0 + 1) 0#8).take (fld (nth d.words 1 0#32) 24 0 + 1)) = (s1, st) →
    exec (.hostDmaComplete p data) s = .next (settled s (dmaPost (setHost s1 fun h => { h with
      dmas := removeFirst (fun x => decide (x = d)) h.dmas }) d st))) ∧
  (∀ (p : Fin 64) (data out : List Byte) (d : HostDma) (s s1 : State) (st : Status) (ep : Bool),
    (s.host.dmas.find? fun d => decide (d.qp = p.val)) = some d → bit (nth d.words 0 0#32) 0 = true →
    dmaOut ((fld (nth d.words 1 0#32) 24 0 + 1) / 256 + 2) s (pair64 (nth d.words 4 0#32) (nth d.words 5 0#32) % 2 ^ 48)
      (fld (nth d.words 1 0#32) 24 0 + 1) [] false = (s1, st, out, ep) →
    exec (.hostDmaComplete p data) s = .next (settled s (dmaPost (setHost (setHost s1 fun h => { h with
      dmas := removeFirst (fun x => decide (x = d)) h.dmas }) fun h => { h with
      bufOut := h.bufOut ++ [(pair64 (nth d.words 2 0#32) (nth d.words 3 0#32), bytesWords out.length out, ep)] }) d st))) ∧
  (∀ s : State, exec .pcieFlr s = .next (flrStreams ((List.range 64).foldl (fun a p => qpClear (qpStop a p) p) s))) ∧
  (∀ (a : BitVec 45) (ws : List W64) (s s1 : State), netWrite s 39 (8 * a.toNat) (ws.map fun w => (w, true)) = (s1, .ok) →
    exec (.pcieEpWriteRx a ws) s = .next (settled s s1)) ∧
  (∀ (a : BitVec 45) (ws : List W64) (s s1 : State), netWrite s 39 (8 * a.toNat) (ws.map fun w => (w, true)) = (s1, .notPresent) →
    exec (.pcieEpWriteRx a ws) s = .next (settled s (bump s1 R.pcieDrop 0 0 1))) ∧
  (∀ (x : PcieTrain) (s : State), trainLegal x = true → (∀ k < x.lanes, laneState s k = 12) →
    exec (.pcieLinkStateChange true x) s = .next (setHost s fun h => { h with up := true, lanes := x.lanes, train := x })) ∧
  (∀ (x : PcieTrain) (s : State), trainLegal x = false → exec (.pcieLinkStateChange true x) s = .next s) ∧
  (∀ (x : PcieTrain) (s : State), exec (.pcieLinkStateChange false x) s = .next (setHost s fun h => { h with up := false }))

/-- R427, R429, R435–R437 and R489. The status bytes of GETSTATUS are a free value (log entry 93). -/
def Obligations.I3cAndPins : Prop :=
  (∀ (a : Fin 128) (s : State), s.host.i3cDyn = none → exec (.i3cEntdaa a) s = .next (setHost s fun h => { h with
    i3cOut := Config.i3cPid ++ [Config.i3cBcr, Config.i3cDcr], i3cDyn := some a.val })) ∧
  (∀ (a b : Fin 128) (s : State), s.host.i3cDyn = some b.val → exec (.i3cEntdaa a) s = .next s) ∧
  (∀ (a b : Fin 128) (s : State), s.host.i3cDyn = none → a.val = s.host.i3cStatic →
    exec (.i3cSetdasa a b) s = .next (setHost s fun h => { h with i3cDyn := some b.val })) ∧
  (∀ (a b : Fin 128) (s : State), a.val ≠ s.host.i3cStatic → exec (.i3cSetdasa a b) s = .next s) ∧
  (∀ s : State, exec .i3cRstdaa s = .next (setHost s fun h => { h with i3cDyn := none })) ∧
  (∀ (a : Nat) (s : State), s.host.i3cDyn = some a → ∀ r ∈ [(Instr.i3cGetpid, Config.i3cPid), (Instr.i3cGetbcr, [Config.i3cBcr]),
      (Instr.i3cGetdcr, [Config.i3cDcr]), (Instr.i3cGetmwl, (bytesOf 2 s.host.mwl).reverse),
      (Instr.i3cGetmrl, (bytesOf 2 s.host.mrl).reverse)],
    exec r.1 s = .next (setHost s fun h => { h with i3cOut := r.2 })) ∧
  (∀ s : State, s.host.i3cDyn = none → ∀ i ∈ [Instr.i3cGetpid, .i3cGetbcr, .i3cGetdcr, .i3cGetmwl, .i3cGetmrl, .i3cGetstatus],
    exec i s = .next s) ∧
  (∀ (a : Nat) (s : State), s.host.i3cDyn = some a → exec .i3cGetstatus s =
    .next (setHost (drawFree s).2 fun h => { h with i3cOut := bytesOf 2 (drawFree s).1.toNat })) ∧
  (∀ (a : Nat) (e : Byte) (s : State), s.host.i3cDyn = some a → bit e 0 = true →
    exec (.i3cEnec e) s = .next (ibiSync (setHost s fun h => { h with i3cEv := true })) ∧
    exec (.i3cDisec e) s = .next (ibiSync (setHost s fun h => { h with i3cEv := false }))) ∧
  (∀ (a : Nat) (n : Fin 65536) (s : State), s.host.i3cDyn = some a →
    exec (.i3cSetmwl n) s = .next (setHost s fun h => { h with mwl := n.val }) ∧
    exec (.i3cSetmrl n) s = .next (setHost s fun h => { h with mrl := n.val })) ∧
  (∀ (x : Byte) (s : State), exec (.i3cRstact x) s = .next (setHost s fun h => { h with i3cRst := x.toNat })) ∧
  (∀ (r : Reply) (s : State), s.pn.i3cReply = some r → exec .i3cPrivateRead s = .next (ibiSync (setHost (setPn s fun n =>
    { n with i3cReply := none }) fun h => { h with i3cOut := wordBytes (replyPacket s r) }))) ∧
  (∀ s : State, s.pn.i3cReply = none → s.pn.i3cSink.buf = [] → exec .i3cPrivateRead s = .next (setHost s fun h => { h with i3cOut := [] })) ∧
  (∀ (ev : Event) (l : List Event) (s : State), s.pn.i3cReply = none → s.pn.i3cSink.buf = ev :: l → exec .i3cPrivateRead s =
    .next (ibiSync (sinkPop (setHost s fun h => { h with i3cOut := wordBytes (eventPacket s ev 0 true) }) .i3c))) ∧
  (∀ (k : Fin 16) (v : Bool) (s : State), bit s.host.gpioIn k.val ≠ v → fld (nth s.host.gpio k.val 0) 1 0 = 2 →
    exec (.gpioEdge k v) s = .next (setHost s fun h => { h with
      gpioIn := setBit h.gpioIn k.val v, gpioEdge := setBit h.gpioEdge k.val true })) ∧
  (∀ (k : Fin 16) (v : Bool) (s : State), bit s.host.gpioIn k.val = v → exec (.gpioEdge k v) s = .next s) ∧
  (∀ (k : Fin 16) (s : State), fld (nth s.host.gpio k.val 0) 1 0 ≠ 3 ∨
    tickNow s % markPeriod (nth s.host.gpio k.val 0) ≠ fld (nth s.host.gpio k.val 0) 19 7 → exec (.gpioMarkPulse k) s = .next s) ∧
  (∀ (k : Fin 16) (s : State), fld (nth s.host.gpio k.val 0) 1 0 = 3 →
    tickNow s % markPeriod (nth s.host.gpio k.val 0) = fld (nth s.host.gpio k.val 0) 19 7 →
    exec (.gpioMarkPulse k) s = .next (setHost s fun h => { h with marks := h.marks ++ [(k.val, s.ats)] })) ∧
  (∀ (q : Req) (s : State) (w : W32), Starts s 0x0506 q → q.params = [w] → onlyBits w 0xFF#32 = true →
    exec (.synceOutConfig q) s = .next (reply (setHost s fun h => { h with synce := w }) 0x0506 q .ok [])) ∧
  (∀ (q : Req) (s : State), Starts s 0x0507 q → wellFormed q.params (List.replicate 16 0x000FFFFF#32 ++ [0xFF#32, 0xFF#32]) = true →
    (∀ w ∈ q.params.take 16, fld w 4 3 < 2 ∧ fld w 19 7 < markPeriod w) → exec (.pinConfig q) s = .next (answered s 0x0507 q
      (fun t => (t.fh.macs.map fun e => e.1).foldl startLine (setHost t fun h => { h with
        gpio := q.params.take 16, fcInPol := BitVec.ofNat 16 (par q 16).toNat, fcOutPol := BitVec.ofNat 16 (par q 17).toNat })) [])) ∧
  (∀ (q : Req) (s : State) (ms : List Nat), Starts s 0x0505 q →
    wellFormed q.params [0x7FF#32, 0xFFFFFFFF#32, 0xFFFFFFFF#32, 0xFFFFFFFF#32, 0xFFFFFFFF#32, 0xFF#32] = true →
    ((List.range 128).filter fun m => bit (par q (1 + m / 32)) (m % 32)) = ms → ms.length ≤ 16 → bit (par q 0) 2 = true ∨ ms.length ≤ 1 →
    (∀ m ∈ ms, laneHere s.variant (2 * m) = true ∧ macEn s m = true) →
    exec (.ptpConfig q) s = .next (reply (setHost s fun h => { h with ptp := q.params }) 0x0505 q .ok []))

/-- R383–R388 and the RETRAIN bit of R394: every row about a lane, for one that the variant has. That a timeout names its phase is
the model's choice (log entry 140). -/
def Obligations.LaneTraining : Prop :=
  (∀ (n : Fin 256) (f : W32) (e : List W16) (k : Bool) (bs : List Block) (s : State), laneHere s.variant n.val = true → laneState s n.val = 1 →
    rdB s R.laneStat n.val 0 7 = false →
    exec (.trainingPhasePass n f e k bs) s = .next (lanesMoved (linkSync (setLaneState s n.val 2) n.val))) ∧
  (∀ (n : Fin 256) (f : W32) (e : List W16) (k : Bool) (bs : List Block) (s : State), laneHere s.variant n.val = true → laneState s n.val = 2 →
    laneRole s n.val = 1 → exec (.trainingPhasePass n f e k bs) s =
    .next (lanesMoved (linkSync (setLaneState (wr s R.lnFreq n.val 0 f) n.val 3) n.val))) ∧
  (∀ (n : Fin 256) (f : W32) (e : List W16) (k : Bool) (bs : List Block) (s : State), laneHere s.variant n.val = true → laneState s n.val = 3 →
    exec (.trainingPhasePass n f e k bs) s = .next (lanesMoved (linkSync (modLaneSt (setLaneState s n.val 4) n.val
      fun x => { x with eq := e.take 18, txRun := (0, 0), rxRun := (0, 0) }) n.val))) ∧
  (∀ (n : Fin 256) (f : W32) (e : List W16) (k : Bool) (bs : List Block) (s : State), laneHere s.variant n.val = true → laneState s n.val = 4 →
    laneRole s n.val = 1 → exec (.trainingPhasePass n f e k bs) s = .next (lanesMoved (linkSync (setLaneState s n.val 6) n.val))) ∧
  (∀ (n : Fin 256) (f : W32) (e : List W16) (k : Bool) (bs : List Block) (s : State), laneHere s.variant n.val = true →
    laneState s n.val = 5 → laneRole s n.val ≠ 2 →
    exec (.trainingPhasePass n f e k bs) s = .next (lanesMoved (linkSync (setLaneState s n.val 6) n.val))) ∧
  (∀ (n : Fin 256) (f : W32) (e : List W16) (bs : List Block) (s : State), laneHere s.variant n.val = true →
    laneState s n.val = 4 → laneRole s n.val = 2 →
    exec (.trainingPhasePass n f e false bs) s = .next (lanesMoved (linkSync (blockMet (trainBlocks s n.val bs) n.val) n.val)) ∧
    exec (.trainingPhasePass n f e true bs) s = .next (lanesMoved (linkSync (failAttempt (trainBlocks s n.val bs) n.val 5) n.val))) ∧
  (∀ (n : Fin 256) (f : W32) (e : List W16) (k : Bool) (bs : List Block) (s : State), laneHere s.variant n.val = true →
    laneState s n.val = 5 → laneRole s n.val = 2 →
    syncOf ((bs.filter fun b => decide ((typeOf b.typ).map (fun x => x.1) = some tSYNC)).map fun b => b.payload.flatMap bitsOf) = none →
    exec (.trainingPhasePass n f e k bs) s = .next (lanesMoved (linkSync (syncOut (trainBlocks s n.val bs) n.val bs.length) n.val))) ∧
  (∀ (n : Fin 256) (f w : W32) (e : List W16) (k : Bool) (bs : List Block) (s : State), laneHere s.variant n.val = true →
    laneState s n.val = 5 → laneRole s n.val = 2 →
    syncOf ((bs.filter fun b => decide ((typeOf b.typ).map (fun x => x.1) = some tSYNC)).map fun b => b.payload.flatMap bitsOf) = some w →
    exec (.trainingPhasePass n f e k bs) s = .next (lanesMoved (linkSync (modLaneSt (setLaneState
      (syncOut (trainBlocks s n.val bs) n.val bs.length) n.val 6) n.val fun x => { x with rxScr := w }) n.val))) ∧
  (∀ (n : Fin 256) (f : W32) (e : List W16) (k : Bool) (bs : List Block) (s : State), laneHere s.variant n.val = true → laneState s n.val = 6 →
    laneRole s n.val = 1 → receiveOnly s n.val = false → exec (.trainingPhasePass n f e k bs) s = .next (lanesMoved (linkSync
      (raise (wrF (setLaneState (modLaneSt s n.val fun x => { x with last := (6, 0) }) n.val 7) R.laneStat n.val 0 6 4 0)
        E.lane n.val 2) n.val))) ∧
  (∀ (n : Fin 256) (f : W32) (e : List W16) (k : Bool) (bs : List Block) (s : State), laneHere s.variant n.val = false →
    exec (.trainingPhasePass n f e k bs) s = .next s ∧ (∀ ph, exec (.trainingPhaseTimeout ⟨n, ph⟩) s = .next s) ∧
    exec (.backoffEnd n) s = .next s) ∧
  (∀ (n : Fin 256) (ph : Fin 7) (s : State), laneHere s.variant n.val = true → receiveOnly s n.val = false →
    laneState s n.val = ph.val → exec (.trainingPhaseTimeout ⟨n, ph⟩) s = .next (lanesMoved (failAttempt s n.val 1))) ∧
  (∀ (n : Fin 256) (ph : Fin 7) (s : State), laneHere s.variant n.val = true → laneState s n.val ≠ ph.val →
    exec (.trainingPhaseTimeout ⟨n, ph⟩) s = .next (lanesMoved s)) ∧
  (∀ (n : Fin 256) (s : State), laneHere s.variant n.val = true → laneState s n.val = 8 →
    exec (.backoffEnd n) s = .next (lanesMoved (linkSync (beginAttempt s n.val false) n.val))) ∧
  (∀ (n : Fin 256) (s : State), laneHere s.variant n.val = true → laneState s n.val = 9 → (laneSt s n.val).retried = false →
    exec (.noPartnerRetry n) s = .next (lanesMoved (linkSync (beginAttempt (modLaneSt s n.val
      fun x => { x with retried := true }) n.val false) n.val))) ∧
  (∀ (n : Fin 256) (i : Fin 13) (v : W16) (s : State), laneHere s.variant n.val = true → laneState s n.val = 7 →
    rdB s R.laneCtl n.val 0 8 = true → exec (.eqBgStep n i v) s =
    .next (lanesMoved (modLaneSt s n.val fun x => { x with eq := setNth x.eq i.val v }))) ∧
  (∀ (n : Fin 256) (p : Nat) (s : State), laneHere s.variant n.val = true → lanePort s n.val = some p → laneRole s n.val = 2 →
    laneState s n.val = 7 → portRing s p = false → rdB s R.lcStat p 0 3 = false → rdB s R.lcStat p 0 4 = false →
    (∀ k ∈ portLanes s p, laneState s k = 7 ∨ laneState s k = 10) → (portOf s p).eiReq = true →
    exec (.eiEntry n) s = .next (lanesMoved (linkSync (setLaneState s n.val 10) n.val))) ∧
  (∀ (n : Fin 256) (p : Nat) (s : State), laneHere s.variant n.val = true → laneState s n.val = 10 → lanePort s n.val = some p →
    (portOf s p).txq ≠ [] → (laneSt s n.val).exiting = false → exec (.eiExitRequest n) s =
    .next (lanesMoved (modLaneSt s n.val fun x => { x with exiting := true, line := x.line ++ exitBurst (portL56 s p) }))) ∧
  (∀ (n : Fin 256) (s : State), laneHere s.variant n.val = true → laneState s n.val = 10 →
    exec (.eiSync64Missing n) s = .next (lanesMoved (retrain (raise s E.lane n.val 8) n.val))) ∧
  (∀ (n : Fin 256) (s s1 : State), laneHere s.variant n.val = true → laneState s n.val = 10 →
    linkSync (bump (modLaneSt (setLaneState s n.val 7) n.val fun x => { x with exiting := false }) R.lnCount n.val 6 1) n.val = s1 →
    lanePort s1 n.val = none → exec (.eiExitComplete n) s = .next (lanesMoved s1)) ∧
  (∀ (n : Fin 256) (s : State), laneHere s.variant n.val = true →
    exec (.laneRetrainBit .mp n) s = .next (lanesMoved (retrainCmd s n.val)) ∧
    exec (.laneRetrainBit .host n) s = .next (lanesMoved s))

/-- R375, R381, R382, R390, R391, R394 and R570. -/
def Obligations.LaneDetectors : Prop :=
  (∀ (n : Fin 256) (s : State), laneHere s.variant n.val = true → laneForced s n.val 1 = false → rdB s R.laneStat n.val 0 7 = true →
    laneState s n.val ≠ 10 → exec (.losChange n false) s = .next (lanesMoved
      (raise (bump (wrB s R.laneStat n.val 0 7 false) R.lnCount n.val 2 1) E.lane n.val 0))) ∧
  (∀ (n : Fin 256) (s s1 : State), laneHere s.variant n.val = true → laneForced s n.val 1 = false → rdB s R.laneStat n.val 0 7 = false →
    laneState s n.val = 7 → raise (bump (wrB s R.laneStat n.val 0 7 true) R.lnCount n.val 2 1) E.lane n.val 0 = s1 →
    exec (.losChange n true) s = .next (lanesMoved (retrain s1 n.val))) ∧
  (∀ (n : Fin 256) (s : State), laneHere s.variant n.val = true → laneForced s n.val 2 = false → rdB s R.laneStat n.val 0 8 = true →
    exec (.lolChange n false) s = .next (lanesMoved
      (raise (bump (wrB s R.laneStat n.val 0 8 false) R.lnCount n.val 3 1) E.lane n.val 1))) ∧
  (∀ (n : Fin 256) (s s1 : State), laneHere s.variant n.val = true → laneForced s n.val 2 = false → rdB s R.laneStat n.val 0 8 = false →
    laneState s n.val = 7 → raise (bump (wrB s R.laneStat n.val 0 8 true) R.lnCount n.val 3 1) E.lane n.val 1 = s1 →
    exec (.lolChange n true) s = .next (lanesMoved (retrain s1 n.val))) ∧
  (∀ (w : Writer) (n : Fin 256) (d : Fin 65536) (s : State), mayInject s w = true → laneHere s.variant n.val = true →
    exec (.laneShellInjArm w n 1 d) s = .next (lanesMoved (losChange (wr s R.laneInj n.val 0
      (packF [(0, 1), (2, 1), (16, d.val)])) n.val true true)) ∧
    exec (.laneShellInjArm w n 3 d) s = .next (lanesMoved s)) ∧
  (∀ (w : Writer) (q : Fin 64) (d : Fin 65536) (s : State), mayInject s w = true → quadHere s.variant q.val = true →
    exec (.quadShellInjArm w q 2 d) s = .next (lanesMoved (pllLose (wr s R.quadInj q.val 0
      (packF [(0, 2), (2, 1), (16, d.val)])) q.val 1 true))) ∧
  (∀ (q : Fin 64) (p : Fin 2) (s : State), quadHere s.variant q.val = true → exec (.pllUnlock q p false) s =
    .next (lanesMoved ((List.range 4).foldl (fun a i => if laneState a (4 * q.val + i) ≠ 0 then lolChange a (4 * q.val + i) true false else a)
      (raise (wrB s R.quadStat q.val 0 p.val false) E.quad q.val 0)))) ∧
  (∀ (q : Fin 64) (p : Fin 2) (s : State), quadHere s.variant q.val = true → rdB s R.quadInj q.val 0 2 = false →
    exec (.pllUnlock q p true) s = .next (wrB s R.quadStat q.val 0 p.val true)) ∧
  (∀ (q : Fin 64) (s : State), quadHere s.variant q.val = true →
    exec (.refLoss q false) s = .next (raise (wrB s R.quadStat q.val 0 2 false) E.quad q.val 1) ∧
    exec (.refLoss q true) s = .next (wrB s R.quadStat q.val 0 2 true)) ∧
  (∀ (q : Fin 64) (p : Fin 2) (b : Bool) (s : State), quadHere s.variant q.val = false →
    exec (.pllUnlock q p b) s = .next s ∧ exec (.refLoss q b) s = .next s) ∧
  (∀ (t : Fin 4) (s : State), rdB s R.rclkSel 0 t.val 8 = true → laneState s (rdF s R.rclkSel 0 t.val 7 0) ≠ 7 →
    rdB s R.rclkSel 0 t.val 9 = false →
    exec (.trackHold t) s = .next { wrB s R.rclkSel 0 t.val 9 true with rclkHold := s.rclkHold ++ [t.val] }) ∧
  (∀ (t : Fin 4) (s : State), rdB s R.rclkSel 0 t.val 8 = false ∨ rdB s R.rclkSel 0 t.val 9 = true → exec (.trackHold t) s = .next s) ∧
  (∀ (t : Fin 4) (s : State), laneState s (rdF s R.rclkSel 0 t.val 7 0) = 7 →
    exec (.trackHoldRelease t) s = .next (wrB s R.rclkSel 0 t.val 9 false)) ∧
  (∀ (n : Fin 256) (bs : List Bool) (s : State), laneHere s.variant n.val = true →
    (rdB s R.laneStat n.val 0 9 = false → exec (.checkerLock n bs) s = .next (lanesMoved (chkBits s n.val bs)) ∧
      exec (.checkerLockLoss n bs) s = .next (lanesMoved s)) ∧
    (rdB s R.laneStat n.val 0 9 = true → exec (.checkerLockLoss n bs) s = .next (lanesMoved (chkBits s n.val bs)) ∧
      exec (.checkerLock n bs) s = .next (lanesMoved s))) ∧
  (∀ (w : Writer) (n : Fin 256) (s : State), laneHere s.variant n.val = true → mayInject s w = true → laneState s n.val = 11 →
    rdF s R.lnTest n.val 0 8 7 = 1 →
    exec (.laneInjgo w n) s = .next (lanesMoved (modLaneSt s n.val fun x => { x with flips := x.flips + 1 }))) ∧
  (∀ (w : Writer) (n : Fin 256) (s : State), laneHere s.variant n.val = true → laneState s n.val = 0 →
    exec (.laneInjgo w n) s = .next (lanesMoved s))

/-- R395–R401, for commands that start at once. -/
def Obligations.LaneCommands : Prop :=
  (∀ (q : Req) (s : State) (w ctl t0 t1 : W32), Starts s 0x0401 q → q.params = [w, ctl, t0, t1] →
    wellFormed q.params [0x1FFFF#32, 0xFFF001FF#32, 0xFFFFFFFF#32, 0x00FFFFFF#32] = true → fld w 16 8 = 1 → laneHere s.variant (fld w 7 0) = true →
    fld ctl 2 0 = 1 → fld ctl 5 3 ≤ 2 → R.lnLosCfg.legal (packF [(0, fld ctl 27 20), (8, fld ctl 31 28)]) = true → R.lnTrn0.legal t0 = true →
    R.lnTrn1.legal t1 = true → (quadCodes s (fld w 7 0 / 4) fun k => if k = fld w 7 0 then (1, fld ctl 5 3) else (laneRole s k, laneRate s k)).length ≤ 2 →
    carriesPcie s (fld w 7 0) = false → ssc0 s = false → laneRole s (fld w 7 0) ≠ 2 →
    exec (.laneConfig q) s = .next (answered s 0x0401 q (fun t => lanesMoved (laneApply t (ctl &&& 0x1FF#32)
      (packF [(0, fld ctl 27 20), (8, fld ctl 31 28)]) t0 t1 (fld w 7 0))) [])) ∧
  (∀ (q : Req) (s : State) (w : W32), Starts s 0x0402 q → q.params = [w] → onlyBits w 0xFF#32 = true → laneHere s.variant (fld w 7 0) = true →
    exec (.laneStatus q) s = .next (reply s 0x0402 q .ok [rd s R.laneStat (fld w 7 0), rd s R.lnFreq (fld w 7 0), rd s R.lnLast (fld w 7 0),
      rd s R.lnCount (fld w 7 0) 1, rd s (R.lnCount.next 1) (fld w 7 0) 1])) ∧
  (∀ (q : Req) (s : State) (w : W32), Starts s 0x0403 q → q.params = [w] → onlyBits w 0x1FFFF#32 = true → fld w 16 8 = 1 →
    laneHere s.variant (fld w 7 0) = true → laneState s (fld w 7 0) ≠ 0 → laneState s (fld w 7 0) ≠ 11 → laneState s (fld w 7 0) ≠ 12 →
    exec (.laneRetrain q) s = .next (answered s 0x0403 q (fun t => lanesMoved (retrainCmd t (fld w 7 0))) [])) ∧
  (∀ (q : Req) (s : State) (w l lo hi : W32), Starts s 0x0404 q → q.params = [w, l, lo, hi] → onlyBits w 0x003FFFFF#32 = true →
    onlyBits l 0xFF#32 = true → R.lnTest.legal w = true → laneHere s.variant (fld l 7 0) = true → laneRole s (fld l 7 0) = 4 →
    fld w 8 7 = 0 → exec (.laneTest q) s = .next (answered s 0x0404 q (fun t => testWrite
      (wr (wr t R.lnUserLo (fld l 7 0) 0 lo) R.lnUserHi (fld l 7 0) 0 hi) (fld l 7 0) w) [])) ∧
  (∀ (q : Req) (s : State) (w : W32), Starts s 0x0405 q → q.params = [w] → onlyBits w 0xFF#32 = true → laneHere s.variant (fld w 7 0) = true →
    exec (.laneTestRead q) s = .next (reply s 0x0405 q .ok [rd s R.lnChkErrLo (fld w 7 0), rd s R.lnChkErrHi (fld w 7 0),
      rd s R.lnChkBitsLo (fld w 7 0), rd s R.lnChkBitsHi (fld w 7 0), rd s R.laneStat (fld w 7 0)])) ∧
  (∀ (q : Req) (s : State) (w : W32), Starts s 0x0406 q → q.params = [w, 0, 0, 0, 0] → onlyBits w 0xFF#32 = true → w = s.refclk →
    laneHere s.variant 0 = true → exec (.refclkConfig q) s = .next (answered s 0x0406 q (fun t => (List.range 4).foldl (fun a k =>
      wr a R.rclkSel 0 k (setBit 0#32 9 (decide (rd a R.rclkSel 0 k &&& 0x1FF#32 = 0#32) && rdB a R.rclkSel 0 k 9))) t) [])) ∧
  (∀ (q : Req) (s : State) (w : W32), Starts s 0x0407 q → q.params = [w] → onlyBits w 0x3FF#32 = true → fld w 7 6 = 0 →
    quadHere s.variant (fld w 5 0) = true → (∀ i < 4, laneRole s (4 * fld w 5 0 + i) = 0) →
    exec (.quadRef q) s = .next (reply (wr s R.qref (fld w 5 0) 0 (packF [(0, 0), (2, fld w 9 8)])) 0x0407 q .ok []))

/-- R443–R449 and R457: every row of a port's link layer. -/
def Obligations.LaceLinks : Prop :=
  (∀ (p : Fin 32) (q : Fin 256) (b : Block) (s s1 : State), portState s p.val = 3 → recvBlock s p.val b = (s1, some tFLIT) →
    q.val = (portOf s1 p.val).rxSeq → exec (.flitRx p q b) s = .next (
      let s2 := modPort (modPort s1 p.val fun y => { y with since := y.since + 1 }) p.val fun y => { y with
        rxSeq := (y.rxSeq + 1) % 256, naked := false, ackDue := true, rx := y.rx ++ [b.payload], eiReq := false, spliceAt := none }
      if 31 ≤ (portOf s1 p.val).since then sendLctl s2 p.val false else s2)) ∧
  (∀ (p : Fin 32) (q : Fin 256) (b : Block) (s s1 : State), portState s p.val = 3 → recvBlock s p.val b = (s1, some tFLIT) →
    q.val ≠ (portOf s1 p.val).rxSeq → (portOf s1 p.val).naked = false → exec (.flitRx p q b) s = .next (sendLctl (modPort
      (modPort s1 p.val fun y => { y with since := y.since + 1 }) p.val fun y => { y with naked := true }) p.val true)) ∧
  (∀ (p : Fin 32) (q : Fin 256) (b : Block) (s s1 : State), portState s p.val = 3 → recvBlock s p.val b = (s1, some tFLIT) →
    q.val ≠ (portOf s1 p.val).rxSeq → (portOf s1 p.val).naked = true → exec (.flitRx p q b) s = .next (
      let s2 := modPort s1 p.val fun y => { y with since := y.since + 1 }
      if 31 ≤ (portOf s1 p.val).since then sendLctl s2 p.val false else s2)) ∧
  (∀ (p : Fin 32) (q : Fin 256) (b : Block) (s s1 : State), portState s p.val = 3 → recvBlock s p.val b = (s1, none) →
    (typeOf b.typ).map (fun x => x.1) = some tFLIT → (portOf s1 p.val).naked = false ∨ q.val = (portOf s1 p.val).rxSeq →
    exec (.flitRx p q b) s = .next (sendLctl (modPort
      (modPort s1 p.val fun y => { y with since := y.since + 1 }) p.val fun y => { y with naked := true }) p.val true)) ∧
  (∀ (p : Fin 32) (q : Fin 256) (b : Block) (s : State), portState s p.val ≠ 3 → exec (.flitRx p q b) s = .next s) ∧
  (∀ (p : Fin 32) (b : Block) (s s1 : State), portState s p.val = 3 → recvBlock s p.val b = (s1, some tLCTL) →
    bit (nth b.payload 0 0#32) 8 = false → exec (.lctlRx p b) s = .next (pump (modPort s1 p.val fun y => { y with
      unacked := ackTo_ y.unacked (fld (nth b.payload 0 0#32) 7 0), spliceAt := none,
      credits := (y.credits.zipIdx).map fun c => c.1 + fld (nth b.payload (1 + c.2) 0) 15 0 }) p.val)) ∧
  (∀ (p : Fin 32) (s : State), portState s p.val = 3 → (portOf s p.val).ackDue = true →
    exec (.lctlSendTimer p) s = .next (sendLctl s p.val false)) ∧
  (∀ (p : Fin 32) (s : State), portState s p.val ≠ 3 → exec (.lctlSendTimer p) s = .next s ∧ exec (.replayTimeout p) s = .next s) ∧
  (∀ (p : Fin 32) (s : State), portState s p.val = 3 → exec (.replayTimeout p) s = .next (replay s p.val)) ∧
  (∀ (p : Fin 32) (s : State), portState s p.val = 3 → (portOf s p.val).unacked = [] → exec (.replayTimeout p) s = .next s) ∧
  (∀ (p : Fin 32) (s : State), portState s p.val = 2 → receiveOnly s (nth (portLanes s p.val) 0 0) = false →
    exec (.hskSendTimer p) s = .next (sendBlock s p.val tHSK (hskPayload s p.val none))) ∧
  (∀ (p : Fin 32) (s : State), portState s p.val = 5 →
    exec (.hskSendTimer p) s = .next (sendBlock s p.val tHSK (hskPayload s p.val (some (portOf s p.val).rxSeq)))) ∧
  (∀ (p : Fin 32) (b : Block) (r : Nat) (s s1 : State), recvBlock s p.val b = (s1, some tHSK) → hskFault s1 p.val b.payload = some r →
    exec (.hskRx p b) s = .next (spliceCheck (hoistFix (
      let s2 := raise (wrF s1 R.lcStat p.val 0 24 22 r) E.lc p.val 5
      portSync ((portLanes s2 p.val).foldl (fun a n => if laneRole a n = 2 ∧ laneState a n = 6 ∧ (lanePort a n).getD p.val = p.val then
        failLane a n 0 else a) s2) p.val)))) ∧
  (∀ (p : Fin 32) (b : Block) (s s1 : State), recvBlock s p.val b = (s1, some tHSK) → hskFault s1 p.val b.payload = none →
    portState s1 p.val = 3 → bit (nth b.payload 0 0#32) 18 = true → portRing s1 p.val = true →
    exec (.hskRx p b) s = .next (spliceCheck (hoistFix (newPartner s1 p.val b.payload)))) ∧
  (∀ (p : Fin 32) (b : Block) (s s1 s2 : State), recvBlock s p.val b = (s1, some tHSK) → hskFault s1 p.val b.payload = none →
    portState s1 p.val = 2 → bit (nth b.payload 0 0#32) 17 = true →
    modPort (showPartner s1 p.val b.payload) p.val (fun y => { y with hsRx := true, hsAck := true }) = s2 →
    receiveOnly s2 (nth (portLanes s2 p.val) 0 0) = false →
    exec (.hskRx p b) s = .next (spliceCheck (hoistFix (handshakeDone s2 p.val)))) ∧
  (∀ (p : Fin 32) (m : Bool) (s : State), portState s p.val = 3 ∨ portState s p.val = 4 →
    m = true ∨ linesBad s p.val = true ∨ (portOf s p.val).leave = true → exec (.laceLinkLoss ⟨p, m⟩) s = .next (linkLost s p.val)) ∧
  (∀ (p : Fin 32) (s : State), linesBad s p.val = false → (portOf s p.val).leave = false →
    exec (.laceLinkLoss ⟨p, false⟩) s = .next s) ∧
  (∀ (p : Fin 32) (m : Bool) (s : State), portState s p.val = 0 → exec (.laceLinkLoss ⟨p, m⟩) s = .next s) ∧
  (∀ (p : Fin 32) (s : State), rdB s R.lcCfg p.val 0 13 = true → portRing s p.val = false → portState s p.val = 3 →
    rdB s R.lcStat p.val 0 3 = false → rdB s R.lcStat p.val 0 4 = false → (portOf s p.val).txq = [] → (portOf s p.val).unacked = [] →
    (portOf s p.val).eiReq = false → exec (.eiIdleTimer p) s = .next (modPort (sendBlock s p.val tEIE (List.replicate 16 0#32)) p.val fun y => { y with eiReq := true })) ∧
  (∀ (p : Fin 32) (s : State), rdB s R.lcCfg p.val 0 13 = false → exec (.eiIdleTimer p) s = .next s) ∧
  (∀ (p : Fin 32) (b : Block) (s s1 : State), portState s p.val = 3 → recvBlock s p.val b = (s1, some tEIE) →
    (nth b.payload 0 0#32 = 0x4C454156#32 → exec (.eieRx p b) s = .next (modPort s1 p.val fun y => { y with leave := true })) ∧
    (nth b.payload 0 0#32 ≠ 0x4C454156#32 → mayIdle s1 p.val = true → exec (.eieRx p b) s = .next (modPort s1 p.val fun y => { y with eiReq := true })))

/-- R439, R442, R444, R452, R456–R458, R460, R463, R464, R467 and R469. That the masthead calls for the handover by a grant that
names the standby itself, and that a standby without an upstream may take over, are the model's choices (log entries 36 and 139). -/
def Obligations.LaceDomain : Prop :=
  (∀ (w : Fin 65536) (sb : Bool) (s : State), acting s = 2 → w.val ≠ ownId s → (s.lace.members.any fun m => decide (m.1 = w.val)) = false →
    exec (.joinRequestRx w sb []) s = .next (laceMsg (setLace s fun l => { l with members := l.members ++ [(w.val, sb)] }) 2 w.val
      [1#32, packF [(0, mhId s), (16, epochNow s)]])) ∧
  (∀ (sb : Bool) (w : Fin 65536) (s : State), acting s = 2 → w.val = ownId s →
    exec (.joinRequestRx w sb []) s = .next (laceMsg s 2 w.val [0#32, packF [(0, mhId s), (16, epochNow s)]])) ∧
  (∀ (w : Fin 65536) (sb : Bool) (g : List (Fin 65536)) (s : State), acting s ≠ 2 → exec (.joinRequestRx w sb g) s = .next s) ∧
  (∀ (j : LJoin) (mh ep : Fin 65536) (sb : Bool) (s : State), s.lace.join = some j → j.stage = 1 → exec (.joinGrantRx true mh ep sb) s =
    .next (joinRest (hoistFix (raise (wr (wrF (wrB (wrF s R.ldId 0 0 15 0 j.devid) R.ldId 0 0 16 true) R.ldId 0 0 20 19 0) R.ldDom 0 0
      (packF [(0, mh.val), (16, ep.val)])) E.ld 0 0)) j)) ∧
  (∀ (j : LJoin) (mh ep : Fin 65536) (sb : Bool) (s : State), s.lace.join = some j → j.stage = 1 → exec (.joinGrantRx false mh ep sb) s =
    .next (joinEnd (j.did.foldl closeGroup s) j .state)) ∧
  (∀ (mh ep : Fin 65536) (sb : Bool) (s : State), s.lace.join = none → joined s = true → acting s ≠ 2 →
    (acting s ≠ 1 ∨ mh.val ≠ ownId s → exec (.joinGrantRx true mh ep sb) s = .next (wrF s R.ldId 0 0 20 19 (b2n sb))) ∧
    (acting s = 1 → mh.val = ownId s → exec (.joinGrantRx true mh ep sb) s = .next (setLace s fun l => { l with called := true })) ∧
    exec (.joinGrantRx false mh ep sb) s = .next (leavesEnd (startLeave s
      ((List.range 4).filter fun k => groupJoined s k || decide (s.lace.splicing = some k)) true))) ∧
  (∀ (k : Fin 4) (w e : Fin 256) (s : State), s.lace.splicing = some k.val → groupClosed s k.val = true → ringPorts s k.val ≠ [] →
    (∀ p ∈ ringPorts s k.val, ∀ n ∈ portLanes s p, laneState s n = 6) → exec (.splice k w e) s = .next ((ringPorts s k.val).foldl (fun a p =>
      let onWest := decide (rdF a R.lcCfg p 0 7 0 / 4 = 56 + 2 * k.val)
      let tap := if onWest then w.val else e.val
      let a1 := modPort (setPortState (resumeTap s a p) p 5) p fun x => { x with rxSeq := tap, txSeq := if onWest then e.val else w.val }
      sendBlock a1 p tHSK (hskPayload a1 p (some tap))) (wrB s R.ldBypass 0 0 k.val false))) ∧
  (∀ (k : Fin 4) (w e : Fin 256) (s : State), s.lace.splicing ≠ some k.val →
    exec (.splice k w e) s = .next s ∧ exec (.spliceTimeout k) s = .next s) ∧
  (∀ (k : Fin 4) (j : LJoin) (s : State), s.lace.splicing = some k.val → (closeGroup s k.val).lace.join = some j →
    exec (.spliceTimeout k) s = .next (leavesEnd (joinEnd (closeGroup s k.val) j .timeout))) ∧
  (∀ (k : Fin 4) (s : State), k.val ∈ s.lace.leaving → s.lace.splicing = none →
    exec (.bypassCloseLeave k) s = .next (leavesEnd (closeGroup s k.val))) ∧
  (∀ (k : Fin 4) (s : State), k.val ∉ s.lace.leaving → exec (.bypassCloseLeave k) s = .next s) ∧
  (∀ (p : Fin 32) (b : Block) (st : W64) (s s1 : State), recvBlock s p.val b = (s1, some tMARKER) → portState s p.val = 3 →
    portState s1 p.val = 3 → (portOf (periodEnd s1 p.val) p.val).ignore = 0 → portWidth s p.val = 1 ∨
      (portOf s p.val).lastMk.map (fun m => m.1) ≠ some (fld (nth b.payload 1 0#32) 31 20) →
    exec (.markerRx p b st) s = .next (markerTake (periodEnd s1 p.val) p.val b.payload st)) ∧
  (∀ (p : Fin 32) (b : Block) (st : W64) (s s1 : State), recvBlock s p.val b = (s1, none) → portState s1 p.val = 3 →
    exec (.markerRx p b st) s = .next (periodEnd s1 p.val)) ∧
  (∀ (p : Fin 32) (b : Block) (st : W64) (s s1 : State), recvBlock s p.val b = (s1, some tMARKER) → 1 < portWidth s p.val →
    (portOf s p.val).lastMk.map (fun m => m.1) = some (fld (nth b.payload 1 0#32) 31 20) → exec (.markerRx p b st) s = .next s1) ∧
  (∀ s : State, joined s = true → acting s ≠ 2 → upstream s = none →
    exec .hoistLost s = .next (loseRef (selectUp (raise s E.ld 0 4)) 0)) ∧
  (∀ s : State, acting s = 2 → exec .hoistLost s = .next s) ∧
  (∀ s : State, joined s = true → acting s = 1 → s.lace.called = true ∨ beatStands s = true → exec .mhFailover s = .next (raise (beMasthead (wrF (wr s R.ldDom 0 0
    (packF [(0, ownId s), (16, nextEpoch (epochNow s))])) R.ldId 0 0 20 19 2)) E.ld 0 2)) ∧
  (∀ s : State, acting s ≠ 1 ∨ (s.lace.called = false ∧ beatStands s = false) → exec .mhFailover s = .next s) ∧
  (∀ s : State, s.lace.tset = true → rdB s R.ldHoist 0 0 9 = true → anyCell s = false → exec .hoistAlignStep s =
    .next (timeStep {
      stream := 10, tag := 0, note := false, crcv := false, self := true, source := 0,
      params := [1, 2, w32 (cdiv (s.ats.toNat + tcHyper) tcHyper), 0, 0] } false (setLace s fun l => { l with tset := false })).st) ∧
  (∀ s : State, s.lace.tset = false → exec .hoistAlignStep s = .next s) ∧
  (∀ (p : Fin 32) (h : List W32) (r : List (List W32)) (k : FPkt) (s : State), (portOf s p.val).rx = h :: r → headLen h = 0 →
    packetOf [h] = some k → fld (nth h 1 0) 24 22 ≠ 4 → exec (.remotePacketRx p) s = .next (remotePacket (modPort s p.val fun y => { y with
      rx := r, owed := modNth y.owed (2 * fld (nth h 1 0) 21 20) (fun c => c + 1) }) p.val k)) ∧
  (∀ (p : Fin 32) (s : State), (portOf s p.val).rx = [] → exec (.remotePacketRx p) s = .next s) ∧
  (∀ (w : Writer) (p : Fin 32) (v : W32) (s : State), mayInject s w = true →
    exec (.lcInjArm w p v) s = .next (wr s R.lcInj p.val 0 (rd s R.lcInj p.val ||| (v &&& 3#32))))

/-- R468–R476, for commands that start at once. -/
def Obligations.LaceCommands : Prop :=
  (∀ (q : Req) (s : State), Starts s 0x0604 q → q.params = [] → exec (.laceStatus q) s = .next (reply s 0x0604 q .ok
    ([rd s R.ldId, rd s R.ldDom, rd s R.ldHoist, rd s R.ldHerr, rd s R.ldBypass, rd s R.ldEvt] ++
      (List.range 32).map fun p => portShown s p (rd s R.lcStat p)))) ∧
  (∀ (q : Req) (s : State) (w a : W32), Starts s 0x0601 q → q.params = [w, a] → onlyBits w 0x3FFFF#32 = true → fld w 14 13 = 0 →
    laneHere s.variant (fld w 12 5) = true → laneRole s (fld w 12 5) = 2 → laneRate s (fld w 12 5) = (if bit w 15 then 4 else 3) →
    (∀ x, x < 32 → x ≠ fld w 4 0 → portEn s x = true → fld w 12 5 ∉ portLanes s x) → portJoined s (fld w 4 0) = false →
    portRing s (fld w 4 0) = false → portState s (fld w 4 0) = 0 → bit w 16 = false → exec (.lacePortConfig q) s =
    .next (answered s 0x0601 q (fun t => hoistFix (portSync (setLace (ringsSync (wr (wr (modPort t (fld w 4 0) fun x => { x with txq := [] })
      R.lcCfg (fld w 4 0) 0 (packF [(0, fld w 12 5), (10, b2n (bit w 15)), (13, b2n (bit w 17))])) R.lcAsym (fld w 4 0) 0 a))
      fun l => { l with shown := (l.shown ++ [fld w 4 0]).dedup }) (fld w 4 0))) [])) ∧
  (∀ (q : Req) (s : State) (w : W32), Starts s 0x0602 q → q.params = [w] → onlyBits w 0x001FFFFF#32 = true → joined s = false →
    s.lace.join = none → rdF s R.ldId 0 0 18 17 = 2 → fld w 20 16 = 0 → exec (.laceJoin q) s = .next (answered s 0x0602 q
      (fun t => setLace (beMasthead (becomeJoined t (fld w 15 0) (fld w 15 0) 1 2)) fun l => { l with tset := false }) [])) ∧
  (∀ (q : Req) (s : State) (w : W32), Starts s 0x0602 q → q.params = [w] → onlyBits w 0x001FFFFF#32 = true → joined s = true →
    exec (.laceJoin q) s = .next (reply s 0x0602 q .state [])) ∧
  (∀ (q : Req) (s : State) (w : W32), Starts s 0x0603 q → q.params = [w] → onlyBits w 0xF#32 = true → joined s = true →
    (∀ k, k < 4 → bit w k = true → groupJoined s k = false) → s.lace.splicing = none → s.lace.leaving = [] → s.lace.leaveAll = false →
    (∀ h ∈ s.pn.held, h.opcode ≠ 0x0603) → exec (.laceLeave q) s = .next (reply s 0x0603 q .ok [])) ∧
  (∀ (q : Req) (s : State) (k : Nat), Starts s 0x0603 q → k < 4 → q.params = [w32 (2 ^ k)] → joined s = true → groupJoined s k = true → s.lace.splicing ≠ some k →
    exec (.laceLeave q) s = .next (setLace (sayLeave (seated s 0x0603 q) k) fun l => { l with leaving := (l.leaving ++ [k]).dedup })) ∧
  (∀ (q : Req) (s : State), Starts s 0x0603 q → q.params = [0x10#32] → joined s = true → acting s = 2 → s.lace.members = [] →
    (∀ k, k < 4 → groupJoined s k = false) → s.lace.splicing = none → s.lace.leaving = [] → exec (.laceLeave q) s =
    .next (leavesEnd (setLace (seated s 0x0603 q) fun l => { l with leaveAll := true }))) ∧
  (∀ (q : Req) (s : State), Starts s 0x0603 q → q.params = [0x10#32] → joined s = true → acting s ≠ 2 →
    (∀ k, k < 4 → groupJoined s k = false) → s.lace.splicing = none → s.lace.leaving = [] → exec (.laceLeave q) s =
    .next (leavesEnd (laceMsg (setLace (seated s 0x0603 q) fun l => { l with leaveAll := true }) 3 (mhId s)
      [0x4C454156#32, w32 (ownId s)]))) ∧
  (∀ s : State, s.lace.leaving = [] → s.lace.leaveAll = true → (∀ h ∈ (leaveDomain (setLace s fun l => { l with leaveAll := false })).pn.held,
    h.opcode ≠ 0x0603) → leavesEnd s = becomeLeft ((List.range 32).foldl endPort (setLace s fun l => { l with leaveAll := false }))) ∧
  (∀ (q : Req) (s : State) (w : W32), Starts s 0x0603 q → q.params = [w] → onlyBits w 0x1F#32 = true → joined s = false →
    exec (.laceLeave q) s = .next (reply s 0x0603 q .state [])) ∧
  (∀ (q : Req) (s : State) (w x lo hi : W32), Starts s 0x0605 q → q.params = [w, x, lo, hi] → onlyBits w 0x1FF#32 = true →
    onlyBits x 0xFFFF#32 = true → onlyBits hi 0xFFFF#32 = true → 64 ≤ fld w 7 0 → pair64 lo hi % 64 < 32 →
    portEn s (pair64 lo hi % 64) = true → (∀ i, i < 8 → pair64 lo hi / 64 ^ i % 64 < 32 ∨ pair64 lo hi / 64 ^ i % 64 = 63) →
    (∃ i, i < 8 ∧ pair64 lo hi / 64 ^ i % 64 = 63) → exec (.laceRouteSet q) s = .next (answered s 0x0605 q (fun t =>
      (nisHere s).foldl (fun a n =>
        let r := rtEntry a n (16 + rdF s R.lcCfg (pair64 lo hi % 64) 0 7 0 / 16)
        commitRt (stageRt (stageRt (stageRt a n (fld w 7 0) 1 r.w1) n (fld w 7 0) 2 (setFld r.w2 31 16 (pair64 lo hi % 2 ^ 16)))
          n (fld w 7 0) 3 (w32 (pair64 lo hi / 2 ^ 16))) n (fld w 7 0)
          (packF [(0, fld r.w0 3 0), (4, b2n (bit w 8)), (7, 1),
            (8, niDomain (16 + rdF s R.lcCfg (pair64 lo hi % 64) 0 7 0 / 16)), (16, x.toNat)])) t) [])) ∧
  (∀ (q : Req) (s : State) (w e sz b d : W32), Starts s 0x0606 q → q.params = [w, 0, e, sz, b, 0, d] → onlyBits w 7#32 = true →
    onlyBits e 0x7FFFFFFF#32 = true → onlyBits sz 0x7FFFFFFF#32 = true → sz.toNat ≠ 0 → sz.toNat % 65536 = 0 → e.toNat % 65536 = 0 →
    b.toNat % 65536 = 0 → fld d 15 0 ≤ fld d 31 16 → exec (.laceExportSet q) s = .next (reply (wr (wr (wr (wr (wr (wr s
      (R.exportWin 0) 0 (fld w 2 0) 0) (R.exportWin 1) 0 (fld w 2 0) e) (R.exportWin 2) 0 (fld w 2 0) sz) (R.exportWin 3) 0 (fld w 2 0) b)
      (R.exportWin 4) 0 (fld w 2 0) 0) (R.exportWin 5) 0 (fld w 2 0) d) 0x0606 q .ok [])) ∧
  (∀ (q : Req) (s : State) (w r : W32), Starts s 0x0607 q → q.params = [w, r] → onlyBits w 7#32 = true → fld r 15 0 = 5 →
    fld r 31 16 = 7 → exec (.laceTransitSet q) s = .next (reply (wr s R.transitMap (fld w 1 0) 0
      (if bit w 2 then rd s R.transitMap (fld w 1 0) 0 ||| 0xE0#32 else rd s R.transitMap (fld w 1 0) 0 &&& ~~~0xE0#32)) 0x0607 q .ok [])) ∧
  (∀ (q : Req) (s : State) (ps : List W32), Starts s 0x0608 q → q.params = ps → acting s ≠ 2 →
    exec (.laceDomainCommit q) s = .next (reply s 0x0608 q .notPermitted [])) ∧
  (∀ (q : Req) (s : State) (w b0 b1 : W32) (pk : List W32), Starts s 0x0608 q → q.params = w :: b0 :: b1 :: pk → w = 0 → acting s = 2 →
    4 ≤ pk.length → bndFault s b0 b1 = false → innerHdrBad pk = false → pktOp pk ∈ commitOps → otherInstant pk (boundary b0 b1) = false →
    bndFault s (bndW0 (pktOp pk) (pk.drop 4)) (bndW1 (pktOp pk) (pk.drop 4)) = false → passed s (boundary b0 b1) = false →
    exec (.laceDomainCommit q) s =
    .next (domainStart (seated s 0x0608 q) q 0x0608 (boundary b0 b1) (everyDevice s) pk).st) ∧
  (∀ (q : Req) (s : State) (w : W32), Starts s 0x0609 (withBit0 q true) → q.params = [w] → onlyBits w 0xFFFF0001#32 = true → acting s = 2 →
    s.lace.members.find? (fun m => decide (m.1 = fld w 31 16)) = some (fld w 31 16, true) →
    exec (.laceMastheadDesignate q) s = .next (answered s 0x0609 (withBit0 q true)
      (fun t => laceMsg (setLace (match t.lace.standby with
        | some old => if old = fld w 31 16 then t else laceMsg t 5 old [0]
        | none => t) fun l => { l with standby := some (fld w 31 16) }) 5 (fld w 31 16) [1]) [])) ∧
  (∀ (q : Req) (s : State) (w : W32), Starts s 0x0609 (withBit0 q false) → q.params = [w] → onlyBits w 0xFFFF0001#32 = true → acting s = 2 →
    s.lace.members.find? (fun m => decide (m.1 = fld w 31 16)) = some (fld w 31 16, true) → s.lace.standby = some (fld w 31 16) →
    exec (.laceMastheadHandover q) s = .next (answered s 0x0609 (withBit0 q false) (fun t => laceMsg t 4 (fld w 31 16) []) []))

/-- R344, R347, R348, R353, R355–R357 and R364. -/
def Obligations.FabricPackets : Prop :=
  (∀ (n : Fin 40) (vn : Fin 4) (fc : Bool) (a : BitVec 45) (len : Fin 64) (ws : List TWord) (d sl : Nat) (e : RtEntry) (s : State),
    niHere s.variant n.val = true → vnWired n.val vn.val .rd (8 * a.toNat) = true →
    (s.fab.queued.any fun e => decide (e.1 = n.val) && decide (e.2.vn = vn.val)) = false →
    fnState s (niDomain n.val) = 0 → badRequest .rd (8 * a.toNat) len.val = none → wayOf s n.val (8 * a.toNat) = .send d e → d ≠ 63 →
    freeSlot s n.val = some sl → tmoArmed s n.val = false → rateOf s n.val vn.val = 0 →
    exec (.niRequestSend n vn 0 fc a len ws) s = .next (launch (setFab s fun f => { f with
      gens := putKey f.gens (256 * n.val + sl) (some ((nextGen s n.val sl + 1) % 256)),
      outst := f.outst ++ [{ ni := n.val, slot := sl, gen := nextGen s n.val sl, len := len.val, rd := true, fc := false, remote := false }] })
      n.val (mkPkt e n.val d vn.val .rd false (8 * a.toNat) len.val sl (nextGen s n.val sl) [] (ownId s)))) ∧
  (∀ (n : Fin 40) (vn : Fin 4) (fc : Bool) (a : BitVec 45) (len : Fin 64) (ws : List TWord) (s : State), niHere s.variant n.val = true →
    vnWired n.val vn.val .rd (8 * a.toNat) = true → vnHeld s n.val vn.val = false → fnState s (niDomain n.val) = 0 →
    (33 ≤ len.val → exec (.niRequestSend n vn 0 fc a len ws) s =
      .next (niAnswer (raise s E.ni n.val 4) n.val .lengthRange (List.replicate len.val poisonW))) ∧
    (badRequest .rd (8 * a.toNat) len.val = none → wayOf s n.val (8 * a.toNat) = .miss →
      exec (.niRequestSend n vn 0 fc a len ws) s = .next (niAnswer (noteMiss s n.val) n.val .notPresent (List.replicate len.val poisonW))) ∧
    (badRequest .rd (8 * a.toNat) len.val = none → wayOf s n.val (8 * a.toNat) = .absent_ →
      exec (.niRequestSend n vn 0 fc a len ws) s = .next (niAnswer s n.val .ok (List.replicate len.val (cleanW 0))))) ∧
  (∀ (n : Nat) (st : Status) (ws : List MWord) (s : State), n ≠ 39 →
    niAnswer s n st ws = setFab s fun f => { f with answers := f.answers ++ [{ ni := n, status := st, words := ws }] }) ∧
  (∀ (n : Fin 40) (vn : Fin 4) (fc : Bool) (a : BitVec 45) (len : Fin 64) (ws : List TWord) (s : State),
    vnWired n.val vn.val .rd (8 * a.toNat) = false → exec (.niRequestSend n vn 0 fc a len ws) s = .next s) ∧
  (∀ (k : Fin 38) (p : FPkt) (s : State), openingAt s k.val = none → nextPkt s k.val = some p → p.hit = 0 → p.route % 16 = 0 →
    linkStopped s k.val 0 = false → exec (.routerPacketRx k 0 false 0) s = .next (deliverPkt (takeTurn (setFab s fun f => { f with
      flight := removeFirst (fun x => decide (x = p)) f.flight }) k.val 0 p.vn) p)) ∧
  (∀ (k : Fin 38) (p : FPkt) (nb : Nat) (s : State), openingAt s k.val = none → nextPkt s k.val = some p → p.hit = 0 →
    p.route % 16 ≠ 0 → routerPort s.variant k.val (p.route % 16) = some nb → 1 < p.hops → linkStopped s k.val (p.route % 16) = false →
    rdB s R.rtInj k.val 0 5 = false → exec (.routerPacketRx k 0 false 0) s = .next (setFab (takeTurn (setFab s fun f => { f with
      flight := removeFirst (fun x => decide (x = p)) f.flight }) k.val (p.route % 16) p.vn) fun f => { f with
      flight := f.flight ++ [{ p with route := p.route / 16, hops := p.hops - 1, at_ := nb }] })) ∧
  (∀ (k : Fin 38) (p : FPkt) (s : State), openingAt s k.val = none → nextPkt s k.val = some p → p.hit = 0 →
    p.route % 16 = 0 ∨ ((routerPort s.variant k.val (p.route % 16)).isSome = true ∧ 1 < p.hops) →
    linkStopped s k.val (p.route % 16) = true → exec (.routerPacketRx k 0 false 0) s = .next (setFab (takeTurn (setFab s fun f => { f with
      flight := removeFirst (fun x => decide (x = p)) f.flight }) k.val (p.route % 16) p.vn) fun f => { f with
      portWait := f.portWait ++ [(k.val, p.route % 16, p)] })) ∧
  (∀ (k : Fin 38) (p : FPkt) (s : State), openingAt s k.val = none → nextPkt s k.val = some p → p.hit = 0 → p.route % 16 ≠ 0 →
    routerPort s.variant k.val (p.route % 16) = none ∨ p.hops ≤ 1 →
    exec (.routerPacketRx k 0 false 0) s = .next (raise (bump (takeTurn (setFab s fun f => { f with
      flight := removeFirst (fun x => decide (x = p)) f.flight }) k.val (p.route % 16) p.vn) R.rtCount k.val 3 1) E.rt k.val 5)) ∧
  (∀ (k : Fin 38) (d : Nat) (c : Fin 41) (h : Bool) (u : W32) (s : State), openingAt s k.val = some d →
    exec (.routerPacketRx k c h u) s = .next (deliverHeld s d)) ∧
  (∀ (k : Fin 38) (c : Fin 41) (h : Bool) (u : W32) (s : State), openingAt s k.val = none → nextPkt s k.val = none →
    exec (.routerPacketRx k c h u) s = .next s) ∧
  (∀ (n : Fin 40) (p : FPkt) (o : Outst) (s s1 : State), (s.fab.flight.find? fun p => decide (p.at_ = 64 + n.val)) = some p →
    bump (setFab s fun f => { f with flight := removeFirst (fun x => decide (x = p)) f.flight }) R.niCount n.val 1 1 = s1 →
    ((s1.fab.outst.find? fun o => decide (o.ni = n.val) && decide (o.slot = p.slot) && decide (o.gen = p.gen)) = some o → p.inj = false →
      (o.eng = none → exec (.niResponseRx n) s = .next (niAnswer (setFab s1 fun f => { f with
        outst := removeFirst (fun x => decide (x = o)) f.outst }) n.val p.status p.words)) ∧
      (∀ c, o.eng = some c → exec (.niResponseRx n) s = .next (setFab s1 fun f => { f with
        outst := removeFirst (fun x => decide (x = o)) f.outst, engAns := f.engAns ++ [(c, p.status, p.words)] }))) ∧
    ((s1.fab.outst.find? fun o => decide (o.ni = n.val) && decide (o.slot = p.slot) && decide (o.gen = p.gen)) = none →
      exec (.niResponseRx n) s = .next (noteLate s1 n.val))) ∧
  (∀ (n : Fin 40) (sl : Fin 256) (o : Outst) (s : State),
    (s.fab.outst.find? fun o => decide (o.ni = n.val) && decide (o.slot = sl.val) && !o.fc) = some o → o.rd = true →
    (o.eng = none → exec (.niTimeout n sl) s = .next (niAnswer (noteTimeout (setFab s fun f => { f with
      outst := removeFirst (fun x => decide (x = o)) f.outst }) n.val false) n.val .timeout (List.replicate o.len poisonW))) ∧
    (∀ c, o.eng = some c → exec (.niTimeout n sl) s = .next (setFab (noteTimeout (setFab s fun f => { f with
      outst := removeFirst (fun x => decide (x = o)) f.outst }) n.val false) fun f => { f with
      engAns := f.engAns ++ [(c, .timeout, List.replicate o.len poisonW)] }))) ∧
  (∀ (n : Fin 40) (sl : Fin 256) (s : State),
    (s.fab.outst.find? fun o => decide (o.ni = n.val) && decide (o.slot = sl.val) && !o.fc) = none → exec (.niTimeout n sl) s = .next s) ∧
  (∀ (n : Fin 40) (vn : Fin 4) (c : Fin 65536) (s : State), nextQueued s n.val vn.val = none → exec (.niTokenRelease n vn c) s =
    .next (setTokens s n.val vn.val (Nat.min (tokensOf s n.val vn.val + rateOf s n.val vn.val * c.val) (burstOf s n.val vn.val)))) ∧
  (∀ (n : Fin 40) (vn : Fin 4) (c : Fin 65536) (e : Nat × FPkt) (s : State),
    nextQueued s n.val vn.val = some e → rateOf s n.val vn.val ≠ 0 →
    tokensOf s n.val vn.val + rateOf s n.val vn.val * c.val < 256 * flitCount e.2 → exec (.niTokenRelease n vn c) s =
    .next (bump (setTokens s n.val vn.val (Nat.min (tokensOf s n.val vn.val + rateOf s n.val vn.val * c.val) (burstOf s n.val vn.val)))
      R.niCount n.val 6 c.val)) ∧
  (∀ (d : Fin 39) (p : FPkt) (s : State), s.fab.opening.contains d.val = false → (assoc s.fab.wake d.val).getD [] = [p] →
    exec (.wbExpire d) s = .next (answerFenced (raise (raise (setFab s fun f => { f with wake := putKey f.wake d.val none })
      E.rt (spineRouter d.val) 7) E.ni p.dst 3) p.dst p)) ∧
  (∀ (d : Fin 39) (s : State), assoc s.fab.wake d.val = none → exec (.wbExpire d) s = .next s)

/-- R247, R354, R365, R366 and R368. -/
def Obligations.FabricControl : Prop :=
  (∀ (n : Fin 40) (e : Fin 256) (v : W32) (s : State), niHere s.variant n.val = true →
    exec (.routeEntryCommit .mp n e v) s = .next (setFab (putRtEntry s n.val e.val
      (({ (assoc s.fab.staging (256 * n.val + e.val)).getD (rtEntry s n.val e.val) with w0 := v } : RtEntry).setFence
        (rtEntry s n.val e.val).fenced (rtEntry s n.val e.val).wake)) fun f => { f with
      staging := putKey f.staging (256 * n.val + e.val) none })) ∧
  (∀ (n : Fin 40) (e : Fin 256) (v : W32) (s : State), exec (.routeEntryCommit .host n e v) s = .next s) ∧
  (∀ (k : Fin 38) (v : W32) (s : State), routerHere s.variant k.val = true → rdF s R.rtRcfg k.val 0 28 27 = 0 → fld v 14 13 < 2 →
    exec (.rtRcfgGo .mp k v) s = .next (wrF (wr s R.rtRcfg k.val 0 (v &&& 0x03FFFFFF#32)) R.rtRcfg k.val 0 28 27 1)) ∧
  (∀ (k : Fin 38) (v : W32) (s : State), exec (.rtRcfgGo .host k v) s = .next s) ∧
  (∀ (k : Fin 38) (s : State), rdF s R.rtRcfg k.val 0 28 27 = 1 → fld (rd s R.rtRcfg k.val) 14 13 = 0 → exec (.rcApply k) s =
    .next (raise (resumePorts (wrF (wr s R.rtPortEn k.val 0 (w32 (rd s R.rtPortEn k.val).toNat &&&
      ~~~w32 ((rd s R.rtRcfg k.val).toNat % 2 ^ 13))) R.rtRcfg k.val 0 28 27 0)) E.rt k.val 0)) ∧
  (∀ (k : Fin 38) (s : State), rdF s R.rtRcfg k.val 0 28 27 = 1 → exec (.rcQuiesceTimeout k) s =
    .next (raise (resumePorts (wrF s R.rtRcfg k.val 0 28 27 0)) E.rt k.val 1)) ∧
  (∀ (k : Fin 38) (s : State), rdF s R.rtRcfg k.val 0 28 27 = 0 → exec (.rcApply k) s = .next s ∧ exec (.rcQuiesceTimeout k) s = .next s) ∧
  (∀ (k : Fin 38) (e : Nat × Nat × FPkt) (s : State), (s.fab.portWait.find? fun e => decide (e.1 = k.val)) = some e →
    ∀ s1, raise (bump (setFab s fun f => { f with portWait := removeFirst (fun x => decide (x = e)) f.portWait }) R.rtCount k.val 0 1)
      E.rt k.val 2 = s1 →
    (rdB s1 R.rtPortEn k.val 0 e.2.1 = true → exec (.rcPortWaitTimeout k) s = .next s1) ∧
    (rdB s1 R.rtPortEn k.val 0 e.2.1 = false → exec (.rcPortWaitTimeout k) s =
      .next (raise (bump s1 R.rtCount k.val 3 1) E.rt k.val 5))) ∧
  (∀ (k : Fin 38) (s : State), (s.fab.portWait.find? fun e => decide (e.1 = k.val)) = none → exec (.rcPortWaitTimeout k) s = .next s) ∧
  (∀ (w : Writer) (n : Fin 40) (s : State), mayInject s w = true → niHere s.variant n.val = true →
    exec (.niInjTmo w n) s = .next (wr s R.niInj n.val 0 1)) ∧
  (∀ (w : Writer) (k : Fin 38) (x : Fin 16) (ue : Bool) (s : State), mayInject s w = true → routerHere s.variant k.val = true →
    exec (.rtInjArm w k x ue) s = .next (wr s R.rtInj k.val 0 (packF [(0, x.val), (4, b2n ue), (5, 1)]))) ∧
  (∀ (w : Writer) (n : Fin 40) (k : Fin 38) (x : Fin 16) (ue : Bool) (s : State), mayInject s w = false →
    exec (.niInjTmo w n) s = .next s ∧ exec (.rtInjArm w k x ue) s = .next s) ∧
  (∀ (b : Fin 16) (q : Fin 64) (h : W64) (fab : Bool) (l : List (W64 × Bool)) (s s1 : State), (queueOf s b.val q.val).held = (h, fab) :: l →
    hdrFits s b.val q.val h = true → qXoff s b.val q.val = false →
    (entryCheck (truncate s b.val q.val) b.val q.val false = (s1, false) → exec (.qHeldHeaderAccept b q) s =
      .next (answerHeld (acceptHdr (heldRelease s1 b.val q.val .ok) b.val q.val h))) ∧
    (entryCheck (truncate s b.val q.val) b.val q.val false = (s1, true) → exec (.qHeldHeaderAccept b q) s =
      .next (answerHeld (syncQStat (heldRelease s1 b.val q.val .integrity) b.val q.val)))) ∧
  (∀ (b : Fin 16) (q : Fin 64) (s : State), (queueOf s b.val q.val).held = [] →
    exec (.qHeldHeaderAccept b q) s = .next (answerHeld s))

/-- R404–R416, R429, R431, R432 and R434. -/
def Obligations.Fronthaul : Prop :=
  (∀ (m : Fin 128) (f : EthFrame) (s s0 : State),
    (if rdB s R.macStat m.val 0 2 = true then fecCount s m.val f.fecFixed f.fecBad else s) = s0 → macUp s0 m.val = true →
    (f.fcsOk = true → 60 ≤ f.bytes.length → f.bytes.length + 4 ≤ (nth (macOf s0 m.val).cfg 1 0#32).toNat → exec (.ethFrameRx m f) s =
      .next (classify (macCount (macCount s0 m.val 0 1) m.val 1 (f.bytes.length + 4)) m.val (.mac m) f.bytes
        (wrapTo 64 ((f.stamp.toNat : Int) + offsetNow s0 + sext 16 (rdF s0 R.ptpAsym m.val 0 15 0))) none)) ∧
    (f.fcsOk = false → f.entered = 0 → exec (.ethFrameRx m f) s = .next (macCount s0 m.val 2 1))) ∧
  (∀ (m : Fin 128) (f : EthFrame) (p : Fin 8) (n : Fin 65536) (s : State), macUp s m.val = false →
    (rdB s R.macStat m.val 0 2 = false → exec (.ethFrameRx m f) s = .next s) ∧
    exec (.pfcFrameRx m p n) s = .next s ∧ exec (.pauseFrameRx m n) s = .next s) ∧
  (∀ (m : Fin 128) (p : Fin 8) (n : Fin 65536) (s : State), macUp s m.val = true → bit (nth (macOf s m.val).cfg 0 0#32) 12 = true →
    exec (.pfcFrameRx m p n) s = .next (startLine (wrB (macCount s m.val 14 1) R.macStat m.val 0 (6 + p.val) (decide (n.val ≠ 0))) m.val)) ∧
  (∀ (m : Fin 128) (n : Fin 65536) (s : State), macUp s m.val = true → bit (nth (macOf s m.val).cfg 0 0#32) 13 = true →
    exec (.pauseFrameRx m n) s = .next (startLine (modMac s m.val fun c => { c with paused := decide (n.val ≠ 0) }) m.val)) ∧
  (∀ (m : Fin 128) (s : State),
    exec (.pfcHoldExpiry m 8) s = .next (startLine (modMac s m.val fun c => { c with paused := false }) m.val) ∧
    exec (.pfcHoldExpiry m 3) s = .next (startLine (wrB s R.macStat m.val 0 9 false) m.val)) ∧
  (∀ (m : Fin 128) (p : Fin 8) (s : State), (macOf s m.val).xoff.getLsbD p.val = true →
    exec (.pfcRepeat m p) s = .next (pfcSend s m.val p.val (fld (nth (macOf s m.val).cfg 2 0) 15 0))) ∧
  (∀ (m : Fin 128) (p : Fin 8) (s : State), (macOf s m.val).xoff.getLsbD p.val = false → exec (.pfcRepeat m p) s = .next s) ∧
  (∀ (m : Fin 128) (sa : BitVec 48) (id : Byte) (rx tx : W64) (s : State), macUp s m.val = true →
    bit (nth (macOf s m.val).cfg 0 0#32) 14 = true → exec (.ecpriDmrRx m sa id rx tx) s = .next (macSend s m.val
      (toBe 6 sa.toNat ++ toBe 6 (pair64 (nth (macOf s m.val).cfg 3 0) (nth (macOf s m.val).cfg 4 0)) ++
        [0xAE#8, 0xFE#8, 0x10#8, 0x05#8, 0x00#8, 0x14#8, id, 0x02#8] ++ toBe 10 (rxStamp s m.val rx.toNat) ++
        toBe 8 (wrapTo 64 ((txStamp s m.val tx.toNat : Int) - rxStamp s m.val rx.toNat))))) ∧
  (∀ (m : Fin 128) (s s1 s2 : State) (i : Nat) (t : Task) (st : Status), beginTask s (.mac m false) = some (s1, i, t) →
    fhDesc s1 m.val t = (s2, .error st) → exec (.fhrxJobStart m) s = .next (settled s (complete s2 i (st16 st)))) ∧
  (∀ (m : Fin 128) (s s1 s2 : State) (i : Nat) (t : Task) (d : List W32) (j : FhJob), beginTask s (.mac m false) = some (s1, i, t) →
    fhDesc s1 m.val t = (s2, .ok d) → fhrxCheck s2 m.val d = .ok →
    j = { task := i, mac := m.val, tx := false, flow := fld (nth d 0 0) 15 4, entry := (flowOn s2 (fld (nth d 0 0) 15 4)).getD [],
          desc := d, param := t.param, frames := [], sent := 0, unsent := 0 } →
    fhrxOver (setFh s2 fun h => { h with jobs := h.jobs ++ [j] }) j = false →
    exec (.fhrxJobStart m) s = .next (settled s (setFh s2 fun h => { h with jobs := h.jobs ++ [j] }))) ∧
  (∀ (m : Fin 128) (i : Fin 131072) (j : FhJob) (s : State), fhJobOf s m.val i.val = some j → j.tx = false →
    (fhrxOver s j = true → exec (.fhrxComplete m i) s = .next (fhrxEnd s j)) ∧
    (fhrxOver s j = false → exec (.fhrxComplete m i) s = .next s)) ∧
  (∀ (m : Fin 128) (s s1 s2 : State) (i : Nat) (t : Task) (d : List W32), beginTask s (.mac m true) = some (s1, i, t) →
    fhDesc s1 m.val t = (s2, .ok d) → fhtxCheck s2 m.val d = .ok → bit (nth d 7 0) 0 = false → exec (.fhtxJobStart m) s =
    .next (settled s (setFh s2 fun h => { h with jobs := h.jobs ++ [{
      task := i, mac := m.val, tx := true, flow := fld (nth d 0 0) 15 4, entry := (flowOn s2 (fld (nth d 0 0) 15 4)).getD [],
      desc := d, param := t.param,
      frames := (jobSyms d).flatMap fun l => symFrames s2 m.val i ((flowOn s2 (fld (nth d 0 0) 15 4)).getD []) d l,
      sent := 0, unsent := 0 }] }))) ∧
  (∀ (m : Fin 128) (s s1 s2 s3 : State) (i : Nat) (t : Task) (d : List W32), beginTask s (.mac m true) = some (s1, i, t) →
    fhDesc s1 m.val t = (s2, .ok d) → fhtxCheck s2 m.val d = .ok →
    (cplaneBad s2 m.val d = (s3, true) → exec (.fhtxJobStart m) s = .next (settled s (complete s3 i (st16 .badParam)))) ∧
    (cplaneBad s2 m.val d = (s3, false) → exec (.fhtxJobStart m) s =
    .next (settled s (setFh s3 fun h => { h with jobs := h.jobs ++ [{
      task := i, mac := m.val, tx := true, flow := fld (nth d 0 0) 15 4, entry := (flowOn s3 (fld (nth d 0 0) 15 4)).getD [],
      desc := d, param := t.param,
      frames := (jobSyms d).flatMap fun l => symFrames s3 m.val i ((flowOn s3 (fld (nth d 0 0) 15 4)).getD []) d l,
      sent := 0, unsent := 0 }] })))) ∧
  (∀ (m : Fin 128) (i : Fin 131072) (l : Fin 14) (j : FhJob) (s : State), fhJobOf s m.val i.val = some j →
    ((s.ats.toNat : Int) < (jobWindow s j l.val).1 → exec (.fhtxFrameEligible m i l) s = .next s) ∧
    ((s.ats.toNat : Int) < (jobWindow s j l.val).2 → exec (.fhtxCloseExpire m i l) s = .next s)) ∧
  (∀ (m : Fin 128) (i : Fin 131072) (l : Fin 14) (j : FhJob) (s : State), fhJobOf s m.val i.val = some j →
    (jobWindow s j l.val).1 ≤ (s.ats.toNat : Int) → exec (.fhtxFrameEligible m i l) s =
    .next (startLine (modMac (modJob s m.val i.val fun k => { k with frames := k.frames.filter fun x => decide (x.sym ≠ l.val) }) m.val
      fun c => { c with wait := c.wait ++ (j.frames.filter fun x => decide (x.sym = l.val)).map fun x => { x with elig := true } }) m.val)) ∧
  (∀ (m : Fin 128) (i : Fin 131072) (l : Fin 14) (s : State), fhJobOf s m.val i.val = none →
    exec (.fhtxFrameEligible m i l) s = .next s ∧ exec (.fhtxCloseExpire m i l) s = .next s ∧ exec (.fhrxComplete m i) s = .next s) ∧
  (∀ (m : Fin 128) (x : FhFrame) (j : FhJob) (bs : List Byte) (s s1 : State), (macOf s m.val).line = some x →
    fhJobOf (modMac s m.val fun c => { c with line := none }) m.val x.task = some j →
    frameBytes (modMac s m.val fun c => { c with line := none }) m.val j x = (s1, some bs) → exec (.fhtxFrameSent m) s =
    .next (settled s (fhtxEnd (startLine (countFrames (macCount (macCount (macSend s1 m.val bs) m.val 9 1) m.val 10 (bs.length + 4)) m.val x.task
      1 0) m.val) m.val x.task))) ∧
  (∀ (m : Fin 128) (s : State), (macOf s m.val).line = none → exec (.fhtxFrameSent m) s = .next s) ∧
  (∀ (m : Fin 128) (i : Fin 131072) (l : Fin 14) (j : FhJob) (s : State), fhJobOf s m.val i.val = some j →
    (jobWindow s j l.val).2 ≤ (s.ats.toNat : Int) → exec (.fhtxCloseExpire m i l) s = .next (fhtxEnd (dropFrames (modJob (modMac s m.val
      fun c => { c with wait := c.wait.filter fun x => !(decide (x.task = i.val) && decide (x.sym = l.val)) }) m.val i.val fun k => { k with
      frames := k.frames.filter fun x => !(decide (x.task = i.val) && decide (x.sym = l.val)) }) m.val i.val
      ((j.frames.filter fun x => decide (x.task = i.val) && decide (x.sym = l.val)).length +
        ((macOf s m.val).wait.filter fun x => decide (x.task = i.val) && decide (x.sym = l.val)).length) true) m.val i.val)) ∧
  (∀ (k : Fin 8) (v : Bool) (s : State), s.fh.macs = [] →
    exec (.fcInChange k v) s = .next (setHost s fun h => { h with fcIn := setBit h.fcIn k.val v })) ∧
  (∀ (q : Req) (s : State) (w f : W32), Starts s 0x0501 q → q.params = [w, f, 0, 0, 0, 0] → onlyBits w 0x7FFF#32 = true →
    onlyBits f 0x3FFF#32 = true → laneHere s.variant (2 * fld w 6 0) = true → bit w 7 = false → fld w 10 8 = 0 → 1518 ≤ f.toNat →
    f.toNat ≤ 9600 → exec (.fhMacConfig q) s = .next (answered s 0x0501 q (fun t => fhDrop (macSync (modMac
      (wr t R.macCfg (fld w 6 0) 0 w) (fld w 6 0) fun c => { c with cfg := q.params }) (fld w 6 0))) [])) ∧
  (∀ (q : Req) (s : State) (w : W32), Starts s 0x0502 q → q.params = [w] → onlyBits w 0x7F#32 = true →
    laneHere s.variant (2 * w.toNat) = true →
    exec (.fhMacStatus q) s = .next (reply s 0x0502 q .ok [macStatView s w.toNat, rd s R.macEvt w.toNat])) ∧
  (∀ (q : Req) (s : State) (w : W32), Starts s 0x0504 q → q.params = [w] → onlyBits w 0xFFF#32 = true → flowOn s w.toNat = none →
    exec (.fhFlowStatus q) s = .next (reply s 0x0504 q .ok
      ([(flowStat s w.toNat).recv, (flowStat s w.toNat).early, (flowStat s w.toNat).late, (flowStat s w.toNat).gap].flatMap
        fun n => [lo32 n, hi32 n])))

/-- R209, R211, R212, R216, R218 and R219, for the eight rows of an FFT engine. The errors of a transform are free values within
the rule's bound, and the gain of the PRACH filter between its two bands is configuration (log entries 71 and 72). -/
def Obligations.TransformJobs : Prop :=
  ∀ (b : Fin 16) (i : Fin 2), ∀ m ∈ [(Instr.fftOfdmRx b i none, 0), (.fftOfdmTx b i none, 1), (.fftDft b i none, 2), (.fftIdft b i none, 3),
      (.fftPrach b i none, 4), (.fftRaw b i none, 5), (.ifftRaw b i none, 6), (.fftConvert b i none, 7)],
    (∀ (s s1 s2 : State) (j : EngJob) (r : FftRun) (xs ws st : Status), jobOf s (2 * b.val + i.val) = some j → fMode j.desc = m.2 →
      goesOn s b.val = true →
      (List.range (fNsym j.desc)).foldl (fun r k => fftSymbol b.val j.desc none r k) { st := s } = r → r.stop = none →
      (if da j.desc 14 = 0 then (r.st, Status.ok)
        else netStore r.st b.val (da j.desc 14) (r.exps.map (BitVec.ofNat 8 ·) ++ List.replicate (64 - r.exps.length) 0)) = (s1, xs) →
      st = (if xs ≠ .ok then xs else if r.bad ≠ 0 then .partialDone else .ok) →
      netStore s1 b.val (j.param + 64) (wordBytes [w32 (statNum st), w32 r.n, w32 r.sat, w32 r.bad, 0, 0, 0, 0]) = (s2, ws) →
      exec m.1 s = .next (settled s (complete (putEng (wrF (wrB (bump (bump s2 R.fftSymCount b.val i.val r.n) R.fftPoisonCount b.val i.val r.bad)
        R.fftStat b.val i.val 0 false) R.fftStat b.val i.val 31 16 (statNum st)) (2 * b.val + i.val) none) j.task (st16 st)))) ∧
    (∀ s : State, jobOf s (2 * b.val + i.val) = none → exec m.1 s = .next s) ∧
    (∀ (s : State) (j : EngJob), jobOf s (2 * b.val + i.val) = some j → fMode j.desc ≠ m.2 → exec m.1 s = .next s)

/-- R221, R222, R225–R238. The tables of the coding documents are configuration (log entries 73 and 135). -/
def Obligations.CodingJobs : Prop :=
  (∀ (h : Fin 2) (i : Fin 4) (k : Fin 12) (n : Fin 8) (z : Fin 2) (e : Status), ∀ m ∈ [(Instr.ldecComplete h k (some e), k.val),
      (.lencComplete h i (some e), 12 + i.val), (.pdecComplete h i (some e), 16 + i.val), (.pencComplete h i (some e), 20 + i.val),
      (.tdecComplete h n (some e), 24 + n.val), (.tencComplete h z (some e), 32 + z.val), (.dematchComplete h n (some e), 34 + n.val),
      (.matchComplete h n (some e), 34 + n.val), (.hcNewComplete h i (some e), 42 + i.val), (.hcCombineComplete h i (some e), 42 + i.val),
      (.hcReadComplete h i (some e), 42 + i.val)],
    (∀ s : State, runningPool s h.val m.2 = none → exec m.1 s = .next s) ∧
    (∀ (s : State) (j : EngJob), runningPool s h.val m.2 = some j → e = .notPresent → exec m.1 s = .next (settled s (endPool s h.val m.2 j e [])))) ∧
  (∀ (h : Fin 2) (i : Fin 4) (s s1 s2 : State) (j : EngJob) (m full : List Bool) (crc : Nat), runningPool s h.val (12 + i.val) = some j →
    fld (dw j.desc 0) 26 25 = crc →
    readBits s (poolNi h.val) (da j.desc 2) (fld (dw j.desc 1) 14 0 - crcLen crc) = (s1, .ok, m, false) →
    full = (m ++ (if crc = 0 then [] else crcBits crc m)) ++
      List.replicate (ldKb (ldBg2 j.desc) * ldZc j.desc - fld (dw j.desc 1) 14 0) false →
    putLines s1 (poolNi h.val) (da j.desc 4) (packBits (ldNb (ldBg2 j.desc) * ldZc j.desc / 8 + 1)
      ((full.drop (2 * ldZc j.desc) ++ ldpcParity (ldBg2 j.desc) (ldZc j.desc) full).take (ldNb (ldBg2 j.desc) * ldZc j.desc))) = (s2, .ok) →
    exec (.lencComplete h i none) s = .next (settled s (endPool s2 h.val (12 + i.val) j .ok []))) ∧
  (∀ (h : Fin 2) (i : Fin 4) (s s1 s2 : State) (j : EngJob) (m : List Bool), runningPool s h.val (12 + i.val) = some j →
    readBits s (poolNi h.val) (da j.desc 2) (fld (dw j.desc 1) 14 0 - crcLen (fld (dw j.desc 0) 26 25)) = (s1, .ok, m, true) →
    poisonLines s1 (poolNi h.val) (da j.desc 4) (cdiv (ldNb (ldBg2 j.desc) * ldZc j.desc) 8) = (s2, .ok) →
    exec (.lencComplete h i none) s = .next (settled s (endPool s2 h.val (12 + i.val) j .integrity []))) ∧
  (∀ (h : Fin 2) (i : Fin 12) (s s1 s2 : State) (j : EngJob) (ls : List Int) (zc k kp mr n it : Nat) (w : List Bool),
    runningPool s h.val i.val = some j → zc = ldZc j.desc → k = ldKb (ldBg2 j.desc) * zc → kp = fld (dw j.desc 1) 14 0 →
    mr = ldLayers (ldBg2 j.desc) zc (fld (dw j.desc 1) 30 16) → n = k + mr * zc →
    readLlrs s (poolNi h.val) (da j.desc 2) (fld (dw j.desc 1) 30 16) = (s1, .ok, ls, 0) →
    ldRun (ldIterate (ldBg2 j.desc) zc mr (fld (dw j.desc 6) 3 0) (fld (dw j.desc 6) 8 4) fun x => decide (kp ≤ x) && decide (x < k))
      (fun v => (decide (fld (dw j.desc 0) 24 23 = 1) && decide (ldpcUnsat (ldBg2 j.desc) zc mr v = 0)) ||
        (decide (fld (dw j.desc 0) 24 23 = 2) && (decide (fld (dw j.desc 0) 26 25 ≠ 0) && crcPass (fld (dw j.desc 0) 26 25) (v.take kp))))
      (fld (dw j.desc 0) 22 18) 0 (ldChannel zc kp k n ls, List.replicate (mr * zc) []) = (w, it) →
    putLines s1 (poolNi h.val) (da j.desc 4) (packBits (kp / 8 + 1) (w.take kp)) = (s2, .ok) →
    exec (.ldecComplete h i none) s = .next (settled s (endPool s2 h.val i.val j .ok
      [packF [(16, b2n (decide (fld (dw j.desc 0) 26 25 ≠ 0))),
          (17, b2n (decide (fld (dw j.desc 0) 26 25 ≠ 0) && crcPass (fld (dw j.desc 0) 26 25) (w.take kp))),
          (18, b2n (decide (ldpcUnsat (ldBg2 j.desc) zc mr w = 0))), (19, it)], 0,
        w32 (satU 16 (ldpcUnsat (ldBg2 j.desc) zc mr w)), w32 (64 + it * (mr * cdiv zc 96 + 8))]))) ∧
  (∀ (h : Fin 2) (i : Fin 4) (s s1 s2 : State) (j : EngJob) (ls : List Int) (m : List Bool) (ok : Bool) (rank pm : Nat),
    runningPool s h.val (16 + i.val) = some j →
    readLlrs s (poolNi h.val) (da j.desc 4) (fld (dw j.desc 2) 13 0) = (s1, .ok, ls, 0) →
    (polarOf j.desc).decode (fld (dw j.desc 3) 15 0) ls = (m, ok, rank, pm) →
    putLines s1 (poolNi h.val) (da j.desc 6) (packBits (fld (dw j.desc 1) 10 0 / 8 + 1) m) = (s2, .ok) →
    exec (.pdecComplete h i none) s = .next (settled s (endPool s2 h.val (16 + i.val) j .ok
      [packF [(16, b2n ok), (17, rank)], 0, w32 (satU 32 pm)]))) ∧
  (∀ (h : Fin 2) (i : Fin 4) (s s1 s2 : State) (j : EngJob) (m : List Bool), runningPool s h.val (20 + i.val) = some j →
    readBits s (poolNi h.val) (da j.desc 4) (fld (dw j.desc 1) 10 0) = (s1, .ok, m, false) →
    putLines s1 (poolNi h.val) (da j.desc 6) (packBits (fld (dw j.desc 2) 13 0 / 8 + 1)
      ((polarOf j.desc).encode (fld (dw j.desc 3) 15 0) m)) = (s2, .ok) →
    exec (.pencComplete h i none) s = .next (settled s (endPool s2 h.val (20 + i.val) j .ok []))) ∧
  (∀ (h : Fin 2) (i : Fin 8) (s s1 s2 s3 s4 : State) (j : EngJob) (l0 l1 l2 : List Int) (k f it : Nat) (w : List Bool),
    runningPool s h.val (24 + i.val) = some j → k = fld (dw j.desc 1) 12 0 → f = fld (dw j.desc 1) 18 13 →
    readLlrs s (poolNi h.val) (da j.desc 2 + 0 * llrStride (k + 4)) (k + 4) = (s1, .ok, l0, 0) →
    readLlrs s1 (poolNi h.val) (da j.desc 2 + 1 * llrStride (k + 4)) (k + 4) = (s2, .ok, l1, 0) →
    readLlrs s2 (poolNi h.val) (da j.desc 2 + 2 * llrStride (k + 4)) (k + 4) = (s3, .ok, l2, 0) →
    turboRun (turboIterate k f (fld (dw j.desc 0) 19 15) l0 l1 l2) (fun v => bit (dw j.desc 0) 14 &&
        (decide (fld (dw j.desc 0) 13 12 ≠ 0) && crcPass (fld (dw j.desc 0) 13 12) (v.drop f))) (fld (dw j.desc 0) 11 8) 0
      (List.replicate k 0) [] = (w, it) →
    putLines s3 (poolNi h.val) (da j.desc 4) (packBits (k / 8 + 1) (w.drop f)) = (s4, .ok) →
    exec (.tdecComplete h i none) s = .next (settled s (endPool s4 h.val (24 + i.val) j .ok
      [packF [(16, b2n (decide (fld (dw j.desc 0) 13 12 ≠ 0))),
          (17, b2n (decide (fld (dw j.desc 0) 13 12 ≠ 0) && crcPass (fld (dw j.desc 0) 13 12) (w.drop f))), (18, it)], 0,
        w32 (64 + 2 * it * (cdiv (k + 4) 24 + 16))]))) ∧
  (∀ (h : Fin 2) (i : Fin 2) (s s1 s2 : State) (j : EngJob) (m : List Bool), runningPool s h.val (32 + i.val) = some j →
    readBits s (poolNi h.val) (da j.desc 2) (fld (dw j.desc 1) 12 0 - fld (dw j.desc 1) 18 13) = (s1, .ok, m, false) →
    putLines s1 (poolNi h.val) (da j.desc 4) ((turboEncode (List.replicate (fld (dw j.desc 1) 18 13) false ++ m)).flatMap fun l =>
      packBits (l.length / 8 + 1) l ++ List.replicate (bitStride (fld (dw j.desc 1) 12 0 + 4) - (packBits (l.length / 8 + 1) l).length) 0) = (s2, .ok) →
    exec (.tencComplete h i none) s = .next (settled s (endPool s2 h.val (32 + i.val) j .ok []))) ∧
  (∀ (h : Fin 2) (i : Fin 8) (s s1 s2 : State) (j : EngJob) (ls : List Int), runningPool s h.val (34 + i.val) = some j → bit (dw j.desc 0) 8 = true →
    readLlrs s (poolNi h.val) (da j.desc 4) (rmE j.desc) = (s1, .ok, ls, 0) →
    putLines s1 (poolNi h.val) (da j.desc 6) (dematchOut j.desc (dematch j.desc ls).1) = (s2, .ok) →
    exec (.dematchComplete h i none) s = .next (settled s (endPool s2 h.val (34 + i.val) j .ok
      [0, w32 (rmHigh j.desc), 0, w32 (dematch j.desc ls).2])) ∧
    exec (.matchComplete h i none) s = .next s) ∧
  (∀ (h : Fin 2) (i : Fin 8) (s s1 s2 : State) (j : EngJob) (m : List Bool), runningPool s h.val (34 + i.val) = some j → bit (dw j.desc 0) 8 = false →
    rmTurbo j.desc = false → readBits s (poolNi h.val) (da j.desc 4) (rmFull j.desc) = (s1, .ok, m, false) →
    putLines s1 (poolNi h.val) (da j.desc 6) (packBits (rmE j.desc / 8 + 1) ((List.range (rmE j.desc)).map fun k =>
      xor ((rmWalk j.desc).length ≠ 0 && matchBit j.desc m (nth (rmWalk j.desc) (rmOrder j.desc k % (rmWalk j.desc).length) 0))
        ((rmScramble j.desc).testBit k))) = (s2, .ok) →
    exec (.matchComplete h i none) s = .next (settled s (endPool s2 h.val (34 + i.val) j .ok [])) ∧
    exec (.dematchComplete h i none) s = .next s) ∧
  (∀ (h : Fin 2) (i : Fin 4) (s s1 : State) (j : EngJob) (l : List Int), runningPool s h.val (42 + i.val) = some j → fld (dw j.desc 0) 9 8 = 0 →
    readLlrs s (poolNi h.val) (da j.desc 4) (fld (dw j.desc 1) 15 0) = (s1, .ok, l, 0) →
    exec (.hcNewComplete h i none) s = .next (settled s (softWrite s1 h.val (42 + i.val) j l (fld (dw j.desc 1) 31 16) 1 0 0))) ∧
  (∀ (h : Fin 2) (i : Fin 4) (s s1 s2 : State) (j : EngJob) (l old : List Int) (high comb eb en : Nat), runningPool s h.val (42 + i.val) = some j →
    fld (dw j.desc 0) 9 8 = 1 → readSoft s h.val j.desc = (s1, .ok, high, comb, old, eb) →
    readLlrs s1 (poolNi h.val) (da j.desc 4) (fld (dw j.desc 1) 15 0) = (s2, .ok, l, en) →
    exec (.hcCombineComplete h i none) s = .next (settled s (softWrite s2 h.val (42 + i.val) j ((old.zip l).map fun x => clampI (-127) 127 (x.1 + x.2))
      (Nat.max high (fld (dw j.desc 1) 31 16)) (satU 8 (comb + 1)) en eb))) ∧
  (∀ (h : Fin 2) (i : Fin 4) (s s1 s2 : State) (j : EngJob) (old : List Int) (high comb : Nat), runningPool s h.val (42 + i.val) = some j →
    fld (dw j.desc 0) 9 8 = 2 → readSoft s h.val j.desc = (s1, .ok, high, comb, old, 0) →
    putLines s1 (poolNi h.val) (da j.desc 6) (llrBytes old) = (s2, .ok) →
    exec (.hcReadComplete h i none) s = .next (settled s (endPool s2 h.val (42 + i.val) j .ok [0, w32 high, w32 comb, 0, 0]))) ∧
  (∀ (h : Fin 2) (i : Fin 4) (k : Fin 46) (s s1 s2 : State) (n : Nat) (x : Task) (d : List W32), k.val = 42 + i.val →
    jobOf s (poolKey h.val k.val) = none → awake s (16 + h.val) = true → beginTask s (.pool h k) = some (s1, n, x) →
    poolStaged s1 h.val 7 x.param = (s2, .ok, d) →
    ((s.locks.any fun e => decide (e.1 = da d 8)) = true → exec (.hcLockAcquire h i) s = .next s) ∧
    ((s.locks.any fun e => decide (e.1 = da d 8)) = false → s.locks.length < 128 → exec (.hcLockAcquire h i) s = .next
      (settled s { putEng s2 (poolKey h.val k.val) (some { task := n, param := x.param, desc := d }) with
        locks := (putEng s2 (poolKey h.val k.val) (some { task := n, param := x.param, desc := d })).locks ++
          [(da d 8, poolKey h.val k.val)] })))

/-- R173–R175, R180, R187–R189, R195, R197 and R198. The converter's errors are free values within the rule's bounds (log
entry 63). -/
def Obligations.ArrayJobs : Prop :=
  (∀ (b : Fin 16) (s s1 s3 : State) (j : CmaJob) (e : List W32) (w a : Nat), (cmaOf s b.val).job = some j → goesOn s b.val = true → j.stop = none →
    j.cur = none → j.seg < jNseg j.desc → net32s s b.val (jAddr j.desc 8 + 16 * j.seg) 4 = (s1, .ok, e, false) →
    segBad e (jNws j.desc) (cmaOf s b.val).mode = false →
    wsEntry (wrF s1 R.cmaJobStat b.val 0 13 1 j.seg) b.val j.desc (fld (jw e 0) 23 18) = (s3, .ok, w, a) →
    exec (.cmaSegmentStart b) s = .next (settled s (cmaSync (prefetch (seekBank (setJob s3 b.val fun x => { x with
      cur := some e, seg := x.seg + 1, done := 0, set := (w, a) }) b.val) b.val j.desc e) b.val))) ∧
  (∀ (b : Fin 16) (s s1 : State) (j : CmaJob) (e : List W32), (cmaOf s b.val).job = some j → goesOn s b.val = true → j.stop = none →
    j.cur = none → j.seg < jNseg j.desc → net32s s b.val (jAddr j.desc 8 + 16 * j.seg) 4 = (s1, .ok, e, false) →
    segBad e (jNws j.desc) (cmaOf s b.val).mode = true →
    exec (.cmaSegmentStart b) s = .next (settled s (stopJob (wrF s1 R.cmaJobStat b.val 0 13 1 j.seg) b.val .badParam))) ∧
  (∀ (b : Fin 16) (pr : PilotRead) (s s1 s2 s3 s4 s5 s6 s7 : State) (j : CmaJob) (e : List W32) (xs : List (Nat × Nat × Bool))
      (ys : List Nat) (osat inj xfer susp deg above odd : Bool) (v : Int) (perr t : Nat) (kind : Option Nat) (spent : Nat × Nat)
      (errs : List (Int × Int)), (cmaOf s b.val).job = some j → j.cur = some e → goesOn s b.val = true → j.need = false →
    j.stop = none → vectorRemote j.desc ((jAddr j.desc 4 + (jw e 2).toNat + 4 * j.done) % 2 ^ 48)
      ((jAddr j.desc 6 + (jw e 3).toNat + 4 * j.done) % 2 ^ 48) ((jAddr j.desc 12 + j.vectors) % 2 ^ 48) (fld (jw e 0) 29 24)
      ((List.range 64).filter fun k => (jCols j.desc).testBit k) = false →
    bit (rd s1 R.cmaCount b.val 0) 0 = odd → readInputs s b.val ((jAddr j.desc 4 + (jw e 2).toNat + 4 * j.done) % 2 ^ 48) (jw j.desc 14).toNat
      ((List.range 64).filter fun k => (jCols j.desc).testBit k) = (s1, .ok, xs) →
    pilotErr (blockExp xs) odd xs [pr.i32, pr.q32, pr.i33, pr.q33] = perr →
    shownEv s1 b.val (pilotEv ((perr :: (cmaOf s b.val).pilots).take 16)) = (v, inj) → evAbove s1 b.val v inj = above →
    errBound s1 b.val = kind → (assoc j.errs (kind.getD 0)).getD (0, 0) = spent →
    rowErrors s1.freeCtr (fld (jw j.desc 0) 10 8) (spent.2 + fld (jw e 0) 29 24) kind (tieOf (cmaOf s b.val) perr (fld (jw e 0) 29 24))
      spent.1 (List.range (fld (jw e 0) 29 24)) = (errs, t) →
    rowOutputs (fld (jw j.desc 0) 10 8) (fld (jw j.desc 0) 14 11) (blockExp xs) odd
      (nth (cmaOf s b.val).banks (fld (jw e 0) 17 16) []) xs errs = (ys, osat) →
    rowCalTake (pilotTake (storeRows { s1 with freeCtr := s1.freeCtr + 64 } b.val
      ((jAddr j.desc 6 + (jw e 3).toNat + 4 * j.done) % 2 ^ 48) (jw j.desc 15).toNat 0 ys) b.val perr
      ((t - spent.1) * 4 ^ fld (jw j.desc 0) 10 8, fld (jw e 0) 29 24)) b.val odd errs = s2 →
    (if inj then spendInj s2 b.val else s2) = s3 → cmaXfer s3 b.val = xfer → (xs.any fun x => x.2.2) = deg →
    runCount (learn s3 b.val) b.val above inj = s4 → (above || decide (cmaState s4 b.val = 3)) = susp →
    (netStore s4 b.val ((jAddr j.desc 12 + j.vectors) % 2 ^ 48) (bytesOf 1 (b2n susp + 2 * b2n deg + 4 * b2n osat + 8 * b2n xfer +
      16 * (clampI 0 15 ((v + 256) / 8)).toNat))).1 = s5 →
    cmaTelem (cmaTelem (cmaTelem (cmaTelem s5 b.val 0 1) b.val 1 (b2n susp)) b.val 2 (b2n deg)) b.val 3 (b2n osat) = s6 →
    wr (wr s6 R.cmaPerrLast b.val 0 (w32 (wrapTo 16 v))) R.cmaJobVec b.val 0 (w32 (j.vectors + 1)) = s7 →
    exec (.cmaVectorExit b pr) s = .next (settled s (cmaSync (setJob s7 b.val fun x => { x with
      errs := if kind.isSome = true then putKey x.errs (kind.getD 0) (some (t, spent.2 + fld (jw e 0) 29 24)) else x.errs,
      vectors := x.vectors + 1, suspect := x.suspect + b2n susp, degraded := x.degraded + b2n deg, osat := x.osat + b2n osat,
      worst := some (match x.worst with
        | none => v
        | some u => if u < v then v else u),
      band := if x.vectors = 0 then cmaBand s b.val else x.band, xfer := x.xfer || xfer,
      cur := if decide (fld (jw e 0) 15 0 ≤ j.done + 1) = true then none else x.cur, done := x.done + 1 }) b.val))) ∧
  (∀ (b : Fin 16) (pr : PilotRead) (s : State), (cmaOf s b.val).job = none →
    exec (.cmaSegmentStart b) s = .next s ∧ exec (.cmaVectorExit b pr) s = .next s ∧ exec (.cmaJobComplete b) s = .next s) ∧
  (∀ (b : Fin 16) (n : W32) (s s1 : State) (l : CmaLoad) (ws : List Byte), (cmaOf s b.val).load = some l →
    netBytes s b.val l.addr 4096 = (s1, .ok, ws, false) → bit (rd s1 R.cmaInj b.val) 3 = false → (cmaOf s1 b.val).job = none →
    exec (.cmaLoadComplete b none n) s = .next (settled s (endLoad s1 b.val l .ok ws false))) ∧
  (∀ (b : Fin 16) (n : W32) (s s1 : State) (l : CmaLoad) (ws : List Byte), (cmaOf s b.val).load = some l →
    netBytes s b.val l.addr 4096 = (s1, .ok, ws, true) → bit (rd s1 R.cmaInj b.val) 3 = false → (cmaOf s1 b.val).job = none →
    exec (.cmaLoadComplete b none n) s = .next (settled s (endLoad s1 b.val l .integrity ws false))) ∧
  (∀ (b : Fin 16) (x : Option Status) (n : W32) (s : State), (cmaOf s b.val).load = none → exec (.cmaLoadComplete b x n) s = .next s) ∧
  (∀ (b : Fin 16) (s s1 : State) (j : CmaJob), (cmaOf s b.val).job = some j → j.cur = none → jNseg j.desc ≤ j.seg →
    netStore s b.val (j.param + 64) (wordBytes (jobRecord j)) = (s1, .ok) → exec (.cmaJobComplete b) s =
    .next (settled s (cmaSync (wrF (wrB (setCma (complete s1 j.task (st16 (jobStatus j))) b.val fun c => { c with job := none })
      R.cmaJobStat b.val 0 0 false) R.cmaJobStat b.val 0 31 16 (statNum (jobStatus j))) b.val))) ∧
  (∀ (b : Fin 16) (s : State) (d : Nat), (cmaOf s b.val).preFrom = some d → (cmaOf s d).job = none → (cmaOf s d).load = none →
    awake s b.val = true → (∀ k, k < 4 → bankWsid s d k = 0) → exec (.cmaSparePreload b) s =
    .next (cmaSync (nextPreload (setCma s b.val fun y => { y with preFrom := none, preQ := [] }) b.val 5) b.val)) ∧
  (∀ (b : Fin 16) (s : State) (d k w a : Nat) (r : List (Nat × Nat × Nat)), (cmaOf s b.val).preFrom = some d → (cmaOf s d).job = none →
    (cmaOf s d).load = none → awake s b.val = true → (cmaOf s b.val).load = none → spareSets s b.val d = (k, w, a) :: r →
    inService (cmaOf s b.val) ≠ some k → bankWsid s b.val k ≠ w → exec (.cmaSparePreload b) s =
    .next (cmaSync (startLoad (setCma (setCma s b.val fun y => { y with preFrom := none, preQ := (k, w, a) :: r }) b.val
      fun y => { y with preQ := r }) b.val (mkLoad .spare k w a)) b.val)) ∧
  (∀ (b : Fin 16) (s : State) (k w a : Nat) (r : List (Nat × Nat × Nat)), (cmaOf s b.val).preFrom = none → awake s b.val = true →
    (cmaOf s b.val).load = none → (cmaOf s b.val).preQ = (k, w, a) :: r → inService (cmaOf s b.val) ≠ some k → bankWsid s b.val k ≠ w →
    exec (.cmaSparePreload b) s =
    .next (cmaSync (startLoad (setCma s b.val fun y => { y with preQ := r }) b.val (mkLoad .spare k w a)) b.val)) ∧
  (∀ (b : Fin 16) (s : State) (d : Nat), (cmaOf s b.val).preFrom = some d → (cmaOf s d).job.isSome = true ∨ (cmaOf s d).load.isSome = true →
    exec (.cmaSparePreload b) s = .next s) ∧
  (∀ (b : Fin 16) (s : State), awake s b.val = false → exec (.cmaSparePreload b) s = .next s)

/-- R192–R194 and R201–R208. -/
def Obligations.ArrayCalibration : Prop :=
  (∀ (b : Fin 16) (c : Fin 256) (n : Nat) (s : State), cmaHere s.variant b.val = true → bandOfCurrent s b.val c.val = n → n ≠ cmaBand s b.val →
    exec (.cmaBandSample b c) s = .next (calDueCheck (cmaSync (setCma (raise (wrF s R.cmaStat b.val 0 5 4 n) E.cma b.val 6) b.val
      fun c => { c with bg := c.bg.map fun g => (0, g.2.1, n) }) b.val) b.val)) ∧
  (∀ (b : Fin 16) (c : Fin 256) (s : State), bandOfCurrent s b.val c.val = cmaBand s b.val → exec (.cmaBandSample b c) s = .next s) ∧
  (∀ (b : Fin 16) (c : Fin 256) (n p w : Nat) (s : State), awake s b.val = true → cmaState s b.val = 2 → (cmaOf s b.val).bg = some (n, p, w) →
    (cmaOf s b.val).mode = 1 → n < 65 →
    exec (.cmaBgCalStep b c) s = .next (cmaSync (setCma s b.val fun c => { c with bg := some (n + 1, p, w) }) b.val)) ∧
  (∀ (b : Fin 16) (c : Fin 256) (p w : Nat) (s : State), awake s b.val = true → cmaState s b.val = 2 → (cmaOf s b.val).bg = some (65, p, w) →
    (cmaOf s b.val).mode = 1 → exec (.cmaBgCalStep b c) s =
    .next (cmaSync (raise (writeCalRec (setCma s b.val fun c => { c with bg := none }) b.val c.val (cmaOf s b.val).rowCal) E.cma b.val 8) b.val)) ∧
  (∀ (b : Fin 16) (s : State), cmaHere s.variant b.val = true → awake s b.val = true → (cmaOf s b.val).job = none →
    cmaState s b.val = 0 ∨ cmaState s b.val = 3 ∨ ((cmaOf s b.val).pend = true ∧ (cmaState s b.val = 2 ∨ cmaState s b.val = 4)) →
    (cmaOf s b.val).load = none ∨ heirs s b.val = [] →
    exec (.cmaFullCalStart b) s = .next (startCal ((heirs s b.val).foldl spareRead s) b.val)) ∧
  (∀ (b : Fin 16) (s : State), (cmaOf s b.val).load.isSome = true → heirs s b.val ≠ [] → exec (.cmaFullCalStart b) s = .next s) ∧
  (∀ (b : Fin 16) (s : State), cmaHere s.variant b.val = false →
    exec (.cmaFullCalStart b) s = .next s ∧ exec (.cmaCalStartBit .mp b) s = .next s) ∧
  (∀ (b : Fin 16) (ev : W16) (t : Fin 1001) (s : State), goesOn s b.val = true → cmaState s b.val = 1 → bit (rd s R.cmaInj b.val) 3 = false →
    ev.toInt ≤ -216 → t.val < 900 → exec (.cmaFullCalEnd b ev t) s = .next (
      let s2 := ledgerCheck (cmaTelem s b.val 8 1) b.val (clampI 0 255 (-ev.toInt)).toNat t.val
      let s4 := wr (setCma (setCmaState (writeCalRec s2 b.val (clampI 0 255 (-ev.toInt)).toNat []) b.val 2) b.val
        fun c => { c with fails := 0, failInj := false, pend := false }) R.cmaRunCnt b.val 0 0
      cmaSync (rejoin (raise (cmaSync s4 b.val) E.cma b.val 1) b.val) b.val)) ∧
  (∀ (b : Fin 16) (ev : W16) (t : Fin 1001) (s : State), cmaState s b.val ≠ 1 → exec (.cmaFullCalEnd b ev t) s = .next s) ∧
  (∀ (b : Fin 16) (s : State), cmaHere s.variant b.val = true → cmaState s b.val = 2 → (cmaOf s b.val).pend = false →
    exec (.cmaCalStartBit .mp b) s = .next (requestCal s b.val) ∧ exec (.cmaCalStartBit .host b) s = .next s) ∧
  (∀ (w : Writer) (b : Fin 16) (s : State), cmaHere s.variant b.val = true → mayInject s w = true → rdF s R.cmaInj b.val 0 2 0 ≠ 0 →
    exec (.cmaShellInjArm w b) s = .next (setCma (wrB s R.cmaInj b.val 0 3 true) b.val fun c => { c with
      injLeft := rdF s R.cmaInj b.val 0 31 16 })) ∧
  (∀ (q : Req) (s : State) (w : W32), Starts s 0x0B01 q → q.params = [w] → onlyBits w 0xF#32 = true → cmaHere s.variant (fld w 3 0) = true →
    exec (.cmaStatus q) s = .next (reply s 0x0B01 q .ok ([rd s R.cmaStat (fld w 3 0), rd s R.cmaPerrLast (fld w 3 0), rd s R.cmaRunCnt (fld w 3 0)] ++
      ((List.range 4).map fun k => rd s R.cmaWsid (fld w 3 0) k) ++ [rd s R.cmaBankStat (fld w 3 0)]))) ∧
  (∀ (q : Req) (s : State) (w : W32), Starts s 0x0B02 q → q.params = [w] → onlyBits w 0x1F#32 = true → cmaHere s.variant (fld w 3 0) = true →
    cmaState s (fld w 3 0) = 2 → (cmaOf s (fld w 3 0)).pend = false → (cmaOf s (fld w 3 0)).job = none →
    exec (.cmaCalibrate q) s = .next (answered s 0x0B02 q (fun t => requestCal t (fld w 3 0)) [])) ∧
  (∀ (q : Req) (s : State) (w : W32), Starts s 0x0B02 q → q.params = [w] → onlyBits w 0x1F#32 = true → cmaHere s.variant (fld w 3 0) = true →
    cmaState s (fld w 3 0) = 0 → exec (.cmaCalibrate q) s = .next (reply s 0x0B02 q .state [])) ∧
  (∀ (q : Req) (s : State) (a b c d : W32), Starts s 0x0B03 q → q.params = [4, a, b, c, d] → onlyBits a 0x0FFFFFFF#32 = true →
    onlyBits b 0x00FFFFFF#32 = true → onlyBits c 0x1F#32 = true → onlyBits d 0xE#32 = true → R.cmaBandThr.legal a = true →
    R.cmaDriftCfg.legal b = true → R.cmaCalCfg.legal c = true → R.cmaCtl.legal d = true → cmaHere s.variant 2 = true →
    exec (.cmaConfig q) s = .next (answered s 0x0B03 q (fun t => calDueCheck (wrF (wr (wr (wr t R.cmaBandThr 2 0 a) R.cmaDriftCfg 2 0 b)
      R.cmaCalCfg 2 0 c) R.cmaCtl 2 0 3 1 (fld d 3 1)) 2) [])) ∧
  (∀ (q : Req) (s : State) (w n lo hi : W32), Starts s 0x0B04 q → q.params = [w, n, lo, hi] → onlyBits w 0x3F#32 = true → onlyBits hi 0xFFFF#32 = true →
    n ≠ 0 → addrBad (pair64 lo hi) 64 = false → cmaHere s.variant (fld w 3 0) = true → cmaState s (fld w 3 0) = 2 →
    inService (cmaOf s (fld w 3 0)) ≠ some (fld w 5 4) → (cmaOf s (fld w 3 0)).load = none → fld w 5 4 ≠ 3 → exec (.cmaPreload q) s =
    .next (startLoad (seated s 0x0B04 q) (fld w 3 0) { mkLoad .preload (fld w 5 4) n.toNat (pair64 lo hi) with req := some q })) ∧
  (∀ (q : Req) (s : State) (w : W32), Starts s 0x0B05 q → q.params = [w] → onlyBits w 0x1F#32 = true → cmaHere s.variant (fld w 3 0) = true →
    bit w 4 = false → exec (.cmaService q) s = .next (answered s 0x0B05 q (fun t => cmaSync (setCma (wrB t R.cmaCtl (fld w 3 0) 0 0 false)
      (fld w 3 0) fun c => { c with hold := false }) (fld w 3 0)) []))

/-- R67, R75–R78, R81, R82, R85, R99–R102, R105–R113 and R115: the S-slot rows of an Awl core and its events. The cycles a bundle
takes, and a resolved branch's counter, are free values (log entries 45 and 47). -/
def Obligations.AwlScalar : Prop :=
  (∀ r ∈ [(Instr.add, (fun x y => x + y : W32 → W32 → W32), 1), (Instr.sub, fun x y => x - y, 1), (Instr.and, fun x y => x &&& y, 1),
      (Instr.or, fun x y => x ||| y, 1), (Instr.xor, fun x y => x ^^^ y, 1), (Instr.sll, fun x y => x <<< (y.toNat % 32), 1),
      (Instr.srl, fun x y => x >>> (y.toNat % 32), 1), (Instr.sra, fun x y => x.sshiftRight (y.toNat % 32), 1),
      (Instr.slt, fun x y => if x.toInt < y.toInt then 1 else 0, 1), (Instr.sltu, fun x y => if x.toNat < y.toNat then 1 else 0, 1),
      (Instr.min, fun x y => if x.toInt < y.toInt then x else y, 1), (Instr.max, fun x y => if x.toInt < y.toInt then y else x, 1),
      (Instr.minu, fun x y => if x.toNat < y.toNat then x else y, 1), (Instr.maxu, fun x y => if x.toNat < y.toNat then y else x, 1),
      (Instr.adds, fun x y => BitVec.ofInt 32 (clampI (-(2 ^ 31)) (2 ^ 31 - 1) (x.toInt + y.toInt)), 1),
      (Instr.subs, fun x y => BitVec.ofInt 32 (clampI (-(2 ^ 31)) (2 ^ 31 - 1) (x.toInt - y.toInt)), 1),
      (Instr.mul, fun x y => x * y, 2), (Instr.mulh, fun x y => BitVec.ofInt 32 (x.toInt * y.toInt / 2 ^ 32), 2),
      (Instr.mulhu, fun x y => BitVec.ofNat 32 (x.toNat * y.toNat / 2 ^ 32), 2)],
    ∀ (id : CoreId) (d a b : Fin 32) (s : State) (c : Core), Finds s id [.s a, .s b] c →
      exec (r.1 id d a b) s = .next (plain s id c [(.s d, .w (r.2.1 (c.rs a) (c.rs b)), r.2.2)] {})) ∧
  (∀ r ∈ [(Instr.abs, (fun x => BitVec.ofInt 32 (clampI (-(2 ^ 31)) (2 ^ 31 - 1) (x.toInt.natAbs : Int)) : W32 → W32)),
      (Instr.clz, fun x => if x = 0 then 32 else w32 (31 - Nat.log2 x.toNat)),
      (Instr.cls, fun x => if (if x.toInt < 0 then (~~~x).toNat else x.toNat) = 0 then 31
        else w32 (30 - Nat.log2 (if x.toInt < 0 then (~~~x).toNat else x.toNat)))],
    ∀ (id : CoreId) (d a : Fin 32) (s : State) (c : Core), Finds s id [.s a] c →
      exec (r.1 id d a) s = .next (plain s id c [(.s d, .w (r.2 (c.rs a)), 1)] {})) ∧
  (∀ r ∈ [(Instr.addi, (fun x i => x + i.signExtend 32 : W32 → W16 → W32)), (Instr.andi, fun x i => x &&& i.zeroExtend 32),
      (Instr.ori, fun x i => x ||| i.zeroExtend 32), (Instr.xori, fun x i => x ^^^ i.zeroExtend 32),
      (Instr.slti, fun x i => if x.toInt < i.toInt then 1 else 0)],
    ∀ (id : CoreId) (d a : Fin 32) (i : W16) (s : State) (c : Core), Finds s id [.s a] c →
      exec (r.1 id d a i) s = .next (plain s id c [(.s d, .w (r.2 (c.rs a) i), 1)] {})) ∧
  (∀ r ∈ [(Instr.slli, (fun x n => x <<< n : W32 → Nat → W32)), (Instr.srli, fun x n => x >>> n), (Instr.srai, fun x n => x.sshiftRight n),
      (Instr.rori, fun x n => x.rotateRight n)],
    ∀ (id : CoreId) (d a n : Fin 32) (s : State) (c : Core), Finds s id [.s a] c →
      exec (r.1 id d a n) s = .next (plain s id c [(.s d, .w (r.2 (c.rs a) n), 1)] {})) ∧
  (∀ (id : CoreId) (d : Fin 32) (i : W16) (s : State) (c : Core), Finds s id [] c →
    exec (.lui id d i) s = .next (plain s id c [(.s d, .w (i.zeroExtend 32 <<< 16), 1)] {})) ∧
  (∀ (id : CoreId) (d a : Fin 16) (b : Fin 32) (s : State) (c : Core), Finds s id [.p a, .s b] c →
    exec (.padd id d a b) s = .next (plain s id c [(.p d, .w (c.rp a + c.rs b), 1)] {}) ∧
    exec (.psub id d a b) s = .next (plain s id c [(.p d, .w (c.rp a - c.rs b), 1)] {})) ∧
  (∀ (id : CoreId) (d : Fin 16) (a : Fin 32) (s : State) (c : Core), Finds s id [.s a] c →
    exec (.pmov id d a) s = .next (plain s id c [(.p d, .w (c.rs a), 1)] {})) ∧
  (∀ (id : CoreId) (d : Fin 32) (a : Fin 16) (s : State) (c : Core), Finds s id [.p a] c →
    exec (.smov id d a) s = .next (plain s id c [(.s d, .w (c.rp a), 1)] {})) ∧
  (∀ (id : CoreId) (d : Fin 32) (a b : Fin 16) (s : State) (c : Core), Finds s id [.p a, .p b] c →
    exec (.pdiff id d a b) s = .next (plain s id c [(.s d, .w (c.rp a - c.rp b), 1)] {})) ∧
  (∀ (id : CoreId) (d a : Fin 16) (i : W16) (s : State) (c : Core), Finds s id [.p a] c →
    exec (.paddi id d a i) s = .next (plain s id c [(.p d, .w (c.rp a + i.signExtend 32), 1)] {})) ∧
  (∀ r ∈ [(Instr.beq, (fun x y => decide (x = y) : W32 → W32 → Bool)), (Instr.bne, fun x y => decide (x ≠ y)),
      (Instr.blt, fun x y => decide (x.toInt < y.toInt)), (Instr.bge, fun x y => decide (y.toInt ≤ x.toInt)),
      (Instr.bltu, fun x y => decide (x.toNat < y.toNat)), (Instr.bgeu, fun x y => decide (y.toNat ≤ x.toNat))],
    ∀ (id : CoreId) (a b : Fin 32) (o : W16) (s : State) (c : Core), Finds s id [.s a, .s b] c →
      exec (r.1 id a b o) s = .next (bundled s (drawn s) id
        (c.branched [] (c.predict { fn := .beq, imm := o.toInt }) (r.2 (c.rs a) (c.rs b)) (c.pc + BitVec.ofInt 32 (16 * o.toInt))) {})) ∧
  (∀ (id : CoreId) (k : Fin 8) (o : W16) (s : State) (c : Core) (z : Bool), Finds s id [.k k] c →
    (z = true ↔ ∃ e < c.vl, (c.rk k).getLsbD e = true) →
    exec (.bkany id k o) s = .next (bundled s (drawn s) id (c.branched [] (c.predict { fn := .bkany, imm := o.toInt }) z
      (c.pc + BitVec.ofInt 32 (16 * o.toInt))) {}) ∧
    exec (.bknone id k o) s = .next (bundled s (drawn s) id (c.branched [] (c.predict { fn := .bknone, imm := o.toInt }) (!z)
      (c.pc + BitVec.ofInt 32 (16 * o.toInt))) {})) ∧
  (∀ (id : CoreId) (o : BitVec 26) (s : State) (c : Core), Finds s id [] c →
    exec (.br id o) s = .next (bundled s (drawn s) id (c.branched [] (c.predict { fn := .br, imm := o.toInt }) true
      (c.pc + BitVec.ofInt 32 (16 * o.toInt))) {}) ∧
    exec (.call id o) s = .next (bundled s (drawn s) id (Core.branched { c with ras := ((c.pc + 16) :: c.ras).take 4 }
      [(.s 31, .w (c.pc + 16), 1)] (c.predict { fn := .call, imm := o.toInt }) true (c.pc + BitVec.ofInt 32 (16 * o.toInt))) {})) ∧
  (∀ (id : CoreId) (a : Fin 32) (s : State) (c : Core), Finds s id [.s a] c → exec (.jr id a) s = .next (bundled s (drawn s) id
    (Core.branched { c with ras := if a.val = 31 then c.ras.drop 1 else c.ras } [] (c.predict { fn := .jr, a := a }) true
      (c.rs a &&& 0xFFFFFFF0)) {})) ∧
  (∀ (id : CoreId) (d : Fin 32) (n : Fin 4096) (s : State) (c : Core) (l : Nat) (w : Option Nat), Finds s id [] c →
    csrLevels n = some (l, w) → c.pl ≤ l →
    exec (.csrr id d n) s = .next (plain s id c [(.s d, .w (csrRead s id.bench id.core c n), 1)] {})) ∧
  (∀ r ∈ [(Instr.csrw, (fun old x m => ((old &&& ~~~m.1) ||| (x &&& m.1)) &&& ~~~(x &&& m.2) : W32 → W32 → W32 × W32 → W32)),
      (Instr.csrs, fun old x m => (old ||| (x &&& m.1)) &&& ~~~(x &&& m.2)), (Instr.csrc, fun old x m => old &&& ~~~(x &&& m.1))],
    ∀ (id : CoreId) (a : Fin 32) (n : Fin 4096) (s : State) (c : Core) (l : Nat), Finds s id [.s a] c →
      (∀ (w : Nat) (v : W32), csrLevels n = some (l, some w) → c.pl ≤ w →
        v = r.2 (if n.val = 0x00E then c.ipend else csrRead s id.bench id.core c n) (c.rs a) (csrMasks n c.pl) → csrBad n v = false →
        ∀ x : Core, x = csrPut (c.moved []).1 n (if n.val = 0x005 then setFld (c.moved []).1.status 13 0 v.toNat else v) →
        exec (r.1 id a n) s = .next (bundled s (drawn s) id
          (if n.val = 0x00F then { x with wdAt := tickNow s } else x, (c.moved []).2) {})) ∧
      (csrLevels n = some (l, none) → exec (r.1 id a n) s = .next (plain s id c [] {}))) ∧
  (∀ (id : CoreId) (s : State) (c : Core), Finds s id [] c →
    exec (.fence id) s = .next (plain s id c [] {}) ∧
    (bit c.status 16 = true → exec (.irqHold id) s = .next (plain s id c [] {})) ∧
    (bit c.status 16 = false → exec (.irqHold id) s = .next (bundled s (drawn s) id
      (Core.moved { c with status := setBit c.status 16 true, holdN := 0, holdAt := c.pc } []) {})) ∧
    exec (.irqRelease id) s = .next (bundled s (drawn s) id (Core.moved { c with status := setBit c.status 16 false, holdN := 0 } []) {}) ∧
    (bit c.status 16 = false → exec (.waitev id) s = .next (bundled s (drawn s) id
      (Core.moved { c with waiting := (pendingIrq s id.bench id.core c).isNone } []) {})) ∧
    (c.pl ≠ 2 → c.pl ≤ fld c.estatus 18 17 → exec (.eret id) s = .next (bundled s (drawn s) id (Core.ran { c with
      status := setFld (setFld c.status 15 12 (fld c.estatus 15 12)) 18 17 (fld c.estatus 18 17) } [], c.epc) {})) ∧
    (∀ n : Fin 4096, exec (.trap id n) s = .next (putCore (drawn s) id.bench id.core (entered c 0x0D (w32 n) 0))) ∧
    (c.debug = true → exec (.brk id) s = .next (bundled s (drawn s) id (Core.ran { c with halted := true } [], c.pc) {})) ∧
    (c.debug = false → exec (.brk id) s = .next (putCore (drawn s) id.bench id.core (entered c 0x0E c.badaddr 0))) ∧
    exec (.lexit0 id) s = .next (bundled s (drawn s) id (Core.moved { c with status := setBit c.status 14 false } []) {}) ∧
    exec (.lexit1 id) s = .next (bundled s (drawn s) id (Core.moved { c with status := setBit c.status 15 false } []) {})) ∧
  (∀ (id : CoreId) (a : Fin 32) (s : State) (c : Core) (i : Nat), Finds s id [.s a] c → c.task = some i → exec (.tdone id a) s =
    .next (complete (bundled s (drawn s) id (Core.moved { c with task := none, idle := true } []) {}) i (BitVec.ofNat 16 (c.rs a).toNat))) ∧
  (∀ (id : CoreId) (last : Fin 1024) (cnt : Fin 256) (ci sp rb : Bool) (stg : Fin 16) (s : State) (c : Core) (n : Nat),
    Finds s id (if ci then [] else [.s cnt]) c → last.val ≠ 0 → (ci = true ∨ cnt.val < 32) → n = (if ci then cnt.val else (c.rs cnt).toNat) →
    (n + stg.val < 2 ^ 32 → bit c.status 14 = false →
      (bit c.status 15 = true → (c.pc + BitVec.ofNat 32 (16 * last)).toNat ≤ c.le1.toNat) → ∀ x : Core,
      x = { c with
        lc0 := w32 (n + stg), ls0 := c.pc + 16, le0 := c.pc + BitVec.ofNat 32 (16 * last), lstg := packF [(0, stg), (4, stg)], sp := sp,
        rrb := if rb then 0 else c.rrb } →
      (n ≠ 0 → exec (.loop0 id last cnt ci stg sp rb) s = .next (bundled s (drawn s) id
        (Core.moved (Core.stages { x with status := setBit c.status 14 true }) []) {})) ∧
      (n = 0 → exec (.loop0 id last cnt ci stg sp rb) s = .next (bundled s (drawn s) id
        ((x.ran []).loopEnd c.pc (c.pc + BitVec.ofNat 32 (16 * last) + 16)) {}))) ∧
    (stg.val = 0 → sp = false → rb = false → bit c.status 14 = false → bit c.status 15 = false → ∀ x : Core,
      x = { c with lc1 := w32 n, ls1 := c.pc + 16, le1 := c.pc + BitVec.ofNat 32 (16 * last) } →
      (n ≠ 0 → exec (.loop1 id last cnt ci stg sp rb) s = .next (bundled s (drawn s) id
        (Core.moved { x with status := setBit c.status 15 true } []) {})) ∧
      (n = 0 → exec (.loop1 id last cnt ci stg sp rb) s = .next (bundled s (drawn s) id
        ((x.ran []).loopEnd c.pc (c.pc + BitVec.ofNat 32 (16 * last) + 16)) {})))) ∧
  (∀ (id : CoreId) (s s0 s1 : State) (a b c d : W32) (n : Nat), coreRuns s id.bench id.core = true →
    s0 = { s with freeCtr := s.freeCtr + 1 } → n = (Config.freeWord s.freeCtr).toNat % 3 →
    ((coreOf s id.bench id.core).pre = [] → 0x80000 ≤ (coreOf s id.bench id.core).pc.toNat →
      (coreOf s id.bench id.core).pc.toNat < 0x90000 → (coreOf s id.bench id.core).pc.toNat % 16 = 0 →
      read32s s0 (lmemBase id.bench id.core + (coreOf s id.bench id.core).pc.toNat) 4 = (s1, [a, b, c, d], false) →
      exec (.bundleIssue id) s = .next (fetchAhead (issue s1 id.bench id.core
        { s0 := decodeS a, m0 := decodeM b, m1 := decodeM c, v := decodeV d } false) id.bench id.core n)) ∧
    (∀ r, (coreOf s id.bench id.core).pre = ((coreOf s id.bench id.core).pc, [a, b, c, d], false) :: r →
      exec (.bundleIssue id) s = .next (fetchAhead (issue s0 id.bench id.core
        { s0 := decodeS a, m0 := decodeM b, m1 := decodeM c, v := decodeV d } false) id.bench id.core n))) ∧
  (∀ (id : CoreId) (s : State) (c : Core), Finds s id [] c → (coreOf s id.bench id.core).pc = c.pc → (coreOf s id.bench id.core).pre = [] →
    (c.pc.toNat < 0x80000 ∨ 0x90000 ≤ c.pc.toNat ∨ c.pc.toNat % 16 ≠ 0) →
    exec (.bundleIssue id) s = .next (fetchAhead (putCore (drawn { s with freeCtr := s.freeCtr + 1 }) id.bench id.core (entered c 3 c.pc 0))
      id.bench id.core ((Config.freeWord s.freeCtr).toNat % 3))) ∧
  (∀ (id : CoreId) (s : State), coreRuns s id.bench id.core = false → exec (.bundleIssue id) s = .next s) ∧
  (∀ (id : CoreId) (s : State) (c : Core) (x : BrInfo) (r : List BrInfo), c = coreOf s id.bench id.core → c.open_ = x :: r →
    exec (.branchResolve id) s = .next (putCore { s with freeCtr := s.freeCtr + 1 } id.bench id.core { c with
      open_ := r, cycle := c.cycle + (if x.missed then 2 else 0), pred := putKey c.pred (fld x.pc 10 4) (some ((Config.freeWord s.freeCtr).toNat % 4,
        if x.taken then x.target else ((assoc c.pred (fld x.pc 10 4)).getD (0, 0)).2)) })) ∧
  (∀ (id : CoreId) (s : State) (c : Core) (k : Nat), keysRise s.cores = true → c = coreOf s id.bench id.core → k < 5 →
    bit (ipendOf s id.bench id.core c &&& c.ien) k = true → (∀ j < k, bit (ipendOf s id.bench id.core c &&& c.ien) j = false) →
    bit c.status 12 = true → bit c.status 16 = false → c.idle = false → c.halted = false →
    (c.waiting = false → exec (.interruptAccept id) s = .next (putCore s id.bench id.core (entered c (packF [(0, k), (8, 1)]) c.badaddr 0x80))) ∧
    (c.waiting = true → exec (.waitevComplete id) s = .next (putCore (putCore s id.bench id.core { c with waiting := false }) id.bench id.core
      { entered c (packF [(0, k), (8, 1)]) c.badaddr 0x80 with waiting := false }))) ∧
  (∀ (id : CoreId) (s : State) (c : Core), c = coreOf s id.bench id.core →
    (pendingIrq s id.bench id.core c = none → exec (.interruptAccept id) s = .next s ∧ exec (.waitevComplete id) s = .next s) ∧
    (fld c.wdog 23 0 = 0 ∨ tickNow s < c.wdAt + fld c.wdog 23 0 → exec (.awlWatchdogExpiry id) s = .next s) ∧
    (fld c.wdog 23 0 ≠ 0 → c.wdAt + fld c.wdog 23 0 ≤ tickNow s → c.wdFirst = false → exec (.awlWatchdogExpiry id) s =
      .next (putCore s id.bench id.core { c with ipend := setBit c.ipend 3 true, wdFirst := true, wdAt := tickNow s })) ∧
    (∀ i, fld c.wdog 23 0 ≠ 0 → c.wdAt + fld c.wdog 23 0 ≤ tickNow s → c.wdFirst = true → c.task = some i → exec (.awlWatchdogExpiry id) s =
      .next (putCore (complete s i (st16 .timeout)) id.bench id.core { Core.reset with idle := true })) ∧
    (tickReached s c.tickcmp.toNat = true → exec (.tickcmpReached id) s =
      .next (putCore s id.bench id.core { c with ipend := setBit c.ipend 0 true })) ∧
    (tickReached s c.tickcmp.toNat = false → exec (.tickcmpReached id) s = .next s) ∧
    (∀ v, bit v 0 = true → benchHere s.variant id.bench = true → exec (.coreIpiWrite id v) s =
      .next (putCore s id.bench id.core { c with ipend := setBit c.ipend 1 true })) ∧
    (∀ v, bit v 0 = false → exec (.coreIpiWrite id v) s = .next s))

/-- R70, R83–R90, R97, R122, R125 and R136–R141: the M-slot rows, in M0 or M1. -/
def Obligations.AwlMemory : Prop :=
  (∀ r ∈ [(Instr.ldw, 4, (fun v => BitVec.ofNat 32 v : Nat → W32)), (Instr.ldh, 2, fun v => (BitVec.ofNat 16 v).signExtend 32),
      (Instr.ldhu, 2, fun v => BitVec.ofNat 32 v), (Instr.ldb, 1, fun v => (BitVec.ofNat 8 v).signExtend 32),
      (Instr.ldbu, 1, fun v => BitVec.ofNat 32 v)],
    ∀ (id : CoreId) (m1 : Bool) (d : Fin 32) (p : Fin 16) (upd : Fin 4) (imm : BitVec 12) (inc : Fin 32) (s : State) (c : Core) (ad : Addr),
      Finds s id ([Dst.p p] ++ if upd.val = 2 then [Dst.s inc] else []) c → c.addr p upd imm.toInt (c.rs inc).toInt = some ad →
      (∀ (x v : Nat) (t : State), ad.at_ 0 % r.2.1 = 0 → coreMap c id.bench id.core (ad.at_ 0) = some x →
        loadEls (drawn s) r.2.1 [x] = (t, [(v, false)]) →
        exec (r.1 id m1 d p upd imm inc) s = .next (bundled s t id (c.moved ([(Dst.s d, .w (r.2.2 v), 3)] ++ stepped p ad)) { adj := ad.adj })) ∧
      (ad.at_ 0 % r.2.1 ≠ 0 → exec (r.1 id m1 d p upd imm inc) s = .next (putCore (drawn s) id.bench id.core
        (entered c (packF [(0, 5), (10, if m1 then 2 else 1)]) (w32 (ad.at_ 0)) 0)))) ∧
  (∀ (id : CoreId) (m1 : Bool) (d p : Fin 16) (upd : Fin 4) (imm : BitVec 12) (inc : Fin 32) (s t : State) (c : Core) (ad : Addr) (x v : Nat),
    Finds s id ([Dst.p p] ++ if upd.val = 2 then [Dst.s inc] else []) c → c.addr p upd imm.toInt (c.rs inc).toInt = some ad →
    (d ≠ p ∨ upd.val = 0) → ad.at_ 0 % 4 = 0 → coreMap c id.bench id.core (ad.at_ 0) = some x →
    loadEls (drawn s) 4 [x] = (t, [(v, false)]) → v < 2 ^ 32 →
    exec (.ldp id m1 d p upd imm inc) s = .next (bundled s t id (c.moved ([(Dst.p d, .w (BitVec.ofNat 32 v), 3)] ++ stepped p ad)) { adj := ad.adj })) ∧
  (∀ r ∈ [(Instr.stw, 4), (Instr.sth, 2), (Instr.stb, 1)],
    ∀ (id : CoreId) (m1 : Bool) (d : Fin 32) (p : Fin 16) (upd : Fin 4) (imm : BitVec 12) (inc : Fin 32) (s : State) (c : Core) (ad : Addr) (x : Nat),
      Finds s id ([Dst.p p] ++ (if upd.val = 2 then [Dst.s inc] else []) ++ [Dst.s d]) c → c.addr p upd imm.toInt (c.rs inc).toInt = some ad →
      ad.at_ 0 % r.2 = 0 → coreMap c id.bench id.core (ad.at_ 0) = some x → exec (r.1 id m1 d p upd imm inc) s =
      .next (bundled s (writeBytes (drawn s) x (bytesOf r.2 ((c.rs d).toNat % 2 ^ (8 * r.2)))) id (c.moved (stepped p ad)) { adj := ad.adj })) ∧
  (∀ (id : CoreId) (m1 : Bool) (d p : Fin 16) (upd : Fin 4) (imm : BitVec 12) (inc : Fin 32) (s : State) (c : Core) (ad : Addr) (x : Nat),
    Finds s id ([Dst.p p] ++ (if upd.val = 2 then [Dst.s inc] else []) ++ [Dst.p d]) c → c.addr p upd imm.toInt (c.rs inc).toInt = some ad →
    ad.at_ 0 % 4 = 0 → coreMap c id.bench id.core (ad.at_ 0) = some x → exec (.stp id m1 d p upd imm inc) s =
    .next (bundled s (writeBytes (drawn s) x (bytesOf 4 (c.rp d).toNat)) id (c.moved (stepped p ad)) { adj := ad.adj })) ∧
  (∀ (id : CoreId) (m1 : Bool) (d : Fin 32) (p : Fin 16) (upd : Fin 4) (k : Fin 8) (imm : BitVec 12) (inc : Fin 32) (s : State) (c : Core) (act : List Nat),
    act = c.actives k 32 →
    (Finds s id ([Dst.p p] ++ (if upd.val = 2 then [Dst.s inc] else []) ++ [Dst.k k]) c →
      (act = [] → exec (.ldv id m1 d p upd k imm inc) s = .next (plain s id c [] {}) ∧
        exec (.ldvBc id m1 d p upd k imm inc) s = .next (plain s id c [] {})) ∧
      (∀ (ad : Addr) (xs : List Nat) (t : State) (l : List (Nat × Bool)), act ≠ [] → c.addr p upd imm.toInt (c.rs inc).toInt = some ad →
        ad.at_ 0 % 4 = 0 → mapWords c id.bench id.core ad (act.map (4 * ·)) = .ok xs → loadEls (drawn s) 4 xs = (t, l) →
        exec (.ldv id m1 d p upd k imm inc) s = .next (bundled s t id (c.moved ([(Dst.v (c.vIdx d), vWrite 32 ((List.range act.length).map
          fun j => (nth act j 0, nth l j (0, false))), 3)] ++ stepped p ad)) { adj := ad.adj })) ∧
      (∀ (ad : Addr) (x : Nat) (t : State) (v : Nat × Bool), act ≠ [] → c.addr p upd imm.toInt (c.rs inc).toInt = some ad →
        ad.at_ 0 % 4 = 0 → coreMap c id.bench id.core (ad.at_ 0) = some x → loadEls (drawn s) 4 [x] = (t, [v]) →
        exec (.ldvBc id m1 d p upd k imm inc) s = .next (bundled s t id (c.moved ([(Dst.v (c.vIdx d), vWrite 32 ((List.range act.length).map
          fun j => (nth act j 0, v)), 3)] ++ stepped p ad)) { adj := ad.adj }))) ∧
    (Finds s id ([Dst.p p] ++ (if upd.val = 2 then [Dst.s inc] else []) ++ [Dst.k k] ++ [Dst.v (c.vIdx d)]) c →
      (act = [] → exec (.stv id m1 d p upd k imm inc) s = .next (plain s id c [] {})) ∧
      (∀ (ad : Addr) (xs : List Nat), act ≠ [] → c.addr p upd imm.toInt (c.rs inc).toInt = some ad → ad.at_ 0 % 4 = 0 →
        mapWords c id.bench id.core ad (act.map (4 * ·)) = .ok xs → exec (.stv id m1 d p upd k imm inc) s = .next (bundled s
          (storeRun (drawn s) ((act.zip xs).map fun q => (q.2, (c.rv d).elem 32 q.1, (c.rv d).bad 32 q.1))) id (c.moved (stepped p ad))
          { adj := ad.adj })))) ∧
  (∀ (id : CoreId) (m1 : Bool) (d : Fin 8) (p : Fin 16) (upd : Fin 4) (imm : BitVec 12) (inc : Fin 32) (s : State) (c : Core) (ad : Addr)
    (xs : List Nat), c.addr p upd imm.toInt (c.rs inc).toInt = some ad → ad.at_ 0 % 8 = 0 →
    mapWords c id.bench id.core ad ((List.range 64).map (4 * ·)) = .ok xs →
    (∀ (t : State) (l : List (Nat × Bool)), Finds s id ([Dst.p p] ++ if upd.val = 2 then [Dst.s inc] else []) c →
      loadEls (drawn s) 4 xs = (t, l) → exec (.lda id m1 d p upd imm inc) s = .next (bundled s t id (c.moved ([(Dst.acc d, .acc
        ((List.range 16).map fun e => {
          re := BitVec.ofNat 40 ((nth l (4 * e) (0, false)).1 + 2 ^ 32 * ((nth l (4 * e + 1) (0, false)).1 % 256)),
          im := BitVec.ofNat 40 ((nth l (4 * e + 2) (0, false)).1 + 2 ^ 32 * ((nth l (4 * e + 3) (0, false)).1 % 256)),
          po := (nth l (4 * e) (0, false)).2 || (nth l (4 * e + 1) (0, false)).2 || (nth l (4 * e + 2) (0, false)).2 ||
            (nth l (4 * e + 3) (0, false)).2 }), 4)] ++ stepped p ad)) { adj := ad.adj })) ∧
    (Finds s id ([Dst.p p] ++ (if upd.val = 2 then [Dst.s inc] else []) ++ [Dst.acc d]) c →
      exec (.sta id m1 d p upd imm inc) s = .next (bundled s (storeRun (drawn s) ((xs.zip ((c.ra d).flatMap fun l =>
        [((accWords l.re).1, l.po), ((accWords l.re).2, l.po), ((accWords l.im).1, l.po), ((accWords l.im).2, l.po)])).map
          fun q => (q.1, q.2.1, q.2.2))) id (c.moved (stepped p ad)) { adj := ad.adj }))) ∧
  (∀ (id : CoreId) (m1 : Bool) (d x : Fin 32) (p : Fin 16) (k : Fin 8) (w : Fin 4) (s : State) (c : Core) (n : Nat) (l : List (Nat × Nat)),
    w.val < 3 → n = 2 ^ (w.val + 1) → l.map (fun q => q.1) = (c.actives k (8 * n)).filter (fun e => !epDone c (if m1 then 2 else 1) e) →
    ((∀ q ∈ l, ∀ a, a = c.elAddr p (((c.rv x).get (8 * n) q.1 % 2 ^ 32 * n % 2 ^ 32 : Nat) : Int) →
        a % n = 0 ∧ coreMap c id.bench id.core a = some q.2) →
      (∀ (t : State) (vs : List (Nat × Bool)), d ≠ x → Finds s id [Dst.p p, Dst.k k, Dst.v (c.vIdx x)] c →
        loadEls (drawn s) n (l.map fun q => q.2) = (t, vs) → exec (.vgather id m1 d p k x w) s = .next (bundled s t id
          (c.precisely [(Dst.v (c.vIdx d), vWrite (8 * n) ((l.zip vs).map fun q => (q.1.1, q.2.1, q.2.2 || (c.rv x).bad (8 * n) q.1.1)), 3)]) {})) ∧
      (Finds s id [Dst.p p, Dst.k k, Dst.v (c.vIdx d), Dst.v (c.vIdx x)] c → exec (.vscatter id m1 d p k x w) s = .next (bundled s
        (storeEls (drawn s) n (l.map fun q => (q.2, (c.rv d).elem (8 * n) q.1, (c.rv d).bad (8 * n) q.1 || (c.rv x).bad (8 * n) q.1))) id
        (c.precisely []) {}))) ∧
    ((∀ q ∈ l, ∀ a, a = c.elAddr p (sext 32 (wrapTo 32 ((q.1 : Int) * (c.rs x).toInt))) → a % n = 0 ∧ coreMap c id.bench id.core a = some q.2) →
      (∀ (t : State) (vs : List (Nat × Bool)), Finds s id [Dst.p p, Dst.k k, Dst.s x] c →
        loadEls (drawn s) n (l.map fun q => q.2) = (t, vs) → exec (.vlds id m1 d p k x w) s = .next (bundled s t id
          (c.precisely [(Dst.v (c.vIdx d), vWrite (8 * n) ((l.zip vs).map fun q => (q.1.1, q.2.1, q.2.2)), 3)]) {})) ∧
      (Finds s id [Dst.p p, Dst.k k, Dst.v (c.vIdx d), Dst.s x] c → exec (.vsts id m1 d p k x w) s = .next (bundled s
        (storeEls (drawn s) n (l.map fun q => (q.2, (c.rv d).elem (8 * n) q.1, (c.rv d).bad (8 * n) q.1))) id
        (c.precisely []) {}))))

/-- R91–R98, R116–R124, R127–R129 and R132–R134: the V-slot rows that compute with integers. -/
def Obligations.AwlVector : Prop :=
  (∀ r ∈ [(Instr.vadd, ([0, 1, 2, 3, 4, 5], 2), (fun et x y => mapC2 et (fun u v => (u + v, false)) x y : Nat → Nat → Nat → Nat × Bool)),
      (Instr.vsub, ([0, 1, 2, 3, 4, 5], 2), fun et x y => mapC2 et (fun u v => (u - v, false)) x y),
      (Instr.vadds, ([0, 1, 2, 3, 4, 5], 2), fun et x y => mapC2 et (fun u v => satF (etC et) (u + v)) x y),
      (Instr.vsubs, ([0, 1, 2, 3, 4, 5], 2), fun et x y => mapC2 et (fun u v => satF (etC et) (u - v)) x y),
      (Instr.vavg, ([0, 1, 2, 3, 4, 5], 2), fun et x y => mapC2 et (fun u v => (rneShift (u + v) 1, false)) x y),
      (Instr.vmin, ([0, 1, 2], 2), fun et x y => (wrapTo (etW et) (min (sext (etW et) x) (sext (etW et) y)), false)),
      (Instr.vmax, ([0, 1, 2], 2), fun et x y => (wrapTo (etW et) (max (sext (etW et) x) (sext (etW et) y)), false)),
      (Instr.vmul, ([0, 1, 2], 3), fun et x y => (x * y % 2 ^ etW et, false)),
      (Instr.vand, ([0, 1, 2], 2), fun _ x y => (Nat.land x y, false)), (Instr.vor, ([0, 1, 2], 2), fun _ x y => (Nat.lor x y, false)),
      (Instr.vxor, ([0, 1, 2], 2), fun _ x y => (Nat.xor x y, false)),
      (Instr.vandn, ([0, 1, 2], 2), fun et x y => (Nat.land x (2 ^ etW et - 1 - y), false)),
      (Instr.vsll, ([0, 1, 2], 2), fun et x y => (if etW et ≤ y then 0 else x * 2 ^ y % 2 ^ etW et, false)),
      (Instr.vsrl, ([0, 1, 2], 2), fun et x y => (if etW et ≤ y then 0 else x / 2 ^ y, false)),
      (Instr.vsra, ([0, 1, 2], 2), fun et x y => (wrapTo (etW et) (if etW et ≤ y then (if sext (etW et) x < 0 then -1 else 0)
        else sext (etW et) x / 2 ^ y), false))],
    ∀ (id : CoreId) (d a b : Fin 32) (k et : Fin 8) (s : State) (c : Core) (l : List (Nat × Nat × Bool × Bool)), et.val ∈ r.2.1.1 →
      Finds s id [.v (c.vIdx a), .v (c.vIdx b), .k k] c →
      l = eachEl c k (etW et) (etW et) (fun e => [(c.rv a, e), (c.rv b, e)]) (fun _ x => r.2.2 et (nth x 0 0) (nth x 1 0)) →
      exec (r.1 id d a b k et) s = .next (plain s id c [elWrite c d (etW et) r.2.1.2 l] { vsat := elFlag l })) ∧
  (∀ r ∈ [(Instr.vneg, [0, 1, 2, 3, 4, 5], (fun et x => mapC et (fun u => satF (etC et) (-u)) x : Nat → Nat → Nat × Bool)),
      (Instr.vabs, [0, 1, 2], fun et x => mapC et (fun u => satF (etC et) (u.natAbs : Int)) x),
      (Instr.vnot, [0, 1, 2], fun et x => (2 ^ etW et - 1 - x, false)), (Instr.vmov, [0, 1, 2, 3, 4, 5, 6, 7], fun _ x => (x, false)),
      (Instr.vconj, [3, 4, 5, 7], fun et x => if et = 7 then (Nat.xor x 0x80000000, false)
        else sat2 et [(nth (comps et x) 0 0, false), satF (etC et) (-(nth (comps et x) 1 0))]),
      (Instr.vcswap, [3, 4, 5, 7], fun et x => (x / 2 ^ etC et + 2 ^ etC et * (x % 2 ^ etC et), false))],
    ∀ (id : CoreId) (d a : Fin 32) (k et : Fin 8) (s : State) (c : Core) (l : List (Nat × Nat × Bool × Bool)), et.val ∈ r.2.1 →
      Finds s id [.v (c.vIdx a), .k k] c → l = eachEl c k (etW et) (etW et) (fun e => [(c.rv a, e)]) (fun _ x => r.2.2 et (nth x 0 0)) →
      exec (r.1 id d a k et) s = .next (plain s id c [elWrite c d (etW et) 2 l] { vsat := elFlag l })) ∧
  (∀ r ∈ [(Instr.vslli, (fun w n x => x * 2 ^ n % 2 ^ w : Nat → Nat → Nat → Nat)), (Instr.vsrli, fun _ n x => x / 2 ^ n),
      (Instr.vsrai, fun w n x => wrapTo w (sext w x / 2 ^ n)), (Instr.vsrar, fun w n x => wrapTo w (rneShift (sext w x) n))],
    ∀ (id : CoreId) (d a b : Fin 32) (k et : Fin 8) (s : State) (c : Core) (l : List (Nat × Nat × Bool × Bool)), et.val < 3 →
      b.val < etW et → Finds s id [.v (c.vIdx a), .k k] c →
      l = eachEl c k (etW et) (etW et) (fun e => [(c.rv a, e)]) (fun _ x => (r.2 (etW et) b (nth x 0 0), false)) →
      exec (r.1 id d a b k et) s = .next (plain s id c [elWrite c d (etW et) 2 l] {})) ∧
  (∀ r ∈ [(Instr.vceq, (fun _ x y => decide (x = y) : Nat → Nat → Nat → Bool)), (Instr.vcne, fun _ x y => decide (x ≠ y)),
      (Instr.vclt, fun w x y => decide (sext w x < sext w y)), (Instr.vcle, fun w x y => decide (sext w x ≤ sext w y)),
      (Instr.vcltu, fun _ x y => decide (x < y)), (Instr.vcleu, fun _ x y => decide (x ≤ y))],
    ∀ (id : CoreId) (d : Fin 8) (a b : Fin 32) (k et : Fin 8) (s : State) (c : Core), et.val < 3 →
      Finds s id [.v (c.vIdx a), .v (c.vIdx b), .k k] c → exec (r.1 id d a b k et) s = .next (plain s id c [(.k d, .k (BitVec.ofNat 64
        (listSum (((c.actives k (etW et)).filter fun e => !((c.rv a).bad (etW et) e || (c.rv b).bad (etW et) e)).map fun e =>
          if r.2 (etW et) ((c.rv a).elem (etW et) e) ((c.rv b).elem (etW et) e) then 2 ^ e else 0))), 2)] {})) ∧
  (∀ r ∈ [(Instr.vcmag2, (32, 3), (fun x => (wrapTo 32 (satF 32 (sext 16 x * sext 16 x + sext 16 (x / 65536) * sext 16 (x / 65536))).1,
        (satF 32 (sext 16 x * sext 16 x + sext 16 (x / 65536) * sext 16 (x / 65536))).2) : Nat → Nat × Bool)),
      (Instr.crotj, (32, 3), fun x => sat2 4 [satF 16 (-(sext 16 (x / 65536))), (sext 16 x, false)]),
      (Instr.crotnj, (32, 3), fun x => sat2 4 [(sext 16 (x / 65536), false), satF 16 (-(sext 16 x))]),
      (Instr.norm, (16, 1), fun x => (normOf x, false))],
    ∀ (id : CoreId) (d a : Fin 32) (k : Fin 8) (s : State) (c : Core) (l : List (Nat × Nat × Bool × Bool)), Finds s id [.v (c.vIdx a), .k k] c →
      l = eachEl c k r.2.1.1 r.2.1.1 (fun e => [(c.rv a, e)]) (fun _ x => r.2.2 (nth x 0 0)) →
      exec (r.1 id d a k) s = .next (plain s id c [elWrite c d r.2.1.1 r.2.1.2 l] { vsat := elFlag l })) ∧
  (∀ r ∈ [(Instr.cmul, 32, (fun x y => sat2 4 [satF 16 (rneShift (sext 16 x * sext 16 y - sext 16 (x / 65536) * sext 16 (y / 65536)) 15),
        satF 16 (rneShift (sext 16 x * sext 16 (y / 65536) + sext 16 (x / 65536) * sext 16 y) 15)] : Nat → Nat → Nat × Bool)),
      (Instr.cmulj, 32, fun x y => sat2 4 [satF 16 (rneShift (sext 16 x * sext 16 y + sext 16 (x / 65536) * sext 16 (y / 65536)) 15),
        satF 16 (rneShift (sext 16 (x / 65536) * sext 16 y - sext 16 x * sext 16 (y / 65536)) 15)]),
      (Instr.rmul16, 16, fun x y => sat2 1 [satF 16 (rneShift (sext 16 x * sext 16 y) 15)])],
    ∀ (id : CoreId) (d a b : Fin 32) (k : Fin 8) (s : State) (c : Core) (l : List (Nat × Nat × Bool × Bool)),
      Finds s id [.v (c.vIdx a), .v (c.vIdx b), .k k] c →
      l = eachEl c k r.2.1 r.2.1 (fun e => [(c.rv a, e), (c.rv b, e)]) (fun _ x => r.2.2 (nth x 0 0) (nth x 1 0)) →
      exec (r.1 id d a b k) s = .next (plain s id c [elWrite c d r.2.1 3 l] { vsat := elFlag l })) ∧
  (∀ (id : CoreId) (d a b : Fin 32) (k : Fin 8) (s : State) (c : Core) (n : Int) (l : List (Nat × Nat × Bool × Bool)),
    l = eachEl c k 16 16 (fun e => [(c.rv a, e)]) (fun _ x => if 0 ≤ n then (wrapTo 16 (satF 16 (sext 16 (nth x 0 0) * 2 ^ n.toNat)).1,
      (satF 16 (sext 16 (nth x 0 0) * 2 ^ n.toNat)).2) else (wrapTo 16 (rneShift (sext 16 (nth x 0 0)) (-n).toNat), false)) →
    (Finds s id [.v (c.vIdx a), .s b, .k k] c → n = clampI (-16) 15 (sext 32 (c.rs b).toNat) →
      exec (.shlB id d a b k) s = .next (plain s id c [elWrite c d 16 1 l] { vsat := elFlag l })) ∧
    (Finds s id [.v (c.vIdx a), .k k] c → n = sext 5 b →
      exec (.shlBi id d a b k) s = .next (plain s id c [elWrite c d 16 1 l] { vsat := elFlag l }))) ∧
  (∀ (id : CoreId) (d a : Fin 32) (k : Fin 8) (s : State) (c : Core), Finds s id [.v (c.vIdx a), .k k] c →
    exec (.expb id d a k) s = .next (plain s id c [(.s d, .w (w32 ((((c.actives k 16).filter fun e => !(c.rv a).bad 16 e).map fun e =>
      normOf ((c.rv a).elem 16 e)).foldl Nat.min 15)), 2)] {})) ∧
  (∀ r ∈ [(Instr.vwidl, false), (Instr.vwidh, true)],
    ∀ (id : CoreId) (d a : Fin 32) (k et : Fin 8) (s : State) (c : Core) (l : List (Nat × Nat × Bool × Bool)), et.val ∈ [0, 1, 3, 4] →
      Finds s id [.v (c.vIdx a), .k k] c →
      l = eachEl c k (2 * etW et) (etW et) (fun e => [(c.rv a, (if r.2 then etN et / 2 else 0) + e)]) (fun _ x =>
        (if etComplex et then wrapTo (2 * etC et) (sext (etC et) (nth x 0 0)) +
            2 ^ (2 * etC et) * wrapTo (2 * etC et) (sext (etC et) (nth x 0 0 / 2 ^ etC et))
          else wrapTo (2 * etW et) (sext (etW et) (nth x 0 0)), false)) →
      exec (r.1 id d a k et) s = .next (plain s id c [elWrite c d (2 * etW et) 3 l] {})) ∧
  (∀ (id : CoreId) (d a b : Fin 32) (k et : Fin 8) (s : State) (c : Core) (l : List (Nat × Nat × Bool × Bool)), et.val ∈ [1, 2, 4, 5] →
    Finds s id [.v (c.vIdx a), .v (c.vIdx b), .k k] c →
    l = eachEl c k (etW et / 2) (etW et) (fun e => [if e < etN et then (c.rv a, e) else (c.rv b, e - etN et)]) (fun _ x =>
      if etComplex et then (wrapTo (etC et / 2) (satF (etC et / 2) (sext (etC et) (nth x 0 0))).1 +
          2 ^ (etC et / 2) * wrapTo (etC et / 2) (satF (etC et / 2) (sext (etC et) (nth x 0 0 / 2 ^ etC et))).1,
          (satF (etC et / 2) (sext (etC et) (nth x 0 0))).2 || (satF (etC et / 2) (sext (etC et) (nth x 0 0 / 2 ^ etC et))).2)
        else (wrapTo (etW et / 2) (satF (etW et / 2) (sext (etW et) (nth x 0 0))).1, (satF (etW et / 2) (sext (etW et) (nth x 0 0))).2)) →
    exec (.vnarr id d a b k et) s = .next (plain s id c [elWrite c d (etW et / 2) 3 l] { vsat := elFlag l })) ∧
  (∀ (c : Core) (d : Nat) (sat : Bool) (ops : List (Option LaneOp)) (l : List (Lane × Bool)),
    c.flight = [{ dst := .acc d, val := .mac sat ops, left := 1 }] →
    l = (List.range 16).map (fun e => match nth ops e none with
      | some o => laneAdd sat o.z o.doRe o.doIm o.po (nth (c.ra d) e Lane.zero) (o.re, o.im)
      | none => (nth (c.ra d) e Lane.zero, false)) →
    c.tick = { c with
      flight := [], acc := setNth c.acc d (l.map fun x => x.1),
      status := if l.any (fun x => x.2) then setBit c.status d true else c.status }) ∧
  (∀ r ∈ [(Instr.cmac, (fun ar ai br bi => (ar * br - ai * bi, ar * bi + ai * br) : Int → Int → Int → Int → Int × Int)),
      (Instr.cmacj, fun ar ai br bi => (ar * br + ai * bi, ai * br - ar * bi)),
      (Instr.cmsc, fun ar ai br bi => (-(ar * br - ai * bi), -(ar * bi + ai * br))),
      (Instr.cmscj, fun ar ai br bi => (-(ar * br + ai * bi), -(ai * br - ar * bi)))],
    ∀ (id : CoreId) (d : Fin 8) (a b : Fin 32) (k : Fin 8) (z : Bool) (s : State) (c : Core) (t : Nat → Int × Int),
      Finds s id [.v (c.vIdx a), .v (c.vIdx b), .k k] c →
      (∀ e, t e = r.2 (sext 16 ((c.rv a).get 32 e)) (sext 16 ((c.rv a).get 32 e / 65536)) (sext 16 ((c.rv b).get 32 e))
        (sext 16 ((c.rv b).get 32 e / 65536))) →
      exec (r.1 id d a b k z) s = .next (plain s id c [(.acc d, .mac (bit c.coreCfg 0) ((List.range 16).map fun e =>
        if c.active k 32 e = true then some { z := z, doRe := true, doIm := true, po := (c.rv a).bad 32 e || (c.rv b).bad 32 e, re := (t e).1, im := (t e).2 }
        else none), 4)] {})) ∧
  (∀ (id : CoreId) (d : Fin 8) (a : Fin 32) (k : Fin 8) (z : Bool) (s : State) (c : Core),
    Finds s id [.v (c.vIdx a), .k k] c →
    exec (.csq id d a k z) s = .next (plain s id c [(.acc d, .mac (bit c.coreCfg 0) ((List.range 16).map fun e =>
      if c.active k 32 e = true then some {
        z := z, doRe := true, doIm := true, po := (c.rv a).bad 32 e,
        re := sext 16 ((c.rv a).get 32 e) * sext 16 ((c.rv a).get 32 e) +
          sext 16 ((c.rv a).get 32 e / 65536) * sext 16 ((c.rv a).get 32 e / 65536), im := 0 }
      else none), 4)] {})) ∧
  (∀ r ∈ [(Instr.rmac16, (fun x y => (sext 16 x * sext 16 y, sext 16 (x / 65536) * sext 16 (y / 65536)) : Nat → Nat → Int × Int)),
      (Instr.rmac8, fun x y => (sext 8 x * sext 8 y + sext 8 (x / 2 ^ 8) * sext 8 (y / 2 ^ 8),
        sext 8 (x / 2 ^ 16) * sext 8 (y / 2 ^ 16) + sext 8 (x / 2 ^ 24) * sext 8 (y / 2 ^ 24)))],
    ∀ (id : CoreId) (d : Fin 8) (a b : Fin 32) (k : Fin 8) (z : Bool) (s : State) (c : Core),
      Finds s id [.v (c.vIdx a), .v (c.vIdx b), .k k] c →
      exec (r.1 id d a b k z) s = .next (plain s id c [(.acc d, .mac (bit c.coreCfg 0) ((List.range 16).map fun e =>
        if c.active k 16 (2 * e) = true ∨ c.active k 16 (2 * e + 1) = true then
          some {
            z := z, doRe := c.active k 16 (2 * e), doIm := c.active k 16 (2 * e + 1), po := (c.rv a).bad 32 e || (c.rv b).bad 32 e,
            re := (r.2 ((c.rv a).get 32 e) ((c.rv b).get 32 e)).1, im := (r.2 ((c.rv a).get 32 e) ((c.rv b).get 32 e)).2 }
        else none), 4)] {})) ∧
  (∀ r ∈ [(Instr.accx, (16, 0)), (Instr.accxWl, (32, 0)), (Instr.accxWh, (32, 8))],
    ∀ (id : CoreId) (d : Fin 32) (a : Fin 8) (b : Fin 32) (k : Fin 8) (sr rt : Bool) (sh : Fin 64) (s : State) (c : Core) (n : Nat)
      (l : List (Nat × Nat × Bool × Bool)),
      (sr = true → sh.val = 0 ∧ n = (clampI 0 39 (sext 32 (c.rs b).toNat)).toNat) → (sr = false → b.val = 0 ∧ sh.val < 40 ∧ n = sh.val) →
      Finds s id ([Dst.acc a] ++ (if sr then [Dst.s b] else []) ++ [Dst.k k]) c →
      l = (c.actives k (2 * r.2.1)).map (fun e =>
        let v (x : BitVec 40) := satF r.2.1 (if rt then x.toInt / 2 ^ n else rneShift x.toInt n)
        let x := nth (c.ra a) (r.2.2 + e) Lane.zero
        (e, wrapTo r.2.1 (v x.re).1 + 2 ^ r.2.1 * wrapTo r.2.1 (v x.im).1, x.po, (v x.re).2 || (v x.im).2)) →
      exec (r.1 id d a b k sr rt sh) s = .next (plain s id c [elWrite c d (2 * r.2.1) 2 l] { xsat := elFlag l })) ∧
  (∀ (id : CoreId) (d k : Fin 8) (s : State) (c : Core), Finds s id [.k k] c → exec (.accz id d k) s = .next (plain s id c
    [(.acc d, .mac false ((List.range 16).map fun e => if c.active k 32 e then
      some { z := true, doRe := true, doIm := true, po := false, re := 0, im := 0 } else none), 4)] {})) ∧
  (∀ (id : CoreId) (d a : Fin 8) (s : State) (c : Core), Finds s id [.acc a] c →
    exec (.accmv id d a) s = .next (plain s id c [(.acc d, .acc (c.ra a), 2)] {})) ∧
  (∀ (id : CoreId) (d a : Fin 32) (et : Fin 8) (s : State) (c : Core) (n : Nat), Finds s id [.s a] c →
    n = Nat.min (c.rs a).toNat (512 / etW et) → exec (.setvl id d a et) s = .next (bundled s (drawn s) id
      ({ (c.moved [(.s d, .w (w32 n), 1)]).1 with tail := 64 - n * etW et / 8 }, (c.moved [(.s d, .w (w32 n), 1)]).2) {})) ∧
  (∀ r ∈ [(Instr.vzipl, (fun x y _ e => (if e % 2 = 0 then x else y, e / 2) : VReg → VReg → Nat → Nat → VReg × Nat)),
      (Instr.vziph, fun x y n e => (if e % 2 = 0 then x else y, n / 2 + e / 2)),
      (Instr.vuzpe, fun x y n e => if 2 * e < n then (x, 2 * e) else (y, 2 * e - n)),
      (Instr.vuzpo, fun x y n e => if 2 * e + 1 < n then (x, 2 * e + 1) else (y, 2 * e + 1 - n))],
    ∀ (id : CoreId) (d a b : Fin 32) (k et : Fin 8) (s : State) (c : Core), Finds s id [.v (c.vIdx a), .v (c.vIdx b), .k k] c →
      exec (r.1 id d a b k et) s = .next (plain s id c [elWrite c d (etW et) 2 (eachEl c k (etW et) (etW et)
        (fun e => [r.2 (c.rv a) (c.rv b) (etN et) e]) (fun _ x => (nth x 0 0, false)))] {})) ∧
  (∀ r ∈ [(Instr.vsldn, (fun x z n j e => if e + j < n then (x, e + j) else (z, e + j - n) : VReg → VReg → Nat → Nat → Nat → VReg × Nat)),
      (Instr.vslup, fun x z n j e => if n - j + e < n then (z, n - j + e) else (x, n - j + e - n))],
    ∀ (id : CoreId) (d a b : Fin 32) (k et : Fin 8) (s : State) (c : Core),
      Finds s id [.v (c.vIdx a), .s b, .k k, .v (c.vIdx d)] c →
      exec (r.1 id d a b k et) s = .next (plain s id c [elWrite c d (etW et) 2 (eachEl c k (etW et) (etW et)
        (fun e => [r.2 (c.rv a) (c.rv d) (etN et) (clampI 0 (etN et) (sext 32 (c.rs b).toNat)).toNat e]) (fun _ x => (nth x 0 0, false)))] {})) ∧
  (∀ (id : CoreId) (d a b : Fin 32) (k et : Fin 8) (s : State) (c : Core),
    (Finds s id [.v (c.vIdx a), .v (c.vIdx b), .k k] c →
      exec (.vperm id d a b k et) s = .next (plain s id c [elWrite c d (etW et) 2 (eachEl c k (etW et) (etW et)
        (fun e => [(c.rv a, (c.rv b).get (etW et) e % etN et), (c.rv b, e)]) (fun _ x => (nth x 0 0, false)))] {}) ∧
      exec (.vsel id d a b k et) s = .next (plain s id c [(.v (c.vIdx d), vWrite (etW et)
        (((List.range (etN et)).filter fun e => decide (e * etW et < 8 * c.vl)).map fun e =>
          if (c.rk k).getLsbD e then (e, (c.rv a).get (etW et) e, (c.rv a).bad (etW et) e)
          else (e, (c.rv b).get (etW et) e, (c.rv b).bad (etW et) e)), 2)] {})) ∧
    (Finds s id [.v (c.vIdx a), .k k] c → exec (.vrev id d a k et) s = .next (plain s id c [elWrite c d (etW et) 2 (eachEl c k (etW et) (etW et)
      (fun e => [(c.rv a, etN et - 1 - e)]) (fun _ x => (nth x 0 0, false)))] {})) ∧
    (Finds s id [.s a, .s b, .k k] c → (et.val = 5 ∨ b.val = 0) → exec (.vbcast id d a b k et) s = .next (plain s id c
      [(.v (c.vIdx d), vWrite (etW et) ((c.actives k (etW et)).map fun e =>
        (e, (c.rs a).toNat + (if et.val = 5 then 2 ^ 32 * (c.rs b).toNat else 0), false)), 2)] {})) ∧
    (Finds s id [.s a, .s b] c → et.val ≠ 5 → exec (.vins id d a b et) s = .next (plain s id c [(.v (c.vIdx d), vWrite (etW et)
      (if (c.rs b).toNat % etN et * etW et < 8 * c.vl then [((c.rs b).toNat % etN et, (c.rs a).toNat, false)] else []), 2)] {})) ∧
    (Finds s id [.v (c.vIdx a), .s b] c → et.val ≠ 5 → (c.rv a).bad (etW et) ((c.rs b).toNat % etN et) = false →
      exec (.vext id d a b et) s = .next (plain s id c
        [(.s d, .w (w32 (wrapTo 32 (sext (etW et) ((c.rv a).elem (etW et) ((c.rs b).toNat % etN et))))), 3)] {}))) ∧
  (∀ r ∈ [(Instr.vradd, (fun _ l => (wrapTo 32 (satF 32 (l.foldl (· + ·) 0)).1, (satF 32 (l.foldl (· + ·) 0)).2) : Nat → List Int → Nat × Bool)),
      (Instr.vrmax, fun w l => (wrapTo 32 (l.foldl max (-(2 ^ (w - 1) : Int))), false)),
      (Instr.vrmin, fun w l => (wrapTo 32 (l.foldl min ((2 ^ (w - 1) : Int) - 1)), false))],
    ∀ (id : CoreId) (d a : Fin 32) (k et : Fin 8) (s : State) (c : Core) (es : List Nat), et.val < 3 → Finds s id [.v (c.vIdx a), .k k] c →
      es = c.actives k (etW et) →
      (es.any ((c.rv a).bad (etW et)) = false → exec (r.1 id d a k et) s = .next (plain s id c
        [(.s d, .w (w32 (r.2 (etW et) (es.map fun e => sext (etW et) ((c.rv a).elem (etW et) e))).1), 3)]
        { vsat := (r.2 (etW et) (es.map fun e => sext (etW et) ((c.rv a).elem (etW et) e))).2 })) ∧
      (es.any ((c.rv a).bad (etW et)) = true →
        exec (r.1 id d a k et) s = .next (putCore (drawn s) id.bench id.core (entered c (packF [(0, 7), (10, 3)]) c.badaddr 0)))) ∧
  (∀ (id : CoreId) (d a : Fin 32) (k et : Fin 8) (s : State) (c : Core) (es : List Nat), et.val < 3 → Finds s id [.v (c.vIdx a), .k k] c →
    es = c.actives k (etW et) → es.any ((c.rv a).bad (etW et)) = false →
    (es = [] → exec (.vrimax id d a k et) s = .next (plain s id c [(.s d, .w 0xFFFFFFFF#32, 3)] {})) ∧
    (∀ e ∈ es, (∀ j ∈ es, sext (etW et) ((c.rv a).elem (etW et) j) ≤ sext (etW et) ((c.rv a).elem (etW et) e) ∧
        (j < e → sext (etW et) ((c.rv a).elem (etW et) j) < sext (etW et) ((c.rv a).elem (etW et) e))) →
      exec (.vrimax id d a k et) s = .next (plain s id c [(.s d, .w (w32 e), 3)] {}))) ∧
  (∀ r ∈ [(Instr.kand, (fun x y => x &&& y : W64 → W64 → W64)), (Instr.kor, fun x y => x ||| y), (Instr.kxor, fun x y => x ^^^ y),
      (Instr.kandn, fun x y => x &&& ~~~y)],
    ∀ (id : CoreId) (d a b : Fin 8) (s : State) (c : Core), Finds s id [.k a, .k b] c →
      exec (r.1 id d a b) s = .next (plain s id c [(.k d, .k (r.2 (c.rk a) (c.rk b)), 1)] {})) ∧
  (∀ (id : CoreId) (d a : Fin 8) (s : State) (c : Core), Finds s id [.k a] c →
    exec (.knot id d a) s = .next (plain s id c [(.k d, .k (~~~(c.rk a)), 1)] {})) ∧
  (∀ (id : CoreId) (d et : Fin 8) (s : State) (c : Core), Finds s id [] c → exec (.kvl id d et) s = .next (plain s id c
    [(.k d, .k (BitVec.ofNat 64 (listSum ((List.range (512 / etW et)).map fun e => if e * etW et < 8 * c.vl then 2 ^ e else 0))), 1)] {})) ∧
  (∀ (id : CoreId) (d : Fin 8) (a : Fin 32) (et : Fin 8) (s : State) (c : Core), Finds s id [.v (c.vIdx a)] c → exec (.kpois id d a et) s =
    .next (plain s id c [(.k d, .k (BitVec.ofNat 64 (listSum ((List.range (512 / etW et)).map fun e => if (c.rv a).bad (etW et) e then 2 ^ e else 0))), 2)] {})) ∧
  (∀ (id : CoreId) (d : Fin 32) (a : Fin 8) (s : State) (c : Core), Finds s id [.k a] c →
    exec (.kpop id d a) s = .next (plain s id c [(.s d, .w (w32 (popcount (c.rk a))), 3)] {}) ∧
    (c.rk a = 0 → exec (.kfirst id d a) s = .next (plain s id c [(.s d, .w 64, 3)] {})) ∧
    (∀ e < 64, (c.rk a).getLsbD e = true → (∀ j < e, (c.rk a).getLsbD j = false) →
      exec (.kfirst id d a) s = .next (plain s id c [(.s d, .w (w32 e), 3)] {})) ∧
    exec (.kget id d a 0) s = .next (plain s id c [(.s d, .w ((c.rk a).extractLsb' 0 32), 3)] {}) ∧
    exec (.kget id d a 1) s = .next (plain s id c [(.s d, .w ((c.rk a).extractLsb' 32 32), 3)] {})) ∧
  (∀ (id : CoreId) (d : Fin 8) (a b : Fin 32) (s : State) (c : Core), Finds s id [.s a, .s b] c →
    exec (.kset id d a b) s = .next (plain s id c [(.k d, .k (BitVec.ofNat 64 ((c.rs a).toNat + 2 ^ 32 * (c.rs b).toNat)), 1)] {}))

/-- R121, R128, R130, R131, R133 and R153–R170. The sign of a minimum or maximum of two zeros of opposite sign and the errors
of the estimates are free values (log entries 56 and 55). -/
def Obligations.AwlFloatAndEyelets : Prop :=
  (∀ r ∈ [(Instr.vfadd, FV.add), (Instr.vfsub, FV.sub)],
    ∀ (id : CoreId) (d a b : Fin 32) (k et : Fin 8) (s : State) (c : Core) (l : List (Nat × Nat × Bool × Bool)),
      Finds s id [.v (c.vIdx a), .v (c.vIdx b), .k k] c →
      ((et.val = 6 ∧ l = eachEl c k 32 32 (fun e => [(c.rv a, e), (c.rv b, e)])
          (fun _ x => flt32 (fun v => r.2 (nth v 0 FV.zero) (nth v 1 FV.zero)) x)) ∨
       (et.val = 7 ∧ l = eachEl c k 32 32 (fun e => [(c.rv a, e), (c.rv b, e)]) (fun _ x => flt16 (fun v =>
          (r.2 (nth v 0 (FV.zero, FV.zero)).1 (nth v 1 (FV.zero, FV.zero)).1, r.2 (nth v 0 (FV.zero, FV.zero)).2 (nth v 1 (FV.zero, FV.zero)).2)) x))) →
      exec (r.1 id d a b k et) s = .next (plain s id c [elWrite c d 32 4 l] { ftz := elFlag l })) ∧
  (∀ r ∈ [(Instr.vfmul, (fun _ x => flt32 (fun v => (nth v 0 FV.zero).mul (nth v 1 FV.zero)) x : W64 → List Nat → Nat × Bool)),
      (Instr.vfcmul, fun _ x => flt16 (fun v => cmulF (nth v 0 (FV.zero, FV.zero)) (nth v 1 (FV.zero, FV.zero)) false) x),
      (Instr.vfcmulj, fun _ x => flt16 (fun v => cmulF (nth v 0 (FV.zero, FV.zero)) (nth v 1 (FV.zero, FV.zero)) true) x)],
    ∀ (id : CoreId) (d a b : Fin 32) (k : Fin 8) (s : State) (c : Core) (l : List (Nat × Nat × Bool × Bool)),
      Finds s id [.v (c.vIdx a), .v (c.vIdx b), .k k] c →
      l = eachEl c k 32 32 (fun e => [(c.rv a, e), (c.rv b, e)]) (fun _ x => r.2 (Config.freeWord s.freeCtr) x) →
      exec (r.1 id d a b k) s = .next (plain s id c [elWrite c d 32 4 l] { ftz := elFlag l })) ∧
  (∀ r ∈ [(Instr.vfmin, true), (Instr.vfmax, false)],
    ∀ (id : CoreId) (d a b : Fin 32) (k : Fin 8) (s : State) (c : Core) (l : List (Nat × Nat × Bool × Bool)),
      Finds s id [.v (c.vIdx a), .v (c.vIdx b), .k k] c →
      l = eachEl c k 32 32 (fun e => [(c.rv a, e), (c.rv b, e)])
        (fun e x => minmaxF r.2 ((Config.freeWord s.freeCtr).toNat.testBit e) (nth x 0 0) (nth x 1 0)) →
      exec (r.1 id d a b k) s = .next (plain s id c [elWrite c d 32 4 l] { ftz := elFlag l })) ∧
  (∀ r ∈ [(Instr.vfma, (fun x => flt32 (fun v => (nth v 0 FV.zero).add ((nth v 1 FV.zero).mul (nth v 2 FV.zero))) x : List Nat → Nat × Bool)),
      (Instr.vfms, fun x => flt32 (fun v => (nth v 0 FV.zero).sub ((nth v 1 FV.zero).mul (nth v 2 FV.zero))) x),
      (Instr.vfcma, fun x => flt16 (fun v =>
        ((nth v 0 (FV.zero, FV.zero)).1.add (cmulF (nth v 1 (FV.zero, FV.zero)) (nth v 2 (FV.zero, FV.zero)) false).1,
         (nth v 0 (FV.zero, FV.zero)).2.add (cmulF (nth v 1 (FV.zero, FV.zero)) (nth v 2 (FV.zero, FV.zero)) false).2)) x),
      (Instr.vfcmaj, fun x => flt16 (fun v =>
        ((nth v 0 (FV.zero, FV.zero)).1.add (cmulF (nth v 1 (FV.zero, FV.zero)) (nth v 2 (FV.zero, FV.zero)) true).1,
         (nth v 0 (FV.zero, FV.zero)).2.add (cmulF (nth v 1 (FV.zero, FV.zero)) (nth v 2 (FV.zero, FV.zero)) true).2)) x),
      (Instr.vfcms, fun x => flt16 (fun v =>
        ((nth v 0 (FV.zero, FV.zero)).1.sub (cmulF (nth v 1 (FV.zero, FV.zero)) (nth v 2 (FV.zero, FV.zero)) false).1,
         (nth v 0 (FV.zero, FV.zero)).2.sub (cmulF (nth v 1 (FV.zero, FV.zero)) (nth v 2 (FV.zero, FV.zero)) false).2)) x)],
    ∀ (id : CoreId) (d a b : Fin 32) (k : Fin 8) (s : State) (c : Core) (l : List (Nat × Nat × Bool × Bool)),
      Finds s id [.v (c.vIdx a), .v (c.vIdx b), .k k, .v (c.vIdx d)] c →
      l = eachEl c k 32 32 (fun e => [(c.rv d, e), (c.rv a, e), (c.rv b, e)]) (fun _ x => r.2 x) →
      exec (r.1 id d a b k) s = .next (plain s id c [elWrite c d 32 4 l] { ftz := elFlag l })) ∧
  (∀ r ∈ [(Instr.vfabs, (fun _ _ x => flt32 (fun v => match nth v 0 FV.zero with
        | .fin _ m e => .fin false m e
        | .inf _ => .inf false
        | .nan => .nan) x : Nat → Nat → List Nat → Nat × Bool)),
      (Instr.vfrcp, fun w e x => approxInv false (w / 8 ^ e % 8) (nth x 0 0)),
      (Instr.vfrsq, fun w e x => approxInv true (w / 8 ^ e % 8) (nth x 0 0)),
      (Instr.vcvtF32I32, fun _ _ x => packFlt f32 (FV.ofInt (sext 32 (nth x 0 0)) 0))],
    ∀ (id : CoreId) (d a : Fin 32) (k : Fin 8) (s : State) (c : Core) (l : List (Nat × Nat × Bool × Bool)), Finds s id [.v (c.vIdx a), .k k] c →
      l = eachEl c k 32 32 (fun e => [(c.rv a, e)]) (fun e x => r.2 (Config.freeWord s.freeCtr).toNat e x) →
      exec (r.1 id d a k) s = .next (plain s id c [elWrite c d 32 4 l] { ftz := elFlag l })) ∧
  (∀ (id : CoreId) (d a : Fin 32) (k et : Fin 8) (s : State) (c : Core) (l : List (Nat × Nat × Bool × Bool)), Finds s id [.v (c.vIdx a), .k k] c →
    ((et.val = 6 ∧ l = eachEl c k 32 32 (fun e => [(c.rv a, e)]) (fun _ x => flt32 (fun v => (nth v 0 FV.zero).neg) x)) ∨
     (et.val = 7 ∧ l = eachEl c k 32 32 (fun e => [(c.rv a, e)])
       (fun _ x => flt16 (fun v => ((nth v 0 (FV.zero, FV.zero)).1.neg, (nth v 0 (FV.zero, FV.zero)).2.neg)) x))) →
    exec (.vfneg id d a k et) s = .next (plain s id c [elWrite c d 32 4 l] { ftz := elFlag l })) ∧
  (∀ r ∈ [(Instr.vceq, (fun x y => x.eq y : FV → FV → Bool)), (Instr.vcne, fun x y => !x.eq y), (Instr.vclt, FV.lt),
      (Instr.vcle, fun x y => x.lt y || x.eq y)],
    ∀ (id : CoreId) (d : Fin 8) (a b : Fin 32) (k : Fin 8) (s : State) (c : Core) (es : List Nat),
      Finds s id [.v (c.vIdx a), .v (c.vIdx b), .k k] c → es = (c.actives k 32).filter (fun e => !((c.rv a).bad 32 e || (c.rv b).bad 32 e)) →
      exec (r.1 id d a b k 6) s = .next (plain s id c [(.k d, .k (BitVec.ofNat 64 (listSum (es.map fun e =>
          if r.2 (unpackF f32 ((c.rv a).elem 32 e)).1 (unpackF f32 ((c.rv b).elem 32 e)).1 then 2 ^ e else 0))), 2)]
        { ftz := es.any fun e => (unpackF f32 ((c.rv a).elem 32 e)).2 || (unpackF f32 ((c.rv b).elem 32 e)).2 })) ∧
  (∀ (id : CoreId) (d a : Fin 32) (k : Fin 8) (s : State) (c : Core) (l : List (Nat × (Nat × Bool × Bool) × Bool)), Finds s id [.v (c.vIdx a), .k k] c →
    l = (c.actives k 32).map (fun e => (e, fltToInt f32 32 0 ((c.rv a).get 32 e), (c.rv a).bad 32 e)) →
    exec (.vcvtI32F32 id d a k) s = .next (plain s id c [(.v (c.vIdx d), vWrite 32 (l.map fun x => (x.1, x.2.1.1, x.2.2)), 4)]
      { vsat := l.any (fun x => x.2.1.2.1), ftz := l.any fun x => x.2.1.2.2 })) ∧
  (∀ (id : CoreId) (d a b : Fin 32) (k : Fin 8) (s : State) (c : Core) (n : Int), n = clampI (-32) 32 (sext 32 (c.rs b).toNat) →
    Finds s id [.v (c.vIdx a), .s b, .k k] c →
    (∀ l, l = eachEl c k 32 32 (fun e => [(c.rv a, e)]) (fun _ x =>
        ((packFlt f16 (FV.ofInt (sext 16 (nth x 0 0)) (n - 15))).1 + 65536 * (packFlt f16 (FV.ofInt (sext 16 (nth x 0 0 / 65536)) (n - 15))).1,
         (packFlt f16 (FV.ofInt (sext 16 (nth x 0 0)) (n - 15))).2 || (packFlt f16 (FV.ofInt (sext 16 (nth x 0 0 / 65536)) (n - 15))).2)) →
      exec (.vcvtCf16Ci16 id d a b k) s = .next (plain s id c [elWrite c d 32 4 l] { ftz := elFlag l })) ∧
    (∀ l : List (Nat × (Nat × Bool × Bool) × (Nat × Bool × Bool) × Bool), l = (c.actives k 32).map (fun e =>
        (e, fltToInt f16 16 (15 - n) ((c.rv a).get 32 e % 65536), fltToInt f16 16 (15 - n) ((c.rv a).get 32 e / 65536), (c.rv a).bad 32 e)) →
      exec (.vcvtCi16Cf16 id d a b k) s = .next (plain s id c
        [(.v (c.vIdx d), vWrite 32 (l.map fun x => (x.1, x.2.1.1 + 65536 * x.2.2.1.1, x.2.2.2)), 4)]
        { vsat := l.any (fun x => x.2.1.2.1 || x.2.2.1.2.1), ftz := l.any fun x => x.2.1.2.2 || x.2.2.1.2.2 }))) ∧
  (∀ r ∈ [(Instr.vcvtF32l, 0), (Instr.vcvtF32h, 8)],
    ∀ (id : CoreId) (d a : Fin 32) (k : Fin 8) (s : State) (c : Core) (l : List (Nat × Nat × Bool × Bool)), Finds s id [.v (c.vIdx a), .k k] c →
      l = eachEl c k 32 32 (fun e => [(c.rv a, r.2 + e / 2)]) (fun e x =>
        ((packFlt f32 (unpackF f16 (nth x 0 0 / 65536 ^ (e % 2) % 65536)).1).1,
         (packFlt f32 (unpackF f16 (nth x 0 0 / 65536 ^ (e % 2) % 65536)).1).2 || (unpackF f16 (nth x 0 0 / 65536 ^ (e % 2) % 65536)).2)) →
      exec (r.1 id d a k) s = .next (plain s id c [elWrite c d 32 4 l] { ftz := elFlag l })) ∧
  (∀ (id : CoreId) (d a b : Fin 32) (k : Fin 8) (s : State) (c : Core) (l : List (Nat × Nat × Bool × Bool)),
    Finds s id [.v (c.vIdx a), .v (c.vIdx b), .k k] c →
    l = eachEl c k 32 32 (fun e => if e < 8 then [(c.rv a, 2 * e), (c.rv a, 2 * e + 1)] else [(c.rv b, 2 * e - 16), (c.rv b, 2 * e - 15)]) (fun _ x =>
      ((packFlt f16 (unpackF f32 (nth x 0 0)).1).1 + 65536 * (packFlt f16 (unpackF f32 (nth x 1 0)).1).1,
       (packFlt f16 (unpackF f32 (nth x 0 0)).1).2 || (packFlt f16 (unpackF f32 (nth x 1 0)).1).2 || (unpackF f32 (nth x 0 0)).2 ||
         (unpackF f32 (nth x 1 0)).2)) →
    exec (.vcvtCf16F32 id d a b k) s = .next (plain s id c [elWrite c d 32 4 l] { ftz := elFlag l })) ∧
  (∀ (id : CoreId) (d a : Fin 32) (k : Fin 8) (s : State) (c : Core), Finds s id [.v (c.vIdx a), .k k] c →
    (c.actives k 32).any ((c.rv a).bad 32) = false → exec (.vfradd id d a k) s = .next (plain s id c
      [(.s d, .w (w32 (treeSum 4 ((List.range 16).map fun e => if (c.actives k 32).contains e then (c.rv a).elem 32 e else 0) false).1), 4)]
      { ftz := (treeSum 4 ((List.range 16).map fun e => if (c.actives k 32).contains e then (c.rv a).elem 32 e else 0) false).2 })) ∧
  (∀ (id : CoreId) (d a b : Fin 32) (w : Fin 4) (s : State) (c : Core) (o : Nat), o = fld (c.rs b) 5 0 →
    bit c.eyeEn (8 * c.pl) = true → Finds s id [.v (c.vIdx a), .s b] c →
    (64 < o + bfpS w → exec (.eyBfpUnpack id d a b w) s = .next (putCore (drawn s) id.bench id.core (entered c (packF [(0, 0x0A), (10, 3)]) 1 0)) ∧
      exec (.eyBfpPack id d a b w) s = .next (putCore (drawn s) id.bench id.core (entered c (packF [(0, 0x0A), (10, 3)]) 1 0))) ∧
    (o + bfpS w ≤ 64 → (c.rv a).badBytes o (bfpS w) = false → ∀ (e : Nat) (m : List Int), e = (c.rv a).byte o % 16 →
      m = mantissas (bfpW w) ((List.range (bfpS w - 1)).map fun j => (c.rv a).byte (o + 1 + j)) → exec (.eyBfpUnpack id d a b w) s =
      .next (plain s id c [(.v (c.vIdx d), vWrite 32 ((List.range 16).map fun n => if n < 12 then
          (n, wrapTo 16 (satF 16 (nth m (2 * n) 0 * 2 ^ e)).1 + 65536 * wrapTo 16 (satF 16 (nth m (2 * n + 1) 0 * 2 ^ e)).1, false) else (n, 0, false)), 3)]
        { vsat := (List.range 16).any fun n => decide (n < 12) && ((satF 16 (nth m (2 * n) 0 * 2 ^ e)).2 || (satF 16 (nth m (2 * n + 1) 0 * 2 ^ e)).2) })) ∧
    (o + bfpS w ≤ 64 → (List.range 12).any ((c.rv a).bad 32) = false → ∀ (p : Nat × Bool) (m : List Int) (v : Nat),
      m = ((List.range 12).flatMap fun n => [sext 16 ((c.rv a).get 32 n), sext 16 ((c.rv a).get 32 n / 65536)]) → p = packExp (bfpW w) m →
      v = (m.map fun x => wrapTo (bfpW w) (satS (bfpW w) (rneShift x p.1))).foldl (fun x y => 2 ^ bfpW w * x + y) 0 →
      exec (.eyBfpPack id d a b w) s = .next (plain s id c [(.v (c.vIdx d), vWrite 8
        ((List.range (bfpS w)).map (fun j => (o + j, nth (p.1 :: (List.range (bfpS w - 1)).map fun j => v / 2 ^ (8 * (bfpS w - 2 - j)) % 256) j 0, false)) ++
          (List.range (64 - o - bfpS w)).map fun j => (o + bfpS w + j, 0, false)), 3)] { vsat := p.2 }))) ∧
  (∀ (id : CoreId) (d a : Fin 32) (s : State) (c : Core) (x0 x1 : Nat), Finds s id [.v (c.vIdx a)] c → bit c.eyeEn (8 * c.pl + 1) = true →
    x0 = (c.rv a).get 32 0 % 2 ^ 31 → x1 = (c.rv a).get 32 1 % 2 ^ 31 →
    (∀ (p : Bool) (y : Nat × Nat) (o : Nat) (w : List El → Dst × Val × Nat), (w = fun h => (Dst.v (c.vIdx d),
        vWrite 32 (h ++ (List.range 12).map fun n => (4 + n, 0, false)), 2)) → p = ((c.rv a).bad 32 0 || (c.rv a).bad 32 1) →
      y = goldN 64 (x0, x1) → o = goldBits 64 (x0, x1) →
      exec (.eySeqStep id d a) s = .next (plain s id c [w [(0, y.1, p), (1, y.2, p), (2, o % 2 ^ 32, p), (3, o / 2 ^ 32, p)]] {})) ∧
    (∀ (p : Bool) (y : Nat × Nat) (o : Nat) (w : List El → Dst × Val × Nat), (w = fun h => (Dst.v (c.vIdx d),
        vWrite 32 (h ++ (List.range 12).map fun n => (4 + n, 0, false)), 3)) → p = (c.rv a).bad 32 1 →
      y = goldN 1664 (1, x1) → o = goldBits 64 (goldN 1600 (1, x1)) →
      exec (.eySeqInit id d a) s = .next (plain s id c [w [(0, y.1, p), (1, y.2, p), (2, o % 2 ^ 32, p), (3, o / 2 ^ 32, p)]] {}))) ∧
  (∀ (id : CoreId) (d a b : Fin 32) (s : State) (c : Core), Finds s id [.v (c.vIdx a), .s b] c → bit c.eyeEn (8 * c.pl + 1) = true →
    (4095 < (c.rs b).toNat → exec (.eySeqSkip id d a b) s =
      .next (putCore (drawn s) id.bench id.core (entered c (packF [(0, 0x0A), (10, 3)]) 2 0))) ∧
    (∀ (p : Bool) (y : Nat × Nat), (c.rs b).toNat ≤ 4095 → p = ((c.rv a).bad 32 0 || (c.rv a).bad 32 1) →
      y = goldN (64 * (c.rs b).toNat) ((c.rv a).get 32 0 % 2 ^ 31, (c.rv a).get 32 1 % 2 ^ 31) →
      exec (.eySeqSkip id d a b) s = .next (plain s id c [(.v (c.vIdx d), vWrite 32 ([(0, y.1, p), (1, y.2, p), (2, 0, p), (3, 0, p)] ++
        (List.range 12).map fun n => (4 + n, 0, false)), 6)] {}))) ∧
  (∀ (id : CoreId) (d a b : Fin 32) (g : Fin 8) (order : Bool) (s : State) (c : Core) (n : Nat), Finds s id [.v (c.vIdx a), .s b] c →
    bit c.eyeEn (8 * c.pl + 2) = true → g.val < 6 → n = fld (c.rs b) 30 24 →
    (n = 0 ∨ 64 < n → exec (.eyCrc id d a b g order) s =
      .next (putCore (drawn s) id.bench id.core (entered c (packF [(0, 0x0A), (10, 3)]) 3 0))) ∧
    (1 ≤ n → n ≤ 64 → (c.rv a).bad 32 0 = false → (c.rv a).bad 32 1 = false → exec (.eyCrc id d a b g order) s = .next (plain s id c
      [(.s d, .w (w32 (2 ^ 24 * n + crcFeed (crcGen g).1 (crcGen g).2
        ((List.range n).map fun j => ((c.rv a).elem 64 0).testBit (if order then j else 63 - j)) ((fld (c.rs b) 23 0) % 2 ^ (crcGen g).1))), 2)] {}))) ∧
  (∀ (id : CoreId) (d a b : Fin 32) (k m : Fin 8) (s : State) (c : Core) (delta : Nat), Finds s id [.v (c.vIdx a), .s b, .k k] c →
    bit c.eyeEn (8 * c.pl + 3) = true → 1 ≤ m.val → m.val ≤ 5 → d.val + demapRegs m ≤ 32 → delta = fld (c.rs b) 15 0 →
    (delta = 0 ∨ 32767 < delta ∨ fld (c.rs b) 31 29 ≠ 0 → exec (.eyDemap id d a b k m) s =
      .next (putCore (drawn s) id.bench id.core (entered c (packF [(0, 0x0A), (10, 3)]) 4 0))) ∧
    (1 ≤ delta → delta ≤ 32767 → fld (c.rs b) 31 29 = 0 → ∀ (res : List (Nat × Nat × Bool × Bool)) (els : List El),
      res = ((c.actives k 32).flatMap fun j => (List.range (2 * m.val)).map fun q =>
        if (c.rv a).bad 32 j then (j * (2 * m.val) + q, 0, true, false)
        else (j * (2 * m.val) + q, wrapTo 8 (llrOf m (q / 2) (sext 16 ((c.rv a).get 32 j / 65536 ^ (q % 2))) delta (fld (c.rs b) 23 16) (2 ^ fld (c.rs b) 28 24)).1,
          false, (llrOf m (q / 2) (sext 16 ((c.rv a).get 32 j / 65536 ^ (q % 2))) delta (fld (c.rs b) 23 16) (2 ^ fld (c.rs b) 28 24)).2)) →
      els = res.map (fun x => (x.1, x.2.1, x.2.2.1)) ++ (List.range (64 * demapRegs m - 16 * (2 * m.val))).map (fun q => (16 * (2 * m.val) + q, 0, false)) →
      exec (.eyDemap id d a b k m) s = .next (plain s id c ((List.range (demapRegs m)).map fun j => (.v (c.vIdx (d.val + j)),
        vWrite 8 ((els.filter fun x => decide (x.1 / 64 = j)).map fun x => (x.1 - 64 * j, x.2.1, x.2.2)), 3 + demapRegs m)) { vsat := elFlag res }))) ∧
  (∀ (id : CoreId) (d a b : Fin 32) (k : Fin 8) (adv conj : Bool) (s : State) (c : Core) (l : List (Nat × Nat × Bool × Bool)),
    Finds s id [.v (c.vIdx a), .s b, .k k, .s (b.val + 1)] c → bit c.eyeEn (8 * c.pl + 4) = true → b.val % 2 = 0 →
    l = (c.actives k 32).map (fun e =>
      let t := rotor (((c.rs b).toNat + e * (c.rs (b.val + 1)).toNat + 2 ^ 17) % 2 ^ 32 / 2 ^ 18)
      let sn := if conj then -t.2 else t.2
      let x := sext 16 ((c.rv a).get 32 e)
      let y := sext 16 ((c.rv a).get 32 e / 65536)
      let p := satF 16 (rneShift (x * t.1 - y * sn) 15)
      let q := satF 16 (rneShift (x * sn + y * t.1) 15)
      (e, wrapTo 16 p.1 + 65536 * wrapTo 16 q.1, (c.rv a).bad 32 e, p.2 || q.2)) →
    exec (.eyPhase id d a b k adv conj) s = .next (plain s id c ([elWrite c d 32 3 l] ++
      if adv then [(.s b, .w (w32 ((c.rs b).toNat + 16 * (c.rs (b.val + 1)).toNat)), 2)] else []) { vsat := elFlag l }))

/-- R143–R152. The error of `LRSQ` is a free value (log entry 55). -/
def Obligations.ShankRows : Prop :=
  (∀ (b : Fin 16) (s s1 : State) (i : Nat) (t : Task), rdF s R.shStat b 0 9 8 = 0 → awake s b = true →
    beginTask s (.bench b 8) = some (s1, i, t) → exec (.shankTaskStart b) s = .next (wr (wr (putShank s1 b
      { (shankOf s1 b).wx 1 (benchOff b t.param) with
        pc := t.entry, task := some i, resume := false }) R.leix b 0 0) R.shStat b 0 0x100#32)) ∧
  (∀ (b : Fin 16) (s : State), (rdF s R.shStat b 0 9 8 = 2 → exec (.shankResume b) s =
      .next (wrF (putShank s b { shankOf s b with resume := true }) R.shStat b 0 9 8 1)) ∧
    (rdF s R.shStat b 0 9 8 ≠ 2 → exec (.shankResume b) s = .next s)) ∧
  (∀ (b : Fin 16) (s : State) (h : Shank), ShReady s b → h = shankOf s b →
    (∀ f : ShSv, f.m = 0 → f.t = 0 → f.imm = 0 → exec (.xadd b f) s = .next (shLeft s b (h.wx f.d (h.rx f.a + h.rx f.b)) {}) ∧
      exec (.xsub b f) s = .next (shLeft s b (h.wx f.d (h.rx f.a - h.rx f.b)) {})) ∧
    (∀ f : ShSx, exec (.xaddi b f) s = .next (shLeft s b (h.wx f.d (h.rx f.a + f.imm.signExtend 32)) {})) ∧
    (∀ f : ShSx, f.a = 0 → f.imm = 0 → exec (.xstat b f) s = .next (shLeft s b (h.wx f.d (rd s R.shStat b)) {})) ∧
    (∀ (f : ShSx) (a : Nat), a = (h.rx f.a + f.imm.signExtend 32).toNat → a % 4 = 0 → a < 0x800000 →
      (∀ (t : State) (bs : List Byte), readBytes s (benchBase b + a) 4 = (t, bs, false) →
        exec (.xld b f) s = .next (shLeft t b (h.wx f.d (BitVec.ofNat 32 (ofBytes bs))) {})) ∧
      exec (.xst b f) s = .next (shLeft (writeBytes s (benchBase b + a) (bytesOf 4 (h.rx f.d).toNat)) b h {})) ∧
    (∀ f : ShSx, f.d = 0 → 1 ≤ f.imm.toInt → f.imm.toInt ≤ 4095 →
      (h.rx f.a = 0 → exec (.sloop b f) s = .next (shWent s b h (h.pc + f.imm.toInt + 1))) ∧
      (h.rx f.a ≠ 0 → h.loops.length < 2 → exec (.sloop b f) s = .next (shLeft s b { h with
        loops := { count := (h.rx f.a).toNat, first := h.pc + 1, last := h.pc + f.imm.toInt.toNat } :: h.loops } {}))) ∧
    (∀ f : ShSx, f.d = 0 → (h.rx f.a = 0 → exec (.sbnz b f) s = .next (shLeft s b h {})) ∧
      (h.rx f.a ≠ 0 → exec (.sbnz b f) s = .next (shWent s b h (h.pc + f.imm.toInt)))) ∧
    (∀ f : ShSx, f.d = 0 → f.a = 0 → exec (.sj b f) s = .next (shWent s b h (h.pc + f.imm.toInt))) ∧
    (∀ (f : ShSx) (i : Nat), f.d = 0 → f.imm = 0 → h.task = some i → exec (Instr.send b f) s = .next (complete
      (wrF (shLeft s b { h with task := none } {}) R.shStat b 0 9 8 0) i (BitVec.ofNat 16 (h.rx f.a).toNat))) ∧
    (∀ f : ShSv, f.d.val < 4 → f.b = 0 → f.m = 0 → f.t = 0 → f.imm = 0 →
      exec (.lmlen b f) s = .next (shLeft s b { h with lm := setNth h.lm f.d (BitVec.ofNat 256 (2 ^ Nat.min 256 (h.rx f.a).toNat - 1)) } {}) ∧
      (∀ (t : State) (bs : List Byte), (h.rx f.a).toNat + 32 ≤ 0x800000 → readBytes s (benchBase b + (h.rx f.a).toNat) 32 = (t, bs, false) →
        exec (.lmld b f) s = .next (shLeft t b { h with lm := setNth h.lm f.d (BitVec.ofNat 256 (ofBytes bs)) } {})))) ∧
  (∀ (b : Fin 16) (s : State) (h : Shank) (f : ShSv) (ix sz : Nat) (l : List (Nat × Nat)), ShReady s b → h = shankOf s b → f.t.val < 3 →
    ix = (if h.resume then (rd s R.leix b).toNat else 0) → sz = ltB f.t → (∀ q ∈ l, q.2 < 0x800000 ∧ q.2 % sz = 0) →
    (∀ a : Nat → Nat, (∀ e, a e = ((h.rx f.a).toNat + 64 * f.imm.toNat + sz * e) % 2 ^ 32) → f.b = 0 →
      l = ((h.acts f.t f.m).filter fun e => decide (ix ≤ e)).map (fun e => (e, a e)) →
      (∀ (t : State) (vs : List (Nat × Bool)), loadEls s sz (l.map fun q => benchBase b + q.2) = (t, vs) → exec (.lld b f) s = .next (shLeft t b
        { h with l := setNth h.l f.d (lPut f.t (h.rl f.d) ((l.zip vs).map fun q => (q.1.1, q.2.1, q.2.2))) } {})) ∧
      (sz = 4 → exec (.lst b f) s = .next (shLeft (storeRun s (l.map fun q =>
        (benchBase b + q.2, (lGet (h.rl f.d) f.t q.1).1, (lGet (h.rl f.d) f.t q.1).2))) b h {})) ∧
      (sz = 8 → exec (.lst b f) s = .next (shLeft (l.foldl (fun t q =>
        storeEl t (benchBase b + q.2) 8 (lGet (h.rl f.d) f.t q.1).1 (lGet (h.rl f.d) f.t q.1).2) s) b h {}))) ∧
    (∀ a : Nat → Nat, (∀ e, a e = ((h.rx f.a).toNat + e / (64 / sz) * (h.rx f.b).toNat + sz * (e % (64 / sz))) % 2 ^ 32) → f.imm = 0 →
      l = ((h.acts f.t f.m).filter fun e => decide (ix ≤ e)).map (fun e => (e, a e)) →
      (∀ (t : State) (vs : List (Nat × Bool)), loadEls s sz (l.map fun q => benchBase b + q.2) = (t, vs) → exec (.llds b f) s = .next (shLeft t b
        { h with l := setNth h.l f.d (lPut f.t (h.rl f.d) ((l.zip vs).map fun q => (q.1.1, q.2.1, q.2.2))) } {})) ∧
      (sz = 4 → exec (.lsts b f) s = .next (shLeft (storeRun s (l.map fun q =>
        (benchBase b + q.2, (lGet (h.rl f.d) f.t q.1).1, (lGet (h.rl f.d) f.t q.1).2))) b h {})) ∧
      (sz = 8 → exec (.lsts b f) s = .next (shLeft (l.foldl (fun t q =>
        storeEl t (benchBase b + q.2) 8 (lGet (h.rl f.d) f.t q.1).1 (lGet (h.rl f.d) f.t q.1).2) s) b h {}))) ∧
    (∀ (n : Nat) (a : Nat → Nat), n = (if f.imm.toNat = 1 then 16 else 8) → f.imm.toNat < 2 → ¬(f.imm.toNat = 1 ∧ f.t = 2) →
      (∀ e, a e = ((h.rx f.a).toNat + e % n * (h.rx f.b).toNat + sz * (e / n)) % 2 ^ 32) →
      l = ((h.acts f.t f.m).filter fun e => decide (ix ≤ e) && decide (e < n * n)).map (fun e => (e, a e)) →
      ∀ (t : State) (vs : List (Nat × Bool)), loadEls s sz (l.map fun q => benchBase b + q.2) = (t, vs) → exec (.lldh b f) s = .next (shLeft t b
        { h with l := setNth h.l f.d (lPut f.t (h.rl f.d) ((l.zip vs).map fun q => (q.1.1, conjEl f.t q.2.1, q.2.2))) } {})) ∧
    (f.b = 0 → f.imm = 0 → l = ((h.acts f.t f.m).filter fun e => decide (ix ≤ e)).map (fun e => (e, (h.rx f.a).toNat)) →
      ∀ (t : State) (vs : List (Nat × Bool)), loadEls s sz (l.map fun q => benchBase b + q.2) = (t, vs) → exec (.ldup b f) s = .next (shLeft t b
        { h with l := setNth h.l f.d (lPut f.t (h.rl f.d) ((l.zip vs).map fun q => (q.1.1, q.2.1, q.2.2))) } {}))) ∧
  (∀ r ∈ [(Instr.ladd, ((fun u v => satF 16 (u + v) : Int → Int → Int × Bool), (fun x y => addF false x y : FV × FV → FV × FV → FV × FV))),
      (Instr.lsub, (fun u v => satF 16 (u - v), fun x y => addF true x y))],
    ∀ (b : Fin 16) (s : State) (h : Shank) (f : ShSv) (l : List (Nat × (Nat × Bool × Bool) × Bool)), ShReady s b → h = shankOf s b → f.t.val < 3 →
      f.imm = 0 → l = shEach h f.t f.m [h.rl f.a, h.rl f.b] (fun x =>
        if f.t = 0 then ((mapC2 4 r.2.1 (nth x 0 0) (nth x 1 0)).1, (mapC2 4 r.2.1 (nth x 0 0) (nth x 1 0)).2, false)
        else ((fltC f.t (fun v => r.2.2 (nth v 0 zzF) (nth v 1 zzF)) x).1, false, (fltC f.t (fun v => r.2.2 (nth v 0 zzF) (nth v 1 zzF)) x).2)) →
      exec (r.1 b f) s = .next (shLeft s b (shPut h f.d f.t l) (shFlags l))) ∧
  (∀ r ∈ [(Instr.lcmul, (false, (fun x y => sat2 4 [satF 16 (rneShift (sext 16 x * sext 16 y - sext 16 (x / 65536) * sext 16 (y / 65536)) 15),
        satF 16 (rneShift (sext 16 x * sext 16 (y / 65536) + sext 16 (x / 65536) * sext 16 y) 15)] : Nat → Nat → Nat × Bool))),
      (Instr.lcmulj, (true, fun x y => sat2 4 [satF 16 (rneShift (sext 16 x * sext 16 y + sext 16 (x / 65536) * sext 16 (y / 65536)) 15),
        satF 16 (rneShift (sext 16 (x / 65536) * sext 16 y - sext 16 x * sext 16 (y / 65536)) 15)]))],
    ∀ (b : Fin 16) (s : State) (h : Shank) (f : ShSv) (l : List (Nat × (Nat × Bool × Bool) × Bool)), ShReady s b → h = shankOf s b → f.t.val < 3 →
      f.imm = 0 → l = shEach h f.t f.m [h.rl f.a, h.rl f.b] (fun x =>
        if f.t = 0 then ((r.2.2 (nth x 0 0) (nth x 1 0)).1, (r.2.2 (nth x 0 0) (nth x 1 0)).2, false)
        else ((fltC f.t (fun v => cmulF (nth v 0 zzF) (nth v 1 zzF) r.2.1) x).1, false, (fltC f.t (fun v => cmulF (nth v 0 zzF) (nth v 1 zzF) r.2.1) x).2)) →
      exec (r.1 b f) s = .next (shLeft s b (shPut h f.d f.t l) (shFlags l))) ∧
  (∀ (b : Fin 16) (s : State) (h : Shank) (f : ShSv) (l : List (Nat × (Nat × Bool × Bool) × Bool)), ShReady s b → h = shankOf s b →
    (f.t.val < 3 → f.b = 0 → f.imm = 0 → l = shEach h f.t f.m [h.rl f.a] (fun x => (conjEl f.t (nth x 0 0), false, false)) →
      exec (.lconj b f) s = .next (shLeft s b (shPut h f.d f.t l) {})) ∧
    ((f.t.val = 1 ∨ f.t.val = 2) → f.imm = 0 → l = shEach h f.t f.m [h.rl f.d, h.rl f.a, h.rl f.b] (fun x =>
        ((fltC f.t (fun v => addF false (nth v 0 zzF) (cmulF (nth v 1 zzF) (nth v 2 zzF) false)) x).1, false,
         (fltC f.t (fun v => addF false (nth v 0 zzF) (cmulF (nth v 1 zzF) (nth v 2 zzF) false)) x).2)) →
      exec (.lfcma b f) s = .next (shLeft s b (shPut h f.d f.t l) (shFlags l))) ∧
    ((f.t.val = 1 ∨ f.t.val = 2) → f.b = 0 → f.imm = 0 → l = (h.acts f.t f.m).map (fun e =>
        (e, ((rsq (ltFmt f.t) (Config.freeWord (s.freeCtr + e)).toNat ((lGet (h.rl f.a) f.t e).1 % 2 ^ ltC f.t)).1, false,
          (rsq (ltFmt f.t) (Config.freeWord (s.freeCtr + e)).toNat ((lGet (h.rl f.a) f.t e).1 % 2 ^ ltC f.t)).2), (lGet (h.rl f.a) f.t e).2)) →
      exec (.lrsq b f) s = .next (shLeft { s with freeCtr := s.freeCtr + 256 } b (shPut h f.d f.t l) (shFlags l))) ∧
    (∀ (fr : Nat) (n : Int), f.t.val < 3 → f.imm.toNat = fr → fr < 3 → n = clampI (-32) 32 (sext 32 (h.rx f.b).toNat) →
      l = ((h.acts f.t f.m).filter fun e => decide (e < ltN fr)).map (fun e =>
        let p := cvtC fr f.t n ((lGet (h.rl f.a) fr e).1 % 2 ^ ltC fr)
        let q := cvtC fr f.t n ((lGet (h.rl f.a) fr e).1 / 2 ^ ltC fr)
        (e, (p.1 + 2 ^ ltC f.t * q.1, p.2.1 || q.2.1, p.2.2 || q.2.2), (lGet (h.rl f.a) fr e).2)) →
      exec (.lcvt b f) s = .next (shLeft s b (shPut h f.d f.t l) (shFlags l)))) ∧
  (∀ r ∈ [(Instr.lcmac, (fun ar ai br bi => (ar * br - ai * bi, ar * bi + ai * br) : Int → Int → Int → Int → Int × Int)),
      (Instr.lcmacj, fun ar ai br bi => (ar * br + ai * bi, ai * br - ar * bi)),
      (Instr.lcmsc, fun ar ai br bi => (-(ar * br - ai * bi), -(ar * bi + ai * br)))],
    ∀ (b : Fin 16) (s : State) (h : Shank) (f : ShSv) (x y : Nat → Nat × Bool) (l : List (Lane × Bool)), ShReady s b → h = shankOf s b →
      f.d.val < 4 → f.t = 0 → f.imm = 0 → (∀ e, x e = lGet (h.rl f.a) 0 e) → (∀ e, y e = lGet (h.rl f.b) 0 e) →
      l = (List.range 256).map (fun e => if (h.rm f.m).getLsbD e = true then laneAdd (rdB s R.shCtl b 0 0) false true true ((x e).2 || (y e).2)
          (nth (h.racc f.d) e Lane.zero) (r.2 (sext 16 (x e).1) (sext 16 ((x e).1 / 65536)) (sext 16 (y e).1) (sext 16 ((y e).1 / 65536)))
        else (nth (h.racc f.d) e Lane.zero, false)) →
      exec (r.1 b f) s = .next (shLeft s b { h with acc := setNth h.acc f.d (l.map fun z => z.1) }
        { aov := if l.any (fun z => z.2) then 2 ^ f.d.val else 0 })) ∧
  (∀ r ∈ [(Instr.lmv16, (16, (fun g n => (List.range 16).map fun j => (16 * (n % 16) + j, 16 * (g % 16) + j) : Nat → Nat → List (Nat × Nat)))),
      (Instr.lmv8, (32, fun g n => (List.range 8).map fun j => (64 * (n % 32 / 8) + 8 * (n % 8) + j, 32 * (g / 4 % 8) + 8 * (n % 32 / 8) + j)))],
    ∀ (b : Fin 16) (s : State) (h : Shank) (f : ShSv) (g : Nat) (l : List (Lane × Bool)), ShReady s b → h = shankOf s b →
      f.d.val < 4 → f.t = 0 → g = f.imm.toNat → g < 256 → (r.2.1 = 32 → g % 4 = 0) →
      l = (List.range 256).map (fun e => if (h.rm f.m).getLsbD e = true ∧ e / r.2.1 = g / r.2.1 then
          laneAdd (rdB s R.shCtl b 0 0) false true true (dotTerm (h.rl f.a) (h.rl f.b) (r.2.2 g e)).2 (nth (h.racc f.d) e Lane.zero)
            (dotTerm (h.rl f.a) (h.rl f.b) (r.2.2 g e)).1
        else (nth (h.racc f.d) e Lane.zero, false)) →
      exec (r.1 b f) s = .next (shLeft s b { h with acc := setNth h.acc f.d (l.map fun z => z.1) }
        { aov := if l.any (fun z => z.2) then 2 ^ f.d.val else 0 })) ∧
  (∀ (b : Fin 16) (s : State) (h : Shank) (f : ShSv), ShReady s b → h = shankOf s b →
    (f.d.val < 4 → f.a = 0 → f.b = 0 → f.t = 0 → f.imm = 0 → exec (.laccz b f) s = .next (shLeft s b { h with
      acc := setNth h.acc f.d ((List.range 256).map fun e => if (h.rm f.m).getLsbD e then Lane.zero else nth (h.racc f.d) e Lane.zero) } {})) ∧
    (∀ (n : Nat) (rt : Bool) (l : List (Nat × (Nat × Bool) × Bool)), f.a.val < 4 → f.b = 0 → f.t = 0 → n < 40 →
      f.imm.toNat = n + (if rt then 64 else 0) → l = (h.acts 0 f.m).map (fun e =>
        let v (x : BitVec 40) := satF 16 (if rt then x.toInt / 2 ^ n else rneShift x.toInt n)
        let x := nth (h.racc f.a) e Lane.zero
        (e, (wrapTo 16 (v x.re).1 + 65536 * wrapTo 16 (v x.im).1, (v x.re).2 || (v x.im).2), x.po)) →
      exec (.laccx b f) s = .next (shLeft s b { h with l := setNth h.l f.d (lPut 0 (h.rl f.d) (l.map fun x => (x.1, x.2.1.1, x.2.2))) }
        { xsat := l.any fun x => x.2.1.2 })) ∧
    (∀ (n k : Nat) (i : ShI) (l : List (List El × Bool × Bool)), f.a = 0 → f.b = 0 → (f.t.val = 1 ∨ f.t.val = 2) → i = .sv .lchol f →
      f.imm.toNat = k + (if n = 16 then 16 else 0) → ((n = 8 ∧ k < 8) ∨ (n = 16 ∧ k < 16 ∧ f.t.val = 1)) →
      l = (List.range (if n = 16 then 1 else if f.t.val = 2 then 2 else 4)).map (cholBlock h i n k) →
      exec (.lchol b f) s = .next (shLeft s b { h with l := setNth h.l f.d (lPut f.t (h.rl f.d) (l.flatMap fun x => x.1)) }
        { ftz := l.any (fun x => x.2.1), npd := l.any fun x => x.2.2 })))
end

