-- ==== Sys2Proof/Laws/Memory.lean ====
section
/-! SUPPORT. Every operation on a sparse map keeps its keys rising, and every memory operation keeps the canonical form of the
memories. -/

namespace Sys2Proof.Machine

/-! ## Sparse maps -/

theorem risingFrom_mono {α : Type} {m n : Nat} (h : n ≤ m) : ∀ {l : List (Nat × α)}, risingFrom m l = true → risingFrom n l = true
  | [], _ => rfl
  | (k, v) :: r, e => by
    simp only [risingFrom, Bool.and_eq_true, decide_eq_true_eq] at e ⊢
    exact ⟨Nat.le_trans h e.1, e.2⟩

theorem risingFrom_putKey {α : Type} : ∀ {l : List (Nat × α)} {m q : Nat} {v : Option α}, m ≤ q → risingFrom m l = true → risingFrom m (putKey l q v) = true
  | [], m, q, none, hq, _ => rfl
  | [], m, q, some v, hq, _ => by simp [putKey, risingFrom, hq]
  | (k, w) :: r, m, q, v, hq, e => by
    simp only [risingFrom, Bool.and_eq_true, decide_eq_true_eq] at e
    unfold putKey
    split
    · cases v
      · simp [risingFrom, e]
      · rename_i hk _; simp [risingFrom, e, hq]; omega
    · split
      · rename_i hk; subst hk
        cases v
        · exact risingFrom_mono (Nat.le_trans hq (Nat.le_succ q)) e.2
        · simp [risingFrom, e]
      · simp only [risingFrom, Bool.and_eq_true, decide_eq_true_eq]
        exact ⟨e.1, risingFrom_putKey (by omega) e.2⟩

theorem keysRise_putKey {α : Type} {l : List (Nat × α)} (q : Nat) (v : Option α) (h : keysRise l = true) : keysRise (putKey l q v) = true :=
  risingFrom_putKey (Nat.zero_le q) h

theorem risingFrom_filter {α : Type} (p : Nat × α → Bool) : ∀ {l : List (Nat × α)} {m : Nat}, risingFrom m l = true → risingFrom m (l.filter p) = true
  | [], _, _ => rfl
  | (k, v) :: r, m, e => by
    simp only [risingFrom, Bool.and_eq_true, decide_eq_true_eq] at e
    simp only [List.filter]
    split
    · simp only [risingFrom, Bool.and_eq_true, decide_eq_true_eq]; exact ⟨e.1, risingFrom_filter p e.2⟩
    · exact risingFrom_mono (by omega) (risingFrom_filter p e.2)

theorem keysRise_filter {α : Type} (p : Nat × α → Bool) {l : List (Nat × α)} (h : keysRise l = true) : keysRise (l.filter p) = true := risingFrom_filter p h

theorem mem_putKey {α : Type} : ∀ {l : List (Nat × α)} {q : Nat} {v : Option α} {e : Nat × α}, e ∈ putKey l q v → e ∈ l ∨ v = some e.2 ∧ e.1 = q
  | [], q, none, e, h => by simp [putKey] at h
  | [], q, some v, e, h => by simp [putKey] at h; subst h; simp
  | (k, w) :: r, q, v, e, h => by
    unfold putKey at h
    split at h
    · cases v
      · exact .inl h
      · rcases List.mem_cons.mp h with h | h
        · subst h; simp
        · exact .inl h
    · split at h
      · cases v
        · exact .inl (List.mem_cons_of_mem _ h)
        · rcases List.mem_cons.mp h with h | h
          · subst h; simp
          · exact .inl (List.mem_cons_of_mem _ h)
      · rcases List.mem_cons.mp h with h | h
        · subst h; simp
        · rcases mem_putKey h with h | h
          · exact .inl (List.mem_cons_of_mem _ h)
          · exact .inr h

/-! ## The memories -/

theorem Memory.wf_iff (m : Memory) : m.wf = true ↔ keysRise m.bytes = true ∧ (∀ e ∈ m.bytes, e.2 ≠ 0) ∧ keysRise m.marks = true ∧ (∀ e ∈ m.marks, e.2 ≠ m.dflt e.1) := by
  simp only [Memory.wf, Bool.and_eq_true, List.all_eq_true, decide_eq_true_eq, and_assoc]

theorem Memory.wf_setByte (m : Memory) (a : Nat) (b : Byte) (h : m.wf = true) : (m.setByte a b).wf = true := by
  rw [Memory.wf_iff] at h ⊢
  refine ⟨keysRise_putKey a _ h.1, ?_, h.2.2.1, h.2.2.2⟩
  intro e he
  rcases mem_putKey he with he | ⟨he, _⟩
  · exact h.2.1 e he
  · split at he
    · cases he
    · rename_i hb; cases he; exact hb

theorem Memory.wf_setMark (m : Memory) (w : Nat) (k : Mark) (h : m.wf = true) : (m.setMark w k).wf = true := by
  rw [Memory.wf_iff] at h ⊢
  refine ⟨h.1, h.2.1, keysRise_putKey w _ h.2.2.1, ?_⟩
  intro e he
  rcases mem_putKey he with he | ⟨he, hw⟩
  · exact h.2.2.2 e he
  · split at he
    · cases he
    · rename_i hk; cases he; rw [hw]; exact hk

theorem Memory.wf_setBytes : ∀ (bs : List Byte) (m : Memory) (a : Nat), m.wf = true → (m.setBytes a bs).wf = true
  | [], _, _, h => h
  | b :: bs, m, a, h => Memory.wf_setBytes bs _ _ (m.wf_setByte a b h)

theorem Memory.wf_setData (m : Memory) (w v : Nat) (h : m.wf = true) : (m.setData w v).wf = true := Memory.wf_setBytes _ _ _ h

theorem Memory.wf_lose (m : Memory) (w n : Nat) (h : m.wf = true) : (m.lose w n).wf = true := by
  rw [Memory.wf_iff] at h ⊢
  refine ⟨keysRise_filter _ h.1, fun e he => h.2.1 e (List.mem_of_mem_filter he), keysRise_filter _ h.2.2.1, ?_⟩
  intro e he
  have h1 := h.2.2.2 e (List.mem_of_mem_filter he)
  have h2 := (List.mem_filter.mp he).2
  have : (m.lose w n).dflt e.1 = m.dflt e.1 := by
    unfold Memory.dflt Memory.lose
    simp only
    split
    · rfl
    · have : inLost (m.lost ++ [(w, n)]) e.1 = inLost m.lost e.1 := by
        simp only [inLost, List.any_append, List.any_cons, List.any_nil, Bool.or_false]
        have : (decide (w ≤ e.1) && decide (e.1 < w + n)) = false := by
          simp only [Bool.or_eq_true, decide_eq_true_eq] at h2
          simp; omega
        rw [this, Bool.or_false]
      rw [this]
  rw [this]; exact h1

theorem modNth_length {α : Type} (f : α → α) : ∀ (l : List α) (i : Nat), (modNth l i f).length = l.length
  | [], _ => rfl
  | _ :: _, 0 => rfl
  | x :: xs, i + 1 => by simp [modNth, modNth_length f xs i]

theorem wf_foldl {α : Type} (f : Memory → α → Memory) (hf : ∀ m x, m.wf = true → (f m x).wf = true) : ∀ (l : List α) (m : Memory), m.wf = true → (l.foldl f m).wf = true
  | [], _, h => h
  | x :: l, m, h => wf_foldl f hf l _ (hf m x h)

end Sys2Proof.Machine
end

