-- ==== Sys2Proof/Laws/State.lean ====
section
/-! SUPPORT. What the named updates of the state change and what they leave alone. -/

namespace Sys2Proof.Machine

/-! ## Sparse maps -/

theorem assoc_eq_none_of_rising {α : Type} : ∀ {l : List (Nat × α)} {m q : Nat}, risingFrom m l = true → q < m → assoc l q = none
  | [], _, _, _, _ => rfl
  | (k, v) :: r, m, q, h, lt => by
    simp only [risingFrom, Bool.and_eq_true, decide_eq_true_eq] at h
    simp only [assoc]
    rw [if_neg (by omega)]
    exact assoc_eq_none_of_rising h.2 (by omega)

/-- An entry stored in a canonical map is found there, and a removed one is gone. -/
theorem assoc_putKey_self {α : Type} : ∀ {l : List (Nat × α)} {m q : Nat} {v : Option α}, risingFrom m l = true → assoc (putKey l q v) q = v
  | [], _, _, some _, _ => by simp [putKey, assoc]
  | [], _, _, none, _ => rfl
  | (k, w) :: r, m, q, v, h => by
    simp only [risingFrom, Bool.and_eq_true, decide_eq_true_eq] at h
    simp only [putKey]
    split
    · cases v
      · simp only [assoc]
        rw [if_neg (by omega)]
        exact assoc_eq_none_of_rising h.2 (by omega)
      · simp [assoc]
    · split
      · cases v
        · exact assoc_eq_none_of_rising h.2 (by omega)
        · simp [assoc]
      · simp only [assoc]
        rw [if_neg (by omega)]
        exact assoc_putKey_self h.2

/-- An entry stored leaves every other key as it was. -/
theorem assoc_putKey_ne {α : Type} : ∀ {l : List (Nat × α)} {q p : Nat} {v : Option α}, p ≠ q → assoc (putKey l q v) p = assoc l p
  | [], q, p, some _, h => by simp [putKey, assoc, Ne.symm h]
  | [], _, _, none, _ => rfl
  | (k, w) :: r, q, p, v, h => by
    simp only [putKey]
    split
    · cases v <;> simp [assoc, Ne.symm h]
    · split
      · rename_i e; subst e
        cases v <;> simp [assoc, Ne.symm h]
      · simp only [assoc]
        rw [assoc_putKey_ne h]

/-! ## The register file -/

/-- A register of a canonical register file reads as written. -/
theorem rd_wr_self {s : State} (h : keysRise s.regs = true) (r : Reg) (u i : Nat) (v : W32) : rd (wr s r u i v) r u i = v := by
  unfold rd wr
  simp only
  rw [assoc_putKey_self h]
  split <;> simp_all

/-- A register at another key reads as before. -/
theorem rd_wr_ne (s : State) (r r' : Reg) (u i u' i' : Nat) (v : W32) (h : r'.key u' i' ≠ r.key u i) :
    rd (wr s r u i v) r' u' i' = rd s r' u' i' := by
  unfold rd wr
  simp only
  rw [assoc_putKey_ne h]

theorem keysRise_wr {s : State} (h : keysRise s.regs = true) (r : Reg) (u i : Nat) (v : W32) : keysRise (wr s r u i v).regs = true :=
  keysRise_putKey _ _ h

/-- A register write changes the register file alone. -/
theorem wr_frame (s : State) (r : Reg) (u i : Nat) (v : W32) : { wr s r u i v with regs := s.regs } = s := rfl

@[simp] theorem wr_variant (s : State) (r : Reg) (u i : Nat) (v : W32) : (wr s r u i v).variant = s.variant := rfl
@[simp] theorem wr_pending (s : State) (r : Reg) (u i : Nat) (v : W32) : (wr s r u i v).pending = s.pending := rfl
@[simp] theorem wr_freeCtr (s : State) (r : Reg) (u i : Nat) (v : W32) : (wr s r u i v).freeCtr = s.freeCtr := rfl
@[simp] theorem wr_ats (s : State) (r : Reg) (u i : Nat) (v : W32) : (wr s r u i v).ats = s.ats := rfl
@[simp] theorem wr_tim (s : State) (r : Reg) (u i : Nat) (v : W32) : (wr s r u i v).tim = s.tim := rfl
@[simp] theorem wr_mem (s : State) (r : Reg) (u i : Nat) (v : W32) : (wr s r u i v).mem = s.mem := rfl
@[simp] theorem wr_pn (s : State) (r : Reg) (u i : Nat) (v : W32) : (wr s r u i v).pn = s.pn := rfl
@[simp] theorem wr_dom (s : State) (r : Reg) (u i : Nat) (v : W32) : (wr s r u i v).dom = s.dom := rfl
@[simp] theorem wr_th (s : State) (r : Reg) (u i : Nat) (v : W32) : (wr s r u i v).th = s.th := rfl
@[simp] theorem wr_store (s : State) (r : Reg) (u i : Nat) (v : W32) : (wr s r u i v).store = s.store := rfl
@[simp] theorem wr_det (s : State) (r : Reg) (u i : Nat) (v : W32) : (wr s r u i v).det = s.det := rfl
@[simp] theorem wr_boot (s : State) (r : Reg) (u i : Nat) (v : W32) : (wr s r u i v).boot = s.boot := rfl
@[simp] theorem wr_queues (s : State) (r : Reg) (u i : Nat) (v : W32) : (wr s r u i v).queues = s.queues := rfl
@[simp] theorem wr_cord (s : State) (r : Reg) (u i : Nat) (v : W32) : (wr s r u i v).cord = s.cord := rfl
@[simp] theorem wr_gov (s : State) (r : Reg) (u i : Nat) (v : W32) : (wr s r u i v).gov = s.gov := rfl
@[simp] theorem wr_host (s : State) (r : Reg) (u i : Nat) (v : W32) : (wr s r u i v).host = s.host := rfl
@[simp] theorem wr_lace (s : State) (r : Reg) (u i : Nat) (v : W32) : (wr s r u i v).lace = s.lace := rfl
@[simp] theorem wr_fab (s : State) (r : Reg) (u i : Nat) (v : W32) : (wr s r u i v).fab = s.fab := rfl
@[simp] theorem wr_cores (s : State) (r : Reg) (u i : Nat) (v : W32) : (wr s r u i v).cores = s.cores := rfl
@[simp] theorem wr_shanks (s : State) (r : Reg) (u i : Nat) (v : W32) : (wr s r u i v).shanks = s.shanks := rfl
@[simp] theorem wr_cmas (s : State) (r : Reg) (u i : Nat) (v : W32) : (wr s r u i v).cmas = s.cmas := rfl
@[simp] theorem wr_jobs (s : State) (r : Reg) (u i : Nat) (v : W32) : (wr s r u i v).jobs = s.jobs := rfl
@[simp] theorem wr_lanes (s : State) (r : Reg) (u i : Nat) (v : W32) : (wr s r u i v).lanes = s.lanes := rfl
@[simp] theorem wr_hbmPart (s : State) (r : Reg) (u i : Nat) (v : W32) : (wr s r u i v).hbmPart = s.hbmPart := rfl
@[simp] theorem wr_dma (s : State) (r : Reg) (u i : Nat) (v : W32) : (wr s r u i v).dma = s.dma := rfl
@[simp] theorem wr_fh (s : State) (r : Reg) (u i : Nat) (v : W32) : (wr s r u i v).fh = s.fh := rfl
@[simp] theorem wr_refclk (s : State) (r : Reg) (u i : Nat) (v : W32) : (wr s r u i v).refclk = s.refclk := rfl
@[simp] theorem wr_rclkHold (s : State) (r : Reg) (u i : Nat) (v : W32) : (wr s r u i v).rclkHold = s.rclkHold := rfl
@[simp] theorem wr_locks (s : State) (r : Reg) (u i : Nat) (v : W32) : (wr s r u i v).locks = s.locks := rfl
@[simp] theorem wr_posted (s : State) (r : Reg) (u i : Nat) (v : W32) : (wr s r u i v).posted = s.posted := rfl
@[simp] theorem wr_readStat (s : State) (r : Reg) (u i : Nat) (v : W32) : (wr s r u i v).readStat = s.readStat := rfl
@[simp] theorem wr_readData (s : State) (r : Reg) (u i : Nat) (v : W32) : (wr s r u i v).readData = s.readData := rfl

/-! ## Events: what an operation that touches only registers, the Pennant and the host link leaves alone -/

/-- Nothing but the register file, the Pennant and the host link differs. -/
def OnlyEvents (s t : State) : Prop := { t with regs := s.regs, pn := s.pn, host := s.host } = s

theorem OnlyEvents.refl (s : State) : OnlyEvents s s := rfl

theorem OnlyEvents.trans {a b c : State} (h : OnlyEvents a b) (k : OnlyEvents b c) : OnlyEvents a c := by
  unfold OnlyEvents at *
  rw [← h]
  calc { c with regs := a.regs, pn := a.pn, host := a.host }
      = { ({ c with regs := b.regs, pn := b.pn, host := b.host } : State) with regs := a.regs, pn := a.pn, host := a.host } := rfl
    _ = _ := by rw [k]

theorem wr_events (s : State) (r : Reg) (u i : Nat) (v : W32) : OnlyEvents s (wr s r u i v) := rfl
theorem bump_events (s : State) (r : Reg) (u i n : Nat) : OnlyEvents s (bump s r u i n) := rfl
theorem setSink_events (s : State) (k : SinkId) (b : Sink) : OnlyEvents s (setSink s k b) := by cases k <;> rfl
theorem ibiEvent_events (s : State) (k : SinkId) : OnlyEvents s (ibiEvent s k) := by unfold ibiEvent; split <;> rfl

theorem offer_events (s : State) (k : SinkId) (e : Event) : OnlyEvents s (offer s k e).1 := by
  unfold offer
  simp only
  split
  · exact (setSink_events s k _).trans (ibiEvent_events _ _)
  · exact (setSink_events s k _).trans (bump_events _ _ _ _ _)

theorem offerAll_events (e : Event) : ∀ (l : List SinkId) (s : State), OnlyEvents s (offerAll s e l).1
  | [], s => .refl s
  | k :: ks, s => (offer_events s k e).trans (offerAll_events e ks _)

theorem latch_events (s : State) (e : EvtReg) (u i : Nat) (b : W32) : OnlyEvents s (latch s e u i b).1 := by
  unfold latch
  simp only
  split
  · exact wr_events ..
  · exact (wr_events s ..).trans (wr_events ..)

theorem emitN_events : ∀ (n : Nat) (s : State) (k : Nat) (ws : List W32), OnlyEvents s (emitN n s k ws)
  | 0, s, _, _ => .refl s
  | n + 1, s, k, ws => by
    have o := offerAll_events { kind := k, seq := (rd s R.pnEvseq).toNat, ats := s.ats, words := ws }
      (sinksOf (wr s R.pnEvseq 0 0 (w32 ((rd s R.pnEvseq).toNat + 1))) k) (wr s R.pnEvseq 0 0 (w32 ((rd s R.pnEvseq).toNat + 1)))
    have a := (wr_events s R.pnEvseq 0 0 (w32 ((rd s R.pnEvseq).toNat + 1))).trans o
    simp only [emitN]
    split
    · split
      · exact a.trans (latch_events ..)
      · exact (a.trans (latch_events ..)).trans (emitN_events n _ _ _)
    · exact a

/-- Generating an event changes only registers, the Pennant and the host link. -/
theorem emit_events (s : State) (k : Nat) (ws : List W32) : OnlyEvents s (emit s k ws) := emitN_events 2 s k ws

/-- Raising an event changes only registers, the Pennant and the host link. -/
theorem raiseI_events (s : State) (e : EvtReg) (u i : Nat) (b : W32) : OnlyEvents s (raiseI s e u i b) := by
  unfold raiseI
  split
  · exact .refl s
  · simp only
    split
    · exact latch_events ..
    · exact (latch_events ..).trans (emit_events ..)

theorem raise_events (s : State) (e : EvtReg) (u k : Nat) : OnlyEvents s (raise s e u k) := raiseI_events ..

/-! ## The registers that an event leaves alone -/

/-- The registers that generating an event may change: the sequence number, the drop counter, and the Pennant's own events. -/
def emitKeys : List Nat :=
  [R.pnEvseq.key 0 0, R.pnCount.key 0 7, (R.pnCount.next 1).key 0 7, R.pnEvt.key 0 0, R.pnEvtCnt.key 0 0]

/-- Every register outside a list of keys is listed as before. -/
def RegsBut (ks : List Nat) (s t : State) : Prop := ∀ k, k ∉ ks → assoc t.regs k = assoc s.regs k

theorem RegsBut.refl (ks : List Nat) (s : State) : RegsBut ks s s := fun _ _ => rfl
theorem RegsBut.trans {ks : List Nat} {a b c : State} (h : RegsBut ks a b) (k : RegsBut ks b c) : RegsBut ks a c :=
  fun x n => (k x n).trans (h x n)
theorem RegsBut.of_eq {ks : List Nat} {a b : State} (h : b.regs = a.regs) : RegsBut ks a b := fun _ _ => by rw [h]
theorem RegsBut.wr {ks : List Nat} (s : State) (r : Reg) (u i : Nat) (v : W32) (h : r.key u i ∈ ks) : RegsBut ks s (wr s r u i v) :=
  fun k n => assoc_putKey_ne (fun e => n (by rw [e]; exact h))
theorem RegsBut.bump {ks : List Nat} (s : State) (r : Reg) (u i n : Nat) (h : r.key u i ∈ ks) (h' : (r.next 1).key u i ∈ ks) :
    RegsBut ks s (bump s r u i n) := (RegsBut.wr s r u i _ h).trans (RegsBut.wr _ (r.next 1) u i _ h')

theorem setSink_regs (s : State) (k : SinkId) (b : Sink) : (setSink s k b).regs = s.regs := by cases k <;> rfl
theorem ibiEvent_regs (s : State) (k : SinkId) : (ibiEvent s k).regs = s.regs := by unfold ibiEvent; split <;> rfl

theorem offer_regs (s : State) (k : SinkId) (e : Event) : RegsBut emitKeys s (offer s k e).1 := by
  unfold offer
  simp only
  split
  · exact .of_eq (by rw [ibiEvent_regs, setSink_regs])
  · exact (RegsBut.of_eq (setSink_regs ..)).trans (.bump _ _ _ _ _ (by decide) (by decide))

theorem offerAll_regs (e : Event) : ∀ (l : List SinkId) (s : State), RegsBut emitKeys s (offerAll s e l).1
  | [], s => .refl _ s
  | k :: ks, s => (offer_regs s k e).trans (offerAll_regs e ks _)

theorem emitN_regs : ∀ (n : Nat) (s : State) (k : Nat) (ws : List W32), RegsBut emitKeys s (emitN n s k ws)
  | 0, s, _, _ => .refl _ s
  | n + 1, s, k, ws => by
    have o := offerAll_regs { kind := k, seq := (rd s R.pnEvseq).toNat, ats := s.ats, words := ws }
      (sinksOf (wr s R.pnEvseq 0 0 (w32 ((rd s R.pnEvseq).toNat + 1))) k) (wr s R.pnEvseq 0 0 (w32 ((rd s R.pnEvseq).toNat + 1)))
    have a := (RegsBut.wr (ks := emitKeys) s R.pnEvseq 0 0 (w32 ((rd s R.pnEvseq).toNat + 1)) (by decide)).trans o
    have l (s : State) : RegsBut emitKeys s (latch s E.pn 0 0 0x4#32).1 :=
      (RegsBut.wr s R.pnEvt 0 0 _ (by decide)).trans (RegsBut.wr _ R.pnEvtCnt 0 0 _ (by decide))
    simp only [emitN]
    split
    · split
      · exact a.trans (l _)
      · exact (a.trans (l _)).trans (emitN_regs n _ _ _)
    · exact a

/-- Generating an event leaves every register but the Pennant's own as it was. -/
theorem emit_regs (s : State) (k : Nat) (ws : List W32) : RegsBut emitKeys s (emit s k ws) := emitN_regs 2 s k ws

theorem RegsBut.rd {ks : List Nat} {s t : State} (h : RegsBut ks s t) (v : t.variant = s.variant) (r : Reg) (u i : Nat)
    (n : r.key u i ∉ ks) : rd t r u i = rd s r u i := by
  unfold Machine.rd
  rw [h _ n, v]

end Sys2Proof.Machine
end

