-- ==== Sys2Proof/Laws/Bundles.lean ====
section
/-! SUPPORT. What a row of an Awl core does on a core that finds it ready: once per slot. -/

set_option linter.unusedSimpArgs false
set_option linter.unusedVariables false
namespace Sys2Proof.Machine

/-- Waiting for results changes no part of the core that a tick keeps. -/
theorem waitFor_pres {α} (g : Core → α) (hg : ∀ c : Core, g c.tick = g c) (ds n) (c : Core) : g (Core.waitFor ds n c) = g c := by
  induction n generalizing c with
  | zero => rfl
  | succ n ih => simp only [Core.waitFor]; split <;> simp [ih, hg]

/-- Setting an accumulator's overflow flag leaves the hold flag of a status. -/
theorem bit_setBit_low {w : W32} {n : Nat} {b : Bool} (h : n < 8) : bit (setBit w n b) 16 = bit w 16 := by
  interval_cases n <;> cases b <;> simp [bit, setBit, setFld]

/-- A landing changes only register files, accumulators, masks and the accumulators' overflow flags. -/
theorem land_pres {α} (g : Core → α)
    (hg : ∀ (c : Core) (s p v acc k st), bit st 16 = bit c.status 16 → g { c with s := s, p := p, v := v, acc := acc, k := k, status := st } = g c)
    (c : Core) (f : Flight) : g (c.land f) = g c := by
  unfold Core.land; split
  · split; · rfl
    · exact hg c _ c.p c.v c.acc c.k c.status rfl
  · exact hg c c.s _ c.v c.acc c.k c.status rfl
  · exact hg c c.s c.p _ c.acc c.k c.status rfl
  · exact hg c c.s c.p c.v _ c.k c.status rfl
  · refine hg c c.s c.p c.v _ c.k _ ?_
    split
    · rename_i h; exact bit_setBit_low h.2
    · rfl
  · split; · rfl
    · exact hg c c.s c.p c.v c.acc _ c.status rfl
  · rfl

/-- A tick changes only what landings change and the results in flight. -/
theorem tick_pres {α} (g : Core → α)
    (hg : ∀ (c : Core) (s p v acc k st fl), bit st 16 = bit c.status 16 →
      g { c with s := s, p := p, v := v, acc := acc, k := k, status := st, flight := fl } = g c) (c : Core) : g c.tick = g c := by
  have hf : ∀ (l : List Flight) (c : Core), g (l.foldl Core.land c) = g c := by
    intro l; induction l with
    | nil => intro c; rfl
    | cons a l ih => intro c; simp only [List.foldl_cons, ih]; exact land_pres g (fun c s p v acc k st h => hg c s p v acc k st c.flight h) c a
  unfold Core.tick; simp only [hf]; exact hg c c.s c.p c.v c.acc c.k c.status _ rfl

/-- The same of letting every result land. -/
theorem landAll_pres {α} (g : Core → α)
    (hg : ∀ (c : Core) (s p v acc k st fl), bit st 16 = bit c.status 16 →
      g { c with s := s, p := p, v := v, acc := acc, k := k, status := st, flight := fl } = g c) (c : Core) : g c.landAll = g c := by
  unfold Core.landAll; generalize 8 = n; induction n generalizing c with
  | zero => rfl
  | succ n ih => simp only [Core.tickN, ih, tick_pres g hg]

/-- Entering an exception handler (R110): the whole core after it. -/
theorem enter_eq (c : Core) (cause : W32) (bad : Option Nat) (off : W32) :
    c.enter cause bad off = entered c cause ((bad.map w32).getD c.badaddr) off := by
  simp only [Core.enter, entered, landAll_pres Core.badaddr (fun _ _ _ _ _ _ _ _ _ => rfl) c]
  by_cases h : c.landAll.pl = 0 <;> simp [h]

/-- Waiting leaves the hold flag. -/
theorem waitFor_hold (ds n) (c : Core) : bit (Core.waitFor ds n c).status 16 = bit c.status 16 :=
  waitFor_pres (fun c => bit c.status 16) (fun c => tick_pres (fun c => bit c.status 16) (fun _ _ _ _ _ _ _ _ h => h) c) ds n c

theorem waitFor_nil (n) (c : Core) : Core.waitFor [] n c = c := by
  cases n <;> simp [Core.waitFor]

/-- The state a bundle leaves that ran to its end: its core committed, the watchdog started anew by a write of `WDOG` (R113),
and its task completed by a `TDONE`. -/
def ended (t : State) (id : CoreId) (c c' : Core) (ctl : Ctl) : State :=
  let s3 := putCore t id.bench id.core (match ctl with
    | .csr 0x00F _ => { c' with wdAt := tickNow t }
    | _ => c')
  match ctl, c.task with
  | .tdone st, some i => complete s3 i st
  | _, _ => s3

/-- What issuing a bundle does on a core that finds it ready, in a hold region or not. -/
theorem issue_core {s id reads c hold} (x : Bundle) (v) (hr : reads = x.sI.reads ++ x.m0I.reads v ++ x.m1I.reads v ++ x.vI.reads v)
   (hv : v = (coreOf s id.bench id.core).tick.vIdx) (hh : hold = (bit (coreOf s id.bench id.core).tick.status 16 || decide (x.sI.fn = .irqHold)))
   (hc : c = if hold then (coreOf s id.bench id.core).tick else Core.waitFor reads 8 (coreOf s id.bench id.core).tick) :
   issue s id.bench id.core x nf = (match issueExc c x nf with
  | some e => takeExc (drawn s) id.bench id.core c e
  | none =>
    match evalS (drawn s) id.bench id.core c x.sI with
    | .error e => takeExc (drawn s) id.bench id.core c e
    | .ok so =>
      match runMs (drawn s) id.bench id.core hold c x with
      | .error (s2, c2, e) => takeExc s2 id.bench id.core c2 e
      | .ok (s2, o) =>
        match evalV c x.vI (Config.freeWord s.freeCtr).toNat with
        | .error e => takeExc (drawn s) id.bench id.core c e
        | .ok ov => ended s2 id c (c.commit x (o.append ov) so hold (pendingIrq (drawn s) id.bench id.core c).isSome
            (Config.freeWord (s.freeCtr+1)).toNat) so.ctl) := by
  subst hr hv hh hc
  rfl

/-- What issuing a bundle does on a core that finds it ready. -/
theorem issue_found {s id reads c} (h : Finds s id reads c) (x : Bundle) (v) (hr : reads = x.sI.reads ++ x.m0I.reads v ++ x.m1I.reads v ++ x.vI.reads v)
   (hv : v = (coreOf s id.bench id.core).tick.vIdx) (hn : x.sI.fn ≠ .irqHold) :
   issue s id.bench id.core x nf = (match issueExc c x nf with
  | some e => takeExc (drawn s) id.bench id.core c e
  | none =>
    match evalS (drawn s) id.bench id.core c x.sI with
    | .error e => takeExc (drawn s) id.bench id.core c e
    | .ok so =>
      match runMs (drawn s) id.bench id.core (bit c.status 16) c x with
      | .error (s2, c2, e) => takeExc s2 id.bench id.core c2 e
      | .ok (s2, o) =>
        match evalV c x.vI (Config.freeWord s.freeCtr).toNat with
        | .error e => takeExc (drawn s) id.bench id.core c e
        | .ok ov => ended s2 id c (c.commit x (o.append ov) so (bit c.status 16) (pendingIrq (drawn s) id.bench id.core c).isSome
            (Config.freeWord (s.freeCtr+1)).toNat) so.ctl) := by
  have e : bit c.status 16 = bit (coreOf s id.bench id.core).tick.status 16 := by
    rw [h.core]; split
    · rfl
    · exact waitFor_hold ..
  refine issue_core x v hr hv (by simp [e, hn]) ?_
  rw [e]
  exact h.core

/-- When a bundle meets no exception before it executes. -/
theorem issueExc_none {c : Core} {x : Bundle} (h1 : bit c.status 16 = true → c.holdN < 512) (hs : x.s0 = some i) (he : sIssueExc c i = none)
   (hm0 : x.m0.isSome) (hm1 : x.m1.isSome) (hv : x.v.isSome) (ht : twice (x.sI.writes ++ x.m0I.writes c.vIdx ++ x.m1I.writes c.vIdx ++ x.vI.writes c.vIdx) = false)
   (hp : preciseClash c.vIdx x = false) : issueExc c x false = none := by
  have a : ¬ (bit c.status 16 = true ∧ 512 ≤ c.holdN) := by intro ⟨p, q⟩; have := h1 p; omega
  have e : x.sI = i := by simp [Bundle.sI, hs]
  unfold issueExc
  simp only [a, hs, e] at *
  cases h : x.m0 <;> cases h' : x.m1 <;> cases h'' : x.v <;> simp_all

theorem sticky_status_zero : Sticky.status {} = 0#32 := by decide

theorem w32_or_zero (x : W32) : x ||| 0#32 = x := by simp

/-- What an S-slot row does on a core that finds it ready. -/
theorem runS_law {s id reads c i} (h : Finds s id reads c) (hr : reads = i.reads) (hn : i.fn ≠ .irqHold) (he : sIssueExc c i = none)
   (ht : twice i.writes = false) :
  runS id (some i) s = (match evalS (drawn s) id.bench id.core c i with
    | .error e => takeExc (drawn s) id.bench id.core c e
    | .ok so => ended (drawn s) id c (c.commit { s0 := some i } {} so (bit c.status 16) (pendingIrq (drawn s) id.bench id.core c).isSome
        (Config.freeWord (s.freeCtr+1)).toNat) so.ctl) := by
  unfold runS
  rw [if_pos h.runs, issue_found h { s0 := some i } _ (by simp [hr, Bundle.sI, Bundle.m0I, Bundle.m1I, Bundle.vI, MIns.reads, VIns.reads, vShape, kindDst, VFn.extract, VFn.readsD]) rfl hn]
  rw [issueExc_none h.room rfl he rfl rfl rfl (by simpa [Bundle.sI, Bundle.m0I, Bundle.m1I, Bundle.vI, MIns.writes, VIns.writes, vShape, kindDst] using ht) (by simp [preciseClash, Bundle.m0I, Bundle.m1I, MFn.precise])]
  have hm : runMs (drawn s) id.bench id.core (bit c.status 16) c { s0 := some i } = .ok (drawn s, {}) := by
    simp only [runMs, Bundle.m0I, Bundle.m1I, Option.getD, evalM, if_true]; rfl
  have hv : evalV c (Bundle.vI { s0 := some i }) (Config.freeWord s.freeCtr).toNat = .ok {} := by
    simp [Bundle.vI, evalV, VFn.eyelet]
  simp only [hm, hv]
  rfl

/-- The end of a bundle with only an S-slot instruction. -/
theorem commit_scalar (c : Core) (i so hold irq cyc) : c.commit { s0 := some i } {} so hold irq cyc =
   (let r := ((so.wr.foldl (Core.send hold) c).returns i).control irq (c.predict i) so.ctl
    let c3 := if bit r.1.status 16 then { r.1 with holdN := r.1.holdN + 1 } else r.1
    let r4 := if r.2.2 then (c3, r.2.1) else c3.loopEnd c.pc r.2.1
    let c5 := match so.ctl with
    | .csr n v => csrPut r4.1 n (if n = 0x005 then setFld r4.1.status 13 0 v.toNat else v)
    | _ => r4.1
    { c5 with pc := r4.2, status := c5.status ||| Sticky.status {}, cycle := c5.cycle + BitVec.ofNat 64 (1 + cyc % 2 ^ 20), pre := c.ahead r4.2 }) := by
  unfold Core.commit
  rw [show ({} : Out).wr = [] from rfl, List.append_nil]
  rfl

theorem send_frame (hold) (c : Core) (ws) : (List.foldl (Core.send hold) c ws) = { c with flight := (List.foldl (Core.send hold) c ws).flight } := by
  induction ws generalizing c with
  | nil => rfl
  | cons a l ih => simp only [List.foldl_cons]; rw [ih]; rfl

/-- Which prefetched bundles remain depends on the pc and the bundles prefetched alone. -/
theorem ahead_congr {c d : Core} (h1 : d.pc = c.pc) (h2 : d.pre = c.pre) (n : W32) : d.ahead n = c.ahead n := by
  simp only [Core.ahead, h1, h2]

/-- The stage predicates leave everything that does not name a mask or a result in flight. -/
theorem stages_pres {α} (g : Core → α) (hg : ∀ (c : Core) (k fl), g { c with k := k, flight := fl } = g c) (c : Core) : g c.stages = g c := by
  unfold Core.stages Core.dropStages
  split
  · rfl
  · exact hg c _ _

/-- The actions at a loop's end leave the pc and the bundles prefetched. -/
theorem loopEnd_pres {α} (g : Core → α)
    (hg : ∀ (c : Core) (k fl lc0 lc1 rrb lstg st), g { c with k := k, flight := fl, lc0 := lc0, lc1 := lc1, rrb := rrb, lstg := lstg, status := st } = g c)
    (c : Core) (a b : W32) : g (c.loopEnd a b).1 = g c := by
  have h1 : ∀ c : Core, g (c.loopEnd1 a b).1 = g c := by
    intro c; unfold Core.loopEnd1; dsimp only
    split
    · split
      · exact hg c c.k c.flight c.lc0 _ c.rrb c.lstg _
      · exact hg c c.k c.flight c.lc0 _ c.rrb c.lstg c.status
    · rfl
  unfold Core.loopEnd; dsimp only
  split
  · split
    · rw [h1]; split
      · exact hg c _ _ _ c.lc1 _ _ _
      · exact hg c c.k c.flight _ c.lc1 _ _ _
    · rw [stages_pres g (fun c k fl => hg c k fl c.lc0 c.lc1 c.rrb c.lstg c.status)]
      exact hg c c.k c.flight _ c.lc1 _ _ c.status
  · exact h1 c

/-- Sending results and counting a hold region's bundle leave the pc and the bundles prefetched. -/
theorem ran_pres {α} (g : Core → α) (hg : ∀ (c : Core) (fl hn), g { c with flight := fl, holdN := hn } = g c) (c : Core) (ws) : g (c.ran ws) = g c := by
  unfold Core.ran; dsimp only
  rw [send_frame]
  split
  · exact hg c _ _
  · exact hg c _ c.holdN

theorem moved_ahead (c : Core) (ws) (n : W32) : (c.moved ws).1.ahead n = c.ahead n := by
  refine ahead_congr ?_ ?_ n
  · exact (loopEnd_pres Core.pc (fun _ _ _ _ _ _ _ _ => rfl) ..).trans (ran_pres Core.pc (fun _ _ _ => rfl) c ws)
  · exact (loopEnd_pres Core.pre (fun _ _ _ _ _ _ _ _ => rfl) ..).trans (ran_pres Core.pre (fun _ _ _ => rfl) c ws)

/-- An S-slot row that only sends results. -/
theorem runS_plain {s id reads c i ws} (h : Finds s id reads c) (hr : reads = i.reads) (he : sIssueExc c i = none) (ht : twice i.writes = false)
   (hn : ∀ c : Core, c.returns i = c) (hh : i.fn ≠ .irqHold)
   (hs : evalS (drawn s) id.bench id.core c i = .ok { wr := ws }) : runS id (some i) s = plain s id c ws {} := by
  rw [runS_law h hr hh he ht, hs]
  simp only [ended, commit_scalar, hn, Core.control, plain, bundled, moved_ahead]
  simp only [Core.moved, Core.ran]
  rw [send_frame]; rfl

/-- An S-slot row by its control. -/
theorem runS_control {s id reads c i t} (h : Finds s id reads c) (hr : reads = i.reads) (hh : i.fn ≠ .irqHold) (he : sIssueExc c i = none)
   (ht : twice i.writes = false) (hs : evalS (drawn s) id.bench id.core c i = .ok { wr := ws, ctl := ct })
   (h3 : ended (drawn s) id c (c.commit { s0 := some i } {} { wr := ws, ctl := ct } (bit c.status 16) (pendingIrq (drawn s) id.bench id.core c).isSome (Config.freeWord (s.freeCtr+1)).toNat) ct = t) :
    runS id (some i) s = t := by
  rw [runS_law h hr hh he ht, hs, ← h3]

/-- A bundle that neither completes a task nor writes a control register leaves its core committed. -/
theorem ended_plain (t : State) (id : CoreId) (c c' : Core) {ct : Ctl} (h : ∀ st, ct ≠ .tdone st) (hc : ∀ v, ct ≠ .csr 0x00F v) :
    ended t id c c' ct = putCore t id.bench id.core c' := by
  cases ct <;> simp_all [ended]

/-- Waiting leaves the rotation of the vector registers. -/
theorem found_vIdx {s id reads c} (h : Finds s id reads c) : c.vIdx = (coreOf s id.bench id.core).tick.vIdx := by
  have : c.rrb = (coreOf s id.bench id.core).tick.rrb := by
    rw [h.core]; split; · rfl
    · exact waitFor_pres Core.rrb (fun c => tick_pres Core.rrb (fun _ _ _ _ _ _ _ _ _ => rfl) c) _ _ _
  funext n; simp [Core.vIdx, this]

/-- What an M-slot row does on a core that finds it ready. -/
theorem runM_law {s t id reads c i m1 o} (h : Finds s id reads c) (hr : reads = i.reads c.vIdx) (hl : i.legal = true)
   (he : evalM (drawn s) id.bench id.core c i (if m1 then 2 else 1) = .ok (t, o)) (ht : twice (i.writes c.vIdx) = false) :
   runM id m1 i s = bundled s t id (if i.fn.precise then c.precisely o.wr else c.moved o.wr) o.st := by
  unfold runM
  simp only [hl, if_true]
  rw [if_pos h.runs, issue_found h _ c.vIdx (by cases m1 <;> simp [hr, Bundle.sI, Bundle.m0I, Bundle.m1I, Bundle.vI, SIns.reads, MIns.reads, VIns.reads, vShape, kindDst, VFn.extract, VFn.readsD]) (found_vIdx h) (by cases m1 <;> simp [Bundle.sI])]
  rw [issueExc_none (i := { fn := .nop }) h.room (by cases m1 <;> rfl) rfl (by cases m1 <;> rfl) (by cases m1 <;> rfl) (by cases m1 <;> rfl) (by cases m1 <;> simpa [Bundle.sI, Bundle.m0I, Bundle.m1I, Bundle.vI, SIns.writes, MIns.writes, VIns.writes, vShape, kindDst] using ht) (by cases m1 <;> simp [preciseClash, Bundle.sI, Bundle.m0I, Bundle.m1I, Bundle.vI, MFn.precise, SIns.reads, MIns.reads, VIns.reads, vShape, kindDst, VFn.extract, VFn.readsD])]
  have hn : ∀ s k, evalM s id.bench id.core c { fn := .nop } k = .ok (s, {}) := by intro s k; rfl
  have hm : runMs (drawn s) id.bench id.core (bit c.status 16) c (if m1 then { m1 := some i } else { m0 := some i }) = .ok (t, o) := by
    cases m1
    · simp only [Bool.false_eq_true, if_false, runMs, Bundle.m0I, Bundle.m1I, Option.getD] at he ⊢
      rw [he]; simp only [hn]; simp [Out.append]
      cases o; rename_i wr st; cases st; simp [Sticky.or]
    · simp only [if_true, runMs, Bundle.m0I, Bundle.m1I, Option.getD] at he ⊢
      rw [hn]; simp only [he]
      simp [Out.append]; cases o; rename_i wr st; cases st; simp [Sticky.or]
  have hv : evalV c (Bundle.vI (if m1 then { m1 := some i } else { m0 := some i })) (Config.freeWord s.freeCtr).toNat = .ok {} := by
    cases m1 <;> simp [Bundle.vI, evalV, VFn.eyelet]
  have hs : evalS (drawn s) id.bench id.core c (Bundle.sI (if m1 then { m1 := some i } else { m0 := some i })) = .ok {} := by
    cases m1 <;> rfl
  rw [hm, hs]; simp only [hv]
  have ho : o.append {} = o := by cases o; rename_i wr st; cases st; simp [Out.append, Sticky.or]
  rw [ho, ended_plain _ _ _ _ (by simp) (by simp)]
  have hp1 : ((Bundle.m0I (if m1 then { m1 := some i } else { m0 := some i })).fn.precise || (Bundle.m1I (if m1 then { m1 := some i } else { m0 := some i })).fn.precise) = i.fn.precise := by
    cases m1 <;> simp [Bundle.m0I, Bundle.m1I, show MFn.nop.precise = false from rfl]
  have hp2 : (Bundle.vI (if m1 then { m1 := some i } else { m0 := some i })) = { fn := .nop } := by cases m1 <;> rfl
  have hp3 : (Bundle.sI (if m1 then { m1 := some i } else { m0 := some i })) = { fn := .nop } := by cases m1 <;> rfl
  have ha : ∀ n, (c.precisely o.wr).1.ahead n = c.ahead n := fun n => (ahead_congr rfl rfl n).trans (moved_ahead c o.wr n)
  simp only [Core.commit, hp1, hp2, hp3]
  cases hpr : i.fn.precise
  · simp only [bundled, moved_ahead, Bool.false_eq_true, if_false]
    simp only [Core.moved, Core.ran, Core.returns, Core.control, reduceCtorEq, if_false, false_and, Bool.false_eq_true, List.nil_append]; rw [send_frame]
  · simp only [bundled, ha, if_true]
    simp only [Core.precisely, Core.moved, Core.ran, Core.returns, Core.control, reduceCtorEq, if_false, false_and, Bool.false_eq_true, List.nil_append, if_true]; rw [send_frame]

/-- What a V-slot row does on a core that finds it ready. -/
theorem runV_law {s id reads c i o} (h : Finds s id reads c) (hr : reads = i.reads c.vIdx) (hl : i.legal = true)
   (he : evalV c i (Config.freeWord s.freeCtr).toNat = .ok o) (ht : twice (i.writes c.vIdx) = false) :
   runV id i s = bundled s (drawn s) id (if i.fn = .setvl then { (c.moved o.wr).1 with tail := setvlTail c i } else (c.moved o.wr).1, (c.moved o.wr).2) o.st := by
  unfold runV
  simp only [hl, if_true]
  rw [if_pos h.runs, issue_found h _ c.vIdx (by simp [hr, Bundle.sI, Bundle.m0I, Bundle.m1I, Bundle.vI, SIns.reads, MIns.reads]) (found_vIdx h) (by simp [Bundle.sI])]
  rw [issueExc_none (i := { fn := .nop }) h.room rfl rfl rfl rfl rfl (by simpa [Bundle.sI, Bundle.m0I, Bundle.m1I, Bundle.vI, SIns.writes, MIns.writes] using ht) (by simp [preciseClash, Bundle.m0I, Bundle.m1I, MFn.precise])]
  have hm : runMs (drawn s) id.bench id.core (bit c.status 16) c { v := some i } = .ok (drawn s, {}) := by
    simp only [runMs, Bundle.m0I, Bundle.m1I, Option.getD, evalM, if_true]; rfl
  have hs : evalS (drawn s) id.bench id.core c (Bundle.sI { v := some i }) = .ok {} := rfl
  rw [hm, hs]; simp only [show (Bundle.vI { v := some i }) = i from rfl, he]
  have ho : (Out.append {} o) = o := by cases o; rename_i wr st; cases st; simp [Out.append, Sticky.or]
  rw [ho, ended_plain _ _ _ _ (by simp) (by simp)]
  have ha : ∀ n, ((if i.fn = .setvl then { (c.moved o.wr).1 with tail := setvlTail c i } else (c.moved o.wr).1) : Core).ahead n = c.ahead n := by
    intro n; split
    · exact (ahead_congr rfl rfl n).trans (moved_ahead c o.wr n)
    · exact moved_ahead c o.wr n
  simp only [Core.commit, show (Bundle.vI { v := some i }) = i from rfl, show (Bundle.sI { v := some i }) = { fn := .nop } from rfl, show (Bundle.m0I { v := some i }).fn.precise = false from rfl, show (Bundle.m1I { v := some i }).fn.precise = false from rfl]
  simp only [bundled, ha]
  simp only [Core.moved, Core.ran, Core.returns, Core.control, reduceCtorEq, if_false, false_and, Bool.false_eq_true, List.nil_append, Bool.or_self]
  rw [send_frame]
  by_cases hsv : i.fn = .setvl
  · simp only [hsv, if_true]
  · simp only [hsv, if_false]

/-- A V-slot row that only sends results. -/
theorem runV_plain {s id reads c i o} (h : Finds s id reads c) (hr : reads = i.reads c.vIdx) (hl : i.legal = true)
   (he : evalV c i (Config.freeWord s.freeCtr).toNat = .ok o) (ht : twice (i.writes c.vIdx) = false) (hn : i.fn ≠ .setvl) :
   runV id i s = plain s id c o.wr o.st := by
  rw [runV_law h hr hl he ht, if_neg hn]; rfl

theorem memForm_addr (c : Core) (f r p k : Nat) (fn) (upd : Fin 4) (imm : BitVec 12) (inc : Fin 32) {ad}
   (h : c.addr p upd imm.toInt (c.rs inc).toInt = some ad) :
   c.addr (memForm fn r p upd k imm inc).p (memForm fn r p upd k imm inc).upd (memForm fn r p upd k imm inc).imm (c.rs (memForm fn r p upd k imm inc).inc).toInt = some ad := by
  rw [← h]; unfold memForm; split
  · rename_i h2; simp only [h2, Core.addr]
  · rename_i h2; simp only [Core.addr]; split <;> (split <;> first | rfl | simp_all)

theorem memForm_fn (fn r p upd k imm inc) : (memForm fn r p upd k imm inc).fn = fn := by unfold memForm; split <;> rfl

theorem memForm_r (fn r p upd k imm inc) : (memForm fn r p upd k imm inc).r = r := by unfold memForm; split <;> rfl

theorem memForm_p (fn r p upd k imm inc) : (memForm fn r p upd k imm inc).p = p := by unfold memForm; split <;> rfl

theorem memForm_k (fn r p upd k imm inc) : (memForm fn r p upd k imm inc).k = k := by unfold memForm; split <;> rfl

theorem memForm_upd (fn r p upd k imm inc) : (memForm fn r p upd k imm inc).upd = upd := by unfold memForm; split <;> simp_all

theorem addr_none {c : Core} {p upd : Nat} {imm inc : Int} {ad} (h : c.addr p upd imm inc = some ad) (hu : ad.upd = none) : ad.adj = false := by
  unfold Core.addr at h; simp only [] at h
  split at h
  · split at h <;> simp_all <;> (subst h; simp_all)
  · split at h
    · cases h; rfl
    · cases h; simp at hu
    · cases h; simp at hu
    · split at h <;> simp_all; subst h; simp_all

/-- The pointer a load or store writes back. -/
theorem updOut_eq {c : Core} {p upd : Nat} {imm inc : Int} {ad} (h : c.addr p upd imm inc = some ad) (i : MIns) (hp : i.p = p) : updOut i ad = { wr := stepped p ad, st := { adj := ad.adj } } := by
  unfold updOut stepped; split <;> simp_all
  exact addr_none h (by assumption)

theorem inc_reads (fn r p k) (upd : Nat) (imm : BitVec 12) (inc) : (if (memForm fn r p upd k imm inc).upd = 2 then [Dst.s (memForm fn r p upd k imm inc).inc] else []) = if upd = 2 then [Dst.s inc] else [] := by
  rw [memForm_upd]; split <;> simp_all [memForm]


/-- A load or store row with a pointer. -/
theorem mem_run {s t id reads c fn r p k m1 ws ad} {upd : Fin 4} {imm : BitVec 12} {inc : Fin 32} (h : Finds s id reads c)
   (hr : reads = (memForm fn r p upd k imm inc).reads c.vIdx) (hl : (memForm fn r p upd k imm inc).legal = true) (hp : fn.precise = false)
   (he : evalM (drawn s) id.bench id.core c (memForm fn r p upd k imm inc) (if m1 then 2 else 1) = .ok (t, { wr := ws ++ stepped p ad, st := { adj := ad.adj } }))
   (ht : twice ((memForm fn r p upd k imm inc).writes c.vIdx) = false) :
   runM id m1 (memForm fn r p upd k imm inc) s = bundled s t id (c.moved (ws ++ stepped p ad)) { adj := ad.adj } := by
  rw [runM_law h hr hl he ht, if_neg (by rw [memForm_fn]; simp [hp])]

/-- What a load or store row evaluates to. -/
theorem memForm_eval {s : State} {b m c fn r p k slot ad} {upd : Fin 4} {imm : BitVec 12} {inc : Fin 32} (ha : c.addr p upd imm.toInt (c.rs inc).toInt = some ad)
   (hn : fn ≠ .nop) (hp : fn.precise = false) (ho : fn.masked = true → c.actives k 32 ≠ []) :
   evalM s b m c (memForm fn r p upd k imm inc) slot = (match fn with
        | .ldv | .stv | .ldvBc => evalVecM s b m c (memForm fn r p upd k imm inc) slot ad (c.actives k 32)
        | .lda | .sta => evalAccM s b m c (memForm fn r p upd k imm inc) slot ad
        | _ => evalScalarM s b m c (memForm fn r p upd k imm inc) slot ad) := by
  have h1 := memForm_addr c 0 r p k fn upd imm inc ha
  unfold evalM
  simp only [memForm_fn, memForm_k] at h1 ⊢
  rw [if_neg hn, if_neg (by simp [hp]), if_neg (by rintro ⟨h2, h3⟩; exact ho h2 (by simpa using h3)), h1] <;> rfl

end Sys2Proof.Machine
end

