-- ==== Sys2Proof/Laws/Kept.lean ====
section
/-! SUPPORT. What every operation of the model keeps, as one relation between states that composes. -/

namespace Sys2Proof.Machine

/-- What every operation keeps: the variant, the queue of commands, the canonical forms, the bounds of the sinks and one
executing command per stream. -/
structure Kept (s t : State) : Prop where
  variant : t.variant = s.variant
  pending : t.pending = s.pending
  dom : s.dom.length = 39 → t.dom.length = 39
  regs : keysRise s.regs = true → keysRise t.regs = true
  mem : s.mem.wf = true → t.mem.wf = true
  pn : PnOk s.pn → PnOk t.pn
  fuse : FuseUp s.boot t.boot

theorem FuseUp.refl (b : Boot) : FuseUp b b := ⟨Nat.le_refl _, fun _ h => h⟩

theorem FuseUp.trans {a b c : Boot} (h : FuseUp a b) (k : FuseUp b c) : FuseUp a c :=
  ⟨Nat.le_trans h.1 k.1, fun x e => k.2 x (h.2 x e)⟩

theorem Kept.refl (s : State) : Kept s s := ⟨rfl, rfl, id, id, id, id, FuseUp.refl _⟩

theorem Kept.trans {a b c : State} (h : Kept a b) (k : Kept b c) : Kept a c :=
  ⟨k.variant.trans h.variant, k.pending.trans h.pending, fun x => k.dom (h.dom x), fun x => k.regs (h.regs x), fun x => k.mem (h.mem x), fun x => k.pn (h.pn x), h.fuse.trans k.fuse⟩

/-- A state that differs only in parts that the relation does not look at. -/
theorem Kept.same {a b c : State} (h : Kept a b) (e1 : c.variant = b.variant) (e2 : c.pending = b.pending) (e3 : c.dom = b.dom)
    (e4 : c.regs = b.regs) (e5 : c.mem = b.mem) (e6 : c.pn = b.pn) (e7 : c.boot = b.boot) : Kept a c :=
  h.trans ⟨e1, e2, fun x => by rw [e3]; exact x, fun x => by rw [e4]; exact x, fun x => by rw [e5]; exact x, fun x => by rw [e6]; exact x, by rw [e7]; exact FuseUp.refl _⟩

theorem kept_mk {s0 s : State} (h : Kept s0 s) (f a t th st de qu hb dm co go fh la re rk ho lc fa cs sh cm jo lo po rs rd) :
    Kept s0 (State.mk s.variant s.pending f a s.regs t s.mem s.pn s.dom th st de s.boot qu hb dm co go fh la re rk ho lc fa cs sh cm jo lo po rs rd) :=
  h.same rfl rfl rfl rfl rfl rfl rfl

theorem kept_mk_iff {s0 s : State} (f a t th st de qu hb dm co go fh la re rk ho lc fa cs sh cm jo lo po rs rd) :
    Kept s0 (State.mk s.variant s.pending f a s.regs t s.mem s.pn s.dom th st de s.boot qu hb dm co go fh la re rk ho lc fa cs sh cm jo lo po rs rd) ↔ Kept s0 s :=
  ⟨fun h => h.same rfl rfl rfl rfl rfl rfl rfl, fun h => kept_mk h ..⟩

theorem kept_foldl {α : Type} {s0 : State} (f : State → α → State) (hf : ∀ s x, Kept s0 s → Kept s0 (f s x)) :
    ∀ (l : List α) {s : State}, Kept s0 s → Kept s0 (l.foldl f s)
  | [], _, h => h
  | x :: l, _, h => kept_foldl f hf l (hf _ x h)

theorem kept_ite {s0 a b : State} {c : Prop} [Decidable c] (ha : Kept s0 a) (hb : Kept s0 b) : Kept s0 (if c then a else b) := by
  split
  · exact ha
  · exact hb

/-- The same of the state in a pair, in the result of a command's body, and in the results of Shank rows and FFT symbols. -/
def KeptP {α : Type} (s0 : State) (p : State × α) : Prop := Kept s0 p.1
def KeptQ {α : Type} (s0 : State) (p : α × State) : Prop := Kept s0 p.2
def KeptD (s0 : State) (d : Done) : Prop := Kept s0 d.st
def KeptH (s0 : State) (d : ShOut) : Prop := Kept s0 d.st
def KeptF (s0 : State) (d : FftRun) : Prop := Kept s0 d.st

theorem KeptP.one {α : Type} {s0 : State} {p : State × α} (h : KeptP s0 p) : Kept s0 p.1 := h
theorem KeptQ.one {α : Type} {s0 : State} {p : α × State} (h : KeptQ s0 p) : Kept s0 p.2 := h
theorem KeptD.one {s0 : State} {p : Done} (h : KeptD s0 p) : Kept s0 p.st := h
theorem KeptH.one {s0 : State} {p : ShOut} (h : KeptH s0 p) : Kept s0 p.st := h
theorem KeptF.one {s0 : State} {p : FftRun} (h : KeptF s0 p) : Kept s0 p.st := h

theorem keptP_ite {α : Type} {s0 : State} {a b : State × α} {c : Prop} [Decidable c] (ha : KeptP s0 a) (hb : KeptP s0 b) : KeptP s0 (if c then a else b) := by
  split
  · exact ha
  · exact hb

theorem keptQ_ite {α : Type} {s0 : State} {a b : α × State} {c : Prop} [Decidable c] (ha : KeptQ s0 a) (hb : KeptQ s0 b) : KeptQ s0 (if c then a else b) := by
  split
  · exact ha
  · exact hb

theorem keptD_ite {s0 : State} {a b : Done} {c : Prop} [Decidable c] (ha : KeptD s0 a) (hb : KeptD s0 b) : KeptD s0 (if c then a else b) := by
  split
  · exact ha
  · exact hb

theorem keptH_ite {s0 : State} {a b : ShOut} {c : Prop} [Decidable c] (ha : KeptH s0 a) (hb : KeptH s0 b) : KeptH s0 (if c then a else b) := by
  split
  · exact ha
  · exact hb

theorem keptF_ite {s0 : State} {a b : FftRun} {c : Prop} [Decidable c] (ha : KeptF s0 a) (hb : KeptF s0 b) : KeptF s0 (if c then a else b) := by
  split
  · exact ha
  · exact hb

theorem keptP_mk {α : Type} {s0 a : State} {b : α} (h : Kept s0 a) : KeptP s0 (a, b) := h
theorem keptQ_mk {α : Type} {s0 a : State} {b : α} (h : Kept s0 a) : KeptQ s0 (b, a) := h
theorem keptD_mk {s0 s : State} {a b c} (h : Kept s0 s) : KeptD s0 (Done.mk s a b c) := h
theorem keptH_mk {s0 s : State} {a b c d e} (h : Kept s0 s) : KeptH s0 (ShOut.mk s a b c d e) := h
theorem keptF_mk {s0 s : State} {a b c d e} (h : Kept s0 s) : KeptF s0 (FftRun.mk s a b c d e) := h
theorem kept_done {s0 s : State} (h : Kept s0 s) {st : Status} : KeptD s0 (done s st) := h
theorem kept_doneW {s0 s : State} (h : Kept s0 s) {ws : List W32} : KeptD s0 (doneW s ws) := h
theorem kept_holding {s0 s : State} (h : Kept s0 s) : KeptD s0 (holding s) := h
theorem KeptP.eq {α : Type} {s0 t : State} {p : State × α} {y : α} (h : KeptP s0 p) (e : p = (t, y)) : Kept s0 t := by rw [e] at h; exact h
theorem KeptQ.eq {α : Type} {s0 t : State} {p : α × State} {y : α} (h : KeptQ s0 p) (e : p = (y, t)) : Kept s0 t := by rw [e] at h; exact h

theorem keptP_foldl {α β : Type} {s0 : State} (f : State × β → α → State × β) (hf : ∀ p x, KeptP s0 p → KeptP s0 (f p x)) :
    ∀ (l : List α) {p : State × β}, KeptP s0 p → KeptP s0 (l.foldl f p)
  | [], _, h => h
  | x :: l, _, h => keptP_foldl f hf l (hf _ x h)

theorem keptF_foldl {α : Type} {s0 : State} (f : FftRun → α → FftRun) (hf : ∀ p x, KeptF s0 p → KeptF s0 (f p x)) :
    ∀ (l : List α) {p : FftRun}, KeptF s0 p → KeptF s0 (l.foldl f p)
  | [], _, h => h
  | x :: l, _, h => keptF_foldl f hf l (hf _ x h)

theorem kept_setPn {s0 s : State} (h : Kept s0 s) (f : Pennant → Pennant) (e : PnOk s.pn → PnOk (f s.pn)) : Kept s0 (setPn s f) :=
  h.trans ⟨rfl, rfl, id, id, id, e, FuseUp.refl _⟩

theorem kept_mem {s0 s : State} (h : Kept s0 s) (m : Memory) (e : s.mem.wf = true → m.wf = true) : Kept s0 { s with mem := m } :=
  h.trans ⟨rfl, rfl, id, id, e, id, FuseUp.refl _⟩

theorem kept_wr {s0 s : State} (h : Kept s0 s) (r : Reg) (u i : Nat) (v : W32) : Kept s0 (wr s r u i v) :=
  h.trans ⟨rfl, rfl, id, fun x => keysRise_putKey _ _ x, id, id, FuseUp.refl _⟩

theorem kept_setDom {s0 s : State} (h : Kept s0 s) (d : Nat) (f : Domain → Domain) : Kept s0 (setDom s d f) :=
  h.trans ⟨rfl, rfl, fun x => (modNth_length _ _ _).trans x, id, id, id, FuseUp.refl _⟩

theorem kept_setSink {s0 s : State} (h : Kept s0 s) (k : SinkId) (b : Sink) (e : PnOk s.pn → SinkOk b) : Kept s0 (setSink s k b) := by
  cases k
  · exact h.trans ⟨rfl, rfl, id, id, id, fun x => ⟨e x, x.2, x.3, x.4⟩, FuseUp.refl _⟩
  · exact h.trans ⟨rfl, rfl, id, id, id, fun x => ⟨x.1, e x, x.3, x.4⟩, FuseUp.refl _⟩
  · exact h.trans ⟨rfl, rfl, id, id, id, fun x => ⟨x.1, x.2, e x, x.4⟩, FuseUp.refl _⟩

theorem PnOk.sink {s : State} (h : PnOk s.pn) (k : SinkId) : SinkOk (sinkOf s k) := by
  cases k
  · exact h.1
  · exact h.2
  · exact h.3

theorem removeFirst_sublist {α : Type} (p : α → Bool) : ∀ l : List α, (removeFirst p l).Sublist l
  | [] => List.Sublist.slnil
  | x :: l => by
    unfold removeFirst
    split
    · exact List.sublist_cons_self x l
    · exact (removeFirst_sublist p l).cons_cons x

theorem PnOk.sub {p q : Pennant} (h : PnOk p) (e1 : q.pcieSink = p.pcieSink) (e2 : q.i3cSink = p.i3cSink) (e3 : q.laceSink = p.laceSink)
    (e4 : q.held.Sublist p.held) : PnOk q :=
  ⟨e1 ▸ h.1, e2 ▸ h.2, e3 ▸ h.3, h.4.sublist (e4.map _)⟩

theorem kept_boot {s0 s : State} (h : Kept s0 s) (b : Boot) (e : FuseUp s.boot b) : Kept s0 { s with boot := b } :=
  h.trans ⟨rfl, rfl, id, id, id, id, e⟩

theorem kept_regsFilter {s0 s : State} (h : Kept s0 s) (p : Nat × W32 → Bool) : Kept s0 { s with regs := s.regs.filter p } :=
  h.trans ⟨rfl, rfl, id, fun x => keysRise_filter _ x, id, id, FuseUp.refl _⟩

end Sys2Proof.Machine
end

