-- ==== Sys2Proof/Laws/KeptOps.lean ====
section
/-! SUPPORT. What each operation of Machine/Ops.lean keeps. -/

set_option linter.unreachableTactic false
set_option linter.unusedTactic false
set_option linter.unusedSimpArgs false
set_option linter.unusedVariables false

namespace Sys2Proof.Machine

theorem kept_wrF {s0 s : State} (h : Kept s0 s) : ∀ x0 x1 x2 x3 x4 x5, Kept s0 (wrF s x0 x1 x2 x3 x4 x5) := by
  intro x0 x1 x2 x3 x4 x5
  unfold wrF
  repeat' first | (with_reducible assumption) | (with_reducible apply kept_wr)

theorem kept_wrB {s0 s : State} (h : Kept s0 s) : ∀ x0 x1 x2 x3 x4, Kept s0 (wrB s x0 x1 x2 x3 x4) := by
  intro x0 x1 x2 x3 x4
  unfold wrB
  repeat' first | (with_reducible assumption) | (with_reducible apply kept_wr)

theorem kept_wr64 {s0 s : State} (h : Kept s0 s) : ∀ x0 x1 x2 x3, Kept s0 (wr64 s x0 x1 x2 x3) := by
  intro x0 x1 x2 x3
  unfold wr64
  repeat' first | (with_reducible assumption) | (with_reducible apply kept_wr)

theorem kept_bump {s0 s : State} (h : Kept s0 s) : ∀ x0 x1 x2 x3, Kept s0 (bump s x0 x1 x2 x3) := by
  intro x0 x1 x2 x3
  unfold bump
  repeat' first | (with_reducible assumption) | (with_reducible apply kept_wr64)

theorem kept_drawFree {s0 s : State} (h : Kept s0 s) : KeptQ s0 (drawFree s) := by
  unfold drawFree
  apply keptQ_mk
  repeat' first | (with_reducible assumption) | simp only [kept_mk_iff]

theorem kept_latch {s0 s : State} (h : Kept s0 s) : ∀ x0 x1 x2 x3, KeptP s0 (latch s x0 x1 x2 x3) := by
  intro x0 x1 x2 x3
  unfold latch
  extract_lets -merge -useContext -underBinder old_1 s1_2 s2_3 en_4
  try clear_value old_1
  have h_s1_2 : Kept s0 s1_2 := by
    unfold s1_2
    repeat' first | (with_reducible assumption) | (with_reducible apply kept_wr)
  try clear_value s1_2
  have h_s2_3 : Kept s0 s2_3 := by
    unfold s2_3
    split
    · assumption
    · repeat' first | (with_reducible assumption) | (with_reducible apply kept_wr)
  try clear_value s2_3
  try clear_value en_4
  apply keptP_mk
  assumption

theorem kept_ibiEvent {s0 s : State} (h : Kept s0 s) : ∀ x0, Kept s0 (ibiEvent s x0) := by
  intro x0
  unfold ibiEvent
  extract_lets -merge -useContext -underBinder __src_1
  apply kept_ite
  · repeat' first | (with_reducible assumption) | simp only [kept_mk_iff]
  · assumption

theorem kept_offer {s0 s : State} (h : Kept s0 s) (k : SinkId) (ev : Event) : KeptP s0 (offer s k ev) := by
  unfold offer
  dsimp only
  split
  · rename_i hl
    apply keptP_mk
    refine kept_ibiEvent (kept_setSink h k _ fun _ => ?_) _
    simp only [SinkOk, List.length_append, List.length_singleton]; omega
  · apply keptP_mk
    refine kept_bump (kept_setSink h k _ ?_) _ _ _ _
    exact fun x => x.sink k

theorem kept_offerAll {s0 s : State} (h : Kept s0 s) : ∀ x0 x1, KeptP s0 (offerAll s x0 x1) := by
  intro x0 x1
  induction x1 generalizing s x0 with
  | nil =>
    unfold offerAll
    apply keptP_mk
    assumption
  | cons y ys ih =>
    unfold offerAll
    split
    · rename_i a0_1 a1_1 e_1
      have h_a0_1 : Kept s0 a0_1 := by
        apply KeptP.eq (e := e_1)
        repeat' first | (with_reducible assumption) | (with_reducible apply ih) | (with_reducible apply kept_offer)
      clear e_1
      split
      · rename_i a0_2 a1_2 e_2
        have h_a0_2 : Kept s0 a0_2 := by
          apply KeptP.eq (e := e_2)
          repeat' first | (with_reducible assumption) | (with_reducible apply ih)
        clear e_2
        apply keptP_mk
        repeat' first | (with_reducible assumption) | (with_reducible apply ih)

theorem kept_emitN {s0 s : State} (h : Kept s0 s) : ∀ x0 x1 x2, Kept s0 (emitN x0 s x1 x2) := by
  intro x0 x1 x2
  induction x0 generalizing s x1 x2 with
  | zero =>
    unfold emitN
    assumption
  | succ n ih =>
    unfold emitN
    extract_lets -merge -useContext -underBinder seq_1 s1_2
    try clear_value seq_1
    have h_s1_2 : Kept s0 s1_2 := by
      unfold s1_2
      repeat' first | (with_reducible assumption) | (with_reducible apply ih) | (with_reducible apply kept_wr)
    try clear_value s1_2
    split
    · rename_i a0_3 a1_3 e_3
      have h_a0_3 : Kept s0 a0_3 := by
        apply KeptP.eq (e := e_3)
        repeat' first | (with_reducible assumption) | (with_reducible apply ih) | (with_reducible apply kept_offerAll) | simp only [kept_mk_iff]
      clear e_3
      apply kept_ite
      · split
        · rename_i a0_4 a1_4 e_4
          have h_a0_4 : Kept s0 a0_4 := by
            apply KeptP.eq (e := e_4)
            repeat' first | (with_reducible assumption) | (with_reducible apply ih) | (with_reducible apply kept_latch)
          clear e_4
          apply kept_ite
          · repeat' first | (with_reducible assumption) | (with_reducible apply ih)
          · repeat' first | (with_reducible assumption) | (with_reducible apply ih)
      · repeat' first | (with_reducible assumption) | (with_reducible apply ih)

theorem kept_emit {s0 s : State} (h : Kept s0 s) : ∀ x0 x1, Kept s0 (emit s x0 x1) := by
  intro x0 x1
  unfold emit
  repeat' first | (with_reducible assumption) | (with_reducible apply kept_emitN)

theorem kept_raiseI {s0 s : State} (h : Kept s0 s) : ∀ x0 x1 x2 x3, Kept s0 (raiseI s x0 x1 x2 x3) := by
  intro x0 x1 x2 x3
  unfold raiseI
  apply kept_ite
  · assumption
  · split
    · rename_i a0_1 a1_1 e_1
      have h_a0_1 : Kept s0 a0_1 := by
        apply KeptP.eq (e := e_1)
        repeat' first | (with_reducible assumption) | (with_reducible apply kept_latch)
      clear e_1
      extract_lets -merge -useContext -underBinder c_2
      try clear_value c_2
      apply kept_ite
      · assumption
      · repeat' first | (with_reducible assumption) | (with_reducible apply kept_emit)

theorem kept_raise {s0 s : State} (h : Kept s0 s) : ∀ x0 x1 x2, Kept s0 (raise s x0 x1 x2) := by
  intro x0 x1 x2
  unfold raise
  repeat' first | (with_reducible assumption) | (with_reducible apply kept_raiseI)

theorem kept_raiseIf {s0 s : State} (h : Kept s0 s) : ∀ x0 x1 x2 x3, Kept s0 (raiseIf x0 s x1 x2 x3) := by
  intro x0 x1 x2 x3
  unfold raiseIf
  apply kept_ite
  · repeat' first | (with_reducible assumption) | (with_reducible apply kept_raise)
  · assumption

theorem kept_setHost {s0 s : State} (h : Kept s0 s) : ∀ x0, Kept s0 (setHost s x0) := by
  intro x0
  unfold setHost
  repeat' first | (with_reducible assumption) | simp only [kept_mk_iff]

theorem kept_cqWrite {s0 s : State} (h : Kept s0 s) : ∀ x0 x1 x2, Kept s0 (cqWrite s x0 x1 x2) := by
  intro x0 x1 x2
  unfold cqWrite
  extract_lets -merge -useContext -underBinder tail_1 phase_2 s1_3
  try clear_value tail_1
  try clear_value phase_2
  have h_s1_3 : Kept s0 s1_3 := by
    unfold s1_3
    repeat' first | (with_reducible assumption) | (with_reducible apply kept_setHost) | (with_reducible apply kept_ite) | simp only [kept_mk_iff] | split | dsimp only | intro _ _ _ | (with_reducible apply keptP_mk) | (with_reducible apply keptQ_mk)
  try clear_value s1_3
  repeat' first | (with_reducible assumption) | (with_reducible apply kept_wr)

theorem kept_cqDrainN {s0 s : State} (h : Kept s0 s) : ∀ x0 x1, Kept s0 (cqDrainN x0 s x1) := by
  intro x0 x1
  induction x0 generalizing s x1 with
  | zero =>
    unfold cqDrainN
    assumption
  | succ n ih =>
    unfold cqDrainN
    split
    · repeat' first | (with_reducible assumption) | (with_reducible apply ih)
    · extract_lets -merge -useContext -underBinder s1_1
      have h_s1_1 : Kept s0 s1_1 := by
        unfold s1_1
        repeat' first | (with_reducible assumption) | (with_reducible apply ih) | (with_reducible apply kept_setHost) | (with_reducible apply KeptP.one) | simp only [kept_mk_iff]
      try clear_value s1_1
      apply kept_ite
      · repeat' first | (with_reducible assumption) | (with_reducible apply ih)
      · repeat' first | (with_reducible assumption) | (with_reducible apply ih) | (with_reducible apply kept_cqWrite) | (with_reducible apply kept_ite) | (with_reducible apply KeptP.one) | (with_reducible apply KeptQ.one) | split

theorem kept_cqDrain {s0 s : State} (h : Kept s0 s) : ∀ x0, Kept s0 (cqDrain s x0) := by
  intro x0
  unfold cqDrain
  repeat' first | (with_reducible assumption) | (with_reducible apply kept_cqDrainN)

theorem kept_cqPost {s0 s : State} (h : Kept s0 s) : ∀ x0 x1 x2, Kept s0 (cqPost s x0 x1 x2) := by
  intro x0 x1 x2
  unfold cqPost
  repeat' first | (with_reducible assumption) | (with_reducible apply kept_cqDrain) | (with_reducible apply kept_setHost) | simp only [kept_mk_iff] | dsimp only | intro _ _ _ | (with_reducible apply keptP_mk) | (with_reducible apply keptQ_mk)

theorem kept_subDrainN {s0 : State} : ∀ (n : Nat) {s : State}, Kept s0 s → ∀ p, Kept s0 (subDrainN n s p)
  | 0, _, h, _ => h
  | n + 1, s, h, p => by
    unfold subDrainN
    split
    · exact h
    · split
      · exact h
      · exact kept_subDrainN n (kept_ite (kept_setHost h _) (kept_cqPost (kept_setHost h _) ..)) _

theorem kept_subDrain {s0 s : State} (h : Kept s0 s) (p : Nat) : Kept s0 (subDrain s p) := kept_subDrainN _ h _

theorem kept_cqReply {s0 s : State} (h : Kept s0 s) : ∀ x0, Kept s0 (cqReply s x0) := by
  intro x0
  unfold cqReply
  split
  · rename_i a_1 e_2
    repeat' first | (with_reducible assumption)
  · rename_i a_3 a_4 e_5
    extract_lets -merge -useContext -underBinder pk_6 n_7 buf_8 w0_9 ws_10 s1_11
    try clear_value pk_6
    try clear_value n_7
    try clear_value buf_8
    try clear_value w0_9
    try clear_value ws_10
    have h_s1_11 : Kept s0 s1_11 := by
      unfold s1_11
      repeat' first | (with_reducible assumption) | (with_reducible apply kept_setHost) | (with_reducible apply keptP_mk) | (with_reducible apply keptQ_mk)
    try clear_value s1_11
    apply kept_subDrain
    apply kept_ite
    · repeat' first | (with_reducible assumption)
    · repeat' first | (with_reducible assumption) | (with_reducible apply kept_cqPost)

theorem kept_setLace {s0 s : State} (h : Kept s0 s) (f : Lace → Lace) : Kept s0 (setLace s f) := kept_mk h ..

theorem kept_laceMsg {s0 s : State} (h : Kept s0 s) (k d : Nat) (ws : List W32) : Kept s0 (laceMsg s k d ws) := kept_setLace h _

theorem kept_laceReply {s0 s : State} (h : Kept s0 s) (q : Req) (r : Reply) : Kept s0 (laceReply s q r) := by
  unfold laceReply
  split
  · exact h
  · exact kept_foldl _ (fun _ _ k => kept_laceMsg k ..) _ (h.trans ⟨rfl, rfl, id, id, id, fun p => ⟨p.1, p.2, p.3, p.4⟩, FuseUp.refl _⟩)

theorem kept_reply {s0 s : State} (h : Kept s0 s) (op : Nat) (q : Req) (st : Status) (ws : List W32) : Kept s0 (reply s op q st ws) := by
  unfold reply
  extract_lets viaI3c tooLong st1 r s1 s2 p3 s3
  have h3 : Kept s0 s3 := by
    have h1 : Kept s0 s1 := kept_bump h ..
    have h2 : Kept s0 s2 := by
      show Kept s0 (if st1 = .ok then s1 else bump s1 R.pnCount 0 1 1)
      split
      · exact h1
      · exact kept_bump h1 ..
    exact h2.trans ⟨rfl, rfl, id, id, id, fun p => ⟨p.1, p.2, p.3, p.4⟩, FuseUp.refl _⟩
  clear_value s3
  split
  · exact kept_setHost h3 _
  · split
    · exact kept_laceReply h3 ..
    · split
      · split
        · exact h3
        · exact kept_boot h3 _ ⟨Nat.le_refl _, fun _ h => h⟩
      · exact kept_cqReply h3 _

end Sys2Proof.Machine
end

