-- ==== Sys2Proof/Laws/KeptCommit.lean ====
section
/-! SUPPORT. What each operation of Machine/Commit.lean keeps. -/

set_option linter.unreachableTactic false
set_option linter.unusedTactic false
set_option linter.unusedSimpArgs false
set_option linter.unusedVariables false

namespace Sys2Proof.Machine

theorem kept_emitCommit {s0 s : State} (h : Kept s0 s) : ∀ x0 x1 x2 x3 x4 x5, Kept s0 (emitCommit s x0 x1 x2 x3 x4 x5) := by
  intro x0 x1 x2 x3 x4 x5
  unfold emitCommit
  repeat' first | (with_reducible assumption) | (with_reducible apply kept_emit) | simp only [kept_mk_iff] | dsimp only | intro _ _ _ | (with_reducible apply keptP_mk) | (with_reducible apply keptQ_mk)

theorem kept_refuseCommit {s0 s : State} (h : Kept s0 s) : ∀ x0 x1, Kept s0 (refuseCommit s x0 x1) := by
  intro x0 x1
  unfold refuseCommit
  extract_lets -merge -useContext -underBinder s1_1
  have h_s1_1 : Kept s0 s1_1 := by
    unfold s1_1
    repeat' first | (with_reducible assumption) | (with_reducible apply kept_setPn) | exact fun h => ⟨h.1, h.2, h.3, h.4⟩ | simp only [kept_mk_iff]
  try clear_value s1_1
  repeat' first | (with_reducible assumption) | (with_reducible apply kept_emitCommit)

theorem kept_refuseAll {s0 s : State} (h : Kept s0 s) : ∀ x0 x1, Kept s0 (refuseAll s x0 x1) := by
  intro x0 x1
  induction x1 generalizing s x0 with
  | nil =>
    unfold refuseAll
    assumption
  | cons y ys ih =>
    unfold refuseAll
    repeat' first | (with_reducible assumption) | (with_reducible apply ih) | (with_reducible apply kept_refuseCommit)

theorem kept_stage {s0 s : State} (h : Kept s0 s) : ∀ x0, KeptP s0 (stage s x0) := by
  intro x0
  unfold stage
  apply keptP_ite
  · apply keptP_mk
    assumption
  · apply keptP_ite
    · apply keptP_mk
      assumption
    · apply keptP_mk
      repeat' first | (with_reducible assumption) | (with_reducible apply kept_setPn) | exact fun h => ⟨h.1, h.2, h.3, h.4⟩ | simp only [kept_mk_iff]

end Sys2Proof.Machine
end

