-- ==== Sys2Proof/Laws/KeptMem.lean ====
section
/-! SUPPORT. What each operation of Machine/Mem.lean keeps. -/

set_option linter.unreachableTactic false
set_option linter.unusedTactic false
set_option linter.unusedSimpArgs false
set_option linter.unusedVariables false

namespace Sys2Proof.Machine

theorem kept_countEcc {s0 s : State} (h : Kept s0 s) : ∀ x0 x1, Kept s0 (countEcc s x0 x1) := by
  intro x0 x1
  unfold countEcc
  split
  · repeat' first | (with_reducible assumption) | (with_reducible apply kept_bump)
  · repeat' first | (with_reducible assumption) | (with_reducible apply kept_bump)
  · repeat' first | (with_reducible assumption) | (with_reducible apply kept_bump) | (with_reducible apply kept_ite) | split
  · assumption

theorem kept_raiseEcc {s0 s : State} (h : Kept s0 s) : ∀ x0 x1, Kept s0 (raiseEcc s x0 x1) := by
  intro x0 x1
  unfold raiseEcc
  split
  · repeat' first | (with_reducible assumption) | (with_reducible apply kept_raise)
  · repeat' first | (with_reducible assumption) | (with_reducible apply kept_raise)
  · assumption

theorem kept_errAddr {s0 s : State} (h : Kept s0 s) : ∀ x0 x1, Kept s0 (errAddr s x0 x1) := by
  intro x0 x1
  unfold errAddr
  split
  · repeat' first | (with_reducible assumption) | (with_reducible apply kept_wr) | simp only [kept_mk_iff] | dsimp only | intro _ _ _ | (with_reducible apply keptP_mk) | (with_reducible apply keptQ_mk)
  · extract_lets -merge -useContext -underBinder o_1
    try clear_value o_1
    repeat' first | (with_reducible assumption) | (with_reducible apply kept_wr) | simp only [kept_mk_iff] | dsimp only | intro _ _ _ | (with_reducible apply keptP_mk) | (with_reducible apply keptQ_mk)
  · assumption

theorem kept_noteEcc {s0 s : State} (h : Kept s0 s) : ∀ x0, Kept s0 (noteEcc s x0) := by
  intro x0
  unfold noteEcc
  extract_lets -merge -useContext -underBinder __src_1
  apply kept_ite
  · repeat' first | (with_reducible assumption) | simp only [kept_mk_iff]
  · assumption

theorem kept_scrubBack {s0 s : State} (h : Kept s0 s) (a : Nat) (m : Memory) (e : s.mem.wf = true → m.wf = true) : Kept s0 (scrubBack s a m) := by
  unfold scrubBack
  split
  · simp only [kept_mk_iff]; exact h
  · exact kept_mem h _ e

theorem kept_readWord {s0 s : State} (h : Kept s0 s) (a : Nat) (b : Bool) : KeptP s0 (readWord s a b) := by
  unfold readWord
  show Kept s0 _
  dsimp only
  split
  · exact h
  · split
    · exact h
    · have h1 := kept_raiseEcc (kept_countEcc (kept_noteEcc h (8 * (a / 8))) (unitOf s.variant a) 0) (unitOf s.variant a) 0
      split
      · exact kept_scrubBack h1 _ _ fun w => Memory.wf_setMark _ _ _ w
      · split
        · exact kept_mem h1 _ fun w => Memory.wf_setMark _ _ _ w
        · exact h1
    · split
      · exact h
      · exact kept_countEcc h ..
    · have h1 := kept_errAddr (kept_raiseEcc (kept_countEcc (kept_noteEcc h (8 * (a / 8))) (unitOf s.variant a) 1) (unitOf s.variant a) (if b = true then 2 else 1)) (unitOf s.variant a) a
      cases b
      rotate_left
      · refine kept_scrubBack h1 _ _ ?_
        exact fun w => Memory.wf_setMark _ _ _ (Memory.wf_setData _ _ _ w)
      · refine kept_mem h1 _ ?_
        exact fun w => Memory.wf_setMark _ _ _ (Memory.wf_setData _ _ _ w)

theorem kept_readWords {s0 s : State} (h : Kept s0 s) : ∀ x0 x1, KeptP s0 (readWords s x0 x1) := by
  intro x0 x1
  induction x1 generalizing s x0 with
  | zero =>
    unfold readWords
    apply keptP_mk
    assumption
  | succ n ih =>
    unfold readWords
    split
    · rename_i a0_1 a1_1 e_1
      have h_a0_1 : Kept s0 a0_1 := by
        apply KeptP.eq (e := e_1)
        repeat' first | (with_reducible assumption) | (with_reducible apply ih) | (with_reducible apply kept_readWord)
      clear e_1
      split
      · rename_i a0_2 a1_2 e_2
        have h_a0_2 : Kept s0 a0_2 := by
          apply KeptP.eq (e := e_2)
          repeat' first | (with_reducible assumption) | (with_reducible apply ih)
        clear e_2
        apply keptP_mk
        repeat' first | (with_reducible assumption) | (with_reducible apply ih)

theorem kept_writeWord {s0 s : State} (h : Kept s0 s) (a : Nat) (x : MWord) : Kept s0 (writeWord s a x) := by
  unfold writeWord
  split
  · exact h
  · dsimp only; split
    · exact kept_mem h _ fun w => Memory.wf_setMark _ _ _ (Memory.wf_setData _ _ _ w)
    · exact kept_mem h _ fun w => Memory.wf_setMark _ _ _ (Memory.wf_setData _ _ _ w)

theorem kept_writeWords {s0 s : State} (h : Kept s0 s) : ∀ x0 x1, Kept s0 (writeWords s x0 x1) := by
  intro x0 x1
  induction x1 generalizing s x0 with
  | nil =>
    unfold writeWords
    assumption
  | cons y ys ih =>
    unfold writeWords
    repeat' first | (with_reducible assumption) | (with_reducible apply ih) | (with_reducible apply kept_writeWord)

theorem kept_writePart {s0 s : State} (h : Kept s0 s) (w o : Nat) (bs : List Byte) : Kept s0 (writePart s w o bs) := by
  unfold writePart
  dsimp only
  split
  · exact h
  · split
    · exact kept_mem h _ fun x => Memory.wf_setBytes _ _ _ x
    · exact kept_mem h _ fun x => Memory.wf_setMark _ _ _ (Memory.wf_setBytes _ _ _ x)
    · exact kept_countEcc h ..
    · exact kept_countEcc (kept_mem h _ fun x => Memory.wf_setMark _ _ _ (Memory.wf_setData _ _ _ x)) ..

theorem kept_writeBytesN {s0 : State} : ∀ (n : Nat) {s : State}, Kept s0 s → ∀ (a : Nat) (bs : List Byte), Kept s0 (writeBytesN n s a bs)
  | 0, _, h, _, _ => h
  | _ + 1, _, h, _, [] => h
  | n + 1, s, h, a, b :: bs => by
    unfold writeBytesN
    dsimp only
    apply kept_writeBytesN n
    split
    · exact kept_writeWord h ..
    · exact kept_writePart h ..

theorem kept_writeBytes {s0 s : State} (h : Kept s0 s) : ∀ x0 x1, Kept s0 (writeBytes s x0 x1) := by
  intro x0 x1
  unfold writeBytes
  repeat' first | (with_reducible assumption) | (with_reducible apply kept_writeBytesN)

theorem kept_mendWord {s0 s : State} (h : Kept s0 s) (w : Nat) : Kept s0 (mendWord s w) := by
  unfold mendWord
  have h1 : Kept s0 (readWord s (8 * w)).1 := kept_readWord h ..
  dsimp only
  split
  · exact kept_mem h1 _ fun x => Memory.wf_setMark _ _ _ x
  · exact h1

theorem kept_mendLines {s0 s : State} (h : Kept s0 s) : ∀ x0 x1, Kept s0 (mendLines s x0 x1) := by
  intro x0 x1
  unfold mendLines
  split
  · rename_i a_1 a_2 e_3
    apply kept_ite
    · repeat' first | (with_reducible assumption)
    · extract_lets -merge -useContext -underBinder first_4 last_5 rest__6
      try clear_value first_4
      try clear_value last_5
      try clear_value rest__6
      refine kept_foldl _ ?_ _ ?_
      · intro a_7 x_8 h_9
        repeat' first | (with_reducible assumption) | (with_reducible apply kept_mendWord)
      · repeat' first | (with_reducible assumption)
  · rename_i a_10 a_11
    repeat' first | (with_reducible assumption)

theorem kept_readBytes {s0 s : State} (h : Kept s0 s) : ∀ x0 x1, KeptP s0 (readBytes s x0 x1) := by
  intro x0 x1
  unfold readBytes
  extract_lets -merge -useContext -underBinder first_1 last_2
  try clear_value first_1
  try clear_value last_2
  apply keptP_ite
  · apply keptP_mk
    assumption
  · split
    · rename_i a0_3 a1_3 e_3
      have h_a0_3 : Kept s0 a0_3 := by
        apply KeptP.eq (e := e_3)
        repeat' first | (with_reducible assumption) | (with_reducible apply kept_readWords)
      clear e_3
      extract_lets -merge -useContext -underBinder all_4
      try clear_value all_4
      apply keptP_mk
      assumption

theorem kept_read32s {s0 s : State} (h : Kept s0 s) : ∀ x0 x1, KeptP s0 (read32s s x0 x1) := by
  intro x0 x1
  unfold read32s
  split
  · rename_i a0_1 a1_1 a2_1 e_1
    have h_a0_1 : Kept s0 a0_1 := by
      apply KeptP.eq (e := e_1)
      repeat' first | (with_reducible assumption) | (with_reducible apply kept_readBytes)
    clear e_1
    apply keptP_mk
    assumption

theorem kept_write32s {s0 s : State} (h : Kept s0 s) : ∀ x0 x1, Kept s0 (write32s s x0 x1) := by
  intro x0 x1
  unfold write32s
  repeat' first | (with_reducible assumption) | (with_reducible apply kept_writeBytes)

end Sys2Proof.Machine
end

