-- ==== Sys2Proof/Laws/KeptLineBase.lean ====
section
/-! SUPPORT. What each operation of Machine/LineBase.lean keeps. -/

set_option linter.unreachableTactic false
set_option linter.unusedTactic false
set_option linter.unusedSimpArgs false
set_option linter.unusedVariables false

namespace Sys2Proof.Machine

theorem kept_putLaneSt {s0 s : State} (h : Kept s0 s) : ∀ x0 x1, Kept s0 (putLaneSt s x0 x1) := by
  intro x0 x1
  unfold putLaneSt
  repeat' first | (with_reducible assumption) | (with_reducible apply kept_ite) | simp only [kept_mk_iff] | split

theorem kept_modLaneSt {s0 s : State} (h : Kept s0 s) : ∀ x0 x1, Kept s0 (modLaneSt s x0 x1) := by
  intro x0 x1
  unfold modLaneSt
  repeat' first | (with_reducible assumption) | (with_reducible apply kept_putLaneSt)

theorem kept_setLaneState {s0 s : State} (h : Kept s0 s) : ∀ x0 x1, Kept s0 (setLaneState s x0 x1) := by
  intro x0 x1
  unfold setLaneState
  repeat' first | (with_reducible assumption) | (with_reducible apply kept_wrF)

theorem kept_injLine {s0 s : State} (h : Kept s0 s) : ∀ x0 x1, KeptP s0 (injLine s x0 x1) := by
  intro x0 x1
  unfold injLine
  apply keptP_ite
  · repeat' first | (with_reducible assumption) | (with_reducible apply keptP_mk) | (with_reducible apply keptQ_mk)
  · repeat' first | (with_reducible assumption) | (with_reducible apply kept_putLaneSt) | (with_reducible apply keptP_mk) | (with_reducible apply keptQ_mk)

theorem kept_injFrame {s0 s : State} (h : Kept s0 s) : ∀ x0 x1, Kept s0 (injFrame s x0 x1) := by
  intro x0 x1
  unfold injFrame
  refine kept_foldl _ ?_ _ ?_
  · intro a_1 x_2 h_3
    repeat' first | (with_reducible assumption) | (with_reducible apply kept_injLine) | (with_reducible apply KeptP.one)
  · repeat' first | (with_reducible assumption)

end Sys2Proof.Machine
end

