-- ==== Sys2Proof/Laws/KeptQueue.lean ====
section
/-! SUPPORT. What each operation of Machine/Queue.lean keeps. -/

set_option linter.unreachableTactic false
set_option linter.unusedTactic false
set_option linter.unusedSimpArgs false
set_option linter.unusedVariables false

namespace Sys2Proof.Machine

theorem kept_answer {s0 s : State} (h : Kept s0 s) : ∀ x0 x1, Kept s0 (answer s x0 x1) := by
  intro x0 x1
  unfold answer
  repeat' first | (with_reducible assumption) | simp only [kept_mk_iff]

theorem kept_absent {s0 s : State} (h : Kept s0 s) : Kept s0 (absent s) := by
  unfold absent
  repeat' first | (with_reducible assumption) | (with_reducible apply kept_answer)

theorem kept_execBenchMemRead {s0 s : State} (h : Kept s0 s) : ∀ x0 x1, ∃ t, execBenchMemRead x0 x1 s = .next t ∧ Kept s0 t := by
  intro x0 x1
  refine ⟨_, rfl, ?_⟩
  apply kept_ite
  · repeat' first | (with_reducible assumption) | (with_reducible apply kept_absent)
  · split
    · rename_i a0_1 a1_1 e_1
      have h_a0_1 : Kept s0 a0_1 := by
        apply KeptP.eq (e := e_1)
        repeat' first | (with_reducible assumption) | (with_reducible apply kept_readWord)
      clear e_1
      repeat' first | (with_reducible assumption) | (with_reducible apply kept_answer)

theorem kept_poisonWords {s0 s : State} (h : Kept s0 s) : ∀ x0 x1, Kept s0 (poisonWords s x0 x1) := by
  intro x0 x1
  induction x1 generalizing s x0 with
  | zero =>
    unfold poisonWords
    assumption
  | succ n ih =>
    unfold poisonWords
    repeat' first | (with_reducible assumption) | (with_reducible apply ih) | (with_reducible apply kept_writeWord)

theorem kept_portWrite {s0 s : State} (h : Kept s0 s) : ∀ x0 x1 x2 x3, Kept s0 (portWrite s x0 x1 x2 x3) := by
  intro x0 x1 x2 x3
  unfold portWrite
  extract_lets -merge -useContext -underBinder bs_1
  try clear_value bs_1
  apply kept_ite
  · assumption
  · apply kept_ite
    · repeat' first | (with_reducible assumption) | (with_reducible apply kept_poisonWords)
    · repeat' first | (with_reducible assumption) | (with_reducible apply kept_writeBytes)

theorem kept_execBenchMemWrite {s0 s : State} (h : Kept s0 s) : ∀ x0 x1 x2 x3, ∃ t, execBenchMemWrite x0 x1 x2 x3 s = .next t ∧ Kept s0 t := by
  intro x0 x1 x2 x3
  refine ⟨_, rfl, ?_⟩
  apply kept_ite
  · assumption
  · repeat' first | (with_reducible assumption) | (with_reducible apply kept_portWrite)

theorem kept_scrubWords {s0 s : State} (h : Kept s0 s) : ∀ x0 x1, Kept s0 (scrubWords s x0 x1) := by
  intro x0 x1
  induction x1 generalizing s x0 with
  | zero =>
    unfold scrubWords
    assumption
  | succ n ih =>
    unfold scrubWords
    repeat' first | (with_reducible assumption) | (with_reducible apply ih) | (with_reducible apply kept_readWord) | (with_reducible apply KeptP.one)

theorem kept_execScrubAccess {s0 s : State} (h : Kept s0 s) : ∀ x0 x1, ∃ t, execScrubAccess x0 x1 s = .next t ∧ Kept s0 t := by
  intro x0 x1
  refine ⟨_, rfl, ?_⟩
  apply kept_ite
  · assumption
  · repeat' first | (with_reducible assumption) | (with_reducible apply kept_scrubWords)

theorem kept_putQueue {s0 s : State} (h : Kept s0 s) : ∀ x0 x1 x2, Kept s0 (putQueue s x0 x1 x2) := by
  intro x0 x1 x2
  unfold putQueue
  repeat' first | (with_reducible assumption) | (with_reducible apply kept_ite) | simp only [kept_mk_iff] | split

theorem kept_syncQStat {s0 s : State} (h : Kept s0 s) : ∀ x0 x1, Kept s0 (syncQStat s x0 x1) := by
  intro x0 x1
  unfold syncQStat
  extract_lets -merge -useContext -underBinder x_1 lvl_2 w_3 w1_4 w2_5
  try clear_value x_1
  try clear_value lvl_2
  try clear_value w_3
  try clear_value w1_4
  try clear_value w2_5
  repeat' first | (with_reducible assumption) | (with_reducible apply kept_wr)

theorem kept_setFh {s0 s : State} (h : Kept s0 s) : ∀ x0, Kept s0 (setFh s x0) := by
  intro x0
  unfold setFh
  repeat' first | (with_reducible assumption) | simp only [kept_mk_iff]

theorem kept_modMac {s0 s : State} (h : Kept s0 s) : ∀ x0 x1, Kept s0 (modMac s x0 x1) := by
  intro x0 x1
  unfold modMac
  extract_lets -merge -useContext -underBinder x_1
  try clear_value x_1
  repeat' first | (with_reducible assumption) | (with_reducible apply kept_setFh) | (with_reducible apply kept_ite) | simp only [kept_mk_iff] | split

theorem kept_sendFrame {s0 s : State} (h : Kept s0 s) : ∀ x0 x1, Kept s0 (sendFrame s x0 x1) := by
  intro x0 x1
  unfold sendFrame
  repeat' first | (with_reducible assumption) | (with_reducible apply kept_setFh) | (with_reducible apply kept_injFrame) | (with_reducible apply keptP_mk) | (with_reducible apply keptQ_mk)

theorem kept_pfcSend {s0 s : State} (h : Kept s0 s) : ∀ x0 x1 x2, Kept s0 (pfcSend s x0 x1 x2) := by
  intro x0 x1 x2
  unfold pfcSend
  extract_lets -merge -useContext -underBinder sa_1 times_2 fr_3
  try clear_value sa_1
  try clear_value times_2
  try clear_value fr_3
  repeat' first | (with_reducible assumption) | (with_reducible apply kept_bump) | (with_reducible apply kept_sendFrame)

theorem kept_pfcXoff {s0 s : State} (h : Kept s0 s) : ∀ x0 x1 x2, Kept s0 (pfcXoff s x0 x1 x2) := by
  intro x0 x1 x2
  unfold pfcXoff
  extract_lets -merge -useContext -underBinder m_1 prio_2
  try clear_value m_1
  try clear_value prio_2
  apply kept_ite
  · assumption
  · apply kept_ite
    · repeat' first | (with_reducible assumption) | (with_reducible apply kept_modMac) | (with_reducible apply kept_pfcSend) | simp only [kept_mk_iff]
    · apply kept_ite
      · assumption
      · repeat' first | (with_reducible assumption) | (with_reducible apply kept_modMac) | (with_reducible apply kept_pfcSend) | simp only [kept_mk_iff]

theorem kept_setOcc {s0 s : State} (h : Kept s0 s) : ∀ x0 x1 x2, Kept s0 (setOcc s x0 x1 x2) := by
  intro x0 x1 x2
  unfold setOcc
  extract_lets -merge -useContext -underBinder x_1 lvl_2 hi_3 lo_4 s1_5 crossed_6 s2_7 enter_8 leave_9 s3_10 s4_11
  try clear_value x_1
  try clear_value lvl_2
  try clear_value hi_3
  try clear_value lo_4
  have h_s1_5 : Kept s0 s1_5 := by
    unfold s1_5
    repeat' first | (with_reducible assumption) | (with_reducible apply kept_putQueue) | simp only [kept_mk_iff]
  try clear_value s1_5
  try clear_value crossed_6
  have h_s2_7 : Kept s0 s2_7 := by
    unfold s2_7
    apply kept_ite
    · repeat' first | (with_reducible assumption) | (with_reducible apply kept_raiseI) | (with_reducible apply kept_wr)
    · assumption
  try clear_value s2_7
  try clear_value enter_8
  try clear_value leave_9
  have h_s3_10 : Kept s0 s3_10 := by
    unfold s3_10
    apply kept_ite
    · repeat' first | (with_reducible assumption) | (with_reducible apply kept_pfcXoff) | (with_reducible apply kept_raiseI) | (with_reducible apply kept_wrB)
    · apply kept_ite
      · repeat' first | (with_reducible assumption) | (with_reducible apply kept_pfcXoff) | (with_reducible apply kept_wrB)
      · assumption
  try clear_value s3_10
  have h_s4_11 : Kept s0 s4_11 := by
    unfold s4_11
    apply kept_ite
    · repeat' first | (with_reducible assumption) | (with_reducible apply kept_wr)
    · assumption
  try clear_value s4_11
  repeat' first | (with_reducible assumption) | (with_reducible apply kept_syncQStat)

theorem kept_entryCheck {s0 s : State} (h : Kept s0 s) : ∀ x0 x1 x2, KeptP s0 (entryCheck s x0 x1 x2) := by
  intro x0 x1 x2
  unfold entryCheck
  extract_lets -merge -useContext -underBinder inj_1 skip_2 fire_3 s1_4
  try clear_value inj_1
  try clear_value skip_2
  try clear_value fire_3
  have h_s1_4 : Kept s0 s1_4 := by
    unfold s1_4
    apply kept_ite
    · apply kept_ite
      · repeat' first | (with_reducible assumption) | (with_reducible apply kept_wrB) | (with_reducible apply kept_wr)
      · repeat' first | (with_reducible assumption) | (with_reducible apply kept_wr)
    · assumption
  try clear_value s1_4
  apply keptP_ite
  · apply keptP_mk
    repeat' first | (with_reducible assumption) | (with_reducible apply kept_bump) | (with_reducible apply kept_raiseI)
  · apply keptP_mk
    assumption

theorem kept_acceptHdr {s0 s : State} (h : Kept s0 s) : ∀ x0 x1 x2, Kept s0 (acceptHdr s x0 x1 x2) := by
  intro x0 x1 x2
  unfold acceptHdr
  extract_lets -merge -useContext -underBinder len_1 pad_2 size_3 start_4 x_5 s1_6 s2_7 s3_8 s4_9
  try clear_value len_1
  try clear_value pad_2
  try clear_value size_3
  try clear_value start_4
  try clear_value x_5
  have h_s1_6 : Kept s0 s1_6 := by
    unfold s1_6
    repeat' first | (with_reducible assumption) | (with_reducible apply kept_writeWord) | simp only [kept_mk_iff] | dsimp only | intro _ _ _ | (with_reducible apply keptP_mk) | (with_reducible apply keptQ_mk)
  try clear_value s1_6
  have h_s2_7 : Kept s0 s2_7 := by
    unfold s2_7
    repeat' first | (with_reducible assumption) | (with_reducible apply kept_putQueue) | simp only [kept_mk_iff]
  try clear_value s2_7
  have h_s3_8 : Kept s0 s3_8 := by
    unfold s3_8
    repeat' first | (with_reducible assumption) | (with_reducible apply kept_wr) | (with_reducible apply kept_ite) | split
  try clear_value s3_8
  have h_s4_9 : Kept s0 s4_9 := by
    unfold s4_9
    repeat' first | (with_reducible assumption) | (with_reducible apply kept_bump)
  try clear_value s4_9
  repeat' first | (with_reducible assumption) | (with_reducible apply kept_answer) | (with_reducible apply kept_setOcc)

theorem kept_poisonRun {s0 s : State} (h : Kept s0 s) : ∀ x0 x1 x2 x3, Kept s0 (poisonRun s x0 x1 x2 x3) := by
  intro x0 x1 x2 x3
  induction x3 generalizing s x0 x1 x2 with
  | zero =>
    unfold poisonRun
    assumption
  | succ n ih =>
    unfold poisonRun
    repeat' first | (with_reducible assumption) | (with_reducible apply ih) | (with_reducible apply kept_writeWord)

theorem kept_truncate {s0 s : State} (h : Kept s0 s) : ∀ x0 x1, Kept s0 (truncate s x0 x1) := by
  intro x0 x1
  unfold truncate
  extract_lets -merge -useContext -underBinder x_1
  try clear_value x_1
  split
  · assumption
  · extract_lets -merge -useContext -underBinder miss_2 s1_3 ha_4 s2_5 s3_6 s4_7
    try clear_value miss_2
    have h_s1_3 : Kept s0 s1_3 := by
      unfold s1_3
      repeat' first | (with_reducible assumption) | (with_reducible apply kept_poisonRun)
    try clear_value s1_3
    try clear_value ha_4
    have h_s2_5 : Kept s0 s2_5 := by
      unfold s2_5
      apply kept_ite
      · repeat' first | (with_reducible assumption) | (with_reducible apply kept_writeWord) | simp only [kept_mk_iff] | dsimp only | intro _ _ _ | (with_reducible apply keptP_mk) | (with_reducible apply keptQ_mk)
      · assumption
    try clear_value s2_5
    have h_s3_6 : Kept s0 s3_6 := by
      unfold s3_6
      repeat' first | (with_reducible assumption) | (with_reducible apply kept_putQueue) | simp only [kept_mk_iff]
    try clear_value s3_6
    have h_s4_7 : Kept s0 s4_7 := by
      unfold s4_7
      repeat' first | (with_reducible assumption) | (with_reducible apply kept_wr)
    try clear_value s4_7
    repeat' first | (with_reducible assumption) | (with_reducible apply kept_bump) | (with_reducible apply kept_raiseI) | (with_reducible apply kept_syncQStat)

theorem kept_refuseHdr {s0 s : State} (h : Kept s0 s) : ∀ x0 x1 x2, Kept s0 (refuseHdr s x0 x1 x2) := by
  intro x0 x1 x2
  unfold refuseHdr
  extract_lets -merge -useContext -underBinder s1_1
  have h_s1_1 : Kept s0 s1_1 := by
    unfold s1_1
    repeat' first | (with_reducible assumption) | (with_reducible apply kept_bump) | (with_reducible apply kept_raiseI) | (with_reducible apply kept_ite) | split
  try clear_value s1_1
  repeat' first | (with_reducible assumption) | (with_reducible apply kept_answer)

theorem kept_takeHdr {s0 s : State} (h : Kept s0 s) : ∀ x0 x1 x2 x3, Kept s0 (takeHdr s x0 x1 x2 x3) := by
  intro x0 x1 x2 x3
  unfold takeHdr
  split
  · rename_i a_1 e_2
    apply kept_ite
    · repeat' first | (with_reducible assumption) | (with_reducible apply kept_acceptHdr)
    · repeat' first | (with_reducible assumption) | (with_reducible apply kept_answer) | (with_reducible apply kept_raiseI) | (with_reducible apply kept_bump)
  · rename_i a_3 a_4
    repeat' first | (with_reducible assumption) | (with_reducible apply kept_refuseHdr)

theorem kept_hdrWrite {s0 s : State} (h : Kept s0 s) : ∀ x0 x1 x2 x3 x4 x5, Kept s0 (hdrWrite s x0 x1 x2 x3 x4 x5) := by
  intro x0 x1 x2 x3 x4 x5
  unfold hdrWrite
  apply kept_ite
  · repeat' first | (with_reducible assumption) | (with_reducible apply kept_absent)
  · extract_lets -merge -useContext -underBinder s0_2 v_3
    have h_s0_2 : Kept s0 s0_2 := by
      unfold s0_2
      apply kept_ite
      · repeat' first | (with_reducible assumption) | (with_reducible apply kept_truncate)
      · repeat' first | (with_reducible assumption)
    try clear_value s0_2
    try clear_value v_3
    apply kept_ite
    · repeat' first | (with_reducible assumption) | (with_reducible apply kept_syncQStat) | (with_reducible apply kept_answer) | (with_reducible apply kept_putQueue) | (with_reducible apply keptP_mk) | (with_reducible apply keptQ_mk)
    · split
      rename_i a_4 a_5 a_6 e_7
      have h_a_5 : Kept s0 a_5 := by
        apply KeptP.eq (e := e_7)
        repeat' first | (with_reducible assumption) | (with_reducible apply kept_entryCheck)
      clear e_7
      apply kept_ite
      · repeat' first | (with_reducible assumption) | (with_reducible apply kept_answer)
      · repeat' first | (with_reducible assumption) | (with_reducible apply kept_takeHdr)

theorem kept_execQHdrWrite {s0 s : State} (h : Kept s0 s) : ∀ x0 x1 x2 x3 x4, ∃ t, execQHdrWrite x0 x1 x2 x3 x4 s = .next t ∧ Kept s0 t := by
  intro x0 x1 x2 x3 x4
  refine ⟨_, rfl, ?_⟩
  repeat' first | (with_reducible assumption) | (with_reducible apply kept_hdrWrite)

theorem kept_pushWord {s0 s : State} (h : Kept s0 s) : ∀ x0 x1 x2 x3 x4, Kept s0 (pushWord s x0 x1 x2 x3 x4) := by
  intro x0 x1 x2 x3 x4
  unfold pushWord
  apply kept_ite
  · assumption
  · split
    · rename_i a0_1 a1_1 e_1
      have h_a0_1 : Kept s0 a0_1 := by
        apply KeptP.eq (e := e_1)
        repeat' first | (with_reducible assumption) | (with_reducible apply kept_entryCheck)
      clear e_1
      extract_lets -merge -useContext -underBinder x_2
      try clear_value x_2
      split
      · repeat' first | (with_reducible assumption) | (with_reducible apply kept_bump) | (with_reducible apply kept_raiseI)
      · extract_lets -merge -useContext -underBinder o_3 poison_4 s2_5 s3_6
        try clear_value o_3
        try clear_value poison_4
        have h_s2_5 : Kept s0 s2_5 := by
          unfold s2_5
          repeat' first | (with_reducible assumption) | (with_reducible apply kept_writeWord) | (with_reducible apply KeptP.one) | simp only [kept_mk_iff] | dsimp only | intro _ _ _ | (with_reducible apply keptP_mk) | (with_reducible apply keptQ_mk)
        try clear_value s2_5
        have h_s3_6 : Kept s0 s3_6 := by
          unfold s3_6
          repeat' first | (with_reducible assumption) | (with_reducible apply kept_putQueue) | simp only [kept_mk_iff]
        try clear_value s3_6
        apply kept_ite
        · repeat' first | (with_reducible assumption) | (with_reducible apply kept_bump) | (with_reducible apply kept_raiseI)
        · repeat' first | (with_reducible assumption) | (with_reducible apply kept_bump) | (with_reducible apply kept_syncQStat) | (with_reducible apply kept_wr)

theorem kept_execQPushWord {s0 s : State} (h : Kept s0 s) : ∀ x0 x1 x2 x3 x4, ∃ t, execQPushWord x0 x1 x2 x3 x4 s = .next t ∧ Kept s0 t := by
  intro x0 x1 x2 x3 x4
  refine ⟨_, rfl, ?_⟩
  repeat' first | (with_reducible assumption) | (with_reducible apply kept_pushWord)

theorem kept_abortPkt {s0 s : State} (h : Kept s0 s) : ∀ x0 x1 x2, Kept s0 (abortPkt s x0 x1 x2) := by
  intro x0 x1 x2
  unfold abortPkt
  apply kept_ite
  · repeat' first | (with_reducible assumption) | (with_reducible apply kept_truncate)
  · assumption

theorem kept_execQAbortWrite {s0 s : State} (h : Kept s0 s) : ∀ x0 x1 x2, ∃ t, execQAbortWrite x0 x1 x2 s = .next t ∧ Kept s0 t := by
  intro x0 x1 x2
  refine ⟨_, rfl, ?_⟩
  repeat' first | (with_reducible assumption) | (with_reducible apply kept_abortPkt)

theorem kept_execQPktTimeout {s0 s : State} (h : Kept s0 s) : ∀ x0 x1, ∃ t, execQPktTimeout x0 x1 s = .next t ∧ Kept s0 t := by
  intro x0 x1
  unfold execQPktTimeout
  refine ⟨_, rfl, ?_⟩
  apply kept_ite
  · repeat' first | (with_reducible assumption) | (with_reducible apply kept_truncate)
  · repeat' first | (with_reducible assumption)

theorem kept_popOne {s0 s : State} (h : Kept s0 s) : ∀ x0 x1 x2, KeptP s0 (popOne s x0 x1 x2) := by
  intro x0 x1 x2
  unfold popOne
  extract_lets -merge -useContext -underBinder x_1
  try clear_value x_1
  split
  · apply keptP_mk
    assumption
  · extract_lets -merge -useContext -underBinder o_2
    try clear_value o_2
    split
    · rename_i a0_3 a1_3 e_3
      have h_a0_3 : Kept s0 a0_3 := by
        apply KeptP.eq (e := e_3)
        repeat' first | (with_reducible assumption) | (with_reducible apply kept_readWord)
      clear e_3
      extract_lets -merge -useContext -underBinder s2_4 poison_5 p_6 full_7 s3_8 s4_9 s5_10 freed_11
      have h_s2_4 : Kept s0 s2_4 := by
        unfold s2_4
        apply kept_ite
        · repeat' first | (with_reducible assumption) | (with_reducible apply kept_bump) | (with_reducible apply kept_raiseI)
        · assumption
      try clear_value s2_4
      try clear_value poison_5
      try clear_value p_6
      try clear_value full_7
      have h_s3_8 : Kept s0 s3_8 := by
        unfold s3_8
        repeat' first | (with_reducible assumption) | (with_reducible apply kept_putQueue) | (with_reducible apply kept_ite) | (with_reducible apply keptP_ite) | simp only [kept_mk_iff] | split
      try clear_value s3_8
      have h_s4_9 : Kept s0 s4_9 := by
        unfold s4_9
        repeat' first | (with_reducible assumption) | (with_reducible apply kept_wr)
      try clear_value s4_9
      have h_s5_10 : Kept s0 s5_10 := by
        unfold s5_10
        apply kept_ite
        · repeat' first | (with_reducible assumption) | (with_reducible apply kept_wr) | simp only [kept_mk_iff] | dsimp only | intro _ _ _ | (with_reducible apply keptP_mk) | (with_reducible apply keptQ_mk)
        · assumption
      try clear_value s5_10
      try clear_value freed_11
      apply keptP_mk
      repeat' first | (with_reducible assumption) | (with_reducible apply kept_setOcc)

theorem kept_popMany {s0 s : State} (h : Kept s0 s) : ∀ x0 x1 x2 x3 x4, KeptP s0 (popMany s x0 x1 x2 x3 x4) := by
  intro x0 x1 x2 x3 x4
  induction x4 generalizing s x0 x1 x2 x3 with
  | zero =>
    unfold popMany
    apply keptP_mk
    assumption
  | succ n ih =>
    unfold popMany
    split
    · rename_i a0_1 a1_1 e_1
      have h_a0_1 : Kept s0 a0_1 := by
        apply KeptP.eq (e := e_1)
        repeat' first | (with_reducible assumption) | (with_reducible apply ih) | (with_reducible apply kept_popOne)
      clear e_1
      split
      · rename_i a0_2 a1_2 e_2
        have h_a0_2 : Kept s0 a0_2 := by
          apply KeptP.eq (e := e_2)
          repeat' first | (with_reducible assumption) | (with_reducible apply ih)
        clear e_2
        apply keptP_mk
        repeat' first | (with_reducible assumption) | (with_reducible apply ih)

theorem kept_popRead {s0 s : State} (h : Kept s0 s) : ∀ x0 x1 x2 x3, Kept s0 (popRead s x0 x1 x2 x3) := by
  intro x0 x1 x2 x3
  unfold popRead
  apply kept_ite
  · repeat' first | (with_reducible assumption) | (with_reducible apply kept_absent)
  · apply kept_ite
    · repeat' first | (with_reducible assumption) | (with_reducible apply kept_answer)
    · apply kept_ite
      · repeat' first | (with_reducible assumption) | (with_reducible apply kept_answer)
      · split
        · rename_i a0_1 a1_1 e_1
          have h_a0_1 : Kept s0 a0_1 := by
            apply KeptP.eq (e := e_1)
            repeat' first | (with_reducible assumption) | (with_reducible apply kept_popMany)
          clear e_1
          repeat' first | (with_reducible assumption) | (with_reducible apply kept_answer)

theorem kept_execQPopRead {s0 s : State} (h : Kept s0 s) : ∀ x0 x1 x2 x3, ∃ t, execQPopRead x0 x1 x2 x3 s = .next t ∧ Kept s0 t := by
  intro x0 x1 x2 x3
  refine ⟨_, rfl, ?_⟩
  repeat' first | (with_reducible assumption) | (with_reducible apply kept_popRead)

theorem kept_releaseOne {s0 s : State} (h : Kept s0 s) : ∀ x0 x1, Kept s0 (releaseOne s x0 x1) := by
  intro x0 x1
  unfold releaseOne
  extract_lets -merge -useContext -underBinder x_1
  try clear_value x_1
  split
  · assumption
  · extract_lets -merge -useContext -underBinder s1_2 s2_3 s3_4
    have h_s1_2 : Kept s0 s1_2 := by
      unfold s1_2
      repeat' first | (with_reducible assumption) | (with_reducible apply kept_putQueue) | simp only [kept_mk_iff]
    try clear_value s1_2
    have h_s2_3 : Kept s0 s2_3 := by
      unfold s2_3
      repeat' first | (with_reducible assumption) | (with_reducible apply kept_wr)
    try clear_value s2_3
    have h_s3_4 : Kept s0 s3_4 := by
      unfold s3_4
      repeat' first | (with_reducible assumption) | (with_reducible apply kept_wr) | simp only [kept_mk_iff] | dsimp only | intro _ _ _ | (with_reducible apply keptP_mk) | (with_reducible apply keptQ_mk)
    try clear_value s3_4
    apply kept_ite
    · assumption
    · repeat' first | (with_reducible assumption) | (with_reducible apply kept_setOcc)

theorem kept_releaseN {s0 s : State} (h : Kept s0 s) : ∀ x0 x1 x2, Kept s0 (releaseN s x0 x1 x2) := by
  intro x0 x1 x2
  induction x2 generalizing s x0 x1 with
  | zero =>
    unfold releaseN
    assumption
  | succ n ih =>
    unfold releaseN
    repeat' first | (with_reducible assumption) | (with_reducible apply ih) | (with_reducible apply kept_releaseOne)

theorem kept_releaseWrite {s0 s : State} (h : Kept s0 s) : ∀ x0 x1 x2, Kept s0 (releaseWrite s x0 x1 x2) := by
  intro x0 x1 x2
  unfold releaseWrite
  apply kept_ite
  · repeat' first | (with_reducible assumption) | (with_reducible apply kept_releaseN)
  · assumption

theorem kept_execQReleaseWrite {s0 s : State} (h : Kept s0 s) : ∀ x0 x1 x2, ∃ t, execQReleaseWrite x0 x1 x2 s = .next t ∧ Kept s0 t := by
  intro x0 x1 x2
  refine ⟨_, rfl, ?_⟩
  repeat' first | (with_reducible assumption) | (with_reducible apply kept_releaseWrite)

theorem kept_heldRelease {s0 s : State} (h : Kept s0 s) : ∀ x0 x1 x2, Kept s0 (heldRelease s x0 x1 x2) := by
  intro x0 x1 x2
  unfold heldRelease
  extract_lets -merge -useContext -underBinder k_5 x_6 l_7 s1_8 s1_9
  try clear_value k_5
  try clear_value x_6
  try clear_value l_7
  try clear_value s1_8
  have h_s1_9 : Kept s0 s1_9 := by
    unfold s1_9
    repeat' first | (with_reducible assumption) | (with_reducible apply kept_foldl) | (with_reducible apply keptP_foldl) | (with_reducible apply KeptQ.one) | (with_reducible apply keptP_mk) | (with_reducible apply keptQ_mk) | simp only [kept_mk_iff]
  try clear_value s1_9
  repeat' first | (with_reducible assumption) | (with_reducible apply kept_answer) | (with_reducible apply kept_putQueue)

theorem kept_heldReleaseAll {s0 s : State} (h : Kept s0 s) : ∀ x0 x1 x2, Kept s0 (heldReleaseAll s x0 x1 x2) := by
  intro x0 x1 x2
  unfold heldReleaseAll
  refine kept_foldl _ ?_ _ ?_
  · intro a_1 x_2 h_3
    repeat' first | (with_reducible assumption) | (with_reducible apply kept_heldRelease)
  · repeat' first | (with_reducible assumption)

theorem kept_heldAccept {s0 s : State} (h : Kept s0 s) : ∀ x0 x1, Kept s0 (heldAccept s x0 x1) := by
  intro x0 x1
  unfold heldAccept
  split
  · rename_i a_1 e_2
    repeat' first | (with_reducible assumption)
  · rename_i a_3 a_4 a_5 e_6
    apply kept_ite
    · repeat' first | (with_reducible assumption)
    · split
      rename_i a_7 a_8 a_9 e_10
      have h_a_8 : Kept s0 a_8 := by
        apply KeptP.eq (e := e_10)
        repeat' first | (with_reducible assumption) | (with_reducible apply kept_entryCheck) | (with_reducible apply kept_truncate)
      clear e_10
      apply kept_ite
      · repeat' first | (with_reducible assumption) | (with_reducible apply kept_syncQStat) | (with_reducible apply kept_heldRelease)
      · repeat' first | (with_reducible assumption) | (with_reducible apply kept_acceptHdr) | (with_reducible apply kept_heldRelease) | (with_reducible apply KeptP.one)

theorem kept_emptyQueue {s0 s : State} (h : Kept s0 s) : ∀ x0 x1, Kept s0 (emptyQueue s x0 x1) := by
  intro x0 x1
  unfold emptyQueue
  extract_lets -merge -useContext -underBinder x_4 s1_5 s2_6 s2_7
  try clear_value x_4
  have h_s1_5 : Kept s0 s1_5 := by
    unfold s1_5
    repeat' first | (with_reducible assumption) | (with_reducible apply kept_heldReleaseAll)
  try clear_value s1_5
  try clear_value s2_6
  have h_s2_7 : Kept s0 s2_7 := by
    unfold s2_7
    repeat' first | (with_reducible assumption) | (with_reducible apply kept_putQueue)
  try clear_value s2_7
  repeat' first | (with_reducible assumption) | (with_reducible apply kept_setOcc) | (with_reducible apply kept_wr)

theorem kept_flushQueue {s0 s : State} (h : Kept s0 s) : ∀ x0 x1, Kept s0 (flushQueue s x0 x1) := by
  intro x0 x1
  unfold flushQueue
  apply kept_ite
  · repeat' first | (with_reducible assumption) | (with_reducible apply kept_emptyQueue)
  · assumption

theorem kept_execQFlush {s0 s : State} (h : Kept s0 s) : ∀ x0 x1, ∃ t, execQFlush x0 x1 s = .next t ∧ Kept s0 t := by
  intro x0 x1
  refine ⟨_, rfl, ?_⟩
  repeat' first | (with_reducible assumption) | (with_reducible apply kept_flushQueue)

theorem kept_xcntRead {s0 s : State} (h : Kept s0 s) : ∀ x0 x1, Kept s0 (xcntRead s x0 x1) := by
  intro x0 x1
  unfold xcntRead
  apply kept_ite
  · repeat' first | (with_reducible assumption) | (with_reducible apply kept_answer) | (with_reducible apply kept_wr)
  · repeat' first | (with_reducible assumption) | (with_reducible apply kept_absent)

theorem kept_execQXcntRead {s0 s : State} (h : Kept s0 s) : ∀ x0 x1, ∃ t, execQXcntRead x0 x1 s = .next t ∧ Kept s0 t := by
  intro x0 x1
  refine ⟨_, rfl, ?_⟩
  repeat' first | (with_reducible assumption) | (with_reducible apply kept_xcntRead)

theorem kept_execQInjArm {s0 s : State} (h : Kept s0 s) : ∀ x0 x1 x2 x3, ∃ t, execQInjArm x0 x1 x2 x3 s = .next t ∧ Kept s0 t := by
  intro x0 x1 x2 x3
  refine ⟨_, rfl, ?_⟩
  apply kept_ite
  · repeat' first | (with_reducible assumption) | (with_reducible apply kept_wr) | simp only [kept_mk_iff] | dsimp only | intro _ _ _ | (with_reducible apply keptP_mk) | (with_reducible apply keptQ_mk)
  · assumption

theorem kept_truncProducers {s0 s : State} (h : Kept s0 s) : ∀ x0, Kept s0 (truncProducers s x0) := by
  intro x0
  unfold truncProducers
  repeat' first | (with_reducible assumption) | (with_reducible apply kept_truncate) | (with_reducible apply kept_ite) | (with_reducible apply kept_foldl) | (with_reducible apply keptP_foldl) | (with_reducible apply KeptP.one) | split | dsimp only | intro _ _ _

theorem kept_ondieBurst {s0 s : State} (h : Kept s0 s) : ∀ x0 x1, Kept s0 (ondieBurst s x0 x1) := by
  intro x0 x1
  unfold ondieBurst
  repeat' first | (with_reducible assumption) | (with_reducible apply kept_poisonWords) | (with_reducible apply kept_raise)

theorem kept_execHbmRead {s0 s : State} (h : Kept s0 s) : ∀ x0 x1 x2 x3, ∃ t, execHbmRead x0 x1 x2 x3 s = .next t ∧ Kept s0 t := by
  intro x0 x1 x2 x3
  refine ⟨_, rfl, ?_⟩
  extract_lets -merge -useContext -underBinder base_1 hit_2 armed_3 __src_4 s0_5 s1_6
  try clear_value base_1
  try clear_value hit_2
  try clear_value armed_3
  have h_s0_5 : Kept s0 s0_5 := by
    unfold s0_5
    repeat' first | (with_reducible assumption) | simp only [kept_mk_iff]
  try clear_value s0_5
  have h_s1_6 : Kept s0 s1_6 := by
    unfold s1_6
    repeat' first | (with_reducible assumption) | (with_reducible apply kept_bump)
  try clear_value s1_6
  apply kept_ite
  · repeat' first | (with_reducible assumption) | (with_reducible apply kept_answer)
  · apply kept_ite
    · repeat' first | (with_reducible assumption) | (with_reducible apply kept_answer) | (with_reducible apply kept_ondieBurst)
    · split
      · rename_i a0_7 a1_7 e_7
        have h_a0_7 : Kept s0 a0_7 := by
          apply KeptP.eq (e := e_7)
          repeat' first | (with_reducible assumption) | (with_reducible apply kept_readWords)
        clear e_7
        repeat' first | (with_reducible assumption) | (with_reducible apply kept_answer)

theorem kept_execHbmWrite {s0 s : State} (h : Kept s0 s) : ∀ x0 x1 x2, ∃ t, execHbmWrite x0 x1 x2 s = .next t ∧ Kept s0 t := by
  intro x0 x1 x2
  unfold execHbmWrite
  refine ⟨_, rfl, ?_⟩
  apply kept_ite
  · repeat' first | (with_reducible assumption) | (with_reducible apply kept_answer)
  · repeat' first | (with_reducible assumption) | (with_reducible apply kept_answer) | (with_reducible apply kept_portWrite) | (with_reducible apply kept_mendLines)

theorem kept_bar2Write {s0 s : State} (h : Kept s0 s) : ∀ x0 x1 x2, Kept s0 (bar2Write s x0 x1 x2) := by
  intro x0 x1 x2
  unfold bar2Write
  apply kept_ite
  · repeat' first | (with_reducible assumption)
  · extract_lets -merge -useContext -underBinder runs_1 drop_2 s1_3
    try clear_value runs_1
    try clear_value drop_2
    have h_s1_3 : Kept s0 s1_3 := by
      unfold s1_3
      refine kept_foldl _ ?_ _ ?_
      · intro a_4 x_5 h_6
        apply kept_ite
        · repeat' first | (with_reducible assumption)
        · repeat' first | (with_reducible assumption) | (with_reducible apply kept_portWrite) | (with_reducible apply kept_mendLines) | (with_reducible apply KeptP.one) | (with_reducible apply KeptQ.one)
      · repeat' first | (with_reducible assumption)
    try clear_value s1_3
    apply kept_ite
    · repeat' first | (with_reducible assumption) | (with_reducible apply kept_bump) | (with_reducible apply kept_raise)
    · repeat' first | (with_reducible assumption)

theorem kept_execHbmScrub {s0 s : State} (h : Kept s0 s) : ∀ x0, ∃ t, execHbmScrub x0 s = .next t ∧ Kept s0 t := by
  intro x0
  refine ⟨_, rfl, ?_⟩
  apply kept_ite
  · assumption
  · repeat' first | (with_reducible assumption) | (with_reducible apply kept_readWord) | (with_reducible apply KeptP.one)

theorem kept_queueConfigApply {s0 s : State} (h : Kept s0 s) : ∀ x0, Kept s0 (queueConfigApply s x0) := by
  intro x0
  unfold queueConfigApply
  extract_lets -merge -useContext -underBinder b_1 q_2 old_3 geom_4 empty_5 moved_6 s0_7 s1_8 s2_9 s3_10 s4_11
  try clear_value b_1
  try clear_value q_2
  try clear_value old_3
  try clear_value geom_4
  try clear_value empty_5
  try clear_value moved_6
  have h_s0_7 : Kept s0 s0_7 := by
    unfold s0_7
    apply kept_ite
    · repeat' first | (with_reducible assumption) | (with_reducible apply kept_pfcXoff)
    · repeat' first | (with_reducible assumption)
  try clear_value s0_7
  have h_s1_8 : Kept s0 s1_8 := by
    unfold s1_8
    repeat' first | (with_reducible assumption) | (with_reducible apply kept_wr)
  try clear_value s1_8
  have h_s2_9 : Kept s0 s2_9 := by
    unfold s2_9
    repeat' first | (with_reducible assumption) | (with_reducible apply kept_wr)
  try clear_value s2_9
  have h_s3_10 : Kept s0 s3_10 := by
    unfold s3_10
    apply kept_ite
    · repeat' first | (with_reducible assumption) | (with_reducible apply kept_heldReleaseAll)
    · repeat' first | (with_reducible assumption)
  try clear_value s3_10
  have h_s4_11 : Kept s0 s4_11 := by
    unfold s4_11
    apply kept_ite
    · repeat' first | (with_reducible assumption) | (with_reducible apply kept_emptyQueue)
    · repeat' first | (with_reducible assumption)
  try clear_value s4_11
  apply kept_syncQStat
  apply kept_ite
  · repeat' first | (with_reducible assumption) | (with_reducible apply kept_pfcXoff)
  · repeat' first | (with_reducible assumption)

theorem kept_queueStatus {s0 s : State} (h : Kept s0 s) : ∀ x0, KeptD s0 (queueStatus x0 s) := by
  intro x0
  unfold queueStatus
  extract_lets -merge -useContext -underBinder b_1 q_2
  try clear_value b_1
  try clear_value q_2
  apply keptD_ite
  · repeat' first | (with_reducible assumption) | (with_reducible apply kept_done) | (with_reducible apply kept_done)
  · apply keptD_ite
    · repeat' first | (with_reducible assumption) | (with_reducible apply kept_done) | (with_reducible apply kept_done)
    · repeat' first | (with_reducible assumption) | (with_reducible apply kept_doneW) | (with_reducible apply kept_doneW)

theorem kept_hbmPartitionApply {s0 s : State} (h : Kept s0 s) : ∀ x0, Kept s0 (hbmPartitionApply s x0) := by
  intro x0
  unfold hbmPartitionApply
  repeat' first | (with_reducible assumption) | simp only [kept_mk_iff]

end Sys2Proof.Machine
end

