-- ==== Sys2Proof/Laws/KeptCordBase.lean ====
section
/-! SUPPORT. What each operation of Machine/CordBase.lean keeps. -/

set_option linter.unreachableTactic false
set_option linter.unusedTactic false
set_option linter.unusedSimpArgs false
set_option linter.unusedVariables false

namespace Sys2Proof.Machine

theorem kept_setCord {s0 s : State} (h : Kept s0 s) : ∀ x0, Kept s0 (setCord s x0) := by
  intro x0
  unfold setCord
  repeat' first | (with_reducible assumption) | simp only [kept_mk_iff]

theorem kept_putTask {s0 s : State} (h : Kept s0 s) : ∀ x0 x1, Kept s0 (putTask s x0 x1) := by
  intro x0 x1
  unfold putTask
  repeat' first | (with_reducible assumption) | (with_reducible apply kept_setCord) | simp only [kept_mk_iff]

theorem kept_modTask {s0 s : State} (h : Kept s0 s) : ∀ x0 x1, Kept s0 (modTask s x0 x1) := by
  intro x0 x1
  unfold modTask
  split
  · assumption
  · repeat' first | (with_reducible assumption) | (with_reducible apply kept_putTask)

theorem kept_returnTask {s0 s : State} (h : Kept s0 s) : ∀ x0 x1, Kept s0 (returnTask s x0 x1) := by
  intro x0 x1
  unfold returnTask
  extract_lets -merge -useContext -underBinder s1_1
  have h_s1_1 : Kept s0 s1_1 := by
    unfold s1_1
    repeat' first | (with_reducible assumption) | (with_reducible apply kept_putTask) | simp only [kept_mk_iff]
  try clear_value s1_1
  split
  · repeat' first | (with_reducible assumption) | (with_reducible apply kept_bump)
  · assumption

theorem kept_returnStaged {s0 s : State} (h : Kept s0 s) : ∀ x0, Kept s0 (returnStaged s x0) := by
  intro x0
  unfold returnStaged
  extract_lets -merge -useContext -underBinder l_1
  try clear_value l_1
  repeat' first | (with_reducible assumption) | (with_reducible apply kept_returnTask) | (with_reducible apply kept_foldl) | (with_reducible apply keptP_foldl) | (with_reducible apply KeptP.one) | (with_reducible apply KeptQ.one) | dsimp only | intro _ _ _

theorem kept_complete {s0 s : State} (h : Kept s0 s) : ∀ x0 x1, Kept s0 (complete s x0 x1) := by
  intro x0 x1
  unfold complete
  repeat' first | (with_reducible assumption) | (with_reducible apply kept_setCord) | simp only [kept_mk_iff] | dsimp only | intro _ _ _ | (with_reducible apply keptP_mk) | (with_reducible apply keptQ_mk)

theorem keptO_beginTask {s0 s t : State} (h : Kept s0 s) {x : Site} {i : Nat} {k : Task} (e : beginTask s x = some (t, i, k)) : Kept s0 t := by
  unfold beginTask at e
  split at e
  · cases e
  · injection e with e
    injection e with e _
    rw [← e]
    split
    · exact kept_bump (kept_bump (kept_putTask h _ _) ..) ..
    · exact kept_bump (kept_putTask h _ _) ..

theorem kept_freeFail {s0 s : State} (h : Kept s0 s) : KeptP s0 (freeFail s) := by
  unfold freeFail
  split
  · rename_i a0_1 a1_1 e_1
    have h_a1_1 : Kept s0 a1_1 := by
      apply KeptQ.eq (e := e_1)
      repeat' first | (with_reducible assumption) | (with_reducible apply kept_drawFree)
    clear e_1
    extract_lets -merge -useContext -underBinder v_2
    try clear_value v_2
    apply keptP_mk
    assumption

end Sys2Proof.Machine
end

