-- ==== Sys2Proof/Laws/KeptFence.lean ====
section
/-! SUPPORT. What each operation of Machine/Fence.lean keeps. -/

set_option linter.unreachableTactic false
set_option linter.unusedTactic false
set_option linter.unusedSimpArgs false
set_option linter.unusedVariables false

namespace Sys2Proof.Machine

theorem kept_setFab {s0 s : State} (h : Kept s0 s) : ∀ x0, Kept s0 (setFab s x0) := by
  intro x0
  unfold setFab
  repeat' first | (with_reducible assumption) | simp only [kept_mk_iff]

theorem kept_putRtEntry {s0 s : State} (h : Kept s0 s) : ∀ x0 x1 x2, Kept s0 (putRtEntry s x0 x1 x2) := by
  intro x0 x1 x2
  unfold putRtEntry
  repeat' first | (with_reducible assumption) | (with_reducible apply kept_setFab) | (with_reducible apply kept_ite) | simp only [kept_mk_iff] | split

theorem kept_stageRt {s0 s : State} (h : Kept s0 s) : ∀ x0 x1 x2 x3, Kept s0 (stageRt s x0 x1 x2 x3) := by
  intro x0 x1 x2 x3
  unfold stageRt
  extract_lets -merge -useContext -underBinder x_1
  try clear_value x_1
  repeat' first | (with_reducible assumption) | (with_reducible apply kept_setFab) | simp only [kept_mk_iff]

theorem kept_commitRt {s0 s : State} (h : Kept s0 s) : ∀ x0 x1 x2, Kept s0 (commitRt s x0 x1 x2) := by
  intro x0 x1 x2
  unfold commitRt
  extract_lets -merge -useContext -underBinder old_1 x_2 nw_3
  try clear_value old_1
  try clear_value x_2
  try clear_value nw_3
  repeat' first | (with_reducible assumption) | (with_reducible apply kept_putRtEntry) | (with_reducible apply kept_setFab) | simp only [kept_mk_iff]

theorem kept_fenceEntries {s0 s : State} (h : Kept s0 s) : ∀ x0 x1 x2, Kept s0 (fenceEntries s x0 x1 x2) := by
  intro x0 x1 x2
  unfold fenceEntries
  extract_lets -merge -useContext -underBinder mark_1
  try clear_value mark_1
  apply kept_ite
  · refine kept_foldl _ ?_ _ ?_
    · intro a_2 x_3 h_4
      repeat' first | (with_reducible assumption) | (with_reducible apply kept_putRtEntry)
    · repeat' first | (with_reducible assumption)
  · repeat' first | (with_reducible assumption) | (with_reducible apply kept_setFab) | (with_reducible apply KeptQ.one)

theorem kept_markEntries {s0 s : State} (h : Kept s0 s) : ∀ x0 x1 x2 x3, Kept s0 (markEntries s x0 x1 x2 x3) := by
  intro x0 x1 x2 x3
  unfold markEntries
  repeat' first | (with_reducible assumption) | (with_reducible apply kept_fenceEntries) | (with_reducible apply keptP_mk) | (with_reducible apply keptQ_mk)

theorem kept_setFn {s0 s : State} (h : Kept s0 s) : ∀ x0 x1, Kept s0 (setFn s x0 x1) := by
  intro x0 x1
  unfold setFn
  repeat' first | (with_reducible assumption) | (with_reducible apply kept_wrF)

theorem kept_fenceRequest {s0 s : State} (h : Kept s0 s) : ∀ x0, Kept s0 (fenceRequest s x0) := by
  intro x0
  unfold fenceRequest
  extract_lets -merge -useContext -underBinder s1_1 s2_2
  have h_s1_1 : Kept s0 s1_1 := by
    unfold s1_1
    repeat' first | (with_reducible assumption) | (with_reducible apply kept_wrB)
  try clear_value s1_1
  have h_s2_2 : Kept s0 s2_2 := by
    unfold s2_2
    repeat' first | (with_reducible assumption) | (with_reducible apply kept_returnStaged) | (with_reducible apply kept_truncProducers)
  try clear_value s2_2
  apply kept_ite
  · assumption
  · apply kept_ite
    · assumption
    · repeat' first | (with_reducible assumption) | (with_reducible apply kept_setFn)

theorem kept_syncPend {s0 s : State} (h : Kept s0 s) : ∀ x0, Kept s0 (syncPend s x0) := by
  intro x0
  unfold syncPend
  repeat' first | (with_reducible assumption) | (with_reducible apply kept_wrF) | (with_reducible apply KeptP.one)

theorem kept_clearFence {s0 s : State} (h : Kept s0 s) : ∀ x0, Kept s0 (clearFence s x0) := by
  intro x0
  unfold clearFence
  extract_lets -merge -useContext -underBinder keep_1
  try clear_value keep_1
  repeat' first | (with_reducible assumption) | (with_reducible apply kept_setFab) | simp only [kept_mk_iff]

theorem kept_fenceDone {s0 s : State} (h : Kept s0 s) : ∀ x0, Kept s0 (fenceDone s x0) := by
  intro x0
  unfold fenceDone
  repeat' first | (with_reducible assumption) | (with_reducible apply kept_bump) | (with_reducible apply kept_raise) | (with_reducible apply kept_setFn) | (with_reducible apply kept_syncPend)

theorem kept_fenceDrainEnd {s0 s : State} (h : Kept s0 s) : ∀ x0, Kept s0 (fenceDrainEnd s x0) := by
  intro x0
  unfold fenceDrainEnd
  extract_lets -merge -useContext -underBinder dests_1 s1_2
  try clear_value dests_1
  have h_s1_2 : Kept s0 s1_2 := by
    unfold s1_2
    repeat' first | (with_reducible assumption) | (with_reducible apply kept_setFab) | (with_reducible apply kept_setFn) | simp only [kept_mk_iff] | dsimp only | intro _ _ _ | (with_reducible apply keptP_mk) | (with_reducible apply keptQ_mk)
  try clear_value s1_2
  apply kept_ite
  · assumption
  · apply kept_ite
    · repeat' first | (with_reducible assumption) | (with_reducible apply kept_fenceDone)
    · repeat' first | (with_reducible assumption) | (with_reducible apply kept_syncPend)

theorem kept_fenceMsgRx {s0 s : State} (h : Kept s0 s) : ∀ x0 x1, Kept s0 (fenceMsgRx s x0 x1) := by
  intro x0 x1
  unfold fenceMsgRx
  extract_lets -merge -useContext -underBinder s1_1
  have h_s1_1 : Kept s0 s1_1 := by
    unfold s1_1
    repeat' first | (with_reducible assumption) | (with_reducible apply kept_markEntries)
  try clear_value s1_1
  apply kept_ite
  · assumption
  · repeat' first | (with_reducible assumption) | (with_reducible apply kept_setFab) | (with_reducible apply kept_syncPend) | simp only [kept_mk_iff] | dsimp only | intro _ _ _ | (with_reducible apply keptP_mk) | (with_reducible apply keptQ_mk)

theorem kept_unfenceTo {s0 s : State} (h : Kept s0 s) : ∀ x0 x1, Kept s0 (unfenceTo s x0 x1) := by
  intro x0 x1
  unfold unfenceTo
  repeat' first | (with_reducible assumption) | (with_reducible apply kept_setFab) | simp only [kept_mk_iff] | dsimp only | intro _ _ _ | (with_reducible apply keptP_mk) | (with_reducible apply keptQ_mk)

theorem kept_fenceGiveUp {s0 s : State} (h : Kept s0 s) : ∀ x0, Kept s0 (fenceGiveUp s x0) := by
  intro x0
  unfold fenceGiveUp
  extract_lets -merge -useContext -underBinder l_1 s1_2
  try clear_value l_1
  have h_s1_2 : Kept s0 s1_2 := by
    unfold s1_2
    repeat' first | (with_reducible assumption) | (with_reducible apply kept_clearFence) | (with_reducible apply kept_unfenceTo)
  try clear_value s1_2
  repeat' first | (with_reducible assumption) | (with_reducible apply kept_setFn) | (with_reducible apply kept_syncPend) | (with_reducible apply kept_wrB)

theorem kept_reloadNi {s0 s : State} (h : Kept s0 s) : ∀ x0, Kept s0 (reloadNi s x0) := by
  intro x0
  unfold reloadNi
  repeat' first | (with_reducible assumption) | (with_reducible apply kept_fenceEntries) | (with_reducible apply keptP_mk) | (with_reducible apply keptQ_mk)

theorem kept_unfenceOpen {s0 s : State} (h : Kept s0 s) : ∀ x0, Kept s0 (unfenceOpen s x0) := by
  intro x0
  unfold unfenceOpen
  extract_lets -merge -useContext -underBinder s1_1 s2_2
  have h_s1_1 : Kept s0 s1_1 := by
    unfold s1_1
    repeat' first | (with_reducible assumption) | (with_reducible apply kept_setFab)
  try clear_value s1_1
  have h_s2_2 : Kept s0 s2_2 := by
    unfold s2_2
    repeat' first | (with_reducible assumption) | (with_reducible apply kept_unfenceTo) | (with_reducible apply kept_clearFence) | (with_reducible apply kept_setFn)
  try clear_value s2_2
  apply kept_ite
  · repeat' first | (with_reducible assumption) | (with_reducible apply kept_fenceRequest)
  · repeat' first | (with_reducible assumption)

theorem kept_unfence {s0 s : State} (h : Kept s0 s) : ∀ x0, Kept s0 (unfence s x0) := by
  intro x0
  unfold unfence
  apply kept_ite
  · repeat' first | (with_reducible assumption)
  · extract_lets -merge -useContext -underBinder s1_1
    have h_s1_1 : Kept s0 s1_1 := by
      unfold s1_1
      refine kept_foldl _ ?_ _ ?_
      · intro a_2 x_3 h_4
        repeat' first | (with_reducible assumption) | (with_reducible apply kept_reloadNi)
      · repeat' first | (with_reducible assumption) | (with_reducible apply kept_wrB)
    try clear_value s1_1
    split
    · rename_i a_5 e_6
      repeat' first | (with_reducible assumption) | (with_reducible apply kept_unfenceOpen)
    · rename_i a_7 a_8 e_9
      repeat' first | (with_reducible assumption) | (with_reducible apply kept_setFab) | (with_reducible apply kept_setFn)

theorem kept_fenceWaking {s0 s : State} (h : Kept s0 s) : ∀ x0, Kept s0 (fenceWaking s x0) := by
  intro x0
  unfold fenceWaking
  apply kept_ite
  · repeat' first | (with_reducible assumption) | (with_reducible apply kept_bump) | (with_reducible apply kept_setFn)
  · assumption

theorem kept_unfenceMsgRx {s0 s : State} (h : Kept s0 s) : ∀ x0 x1, Kept s0 (unfenceMsgRx s x0 x1) := by
  intro x0 x1
  unfold unfenceMsgRx
  extract_lets -merge -useContext -underBinder s1_1
  have h_s1_1 : Kept s0 s1_1 := by
    unfold s1_1
    repeat' first | (with_reducible assumption) | (with_reducible apply kept_markEntries)
  try clear_value s1_1
  apply kept_ite
  · assumption
  · repeat' first | (with_reducible assumption) | (with_reducible apply kept_setFab) | simp only [kept_mk_iff] | dsimp only | intro _ _ _ | (with_reducible apply keptP_mk) | (with_reducible apply keptQ_mk)

theorem kept_unfenceAckRx {s0 s : State} (h : Kept s0 s) : ∀ x0 x1, Kept s0 (unfenceAckRx s x0 x1) := by
  intro x0 x1
  unfold unfenceAckRx
  extract_lets -merge -useContext -underBinder s1_1
  have h_s1_1 : Kept s0 s1_1 := by
    unfold s1_1
    repeat' first | (with_reducible assumption) | (with_reducible apply kept_setFab) | (with_reducible apply keptP_mk) | (with_reducible apply keptQ_mk)
  try clear_value s1_1
  apply kept_ite
  · repeat' first | (with_reducible assumption)
  · repeat' first | (with_reducible assumption) | (with_reducible apply kept_raiseIf) | (with_reducible apply kept_setFab)

theorem kept_fenceAckRx {s0 s : State} (h : Kept s0 s) : ∀ x0 x1, Kept s0 (fenceAckRx s x0 x1) := by
  intro x0 x1
  unfold fenceAckRx
  extract_lets -merge -useContext -underBinder s1_1 s2_2
  have h_s1_1 : Kept s0 s1_1 := by
    unfold s1_1
    repeat' first | (with_reducible assumption) | (with_reducible apply kept_setFab) | (with_reducible apply kept_syncPend) | simp only [kept_mk_iff] | dsimp only | intro _ _ _ | (with_reducible apply keptP_mk) | (with_reducible apply keptQ_mk)
  try clear_value s1_1
  have h_s2_2 : Kept s0 s2_2 := by
    unfold s2_2
    repeat' first | (with_reducible assumption) | (with_reducible apply kept_fenceDone)
  try clear_value s2_2
  apply kept_ite
  · apply kept_ite
    · apply kept_ite
      · assumption
      · repeat' first | (with_reducible assumption) | (with_reducible apply kept_fenceWaking) | (with_reducible apply kept_unfence)
    · assumption
  · apply kept_ite
    · repeat' first | (with_reducible assumption) | (with_reducible apply kept_unfenceAckRx)
    · assumption

theorem kept_unfenceRequest {s0 s : State} (h : Kept s0 s) : ∀ x0, Kept s0 (unfenceRequest s x0) := by
  intro x0
  unfold unfenceRequest
  repeat' first | (with_reducible assumption) | (with_reducible apply kept_fenceWaking) | (with_reducible apply kept_wrB)

theorem kept_rcfgGo {s0 s : State} (h : Kept s0 s) : ∀ x0 x1, Kept s0 (rcfgGo s x0 x1) := by
  intro x0 x1
  unfold rcfgGo
  extract_lets -merge -useContext -underBinder op_2 s1_3
  try clear_value op_2
  have h_s1_3 : Kept s0 s1_3 := by
    unfold s1_3
    repeat' first | (with_reducible assumption) | (with_reducible apply kept_wr)
  try clear_value s1_3
  apply kept_ite
  · repeat' first | (with_reducible assumption)
  · apply kept_ite
    · repeat' first | (with_reducible assumption)
    · repeat' first | (with_reducible assumption) | (with_reducible apply kept_wrF)

end Sys2Proof.Machine
end

