-- ==== Sys2Proof/Laws/KeptJournal.lean ====
section
/-! SUPPORT. What each operation of Machine/Journal.lean keeps. -/

set_option linter.unreachableTactic false
set_option linter.unusedTactic false
set_option linter.unusedSimpArgs false
set_option linter.unusedVariables false

namespace Sys2Proof.Machine

theorem kept_setStore {s0 s : State} (h : Kept s0 s) : ∀ x0, Kept s0 (setStore s x0) := by
  intro x0
  unfold setStore
  repeat' first | (with_reducible assumption) | simp only [kept_mk_iff]

theorem kept_setJournal {s0 s : State} (h : Kept s0 s) : ∀ x0, Kept s0 (setJournal s x0) := by
  intro x0
  unfold setJournal
  repeat' first | (with_reducible assumption) | (with_reducible apply kept_setStore) | simp only [kept_mk_iff]

theorem kept_rawClear {s0 s : State} (h : Kept s0 s) : ∀ x0 x1, Kept s0 (rawClear s x0 x1) := by
  intro x0 x1
  unfold rawClear
  repeat' first | (with_reducible assumption) | (with_reducible apply kept_setStore) | (with_reducible apply KeptP.one)

theorem kept_syncSegs {s0 s : State} (h : Kept s0 s) : Kept s0 (syncSegs s) := by
  unfold syncSegs
  extract_lets -merge -useContext -underBinder j_1 was_2 s1_3 s2_4 full_5 s3_6
  try clear_value j_1
  try clear_value was_2
  have h_s1_3 : Kept s0 s1_3 := by
    unfold s1_3
    repeat' first | (with_reducible assumption) | (with_reducible apply kept_wr) | simp only [kept_mk_iff] | dsimp only | intro _ _ _ | (with_reducible apply keptP_mk) | (with_reducible apply keptQ_mk)
  try clear_value s1_3
  have h_s2_4 : Kept s0 s2_4 := by
    unfold s2_4
    repeat' first | (with_reducible assumption) | (with_reducible apply kept_raiseIf)
  try clear_value s2_4
  try clear_value full_5
  have h_s3_6 : Kept s0 s3_6 := by
    unfold s3_6
    repeat' first | (with_reducible assumption) | (with_reducible apply kept_raiseIf)
  try clear_value s3_6
  repeat' first | (with_reducible assumption) | (with_reducible apply kept_wrB)

theorem kept_openSeg {s0 s : State} (h : Kept s0 s) : ∀ x0 x1, Kept s0 (openSeg s x0 x1) := by
  intro x0 x1
  unfold openSeg
  split
  · rename_i a_1 e_2
    repeat' first | (with_reducible assumption)
  · rename_i a_3 a_4 e_5
    repeat' first | (with_reducible assumption) | (with_reducible apply kept_setJournal) | (with_reducible apply kept_rawClear)

theorem kept_writeRec {s0 s : State} (h : Kept s0 s) : ∀ x0 x1, Kept s0 (writeRec s x0 x1) := by
  intro x0 x1
  unfold writeRec
  extract_lets -merge -useContext -underBinder armed_1 r_2 s1_3 fits_4 s2_5
  try clear_value armed_1
  try clear_value r_2
  have h_s1_3 : Kept s0 s1_3 := by
    unfold s1_3
    apply kept_ite
    · repeat' first | (with_reducible assumption) | (with_reducible apply kept_wrB)
    · repeat' first | (with_reducible assumption)
  try clear_value s1_3
  try clear_value fits_4
  have h_s2_5 : Kept s0 s2_5 := by
    unfold s2_5
    apply kept_ite
    · repeat' first | (with_reducible assumption)
    · repeat' first | (with_reducible assumption) | (with_reducible apply kept_openSeg) | (with_reducible apply kept_setJournal)
  try clear_value s2_5
  split
  · rename_i a_6 e_7
    repeat' first | (with_reducible assumption)
  · rename_i a_8 a_9 e_10
    extract_lets -merge -useContext -underBinder at__11 s3_12 s4_13
    try clear_value at__11
    have h_s3_12 : Kept s0 s3_12 := by
      unfold s3_12
      repeat' first | (with_reducible assumption) | (with_reducible apply kept_setJournal) | (with_reducible apply kept_rawClear)
    try clear_value s3_12
    have h_s4_13 : Kept s0 s4_13 := by
      unfold s4_13
      repeat' first | (with_reducible assumption) | (with_reducible apply kept_wr64)
    try clear_value s4_13
    repeat' first | (with_reducible assumption) | (with_reducible apply kept_syncSegs) | (with_reducible apply kept_bump)

theorem kept_append {s0 s : State} (h : Kept s0 s) : ∀ x0 x1 x2 x3, KeptP s0 (append s x0 x1 x2 x3) := by
  intro x0 x1 x2 x3
  unfold append
  extract_lets -merge -useContext -underBinder seq_1 r_2
  try clear_value seq_1
  try clear_value r_2
  apply keptP_ite
  · apply keptP_mk
    assumption
  · apply keptP_ite
    · apply keptP_mk
      repeat' first | (with_reducible assumption) | (with_reducible apply kept_setJournal) | (with_reducible apply kept_ite) | (with_reducible apply keptP_ite) | simp only [kept_mk_iff] | split
    · apply keptP_mk
      repeat' first | (with_reducible assumption) | (with_reducible apply kept_writeRec)

theorem kept_log {s0 s : State} (h : Kept s0 s) : ∀ x0 x1 x2, Kept s0 (log s x0 x1 x2) := by
  intro x0 x1 x2
  unfold log
  repeat' first | (with_reducible assumption) | (with_reducible apply kept_append) | (with_reducible apply KeptP.one)

theorem kept_setLed {s0 s : State} (h : Kept s0 s) : ∀ x0 x1, Kept s0 (setLed s x0 x1) := by
  intro x0 x1
  unfold setLed
  repeat' first | (with_reducible assumption) | (with_reducible apply kept_setStore) | (with_reducible apply kept_ite) | simp only [kept_mk_iff] | split

theorem kept_ledAdd {s0 s : State} (h : Kept s0 s) : ∀ x0 x1, Kept s0 (ledAdd s x0 x1) := by
  intro x0 x1
  unfold ledAdd
  repeat' first | (with_reducible assumption) | (with_reducible apply kept_setLed)

theorem kept_ledAdd48 {s0 s : State} (h : Kept s0 s) : ∀ x0 x1, Kept s0 (ledAdd48 s x0 x1) := by
  intro x0 x1
  unfold ledAdd48
  extract_lets -merge -useContext -underBinder v_1
  try clear_value v_1
  repeat' first | (with_reducible assumption) | (with_reducible apply kept_setLed)

theorem kept_writeLedger {s0 s : State} (h : Kept s0 s) : Kept s0 (writeLedger s) := by
  unfold writeLedger
  repeat' first | (with_reducible assumption) | (with_reducible apply kept_log) | (with_reducible apply kept_setStore) | simp only [kept_mk_iff]

theorem kept_copyRecs {s0 s : State} (h : Kept s0 s) : ∀ x0 x1, Kept s0 (copyRecs s x0 x1) := by
  intro x0 x1
  induction x1 generalizing s x0 with
  | nil =>
    unfold copyRecs
    assumption
  | cons y ys ih =>
    unfold copyRecs
    repeat' first | (with_reducible assumption) | (with_reducible apply ih) | (with_reducible apply kept_writeRec) | simp only [kept_mk_iff]

theorem kept_appendHeld {s0 s : State} (h : Kept s0 s) : ∀ x0 x1, Kept s0 (appendHeld s x0 x1) := by
  intro x0 x1
  induction x1 generalizing s x0 with
  | nil =>
    unfold appendHeld
    assumption
  | cons y ys ih =>
    unfold appendHeld
    repeat' first | (with_reducible assumption) | (with_reducible apply ih) | (with_reducible apply kept_writeRec) | simp only [kept_mk_iff]

theorem kept_ueMeet {s0 s : State} (h : Kept s0 s) : Kept s0 (ueMeet s) := by
  unfold ueMeet
  repeat' first | (with_reducible assumption) | (with_reducible apply kept_bump) | (with_reducible apply kept_raise) | (with_reducible apply kept_wrB)

theorem kept_compact {s0 s : State} (h : Kept s0 s) : Kept s0 (compact s) := by
  unfold compact
  extract_lets -merge -useContext -underBinder e_1 s0_2 ue_3 s1_4 old_5 s2_6 live_7 s3_8 s4_9 s5_10 bad_11 s6_12 h_13 s7_14
  try clear_value e_1
  have h_s0_2 : Kept s0 s0_2 := by
    unfold s0_2
    repeat' first | (with_reducible assumption) | (with_reducible apply kept_raise)
  try clear_value s0_2
  try clear_value ue_3
  have h_s1_4 : Kept s0 s1_4 := by
    unfold s1_4
    apply kept_ite
    · repeat' first | (with_reducible assumption) | (with_reducible apply kept_ueMeet)
    · repeat' first | (with_reducible assumption)
  try clear_value s1_4
  try clear_value old_5
  have h_s2_6 : Kept s0 s2_6 := by
    unfold s2_6
    repeat' first | (with_reducible assumption) | (with_reducible apply kept_ledAdd)
  try clear_value s2_6
  try clear_value live_7
  have h_s3_8 : Kept s0 s3_8 := by
    unfold s3_8
    repeat' first | (with_reducible assumption) | (with_reducible apply kept_copyRecs)
  try clear_value s3_8
  have h_s4_9 : Kept s0 s4_9 := by
    unfold s4_9
    repeat' first | (with_reducible assumption) | (with_reducible apply kept_writeRec)
  try clear_value s4_9
  have h_s5_10 : Kept s0 s5_10 := by
    unfold s5_10
    repeat' first | (with_reducible assumption) | (with_reducible apply kept_wr)
  try clear_value s5_10
  try clear_value bad_11
  have h_s6_12 : Kept s0 s6_12 := by
    unfold s6_12
    repeat' first | (with_reducible assumption) | (with_reducible apply kept_setJournal)
  try clear_value s6_12
  try clear_value h_13
  have h_s7_14 : Kept s0 s7_14 := by
    unfold s7_14
    repeat' first | (with_reducible assumption) | (with_reducible apply kept_appendHeld) | (with_reducible apply kept_setJournal)
  try clear_value s7_14
  repeat' first | (with_reducible assumption) | (with_reducible apply kept_bump) | (with_reducible apply kept_raise) | (with_reducible apply kept_syncSegs)

end Sys2Proof.Machine
end

