-- ==== Sys2Proof/Laws/KeptCmaBase.lean ====
section
/-! SUPPORT. What each operation of Machine/CmaBase.lean keeps. -/

set_option linter.unreachableTactic false
set_option linter.unusedTactic false
set_option linter.unusedSimpArgs false
set_option linter.unusedVariables false

namespace Sys2Proof.Machine

theorem kept_putCma {s0 s : State} (h : Kept s0 s) : ∀ x0 x1, Kept s0 (putCma s x0 x1) := by
  intro x0 x1
  unfold putCma
  repeat' first | (with_reducible assumption) | (with_reducible apply kept_ite) | simp only [kept_mk_iff] | split

theorem kept_setCma {s0 s : State} (h : Kept s0 s) : ∀ x0 x1, Kept s0 (setCma s x0 x1) := by
  intro x0 x1
  unfold setCma
  repeat' first | (with_reducible assumption) | (with_reducible apply kept_putCma)

theorem kept_cmaSync {s0 s : State} (h : Kept s0 s) : ∀ x0, Kept s0 (cmaSync s x0) := by
  intro x0
  unfold cmaSync
  extract_lets -merge -useContext -underBinder c_1 lb_2 w_3 bank_4
  try clear_value c_1
  try clear_value lb_2
  try clear_value w_3
  try clear_value bank_4
  repeat' first | (with_reducible assumption) | (with_reducible apply kept_wr) | simp only [kept_mk_iff] | dsimp only | intro _ _ _ | (with_reducible apply keptP_mk) | (with_reducible apply keptQ_mk)

theorem kept_dropBank {s0 s : State} (h : Kept s0 s) : ∀ x0 x1, Kept s0 (dropBank s x0 x1) := by
  intro x0 x1
  unfold dropBank
  repeat' first | (with_reducible assumption) | (with_reducible apply kept_wr)

theorem kept_dropBanks {s0 s : State} (h : Kept s0 s) : ∀ x0, Kept s0 (dropBanks s x0) := by
  intro x0
  unfold dropBanks
  repeat' first | (with_reducible assumption) | (with_reducible apply kept_dropBank) | (with_reducible apply kept_setCma) | (with_reducible apply kept_foldl) | (with_reducible apply keptP_foldl) | simp only [kept_mk_iff] | dsimp only | intro _ _ _

theorem kept_setCmaState {s0 s : State} (h : Kept s0 s) : ∀ x0 x1, Kept s0 (setCmaState s x0 x1) := by
  intro x0 x1
  unfold setCmaState
  repeat' first | (with_reducible assumption) | (with_reducible apply kept_wrF)

theorem kept_startCal {s0 s : State} (h : Kept s0 s) : ∀ x0, Kept s0 (startCal s x0) := by
  intro x0
  unfold startCal
  repeat' first | (with_reducible assumption) | (with_reducible apply kept_cmaSync) | (with_reducible apply kept_dropBanks) | (with_reducible apply kept_setCma) | (with_reducible apply kept_setCmaState) | simp only [kept_mk_iff]

theorem kept_requestCal {s0 s : State} (h : Kept s0 s) : ∀ x0, Kept s0 (requestCal s x0) := by
  intro x0
  unfold requestCal
  apply kept_ite
  · repeat' first | (with_reducible assumption) | (with_reducible apply kept_cmaSync) | (with_reducible apply kept_setCma) | simp only [kept_mk_iff]
  · repeat' first | (with_reducible assumption) | (with_reducible apply kept_startCal)

theorem kept_calDueCheck {s0 s : State} (h : Kept s0 s) : ∀ x0, Kept s0 (calDueCheck s x0) := by
  intro x0
  unfold calDueCheck
  extract_lets -merge -useContext -underBinder s1_1
  have h_s1_1 : Kept s0 s1_1 := by
    unfold s1_1
    repeat' first | (with_reducible assumption) | (with_reducible apply kept_raise) | (with_reducible apply kept_wrB)
  try clear_value s1_1
  apply kept_ite
  · assumption
  · apply kept_ite
    · repeat' first | (with_reducible assumption) | (with_reducible apply kept_requestCal)
    · repeat' first | (with_reducible assumption) | (with_reducible apply kept_cmaSync)

theorem kept_writeCalRec {s0 s : State} (h : Kept s0 s) : ∀ x0 x1 x2, Kept s0 (writeCalRec s x0 x1 x2) := by
  intro x0 x1 x2
  unfold writeCalRec
  extract_lets -merge -useContext -underBinder band_1 x_2 s1_3
  try clear_value band_1
  try clear_value x_2
  have h_s1_3 : Kept s0 s1_3 := by
    unfold s1_3
    repeat' first | (with_reducible assumption) | (with_reducible apply kept_setCma) | (with_reducible apply KeptP.one)
  try clear_value s1_3
  apply kept_ite
  · repeat' first | (with_reducible assumption)
  · repeat' first | (with_reducible assumption) | (with_reducible apply kept_setCma) | (with_reducible apply kept_wrB)

theorem kept_cmaRetain {s0 s : State} (h : Kept s0 s) : ∀ x0, Kept s0 (cmaRetain s x0) := by
  intro x0
  unfold cmaRetain
  apply kept_ite
  · repeat' first | (with_reducible assumption) | (with_reducible apply kept_cmaSync) | (with_reducible apply kept_dropBanks)
  · assumption

theorem kept_cmaOff {s0 s : State} (h : Kept s0 s) : ∀ x0, Kept s0 (cmaOff s x0) := by
  intro x0
  unfold cmaOff
  extract_lets -merge -useContext -underBinder c_1 s1_2 s2_3 __src_4
  try clear_value c_1
  have h_s1_2 : Kept s0 s1_2 := by
    unfold s1_2
    repeat' first | (with_reducible assumption) | (with_reducible apply kept_setCmaState) | (with_reducible apply kept_wr)
  try clear_value s1_2
  have h_s2_3 : Kept s0 s2_3 := by
    unfold s2_3
    repeat' first | (with_reducible assumption) | (with_reducible apply kept_dropBank) | (with_reducible apply kept_wrB) | (with_reducible apply kept_wrF) | (with_reducible apply kept_wr) | (with_reducible apply kept_foldl) | (with_reducible apply keptP_foldl) | dsimp only | intro _ _ _
  try clear_value s2_3
  apply kept_ite
  · assumption
  · repeat' first | (with_reducible assumption) | (with_reducible apply kept_cmaSync) | (with_reducible apply kept_putCma) | simp only [kept_mk_iff]

end Sys2Proof.Machine
end

