-- ==== Sys2Proof/Laws/KeptUnits.lean ====
section
/-! SUPPORT. What each operation of Machine/Units.lean keeps. -/

set_option linter.unreachableTactic false
set_option linter.unusedTactic false
set_option linter.unusedSimpArgs false
set_option linter.unusedVariables false

namespace Sys2Proof.Machine

theorem kept_dropQueues {s0 s : State} (h : Kept s0 s) : ∀ x0, Kept s0 (dropQueues s x0) := by
  intro x0
  unfold dropQueues
  repeat' first | (with_reducible assumption) | (with_reducible apply kept_emptyQueue) | (with_reducible apply kept_foldl) | (with_reducible apply keptP_foldl) | (with_reducible apply KeptP.one) | dsimp only | intro _ _ _

theorem kept_loseMemories {s0 s : State} (h : Kept s0 s) (d : Nat) : Kept s0 (loseMemories s d) := by
  unfold loseMemories
  split
  · refine kept_mem h _ fun w => ?_
    exact Memory.wf_lose _ _ _ (wf_foldl _ (fun m c x => Memory.wf_lose _ _ _ x) _ _ (Memory.wf_lose _ _ _ w))
  · split
    · exact kept_mem h _ fun w => Memory.wf_lose _ _ _ w
    · exact h

theorem kept_loseOff {s0 s : State} (h : Kept s0 s) (d : Nat) : Kept s0 (loseOff s d) := by
  unfold loseOff
  extract_lets -merge -useContext -underBinder a b s2 lo hi kept s3
  have ha : Kept s0 a := by
    unfold a
    apply kept_ite
    · simp only [kept_mk_iff]; exact h
    · exact h
  have hb : Kept s0 b := by
    unfold b
    apply kept_ite
    · exact kept_cmaOff (kept_loseMemories ha _) _
    · exact kept_loseMemories ha _
  apply kept_ite
  · have h3 : Kept s0 s3 := kept_regsFilter (kept_dropQueues hb _) _
    exact kept_foldl _ (fun a x k => kept_syncQStat k _ _) _ h3
  · exact hb

theorem kept_loseRetain {s0 s : State} (h : Kept s0 s) : ∀ x0, Kept s0 (loseRetain s x0) := by
  intro x0
  unfold loseRetain
  apply kept_ite
  · repeat' first | (with_reducible assumption) | (with_reducible apply kept_cmaRetain)
  · assumption

theorem kept_loseBanks {s0 s : State} (h : Kept s0 s) (d : Nat) (lost : W32) : Kept s0 (loseBanks s d lost) := by
  unfold loseBanks
  split
  · exact h
  · refine kept_mem h _ fun w => wf_foldl _ ?_ _ _ w
    intro m k x
    split
    · exact x
    · split
      · exact Memory.wf_lose _ _ _ x
      · split
        · exact Memory.wf_lose _ _ _ x
        · exact Memory.wf_lose _ _ _ x

end Sys2Proof.Machine
end

