-- ==== Sys2Proof/Laws/KeptLaneBase.lean ====
section
/-! SUPPORT. What each operation of Machine/LaneBase.lean keeps. -/

set_option linter.unreachableTactic false
set_option linter.unusedTactic false
set_option linter.unusedSimpArgs false
set_option linter.unusedVariables false

namespace Sys2Proof.Machine

theorem kept_macSync {s0 s : State} (h : Kept s0 s) : ∀ x0, Kept s0 (macSync s x0) := by
  intro x0
  unfold macSync
  extract_lets -merge -useContext -underBinder ls_1 fit_2 up_3 al_4 fec_5 was_6 s1_7
  try clear_value ls_1
  try clear_value fit_2
  try clear_value up_3
  try clear_value al_4
  try clear_value fec_5
  try clear_value was_6
  have h_s1_7 : Kept s0 s1_7 := by
    unfold s1_7
    repeat' first | (with_reducible assumption) | (with_reducible apply kept_wrF)
  try clear_value s1_7
  repeat' first | (with_reducible assumption) | (with_reducible apply kept_raiseIf)

theorem kept_putPort {s0 s : State} (h : Kept s0 s) : ∀ x0 x1, Kept s0 (putPort s x0 x1) := by
  intro x0 x1
  unfold putPort
  repeat' first | (with_reducible assumption) | (with_reducible apply kept_setLace) | (with_reducible apply kept_ite) | simp only [kept_mk_iff] | split

theorem kept_modPort {s0 s : State} (h : Kept s0 s) : ∀ x0 x1, Kept s0 (modPort s x0 x1) := by
  intro x0 x1
  unfold modPort
  repeat' first | (with_reducible assumption) | (with_reducible apply kept_putPort)

theorem kept_setPortState {s0 s : State} (h : Kept s0 s) : ∀ x0 x1, Kept s0 (setPortState s x0 x1) := by
  intro x0 x1
  unfold setPortState
  repeat' first | (with_reducible assumption) | (with_reducible apply kept_wrF)

theorem kept_linkDrop {s0 s : State} (h : Kept s0 s) : ∀ x0, Kept s0 (linkDrop s x0) := by
  intro x0
  unfold linkDrop
  extract_lets -merge -useContext -underBinder x_1 __src_2 s1_3 s2_4
  try clear_value x_1
  have h_s1_3 : Kept s0 s1_3 := by
    unfold s1_3
    repeat' first | (with_reducible assumption) | (with_reducible apply kept_putPort) | simp only [kept_mk_iff]
  try clear_value s1_3
  have h_s2_4 : Kept s0 s2_4 := by
    unfold s2_4
    repeat' first | (with_reducible assumption) | (with_reducible apply kept_wrB)
  try clear_value s2_4
  repeat' first | (with_reducible assumption) | (with_reducible apply kept_truncProducers)

theorem kept_portSync {s0 s : State} (h : Kept s0 s) : ∀ x0, Kept s0 (portSync s x0) := by
  intro x0
  unfold portSync
  extract_lets -merge -useContext -underBinder old_1 nw_2 live_3 s1_4
  try clear_value old_1
  try clear_value nw_2
  try clear_value live_3
  have h_s1_4 : Kept s0 s1_4 := by
    unfold s1_4
    repeat' first | (with_reducible assumption) | (with_reducible apply kept_setPortState)
  try clear_value s1_4
  apply kept_ite
  · assumption
  · apply kept_ite
    · assumption
    · apply kept_ite
      · repeat' first | (with_reducible assumption) | (with_reducible apply kept_raise)
      · apply kept_ite
        · repeat' first | (with_reducible assumption) | (with_reducible apply kept_linkDrop) | (with_reducible apply kept_raise)
        · assumption

theorem kept_linkSync {s0 s : State} (h : Kept s0 s) : ∀ x0, Kept s0 (linkSync s x0) := by
  intro x0
  unfold linkSync
  extract_lets -merge -useContext -underBinder s1_1
  have h_s1_1 : Kept s0 s1_1 := by
    unfold s1_1
    repeat' first | (with_reducible assumption) | (with_reducible apply kept_macSync) | (with_reducible apply kept_foldl) | (with_reducible apply keptP_foldl) | dsimp only | intro _ _ _
  try clear_value s1_1
  split
  · repeat' first | (with_reducible assumption) | (with_reducible apply kept_portSync)
  · assumption

theorem kept_beginAttempt {s0 s : State} (h : Kept s0 s) : ∀ x0 x1, Kept s0 (beginAttempt s x0 x1) := by
  intro x0 x1
  unfold beginAttempt
  extract_lets -merge -useContext -underBinder was_1 last_2 s1_3 s2_4 s3_5
  try clear_value was_1
  try clear_value last_2
  have h_s1_3 : Kept s0 s1_3 := by
    unfold s1_3
    apply kept_ite
    · repeat' first | (with_reducible assumption) | (with_reducible apply kept_wrF)
    · assumption
  try clear_value s1_3
  have h_s2_4 : Kept s0 s2_4 := by
    unfold s2_4
    repeat' first | (with_reducible assumption) | (with_reducible apply kept_modLaneSt) | (with_reducible apply kept_setLaneState) | simp only [kept_mk_iff]
  try clear_value s2_4
  have h_s3_5 : Kept s0 s3_5 := by
    unfold s3_5
    repeat' first | (with_reducible assumption) | (with_reducible apply kept_bump) | (with_reducible apply kept_raise)
  try clear_value s3_5
  repeat' first | (with_reducible assumption) | (with_reducible apply kept_emit) | simp only [kept_mk_iff] | dsimp only | intro _ _ _ | (with_reducible apply keptP_mk) | (with_reducible apply keptQ_mk)

theorem kept_laneOff {s0 s : State} (h : Kept s0 s) : ∀ x0, Kept s0 (laneOff s x0) := by
  intro x0
  unfold laneOff
  extract_lets -merge -useContext -underBinder s1_1
  have h_s1_1 : Kept s0 s1_1 := by
    unfold s1_1
    repeat' first | (with_reducible assumption) | (with_reducible apply kept_modLaneSt) | (with_reducible apply kept_setLaneState) | (with_reducible apply kept_wrF) | simp only [kept_mk_iff]
  try clear_value s1_1
  repeat' first | (with_reducible assumption) | (with_reducible apply kept_linkSync) | (with_reducible apply kept_wrB)

theorem kept_laneStart {s0 s : State} (h : Kept s0 s) : ∀ x0, Kept s0 (laneStart s x0) := by
  intro x0
  unfold laneStart
  split
  · apply kept_ite
    · repeat' first | (with_reducible assumption) | (with_reducible apply kept_beginAttempt) | (with_reducible apply kept_linkSync)
    · assumption
  · apply kept_ite
    · repeat' first | (with_reducible assumption) | (with_reducible apply kept_beginAttempt) | (with_reducible apply kept_linkSync)
    · assumption
  · repeat' first | (with_reducible assumption) | (with_reducible apply kept_setLaneState)
  · repeat' first | (with_reducible assumption) | (with_reducible apply kept_setLaneState)
  · assumption

theorem kept_failLane {s0 s : State} (h : Kept s0 s) : ∀ x0 x1, Kept s0 (failLane s x0 x1) := by
  intro x0 x1
  unfold failLane
  apply kept_ite
  · repeat' first | (with_reducible assumption)
  · apply kept_ite
    · repeat' first | (with_reducible assumption) | (with_reducible apply kept_modLaneSt) | (with_reducible apply kept_setLaneState)
    · extract_lets -merge -useContext -underBinder s1_3 f_4 s2_5
      have h_s1_3 : Kept s0 s1_3 := by
        unfold s1_3
        repeat' first | (with_reducible assumption) | (with_reducible apply kept_modLaneSt) | (with_reducible apply kept_wr) | (with_reducible apply keptP_mk) | (with_reducible apply keptQ_mk)
      try clear_value s1_3
      try clear_value f_4
      have h_s2_5 : Kept s0 s2_5 := by
        unfold s2_5
        repeat' first | (with_reducible assumption) | (with_reducible apply kept_wrF) | (with_reducible apply kept_setLaneState)
      try clear_value s2_5
      apply kept_ite
      · repeat' first | (with_reducible assumption) | (with_reducible apply kept_wrF) | (with_reducible apply kept_setLaneState)
      · apply kept_ite
        · repeat' first | (with_reducible assumption) | (with_reducible apply kept_raise) | (with_reducible apply kept_modLaneSt)
        · repeat' first | (with_reducible assumption)

theorem kept_failAttempt {s0 s : State} (h : Kept s0 s) : ∀ x0 x1, Kept s0 (failAttempt s x0 x1) := by
  intro x0 x1
  unfold failAttempt
  repeat' first | (with_reducible assumption) | (with_reducible apply kept_failLane) | (with_reducible apply kept_linkSync) | (with_reducible apply kept_foldl) | (with_reducible apply keptP_foldl) | dsimp only | intro _ _ _

theorem kept_retrainLane {s0 s : State} (h : Kept s0 s) : ∀ x0, Kept s0 (retrainLane s x0) := by
  intro x0
  unfold retrainLane
  extract_lets -merge -useContext -underBinder s1_1
  have h_s1_1 : Kept s0 s1_1 := by
    unfold s1_1
    repeat' first | (with_reducible assumption) | (with_reducible apply kept_bump) | (with_reducible apply kept_raise)
  try clear_value s1_1
  apply kept_ite
  · assumption
  · repeat' first | (with_reducible assumption) | (with_reducible apply kept_beginAttempt) | (with_reducible apply kept_ledAdd)

theorem kept_retrain {s0 s : State} (h : Kept s0 s) : ∀ x0, Kept s0 (retrain s x0) := by
  intro x0
  unfold retrain
  repeat' first | (with_reducible assumption) | (with_reducible apply kept_linkSync) | (with_reducible apply kept_retrainLane) | (with_reducible apply kept_foldl) | (with_reducible apply keptP_foldl) | dsimp only | intro _ _ _

theorem kept_retrainCmd {s0 s : State} (h : Kept s0 s) : ∀ x0, Kept s0 (retrainCmd s x0) := by
  intro x0
  unfold retrainCmd
  extract_lets -merge -useContext -underBinder k_1
  try clear_value k_1
  apply kept_ite
  · repeat' first | (with_reducible assumption) | (with_reducible apply kept_retrain)
  · apply kept_ite
    · repeat' first | (with_reducible assumption) | (with_reducible apply kept_beginAttempt) | (with_reducible apply kept_linkSync)
    · assumption

theorem kept_laneUp {s0 s : State} (h : Kept s0 s) : ∀ x0, Kept s0 (laneUp s x0) := by
  intro x0
  unfold laneUp
  repeat' first | (with_reducible assumption) | (with_reducible apply kept_raise) | (with_reducible apply kept_wrF) | (with_reducible apply kept_setLaneState) | (with_reducible apply kept_modLaneSt) | (with_reducible apply keptP_mk) | (with_reducible apply keptQ_mk)

theorem kept_shoreUp {s0 s : State} (h : Kept s0 s) : ∀ x0, Kept s0 (shoreUp s x0) := by
  intro x0
  unfold shoreUp
  apply kept_ite
  · assumption
  · repeat' first | (with_reducible assumption) | (with_reducible apply kept_laneStart) | (with_reducible apply kept_ite) | (with_reducible apply kept_foldl) | (with_reducible apply keptP_foldl) | split | dsimp only | intro _ _ _

theorem kept_shoreDown {s0 s : State} (h : Kept s0 s) : ∀ x0, Kept s0 (shoreDown s x0) := by
  intro x0
  unfold shoreDown
  apply kept_ite
  · assumption
  · repeat' first | (with_reducible assumption) | (with_reducible apply kept_laneOff) | (with_reducible apply kept_ite) | (with_reducible apply kept_foldl) | (with_reducible apply keptP_foldl) | split | dsimp only | intro _ _ _

theorem kept_markInj {s0 s : State} (h : Kept s0 s) : ∀ x0 x1, Kept s0 (markInj s x0 x1) := by
  intro x0 x1
  unfold markInj
  apply kept_ite
  · repeat' first | (with_reducible assumption) | (with_reducible apply kept_wrB)
  · assumption

theorem kept_aerReport {s0 s : State} (h : Kept s0 s) : ∀ x0, Kept s0 (aerReport s x0) := by
  intro x0
  unfold aerReport
  repeat' first | (with_reducible assumption) | (with_reducible apply kept_setHost)

theorem kept_losChange {s0 s : State} (h : Kept s0 s) : ∀ x0 x1 x2, Kept s0 (losChange s x0 x1 x2) := by
  intro x0 x1 x2
  unfold losChange
  extract_lets -merge -useContext -underBinder k_2 s1_3
  try clear_value k_2
  have h_s1_3 : Kept s0 s1_3 := by
    unfold s1_3
    repeat' first | (with_reducible assumption) | (with_reducible apply kept_markInj) | (with_reducible apply kept_raise) | (with_reducible apply kept_bump) | (with_reducible apply kept_wrB)
  try clear_value s1_3
  apply kept_ite
  · repeat' first | (with_reducible assumption)
  · apply kept_ite
    · repeat' first | (with_reducible assumption)
    · apply kept_ite
      · repeat' first | (with_reducible assumption) | (with_reducible apply kept_retrain)
      · apply kept_ite
        · repeat' first | (with_reducible assumption) | (with_reducible apply kept_failAttempt)
        · apply kept_ite
          · repeat' first | (with_reducible assumption) | (with_reducible apply kept_aerReport)
          · repeat' first | (with_reducible assumption)

theorem kept_lolChange {s0 s : State} (h : Kept s0 s) : ∀ x0 x1 x2, Kept s0 (lolChange s x0 x1 x2) := by
  intro x0 x1 x2
  unfold lolChange
  extract_lets -merge -useContext -underBinder k_2 s1_3
  try clear_value k_2
  have h_s1_3 : Kept s0 s1_3 := by
    unfold s1_3
    repeat' first | (with_reducible assumption) | (with_reducible apply kept_markInj) | (with_reducible apply kept_raise) | (with_reducible apply kept_bump) | (with_reducible apply kept_wrB)
  try clear_value s1_3
  apply kept_ite
  · repeat' first | (with_reducible assumption)
  · apply kept_ite
    · repeat' first | (with_reducible assumption)
    · apply kept_ite
      · repeat' first | (with_reducible assumption) | (with_reducible apply kept_retrain)
      · apply kept_ite
        · repeat' first | (with_reducible assumption) | (with_reducible apply kept_failAttempt)
        · apply kept_ite
          · repeat' first | (with_reducible assumption) | (with_reducible apply kept_aerReport)
          · repeat' first | (with_reducible assumption)

theorem kept_laneInjArm {s0 s : State} (h : Kept s0 s) : ∀ x0 x1 x2, Kept s0 (laneInjArm s x0 x1 x2) := by
  intro x0 x1 x2
  unfold laneInjArm
  extract_lets -merge -useContext -underBinder s1_1
  have h_s1_1 : Kept s0 s1_1 := by
    unfold s1_1
    repeat' first | (with_reducible assumption) | (with_reducible apply kept_wr) | simp only [kept_mk_iff] | dsimp only | intro _ _ _ | (with_reducible apply keptP_mk) | (with_reducible apply keptQ_mk)
  try clear_value s1_1
  apply kept_ite
  · assumption
  · apply kept_ite
    · repeat' first | (with_reducible assumption) | (with_reducible apply kept_losChange)
    · apply kept_ite
      · repeat' first | (with_reducible assumption) | (with_reducible apply kept_lolChange)
      · assumption

theorem kept_pllLose {s0 s : State} (h : Kept s0 s) : ∀ x0 x1 x2, Kept s0 (pllLose s x0 x1 x2) := by
  intro x0 x1 x2
  unfold pllLose
  extract_lets -merge -useContext -underBinder s1_1
  have h_s1_1 : Kept s0 s1_1 := by
    unfold s1_1
    repeat' first | (with_reducible assumption) | (with_reducible apply kept_raise) | (with_reducible apply kept_wrB)
  try clear_value s1_1
  repeat' first | (with_reducible assumption) | (with_reducible apply kept_lolChange) | (with_reducible apply kept_ite) | (with_reducible apply kept_foldl) | (with_reducible apply keptP_foldl) | split | dsimp only | intro _ _ _

theorem kept_quadInjArm {s0 s : State} (h : Kept s0 s) : ∀ x0 x1 x2, Kept s0 (quadInjArm s x0 x1 x2) := by
  intro x0 x1 x2
  unfold quadInjArm
  extract_lets -merge -useContext -underBinder s1_1
  have h_s1_1 : Kept s0 s1_1 := by
    unfold s1_1
    repeat' first | (with_reducible assumption) | (with_reducible apply kept_wr) | simp only [kept_mk_iff] | dsimp only | intro _ _ _ | (with_reducible apply keptP_mk) | (with_reducible apply keptQ_mk)
  try clear_value s1_1
  apply kept_ite
  · assumption
  · apply kept_ite
    · assumption
    · repeat' first | (with_reducible assumption) | (with_reducible apply kept_pllLose)

end Sys2Proof.Machine
end

