-- ==== Sys2Proof/Laws/KeptPower.lean ====
section
/-! SUPPORT. What each operation of Machine/Power.lean keeps. -/

set_option linter.unreachableTactic false
set_option linter.unusedTactic false
set_option linter.unusedSimpArgs false
set_option linter.unusedVariables false

namespace Sys2Proof.Machine

theorem kept_setPd {s0 s : State} (h : Kept s0 s) : ∀ x0 x1 x2 x3, Kept s0 (setPd s x0 x1 x2 x3) := by
  intro x0 x1 x2 x3
  unfold setPd
  repeat' first | (with_reducible assumption) | (with_reducible apply kept_wrF)

theorem kept_pdEvent {s0 s : State} (h : Kept s0 s) : ∀ x0 x1, Kept s0 (pdEvent s x0 x1) := by
  intro x0 x1
  unfold pdEvent
  repeat' first | (with_reducible assumption) | (with_reducible apply kept_raise)

theorem kept_rest {s0 s : State} (h : Kept s0 s) : ∀ x0 x1, Kept s0 (rest s x0 x1) := by
  intro x0 x1
  unfold rest
  extract_lets -merge -useContext -underBinder s1_1
  have h_s1_1 : Kept s0 s1_1 := by
    unfold s1_1
    repeat' first | (with_reducible assumption) | (with_reducible apply kept_setPd)
  try clear_value s1_1
  apply kept_ite
  · repeat' first | (with_reducible assumption) | (with_reducible apply kept_shoreUp)
  · repeat' first | (with_reducible assumption)

theorem kept_holdSync {s0 s : State} (h : Kept s0 s) : Kept s0 (holdSync s) := by
  unfold holdSync
  repeat' first | (with_reducible assumption) | simp only [kept_mk_iff]

theorem kept_syncFit {s0 s : State} (h : Kept s0 s) : ∀ x0, Kept s0 (syncFit s x0) := by
  intro x0
  unfold syncFit
  extract_lets -merge -useContext -underBinder c_1 x_2 s1_3
  try clear_value c_1
  try clear_value x_2
  have h_s1_3 : Kept s0 s1_3 := by
    unfold s1_3
    repeat' first | (with_reducible assumption) | (with_reducible apply kept_setPd)
  try clear_value s1_3
  apply kept_ite
  · assumption
  · apply kept_ite
    · assumption
    · split
      · repeat' first | (with_reducible assumption) | (with_reducible apply kept_setDom) | simp only [kept_mk_iff]
      · apply kept_ite
        · assumption
        · repeat' first | (with_reducible assumption) | (with_reducible apply kept_setDom) | simp only [kept_mk_iff]

theorem kept_execFitRampEnd {s0 s : State} (h : Kept s0 s) : ∀ x0, ∃ t, execFitRampEnd x0 s = .next t ∧ Kept s0 t := by
  intro x0
  refine ⟨_, rfl, ?_⟩
  extract_lets -merge -useContext -underBinder x_1
  try clear_value x_1
  split
  · assumption
  · extract_lets -merge -useContext -underBinder now_2
    try clear_value now_2
    repeat' first | (with_reducible assumption) | (with_reducible apply kept_setDom) | (with_reducible apply kept_ite) | simp only [kept_mk_iff] | split | dsimp only | intro _ _ _ | (with_reducible apply keptP_mk) | (with_reducible apply keptQ_mk)

theorem kept_execPowerLoopStep {s0 s : State} (h : Kept s0 s) : ∀ x0 x1, ∃ t, execPowerLoopStep x0 x1 s = .next t ∧ Kept s0 t := by
  intro x0 x1
  refine ⟨_, rfl, ?_⟩
  extract_lets -merge -useContext -underBinder s0_1 limit_2 ds_3 s1_4 low_5 s1_6
  have h_s0_1 : Kept s0 s0_1 := by
    unfold s0_1
    repeat' first | (with_reducible assumption) | (with_reducible apply kept_wrF)
  try clear_value s0_1
  try clear_value limit_2
  try clear_value ds_3
  have h_s1_4 : Kept s0 s1_4 := by
    unfold s1_4
    apply kept_ite
    · assumption
    · repeat' first | (with_reducible assumption) | (with_reducible apply kept_raise) | (with_reducible apply kept_wrB)
  try clear_value s1_4
  have h_s1_6 : Kept s0 s1_6 := by
    unfold s1_6
    split
    · repeat' first | (with_reducible assumption) | unfold low_5 | (with_reducible apply kept_setPd) | (with_reducible apply kept_syncFit)
    · repeat' first | (with_reducible assumption) | unfold low_5
  try clear_value s1_6
  apply kept_ite
  · split
    · repeat' first | (with_reducible assumption) | unfold low_5 | (with_reducible apply kept_setPd) | (with_reducible apply kept_syncFit)
    · repeat' first | (with_reducible assumption) | unfold low_5 | (with_reducible apply kept_raise)
  · apply kept_ite
    · apply kept_ite
      · repeat' first | (with_reducible assumption) | unfold low_5
      · repeat' first | (with_reducible assumption) | unfold low_5 | (with_reducible apply kept_wrB)
    · repeat' first | (with_reducible assumption) | unfold low_5

theorem kept_ilimHit {s0 s : State} (h : Kept s0 s) : ∀ x0 x1 x2, Kept s0 (ilimHit s x0 x1 x2) := by
  intro x0 x1 x2
  unfold ilimHit
  extract_lets -merge -useContext -underBinder s1_1
  have h_s1_1 : Kept s0 s1_1 := by
    unfold s1_1
    repeat' first | (with_reducible assumption) | (with_reducible apply kept_raise) | (with_reducible apply kept_wrB)
  try clear_value s1_1
  apply kept_ite
  · assumption
  · apply kept_ite
    · repeat' first | (with_reducible assumption) | (with_reducible apply kept_wrB)
    · apply kept_ite
      · repeat' first | (with_reducible assumption) | (with_reducible apply kept_wrB)
      · assumption

theorem kept_execIlimHit {s0 s : State} (h : Kept s0 s) : ∀ x0 x1, ∃ t, execIlimHit x0 x1 s = .next t ∧ Kept s0 t := by
  intro x0 x1
  refine ⟨_, rfl, ?_⟩
  repeat' first | (with_reducible assumption) | (with_reducible apply kept_ilimHit)

theorem kept_overCurrent {s0 s : State} (h : Kept s0 s) : ∀ x0 x1, Kept s0 (overCurrent s x0 x1) := by
  intro x0 x1
  unfold overCurrent
  extract_lets -merge -useContext -underBinder s1_1 s2_2
  have h_s1_1 : Kept s0 s1_1 := by
    unfold s1_1
    repeat' first | (with_reducible assumption) | (with_reducible apply kept_raise)
  try clear_value s1_1
  have h_s2_2 : Kept s0 s2_2 := by
    unfold s2_2
    apply kept_ite
    · repeat' first | (with_reducible assumption) | (with_reducible apply kept_wrB)
    · assumption
  try clear_value s2_2
  apply kept_ite
  · assumption
  · repeat' first | (with_reducible assumption) | (with_reducible apply kept_syncFit) | (with_reducible apply kept_wrB)

theorem kept_execIvrOverCurrent {s0 s : State} (h : Kept s0 s) : ∀ x0, ∃ t, execIvrOverCurrent x0 s = .next t ∧ Kept s0 t := by
  intro x0
  refine ⟨_, rfl, ?_⟩
  repeat' first | (with_reducible assumption) | (with_reducible apply kept_overCurrent)

theorem kept_setExcl {s0 s : State} (h : Kept s0 s) : ∀ x0 x1, Kept s0 (setExcl s x0 x1) := by
  intro x0 x1
  unfold setExcl
  repeat' first | (with_reducible assumption) | (with_reducible apply kept_setDom) | simp only [kept_mk_iff]

theorem kept_startEntry {s0 s : State} (h : Kept s0 s) : ∀ x0 x1 x2 x3, Kept s0 (startEntry s x0 x1 x2 x3) := by
  intro x0 x1 x2 x3
  unfold startEntry
  extract_lets -merge -useContext -underBinder st_1 s1_2 s2_3
  try clear_value st_1
  have h_s1_2 : Kept s0 s1_2 := by
    unfold s1_2
    repeat' first | (with_reducible assumption) | (with_reducible apply kept_setDom)
  try clear_value s1_2
  have h_s2_3 : Kept s0 s2_3 := by
    unfold s2_3
    repeat' first | (with_reducible assumption) | (with_reducible apply kept_returnStaged)
  try clear_value s2_3
  repeat' first | (with_reducible assumption) | (with_reducible apply kept_shoreDown) | (with_reducible apply kept_fenceRequest) | (with_reducible apply kept_setPd)

theorem kept_startExit {s0 s : State} (h : Kept s0 s) : ∀ x0 x1, Kept s0 (startExit s x0 x1) := by
  intro x0 x1
  unfold startExit
  extract_lets -merge -useContext -underBinder off_1 s1_2 s2_3
  try clear_value off_1
  have h_s1_2 : Kept s0 s1_2 := by
    unfold s1_2
    repeat' first | (with_reducible assumption) | (with_reducible apply kept_setDom)
  try clear_value s1_2
  have h_s2_3 : Kept s0 s2_3 := by
    unfold s2_3
    repeat' first | (with_reducible assumption) | (with_reducible apply kept_bump)
  try clear_value s2_3
  repeat' first | (with_reducible assumption) | (with_reducible apply kept_wrF) | (with_reducible apply kept_fenceWaking) | (with_reducible apply kept_holdSync) | (with_reducible apply kept_setPd)

theorem kept_ivrLeaves {s0 s : State} (h : Kept s0 s) : ∀ x0 x1, Kept s0 (ivrLeaves s x0 x1) := by
  intro x0 x1
  unfold ivrLeaves
  repeat' first | (with_reducible assumption) | (with_reducible apply kept_wrB) | (with_reducible apply kept_wrF)

theorem kept_applyPending {s0 s : State} (h : Kept s0 s) : ∀ x0, Kept s0 (applyPending s x0) := by
  intro x0
  unfold applyPending
  apply kept_ite
  · repeat' first | (with_reducible assumption)
  · extract_lets -merge -useContext -underBinder want_1 x_2 s1_3 cmd_4 s2_5 s3_6 st_7
    try clear_value want_1
    try clear_value x_2
    have h_s1_3 : Kept s0 s1_3 := by
      unfold s1_3
      repeat' first | (with_reducible assumption) | (with_reducible apply kept_setPd)
    try clear_value s1_3
    try clear_value cmd_4
    have h_s2_5 : Kept s0 s2_5 := by
      unfold s2_5
      apply kept_ite
      · repeat' first | (with_reducible assumption) | (with_reducible apply kept_holdSync) | (with_reducible apply kept_setPd)
      · repeat' first | (with_reducible assumption)
    try clear_value s2_5
    have h_s3_6 : Kept s0 s3_6 := by
      unfold s3_6
      repeat' first | (with_reducible assumption) | (with_reducible apply kept_setDom)
    try clear_value s3_6
    try clear_value st_7
    apply kept_ite
    · repeat' first | (with_reducible assumption)
    · split
      · rename_i a_8
        apply kept_ite
        · repeat' first | (with_reducible assumption) | (with_reducible apply kept_rest)
        · apply kept_ite
          · repeat' first | (with_reducible assumption) | (with_reducible apply kept_rest)
          · apply kept_ite
            · repeat' first | (with_reducible assumption)
            · apply kept_ite
              · repeat' first | (with_reducible assumption) | (with_reducible apply kept_setDom)
              · repeat' first | (with_reducible assumption) | (with_reducible apply kept_startEntry)
      · rename_i a_9
        apply kept_ite
        · repeat' first | (with_reducible assumption) | (with_reducible apply kept_rest)
        · apply kept_ite
          · repeat' first | (with_reducible assumption) | (with_reducible apply kept_rest)
          · apply kept_ite
            · repeat' first | (with_reducible assumption)
            · apply kept_ite
              · repeat' first | (with_reducible assumption) | (with_reducible apply kept_setDom)
              · repeat' first | (with_reducible assumption) | (with_reducible apply kept_startEntry)
      · rename_i a_10
        apply kept_ite
        · repeat' first | (with_reducible assumption) | (with_reducible apply kept_ivrLeaves) | (with_reducible apply kept_bump) | (with_reducible apply kept_rest) | (with_reducible apply kept_setDom) | (with_reducible apply kept_loseOff)
        · repeat' first | (with_reducible assumption) | (with_reducible apply kept_startExit)
      · rename_i a_11 a_12 a_13 a_14
        repeat' first | (with_reducible assumption) | (with_reducible apply kept_startExit)

theorem kept_abandon {s0 s : State} (h : Kept s0 s) : ∀ x0 x1, Kept s0 (abandon s x0 x1) := by
  intro x0 x1
  unfold abandon
  extract_lets -merge -useContext -underBinder x_1 s1_2 s2_3 s3_4
  try clear_value x_1
  have h_s1_2 : Kept s0 s1_2 := by
    unfold s1_2
    repeat' first | (with_reducible assumption) | (with_reducible apply kept_rest) | (with_reducible apply kept_shoreUp) | (with_reducible apply kept_setDom) | simp only [kept_mk_iff]
  try clear_value s1_2
  have h_s2_3 : Kept s0 s2_3 := by
    unfold s2_3
    apply kept_ite
    · repeat' first | (with_reducible assumption) | (with_reducible apply kept_fenceWaking) | (with_reducible apply kept_unfence)
    · repeat' first | (with_reducible assumption) | (with_reducible apply kept_fenceGiveUp)
  try clear_value s2_3
  have h_s3_4 : Kept s0 s3_4 := by
    unfold s3_4
    repeat' first | (with_reducible assumption) | (with_reducible apply kept_wr) | simp only [kept_mk_iff] | dsimp only | intro _ _ _ | (with_reducible apply keptP_mk) | (with_reducible apply keptQ_mk)
  try clear_value s3_4
  repeat' first | (with_reducible assumption) | (with_reducible apply kept_applyPending) | (with_reducible apply kept_bump) | (with_reducible apply kept_pdEvent)

theorem kept_fenceFailed {s0 s : State} (h : Kept s0 s) : ∀ x0, Kept s0 (fenceFailed s x0) := by
  intro x0
  unfold fenceFailed
  apply kept_ite
  · repeat' first | (with_reducible assumption) | (with_reducible apply kept_applyPending) | (with_reducible apply kept_rest) | (with_reducible apply kept_shoreUp)
  · assumption

theorem kept_pend {s0 s : State} (h : Kept s0 s) : ∀ x0 x1 x2 x3 x4, Kept s0 (pend s x0 x1 x2 x3 x4) := by
  intro x0 x1 x2 x3 x4
  unfold pend
  extract_lets -merge -useContext -underBinder s1_1
  have h_s1_1 : Kept s0 s1_1 := by
    unfold s1_1
    apply kept_ite
    · repeat' first | (with_reducible assumption) | (with_reducible apply kept_pdEvent)
    · assumption
  try clear_value s1_1
  repeat' first | (with_reducible assumption) | (with_reducible apply kept_setPd) | (with_reducible apply kept_setDom) | (with_reducible apply kept_ite) | simp only [kept_mk_iff] | split

theorem kept_wakeDomain {s0 s : State} (h : Kept s0 s) : ∀ x0 x1, Kept s0 (wakeDomain s x0 x1) := by
  intro x0 x1
  unfold wakeDomain
  apply kept_ite
  · assumption
  · apply kept_ite
    · assumption
    · split
      · repeat' first | (with_reducible assumption) | (with_reducible apply kept_startExit)
      · repeat' first | (with_reducible assumption) | (with_reducible apply kept_startExit)
      · apply kept_ite
        · apply kept_ite
          · repeat' first | (with_reducible assumption) | (with_reducible apply kept_abandon)
          · repeat' first | (with_reducible assumption) | (with_reducible apply kept_setDom) | (with_reducible apply kept_ite) | simp only [kept_mk_iff] | split
        · repeat' first | (with_reducible assumption) | (with_reducible apply kept_pend)
      · assumption

theorem kept_execWakeEvent {s0 s : State} (h : Kept s0 s) : ∀ x0 x1, ∃ t, execWakeEvent x0 x1 s = .next t ∧ Kept s0 t := by
  intro x0 x1
  refine ⟨_, rfl, ?_⟩
  apply kept_ite
  · assumption
  · repeat' first | (with_reducible assumption) | (with_reducible apply kept_wakeDomain)

theorem kept_reachLow {s0 s : State} (h : Kept s0 s) : ∀ x0, Kept s0 (reachLow s x0) := by
  intro x0
  unfold reachLow
  extract_lets -merge -useContext -underBinder x_1 off_2 s1_3 s2_4 s3_5
  try clear_value x_1
  try clear_value off_2
  have h_s1_3 : Kept s0 s1_3 := by
    unfold s1_3
    apply kept_ite
    · repeat' first | (with_reducible assumption) | (with_reducible apply kept_loseOff)
    · repeat' first | (with_reducible assumption) | (with_reducible apply kept_loseRetain)
  try clear_value s1_3
  have h_s2_4 : Kept s0 s2_4 := by
    unfold s2_4
    repeat' first | (with_reducible assumption) | (with_reducible apply kept_setDom) | (with_reducible apply kept_rest)
  try clear_value s2_4
  have h_s3_5 : Kept s0 s3_5 := by
    unfold s3_5
    repeat' first | (with_reducible assumption) | (with_reducible apply kept_ivrLeaves) | (with_reducible apply kept_bump) | (with_reducible apply kept_pdEvent)
  try clear_value s3_5
  apply kept_ite
  · repeat' first | (with_reducible assumption) | (with_reducible apply kept_setPd)
  · repeat' first | (with_reducible assumption) | (with_reducible apply kept_applyPending)

theorem kept_brownOut {s0 s : State} (h : Kept s0 s) : ∀ x0 x1, Kept s0 (brownOut s x0 x1) := by
  intro x0 x1
  unfold brownOut
  extract_lets -merge -useContext -underBinder low_2 s1_3 s2_4 s3_5 s4_6
  try clear_value low_2
  have h_s1_3 : Kept s0 s1_3 := by
    unfold s1_3
    repeat' first | (with_reducible assumption) | (with_reducible apply kept_setDom) | (with_reducible apply kept_rest) | (with_reducible apply kept_loseOff)
  try clear_value s1_3
  have h_s2_4 : Kept s0 s2_4 := by
    unfold s2_4
    repeat' first | (with_reducible assumption) | (with_reducible apply kept_wr)
  try clear_value s2_4
  have h_s3_5 : Kept s0 s3_5 := by
    unfold s3_5
    repeat' first | (with_reducible assumption) | (with_reducible apply kept_raise) | (with_reducible apply kept_pdEvent)
  try clear_value s3_5
  have h_s4_6 : Kept s0 s4_6 := by
    unfold s4_6
    apply kept_ite
    · repeat' first | (with_reducible assumption) | (with_reducible apply kept_wrB)
    · repeat' first | (with_reducible assumption)
  try clear_value s4_6
  apply kept_ite
  · repeat' first | (with_reducible assumption)
  · repeat' first | (with_reducible assumption) | (with_reducible apply kept_applyPending) | (with_reducible apply kept_ivrLeaves) | (with_reducible apply kept_bump) | (with_reducible apply kept_ledAdd)

theorem kept_execBrownOut {s0 s : State} (h : Kept s0 s) : ∀ x0, ∃ t, execBrownOut x0 s = .next t ∧ Kept s0 t := by
  intro x0
  refine ⟨_, rfl, ?_⟩
  apply kept_ite
  · repeat' first | (with_reducible assumption) | (with_reducible apply kept_brownOut)
  · assumption

theorem kept_execEntryStepDone {s0 s : State} (h : Kept s0 s) : ∀ x0, ∃ t, execEntryStepDone x0 s = .next t ∧ Kept s0 t := by
  intro x0
  refine ⟨_, rfl, ?_⟩
  extract_lets -merge -useContext -underBinder k_1 x_2 stepNo_3 s1_4 s1_5 armed_6
  try clear_value k_1
  try clear_value x_2
  try clear_value stepNo_3
  have h_s1_4 : Kept s0 s1_4 := by
    unfold s1_4
    repeat' first | (with_reducible assumption) | (with_reducible apply kept_setDom) | simp only [kept_mk_iff]
  try clear_value s1_4
  have h_s1_5 : Kept s0 s1_5 := by
    unfold s1_5
    repeat' first | (with_reducible assumption) | (with_reducible apply kept_reachLow)
  try clear_value s1_5
  try clear_value armed_6
  apply kept_ite
  · assumption
  · apply kept_ite
    · apply kept_ite
      · assumption
      · repeat' first | (with_reducible assumption) | (with_reducible apply kept_setPd)
    · apply kept_ite
      · repeat' first | (with_reducible assumption) | (with_reducible apply kept_reachLow)
      · apply kept_ite
        · repeat' first | (with_reducible assumption) | (with_reducible apply kept_abandon)
        · apply kept_ite
          · repeat' first | (with_reducible assumption) | (with_reducible apply kept_setPd)
          · apply kept_ite
            · apply kept_ite
              · repeat' first | (with_reducible assumption) | (with_reducible apply kept_setDom) | simp only [kept_mk_iff]
              · repeat' first | (with_reducible assumption) | (with_reducible apply kept_setPd)
            · apply kept_ite
              · repeat' first | (with_reducible assumption) | (with_reducible apply kept_setPd) | (with_reducible apply kept_setDom) | simp only [kept_mk_iff]
              · apply kept_ite
                · repeat' first | (with_reducible assumption) | (with_reducible apply kept_setPd)
                · apply kept_ite
                  · repeat' first | (with_reducible assumption) | (with_reducible apply kept_brownOut) | (with_reducible apply kept_wrB)
                  · assumption

theorem kept_exitDone {s0 s : State} (h : Kept s0 s) : ∀ x0, Kept s0 (exitDone s x0) := by
  intro x0
  unfold exitDone
  extract_lets -merge -useContext -underBinder x_1 load_2 s1_3 cap_4 s2_5 src_6 s3_7 s4_8
  try clear_value x_1
  try clear_value load_2
  have h_s1_3 : Kept s0 s1_3 := by
    unfold s1_3
    repeat' first | (with_reducible assumption) | (with_reducible apply kept_setPd) | (with_reducible apply kept_rest)
  try clear_value s1_3
  try clear_value cap_4
  have h_s2_5 : Kept s0 s2_5 := by
    unfold s2_5
    apply kept_setDom
    apply kept_ite
    · repeat' first | (with_reducible assumption) | (with_reducible apply kept_setPd)
    · repeat' first | (with_reducible assumption)
  try clear_value s2_5
  try clear_value src_6
  have h_s3_7 : Kept s0 s3_7 := by
    unfold s3_7
    repeat' first | (with_reducible assumption) | (with_reducible apply kept_wr) | (with_reducible apply keptP_mk) | (with_reducible apply keptQ_mk)
  try clear_value s3_7
  have h_s4_8 : Kept s0 s4_8 := by
    unfold s4_8
    repeat' first | (with_reducible assumption) | (with_reducible apply kept_pdEvent) | (with_reducible apply kept_unfence) | (with_reducible apply kept_holdSync)
  try clear_value s4_8
  apply kept_applyPending
  apply kept_ite
  · repeat' first | (with_reducible assumption) | (with_reducible apply kept_calDueCheck)
  · repeat' first | (with_reducible assumption)

theorem kept_execExitStepDone {s0 s : State} (h : Kept s0 s) : ∀ x0 x1, ∃ t, execExitStepDone x0 x1 s = .next t ∧ Kept s0 t := by
  intro x0 x1
  refine ⟨_, rfl, ?_⟩
  extract_lets -merge -useContext -underBinder k_1 x_2
  try clear_value k_1
  try clear_value x_2
  apply kept_ite
  · assumption
  · split
    · repeat' first | (with_reducible assumption) | (with_reducible apply kept_setPd) | (with_reducible apply kept_wrB)
    · repeat' first | (with_reducible assumption) | (with_reducible apply kept_setPd)
    · extract_lets -merge -useContext -underBinder lost_3 s1_4 s2_5
      try clear_value lost_3
      have h_s1_4 : Kept s0 s1_4 := by
        unfold s1_4
        repeat' first | (with_reducible assumption) | (with_reducible apply kept_wr)
      try clear_value s1_4
      have h_s2_5 : Kept s0 s2_5 := by
        unfold s2_5
        apply kept_ite
        · assumption
        · repeat' first | (with_reducible assumption) | (with_reducible apply kept_ledAdd) | (with_reducible apply kept_loseBanks) | (with_reducible apply kept_pdEvent)
      try clear_value s2_5
      repeat' first | (with_reducible assumption) | (with_reducible apply kept_setPd)
    · repeat' first | (with_reducible assumption) | (with_reducible apply kept_exitDone)

theorem kept_execIdleEntry {s0 s : State} (h : Kept s0 s) : ∀ x0 x1, ∃ t, execIdleEntry x0 x1 s = .next t ∧ Kept s0 t := by
  intro x0 x1
  refine ⟨_, rfl, ?_⟩
  apply kept_ite
  · repeat' first | (with_reducible assumption) | (with_reducible apply kept_rest)
  · assumption

theorem kept_execIdleExit {s0 s : State} (h : Kept s0 s) : ∀ x0, ∃ t, execIdleExit x0 s = .next t ∧ Kept s0 t := by
  intro x0
  refine ⟨_, rfl, ?_⟩
  apply kept_ite
  · repeat' first | (with_reducible assumption) | (with_reducible apply kept_rest)
  · assumption

theorem kept_execLowPowerEntryStart {s0 s : State} (h : Kept s0 s) : ∀ x0 x1 x2, ∃ t, execLowPowerEntryStart x0 x1 x2 s = .next t ∧ Kept s0 t := by
  intro x0 x1 x2
  refine ⟨_, rfl, ?_⟩
  extract_lets -merge -useContext -underBinder k_1 x_2 slow_3 s1_4
  try clear_value k_1
  try clear_value x_2
  try clear_value slow_3
  have h_s1_4 : Kept s0 s1_4 := by
    unfold s1_4
    repeat' first | (with_reducible assumption) | (with_reducible apply kept_pdEvent)
  try clear_value s1_4
  apply kept_ite
  · assumption
  · apply kept_ite
    · apply kept_ite
      · assumption
      · repeat' first | (with_reducible assumption) | (with_reducible apply kept_startEntry)
    · apply kept_ite
      · assumption
      · apply kept_ite
        · repeat' first | (with_reducible assumption) | (with_reducible apply kept_startEntry)
        · apply kept_ite
          · repeat' first | (with_reducible assumption) | (with_reducible apply kept_startEntry)
          · assumption

theorem kept_execPrewake {s0 s : State} (h : Kept s0 s) : ∀ x0, ∃ t, execPrewake x0 s = .next t ∧ Kept s0 t := by
  intro x0
  unfold execPrewake
  refine ⟨_, rfl, ?_⟩
  extract_lets -merge -useContext -underBinder k_1 x_2 off_3
  try clear_value k_1
  try clear_value x_2
  try clear_value off_3
  apply kept_ite
  · repeat' first | (with_reducible assumption) | (with_reducible apply kept_startExit) | (with_reducible apply kept_setDom)
  · repeat' first | (with_reducible assumption)

theorem kept_ivrInjArm {s0 s : State} (h : Kept s0 s) : ∀ x0 x1 x2, Kept s0 (ivrInjArm s x0 x1 x2) := by
  intro x0 x1 x2
  unfold ivrInjArm
  extract_lets -merge -useContext -underBinder s1_1
  have h_s1_1 : Kept s0 s1_1 := by
    unfold s1_1
    repeat' first | (with_reducible assumption) | (with_reducible apply kept_wr) | simp only [kept_mk_iff] | dsimp only | intro _ _ _ | (with_reducible apply keptP_mk) | (with_reducible apply keptQ_mk)
  try clear_value s1_1
  apply kept_ite
  · repeat' first | (with_reducible assumption) | (with_reducible apply kept_ilimHit)
  · apply kept_ite
    · repeat' first | (with_reducible assumption) | (with_reducible apply kept_overCurrent)
    · assumption

theorem kept_execIvrShellInjArm {s0 s : State} (h : Kept s0 s) : ∀ x0 x1 x2 x3, ∃ t, execIvrShellInjArm x0 x1 x2 x3 s = .next t ∧ Kept s0 t := by
  intro x0 x1 x2 x3
  refine ⟨_, rfl, ?_⟩
  apply kept_ite
  · repeat' first | (with_reducible assumption) | (with_reducible apply kept_ivrInjArm)
  · assumption

theorem kept_pwrStatus {s0 s : State} (h : Kept s0 s) : ∀ x0, KeptD s0 (pwrStatus x0 s) := by
  intro x0
  unfold pwrStatus
  extract_lets -merge -useContext -underBinder d_1
  try clear_value d_1
  apply keptD_ite
  · repeat' first | (with_reducible assumption) | (with_reducible apply kept_done) | (with_reducible apply kept_done)
  · apply keptD_ite
    · repeat' first | (with_reducible assumption) | (with_reducible apply kept_done) | (with_reducible apply kept_done)
    · repeat' first | (with_reducible assumption) | (with_reducible apply kept_doneW) | (with_reducible apply kept_doneW) | (with_reducible apply kept_ite) | (with_reducible apply keptD_ite) | split

theorem kept_commandState {s0 s : State} (h : Kept s0 s) : ∀ x0 x1 x2 x3, Kept s0 (commandState s x0 x1 x2 x3) := by
  intro x0 x1 x2 x3
  unfold commandState
  extract_lets -merge -useContext -underBinder s1_1
  have h_s1_1 : Kept s0 s1_1 := by
    unfold s1_1
    repeat' first | (with_reducible assumption) | (with_reducible apply kept_setDom) | (with_reducible apply kept_holdSync) | (with_reducible apply kept_setPd)
  try clear_value s1_1
  split
  · rename_i a_2 e_3
    apply kept_ite
    · apply kept_ite
      · repeat' first | (with_reducible assumption)
      · repeat' first | (with_reducible assumption) | (with_reducible apply kept_rest)
    · apply kept_ite
      · repeat' first | (with_reducible assumption) | (with_reducible apply kept_setDom)
      · repeat' first | (with_reducible assumption) | (with_reducible apply kept_startEntry)
  · rename_i a_4 e_5
    apply kept_ite
    · apply kept_ite
      · repeat' first | (with_reducible assumption)
      · repeat' first | (with_reducible assumption) | (with_reducible apply kept_rest)
    · apply kept_ite
      · repeat' first | (with_reducible assumption) | (with_reducible apply kept_setDom)
      · repeat' first | (with_reducible assumption) | (with_reducible apply kept_startEntry)
  · rename_i a_6 e_7
    apply kept_ite
    · repeat' first | (with_reducible assumption) | (with_reducible apply kept_setExcl)
    · apply kept_ite
      · repeat' first | (with_reducible assumption) | (with_reducible apply kept_ivrLeaves) | (with_reducible apply kept_bump) | (with_reducible apply kept_rest) | (with_reducible apply kept_setDom) | (with_reducible apply kept_loseOff)
      · apply kept_ite
        · repeat' first | (with_reducible assumption) | (with_reducible apply kept_startExit)
        · repeat' first | (with_reducible assumption) | (with_reducible apply kept_setPd) | (with_reducible apply kept_startExit)
  · rename_i a_8 a_9 a_10 a_11
    apply kept_ite
    · repeat' first | (with_reducible assumption) | (with_reducible apply kept_setExcl)
    · apply kept_ite
      · repeat' first | (with_reducible assumption) | (with_reducible apply kept_startExit)
      · repeat' first | (with_reducible assumption) | (with_reducible apply kept_setPd) | (with_reducible apply kept_startExit)

theorem kept_pwrDomainSet {s0 s : State} (h : Kept s0 s) : ∀ x0, KeptD s0 (pwrDomainSet x0 s) := by
  intro x0
  unfold pwrDomainSet
  extract_lets -merge -useContext -underBinder w_7 d_8 st_9 hold_10 slow_11 loaded_12 s1_13
  try clear_value w_7
  try clear_value d_8
  try clear_value st_9
  try clear_value hold_10
  try clear_value slow_11
  try clear_value loaded_12
  have h_s1_13 : Kept s0 s1_13 := by
    unfold s1_13
    apply kept_ite
    · repeat' first | (with_reducible assumption) | (with_reducible apply kept_holdSync) | (with_reducible apply kept_setPd)
    · repeat' first | (with_reducible assumption)
  try clear_value s1_13
  apply keptD_ite
  · repeat' first | (with_reducible assumption) | (with_reducible apply kept_done) | (with_reducible apply kept_done)
  · apply keptD_ite
    · repeat' first | (with_reducible assumption) | (with_reducible apply kept_done) | (with_reducible apply kept_done)
    · apply keptD_ite
      · repeat' first | (with_reducible assumption) | (with_reducible apply kept_done) | (with_reducible apply kept_done)
      · apply keptD_ite
        · repeat' first | (with_reducible assumption) | (with_reducible apply kept_done) | (with_reducible apply kept_done)
        · apply keptD_ite
          · repeat' first | (with_reducible assumption) | (with_reducible apply kept_done) | (with_reducible apply kept_done)
          · apply keptD_ite
            · repeat' first | (with_reducible assumption) | (with_reducible apply kept_done) | (with_reducible apply kept_wakeDomain) | (with_reducible apply kept_setPd) | (with_reducible apply kept_done)
            · apply keptD_ite
              · repeat' first | (with_reducible assumption) | (with_reducible apply kept_done) | (with_reducible apply kept_pend) | (with_reducible apply kept_done)
              · repeat' first | (with_reducible assumption) | (with_reducible apply kept_done) | (with_reducible apply kept_commandState) | (with_reducible apply kept_done)

theorem kept_pwrLimitSet {s0 s : State} (h : Kept s0 s) : ∀ x0, KeptD s0 (pwrLimitSet x0 s) := by
  intro x0
  unfold pwrLimitSet
  extract_lets -merge -useContext -underBinder lim_1 win_2
  try clear_value lim_1
  try clear_value win_2
  apply keptD_ite
  · repeat' first | (with_reducible assumption) | (with_reducible apply kept_done) | (with_reducible apply kept_done)
  · repeat' first | (with_reducible assumption) | (with_reducible apply kept_done) | (with_reducible apply kept_wr) | (with_reducible apply kept_done)

theorem kept_writePdCfg {s0 s : State} (h : Kept s0 s) : ∀ x0 x1, Kept s0 (writePdCfg s x0 x1) := by
  intro x0 x1
  unfold writePdCfg
  repeat' first | (with_reducible assumption) | (with_reducible apply kept_wr)

theorem kept_pwrIdleConfig {s0 s : State} (h : Kept s0 s) : ∀ x0, KeptD s0 (pwrIdleConfig x0 s) := by
  intro x0
  unfold pwrIdleConfig
  extract_lets -merge -useContext -underBinder d_1 w_2 w2_3 ds_4 s1_5
  try clear_value d_1
  try clear_value w_2
  try clear_value w2_3
  try clear_value ds_4
  have h_s1_5 : Kept s0 s1_5 := by
    unfold s1_5
    repeat' first | (with_reducible assumption) | (with_reducible apply kept_writePdCfg) | (with_reducible apply kept_foldl) | (with_reducible apply keptP_foldl) | dsimp only | intro _ _ _
  try clear_value s1_5
  apply keptD_ite
  · repeat' first | (with_reducible assumption) | (with_reducible apply kept_done) | (with_reducible apply kept_done)
  · apply keptD_ite
    · repeat' first | (with_reducible assumption) | (with_reducible apply kept_done) | (with_reducible apply kept_done)
    · apply keptD_ite
      · repeat' first | (with_reducible assumption) | (with_reducible apply kept_done) | (with_reducible apply kept_done)
      · repeat' first | (with_reducible assumption) | (with_reducible apply kept_done) | (with_reducible apply kept_wr) | (with_reducible apply kept_done) | (with_reducible apply kept_ite) | (with_reducible apply keptD_ite) | split

theorem kept_setHostCap {s0 s : State} (h : Kept s0 s) : ∀ x0 x1, Kept s0 (setHostCap s x0 x1) := by
  intro x0 x1
  unfold setHostCap
  extract_lets -merge -useContext -underBinder s1_1
  have h_s1_1 : Kept s0 s1_1 := by
    unfold s1_1
    repeat' first | (with_reducible assumption) | (with_reducible apply kept_wrB)
  try clear_value s1_1
  apply kept_ite
  · repeat' first | (with_reducible assumption) | (with_reducible apply kept_syncFit) | (with_reducible apply kept_wrF)
  · assumption

theorem kept_pwrFitCap {s0 s : State} (h : Kept s0 s) : ∀ x0, KeptD s0 (pwrFitCap x0 s) := by
  intro x0
  unfold pwrFitCap
  extract_lets -merge -useContext -underBinder d_1 cap_2
  try clear_value d_1
  try clear_value cap_2
  apply keptD_ite
  · repeat' first | (with_reducible assumption) | (with_reducible apply kept_done) | (with_reducible apply kept_done)
  · apply keptD_ite
    · repeat' first | (with_reducible assumption) | (with_reducible apply kept_done) | (with_reducible apply kept_done)
    · repeat' first | (with_reducible assumption) | (with_reducible apply kept_done) | (with_reducible apply kept_setHostCap) | (with_reducible apply kept_done) | (with_reducible apply kept_ite) | (with_reducible apply keptD_ite) | (with_reducible apply kept_foldl) | (with_reducible apply keptP_foldl) | split | dsimp only | intro _ _ _

theorem kept_execFenceTimeout {s0 s : State} (h : Kept s0 s) : ∀ x0, ∃ t, execFenceTimeout x0 s = .next t ∧ Kept s0 t := by
  intro x0
  refine ⟨_, rfl, ?_⟩
  apply kept_ite
  · repeat' first | (with_reducible assumption) | (with_reducible apply kept_bump) | (with_reducible apply kept_fenceFailed) | (with_reducible apply kept_fenceGiveUp) | (with_reducible apply kept_raise)
  · assumption

theorem kept_fenceAbort {s0 s : State} (h : Kept s0 s) : ∀ x0, Kept s0 (fenceAbort s x0) := by
  intro x0
  unfold fenceAbort
  extract_lets -merge -useContext -underBinder s1_1
  have h_s1_1 : Kept s0 s1_1 := by
    unfold s1_1
    repeat' first | (with_reducible assumption) | (with_reducible apply kept_fenceGiveUp) | (with_reducible apply kept_raise)
  try clear_value s1_1
  apply kept_ite
  · repeat' first | (with_reducible assumption) | (with_reducible apply kept_abandon)
  · assumption

theorem kept_execFenceRequest {s0 s : State} (h : Kept s0 s) : ∀ x0, ∃ t, execFenceRequest x0 s = .next t ∧ Kept s0 t := by
  intro x0
  refine ⟨_, rfl, ?_⟩
  repeat' first | (with_reducible assumption) | (with_reducible apply kept_fenceRequest)

theorem kept_execFenceDrainEnd {s0 s : State} (h : Kept s0 s) : ∀ x0, ∃ t, execFenceDrainEnd x0 s = .next t ∧ Kept s0 t := by
  intro x0
  refine ⟨_, rfl, ?_⟩
  repeat' first | (with_reducible assumption) | (with_reducible apply kept_fenceDrainEnd)

theorem kept_execFenceMsgRx {s0 s : State} (h : Kept s0 s) : ∀ x0 x1, ∃ t, execFenceMsgRx x0 x1 s = .next t ∧ Kept s0 t := by
  intro x0 x1
  refine ⟨_, rfl, ?_⟩
  repeat' first | (with_reducible assumption) | (with_reducible apply kept_fenceMsgRx)

theorem kept_execFenceAckRx {s0 s : State} (h : Kept s0 s) : ∀ x0 x1, ∃ t, execFenceAckRx x0 x1 s = .next t ∧ Kept s0 t := by
  intro x0 x1
  refine ⟨_, rfl, ?_⟩
  repeat' first | (with_reducible assumption) | (with_reducible apply kept_fenceAckRx)

theorem kept_unfenceStart {s0 s : State} (h : Kept s0 s) : ∀ x0, Kept s0 (unfenceStart s x0) := by
  intro x0
  unfold unfenceStart
  apply kept_ite
  · repeat' first | (with_reducible assumption)
  · extract_lets -merge -useContext -underBinder s1_1
    have h_s1_1 : Kept s0 s1_1 := by
      unfold s1_1
      repeat' first | (with_reducible assumption) | (with_reducible apply kept_unfenceRequest)
    try clear_value s1_1
    apply kept_ite
    · repeat' first | (with_reducible assumption) | (with_reducible apply kept_unfence)
    · repeat' first | (with_reducible assumption) | (with_reducible apply kept_wakeDomain)

theorem kept_fnCtlWrite {s0 s : State} (h : Kept s0 s) : ∀ x0 x1, Kept s0 (fnCtlWrite s x0 x1) := by
  intro x0 x1
  unfold fnCtlWrite
  apply kept_ite
  · repeat' first | (with_reducible assumption)
  · extract_lets -merge -useContext -underBinder s1_1
    have h_s1_1 : Kept s0 s1_1 := by
      unfold s1_1
      repeat' first | (with_reducible assumption) | (with_reducible apply kept_wrB)
    try clear_value s1_1
    apply kept_ite
    · repeat' first | (with_reducible assumption) | (with_reducible apply kept_fenceRequest)
    · apply kept_ite
      · apply kept_ite
        · repeat' first | (with_reducible assumption) | (with_reducible apply kept_unfenceStart)
        · repeat' first | (with_reducible assumption) | (with_reducible apply kept_wrB)
      · repeat' first | (with_reducible assumption)

theorem kept_execUnfenceStart {s0 s : State} (h : Kept s0 s) : ∀ x0, ∃ t, execUnfenceStart x0 s = .next t ∧ Kept s0 t := by
  intro x0
  unfold execUnfenceStart
  refine ⟨_, rfl, ?_⟩
  repeat' first | (with_reducible assumption) | (with_reducible apply kept_unfenceStart)

theorem kept_execUnfenceMsgRx {s0 s : State} (h : Kept s0 s) : ∀ x0 x1, ∃ t, execUnfenceMsgRx x0 x1 s = .next t ∧ Kept s0 t := by
  intro x0 x1
  refine ⟨_, rfl, ?_⟩
  repeat' first | (with_reducible assumption) | (with_reducible apply kept_unfenceMsgRx)

end Sys2Proof.Machine
end

