-- ==== Sys2Proof/Laws/KeptTime.lean ====
section
/-! SUPPORT. What each operation of Machine/Time.lean keeps. -/

set_option linter.unreachableTactic false
set_option linter.unusedTactic false
set_option linter.unusedSimpArgs false
set_option linter.unusedVariables false

namespace Sys2Proof.Machine

theorem kept_setTim {s0 s : State} (h : Kept s0 s) : ∀ x0, Kept s0 (setTim s x0) := by
  intro x0
  unfold setTim
  repeat' first | (with_reducible assumption) | simp only [kept_mk_iff]

theorem kept_execAtsCaptureRead {s0 s : State} (h : Kept s0 s) : ∀ x0, ∃ t, execAtsCaptureRead x0 s = .next t ∧ Kept s0 t := by
  intro x0
  refine ⟨_, rfl, ?_⟩
  repeat' first | (with_reducible assumption) | (with_reducible apply kept_setTim) | simp only [kept_mk_iff] | dsimp only | intro _ _ _ | (with_reducible apply keptP_mk) | (with_reducible apply keptQ_mk)

theorem kept_setTimState {s0 s : State} (h : Kept s0 s) : ∀ x0, Kept s0 (setTimState s x0) := by
  intro x0
  unfold setTimState
  repeat' first | (with_reducible assumption) | (with_reducible apply kept_setTim) | (with_reducible apply kept_wrF) | simp only [kept_mk_iff]

theorem kept_syncHoldLim {s0 s : State} (h : Kept s0 s) : Kept s0 (syncHoldLim s) := by
  unfold syncHoldLim
  repeat' first | (with_reducible assumption) | (with_reducible apply kept_wrB)

theorem kept_syncAssist {s0 s : State} (h : Kept s0 s) : Kept s0 (syncAssist s) := by
  unfold syncAssist
  repeat' first | (with_reducible assumption) | (with_reducible apply kept_wrB)

theorem kept_setStepReq {s0 s : State} (h : Kept s0 s) : Kept s0 (setStepReq s) := by
  unfold setStepReq
  apply kept_ite
  · assumption
  · repeat' first | (with_reducible assumption) | (with_reducible apply kept_raise) | (with_reducible apply kept_wrB)

theorem kept_enterLocked {s0 s : State} (h : Kept s0 s) : Kept s0 (enterLocked s) := by
  unfold enterLocked
  repeat' first | (with_reducible assumption) | (with_reducible apply kept_syncHoldLim) | (with_reducible apply kept_setTim) | (with_reducible apply kept_wr) | (with_reducible apply kept_wrB) | (with_reducible apply kept_setTimState)

theorem kept_enterAcquire {s0 s : State} (h : Kept s0 s) : ∀ x0, Kept s0 (enterAcquire s x0) := by
  intro x0
  unfold enterAcquire
  repeat' first | (with_reducible assumption) | (with_reducible apply kept_raise) | (with_reducible apply kept_setTimState) | (with_reducible apply kept_wrF)

theorem kept_leaveRef {s0 s : State} (h : Kept s0 s) : Kept s0 (leaveRef s) := by
  unfold leaveRef
  extract_lets -merge -useContext -underBinder s1_1
  have h_s1_1 : Kept s0 s1_1 := by
    unfold s1_1
    repeat' first | (with_reducible assumption) | (with_reducible apply kept_wr) | (with_reducible apply kept_wrF)
  try clear_value s1_1
  apply kept_ite
  · repeat' first | (with_reducible assumption) | (with_reducible apply kept_raise) | (with_reducible apply kept_setTim) | (with_reducible apply kept_setTimState)
  · repeat' first | (with_reducible assumption) | (with_reducible apply kept_setTim) | (with_reducible apply kept_wr) | (with_reducible apply kept_setTimState)

theorem kept_considerRefs {s0 s : State} (h : Kept s0 s) : Kept s0 (considerRefs s) := by
  unfold considerRefs
  extract_lets -merge -useContext -underBinder best_1 s0_2 s1_3
  try clear_value best_1
  have h_s0_2 : Kept s0 s0_2 := by
    unfold s0_2
    repeat' first | (with_reducible assumption) | (with_reducible apply kept_raise)
  try clear_value s0_2
  have h_s1_3 : Kept s0 s1_3 := by
    unfold s1_3
    apply kept_ite
    · apply kept_ite
      · assumption
      · repeat' first | (with_reducible assumption) | (with_reducible apply kept_enterAcquire)
    · apply kept_ite
      · assumption
      · apply kept_ite
        · repeat' first | (with_reducible assumption) | (with_reducible apply kept_leaveRef)
        · repeat' first | (with_reducible assumption) | (with_reducible apply kept_enterAcquire)
  try clear_value s1_3
  repeat' first | (with_reducible assumption) | (with_reducible apply kept_syncAssist) | (with_reducible apply kept_syncHoldLim)

theorem kept_qualifyRef {s0 s : State} (h : Kept s0 s) : ∀ x0, Kept s0 (qualifyRef s x0) := by
  intro x0
  unfold qualifyRef
  apply kept_considerRefs
  apply kept_wrB
  apply kept_ite
  · repeat' first | (with_reducible assumption) | (with_reducible apply kept_wrB)
  · repeat' first | (with_reducible assumption)

theorem kept_ptpLeaps {s0 s : State} (h : Kept s0 s) : Kept s0 (ptpLeaps s) := by
  unfold ptpLeaps
  split
  rename_i a_1 a_2 a_3 e_4
  have h_a_3 : Kept s0 a_3 := by
    apply KeptQ.eq (e := e_4)
    repeat' first | (with_reducible assumption) | (with_reducible apply kept_drawFree)
  clear e_4
  apply kept_ite
  · repeat' first | (with_reducible assumption) | (with_reducible apply kept_setTim)
  · repeat' first | (with_reducible assumption)

theorem kept_execRefQualify {s0 s : State} (h : Kept s0 s) : ∀ x0, ∃ t, execRefQualify x0 s = .next t ∧ Kept s0 t := by
  intro x0
  unfold execRefQualify
  refine ⟨_, rfl, ?_⟩
  apply kept_ite
  · repeat' first | (with_reducible assumption)
  · apply kept_ite
    · repeat' first | (with_reducible assumption) | (with_reducible apply kept_ptpLeaps) | (with_reducible apply kept_qualifyRef)
    · repeat' first | (with_reducible assumption) | (with_reducible apply kept_qualifyRef)

theorem kept_loseRef {s0 s : State} (h : Kept s0 s) : ∀ x0, Kept s0 (loseRef s x0) := by
  intro x0
  unfold loseRef
  extract_lets -merge -useContext -underBinder s1_1
  have h_s1_1 : Kept s0 s1_1 := by
    unfold s1_1
    apply kept_wrB
    apply kept_ite
    · repeat' first | (with_reducible assumption) | (with_reducible apply kept_wrB)
    · repeat' first | (with_reducible assumption)
  try clear_value s1_1
  apply kept_considerRefs
  apply kept_ite
  · repeat' first | (with_reducible assumption) | (with_reducible apply kept_setTim)
  · repeat' first | (with_reducible assumption)

theorem kept_execRefLost {s0 s : State} (h : Kept s0 s) : ∀ x0, ∃ t, execRefLost x0 s = .next t ∧ Kept s0 t := by
  intro x0
  refine ⟨_, rfl, ?_⟩
  apply kept_ite
  · assumption
  · repeat' first | (with_reducible assumption) | (with_reducible apply kept_loseRef)

theorem kept_execPpsEdgeMissed {s0 s : State} (h : Kept s0 s) : ∃ t, execPpsEdgeMissed s = .next t ∧ Kept s0 t := by
  refine ⟨_, rfl, ?_⟩
  repeat' first | (with_reducible assumption) | (with_reducible apply kept_raise) | (with_reducible apply kept_setTim) | simp only [kept_mk_iff]

theorem kept_execFreqSettled {s0 s : State} (h : Kept s0 s) : ∃ t, execFreqSettled s = .next t ∧ Kept s0 t := by
  refine ⟨_, rfl, ?_⟩
  apply kept_ite
  · assumption
  · apply kept_ite
    · repeat' first | (with_reducible assumption) | (with_reducible apply kept_enterLocked)
    · repeat' first | (with_reducible assumption) | (with_reducible apply kept_setStepReq) | (with_reducible apply kept_setTimState)

theorem kept_phaseMeasured {s0 s : State} (h : Kept s0 s) : ∀ x0 x1, Kept s0 (phaseMeasured s x0 x1) := by
  intro x0 x1
  unfold phaseMeasured
  apply kept_ite
  · repeat' first | (with_reducible assumption)
  · extract_lets -merge -useContext -underBinder s1_1
    have h_s1_1 : Kept s0 s1_1 := by
      unfold s1_1
      repeat' first | (with_reducible assumption) | (with_reducible apply kept_setTim) | (with_reducible apply kept_wr)
    try clear_value s1_1
    split
    · rename_i a_2 e_3
      apply kept_ite
      · repeat' first | (with_reducible assumption) | (with_reducible apply kept_setTim)
      · apply kept_ite
        · repeat' first | (with_reducible assumption) | (with_reducible apply kept_setTim)
        · repeat' first | (with_reducible assumption) | (with_reducible apply kept_setStepReq) | (with_reducible apply kept_setTimState)
    · rename_i a_4 e_5
      apply kept_ite
      · repeat' first | (with_reducible assumption) | (with_reducible apply kept_setTim)
      · apply kept_ite
        · repeat' first | (with_reducible assumption) | (with_reducible apply kept_setTim)
        · repeat' first | (with_reducible assumption) | (with_reducible apply kept_enterLocked)
    · rename_i a_6 a_7 a_8
      repeat' first | (with_reducible assumption)

theorem kept_execPhaseMeasurement {s0 s : State} (h : Kept s0 s) : ∀ x0 x1, ∃ t, execPhaseMeasurement x0 x1 s = .next t ∧ Kept s0 t := by
  intro x0 x1
  refine ⟨_, rfl, ?_⟩
  repeat' first | (with_reducible assumption) | (with_reducible apply kept_phaseMeasured)

theorem kept_execRevertHoldoffExpiry {s0 s : State} (h : Kept s0 s) : ∀ x0, ∃ t, execRevertHoldoffExpiry x0 s = .next t ∧ Kept s0 t := by
  intro x0
  refine ⟨_, rfl, ?_⟩
  apply kept_ite
  · repeat' first | (with_reducible assumption) | (with_reducible apply kept_enterAcquire) | (with_reducible apply kept_syncHoldLim)
  · assumption

theorem kept_execHoldoverEstimateUpdate {s0 s : State} (h : Kept s0 s) : ∃ t, execHoldoverEstimateUpdate s = .next t ∧ Kept s0 t := by
  unfold execHoldoverEstimateUpdate
  refine ⟨_, rfl, ?_⟩
  apply kept_ite
  · repeat' first | (with_reducible assumption)
  · extract_lets -merge -useContext -underBinder t_1
    try clear_value t_1
    split
    rename_i a_2 a_3 a_4 e_5
    split
    rename_i a_6 a_7 a_8 e_9
    have h_a_8 : Kept s0 a_8 := by
      apply KeptQ.eq (e := e_9)
      repeat' first | (with_reducible assumption) | (with_reducible apply kept_drawFree) | (with_reducible apply kept_setTim)
    clear e_9
    extract_lets -merge -useContext -underBinder est_10 lim_11 high_12 s2_13
    try clear_value est_10
    try clear_value lim_11
    try clear_value high_12
    have h_s2_13 : Kept s0 s2_13 := by
      unfold s2_13
      repeat' first | (with_reducible assumption) | (with_reducible apply kept_setTim) | (with_reducible apply kept_wr)
    try clear_value s2_13
    repeat' first | (with_reducible assumption) | (with_reducible apply kept_raiseIf) | (with_reducible apply kept_syncHoldLim)

theorem kept_ppsIgnore {s0 s : State} (h : Kept s0 s) : Kept s0 (ppsIgnore s) := by
  unfold ppsIgnore
  extract_lets -merge -useContext -underBinder __src_1
  repeat' first | (with_reducible assumption) | (with_reducible apply kept_ite) | (with_reducible apply KeptP.one) | (with_reducible apply KeptQ.one) | simp only [kept_mk_iff] | split | dsimp only | intro _ _ _ | (with_reducible apply keptP_mk) | (with_reducible apply keptQ_mk)

theorem kept_execPpsInEdge {s0 s : State} (h : Kept s0 s) : ∀ x0 x1, ∃ t, execPpsInEdge x0 x1 s = .next t ∧ Kept s0 t := by
  intro x0 x1
  refine ⟨_, rfl, ?_⟩
  extract_lets -merge -useContext -underBinder t_1 near_2 n_3
  try clear_value t_1
  try clear_value near_2
  try clear_value n_3
  apply kept_ite
  · repeat' first | (with_reducible assumption) | (with_reducible apply kept_ppsIgnore)
  · apply kept_ite
    · assumption
    · repeat' first | (with_reducible assumption) | (with_reducible apply kept_setTim) | simp only [kept_mk_iff]

theorem kept_execTodMessageRx {s0 s : State} (h : Kept s0 s) : ∀ x0 x1, ∃ t, execTodMessageRx x0 x1 s = .next t ∧ Kept s0 t := by
  intro x0 x1
  refine ⟨_, rfl, ?_⟩
  apply kept_ite
  · repeat' first | (with_reducible assumption) | (with_reducible apply kept_setTim) | simp only [kept_mk_iff]
  · assumption

theorem kept_execPpsOutPulse {s0 s : State} (h : Kept s0 s) : ∃ t, execPpsOutPulse s = .next t ∧ Kept s0 t := by
  unfold execPpsOutPulse
  refine ⟨_, rfl, ?_⟩
  apply kept_ite
  · repeat' first | (with_reducible assumption) | (with_reducible apply kept_setTim)
  · repeat' first | (with_reducible assumption)

theorem kept_execTodTxSend {s0 s : State} (h : Kept s0 s) : ∃ t, execTodTxSend s = .next t ∧ Kept s0 t := by
  refine ⟨_, rfl, ?_⟩
  repeat' first | (with_reducible assumption) | (with_reducible apply kept_setTim) | (with_reducible apply kept_drawFree) | (with_reducible apply kept_ite) | (with_reducible apply keptQ_ite) | (with_reducible apply kept_foldl) | (with_reducible apply keptP_foldl) | (with_reducible apply KeptP.one) | (with_reducible apply KeptQ.one) | (with_reducible apply KeptD.one) | (with_reducible apply KeptH.one) | (with_reducible apply KeptF.one) | simp only [kept_mk_iff] | split | dsimp only | intro _ _ _ | (with_reducible apply keptP_mk) | (with_reducible apply keptQ_mk)

theorem kept_timeStatus {s0 s : State} (h : Kept s0 s) : ∀ x0, KeptD s0 (timeStatus x0 s) := by
  intro x0
  unfold timeStatus
  apply keptD_ite
  · repeat' first | (with_reducible assumption) | (with_reducible apply kept_done) | (with_reducible apply kept_done)
  · split
    · repeat' first | (with_reducible assumption) | (with_reducible apply kept_doneW) | (with_reducible apply kept_doneW) | simp only [kept_mk_iff] | split | dsimp only | intro _ _ _ | (with_reducible apply keptP_mk) | (with_reducible apply keptQ_mk)

theorem kept_timeRefConfig {s0 s : State} (h : Kept s0 s) : ∀ x0, KeptD s0 (timeRefConfig x0 s) := by
  intro x0
  unfold timeRefConfig
  extract_lets -merge -useContext -underBinder w0_1 s1_2
  try clear_value w0_1
  have h_s1_2 : Kept s0 s1_2 := by
    unfold s1_2
    repeat' first | (with_reducible assumption) | (with_reducible apply kept_wr)
  try clear_value s1_2
  apply keptD_ite
  · repeat' first | (with_reducible assumption) | (with_reducible apply kept_done) | (with_reducible apply kept_done)
  · repeat' first | (with_reducible assumption) | (with_reducible apply kept_considerRefs) | (with_reducible apply kept_done) | (with_reducible apply kept_setTim) | (with_reducible apply kept_done) | simp only [kept_mk_iff]

theorem kept_stepAccepted {s0 s : State} (h : Kept s0 s) : ∀ x0, KeptP s0 (stepAccepted s x0) := by
  intro x0
  unfold stepAccepted
  extract_lets -merge -useContext -underBinder later_1 s1_2
  try clear_value later_1
  have h_s1_2 : Kept s0 s1_2 := by
    unfold s1_2
    repeat' first | (with_reducible assumption) | (with_reducible apply kept_refuseAll)
  try clear_value s1_2
  apply keptP_mk
  repeat' first | (with_reducible assumption) | (with_reducible apply kept_raiseIf)

theorem kept_timeStep {s0 s : State} (h : Kept s0 s) : ∀ x0 x1, KeptD s0 (timeStep x0 x1 s) := by
  intro x0 x1
  unfold timeStep
  split
  · extract_lets -merge -useContext -underBinder c_1
    try clear_value c_1
    split
    · split
      · rename_i a0_2 a1_2 e_2
        have h_a0_2 : Kept s0 a0_2 := by
          apply KeptP.eq (e := e_2)
          repeat' first | (with_reducible assumption) | apply KeptP.eq (e := by assumption) | (with_reducible apply kept_stage) | (with_reducible apply kept_stepAccepted)
        clear e_2
        repeat' first | (with_reducible assumption) | apply KeptP.eq (e := by assumption) | (with_reducible apply kept_stage) | (with_reducible apply kept_doneW) | (with_reducible apply kept_wrB) | (with_reducible apply kept_doneW)
    · repeat' first | (with_reducible assumption) | apply KeptP.eq (e := by assumption) | (with_reducible apply kept_stage) | apply KeptP.eq (e := by assumption) | (with_reducible apply kept_stage) | (with_reducible apply kept_done) | (with_reducible apply kept_done)
  · repeat' first | (with_reducible assumption) | (with_reducible apply kept_done) | (with_reducible apply kept_done)

theorem kept_dropStep {s0 s : State} (h : Kept s0 s) : Kept s0 (dropStep s) := by
  unfold dropStep
  repeat' first | (with_reducible assumption) | (with_reducible apply kept_wrB) | (with_reducible apply kept_setPn) | exact fun h => ⟨h.1, h.2, h.3, h.4⟩ | simp only [kept_mk_iff]

theorem kept_timeStepCancel {s0 s : State} (h : Kept s0 s) : ∀ x0, KeptD s0 (timeStepCancel x0 s) := by
  intro x0
  unfold timeStepCancel
  apply keptD_ite
  · repeat' first | (with_reducible assumption) | (with_reducible apply kept_done) | (with_reducible apply kept_done)
  · split
    · repeat' first | (with_reducible assumption) | (with_reducible apply kept_done) | (with_reducible apply kept_done)
    · apply keptD_ite
      · repeat' first | (with_reducible assumption) | (with_reducible apply kept_done) | (with_reducible apply kept_done)
      · repeat' first | (with_reducible assumption) | (with_reducible apply kept_done) | (with_reducible apply kept_dropStep) | (with_reducible apply kept_done)

theorem kept_skipFar {s0 s : State} (h : Kept s0 s) : ∀ x0 x1, Kept s0 (skipFar s x0 x1) := by
  intro x0 x1
  unfold skipFar
  apply kept_ite
  · repeat' first | (with_reducible assumption)
  · repeat' first | (with_reducible assumption) | (with_reducible apply KeptP.one) | (with_reducible apply KeptQ.one) | (with_reducible apply keptP_mk) | (with_reducible apply keptQ_mk) | simp only [kept_mk_iff]

theorem kept_applyStep {s0 s : State} (h : Kept s0 s) : ∀ x0 x1, Kept s0 (applyStep s x0 x1) := by
  intro x0 x1
  unfold applyStep
  extract_lets -merge -useContext -underBinder kind_3 s0_4 d_5 s1_6 bar_7 s2_8 s3_9 s4_10 s5_11
  try clear_value kind_3
  have h_s0_4 : Kept s0 s0_4 := by
    unfold s0_4
    repeat' first | (with_reducible assumption) | (with_reducible apply kept_dropStep)
  try clear_value s0_4
  try clear_value d_5
  have h_s1_6 : Kept s0 s1_6 := by
    unfold s1_6
    apply kept_ite
    · repeat' first | (with_reducible assumption) | (with_reducible apply kept_wr)
    · repeat' first | (with_reducible assumption)
  try clear_value s1_6
  try clear_value bar_7
  have h_s2_8 : Kept s0 s2_8 := by
    unfold s2_8
    repeat' first | (with_reducible assumption) | simp only [kept_mk_iff]
  try clear_value s2_8
  have h_s3_9 : Kept s0 s3_9 := by
    unfold s3_9
    repeat' first | (with_reducible assumption) | (with_reducible apply kept_setTim) | (with_reducible apply kept_skipFar)
  try clear_value s3_9
  have h_s4_10 : Kept s0 s4_10 := by
    unfold s4_10
    repeat' first | (with_reducible assumption) | (with_reducible apply kept_raise)
  try clear_value s4_10
  have h_s5_11 : Kept s0 s5_11 := by
    unfold s5_11
    apply kept_ite
    · repeat' first | (with_reducible assumption) | (with_reducible apply kept_setTimState) | (with_reducible apply kept_wrB)
    · repeat' first | (with_reducible assumption)
  try clear_value s5_11
  apply kept_ite
  · repeat' first | (with_reducible assumption) | (with_reducible apply kept_raise)
  · apply kept_ite
    · repeat' first | (with_reducible assumption) | (with_reducible apply kept_emitCommit)
    · repeat' first | (with_reducible assumption)

end Sys2Proof.Machine
end

