-- ==== Sys2Proof/Laws/KeptMram.lean ====
section
/-! SUPPORT. What each operation of Machine/Mram.lean keeps. -/

set_option linter.unreachableTactic false
set_option linter.unusedTactic false
set_option linter.unusedSimpArgs false
set_option linter.unusedVariables false

namespace Sys2Proof.Machine

theorem kept_mramWrite {s0 s : State} (h : Kept s0 s) : ∀ x0 x1, Kept s0 (mramWrite s x0 x1) := by
  intro x0 x1
  unfold mramWrite
  apply kept_ite
  · repeat' first | (with_reducible assumption)
  · extract_lets -merge -useContext -underBinder s1_1 broken_2
    have h_s1_1 : Kept s0 s1_1 := by
      unfold s1_1
      repeat' first | (with_reducible assumption) | (with_reducible apply kept_setStore)
    try clear_value s1_1
    try clear_value broken_2
    apply kept_ite
    · repeat' first | (with_reducible assumption)
    · repeat' first | (with_reducible assumption) | (with_reducible apply kept_setStore)

end Sys2Proof.Machine
end

