-- ==== Sys2Proof/Laws/KeptRegs.lean ====
section
/-! SUPPORT. What each operation of Machine/Regs.lean keeps. -/

set_option linter.unreachableTactic false
set_option linter.unusedTactic false
set_option linter.unusedSimpArgs false
set_option linter.unusedVariables false

namespace Sys2Proof.Machine

theorem kept_readClears {s0 s : State} (h : Kept s0 s) : ∀ x0, Kept s0 (readClears s x0) := by
  intro x0
  unfold readClears
  split
  · assumption
  · apply kept_ite
    · repeat' first | (with_reducible assumption) | (with_reducible apply kept_wr)
    · apply kept_ite
      · repeat' first | (with_reducible assumption) | (with_reducible apply kept_wr)
      · assumption

theorem kept_plainWrite {s0 s : State} (h : Kept s0 s) : ∀ x0 x1 x2 x3 x4 x5, Kept s0 (plainWrite s x0 x1 x2 x3 x4 x5) := by
  intro x0 x1 x2 x3 x4 x5
  unfold plainWrite
  extract_lets -merge -useContext -underBinder old_1 m_2 x_3 nw_4
  try clear_value old_1
  try clear_value m_2
  try clear_value x_3
  try clear_value nw_4
  apply kept_ite
  · repeat' first | (with_reducible assumption) | (with_reducible apply kept_wr)
  · repeat' first | (with_reducible assumption)

theorem kept_afterWrite {s0 s : State} (h : Kept s0 s) : ∀ x0, Kept s0 (afterWrite s x0) := by
  intro x0
  unfold afterWrite
  apply kept_ite
  · repeat' first | (with_reducible assumption) | (with_reducible apply kept_considerRefs) | (with_reducible apply kept_syncHoldLim)
  · apply kept_ite
    · repeat' first | (with_reducible assumption) | (with_reducible apply kept_syncFit)
    · split
      · rename_i a_1 a_2 a_3 a_4 e_5
        repeat' first | (with_reducible assumption) | (with_reducible apply kept_syncQStat)
      · rename_i a_6 e_7
        repeat' first | (with_reducible assumption)

theorem kept_srTailWrite {s0 s : State} (h : Kept s0 s) : ∀ x0 x1, Kept s0 (srTailWrite s x0 x1) := by
  intro x0 x1
  unfold srTailWrite
  extract_lets -merge -useContext -underBinder t_1
  try clear_value t_1
  apply kept_ite
  · repeat' first | (with_reducible assumption)
  · apply kept_ite
    · repeat' first | (with_reducible assumption) | (with_reducible apply kept_raise)
    · repeat' first | (with_reducible assumption) | (with_reducible apply kept_wr)

theorem kept_fileWrite {s0 s : State} (h : Kept s0 s) : ∀ x0 x1 x2, Kept s0 (fileWrite s x0 x1 x2) := by
  intro x0 x1 x2
  unfold fileWrite
  split
  · rename_i a_1 e_2
    repeat' first | (with_reducible assumption)
  · rename_i a_3 a_4 a_5 a_6 e_7
    apply kept_ite
    · repeat' first | (with_reducible assumption) | (with_reducible apply kept_srTailWrite)
    · apply kept_ite
      · repeat' first | (with_reducible assumption)
      · apply kept_ite
        · repeat' first | (with_reducible assumption) | (with_reducible apply kept_fnCtlWrite)
        · apply kept_ite
          · repeat' first | (with_reducible assumption) | (with_reducible apply kept_rcfgGo)
          · extract_lets -merge -useContext -underBinder s1_8
            have h_s1_8 : Kept s0 s1_8 := by
              unfold s1_8
              repeat' first | (with_reducible assumption) | (with_reducible apply kept_plainWrite)
            try clear_value s1_8
            apply kept_afterWrite
            apply kept_ite
            · repeat' first | (with_reducible assumption) | (with_reducible apply kept_wr)
            · repeat' first | (with_reducible assumption)

theorem kept_regTake {s0 s : State} (h : Kept s0 s) : ∀ x0 x1 x2 x3, Kept s0 (regTake s x0 x1 x2 x3) := by
  intro x0 x1 x2 x3
  unfold regTake
  extract_lets -merge -useContext -underBinder a_1
  try clear_value a_1
  apply kept_ite
  · repeat' first | (with_reducible assumption)
  · apply kept_ite
    · apply kept_ite
      · repeat' first | (with_reducible assumption) | (with_reducible apply kept_mramWrite)
      · repeat' first | (with_reducible assumption)
    · split
      · rename_i a_2 a_3 a_4 a_5 e_6
        apply kept_ite
        · apply kept_ite
          · repeat' first | (with_reducible assumption) | (with_reducible apply kept_commitRt)
          · repeat' first | (with_reducible assumption) | (with_reducible apply kept_stageRt)
        · repeat' first | (with_reducible assumption)
      · rename_i a_7 e_8
        split
        · rename_i a_9 a_10 a_11 e_12
          repeat' first | (with_reducible assumption) | (with_reducible apply kept_releaseWrite)
        · rename_i a_13 a_14 a_15 e_16
          apply kept_ite
          · repeat' first | (with_reducible assumption) | (with_reducible apply kept_flushQueue)
          · repeat' first | (with_reducible assumption)
        · rename_i a_17 a_18 a_19
          extract_lets -merge -useContext -underBinder s1_20
          have h_s1_20 : Kept s0 s1_20 := by
            unfold s1_20
            repeat' first | (with_reducible assumption) | (with_reducible apply kept_fileWrite)
          try clear_value s1_20
          apply kept_ite
          · repeat' first | (with_reducible assumption) | (with_reducible apply keptP_mk) | (with_reducible apply keptQ_mk) | simp only [kept_mk_iff]
          · repeat' first | (with_reducible assumption)

theorem kept_regPoke {s0 s : State} (h : Kept s0 s) : ∀ x0 x1 x2, Kept s0 (regPoke s x0 x1 x2) := by
  intro x0 x1 x2
  unfold regPoke
  repeat' first | (with_reducible assumption) | (with_reducible apply kept_regTake)

theorem kept_regPoke64 {s0 s : State} (h : Kept s0 s) : ∀ x0 x1 x2, Kept s0 (regPoke64 s x0 x1 x2) := by
  intro x0 x1 x2
  unfold regPoke64
  repeat' first | (with_reducible assumption) | (with_reducible apply kept_regPoke)

end Sys2Proof.Machine
end

