-- ==== Sys2Proof/Laws/KeptFabBase.lean ====
section
/-! SUPPORT. What each operation of Machine/FabBase.lean keeps. -/

set_option linter.unreachableTactic false
set_option linter.unusedTactic false
set_option linter.unusedSimpArgs false
set_option linter.unusedVariables false

namespace Sys2Proof.Machine

theorem kept_niAnswer {s0 s : State} (h : Kept s0 s) : ∀ x0 x1 x2, Kept s0 (niAnswer s x0 x1 x2) := by
  intro x0 x1 x2
  unfold niAnswer
  extract_lets -merge -useContext -underBinder ones_1
  try clear_value ones_1
  apply kept_setFab
  apply kept_ite
  · repeat' first | (with_reducible assumption) | (with_reducible apply kept_bump)
  · repeat' first | (with_reducible assumption)

theorem kept_setTokens {s0 s : State} (h : Kept s0 s) : ∀ x0 x1 x2, Kept s0 (setTokens s x0 x1 x2) := by
  intro x0 x1 x2
  unfold setTokens
  repeat' first | (with_reducible assumption) | (with_reducible apply kept_setFab) | (with_reducible apply kept_ite) | simp only [kept_mk_iff] | split

theorem kept_launch {s0 s : State} (h : Kept s0 s) : ∀ x0 x1, Kept s0 (launch s x0 x1) := by
  intro x0 x1
  unfold launch
  extract_lets -merge -useContext -underBinder k_1 s1_2
  try clear_value k_1
  have h_s1_2 : Kept s0 s1_2 := by
    unfold s1_2
    repeat' first | (with_reducible assumption) | (with_reducible apply kept_bump)
  try clear_value s1_2
  apply kept_ite
  · repeat' first | (with_reducible assumption) | (with_reducible apply kept_setFab) | (with_reducible apply keptP_mk) | (with_reducible apply keptQ_mk)
  · repeat' first | (with_reducible assumption) | (with_reducible apply kept_setFab)

theorem kept_regulate {s0 s : State} (h : Kept s0 s) : ∀ x0 x1, Kept s0 (regulate s x0 x1) := by
  intro x0 x1
  unfold regulate
  extract_lets -merge -useContext -underBinder wait_1
  have h_wait_1 : Kept s0 wait_1 := by
    unfold wait_1
    repeat' first | (with_reducible assumption) | (with_reducible apply kept_setFab) | (with_reducible apply keptP_mk) | (with_reducible apply keptQ_mk)
  try clear_value wait_1
  apply kept_ite
  · repeat' first | (with_reducible assumption)
  · apply kept_ite
    · repeat' first | (with_reducible assumption) | (with_reducible apply kept_launch)
    · apply kept_ite
      · repeat' first | (with_reducible assumption) | (with_reducible apply kept_launch) | (with_reducible apply kept_setTokens)
      · repeat' first | (with_reducible assumption)

theorem kept_tokenRun {s0 s : State} (h : Kept s0 s) : ∀ x0 x1 x2 x3, Kept s0 (tokenRun x0 s x1 x2 x3) := by
  intro x0 x1 x2 x3
  induction x0 generalizing s x3 with
  | zero => exact h
  | succ k ih =>
    unfold tokenRun
    extract_lets rate t fill
    split
    · exact kept_setTokens h ..
    · extract_lets cost c s1
      have h1 : Kept s0 s1 := kept_setFab (kept_bump h ..) ..
      exact kept_ite (kept_bump (kept_setTokens h ..) ..) (ih (kept_launch (kept_ite h1 (kept_setTokens h1 ..)) ..) _)

end Sys2Proof.Machine
end

