-- ==== Sys2Proof/Laws/KeptNet.lean ====
section
/-! SUPPORT. What each operation of Machine/Net.lean keeps. -/

set_option linter.unreachableTactic false
set_option linter.unusedTactic false
set_option linter.unusedSimpArgs false
set_option linter.unusedVariables false

namespace Sys2Proof.Machine

theorem kept_noteFenced {s0 s : State} (h : Kept s0 s) : ∀ x0, Kept s0 (noteFenced s x0) := by
  intro x0
  unfold noteFenced
  repeat' first | (with_reducible assumption) | (with_reducible apply kept_bump) | (with_reducible apply kept_raise)

theorem kept_noteMiss {s0 s : State} (h : Kept s0 s) : ∀ x0, Kept s0 (noteMiss s x0) := by
  intro x0
  unfold noteMiss
  repeat' first | (with_reducible assumption) | (with_reducible apply kept_bump) | (with_reducible apply kept_raise)

theorem kept_portWord {s0 s : State} (h : Kept s0 s) : ∀ b q src o w, KeptP s0 (portWord s b q src o w) := by
  intro b q src o w
  unfold portWord
  exact keptP_ite (keptP_mk (kept_hdrWrite h ..)) (keptP_ite (keptP_mk (kept_abortPkt h ..))
    (keptP_ite (keptP_mk (kept_pushWord h ..)) (keptP_mk h)))

theorem kept_portWords {s0 : State} : ∀ (ws : List MWord) {s : State}, Kept s0 s → ∀ b q src o, KeptP s0 (portWords s b q src o ws)
  | [], _, h, _, _, _, _ => h
  | w :: ws, s, h, b, q, src, o => by
    unfold portWords
    exact KeptP.one (kept_portWords ws (KeptP.one (kept_portWord h ..)) ..)

theorem kept_captureAts {s0 s : State} (h : Kept s0 s) : ∀ x0, Kept s0 (captureAts s x0) := by
  intro x0
  unfold captureAts
  repeat' first | (with_reducible assumption) | (with_reducible apply keptP_mk) | (with_reducible apply keptQ_mk) | simp only [kept_mk_iff]

theorem kept_serveRead {s0 s : State} (h : Kept s0 s) : ∀ x0 x1 x2 x3 x4, KeptP s0 (serveRead s x0 x1 x2 x3 x4) := by
  intro x0 x1 x2 x3 x4
  unfold serveRead
  split
  · rename_i a_1 a_2 a_3 a_4 e_5
    apply keptP_ite
    · extract_lets -merge -useContext -underBinder s1_6
      have h_s1_6 : Kept s0 s1_6 := by
        unfold s1_6
        repeat' first | (with_reducible assumption) | (with_reducible apply kept_popRead)
      try clear_value s1_6
      repeat' first | (with_reducible assumption) | (with_reducible apply keptP_mk) | (with_reducible apply keptQ_mk)
    · repeat' first | (with_reducible assumption) | (with_reducible apply keptP_mk) | (with_reducible apply keptQ_mk)
  · rename_i a_7 e_8
    apply keptP_ite
    · extract_lets -merge -useContext -underBinder at__9 bad_10 s0_11 s1_12
      try clear_value at__9
      try clear_value bad_10
      have h_s0_11 : Kept s0 s0_11 := by
        unfold s0_11
        apply kept_ite
        · repeat' first | (with_reducible assumption) | (with_reducible apply kept_ueMeet)
        · repeat' first | (with_reducible assumption)
      try clear_value s0_11
      have h_s1_12 : Kept s0 s1_12 := by
        unfold s1_12
        apply kept_ite
        · repeat' first | (with_reducible assumption) | (with_reducible apply kept_captureAts)
        · repeat' first | (with_reducible assumption)
      try clear_value s1_12
      apply keptP_mk
      refine kept_foldl _ ?_ _ ?_
      · intro a_13 x_14 h_15
        repeat' first | (with_reducible assumption) | (with_reducible apply kept_readClears)
      · repeat' first | (with_reducible assumption)
    · split
      rename_i a_16 a_17 a_18 e_19
      have h_a_17 : Kept s0 a_17 := by
        apply KeptP.eq (e := e_19)
        repeat' first | (with_reducible assumption) | (with_reducible apply kept_readWords)
      clear e_19
      repeat' first | (with_reducible assumption) | (with_reducible apply keptP_mk) | (with_reducible apply keptQ_mk)

theorem kept_pokeWords {s0 s : State} (h : Kept s0 s) : ∀ x0 x1 x2, Kept s0 (pokeWords s x0 x1 x2) := by
  intro x0 x1 x2
  induction x2 generalizing s x0 x1 with
  | nil =>
    unfold pokeWords
    assumption
  | cons y ys ih =>
    unfold pokeWords
    repeat' first | (with_reducible assumption) | (with_reducible apply ih) | (with_reducible apply kept_regPoke64) | (with_reducible apply KeptP.one)

theorem kept_serveWrite {s0 s : State} (h : Kept s0 s) : ∀ x0 x1 x2 x3, KeptP s0 (serveWrite s x0 x1 x2 x3) := by
  intro x0 x1 x2 x3
  unfold serveWrite
  split
  · rename_i a_1 a_2 a_3 a_4 e_5
    apply keptP_ite
    · repeat' first | (with_reducible assumption) | (with_reducible apply keptP_mk) | (with_reducible apply keptQ_mk)
    · repeat' first | (with_reducible assumption) | (with_reducible apply kept_portWords)
  · rename_i a_6 e_7
    apply keptP_ite
    · repeat' first | (with_reducible assumption) | (with_reducible apply kept_pokeWords) | (with_reducible apply keptP_mk) | (with_reducible apply keptQ_mk)
    · repeat' first | (with_reducible assumption) | (with_reducible apply kept_writeWords) | (with_reducible apply kept_mendLines) | (with_reducible apply keptP_mk) | (with_reducible apply keptQ_mk)

theorem kept_gatePass {s0 s : State} (h : Kept s0 s) : ∀ x0, Kept s0 (gatePass s x0) := by
  intro x0
  unfold gatePass
  apply kept_ite
  · repeat' first | (with_reducible assumption) | (with_reducible apply kept_fenceAbort)
  · assumption

theorem kept_gateWake {s0 s : State} (h : Kept s0 s) : ∀ x0, Kept s0 (gateWake s x0) := by
  intro x0
  unfold gateWake
  apply kept_ite
  · repeat' first | (with_reducible assumption) | (with_reducible apply kept_wakeDomain)
  · assumption

theorem kept_countTrip {s0 s : State} (h : Kept s0 s) (n d k : Nat) : Kept s0 (countTrip s n d k) :=
  kept_bump (kept_bump (kept_bump (kept_bump h ..) ..) ..) ..

theorem kept_noteTimeout {s0 s : State} (h : Kept s0 s) : ∀ x0 x1, Kept s0 (noteTimeout s x0 x1) := by
  intro x0 x1
  unfold noteTimeout
  repeat' first | (with_reducible assumption) | (with_reducible apply kept_bump) | (with_reducible apply kept_raiseI) | (with_reducible apply kept_ite) | split

theorem kept_noteLate {s0 s : State} (h : Kept s0 s) : ∀ x0, Kept s0 (noteLate s x0) := by
  intro x0
  unfold noteLate
  repeat' first | (with_reducible assumption) | (with_reducible apply kept_raise) | (with_reducible apply kept_bump)

theorem kept_storeAt {s0 s : State} (h : Kept s0 s) : ∀ x0 x1 x2 x3, KeptP s0 (storeAt s x0 x1 x2 x3) := by
  intro x0 x1 x2 x3
  unfold storeAt
  apply keptP_ite
  · exact keptP_mk (kept_writeBytes (kept_mendLines h ..) ..)
  · apply keptP_ite
    · exact keptP_ite (kept_serveWrite h ..) (keptP_mk h)
    · exact keptP_ite (keptP_mk h) (keptP_mk (kept_foldl _ (fun _ _ ht => kept_regPoke ht ..) _ h))

theorem kept_engDo {s0 s : State} (h : Kept s0 s) : ∀ x0, KeptP s0 (engDo s x0) := by
  intro x0
  unfold engDo
  split
  · rename_i a_1 a_2 e_3
    repeat' first | (with_reducible assumption) | (with_reducible apply kept_serveRead)
  · rename_i a_4 a_5 e_6
    split
    rename_i a_7 a_8 a_9 e_10
    have h_a_8 : Kept s0 a_8 := by
      apply KeptP.eq (e := e_10)
      repeat' first | (with_reducible assumption) | (with_reducible apply kept_serveWrite)
    clear e_10
    repeat' first | (with_reducible assumption) | (with_reducible apply keptP_mk) | (with_reducible apply keptQ_mk)
  · rename_i a_11 a_12 e_13
    split
    rename_i a_14 a_15 a_16 e_17
    have h_a_15 : Kept s0 a_15 := by
      apply KeptP.eq (e := e_17)
      repeat' first | (with_reducible assumption) | (with_reducible apply kept_storeAt)
    clear e_17
    repeat' first | (with_reducible assumption) | (with_reducible apply keptP_mk) | (with_reducible apply keptQ_mk)

theorem kept_engDoAll {s0 : State} : ∀ (cs : List EngAcc) {s : State}, Kept s0 s → KeptP s0 (engDoAll s cs)
  | [], _, h => h
  | c :: cs, s, h => by
    unfold engDoAll
    exact KeptP.one (kept_engDoAll cs (KeptP.one (kept_engDo h ..)))

theorem kept_takeResp {s0 s : State} (h : Kept s0 s) : ∀ x0 x1, Kept s0 (takeResp s x0 x1) := by
  intro x0 x1
  unfold takeResp
  extract_lets -merge -useContext -underBinder s1_1
  have h_s1_1 : Kept s0 s1_1 := by
    unfold s1_1
    repeat' first | (with_reducible assumption) | (with_reducible apply kept_bump)
  try clear_value s1_1
  split
  · rename_i a_2 e_3
    repeat' first | (with_reducible assumption) | (with_reducible apply kept_noteLate)
  · rename_i a_4 a_5 e_6
    extract_lets -merge -useContext -underBinder s2_7
    have h_s2_7 : Kept s0 s2_7 := by
      unfold s2_7
      repeat' first | (with_reducible assumption) | (with_reducible apply kept_raiseIf) | (with_reducible apply kept_setFab)
    try clear_value s2_7
    split
    · rename_i a_8 a_9 e_10
      repeat' first | (with_reducible assumption) | (with_reducible apply kept_setFab) | (with_reducible apply keptP_mk) | (with_reducible apply keptQ_mk)
    · rename_i a_11 e_12
      repeat' first | (with_reducible assumption) | (with_reducible apply kept_niAnswer)

theorem kept_respondHere {s0 s : State} (h : Kept s0 s) : ∀ x0 x1 x2 x3, Kept s0 (respondHere s x0 x1 x2 x3) := by
  intro x0 x1 x2 x3
  unfold respondHere
  extract_lets -merge -useContext -underBinder e_1 r_2
  try clear_value e_1
  try clear_value r_2
  apply kept_ite
  · repeat' first | (with_reducible assumption)
  · split
    · rename_i a_3 a_4 e_5
      apply kept_ite
      · repeat' first | (with_reducible assumption) | (with_reducible apply kept_setFab) | (with_reducible apply keptP_mk) | (with_reducible apply keptQ_mk)
      · apply kept_ite
        · repeat' first | (with_reducible assumption) | (with_reducible apply kept_raise) | (with_reducible apply kept_bump)
        · apply kept_ite
          · repeat' first | (with_reducible assumption) | (with_reducible apply kept_takeResp) | (with_reducible apply kept_bump)
          · repeat' first | (with_reducible assumption) | (with_reducible apply kept_regulate)
    · rename_i a_6 e_7
      apply kept_ite
      · repeat' first | (with_reducible assumption) | (with_reducible apply kept_raise) | (with_reducible apply kept_bump)
      · repeat' first | (with_reducible assumption) | (with_reducible apply kept_regulate)

theorem kept_engServe {s0 s : State} (h : Kept s0 s) : ∀ x0 x1 x2, Kept s0 (engServe s x0 x1 x2) := by
  intro x0 x1 x2
  unfold engServe
  split
  rename_i a_1 a_2 a_3 a_4 e_5
  have h_a_2 : Kept s0 a_2 := by
    apply KeptP.eq (e := e_5)
    repeat' first | (with_reducible assumption) | (with_reducible apply kept_engDo)
  clear e_5
  split
  · rename_i a_6 a_7 a_8 a_9 e_10
    apply kept_ite
    · repeat' first | (with_reducible assumption) | (with_reducible apply kept_setFab) | (with_reducible apply keptP_mk) | (with_reducible apply keptQ_mk)
    · repeat' first | (with_reducible assumption) | (with_reducible apply kept_respondHere)
  · rename_i a_11 e_12
    repeat' first | (with_reducible assumption) | (with_reducible apply kept_respondHere)

theorem kept_holdPkt {s0 s : State} (h : Kept s0 s) : ∀ x0, KeptP s0 (holdPkt s x0) := by
  intro x0
  unfold holdPkt
  extract_lets -merge -useContext -underBinder dom_1 k_2 held_3
  try clear_value dom_1
  try clear_value k_2
  try clear_value held_3
  apply keptP_ite
  · repeat' first | (with_reducible assumption) | (with_reducible apply kept_raise) | (with_reducible apply kept_gateWake) | (with_reducible apply keptP_mk) | (with_reducible apply keptQ_mk)
  · repeat' first | (with_reducible assumption) | (with_reducible apply kept_gateWake) | (with_reducible apply kept_bump) | (with_reducible apply kept_setFab) | (with_reducible apply keptP_mk) | (with_reducible apply keptQ_mk)

theorem kept_engArrive {s0 s : State} (h : Kept s0 s) : ∀ x0 x1 x2, Kept s0 (engArrive s x0 x1 x2) := by
  intro x0 x1 x2
  unfold engArrive
  split
  · rename_i a_1 e_2
    repeat' first | (with_reducible assumption) | (with_reducible apply kept_engServe) | (with_reducible apply kept_gatePass) | (with_reducible apply kept_bump)
  · rename_i a_3 e_4
    repeat' first | (with_reducible assumption) | (with_reducible apply kept_respondHere) | (with_reducible apply kept_noteFenced)
  · rename_i a_5 e_6
    split
    · rename_i a_7 a_8 e_9
      have h_a_8 : Kept s0 a_8 := by
        apply KeptP.eq (e := e_9)
        repeat' first | (with_reducible assumption) | (with_reducible apply kept_holdPkt)
      clear e_9
      repeat' first | (with_reducible assumption)
    · rename_i a_10 a_11 a_12 e_13
      have h_a_11 : Kept s0 a_11 := by
        apply KeptP.eq (e := e_13)
        repeat' first | (with_reducible assumption) | (with_reducible apply kept_holdPkt)
      clear e_13
      repeat' first | (with_reducible assumption) | (with_reducible apply kept_respondHere)

theorem kept_engSend {s0 s : State} (h : Kept s0 s) : ∀ x0, Kept s0 (engSend s x0) := by
  intro x0
  unfold engSend
  extract_lets -merge -useContext -underBinder n_1
  try clear_value n_1
  apply kept_ite
  · repeat' first | (with_reducible assumption)
  · apply kept_ite
    · repeat' first | (with_reducible assumption) | (with_reducible apply kept_engServe)
    · apply kept_ite
      · repeat' first | (with_reducible assumption)
      · split
        · rename_i a_2 a_3 a_4 a_5 a_6 e_7 e_8
          extract_lets -merge -useContext -underBinder g_9 p_10 s1_11
          try clear_value g_9
          try clear_value p_10
          have h_s1_11 : Kept s0 s1_11 := by
            unfold s1_11
            repeat' first | (with_reducible assumption) | (with_reducible apply kept_setFab)
          try clear_value s1_11
          apply kept_ite
          · repeat' first | (with_reducible assumption) | (with_reducible apply kept_engArrive) | (with_reducible apply kept_bump)
          · repeat' first | (with_reducible assumption) | (with_reducible apply kept_regulate)
        · rename_i a_12 a_13 a_14
          repeat' first | (with_reducible assumption)

theorem kept_settled {s0 s t : State} (h : Kept s0 s) (k : Kept s0 t) : Kept s0 (settled s t) := by
  unfold settled
  split
  · exact k
  · exact kept_foldl _ (fun _ _ x => kept_engSend x ..) _ h

theorem kept_engWait {s0 s : State} (h : Kept s0 s) : Kept s0 (engWait s) := by
  unfold engWait
  refine kept_foldl _ ?_ _ ?_
  · intro a_1 x_2 h_3
    repeat' first | (with_reducible assumption) | (with_reducible apply kept_engSend)
  · repeat' first | (with_reducible assumption) | (with_reducible apply kept_setFab)

theorem kept_askFor {s0 s : State} (h : Kept s0 s) : ∀ x0, Kept s0 (askFor s x0) := by
  intro x0
  unfold askFor
  repeat' first | (with_reducible assumption) | (with_reducible apply kept_setFab)

theorem kept_engForget {s0 s : State} (h : Kept s0 s) : ∀ x0, Kept s0 (engForget s x0) := by
  intro x0
  unfold engForget
  repeat' first | (with_reducible assumption) | (with_reducible apply kept_setFab) | (with_reducible apply KeptP.one)

theorem kept_timedOut {s0 s : State} (h : Kept s0 s) : ∀ x0 x1 x2 x3, KeptP s0 (timedOut s x0 x1 x2 x3) := by
  intro x0 x1 x2 x3
  unfold timedOut
  extract_lets s1
  have h1 : Kept s0 s1 := kept_noteTimeout h ..
  clear_value s1
  apply keptP_ite
  · exact keptP_mk h1
  · split
    · exact keptP_mk (kept_foldl _ (fun _ _ k => KeptP.one (kept_holdPkt k ..)) _ h1)
    · exact keptP_mk (kept_noteLate (kept_noteFenced h1 ..) ..)
    · split
      rename_i v s2 e
      have h2 : Kept s0 s2 := KeptQ.eq (kept_drawFree h1) e
      apply keptP_ite
      · exact keptP_mk (kept_noteLate (kept_countTrip (kept_gatePass h2 ..) ..) ..)
      · exact keptP_mk h2

theorem kept_netDo {s0 s : State} (h : Kept s0 s) : ∀ x0 x1 x2 x3 x4 x5, KeptP s0 (netDo s x0 x1 x2 x3 x4 x5) := by
  intro n a cs bad zero ov
  unfold netDo
  extract_lets wait fc served late
  have hw : KeptP s0 wait := keptP_mk (kept_askFor h ..)
  have hs : ∀ t, Kept s0 t → KeptP s0 (served t) := by
    intro t k
    have := kept_engDoAll cs k
    exact keptP_ite hw this
  have hl : ∀ d t inj, Kept s0 t → KeptP s0 (late d t inj) := by
    intro d t inj k
    have k1 : Kept s0 (timedOut t n d inj cs).1 := KeptP.one (kept_timedOut k ..)
    exact keptP_mk (kept_ite (KeptP.one (kept_engDoAll cs k1)) k1)
  clear_value wait served late
  have hp : ∀ st ws, KeptP s0 ((s, st, ws) : State × Status × List MWord) := fun _ _ => keptP_mk h
  split
  · exact keptP_mk (kept_engForget h ..)
  · apply keptP_ite (hs _ h)
    split
    · exact hp _ _
    · exact keptP_mk (kept_noteMiss h ..)
    · exact hp _ _
    · exact hp _ _
    · exact keptP_mk (kept_noteFenced h ..)
    · rename_i d e _
      apply keptP_ite
      · exact keptP_ite (keptP_mk (kept_engForget (kept_noteTimeout h ..) ..)) hw
      · apply keptP_ite (hl _ _ _ (kept_wr h ..))
        apply keptP_ite (hl _ _ _ h)
        apply keptP_ite
        · split
          · exact keptP_ite hw (hp _ _)
          · exact hw
        · apply keptP_ite hw
          split
          · exact hw
          · exact keptP_mk (kept_noteFenced h ..)
          · exact hs _ (kept_countTrip (kept_gatePass h (niDomain d)) n d cs.length)

theorem kept_netGet {s0 s : State} (h : Kept s0 s) : ∀ x0 x1 x2 x3 x4, KeptP s0 (netGet s x0 x1 x2 x3 x4) := by
  intro x0 x1 x2 x3 x4
  unfold netGet
  extract_lets -merge -useContext -underBinder k_1
  try clear_value k_1
  repeat' first | (with_reducible assumption) | (with_reducible apply kept_netDo) | (with_reducible apply KeptP.one) | (with_reducible apply KeptQ.one)

theorem kept_netRead {s0 s : State} (h : Kept s0 s) : ∀ x0 x1 x2 x3 x4, KeptP s0 (netRead s x0 x1 x2 x3 x4) := by
  intro x0 x1 x2 x3 x4
  unfold netRead
  repeat' first | (with_reducible assumption) | (with_reducible apply kept_netGet)

theorem kept_netWrite {s0 s : State} (h : Kept s0 s) : ∀ x0 x1 x2 x3 x4, KeptP s0 (netWrite s x0 x1 x2 x3 x4) := by
  intro x0 x1 x2 x3 x4
  unfold netWrite
  extract_lets -merge -useContext -underBinder cs_1
  try clear_value cs_1
  split
  rename_i a_2 a_3 a_4 a_5 e_6
  have h_a_3 : Kept s0 a_3 := by
    apply KeptP.eq (e := e_6)
    repeat' first | (with_reducible assumption) | (with_reducible apply kept_netDo)
  clear e_6
  repeat' first | (with_reducible assumption) | (with_reducible apply keptP_mk) | (with_reducible apply keptQ_mk)

theorem kept_netStore {s0 s : State} (h : Kept s0 s) : ∀ x0 x1 x2 x3, KeptP s0 (netStore s x0 x1 x2 x3) := by
  intro x0 x1 x2 x3
  unfold netStore
  split
  rename_i a_1 a_2 a_3 a_4 e_5
  have h_a_2 : Kept s0 a_2 := by
    apply KeptP.eq (e := e_5)
    repeat' first | (with_reducible assumption) | (with_reducible apply kept_netDo)
  clear e_5
  repeat' first | (with_reducible assumption) | (with_reducible apply keptP_mk) | (with_reducible apply keptQ_mk)

theorem kept_netBytes {s0 s : State} (h : Kept s0 s) : ∀ x0 x1 x2 x3, KeptP s0 (netBytes s x0 x1 x2 x3) := by
  intro x0 x1 x2 x3
  unfold netBytes
  repeat' first | (with_reducible assumption) | (with_reducible apply kept_netGet) | (with_reducible apply KeptP.one) | (with_reducible apply KeptQ.one) | (with_reducible apply keptP_mk) | (with_reducible apply keptQ_mk)

theorem kept_net32s {s0 s : State} (h : Kept s0 s) : ∀ x0 x1 x2, KeptP s0 (net32s s x0 x1 x2) := by
  intro x0 x1 x2
  unfold net32s
  split
  rename_i a_1 a_2 a_3 a_4 a_5 e_6
  have h_a_2 : Kept s0 a_2 := by
    apply KeptP.eq (e := e_6)
    repeat' first | (with_reducible assumption) | (with_reducible apply kept_netBytes)
  clear e_6
  repeat' first | (with_reducible assumption) | (with_reducible apply keptP_mk) | (with_reducible apply keptQ_mk)

theorem kept_netGiveUp {s0 s : State} (h : Kept s0 s) : ∀ x0 x1 x2 x3, Kept s0 (netGiveUp s x0 x1 x2 x3) := by
  intro x0 x1 x2 x3
  unfold netGiveUp
  repeat' first | (with_reducible assumption) | (with_reducible apply kept_engForget) | (with_reducible apply kept_noteTimeout) | (with_reducible apply KeptP.one) | (with_reducible apply KeptQ.one)

theorem kept_noteLost {s0 s : State} (h : Kept s0 s) : ∀ x0, Kept s0 (noteLost s x0) := by
  intro x0
  unfold noteLost
  repeat' first | (with_reducible assumption) | (with_reducible apply kept_bump)

theorem kept_postOne {s0 s : State} (h : Kept s0 s) : ∀ x0, Kept s0 (postOne s x0) := by
  intro x0
  unfold postOne
  extract_lets -merge -useContext -underBinder n_1
  try clear_value n_1
  apply kept_ite
  · repeat' first | (with_reducible assumption) | (with_reducible apply kept_engDo) | (with_reducible apply KeptP.one)
  · split
    · rename_i a_2 a_3 e_4
      repeat' first | (with_reducible assumption) | (with_reducible apply kept_noteLost)
    · rename_i a_5 e_6
      repeat' first | (with_reducible assumption) | (with_reducible apply kept_noteMiss)
    · rename_i a_7 e_8
      repeat' first | (with_reducible assumption)
    · rename_i a_9 e_10
      repeat' first | (with_reducible assumption) | (with_reducible apply kept_noteLost)
    · rename_i a_11 e_12
      repeat' first | (with_reducible assumption) | (with_reducible apply kept_noteFenced)
    · rename_i a_13 a_14 a_15 e_16
      extract_lets -merge -useContext -underBinder p_17
      try clear_value p_17
      apply kept_ite
      · repeat' first | (with_reducible assumption) | (with_reducible apply kept_engArrive) | (with_reducible apply kept_bump)
      · repeat' first | (with_reducible assumption) | (with_reducible apply kept_regulate)

theorem kept_netPost {s0 s : State} (h : Kept s0 s) : ∀ x0 x1 x2 x3, Kept s0 (netPost s x0 x1 x2 x3) := by
  intro x0 x1 x2 x3
  unfold netPost
  refine kept_foldl _ ?_ _ ?_
  · intro a_1 x_2 h_3
    repeat' first | (with_reducible assumption) | (with_reducible apply kept_postOne)
  · repeat' first | (with_reducible assumption)

theorem kept_netPostWords {s0 s : State} (h : Kept s0 s) : ∀ x0 x1 x2 x3, Kept s0 (netPostWords s x0 x1 x2 x3) := by
  intro x0 x1 x2 x3
  unfold netPostWords
  refine kept_foldl _ ?_ _ ?_
  · intro a_1 x_2 h_3
    repeat' first | (with_reducible assumption) | (with_reducible apply kept_postOne)
  · repeat' first | (with_reducible assumption)

end Sys2Proof.Machine
end

