-- ==== Sys2Proof/Laws/KeptPattern.lean ====
section
/-! SUPPORT. What each operation of Machine/Pattern.lean keeps. -/

set_option linter.unreachableTactic false
set_option linter.unusedTactic false
set_option linter.unusedSimpArgs false
set_option linter.unusedVariables false

namespace Sys2Proof.Machine

theorem kept_endHeld {s0 s : State} (h : Kept s0 s) (op : Nat) (q : Req) (st : Status) (ws : List W32) : Kept s0 (endHeld s op q st ws) := by
  unfold endHeld
  dsimp only
  split
  · exact kept_reply (kept_setPn h _ fun x => x.sub rfl rfl rfl (removeFirst_sublist _ _)) ..
  · exact h

theorem kept_patternLoad {s0 s : State} (h : Kept s0 s) : ∀ x0, KeptD s0 (patternLoad x0 s) := by
  intro x0
  unfold patternLoad
  extract_lets -merge -useContext -underBinder i_1 a_2 n_3
  try clear_value i_1
  try clear_value a_2
  try clear_value n_3
  apply keptD_ite
  · repeat' first | (with_reducible assumption) | (with_reducible apply kept_done) | (with_reducible apply kept_done)
  · apply keptD_ite
    · repeat' first | (with_reducible assumption) | (with_reducible apply kept_done) | (with_reducible apply kept_done)
    · split
      · repeat' first | (with_reducible assumption) | (with_reducible apply kept_done) | (with_reducible apply kept_done)
      · apply keptD_ite
        · repeat' first | (with_reducible assumption) | (with_reducible apply kept_done) | (with_reducible apply kept_done)
        · apply keptD_ite
          · repeat' first | (with_reducible assumption) | (with_reducible apply kept_done) | (with_reducible apply kept_done)
          · apply keptD_ite
            · repeat' first | (with_reducible assumption) | (with_reducible apply kept_done) | (with_reducible apply kept_done)
            · repeat' first | (with_reducible assumption) | (with_reducible apply kept_holding) | (with_reducible apply kept_setCord) | (with_reducible apply kept_holding) | simp only [kept_mk_iff]

theorem kept_finishLoad {s0 s : State} (h : Kept s0 s) : ∀ x0 x1 x2, Kept s0 (finishLoad s x0 x1 x2) := by
  intro x0 x1 x2
  unfold finishLoad
  repeat' first | (with_reducible assumption) | (with_reducible apply kept_endHeld) | (with_reducible apply kept_setCord) | simp only [kept_mk_iff]

theorem kept_patternRead {s0 s : State} (h : Kept s0 s) : ∀ x0 x1, Kept s0 (patternRead s x0 x1) := by
  intro x0 x1
  unfold patternRead
  split
  · rename_i a_1 e_2
    repeat' first | (with_reducible assumption)
  · rename_i a_3 a_4 e_5
    split
    rename_i a_6 a_7 a_8 a_9 a_10 e_11
    have h_a_7 : Kept s0 a_7 := by
      apply KeptP.eq (e := e_11)
      split
      · rename_i a_12 a_13 a_14
        apply keptP_mk
        apply kept_ite
        · repeat' first | (with_reducible assumption) | (with_reducible apply kept_netGiveUp)
        · repeat' first | (with_reducible assumption)
      · rename_i a_15
        repeat' first | (with_reducible assumption) | (with_reducible apply kept_net32s)
    clear e_11
    apply kept_ite
    · repeat' first | (with_reducible assumption) | (with_reducible apply kept_finishLoad)
    · split
      · rename_i a_16 e_17
        split
        · rename_i a_18 e_19
          repeat' first | (with_reducible assumption) | (with_reducible apply kept_finishLoad)
        · rename_i a_20 a_21 a_22 e_23
          extract_lets -merge -useContext -underBinder b_24 s2_25 s3_26
          try clear_value b_24
          have h_s2_25 : Kept s0 s2_25 := by
            unfold s2_25
            repeat' first | (with_reducible assumption) | (with_reducible apply kept_setCord)
          try clear_value s2_25
          have h_s3_26 : Kept s0 s3_26 := by
            unfold s3_26
            apply kept_ite
            · repeat' first | (with_reducible assumption) | (with_reducible apply kept_write32s)
            · repeat' first | (with_reducible assumption)
          try clear_value s3_26
          repeat' first | (with_reducible assumption) | (with_reducible apply kept_finishLoad)
      · rename_i a_27 a_28
        repeat' first | (with_reducible assumption) | (with_reducible apply kept_finishLoad)

theorem kept_patternStatus {s0 s : State} (h : Kept s0 s) : ∀ x0, KeptD s0 (patternStatus x0 s) := by
  intro x0
  unfold patternStatus
  apply keptD_ite
  · repeat' first | (with_reducible assumption) | (with_reducible apply kept_done) | (with_reducible apply kept_done)
  · split
    · repeat' first | (with_reducible assumption) | (with_reducible apply kept_doneW) | (with_reducible apply kept_doneW)
    · repeat' first | (with_reducible assumption) | (with_reducible apply kept_doneW) | (with_reducible apply kept_doneW) | simp only [kept_mk_iff] | dsimp only | intro _ _ _ | (with_reducible apply keptP_mk) | (with_reducible apply keptQ_mk)

end Sys2Proof.Machine
end

