-- ==== Sys2Proof/Laws/KeptAdmit.lean ====
section
/-! SUPPORT. What each operation of Machine/Admit.lean keeps. -/

set_option linter.unreachableTactic false
set_option linter.unusedTactic false
set_option linter.unusedSimpArgs false
set_option linter.unusedVariables false

namespace Sys2Proof.Machine

theorem kept_setGov {s0 s : State} (h : Kept s0 s) : ∀ x0, Kept s0 (setGov s x0) := by
  intro x0
  unfold setGov
  repeat' first | (with_reducible assumption) | simp only [kept_mk_iff]

theorem kept_govSync {s0 s : State} (h : Kept s0 s) : Kept s0 (govSync s) := by
  unfold govSync
  extract_lets -merge -useContext -underBinder s1_1 overs_2 old_3 s2_4
  have h_s1_1 : Kept s0 s1_1 := by
    unfold s1_1
    repeat' first | (with_reducible assumption) | (with_reducible apply kept_wr) | (with_reducible apply kept_foldl) | (with_reducible apply keptP_foldl) | dsimp only | intro _ _ _
  try clear_value s1_1
  try clear_value overs_2
  try clear_value old_3
  have h_s2_4 : Kept s0 s2_4 := by
    unfold s2_4
    repeat' first | (with_reducible assumption) | (with_reducible apply kept_wrF)
  try clear_value s2_4
  repeat' first | (with_reducible assumption) | (with_reducible apply kept_raiseIf)

theorem kept_capSync {s0 s : State} (h : Kept s0 s) : Kept s0 (capSync s) := by
  unfold capSync
  repeat' first | (with_reducible assumption) | (with_reducible apply kept_govSync) | (with_reducible apply kept_wr) | (with_reducible apply kept_foldl) | (with_reducible apply keptP_foldl) | dsimp only | intro _ _ _

theorem kept_spareSync {s0 s : State} (h : Kept s0 s) : Kept s0 (spareSync s) := by
  unfold spareSync
  repeat' first | (with_reducible assumption) | (with_reducible apply kept_wrB)

theorem kept_limitsTake {s0 s : State} (h : Kept s0 s) : Kept s0 (limitsTake s) := by
  unfold limitsTake
  extract_lets -merge -useContext -underBinder bs_1 s1_2 hs_3 s2_4 s3_5
  try clear_value bs_1
  have h_s1_2 : Kept s0 s1_2 := by
    unfold s1_2
    refine kept_foldl _ ?_ _ ?_
    · intro a_6 x_7 h_8
      repeat' first | (with_reducible assumption) | (with_reducible apply kept_wr) | (with_reducible apply keptP_mk) | (with_reducible apply keptQ_mk)
    · repeat' first | (with_reducible assumption)
  try clear_value s1_2
  try clear_value hs_3
  have h_s2_4 : Kept s0 s2_4 := by
    unfold s2_4
    refine kept_foldl _ ?_ _ ?_
    · intro a_9 x_10 h_11
      repeat' first | (with_reducible assumption) | (with_reducible apply kept_wr)
    · repeat' first | (with_reducible assumption)
  try clear_value s2_4
  have h_s3_5 : Kept s0 s3_5 := by
    unfold s3_5
    repeat' first | (with_reducible assumption) | (with_reducible apply kept_setGov)
  try clear_value s3_5
  repeat' first | (with_reducible assumption) | (with_reducible apply kept_capSync) | (with_reducible apply kept_returnStaged)

theorem kept_execLimitTakeEffect {s0 s : State} (h : Kept s0 s) : ∃ t, execLimitTakeEffect s = .next t ∧ Kept s0 t := by
  refine ⟨_, rfl, ?_⟩
  repeat' first | (with_reducible assumption) | (with_reducible apply kept_limitsTake)

end Sys2Proof.Machine
end

