-- ==== Sys2Proof/Laws/KeptCell.lean ====
section
/-! SUPPORT. What each operation of Machine/Cell.lean keeps. -/

set_option linter.unreachableTactic false
set_option linter.unusedTactic false
set_option linter.unusedSimpArgs false
set_option linter.unusedVariables false

namespace Sys2Proof.Machine

theorem kept_modCell {s0 s : State} (h : Kept s0 s) : ∀ x0 x1, Kept s0 (modCell s x0 x1) := by
  intro x0 x1
  unfold modCell
  repeat' first | (with_reducible assumption) | (with_reducible apply kept_setCord) | (with_reducible apply kept_ite) | simp only [kept_mk_iff] | split

theorem kept_dropCell {s0 s : State} (h : Kept s0 s) : ∀ x0, Kept s0 (dropCell s x0) := by
  intro x0
  unfold dropCell
  repeat' first | (with_reducible assumption) | (with_reducible apply kept_setCord) | simp only [kept_mk_iff]

theorem kept_cellStartStaged {s0 s : State} (h : Kept s0 s) : ∀ x0 x1, Kept s0 (cellStartStaged s x0 x1) := by
  intro x0 x1
  unfold cellStartStaged
  repeat' first | (with_reducible assumption) | (with_reducible apply kept_govSync) | (with_reducible apply kept_setCord) | simp only [kept_mk_iff]

theorem kept_cellStartApply {s0 s : State} (h : Kept s0 s) : ∀ x0, Kept s0 (cellStartApply s x0) := by
  intro x0
  unfold cellStartApply
  repeat' first | (with_reducible assumption) | (with_reducible apply kept_modCell) | simp only [kept_mk_iff]

theorem kept_freeStopped {s0 s : State} (h : Kept s0 s) : Kept s0 (freeStopped s) := by
  unfold freeStopped
  repeat' first | (with_reducible assumption) | (with_reducible apply kept_setCord) | simp only [kept_mk_iff]

theorem kept_cellsSync {s0 s : State} (h : Kept s0 s) : Kept s0 (cellsSync s) := by
  unfold cellsSync
  extract_lets -merge -useContext -underBinder started_1
  try clear_value started_1
  repeat' first | (with_reducible assumption) | (with_reducible apply kept_govSync) | (with_reducible apply kept_setCord)

theorem kept_cellStopApply {s0 s : State} (h : Kept s0 s) : ∀ x0 x1, Kept s0 (cellStopApply s x0 x1) := by
  intro x0 x1
  unfold cellStopApply
  extract_lets -merge -useContext -underBinder h_1 s1_2 s2_3
  try clear_value h_1
  have h_s1_2 : Kept s0 s1_2 := by
    unfold s1_2
    repeat' first | (with_reducible assumption) | (with_reducible apply kept_modCell)
  try clear_value s1_2
  have h_s2_3 : Kept s0 s2_3 := by
    unfold s2_3
    repeat' first | (with_reducible assumption) | (with_reducible apply kept_refuseAll)
  try clear_value s2_3
  repeat' first | (with_reducible assumption) | (with_reducible apply kept_cellsSync) | (with_reducible apply kept_freeStopped)

theorem kept_tddApply {s0 s : State} (h : Kept s0 s) : ∀ x0, Kept s0 (tddApply s x0) := by
  intro x0
  unfold tddApply
  repeat' first | (with_reducible assumption) | (with_reducible apply kept_govSync) | (with_reducible apply kept_modCell) | simp only [kept_mk_iff]

theorem kept_patternUnload {s0 s : State} (h : Kept s0 s) : ∀ x0, KeptD s0 (patternUnload x0 s) := by
  intro x0
  unfold patternUnload
  extract_lets -merge -useContext -underBinder i_1
  try clear_value i_1
  apply keptD_ite
  · repeat' first | (with_reducible assumption) | (with_reducible apply kept_done) | (with_reducible apply kept_done)
  · apply keptD_ite
    · repeat' first | (with_reducible assumption) | (with_reducible apply kept_done) | (with_reducible apply kept_done)
    · repeat' first | (with_reducible assumption) | (with_reducible apply kept_done) | (with_reducible apply kept_setCord) | (with_reducible apply kept_done) | simp only [kept_mk_iff]

theorem kept_ringConfig {s0 s : State} (h : Kept s0 s) : ∀ x0, KeptD s0 (ringConfig x0 s) := by
  intro x0
  unfold ringConfig
  extract_lets -merge -useContext -underBinder w_1 r_2 n_3 en_4 base_5 on_6 s1_7 s2_8
  try clear_value w_1
  try clear_value r_2
  try clear_value n_3
  try clear_value en_4
  try clear_value base_5
  try clear_value on_6
  have h_s1_7 : Kept s0 s1_7 := by
    unfold s1_7
    repeat' first | (with_reducible assumption) | (with_reducible apply kept_wr) | simp only [kept_mk_iff] | dsimp only | intro _ _ _ | (with_reducible apply keptP_mk) | (with_reducible apply keptQ_mk)
  try clear_value s1_7
  have h_s2_8 : Kept s0 s2_8 := by
    unfold s2_8
    repeat' first | (with_reducible assumption) | (with_reducible apply kept_wr)
  try clear_value s2_8
  apply keptD_ite
  · repeat' first | (with_reducible assumption) | (with_reducible apply kept_done) | (with_reducible apply kept_done)
  · apply keptD_ite
    · apply keptD_ite
      · repeat' first | (with_reducible assumption) | (with_reducible apply kept_done) | (with_reducible apply kept_done)
      · apply keptD_ite
        · repeat' first | (with_reducible assumption) | (with_reducible apply kept_done) | (with_reducible apply kept_done)
        · repeat' first | (with_reducible assumption) | (with_reducible apply kept_done) | (with_reducible apply kept_setCord) | (with_reducible apply kept_done) | (with_reducible apply KeptP.one) | simp only [kept_mk_iff]
    · apply keptD_ite
      · repeat' first | (with_reducible assumption) | (with_reducible apply kept_done) | (with_reducible apply kept_done)
      · repeat' first | (with_reducible assumption) | (with_reducible apply kept_done) | (with_reducible apply kept_wrB) | (with_reducible apply kept_done)

theorem kept_execSrTailWrite {s0 s : State} (h : Kept s0 s) : ∀ x0 x1, ∃ t, execSrTailWrite x0 x1 s = .next t ∧ Kept s0 t := by
  intro x0 x1
  refine ⟨_, rfl, ?_⟩
  extract_lets -merge -useContext -underBinder t_1
  try clear_value t_1
  apply kept_ite
  · assumption
  · apply kept_ite
    · repeat' first | (with_reducible assumption) | (with_reducible apply kept_raise)
    · repeat' first | (with_reducible assumption) | (with_reducible apply kept_wr)

theorem kept_advanceDone {s0 s : State} (h : Kept s0 s) : ∀ x0 x1, Kept s0 (advanceDone s x0 x1) := by
  intro x0 x1
  induction x1 generalizing s x0 with
  | zero =>
    unfold advanceDone
    assumption
  | succ n ih =>
    unfold advanceDone
    extract_lets -merge -useContext -underBinder d_1
    try clear_value d_1
    apply kept_ite
    · repeat' first | (with_reducible assumption) | (with_reducible apply ih) | (with_reducible apply kept_setCord) | (with_reducible apply kept_wr) | simp only [kept_mk_iff] | dsimp only | intro _ _ _ | (with_reducible apply keptP_mk) | (with_reducible apply keptQ_mk)
    · repeat' first | (with_reducible assumption) | (with_reducible apply ih)

theorem kept_entryDone {s0 s : State} (h : Kept s0 s) : ∀ x0 x1, Kept s0 (entryDone s x0 x1) := by
  intro x0 x1
  unfold entryDone
  extract_lets -merge -useContext -underBinder s1_1
  have h_s1_1 : Kept s0 s1_1 := by
    unfold s1_1
    repeat' first | (with_reducible assumption) | (with_reducible apply kept_setCord) | simp only [kept_mk_iff] | dsimp only | intro _ _ _ | (with_reducible apply keptP_mk) | (with_reducible apply keptQ_mk)
  try clear_value s1_1
  repeat' first | (with_reducible assumption) | (with_reducible apply kept_advanceDone)

theorem kept_cordStatus {s0 s : State} (h : Kept s0 s) : ∀ x0, KeptD s0 (cordStatus x0 s) := by
  intro x0
  unfold cordStatus
  apply keptD_ite
  · repeat' first | (with_reducible assumption) | (with_reducible apply kept_done) | (with_reducible apply kept_done)
  · repeat' first | (with_reducible assumption) | (with_reducible apply kept_doneW) | (with_reducible apply kept_doneW)

end Sys2Proof.Machine
end

