-- ==== Sys2Proof/Laws/KeptFronthaul.lean ====
section
/-! SUPPORT. What each operation of Machine/Fronthaul.lean keeps. -/

set_option linter.unreachableTactic false
set_option linter.unusedTactic false
set_option linter.unusedSimpArgs false
set_option linter.unusedVariables false

namespace Sys2Proof.Machine

theorem kept_modStat {s0 s : State} (h : Kept s0 s) : ∀ x0 x1, Kept s0 (modStat s x0 x1) := by
  intro x0 x1
  unfold modStat
  repeat' first | (with_reducible assumption) | (with_reducible apply kept_setFh) | simp only [kept_mk_iff]

theorem kept_modSym {s0 s : State} (h : Kept s0 s) : ∀ x0 x1 x2, Kept s0 (modSym s x0 x1 x2) := by
  intro x0 x1 x2
  unfold modSym
  repeat' first | (with_reducible assumption) | (with_reducible apply kept_modStat) | (with_reducible apply kept_ite) | simp only [kept_mk_iff] | split

theorem kept_macCount {s0 s : State} (h : Kept s0 s) : ∀ x0 x1 x2, Kept s0 (macCount s x0 x1 x2) := by
  intro x0 x1 x2
  unfold macCount
  repeat' first | (with_reducible assumption) | (with_reducible apply kept_bump)

theorem kept_pushWords {s0 s : State} (h : Kept s0 s) : ∀ x0 x1 x2 x3, Kept s0 (pushWords s x0 x1 x2 x3) := by
  intro x0 x1 x2 x3
  unfold pushWords
  refine kept_foldl _ ?_ _ ?_
  · intro a_1 x_2 h_3
    repeat' first | (with_reducible assumption) | (with_reducible apply kept_pushWord)
  · repeat' first | (with_reducible assumption)

theorem kept_deliver {s0 s : State} (h : Kept s0 s) : ∀ x0 x1 x2 x3 x4 x5 x6, Kept s0 (deliver s x0 x1 x2 x3 x4 x5 x6) := by
  intro x0 x1 x2 x3 x4 x5 x6
  unfold deliver
  extract_lets -merge -useContext -underBinder hdr_1 s1_2
  try clear_value hdr_1
  have h_s1_2 : Kept s0 s1_2 := by
    unfold s1_2
    repeat' first | (with_reducible assumption) | (with_reducible apply kept_hdrWrite)
  try clear_value s1_2
  apply kept_ite
  · assumption
  · split
    · repeat' first | (with_reducible assumption) | (with_reducible apply kept_pushWords)
    · repeat' first | (with_reducible assumption) | (with_reducible apply kept_abortPkt) | (with_reducible apply kept_pushWords)

theorem kept_jitSect {s0 s : State} (h : Kept s0 s) : ∀ x0 x1 x2 x3 x4, Kept s0 (jitSect s x0 x1 x2 x3 x4) := by
  intro x0 x1 x2 x3 x4
  unfold jitSect
  extract_lets -merge -useContext -underBinder ps_2 base_3 put_4 s1_5
  try clear_value ps_2
  try clear_value base_3
  have h_put_4 : ∀ y0 y1, Kept s0 y0 → Kept s0 (put_4 y0 y1) := by
    intro y0 y1 hy0
    unfold put_4
    repeat' first | (with_reducible assumption) | (with_reducible apply kept_netPost) | (with_reducible apply KeptP.one) | (with_reducible apply KeptQ.one)
  try clear_value put_4
  have h_s1_5 : Kept s0 s1_5 := by
    unfold s1_5
    repeat' first | (with_reducible assumption) | (with_reducible apply h_put_4) | (with_reducible apply kept_foldl) | (with_reducible apply keptP_foldl)
  try clear_value s1_5
  apply kept_ite
  · repeat' first | (with_reducible assumption) | (with_reducible apply h_put_4) | (with_reducible apply kept_macCount)
  · repeat' first | (with_reducible assumption) | (with_reducible apply h_put_4) | (with_reducible apply kept_modStat) | (with_reducible apply kept_modSym) | (with_reducible apply keptP_mk) | (with_reducible apply keptQ_mk)

theorem kept_queueSect {s0 s : State} (h : Kept s0 s) : ∀ x0 x1 x2 x3 x4 x5 x6, Kept s0 (queueSect s x0 x1 x2 x3 x4 x5 x6) := by
  intro x0 x1 x2 x3 x4 x5 x6
  unfold queueSect
  extract_lets -merge -useContext -underBinder s1_1
  have h_s1_1 : Kept s0 s1_1 := by
    unfold s1_1
    repeat' first | (with_reducible assumption) | (with_reducible apply kept_deliver) | simp only [kept_mk_iff] | dsimp only | intro _ _ _ | (with_reducible apply keptP_mk) | (with_reducible apply keptQ_mk)
  try clear_value s1_1
  apply kept_ite
  · assumption
  · repeat' first | (with_reducible assumption) | (with_reducible apply kept_modStat) | (with_reducible apply kept_modSym) | simp only [kept_mk_iff]

theorem kept_seqCheck {s0 s : State} (h : Kept s0 s) : ∀ x0 x1 x2, Kept s0 (seqCheck s x0 x1 x2) := by
  intro x0 x1 x2
  unfold seqCheck
  extract_lets -merge -useContext -underBinder x_1 gap_2 s1_3
  try clear_value x_1
  try clear_value gap_2
  have h_s1_3 : Kept s0 s1_3 := by
    unfold s1_3
    repeat' first | (with_reducible assumption) | (with_reducible apply kept_modStat) | simp only [kept_mk_iff]
  try clear_value s1_3
  apply kept_ite
  · repeat' first | (with_reducible assumption) | (with_reducible apply kept_macCount)
  · assumption

theorem kept_takeMsg {s0 s : State} (h : Kept s0 s) : ∀ x0 x1 x2 x3 x4 x5 x6, Kept s0 (takeMsg s x0 x1 x2 x3 x4 x5 x6) := by
  intro x0 x1 x2 x3 x4 x5 x6
  unfold takeMsg
  extract_lets -merge -useContext -underBinder s1_1
  have h_s1_1 : Kept s0 s1_1 := by
    unfold s1_1
    apply kept_ite
    · assumption
    · repeat' first | (with_reducible assumption) | (with_reducible apply kept_seqCheck)
  try clear_value s1_1
  apply kept_ite
  · repeat' first | (with_reducible assumption) | (with_reducible apply kept_macCount)
  · split
    · repeat' first | (with_reducible assumption) | (with_reducible apply kept_macCount) | (with_reducible apply kept_raise)
    · split
      · repeat' first | (with_reducible assumption) | (with_reducible apply kept_macCount) | (with_reducible apply kept_modStat) | (with_reducible apply kept_modSym) | (with_reducible apply kept_raise) | simp only [kept_mk_iff]
      · repeat' first | (with_reducible assumption) | (with_reducible apply kept_macCount) | (with_reducible apply kept_modStat) | (with_reducible apply kept_modSym) | (with_reducible apply kept_raise) | simp only [kept_mk_iff]
      · split
        · extract_lets -merge -useContext -underBinder l_2
          try clear_value l_2
          apply kept_ite
          · apply kept_ite
            · assumption
            · repeat' first | (with_reducible assumption) | (with_reducible apply kept_jitSect) | (with_reducible apply kept_foldl) | (with_reducible apply keptP_foldl) | dsimp only | intro _ _ _
          · repeat' first | (with_reducible assumption) | (with_reducible apply kept_queueSect) | (with_reducible apply kept_foldl) | (with_reducible apply keptP_foldl) | dsimp only | intro _ _ _
        · extract_lets -merge -useContext -underBinder bs_3 s2_4
          try clear_value bs_3
          have h_s2_4 : Kept s0 s2_4 := by
            unfold s2_4
            repeat' first | (with_reducible assumption) | (with_reducible apply kept_deliver)
          try clear_value s2_4
          apply kept_ite
          · assumption
          · repeat' first | (with_reducible assumption) | (with_reducible apply kept_modStat) | (with_reducible apply kept_modSym) | simp only [kept_mk_iff]

theorem kept_noFlow {s0 s : State} (h : Kept s0 s) : ∀ x0 x1 x2 x3, Kept s0 (noFlow s x0 x1 x2 x3) := by
  intro x0 x1 x2 x3
  unfold noFlow
  extract_lets -merge -useContext -underBinder w_1
  try clear_value w_1
  apply kept_ite
  · repeat' first | (with_reducible assumption) | (with_reducible apply kept_deliver)
  · apply kept_ite
    · assumption
    · repeat' first | (with_reducible assumption) | (with_reducible apply kept_macCount) | (with_reducible apply kept_raise)

theorem kept_classify {s0 s : State} (h : Kept s0 s) : ∀ x0 x1 x2 x3 x4, Kept s0 (classify s x0 x1 x2 x3 x4) := by
  intro x0 x1 x2 x3 x4
  unfold classify
  extract_lets -merge -useContext -underBinder p_8 all_9 msgs_10 others_11 raw_12 hits_13 lost_14 s1_15 s2_16
  try clear_value p_8
  try clear_value all_9
  try clear_value msgs_10
  try clear_value others_11
  try clear_value raw_12
  try clear_value hits_13
  try clear_value lost_14
  have h_s1_15 : Kept s0 s1_15 := by
    unfold s1_15
    refine kept_foldl _ ?_ _ ?_
    · intro a_17 x_18 h_19
      repeat' first | (with_reducible assumption) | (with_reducible apply kept_takeMsg) | (with_reducible apply KeptP.one) | (with_reducible apply KeptQ.one)
    · repeat' first | (with_reducible assumption)
  try clear_value s1_15
  have h_s2_16 : Kept s0 s2_16 := by
    unfold s2_16
    split
    · rename_i a_20 a_21 a_22
      extract_lets -merge -useContext -underBinder t_23
      have h_t_23 : Kept s0 t_23 := by
        unfold t_23
        repeat' first | (with_reducible assumption) | (with_reducible apply kept_deliver)
      try clear_value t_23
      apply kept_ite
      · repeat' first | (with_reducible assumption) | (with_reducible apply kept_modStat)
      · repeat' first | (with_reducible assumption)
    · rename_i a_24
      repeat' first | (with_reducible assumption)
  try clear_value s2_16
  apply kept_ite
  · apply kept_ite
    · repeat' first | (with_reducible assumption) | (with_reducible apply kept_noFlow)
    · repeat' first | (with_reducible assumption)
  · apply kept_ite
    · repeat' first | (with_reducible assumption) | (with_reducible apply kept_raise) | (with_reducible apply kept_macCount)
    · repeat' first | (with_reducible assumption)

theorem kept_macSend {s0 s : State} (h : Kept s0 s) : ∀ x0 x1, Kept s0 (macSend s x0 x1) := by
  intro x0 x1
  unfold macSend
  extract_lets -merge -useContext -underBinder t_1
  try clear_value t_1
  split
  · rename_i a_2 e_3
    repeat' first | (with_reducible assumption) | (with_reducible apply kept_sendFrame)
  · rename_i a_4 a_5 a_6 e_7
    extract_lets -merge -useContext -underBinder typ_8
    try clear_value typ_8
    apply kept_ite
    · repeat' first | (with_reducible assumption) | (with_reducible apply kept_sendFrame)
    · apply kept_ite
      · repeat' first | (with_reducible assumption) | (with_reducible apply kept_sendFrame)
      · repeat' first | (with_reducible assumption) | (with_reducible apply kept_modMac) | (with_reducible apply kept_sendFrame) | (with_reducible apply keptP_mk) | (with_reducible apply keptQ_mk)

theorem kept_ethRx {s0 s : State} (h : Kept s0 s) : ∀ x0 x1 x2, Kept s0 (ethRx s x0 x1 x2) := by
  intro x0 x1 x2
  unfold ethRx
  extract_lets -merge -useContext -underBinder len_1 arr_2 s1_3
  try clear_value len_1
  try clear_value arr_2
  have h_s1_3 : Kept s0 s1_3 := by
    unfold s1_3
    apply kept_ite
    · assumption
    · repeat' first | (with_reducible assumption) | (with_reducible apply kept_macCount)
  try clear_value s1_3
  apply kept_ite
  · assumption
  · apply kept_ite
    · apply kept_ite
      · assumption
      · repeat' first | (with_reducible assumption) | (with_reducible apply kept_classify)
    · repeat' first | (with_reducible assumption) | (with_reducible apply kept_classify) | (with_reducible apply kept_macCount)

theorem kept_fecCount {s0 s : State} (h : Kept s0 s) : ∀ x0 x1 x2, Kept s0 (fecCount s x0 x1 x2) := by
  intro x0 x1 x2
  unfold fecCount
  extract_lets -merge -useContext -underBinder s1_1
  have h_s1_1 : Kept s0 s1_1 := by
    unfold s1_1
    repeat' first | (with_reducible assumption) | (with_reducible apply kept_macCount)
  try clear_value s1_1
  apply kept_ite
  · repeat' first | (with_reducible assumption)
  · repeat' first | (with_reducible assumption) | (with_reducible apply kept_raise)

theorem kept_execEthFrameRx {s0 s : State} (h : Kept s0 s) : ∀ x0 x1, ∃ t, execEthFrameRx x0 x1 s = .next t ∧ Kept s0 t := by
  intro x0 x1
  unfold execEthFrameRx
  refine ⟨_, rfl, ?_⟩
  apply kept_ethRx
  apply kept_ite
  · repeat' first | (with_reducible assumption) | (with_reducible apply kept_fecCount)
  · repeat' first | (with_reducible assumption)

theorem kept_execEcpriDmrRx {s0 s : State} (h : Kept s0 s) : ∀ x0 x1 x2 x3 x4, ∃ t, execEcpriDmrRx x0 x1 x2 x3 x4 s = .next t ∧ Kept s0 t := by
  intro x0 x1 x2 x3 x4
  unfold execEcpriDmrRx
  refine ⟨_, rfl, ?_⟩
  extract_lets -merge -useContext -underBinder c_2 own_3 r_4
  try clear_value c_2
  try clear_value own_3
  try clear_value r_4
  apply kept_ite
  · repeat' first | (with_reducible assumption)
  · repeat' first | (with_reducible assumption) | (with_reducible apply kept_macSend)

theorem kept_startLine {s0 s : State} (h : Kept s0 s) : ∀ x0, Kept s0 (startLine s x0) := by
  intro x0
  unfold startLine
  apply kept_ite
  · assumption
  · split
    · assumption
    · repeat' first | (with_reducible assumption) | (with_reducible apply kept_modMac) | simp only [kept_mk_iff]

theorem kept_modJob {s0 s : State} (h : Kept s0 s) : ∀ x0 x1 x2, Kept s0 (modJob s x0 x1 x2) := by
  intro x0 x1 x2
  unfold modJob
  repeat' first | (with_reducible assumption) | (with_reducible apply kept_setFh) | (with_reducible apply kept_ite) | simp only [kept_mk_iff] | split

theorem kept_fhtxEnd {s0 s : State} (h : Kept s0 s) : ∀ x0 x1, Kept s0 (fhtxEnd s x0 x1) := by
  intro x0 x1
  unfold fhtxEnd
  split
  · rename_i a_1 e_2
    repeat' first | (with_reducible assumption)
  · rename_i a_3 a_4 e_5
    apply kept_ite
    · repeat' first | (with_reducible assumption)
    · extract_lets -merge -useContext -underBinder st_6 s1_7
      try clear_value st_6
      have h_s1_7 : Kept s0 s1_7 := by
        unfold s1_7
        repeat' first | (with_reducible assumption) | (with_reducible apply kept_setFh)
      try clear_value s1_7
      repeat' first | (with_reducible assumption) | (with_reducible apply kept_complete) | (with_reducible apply kept_netPost)

theorem kept_countFrames {s0 s : State} (h : Kept s0 s) : ∀ x0 x1 x2 x3, Kept s0 (countFrames s x0 x1 x2 x3) := by
  intro x0 x1 x2 x3
  unfold countFrames
  split
  · rename_i a_1 e_2
    repeat' first | (with_reducible assumption)
  · rename_i a_3 a_4 e_5
    repeat' first | (with_reducible assumption) | (with_reducible apply kept_modStat) | (with_reducible apply kept_modJob)

theorem kept_dropFrames {s0 s : State} (h : Kept s0 s) : ∀ x0 x1 x2 x3, Kept s0 (dropFrames s x0 x1 x2 x3) := by
  intro x0 x1 x2 x3
  unfold dropFrames
  extract_lets -merge -useContext -underBinder s1_1
  have h_s1_1 : Kept s0 s1_1 := by
    unfold s1_1
    repeat' first | (with_reducible assumption) | (with_reducible apply kept_countFrames)
  try clear_value s1_1
  apply kept_ite
  · repeat' first | (with_reducible assumption) | (with_reducible apply kept_raise) | (with_reducible apply kept_macCount)
  · repeat' first | (with_reducible assumption)

theorem kept_abandonJob {s0 s : State} (h : Kept s0 s) : ∀ x0, Kept s0 (abandonJob s x0) := by
  intro x0
  unfold abandonJob
  extract_lets -merge -useContext -underBinder c_1 mine_2 n_3 s1_4
  try clear_value c_1
  try clear_value mine_2
  try clear_value n_3
  have h_s1_4 : Kept s0 s1_4 := by
    unfold s1_4
    repeat' first | (with_reducible assumption) | (with_reducible apply kept_modMac) | simp only [kept_mk_iff]
  try clear_value s1_4
  repeat' first | (with_reducible assumption) | (with_reducible apply kept_dropFrames) | (with_reducible apply kept_fhtxEnd) | (with_reducible apply kept_modJob) | simp only [kept_mk_iff]

theorem kept_fhDrop {s0 s : State} (h : Kept s0 s) : Kept s0 (fhDrop s) := by
  unfold fhDrop
  repeat' first | (with_reducible assumption) | (with_reducible apply kept_abandonJob) | (with_reducible apply kept_foldl) | (with_reducible apply keptP_foldl) | dsimp only | intro _ _ _

theorem kept_execPfcFrameRx {s0 s : State} (h : Kept s0 s) : ∀ x0 x1 x2, ∃ t, execPfcFrameRx x0 x1 x2 s = .next t ∧ Kept s0 t := by
  intro x0 x1 x2
  refine ⟨_, rfl, ?_⟩
  extract_lets -merge -useContext -underBinder s1_1
  have h_s1_1 : Kept s0 s1_1 := by
    unfold s1_1
    repeat' first | (with_reducible assumption) | (with_reducible apply kept_macCount)
  try clear_value s1_1
  apply kept_ite
  · assumption
  · apply kept_ite
    · assumption
    · repeat' first | (with_reducible assumption) | (with_reducible apply kept_startLine) | (with_reducible apply kept_wrB)

theorem kept_execPauseFrameRx {s0 s : State} (h : Kept s0 s) : ∀ x0 x1, ∃ t, execPauseFrameRx x0 x1 s = .next t ∧ Kept s0 t := by
  intro x0 x1
  refine ⟨_, rfl, ?_⟩
  apply kept_ite
  · assumption
  · repeat' first | (with_reducible assumption) | (with_reducible apply kept_modMac) | (with_reducible apply kept_startLine) | simp only [kept_mk_iff]

theorem kept_execPfcHoldExpiry {s0 s : State} (h : Kept s0 s) : ∀ x0 x1, ∃ t, execPfcHoldExpiry x0 x1 s = .next t ∧ Kept s0 t := by
  intro x0 x1
  refine ⟨_, rfl, ?_⟩
  repeat' first | (with_reducible assumption) | (with_reducible apply kept_modMac) | (with_reducible apply kept_startLine) | (with_reducible apply kept_wrB) | (with_reducible apply kept_ite) | simp only [kept_mk_iff] | split

theorem kept_execPfcRepeat {s0 s : State} (h : Kept s0 s) : ∀ x0 x1, ∃ t, execPfcRepeat x0 x1 s = .next t ∧ Kept s0 t := by
  intro x0 x1
  refine ⟨_, rfl, ?_⟩
  apply kept_ite
  · repeat' first | (with_reducible assumption) | (with_reducible apply kept_pfcSend)
  · assumption

theorem kept_execFcInChange {s0 s : State} (h : Kept s0 s) : ∀ x0 x1, ∃ t, execFcInChange x0 x1 s = .next t ∧ Kept s0 t := by
  intro x0 x1
  refine ⟨_, rfl, ?_⟩
  extract_lets -merge -useContext -underBinder s1_1
  have h_s1_1 : Kept s0 s1_1 := by
    unfold s1_1
    repeat' first | (with_reducible assumption) | (with_reducible apply kept_setHost) | simp only [kept_mk_iff]
  try clear_value s1_1
  repeat' first | (with_reducible assumption) | (with_reducible apply kept_startLine) | (with_reducible apply kept_foldl) | (with_reducible apply keptP_foldl) | (with_reducible apply KeptP.one) | dsimp only | intro _ _ _

theorem kept_poisonPrbs {s0 s : State} (h : Kept s0 s) : ∀ x0 x1 x2, Kept s0 (poisonPrbs s x0 x1 x2) := by
  intro x0 x1 x2
  unfold poisonPrbs
  extract_lets -merge -useContext -underBinder size_1 base_2
  try clear_value size_1
  try clear_value base_2
  refine kept_foldl _ ?_ _ ?_
  · intro a_3 x_4 h_5
    dsimp only
    repeat' first | (with_reducible assumption) | (with_reducible apply kept_netPostWords)
  · repeat' first | (with_reducible assumption)

theorem kept_fhrxEnd {s0 s : State} (h : Kept s0 s) : ∀ x0, Kept s0 (fhrxEnd s x0) := by
  intro x0
  unfold fhrxEnd
  split
  rename_i a_1 a_2 a_3 a_4 e_5
  extract_lets -merge -useContext -underBinder want_6 byCount_7 ns_8 bad_9 s1_10 np_11 st_12 s2_13 s3_14
  try clear_value want_6
  try clear_value byCount_7
  try clear_value ns_8
  try clear_value bad_9
  have h_s1_10 : Kept s0 s1_10 := by
    unfold s1_10
    refine kept_foldl _ ?_ _ ?_
    · intro a_15 x_16 h_17
      repeat' first | (with_reducible assumption) | (with_reducible apply kept_poisonPrbs) | (with_reducible apply KeptP.one) | (with_reducible apply KeptQ.one)
    · repeat' first | (with_reducible assumption)
  try clear_value s1_10
  try clear_value np_11
  try clear_value st_12
  have h_s2_13 : Kept s0 s2_13 := by
    unfold s2_13
    repeat' first | (with_reducible assumption) | (with_reducible apply kept_setFh)
  try clear_value s2_13
  have h_s3_14 : Kept s0 s3_14 := by
    unfold s3_14
    repeat' first | (with_reducible assumption) | (with_reducible apply kept_netPost)
  try clear_value s3_14
  repeat' first | (with_reducible assumption) | (with_reducible apply kept_complete)

theorem kept_fhDesc {s0 s : State} (h : Kept s0 s) : ∀ x0 x1, KeptP s0 (fhDesc s x0 x1) := by
  intro x0 x1
  unfold fhDesc
  apply keptP_ite
  · repeat' first | (with_reducible assumption) | (with_reducible apply keptP_mk) | (with_reducible apply keptQ_mk)
  · split
    rename_i a_1 a_2 a_3 a_4 a_5 e_6
    have h_a_2 : Kept s0 a_2 := by
      apply KeptP.eq (e := e_6)
      repeat' first | (with_reducible assumption) | (with_reducible apply kept_net32s)
    clear e_6
    apply keptP_ite
    · repeat' first | (with_reducible assumption) | (with_reducible apply keptP_mk) | (with_reducible apply keptQ_mk)
    · apply keptP_ite
      · repeat' first | (with_reducible assumption) | (with_reducible apply keptP_mk) | (with_reducible apply keptQ_mk)
      · repeat' first | (with_reducible assumption) | (with_reducible apply keptP_mk) | (with_reducible apply keptQ_mk)

theorem kept_fhrxStart {s0 s : State} (h : Kept s0 s) : ∀ x0, Kept s0 (fhrxStart s x0) := by
  intro x0
  unfold fhrxStart
  split
  · exact h
  · rename_i s1 i t e
    have h1 : Kept s0 s1 := keptO_beginTask h e
    split
    · rename_i s2 st e2
      exact kept_complete (KeptP.eq (kept_fhDesc h1 ..) e2) ..
    · rename_i s2 d e2
      have h2 : Kept s0 s2 := KeptP.eq (kept_fhDesc h1 ..) e2
      split
      · exact kept_ite (kept_fhrxEnd (kept_setFh h2 _) _) (kept_setFh h2 _)
      · exact kept_complete h2 ..

theorem kept_execFhrxJobStart {s0 s : State} (h : Kept s0 s) : ∀ x0, ∃ t, execFhrxJobStart x0 s = .next t ∧ Kept s0 t := by
  intro x0
  unfold execFhrxJobStart
  refine ⟨_, rfl, ?_⟩
  repeat' first | (with_reducible assumption) | (with_reducible apply kept_settled) | (with_reducible apply kept_fhrxStart)

theorem kept_execFhrxComplete {s0 s : State} (h : Kept s0 s) : ∀ x0 x1, ∃ t, execFhrxComplete x0 x1 s = .next t ∧ Kept s0 t := by
  intro x0 x1
  refine ⟨_, rfl, ?_⟩
  split
  · apply kept_ite
    · assumption
    · repeat' first | (with_reducible assumption) | (with_reducible apply kept_fhrxEnd)
  · assumption

theorem kept_cplaneBad {s0 s : State} (h : Kept s0 s) : ∀ x0 x1, KeptP s0 (cplaneBad s x0 x1) := by
  intro m d
  unfold cplaneBad
  apply keptP_ite (keptP_mk h)
  exact keptP_foldl _ (fun p x k => keptP_mk (KeptP.one (kept_netBytes (KeptP.one k) ..))) _ (keptP_mk h)

theorem kept_fhtxStart {s0 s : State} (h : Kept s0 s) : ∀ x0, Kept s0 (fhtxStart s x0) := by
  intro m
  unfold fhtxStart
  split
  · exact h
  · rename_i s1 i t e
    have h1 : Kept s0 s1 := keptO_beginTask h e
    split
    · rename_i s2 st e2
      exact kept_complete (KeptP.eq (kept_fhDesc h1 ..) e2) ..
    · rename_i s2 d e2
      have h2 : Kept s0 s2 := KeptP.eq (kept_fhDesc h1 ..) e2
      extract_lets st
      clear_value st
      split
      rename_i s3 bad e3
      have h3 : Kept s0 s3 := KeptP.eq (keptP_ite (kept_cplaneBad h2 ..) (keptP_mk h2)) e3
      split
      · exact kept_setFh h3 _
      · exact kept_complete h3 ..

theorem kept_execFhtxJobStart {s0 s : State} (h : Kept s0 s) : ∀ x0, ∃ t, execFhtxJobStart x0 s = .next t ∧ Kept s0 t := by
  intro x0
  unfold execFhtxJobStart
  refine ⟨_, rfl, ?_⟩
  repeat' first | (with_reducible assumption) | (with_reducible apply kept_settled) | (with_reducible apply kept_fhtxStart)

theorem kept_execFhtxFrameEligible {s0 s : State} (h : Kept s0 s) : ∀ x0 x1 x2, ∃ t, execFhtxFrameEligible x0 x1 x2 s = .next t ∧ Kept s0 t := by
  intro x0 x1 x2
  unfold execFhtxFrameEligible
  refine ⟨_, rfl, ?_⟩
  split
  · rename_i a_1 e_2
    repeat' first | (with_reducible assumption)
  · rename_i a_3 a_4 e_5
    apply kept_ite
    · repeat' first | (with_reducible assumption)
    · extract_lets -merge -useContext -underBinder go_6 s1_7
      try clear_value go_6
      have h_s1_7 : Kept s0 s1_7 := by
        unfold s1_7
        repeat' first | (with_reducible assumption) | (with_reducible apply kept_modJob)
      try clear_value s1_7
      repeat' first | (with_reducible assumption) | (with_reducible apply kept_startLine) | (with_reducible apply kept_modMac)

theorem kept_frameBytes {s0 s : State} (h : Kept s0 s) : ∀ x0 x1 x2, KeptP s0 (frameBytes s x0 x1 x2) := by
  intro x0 x1 x2
  unfold frameBytes
  extract_lets -merge -useContext -underBinder e_1 n_2 size_3
  try clear_value e_1
  try clear_value n_2
  try clear_value size_3
  split
  rename_i a_4 a_5 a_6 e_7
  split
  rename_i a_8 a_9 a_10 a_11 a_12 e_13
  have h_a_9 : Kept s0 a_9 := by
    apply KeptP.eq (e := e_13)
    repeat' first | (with_reducible assumption) | (with_reducible apply kept_netBytes)
  clear e_13
  apply keptP_ite
  · repeat' first | (with_reducible assumption) | (with_reducible apply keptP_mk) | (with_reducible apply keptQ_mk)
  · extract_lets -merge -useContext -underBinder own_14 seq_15 eth_16 raw_17 ecpri_18 w3_19 data_20 msg_21
    try clear_value own_14
    try clear_value seq_15
    try clear_value eth_16
    try clear_value raw_17
    try clear_value ecpri_18
    try clear_value w3_19
    try clear_value data_20
    try clear_value msg_21
    repeat' first | (with_reducible assumption) | (with_reducible apply kept_modStat) | (with_reducible apply keptP_mk) | (with_reducible apply keptQ_mk)

theorem kept_frameSent {s0 s : State} (h : Kept s0 s) : ∀ x0, Kept s0 (frameSent s x0) := by
  intro x0
  unfold frameSent
  split
  · rename_i a_1 e_2
    repeat' first | (with_reducible assumption)
  · rename_i a_3 a_4 e_5
    extract_lets -merge -useContext -underBinder s0_6
    have h_s0_6 : Kept s0 s0_6 := by
      unfold s0_6
      repeat' first | (with_reducible assumption) | (with_reducible apply kept_modMac)
    try clear_value s0_6
    split
    · rename_i a_7 e_8
      repeat' first | (with_reducible assumption) | (with_reducible apply kept_startLine)
    · rename_i a_9 a_10 e_11
      split
      · rename_i a_12 a_13 a_14 e_15
        have h_a_13 : Kept s0 a_13 := by
          apply KeptP.eq (e := e_15)
          repeat' first | (with_reducible assumption) | (with_reducible apply kept_frameBytes)
        clear e_15
        extract_lets -merge -useContext -underBinder s2_16
        have h_s2_16 : Kept s0 s2_16 := by
          unfold s2_16
          repeat' first | (with_reducible assumption) | (with_reducible apply kept_macCount) | (with_reducible apply kept_macSend)
        try clear_value s2_16
        repeat' first | (with_reducible assumption) | (with_reducible apply kept_fhtxEnd) | (with_reducible apply kept_startLine) | (with_reducible apply kept_countFrames)
      · rename_i a_17 a_18 e_19
        have h_a_18 : Kept s0 a_18 := by
          apply KeptP.eq (e := e_19)
          repeat' first | (with_reducible assumption) | (with_reducible apply kept_frameBytes)
        clear e_19
        repeat' first | (with_reducible assumption) | (with_reducible apply kept_fhtxEnd) | (with_reducible apply kept_startLine) | (with_reducible apply kept_dropFrames)

theorem kept_execFhtxFrameSent {s0 s : State} (h : Kept s0 s) : ∀ x0, ∃ t, execFhtxFrameSent x0 s = .next t ∧ Kept s0 t := by
  intro x0
  unfold execFhtxFrameSent
  refine ⟨_, rfl, ?_⟩
  repeat' first | (with_reducible assumption) | (with_reducible apply kept_settled) | (with_reducible apply kept_frameSent)

theorem kept_execFhtxCloseExpire {s0 s : State} (h : Kept s0 s) : ∀ x0 x1 x2, ∃ t, execFhtxCloseExpire x0 x1 x2 s = .next t ∧ Kept s0 t := by
  intro x0 x1 x2
  unfold execFhtxCloseExpire
  refine ⟨_, rfl, ?_⟩
  split
  · rename_i a_1 e_2
    repeat' first | (with_reducible assumption)
  · rename_i a_3 a_4 e_5
    apply kept_ite
    · repeat' first | (with_reducible assumption)
    · extract_lets -merge -useContext -underBinder gone_6 n_7 s1_8 s2_9
      try clear_value gone_6
      try clear_value n_7
      have h_s1_8 : Kept s0 s1_8 := by
        unfold s1_8
        repeat' first | (with_reducible assumption) | (with_reducible apply kept_modMac)
      try clear_value s1_8
      have h_s2_9 : Kept s0 s2_9 := by
        unfold s2_9
        repeat' first | (with_reducible assumption) | (with_reducible apply kept_modJob)
      try clear_value s2_9
      repeat' first | (with_reducible assumption) | (with_reducible apply kept_fhtxEnd) | (with_reducible apply kept_dropFrames)

theorem kept_fhMacConfig {s0 s : State} (h : Kept s0 s) : ∀ x0, KeptD s0 (fhMacConfig x0 s) := by
  intro x0
  unfold fhMacConfig
  extract_lets -merge -useContext -underBinder w_1 m_2 en_3 sp_4 maxf_5 n_6 ls_7 w5_8
  try clear_value w_1
  try clear_value m_2
  try clear_value en_3
  try clear_value sp_4
  try clear_value maxf_5
  try clear_value n_6
  try clear_value ls_7
  try clear_value w5_8
  apply keptD_ite
  · repeat' first | (with_reducible assumption) | (with_reducible apply kept_done) | (with_reducible apply kept_done)
  · apply keptD_ite
    · repeat' first | (with_reducible assumption) | (with_reducible apply kept_done) | (with_reducible apply kept_done)
    · apply keptD_ite
      · repeat' first | (with_reducible assumption) | (with_reducible apply kept_done) | (with_reducible apply kept_done)
      · apply keptD_ite
        · repeat' first | (with_reducible assumption) | (with_reducible apply kept_done) | (with_reducible apply kept_done)
        · apply keptD_ite
          · repeat' first | (with_reducible assumption) | (with_reducible apply kept_done) | (with_reducible apply kept_done)
          · apply keptD_ite
            · repeat' first | (with_reducible assumption) | (with_reducible apply kept_done) | (with_reducible apply kept_done)
            · repeat' first | (with_reducible assumption) | (with_reducible apply kept_done) | (with_reducible apply kept_fhDrop) | (with_reducible apply kept_macSync) | (with_reducible apply kept_modMac) | (with_reducible apply kept_wr) | (with_reducible apply kept_done) | simp only [kept_mk_iff]

theorem kept_fhMacStatus {s0 s : State} (h : Kept s0 s) : ∀ x0, KeptD s0 (fhMacStatus x0 s) := by
  intro x0
  unfold fhMacStatus
  extract_lets -merge -useContext -underBinder m_1
  try clear_value m_1
  apply keptD_ite
  · repeat' first | (with_reducible assumption) | (with_reducible apply kept_done) | (with_reducible apply kept_done)
  · apply keptD_ite
    · repeat' first | (with_reducible assumption) | (with_reducible apply kept_done) | (with_reducible apply kept_done)
    · repeat' first | (with_reducible assumption) | (with_reducible apply kept_doneW) | (with_reducible apply kept_doneW)

theorem kept_fhFlowApply {s0 s : State} (h : Kept s0 s) : ∀ x0, Kept s0 (fhFlowApply s x0) := by
  intro x0
  unfold fhFlowApply
  repeat' first | (with_reducible assumption) | (with_reducible apply kept_setFh) | (with_reducible apply kept_ite) | simp only [kept_mk_iff] | split

theorem kept_fhFlowStatus {s0 s : State} (h : Kept s0 s) : ∀ x0, KeptD s0 (fhFlowStatus x0 s) := by
  intro x0
  unfold fhFlowStatus
  extract_lets -merge -useContext -underBinder f_1 x_2 tx_3 two_4
  try clear_value f_1
  try clear_value x_2
  try clear_value tx_3
  try clear_value two_4
  apply keptD_ite
  · repeat' first | (with_reducible assumption) | (with_reducible apply kept_done) | (with_reducible apply kept_done)
  · repeat' first | (with_reducible assumption) | (with_reducible apply kept_doneW) | (with_reducible apply kept_doneW) | (with_reducible apply kept_ite) | (with_reducible apply keptD_ite) | split

theorem kept_ptpConfig {s0 s : State} (h : Kept s0 s) : ∀ x0, KeptD s0 (ptpConfig x0 s) := by
  intro x0
  unfold ptpConfig
  extract_lets -merge -useContext -underBinder ms_1
  try clear_value ms_1
  apply keptD_ite
  · repeat' first | (with_reducible assumption) | (with_reducible apply kept_done) | (with_reducible apply kept_done)
  · apply keptD_ite
    · repeat' first | (with_reducible assumption) | (with_reducible apply kept_done) | (with_reducible apply kept_done)
    · apply keptD_ite
      · repeat' first | (with_reducible assumption) | (with_reducible apply kept_done) | (with_reducible apply kept_done)
      · apply keptD_ite
        · repeat' first | (with_reducible assumption) | (with_reducible apply kept_done) | (with_reducible apply kept_done)
        · repeat' first | (with_reducible assumption) | (with_reducible apply kept_done) | (with_reducible apply kept_setHost) | (with_reducible apply kept_done) | simp only [kept_mk_iff]

end Sys2Proof.Machine
end

