-- ==== Sys2Proof/Laws/KeptLaceLink.lean ====
section
/-! SUPPORT. What each operation of Machine/LaceLink.lean keeps. -/

set_option linter.unreachableTactic false
set_option linter.unusedTactic false
set_option linter.unusedSimpArgs false
set_option linter.unusedVariables false

namespace Sys2Proof.Machine

theorem kept_sendOn {s0 s : State} (h : Kept s0 s) : ∀ x0 x1 x2 x3 x4 x5, Kept s0 (sendOn s x0 x1 x2 x3 x4 x5) := by
  intro x0 x1 x2 x3 x4 x5
  unfold sendOn
  apply kept_ite
  · repeat' first | (with_reducible assumption)
  · extract_lets -merge -useContext -underBinder l56_1
    try clear_value l56_1
    split
    rename_i a_2 a_3 a_4 e_5
    split
    rename_i a_6 a_7 a_8 e_9
    have h_a_7 : Kept s0 a_7 := by
      apply KeptP.eq (e := e_9)
      repeat' first | (with_reducible assumption) | (with_reducible apply kept_injLine) | (with_reducible apply kept_putLaneSt)
    clear e_9
    extract_lets -merge -useContext -underBinder s1_10
    have h_s1_10 : Kept s0 s1_10 := by
      unfold s1_10
      repeat' first | (with_reducible assumption) | (with_reducible apply kept_bump)
    try clear_value s1_10
    repeat' first | (with_reducible assumption) | (with_reducible apply kept_modPort) | (with_reducible apply keptP_mk) | (with_reducible apply keptQ_mk)

theorem kept_sendNext {s0 s : State} (h : Kept s0 s) : ∀ x0 x1 x2 x3, Kept s0 (sendNext s x0 x1 x2 x3) := by
  intro x0 x1 x2 x3
  unfold sendNext
  extract_lets -merge -useContext -underBinder crc_1
  try clear_value crc_1
  repeat' first | (with_reducible assumption) | (with_reducible apply kept_modPort) | (with_reducible apply kept_sendOn)

theorem kept_sendMarker {s0 s : State} (h : Kept s0 s) : ∀ x0, Kept s0 (sendMarker s x0) := by
  intro x0
  unfold sendMarker
  extract_lets -merge -useContext -underBinder s0_1 q_2 skip_3 m_4 s1_5 s2_6
  have h_s0_1 : Kept s0 s0_1 := by
    unfold s0_1
    apply kept_ite
    · repeat' first | (with_reducible assumption) | (with_reducible apply kept_setLace)
    · repeat' first | (with_reducible assumption)
  try clear_value s0_1
  try clear_value q_2
  try clear_value skip_3
  try clear_value m_4
  have h_s1_5 : Kept s0 s1_5 := by
    unfold s1_5
    apply kept_ite
    · repeat' first | (with_reducible assumption) | (with_reducible apply kept_wrB)
    · repeat' first | (with_reducible assumption)
  try clear_value s1_5
  have h_s2_6 : Kept s0 s2_6 := by
    unfold s2_6
    refine kept_foldl _ ?_ _ ?_
    · intro a_7 x_8 h_9
      apply kept_ite
      · repeat' first | (with_reducible assumption) | (with_reducible apply kept_sendNext)
      · repeat' first | (with_reducible assumption) | (with_reducible apply kept_sendNext)
    · repeat' first | (with_reducible assumption)
  try clear_value s2_6
  repeat' first | (with_reducible assumption) | (with_reducible apply kept_modPort) | (with_reducible apply keptP_mk) | (with_reducible apply keptQ_mk)

theorem kept_sendIdle {s0 : State} : ∀ (k : Nat) {s : State}, Kept s0 s → ∀ p, Kept s0 (sendIdle k s p)
  | 0, _, h, _ => h
  | k + 1, s, h, p => by
    unfold sendIdle
    exact kept_ite h (kept_sendIdle k (kept_sendNext h ..) _)

theorem kept_periodEnd {s0 s : State} (h : Kept s0 s) : ∀ x0, Kept s0 (periodEnd s x0) := by
  intro x0
  unfold periodEnd
  apply kept_ite
  · repeat' first | (with_reducible assumption) | (with_reducible apply kept_modPort)
  · repeat' first | (with_reducible assumption) | (with_reducible apply kept_sendMarker) | (with_reducible apply kept_sendIdle)

theorem kept_sendBlockInv {s0 s : State} (h : Kept s0 s) : ∀ x0 x1 x2 x3, Kept s0 (sendBlockInv s x0 x1 x2 x3) := by
  intro x0 x1 x2 x3
  unfold sendBlockInv
  extract_lets -merge -useContext -underBinder s1_1
  have h_s1_1 : Kept s0 s1_1 := by
    unfold s1_1
    repeat' first | (with_reducible assumption) | (with_reducible apply kept_sendNext)
  try clear_value s1_1
  apply kept_ite
  · repeat' first | (with_reducible assumption) | (with_reducible apply kept_modPort) | (with_reducible apply kept_sendMarker)
  · repeat' first | (with_reducible assumption)

theorem kept_sendBlock {s0 s : State} (h : Kept s0 s) : ∀ x0 x1 x2, Kept s0 (sendBlock s x0 x1 x2) := by
  intro x0 x1 x2
  unfold sendBlock
  repeat' first | (with_reducible assumption) | (with_reducible apply kept_sendBlockInv)

theorem kept_sendFlit {s0 s : State} (h : Kept s0 s) : ∀ x0 x1 x2, Kept s0 (sendFlit s x0 x1 x2) := by
  intro x0 x1 x2
  unfold sendFlit
  extract_lets -merge -useContext -underBinder inv_1 s1_2
  try clear_value inv_1
  have h_s1_2 : Kept s0 s1_2 := by
    unfold s1_2
    apply kept_ite
    · repeat' first | (with_reducible assumption) | (with_reducible apply kept_wrB)
    · repeat' first | (with_reducible assumption)
  try clear_value s1_2
  repeat' first | (with_reducible assumption) | (with_reducible apply kept_modPort) | (with_reducible apply kept_sendBlockInv)

theorem kept_sendSync {s0 s : State} (h : Kept s0 s) : ∀ x0 x1 x2, Kept s0 (sendSync x0 s x1 x2) := by
  intro x0 x1 x2
  induction x0 generalizing s with
  | zero => exact h
  | succ k ih => exact ih (kept_sendOn h ..)

theorem kept_stuffErrs {s0 s : State} (h : Kept s0 s) : ∀ x0 x1, Kept s0 (stuffErrs s x0 x1) := by
  intro x0 x1
  unfold stuffErrs
  refine kept_foldl _ ?_ _ ?_
  · intro a_1 x_2 h_3
    repeat' first | (with_reducible assumption) | (with_reducible apply kept_raise)
  · repeat' first | (with_reducible assumption) | (with_reducible apply kept_bump)

theorem kept_recvLine {s0 s : State} (h : Kept s0 s) : ∀ x0 x1, Kept s0 (recvLine s x0 x1) := by
  intro x0 x1
  unfold recvLine
  extract_lets -merge -useContext -underBinder n_1
  try clear_value n_1
  split
  rename_i a_2 a_3 a_4 e_5
  extract_lets -merge -useContext -underBinder s0_6 s1_7 s2_8
  have h_s0_6 : Kept s0 s0_6 := by
    unfold s0_6
    repeat' first | (with_reducible assumption) | (with_reducible apply kept_bump) | (with_reducible apply kept_putLaneSt)
  try clear_value s0_6
  have h_s1_7 : Kept s0 s1_7 := by
    unfold s1_7
    repeat' first | (with_reducible assumption) | (with_reducible apply kept_stuffErrs)
  try clear_value s1_7
  have h_s2_8 : Kept s0 s2_8 := by
    unfold s2_8
    apply kept_ite
    · repeat' first | (with_reducible assumption) | (with_reducible apply kept_bump)
    · repeat' first | (with_reducible assumption)
  try clear_value s2_8
  split
  · rename_i a_9 e_10
    repeat' first | (with_reducible assumption)
  · rename_i a_11 a_12 a_13 e_14
    extract_lets -merge -useContext -underBinder s3_15
    have h_s3_15 : Kept s0 s3_15 := by
      unfold s3_15
      apply kept_ite
      · repeat' first | (with_reducible assumption) | (with_reducible apply kept_bump)
      · repeat' first | (with_reducible assumption)
    try clear_value s3_15
    apply kept_ite
    · repeat' first | (with_reducible assumption)
    · repeat' first | (with_reducible assumption) | (with_reducible apply kept_raise) | (with_reducible apply kept_bump)

theorem kept_recvBlock {s0 s : State} (h : Kept s0 s) : ∀ x0 x1, KeptP s0 (recvBlock s x0 x1) := by
  intro x0 x1
  unfold recvBlock
  apply keptP_mk
  apply kept_ite
  · repeat' first | (with_reducible assumption) | (with_reducible apply kept_recvLine)
  · repeat' first | (with_reducible assumption)

theorem keptO_pumpOne {s0 s t : State} (h : Kept s0 s) {p : Nat} (e : pumpOne s p = some t) : Kept s0 t := by
  unfold pumpOne at e
  extract_lets x at e
  split at e
  · cases e
  · split at e
    · injection e with e
      rw [← e]
      exact kept_sendFlit (kept_modPort h _ _) ..
    · cases e

theorem kept_pumpN {s0 s : State} (h : Kept s0 s) : ∀ x0 x1, Kept s0 (pumpN x0 s x1) := by
  intro x0 x1
  induction x0 generalizing s x1 with
  | zero =>
    unfold pumpN
    assumption
  | succ n ih =>
    unfold pumpN
    split
    · repeat' first | (with_reducible assumption) | (with_reducible apply ih)
    · repeat' first | (with_reducible assumption) | (with_reducible apply ih) | apply keptO_pumpOne (e := by assumption)

theorem kept_pump {s0 s : State} (h : Kept s0 s) : ∀ x0, Kept s0 (pump s x0) := by
  intro x0
  unfold pump
  repeat' first | (with_reducible assumption) | (with_reducible apply kept_pumpN)

theorem kept_laceTx {s0 s : State} (h : Kept s0 s) : ∀ x0 x1, Kept s0 (laceTx s x0 x1) := by
  intro x0 x1
  unfold laceTx
  apply kept_ite
  · repeat' first | (with_reducible assumption)
  · extract_lets -merge -useContext -underBinder v_1 fs_2
    try clear_value v_1
    try clear_value fs_2
    repeat' first | (with_reducible assumption) | (with_reducible apply kept_pump) | (with_reducible apply kept_modPort)

theorem kept_laceBack {s0 s : State} (h : Kept s0 s) : ∀ x0, Kept s0 (laceBack s x0) := by
  intro x0
  unfold laceBack
  extract_lets -merge -useContext -underBinder h_1 k_2
  try clear_value h_1
  try clear_value k_2
  apply kept_ite
  · repeat' first | (with_reducible assumption)
  · apply kept_ite
    · split
      · rename_i a_3 a_4 e_5
        apply kept_ite
        · repeat' first | (with_reducible assumption) | (with_reducible apply kept_laceTx)
        · repeat' first | (with_reducible assumption)
      · rename_i a_6 e_7
        repeat' first | (with_reducible assumption)
    · apply kept_ite
      · repeat' first | (with_reducible assumption) | (with_reducible apply kept_laceTx)
      · repeat' first | (with_reducible assumption)

theorem kept_takeDepth {s0 s : State} (h : Kept s0 s) : ∀ x0 x1, Kept s0 (takeDepth s x0 x1) := by
  intro x0 x1
  unfold takeDepth
  extract_lets -merge -useContext -underBinder nw_4 s1_5 s2_6 s3_7
  try clear_value nw_4
  have h_s1_5 : Kept s0 s1_5 := by
    unfold s1_5
    repeat' first | (with_reducible assumption) | (with_reducible apply kept_wr) | (with_reducible apply kept_wrF)
  try clear_value s1_5
  have h_s2_6 : Kept s0 s2_6 := by
    unfold s2_6
    repeat' first | (with_reducible assumption) | (with_reducible apply kept_setLace)
  try clear_value s2_6
  have h_s3_7 : Kept s0 s3_7 := by
    unfold s3_7
    apply kept_ite
    · repeat' first | (with_reducible assumption)
    · repeat' first | (with_reducible assumption) | (with_reducible apply kept_raise)
  try clear_value s3_7
  apply kept_ite
  · repeat' first | (with_reducible assumption)
  · apply kept_ite
    · repeat' first | (with_reducible assumption) | (with_reducible apply kept_loseRef)
    · repeat' first | (with_reducible assumption)

theorem kept_selectUp {s0 s : State} (h : Kept s0 s) : Kept s0 (selectUp s) := by
  unfold selectUp
  extract_lets -merge -useContext -underBinder s0_1 less_2
  have h_s0_1 : Kept s0 s0_1 := by
    unfold s0_1
    refine kept_foldl _ ?_ _ ?_
    · intro a_3 x_4 h_5
      repeat' first | (with_reducible assumption) | (with_reducible apply kept_wrB)
    · repeat' first | (with_reducible assumption)
  try clear_value s0_1
  try clear_value less_2
  split
  · rename_i a_6 e_7
    repeat' first | (with_reducible assumption) | (with_reducible apply kept_setLace) | (with_reducible apply kept_wr) | (with_reducible apply kept_wrF)
  · rename_i a_8 a_9 a_10 a_11 a_12 e_13
    repeat' first | (with_reducible assumption) | (with_reducible apply kept_takeDepth) | (with_reducible apply kept_wrF) | (with_reducible apply kept_modPort) | (with_reducible apply kept_wrB)

theorem kept_hoistFix {s0 s : State} (h : Kept s0 s) : Kept s0 (hoistFix s) := by
  unfold hoistFix
  apply kept_ite
  · assumption
  · split
    · apply kept_ite
      · assumption
      · repeat' first | (with_reducible assumption) | (with_reducible apply kept_selectUp)
    · repeat' first | (with_reducible assumption) | (with_reducible apply kept_selectUp)

theorem kept_linkLost {s0 s : State} (h : Kept s0 s) : ∀ x0, Kept s0 (linkLost s x0) := by
  intro x0
  unfold linkLost
  split
  · assumption
  · repeat' first | (with_reducible assumption) | (with_reducible apply kept_hoistFix) | (with_reducible apply kept_retrain)

theorem kept_rearmCrc {s0 s : State} (h : Kept s0 s) : ∀ x0, Kept s0 (rearmCrc s x0) := by
  intro x0
  unfold rearmCrc
  extract_lets -merge -useContext -underBinder __src_1
  apply kept_ite
  · repeat' first | (with_reducible assumption) | (with_reducible apply kept_wrB) | (with_reducible apply kept_ite) | (with_reducible apply KeptP.one) | (with_reducible apply KeptQ.one) | simp only [kept_mk_iff] | split | dsimp only | intro _ _ _ | (with_reducible apply keptP_mk) | (with_reducible apply keptQ_mk)
  · assumption

theorem kept_replay {s0 s : State} (h : Kept s0 s) : ∀ x0, Kept s0 (replay s x0) := by
  intro x0
  unfold replay
  extract_lets -merge -useContext -underBinder x_1
  try clear_value x_1
  split
  · rename_i a_2 e_3
    repeat' first | (with_reducible assumption)
  · rename_i a_4 a_5 a_6 a_7 a_8 e_9
    extract_lets -merge -useContext -underBinder n_10 inj_11 s1_12
    try clear_value n_10
    try clear_value inj_11
    have h_s1_12 : Kept s0 s1_12 := by
      unfold s1_12
      repeat' first | (with_reducible assumption) | (with_reducible apply kept_raiseI) | (with_reducible apply kept_bump) | (with_reducible apply kept_modPort)
    try clear_value s1_12
    apply kept_ite
    · repeat' first | (with_reducible assumption) | (with_reducible apply kept_linkLost) | (with_reducible apply kept_raiseI) | (with_reducible apply kept_bump)
    · refine kept_foldl _ ?_ _ ?_
      · intro a_13 x_14 h_15
        repeat' first | (with_reducible assumption) | (with_reducible apply kept_sendFlit) | (with_reducible apply KeptP.one) | (with_reducible apply KeptQ.one)
      · repeat' first | (with_reducible assumption) | (with_reducible apply kept_rearmCrc)

theorem kept_sendLctl {s0 s : State} (h : Kept s0 s) : ∀ x0 x1, Kept s0 (sendLctl s x0 x1) := by
  intro x0 x1
  unfold sendLctl
  extract_lets -merge -useContext -underBinder x_1 w0_2 s1_3
  try clear_value x_1
  try clear_value w0_2
  have h_s1_3 : Kept s0 s1_3 := by
    unfold s1_3
    repeat' first | (with_reducible assumption) | (with_reducible apply kept_modPort) | simp only [kept_mk_iff]
  try clear_value s1_3
  repeat' first | (with_reducible assumption) | (with_reducible apply kept_sendBlock)

theorem kept_flitRx {s0 s : State} (h : Kept s0 s) : ∀ x0 x1 x2, Kept s0 (flitRx s x0 x1 x2) := by
  intro x0 x1 x2
  unfold flitRx
  apply kept_ite
  · repeat' first | (with_reducible assumption)
  · split
    rename_i a_1 a_2 a_3 e_4
    have h_a_2 : Kept s0 a_2 := by
      apply KeptP.eq (e := e_4)
      repeat' first | (with_reducible assumption) | (with_reducible apply kept_recvBlock)
    clear e_4
    extract_lets -merge -useContext -underBinder flit_9 s2_10 x_11 good_12 s3_13
    try clear_value flit_9
    have h_s2_10 : Kept s0 s2_10 := by
      unfold s2_10
      repeat' first | (with_reducible assumption) | (with_reducible apply kept_modPort)
    try clear_value s2_10
    try clear_value x_11
    try clear_value good_12
    have h_s3_13 : Kept s0 s3_13 := by
      unfold s3_13
      apply kept_ite
      · repeat' first | (with_reducible assumption) | (with_reducible apply kept_modPort)
      · repeat' first | (with_reducible assumption)
    try clear_value s3_13
    apply kept_ite
    · repeat' first | (with_reducible assumption) | (with_reducible apply kept_sendLctl) | (with_reducible apply kept_modPort)
    · apply kept_ite
      · repeat' first | (with_reducible assumption) | (with_reducible apply kept_sendLctl)
      · repeat' first | (with_reducible assumption)

theorem kept_execFlitRx {s0 s : State} (h : Kept s0 s) : ∀ x0 x1 x2, ∃ t, execFlitRx x0 x1 x2 s = .next t ∧ Kept s0 t := by
  intro x0 x1 x2
  refine ⟨_, rfl, ?_⟩
  repeat' first | (with_reducible assumption) | (with_reducible apply kept_flitRx)

theorem kept_lctlRx {s0 s : State} (h : Kept s0 s) : ∀ x0 x1, Kept s0 (lctlRx s x0 x1) := by
  intro x0 x1
  unfold lctlRx
  apply kept_ite
  · assumption
  · split
    · rename_i a0_1 a1_1 e_1
      have h_a0_1 : Kept s0 a0_1 := by
        apply KeptP.eq (e := e_1)
        repeat' first | (with_reducible assumption) | (with_reducible apply kept_recvBlock)
      clear e_1
      extract_lets -merge -useContext -underBinder w_2 s2_3
      try clear_value w_2
      have h_s2_3 : Kept s0 s2_3 := by
        unfold s2_3
        repeat' first | (with_reducible assumption) | (with_reducible apply kept_modPort) | (with_reducible apply KeptP.one) | (with_reducible apply KeptQ.one) | simp only [kept_mk_iff]
      try clear_value s2_3
      apply kept_ite
      · assumption
      · repeat' first | (with_reducible assumption) | (with_reducible apply kept_pump) | (with_reducible apply kept_replay) | (with_reducible apply kept_ite) | split

theorem kept_execLctlRx {s0 s : State} (h : Kept s0 s) : ∀ x0 x1, ∃ t, execLctlRx x0 x1 s = .next t ∧ Kept s0 t := by
  intro x0 x1
  refine ⟨_, rfl, ?_⟩
  repeat' first | (with_reducible assumption) | (with_reducible apply kept_lctlRx)

theorem kept_execLctlSendTimer {s0 s : State} (h : Kept s0 s) : ∀ x0, ∃ t, execLctlSendTimer x0 s = .next t ∧ Kept s0 t := by
  intro x0
  refine ⟨_, rfl, ?_⟩
  extract_lets -merge -useContext -underBinder x_1
  try clear_value x_1
  apply kept_ite
  · repeat' first | (with_reducible assumption) | (with_reducible apply kept_sendLctl)
  · assumption

theorem kept_execReplayTimeout {s0 s : State} (h : Kept s0 s) : ∀ x0, ∃ t, execReplayTimeout x0 s = .next t ∧ Kept s0 t := by
  intro x0
  refine ⟨_, rfl, ?_⟩
  apply kept_ite
  · repeat' first | (with_reducible assumption) | (with_reducible apply kept_replay)
  · assumption

theorem kept_showPartner {s0 s : State} (h : Kept s0 s) : ∀ x0 x1, Kept s0 (showPartner s x0 x1) := by
  intro x0 x1
  unfold showPartner
  repeat' first | (with_reducible assumption) | (with_reducible apply kept_wrB) | (with_reducible apply kept_wrF)

theorem kept_handshakeDone {s0 s : State} (h : Kept s0 s) : ∀ x0, Kept s0 (handshakeDone s x0) := by
  intro x0
  unfold handshakeDone
  extract_lets -merge -useContext -underBinder s1_1 s2_2
  have h_s1_1 : Kept s0 s1_1 := by
    unfold s1_1
    repeat' first | (with_reducible assumption) | (with_reducible apply kept_laneUp) | (with_reducible apply kept_foldl) | (with_reducible apply keptP_foldl) | dsimp only | intro _ _ _
  try clear_value s1_1
  have h_s2_2 : Kept s0 s2_2 := by
    unfold s2_2
    repeat' first | (with_reducible assumption) | (with_reducible apply kept_portSync) | (with_reducible apply kept_pump)
  try clear_value s2_2
  apply kept_ite
  · repeat' first | (with_reducible assumption) | (with_reducible apply kept_setLace) | simp only [kept_mk_iff]
  · assumption

theorem kept_hskFail {s0 s : State} (h : Kept s0 s) : ∀ x0 x1, Kept s0 (hskFail s x0 x1) := by
  intro x0 x1
  unfold hskFail
  extract_lets -merge -useContext -underBinder s1_1 mine_2
  have h_s1_1 : Kept s0 s1_1 := by
    unfold s1_1
    repeat' first | (with_reducible assumption) | (with_reducible apply kept_raise) | (with_reducible apply kept_wrF)
  try clear_value s1_1
  try clear_value mine_2
  apply kept_portSync
  refine kept_foldl _ ?_ _ ?_
  · intro a_3 x_4 h_5
    apply kept_ite
    · repeat' first | (with_reducible assumption) | (with_reducible apply kept_failLane)
    · repeat' first | (with_reducible assumption)
  · repeat' first | (with_reducible assumption)

theorem kept_newPartner {s0 s : State} (h : Kept s0 s) : ∀ x0 x1, Kept s0 (newPartner s x0 x1) := by
  intro x0 x1
  unfold newPartner
  extract_lets -merge -useContext -underBinder q_1 again_2 s1_3 s2_4
  try clear_value q_1
  try clear_value again_2
  have h_s1_3 : Kept s0 s1_3 := by
    unfold s1_3
    apply kept_ite
    · repeat' first | (with_reducible assumption)
    · split
      rename_i a_5 a_6 a_7 e_8
      have h_a_7 : Kept s0 a_7 := by
        apply KeptQ.eq (e := e_8)
        repeat' first | (with_reducible assumption) | (with_reducible apply kept_drawFree) | (with_reducible apply kept_raise) | (with_reducible apply kept_showPartner)
      clear e_8
      refine kept_foldl _ ?_ _ ?_
      · intro a_9 x_10 h_11
        repeat' first | (with_reducible assumption) | (with_reducible apply kept_modLaneSt) | (with_reducible apply kept_foldl) | (with_reducible apply keptP_foldl)
      · repeat' first | (with_reducible assumption) | (with_reducible apply kept_modPort) | (with_reducible apply KeptP.one) | (with_reducible apply KeptQ.one)
  try clear_value s1_3
  have h_s2_4 : Kept s0 s2_4 := by
    unfold s2_4
    repeat' first | (with_reducible assumption) | (with_reducible apply kept_sendBlock)
  try clear_value s2_4
  apply kept_ite
  · repeat' first | (with_reducible assumption)
  · repeat' first | (with_reducible assumption) | (with_reducible apply kept_replay)

theorem kept_hskRx {s0 s : State} (h : Kept s0 s) : ∀ x0 x1, Kept s0 (hskRx s x0 x1) := by
  intro x0 x1
  unfold hskRx
  split
  rename_i a_1 a_2 a_3 e_4
  have h_a_2 : Kept s0 a_2 := by
    apply KeptP.eq (e := e_4)
    repeat' first | (with_reducible assumption) | (with_reducible apply kept_recvBlock)
  clear e_4
  apply kept_ite
  · repeat' first | (with_reducible assumption)
  · split
    · rename_i a_5 a_6 e_7
      repeat' first | (with_reducible assumption) | (with_reducible apply kept_hskFail)
    · rename_i a_8 e_9
      extract_lets -merge -useContext -underBinder w_11 s2_12
      try clear_value w_11
      have h_s2_12 : Kept s0 s2_12 := by
        unfold s2_12
        repeat' first | (with_reducible assumption) | (with_reducible apply kept_modPort) | (with_reducible apply kept_showPartner)
      try clear_value s2_12
      apply kept_ite
      · apply kept_ite
        · repeat' first | (with_reducible assumption) | (with_reducible apply kept_newPartner)
        · repeat' first | (with_reducible assumption)
      · apply kept_ite
        · apply kept_ite
          · repeat' first | (with_reducible assumption) | (with_reducible apply kept_handshakeDone)
          · repeat' first | (with_reducible assumption)
        · repeat' first | (with_reducible assumption)

theorem kept_execHskSendTimer {s0 s : State} (h : Kept s0 s) : ∀ x0, ∃ t, execHskSendTimer x0 s = .next t ∧ Kept s0 t := by
  intro x0
  refine ⟨_, rfl, ?_⟩
  apply kept_ite
  · repeat' first | (with_reducible assumption) | (with_reducible apply kept_sendBlock)
  · apply kept_ite
    · repeat' first | (with_reducible assumption) | (with_reducible apply kept_sendBlock)
    · assumption

theorem kept_execLaceLinkLoss {s0 s : State} (h : Kept s0 s) : ∀ x0, ∃ t, execLaceLinkLoss x0 s = .next t ∧ Kept s0 t := by
  intro x0
  unfold execLaceLinkLoss
  refine ⟨_, rfl, ?_⟩
  apply kept_ite
  · repeat' first | (with_reducible assumption) | (with_reducible apply kept_linkLost)
  · repeat' first | (with_reducible assumption)

theorem kept_execEiIdleTimer {s0 s : State} (h : Kept s0 s) : ∀ x0, ∃ t, execEiIdleTimer x0 s = .next t ∧ Kept s0 t := by
  intro x0
  refine ⟨_, rfl, ?_⟩
  extract_lets -merge -useContext -underBinder k_1 x_2 may_3
  try clear_value k_1
  try clear_value x_2
  try clear_value may_3
  apply kept_ite
  · repeat' first | (with_reducible assumption) | (with_reducible apply kept_modPort) | (with_reducible apply kept_sendBlock) | simp only [kept_mk_iff]
  · assumption

theorem kept_execEieRx {s0 s : State} (h : Kept s0 s) : ∀ x0 x1, ∃ t, execEieRx x0 x1 s = .next t ∧ Kept s0 t := by
  intro x0 x1
  unfold execEieRx
  refine ⟨_, rfl, ?_⟩
  split
  rename_i a_1 a_2 a_3 e_4
  have h_a_2 : Kept s0 a_2 := by
    apply KeptP.eq (e := e_4)
    repeat' first | (with_reducible assumption) | (with_reducible apply kept_recvBlock)
  clear e_4
  apply kept_ite
  · repeat' first | (with_reducible assumption)
  · apply kept_ite
    · repeat' first | (with_reducible assumption) | (with_reducible apply kept_modPort)
    · apply kept_ite
      · repeat' first | (with_reducible assumption) | (with_reducible apply kept_modPort)
      · repeat' first | (with_reducible assumption)

end Sys2Proof.Machine
end

