-- ==== Sys2Proof/Laws/KeptFabric.lean ====
section
/-! SUPPORT. What each operation of Machine/Fabric.lean keeps. -/

set_option linter.unreachableTactic false
set_option linter.unusedTactic false
set_option linter.unusedSimpArgs false
set_option linter.unusedVariables false

namespace Sys2Proof.Machine

theorem kept_answerHere {s0 s : State} (h : Kept s0 s) : ∀ x0 x1 x2 x3 x4, Kept s0 (answerHere s x0 x1 x2 x3 x4) := by
  intro x0 x1 x2 x3 x4
  unfold answerHere
  split
  · repeat' first | (with_reducible assumption) | (with_reducible apply kept_niAnswer)
  · repeat' first | (with_reducible assumption) | (with_reducible apply kept_niAnswer)
  · assumption

theorem kept_notePosted {s0 s : State} (h : Kept s0 s) : ∀ x0 x1, Kept s0 (notePosted s x0 x1) := by
  intro x0 x1
  unfold notePosted
  apply kept_ite
  · repeat' first | (with_reducible assumption) | (with_reducible apply kept_noteLost)
  · repeat' first | (with_reducible assumption)

theorem kept_requestSend {s0 s : State} (h : Kept s0 s) : ∀ x0 x1 x2 x3 x4 x5, Kept s0 (requestSend s x0 x1 x2 x3 x4 x5) := by
  intro x0 x1 x2 x3 x4 x5
  unfold requestSend
  extract_lets -merge -useContext -underBinder fc_1
  try clear_value fc_1
  apply kept_ite
  · repeat' first | (with_reducible assumption)
  · split
    · rename_i a_2 a_3 e_4
      repeat' first | (with_reducible assumption) | (with_reducible apply kept_answerHere) | (with_reducible apply kept_raise)
    · rename_i a_5 e_6
      split
      · rename_i a_7 a_8 e_9
        repeat' first | (with_reducible assumption) | (with_reducible apply kept_answerHere) | (with_reducible apply kept_notePosted)
      · rename_i a_10 e_11
        repeat' first | (with_reducible assumption) | (with_reducible apply kept_answerHere) | (with_reducible apply kept_noteMiss)
      · rename_i a_12 e_13
        repeat' first | (with_reducible assumption) | (with_reducible apply kept_answerHere)
      · rename_i a_14 e_15
        repeat' first | (with_reducible assumption) | (with_reducible apply kept_answerHere) | (with_reducible apply kept_notePosted)
      · rename_i a_16 e_17
        repeat' first | (with_reducible assumption) | (with_reducible apply kept_answerHere) | (with_reducible apply kept_noteFenced)
      · rename_i a_18 a_19 a_20 e_21
        extract_lets -merge -useContext -underBinder ws_22 dst_23
        try clear_value ws_22
        try clear_value dst_23
        apply kept_ite
        · split
          · rename_i a_24 e_25
            repeat' first | (with_reducible assumption)
          · rename_i a_26 a_27 e_28
            extract_lets -merge -useContext -underBinder g_32 p_33 s1_34 s2_35
            try clear_value g_32
            try clear_value p_33
            have h_s1_34 : Kept s0 s1_34 := by
              unfold s1_34
              repeat' first | (with_reducible assumption) | (with_reducible apply kept_setFab)
            try clear_value s1_34
            have h_s2_35 : Kept s0 s2_35 := by
              unfold s2_35
              repeat' first | (with_reducible assumption) | (with_reducible apply kept_setFab)
            try clear_value s2_35
            apply kept_ite
            · repeat' first | (with_reducible assumption) | (with_reducible apply kept_answerHere) | (with_reducible apply kept_noteTimeout) | (with_reducible apply kept_regulate) | (with_reducible apply kept_wr)
            · repeat' first | (with_reducible assumption) | (with_reducible apply kept_regulate)
        · repeat' first | (with_reducible assumption) | (with_reducible apply kept_regulate)

theorem kept_execNiRequestSend {s0 s : State} (h : Kept s0 s) : ∀ x0 x1 x2 x3 x4 x5 x6, ∃ t, execNiRequestSend x0 x1 x2 x3 x4 x5 x6 s = .next t ∧ Kept s0 t := by
  intro x0 x1 x2 x3 x4 x5 x6
  unfold execNiRequestSend
  refine ⟨_, rfl, ?_⟩
  repeat' first | (with_reducible assumption) | (with_reducible apply kept_requestSend)

theorem kept_execNiTokenRelease {s0 s : State} (h : Kept s0 s) : ∀ x0 x1 x2, ∃ t, execNiTokenRelease x0 x1 x2 s = .next t ∧ Kept s0 t := by
  intro x0 x1 x2
  unfold execNiTokenRelease
  refine ⟨_, rfl, ?_⟩
  repeat' first | (with_reducible assumption) | (with_reducible apply kept_tokenRun)

theorem kept_respond {s0 s : State} (h : Kept s0 s) : ∀ x0 x1 x2 x3, Kept s0 (respond s x0 x1 x2 x3) := by
  intro x0 x1 x2 x3
  unfold respond
  apply kept_ite
  · repeat' first | (with_reducible assumption) | (with_reducible apply kept_respondHere)
  · apply kept_ite
    · repeat' first | (with_reducible assumption)
    · repeat' first | (with_reducible assumption) | (with_reducible apply kept_laceBack)

theorem kept_execNiResponseRx {s0 s : State} (h : Kept s0 s) : ∀ x0, ∃ t, execNiResponseRx x0 s = .next t ∧ Kept s0 t := by
  intro x0
  unfold execNiResponseRx
  refine ⟨_, rfl, ?_⟩
  split
  · rename_i a_1 e_2
    repeat' first | (with_reducible assumption)
  · rename_i a_3 a_4 e_5
    repeat' first | (with_reducible assumption) | (with_reducible apply kept_takeResp) | (with_reducible apply kept_setFab)

theorem kept_execNiTimeout {s0 s : State} (h : Kept s0 s) : ∀ x0 x1, ∃ t, execNiTimeout x0 x1 s = .next t ∧ Kept s0 t := by
  intro x0 x1
  unfold execNiTimeout
  refine ⟨_, rfl, ?_⟩
  split
  · rename_i a_1 e_2
    repeat' first | (with_reducible assumption)
  · rename_i a_3 a_4 e_5
    extract_lets -merge -useContext -underBinder s1_6 ws_7
    have h_s1_6 : Kept s0 s1_6 := by
      unfold s1_6
      repeat' first | (with_reducible assumption) | (with_reducible apply kept_noteTimeout) | (with_reducible apply kept_setFab)
    try clear_value s1_6
    try clear_value ws_7
    split
    · rename_i a_8 a_9 e_10
      repeat' first | (with_reducible assumption) | (with_reducible apply kept_setFab) | (with_reducible apply keptP_mk) | (with_reducible apply keptQ_mk)
    · rename_i a_11 e_12
      repeat' first | (with_reducible assumption) | (with_reducible apply kept_niAnswer)

theorem kept_serveRow {s0 s : State} (h : Kept s0 s) : ∀ x0 x1, Kept s0 (serveRow s x0 x1) := by
  intro x0 x1
  unfold serveRow
  split
  · rename_i a_1 e_2
    split
    rename_i a_3 a_4 a_5 a_6 e_7
    have h_a_4 : Kept s0 a_4 := by
      apply KeptP.eq (e := e_7)
      repeat' first | (with_reducible assumption) | (with_reducible apply kept_serveRead)
    clear e_7
    repeat' first | (with_reducible assumption) | (with_reducible apply kept_respond)
  · rename_i a_8 e_9
    split
    rename_i a_10 a_11 a_12 e_13
    have h_a_11 : Kept s0 a_11 := by
      apply KeptP.eq (e := e_13)
      repeat' first | (with_reducible assumption) | (with_reducible apply kept_serveWrite)
    clear e_13
    split
    · rename_i a_14 a_15 a_16 a_17 e_18
      apply kept_ite
      · repeat' first | (with_reducible assumption) | (with_reducible apply kept_setFab) | (with_reducible apply keptP_mk) | (with_reducible apply keptQ_mk)
      · repeat' first | (with_reducible assumption) | (with_reducible apply kept_respond)
    · rename_i a_19 e_20
      repeat' first | (with_reducible assumption) | (with_reducible apply kept_respond)
  · rename_i a_21 e_22
    split
    rename_i a_23 a_24 a_25 e_26
    have h_a_24 : Kept s0 a_24 := by
      apply KeptP.eq (e := e_26)
      repeat' first | (with_reducible assumption) | (with_reducible apply kept_serveWrite)
    clear e_26
    split
    · rename_i a_27 a_28 a_29 a_30 e_31
      apply kept_ite
      · repeat' first | (with_reducible assumption) | (with_reducible apply kept_setFab) | (with_reducible apply keptP_mk) | (with_reducible apply keptQ_mk)
      · repeat' first | (with_reducible assumption) | (with_reducible apply kept_respond)
    · rename_i a_32 e_33
      repeat' first | (with_reducible assumption) | (with_reducible apply kept_respond)
  · rename_i a_34 a_35 a_36 a_37
    repeat' first | (with_reducible assumption)

theorem kept_serveAt {s0 s : State} (h : Kept s0 s) : ∀ x0 x1, Kept s0 (serveAt s x0 x1) := by
  intro x0 x1
  unfold serveAt
  extract_lets -merge -useContext -underBinder s0_1
  have h_s0_1 : Kept s0 s0_1 := by
    unfold s0_1
    repeat' first | (with_reducible assumption) | (with_reducible apply kept_gatePass)
  try clear_value s0_1
  split
  · rename_i a_2 a_3 e_4
    apply kept_ite
    · repeat' first | (with_reducible assumption) | (with_reducible apply kept_engServe)
    · repeat' first | (with_reducible assumption)
  · rename_i a_5 e_6
    repeat' first | (with_reducible assumption) | (with_reducible apply kept_serveRow)

theorem kept_answerFenced {s0 s : State} (h : Kept s0 s) : ∀ x0 x1, Kept s0 (answerFenced s x0 x1) := by
  intro x0 x1
  unfold answerFenced
  repeat' first | (with_reducible assumption) | (with_reducible apply kept_raise) | (with_reducible apply kept_respond) | (with_reducible apply kept_ite) | split

theorem kept_deliverPkt {s0 s : State} (h : Kept s0 s) : ∀ x0, Kept s0 (deliverPkt s x0) := by
  intro x0
  unfold deliverPkt
  apply kept_ite
  · repeat' first | (with_reducible assumption) | (with_reducible apply kept_setFab)
  · extract_lets -merge -useContext -underBinder d_1 dom_2
    try clear_value d_1
    try clear_value dom_2
    apply kept_ite
    · repeat' first | (with_reducible assumption) | (with_reducible apply kept_laceTx) | (with_reducible apply kept_bump)
    · split
      · rename_i a_3 e_4
        repeat' first | (with_reducible assumption) | (with_reducible apply kept_serveAt) | (with_reducible apply kept_bump)
      · rename_i a_5 e_6
        repeat' first | (with_reducible assumption) | (with_reducible apply kept_answerFenced) | (with_reducible apply kept_noteFenced)
      · rename_i a_7 e_8
        split
        · rename_i a_9 a_10 e_11
          have h_a_10 : Kept s0 a_10 := by
            apply KeptP.eq (e := e_11)
            repeat' first | (with_reducible assumption) | (with_reducible apply kept_holdPkt)
          clear e_11
          repeat' first | (with_reducible assumption)
        · rename_i a_12 a_13 a_14 e_15
          have h_a_13 : Kept s0 a_13 := by
            apply KeptP.eq (e := e_15)
            repeat' first | (with_reducible assumption) | (with_reducible apply kept_holdPkt)
          clear e_15
          repeat' first | (with_reducible assumption) | (with_reducible apply kept_answerFenced)

theorem kept_execWbExpire {s0 s : State} (h : Kept s0 s) : ∀ x0, ∃ t, execWbExpire x0 s = .next t ∧ Kept s0 t := by
  intro x0
  unfold execWbExpire
  refine ⟨_, rfl, ?_⟩
  apply kept_ite
  · repeat' first | (with_reducible assumption)
  · split
    · rename_i a_1 e_2
      repeat' first | (with_reducible assumption)
    · rename_i a_3 a_4 a_5 e_6
      extract_lets -merge -useContext -underBinder s1_7
      have h_s1_7 : Kept s0 s1_7 := by
        unfold s1_7
        repeat' first | (with_reducible assumption) | (with_reducible apply kept_setFab) | (with_reducible apply keptP_mk) | (with_reducible apply keptQ_mk)
      try clear_value s1_7
      repeat' first | (with_reducible assumption) | (with_reducible apply kept_answerFenced) | (with_reducible apply kept_raise)

theorem kept_deliverHeld {s0 s : State} (h : Kept s0 s) : ∀ x0, Kept s0 (deliverHeld s x0) := by
  intro x0
  unfold deliverHeld
  split
  · rename_i a_1 e_2
    repeat' first | (with_reducible assumption) | (with_reducible apply kept_unfenceOpen)
  · rename_i a_3 a_4 a_5 e_6
    extract_lets -merge -useContext -underBinder s1_7 s2_8
    have h_s1_7 : Kept s0 s1_7 := by
      unfold s1_7
      repeat' first | (with_reducible assumption) | (with_reducible apply kept_setFab)
    try clear_value s1_7
    have h_s2_8 : Kept s0 s2_8 := by
      unfold s2_8
      repeat' first | (with_reducible assumption) | (with_reducible apply kept_serveAt) | (with_reducible apply kept_bump)
    try clear_value s2_8
    apply kept_ite
    · repeat' first | (with_reducible assumption) | (with_reducible apply kept_unfenceOpen)
    · repeat' first | (with_reducible assumption)

theorem kept_takeTurn {s0 s : State} (h : Kept s0 s) : ∀ x0 x1 x2, Kept s0 (takeTurn s x0 x1 x2) := by
  intro x0 x1 x2
  unfold takeTurn
  apply kept_ite
  · repeat' first | (with_reducible assumption)
  · repeat' first | (with_reducible assumption) | (with_reducible apply kept_setFab)

theorem kept_routerRx {s0 s : State} (h : Kept s0 s) : ∀ x0 x1 x2 x3, Kept s0 (routerRx s x0 x1 x2 x3) := by
  intro x0 x1 x2 x3
  unfold routerRx
  split
  · rename_i a_1 a_2 e_3
    repeat' first | (with_reducible assumption) | (with_reducible apply kept_deliverHeld)
  · rename_i a_4 e_5
    split
    · rename_i a_6 e_7
      repeat' first | (with_reducible assumption)
    · rename_i a_8 a_9 e_10
      extract_lets -merge -useContext -underBinder x_15 s1_16 n_17 s2_18 p_19 fire_20 s4_21 hit_22
      try clear_value x_15
      have h_s1_16 : Kept s0 s1_16 := by
        unfold s1_16
        repeat' first | (with_reducible assumption) | (with_reducible apply kept_takeTurn) | (with_reducible apply kept_setFab)
      try clear_value s1_16
      try clear_value n_17
      have h_s2_18 : Kept s0 s2_18 := by
        unfold s2_18
        apply kept_ite
        · repeat' first | (with_reducible assumption)
        · repeat' first | (with_reducible assumption) | (with_reducible apply kept_raise) | (with_reducible apply kept_bump)
      try clear_value s2_18
      try clear_value p_19
      try clear_value fire_20
      have h_s4_21 : Kept s0 s4_21 := by
        unfold s4_21
        apply kept_ite
        · repeat' first | (with_reducible assumption) | (with_reducible apply kept_wrB)
        · repeat' first | (with_reducible assumption)
      try clear_value s4_21
      try clear_value hit_22
      apply kept_ite
      · repeat' first | (with_reducible assumption) | (with_reducible apply kept_raise) | (with_reducible apply kept_bump)
      · apply kept_ite
        · repeat' first | (with_reducible assumption) | (with_reducible apply kept_raise) | (with_reducible apply kept_bump)
        · apply kept_ite
          · repeat' first | (with_reducible assumption) | (with_reducible apply kept_setFab) | (with_reducible apply keptP_mk) | (with_reducible apply keptQ_mk)
          · apply kept_ite
            · repeat' first | (with_reducible assumption) | (with_reducible apply kept_deliverPkt)
            · repeat' first | (with_reducible assumption) | (with_reducible apply kept_setFab)

theorem kept_execRouterPacketRx {s0 s : State} (h : Kept s0 s) : ∀ x0 x1 x2 x3, ∃ t, execRouterPacketRx x0 x1 x2 x3 s = .next t ∧ Kept s0 t := by
  intro x0 x1 x2 x3
  refine ⟨_, rfl, ?_⟩
  repeat' first | (with_reducible assumption) | (with_reducible apply kept_routerRx)

theorem kept_execRouteEntryCommit {s0 s : State} (h : Kept s0 s) : ∀ x0 x1 x2 x3, ∃ t, execRouteEntryCommit x0 x1 x2 x3 s = .next t ∧ Kept s0 t := by
  intro x0 x1 x2 x3
  refine ⟨_, rfl, ?_⟩
  apply kept_ite
  · repeat' first | (with_reducible assumption) | (with_reducible apply kept_commitRt)
  · assumption

theorem kept_resumePorts {s0 s : State} (h : Kept s0 s) : Kept s0 (resumePorts s) := by
  unfold resumePorts
  extract_lets -merge -useContext -underBinder go_1 stay_2
  try clear_value go_1
  try clear_value stay_2
  repeat' first | (with_reducible assumption) | (with_reducible apply kept_setFab) | (with_reducible apply KeptP.one) | (with_reducible apply KeptQ.one)

theorem kept_execRtRcfgGo {s0 s : State} (h : Kept s0 s) : ∀ x0 x1 x2, ∃ t, execRtRcfgGo x0 x1 x2 s = .next t ∧ Kept s0 t := by
  intro x0 x1 x2
  unfold execRtRcfgGo
  refine ⟨_, rfl, ?_⟩
  apply kept_ite
  · repeat' first | (with_reducible assumption)
  · repeat' first | (with_reducible assumption) | (with_reducible apply kept_rcfgGo)

theorem kept_execRcApply {s0 s : State} (h : Kept s0 s) : ∀ x0, ∃ t, execRcApply x0 s = .next t ∧ Kept s0 t := by
  intro x0
  unfold execRcApply
  refine ⟨_, rfl, ?_⟩
  extract_lets -merge -useContext -underBinder r_5 w_6 ports_7 en_8 s1_9
  try clear_value r_5
  try clear_value w_6
  try clear_value ports_7
  try clear_value en_8
  have h_s1_9 : Kept s0 s1_9 := by
    unfold s1_9
    split
    · rename_i a_10 e_11
      repeat' first | (with_reducible assumption) | (with_reducible apply kept_wr)
    · rename_i a_12 e_13
      repeat' first | (with_reducible assumption) | (with_reducible apply kept_wr)
    · rename_i a_14 a_15 a_16
      repeat' first | (with_reducible assumption) | (with_reducible apply kept_setFab) | (with_reducible apply kept_foldl) | (with_reducible apply keptP_foldl) | (with_reducible apply keptP_mk) | (with_reducible apply keptQ_mk)
  try clear_value s1_9
  apply kept_ite
  · repeat' first | (with_reducible assumption)
  · repeat' first | (with_reducible assumption) | (with_reducible apply kept_raise) | (with_reducible apply kept_resumePorts) | (with_reducible apply kept_wrF)

theorem kept_execRcQuiesceTimeout {s0 s : State} (h : Kept s0 s) : ∀ x0, ∃ t, execRcQuiesceTimeout x0 s = .next t ∧ Kept s0 t := by
  intro x0
  unfold execRcQuiesceTimeout
  refine ⟨_, rfl, ?_⟩
  apply kept_ite
  · repeat' first | (with_reducible assumption)
  · repeat' first | (with_reducible assumption) | (with_reducible apply kept_raise) | (with_reducible apply kept_resumePorts) | (with_reducible apply kept_wrF)

theorem kept_execRcPortWaitTimeout {s0 s : State} (h : Kept s0 s) : ∀ x0, ∃ t, execRcPortWaitTimeout x0 s = .next t ∧ Kept s0 t := by
  intro x0
  unfold execRcPortWaitTimeout
  refine ⟨_, rfl, ?_⟩
  split
  · rename_i a_1 e_2
    repeat' first | (with_reducible assumption)
  · rename_i a_3 a_4 e_5
    extract_lets -merge -useContext -underBinder s1_6
    have h_s1_6 : Kept s0 s1_6 := by
      unfold s1_6
      repeat' first | (with_reducible assumption) | (with_reducible apply kept_raise) | (with_reducible apply kept_bump) | (with_reducible apply kept_setFab)
    try clear_value s1_6
    apply kept_ite
    · repeat' first | (with_reducible assumption)
    · repeat' first | (with_reducible assumption) | (with_reducible apply kept_raise) | (with_reducible apply kept_bump)

theorem kept_execNiInjTmo {s0 s : State} (h : Kept s0 s) : ∀ x0 x1, ∃ t, execNiInjTmo x0 x1 s = .next t ∧ Kept s0 t := by
  intro x0 x1
  refine ⟨_, rfl, ?_⟩
  apply kept_ite
  · repeat' first | (with_reducible assumption) | (with_reducible apply kept_wr)
  · assumption

theorem kept_execRtInjArm {s0 s : State} (h : Kept s0 s) : ∀ x0 x1 x2 x3, ∃ t, execRtInjArm x0 x1 x2 x3 s = .next t ∧ Kept s0 t := by
  intro x0 x1 x2 x3
  refine ⟨_, rfl, ?_⟩
  apply kept_ite
  · repeat' first | (with_reducible assumption) | (with_reducible apply kept_wr) | simp only [kept_mk_iff] | dsimp only | intro _ _ _ | (with_reducible apply keptP_mk) | (with_reducible apply keptQ_mk)
  · assumption

theorem kept_answerHeld {s0 s : State} (h : Kept s0 s) : Kept s0 (answerHeld s) := by
  unfold answerHeld
  refine kept_foldl _ ?_ _ ?_
  · intro a_1 x_2 h_3
    repeat' first | (with_reducible assumption) | (with_reducible apply kept_respond) | (with_reducible apply KeptP.one) | (with_reducible apply KeptQ.one)
  · repeat' first | (with_reducible assumption) | (with_reducible apply kept_setFab)

theorem kept_execQHeldHeaderAccept {s0 s : State} (h : Kept s0 s) : ∀ x0 x1, ∃ t, execQHeldHeaderAccept x0 x1 s = .next t ∧ Kept s0 t := by
  intro x0 x1
  unfold execQHeldHeaderAccept
  refine ⟨_, rfl, ?_⟩
  repeat' first | (with_reducible assumption) | (with_reducible apply kept_answerHeld) | (with_reducible apply kept_heldAccept)

end Sys2Proof.Machine
end

