-- ==== Sys2Proof/Laws/KeptTask.lean ====
section
/-! SUPPORT. What each operation of Machine/Task.lean keeps. -/

set_option linter.unreachableTactic false
set_option linter.unusedTactic false
set_option linter.unusedSimpArgs false
set_option linter.unusedVariables false

namespace Sys2Proof.Machine

theorem kept_modInst {s0 s : State} (h : Kept s0 s) : ∀ x0 x1, Kept s0 (modInst s x0 x1) := by
  intro x0 x1
  unfold modInst
  split
  · assumption
  · repeat' first | (with_reducible assumption) | (with_reducible apply kept_setCord) | simp only [kept_mk_iff]

theorem kept_bindMac {s0 s : State} (h : Kept s0 s) : ∀ x0, KeptP s0 (bindMac s x0) := by
  intro x0
  unfold bindMac
  split
  · rename_i a0_1 a1_1 a2_1 a3_1 e_1
    have h_a0_1 : Kept s0 a0_1 := by
      apply KeptP.eq (e := e_1)
      repeat' first | (with_reducible assumption) | (with_reducible apply kept_net32s)
    clear e_1
    extract_lets -merge -useContext -underBinder m_2
    try clear_value m_2
    apply keptP_ite
    · apply keptP_mk
      assumption
    · apply keptP_ite
      · apply keptP_mk
        assumption
      · apply keptP_ite
        · apply keptP_mk
          assumption
        · apply keptP_ite
          · apply keptP_mk
            assumption
          · apply keptP_mk
            assumption

theorem kept_enterReady {s0 s : State} (h : Kept s0 s) : ∀ x0 x1 x2, KeptP s0 (enterReady s x0 x1 x2) := by
  intro x0 x1 x2
  unfold enterReady
  extract_lets -merge -useContext -underBinder t1_1 s1_2
  try clear_value t1_1
  have h_s1_2 : Kept s0 s1_2 := by
    unfold s1_2
    apply kept_ite
    · repeat' first | (with_reducible assumption)
    · repeat' first | (with_reducible assumption) | (with_reducible apply kept_setCord)
  try clear_value s1_2
  apply keptP_ite
  · split
    · rename_i a_3 a_4 a_5 e_6
      have h_a_4 : Kept s0 a_4 := by
        apply KeptP.eq (e := e_6)
        repeat' first | (with_reducible assumption) | (with_reducible apply kept_bindMac)
      clear e_6
      repeat' first | (with_reducible assumption) | (with_reducible apply kept_putTask) | (with_reducible apply keptP_mk) | (with_reducible apply keptQ_mk)
    · rename_i a_7 a_8 e_9
      have h_a_8 : Kept s0 a_8 := by
        apply KeptP.eq (e := e_9)
        repeat' first | (with_reducible assumption) | (with_reducible apply kept_bindMac)
      clear e_9
      repeat' first | (with_reducible assumption) | (with_reducible apply kept_putTask) | (with_reducible apply kept_engWait) | (with_reducible apply keptP_mk) | (with_reducible apply keptQ_mk)
    · rename_i a_10 a_11 a_12 e_13
      have h_a_11 : Kept s0 a_11 := by
        apply KeptP.eq (e := e_13)
        repeat' first | (with_reducible assumption) | (with_reducible apply kept_bindMac)
      clear e_13
      repeat' first | (with_reducible assumption) | (with_reducible apply kept_putTask) | (with_reducible apply keptP_mk) | (with_reducible apply keptQ_mk)
  · repeat' first | (with_reducible assumption) | (with_reducible apply kept_putTask) | (with_reducible apply keptP_mk) | (with_reducible apply keptQ_mk)

theorem kept_enterDelay {s0 s : State} (h : Kept s0 s) : ∀ x0 x1, Kept s0 (enterDelay s x0 x1) := by
  intro x0 x1
  unfold enterDelay
  repeat' first | (with_reducible assumption) | (with_reducible apply kept_putTask) | (with_reducible apply kept_setCord) | simp only [kept_mk_iff]

theorem kept_release {s0 s : State} (h : Kept s0 s) : ∀ x0 x1, KeptP s0 (release s x0 x1) := by
  intro x0 x1
  unfold release
  apply keptP_ite
  · repeat' first | (with_reducible assumption) | (with_reducible apply kept_enterReady)
  · apply keptP_mk
    repeat' first | (with_reducible assumption) | (with_reducible apply kept_enterDelay)

theorem kept_skip {s0 s : State} (h : Kept s0 s) : ∀ x0 x1, KeptP s0 (skip s x0 x1) := by
  intro x0 x1
  unfold skip
  extract_lets -merge -useContext -underBinder none__1 s1_2
  try clear_value none__1
  have h_s1_2 : Kept s0 s1_2 := by
    unfold s1_2
    repeat' first | (with_reducible assumption) | (with_reducible apply kept_putTask) | (with_reducible apply kept_bump)
  try clear_value s1_2
  apply keptP_ite
  · repeat' first | (with_reducible assumption) | (with_reducible apply keptP_mk) | (with_reducible apply keptQ_mk)
  · repeat' first | (with_reducible assumption) | (with_reducible apply keptP_mk) | (with_reducible apply keptQ_mk)

theorem kept_settleTask {s0 s : State} (h : Kept s0 s) : ∀ x0 x1, KeptP s0 (settleTask s x0 x1) := by
  intro x0 x1
  unfold settleTask
  apply keptP_ite
  · repeat' first | (with_reducible assumption) | (with_reducible apply kept_skip)
  · repeat' first | (with_reducible assumption) | (with_reducible apply kept_release)

theorem kept_predDone {s0 s : State} (h : Kept s0 s) : ∀ x0 x1, KeptP s0 (predDone s x0 x1) := by
  intro x0 x1
  unfold predDone
  split
  · apply keptP_mk
    assumption
  · extract_lets -merge -useContext -underBinder t1_1
    try clear_value t1_1
    apply keptP_ite
    · apply keptP_mk
      assumption
    · apply keptP_ite
      · repeat' first | (with_reducible assumption) | (with_reducible apply kept_settleTask)
      · apply keptP_mk
        repeat' first | (with_reducible assumption) | (with_reducible apply kept_putTask)

theorem kept_predsDone {s0 s : State} (h : Kept s0 s) : ∀ x0 x1, KeptP s0 (predsDone s x0 x1) := by
  intro x0 x1
  induction x1 generalizing s x0 with
  | nil =>
    unfold predsDone
    apply keptP_mk
    assumption
  | cons y ys ih =>
    unfold predsDone
    split
    · rename_i a0_1 a1_1 e_1
      have h_a0_1 : Kept s0 a0_1 := by
        apply KeptP.eq (e := e_1)
        repeat' first | (with_reducible assumption) | (with_reducible apply ih) | (with_reducible apply kept_predDone)
      clear e_1
      split
      · rename_i a0_2 a1_2 e_2
        have h_a0_2 : Kept s0 a0_2 := by
          apply KeptP.eq (e := e_2)
          repeat' first | (with_reducible assumption) | (with_reducible apply ih)
        clear e_2
        apply keptP_mk
        repeat' first | (with_reducible assumption) | (with_reducible apply ih)

theorem kept_retire {s0 s : State} (h : Kept s0 s) : ∀ x0, Kept s0 (retire s x0) := by
  intro x0
  unfold retire
  extract_lets -merge -useContext -underBinder s1_1 s2_2
  have h_s1_1 : Kept s0 s1_1 := by
    unfold s1_1
    repeat' first | (with_reducible assumption) | (with_reducible apply kept_setCord) | simp only [kept_mk_iff]
  try clear_value s1_1
  have h_s2_2 : Kept s0 s2_2 := by
    unfold s2_2
    repeat' first | (with_reducible assumption) | (with_reducible apply kept_freeStopped) | (with_reducible apply kept_modCell) | simp only [kept_mk_iff]
  try clear_value s2_2
  split
  · repeat' first | (with_reducible assumption) | (with_reducible apply kept_entryDone)
  · assumption

theorem kept_applyCompletion {s0 s : State} (h : Kept s0 s) : ∀ x0 x1, KeptP s0 (applyCompletion s x0 x1) := by
  intro x0 x1
  unfold applyCompletion
  split
  · apply keptP_mk
    assumption
  · extract_lets -merge -useContext -underBinder g_1 s1_2 s2_3 s3_4
    try clear_value g_1
    have h_s1_2 : Kept s0 s1_2 := by
      unfold s1_2
      repeat' first | (with_reducible assumption) | (with_reducible apply kept_bump)
    try clear_value s1_2
    have h_s2_3 : Kept s0 s2_3 := by
      unfold s2_3
      apply kept_ite
      · repeat' first | (with_reducible assumption) | (with_reducible apply kept_bump) | (with_reducible apply kept_raise) | (with_reducible apply kept_wr) | simp only [kept_mk_iff] | dsimp only | intro _ _ _ | (with_reducible apply keptP_mk) | (with_reducible apply keptQ_mk)
      · assumption
    try clear_value s2_3
    have h_s3_4 : Kept s0 s3_4 := by
      unfold s3_4
      repeat' first | (with_reducible assumption) | (with_reducible apply kept_setCord) | simp only [kept_mk_iff]
    try clear_value s3_4
    split
    · rename_i a0_5 a1_5 e_5
      have h_a0_5 : Kept s0 a0_5 := by
        apply KeptP.eq (e := e_5)
        repeat' first | (with_reducible assumption) | (with_reducible apply kept_predsDone)
      clear e_5
      extract_lets -merge -useContext -underBinder s5_6
      have h_s5_6 : Kept s0 s5_6 := by
        unfold s5_6
        split
        · assumption
        · apply kept_ite
          · repeat' first | (with_reducible assumption) | (with_reducible apply kept_retire)
          · repeat' first | (with_reducible assumption) | (with_reducible apply kept_modInst) | simp only [kept_mk_iff]
      try clear_value s5_6
      apply keptP_mk
      assumption

theorem kept_applyAll {s0 : State} : ∀ (n : Nat) {s : State}, Kept s0 s → ∀ l : List (Nat × W16), Kept s0 (applyAll n s l)
  | 0, _, h, _ => h
  | _ + 1, _, h, [] => h
  | n + 1, s, h, (i, st) :: r => by
    unfold applyAll
    exact kept_applyAll n (kept_applyCompletion h i st).one _

theorem kept_finish {s0 : State} {x : State × List (Nat × W16)} (h : KeptP s0 x) : Kept s0 (finish x) := kept_applyAll _ h _

theorem kept_takeCompletion {s0 s : State} (h : Kept s0 s) : Kept s0 (takeCompletion s) := by
  unfold takeCompletion
  split
  · exact h
  · extract_lets s1 live
    have h1 : Kept s0 s1 := kept_setCord h ..
    exact kept_ite (kept_finish (keptP_mk h1)) (kept_raise (kept_bump h1 ..) ..)

theorem kept_readyEach {s0 s : State} (h : Kept s0 s) : ∀ x0, KeptP s0 (readyEach s x0) := by
  intro x0
  induction x0 generalizing s with
  | nil =>
    unfold readyEach
    apply keptP_mk
    assumption
  | cons y ys ih =>
    unfold readyEach
    split
    · rename_i a0_1 a1_1 e_1
      have h_a0_1 : Kept s0 a0_1 := by
        apply KeptP.eq (e := e_1)
        repeat' first | (with_reducible assumption) | (with_reducible apply ih) | (with_reducible apply kept_enterReady)
      clear e_1
      split
      · rename_i a0_2 a1_2 e_2
        have h_a0_2 : Kept s0 a0_2 := by
          apply KeptP.eq (e := e_2)
          repeat' first | (with_reducible assumption) | (with_reducible apply ih)
        clear e_2
        apply keptP_mk
        repeat' first | (with_reducible assumption) | (with_reducible apply ih)

theorem kept_delayRelease {s0 s : State} (h : Kept s0 s) : Kept s0 (delayRelease s) := by
  unfold delayRelease
  extract_lets due s1 late s2
  have h1 : Kept s0 s1 := kept_finish (kept_readyEach h ..)
  have h2 : Kept s0 s2 := kept_foldl _ (fun _ _ ht => kept_modTask ht ..) _ h1
  exact kept_raiseIf (kept_bump h2 ..) ..

theorem kept_eraseLines {s0 s : State} (h : Kept s0 s) : ∀ x0 x1 x2 x3, KeptP s0 (eraseLines s x0 x1 x2 x3) := by
  intro x0 x1 x2 x3
  induction x2 generalizing s x0 x1 x3 with
  | zero =>
    unfold eraseLines
    apply keptP_mk
    assumption
  | succ n ih =>
    unfold eraseLines
    split
    · rename_i a0_1 a1_1 e_1
      have h_a0_1 : Kept s0 a0_1 := by
        apply KeptP.eq (e := e_1)
        repeat' first | (with_reducible assumption) | (with_reducible apply ih) | (with_reducible apply kept_netWrite) | (with_reducible apply kept_ite) | (with_reducible apply keptP_ite) | simp only [kept_mk_iff] | split | dsimp only | intro _ _ _ | (with_reducible apply keptP_mk) | (with_reducible apply keptQ_mk)
      clear e_1
      apply keptP_ite
      · repeat' first | (with_reducible assumption) | (with_reducible apply ih)
      · apply keptP_mk
        repeat' first | (with_reducible assumption) | (with_reducible apply ih)

theorem kept_eraseDone {s0 s : State} (h : Kept s0 s) : ∀ x0 x1, Kept s0 (eraseDone s x0 x1) := by
  intro x0 x1
  unfold eraseDone
  split
  · exact h
  · apply kept_ite h
    extract_lets at_
    split
    rename_i s1 e0 e
    have h1 : Kept s0 s1 := KeptP.eq (kept_eraseLines h ..) e
    split
    rename_i s2 e1 e'
    have h2 : Kept s0 s2 := KeptP.eq (kept_eraseLines h1 ..) e'
    exact kept_ite h2 (kept_finish (keptP_mk (kept_modTask h2 ..)))

theorem kept_remoteRx {s0 s : State} (h : Kept s0 s) : ∀ x0 x1 x2 x3, KeptP s0 (remoteRx s x0 x1 x2 x3) := by
  intro x0 x1 x2 x3
  unfold remoteRx
  extract_lets s1 orphan
  have h1 : Kept s0 s1 := kept_bump h ..
  have ho : ∀ y, Kept s0 y → KeptP s0 (orphan y) := fun _ hy => keptP_mk (kept_raise (kept_bump hy ..) ..)
  clear_value s1 orphan
  split
  · split
    · exact ho _ h1
    · split
      · exact ho _ h1
      · exact keptP_ite (ho _ h1) (keptP_ite (keptP_mk (kept_modInst h1 ..)) (keptP_mk (kept_finish (kept_predDone h1 ..))))
  · exact keptP_ite (ho _ h1) (keptP_ite (keptP_mk (kept_raise h1 ..)) (keptP_mk (kept_setCord h1 ..)))

theorem kept_remoteTake {s0 s : State} (h : Kept s0 s) : ∀ x0, KeptP s0 (remoteTake s x0) := by
  intro x0
  unfold remoteTake
  extract_lets -merge -useContext -underBinder w_1
  try clear_value w_1
  split
  rename_i a_2 a_3 a_4 e_5
  have h_a_3 : Kept s0 a_3 := by
    apply KeptP.eq (e := e_5)
    repeat' first | (with_reducible assumption) | (with_reducible apply kept_remoteRx)
  clear e_5
  repeat' first | (with_reducible assumption) | (with_reducible apply keptP_mk) | (with_reducible apply keptQ_mk)

theorem kept_execEarlyEntryExpire {s0 s : State} (h : Kept s0 s) : ∃ t, execEarlyEntryExpire s = .next t ∧ Kept s0 t := by
  refine ⟨_, rfl, ?_⟩
  split
  · assumption
  · repeat' first | (with_reducible assumption) | (with_reducible apply kept_bump) | (with_reducible apply kept_raise) | (with_reducible apply kept_setCord) | simp only [kept_mk_iff]

theorem kept_emitNotify {s0 s : State} (h : Kept s0 s) : ∀ x0 x1, Kept s0 (emitNotify s x0 x1) := by
  intro x0 x1
  unfold emitNotify
  repeat' first | (with_reducible assumption) | (with_reducible apply kept_emit) | simp only [kept_mk_iff] | dsimp only | intro _ _ _ | (with_reducible apply keptP_mk) | (with_reducible apply keptQ_mk)

theorem kept_sendRec {s0 s : State} (h : Kept s0 s) : ∀ x0 x1 x2 x3, Kept s0 (sendRec s x0 x1 x2 x3) := by
  intro x0 x1 x2 x3
  unfold sendRec
  repeat' first | (with_reducible assumption) | (with_reducible apply kept_regulate)

theorem kept_notifyRemote {s0 s : State} (h : Kept s0 s) : ∀ x0 x1 x2, Kept s0 (notifyRemote s x0 x1 x2) := by
  intro x0 x1 x2
  unfold notifyRemote
  extract_lets -merge -useContext -underBinder dev_1 cell_2 tm_3 rtick_4 seq_5 s1_6
  try clear_value dev_1
  try clear_value cell_2
  try clear_value tm_3
  try clear_value rtick_4
  try clear_value seq_5
  have h_s1_6 : Kept s0 s1_6 := by
    unfold s1_6
    repeat' first | (with_reducible assumption) | (with_reducible apply kept_bump) | (with_reducible apply kept_setCord)
  try clear_value s1_6
  apply kept_ite
  · split
    rename_i a_7 a_8 a_9 e_10
    have h_a_8 : Kept s0 a_8 := by
      apply KeptP.eq (e := e_10)
      repeat' first | (with_reducible assumption) | (with_reducible apply kept_remoteRx)
    clear e_10
    repeat' first | (with_reducible assumption) | (with_reducible apply kept_complete)
  · split
    · rename_i a_11 e_12
      repeat' first | (with_reducible assumption) | (with_reducible apply kept_complete) | (with_reducible apply kept_raise)
    · rename_i a_13 a_14 e_15
      repeat' first | (with_reducible assumption) | (with_reducible apply kept_sendRec) | (with_reducible apply kept_setCord)

theorem kept_notifyStart {s0 s : State} (h : Kept s0 s) : ∀ x0 x1, Kept s0 (notifyStart s x0 x1) := by
  intro n ov
  unfold notifyStart
  apply kept_ite h
  split
  · exact h
  · rename_i s1 i t e
    have h1 : Kept s0 s1 := keptO_beginTask h e
    split
    rename_i s2 st b p e2
    have h2 : Kept s0 s2 := by
      cases ov with
      | none => exact KeptP.eq (kept_net32s h1 ..) e2
      | some o => exact KeptP.eq (keptP_mk (kept_netGiveUp h1 ..)) e2
    clear e2
    apply kept_ite (kept_complete h2 ..)
    apply kept_ite (kept_complete h2 ..)
    apply kept_ite (kept_complete h2 ..)
    extract_lets kind s3
    have h3 : Kept s0 s3 := kept_ite h2 (kept_emitNotify h2 ..)
    exact kept_ite (kept_complete h3 ..) (kept_notifyRemote h3 ..)

theorem kept_execNotifyTaskStart {s0 s : State} (h : Kept s0 s) : ∀ x0 x1, ∃ t, execNotifyTaskStart x0 x1 s = .next t ∧ Kept s0 t := by
  intro x0 x1
  unfold execNotifyTaskStart
  refine ⟨_, rfl, ?_⟩
  repeat' first | (with_reducible assumption) | (with_reducible apply kept_settled) | (with_reducible apply kept_notifyStart)

theorem kept_ackTake {s0 s : State} (h : Kept s0 s) : ∀ x0 x1 x2, Kept s0 (ackTake s x0 x1 x2) := by
  intro x0 x1 x2
  unfold ackTake
  split
  · rename_i a_1 e_2
    repeat' first | (with_reducible assumption) | (with_reducible apply kept_bump)
  · rename_i a_3 a_4 e_5
    repeat' first | (with_reducible assumption) | (with_reducible apply kept_complete) | (with_reducible apply kept_setCord)

theorem kept_execNotifyAckRx {s0 s : State} (h : Kept s0 s) : ∀ x0 x1 x2, ∃ t, execNotifyAckRx x0 x1 x2 s = .next t ∧ Kept s0 t := by
  intro x0 x1 x2
  unfold execNotifyAckRx
  refine ⟨_, rfl, ?_⟩
  repeat' first | (with_reducible assumption) | (with_reducible apply kept_ackTake)

theorem kept_execNotifyAckTimeout {s0 s : State} (h : Kept s0 s) : ∀ x0, ∃ t, execNotifyAckTimeout x0 s = .next t ∧ Kept s0 t := by
  intro x0
  refine ⟨_, rfl, ?_⟩
  split
  · assumption
  · repeat' first | (with_reducible assumption) | (with_reducible apply kept_complete) | (with_reducible apply kept_raise) | (with_reducible apply kept_setCord) | simp only [kept_mk_iff]

end Sys2Proof.Machine
end

