-- ==== Sys2Proof/Laws/KeptInstantiate.lean ====
section
/-! SUPPORT. What each operation of Machine/Instantiate.lean keeps. -/

set_option linter.unreachableTactic false
set_option linter.unusedTactic false
set_option linter.unusedSimpArgs false
set_option linter.unusedVariables false

namespace Sys2Proof.Machine

theorem kept_discard {s0 s : State} (h : Kept s0 s) : ∀ x0 x1, Kept s0 (discard s x0 x1) := by
  intro x0 x1
  unfold discard
  repeat' first | (with_reducible assumption) | (with_reducible apply kept_entryDone) | (with_reducible apply kept_wr)

theorem kept_badReq {s0 s : State} (h : Kept s0 s) : Kept s0 (badReq s) := by
  unfold badReq
  repeat' first | (with_reducible assumption) | (with_reducible apply kept_bump) | (with_reducible apply kept_raise)

theorem kept_walkRing {s0 : State} : ∀ (n : Nat) {s : State}, Kept s0 s → ∀ r c t, KeptP s0 (walkRing s r c t n)
  | 0, _, h, _, _, _ => h
  | n + 1, s, h, r, c, t => by
    unfold walkRing
    extract_lets hd base
    split
    rename_i s1 st ws p e
    have h1 : Kept s0 s1 := KeptP.eq (kept_net32s h ..) e
    extract_lets cell tick
    exact keptP_ite (kept_walkRing n (kept_badReq (kept_discard h1 ..)) ..)
      (keptP_ite (kept_walkRing n (kept_raise (kept_bump (kept_discard h1 ..) ..) ..) ..)
        (keptP_ite (keptP_mk (kept_wr h1 ..)) (keptP_mk h1)))

theorem kept_readBox {s0 s : State} (h : Kept s0 s) : ∀ x0 x1 x2, KeptP s0 (readBox s x0 x1 x2) := by
  intro x0 x1 x2
  unfold readBox
  apply keptP_ite
  · repeat' first | (with_reducible assumption) | (with_reducible apply keptP_mk) | (with_reducible apply keptQ_mk)
  · split
    rename_i a_1 a_2 a_3 a_4 a_5 e_6
    have h_a_2 : Kept s0 a_2 := by
      apply KeptP.eq (e := e_6)
      repeat' first | (with_reducible assumption) | (with_reducible apply kept_net32s)
    clear e_6
    apply keptP_ite
    · repeat' first | (with_reducible assumption) | (with_reducible apply keptP_mk) | (with_reducible apply keptQ_mk)
    · extract_lets -merge -useContext -underBinder lines_7 npb_8
      try clear_value lines_7
      try clear_value npb_8
      apply keptP_ite
      · repeat' first | (with_reducible assumption) | (with_reducible apply keptP_mk) | (with_reducible apply keptQ_mk)
      · split
        rename_i a_9 a_10 a_11 a_12 a_13 e_14
        have h_a_10 : Kept s0 a_10 := by
          apply KeptP.eq (e := e_14)
          repeat' first | (with_reducible assumption) | (with_reducible apply kept_net32s)
        clear e_14
        extract_lets -merge -useContext -underBinder bs_15
        try clear_value bs_15
        apply keptP_ite
        · repeat' first | (with_reducible assumption) | (with_reducible apply keptP_mk) | (with_reducible apply keptQ_mk)
        · repeat' first | (with_reducible assumption) | (with_reducible apply keptP_mk) | (with_reducible apply keptQ_mk)

theorem kept_createInst {s0 s : State} (h : Kept s0 s) : ∀ x0 x1 x2 x3 x4 x5 x6 x7, Kept s0 (createInst s x0 x1 x2 x3 x4 x5 x6 x7) := by
  intro x0 x1 x2 x3 x4 x5 x6 x7
  unfold createInst
  extract_lets -merge -useContext -underBinder slot_1 ts_2 need_3 free_4 rows_5 home_6 moved_7 bench_8 descs_9 early_10 inst_11 s1_12 s2_13 s3_14 s4_15
  try clear_value slot_1
  try clear_value ts_2
  try clear_value need_3
  try clear_value free_4
  try clear_value rows_5
  try clear_value home_6
  try clear_value moved_7
  try clear_value bench_8
  try clear_value descs_9
  try clear_value early_10
  try clear_value inst_11
  have h_s1_12 : Kept s0 s1_12 := by
    unfold s1_12
    repeat' first | (with_reducible assumption) | (with_reducible apply kept_putTask) | (with_reducible apply kept_foldl) | (with_reducible apply keptP_foldl) | (with_reducible apply KeptP.one) | (with_reducible apply KeptQ.one) | dsimp only | intro _ _ _
  try clear_value s1_12
  have h_s2_13 : Kept s0 s2_13 := by
    unfold s2_13
    repeat' first | (with_reducible assumption) | (with_reducible apply kept_setCord) | simp only [kept_mk_iff]
  try clear_value s2_13
  have h_s3_14 : Kept s0 s3_14 := by
    unfold s3_14
    repeat' first | (with_reducible assumption) | (with_reducible apply kept_bump) | (with_reducible apply kept_modCell) | simp only [kept_mk_iff]
  try clear_value s3_14
  have h_s4_15 : Kept s0 s4_15 := by
    unfold s4_15
    repeat' first | (with_reducible assumption) | (with_reducible apply kept_wr)
  try clear_value s4_15
  split
  · assumption
  · extract_lets -merge -useContext -underBinder s5_16
    have h_s5_16 : Kept s0 s5_16 := by
      unfold s5_16
      repeat' first | (with_reducible assumption) | (with_reducible apply kept_bump)
    try clear_value s5_16
    apply kept_ite
    · assumption
    · repeat' first | (with_reducible assumption) | (with_reducible apply kept_raise) | (with_reducible apply kept_setGov) | simp only [kept_mk_iff]

theorem kept_notCreated {s0 s : State} (h : Kept s0 s) : ∀ x0, Kept s0 (notCreated s x0) := by
  intro x0
  unfold notCreated
  split
  · repeat' first | (with_reducible assumption) | (with_reducible apply kept_entryDone)
  · assumption

theorem kept_tryCreate {s0 s : State} (h : Kept s0 s) : ∀ x0 x1 x2 x3 x4 x5 x6, Kept s0 (tryCreate s x0 x1 x2 x3 x4 x5 x6) := by
  intro x0 x1 x2 x3 x4 x5 x6
  unfold tryCreate
  split
  · repeat' first | (with_reducible assumption) | (with_reducible apply kept_bump) | (with_reducible apply kept_notCreated) | (with_reducible apply kept_raise)
  · extract_lets -merge -useContext -underBinder i_1 by__2
    try clear_value i_1
    try clear_value by__2
    apply kept_ite
    · repeat' first | (with_reducible assumption) | (with_reducible apply kept_bump) | (with_reducible apply kept_notCreated) | (with_reducible apply kept_raise)
    · repeat' first | (with_reducible assumption) | (with_reducible apply kept_createInst) | (with_reducible apply kept_raiseIf)

theorem kept_tryDefault {s0 s : State} (h : Kept s0 s) : ∀ x0 x1 x2 x3 x4, Kept s0 (tryDefault s x0 x1 x2 x3 x4) := by
  intro c p img tick ring
  unfold tryDefault
  extract_lets a
  split
  · rename_i s1 hq
    exact kept_notCreated (kept_badReq (KeptP.eq (kept_readBox h ..) hq)) _
  · rename_i s1 b hq
    exact kept_tryCreate (KeptP.eq (kept_readBox h ..) hq) ..

theorem kept_instantiate {s0 s : State} (h : Kept s0 s) : ∀ x0 x1 x2, Kept s0 (instantiate s x0 x1 x2) := by
  intro c p tick
  unfold instantiate
  split
  · exact h
  · extract_lets slot miss
    have hm : ∀ s1 ring bad, Kept s0 s1 → Kept s0 (miss s1 ring bad) := fun s1 ring bad k =>
      kept_ite (kept_tryDefault k ..) (kept_ite (kept_notCreated k _) (kept_notCreated (kept_raise (kept_bump k ..) ..) _))
    clear_value miss
    apply kept_ite (kept_tryCreate h ..)
    split
    · rename_i hq
      exact hm _ _ _ (KeptP.eq (kept_walkRing _ h ..) hq)
    · rename_i hq
      have h1 := KeptP.eq (kept_walkRing _ h ..) hq
      split
      · rename_i hr
        exact hm _ _ _ (kept_badReq (KeptP.eq (kept_readBox h1 ..) hr))
      · rename_i hr
        exact kept_tryCreate (KeptP.eq (kept_readBox h1 ..) hr) ..

theorem kept_execInstantiate {s0 s : State} (h : Kept s0 s) : ∃ t, execInstantiate s = .next t ∧ Kept s0 t := by
  unfold execInstantiate
  refine ⟨_, rfl, ?_⟩
  split
  · rename_i a_1 e_2
    repeat' first | (with_reducible assumption)
  · rename_i a_3 a_4 a_5 a_6 e_7
    repeat' first | (with_reducible assumption) | (with_reducible apply kept_settled) | (with_reducible apply kept_freeStopped) | (with_reducible apply kept_modCell) | apply keptO_instantiate (e := by assumption) | (with_reducible apply kept_instantiate)

theorem kept_evalTasks {s0 : State} : ∀ (l : List Nat) {s : State}, Kept s0 s → KeptP s0 (evalTasks s l)
  | [], _, h => h
  | i :: l, s, h => by
    unfold evalTasks
    have h1 : KeptP s0 (match taskOf s i with
      | some t => if t.st = .wait ∧ t.dep = 0 then settleTask s i t else (s, [])
      | none => (s, [])) := by
      split
      · exact keptP_ite (kept_settleTask h ..) h
      · exact h
    exact kept_evalTasks l h1.one

theorem kept_lateRemote {s0 s : State} (h : Kept s0 s) : ∀ x0 x1, Kept s0 (lateRemote s x0 x1) := by
  intro x0 x1
  induction x1 generalizing s x0 with
  | nil =>
    unfold lateRemote
    assumption
  | cons y ys ih =>
    unfold lateRemote
    extract_lets -merge -useContext -underBinder orphan_1 s1_2
    have h_orphan_1 : Kept s0 orphan_1 := by
      unfold orphan_1
      repeat' first | (with_reducible assumption) | (with_reducible apply ih) | (with_reducible apply kept_bump) | (with_reducible apply kept_raise)
    try clear_value orphan_1
    have h_s1_2 : Kept s0 s1_2 := by
      unfold s1_2
      split
      · repeat' first | (with_reducible assumption) | (with_reducible apply ih)
      · split
        · repeat' first | (with_reducible assumption) | (with_reducible apply ih)
        · apply kept_ite
          · repeat' first | (with_reducible assumption) | (with_reducible apply ih) | (with_reducible apply kept_finish) | (with_reducible apply kept_predDone)
          · repeat' first | (with_reducible assumption) | (with_reducible apply ih)
    try clear_value s1_2
    repeat' first | (with_reducible assumption) | (with_reducible apply ih)

theorem kept_creationEnd {s0 s : State} (h : Kept s0 s) : Kept s0 (creationEnd s) := by
  unfold creationEnd
  split
  · rename_i a_1 e_2
    repeat' first | (with_reducible assumption)
  · rename_i a_3 a_4 e_5
    extract_lets -merge -useContext -underBinder s1_7 s2_8
    have h_s1_7 : Kept s0 s1_7 := by
      unfold s1_7
      repeat' first | (with_reducible assumption) | (with_reducible apply kept_modInst)
    try clear_value s1_7
    have h_s2_8 : Kept s0 s2_8 := by
      unfold s2_8
      repeat' first | (with_reducible assumption) | (with_reducible apply kept_finish) | (with_reducible apply kept_evalTasks)
    try clear_value s2_8
    apply kept_ite
    · repeat' first | (with_reducible assumption) | (with_reducible apply kept_lateRemote) | (with_reducible apply kept_retire)
    · repeat' first | (with_reducible assumption) | (with_reducible apply kept_lateRemote)

end Sys2Proof.Machine
end

