-- ==== Sys2Proof/Laws/KeptGovern.lean ====
section
/-! SUPPORT. What each operation of Machine/Govern.lean keeps. -/

set_option linter.unreachableTactic false
set_option linter.unusedTactic false
set_option linter.unusedSimpArgs false
set_option linter.unusedVariables false

namespace Sys2Proof.Machine

theorem kept_bindWaiting {s0 s : State} (h : Kept s0 s) : Kept s0 (bindWaiting s) := by
  unfold bindWaiting
  extract_lets -merge -useContext -underBinder l_1
  try clear_value l_1
  repeat' first | (with_reducible assumption) | (with_reducible apply kept_enterReady) | (with_reducible apply kept_finish) | (with_reducible apply kept_foldl) | (with_reducible apply keptP_foldl) | (with_reducible apply KeptP.one) | (with_reducible apply KeptQ.one) | dsimp only | intro _ _ _

theorem kept_grantAt {s0 s : State} (h : Kept s0 s) : ∀ x0, Kept s0 (grantAt s x0) := by
  intro x0
  unfold grantAt
  apply kept_ite
  · repeat' first | (with_reducible assumption)
  · extract_lets -merge -useContext -underBinder l_1
    try clear_value l_1
    split
    · rename_i a_2 e_3
      repeat' first | (with_reducible assumption)
    · rename_i a_4 a_5 a_6 e_7
      extract_lets -merge -useContext -underBinder s1_8 s2_9
      have h_s1_8 : Kept s0 s1_8 := by
        unfold s1_8
        repeat' first | (with_reducible assumption) | (with_reducible apply kept_putTask)
      try clear_value s1_8
      have h_s2_9 : Kept s0 s2_9 := by
        unfold s2_9
        repeat' first | (with_reducible assumption) | (with_reducible apply kept_setCord)
      try clear_value s2_9
      apply kept_ite
      · repeat' first | (with_reducible assumption)
      · repeat' first | (with_reducible assumption) | (with_reducible apply kept_bump)

theorem kept_execDispatchGrant {s0 s : State} (h : Kept s0 s) : ∀ x0, ∃ t, execDispatchGrant x0 s = .next t ∧ Kept s0 t := by
  intro x0
  unfold execDispatchGrant
  refine ⟨_, rfl, ?_⟩
  refine kept_foldl _ ?_ _ ?_
  · intro a_1 x_2 h_3
    repeat' first | (with_reducible assumption) | (with_reducible apply kept_grantAt)
  · repeat' first | (with_reducible assumption) | (with_reducible apply kept_bindWaiting)

theorem kept_execDsStage {s0 s : State} (h : Kept s0 s) : ∀ x0, ∃ t, execDsStage x0 s = .next t ∧ Kept s0 t := by
  intro x0
  refine ⟨_, rfl, ?_⟩
  split
  · assumption
  · repeat' first | (with_reducible assumption) | (with_reducible apply kept_putTask) | simp only [kept_mk_iff]

theorem kept_escalate {s0 s : State} (h : Kept s0 s) : ∀ x0, Kept s0 (escalate s x0) := by
  intro x0
  unfold escalate
  repeat' first | (with_reducible assumption) | (with_reducible apply kept_emit) | (with_reducible apply kept_raise) | simp only [kept_mk_iff] | dsimp only | intro _ _ _ | (with_reducible apply keptP_mk) | (with_reducible apply keptQ_mk)

theorem kept_cellMiss {s0 s : State} (h : Kept s0 s) : ∀ x0 x1, Kept s0 (cellMiss s x0 x1) := by
  intro x0 x1
  unfold cellMiss
  repeat' first | (with_reducible assumption) | (with_reducible apply kept_modCell) | simp only [kept_mk_iff]

theorem kept_countLate {s0 s : State} (h : Kept s0 s) : ∀ x0 x1, Kept s0 (countLate s x0 x1) := by
  intro x0 x1
  unfold countLate
  extract_lets -merge -useContext -underBinder s1_1
  have h_s1_1 : Kept s0 s1_1 := by
    unfold s1_1
    repeat' first | (with_reducible assumption) | (with_reducible apply kept_bump) | (with_reducible apply kept_cellMiss) | (with_reducible apply kept_raise)
  try clear_value s1_1
  split
  · assumption
  · extract_lets -merge -useContext -underBinder f_2 n_3 b_4 hit_5 s2_6
    try clear_value f_2
    try clear_value n_3
    try clear_value b_4
    try clear_value hit_5
    have h_s2_6 : Kept s0 s2_6 := by
      unfold s2_6
      repeat' first | (with_reducible assumption) | (with_reducible apply kept_modCell) | simp only [kept_mk_iff]
    try clear_value s2_6
    apply kept_ite
    · repeat' first | (with_reducible assumption) | (with_reducible apply kept_emit) | (with_reducible apply kept_raise)
    · assumption

theorem kept_lateAction {s0 s : State} (h : Kept s0 s) : ∀ x0, Kept s0 (lateAction s x0) := by
  intro x0
  unfold lateAction
  split
  · rename_i a_1 e_2
    repeat' first | (with_reducible assumption)
  · rename_i a_3 a_4 e_5
    apply kept_ite
    · repeat' first | (with_reducible assumption)
    · extract_lets -merge -useContext -underBinder k_6 t_7 s1_8 waits_9 w_10
      try clear_value k_6
      try clear_value t_7
      have h_s1_8 : Kept s0 s1_8 := by
        unfold s1_8
        repeat' first | (with_reducible assumption) | (with_reducible apply kept_countLate)
      try clear_value s1_8
      try clear_value waits_9
      try clear_value w_10
      split
      · rename_i a_11
        apply kept_ite
        · repeat' first | (with_reducible assumption) | (with_reducible apply kept_finish) | (with_reducible apply kept_settleTask)
        · apply kept_ite
          · repeat' first | (with_reducible assumption) | (with_reducible apply kept_finish) | (with_reducible apply kept_enterReady)
          · repeat' first | (with_reducible assumption) | (with_reducible apply kept_putTask)
      · rename_i a_12
        repeat' first | (with_reducible assumption) | (with_reducible apply kept_finish) | (with_reducible apply kept_skip)
      · rename_i a_13
        apply kept_ite
        · repeat' first | (with_reducible assumption) | (with_reducible apply kept_finish) | (with_reducible apply kept_skip)
        · repeat' first | (with_reducible assumption) | (with_reducible apply kept_finish) | (with_reducible apply kept_enterReady)
      · rename_i a_14 a_15 a_16 a_17
        repeat' first | (with_reducible assumption) | (with_reducible apply kept_finish) | (with_reducible apply kept_skip) | (with_reducible apply kept_escalate)

theorem kept_runOver {s0 s : State} (h : Kept s0 s) : ∀ x0, Kept s0 (runOver s x0) := by
  intro x0
  unfold runOver
  split
  · assumption
  · extract_lets -merge -useContext -underBinder s1_1
    have h_s1_1 : Kept s0 s1_1 := by
      unfold s1_1
      repeat' first | (with_reducible assumption) | (with_reducible apply kept_bump) | (with_reducible apply kept_cellMiss) | (with_reducible apply kept_putTask) | simp only [kept_mk_iff]
    try clear_value s1_1
    apply kept_ite
    · repeat' first | (with_reducible assumption) | (with_reducible apply kept_escalate)
    · assumption

theorem kept_haltEnd {s0 s : State} (h : Kept s0 s) : ∀ x0, Kept s0 (haltEnd s x0) := by
  intro x0
  unfold haltEnd
  split
  · assumption
  · split
    · apply kept_ite
      · repeat' first | (with_reducible assumption) | (with_reducible apply kept_complete) | (with_reducible apply kept_raise) | (with_reducible apply kept_wrF)
      · assumption
    · assumption

theorem kept_execDeadlineCheck {s0 s : State} (h : Kept s0 s) : ∃ t, execDeadlineCheck s = .next t ∧ Kept s0 t := by
  refine ⟨_, rfl, ?_⟩
  extract_lets -merge -useContext -underBinder older_1 late_2 past_3 s1_4 s2_5 s3_6 rest_7 s4_8
  try clear_value older_1
  try clear_value late_2
  try clear_value past_3
  have h_s1_4 : Kept s0 s1_4 := by
    unfold s1_4
    repeat' first | (with_reducible assumption) | (with_reducible apply kept_lateAction) | (with_reducible apply kept_foldl) | (with_reducible apply keptP_foldl) | (with_reducible apply KeptP.one) | dsimp only | intro _ _ _
  try clear_value s1_4
  have h_s2_5 : Kept s0 s2_5 := by
    unfold s2_5
    repeat' first | (with_reducible assumption) | (with_reducible apply kept_runOver) | (with_reducible apply kept_foldl) | (with_reducible apply keptP_foldl) | (with_reducible apply KeptP.one) | (with_reducible apply KeptQ.one) | dsimp only | intro _ _ _
  try clear_value s2_5
  have h_s3_6 : Kept s0 s3_6 := by
    unfold s3_6
    repeat' first | (with_reducible assumption) | (with_reducible apply kept_haltEnd) | (with_reducible apply kept_foldl) | (with_reducible apply keptP_foldl) | (with_reducible apply KeptP.one) | dsimp only | intro _ _ _
  try clear_value s3_6
  try clear_value rest_7
  have h_s4_8 : Kept s0 s4_8 := by
    unfold s4_8
    repeat' first | (with_reducible assumption) | (with_reducible apply kept_modTask) | (with_reducible apply kept_foldl) | (with_reducible apply keptP_foldl) | (with_reducible apply KeptP.one) | simp only [kept_mk_iff] | dsimp only | intro _ _ _
  try clear_value s4_8
  repeat' first | (with_reducible assumption) | (with_reducible apply kept_bump) | (with_reducible apply kept_raiseIf)

theorem kept_execGvLoadUpdate {s0 s : State} (h : Kept s0 s) : ∀ x0, ∃ t, execGvLoadUpdate x0 s = .next t ∧ Kept s0 t := by
  intro x0
  refine ⟨_, rfl, ?_⟩
  repeat' first | (with_reducible assumption) | (with_reducible apply kept_drawFree) | (with_reducible apply kept_wr) | (with_reducible apply kept_ite) | (with_reducible apply keptQ_ite) | (with_reducible apply kept_foldl) | (with_reducible apply keptP_foldl) | (with_reducible apply KeptP.one) | (with_reducible apply KeptQ.one) | (with_reducible apply KeptD.one) | (with_reducible apply KeptH.one) | (with_reducible apply KeptF.one) | simp only [kept_mk_iff] | split | dsimp only | intro _ _ _ | (with_reducible apply keptP_mk) | (with_reducible apply keptQ_mk)

theorem kept_setSpare {s0 s : State} (h : Kept s0 s) : ∀ x0 x1, Kept s0 (setSpare s x0 x1) := by
  intro x0 x1
  unfold setSpare
  repeat' first | (with_reducible assumption) | (with_reducible apply kept_capSync) | (with_reducible apply kept_spareSync) | (with_reducible apply kept_wrB)

theorem kept_designate {s0 s : State} (h : Kept s0 s) : Kept s0 (designate s) := by
  unfold designate
  repeat' first | (with_reducible assumption) | (with_reducible apply kept_setSpare) | (with_reducible apply kept_spareSync) | (with_reducible apply kept_foldl) | (with_reducible apply keptP_foldl) | dsimp only | intro _ _ _

theorem kept_releaseSpares {s0 s : State} (h : Kept s0 s) : Kept s0 (releaseSpares s) := by
  unfold releaseSpares
  repeat' first | (with_reducible assumption) | (with_reducible apply kept_setSpare) | (with_reducible apply kept_spareSync) | (with_reducible apply kept_foldl) | (with_reducible apply keptP_foldl) | dsimp only | intro _ _ _

theorem kept_spareStartup {s0 s : State} (h : Kept s0 s) : Kept s0 (spareStartup s) := by
  unfold spareStartup
  apply kept_ite
  · assumption
  · repeat' first | (with_reducible assumption) | (with_reducible apply kept_designate) | (with_reducible apply kept_setGov) | simp only [kept_mk_iff]

theorem kept_execSpareDesignateStartup {s0 s : State} (h : Kept s0 s) : ∃ t, execSpareDesignateStartup s = .next t ∧ Kept s0 t := by
  refine ⟨_, rfl, ?_⟩
  repeat' first | (with_reducible assumption) | (with_reducible apply kept_spareStartup)

theorem kept_lookBench {s0 a : State} (h : Kept s0 a) (s : State) (b : Nat) : Kept s0 (lookBench s a b) := by
  unfold lookBench
  extract_lets tasks l
  clear_value l
  split
  · exact kept_wrB h ..
  · exact kept_wr (kept_wrB h ..) ..

theorem kept_wakeReady {s0 s : State} (h : Kept s0 s) : Kept s0 (wakeReady s) := by
  unfold wakeReady
  refine kept_foldl _ ?_ _ ?_
  · intro a_1 x_2 h_3
    repeat' first | (with_reducible assumption) | (with_reducible apply kept_wakeDomain)
  · repeat' first | (with_reducible assumption)

theorem kept_execLookaheadRecompute {s0 s : State} (h : Kept s0 s) : ∃ t, execLookaheadRecompute s = .next t ∧ Kept s0 t := by
  unfold execLookaheadRecompute
  refine ⟨_, rfl, ?_⟩
  apply kept_wakeReady
  refine kept_foldl _ ?_ _ ?_
  · intro a_1 x_2 h_3
    repeat' first | (with_reducible assumption) | (with_reducible apply kept_lookBench)
  · repeat' first | (with_reducible assumption)

theorem kept_execTaskCompletion {s0 s : State} (h : Kept s0 s) : ∃ t, execTaskCompletion s = .next t ∧ Kept s0 t := by
  unfold execTaskCompletion
  refine ⟨_, rfl, ?_⟩
  repeat' first | (with_reducible assumption) | (with_reducible apply kept_wakeReady) | (with_reducible apply kept_takeCompletion)

theorem kept_execDelayRelease {s0 s : State} (h : Kept s0 s) : ∃ t, execDelayRelease s = .next t ∧ Kept s0 t := by
  unfold execDelayRelease
  refine ⟨_, rfl, ?_⟩
  repeat' first | (with_reducible assumption) | (with_reducible apply kept_wakeReady) | (with_reducible apply kept_delayRelease)

theorem kept_execEraseDone {s0 s : State} (h : Kept s0 s) : ∀ x0 x1, ∃ t, execEraseDone x0 x1 s = .next t ∧ Kept s0 t := by
  intro x0 x1
  unfold execEraseDone
  refine ⟨_, rfl, ?_⟩
  repeat' first | (with_reducible assumption) | (with_reducible apply kept_settled) | (with_reducible apply kept_wakeReady) | (with_reducible apply kept_eraseDone)

theorem kept_execInstanceCreated {s0 s : State} (h : Kept s0 s) : ∃ t, execInstanceCreated s = .next t ∧ Kept s0 t := by
  unfold execInstanceCreated
  refine ⟨_, rfl, ?_⟩
  repeat' first | (with_reducible assumption) | (with_reducible apply kept_wakeReady) | (with_reducible apply kept_creationEnd)

theorem kept_execRemoteCompletionRx {s0 s : State} (h : Kept s0 s) : ∀ x0 x1 x2 x3 x4 x5, ∃ t, execRemoteCompletionRx x0 x1 x2 x3 x4 x5 s = .next t ∧ Kept s0 t := by
  intro x0 x1 x2 x3 x4 x5
  unfold execRemoteCompletionRx
  refine ⟨_, rfl, ?_⟩
  split
  rename_i a_1 a_2 a_3 e_4
  have h_a_2 : Kept s0 a_2 := by
    apply KeptP.eq (e := e_4)
    repeat' first | (with_reducible assumption) | (with_reducible apply kept_remoteTake)
  clear e_4
  repeat' first | (with_reducible assumption) | (with_reducible apply kept_wakeReady) | (with_reducible apply kept_setCord) | (with_reducible apply keptP_mk) | (with_reducible apply keptQ_mk)

theorem kept_govPolicyApply {s0 s : State} (h : Kept s0 s) : ∀ x0, Kept s0 (govPolicyApply s x0) := by
  intro x0
  unfold govPolicyApply
  extract_lets -merge -useContext -underBinder p_1 old_2 s1_3 s2_4
  try clear_value p_1
  try clear_value old_2
  have h_s1_3 : Kept s0 s1_3 := by
    unfold s1_3
    repeat' first | (with_reducible assumption) | (with_reducible apply kept_setGov) | simp only [kept_mk_iff]
  try clear_value s1_3
  have h_s2_4 : Kept s0 s2_4 := by
    unfold s2_4
    apply kept_ite
    · assumption
    · apply kept_ite
      · repeat' first | (with_reducible assumption) | (with_reducible apply kept_designate)
      · apply kept_ite
        · repeat' first | (with_reducible assumption) | (with_reducible apply kept_releaseSpares)
        · assumption
  try clear_value s2_4
  repeat' first | (with_reducible assumption) | (with_reducible apply kept_capSync) | (with_reducible apply kept_spareSync)

theorem kept_placeExclude {s0 s : State} (h : Kept s0 s) : ∀ x0, KeptD s0 (placeExclude x0 s) := by
  intro x0
  unfold placeExclude
  extract_lets -merge -useContext -underBinder w_1 pool_2 mask_3 b_4 h_5 set_6 named_7 put_8
  try clear_value w_1
  try clear_value pool_2
  try clear_value mask_3
  try clear_value b_4
  try clear_value h_5
  try clear_value set_6
  try clear_value named_7
  try clear_value put_8
  apply keptD_ite
  · repeat' first | (with_reducible assumption) | (with_reducible apply kept_done) | (with_reducible apply kept_done)
  · apply keptD_ite
    · apply keptD_ite
      · repeat' first | (with_reducible assumption) | (with_reducible apply kept_done) | (with_reducible apply kept_done)
      · repeat' first | (with_reducible assumption) | (with_reducible apply kept_done) | (with_reducible apply kept_setGov) | (with_reducible apply kept_done) | simp only [kept_mk_iff]
    · apply keptD_ite
      · repeat' first | (with_reducible assumption) | (with_reducible apply kept_done) | (with_reducible apply kept_done)
      · repeat' first | (with_reducible assumption) | (with_reducible apply kept_done) | (with_reducible apply kept_setGov) | (with_reducible apply kept_done) | simp only [kept_mk_iff]

theorem kept_govStatus {s0 s : State} (h : Kept s0 s) : ∀ x0, KeptD s0 (govStatus x0 s) := by
  intro x0
  unfold govStatus
  apply keptD_ite
  · repeat' first | (with_reducible assumption) | (with_reducible apply kept_done) | (with_reducible apply kept_done)
  · repeat' first | (with_reducible assumption) | (with_reducible apply kept_doneW) | (with_reducible apply kept_doneW)

theorem kept_govCellStats {s0 s : State} (h : Kept s0 s) : ∀ x0, KeptD s0 (govCellStats x0 s) := by
  intro x0
  unfold govCellStats
  apply keptD_ite
  · repeat' first | (with_reducible assumption) | (with_reducible apply kept_done) | (with_reducible apply kept_done)
  · split
    · repeat' first | (with_reducible assumption) | (with_reducible apply kept_done) | (with_reducible apply kept_done)
    · extract_lets -merge -useContext -underBinder ts_1 loads_2
      try clear_value ts_1
      try clear_value loads_2
      repeat' first | (with_reducible assumption) | (with_reducible apply kept_doneW) | (with_reducible apply kept_doneW) | (with_reducible apply KeptP.one) | (with_reducible apply KeptQ.one) | simp only [kept_mk_iff] | dsimp only | intro _ _ _ | (with_reducible apply keptP_mk) | (with_reducible apply keptQ_mk)

end Sys2Proof.Machine
end

