-- ==== Sys2Proof/Laws/KeptLace.lean ====
section
/-! SUPPORT. What each operation of Machine/Lace.lean keeps. -/

set_option linter.unreachableTactic false
set_option linter.unusedTactic false
set_option linter.unusedSimpArgs false
set_option linter.unusedVariables false

namespace Sys2Proof.Machine

theorem kept_laneAfresh {s0 s : State} (h : Kept s0 s) : ∀ x0, Kept s0 (laneAfresh s x0) := by
  intro x0
  unfold laneAfresh
  apply kept_ite
  · repeat' first | (with_reducible assumption) | (with_reducible apply kept_retrainLane)
  · apply kept_ite
    · repeat' first | (with_reducible assumption) | (with_reducible apply kept_beginAttempt)
    · repeat' first | (with_reducible assumption)

theorem kept_portAfresh {s0 s : State} (h : Kept s0 s) : ∀ x0, Kept s0 (portAfresh s x0) := by
  intro x0
  unfold portAfresh
  apply kept_portSync
  apply kept_ite
  · repeat' first | (with_reducible assumption) | (with_reducible apply kept_setPortState) | (with_reducible apply kept_linkDrop)
  · repeat' first | (with_reducible assumption)

theorem kept_closeGroup {s0 s : State} (h : Kept s0 s) : ∀ x0, Kept s0 (closeGroup s x0) := by
  intro x0
  unfold closeGroup
  extract_lets -merge -useContext -underBinder s1_1 s2_2 s3_3
  have h_s1_1 : Kept s0 s1_1 := by
    unfold s1_1
    repeat' first | (with_reducible assumption) | (with_reducible apply kept_wrB)
  try clear_value s1_1
  have h_s2_2 : Kept s0 s2_2 := by
    unfold s2_2
    repeat' first | (with_reducible assumption) | (with_reducible apply kept_setLace)
  try clear_value s2_2
  have h_s3_3 : Kept s0 s3_3 := by
    unfold s3_3
    refine kept_foldl _ ?_ _ ?_
    · intro a_4 x_5 h_6
      repeat' first | (with_reducible assumption) | (with_reducible apply kept_laneAfresh)
    · repeat' first | (with_reducible assumption)
  try clear_value s3_3
  apply kept_hoistFix
  refine kept_foldl _ ?_ _ ?_
  · intro a_7 x_8 h_9
    repeat' first | (with_reducible assumption) | (with_reducible apply kept_linkSync)
  · refine kept_foldl _ ?_ _ ?_
    · intro a_10 x_11 h_12
      repeat' first | (with_reducible assumption) | (with_reducible apply kept_portAfresh)
    · repeat' first | (with_reducible assumption)

theorem kept_closeAll {s0 s : State} (h : Kept s0 s) : Kept s0 (closeAll s) := by
  unfold closeAll
  repeat' first | (with_reducible assumption) | (with_reducible apply kept_closeGroup) | (with_reducible apply kept_ite) | (with_reducible apply kept_foldl) | (with_reducible apply keptP_foldl) | split | dsimp only | intro _ _ _

theorem kept_becomeJoined {s0 s : State} (h : Kept s0 s) : ∀ x0 x1 x2 x3, Kept s0 (becomeJoined s x0 x1 x2 x3) := by
  intro x0 x1 x2 x3
  unfold becomeJoined
  extract_lets -merge -useContext -underBinder s1_1
  have h_s1_1 : Kept s0 s1_1 := by
    unfold s1_1
    repeat' first | (with_reducible assumption) | (with_reducible apply kept_wrB) | (with_reducible apply kept_wrF)
  try clear_value s1_1
  repeat' first | (with_reducible assumption) | (with_reducible apply kept_raise) | (with_reducible apply kept_wr) | simp only [kept_mk_iff] | dsimp only | intro _ _ _ | (with_reducible apply keptP_mk) | (with_reducible apply keptQ_mk)

theorem kept_becomeLeft {s0 s : State} (h : Kept s0 s) : Kept s0 (becomeLeft s) := by
  unfold becomeLeft
  extract_lets -merge -useContext -underBinder s1_1 s2_2 s3_3
  have h_s1_1 : Kept s0 s1_1 := by
    unfold s1_1
    repeat' first | (with_reducible assumption) | (with_reducible apply kept_wr)
  try clear_value s1_1
  have h_s2_2 : Kept s0 s2_2 := by
    unfold s2_2
    repeat' first | (with_reducible assumption) | (with_reducible apply kept_wr) | (with_reducible apply kept_loseRef)
  try clear_value s2_2
  have h_s3_3 : Kept s0 s3_3 := by
    unfold s3_3
    refine kept_foldl _ ?_ _ ?_
    · intro a_4 x_5 h_6
      repeat' first | (with_reducible assumption) | (with_reducible apply kept_wrB)
    · repeat' first | (with_reducible assumption)
  try clear_value s3_3
  repeat' first | (with_reducible assumption) | (with_reducible apply kept_raise) | (with_reducible apply kept_setLace)

theorem kept_beMasthead {s0 s : State} (h : Kept s0 s) : Kept s0 (beMasthead s) := by
  unfold beMasthead
  extract_lets -merge -useContext -underBinder s1_1
  have h_s1_1 : Kept s0 s1_1 := by
    unfold s1_1
    repeat' first | (with_reducible assumption) | (with_reducible apply kept_wrB) | (with_reducible apply kept_setLace) | (with_reducible apply kept_foldl) | (with_reducible apply keptP_foldl) | dsimp only | intro _ _ _
  try clear_value s1_1
  repeat' first | (with_reducible assumption) | (with_reducible apply kept_considerRefs) | (with_reducible apply kept_wrB) | (with_reducible apply kept_wr)

theorem kept_joinEnd {s0 s : State} (h : Kept s0 s) : ∀ x0 x1, Kept s0 (joinEnd s x0 x1) := by
  intro x0 x1
  unfold joinEnd
  repeat' first | (with_reducible assumption) | (with_reducible apply kept_endHeld) | (with_reducible apply kept_setLace) | (with_reducible apply kept_ite) | simp only [kept_mk_iff] | split

theorem kept_setJoin {s0 s : State} (h : Kept s0 s) : ∀ x0, Kept s0 (setJoin s x0) := by
  intro x0
  unfold setJoin
  repeat' first | (with_reducible assumption) | (with_reducible apply kept_setLace) | simp only [kept_mk_iff]

theorem kept_joinRest {s0 s : State} (h : Kept s0 s) : ∀ x0, Kept s0 (joinRest s x0) := by
  intro x0
  unfold joinRest
  split
  · repeat' first | (with_reducible assumption) | (with_reducible apply kept_joinEnd)
  · repeat' first | (with_reducible assumption) | (with_reducible apply kept_setJoin) | (with_reducible apply kept_setLace) | simp only [kept_mk_iff]

theorem kept_joinAsk {s0 s : State} (h : Kept s0 s) : ∀ x0, Kept s0 (joinAsk s x0) := by
  intro x0
  unfold joinAsk
  repeat' first | (with_reducible assumption) | (with_reducible apply kept_laceMsg) | (with_reducible apply kept_setJoin) | simp only [kept_mk_iff] | dsimp only | intro _ _ _ | (with_reducible apply keptP_mk) | (with_reducible apply keptQ_mk)

theorem kept_sayLeave {s0 s : State} (h : Kept s0 s) : ∀ x0, Kept s0 (sayLeave s x0) := by
  intro x0
  unfold sayLeave
  repeat' first | (with_reducible assumption) | (with_reducible apply kept_sendBlock) | (with_reducible apply kept_ite) | (with_reducible apply kept_foldl) | (with_reducible apply keptP_foldl) | split | dsimp only | intro _ _ _

theorem kept_endPort {s0 s : State} (h : Kept s0 s) : ∀ x0, Kept s0 (endPort s x0) := by
  intro x0
  unfold endPort
  apply kept_ite
  · repeat' first | (with_reducible assumption) | (with_reducible apply kept_linkLost)
  · apply kept_ite
    · apply kept_portAfresh
      refine kept_foldl _ ?_ _ ?_
      · intro a_1 x_2 h_3
        repeat' first | (with_reducible assumption) | (with_reducible apply kept_laneAfresh)
      · repeat' first | (with_reducible assumption)
    · repeat' first | (with_reducible assumption)

theorem kept_leaveDomain {s0 s : State} (h : Kept s0 s) : Kept s0 (leaveDomain s) := by
  unfold leaveDomain
  apply kept_becomeLeft
  refine kept_foldl _ ?_ _ ?_
  · intro a_1 x_2 h_3
    repeat' first | (with_reducible assumption) | (with_reducible apply kept_endPort)
  · repeat' first | (with_reducible assumption)

theorem kept_startLeave {s0 s : State} (h : Kept s0 s) : ∀ x0 x1, Kept s0 (startLeave s x0 x1) := by
  intro x0 x1
  unfold startLeave
  extract_lets -merge -useContext -underBinder s1_1
  have h_s1_1 : Kept s0 s1_1 := by
    unfold s1_1
    refine kept_foldl _ ?_ _ ?_
    · intro a_2 x_3 h_4
      repeat' first | (with_reducible assumption) | (with_reducible apply kept_sayLeave)
    · repeat' first | (with_reducible assumption)
  try clear_value s1_1
  repeat' first | (with_reducible assumption) | (with_reducible apply kept_setLace)

theorem kept_leavesEnd {s0 s : State} (h : Kept s0 s) : Kept s0 (leavesEnd s) := by
  unfold leavesEnd
  apply kept_ite
  · repeat' first | (with_reducible assumption)
  · extract_lets -merge -useContext -underBinder s1_1
    have h_s1_1 : Kept s0 s1_1 := by
      unfold s1_1
      apply kept_ite
      · repeat' first | (with_reducible assumption) | (with_reducible apply kept_leaveDomain) | (with_reducible apply kept_setLace)
      · repeat' first | (with_reducible assumption)
    try clear_value s1_1
    refine kept_foldl _ ?_ _ ?_
    · intro a_2 x_3 h_4
      repeat' first | (with_reducible assumption) | (with_reducible apply kept_endHeld)
    · repeat' first | (with_reducible assumption)

theorem kept_departed {s0 s : State} (h : Kept s0 s) : ∀ x0, Kept s0 (departed s x0) := by
  intro x0
  unfold departed
  apply kept_ite
  · repeat' first | (with_reducible assumption)
  · repeat' first | (with_reducible assumption) | (with_reducible apply kept_setLace) | (with_reducible apply KeptP.one)

theorem kept_laceJoin {s0 s : State} (h : Kept s0 s) : ∀ x0, KeptD s0 (laceJoin x0 s) := by
  intro x0
  unfold laceJoin
  extract_lets -merge -useContext -underBinder w_1 strap_2 groups_3 path_4 j_5 s1_6
  try clear_value w_1
  try clear_value strap_2
  try clear_value groups_3
  try clear_value path_4
  try clear_value j_5
  have h_s1_6 : Kept s0 s1_6 := by
    unfold s1_6
    repeat' first | (with_reducible assumption) | (with_reducible apply kept_beMasthead) | (with_reducible apply kept_becomeJoined)
  try clear_value s1_6
  apply keptD_ite
  · repeat' first | (with_reducible assumption) | (with_reducible apply kept_done) | (with_reducible apply kept_done)
  · apply keptD_ite
    · repeat' first | (with_reducible assumption) | (with_reducible apply kept_done) | (with_reducible apply kept_done)
    · apply keptD_ite
      · apply keptD_ite
        · repeat' first | (with_reducible assumption) | (with_reducible apply kept_done) | (with_reducible apply kept_setLace) | (with_reducible apply kept_done) | simp only [kept_mk_iff]
        · repeat' first | (with_reducible assumption) | (with_reducible apply kept_holding) | (with_reducible apply kept_joinRest) | (with_reducible apply kept_holding)
      · apply keptD_ite
        · repeat' first | (with_reducible assumption) | (with_reducible apply kept_holding) | (with_reducible apply kept_joinAsk) | (with_reducible apply kept_holding)
        · split
          · repeat' first | (with_reducible assumption) | (with_reducible apply kept_done) | (with_reducible apply kept_done)
          · repeat' first | (with_reducible assumption) | (with_reducible apply kept_holding) | (with_reducible apply kept_setJoin) | (with_reducible apply kept_setLace) | (with_reducible apply kept_holding) | simp only [kept_mk_iff]

theorem kept_execJoinRequestRx {s0 s : State} (h : Kept s0 s) : ∀ x0 x1 x2, ∃ t, execJoinRequestRx x0 x1 x2 s = .next t ∧ Kept s0 t := by
  intro x0 x1 x2
  unfold execJoinRequestRx
  refine ⟨_, rfl, ?_⟩
  apply kept_ite
  · repeat' first | (with_reducible assumption)
  · extract_lets -merge -useContext -underBinder s1_1 taken_2 s2_3
    have h_s1_1 : Kept s0 s1_1 := by
      unfold s1_1
      refine kept_foldl _ ?_ _ ?_
      · intro a_4 x_5 h_6
        repeat' first | (with_reducible assumption) | (with_reducible apply kept_departed)
      · repeat' first | (with_reducible assumption)
    try clear_value s1_1
    try clear_value taken_2
    have h_s2_3 : Kept s0 s2_3 := by
      unfold s2_3
      apply kept_ite
      · repeat' first | (with_reducible assumption)
      · repeat' first | (with_reducible assumption) | (with_reducible apply kept_setLace) | (with_reducible apply keptP_mk) | (with_reducible apply keptQ_mk)
    try clear_value s2_3
    repeat' first | (with_reducible assumption) | (with_reducible apply kept_laceMsg) | (with_reducible apply keptP_mk) | (with_reducible apply keptQ_mk)

theorem kept_execJoinGrantRx {s0 s : State} (h : Kept s0 s) : ∀ x0 x1 x2 x3, ∃ t, execJoinGrantRx x0 x1 x2 x3 s = .next t ∧ Kept s0 t := by
  intro x0 x1 x2 x3
  unfold execJoinGrantRx
  refine ⟨_, rfl, ?_⟩
  split
  · rename_i a_1 a_2 e_3
    apply kept_ite
    · repeat' first | (with_reducible assumption)
    · apply kept_ite
      · repeat' first | (with_reducible assumption) | (with_reducible apply kept_joinRest) | (with_reducible apply kept_hoistFix) | (with_reducible apply kept_becomeJoined)
      · apply kept_joinEnd
        refine kept_foldl _ ?_ _ ?_
        · intro a_4 x_5 h_6
          repeat' first | (with_reducible assumption) | (with_reducible apply kept_closeGroup)
        · repeat' first | (with_reducible assumption)
  · rename_i a_7 e_8
    apply kept_ite
    · repeat' first | (with_reducible assumption)
    · apply kept_ite
      · apply kept_ite
        · repeat' first | (with_reducible assumption) | (with_reducible apply kept_setLace)
        · repeat' first | (with_reducible assumption) | (with_reducible apply kept_wrF)
      · repeat' first | (with_reducible assumption) | (with_reducible apply kept_leavesEnd) | (with_reducible apply kept_startLeave)

theorem kept_spliceDone {s0 s : State} (h : Kept s0 s) : ∀ x0, Kept s0 (spliceDone s x0) := by
  intro x0
  unfold spliceDone
  extract_lets -merge -useContext -underBinder ps_2 s0_3 s1_4
  try clear_value ps_2
  have h_s0_3 : Kept s0 s0_3 := by
    unfold s0_3
    repeat' first | (with_reducible assumption) | (with_reducible apply kept_setLace) | (with_reducible apply kept_wrB)
  try clear_value s0_3
  have h_s1_4 : Kept s0 s1_4 := by
    unfold s1_4
    apply kept_ite
    · repeat' first | (with_reducible assumption) | (with_reducible apply kept_sayLeave)
    · repeat' first | (with_reducible assumption)
  try clear_value s1_4
  apply kept_ite
  · repeat' first | (with_reducible assumption)
  · split
    · rename_i a_5 e_6
      repeat' first | (with_reducible assumption)
    · rename_i a_7 a_8 e_9
      extract_lets -merge -useContext -underBinder j1_10
      try clear_value j1_10
      apply kept_ite
      · repeat' first | (with_reducible assumption) | (with_reducible apply kept_joinAsk)
      · repeat' first | (with_reducible assumption) | (with_reducible apply kept_joinRest)

theorem kept_spliceCheck {s0 s : State} (h : Kept s0 s) : Kept s0 (spliceCheck s) := by
  unfold spliceCheck
  split
  · repeat' first | (with_reducible assumption) | (with_reducible apply kept_spliceDone)
  · assumption

theorem kept_execHskRx {s0 s : State} (h : Kept s0 s) : ∀ x0 x1, ∃ t, execHskRx x0 x1 s = .next t ∧ Kept s0 t := by
  intro x0 x1
  refine ⟨_, rfl, ?_⟩
  repeat' first | (with_reducible assumption) | (with_reducible apply kept_hoistFix) | (with_reducible apply kept_hskRx) | (with_reducible apply kept_spliceCheck)

theorem kept_resumeTap {s0 s t : State} (h : Kept s0 t) (p : Nat) : Kept s0 (resumeTap s t p) := by
  unfold resumeTap
  split
  · exact h
  · exact kept_foldl _ (fun _ _ ht => kept_modLaneSt ht ..) _ h

theorem kept_execSplice {s0 s : State} (h : Kept s0 s) : ∀ x0 x1 x2, ∃ t, execSplice x0 x1 x2 s = .next t ∧ Kept s0 t := by
  intro x0 x1 x2
  unfold execSplice
  refine ⟨_, rfl, ?_⟩
  extract_lets -merge -useContext -underBinder ps_3 ready_4 s1_5
  try clear_value ps_3
  try clear_value ready_4
  have h_s1_5 : Kept s0 s1_5 := by
    unfold s1_5
    repeat' first | (with_reducible assumption) | (with_reducible apply kept_wrB)
  try clear_value s1_5
  apply kept_ite
  · repeat' first | (with_reducible assumption)
  · refine kept_foldl _ ?_ _ ?_
    · intro a_6 x_7 h_8
      dsimp only
      repeat' first | (with_reducible assumption) | (with_reducible apply kept_sendBlock) | (with_reducible apply kept_modPort) | (with_reducible apply kept_setPortState) | (with_reducible apply kept_resumeTap)
    · repeat' first | (with_reducible assumption)

theorem kept_execSpliceTimeout {s0 s : State} (h : Kept s0 s) : ∀ x0, ∃ t, execSpliceTimeout x0 s = .next t ∧ Kept s0 t := by
  intro x0
  unfold execSpliceTimeout
  refine ⟨_, rfl, ?_⟩
  apply kept_ite
  · repeat' first | (with_reducible assumption)
  · extract_lets -merge -useContext -underBinder s1_1
    have h_s1_1 : Kept s0 s1_1 := by
      unfold s1_1
      repeat' first | (with_reducible assumption) | (with_reducible apply kept_closeGroup)
    try clear_value s1_1
    apply kept_leavesEnd
    split
    · rename_i a_2 e_3
      repeat' first | (with_reducible assumption)
    · rename_i a_4 a_5 e_6
      repeat' first | (with_reducible assumption) | (with_reducible apply kept_joinEnd)

theorem kept_laceLeave {s0 s : State} (h : Kept s0 s) : ∀ x0, KeptD s0 (laceLeave x0 s) := by
  intro x0
  unfold laceLeave
  apply keptD_ite
  · repeat' first | (with_reducible assumption) | (with_reducible apply kept_done) | (with_reducible apply kept_done)
  · apply keptD_ite
    · repeat' first | (with_reducible assumption) | (with_reducible apply kept_done) | (with_reducible apply kept_done)
    · extract_lets -merge -useContext -underBinder w_3 groups_4 s1_5 s2_6
      try clear_value w_3
      try clear_value groups_4
      have h_s1_5 : Kept s0 s1_5 := by
        unfold s1_5
        repeat' first | (with_reducible assumption) | (with_reducible apply kept_startLeave)
      try clear_value s1_5
      have h_s2_6 : Kept s0 s2_6 := by
        unfold s2_6
        apply kept_ite
        · repeat' first | (with_reducible assumption) | (with_reducible apply kept_laceMsg)
        · repeat' first | (with_reducible assumption)
      try clear_value s2_6
      apply keptD_ite
      · repeat' first | (with_reducible assumption) | (with_reducible apply kept_done) | (with_reducible apply kept_done)
      · repeat' first | (with_reducible assumption) | (with_reducible apply kept_leavesEnd) | (with_reducible apply kept_holding)

theorem kept_execBypassCloseLeave {s0 s : State} (h : Kept s0 s) : ∀ x0, ∃ t, execBypassCloseLeave x0 s = .next t ∧ Kept s0 t := by
  intro x0
  refine ⟨_, rfl, ?_⟩
  apply kept_ite
  · assumption
  · repeat' first | (with_reducible assumption) | (with_reducible apply kept_closeGroup) | (with_reducible apply kept_leavesEnd)

theorem kept_adoptEpoch {s0 s : State} (h : Kept s0 s) : ∀ x0 x1, Kept s0 (adoptEpoch s x0 x1) := by
  intro x0 x1
  unfold adoptEpoch
  extract_lets -merge -useContext -underBinder was_1 s1_2 s2_3 s3_4
  try clear_value was_1
  have h_s1_2 : Kept s0 s1_2 := by
    unfold s1_2
    repeat' first | (with_reducible assumption) | (with_reducible apply kept_wr) | (with_reducible apply kept_setLace) | simp only [kept_mk_iff] | dsimp only | intro _ _ _ | (with_reducible apply keptP_mk) | (with_reducible apply keptQ_mk)
  try clear_value s1_2
  have h_s2_3 : Kept s0 s2_3 := by
    unfold s2_3
    apply kept_ite
    · repeat' first | (with_reducible assumption) | (with_reducible apply kept_raise) | (with_reducible apply kept_setLace) | (with_reducible apply kept_wrB) | (with_reducible apply kept_wrF) | simp only [kept_mk_iff]
    · assumption
  try clear_value s2_3
  have h_s3_4 : Kept s0 s3_4 := by
    unfold s3_4
    apply kept_ite
    · repeat' first | (with_reducible assumption) | (with_reducible apply kept_wr)
    · assumption
  try clear_value s3_4
  repeat' first | (with_reducible assumption) | (with_reducible apply kept_laceMsg) | simp only [kept_mk_iff] | dsimp only | intro _ _ _ | (with_reducible apply keptP_mk) | (with_reducible apply keptQ_mk)

theorem kept_halfTc {s0 s : State} (h : Kept s0 s) : ∀ x0, KeptQ s0 (halfTc s x0) := by
  intro x0
  unfold halfTc
  apply keptQ_ite
  · apply keptQ_mk
    assumption
  · split
    · rename_i a0_1 a1_1 e_1
      have h_a1_1 : Kept s0 a1_1 := by
        apply KeptQ.eq (e := e_1)
        repeat' first | (with_reducible assumption) | (with_reducible apply kept_drawFree)
      clear e_1
      apply keptQ_mk
      assumption

theorem kept_hoistMeasure {s0 s : State} (h : Kept s0 s) : ∀ x0 x1 x2, Kept s0 (hoistMeasure s x0 x1 x2) := by
  intro x0 x1 x2
  unfold hoistMeasure
  extract_lets -merge -useContext -underBinder w_1
  try clear_value w_1
  split
  · assumption
  · extract_lets -merge -useContext -underBinder d21_2 d43_3
    try clear_value d21_2
    try clear_value d43_3
    split
    · rename_i a0_4 a1_4 e_4
      have h_a1_4 : Kept s0 a1_4 := by
        apply KeptQ.eq (e := e_4)
        repeat' first | (with_reducible assumption) | (with_reducible apply kept_halfTc)
      clear e_4
      split
      · rename_i a0_5 a1_5 e_5
        have h_a1_5 : Kept s0 a1_5 := by
          apply KeptQ.eq (e := e_5)
          repeat' first | (with_reducible assumption) | (with_reducible apply kept_halfTc)
        clear e_5
        extract_lets -merge -useContext -underBinder s3_6 s4_7 good_8
        have h_s3_6 : Kept s0 s3_6 := by
          unfold s3_6
          repeat' first | (with_reducible assumption) | (with_reducible apply kept_modPort) | simp only [kept_mk_iff]
        try clear_value s3_6
        have h_s4_7 : Kept s0 s4_7 := by
          unfold s4_7
          apply kept_ite
          · repeat' first | (with_reducible assumption) | (with_reducible apply kept_phaseMeasured)
          · assumption
        try clear_value s4_7
        try clear_value good_8
        apply kept_ite
        · repeat' first | (with_reducible assumption) | (with_reducible apply kept_qualifyRef) | (with_reducible apply kept_wrB)
        · assumption

theorem kept_markerTake {s0 s : State} (h : Kept s0 s) : ∀ x0 x1 x2, Kept s0 (markerTake s x0 x1 x2) := by
  intro x0 x1 x2
  unfold markerTake
  extract_lets -merge -useContext -underBinder w_1 mh_2 ep_3 s1_4 s2_5 s3_6 old_7 beat_8 alike_9 s4_10 s5_11
  try clear_value w_1
  try clear_value mh_2
  try clear_value ep_3
  have h_s1_4 : Kept s0 s1_4 := by
    unfold s1_4
    repeat' first | (with_reducible assumption) | (with_reducible apply kept_modPort) | simp only [kept_mk_iff] | dsimp only | intro _ _ _ | (with_reducible apply keptP_mk) | (with_reducible apply keptQ_mk)
  try clear_value s1_4
  have h_s2_5 : Kept s0 s2_5 := by
    unfold s2_5
    repeat' first | (with_reducible assumption) | (with_reducible apply kept_wrB) | (with_reducible apply kept_wrF)
  try clear_value s2_5
  have h_s3_6 : Kept s0 s3_6 := by
    unfold s3_6
    apply kept_ite
    · repeat' first | (with_reducible assumption) | (with_reducible apply kept_adoptEpoch)
    · assumption
  try clear_value s3_6
  try clear_value old_7
  try clear_value beat_8
  try clear_value alike_9
  have h_s4_10 : Kept s0 s4_10 := by
    unfold s4_10
    repeat' first | (with_reducible assumption) | (with_reducible apply kept_modPort) | (with_reducible apply kept_ite) | simp only [kept_mk_iff] | split | dsimp only | intro _ _ _ | (with_reducible apply keptP_mk) | (with_reducible apply keptQ_mk)
  try clear_value s4_10
  have h_s5_11 : Kept s0 s5_11 := by
    unfold s5_11
    repeat' first | (with_reducible assumption) | (with_reducible apply kept_hoistFix)
  try clear_value s5_11
  apply kept_ite
  · assumption
  · apply kept_ite
    · repeat' first | (with_reducible assumption) | (with_reducible apply kept_modPort) | simp only [kept_mk_iff]
    · apply kept_ite
      · assumption
      · repeat' first | (with_reducible assumption) | (with_reducible apply kept_hoistMeasure) | (with_reducible apply kept_setLace) | (with_reducible apply kept_takeDepth) | simp only [kept_mk_iff]

theorem kept_execMarkerRx {s0 s : State} (h : Kept s0 s) : ∀ x0 x1 x2, ∃ t, execMarkerRx x0 x1 x2 s = .next t ∧ Kept s0 t := by
  intro x0 x1 x2
  unfold execMarkerRx
  refine ⟨_, rfl, ?_⟩
  split
  rename_i a_1 a_2 a_3 e_4
  have h_a_2 : Kept s0 a_2 := by
    apply KeptP.eq (e := e_4)
    repeat' first | (with_reducible assumption) | (with_reducible apply kept_recvBlock)
  clear e_4
  extract_lets -merge -useContext -underBinder copy_5 s2_6
  try clear_value copy_5
  have h_s2_6 : Kept s0 s2_6 := by
    unfold s2_6
    apply kept_ite
    · repeat' first | (with_reducible assumption) | (with_reducible apply kept_periodEnd)
    · repeat' first | (with_reducible assumption)
  try clear_value s2_6
  apply kept_ite
  · repeat' first | (with_reducible assumption)
  · apply kept_ite
    · repeat' first | (with_reducible assumption) | (with_reducible apply kept_modPort)
    · repeat' first | (with_reducible assumption) | (with_reducible apply kept_markerTake)

theorem kept_execHoistLost {s0 s : State} (h : Kept s0 s) : ∃ t, execHoistLost s = .next t ∧ Kept s0 t := by
  refine ⟨_, rfl, ?_⟩
  extract_lets -merge -useContext -underBinder s1_1
  have h_s1_1 : Kept s0 s1_1 := by
    unfold s1_1
    split
    · repeat' first | (with_reducible assumption) | (with_reducible apply kept_modPort) | simp only [kept_mk_iff]
    · assumption
  try clear_value s1_1
  apply kept_ite
  · assumption
  · repeat' first | (with_reducible assumption) | (with_reducible apply kept_loseRef) | (with_reducible apply kept_raise) | (with_reducible apply kept_selectUp) | (with_reducible apply kept_wrB)

theorem kept_execMhFailover {s0 s : State} (h : Kept s0 s) : ∃ t, execMhFailover s = .next t ∧ Kept s0 t := by
  unfold execMhFailover
  refine ⟨_, rfl, ?_⟩
  apply kept_ite
  · repeat' first | (with_reducible assumption)
  · extract_lets -merge -useContext -underBinder s1_1
    have h_s1_1 : Kept s0 s1_1 := by
      unfold s1_1
      repeat' first | (with_reducible assumption) | (with_reducible apply kept_wrF) | (with_reducible apply kept_wr) | (with_reducible apply keptP_mk) | (with_reducible apply keptQ_mk)
    try clear_value s1_1
    repeat' first | (with_reducible assumption) | (with_reducible apply kept_raise) | (with_reducible apply kept_beMasthead)

theorem kept_execHoistAlignStep {s0 s : State} (h : Kept s0 s) : ∃ t, execHoistAlignStep s = .next t ∧ Kept s0 t := by
  refine ⟨_, rfl, ?_⟩
  extract_lets -merge -useContext -underBinder s1_1 n_2
  have h_s1_1 : Kept s0 s1_1 := by
    unfold s1_1
    repeat' first | (with_reducible assumption) | (with_reducible apply kept_setLace) | simp only [kept_mk_iff]
  try clear_value s1_1
  try clear_value n_2
  apply kept_ite
  · assumption
  · apply kept_ite
    · assumption
    · repeat' first | (with_reducible assumption) | (with_reducible apply kept_timeStep) | (with_reducible apply KeptD.one)

theorem kept_bootRequest {s0 s : State} (h : Kept s0 s) : ∀ x0, Kept s0 (bootRequest s x0) := by
  intro x0
  unfold bootRequest
  split
  · apply kept_ite
    · assumption
    · apply kept_ite
      · repeat' first | (with_reducible assumption) | (with_reducible apply kept_laceMsg) | (with_reducible apply kept_foldl) | (with_reducible apply keptP_foldl) | (with_reducible apply KeptP.one) | (with_reducible apply KeptQ.one) | dsimp only | intro _ _ _
      · repeat' first | (with_reducible assumption) | (with_reducible apply kept_laceMsg) | (with_reducible apply KeptP.one)
  · assumption

theorem kept_cordMessage {s0 s : State} (h : Kept s0 s) : ∀ x0, Kept s0 (cordMessage s x0) := by
  intro x0
  unfold cordMessage
  extract_lets -merge -useContext -underBinder ws_1
  try clear_value ws_1
  apply kept_ite
  · repeat' first | (with_reducible assumption)
  · apply kept_ite
    · repeat' first | (with_reducible assumption) | (with_reducible apply kept_ackTake)
    · split
      rename_i a_2 a_3 a_4 e_5
      have h_a_3 : Kept s0 a_3 := by
        apply KeptP.eq (e := e_5)
        repeat' first | (with_reducible assumption) | (with_reducible apply kept_remoteTake)
      clear e_5
      extract_lets -merge -useContext -underBinder dev_6
      try clear_value dev_6
      repeat' first | (with_reducible assumption) | (with_reducible apply kept_wakeReady) | (with_reducible apply kept_laceBack)

theorem kept_remoteDeliver {s0 s : State} (h : Kept s0 s) : ∀ x0 x1, Kept s0 (remoteDeliver s x0 x1) := by
  intro x0 x1
  unfold remoteDeliver
  split
  · rename_i a_1 e_2
    repeat' first | (with_reducible assumption) | (with_reducible apply kept_setFab)
  · rename_i a_3 e_4
    apply kept_ite
    · repeat' first | (with_reducible assumption) | (with_reducible apply kept_cordMessage)
    · apply kept_ite
      · repeat' first | (with_reducible assumption) | (with_reducible apply kept_departed)
      · repeat' first | (with_reducible assumption) | (with_reducible apply kept_bootRequest)
  · rename_i a_5 a_6 a_7
    split
    · rename_i a_8 e_9
      apply kept_ite
      · repeat' first | (with_reducible assumption) | (with_reducible apply kept_bump)
      · repeat' first | (with_reducible assumption) | (with_reducible apply kept_respond)
    · rename_i a_10 a_11 e_12
      extract_lets -merge -useContext -underBinder n_13
      try clear_value n_13
      split
      · rename_i a_14 a_15 e_16
        repeat' first | (with_reducible assumption) | (with_reducible apply kept_respond)
      · rename_i a_17 e_18
        repeat' first | (with_reducible assumption) | (with_reducible apply kept_respond) | (with_reducible apply kept_noteMiss)
      · rename_i a_19 e_20
        repeat' first | (with_reducible assumption) | (with_reducible apply kept_respond)
      · rename_i a_21 e_22
        repeat' first | (with_reducible assumption) | (with_reducible apply kept_respond)
      · rename_i a_23 e_24
        repeat' first | (with_reducible assumption) | (with_reducible apply kept_respond) | (with_reducible apply kept_noteFenced)
      · rename_i a_25 a_26 a_27 e_28
        extract_lets -merge -useContext -underBinder x_29
        try clear_value x_29
        repeat' first | (with_reducible assumption) | (with_reducible apply kept_regulate)

theorem kept_remotePacket {s0 s : State} (h : Kept s0 s) : ∀ x0 x1, Kept s0 (remotePacket s x0 x1) := by
  intro x0 x1
  unfold remotePacket
  extract_lets -merge -useContext -underBinder h_1 q_2 onward_3 unreachable_4
  try clear_value h_1
  try clear_value q_2
  apply kept_ite
  · repeat' first | (with_reducible assumption) | unfold onward_3 | unfold unreachable_4 | (with_reducible apply kept_laceTx) | (with_reducible apply kept_remoteDeliver) | (with_reducible apply kept_respond) | (with_reducible apply kept_ite) | simp only [kept_mk_iff] | split
  · apply kept_ite
    · split
      · apply kept_ite
        · repeat' first | (with_reducible assumption) | unfold onward_3 | unfold unreachable_4 | (with_reducible apply kept_laceTx) | (with_reducible apply kept_respond) | (with_reducible apply kept_ite) | simp only [kept_mk_iff] | split
        · repeat' first | (with_reducible assumption) | unfold onward_3 | unfold unreachable_4 | (with_reducible apply kept_bump) | (with_reducible apply kept_laceTx) | (with_reducible apply kept_respond) | (with_reducible apply kept_ite) | simp only [kept_mk_iff] | split
      · repeat' first | (with_reducible assumption) | unfold onward_3 | unfold unreachable_4 | (with_reducible apply kept_bump) | (with_reducible apply kept_laceTx) | (with_reducible apply kept_respond) | (with_reducible apply kept_ite) | simp only [kept_mk_iff] | split
    · apply kept_ite
      · repeat' first | (with_reducible assumption) | unfold onward_3 | unfold unreachable_4 | (with_reducible apply kept_laceTx) | (with_reducible apply kept_respond) | (with_reducible apply kept_ite) | simp only [kept_mk_iff] | split
      · apply kept_ite
        · split
          · repeat' first | (with_reducible assumption) | unfold onward_3 | unfold unreachable_4 | (with_reducible apply kept_laceTx) | (with_reducible apply kept_respond) | (with_reducible apply kept_ite) | simp only [kept_mk_iff] | split
          · repeat' first | (with_reducible assumption) | unfold onward_3 | unfold unreachable_4 | (with_reducible apply kept_laceTx) | (with_reducible apply kept_respond) | (with_reducible apply kept_ite) | simp only [kept_mk_iff] | split
        · apply kept_ite
          · repeat' first | (with_reducible assumption) | unfold onward_3 | unfold unreachable_4 | (with_reducible apply kept_laceTx) | (with_reducible apply kept_respond) | (with_reducible apply kept_ite) | simp only [kept_mk_iff] | split
          · repeat' first | (with_reducible assumption) | unfold onward_3 | unfold unreachable_4 | (with_reducible apply kept_laceTx) | (with_reducible apply kept_respond) | (with_reducible apply kept_ite) | simp only [kept_mk_iff] | split

theorem kept_execRemotePacketRx {s0 s : State} (h : Kept s0 s) : ∀ x0, ∃ t, execRemotePacketRx x0 s = .next t ∧ Kept s0 t := by
  intro x0
  refine ⟨_, rfl, ?_⟩
  extract_lets -merge -useContext -underBinder x_1
  try clear_value x_1
  split
  · assumption
  · extract_lets -merge -useContext -underBinder n_2 lane_3 s1_4
    try clear_value n_2
    try clear_value lane_3
    have h_s1_4 : Kept s0 s1_4 := by
      unfold s1_4
      repeat' first | (with_reducible assumption) | (with_reducible apply kept_modPort) | simp only [kept_mk_iff]
    try clear_value s1_4
    apply kept_ite
    · assumption
    · split
      · assumption
      · repeat' first | (with_reducible assumption) | (with_reducible apply kept_remotePacket)

theorem kept_ringsSync {s0 s : State} (h : Kept s0 s) : Kept s0 (ringsSync s) := by
  unfold ringsSync
  extract_lets -merge -useContext -underBinder ringed_1
  try clear_value ringed_1
  repeat' first | (with_reducible assumption) | (with_reducible apply kept_wrB) | (with_reducible apply kept_setLace) | (with_reducible apply kept_foldl) | (with_reducible apply keptP_foldl) | dsimp only | intro _ _ _

theorem kept_lacePortConfig {s0 s : State} (h : Kept s0 s) : ∀ x0, KeptD s0 (lacePortConfig x0 s) := by
  intro x0
  unfold lacePortConfig
  apply keptD_ite
  · repeat' first | (with_reducible assumption) | (with_reducible apply kept_done) | (with_reducible apply kept_done)
  · extract_lets -merge -useContext -underBinder w_7 p_8 lane0_9 width_10 ls_11 l56_12 s0_13 s1_14 cfg_15 s2_16
    try clear_value w_7
    try clear_value p_8
    try clear_value lane0_9
    try clear_value width_10
    try clear_value ls_11
    try clear_value l56_12
    have h_s0_13 : Kept s0 s0_13 := by
      unfold s0_13
      apply kept_ite
      · repeat' first | (with_reducible assumption)
      · repeat' first | (with_reducible assumption) | (with_reducible apply kept_modPort)
    try clear_value s0_13
    have h_s1_14 : Kept s0 s1_14 := by
      unfold s1_14
      apply kept_ite
      · repeat' first | (with_reducible assumption)
      · repeat' first | (with_reducible assumption) | (with_reducible apply kept_raise) | (with_reducible apply kept_setPortState) | (with_reducible apply kept_linkDrop)
    try clear_value s1_14
    try clear_value cfg_15
    have h_s2_16 : Kept s0 s2_16 := by
      unfold s2_16
      repeat' first | (with_reducible assumption) | (with_reducible apply kept_setLace) | (with_reducible apply kept_ringsSync) | (with_reducible apply kept_wr)
    try clear_value s2_16
    apply keptD_ite
    · repeat' first | (with_reducible assumption) | (with_reducible apply kept_done) | (with_reducible apply kept_done)
    · apply keptD_ite
      · repeat' first | (with_reducible assumption) | (with_reducible apply kept_done) | (with_reducible apply kept_done)
      · apply keptD_ite
        · repeat' first | (with_reducible assumption) | (with_reducible apply kept_done) | (with_reducible apply kept_done)
        · repeat' first | (with_reducible assumption) | (with_reducible apply kept_done) | (with_reducible apply kept_hoistFix) | (with_reducible apply kept_portSync) | (with_reducible apply kept_done)

theorem kept_laceStatus {s0 s : State} (h : Kept s0 s) : ∀ x0, KeptD s0 (laceStatus x0 s) := by
  intro x0
  unfold laceStatus
  apply keptD_ite
  · repeat' first | (with_reducible assumption) | (with_reducible apply kept_done) | (with_reducible apply kept_done)
  · repeat' first | (with_reducible assumption) | (with_reducible apply kept_doneW) | (with_reducible apply kept_doneW)

theorem kept_laceRouteSet {s0 s : State} (h : Kept s0 s) : ∀ x0, KeptD s0 (laceRouteSet x0 s) := by
  intro x0
  unfold laceRouteSet
  extract_lets -merge -useContext -underBinder e_1 l_2 hops_3 h_4 shore_5
  try clear_value e_1
  try clear_value l_2
  try clear_value hops_3
  try clear_value h_4
  try clear_value shore_5
  apply keptD_ite
  · repeat' first | (with_reducible assumption) | (with_reducible apply kept_done) | (with_reducible apply kept_done)
  · apply keptD_ite
    · repeat' first | (with_reducible assumption) | (with_reducible apply kept_done) | (with_reducible apply kept_done)
    · apply keptD_ite
      · repeat' first | (with_reducible assumption) | (with_reducible apply kept_done) | (with_reducible apply kept_done)
      · repeat' first | (with_reducible assumption) | (with_reducible apply kept_commitRt) | (with_reducible apply kept_done) | (with_reducible apply kept_stageRt) | (with_reducible apply kept_done) | (with_reducible apply kept_foldl) | (with_reducible apply keptP_foldl) | simp only [kept_mk_iff] | dsimp only | intro _ _ _ | (with_reducible apply keptP_mk) | (with_reducible apply keptQ_mk)

theorem kept_laceExportSet {s0 s : State} (h : Kept s0 s) : ∀ x0, KeptD s0 (laceExportSet x0 s) := by
  intro x0
  unfold laceExportSet
  extract_lets -merge -useContext -underBinder w_1 eoff_2 size_3 base_4 word_5 overlap_6
  try clear_value w_1
  try clear_value eoff_2
  try clear_value size_3
  try clear_value base_4
  try clear_value word_5
  try clear_value overlap_6
  apply keptD_ite
  · repeat' first | (with_reducible assumption) | (with_reducible apply kept_done) | (with_reducible apply kept_done)
  · apply keptD_ite
    · repeat' first | (with_reducible assumption) | (with_reducible apply kept_done) | (with_reducible apply kept_done)
    · repeat' first | (with_reducible assumption) | (with_reducible apply kept_done) | (with_reducible apply kept_wr) | (with_reducible apply kept_done) | (with_reducible apply kept_foldl) | (with_reducible apply keptP_foldl) | dsimp only | intro _ _ _

theorem kept_laceTransitSet {s0 s : State} (h : Kept s0 s) : ∀ x0, KeptD s0 (laceTransitSet x0 s) := by
  intro x0
  unfold laceTransitSet
  extract_lets -merge -useContext -underBinder k_1 a_2 z_3 mask_4
  try clear_value k_1
  try clear_value a_2
  try clear_value z_3
  try clear_value mask_4
  apply keptD_ite
  · repeat' first | (with_reducible assumption) | (with_reducible apply kept_done) | (with_reducible apply kept_done)
  · apply keptD_ite
    · repeat' first | (with_reducible assumption) | (with_reducible apply kept_done) | (with_reducible apply kept_done)
    · repeat' first | (with_reducible assumption) | (with_reducible apply kept_done) | (with_reducible apply kept_wr) | (with_reducible apply kept_done) | (with_reducible apply kept_ite) | (with_reducible apply keptD_ite) | (with_reducible apply kept_foldl) | (with_reducible apply keptP_foldl) | split | dsimp only | intro _ _ _

theorem kept_laceMasthead {s0 s : State} (h : Kept s0 s) : ∀ x0, KeptD s0 (laceMasthead x0 s) := by
  intro x0
  unfold laceMasthead
  apply keptD_ite
  · repeat' first | (with_reducible assumption) | (with_reducible apply kept_done) | (with_reducible apply kept_done)
  · extract_lets -merge -useContext -underBinder dev_1
    try clear_value dev_1
    apply keptD_ite
    · repeat' first | (with_reducible assumption) | (with_reducible apply kept_done) | (with_reducible apply kept_done)
    · split
      · rename_i a_2 e_3
        repeat' first | (with_reducible assumption) | (with_reducible apply kept_done) | (with_reducible apply kept_done)
      · rename_i a_4 a_5 e_6
        apply keptD_ite
        · repeat' first | (with_reducible assumption) | (with_reducible apply kept_done) | (with_reducible apply kept_done)
        · apply keptD_ite
          · extract_lets -merge -useContext -underBinder s1_7
            have h_s1_7 : Kept s0 s1_7 := by
              unfold s1_7
              split
              · rename_i a_8 a_9 e_10
                apply kept_ite
                · repeat' first | (with_reducible assumption)
                · repeat' first | (with_reducible assumption) | (with_reducible apply kept_laceMsg)
              · rename_i a_11 e_12
                repeat' first | (with_reducible assumption)
            try clear_value s1_7
            repeat' first | (with_reducible assumption) | (with_reducible apply kept_done) | (with_reducible apply kept_laceMsg) | (with_reducible apply kept_setLace) | (with_reducible apply kept_done)
          · apply keptD_ite
            · repeat' first | (with_reducible assumption) | (with_reducible apply kept_done) | (with_reducible apply kept_done)
            · repeat' first | (with_reducible assumption) | (with_reducible apply kept_done) | (with_reducible apply kept_laceMsg) | (with_reducible apply kept_done)

theorem kept_execLcInjArm {s0 s : State} (h : Kept s0 s) : ∀ x0 x1 x2, ∃ t, execLcInjArm x0 x1 x2 s = .next t ∧ Kept s0 t := by
  intro x0 x1 x2
  refine ⟨_, rfl, ?_⟩
  apply kept_ite
  · repeat' first | (with_reducible assumption) | (with_reducible apply kept_wr)
  · assumption

end Sys2Proof.Machine
end

