-- ==== Sys2Proof/Laws/KeptLanes.lean ====
section
/-! SUPPORT. What each operation of Machine/Lanes.lean keeps. -/

set_option linter.unreachableTactic false
set_option linter.unusedTactic false
set_option linter.unusedSimpArgs false
set_option linter.unusedVariables false

namespace Sys2Proof.Machine

theorem kept_lanesMoved {s0 s : State} (h : Kept s0 s) : Kept s0 (lanesMoved s) := by
  unfold lanesMoved
  repeat' first | (with_reducible assumption) | (with_reducible apply kept_fhDrop) | (with_reducible apply kept_hoistFix) | (with_reducible apply kept_spliceCheck)

theorem kept_onLane {s0 s t : State} (h : Kept s0 s) (k : Kept s0 t) (n : Nat) : ∃ u, onLane s n t = .next u ∧ Kept s0 u :=
  ⟨_, rfl, kept_ite (kept_lanesMoved k) h⟩

theorem kept_laneApply {s0 s : State} (h : Kept s0 s) : ∀ x0 x1 x2 x3 x4, Kept s0 (laneApply s x0 x1 x2 x3 x4) := by
  intro x0 x1 x2 x3 x4
  unfold laneApply
  extract_lets -merge -useContext -underBinder moved_1 s1_2 s2_3
  try clear_value moved_1
  have h_s1_2 : Kept s0 s1_2 := by
    unfold s1_2
    apply kept_ite
    · repeat' first | (with_reducible assumption) | (with_reducible apply kept_laneOff)
    · repeat' first | (with_reducible assumption)
  try clear_value s1_2
  have h_s2_3 : Kept s0 s2_3 := by
    unfold s2_3
    repeat' first | (with_reducible assumption) | (with_reducible apply kept_wr)
  try clear_value s2_3
  apply kept_ite
  · repeat' first | (with_reducible assumption) | (with_reducible apply kept_linkSync) | (with_reducible apply kept_laneStart)
  · repeat' first | (with_reducible assumption)

theorem kept_laneConfig {s0 s : State} (h : Kept s0 s) : ∀ x0, KeptD s0 (laneConfig x0 s) := by
  intro x0
  unfold laneConfig
  extract_lets -merge -useContext -underBinder first_1 n_2 ctl_3 los_4 role_5 rate_6 ls_7 f_8 bad_9
  try clear_value first_1
  try clear_value n_2
  try clear_value ctl_3
  try clear_value los_4
  try clear_value role_5
  try clear_value rate_6
  try clear_value ls_7
  try clear_value f_8
  try clear_value bad_9
  apply keptD_ite
  · repeat' first | (with_reducible assumption) | (with_reducible apply kept_done) | (with_reducible apply kept_done)
  · apply keptD_ite
    · repeat' first | (with_reducible assumption) | (with_reducible apply kept_done) | (with_reducible apply kept_done)
    · apply keptD_ite
      · repeat' first | (with_reducible assumption) | (with_reducible apply kept_done) | (with_reducible apply kept_done)
      · apply keptD_ite
        · repeat' first | (with_reducible assumption) | (with_reducible apply kept_done) | (with_reducible apply kept_done)
        · apply keptD_ite
          · repeat' first | (with_reducible assumption) | (with_reducible apply kept_done) | (with_reducible apply kept_done)
          · apply keptD_ite
            · repeat' first | (with_reducible assumption) | (with_reducible apply kept_done) | (with_reducible apply kept_done)
            · repeat' first | (with_reducible assumption) | (with_reducible apply kept_done) | (with_reducible apply kept_laneApply) | (with_reducible apply kept_lanesMoved) | (with_reducible apply kept_done) | (with_reducible apply kept_foldl) | (with_reducible apply keptP_foldl) | dsimp only | intro _ _ _

theorem kept_laneStatus {s0 s : State} (h : Kept s0 s) : ∀ x0, KeptD s0 (laneStatus x0 s) := by
  intro x0
  unfold laneStatus
  extract_lets -merge -useContext -underBinder n_1
  try clear_value n_1
  apply keptD_ite
  · repeat' first | (with_reducible assumption) | (with_reducible apply kept_done) | (with_reducible apply kept_done)
  · apply keptD_ite
    · repeat' first | (with_reducible assumption) | (with_reducible apply kept_done) | (with_reducible apply kept_done)
    · repeat' first | (with_reducible assumption) | (with_reducible apply kept_doneW) | (with_reducible apply kept_doneW)

theorem kept_retrainAll {s0 s : State} (h : Kept s0 s) : ∀ x0 x1, Kept s0 (retrainAll s x0 x1) := by
  intro x0 x1
  induction x1 generalizing s x0 with
  | nil =>
    unfold retrainAll
    assumption
  | cons y ys ih =>
    unfold retrainAll
    apply kept_ite
    · repeat' first | (with_reducible assumption) | (with_reducible apply ih)
    · repeat' first | (with_reducible assumption) | (with_reducible apply ih) | (with_reducible apply kept_retrainCmd) | (with_reducible apply kept_ite) | split

theorem kept_laneRetrain {s0 s : State} (h : Kept s0 s) : ∀ x0, KeptD s0 (laneRetrain x0 s) := by
  intro x0
  unfold laneRetrain
  extract_lets -merge -useContext -underBinder ls_1
  try clear_value ls_1
  apply keptD_ite
  · repeat' first | (with_reducible assumption) | (with_reducible apply kept_done) | (with_reducible apply kept_done)
  · apply keptD_ite
    · repeat' first | (with_reducible assumption) | (with_reducible apply kept_done) | (with_reducible apply kept_done)
    · apply keptD_ite
      · repeat' first | (with_reducible assumption) | (with_reducible apply kept_done) | (with_reducible apply kept_done)
      · apply keptD_ite
        · repeat' first | (with_reducible assumption) | (with_reducible apply kept_done) | (with_reducible apply kept_done)
        · repeat' first | (with_reducible assumption) | (with_reducible apply kept_done) | (with_reducible apply kept_lanesMoved) | (with_reducible apply kept_retrainAll) | (with_reducible apply kept_done)

theorem kept_execLaneRetrainBit {s0 s : State} (h : Kept s0 s) : ∀ x0 x1, ∃ t, execLaneRetrainBit x0 x1 s = .next t ∧ Kept s0 t := by
  intro x0 x1
  unfold execLaneRetrainBit
  refine kept_onLane h ?_ _
  repeat' first | (with_reducible assumption) | (with_reducible exact h) | (with_reducible apply kept_retrainCmd) | (with_reducible apply kept_onLane) | (with_reducible apply kept_ite) | (with_reducible apply kept_foldl) | (with_reducible apply keptP_foldl) | (with_reducible apply KeptP.one) | (with_reducible apply KeptQ.one) | (with_reducible apply KeptD.one) | (with_reducible apply KeptH.one) | (with_reducible apply KeptF.one) | simp only [kept_mk_iff] | split | dsimp only | intro _ _ _ | (with_reducible apply keptP_mk) | (with_reducible apply keptQ_mk)

theorem kept_detectorChange {s0 s : State} (h : Kept s0 s) (n kind : Nat) (on : Bool) (act : State → Bool → State)
    (ha : ∀ {t : State} (b : Bool), Kept s0 t → Kept s0 (act t b)) : Kept s0 (detectorChange s n kind on act) := by
  unfold detectorChange
  exact kept_ite (ha _ h) (kept_ite h (ha _ (kept_wr h ..)))

theorem kept_execLosChange {s0 s : State} (h : Kept s0 s) : ∀ x0 x1, ∃ t, execLosChange x0 x1 s = .next t ∧ Kept s0 t := by
  intro n on
  exact kept_onLane h (kept_detectorChange h _ _ _ _ fun b k => kept_losChange k ..) _

theorem kept_execLolChange {s0 s : State} (h : Kept s0 s) : ∀ x0 x1, ∃ t, execLolChange x0 x1 s = .next t ∧ Kept s0 t := by
  intro n on
  exact kept_onLane h (kept_detectorChange h _ _ _ _ fun b k => kept_lolChange k ..) _

theorem kept_execLaneShellInjArm {s0 s : State} (h : Kept s0 s) : ∀ x0 x1 x2 x3, ∃ t, execLaneShellInjArm x0 x1 x2 x3 s = .next t ∧ Kept s0 t := by
  intro x0 x1 x2 x3
  unfold execLaneShellInjArm
  refine kept_onLane h ?_ _
  repeat' first | (with_reducible assumption) | (with_reducible exact h) | (with_reducible apply kept_onLane) | (with_reducible apply kept_laneInjArm) | (with_reducible apply kept_ite) | (with_reducible apply kept_foldl) | (with_reducible apply keptP_foldl) | (with_reducible apply KeptP.one) | (with_reducible apply KeptQ.one) | (with_reducible apply KeptD.one) | (with_reducible apply KeptH.one) | (with_reducible apply KeptF.one) | simp only [kept_mk_iff] | split | dsimp only | intro _ _ _ | (with_reducible apply keptP_mk) | (with_reducible apply keptQ_mk)

theorem kept_execQuadShellInjArm {s0 s : State} (h : Kept s0 s) : ∀ x0 x1 x2 x3, ∃ t, execQuadShellInjArm x0 x1 x2 x3 s = .next t ∧ Kept s0 t := by
  intro x0 x1 x2 x3
  refine ⟨_, rfl, ?_⟩
  apply kept_ite
  · repeat' first | (with_reducible assumption) | (with_reducible apply kept_lanesMoved) | (with_reducible apply kept_quadInjArm)
  · assumption

theorem kept_execPllUnlock {s0 s : State} (h : Kept s0 s) : ∀ x0 x1 x2, ∃ t, execPllUnlock x0 x1 x2 s = .next t ∧ Kept s0 t := by
  intro x0 x1 x2
  refine ⟨_, rfl, ?_⟩
  extract_lets -merge -useContext -underBinder forced_1
  try clear_value forced_1
  apply kept_ite
  · assumption
  · apply kept_ite
    · apply kept_ite
      · assumption
      · repeat' first | (with_reducible assumption) | (with_reducible apply kept_wrB) | (with_reducible apply kept_wr) | (with_reducible apply kept_ite) | split
    · repeat' first | (with_reducible assumption) | (with_reducible apply kept_lanesMoved) | (with_reducible apply kept_pllLose)

theorem kept_execRefLoss {s0 s : State} (h : Kept s0 s) : ∀ x0 x1, ∃ t, execRefLoss x0 x1 s = .next t ∧ Kept s0 t := by
  intro x0 x1
  refine ⟨_, rfl, ?_⟩
  apply kept_ite
  · assumption
  · apply kept_ite
    · repeat' first | (with_reducible assumption) | (with_reducible apply kept_wrB)
    · repeat' first | (with_reducible assumption) | (with_reducible apply kept_raise) | (with_reducible apply kept_wrB)

theorem kept_syncOut {s0 s : State} (h : Kept s0 s) : ∀ x0 x1, Kept s0 (syncOut s x0 x1) := by
  intro x0 x1
  unfold syncOut
  split
  · rename_i a_1 a_2 e_3
    repeat' first | (with_reducible assumption) | (with_reducible apply kept_sendSync)
  · rename_i a_4 e_5
    repeat' first | (with_reducible assumption)

theorem kept_enterDescr {s0 s : State} (h : Kept s0 s) : ∀ x0, Kept s0 (enterDescr s x0) := by
  intro x0
  unfold enterDescr
  split
  rename_i a_1 a_2 a_3 e_4
  have h_a_3 : Kept s0 a_3 := by
    apply KeptQ.eq (e := e_4)
    repeat' first | (with_reducible assumption) | (with_reducible apply kept_drawFree)
  clear e_4
  split
  rename_i a_5 a_6 a_7 e_8
  have h_a_7 : Kept s0 a_7 := by
    apply KeptQ.eq (e := e_8)
    repeat' first | (with_reducible assumption) | (with_reducible apply kept_drawFree)
  clear e_8
  repeat' first | (with_reducible assumption) | (with_reducible apply kept_syncOut) | (with_reducible apply kept_modLaneSt) | (with_reducible apply kept_setLaneState)

theorem kept_trainBlocks {s0 : State} : ∀ (bs : List Block) {s : State}, Kept s0 s → ∀ n, Kept s0 (trainBlocks s n bs)
  | [], _, h, _ => h
  | b :: r, s, h, n => by
    unfold trainBlocks
    exact kept_trainBlocks r (kept_stuffErrs (kept_putLaneSt h ..) ..) _

theorem kept_descrMet {s0 s : State} (h : Kept s0 s) : ∀ x0 x1, Kept s0 (descrMet s x0 x1) := by
  intro x0 x1
  unfold descrMet
  extract_lets -merge -useContext -underBinder s1_1
  have h_s1_1 : Kept s0 s1_1 := by
    unfold s1_1
    repeat' first | (with_reducible assumption) | (with_reducible apply kept_syncOut)
  try clear_value s1_1
  split
  · rename_i a_2 e_3
    repeat' first | (with_reducible assumption)
  · rename_i a_4 a_5 e_6
    repeat' first | (with_reducible assumption) | (with_reducible apply kept_modLaneSt) | (with_reducible apply kept_setLaneState)

theorem kept_blockMet {s0 s : State} (h : Kept s0 s) : ∀ x0, Kept s0 (blockMet s x0) := by
  intro x0
  unfold blockMet
  extract_lets -merge -useContext -underBinder s1_1 ms_2
  have h_s1_1 : Kept s0 s1_1 := by
    unfold s1_1
    repeat' first | (with_reducible assumption) | (with_reducible apply kept_modLaneSt) | simp only [kept_mk_iff]
  try clear_value s1_1
  try clear_value ms_2
  apply kept_ite
  · repeat' first | (with_reducible assumption) | (with_reducible apply kept_setLaneState)
  · apply kept_ite
    · repeat' first | (with_reducible assumption) | (with_reducible apply kept_enterDescr) | (with_reducible apply kept_foldl) | (with_reducible apply keptP_foldl) | dsimp only | intro _ _ _
    · assumption

theorem kept_phasePass {s0 s : State} (h : Kept s0 s) : ∀ x0 x1 x2 x3 x4, Kept s0 (phasePass s x0 x1 x2 x3 x4) := by
  intro x0 x1 x2 x3 x4
  unfold phasePass
  extract_lets -merge -useContext -underBinder lace_1 s_2
  try clear_value lace_1
  have h_s_2 : Kept s0 s_2 := by
    unfold s_2
    apply kept_ite
    · repeat' first | (with_reducible assumption) | (with_reducible apply kept_trainBlocks)
    · repeat' first | (with_reducible assumption)
  try clear_value s_2
  split
  · rename_i a_3 e_4
    apply kept_ite
    · repeat' first | (with_reducible assumption)
    · repeat' first | (with_reducible assumption) | (with_reducible apply kept_setLaneState)
  · rename_i a_5 e_6
    extract_lets -merge -useContext -underBinder s1_7
    have h_s1_7 : Kept s0 s1_7 := by
      unfold s1_7
      repeat' first | (with_reducible assumption) | (with_reducible apply kept_wr)
    try clear_value s1_7
    apply kept_ite
    · repeat' first | (with_reducible assumption) | (with_reducible apply kept_failAttempt) | (with_reducible apply kept_raise)
    · repeat' first | (with_reducible assumption) | (with_reducible apply kept_setLaneState)
  · rename_i a_8 e_9
    repeat' first | (with_reducible assumption) | (with_reducible apply kept_modLaneSt) | (with_reducible apply kept_setLaneState) | (with_reducible apply keptP_mk) | (with_reducible apply keptQ_mk)
  · rename_i a_10 e_11
    apply kept_ite
    · repeat' first | (with_reducible assumption) | (with_reducible apply kept_failAttempt)
    · repeat' first | (with_reducible assumption) | (with_reducible apply kept_blockMet)
  · rename_i a_12 e_13
    apply kept_ite
    · repeat' first | (with_reducible assumption) | (with_reducible apply kept_descrMet)
    · repeat' first | (with_reducible assumption) | (with_reducible apply kept_setLaneState)
  · rename_i a_14 e_15
    apply kept_ite
    · repeat' first | (with_reducible assumption)
    · repeat' first | (with_reducible assumption) | (with_reducible apply kept_laneUp)
  · rename_i a_16 a_17 a_18 a_19 a_20 a_21 a_22
    repeat' first | (with_reducible assumption)

theorem kept_execTrainingPhasePass {s0 s : State} (h : Kept s0 s) : ∀ x0 x1 x2 x3 x4, ∃ t, execTrainingPhasePass x0 x1 x2 x3 x4 s = .next t ∧ Kept s0 t := by
  intro x0 x1 x2 x3 x4
  unfold execTrainingPhasePass
  refine kept_onLane h ?_ _
  repeat' first | (with_reducible assumption) | (with_reducible exact h) | (with_reducible apply kept_phasePass) | (with_reducible apply kept_linkSync) | (with_reducible apply kept_onLane) | (with_reducible apply kept_ite) | (with_reducible apply kept_foldl) | (with_reducible apply keptP_foldl) | (with_reducible apply KeptP.one) | (with_reducible apply KeptQ.one) | (with_reducible apply KeptD.one) | (with_reducible apply KeptH.one) | (with_reducible apply KeptF.one) | simp only [kept_mk_iff] | split | dsimp only | intro _ _ _ | (with_reducible apply keptP_mk) | (with_reducible apply keptQ_mk)

theorem kept_execTrainingPhaseTimeout {s0 s : State} (h : Kept s0 s) : ∀ x0, ∃ t, execTrainingPhaseTimeout x0 s = .next t ∧ Kept s0 t := by
  intro x0
  unfold execTrainingPhaseTimeout
  refine ⟨_, rfl, ?_⟩
  apply kept_ite
  · apply kept_lanesMoved
    apply kept_ite
    · repeat' first | (with_reducible assumption)
    · repeat' first | (with_reducible assumption) | (with_reducible apply kept_failAttempt)
  · repeat' first | (with_reducible assumption)

theorem kept_execBackoffEnd {s0 s : State} (h : Kept s0 s) : ∀ x0, ∃ t, execBackoffEnd x0 s = .next t ∧ Kept s0 t := by
  intro x0
  unfold execBackoffEnd
  refine kept_onLane h ?_ _
  repeat' first | (with_reducible assumption) | (with_reducible exact h) | (with_reducible apply kept_beginAttempt) | (with_reducible apply kept_linkSync) | (with_reducible apply kept_onLane) | (with_reducible apply kept_ite) | (with_reducible apply kept_foldl) | (with_reducible apply keptP_foldl) | (with_reducible apply KeptP.one) | (with_reducible apply KeptQ.one) | (with_reducible apply KeptD.one) | (with_reducible apply KeptH.one) | (with_reducible apply KeptF.one) | simp only [kept_mk_iff] | split | dsimp only | intro _ _ _ | (with_reducible apply keptP_mk) | (with_reducible apply keptQ_mk)

theorem kept_execNoPartnerRetry {s0 s : State} (h : Kept s0 s) : ∀ x0, ∃ t, execNoPartnerRetry x0 s = .next t ∧ Kept s0 t := by
  intro x0
  unfold execNoPartnerRetry
  refine kept_onLane h ?_ _
  repeat' first | (with_reducible assumption) | (with_reducible exact h) | (with_reducible apply kept_beginAttempt) | (with_reducible apply kept_linkSync) | (with_reducible apply kept_onLane) | (with_reducible apply kept_modLaneSt) | (with_reducible apply kept_ite) | (with_reducible apply kept_foldl) | (with_reducible apply keptP_foldl) | (with_reducible apply KeptP.one) | (with_reducible apply KeptQ.one) | (with_reducible apply KeptD.one) | (with_reducible apply KeptH.one) | (with_reducible apply KeptF.one) | simp only [kept_mk_iff] | split | dsimp only | intro _ _ _ | (with_reducible apply keptP_mk) | (with_reducible apply keptQ_mk)

theorem kept_execEqBgStep {s0 s : State} (h : Kept s0 s) : ∀ x0 x1 x2, ∃ t, execEqBgStep x0 x1 x2 s = .next t ∧ Kept s0 t := by
  intro x0 x1 x2
  unfold execEqBgStep
  refine kept_onLane h ?_ _
  repeat' first | (with_reducible assumption) | (with_reducible exact h) | (with_reducible apply kept_onLane) | (with_reducible apply kept_modLaneSt) | (with_reducible apply kept_ite) | (with_reducible apply kept_foldl) | (with_reducible apply keptP_foldl) | (with_reducible apply KeptP.one) | (with_reducible apply KeptQ.one) | (with_reducible apply KeptD.one) | (with_reducible apply KeptH.one) | (with_reducible apply KeptF.one) | simp only [kept_mk_iff] | split | dsimp only | intro _ _ _ | (with_reducible apply keptP_mk) | (with_reducible apply keptQ_mk)

theorem kept_execEiEntry {s0 s : State} (h : Kept s0 s) : ∀ x0, ∃ t, execEiEntry x0 s = .next t ∧ Kept s0 t := by
  intro x0
  unfold execEiEntry
  refine kept_onLane h ?_ _
  repeat' first | (with_reducible assumption) | (with_reducible exact h) | (with_reducible apply kept_setLaneState) | (with_reducible apply kept_linkSync) | (with_reducible apply kept_onLane) | (with_reducible apply kept_ite) | (with_reducible apply kept_foldl) | (with_reducible apply keptP_foldl) | (with_reducible apply KeptP.one) | (with_reducible apply KeptQ.one) | (with_reducible apply KeptD.one) | (with_reducible apply KeptH.one) | (with_reducible apply KeptF.one) | simp only [kept_mk_iff] | split | dsimp only | intro _ _ _ | (with_reducible apply keptP_mk) | (with_reducible apply keptQ_mk)

theorem kept_execEiExitRequest {s0 s : State} (h : Kept s0 s) : ∀ x0, ∃ t, execEiExitRequest x0 s = .next t ∧ Kept s0 t := by
  intro x0
  unfold execEiExitRequest
  refine kept_onLane h ?_ _
  repeat' first | (with_reducible assumption) | (with_reducible exact h) | (with_reducible apply kept_onLane) | (with_reducible apply kept_modLaneSt) | (with_reducible apply kept_ite) | (with_reducible apply kept_foldl) | (with_reducible apply keptP_foldl) | (with_reducible apply KeptP.one) | (with_reducible apply KeptQ.one) | (with_reducible apply KeptD.one) | (with_reducible apply KeptH.one) | (with_reducible apply KeptF.one) | simp only [kept_mk_iff] | split | dsimp only | intro _ _ _ | (with_reducible apply keptP_mk) | (with_reducible apply keptQ_mk)

theorem kept_execEiExitComplete {s0 s : State} (h : Kept s0 s) : ∀ x0, ∃ t, execEiExitComplete x0 s = .next t ∧ Kept s0 t := by
  intro x0
  unfold execEiExitComplete
  refine kept_onLane h ?_ _
  repeat' first | (with_reducible assumption) | (with_reducible exact h) | (with_reducible apply kept_modPort) | (with_reducible apply kept_bump) | (with_reducible apply kept_setLaneState) | (with_reducible apply kept_linkSync) | (with_reducible apply kept_pump) | (with_reducible apply kept_onLane) | (with_reducible apply kept_modLaneSt) | (with_reducible apply kept_ite) | (with_reducible apply kept_foldl) | (with_reducible apply keptP_foldl) | (with_reducible apply KeptP.one) | (with_reducible apply KeptQ.one) | (with_reducible apply KeptD.one) | (with_reducible apply KeptH.one) | (with_reducible apply KeptF.one) | simp only [kept_mk_iff] | split | dsimp only | intro _ _ _ | (with_reducible apply keptP_mk) | (with_reducible apply keptQ_mk)

theorem kept_execEiSync64Missing {s0 s : State} (h : Kept s0 s) : ∀ x0, ∃ t, execEiSync64Missing x0 s = .next t ∧ Kept s0 t := by
  intro x0
  unfold execEiSync64Missing
  refine kept_onLane h ?_ _
  repeat' first | (with_reducible assumption) | (with_reducible exact h) | (with_reducible apply kept_onLane) | (with_reducible apply kept_raise) | (with_reducible apply kept_retrain) | (with_reducible apply kept_ite) | (with_reducible apply kept_foldl) | (with_reducible apply keptP_foldl) | (with_reducible apply KeptP.one) | (with_reducible apply KeptQ.one) | (with_reducible apply KeptD.one) | (with_reducible apply KeptH.one) | (with_reducible apply KeptF.one) | simp only [kept_mk_iff] | split | dsimp only | intro _ _ _ | (with_reducible apply keptP_mk) | (with_reducible apply keptQ_mk)

theorem kept_execTrackHold {s0 s : State} (h : Kept s0 s) : ∀ x0, ∃ t, execTrackHold x0 s = .next t ∧ Kept s0 t := by
  intro x0
  unfold execTrackHold
  refine ⟨_, rfl, ?_⟩
  extract_lets -merge -useContext -underBinder w_3 n_4 v_5
  try clear_value w_3
  try clear_value n_4
  have h_v_5 : Kept s0 v_5 := by
    unfold v_5
    repeat' first | (with_reducible assumption) | (with_reducible apply kept_wrB)
  try clear_value v_5
  apply kept_ite
  · repeat' first | (with_reducible assumption) | simp only [kept_mk_iff]
  · repeat' first | (with_reducible assumption)

theorem kept_execTrackHoldRelease {s0 s : State} (h : Kept s0 s) : ∀ x0, ∃ t, execTrackHoldRelease x0 s = .next t ∧ Kept s0 t := by
  intro x0
  refine ⟨_, rfl, ?_⟩
  apply kept_ite
  · repeat' first | (with_reducible assumption) | (with_reducible apply kept_wrB)
  · assumption

theorem kept_refclkConfig {s0 s : State} (h : Kept s0 s) : ∀ x0, KeptD s0 (refclkConfig x0 s) := by
  intro x0
  unfold refclkConfig
  extract_lets -merge -useContext -underBinder w_1 diff_2 serves_3
  try clear_value w_1
  try clear_value diff_2
  try clear_value serves_3
  apply keptD_ite
  · repeat' first | (with_reducible assumption) | (with_reducible apply kept_done) | (with_reducible apply kept_done)
  · apply keptD_ite
    · repeat' first | (with_reducible assumption) | (with_reducible apply kept_done) | (with_reducible apply kept_done)
    · apply keptD_ite
      · repeat' first | (with_reducible assumption) | (with_reducible apply kept_done) | (with_reducible apply kept_done)
      · apply keptD_ite
        · repeat' first | (with_reducible assumption) | (with_reducible apply kept_done) | (with_reducible apply kept_done)
        · repeat' first | (with_reducible assumption) | (with_reducible apply kept_done) | (with_reducible apply kept_wr) | (with_reducible apply kept_done) | (with_reducible apply kept_foldl) | (with_reducible apply keptP_foldl) | simp only [kept_mk_iff] | dsimp only | intro _ _ _

theorem kept_quadRef {s0 s : State} (h : Kept s0 s) : ∀ x0, KeptD s0 (quadRef x0 s) := by
  intro x0
  unfold quadRef
  extract_lets -merge -useContext -underBinder qd_1 sel_2
  try clear_value qd_1
  try clear_value sel_2
  apply keptD_ite
  · repeat' first | (with_reducible assumption) | (with_reducible apply kept_done) | (with_reducible apply kept_done)
  · apply keptD_ite
    · repeat' first | (with_reducible assumption) | (with_reducible apply kept_done) | (with_reducible apply kept_done)
    · apply keptD_ite
      · repeat' first | (with_reducible assumption) | (with_reducible apply kept_done) | (with_reducible apply kept_done)
      · repeat' first | (with_reducible assumption) | (with_reducible apply kept_done) | (with_reducible apply kept_wr) | (with_reducible apply kept_done) | simp only [kept_mk_iff] | dsimp only | intro _ _ _ | (with_reducible apply keptP_mk) | (with_reducible apply keptQ_mk)

theorem kept_chkLock {s0 s : State} (h : Kept s0 s) : ∀ x0 x1, Kept s0 (chkLock s x0 x1) := by
  intro x0 x1
  unfold chkLock
  repeat' first | (with_reducible assumption) | (with_reducible apply kept_modLaneSt) | (with_reducible apply kept_wrB) | simp only [kept_mk_iff]

theorem kept_chkSeek {s0 s : State} (h : Kept s0 s) : ∀ x0 x1 x2 x3, Kept s0 (chkSeek s x0 x1 x2 x3) := by
  intro x0 x1 x2 x3
  unfold chkSeek
  extract_lets -merge -useContext -underBinder c_1 put_2 h_3 h_4
  try clear_value c_1
  try clear_value h_3
  try clear_value h_4
  apply kept_ite
  · apply kept_ite
    · repeat' first | (with_reducible assumption) | unfold put_2 | (with_reducible apply kept_chkLock) | (with_reducible apply kept_modLaneSt) | simp only [kept_mk_iff]
    · repeat' first | (with_reducible assumption) | unfold put_2 | (with_reducible apply kept_modLaneSt) | simp only [kept_mk_iff]
  · apply kept_ite
    · repeat' first | (with_reducible assumption) | unfold put_2 | (with_reducible apply kept_modLaneSt) | simp only [kept_mk_iff]
    · apply kept_ite
      · apply kept_ite
        · repeat' first | (with_reducible assumption) | unfold put_2 | (with_reducible apply kept_chkLock) | (with_reducible apply kept_modLaneSt) | simp only [kept_mk_iff]
        · repeat' first | (with_reducible assumption) | unfold put_2 | (with_reducible apply kept_modLaneSt) | simp only [kept_mk_iff]
      · repeat' first | (with_reducible assumption) | unfold put_2 | (with_reducible apply kept_modLaneSt) | simp only [kept_mk_iff]

theorem kept_chkCount {s0 s : State} (h : Kept s0 s) : ∀ x0 x1 x2, Kept s0 (chkCount s x0 x1 x2) := by
  intro x0 x1 x2
  unfold chkCount
  extract_lets -merge -useContext -underBinder c_1 e_2 win_3 err_4 s1_5 s2_6
  try clear_value c_1
  try clear_value e_2
  try clear_value win_3
  try clear_value err_4
  have h_s1_5 : Kept s0 s1_5 := by
    unfold s1_5
    repeat' first | (with_reducible assumption) | (with_reducible apply kept_wr64)
  try clear_value s1_5
  have h_s2_6 : Kept s0 s2_6 := by
    unfold s2_6
    apply kept_ite
    · assumption
    · repeat' first | (with_reducible assumption) | (with_reducible apply kept_wr64)
  try clear_value s2_6
  apply kept_ite
  · repeat' first | (with_reducible assumption) | (with_reducible apply kept_modLaneSt) | (with_reducible apply kept_raise) | (with_reducible apply kept_wrB) | simp only [kept_mk_iff]
  · repeat' first | (with_reducible assumption) | (with_reducible apply kept_modLaneSt) | simp only [kept_mk_iff]

theorem kept_testBits {s0 s : State} (h : Kept s0 s) : ∀ x0 x1, KeptP s0 (testBits s x0 x1) := by
  intro x0 x1
  unfold testBits
  repeat' first | (with_reducible assumption) | (with_reducible apply kept_injLine) | (with_reducible apply KeptP.one) | (with_reducible apply KeptQ.one) | (with_reducible apply keptP_mk) | (with_reducible apply keptQ_mk)

theorem kept_sendPattern {s0 s : State} (h : Kept s0 s) : ∀ x0 x1, KeptP s0 (sendPattern s x0 x1) := by
  intro x0 x1
  unfold sendPattern
  extract_lets -merge -useContext -underBinder pat_1 user_2
  try clear_value pat_1
  try clear_value user_2
  split
  rename_i a_3 a_4 a_5 e_6
  have h_a_5 : Kept s0 a_5 := by
    apply KeptQ.eq (e := e_6)
    repeat' first | (with_reducible assumption) | (with_reducible apply kept_drawFree)
  clear e_6
  extract_lets -merge -useContext -underBinder x_7
  try clear_value x_7
  repeat' first | (with_reducible assumption) | (with_reducible apply kept_testBits) | (with_reducible apply kept_putLaneSt)

theorem kept_testLine {s0 s : State} (h : Kept s0 s) : ∀ x0 x1, KeptP s0 (testLine s x0 x1) := by
  intro x0 x1
  unfold testLine
  extract_lets -merge -useContext -underBinder loop_1
  try clear_value loop_1
  split
  rename_i a_2 a_3 a_4 e_5
  have h_a_3 : Kept s0 a_3 := by
    apply KeptP.eq (e := e_5)
    apply keptP_ite
    · repeat' first | (with_reducible assumption) | (with_reducible apply kept_testBits)
    · apply keptP_ite
      · repeat' first | (with_reducible assumption) | (with_reducible apply kept_sendPattern)
      · repeat' first | (with_reducible assumption) | (with_reducible apply keptP_mk) | (with_reducible apply keptQ_mk)
  clear e_5
  apply keptP_ite
  · repeat' first | (with_reducible assumption) | (with_reducible apply keptP_mk) | (with_reducible apply keptQ_mk)
  · repeat' first | (with_reducible assumption) | (with_reducible apply kept_modLaneSt) | (with_reducible apply keptP_mk) | (with_reducible apply keptQ_mk)

theorem kept_chkBits {s0 s : State} (h : Kept s0 s) : ∀ x0 x1, Kept s0 (chkBits s x0 x1) := by
  intro x0 x1
  unfold chkBits
  apply kept_ite
  · repeat' first | (with_reducible assumption)
  · extract_lets -merge -useContext -underBinder pat_1 user_2
    try clear_value pat_1
    try clear_value user_2
    split
    rename_i a_3 a_4 a_5 e_6
    have h_a_4 : Kept s0 a_4 := by
      apply KeptP.eq (e := e_6)
      repeat' first | (with_reducible assumption) | (with_reducible apply kept_testLine)
    clear e_6
    apply kept_ite
    · repeat' first | (with_reducible assumption)
    · refine kept_foldl _ ?_ _ ?_
      · intro a_7 x_8 h_9
        apply kept_ite
        · repeat' first | (with_reducible assumption) | (with_reducible apply kept_chkCount)
        · repeat' first | (with_reducible assumption) | (with_reducible apply kept_chkSeek)
      · repeat' first | (with_reducible assumption)

theorem kept_execCheckerLock {s0 s : State} (h : Kept s0 s) : ∀ x0 x1, ∃ t, execCheckerLock x0 x1 s = .next t ∧ Kept s0 t := by
  intro x0 x1
  unfold execCheckerLock
  refine kept_onLane h ?_ _
  repeat' first | (with_reducible assumption) | (with_reducible exact h) | (with_reducible apply kept_chkBits) | (with_reducible apply kept_onLane) | (with_reducible apply kept_ite) | (with_reducible apply kept_foldl) | (with_reducible apply keptP_foldl) | (with_reducible apply KeptP.one) | (with_reducible apply KeptQ.one) | (with_reducible apply KeptD.one) | (with_reducible apply KeptH.one) | (with_reducible apply KeptF.one) | simp only [kept_mk_iff] | split | dsimp only | intro _ _ _ | (with_reducible apply keptP_mk) | (with_reducible apply keptQ_mk)

theorem kept_execCheckerLockLoss {s0 s : State} (h : Kept s0 s) : ∀ x0 x1, ∃ t, execCheckerLockLoss x0 x1 s = .next t ∧ Kept s0 t := by
  intro x0 x1
  unfold execCheckerLockLoss
  refine kept_onLane h ?_ _
  repeat' first | (with_reducible assumption) | (with_reducible exact h) | (with_reducible apply kept_chkBits) | (with_reducible apply kept_onLane) | (with_reducible apply kept_ite) | (with_reducible apply kept_foldl) | (with_reducible apply keptP_foldl) | (with_reducible apply KeptP.one) | (with_reducible apply KeptQ.one) | (with_reducible apply KeptD.one) | (with_reducible apply KeptH.one) | (with_reducible apply KeptF.one) | simp only [kept_mk_iff] | split | dsimp only | intro _ _ _ | (with_reducible apply keptP_mk) | (with_reducible apply keptQ_mk)

theorem kept_injGo {s0 s : State} (h : Kept s0 s) : ∀ x0, Kept s0 (injGo s x0) := by
  intro x0
  unfold injGo
  apply kept_ite
  · assumption
  · split
    · repeat' first | (with_reducible assumption) | (with_reducible apply kept_modLaneSt) | simp only [kept_mk_iff]
    · repeat' first | (with_reducible assumption) | (with_reducible apply kept_modLaneSt) | simp only [kept_mk_iff]
    · repeat' first | (with_reducible assumption) | (with_reducible apply kept_modLaneSt) | simp only [kept_mk_iff]
    · assumption

theorem kept_testWrite {s0 s : State} (h : Kept s0 s) : ∀ x0 x1, Kept s0 (testWrite s x0 x1) := by
  intro x0 x1
  unfold testWrite
  extract_lets -merge -useContext -underBinder was_6 s1_7 s2_8 anew_9 s3_10 s3_11
  try clear_value was_6
  have h_s1_7 : Kept s0 s1_7 := by
    unfold s1_7
    repeat' first | (with_reducible assumption) | (with_reducible apply kept_wr)
  try clear_value s1_7
  have h_s2_8 : Kept s0 s2_8 := by
    unfold s2_8
    repeat' first | (with_reducible assumption) | (with_reducible apply kept_modLaneSt) | (with_reducible apply kept_wrB)
  try clear_value s2_8
  have h_anew_9 : Kept s0 anew_9 := by
    unfold anew_9
    apply kept_ite
    · repeat' first | (with_reducible assumption)
    · apply kept_ite
      · repeat' first | (with_reducible assumption) | (with_reducible apply kept_wr64)
      · repeat' first | (with_reducible assumption)
  try clear_value anew_9
  try clear_value s3_10
  have h_s3_11 : Kept s0 s3_11 := by
    unfold s3_11
    repeat' first | (with_reducible assumption) | (with_reducible apply kept_modLaneSt)
  try clear_value s3_11
  apply kept_ite
  · repeat' first | (with_reducible assumption) | (with_reducible apply kept_injGo)
  · repeat' first | (with_reducible assumption)

theorem kept_laneTest {s0 s : State} (h : Kept s0 s) : ∀ x0, KeptD s0 (laneTest x0 s) := by
  intro x0
  unfold laneTest
  extract_lets -merge -useContext -underBinder w_4 n_5 inj_6 s1_7
  try clear_value w_4
  try clear_value n_5
  try clear_value inj_6
  have h_s1_7 : Kept s0 s1_7 := by
    unfold s1_7
    repeat' first | (with_reducible assumption) | (with_reducible apply kept_wr)
  try clear_value s1_7
  apply keptD_ite
  · repeat' first | (with_reducible assumption) | (with_reducible apply kept_done) | (with_reducible apply kept_done)
  · apply keptD_ite
    · repeat' first | (with_reducible assumption) | (with_reducible apply kept_done) | (with_reducible apply kept_done)
    · apply keptD_ite
      · repeat' first | (with_reducible assumption) | (with_reducible apply kept_done) | (with_reducible apply kept_done)
      · apply keptD_ite
        · repeat' first | (with_reducible assumption) | (with_reducible apply kept_done) | (with_reducible apply kept_done)
        · apply kept_done
          apply kept_ite
          · repeat' first | (with_reducible assumption) | (with_reducible apply kept_testWrite)
          · repeat' first | (with_reducible assumption)

theorem kept_laneTestRead {s0 s : State} (h : Kept s0 s) : ∀ x0, KeptD s0 (laneTestRead x0 s) := by
  intro x0
  unfold laneTestRead
  extract_lets -merge -useContext -underBinder n_1
  try clear_value n_1
  apply keptD_ite
  · repeat' first | (with_reducible assumption) | (with_reducible apply kept_done) | (with_reducible apply kept_done)
  · apply keptD_ite
    · repeat' first | (with_reducible assumption) | (with_reducible apply kept_done) | (with_reducible apply kept_done)
    · repeat' first | (with_reducible assumption) | (with_reducible apply kept_doneW) | (with_reducible apply kept_doneW)

theorem kept_execLaneInjgo {s0 s : State} (h : Kept s0 s) : ∀ x0 x1, ∃ t, execLaneInjgo x0 x1 s = .next t ∧ Kept s0 t := by
  intro x0 x1
  unfold execLaneInjgo
  refine kept_onLane h ?_ _
  repeat' first | (with_reducible assumption) | (with_reducible exact h) | (with_reducible apply kept_injGo) | (with_reducible apply kept_onLane) | (with_reducible apply kept_ite) | (with_reducible apply kept_foldl) | (with_reducible apply keptP_foldl) | (with_reducible apply KeptP.one) | (with_reducible apply KeptQ.one) | (with_reducible apply KeptD.one) | (with_reducible apply KeptH.one) | (with_reducible apply KeptF.one) | simp only [kept_mk_iff] | split | dsimp only | intro _ _ _ | (with_reducible apply keptP_mk) | (with_reducible apply keptQ_mk)

end Sys2Proof.Machine
end

