-- ==== Sys2Proof/Laws/KeptStaging.lean ====
section
/-! SUPPORT. What each operation of Machine/Staging.lean keeps. -/

set_option linter.unreachableTactic false
set_option linter.unusedTactic false
set_option linter.unusedSimpArgs false
set_option linter.unusedVariables false

namespace Sys2Proof.Machine

theorem kept_stagedNow {s0 s : State} (h : Kept s0 s) : ∀ x0, Kept s0 (stagedNow s x0) := by
  intro x0
  unfold stagedNow
  split
  · repeat' first | (with_reducible assumption) | (with_reducible apply kept_cellStartStaged)
  · repeat' first | (with_reducible assumption) | (with_reducible apply kept_govSync)
  · repeat' first | (with_reducible assumption) | (with_reducible apply kept_govSync)
  · assumption

theorem kept_stageOne {s0 s : State} (h : Kept s0 s) : ∀ x0 x1 x2, KeptP s0 (stageOne s x0 x1 x2) := by
  intro x0 x1 x2
  unfold stageOne
  split
  · extract_lets -merge -useContext -underBinder c_1
    try clear_value c_1
    split
    · apply keptP_mk
      repeat' first | (with_reducible assumption) | apply KeptP.eq (e := by assumption) | (with_reducible apply kept_stage) | (with_reducible apply kept_stagedNow)
    · apply keptP_mk
      repeat' first | (with_reducible assumption) | apply KeptP.eq (e := by assumption) | (with_reducible apply kept_stage) | apply KeptP.eq (e := by assumption) | (with_reducible apply kept_stage)
  · apply keptP_mk
    assumption

theorem kept_stageInner {s0 s : State} (h : Kept s0 s) : ∀ x0 x1 x2 x3 x4, KeptP s0 (stageInner x0 x1 x2 s x3 x4) := by
  intro x0 x1 x2 x3 x4
  induction x4 generalizing s x0 x1 x2 x3 with
  | nil =>
    unfold stageInner
    apply keptP_mk
    assumption
  | cons y ys ih =>
    unfold stageInner
    apply keptP_ite
    · apply keptP_mk
      repeat' first | (with_reducible assumption) | (with_reducible apply ih)
    · split
      · extract_lets -merge -useContext -underBinder c_1 s1_2
        try clear_value c_1
        have h_s1_2 : Kept s0 s1_2 := by
          unfold s1_2
          repeat' first | (with_reducible assumption) | (with_reducible apply ih) | (with_reducible apply kept_stagedNow) | (with_reducible apply kept_setPn) | exact fun h => ⟨h.1, h.2, h.3, h.4⟩ | simp only [kept_mk_iff]
        try clear_value s1_2
        split
        · rename_i a0_3 a1_3 a2_3 e_3
          have h_a0_3 : Kept s0 a0_3 := by
            apply KeptP.eq (e := e_3)
            repeat' first | (with_reducible assumption) | (with_reducible apply ih)
          clear e_3
          apply keptP_mk
          repeat' first | (with_reducible assumption) | (with_reducible apply ih)
      · apply keptP_mk
        repeat' first | (with_reducible assumption) | (with_reducible apply ih)

theorem kept_stageGroup {s0 s : State} (h : Kept s0 s) (q : Req) (prepared : Bool) : KeptP s0 (stageGroup s q prepared) := by
  unfold stageGroup
  extract_lets n b whole
  have hw : ∀ st, KeptP s0 (whole st) := fun _ => h
  clear_value whole
  apply keptP_ite
  · exact hw _
  · split
    · exact hw _
    · apply keptP_ite
      · exact hw _
      · split
        · rename_i s1 _ inner e
          have h1 : Kept s0 s1 := KeptP.eq (kept_stageInner h ..) e
          extract_lets c
          clear_value c
          split
          · exact keptP_mk (kept_govSync (kept_setPn h1 _ fun x => ⟨x.1, x.2, x.3, x.4⟩))
          · exact hw _
        · exact keptP_mk h

theorem kept_stageStep {s0 s : State} (h : Kept s0 s) : ∀ x0 x1, KeptD s0 (stageStep s x0 x1) := by
  intro x0 x1
  unfold stageStep
  extract_lets -merge -useContext -underBinder d_1
  have h_d_1 : KeptD s0 d_1 := by
    unfold d_1
    repeat' first | (with_reducible assumption) | (with_reducible apply kept_timeStep)
  try clear_value d_1
  apply keptD_mk
  apply kept_ite
  · repeat' first | (with_reducible assumption) | (with_reducible apply kept_cellsSync) | (with_reducible apply KeptD.one)
  · repeat' first | (with_reducible assumption) | (with_reducible apply KeptD.one)

theorem kept_stageAny {s0 s : State} (h : Kept s0 s) : ∀ x0 x1 x2, KeptP s0 (stageAny s x0 x1 x2) := by
  intro x0 x1 x2
  unfold stageAny
  apply keptP_ite
  · repeat' first | (with_reducible assumption) | (with_reducible apply kept_stageGroup)
  · apply keptP_ite
    · extract_lets -merge -useContext -underBinder d_1
      have h_d_1 : KeptD s0 d_1 := by
        unfold d_1
        repeat' first | (with_reducible assumption) | (with_reducible apply kept_stageStep)
      try clear_value d_1
      repeat' first | (with_reducible assumption) | (with_reducible apply KeptD.one) | (with_reducible apply keptP_mk) | (with_reducible apply keptQ_mk)
    · repeat' first | (with_reducible assumption) | (with_reducible apply kept_stageOne)

theorem kept_commitCmd {s0 s : State} (h : Kept s0 s) : ∀ x0 x1, KeptD s0 (commitCmd x0 x1 s) := by
  intro x0 x1
  unfold commitCmd
  split
  · rename_i a0_1 a1_1 a2_1 e_1
    have h_a0_1 : Kept s0 a0_1 := by
      apply KeptP.eq (e := e_1)
      repeat' first | (with_reducible assumption) | (with_reducible apply kept_stageAny)
    clear e_1
    repeat' first | (with_reducible assumption) | (with_reducible apply keptD_mk) | simp only [kept_mk_iff]

theorem kept_applyCommand {s0 s : State} (h : Kept s0 s) : ∀ x0 x1 x2, Kept s0 (applyCommand s x0 x1 x2) := by
  intro x0 x1 x2
  unfold applyCommand
  split
  · repeat' first | (with_reducible assumption) | (with_reducible apply kept_hbmPartitionApply)
  · repeat' first | (with_reducible assumption) | (with_reducible apply kept_queueConfigApply)
  · repeat' first | (with_reducible assumption) | (with_reducible apply kept_fhFlowApply)
  · repeat' first | (with_reducible assumption) | (with_reducible apply kept_govPolicyApply)
  · repeat' first | (with_reducible assumption) | (with_reducible apply kept_cellStartApply)
  · repeat' first | (with_reducible assumption) | (with_reducible apply kept_tddApply)
  · repeat' first | (with_reducible assumption) | (with_reducible apply kept_cellStopApply)
  · assumption

theorem kept_noteCommit {s0 s : State} (h : Kept s0 s) : ∀ x0 x1 x2 x3 x4 x5, Kept s0 (noteCommit s x0 x1 x2 x3 x4 x5) := by
  intro x0 x1 x2 x3 x4 x5
  unfold noteCommit
  apply kept_ite
  · repeat' first | (with_reducible assumption) | (with_reducible apply kept_emitCommit)
  · assumption

theorem kept_applyCommit {s0 s : State} (h : Kept s0 s) : ∀ x0, Kept s0 (applyCommit s x0) := by
  intro x0
  unfold applyCommit
  extract_lets -merge -useContext -underBinder s0_1 l_2 s1_3 s2_4
  have h_s0_1 : Kept s0 s0_1 := by
    unfold s0_1
    repeat' first | (with_reducible assumption) | (with_reducible apply kept_setPn) | exact fun h => ⟨h.1, h.2, h.3, h.4⟩ | simp only [kept_mk_iff]
  try clear_value s0_1
  try clear_value l_2
  have h_s1_3 : Kept s0 s1_3 := by
    unfold s1_3
    repeat' first | (with_reducible assumption) | (with_reducible apply kept_applyCommand) | (with_reducible apply kept_foldl) | (with_reducible apply keptP_foldl) | dsimp only | intro _ _ _
  try clear_value s1_3
  have h_s2_4 : Kept s0 s2_4 := by
    unfold s2_4
    repeat' first | (with_reducible assumption) | (with_reducible apply kept_noteCommit) | (with_reducible apply kept_foldl) | (with_reducible apply keptP_foldl) | dsimp only | intro _ _ _
  try clear_value s2_4
  apply kept_ite
  · repeat' first | (with_reducible assumption) | (with_reducible apply kept_applyCommand) | (with_reducible apply kept_noteCommit)
  · repeat' first | (with_reducible assumption) | (with_reducible apply kept_noteCommit)

theorem kept_applyDueN {s0 s : State} (h : Kept s0 s) : ∀ x0, Kept s0 (applyDueN x0 s) := by
  intro x0
  induction x0 generalizing s with
  | zero =>
    unfold applyDueN
    assumption
  | succ n ih =>
    unfold applyDueN
    split
    · repeat' first | (with_reducible assumption) | (with_reducible apply ih)
    · repeat' first | (with_reducible assumption) | (with_reducible apply ih) | (with_reducible apply kept_applyCommit)

theorem kept_applyDue {s0 s : State} (h : Kept s0 s) : Kept s0 (applyDue s) := by
  unfold applyDue
  repeat' first | (with_reducible assumption) | (with_reducible apply kept_applyDueN)

theorem kept_execCommitApply {s0 s : State} (h : Kept s0 s) : ∃ t, execCommitApply s = .next t ∧ Kept s0 t := by
  refine ⟨_, rfl, ?_⟩
  repeat' first | (with_reducible assumption) | (with_reducible apply kept_applyDue)

theorem kept_execTimeStepApply {s0 s : State} (h : Kept s0 s) : ∀ x0, ∃ t, execTimeStepApply x0 s = .next t ∧ Kept s0 t := by
  intro x0
  refine ⟨_, rfl, ?_⟩
  split
  · assumption
  · apply kept_ite
    · assumption
    · repeat' first | (with_reducible assumption) | (with_reducible apply kept_applyDue) | (with_reducible apply kept_applyStep)

theorem kept_commitStatus {s0 s : State} (h : Kept s0 s) : ∀ x0, KeptD s0 (commitStatus x0 s) := by
  intro x0
  unfold commitStatus
  extract_lets -merge -useContext -underBinder l_1
  try clear_value l_1
  apply keptD_ite
  · repeat' first | (with_reducible assumption) | (with_reducible apply kept_done) | (with_reducible apply kept_done)
  · repeat' first | (with_reducible assumption) | (with_reducible apply kept_doneW) | (with_reducible apply kept_doneW) | simp only [kept_mk_iff] | dsimp only | intro _ _ _ | (with_reducible apply keptP_mk) | (with_reducible apply keptQ_mk)

theorem kept_commitCancel {s0 s : State} (h : Kept s0 s) : ∀ x0, KeptD s0 (commitCancel x0 s) := by
  intro x0
  unfold commitCancel
  extract_lets -merge -useContext -underBinder op_1 tag_2 stream_3
  try clear_value op_1
  try clear_value tag_2
  try clear_value stream_3
  apply keptD_ite
  · repeat' first | (with_reducible assumption) | (with_reducible apply kept_done) | (with_reducible apply kept_done)
  · split
    · repeat' first | (with_reducible assumption) | (with_reducible apply kept_done) | (with_reducible apply kept_done)
    · extract_lets -merge -useContext -underBinder rest__4
      try clear_value rest__4
      apply keptD_ite
      · repeat' first | (with_reducible assumption) | (with_reducible apply kept_done) | (with_reducible apply kept_done)
      · apply keptD_ite
        · repeat' first | (with_reducible assumption) | (with_reducible apply kept_done) | (with_reducible apply kept_done)
        · repeat' first | (with_reducible assumption) | (with_reducible apply kept_cellsSync) | (with_reducible apply kept_done) | (with_reducible apply kept_setPn) | exact fun h => ⟨h.1, h.2, h.3, h.4⟩ | (with_reducible apply kept_done) | simp only [kept_mk_iff]

theorem kept_prepareHere {s0 s : State} (h : Kept s0 s) : ∀ x0 x1, KeptP s0 (prepareHere s x0 x1) := by
  intro x0 x1
  unfold prepareHere
  apply keptP_ite
  · repeat' first | (with_reducible assumption) | (with_reducible apply keptP_mk) | (with_reducible apply keptQ_mk)
  · apply keptP_ite
    · repeat' first | (with_reducible assumption) | (with_reducible apply keptP_mk) | (with_reducible apply keptQ_mk)
    · apply keptP_ite
      · repeat' first | (with_reducible assumption) | (with_reducible apply keptP_mk) | (with_reducible apply keptQ_mk)
      · repeat' first | (with_reducible assumption) | (with_reducible apply kept_stageAny)

theorem kept_confirmHere {s0 s : State} (h : Kept s0 s) : ∀ x0 x1, Kept s0 (confirmHere s x0 x1) := by
  intro x0 x1
  unfold confirmHere
  split
  · assumption
  · repeat' first | (with_reducible assumption) | (with_reducible apply kept_setPn) | exact fun h => ⟨h.1, h.2, h.3, h.4⟩ | (with_reducible apply kept_ite) | simp only [kept_mk_iff] | split

theorem kept_discardPrepared {s0 s : State} (h : Kept s0 s) : ∀ x0, Kept s0 (discardPrepared s x0) := by
  intro x0
  unfold discardPrepared
  apply kept_ite
  · repeat' first | (with_reducible assumption) | (with_reducible apply kept_dropStep)
  · repeat' first | (with_reducible assumption) | (with_reducible apply kept_cellsSync) | (with_reducible apply kept_setPn) | exact fun h => ⟨h.1, h.2, h.3, h.4⟩ | simp only [kept_mk_iff]

theorem kept_abortHere {s0 s : State} (h : Kept s0 s) : ∀ x0 x1, Kept s0 (abortHere s x0 x1) := by
  intro x0 x1
  unfold abortHere
  split
  · assumption
  · repeat' first | (with_reducible assumption) | (with_reducible apply kept_discardPrepared)

theorem kept_domainStart {s0 s : State} (h : Kept s0 s) : ∀ x0 x1 x2 x3 x4, KeptD s0 (domainStart s x0 x1 x2 x3 x4) := by
  intro x0 x1 x2 x3 x4
  unfold domainStart
  extract_lets -merge -useContext -underBinder own_1
  try clear_value own_1
  split
  · rename_i a0_2 a1_2 a2_2 e_2
    have h_a0_2 : Kept s0 a0_2 := by
      apply KeptP.eq (e := e_2)
      repeat' first | (with_reducible assumption) | (with_reducible apply kept_prepareHere) | (with_reducible apply kept_ite) | (with_reducible apply keptP_ite) | (with_reducible apply keptD_ite) | simp only [kept_mk_iff] | split | dsimp only | intro _ _ _ | (with_reducible apply keptP_mk) | (with_reducible apply keptQ_mk)
    clear e_2
    extract_lets -merge -useContext -underBinder s2_3 c_4
    have h_s2_3 : Kept s0 s2_3 := by
      unfold s2_3
      repeat' first | (with_reducible assumption) | (with_reducible apply kept_laceMsg) | (with_reducible apply kept_foldl) | (with_reducible apply keptP_foldl) | dsimp only | intro _ _ _
    try clear_value s2_3
    try clear_value c_4
    repeat' first | (with_reducible assumption) | (with_reducible apply kept_holding) | (with_reducible apply kept_setLace) | (with_reducible apply kept_holding) | simp only [kept_mk_iff]

theorem kept_laceDomainCommit {s0 s : State} (h : Kept s0 s) : ∀ x0, KeptD s0 (laceDomainCommit x0 s) := by
  intro x0
  unfold laceDomainCommit
  extract_lets -merge -useContext -underBinder n_1 k_2 pk_3 b_4
  try clear_value n_1
  try clear_value k_2
  try clear_value pk_3
  try clear_value b_4
  apply keptD_ite
  · repeat' first | (with_reducible assumption) | (with_reducible apply kept_done) | (with_reducible apply kept_done)
  · apply keptD_ite
    · repeat' first | (with_reducible assumption) | (with_reducible apply kept_done) | (with_reducible apply kept_done)
    · apply keptD_ite
      · repeat' first | (with_reducible assumption) | (with_reducible apply kept_done) | (with_reducible apply kept_done)
      · apply keptD_ite
        · repeat' first | (with_reducible assumption) | (with_reducible apply kept_done) | (with_reducible apply kept_done)
        · repeat' first | (with_reducible assumption) | (with_reducible apply kept_domainStart) | (with_reducible apply kept_ite) | (with_reducible apply keptD_ite) | split

theorem kept_timeStepCmd {s0 s : State} (h : Kept s0 s) : ∀ x0, KeptD s0 (timeStepCmd x0 s) := by
  intro x0
  unfold timeStepCmd
  apply keptD_ite
  · extract_lets -merge -useContext -underBinder d_1
    have h_d_1 : KeptD s0 d_1 := by
      unfold d_1
      repeat' first | (with_reducible assumption) | (with_reducible apply kept_timeStep)
    try clear_value d_1
    apply keptD_ite
    · repeat' first | (with_reducible assumption) | (with_reducible apply keptD_mk)
    · repeat' first | (with_reducible assumption) | (with_reducible apply kept_domainStart)
  · repeat' first | (with_reducible assumption) | (with_reducible apply kept_stageStep)

theorem kept_domainEnd {s0 s : State} (h : Kept s0 s) : ∀ x0 x1 x2 x3 x4, Kept s0 (domainEnd s x0 x1 x2 x3 x4) := by
  intro x0 x1 x2 x3 x4
  unfold domainEnd
  extract_lets -merge -useContext -underBinder s1_1 ids_2 out_3
  have h_s1_1 : Kept s0 s1_1 := by
    unfold s1_1
    repeat' first | (with_reducible assumption) | (with_reducible apply kept_setLace) | simp only [kept_mk_iff]
  try clear_value s1_1
  try clear_value ids_2
  try clear_value out_3
  repeat' first | (with_reducible assumption) | (with_reducible apply kept_endHeld)

theorem kept_domainDecide {s0 s : State} (h : Kept s0 s) : ∀ x0 x1, Kept s0 (domainDecide s x0 x1) := by
  intro x0 x1
  unfold domainDecide
  extract_lets -merge -useContext -underBinder answer__1 all_2 fails_3 others_4 late_5 s1_6 s2_7 c2_8 s1_9 s2_10 f_11
  try clear_value answer__1
  try clear_value all_2
  try clear_value fails_3
  try clear_value others_4
  try clear_value late_5
  have h_s1_6 : Kept s0 s1_6 := by
    unfold s1_6
    repeat' first | (with_reducible assumption) | (with_reducible apply kept_laceMsg) | (with_reducible apply kept_foldl) | (with_reducible apply keptP_foldl) | simp only [kept_mk_iff] | dsimp only | intro _ _ _ | (with_reducible apply keptP_mk) | (with_reducible apply keptQ_mk)
  try clear_value s1_6
  have h_s2_7 : Kept s0 s2_7 := by
    unfold s2_7
    repeat' first | (with_reducible assumption) | (with_reducible apply kept_confirmHere)
  try clear_value s2_7
  try clear_value c2_8
  have h_s1_9 : Kept s0 s1_9 := by
    unfold s1_9
    repeat' first | (with_reducible assumption) | (with_reducible apply kept_laceMsg) | (with_reducible apply kept_foldl) | (with_reducible apply keptP_foldl) | simp only [kept_mk_iff] | dsimp only | intro _ _ _ | (with_reducible apply keptP_mk) | (with_reducible apply keptQ_mk)
  try clear_value s1_9
  have h_s2_10 : Kept s0 s2_10 := by
    unfold s2_10
    repeat' first | (with_reducible assumption) | (with_reducible apply kept_abortHere)
  try clear_value s2_10
  try clear_value f_11
  apply kept_ite
  · assumption
  · apply kept_ite
    · apply kept_ite
      · repeat' first | (with_reducible assumption) | (with_reducible apply kept_domainEnd)
      · repeat' first | (with_reducible assumption) | (with_reducible apply kept_setLace) | (with_reducible apply kept_ite) | simp only [kept_mk_iff] | split
    · repeat' first | (with_reducible assumption) | (with_reducible apply kept_domainEnd) | (with_reducible apply kept_ite) | (with_reducible apply KeptP.one) | (with_reducible apply KeptQ.one) | split

theorem kept_domainAck {s0 s : State} (h : Kept s0 s) : ∀ x0 x1, Kept s0 (domainAck s x0 x1) := by
  intro x0 x1
  unfold domainAck
  extract_lets -merge -useContext -underBinder c2_1
  try clear_value c2_1
  apply kept_ite
  · assumption
  · apply kept_ite
    · repeat' first | (with_reducible assumption) | (with_reducible apply kept_domainEnd)
    · repeat' first | (with_reducible assumption) | (with_reducible apply kept_setLace) | (with_reducible apply kept_ite) | simp only [kept_mk_iff] | split

theorem kept_domainDeadline {s0 s : State} (h : Kept s0 s) : ∀ x0, Kept s0 (domainDeadline s x0) := by
  intro x0
  unfold domainDeadline
  extract_lets -merge -useContext -underBinder missing_1 s1_2
  try clear_value missing_1
  have h_s1_2 : Kept s0 s1_2 := by
    unfold s1_2
    repeat' first | (with_reducible assumption) | (with_reducible apply kept_laceMsg) | (with_reducible apply kept_foldl) | (with_reducible apply keptP_foldl) | dsimp only | intro _ _ _
  try clear_value s1_2
  apply kept_ite
  · assumption
  · repeat' first | (with_reducible assumption) | (with_reducible apply kept_domainEnd)

theorem kept_prepExpired {s0 s : State} (h : Kept s0 s) : ∀ x0, Kept s0 (prepExpired s x0) := by
  intro x0
  unfold prepExpired
  extract_lets -merge -useContext -underBinder gone_1 s1_2 s2_3
  try clear_value gone_1
  have h_s1_2 : Kept s0 s1_2 := by
    unfold s1_2
    repeat' first | (with_reducible assumption) | (with_reducible apply kept_discardPrepared) | (with_reducible apply kept_foldl) | (with_reducible apply keptP_foldl) | dsimp only | intro _ _ _
  try clear_value s1_2
  have h_s2_3 : Kept s0 s2_3 := by
    unfold s2_3
    apply kept_ite
    · assumption
    · repeat' first | (with_reducible assumption) | (with_reducible apply kept_raise)
  try clear_value s2_3
  apply kept_ite
  · repeat' first | (with_reducible assumption) | (with_reducible apply kept_raise) | (with_reducible apply kept_wrB)
  · assumption

end Sys2Proof.Machine
end

