-- ==== Sys2Proof/Laws/KeptAwlS.lean ====
section
/-! SUPPORT. What each operation of Machine/AwlS.lean keeps. -/

set_option linter.unreachableTactic false
set_option linter.unusedTactic false
set_option linter.unusedSimpArgs false
set_option linter.unusedVariables false

namespace Sys2Proof.Machine

theorem kept_putCore {s0 s : State} (h : Kept s0 s) : ∀ x0 x1 x2, Kept s0 (putCore s x0 x1 x2) := by
  intro x0 x1 x2
  unfold putCore
  repeat' first | (with_reducible assumption) | (with_reducible apply kept_ite) | simp only [kept_mk_iff] | split

end Sys2Proof.Machine
end

