-- ==== Sys2Proof/Laws/KeptAwlM.lean ====
section
/-! SUPPORT. What each operation of Machine/AwlM.lean keeps. -/

set_option linter.unreachableTactic false
set_option linter.unusedTactic false
set_option linter.unusedSimpArgs false
set_option linter.unusedVariables false

namespace Sys2Proof.Machine

theorem kept_loadSet {s0 s : State} (h : Kept s0 s) : ∀ x0, KeptP s0 (loadSet s x0) := by
  intro x0
  induction x0 generalizing s with
  | nil =>
    unfold loadSet
    apply keptP_mk
    assumption
  | cons y ys ih =>
    unfold loadSet
    split
    · rename_i a0_1 a1_1 e_1
      have h_a0_1 : Kept s0 a0_1 := by
        apply KeptP.eq (e := e_1)
        repeat' first | (with_reducible assumption) | (with_reducible apply ih) | (with_reducible apply kept_readWord)
      clear e_1
      split
      · rename_i a0_2 a1_2 e_2
        have h_a0_2 : Kept s0 a0_2 := by
          apply KeptP.eq (e := e_2)
          repeat' first | (with_reducible assumption) | (with_reducible apply ih)
        clear e_2
        apply keptP_mk
        repeat' first | (with_reducible assumption) | (with_reducible apply ih)

theorem kept_loadEls {s0 s : State} (h : Kept s0 s) (n : Nat) (as : List Nat) : KeptP s0 (loadEls s n as) := (kept_loadSet h _).one

/-- What a result of an M slot keeps: the state of a success, and the state that an element-precise exception carries. -/
def KeptM (s0 : State) (r : MRes) : Prop := match r with
  | .ok x => Kept s0 x.1
  | .error e => ∀ y, e.part = some y → Kept s0 y.1

theorem keptM_ok {s0 s : State} {o : Out} (h : Kept s0 s) : KeptM s0 (.ok (s, o)) := h
theorem keptM_exc (s0 : State) (a b c d) : KeptM s0 (mExc a b c d) := fun _ h => nomatch h

theorem kept_storeEl {s0 s : State} (h : Kept s0 s) : ∀ x0 x1 x2 x3, Kept s0 (storeEl s x0 x1 x2 x3) := by
  intro x0 x1 x2 x3
  unfold storeEl
  apply kept_ite
  · repeat' first | (with_reducible assumption) | (with_reducible apply kept_writeWord)
  · repeat' first | (with_reducible assumption) | (with_reducible apply kept_writeBytes)

theorem kept_storeRun {s0 : State} : ∀ (l : List (Nat × Nat × Bool)) {s : State}, Kept s0 s → Kept s0 (storeRun s l)
  | [], _, h => h
  | [x], _, h => kept_storeEl h ..
  | x :: y :: r, s, h => by
    unfold storeRun
    apply kept_ite
    · apply kept_storeRun r
      apply kept_ite
      · exact kept_writeWord h ..
      · exact kept_writeWord h ..
    · exact kept_storeRun (y :: r) (kept_storeEl h ..)

theorem kept_evalScalarM {s0 s : State} (h : Kept s0 s) (b m : Nat) (c : Core) (i : MIns) (slot : Nat) (ad : Addr) : KeptM s0 (evalScalarM s b m c i slot ad) := by
  unfold evalScalarM
  dsimp only
  split
  · exact keptM_exc _ _ _ _ _
  · split
    · exact keptM_exc _ _ _ _ _
    · split
      iterate 4 exact keptM_ok (kept_storeEl h ..)
      split
      · exact keptM_exc _ _ _ _ _
      · exact keptM_ok (kept_loadEls h ..).one

theorem kept_evalVecM {s0 s : State} (h : Kept s0 s) (b m : Nat) (c : Core) (i : MIns) (slot : Nat) (ad : Addr) (act : List Nat) :
    KeptM s0 (evalVecM s b m c i slot ad act) := by
  unfold evalVecM
  dsimp only
  split
  · exact keptM_exc _ _ _ _ _
  · split
    · exact keptM_exc _ _ _ _ _
    · split
      · exact keptM_ok (kept_storeRun _ h)
      · exact keptM_ok (kept_loadEls h ..).one

theorem kept_evalAccM {s0 s : State} (h : Kept s0 s) (b m : Nat) (c : Core) (i : MIns) (slot : Nat) (ad : Addr) : KeptM s0 (evalAccM s b m c i slot ad) := by
  unfold evalAccM
  dsimp only
  split
  · exact keptM_exc _ _ _ _ _
  · split
    · exact keptM_exc _ _ _ _ _
    · split
      · exact keptM_ok (kept_storeRun _ h)
      · exact keptM_ok (kept_loadEls h ..).one

theorem kept_storeEls {s0 s : State} (h : Kept s0 s) : ∀ x0 x1, Kept s0 (storeEls s x0 x1) := by
  intro x0 x1
  induction x1 generalizing s x0 with
  | nil =>
    unfold storeEls
    assumption
  | cons y ys ih =>
    unfold storeEls
    repeat' first | (with_reducible assumption) | (with_reducible apply ih) | (with_reducible apply kept_storeEl) | (with_reducible apply KeptP.one) | (with_reducible apply KeptQ.one)

theorem keptM_error {s0 s : State} {x : Exc} {o : Out} {w : W32} (h : Kept s0 s) : KeptM s0 (.error { exc := x, part := some (s, o, w) }) := by
  intro y e
  injection e with e
  rw [← e]
  exact h

theorem kept_evalPrecise {s0 s : State} (h : Kept s0 s) (b m : Nat) (c : Core) (i : MIns) (slot : Nat) : KeptM s0 (evalPrecise s b m c i slot) := by
  unfold evalPrecise
  dsimp only
  split
  · split
    · exact keptM_ok (kept_storeEls h _ _)
    · apply keptM_ok
      with_reducible apply KeptP.one
      exact kept_loadEls h (2 ^ (i.w + 1)) _
  · split
    · exact keptM_error (kept_storeEls h _ _)
    · apply keptM_error
      with_reducible apply KeptP.one
      exact kept_loadEls h (2 ^ (i.w + 1)) _

theorem kept_evalM {s0 s : State} (h : Kept s0 s) (b m : Nat) (c : Core) (i : MIns) (slot : Nat) : KeptM s0 (evalM s b m c i slot) := by
  unfold evalM
  split
  · exact keptM_ok h
  · split
    · exact kept_evalPrecise h ..
    · dsimp only
      split
      · exact keptM_ok h
      · split
        · exact keptM_exc _ _ _ _ _
        · split
          iterate 3 exact kept_evalVecM h ..
          iterate 2 exact kept_evalAccM h ..
          exact kept_evalScalarM h ..

end Sys2Proof.Machine
end

