-- ==== Sys2Proof/Laws/KeptAwl.lean ====
section
/-! SUPPORT. What each operation of Machine/Awl.lean keeps. -/

set_option linter.unreachableTactic false
set_option linter.unusedTactic false
set_option linter.unusedSimpArgs false
set_option linter.unusedVariables false

namespace Sys2Proof.Machine

theorem kept_takeExc {s0 s : State} (h : Kept s0 s) : ∀ x0 x1 x2 x3, Kept s0 (takeExc s x0 x1 x2 x3) := by
  intro x0 x1 x2 x3
  unfold takeExc
  extract_lets -merge -useContext -underBinder s1_1
  have h_s1_1 : Kept s0 s1_1 := by
    unfold s1_1
    repeat' first | (with_reducible assumption) | (with_reducible apply kept_readWord) | (with_reducible apply kept_foldl) | (with_reducible apply keptP_foldl) | (with_reducible apply KeptP.one) | dsimp only | intro _ _ _
  try clear_value s1_1
  repeat' first | (with_reducible assumption) | (with_reducible apply kept_putCore) | simp only [kept_mk_iff] | dsimp only | intro _ _ _ | (with_reducible apply keptP_mk) | (with_reducible apply keptQ_mk)

theorem kept_acceptIrq {s0 s : State} (h : Kept s0 s) : ∀ x0 x1, Kept s0 (acceptIrq s x0 x1) := by
  intro x0 x1
  unfold acceptIrq
  extract_lets -merge -useContext -underBinder c_1
  try clear_value c_1
  split
  · assumption
  · extract_lets -merge -useContext -underBinder __src_2
    apply kept_ite
    · assumption
    · repeat' first | (with_reducible assumption) | (with_reducible apply kept_putCore) | simp only [kept_mk_iff]

/-- What the two M slots keep. -/
def KeptR (s0 : State) (r : Except (State × Core × Exc) (State × Out)) : Prop := match r with
  | .ok x => Kept s0 x.1
  | .error x => Kept s0 x.1

theorem kept_runMs {s0 s : State} (h : Kept s0 s) (b m : Nat) (hold : Bool) (c : Core) (x : Bundle) : KeptR s0 (runMs s b m hold c x) := by
  unfold runMs
  extract_lets part
  have hp : ∀ {t c0 e}, Kept s0 t → (∀ y, e.part = some y → Kept s0 y.1) → KeptR s0 (.error (part t c0 e)) := by
    intro t c0 e ht he
    show Kept s0 (part t c0 e).1
    unfold part
    split
    · exact ht
    · rename_i hq
      exact he _ hq
  clear_value part
  have h1 := kept_evalM h b m c x.m0I 1
  split
  · rename_i e he
    rw [he] at h1
    exact hp h h1
  · rename_i s1 o1 he
    rw [he] at h1
    have h2 := kept_evalM h1 b m c x.m1I 2
    split
    · rename_i he; rw [he] at h2; exact h2
    · rename_i e he
      rw [he] at h2
      split
      · exact hp h1 h2
      · split
        · exact h
        · have h3 := kept_evalM h b m c x.m1I 2
          split
          · rename_i he; rw [he] at h3; exact hp h h3
          · exact hp h h2

theorem keptR_ok {s0 s : State} {o : Out} {r : Except (State × Core × Exc) (State × Out)} (h : KeptR s0 r) (e : r = .ok (s, o)) : Kept s0 s := by rw [e] at h; exact h

theorem keptR_error {s0 s : State} {o : Core × Exc} {r : Except (State × Core × Exc) (State × Out)} (h : KeptR s0 r) (e : r = .error (s, o)) : Kept s0 s := by rw [e] at h; exact h

theorem kept_issue {s0 s : State} (h : Kept s0 s) : ∀ x0 x1 x2 x3, Kept s0 (issue s x0 x1 x2 x3) := by
  intro x0 x1 x2 x3
  unfold issue
  extract_lets c1 v reads hold c
  split
  rename_i fw sa e
  have ha : Kept s0 sa := KeptQ.eq (kept_drawFree h) e
  split
  rename_i cy sb e'
  have hb : Kept s0 sb := KeptQ.eq (kept_drawFree ha) e'
  split
  · exact kept_takeExc hb ..
  · split
    · exact kept_takeExc hb ..
    · have hr := kept_runMs hb x0 x1 hold c x2
      split
      · rename_i e
        exact kept_takeExc (keptR_error hr e) ..
      · rename_i s2 o e
        have h2 : Kept s0 s2 := keptR_ok hr e
        split
        · exact kept_takeExc hb ..
        · extract_lets irq c' s3
          have h3 : Kept s0 s3 := kept_putCore h2 ..
          split
          · exact kept_complete h3 ..
          · exact h3

theorem kept_runS {s0 s : State} (h : Kept s0 s) : ∀ x0 x1, Kept s0 (runS x0 x1 s) := by
  intro x0 x1
  unfold runS
  apply kept_ite
  · repeat' first | (with_reducible assumption) | (with_reducible apply kept_issue) | simp only [kept_mk_iff]
  · assumption

theorem kept_runM {s0 s : State} (h : Kept s0 s) : ∀ x0 x1 x2, Kept s0 (runM x0 x1 x2 s) := by
  intro x0 x1 x2
  unfold runM
  extract_lets -merge -useContext -underBinder x_1
  try clear_value x_1
  apply kept_ite
  · repeat' first | (with_reducible assumption) | (with_reducible apply kept_issue) | (with_reducible apply kept_ite) | simp only [kept_mk_iff] | split
  · assumption

theorem kept_runV {s0 s : State} (h : Kept s0 s) : ∀ x0 x1, Kept s0 (runV x0 x1 s) := by
  intro x0 x1
  unfold runV
  apply kept_ite
  · repeat' first | (with_reducible assumption) | (with_reducible apply kept_issue) | (with_reducible apply kept_ite) | simp only [kept_mk_iff] | split
  · assumption

theorem kept_fetchAt {s0 s : State} (h : Kept s0 s) : ∀ x0 x1 x2, KeptP s0 (fetchAt s x0 x1 x2) := by
  intro x0 x1 x2
  unfold fetchAt
  apply keptP_ite
  · repeat' first | (with_reducible assumption) | (with_reducible apply keptP_mk) | (with_reducible apply keptQ_mk)
  · split
    rename_i a_1 a_2 a_3 a_4 e_5
    have h_a_2 : Kept s0 a_2 := by
      apply KeptP.eq (e := e_5)
      repeat' first | (with_reducible assumption) | (with_reducible apply kept_read32s)
    clear e_5
    repeat' first | (with_reducible assumption) | (with_reducible apply keptP_mk) | (with_reducible apply keptQ_mk)

theorem kept_fetchBundle {s0 s : State} (h : Kept s0 s) : ∀ x0 x1, KeptP s0 (fetchBundle s x0 x1) := by
  intro x0 x1
  unfold fetchBundle
  extract_lets c now
  have hn : KeptP s0 now := kept_fetchAt h ..
  split
  rename_i s1 x e
  refine keptP_mk (KeptP.eq ?_ e)
  split
  · exact keptP_ite (keptP_mk h) hn
  · exact hn

theorem kept_fetchAhead {s0 s : State} (h : Kept s0 s) : ∀ x0 x1 x2, Kept s0 (fetchAhead s x0 x1 x2) := by
  intro x0 x1 x2
  induction x2 generalizing s with
  | zero => exact h
  | succ n ih =>
    unfold fetchAhead
    extract_lets c
    apply kept_ite h
    extract_lets pc
    split
    · exact h
    · rename_i e
      exact ih (kept_putCore (KeptP.eq (kept_fetchAt h ..) e) ..)

theorem kept_execBundleIssue {s0 s : State} (h : Kept s0 s) : ∀ x0, ∃ t, execBundleIssue x0 s = .next t ∧ Kept s0 t := by
  intro x0
  unfold execBundleIssue
  refine ⟨_, rfl, ?_⟩
  extract_lets -merge -useContext -underBinder b_1 m_2
  try clear_value b_1
  try clear_value m_2
  apply kept_ite
  · repeat' first | (with_reducible assumption)
  · split
    rename_i a_3 a_4 a_5 e_6
    have h_a_5 : Kept s0 a_5 := by
      apply KeptQ.eq (e := e_6)
      repeat' first | (with_reducible assumption) | (with_reducible apply kept_drawFree)
    clear e_6
    extract_lets -merge -useContext -underBinder s2_7
    have h_s2_7 : Kept s0 s2_7 := by
      unfold s2_7
      split
      · rename_i a_8 a_9 e_10
        have h_a_9 : Kept s0 a_9 := by
          apply KeptP.eq (e := e_10)
          repeat' first | (with_reducible assumption) | (with_reducible apply kept_fetchBundle)
        clear e_10
        repeat' first | (with_reducible assumption) | (with_reducible apply kept_issue)
      · rename_i a_11 a_12 a_13 e_14
        have h_a_12 : Kept s0 a_12 := by
          apply KeptP.eq (e := e_14)
          repeat' first | (with_reducible assumption) | (with_reducible apply kept_fetchBundle)
        clear e_14
        repeat' first | (with_reducible assumption) | (with_reducible apply kept_issue)
    try clear_value s2_7
    repeat' first | (with_reducible assumption) | (with_reducible apply kept_fetchAhead)

theorem kept_execBranchResolve {s0 s : State} (h : Kept s0 s) : ∀ x0, ∃ t, execBranchResolve x0 s = .next t ∧ Kept s0 t := by
  intro x0
  refine ⟨_, rfl, ?_⟩
  extract_lets -merge -useContext -underBinder c_1
  try clear_value c_1
  split
  · assumption
  · split
    · rename_i a0_2 a1_2 e_2
      have h_a1_2 : Kept s0 a1_2 := by
        apply KeptQ.eq (e := e_2)
        repeat' first | (with_reducible assumption) | (with_reducible apply kept_drawFree)
      clear e_2
      extract_lets -merge -useContext -underBinder k_3 old_4
      try clear_value k_3
      try clear_value old_4
      repeat' first | (with_reducible assumption) | (with_reducible apply kept_putCore) | (with_reducible apply kept_ite) | (with_reducible apply KeptQ.one) | simp only [kept_mk_iff] | split | dsimp only | intro _ _ _ | (with_reducible apply keptP_mk) | (with_reducible apply keptQ_mk)

theorem kept_execInterruptAccept {s0 s : State} (h : Kept s0 s) : ∀ x0, ∃ t, execInterruptAccept x0 s = .next t ∧ Kept s0 t := by
  intro x0
  refine ⟨_, rfl, ?_⟩
  apply kept_ite
  · assumption
  · repeat' first | (with_reducible assumption) | (with_reducible apply kept_acceptIrq)

theorem kept_coreTaskStart {s0 s : State} (h : Kept s0 s) : ∀ x0, Kept s0 (coreTaskStart s x0) := by
  intro x0
  unfold coreTaskStart
  extract_lets -merge -useContext -underBinder b_1 m_2 c_3
  try clear_value b_1
  try clear_value m_2
  try clear_value c_3
  apply kept_ite
  · assumption
  · split
    · assumption
    · extract_lets -merge -useContext -underBinder pc_4
      try clear_value pc_4
      repeat' first | (with_reducible assumption) | apply keptO_beginTask (e := by assumption) | (with_reducible apply kept_putCore) | simp only [kept_mk_iff]

theorem kept_execCoreTaskStart {s0 s : State} (h : Kept s0 s) : ∀ x0, ∃ t, execCoreTaskStart x0 s = .next t ∧ Kept s0 t := by
  intro x0
  refine ⟨_, rfl, ?_⟩
  repeat' first | (with_reducible assumption) | (with_reducible apply kept_coreTaskStart)

theorem kept_watchdogExpire {s0 s : State} (h : Kept s0 s) : ∀ x0 x1, Kept s0 (watchdogExpire s x0 x1) := by
  intro x0 x1
  unfold watchdogExpire
  extract_lets -merge -useContext -underBinder c_1 s1_2 __src_3
  try clear_value c_1
  have h_s1_2 : Kept s0 s1_2 := by
    unfold s1_2
    split
    · repeat' first | (with_reducible assumption) | (with_reducible apply kept_complete)
    · assumption
  try clear_value s1_2
  apply kept_ite
  · repeat' first | (with_reducible assumption) | (with_reducible apply kept_putCore) | simp only [kept_mk_iff]
  · repeat' first | (with_reducible assumption) | (with_reducible apply kept_putCore) | simp only [kept_mk_iff]

theorem kept_execAwlWatchdogExpiry {s0 s : State} (h : Kept s0 s) : ∀ x0, ∃ t, execAwlWatchdogExpiry x0 s = .next t ∧ Kept s0 t := by
  intro x0
  refine ⟨_, rfl, ?_⟩
  apply kept_ite
  · assumption
  · repeat' first | (with_reducible assumption) | (with_reducible apply kept_watchdogExpire)

theorem kept_execTickcmpReached {s0 s : State} (h : Kept s0 s) : ∀ x0, ∃ t, execTickcmpReached x0 s = .next t ∧ Kept s0 t := by
  intro x0
  refine ⟨_, rfl, ?_⟩
  extract_lets -merge -useContext -underBinder c_1
  try clear_value c_1
  apply kept_ite
  · repeat' first | (with_reducible assumption) | (with_reducible apply kept_putCore) | simp only [kept_mk_iff]
  · assumption

theorem kept_ipiWrite {s0 s : State} (h : Kept s0 s) : ∀ x0 x1 x2, Kept s0 (ipiWrite s x0 x1 x2) := by
  intro x0 x1 x2
  unfold ipiWrite
  extract_lets -merge -useContext -underBinder c_1
  try clear_value c_1
  apply kept_ite
  · repeat' first | (with_reducible assumption) | (with_reducible apply kept_putCore)
  · repeat' first | (with_reducible assumption)

theorem kept_execCoreIpiWrite {s0 s : State} (h : Kept s0 s) : ∀ x0 x1, ∃ t, execCoreIpiWrite x0 x1 s = .next t ∧ Kept s0 t := by
  intro x0 x1
  refine ⟨_, rfl, ?_⟩
  extract_lets -merge -useContext -underBinder c_1
  try clear_value c_1
  apply kept_ite
  · repeat' first | (with_reducible assumption) | (with_reducible apply kept_putCore) | simp only [kept_mk_iff]
  · assumption

theorem kept_execWaitevComplete {s0 s : State} (h : Kept s0 s) : ∀ x0, ∃ t, execWaitevComplete x0 s = .next t ∧ Kept s0 t := by
  intro x0
  refine ⟨_, rfl, ?_⟩
  extract_lets -merge -useContext -underBinder b_1 m_2 c_3
  try clear_value b_1
  try clear_value m_2
  try clear_value c_3
  apply kept_ite
  · assumption
  · repeat' first | (with_reducible assumption) | (with_reducible apply kept_acceptIrq) | (with_reducible apply kept_putCore) | simp only [kept_mk_iff]

end Sys2Proof.Machine
end

