-- ==== Sys2Proof/Laws/KeptCma.lean ====
section
/-! SUPPORT. What each operation of Machine/Cma.lean keeps. -/

set_option linter.unreachableTactic false
set_option linter.unusedTactic false
set_option linter.unusedSimpArgs false
set_option linter.unusedVariables false

namespace Sys2Proof.Machine

theorem kept_cmaTelem {s0 s : State} (h : Kept s0 s) : ∀ x0 x1 x2, Kept s0 (cmaTelem s x0 x1 x2) := by
  intro x0 x1 x2
  unfold cmaTelem
  repeat' first | (with_reducible assumption) | (with_reducible apply kept_bump)

theorem kept_startLoad {s0 s : State} (h : Kept s0 s) : ∀ x0 x1, Kept s0 (startLoad s x0 x1) := by
  intro x0 x1
  unfold startLoad
  extract_lets -merge -useContext -underBinder s1_1
  have h_s1_1 : Kept s0 s1_1 := by
    unfold s1_1
    repeat' first | (with_reducible assumption) | (with_reducible apply kept_cmaTelem) | (with_reducible apply kept_dropBank) | (with_reducible apply kept_setCma) | (with_reducible apply kept_ite) | (with_reducible apply KeptP.one) | (with_reducible apply KeptQ.one) | simp only [kept_mk_iff] | split | dsimp only | intro _ _ _ | (with_reducible apply keptP_mk) | (with_reducible apply keptQ_mk)
  try clear_value s1_1
  repeat' first | (with_reducible assumption) | (with_reducible apply kept_cmaSync)

theorem kept_jobCheck {s0 s : State} (h : Kept s0 s) : ∀ x0 x1, KeptP s0 (jobCheck s x0 x1) := by
  intro x0 x1
  unfold jobCheck
  split
  · rename_i a0_1 a1_1 a2_1 a3_1 e_1
    have h_a0_1 : Kept s0 a0_1 := by
      apply KeptP.eq (e := e_1)
      repeat' first | (with_reducible assumption) | (with_reducible apply kept_net32s)
    clear e_1
    apply keptP_ite
    · apply keptP_mk
      assumption
    · apply keptP_ite
      · apply keptP_mk
        assumption
      · apply keptP_ite
        · apply keptP_mk
          assumption
        · apply keptP_ite
          · apply keptP_mk
            assumption
          · split
            · rename_i a0_2 a1_2 a2_2 a3_2 e_2
              have h_a0_2 : Kept s0 a0_2 := by
                apply KeptP.eq (e := e_2)
                repeat' first | (with_reducible assumption) | (with_reducible apply kept_net32s)
              clear e_2
              apply keptP_ite
              · apply keptP_mk
                assumption
              · apply keptP_ite
                · apply keptP_mk
                  assumption
                · apply keptP_ite
                  · apply keptP_mk
                    assumption
                  · apply keptP_mk
                    assumption

theorem kept_cmaStart {s0 s : State} (h : Kept s0 s) : ∀ x0, Kept s0 (cmaStart s x0) := by
  intro b
  unfold cmaStart
  extract_lets k
  apply kept_ite h
  split
  · exact h
  · rename_i s1 i t e
    have h1 : Kept s0 s1 := keptO_beginTask h e
    split
    rename_i s2 st d e2
    have h2 : Kept s0 s2 := KeptP.eq (kept_jobCheck h1 ..) e2
    exact kept_cmaSync (kept_wrF (kept_wrB (kept_wr (kept_wr (kept_setCma h2 ..) ..) ..) ..) ..) _

theorem kept_setJob {s0 s : State} (h : Kept s0 s) : ∀ x0 x1, Kept s0 (setJob s x0 x1) := by
  intro x0 x1
  unfold setJob
  repeat' first | (with_reducible assumption) | (with_reducible apply kept_setCma) | simp only [kept_mk_iff]

theorem kept_stopJob {s0 s : State} (h : Kept s0 s) : ∀ x0 x1, Kept s0 (stopJob s x0 x1) := by
  intro x0 x1
  unfold stopJob
  repeat' first | (with_reducible assumption) | (with_reducible apply kept_cmaSync) | (with_reducible apply kept_setJob) | simp only [kept_mk_iff]

theorem kept_wsEntry {s0 s : State} (h : Kept s0 s) : ∀ x0 x1 x2, KeptP s0 (wsEntry s x0 x1 x2) := by
  intro x0 x1 x2
  unfold wsEntry
  split
  · rename_i a0_1 a1_1 a2_1 a3_1 e_1
    have h_a0_1 : Kept s0 a0_1 := by
      apply KeptP.eq (e := e_1)
      repeat' first | (with_reducible assumption) | (with_reducible apply kept_net32s)
    clear e_1
    apply keptP_mk
    assumption

theorem kept_seekBank {s0 s : State} (h : Kept s0 s) : ∀ x0, Kept s0 (seekBank s x0) := by
  intro x0
  unfold seekBank
  extract_lets -merge -useContext -underBinder c_1
  try clear_value c_1
  split
  · rename_i a_2 e_3
    repeat' first | (with_reducible assumption)
  · rename_i a_4 a_5 e_6
    split
    · rename_i a_7 e_8
      repeat' first | (with_reducible assumption)
    · rename_i a_9 a_10 e_11
      extract_lets -merge -useContext -underBinder k_12
      try clear_value k_12
      split
      rename_i a_13 a_14 a_15 e_16
      apply kept_ite
      · repeat' first | (with_reducible assumption) | (with_reducible apply kept_cmaSync) | (with_reducible apply kept_setJob)
      · apply kept_ite
        · repeat' first | (with_reducible assumption) | (with_reducible apply kept_cmaSync) | (with_reducible apply kept_setJob)
        · repeat' first | (with_reducible assumption) | (with_reducible apply kept_startLoad) | (with_reducible apply kept_cmaTelem) | (with_reducible apply kept_setJob)

theorem kept_prefetch {s0 s : State} (h : Kept s0 s) : ∀ x0 x1 x2, Kept s0 (prefetch s x0 x1 x2) := by
  intro x0 x1 x2
  unfold prefetch
  extract_lets -merge -useContext -underBinder w1_1
  try clear_value w1_1
  apply kept_ite
  · assumption
  · split
    · rename_i a0_2 a1_2 a2_2 a3_2 e_2
      have h_a0_2 : Kept s0 a0_2 := by
        apply KeptP.eq (e := e_2)
        repeat' first | (with_reducible assumption) | (with_reducible apply kept_wsEntry)
      clear e_2
      extract_lets -merge -useContext -underBinder k_3
      try clear_value k_3
      apply kept_ite
      · assumption
      · apply kept_ite
        · assumption
        · apply kept_ite
          · repeat' first | (with_reducible assumption) | (with_reducible apply kept_cmaTelem) | (with_reducible apply kept_setJob) | simp only [kept_mk_iff]
          · repeat' first | (with_reducible assumption) | (with_reducible apply kept_startLoad)

theorem kept_segmentStart {s0 s : State} (h : Kept s0 s) : ∀ x0, Kept s0 (segmentStart s x0) := by
  intro x0
  unfold segmentStart
  extract_lets -merge -useContext -underBinder c_1
  try clear_value c_1
  split
  · rename_i a_2 e_3
    repeat' first | (with_reducible assumption)
  · rename_i a_4 a_5 e_6
    apply kept_ite
    · repeat' first | (with_reducible assumption)
    · split
      rename_i a_7 a_8 a_9 a_10 a_11 e_12
      have h_a_8 : Kept s0 a_8 := by
        apply KeptP.eq (e := e_12)
        repeat' first | (with_reducible assumption) | (with_reducible apply kept_net32s)
      clear e_12
      extract_lets -merge -useContext -underBinder s2_13
      have h_s2_13 : Kept s0 s2_13 := by
        unfold s2_13
        repeat' first | (with_reducible assumption) | (with_reducible apply kept_wrF)
      try clear_value s2_13
      apply kept_ite
      · repeat' first | (with_reducible assumption) | (with_reducible apply kept_stopJob)
      · apply kept_ite
        · repeat' first | (with_reducible assumption) | (with_reducible apply kept_stopJob)
        · apply kept_ite
          · repeat' first | (with_reducible assumption) | (with_reducible apply kept_stopJob)
          · split
            rename_i a_14 a_15 a_16 a_17 a_18 e_19
            have h_a_15 : Kept s0 a_15 := by
              apply KeptP.eq (e := e_19)
              repeat' first | (with_reducible assumption) | (with_reducible apply kept_wsEntry)
            clear e_19
            apply kept_ite
            · repeat' first | (with_reducible assumption) | (with_reducible apply kept_stopJob)
            · extract_lets -merge -useContext -underBinder s4_20
              have h_s4_20 : Kept s0 s4_20 := by
                unfold s4_20
                repeat' first | (with_reducible assumption) | (with_reducible apply kept_seekBank) | (with_reducible apply kept_setJob) | (with_reducible apply keptP_mk) | (with_reducible apply keptQ_mk)
              try clear_value s4_20
              repeat' first | (with_reducible assumption) | (with_reducible apply kept_cmaSync) | (with_reducible apply kept_prefetch)

theorem kept_execCmaSegmentStart {s0 s : State} (h : Kept s0 s) : ∀ x0, ∃ t, execCmaSegmentStart x0 s = .next t ∧ Kept s0 t := by
  intro x0
  unfold execCmaSegmentStart
  refine ⟨_, rfl, ?_⟩
  repeat' first | (with_reducible assumption) | (with_reducible apply kept_settled) | (with_reducible apply kept_segmentStart)

theorem kept_readInputs {s0 s : State} (h : Kept s0 s) : ∀ x0 x1 x2 x3, KeptP s0 (readInputs s x0 x1 x2 x3) := by
  intro x0 x1 x2 x3
  induction x3 generalizing s with
  | nil => exact keptP_mk h
  | cons y ys ih =>
    unfold readInputs
    split
    rename_i s1 st bs p e
    have h1 : Kept s0 s1 := KeptP.eq (kept_netBytes h ..) e
    apply keptP_ite (keptP_mk h1)
    split
    rename_i e
    exact keptP_mk (KeptP.eq (ih h1) e)

theorem kept_pilotTake {s0 s : State} (h : Kept s0 s) : ∀ x0 x1 x2, Kept s0 (pilotTake s x0 x1 x2) := by
  intro x0 x1 x2
  unfold pilotTake
  repeat' first | (with_reducible assumption) | (with_reducible apply kept_setCma)

theorem kept_rowCalTake {s0 s : State} (h : Kept s0 s) : ∀ x0 x1 x2, Kept s0 (rowCalTake s x0 x1 x2) := by
  intro x0 x1 x2
  unfold rowCalTake
  extract_lets -merge -useContext -underBinder seen_1
  try clear_value seen_1
  apply kept_ite
  · repeat' first | (with_reducible assumption) | (with_reducible apply kept_setCma)
  · repeat' first | (with_reducible assumption) | (with_reducible apply kept_setCma)

theorem kept_storeRows {s0 s : State} (h : Kept s0 s) : ∀ x0 x1 x2 x3 x4, Kept s0 (storeRows s x0 x1 x2 x3 x4) := by
  intro x0 x1 x2 x3 x4
  induction x4 generalizing s x3 with
  | nil => exact h
  | cons y ys ih => exact ih (KeptP.one (kept_netStore h ..)) _

theorem kept_takeSpare {s0 s : State} (h : Kept s0 s) : ∀ x0, KeptP s0 (takeSpare s x0) := by
  intro x0
  unfold takeSpare
  split
  · apply keptP_mk
    repeat' first | (with_reducible assumption) | (with_reducible apply kept_bump) | (with_reducible apply kept_raise) | (with_reducible apply kept_setSpare)
  · extract_lets -merge -useContext -underBinder s1_1 best_2
    have h_s1_1 : Kept s0 s1_1 := by
      unfold s1_1
      repeat' first | (with_reducible assumption) | (with_reducible apply kept_raise)
    try clear_value s1_1
    try clear_value best_2
    apply keptP_mk
    assumption

theorem kept_enterDrift {s0 s : State} (h : Kept s0 s) : ∀ x0 x1, Kept s0 (enterDrift s x0 x1) := by
  intro x0 x1
  unfold enterDrift
  extract_lets -merge -useContext -underBinder s1_1 s2_2 s3_3 s4_4 s5_5
  have h_s1_1 : Kept s0 s1_1 := by
    unfold s1_1
    repeat' first | (with_reducible assumption) | (with_reducible apply kept_cmaTelem) | (with_reducible apply kept_raise) | (with_reducible apply kept_setCmaState)
  try clear_value s1_1
  have h_s2_2 : Kept s0 s2_2 := by
    unfold s2_2
    repeat' first | (with_reducible assumption) | (with_reducible apply kept_ledAdd) | (with_reducible apply kept_wrB) | (with_reducible apply kept_ite) | split
  try clear_value s2_2
  have h_s3_3 : Kept s0 s3_3 := by
    unfold s3_3
    repeat' first | (with_reducible assumption) | (with_reducible apply kept_setLed) | (with_reducible apply kept_ite) | split
  try clear_value s3_3
  have h_s4_4 : Kept s0 s4_4 := by
    unfold s4_4
    repeat' first | (with_reducible assumption) | (with_reducible apply kept_setGov) | simp only [kept_mk_iff]
  try clear_value s4_4
  have h_s5_5 : Kept s0 s5_5 := by
    unfold s5_5
    apply kept_ite
    · repeat' first | (with_reducible assumption) | (with_reducible apply kept_setSpare)
    · split
      · repeat' first | (with_reducible assumption) | apply KeptP.eq (e := by assumption) | (with_reducible apply kept_takeSpare) | (with_reducible apply kept_setCma) | simp only [kept_mk_iff]
      · repeat' first | (with_reducible assumption) | apply KeptP.eq (e := by assumption) | (with_reducible apply kept_takeSpare) | apply KeptP.eq (e := by assumption) | (with_reducible apply kept_takeSpare)
  try clear_value s5_5
  repeat' first | (with_reducible assumption) | (with_reducible apply kept_cmaSync)

theorem kept_spendInj {s0 s : State} (h : Kept s0 s) : ∀ x0, Kept s0 (spendInj s x0) := by
  intro x0
  unfold spendInj
  extract_lets -merge -useContext -underBinder n_1 s1_2
  try clear_value n_1
  have h_s1_2 : Kept s0 s1_2 := by
    unfold s1_2
    repeat' first | (with_reducible assumption) | (with_reducible apply kept_setCma) | simp only [kept_mk_iff]
  try clear_value s1_2
  apply kept_ite
  · assumption
  · apply kept_ite
    · repeat' first | (with_reducible assumption) | (with_reducible apply kept_wrB)
    · assumption

theorem kept_runCount {s0 s : State} (h : Kept s0 s) : ∀ x0 x1 x2, Kept s0 (runCount s x0 x1 x2) := by
  intro x0 x1 x2
  unfold runCount
  extract_lets -merge -useContext -underBinder n_1 s1_2
  try clear_value n_1
  have h_s1_2 : Kept s0 s1_2 := by
    unfold s1_2
    repeat' first | (with_reducible assumption) | (with_reducible apply kept_wr)
  try clear_value s1_2
  apply kept_ite
  · repeat' first | (with_reducible assumption) | (with_reducible apply kept_enterDrift)
  · assumption

theorem kept_learn {s0 s : State} (h : Kept s0 s) : ∀ x0, Kept s0 (learn s x0) := by
  intro x0
  unfold learn
  extract_lets -merge -useContext -underBinder c_1 band_2
  try clear_value c_1
  try clear_value band_2
  split
  · assumption
  · apply kept_ite
    · assumption
    · split
      · rename_i a0_3 a1_3 e_3
        have h_a1_3 : Kept s0 a1_3 := by
          apply KeptQ.eq (e := e_3)
          repeat' first | (with_reducible assumption) | (with_reducible apply kept_drawFree)
        clear e_3
        repeat' first | (with_reducible assumption) | (with_reducible apply kept_setCma) | simp only [kept_mk_iff] | dsimp only | intro _ _ _ | (with_reducible apply keptP_mk) | (with_reducible apply keptQ_mk)

theorem kept_vectorExit {s0 s : State} (h : Kept s0 s) : ∀ x0 x1, Kept s0 (vectorExit s x0 x1) := by
  intro x0 x1
  unfold vectorExit
  extract_lets -merge -useContext -underBinder c_1
  try clear_value c_1
  split
  · rename_i a_2 e_3
    repeat' first | (with_reducible assumption)
  · rename_i a_4 a_5 e_6
    split
    · rename_i a_7 e_8
      repeat' first | (with_reducible assumption)
    · rename_i a_9 a_10 e_11
      apply kept_ite
      · repeat' first | (with_reducible assumption)
      · extract_lets -merge -useContext -underBinder d_12 inp_13 out_14 flag_15 cols_16 rows_17
        try clear_value d_12
        try clear_value inp_13
        try clear_value out_14
        try clear_value flag_15
        try clear_value cols_16
        try clear_value rows_17
        split
        rename_i a_18 a_19 a_20 a_21 e_22
        have h_a_19 : Kept s0 a_19 := by
          apply KeptP.eq (e := e_22)
          apply keptP_ite
          · repeat' first | (with_reducible assumption) | (with_reducible apply keptP_mk) | (with_reducible apply keptQ_mk)
          · repeat' first | (with_reducible assumption) | (with_reducible apply kept_readInputs)
        clear e_22
        apply kept_ite
        · repeat' first | (with_reducible assumption) | (with_reducible apply kept_stopJob)
        · extract_lets -merge -useContext -underBinder ex_23 again_24 odd_25 perrSq_26
          try clear_value ex_23
          try clear_value again_24
          try clear_value odd_25
          try clear_value perrSq_26
          split
          rename_i a_27 a_28 a_29 e_30
          extract_lets -merge -useContext -underBinder above_31 kind_32 spent_33
          try clear_value above_31
          try clear_value kind_32
          try clear_value spent_33
          split
          rename_i a_34 a_35 a_36 e_37
          split
          rename_i a_38 a_39 a_40 e_41
          extract_lets -merge -useContext -underBinder s2_42 s3_43 xfer_44 deg_45 s4_46 susp_47 perr_48 qb_49 s5_50 s6_51 s7_52 fin_53
          have h_s2_42 : Kept s0 s2_42 := by
            unfold s2_42
            repeat' first | (with_reducible assumption) | (with_reducible apply kept_rowCalTake) | (with_reducible apply kept_pilotTake) | (with_reducible apply kept_storeRows) | (with_reducible apply KeptP.one) | (with_reducible apply keptP_mk) | (with_reducible apply keptQ_mk) | simp only [kept_mk_iff]
          try clear_value s2_42
          have h_s3_43 : Kept s0 s3_43 := by
            unfold s3_43
            apply kept_ite
            · repeat' first | (with_reducible assumption) | (with_reducible apply kept_spendInj)
            · repeat' first | (with_reducible assumption)
          try clear_value s3_43
          try clear_value xfer_44
          try clear_value deg_45
          have h_s4_46 : Kept s0 s4_46 := by
            unfold s4_46
            repeat' first | (with_reducible assumption) | (with_reducible apply kept_runCount) | (with_reducible apply kept_learn)
          try clear_value s4_46
          try clear_value susp_47
          try clear_value perr_48
          try clear_value qb_49
          have h_s5_50 : Kept s0 s5_50 := by
            unfold s5_50
            repeat' first | (with_reducible assumption) | (with_reducible apply kept_netStore) | (with_reducible apply KeptP.one)
          try clear_value s5_50
          have h_s6_51 : Kept s0 s6_51 := by
            unfold s6_51
            repeat' first | (with_reducible assumption) | (with_reducible apply kept_cmaTelem)
          try clear_value s6_51
          have h_s7_52 : Kept s0 s7_52 := by
            unfold s7_52
            repeat' first | (with_reducible assumption) | (with_reducible apply kept_wr)
          try clear_value s7_52
          try clear_value fin_53
          repeat' first | (with_reducible assumption) | (with_reducible apply kept_cmaSync) | (with_reducible apply kept_setJob) | (with_reducible apply KeptQ.one) | (with_reducible apply keptP_mk) | (with_reducible apply keptQ_mk)

theorem kept_execCmaVectorExit {s0 s : State} (h : Kept s0 s) : ∀ x0 x1, ∃ t, execCmaVectorExit x0 x1 s = .next t ∧ Kept s0 t := by
  intro x0 x1
  unfold execCmaVectorExit
  refine ⟨_, rfl, ?_⟩
  repeat' first | (with_reducible assumption) | (with_reducible apply kept_settled) | (with_reducible apply kept_vectorExit)

theorem kept_nextPreload {s0 s : State} (h : Kept s0 s) : ∀ x0 x1, Kept s0 (nextPreload s x0 x1) := by
  intro x0 x1
  induction x1 generalizing s x0 with
  | zero =>
    unfold nextPreload
    assumption
  | succ n ih =>
    unfold nextPreload
    extract_lets -merge -useContext -underBinder c_1
    try clear_value c_1
    apply kept_ite
    · repeat' first | (with_reducible assumption) | (with_reducible apply ih)
    · split
      · repeat' first | (with_reducible assumption) | (with_reducible apply ih)
      · extract_lets -merge -useContext -underBinder s1_2
        have h_s1_2 : Kept s0 s1_2 := by
          unfold s1_2
          repeat' first | (with_reducible assumption) | (with_reducible apply ih) | (with_reducible apply kept_setCma) | simp only [kept_mk_iff]
        try clear_value s1_2
        apply kept_ite
        · repeat' first | (with_reducible assumption) | (with_reducible apply ih)
        · repeat' first | (with_reducible assumption) | (with_reducible apply ih) | (with_reducible apply kept_startLoad)

theorem kept_afterLoad {s0 s : State} (h : Kept s0 s) : ∀ x0, Kept s0 (afterLoad s x0) := by
  intro x0
  unfold afterLoad
  extract_lets -merge -useContext -underBinder s1_1
  have h_s1_1 : Kept s0 s1_1 := by
    unfold s1_1
    split
    · apply kept_ite
      · repeat' first | (with_reducible assumption) | (with_reducible apply kept_seekBank)
      · assumption
    · assumption
  try clear_value s1_1
  repeat' first | (with_reducible assumption) | (with_reducible apply kept_cmaSync) | (with_reducible apply kept_nextPreload)

theorem kept_endLoad {s0 s : State} (h : Kept s0 s) : ∀ x0 x1 x2 x3 x4, Kept s0 (endLoad s x0 x1 x2 x3 x4) := by
  intro x0 x1 x2 x3 x4
  unfold endLoad
  extract_lets -merge -useContext -underBinder s1_1 s2_2 s3_3 ok_4 s4_5 s5_6 s6_7
  have h_s1_1 : Kept s0 s1_1 := by
    unfold s1_1
    repeat' first | (with_reducible assumption) | (with_reducible apply kept_setCma) | simp only [kept_mk_iff]
  try clear_value s1_1
  have h_s2_2 : Kept s0 s2_2 := by
    unfold s2_2
    apply kept_ite
    · repeat' first | (with_reducible assumption) | (with_reducible apply kept_raise)
    · apply kept_ite
      · assumption
      · repeat' first | (with_reducible assumption) | (with_reducible apply kept_raise)
  try clear_value s2_2
  have h_s3_3 : Kept s0 s3_3 := by
    unfold s3_3
    apply kept_ite
    · repeat' first | (with_reducible assumption) | (with_reducible apply kept_wrB)
    · assumption
  try clear_value s3_3
  try clear_value ok_4
  have h_s4_5 : Kept s0 s4_5 := by
    unfold s4_5
    apply kept_ite
    · repeat' first | (with_reducible assumption) | (with_reducible apply kept_setCma) | (with_reducible apply kept_wr) | simp only [kept_mk_iff]
    · assumption
  try clear_value s4_5
  have h_s5_6 : Kept s0 s5_6 := by
    unfold s5_6
    apply kept_ite
    · repeat' first | (with_reducible assumption) | (with_reducible apply kept_stopJob)
    · assumption
  try clear_value s5_6
  have h_s6_7 : Kept s0 s6_7 := by
    unfold s6_7
    split
    · repeat' first | (with_reducible assumption) | (with_reducible apply kept_endHeld) | (with_reducible apply kept_ite) | split
    · assumption
  try clear_value s6_7
  repeat' first | (with_reducible assumption) | (with_reducible apply kept_afterLoad) | (with_reducible apply kept_cmaSync)

theorem kept_loadComplete {s0 s : State} (h : Kept s0 s) : ∀ x0 x1 x2, Kept s0 (loadComplete s x0 x1 x2) := by
  intro x0 x1 x2
  unfold loadComplete
  split
  · rename_i a_1 e_2
    repeat' first | (with_reducible assumption)
  · rename_i a_3 a_4 e_5
    split
    rename_i a_6 a_7 a_8 a_9 a_10 e_11
    have h_a_7 : Kept s0 a_7 := by
      apply KeptP.eq (e := e_11)
      split
      · rename_i a_12 a_13 a_14
        apply keptP_mk
        apply kept_ite
        · repeat' first | (with_reducible assumption) | (with_reducible apply kept_netGiveUp)
        · repeat' first | (with_reducible assumption)
      · rename_i a_15
        repeat' first | (with_reducible assumption) | (with_reducible apply kept_netBytes)
    clear e_11
    extract_lets -merge -useContext -underBinder arm_16 s2_17 waited_18 s3_19
    try clear_value arm_16
    have h_s2_17 : Kept s0 s2_17 := by
      unfold s2_17
      apply kept_ite
      · repeat' first | (with_reducible assumption) | (with_reducible apply kept_wrB)
      · repeat' first | (with_reducible assumption)
    try clear_value s2_17
    try clear_value waited_18
    have h_s3_19 : Kept s0 s3_19 := by
      unfold s3_19
      apply kept_ite
      · repeat' first | (with_reducible assumption) | (with_reducible apply kept_cmaTelem) | (with_reducible apply kept_setJob)
      · repeat' first | (with_reducible assumption)
    try clear_value s3_19
    repeat' first | (with_reducible assumption) | (with_reducible apply kept_endLoad)

theorem kept_execCmaLoadComplete {s0 s : State} (h : Kept s0 s) : ∀ x0 x1 x2, ∃ t, execCmaLoadComplete x0 x1 x2 s = .next t ∧ Kept s0 t := by
  intro x0 x1 x2
  unfold execCmaLoadComplete
  refine ⟨_, rfl, ?_⟩
  split
  · rename_i a_1
    repeat' first | (with_reducible assumption) | (with_reducible apply kept_settled) | (with_reducible apply kept_loadComplete)
  · rename_i a_2 a_3
    apply kept_ite
    · repeat' first | (with_reducible assumption) | (with_reducible apply kept_settled) | (with_reducible apply kept_loadComplete) | (with_reducible apply keptP_mk) | (with_reducible apply keptQ_mk)
    · repeat' first | (with_reducible assumption)

theorem kept_spareRead {s0 s : State} (h : Kept s0 s) : ∀ x0, Kept s0 (spareRead s x0) := by
  intro x0
  unfold spareRead
  split
  · rename_i a_1 e_2
    repeat' first | (with_reducible assumption)
  · rename_i a_3 a_4 e_5
    apply kept_ite
    · repeat' first | (with_reducible assumption)
    · repeat' first | (with_reducible assumption) | (with_reducible apply kept_setCma)

theorem kept_sparePreload {s0 s : State} (h : Kept s0 s) : ∀ x0, Kept s0 (sparePreload s x0) := by
  intro x0
  unfold sparePreload
  apply kept_ite
  · repeat' first | (with_reducible assumption)
  · extract_lets -merge -useContext -underBinder s1_1
    have h_s1_1 : Kept s0 s1_1 := by
      unfold s1_1
      repeat' first | (with_reducible assumption) | (with_reducible apply kept_spareRead)
    try clear_value s1_1
    apply kept_ite
    · repeat' first | (with_reducible assumption)
    · repeat' first | (with_reducible assumption) | (with_reducible apply kept_cmaSync) | (with_reducible apply kept_nextPreload)

theorem kept_execCmaSparePreload {s0 s : State} (h : Kept s0 s) : ∀ x0, ∃ t, execCmaSparePreload x0 s = .next t ∧ Kept s0 t := by
  intro x0
  refine ⟨_, rfl, ?_⟩
  repeat' first | (with_reducible assumption) | (with_reducible apply kept_sparePreload)

theorem kept_jobComplete {s0 s : State} (h : Kept s0 s) : ∀ x0, Kept s0 (jobComplete s x0) := by
  intro x0
  unfold jobComplete
  split
  · rename_i a_1 e_2
    repeat' first | (with_reducible assumption)
  · rename_i a_3 a_4 e_5
    apply kept_ite
    · repeat' first | (with_reducible assumption)
    · extract_lets -merge -useContext -underBinder s1_6 s2_7
      have h_s1_6 : Kept s0 s1_6 := by
        unfold s1_6
        repeat' first | (with_reducible assumption) | (with_reducible apply kept_netStore) | (with_reducible apply KeptP.one)
      try clear_value s1_6
      have h_s2_7 : Kept s0 s2_7 := by
        unfold s2_7
        repeat' first | (with_reducible assumption) | (with_reducible apply kept_setCma) | (with_reducible apply kept_complete)
      try clear_value s2_7
      repeat' first | (with_reducible assumption) | (with_reducible apply kept_cmaSync) | (with_reducible apply kept_wrF) | (with_reducible apply kept_wrB)

theorem kept_execCmaJobComplete {s0 s : State} (h : Kept s0 s) : ∀ x0, ∃ t, execCmaJobComplete x0 s = .next t ∧ Kept s0 t := by
  intro x0
  unfold execCmaJobComplete
  refine ⟨_, rfl, ?_⟩
  repeat' first | (with_reducible assumption) | (with_reducible apply kept_settled) | (with_reducible apply kept_jobComplete)

theorem kept_execCmaBandSample {s0 s : State} (h : Kept s0 s) : ∀ x0 x1, ∃ t, execCmaBandSample x0 x1 s = .next t ∧ Kept s0 t := by
  intro x0 x1
  refine ⟨_, rfl, ?_⟩
  extract_lets -merge -useContext -underBinder n_1 s1_2 s2_3
  try clear_value n_1
  have h_s1_2 : Kept s0 s1_2 := by
    unfold s1_2
    repeat' first | (with_reducible assumption) | (with_reducible apply kept_raise) | (with_reducible apply kept_wrF)
  try clear_value s1_2
  have h_s2_3 : Kept s0 s2_3 := by
    unfold s2_3
    repeat' first | (with_reducible assumption) | (with_reducible apply kept_setCma) | (with_reducible apply KeptP.one) | (with_reducible apply KeptQ.one) | simp only [kept_mk_iff] | dsimp only | intro _ _ _ | (with_reducible apply keptP_mk) | (with_reducible apply keptQ_mk)
  try clear_value s2_3
  apply kept_ite
  · assumption
  · repeat' first | (with_reducible assumption) | (with_reducible apply kept_calDueCheck) | (with_reducible apply kept_cmaSync)

theorem kept_restSegs {s0 s : State} (h : Kept s0 s) : ∀ x0, KeptP s0 (restSegs s x0) := by
  intro b
  unfold restSegs
  split
  · exact keptP_mk h
  · exact keptP_foldl _ (fun p x k => keptP_mk (KeptP.one (kept_net32s (KeptP.one k) ..))) _ (keptP_mk h)

theorem kept_bgPlane {s0 s : State} (h : Kept s0 s) : ∀ x0, KeptP s0 (bgPlane s x0) := by
  intro x0
  unfold bgPlane
  extract_lets -merge -useContext -underBinder c_1
  try clear_value c_1
  split
  rename_i a_2 a_3 a_4 e_5
  have h_a_3 : Kept s0 a_3 := by
    apply KeptP.eq (e := e_5)
    repeat' first | (with_reducible assumption) | (with_reducible apply kept_restSegs)
  clear e_5
  repeat' first | (with_reducible assumption) | (with_reducible apply keptP_mk) | (with_reducible apply keptQ_mk)

theorem kept_execCmaBgCalStep {s0 s : State} (h : Kept s0 s) : ∀ x0 x1, ∃ t, execCmaBgCalStep x0 x1 s = .next t ∧ Kept s0 t := by
  intro x0 x1
  unfold execCmaBgCalStep
  refine ⟨_, rfl, ?_⟩
  extract_lets -merge -useContext -underBinder k_1
  try clear_value k_1
  apply kept_ite
  · repeat' first | (with_reducible assumption)
  · split
    · rename_i a_2 e_3
      apply kept_settled
      · repeat' first | (with_reducible assumption)
      · split
        · rename_i a_4 a_5 e_6
          have h_a_5 : Kept s0 a_5 := by
            apply KeptP.eq (e := e_6)
            repeat' first | (with_reducible assumption) | (with_reducible apply kept_bgPlane)
          clear e_6
          repeat' first | (with_reducible assumption)
        · rename_i a_7 a_8 a_9 e_10
          have h_a_8 : Kept s0 a_8 := by
            apply KeptP.eq (e := e_10)
            repeat' first | (with_reducible assumption) | (with_reducible apply kept_bgPlane)
          clear e_10
          repeat' first | (with_reducible assumption) | (with_reducible apply kept_cmaSync) | (with_reducible apply kept_setCma) | (with_reducible apply kept_dropBank) | (with_reducible apply keptP_mk) | (with_reducible apply keptQ_mk)
    · rename_i a_11 a_12 a_13 a_14 e_15
      apply kept_ite
      · repeat' first | (with_reducible assumption) | (with_reducible apply kept_cmaSync) | (with_reducible apply kept_setCma) | (with_reducible apply keptP_mk) | (with_reducible apply keptQ_mk)
      · repeat' first | (with_reducible assumption) | (with_reducible apply kept_cmaSync) | (with_reducible apply kept_raise) | (with_reducible apply kept_writeCalRec) | (with_reducible apply kept_setCma)

theorem kept_execCmaFullCalStart {s0 s : State} (h : Kept s0 s) : ∀ x0, ∃ t, execCmaFullCalStart x0 s = .next t ∧ Kept s0 t := by
  intro x0
  unfold execCmaFullCalStart
  refine ⟨_, rfl, ?_⟩
  extract_lets -merge -useContext -underBinder k_1 c_2
  try clear_value k_1
  try clear_value c_2
  apply kept_ite
  · repeat' first | (with_reducible assumption)
  · apply kept_startCal
    refine kept_foldl _ ?_ _ ?_
    · intro a_3 x_4 h_5
      repeat' first | (with_reducible assumption) | (with_reducible apply kept_spareRead)
    · repeat' first | (with_reducible assumption)

theorem kept_ledgerCheck {s0 s : State} (h : Kept s0 s) : ∀ x0 x1 x2, Kept s0 (ledgerCheck s x0 x1 x2) := by
  intro x0 x1 x2
  unfold ledgerCheck
  extract_lets -merge -useContext -underBinder s1_1 w_2 worst_3
  have h_s1_1 : Kept s0 s1_1 := by
    unfold s1_1
    repeat' first | (with_reducible assumption) | (with_reducible apply kept_ledAdd)
  try clear_value s1_1
  try clear_value w_2
  try clear_value worst_3
  repeat' first | (with_reducible assumption) | (with_reducible apply kept_setLed) | simp only [kept_mk_iff] | dsimp only | intro _ _ _ | (with_reducible apply keptP_mk) | (with_reducible apply keptQ_mk)

theorem kept_rejoin {s0 s : State} (h : Kept s0 s) : ∀ x0, Kept s0 (rejoin s x0) := by
  intro x0
  unfold rejoin
  extract_lets -merge -useContext -underBinder s1_1
  have h_s1_1 : Kept s0 s1_1 := by
    unfold s1_1
    repeat' first | (with_reducible assumption) | (with_reducible apply kept_setGov) | simp only [kept_mk_iff]
  try clear_value s1_1
  apply kept_ite
  · assumption
  · apply kept_ite
    · repeat' first | (with_reducible assumption) | (with_reducible apply kept_setSpare)
    · assumption

theorem kept_cmaFail {s0 s : State} (h : Kept s0 s) : ∀ x0, Kept s0 (cmaFail s x0) := by
  intro x0
  unfold cmaFail
  extract_lets -merge -useContext -underBinder s1_1 s2_2
  have h_s1_1 : Kept s0 s1_1 := by
    unfold s1_1
    repeat' first | (with_reducible assumption) | (with_reducible apply kept_raise) | (with_reducible apply kept_setCmaState)
  try clear_value s1_1
  have h_s2_2 : Kept s0 s2_2 := by
    unfold s2_2
    apply kept_ite
    · repeat' first | (with_reducible assumption) | (with_reducible apply kept_setSpare)
    · apply kept_ite
      · repeat' first | (with_reducible assumption) | (with_reducible apply kept_takeSpare) | (with_reducible apply KeptP.one)
      · assumption
  try clear_value s2_2
  repeat' first | (with_reducible assumption) | (with_reducible apply kept_capSync) | (with_reducible apply kept_setGov) | simp only [kept_mk_iff]

theorem kept_execCmaFullCalEnd {s0 s : State} (h : Kept s0 s) : ∀ x0 x1 x2, ∃ t, execCmaFullCalEnd x0 x1 x2 s = .next t ∧ Kept s0 t := by
  intro x0 x1 x2
  unfold execCmaFullCalEnd
  refine ⟨_, rfl, ?_⟩
  extract_lets -merge -useContext -underBinder k_2 arm_3 s1_4 err_5 s2_6 s3_7 s4_8 s4_9
  try clear_value k_2
  try clear_value arm_3
  have h_s1_4 : Kept s0 s1_4 := by
    unfold s1_4
    apply kept_ite
    · repeat' first | (with_reducible assumption) | (with_reducible apply kept_wrB)
    · repeat' first | (with_reducible assumption)
  try clear_value s1_4
  try clear_value err_5
  have h_s2_6 : Kept s0 s2_6 := by
    unfold s2_6
    repeat' first | (with_reducible assumption) | (with_reducible apply kept_ledgerCheck) | (with_reducible apply kept_cmaTelem)
  try clear_value s2_6
  have h_s3_7 : Kept s0 s3_7 := by
    unfold s3_7
    repeat' first | (with_reducible assumption) | (with_reducible apply kept_raiseIf)
  try clear_value s3_7
  have h_s4_8 : Kept s0 s4_8 := by
    unfold s4_8
    repeat' first | (with_reducible assumption) | (with_reducible apply kept_wr) | (with_reducible apply kept_setCma) | (with_reducible apply kept_setCmaState) | (with_reducible apply kept_writeCalRec)
  try clear_value s4_8
  have h_s4_9 : Kept s0 s4_9 := by
    unfold s4_9
    apply kept_ite
    · repeat' first | (with_reducible assumption) | (with_reducible apply kept_wrB)
    · repeat' first | (with_reducible assumption)
  try clear_value s4_9
  apply kept_ite
  · repeat' first | (with_reducible assumption)
  · apply kept_ite
    · repeat' first | (with_reducible assumption) | (with_reducible apply kept_cmaSync) | (with_reducible apply kept_rejoin) | (with_reducible apply kept_raise)
    · apply kept_ite
      · repeat' first | (with_reducible assumption) | (with_reducible apply kept_cmaSync) | (with_reducible apply kept_setCma)
      · repeat' first | (with_reducible assumption) | (with_reducible apply kept_cmaSync) | (with_reducible apply kept_cmaFail) | (with_reducible apply kept_wr) | (with_reducible apply kept_setCma)

theorem kept_calibrate {s0 s : State} (h : Kept s0 s) : ∀ x0 x1, KeptP s0 (calibrate s x0 x1) := by
  intro x0 x1
  unfold calibrate
  extract_lets -merge -useContext -underBinder c_1 st_2
  try clear_value c_1
  try clear_value st_2
  apply keptP_ite
  · repeat' first | (with_reducible assumption) | (with_reducible apply keptP_mk) | (with_reducible apply keptQ_mk)
  · apply keptP_ite
    · repeat' first | (with_reducible assumption) | (with_reducible apply keptP_mk) | (with_reducible apply keptQ_mk)
    · apply keptP_ite
      · apply keptP_ite
        · repeat' first | (with_reducible assumption) | (with_reducible apply kept_cmaSync) | (with_reducible apply kept_setCma) | (with_reducible apply keptP_mk) | (with_reducible apply keptQ_mk)
        · repeat' first | (with_reducible assumption) | (with_reducible apply kept_startCal) | (with_reducible apply keptP_mk) | (with_reducible apply keptQ_mk)
      · repeat' first | (with_reducible assumption) | (with_reducible apply kept_requestCal) | (with_reducible apply keptP_mk) | (with_reducible apply keptQ_mk)

theorem kept_execCmaCalStartBit {s0 s : State} (h : Kept s0 s) : ∀ x0 x1, ∃ t, execCmaCalStartBit x0 x1 s = .next t ∧ Kept s0 t := by
  intro x0 x1
  refine ⟨_, rfl, ?_⟩
  apply kept_ite
  · repeat' first | (with_reducible assumption) | (with_reducible apply kept_calibrate) | (with_reducible apply KeptP.one)
  · assumption

theorem kept_execCmaShellInjArm {s0 s : State} (h : Kept s0 s) : ∀ x0 x1, ∃ t, execCmaShellInjArm x0 x1 s = .next t ∧ Kept s0 t := by
  intro x0 x1
  refine ⟨_, rfl, ?_⟩
  apply kept_ite
  · repeat' first | (with_reducible assumption) | (with_reducible apply kept_setCma) | (with_reducible apply kept_wrB) | simp only [kept_mk_iff]
  · assumption

theorem kept_cmaInjWrite {s0 s : State} (h : Kept s0 s) : ∀ x0 x1, Kept s0 (cmaInjWrite s x0 x1) := by
  intro x0 x1
  unfold cmaInjWrite
  apply kept_ite
  · repeat' first | (with_reducible assumption) | (with_reducible apply kept_setCma) | (with_reducible apply kept_wrB)
  · apply kept_ite
    · repeat' first | (with_reducible assumption) | (with_reducible apply kept_setCma) | (with_reducible apply kept_wrB)
    · repeat' first | (with_reducible assumption)

theorem kept_cmaStatus {s0 s : State} (h : Kept s0 s) : ∀ x0, KeptD s0 (cmaStatus x0 s) := by
  intro x0
  unfold cmaStatus
  extract_lets -merge -useContext -underBinder b_1
  try clear_value b_1
  apply keptD_ite
  · repeat' first | (with_reducible assumption) | (with_reducible apply kept_done) | (with_reducible apply kept_done)
  · apply keptD_ite
    · repeat' first | (with_reducible assumption) | (with_reducible apply kept_done) | (with_reducible apply kept_done)
    · repeat' first | (with_reducible assumption) | (with_reducible apply kept_doneW) | (with_reducible apply kept_doneW)

theorem kept_cmaCalibrate {s0 s : State} (h : Kept s0 s) : ∀ x0, KeptD s0 (cmaCalibrate x0 s) := by
  intro x0
  unfold cmaCalibrate
  extract_lets -merge -useContext -underBinder b_1
  try clear_value b_1
  apply keptD_ite
  · repeat' first | (with_reducible assumption) | (with_reducible apply kept_done) | (with_reducible apply kept_done)
  · apply keptD_ite
    · repeat' first | (with_reducible assumption) | (with_reducible apply kept_done) | (with_reducible apply kept_done)
    · split
      · rename_i a0_2 a1_2 e_2
        have h_a0_2 : Kept s0 a0_2 := by
          apply KeptP.eq (e := e_2)
          repeat' first | (with_reducible assumption) | (with_reducible apply kept_calibrate)
        clear e_2
        repeat' first | (with_reducible assumption) | (with_reducible apply kept_done) | (with_reducible apply kept_done)

theorem kept_cmaConfig {s0 s : State} (h : Kept s0 s) : ∀ x0, KeptD s0 (cmaConfig x0 s) := by
  intro x0
  unfold cmaConfig
  extract_lets -merge -useContext -underBinder mask_1 bs_2 one_3
  try clear_value mask_1
  try clear_value bs_2
  apply keptD_ite
  · repeat' first | (with_reducible assumption) | unfold one_3 | (with_reducible apply kept_calDueCheck) | (with_reducible apply kept_done) | (with_reducible apply kept_wrF) | (with_reducible apply kept_wr) | (with_reducible apply kept_done)
  · apply keptD_ite
    · repeat' first | (with_reducible assumption) | unfold one_3 | (with_reducible apply kept_calDueCheck) | (with_reducible apply kept_done) | (with_reducible apply kept_wrF) | (with_reducible apply kept_wr) | (with_reducible apply kept_done)
    · repeat' first | (with_reducible assumption) | unfold one_3 | (with_reducible apply kept_calDueCheck) | (with_reducible apply kept_done) | (with_reducible apply kept_wrF) | (with_reducible apply kept_wr) | (with_reducible apply kept_done) | (with_reducible apply kept_foldl) | (with_reducible apply keptP_foldl) | dsimp only | intro _ _ _

theorem kept_cmaPreload {s0 s : State} (h : Kept s0 s) : ∀ x0, KeptD s0 (cmaPreload x0 s) := by
  intro x0
  unfold cmaPreload
  extract_lets -merge -useContext -underBinder b_1 k_2 a_3 c_4 target_5 __src_6
  try clear_value b_1
  try clear_value k_2
  try clear_value a_3
  try clear_value c_4
  try clear_value target_5
  apply keptD_ite
  · repeat' first | (with_reducible assumption) | (with_reducible apply kept_done) | (with_reducible apply kept_done)
  · apply keptD_ite
    · repeat' first | (with_reducible assumption) | (with_reducible apply kept_done) | (with_reducible apply kept_done)
    · apply keptD_ite
      · repeat' first | (with_reducible assumption) | (with_reducible apply kept_done) | (with_reducible apply kept_done)
      · apply keptD_ite
        · repeat' first | (with_reducible assumption) | (with_reducible apply kept_done) | (with_reducible apply kept_done)
        · repeat' first | (with_reducible assumption) | (with_reducible apply kept_holding) | (with_reducible apply kept_startLoad) | (with_reducible apply kept_holding) | simp only [kept_mk_iff]

theorem kept_cmaService {s0 s : State} (h : Kept s0 s) : ∀ x0, KeptD s0 (cmaService x0 s) := by
  intro x0
  unfold cmaService
  extract_lets -merge -useContext -underBinder b_1 en_2
  try clear_value b_1
  try clear_value en_2
  apply keptD_ite
  · repeat' first | (with_reducible assumption) | (with_reducible apply kept_done) | (with_reducible apply kept_done)
  · apply keptD_ite
    · repeat' first | (with_reducible assumption) | (with_reducible apply kept_done) | (with_reducible apply kept_done)
    · repeat' first | (with_reducible assumption) | (with_reducible apply kept_cmaSync) | (with_reducible apply kept_done) | (with_reducible apply kept_setCma) | (with_reducible apply kept_wrB) | (with_reducible apply kept_done) | simp only [kept_mk_iff]

end Sys2Proof.Machine
end

