-- ==== Sys2Proof/Laws/KeptReset.lean ====
section
/-! SUPPORT. What each operation of Machine/Reset.lean keeps. -/

set_option linter.unreachableTactic false
set_option linter.unusedTactic false
set_option linter.unusedSimpArgs false
set_option linter.unusedVariables false

namespace Sys2Proof.Machine

theorem kept_resetAll {s0 s : State} (h : Kept s0 s) (ao : Bool) : Kept s0 (resetAll ao s) := by
  refine h.trans ⟨rfl, rfl, fun _ => rfl, ?_, fun _ => rfl, fun _ => ⟨Nat.zero_le _, Nat.zero_le _, Nat.zero_le _, List.nodup_nil⟩, ⟨Nat.le_refl _, fun _ h => h⟩⟩
  intro x
  show keysRise (if ao then _ else _) = true
  split
  · exact keysRise_filter _ x
  · rfl

theorem kept_resetCore {s0 s : State} (h : Kept s0 s) : Kept s0 (resetCore s) := by
  unfold resetCore
  extract_lets -merge -useContext -underBinder t_1
  try clear_value t_1
  repeat' first | (with_reducible assumption) | (with_reducible apply kept_resetAll) | (with_reducible apply kept_wrF)

end Sys2Proof.Machine
end

