-- ==== Sys2Proof/Laws/KeptIdentity.lean ====
section
/-! SUPPORT. What each operation of Machine/Identity.lean keeps. -/

set_option linter.unreachableTactic false
set_option linter.unusedTactic false
set_option linter.unusedSimpArgs false
set_option linter.unusedVariables false

namespace Sys2Proof.Machine

theorem kept_setBoot {s0 s : State} (h : Kept s0 s) (f : Boot → Boot) (e : FuseUp s.boot (f s.boot)) : Kept s0 (setBoot s f) := kept_boot h _ e

theorem kept_setPhase {s0 s : State} (h : Kept s0 s) : ∀ x0, Kept s0 (setPhase s x0) := by
  intro x0
  unfold setPhase
  repeat' first | (with_reducible assumption) | (with_reducible apply kept_wrF)

theorem kept_showImage {s0 s : State} (h : Kept s0 s) : Kept s0 (showImage s) := by
  unfold showImage
  extract_lets -merge -useContext -underBinder s1_1
  have h_s1_1 : Kept s0 s1_1 := by
    unfold s1_1
    repeat' first | (with_reducible assumption) | (with_reducible apply kept_wr)
  try clear_value s1_1
  repeat' first | (with_reducible assumption) | (with_reducible apply kept_wr) | simp only [kept_mk_iff] | dsimp only | intro _ _ _ | (with_reducible apply keptP_mk) | (with_reducible apply keptQ_mk)

theorem kept_measure {s0 s : State} (h : Kept s0 s) : Kept s0 (measure s) := by
  unfold measure
  repeat' first | (with_reducible assumption) | (with_reducible apply kept_setBoot) | exact ⟨Nat.le_refl _, fun _ h => h⟩ | simp only [kept_mk_iff]

theorem kept_measureProfile {s0 s : State} (h : Kept s0 s) : Kept s0 (measureProfile s) := by
  unfold measureProfile
  extract_lets -merge -useContext -underBinder p_1
  try clear_value p_1
  repeat' first | (with_reducible assumption) | (with_reducible apply kept_setBoot) | exact ⟨Nat.le_refl _, fun _ h => h⟩ | simp only [kept_mk_iff] | split | dsimp only | intro _ _ _ | (with_reducible apply keptP_mk) | (with_reducible apply keptQ_mk)

theorem kept_fwStatus {s0 s : State} (h : Kept s0 s) : ∀ x0, KeptD s0 (fwStatus x0 s) := by
  intro x0
  unfold fwStatus
  extract_lets -merge -useContext -underBinder got_1
  try clear_value got_1
  apply keptD_ite
  · repeat' first | (with_reducible assumption) | (with_reducible apply kept_done) | (with_reducible apply kept_done)
  · repeat' first | (with_reducible assumption) | (with_reducible apply kept_doneW) | (with_reducible apply kept_doneW) | simp only [kept_mk_iff] | dsimp only | intro _ _ _ | (with_reducible apply keptP_mk) | (with_reducible apply keptQ_mk)

theorem kept_fwUpdateBegin {s0 s : State} (h : Kept s0 s) : ∀ x0, KeptD s0 (fwUpdateBegin x0 s) := by
  intro x0
  unfold fwUpdateBegin
  extract_lets -merge -useContext -underBinder len_1
  try clear_value len_1
  apply keptD_ite
  · repeat' first | (with_reducible assumption) | (with_reducible apply kept_done) | exact ⟨Nat.le_refl _, fun _ h => h⟩ | (with_reducible apply kept_done)
  · apply keptD_ite
    · repeat' first | (with_reducible assumption) | (with_reducible apply kept_done) | exact ⟨Nat.le_refl _, fun _ h => h⟩ | (with_reducible apply kept_done)
    · apply keptD_ite
      · repeat' first | (with_reducible assumption) | (with_reducible apply kept_done) | exact ⟨Nat.le_refl _, fun _ h => h⟩ | (with_reducible apply kept_done)
      · apply keptD_ite
        · repeat' first | (with_reducible assumption) | (with_reducible apply kept_done) | exact ⟨Nat.le_refl _, fun _ h => h⟩ | (with_reducible apply kept_done)
        · repeat' first | (with_reducible assumption) | (with_reducible apply kept_done) | (with_reducible apply kept_setBoot) | exact ⟨Nat.le_refl _, fun _ h => h⟩ | (with_reducible apply kept_done) | simp only [kept_mk_iff]

theorem kept_fwUpdateData {s0 s : State} (h : Kept s0 s) : ∀ x0, KeptD s0 (fwUpdateData x0 s) := by
  intro x0
  unfold fwUpdateData
  extract_lets -merge -useContext -underBinder off_1 data_2
  try clear_value off_1
  try clear_value data_2
  apply keptD_ite
  · repeat' first | (with_reducible assumption) | (with_reducible apply kept_done) | exact ⟨Nat.le_refl _, fun _ h => h⟩ | (with_reducible apply kept_done)
  · split
    · repeat' first | (with_reducible assumption) | (with_reducible apply kept_done) | exact ⟨Nat.le_refl _, fun _ h => h⟩ | (with_reducible apply kept_done)
    · apply keptD_ite
      · repeat' first | (with_reducible assumption) | (with_reducible apply kept_done) | exact ⟨Nat.le_refl _, fun _ h => h⟩ | (with_reducible apply kept_done)
      · repeat' first | (with_reducible assumption) | (with_reducible apply kept_done) | (with_reducible apply kept_setBoot) | exact ⟨Nat.le_refl _, fun _ h => h⟩ | (with_reducible apply kept_done) | simp only [kept_mk_iff]

theorem kept_writeFlash {s0 s : State} (h : Kept s0 s) : ∀ x0, Kept s0 (writeFlash s x0) := by
  intro x0
  unfold writeFlash
  apply kept_ite
  · repeat' first | (with_reducible assumption) | exact ⟨Nat.le_refl _, fun _ h => h⟩
  · apply kept_ite
    · repeat' first | (with_reducible assumption) | (with_reducible apply kept_setBoot) | exact ⟨Nat.le_refl _, fun _ h => h⟩ | simp only [kept_mk_iff]
    · repeat' first | (with_reducible assumption) | (with_reducible apply kept_setBoot) | exact ⟨Nat.le_refl _, fun _ h => h⟩ | simp only [kept_mk_iff]

theorem kept_restartMp {s0 s : State} (h : Kept s0 s) : Kept s0 (restartMp s) := by
  unfold restartMp
  extract_lets -merge -useContext -underBinder s1_1
  have h_s1_1 : Kept s0 s1_1 := by
    unfold s1_1
    repeat' first | (with_reducible assumption) | (with_reducible apply kept_wrB) | exact ⟨Nat.le_refl _, fun _ h => h⟩
  try clear_value s1_1
  repeat' first | (with_reducible assumption) | (with_reducible apply kept_setBoot) | (with_reducible apply kept_setPhase) | exact ⟨Nat.le_refl _, fun _ h => h⟩ | simp only [kept_mk_iff]

theorem kept_fwActivate {s0 s : State} (h : Kept s0 s) : ∀ x0, KeptD s0 (fwActivate x0 s) := by
  intro x0
  unfold fwActivate
  split
  · repeat' first | (with_reducible assumption) | (with_reducible apply kept_done) | exact ⟨Nat.le_refl _, fun _ h => h⟩ | (with_reducible apply kept_done)
  · extract_lets -merge -useContext -underBinder img_1 code_2 s1_3 s2_4 s3_5 s4_6
    try clear_value img_1
    try clear_value code_2
    have h_s1_3 : Kept s0 s1_3 := by
      unfold s1_3
      repeat' first | (with_reducible assumption) | (with_reducible apply kept_writeFlash) | exact ⟨Nat.le_refl _, fun _ h => h⟩
    try clear_value s1_3
    have h_s2_4 : Kept s0 s2_4 := by
      unfold s2_4
      repeat' first | (with_reducible assumption) | (with_reducible apply kept_setBoot) | exact ⟨Nat.le_refl _, fun _ h => h⟩ | simp only [kept_mk_iff]
    try clear_value s2_4
    have h_s3_5 : Kept s0 s3_5 := by
      unfold s3_5
      repeat' first | (with_reducible assumption) | (with_reducible apply kept_wrB) | exact ⟨Nat.le_refl _, fun _ h => h⟩
    try clear_value s3_5
    have h_s4_6 : Kept s0 s4_6 := by
      unfold s4_6
      apply kept_ite
      · repeat' first | (with_reducible assumption) | (with_reducible apply kept_wrB) | exact ⟨Nat.le_refl _, fun _ h => h⟩
      · repeat' first | (with_reducible assumption) | exact ⟨Nat.le_refl _, fun _ h => h⟩
    try clear_value s4_6
    apply keptD_ite
    · repeat' first | (with_reducible assumption) | (with_reducible apply kept_done) | exact ⟨Nat.le_refl _, fun _ h => h⟩ | (with_reducible apply kept_done)
    · apply keptD_ite
      · repeat' first | (with_reducible assumption) | (with_reducible apply kept_done) | (with_reducible apply kept_wr) | exact ⟨Nat.le_refl _, fun _ h => h⟩ | (with_reducible apply kept_done) | simp only [kept_mk_iff] | dsimp only | intro _ _ _ | (with_reducible apply keptP_mk) | (with_reducible apply keptQ_mk)
      · apply keptD_ite
        · repeat' first | (with_reducible assumption) | (with_reducible apply kept_done) | exact ⟨Nat.le_refl _, fun _ h => h⟩ | (with_reducible apply kept_done)
        · repeat' first | (with_reducible assumption) | (with_reducible apply kept_holding) | (with_reducible apply kept_restartMp) | (with_reducible apply kept_showImage) | exact ⟨Nat.le_refl _, fun _ h => h⟩ | (with_reducible apply kept_holding)

theorem kept_fwConfirm {s0 s : State} (h : Kept s0 s) : ∀ x0, KeptD s0 (fwConfirm x0 s) := by
  intro r
  unfold fwConfirm
  extract_lets trial slot s1 s2 run s3 up s4 s5
  apply keptD_ite (kept_done h)
  have h1 : Kept s0 s1 := kept_ite (kept_setBoot h _ ⟨Nat.le_refl _, fun _ h => h⟩) h
  have h2 : Kept s0 s2 := kept_wrB h1 ..
  clear_value s2
  have h3 : Kept s0 s3 := kept_ite (kept_log h2 ..) h2
  clear_value s3
  have h4 : Kept s0 s4 := kept_ite (kept_setBoot h3 _ ⟨Nat.le_add_right _ _, fun _ h => h⟩) h3
  clear_value s4
  have h5 : Kept s0 s5 := kept_ite (kept_log h4 ..) h4
  clear_value s5
  exact kept_done (kept_ite (kept_measureProfile (kept_measure (kept_showImage h5))) h5)

theorem kept_fwActivateCmd {s0 s : State} (h : Kept s0 s) : ∀ x0, KeptD s0 (fwActivateCmd x0 s) := by
  intro x0
  unfold fwActivateCmd
  extract_lets -merge -useContext -underBinder flashOk_1 s_2 w_3
  try clear_value flashOk_1
  have h_s_2 : Kept s0 s_2 := by
    unfold s_2
    repeat' first | (with_reducible assumption) | (with_reducible apply kept_setBoot) | exact ⟨Nat.le_refl _, fun _ h => h⟩ | simp only [kept_mk_iff]
  try clear_value s_2
  try clear_value w_3
  apply keptD_ite
  · repeat' first | (with_reducible assumption) | (with_reducible apply kept_done) | exact ⟨Nat.le_refl _, fun _ h => h⟩ | (with_reducible apply kept_done)
  · apply keptD_ite
    · repeat' first | (with_reducible assumption) | (with_reducible apply kept_fwConfirm) | exact ⟨Nat.le_refl _, fun _ h => h⟩
    · apply keptD_ite
      · repeat' first | (with_reducible assumption) | (with_reducible apply kept_done) | exact ⟨Nat.le_refl _, fun _ h => h⟩ | (with_reducible apply kept_done)
      · repeat' first | (with_reducible assumption) | (with_reducible apply kept_fwActivate) | exact ⟨Nat.le_refl _, fun _ h => h⟩

theorem kept_idCertRead {s0 s : State} (h : Kept s0 s) : ∀ x0, KeptD s0 (idCertRead x0 s) := by
  intro x0
  unfold idCertRead
  extract_lets -merge -useContext -underBinder off_1 n_2 bs_3
  try clear_value off_1
  try clear_value n_2
  try clear_value bs_3
  apply keptD_ite
  · repeat' first | (with_reducible assumption) | (with_reducible apply kept_done) | (with_reducible apply kept_done)
  · apply keptD_ite
    · repeat' first | (with_reducible assumption) | (with_reducible apply kept_done) | (with_reducible apply kept_done)
    · repeat' first | (with_reducible assumption) | (with_reducible apply kept_doneW) | (with_reducible apply kept_doneW)

theorem kept_attest {s0 s : State} (h : Kept s0 s) : ∀ x0, KeptD s0 (attest x0 s) := by
  intro x0
  unfold attest
  extract_lets -merge -useContext -underBinder w_1 first_2 logW_3
  try clear_value w_1
  try clear_value first_2
  try clear_value logW_3
  apply keptD_ite
  · repeat' first | (with_reducible assumption) | (with_reducible apply kept_done) | (with_reducible apply kept_done)
  · apply keptD_ite
    · apply keptD_ite
      · repeat' first | (with_reducible assumption) | (with_reducible apply kept_done) | (with_reducible apply kept_done)
      · repeat' first | (with_reducible assumption) | (with_reducible apply kept_doneW) | (with_reducible apply kept_doneW)
    · apply keptD_ite
      · repeat' first | (with_reducible assumption) | (with_reducible apply kept_done) | (with_reducible apply kept_done)
      · repeat' first | (with_reducible assumption) | (with_reducible apply kept_doneW) | (with_reducible apply kept_doneW)

theorem kept_ownerKeyInstall {s0 s : State} (h : Kept s0 s) (q : Req) : KeptD s0 (ownerKeyInstall q s) := by
  unfold ownerKeyInstall
  dsimp only
  split
  · exact kept_done h
  · split
    · exact kept_done h
    · rename_i hn
      split
      · exact kept_done h
      · refine kept_done (kept_log (kept_wrB (kept_setBoot h _ ⟨Nat.le_refl _, fun k e => ?_⟩) ..) ..)
        rw [e] at hn
        exact absurd rfl hn

theorem kept_challenge {s0 s : State} (h : Kept s0 s) : ∀ x0, KeptD s0 (challenge x0 s) := by
  intro x0
  unfold challenge
  extract_lets -merge -useContext -underBinder n_1
  try clear_value n_1
  repeat' first | (with_reducible assumption) | (with_reducible apply kept_doneW) | (with_reducible apply kept_setBoot) | exact ⟨Nat.le_refl _, fun _ h => h⟩ | (with_reducible apply kept_doneW) | (with_reducible apply kept_ite) | (with_reducible apply keptD_ite) | simp only [kept_mk_iff] | split

theorem kept_spend {s0 s : State} (h : Kept s0 s) : ∀ x0, Kept s0 (spend s x0) := by
  intro x0
  unfold spend
  repeat' first | (with_reducible assumption) | (with_reducible apply kept_setBoot) | exact ⟨Nat.le_refl _, fun _ h => h⟩ | (with_reducible apply kept_ite) | simp only [kept_mk_iff] | split

theorem kept_openToken {s0 s : State} (h : Kept s0 s) : ∀ x0 x1 x2, KeptD s0 (openToken x0 x1 x2 s) := by
  intro x0 x1 x2
  unfold openToken
  extract_lets -merge -useContext -underBinder want_1 st_2 scope_3 s1_4 s2_5
  try clear_value want_1
  try clear_value st_2
  try clear_value scope_3
  have h_s1_4 : Kept s0 s1_4 := by
    unfold s1_4
    repeat' first | (with_reducible assumption) | (with_reducible apply kept_log) | exact ⟨Nat.le_refl _, fun _ h => h⟩ | simp only [kept_mk_iff] | dsimp only | intro _ _ _ | (with_reducible apply keptP_mk) | (with_reducible apply keptQ_mk)
  try clear_value s1_4
  have h_s2_5 : Kept s0 s2_5 := by
    unfold s2_5
    apply kept_ite
    · repeat' first | (with_reducible assumption) | exact ⟨Nat.le_refl _, fun _ h => h⟩
    · repeat' first | (with_reducible assumption) | (with_reducible apply kept_spend) | exact ⟨Nat.le_refl _, fun _ h => h⟩
  try clear_value s2_5
  apply keptD_ite
  · repeat' first | (with_reducible assumption) | (with_reducible apply kept_done) | exact ⟨Nat.le_refl _, fun _ h => h⟩ | (with_reducible apply kept_done)
  · apply keptD_ite
    · repeat' first | (with_reducible assumption) | (with_reducible apply kept_done) | exact ⟨Nat.le_refl _, fun _ h => h⟩ | (with_reducible apply kept_done)
    · apply keptD_ite
      · repeat' first | (with_reducible assumption) | (with_reducible apply kept_done) | (with_reducible apply kept_setBoot) | (with_reducible apply kept_wrB) | exact ⟨Nat.le_refl _, fun _ h => h⟩ | (with_reducible apply kept_done) | (with_reducible apply kept_ite) | (with_reducible apply keptD_ite) | simp only [kept_mk_iff] | split
      · repeat' first | (with_reducible assumption) | (with_reducible apply kept_done) | (with_reducible apply kept_setBoot) | (with_reducible apply kept_wrB) | exact ⟨Nat.le_refl _, fun _ h => h⟩ | (with_reducible apply kept_done) | (with_reducible apply kept_ite) | (with_reducible apply keptD_ite) | simp only [kept_mk_iff] | split

theorem kept_detachAll {s0 s : State} (h : Kept s0 s) : Kept s0 (detachAll s) := by
  unfold detachAll
  refine kept_foldl _ ?_ _ ?_
  · intro a_1 x_2 h_3
    dsimp only
    repeat' first | (with_reducible assumption) | (with_reducible apply kept_putCore)
  · repeat' first | (with_reducible assumption)

theorem kept_closeToken {s0 s : State} (h : Kept s0 s) : ∀ x0, KeptD s0 (closeToken x0 s) := by
  intro x0
  unfold closeToken
  exact keptD_ite (kept_done (kept_wrB (kept_setBoot (kept_detachAll h) _ ⟨Nat.le_refl _, fun _ h => h⟩) ..))
    (kept_done (kept_wrB (kept_setBoot h _ ⟨Nat.le_refl _, fun _ h => h⟩) ..))

theorem kept_tokenCmd {s0 s : State} (h : Kept s0 s) : ∀ x0 x1, KeptD s0 (tokenCmd x0 x1 s) := by
  intro x0 x1
  unfold tokenCmd
  extract_lets -merge -useContext -underBinder w_1
  try clear_value w_1
  apply keptD_ite
  · repeat' first | (with_reducible assumption) | (with_reducible apply kept_done) | (with_reducible apply kept_done)
  · split
    · apply keptD_ite
      · repeat' first | (with_reducible assumption) | (with_reducible apply kept_challenge)
      · repeat' first | (with_reducible assumption) | (with_reducible apply kept_done) | (with_reducible apply kept_done)
    · repeat' first | (with_reducible assumption) | (with_reducible apply kept_openToken)
    · apply keptD_ite
      · repeat' first | (with_reducible assumption) | (with_reducible apply kept_closeToken)
      · repeat' first | (with_reducible assumption) | (with_reducible apply kept_done) | (with_reducible apply kept_done)
    · repeat' first | (with_reducible assumption) | (with_reducible apply kept_done) | (with_reducible apply kept_done)

end Sys2Proof.Machine
end

