-- ==== Sys2Proof/Laws/KeptHost.lean ====
section
/-! SUPPORT. What each operation of Machine/Host.lean keeps. -/

set_option linter.unreachableTactic false
set_option linter.unusedTactic false
set_option linter.unusedSimpArgs false
set_option linter.unusedVariables false

namespace Sys2Proof.Machine

theorem kept_execPcieSqDoorbell {s0 s : State} (h : Kept s0 s) : ∀ x0 x1, ∃ t, execPcieSqDoorbell x0 x1 s = .next t ∧ Kept s0 t := by
  intro x0 x1
  refine ⟨_, rfl, ?_⟩
  apply kept_ite
  · assumption
  · repeat' first | (with_reducible assumption) | (with_reducible apply kept_wr)

theorem kept_sqTake {s0 s : State} (h : Kept s0 s) : ∀ x0, KeptP s0 (sqTake s x0) := by
  intro x0
  unfold sqTake
  extract_lets -merge -useContext -underBinder h_1
  try clear_value h_1
  apply keptP_mk
  repeat' first | (with_reducible assumption) | (with_reducible apply kept_wr)

theorem kept_execPennantSqEntry {s0 s : State} (h : Kept s0 s) : ∀ x0 x1 x2, ∃ t, execPennantSqEntry x0 x1 x2 s = .next t ∧ Kept s0 t := by
  intro x0 x1 x2
  unfold execPennantSqEntry
  refine ⟨_, rfl, ?_⟩
  apply kept_ite
  · repeat' first | (with_reducible assumption)
  · split
    rename_i a_1 a_2 a_3 e_4
    have h_a_2 : Kept s0 a_2 := by
      apply KeptP.eq (e := e_4)
      repeat' first | (with_reducible assumption) | (with_reducible apply kept_sqTake)
    clear e_4
    extract_lets -merge -useContext -underBinder add_5
    have h_add_5 : ∀ y0 y1, Kept s0 y0 → Kept s0 (add_5 y0 y1) := by
      intro y0 y1 hy0
      unfold add_5
      repeat' first | (with_reducible assumption) | (with_reducible apply kept_setHost)
    try clear_value add_5
    split
    · rename_i a_6 a_7 e_8
      repeat' first | (with_reducible assumption) | (with_reducible apply h_add_5) | (with_reducible apply kept_subDrain)
    · rename_i a_9 e_10
      apply kept_ite
      · repeat' first | (with_reducible assumption) | (with_reducible apply h_add_5) | (with_reducible apply kept_subDrain) | (with_reducible apply kept_raise) | (with_reducible apply kept_bump)
      · repeat' first | (with_reducible assumption) | (with_reducible apply h_add_5)

theorem kept_dmaPost {s0 s : State} (h : Kept s0 s) : ∀ x0 x1, Kept s0 (dmaPost s x0 x1) := by
  intro x0 x1
  unfold dmaPost
  repeat' first | (with_reducible assumption) | (with_reducible apply kept_cqPost) | simp only [kept_mk_iff] | dsimp only | intro _ _ _ | (with_reducible apply keptP_mk) | (with_reducible apply keptQ_mk)

theorem kept_execHostDmaEntry {s0 s : State} (h : Kept s0 s) : ∀ x0 x1, ∃ t, execHostDmaEntry x0 x1 s = .next t ∧ Kept s0 t := by
  intro x0 x1
  refine ⟨_, rfl, ?_⟩
  apply kept_ite
  · assumption
  · split
    · rename_i a0_1 a1_1 e_1
      have h_a0_1 : Kept s0 a0_1 := by
        apply KeptP.eq (e := e_1)
        repeat' first | (with_reducible assumption) | (with_reducible apply kept_sqTake)
      clear e_1
      extract_lets -merge -useContext -underBinder d_2
      try clear_value d_2
      apply kept_ite
      · repeat' first | (with_reducible assumption) | (with_reducible apply kept_dmaPost)
      · repeat' first | (with_reducible assumption) | (with_reducible apply kept_setHost) | simp only [kept_mk_iff]

theorem kept_dmaIn {s0 s : State} (h : Kept s0 s) : ∀ x0 x1 x2, KeptP s0 (dmaIn x0 s x1 x2) := by
  intro x0 x1 x2
  induction x0 generalizing s x1 x2 with
  | zero => exact keptP_mk h
  | succ k ih =>
    unfold dmaIn
    apply keptP_ite (keptP_mk h)
    extract_lets n
    split
    · rename_i e
      exact ih (KeptP.eq (kept_netStore h ..) e) ..
    · rename_i e
      exact keptP_mk (KeptP.eq (kept_netStore h ..) e)

theorem kept_dmaOut {s0 s : State} (h : Kept s0 s) : ∀ x0 x1 x2 x3 x4, KeptP s0 (dmaOut x0 s x1 x2 x3 x4) := by
  intro x0 x1 x2 x3 x4
  induction x0 generalizing s x1 x2 x3 x4 with
  | zero => exact keptP_mk h
  | succ k ih =>
    unfold dmaOut
    apply keptP_ite (keptP_mk h)
    extract_lets m
    split
    rename_i e
    have h1 := KeptP.eq (kept_netBytes h ..) e
    exact keptP_ite (keptP_mk h1) (ih h1 ..)

theorem kept_execHostDmaComplete {s0 s : State} (h : Kept s0 s) : ∀ x0 x1, ∃ t, execHostDmaComplete x0 x1 s = .next t ∧ Kept s0 t := by
  intro x0 x1
  unfold execHostDmaComplete
  refine ⟨_, rfl, ?_⟩
  split
  · rename_i a_1 e_2
    repeat' first | (with_reducible assumption)
  · rename_i a_3 a_4 e_5
    extract_lets -merge -useContext -underBinder w_6 len_7 a_8 gone_9 n_10
    try clear_value w_6
    try clear_value len_7
    try clear_value a_8
    have h_gone_9 : ∀ y0, Kept s0 y0 → Kept s0 (gone_9 y0) := by
      intro y0 hy0
      unfold gone_9
      repeat' first | (with_reducible assumption) | (with_reducible apply kept_setHost)
    try clear_value gone_9
    try clear_value n_10
    apply kept_settled
    · repeat' first | (with_reducible assumption) | (with_reducible apply h_gone_9)
    · apply kept_ite
      · split
        rename_i a_11 a_12 a_13 a_14 a_15 e_16
        have h_a_12 : Kept s0 a_12 := by
          apply KeptP.eq (e := e_16)
          repeat' first | (with_reducible assumption) | (with_reducible apply h_gone_9) | (with_reducible apply kept_dmaOut)
        clear e_16
        repeat' first | (with_reducible assumption) | (with_reducible apply h_gone_9) | (with_reducible apply kept_dmaPost) | (with_reducible apply kept_setHost) | (with_reducible apply keptP_mk) | (with_reducible apply keptQ_mk)
      · split
        rename_i a_17 a_18 a_19 e_20
        have h_a_18 : Kept s0 a_18 := by
          apply KeptP.eq (e := e_20)
          repeat' first | (with_reducible assumption) | (with_reducible apply h_gone_9) | (with_reducible apply kept_dmaIn)
        clear e_20
        repeat' first | (with_reducible assumption) | (with_reducible apply h_gone_9) | (with_reducible apply kept_dmaPost)

theorem kept_qpClear {s0 s : State} (h : Kept s0 s) : ∀ x0, Kept s0 (qpClear s x0) := by
  intro x0
  unfold qpClear
  repeat' first | (with_reducible assumption) | (with_reducible apply kept_wr)

theorem kept_qpStart {s0 s : State} (h : Kept s0 s) : ∀ x0 x1, Kept s0 (qpStart s x0 x1) := by
  intro x0 x1
  unfold qpStart
  apply kept_ite
  · repeat' first | (with_reducible assumption)
  · repeat' first | (with_reducible assumption) | (with_reducible apply kept_qpClear) | (with_reducible apply kept_wr) | (with_reducible apply keptP_mk) | (with_reducible apply keptQ_mk)

theorem kept_execQpEnable {s0 s : State} (h : Kept s0 s) : ∀ x0 x1, ∃ t, execQpEnable x0 x1 s = .next t ∧ Kept s0 t := by
  intro x0 x1
  refine ⟨_, rfl, ?_⟩
  apply kept_ite
  · assumption
  · repeat' first | (with_reducible assumption) | (with_reducible apply kept_qpClear) | (with_reducible apply kept_wr) | simp only [kept_mk_iff] | dsimp only | intro _ _ _ | (with_reducible apply keptP_mk) | (with_reducible apply keptQ_mk)

theorem kept_qpStop {s0 s : State} (h : Kept s0 s) : ∀ x0, Kept s0 (qpStop s x0) := by
  intro x0
  unfold qpStop
  extract_lets -merge -useContext -underBinder s1_1
  have h_s1_1 : Kept s0 s1_1 := by
    unfold s1_1
    repeat' first | (with_reducible assumption) | (with_reducible apply kept_setHost) | (with_reducible apply kept_wrB) | (with_reducible apply kept_ite) | simp only [kept_mk_iff] | split
  try clear_value s1_1
  repeat' first | (with_reducible assumption) | (with_reducible apply kept_cqDrain)

theorem kept_execQpDisable {s0 s : State} (h : Kept s0 s) : ∀ x0, ∃ t, execQpDisable x0 s = .next t ∧ Kept s0 t := by
  intro x0
  refine ⟨_, rfl, ?_⟩
  apply kept_ite
  · repeat' first | (with_reducible assumption) | (with_reducible apply kept_qpStop)
  · assumption

theorem kept_qpCfgWrite {s0 s : State} (h : Kept s0 s) : ∀ x0 x1, Kept s0 (qpCfgWrite s x0 x1) := by
  intro x0 x1
  unfold qpCfgWrite
  apply kept_ite
  · repeat' first | (with_reducible assumption) | (with_reducible apply kept_qpStart)
  · apply kept_ite
    · repeat' first | (with_reducible assumption) | (with_reducible apply kept_qpStop)
    · repeat' first | (with_reducible assumption)

theorem kept_execCqHeadWrite {s0 s : State} (h : Kept s0 s) : ∀ x0 x1, ∃ t, execCqHeadWrite x0 x1 s = .next t ∧ Kept s0 t := by
  intro x0 x1
  refine ⟨_, rfl, ?_⟩
  apply kept_ite
  · repeat' first | (with_reducible assumption) | (with_reducible apply kept_cqDrain) | (with_reducible apply kept_wr)
  · assumption

theorem kept_flrStreams {s0 s : State} (h : Kept s0 s) : Kept s0 (flrStreams s) := by
  unfold flrStreams
  extract_lets -merge -useContext -underBinder busy_1 dead_2 s1_3 s2_4
  try clear_value busy_1
  try clear_value dead_2
  have h_s1_3 : Kept s0 s1_3 := by
    unfold s1_3
    repeat' first | (with_reducible assumption) | (with_reducible apply kept_setHost) | exact kept_boot (by assumption) _ ⟨Nat.le_refl _, fun _ h => h⟩ | simp only [kept_mk_iff]
  try clear_value s1_3
  have h_s2_4 : Kept s0 s2_4 := by
    unfold s2_4
    repeat' first | (with_reducible assumption) | (with_reducible apply kept_setPn) | exact fun h => ⟨h.1, h.2, h.3, h.4⟩ | exact kept_boot (by assumption) _ ⟨Nat.le_refl _, fun _ h => h⟩ | simp only [kept_mk_iff]
  try clear_value s2_4
  split
  · extract_lets -merge -useContext -underBinder __src_5
    apply kept_ite
    · repeat' first | (with_reducible assumption) | (with_reducible apply kept_wrB) | exact kept_boot (by assumption) _ ⟨Nat.le_refl _, fun _ h => h⟩ | simp only [kept_mk_iff]
    · repeat' first | (with_reducible assumption) | exact kept_boot (by assumption) _ ⟨Nat.le_refl _, fun _ h => h⟩
  · repeat' first | (with_reducible assumption) | exact kept_boot (by assumption) _ ⟨Nat.le_refl _, fun _ h => h⟩

theorem kept_execPcieFlr {s0 s : State} (h : Kept s0 s) : ∃ t, execPcieFlr s = .next t ∧ Kept s0 t := by
  refine ⟨_, rfl, ?_⟩
  repeat' first | (with_reducible assumption) | (with_reducible apply kept_flrStreams) | (with_reducible apply kept_qpClear) | (with_reducible apply kept_qpStop) | (with_reducible apply kept_foldl) | (with_reducible apply keptP_foldl) | dsimp only | intro _ _ _

theorem kept_execPcieLinkStateChange {s0 s : State} (h : Kept s0 s) : ∀ x0 x1, ∃ t, execPcieLinkStateChange x0 x1 s = .next t ∧ Kept s0 t := by
  intro x0 x1
  refine ⟨_, rfl, ?_⟩
  apply kept_ite
  · assumption
  · repeat' first | (with_reducible assumption) | (with_reducible apply kept_setHost) | (with_reducible apply kept_ite) | simp only [kept_mk_iff] | split

theorem kept_execPcieEpWriteRx {s0 s : State} (h : Kept s0 s) : ∀ x0 x1, ∃ t, execPcieEpWriteRx x0 x1 s = .next t ∧ Kept s0 t := by
  intro x0 x1
  unfold execPcieEpWriteRx
  refine ⟨_, rfl, ?_⟩
  split
  rename_i a_1 a_2 a_3 e_4
  have h_a_2 : Kept s0 a_2 := by
    apply KeptP.eq (e := e_4)
    repeat' first | (with_reducible assumption) | (with_reducible apply kept_netWrite) | (with_reducible apply keptP_mk) | (with_reducible apply keptQ_mk)
  clear e_4
  apply kept_settled
  · repeat' first | (with_reducible assumption)
  · apply kept_ite
    · repeat' first | (with_reducible assumption)
    · repeat' first | (with_reducible assumption) | (with_reducible apply kept_bump)

theorem kept_hostWrite {s0 s : State} (h : Kept s0 s) (a : Nat) {go : State → State} (k : ∀ t, Kept s0 t → Kept s0 (go t)) : Kept s0 (hostWrite s a go) := by
  unfold hostWrite
  split
  · exact kept_bump h ..
  · exact kept_bump (kept_noteMiss h _) ..
  · exact h
  · exact kept_bump h ..
  · exact kept_bump (kept_noteFenced h _) ..
  · split
    · exact k _ (kept_gatePass h _)
    · exact kept_bump (kept_noteFenced h _) ..
    · exact kept_gateWake h _

theorem kept_execBar2Write {s0 s : State} (h : Kept s0 s) : ∀ x0 x1 x2, ∃ t, execBar2Write x0 x1 x2 s = .next t ∧ Kept s0 t := by
  intro x0 x1 x2
  unfold execBar2Write
  refine ⟨_, rfl, ?_⟩
  repeat' first | (with_reducible assumption) | (with_reducible apply kept_hostWrite) | intro _ _ | (with_reducible apply kept_bar2Write)

theorem kept_i3cSay {s0 s : State} (h : Kept s0 s) : ∀ x0, Kept s0 (i3cSay s x0) := by
  intro x0
  unfold i3cSay
  repeat' first | (with_reducible assumption) | (with_reducible apply kept_setHost) | simp only [kept_mk_iff]

theorem kept_i3cAsk {s0 s : State} (h : Kept s0 s) : ∀ x0, Kept s0 (i3cAsk s x0) := by
  intro x0
  unfold i3cAsk
  apply kept_ite
  · repeat' first | (with_reducible assumption) | (with_reducible apply kept_i3cSay)
  · assumption

theorem kept_ibiSync {s0 s : State} (h : Kept s0 s) : Kept s0 (ibiSync s) := by
  unfold ibiSync
  extract_lets -merge -useContext -underBinder b_1
  try clear_value b_1
  repeat' first | (with_reducible assumption) | (with_reducible apply kept_setHost) | simp only [kept_mk_iff]

theorem kept_execI3cEntdaa {s0 s : State} (h : Kept s0 s) : ∀ x0, ∃ t, execI3cEntdaa x0 s = .next t ∧ Kept s0 t := by
  intro x0
  refine ⟨_, rfl, ?_⟩
  apply kept_ite
  · assumption
  · repeat' first | (with_reducible assumption) | (with_reducible apply kept_i3cSay) | (with_reducible apply kept_setHost) | simp only [kept_mk_iff]

theorem kept_execI3cSetdasa {s0 s : State} (h : Kept s0 s) : ∀ x0 x1, ∃ t, execI3cSetdasa x0 x1 s = .next t ∧ Kept s0 t := by
  intro x0 x1
  refine ⟨_, rfl, ?_⟩
  apply kept_ite
  · repeat' first | (with_reducible assumption) | (with_reducible apply kept_setHost) | simp only [kept_mk_iff]
  · assumption

theorem kept_execI3cRstdaa {s0 s : State} (h : Kept s0 s) : ∃ t, execI3cRstdaa s = .next t ∧ Kept s0 t := by
  refine ⟨_, rfl, ?_⟩
  repeat' first | (with_reducible assumption) | (with_reducible apply kept_setHost) | simp only [kept_mk_iff]

theorem kept_execI3cGetpid {s0 s : State} (h : Kept s0 s) : ∃ t, execI3cGetpid s = .next t ∧ Kept s0 t := by
  refine ⟨_, rfl, ?_⟩
  repeat' first | (with_reducible assumption) | (with_reducible apply kept_i3cAsk)

theorem kept_execI3cGetbcr {s0 s : State} (h : Kept s0 s) : ∃ t, execI3cGetbcr s = .next t ∧ Kept s0 t := by
  refine ⟨_, rfl, ?_⟩
  repeat' first | (with_reducible assumption) | (with_reducible apply kept_i3cAsk)

theorem kept_execI3cGetdcr {s0 s : State} (h : Kept s0 s) : ∃ t, execI3cGetdcr s = .next t ∧ Kept s0 t := by
  refine ⟨_, rfl, ?_⟩
  repeat' first | (with_reducible assumption) | (with_reducible apply kept_i3cAsk)

theorem kept_execI3cGetstatus {s0 s : State} (h : Kept s0 s) : ∃ t, execI3cGetstatus s = .next t ∧ Kept s0 t := by
  refine ⟨_, rfl, ?_⟩
  apply kept_ite
  · assumption
  · split
    · rename_i a0_1 a1_1 e_1
      have h_a1_1 : Kept s0 a1_1 := by
        apply KeptQ.eq (e := e_1)
        repeat' first | (with_reducible assumption) | (with_reducible apply kept_drawFree)
      clear e_1
      repeat' first | (with_reducible assumption) | (with_reducible apply kept_i3cSay)

theorem kept_execI3cEnec {s0 s : State} (h : Kept s0 s) : ∀ x0, ∃ t, execI3cEnec x0 s = .next t ∧ Kept s0 t := by
  intro x0
  refine ⟨_, rfl, ?_⟩
  apply kept_ite
  · repeat' first | (with_reducible assumption) | (with_reducible apply kept_ibiSync) | (with_reducible apply kept_setHost) | simp only [kept_mk_iff]
  · assumption

theorem kept_execI3cDisec {s0 s : State} (h : Kept s0 s) : ∀ x0, ∃ t, execI3cDisec x0 s = .next t ∧ Kept s0 t := by
  intro x0
  refine ⟨_, rfl, ?_⟩
  apply kept_ite
  · repeat' first | (with_reducible assumption) | (with_reducible apply kept_ibiSync) | (with_reducible apply kept_setHost) | simp only [kept_mk_iff]
  · assumption

theorem kept_execI3cSetmwl {s0 s : State} (h : Kept s0 s) : ∀ x0, ∃ t, execI3cSetmwl x0 s = .next t ∧ Kept s0 t := by
  intro x0
  refine ⟨_, rfl, ?_⟩
  apply kept_ite
  · repeat' first | (with_reducible assumption) | (with_reducible apply kept_setHost) | simp only [kept_mk_iff]
  · assumption

theorem kept_execI3cSetmrl {s0 s : State} (h : Kept s0 s) : ∀ x0, ∃ t, execI3cSetmrl x0 s = .next t ∧ Kept s0 t := by
  intro x0
  refine ⟨_, rfl, ?_⟩
  apply kept_ite
  · repeat' first | (with_reducible assumption) | (with_reducible apply kept_setHost) | simp only [kept_mk_iff]
  · assumption

theorem kept_execI3cGetmwl {s0 s : State} (h : Kept s0 s) : ∃ t, execI3cGetmwl s = .next t ∧ Kept s0 t := by
  refine ⟨_, rfl, ?_⟩
  repeat' first | (with_reducible assumption) | (with_reducible apply kept_i3cAsk)

theorem kept_execI3cGetmrl {s0 s : State} (h : Kept s0 s) : ∃ t, execI3cGetmrl s = .next t ∧ Kept s0 t := by
  refine ⟨_, rfl, ?_⟩
  repeat' first | (with_reducible assumption) | (with_reducible apply kept_i3cAsk)

theorem kept_execI3cRstact {s0 s : State} (h : Kept s0 s) : ∀ x0, ∃ t, execI3cRstact x0 s = .next t ∧ Kept s0 t := by
  intro x0
  refine ⟨_, rfl, ?_⟩
  repeat' first | (with_reducible assumption) | (with_reducible apply kept_setHost) | simp only [kept_mk_iff]

theorem kept_sinkPop {s0 s : State} (h : Kept s0 s) (k : SinkId) : Kept s0 (sinkPop s k) := by
  refine h.trans ?_
  have h1 : Kept s (bump (setSink s k { buf := (sinkOf s k).buf.drop 1, lost := (sinkOf s k).lost, lostSeq := (sinkOf s k).lostSeq }) R.pnCount 0 6 1) := by
    refine kept_bump (kept_setSink (Kept.refl s) k _ fun x => ?_) ..
    have := x.sink k
    simp only [SinkOk, List.length_drop] at this ⊢; omega
  unfold sinkPop
  dsimp only
  apply kept_ite
  · exact h1
  · generalize hs : wr _ _ _ _ _ = s2
    have h2 : Kept s s2 := hs ▸ kept_wr h1 ..
    generalize he : Event.mk _ _ _ _ = ev
    have key : PnOk s.pn → ((sinkOf s k).buf.drop 1 ++ [ev]).length ≤ 256 := fun x => by
      have := x.sink k
      simp only [SinkOk, List.length_drop, List.length_append, List.length_singleton] at this ⊢; omega
    cases k
    · exact ⟨h2.1, h2.2, h2.3, h2.4, h2.5, fun x => ⟨key x, (h2.6 x).2, (h2.6 x).3, (h2.6 x).4⟩, h2.7⟩
    · exact ⟨h2.1, h2.2, h2.3, h2.4, h2.5, fun x => ⟨(h2.6 x).1, key x, (h2.6 x).3, (h2.6 x).4⟩, h2.7⟩
    · exact ⟨h2.1, h2.2, h2.3, h2.4, h2.5, fun x => ⟨(h2.6 x).1, (h2.6 x).2, key x, (h2.6 x).4⟩, h2.7⟩

theorem kept_execI3cPrivateRead {s0 s : State} (h : Kept s0 s) : ∃ t, execI3cPrivateRead s = .next t ∧ Kept s0 t := by
  refine ⟨_, rfl, ?_⟩
  split
  · repeat' first | (with_reducible assumption) | (with_reducible apply kept_i3cSay) | (with_reducible apply kept_ibiSync) | (with_reducible apply kept_setPn) | exact fun h => ⟨h.1, h.2, h.3, h.4⟩ | simp only [kept_mk_iff]
  · split
    · repeat' first | (with_reducible assumption) | (with_reducible apply kept_i3cSay)
    · repeat' first | (with_reducible assumption) | (with_reducible apply kept_i3cSay) | (with_reducible apply kept_ibiSync) | (with_reducible apply kept_sinkPop)

theorem kept_synceOutConfig {s0 s : State} (h : Kept s0 s) : ∀ x0, KeptD s0 (synceOutConfig x0 s) := by
  intro x0
  unfold synceOutConfig
  apply keptD_ite
  · repeat' first | (with_reducible assumption) | (with_reducible apply kept_done) | (with_reducible apply kept_done)
  · repeat' first | (with_reducible assumption) | (with_reducible apply kept_done) | (with_reducible apply kept_setHost) | (with_reducible apply kept_done) | simp only [kept_mk_iff]

theorem kept_pinConfig {s0 s : State} (h : Kept s0 s) : ∀ x0, KeptD s0 (pinConfig x0 s) := by
  intro x0
  unfold pinConfig
  extract_lets -merge -useContext -underBinder s1_1
  have h_s1_1 : Kept s0 s1_1 := by
    unfold s1_1
    repeat' first | (with_reducible assumption) | (with_reducible apply kept_setHost) | simp only [kept_mk_iff]
  try clear_value s1_1
  apply keptD_ite
  · repeat' first | (with_reducible assumption) | (with_reducible apply kept_done) | (with_reducible apply kept_done)
  · repeat' first | (with_reducible assumption) | (with_reducible apply kept_done) | (with_reducible apply kept_startLine) | (with_reducible apply kept_done) | (with_reducible apply kept_foldl) | (with_reducible apply keptP_foldl) | (with_reducible apply KeptP.one) | dsimp only | intro _ _ _

theorem kept_execGpioEdge {s0 s : State} (h : Kept s0 s) : ∀ x0 x1, ∃ t, execGpioEdge x0 x1 s = .next t ∧ Kept s0 t := by
  intro x0 x1
  refine ⟨_, rfl, ?_⟩
  apply kept_ite
  · assumption
  · repeat' first | (with_reducible assumption) | (with_reducible apply kept_setHost) | (with_reducible apply kept_ite) | simp only [kept_mk_iff] | split

theorem kept_execGpioMarkPulse {s0 s : State} (h : Kept s0 s) : ∀ x0, ∃ t, execGpioMarkPulse x0 s = .next t ∧ Kept s0 t := by
  intro x0
  refine ⟨_, rfl, ?_⟩
  apply kept_ite
  · repeat' first | (with_reducible assumption) | (with_reducible apply kept_setHost) | simp only [kept_mk_iff] | dsimp only | intro _ _ _ | (with_reducible apply keptP_mk) | (with_reducible apply keptQ_mk)
  · assumption

end Sys2Proof.Machine
end

