-- ==== Sys2Proof/Laws/KeptThermal.lean ====
section
/-! SUPPORT. What each operation of Machine/Thermal.lean keeps. -/

set_option linter.unreachableTactic false
set_option linter.unusedTactic false
set_option linter.unusedSimpArgs false
set_option linter.unusedVariables false

namespace Sys2Proof.Machine

theorem kept_setTh {s0 s : State} (h : Kept s0 s) : ∀ x0, Kept s0 (setTh s x0) := by
  intro x0
  unfold setTh
  repeat' first | (with_reducible assumption) | simp only [kept_mk_iff]

theorem kept_tsExpire {s0 s : State} (h : Kept s0 s) : Kept s0 (tsExpire s) := by
  unfold tsExpire
  extract_lets -merge -useContext -underBinder gone_1
  try clear_value gone_1
  repeat' first | (with_reducible assumption) | (with_reducible apply kept_setTh) | (with_reducible apply kept_wrF) | (with_reducible apply kept_foldl) | (with_reducible apply keptP_foldl) | simp only [kept_mk_iff] | dsimp only | intro _ _ _

theorem kept_sensorTake {s0 s : State} (h : Kept s0 s) : ∀ x0 x1, Kept s0 (sensorTake s x0 x1) := by
  intro x0 x1
  unfold sensorTake
  split
  · repeat' first | (with_reducible assumption) | (with_reducible apply kept_wrF) | (with_reducible apply kept_wr) | simp only [kept_mk_iff] | dsimp only | intro _ _ _ | (with_reducible apply keptP_mk) | (with_reducible apply keptQ_mk)
  · extract_lets -merge -useContext -underBinder s1_1 s2_2
    have h_s1_1 : Kept s0 s1_1 := by
      unfold s1_1
      repeat' first | (with_reducible assumption) | (with_reducible apply kept_wrF)
    try clear_value s1_1
    have h_s2_2 : Kept s0 s2_2 := by
      unfold s2_2
      repeat' first | (with_reducible assumption) | (with_reducible apply kept_raise) | (with_reducible apply kept_setTh) | simp only [kept_mk_iff]
    try clear_value s2_2
    apply kept_ite
    · assumption
    · apply kept_ite
      · repeat' first | (with_reducible assumption) | (with_reducible apply kept_wrB)
      · assumption

theorem kept_zoneTake {s0 s : State} (h : Kept s0 s) : ∀ x0 x1 x2, Kept s0 (zoneTake s x0 x1 x2) := by
  intro x0 x1 x2
  unfold zoneTake
  extract_lets -merge -useContext -underBinder was_1 s1_2 k_3 s2_4
  try clear_value was_1
  have h_s1_2 : Kept s0 s1_2 := by
    unfold s1_2
    repeat' first | (with_reducible assumption) | (with_reducible apply kept_wr) | simp only [kept_mk_iff] | dsimp only | intro _ _ _ | (with_reducible apply keptP_mk) | (with_reducible apply keptQ_mk)
  try clear_value s1_2
  try clear_value k_3
  have h_s2_4 : Kept s0 s2_4 := by
    unfold s2_4
    apply kept_ite
    · repeat' first | (with_reducible assumption) | (with_reducible apply kept_wrF)
    · apply kept_ite
      · repeat' first | (with_reducible assumption) | (with_reducible apply kept_wrF)
      · assumption
  try clear_value s2_4
  apply kept_ite
  · repeat' first | (with_reducible assumption) | (with_reducible apply kept_wakeDomain)
  · assumption

theorem kept_setPct {s0 s : State} (h : Kept s0 s) : ∀ x0, Kept s0 (setPct s x0) := by
  intro x0
  unfold setPct
  repeat' first | (with_reducible assumption) | (with_reducible apply kept_wrF)

theorem kept_throttleStep {s0 s : State} (h : Kept s0 s) : Kept s0 (throttleStep s) := by
  unfold throttleStep
  extract_lets -merge -useContext -underBinder n_1
  try clear_value n_1
  apply kept_ite
  · assumption
  · repeat' first | (with_reducible assumption) | (with_reducible apply kept_raiseIf) | (with_reducible apply kept_setPct)

theorem kept_levelsTake {s0 s : State} (h : Kept s0 s) : ∀ x0, Kept s0 (levelsTake s x0) := by
  intro x0
  unfold levelsTake
  extract_lets -merge -useContext -underBinder warn_1 thr_2 before_3 s1_4 s2_5
  try clear_value warn_1
  try clear_value thr_2
  try clear_value before_3
  have h_s1_4 : Kept s0 s1_4 := by
    unfold s1_4
    apply kept_ite
    · repeat' first | (with_reducible assumption) | (with_reducible apply kept_bump) | (with_reducible apply kept_raise) | (with_reducible apply kept_wrB)
    · apply kept_ite
      · repeat' first | (with_reducible assumption) | (with_reducible apply kept_raise) | (with_reducible apply kept_wrB)
      · assumption
  try clear_value s1_4
  have h_s2_5 : Kept s0 s2_5 := by
    unfold s2_5
    apply kept_ite
    · repeat' first | (with_reducible assumption) | (with_reducible apply kept_bump) | (with_reducible apply kept_raise) | (with_reducible apply kept_wrB)
    · apply kept_ite
      · repeat' first | (with_reducible assumption) | (with_reducible apply kept_raise) | (with_reducible apply kept_wrB)
      · assumption
  try clear_value s2_5
  apply kept_ite
  · repeat' first | (with_reducible assumption) | (with_reducible apply kept_throttleStep)
  · assumption

theorem kept_execThrottleStep {s0 s : State} (h : Kept s0 s) : ∃ t, execThrottleStep s = .next t ∧ Kept s0 t := by
  refine ⟨_, rfl, ?_⟩
  apply kept_ite
  · repeat' first | (with_reducible assumption) | (with_reducible apply kept_throttleStep)
  · assumption

theorem kept_execThrottleRecoverStep {s0 s : State} (h : Kept s0 s) : ∃ t, execThrottleRecoverStep s = .next t ∧ Kept s0 t := by
  refine ⟨_, rfl, ?_⟩
  apply kept_ite
  · repeat' first | (with_reducible assumption) | (with_reducible apply kept_setPct)
  · assumption

theorem kept_shutdown {s0 s : State} (h : Kept s0 s) : ∀ x0 x1 x2, Kept s0 (shutdown s x0 x1 x2) := by
  intro x0 x1 x2
  unfold shutdown
  extract_lets -merge -useContext -underBinder n_1 lock_2 seq_3 power_4 pct_5 r_6 s1_7 s2_8 slot_9 s3_10
  try clear_value n_1
  try clear_value lock_2
  try clear_value seq_3
  try clear_value power_4
  try clear_value pct_5
  try clear_value r_6
  have h_s1_7 : Kept s0 s1_7 := by
    unfold s1_7
    repeat' first | (with_reducible assumption) | (with_reducible apply kept_wr) | (with_reducible apply kept_wr64) | (with_reducible apply keptP_mk) | (with_reducible apply keptQ_mk)
  try clear_value s1_7
  have h_s2_8 : Kept s0 s2_8 := by
    unfold s2_8
    repeat' first | (with_reducible assumption) | (with_reducible apply kept_setTh)
  try clear_value s2_8
  try clear_value slot_9
  have h_s3_10 : Kept s0 s3_10 := by
    unfold s3_10
    repeat' first | (with_reducible assumption) | (with_reducible apply kept_resetAll) | (with_reducible apply kept_setStore) | (with_reducible apply kept_rawClear)
  try clear_value s3_10
  repeat' first | (with_reducible assumption) | (with_reducible apply kept_raise) | (with_reducible apply kept_wrF) | (with_reducible apply kept_bump)

theorem kept_arraysTake {s0 s : State} (h : Kept s0 s) : ∀ x0, Kept s0 (arraysTake s x0) := by
  intro x0
  unfold arraysTake
  split
  · rename_i a0_1 a1_1 e_1
    have h_a1_1 : Kept s0 a1_1 := by
      apply KeptQ.eq (e := e_1)
      repeat' first | (with_reducible assumption) | (with_reducible apply kept_drawFree)
    clear e_1
    repeat' first | (with_reducible assumption) | (with_reducible apply kept_calDueCheck) | (with_reducible apply kept_wrF) | (with_reducible apply kept_ite) | (with_reducible apply kept_foldl) | (with_reducible apply keptP_foldl) | split | dsimp only | intro _ _ _ | (with_reducible apply keptP_mk) | (with_reducible apply keptQ_mk)

theorem kept_sensorSample {s0 s : State} (h : Kept s0 s) : ∀ x0, Kept s0 (sensorSample s x0) := by
  intro x0
  unfold sensorSample
  extract_lets -merge -useContext -underBinder s0_1 here_2 vs_3 bad_4 s1_5 s2_6 s3_7 dev_8 zones_9 s4_10 s5_11 run_12 hot1_13 s6_14 k_15
  have h_s0_1 : Kept s0 s0_1 := by
    unfold s0_1
    repeat' first | (with_reducible assumption) | (with_reducible apply kept_tsExpire)
  try clear_value s0_1
  try clear_value here_2
  try clear_value vs_3
  try clear_value bad_4
  have h_s1_5 : Kept s0 s1_5 := by
    unfold s1_5
    repeat' first | (with_reducible assumption) | (with_reducible apply kept_sensorTake) | (with_reducible apply kept_foldl) | (with_reducible apply keptP_foldl) | dsimp only | intro _ _ _
  try clear_value s1_5
  have h_s2_6 : Kept s0 s2_6 := by
    unfold s2_6
    split
    · repeat' first | (with_reducible assumption) | (with_reducible apply kept_wrF)
    · assumption
  try clear_value s2_6
  have h_s3_7 : Kept s0 s3_7 := by
    unfold s3_7
    apply kept_ite
    · repeat' first | (with_reducible assumption) | (with_reducible apply kept_raise) | (with_reducible apply kept_wrB)
    · apply kept_ite
      · repeat' first | (with_reducible assumption) | (with_reducible apply kept_wrB)
      · assumption
  try clear_value s3_7
  try clear_value dev_8
  try clear_value zones_9
  have h_s4_10 : Kept s0 s4_10 := by
    unfold s4_10
    repeat' first | (with_reducible assumption) | (with_reducible apply kept_zoneTake) | (with_reducible apply kept_foldl) | (with_reducible apply keptP_foldl) | (with_reducible apply KeptP.one) | split | dsimp only | intro _ _ _ | (with_reducible apply keptP_mk) | (with_reducible apply keptQ_mk)
  try clear_value s4_10
  have h_s5_11 : Kept s0 s5_11 := by
    unfold s5_11
    repeat' first | (with_reducible assumption) | (with_reducible apply kept_arraysTake) | (with_reducible apply kept_levelsTake)
  try clear_value s5_11
  try clear_value run_12
  try clear_value hot1_13
  have h_s6_14 : Kept s0 s6_14 := by
    unfold s6_14
    repeat' first | (with_reducible assumption) | (with_reducible apply kept_setTh) | (with_reducible apply kept_ite) | simp only [kept_mk_iff] | split
  try clear_value s6_14
  try clear_value k_15
  apply kept_ite
  · assumption
  · apply kept_ite
    · assumption
    · repeat' first | (with_reducible assumption) | (with_reducible apply kept_closeAll) | (with_reducible apply kept_shutdown)

theorem kept_execSensorSample {s0 s : State} (h : Kept s0 s) : ∀ x0, ∃ t, execSensorSample x0 s = .next t ∧ Kept s0 t := by
  intro x0
  refine ⟨_, rfl, ?_⟩
  repeat' first | (with_reducible assumption) | (with_reducible apply kept_sensorSample)

theorem kept_execExternalTempRead {s0 s : State} (h : Kept s0 s) : ∀ x0 x1 x2, ∃ t, execExternalTempRead x0 x1 x2 s = .next t ∧ Kept s0 t := by
  intro x0 x1 x2
  refine ⟨_, rfl, ?_⟩
  extract_lets -merge -useContext -underBinder r1_1 s1_2 lim_3 over__4 nw_5 before_6 s2_7 s3_8
  try clear_value r1_1
  have h_s1_2 : Kept s0 s1_2 := by
    unfold s1_2
    repeat' first | (with_reducible assumption) | (with_reducible apply kept_wr) | simp only [kept_mk_iff] | dsimp only | intro _ _ _ | (with_reducible apply keptP_mk) | (with_reducible apply keptQ_mk)
  try clear_value s1_2
  try clear_value lim_3
  try clear_value over__4
  try clear_value nw_5
  try clear_value before_6
  have h_s2_7 : Kept s0 s2_7 := by
    unfold s2_7
    repeat' first | (with_reducible assumption) | (with_reducible apply kept_raiseIf) | (with_reducible apply kept_setTh) | simp only [kept_mk_iff]
  try clear_value s2_7
  have h_s3_8 : Kept s0 s3_8 := by
    unfold s3_8
    apply kept_ite
    · repeat' first | (with_reducible assumption) | (with_reducible apply kept_throttleStep)
    · assumption
  try clear_value s3_8
  apply kept_ite
  · assumption
  · apply kept_ite
    · repeat' first | (with_reducible assumption) | (with_reducible apply kept_bump)
    · assumption

theorem kept_execThermalRestartTimer {s0 s : State} (h : Kept s0 s) : ∃ t, execThermalRestartTimer s = .next t ∧ Kept s0 t := by
  refine ⟨_, rfl, ?_⟩
  extract_lets -merge -useContext -underBinder t_1
  try clear_value t_1
  apply kept_ite
  · repeat' first | (with_reducible assumption) | (with_reducible apply kept_wrF)
  · assumption

theorem kept_sensorInjArm {s0 s : State} (h : Kept s0 s) : ∀ x0 x1 x2 x3, Kept s0 (sensorInjArm s x0 x1 x2 x3) := by
  intro x0 x1 x2 x3
  unfold sensorInjArm
  apply kept_ite
  · repeat' first | (with_reducible assumption)
  · extract_lets -merge -useContext -underBinder s1_1
    have h_s1_1 : Kept s0 s1_1 := by
      unfold s1_1
      repeat' first | (with_reducible assumption) | (with_reducible apply kept_wr) | (with_reducible apply keptP_mk) | (with_reducible apply keptQ_mk)
    try clear_value s1_1
    repeat' first | (with_reducible assumption) | (with_reducible apply kept_setTh)

theorem kept_execSensorShellInjArm {s0 s : State} (h : Kept s0 s) : ∀ x0 x1 x2 x3 x4, ∃ t, execSensorShellInjArm x0 x1 x2 x3 x4 s = .next t ∧ Kept s0 t := by
  intro x0 x1 x2 x3 x4
  unfold execSensorShellInjArm
  refine ⟨_, rfl, ?_⟩
  apply kept_ite
  · repeat' first | (with_reducible assumption) | (with_reducible apply kept_sensorInjArm)
  · repeat' first | (with_reducible assumption)

theorem kept_execMramShellInjArm {s0 s : State} (h : Kept s0 s) : ∀ x0 x1, ∃ t, execMramShellInjArm x0 x1 s = .next t ∧ Kept s0 t := by
  intro x0 x1
  refine ⟨_, rfl, ?_⟩
  apply kept_ite
  · repeat' first | (with_reducible assumption) | (with_reducible apply kept_wr) | simp only [kept_mk_iff] | dsimp only | intro _ _ _ | (with_reducible apply keptP_mk) | (with_reducible apply keptQ_mk)
  · assumption

theorem kept_thermStatus {s0 s : State} (h : Kept s0 s) : ∀ x0, KeptD s0 (thermStatus x0 s) := by
  intro x0
  unfold thermStatus
  apply keptD_ite
  · repeat' first | (with_reducible assumption) | (with_reducible apply kept_done) | (with_reducible apply kept_done)
  · repeat' first | (with_reducible assumption) | (with_reducible apply kept_doneW) | (with_reducible apply kept_doneW)

theorem kept_thermConfig {s0 s : State} (h : Kept s0 s) : ∀ x0, KeptD s0 (thermConfig x0 s) := by
  intro x0
  unfold thermConfig
  apply keptD_ite
  · repeat' first | (with_reducible assumption) | (with_reducible apply kept_done) | (with_reducible apply kept_done)
  · repeat' first | (with_reducible assumption) | (with_reducible apply kept_done) | (with_reducible apply kept_wr) | (with_reducible apply kept_done)

theorem kept_thermRestart {s0 s : State} (h : Kept s0 s) : ∀ x0, KeptD s0 (thermRestart x0 s) := by
  intro x0
  unfold thermRestart
  apply keptD_ite
  · repeat' first | (with_reducible assumption) | (with_reducible apply kept_done) | (with_reducible apply kept_done)
  · apply keptD_ite
    · repeat' first | (with_reducible assumption) | (with_reducible apply kept_done) | (with_reducible apply kept_done)
    · repeat' first | (with_reducible assumption) | (with_reducible apply kept_done) | (with_reducible apply kept_setTh) | (with_reducible apply kept_wrF) | (with_reducible apply kept_done) | simp only [kept_mk_iff]

theorem kept_setLed64 {s0 s : State} (h : Kept s0 s) : ∀ x0 x1, Kept s0 (setLed64 s x0 x1) := by
  intro x0 x1
  unfold setLed64
  repeat' first | (with_reducible assumption) | (with_reducible apply kept_setLed)

theorem kept_ledgerSecond {s0 s : State} (h : Kept s0 s) : ∀ x0, Kept s0 (ledgerSecond s x0) := by
  intro x0
  unfold ledgerSecond
  extract_lets -merge -useContext -underBinder s1_1 low_2 cycle_3 s2_4 s3_5 known_6 gps_7 s4_8 leaps_9
  have h_s1_1 : Kept s0 s1_1 := by
    unfold s1_1
    repeat' first | (with_reducible assumption) | (with_reducible apply kept_ledAdd48)
  try clear_value s1_1
  try clear_value low_2
  try clear_value cycle_3
  have h_s2_4 : Kept s0 s2_4 := by
    unfold s2_4
    apply kept_ite
    · repeat' first | (with_reducible assumption) | (with_reducible apply kept_ledAdd)
    · assumption
  try clear_value s2_4
  have h_s3_5 : Kept s0 s3_5 := by
    unfold s3_5
    repeat' first | (with_reducible assumption) | (with_reducible apply kept_setStore) | (with_reducible apply kept_ite) | simp only [kept_mk_iff] | split
  try clear_value s3_5
  try clear_value known_6
  try clear_value gps_7
  have h_s4_8 : Kept s0 s4_8 := by
    unfold s4_8
    apply kept_ite
    · repeat' first | (with_reducible assumption) | (with_reducible apply kept_setLed64)
    · assumption
  try clear_value s4_8
  try clear_value leaps_9
  repeat' first | (with_reducible assumption) | (with_reducible apply kept_setLed) | (with_reducible apply kept_setLed64) | simp only [kept_mk_iff] | dsimp only | intro _ _ _ | (with_reducible apply keptP_mk) | (with_reducible apply keptQ_mk)

theorem kept_execLedgerSecondUpdate {s0 s : State} (h : Kept s0 s) : ∀ x0, ∃ t, execLedgerSecondUpdate x0 s = .next t ∧ Kept s0 t := by
  intro x0
  refine ⟨_, rfl, ?_⟩
  extract_lets -merge -useContext -underBinder s1_1
  have h_s1_1 : Kept s0 s1_1 := by
    unfold s1_1
    repeat' first | (with_reducible assumption) | (with_reducible apply kept_setTh) | simp only [kept_mk_iff]
  try clear_value s1_1
  apply kept_ite
  · repeat' first | (with_reducible assumption) | (with_reducible apply kept_ledgerSecond)
  · assumption

theorem kept_execLedgerPeriodicWrite {s0 s : State} (h : Kept s0 s) : ∃ t, execLedgerPeriodicWrite s = .next t ∧ Kept s0 t := by
  refine ⟨_, rfl, ?_⟩
  apply kept_ite
  · repeat' first | (with_reducible assumption) | (with_reducible apply kept_writeLedger)
  · assumption

theorem kept_journalRead {s0 s : State} (h : Kept s0 s) : ∀ x0, KeptD s0 (journalRead x0 s) := by
  intro x0
  unfold journalRead
  extract_lets -merge -useContext -underBinder w_1 maxb_2 typ_3
  try clear_value w_1
  try clear_value maxb_2
  try clear_value typ_3
  apply keptD_ite
  · repeat' first | (with_reducible assumption) | (with_reducible apply kept_done) | (with_reducible apply kept_done)
  · apply keptD_ite
    · repeat' first | (with_reducible assumption) | (with_reducible apply kept_done) | (with_reducible apply kept_done)
    · repeat' first | (with_reducible assumption) | (with_reducible apply kept_doneW) | (with_reducible apply kept_doneW)

theorem kept_ledgerRead {s0 s : State} (h : Kept s0 s) : ∀ x0, KeptD s0 (ledgerRead x0 s) := by
  intro x0
  unfold ledgerRead
  extract_lets -merge -useContext -underBinder first_1 n_2
  try clear_value first_1
  try clear_value n_2
  apply keptD_ite
  · repeat' first | (with_reducible assumption) | (with_reducible apply kept_done) | (with_reducible apply kept_done)
  · apply keptD_ite
    · repeat' first | (with_reducible assumption) | (with_reducible apply kept_done) | (with_reducible apply kept_done)
    · repeat' first | (with_reducible assumption) | (with_reducible apply kept_doneW) | (with_reducible apply kept_doneW)

theorem kept_journalCompact {s0 s : State} (h : Kept s0 s) : ∀ x0, KeptD s0 (journalCompact x0 s) := by
  intro x0
  unfold journalCompact
  extract_lets -merge -useContext -underBinder s1_1
  have h_s1_1 : Kept s0 s1_1 := by
    unfold s1_1
    repeat' first | (with_reducible assumption) | (with_reducible apply kept_compact)
  try clear_value s1_1
  apply keptD_ite
  · repeat' first | (with_reducible assumption) | (with_reducible apply kept_done) | (with_reducible apply kept_done)
  · apply keptD_ite
    · repeat' first | (with_reducible assumption) | (with_reducible apply kept_done) | (with_reducible apply kept_done)
    · repeat' first | (with_reducible assumption) | (with_reducible apply kept_doneW) | (with_reducible apply kept_doneW)

theorem kept_execCompaction {s0 s : State} (h : Kept s0 s) : ∃ t, execCompaction s = .next t ∧ Kept s0 t := by
  refine ⟨_, rfl, ?_⟩
  apply kept_ite
  · repeat' first | (with_reducible assumption) | (with_reducible apply kept_compact)
  · assumption

theorem kept_bootProfileWrite {s0 s : State} (h : Kept s0 s) : ∀ x0, KeptD s0 (bootProfileWrite x0 s) := by
  intro x0
  unfold bootProfileWrite
  split
  · rename_i a_1 a_2 e_3 e_4
    apply keptD_ite
    · repeat' first | (with_reducible assumption) | (with_reducible apply kept_done) | (with_reducible apply kept_done)
    · repeat' first | (with_reducible assumption) | (with_reducible apply kept_done) | (with_reducible apply kept_setStore) | (with_reducible apply kept_done)
  · rename_i a_5 a_6 e_7
    extract_lets -merge -useContext -underBinder off_8 data_9
    try clear_value off_8
    try clear_value data_9
    apply keptD_ite
    · repeat' first | (with_reducible assumption) | (with_reducible apply kept_done) | (with_reducible apply kept_done)
    · split
      · rename_i a_10 e_11
        repeat' first | (with_reducible assumption) | (with_reducible apply kept_done) | (with_reducible apply kept_done)
      · rename_i a_12 a_13 e_14
        apply keptD_ite
        · repeat' first | (with_reducible assumption) | (with_reducible apply kept_done) | (with_reducible apply kept_done)
        · repeat' first | (with_reducible assumption) | (with_reducible apply kept_done) | (with_reducible apply kept_setStore) | (with_reducible apply kept_foldl) | (with_reducible apply keptP_foldl) | (with_reducible apply KeptP.one) | (with_reducible apply KeptQ.one) | (with_reducible apply kept_done)
  · rename_i a_15 a_16 e_17 e_18
    split
    · rename_i a_19 e_20
      repeat' first | (with_reducible assumption) | (with_reducible apply kept_done) | (with_reducible apply kept_done)
    · rename_i a_21 a_22 e_23
      extract_lets -merge -useContext -underBinder bs_24
      try clear_value bs_24
      apply keptD_ite
      · repeat' first | (with_reducible assumption) | (with_reducible apply kept_done) | (with_reducible apply kept_done)
      · split
        · rename_i a_25 e_26
          repeat' first | (with_reducible assumption) | (with_reducible apply kept_done) | (with_reducible apply kept_done)
        · rename_i a_27 a_28 e_29
          apply keptD_ite
          · repeat' first | (with_reducible assumption) | (with_reducible apply kept_done) | (with_reducible apply kept_done)
          · extract_lets -merge -useContext -underBinder k_30 p_31 at__32 s1_33
            try clear_value k_30
            try clear_value p_31
            try clear_value at__32
            have h_s1_33 : Kept s0 s1_33 := by
              unfold s1_33
              repeat' first | (with_reducible assumption) | (with_reducible apply kept_setStore) | (with_reducible apply kept_rawClear)
            try clear_value s1_33
            repeat' first | (with_reducible assumption) | (with_reducible apply kept_done) | (with_reducible apply kept_log) | (with_reducible apply kept_done) | (with_reducible apply keptP_mk) | (with_reducible apply keptQ_mk)
  · rename_i a_34 a_35 e_36 e_37
    apply keptD_ite
    · repeat' first | (with_reducible assumption) | (with_reducible apply kept_done) | (with_reducible apply kept_done)
    · repeat' first | (with_reducible assumption) | (with_reducible apply kept_done) | (with_reducible apply kept_log) | (with_reducible apply kept_setStore) | (with_reducible apply kept_done)
  · rename_i a_38 a_39 a_40 a_41 a_42 a_43
    repeat' first | (with_reducible assumption) | (with_reducible apply kept_done) | (with_reducible apply kept_done)

theorem kept_bootProfileRead {s0 s : State} (h : Kept s0 s) : ∀ x0, KeptD s0 (bootProfileRead x0 s) := by
  intro x0
  unfold bootProfileRead
  extract_lets -merge -useContext -underBinder off_1 n_2
  try clear_value off_1
  try clear_value n_2
  apply keptD_ite
  · repeat' first | (with_reducible assumption) | (with_reducible apply kept_done) | (with_reducible apply kept_done)
  · apply keptD_ite
    · repeat' first | (with_reducible assumption) | (with_reducible apply kept_done) | (with_reducible apply kept_done)
    · split
      · repeat' first | (with_reducible assumption) | (with_reducible apply kept_done) | (with_reducible apply kept_done)
      · extract_lets -merge -useContext -underBinder bs_3
        try clear_value bs_3
        repeat' first | (with_reducible assumption) | (with_reducible apply kept_doneW) | (with_reducible apply kept_doneW)

end Sys2Proof.Machine
end

