-- ==== Sys2Proof/Laws/KeptDetect.lean ====
section
/-! SUPPORT. What each operation of Machine/Detect.lean keeps. -/

set_option linter.unreachableTactic false
set_option linter.unusedTactic false
set_option linter.unusedSimpArgs false
set_option linter.unusedVariables false

namespace Sys2Proof.Machine

theorem kept_setDet {s0 s : State} (h : Kept s0 s) : ∀ x0, Kept s0 (setDet s x0) := by
  intro x0
  unfold setDet
  repeat' first | (with_reducible assumption) | simp only [kept_mk_iff]

theorem kept_sampleUnit {s0 s : State} (h : Kept s0 s) (did i : Nat) : Kept s0 (sampleUnit s did i) := by
  unfold sampleUnit
  extract_lets -merge -useContext -underBinder key shown u old n now put first x inj s1 w s2
  have hput : ∀ {a : State} x, Kept s0 a → Kept s0 (put a x) := fun x k => kept_setDet k _
  have h1 : Kept s0 s1 := hput _ h
  apply kept_ite
  · exact kept_ite h (hput _ h)
  · apply kept_ite
    · exact hput _ h
    · apply kept_ite
      · exact kept_setJournal h1 _
      · exact kept_setDet (kept_log h1 ..) _

theorem kept_telemetrySample {s0 s : State} (h : Kept s0 s) : Kept s0 (telemetrySample s) := by
  unfold telemetrySample
  extract_lets -merge -useContext -underBinder s1_1
  have h_s1_1 : Kept s0 s1_1 := by
    unfold s1_1
    repeat' first | (with_reducible assumption) | (with_reducible apply kept_sampleUnit) | (with_reducible apply kept_foldl) | (with_reducible apply keptP_foldl) | dsimp only | intro _ _ _
  try clear_value s1_1
  apply kept_ite
  · assumption
  · repeat' first | (with_reducible assumption) | (with_reducible apply kept_sampleUnit) | (with_reducible apply kept_setDet) | simp only [kept_mk_iff]

theorem kept_execTelemetrySample {s0 s : State} (h : Kept s0 s) : ∃ t, execTelemetrySample s = .next t ∧ Kept s0 t := by
  refine ⟨_, rfl, ?_⟩
  repeat' first | (with_reducible assumption) | (with_reducible apply kept_telemetrySample)

theorem kept_detStatus {s0 s : State} (h : Kept s0 s) : ∀ x0, KeptD s0 (detStatus x0 s) := by
  intro x0
  unfold detStatus
  extract_lets -merge -useContext -underBinder did_1 l_2 us_3 th_4 sum_5 lat_6
  try clear_value did_1
  try clear_value l_2
  try clear_value us_3
  try clear_value th_4
  try clear_value sum_5
  try clear_value lat_6
  apply keptD_ite
  · repeat' first | (with_reducible assumption) | (with_reducible apply kept_done) | (with_reducible apply kept_done)
  · apply keptD_ite
    · repeat' first | (with_reducible assumption) | (with_reducible apply kept_done) | (with_reducible apply kept_done)
    · split
      · repeat' first | (with_reducible assumption) | (with_reducible apply kept_doneW) | (with_reducible apply kept_doneW) | simp only [kept_mk_iff] | dsimp only | intro _ _ _ | (with_reducible apply keptP_mk) | (with_reducible apply keptQ_mk)
      · repeat' first | (with_reducible assumption) | (with_reducible apply kept_doneW) | (with_reducible apply kept_doneW) | simp only [kept_mk_iff] | dsimp only | intro _ _ _ | (with_reducible apply keptP_mk) | (with_reducible apply keptQ_mk)

theorem kept_detLogRead {s0 s : State} (h : Kept s0 s) : ∀ x0, KeptD s0 (detLogRead x0 s) := by
  intro x0
  unfold detLogRead
  extract_lets -merge -useContext -underBinder w_1 maxb_2 typ_3
  try clear_value w_1
  try clear_value maxb_2
  try clear_value typ_3
  apply keptD_ite
  · repeat' first | (with_reducible assumption) | (with_reducible apply kept_done) | (with_reducible apply kept_done)
  · apply keptD_ite
    · repeat' first | (with_reducible assumption) | (with_reducible apply kept_done) | (with_reducible apply kept_done)
    · repeat' first | (with_reducible assumption) | (with_reducible apply kept_doneW) | (with_reducible apply kept_doneW) | (with_reducible apply kept_ite) | (with_reducible apply keptD_ite) | split

theorem kept_eccWrite {s0 s : State} (h : Kept s0 s) (a mask : Nat) : Kept s0 (eccWrite s a mask) := by
  unfold eccWrite
  exact kept_setDet (kept_mem h _ fun w => Memory.wf_setMark _ _ _ w) _

theorem kept_armDet {s0 s : State} (h : Kept s0 s) : ∀ x0 x1 x2 x3, Kept s0 (armDet s x0 x1 x2 x3) := by
  intro x0 x1 x2 x3
  unfold armDet
  repeat' first | (with_reducible assumption) | (with_reducible apply kept_setDet) | simp only [kept_mk_iff] | dsimp only | intro _ _ _ | (with_reducible apply keptP_mk) | (with_reducible apply keptQ_mk)

theorem kept_detArm {s0 s : State} (h : Kept s0 s) : ∀ x0 x1 x2 x3 x4, Kept s0 (detArm s x0 x1 x2 x3 x4) := by
  intro x0 x1 x2 x3 x4
  unfold detArm
  split
  · rename_i a_1
    repeat' first | (with_reducible assumption) | (with_reducible apply kept_eccWrite)
  · rename_i a_2
    repeat' first | (with_reducible assumption) | (with_reducible apply kept_eccWrite)
  · rename_i a_3
    repeat' first | (with_reducible assumption) | (with_reducible apply kept_eccWrite)
  · rename_i a_4
    repeat' first | (with_reducible assumption) | (with_reducible apply kept_wr) | (with_reducible apply keptP_mk) | (with_reducible apply keptQ_mk)
  · rename_i a_5
    repeat' first | (with_reducible assumption) | (with_reducible apply kept_wr)
  · rename_i a_6
    repeat' first | (with_reducible assumption) | (with_reducible apply kept_wr) | (with_reducible apply keptP_mk) | (with_reducible apply keptQ_mk)
  · rename_i a_7
    repeat' first | (with_reducible assumption) | (with_reducible apply kept_lanesMoved) | (with_reducible apply kept_laneInjArm)
  · rename_i a_8
    repeat' first | (with_reducible assumption) | (with_reducible apply kept_lanesMoved) | (with_reducible apply kept_laneInjArm)
  · rename_i a_9
    repeat' first | (with_reducible assumption) | (with_reducible apply kept_lanesMoved) | (with_reducible apply kept_quadInjArm)
  · rename_i a_10
    repeat' first | (with_reducible assumption) | (with_reducible apply kept_testWrite)
  · rename_i a_11
    repeat' first | (with_reducible assumption) | (with_reducible apply kept_ivrInjArm)
  · rename_i a_12
    repeat' first | (with_reducible assumption) | (with_reducible apply kept_ivrInjArm)
  · rename_i a_13
    repeat' first | (with_reducible assumption) | (with_reducible apply kept_ivrInjArm)
  · rename_i a_14
    extract_lets -merge -useContext -underBinder s1_15 stop_16
    have h_s1_15 : Kept s0 s1_15 := by
      unfold s1_15
      repeat' first | (with_reducible assumption) | (with_reducible apply kept_wr) | (with_reducible apply keptP_mk) | (with_reducible apply keptQ_mk)
    try clear_value s1_15
    try clear_value stop_16
    repeat' first | (with_reducible assumption) | (with_reducible apply kept_setTh)
  · rename_i a_17
    repeat' first | (with_reducible assumption) | (with_reducible apply kept_setCma) | (with_reducible apply kept_wr) | (with_reducible apply keptP_mk) | (with_reducible apply keptQ_mk)
  · rename_i a_18
    repeat' first | (with_reducible assumption) | (with_reducible apply kept_wr) | (with_reducible apply keptP_mk) | (with_reducible apply keptQ_mk)
  · rename_i a_19
    repeat' first | (with_reducible assumption) | (with_reducible apply kept_wr) | (with_reducible apply keptP_mk) | (with_reducible apply keptQ_mk)
  · rename_i a_20
    repeat' first | (with_reducible assumption) | (with_reducible apply kept_setDom)
  · rename_i a_21
    repeat' first | (with_reducible assumption) | (with_reducible apply kept_wr) | (with_reducible apply keptP_mk) | (with_reducible apply keptQ_mk)
  · rename_i a_22
    repeat' first | (with_reducible assumption) | (with_reducible apply kept_wr) | (with_reducible apply keptP_mk) | (with_reducible apply keptQ_mk)
  · rename_i a_23
    repeat' first | (with_reducible assumption) | (with_reducible apply kept_setDet)
  · rename_i a_24
    repeat' first | (with_reducible assumption) | (with_reducible apply kept_setDet)
  · rename_i a_25
    extract_lets -merge -useContext -underBinder s1_26
    have h_s1_26 : Kept s0 s1_26 := by
      unfold s1_26
      repeat' first | (with_reducible assumption) | (with_reducible apply kept_watchdogExpire)
    try clear_value s1_26
    apply kept_ite
    · repeat' first | (with_reducible assumption) | (with_reducible apply kept_watchdogExpire)
    · repeat' first | (with_reducible assumption)
  · rename_i a_27
    extract_lets -merge -useContext -underBinder c_28
    try clear_value c_28
    repeat' first | (with_reducible assumption) | (with_reducible apply kept_putCore)
  · rename_i a_29
    repeat' first | (with_reducible assumption) | (with_reducible apply kept_wrB)
  · rename_i a_30
    repeat' first | (with_reducible assumption) | (with_reducible apply kept_armDet) | (with_reducible apply kept_wrB)
  · rename_i a_31
    repeat' first | (with_reducible assumption) | (with_reducible apply kept_modPort)
  · rename_i a_32
    repeat' first | (with_reducible assumption) | (with_reducible apply kept_wr)
  · rename_i a_33
    repeat' first | (with_reducible assumption) | (with_reducible apply kept_aerReport)
  · rename_i a_34 a_35 a_36 a_37 a_38 a_39 a_40 a_41 a_42 a_43 a_44 a_45 a_46 a_47 a_48 a_49 a_50 a_51 a_52 a_53 a_54 a_55 a_56 a_57 a_58 a_59 a_60 a_61 a_62 a_63
    repeat' first | (with_reducible assumption) | (with_reducible apply kept_armDet)

theorem kept_detInject {s0 s : State} (h : Kept s0 s) : ∀ x0, KeptD s0 (detInject x0 s) := by
  intro x0
  unfold detInject
  extract_lets -merge -useContext -underBinder w_1 did_2 i_3 a0_4 a1_5 addr_6
  try clear_value w_1
  try clear_value did_2
  try clear_value i_3
  try clear_value a0_4
  try clear_value a1_5
  try clear_value addr_6
  apply keptD_ite
  · repeat' first | (with_reducible assumption) | (with_reducible apply kept_done) | (with_reducible apply kept_done)
  · apply keptD_ite
    · repeat' first | (with_reducible assumption) | (with_reducible apply kept_done) | (with_reducible apply kept_done)
    · apply keptD_ite
      · repeat' first | (with_reducible assumption) | (with_reducible apply kept_done) | (with_reducible apply kept_done)
      · apply keptD_ite
        · repeat' first | (with_reducible assumption) | (with_reducible apply kept_done) | (with_reducible apply kept_done)
        · apply keptD_ite
          · repeat' first | (with_reducible assumption) | (with_reducible apply kept_done) | (with_reducible apply kept_done)
          · apply keptD_ite
            · repeat' first | (with_reducible assumption) | (with_reducible apply kept_done) | (with_reducible apply kept_done)
            · split
              · rename_i a0_7 a1_7 e_7
                have h_a0_7 : Kept s0 a0_7 := by
                  apply KeptP.eq (e := e_7)
                  repeat' first | (with_reducible assumption) | (with_reducible apply kept_append) | simp only [kept_mk_iff] | dsimp only | intro _ _ _ | (with_reducible apply keptP_mk) | (with_reducible apply keptQ_mk)
                clear e_7
                extract_lets -merge -useContext -underBinder key_8 s2_9
                try clear_value key_8
                have h_s2_9 : Kept s0 s2_9 := by
                  unfold s2_9
                  apply kept_ite
                  · repeat' first | (with_reducible assumption) | (with_reducible apply kept_setDet) | (with_reducible apply kept_ite) | (with_reducible apply keptD_ite) | simp only [kept_mk_iff] | split
                  · assumption
                try clear_value s2_9
                repeat' first | (with_reducible assumption) | (with_reducible apply kept_detArm) | (with_reducible apply kept_doneW) | (with_reducible apply kept_doneW)

end Sys2Proof.Machine
end

