-- ==== Sys2Proof/Laws/KeptCommands.lean ====
section
/-! SUPPORT. What each operation of Machine/Commands.lean keeps. -/

set_option linter.unreachableTactic false
set_option linter.unusedTactic false
set_option linter.unusedSimpArgs false
set_option linter.unusedVariables false

namespace Sys2Proof.Machine

theorem kept_devCaps {s0 s : State} (h : Kept s0 s) : ∀ x0, KeptD s0 (devCaps x0 s) := by
  intro x0
  unfold devCaps
  extract_lets -merge -useContext -underBinder quads_1
  try clear_value quads_1
  apply keptD_ite
  · repeat' first | (with_reducible assumption) | (with_reducible apply kept_done) | (with_reducible apply kept_done)
  · repeat' first | (with_reducible assumption) | (with_reducible apply kept_doneW) | (with_reducible apply kept_doneW)

theorem kept_devEcho {s0 s : State} (h : Kept s0 s) : ∀ x0, KeptD s0 (devEcho x0 s) := by
  intro x0
  unfold devEcho
  apply keptD_ite
  · repeat' first | (with_reducible assumption) | (with_reducible apply kept_done) | (with_reducible apply kept_done)
  · repeat' first | (with_reducible assumption) | (with_reducible apply kept_doneW) | (with_reducible apply kept_doneW)

theorem kept_pennantConfig {s0 s : State} (h : Kept s0 s) : ∀ x0, KeptD s0 (pennantConfig x0 s) := by
  intro x0
  unfold pennantConfig
  apply keptD_ite
  · repeat' first | (with_reducible assumption) | (with_reducible apply kept_done) | (with_reducible apply kept_done)
  · apply keptD_ite
    · repeat' first | (with_reducible assumption) | (with_reducible apply kept_done) | (with_reducible apply kept_done)
    · repeat' first | (with_reducible assumption) | (with_reducible apply kept_done) | (with_reducible apply kept_wr) | (with_reducible apply kept_done)

theorem kept_eventSinkSet {s0 s : State} (h : Kept s0 s) : ∀ x0, KeptD s0 (eventSinkSet x0 s) := by
  intro x0
  unfold eventSinkSet
  extract_lets -merge -useContext -underBinder w_1 k_2
  try clear_value w_1
  try clear_value k_2
  apply keptD_ite
  · repeat' first | (with_reducible assumption) | (with_reducible apply kept_done) | (with_reducible apply kept_done)
  · apply keptD_ite
    · repeat' first | (with_reducible assumption) | (with_reducible apply kept_done) | (with_reducible apply kept_done)
    · apply keptD_ite
      · repeat' first | (with_reducible assumption) | (with_reducible apply kept_done) | (with_reducible apply kept_done)
      · apply keptD_ite
        · repeat' first | (with_reducible assumption) | (with_reducible apply kept_done) | (with_reducible apply kept_done)
        · repeat' first | (with_reducible assumption) | (with_reducible apply kept_done) | (with_reducible apply kept_wr) | (with_reducible apply kept_done) | simp only [kept_mk_iff] | dsimp only | intro _ _ _ | (with_reducible apply keptP_mk) | (with_reducible apply keptQ_mk)

theorem kept_eventEnable {s0 s : State} (h : Kept s0 s) : ∀ x0, KeptD s0 (eventEnable x0 s) := by
  intro x0
  unfold eventEnable
  apply keptD_ite
  · repeat' first | (with_reducible assumption) | (with_reducible apply kept_done) | (with_reducible apply kept_done)
  · split
    · repeat' first | (with_reducible assumption) | (with_reducible apply kept_done) | (with_reducible apply kept_done)
    · split
      · repeat' first | (with_reducible assumption) | (with_reducible apply kept_done) | (with_reducible apply kept_done)
      · apply keptD_ite
        · repeat' first | (with_reducible assumption) | (with_reducible apply kept_done) | (with_reducible apply kept_done)
        · apply keptD_ite
          · repeat' first | (with_reducible assumption) | (with_reducible apply kept_done) | (with_reducible apply kept_done)
          · repeat' first | (with_reducible assumption) | (with_reducible apply kept_done) | (with_reducible apply kept_wr) | (with_reducible apply kept_done) | (with_reducible apply kept_ite) | (with_reducible apply keptD_ite) | split

theorem kept_eventStatus {s0 s : State} (h : Kept s0 s) : ∀ x0, KeptD s0 (eventStatus x0 s) := by
  intro x0
  unfold eventStatus
  apply keptD_ite
  · repeat' first | (with_reducible assumption) | (with_reducible apply kept_done) | (with_reducible apply kept_done)
  · repeat' first | (with_reducible assumption) | (with_reducible apply kept_doneW) | (with_reducible apply kept_doneW)

theorem PnOk.grow {s : State} {p : Pennant} {x : Held} (h : PnOk s.pn) (e1 : p.pcieSink = s.pn.pcieSink) (e2 : p.i3cSink = s.pn.i3cSink)
    (e3 : p.laceSink = s.pn.laceSink) (e4 : p.held = s.pn.held ++ [x]) (hb : streamBusy s x.req.stream.val = false) : PnOk p := by
  refine ⟨e1 ▸ h.1, e2 ▸ h.2, e3 ▸ h.3, ?_⟩
  unfold heldStreams
  rw [e4, List.map_append, List.nodup_append]
  refine ⟨h.4, List.nodup_singleton _, ?_⟩
  intro a ha b hb2 hab
  simp only [List.map_cons, List.map_nil, List.mem_singleton] at hb2
  obtain ⟨y, hy, rfl⟩ := List.mem_map.mp ha
  unfold streamBusy at hb
  rw [List.any_eq_false] at hb
  exact hb y hy (decide_eq_true (hab.trans hb2))

theorem kept_forwardCmd {s0 s : State} (h : Kept s0 s) (x : Held) (hb : streamBusy s x.req.stream.val = false) (t : Nat) : Kept s0 (forwardCmd s x t) := by
  unfold forwardCmd
  split
  · exact kept_reply h ..
  · apply kept_ite (kept_reply h ..)
    dsimp only
    refine kept_foldl _ (fun a x k => kept_laceMsg k ..) _ (kept_bump (kept_setPn h _ fun y => ?_) ..)
    exact y.grow rfl rfl rfl rfl hb

theorem kept_body01 {s0 s : State} (h : Kept s0 s) (op : Nat) (q : Req) : ∀ d, body01 op q s = some d → KeptD s0 d := by
  intro d e
  unfold body01 at e
  split at e
  · injection e with e; rw [← e]; exact kept_devEcho h ..
  · injection e with e; rw [← e]; exact kept_devCaps h ..
  · injection e with e; rw [← e]; exact kept_pennantConfig h ..
  · injection e with e; rw [← e]; exact kept_commitCmd h ..
  · injection e with e; rw [← e]; exact kept_commitCmd h ..
  · injection e with e; rw [← e]; exact kept_queueStatus h ..
  · cases e

theorem kept_body02 {s0 s : State} (h : Kept s0 s) (op : Nat) (q : Req) : ∀ d, body02 op q s = some d → KeptD s0 d := by
  intro d e
  unfold body02 at e
  split at e
  · injection e with e; rw [← e]; exact kept_commitStatus h ..
  · injection e with e; rw [← e]; exact kept_commitCancel h ..
  · injection e with e; rw [← e]; exact kept_commitCmd h ..
  · cases e

theorem kept_body03 {s0 s : State} (h : Kept s0 s) (op : Nat) (q : Req) : ∀ d, body03 op q s = some d → KeptD s0 d := by
  intro d e
  unfold body03 at e
  split at e
  · injection e with e; rw [← e]; exact kept_commitCmd h ..
  · injection e with e; rw [← e]; exact kept_commitCmd h ..
  · injection e with e; rw [← e]; exact kept_patternLoad h ..
  · injection e with e; rw [← e]; exact kept_patternUnload h ..
  · injection e with e; rw [← e]; exact kept_patternStatus h ..
  · injection e with e; rw [← e]; exact kept_ringConfig h ..
  · injection e with e; rw [← e]; exact kept_cordStatus h ..
  · injection e with e; rw [← e]; exact kept_commitCmd h ..
  · injection e with e; rw [← e]; exact kept_placeExclude h ..
  · injection e with e; rw [← e]; exact kept_govStatus h ..
  · injection e with e; rw [← e]; exact kept_govCellStats h ..
  · cases e

theorem kept_body04 {s0 s : State} (h : Kept s0 s) (op : Nat) (q : Req) : ∀ d, body04 op q s = some d → KeptD s0 d := by
  intro d e
  unfold body04 at e
  split at e
  · injection e with e; rw [← e]; exact kept_laneConfig h ..
  · injection e with e; rw [← e]; exact kept_laneStatus h ..
  · injection e with e; rw [← e]; exact kept_laneRetrain h ..
  · injection e with e; rw [← e]; exact kept_laneTest h ..
  · injection e with e; rw [← e]; exact kept_laneTestRead h ..
  · injection e with e; rw [← e]; exact kept_refclkConfig h ..
  · injection e with e; rw [← e]; exact kept_quadRef h ..
  · cases e

theorem kept_body05 {s0 s : State} (h : Kept s0 s) (op : Nat) (q : Req) : ∀ d, body05 op q s = some d → KeptD s0 d := by
  intro d e
  unfold body05 at e
  split at e
  · injection e with e; rw [← e]; exact kept_fhMacConfig h ..
  · injection e with e; rw [← e]; exact kept_fhMacStatus h ..
  · injection e with e; rw [← e]; exact kept_commitCmd h ..
  · injection e with e; rw [← e]; exact kept_fhFlowStatus h ..
  · injection e with e; rw [← e]; exact kept_ptpConfig h ..
  · injection e with e; rw [← e]; exact kept_synceOutConfig h ..
  · injection e with e; rw [← e]; exact kept_pinConfig h ..
  · cases e

theorem kept_body06 {s0 s : State} (h : Kept s0 s) (op : Nat) (q : Req) : ∀ d, body06 op q s = some d → KeptD s0 d := by
  intro d e
  unfold body06 at e
  split at e
  · injection e with e; rw [← e]; exact kept_lacePortConfig h ..
  · injection e with e; rw [← e]; exact kept_laceJoin h ..
  · injection e with e; rw [← e]; exact kept_laceLeave h ..
  · injection e with e; rw [← e]; exact kept_laceStatus h ..
  · injection e with e; rw [← e]; exact kept_laceRouteSet h ..
  · injection e with e; rw [← e]; exact kept_laceExportSet h ..
  · injection e with e; rw [← e]; exact kept_laceTransitSet h ..
  · injection e with e; rw [← e]; exact kept_laceDomainCommit h ..
  · injection e with e; rw [← e]; exact kept_laceMasthead h ..
  · cases e

theorem kept_body07 {s0 s : State} (h : Kept s0 s) (op : Nat) (q : Req) : ∀ d, body07 op q s = some d → KeptD s0 d := by
  intro d e
  unfold body07 at e
  split at e
  · injection e with e; rw [← e]; exact kept_timeStatus h ..
  · injection e with e; rw [← e]; exact kept_timeRefConfig h ..
  · injection e with e; rw [← e]; exact kept_timeStepCmd h ..
  · injection e with e; rw [← e]; exact kept_timeStepCancel h ..
  · injection e with e; rw [← e]; exact kept_commitCmd h ..
  · cases e

theorem kept_body08 {s0 s : State} (h : Kept s0 s) (op : Nat) (q : Req) : ∀ d, body08 op q s = some d → KeptD s0 d := by
  intro d e
  unfold body08 at e
  split at e
  · injection e with e; rw [← e]; exact kept_pwrStatus h ..
  · injection e with e; rw [← e]; exact kept_pwrDomainSet h ..
  · injection e with e; rw [← e]; exact kept_pwrLimitSet h ..
  · injection e with e; rw [← e]; exact kept_pwrIdleConfig h ..
  · injection e with e; rw [← e]; exact kept_pwrFitCap h ..
  · cases e

theorem kept_body09 {s0 s : State} (h : Kept s0 s) (op : Nat) (q : Req) : ∀ d, body09 op q s = some d → KeptD s0 d := by
  intro d e
  unfold body09 at e
  split at e
  · injection e with e; rw [← e]; exact kept_thermStatus h ..
  · injection e with e; rw [← e]; exact kept_thermConfig h ..
  · injection e with e; rw [← e]; exact kept_thermRestart h ..
  · cases e

theorem kept_body0A {s0 s : State} (h : Kept s0 s) (op : Nat) (q : Req) : ∀ d, body0A op q s = some d → KeptD s0 d := by
  intro d e
  unfold body0A at e
  split at e
  · injection e with e; rw [← e]; exact kept_journalRead h ..
  · injection e with e; rw [← e]; exact kept_ledgerRead h ..
  · injection e with e; rw [← e]; exact kept_journalCompact h ..
  · injection e with e; rw [← e]; exact kept_bootProfileWrite h ..
  · injection e with e; rw [← e]; exact kept_bootProfileRead h ..
  · cases e

theorem kept_body0B {s0 s : State} (h : Kept s0 s) (op : Nat) (q : Req) : ∀ d, body0B op q s = some d → KeptD s0 d := by
  intro d e
  unfold body0B at e
  split at e
  · injection e with e; rw [← e]; exact kept_cmaStatus h ..
  · injection e with e; rw [← e]; exact kept_cmaCalibrate h ..
  · injection e with e; rw [← e]; exact kept_cmaConfig h ..
  · injection e with e; rw [← e]; exact kept_cmaPreload h ..
  · injection e with e; rw [← e]; exact kept_cmaService h ..
  · cases e

theorem kept_body0C {s0 s : State} (h : Kept s0 s) (op : Nat) (q : Req) : ∀ d, body0C op q s = some d → KeptD s0 d := by
  intro d e
  unfold body0C at e
  split at e
  · injection e with e; rw [← e]; exact kept_detStatus h ..
  · injection e with e; rw [← e]; exact kept_detInject h ..
  · injection e with e; rw [← e]; exact kept_detLogRead h ..
  · cases e

theorem kept_body0D {s0 s : State} (h : Kept s0 s) (op : Nat) (q : Req) : ∀ d, body0D op q s = some d → KeptD s0 d := by
  intro d e
  unfold body0D at e
  split at e
  · injection e with e; rw [← e]; exact kept_fwStatus h ..
  · injection e with e; rw [← e]; exact kept_fwUpdateBegin h ..
  · injection e with e; rw [← e]; exact kept_fwUpdateData h ..
  · injection e with e; rw [← e]; exact kept_fwActivateCmd h ..
  · injection e with e; rw [← e]; exact kept_idCertRead h ..
  · injection e with e; rw [← e]; exact kept_attest h ..
  · injection e with e; rw [← e]; exact kept_ownerKeyInstall h ..
  · injection e with e; rw [← e]; exact kept_tokenCmd h ..
  · injection e with e; rw [← e]; exact kept_tokenCmd h ..
  · cases e

theorem kept_body0E {s0 s : State} (h : Kept s0 s) (op : Nat) (q : Req) : ∀ d, body0E op q s = some d → KeptD s0 d := by
  intro d e
  unfold body0E at e
  split at e
  · injection e with e; rw [← e]; exact kept_eventSinkSet h ..
  · injection e with e; rw [← e]; exact kept_eventEnable h ..
  · injection e with e; rw [← e]; exact kept_eventStatus h ..
  · cases e

theorem kept_body {s0 s : State} (h : Kept s0 s) (op : Nat) (q : Req) : ∀ d, body op q s = some d → KeptD s0 d := by
  intro d e
  unfold body at e
  split at e
  · exact kept_body01 h _ _ _ e
  · exact kept_body02 h _ _ _ e
  · exact kept_body03 h _ _ _ e
  · exact kept_body04 h _ _ _ e
  · exact kept_body05 h _ _ _ e
  · exact kept_body06 h _ _ _ e
  · exact kept_body07 h _ _ _ e
  · exact kept_body08 h _ _ _ e
  · exact kept_body09 h _ _ _ e
  · exact kept_body0A h _ _ _ e
  · exact kept_body0B h _ _ _ e
  · exact kept_body0C h _ _ _ e
  · exact kept_body0D h _ _ _ e
  · exact kept_body0E h _ _ _ e
  · cases e

theorem kept_headerReply {s0 s : State} (h : Kept s0 s) : ∀ x0, Kept s0 (headerReply s x0) := by
  intro x0
  unfold headerReply
  split
  · rename_i a_1 e_2
    repeat' first | (with_reducible assumption)
  · rename_i a_3 a_4 e_5
    extract_lets -merge -useContext -underBinder s1_6
    have h_s1_6 : Kept s0 s1_6 := by
      unfold s1_6
      repeat' first | (with_reducible assumption) | (with_reducible apply kept_setHost)
    try clear_value s1_6
    apply kept_subDrain
    apply kept_ite
    · repeat' first | (with_reducible assumption)
    · repeat' first | (with_reducible assumption) | (with_reducible apply kept_cqPost)

theorem kept_runBody {s0 s : State} (h : Kept s0 s) (x : Held) (hb : streamBusy s x.req.stream.val = false) : Kept s0 (runBody s x) := by
  unfold runBody
  have h1 : Kept s0 (setPn s fun p => { p with held := p.held ++ [x] }) := kept_setPn h _ fun y => y.grow rfl rfl rfl rfl hb
  split
  · exact kept_reply h ..
  · rename_i d e
    have hd : Kept s0 d.st := kept_body h1 _ _ d e
    apply kept_ite
    · exact kept_reply h ..
    · apply kept_ite
      · exact hd
      · exact kept_reply (kept_setPn hd _ fun y => y.sub rfl rfl rfl (removeFirst_sublist _ _)) ..

theorem kept_startCmd {s0 s : State} (h : Kept s0 s) (x : Held) (hb : streamBusy s x.req.stream.val = false) : Kept s0 (startCmd s x) := by
  unfold startCmd
  split
  · apply kept_ite
    · exact kept_headerReply h _
    · exact kept_reply h ..
  · exact kept_forwardCmd h x hb _
  · exact kept_runBody h x hb

theorem kept_settleN {s0 : State} : ∀ (n : Nat) {s : State}, Kept s0 s → Kept s0 (settleN n s)
  | 0, _, h => h
  | n + 1, s, h => by
    unfold settleN
    split
    · exact h
    · rename_i x e
      apply kept_settleN n
      have hm := List.find?_some e
      have hb : streamBusy s x.req.stream.val = false := by
        unfold mayStart at hm
        simp only [Bool.and_eq_true] at hm
        simpa using hm.1.2
      exact kept_startCmd (kept_setPn h _ fun y => ⟨y.1, y.2, y.3, y.4⟩) x hb

theorem kept_settle {s0 s : State} (h : Kept s0 s) : Kept s0 (settle s) := by
  unfold settle
  repeat' first | (with_reducible assumption) | (with_reducible apply kept_settleN)

theorem kept_arrive {s0 s : State} (h : Kept s0 s) : ∀ x0, Kept s0 (arrive s x0) := by
  intro x0
  unfold arrive
  repeat' first | (with_reducible assumption) | (with_reducible apply kept_setPn) | exact fun h => ⟨h.1, h.2, h.3, h.4⟩ | simp only [kept_mk_iff]

theorem kept_runCommand {s0 s : State} (h : Kept s0 s) : ∀ x0 x1, Kept s0 (runCommand x0 x1 s) := by
  intro x0 x1
  unfold runCommand
  repeat' first | (with_reducible assumption) | (with_reducible apply kept_arrive) | (with_reducible apply kept_settle) | simp only [kept_mk_iff]

theorem kept_execDevCaps {s0 s : State} (h : Kept s0 s) : ∀ x0, ∃ t, execDevCaps x0 s = .next t ∧ Kept s0 t := by
  intro x0
  refine ⟨_, rfl, ?_⟩
  repeat' first | (with_reducible assumption) | (with_reducible apply kept_runCommand)

theorem kept_execDevEcho {s0 s : State} (h : Kept s0 s) : ∀ x0, ∃ t, execDevEcho x0 s = .next t ∧ Kept s0 t := by
  intro x0
  refine ⟨_, rfl, ?_⟩
  repeat' first | (with_reducible assumption) | (with_reducible apply kept_runCommand)

theorem kept_execPennantConfig {s0 s : State} (h : Kept s0 s) : ∀ x0, ∃ t, execPennantConfig x0 s = .next t ∧ Kept s0 t := by
  intro x0
  refine ⟨_, rfl, ?_⟩
  repeat' first | (with_reducible assumption) | (with_reducible apply kept_runCommand)

theorem kept_execHbmPartition {s0 s : State} (h : Kept s0 s) : ∀ x0, ∃ t, execHbmPartition x0 s = .next t ∧ Kept s0 t := by
  intro x0
  refine ⟨_, rfl, ?_⟩
  repeat' first | (with_reducible assumption) | (with_reducible apply kept_runCommand)

theorem kept_execQueueConfig {s0 s : State} (h : Kept s0 s) : ∀ x0, ∃ t, execQueueConfig x0 s = .next t ∧ Kept s0 t := by
  intro x0
  refine ⟨_, rfl, ?_⟩
  repeat' first | (with_reducible assumption) | (with_reducible apply kept_runCommand)

theorem kept_execQueueStatus {s0 s : State} (h : Kept s0 s) : ∀ x0, ∃ t, execQueueStatus x0 s = .next t ∧ Kept s0 t := by
  intro x0
  refine ⟨_, rfl, ?_⟩
  repeat' first | (with_reducible assumption) | (with_reducible apply kept_runCommand)

theorem kept_execCommitStatus {s0 s : State} (h : Kept s0 s) : ∀ x0, ∃ t, execCommitStatus x0 s = .next t ∧ Kept s0 t := by
  intro x0
  refine ⟨_, rfl, ?_⟩
  repeat' first | (with_reducible assumption) | (with_reducible apply kept_runCommand)

theorem kept_execCommitCancel {s0 s : State} (h : Kept s0 s) : ∀ x0, ∃ t, execCommitCancel x0 s = .next t ∧ Kept s0 t := by
  intro x0
  refine ⟨_, rfl, ?_⟩
  repeat' first | (with_reducible assumption) | (with_reducible apply kept_runCommand)

theorem kept_execCommitGroup {s0 s : State} (h : Kept s0 s) : ∀ x0, ∃ t, execCommitGroup x0 s = .next t ∧ Kept s0 t := by
  intro x0
  refine ⟨_, rfl, ?_⟩
  repeat' first | (with_reducible assumption) | (with_reducible apply kept_runCommand)

theorem kept_execCellStart {s0 s : State} (h : Kept s0 s) : ∀ x0, ∃ t, execCellStart x0 s = .next t ∧ Kept s0 t := by
  intro x0
  refine ⟨_, rfl, ?_⟩
  repeat' first | (with_reducible assumption) | (with_reducible apply kept_runCommand)

theorem kept_execCellStop {s0 s : State} (h : Kept s0 s) : ∀ x0, ∃ t, execCellStop x0 s = .next t ∧ Kept s0 t := by
  intro x0
  refine ⟨_, rfl, ?_⟩
  repeat' first | (with_reducible assumption) | (with_reducible apply kept_runCommand)

theorem kept_execPatternLoad {s0 s : State} (h : Kept s0 s) : ∀ x0, ∃ t, execPatternLoad x0 s = .next t ∧ Kept s0 t := by
  intro x0
  refine ⟨_, rfl, ?_⟩
  repeat' first | (with_reducible assumption) | (with_reducible apply kept_runCommand)

theorem kept_execPatternUnload {s0 s : State} (h : Kept s0 s) : ∀ x0, ∃ t, execPatternUnload x0 s = .next t ∧ Kept s0 t := by
  intro x0
  refine ⟨_, rfl, ?_⟩
  repeat' first | (with_reducible assumption) | (with_reducible apply kept_runCommand)

theorem kept_execPatternStatus {s0 s : State} (h : Kept s0 s) : ∀ x0, ∃ t, execPatternStatus x0 s = .next t ∧ Kept s0 t := by
  intro x0
  refine ⟨_, rfl, ?_⟩
  repeat' first | (with_reducible assumption) | (with_reducible apply kept_runCommand)

theorem kept_execSlotreqRingConfig {s0 s : State} (h : Kept s0 s) : ∀ x0, ∃ t, execSlotreqRingConfig x0 s = .next t ∧ Kept s0 t := by
  intro x0
  refine ⟨_, rfl, ?_⟩
  repeat' first | (with_reducible assumption) | (with_reducible apply kept_runCommand)

theorem kept_execCordStatus {s0 s : State} (h : Kept s0 s) : ∀ x0, ∃ t, execCordStatus x0 s = .next t ∧ Kept s0 t := by
  intro x0
  refine ⟨_, rfl, ?_⟩
  repeat' first | (with_reducible assumption) | (with_reducible apply kept_runCommand)

theorem kept_execGovPolicySet {s0 s : State} (h : Kept s0 s) : ∀ x0, ∃ t, execGovPolicySet x0 s = .next t ∧ Kept s0 t := by
  intro x0
  refine ⟨_, rfl, ?_⟩
  repeat' first | (with_reducible assumption) | (with_reducible apply kept_runCommand)

theorem kept_execPlaceExclude {s0 s : State} (h : Kept s0 s) : ∀ x0, ∃ t, execPlaceExclude x0 s = .next t ∧ Kept s0 t := by
  intro x0
  refine ⟨_, rfl, ?_⟩
  repeat' first | (with_reducible assumption) | (with_reducible apply kept_runCommand)

theorem kept_execGovStatus {s0 s : State} (h : Kept s0 s) : ∀ x0, ∃ t, execGovStatus x0 s = .next t ∧ Kept s0 t := by
  intro x0
  refine ⟨_, rfl, ?_⟩
  repeat' first | (with_reducible assumption) | (with_reducible apply kept_runCommand)

theorem kept_execGovCellStats {s0 s : State} (h : Kept s0 s) : ∀ x0, ∃ t, execGovCellStats x0 s = .next t ∧ Kept s0 t := by
  intro x0
  refine ⟨_, rfl, ?_⟩
  repeat' first | (with_reducible assumption) | (with_reducible apply kept_runCommand)

theorem kept_execLaneConfig {s0 s : State} (h : Kept s0 s) : ∀ x0, ∃ t, execLaneConfig x0 s = .next t ∧ Kept s0 t := by
  intro x0
  refine ⟨_, rfl, ?_⟩
  repeat' first | (with_reducible assumption) | (with_reducible apply kept_runCommand)

theorem kept_execLaneStatus {s0 s : State} (h : Kept s0 s) : ∀ x0, ∃ t, execLaneStatus x0 s = .next t ∧ Kept s0 t := by
  intro x0
  refine ⟨_, rfl, ?_⟩
  repeat' first | (with_reducible assumption) | (with_reducible apply kept_runCommand)

theorem kept_execLaneRetrain {s0 s : State} (h : Kept s0 s) : ∀ x0, ∃ t, execLaneRetrain x0 s = .next t ∧ Kept s0 t := by
  intro x0
  refine ⟨_, rfl, ?_⟩
  repeat' first | (with_reducible assumption) | (with_reducible apply kept_runCommand)

theorem kept_execLaneTest {s0 s : State} (h : Kept s0 s) : ∀ x0, ∃ t, execLaneTest x0 s = .next t ∧ Kept s0 t := by
  intro x0
  refine ⟨_, rfl, ?_⟩
  repeat' first | (with_reducible assumption) | (with_reducible apply kept_runCommand)

theorem kept_execLaneTestRead {s0 s : State} (h : Kept s0 s) : ∀ x0, ∃ t, execLaneTestRead x0 s = .next t ∧ Kept s0 t := by
  intro x0
  refine ⟨_, rfl, ?_⟩
  repeat' first | (with_reducible assumption) | (with_reducible apply kept_runCommand)

theorem kept_execRefclkConfig {s0 s : State} (h : Kept s0 s) : ∀ x0, ∃ t, execRefclkConfig x0 s = .next t ∧ Kept s0 t := by
  intro x0
  refine ⟨_, rfl, ?_⟩
  repeat' first | (with_reducible assumption) | (with_reducible apply kept_runCommand)

theorem kept_execQuadRef {s0 s : State} (h : Kept s0 s) : ∀ x0, ∃ t, execQuadRef x0 s = .next t ∧ Kept s0 t := by
  intro x0
  refine ⟨_, rfl, ?_⟩
  repeat' first | (with_reducible assumption) | (with_reducible apply kept_runCommand)

theorem kept_execFhMacConfig {s0 s : State} (h : Kept s0 s) : ∀ x0, ∃ t, execFhMacConfig x0 s = .next t ∧ Kept s0 t := by
  intro x0
  refine ⟨_, rfl, ?_⟩
  repeat' first | (with_reducible assumption) | (with_reducible apply kept_runCommand)

theorem kept_execFhMacStatus {s0 s : State} (h : Kept s0 s) : ∀ x0, ∃ t, execFhMacStatus x0 s = .next t ∧ Kept s0 t := by
  intro x0
  refine ⟨_, rfl, ?_⟩
  repeat' first | (with_reducible assumption) | (with_reducible apply kept_runCommand)

theorem kept_execFhFlowConfig {s0 s : State} (h : Kept s0 s) : ∀ x0, ∃ t, execFhFlowConfig x0 s = .next t ∧ Kept s0 t := by
  intro x0
  refine ⟨_, rfl, ?_⟩
  repeat' first | (with_reducible assumption) | (with_reducible apply kept_runCommand)

theorem kept_execFhFlowStatus {s0 s : State} (h : Kept s0 s) : ∀ x0, ∃ t, execFhFlowStatus x0 s = .next t ∧ Kept s0 t := by
  intro x0
  refine ⟨_, rfl, ?_⟩
  repeat' first | (with_reducible assumption) | (with_reducible apply kept_runCommand)

theorem kept_execPtpConfig {s0 s : State} (h : Kept s0 s) : ∀ x0, ∃ t, execPtpConfig x0 s = .next t ∧ Kept s0 t := by
  intro x0
  refine ⟨_, rfl, ?_⟩
  repeat' first | (with_reducible assumption) | (with_reducible apply kept_runCommand)

theorem kept_execSynceOutConfig {s0 s : State} (h : Kept s0 s) : ∀ x0, ∃ t, execSynceOutConfig x0 s = .next t ∧ Kept s0 t := by
  intro x0
  refine ⟨_, rfl, ?_⟩
  repeat' first | (with_reducible assumption) | (with_reducible apply kept_runCommand)

theorem kept_execPinConfig {s0 s : State} (h : Kept s0 s) : ∀ x0, ∃ t, execPinConfig x0 s = .next t ∧ Kept s0 t := by
  intro x0
  refine ⟨_, rfl, ?_⟩
  repeat' first | (with_reducible assumption) | (with_reducible apply kept_runCommand)

theorem kept_execLacePortConfig {s0 s : State} (h : Kept s0 s) : ∀ x0, ∃ t, execLacePortConfig x0 s = .next t ∧ Kept s0 t := by
  intro x0
  refine ⟨_, rfl, ?_⟩
  repeat' first | (with_reducible assumption) | (with_reducible apply kept_runCommand)

theorem kept_execLaceJoin {s0 s : State} (h : Kept s0 s) : ∀ x0, ∃ t, execLaceJoin x0 s = .next t ∧ Kept s0 t := by
  intro x0
  refine ⟨_, rfl, ?_⟩
  repeat' first | (with_reducible assumption) | (with_reducible apply kept_runCommand)

theorem kept_execLaceLeave {s0 s : State} (h : Kept s0 s) : ∀ x0, ∃ t, execLaceLeave x0 s = .next t ∧ Kept s0 t := by
  intro x0
  refine ⟨_, rfl, ?_⟩
  repeat' first | (with_reducible assumption) | (with_reducible apply kept_runCommand)

theorem kept_execLaceStatus {s0 s : State} (h : Kept s0 s) : ∀ x0, ∃ t, execLaceStatus x0 s = .next t ∧ Kept s0 t := by
  intro x0
  refine ⟨_, rfl, ?_⟩
  repeat' first | (with_reducible assumption) | (with_reducible apply kept_runCommand)

theorem kept_execLaceRouteSet {s0 s : State} (h : Kept s0 s) : ∀ x0, ∃ t, execLaceRouteSet x0 s = .next t ∧ Kept s0 t := by
  intro x0
  refine ⟨_, rfl, ?_⟩
  repeat' first | (with_reducible assumption) | (with_reducible apply kept_runCommand)

theorem kept_execLaceExportSet {s0 s : State} (h : Kept s0 s) : ∀ x0, ∃ t, execLaceExportSet x0 s = .next t ∧ Kept s0 t := by
  intro x0
  refine ⟨_, rfl, ?_⟩
  repeat' first | (with_reducible assumption) | (with_reducible apply kept_runCommand)

theorem kept_execLaceTransitSet {s0 s : State} (h : Kept s0 s) : ∀ x0, ∃ t, execLaceTransitSet x0 s = .next t ∧ Kept s0 t := by
  intro x0
  refine ⟨_, rfl, ?_⟩
  repeat' first | (with_reducible assumption) | (with_reducible apply kept_runCommand)

theorem kept_execLaceDomainCommit {s0 s : State} (h : Kept s0 s) : ∀ x0, ∃ t, execLaceDomainCommit x0 s = .next t ∧ Kept s0 t := by
  intro x0
  refine ⟨_, rfl, ?_⟩
  repeat' first | (with_reducible assumption) | (with_reducible apply kept_runCommand)

theorem kept_execLaceMastheadHandover {s0 s : State} (h : Kept s0 s) : ∀ x0, ∃ t, execLaceMastheadHandover x0 s = .next t ∧ Kept s0 t := by
  intro x0
  refine ⟨_, rfl, ?_⟩
  repeat' first | (with_reducible assumption) | (with_reducible apply kept_runCommand)

theorem kept_execLaceMastheadDesignate {s0 s : State} (h : Kept s0 s) : ∀ x0, ∃ t, execLaceMastheadDesignate x0 s = .next t ∧ Kept s0 t := by
  intro x0
  refine ⟨_, rfl, ?_⟩
  repeat' first | (with_reducible assumption) | (with_reducible apply kept_runCommand)

theorem kept_execTimeStatus {s0 s : State} (h : Kept s0 s) : ∀ x0, ∃ t, execTimeStatus x0 s = .next t ∧ Kept s0 t := by
  intro x0
  refine ⟨_, rfl, ?_⟩
  repeat' first | (with_reducible assumption) | (with_reducible apply kept_runCommand)

theorem kept_execTimeRefConfig {s0 s : State} (h : Kept s0 s) : ∀ x0, ∃ t, execTimeRefConfig x0 s = .next t ∧ Kept s0 t := by
  intro x0
  refine ⟨_, rfl, ?_⟩
  repeat' first | (with_reducible assumption) | (with_reducible apply kept_runCommand)

theorem kept_execTimeStep {s0 s : State} (h : Kept s0 s) : ∀ x0, ∃ t, execTimeStep x0 s = .next t ∧ Kept s0 t := by
  intro x0
  refine ⟨_, rfl, ?_⟩
  repeat' first | (with_reducible assumption) | (with_reducible apply kept_runCommand)

theorem kept_execTimeStepCancel {s0 s : State} (h : Kept s0 s) : ∀ x0, ∃ t, execTimeStepCancel x0 s = .next t ∧ Kept s0 t := by
  intro x0
  refine ⟨_, rfl, ?_⟩
  repeat' first | (with_reducible assumption) | (with_reducible apply kept_runCommand)

theorem kept_execTddTableSet {s0 s : State} (h : Kept s0 s) : ∀ x0, ∃ t, execTddTableSet x0 s = .next t ∧ Kept s0 t := by
  intro x0
  refine ⟨_, rfl, ?_⟩
  repeat' first | (with_reducible assumption) | (with_reducible apply kept_runCommand)

theorem kept_execPwrStatus {s0 s : State} (h : Kept s0 s) : ∀ x0, ∃ t, execPwrStatus x0 s = .next t ∧ Kept s0 t := by
  intro x0
  refine ⟨_, rfl, ?_⟩
  repeat' first | (with_reducible assumption) | (with_reducible apply kept_runCommand)

theorem kept_execPwrDomainSet {s0 s : State} (h : Kept s0 s) : ∀ x0, ∃ t, execPwrDomainSet x0 s = .next t ∧ Kept s0 t := by
  intro x0
  refine ⟨_, rfl, ?_⟩
  repeat' first | (with_reducible assumption) | (with_reducible apply kept_runCommand)

theorem kept_execPwrLimitSet {s0 s : State} (h : Kept s0 s) : ∀ x0, ∃ t, execPwrLimitSet x0 s = .next t ∧ Kept s0 t := by
  intro x0
  refine ⟨_, rfl, ?_⟩
  repeat' first | (with_reducible assumption) | (with_reducible apply kept_runCommand)

theorem kept_execPwrIdleConfig {s0 s : State} (h : Kept s0 s) : ∀ x0, ∃ t, execPwrIdleConfig x0 s = .next t ∧ Kept s0 t := by
  intro x0
  refine ⟨_, rfl, ?_⟩
  repeat' first | (with_reducible assumption) | (with_reducible apply kept_runCommand)

theorem kept_execPwrFitCap {s0 s : State} (h : Kept s0 s) : ∀ x0, ∃ t, execPwrFitCap x0 s = .next t ∧ Kept s0 t := by
  intro x0
  refine ⟨_, rfl, ?_⟩
  repeat' first | (with_reducible assumption) | (with_reducible apply kept_runCommand)

theorem kept_execThermStatus {s0 s : State} (h : Kept s0 s) : ∀ x0, ∃ t, execThermStatus x0 s = .next t ∧ Kept s0 t := by
  intro x0
  refine ⟨_, rfl, ?_⟩
  repeat' first | (with_reducible assumption) | (with_reducible apply kept_runCommand)

theorem kept_execThermConfig {s0 s : State} (h : Kept s0 s) : ∀ x0, ∃ t, execThermConfig x0 s = .next t ∧ Kept s0 t := by
  intro x0
  refine ⟨_, rfl, ?_⟩
  repeat' first | (with_reducible assumption) | (with_reducible apply kept_runCommand)

theorem kept_execThermRestart {s0 s : State} (h : Kept s0 s) : ∀ x0, ∃ t, execThermRestart x0 s = .next t ∧ Kept s0 t := by
  intro x0
  refine ⟨_, rfl, ?_⟩
  repeat' first | (with_reducible assumption) | (with_reducible apply kept_runCommand)

theorem kept_execJournalRead {s0 s : State} (h : Kept s0 s) : ∀ x0, ∃ t, execJournalRead x0 s = .next t ∧ Kept s0 t := by
  intro x0
  refine ⟨_, rfl, ?_⟩
  repeat' first | (with_reducible assumption) | (with_reducible apply kept_runCommand)

theorem kept_execLedgerRead {s0 s : State} (h : Kept s0 s) : ∀ x0, ∃ t, execLedgerRead x0 s = .next t ∧ Kept s0 t := by
  intro x0
  refine ⟨_, rfl, ?_⟩
  repeat' first | (with_reducible assumption) | (with_reducible apply kept_runCommand)

theorem kept_execJournalCompact {s0 s : State} (h : Kept s0 s) : ∀ x0, ∃ t, execJournalCompact x0 s = .next t ∧ Kept s0 t := by
  intro x0
  refine ⟨_, rfl, ?_⟩
  repeat' first | (with_reducible assumption) | (with_reducible apply kept_runCommand)

theorem kept_execBootProfileBegin {s0 s : State} (h : Kept s0 s) : ∀ x0, ∃ t, execBootProfileBegin x0 s = .next t ∧ Kept s0 t := by
  intro x0
  refine ⟨_, rfl, ?_⟩
  repeat' first | (with_reducible assumption) | (with_reducible apply kept_runCommand)

theorem kept_execBootProfileData {s0 s : State} (h : Kept s0 s) : ∀ x0, ∃ t, execBootProfileData x0 s = .next t ∧ Kept s0 t := by
  intro x0
  refine ⟨_, rfl, ?_⟩
  repeat' first | (with_reducible assumption) | (with_reducible apply kept_runCommand)

theorem kept_execBootProfileCommit {s0 s : State} (h : Kept s0 s) : ∀ x0, ∃ t, execBootProfileCommit x0 s = .next t ∧ Kept s0 t := by
  intro x0
  refine ⟨_, rfl, ?_⟩
  repeat' first | (with_reducible assumption) | (with_reducible apply kept_runCommand)

theorem kept_execBootProfileClear {s0 s : State} (h : Kept s0 s) : ∀ x0, ∃ t, execBootProfileClear x0 s = .next t ∧ Kept s0 t := by
  intro x0
  refine ⟨_, rfl, ?_⟩
  repeat' first | (with_reducible assumption) | (with_reducible apply kept_runCommand)

theorem kept_execBootProfileRead {s0 s : State} (h : Kept s0 s) : ∀ x0, ∃ t, execBootProfileRead x0 s = .next t ∧ Kept s0 t := by
  intro x0
  refine ⟨_, rfl, ?_⟩
  repeat' first | (with_reducible assumption) | (with_reducible apply kept_runCommand)

theorem kept_execCmaStatus {s0 s : State} (h : Kept s0 s) : ∀ x0, ∃ t, execCmaStatus x0 s = .next t ∧ Kept s0 t := by
  intro x0
  refine ⟨_, rfl, ?_⟩
  repeat' first | (with_reducible assumption) | (with_reducible apply kept_runCommand)

theorem kept_execCmaCalibrate {s0 s : State} (h : Kept s0 s) : ∀ x0, ∃ t, execCmaCalibrate x0 s = .next t ∧ Kept s0 t := by
  intro x0
  refine ⟨_, rfl, ?_⟩
  repeat' first | (with_reducible assumption) | (with_reducible apply kept_runCommand)

theorem kept_execCmaConfig {s0 s : State} (h : Kept s0 s) : ∀ x0, ∃ t, execCmaConfig x0 s = .next t ∧ Kept s0 t := by
  intro x0
  refine ⟨_, rfl, ?_⟩
  repeat' first | (with_reducible assumption) | (with_reducible apply kept_runCommand)

theorem kept_execCmaPreload {s0 s : State} (h : Kept s0 s) : ∀ x0, ∃ t, execCmaPreload x0 s = .next t ∧ Kept s0 t := by
  intro x0
  refine ⟨_, rfl, ?_⟩
  repeat' first | (with_reducible assumption) | (with_reducible apply kept_runCommand)

theorem kept_execCmaService {s0 s : State} (h : Kept s0 s) : ∀ x0, ∃ t, execCmaService x0 s = .next t ∧ Kept s0 t := by
  intro x0
  refine ⟨_, rfl, ?_⟩
  repeat' first | (with_reducible assumption) | (with_reducible apply kept_runCommand)

theorem kept_execDetStatus {s0 s : State} (h : Kept s0 s) : ∀ x0, ∃ t, execDetStatus x0 s = .next t ∧ Kept s0 t := by
  intro x0
  refine ⟨_, rfl, ?_⟩
  repeat' first | (with_reducible assumption) | (with_reducible apply kept_runCommand)

theorem kept_execDetInject {s0 s : State} (h : Kept s0 s) : ∀ x0, ∃ t, execDetInject x0 s = .next t ∧ Kept s0 t := by
  intro x0
  refine ⟨_, rfl, ?_⟩
  repeat' first | (with_reducible assumption) | (with_reducible apply kept_runCommand)

theorem kept_execDetLogRead {s0 s : State} (h : Kept s0 s) : ∀ x0, ∃ t, execDetLogRead x0 s = .next t ∧ Kept s0 t := by
  intro x0
  refine ⟨_, rfl, ?_⟩
  repeat' first | (with_reducible assumption) | (with_reducible apply kept_runCommand)

theorem kept_execFwStatus {s0 s : State} (h : Kept s0 s) : ∀ x0, ∃ t, execFwStatus x0 s = .next t ∧ Kept s0 t := by
  intro x0
  refine ⟨_, rfl, ?_⟩
  repeat' first | (with_reducible assumption) | (with_reducible apply kept_runCommand)

theorem kept_execFwUpdateBegin {s0 s : State} (h : Kept s0 s) : ∀ x0, ∃ t, execFwUpdateBegin x0 s = .next t ∧ Kept s0 t := by
  intro x0
  refine ⟨_, rfl, ?_⟩
  repeat' first | (with_reducible assumption) | (with_reducible apply kept_runCommand)

theorem kept_execFwUpdateData {s0 s : State} (h : Kept s0 s) : ∀ x0, ∃ t, execFwUpdateData x0 s = .next t ∧ Kept s0 t := by
  intro x0
  refine ⟨_, rfl, ?_⟩
  repeat' first | (with_reducible assumption) | (with_reducible apply kept_runCommand)

theorem kept_execFwActivateActivate {s0 s : State} (h : Kept s0 s) : ∀ x0 x1, ∃ t, execFwActivateActivate x0 x1 s = .next t ∧ Kept s0 t := by
  intro x0 x1
  refine ⟨_, rfl, ?_⟩
  extract_lets -merge -useContext -underBinder __src_1
  repeat' first | (with_reducible assumption) | (with_reducible apply kept_runCommand) | exact kept_boot (by assumption) _ ⟨Nat.le_refl _, fun _ h => h⟩ | simp only [kept_mk_iff]

theorem kept_execFwActivateConfirm {s0 s : State} (h : Kept s0 s) : ∀ x0 x1, ∃ t, execFwActivateConfirm x0 x1 s = .next t ∧ Kept s0 t := by
  intro x0 x1
  refine ⟨_, rfl, ?_⟩
  repeat' first | (with_reducible assumption) | (with_reducible apply kept_runCommand)

theorem kept_execIdCertRead {s0 s : State} (h : Kept s0 s) : ∀ x0, ∃ t, execIdCertRead x0 s = .next t ∧ Kept s0 t := by
  intro x0
  refine ⟨_, rfl, ?_⟩
  repeat' first | (with_reducible assumption) | (with_reducible apply kept_runCommand)

theorem kept_execAttestQuote {s0 s : State} (h : Kept s0 s) : ∀ x0, ∃ t, execAttestQuote x0 s = .next t ∧ Kept s0 t := by
  intro x0
  refine ⟨_, rfl, ?_⟩
  repeat' first | (with_reducible assumption) | (with_reducible apply kept_runCommand)

theorem kept_execAttestLog {s0 s : State} (h : Kept s0 s) : ∀ x0 x1, ∃ t, execAttestLog x0 x1 s = .next t ∧ Kept s0 t := by
  intro x0 x1
  refine ⟨_, rfl, ?_⟩
  repeat' first | (with_reducible assumption) | (with_reducible apply kept_runCommand)

theorem kept_execOwnerKeyInstall {s0 s : State} (h : Kept s0 s) : ∀ x0, ∃ t, execOwnerKeyInstall x0 s = .next t ∧ Kept s0 t := by
  intro x0
  refine ⟨_, rfl, ?_⟩
  repeat' first | (with_reducible assumption) | (with_reducible apply kept_runCommand)

theorem kept_execDebugUnlockChallenge {s0 s : State} (h : Kept s0 s) : ∀ x0, ∃ t, execDebugUnlockChallenge x0 s = .next t ∧ Kept s0 t := by
  intro x0
  refine ⟨_, rfl, ?_⟩
  repeat' first | (with_reducible assumption) | (with_reducible apply kept_runCommand)

theorem kept_execDebugUnlockOpen {s0 s : State} (h : Kept s0 s) : ∀ x0, ∃ t, execDebugUnlockOpen x0 s = .next t ∧ Kept s0 t := by
  intro x0
  refine ⟨_, rfl, ?_⟩
  repeat' first | (with_reducible assumption) | (with_reducible apply kept_runCommand)

theorem kept_execDebugUnlockClose {s0 s : State} (h : Kept s0 s) : ∀ x0, ∃ t, execDebugUnlockClose x0 s = .next t ∧ Kept s0 t := by
  intro x0
  refine ⟨_, rfl, ?_⟩
  repeat' first | (with_reducible assumption) | (with_reducible apply kept_runCommand)

theorem kept_execDiagSessionChallenge {s0 s : State} (h : Kept s0 s) : ∀ x0, ∃ t, execDiagSessionChallenge x0 s = .next t ∧ Kept s0 t := by
  intro x0
  refine ⟨_, rfl, ?_⟩
  repeat' first | (with_reducible assumption) | (with_reducible apply kept_runCommand)

theorem kept_execDiagSessionOpen {s0 s : State} (h : Kept s0 s) : ∀ x0, ∃ t, execDiagSessionOpen x0 s = .next t ∧ Kept s0 t := by
  intro x0
  refine ⟨_, rfl, ?_⟩
  repeat' first | (with_reducible assumption) | (with_reducible apply kept_runCommand)

theorem kept_execDiagSessionClose {s0 s : State} (h : Kept s0 s) : ∀ x0, ∃ t, execDiagSessionClose x0 s = .next t ∧ Kept s0 t := by
  intro x0
  refine ⟨_, rfl, ?_⟩
  repeat' first | (with_reducible assumption) | (with_reducible apply kept_runCommand)

theorem kept_execEventSinkSet {s0 s : State} (h : Kept s0 s) : ∀ x0, ∃ t, execEventSinkSet x0 s = .next t ∧ Kept s0 t := by
  intro x0
  refine ⟨_, rfl, ?_⟩
  repeat' first | (with_reducible assumption) | (with_reducible apply kept_runCommand)

theorem kept_execEventEnable {s0 s : State} (h : Kept s0 s) : ∀ x0, ∃ t, execEventEnable x0 s = .next t ∧ Kept s0 t := by
  intro x0
  refine ⟨_, rfl, ?_⟩
  repeat' first | (with_reducible assumption) | (with_reducible apply kept_runCommand)

theorem kept_execEventStatus {s0 s : State} (h : Kept s0 s) : ∀ x0, ∃ t, execEventStatus x0 s = .next t ∧ Kept s0 t := by
  intro x0
  refine ⟨_, rfl, ?_⟩
  repeat' first | (with_reducible assumption) | (with_reducible apply kept_runCommand)

theorem kept_execPatternImageReadDone {s0 s : State} (h : Kept s0 s) : ∀ x0 x1, ∃ t, execPatternImageReadDone x0 x1 s = .next t ∧ Kept s0 t := by
  intro x0 x1
  unfold execPatternImageReadDone
  refine ⟨_, rfl, ?_⟩
  repeat' first | (with_reducible assumption) | (with_reducible apply kept_settled) | (with_reducible apply kept_settle) | (with_reducible apply kept_patternRead)

end Sys2Proof.Machine
end

