-- ==== Sys2Proof/Laws/KeptFft.lean ====
section
/-! SUPPORT. What each operation of Machine/Fft.lean keeps. -/

set_option linter.unreachableTactic false
set_option linter.unusedTactic false
set_option linter.unusedSimpArgs false
set_option linter.unusedVariables false

namespace Sys2Proof.Machine

theorem kept_putEng {s0 s : State} (h : Kept s0 s) : ∀ x0 x1, Kept s0 (putEng s x0 x1) := by
  intro x0 x1
  unfold putEng
  repeat' first | (with_reducible assumption) | simp only [kept_mk_iff]

theorem kept_fftCheck {s0 s : State} (h : Kept s0 s) : ∀ x0 x1, KeptP s0 (fftCheck s x0 x1) := by
  intro x0 x1
  unfold fftCheck
  split
  · rename_i a0_1 a1_1 a2_1 a3_1 e_1
    have h_a0_1 : Kept s0 a0_1 := by
      apply KeptP.eq (e := e_1)
      repeat' first | (with_reducible assumption) | (with_reducible apply kept_net32s)
    clear e_1
    apply keptP_ite
    · apply keptP_mk
      assumption
    · apply keptP_ite
      · apply keptP_mk
        assumption
      · apply keptP_ite
        · apply keptP_mk
          assumption
        · apply keptP_ite
          · apply keptP_mk
            assumption
          · apply keptP_mk
            assumption

theorem kept_fftStart {s0 s : State} (h : Kept s0 s) : ∀ x0 x1, Kept s0 (fftStart s x0 x1) := by
  intro b i
  unfold fftStart
  extract_lets k
  apply kept_ite h
  split
  · exact h
  · rename_i s1 t x e
    have h1 : Kept s0 s1 := keptO_beginTask h e
    split
    rename_i s2 st d e2
    have h2 : Kept s0 s2 := KeptP.eq (kept_fftCheck h1 ..) e2
    extract_lets s3
    have h3 : Kept s0 s3 := kept_wrF (kept_wrF h2 ..) ..
    exact kept_ite (kept_wrB (kept_putEng h3 ..) ..) (kept_complete (kept_wrF h3 ..) ..)

theorem kept_fftSymbol {s0 : State} {r : FftRun} (h : KeptF s0 r) (b : Nat) (d : List W32) (err : Option Status) (k : Nat) : KeptF s0 (fftSymbol b d err r k) := by
  have h' : Kept s0 r.st := h
  unfold fftSymbol
  apply keptF_ite
  · exact h
  · split
    · show Kept s0 (if _ then _ else _)
      exact kept_ite (kept_netGiveUp h' ..) h'
    · split
      split
      rename_i s1 st bs p e
      have h1 : Kept s0 s1 := KeptP.eq (kept_netBytes h' ..) e
      clear e
      apply keptF_ite
      · exact h1
      · split
        extract_lets -merge -useContext -underBinder vs
        split
        split
        extract_lets -merge -useContext -underBinder o s2
        have h2 : Kept s0 s2 := kept_mk h1 ..
        clear_value s2
        split
        rename_i e
        have h3 := KeptP.eq (keptP_ite (kept_netWrite h2 ..) (kept_netStore h2 ..)) e
        exact keptF_ite h3 h3

theorem kept_fftComplete {s0 s : State} (h : Kept s0 s) : ∀ x0 x1 x2 x3, Kept s0 (fftComplete s x0 x1 x2 x3) := by
  intro x0 x1 x2 x3
  unfold fftComplete
  split
  · exact h
  · extract_lets d r
    apply kept_ite h
    have hr : KeptF s0 r := keptF_foldl _ (fun _ _ hp => kept_fftSymbol hp ..) _ (keptF_mk h)
    clear_value r
    split
    rename_i s1 xst e
    have h1 : Kept s0 s1 := KeptP.eq (keptP_ite (keptP_mk hr.one) (kept_netStore hr.one ..)) e
    extract_lets st
    split
    rename_i s2 _ e'
    have h2 : Kept s0 s2 := KeptP.eq (kept_netStore h1 ..) e'
    exact kept_complete (kept_putEng (kept_wrF (kept_wrB (kept_bump (kept_bump h2 ..) ..) ..) ..) ..) ..

theorem kept_execFftOfdmRx {s0 s : State} (h : Kept s0 s) : ∀ x0 x1 x2, ∃ t, execFftOfdmRx x0 x1 x2 s = .next t ∧ Kept s0 t := by
  intro x0 x1 x2
  unfold execFftOfdmRx
  refine ⟨_, rfl, ?_⟩
  repeat' first | (with_reducible assumption) | (with_reducible apply kept_settled) | (with_reducible apply kept_fftComplete)

theorem kept_execFftOfdmTx {s0 s : State} (h : Kept s0 s) : ∀ x0 x1 x2, ∃ t, execFftOfdmTx x0 x1 x2 s = .next t ∧ Kept s0 t := by
  intro x0 x1 x2
  unfold execFftOfdmTx
  refine ⟨_, rfl, ?_⟩
  repeat' first | (with_reducible assumption) | (with_reducible apply kept_settled) | (with_reducible apply kept_fftComplete)

theorem kept_execFftDft {s0 s : State} (h : Kept s0 s) : ∀ x0 x1 x2, ∃ t, execFftDft x0 x1 x2 s = .next t ∧ Kept s0 t := by
  intro x0 x1 x2
  unfold execFftDft
  refine ⟨_, rfl, ?_⟩
  repeat' first | (with_reducible assumption) | (with_reducible apply kept_settled) | (with_reducible apply kept_fftComplete)

theorem kept_execFftIdft {s0 s : State} (h : Kept s0 s) : ∀ x0 x1 x2, ∃ t, execFftIdft x0 x1 x2 s = .next t ∧ Kept s0 t := by
  intro x0 x1 x2
  unfold execFftIdft
  refine ⟨_, rfl, ?_⟩
  repeat' first | (with_reducible assumption) | (with_reducible apply kept_settled) | (with_reducible apply kept_fftComplete)

theorem kept_execFftPrach {s0 s : State} (h : Kept s0 s) : ∀ x0 x1 x2, ∃ t, execFftPrach x0 x1 x2 s = .next t ∧ Kept s0 t := by
  intro x0 x1 x2
  unfold execFftPrach
  refine ⟨_, rfl, ?_⟩
  repeat' first | (with_reducible assumption) | (with_reducible apply kept_settled) | (with_reducible apply kept_fftComplete)

theorem kept_execFftRaw {s0 s : State} (h : Kept s0 s) : ∀ x0 x1 x2, ∃ t, execFftRaw x0 x1 x2 s = .next t ∧ Kept s0 t := by
  intro x0 x1 x2
  unfold execFftRaw
  refine ⟨_, rfl, ?_⟩
  repeat' first | (with_reducible assumption) | (with_reducible apply kept_settled) | (with_reducible apply kept_fftComplete)

theorem kept_execIfftRaw {s0 s : State} (h : Kept s0 s) : ∀ x0 x1 x2, ∃ t, execIfftRaw x0 x1 x2 s = .next t ∧ Kept s0 t := by
  intro x0 x1 x2
  unfold execIfftRaw
  refine ⟨_, rfl, ?_⟩
  repeat' first | (with_reducible assumption) | (with_reducible apply kept_settled) | (with_reducible apply kept_fftComplete)

theorem kept_execFftConvert {s0 s : State} (h : Kept s0 s) : ∀ x0 x1 x2, ∃ t, execFftConvert x0 x1 x2 s = .next t ∧ Kept s0 t := by
  intro x0 x1 x2
  unfold execFftConvert
  refine ⟨_, rfl, ?_⟩
  repeat' first | (with_reducible assumption) | (with_reducible apply kept_settled) | (with_reducible apply kept_fftComplete)

end Sys2Proof.Machine
end

