-- ==== Sys2Proof/Laws/KeptCoding.lean ====
section
/-! SUPPORT. What each operation of Machine/Coding.lean keeps. -/

set_option linter.unreachableTactic false
set_option linter.unusedTactic false
set_option linter.unusedSimpArgs false
set_option linter.unusedVariables false

namespace Sys2Proof.Machine

theorem kept_readLlrs {s0 s : State} (h : Kept s0 s) : ∀ x0 x1 x2, KeptP s0 (readLlrs s x0 x1 x2) := by
  intro x0 x1 x2
  unfold readLlrs
  split
  · rename_i a0_1 a1_1 a2_1 e_1
    have h_a0_1 : Kept s0 a0_1 := by
      apply KeptP.eq (e := e_1)
      repeat' first | (with_reducible assumption) | (with_reducible apply kept_netRead)
    clear e_1
    extract_lets -merge -useContext -underBinder l_2
    try clear_value l_2
    apply keptP_mk
    assumption

theorem kept_readBits {s0 s : State} (h : Kept s0 s) : ∀ x0 x1 x2, KeptP s0 (readBits s x0 x1 x2) := by
  intro x0 x1 x2
  unfold readBits
  split
  rename_i a_1 a_2 a_3 a_4 a_5 e_6
  have h_a_2 : Kept s0 a_2 := by
    apply KeptP.eq (e := e_6)
    repeat' first | (with_reducible assumption) | (with_reducible apply kept_netBytes)
  clear e_6
  repeat' first | (with_reducible assumption) | (with_reducible apply keptP_mk) | (with_reducible apply keptQ_mk)

theorem kept_putLines {s0 s : State} (h : Kept s0 s) : ∀ x0 x1 x2, KeptP s0 (putLines s x0 x1 x2) := by
  intro x0 x1 x2
  unfold putLines
  repeat' first | (with_reducible assumption) | (with_reducible apply kept_netStore)

theorem kept_poisonLines {s0 s : State} (h : Kept s0 s) : ∀ x0 x1 x2, KeptP s0 (poisonLines s x0 x1 x2) := by
  intro x0 x1 x2
  unfold poisonLines
  repeat' first | (with_reducible assumption) | (with_reducible apply kept_netWrite)

theorem kept_endPool {s0 s : State} (h : Kept s0 s) : ∀ x0 x1 x2 x3 x4, Kept s0 (endPool s x0 x1 x2 x3 x4) := by
  intro x0 x1 x2 x3 x4
  unfold endPool
  extract_lets -merge -useContext -underBinder r_1
  try clear_value r_1
  split
  rename_i a_2 a_3 a_4 e_5
  have h_a_3 : Kept s0 a_3 := by
    apply KeptP.eq (e := e_5)
    repeat' first | (with_reducible assumption) | (with_reducible apply kept_netStore)
  clear e_5
  repeat' first | (with_reducible assumption) | (with_reducible apply kept_complete) | (with_reducible apply kept_putEng) | (with_reducible apply KeptQ.one) | simp only [kept_mk_iff]

theorem kept_poolStaged {s0 s : State} (h : Kept s0 s) : ∀ x0 x1 x2, KeptP s0 (poolStaged s x0 x1 x2) := by
  intro x0 x1 x2
  unfold poolStaged
  split
  · rename_i a0_1 a1_1 a2_1 a3_1 e_1
    have h_a0_1 : Kept s0 a0_1 := by
      apply KeptP.eq (e := e_1)
      repeat' first | (with_reducible assumption) | (with_reducible apply kept_net32s)
    clear e_1
    apply keptP_ite
    · apply keptP_mk
      assumption
    · apply keptP_ite
      · apply keptP_mk
        assumption
      · apply keptP_ite
        · apply keptP_mk
          assumption
        · apply keptP_ite
          · apply keptP_mk
            assumption
          · apply keptP_ite
            · apply keptP_mk
              assumption
            · apply keptP_mk
              assumption

theorem kept_poolStart {s0 s : State} (h : Kept s0 s) : ∀ x0 x1, Kept s0 (poolStart s x0 x1) := by
  intro hb i
  unfold poolStart
  extract_lets k u
  apply kept_ite h
  split
  · exact h
  · rename_i s1 t x e
    have h1 : Kept s0 s1 := keptO_beginTask h e
    split
    rename_i s2 st d e2
    have h2 : Kept s0 s2 := KeptP.eq (kept_poolStaged h1 ..) e2
    extract_lets buf s3
    have h3 : Kept s0 s3 := kept_putEng h2 ..
    exact kept_ite (kept_complete h2 ..) (kept_ite h (kept_ite (kept_mk h3 ..) h3))

theorem kept_execHcLockAcquire {s0 s : State} (h : Kept s0 s) : ∀ x0 x1, ∃ t, execHcLockAcquire x0 x1 s = .next t ∧ Kept s0 t := by
  intro x0 x1
  unfold execHcLockAcquire
  refine ⟨_, rfl, ?_⟩
  repeat' first | (with_reducible assumption) | (with_reducible apply kept_settled) | (with_reducible apply kept_poolStart)

theorem kept_poolGiveUp {s0 s : State} (h : Kept s0 s) : ∀ x0 x1 x2, Kept s0 (poolGiveUp s x0 x1 x2) := by
  intro x0 x1 x2
  unfold poolGiveUp
  extract_lets -merge -useContext -underBinder s1_1
  have h_s1_1 : Kept s0 s1_1 := by
    unfold s1_1
    repeat' first | (with_reducible assumption) | (with_reducible apply kept_noteTimeout)
  try clear_value s1_1
  repeat' first | (with_reducible assumption) | (with_reducible apply kept_engForget) | (with_reducible apply KeptP.one)

theorem kept_poolErr {s0 s : State} (h : Kept s0 s) : ∀ x0 x1 x2, Kept s0 (poolErr s x0 x1 x2) := by
  intro x0 x1 x2
  unfold poolErr
  split
  · rename_i a_1 e_2
    repeat' first | (with_reducible assumption)
  · rename_i a_3 a_4 e_5
    apply kept_ite
    · apply kept_endPool
      apply kept_ite
      · repeat' first | (with_reducible assumption) | (with_reducible apply kept_poolGiveUp)
      · repeat' first | (with_reducible assumption)
    · repeat' first | (with_reducible assumption)

theorem kept_endPoisoned {s0 : State} {r : State × Status} (hr : KeptP s0 r) (a b : Nat) (j : EngJob) : Kept s0 (endPoisoned a b j r) := by
  unfold endPoisoned
  exact kept_endPool hr.one ..

theorem kept_ldecEnd {s0 s : State} (h : Kept s0 s) : ∀ x0 x1, Kept s0 (ldecEnd s x0 x1) := by
  intro x0 x1
  unfold ldecEnd
  split
  · rename_i a_1 e_2
    repeat' first | (with_reducible assumption)
  · rename_i a_3 a_4 e_5
    extract_lets -merge -useContext -underBinder d_6 bg2_7 zc_8 kp_9 nllr_10
    try clear_value d_6
    try clear_value bg2_7
    try clear_value zc_8
    try clear_value kp_9
    try clear_value nllr_10
    split
    rename_i a_11 a_12 a_13 a_14 a_15 e_16
    have h_a_12 : Kept s0 a_12 := by
      apply KeptP.eq (e := e_16)
      repeat' first | (with_reducible assumption) | (with_reducible apply kept_readLlrs)
    clear e_16
    apply kept_ite
    · repeat' first | (with_reducible assumption) | (with_reducible apply kept_endPool)
    · extract_lets -merge -useContext -underBinder mr_17 k_18 n_19 crc_20 et_21 unsat_22 pass_23 stop_24 known_25
      try clear_value mr_17
      try clear_value k_18
      try clear_value n_19
      try clear_value crc_20
      try clear_value et_21
      try clear_value unsat_22
      try clear_value pass_23
      try clear_value stop_24
      try clear_value known_25
      split
      rename_i a_26 a_27 a_28 e_29
      split
      rename_i a_30 a_31 a_32 e_33
      have h_a_31 : Kept s0 a_31 := by
        apply KeptP.eq (e := e_33)
        repeat' first | (with_reducible assumption) | (with_reducible apply kept_putLines)
      clear e_33
      extract_lets -merge -useContext -underBinder rec__34
      try clear_value rec__34
      repeat' first | (with_reducible assumption) | (with_reducible apply kept_endPool)

theorem kept_lencEnd {s0 s : State} (h : Kept s0 s) : ∀ x0 x1, Kept s0 (lencEnd s x0 x1) := by
  intro x0 x1
  unfold lencEnd
  split
  · exact h
  · extract_lets d bg2 zc kp crc n
    split
    rename_i s1 st m p e
    have h1 : Kept s0 s1 := KeptP.eq (kept_readBits h ..) e
    apply kept_ite (kept_endPool h1 ..)
    apply kept_ite (kept_endPoisoned (kept_poisonLines h1 ..) ..)
    exact kept_endPool (KeptP.one (kept_putLines h1 ..)) ..

theorem kept_pdecEnd {s0 s : State} (h : Kept s0 s) : ∀ x0 x1, Kept s0 (pdecEnd s x0 x1) := by
  intro x0 x1
  unfold pdecEnd
  split
  · rename_i a_1 e_2
    repeat' first | (with_reducible assumption)
  · rename_i a_3 a_4 e_5
    extract_lets -merge -useContext -underBinder d_6 p_7
    try clear_value d_6
    try clear_value p_7
    split
    rename_i a_8 a_9 a_10 a_11 a_12 e_13
    have h_a_9 : Kept s0 a_9 := by
      apply KeptP.eq (e := e_13)
      repeat' first | (with_reducible assumption) | (with_reducible apply kept_readLlrs)
    clear e_13
    apply kept_ite
    · repeat' first | (with_reducible assumption) | (with_reducible apply kept_endPool)
    · split
      rename_i a_14 a_15 a_16 a_17 a_18 e_19
      split
      rename_i a_20 a_21 a_22 e_23
      have h_a_21 : Kept s0 a_21 := by
        apply KeptP.eq (e := e_23)
        repeat' first | (with_reducible assumption) | (with_reducible apply kept_putLines)
      clear e_23
      extract_lets -merge -useContext -underBinder rec__24
      try clear_value rec__24
      repeat' first | (with_reducible assumption) | (with_reducible apply kept_endPool)

theorem kept_pencEnd {s0 s : State} (h : Kept s0 s) : ∀ x0 x1, Kept s0 (pencEnd s x0 x1) := by
  intro x0 x1
  unfold pencEnd
  split
  · exact h
  · extract_lets d e
    split
    rename_i s1 st m p e
    have h1 : Kept s0 s1 := KeptP.eq (kept_readBits h ..) e
    apply kept_ite (kept_endPool h1 ..)
    apply kept_ite (kept_endPoisoned (kept_poisonLines h1 ..) ..)
    exact kept_endPool (KeptP.one (kept_putLines h1 ..)) ..

theorem kept_tdecEnd {s0 s : State} (h : Kept s0 s) : ∀ x0 x1, Kept s0 (tdecEnd s x0 x1) := by
  intro x0 x1
  unfold tdecEnd
  split
  · rename_i a_1 e_2
    repeat' first | (with_reducible assumption)
  · rename_i a_3 a_4 e_5
    extract_lets -merge -useContext -underBinder d_6 k_7 f_8 rd3_9
    try clear_value d_6
    try clear_value k_7
    try clear_value f_8
    have h_rd3_9 : ∀ y0 y1, Kept s0 y0 → KeptP s0 (rd3_9 y0 y1) := by
      intro y0 y1 hy0
      unfold rd3_9
      repeat' first | (with_reducible assumption) | (with_reducible apply kept_readLlrs)
    try clear_value rd3_9
    split
    rename_i a_10 a_11 a_12 a_13 a_14 e_15
    have h_a_11 : Kept s0 a_11 := by
      apply KeptP.eq (e := e_15)
      repeat' first | (with_reducible assumption) | (with_reducible apply h_rd3_9)
    clear e_15
    split
    rename_i a_16 a_17 a_18 a_19 a_20 e_21
    have h_a_17 : Kept s0 a_17 := by
      apply KeptP.eq (e := e_21)
      repeat' first | (with_reducible assumption) | (with_reducible apply h_rd3_9)
    clear e_21
    split
    rename_i a_22 a_23 a_24 a_25 a_26 e_27
    have h_a_23 : Kept s0 a_23 := by
      apply KeptP.eq (e := e_27)
      repeat' first | (with_reducible assumption) | (with_reducible apply h_rd3_9)
    clear e_27
    extract_lets -merge -useContext -underBinder st_29 crc_30 pass_31
    try clear_value st_29
    try clear_value crc_30
    try clear_value pass_31
    apply kept_ite
    · repeat' first | (with_reducible assumption) | (with_reducible apply h_rd3_9) | (with_reducible apply kept_endPool)
    · split
      rename_i a_32 a_33 a_34 e_35
      extract_lets -merge -useContext -underBinder er_36
      try clear_value er_36
      split
      rename_i a_37 a_38 a_39 e_40
      have h_a_38 : Kept s0 a_38 := by
        apply KeptP.eq (e := e_40)
        repeat' first | (with_reducible assumption) | (with_reducible apply h_rd3_9) | (with_reducible apply kept_putLines)
      clear e_40
      extract_lets -merge -useContext -underBinder rec__41
      try clear_value rec__41
      repeat' first | (with_reducible assumption) | (with_reducible apply h_rd3_9) | (with_reducible apply kept_endPool)

theorem kept_tencEnd {s0 s : State} (h : Kept s0 s) : ∀ x0 x1, Kept s0 (tencEnd s x0 x1) := by
  intro x0 x1
  unfold tencEnd
  split
  · exact h
  · extract_lets -merge -useContext -underBinder d k f st0
    clear_value d k f st0
    split
    rename_i s1 st m p e
    have h1 : Kept s0 s1 := KeptP.eq (kept_readBits h ..) e
    apply kept_ite (kept_endPool h1 ..)
    apply kept_ite (kept_endPoisoned (kept_poisonLines h1 ..) ..)
    exact kept_endPool (KeptP.one (kept_putLines h1 ..)) ..

theorem kept_dematchEnd {s0 s : State} (h : Kept s0 s) : ∀ x0 x1, Kept s0 (dematchEnd s x0 x1) := by
  intro x0 x1
  unfold dematchEnd
  split
  · rename_i a_1 e_2
    repeat' first | (with_reducible assumption)
  · rename_i a_3 a_4 e_5
    extract_lets -merge -useContext -underBinder d_6
    try clear_value d_6
    apply kept_ite
    · repeat' first | (with_reducible assumption)
    · split
      rename_i a_7 a_8 a_9 a_10 a_11 e_12
      have h_a_8 : Kept s0 a_8 := by
        apply KeptP.eq (e := e_12)
        repeat' first | (with_reducible assumption) | (with_reducible apply kept_readLlrs)
      clear e_12
      apply kept_ite
      · repeat' first | (with_reducible assumption) | (with_reducible apply kept_endPool)
      · split
        rename_i a_13 a_14 a_15 e_16
        split
        rename_i a_17 a_18 a_19 e_20
        have h_a_18 : Kept s0 a_18 := by
          apply KeptP.eq (e := e_20)
          repeat' first | (with_reducible assumption) | (with_reducible apply kept_putLines)
        clear e_20
        repeat' first | (with_reducible assumption) | (with_reducible apply kept_endPool)

theorem kept_matchEnd {s0 s : State} (h : Kept s0 s) : ∀ x0 x1, Kept s0 (matchEnd s x0 x1) := by
  intro x0 x1
  unfold matchEnd
  split
  · exact h
  · extract_lets d
    apply kept_ite h
    extract_lets n
    split
    rename_i s1 st m p e
    have h1 : Kept s0 s1 := KeptP.eq (kept_readBits h ..) e
    apply kept_ite (kept_endPool h1 ..)
    apply kept_ite (kept_endPoisoned (kept_poisonLines h1 ..) ..)
    exact kept_endPool (KeptP.one (kept_putLines h1 ..)) ..

theorem kept_softWrite {s0 s : State} (h : Kept s0 s) : ∀ x0 x1 x2 x3 x4 x5 x6 x7, Kept s0 (softWrite s x0 x1 x2 x3 x4 x5 x6 x7) := by
  intro x0 x1 x2 x3 x4 x5 x6 x7
  unfold softWrite
  extract_lets -merge -useContext -underBinder d_1 ncb_2
  try clear_value d_1
  try clear_value ncb_2
  split
  rename_i a_3 a_4 a_5 e_6
  have h_a_4 : Kept s0 a_4 := by
    apply KeptP.eq (e := e_6)
    repeat' first | (with_reducible assumption) | (with_reducible apply kept_netStore)
  clear e_6
  split
  rename_i a_7 a_8 a_9 e_10
  have h_a_8 : Kept s0 a_8 := by
    apply KeptP.eq (e := e_10)
    apply keptP_ite
    · repeat' first | (with_reducible assumption) | (with_reducible apply keptP_mk) | (with_reducible apply keptQ_mk)
    · repeat' first | (with_reducible assumption) | (with_reducible apply kept_putLines)
  clear e_10
  extract_lets -merge -useContext -underBinder st_11
  try clear_value st_11
  repeat' first | (with_reducible assumption) | (with_reducible apply kept_endPool)

theorem kept_hcNew {s0 s : State} (h : Kept s0 s) : ∀ x0 x1, Kept s0 (hcNew s x0 x1) := by
  intro x0 x1
  unfold hcNew
  split
  · rename_i a_1 e_2
    repeat' first | (with_reducible assumption)
  · rename_i a_3 a_4 e_5
    extract_lets -merge -useContext -underBinder d_6
    try clear_value d_6
    apply kept_ite
    · repeat' first | (with_reducible assumption)
    · split
      rename_i a_7 a_8 a_9 a_10 a_11 e_12
      have h_a_8 : Kept s0 a_8 := by
        apply KeptP.eq (e := e_12)
        repeat' first | (with_reducible assumption) | (with_reducible apply kept_readLlrs)
      clear e_12
      apply kept_ite
      · repeat' first | (with_reducible assumption) | (with_reducible apply kept_endPool)
      · repeat' first | (with_reducible assumption) | (with_reducible apply kept_softWrite)

theorem kept_readSoft {s0 s : State} (h : Kept s0 s) : ∀ x0 x1, KeptP s0 (readSoft s x0 x1) := by
  intro x0 x1
  unfold readSoft
  split
  · rename_i a0_1 a1_1 a2_1 a3_1 e_1
    have h_a0_1 : Kept s0 a0_1 := by
      apply KeptP.eq (e := e_1)
      repeat' first | (with_reducible assumption) | (with_reducible apply kept_net32s)
    clear e_1
    extract_lets -merge -useContext -underBinder ncb_2
    try clear_value ncb_2
    apply keptP_ite
    · apply keptP_mk
      assumption
    · apply keptP_ite
      · apply keptP_mk
        assumption
      · split
        · rename_i a0_3 a1_3 a2_3 a3_3 e_3
          have h_a0_3 : Kept s0 a0_3 := by
            apply KeptP.eq (e := e_3)
            repeat' first | (with_reducible assumption) | (with_reducible apply kept_readLlrs)
          clear e_3
          apply keptP_mk
          assumption

theorem kept_hcCombine {s0 s : State} (h : Kept s0 s) : ∀ x0 x1, Kept s0 (hcCombine s x0 x1) := by
  intro x0 x1
  unfold hcCombine
  split
  · rename_i a_1 e_2
    repeat' first | (with_reducible assumption)
  · rename_i a_3 a_4 e_5
    extract_lets -merge -useContext -underBinder d_6
    try clear_value d_6
    apply kept_ite
    · repeat' first | (with_reducible assumption)
    · split
      rename_i a_7 a_8 a_9 a_10 a_11 a_12 a_13 e_14
      have h_a_8 : Kept s0 a_8 := by
        apply KeptP.eq (e := e_14)
        repeat' first | (with_reducible assumption) | (with_reducible apply kept_readSoft)
      clear e_14
      apply kept_ite
      · repeat' first | (with_reducible assumption) | (with_reducible apply kept_endPool)
      · split
        rename_i a_15 a_16 a_17 a_18 a_19 e_20
        have h_a_16 : Kept s0 a_16 := by
          apply KeptP.eq (e := e_20)
          repeat' first | (with_reducible assumption) | (with_reducible apply kept_readLlrs)
        clear e_20
        apply kept_ite
        · repeat' first | (with_reducible assumption) | (with_reducible apply kept_endPool)
        · repeat' first | (with_reducible assumption) | (with_reducible apply kept_softWrite) | (with_reducible apply KeptP.one) | (with_reducible apply KeptQ.one)

theorem kept_hcRead {s0 s : State} (h : Kept s0 s) : ∀ x0 x1, Kept s0 (hcRead s x0 x1) := by
  intro x0 x1
  unfold hcRead
  split
  · rename_i a_1 e_2
    repeat' first | (with_reducible assumption)
  · rename_i a_3 a_4 e_5
    extract_lets -merge -useContext -underBinder d_6
    try clear_value d_6
    apply kept_ite
    · repeat' first | (with_reducible assumption)
    · split
      rename_i a_7 a_8 a_9 a_10 a_11 a_12 a_13 e_14
      have h_a_8 : Kept s0 a_8 := by
        apply KeptP.eq (e := e_14)
        repeat' first | (with_reducible assumption) | (with_reducible apply kept_readSoft)
      clear e_14
      apply kept_ite
      · repeat' first | (with_reducible assumption) | (with_reducible apply kept_endPool)
      · split
        rename_i a_15 a_16 a_17 e_18
        have h_a_16 : Kept s0 a_16 := by
          apply KeptP.eq (e := e_18)
          repeat' first | (with_reducible assumption) | (with_reducible apply kept_putLines)
        clear e_18
        repeat' first | (with_reducible assumption) | (with_reducible apply kept_endPool)

theorem kept_poolEnd {s0 s : State} (f : State → Nat → Nat → State) (hf : ∀ {s : State}, Kept s0 s → ∀ a b, Kept s0 (f s a b)) (h : Kept s0 s) (a b : Nat)
    (err : Option Status) : Kept s0 (poolEnd f s a b err) := by
  unfold poolEnd
  split
  · exact kept_poolErr h ..
  · exact hf h ..

theorem kept_execLdecComplete {s0 s : State} (h : Kept s0 s) : ∀ x0 x1 x2, ∃ t, execLdecComplete x0 x1 x2 s = .next t ∧ Kept s0 t := by
  intro x0 x1 x2
  unfold execLdecComplete
  refine ⟨_, rfl, ?_⟩
  repeat' first | (with_reducible assumption) | (with_reducible apply kept_settled) | (with_reducible apply kept_poolEnd) | (with_reducible apply kept_ldecEnd)

theorem kept_execLencComplete {s0 s : State} (h : Kept s0 s) : ∀ x0 x1 x2, ∃ t, execLencComplete x0 x1 x2 s = .next t ∧ Kept s0 t := by
  intro x0 x1 x2
  unfold execLencComplete
  refine ⟨_, rfl, ?_⟩
  repeat' first | (with_reducible assumption) | (with_reducible apply kept_settled) | (with_reducible apply kept_poolEnd) | (with_reducible apply kept_lencEnd)

theorem kept_execPdecComplete {s0 s : State} (h : Kept s0 s) : ∀ x0 x1 x2, ∃ t, execPdecComplete x0 x1 x2 s = .next t ∧ Kept s0 t := by
  intro x0 x1 x2
  unfold execPdecComplete
  refine ⟨_, rfl, ?_⟩
  repeat' first | (with_reducible assumption) | (with_reducible apply kept_settled) | (with_reducible apply kept_poolEnd) | (with_reducible apply kept_pdecEnd)

theorem kept_execPencComplete {s0 s : State} (h : Kept s0 s) : ∀ x0 x1 x2, ∃ t, execPencComplete x0 x1 x2 s = .next t ∧ Kept s0 t := by
  intro x0 x1 x2
  unfold execPencComplete
  refine ⟨_, rfl, ?_⟩
  repeat' first | (with_reducible assumption) | (with_reducible apply kept_settled) | (with_reducible apply kept_poolEnd) | (with_reducible apply kept_pencEnd)

theorem kept_execTdecComplete {s0 s : State} (h : Kept s0 s) : ∀ x0 x1 x2, ∃ t, execTdecComplete x0 x1 x2 s = .next t ∧ Kept s0 t := by
  intro x0 x1 x2
  unfold execTdecComplete
  refine ⟨_, rfl, ?_⟩
  repeat' first | (with_reducible assumption) | (with_reducible apply kept_settled) | (with_reducible apply kept_poolEnd) | (with_reducible apply kept_tdecEnd)

theorem kept_execTencComplete {s0 s : State} (h : Kept s0 s) : ∀ x0 x1 x2, ∃ t, execTencComplete x0 x1 x2 s = .next t ∧ Kept s0 t := by
  intro x0 x1 x2
  unfold execTencComplete
  refine ⟨_, rfl, ?_⟩
  repeat' first | (with_reducible assumption) | (with_reducible apply kept_settled) | (with_reducible apply kept_poolEnd) | (with_reducible apply kept_tencEnd)

theorem kept_execDematchComplete {s0 s : State} (h : Kept s0 s) : ∀ x0 x1 x2, ∃ t, execDematchComplete x0 x1 x2 s = .next t ∧ Kept s0 t := by
  intro x0 x1 x2
  unfold execDematchComplete
  refine ⟨_, rfl, ?_⟩
  repeat' first | (with_reducible assumption) | (with_reducible apply kept_settled) | (with_reducible apply kept_poolEnd) | (with_reducible apply kept_dematchEnd)

theorem kept_execMatchComplete {s0 s : State} (h : Kept s0 s) : ∀ x0 x1 x2, ∃ t, execMatchComplete x0 x1 x2 s = .next t ∧ Kept s0 t := by
  intro x0 x1 x2
  unfold execMatchComplete
  refine ⟨_, rfl, ?_⟩
  repeat' first | (with_reducible assumption) | (with_reducible apply kept_settled) | (with_reducible apply kept_poolEnd) | (with_reducible apply kept_matchEnd)

theorem kept_execHcNewComplete {s0 s : State} (h : Kept s0 s) : ∀ x0 x1 x2, ∃ t, execHcNewComplete x0 x1 x2 s = .next t ∧ Kept s0 t := by
  intro x0 x1 x2
  unfold execHcNewComplete
  refine ⟨_, rfl, ?_⟩
  repeat' first | (with_reducible assumption) | (with_reducible apply kept_settled) | (with_reducible apply kept_poolEnd) | (with_reducible apply kept_hcNew)

theorem kept_execHcCombineComplete {s0 s : State} (h : Kept s0 s) : ∀ x0 x1 x2, ∃ t, execHcCombineComplete x0 x1 x2 s = .next t ∧ Kept s0 t := by
  intro x0 x1 x2
  unfold execHcCombineComplete
  refine ⟨_, rfl, ?_⟩
  repeat' first | (with_reducible assumption) | (with_reducible apply kept_settled) | (with_reducible apply kept_poolEnd) | (with_reducible apply kept_hcCombine)

theorem kept_execHcReadComplete {s0 s : State} (h : Kept s0 s) : ∀ x0 x1 x2, ∃ t, execHcReadComplete x0 x1 x2 s = .next t ∧ Kept s0 t := by
  intro x0 x1 x2
  unfold execHcReadComplete
  refine ⟨_, rfl, ?_⟩
  repeat' first | (with_reducible assumption) | (with_reducible apply kept_settled) | (with_reducible apply kept_poolEnd) | (with_reducible apply kept_hcRead)

end Sys2Proof.Machine
end

