-- ==== Sys2Proof/Laws/KeptShank.lean ====
section
/-! SUPPORT. What each operation of Machine/Shank.lean keeps. -/

set_option linter.unreachableTactic false
set_option linter.unusedTactic false
set_option linter.unusedSimpArgs false
set_option linter.unusedVariables false

namespace Sys2Proof.Machine

theorem kept_putShank {s0 s : State} (h : Kept s0 s) : ∀ x0 x1, Kept s0 (putShank s x0 x1) := by
  intro x0 x1
  unfold putShank
  repeat' first | (with_reducible assumption) | simp only [kept_mk_iff]

theorem kept_shL {s0 s : State} (h : Kept s0 s) : ∀ x0 x1 x2 x3 x4, KeptH s0 (shL s x0 x1 x2 x3 x4) := by
  intro x0 x1 x2 x3 x4
  unfold shL
  repeat' first | (with_reducible assumption) | (with_reducible apply keptH_mk) | simp only [kept_mk_iff]

theorem kept_shFault {s0 s : State} (h : Kept s0 s) : ∀ x0 x1 x2 x3, KeptH s0 (shFault s x0 x1 x2 x3) := by
  intro x0 x1 x2 x3
  unfold shFault
  repeat' first | (with_reducible assumption) | (with_reducible apply keptH_mk) | simp only [kept_mk_iff] | dsimp only | intro _ _ _ | (with_reducible apply keptP_mk) | (with_reducible apply keptQ_mk)

theorem kept_shMap {s0 s : State} (h : Kept s0 s) : ∀ x0 x1 x2 x3, KeptH s0 (shMap s x0 x1 x2 x3) := by
  intro x0 x1 x2 x3
  unfold shMap
  extract_lets -merge -useContext -underBinder r_1
  try clear_value r_1
  repeat' first | (with_reducible assumption) | (with_reducible apply kept_shL) | (with_reducible apply KeptP.one) | (with_reducible apply KeptQ.one) | simp only [kept_mk_iff] | dsimp only | intro _ _ _ | (with_reducible apply keptP_mk) | (with_reducible apply keptQ_mk)

theorem kept_shCvt {s0 s : State} (h : Kept s0 s) : ∀ x0 x1, KeptH s0 (shCvt s x0 x1) := by
  intro x0 x1
  unfold shCvt
  extract_lets -merge -useContext -underBinder fr_1 n_2 src_3 cs_4 r_5
  try clear_value fr_1
  try clear_value n_2
  try clear_value src_3
  try clear_value cs_4
  try clear_value r_5
  repeat' first | (with_reducible assumption) | (with_reducible apply kept_shL) | (with_reducible apply KeptP.one) | (with_reducible apply KeptQ.one) | simp only [kept_mk_iff] | dsimp only | intro _ _ _ | (with_reducible apply keptP_mk) | (with_reducible apply keptQ_mk)

theorem kept_shMac {s0 s : State} (h : Kept s0 s) : ∀ x0 x1 x2 x3, KeptH s0 (shMac s x0 x1 x2 x3) := by
  intro x0 x1 x2 x3
  unfold shMac
  extract_lets -merge -useContext -underBinder sat_1 acc_2 r_3
  try clear_value sat_1
  try clear_value acc_2
  try clear_value r_3
  repeat' first | (with_reducible assumption) | (with_reducible apply kept_ite) | (with_reducible apply keptH_ite) | (with_reducible apply keptH_mk) | (with_reducible apply KeptP.one) | (with_reducible apply KeptQ.one) | simp only [kept_mk_iff] | split

theorem kept_shExtract {s0 s : State} (h : Kept s0 s) : ∀ x0 x1, KeptH s0 (shExtract s x0 x1) := by
  intro x0 x1
  unfold shExtract
  extract_lets -merge -useContext -underBinder acc_1 r_2
  try clear_value acc_1
  try clear_value r_2
  repeat' first | (with_reducible assumption) | (with_reducible apply kept_shL) | (with_reducible apply KeptP.one) | (with_reducible apply KeptQ.one) | simp only [kept_mk_iff] | dsimp only | intro _ _ _ | (with_reducible apply keptP_mk) | (with_reducible apply keptQ_mk)

theorem kept_shChol {s0 s : State} (h : Kept s0 s) : ∀ x0 x1, KeptH s0 (shChol s x0 x1) := by
  intro x0 x1
  unfold shChol
  extract_lets -merge -useContext -underBinder n_1 blocks_2 r_3
  try clear_value n_1
  try clear_value blocks_2
  try clear_value r_3
  repeat' first | (with_reducible assumption) | (with_reducible apply kept_shL) | (with_reducible apply KeptP.one) | (with_reducible apply KeptQ.one) | simp only [kept_mk_iff]

theorem kept_shMem {s0 s : State} (h : Kept s0 s) : ∀ x0 x1 x2 x3, KeptH s0 (shMem s x0 x1 x2 x3) := by
  intro x0 x1 x2 x3
  unfold shMem
  extract_lets -merge -useContext -underBinder sz_1 base_2 all_3
  try clear_value sz_1
  try clear_value base_2
  try clear_value all_3
  split
  · extract_lets -merge -useContext -underBinder src_4 els_5 o_6
    try clear_value src_4
    try clear_value els_5
    have h_o_6 : KeptH s0 o_6 := by
      unfold o_6
      apply keptH_ite
      · repeat' first | (with_reducible assumption) | (with_reducible apply kept_storeEl) | (with_reducible apply kept_storeRun) | (with_reducible apply kept_ite) | (with_reducible apply keptH_ite) | (with_reducible apply kept_foldl) | (with_reducible apply keptP_foldl) | (with_reducible apply keptH_mk) | (with_reducible apply KeptP.one) | (with_reducible apply KeptQ.one) | simp only [kept_mk_iff] | split | dsimp only | intro _ _ _
      · split
        · rename_i a0_7 a1_7 e_7
          have h_a0_7 : Kept s0 a0_7 := by
            apply KeptP.eq (e := e_7)
            repeat' first | (with_reducible assumption) | (with_reducible apply kept_loadEls) | (with_reducible apply KeptQ.one)
          clear e_7
          repeat' first | (with_reducible assumption) | (with_reducible apply kept_shL) | (with_reducible apply kept_ite) | (with_reducible apply keptH_ite) | (with_reducible apply KeptP.one) | (with_reducible apply KeptQ.one) | simp only [kept_mk_iff] | split | dsimp only | intro _ _ _ | (with_reducible apply keptP_mk) | (with_reducible apply keptQ_mk)
    try clear_value o_6
    split
    · assumption
    · repeat' first | (with_reducible assumption) | (with_reducible apply keptH_mk) | (with_reducible apply KeptH.one) | simp only [kept_mk_iff] | dsimp only | intro _ _ _ | (with_reducible apply keptP_mk) | (with_reducible apply keptQ_mk)

theorem kept_shScalar {s0 s : State} (h : Kept s0 s) : ∀ x0 x1 x2, KeptH s0 (shScalar s x0 x1 x2) := by
  intro x0 x1 x2
  unfold shScalar
  extract_lets -merge -useContext -underBinder a_1 n_2
  try clear_value a_1
  try clear_value n_2
  apply keptH_ite
  · repeat' first | (with_reducible assumption) | (with_reducible apply kept_shFault)
  · apply keptH_ite
    · repeat' first | (with_reducible assumption) | (with_reducible apply kept_shFault)
    · apply keptH_ite
      · repeat' first | (with_reducible assumption) | (with_reducible apply kept_writeBytes) | (with_reducible apply keptH_mk) | simp only [kept_mk_iff]
      · split
        · rename_i a0_3 a1_3 a2_3 e_3
          have h_a0_3 : Kept s0 a0_3 := by
            apply KeptP.eq (e := e_3)
            repeat' first | (with_reducible assumption) | (with_reducible apply kept_readBytes)
          clear e_3
          apply keptH_ite
          · repeat' first | (with_reducible assumption) | (with_reducible apply kept_shFault)
          · apply keptH_ite
            · repeat' first | (with_reducible assumption) | (with_reducible apply keptH_mk) | simp only [kept_mk_iff]
            · repeat' first | (with_reducible assumption) | (with_reducible apply keptH_mk) | simp only [kept_mk_iff]

theorem kept_shEval {s0 s : State} (h : Kept s0 s) : ∀ x0 x1 x2 x3, KeptH s0 (shEval s x0 x1 x2 x3) := by
  intro x0 x1 x2 x3
  unfold shEval
  extract_lets -merge -useContext -underBinder la_1 lb_2 ld_3 q_4 x_5 fx_6 c16_7
  try clear_value la_1
  try clear_value lb_2
  try clear_value ld_3
  try clear_value q_4
  try clear_value x_5
  try clear_value fx_6
  try clear_value c16_7
  split
  · repeat' first | (with_reducible assumption) | (with_reducible apply keptH_mk) | simp only [kept_mk_iff]
  · repeat' first | (with_reducible assumption) | (with_reducible apply keptH_mk) | simp only [kept_mk_iff]
  · repeat' first | (with_reducible assumption) | (with_reducible apply keptH_mk) | simp only [kept_mk_iff]
  · repeat' first | (with_reducible assumption) | (with_reducible apply keptH_mk) | simp only [kept_mk_iff]
  · repeat' first | (with_reducible assumption) | (with_reducible apply kept_shScalar)
  · repeat' first | (with_reducible assumption) | (with_reducible apply kept_shScalar)
  · repeat' first | (with_reducible assumption) | (with_reducible apply kept_shScalar)
  · extract_lets -merge -useContext -underBinder n_8
    try clear_value n_8
    apply keptH_ite
    · repeat' first | (with_reducible assumption) | (with_reducible apply keptH_mk) | simp only [kept_mk_iff]
    · apply keptH_ite
      · repeat' first | (with_reducible assumption) | (with_reducible apply kept_shFault)
      · repeat' first | (with_reducible assumption) | (with_reducible apply keptH_mk) | simp only [kept_mk_iff]
  · repeat' first | (with_reducible assumption) | (with_reducible apply kept_ite) | (with_reducible apply keptH_ite) | (with_reducible apply keptH_mk) | simp only [kept_mk_iff] | split
  · repeat' first | (with_reducible assumption) | (with_reducible apply keptH_mk) | simp only [kept_mk_iff]
  · repeat' first | (with_reducible assumption) | (with_reducible apply keptH_mk) | simp only [kept_mk_iff]
  · repeat' first | (with_reducible assumption) | (with_reducible apply kept_shMem)
  · repeat' first | (with_reducible assumption) | (with_reducible apply kept_shMem)
  · repeat' first | (with_reducible assumption) | (with_reducible apply kept_shMem)
  · repeat' first | (with_reducible assumption) | (with_reducible apply kept_shMem)
  · repeat' first | (with_reducible assumption) | (with_reducible apply kept_shMem)
  · repeat' first | (with_reducible assumption) | (with_reducible apply kept_shMem)
  · repeat' first | (with_reducible assumption) | (with_reducible apply keptH_mk) | simp only [kept_mk_iff]
  · repeat' first | (with_reducible assumption) | (with_reducible apply kept_shMap) | (with_reducible apply kept_ite) | (with_reducible apply keptH_ite) | split
  · repeat' first | (with_reducible assumption) | (with_reducible apply kept_shMap) | (with_reducible apply kept_ite) | (with_reducible apply keptH_ite) | split
  · repeat' first | (with_reducible assumption) | (with_reducible apply kept_shMap) | (with_reducible apply kept_ite) | (with_reducible apply keptH_ite) | (with_reducible apply KeptP.one) | (with_reducible apply KeptQ.one) | split
  · repeat' first | (with_reducible assumption) | (with_reducible apply kept_shMap) | (with_reducible apply kept_ite) | (with_reducible apply keptH_ite) | (with_reducible apply KeptP.one) | (with_reducible apply KeptQ.one) | split
  · repeat' first | (with_reducible assumption) | (with_reducible apply kept_shMap) | simp only [kept_mk_iff] | dsimp only | intro _ _ _ | (with_reducible apply keptP_mk) | (with_reducible apply keptQ_mk)
  · repeat' first | (with_reducible assumption) | (with_reducible apply kept_shCvt)
  · extract_lets -merge -useContext -underBinder k_9
    try clear_value k_9
    repeat' first | (with_reducible assumption) | (with_reducible apply kept_shMap) | simp only [kept_mk_iff]
  · repeat' first | (with_reducible assumption) | (with_reducible apply kept_shMap)
  · extract_lets -merge -useContext -underBinder f_10
    try clear_value f_10
    repeat' first | (with_reducible assumption) | (with_reducible apply kept_shMac) | (with_reducible apply KeptP.one) | (with_reducible apply KeptQ.one) | simp only [kept_mk_iff] | dsimp only | intro _ _ _ | (with_reducible apply keptP_mk) | (with_reducible apply keptQ_mk)
  · extract_lets -merge -useContext -underBinder f_11
    try clear_value f_11
    repeat' first | (with_reducible assumption) | (with_reducible apply kept_shMac) | (with_reducible apply KeptP.one) | (with_reducible apply KeptQ.one) | simp only [kept_mk_iff] | dsimp only | intro _ _ _ | (with_reducible apply keptP_mk) | (with_reducible apply keptQ_mk)
  · extract_lets -merge -useContext -underBinder f_12
    try clear_value f_12
    repeat' first | (with_reducible assumption) | (with_reducible apply kept_shMac) | (with_reducible apply KeptP.one) | (with_reducible apply KeptQ.one) | simp only [kept_mk_iff] | dsimp only | intro _ _ _ | (with_reducible apply keptP_mk) | (with_reducible apply keptQ_mk)
  · repeat' first | (with_reducible assumption) | (with_reducible apply kept_shMac)
  · repeat' first | (with_reducible assumption) | (with_reducible apply kept_shMac)
  · repeat' first | (with_reducible assumption) | (with_reducible apply kept_ite) | (with_reducible apply keptH_ite) | (with_reducible apply keptH_mk) | simp only [kept_mk_iff] | split
  · repeat' first | (with_reducible assumption) | (with_reducible apply kept_shExtract)
  · repeat' first | (with_reducible assumption) | (with_reducible apply kept_shChol)

theorem kept_shStop {s0 s : State} (h : Kept s0 s) : ∀ x0 x1 x2 x3 x4, Kept s0 (shStop s x0 x1 x2 x3 x4) := by
  intro x0 x1 x2 x3 x4
  unfold shStop
  extract_lets -merge -useContext -underBinder s1_1 s2_2 s3_3
  have h_s1_1 : Kept s0 s1_1 := by
    unfold s1_1
    repeat' first | (with_reducible assumption) | (with_reducible apply kept_wr)
  try clear_value s1_1
  have h_s2_2 : Kept s0 s2_2 := by
    unfold s2_2
    split
    · repeat' first | (with_reducible assumption) | (with_reducible apply kept_wr)
    · assumption
  try clear_value s2_2
  have h_s3_3 : Kept s0 s3_3 := by
    unfold s3_3
    repeat' first | (with_reducible assumption) | (with_reducible apply kept_putShank) | (with_reducible apply kept_wrF) | simp only [kept_mk_iff]
  try clear_value s3_3
  apply kept_ite
  · repeat' first | (with_reducible assumption) | (with_reducible apply kept_putShank) | (with_reducible apply kept_wrF) | simp only [kept_mk_iff]
  · split
    · repeat' first | (with_reducible assumption) | (with_reducible apply kept_complete)
    · assumption

theorem kept_shRun {s0 s : State} (h : Kept s0 s) : ∀ x0 x1, Kept s0 (shRun x0 x1 s) := by
  intro x0 x1
  unfold shRun
  extract_lets -merge -useContext -underBinder h_1 o_2 s1_3
  try clear_value h_1
  have h_o_2 : KeptH s0 o_2 := by
    unfold o_2
    apply keptH_ite
    · repeat' first | (with_reducible assumption) | (with_reducible apply kept_shFault)
    · apply keptH_ite
      · repeat' first | (with_reducible assumption) | (with_reducible apply kept_shFault)
      · repeat' first | (with_reducible assumption) | (with_reducible apply kept_shEval) | (with_reducible apply kept_ite) | (with_reducible apply keptH_ite) | split
  try clear_value o_2
  have h_s1_3 : Kept s0 s1_3 := by
    unfold s1_3
    repeat' first | (with_reducible assumption) | (with_reducible apply kept_raiseI) | (with_reducible apply KeptH.one)
  try clear_value s1_3
  apply kept_ite
  · assumption
  · split
    · repeat' first | (with_reducible assumption) | (with_reducible apply kept_shStop)
    · split
      · extract_lets -merge -useContext -underBinder __src_4 h_5
        try clear_value h_5
        split
        · repeat' first | (with_reducible assumption) | (with_reducible apply kept_complete) | (with_reducible apply kept_putShank) | (with_reducible apply kept_wrF) | simp only [kept_mk_iff]
        · repeat' first | (with_reducible assumption) | (with_reducible apply kept_putShank)

theorem kept_shFetch {s0 s : State} (h : Kept s0 s) : ∀ x0, Kept s0 (shFetch s x0) := by
  intro x0
  unfold shFetch
  extract_lets -merge -useContext -underBinder h_1
  try clear_value h_1
  apply kept_ite
  · repeat' first | (with_reducible assumption)
  · apply kept_ite
    · repeat' first | (with_reducible assumption) | (with_reducible apply kept_shStop)
    · split
      rename_i a_2 a_3 a_4 a_5 e_6
      have h_a_3 : Kept s0 a_3 := by
        apply KeptP.eq (e := e_6)
        repeat' first | (with_reducible assumption) | (with_reducible apply kept_read32s)
      clear e_6
      apply kept_ite
      · repeat' first | (with_reducible assumption) | (with_reducible apply kept_shStop)
      · split
        · rename_i a_7 a_8 e_9
          apply kept_ite
          · repeat' first | (with_reducible assumption)
          · repeat' first | (with_reducible assumption) | (with_reducible apply kept_shStop)
        · rename_i a_10 e_11
          repeat' first | (with_reducible assumption) | (with_reducible apply kept_shStop)

theorem kept_shankStart {s0 s : State} (h : Kept s0 s) : ∀ x0, Kept s0 (shankStart s x0) := by
  intro x0
  unfold shankStart
  apply kept_ite
  · assumption
  · split
    · assumption
    · extract_lets -merge -useContext -underBinder h_1 __src_2 s2_3
      try clear_value h_1
      have h_s2_3 : Kept s0 s2_3 := by
        unfold s2_3
        repeat' first | (with_reducible assumption) | apply keptO_beginTask (e := by assumption) | (with_reducible apply kept_putShank) | simp only [kept_mk_iff]
      try clear_value s2_3
      repeat' first | (with_reducible assumption) | apply keptO_beginTask (e := by assumption) | (with_reducible apply kept_wr)

theorem kept_shankResume {s0 s : State} (h : Kept s0 s) : ∀ x0, Kept s0 (shankResume s x0) := by
  intro x0
  unfold shankResume
  extract_lets -merge -useContext -underBinder __src_1
  apply kept_ite
  · assumption
  · repeat' first | (with_reducible assumption) | (with_reducible apply kept_putShank) | (with_reducible apply kept_wrF) | simp only [kept_mk_iff]

theorem kept_execShankTaskStart {s0 s : State} (h : Kept s0 s) : ∀ x0, ∃ t, execShankTaskStart x0 s = .next t ∧ Kept s0 t := by
  intro x0
  refine ⟨_, rfl, ?_⟩
  repeat' first | (with_reducible assumption) | (with_reducible apply kept_shankStart)

theorem kept_execShankResume {s0 s : State} (h : Kept s0 s) : ∀ x0, ∃ t, execShankResume x0 s = .next t ∧ Kept s0 t := by
  intro x0
  refine ⟨_, rfl, ?_⟩
  repeat' first | (with_reducible assumption) | (with_reducible apply kept_shankResume)

theorem kept_execXadd {s0 s : State} (h : Kept s0 s) : ∀ x0 x1, ∃ t, execXadd x0 x1 s = .next t ∧ Kept s0 t := by
  intro x0 x1
  refine ⟨_, rfl, ?_⟩
  repeat' first | (with_reducible assumption) | (with_reducible apply kept_shRun)

theorem kept_execXsub {s0 s : State} (h : Kept s0 s) : ∀ x0 x1, ∃ t, execXsub x0 x1 s = .next t ∧ Kept s0 t := by
  intro x0 x1
  refine ⟨_, rfl, ?_⟩
  repeat' first | (with_reducible assumption) | (with_reducible apply kept_shRun)

theorem kept_execXaddi {s0 s : State} (h : Kept s0 s) : ∀ x0 x1, ∃ t, execXaddi x0 x1 s = .next t ∧ Kept s0 t := by
  intro x0 x1
  refine ⟨_, rfl, ?_⟩
  repeat' first | (with_reducible assumption) | (with_reducible apply kept_shRun)

theorem kept_execXld {s0 s : State} (h : Kept s0 s) : ∀ x0 x1, ∃ t, execXld x0 x1 s = .next t ∧ Kept s0 t := by
  intro x0 x1
  refine ⟨_, rfl, ?_⟩
  repeat' first | (with_reducible assumption) | (with_reducible apply kept_shRun)

theorem kept_execXst {s0 s : State} (h : Kept s0 s) : ∀ x0 x1, ∃ t, execXst x0 x1 s = .next t ∧ Kept s0 t := by
  intro x0 x1
  refine ⟨_, rfl, ?_⟩
  repeat' first | (with_reducible assumption) | (with_reducible apply kept_shRun)

theorem kept_execXstat {s0 s : State} (h : Kept s0 s) : ∀ x0 x1, ∃ t, execXstat x0 x1 s = .next t ∧ Kept s0 t := by
  intro x0 x1
  refine ⟨_, rfl, ?_⟩
  repeat' first | (with_reducible assumption) | (with_reducible apply kept_shRun)

theorem kept_execSloop {s0 s : State} (h : Kept s0 s) : ∀ x0 x1, ∃ t, execSloop x0 x1 s = .next t ∧ Kept s0 t := by
  intro x0 x1
  refine ⟨_, rfl, ?_⟩
  repeat' first | (with_reducible assumption) | (with_reducible apply kept_shRun)

theorem kept_execSbnz {s0 s : State} (h : Kept s0 s) : ∀ x0 x1, ∃ t, execSbnz x0 x1 s = .next t ∧ Kept s0 t := by
  intro x0 x1
  refine ⟨_, rfl, ?_⟩
  repeat' first | (with_reducible assumption) | (with_reducible apply kept_shRun)

theorem kept_execSj {s0 s : State} (h : Kept s0 s) : ∀ x0 x1, ∃ t, execSj x0 x1 s = .next t ∧ Kept s0 t := by
  intro x0 x1
  refine ⟨_, rfl, ?_⟩
  repeat' first | (with_reducible assumption) | (with_reducible apply kept_shRun)

theorem kept_execSend {s0 s : State} (h : Kept s0 s) : ∀ x0 x1, ∃ t, execSend x0 x1 s = .next t ∧ Kept s0 t := by
  intro x0 x1
  refine ⟨_, rfl, ?_⟩
  repeat' first | (with_reducible assumption) | (with_reducible apply kept_shRun)

theorem kept_execLld {s0 s : State} (h : Kept s0 s) : ∀ x0 x1, ∃ t, execLld x0 x1 s = .next t ∧ Kept s0 t := by
  intro x0 x1
  refine ⟨_, rfl, ?_⟩
  repeat' first | (with_reducible assumption) | (with_reducible apply kept_shRun)

theorem kept_execLst {s0 s : State} (h : Kept s0 s) : ∀ x0 x1, ∃ t, execLst x0 x1 s = .next t ∧ Kept s0 t := by
  intro x0 x1
  refine ⟨_, rfl, ?_⟩
  repeat' first | (with_reducible assumption) | (with_reducible apply kept_shRun)

theorem kept_execLlds {s0 s : State} (h : Kept s0 s) : ∀ x0 x1, ∃ t, execLlds x0 x1 s = .next t ∧ Kept s0 t := by
  intro x0 x1
  refine ⟨_, rfl, ?_⟩
  repeat' first | (with_reducible assumption) | (with_reducible apply kept_shRun)

theorem kept_execLsts {s0 s : State} (h : Kept s0 s) : ∀ x0 x1, ∃ t, execLsts x0 x1 s = .next t ∧ Kept s0 t := by
  intro x0 x1
  refine ⟨_, rfl, ?_⟩
  repeat' first | (with_reducible assumption) | (with_reducible apply kept_shRun)

theorem kept_execLldh {s0 s : State} (h : Kept s0 s) : ∀ x0 x1, ∃ t, execLldh x0 x1 s = .next t ∧ Kept s0 t := by
  intro x0 x1
  refine ⟨_, rfl, ?_⟩
  repeat' first | (with_reducible assumption) | (with_reducible apply kept_shRun)

theorem kept_execLdup {s0 s : State} (h : Kept s0 s) : ∀ x0 x1, ∃ t, execLdup x0 x1 s = .next t ∧ Kept s0 t := by
  intro x0 x1
  refine ⟨_, rfl, ?_⟩
  repeat' first | (with_reducible assumption) | (with_reducible apply kept_shRun)

theorem kept_execLmlen {s0 s : State} (h : Kept s0 s) : ∀ x0 x1, ∃ t, execLmlen x0 x1 s = .next t ∧ Kept s0 t := by
  intro x0 x1
  refine ⟨_, rfl, ?_⟩
  repeat' first | (with_reducible assumption) | (with_reducible apply kept_shRun)

theorem kept_execLmld {s0 s : State} (h : Kept s0 s) : ∀ x0 x1, ∃ t, execLmld x0 x1 s = .next t ∧ Kept s0 t := by
  intro x0 x1
  refine ⟨_, rfl, ?_⟩
  repeat' first | (with_reducible assumption) | (with_reducible apply kept_shRun)

theorem kept_execLadd {s0 s : State} (h : Kept s0 s) : ∀ x0 x1, ∃ t, execLadd x0 x1 s = .next t ∧ Kept s0 t := by
  intro x0 x1
  refine ⟨_, rfl, ?_⟩
  repeat' first | (with_reducible assumption) | (with_reducible apply kept_shRun)

theorem kept_execLsub {s0 s : State} (h : Kept s0 s) : ∀ x0 x1, ∃ t, execLsub x0 x1 s = .next t ∧ Kept s0 t := by
  intro x0 x1
  refine ⟨_, rfl, ?_⟩
  repeat' first | (with_reducible assumption) | (with_reducible apply kept_shRun)

theorem kept_execLcmul {s0 s : State} (h : Kept s0 s) : ∀ x0 x1, ∃ t, execLcmul x0 x1 s = .next t ∧ Kept s0 t := by
  intro x0 x1
  refine ⟨_, rfl, ?_⟩
  repeat' first | (with_reducible assumption) | (with_reducible apply kept_shRun)

theorem kept_execLcmulj {s0 s : State} (h : Kept s0 s) : ∀ x0 x1, ∃ t, execLcmulj x0 x1 s = .next t ∧ Kept s0 t := by
  intro x0 x1
  refine ⟨_, rfl, ?_⟩
  repeat' first | (with_reducible assumption) | (with_reducible apply kept_shRun)

theorem kept_execLconj {s0 s : State} (h : Kept s0 s) : ∀ x0 x1, ∃ t, execLconj x0 x1 s = .next t ∧ Kept s0 t := by
  intro x0 x1
  refine ⟨_, rfl, ?_⟩
  repeat' first | (with_reducible assumption) | (with_reducible apply kept_shRun)

theorem kept_execLcvt {s0 s : State} (h : Kept s0 s) : ∀ x0 x1, ∃ t, execLcvt x0 x1 s = .next t ∧ Kept s0 t := by
  intro x0 x1
  refine ⟨_, rfl, ?_⟩
  repeat' first | (with_reducible assumption) | (with_reducible apply kept_shRun)

theorem kept_execLrsq {s0 s : State} (h : Kept s0 s) : ∀ x0 x1, ∃ t, execLrsq x0 x1 s = .next t ∧ Kept s0 t := by
  intro x0 x1
  refine ⟨_, rfl, ?_⟩
  repeat' first | (with_reducible assumption) | (with_reducible apply kept_shRun)

theorem kept_execLfcma {s0 s : State} (h : Kept s0 s) : ∀ x0 x1, ∃ t, execLfcma x0 x1 s = .next t ∧ Kept s0 t := by
  intro x0 x1
  refine ⟨_, rfl, ?_⟩
  repeat' first | (with_reducible assumption) | (with_reducible apply kept_shRun)

theorem kept_execLcmac {s0 s : State} (h : Kept s0 s) : ∀ x0 x1, ∃ t, execLcmac x0 x1 s = .next t ∧ Kept s0 t := by
  intro x0 x1
  refine ⟨_, rfl, ?_⟩
  repeat' first | (with_reducible assumption) | (with_reducible apply kept_shRun)

theorem kept_execLcmacj {s0 s : State} (h : Kept s0 s) : ∀ x0 x1, ∃ t, execLcmacj x0 x1 s = .next t ∧ Kept s0 t := by
  intro x0 x1
  refine ⟨_, rfl, ?_⟩
  repeat' first | (with_reducible assumption) | (with_reducible apply kept_shRun)

theorem kept_execLcmsc {s0 s : State} (h : Kept s0 s) : ∀ x0 x1, ∃ t, execLcmsc x0 x1 s = .next t ∧ Kept s0 t := by
  intro x0 x1
  refine ⟨_, rfl, ?_⟩
  repeat' first | (with_reducible assumption) | (with_reducible apply kept_shRun)

theorem kept_execLmv16 {s0 s : State} (h : Kept s0 s) : ∀ x0 x1, ∃ t, execLmv16 x0 x1 s = .next t ∧ Kept s0 t := by
  intro x0 x1
  refine ⟨_, rfl, ?_⟩
  repeat' first | (with_reducible assumption) | (with_reducible apply kept_shRun)

theorem kept_execLmv8 {s0 s : State} (h : Kept s0 s) : ∀ x0 x1, ∃ t, execLmv8 x0 x1 s = .next t ∧ Kept s0 t := by
  intro x0 x1
  refine ⟨_, rfl, ?_⟩
  repeat' first | (with_reducible assumption) | (with_reducible apply kept_shRun)

theorem kept_execLaccz {s0 s : State} (h : Kept s0 s) : ∀ x0 x1, ∃ t, execLaccz x0 x1 s = .next t ∧ Kept s0 t := by
  intro x0 x1
  refine ⟨_, rfl, ?_⟩
  repeat' first | (with_reducible assumption) | (with_reducible apply kept_shRun)

theorem kept_execLaccx {s0 s : State} (h : Kept s0 s) : ∀ x0 x1, ∃ t, execLaccx x0 x1 s = .next t ∧ Kept s0 t := by
  intro x0 x1
  refine ⟨_, rfl, ?_⟩
  repeat' first | (with_reducible assumption) | (with_reducible apply kept_shRun)

theorem kept_execLchol {s0 s : State} (h : Kept s0 s) : ∀ x0 x1, ∃ t, execLchol x0 x1 s = .next t ∧ Kept s0 t := by
  intro x0 x1
  refine ⟨_, rfl, ?_⟩
  repeat' first | (with_reducible assumption) | (with_reducible apply kept_shRun)

end Sys2Proof.Machine
end

