-- ==== Sys2Proof/Laws/KeptDma.lean ====
section
/-! SUPPORT. What each operation of Machine/Dma.lean keeps. -/

set_option linter.unreachableTactic false
set_option linter.unusedTactic false
set_option linter.unusedSimpArgs false
set_option linter.unusedVariables false

namespace Sys2Proof.Machine

theorem kept_setDma {s0 s : State} (h : Kept s0 s) : ∀ x0 x1 x2, Kept s0 (setDma s x0 x1 x2) := by
  intro x0 x1 x2
  unfold setDma
  repeat' first | (with_reducible assumption) | (with_reducible apply kept_ite) | simp only [kept_mk_iff] | split

theorem kept_dmaEnd {s0 s : State} (h : Kept s0 s) : ∀ x0 x1 x2 x3 x4, Kept s0 (dmaEnd s x0 x1 x2 x3 x4) := by
  intro x0 x1 x2 x3 x4
  unfold dmaEnd
  extract_lets -merge -useContext -underBinder c_1 s1_2 s2_3 s3_4
  try clear_value c_1
  have h_s1_2 : Kept s0 s1_2 := by
    unfold s1_2
    repeat' first | (with_reducible assumption) | (with_reducible apply kept_wrF)
  try clear_value s1_2
  have h_s2_3 : Kept s0 s2_3 := by
    unfold s2_3
    apply kept_ite
    · repeat' first | (with_reducible assumption) | (with_reducible apply kept_raiseI)
    · apply kept_ite
      · repeat' first | (with_reducible assumption) | (with_reducible apply kept_raiseI)
      · assumption
  try clear_value s2_3
  have h_s3_4 : Kept s0 s3_4 := by
    unfold s3_4
    repeat' first | (with_reducible assumption) | (with_reducible apply kept_setDma)
  try clear_value s3_4
  split
  · repeat' first | (with_reducible assumption) | (with_reducible apply kept_complete)
  · assumption

theorem kept_dmaErr {s0 s : State} (h : Kept s0 s) : ∀ x0 x1 x2, Kept s0 (dmaErr s x0 x1 x2) := by
  intro x0 x1 x2
  unfold dmaErr
  split
  · rename_i a0_1 a1_1 e_1
    have h_a0_1 : Kept s0 a0_1 := by
      apply KeptP.eq (e := e_1)
      repeat' first | (with_reducible assumption) | (with_reducible apply kept_freeFail)
    clear e_1
    repeat' first | (with_reducible assumption) | (with_reducible apply kept_dmaEnd)

theorem kept_dmaFetch {s0 s : State} (h : Kept s0 s) : ∀ x0 x1 x2, Kept s0 (dmaFetch s x0 x1 x2) := by
  intro x0 x1 x2
  unfold dmaFetch
  extract_lets -merge -useContext -underBinder a_1 c_2
  try clear_value a_1
  try clear_value c_2
  apply kept_ite
  · repeat' first | (with_reducible assumption) | (with_reducible apply kept_dmaErr)
  · apply kept_ite
    · repeat' first | (with_reducible assumption) | (with_reducible apply kept_dmaErr)
    · apply kept_ite
      · repeat' first | (with_reducible assumption) | (with_reducible apply kept_dmaErr)
      · split
        rename_i a_3 a_4 a_5 a_6 e_7
        have h_a_4 : Kept s0 a_4 := by
          apply KeptP.eq (e := e_7)
          repeat' first | (with_reducible assumption) | (with_reducible apply kept_netRead)
        clear e_7
        apply kept_ite
        · repeat' first | (with_reducible assumption) | (with_reducible apply kept_engWait)
        · apply kept_ite
          · repeat' first | (with_reducible assumption) | (with_reducible apply kept_dmaEnd)
          · apply kept_ite
            · repeat' first | (with_reducible assumption) | (with_reducible apply kept_dmaEnd)
            · extract_lets -merge -useContext -underBinder d_8
              try clear_value d_8
              apply kept_ite
              · repeat' first | (with_reducible assumption) | (with_reducible apply kept_dmaErr)
              · repeat' first | (with_reducible assumption) | (with_reducible apply kept_setDma)

theorem kept_dmaGoto {s0 s : State} (h : Kept s0 s) : ∀ x0 x1 x2, Kept s0 (dmaGoto s x0 x1 x2) := by
  intro x0 x1 x2
  unfold dmaGoto
  extract_lets -merge -useContext -underBinder c_1 s1_2
  try clear_value c_1
  have h_s1_2 : Kept s0 s1_2 := by
    unfold s1_2
    repeat' first | (with_reducible assumption) | (with_reducible apply kept_wr)
  try clear_value s1_2
  repeat' first | (with_reducible assumption) | (with_reducible apply kept_setDma) | simp only [kept_mk_iff]

theorem kept_dmaBegin {s0 s : State} (h : Kept s0 s) : ∀ x0 x1 x2 x3, Kept s0 (dmaBegin s x0 x1 x2 x3) := by
  intro x0 x1 x2 x3
  unfold dmaBegin
  extract_lets -merge -useContext -underBinder __src_1 s1_2
  have h_s1_2 : Kept s0 s1_2 := by
    unfold s1_2
    repeat' first | (with_reducible assumption) | (with_reducible apply kept_setDma) | (with_reducible apply kept_wr) | simp only [kept_mk_iff]
  try clear_value s1_2
  repeat' first | (with_reducible assumption) | (with_reducible apply kept_dmaFetch) | (with_reducible apply kept_dmaGoto)

theorem kept_dmaStartBit {s0 s : State} (h : Kept s0 s) : ∀ x0 x1, Kept s0 (dmaStartBit s x0 x1) := by
  intro x0 x1
  unfold dmaStartBit
  apply kept_ite
  · repeat' first | (with_reducible assumption) | (with_reducible apply kept_dmaBegin)
  · repeat' first | (with_reducible assumption)

theorem kept_dmaAbortBit {s0 s : State} (h : Kept s0 s) : ∀ x0 x1, Kept s0 (dmaAbortBit s x0 x1) := by
  intro x0 x1
  unfold dmaAbortBit
  apply kept_ite
  · repeat' first | (with_reducible assumption) | (with_reducible apply kept_setDma)
  · repeat' first | (with_reducible assumption)

theorem kept_execDmaStart {s0 s : State} (h : Kept s0 s) : ∀ x0 x1, ∃ t, execDmaStart x0 x1 s = .next t ∧ Kept s0 t := by
  intro x0 x1
  refine ⟨_, rfl, ?_⟩
  apply kept_ite
  · repeat' first | (with_reducible assumption) | (with_reducible apply kept_dmaBegin)
  · assumption

theorem kept_execDmaAbort {s0 s : State} (h : Kept s0 s) : ∀ x0 x1, ∃ t, execDmaAbort x0 x1 s = .next t ∧ Kept s0 t := by
  intro x0 x1
  refine ⟨_, rfl, ?_⟩
  extract_lets -merge -useContext -underBinder __src_1
  apply kept_ite
  · repeat' first | (with_reducible assumption) | (with_reducible apply kept_setDma) | simp only [kept_mk_iff]
  · assumption

theorem kept_dmaTaskStart {s0 s : State} (h : Kept s0 s) : ∀ x0 x1, Kept s0 (dmaTaskStart s x0 x1) := by
  intro x0 x1
  unfold dmaTaskStart
  apply kept_ite
  · assumption
  · split
    · assumption
    · repeat' first | (with_reducible assumption) | apply keptO_beginTask (e := by assumption) | (with_reducible apply kept_dmaBegin)

theorem kept_execDmaTaskStart {s0 s : State} (h : Kept s0 s) : ∀ x0 x1, ∃ t, execDmaTaskStart x0 x1 s = .next t ∧ Kept s0 t := by
  intro x0 x1
  refine ⟨_, rfl, ?_⟩
  repeat' first | (with_reducible assumption) | (with_reducible apply kept_dmaTaskStart)

theorem kept_dmaAdvance {s0 s : State} (h : Kept s0 s) : ∀ x0 x1 x2, Kept s0 (dmaAdvance s x0 x1 x2) := by
  intro x0 x1 x2
  unfold dmaAdvance
  extract_lets -merge -useContext -underBinder c_1 d_2 s1_3 c1_4 s2_5 s3_6
  try clear_value c_1
  try clear_value d_2
  have h_s1_3 : Kept s0 s1_3 := by
    unfold s1_3
    repeat' first | (with_reducible assumption) | (with_reducible apply kept_wr)
  try clear_value s1_3
  try clear_value c1_4
  have h_s2_5 : Kept s0 s2_5 := by
    unfold s2_5
    repeat' first | (with_reducible assumption) | (with_reducible apply kept_setDma)
  try clear_value s2_5
  have h_s3_6 : Kept s0 s3_6 := by
    unfold s3_6
    apply kept_ite
    · repeat' first | (with_reducible assumption) | (with_reducible apply kept_raiseI)
    · assumption
  try clear_value s3_6
  apply kept_ite
  · repeat' first | (with_reducible assumption) | (with_reducible apply kept_dmaEnd)
  · apply kept_ite
    · assumption
    · apply kept_ite
      · repeat' first | (with_reducible assumption) | (with_reducible apply kept_dmaEnd)
      · repeat' first | (with_reducible assumption) | (with_reducible apply kept_dmaFetch) | (with_reducible apply kept_dmaGoto)

theorem kept_dmaRequest {s0 s : State} (h : Kept s0 s) : ∀ x0 x1 x2 x3, Kept s0 (dmaRequest s x0 x1 x2 x3) := by
  intro x0 x1 x2 x3
  unfold dmaRequest
  extract_lets -merge -useContext -underBinder c_3 d_4 sa_5 da_6 k_7
  try clear_value c_3
  try clear_value d_4
  try clear_value sa_5
  try clear_value da_6
  try clear_value k_7
  apply kept_ite
  · repeat' first | (with_reducible assumption)
  · apply kept_ite
    · apply kept_ite
      · repeat' first | (with_reducible assumption) | (with_reducible apply kept_dmaEnd)
      · repeat' first | (with_reducible assumption) | (with_reducible apply kept_dmaFetch)
    · split
      rename_i a_8 a_9 a_10 a_11 e_12
      have h_a_9 : Kept s0 a_9 := by
        apply KeptP.eq (e := e_12)
        apply keptP_ite
        · repeat' first | (with_reducible assumption) | (with_reducible apply keptP_mk) | (with_reducible apply keptQ_mk)
        · repeat' first | (with_reducible assumption) | (with_reducible apply kept_netRead)
      clear e_12
      apply kept_ite
      · repeat' first | (with_reducible assumption) | (with_reducible apply kept_dmaEnd)
      · extract_lets -merge -useContext -underBinder s2_13
        have h_s2_13 : Kept s0 s2_13 := by
          unfold s2_13
          apply kept_ite
          · repeat' first | (with_reducible assumption) | (with_reducible apply kept_wrB)
          · repeat' first | (with_reducible assumption)
        try clear_value s2_13
        split
        rename_i a_14 a_15 a_16 e_17
        have h_a_15 : Kept s0 a_15 := by
          apply KeptP.eq (e := e_17)
          repeat' first | (with_reducible assumption) | (with_reducible apply kept_netWrite)
        clear e_17
        apply kept_ite
        · repeat' first | (with_reducible assumption) | (with_reducible apply kept_dmaEnd)
        · repeat' first | (with_reducible assumption) | (with_reducible apply kept_dmaAdvance)

theorem kept_execDmaRequestComplete {s0 s : State} (h : Kept s0 s) : ∀ x0 x1 x2 x3, ∃ t, execDmaRequestComplete x0 x1 x2 x3 s = .next t ∧ Kept s0 t := by
  intro x0 x1 x2 x3
  unfold execDmaRequestComplete
  refine ⟨_, rfl, ?_⟩
  repeat' first | (with_reducible assumption) | (with_reducible apply kept_settled) | (with_reducible apply kept_dmaRequest) | (with_reducible apply keptP_mk) | (with_reducible apply keptQ_mk)

end Sys2Proof.Machine
end

