-- ==== Sys2Proof/Laws/KeptTransport.lean ====
section
/-! SUPPORT. What each operation of Machine/Transport.lean keeps. -/

set_option linter.unreachableTactic false
set_option linter.unusedTactic false
set_option linter.unusedSimpArgs false
set_option linter.unusedVariables false

namespace Sys2Proof.Machine

theorem kept_headerFailed {s0 s : State} (h : Kept s0 s) : ∀ x0, Kept s0 (headerFailed s x0) := by
  intro x0
  unfold headerFailed
  repeat' first | (with_reducible assumption) | (with_reducible apply kept_bump) | (with_reducible apply kept_raiseI) | (with_reducible apply kept_ite) | split

theorem kept_acceptPacket {s0 s : State} (h : Kept s0 s) : ∀ x0, Kept s0 (acceptPacket s x0) := by
  intro x0
  unfold acceptPacket
  extract_lets -merge -useContext -underBinder armed_1 st_2 hit_3 fired_4 s1_5 q_6 op_7 h_8
  try clear_value armed_1
  try clear_value st_2
  try clear_value hit_3
  try clear_value fired_4
  have h_s1_5 : Kept s0 s1_5 := by
    unfold s1_5
    apply kept_ite
    · assumption
    · repeat' first | (with_reducible assumption) | (with_reducible apply kept_bump) | (with_reducible apply kept_raiseI) | (with_reducible apply kept_wrB) | (with_reducible apply kept_ite) | split
  try clear_value s1_5
  try clear_value q_6
  try clear_value op_7
  try clear_value h_8
  apply kept_ite
  · repeat' first | (with_reducible assumption) | (with_reducible apply kept_reply)
  · apply kept_ite
    · repeat' first | (with_reducible assumption) | (with_reducible apply kept_raise) | (with_reducible apply kept_reply)
    · repeat' first | (with_reducible assumption) | (with_reducible apply kept_arrive) | (with_reducible apply kept_settle)

theorem kept_receive {s0 s : State} (h : Kept s0 s) : ∀ x0, Kept s0 (receive s x0) := by
  intro x0
  unfold receive
  extract_lets -merge -useContext -underBinder armed_1 s1_2
  try clear_value armed_1
  have h_s1_2 : Kept s0 s1_2 := by
    unfold s1_2
    repeat' first | (with_reducible assumption) | (with_reducible apply kept_headerFailed) | (with_reducible apply kept_wrB) | (with_reducible apply kept_ite) | split
  try clear_value s1_2
  apply kept_ite
  · split
    · extract_lets -merge -useContext -underBinder __src_3
      repeat' first | (with_reducible assumption) | (with_reducible apply kept_arrive) | (with_reducible apply kept_settle) | simp only [kept_mk_iff]
    · assumption
  · repeat' first | (with_reducible assumption) | (with_reducible apply kept_acceptPacket)

theorem kept_i3cWrite {s0 s : State} (h : Kept s0 s) : ∀ x0, Kept s0 (i3cWrite s x0) := by
  intro x0
  unfold i3cWrite
  apply kept_ite
  · repeat' first | (with_reducible assumption) | simp only [kept_mk_iff]
  · repeat' first | (with_reducible assumption) | (with_reducible apply kept_receive) | simp only [kept_mk_iff]

theorem kept_execI3cPrivateWrite {s0 s : State} (h : Kept s0 s) : ∀ x0, ∃ t, execI3cPrivateWrite x0 s = .next t ∧ Kept s0 t := by
  intro x0
  refine ⟨_, rfl, ?_⟩
  repeat' first | (with_reducible assumption) | (with_reducible apply kept_i3cWrite) | split | dsimp only | intro _ _ _ | (with_reducible apply keptP_mk) | (with_reducible apply keptQ_mk)

theorem kept_execCommandPacketRx {s0 s : State} (h : Kept s0 s) : ∀ x0, ∃ t, execCommandPacketRx x0 s = .next t ∧ Kept s0 t := by
  intro x0
  refine ⟨_, rfl, ?_⟩
  split
  · repeat' first | (with_reducible assumption) | (with_reducible apply kept_i3cWrite)
  · repeat' first | (with_reducible assumption) | (with_reducible apply kept_receive)

theorem kept_execPnInjArm {s0 s : State} (h : Kept s0 s) : ∀ x0 x1, ∃ t, execPnInjArm x0 x1 s = .next t ∧ Kept s0 t := by
  intro x0 x1
  refine ⟨_, rfl, ?_⟩
  apply kept_ite
  · repeat' first | (with_reducible assumption) | (with_reducible apply kept_wr)
  · assumption

theorem kept_forwardEnd {s0 s : State} (h : Kept s0 s) : ∀ x0 x1 x2, Kept s0 (forwardEnd s x0 x1 x2) := by
  intro x0 x1 x2
  unfold forwardEnd
  repeat' first | (with_reducible assumption) | (with_reducible apply kept_endHeld) | (with_reducible apply kept_settle) | (with_reducible apply kept_setPn) | exact fun h => ⟨h.1, h.2, h.3, h.4⟩ | simp only [kept_mk_iff]

theorem kept_forwardReply {s0 s : State} (h : Kept s0 s) : ∀ x0 x1 x2, Kept s0 (forwardReply s x0 x1 x2) := by
  intro x0 x1 x2
  unfold forwardReply
  split
  · repeat' first | (with_reducible assumption) | (with_reducible apply kept_bump) | (with_reducible apply kept_raise)
  · repeat' first | (with_reducible assumption) | (with_reducible apply kept_forwardEnd)

theorem kept_execForwardReplyRx {s0 s : State} (h : Kept s0 s) : ∀ x0 x1 x2, ∃ t, execForwardReplyRx x0 x1 x2 s = .next t ∧ Kept s0 t := by
  intro x0 x1 x2
  refine ⟨_, rfl, ?_⟩
  repeat' first | (with_reducible assumption) | (with_reducible apply kept_forwardReply)

theorem kept_execForwardTimeout {s0 s : State} (h : Kept s0 s) : ∀ x0, ∃ t, execForwardTimeout x0 s = .next t ∧ Kept s0 t := by
  intro x0
  refine ⟨_, rfl, ?_⟩
  split
  · assumption
  · repeat' first | (with_reducible assumption) | (with_reducible apply kept_forwardEnd) | (with_reducible apply kept_raise)

theorem kept_lacePacket {s0 s : State} (h : Kept s0 s) : ∀ x0 x1 x2 x3, Kept s0 (lacePacket s x0 x1 x2 x3) := by
  intro x0 x1 x2 x3
  unfold lacePacket
  extract_lets -merge -useContext -underBinder p_1
  try clear_value p_1
  apply kept_ite
  · repeat' first | (with_reducible assumption) | (with_reducible apply kept_forwardReply)
  · apply kept_ite
    · assumption
    · repeat' first | (with_reducible assumption) | (with_reducible apply kept_receive)

theorem kept_dropPartial {s0 s : State} (h : Kept s0 s) : ∀ x0 x1, Kept s0 (dropPartial s x0 x1) := by
  intro x0 x1
  unfold dropPartial
  repeat' first | (with_reducible assumption) | (with_reducible apply kept_setPn) | exact fun h => ⟨h.1, h.2, h.3, h.4⟩ | simp only [kept_mk_iff]

theorem kept_execLaceFragmentRx {s0 s : State} (h : Kept s0 s) : ∀ x0 x1 x2 x3 x4, ∃ t, execLaceFragmentRx x0 x1 x2 x3 x4 s = .next t ∧ Kept s0 t := by
  intro x0 x1 x2 x3 x4
  refine ⟨_, rfl, ?_⟩
  extract_lets -merge -useContext -underBinder ws_1 x_2 y_3 s1_4
  try clear_value ws_1
  try clear_value x_2
  try clear_value y_3
  have h_s1_4 : Kept s0 s1_4 := by
    unfold s1_4
    repeat' first | (with_reducible assumption) | (with_reducible apply kept_dropPartial)
  try clear_value s1_4
  split
  · repeat' first | (with_reducible assumption) | (with_reducible apply kept_lacePacket)
  · repeat' first | (with_reducible assumption) | (with_reducible apply kept_setPn) | exact fun h => ⟨h.1, h.2, h.3, h.4⟩ | simp only [kept_mk_iff]

theorem kept_execFragmentTimeout {s0 s : State} (h : Kept s0 s) : ∀ x0 x1, ∃ t, execFragmentTimeout x0 x1 s = .next t ∧ Kept s0 t := by
  intro x0 x1
  refine ⟨_, rfl, ?_⟩
  apply kept_ite
  · repeat' first | (with_reducible assumption) | (with_reducible apply kept_dropPartial) | (with_reducible apply kept_headerFailed)
  · assumption

theorem kept_execPrepareRx {s0 s : State} (h : Kept s0 s) : ∀ x0, ∃ t, execPrepareRx x0 s = .next t ∧ Kept s0 t := by
  intro x0
  refine ⟨_, rfl, ?_⟩
  apply kept_ite
  · assumption
  · split
    · rename_i a0_1 a1_1 a2_1 e_1
      have h_a0_1 : Kept s0 a0_1 := by
        apply KeptP.eq (e := e_1)
        repeat' first | (with_reducible assumption) | (with_reducible apply kept_prepareHere)
      clear e_1
      repeat' first | (with_reducible assumption) | (with_reducible apply kept_laceMsg) | simp only [kept_mk_iff] | dsimp only | intro _ _ _ | (with_reducible apply keptP_mk) | (with_reducible apply keptQ_mk)

theorem kept_execConfirmRx {s0 s : State} (h : Kept s0 s) : ∀ x0 x1, ∃ t, execConfirmRx x0 x1 s = .next t ∧ Kept s0 t := by
  intro x0 x1
  refine ⟨_, rfl, ?_⟩
  apply kept_ite
  · assumption
  · repeat' first | (with_reducible assumption) | (with_reducible apply kept_confirmHere) | (with_reducible apply kept_laceMsg) | simp only [kept_mk_iff] | dsimp only | intro _ _ _ | (with_reducible apply keptP_mk) | (with_reducible apply keptQ_mk)

theorem kept_execAbortRx {s0 s : State} (h : Kept s0 s) : ∀ x0 x1, ∃ t, execAbortRx x0 x1 s = .next t ∧ Kept s0 t := by
  intro x0 x1
  refine ⟨_, rfl, ?_⟩
  repeat' first | (with_reducible assumption) | (with_reducible apply kept_abortHere)

theorem kept_execPrepExpired {s0 s : State} (h : Kept s0 s) : ∀ x0, ∃ t, execPrepExpired x0 s = .next t ∧ Kept s0 t := by
  intro x0
  refine ⟨_, rfl, ?_⟩
  repeat' first | (with_reducible assumption) | (with_reducible apply kept_prepExpired)

theorem kept_execDomainCommitDecision {s0 s : State} (h : Kept s0 s) : ∀ x0 x1, ∃ t, execDomainCommitDecision x0 x1 s = .next t ∧ Kept s0 t := by
  intro x0 x1
  refine ⟨_, rfl, ?_⟩
  split
  · assumption
  · repeat' first | (with_reducible assumption) | (with_reducible apply kept_domainDecide) | (with_reducible apply kept_settle) | (with_reducible apply KeptP.one) | (with_reducible apply KeptQ.one) | simp only [kept_mk_iff] | dsimp only | intro _ _ _ | (with_reducible apply keptP_mk) | (with_reducible apply keptQ_mk)

theorem kept_execConfirmAckRx {s0 s : State} (h : Kept s0 s) : ∀ x0 x1, ∃ t, execConfirmAckRx x0 x1 s = .next t ∧ Kept s0 t := by
  intro x0 x1
  refine ⟨_, rfl, ?_⟩
  split
  · assumption
  · repeat' first | (with_reducible assumption) | (with_reducible apply kept_domainAck) | (with_reducible apply kept_settle)

theorem kept_execDomainAckDeadline {s0 s : State} (h : Kept s0 s) : ∀ x0, ∃ t, execDomainAckDeadline x0 s = .next t ∧ Kept s0 t := by
  intro x0
  refine ⟨_, rfl, ?_⟩
  split
  · assumption
  · repeat' first | (with_reducible assumption) | (with_reducible apply kept_domainDeadline) | (with_reducible apply kept_settle)

theorem kept_execEventSinkDrain {s0 s : State} (h : Kept s0 s) : ∀ x0, ∃ t, execEventSinkDrain x0 s = .next t ∧ Kept s0 t := by
  intro x0
  refine ⟨_, rfl, ?_⟩
  split
  · split
    · exact h
    · exact kept_ite h (kept_cqPost (kept_sinkPop h _) ..)
  · exact kept_ibiSync h
  · split
    · exact h
    · apply kept_ite h
      exact kept_foldl _ (fun _ _ k => kept_laceMsg k ..) _ (kept_setPn (kept_sinkPop h _) _ fun y => ⟨y.1, y.2, y.3, y.4⟩)

end Sys2Proof.Machine
end

