-- ==== Sys2Proof/Laws/KeptStartup.lean ====
section
/-! SUPPORT. What each operation of Machine/Startup.lean keeps. -/

set_option linter.unreachableTactic false
set_option linter.unusedTactic false
set_option linter.unusedSimpArgs false
set_option linter.unusedVariables false

namespace Sys2Proof.Machine

theorem kept_deviceReset {s0 s : State} (h : Kept s0 s) : Kept s0 (deviceReset s) := by
  unfold deviceReset
  repeat' first | (with_reducible assumption) | (with_reducible apply kept_closeAll) | (with_reducible apply kept_resetCore)

theorem kept_execResetNAssert {s0 s : State} (h : Kept s0 s) : ∃ t, execResetNAssert s = .next t ∧ Kept s0 t := by
  refine ⟨_, rfl, ?_⟩
  repeat' first | (with_reducible assumption) | (with_reducible apply kept_deviceReset) | (with_reducible apply kept_setBoot) | exact ⟨Nat.le_refl _, fun _ h => h⟩ | simp only [kept_mk_iff]

theorem kept_powerDown {s0 s : State} (h : Kept s0 s) : Kept s0 (powerDown s) := by
  unfold powerDown
  repeat' first | (with_reducible assumption) | (with_reducible apply kept_deviceReset) | (with_reducible apply kept_setBoot) | (with_reducible apply kept_wr) | exact ⟨Nat.le_refl _, fun _ h => h⟩ | simp only [kept_mk_iff]

theorem kept_execPwrOkFall {s0 s : State} (h : Kept s0 s) : ∃ t, execPwrOkFall s = .next t ∧ Kept s0 t := by
  refine ⟨_, rfl, ?_⟩
  apply kept_ite
  · assumption
  · repeat' first | (with_reducible assumption) | (with_reducible apply kept_powerDown) | (with_reducible apply kept_writeLedger) | (with_reducible apply kept_ite) | split

theorem kept_execSupplyOutOfRange {s0 s : State} (h : Kept s0 s) : ∃ t, execSupplyOutOfRange s = .next t ∧ Kept s0 t := by
  refine ⟨_, rfl, ?_⟩
  apply kept_ite
  · repeat' first | (with_reducible assumption) | (with_reducible apply kept_powerDown)
  · assumption

theorem kept_execOscInLoss {s0 s : State} (h : Kept s0 s) : ∃ t, execOscInLoss s = .next t ∧ Kept s0 t := by
  refine ⟨_, rfl, ?_⟩
  apply kept_ite
  · repeat' first | (with_reducible assumption) | (with_reducible apply kept_powerDown)
  · assumption

theorem kept_execPwrOkRise {s0 s : State} (h : Kept s0 s) : ∀ x0, ∃ t, execPwrOkRise x0 s = .next t ∧ Kept s0 t := by
  intro x0
  refine ⟨_, rfl, ?_⟩
  extract_lets -merge -useContext -underBinder c_1 s1_2 s2_3
  try clear_value c_1
  have h_s1_2 : Kept s0 s1_2 := by
    unfold s1_2
    repeat' first | (with_reducible assumption) | (with_reducible apply kept_setBoot) | exact ⟨Nat.le_refl _, fun _ h => h⟩ | simp only [kept_mk_iff]
  try clear_value s1_2
  have h_s2_3 : Kept s0 s2_3 := by
    unfold s2_3
    repeat' first | (with_reducible assumption) | (with_reducible apply kept_wr) | exact ⟨Nat.le_refl _, fun _ h => h⟩ | simp only [kept_mk_iff] | dsimp only | intro _ _ _ | (with_reducible apply keptP_mk) | (with_reducible apply keptQ_mk)
  try clear_value s2_3
  apply kept_ite
  · repeat' first | (with_reducible assumption) | exact ⟨Nat.le_refl _, fun _ h => h⟩
  · repeat' first | (with_reducible assumption) | (with_reducible apply kept_setTh) | (with_reducible apply kept_wrF) | exact ⟨Nat.le_refl _, fun _ h => h⟩ | simp only [kept_mk_iff]

theorem kept_vaoReset {s0 s : State} (h : Kept s0 s) : Kept s0 (vaoReset s) := by
  unfold vaoReset
  repeat' first | (with_reducible assumption) | (with_reducible apply kept_closeAll) | (with_reducible apply kept_resetAll) | (with_reducible apply kept_setBoot) | exact ⟨Nat.le_refl _, fun _ h => h⟩ | simp only [kept_mk_iff]

theorem kept_execVaoRise {s0 s : State} (h : Kept s0 s) : ∃ t, execVaoRise s = .next t ∧ Kept s0 t := by
  refine ⟨_, rfl, ?_⟩
  repeat' first | (with_reducible assumption) | (with_reducible apply kept_vaoReset)

theorem kept_execVaoLoss {s0 s : State} (h : Kept s0 s) : ∃ t, execVaoLoss s = .next t ∧ Kept s0 t := by
  refine ⟨_, rfl, ?_⟩
  repeat' first | (with_reducible assumption) | (with_reducible apply kept_vaoReset)

theorem kept_mirrorRepair {s0 s : State} (h : Kept s0 s) : Kept s0 (mirrorRepair s) := by
  unfold mirrorRepair
  extract_lets t
  exact kept_ite h (kept_setBoot (kept_setStore (kept_rawClear h ..) ..) _ ⟨Nat.le_refl _, fun _ h => h⟩)

theorem kept_bootPort {s0 s : State} (h : Kept s0 s) : Kept s0 (bootPort s) := by
  unfold bootPort
  extract_lets -merge -useContext -underBinder s1_1
  have h_s1_1 : Kept s0 s1_1 := by
    unfold s1_1
    repeat' first | (with_reducible assumption) | (with_reducible apply kept_laneApply) | (with_reducible apply kept_foldl) | (with_reducible apply keptP_foldl) | dsimp only | intro _ _ _
  try clear_value s1_1
  repeat' first | (with_reducible assumption) | (with_reducible apply kept_portSync) | (with_reducible apply kept_wr) | simp only [kept_mk_iff] | dsimp only | intro _ _ _ | (with_reducible apply keptP_mk) | (with_reducible apply keptQ_mk)

theorem kept_ivrsReady {s0 s : State} (h : Kept s0 s) : Kept s0 (ivrsReady s) := by
  unfold ivrsReady
  refine kept_foldl _ ?_ _ ?_
  · intro a_1 x_2 h_3
    apply kept_ite
    · repeat' first | (with_reducible assumption) | (with_reducible apply kept_wrB)
    · repeat' first | (with_reducible assumption)
  · repeat' first | (with_reducible assumption)

theorem kept_resetRelease {s0 s : State} (h : Kept s0 s) : ∀ x0 x1, Kept s0 (resetRelease s x0 x1) := by
  intro b l
  unfold resetRelease
  extract_lets a0 s1 s2 s3 s4 s5
  have h0 : Kept s0 a0 := kept_setHost (kept_ivrsReady h) _
  clear_value a0
  have h1 : Kept s0 s1 := kept_setBoot (kept_mirrorRepair h0) _ ⟨Nat.le_refl _, fun _ h => h⟩
  clear_value s1
  have h2 : Kept s0 s2 := kept_wr h1 ..
  clear_value s2
  have h3 : Kept s0 s3 := kept_wr (kept_wrF h2 ..) ..
  clear_value s3
  have h4 : Kept s0 s4 := kept_foldl _ (fun _ _ k => kept_ite (kept_startCal k ..) k) _ h3
  clear_value s4
  have h5 : Kept s0 s5 := kept_foldl _ (fun _ _ k => kept_shoreUp k ..) _ h4
  exact kept_ite (kept_bootPort h5) h5

theorem kept_execResetRelease {s0 s : State} (h : Kept s0 s) : ∀ x0 x1, ∃ t, execResetRelease x0 x1 s = .next t ∧ Kept s0 t := by
  intro x0 x1
  refine ⟨_, rfl, ?_⟩
  apply kept_ite
  · assumption
  · repeat' first | (with_reducible assumption) | (with_reducible apply kept_resetRelease)

theorem kept_execThermalRestartRelease {s0 s : State} (h : Kept s0 s) : ∀ x0 x1, ∃ t, execThermalRestartRelease x0 x1 s = .next t ∧ Kept s0 t := by
  intro x0 x1
  refine ⟨_, rfl, ?_⟩
  extract_lets -merge -useContext -underBinder s1_1
  have h_s1_1 : Kept s0 s1_1 := by
    unfold s1_1
    repeat' first | (with_reducible assumption) | (with_reducible apply kept_resetCore) | (with_reducible apply kept_setTh) | (with_reducible apply kept_wrF) | simp only [kept_mk_iff]
  try clear_value s1_1
  apply kept_ite
  · assumption
  · repeat' first | (with_reducible assumption) | (with_reducible apply kept_resetRelease)

theorem kept_bootFailed {s0 s : State} (h : Kept s0 s) : ∀ x0 x1, Kept s0 (bootFailed s x0 x1) := by
  intro x0 x1
  unfold bootFailed
  repeat' first | (with_reducible assumption) | (with_reducible apply kept_wr) | simp only [kept_mk_iff] | dsimp only | intro _ _ _ | (with_reducible apply keptP_mk) | (with_reducible apply keptQ_mk)

theorem kept_startImage {s0 s : State} (h : Kept s0 s) : ∀ x0, Kept s0 (startImage s x0) := by
  intro x0
  unfold startImage
  repeat' first | (with_reducible assumption) | (with_reducible apply kept_setBoot) | (with_reducible apply kept_setPhase) | (with_reducible apply kept_showImage) | exact ⟨Nat.le_refl _, fun _ h => h⟩ | simp only [kept_mk_iff]

theorem kept_fillFlash {s0 s : State} (h : Kept s0 s) : ∀ x0 x1, Kept s0 (fillFlash s x0 x1) := by
  intro x0 x1
  unfold fillFlash
  apply kept_ite
  · repeat' first | (with_reducible assumption) | exact ⟨Nat.le_refl _, fun _ h => h⟩
  · repeat' first | (with_reducible assumption) | (with_reducible apply kept_setBoot) | exact ⟨Nat.le_refl _, fun _ h => h⟩ | (with_reducible apply kept_ite) | simp only [kept_mk_iff] | split

theorem kept_qspiFetched {s0 s : State} (h : Kept s0 s) : ∀ x0 x1, Kept s0 (qspiFetched s x0 x1) := by
  intro x0 x1
  unfold qspiFetched
  extract_lets -merge -useContext -underBinder k_1 s1_2 code_3 s2_4
  try clear_value k_1
  have h_s1_2 : Kept s0 s1_2 := by
    unfold s1_2
    repeat' first | (with_reducible assumption) | (with_reducible apply kept_fillFlash) | exact ⟨Nat.le_refl _, fun _ h => h⟩
  try clear_value s1_2
  try clear_value code_3
  have h_s2_4 : Kept s0 s2_4 := by
    unfold s2_4
    repeat' first | (with_reducible assumption) | (with_reducible apply kept_bootFailed) | exact ⟨Nat.le_refl _, fun _ h => h⟩
  try clear_value s2_4
  apply kept_ite
  · repeat' first | (with_reducible assumption) | (with_reducible apply kept_startImage) | (with_reducible apply kept_wrB) | exact ⟨Nat.le_refl _, fun _ h => h⟩
  · apply kept_ite
    · repeat' first | (with_reducible assumption) | (with_reducible apply kept_setBoot) | exact ⟨Nat.le_refl _, fun _ h => h⟩ | simp only [kept_mk_iff]
    · repeat' first | (with_reducible assumption) | (with_reducible apply kept_setBoot) | (with_reducible apply kept_wrB) | exact ⟨Nat.le_refl _, fun _ h => h⟩ | simp only [kept_mk_iff]

theorem kept_execImageFetchComplete {s0 s : State} (h : Kept s0 s) : ∀ x0 x1, ∃ t, execImageFetchComplete x0 x1 s = .next t ∧ Kept s0 t := by
  intro x0 x1
  refine ⟨_, rfl, ?_⟩
  apply kept_ite
  · repeat' first | (with_reducible assumption) | exact ⟨Nat.le_refl _, fun _ h => h⟩
  · apply kept_ite
    · repeat' first | (with_reducible assumption) | (with_reducible apply kept_qspiFetched) | exact ⟨Nat.le_refl _, fun _ h => h⟩
    · apply kept_ite
      · split
        · repeat' first | (with_reducible assumption) | exact ⟨Nat.le_refl _, fun _ h => h⟩
        · extract_lets -merge -useContext -underBinder code_1
          try clear_value code_1
          apply kept_ite
          · repeat' first | (with_reducible assumption) | (with_reducible apply kept_startImage) | exact ⟨Nat.le_refl _, fun _ h => h⟩
          · repeat' first | (with_reducible assumption) | (with_reducible apply kept_bootFailed) | (with_reducible apply kept_setBoot) | exact ⟨Nat.le_refl _, fun _ h => h⟩ | simp only [kept_mk_iff]
      · repeat' first | (with_reducible assumption) | exact ⟨Nat.le_refl _, fun _ h => h⟩

theorem kept_bootPushGo {s0 s : State} (h : Kept s0 s) : ∀ x0, Kept s0 (bootPushGo s x0) := by
  intro x0
  unfold bootPushGo
  apply kept_ite
  · repeat' first | (with_reducible assumption)
  · extract_lets -merge -useContext -underBinder n_1
    try clear_value n_1
    apply kept_ite
    · repeat' first | (with_reducible assumption) | (with_reducible apply kept_bootFailed)
    · split
      rename_i a_2 a_3 a_4 e_5
      have h_a_3 : Kept s0 a_3 := by
        apply KeptP.eq (e := e_5)
        repeat' first | (with_reducible assumption) | (with_reducible apply kept_readWords)
      clear e_5
      extract_lets -merge -useContext -underBinder img_6 code_7
      try clear_value img_6
      try clear_value code_7
      apply kept_ite
      · repeat' first | (with_reducible assumption) | (with_reducible apply kept_startImage)
      · repeat' first | (with_reducible assumption) | (with_reducible apply kept_bootFailed)

theorem kept_execBootPushGo {s0 s : State} (h : Kept s0 s) : ∀ x0, ∃ t, execBootPushGo x0 s = .next t ∧ Kept s0 t := by
  intro x0
  refine ⟨_, rfl, ?_⟩
  extract_lets -merge -useContext -underBinder n_1
  try clear_value n_1
  apply kept_ite
  · assumption
  · apply kept_ite
    · repeat' first | (with_reducible assumption) | (with_reducible apply kept_bootFailed)
    · split
      · rename_i a0_2 a1_2 e_2
        have h_a0_2 : Kept s0 a0_2 := by
          apply KeptP.eq (e := e_2)
          repeat' first | (with_reducible assumption) | (with_reducible apply kept_readWords)
        clear e_2
        extract_lets -merge -useContext -underBinder img_3 code_4
        try clear_value img_3
        try clear_value code_4
        apply kept_ite
        · repeat' first | (with_reducible assumption) | (with_reducible apply kept_startImage)
        · repeat' first | (with_reducible assumption) | (with_reducible apply kept_bootFailed)

theorem kept_execLaceBootChunkRx {s0 s : State} (h : Kept s0 s) : ∀ x0 x1, ∃ t, execLaceBootChunkRx x0 x1 s = .next t ∧ Kept s0 t := by
  intro x0 x1
  refine ⟨_, rfl, ?_⟩
  apply kept_ite
  · repeat' first | (with_reducible assumption) | (with_reducible apply kept_setBoot) | exact ⟨Nat.le_refl _, fun _ h => h⟩ | simp only [kept_mk_iff]
  · repeat' first | (with_reducible assumption) | exact ⟨Nat.le_refl _, fun _ h => h⟩

theorem kept_execLaceBootRetry {s0 s : State} (h : Kept s0 s) : ∃ t, execLaceBootRetry s = .next t ∧ Kept s0 t := by
  refine ⟨_, rfl, ?_⟩
  extract_lets -merge -useContext -underBinder missing_1
  try clear_value missing_1
  apply kept_ite
  · assumption
  · repeat' first | (with_reducible assumption) | (with_reducible apply kept_laceMsg)

theorem kept_writeRoutes {s0 s : State} (h : Kept s0 s) : Kept s0 (writeRoutes s) := by
  unfold writeRoutes
  repeat' first | (with_reducible assumption) | (with_reducible apply kept_putRtEntry) | (with_reducible apply kept_foldl) | (with_reducible apply keptP_foldl) | dsimp only | intro _ _ _

theorem kept_replayJournal {s0 s : State} (h : Kept s0 s) : Kept s0 (replayJournal s) := by
  unfold replayJournal
  extract_lets -merge -useContext -underBinder e_1
  try clear_value e_1
  split
  · extract_lets -merge -useContext -underBinder s1_2 s2_3
    have h_s1_2 : Kept s0 s1_2 := by
      unfold s1_2
      repeat' first | (with_reducible assumption) | (with_reducible apply kept_setJournal) | (with_reducible apply kept_ite) | simp only [kept_mk_iff] | split
    try clear_value s1_2
    have h_s2_3 : Kept s0 s2_3 := by
      unfold s2_3
      repeat' first | (with_reducible assumption) | (with_reducible apply kept_openSeg) | (with_reducible apply kept_wr64) | (with_reducible apply kept_wr)
    try clear_value s2_3
    repeat' first | (with_reducible assumption) | (with_reducible apply kept_raiseI) | (with_reducible apply kept_syncSegs) | (with_reducible apply kept_wrB)

theorem kept_mergeTrip {s0 s : State} (h : Kept s0 s) : ∀ x0 x1, Kept s0 (mergeTrip x0 s x1) := by
  intro x0 x1
  unfold mergeTrip
  extract_lets -merge -useContext -underBinder s1_1
  have h_s1_1 : Kept s0 s1_1 := by
    unfold s1_1
    repeat' first | (with_reducible assumption) | (with_reducible apply kept_append) | (with_reducible apply kept_raise) | (with_reducible apply KeptP.one)
  try clear_value s1_1
  repeat' first | (with_reducible assumption) | (with_reducible apply kept_raiseIf)

theorem kept_mergeTrips {s0 s : State} (h : Kept s0 s) : Kept s0 (mergeTrips s) := by
  unfold mergeTrips
  extract_lets -merge -useContext -underBinder last_1 seqs_2 s0_3
  try clear_value last_1
  try clear_value seqs_2
  have h_s0_3 : Kept s0 s0_3 := by
    unfold s0_3
    repeat' first | (with_reducible assumption) | (with_reducible apply kept_wr)
  try clear_value s0_3
  split
  · assumption
  · extract_lets -merge -useContext -underBinder l_4 g_5 s1_6 s2_7 s3_8 s4_9
    try clear_value l_4
    try clear_value g_5
    have h_s1_6 : Kept s0 s1_6 := by
      unfold s1_6
      repeat' first | (with_reducible assumption) | (with_reducible apply kept_setJournal) | simp only [kept_mk_iff]
    try clear_value s1_6
    have h_s2_7 : Kept s0 s2_7 := by
      unfold s2_7
      repeat' first | (with_reducible assumption) | (with_reducible apply kept_append) | (with_reducible apply kept_mergeTrip) | (with_reducible apply kept_foldl) | (with_reducible apply keptP_foldl) | (with_reducible apply KeptP.one) | dsimp only | intro _ _ _
    try clear_value s2_7
    have h_s3_8 : Kept s0 s3_8 := by
      unfold s3_8
      repeat' first | (with_reducible assumption) | (with_reducible apply kept_ledAdd) | (with_reducible apply kept_setLed)
    try clear_value s3_8
    have h_s4_9 : Kept s0 s4_9 := by
      unfold s4_9
      repeat' first | (with_reducible assumption) | (with_reducible apply kept_ledAdd)
    try clear_value s4_9
    repeat' first | (with_reducible assumption) | (with_reducible apply kept_append) | (with_reducible apply KeptP.one)

theorem kept_countPowerCycle {s0 s : State} (h : Kept s0 s) : Kept s0 (countPowerCycle s) := by
  unfold countPowerCycle
  apply kept_ite
  · repeat' first | (with_reducible assumption) | (with_reducible apply kept_ledAdd) | (with_reducible apply kept_setBoot) | exact ⟨Nat.le_refl _, fun _ h => h⟩ | simp only [kept_mk_iff]
  · repeat' first | (with_reducible assumption) | exact ⟨Nat.le_refl _, fun _ h => h⟩

theorem kept_logRepair {s0 s : State} (h : Kept s0 s) : Kept s0 (logRepair s) := by
  unfold logRepair
  split
  · repeat' first | (with_reducible assumption) | exact ⟨Nat.le_refl _, fun _ h => h⟩
  · repeat' first | (with_reducible assumption) | (with_reducible apply kept_log) | (with_reducible apply kept_setBoot) | exact ⟨Nat.le_refl _, fun _ h => h⟩ | simp only [kept_mk_iff]

theorem kept_queueProfile {s0 s : State} (h : Kept s0 s) : Kept s0 (queueProfile s) := by
  unfold queueProfile
  split
  · repeat' first | (with_reducible assumption) | exact ⟨Nat.le_refl _, fun _ h => h⟩
  · apply kept_ite
    · repeat' first | (with_reducible assumption) | (with_reducible apply kept_setBoot) | exact ⟨Nat.le_refl _, fun _ h => h⟩ | simp only [kept_mk_iff]
    · split
      · repeat' first | (with_reducible assumption) | (with_reducible apply kept_setBoot) | exact ⟨Nat.le_refl _, fun _ h => h⟩ | simp only [kept_mk_iff]
      · repeat' first | (with_reducible assumption) | (with_reducible apply kept_setPn) | exact fun h => ⟨h.1, h.2, h.3, h.4⟩ | exact ⟨Nat.le_refl _, fun _ h => h⟩ | simp only [kept_mk_iff]

theorem kept_becomeReady {s0 s : State} (h : Kept s0 s) : Kept s0 (becomeReady s) := by
  unfold becomeReady
  extract_lets -merge -useContext -underBinder s1_1
  have h_s1_1 : Kept s0 s1_1 := by
    unfold s1_1
    repeat' first | (with_reducible assumption) | (with_reducible apply kept_setPhase) | (with_reducible apply kept_wrB) | exact ⟨Nat.le_refl _, fun _ h => h⟩
  try clear_value s1_1
  split
  · extract_lets -merge -useContext -underBinder s2_2
    have h_s2_2 : Kept s0 s2_2 := by
      unfold s2_2
      repeat' first | (with_reducible assumption) | (with_reducible apply kept_setBoot) | exact ⟨Nat.le_refl _, fun _ h => h⟩ | simp only [kept_mk_iff]
    try clear_value s2_2
    apply kept_ite
    · repeat' first | (with_reducible assumption) | (with_reducible apply kept_endHeld) | exact ⟨Nat.le_refl _, fun _ h => h⟩
    · repeat' first | (with_reducible assumption) | (with_reducible apply kept_endHeld) | exact ⟨Nat.le_refl _, fun _ h => h⟩
  · repeat' first | (with_reducible assumption) | (with_reducible apply kept_setBoot) | exact ⟨Nat.le_refl _, fun _ h => h⟩ | simp only [kept_mk_iff]
  · repeat' first | (with_reducible assumption) | exact ⟨Nat.le_refl _, fun _ h => h⟩

theorem kept_bootReady {s0 s : State} (h : Kept s0 s) : Kept s0 (bootReady s) := by
  unfold bootReady
  extract_lets -merge -useContext -underBinder s1_1
  have h_s1_1 : Kept s0 s1_1 := by
    unfold s1_1
    repeat' first | (with_reducible assumption) | (with_reducible apply kept_spareStartup)
  try clear_value s1_1
  apply kept_ite
  · assumption
  · apply kept_ite
    · repeat' first | (with_reducible assumption) | (with_reducible apply kept_becomeReady)
    · assumption

theorem kept_progress {s0 s : State} (h : Kept s0 s) : Kept s0 (progress s) := by
  unfold progress
  repeat' first | (with_reducible assumption) | (with_reducible apply kept_bootReady) | (with_reducible apply kept_settle)

theorem kept_replayAll {s0 s : State} (h : Kept s0 s) : Kept s0 (replayAll s) := by
  unfold replayAll
  extract_lets -merge -useContext -underBinder s1_1 rs_2 s2_3
  have h_s1_1 : Kept s0 s1_1 := by
    unfold s1_1
    repeat' first | (with_reducible assumption) | (with_reducible apply kept_replayJournal) | (with_reducible apply kept_setPhase)
  try clear_value s1_1
  try clear_value rs_2
  have h_s2_3 : Kept s0 s2_3 := by
    unfold s2_3
    repeat' first | (with_reducible assumption) | (with_reducible apply kept_setStore) | (with_reducible apply kept_ite) | simp only [kept_mk_iff] | split
  try clear_value s2_3
  repeat' first | (with_reducible assumption) | (with_reducible apply kept_countPowerCycle) | (with_reducible apply kept_logRepair) | (with_reducible apply kept_mergeTrips)

theorem kept_urvarStartup {s0 s : State} (h : Kept s0 s) : Kept s0 (urvarStartup s) := by
  unfold urvarStartup
  extract_lets -merge -useContext -underBinder s1_1 s2_2
  have h_s1_1 : Kept s0 s1_1 := by
    unfold s1_1
    repeat' first | (with_reducible assumption) | (with_reducible apply kept_replayAll) | (with_reducible apply kept_writeRoutes) | (with_reducible apply kept_ite) | split
  try clear_value s1_1
  have h_s2_2 : Kept s0 s2_2 := by
    unfold s2_2
    repeat' first | (with_reducible assumption) | (with_reducible apply kept_measure) | (with_reducible apply kept_measureProfile) | (with_reducible apply kept_setPhase)
  try clear_value s2_2
  apply kept_ite
  · assumption
  · apply kept_ite
    · repeat' first | (with_reducible assumption) | (with_reducible apply kept_progress)
    · repeat' first | (with_reducible assumption) | (with_reducible apply kept_progress) | (with_reducible apply kept_queueProfile) | (with_reducible apply kept_ite) | split

theorem kept_execUrvarStartup {s0 s : State} (h : Kept s0 s) : ∃ t, execUrvarStartup s = .next t ∧ Kept s0 t := by
  refine ⟨_, rfl, ?_⟩
  repeat' first | (with_reducible assumption) | (with_reducible apply kept_urvarStartup)

theorem kept_fallBack {s0 s : State} (h : Kept s0 s) : Kept s0 (fallBack s) := by
  unfold fallBack
  extract_lets -merge -useContext -underBinder s1_1 s2_2 s3_3
  have h_s1_1 : Kept s0 s1_1 := by
    unfold s1_1
    repeat' first | (with_reducible assumption) | (with_reducible apply kept_setBoot) | exact ⟨Nat.le_refl _, fun _ h => h⟩ | simp only [kept_mk_iff]
  try clear_value s1_1
  have h_s2_2 : Kept s0 s2_2 := by
    unfold s2_2
    repeat' first | (with_reducible assumption) | (with_reducible apply kept_wrB) | exact ⟨Nat.le_refl _, fun _ h => h⟩
  try clear_value s2_2
  have h_s3_3 : Kept s0 s3_3 := by
    unfold s3_3
    apply kept_ite
    · repeat' first | (with_reducible assumption) | (with_reducible apply kept_wrB) | exact ⟨Nat.le_refl _, fun _ h => h⟩
    · repeat' first | (with_reducible assumption) | exact ⟨Nat.le_refl _, fun _ h => h⟩
  try clear_value s3_3
  repeat' first | (with_reducible assumption) | (with_reducible apply kept_restartMp) | (with_reducible apply kept_showImage) | exact ⟨Nat.le_refl _, fun _ h => h⟩

theorem kept_execFwActivateFallback {s0 s : State} (h : Kept s0 s) : ∃ t, execFwActivateFallback s = .next t ∧ Kept s0 t := by
  refine ⟨_, rfl, ?_⟩
  apply kept_ite
  · repeat' first | (with_reducible assumption) | (with_reducible apply kept_fallBack)
  · assumption

theorem kept_dropExecuting {s0 s : State} (h : Kept s0 s) : Kept s0 (dropExecuting s) := by
  unfold dropExecuting
  dsimp only
  refine kept_foldl _ (fun a x k => kept_subDrain (kept_setHost k _) _) _ (kept_setLace (kept_setPn h _ fun x => ?_) _)
  exact x.sub rfl rfl rfl List.filter_sublist

theorem kept_pairRestart {s0 s : State} (h : Kept s0 s) : ∀ x0 x1, Kept s0 (pairRestart s x0 x1) := by
  intro x0 x1
  unfold pairRestart
  extract_lets -merge -useContext -underBinder d_1 n_2 s1_3 key_4 s2_5
  try clear_value d_1
  try clear_value n_2
  have h_s1_3 : Kept s0 s1_3 := by
    unfold s1_3
    repeat' first | (with_reducible assumption) | (with_reducible apply kept_ite) | (with_reducible apply KeptP.one) | (with_reducible apply KeptQ.one) | simp only [kept_mk_iff] | split | dsimp only | intro _ _ _ | (with_reducible apply keptP_mk) | (with_reducible apply keptQ_mk)
  try clear_value s1_3
  try clear_value key_4
  have h_s2_5 : Kept s0 s2_5 := by
    unfold s2_5
    apply kept_ite
    · assumption
    · repeat' first | (with_reducible assumption) | (with_reducible apply kept_log)
  try clear_value s2_5
  apply kept_ite
  · assumption
  · apply kept_ite
    · repeat' first | (with_reducible assumption) | (with_reducible apply kept_fallBack)
    · apply kept_ite
      · assumption
      · apply kept_ite
        · repeat' first | (with_reducible assumption) | (with_reducible apply kept_dropExecuting) | (with_reducible apply kept_restartMp)
        · apply kept_ite
          · repeat' first | (with_reducible assumption) | (with_reducible apply kept_dropExecuting) | (with_reducible apply kept_setPhase) | (with_reducible apply kept_setPn) | exact fun h => ⟨h.1, h.2, h.3, h.4⟩ | simp only [kept_mk_iff]
          · assumption

theorem kept_execMpWatchdogExpiry {s0 s : State} (h : Kept s0 s) : ∀ x0, ∃ t, execMpWatchdogExpiry x0 s = .next t ∧ Kept s0 t := by
  intro x0
  refine ⟨_, rfl, ?_⟩
  repeat' first | (with_reducible assumption) | (with_reducible apply kept_pairRestart)

theorem kept_execLockstepMismatch {s0 s : State} (h : Kept s0 s) : ∀ x0, ∃ t, execLockstepMismatch x0 s = .next t ∧ Kept s0 t := by
  intro x0
  refine ⟨_, rfl, ?_⟩
  repeat' first | (with_reducible assumption) | (with_reducible apply kept_pairRestart)

theorem kept_execChallengeExpiry {s0 s : State} (h : Kept s0 s) : ∀ x0, ∃ t, execChallengeExpiry x0 s = .next t ∧ Kept s0 t := by
  intro x0
  refine ⟨_, rfl, ?_⟩
  repeat' first | (with_reducible assumption) | (with_reducible apply kept_spend)

theorem kept_execDebugRequest {s0 s : State} (h : Kept s0 s) : ∀ x0, ∃ t, execDebugRequest x0 s = .next t ∧ Kept s0 t := by
  intro x0
  refine ⟨_, rfl, ?_⟩
  extract_lets -merge -useContext -underBinder open__1 c_2
  try clear_value open__1
  try clear_value c_2
  apply kept_ite
  · assumption
  · repeat' first | (with_reducible assumption) | (with_reducible apply kept_putCore) | (with_reducible apply kept_wakeDomain) | simp only [kept_mk_iff]

end Sys2Proof.Machine
end

