-- ==== Sys2Proof/Laws/KeptAccess.lean ====
section
/-! SUPPORT. What each operation of Machine/Access.lean keeps. -/

set_option linter.unreachableTactic false
set_option linter.unusedTactic false
set_option linter.unusedSimpArgs false
set_option linter.unusedVariables false

namespace Sys2Proof.Machine

theorem kept_laneCtlWrite {s0 s : State} (h : Kept s0 s) : ∀ x0 x1, Kept s0 (laneCtlWrite s x0 x1) := by
  intro x0 x1
  unfold laneCtlWrite
  repeat' first | (with_reducible assumption) | (with_reducible apply kept_laneApply)

theorem kept_injRegWrite {s0 s : State} (h : Kept s0 s) (r : Reg) (u : Nat) (v : W32) {act : State → State} (k : ∀ t, Kept s0 t → Kept s0 (act t)) :
    Kept s0 (injRegWrite s r u v act) := by
  unfold injRegWrite
  exact kept_ite (k _ h) (kept_ite (kept_wr h ..) h)

theorem kept_laneWrite {s0 s : State} (h : Kept s0 s) : ∀ x0 x1 x2, Kept s0 (laneWrite s x0 x1 x2) := by
  intro x0 x1 x2
  unfold laneWrite
  apply kept_ite
  · repeat' first | (with_reducible assumption)
  · apply kept_ite
    · extract_lets -merge -useContext -underBinder s1_1
      have h_s1_1 : Kept s0 s1_1 := by
        unfold s1_1
        repeat' first | (with_reducible assumption) | (with_reducible apply kept_laneCtlWrite)
      try clear_value s1_1
      apply kept_lanesMoved
      apply kept_ite
      · repeat' first | (with_reducible assumption) | (with_reducible apply kept_retrainCmd)
      · repeat' first | (with_reducible assumption)
    · apply kept_ite
      · repeat' first | (with_reducible assumption) | (with_reducible apply kept_lanesMoved) | (with_reducible apply kept_injRegWrite) | intro _ _ | (with_reducible apply kept_laneInjArm)
      · apply kept_ite
        · repeat' first | (with_reducible assumption) | (with_reducible apply kept_lanesMoved) | (with_reducible apply kept_testWrite)
        · repeat' first | (with_reducible assumption)

theorem kept_cmaWrite {s0 s : State} (h : Kept s0 s) : ∀ x0 x1 x2, Kept s0 (cmaWrite s x0 x1 x2) := by
  intro x0 x1 x2
  unfold cmaWrite
  apply kept_ite
  · repeat' first | (with_reducible assumption)
  · apply kept_ite
    · apply kept_ite
      · repeat' first | (with_reducible assumption) | (with_reducible apply kept_cmaInjWrite)
      · repeat' first | (with_reducible assumption)
    · extract_lets -merge -useContext -underBinder s1_1
      have h_s1_1 : Kept s0 s1_1 := by
        unfold s1_1
        repeat' first | (with_reducible assumption) | (with_reducible apply kept_capSync) | (with_reducible apply kept_cmaSync) | (with_reducible apply kept_calDueCheck)
      try clear_value s1_1
      apply kept_ite
      · repeat' first | (with_reducible assumption) | (with_reducible apply kept_calibrate) | (with_reducible apply KeptP.one)
      · repeat' first | (with_reducible assumption)

theorem kept_unitTake {s0 s : State} (h : Kept s0 s) : ∀ x0 x1 x2, Kept s0 (unitTake s x0 x1 x2) := by
  intro x0 x1 x2
  unfold unitTake
  split
  · rename_i a_1 a_2 a_3 e_4
    apply kept_ite
    · repeat' first | (with_reducible assumption) | (with_reducible apply kept_ipiWrite)
    · repeat' first | (with_reducible assumption)
  · rename_i a_5 e_6
    split
    · rename_i a_7 e_8
      repeat' first | (with_reducible assumption)
    · rename_i a_9 a_10 a_11 a_12 e_13
      apply kept_ite
      · extract_lets -merge -useContext -underBinder s1_14
        have h_s1_14 : Kept s0 s1_14 := by
          unfold s1_14
          apply kept_ite
          · repeat' first | (with_reducible assumption) | (with_reducible apply kept_dmaStartBit)
          · repeat' first | (with_reducible assumption)
        try clear_value s1_14
        apply kept_ite
        · repeat' first | (with_reducible assumption) | (with_reducible apply kept_dmaAbortBit)
        · repeat' first | (with_reducible assumption)
      · apply kept_ite
        · repeat' first | (with_reducible assumption) | (with_reducible apply kept_qpCfgWrite)
        · apply kept_ite
          · apply kept_ite
            · repeat' first | (with_reducible assumption) | (with_reducible apply kept_shankResume)
            · repeat' first | (with_reducible assumption)
          · apply kept_ite
            · apply kept_ite
              · repeat' first | (with_reducible assumption) | (with_reducible apply kept_bootPushGo)
              · repeat' first | (with_reducible assumption)
            · apply kept_ite
              · repeat' first | (with_reducible assumption)
              · apply kept_ite
                · repeat' first | (with_reducible assumption) | (with_reducible apply kept_laneWrite)
                · apply kept_ite
                  · apply kept_ite
                    · repeat' first | (with_reducible assumption) | (with_reducible apply kept_lanesMoved) | (with_reducible apply kept_injRegWrite) | intro _ _ | (with_reducible apply kept_quadInjArm)
                    · repeat' first | (with_reducible assumption)
                  · apply kept_ite
                    · apply kept_ite
                      · repeat' first | (with_reducible assumption) | (with_reducible apply kept_injRegWrite) | intro _ _ | (with_reducible apply kept_ivrInjArm)
                      · repeat' first | (with_reducible assumption)
                    · apply kept_ite
                      · apply kept_ite
                        · repeat' first | (with_reducible assumption) | (with_reducible apply kept_injRegWrite) | intro _ _ | (with_reducible apply kept_sensorInjArm)
                        · repeat' first | (with_reducible assumption)
                      · apply kept_ite
                        · repeat' first | (with_reducible assumption) | (with_reducible apply kept_cmaWrite)
                        · repeat' first | (with_reducible assumption)

theorem kept_takePosted {s0 s : State} (h : Kept s0 s) : Kept s0 (takePosted s) := by
  unfold takePosted
  refine kept_foldl _ ?_ _ ?_
  · intro a_1 x_2 h_3
    repeat' first | (with_reducible assumption) | (with_reducible apply kept_unitTake) | (with_reducible apply KeptP.one) | (with_reducible apply KeptQ.one)
  · repeat' first | (with_reducible assumption) | simp only [kept_mk_iff]

theorem kept_registerWrite {s0 s : State} (h : Kept s0 s) : ∀ x0 x1 x2, Kept s0 (registerWrite s x0 x1 x2) := by
  intro x0 x1 x2
  unfold registerWrite
  extract_lets -merge -useContext -underBinder s1_1
  have h_s1_1 : Kept s0 s1_1 := by
    unfold s1_1
    repeat' first | (with_reducible assumption) | (with_reducible apply kept_regTake)
  try clear_value s1_1
  apply kept_ite
  · repeat' first | (with_reducible assumption)
  · repeat' first | (with_reducible assumption) | (with_reducible apply kept_unitTake)

theorem kept_bar0Write {s0 s : State} (h : Kept s0 s) : ∀ x0 x1, Kept s0 (bar0Write s x0 x1) := by
  intro x0 x1
  unfold bar0Write
  apply kept_ite
  · repeat' first | (with_reducible assumption) | (with_reducible apply kept_setHost)
  · extract_lets -merge -useContext -underBinder k_1
    try clear_value k_1
    apply kept_ite
    · repeat' first | (with_reducible assumption) | (with_reducible apply kept_hostWrite) | intro _ _ | (with_reducible apply kept_registerWrite)
    · repeat' first | (with_reducible assumption) | (with_reducible apply kept_registerWrite)

theorem kept_execRegisterWrite {s0 s : State} (h : Kept s0 s) : ∀ x0 x1 x2, ∃ t, execRegisterWrite x0 x1 x2 s = .next t ∧ Kept s0 t := by
  intro x0 x1 x2
  unfold execRegisterWrite
  refine ⟨_, rfl, ?_⟩
  apply kept_ite
  · repeat' first | (with_reducible assumption) | (with_reducible apply kept_bar0Write)
  · repeat' first | (with_reducible assumption) | (with_reducible apply kept_registerWrite)

theorem kept_engineStart {s0 s : State} (h : Kept s0 s) : ∀ x0, Kept s0 (engineStart s x0) := by
  intro x0
  unfold engineStart
  split
  · repeat' first | (with_reducible assumption) | (with_reducible apply kept_cmaStart) | (with_reducible apply kept_coreTaskStart) | (with_reducible apply kept_dmaTaskStart) | (with_reducible apply kept_fftStart) | (with_reducible apply kept_shankStart) | (with_reducible apply kept_ite) | split
  · repeat' first | (with_reducible assumption) | (with_reducible apply kept_poolStart)
  · apply kept_ite
    · repeat' first | (with_reducible assumption) | (with_reducible apply kept_fhtxStart)
    · repeat' first | (with_reducible assumption) | (with_reducible apply kept_fhrxStart)
  · repeat' first | (with_reducible assumption) | (with_reducible apply kept_notifyStart)

theorem kept_execEngineTaskStart {s0 s : State} (h : Kept s0 s) : ∀ x0, ∃ t, execEngineTaskStart x0 s = .next t ∧ Kept s0 t := by
  intro x0
  unfold execEngineTaskStart
  refine ⟨_, rfl, ?_⟩
  apply kept_ite
  · repeat' first | (with_reducible assumption) | (with_reducible apply kept_settled) | (with_reducible apply kept_engineStart)
  · repeat' first | (with_reducible assumption)

theorem kept_clockEdge {s0 s : State} (h : Kept s0 s) : Kept s0 (clockEdge s) := by
  unfold clockEdge
  refine kept_foldl _ ?_ _ ?_
  · intro a_1 x_2 h_3
    repeat' first | (with_reducible assumption) | (with_reducible apply kept_shFetch)
  · repeat' first | (with_reducible assumption) | (with_reducible apply kept_progress) | (with_reducible apply kept_takePosted) | simp only [kept_mk_iff]

end Sys2Proof.Machine
end

