-- ==== Sys2Proof/Laws/KeptAwlEyelet.lean ====
section
/-! SUPPORT. What each operation of Machine/AwlEyelet.lean keeps. -/

set_option linter.unreachableTactic false
set_option linter.unusedTactic false
set_option linter.unusedSimpArgs false
set_option linter.unusedVariables false

namespace Sys2Proof.Machine

theorem kept_execEyBfpUnpack {s0 s : State} (h : Kept s0 s) : ∀ x0 x1 x2 x3 x4, ∃ t, execEyBfpUnpack x0 x1 x2 x3 x4 s = .next t ∧ Kept s0 t := by
  intro x0 x1 x2 x3 x4
  refine ⟨_, rfl, ?_⟩
  repeat' first | (with_reducible assumption) | (with_reducible apply kept_runV) | simp only [kept_mk_iff]

theorem kept_execEyBfpPack {s0 s : State} (h : Kept s0 s) : ∀ x0 x1 x2 x3 x4, ∃ t, execEyBfpPack x0 x1 x2 x3 x4 s = .next t ∧ Kept s0 t := by
  intro x0 x1 x2 x3 x4
  refine ⟨_, rfl, ?_⟩
  repeat' first | (with_reducible assumption) | (with_reducible apply kept_runV) | simp only [kept_mk_iff]

theorem kept_execEySeqStep {s0 s : State} (h : Kept s0 s) : ∀ x0 x1 x2, ∃ t, execEySeqStep x0 x1 x2 s = .next t ∧ Kept s0 t := by
  intro x0 x1 x2
  refine ⟨_, rfl, ?_⟩
  repeat' first | (with_reducible assumption) | (with_reducible apply kept_runV) | simp only [kept_mk_iff]

theorem kept_execEySeqInit {s0 s : State} (h : Kept s0 s) : ∀ x0 x1 x2, ∃ t, execEySeqInit x0 x1 x2 s = .next t ∧ Kept s0 t := by
  intro x0 x1 x2
  refine ⟨_, rfl, ?_⟩
  repeat' first | (with_reducible assumption) | (with_reducible apply kept_runV) | simp only [kept_mk_iff]

theorem kept_execEySeqSkip {s0 s : State} (h : Kept s0 s) : ∀ x0 x1 x2 x3, ∃ t, execEySeqSkip x0 x1 x2 x3 s = .next t ∧ Kept s0 t := by
  intro x0 x1 x2 x3
  refine ⟨_, rfl, ?_⟩
  repeat' first | (with_reducible assumption) | (with_reducible apply kept_runV) | simp only [kept_mk_iff]

theorem kept_execEyCrc {s0 s : State} (h : Kept s0 s) : ∀ x0 x1 x2 x3 x4 x5, ∃ t, execEyCrc x0 x1 x2 x3 x4 x5 s = .next t ∧ Kept s0 t := by
  intro x0 x1 x2 x3 x4 x5
  refine ⟨_, rfl, ?_⟩
  repeat' first | (with_reducible assumption) | (with_reducible apply kept_runV) | simp only [kept_mk_iff]

theorem kept_execEyDemap {s0 s : State} (h : Kept s0 s) : ∀ x0 x1 x2 x3 x4 x5, ∃ t, execEyDemap x0 x1 x2 x3 x4 x5 s = .next t ∧ Kept s0 t := by
  intro x0 x1 x2 x3 x4 x5
  refine ⟨_, rfl, ?_⟩
  repeat' first | (with_reducible assumption) | (with_reducible apply kept_runV) | simp only [kept_mk_iff]

theorem kept_execEyPhase {s0 s : State} (h : Kept s0 s) : ∀ x0 x1 x2 x3 x4 x5 x6, ∃ t, execEyPhase x0 x1 x2 x3 x4 x5 x6 s = .next t ∧ Kept s0 t := by
  intro x0 x1 x2 x3 x4 x5 x6
  refine ⟨_, rfl, ?_⟩
  repeat' first | (with_reducible assumption) | (with_reducible apply kept_runV) | simp only [kept_mk_iff]

end Sys2Proof.Machine
end

