-- ==== Sys2Proof/Laws/KeptAwlMemory.lean ====
section
/-! SUPPORT. What each operation of Machine/AwlMemory.lean keeps. -/

set_option linter.unreachableTactic false
set_option linter.unusedTactic false
set_option linter.unusedSimpArgs false
set_option linter.unusedVariables false

namespace Sys2Proof.Machine

theorem kept_execLdw {s0 s : State} (h : Kept s0 s) : ∀ x0 x1 x2 x3 x4 x5 x6, ∃ t, execLdw x0 x1 x2 x3 x4 x5 x6 s = .next t ∧ Kept s0 t := by
  intro x0 x1 x2 x3 x4 x5 x6
  refine ⟨_, rfl, ?_⟩
  repeat' first | (with_reducible assumption) | (with_reducible apply kept_runM)

theorem kept_execLdh {s0 s : State} (h : Kept s0 s) : ∀ x0 x1 x2 x3 x4 x5 x6, ∃ t, execLdh x0 x1 x2 x3 x4 x5 x6 s = .next t ∧ Kept s0 t := by
  intro x0 x1 x2 x3 x4 x5 x6
  refine ⟨_, rfl, ?_⟩
  repeat' first | (with_reducible assumption) | (with_reducible apply kept_runM)

theorem kept_execLdhu {s0 s : State} (h : Kept s0 s) : ∀ x0 x1 x2 x3 x4 x5 x6, ∃ t, execLdhu x0 x1 x2 x3 x4 x5 x6 s = .next t ∧ Kept s0 t := by
  intro x0 x1 x2 x3 x4 x5 x6
  refine ⟨_, rfl, ?_⟩
  repeat' first | (with_reducible assumption) | (with_reducible apply kept_runM)

theorem kept_execLdb {s0 s : State} (h : Kept s0 s) : ∀ x0 x1 x2 x3 x4 x5 x6, ∃ t, execLdb x0 x1 x2 x3 x4 x5 x6 s = .next t ∧ Kept s0 t := by
  intro x0 x1 x2 x3 x4 x5 x6
  refine ⟨_, rfl, ?_⟩
  repeat' first | (with_reducible assumption) | (with_reducible apply kept_runM)

theorem kept_execLdbu {s0 s : State} (h : Kept s0 s) : ∀ x0 x1 x2 x3 x4 x5 x6, ∃ t, execLdbu x0 x1 x2 x3 x4 x5 x6 s = .next t ∧ Kept s0 t := by
  intro x0 x1 x2 x3 x4 x5 x6
  refine ⟨_, rfl, ?_⟩
  repeat' first | (with_reducible assumption) | (with_reducible apply kept_runM)

theorem kept_execLdp {s0 s : State} (h : Kept s0 s) : ∀ x0 x1 x2 x3 x4 x5 x6, ∃ t, execLdp x0 x1 x2 x3 x4 x5 x6 s = .next t ∧ Kept s0 t := by
  intro x0 x1 x2 x3 x4 x5 x6
  refine ⟨_, rfl, ?_⟩
  repeat' first | (with_reducible assumption) | (with_reducible apply kept_runM)

theorem kept_execStw {s0 s : State} (h : Kept s0 s) : ∀ x0 x1 x2 x3 x4 x5 x6, ∃ t, execStw x0 x1 x2 x3 x4 x5 x6 s = .next t ∧ Kept s0 t := by
  intro x0 x1 x2 x3 x4 x5 x6
  refine ⟨_, rfl, ?_⟩
  repeat' first | (with_reducible assumption) | (with_reducible apply kept_runM)

theorem kept_execSth {s0 s : State} (h : Kept s0 s) : ∀ x0 x1 x2 x3 x4 x5 x6, ∃ t, execSth x0 x1 x2 x3 x4 x5 x6 s = .next t ∧ Kept s0 t := by
  intro x0 x1 x2 x3 x4 x5 x6
  refine ⟨_, rfl, ?_⟩
  repeat' first | (with_reducible assumption) | (with_reducible apply kept_runM)

theorem kept_execStb {s0 s : State} (h : Kept s0 s) : ∀ x0 x1 x2 x3 x4 x5 x6, ∃ t, execStb x0 x1 x2 x3 x4 x5 x6 s = .next t ∧ Kept s0 t := by
  intro x0 x1 x2 x3 x4 x5 x6
  refine ⟨_, rfl, ?_⟩
  repeat' first | (with_reducible assumption) | (with_reducible apply kept_runM)

theorem kept_execStp {s0 s : State} (h : Kept s0 s) : ∀ x0 x1 x2 x3 x4 x5 x6, ∃ t, execStp x0 x1 x2 x3 x4 x5 x6 s = .next t ∧ Kept s0 t := by
  intro x0 x1 x2 x3 x4 x5 x6
  refine ⟨_, rfl, ?_⟩
  repeat' first | (with_reducible assumption) | (with_reducible apply kept_runM)

theorem kept_execLdv {s0 s : State} (h : Kept s0 s) : ∀ x0 x1 x2 x3 x4 x5 x6 x7, ∃ t, execLdv x0 x1 x2 x3 x4 x5 x6 x7 s = .next t ∧ Kept s0 t := by
  intro x0 x1 x2 x3 x4 x5 x6 x7
  refine ⟨_, rfl, ?_⟩
  repeat' first | (with_reducible assumption) | (with_reducible apply kept_runM)

theorem kept_execStv {s0 s : State} (h : Kept s0 s) : ∀ x0 x1 x2 x3 x4 x5 x6 x7, ∃ t, execStv x0 x1 x2 x3 x4 x5 x6 x7 s = .next t ∧ Kept s0 t := by
  intro x0 x1 x2 x3 x4 x5 x6 x7
  refine ⟨_, rfl, ?_⟩
  repeat' first | (with_reducible assumption) | (with_reducible apply kept_runM)

theorem kept_execLdvBc {s0 s : State} (h : Kept s0 s) : ∀ x0 x1 x2 x3 x4 x5 x6 x7, ∃ t, execLdvBc x0 x1 x2 x3 x4 x5 x6 x7 s = .next t ∧ Kept s0 t := by
  intro x0 x1 x2 x3 x4 x5 x6 x7
  refine ⟨_, rfl, ?_⟩
  repeat' first | (with_reducible assumption) | (with_reducible apply kept_runM)

theorem kept_execLda {s0 s : State} (h : Kept s0 s) : ∀ x0 x1 x2 x3 x4 x5 x6, ∃ t, execLda x0 x1 x2 x3 x4 x5 x6 s = .next t ∧ Kept s0 t := by
  intro x0 x1 x2 x3 x4 x5 x6
  refine ⟨_, rfl, ?_⟩
  repeat' first | (with_reducible assumption) | (with_reducible apply kept_runM)

theorem kept_execSta {s0 s : State} (h : Kept s0 s) : ∀ x0 x1 x2 x3 x4 x5 x6, ∃ t, execSta x0 x1 x2 x3 x4 x5 x6 s = .next t ∧ Kept s0 t := by
  intro x0 x1 x2 x3 x4 x5 x6
  refine ⟨_, rfl, ?_⟩
  repeat' first | (with_reducible assumption) | (with_reducible apply kept_runM)

theorem kept_execVgather {s0 s : State} (h : Kept s0 s) : ∀ x0 x1 x2 x3 x4 x5 x6, ∃ t, execVgather x0 x1 x2 x3 x4 x5 x6 s = .next t ∧ Kept s0 t := by
  intro x0 x1 x2 x3 x4 x5 x6
  refine ⟨_, rfl, ?_⟩
  repeat' first | (with_reducible assumption) | (with_reducible apply kept_runM) | simp only [kept_mk_iff]

theorem kept_execVscatter {s0 s : State} (h : Kept s0 s) : ∀ x0 x1 x2 x3 x4 x5 x6, ∃ t, execVscatter x0 x1 x2 x3 x4 x5 x6 s = .next t ∧ Kept s0 t := by
  intro x0 x1 x2 x3 x4 x5 x6
  refine ⟨_, rfl, ?_⟩
  repeat' first | (with_reducible assumption) | (with_reducible apply kept_runM) | simp only [kept_mk_iff]

theorem kept_execVlds {s0 s : State} (h : Kept s0 s) : ∀ x0 x1 x2 x3 x4 x5 x6, ∃ t, execVlds x0 x1 x2 x3 x4 x5 x6 s = .next t ∧ Kept s0 t := by
  intro x0 x1 x2 x3 x4 x5 x6
  refine ⟨_, rfl, ?_⟩
  repeat' first | (with_reducible assumption) | (with_reducible apply kept_runM) | simp only [kept_mk_iff]

theorem kept_execVsts {s0 s : State} (h : Kept s0 s) : ∀ x0 x1 x2 x3 x4 x5 x6, ∃ t, execVsts x0 x1 x2 x3 x4 x5 x6 s = .next t ∧ Kept s0 t := by
  intro x0 x1 x2 x3 x4 x5 x6
  refine ⟨_, rfl, ?_⟩
  repeat' first | (with_reducible assumption) | (with_reducible apply kept_runM) | simp only [kept_mk_iff]

end Sys2Proof.Machine
end

