-- ==== Sys2Proof/Laws/KeptAwlScalar.lean ====
section
/-! SUPPORT. What each operation of Machine/AwlScalar.lean keeps. -/

set_option linter.unreachableTactic false
set_option linter.unusedTactic false
set_option linter.unusedSimpArgs false
set_option linter.unusedVariables false

namespace Sys2Proof.Machine

theorem kept_execAdd {s0 s : State} (h : Kept s0 s) : ∀ x0 x1 x2 x3, ∃ t, execAdd x0 x1 x2 x3 s = .next t ∧ Kept s0 t := by
  intro x0 x1 x2 x3
  refine ⟨_, rfl, ?_⟩
  repeat' first | (with_reducible assumption) | (with_reducible apply kept_runS) | simp only [kept_mk_iff]

theorem kept_execSub {s0 s : State} (h : Kept s0 s) : ∀ x0 x1 x2 x3, ∃ t, execSub x0 x1 x2 x3 s = .next t ∧ Kept s0 t := by
  intro x0 x1 x2 x3
  refine ⟨_, rfl, ?_⟩
  repeat' first | (with_reducible assumption) | (with_reducible apply kept_runS) | simp only [kept_mk_iff]

theorem kept_execAnd {s0 s : State} (h : Kept s0 s) : ∀ x0 x1 x2 x3, ∃ t, execAnd x0 x1 x2 x3 s = .next t ∧ Kept s0 t := by
  intro x0 x1 x2 x3
  refine ⟨_, rfl, ?_⟩
  repeat' first | (with_reducible assumption) | (with_reducible apply kept_runS) | simp only [kept_mk_iff]

theorem kept_execOr {s0 s : State} (h : Kept s0 s) : ∀ x0 x1 x2 x3, ∃ t, execOr x0 x1 x2 x3 s = .next t ∧ Kept s0 t := by
  intro x0 x1 x2 x3
  refine ⟨_, rfl, ?_⟩
  repeat' first | (with_reducible assumption) | (with_reducible apply kept_runS) | simp only [kept_mk_iff]

theorem kept_execXor {s0 s : State} (h : Kept s0 s) : ∀ x0 x1 x2 x3, ∃ t, execXor x0 x1 x2 x3 s = .next t ∧ Kept s0 t := by
  intro x0 x1 x2 x3
  refine ⟨_, rfl, ?_⟩
  repeat' first | (with_reducible assumption) | (with_reducible apply kept_runS) | simp only [kept_mk_iff]

theorem kept_execSll {s0 s : State} (h : Kept s0 s) : ∀ x0 x1 x2 x3, ∃ t, execSll x0 x1 x2 x3 s = .next t ∧ Kept s0 t := by
  intro x0 x1 x2 x3
  refine ⟨_, rfl, ?_⟩
  repeat' first | (with_reducible assumption) | (with_reducible apply kept_runS) | simp only [kept_mk_iff]

theorem kept_execSrl {s0 s : State} (h : Kept s0 s) : ∀ x0 x1 x2 x3, ∃ t, execSrl x0 x1 x2 x3 s = .next t ∧ Kept s0 t := by
  intro x0 x1 x2 x3
  refine ⟨_, rfl, ?_⟩
  repeat' first | (with_reducible assumption) | (with_reducible apply kept_runS) | simp only [kept_mk_iff]

theorem kept_execSra {s0 s : State} (h : Kept s0 s) : ∀ x0 x1 x2 x3, ∃ t, execSra x0 x1 x2 x3 s = .next t ∧ Kept s0 t := by
  intro x0 x1 x2 x3
  refine ⟨_, rfl, ?_⟩
  repeat' first | (with_reducible assumption) | (with_reducible apply kept_runS) | simp only [kept_mk_iff]

theorem kept_execSlt {s0 s : State} (h : Kept s0 s) : ∀ x0 x1 x2 x3, ∃ t, execSlt x0 x1 x2 x3 s = .next t ∧ Kept s0 t := by
  intro x0 x1 x2 x3
  refine ⟨_, rfl, ?_⟩
  repeat' first | (with_reducible assumption) | (with_reducible apply kept_runS) | simp only [kept_mk_iff]

theorem kept_execSltu {s0 s : State} (h : Kept s0 s) : ∀ x0 x1 x2 x3, ∃ t, execSltu x0 x1 x2 x3 s = .next t ∧ Kept s0 t := by
  intro x0 x1 x2 x3
  refine ⟨_, rfl, ?_⟩
  repeat' first | (with_reducible assumption) | (with_reducible apply kept_runS) | simp only [kept_mk_iff]

theorem kept_execMin {s0 s : State} (h : Kept s0 s) : ∀ x0 x1 x2 x3, ∃ t, execMin x0 x1 x2 x3 s = .next t ∧ Kept s0 t := by
  intro x0 x1 x2 x3
  refine ⟨_, rfl, ?_⟩
  repeat' first | (with_reducible assumption) | (with_reducible apply kept_runS) | simp only [kept_mk_iff]

theorem kept_execMax {s0 s : State} (h : Kept s0 s) : ∀ x0 x1 x2 x3, ∃ t, execMax x0 x1 x2 x3 s = .next t ∧ Kept s0 t := by
  intro x0 x1 x2 x3
  refine ⟨_, rfl, ?_⟩
  repeat' first | (with_reducible assumption) | (with_reducible apply kept_runS) | simp only [kept_mk_iff]

theorem kept_execMinu {s0 s : State} (h : Kept s0 s) : ∀ x0 x1 x2 x3, ∃ t, execMinu x0 x1 x2 x3 s = .next t ∧ Kept s0 t := by
  intro x0 x1 x2 x3
  refine ⟨_, rfl, ?_⟩
  repeat' first | (with_reducible assumption) | (with_reducible apply kept_runS) | simp only [kept_mk_iff]

theorem kept_execMaxu {s0 s : State} (h : Kept s0 s) : ∀ x0 x1 x2 x3, ∃ t, execMaxu x0 x1 x2 x3 s = .next t ∧ Kept s0 t := by
  intro x0 x1 x2 x3
  refine ⟨_, rfl, ?_⟩
  repeat' first | (with_reducible assumption) | (with_reducible apply kept_runS) | simp only [kept_mk_iff]

theorem kept_execAdds {s0 s : State} (h : Kept s0 s) : ∀ x0 x1 x2 x3, ∃ t, execAdds x0 x1 x2 x3 s = .next t ∧ Kept s0 t := by
  intro x0 x1 x2 x3
  refine ⟨_, rfl, ?_⟩
  repeat' first | (with_reducible assumption) | (with_reducible apply kept_runS) | simp only [kept_mk_iff]

theorem kept_execSubs {s0 s : State} (h : Kept s0 s) : ∀ x0 x1 x2 x3, ∃ t, execSubs x0 x1 x2 x3 s = .next t ∧ Kept s0 t := by
  intro x0 x1 x2 x3
  refine ⟨_, rfl, ?_⟩
  repeat' first | (with_reducible assumption) | (with_reducible apply kept_runS) | simp only [kept_mk_iff]

theorem kept_execAbs {s0 s : State} (h : Kept s0 s) : ∀ x0 x1 x2, ∃ t, execAbs x0 x1 x2 s = .next t ∧ Kept s0 t := by
  intro x0 x1 x2
  refine ⟨_, rfl, ?_⟩
  repeat' first | (with_reducible assumption) | (with_reducible apply kept_runS) | simp only [kept_mk_iff]

theorem kept_execClz {s0 s : State} (h : Kept s0 s) : ∀ x0 x1 x2, ∃ t, execClz x0 x1 x2 s = .next t ∧ Kept s0 t := by
  intro x0 x1 x2
  refine ⟨_, rfl, ?_⟩
  repeat' first | (with_reducible assumption) | (with_reducible apply kept_runS) | simp only [kept_mk_iff]

theorem kept_execCls {s0 s : State} (h : Kept s0 s) : ∀ x0 x1 x2, ∃ t, execCls x0 x1 x2 s = .next t ∧ Kept s0 t := by
  intro x0 x1 x2
  refine ⟨_, rfl, ?_⟩
  repeat' first | (with_reducible assumption) | (with_reducible apply kept_runS) | simp only [kept_mk_iff]

theorem kept_execMul {s0 s : State} (h : Kept s0 s) : ∀ x0 x1 x2 x3, ∃ t, execMul x0 x1 x2 x3 s = .next t ∧ Kept s0 t := by
  intro x0 x1 x2 x3
  refine ⟨_, rfl, ?_⟩
  repeat' first | (with_reducible assumption) | (with_reducible apply kept_runS) | simp only [kept_mk_iff]

theorem kept_execMulh {s0 s : State} (h : Kept s0 s) : ∀ x0 x1 x2 x3, ∃ t, execMulh x0 x1 x2 x3 s = .next t ∧ Kept s0 t := by
  intro x0 x1 x2 x3
  refine ⟨_, rfl, ?_⟩
  repeat' first | (with_reducible assumption) | (with_reducible apply kept_runS) | simp only [kept_mk_iff]

theorem kept_execMulhu {s0 s : State} (h : Kept s0 s) : ∀ x0 x1 x2 x3, ∃ t, execMulhu x0 x1 x2 x3 s = .next t ∧ Kept s0 t := by
  intro x0 x1 x2 x3
  refine ⟨_, rfl, ?_⟩
  repeat' first | (with_reducible assumption) | (with_reducible apply kept_runS) | simp only [kept_mk_iff]

theorem kept_execAddi {s0 s : State} (h : Kept s0 s) : ∀ x0 x1 x2 x3, ∃ t, execAddi x0 x1 x2 x3 s = .next t ∧ Kept s0 t := by
  intro x0 x1 x2 x3
  refine ⟨_, rfl, ?_⟩
  repeat' first | (with_reducible assumption) | (with_reducible apply kept_runS) | simp only [kept_mk_iff]

theorem kept_execAndi {s0 s : State} (h : Kept s0 s) : ∀ x0 x1 x2 x3, ∃ t, execAndi x0 x1 x2 x3 s = .next t ∧ Kept s0 t := by
  intro x0 x1 x2 x3
  refine ⟨_, rfl, ?_⟩
  repeat' first | (with_reducible assumption) | (with_reducible apply kept_runS) | simp only [kept_mk_iff]

theorem kept_execOri {s0 s : State} (h : Kept s0 s) : ∀ x0 x1 x2 x3, ∃ t, execOri x0 x1 x2 x3 s = .next t ∧ Kept s0 t := by
  intro x0 x1 x2 x3
  refine ⟨_, rfl, ?_⟩
  repeat' first | (with_reducible assumption) | (with_reducible apply kept_runS) | simp only [kept_mk_iff]

theorem kept_execXori {s0 s : State} (h : Kept s0 s) : ∀ x0 x1 x2 x3, ∃ t, execXori x0 x1 x2 x3 s = .next t ∧ Kept s0 t := by
  intro x0 x1 x2 x3
  refine ⟨_, rfl, ?_⟩
  repeat' first | (with_reducible assumption) | (with_reducible apply kept_runS) | simp only [kept_mk_iff]

theorem kept_execSlli {s0 s : State} (h : Kept s0 s) : ∀ x0 x1 x2 x3, ∃ t, execSlli x0 x1 x2 x3 s = .next t ∧ Kept s0 t := by
  intro x0 x1 x2 x3
  refine ⟨_, rfl, ?_⟩
  repeat' first | (with_reducible assumption) | (with_reducible apply kept_runS) | simp only [kept_mk_iff]

theorem kept_execSrli {s0 s : State} (h : Kept s0 s) : ∀ x0 x1 x2 x3, ∃ t, execSrli x0 x1 x2 x3 s = .next t ∧ Kept s0 t := by
  intro x0 x1 x2 x3
  refine ⟨_, rfl, ?_⟩
  repeat' first | (with_reducible assumption) | (with_reducible apply kept_runS) | simp only [kept_mk_iff]

theorem kept_execSrai {s0 s : State} (h : Kept s0 s) : ∀ x0 x1 x2 x3, ∃ t, execSrai x0 x1 x2 x3 s = .next t ∧ Kept s0 t := by
  intro x0 x1 x2 x3
  refine ⟨_, rfl, ?_⟩
  repeat' first | (with_reducible assumption) | (with_reducible apply kept_runS) | simp only [kept_mk_iff]

theorem kept_execRori {s0 s : State} (h : Kept s0 s) : ∀ x0 x1 x2 x3, ∃ t, execRori x0 x1 x2 x3 s = .next t ∧ Kept s0 t := by
  intro x0 x1 x2 x3
  refine ⟨_, rfl, ?_⟩
  repeat' first | (with_reducible assumption) | (with_reducible apply kept_runS) | simp only [kept_mk_iff]

theorem kept_execSlti {s0 s : State} (h : Kept s0 s) : ∀ x0 x1 x2 x3, ∃ t, execSlti x0 x1 x2 x3 s = .next t ∧ Kept s0 t := by
  intro x0 x1 x2 x3
  refine ⟨_, rfl, ?_⟩
  repeat' first | (with_reducible assumption) | (with_reducible apply kept_runS) | simp only [kept_mk_iff]

theorem kept_execLui {s0 s : State} (h : Kept s0 s) : ∀ x0 x1 x2, ∃ t, execLui x0 x1 x2 s = .next t ∧ Kept s0 t := by
  intro x0 x1 x2
  refine ⟨_, rfl, ?_⟩
  repeat' first | (with_reducible assumption) | (with_reducible apply kept_runS) | simp only [kept_mk_iff]

theorem kept_execPadd {s0 s : State} (h : Kept s0 s) : ∀ x0 x1 x2 x3, ∃ t, execPadd x0 x1 x2 x3 s = .next t ∧ Kept s0 t := by
  intro x0 x1 x2 x3
  refine ⟨_, rfl, ?_⟩
  repeat' first | (with_reducible assumption) | (with_reducible apply kept_runS) | simp only [kept_mk_iff]

theorem kept_execPsub {s0 s : State} (h : Kept s0 s) : ∀ x0 x1 x2 x3, ∃ t, execPsub x0 x1 x2 x3 s = .next t ∧ Kept s0 t := by
  intro x0 x1 x2 x3
  refine ⟨_, rfl, ?_⟩
  repeat' first | (with_reducible assumption) | (with_reducible apply kept_runS) | simp only [kept_mk_iff]

theorem kept_execPmov {s0 s : State} (h : Kept s0 s) : ∀ x0 x1 x2, ∃ t, execPmov x0 x1 x2 s = .next t ∧ Kept s0 t := by
  intro x0 x1 x2
  refine ⟨_, rfl, ?_⟩
  repeat' first | (with_reducible assumption) | (with_reducible apply kept_runS) | simp only [kept_mk_iff]

theorem kept_execSmov {s0 s : State} (h : Kept s0 s) : ∀ x0 x1 x2, ∃ t, execSmov x0 x1 x2 s = .next t ∧ Kept s0 t := by
  intro x0 x1 x2
  refine ⟨_, rfl, ?_⟩
  repeat' first | (with_reducible assumption) | (with_reducible apply kept_runS) | simp only [kept_mk_iff]

theorem kept_execPdiff {s0 s : State} (h : Kept s0 s) : ∀ x0 x1 x2 x3, ∃ t, execPdiff x0 x1 x2 x3 s = .next t ∧ Kept s0 t := by
  intro x0 x1 x2 x3
  refine ⟨_, rfl, ?_⟩
  repeat' first | (with_reducible assumption) | (with_reducible apply kept_runS) | simp only [kept_mk_iff]

theorem kept_execPaddi {s0 s : State} (h : Kept s0 s) : ∀ x0 x1 x2 x3, ∃ t, execPaddi x0 x1 x2 x3 s = .next t ∧ Kept s0 t := by
  intro x0 x1 x2 x3
  refine ⟨_, rfl, ?_⟩
  repeat' first | (with_reducible assumption) | (with_reducible apply kept_runS) | simp only [kept_mk_iff]

theorem kept_execBeq {s0 s : State} (h : Kept s0 s) : ∀ x0 x1 x2 x3, ∃ t, execBeq x0 x1 x2 x3 s = .next t ∧ Kept s0 t := by
  intro x0 x1 x2 x3
  refine ⟨_, rfl, ?_⟩
  repeat' first | (with_reducible assumption) | (with_reducible apply kept_runS) | simp only [kept_mk_iff]

theorem kept_execBne {s0 s : State} (h : Kept s0 s) : ∀ x0 x1 x2 x3, ∃ t, execBne x0 x1 x2 x3 s = .next t ∧ Kept s0 t := by
  intro x0 x1 x2 x3
  refine ⟨_, rfl, ?_⟩
  repeat' first | (with_reducible assumption) | (with_reducible apply kept_runS) | simp only [kept_mk_iff]

theorem kept_execBlt {s0 s : State} (h : Kept s0 s) : ∀ x0 x1 x2 x3, ∃ t, execBlt x0 x1 x2 x3 s = .next t ∧ Kept s0 t := by
  intro x0 x1 x2 x3
  refine ⟨_, rfl, ?_⟩
  repeat' first | (with_reducible assumption) | (with_reducible apply kept_runS) | simp only [kept_mk_iff]

theorem kept_execBge {s0 s : State} (h : Kept s0 s) : ∀ x0 x1 x2 x3, ∃ t, execBge x0 x1 x2 x3 s = .next t ∧ Kept s0 t := by
  intro x0 x1 x2 x3
  refine ⟨_, rfl, ?_⟩
  repeat' first | (with_reducible assumption) | (with_reducible apply kept_runS) | simp only [kept_mk_iff]

theorem kept_execBltu {s0 s : State} (h : Kept s0 s) : ∀ x0 x1 x2 x3, ∃ t, execBltu x0 x1 x2 x3 s = .next t ∧ Kept s0 t := by
  intro x0 x1 x2 x3
  refine ⟨_, rfl, ?_⟩
  repeat' first | (with_reducible assumption) | (with_reducible apply kept_runS) | simp only [kept_mk_iff]

theorem kept_execBgeu {s0 s : State} (h : Kept s0 s) : ∀ x0 x1 x2 x3, ∃ t, execBgeu x0 x1 x2 x3 s = .next t ∧ Kept s0 t := by
  intro x0 x1 x2 x3
  refine ⟨_, rfl, ?_⟩
  repeat' first | (with_reducible assumption) | (with_reducible apply kept_runS) | simp only [kept_mk_iff]

theorem kept_execBr {s0 s : State} (h : Kept s0 s) : ∀ x0 x1, ∃ t, execBr x0 x1 s = .next t ∧ Kept s0 t := by
  intro x0 x1
  refine ⟨_, rfl, ?_⟩
  repeat' first | (with_reducible assumption) | (with_reducible apply kept_runS) | simp only [kept_mk_iff]

theorem kept_execCall {s0 s : State} (h : Kept s0 s) : ∀ x0 x1, ∃ t, execCall x0 x1 s = .next t ∧ Kept s0 t := by
  intro x0 x1
  refine ⟨_, rfl, ?_⟩
  repeat' first | (with_reducible assumption) | (with_reducible apply kept_runS) | simp only [kept_mk_iff]

theorem kept_execJr {s0 s : State} (h : Kept s0 s) : ∀ x0 x1, ∃ t, execJr x0 x1 s = .next t ∧ Kept s0 t := by
  intro x0 x1
  refine ⟨_, rfl, ?_⟩
  repeat' first | (with_reducible assumption) | (with_reducible apply kept_runS) | simp only [kept_mk_iff]

theorem kept_execBkany {s0 s : State} (h : Kept s0 s) : ∀ x0 x1 x2, ∃ t, execBkany x0 x1 x2 s = .next t ∧ Kept s0 t := by
  intro x0 x1 x2
  refine ⟨_, rfl, ?_⟩
  repeat' first | (with_reducible assumption) | (with_reducible apply kept_runS) | simp only [kept_mk_iff]

theorem kept_execBknone {s0 s : State} (h : Kept s0 s) : ∀ x0 x1 x2, ∃ t, execBknone x0 x1 x2 s = .next t ∧ Kept s0 t := by
  intro x0 x1 x2
  refine ⟨_, rfl, ?_⟩
  repeat' first | (with_reducible assumption) | (with_reducible apply kept_runS) | simp only [kept_mk_iff]

theorem kept_execCsrr {s0 s : State} (h : Kept s0 s) : ∀ x0 x1 x2, ∃ t, execCsrr x0 x1 x2 s = .next t ∧ Kept s0 t := by
  intro x0 x1 x2
  refine ⟨_, rfl, ?_⟩
  repeat' first | (with_reducible assumption) | (with_reducible apply kept_runS) | simp only [kept_mk_iff]

theorem kept_execCsrw {s0 s : State} (h : Kept s0 s) : ∀ x0 x1 x2, ∃ t, execCsrw x0 x1 x2 s = .next t ∧ Kept s0 t := by
  intro x0 x1 x2
  refine ⟨_, rfl, ?_⟩
  repeat' first | (with_reducible assumption) | (with_reducible apply kept_runS) | simp only [kept_mk_iff]

theorem kept_execCsrs {s0 s : State} (h : Kept s0 s) : ∀ x0 x1 x2, ∃ t, execCsrs x0 x1 x2 s = .next t ∧ Kept s0 t := by
  intro x0 x1 x2
  refine ⟨_, rfl, ?_⟩
  repeat' first | (with_reducible assumption) | (with_reducible apply kept_runS) | simp only [kept_mk_iff]

theorem kept_execCsrc {s0 s : State} (h : Kept s0 s) : ∀ x0 x1 x2, ∃ t, execCsrc x0 x1 x2 s = .next t ∧ Kept s0 t := by
  intro x0 x1 x2
  refine ⟨_, rfl, ?_⟩
  repeat' first | (with_reducible assumption) | (with_reducible apply kept_runS) | simp only [kept_mk_iff]

theorem kept_execIrqHold {s0 s : State} (h : Kept s0 s) : ∀ x0, ∃ t, execIrqHold x0 s = .next t ∧ Kept s0 t := by
  intro x0
  refine ⟨_, rfl, ?_⟩
  repeat' first | (with_reducible assumption) | (with_reducible apply kept_runS) | simp only [kept_mk_iff]

theorem kept_execIrqRelease {s0 s : State} (h : Kept s0 s) : ∀ x0, ∃ t, execIrqRelease x0 s = .next t ∧ Kept s0 t := by
  intro x0
  refine ⟨_, rfl, ?_⟩
  repeat' first | (with_reducible assumption) | (with_reducible apply kept_runS) | simp only [kept_mk_iff]

theorem kept_execWaitev {s0 s : State} (h : Kept s0 s) : ∀ x0, ∃ t, execWaitev x0 s = .next t ∧ Kept s0 t := by
  intro x0
  refine ⟨_, rfl, ?_⟩
  repeat' first | (with_reducible assumption) | (with_reducible apply kept_runS) | simp only [kept_mk_iff]

theorem kept_execEret {s0 s : State} (h : Kept s0 s) : ∀ x0, ∃ t, execEret x0 s = .next t ∧ Kept s0 t := by
  intro x0
  refine ⟨_, rfl, ?_⟩
  repeat' first | (with_reducible assumption) | (with_reducible apply kept_runS) | simp only [kept_mk_iff]

theorem kept_execTrap {s0 s : State} (h : Kept s0 s) : ∀ x0 x1, ∃ t, execTrap x0 x1 s = .next t ∧ Kept s0 t := by
  intro x0 x1
  refine ⟨_, rfl, ?_⟩
  repeat' first | (with_reducible assumption) | (with_reducible apply kept_runS) | simp only [kept_mk_iff]

theorem kept_execBrk {s0 s : State} (h : Kept s0 s) : ∀ x0, ∃ t, execBrk x0 s = .next t ∧ Kept s0 t := by
  intro x0
  refine ⟨_, rfl, ?_⟩
  repeat' first | (with_reducible assumption) | (with_reducible apply kept_runS) | simp only [kept_mk_iff]

theorem kept_execFence {s0 s : State} (h : Kept s0 s) : ∀ x0, ∃ t, execFence x0 s = .next t ∧ Kept s0 t := by
  intro x0
  refine ⟨_, rfl, ?_⟩
  repeat' first | (with_reducible assumption) | (with_reducible apply kept_runS) | simp only [kept_mk_iff]

theorem kept_execTdone {s0 s : State} (h : Kept s0 s) : ∀ x0 x1, ∃ t, execTdone x0 x1 s = .next t ∧ Kept s0 t := by
  intro x0 x1
  refine ⟨_, rfl, ?_⟩
  repeat' first | (with_reducible assumption) | (with_reducible apply kept_runS) | simp only [kept_mk_iff]

theorem kept_execLexit0 {s0 s : State} (h : Kept s0 s) : ∀ x0, ∃ t, execLexit0 x0 s = .next t ∧ Kept s0 t := by
  intro x0
  refine ⟨_, rfl, ?_⟩
  repeat' first | (with_reducible assumption) | (with_reducible apply kept_runS) | simp only [kept_mk_iff]

theorem kept_execLexit1 {s0 s : State} (h : Kept s0 s) : ∀ x0, ∃ t, execLexit1 x0 s = .next t ∧ Kept s0 t := by
  intro x0
  refine ⟨_, rfl, ?_⟩
  repeat' first | (with_reducible assumption) | (with_reducible apply kept_runS) | simp only [kept_mk_iff]

theorem kept_execLoop0 {s0 s : State} (h : Kept s0 s) : ∀ x0 x1 x2 x3 x4 x5 x6, ∃ t, execLoop0 x0 x1 x2 x3 x4 x5 x6 s = .next t ∧ Kept s0 t := by
  intro x0 x1 x2 x3 x4 x5 x6
  refine ⟨_, rfl, ?_⟩
  repeat' first | (with_reducible assumption) | (with_reducible apply kept_runS)

theorem kept_execLoop1 {s0 s : State} (h : Kept s0 s) : ∀ x0 x1 x2 x3 x4 x5 x6, ∃ t, execLoop1 x0 x1 x2 x3 x4 x5 x6 s = .next t ∧ Kept s0 t := by
  intro x0 x1 x2 x3 x4 x5 x6
  refine ⟨_, rfl, ?_⟩
  repeat' first | (with_reducible assumption) | (with_reducible apply kept_runS)

end Sys2Proof.Machine
end

