-- ==== Sys2Proof/Laws/KeptAwlVector.lean ====
section
/-! SUPPORT. What each operation of Machine/AwlVector.lean keeps. -/

set_option linter.unreachableTactic false
set_option linter.unusedTactic false
set_option linter.unusedSimpArgs false
set_option linter.unusedVariables false

namespace Sys2Proof.Machine

theorem kept_execCmac {s0 s : State} (h : Kept s0 s) : ∀ x0 x1 x2 x3 x4 x5, ∃ t, execCmac x0 x1 x2 x3 x4 x5 s = .next t ∧ Kept s0 t := by
  intro x0 x1 x2 x3 x4 x5
  refine ⟨_, rfl, ?_⟩
  repeat' first | (with_reducible assumption) | (with_reducible apply kept_runV) | simp only [kept_mk_iff]

theorem kept_execCmacj {s0 s : State} (h : Kept s0 s) : ∀ x0 x1 x2 x3 x4 x5, ∃ t, execCmacj x0 x1 x2 x3 x4 x5 s = .next t ∧ Kept s0 t := by
  intro x0 x1 x2 x3 x4 x5
  refine ⟨_, rfl, ?_⟩
  repeat' first | (with_reducible assumption) | (with_reducible apply kept_runV) | simp only [kept_mk_iff]

theorem kept_execCmsc {s0 s : State} (h : Kept s0 s) : ∀ x0 x1 x2 x3 x4 x5, ∃ t, execCmsc x0 x1 x2 x3 x4 x5 s = .next t ∧ Kept s0 t := by
  intro x0 x1 x2 x3 x4 x5
  refine ⟨_, rfl, ?_⟩
  repeat' first | (with_reducible assumption) | (with_reducible apply kept_runV) | simp only [kept_mk_iff]

theorem kept_execCmscj {s0 s : State} (h : Kept s0 s) : ∀ x0 x1 x2 x3 x4 x5, ∃ t, execCmscj x0 x1 x2 x3 x4 x5 s = .next t ∧ Kept s0 t := by
  intro x0 x1 x2 x3 x4 x5
  refine ⟨_, rfl, ?_⟩
  repeat' first | (with_reducible assumption) | (with_reducible apply kept_runV) | simp only [kept_mk_iff]

theorem kept_execCsq {s0 s : State} (h : Kept s0 s) : ∀ x0 x1 x2 x3 x4, ∃ t, execCsq x0 x1 x2 x3 x4 s = .next t ∧ Kept s0 t := by
  intro x0 x1 x2 x3 x4
  refine ⟨_, rfl, ?_⟩
  repeat' first | (with_reducible assumption) | (with_reducible apply kept_runV) | simp only [kept_mk_iff]

theorem kept_execRmac16 {s0 s : State} (h : Kept s0 s) : ∀ x0 x1 x2 x3 x4 x5, ∃ t, execRmac16 x0 x1 x2 x3 x4 x5 s = .next t ∧ Kept s0 t := by
  intro x0 x1 x2 x3 x4 x5
  refine ⟨_, rfl, ?_⟩
  repeat' first | (with_reducible assumption) | (with_reducible apply kept_runV) | simp only [kept_mk_iff]

theorem kept_execRmac8 {s0 s : State} (h : Kept s0 s) : ∀ x0 x1 x2 x3 x4 x5, ∃ t, execRmac8 x0 x1 x2 x3 x4 x5 s = .next t ∧ Kept s0 t := by
  intro x0 x1 x2 x3 x4 x5
  refine ⟨_, rfl, ?_⟩
  repeat' first | (with_reducible assumption) | (with_reducible apply kept_runV) | simp only [kept_mk_iff]

theorem kept_execCmul {s0 s : State} (h : Kept s0 s) : ∀ x0 x1 x2 x3 x4, ∃ t, execCmul x0 x1 x2 x3 x4 s = .next t ∧ Kept s0 t := by
  intro x0 x1 x2 x3 x4
  refine ⟨_, rfl, ?_⟩
  repeat' first | (with_reducible assumption) | (with_reducible apply kept_runV) | simp only [kept_mk_iff]

theorem kept_execCmulj {s0 s : State} (h : Kept s0 s) : ∀ x0 x1 x2 x3 x4, ∃ t, execCmulj x0 x1 x2 x3 x4 s = .next t ∧ Kept s0 t := by
  intro x0 x1 x2 x3 x4
  refine ⟨_, rfl, ?_⟩
  repeat' first | (with_reducible assumption) | (with_reducible apply kept_runV) | simp only [kept_mk_iff]

theorem kept_execCrotj {s0 s : State} (h : Kept s0 s) : ∀ x0 x1 x2 x3, ∃ t, execCrotj x0 x1 x2 x3 s = .next t ∧ Kept s0 t := by
  intro x0 x1 x2 x3
  refine ⟨_, rfl, ?_⟩
  repeat' first | (with_reducible assumption) | (with_reducible apply kept_runV) | simp only [kept_mk_iff]

theorem kept_execCrotnj {s0 s : State} (h : Kept s0 s) : ∀ x0 x1 x2 x3, ∃ t, execCrotnj x0 x1 x2 x3 s = .next t ∧ Kept s0 t := by
  intro x0 x1 x2 x3
  refine ⟨_, rfl, ?_⟩
  repeat' first | (with_reducible assumption) | (with_reducible apply kept_runV) | simp only [kept_mk_iff]

theorem kept_execRmul16 {s0 s : State} (h : Kept s0 s) : ∀ x0 x1 x2 x3 x4, ∃ t, execRmul16 x0 x1 x2 x3 x4 s = .next t ∧ Kept s0 t := by
  intro x0 x1 x2 x3 x4
  refine ⟨_, rfl, ?_⟩
  repeat' first | (with_reducible assumption) | (with_reducible apply kept_runV) | simp only [kept_mk_iff]

theorem kept_execAccx {s0 s : State} (h : Kept s0 s) : ∀ x0 x1 x2 x3 x4 x5 x6 x7, ∃ t, execAccx x0 x1 x2 x3 x4 x5 x6 x7 s = .next t ∧ Kept s0 t := by
  intro x0 x1 x2 x3 x4 x5 x6 x7
  refine ⟨_, rfl, ?_⟩
  repeat' first | (with_reducible assumption) | (with_reducible apply kept_runV) | simp only [kept_mk_iff]

theorem kept_execAccxWl {s0 s : State} (h : Kept s0 s) : ∀ x0 x1 x2 x3 x4 x5 x6 x7, ∃ t, execAccxWl x0 x1 x2 x3 x4 x5 x6 x7 s = .next t ∧ Kept s0 t := by
  intro x0 x1 x2 x3 x4 x5 x6 x7
  refine ⟨_, rfl, ?_⟩
  repeat' first | (with_reducible assumption) | (with_reducible apply kept_runV) | simp only [kept_mk_iff]

theorem kept_execAccxWh {s0 s : State} (h : Kept s0 s) : ∀ x0 x1 x2 x3 x4 x5 x6 x7, ∃ t, execAccxWh x0 x1 x2 x3 x4 x5 x6 x7 s = .next t ∧ Kept s0 t := by
  intro x0 x1 x2 x3 x4 x5 x6 x7
  refine ⟨_, rfl, ?_⟩
  repeat' first | (with_reducible assumption) | (with_reducible apply kept_runV) | simp only [kept_mk_iff]

theorem kept_execAccz {s0 s : State} (h : Kept s0 s) : ∀ x0 x1 x2, ∃ t, execAccz x0 x1 x2 s = .next t ∧ Kept s0 t := by
  intro x0 x1 x2
  refine ⟨_, rfl, ?_⟩
  repeat' first | (with_reducible assumption) | (with_reducible apply kept_runV) | simp only [kept_mk_iff]

theorem kept_execAccmv {s0 s : State} (h : Kept s0 s) : ∀ x0 x1 x2, ∃ t, execAccmv x0 x1 x2 s = .next t ∧ Kept s0 t := by
  intro x0 x1 x2
  refine ⟨_, rfl, ?_⟩
  repeat' first | (with_reducible assumption) | (with_reducible apply kept_runV) | simp only [kept_mk_iff]

theorem kept_execNorm {s0 s : State} (h : Kept s0 s) : ∀ x0 x1 x2 x3, ∃ t, execNorm x0 x1 x2 x3 s = .next t ∧ Kept s0 t := by
  intro x0 x1 x2 x3
  refine ⟨_, rfl, ?_⟩
  repeat' first | (with_reducible assumption) | (with_reducible apply kept_runV) | simp only [kept_mk_iff]

theorem kept_execExpb {s0 s : State} (h : Kept s0 s) : ∀ x0 x1 x2 x3, ∃ t, execExpb x0 x1 x2 x3 s = .next t ∧ Kept s0 t := by
  intro x0 x1 x2 x3
  refine ⟨_, rfl, ?_⟩
  repeat' first | (with_reducible assumption) | (with_reducible apply kept_runV) | simp only [kept_mk_iff]

theorem kept_execShlB {s0 s : State} (h : Kept s0 s) : ∀ x0 x1 x2 x3 x4, ∃ t, execShlB x0 x1 x2 x3 x4 s = .next t ∧ Kept s0 t := by
  intro x0 x1 x2 x3 x4
  refine ⟨_, rfl, ?_⟩
  repeat' first | (with_reducible assumption) | (with_reducible apply kept_runV) | simp only [kept_mk_iff]

theorem kept_execShlBi {s0 s : State} (h : Kept s0 s) : ∀ x0 x1 x2 x3 x4, ∃ t, execShlBi x0 x1 x2 x3 x4 s = .next t ∧ Kept s0 t := by
  intro x0 x1 x2 x3 x4
  refine ⟨_, rfl, ?_⟩
  repeat' first | (with_reducible assumption) | (with_reducible apply kept_runV) | simp only [kept_mk_iff]

theorem kept_execSetvl {s0 s : State} (h : Kept s0 s) : ∀ x0 x1 x2 x3, ∃ t, execSetvl x0 x1 x2 x3 s = .next t ∧ Kept s0 t := by
  intro x0 x1 x2 x3
  refine ⟨_, rfl, ?_⟩
  repeat' first | (with_reducible assumption) | (with_reducible apply kept_runV) | simp only [kept_mk_iff]

theorem kept_execVadd {s0 s : State} (h : Kept s0 s) : ∀ x0 x1 x2 x3 x4 x5, ∃ t, execVadd x0 x1 x2 x3 x4 x5 s = .next t ∧ Kept s0 t := by
  intro x0 x1 x2 x3 x4 x5
  refine ⟨_, rfl, ?_⟩
  repeat' first | (with_reducible assumption) | (with_reducible apply kept_runV) | simp only [kept_mk_iff]

theorem kept_execVsub {s0 s : State} (h : Kept s0 s) : ∀ x0 x1 x2 x3 x4 x5, ∃ t, execVsub x0 x1 x2 x3 x4 x5 s = .next t ∧ Kept s0 t := by
  intro x0 x1 x2 x3 x4 x5
  refine ⟨_, rfl, ?_⟩
  repeat' first | (with_reducible assumption) | (with_reducible apply kept_runV) | simp only [kept_mk_iff]

theorem kept_execVadds {s0 s : State} (h : Kept s0 s) : ∀ x0 x1 x2 x3 x4 x5, ∃ t, execVadds x0 x1 x2 x3 x4 x5 s = .next t ∧ Kept s0 t := by
  intro x0 x1 x2 x3 x4 x5
  refine ⟨_, rfl, ?_⟩
  repeat' first | (with_reducible assumption) | (with_reducible apply kept_runV) | simp only [kept_mk_iff]

theorem kept_execVsubs {s0 s : State} (h : Kept s0 s) : ∀ x0 x1 x2 x3 x4 x5, ∃ t, execVsubs x0 x1 x2 x3 x4 x5 s = .next t ∧ Kept s0 t := by
  intro x0 x1 x2 x3 x4 x5
  refine ⟨_, rfl, ?_⟩
  repeat' first | (with_reducible assumption) | (with_reducible apply kept_runV) | simp only [kept_mk_iff]

theorem kept_execVneg {s0 s : State} (h : Kept s0 s) : ∀ x0 x1 x2 x3 x4, ∃ t, execVneg x0 x1 x2 x3 x4 s = .next t ∧ Kept s0 t := by
  intro x0 x1 x2 x3 x4
  refine ⟨_, rfl, ?_⟩
  repeat' first | (with_reducible assumption) | (with_reducible apply kept_runV) | simp only [kept_mk_iff]

theorem kept_execVabs {s0 s : State} (h : Kept s0 s) : ∀ x0 x1 x2 x3 x4, ∃ t, execVabs x0 x1 x2 x3 x4 s = .next t ∧ Kept s0 t := by
  intro x0 x1 x2 x3 x4
  refine ⟨_, rfl, ?_⟩
  repeat' first | (with_reducible assumption) | (with_reducible apply kept_runV) | simp only [kept_mk_iff]

theorem kept_execVmin {s0 s : State} (h : Kept s0 s) : ∀ x0 x1 x2 x3 x4 x5, ∃ t, execVmin x0 x1 x2 x3 x4 x5 s = .next t ∧ Kept s0 t := by
  intro x0 x1 x2 x3 x4 x5
  refine ⟨_, rfl, ?_⟩
  repeat' first | (with_reducible assumption) | (with_reducible apply kept_runV) | simp only [kept_mk_iff]

theorem kept_execVmax {s0 s : State} (h : Kept s0 s) : ∀ x0 x1 x2 x3 x4 x5, ∃ t, execVmax x0 x1 x2 x3 x4 x5 s = .next t ∧ Kept s0 t := by
  intro x0 x1 x2 x3 x4 x5
  refine ⟨_, rfl, ?_⟩
  repeat' first | (with_reducible assumption) | (with_reducible apply kept_runV) | simp only [kept_mk_iff]

theorem kept_execVavg {s0 s : State} (h : Kept s0 s) : ∀ x0 x1 x2 x3 x4 x5, ∃ t, execVavg x0 x1 x2 x3 x4 x5 s = .next t ∧ Kept s0 t := by
  intro x0 x1 x2 x3 x4 x5
  refine ⟨_, rfl, ?_⟩
  repeat' first | (with_reducible assumption) | (with_reducible apply kept_runV) | simp only [kept_mk_iff]

theorem kept_execVmul {s0 s : State} (h : Kept s0 s) : ∀ x0 x1 x2 x3 x4 x5, ∃ t, execVmul x0 x1 x2 x3 x4 x5 s = .next t ∧ Kept s0 t := by
  intro x0 x1 x2 x3 x4 x5
  refine ⟨_, rfl, ?_⟩
  repeat' first | (with_reducible assumption) | (with_reducible apply kept_runV) | simp only [kept_mk_iff]

theorem kept_execVmov {s0 s : State} (h : Kept s0 s) : ∀ x0 x1 x2 x3 x4, ∃ t, execVmov x0 x1 x2 x3 x4 s = .next t ∧ Kept s0 t := by
  intro x0 x1 x2 x3 x4
  refine ⟨_, rfl, ?_⟩
  repeat' first | (with_reducible assumption) | (with_reducible apply kept_runV) | simp only [kept_mk_iff]

theorem kept_execVand {s0 s : State} (h : Kept s0 s) : ∀ x0 x1 x2 x3 x4 x5, ∃ t, execVand x0 x1 x2 x3 x4 x5 s = .next t ∧ Kept s0 t := by
  intro x0 x1 x2 x3 x4 x5
  refine ⟨_, rfl, ?_⟩
  repeat' first | (with_reducible assumption) | (with_reducible apply kept_runV) | simp only [kept_mk_iff]

theorem kept_execVor {s0 s : State} (h : Kept s0 s) : ∀ x0 x1 x2 x3 x4 x5, ∃ t, execVor x0 x1 x2 x3 x4 x5 s = .next t ∧ Kept s0 t := by
  intro x0 x1 x2 x3 x4 x5
  refine ⟨_, rfl, ?_⟩
  repeat' first | (with_reducible assumption) | (with_reducible apply kept_runV) | simp only [kept_mk_iff]

theorem kept_execVxor {s0 s : State} (h : Kept s0 s) : ∀ x0 x1 x2 x3 x4 x5, ∃ t, execVxor x0 x1 x2 x3 x4 x5 s = .next t ∧ Kept s0 t := by
  intro x0 x1 x2 x3 x4 x5
  refine ⟨_, rfl, ?_⟩
  repeat' first | (with_reducible assumption) | (with_reducible apply kept_runV) | simp only [kept_mk_iff]

theorem kept_execVandn {s0 s : State} (h : Kept s0 s) : ∀ x0 x1 x2 x3 x4 x5, ∃ t, execVandn x0 x1 x2 x3 x4 x5 s = .next t ∧ Kept s0 t := by
  intro x0 x1 x2 x3 x4 x5
  refine ⟨_, rfl, ?_⟩
  repeat' first | (with_reducible assumption) | (with_reducible apply kept_runV) | simp only [kept_mk_iff]

theorem kept_execVnot {s0 s : State} (h : Kept s0 s) : ∀ x0 x1 x2 x3 x4, ∃ t, execVnot x0 x1 x2 x3 x4 s = .next t ∧ Kept s0 t := by
  intro x0 x1 x2 x3 x4
  refine ⟨_, rfl, ?_⟩
  repeat' first | (with_reducible assumption) | (with_reducible apply kept_runV) | simp only [kept_mk_iff]

theorem kept_execVsll {s0 s : State} (h : Kept s0 s) : ∀ x0 x1 x2 x3 x4 x5, ∃ t, execVsll x0 x1 x2 x3 x4 x5 s = .next t ∧ Kept s0 t := by
  intro x0 x1 x2 x3 x4 x5
  refine ⟨_, rfl, ?_⟩
  repeat' first | (with_reducible assumption) | (with_reducible apply kept_runV) | simp only [kept_mk_iff]

theorem kept_execVsrl {s0 s : State} (h : Kept s0 s) : ∀ x0 x1 x2 x3 x4 x5, ∃ t, execVsrl x0 x1 x2 x3 x4 x5 s = .next t ∧ Kept s0 t := by
  intro x0 x1 x2 x3 x4 x5
  refine ⟨_, rfl, ?_⟩
  repeat' first | (with_reducible assumption) | (with_reducible apply kept_runV) | simp only [kept_mk_iff]

theorem kept_execVsra {s0 s : State} (h : Kept s0 s) : ∀ x0 x1 x2 x3 x4 x5, ∃ t, execVsra x0 x1 x2 x3 x4 x5 s = .next t ∧ Kept s0 t := by
  intro x0 x1 x2 x3 x4 x5
  refine ⟨_, rfl, ?_⟩
  repeat' first | (with_reducible assumption) | (with_reducible apply kept_runV) | simp only [kept_mk_iff]

theorem kept_execVslli {s0 s : State} (h : Kept s0 s) : ∀ x0 x1 x2 x3 x4 x5, ∃ t, execVslli x0 x1 x2 x3 x4 x5 s = .next t ∧ Kept s0 t := by
  intro x0 x1 x2 x3 x4 x5
  refine ⟨_, rfl, ?_⟩
  repeat' first | (with_reducible assumption) | (with_reducible apply kept_runV) | simp only [kept_mk_iff]

theorem kept_execVsrli {s0 s : State} (h : Kept s0 s) : ∀ x0 x1 x2 x3 x4 x5, ∃ t, execVsrli x0 x1 x2 x3 x4 x5 s = .next t ∧ Kept s0 t := by
  intro x0 x1 x2 x3 x4 x5
  refine ⟨_, rfl, ?_⟩
  repeat' first | (with_reducible assumption) | (with_reducible apply kept_runV) | simp only [kept_mk_iff]

theorem kept_execVsrai {s0 s : State} (h : Kept s0 s) : ∀ x0 x1 x2 x3 x4 x5, ∃ t, execVsrai x0 x1 x2 x3 x4 x5 s = .next t ∧ Kept s0 t := by
  intro x0 x1 x2 x3 x4 x5
  refine ⟨_, rfl, ?_⟩
  repeat' first | (with_reducible assumption) | (with_reducible apply kept_runV) | simp only [kept_mk_iff]

theorem kept_execVsrar {s0 s : State} (h : Kept s0 s) : ∀ x0 x1 x2 x3 x4 x5, ∃ t, execVsrar x0 x1 x2 x3 x4 x5 s = .next t ∧ Kept s0 t := by
  intro x0 x1 x2 x3 x4 x5
  refine ⟨_, rfl, ?_⟩
  repeat' first | (with_reducible assumption) | (with_reducible apply kept_runV) | simp only [kept_mk_iff]

theorem kept_execVceq {s0 s : State} (h : Kept s0 s) : ∀ x0 x1 x2 x3 x4 x5, ∃ t, execVceq x0 x1 x2 x3 x4 x5 s = .next t ∧ Kept s0 t := by
  intro x0 x1 x2 x3 x4 x5
  refine ⟨_, rfl, ?_⟩
  repeat' first | (with_reducible assumption) | (with_reducible apply kept_runV) | simp only [kept_mk_iff]

theorem kept_execVcne {s0 s : State} (h : Kept s0 s) : ∀ x0 x1 x2 x3 x4 x5, ∃ t, execVcne x0 x1 x2 x3 x4 x5 s = .next t ∧ Kept s0 t := by
  intro x0 x1 x2 x3 x4 x5
  refine ⟨_, rfl, ?_⟩
  repeat' first | (with_reducible assumption) | (with_reducible apply kept_runV) | simp only [kept_mk_iff]

theorem kept_execVclt {s0 s : State} (h : Kept s0 s) : ∀ x0 x1 x2 x3 x4 x5, ∃ t, execVclt x0 x1 x2 x3 x4 x5 s = .next t ∧ Kept s0 t := by
  intro x0 x1 x2 x3 x4 x5
  refine ⟨_, rfl, ?_⟩
  repeat' first | (with_reducible assumption) | (with_reducible apply kept_runV) | simp only [kept_mk_iff]

theorem kept_execVcle {s0 s : State} (h : Kept s0 s) : ∀ x0 x1 x2 x3 x4 x5, ∃ t, execVcle x0 x1 x2 x3 x4 x5 s = .next t ∧ Kept s0 t := by
  intro x0 x1 x2 x3 x4 x5
  refine ⟨_, rfl, ?_⟩
  repeat' first | (with_reducible assumption) | (with_reducible apply kept_runV) | simp only [kept_mk_iff]

theorem kept_execVcltu {s0 s : State} (h : Kept s0 s) : ∀ x0 x1 x2 x3 x4 x5, ∃ t, execVcltu x0 x1 x2 x3 x4 x5 s = .next t ∧ Kept s0 t := by
  intro x0 x1 x2 x3 x4 x5
  refine ⟨_, rfl, ?_⟩
  repeat' first | (with_reducible assumption) | (with_reducible apply kept_runV) | simp only [kept_mk_iff]

theorem kept_execVcleu {s0 s : State} (h : Kept s0 s) : ∀ x0 x1 x2 x3 x4 x5, ∃ t, execVcleu x0 x1 x2 x3 x4 x5 s = .next t ∧ Kept s0 t := by
  intro x0 x1 x2 x3 x4 x5
  refine ⟨_, rfl, ?_⟩
  repeat' first | (with_reducible assumption) | (with_reducible apply kept_runV) | simp only [kept_mk_iff]

theorem kept_execVconj {s0 s : State} (h : Kept s0 s) : ∀ x0 x1 x2 x3 x4, ∃ t, execVconj x0 x1 x2 x3 x4 s = .next t ∧ Kept s0 t := by
  intro x0 x1 x2 x3 x4
  refine ⟨_, rfl, ?_⟩
  repeat' first | (with_reducible assumption) | (with_reducible apply kept_runV) | simp only [kept_mk_iff]

theorem kept_execVcswap {s0 s : State} (h : Kept s0 s) : ∀ x0 x1 x2 x3 x4, ∃ t, execVcswap x0 x1 x2 x3 x4 s = .next t ∧ Kept s0 t := by
  intro x0 x1 x2 x3 x4
  refine ⟨_, rfl, ?_⟩
  repeat' first | (with_reducible assumption) | (with_reducible apply kept_runV) | simp only [kept_mk_iff]

theorem kept_execVcmag2 {s0 s : State} (h : Kept s0 s) : ∀ x0 x1 x2 x3, ∃ t, execVcmag2 x0 x1 x2 x3 s = .next t ∧ Kept s0 t := by
  intro x0 x1 x2 x3
  refine ⟨_, rfl, ?_⟩
  repeat' first | (with_reducible assumption) | (with_reducible apply kept_runV) | simp only [kept_mk_iff]

theorem kept_execVwidl {s0 s : State} (h : Kept s0 s) : ∀ x0 x1 x2 x3 x4, ∃ t, execVwidl x0 x1 x2 x3 x4 s = .next t ∧ Kept s0 t := by
  intro x0 x1 x2 x3 x4
  refine ⟨_, rfl, ?_⟩
  repeat' first | (with_reducible assumption) | (with_reducible apply kept_runV) | simp only [kept_mk_iff]

theorem kept_execVwidh {s0 s : State} (h : Kept s0 s) : ∀ x0 x1 x2 x3 x4, ∃ t, execVwidh x0 x1 x2 x3 x4 s = .next t ∧ Kept s0 t := by
  intro x0 x1 x2 x3 x4
  refine ⟨_, rfl, ?_⟩
  repeat' first | (with_reducible assumption) | (with_reducible apply kept_runV) | simp only [kept_mk_iff]

theorem kept_execVnarr {s0 s : State} (h : Kept s0 s) : ∀ x0 x1 x2 x3 x4 x5, ∃ t, execVnarr x0 x1 x2 x3 x4 x5 s = .next t ∧ Kept s0 t := by
  intro x0 x1 x2 x3 x4 x5
  refine ⟨_, rfl, ?_⟩
  repeat' first | (with_reducible assumption) | (with_reducible apply kept_runV) | simp only [kept_mk_iff]

theorem kept_execVfadd {s0 s : State} (h : Kept s0 s) : ∀ x0 x1 x2 x3 x4 x5, ∃ t, execVfadd x0 x1 x2 x3 x4 x5 s = .next t ∧ Kept s0 t := by
  intro x0 x1 x2 x3 x4 x5
  refine ⟨_, rfl, ?_⟩
  repeat' first | (with_reducible assumption) | (with_reducible apply kept_runV) | simp only [kept_mk_iff]

theorem kept_execVfsub {s0 s : State} (h : Kept s0 s) : ∀ x0 x1 x2 x3 x4 x5, ∃ t, execVfsub x0 x1 x2 x3 x4 x5 s = .next t ∧ Kept s0 t := by
  intro x0 x1 x2 x3 x4 x5
  refine ⟨_, rfl, ?_⟩
  repeat' first | (with_reducible assumption) | (with_reducible apply kept_runV) | simp only [kept_mk_iff]

theorem kept_execVfmul {s0 s : State} (h : Kept s0 s) : ∀ x0 x1 x2 x3 x4, ∃ t, execVfmul x0 x1 x2 x3 x4 s = .next t ∧ Kept s0 t := by
  intro x0 x1 x2 x3 x4
  refine ⟨_, rfl, ?_⟩
  repeat' first | (with_reducible assumption) | (with_reducible apply kept_runV) | simp only [kept_mk_iff]

theorem kept_execVfcmul {s0 s : State} (h : Kept s0 s) : ∀ x0 x1 x2 x3 x4, ∃ t, execVfcmul x0 x1 x2 x3 x4 s = .next t ∧ Kept s0 t := by
  intro x0 x1 x2 x3 x4
  refine ⟨_, rfl, ?_⟩
  repeat' first | (with_reducible assumption) | (with_reducible apply kept_runV) | simp only [kept_mk_iff]

theorem kept_execVfma {s0 s : State} (h : Kept s0 s) : ∀ x0 x1 x2 x3 x4, ∃ t, execVfma x0 x1 x2 x3 x4 s = .next t ∧ Kept s0 t := by
  intro x0 x1 x2 x3 x4
  refine ⟨_, rfl, ?_⟩
  repeat' first | (with_reducible assumption) | (with_reducible apply kept_runV) | simp only [kept_mk_iff]

theorem kept_execVfcma {s0 s : State} (h : Kept s0 s) : ∀ x0 x1 x2 x3 x4, ∃ t, execVfcma x0 x1 x2 x3 x4 s = .next t ∧ Kept s0 t := by
  intro x0 x1 x2 x3 x4
  refine ⟨_, rfl, ?_⟩
  repeat' first | (with_reducible assumption) | (with_reducible apply kept_runV) | simp only [kept_mk_iff]

theorem kept_execVfms {s0 s : State} (h : Kept s0 s) : ∀ x0 x1 x2 x3 x4, ∃ t, execVfms x0 x1 x2 x3 x4 s = .next t ∧ Kept s0 t := by
  intro x0 x1 x2 x3 x4
  refine ⟨_, rfl, ?_⟩
  repeat' first | (with_reducible assumption) | (with_reducible apply kept_runV) | simp only [kept_mk_iff]

theorem kept_execVfcms {s0 s : State} (h : Kept s0 s) : ∀ x0 x1 x2 x3 x4, ∃ t, execVfcms x0 x1 x2 x3 x4 s = .next t ∧ Kept s0 t := by
  intro x0 x1 x2 x3 x4
  refine ⟨_, rfl, ?_⟩
  repeat' first | (with_reducible assumption) | (with_reducible apply kept_runV) | simp only [kept_mk_iff]

theorem kept_execVfmin {s0 s : State} (h : Kept s0 s) : ∀ x0 x1 x2 x3 x4, ∃ t, execVfmin x0 x1 x2 x3 x4 s = .next t ∧ Kept s0 t := by
  intro x0 x1 x2 x3 x4
  refine ⟨_, rfl, ?_⟩
  repeat' first | (with_reducible assumption) | (with_reducible apply kept_runV) | simp only [kept_mk_iff]

theorem kept_execVfcmulj {s0 s : State} (h : Kept s0 s) : ∀ x0 x1 x2 x3 x4, ∃ t, execVfcmulj x0 x1 x2 x3 x4 s = .next t ∧ Kept s0 t := by
  intro x0 x1 x2 x3 x4
  refine ⟨_, rfl, ?_⟩
  repeat' first | (with_reducible assumption) | (with_reducible apply kept_runV) | simp only [kept_mk_iff]

theorem kept_execVfmax {s0 s : State} (h : Kept s0 s) : ∀ x0 x1 x2 x3 x4, ∃ t, execVfmax x0 x1 x2 x3 x4 s = .next t ∧ Kept s0 t := by
  intro x0 x1 x2 x3 x4
  refine ⟨_, rfl, ?_⟩
  repeat' first | (with_reducible assumption) | (with_reducible apply kept_runV) | simp only [kept_mk_iff]

theorem kept_execVfcmaj {s0 s : State} (h : Kept s0 s) : ∀ x0 x1 x2 x3 x4, ∃ t, execVfcmaj x0 x1 x2 x3 x4 s = .next t ∧ Kept s0 t := by
  intro x0 x1 x2 x3 x4
  refine ⟨_, rfl, ?_⟩
  repeat' first | (with_reducible assumption) | (with_reducible apply kept_runV) | simp only [kept_mk_iff]

theorem kept_execVfabs {s0 s : State} (h : Kept s0 s) : ∀ x0 x1 x2 x3, ∃ t, execVfabs x0 x1 x2 x3 s = .next t ∧ Kept s0 t := by
  intro x0 x1 x2 x3
  refine ⟨_, rfl, ?_⟩
  repeat' first | (with_reducible assumption) | (with_reducible apply kept_runV) | simp only [kept_mk_iff]

theorem kept_execVfneg {s0 s : State} (h : Kept s0 s) : ∀ x0 x1 x2 x3 x4, ∃ t, execVfneg x0 x1 x2 x3 x4 s = .next t ∧ Kept s0 t := by
  intro x0 x1 x2 x3 x4
  refine ⟨_, rfl, ?_⟩
  repeat' first | (with_reducible assumption) | (with_reducible apply kept_runV) | simp only [kept_mk_iff]

theorem kept_execVfrcp {s0 s : State} (h : Kept s0 s) : ∀ x0 x1 x2 x3, ∃ t, execVfrcp x0 x1 x2 x3 s = .next t ∧ Kept s0 t := by
  intro x0 x1 x2 x3
  refine ⟨_, rfl, ?_⟩
  repeat' first | (with_reducible assumption) | (with_reducible apply kept_runV) | simp only [kept_mk_iff]

theorem kept_execVfrsq {s0 s : State} (h : Kept s0 s) : ∀ x0 x1 x2 x3, ∃ t, execVfrsq x0 x1 x2 x3 s = .next t ∧ Kept s0 t := by
  intro x0 x1 x2 x3
  refine ⟨_, rfl, ?_⟩
  repeat' first | (with_reducible assumption) | (with_reducible apply kept_runV) | simp only [kept_mk_iff]

theorem kept_execVcvtF32I32 {s0 s : State} (h : Kept s0 s) : ∀ x0 x1 x2 x3, ∃ t, execVcvtF32I32 x0 x1 x2 x3 s = .next t ∧ Kept s0 t := by
  intro x0 x1 x2 x3
  refine ⟨_, rfl, ?_⟩
  repeat' first | (with_reducible assumption) | (with_reducible apply kept_runV) | simp only [kept_mk_iff]

theorem kept_execVcvtI32F32 {s0 s : State} (h : Kept s0 s) : ∀ x0 x1 x2 x3, ∃ t, execVcvtI32F32 x0 x1 x2 x3 s = .next t ∧ Kept s0 t := by
  intro x0 x1 x2 x3
  refine ⟨_, rfl, ?_⟩
  repeat' first | (with_reducible assumption) | (with_reducible apply kept_runV) | simp only [kept_mk_iff]

theorem kept_execVcvtCf16Ci16 {s0 s : State} (h : Kept s0 s) : ∀ x0 x1 x2 x3 x4, ∃ t, execVcvtCf16Ci16 x0 x1 x2 x3 x4 s = .next t ∧ Kept s0 t := by
  intro x0 x1 x2 x3 x4
  refine ⟨_, rfl, ?_⟩
  repeat' first | (with_reducible assumption) | (with_reducible apply kept_runV) | simp only [kept_mk_iff]

theorem kept_execVcvtCi16Cf16 {s0 s : State} (h : Kept s0 s) : ∀ x0 x1 x2 x3 x4, ∃ t, execVcvtCi16Cf16 x0 x1 x2 x3 x4 s = .next t ∧ Kept s0 t := by
  intro x0 x1 x2 x3 x4
  refine ⟨_, rfl, ?_⟩
  repeat' first | (with_reducible assumption) | (with_reducible apply kept_runV) | simp only [kept_mk_iff]

theorem kept_execVcvtF32l {s0 s : State} (h : Kept s0 s) : ∀ x0 x1 x2 x3, ∃ t, execVcvtF32l x0 x1 x2 x3 s = .next t ∧ Kept s0 t := by
  intro x0 x1 x2 x3
  refine ⟨_, rfl, ?_⟩
  repeat' first | (with_reducible assumption) | (with_reducible apply kept_runV) | simp only [kept_mk_iff]

theorem kept_execVcvtF32h {s0 s : State} (h : Kept s0 s) : ∀ x0 x1 x2 x3, ∃ t, execVcvtF32h x0 x1 x2 x3 s = .next t ∧ Kept s0 t := by
  intro x0 x1 x2 x3
  refine ⟨_, rfl, ?_⟩
  repeat' first | (with_reducible assumption) | (with_reducible apply kept_runV) | simp only [kept_mk_iff]

theorem kept_execVcvtCf16F32 {s0 s : State} (h : Kept s0 s) : ∀ x0 x1 x2 x3 x4, ∃ t, execVcvtCf16F32 x0 x1 x2 x3 x4 s = .next t ∧ Kept s0 t := by
  intro x0 x1 x2 x3 x4
  refine ⟨_, rfl, ?_⟩
  repeat' first | (with_reducible assumption) | (with_reducible apply kept_runV) | simp only [kept_mk_iff]

theorem kept_execVperm {s0 s : State} (h : Kept s0 s) : ∀ x0 x1 x2 x3 x4 x5, ∃ t, execVperm x0 x1 x2 x3 x4 x5 s = .next t ∧ Kept s0 t := by
  intro x0 x1 x2 x3 x4 x5
  refine ⟨_, rfl, ?_⟩
  repeat' first | (with_reducible assumption) | (with_reducible apply kept_runV) | simp only [kept_mk_iff]

theorem kept_execVzipl {s0 s : State} (h : Kept s0 s) : ∀ x0 x1 x2 x3 x4 x5, ∃ t, execVzipl x0 x1 x2 x3 x4 x5 s = .next t ∧ Kept s0 t := by
  intro x0 x1 x2 x3 x4 x5
  refine ⟨_, rfl, ?_⟩
  repeat' first | (with_reducible assumption) | (with_reducible apply kept_runV) | simp only [kept_mk_iff]

theorem kept_execVziph {s0 s : State} (h : Kept s0 s) : ∀ x0 x1 x2 x3 x4 x5, ∃ t, execVziph x0 x1 x2 x3 x4 x5 s = .next t ∧ Kept s0 t := by
  intro x0 x1 x2 x3 x4 x5
  refine ⟨_, rfl, ?_⟩
  repeat' first | (with_reducible assumption) | (with_reducible apply kept_runV) | simp only [kept_mk_iff]

theorem kept_execVuzpe {s0 s : State} (h : Kept s0 s) : ∀ x0 x1 x2 x3 x4 x5, ∃ t, execVuzpe x0 x1 x2 x3 x4 x5 s = .next t ∧ Kept s0 t := by
  intro x0 x1 x2 x3 x4 x5
  refine ⟨_, rfl, ?_⟩
  repeat' first | (with_reducible assumption) | (with_reducible apply kept_runV) | simp only [kept_mk_iff]

theorem kept_execVuzpo {s0 s : State} (h : Kept s0 s) : ∀ x0 x1 x2 x3 x4 x5, ∃ t, execVuzpo x0 x1 x2 x3 x4 x5 s = .next t ∧ Kept s0 t := by
  intro x0 x1 x2 x3 x4 x5
  refine ⟨_, rfl, ?_⟩
  repeat' first | (with_reducible assumption) | (with_reducible apply kept_runV) | simp only [kept_mk_iff]

theorem kept_execVsldn {s0 s : State} (h : Kept s0 s) : ∀ x0 x1 x2 x3 x4 x5, ∃ t, execVsldn x0 x1 x2 x3 x4 x5 s = .next t ∧ Kept s0 t := by
  intro x0 x1 x2 x3 x4 x5
  refine ⟨_, rfl, ?_⟩
  repeat' first | (with_reducible assumption) | (with_reducible apply kept_runV) | simp only [kept_mk_iff]

theorem kept_execVslup {s0 s : State} (h : Kept s0 s) : ∀ x0 x1 x2 x3 x4 x5, ∃ t, execVslup x0 x1 x2 x3 x4 x5 s = .next t ∧ Kept s0 t := by
  intro x0 x1 x2 x3 x4 x5
  refine ⟨_, rfl, ?_⟩
  repeat' first | (with_reducible assumption) | (with_reducible apply kept_runV) | simp only [kept_mk_iff]

theorem kept_execVrev {s0 s : State} (h : Kept s0 s) : ∀ x0 x1 x2 x3 x4, ∃ t, execVrev x0 x1 x2 x3 x4 s = .next t ∧ Kept s0 t := by
  intro x0 x1 x2 x3 x4
  refine ⟨_, rfl, ?_⟩
  repeat' first | (with_reducible assumption) | (with_reducible apply kept_runV) | simp only [kept_mk_iff]

theorem kept_execVbcast {s0 s : State} (h : Kept s0 s) : ∀ x0 x1 x2 x3 x4 x5, ∃ t, execVbcast x0 x1 x2 x3 x4 x5 s = .next t ∧ Kept s0 t := by
  intro x0 x1 x2 x3 x4 x5
  refine ⟨_, rfl, ?_⟩
  repeat' first | (with_reducible assumption) | (with_reducible apply kept_runV) | simp only [kept_mk_iff]

theorem kept_execVins {s0 s : State} (h : Kept s0 s) : ∀ x0 x1 x2 x3 x4, ∃ t, execVins x0 x1 x2 x3 x4 s = .next t ∧ Kept s0 t := by
  intro x0 x1 x2 x3 x4
  refine ⟨_, rfl, ?_⟩
  repeat' first | (with_reducible assumption) | (with_reducible apply kept_runV) | simp only [kept_mk_iff]

theorem kept_execVext {s0 s : State} (h : Kept s0 s) : ∀ x0 x1 x2 x3 x4, ∃ t, execVext x0 x1 x2 x3 x4 s = .next t ∧ Kept s0 t := by
  intro x0 x1 x2 x3 x4
  refine ⟨_, rfl, ?_⟩
  repeat' first | (with_reducible assumption) | (with_reducible apply kept_runV) | simp only [kept_mk_iff]

theorem kept_execVsel {s0 s : State} (h : Kept s0 s) : ∀ x0 x1 x2 x3 x4 x5, ∃ t, execVsel x0 x1 x2 x3 x4 x5 s = .next t ∧ Kept s0 t := by
  intro x0 x1 x2 x3 x4 x5
  refine ⟨_, rfl, ?_⟩
  repeat' first | (with_reducible assumption) | (with_reducible apply kept_runV) | simp only [kept_mk_iff]

theorem kept_execVradd {s0 s : State} (h : Kept s0 s) : ∀ x0 x1 x2 x3 x4, ∃ t, execVradd x0 x1 x2 x3 x4 s = .next t ∧ Kept s0 t := by
  intro x0 x1 x2 x3 x4
  refine ⟨_, rfl, ?_⟩
  repeat' first | (with_reducible assumption) | (with_reducible apply kept_runV) | simp only [kept_mk_iff]

theorem kept_execVrmax {s0 s : State} (h : Kept s0 s) : ∀ x0 x1 x2 x3 x4, ∃ t, execVrmax x0 x1 x2 x3 x4 s = .next t ∧ Kept s0 t := by
  intro x0 x1 x2 x3 x4
  refine ⟨_, rfl, ?_⟩
  repeat' first | (with_reducible assumption) | (with_reducible apply kept_runV) | simp only [kept_mk_iff]

theorem kept_execVrmin {s0 s : State} (h : Kept s0 s) : ∀ x0 x1 x2 x3 x4, ∃ t, execVrmin x0 x1 x2 x3 x4 s = .next t ∧ Kept s0 t := by
  intro x0 x1 x2 x3 x4
  refine ⟨_, rfl, ?_⟩
  repeat' first | (with_reducible assumption) | (with_reducible apply kept_runV) | simp only [kept_mk_iff]

theorem kept_execVrimax {s0 s : State} (h : Kept s0 s) : ∀ x0 x1 x2 x3 x4, ∃ t, execVrimax x0 x1 x2 x3 x4 s = .next t ∧ Kept s0 t := by
  intro x0 x1 x2 x3 x4
  refine ⟨_, rfl, ?_⟩
  repeat' first | (with_reducible assumption) | (with_reducible apply kept_runV) | simp only [kept_mk_iff]

theorem kept_execVfradd {s0 s : State} (h : Kept s0 s) : ∀ x0 x1 x2 x3, ∃ t, execVfradd x0 x1 x2 x3 s = .next t ∧ Kept s0 t := by
  intro x0 x1 x2 x3
  refine ⟨_, rfl, ?_⟩
  repeat' first | (with_reducible assumption) | (with_reducible apply kept_runV) | simp only [kept_mk_iff]

theorem kept_execKand {s0 s : State} (h : Kept s0 s) : ∀ x0 x1 x2 x3, ∃ t, execKand x0 x1 x2 x3 s = .next t ∧ Kept s0 t := by
  intro x0 x1 x2 x3
  refine ⟨_, rfl, ?_⟩
  repeat' first | (with_reducible assumption) | (with_reducible apply kept_runV) | simp only [kept_mk_iff]

theorem kept_execKor {s0 s : State} (h : Kept s0 s) : ∀ x0 x1 x2 x3, ∃ t, execKor x0 x1 x2 x3 s = .next t ∧ Kept s0 t := by
  intro x0 x1 x2 x3
  refine ⟨_, rfl, ?_⟩
  repeat' first | (with_reducible assumption) | (with_reducible apply kept_runV) | simp only [kept_mk_iff]

theorem kept_execKxor {s0 s : State} (h : Kept s0 s) : ∀ x0 x1 x2 x3, ∃ t, execKxor x0 x1 x2 x3 s = .next t ∧ Kept s0 t := by
  intro x0 x1 x2 x3
  refine ⟨_, rfl, ?_⟩
  repeat' first | (with_reducible assumption) | (with_reducible apply kept_runV) | simp only [kept_mk_iff]

theorem kept_execKandn {s0 s : State} (h : Kept s0 s) : ∀ x0 x1 x2 x3, ∃ t, execKandn x0 x1 x2 x3 s = .next t ∧ Kept s0 t := by
  intro x0 x1 x2 x3
  refine ⟨_, rfl, ?_⟩
  repeat' first | (with_reducible assumption) | (with_reducible apply kept_runV) | simp only [kept_mk_iff]

theorem kept_execKnot {s0 s : State} (h : Kept s0 s) : ∀ x0 x1 x2, ∃ t, execKnot x0 x1 x2 s = .next t ∧ Kept s0 t := by
  intro x0 x1 x2
  refine ⟨_, rfl, ?_⟩
  repeat' first | (with_reducible assumption) | (with_reducible apply kept_runV) | simp only [kept_mk_iff]

theorem kept_execKvl {s0 s : State} (h : Kept s0 s) : ∀ x0 x1 x2, ∃ t, execKvl x0 x1 x2 s = .next t ∧ Kept s0 t := by
  intro x0 x1 x2
  refine ⟨_, rfl, ?_⟩
  repeat' first | (with_reducible assumption) | (with_reducible apply kept_runV) | simp only [kept_mk_iff]

theorem kept_execKpois {s0 s : State} (h : Kept s0 s) : ∀ x0 x1 x2 x3, ∃ t, execKpois x0 x1 x2 x3 s = .next t ∧ Kept s0 t := by
  intro x0 x1 x2 x3
  refine ⟨_, rfl, ?_⟩
  repeat' first | (with_reducible assumption) | (with_reducible apply kept_runV) | simp only [kept_mk_iff]

theorem kept_execKpop {s0 s : State} (h : Kept s0 s) : ∀ x0 x1 x2, ∃ t, execKpop x0 x1 x2 s = .next t ∧ Kept s0 t := by
  intro x0 x1 x2
  refine ⟨_, rfl, ?_⟩
  repeat' first | (with_reducible assumption) | (with_reducible apply kept_runV) | simp only [kept_mk_iff]

theorem kept_execKfirst {s0 s : State} (h : Kept s0 s) : ∀ x0 x1 x2, ∃ t, execKfirst x0 x1 x2 s = .next t ∧ Kept s0 t := by
  intro x0 x1 x2
  refine ⟨_, rfl, ?_⟩
  repeat' first | (with_reducible assumption) | (with_reducible apply kept_runV) | simp only [kept_mk_iff]

theorem kept_execKset {s0 s : State} (h : Kept s0 s) : ∀ x0 x1 x2 x3, ∃ t, execKset x0 x1 x2 x3 s = .next t ∧ Kept s0 t := by
  intro x0 x1 x2 x3
  refine ⟨_, rfl, ?_⟩
  repeat' first | (with_reducible assumption) | (with_reducible apply kept_runV) | simp only [kept_mk_iff]

theorem kept_execKget {s0 s : State} (h : Kept s0 s) : ∀ x0 x1 x2 x3, ∃ t, execKget x0 x1 x2 x3 s = .next t ∧ Kept s0 t := by
  intro x0 x1 x2 x3
  unfold execKget
  refine ⟨_, rfl, ?_⟩
  repeat' first | (with_reducible assumption) | (with_reducible apply kept_runV)

end Sys2Proof.Machine
end

