-- ==== Sys2Proof/Laws/Streams.lean ====
section
/-! SUPPORT. How a Pennant command starts, waits and leaves its stream (R490, R500). -/

namespace Sys2Proof.Machine

/-- Replacing an empty list of waiting commands by the empty list changes nothing. -/
theorem setPn_waiting_nil {s : State} (h : s.pn.waiting = []) : setPn s (fun p => { p with waiting := [] }) = s := by
  have e : ({ s.pn with waiting := [] } : Pennant) = s.pn := by rw [← h]
  simp only [setPn, e]

/-- A command that arrives with nothing waiting waits alone. -/
theorem arrive_alone {s : State} (h : s.pn.waiting = []) (x : Held) : arrive s x = setPn s fun p => { p with waiting := [x] } := by
  simp [arrive, setPn, h]

/-- A command that arrives with nothing waiting and may start, starts. -/
theorem runCommand_start {s : State} {op : Nat} {q : Req} (h : s.pn.waiting = [])
    (m : mayStart s (heldOf op q) = true) : runCommand op q s = runBody s (heldOf op q) := by
  have a := arrive_alone h (heldOf op q)
  have e : mayStart (setPn s fun p => { p with waiting := [heldOf op q] }) (heldOf op q) = true := m
  unfold runCommand settle
  change settleN (arrive s (heldOf op q)).pn.waiting.length (arrive s (heldOf op q)) = _
  rw [a]
  change settleN 1 _ = _
  simp only [settleN]
  change (match [heldOf op q].find? (mayStart _) with | none => _ | some h => _) = _
  rw [List.find?_cons_of_pos e]
  change startCmd (setPn s fun p => { p with waiting := removeFirst (fun x => decide (x = heldOf op q)) [heldOf op q] }) (heldOf op q) = _
  rw [show removeFirst (fun x => decide (x = heldOf op q)) [heldOf op q] = [] by simp [removeFirst], setPn_waiting_nil h]
  rfl

/-- A command that arrives with nothing waiting and may not start, waits. -/
theorem runCommand_wait {s : State} {op : Nat} {q : Req} (h : s.pn.waiting = [])
    (m : mayStart s (heldOf op q) = false) : runCommand op q s = setPn s fun p => { p with waiting := [heldOf op q] } := by
  have a := arrive_alone h (heldOf op q)
  have e : mayStart (setPn s fun p => { p with waiting := [heldOf op q] }) (heldOf op q) = false := m
  unfold runCommand settle
  change settleN (arrive s (heldOf op q)).pn.waiting.length (arrive s (heldOf op q)) = _
  rw [a]
  change settleN 1 _ = _
  simp only [settleN]
  change (match [heldOf op q].find? (mayStart _) with | none => _ | some h => _) = _
  rw [List.find?_cons_of_neg (by simp [e])]
  rfl

theorem removeFirst_append_last {α : Type} [DecidableEq α] (x : α) :
    ∀ (l : List α), (∀ y ∈ l, y ≠ x) → removeFirst (fun y => decide (y = x)) (l ++ [x]) = l
  | [], _ => by simp [removeFirst]
  | y :: ys, h => by
    have := h y (by simp)
    simp [removeFirst, this, removeFirst_append_last x ys fun z hz => h z (by simp [hz])]

/-- A command seated in a free stream and then unseated leaves the state as it was. -/
theorem unseated_seated {s : State} {op : Nat} {q : Req} (h : streamBusy s q.stream.val = false) : unseated (seated s op q) op q = s := by
  have n : ∀ y ∈ s.pn.held, y ≠ heldOf op q := by
    intro y hy e
    subst e
    simp only [streamBusy, List.any_eq_false] at h
    have := h _ hy
    simp [heldOf] at this
  have e := removeFirst_append_last (heldOf op q) s.pn.held n
  obtain ⟨v, pd, fc, at_, rg, tim, mem, pn⟩ := s
  cases pn
  simp only [unseated, seated, setPn] at *
  rw [e]

/-- A command that meets `Starts` may start. -/
theorem Starts.mayStart {s : State} {op : Nat} {q : Req} (h : Starts s op q) : mayStart s (heldOf op q) = true := by
  simp only [Machine.mayStart, heldOf, Bool.and_eq_true, Bool.or_eq_true, Bool.not_eq_true']
  refine ⟨⟨.inl (h.up.imp_right decide_eq_true), h.free⟩, ?_⟩
  by_cases c : q.stream.val < 8
  · simp [h.told c]
  · simp [c]

/-- A command that starts at once and whose body does not hold its stream: its effect, then its reply. -/
theorem runCommand_starts {s : State} {op : Nat} {q : Req} {d : Done} (h : Starts s op q)
    (b : body op q (seated s op q) = some d) (n : d.hold = false) :
    runCommand op q s = reply (unseated d.st op q) op q d.stat d.out := by
  rw [runCommand_start h.idle h.mayStart]
  unfold runBody
  change (match body op q (seated s op q) with | none => _ | some d => _) = _
  rw [b]
  simp only [h.allowed, heldOf, n, Bool.not_true, Bool.false_eq_true, if_false]
  rfl

/-- A command that starts at once and holds its stream leaves the state its body leaves. -/
theorem runCommand_holds {s : State} {op : Nat} {q : Req} {d : Done} (h : Starts s op q)
    (b : body op q (seated s op q) = some d) (n : d.hold = true) : runCommand op q s = d.st := by
  rw [runCommand_start h.idle h.mayStart]
  unfold runBody
  change (match body op q (seated s op q) with | none => _ | some d => _) = _
  rw [b]
  simp only [h.allowed, heldOf, n, Bool.not_true, Bool.false_eq_true, if_false, if_true]

/-- A command that may start but that its transport or session does not permit is refused with no effect. -/
theorem runCommand_refused {s : State} {op : Nat} {q : Req} (h : s.pn.waiting = []) (m : mayStart s (heldOf op q) = true)
    (b : (body op q (seated s op q)).isSome = true) (p : permitted s op q = false) :
    runCommand op q s = reply s op q .notPermitted [] := by
  rw [runCommand_start h m]
  unfold runBody
  change (match body op q (seated s op q) with | none => _ | some d => _) = _
  obtain ⟨d, e⟩ := Option.isSome_iff_exists.mp b
  rw [e]
  simp [heldOf, p]

/-- The answer of a command that starts at once, from what its body answers. -/
theorem runCommand_answers {s t : State} {op : Nat} {q : Req} {d : Done} {st : Status} {ws : List W32} (h : Starts s op q)
    (b : body op q (seated s op q) = some d) (n : d.hold = false) (e : unseated d.st op q = t) (e1 : d.stat = st)
    (e2 : d.out = ws) : runCommand op q s = reply t op q st ws := by
  rw [runCommand_starts h b n, e, e1, e2]

/-! ## What a seated command leaves as it is -/

@[simp] theorem seated_variant (s : State) (op : Nat) (q : Req) : (seated s op q).variant = s.variant := rfl
@[simp] theorem seated_pending (s : State) (op : Nat) (q : Req) : (seated s op q).pending = s.pending := rfl
@[simp] theorem seated_freeCtr (s : State) (op : Nat) (q : Req) : (seated s op q).freeCtr = s.freeCtr := rfl
@[simp] theorem seated_ats (s : State) (op : Nat) (q : Req) : (seated s op q).ats = s.ats := rfl
@[simp] theorem seated_regs (s : State) (op : Nat) (q : Req) : (seated s op q).regs = s.regs := rfl
@[simp] theorem seated_tim (s : State) (op : Nat) (q : Req) : (seated s op q).tim = s.tim := rfl
@[simp] theorem seated_mem (s : State) (op : Nat) (q : Req) : (seated s op q).mem = s.mem := rfl
@[simp] theorem seated_dom (s : State) (op : Nat) (q : Req) : (seated s op q).dom = s.dom := rfl
@[simp] theorem seated_th (s : State) (op : Nat) (q : Req) : (seated s op q).th = s.th := rfl
@[simp] theorem seated_store (s : State) (op : Nat) (q : Req) : (seated s op q).store = s.store := rfl
@[simp] theorem seated_det (s : State) (op : Nat) (q : Req) : (seated s op q).det = s.det := rfl
@[simp] theorem seated_boot (s : State) (op : Nat) (q : Req) : (seated s op q).boot = s.boot := rfl
@[simp] theorem seated_queues (s : State) (op : Nat) (q : Req) : (seated s op q).queues = s.queues := rfl
@[simp] theorem seated_hbmPart (s : State) (op : Nat) (q : Req) : (seated s op q).hbmPart = s.hbmPart := rfl
@[simp] theorem seated_dma (s : State) (op : Nat) (q : Req) : (seated s op q).dma = s.dma := rfl
@[simp] theorem seated_cord (s : State) (op : Nat) (q : Req) : (seated s op q).cord = s.cord := rfl
@[simp] theorem seated_gov (s : State) (op : Nat) (q : Req) : (seated s op q).gov = s.gov := rfl
@[simp] theorem seated_fh (s : State) (op : Nat) (q : Req) : (seated s op q).fh = s.fh := rfl
@[simp] theorem seated_lanes (s : State) (op : Nat) (q : Req) : (seated s op q).lanes = s.lanes := rfl
@[simp] theorem seated_refclk (s : State) (op : Nat) (q : Req) : (seated s op q).refclk = s.refclk := rfl
@[simp] theorem seated_host (s : State) (op : Nat) (q : Req) : (seated s op q).host = s.host := rfl
@[simp] theorem seated_lace (s : State) (op : Nat) (q : Req) : (seated s op q).lace = s.lace := rfl
@[simp] theorem seated_fab (s : State) (op : Nat) (q : Req) : (seated s op q).fab = s.fab := rfl
@[simp] theorem seated_cores (s : State) (op : Nat) (q : Req) : (seated s op q).cores = s.cores := rfl
@[simp] theorem seated_shanks (s : State) (op : Nat) (q : Req) : (seated s op q).shanks = s.shanks := rfl
@[simp] theorem seated_cmas (s : State) (op : Nat) (q : Req) : (seated s op q).cmas = s.cmas := rfl
@[simp] theorem seated_jobs (s : State) (op : Nat) (q : Req) : (seated s op q).jobs = s.jobs := rfl
@[simp] theorem seated_locks (s : State) (op : Nat) (q : Req) : (seated s op q).locks = s.locks := rfl
@[simp] theorem seated_readStat (s : State) (op : Nat) (q : Req) : (seated s op q).readStat = s.readStat := rfl
@[simp] theorem seated_readData (s : State) (op : Nat) (q : Req) : (seated s op q).readData = s.readData := rfl
@[simp] theorem seated_pn_waiting (s : State) (op : Nat) (q : Req) : (seated s op q).pn.waiting = s.pn.waiting := rfl
@[simp] theorem seated_pn_commits (s : State) (op : Nat) (q : Req) : (seated s op q).pn.commits = s.pn.commits := rfl
@[simp] theorem seated_pn_replies (s : State) (op : Nat) (q : Req) : (seated s op q).pn.replies = s.pn.replies := rfl
@[simp] theorem seated_pn_forwards (s : State) (op : Nat) (q : Req) : (seated s op q).pn.forwards = s.pn.forwards := rfl
@[simp] theorem rd_seated (s : State) (op : Nat) (q : Req) (r : Reg) (u i : Nat) : rd (seated s op q) r u i = rd s r u i := rfl
@[simp] theorem rdF_seated (s : State) (op : Nat) (q : Req) (r : Reg) (u i hi lo : Nat) : rdF (seated s op q) r u i hi lo = rdF s r u i hi lo := rfl
@[simp] theorem rdB_seated (s : State) (op : Nat) (q : Req) (r : Reg) (u i k : Nat) : rdB (seated s op q) r u i k = rdB s r u i k := rfl

/-- Unseating commutes with a change that leaves the Pennant alone. -/
theorem unseated_of_pn {s t : State} {op : Nat} {q : Req} (h : streamBusy s q.stream.val = false)
    (p : t.pn = (seated s op q).pn) : unseated t op q = { t with pn := s.pn } := by
  have e : (unseated (seated s op q) op q).pn = s.pn := by rw [unseated_seated h]
  unfold unseated setPn
  rw [p]
  exact congrArg (fun x => ({ t with pn := x } : State)) e

/-- Unseating commutes with a register write. -/
@[simp] theorem unseated_wr (s : State) (op : Nat) (q : Req) (r : Reg) (u i : Nat) (v : W32) :
    unseated (wr s r u i v) op q = wr (unseated s op q) r u i v := rfl

end Sys2Proof.Machine
end

