-- ==== Sys2Proof/Laws/Updates.lean ====
section
/-! SUPPORT. What each named update of one part of the state gives for that part, and that it leaves every other part alone:
one lemma per field per update. -/

namespace Sys2Proof.Machine

/-- A row that does nothing asks for no access. -/
@[simp] theorem settled_self (s : State) : settled s s = s := by simp [settled]

/-! ## `setFab` -/

@[simp] theorem setFab_variant (s : State) (f : Fabric → Fabric) : (setFab s f).variant = s.variant := rfl
@[simp] theorem setFab_pending (s : State) (f : Fabric → Fabric) : (setFab s f).pending = s.pending := rfl
@[simp] theorem setFab_freeCtr (s : State) (f : Fabric → Fabric) : (setFab s f).freeCtr = s.freeCtr := rfl
@[simp] theorem setFab_ats (s : State) (f : Fabric → Fabric) : (setFab s f).ats = s.ats := rfl
@[simp] theorem setFab_regs (s : State) (f : Fabric → Fabric) : (setFab s f).regs = s.regs := rfl
@[simp] theorem setFab_tim (s : State) (f : Fabric → Fabric) : (setFab s f).tim = s.tim := rfl
@[simp] theorem setFab_mem (s : State) (f : Fabric → Fabric) : (setFab s f).mem = s.mem := rfl
@[simp] theorem setFab_pn (s : State) (f : Fabric → Fabric) : (setFab s f).pn = s.pn := rfl
@[simp] theorem setFab_dom (s : State) (f : Fabric → Fabric) : (setFab s f).dom = s.dom := rfl
@[simp] theorem setFab_th (s : State) (f : Fabric → Fabric) : (setFab s f).th = s.th := rfl
@[simp] theorem setFab_store (s : State) (f : Fabric → Fabric) : (setFab s f).store = s.store := rfl
@[simp] theorem setFab_det (s : State) (f : Fabric → Fabric) : (setFab s f).det = s.det := rfl
@[simp] theorem setFab_boot (s : State) (f : Fabric → Fabric) : (setFab s f).boot = s.boot := rfl
@[simp] theorem setFab_queues (s : State) (f : Fabric → Fabric) : (setFab s f).queues = s.queues := rfl
@[simp] theorem setFab_hbmPart (s : State) (f : Fabric → Fabric) : (setFab s f).hbmPart = s.hbmPart := rfl
@[simp] theorem setFab_dma (s : State) (f : Fabric → Fabric) : (setFab s f).dma = s.dma := rfl
@[simp] theorem setFab_cord (s : State) (f : Fabric → Fabric) : (setFab s f).cord = s.cord := rfl
@[simp] theorem setFab_gov (s : State) (f : Fabric → Fabric) : (setFab s f).gov = s.gov := rfl
@[simp] theorem setFab_fh (s : State) (f : Fabric → Fabric) : (setFab s f).fh = s.fh := rfl
@[simp] theorem setFab_lanes (s : State) (f : Fabric → Fabric) : (setFab s f).lanes = s.lanes := rfl
@[simp] theorem setFab_refclk (s : State) (f : Fabric → Fabric) : (setFab s f).refclk = s.refclk := rfl
@[simp] theorem setFab_rclkHold (s : State) (f : Fabric → Fabric) : (setFab s f).rclkHold = s.rclkHold := rfl
@[simp] theorem setFab_host (s : State) (f : Fabric → Fabric) : (setFab s f).host = s.host := rfl
@[simp] theorem setFab_lace (s : State) (f : Fabric → Fabric) : (setFab s f).lace = s.lace := rfl
@[simp] theorem setFab_fab (s : State) (f : Fabric → Fabric) : (setFab s f).fab = f s.fab := rfl
@[simp] theorem setFab_cores (s : State) (f : Fabric → Fabric) : (setFab s f).cores = s.cores := rfl
@[simp] theorem setFab_shanks (s : State) (f : Fabric → Fabric) : (setFab s f).shanks = s.shanks := rfl
@[simp] theorem setFab_cmas (s : State) (f : Fabric → Fabric) : (setFab s f).cmas = s.cmas := rfl
@[simp] theorem setFab_jobs (s : State) (f : Fabric → Fabric) : (setFab s f).jobs = s.jobs := rfl
@[simp] theorem setFab_locks (s : State) (f : Fabric → Fabric) : (setFab s f).locks = s.locks := rfl
@[simp] theorem setFab_posted (s : State) (f : Fabric → Fabric) : (setFab s f).posted = s.posted := rfl
@[simp] theorem setFab_readStat (s : State) (f : Fabric → Fabric) : (setFab s f).readStat = s.readStat := rfl
@[simp] theorem setFab_readData (s : State) (f : Fabric → Fabric) : (setFab s f).readData = s.readData := rfl

/-! ## `setCord` -/

@[simp] theorem setCord_variant (s : State) (f : Cord → Cord) : (setCord s f).variant = s.variant := rfl
@[simp] theorem setCord_pending (s : State) (f : Cord → Cord) : (setCord s f).pending = s.pending := rfl
@[simp] theorem setCord_freeCtr (s : State) (f : Cord → Cord) : (setCord s f).freeCtr = s.freeCtr := rfl
@[simp] theorem setCord_ats (s : State) (f : Cord → Cord) : (setCord s f).ats = s.ats := rfl
@[simp] theorem setCord_regs (s : State) (f : Cord → Cord) : (setCord s f).regs = s.regs := rfl
@[simp] theorem setCord_tim (s : State) (f : Cord → Cord) : (setCord s f).tim = s.tim := rfl
@[simp] theorem setCord_mem (s : State) (f : Cord → Cord) : (setCord s f).mem = s.mem := rfl
@[simp] theorem setCord_pn (s : State) (f : Cord → Cord) : (setCord s f).pn = s.pn := rfl
@[simp] theorem setCord_dom (s : State) (f : Cord → Cord) : (setCord s f).dom = s.dom := rfl
@[simp] theorem setCord_th (s : State) (f : Cord → Cord) : (setCord s f).th = s.th := rfl
@[simp] theorem setCord_store (s : State) (f : Cord → Cord) : (setCord s f).store = s.store := rfl
@[simp] theorem setCord_det (s : State) (f : Cord → Cord) : (setCord s f).det = s.det := rfl
@[simp] theorem setCord_boot (s : State) (f : Cord → Cord) : (setCord s f).boot = s.boot := rfl
@[simp] theorem setCord_queues (s : State) (f : Cord → Cord) : (setCord s f).queues = s.queues := rfl
@[simp] theorem setCord_hbmPart (s : State) (f : Cord → Cord) : (setCord s f).hbmPart = s.hbmPart := rfl
@[simp] theorem setCord_dma (s : State) (f : Cord → Cord) : (setCord s f).dma = s.dma := rfl
@[simp] theorem setCord_cord (s : State) (f : Cord → Cord) : (setCord s f).cord = f s.cord := rfl
@[simp] theorem setCord_gov (s : State) (f : Cord → Cord) : (setCord s f).gov = s.gov := rfl
@[simp] theorem setCord_fh (s : State) (f : Cord → Cord) : (setCord s f).fh = s.fh := rfl
@[simp] theorem setCord_lanes (s : State) (f : Cord → Cord) : (setCord s f).lanes = s.lanes := rfl
@[simp] theorem setCord_refclk (s : State) (f : Cord → Cord) : (setCord s f).refclk = s.refclk := rfl
@[simp] theorem setCord_rclkHold (s : State) (f : Cord → Cord) : (setCord s f).rclkHold = s.rclkHold := rfl
@[simp] theorem setCord_host (s : State) (f : Cord → Cord) : (setCord s f).host = s.host := rfl
@[simp] theorem setCord_lace (s : State) (f : Cord → Cord) : (setCord s f).lace = s.lace := rfl
@[simp] theorem setCord_fab (s : State) (f : Cord → Cord) : (setCord s f).fab = s.fab := rfl
@[simp] theorem setCord_cores (s : State) (f : Cord → Cord) : (setCord s f).cores = s.cores := rfl
@[simp] theorem setCord_shanks (s : State) (f : Cord → Cord) : (setCord s f).shanks = s.shanks := rfl
@[simp] theorem setCord_cmas (s : State) (f : Cord → Cord) : (setCord s f).cmas = s.cmas := rfl
@[simp] theorem setCord_jobs (s : State) (f : Cord → Cord) : (setCord s f).jobs = s.jobs := rfl
@[simp] theorem setCord_locks (s : State) (f : Cord → Cord) : (setCord s f).locks = s.locks := rfl
@[simp] theorem setCord_posted (s : State) (f : Cord → Cord) : (setCord s f).posted = s.posted := rfl
@[simp] theorem setCord_readStat (s : State) (f : Cord → Cord) : (setCord s f).readStat = s.readStat := rfl
@[simp] theorem setCord_readData (s : State) (f : Cord → Cord) : (setCord s f).readData = s.readData := rfl

/-! ## `setStore` -/

@[simp] theorem setStore_variant (s : State) (f : Store → Store) : (setStore s f).variant = s.variant := rfl
@[simp] theorem setStore_pending (s : State) (f : Store → Store) : (setStore s f).pending = s.pending := rfl
@[simp] theorem setStore_freeCtr (s : State) (f : Store → Store) : (setStore s f).freeCtr = s.freeCtr := rfl
@[simp] theorem setStore_ats (s : State) (f : Store → Store) : (setStore s f).ats = s.ats := rfl
@[simp] theorem setStore_regs (s : State) (f : Store → Store) : (setStore s f).regs = s.regs := rfl
@[simp] theorem setStore_tim (s : State) (f : Store → Store) : (setStore s f).tim = s.tim := rfl
@[simp] theorem setStore_mem (s : State) (f : Store → Store) : (setStore s f).mem = s.mem := rfl
@[simp] theorem setStore_pn (s : State) (f : Store → Store) : (setStore s f).pn = s.pn := rfl
@[simp] theorem setStore_dom (s : State) (f : Store → Store) : (setStore s f).dom = s.dom := rfl
@[simp] theorem setStore_th (s : State) (f : Store → Store) : (setStore s f).th = s.th := rfl
@[simp] theorem setStore_store (s : State) (f : Store → Store) : (setStore s f).store = f s.store := rfl
@[simp] theorem setStore_det (s : State) (f : Store → Store) : (setStore s f).det = s.det := rfl
@[simp] theorem setStore_boot (s : State) (f : Store → Store) : (setStore s f).boot = s.boot := rfl
@[simp] theorem setStore_queues (s : State) (f : Store → Store) : (setStore s f).queues = s.queues := rfl
@[simp] theorem setStore_hbmPart (s : State) (f : Store → Store) : (setStore s f).hbmPart = s.hbmPart := rfl
@[simp] theorem setStore_dma (s : State) (f : Store → Store) : (setStore s f).dma = s.dma := rfl
@[simp] theorem setStore_cord (s : State) (f : Store → Store) : (setStore s f).cord = s.cord := rfl
@[simp] theorem setStore_gov (s : State) (f : Store → Store) : (setStore s f).gov = s.gov := rfl
@[simp] theorem setStore_fh (s : State) (f : Store → Store) : (setStore s f).fh = s.fh := rfl
@[simp] theorem setStore_lanes (s : State) (f : Store → Store) : (setStore s f).lanes = s.lanes := rfl
@[simp] theorem setStore_refclk (s : State) (f : Store → Store) : (setStore s f).refclk = s.refclk := rfl
@[simp] theorem setStore_rclkHold (s : State) (f : Store → Store) : (setStore s f).rclkHold = s.rclkHold := rfl
@[simp] theorem setStore_host (s : State) (f : Store → Store) : (setStore s f).host = s.host := rfl
@[simp] theorem setStore_lace (s : State) (f : Store → Store) : (setStore s f).lace = s.lace := rfl
@[simp] theorem setStore_fab (s : State) (f : Store → Store) : (setStore s f).fab = s.fab := rfl
@[simp] theorem setStore_cores (s : State) (f : Store → Store) : (setStore s f).cores = s.cores := rfl
@[simp] theorem setStore_shanks (s : State) (f : Store → Store) : (setStore s f).shanks = s.shanks := rfl
@[simp] theorem setStore_cmas (s : State) (f : Store → Store) : (setStore s f).cmas = s.cmas := rfl
@[simp] theorem setStore_jobs (s : State) (f : Store → Store) : (setStore s f).jobs = s.jobs := rfl
@[simp] theorem setStore_locks (s : State) (f : Store → Store) : (setStore s f).locks = s.locks := rfl
@[simp] theorem setStore_posted (s : State) (f : Store → Store) : (setStore s f).posted = s.posted := rfl
@[simp] theorem setStore_readStat (s : State) (f : Store → Store) : (setStore s f).readStat = s.readStat := rfl
@[simp] theorem setStore_readData (s : State) (f : Store → Store) : (setStore s f).readData = s.readData := rfl

/-! ## `setGov` -/

@[simp] theorem setGov_variant (s : State) (f : Gov → Gov) : (setGov s f).variant = s.variant := rfl
@[simp] theorem setGov_pending (s : State) (f : Gov → Gov) : (setGov s f).pending = s.pending := rfl
@[simp] theorem setGov_freeCtr (s : State) (f : Gov → Gov) : (setGov s f).freeCtr = s.freeCtr := rfl
@[simp] theorem setGov_ats (s : State) (f : Gov → Gov) : (setGov s f).ats = s.ats := rfl
@[simp] theorem setGov_regs (s : State) (f : Gov → Gov) : (setGov s f).regs = s.regs := rfl
@[simp] theorem setGov_tim (s : State) (f : Gov → Gov) : (setGov s f).tim = s.tim := rfl
@[simp] theorem setGov_mem (s : State) (f : Gov → Gov) : (setGov s f).mem = s.mem := rfl
@[simp] theorem setGov_pn (s : State) (f : Gov → Gov) : (setGov s f).pn = s.pn := rfl
@[simp] theorem setGov_dom (s : State) (f : Gov → Gov) : (setGov s f).dom = s.dom := rfl
@[simp] theorem setGov_th (s : State) (f : Gov → Gov) : (setGov s f).th = s.th := rfl
@[simp] theorem setGov_store (s : State) (f : Gov → Gov) : (setGov s f).store = s.store := rfl
@[simp] theorem setGov_det (s : State) (f : Gov → Gov) : (setGov s f).det = s.det := rfl
@[simp] theorem setGov_boot (s : State) (f : Gov → Gov) : (setGov s f).boot = s.boot := rfl
@[simp] theorem setGov_queues (s : State) (f : Gov → Gov) : (setGov s f).queues = s.queues := rfl
@[simp] theorem setGov_hbmPart (s : State) (f : Gov → Gov) : (setGov s f).hbmPart = s.hbmPart := rfl
@[simp] theorem setGov_dma (s : State) (f : Gov → Gov) : (setGov s f).dma = s.dma := rfl
@[simp] theorem setGov_cord (s : State) (f : Gov → Gov) : (setGov s f).cord = s.cord := rfl
@[simp] theorem setGov_gov (s : State) (f : Gov → Gov) : (setGov s f).gov = f s.gov := rfl
@[simp] theorem setGov_fh (s : State) (f : Gov → Gov) : (setGov s f).fh = s.fh := rfl
@[simp] theorem setGov_lanes (s : State) (f : Gov → Gov) : (setGov s f).lanes = s.lanes := rfl
@[simp] theorem setGov_refclk (s : State) (f : Gov → Gov) : (setGov s f).refclk = s.refclk := rfl
@[simp] theorem setGov_rclkHold (s : State) (f : Gov → Gov) : (setGov s f).rclkHold = s.rclkHold := rfl
@[simp] theorem setGov_host (s : State) (f : Gov → Gov) : (setGov s f).host = s.host := rfl
@[simp] theorem setGov_lace (s : State) (f : Gov → Gov) : (setGov s f).lace = s.lace := rfl
@[simp] theorem setGov_fab (s : State) (f : Gov → Gov) : (setGov s f).fab = s.fab := rfl
@[simp] theorem setGov_cores (s : State) (f : Gov → Gov) : (setGov s f).cores = s.cores := rfl
@[simp] theorem setGov_shanks (s : State) (f : Gov → Gov) : (setGov s f).shanks = s.shanks := rfl
@[simp] theorem setGov_cmas (s : State) (f : Gov → Gov) : (setGov s f).cmas = s.cmas := rfl
@[simp] theorem setGov_jobs (s : State) (f : Gov → Gov) : (setGov s f).jobs = s.jobs := rfl
@[simp] theorem setGov_locks (s : State) (f : Gov → Gov) : (setGov s f).locks = s.locks := rfl
@[simp] theorem setGov_posted (s : State) (f : Gov → Gov) : (setGov s f).posted = s.posted := rfl
@[simp] theorem setGov_readStat (s : State) (f : Gov → Gov) : (setGov s f).readStat = s.readStat := rfl
@[simp] theorem setGov_readData (s : State) (f : Gov → Gov) : (setGov s f).readData = s.readData := rfl

/-! ## `setPn` -/

@[simp] theorem setPn_variant (s : State) (f : Pennant → Pennant) : (setPn s f).variant = s.variant := rfl
@[simp] theorem setPn_pending (s : State) (f : Pennant → Pennant) : (setPn s f).pending = s.pending := rfl
@[simp] theorem setPn_freeCtr (s : State) (f : Pennant → Pennant) : (setPn s f).freeCtr = s.freeCtr := rfl
@[simp] theorem setPn_ats (s : State) (f : Pennant → Pennant) : (setPn s f).ats = s.ats := rfl
@[simp] theorem setPn_regs (s : State) (f : Pennant → Pennant) : (setPn s f).regs = s.regs := rfl
@[simp] theorem setPn_tim (s : State) (f : Pennant → Pennant) : (setPn s f).tim = s.tim := rfl
@[simp] theorem setPn_mem (s : State) (f : Pennant → Pennant) : (setPn s f).mem = s.mem := rfl
@[simp] theorem setPn_pn (s : State) (f : Pennant → Pennant) : (setPn s f).pn = f s.pn := rfl
@[simp] theorem setPn_dom (s : State) (f : Pennant → Pennant) : (setPn s f).dom = s.dom := rfl
@[simp] theorem setPn_th (s : State) (f : Pennant → Pennant) : (setPn s f).th = s.th := rfl
@[simp] theorem setPn_store (s : State) (f : Pennant → Pennant) : (setPn s f).store = s.store := rfl
@[simp] theorem setPn_det (s : State) (f : Pennant → Pennant) : (setPn s f).det = s.det := rfl
@[simp] theorem setPn_boot (s : State) (f : Pennant → Pennant) : (setPn s f).boot = s.boot := rfl
@[simp] theorem setPn_queues (s : State) (f : Pennant → Pennant) : (setPn s f).queues = s.queues := rfl
@[simp] theorem setPn_hbmPart (s : State) (f : Pennant → Pennant) : (setPn s f).hbmPart = s.hbmPart := rfl
@[simp] theorem setPn_dma (s : State) (f : Pennant → Pennant) : (setPn s f).dma = s.dma := rfl
@[simp] theorem setPn_cord (s : State) (f : Pennant → Pennant) : (setPn s f).cord = s.cord := rfl
@[simp] theorem setPn_gov (s : State) (f : Pennant → Pennant) : (setPn s f).gov = s.gov := rfl
@[simp] theorem setPn_fh (s : State) (f : Pennant → Pennant) : (setPn s f).fh = s.fh := rfl
@[simp] theorem setPn_lanes (s : State) (f : Pennant → Pennant) : (setPn s f).lanes = s.lanes := rfl
@[simp] theorem setPn_refclk (s : State) (f : Pennant → Pennant) : (setPn s f).refclk = s.refclk := rfl
@[simp] theorem setPn_rclkHold (s : State) (f : Pennant → Pennant) : (setPn s f).rclkHold = s.rclkHold := rfl
@[simp] theorem setPn_host (s : State) (f : Pennant → Pennant) : (setPn s f).host = s.host := rfl
@[simp] theorem setPn_lace (s : State) (f : Pennant → Pennant) : (setPn s f).lace = s.lace := rfl
@[simp] theorem setPn_fab (s : State) (f : Pennant → Pennant) : (setPn s f).fab = s.fab := rfl
@[simp] theorem setPn_cores (s : State) (f : Pennant → Pennant) : (setPn s f).cores = s.cores := rfl
@[simp] theorem setPn_shanks (s : State) (f : Pennant → Pennant) : (setPn s f).shanks = s.shanks := rfl
@[simp] theorem setPn_cmas (s : State) (f : Pennant → Pennant) : (setPn s f).cmas = s.cmas := rfl
@[simp] theorem setPn_jobs (s : State) (f : Pennant → Pennant) : (setPn s f).jobs = s.jobs := rfl
@[simp] theorem setPn_locks (s : State) (f : Pennant → Pennant) : (setPn s f).locks = s.locks := rfl
@[simp] theorem setPn_posted (s : State) (f : Pennant → Pennant) : (setPn s f).posted = s.posted := rfl
@[simp] theorem setPn_readStat (s : State) (f : Pennant → Pennant) : (setPn s f).readStat = s.readStat := rfl
@[simp] theorem setPn_readData (s : State) (f : Pennant → Pennant) : (setPn s f).readData = s.readData := rfl

/-! ## `setTim` -/

@[simp] theorem setTim_variant (s : State) (f : AirTime → AirTime) : (setTim s f).variant = s.variant := rfl
@[simp] theorem setTim_pending (s : State) (f : AirTime → AirTime) : (setTim s f).pending = s.pending := rfl
@[simp] theorem setTim_freeCtr (s : State) (f : AirTime → AirTime) : (setTim s f).freeCtr = s.freeCtr := rfl
@[simp] theorem setTim_ats (s : State) (f : AirTime → AirTime) : (setTim s f).ats = s.ats := rfl
@[simp] theorem setTim_regs (s : State) (f : AirTime → AirTime) : (setTim s f).regs = s.regs := rfl
@[simp] theorem setTim_tim (s : State) (f : AirTime → AirTime) : (setTim s f).tim = f s.tim := rfl
@[simp] theorem setTim_mem (s : State) (f : AirTime → AirTime) : (setTim s f).mem = s.mem := rfl
@[simp] theorem setTim_pn (s : State) (f : AirTime → AirTime) : (setTim s f).pn = s.pn := rfl
@[simp] theorem setTim_dom (s : State) (f : AirTime → AirTime) : (setTim s f).dom = s.dom := rfl
@[simp] theorem setTim_th (s : State) (f : AirTime → AirTime) : (setTim s f).th = s.th := rfl
@[simp] theorem setTim_store (s : State) (f : AirTime → AirTime) : (setTim s f).store = s.store := rfl
@[simp] theorem setTim_det (s : State) (f : AirTime → AirTime) : (setTim s f).det = s.det := rfl
@[simp] theorem setTim_boot (s : State) (f : AirTime → AirTime) : (setTim s f).boot = s.boot := rfl
@[simp] theorem setTim_queues (s : State) (f : AirTime → AirTime) : (setTim s f).queues = s.queues := rfl
@[simp] theorem setTim_hbmPart (s : State) (f : AirTime → AirTime) : (setTim s f).hbmPart = s.hbmPart := rfl
@[simp] theorem setTim_dma (s : State) (f : AirTime → AirTime) : (setTim s f).dma = s.dma := rfl
@[simp] theorem setTim_cord (s : State) (f : AirTime → AirTime) : (setTim s f).cord = s.cord := rfl
@[simp] theorem setTim_gov (s : State) (f : AirTime → AirTime) : (setTim s f).gov = s.gov := rfl
@[simp] theorem setTim_fh (s : State) (f : AirTime → AirTime) : (setTim s f).fh = s.fh := rfl
@[simp] theorem setTim_lanes (s : State) (f : AirTime → AirTime) : (setTim s f).lanes = s.lanes := rfl
@[simp] theorem setTim_refclk (s : State) (f : AirTime → AirTime) : (setTim s f).refclk = s.refclk := rfl
@[simp] theorem setTim_rclkHold (s : State) (f : AirTime → AirTime) : (setTim s f).rclkHold = s.rclkHold := rfl
@[simp] theorem setTim_host (s : State) (f : AirTime → AirTime) : (setTim s f).host = s.host := rfl
@[simp] theorem setTim_lace (s : State) (f : AirTime → AirTime) : (setTim s f).lace = s.lace := rfl
@[simp] theorem setTim_fab (s : State) (f : AirTime → AirTime) : (setTim s f).fab = s.fab := rfl
@[simp] theorem setTim_cores (s : State) (f : AirTime → AirTime) : (setTim s f).cores = s.cores := rfl
@[simp] theorem setTim_shanks (s : State) (f : AirTime → AirTime) : (setTim s f).shanks = s.shanks := rfl
@[simp] theorem setTim_cmas (s : State) (f : AirTime → AirTime) : (setTim s f).cmas = s.cmas := rfl
@[simp] theorem setTim_jobs (s : State) (f : AirTime → AirTime) : (setTim s f).jobs = s.jobs := rfl
@[simp] theorem setTim_locks (s : State) (f : AirTime → AirTime) : (setTim s f).locks = s.locks := rfl
@[simp] theorem setTim_posted (s : State) (f : AirTime → AirTime) : (setTim s f).posted = s.posted := rfl
@[simp] theorem setTim_readStat (s : State) (f : AirTime → AirTime) : (setTim s f).readStat = s.readStat := rfl
@[simp] theorem setTim_readData (s : State) (f : AirTime → AirTime) : (setTim s f).readData = s.readData := rfl

/-! ## `setHost` -/

@[simp] theorem setHost_variant (s : State) (f : HostLink → HostLink) : (setHost s f).variant = s.variant := rfl
@[simp] theorem setHost_pending (s : State) (f : HostLink → HostLink) : (setHost s f).pending = s.pending := rfl
@[simp] theorem setHost_freeCtr (s : State) (f : HostLink → HostLink) : (setHost s f).freeCtr = s.freeCtr := rfl
@[simp] theorem setHost_ats (s : State) (f : HostLink → HostLink) : (setHost s f).ats = s.ats := rfl
@[simp] theorem setHost_regs (s : State) (f : HostLink → HostLink) : (setHost s f).regs = s.regs := rfl
@[simp] theorem setHost_tim (s : State) (f : HostLink → HostLink) : (setHost s f).tim = s.tim := rfl
@[simp] theorem setHost_mem (s : State) (f : HostLink → HostLink) : (setHost s f).mem = s.mem := rfl
@[simp] theorem setHost_pn (s : State) (f : HostLink → HostLink) : (setHost s f).pn = s.pn := rfl
@[simp] theorem setHost_dom (s : State) (f : HostLink → HostLink) : (setHost s f).dom = s.dom := rfl
@[simp] theorem setHost_th (s : State) (f : HostLink → HostLink) : (setHost s f).th = s.th := rfl
@[simp] theorem setHost_store (s : State) (f : HostLink → HostLink) : (setHost s f).store = s.store := rfl
@[simp] theorem setHost_det (s : State) (f : HostLink → HostLink) : (setHost s f).det = s.det := rfl
@[simp] theorem setHost_boot (s : State) (f : HostLink → HostLink) : (setHost s f).boot = s.boot := rfl
@[simp] theorem setHost_queues (s : State) (f : HostLink → HostLink) : (setHost s f).queues = s.queues := rfl
@[simp] theorem setHost_hbmPart (s : State) (f : HostLink → HostLink) : (setHost s f).hbmPart = s.hbmPart := rfl
@[simp] theorem setHost_dma (s : State) (f : HostLink → HostLink) : (setHost s f).dma = s.dma := rfl
@[simp] theorem setHost_cord (s : State) (f : HostLink → HostLink) : (setHost s f).cord = s.cord := rfl
@[simp] theorem setHost_gov (s : State) (f : HostLink → HostLink) : (setHost s f).gov = s.gov := rfl
@[simp] theorem setHost_fh (s : State) (f : HostLink → HostLink) : (setHost s f).fh = s.fh := rfl
@[simp] theorem setHost_lanes (s : State) (f : HostLink → HostLink) : (setHost s f).lanes = s.lanes := rfl
@[simp] theorem setHost_refclk (s : State) (f : HostLink → HostLink) : (setHost s f).refclk = s.refclk := rfl
@[simp] theorem setHost_rclkHold (s : State) (f : HostLink → HostLink) : (setHost s f).rclkHold = s.rclkHold := rfl
@[simp] theorem setHost_host (s : State) (f : HostLink → HostLink) : (setHost s f).host = f s.host := rfl
@[simp] theorem setHost_lace (s : State) (f : HostLink → HostLink) : (setHost s f).lace = s.lace := rfl
@[simp] theorem setHost_fab (s : State) (f : HostLink → HostLink) : (setHost s f).fab = s.fab := rfl
@[simp] theorem setHost_cores (s : State) (f : HostLink → HostLink) : (setHost s f).cores = s.cores := rfl
@[simp] theorem setHost_shanks (s : State) (f : HostLink → HostLink) : (setHost s f).shanks = s.shanks := rfl
@[simp] theorem setHost_cmas (s : State) (f : HostLink → HostLink) : (setHost s f).cmas = s.cmas := rfl
@[simp] theorem setHost_jobs (s : State) (f : HostLink → HostLink) : (setHost s f).jobs = s.jobs := rfl
@[simp] theorem setHost_locks (s : State) (f : HostLink → HostLink) : (setHost s f).locks = s.locks := rfl
@[simp] theorem setHost_posted (s : State) (f : HostLink → HostLink) : (setHost s f).posted = s.posted := rfl
@[simp] theorem setHost_readStat (s : State) (f : HostLink → HostLink) : (setHost s f).readStat = s.readStat := rfl
@[simp] theorem setHost_readData (s : State) (f : HostLink → HostLink) : (setHost s f).readData = s.readData := rfl

/-! ## `setLace` -/

@[simp] theorem setLace_variant (s : State) (f : Lace → Lace) : (setLace s f).variant = s.variant := rfl
@[simp] theorem setLace_pending (s : State) (f : Lace → Lace) : (setLace s f).pending = s.pending := rfl
@[simp] theorem setLace_freeCtr (s : State) (f : Lace → Lace) : (setLace s f).freeCtr = s.freeCtr := rfl
@[simp] theorem setLace_ats (s : State) (f : Lace → Lace) : (setLace s f).ats = s.ats := rfl
@[simp] theorem setLace_regs (s : State) (f : Lace → Lace) : (setLace s f).regs = s.regs := rfl
@[simp] theorem setLace_tim (s : State) (f : Lace → Lace) : (setLace s f).tim = s.tim := rfl
@[simp] theorem setLace_mem (s : State) (f : Lace → Lace) : (setLace s f).mem = s.mem := rfl
@[simp] theorem setLace_pn (s : State) (f : Lace → Lace) : (setLace s f).pn = s.pn := rfl
@[simp] theorem setLace_dom (s : State) (f : Lace → Lace) : (setLace s f).dom = s.dom := rfl
@[simp] theorem setLace_th (s : State) (f : Lace → Lace) : (setLace s f).th = s.th := rfl
@[simp] theorem setLace_store (s : State) (f : Lace → Lace) : (setLace s f).store = s.store := rfl
@[simp] theorem setLace_det (s : State) (f : Lace → Lace) : (setLace s f).det = s.det := rfl
@[simp] theorem setLace_boot (s : State) (f : Lace → Lace) : (setLace s f).boot = s.boot := rfl
@[simp] theorem setLace_queues (s : State) (f : Lace → Lace) : (setLace s f).queues = s.queues := rfl
@[simp] theorem setLace_hbmPart (s : State) (f : Lace → Lace) : (setLace s f).hbmPart = s.hbmPart := rfl
@[simp] theorem setLace_dma (s : State) (f : Lace → Lace) : (setLace s f).dma = s.dma := rfl
@[simp] theorem setLace_cord (s : State) (f : Lace → Lace) : (setLace s f).cord = s.cord := rfl
@[simp] theorem setLace_gov (s : State) (f : Lace → Lace) : (setLace s f).gov = s.gov := rfl
@[simp] theorem setLace_fh (s : State) (f : Lace → Lace) : (setLace s f).fh = s.fh := rfl
@[simp] theorem setLace_lanes (s : State) (f : Lace → Lace) : (setLace s f).lanes = s.lanes := rfl
@[simp] theorem setLace_refclk (s : State) (f : Lace → Lace) : (setLace s f).refclk = s.refclk := rfl
@[simp] theorem setLace_rclkHold (s : State) (f : Lace → Lace) : (setLace s f).rclkHold = s.rclkHold := rfl
@[simp] theorem setLace_host (s : State) (f : Lace → Lace) : (setLace s f).host = s.host := rfl
@[simp] theorem setLace_lace (s : State) (f : Lace → Lace) : (setLace s f).lace = f s.lace := rfl
@[simp] theorem setLace_fab (s : State) (f : Lace → Lace) : (setLace s f).fab = s.fab := rfl
@[simp] theorem setLace_cores (s : State) (f : Lace → Lace) : (setLace s f).cores = s.cores := rfl
@[simp] theorem setLace_shanks (s : State) (f : Lace → Lace) : (setLace s f).shanks = s.shanks := rfl
@[simp] theorem setLace_cmas (s : State) (f : Lace → Lace) : (setLace s f).cmas = s.cmas := rfl
@[simp] theorem setLace_jobs (s : State) (f : Lace → Lace) : (setLace s f).jobs = s.jobs := rfl
@[simp] theorem setLace_locks (s : State) (f : Lace → Lace) : (setLace s f).locks = s.locks := rfl
@[simp] theorem setLace_posted (s : State) (f : Lace → Lace) : (setLace s f).posted = s.posted := rfl
@[simp] theorem setLace_readStat (s : State) (f : Lace → Lace) : (setLace s f).readStat = s.readStat := rfl
@[simp] theorem setLace_readData (s : State) (f : Lace → Lace) : (setLace s f).readData = s.readData := rfl

/-! ## `setFh` -/

@[simp] theorem setFh_variant (s : State) (f : Fh → Fh) : (setFh s f).variant = s.variant := rfl
@[simp] theorem setFh_pending (s : State) (f : Fh → Fh) : (setFh s f).pending = s.pending := rfl
@[simp] theorem setFh_freeCtr (s : State) (f : Fh → Fh) : (setFh s f).freeCtr = s.freeCtr := rfl
@[simp] theorem setFh_ats (s : State) (f : Fh → Fh) : (setFh s f).ats = s.ats := rfl
@[simp] theorem setFh_regs (s : State) (f : Fh → Fh) : (setFh s f).regs = s.regs := rfl
@[simp] theorem setFh_tim (s : State) (f : Fh → Fh) : (setFh s f).tim = s.tim := rfl
@[simp] theorem setFh_mem (s : State) (f : Fh → Fh) : (setFh s f).mem = s.mem := rfl
@[simp] theorem setFh_pn (s : State) (f : Fh → Fh) : (setFh s f).pn = s.pn := rfl
@[simp] theorem setFh_dom (s : State) (f : Fh → Fh) : (setFh s f).dom = s.dom := rfl
@[simp] theorem setFh_th (s : State) (f : Fh → Fh) : (setFh s f).th = s.th := rfl
@[simp] theorem setFh_store (s : State) (f : Fh → Fh) : (setFh s f).store = s.store := rfl
@[simp] theorem setFh_det (s : State) (f : Fh → Fh) : (setFh s f).det = s.det := rfl
@[simp] theorem setFh_boot (s : State) (f : Fh → Fh) : (setFh s f).boot = s.boot := rfl
@[simp] theorem setFh_queues (s : State) (f : Fh → Fh) : (setFh s f).queues = s.queues := rfl
@[simp] theorem setFh_hbmPart (s : State) (f : Fh → Fh) : (setFh s f).hbmPart = s.hbmPart := rfl
@[simp] theorem setFh_dma (s : State) (f : Fh → Fh) : (setFh s f).dma = s.dma := rfl
@[simp] theorem setFh_cord (s : State) (f : Fh → Fh) : (setFh s f).cord = s.cord := rfl
@[simp] theorem setFh_gov (s : State) (f : Fh → Fh) : (setFh s f).gov = s.gov := rfl
@[simp] theorem setFh_fh (s : State) (f : Fh → Fh) : (setFh s f).fh = f s.fh := rfl
@[simp] theorem setFh_lanes (s : State) (f : Fh → Fh) : (setFh s f).lanes = s.lanes := rfl
@[simp] theorem setFh_refclk (s : State) (f : Fh → Fh) : (setFh s f).refclk = s.refclk := rfl
@[simp] theorem setFh_rclkHold (s : State) (f : Fh → Fh) : (setFh s f).rclkHold = s.rclkHold := rfl
@[simp] theorem setFh_host (s : State) (f : Fh → Fh) : (setFh s f).host = s.host := rfl
@[simp] theorem setFh_lace (s : State) (f : Fh → Fh) : (setFh s f).lace = s.lace := rfl
@[simp] theorem setFh_fab (s : State) (f : Fh → Fh) : (setFh s f).fab = s.fab := rfl
@[simp] theorem setFh_cores (s : State) (f : Fh → Fh) : (setFh s f).cores = s.cores := rfl
@[simp] theorem setFh_shanks (s : State) (f : Fh → Fh) : (setFh s f).shanks = s.shanks := rfl
@[simp] theorem setFh_cmas (s : State) (f : Fh → Fh) : (setFh s f).cmas = s.cmas := rfl
@[simp] theorem setFh_jobs (s : State) (f : Fh → Fh) : (setFh s f).jobs = s.jobs := rfl
@[simp] theorem setFh_locks (s : State) (f : Fh → Fh) : (setFh s f).locks = s.locks := rfl
@[simp] theorem setFh_posted (s : State) (f : Fh → Fh) : (setFh s f).posted = s.posted := rfl
@[simp] theorem setFh_readStat (s : State) (f : Fh → Fh) : (setFh s f).readStat = s.readStat := rfl
@[simp] theorem setFh_readData (s : State) (f : Fh → Fh) : (setFh s f).readData = s.readData := rfl

/-! ## `setTh` -/

@[simp] theorem setTh_variant (s : State) (f : Thermal → Thermal) : (setTh s f).variant = s.variant := rfl
@[simp] theorem setTh_pending (s : State) (f : Thermal → Thermal) : (setTh s f).pending = s.pending := rfl
@[simp] theorem setTh_freeCtr (s : State) (f : Thermal → Thermal) : (setTh s f).freeCtr = s.freeCtr := rfl
@[simp] theorem setTh_ats (s : State) (f : Thermal → Thermal) : (setTh s f).ats = s.ats := rfl
@[simp] theorem setTh_regs (s : State) (f : Thermal → Thermal) : (setTh s f).regs = s.regs := rfl
@[simp] theorem setTh_tim (s : State) (f : Thermal → Thermal) : (setTh s f).tim = s.tim := rfl
@[simp] theorem setTh_mem (s : State) (f : Thermal → Thermal) : (setTh s f).mem = s.mem := rfl
@[simp] theorem setTh_pn (s : State) (f : Thermal → Thermal) : (setTh s f).pn = s.pn := rfl
@[simp] theorem setTh_dom (s : State) (f : Thermal → Thermal) : (setTh s f).dom = s.dom := rfl
@[simp] theorem setTh_th (s : State) (f : Thermal → Thermal) : (setTh s f).th = f s.th := rfl
@[simp] theorem setTh_store (s : State) (f : Thermal → Thermal) : (setTh s f).store = s.store := rfl
@[simp] theorem setTh_det (s : State) (f : Thermal → Thermal) : (setTh s f).det = s.det := rfl
@[simp] theorem setTh_boot (s : State) (f : Thermal → Thermal) : (setTh s f).boot = s.boot := rfl
@[simp] theorem setTh_queues (s : State) (f : Thermal → Thermal) : (setTh s f).queues = s.queues := rfl
@[simp] theorem setTh_hbmPart (s : State) (f : Thermal → Thermal) : (setTh s f).hbmPart = s.hbmPart := rfl
@[simp] theorem setTh_dma (s : State) (f : Thermal → Thermal) : (setTh s f).dma = s.dma := rfl
@[simp] theorem setTh_cord (s : State) (f : Thermal → Thermal) : (setTh s f).cord = s.cord := rfl
@[simp] theorem setTh_gov (s : State) (f : Thermal → Thermal) : (setTh s f).gov = s.gov := rfl
@[simp] theorem setTh_fh (s : State) (f : Thermal → Thermal) : (setTh s f).fh = s.fh := rfl
@[simp] theorem setTh_lanes (s : State) (f : Thermal → Thermal) : (setTh s f).lanes = s.lanes := rfl
@[simp] theorem setTh_refclk (s : State) (f : Thermal → Thermal) : (setTh s f).refclk = s.refclk := rfl
@[simp] theorem setTh_rclkHold (s : State) (f : Thermal → Thermal) : (setTh s f).rclkHold = s.rclkHold := rfl
@[simp] theorem setTh_host (s : State) (f : Thermal → Thermal) : (setTh s f).host = s.host := rfl
@[simp] theorem setTh_lace (s : State) (f : Thermal → Thermal) : (setTh s f).lace = s.lace := rfl
@[simp] theorem setTh_fab (s : State) (f : Thermal → Thermal) : (setTh s f).fab = s.fab := rfl
@[simp] theorem setTh_cores (s : State) (f : Thermal → Thermal) : (setTh s f).cores = s.cores := rfl
@[simp] theorem setTh_shanks (s : State) (f : Thermal → Thermal) : (setTh s f).shanks = s.shanks := rfl
@[simp] theorem setTh_cmas (s : State) (f : Thermal → Thermal) : (setTh s f).cmas = s.cmas := rfl
@[simp] theorem setTh_jobs (s : State) (f : Thermal → Thermal) : (setTh s f).jobs = s.jobs := rfl
@[simp] theorem setTh_locks (s : State) (f : Thermal → Thermal) : (setTh s f).locks = s.locks := rfl
@[simp] theorem setTh_posted (s : State) (f : Thermal → Thermal) : (setTh s f).posted = s.posted := rfl
@[simp] theorem setTh_readStat (s : State) (f : Thermal → Thermal) : (setTh s f).readStat = s.readStat := rfl
@[simp] theorem setTh_readData (s : State) (f : Thermal → Thermal) : (setTh s f).readData = s.readData := rfl

/-! ## `setDet` -/

@[simp] theorem setDet_variant (s : State) (f : Detect → Detect) : (setDet s f).variant = s.variant := rfl
@[simp] theorem setDet_pending (s : State) (f : Detect → Detect) : (setDet s f).pending = s.pending := rfl
@[simp] theorem setDet_freeCtr (s : State) (f : Detect → Detect) : (setDet s f).freeCtr = s.freeCtr := rfl
@[simp] theorem setDet_ats (s : State) (f : Detect → Detect) : (setDet s f).ats = s.ats := rfl
@[simp] theorem setDet_regs (s : State) (f : Detect → Detect) : (setDet s f).regs = s.regs := rfl
@[simp] theorem setDet_tim (s : State) (f : Detect → Detect) : (setDet s f).tim = s.tim := rfl
@[simp] theorem setDet_mem (s : State) (f : Detect → Detect) : (setDet s f).mem = s.mem := rfl
@[simp] theorem setDet_pn (s : State) (f : Detect → Detect) : (setDet s f).pn = s.pn := rfl
@[simp] theorem setDet_dom (s : State) (f : Detect → Detect) : (setDet s f).dom = s.dom := rfl
@[simp] theorem setDet_th (s : State) (f : Detect → Detect) : (setDet s f).th = s.th := rfl
@[simp] theorem setDet_store (s : State) (f : Detect → Detect) : (setDet s f).store = s.store := rfl
@[simp] theorem setDet_det (s : State) (f : Detect → Detect) : (setDet s f).det = f s.det := rfl
@[simp] theorem setDet_boot (s : State) (f : Detect → Detect) : (setDet s f).boot = s.boot := rfl
@[simp] theorem setDet_queues (s : State) (f : Detect → Detect) : (setDet s f).queues = s.queues := rfl
@[simp] theorem setDet_hbmPart (s : State) (f : Detect → Detect) : (setDet s f).hbmPart = s.hbmPart := rfl
@[simp] theorem setDet_dma (s : State) (f : Detect → Detect) : (setDet s f).dma = s.dma := rfl
@[simp] theorem setDet_cord (s : State) (f : Detect → Detect) : (setDet s f).cord = s.cord := rfl
@[simp] theorem setDet_gov (s : State) (f : Detect → Detect) : (setDet s f).gov = s.gov := rfl
@[simp] theorem setDet_fh (s : State) (f : Detect → Detect) : (setDet s f).fh = s.fh := rfl
@[simp] theorem setDet_lanes (s : State) (f : Detect → Detect) : (setDet s f).lanes = s.lanes := rfl
@[simp] theorem setDet_refclk (s : State) (f : Detect → Detect) : (setDet s f).refclk = s.refclk := rfl
@[simp] theorem setDet_rclkHold (s : State) (f : Detect → Detect) : (setDet s f).rclkHold = s.rclkHold := rfl
@[simp] theorem setDet_host (s : State) (f : Detect → Detect) : (setDet s f).host = s.host := rfl
@[simp] theorem setDet_lace (s : State) (f : Detect → Detect) : (setDet s f).lace = s.lace := rfl
@[simp] theorem setDet_fab (s : State) (f : Detect → Detect) : (setDet s f).fab = s.fab := rfl
@[simp] theorem setDet_cores (s : State) (f : Detect → Detect) : (setDet s f).cores = s.cores := rfl
@[simp] theorem setDet_shanks (s : State) (f : Detect → Detect) : (setDet s f).shanks = s.shanks := rfl
@[simp] theorem setDet_cmas (s : State) (f : Detect → Detect) : (setDet s f).cmas = s.cmas := rfl
@[simp] theorem setDet_jobs (s : State) (f : Detect → Detect) : (setDet s f).jobs = s.jobs := rfl
@[simp] theorem setDet_locks (s : State) (f : Detect → Detect) : (setDet s f).locks = s.locks := rfl
@[simp] theorem setDet_posted (s : State) (f : Detect → Detect) : (setDet s f).posted = s.posted := rfl
@[simp] theorem setDet_readStat (s : State) (f : Detect → Detect) : (setDet s f).readStat = s.readStat := rfl
@[simp] theorem setDet_readData (s : State) (f : Detect → Detect) : (setDet s f).readData = s.readData := rfl

/-! ## `setBoot` -/

@[simp] theorem setBoot_variant (s : State) (f : Boot → Boot) : (setBoot s f).variant = s.variant := rfl
@[simp] theorem setBoot_pending (s : State) (f : Boot → Boot) : (setBoot s f).pending = s.pending := rfl
@[simp] theorem setBoot_freeCtr (s : State) (f : Boot → Boot) : (setBoot s f).freeCtr = s.freeCtr := rfl
@[simp] theorem setBoot_ats (s : State) (f : Boot → Boot) : (setBoot s f).ats = s.ats := rfl
@[simp] theorem setBoot_regs (s : State) (f : Boot → Boot) : (setBoot s f).regs = s.regs := rfl
@[simp] theorem setBoot_tim (s : State) (f : Boot → Boot) : (setBoot s f).tim = s.tim := rfl
@[simp] theorem setBoot_mem (s : State) (f : Boot → Boot) : (setBoot s f).mem = s.mem := rfl
@[simp] theorem setBoot_pn (s : State) (f : Boot → Boot) : (setBoot s f).pn = s.pn := rfl
@[simp] theorem setBoot_dom (s : State) (f : Boot → Boot) : (setBoot s f).dom = s.dom := rfl
@[simp] theorem setBoot_th (s : State) (f : Boot → Boot) : (setBoot s f).th = s.th := rfl
@[simp] theorem setBoot_store (s : State) (f : Boot → Boot) : (setBoot s f).store = s.store := rfl
@[simp] theorem setBoot_det (s : State) (f : Boot → Boot) : (setBoot s f).det = s.det := rfl
@[simp] theorem setBoot_boot (s : State) (f : Boot → Boot) : (setBoot s f).boot = f s.boot := rfl
@[simp] theorem setBoot_queues (s : State) (f : Boot → Boot) : (setBoot s f).queues = s.queues := rfl
@[simp] theorem setBoot_hbmPart (s : State) (f : Boot → Boot) : (setBoot s f).hbmPart = s.hbmPart := rfl
@[simp] theorem setBoot_dma (s : State) (f : Boot → Boot) : (setBoot s f).dma = s.dma := rfl
@[simp] theorem setBoot_cord (s : State) (f : Boot → Boot) : (setBoot s f).cord = s.cord := rfl
@[simp] theorem setBoot_gov (s : State) (f : Boot → Boot) : (setBoot s f).gov = s.gov := rfl
@[simp] theorem setBoot_fh (s : State) (f : Boot → Boot) : (setBoot s f).fh = s.fh := rfl
@[simp] theorem setBoot_lanes (s : State) (f : Boot → Boot) : (setBoot s f).lanes = s.lanes := rfl
@[simp] theorem setBoot_refclk (s : State) (f : Boot → Boot) : (setBoot s f).refclk = s.refclk := rfl
@[simp] theorem setBoot_rclkHold (s : State) (f : Boot → Boot) : (setBoot s f).rclkHold = s.rclkHold := rfl
@[simp] theorem setBoot_host (s : State) (f : Boot → Boot) : (setBoot s f).host = s.host := rfl
@[simp] theorem setBoot_lace (s : State) (f : Boot → Boot) : (setBoot s f).lace = s.lace := rfl
@[simp] theorem setBoot_fab (s : State) (f : Boot → Boot) : (setBoot s f).fab = s.fab := rfl
@[simp] theorem setBoot_cores (s : State) (f : Boot → Boot) : (setBoot s f).cores = s.cores := rfl
@[simp] theorem setBoot_shanks (s : State) (f : Boot → Boot) : (setBoot s f).shanks = s.shanks := rfl
@[simp] theorem setBoot_cmas (s : State) (f : Boot → Boot) : (setBoot s f).cmas = s.cmas := rfl
@[simp] theorem setBoot_jobs (s : State) (f : Boot → Boot) : (setBoot s f).jobs = s.jobs := rfl
@[simp] theorem setBoot_locks (s : State) (f : Boot → Boot) : (setBoot s f).locks = s.locks := rfl
@[simp] theorem setBoot_posted (s : State) (f : Boot → Boot) : (setBoot s f).posted = s.posted := rfl
@[simp] theorem setBoot_readStat (s : State) (f : Boot → Boot) : (setBoot s f).readStat = s.readStat := rfl
@[simp] theorem setBoot_readData (s : State) (f : Boot → Boot) : (setBoot s f).readData = s.readData := rfl

/-! ## `putCore` -/

@[simp] theorem putCore_variant (s : State) (b c : Nat) (x : Core) : (putCore s b c x).variant = s.variant := rfl
@[simp] theorem putCore_pending (s : State) (b c : Nat) (x : Core) : (putCore s b c x).pending = s.pending := rfl
@[simp] theorem putCore_freeCtr (s : State) (b c : Nat) (x : Core) : (putCore s b c x).freeCtr = s.freeCtr := rfl
@[simp] theorem putCore_ats (s : State) (b c : Nat) (x : Core) : (putCore s b c x).ats = s.ats := rfl
@[simp] theorem putCore_regs (s : State) (b c : Nat) (x : Core) : (putCore s b c x).regs = s.regs := rfl
@[simp] theorem putCore_tim (s : State) (b c : Nat) (x : Core) : (putCore s b c x).tim = s.tim := rfl
@[simp] theorem putCore_mem (s : State) (b c : Nat) (x : Core) : (putCore s b c x).mem = s.mem := rfl
@[simp] theorem putCore_pn (s : State) (b c : Nat) (x : Core) : (putCore s b c x).pn = s.pn := rfl
@[simp] theorem putCore_dom (s : State) (b c : Nat) (x : Core) : (putCore s b c x).dom = s.dom := rfl
@[simp] theorem putCore_th (s : State) (b c : Nat) (x : Core) : (putCore s b c x).th = s.th := rfl
@[simp] theorem putCore_store (s : State) (b c : Nat) (x : Core) : (putCore s b c x).store = s.store := rfl
@[simp] theorem putCore_det (s : State) (b c : Nat) (x : Core) : (putCore s b c x).det = s.det := rfl
@[simp] theorem putCore_boot (s : State) (b c : Nat) (x : Core) : (putCore s b c x).boot = s.boot := rfl
@[simp] theorem putCore_queues (s : State) (b c : Nat) (x : Core) : (putCore s b c x).queues = s.queues := rfl
@[simp] theorem putCore_hbmPart (s : State) (b c : Nat) (x : Core) : (putCore s b c x).hbmPart = s.hbmPart := rfl
@[simp] theorem putCore_dma (s : State) (b c : Nat) (x : Core) : (putCore s b c x).dma = s.dma := rfl
@[simp] theorem putCore_cord (s : State) (b c : Nat) (x : Core) : (putCore s b c x).cord = s.cord := rfl
@[simp] theorem putCore_gov (s : State) (b c : Nat) (x : Core) : (putCore s b c x).gov = s.gov := rfl
@[simp] theorem putCore_fh (s : State) (b c : Nat) (x : Core) : (putCore s b c x).fh = s.fh := rfl
@[simp] theorem putCore_lanes (s : State) (b c : Nat) (x : Core) : (putCore s b c x).lanes = s.lanes := rfl
@[simp] theorem putCore_refclk (s : State) (b c : Nat) (x : Core) : (putCore s b c x).refclk = s.refclk := rfl
@[simp] theorem putCore_rclkHold (s : State) (b c : Nat) (x : Core) : (putCore s b c x).rclkHold = s.rclkHold := rfl
@[simp] theorem putCore_host (s : State) (b c : Nat) (x : Core) : (putCore s b c x).host = s.host := rfl
@[simp] theorem putCore_lace (s : State) (b c : Nat) (x : Core) : (putCore s b c x).lace = s.lace := rfl
@[simp] theorem putCore_fab (s : State) (b c : Nat) (x : Core) : (putCore s b c x).fab = s.fab := rfl
@[simp] theorem putCore_shanks (s : State) (b c : Nat) (x : Core) : (putCore s b c x).shanks = s.shanks := rfl
@[simp] theorem putCore_cmas (s : State) (b c : Nat) (x : Core) : (putCore s b c x).cmas = s.cmas := rfl
@[simp] theorem putCore_jobs (s : State) (b c : Nat) (x : Core) : (putCore s b c x).jobs = s.jobs := rfl
@[simp] theorem putCore_locks (s : State) (b c : Nat) (x : Core) : (putCore s b c x).locks = s.locks := rfl
@[simp] theorem putCore_posted (s : State) (b c : Nat) (x : Core) : (putCore s b c x).posted = s.posted := rfl
@[simp] theorem putCore_readStat (s : State) (b c : Nat) (x : Core) : (putCore s b c x).readStat = s.readStat := rfl
@[simp] theorem putCore_readData (s : State) (b c : Nat) (x : Core) : (putCore s b c x).readData = s.readData := rfl

/-! ## `putQueue` -/

@[simp] theorem putQueue_variant (s : State) (b q : Nat) (x : Queue) : (putQueue s b q x).variant = s.variant := rfl
@[simp] theorem putQueue_pending (s : State) (b q : Nat) (x : Queue) : (putQueue s b q x).pending = s.pending := rfl
@[simp] theorem putQueue_freeCtr (s : State) (b q : Nat) (x : Queue) : (putQueue s b q x).freeCtr = s.freeCtr := rfl
@[simp] theorem putQueue_ats (s : State) (b q : Nat) (x : Queue) : (putQueue s b q x).ats = s.ats := rfl
@[simp] theorem putQueue_regs (s : State) (b q : Nat) (x : Queue) : (putQueue s b q x).regs = s.regs := rfl
@[simp] theorem putQueue_tim (s : State) (b q : Nat) (x : Queue) : (putQueue s b q x).tim = s.tim := rfl
@[simp] theorem putQueue_mem (s : State) (b q : Nat) (x : Queue) : (putQueue s b q x).mem = s.mem := rfl
@[simp] theorem putQueue_pn (s : State) (b q : Nat) (x : Queue) : (putQueue s b q x).pn = s.pn := rfl
@[simp] theorem putQueue_dom (s : State) (b q : Nat) (x : Queue) : (putQueue s b q x).dom = s.dom := rfl
@[simp] theorem putQueue_th (s : State) (b q : Nat) (x : Queue) : (putQueue s b q x).th = s.th := rfl
@[simp] theorem putQueue_store (s : State) (b q : Nat) (x : Queue) : (putQueue s b q x).store = s.store := rfl
@[simp] theorem putQueue_det (s : State) (b q : Nat) (x : Queue) : (putQueue s b q x).det = s.det := rfl
@[simp] theorem putQueue_boot (s : State) (b q : Nat) (x : Queue) : (putQueue s b q x).boot = s.boot := rfl
@[simp] theorem putQueue_hbmPart (s : State) (b q : Nat) (x : Queue) : (putQueue s b q x).hbmPart = s.hbmPart := rfl
@[simp] theorem putQueue_dma (s : State) (b q : Nat) (x : Queue) : (putQueue s b q x).dma = s.dma := rfl
@[simp] theorem putQueue_cord (s : State) (b q : Nat) (x : Queue) : (putQueue s b q x).cord = s.cord := rfl
@[simp] theorem putQueue_gov (s : State) (b q : Nat) (x : Queue) : (putQueue s b q x).gov = s.gov := rfl
@[simp] theorem putQueue_fh (s : State) (b q : Nat) (x : Queue) : (putQueue s b q x).fh = s.fh := rfl
@[simp] theorem putQueue_lanes (s : State) (b q : Nat) (x : Queue) : (putQueue s b q x).lanes = s.lanes := rfl
@[simp] theorem putQueue_refclk (s : State) (b q : Nat) (x : Queue) : (putQueue s b q x).refclk = s.refclk := rfl
@[simp] theorem putQueue_rclkHold (s : State) (b q : Nat) (x : Queue) : (putQueue s b q x).rclkHold = s.rclkHold := rfl
@[simp] theorem putQueue_host (s : State) (b q : Nat) (x : Queue) : (putQueue s b q x).host = s.host := rfl
@[simp] theorem putQueue_lace (s : State) (b q : Nat) (x : Queue) : (putQueue s b q x).lace = s.lace := rfl
@[simp] theorem putQueue_fab (s : State) (b q : Nat) (x : Queue) : (putQueue s b q x).fab = s.fab := rfl
@[simp] theorem putQueue_cores (s : State) (b q : Nat) (x : Queue) : (putQueue s b q x).cores = s.cores := rfl
@[simp] theorem putQueue_shanks (s : State) (b q : Nat) (x : Queue) : (putQueue s b q x).shanks = s.shanks := rfl
@[simp] theorem putQueue_cmas (s : State) (b q : Nat) (x : Queue) : (putQueue s b q x).cmas = s.cmas := rfl
@[simp] theorem putQueue_jobs (s : State) (b q : Nat) (x : Queue) : (putQueue s b q x).jobs = s.jobs := rfl
@[simp] theorem putQueue_locks (s : State) (b q : Nat) (x : Queue) : (putQueue s b q x).locks = s.locks := rfl
@[simp] theorem putQueue_posted (s : State) (b q : Nat) (x : Queue) : (putQueue s b q x).posted = s.posted := rfl
@[simp] theorem putQueue_readStat (s : State) (b q : Nat) (x : Queue) : (putQueue s b q x).readStat = s.readStat := rfl
@[simp] theorem putQueue_readData (s : State) (b q : Nat) (x : Queue) : (putQueue s b q x).readData = s.readData := rfl

/-! ## A free value -/

@[simp] theorem drawFree_variant (s : State) : (drawFree s).2.variant = s.variant := rfl
@[simp] theorem drawFree_pending (s : State) : (drawFree s).2.pending = s.pending := rfl
@[simp] theorem drawFree_freeCtr (s : State) : (drawFree s).2.freeCtr = s.freeCtr + 1 := rfl
@[simp] theorem drawFree_ats (s : State) : (drawFree s).2.ats = s.ats := rfl
@[simp] theorem drawFree_regs (s : State) : (drawFree s).2.regs = s.regs := rfl
@[simp] theorem drawFree_tim (s : State) : (drawFree s).2.tim = s.tim := rfl
@[simp] theorem drawFree_mem (s : State) : (drawFree s).2.mem = s.mem := rfl
@[simp] theorem drawFree_pn (s : State) : (drawFree s).2.pn = s.pn := rfl
@[simp] theorem drawFree_dom (s : State) : (drawFree s).2.dom = s.dom := rfl
@[simp] theorem drawFree_th (s : State) : (drawFree s).2.th = s.th := rfl
@[simp] theorem drawFree_store (s : State) : (drawFree s).2.store = s.store := rfl
@[simp] theorem drawFree_det (s : State) : (drawFree s).2.det = s.det := rfl
@[simp] theorem drawFree_boot (s : State) : (drawFree s).2.boot = s.boot := rfl
@[simp] theorem drawFree_queues (s : State) : (drawFree s).2.queues = s.queues := rfl
@[simp] theorem drawFree_hbmPart (s : State) : (drawFree s).2.hbmPart = s.hbmPart := rfl
@[simp] theorem drawFree_dma (s : State) : (drawFree s).2.dma = s.dma := rfl
@[simp] theorem drawFree_cord (s : State) : (drawFree s).2.cord = s.cord := rfl
@[simp] theorem drawFree_gov (s : State) : (drawFree s).2.gov = s.gov := rfl
@[simp] theorem drawFree_fh (s : State) : (drawFree s).2.fh = s.fh := rfl
@[simp] theorem drawFree_lanes (s : State) : (drawFree s).2.lanes = s.lanes := rfl
@[simp] theorem drawFree_refclk (s : State) : (drawFree s).2.refclk = s.refclk := rfl
@[simp] theorem drawFree_rclkHold (s : State) : (drawFree s).2.rclkHold = s.rclkHold := rfl
@[simp] theorem drawFree_host (s : State) : (drawFree s).2.host = s.host := rfl
@[simp] theorem drawFree_lace (s : State) : (drawFree s).2.lace = s.lace := rfl
@[simp] theorem drawFree_fab (s : State) : (drawFree s).2.fab = s.fab := rfl
@[simp] theorem drawFree_cores (s : State) : (drawFree s).2.cores = s.cores := rfl
@[simp] theorem drawFree_shanks (s : State) : (drawFree s).2.shanks = s.shanks := rfl
@[simp] theorem drawFree_cmas (s : State) : (drawFree s).2.cmas = s.cmas := rfl
@[simp] theorem drawFree_jobs (s : State) : (drawFree s).2.jobs = s.jobs := rfl
@[simp] theorem drawFree_locks (s : State) : (drawFree s).2.locks = s.locks := rfl
@[simp] theorem drawFree_posted (s : State) : (drawFree s).2.posted = s.posted := rfl
@[simp] theorem drawFree_readStat (s : State) : (drawFree s).2.readStat = s.readStat := rfl
@[simp] theorem drawFree_readData (s : State) : (drawFree s).2.readData = s.readData := rfl

end Sys2Proof.Machine
end

