-- ==== Sys2Proof/Machine/Package.lean ====
section
/-! DEFINITION. The two packages (R612–R622): where every ball lies, the identity code of the test port, the ranges of the supplies
and the currents of the rails. Nothing here changes with a command. -/

namespace Sys2Proof.Machine

/-! ## Figures (R612) -/

/-- The mechanical figures of a package: body edge, corner ball, height, coplanarity and lid flatness in µm, balls to a side, pitch and
ball diameter in µm, mass in g. -/
structure PkgFigures where
  body  : Nat
  side  : Nat
  pitch : Nat
  ball  : Nat
  corner : Nat
  height : Nat
  coplanar : Nat
  flat  : Nat
  mass  : Nat
deriving DecidableEq, Repr

/-- The figures of the L package, and of the M package. -/
def pkgFigures (l : Bool) : PkgFigures :=
  if l then { body := 70000, side := 69, pitch := 1000, ball := 600, corner := 1000, height := 4300, coplanar := 200, flat := 80, mass := 62 }
  else { body := 54000, side := 54, pitch := 1000, ball := 600, corner := 500, height := 3900, coplanar := 200, flat := 80, mass := 38 }

/-- Balls to a side. -/
def pkgSide (l : Bool) : Nat := (pkgFigures l).side

/-! ## Balls (R613–R617) -/

/-- The supply rails. -/
inductive Rail where
  | vin | vao | vserA | vserH | vio | vhbmC | vhbmQ
deriving DecidableEq, Repr

/-- The pins of the control field (R616). -/
inductive CtlPin where
  | tck | tms | tdi | tdo | trstN | resetN | pwrOk | alertN | thermtripN | bootSel (k : Nat) | laceRole (k : Nat) | tdiode (p : Bool)
  | qspiClk | qspiCsN | qspiIo (k : Nat) | uartTx | uartRx | i3cScl | i3cSda | oscIn | ppsIn | ppsOut | todRx | todTx
  | synceOut (k : Nat) | fcIn (k : Nat) | fcOut (k : Nat) | gpio (k : Nat)
deriving DecidableEq, Repr

/-- What a ball carries: ground, a supply, one wire of a lane, a reference clock input, a pin of the control field. -/
inductive Ball where
  | gnd
  | rail (r : Rail)
  | lane (n : Nat) (tx p : Bool)
  | refclk (k : Nat) (p : Bool)
  | ctl (p : CtlPin)
deriving DecidableEq, Repr

/-- Quads to a side, and the offset of their along-index (R614). -/
def quadsPerSide (l : Bool) : Nat := if l then 16 else 8
def alongOff (l : Bool) : Nat := if l then 0 else 11

/-- The quad in slot i, and the slot of a quad (R614). -/
def slotQuad (l : Bool) (i : Nat) : Nat := if l ∨ i < 24 then i else i + 32
def quadSlot (l : Bool) (q : Nat) : Nat := if l ∨ q < 24 then q else q - 32

/-- The ball at depth d and along-index a of a side: its row and its column (R614). -/
def ballAt (l : Bool) (side d a : Nat) : Nat × Nat :=
  let n := pkgSide l
  match side with
  | 0 => (d, a)
  | 1 => (a, n + 1 - d)
  | 2 => (n + 1 - d, n + 1 - a)
  | _ => (n + 1 - a, d)

/-- Depth and along-index of the ball in row y and column x, as a side counts them. -/
def sideOf (l : Bool) (side y x : Nat) : Nat × Nat :=
  let n := pkgSide l
  match side with
  | 0 => (y, x)
  | 1 => (n + 1 - x, y)
  | 2 => (n + 1 - y, n + 1 - x)
  | _ => (x, n + 1 - y)

/-- The lane ball of a side at depth d and along-index a; none outside the side's quads (R614). -/
def laneBall (l : Bool) (side d a : Nat) : Option Ball :=
  let t := a - alongOff l - 1
  if d = 0 ∨ 5 < d ∨ a ≤ alongOff l ∨ 4 * quadsPerSide l ≤ t then none
  else
    let n := 4 * slotQuad l (side * quadsPerSide l + t / 4) + t % 4
    match d with
    | 1 => some (.lane n true true)
    | 2 => some (.lane n true false)
    | 3 => some .gnd
    | 4 => some (.lane n false true)
    | _ => some (.lane n false false)

/-- The reference clock inputs with balls, and where each lies (R615). -/
def refclks (l : Bool) : List Nat := if l then List.range 8 else [0, 1, 2, 7]
def refclkAt (l : Bool) (k : Nat) (p : Bool) : Nat × Nat :=
  let i := quadSlot l (8 * k)
  ballAt l (i / quadsPerSide l) (if p then 6 else 7) (alongOff l + 4 * (i % quadsPerSide l) + 16)

/-- The inner ring: a reference clock input or ground. -/
def innerBall (l : Bool) (y x : Nat) : Ball :=
  match (refclks l).find? fun k => decide (refclkAt l k true = (y, x)) || decide (refclkAt l k false = (y, x)) with
  | some k => .refclk k (decide (refclkAt l k true = (y, x)))
  | none => .gnd

/-- Rows Y12 to Y17 of the control field, X08 to X23 (R616). -/
def ctlRow (y : Nat) : List Ball :=
  let g (n : Nat) : List Ball := List.replicate n .gnd
  let each (n : Nat) (f : Nat → CtlPin) : List Ball := (List.range n).map fun k => .ctl (f k)
  match y with
  | 12 => [CtlPin.tck, .tms, .tdi, .tdo, .trstN, .resetN, .pwrOk, .alertN, .thermtripN, .bootSel 0, .bootSel 1, .laceRole 0, .laceRole 1,
      .tdiode true, .tdiode false].map Ball.ctl ++ g 1
  | 13 => [CtlPin.qspiClk, .qspiCsN, .qspiIo 0, .qspiIo 1, .qspiIo 2, .qspiIo 3, .uartTx, .uartRx, .i3cScl, .i3cSda, .oscIn].map Ball.ctl ++
      g 1 ++ [CtlPin.ppsIn, .ppsOut, .todRx, .todTx].map Ball.ctl
  | 14 => each 4 .synceOut ++ g 4 ++ each 8 .fcIn
  | 15 => each 8 .fcOut ++ g 8
  | 16 => each 16 .gpio
  | _ => g 16

/-- A ball lies in an HBM field (R617). -/
def hbmField (l : Bool) (y x : Nat) : Bool :=
  if l then decide (28 ≤ y) && decide (y ≤ 42) && ((decide (10 ≤ x) && decide (x ≤ 15)) || (decide (55 ≤ x) && decide (x ≤ 60)))
  else decide (20 ≤ y) && decide (y ≤ 34) && decide (10 ≤ x) && decide (x ≤ 15)

/-- A core ball outside the control field (R617). -/
def coreBall (l : Bool) (y x : Nat) : Ball :=
  let n := pkgSide l
  let e := Nat.min (Nat.min (y - 8) (x - 8)) (Nat.min (n - 7 - y) (n - 7 - x))
  if 18 ≤ y ∧ y ≤ 19 ∧ 8 ≤ x ∧ x ≤ 23 then (if x % 2 = 0 then .gnd else .rail (if y = 18 then .vio else .vao))
  else if (y + x) % 2 = 0 then .gnd
  else if hbmField l y x then .rail (if y % 2 = 0 then .vhbmC else .vhbmQ)
  else if e = 0 then .rail .vserA
  else if e = 1 then .rail .vserH
  else .rail .vin

/-- How deep a ball lies from the body edge. -/
def ballDepth (l : Bool) (y x : Nat) : Nat :=
  let n := pkgSide l
  Nat.min (Nat.min y x) (Nat.min (n + 1 - y) (n + 1 - x))

/-- The ball in row y and column x, counted from 1 (R613): a ball that no rule names is ground. -/
def ballOf (l : Bool) (y x : Nat) : Ball :=
  let d := ballDepth l y x
  if d ≤ 5 then ((List.range 4).findSome? fun k => laneBall l k (sideOf l k y x).1 (sideOf l k y x).2).getD .gnd
  else if d ≤ 7 then innerBall l y x
  else if 12 ≤ y ∧ y ≤ 17 ∧ 8 ≤ x ∧ x ≤ 23 then (ctlRow y).getD (x - 8) .gnd
  else coreBall l y x

/-! ## The test port, supplies and currents (R618–R622) -/

/-- The IEEE 1149.1 identity code of both packages (R618): version 1, part 0xD9A1, manufacturer 0x5A3. -/
def idcode : W32 := 0x1D9A1B47#32

/-- The operating range of a rail in 0.1 mV: minimum, nominal, maximum (R511, R620). -/
def railRange : Rail → Nat × Nat × Nat
  | .vin => (15200, 16000, 16800)
  | .vao => (7280, 7500, 7730)
  | .vserA => (8730, 9000, 9270)
  | .vserH => (11640, 12000, 12360)
  | .vio => (17100, 18000, 18900)
  | .vhbmC => (10670, 11000, 11330)
  | .vhbmQ => (3880, 4000, 4120)

/-- The most that a rail may ever see, in mV; none may see less than −300 mV (R619). -/
def railAbsMax : Rail → Nat
  | .vin => 1900 | .vao => 900 | .vserA => 1050 | .vserH => 1400 | .vio => 2100 | .vhbmC => 1300 | .vhbmQ => 500

/-- The rails that the always-on monitor watches (R582). -/
def railWatched (r : Rail) : Bool := decide (r ≠ .vao)

/-- The monitor takes a watched rail for out of range (R621): more than 2 % of nominal outside its range, for 2 µs or longer. A rise
of `SUPPLY_OUT_OF_RANGE` is the row that reports it. -/
def railBad (r : Rail) (level us : Nat) : Bool :=
  match railRange r with
  | (lo, nom, hi) => railWatched r && decide (2 ≤ us) && (decide (50 * level + nom < 50 * lo) || decide (50 * hi + nom < 50 * level))

/-- The current of a rail in mA (R622): what a variant's board must deliver, and the most that `VIO` and `VAO` draw, `VAO` less while
`PWR_OK` is low. -/
def railMilliamps (v : Variant) (pwrLow : Bool) : Rail → Nat
  | .vin => 1000 * (match v with
    | .l16a => 190 | .l16d => 175 | .l12a => 150 | .l12d => 140 | .l08a => 110 | .l08d => 103
    | .m12a => 135 | .m12d => 125 | .m08a => 95 | .m08d => 88 | .m04a => 60 | .m04d => 55)
  | .vserA => if isL v then 54000 else 27000
  | .vserH => if isL v then 26000 else 13000
  | .vhbmC => if isL v then 12000 else 6000
  | .vhbmQ => if isL v then 16000 else 8000
  | .vio => 500
  | .vao => if pwrLow then 40 else 120

end Sys2Proof.Machine
end

