-- ==== Sys2Proof/Tests/Slice0.lean ====
section
/-! SUPPORT. The model's own tests: the smoke test of the well-formedness checks, one-step tests, and witnesses of the
hypotheses of the statements. -/

namespace Sys2Proof.Tests
open Sys2Proof Sys2Proof.Machine

/-! ## States and operands that the tests start from -/

/-- The state after reset with some registers written: by register key, rising. -/
def withRegs (l : List (Nat × W32)) : State := { State.reset with regs := l }

/-- Urvar accepts commands (FW_UP). -/
def up : State := withRegs [(R.pnStat.key 0 0, 0x10000#32)]

/-- A request of PCIe stream 0. -/
def req (ws : List W32) : Req := { stream := 0, tag := 7, note := false, crcv := false, self := true, source := 0, params := ws }

/-- The same from the I3C stream. -/
def reqI3c (ws : List W32) : Req := { req ws with stream := 8 }

/-- A task that runs on a site. -/
def task (cls : Nat) (st : TState) (x : Option Site) : Task :=
  { cls := cls, prio := 0, flow := 0, dep := 0, late := 0, release := 0, deadline := 0, bench := 0, aff := 0, unit := 0, unitV := false,
    half := false, succ := [], nodes := [], st := st, instat := 0, onfail := false, skipped := false, laterel := false, missed := false,
    param := 0, pattern := 0, tmpl := 0, inum := 0, cell := 0, alt := 0, altV := false, entry := 0, er0 := (0, 0), er1 := (0, 0),
    dlist := 0, dseq := 0, rseq := 0, rats := 0, mac := none, site := x, arrived := true, sseq := 0, carried := false, acted := false,
    overDone := false, pastRel := false, pastDl := false }

/-- The state after reset with live tasks. -/
def withTasks (l : List (Nat × Task)) : State := { State.reset with cord := { Cord.reset with tasks := l } }

/-- A running array job with `seg` segments begun. -/
def arrayJob (cur : Option (List W32)) : CmaJob :=
  { task := 5, param := 0, desc := [0x11#32, 0x2001#32, 1#32], seg := 0, cur := cur, done := 0, need := false, set := (0, 0), vectors := 0, suspect := 0,
    degraded := 0, osat := 0, demand := 0, pfdrop := 0, worst := none, band := 0, xfer := false, stall := 0, stop := none, errs := [] }

/-- The state after reset with the array of bench 0 as given. -/
def withArray (c : Cma) (regs : List (Nat × W32)) : State := { withRegs regs with cmas := [(0, c)] }

/-! ## Form and reset -/

/-- The memory and the register file after reset are in canonical form. -/
theorem test_reset_wf : (State.reset.mem.wf && keysRise State.reset.regs) = true := by decide

/-- R37, R35: `AT_CTL` and `AT_HOLD_ERR` after reset. -/
theorem test_reset_atCtl : rd State.reset R.atCtl = 0xA0F#32 ∧ rd State.reset R.atHoldErr = 0xFFFFFFFF#32 := by decide

/-- R256: a queue is one unit long after reset and empty. -/
theorem test_reset_queue : rd State.reset R.qSize 0 0 = 1#32 ∧ rd State.reset R.qStat 0 0 = 0x20#32 := by decide

/-! ## Ill-formed commands are refused by `Instr.wf` -/

theorem test_wf_request : Instr.wf (.devEcho (req (List.replicate 1021 0#32))) = false := by
  show decide ((List.replicate 1021 0#32).length ≤ 1020) = false
  rw [List.length_replicate]; decide
theorem test_wf_request_i3c : Instr.wf (.devEcho (reqI3c (List.replicate 60 0#32))) = false := by
  show decide ((List.replicate 60 0#32).length ≤ 59) = false
  rw [List.length_replicate]; decide
theorem test_wf_packet_long : Instr.wf (.commandPacketRx { carrier := .i3c 0, words := List.replicate 1025 0#32, poisoned := false }) = false := by
  show (decide (1 ≤ (List.replicate 1025 0#32).length) && decide ((List.replicate 1025 0#32).length ≤ 1024)) = false
  rw [List.length_replicate]; decide
theorem test_wf_packet_empty : Instr.wf (.i3cPrivateWrite { carrier := .i3c 0, words := [], poisoned := false }) = false := rfl
theorem test_wf_tod : Instr.wf (.todMessageRx (List.replicate 8388609 0#8) true) = false := by
  show decide ((List.replicate 8388609 0#8).length ≤ 8388608) = false
  rw [List.length_replicate]; decide
theorem test_wf_benchWrite : Instr.wf (.benchMemWrite 0 0 (List.replicate 8388609 0#8) false) = false := by
  show decide ((List.replicate 8388609 0#8).length ≤ 8388608) = false
  rw [List.length_replicate]; decide
theorem test_wf_pop : Instr.wf (.qPopRead 0 0 1 (List.replicate 4097 (0 : Nat))) = false := by
  show decide ((List.replicate 4097 (0 : Nat)).length ≤ 4096) = false
  rw [List.length_replicate]; decide
theorem test_wf_hbmWrite : Instr.wf (.hbmWrite 0 (List.replicate 8388609 0#8) false) = false := by
  show decide ((List.replicate 8388609 0#8).length ≤ 8388608) = false
  rw [List.length_replicate]; decide
theorem test_wf_bar2Write : Instr.wf (.bar2Write 0 (List.replicate 8388609 0#8) false) = false := by
  show decide ((List.replicate 8388609 0#8).length ≤ 8388608) = false
  rw [List.length_replicate]; decide
theorem test_wf_gvLoad : Instr.wf (.gvLoadUpdate (List.replicate 4097 (0 : Nat))) = false := by
  show decide ((List.replicate 4097 (0 : Nat)).length ≤ 4096) = false
  rw [List.length_replicate]; decide
theorem test_wf_niRequest : Instr.wf (.niRequestSend 0 0 0 false 0 0 (List.replicate 1048577 (0#64, false))) = false := by
  show decide ((List.replicate 1048577 (0#64, false)).length ≤ 1048576) = false
  rw [List.length_replicate]; decide
theorem test_wf_pennantSq : Instr.wf (.pennantSqEntry 0 (List.replicate 1048577 0#32) false) = false := by
  show decide ((List.replicate 1048577 0#32).length ≤ 1048576) = false
  rw [List.length_replicate]; decide
theorem test_wf_hostDma : Instr.wf (.hostDmaEntry 0 (List.replicate 1048577 0#32)) = false := by
  show decide ((List.replicate 1048577 0#32).length ≤ 1048576) = false
  rw [List.length_replicate]; decide
theorem test_wf_hostDmaData : Instr.wf (.hostDmaComplete 0 (List.replicate 8388609 0#8)) = false := by
  show decide ((List.replicate 8388609 0#8).length ≤ 8388608) = false
  rw [List.length_replicate]; decide
theorem test_wf_pcieEp : Instr.wf (.pcieEpWriteRx 0 (List.replicate 1048577 0#64)) = false := by
  show decide ((List.replicate 1048577 0#64).length ≤ 1048576) = false
  rw [List.length_replicate]; decide
theorem test_wf_prepare : Instr.wf (.prepareRx (List.replicate 1048577 0#32)) = false := by
  show decide ((List.replicate 1048577 0#32).length ≤ 1048576) = false
  rw [List.length_replicate]; decide
theorem test_wf_forwardReply : Instr.wf (.forwardReplyRx 0 .ok (List.replicate 1048577 0#32)) = false := by
  show decide ((List.replicate 1048577 0#32).length ≤ 1048576) = false
  rw [List.length_replicate]; decide
theorem test_wf_fragment : Instr.wf (.laceFragmentRx 0 0 0 0 (List.replicate 1048577 (0#64, false))) = false := by
  show decide ((List.replicate 1048577 (0#64, false)).length ≤ 1048576) = false
  rw [List.length_replicate]; decide
theorem test_wf_powerLoop : Instr.wf (.powerLoopStep 0 (List.replicate 4097 (0 : Nat))) = false := by
  show decide ((List.replicate 4097 (0 : Nat)).length ≤ 4096) = false
  rw [List.length_replicate]; decide
theorem test_wf_sensors : Instr.wf (.sensorSample (List.replicate 63 (none : Reading))) = false := by
  show decide ((List.replicate 63 (none : Reading)).length = 64) = false
  rw [List.length_replicate]; decide
theorem test_wf_image : Instr.wf (.imageFetchComplete (List.replicate 1048577 0#32) true) = false := by
  show decide ((List.replicate 1048577 0#32).length ≤ 1048576) = false
  rw [List.length_replicate]; decide
theorem test_wf_bootChunk : Instr.wf (.laceBootChunkRx 0 (List.replicate 1048577 0#32)) = false := by
  show decide ((List.replicate 1048577 0#32).length ≤ 1048576) = false
  rw [List.length_replicate]; decide

/-! ## Witnesses: states and operands that meet a statement's hypotheses together -/

/-- Every statement over commands that start at once. -/
theorem witness_starts : Starts up 0x0101 (req [1#32]) := ⟨Or.inl (by decide), rfl, by decide, by decide, by decide⟩
theorem witness_starts_mp : Starts State.reset 0x0101 { req [] with stream := 10 } := ⟨Or.inr rfl, rfl, by decide, by decide, by decide⟩

/-- CommandWaitsForItsStream. -/
theorem witness_streamBusy : let s := setPn up fun p => { p with held := [heldOf 0x0303 (req [])] }
    commandOf (.devEcho (req [])) = some (0x0101, req []) ∧ s.pn.waiting = [] ∧ streamBusy s 0 = true := by decide

/-- CommandOutsideI3cSet: `PATTERN_LOAD` is not open to I3C. -/
theorem witness_outsideI3c : commandOf (.patternLoad (reqI3c [])) = some (0x0303, reqI3c []) ∧ 0x0303 ∉ i3cOps ∧
    fwUp up = true ∧ up.pn.waiting = [] ∧ streamBusy up 8 = false := by decide

/-- RegisterReadBack and EventLatchesAndCounts. -/
theorem witness_keysRise : keysRise up.regs = true := by decide

/-- MemoryReadBack. -/
theorem witness_memory : State.reset.mem.wf = true ∧ (State.reset.mem.setBytes 8 [1#8, 2#8]).wf = true := by decide

/-- StepKeepsInv and FusesStand. -/
theorem witness_inv : Inv State.reset := ⟨by decide, by decide, by decide, ⟨Nat.zero_le _, Nat.zero_le _, Nat.zero_le _, List.nodup_nil⟩⟩

/-- EventSink of PennantCommands: kind 6, the last that routes. -/
theorem witness_eventSinkSet : onlyBits 6#32 0xFFFF003F#32 = true ∧ 1 ≤ fld 6#32 2 0 ∧ fld 6#32 2 0 ≤ 6 ∧ bit 6#32 5 = false := by decide

/-- ReferenceTransitions: a reference becomes usable in FREERUN, and a settled frequency in ACQUIRE. -/
theorem witness_refs : let s := withRegs [(R.atStat.key 0 0, 0x20#32)]
    timState s = 0 ∧ bestRef s ≠ 0 := by decide
theorem witness_acquire : let s := withRegs [(R.atStat.key 0 0, 0x9#32)]
    timState s = 1 ∧ (sext 32 (rd s R.atPhaseErr).toNat).natAbs ≤ 1966 := by decide
theorem witness_holdover : timState (withRegs [(R.atStat.key 0 0, 4#32)]) = 4 := by decide

/-- PinsHoldoverSteps: an edge exactly one second after the last. -/
theorem witness_ppsEdge : let s := setTim State.reset fun t => { t with lastEdge := some 0, todFresh := some 5 }
    ppsIgnored s = false ∧ s.tim.lastEdge = some 0 ∧ s.tim.todFresh ≠ none ∧
    0 + tcPerSec ≤ wrapTo 64 ((BitVec.ofNat 64 tcPerSec).toNat + sext 32 s.tim.ppsComp.toNat) + 19660 := by decide

/-- MemoryPorts: the last word of the last bench, clean, poisoned and with one flipped bit. -/
theorem witness_benchMem : benchHere State.reset.variant 15 = true ∧
    State.reset.mem.mark ((benchBase 15 + 8 * 1048575) / 8) = .clean ∧
    (State.reset.mem.setMark 5 .poison).mark 5 = .poison ∧ (State.reset.mem.setMark 5 .single).mark 5 = .single := by decide
theorem witness_hbm : hbmHere State.reset 0x7FFFFFFF8 = true ∧ hbmHere { State.reset with variant := .m12a } 0x400000000 = false := by decide

/-- QueueHeaders: a queue that is enabled for the host and empty, and one that is too short for a header. -/
theorem witness_queueHeader : let s := withRegs [(R.qCfg.key 0 0, 1#32), (R.qProd.key 0 0, 4#32)]
    benchHere s.variant 0 = true ∧ (queueOf s 0 0).held = [] ∧ openPkt (queueOf s 0 0) = none ∧ rdB s R.qInj 0 0 0 = false ∧
    qOn s 0 0 = true ∧ ownSrc s 0 0 .host = true ∧ fld 511#64 23 16 = 0 ∧ fld 511#64 15 0 + 1 ≤ qWords s 0 0 ∧
    hdrFits s 0 0 511#64 = true ∧ qXoff s 0 0 = false ∧ qWords s 0 0 < fld 512#64 15 0 + 1 := by decide

/-- QueueWords: an open packet of the host's queue. -/
theorem witness_queueOpen : let p : QPkt := { start := 0, len := 2, got := 1, pad := 0, popped := 0, trunc := false, poison := false }
    let s := { withRegs [(R.qCfg.key 0 0, 1#32), (R.qProd.key 0 0, 4#32)] with queues := [(0, { pkts := [p], occ := 3, held := [], last := 0 })] }
    rdB s R.qInj 0 0 0 = false ∧ openPkt (queueOf s 0 0) = some p ∧ qOn s 0 0 = true ∧ ownSrc s 0 0 .host = true ∧
    qInplace s 0 0 = false ∧ popAvail s 0 0 (queueOf s 0 0).pkts = 0 := by decide

/-- RegisterWrites: an absent stack and an absent bench. -/
theorem witness_absent : stackHere Variant.m12a 1 = false ∧ stackHere Variant.l16a 0 = true ∧ benchHere Variant.m08a 15 = false := by decide

/-- DmaChains: a host-controlled channel that is idle, and a running one. -/
theorem witness_dma : let s := withRegs [(R.dmaCtl.key 0 0, 1#32)]
    benchHere s.variant 0 = true ∧ rdB s R.dmaCtl 0 0 0 = true ∧ dmaState s 0 0 ≠ 1 ∧
    dmaState (withRegs [(R.dmaStat.key 0 0, 1#32)]) 0 0 = 1 := by decide

/-- TasksStart and TransformJobs: a staged task of an FFT engine starts. -/
theorem witness_staged : let t := task 1 .staged (some (.bench 0 9))
    (beginTask (withTasks [(3, t)]) (.bench 0 9)).isSome = true ∧ awake (withTasks [(3, t)]) 0 = true := by decide

/-- TasksComplete: a completion of a running task is on its way, and a late one of no task. -/
theorem witness_completion : let s := { withTasks [(3, task 1 .run (some (.bench 0 9)))] with
      cord := { Cord.reset with tasks := [(3, task 1 .run (some (.bench 0 9)))], inbox := [(3, 0#16)] } }
    s.cord.inbox = [(3, 0#16)] ∧ (taskOf s 3).isSome = true ∧ taskOf s 4 = none := by decide

/-- CompletionFreesTask: a task with one successor that waits for two. -/
theorem witness_successor : let t := { task 1 .run (some (.bench 0 9)) with succ := [4] }
    let u := { task 1 .wait none with dep := 2 }
    let s := withTasks [(3, t), (4, u)]
    keysRise s.cord.tasks = true ∧ taskOf s 3 = some t ∧ taskOf s 4 = some u ∧ t.succ = [4] ∧ u.st = .wait ∧ 2 ≤ u.dep ∧
    instOf s t.inum = none := by decide

/-- PowerLimits: a ramp that ends, and a power within and beyond the limit. -/
theorem witness_ramp : let s := setDom State.reset 0 fun y => { y with fitNow := 2, fitGoal := some 3 }
    (domOf s 0).fitGoal = some 3 ∧ (domOf s 0).fitNow + 1 = 3 ∧ (domOf s 0).fitNext = none := by decide

/-- DomainTransitions: domain 37 may idle, and a sleeping bench is woken. -/
theorem witness_idle : domainHere State.reset.variant 37 = true ∧ pdState State.reset 37 = 0 ∧ rdB State.reset R.pdCfg 37 0 16 = true ∧
    pdHeld State.reset 37 = false ∧ domainRuns State.reset 37 = false := by decide
theorem witness_asleep : let s := withRegs [(R.pdStat.key 0 0, 2#32)]
    domainHere s.variant 0 = true ∧ pdHeld s 0 = false ∧ pdState s 0 = 2 := by decide

/-- Fences: every fenced domain is open after reset; a fence that drains. -/
theorem witness_fence : domainHere State.reset.variant 36 = true ∧ fnState State.reset 36 = 0 ∧ fnState (setFn State.reset 0 1) 0 = 1 := by decide

/-- ThermalAndStoreCommands: LOCKED, and RUN. -/
theorem witness_locked : tstate (withRegs [(R.thStat.key 0 0, 0x10000000#32)]) = 2 ∧ tstate State.reset = 0 ∧
    R.thCfg.legal 0x5001#32 = true ∧ R.thCfg.legal 0x6900#32 = true := by decide

/-- ResetsAndPower and BootRom: straps not sampled yet, an image awaited from the flash. -/
theorem witness_boot : State.reset.boot.pwrOk = true ∧ fwUp State.reset = false ∧ phase State.reset = 0 ∧
    phase (withRegs [(R.bootStat.key 0 0, 2#32)]) = 2 ∧ bootSrc (withRegs [(R.bootStat.key 0 0, 2#32)]) = 0 := by decide

/-- LaneTraining: a lane in phase 1. -/
theorem witness_lane : laneHere State.reset.variant 255 = true ∧ laneState (setLaneState State.reset 255 1) 255 = 1 ∧
    inAttempt (setLaneState State.reset 255 1) 255 = true := by decide

/-- LaneTraining: an Ethernet lane in phase 6 that no closed switch holds. -/
theorem witness_phase6 : let s := withRegs [(R.laneStat.key 0 0, 6#32), (R.laneCtl.key 0 0, 1#32)]
    laneHere s.variant 0 = true ∧ laneState s 0 = 6 ∧ laneRole s 0 = 1 ∧ receiveOnly s 0 = false := by decide

/-- FabricControl: the management processor commits an entry; a router takes a request. -/
theorem witness_fabric : niHere State.reset.variant 39 = true ∧ routerHere State.reset.variant 37 = true ∧
    rdF State.reset R.rtRcfg 37 0 28 27 = 0 ∧ freeSlot State.reset 0 = some 0 ∧ rateOf State.reset 0 0 = 0 := by decide

/-- I3cAndPins: no dynamic address after reset. -/
theorem witness_i3c : State.reset.host.i3cDyn = none := by decide

/-- CodingJobs: a job runs on LDPC decoder 11 of half 1. -/
theorem witness_coding : let j : EngJob := { task := 3, param := 0, desc := List.replicate 16 0#32 }
    runningPool { State.reset with jobs := [(64 + 64 + 11, j)] } 1 11 = some j := by decide

/-- ArrayJobs: a job whose next segment is to begin, and one whose vector may leave. -/
theorem witness_arrayJob : let s := withArray { Cma.reset with job := some (arrayJob none) } []
    (cmaOf s 0).job = some (arrayJob none) ∧ awake s 0 = true ∧ (arrayJob none).stop = none ∧ (arrayJob none).cur = none ∧
    (arrayJob none).seg < jNseg (arrayJob none).desc := by decide

/-- ArrayCalibration: the band rises at T1 = 6 A, and stays below it; a background pass at its last step. -/
theorem witness_band : cmaHere State.reset.variant 15 = true ∧ bandOfCurrent State.reset 15 24 = 1 ∧ bandOfCurrent State.reset 15 23 = 0 ∧
    cmaBand State.reset 15 = 0 := by decide
theorem witness_bgCal : let s := withArray { Cma.reset with bg := some (65, 1, 0) } [(R.cmaStat.key 0 0, 2#32)]
    awake s 0 = true ∧ cmaState s 0 = 2 ∧ (cmaOf s 0).bg = some (65, 1, 0) ∧ (cmaOf s 0).mode = 1 := by decide

/-- AwlScalar, AwlMemory, AwlVector and AwlFloatAndEyelets: a core in flow finds its operands. -/
theorem witness_core : coreRuns State.reset 15 7 = true ∧ bit (coreOf State.reset 15 7).tick.status 16 = false := by decide

/-- ShankRows: a Shank runs a task at its last instruction. -/
theorem witness_shank : let s := { withRegs [(R.shStat.key 0 0, 0x100#32)] with
      shanks := [(0, { Shank.reset with task := some 3, pc := 8191 })] }
    benchHere s.variant 0 = true ∧ awake s 0 = true ∧ rdF s R.shStat 0 0 9 8 = 1 ∧ (shankOf s 0).task.isSome = true ∧
    (shankOf s 0).pc < 8192 := by decide

/-- LaceLinks: an up port, one in its handshake and one spliced; the highest port. -/
theorem witness_port : portState (setPortState State.reset 31 3) 31 = 3 ∧ portState (setPortState State.reset 31 2) 31 = 2 ∧
    portState (setPortState State.reset 31 5) 31 = 5 ∧ receiveOnly (setPortState State.reset 31 2) 0 = false ∧
    (portOf State.reset 31).unacked = [] ∧ (portOf State.reset 31).naked = false ∧ portRing (setPortState State.reset 31 3) 31 = false := by decide

/-- LaceDomain: a masthead, an acting standby that is joined, a member that is neither, a splice under way. -/
theorem witness_domain : acting (withRegs [(R.ldId.key 0 0, 0x110007#32)]) = 2 ∧ ownId (withRegs [(R.ldId.key 0 0, 0x110007#32)]) = 7 ∧
    joined (withRegs [(R.ldId.key 0 0, 0x90007#32)]) = true ∧ acting (withRegs [(R.ldId.key 0 0, 0x90007#32)]) = 1 ∧
    joined (withRegs [(R.ldId.key 0 0, 0x10007#32)]) = true ∧ upstream (withRegs [(R.ldId.key 0 0, 0x10007#32)]) = none ∧
    ownId (withRegs [(R.ldId.key 0 0, 0x90007#32)]) = 7 ∧ groupClosed State.reset 3 = true ∧ State.reset.lace.join = none ∧
    State.reset.lace.called = false ∧ (setLace State.reset fun l => { l with called := true }).lace.called = true := by decide

/-- LaceCommands and LaceDomain: no cell runs, and an alignment step is due. -/
theorem witness_align : let s := setLace (withRegs [(R.ldHoist.key 0 0, 0x20F#32)]) fun l => { l with tset := true }
    s.lace.tset = true ∧ rdB s R.ldHoist 0 0 9 = true ∧ anyCell s = false := by decide

/-- QueuePairs: a pair of 16 entries with one submitted; a Pennant entry of 16 bytes, and one of 4,100. -/
theorem witness_queuePair : let s := withRegs [(R.qpCfg.key 7 0, 0x14#32), (R.sqTail.key 7 0, 1#32)]
    qpEn s 7 = true ∧ qpSize s 7 = 16 ∧ sqOcc s 7 = 1 ∧ fwUp up = true ∧ qpEn State.reset 63 = false ∧
    sqFault (16#32 :: List.replicate 15 0#32) = none ∧ sqFault (4100#32 :: List.replicate 15 0#32) = some .lengthRange := by decide

/-- PacketsReceived: a packet too short for its header, no armed injector, no forwarded command. -/
theorem witness_packet : headerOk { carrier := .lace 3#16 16 0, words := [0x0101#32], poisoned := false } = false ∧
    rdB up R.pnInj 0 0 0 = false ∧ streamBusy up 8 = false ∧ up.pn.i3cReply = none ∧ mayInject up .mp = true ∧ mayInject up .host = false ∧
    partialOf up 0xFFFF#16 65535 = none ∧ preparedOf up 0x0203 9#16 = none := by decide

/-- PacketsReceived: a sound `DEV_ECHO` packet over PCIe passes the checks of R480. -/
theorem witness_packetSound : let p : Packet := { carrier := .pcie 0 20, words := mkPacket 0x0101 7 (2 ^ 23) 0 0 0 [5#32] false, poisoned := false }
    headerOk p = true ∧ packetFault up p false = none := by decide +kernel

/-- Fronthaul: a MAC that is up, with PFC, PAUSE and delay measurement enabled; a queue that is XOFF. -/
theorem witness_mac : let s := modMac (withRegs [(R.macStat.key 127 0, 1#32)]) 127 fun c => { c with cfg := [0x7000#32, 9216#32, 0#32, 0#32, 0#32, 0#32], xoff := 0x80#16 }
    macUp s 127 = true ∧ bit (nth (macOf s 127).cfg 0 0#32) 12 = true ∧ bit (nth (macOf s 127).cfg 0 0#32) 13 = true ∧
    bit (nth (macOf s 127).cfg 0 0#32) 14 = true ∧ (macOf s 127).xoff.getLsbD 7 = true ∧ (macOf s 127).xoff.getLsbD 6 = false ∧
    (macOf s 127).line = none ∧ fhJobOf s 127 131071 = none ∧ flowOn s 4095 = none := by decide

/-- LaneDetectors: a lane whose signal is lost, no injection, a held clock track. -/
theorem witness_detector : laneForced State.reset 255 1 = false ∧ laneForced State.reset 255 2 = false ∧
    rdB State.reset R.laneStat 255 0 7 = true ∧ rdB State.reset R.laneStat 255 0 8 = true ∧ laneState State.reset 255 ≠ 10 ∧
    quadHere State.reset.variant 63 = true ∧ quadHere Variant.m12a 24 = false ∧
    rdB (withRegs [(R.rclkSel.key 0 3, 0x100#32)]) R.rclkSel 0 3 8 = true := by decide

/-- TransformJobs: engine 1 of bench 15 runs a PRACH job with no symbol. -/
theorem witness_transform : let j : EngJob := { task := 3, param := 0, desc := 0x40#32 :: List.replicate 15 0#32 }
    let s := { State.reset with jobs := [(31, j)] }
    jobOf s 31 = some j ∧ fMode j.desc = 4 ∧ fNsym j.desc = 0 ∧ da j.desc 14 = 0 ∧ awake s 15 = true := by decide

/-- ThermalEvents: throttling at its floor, the ledger due, many free segments. -/
theorem witness_thermal : let s := { up with store := { up.store with sinceWrite := 600 } }
    fwUp s = true ∧ 600 ≤ s.store.sinceWrite ∧ 16 ≤ freeSegs s.store.journal ∧ journalFull s.store.journal = false ∧
    throttled s = false ∧ thPct s = 100 ∧ sensorHere s.variant 63 = true := by decide

/-- ReferenceTransitions: a member of a Hoist whose four thetas agree, and a device that has joined none. -/
theorem witness_hoist : hoistGood (setLace (withRegs [(R.lcStat.key 31 0, 8#32), (R.ldId.key 0 0, 0x10007#32),
    (R.ldHoist.key 0 0, 1#32), (R.ldHerr.key 0 0, 0#32)])
    fun l => { l with ports := [(31, { LPort.reset with thetas := [0, 1, 2, 3] })] }) = true ∧ hoistGood State.reset = false := by decide

/-- QueueHeaders: an XOFF queue, and one whose armed fault strikes the next word. -/
theorem witness_queueEntry : qXoff (withRegs [(R.qStat.key 0 0, 2#32)]) 0 0 = true ∧ (entryCheck State.reset 0 0 false).2 = false ∧
    (entryCheck (withRegs [(R.qInj.key 0 0, 1#32)]) 0 0 false).2 = true ∧
    ownSrc (withRegs [(R.qProd.key 0 0, 2#32)]) 0 0 (.mac 0) = true := by decide

/-- QueueWords: PKT_TMO of 2 ticks, which has passed 3 ticks after the last word and not yet after 2. -/
theorem witness_pktTimeout : let s := withRegs [(R.qCfg.key 0 0, 0x20001#32)]
    rdF s R.qCfg 0 0 23 16 = 2 ∧ (queueOf s 0 0).last + 2 < tickNow { s with ats := 3 * 4096 } ∧
    tickNow { s with ats := 2 * 4096 } ≤ (queueOf s 0 0).last + 2 := by decide

/-- RegisterWrites: a register with no unit behind it, a guarded one, and the MRAM window. -/
theorem witness_register : let a := R.thCfg.key 0 0
    (regAt a).any (fun x => x.1.blk.here State.reset.variant x.2.1 && !stickyRegs.any x.1.is && !unitRegs.any x.1.is &&
      !x.1.is R.srTail && !x.1.is R.fnCtl && !x.1.is R.rtRcfg && decide (x.1.blk.base ≠ R.laneB.base) &&
      decide (x.1.blk.base ≠ R.cmaB.base)) = true ∧
    barKey a = none ∧ inMram a = false ∧ routeWord a = none ∧ ipiCore a = none ∧ queueReg a = none ∧ writeLocked State.reset a = false ∧
    inMram mramBase = true ∧ (regAt mramBase).isNone = true ∧ privF .mp = true ∧ privF .host = false ∧ barDenied bar0 = true := by
  decide +kernel

/-- TasksStart: staged tasks of a core and of a DMA channel in SCHED mode, and a channel in HOST mode. -/
theorem witness_sites : (beginTask (withTasks [(3, task 0 .staged (some (.bench 15 7)))]) (.bench 15 7)).isSome = true ∧
    (coreOf State.reset 15 7).task = none ∧
    (beginTask (withTasks [(3, task 14 .staged (some (dmaSite 15 3)))]) (dmaSite 15 3)).isSome = true ∧
    siteHosted (withRegs [(R.dmaCtl.key 15 3, 1#32)]) (dmaSite 15 3) = true ∧ siteHosted State.reset (dmaSite 15 3) = false ∧
    siteAwake State.reset (dmaSite 15 3) = true ∧
    siteHere State.reset.variant (.pool 1 45) = true ∧ siteHere Variant.m08a (.bench 15 0) = false := by decide

/-- Fences: nothing of an idle fabric is outstanding, and a request that waits for its answer is. -/
theorem witness_drained : drained State.reset 36 = true ∧
    drained (setFab State.reset fun f => { f with outst := [{ ni := 0, slot := 0, gen := 0, len := 1, rd := true, fc := false, remote := false }] }) 0 = false := by
  decide

/-- QueuePairs: a host DMA entry of 16 MiB within the device, and a remote one. -/
theorem witness_hostDma : dmaBad [0#32, 0xFFFFFF#32, 0#32, 0#32, 0#32, 0#32] = false ∧ dmaBad [0#32, 0#32, 0#32, 0#32, 0#32, 0x8000#32] = true := by
  decide

/-- I3cAndPins: a MARK pin at its boundary, and one beside it. -/
theorem witness_mark : tickNow State.reset % markPeriod 3#32 = fld 3#32 19 7 ∧ tickNow State.reset % markPeriod 0x83#32 ≠ fld 0x83#32 19 7 := by
  decide

/-- LaneTraining: no block arrived; a lane of an enabled port. -/
theorem witness_sync : syncOf [] = none ∧ lanePort (withRegs [(R.lcCfg.key 0 0, 0x800#32)]) 0 = some 0 := by decide

/-- LaneTraining: two SYNC blocks of zeros from a descrambler in state 0 are 1,024 zeros and more. -/
theorem witness_synced : syncOf (List.replicate 3 (List.replicate 512 false)) = some 0#32 := by decide +kernel

/-- LaceLinks and LaceDomain: a link without bad blocks, a beat that stands, markers of two sequence numbers. -/
theorem witness_lines : linesBad State.reset 31 = false ∧ (portOf State.reset 31).leave = false ∧ beatStands State.reset = true ∧
    beatStands (withRegs [(R.lcStat.key 0 0, 8#32)]) = false ∧
    portWidth State.reset 0 = 1 ∧ (portOf State.reset 0).lastMk.map (fun m => m.1) ≠ some 0 := by decide

/-- FabricPackets: the VNs wired to an NI, an open link and a quiesced local port, no held packet being delivered. -/
theorem witness_links : vnWired 39 1 .rd 0 = true ∧ vnWired 38 1 .rd 0 = false ∧ linkStopped State.reset 37 0 = false ∧
    linkStopped (withRegs [(R.rtPortEn.key 37 0, 0#32)]) 37 0 = true ∧ openingAt State.reset 37 = none ∧
    openingAt (setFab State.reset fun f => { f with opening := [0] }) (spineRouter 0) = some 0 ∧ nextPkt State.reset 37 = none := by decide

/-- Fronthaul: a receive job whose last symbol is over, and one that awaits packets. -/
theorem witness_fhJob : let j : FhJob := {
      task := 3, mac := 0, tx := false, flow := 0, entry := List.replicate 16 0#32, desc := [0#32, 0xE0#32, 0#32, 1#32], param := 0, frames := [], sent := 0, unsent := 0 }
    fhrxOver { State.reset with ats := BitVec.ofNat 64 (2 ^ 40) } j = true ∧ fhrxOver State.reset j = false ∧
    (jobWindow State.reset j 13).1 ≤ (2 ^ 40 : Int) ∧ (State.reset.ats.toNat : Int) < (jobWindow State.reset j 13).2 := by decide

/-- Fronthaul: a transmit job with a frame whose window is closed. -/
theorem witness_closeExpire : let j : FhJob := {
      task := 3, mac := 0, tx := true, flow := 0, entry := List.replicate 16 0#32, desc := [0#32, 0xE0#32, 0#32, 1#32], param := 0,
      frames := [{ task := 3, sym := 13, first := 0, count := 1, elig := false }], sent := 0, unsent := 0 }
    let s := setFh { State.reset with ats := BitVec.ofNat 64 (2 ^ 40) } fun h => { h with jobs := [j] }
    fhJobOf s 0 3 = some j ∧ (jobWindow s j 13).2 ≤ (s.ats.toNat : Int) := by decide

/-- ArrayJobs: a spare that takes the bank sets of an array whose job and load have ended, one with a read set, and one that waits. -/
theorem witness_spare : let s := withArray { Cma.reset with preFrom := some 1 } [(R.cmaWsid.key 1 0, 5#32)]
    awake s 0 = true ∧ spareSets s 0 1 = [(0, 5, 0)] ∧ inService (cmaOf s 0) = none ∧ (cmaOf s 0).load = none ∧ (cmaOf s 1).job = none ∧
    (cmaOf s 1).load = none ∧ bankWsid s 0 0 = 0 ∧ heirs s 1 = [0] ∧ heirs State.reset 1 = [] ∧
    (∀ k, k < 4 → bankWsid (withArray { Cma.reset with preFrom := some 1 } []) 0 k = 0) ∧
    (cmaOf (withArray { Cma.reset with preQ := [(2, 9, 0)] } []) 0).preQ = [(2, 9, 0)] := by decide

/-- MemoryPorts and RegisterWrites: a BAR2 address without a valid entry, with one, and fenced; a misaligned BAR0 offset, one it denies. -/
theorem witness_bar2 : wayOf State.reset 39 0 = .miss ∧
    wayOf (putRtEntry State.reset 39 32 { RtEntry.zero with w0 := 0x10#32 }) 39 0 = .send 32 { RtEntry.zero with w0 := 0x10#32 } ∧
    wayOf (putRtEntry State.reset 39 32 { RtEntry.zero with w0 := 0x30#32 }) 39 0 = .fenced ∧
    wayOf (putRtEntry State.reset 39 32 { RtEntry.zero with w0 := 0x4010#32 }) 39 0 = .absent_ ∧
    wayOf (putRtEntry State.reset 39 32 { RtEntry.zero with w0 := 0x8010#32 }) 39 0 = .noMem ∧
    barDenied (bar0 + 0x10) = true ∧ barDenied (bar0 + 0x14) = false ∧ (bar0 + 2) % 4 ≠ 0 :=
  ⟨rfl, rfl, rfl, rfl, rfl, by decide, by decide, by decide⟩

/-- Fences: an UNFENCE in progress. -/
theorem witness_waking : fnState (setFn State.reset 0 4) 0 = 4 ∧ keysRise (setFn State.reset 0 4).regs = true ∧
    awake (setFn State.reset 0 4) 0 = true := by decide

/-- R15: balls of the package at the edge and at the side of the array, by Annex tables. -/
theorem test_balls : ballOf true 22 6 = .refclk 7 true ∧ ballOf false 28 6 = .refclk 7 true ∧ ballOf false 41 1 = .lane 226 true true ∧
    (List.range 5).map (fun d => ballOf true 35 (d + 1)) =
      [.lane 226 true true, .lane 226 true false, .gnd, .lane 226 false true, .lane 226 false false] := by decide

/-- AwlScalar: a core finds itself as it stands; its watchdog of 2 ticks has run out, and has not; the bundle at its PC is fetched. -/
theorem witness_finds : Finds State.reset ⟨15, 7⟩ [] Core.reset := ⟨by decide, by decide +kernel, by decide⟩
theorem witness_watchdog : let c := { Core.reset with wdog := 2#32 }
    fld c.wdog 23 0 ≠ 0 ∧ c.wdAt + fld c.wdog 23 0 ≤ tickNow { State.reset with ats := 2 * 4096 } ∧
    tickNow State.reset < c.wdAt + fld c.wdog 23 0 ∧ c.wdFirst = false := by decide

/-! ## One step of some commands, with results worked out by hand from the rules -/

/-- The state that a command answers. -/
def after (c : Instr) (s : State) : State := match exec c s with
  | .next t => t
  | _ => s

/-- R501: `DEV_ECHO` replies `OK` with its words. -/
theorem test_devEcho : (after (.devEcho (req [1#32, 2#32])) up).pn.replies.map (fun r => (r.status, r.words)) = [(.ok, [1#32, 2#32])] := by
  decide

/-- R246: a header of LEN 511 in a 4 KiB queue reserves 512 words, all that it has. -/
theorem test_header_fills : (queueOf (after (.qHdrWrite 0 0 .host 511#64 false)
    (withRegs [(R.qCfg.key 0 0, 1#32), (R.qProd.key 0 0, 4#32)])) 0 0).occ = 512 := by decide

/-- R246: a header of LEN 512 is refused with `LENGTH_RANGE`. -/
theorem test_header_range : (after (.qHdrWrite 0 0 .host 512#64 false)
    (withRegs [(R.qCfg.key 0 0, 1#32), (R.qProd.key 0 0, 4#32)])).readStat = .lengthRange := by decide

/-- R57, R56: a word written to bench memory reads back, first byte lowest. -/
theorem test_benchMem : (after (.benchMemRead 0 1) (after (.benchMemWrite 0 8 [1#8, 2#8, 0#8, 0#8, 0#8, 0#8, 0#8, 0#8] false)
    State.reset)).readData = [(0x201#64, false)] := by decide

/-- R30: the idle step adds 4 Tc. -/
theorem test_idle_step : (match step State.reset with
  | .next t => t.ats
  | _ => 0) = 4#64 := by decide +kernel

/-- R193: 6 A is band 1, and BAND_CHANGE is raised. -/
theorem test_bandSample : let t := after (.cmaBandSample 0 24) State.reset
    cmaBand t 0 = 1 ∧ rd t R.cmaEvt 0 = 0x40#32 := by decide

/-- R172: the code of a full-scale component at E = 0, and of one half-way between two codes. -/
theorem test_dacCode : dacCode 0 32767 = 511 ∧ dacCode 0 (-32768) = -512 ∧ dacCode 0 96 = 2 ∧ dacCode 0 32 = 0 := by decide

end Sys2Proof.Tests
end

section
/-! The fence controller of a domain (R359, R361, R362): how the fields of its register read after a write, what each of its
operations does in each state of the fence, and the proof of O34. -/

namespace Sys2Proof.Machine

/-! ## A field or a bit of a word beside the one that was written -/

/-- Writing bits [hi:lo] leaves every bit outside them. -/
theorem bit_setFld_of_outside {n : Nat} (w : BitVec n) {hi lo k : Nat} (v : Nat) (h : k < lo ∨ hi < k) :
    bit (setFld w hi lo v) k = bit w k := by
  have mask : ((2 ^ (hi + 1 - lo) - 1) * 2 ^ lo).testBit k = false := by
    rw [Nat.testBit_mul_two_pow, Nat.testBit_two_pow_sub_one]
    simp only [Bool.and_eq_false_iff, decide_eq_false_iff_not]
    omega
  by_cases hk : k < n
  · have keep : (BitVec.ofNat n ((2 ^ (hi + 1 - lo) - 1) * 2 ^ lo)).getLsbD k = false := by
      rw [BitVec.getLsbD_ofNat, mask, Bool.and_false]
    simp only [bit, setFld, BitVec.getLsbD_or, BitVec.getLsbD_and, BitVec.getLsbD_not, keep, hk, decide_true, Bool.not_false, Bool.and_true,
      Bool.and_false, Bool.or_false]
  · simp [bit, BitVec.getLsbD_of_ge _ _ (Nat.le_of_not_lt hk)]

/-- A field is determined by its bits. -/
theorem fld_eq_of_bits {n : Nat} {w x : BitVec n} {hi lo : Nat} (h : ∀ k, lo ≤ k → k ≤ hi → bit w k = bit x k) :
    fld w hi lo = fld x hi lo := by
  refine Nat.eq_of_testBit_eq fun j => ?_
  simp only [fld, Nat.testBit_mod_two_pow, Nat.testBit_div_two_pow]
  by_cases hj : j < hi + 1 - lo
  · have e := h (j + lo) (by omega) (by omega)
    simp only [bit, BitVec.getLsbD] at e
    rw [e]
  · simp [hj]

/-- Writing bits [hi:lo] leaves every field outside them. -/
theorem fld_setFld_of_disjoint {n : Nat} (w : BitVec n) {hi lo hi' lo' : Nat} (v : Nat) (h : hi' < lo ∨ hi < lo') :
    fld (setFld w hi lo v) hi' lo' = fld w hi' lo' :=
  fld_eq_of_bits fun _ _ _ => bit_setFld_of_outside w v (by omega)

/-! ## A field of a register after a write -/

/-- A field of a register reads as before when another field of the register is written. -/
theorem rdF_wrF_of_disjoint {s : State} (hs : keysRise s.regs = true) (r : Reg) (u i v : Nat) {hi lo hi' lo' : Nat}
    (h : hi' < lo ∨ hi < lo') : rdF (wrF s r u i hi lo v) r u i hi' lo' = rdF s r u i hi' lo' := by
  simp only [rdF, wrF, rd_wr_self hs, fld_setFld_of_disjoint _ _ h]

/-- A power domain's state reads as before when a register other than its `PD_STAT` is written. -/
theorem awake_wr (s : State) (r : Reg) (u i d : Nat) (v : W32) (h : R.pdStat.key d 0 ≠ r.key u i) :
    awake (wr s r u i v) d = awake s d := by
  unfold awake pdState rdF
  rw [rd_wr_ne s r R.pdStat u i d 0 v h]

/-! ## The fence of a domain and its registers -/

/-- `REQ` is not part of `STATE`. -/
theorem fnState_setReq {s : State} (hs : keysRise s.regs = true) (d : Nat) (b : Bool) :
    fnState (wrB s R.fnCtl 0 d 0 b) d = fnState s d :=
  rdF_wrF_of_disjoint hs R.fnCtl 0 d (if b then 1 else 0) (.inr (by decide))

/-- The fence controller's registers stand above the state of every power domain. -/
theorem pdStat_key_lt_fnB {d : Nat} (hd : d < 39) : R.pdStat.key d 0 < R.fnB.base := by
  simp only [Reg.key, R.pdStat, R.pdB, R.fnB]
  omega

theorem awake_wr_fnB (s : State) (r : Reg) (u i : Nat) (v : W32) {d : Nat} (hr : r.blk = R.fnB) (hd : d < 39) :
    awake (wr s r u i v) d = awake s d := by
  have below := pdStat_key_lt_fnB hd
  have above : R.fnB.base ≤ r.key u i := by rw [← hr]; unfold Reg.key; omega
  exact awake_wr s r u i d v (by omega)

/-- A fence that begins to wake leaves the state of its power domain. -/
theorem awake_unfenceRequest (s : State) {d : Nat} (hd : d < 39) : awake (unfenceRequest s d) d = awake s d := by
  have req : awake (wrB s R.fnCtl 0 d 0 false) d = awake s d := awake_wr_fnB s _ _ _ _ rfl hd
  unfold unfenceRequest fenceWaking
  split
  · unfold bump wr64 setFn wrF
    rw [awake_wr_fnB _ (R.fnCount.next 1) _ _ _ rfl hd, awake_wr_fnB _ R.fnCount _ _ _ rfl hd,
      awake_wr_fnB _ R.fnCtl _ _ _ rfl hd, req]
  · exact req

/-! ## A fence begins, drains and is acknowledged (R359) -/

theorem fenceRequest_of_open {s : State} {d : Nat} (hd : d < 37) (here : domainHere s.variant d = true) (h : fnState s d = 0) :
    fenceRequest s d = setFn (truncProducers (returnStaged (wrB s R.fnCtl 0 d 0 true)
      fun x => decide (siteDomain x = d)) (producerIn s d)) d 1 := by
  have present : ¬ (37 ≤ d ∨ (!domainHere s.variant d) = true) := by simp [here, hd]
  simp only [fenceRequest, if_neg present, h, ne_eq, not_true_eq_false, if_false]

theorem fenceRequest_of_not_open {s : State} {d : Nat} (hd : d < 37) (here : domainHere s.variant d = true)
    (h : fnState s d ≠ 0) : fenceRequest s d = wrB s R.fnCtl 0 d 0 true := by
  have present : ¬ (37 ≤ d ∨ (!domainHere s.variant d) = true) := by simp [here, hd]
  simp only [fenceRequest, if_neg present, if_pos h]

theorem fenceDrainEnd_of_drained {s : State} {d : Nat} {l : List Nat} (h : fnState s d = 1) (hd : drained s d = true)
    (dests : ((nisHere s).filter fun n => decide (niDomain n ≠ d) && decide (fnState s (niDomain n) ≠ 3)) = l) (hl : l ≠ []) :
    fenceDrainEnd s d = syncPend (setFn (setFab s fun f =>
      { f with fenceTo := f.fenceTo ++ l.map fun n => (d, n) }) d 2) d := by
  have ready : ¬ (fnState s d ≠ 1 ∨ (!drained s d) = true) := by simp [h, hd]
  have some_dest : l.isEmpty ≠ true := by simpa using hl
  simp only [fenceDrainEnd, if_neg ready, dests, if_neg some_dest]

/-- Before the drain has ended, and outside one, its end changes nothing (log entry 5). -/
theorem fenceDrainEnd_of_not_drained {s : State} {d : Nat} (h : fnState s d ≠ 1 ∨ drained s d = false) : fenceDrainEnd s d = s :=
  if_pos (by simpa using h)

theorem fenceMsgRx_of_mem {s : State} {n d : Nat} (h : (d, n) ∈ s.fab.fenceTo) :
    fenceMsgRx s n d = syncPend (setFab (markEntries s n d true (wopEn s d)) fun f =>
      { f with fenceTo := f.fenceTo.filter (fun p => decide (p ≠ (d, n))), ackTo := f.ackTo ++ [(d, n)] }) d :=
  if_neg (by simpa using h)

/-- The state in which the acknowledgement of NI n has arrived and the fence of d has not yet looked whether it was the last. -/
def fenceAcked (s : State) (n d : Nat) : State :=
  syncPend (setFab s fun f => { f with
    ackTo := f.ackTo.filter (fun p => decide (p ≠ (d, n))), acked := f.acked ++ [(d, n)] }) d

theorem fenceAckRx_of_pending {s : State} {n d : Nat} (h : (d, n) ∈ s.fab.ackTo)
    (more : rdF (fenceAcked s n d) R.fnCtl 0 d 15 8 ≠ 0) : fenceAckRx s n d = fenceAcked s n d := by
  have acks : s.fab.ackTo.contains (d, n) = true := by simpa using h
  exact (if_pos acks).trans (if_neg fun last => more last.2)

theorem fenceAckRx_of_last {s : State} {n d : Nat} (h : (d, n) ∈ s.fab.ackTo) (fencing : fnState (fenceAcked s n d) d = 2)
    (last : rdF (fenceAcked s n d) R.fnCtl 0 d 15 8 = 0) (req : rdB (fenceDone (fenceAcked s n d) d) R.fnCtl 0 d 0 = true) :
    fenceAckRx s n d = fenceDone (fenceAcked s n d) d := by
  have acks : s.fab.ackTo.contains (d, n) = true := by simpa using h
  exact ((if_pos acks).trans (if_pos ⟨fencing, last⟩)).trans (if_pos req)

/-! ## A fence is released (R362) -/

theorem unfenceRequest_of_fenced {s : State} {d : Nat} (hs : keysRise s.regs = true) (h : fnState s d = 3) :
    unfenceRequest s d = bump (setFn (wrB s R.fnCtl 0 d 0 false) d 4) R.fnCount 0 2 1 :=
  if_pos ((fnState_setReq hs d false).trans h)

theorem unfenceRequest_of_not_fenced {s : State} {d : Nat} (hs : keysRise s.regs = true) (h : fnState s d ≠ 3) :
    unfenceRequest s d = wrB s R.fnCtl 0 d 0 false :=
  if_neg (by rwa [fnState_setReq hs])

/-- A fenced or waking domain is unfenced if it is awake, and woken as by a command if not (log entry 149). -/
theorem unfenceStart_of_closed {s : State} {d : Nat} (hd : d < 39) (h : fnState s d = 3 ∨ fnState s d = 4) :
    unfenceStart s d = if awake s d then unfence (unfenceRequest s d) d else wakeDomain (unfenceRequest s d) d 4 := by
  have closed : ¬ (fnState s d ≠ 3 ∧ fnState s d ≠ 4) := by omega
  simp only [unfenceStart, if_neg closed, awake_unfenceRequest s hd]

/-- An open, draining or fencing domain has nothing to release (log entry 5). -/
theorem unfenceStart_of_lt {s : State} {d : Nat} (h : fnState s d < 3) : unfenceStart s d = s :=
  if_pos (by omega)

theorem unfenceMsgRx_of_mem {s : State} {n d : Nat} (h : (d, n) ∈ s.fab.unfTo) :
    unfenceMsgRx s n d = setFab (markEntries s n d false false) fun f => { f with
      unfTo := removeFirst (fun p => decide (p = (d, n))) f.unfTo, unfAck := f.unfAck ++ [(d, n)] } :=
  if_neg (by simpa using h)

/-! ## The rows of the fence controller -/

theorem exec_fenceRequest (d : Fin 39) (s : State) : exec (.fenceRequest d) s = .next (fenceRequest s d.val) := rfl
theorem exec_fenceDrainEnd (d : Fin 37) (s : State) : exec (.fenceDrainEnd d) s = .next (fenceDrainEnd s d.val) := rfl
theorem exec_fenceMsgRx (n : Fin 40) (d : Fin 37) (s : State) :
    exec (.fenceMsgRx n d) s = .next (fenceMsgRx s n.val d.val) := rfl
theorem exec_fenceAckRx (n : Fin 40) (d : Fin 37) (s : State) :
    exec (.fenceAckRx n d) s = .next (fenceAckRx s n.val d.val) := rfl
theorem exec_unfenceStart (d : Fin 37) (s : State) : exec (.unfenceStart d) s = .next (unfenceStart s d.val) := rfl
theorem exec_unfenceMsgRx (n : Fin 40) (d : Fin 37) (s : State) :
    exec (.unfenceMsgRx n d) s = .next (unfenceMsgRx s n.val d.val) := rfl

/-- A fence that drains or waits for acknowledgements is given up at its timeout (R361). -/
theorem exec_fenceTimeout_of_closing {d : Fin 37} {s : State} (h : fnState s d.val = 1 ∨ fnState s d.val = 2) :
    exec (.fenceTimeout d) s = .next (fenceFailed (bump (raise (fenceGiveUp s d.val) E.fn 0 1) R.fnCount 0 1 1) d.val) :=
  congrArg Host.Outcome.next (if_pos h)

/-- No timeout runs outside DRAINING and FENCING (log entry 5). -/
theorem exec_fenceTimeout_of_not_closing {d : Fin 37} {s : State} (h : ¬ (fnState s d.val = 1 ∨ fnState s d.val = 2)) :
    exec (.fenceTimeout d) s = .next s :=
  congrArg Host.Outcome.next (if_neg h)

/-- Settles O34, clause by clause from the equations above. That a message, timer or release outside its states changes nothing
is the model's choice of log entry 5, and that the release of a domain asleep wakes it as a command does is that of log
entry 149. -/
theorem fences : Obligations.Fences := by
  refine ⟨?request, ?again, ?drain, ?early, ?mark, ?pending, ?last, ?timeout, ?noTimeout, ?release, ?wake, ?waking, ?notClosed, ?clear⟩
  case request => intro d s hd here h; rw [exec_fenceRequest, fenceRequest_of_open hd here h]
  case again => intro d s hd here h; rw [exec_fenceRequest, fenceRequest_of_not_open hd here h]
  case drain => intro d s l h hd dests hl; rw [exec_fenceDrainEnd, fenceDrainEnd_of_drained h hd dests hl]
  case early => intro d s h; rw [exec_fenceDrainEnd, fenceDrainEnd_of_not_drained h]
  case mark => intro n d s h; rw [exec_fenceMsgRx, fenceMsgRx_of_mem h]
  case pending =>
    rintro n d s _ h rfl - more
    rw [exec_fenceAckRx, fenceAckRx_of_pending h more, fenceAcked]
  case last =>
    rintro n d s _ h rfl fencing last req
    rw [exec_fenceAckRx, fenceAckRx_of_last h fencing last req, fenceDone, fenceAcked]
  case timeout => exact fun _ _ h => exec_fenceTimeout_of_closing h
  case noTimeout => exact fun _ _ h => exec_fenceTimeout_of_not_closing (by omega)
  case release =>
    intro d s hs h up
    rw [exec_unfenceStart, unfenceStart_of_closed (by omega) (.inl h), if_pos up, unfenceRequest_of_fenced hs h]
  case wake =>
    intro d s hs h asleep
    rw [exec_unfenceStart, unfenceStart_of_closed (by omega) (.inl h), asleep, if_neg Bool.false_ne_true, unfenceRequest_of_fenced hs h]
  case waking =>
    intro d s hs h
    rw [exec_unfenceStart, unfenceStart_of_closed (by omega) (.inr h), unfenceRequest_of_not_fenced hs (by omega)]
    exact ⟨fun up => by rw [if_pos up], fun asleep => by rw [asleep, if_neg Bool.false_ne_true]⟩
  case notClosed => intro d s h; rw [exec_unfenceStart, unfenceStart_of_lt h]
  case clear => intro n d s h; rw [exec_unfenceMsgRx, unfenceMsgRx_of_mem h]

end Sys2Proof.Machine
end

section
/-! The accumulator landing of O58: a MAC form lands in accumulator `d`, and AOV has a bit for accumulators 0 to 7 alone. -/

namespace Sys2Proof.Machine

/-- The one result in flight, a MAC form's, lands: AOV is set for an accumulator that has a bit there (R72, R93). -/
theorem tick_of_mac {c : Core} {d : Nat} {sat : Bool} {ops : List (Option LaneOp)}
    (h : c.flight = [{ dst := .acc d, val := .mac sat ops, left := 1 }]) :
    c.tick = { c with
      flight := [], acc := setNth c.acc d (macLand sat ops (c.ra d)).1,
      status := if (macLand sat ops (c.ra d)).2 ∧ d < 8 then setBit c.status d true else c.status } := by
  simp only [Core.tick, h]
  rfl

/-- A MAC form that overflows lane 0 is about to land in the accumulator numbered 8, which no register field can name. -/
def overflowing : Core :=
  { Core.reset with flight := [{
      dst := .acc 8, left := 1,
      val := .mac false [some { z := true, doRe := true, doIm := true, po := false, re := 2 ^ 39, im := 0 }] }] }

theorem overflowing_tick_status : overflowing.tick.status = 0x2000#32 := by
  rw [tick_of_mac rfl]
  decide

/-- Refutes O58: its clause about the end of a MAC form's pipeline has no bound on the accumulator's number `d`, and bit `d` of the
status is an AOV flag for `d < 8` only. With `d = 8` an overflow leaves the status as it was, where the clause sets bit 8. -/
theorem not_awlVector : ¬ Obligations.AwlVector := by
  rintro ⟨-, -, -, -, -, -, -, -, -, -, landing, -⟩
  have claimed := congrArg Core.status (landing overflowing 8 _ _ _ rfl rfl)
  rw [overflowing_tick_status] at claimed
  exact absurd claimed (by decide)

end Sys2Proof.Machine
end

section
/-! The M-slot rows of a core (R86–R90, R97, R136–R140): what a form in M0 or M1 reads and writes, what its evaluation answers
when its accesses are mapped, what a misaligned one raises, and the proof of O57. -/

namespace Sys2Proof.Machine

/-! ## The registers of a load or store -/

/-- The register whose value a load or store with a pointer stores. -/
def MFn.stored (f : MFn) (v : Nat → Nat) (r : Nat) : List Dst :=
  match f with
  | .stw | .sth | .stb => [.s r]
  | .stp => [.p r]
  | .stv => [.v (v r)]
  | .sta => [.acc r]
  | _ => []

/-- The register that a load with a pointer fills. -/
def MFn.loaded (f : MFn) (v : Nat → Nat) (r : Nat) : List Dst :=
  match f with
  | .ldw | .ldh | .ldhu | .ldb | .ldbu => [.s r]
  | .ldp => [.p r]
  | .ldv | .ldvBc => [.v (v r)]
  | .lda => [.acc r]
  | _ => []

section Forms
variable {fn : MFn} {v : Nat → Nat} {r p upd k : Nat} {imm : BitVec 12} {inc : Nat}

theorem memForm_reads (hn : fn ≠ .nop) (hp : fn.precise = false) : (memForm fn r p upd k imm inc).reads v =
    [Dst.p p] ++ (if upd = 2 then [Dst.s inc] else []) ++ (if fn.masked = true then [Dst.k k] else []) ++ fn.stored v r := by
  simp only [MIns.reads, memForm_fn, memForm_p, memForm_k, memForm_r, inc_reads, if_neg hn, hp, Bool.or_false]
  cases fn <;> simp_all [MFn.stored, MFn.precise]

theorem memForm_writes (hp : fn.precise = false) : (memForm fn r p upd k imm inc).writes v =
    fn.loaded v r ++ if upd ≠ 0 then [Dst.p p] else [] := by
  simp only [MIns.writes, memForm_fn, memForm_p, memForm_upd, memForm_r]
  cases fn <;> simp_all [MFn.loaded, MFn.precise]

/-- A load fills one register at most: it writes a register twice only where a pointer load fills its own updated pointer. -/
theorem memForm_not_twice (hp : fn.precise = false) (h : fn = .ldp → r ≠ p ∨ upd = 0) :
    twice ((memForm fn r p upd k imm inc).writes v) = false := by
  rw [memForm_writes hp]
  by_cases hu : upd = 0
  · cases fn <;> simp [MFn.loaded, twice, hu]
  · cases fn <;> simp_all [MFn.loaded, twice]

/-- The conditions of R71 and R86 on the fields of a load or store with a pointer. -/
structure FormOk (fn : MFn) (r p upd k : Nat) : Prop where
  op : fn ≠ .nop
  whole : fn.precise = false
  mask : fn.masked = true ∨ k = 0
  pointer : fn = .ldp ∨ fn = .stp → r < 16
  accumulator : fn = .lda ∨ fn = .sta → r < 8
  own : fn = .ldp → r ≠ p ∨ upd = 0

/-- Forms on scalar registers, without a predicate, have no further conditions. -/
theorem FormOk.of_scalar (h : fn ∈ [MFn.ldw, .ldh, .ldhu, .ldb, .ldbu, .stw, .sth, .stb]) : FormOk fn r p upd 0 := by
  have facts : ∀ f ∈ [MFn.ldw, .ldh, .ldhu, .ldb, .ldbu, .stw, .sth, .stb],
      f ≠ .nop ∧ f.precise = false ∧ f ≠ .ldp ∧ f ≠ .stp ∧ f ≠ .lda ∧ f ≠ .sta := by decide
  obtain ⟨op, whole, notLdp, notStp, notLda, notSta⟩ := facts fn h
  exact ⟨op, whole, .inr rfl, fun e => (e.elim notLdp notStp).elim, fun e => (e.elim notLda notSta).elim, fun e => (notLdp e).elim⟩

/-- Forms on vector registers have none. -/
theorem FormOk.of_masked (h : fn.masked = true) : FormOk fn r p upd k := by
  have facts : ∀ f : MFn, f.masked = true → f ≠ .nop ∧ f.precise = false ∧ f ≠ .ldp ∧ f ≠ .stp ∧ f ≠ .lda ∧ f ≠ .sta := by
    intro f; cases f <;> decide
  obtain ⟨op, whole, notLdp, notStp, notLda, notSta⟩ := facts fn h
  exact ⟨op, whole, .inl h, fun e => (e.elim notLdp notStp).elim, fun e => (e.elim notLda notSta).elim, fun e => (notLdp e).elim⟩

theorem FormOk.of_pointer (h : fn = .ldp ∨ fn = .stp) (hr : r < 16) (own : fn = .ldp → r ≠ p ∨ upd = 0) : FormOk fn r p upd 0 := by
  rcases h with rfl | rfl <;> exact ⟨by decide, rfl, .inr rfl, fun _ => hr, by simp, own⟩

theorem FormOk.of_accumulator (h : fn = .lda ∨ fn = .sta) (hr : r < 8) : FormOk fn r p upd 0 := by
  rcases h with rfl | rfl <;> exact ⟨by decide, rfl, .inr rfl, by simp, fun _ => hr, by simp⟩

theorem FormOk.legal (h : FormOk fn r p upd k) : (memForm fn r p upd k imm inc).legal = true := by
  obtain ⟨op, whole, mask, pointer, accumulator, own⟩ := h
  simp only [MIns.legal, memForm_fn, memForm_p, memForm_k, memForm_r, memForm_upd, if_neg op, whole]
  cases fn <;> simp_all [MFn.masked]

end Forms

/-- A load's result, followed by the update of its pointer. -/
theorem append_updOut {c : Core} {fn : MFn} {r p k : Nat} {upd : Fin 4} {imm : BitVec 12} {inc : Fin 32} {ad : Addr}
    (ha : c.addr p upd imm.toInt (c.rs inc).toInt = some ad) (ws : List (Dst × Val × Nat)) :
    Out.append { wr := ws } (updOut (memForm fn r p upd k imm inc) ad) = { wr := ws ++ stepped p ad, st := { adj := ad.adj } } := by
  rw [updOut_eq ha _ (memForm_p ..)]
  simp [Out.append, Sticky.or]

theorem updOut_memForm {c : Core} {fn : MFn} {r p k : Nat} {upd : Fin 4} {imm : BitVec 12} {inc : Fin 32} {ad : Addr}
    (ha : c.addr p upd imm.toInt (c.rs inc).toInt = some ad) :
    updOut (memForm fn r p upd k imm inc) ad = { wr := [] ++ stepped p ad, st := { adj := ad.adj } } :=
  updOut_eq ha _ (memForm_p ..)

/-- The evaluation of a load or store whose address form is valid. -/
def MFn.access (fn : MFn) (s : State) (b m : Nat) (c : Core) (i : MIns) (slot : Nat) (ad : Addr) (act : List Nat) : MRes :=
  match fn with
  | .ldv | .stv | .ldvBc => evalVecM s b m c i slot ad act
  | .lda | .sta => evalAccM s b m c i slot ad
  | _ => evalScalarM s b m c i slot ad

/-- A form that moves one register's bytes or word. -/
def MFn.scalar (fn : MFn) : Bool := [MFn.ldw, .ldh, .ldhu, .ldb, .ldbu, .ldp, .stw, .sth, .stb, .stp].contains fn

def MFn.stores (fn : MFn) : Bool := [MFn.stw, .sth, .stb, .stp].contains fn

theorem masked_of_scalar : ∀ {fn : MFn}, fn.scalar = true → fn.masked = false := by
  intro fn; cases fn <;> decide

theorem stored_of_load {fn : MFn} {v : Nat → Nat} {r : Nat} (scalar : fn.scalar = true) (load : fn.stores = false) : fn.stored v r = [] := by
  cases fn <;> simp_all [MFn.scalar, MFn.stores, MFn.stored]

theorem access_scalar {fn : MFn} {s : State} {b m slot : Nat} {c : Core} {i : MIns} {ad : Addr} {act : List Nat} (h : fn.scalar = true) :
    fn.access s b m c i slot ad act = evalScalarM s b m c i slot ad := by
  cases fn <;> simp_all [MFn.scalar, MFn.access]

/-! ## A scalar load's word, extended (R86) -/

theorem sext_eq_toInt {n : Nat} (h : 0 < n) (v : Nat) : sext n v = (BitVec.ofNat n v).toInt := by
  have half : 2 ^ n = 2 * 2 ^ (n - 1) := by rw [← Nat.pow_succ', Nat.succ_eq_add_one, Nat.sub_add_cancel h]
  have side : v % 2 ^ n < 2 ^ (n - 1) ↔ 2 * (v % 2 ^ n) < 2 ^ n := by omega
  simp only [sext, BitVec.toInt_eq_toNat_cond, BitVec.toNat_ofNat, side]
  norm_cast

/-- A half-word or byte read as signed is sign-extended (R86). -/
theorem ofInt_sext {n : Nat} (h : 0 < n) (v : Nat) : BitVec.ofInt 32 (sext n v) = (BitVec.ofNat n v).signExtend 32 := by
  rw [sext_eq_toInt h, BitVec.signExtend]

/-- A scalar load's word of some bytes, extended (R86). -/
def MFn.extended (fn : MFn) (v : Nat) : W32 := if fn = .ldh ∨ fn = .ldb then BitVec.ofInt 32 (sext (8 * mSize fn) v) else w32 v

section Rows
variable {s t : State} {id : CoreId} {m1 : Bool} {c : Core} {fn : MFn} {r p k : Nat} {upd : Fin 4} {imm : BitVec 12} {inc : Fin 32}
  {ad : Addr} {reads : List Dst}

theorem evalM_access {b m slot : Nat} (ok : FormOk fn r p upd k) (ha : c.addr p upd imm.toInt (c.rs inc).toInt = some ad)
    (some_ : fn.masked = true → c.actives k 32 ≠ []) :
    evalM s b m c (memForm fn r p upd k imm inc) slot = fn.access s b m c (memForm fn r p upd k imm inc) slot ad (c.actives k 32) := by
  rw [memForm_eval ha ok.op ok.whole some_]
  cases fn <;> rfl

/-- A load or store whose access answers `t`, with results `ws`. -/
theorem runM_access {ws : List (Dst × Val × Nat)} (h : Finds s id reads c) (ok : FormOk fn r p upd k)
    (hr : reads = [Dst.p p] ++ (if upd.val = 2 then [Dst.s inc] else []) ++ (if fn.masked = true then [Dst.k k] else []) ++ fn.stored c.vIdx r)
    (ha : c.addr p upd imm.toInt (c.rs inc).toInt = some ad) (some_ : fn.masked = true → c.actives k 32 ≠ [])
    (he : fn.access (drawn s) id.bench id.core c (memForm fn r p upd k imm inc) (if m1 then 2 else 1) ad (c.actives k 32) =
      .ok (t, { wr := ws ++ stepped p ad, st := { adj := ad.adj } })) :
    runM id m1 (memForm fn r p upd k imm inc) s = bundled s t id (c.moved (ws ++ stepped p ad)) { adj := ad.adj } :=
  mem_run h (hr.trans (memForm_reads ok.op ok.whole).symm) ok.legal ok.whole ((evalM_access ok ha some_).trans he)
    (memForm_not_twice ok.whole ok.own)

/-! ## Scalar and pointer loads and stores -/

theorem evalScalarM_load {b m slot x v : Nat} (load : fn.stores = false) (ha : c.addr p upd imm.toInt (c.rs inc).toInt = some ad)
    (aligned : ad.at_ 0 % mSize fn = 0) (mapped : coreMap c b m (ad.at_ 0) = some x) (clean : loadEls s (mSize fn) [x] = (t, [(v, false)])) :
    evalScalarM s b m c (memForm fn r p upd k imm inc) slot ad = .ok (t, {
      wr := [(if fn = .ldp then .p r else .s r, .w (fn.extended v), 3)] ++ stepped p ad, st := { adj := ad.adj } }) := by
  rw [← append_updOut ha (fn := fn) (r := r) (k := k)]
  simp only [evalScalarM, memForm_fn, memForm_r, aligned, mapped, clean, MFn.extended]
  cases fn <;> simp_all [MFn.stores, nth]

theorem evalScalarM_misaligned {b m slot : Nat} (h : ad.at_ 0 % mSize fn ≠ 0) :
    evalScalarM s b m c (memForm fn r p upd k imm inc) slot ad = mExc slot 5 (some (ad.at_ 0)) := by
  simp only [evalScalarM, memForm_fn, if_pos h]

theorem evalScalarM_store {b m slot x : Nat} (scalar : fn ∈ [MFn.stw, .sth, .stb]) (ha : c.addr p upd imm.toInt (c.rs inc).toInt = some ad)
    (aligned : ad.at_ 0 % mSize fn = 0) (mapped : coreMap c b m (ad.at_ 0) = some x) :
    evalScalarM s b m c (memForm fn r p upd k imm inc) slot ad =
      .ok (writeBytes s x (bytesOf (mSize fn) ((c.rs r).toNat % 2 ^ (8 * mSize fn))), { wr := [] ++ stepped p ad, st := { adj := ad.adj } }) := by
  rw [← updOut_memForm ha (fn := fn) (r := r) (k := k)]
  simp only [evalScalarM, memForm_fn, memForm_r, aligned, mapped]
  cases fn <;> simp_all [storeEl]

theorem evalScalarM_stp {b m slot x : Nat} (ha : c.addr p upd imm.toInt (c.rs inc).toInt = some ad)
    (aligned : ad.at_ 0 % 4 = 0) (mapped : coreMap c b m (ad.at_ 0) = some x) :
    evalScalarM s b m c (memForm .stp r p upd k imm inc) slot ad =
      .ok (writeBytes s x (bytesOf 4 (c.rp r).toNat), { wr := [] ++ stepped p ad, st := { adj := ad.adj } }) := by
  rw [← updOut_memForm ha (fn := .stp) (r := r) (k := k)]
  simp only [evalScalarM, memForm_fn, memForm_r, mapped, mSize, aligned, storeEl]
  simp

/-! ## A misaligned access (R87) -/

/-- The bundle that holds an M-slot instruction alone. -/
def mBundle (m1 : Bool) (i : MIns) : Bundle := if m1 then { m1 := some i } else { m0 := some i }

theorem mBundle_reads (m1 : Bool) (i : MIns) (v : Nat → Nat) : i.reads v =
    (mBundle m1 i).sI.reads ++ (mBundle m1 i).m0I.reads v ++ (mBundle m1 i).m1I.reads v ++ (mBundle m1 i).vI.reads v := by
  cases m1 <;> simp [mBundle, Bundle.sI, Bundle.m0I, Bundle.m1I, Bundle.vI, SIns.reads, MIns.reads, VIns.reads, vShape, kindDst,
    VFn.extract, VFn.readsD]

theorem mBundle_writes (m1 : Bool) (i : MIns) (v : Nat → Nat) :
    (mBundle m1 i).sI.writes ++ (mBundle m1 i).m0I.writes v ++ (mBundle m1 i).m1I.writes v ++ (mBundle m1 i).vI.writes v = i.writes v := by
  cases m1 <;> simp [mBundle, Bundle.sI, Bundle.m0I, Bundle.m1I, Bundle.vI, SIns.writes, MIns.writes, VIns.writes, vShape, kindDst]

theorem nop_precise : MFn.nop.precise = false := rfl

theorem preciseClash_mBundle {i : MIns} {v : Nat → Nat} (whole : i.fn.precise = false) : preciseClash v (mBundle m1 i) = false := by
  cases m1 <;> simp [mBundle, preciseClash, Bundle.m0I, Bundle.m1I, whole, nop_precise]

theorem issueExc_mBundle {i : MIns} (room : bit c.status 16 = true → c.holdN < 512) (whole : i.fn.precise = false)
    (ht : twice (i.writes c.vIdx) = false) : issueExc c (mBundle m1 i) false = none :=
  issueExc_none (i := { fn := .nop }) room (by cases m1 <;> rfl) rfl (by cases m1 <;> rfl) (by cases m1 <;> rfl) (by cases m1 <;> rfl)
    (by rwa [mBundle_writes]) (preciseClash_mBundle whole)

/-- An M-slot instruction that faults, alone in its bundle and not element-precise, leaves only its exception. -/
theorem runMs_mBundle_fault {hold : Bool} {b m : Nat} {i : MIns} {e : Exc} (whole : i.fn.precise = false)
    (he : evalM s b m c i (if m1 then 2 else 1) = .error { exc := e }) : runMs s b m hold c (mBundle m1 i) = .error (s, c, e) := by
  cases m1
  · simp only [runMs, mBundle, Bundle.m0I, Bundle.m1I, Option.getD, Bool.false_eq_true, if_false] at he ⊢
    rw [he]
  · have idle : evalM s b m c { fn := .nop } 1 = .ok (s, {}) := rfl
    simp only [if_true] at he
    simp only [runMs, mBundle, Bundle.m0I, Bundle.m1I, Option.getD, if_true, idle, he]
    simp [whole, nop_precise]

/-- What an M-slot row does on a core that finds it ready and whose access faults. -/
theorem runM_fault {i : MIns} {e : Exc} (h : Finds s id reads c) (hr : reads = i.reads c.vIdx) (hl : i.legal = true)
    (whole : i.fn.precise = false) (ht : twice (i.writes c.vIdx) = false)
    (he : evalM (drawn s) id.bench id.core c i (if m1 then 2 else 1) = .error { exc := e }) :
    runM id m1 i s = takeExc (drawn s) id.bench id.core c e := by
  have alone : runM id m1 i s = issue s id.bench id.core (mBundle m1 i) false := by
    simp only [runM, hl, if_true, if_pos h.runs, mBundle]
  have noS : (mBundle m1 i).sI = { fn := .nop } := by cases m1 <;> rfl
  rw [alone, issue_found h _ c.vIdx (hr.trans (mBundle_reads m1 i _)) (found_vIdx h) (by rw [noS]; decide),
    issueExc_mBundle h.room whole ht, noS]
  simp only [show evalS (drawn s) id.bench id.core c { fn := .nop } = .ok {} from rfl, runMs_mBundle_fault whole he]

theorem takeExc_plain {b m code slot a : Nat} : takeExc s b m c { code := code, slot := slot, bad := some a } =
    putCore s b m (entered c (packF [(0, code), (10, slot)]) (w32 a) 0) := by
  simp only [takeExc, List.foldl_nil, enter_eq, Option.map_some, Option.getD_some]

/-- A misaligned scalar access takes ALIGN with the address in BADADDR. -/
theorem runM_misaligned (h : Finds s id reads c) (ok : FormOk fn r p upd k) (scalar : fn.scalar = true)
    (hr : reads = [Dst.p p] ++ (if upd.val = 2 then [Dst.s inc] else []) ++ (if fn.masked = true then [Dst.k k] else []) ++ fn.stored c.vIdx r)
    (ha : c.addr p upd imm.toInt (c.rs inc).toInt = some ad) (mis : ad.at_ 0 % mSize fn ≠ 0) :
    runM id m1 (memForm fn r p upd k imm inc) s = putCore (drawn s) id.bench id.core
      (entered c (packF [(0, 5), (10, if m1 then 2 else 1)]) (w32 (ad.at_ 0)) 0) := by
  have access : fn.access (drawn s) id.bench id.core c (memForm fn r p upd k imm inc) (if m1 then 2 else 1) ad (c.actives k 32) =
      mExc (if m1 then 2 else 1) 5 (some (ad.at_ 0)) := by
    rw [access_scalar scalar, evalScalarM_misaligned mis]
  rw [← takeExc_plain]
  exact runM_fault h (hr.trans (memForm_reads ok.op ok.whole).symm) ok.legal (by rw [memForm_fn]; exact ok.whole)
    (memForm_not_twice ok.whole ok.own) ((evalM_access ok ha (by simp [masked_of_scalar scalar])).trans access)

/-- A scalar or pointer load (R86). -/
theorem runM_load {x v : Nat} (h : Finds s id reads c) (ok : FormOk fn r p upd k) (scalar : fn.scalar = true) (load : fn.stores = false)
    (hr : reads = [Dst.p p] ++ if upd.val = 2 then [Dst.s inc] else []) (ha : c.addr p upd imm.toInt (c.rs inc).toInt = some ad)
    (aligned : ad.at_ 0 % mSize fn = 0) (mapped : coreMap c id.bench id.core (ad.at_ 0) = some x)
    (clean : loadEls (drawn s) (mSize fn) [x] = (t, [(v, false)])) :
    runM id m1 (memForm fn r p upd k imm inc) s = bundled s t id
      (c.moved ([(if fn = .ldp then .p r else .s r, .w (fn.extended v), 3)] ++ stepped p ad)) { adj := ad.adj } := by
  refine runM_access h ok ?_ ha (by simp [masked_of_scalar scalar]) ?_
  · simp [hr, masked_of_scalar scalar, stored_of_load scalar load]
  · rw [access_scalar scalar, evalScalarM_load load ha aligned mapped clean]

/-- STW, STH and STB (R86). -/
theorem runM_store {x : Nat} (h : Finds s id reads c) (ok : FormOk fn r p upd k) (store : fn ∈ [MFn.stw, .sth, .stb])
    (hr : reads = [Dst.p p] ++ (if upd.val = 2 then [Dst.s inc] else []) ++ [Dst.s r])
    (ha : c.addr p upd imm.toInt (c.rs inc).toInt = some ad) (aligned : ad.at_ 0 % mSize fn = 0)
    (mapped : coreMap c id.bench id.core (ad.at_ 0) = some x) :
    runM id m1 (memForm fn r p upd k imm inc) s = bundled s
      (writeBytes (drawn s) x (bytesOf (mSize fn) ((c.rs r).toNat % 2 ^ (8 * mSize fn)))) id (c.moved (stepped p ad)) { adj := ad.adj } := by
  have facts : ∀ f ∈ [MFn.stw, .sth, .stb], f.scalar = true ∧ f.stored c.vIdx r = [Dst.s r] := by simp [MFn.stored, MFn.scalar]
  obtain ⟨scalar, stored⟩ := facts fn store
  refine runM_access (ws := []) h ok ?_ ha (by simp [masked_of_scalar scalar]) ?_
  · simp [hr, masked_of_scalar scalar, stored]
  · rw [access_scalar scalar, evalScalarM_store store ha aligned mapped]

/-! ## Vector loads and stores (R86, R122, R125) -/

theorem evalVecM_ldv {b m slot : Nat} {act xs : List Nat} {l : List (Nat × Bool)} (ha : c.addr p upd imm.toInt (c.rs inc).toInt = some ad)
    (aligned : ad.at_ 0 % 4 = 0) (mapped : mapWords c b m ad (act.map (4 * ·)) = .ok xs) (read : loadEls s 4 xs = (t, l)) :
    evalVecM s b m c (memForm .ldv r p upd k imm inc) slot ad act = .ok (t, {
      wr := [(.v (c.vIdx r), vWrite 32 ((List.range act.length).map fun j => (nth act j 0, nth l j (0, false))), 3)] ++ stepped p ad,
      st := { adj := ad.adj } }) := by
  rw [← append_updOut ha (fn := .ldv) (r := r) (k := k)]
  simp [evalVecM, memForm_fn, memForm_r, aligned, mapped, read]

theorem evalVecM_ldvBc {b m slot x : Nat} {act : List Nat} {w : Nat × Bool} (ha : c.addr p upd imm.toInt (c.rs inc).toInt = some ad)
    (aligned : ad.at_ 0 % 4 = 0) (mapped : coreMap c b m (ad.at_ 0) = some x) (read : loadEls s 4 [x] = (t, [w])) :
    evalVecM s b m c (memForm .ldvBc r p upd k imm inc) slot ad act = .ok (t, {
      wr := [(.v (c.vIdx r), vWrite 32 ((List.range act.length).map fun j => (nth act j 0, w)), 3)] ++ stepped p ad,
      st := { adj := ad.adj } }) := by
  rw [← append_updOut ha (fn := .ldvBc) (r := r) (k := k)]
  simp [evalVecM, memForm_fn, memForm_r, aligned, mapWords, mapped, read, nth]

theorem evalVecM_stv {b m slot : Nat} {act xs : List Nat} (ha : c.addr p upd imm.toInt (c.rs inc).toInt = some ad)
    (aligned : ad.at_ 0 % 4 = 0) (mapped : mapWords c b m ad (act.map (4 * ·)) = .ok xs) :
    evalVecM s b m c (memForm .stv r p upd k imm inc) slot ad act =
      .ok (storeRun s ((act.zip xs).map fun q => (q.2, (c.rv r).elem 32 q.1, (c.rv r).bad 32 q.1)),
        { wr := [] ++ stepped p ad, st := { adj := ad.adj } }) := by
  rw [← updOut_memForm ha (fn := .stv) (r := r) (k := k)]
  simp [evalVecM, memForm_fn, memForm_r, aligned, mapped]

/-- A vector load or store with no active word does nothing (R86). -/
theorem runM_idle (h : Finds s id reads c) (ok : FormOk fn r p upd k) (masked : fn.masked = true)
    (hr : reads = [Dst.p p] ++ (if upd.val = 2 then [Dst.s inc] else []) ++ [Dst.k k] ++ fn.stored c.vIdx r)
    (idle : c.actives k 32 = []) : runM id m1 (memForm fn r p upd k imm inc) s = plain s id c [] {} := by
  have eval : evalM (drawn s) id.bench id.core c (memForm fn r p upd k imm inc) (if m1 then 2 else 1) = .ok (drawn s, {}) := by
    simp [evalM, memForm_fn, memForm_k, ok.op, ok.whole, masked, idle]
  have reads_eq : reads = (memForm fn r p upd k imm inc).reads c.vIdx := by rw [hr, memForm_reads ok.op ok.whole, if_pos masked]
  rw [runM_law h reads_eq ok.legal eval (memForm_not_twice ok.whole ok.own), memForm_fn, if_neg (by simp [ok.whole])]
  rfl

/-! ## Accumulators (R97) -/

/-- The lane of an accumulator from the four words that hold it in memory. -/
def laneOf (l : List (Nat × Bool)) (e : Nat) : Lane :=
  { re := BitVec.ofNat 40 ((nth l (4 * e) (0, false)).1 + 2 ^ 32 * ((nth l (4 * e + 1) (0, false)).1 % 256)),
    im := BitVec.ofNat 40 ((nth l (4 * e + 2) (0, false)).1 + 2 ^ 32 * ((nth l (4 * e + 3) (0, false)).1 % 256)),
    po := (nth l (4 * e) (0, false)).2 || (nth l (4 * e + 1) (0, false)).2 || (nth l (4 * e + 2) (0, false)).2 ||
      (nth l (4 * e + 3) (0, false)).2 }

/-- The four words of a lane in memory, each with the lane's poison. -/
def laneWords (l : Lane) : List (Nat × Bool) :=
  [((accWords l.re).1, l.po), ((accWords l.re).2, l.po), ((accWords l.im).1, l.po), ((accWords l.im).2, l.po)]

theorem evalAccM_lda {b m slot : Nat} {xs : List Nat} {l : List (Nat × Bool)} (ha : c.addr p upd imm.toInt (c.rs inc).toInt = some ad)
    (aligned : ad.at_ 0 % 8 = 0) (mapped : mapWords c b m ad ((List.range 64).map (4 * ·)) = .ok xs) (read : loadEls s 4 xs = (t, l)) :
    evalAccM s b m c (memForm .lda r p upd k imm inc) slot ad =
      .ok (t, { wr := [(.acc r, .acc ((List.range 16).map (laneOf l)), 4)] ++ stepped p ad, st := { adj := ad.adj } }) := by
  rw [← append_updOut ha (fn := .lda) (r := r) (k := k)]
  simp only [evalAccM, memForm_fn, memForm_r, aligned, mapped, read]
  rfl

theorem evalAccM_sta {b m slot : Nat} {xs : List Nat} (ha : c.addr p upd imm.toInt (c.rs inc).toInt = some ad)
    (aligned : ad.at_ 0 % 8 = 0) (mapped : mapWords c b m ad ((List.range 64).map (4 * ·)) = .ok xs) :
    evalAccM s b m c (memForm .sta r p upd k imm inc) slot ad =
      .ok (storeRun s ((xs.zip ((c.ra r).flatMap laneWords)).map fun q => (q.1, q.2.1, q.2.2)),
        { wr := [] ++ stepped p ad, st := { adj := ad.adj } }) := by
  rw [← updOut_memForm ha (fn := .sta) (r := r) (k := k)]
  simp only [evalAccM, memForm_fn, memForm_r, aligned, mapped]
  rfl

end Rows

/-! ## Element-precise forms (R136–R140) -/

section Precise
variable {s t : State} {id : CoreId} {m1 : Bool} {c : Core} {b m slot : Nat} {i : MIns} {reads : List Dst} {l : List (Nat × Nat)}

/-- Every element that remains is aligned and mapped: none fails. -/
theorem epSplit_of_mapped {l : List (Nat × Nat)} (ok : ∀ q ∈ l, epAddr c i q.1 % 2 ^ (i.w + 1) = 0 ∧ coreMap c b m (epAddr c i q.1) = some q.2) :
    epSplit c b m i (l.map fun q => q.1) = (l, none) := by
  induction l with
  | nil => rfl
  | cons q l ih =>
    obtain ⟨aligned, mapped⟩ := ok q List.mem_cons_self
    have rest := ih fun x hx => ok x (List.mem_cons_of_mem _ hx)
    simp only [List.map_cons, epSplit, mapped, aligned, rest, decide_true, Option.filter_some, if_true]

theorem epAddr_indexed {i : MIns} (h : i.fn = .vgather ∨ i.fn = .vscatter) (e : Nat) : epAddr c i e =
    c.elAddr i.p (((c.rv i.x).get (8 * 2 ^ (i.w + 1)) e % 2 ^ 32 * 2 ^ (i.w + 1) % 2 ^ 32 : Nat) : Int) := if_pos h

theorem epAddr_strided {i : MIns} (h : ¬ (i.fn = .vgather ∨ i.fn = .vscatter)) (e : Nat) : epAddr c i e =
    c.elAddr i.p (sext 32 (wrapTo 32 ((e : Int) * (c.rs i.x).toInt))) := if_neg h

/-- The index element of a gather or scatter is poisoned. -/
def MIns.ixBad (i : MIns) (c : Core) (e : Nat) : Bool :=
  (decide (i.fn = .vgather) || decide (i.fn = .vscatter)) && (c.rv i.x).bad (8 * 2 ^ (i.w + 1)) e

theorem ixBad_strided {i : MIns} (h : ¬ (i.fn = .vgather ∨ i.fn = .vscatter)) (e : Nat) : i.ixBad c e = false := by
  simp only [MIns.ixBad]
  simp_all

/-- The elements still to perform. -/
def Core.remaining (c : Core) (i : MIns) (slot : Nat) : List Nat :=
  (c.actives i.k (8 * 2 ^ (i.w + 1))).filter fun e => !epDone c slot e

/-- The elements that remain, each with its internal address, split with none that fails. -/
theorem epSplit_remaining (hl : l.map (fun q => q.1) = c.remaining i slot)
    (ok : ∀ q ∈ l, epAddr c i q.1 % 2 ^ (i.w + 1) = 0 ∧ coreMap c b m (epAddr c i q.1) = some q.2) :
    epSplit c b m i (c.remaining i slot) = (l, none) := by
  rw [← hl, epSplit_of_mapped ok]

theorem evalPrecise_load {vs : List (Nat × Bool)} (load : i.fn = .vgather ∨ i.fn = .vlds)
    (split : epSplit c b m i (c.remaining i slot) = (l, none)) (read : loadEls s (2 ^ (i.w + 1)) (l.map fun q => q.2) = (t, vs)) :
    evalPrecise s b m c i slot = .ok (t, {
      wr := [(.v (c.vIdx i.r), vWrite (8 * 2 ^ (i.w + 1)) ((l.zip vs).map fun q => (q.1.1, q.2.1, q.2.2 || i.ixBad c q.1.1)), 3)] }) := by
  have not_store : ¬ (i.fn = .vscatter ∨ i.fn = .vsts) := by rcases load with h | h <;> simp [h]
  simp only [Core.remaining] at split
  simp only [evalPrecise, split, if_neg not_store, read]
  rfl

theorem evalPrecise_store (store : i.fn = .vscatter ∨ i.fn = .vsts) (split : epSplit c b m i (c.remaining i slot) = (l, none)) :
    evalPrecise s b m c i slot = .ok (storeEls s (2 ^ (i.w + 1)) (l.map fun q =>
      (q.2, (c.rv i.r).elem (8 * 2 ^ (i.w + 1)) q.1, (c.rv i.r).bad (8 * 2 ^ (i.w + 1)) q.1 || i.ixBad c q.1)), {}) := by
  simp only [Core.remaining] at split
  simp only [evalPrecise, split, if_pos store]
  rfl

theorem evalPrecise_vlds {vs : List (Nat × Bool)} (hf : i.fn = .vlds) (split : epSplit c b m i (c.remaining i slot) = (l, none))
    (read : loadEls s (2 ^ (i.w + 1)) (l.map fun q => q.2) = (t, vs)) : evalPrecise s b m c i slot = .ok (t, {
      wr := [(.v (c.vIdx i.r), vWrite (8 * 2 ^ (i.w + 1)) ((l.zip vs).map fun q => (q.1.1, q.2.1, q.2.2)), 3)] }) := by
  rw [evalPrecise_load (.inr hf) split read]
  simp only [ixBad_strided (i := i) (by simp [hf]), Bool.or_false]

theorem evalPrecise_vsts (hf : i.fn = .vsts) (split : epSplit c b m i (c.remaining i slot) = (l, none)) :
    evalPrecise s b m c i slot = .ok (storeEls s (2 ^ (i.w + 1)) (l.map fun q =>
      (q.2, (c.rv i.r).elem (8 * 2 ^ (i.w + 1)) q.1, (c.rv i.r).bad (8 * 2 ^ (i.w + 1)) q.1)), {}) := by
  rw [evalPrecise_store (.inr hf) split]
  simp only [ixBad_strided (i := i) (by simp [hf]), Bool.or_false]

/-- An element-precise row all of whose remaining elements are performed. -/
theorem runM_precise {ws : List (Dst × Val × Nat)} (h : Finds s id reads c) (hr : reads = i.reads c.vIdx) (precise : i.fn.precise = true)
    (small : i.w < 3) (own : i.fn = .vgather → i.r ≠ i.x) (upd : i.upd = 0)
    (he : evalPrecise (drawn s) id.bench id.core c i (if m1 then 2 else 1) = .ok (t, { wr := ws })) :
    runM id m1 i s = bundled s t id (c.precisely ws) {} := by
  have real : i.fn ≠ .nop := fun e => by simp [e, MFn.precise] at precise
  have legal : i.legal = true := by simpa [MIns.legal, real, precise, small, ← imp_iff_not_or] using own
  have once : twice (i.writes c.vIdx) = false := by
    simp only [MIns.writes, upd]
    split <;> simp [twice]
  have eval : evalM (drawn s) id.bench id.core c i (if m1 then 2 else 1) = .ok (t, { wr := ws }) := by
    simp only [evalM, if_neg real, precise, if_true, he]
  rw [runM_law h hr legal eval once, if_pos precise]

end Precise

/-! ## O57 -/

/-- The row of a scalar load of `n` bytes, extended by `ext`. -/
theorem loadRow {mk : CoreId → Bool → Fin 32 → Fin 16 → Fin 4 → BitVec 12 → Fin 32 → Instr} {n : Nat} {ext : Nat → W32} (fn : MFn)
    (row : ∀ id m1 d p upd imm inc s, exec (mk id m1 d p upd imm inc) s =
      .next (runM id m1 (memForm fn (Fin.val d) (Fin.val p) (Fin.val upd) 0 imm (Fin.val inc)) s))
    (scalar : fn ∈ [MFn.ldw, .ldh, .ldhu, .ldb, .ldbu]) (size : mSize fn = n) (extends_ : ∀ v, fn.extended v = ext v)
    (id : CoreId) (m1 : Bool) (d : Fin 32) (p : Fin 16) (upd : Fin 4) (imm : BitVec 12) (inc : Fin 32) (s : State) (c : Core) (ad : Addr)
    (h : Finds s id ([Dst.p p] ++ if upd.val = 2 then [Dst.s inc] else []) c) (ha : c.addr p upd imm.toInt (c.rs inc).toInt = some ad) :
    (∀ (x v : Nat) (t : State), ad.at_ 0 % n = 0 → coreMap c id.bench id.core (ad.at_ 0) = some x →
      loadEls (drawn s) n [x] = (t, [(v, false)]) → exec (mk id m1 d p upd imm inc) s =
      .next (bundled s t id (c.moved ([(Dst.s d, .w (ext v), 3)] ++ stepped p ad)) { adj := ad.adj })) ∧
    (ad.at_ 0 % n ≠ 0 → exec (mk id m1 d p upd imm inc) s = .next (putCore (drawn s) id.bench id.core
      (entered c (packF [(0, 5), (10, if m1 then 2 else 1)]) (w32 (ad.at_ 0)) 0))) := by
  subst size
  have facts : ∀ f ∈ [MFn.ldw, .ldh, .ldhu, .ldb, .ldbu], f.scalar = true ∧ f.stores = false ∧ f ≠ .ldp ∧
      f ∈ [MFn.ldw, .ldh, .ldhu, .ldb, .ldbu, .stw, .sth, .stb] := by decide
  obtain ⟨one, load, notP, free⟩ := facts fn scalar
  have ok : FormOk fn d p upd 0 := .of_scalar free
  constructor
  · intro x v t aligned mapped clean
    rw [row, runM_load h ok one load rfl ha aligned mapped clean, if_neg notP, extends_]
  · intro mis
    rw [row, runM_misaligned h ok one (by simp [masked_of_scalar one, stored_of_load one load]) ha mis]

/-- The row of a scalar store of `n` bytes. -/
theorem storeRow {mk : CoreId → Bool → Fin 32 → Fin 16 → Fin 4 → BitVec 12 → Fin 32 → Instr} {n : Nat} (fn : MFn)
    (row : ∀ id m1 d p upd imm inc s, exec (mk id m1 d p upd imm inc) s =
      .next (runM id m1 (memForm fn (Fin.val d) (Fin.val p) (Fin.val upd) 0 imm (Fin.val inc)) s))
    (store : fn ∈ [MFn.stw, .sth, .stb]) (size : mSize fn = n)
    (id : CoreId) (m1 : Bool) (d : Fin 32) (p : Fin 16) (upd : Fin 4) (imm : BitVec 12) (inc : Fin 32) (s : State) (c : Core) (ad : Addr) (x : Nat)
    (h : Finds s id ([Dst.p p] ++ (if upd.val = 2 then [Dst.s inc] else []) ++ [Dst.s d]) c)
    (ha : c.addr p upd imm.toInt (c.rs inc).toInt = some ad) (aligned : ad.at_ 0 % n = 0)
    (mapped : coreMap c id.bench id.core (ad.at_ 0) = some x) : exec (mk id m1 d p upd imm inc) s =
    .next (bundled s (writeBytes (drawn s) x (bytesOf n ((c.rs d).toNat % 2 ^ (8 * n)))) id (c.moved (stepped p ad)) { adj := ad.adj }) := by
  subst size
  have free : ∀ f ∈ [MFn.stw, .sth, .stb], f ∈ [MFn.ldw, .ldh, .ldhu, .ldb, .ldbu, .stw, .sth, .stb] := by decide
  have ok : FormOk fn d p upd 0 := .of_scalar (free fn store)
  rw [row, runM_store h ok store rfl ha aligned mapped]

/-- Settles O57, row by row from the laws above. Index poison of the element-precise forms (log entry 60), ALIGN taken before
ADDR_FAULT (155) and the word-by-word wrap of LDA and STA through a circular pointer (159) are the model's choices. -/
theorem awlMemory : Obligations.AwlMemory := by
  refine ⟨?loads, ?ldp, ?stores, ?stp, ?vectors, ?accumulators, ?precise⟩
  case loads =>
    simp only [List.forall_mem_cons]
    exact ⟨loadRow .ldw (fun _ _ _ _ _ _ _ _ => rfl) (by decide) rfl fun _ => rfl,
      loadRow .ldh (fun _ _ _ _ _ _ _ _ => rfl) (by decide) rfl (ofInt_sext (by decide)),
      loadRow .ldhu (fun _ _ _ _ _ _ _ _ => rfl) (by decide) rfl fun _ => rfl,
      loadRow .ldb (fun _ _ _ _ _ _ _ _ => rfl) (by decide) rfl (ofInt_sext (by decide)),
      loadRow .ldbu (fun _ _ _ _ _ _ _ _ => rfl) (by decide) rfl fun _ => rfl, by simp⟩
  case ldp =>
    intro id m1 d p upd imm inc s t c ad x v h ha own aligned mapped clean _
    have ok : FormOk .ldp d p upd 0 := .of_pointer (.inl rfl) d.isLt fun _ => by rwa [Fin.val_ne_iff]
    exact congrArg Host.Outcome.next (runM_load h ok rfl rfl rfl ha aligned mapped clean)
  case stores =>
    simp only [List.forall_mem_cons]
    exact ⟨storeRow .stw (fun _ _ _ _ _ _ _ _ => rfl) (by decide) rfl,
      storeRow .sth (fun _ _ _ _ _ _ _ _ => rfl) (by decide) rfl,
      storeRow .stb (fun _ _ _ _ _ _ _ _ => rfl) (by decide) rfl, by simp⟩
  case stp =>
    intro id m1 d p upd imm inc s c ad x h ha aligned mapped
    have ok : FormOk .stp d p upd 0 := .of_pointer (.inr rfl) d.isLt (by simp)
    refine congrArg Host.Outcome.next (runM_access (ws := []) h ok ?_ ha (by simp [MFn.masked]) (evalScalarM_stp ha aligned mapped))
    simp [MFn.masked, MFn.stored]
  case vectors =>
    intro id m1 d p upd k imm inc s c act hact
    subst hact
    refine ⟨fun h => ⟨fun idle => ⟨?_, ?_⟩, ?_, ?_⟩, fun h => ⟨fun idle => ?_, ?_⟩⟩
    · exact congrArg Host.Outcome.next (runM_idle h (.of_masked rfl) rfl (by simp [MFn.stored]) idle)
    · exact congrArg Host.Outcome.next (runM_idle h (.of_masked rfl) rfl (by simp [MFn.stored]) idle)
    · intro ad xs t l busy ha aligned mapped read
      exact congrArg Host.Outcome.next (runM_access h (.of_masked rfl) (by simp [MFn.masked, MFn.stored]) ha (fun _ => busy)
        (evalVecM_ldv ha aligned mapped read))
    · intro ad x t v busy ha aligned mapped read
      exact congrArg Host.Outcome.next (runM_access h (.of_masked rfl) (by simp [MFn.masked, MFn.stored]) ha (fun _ => busy)
        (evalVecM_ldvBc ha aligned mapped read))
    · exact congrArg Host.Outcome.next (runM_idle h (.of_masked rfl) rfl rfl idle)
    · intro ad xs busy ha aligned mapped
      exact congrArg Host.Outcome.next (runM_access (ws := []) h (.of_masked rfl) rfl ha (fun _ => busy) (evalVecM_stv ha aligned mapped))
  case accumulators =>
    intro id m1 d p upd imm inc s c ad xs ha aligned mapped
    refine ⟨fun t l h read => ?_, fun h => ?_⟩
    · exact congrArg Host.Outcome.next (runM_access h (.of_accumulator (.inl rfl) d.isLt) (by simp [MFn.masked, MFn.stored]) ha (by simp [MFn.masked])
        (evalAccM_lda ha aligned mapped read))
    · exact congrArg Host.Outcome.next (runM_access (ws := []) h (.of_accumulator (.inr rfl) d.isLt) (by simp [MFn.masked, MFn.stored]) ha
        (by simp [MFn.masked]) (evalAccM_sta ha aligned mapped))
  case precise =>
    intro id m1 d x p k w s c n l small hn hl
    subst hn
    refine ⟨fun ok => ⟨fun t vs own h read => ?_, fun h => ?_⟩, fun ok => ⟨fun t vs h read => ?_, fun h => ?_⟩⟩
    · have split := epSplit_remaining (i := { fn := .vgather, r := d, p := p, k := k, x := x, w := w }) hl
        fun q hq => ok q hq _ (epAddr_indexed (.inl rfl) _).symm
      have eval := evalPrecise_load (.inl rfl) split read
      exact congrArg Host.Outcome.next (runM_precise h rfl rfl small (fun _ => by rwa [Fin.val_ne_iff]) rfl eval)
    · have split := epSplit_remaining (i := { fn := .vscatter, r := d, p := p, k := k, x := x, w := w }) hl
        fun q hq => ok q hq _ (epAddr_indexed (.inr rfl) _).symm
      exact congrArg Host.Outcome.next (runM_precise h rfl rfl small (by simp) rfl (evalPrecise_store (.inl rfl) split))
    · have split := epSplit_remaining (i := { fn := .vlds, r := d, p := p, k := k, x := x, w := w }) hl
        fun q hq => ok q hq _ (epAddr_strided (by simp) _).symm
      exact congrArg Host.Outcome.next (runM_precise h rfl rfl small (by simp) rfl (evalPrecise_vlds rfl split read))
    · have split := epSplit_remaining (i := { fn := .vsts, r := d, p := p, k := k, x := x, w := w }) hl
        fun q hq => ok q hq _ (epAddr_strided (by simp) _).symm
      exact congrArg Host.Outcome.next (runM_precise h rfl rfl small (by simp) rfl (evalPrecise_vsts rfl split))

end Sys2Proof.Machine
end

section
/-! The S-slot rows and the other events of a core (R67, R75–R78, R81, R82, R85, R99–R102, R105–R113, R115): what a bundle with one
scalar instruction leaves, by its control effect, and the proof of O56. -/

namespace Sys2Proof.Machine

/-! ## The end of a bundle -/

/-- A bundle of a hold region is counted (R76). -/
def Core.counted (x : Core) : Core := if bit x.status 16 then { x with holdN := x.holdN + 1 } else x

/-- The core and the next pc after the control effects left `y` and the address `next`: a branch that `won` passes over the loop
ends (R100). -/
def Core.ends (y : Core) (pc next : W32) (won : Bool) : Core × W32 := if won then (y.counted, next) else y.counted.loopEnd pc next

theorem counted_pc (y : Core) : y.counted.pc = y.pc := by unfold Core.counted; split <;> rfl
theorem counted_pre (y : Core) : y.counted.pre = y.pre := by unfold Core.counted; split <;> rfl

theorem ends_pc (y : Core) (pc next : W32) (won : Bool) : (y.ends pc next won).1.pc = y.pc := by
  cases won
  · exact (loopEnd_pres Core.pc (fun _ _ _ _ _ _ _ _ => rfl) ..).trans (counted_pc y)
  · exact counted_pc y

theorem ends_pre (y : Core) (pc next : W32) (won : Bool) : (y.ends pc next won).1.pre = y.pre := by
  cases won
  · exact (loopEnd_pres Core.pre (fun _ _ _ _ _ _ _ _ => rfl) ..).trans (counted_pre y)
  · exact counted_pre y

theorem moved_eq_ends (y : Core) : y.moved [] = y.ends y.pc (y.pc + 16) false := rfl

/-- The core that a bundle without flags leaves, from the core and next pc after its control effects and the cycles it took. -/
def Core.closed (x : Core × W32) (cyc : Nat) : Core :=
  { x.1 with pc := x.2, status := x.1.status ||| Sticky.status {}, pre := x.1.ahead x.2, cycle := x.1.cycle + BitVec.ofNat 64 (1 + cyc % 2 ^ 20) }

theorem bundled_eq_closed (s t : State) (id : CoreId) (x : Core × W32) :
    bundled s t id x {} = putCore t id.bench id.core (Core.closed x (Config.freeWord (s.freeCtr + 1)).toNat) := rfl

section Bundles
variable {s : State} {id : CoreId} {c : Core} {i : SIns} {reads : List Dst} {ws : List (Dst × Val × Nat)} {ct : Ctl} {hold irq : Bool} {cyc : Nat}

theorem ends_ahead {y : Core} {next : W32} {won : Bool} (hpc : y.pc = c.pc) (hpre : y.pre = c.pre) (n : W32) :
    (y.ends c.pc next won).1.ahead n = c.ahead n :=
  ahead_congr ((ends_pc ..).trans hpc) ((ends_pre ..).trans hpre) n

/-- A bundle with one S-slot instruction commits, by the core `y` that its control effect leaves; a CSR write comes after it. -/
theorem commit_ends {y : Core} {next : W32} {won : Bool} (noCsr : ∀ n v, ct ≠ .csr n v)
    (hy : ((ws.foldl (Core.send hold) c).returns i).control irq (c.predict i) ct = (y, next, won))
    (hpc : y.pc = c.pc) (hpre : y.pre = c.pre) :
    c.commit { s0 := some i } {} { wr := ws, ctl := ct } hold irq cyc = Core.closed (y.ends c.pc next won) cyc := by
  rw [commit_scalar]
  simp only [hy, Core.closed, ends_ahead hpc hpre]
  cases ct with
  | csr n v => exact absurd rfl (noCsr n v)
  | _ => rfl

/-- A CSR write commits after the loop ends have acted (R81). -/
theorem commit_csr {n : Nat} {v : W32} (hn : ∀ x : Core, x.returns i = x) :
    c.commit { s0 := some i } {} { ctl := .csr n v } (bit c.status 16) irq cyc =
      Core.closed (csrPut (c.moved []).1 n (if n = 0x005 then setFld (c.moved []).1.status 13 0 v.toNat else v), (c.moved []).2) cyc := by
  have kept : ∀ (x : Core) (v n : W32) (k : Nat), (csrPut x k v).ahead n = x.ahead n := by
    intro x v n k
    unfold csrPut
    repeat' split
    all_goals rfl
  rw [commit_scalar]
  simp only [hn, Core.control, Core.closed, kept, moved_ahead]
  rfl

/-- A bundle whose S-slot instruction answers results and a control effect, by the core `y` that the effect leaves. -/
theorem runS_ends {y : Core} {next : W32} {won : Bool} (h : Finds s id reads c) (hr : reads = i.reads) (hh : i.fn ≠ .irqHold)
    (he : sIssueExc c i = none) (ht : twice i.writes = false)
    (hs : evalS (drawn s) id.bench id.core c i = .ok { wr := ws, ctl := ct }) (noCsr : ∀ n v, ct ≠ .csr n v) (noEnd : ∀ st, ct ≠ .tdone st)
    (hy : ((ws.foldl (Core.send (bit c.status 16)) c).returns i).control (pendingIrq s id.bench id.core c).isSome (c.predict i) ct =
      (y, next, won)) (hpc : y.pc = c.pc) (hpre : y.pre = c.pre) :
    runS id (some i) s = bundled s (drawn s) id (y.ends c.pc next won) {} :=
  runS_control h hr hh he ht hs (by
    rw [ended_plain _ _ _ _ noEnd (noCsr 0x00F), bundled_eq_closed, ← commit_ends noCsr hy hpc hpre]
    rfl)

/-- A bundle without results whose control effect leaves `y` and goes on with the next bundle. -/
theorem runS_moved {y : Core} (h : Finds s id reads c) (hr : reads = i.reads) (hh : i.fn ≠ .irqHold)
    (he : sIssueExc c i = none) (ht : twice i.writes = false)
    (hs : evalS (drawn s) id.bench id.core c i = .ok { ctl := ct }) (noCsr : ∀ n v, ct ≠ .csr n v) (noEnd : ∀ st, ct ≠ .tdone st)
    (hy : (c.returns i).control (pendingIrq s id.bench id.core c).isSome (c.predict i) ct = (y, c.pc + 16, false))
    (hpc : y.pc = c.pc) (hpre : y.pre = c.pre) :
    runS id (some i) s = bundled s (drawn s) id (y.moved []) {} := by
  rw [moved_eq_ends, hpc]
  exact runS_ends (ws := []) h hr hh he ht hs noCsr noEnd hy hpc hpre

/-- A scalar instruction that faults as it executes leaves only its exception. -/
theorem runS_fault {e : Exc} (h : Finds s id reads c) (hr : reads = i.reads) (hh : i.fn ≠ .irqHold) (he : sIssueExc c i = none)
    (ht : twice i.writes = false) (hs : evalS (drawn s) id.bench id.core c i = .error e) :
    runS id (some i) s = takeExc (drawn s) id.bench id.core c e := by
  rw [runS_law h hr hh he ht, hs]

end Bundles

/-! ## Scalar arithmetic (R115) -/

/-- The operations whose result is `aluOf`'s. -/
def aluFns : List SFn := srFns ++ [.addi, .andi, .ori, .xori, .slli, .srli, .srai, .rori, .slti, .lui]

theorem evalS_alu {s : State} {b m : Nat} {c : Core} {i : SIns} (h : i.fn ∈ aluFns) :
    evalS s b m c i = .ok { wr := [(.s i.d, .w (aluOf i.fn (c.rs i.a) (c.rs i.b) i.imm), aluLat i.fn)] } := by
  obtain ⟨f⟩ := i
  fin_cases h <;> rfl

theorem sIssueExc_alu {c : Core} {i : SIns} (h : i.fn ∈ aluFns) : sIssueExc c i = none := by
  obtain ⟨f⟩ := i
  fin_cases h <;> rfl

theorem writes_alu {i : SIns} (h : i.fn ∈ aluFns) : i.writes = [.s i.d] := by
  obtain ⟨f⟩ := i
  fin_cases h <;> rfl

theorem returns_of_ne {i : SIns} (h : i.fn ≠ .call) (h' : i.fn ≠ .jr) (c : Core) : c.returns i = c := by
  simp [Core.returns, h, h']

/-- A scalar operation writes its result with its latency. -/
theorem runS_alu {s : State} {id : CoreId} {c : Core} {i : SIns} {reads : List Dst} (h : Finds s id reads c) (alu : i.fn ∈ aluFns)
    (hr : reads = i.reads) : runS id (some i) s =
    plain s id c [(.s i.d, .w (aluOf i.fn (c.rs i.a) (c.rs i.b) i.imm), aluLat i.fn)] {} :=
  runS_plain h hr (sIssueExc_alu alu) (by simp [writes_alu alu, twice])
    (returns_of_ne (ne_of_mem_of_not_mem alu (by decide)) (ne_of_mem_of_not_mem alu (by decide)))
    (ne_of_mem_of_not_mem alu (by decide)) (evalS_alu alu)

/-! ## Rows of a table -/

/-- A table's rows hold when its first row and the rest do. -/
theorem rows_cons {α : Type} {p : α → Prop} {r : α} {l : List α} (first : p r) (rest : ∀ x ∈ l, p x) : ∀ x ∈ r :: l, p x :=
  List.forall_mem_cons.2 ⟨first, rest⟩

/-- The row of an operation on two registers. -/
theorem binaryRow {mk : CoreId → Fin 32 → Fin 32 → Fin 32 → Instr} {g : W32 → W32 → W32} {lat : Nat} (fn : SFn)
    (row : ∀ id d a b s, exec (mk id d a b) s =
      .next (runS id (some { fn := fn, d := Fin.val d, a := Fin.val a, b := Fin.val b }) s) := by intros; rfl)
    (alu : fn ∈ aluFns := by decide) (reads : ∀ d a b, SIns.reads { fn := fn, d := d, a := a, b := b } = [.s a, .s b] := by intros; rfl)
    (result : ∀ x y, aluOf fn x y 0 = g x y := by intros; rfl) (latency : aluLat fn = lat := by rfl)
    (id : CoreId) (d a b : Fin 32) (s : State) (c : Core) (h : Finds s id [.s a, .s b] c) :
    exec (mk id d a b) s = .next (plain s id c [(.s d, .w (g (c.rs a) (c.rs b)), lat)] {}) := by
  rw [row, runS_alu h alu (reads ..).symm, result, latency]

/-- The row of an operation on one register. -/
theorem unaryRow {mk : CoreId → Fin 32 → Fin 32 → Instr} {g : W32 → W32} (fn : SFn)
    (row : ∀ id d a s, exec (mk id d a) s = .next (runS id (some { fn := fn, d := Fin.val d, a := Fin.val a }) s) := by intros; rfl)
    (alu : fn ∈ aluFns := by decide) (reads : ∀ d a, SIns.reads { fn := fn, d := d, a := a } = [.s a] := by intros; rfl)
    (result : ∀ x y, aluOf fn x y 0 = g x := by intros; rfl) (latency : aluLat fn = 1 := by rfl)
    (id : CoreId) (d a : Fin 32) (s : State) (c : Core) (h : Finds s id [.s a] c) :
    exec (mk id d a) s = .next (plain s id c [(.s d, .w (g (c.rs a)), 1)] {}) := by
  rw [row, runS_alu h alu (reads ..).symm, result, latency]

/-- The row of an operation on a register and an immediate `n`, which the instruction holds as `imm n`. -/
theorem immediateRow {α : Type} {mk : CoreId → Fin 32 → Fin 32 → α → Instr} {g : W32 → α → W32} (fn : SFn) (imm : α → Int)
    (result : ∀ x y n, aluOf fn x y (imm n) = g x n)
    (row : ∀ id d a n s, exec (mk id d a n) s =
      .next (runS id (some { fn := fn, d := Fin.val d, a := Fin.val a, imm := imm n }) s) := by intros; rfl)
    (alu : fn ∈ aluFns := by decide) (reads : ∀ d a n, SIns.reads { fn := fn, d := d, a := a, imm := n } = [.s a] := by intros; rfl)
    (latency : aluLat fn = 1 := by rfl) (id : CoreId) (d a : Fin 32) (n : α) (s : State) (c : Core) (h : Finds s id [.s a] c) :
    exec (mk id d a n) s = .next (plain s id c [(.s d, .w (g (c.rs a) n), 1)] {}) := by
  rw [row, runS_alu h alu (reads ..).symm, result, latency]

/-- The row of a shift by an immediate. -/
theorem shiftRow {mk : CoreId → Fin 32 → Fin 32 → Fin 32 → Instr} {g : W32 → Nat → W32} (fn : SFn)
    (result : ∀ x y, ∀ n : Fin 32, aluOf fn x y (n.val : Int) = g x n.val)
    (row : ∀ id d a n s, exec (mk id d a n) s =
      .next (runS id (some { fn := fn, d := Fin.val d, a := Fin.val a, imm := (Fin.val n : Int) }) s) := by intros; rfl)
    (alu : fn ∈ aluFns := by decide) (reads : ∀ d a n, SIns.reads { fn := fn, d := d, a := a, imm := n } = [.s a] := by intros; rfl)
    (latency : aluLat fn = 1 := by rfl) (id : CoreId) (d a n : Fin 32) (s : State) (c : Core) (h : Finds s id [.s a] c) :
    exec (mk id d a n) s = .next (plain s id c [(.s d, .w (g (c.rs a) n.val), 1)] {}) :=
  immediateRow fn (fun n : Fin 32 => (n.val : Int)) result row alu reads latency id d a n s c h

/-- A zero-extended immediate as a word. -/
theorem ofInt_toNat (n : W16) : BitVec.ofInt 32 (n.toNat : Int) = n.zeroExtend 32 := by
  rw [BitVec.ofInt_natCast, BitVec.ofNat_toNat]

theorem shift_count (n : Fin 32) : ((n.val : Int)).toNat % 32 = n.val := Nat.mod_eq_of_lt n.isLt

theorem aluOf_rori (x y : W32) (n : Fin 32) : aluOf .rori x y (n.val : Int) = x.rotateRight n.val := by
  have rotate : aluOf .rori x y (n.val : Int) = if n.val = 0 then x else (x >>> n.val) ||| (x <<< (32 - n.val)) := by
    simp only [aluOf, shift_count]
  rw [rotate, BitVec.rotateRight_eq_rotateRightAux_of_lt n.isLt, BitVec.rotateRightAux]
  split
  · next h => simp [h]
  · rfl

/-! ## Branches (R77, R115) -/

/-- A core whose branch is noted until it resolves. -/
def Core.noted (y : Core) (guess t : W32) (taken : Bool) : Core :=
  { y with open_ := y.open_ ++ [{ pc := y.pc, taken := taken, target := t, missed := decide (guess ≠ if taken then t else y.pc + 16) }] }

theorem branched_eq_ends {y : Core} {pc : W32} (hpc : y.pc = pc) (guess t : W32) (taken : Bool) :
    y.branched [] guess taken t = (y.noted guess t taken).ends pc (if taken then t else y.pc + 16) taken := by
  subst hpc
  cases taken <;> rfl

theorem control_branch (y : Core) (irq : Bool) (guess t : W32) (taken : Bool) : y.control irq guess (.branch taken t) =
    (y.noted guess t taken, if taken then t else y.pc + 16, taken) := by
  cases taken <;> rfl

theorem returns_pc (c : Core) (i : SIns) : (c.returns i).pc = c.pc := by
  unfold Core.returns
  repeat' split
  all_goals rfl

theorem returns_pre (c : Core) (i : SIns) : (c.returns i).pre = c.pre := by
  unfold Core.returns
  repeat' split
  all_goals rfl

/-- A branch without results: its outcome is noted, and a taken one continues at its target. -/
theorem runS_branch {s : State} {id : CoreId} {c : Core} {i : SIns} {reads : List Dst} {taken : Bool} {t : W32}
    (h : Finds s id reads c) (hr : reads = i.reads) (hh : i.fn ≠ .irqHold) (he : sIssueExc c i = none) (ht : twice i.writes = false)
    (hs : evalS (drawn s) id.bench id.core c i = .ok { ctl := .branch taken t }) :
    runS id (some i) s = bundled s (drawn s) id ((c.returns i).branched [] (c.predict i) taken t) {} := by
  rw [branched_eq_ends (returns_pc c i)]
  exact runS_ends (ws := []) h hr hh he ht hs (by simp) (by simp) (control_branch ..) (returns_pc c i) (returns_pre c i)

/-- The conditional branches on two registers. -/
theorem branchRow {mk : CoreId → Fin 32 → Fin 32 → W16 → Instr} {g : W32 → W32 → Bool} (fn : SFn)
    (row : ∀ id a b o s, exec (mk id a b o) s =
      .next (runS id (some { fn := fn, a := Fin.val a, b := Fin.val b, imm := BitVec.toInt o }) s) := by intros; rfl)
    (cond : fn ∈ [SFn.beq, .bne, .blt, .bge, .bltu, .bgeu] := by decide)
    (taken : ∀ (c : Core) a b o, branchTaken c { fn := fn, a := a, b := b, imm := o } = g (c.rs a) (c.rs b) := by intros; rfl)
    (id : CoreId) (a b : Fin 32) (o : W16) (s : State) (c : Core) (h : Finds s id [.s a, .s b] c) :
    exec (mk id a b o) s = .next (bundled s (drawn s) id
      (c.branched [] (c.predict { fn := .beq, imm := o.toInt }) (g (c.rs a) (c.rs b)) (c.pc + BitVec.ofInt 32 (16 * o.toInt))) {}) := by
  rw [row, ← taken c a b o.toInt]
  congr 1
  fin_cases cond <;> exact runS_branch h rfl (by simp) rfl rfl rfl

/-- Some predicate bit below the vector length is set (log entry 51). -/
theorem branchTaken_bkany {c : Core} {k : Nat} {z : Bool} (imm : Int) (hz : z = true ↔ ∃ e < c.vl, (c.rk k).getLsbD e = true) :
    branchTaken c { fn := .bkany, a := k, imm := imm } = z := by
  have short : c.vl ≤ 64 := Nat.sub_le ..
  refine Bool.eq_iff_iff.2 (Iff.trans ?_ hz.symm)
  simp only [branchTaken, List.any_eq_true, List.mem_range, Bool.and_eq_true, decide_eq_true_eq]
  exact ⟨fun ⟨e, _, set, lt⟩ => ⟨e, lt, set⟩, fun ⟨e, lt, set⟩ => ⟨e, by omega, set, lt⟩⟩

/-- The link register's write leaves the branch's outcome and the return stack alone. -/
theorem call_ends (c : Core) (guess t : W32) : (Core.noted (Core.returns (Core.send (bit c.status 16) c (.s 31, .w (c.pc + 16), 1))
    { fn := .call }) guess t true).ends c.pc t true =
    Core.branched { c with ras := ((c.pc + 16) :: c.ras).take 4 } [(.s 31, .w (c.pc + 16), 1)] guess true t := by
  simp only [Core.ends, Core.branched, Core.ran, Core.counted, Core.noted, Core.returns, Core.send, List.foldl_cons, List.foldl_nil, if_true]

/-- CALL pushes the return stack and writes the link register (R77, R115). -/
theorem runS_call {s : State} {id : CoreId} {c : Core} (h : Finds s id [] c) (o : Int) :
    runS id (some { fn := .call, imm := o }) s = bundled s (drawn s) id (Core.branched { c with ras := ((c.pc + 16) :: c.ras).take 4 }
      [(.s 31, .w (c.pc + 16), 1)] (c.predict { fn := .call, imm := o }) true (c.pc + BitVec.ofInt 32 (16 * o))) {} := by
  rw [← call_ends]
  exact runS_ends (ws := [(.s 31, .w (c.pc + 16), 1)]) (ct := .branch true (c.pc + BitVec.ofInt 32 (16 * o))) h rfl (by simp) rfl
    (by simp [SIns.writes, twice]) rfl (by simp) (by simp) (control_branch ..) (returns_pc ..) (returns_pre ..)

/-! ## CSR writes (R81) -/

theorem ended_csr (t : State) (id : CoreId) (c c' : Core) (n : Nat) (v : W32) : ended t id c c' (.csr n v) =
    putCore t id.bench id.core (if n = 0x00F then { c' with wdAt := tickNow t } else c') := by
  unfold ended
  split_ifs with h
  · subst h; rfl
  · simp [h]

theorem sIssueExc_csr {c : Core} {i : SIns} {l : Nat} {w : Option Nat} (write : i.fn ∈ [SFn.csrw, .csrs, .csrc])
    (level : csrLevels i.imm.toNat = some (l, w)) (may : ∀ x, w = some x → c.pl ≤ x) : sIssueExc c i = none := by
  obtain ⟨f⟩ := i
  cases w with
  | none => fin_cases write <;> simp_all [sIssueExc]
  | some x => fin_cases write <;> simp_all [sIssueExc]

theorem evalS_csr {s : State} {b m : Nat} {c : Core} {i : SIns} {l w n : Nat} {v : W32} (write : i.fn ∈ [SFn.csrw, .csrs, .csrc])
    (hn : i.imm = n) (level : csrLevels n = some (l, some w))
    (hv : v = csrNew i.fn n c.pl (if n = 0x00E then c.ipend else csrRead s b m c n) (c.rs i.a)) (good : csrBad n v = false) :
    evalS s b m c i = .ok { ctl := .csr n v } := by
  subst hv
  obtain ⟨f⟩ := i
  subst hn
  fin_cases write <;> simp only [evalS, Int.toNat_natCast, level, good] <;> rfl

/-- A write to a read-only CSR is ignored (log entry 129). -/
theorem evalS_csr_ignored {s : State} {b m : Nat} {c : Core} {i : SIns} {l n : Nat} (write : i.fn ∈ [SFn.csrw, .csrs, .csrc])
    (hn : i.imm = n) (level : csrLevels n = some (l, none)) : evalS s b m c i = .ok {} := by
  obtain ⟨f⟩ := i
  subst hn
  fin_cases write <;> simp only [evalS, Int.toNat_natCast, level]

/-- What a CSR write leaves: the loop ends have acted before it, and a write of `WDOG` starts its period anew (R81, R113). -/
theorem runS_csr {s : State} {id : CoreId} {c : Core} {i : SIns} {reads : List Dst} {n : Nat} {v : W32} (h : Finds s id reads c)
    (hr : reads = i.reads) (hh : i.fn ≠ .irqHold) (he : sIssueExc c i = none) (ht : twice i.writes = false) (hn : ∀ x : Core, x.returns i = x)
    (hs : evalS (drawn s) id.bench id.core c i = .ok { ctl := .csr n v }) {x : Core}
    (hx : x = csrPut (c.moved []).1 n (if n = 0x005 then setFld (c.moved []).1.status 13 0 v.toNat else v)) :
    runS id (some i) s = bundled s (drawn s) id (if n = 0x00F then { x with wdAt := tickNow s } else x, (c.moved []).2) {} := by
  subst hx
  rw [runS_law h hr hh he ht, hs]
  simp only [ended_csr, commit_csr hn]
  split_ifs <;> rfl

/-- The rows that write, set or clear bits of a CSR. -/
theorem csrRow {mk : CoreId → Fin 32 → Fin 4096 → Instr} {g : W32 → W32 → W32 × W32 → W32} (fn : SFn)
    (row : ∀ id a n s, exec (mk id a n) s = .next (runS id (some { fn := fn, a := Fin.val a, imm := (Fin.val n : Int) }) s) := by intros; rfl)
    (write : fn ∈ [SFn.csrw, .csrs, .csrc] := by decide) (new : ∀ n pl old x, csrNew fn n pl old x = g old x (csrMasks n pl) := by intros; rfl)
    (id : CoreId) (a : Fin 32) (n : Fin 4096) (s : State) (c : Core) (l : Nat) (h : Finds s id [.s a] c) :
    (∀ (w : Nat) (v : W32), csrLevels n = some (l, some w) → c.pl ≤ w →
      v = g (if n.val = 0x00E then c.ipend else csrRead s id.bench id.core c n) (c.rs a) (csrMasks n c.pl) → csrBad n v = false →
      ∀ x : Core, x = csrPut (c.moved []).1 n (if n.val = 0x005 then setFld (c.moved []).1.status 13 0 v.toNat else v) →
      exec (mk id a n) s = .next (bundled s (drawn s) id (if n.val = 0x00F then { x with wdAt := tickNow s } else x, (c.moved []).2) {})) ∧
    (csrLevels n = some (l, none) → exec (mk id a n) s = .next (plain s id c [] {})) := by
  have reads : [Dst.s a] = SIns.reads { fn := fn, a := a, imm := n.val } := by fin_cases write <;> rfl
  have writes : SIns.writes { fn := fn, a := a, imm := n.val } = [] := by fin_cases write <;> rfl
  have returns (x : Core) : x.returns { fn := fn, a := a, imm := n.val } = x := by fin_cases write <;> rfl
  have notHold : fn ≠ .irqHold := by rintro rfl; simp at write
  refine ⟨fun w v level may hv good x hx => ?_, fun level => ?_⟩
  · rw [← new] at hv
    rw [row, runS_csr h reads notHold (sIssueExc_csr write level (by simpa using may)) (by rw [writes]; rfl) returns
      (evalS_csr write rfl level hv good) hx]
  · rw [row, runS_plain h reads (sIssueExc_csr write level (by simp)) (by rw [writes]; rfl) returns notHold
      (evalS_csr_ignored write rfl level)]

/-! ## Holds, task ends and loops (R75, R76, R99–R102, R112) -/

/-- What an IRQ_HOLD does at issue: it waits for no register. -/
theorem issue_irqHold {s : State} {id : CoreId} {c : Core} (h : Finds s id [] c) :
    runS id (some { fn := .irqHold }) s = putCore (drawn s) id.bench id.core (c.commit { s0 := some { fn := .irqHold } } {} { ctl := .hold } true
      (pendingIrq s id.bench id.core c).isSome (Config.freeWord (s.freeCtr + 1)).toNat) := by
  have now : c = (coreOf s id.bench id.core).tick := by rw [h.core, waitFor_nil]; split <;> rfl
  have noExc : issueExc c { s0 := some { fn := .irqHold } } false = none := issueExc_none h.room rfl rfl rfl rfl rfl rfl rfl
  have memory : runMs (drawn s) id.bench id.core true c { s0 := some { fn := .irqHold } } = .ok (drawn s, {}) := rfl
  rw [runS, if_pos h.runs, issue_core (c := c) (hold := true) (reads := []) _ (coreOf s id.bench id.core).tick.vIdx rfl rfl
    (by simp [Bundle.sI]) now, noExc]
  simp only [memory]
  rfl

/-- IRQ_HOLD opens a hold region, of which its bundle is the first; inside one it does nothing (R75, R76). -/
theorem runS_irqHold {s : State} {id : CoreId} {c y : Core} (h : Finds s id [] c)
    (hy : y = if bit c.status 16 then c else { c with status := setBit c.status 16 true, holdN := 0, holdAt := c.pc }) :
    runS id (some { fn := .irqHold }) s = bundled s (drawn s) id (y.moved []) {} := by
  have control : c.control (pendingIrq s id.bench id.core c).isSome (c.predict { fn := .irqHold }) .hold = (y, c.pc + 16, false) := by
    subst hy
    unfold Core.control
    split_ifs <;> rfl
  have hpc : y.pc = c.pc := by subst hy; split_ifs <;> rfl
  have hpre : y.pre = c.pre := by subst hy; split_ifs <;> rfl
  rw [issue_irqHold h, commit_ends (i := { fn := .irqHold }) (ws := []) (hold := true) (by simp) control hpc hpre, bundled_eq_closed,
    moved_eq_ends, hpc]

theorem runS_tdone {s : State} {id : CoreId} {c : Core} {a : Fin 32} {i : Nat} (h : Finds s id [.s a] c) (task : c.task = some i) :
    runS id (some { fn := .tdone, a := a }) s = complete (bundled s (drawn s) id (Core.moved { c with task := none, idle := true } []) {}) i
      (BitVec.ofNat 16 (c.rs a).toNat) := by
  have has : sIssueExc c { fn := .tdone, a := a } = none := by simp [sIssueExc, task]
  have eval : evalS (drawn s) id.bench id.core c { fn := .tdone, a := a } = .ok { ctl := .tdone (BitVec.ofNat 16 (c.rs a).toNat) } := rfl
  rw [runS_law h rfl (by simp) has rfl, eval]
  simp only [ended, task, bundled_eq_closed, moved_eq_ends]
  rw [commit_ends (ws := []) (by simp) rfl rfl rfl]
  rfl

theorem takeExc_of_no_probe (s : State) (b m : Nat) (c : Core) (code slot : Nat) (bad : Option Nat) :
    takeExc s b m c { code := code, slot := slot, bad := bad } =
      putCore s b m (entered c (packF [(0, code), (10, slot)]) ((bad.map w32).getD c.badaddr) 0) := by
  simp only [takeExc, List.foldl_nil, enter_eq]

/-- ERET goes on at `EPC` with the state of `ESTATUS` (R110). -/
theorem runS_eret {s : State} {id : CoreId} {c : Core} (h : Finds s id [] c) (notT : c.pl ≠ 2) (may : c.pl ≤ fld c.estatus 18 17) :
    runS id (some { fn := .eret }) s = bundled s (drawn s) id (Core.ran { c with
      status := setFld (setFld c.status 15 12 (fld c.estatus 15 12)) 18 17 (fld c.estatus 18 17) } [], c.epc) {} := by
  have allowed : sIssueExc c { fn := .eret } = none := if_neg (by omega)
  exact runS_ends (ws := []) (ct := .eret) h rfl (by simp) allowed rfl rfl (by simp) (by simp) rfl rfl rfl

theorem runS_waitev {s : State} {id : CoreId} {c : Core} (h : Finds s id [] c) (outside : bit c.status 16 = false) :
    runS id (some { fn := .waitev }) s =
      bundled s (drawn s) id (Core.moved { c with waiting := (pendingIrq s id.bench id.core c).isNone } []) {} := by
  have allowed : sIssueExc c { fn := .waitev } = none := if_neg (by simp [outside])
  rw [← Option.not_isSome]
  exact runS_moved (ct := .waitev) h rfl (by simp) allowed rfl rfl (by simp) (by simp) rfl rfl rfl

theorem runS_fence {s : State} {id : CoreId} {c : Core} (h : Finds s id [] c) : runS id (some { fn := .fence }) s = plain s id c [] {} :=
  runS_plain (ws := []) h rfl rfl rfl (fun _ => rfl) (by simp) rfl

theorem runS_irqRelease {s : State} {id : CoreId} {c : Core} (h : Finds s id [] c) : runS id (some { fn := .irqRelease }) s =
    bundled s (drawn s) id (Core.moved { c with status := setBit c.status 16 false, holdN := 0 } []) {} :=
  runS_moved (ct := .release) (y := { c with status := setBit c.status 16 false, holdN := 0 }) h rfl (by simp) rfl rfl rfl (by simp) (by simp)
    rfl rfl rfl

theorem runS_lexit {s : State} {id : CoreId} {c : Core} (l : Nat) (h : Finds s id [] c) : runS id (some { fn := .lexit, lvl := l }) s =
    bundled s (drawn s) id (Core.moved { c with status := setBit c.status (14 + l) false } []) {} :=
  runS_moved (ct := .lexit l) (y := { c with status := setBit c.status (14 + l) false }) h rfl (by simp) rfl rfl rfl (by simp) (by simp)
    rfl rfl rfl

theorem runS_trap {s : State} {id : CoreId} {c : Core} (n : Nat) (h : Finds s id [] c) : runS id (some { fn := .trap, imm := n }) s =
    putCore (drawn s) id.bench id.core (entered c (packF [(0, 0x0D), (10, 0)]) (w32 n) 0) := by
  have traps : evalS (drawn s) id.bench id.core c { fn := .trap, imm := n } = .error { code := 0x0D, slot := 0, bad := some n } := rfl
  rw [runS_fault h rfl (by simp) rfl rfl traps, takeExc_of_no_probe]
  rfl

/-- BRK halts a core with a debugger attached, and else raises BREAK (R115). -/
theorem runS_brk_attached {s : State} {id : CoreId} {c : Core} (h : Finds s id [] c) (attached : c.debug = true) :
    runS id (some { fn := .brk }) s = bundled s (drawn s) id (Core.ran { c with halted := true } [], c.pc) {} := by
  have halts : evalS (drawn s) id.bench id.core c { fn := .brk } = .ok { ctl := .halt } := if_pos attached
  exact runS_ends (ws := []) (ct := .halt) (y := { c with halted := true }) h rfl (by simp) rfl rfl halts (by simp) (by simp) rfl rfl rfl

theorem runS_brk_detached {s : State} {id : CoreId} {c : Core} (h : Finds s id [] c) (detached : c.debug = false) :
    runS id (some { fn := .brk }) s =
      putCore (drawn s) id.bench id.core (entered c (packF [(0, 0x0E), (10, 0)]) c.badaddr 0) := by
  have breaks : evalS (drawn s) id.bench id.core c { fn := .brk } = .error { code := 0x0E, slot := 0 } := if_neg (by simp [detached])
  rw [runS_fault h rfl (by simp) rfl rfl breaks, takeExc_of_no_probe]
  rfl

/-! ## Loops (R99, R104) -/

/-- The loop instruction of a level from its fields. -/
def loopIns (lvl last cnt : Nat) (ci : Bool) (stg : Nat) (sp rb : Bool) : SIns :=
  { fn := .loop_, lvl := lvl, rb := rb, sp := sp, stg := stg, ci := ci, cnt := cnt, end_ := last, a := if ci then 0 else cnt }

section Loops
variable {s : State} {id : CoreId} {c : Core} {lvl last cnt stg n : Nat} {ci sp rb : Bool}

theorem loopOf_eq (h : ci = true ∨ cnt < 32) : loopOf lvl last cnt ci stg sp rb = some (loopIns lvl last cnt ci stg sp rb) := by
  have clean : ¬ ((!ci) = true ∧ 32 ≤ cnt) := by
    rintro ⟨reg, high⟩
    rcases h with h | h
    · simp [h] at reg
    · omega
  exact if_neg clean

theorem loopIns_reads : (loopIns lvl last cnt ci stg sp rb).reads = if ci then [] else [.s cnt] := by cases ci <;> rfl

/-- The count of a loop, from its field or its register. -/
theorem loopIns_count : (if (loopIns lvl last cnt ci stg sp rb).ci then (loopIns lvl last cnt ci stg sp rb).cnt
    else (c.rs (loopIns lvl last cnt ci stg sp rb).a).toNat) = if ci then cnt else (c.rs cnt).toNat := by cases ci <;> rfl

/-- A loop opens when nothing speaks against it (R99). -/
theorem evalS_loop0 (hn : n = if ci then cnt else (c.rs cnt).toNat) (some_ : last ≠ 0) (fits : n + stg < 2 ^ 32)
    (free : bit c.status 14 = false)
    (inside : bit c.status 15 = true → (c.pc + BitVec.ofNat 32 (16 * last)).toNat ≤ c.le1.toNat) (b m : Nat) :
    evalS s b m c (loopIns 0 last cnt ci stg sp rb) = .ok { ctl := .loop_ (loopIns 0 last cnt ci stg sp rb) n } := by
  have in_range : ¬ 2 ^ 32 - 1 < n + stg := by omega
  have nested : ¬ (bit c.status 15 = true ∧ c.le1.toNat < (c.pc + BitVec.ofNat 32 (16 * last)).toNat) :=
    fun ⟨open_, above⟩ => absurd (inside open_) (by omega)
  rw [← loopIns_count (c := c) (lvl := 0) (last := last) (stg := stg) (sp := sp) (rb := rb)] at hn
  subst hn
  refine if_neg ?_
  simp only [loopIns] at in_range ⊢
  simp only [some_, in_range, free, nested]
  simp

theorem evalS_loop1 (hn : n = if ci then cnt else (c.rs cnt).toNat) (some_ : last ≠ 0) (free : bit c.status 14 = false)
    (free1 : bit c.status 15 = false) (b m : Nat) :
    evalS s b m c (loopIns 1 last cnt ci 0 false false) = .ok { ctl := .loop_ (loopIns 1 last cnt ci 0 false false) n } := by
  rw [← loopIns_count (c := c) (lvl := 1) (last := last) (stg := 0) (sp := false) (rb := false)] at hn
  subst hn
  refine if_neg ?_
  simp [loopIns, some_, free, free1]

/-- A loop instruction by the core and the next pc that its opening leaves. -/
theorem runS_loop {y : Core} {next : W32} (h : Finds s id (if ci then [] else [.s cnt]) c)
    (eval : evalS (drawn s) id.bench id.core c (loopIns lvl last cnt ci stg sp rb) = .ok { ctl := .loop_ (loopIns lvl last cnt ci stg sp rb) n })
    (opens : c.open (loopIns lvl last cnt ci stg sp rb) n = (y, next)) (hpc : y.pc = c.pc) (hpre : y.pre = c.pre) :
    runS id (some (loopIns lvl last cnt ci stg sp rb)) s = bundled s (drawn s) id (y.ends c.pc next false) {} :=
  runS_ends (ws := []) h loopIns_reads.symm (by simp [loopIns]) rfl rfl eval (by simp) (by simp)
    (show (c.control _ _ (.loop_ _ n)) = _ by simp only [Core.control, opens]) hpc hpre

/-- A core with the registers of loop level 0 set (R99). -/
def Core.armed0 (c : Core) (n last stg : Nat) (sp rb : Bool) : Core :=
  { c with
    lc0 := w32 (n + stg), ls0 := c.pc + 16, le0 := c.pc + BitVec.ofNat 32 (16 * last), lstg := packF [(0, stg), (4, stg)], sp := sp,
    rrb := if rb then 0 else c.rrb }

/-- A core with the registers of loop level 1 set. -/
def Core.armed1 (c : Core) (n last : Nat) : Core :=
  { c with lc1 := w32 n, ls1 := c.pc + 16, le1 := c.pc + BitVec.ofNat 32 (16 * last) }

theorem open_loop0_of_ne (h : n ≠ 0) : c.open (loopIns 0 last cnt ci stg sp rb) n =
    (Core.stages { c.armed0 n last stg sp rb with status := setBit c.status 14 true }, c.pc + 16) := if_neg h

theorem open_loop0_zero : c.open (loopIns 0 last cnt ci stg sp rb) 0 =
    (c.armed0 0 last stg sp rb, c.pc + BitVec.ofNat 32 (16 * last) + 16) := rfl

theorem open_loop1_of_ne (h : n ≠ 0) : c.open (loopIns 1 last cnt ci 0 false false) n =
    ({ c.armed1 n last with status := setBit c.status 15 true }, c.pc + 16) := if_neg h

theorem open_loop1_zero : c.open (loopIns 1 last cnt ci 0 false false) 0 =
    (c.armed1 0 last, c.pc + BitVec.ofNat 32 (16 * last) + 16) := rfl

theorem stages_pc (x : Core) : x.stages.pc = x.pc := stages_pres Core.pc (fun _ _ _ => rfl) x
theorem stages_pre (x : Core) : x.stages.pre = x.pre := stages_pres Core.pre (fun _ _ _ => rfl) x

/-- A loop that runs goes on with its first bundle. -/
theorem runS_loop_runs {y : Core} (h : Finds s id (if ci then [] else [.s cnt]) c)
    (eval : evalS (drawn s) id.bench id.core c (loopIns lvl last cnt ci stg sp rb) = .ok { ctl := .loop_ (loopIns lvl last cnt ci stg sp rb) n })
    (opens : c.open (loopIns lvl last cnt ci stg sp rb) n = (y, c.pc + 16)) (hpc : y.pc = c.pc) (hpre : y.pre = c.pre) :
    runS id (some (loopIns lvl last cnt ci stg sp rb)) s = bundled s (drawn s) id (y.moved []) {} := by
  rw [moved_eq_ends, hpc]
  exact runS_loop h eval opens hpc hpre

end Loops

/-! ## Issue of the bundle at the PC (R67, R85) -/

section Issue
variable {s s1 : State} {id : CoreId} {a b c d : W32}

theorem bundleIssue_idle (idle : coreRuns s id.bench id.core = false) : exec (.bundleIssue id) s = .next s := by
  refine congrArg Host.Outcome.next ?_
  simp [idle]

/-- A running core issues the bundle that it has fetched, and prefetches. -/
theorem bundleIssue_fetched (runs : coreRuns s id.bench id.core = true)
    (fetched : fetchBundle { s with freeCtr := s.freeCtr + 1 } id.bench id.core = (s1, some [a, b, c, d])) :
    exec (.bundleIssue id) s = .next (fetchAhead (issue s1 id.bench id.core
      { s0 := decodeS a, m0 := decodeM b, m1 := decodeM c, v := decodeV d } false) id.bench id.core ((Config.freeWord s.freeCtr).toNat % 3)) := by
  refine congrArg Host.Outcome.next ?_
  simp only [runs, drawFree, fetched]
  rfl

/-- A running core that can fetch no bundle takes the fetch fault, and prefetches. -/
theorem bundleIssue_unfetched (runs : coreRuns s id.bench id.core = true)
    (fetched : fetchBundle { s with freeCtr := s.freeCtr + 1 } id.bench id.core = (s1, none)) :
    exec (.bundleIssue id) s = .next (fetchAhead (issue s1 id.bench id.core {} true) id.bench id.core
      ((Config.freeWord s.freeCtr).toNat % 3)) := by
  refine congrArg Host.Outcome.next ?_
  simp only [runs, drawFree, fetched]
  rfl

/-- With nothing prefetched the bundle is read from program memory. -/
theorem fetchBundle_read (none_ : (coreOf s id.bench id.core).pre = []) (low : 0x80000 ≤ (coreOf s id.bench id.core).pc.toNat)
    (high : (coreOf s id.bench id.core).pc.toNat < 0x90000) (aligned : (coreOf s id.bench id.core).pc.toNat % 16 = 0)
    (read : read32s s (lmemBase id.bench id.core + (coreOf s id.bench id.core).pc.toNat) 4 = (s1, [a, b, c, d], false)) :
    fetchBundle s id.bench id.core = (s1, some [a, b, c, d]) := by
  have inside : ¬ ((coreOf s id.bench id.core).pc.toNat < 0x80000 ∨ 0x90000 ≤ (coreOf s id.bench id.core).pc.toNat ∨
      (coreOf s id.bench id.core).pc.toNat % 16 ≠ 0) := by omega
  simp [fetchBundle, fetchAt, none_, inside, read]

/-- The bundle at the head of the prefetched ones is taken when it stands at the PC. -/
theorem fetchBundle_prefetched {r : List (W32 × List W32 × Bool)} {ws : List W32}
    (head : (coreOf s id.bench id.core).pre = ((coreOf s id.bench id.core).pc, ws, false) :: r) :
    fetchBundle s id.bench id.core = (s, some ws) := by
  simp [fetchBundle, head]

/-- Outside program memory, or misaligned, there is no bundle (log entry 49). -/
theorem fetchBundle_none (none_ : (coreOf s id.bench id.core).pre = [])
    (outside : (coreOf s id.bench id.core).pc.toNat < 0x80000 ∨ 0x90000 ≤ (coreOf s id.bench id.core).pc.toNat ∨
      (coreOf s id.bench id.core).pc.toNat % 16 ≠ 0) : fetchBundle s id.bench id.core = (s, none) := by
  simp [fetchBundle, fetchAt, none_, outside]

/-- FETCH_FAULT, with the PC in `BADADDR` (log entry 49). -/
theorem issue_fetchFault {c : Core} (h : Finds s id [] c) : issue s id.bench id.core {} true =
    putCore (drawn s) id.bench id.core (entered c 3 c.pc 0) := by
  have fault : issueExc c {} true = some { code := 3, slot := 0, bad := some c.pc.toNat } := rfl
  rw [issue_found h {} _ rfl rfl (by simp [Bundle.sI]), fault]
  simp only [takeExc_of_no_probe, Option.map_some, Option.getD_some, w32, BitVec.ofNat_toNat, BitVec.setWidth_eq]
  rfl

/-- A free value taken changes nothing that a bundle finds. -/
theorem Finds.free {reads : List Dst} {c : Core} (h : Finds s id reads c) : Finds { s with freeCtr := s.freeCtr + 1 } id reads c :=
  ⟨h.runs, h.core, h.room⟩

end Issue

/-- BRANCH_RESOLVE takes the oldest open branch (R77, log entry 47). -/
theorem branchResolve_cons {s : State} {id : CoreId} {x : BrInfo} {r : List BrInfo} (head : (coreOf s id.bench id.core).open_ = x :: r) :
    exec (.branchResolve id) s = .next (putCore { s with freeCtr := s.freeCtr + 1 } id.bench id.core { coreOf s id.bench id.core with
      open_ := r
      cycle := (coreOf s id.bench id.core).cycle + (if x.missed then 2 else 0)
      pred := putKey (coreOf s id.bench id.core).pred (fld x.pc 10 4) (some ((Config.freeWord s.freeCtr).toNat % 4,
        if x.taken then x.target else ((assoc (coreOf s id.bench id.core).pred (fld x.pc 10 4)).getD (0, 0)).2)) }) := by
  refine congrArg Host.Outcome.next ?_
  simp only [head]
  rfl

/-! ## Interrupts (R108, R111) -/

section Interrupts
variable {s : State} {id : CoreId} {c : Core} {k : Nat}

/-- A core that waits or does not. -/
def Core.awaits (c : Core) (w : Bool) : Core := { c with waiting := w }

/-- Whether a core waits has no part in the landing of a result. -/
theorem land_awaits (w : Bool) (c : Core) (f : Flight) : (c.awaits w).land f = (c.land f).awaits w := by
  obtain ⟨dst, val, left⟩ := f
  cases dst <;> cases val
  case s.w n x => by_cases zero : n = 0 <;> simp [Core.land, Core.awaits, zero]
  case k.k n x => by_cases zero : n = 0 <;> simp [Core.land, Core.awaits, zero]
  all_goals rfl

theorem tick_awaits (c : Core) (w : Bool) : (c.awaits w).tick = c.tick.awaits w :=
  List.foldl_hom (l := c.flight.filter fun f : Flight => decide (f.left ≤ 1))
    (init := { c with flight := (c.flight.filter fun f => decide (1 < f.left)).map fun f => { f with left := f.left - 1 } })
    (Core.awaits · w) (land_awaits w)

theorem tickN_awaits (n : Nat) (c : Core) (w : Bool) : (c.awaits w).tickN n = (c.tickN n).awaits w := by
  induction n generalizing c with
  | zero => rfl
  | succ n ih => simp only [Core.tickN, tick_awaits, ih]

theorem entered_awaits (c : Core) (w : Bool) (cause bad off : W32) :
    entered (c.awaits w) cause bad off = (entered c cause bad off).awaits w := by
  have landed : (c.awaits w).landAll = c.landAll.awaits w := tickN_awaits 8 c w
  simp only [entered, landed]
  generalize c.landAll = x
  rfl

theorem awaits_awaits (c : Core) (w : Bool) : (c.awaits w).awaits w = c.awaits w := rfl
theorem awaits_badaddr (c : Core) (w : Bool) : (c.awaits w).badaddr = c.badaddr := rfl
theorem awaits_self {c : Core} {w : Bool} (h : c.waiting = w) : c.awaits w = c := by subst h; rfl

/-- The interrupt pending is the enabled one of the lowest number. -/
theorem pendingIrq_eq_some {b m : Nat} (lt : k < 5) (pending : bit (ipendOf s b m c &&& c.ien) k = true)
    (lowest : ∀ j < k, bit (ipendOf s b m c &&& c.ien) j = false) : pendingIrq s b m c = some k := by
  refine List.find?_range_eq_some.2 ⟨pending, List.mem_range.2 lt, fun j hj => ?_⟩
  simp [lowest j hj]

/-- An enabled core accepts the interrupt pending. -/
theorem acceptIrq_pending {b m : Nat} (hc : c = coreOf s b m) (pending : pendingIrq s b m c = some k) (enabled : bit c.status 12 = true)
    (outside : bit c.status 16 = false) (busy : c.idle = false) (runs : c.halted = false) :
    acceptIrq s b m = putCore s b m ((entered c (packF [(0, k), (8, 1)]) c.badaddr 0x80).awaits false) := by
  subst hc
  simp [Core.awaits, acceptIrq, pending, enabled, outside, busy, runs, enter_eq]

theorem acceptIrq_none {b m : Nat} (hc : c = coreOf s b m) (none_ : pendingIrq s b m c = none) : acceptIrq s b m = s := by
  subst hc
  simp only [acceptIrq, none_]

/-- A core reads as written. -/
theorem coreOf_putCore_self (h : keysRise s.cores = true) (b m : Nat) (x : Core) : coreOf (putCore s b m x) b m = x := by
  unfold coreOf putCore
  simp only [assoc_putKey_self h]
  split
  · next reset => exact reset.symm
  · rfl

/-- INTERRUPT_ACCEPT on a core that does not wait. -/
theorem interruptAccept_pending (hc : c = coreOf s id.bench id.core) (pending : pendingIrq s id.bench id.core c = some k)
    (enabled : bit c.status 12 = true) (outside : bit c.status 16 = false) (busy : c.idle = false) (runs : c.halted = false)
    (awake : c.waiting = false) : exec (.interruptAccept id) s =
      .next (putCore s id.bench id.core (entered c (packF [(0, k), (8, 1)]) c.badaddr 0x80)) := by
  have accept := acceptIrq_pending hc pending enabled outside busy runs
  rw [← entered_awaits, awaits_self awake] at accept
  subst hc
  exact congrArg Host.Outcome.next ((if_neg (by simp [awake])).trans accept)

/-- WAITEV_COMPLETE ends the wait and accepts the interrupt. -/
theorem waitevComplete_pending (rise : keysRise s.cores = true) (hc : c = coreOf s id.bench id.core)
    (pending : pendingIrq s id.bench id.core c = some k) (enabled : bit c.status 12 = true) (outside : bit c.status 16 = false)
    (busy : c.idle = false) (runs : c.halted = false) (waits : c.waiting = true) : exec (.waitevComplete id) s =
      .next (putCore (putCore s id.bench id.core (c.awaits false)) id.bench id.core
        ((entered c (packF [(0, k), (8, 1)]) c.badaddr 0x80).awaits false)) := by
  have wakes : exec (.waitevComplete id) s = .next (acceptIrq (putCore s id.bench id.core (c.awaits false)) id.bench id.core) := by
    subst hc
    exact congrArg Host.Outcome.next (if_neg (by simp [waits, pending]))
  have still : pendingIrq (putCore s id.bench id.core (c.awaits false)) id.bench id.core (c.awaits false) = some k := pending
  rw [wakes, acceptIrq_pending (coreOf_putCore_self rise id.bench id.core (c.awaits false)).symm still enabled outside busy runs,
    entered_awaits, awaits_awaits, awaits_badaddr]

theorem interruptAccept_none (none_ : pendingIrq s id.bench id.core (coreOf s id.bench id.core) = none) :
    exec (.interruptAccept id) s = .next s :=
  congrArg Host.Outcome.next ((congrArg (ite _ s) (acceptIrq_none rfl none_)).trans (ite_self s))

theorem waitevComplete_none (none_ : pendingIrq s id.bench id.core (coreOf s id.bench id.core) = none) :
    exec (.waitevComplete id) s = .next s := congrArg Host.Outcome.next (if_pos (by simp [none_]))

end Interrupts

/-! ## The watchdog, the tick comparison and the inter-processor interrupt (R82, R108, R113) -/

section Timers
variable {s : State} {id : CoreId} {c : Core}

theorem watchdogExpiry_early (early : fld (coreOf s id.bench id.core).wdog 23 0 = 0 ∨
    tickNow s < (coreOf s id.bench id.core).wdAt + fld (coreOf s id.bench id.core).wdog 23 0) : exec (.awlWatchdogExpiry id) s = .next s :=
  congrArg Host.Outcome.next (if_pos early)

/-- A running watchdog whose period has passed expires. -/
theorem watchdogExpiry_due (hc : c = coreOf s id.bench id.core) (on : fld c.wdog 23 0 ≠ 0) (due : c.wdAt + fld c.wdog 23 0 ≤ tickNow s) :
    exec (.awlWatchdogExpiry id) s = .next (watchdogExpire s id.bench id.core) := by
  subst hc
  exact congrArg Host.Outcome.next (if_neg (not_or.2 ⟨on, Nat.not_lt.2 due⟩))

theorem watchdogExpire_first {b m : Nat} (hc : c = coreOf s b m) (first : c.wdFirst = false) :
    watchdogExpire s b m = putCore s b m { c with ipend := setBit c.ipend 3 true, wdFirst := true, wdAt := tickNow s } := by
  subst hc
  exact if_pos (by simp [first])

/-- The second expiry ends the core's task with TIMEOUT and restarts the core (log entry 50). -/
theorem watchdogExpire_second {b m i : Nat} (hc : c = coreOf s b m) (second : c.wdFirst = true) (task : c.task = some i) :
    watchdogExpire s b m = putCore (complete s i (st16 .timeout)) b m { Core.reset with idle := true } := by
  subst hc
  simp [watchdogExpire, second, task]

end Timers

/-! ## The obligation -/

/-- Settles O56, row by row. Where the manual is silent the statement follows the model's log: time passes in bundles (entry 45),
prefetch (46), the predictor's counter (47), FETCH_FAULT's `BADADDR` and a misaligned PC (49), the watchdog's restart (50), BKANY's
bits (51), CSRS and CSRC on bits that a write of 1 clears (54), ignored writes to read-only CSRs (129). -/
theorem awlScalar : Obligations.AwlScalar := by
  refine ⟨?binary, ?unary, ?immediate, ?shift, ?lui, ?pointerSum, ?pmov, ?smov, ?pdiff, ?paddi, ?branch, ?predicateBranch, ?jump, ?jr,
    ?csrr, ?csrWrite, ?control, ?tdone, ?loops, ?issue, ?fetchFault, ?idle, ?resolve, ?interrupt, ?events⟩
  case binary =>
    exact rows_cons (binaryRow .add) <| rows_cons (binaryRow .sub) <| rows_cons (binaryRow .and_) <| rows_cons (binaryRow .or_) <|
      rows_cons (binaryRow .xor_) <| rows_cons (binaryRow .sll) <| rows_cons (binaryRow .srl) <| rows_cons (binaryRow .sra) <|
      rows_cons (binaryRow .slt) <| rows_cons (binaryRow .sltu) <| rows_cons (binaryRow .min_) <| rows_cons (binaryRow .max_) <|
      rows_cons (binaryRow .minu) <| rows_cons (binaryRow .maxu) <| rows_cons (binaryRow .adds) <| rows_cons (binaryRow .subs) <|
      rows_cons (binaryRow .mul) <| rows_cons (binaryRow .mulh) <| rows_cons (binaryRow .mulhu) <| List.forall_mem_nil _
  case unary => exact rows_cons (unaryRow .abs_) <| rows_cons (unaryRow .clz) <| rows_cons (unaryRow .cls) <| List.forall_mem_nil _
  case immediate =>
    exact rows_cons (immediateRow .addi BitVec.toInt fun _ _ _ => rfl) <|
      rows_cons (immediateRow .andi (fun n => n.toNat) fun x _ n => congrArg (x &&& ·) (ofInt_toNat n)) <|
      rows_cons (immediateRow .ori (fun n => n.toNat) fun x _ n => congrArg (x ||| ·) (ofInt_toNat n)) <|
      rows_cons (immediateRow .xori (fun n => n.toNat) fun x _ n => congrArg (x ^^^ ·) (ofInt_toNat n)) <|
      rows_cons (immediateRow .slti BitVec.toInt fun _ _ _ => rfl) <| List.forall_mem_nil _
  case shift =>
    exact rows_cons (shiftRow .slli fun x _ n => congrArg (x <<< ·) (shift_count n)) <|
      rows_cons (shiftRow .srli fun x _ n => congrArg (x >>> ·) (shift_count n)) <|
      rows_cons (shiftRow .srai fun x _ n => congrArg x.sshiftRight (shift_count n)) <|
      rows_cons (shiftRow .rori aluOf_rori) <| List.forall_mem_nil _
  case lui =>
    intro id d i s c h
    refine congrArg Host.Outcome.next ((runS_alu h (show SFn.lui ∈ aluFns by decide) rfl).trans ?_)
    simp only [aluOf, ofInt_toNat]
    rfl
  case pointerSum =>
    intro id d a b s c h
    constructor
    · exact congrArg Host.Outcome.next (runS_plain h rfl rfl rfl (fun _ => rfl) (by simp) rfl)
    · exact congrArg Host.Outcome.next (runS_plain h rfl rfl rfl (fun _ => rfl) (by simp) rfl)
  case pmov => exact fun id d a s c h => congrArg Host.Outcome.next (runS_plain h rfl rfl rfl (fun _ => rfl) (by simp) rfl)
  case smov =>
    exact fun id d a s c h => congrArg Host.Outcome.next (runS_plain h rfl rfl (by simp [SIns.writes, twice]) (fun _ => rfl) (by simp) rfl)
  case pdiff =>
    exact fun id d a b s c h => congrArg Host.Outcome.next (runS_plain h rfl rfl (by simp [SIns.writes, twice]) (fun _ => rfl) (by simp) rfl)
  case paddi => exact fun id d a i s c h => congrArg Host.Outcome.next (runS_plain h rfl rfl rfl (fun _ => rfl) (by simp) rfl)
  case branch =>
    exact rows_cons (branchRow .beq) <| rows_cons (branchRow .bne) <| rows_cons (branchRow .blt) <| rows_cons (branchRow .bge) <|
      rows_cons (branchRow .bltu) <| rows_cons (branchRow .bgeu) <| List.forall_mem_nil _
  case predicateBranch =>
    intro id k o s c z h hz
    have any := branchTaken_bkany o.toInt hz
    have none_ : branchTaken c { fn := .bknone, a := k, imm := o.toInt } = !z := congrArg (!·) any
    constructor
    · refine congrArg Host.Outcome.next ?_
      rw [← any]
      exact runS_branch h rfl (by simp) rfl rfl rfl
    · refine congrArg Host.Outcome.next ?_
      rw [← none_]
      exact runS_branch h rfl (by simp) rfl rfl rfl
  case jump =>
    intro id o s c h
    exact ⟨congrArg Host.Outcome.next (runS_branch h rfl (by simp) rfl rfl rfl), congrArg Host.Outcome.next (runS_call h _)⟩
  case jr =>
    intro id a s c h
    have pops : Core.returns c { fn := .jr, a := a } = { c with ras := if a.val = 31 then c.ras.drop 1 else c.ras } := by
      simp only [Core.returns]
      split_ifs <;> simp_all
    have run := runS_branch (i := { fn := .jr, a := a }) h rfl (by simp) rfl rfl rfl
    rw [pops] at run
    exact congrArg Host.Outcome.next run
  case csrr =>
    intro id d n s c l w h level may
    have allowed : sIssueExc c { fn := .csrr, d := d, imm := (n.val : Int) } = none := by simp [sIssueExc, level, Nat.not_lt.2 may]
    exact congrArg Host.Outcome.next (runS_plain h rfl allowed (by simp [SIns.writes, twice]) (fun _ => rfl) (by simp) rfl)
  case csrWrite => exact rows_cons (csrRow .csrw) <| rows_cons (csrRow .csrs) <| rows_cons (csrRow .csrc) <| List.forall_mem_nil _
  case control =>
    intro id s c h
    refine ⟨?_, fun inside => ?_, fun outside => ?_, ?_, fun outside => ?_, fun notT may => ?_, fun n => ?_, fun attached => ?_,
      fun detached => ?_, ?_, ?_⟩
    · exact congrArg Host.Outcome.next (runS_fence h)
    · exact congrArg Host.Outcome.next (runS_irqHold h (by rw [if_pos inside]))
    · exact congrArg Host.Outcome.next (runS_irqHold h (by rw [if_neg (by simp [outside])]))
    · exact congrArg Host.Outcome.next (runS_irqRelease h)
    · exact congrArg Host.Outcome.next (runS_waitev h outside)
    · exact congrArg Host.Outcome.next (runS_eret h notT may)
    · exact congrArg Host.Outcome.next (runS_trap n h)
    · exact congrArg Host.Outcome.next (runS_brk_attached h attached)
    · exact congrArg Host.Outcome.next (runS_brk_detached h detached)
    · exact congrArg Host.Outcome.next (runS_lexit 0 h)
    · exact congrArg Host.Outcome.next (runS_lexit 1 h)
  case tdone => exact fun id a s c i h task => congrArg Host.Outcome.next (runS_tdone h task)
  case loops =>
    intro id last cnt ci sp rb stg s c n h some_ clean hn
    have level0 : exec (.loop0 id last cnt ci stg sp rb) s = .next (runS id (some (loopIns 0 last cnt ci stg sp rb)) s) :=
      congrArg (fun i => Host.Outcome.next (runS id i s)) (loopOf_eq clean)
    have level1 : exec (.loop1 id last cnt ci stg sp rb) s = .next (runS id (some (loopIns 1 last cnt ci stg sp rb)) s) :=
      congrArg (fun i => Host.Outcome.next (runS id i s)) (loopOf_eq clean)
    constructor
    · rintro fits free inside x rfl
      have eval := evalS_loop0 (s := drawn s) (sp := sp) (rb := rb) hn some_ fits free inside id.bench id.core
      rw [level0]
      constructor
      · intro more
        rw [runS_loop_runs h eval (open_loop0_of_ne more) (stages_pc _) (stages_pre _)]
        rfl
      · rintro rfl
        rw [runS_loop h eval open_loop0_zero rfl rfl]
        rfl
    · rintro hstg rfl rfl free free1 x rfl
      have eval := evalS_loop1 (s := drawn s) hn some_ free free1 id.bench id.core
      rw [level1, hstg]
      constructor
      · intro more
        rw [runS_loop_runs h eval (open_loop1_of_ne more) rfl rfl]
        rfl
      · rintro rfl
        rw [runS_loop h eval open_loop1_zero rfl rfl]
        rfl
  case issue =>
    rintro id s _ s1 a b c d _ runs rfl rfl
    exact ⟨fun none_ low high aligned read => bundleIssue_fetched runs (fetchBundle_read none_ low high aligned read),
      fun r head => bundleIssue_fetched runs (fetchBundle_prefetched head)⟩
  case fetchFault =>
    intro id s c h pc none_ outside
    rw [← pc] at outside
    rw [bundleIssue_unfetched h.runs (fetchBundle_none none_ outside), issue_fetchFault h.free]
  case idle => exact fun id s idle => bundleIssue_idle idle
  case resolve =>
    rintro id s _ x r rfl head
    exact branchResolve_cons head
  case interrupt =>
    intro id s c k rise hc lt pending lowest enabled outside busy runs
    have pends := pendingIrq_eq_some lt pending lowest
    exact ⟨interruptAccept_pending hc pends enabled outside busy runs, waitevComplete_pending rise hc pends enabled outside busy runs⟩
  case events =>
    intro id s c hc
    refine ⟨fun none_ => ?_, fun early => ?_, fun on due first => ?_, fun i on due second task => ?_, fun reached => ?_, fun later => ?_,
      fun v set here => ?_, fun v clear => ?_⟩
    · subst hc
      exact ⟨interruptAccept_none none_, waitevComplete_none none_⟩
    · subst hc
      exact watchdogExpiry_early early
    · rw [watchdogExpiry_due hc on due, watchdogExpire_first hc first]
    · rw [watchdogExpiry_due hc on due, watchdogExpire_second hc second task]
    · subst hc
      exact congrArg Host.Outcome.next (if_pos reached)
    · subst hc
      exact congrArg Host.Outcome.next (if_neg (by simp [later]))
    · subst hc
      exact congrArg Host.Outcome.next (if_pos ⟨set, here⟩)
    · subst hc
      exact congrArg Host.Outcome.next (if_neg (by simp [clear]))

end Sys2Proof.Machine
end

section
/-! The rows of a Shank (R143–R152): what a legal instruction leaves of a Shank that runs a task, by what its evaluation answers,
and the proof of O60. -/

namespace Sys2Proof.Machine

/-! ## The end of an instruction -/

section Ends
variable {s t : State} {b : Nat} {h x : Shank} {i : ShI} {f : Sticky}

/-- The element from which a Shank's next instruction goes on (R151). -/
def shFrom (s : State) (b : Nat) (h : Shank) : Nat := if h.resume then (rd s R.leix b).toNat else 0

/-- A ready Shank passes the checks that come before an instruction is evaluated. -/
theorem shRun_guards (ready : ShReady s b) :
    (benchHere s.variant b && goesOn s b && decide (rdF s R.shStat b 0 9 8 = 1) && (shankOf s b).task.isSome) = true ∧
      ¬ 8192 ≤ (shankOf s b).pc := by
  obtain ⟨here, up, run, task, pc⟩ := ready
  exact ⟨by simp [here, up, run, task], by omega⟩

/-- An instruction that goes on behind itself or at a loop's start. -/
theorem shRun_left (ready : ShReady s b) (hh : h = shankOf s b) (legal : i.legal = true)
    (eval : shEval s b h i (shFrom s b h) = { st := t, sh := x, fl := f }) (pc : x.pc = h.pc) : shRun b i s = shLeft t b x f := by
  subst hh
  obtain ⟨runs, inside⟩ := shRun_guards ready
  rw [shFrom] at eval
  simp only [shRun, runs, inside, legal, eval, shLeft, pc]
  rfl

/-- A taken branch. -/
theorem shRun_went {target : Int} (ready : ShReady s b) (hh : h = shankOf s b) (legal : i.legal = true)
    (eval : shEval s b h i (shFrom s b h) = { st := s, sh := h, go := some target }) : shRun b i s = shWent s b h target := by
  subst hh
  obtain ⟨runs, inside⟩ := shRun_guards ready
  rw [shFrom] at eval
  simp only [shRun, runs, inside, legal, eval, shWent]
  rfl

/-- The end of the task. -/
theorem shRun_ended {st : W16} {k : Nat} (ready : ShReady s b) (hh : h = shankOf s b) (legal : i.legal = true)
    (eval : shEval s b h i (shFrom s b h) = { st := s, sh := h, fin := some st }) (task : h.task = some k) :
    shRun b i s = complete (wrF (shLeft s b { h with task := none } {}) R.shStat b 0 9 8 0) k st := by
  subst hh
  obtain ⟨runs, inside⟩ := shRun_guards ready
  rw [shFrom] at eval
  rw [task] at runs
  simp only [shRun, runs, inside, legal, eval, shLeft, task]
  rfl

end Ends

theorem wx_pc (h : Shank) (n : Nat) (v : W32) : (h.wx n v).pc = h.pc := by
  unfold Shank.wx
  split <;> rfl

/-! ## Elementwise results (R147) -/

/-- What an instruction answers that writes element results of type t to long register d. -/
def shEls (s : State) (h : Shank) (d t : Nat) (l : List (Nat × (Nat × Bool × Bool) × Bool)) : ShOut :=
  { st := s, sh := shPut h d t l, fl := shFlags l }

/-- A form with one result per active element. -/
theorem shMap_eq (s : State) (h : Shank) (i : ShI) (ops : List (List LWord)) (g : Nat → List Nat → Nat × Bool × Bool) :
    shMap s h i ops g = shEls s h i.d i.t ((h.acts i.t i.m).map fun e =>
      (e, g e (ops.map fun l => (lGet l i.t e).1), ops.any fun l => (lGet l i.t e).2)) := by
  simp only [shMap, shL, shEls, shPut, shFlags, List.map_map, List.any_map]
  rfl

/-- A conversion (R131) has one for each active element that the source type has. -/
theorem shCvt_eq {s : State} {h : Shank} {i : ShI} {fr : Nat} {n : Int} (source : i.n % 4 = fr)
    (scale : n = clampI (-32) 32 (sext 32 (h.rx i.b).toNat)) :
    shCvt s h i = shEls s h i.d i.t (((h.acts i.t i.m).filter fun e => decide (e < ltN fr)).map fun e =>
      let p := cvtC fr i.t n ((lGet (h.rl i.a) fr e).1 % 2 ^ ltC fr)
      let q := cvtC fr i.t n ((lGet (h.rl i.a) fr e).1 / 2 ^ ltC fr)
      (e, (p.1 + 2 ^ ltC i.t * q.1, p.2.1 || q.2.1, p.2.2 || q.2.2), (lGet (h.rl i.a) fr e).2)) := by
  simp only [shCvt, shL, shEls, shPut, shFlags, List.map_map, List.any_map, source, scale]
  rfl

/-- A form whose results ask for no flag. -/
theorem shFlags_none {l : List (Nat × (Nat × Bool × Bool) × Bool)} (quiet : ∀ x ∈ l, x.2.1.2 = (false, false)) : shFlags l = {} := by
  have vsat : l.any (fun x => x.2.1.2.1) = false := List.any_eq_false.2 fun x hx => by simp [quiet x hx]
  have ftz : l.any (fun x => x.2.1.2.2) = false := List.any_eq_false.2 fun x hx => by simp [quiet x hx]
  rw [shFlags, vsat, ftz]

section Rows
variable {s t : State} {b : Nat} {h : Shank} {f : ShSv} {fn : ShFn} {l : List (Nat × (Nat × Bool × Bool) × Bool)}

/-- An instruction that writes element results. -/
theorem shRun_els {i : ShI} (ready : ShReady s b) (hh : h = shankOf s b) (legal : i.legal = true)
    (eval : shEval s b h i (shFrom s b h) = shEls t h i.d i.t l) : shRun b i s = shLeft t b (shPut h i.d i.t l) (shFlags l) :=
  shRun_left ready hh legal eval rfl

/-- One with a result per active element from operand registers. -/
theorem shRun_each {ops : List (List LWord)} {g g' : List Nat → Nat × Bool × Bool} (ready : ShReady s b) (hh : h = shankOf s b)
    (legal : (ShI.sv fn f).legal = true) (eval : shEval s b h (.sv fn f) (shFrom s b h) = shMap s h (.sv fn f) ops fun _ => g)
    (same : g = g') (hl : l = shEach h f.t f.m ops g') : shRun b (.sv fn f) s = shLeft s b (shPut h f.d f.t l) (shFlags l) := by
  subst same hl
  exact shRun_els ready hh legal (eval.trans (shMap_eq ..))

end Rows

/-! ## Scalar loads and stores (R144, R147) -/

/-- A scalar plus a signed immediate, modulo 2^32. -/
theorem wrapTo_offset (x : W32) (n : BitVec 18) : wrapTo 32 ((x.toNat : Int) + n.toInt) = (x + n.signExtend 32).toNat := by
  have modular : x + n.signExtend 32 = BitVec.ofInt 32 ((x.toNat : Int) + n.toInt) := by
    rw [BitVec.ofInt_add, BitVec.ofInt_natCast, BitVec.ofNat_toNat, BitVec.setWidth_eq, BitVec.signExtend]
  rw [modular, BitVec.toNat_ofInt]
  rfl

theorem w32_wrapTo_offset (x : W32) (n : BitVec 18) : w32 (wrapTo 32 ((x.toNat : Int) + n.toInt)) = x + n.signExtend 32 := by
  rw [wrapTo_offset, w32, BitVec.ofNat_toNat, BitVec.setWidth_eq]

theorem wrapTo_toNat (x : W32) : wrapTo 32 ((x.toNat : Int) + 0) = x.toNat := by
  have small := x.isLt
  unfold wrapTo
  omega

section Scalar
variable {s t : State} {b a : Nat} {h : Shank} {i : ShI} {bs : List Byte}

theorem shScalar_xld (fn : i.fn = .xld) (ha : wrapTo 32 ((h.rx i.a).toNat + i.imm) = a) (aligned : a % 4 = 0) (inside : a < 0x800000)
    (read : readBytes s (benchBase b + a) 4 = (t, bs, false)) :
    shScalar s b h i = { st := t, sh := h.wx i.d (BitVec.ofNat 32 (ofBytes bs)) } := by
  have fits : ¬ 0x800000 < a + 4 := by omega
  simp [shScalar, fn, ha, aligned, fits, read, w32]

theorem shScalar_xst (fn : i.fn = .xst) (ha : wrapTo 32 ((h.rx i.a).toNat + i.imm) = a) (aligned : a % 4 = 0) (inside : a < 0x800000) :
    shScalar s b h i = { st := writeBytes s (benchBase b + a) (bytesOf 4 (h.rx i.d).toNat), sh := h } := by
  have fits : ¬ 0x800000 < a + 4 := by omega
  simp [shScalar, fn, ha, aligned, fits]

theorem shScalar_lmld (fn : i.fn = .lmld) (imm : i.imm = 0) (inside : (h.rx i.a).toNat + 32 ≤ 0x800000)
    (read : readBytes s (benchBase b + (h.rx i.a).toNat) 32 = (t, bs, false)) :
    shScalar s b h i = { st := t, sh := { h with lm := setNth h.lm i.d (BitVec.ofNat 256 (ofBytes bs)) } } := by
  have fits : ¬ 0x800000 < (h.rx i.a).toNat + 32 := by omega
  simp only [shScalar, fn, imm, wrapTo_toNat]
  simp [fits, read]

end Scalar

/-! ## Long loads and stores (R147, R149, R151) -/

section Elements
variable {s t : State} {b ix : Nat} {h : Shank} {i : ShI} {l : List (Nat × Nat)}

/-- The elements that a memory form moves from element `ix` on, with their offsets. -/
def shWanted (h : Shank) (i : ShI) (ix : Nat) : List (Nat × Nat) :=
  ((h.acts i.t i.m).filter fun e => decide (ix ≤ e)).filterMap fun e => (shAddr h i e).map fun a => (e, a)

/-- A form that has every element. -/
theorem shWanted_total {a : Nat → Nat} (total : ∀ e, shAddr h i e = some (a e)) :
    shWanted h i ix = ((h.acts i.t i.m).filter fun e => decide (ix ≤ e)).map fun e => (e, a e) := by
  simp only [shWanted, total, Option.map_some]
  exact congrFun List.filterMap_eq_map' _

/-- A form that has the elements below a bound. -/
theorem shWanted_below {a : Nat → Nat} {n : Nat} (below : ∀ e, shAddr h i e = if n ≤ e then none else some (a e)) :
    shWanted h i ix = ((h.acts i.t i.m).filter fun e => decide (ix ≤ e) && decide (e < n)).map fun e => (e, a e) := by
  unfold shWanted
  induction h.acts i.t i.m with
  | nil => rfl
  | cons e r ih =>
    by_cases from_ : ix ≤ e <;> by_cases outside : n ≤ e <;> simp_all

/-- Every element lies in the bench's memory and is aligned: none fails. -/
theorem shSplit_sound {sz : Nat} (ok : ∀ q ∈ l, q.2 < 0x800000 ∧ q.2 % sz = 0) : shSplit sz l = (l, none) := by
  induction l with
  | nil => rfl
  | cons q l ih =>
    have first := ok q List.mem_cons_self
    have rest := ih fun x hx => ok x (List.mem_cons_of_mem _ hx)
    simp only [shSplit, if_pos first, rest]

theorem shMem_load {vs : List (Nat × Bool)} (load : ¬ (i.fn = .lst ∨ i.fn = .lsts)) (wanted : shWanted h i ix = l)
    (ok : ∀ q ∈ l, q.2 < 0x800000 ∧ q.2 % ltB i.t = 0) (read : loadEls s (ltB i.t) (l.map fun q => benchBase b + q.2) = (t, vs)) :
    shMem s b h i ix = shL t h i i.t ((l.zip vs).map fun q => (q.1.1, if i.fn = .lldh then conjEl i.t q.2.1 else q.2.1, q.2.2)) := by
  unfold shWanted at wanted
  simp only [shMem, wanted, shSplit_sound ok, if_neg load, read]

theorem shMem_store (store : i.fn = .lst ∨ i.fn = .lsts) (wanted : shWanted h i ix = l)
    (ok : ∀ q ∈ l, q.2 < 0x800000 ∧ q.2 % ltB i.t = 0) :
    shMem s b h i ix = {
      st := if ltB i.t = 4 then storeRun s (l.map fun q => (benchBase b + q.2, (lGet (h.rl i.d) i.t q.1).1, (lGet (h.rl i.d) i.t q.1).2))
        else l.foldl (fun u q => storeEl u (benchBase b + q.2) 8 (lGet (h.rl i.d) i.t q.1).1 (lGet (h.rl i.d) i.t q.1).2) s
      sh := h } := by
  unfold shWanted at wanted
  simp only [shMem, wanted, shSplit_sound ok, if_pos store, List.foldl_map]

/-- A load of the elements wanted; the block load conjugates them (R149). -/
theorem shRun_load {vs : List (Nat × Bool)} {v : Nat → Nat} (ready : ShReady s b) (hh : h = shankOf s b) (legal : i.legal = true)
    (form : shEval s b h i (shFrom s b h) = shMem s b h i (shFrom s b h)) (load : ¬ (i.fn = .lst ∨ i.fn = .lsts))
    (wanted : shWanted h i (shFrom s b h) = l) (ok : ∀ q ∈ l, q.2 < 0x800000 ∧ q.2 % ltB i.t = 0)
    (value : ∀ x, (if i.fn = .lldh then conjEl i.t x else x) = v x) (read : loadEls s (ltB i.t) (l.map fun q => benchBase b + q.2) = (t, vs)) :
    shRun b i s = shLeft t b { h with l := setNth h.l i.d (lPut i.t (h.rl i.d) ((l.zip vs).map fun q => (q.1.1, v q.2.1, q.2.2))) } {} := by
  have eval := form.trans (shMem_load load wanted ok read)
  simp only [value] at eval
  exact shRun_left ready hh legal eval rfl

/-- A store of the elements wanted, by the width of an element. -/
theorem shRun_store (ready : ShReady s b) (hh : h = shankOf s b) (legal : i.legal = true)
    (form : shEval s b h i (shFrom s b h) = shMem s b h i (shFrom s b h)) (store : i.fn = .lst ∨ i.fn = .lsts)
    (wanted : shWanted h i (shFrom s b h) = l) (ok : ∀ q ∈ l, q.2 < 0x800000 ∧ q.2 % ltB i.t = 0) :
    (ltB i.t = 4 → shRun b i s = shLeft (storeRun s (l.map fun q =>
      (benchBase b + q.2, (lGet (h.rl i.d) i.t q.1).1, (lGet (h.rl i.d) i.t q.1).2))) b h {}) ∧
    (ltB i.t = 8 → shRun b i s = shLeft (l.foldl (fun u q =>
      storeEl u (benchBase b + q.2) 8 (lGet (h.rl i.d) i.t q.1).1 (lGet (h.rl i.d) i.t q.1).2) s) b h {}) := by
  have eval := form.trans (shMem_store store wanted ok)
  constructor
  · intro word
    rw [if_pos word] at eval
    exact shRun_left ready hh legal eval rfl
  · intro pair
    rw [if_neg (by omega)] at eval
    exact shRun_left ready hh legal eval rfl

/-- A load and the store of the same form, whose elements lie at `a`. -/
theorem shRun_moves {f : ShSv} {ld st : ShFn} {a : Nat → Nat} (ready : ShReady s b) (hh : h = shankOf s b) (load : ld = .lld ∨ ld = .llds)
    (store : st = .lst ∨ st = .lsts) (legal : ∀ fn ∈ [ld, st], (ShI.sv fn f).legal = true)
    (offsets : ∀ fn ∈ [ld, st], ∀ e, shAddr h (.sv fn f) e = some (a e))
    (hl : l = ((h.acts f.t f.m).filter fun e => decide (shFrom s b h ≤ e)).map fun e => (e, a e))
    (ok : ∀ q ∈ l, q.2 < 0x800000 ∧ q.2 % ltB f.t = 0) :
    (∀ (t : State) (vs : List (Nat × Bool)), loadEls s (ltB f.t) (l.map fun q => benchBase b + q.2) = (t, vs) → shRun b (.sv ld f) s =
      shLeft t b { h with l := setNth h.l f.d (lPut f.t (h.rl f.d) ((l.zip vs).map fun q => (q.1.1, q.2.1, q.2.2))) } {}) ∧
    (ltB f.t = 4 → shRun b (.sv st f) s = shLeft (storeRun s (l.map fun q =>
      (benchBase b + q.2, (lGet (h.rl f.d) f.t q.1).1, (lGet (h.rl f.d) f.t q.1).2))) b h {}) ∧
    (ltB f.t = 8 → shRun b (.sv st f) s = shLeft (l.foldl (fun u q =>
      storeEl u (benchBase b + q.2) 8 (lGet (h.rl f.d) f.t q.1).1 (lGet (h.rl f.d) f.t q.1).2) s) b h {}) := by
  have wanted : ∀ fn ∈ [ld, st], shWanted h (.sv fn f) (shFrom s b h) = l := fun fn hf => (shWanted_total (offsets fn hf)).trans hl.symm
  have first : ld ∈ [ld, st] := List.mem_cons_self
  have second : st ∈ [ld, st] := by simp
  have loads : shEval s b h (.sv ld f) (shFrom s b h) = shMem s b h (.sv ld f) (shFrom s b h) := by rcases load with rfl | rfl <;> rfl
  have stores : shEval s b h (.sv st f) (shFrom s b h) = shMem s b h (.sv st f) (shFrom s b h) := by rcases store with rfl | rfl <;> rfl
  have kind : ¬ (ld = .lst ∨ ld = .lsts) ∧ ld ≠ .lldh := by rcases load with rfl | rfl <;> decide
  exact ⟨fun t vs read => shRun_load (i := .sv ld f) (v := id) ready hh (legal ld first) loads kind.1 (wanted ld first) ok
      (fun _ => if_neg kind.2) read,
    shRun_store (i := .sv st f) ready hh (legal st second) stores store (wanted st second) ok⟩

end Elements

/-! ## Long accumulators (R148) -/

/-- What an instruction answers that leaves lanes in long accumulator d, each with whether it overflowed. -/
def shLanes (s : State) (h : Shank) (d : Nat) (l : List (Lane × Bool)) : ShOut :=
  { st := s, sh := { h with acc := setNth h.acc d (l.map fun z => z.1) }, fl := { aov := if l.any (fun z => z.2) then 2 ^ d else 0 } }

/-- A term is added to each active lane that has one. -/
theorem shMac_eq {s : State} {b : Nat} {h : Shank} {i : ShI} {term : Nat → Option ((Int × Int) × Bool)} {g : Nat → (Int × Int) × Bool}
    {p : Nat → Prop} [DecidablePred p] (terms : ∀ e, term e = if p e then some (g e) else none) :
    shMac s b h i term = shLanes s h i.d ((List.range 256).map fun e => if (h.rm i.m).getLsbD e = true ∧ p e then
      laneAdd (rdB s R.shCtl b 0 0) false true true (g e).2 (nth (h.racc i.d) e Lane.zero) (g e).1
        else (nth (h.racc i.d) e Lane.zero, false)) := by
  refine congrArg (shLanes s h i.d) (List.map_congr_left fun e _ => ?_)
  rw [terms]
  by_cases active : (h.rm i.m).getLsbD e = true <;> by_cases group : p e <;> simp [active, group]

/-- An instruction that leaves lanes. -/
theorem shRun_lanes {s : State} {b : Nat} {h : Shank} {i : ShI} {l : List (Lane × Bool)} (ready : ShReady s b) (hh : h = shankOf s b)
    (legal : i.legal = true) (eval : shEval s b h i (shFrom s b h) = shLanes s h i.d l) :
    shRun b i s = shLeft s b { h with acc := setNth h.acc i.d (l.map fun z => z.1) } { aov := if l.any (fun z => z.2) then 2 ^ i.d else 0 } :=
  shRun_left ready hh legal eval rfl

/-- An extraction by a count and a rounding mode (R96). -/
theorem shExtract_eq {s : State} {h : Shank} {i : ShI} {n : Nat} {rt : Bool} (count : i.n % 64 = n) (mode : i.n.testBit 6 = rt)
    {l : List (Nat × (Nat × Bool) × Bool)} (hl : l = (h.acts 0 i.m).map fun e =>
      let v (x : BitVec 40) := satF 16 (if rt then x.toInt / 2 ^ n else rneShift x.toInt n)
      let x := nth (h.racc i.a) e Lane.zero
      (e, (wrapTo 16 (v x.re).1 + 65536 * wrapTo 16 (v x.im).1, (v x.re).2 || (v x.im).2), x.po)) :
    shExtract s h i = {
      st := s, sh := { h with l := setNth h.l i.d (lPut 0 (h.rl i.d) (l.map fun x => (x.1, x.2.1.1, x.2.2))) },
      fl := { xsat := l.any fun x => x.2.1.2 } } := by
  subst count mode hl
  simp only [shExtract, shL, List.map_map, List.any_map]
  rfl

/-- A Cholesky step on blocks of n × n elements (R150). -/
theorem shChol_eq {s : State} {h : Shank} {i : ShI} {n k : Nat} (size : (if 16 ≤ i.n then 16 else 8) = n) (step : i.n % 16 = k)
    {l : List (List El × Bool × Bool)} (hl : l = (List.range (if n = 16 then 1 else if i.t = 2 then 2 else 4)).map (cholBlock h i n k)) :
    shChol s h i = {
      st := s, sh := { h with l := setNth h.l i.d (lPut i.t (h.rl i.d) (l.flatMap fun x => x.1)) },
      fl := { ftz := l.any (fun x => x.2.1), npd := l.any fun x => x.2.2 } } := by
  subst size step hl
  rfl

/-! ## Rows of a table -/

/-- The row of an operation on two registers: `g` on ci16 elements, `gF` on floats, rounded once (R120, R121). -/
theorem arithmeticRow {mk : Fin 16 → ShSv → Instr} {g : List Nat → Nat × Bool} {gF : List (FV × FV) → FV × FV} (fn : ShFn)
    (row : ∀ b f s, exec (mk b f) s = .next (shRun b.val (.sv fn f) s) := by intros; rfl)
    (legal : ∀ f : ShSv, f.t.val < 3 → f.imm = 0 → (ShI.sv fn f).legal = true := by intro f ty imm; simp [ShI.legal, ShI.sv, ty, imm])
    (eval : ∀ (s : State) (b : Nat) (h : Shank) (f : ShSv) (ix : Nat), shEval s b h (.sv fn f) ix =
      shMap s h (.sv fn f) [h.rl f.a, h.rl f.b] fun _ x => if f.t.val = 0 then intR (g x) else fltR (fltC f.t gF x) := by intros; rfl)
    (b : Fin 16) (s : State) (h : Shank) (f : ShSv) (l : List (Nat × (Nat × Bool × Bool) × Bool)) (ready : ShReady s b) (hh : h = shankOf s b)
    (ty : f.t.val < 3) (imm : f.imm = 0) (hl : l = shEach h f.t f.m [h.rl f.a, h.rl f.b] fun x =>
      if f.t = 0 then ((g x).1, (g x).2, false) else ((fltC f.t gF x).1, false, (fltC f.t gF x).2)) :
    exec (mk b f) s = .next (shLeft s b (shPut h f.d f.t l) (shFlags l)) := by
  rw [row, shRun_each ready hh (legal f ty imm) (eval ..) ?_ hl]
  simp only [intR, fltR, Fin.val_eq_zero_iff]

/-- The row of a complex MAC form: `g` of the components of each pair of elements is added to the lane (R92–R94). -/
theorem macRow {mk : Fin 16 → ShSv → Instr} {g : Int → Int → Int → Int → Int × Int} (fn : ShFn)
    (row : ∀ b f s, exec (mk b f) s = .next (shRun b.val (.sv fn f) s) := by intros; rfl)
    (legal : ∀ f : ShSv, f.d.val < 4 → f.t = 0 → f.imm = 0 → (ShI.sv fn f).legal = true := by
      intro f d t imm; simp [ShI.legal, ShI.sv, d, t, imm])
    (eval : ∀ (s : State) (b : Nat) (h : Shank) (f : ShSv) (ix : Nat), shEval s b h (.sv fn f) ix = shMac s b h (.sv fn f) fun e =>
      some (g (sext 16 (lGet (h.rl f.a) 0 e).1) (sext 16 ((lGet (h.rl f.a) 0 e).1 / 65536)) (sext 16 (lGet (h.rl f.b) 0 e).1)
        (sext 16 ((lGet (h.rl f.b) 0 e).1 / 65536)), (lGet (h.rl f.a) 0 e).2 || (lGet (h.rl f.b) 0 e).2) := by intros; rfl)
    (b : Fin 16) (s : State) (h : Shank) (f : ShSv) (x y : Nat → Nat × Bool) (l : List (Lane × Bool)) (ready : ShReady s b) (hh : h = shankOf s b)
    (d : f.d.val < 4) (t : f.t = 0) (imm : f.imm = 0) (hx : ∀ e, x e = lGet (h.rl f.a) 0 e) (hy : ∀ e, y e = lGet (h.rl f.b) 0 e)
    (hl : l = (List.range 256).map fun e => if (h.rm f.m).getLsbD e = true then
        laneAdd (rdB s R.shCtl b 0 0) false true true ((x e).2 || (y e).2) (nth (h.racc f.d) e Lane.zero)
          (g (sext 16 (x e).1) (sext 16 ((x e).1 / 65536)) (sext 16 (y e).1) (sext 16 ((y e).1 / 65536)))
      else (nth (h.racc f.d) e Lane.zero, false)) :
    exec (mk b f) s = .next (shLeft s b { h with acc := setNth h.acc f.d (l.map fun z => z.1) }
      { aov := if l.any (fun z => z.2) then 2 ^ f.d.val else 0 }) := by
  have lanes := (eval s b h f (shFrom s b h)).trans (shMac_eq (p := fun _ => True) fun _ => (if_pos trivial).symm)
  simp only [and_true] at lanes
  simp only [hx, hy] at hl
  subst hl
  rw [row, shRun_lanes ready hh (legal f d t imm) lanes]
  rfl

/-- The row of a matrix-vector product (R148): the lanes of the group g add the products of the pairs `ps` gives them. -/
theorem matrixRow {mk : Fin 16 → ShSv → Instr} {n : Nat} {ps : Nat → Nat → List (Nat × Nat)} (fn : ShFn)
    (row : ∀ b f s, exec (mk b f) s = .next (shRun b.val (.sv fn f) s) := by intros; rfl)
    (legal : ∀ f : ShSv, f.d.val < 4 → f.t = 0 → f.imm.toNat < 256 → (n = 32 → f.imm.toNat % 4 = 0) → (ShI.sv fn f).legal = true)
    (eval : ∀ (s : State) (b : Nat) (h : Shank) (f : ShSv) (ix : Nat), shEval s b h (.sv fn f) ix =
      shMac s b h (.sv fn f) (mvTerm h (.sv fn f)) := by intros; rfl)
    (term : ∀ (h : Shank) (f : ShSv) (e : Nat), mvTerm h (.sv fn f) e =
      if e / n ≠ f.imm.toNat / n then none else some (dotTerm (h.rl f.a) (h.rl f.b) (ps f.imm.toNat e)) := by intros; rfl)
    (b : Fin 16) (s : State) (h : Shank) (f : ShSv) (g : Nat) (l : List (Lane × Bool)) (ready : ShReady s b) (hh : h = shankOf s b)
    (d : f.d.val < 4) (t : f.t = 0) (hg : g = f.imm.toNat) (small : g < 256) (aligned : n = 32 → g % 4 = 0)
    (hl : l = (List.range 256).map fun e => if (h.rm f.m).getLsbD e = true ∧ e / n = g / n then
        laneAdd (rdB s R.shCtl b 0 0) false true true (dotTerm (h.rl f.a) (h.rl f.b) (ps g e)).2 (nth (h.racc f.d) e Lane.zero)
          (dotTerm (h.rl f.a) (h.rl f.b) (ps g e)).1
      else (nth (h.racc f.d) e Lane.zero, false)) :
    exec (mk b f) s = .next (shLeft s b { h with acc := setNth h.acc f.d (l.map fun z => z.1) }
      { aov := if l.any (fun z => z.2) then 2 ^ f.d.val else 0 }) := by
  subst hg hl
  have lanes := (eval s b h f (shFrom s b h)).trans (shMac_eq (p := fun e => e / n = f.imm.toNat / n) fun e => (term h f e).trans (ite_not ..))
  rw [row, shRun_lanes ready hh (legal f d t small aligned) lanes]
  rfl

/-! ## O60 -/

/-- Settles O60, row by row. A row takes its whole effect in program order (log entry 61); of two loops that end together the inner one
acts first, and a count of 0 skips the body (109); the error of LRSQ is a free value (55); RESUME without a fault changes nothing (5). -/
theorem shankRows : Obligations.ShankRows := by
  refine ⟨?start, ?resume, ?scalar, ?memory, ?sum, ?product, ?element, ?mac, ?matrix, ?lanes⟩
  case start =>
    intro b s s1 i t idle up begins
    have go : ¬ (rdF s R.shStat b 0 9 8 ≠ 0 ∨ (!awake s b) = true) := by simp [idle, up]
    refine congrArg Host.Outcome.next ((if_neg go).trans ?_)
    rw [begins]
  case resume =>
    intro b s
    exact ⟨fun faulted => congrArg Host.Outcome.next (if_neg (not_not.2 faulted)), fun other => congrArg Host.Outcome.next (if_pos other)⟩
  case scalar =>
    intro b s h ready hh
    refine ⟨fun f m t imm => ⟨?xadd, ?xsub⟩, fun f => ?xaddi, fun f a imm => ?xstat, fun f a ha aligned inside => ⟨fun t bs read => ?xld, ?xst⟩,
      fun f d low high => ⟨fun none_ => ?skip, fun some_ room => ?sloop⟩, fun f d => ⟨fun zero => ?stay, fun taken => ?sbnz⟩, fun f d a => ?sj,
      fun f i d imm task => ?send, fun f d b_ m t imm => ⟨?lmlen, fun t' bs inside read => ?lmld⟩⟩
    case xadd =>
      have legal : (ShI.sv .xadd f).legal = true := by simp [ShI.legal, ShI.sv, m, t, imm]
      exact congrArg Host.Outcome.next (shRun_left ready hh legal rfl (wx_pc ..))
    case xsub =>
      have legal : (ShI.sv .xsub f).legal = true := by simp [ShI.legal, ShI.sv, m, t, imm]
      exact congrArg Host.Outcome.next (shRun_left ready hh legal rfl (wx_pc ..))
    case xaddi =>
      have eval : shEval s b h (.sx .xaddi f) (shFrom s b h) = { st := s, sh := h.wx f.d (h.rx f.a + f.imm.signExtend 32) } :=
        congrArg (fun v => ({ st := s, sh := h.wx f.d v } : ShOut)) (w32_wrapTo_offset ..)
      exact congrArg Host.Outcome.next (shRun_left ready hh rfl eval (wx_pc ..))
    case xstat =>
      have legal : (ShI.sx .xstat f).legal = true := by simp [ShI.legal, ShI.sx, a, imm]
      exact congrArg Host.Outcome.next (shRun_left ready hh legal rfl (wx_pc ..))
    case xld =>
      have offset := (wrapTo_offset (h.rx f.a) f.imm).trans ha.symm
      exact congrArg Host.Outcome.next (shRun_left ready hh rfl (shScalar_xld (i := .sx .xld f) rfl offset aligned inside read) (wx_pc ..))
    case xst =>
      have offset := (wrapTo_offset (h.rx f.a) f.imm).trans ha.symm
      exact congrArg Host.Outcome.next (shRun_left ready hh rfl (shScalar_xst (i := .sx .xst f) rfl offset aligned inside) rfl)
    case skip =>
      have legal : (ShI.sx .sloop f).legal = true := by simp [ShI.legal, ShI.sx, d, low, high]
      have eval : shEval s b h (.sx .sloop f) (shFrom s b h) = { st := s, sh := h, go := some (h.pc + f.imm.toInt + 1) } :=
        if_pos (by simp [ShI.sx, none_])
      exact congrArg Host.Outcome.next (shRun_went ready hh legal eval)
    case sloop =>
      have legal : (ShI.sx .sloop f).legal = true := by simp [ShI.legal, ShI.sx, d, low, high]
      have counts : ¬ (h.rx f.a).toNat = 0 := fun zero => some_ (BitVec.eq_of_toNat_eq zero)
      have eval := (if_neg counts : shEval s b h (.sx .sloop f) (shFrom s b h) = _).trans (if_neg (Nat.not_le.2 room))
      exact congrArg Host.Outcome.next (shRun_left ready hh legal eval rfl)
    case stay =>
      have legal : (ShI.sx .sbnz f).legal = true := by simp [ShI.legal, ShI.sx, d]
      have eval : shEval s b h (.sx .sbnz f) (shFrom s b h) = { st := s, sh := h } :=
        congrArg (fun g => ({ st := s, sh := h, go := g } : ShOut)) (if_pos zero)
      exact congrArg Host.Outcome.next (shRun_left ready hh legal eval rfl)
    case sbnz =>
      have legal : (ShI.sx .sbnz f).legal = true := by simp [ShI.legal, ShI.sx, d]
      have eval : shEval s b h (.sx .sbnz f) (shFrom s b h) = { st := s, sh := h, go := some (h.pc + f.imm.toInt) } :=
        congrArg (fun g => ({ st := s, sh := h, go := g } : ShOut)) (if_neg taken)
      exact congrArg Host.Outcome.next (shRun_went ready hh legal eval)
    case sj =>
      have legal : (ShI.sx .sj f).legal = true := by simp [ShI.legal, ShI.sx, d, a]
      exact congrArg Host.Outcome.next (shRun_went ready hh legal rfl)
    case send =>
      have legal : (ShI.sx .send f).legal = true := by simp [ShI.legal, ShI.sx, d, imm]
      exact congrArg Host.Outcome.next (shRun_ended ready hh legal rfl task)
    case lmlen =>
      have legal : (ShI.sv .lmlen f).legal = true := by simp [ShI.legal, ShI.sv, d, b_, m, t, imm]
      exact congrArg Host.Outcome.next (shRun_left ready hh legal rfl rfl)
    case lmld =>
      have legal : (ShI.sv .lmld f).legal = true := by simp [ShI.legal, ShI.sv, d, b_, m, t, imm]
      have eval := shScalar_lmld (i := .sv .lmld f) rfl (by simp [ShI.sv, imm]) inside read
      exact congrArg Host.Outcome.next (shRun_left ready hh legal eval rfl)
  case memory =>
    intro b s h f ix sz l ready hh ty hix hsz ok
    change ix = shFrom s b h at hix
    subst hix hsz
    refine ⟨fun a ha b_ hl => ?contiguous, fun a ha imm hl => ?strided, fun n a hn small fits ha hl t vs read => ?block,
      fun b_ imm hl t vs read => ?broadcast⟩
    case contiguous =>
      obtain ⟨loads, words, pairs⟩ := shRun_moves (ld := .lld) (st := .lst) (a := a) ready hh (.inl rfl) (.inl rfl)
        (by simp [ShI.legal, ShI.sv, b_, ty]) (by simp [shAddr, ShI.sv, ShI.n, ha]) hl ok
      exact ⟨fun t vs read => congrArg Host.Outcome.next (loads t vs read), fun w => congrArg Host.Outcome.next (words w),
        fun w => congrArg Host.Outcome.next (pairs w)⟩
    case strided =>
      obtain ⟨loads, words, pairs⟩ := shRun_moves (ld := .llds) (st := .lsts) (a := a) ready hh (.inr rfl) (.inr rfl)
        (by simp [ShI.legal, ShI.sv, imm, ty]) (by simp [shAddr, ShI.sv, ha]) hl ok
      exact ⟨fun t vs read => congrArg Host.Outcome.next (loads t vs read), fun w => congrArg Host.Outcome.next (words w),
        fun w => congrArg Host.Outcome.next (pairs w)⟩
    case block =>
      have legal : (ShI.sv .lldh f).legal = true := by
        by_cases big : f.imm.toNat = 1
        · have narrow : f.t.val ≠ 2 := fun two => fits ⟨big, Fin.ext two⟩
          simp [ShI.legal, ShI.sv, ShI.n, ty, big, narrow]
        · simp [ShI.legal, ShI.sv, ShI.n, ty, small, big]
      have offsets : ∀ e, shAddr h (.sv .lldh f) e = if n * n ≤ e then none else some (a e) := by
        intro e
        rw [ha, hn]
        rfl
      have wanted := (shWanted_below (ix := shFrom s b h) offsets).trans hl.symm
      exact congrArg Host.Outcome.next (shRun_load (i := .sv .lldh f) ready hh legal rfl (by simp [ShI.sv]) wanted ok (fun _ => if_pos rfl) read)
    case broadcast =>
      have legal : (ShI.sv .ldup f).legal = true := by simp [ShI.legal, ShI.sv, b_, imm, ty]
      have wanted := (shWanted_total (i := .sv .ldup f) (ix := shFrom s b h) fun _ => rfl).trans hl.symm
      exact congrArg Host.Outcome.next (shRun_load (i := .sv .ldup f) (v := id) ready hh legal rfl (by simp [ShI.sv]) wanted ok
        (fun _ => if_neg (by simp [ShI.sv])) read)
  case sum =>
    exact rows_cons (arithmeticRow .ladd) <| rows_cons (arithmeticRow .lsub) <| List.forall_mem_nil _
  case product =>
    exact rows_cons (arithmeticRow .lcmul) <| rows_cons (arithmeticRow .lcmulj) <| List.forall_mem_nil _
  case element =>
    intro b s h f l ready hh
    refine ⟨fun ty b_ imm hl => ?lconj, fun ty imm hl => ?lfcma, fun ty b_ imm hl => ?lrsq, fun fr n ty him small hn hl => ?lcvt⟩
    case lconj =>
      have legal : (ShI.sv .lconj f).legal = true := by simp [ShI.legal, ShI.sv, b_, imm, ty]
      have quiet : shFlags l = {} := shFlags_none (by simp [hl, shEach])
      rw [← quiet]
      exact congrArg Host.Outcome.next (shRun_each ready hh legal rfl rfl hl)
    case lfcma =>
      have legal : (ShI.sv .lfcma f).legal = true := by simp [ShI.legal, ShI.sv, imm, ty]
      exact congrArg Host.Outcome.next (shRun_each ready hh legal rfl rfl hl)
    case lrsq =>
      have legal : (ShI.sv .lrsq f).legal = true := by simp [ShI.legal, ShI.sv, b_, imm, ty]
      have results := shMap_eq { s with freeCtr := s.freeCtr + 256 } h (.sv .lrsq f) [h.rl f.a] fun e x =>
        fltR (rsq (ltFmt f.t) (Config.freeWord (s.freeCtr + e)).toNat (nth x 0 0 % 2 ^ ltC f.t))
      simp only [List.any_cons, List.any_nil, Bool.or_false] at results
      subst hl
      exact congrArg Host.Outcome.next (shRun_els ready hh legal results)
    case lcvt =>
      have legal : (ShI.sv .lcvt f).legal = true := by simp [ShI.legal, ShI.sv, ShI.n, ty, him, small]
      have source : (ShI.sv .lcvt f).n % 4 = fr := by simp only [ShI.n, ShI.sv]; omega
      subst hl
      exact congrArg Host.Outcome.next (shRun_els ready hh legal (shCvt_eq source hn))
  case mac =>
    exact rows_cons (macRow .lcmac) <| rows_cons (macRow .lcmacj) <| rows_cons (macRow .lcmsc) <| List.forall_mem_nil _
  case matrix =>
    exact rows_cons (matrixRow .lmv16 (legal := fun f d t small _ => by simp [ShI.legal, ShI.sv, ShI.n, d, t, small])) <|
      rows_cons (matrixRow .lmv8 (legal := fun f d t small aligned => by simp [ShI.legal, ShI.sv, ShI.n, d, t, small, aligned rfl])) <|
      List.forall_mem_nil _
  case lanes =>
    intro b s h f ready hh
    refine ⟨fun d a b_ t imm => ?laccz, fun n rt l a b_ t small him hl => ?laccx, fun n k i l a b_ ty hi him size hl => ?lchol⟩
    case laccz =>
      have legal : (ShI.sv .laccz f).legal = true := by simp [ShI.legal, ShI.sv, d, a, b_, t, imm]
      exact congrArg Host.Outcome.next (shRun_left ready hh legal rfl rfl)
    case laccx =>
      have count : f.imm.toNat % 64 = n := by rw [him]; split <;> omega
      have mode : f.imm.toNat.testBit 6 = rt := by
        rw [him, Nat.testBit_eq_decide_div_mod_eq]
        cases rt <;> simp <;> omega
      have short : f.imm.toNat < 128 := by rw [him]; split <;> omega
      have legal : (ShI.sv .laccx f).legal = true := by simp [ShI.legal, ShI.sv, ShI.n, a, b_, t, short, count, small]
      exact congrArg Host.Outcome.next (shRun_left ready hh legal (shExtract_eq (i := .sv .laccx f) count mode hl) rfl)
    case lchol =>
      subst hi
      obtain ⟨size, step, legal⟩ : (if 16 ≤ f.imm.toNat then 16 else 8) = n ∧ f.imm.toNat % 16 = k ∧ (ShI.sv .lchol f).legal = true := by
        rcases size with ⟨rfl, small⟩ | ⟨rfl, small, half⟩
        · have imm : f.imm.toNat = k := him
          have below : ¬ 16 ≤ f.imm.toNat ∧ f.imm.toNat % 16 = k ∧ f.imm.toNat < 32 := by omega
          simp [ShI.legal, ShI.sv, ShI.n, a, b_, ty, below, small]
        · have imm : f.imm.toNat = k + 16 := him
          have above : 16 ≤ f.imm.toNat ∧ f.imm.toNat % 16 = k ∧ f.imm.toNat < 32 := by omega
          simp [ShI.legal, ShI.sv, ShI.n, a, b_, above, half]
      exact congrArg Host.Outcome.next (shRun_left ready hh legal (shChol_eq (i := .sv .lchol f) size step hl) rfl)

end Sys2Proof.Machine
end

section
/-! The floating rows and the eyelets of a core (R121, R128, R130, R131, R133, R153–R170): what a V-slot row leaves whose results or
exception its evaluation answers, and the proof of O59. -/

namespace Sys2Proof.Machine

/-! ## A V-slot row and its exceptions -/

section Rows
variable {s : State} {id : CoreId} {c : Core} {i : VIns} {reads : List Dst}

/-- A V-slot instruction that faults leaves only its exception. -/
theorem runV_fault {e : Exc} (h : Finds s id reads c) (hr : reads = i.reads c.vIdx) (hl : i.legal = true)
    (ht : twice (i.writes c.vIdx) = false) (he : evalV c i (Config.freeWord s.freeCtr).toNat = .error e) :
    runV id i s = takeExc (drawn s) id.bench id.core c e := by
  have alone : runV id i s = issue s id.bench id.core { v := some i } false := by
    simp only [runV, hl, if_true, if_pos h.runs]
  have reads_eq : reads = (Bundle.sI { v := some i }).reads ++ (Bundle.m0I { v := some i }).reads c.vIdx ++
      (Bundle.m1I { v := some i }).reads c.vIdx ++ (Bundle.vI { v := some i }).reads c.vIdx := hr
  have clean : issueExc c { v := some i } false = none := by
    refine issueExc_none (i := { fn := .nop }) h.room rfl rfl rfl rfl rfl ht ?_
    simp [preciseClash, Bundle.m0I, Bundle.m1I, MFn.precise]
  have noM : runMs (drawn s) id.bench id.core (bit c.status 16) c { v := some i } = .ok (drawn s, {}) := rfl
  rw [alone, issue_found h _ c.vIdx reads_eq (found_vIdx h) (by simp [Bundle.sI]), clean]
  simp only [show evalS (drawn s) id.bench id.core c (Bundle.sI { v := some i }) = .ok {} from rfl, noM, show Bundle.vI { v := some i } = i from rfl, he]

/-- EYELET_PARAM of the V slot, with its reason in `BADADDR` (R157). -/
theorem runV_eyParam {n : Nat} (h : Finds s id reads c) (hr : reads = i.reads c.vIdx) (hl : i.legal = true)
    (ht : twice (i.writes c.vIdx) = false) (he : evalV c i (Config.freeWord s.freeCtr).toNat = eyParam n) :
    runV id i s = putCore (drawn s) id.bench id.core (entered c (packF [(0, 0x0A), (10, 3)]) (w32 n) 0) := by
  rw [runV_fault h hr hl ht he, takeExc_plain]

/-- An elementwise floating form writes one result per active element. -/
theorem mapFlt_eq {ops : Nat → List (VReg × Nat)} {f : Nat → List Nat → Nat × Bool} : mapFlt c i 32 ops f = .ok {
    wr := [elWrite c i.d 32 (vShape i.fn).lat (eachEl c i.k 32 32 ops f)], st := { ftz := elFlag (eachEl c i.k 32 32 ops f) } } := by
  simp only [mapFlt, vOut, elWrite, elFlag, eachEl, List.map_map, List.any_map]
  rfl

end Rows

/-! ## Elementwise rows -/

/-- The floating operations and conversions (R130, R131): they write a vector register after 4 bundles. -/
def fltFns : List VFn := [.vfadd, .vfsub, .vfmul, .vfcmul, .vfma, .vfcma, .vfms, .vfcms, .vfmin, .vfcmulj, .vfmax, .vfcmaj, .vfabs, .vfneg, .vfrcp,
  .vfrsq, .cvtF32I32, .cvtI32F32, .cvtCf16Ci16, .cvtCi16Cf16, .cvtF32l, .cvtF32h, .cvtCf16F32]

theorem twice_kindDst (v : Nat → Nat) (x : VKind) (n : Nat) : twice (kindDst v x n) = false := by cases x <;> rfl

/-- All but two eyelets write one register at most. -/
theorem writes_once {i : VIns} {v : Nat → Nat} (demap : i.fn ≠ .eyDemap) (phase : i.fn ≠ .eyPhase) : twice (i.writes v) = false := by
  simp only [VIns.writes, demap, phase, false_and, if_false, List.append_nil, twice_kindDst]

section Rows
variable {x : Instr} {s : State} {id : CoreId} {c : Core} {i : VIns} {reads : List Dst}

/-- The row of a V-slot form that only sends results. -/
theorem exec_plain {ws : List (Dst × Val × Nat)} {f : Sticky} (row : exec x s = .next (runV id i s)) (h : Finds s id reads c)
    (eval : evalV c i (Config.freeWord s.freeCtr).toNat = .ok { wr := ws, st := f }) (hr : reads = i.reads c.vIdx := by rfl)
    (legal : i.legal = true := by simp [VIns.legal, vShape, kindOk, VFn.mac, Nat.testBit_eq_decide_div_mod_eq])
    (once : twice (i.writes c.vIdx) = false := by exact writes_once (by simp) (by simp)) (setvl : i.fn ≠ .setvl := by simp) :
    exec x s = .next (plain s id c ws f) := by
  rw [row, runV_plain h hr legal eval once setvl]

/-- The row of a form with one result per active element. -/
theorem exec_elements {l : List (Nat × Nat × Bool × Bool)} {d : Nat} {ops : Nat → List (VReg × Nat)} {f : Nat → List Nat → Nat × Bool}
    (row : exec x s = .next (runV id i s)) (h : Finds s id reads c) (hl : l = eachEl c i.k 32 32 ops f) (hd : i.d = d := by rfl)
    (hr : reads = i.reads c.vIdx := by rfl) (flt : i.fn ∈ fltFns := by simp [fltFns])
    (eval : evalV c i (Config.freeWord s.freeCtr).toNat = mapFlt c i 32 ops f := by rfl)
    (legal : i.legal = true := by simp [VIns.legal, vShape, kindOk, VFn.mac, Nat.testBit_eq_decide_div_mod_eq]) :
    exec x s = .next (plain s id c [elWrite c d 32 4 l] { ftz := elFlag l }) := by
  have facts : ∀ f ∈ fltFns, (vShape f).lat = 4 ∧ f ≠ .eyDemap ∧ f ≠ .eyPhase ∧ f ≠ .setvl := by decide
  obtain ⟨lat, demap, phase, setvl⟩ := facts i.fn flt
  rw [mapFlt_eq, lat, hd, ← hl] at eval
  exact exec_plain row h eval hr legal (writes_once demap phase) setvl

end Rows

/-! ## Compares and reductions (R128, R133) -/

/-- A compare sets the bits of the active elements, neither poisoned, whose relation holds. -/
theorem evalCmp_eq {c : Core} {i : VIns} {g : Nat → Nat → Bool × Bool} (relation : ∀ x y, relHolds i x y = g x y) {es : List Nat}
    (hes : es = (c.actives i.k (etW i.et)).filter fun e => !((c.rv i.a).bad (etW i.et) e || (c.rv i.b).bad (etW i.et) e)) :
    evalCmp c i = .ok {
      wr := [(.k i.d, .k (BitVec.ofNat 64 (listSum (es.map fun e =>
        if (g ((c.rv i.a).elem (etW i.et) e) ((c.rv i.b).elem (etW i.et) e)).1 then 2 ^ e else 0))), (vShape i.fn).lat)],
      st := { ftz := es.any fun e => (g ((c.rv i.a).elem (etW i.et) e) ((c.rv i.b).elem (etW i.et) e)).2 } } := by
  subst hes
  simp only [evalCmp, kOut, List.map_map, List.any_map, relation]
  rfl

/-- The row of a compare of floats. -/
theorem compareRow {mk : CoreId → Fin 8 → Fin 32 → Fin 32 → Fin 8 → Fin 8 → Instr} {g : FV → FV → Bool} (fn : VFn)
    (row : ∀ id d a b k s, exec (mk id d a b k 6) s =
      .next (runV id { fn := fn, d := Fin.val d, a := Fin.val a, b := Fin.val b, k := Fin.val k, et := 6 } s) := by intros; rfl)
    (relation : ∀ d a b k x y, relHolds { fn := fn, d := d, a := a, b := b, k := k, et := 6 } x y =
      (g (unpackF f32 x).1 (unpackF f32 y).1, (unpackF f32 x).2 || (unpackF f32 y).2) := by intros; rfl)
    (compare : fn ∈ [VFn.vceq, .vcne, .vclt, .vcle] := by decide)
    (id : CoreId) (d : Fin 8) (a b : Fin 32) (k : Fin 8) (s : State) (c : Core) (es : List Nat) (h : Finds s id [.v (c.vIdx a), .v (c.vIdx b), .k k] c)
    (hes : es = (c.actives k 32).filter fun e => !((c.rv a).bad 32 e || (c.rv b).bad 32 e)) :
    exec (mk id d a b k 6) s = .next (plain s id c [(.k d, .k (BitVec.ofNat 64 (listSum (es.map fun e =>
        if g (unpackF f32 ((c.rv a).elem 32 e)).1 (unpackF f32 ((c.rv b).elem 32 e)).1 then 2 ^ e else 0))), 2)]
      { ftz := es.any fun e => (unpackF f32 ((c.rv a).elem 32 e)).2 || (unpackF f32 ((c.rv b).elem 32 e)).2 }) := by
  have eval := evalCmp_eq (relation d.val a.val b.val k.val) hes
  fin_cases compare <;> exact exec_plain (row ..) h eval

/-! ## Eyelets (R153–R170) -/

/-- What each eyelet's form is evaluated by. -/
def VFn.weave : VFn → Core → VIns → VRes
  | .eyUnpack => evalUnpack
  | .eyPack => evalPack
  | .eyCrc => evalCrc
  | .eyDemap => evalDemap
  | .eyPhase => evalPhase
  | _ => evalSeq

theorem evalV_eyelet {c : Core} {i : VIns} {n fw : Nat} (eyelet : i.fn.eyelet = some n) (on : bit c.eyeEn (8 * c.pl + n) = true) :
    evalV c i fw = i.fn.weave c i := by
  obtain ⟨f⟩ := i
  simp only [evalV, eyelet, on]
  cases f <;> rfl

section Eyelets
variable {x : Instr} {s : State} {id : CoreId} {c : Core} {i : VIns} {reads : List Dst} {n : Nat}

/-- The row of an eyelet that only sends results. -/
theorem exec_eyelet {ws : List (Dst × Val × Nat)} {f : Sticky} (row : exec x s = .next (runV id i s)) (h : Finds s id reads c)
    (on : bit c.eyeEn (8 * c.pl + n) = true) (eval : i.fn.weave c i = .ok { wr := ws, st := f }) (eyelet : i.fn.eyelet = some n := by rfl)
    (hr : reads = i.reads c.vIdx := by rfl) (legal : i.legal = true := by simp [VIns.legal, vShape, kindOk, VFn.mac])
    (once : twice (i.writes c.vIdx) = false := by exact writes_once (by simp) (by simp)) :
    exec x s = .next (plain s id c ws f) :=
  exec_plain row h ((evalV_eyelet eyelet on).trans eval) hr legal once (by rintro setvl; simp [setvl, VFn.eyelet] at eyelet)

/-- The row of one whose parameter is out of range. -/
theorem exec_eyParam {reason : Nat} (row : exec x s = .next (runV id i s)) (h : Finds s id reads c)
    (on : bit c.eyeEn (8 * c.pl + n) = true) (eval : i.fn.weave c i = eyParam reason) (eyelet : i.fn.eyelet = some n := by rfl)
    (hr : reads = i.reads c.vIdx := by rfl) (legal : i.legal = true := by simp [VIns.legal, vShape, kindOk, VFn.mac])
    (once : twice (i.writes c.vIdx) = false := by exact writes_once (by simp) (by simp)) :
    exec x s = .next (putCore (drawn s) id.bench id.core (entered c (packF [(0, 0x0A), (10, 3)]) (w32 reason) 0)) := by
  rw [row, runV_eyParam h hr legal once ((evalV_eyelet eyelet on).trans eval)]

/-- The element of an unpacked block with mantissas m and exponent e (R161), with whether a component saturated. -/
def unpackEl (m : List Int) (e k : Nat) : Nat × Nat × Bool × Bool :=
  if k < 12 then (k, wrapTo 16 (satF 16 (nth m (2 * k) 0 * 2 ^ e)).1 + 65536 * wrapTo 16 (satF 16 (nth m (2 * k + 1) 0 * 2 ^ e)).1, false,
    (satF 16 (nth m (2 * k) 0 * 2 ^ e)).2 || (satF 16 (nth m (2 * k + 1) 0 * 2 ^ e)).2)
  else (k, 0, false, false)

theorem unpackEl_el (m : List Int) (e k : Nat) : ((unpackEl m e k).1, (unpackEl m e k).2.1, (unpackEl m e k).2.2.1) = if k < 12 then
    (k, wrapTo 16 (satF 16 (nth m (2 * k) 0 * 2 ^ e)).1 + 65536 * wrapTo 16 (satF 16 (nth m (2 * k + 1) 0 * 2 ^ e)).1, false) else (k, 0, false) := by
  unfold unpackEl
  split <;> rfl

theorem unpackEl_flag (m : List Int) (e k : Nat) : (unpackEl m e k).2.2.2 =
    (decide (k < 12) && ((satF 16 (nth m (2 * k) 0 * 2 ^ e)).2 || (satF 16 (nth m (2 * k + 1) 0 * 2 ^ e)).2)) := by
  by_cases inside : k < 12 <;> simp [unpackEl, inside]

/-- A block within the register and not poisoned is unpacked. -/
theorem evalUnpack_clean {o w e : Nat} {m : List Int} (ho : o = fld (c.rs i.b) 5 0) (hw : w = i.x) (inside : o + bfpS w ≤ 64)
    (clean : (c.rv i.a).badBytes o (bfpS w) = false) (he : e = (c.rv i.a).byte o % 16)
    (hm : m = mantissas (bfpW w) ((List.range (bfpS w - 1)).map fun j => (c.rv i.a).byte (o + 1 + j))) : evalUnpack c i = .ok {
      wr := [(.v (c.vIdx i.d), vWrite 32 ((List.range 16).map fun k => if k < 12 then
          (k, wrapTo 16 (satF 16 (nth m (2 * k) 0 * 2 ^ e)).1 + 65536 * wrapTo 16 (satF 16 (nth m (2 * k + 1) 0 * 2 ^ e)).1, false)
        else (k, 0, false)), (vShape i.fn).lat)],
      st := { vsat := (List.range 16).any fun k =>
        decide (k < 12) && ((satF 16 (nth m (2 * k) 0 * 2 ^ e)).2 || (satF 16 (nth m (2 * k + 1) 0 * 2 ^ e)).2) } } := by
  have eval : evalUnpack c i = vOut c i 32 (((List.range 16).map (unpackEl m e)).map fun x => (x.1, x.2.1, x.2.2.1))
      { vsat := ((List.range 16).map (unpackEl m e)).any fun x => x.2.2.2 } := by
    subst ho hw he hm
    simp only [evalUnpack, if_neg (Nat.not_lt.2 inside), clean]
    rfl
  rw [eval]
  simp only [vOut, List.map_map, List.any_map, Function.comp_def, unpackEl_el, unpackEl_flag]

/-- Twelve resource elements, none poisoned, are packed into a block within the register (R162). -/
theorem evalPack_clean {o w v : Nat} {p : Nat × Bool} {m : List Int} (ho : o = fld (c.rs i.b) 5 0) (hw : w = i.x) (inside : o + bfpS w ≤ 64)
    (clean : (List.range 12).any ((c.rv i.a).bad 32) = false)
    (hm : m = (List.range 12).flatMap fun k => [sext 16 ((c.rv i.a).get 32 k), sext 16 ((c.rv i.a).get 32 k / 65536)]) (hp : p = packExp (bfpW w) m)
    (hv : v = (m.map fun x => wrapTo (bfpW w) (satS (bfpW w) (rneShift x p.1))).foldl (fun x y => 2 ^ bfpW w * x + y) 0) :
    evalPack c i = .ok {
      wr := [(.v (c.vIdx i.d), vWrite 8
        ((List.range (bfpS w)).map (fun j => (o + j, nth (p.1 :: (List.range (bfpS w - 1)).map fun j => v / 2 ^ (8 * (bfpS w - 2 - j)) % 256) j 0, false)) ++
          (List.range (64 - o - bfpS w)).map fun j => (o + bfpS w + j, 0, false)), (vShape i.fn).lat)],
      st := { vsat := p.2 } } := by
  subst ho hw hm hp hv
  simp only [evalPack, if_neg (Nat.not_lt.2 inside), clean]
  rfl

/-! ### Gold sequences (R163) -/

theorem goldN_add (m n : Nat) (y : Nat × Nat) : goldN (m + n) y = goldN n (goldN m y) := by
  induction m generalizing y with
  | zero => rw [Nat.zero_add]; rfl
  | succ m ih => rw [Nat.succ_add]; exact ih (goldStep y)

theorem evalSeq_step {p : Bool} {y : Nat × Nat} {o : Nat} (fn : i.fn = .eySeqStep) (hp : p = ((c.rv i.a).bad 32 0 || (c.rv i.a).bad 32 1))
    (hy : y = goldN 64 ((c.rv i.a).get 32 0 % 2 ^ 31, (c.rv i.a).get 32 1 % 2 ^ 31))
    (ho : o = goldBits 64 ((c.rv i.a).get 32 0 % 2 ^ 31, (c.rv i.a).get 32 1 % 2 ^ 31)) : evalSeq c i = seqOut c i p y o := by
  simp only [evalSeq, fn, hp, hy, ho]

theorem evalSeq_init {p : Bool} {y : Nat × Nat} {o : Nat} (fn : i.fn = .eySeqInit) (hp : p = (c.rv i.a).bad 32 1)
    (hy : y = goldN (1600 + 64) (1, (c.rv i.a).get 32 1 % 2 ^ 31)) (ho : o = goldBits 64 (goldN 1600 (1, (c.rv i.a).get 32 1 % 2 ^ 31))) :
    evalSeq c i = seqOut c i p y o := by
  rw [goldN_add] at hy
  simp only [evalSeq, fn, hp, hy, ho]

theorem evalSeq_skip {p : Bool} {y : Nat × Nat} (fn : i.fn = .eySeqSkip) (inside : (c.rs i.b).toNat ≤ 4095)
    (hp : p = ((c.rv i.a).bad 32 0 || (c.rv i.a).bad 32 1))
    (hy : y = goldN (64 * (c.rs i.b).toNat) ((c.rv i.a).get 32 0 % 2 ^ 31, (c.rv i.a).get 32 1 % 2 ^ 31)) :
    evalSeq c i = seqOut c i p y 0 := by
  simp only [evalSeq, fn, if_neg (Nat.not_lt.2 inside), hp, hy]

/-! ### CRC (R164, R165) -/

/-- The generator and the order are packed into one field. -/
theorem crcField_split (g : Fin 8) (order : Bool) :
    (g.val + 8 * b2n order) % 8 = g.val ∧ (g.val + 8 * b2n order < 8 ↔ order = false) ∧ g.val + 8 * b2n order < 16 := by
  cases order <;> simp [b2n]
  · omega
  · omega

theorem evalCrc_range {k : Nat} (hn : k = fld (c.rs i.b) 30 24) (outside : k = 0 ∨ 64 < k) : evalCrc c i = eyParam 3 := by
  subst hn
  exact if_pos outside

/-- Up to 64 message bits, not poisoned, are fed into the remainder. -/
theorem evalCrc_clean {g k : Nat} {order : Bool} (hg : i.x % 8 = g) (ho : i.x < 8 ↔ order = false) (hn : k = fld (c.rs i.b) 30 24) (low : 1 ≤ k)
    (high : k ≤ 64) (first : (c.rv i.a).bad 32 0 = false) (second : (c.rv i.a).bad 32 1 = false) : evalCrc c i = .ok {
      wr := [(.s i.d, .w (w32 (2 ^ 24 * k + crcFeed (crcGen g).1 (crcGen g).2
        ((List.range k).map fun j => ((c.rv i.a).elem 64 0).testBit (if order then j else 63 - j)) ((fld (c.rs i.b) 23 0) % 2 ^ (crcGen g).1))),
        (vShape i.fn).lat)] } := by
  have inside : ¬ (k = 0 ∨ 64 < k) := by omega
  subst hg hn
  simp only [evalCrc, if_neg inside, first, second, ho]
  cases order <;> rfl

/-! ### Soft demapping (R166–R168) -/

/-- In a list without a repeated target nothing is written twice. -/
theorem twice_of_nodup {l : List Dst} (h : l.Nodup) : twice l = false := by
  induction l with
  | nil => rfl
  | cons t ts ih =>
    obtain ⟨absent, rest⟩ := List.nodup_cons.1 h
    simp [twice, ih rest, absent]

/-- The rotation of the vector registers is one-to-one (R103). -/
theorem vIdx_injective {m n : Nat} (hm : m < 32) (hn : n < 32) (h : c.vIdx m = c.vIdx n) : m = n := by
  unfold Core.vIdx at h
  split_ifs at h <;> omega

/-- The registers that a demap writes differ. -/
theorem demap_writes_once (demap : i.fn = .eyDemap) (inside : i.d + demapRegs i.x ≤ 32) : twice (i.writes c.vIdx) = false := by
  simp only [VIns.writes, if_pos demap]
  refine twice_of_nodup (List.nodup_range.map_on fun j hj k hk same => ?_)
  have below := List.mem_range.1 hj
  have below' := List.mem_range.1 hk
  have equal := vIdx_injective (by omega) (by omega) (Dst.v.inj same)
  omega

/-- A component of a ci16 element. -/
theorem nth_comps (v q : Nat) : nth (comps 4 v) (q % 2) 0 = sext 16 (v / 65536 ^ (q % 2)) := by
  rcases Nat.mod_two_eq_zero_or_one q with even | odd
  · rw [even, pow_zero, Nat.div_one]
    rfl
  · rw [odd, pow_one]
    rfl

theorem evalDemap_range {delta : Nat} (hd : delta = fld (c.rs i.b) 15 0) (outside : delta = 0 ∨ 32767 < delta ∨ fld (c.rs i.b) 31 29 ≠ 0) :
    evalDemap c i = eyParam 4 := by
  subst hd
  exact if_pos outside

/-- The LLRs of the active elements, packed behind one another, and zeros behind them. -/
theorem evalDemap_clean {delta : Nat} {res : List (Nat × Nat × Bool × Bool)} {els : List El} (hd : delta = fld (c.rs i.b) 15 0) (low : 1 ≤ delta)
    (high : delta ≤ 32767) (clear : fld (c.rs i.b) 31 29 = 0)
    (hr : res = (c.actives i.k 32).flatMap fun j => (List.range (2 * i.x)).map fun q =>
      if (c.rv i.a).bad 32 j then (j * (2 * i.x) + q, 0, true, false)
      else (j * (2 * i.x) + q, wrapTo 8 (llrOf i.x (q / 2) (sext 16 ((c.rv i.a).get 32 j / 65536 ^ (q % 2))) delta (fld (c.rs i.b) 23 16)
          (2 ^ fld (c.rs i.b) 28 24)).1, false,
        (llrOf i.x (q / 2) (sext 16 ((c.rv i.a).get 32 j / 65536 ^ (q % 2))) delta (fld (c.rs i.b) 23 16) (2 ^ fld (c.rs i.b) 28 24)).2))
    (he : els = res.map (fun x => (x.1, x.2.1, x.2.2.1)) ++
      (List.range (64 * demapRegs i.x - 16 * (2 * i.x))).map fun q => (16 * (2 * i.x) + q, 0, false)) : evalDemap c i = .ok {
    wr := (List.range (demapRegs i.x)).map fun j => (.v (c.vIdx (i.d + j)),
      vWrite 8 ((els.filter fun x => decide (x.1 / 64 = j)).map fun x => (x.1 - 64 * j, x.2.1, x.2.2)), 3 + demapRegs i.x),
    st := { vsat := elFlag res } } := by
  have inside : ¬ (delta = 0 ∨ 32767 < delta ∨ fld (c.rs i.b) 31 29 ≠ 0) := by omega
  subst hd hr he
  simp only [evalDemap, if_neg inside, nth_comps, Nat.mul_div_cancel_left i.x Nat.two_pos]
  rfl

/-! ### Phase rotation (R169) -/

/-- The two function bits of a rotation. -/
theorem phaseField_split (adv conj : Bool) : (b2n adv + 2 * b2n conj).testBit 0 = adv ∧ (b2n adv + 2 * b2n conj).testBit 1 = conj ∧
    b2n adv + 2 * b2n conj < 4 := by
  cases adv <;> cases conj <;> decide

theorem phase_writes_once (phase : i.fn = .eyPhase) (v : Nat → Nat) : twice (i.writes v) = false := by
  by_cases adv : i.x.testBit 0 = true <;> simp [VIns.writes, phase, adv, vShape, kindDst, twice]

/-- Each active element is rotated by its own angle, and the angle is advanced where asked. -/
theorem evalPhase_eq {adv conj : Bool} {l : List (Nat × Nat × Bool × Bool)} (hadv : i.x.testBit 0 = adv) (hconj : i.x.testBit 1 = conj)
    (hl : l = (c.actives i.k 32).map (fun e =>
      let t := rotor (((c.rs i.b).toNat + e * (c.rs (i.b + 1)).toNat + 2 ^ 17) % 2 ^ 32 / 2 ^ 18)
      let sn := if conj then -t.2 else t.2
      let x := sext 16 ((c.rv i.a).get 32 e)
      let y := sext 16 ((c.rv i.a).get 32 e / 65536)
      let p := satF 16 (rneShift (x * t.1 - y * sn) 15)
      let q := satF 16 (rneShift (x * sn + y * t.1) 15)
      (e, wrapTo 16 p.1 + 65536 * wrapTo 16 q.1, (c.rv i.a).bad 32 e, p.2 || q.2))) : evalPhase c i = .ok {
    wr := [elWrite c i.d 32 3 l] ++ if adv then [(.s i.b, .w (w32 ((c.rs i.b).toNat + 16 * (c.rs (i.b + 1)).toNat)), 2)] else [],
    st := { vsat := elFlag l } } := by
  subst hadv hconj hl
  rfl

end Eyelets

/-- Settles O59, row by row. The model's choices in it: the errors of the estimates (log entry 55) and the sign of minima and maxima of zeros (56) are
free values; compares, minima and conversions read subnormals as zero and set FTZ (57); EYELET_PARAM is checked before DATA_POISON (20);
a rotor of PHASE is rounded in the fixed integer way (108). -/
theorem awlFloatAndEyelets : Obligations.AwlFloatAndEyelets := by
  refine ⟨?sum, ?product, ?extremum, ?fused, ?unary, ?neg, ?compare, ?toInt, ?complex, ?widen, ?narrow, ?reduce, ?bfp, ?seq, ?skip, ?crc,
    ?demap, ?phase⟩
  case sum =>
    intro r hr id d a b k et s c l h hl
    rcases hl with ⟨het, hl⟩ | ⟨het, hl⟩
    · obtain rfl : et = 6 := Fin.ext het
      fin_cases hr <;> exact exec_elements rfl h hl
    · obtain rfl : et = 7 := Fin.ext het
      fin_cases hr <;> exact exec_elements rfl h hl
  case product =>
    intro r hr id d a b k s c l h hl
    fin_cases hr <;> exact exec_elements rfl h hl
  case extremum =>
    intro r hr id d a b k s c l h hl
    fin_cases hr <;> exact exec_elements rfl h hl
  case fused =>
    intro r hr id d a b k s c l h hl
    fin_cases hr <;> exact exec_elements rfl h hl
  case unary =>
    intro r hr id d a k s c l h hl
    fin_cases hr <;> exact exec_elements rfl h hl
  case neg =>
    intro id d a k et s c l h hl
    rcases hl with ⟨het, hl⟩ | ⟨het, hl⟩
    · obtain rfl : et = 6 := Fin.ext het
      exact exec_elements rfl h hl
    · obtain rfl : et = 7 := Fin.ext het
      exact exec_elements rfl h hl
  case complex =>
    rintro id d a b k s c _ rfl h
    exact ⟨fun l hl => exec_elements rfl h hl, fun l hl => exec_plain rfl h (by subst hl; rfl)⟩
  case widen =>
    intro r hr id d a k s c l h hl
    fin_cases hr <;> exact exec_elements rfl h hl
  case narrow => exact fun id d a b k s c l h hl => exec_elements rfl h hl
  case compare =>
    exact rows_cons (compareRow .vceq) <| rows_cons (compareRow .vcne) <| rows_cons (compareRow .vclt) <| rows_cons (compareRow .vcle) <|
      List.forall_mem_nil _
  case toInt => exact fun id d a k s c l h hl => exec_plain rfl h (by subst hl; rfl)
  case reduce =>
    intro id d a k s c h clean
    exact exec_plain rfl h (if_neg (Bool.eq_false_iff.1 clean))
  case bfp =>
    rintro id d a b w s c _ rfl on h
    refine ⟨fun outside => ⟨exec_eyParam rfl h on (if_pos outside), exec_eyParam rfl h on (if_pos outside)⟩, ?_, ?_⟩
    · intro inside clean e m he hm
      exact exec_eyelet rfl h on (evalUnpack_clean (i := { fn := .eyUnpack, d := d, a := a, b := b, x := w }) rfl rfl inside clean he hm)
    · intro inside clean p m v hm hp hv
      exact exec_eyelet rfl h on (evalPack_clean (i := { fn := .eyPack, d := d, a := a, b := b, x := w }) rfl rfl inside clean hm hp hv)
  case seq =>
    rintro id d a s c x0 x1 h on rfl rfl
    constructor
    · rintro p y o w rfl hp hy ho
      exact exec_eyelet rfl h on (evalSeq_step (i := { fn := .eySeqStep, d := d, a := a }) rfl hp hy ho)
    · rintro p y o w rfl hp hy ho
      exact exec_eyelet rfl h on (evalSeq_init (i := { fn := .eySeqInit, d := d, a := a }) rfl hp hy ho)
  case skip =>
    intro id d a b s c h on
    refine ⟨fun outside => exec_eyParam rfl h on (if_pos outside), fun p y inside hp hy => ?_⟩
    exact exec_eyelet rfl h on (evalSeq_skip (i := { fn := .eySeqSkip, d := d, a := a, b := b }) rfl inside hp hy)
  case crc =>
    intro id d a b g order s c n h on small hn
    obtain ⟨gen, direction, fits⟩ := crcField_split g order
    have legal : VIns.legal { fn := .eyCrc, d := d, a := a, b := b, x := g.val + 8 * b2n order } = true := by
      simp [VIns.legal, vShape, kindOk, gen, small, fits]
    refine ⟨fun outside => exec_eyParam rfl h on (evalCrc_range hn outside) (legal := legal), fun low high first second => ?_⟩
    exact exec_eyelet rfl h on (evalCrc_clean (i := { fn := .eyCrc, d := d, a := a, b := b, x := g.val + 8 * b2n order }) gen direction hn low high
      first second) (legal := legal)
  case demap =>
    intro id d a b k m s c delta h on low high inside hd
    have legal : VIns.legal { fn := .eyDemap, d := d, a := a, b := b, k := k, x := m } = true := by
      simp [VIns.legal, vShape, kindOk, low, high, inside]
    have once := demap_writes_once (c := c) (i := { fn := .eyDemap, d := d, a := a, b := b, k := k, x := m }) rfl inside
    refine ⟨fun outside => exec_eyParam rfl h on (evalDemap_range hd outside) (legal := legal) (once := once), fun least most clear res els hr he => ?_⟩
    exact exec_eyelet rfl h on (evalDemap_clean (i := { fn := .eyDemap, d := d, a := a, b := b, k := k, x := m }) hd least most clear hr he)
      (legal := legal) (once := once)
  case phase =>
    intro id d a b k adv conj s c l h on even hl
    obtain ⟨advance, conjugate, fits⟩ := phaseField_split adv conj
    have legal : VIns.legal { fn := .eyPhase, d := d, a := a, b := b, k := k, x := b2n adv + 2 * b2n conj } = true := by
      simp [VIns.legal, vShape, kindOk, even, fits]
    exact exec_eyelet rfl h on (evalPhase_eq (i := { fn := .eyPhase, d := d, a := a, b := b, k := k, x := b2n adv + 2 * b2n conj }) advance conjugate hl)
      (legal := legal) (once := phase_writes_once rfl _)

end Sys2Proof.Machine
end

section
/-! The spare preload of the beam arrays (R198), and the refutation of O54: the record of an array reads back as it was set where the
list of arrays is canonical, and the statement does not ask that. -/

namespace Sys2Proof.Machine

/-! ## The record of an array -/

/-- In a canonical list of arrays a record reads back as it was set. -/
theorem cmaOf_setCma_self {s : State} (h : keysRise s.cmas = true) (b : Nat) (f : Cma → Cma) :
    cmaOf (setCma s b f) b = f (cmaOf s b) := by
  simp only [setCma, putCma]
  generalize f (cmaOf s b) = c
  simp only [cmaOf, assoc_putKey_self h]
  split
  · next reset => rw [reset]; rfl
  · rfl

theorem cmaSync_cmas (s : State) (b : Nat) : (cmaSync s b).cmas = s.cmas := rfl

/-! ## The spare preload (R198) -/

theorem exec_cmaSparePreload (b : Fin 16) (s : State) : exec (.cmaSparePreload b) s = .next (sparePreload s b.val) := rfl

theorem spareRead_of_ended {s : State} {b d : Nat} (from_ : (cmaOf s b).preFrom = some d) (job : (cmaOf s d).job = none)
    (load : (cmaOf s d).load = none) :
    spareRead s b = setCma s b fun y => { y with preFrom := none, preQ := spareSets s b d } := by
  simp [spareRead, from_, job, load]

/-- Banks that are all invalid give a spare no set to load. -/
theorem spareSets_of_invalid {s : State} {b d : Nat} (h : ∀ k, k < 4 → bankWsid s d k = 0) : spareSets s b d = [] := by
  simp only [spareSets, List.map_eq_nil_iff, List.filter_eq_nil_iff, List.mem_range]
  intro k hk
  simp [h k hk]

/-- A spare whose record still names the array it takes over, after its banks were to be read, changes nothing. -/
theorem sparePreload_of_unread {s : State} {b : Nat} (h : (cmaOf (spareRead s b) b).preFrom.isSome = true) : sparePreload s b = s := by
  simp [sparePreload, h]

/-- The clause of O54 about a spare without sets to load, where the list of arrays is canonical: the hypothesis it lacks. -/
theorem sparePreload_of_no_sets {s : State} {b d : Nat} (canonical : keysRise s.cmas = true) (from_ : (cmaOf s b).preFrom = some d)
    (job : (cmaOf s d).job = none) (load : (cmaOf s d).load = none) (up : awake s b = true) (h : ∀ k, k < 4 → bankWsid s d k = 0) :
    sparePreload s b = cmaSync (nextPreload (setCma s b fun y => { y with preFrom := none, preQ := [] }) b 5) b := by
  have read := spareRead_of_ended from_ job load
  rw [spareSets_of_invalid h] at read
  simp [sparePreload, up, read, cmaOf_setCma_self canonical]

/-! ## The counterexample -/

/-- An array that takes over the sets of bench 1's, listed twice. -/
def listedTwice : State :=
  { State.reset with cmas := [(0, { Cma.reset with preFrom := some 1 }), (0, { Cma.reset with preFrom := some 1 })] }

/-- Nothing in the well-kept form of a state speaks of the list of arrays. -/
theorem listedTwice_inv : Inv listedTwice where
  regs := rfl
  mem := rfl
  dom := rfl
  pn := { pcie := Nat.zero_le _, i3c := Nat.zero_le _, lace := Nat.zero_le _, held := List.nodup_nil }

/-- The record that has read the sets is the one of reset and leaves the list; the second entry still names bench 1's array. -/
theorem listedTwice_unread : (cmaOf (spareRead listedTwice 0) 0).preFrom.isSome = true := by decide

theorem listedTwice_claimed :
    (nextPreload (setCma listedTwice 0 fun y => { y with preFrom := none, preQ := [] }) 0 5).cmas = [(0, { Cma.reset with preFrom := some 1 })] := by
  decide

/-- Refutes O54: its clause about a spare that takes over an array without a valid bank speaks of every list of arrays, where it holds
for the canonical ones alone (`sparePreload_of_no_sets`). In `listedTwice` the spare's record after the read is the one of reset and so
leaves the list, and the second entry still asks for the read: the row changes nothing, where the clause drops an entry. -/
theorem not_arrayJobs : ¬ Obligations.ArrayJobs := by
  rintro ⟨-, -, -, -, -, -, -, -, noSets, -⟩
  have claimed := noSets 0 listedTwice 1 (by decide) (by decide) (by decide) (by decide) (by decide)
  rw [exec_cmaSparePreload, Fin.val_zero, sparePreload_of_unread listedTwice_unread] at claimed
  have cmas := congrArg State.cmas (Host.Outcome.next.inj claimed)
  rw [cmaSync_cmas, listedTwice_claimed] at cmas
  exact absurd (congrArg List.length cmas) (by decide)

end Sys2Proof.Machine
end

section
/-! The bands, calibrations, injections and commands of the analogue array (R192–R194, R202–R208): what each row does in each of the
cases of O55, and its proof. -/

namespace Sys2Proof.Machine

/-! ## Bands and background passes (R193, R194) -/

theorem exec_cmaBandSample_of_change {b : Fin 16} {cur : Fin 256} {s : State} (here : cmaHere s.variant b.val = true)
    (h : bandOfCurrent s b.val cur.val ≠ cmaBand s b.val) :
    exec (.cmaBandSample b cur) s = .next (calDueCheck (cmaSync
      (setCma (raise (wrF s R.cmaStat b.val 0 5 4 (bandOfCurrent s b.val cur.val)) E.cma b.val 6) b.val
        fun c => { c with bg := c.bg.map fun g => (0, g.2.1, bandOfCurrent s b.val cur.val) }) b.val) b.val) :=
  congrArg Host.Outcome.next (if_neg (by simp [here, h]))

theorem exec_cmaBandSample_of_same {b : Fin 16} {cur : Fin 256} {s : State} (h : bandOfCurrent s b.val cur.val = cmaBand s b.val) :
    exec (.cmaBandSample b cur) s = .next s :=
  congrArg Host.Outcome.next (if_pos (.inr h))

section Background
variable {b : Fin 16} {err : Fin 256} {s : State} {n p w : Nat}

/-- A step of a pass in a READY array awake: the pass advances, and its 66th step ends it (log entry 66). -/
theorem exec_cmaBgCalStep_of_pass (up : awake s b.val = true) (ready : cmaState s b.val = 2) (h : (cmaOf s b.val).bg = some (n, p, w)) :
    exec (.cmaBgCalStep b err) s = .next (
      if n + 1 < 66 then cmaSync (setCma s b.val fun c => { c with bg := some (n + 1, p, w) }) b.val
      else cmaSync (raise (writeCalRec (setCma s b.val fun c => { c with bg := none }) b.val err.val (cmaOf s b.val).rowCal) E.cma b.val 8)
        b.val) := by
  have goes : ¬ ((!awake s b.val) = true ∨ cmaState s b.val ≠ 2) := by simp [up, ready]
  refine congrArg Host.Outcome.next ((if_neg goes).trans ?_)
  rw [h]

end Background

/-! ## Full calibrations (R192, R198, R202) -/

theorem calWanted_iff {s : State} {b : Nat} : calWanted s b = true ↔
    cmaState s b = 0 ∨ cmaState s b = 3 ∨ ((cmaOf s b).pend = true ∧ (cmaState s b = 2 ∨ cmaState s b = 4)) := by
  simp [calWanted, or_assoc]

theorem exec_cmaFullCalStart_of_wanted {b : Fin 16} {s : State} (here : cmaHere s.variant b.val = true) (up : awake s b.val = true)
    (job : (cmaOf s b.val).job = none) (wanted : calWanted s b.val = true) (read : (cmaOf s b.val).load = none ∨ heirs s b.val = []) :
    exec (.cmaFullCalStart b) s = .next (startCal ((heirs s b.val).foldl spareRead s) b.val) :=
  congrArg Host.Outcome.next (if_neg (by rcases read with h | h <;> simp [here, up, job, wanted, h]))

/-- The spares read their sets before a calibration, and that read waits for the load (R198). -/
theorem exec_cmaFullCalStart_of_load {b : Fin 16} {s : State} (load : (cmaOf s b.val).load.isSome = true) (h : heirs s b.val ≠ []) :
    exec (.cmaFullCalStart b) s = .next s :=
  congrArg Host.Outcome.next (if_pos (.inr <| .inr <| .inr <| .inr ⟨load, by simpa using h⟩))

theorem exec_cmaFullCalStart_of_absent {b : Fin 16} {s : State} (h : cmaHere s.variant b.val = false) :
    exec (.cmaFullCalStart b) s = .next s :=
  congrArg Host.Outcome.next (if_pos (.inl (by simp [h])))

/-- The state after a check that passed, from the one that has the check in its ledger (R192, R202). -/
def calPassed (s : State) (b err : Nat) : State :=
  cmaSync (rejoin (raise (cmaSync (wr (setCma (setCmaState (writeCalRec s b err []) b 2) b
    fun c => { c with fails := 0, failInj := false, pend := false }) R.cmaRunCnt b 0 0) b) E.cma b 1) b) b

theorem exec_cmaFullCalEnd_of_pass {b : Fin 16} {ev : W16} {t : Fin 1001} {s : State} (up : goesOn s b.val = true)
    (cal : cmaState s b.val = 1) (unarmed : bit (rd s R.cmaInj b.val) 3 = false) (pass : ev.toInt ≤ -216) (trim : t.val < 900) :
    exec (.cmaFullCalEnd b ev t) s = .next (calPassed
      (ledgerCheck (cmaTelem s b.val 8 1) b.val (clampI 0 255 (-ev.toInt)).toNat t.val) b.val (clampI 0 255 (-ev.toInt)).toNat) := by
  have runs : ¬ (cmaState s b.val ≠ 1 ∨ (!goesOn s b.val) = true) := by simp [cal, up]
  refine congrArg Host.Outcome.next ((if_neg runs).trans ?_)
  simp only [unarmed, Bool.false_and, Bool.false_eq_true, if_false, Bool.not_false, and_true, if_pos pass, raiseIf,
    decide_eq_false (Nat.not_le.2 trim), calPassed]

theorem exec_cmaFullCalEnd_of_idle {b : Fin 16} {ev : W16} {t : Fin 1001} {s : State} (h : cmaState s b.val ≠ 1) :
    exec (.cmaFullCalEnd b ev t) s = .next s :=
  congrArg Host.Outcome.next (if_pos (.inl h))

/-! ## CAL_START and ARM (R203) -/

/-- A READY array without a pending calibration is to calibrate: at once, or when its task completes (R202). -/
theorem calibrate_of_ready {s : State} {b : Nat} {force : Bool} (ready : cmaState s b = 2) (pend : (cmaOf s b).pend = false) :
    calibrate s b force = (requestCal s b, if (cmaOf s b).job.isSome then .deferred else .ok) := by
  simp [calibrate, ready, pend]

theorem calibrate_of_off {s : State} {b : Nat} {force : Bool} (h : cmaState s b = 0) : calibrate s b force = (s, .state) :=
  if_pos (.inl h)

theorem exec_cmaCalStartBit (w : Writer) (b : Fin 16) (s : State) : exec (.cmaCalStartBit w b) s =
    .next (if cmaHere s.variant b.val && decide (w = .mp) then (calibrate s b.val false).1 else s) := rfl

theorem exec_cmaShellInjArm_of_may {w : Writer} {b : Fin 16} {s : State} (here : cmaHere s.variant b.val = true)
    (may : mayInject s w = true) (kind : rdF s R.cmaInj b.val 0 2 0 ≠ 0) :
    exec (.cmaShellInjArm w b) s = .next (setCma (wrB s R.cmaInj b.val 0 3 true) b.val fun c => { c with
      injLeft := rdF s R.cmaInj b.val 0 31 16 }) :=
  congrArg Host.Outcome.next (if_pos (by simp [here, may, kind]))

/-! ## Parameter words (R482) -/

@[simp] theorem wellFormed_nil : wellFormed [] [] = true := rfl

@[simp] theorem wellFormed_cons (w m : W32) (ws ms : List W32) :
    wellFormed (w :: ws) (m :: ms) = (onlyBits w m && wellFormed ws ms) := by
  simp only [wellFormed, List.length_cons, Nat.add_right_cancel_iff, List.zip_cons_cons, List.all_cons]
  exact Bool.and_left_comm ..

/-- A word without reserved bits. -/
@[simp] theorem onlyBits_all (w : W32) : onlyBits w 0xFFFFFFFF#32 = true := by
  simp [onlyBits]

/-! ## The commands of the array (R204–R208) -/

section Commands
variable {q : Req} {s : State} {w : W32}

theorem cmaStatus_of_here (ps : q.params = [w]) (bits : onlyBits w 0xF#32 = true) (here : cmaHere s.variant (fld w 3 0) = true) :
    cmaStatus q s = doneW s ([rd s R.cmaStat (fld w 3 0), rd s R.cmaPerrLast (fld w 3 0), rd s R.cmaRunCnt (fld w 3 0)] ++
      ((List.range 4).map fun k => rd s R.cmaWsid (fld w 3 0) k) ++ [rd s R.cmaBankStat (fld w 3 0)]) := by
  simp [cmaStatus, par, nth, ps, bits, here]

/-- `CMA_CALIBRATE` of an array that is there does what `calibrate` says, and answers its status. -/
theorem cmaCalibrate_of_here (ps : q.params = [w]) (bits : onlyBits w 0x1F#32 = true) (here : cmaHere s.variant (fld w 3 0) = true) :
    cmaCalibrate q s = done (calibrate s (fld w 3 0) (bit w 4)).1 (calibrate s (fld w 3 0) (bit w 4)).2 := by
  simp [cmaCalibrate, par, nth, ps, bits, here]

theorem cmaCalibrate_of_ready (ps : q.params = [w]) (bits : onlyBits w 0x1F#32 = true) (here : cmaHere s.variant (fld w 3 0) = true)
    (ready : cmaState s (fld w 3 0) = 2) (pend : (cmaOf s (fld w 3 0)).pend = false) (job : (cmaOf s (fld w 3 0)).job = none) :
    cmaCalibrate q s = done (requestCal s (fld w 3 0)) .ok := by
  rw [cmaCalibrate_of_here ps bits here, calibrate_of_ready ready pend, job]
  rfl

theorem cmaCalibrate_of_off (ps : q.params = [w]) (bits : onlyBits w 0x1F#32 = true) (here : cmaHere s.variant (fld w 3 0) = true)
    (off : cmaState s (fld w 3 0) = 0) : cmaCalibrate q s = done s .state := by
  rw [cmaCalibrate_of_here ps bits here, calibrate_of_off off]

/-- `CMA_CONFIG` of one array. -/
theorem cmaConfig_of_one {m a b c d : W32} {k : Nat} (one : ((List.range 16).filter fun b => m.toNat.testBit b) = [k])
    (ps : q.params = [m, a, b, c, d])
    (bits : wellFormed [m, a, b, c, d] [0xFFFF#32, 0x0FFFFFFF#32, 0x00FFFFFF#32, 0x1F#32, 0xE#32] = true)
    (band : R.cmaBandThr.legal a = true) (drift : R.cmaDriftCfg.legal b = true) (cal : R.cmaCalCfg.legal c = true)
    (ctl : R.cmaCtl.legal d = true) (here : cmaHere s.variant k = true) :
    cmaConfig q s = done (calDueCheck (wrF (wr (wr (wr s R.cmaBandThr k 0 a) R.cmaDriftCfg k 0 b)
      R.cmaCalCfg k 0 c) R.cmaCtl k 0 3 1 (fld d 3 1)) k) .ok := by
  have nonzero : m.toNat ≠ 0 := by
    intro zero
    simp [zero] at one
  simp only [cmaConfig, par, nth, ps, List.getElem?_cons_zero, List.getElem?_cons_succ, Option.getD_some, one]
  simp [nonzero, bits, band, drift, cal, ctl, here]

theorem cmaPreload_of_free {n lo hi : W32} (ps : q.params = [w, n, lo, hi]) (bits : onlyBits w 0x3F#32 = true)
    (top : onlyBits hi 0xFFFF#32 = true) (wsid : n ≠ 0#32) (addr : addrBad (pair64 lo hi) 64 = false)
    (here : cmaHere s.variant (fld w 3 0) = true) (ready : cmaState s (fld w 3 0) = 2)
    (idle : inService (cmaOf s (fld w 3 0)) ≠ some (fld w 5 4)) (load : (cmaOf s (fld w 3 0)).load = none) (bank : fld w 5 4 ≠ 3) :
    cmaPreload q s = holding (startLoad s (fld w 3 0)
      { mkLoad .preload (fld w 5 4) n.toNat (pair64 lo hi) with req := some q }) := by
  simp [cmaPreload, par, nth, ps, bits, top, wsid, addr, here, ready, idle, load, bank]

theorem cmaService_of_out (ps : q.params = [w]) (bits : onlyBits w 0x1F#32 = true) (here : cmaHere s.variant (fld w 3 0) = true)
    (off : bit w 4 = false) :
    cmaService q s = done (cmaSync (setCma (wrB s R.cmaCtl (fld w 3 0) 0 0 false) (fld w 3 0) fun c => { c with hold := false })
      (fld w 3 0)) .ok := by
  simp [cmaService, par, nth, ps, bits, here, off]


/-- A command that starts at once and whose body ends OK without words has had that body's effect and answers. -/
theorem runCommand_done {op : Nat} {f : State → State} (h : Starts s op q)
    (e : body op q (seated s op q) = some (done (f (seated s op q)) .ok)) :
    runCommand op q s = answered s op q f [] :=
  runCommand_starts (d := done (f (seated s op q)) .ok) h e rfl

end Commands

/-- Settles O55, row by row and command by command from the equations above. That a row whose condition does not hold changes nothing is
the model's choice of log entry 5, the 66 steps of a background pass that of log entry 66, and when a requested calibration starts that of
log entry 67. -/
theorem arrayCalibration : Obligations.ArrayCalibration := by
  refine ⟨?band, ?sameBand, ?step, ?lastStep, ?start, ?loading, ?absent, ?pass, ?notCal, ?calStart, ?arm, ?status, ?calibrate, ?off,
    ?config, ?preload, ?service⟩
  case band => rintro b cur _ s here rfl change; exact exec_cmaBandSample_of_change here change
  case sameBand => exact fun _ _ _ => exec_cmaBandSample_of_same
  case step =>
    intro b err n p w s up ready bg _ more
    rw [exec_cmaBgCalStep_of_pass up ready bg, if_pos (by omega)]
  case lastStep =>
    intro b err p w s up ready bg _
    rw [exec_cmaBgCalStep_of_pass up ready bg, if_neg (by omega)]
  case start => exact fun _ _ here up job wanted read => exec_cmaFullCalStart_of_wanted here up job (calWanted_iff.2 wanted) read
  case loading => exact fun _ _ load heir => exec_cmaFullCalStart_of_load load heir
  case absent =>
    intro b s absent
    exact ⟨exec_cmaFullCalStart_of_absent absent, by rw [exec_cmaCalStartBit, absent, Bool.false_and, if_neg Bool.false_ne_true]⟩
  case pass => exact fun _ _ _ _ up cal unarmed pass trim => exec_cmaFullCalEnd_of_pass up cal unarmed pass trim
  case notCal => exact fun _ _ _ _ h => exec_cmaFullCalEnd_of_idle h
  case calStart =>
    intro b s here ready pend
    simp [exec_cmaCalStartBit, here, calibrate_of_ready ready pend]
  case arm => exact fun _ _ _ here may kind => exec_cmaShellInjArm_of_may here may kind
  case status =>
    intro q s w h ps bits here
    exact congrArg Host.Outcome.next
      (runCommand_answers h (congrArg some (cmaStatus_of_here ps bits here)) rfl (unseated_seated h.free) rfl rfl)
  case calibrate =>
    intro q s w h ps bits here ready pend job
    exact congrArg Host.Outcome.next (runCommand_done (f := fun t => requestCal t (fld w 3 0)) h
      (congrArg some (cmaCalibrate_of_ready ps bits here ready pend job)))
  case off =>
    intro q s w h ps bits here off
    exact congrArg Host.Outcome.next
      (runCommand_answers h (congrArg some (cmaCalibrate_of_off ps bits here off)) rfl (unseated_seated h.free) rfl rfl)
  case config =>
    intro q s a b c d h ps ba bb bc bd la lb lc ld here
    have bench : ((List.range 16).filter fun b => (4#32).toNat.testBit b) = [2] := by decide
    have mask : onlyBits 4#32 0xFFFF#32 = true := by decide
    exact congrArg Host.Outcome.next (runCommand_done h
      (congrArg some (cmaConfig_of_one bench ps (by simp [mask, ba, bb, bc, bd]) la lb lc ld here)))
  case preload =>
    intro q s w n lo hi h ps bits top wsid addr here ready idle load bank
    exact congrArg Host.Outcome.next
      (runCommand_holds h (congrArg some (cmaPreload_of_free ps bits top wsid addr here ready idle load bank)) rfl)
  case service =>
    intro q s w h ps bits here off
    exact congrArg Host.Outcome.next (runCommand_done h (congrArg some (cmaService_of_out ps bits here off)))

end Sys2Proof.Machine
end

section
/-! The rows of an FFT engine (R209, R211, R212, R214, R216, R218, R219): what the end of a job in one of the eight modes leaves, and
the proof of O52. -/

namespace Sys2Proof.Machine

/-! ## The parts of a job's end -/

/-- The symbols of a job, none of whose data accesses the fabric answered with an error. -/
def fftRun (s : State) (b : Nat) (d : List W32) : FftRun := (List.range (fNsym d)).foldl (fun r k => fftSymbol b d none r k) { st := s }

/-- The exponents are written where the descriptor has an address for them (R210, R214). -/
def fftExps (b : Nat) (d : List W32) (r : FftRun) : State × Status :=
  if da d 14 = 0 then (r.st, .ok)
  else netStore r.st b (da d 14) (r.exps.map (BitVec.ofNat 8 ·) ++ List.replicate (64 - r.exps.length) 0)

/-- The status of a job from its run and the end of its exponents' write: what stopped it comes first (R219). -/
def fftStatus (r : FftRun) (exps : Status) : Status :=
  match r.stop with
  | some e => e
  | none => if exps ≠ .ok then exps else if r.bad ≠ 0 then .partialDone else .ok

/-- The result record is written (R219). -/
def fftRecord (s : State) (b : Nat) (j : EngJob) (r : FftRun) (st : Status) : State × Status :=
  netStore s b (j.param + 64) (wordBytes [w32 (statNum st), w32 r.n, w32 r.sat, w32 r.bad, 0, 0, 0, 0])

/-- After the record the counts and the status register are set, the engine is free and the task completes. -/
def fftEnded (s : State) (b i : Nat) (j : EngJob) (r : FftRun) (st : Status) : State :=
  complete (putEng (wrF (wrB (bump (bump s R.fftSymCount b i r.n) R.fftPoisonCount b i r.bad) R.fftStat b i 0 false)
    R.fftStat b i 31 16 (statNum st)) (2 * b + i) none) j.task (st16 st)

theorem fftStatus_of_ran {r : FftRun} (ran : r.stop = none) (exps : Status) :
    fftStatus r exps = if exps ≠ .ok then exps else if r.bad ≠ 0 then .partialDone else .ok := by
  rw [fftStatus, ran]

/-! ## The end of a job -/

section Job
variable {s : State} {b i mode : Nat} {err : Option (Fin 14 × Status)} {j : EngJob}

theorem fftComplete_of_free (h : jobOf s (2 * b + i) = none) : fftComplete s b i mode err = s := by
  simp [fftComplete, h]

theorem fftComplete_of_otherMode (job : jobOf s (2 * b + i) = some j) (h : fMode j.desc ≠ mode) : fftComplete s b i mode err = s := by
  simp [fftComplete, job, h]

theorem fftComplete_of_asleep (h : goesOn s b = false) : fftComplete s b i mode err = s := by
  cases job : jobOf s (2 * b + i) <;> simp [fftComplete, job, h]

/-- A job in the row's mode ends: its symbols, its exponents, its record, its completion. -/
theorem fftComplete_of_job {s1 s2 : State} {xs ws : Status} (job : jobOf s (2 * b + i) = some j) (md : fMode j.desc = mode)
    (up : goesOn s b = true) (exps : fftExps b j.desc (fftRun s b j.desc) = (s1, xs))
    (record : fftRecord s1 b j (fftRun s b j.desc) (fftStatus (fftRun s b j.desc) xs) = (s2, ws)) :
    fftComplete s b i mode none = fftEnded s2 b i j (fftRun s b j.desc) (fftStatus (fftRun s b j.desc) xs) := by
  have parts : fftComplete s b i mode none =
      (let r := fftRun s b j.desc
       let (s1, xs) := fftExps b j.desc r
       let (s2, _) := fftRecord s1 b j r (fftStatus r xs)
       fftEnded s2 b i j r (fftStatus r xs)) := by
    simp only [fftComplete, job, if_neg (show ¬ (fMode j.desc ≠ mode ∨ (!goesOn s b) = true) by simp [md, up]), Option.bind_none,
      fftRun, fftExps, fftStatus, fftRecord, fftEnded]
    rfl
  simp only [parts, exps, record]

end Job

/-- Each of the eight rows ends a job in the mode that stands beside it. -/
theorem exec_fftRow (b : Fin 16) (i : Fin 2) (s : State) :
    ∀ m ∈ [(Instr.fftOfdmRx b i none, 0), (.fftOfdmTx b i none, 1), (.fftDft b i none, 2), (.fftIdft b i none, 3),
      (.fftPrach b i none, 4), (.fftRaw b i none, 5), (.ifftRaw b i none, 6), (.fftConvert b i none, 7)],
    exec m.1 s = .next (settled s (fftComplete s b.val i.val m.2 none)) := by
  simp only [List.forall_mem_cons]
  exact ⟨rfl, rfl, rfl, rfl, rfl, rfl, rfl, rfl, List.forall_mem_nil _⟩

/-- Settles O52: every row is `exec_fftRow`, and the end of a job is `fftComplete_of_job`. That an engine without a job, or with one in
another mode, changes nothing is the model's choice of log entry 5, and that one row runs all the symbols that of log entry 72. The
statement's words also name a bench asleep, of which it has no clause: that is `fftComplete_of_asleep`. -/
theorem transformJobs : Obligations.TransformJobs := by
  intro b i m row
  refine ⟨?job, ?free, ?otherMode⟩
  case job =>
    rintro s s1 s2 j _ xs ws _ job md up rfl ran exps rfl record
    rw [← fftStatus_of_ran ran] at record ⊢
    rw [exec_fftRow b i s m row, fftComplete_of_job job md up exps record]
    rfl
  case free =>
    intro s free
    rw [exec_fftRow b i s m row, fftComplete_of_free free, settled_self]
  case otherMode =>
    intro s j job md
    rw [exec_fftRow b i s m row, fftComplete_of_otherMode job md, settled_self]

end Sys2Proof.Machine
end

section
/-! The rows of the coding pool (R220–R238): what the end of a job of each kind leaves, what an error in place of its data
does, when a soft buffer's lock is taken, and the proof of O53. -/

namespace Sys2Proof.Machine

/-! ## A job that stops, and one whose input is read (R222, R223) -/

/-- The status of a job that read its input with `er` erased LLRs, from the end of its output's write (R223). -/
def wroteStatus (wst : Status) (er : Nat) : Status := if wst ≠ .ok then wst else if er ≠ 0 then .partialDone else .ok

section Stop
variable {s : State} {h i : Nat} {j : EngJob}

theorem poolErr_of_idle (e : Status) (idle : runningPool s h i = none) : poolErr s h i e = s := by
  simp only [poolErr, idle]

theorem poolErr_of_notPresent (job : runningPool s h i = some j) : poolErr s h i .notPresent = endPool s h i j .notPresent [] := by
  simp only [poolErr, job, or_true, if_true, reduceCtorEq, if_false]

end Stop

section Units
variable {s s1 s2 : State} {h i er : Nat} {j : EngJob} {wst : Status} {ls : List Int} {m : List Bool}

/-! ## LDPC (R225–R228) -/

/-- The information block of an LDPC job: message, check bits and fillers (R225). -/
def lencBlock (d : List W32) (m : List Bool) : List Bool :=
  (m ++ (if fld (dw d 0) 26 25 = 0 then [] else crcBits (fld (dw d 0) 26 25) m)) ++
    List.replicate (ldKb (ldBg2 d) * ldZc d - fld (dw d 1) 14 0) false

/-- The code bits of an information block: without its first two columns, with the parity (R228). -/
def lencCode (d : List W32) (full : List Bool) : List Bool :=
  (full.drop (2 * ldZc d) ++ ldpcParity (ldBg2 d) (ldZc d) full).take (ldNb (ldBg2 d) * ldZc d)

theorem lencEnd_of_read (job : runningPool s h i = some j)
    (read : readBits s (poolNi h) (da j.desc 2) (fld (dw j.desc 1) 14 0 - crcLen (fld (dw j.desc 0) 26 25)) = (s1, .ok, m, false))
    (write : putLines s1 (poolNi h) (da j.desc 4)
      (packBits (ldNb (ldBg2 j.desc) * ldZc j.desc / 8 + 1) (lencCode j.desc (lencBlock j.desc m))) = (s2, wst)) :
    lencEnd s h i = endPool s2 h i j wst [] := by
  unfold lencCode lencBlock at write
  simp only [lencEnd, job, read, write, ne_eq, not_true_eq_false, if_false, Bool.false_eq_true]

theorem lencEnd_of_poison (job : runningPool s h i = some j)
    (read : readBits s (poolNi h) (da j.desc 2) (fld (dw j.desc 1) 14 0 - crcLen (fld (dw j.desc 0) 26 25)) = (s1, .ok, m, true))
    (write : poisonLines s1 (poolNi h) (da j.desc 4) (cdiv (ldNb (ldBg2 j.desc) * ldZc j.desc) 8) = (s2, .ok)) :
    lencEnd s h i = endPool s2 h i j .integrity [] := by
  simp only [lencEnd, job, read, write, endPoisoned, ne_eq, not_true_eq_false, if_false, if_true]

/-- The layers that the decoder of a job processes (R226). -/
def ldecLayers (d : List W32) : Nat := ldLayers (ldBg2 d) (ldZc d) (fld (dw d 1) 30 16)

/-- The parity checks of those layers that a word does not meet (R227). -/
def ldecUnsat (d : List W32) (w : List Bool) : Nat := ldpcUnsat (ldBg2 d) (ldZc d) (ldecLayers d) w

/-- The CRC of a decoded word is present and in order (R227). -/
def ldecPass (d : List W32) (w : List Bool) : Bool :=
  decide (fld (dw d 0) 26 25 ≠ 0) && crcPass (fld (dw d 0) 26 25) (w.take (fld (dw d 1) 14 0))

/-- An iteration that reaches this word is the last: by its checks or by its CRC, as ET selects (R226). -/
def ldecStop (d : List W32) (w : List Bool) : Bool :=
  (decide (fld (dw d 0) 24 23 = 1) && decide (ldecUnsat d w = 0)) || (decide (fld (dw d 0) 24 23 = 2) && ldecPass d w)

/-- The decisions and the iterations of a decoder from its LLRs (R226). -/
def ldecWord (d : List W32) (ls : List Int) : List Bool × Nat :=
  ldRun (ldIterate (ldBg2 d) (ldZc d) (ldecLayers d) (fld (dw d 6) 3 0) (fld (dw d 6) 8 4)
      fun x => decide (fld (dw d 1) 14 0 ≤ x) && decide (x < ldKb (ldBg2 d) * ldZc d)) (ldecStop d) (fld (dw d 0) 22 18) 0
    (ldChannel (ldZc d) (fld (dw d 1) 14 0) (ldKb (ldBg2 d) * ldZc d) (ldKb (ldBg2 d) * ldZc d + ldecLayers d * ldZc d) ls,
      List.replicate (ldecLayers d * ldZc d) [])

/-- The result record of a decoder (R227). -/
def ldecRecord (d : List W32) (w : List Bool) (it er : Nat) : List W32 :=
  [packF [(16, b2n (decide (fld (dw d 0) 26 25 ≠ 0))), (17, b2n (ldecPass d w)), (18, b2n (decide (ldecUnsat d w = 0))), (19, it)], w32 er,
    w32 (satU 16 (ldecUnsat d w)), w32 (64 + it * (ldecLayers d * cdiv (ldZc d) 96 + 8))]

theorem ldecEnd_of_read {w : List Bool} {it : Nat} (job : runningPool s h i = some j)
    (read : readLlrs s (poolNi h) (da j.desc 2) (fld (dw j.desc 1) 30 16) = (s1, .ok, ls, er))
    (decoded : ldecWord j.desc ls = (w, it))
    (write : putLines s1 (poolNi h) (da j.desc 4) (packBits (fld (dw j.desc 1) 14 0 / 8 + 1) (w.take (fld (dw j.desc 1) 14 0))) = (s2, wst)) :
    ldecEnd s h i = endPool s2 h i j (wroteStatus wst er) (ldecRecord j.desc w it er) := by
  unfold ldecWord ldecStop ldecPass ldecUnsat ldecLayers at decoded
  simp only [ldecEnd, job, read, decoded, write, ne_eq, not_true_eq_false, if_false]
  rfl

/-! ## Polar (R229, R230) -/

theorem pdecEnd_of_read {ok : Bool} {rank pm : Nat} (job : runningPool s h i = some j)
    (read : readLlrs s (poolNi h) (da j.desc 4) (fld (dw j.desc 2) 13 0) = (s1, .ok, ls, er))
    (decoded : (polarOf j.desc).decode (fld (dw j.desc 3) 15 0) ls = (m, ok, rank, pm))
    (write : putLines s1 (poolNi h) (da j.desc 6) (packBits (fld (dw j.desc 1) 10 0 / 8 + 1) m) = (s2, wst)) :
    pdecEnd s h i = endPool s2 h i j (wroteStatus wst er) [packF [(16, b2n ok), (17, rank)], w32 er, w32 (satU 32 pm)] := by
  unfold polarOf at decoded
  simp only [pdecEnd, job, polarOf, read, decoded, write, ne_eq, not_true_eq_false, if_false]
  rfl

theorem pencEnd_of_read (job : runningPool s h i = some j)
    (read : readBits s (poolNi h) (da j.desc 4) (fld (dw j.desc 1) 10 0) = (s1, .ok, m, false))
    (write : putLines s1 (poolNi h) (da j.desc 6)
      (packBits (fld (dw j.desc 2) 13 0 / 8 + 1) ((polarOf j.desc).encode (fld (dw j.desc 3) 15 0) m)) = (s2, wst)) :
    pencEnd s h i = endPool s2 h i j wst [] := by
  simp only [pencEnd, job, read, write, ne_eq, not_true_eq_false, if_false, Bool.false_eq_true]

/-! ## Turbo (R231, R232) -/

/-- The CRC of a decoded block is present and in order (R232). -/
def tdecPass (d : List W32) (w : List Bool) : Bool :=
  decide (fld (dw d 0) 13 12 ≠ 0) && crcPass (fld (dw d 0) 13 12) (w.drop (fld (dw d 1) 18 13))

/-- The decisions and the iterations of a turbo decoder from its three streams (R232). -/
def tdecWord (d : List W32) (l0 l1 l2 : List Int) : List Bool × Nat :=
  turboRun (turboIterate (fld (dw d 1) 12 0) (fld (dw d 1) 18 13) (fld (dw d 0) 19 15) l0 l1 l2) (fun w => bit (dw d 0) 14 && tdecPass d w)
    (fld (dw d 0) 11 8) 0 (List.replicate (fld (dw d 1) 12 0) 0) []

/-- The result record of a turbo decoder (R232). -/
def tdecRecord (d : List W32) (w : List Bool) (it er : Nat) : List W32 :=
  [packF [(16, b2n (decide (fld (dw d 0) 13 12 ≠ 0))), (17, b2n (tdecPass d w)), (18, it)], w32 er,
    w32 (64 + 2 * it * (cdiv (fld (dw d 1) 12 0 + 4) 24 + 16))]

/-- Stream `x` of a turbo decoder's input is read. -/
def tdecStream (s : State) (h : Nat) (d : List W32) (x : Nat) : State × Status × List Int × Nat :=
  readLlrs s (poolNi h) (da d 2 + x * llrStride (fld (dw d 1) 12 0 + 4)) (fld (dw d 1) 12 0 + 4)

theorem tdecEnd_of_read {s3 s4 : State} {l0 l1 l2 : List Int} {e0 e1 e2 it : Nat} {w : List Bool} (job : runningPool s h i = some j)
    (read0 : tdecStream s h j.desc 0 = (s1, .ok, l0, e0)) (read1 : tdecStream s1 h j.desc 1 = (s2, .ok, l1, e1))
    (read2 : tdecStream s2 h j.desc 2 = (s3, .ok, l2, e2)) (decoded : tdecWord j.desc l0 l1 l2 = (w, it))
    (write : putLines s3 (poolNi h) (da j.desc 4) (packBits (fld (dw j.desc 1) 12 0 / 8 + 1) (w.drop (fld (dw j.desc 1) 18 13))) = (s4, wst)) :
    tdecEnd s h i = endPool s4 h i j (wroteStatus wst (e0 + e1 + e2)) (tdecRecord j.desc w it (e0 + e1 + e2)) := by
  unfold tdecStream at read0 read1 read2
  unfold tdecWord tdecPass at decoded
  simp only [tdecEnd, job, read0, read1, read2, decoded, write, ne_eq, not_true_eq_false, if_false]
  rfl

/-- The bytes of an encoded block: its three streams, each from a line on (R231, R232). -/
def tencBytes (d : List W32) (m : List Bool) : List Byte :=
  (turboEncode (List.replicate (fld (dw d 1) 18 13) false ++ m)).flatMap fun l =>
    packBits (l.length / 8 + 1) l ++ List.replicate (bitStride (fld (dw d 1) 12 0 + 4) - (packBits (l.length / 8 + 1) l).length) 0

theorem tencEnd_of_read (job : runningPool s h i = some j)
    (read : readBits s (poolNi h) (da j.desc 2) (fld (dw j.desc 1) 12 0 - fld (dw j.desc 1) 18 13) = (s1, .ok, m, false))
    (write : putLines s1 (poolNi h) (da j.desc 4) (tencBytes j.desc m) = (s2, wst)) : tencEnd s h i = endPool s2 h i j wst [] := by
  unfold tencBytes at write
  simp only [tencEnd, job, read, write, ne_eq, not_true_eq_false, if_false, Bool.false_eq_true]

/-! ## Rate matching (R233, R234) -/

theorem dematchEnd_of_match (job : runningPool s h i = some j) (dir : bit (dw j.desc 0) 8 = false) : dematchEnd s h i = s := by
  simp only [dematchEnd, job, dir, Bool.not_false, if_true]

theorem matchEnd_of_dematch (job : runningPool s h i = some j) (dir : bit (dw j.desc 0) 8 = true) : matchEnd s h i = s := by
  simp only [matchEnd, job, dir, if_true]

theorem dematchEnd_of_read (job : runningPool s h i = some j) (dir : bit (dw j.desc 0) 8 = true)
    (read : readLlrs s (poolNi h) (da j.desc 4) (rmE j.desc) = (s1, .ok, ls, er))
    (write : putLines s1 (poolNi h) (da j.desc 6) (dematchOut j.desc (dematch j.desc ls).1) = (s2, wst)) :
    dematchEnd s h i = endPool s2 h i j (wroteStatus wst er) [0, w32 (rmHigh j.desc), w32 er, w32 (dematch j.desc ls).2] := by
  simp only [dematchEnd, job, dir, read, write, Bool.not_true, ne_eq, not_true_eq_false, if_false, Bool.false_eq_true]
  rfl

/-- The bits of MATCH's input, of either code (R234). -/
def matchLen (d : List W32) : Nat := if rmTurbo d then 24 * bitStride (rmKp d + 4) else rmFull d

/-- The bits that MATCH gives: the walk's, interleaved and scrambled (R234). -/
def matchBits (d : List W32) (m : List Bool) : List Bool :=
  (List.range (rmE d)).map fun k =>
    xor ((rmWalk d).length ≠ 0 && matchBit d m (nth (rmWalk d) (rmOrder d k % (rmWalk d).length) 0)) ((rmScramble d).testBit k)

theorem matchEnd_of_read (job : runningPool s h i = some j) (dir : bit (dw j.desc 0) 8 = false)
    (read : readBits s (poolNi h) (da j.desc 4) (matchLen j.desc) = (s1, .ok, m, false))
    (write : putLines s1 (poolNi h) (da j.desc 6) (packBits (rmE j.desc / 8 + 1) (matchBits j.desc m)) = (s2, wst)) :
    matchEnd s h i = endPool s2 h i j wst [] := by
  unfold matchLen at read
  unfold matchBits at write
  simp only [matchEnd, job, dir, read, ne_eq, not_true_eq_false, if_false, Bool.false_eq_true]
  simp only [write]

theorem matchLen_of_ldpc {d : List W32} (ldpc : rmTurbo d = false) : matchLen d = rmFull d := by
  rw [matchLen, ldpc, if_neg Bool.false_ne_true]

/-! ## HARQ combining (R235–R238) -/

theorem hcNew_of_read (job : runningPool s h i = some j) (op : fld (dw j.desc 0) 9 8 = 0)
    (read : readLlrs s (poolNi h) (da j.desc 4) (fld (dw j.desc 1) 15 0) = (s1, .ok, ls, er)) :
    hcNew s h i = softWrite s1 h i j ls (fld (dw j.desc 1) 31 16) 1 er 0 := by
  simp only [hcNew, job, op, read, ne_eq, not_true_eq_false, if_false]

theorem hcCombine_of_read {old : List Int} {high comb eb : Nat} (job : runningPool s h i = some j) (op : fld (dw j.desc 0) 9 8 = 1)
    (soft : readSoft s h j.desc = (s1, .ok, high, comb, old, eb))
    (read : readLlrs s1 (poolNi h) (da j.desc 4) (fld (dw j.desc 1) 15 0) = (s2, .ok, ls, er)) :
    hcCombine s h i = softWrite s2 h i j ((old.zip ls).map fun x => clampI (-127) 127 (x.1 + x.2)) (Nat.max high (fld (dw j.desc 1) 31 16))
      (satU 8 (comb + 1)) er eb := by
  simp only [hcCombine, job, op, soft, read, ne_eq, not_true_eq_false, if_false]

theorem hcRead_of_read {old : List Int} {high comb : Nat} (job : runningPool s h i = some j) (op : fld (dw j.desc 0) 9 8 = 2)
    (soft : readSoft s h j.desc = (s1, .ok, high, comb, old, er))
    (write : putLines s1 (poolNi h) (da j.desc 6) (llrBytes old) = (s2, wst)) :
    hcRead s h i = endPool s2 h i j (wroteStatus wst er) [0, w32 high, w32 comb, 0, w32 er] := by
  simp only [hcRead, job, op, soft, write, ne_eq, not_true_eq_false, if_false]
  rfl

end Units

section Start
variable {s s1 s2 : State} {h : Fin 2} {k : Fin 46} {n : Nat} {x : Task} {d : List W32}

/-- Units 42 to 45 of a half are its combiners (R220). -/
theorem unitKind_combiner : ∀ i : Fin 4, unitKind (42 + i.val) = 7 := by decide

/-- A combiner whose soft buffer is locked, or that finds the table full, waits (R238, log entry 75). -/
theorem poolStart_of_locked (kind : unitKind k.val = 7) (begun : beginTask s (.pool h k) = some (s1, n, x))
    (legal : poolStaged s1 h.val 7 x.param = (s2, .ok, d))
    (held : (s.locks.any fun e => decide (e.1 = da d 8)) = true ∨ 128 ≤ s.locks.length) : poolStart s h k = s := by
  simp only [poolStart, kind, begun, legal, held, ne_eq, not_true_eq_false, if_false, and_true, if_true, ite_self]

/-- A combiner's job begins with the lock on its soft buffer (R238). -/
theorem poolStart_of_unlocked (kind : unitKind k.val = 7) (free : jobOf s (poolKey h.val k.val) = none) (up : awake s (16 + h.val) = true)
    (begun : beginTask s (.pool h k) = some (s1, n, x)) (legal : poolStaged s1 h.val 7 x.param = (s2, .ok, d))
    (unlocked : (s.locks.any fun e => decide (e.1 = da d 8)) = false) (room : s.locks.length < 128) :
    poolStart s h k = { putEng s2 (poolKey h.val k.val) (some { task := n, param := x.param, desc := d }) with
      locks := (putEng s2 (poolKey h.val k.val) (some { task := n, param := x.param, desc := d })).locks ++
        [(da d 8, poolKey h.val k.val)] } := by
  simp only [poolStart, kind, free, up, begun, legal, unlocked, ne_eq, not_true_eq_false, if_false, if_true, true_and,
    Nat.not_le.2 room, Option.isSome_none, Bool.not_true, Bool.false_eq_true, or_self]

end Start

/-! ## O53 -/

/-- Each of the eleven rows stops the job of the unit that stands beside it when a data access is answered with an error. -/
theorem exec_poolError (h : Fin 2) (i : Fin 4) (k : Fin 12) (n : Fin 8) (z : Fin 2) (e : Status) (s : State) :
    ∀ m ∈ [(Instr.ldecComplete h k (some e), k.val), (.lencComplete h i (some e), 12 + i.val), (.pdecComplete h i (some e), 16 + i.val),
      (.pencComplete h i (some e), 20 + i.val), (.tdecComplete h n (some e), 24 + n.val), (.tencComplete h z (some e), 32 + z.val),
      (.dematchComplete h n (some e), 34 + n.val), (.matchComplete h n (some e), 34 + n.val), (.hcNewComplete h i (some e), 42 + i.val),
      (.hcCombineComplete h i (some e), 42 + i.val), (.hcReadComplete h i (some e), 42 + i.val)],
    exec m.1 s = .next (settled s (poolErr s h.val m.2 e)) := by
  simp only [List.forall_mem_cons]
  exact ⟨rfl, rfl, rfl, rfl, rfl, rfl, rfl, rfl, rfl, rfl, rfl, List.forall_mem_nil _⟩

/-- The outcome of a row of an engine whose operation left `t`. -/
def settledNext (s t : State) : Host.Outcome State Fault Refusal := .next (settled s t)

theorem settledNext_of_unchanged {s t : State} (h : t = s) : settledNext s t = .next s := by
  rw [h, settledNext, settled_self]

/-- Settles O53, unit by unit from the equations above. The model's choices in it: a unit without a job, and a row of the other direction
of rate matching, change nothing (log entry 5); the codes' tables and roundings are configuration (73 and 135); an LLR −128 is read as
−127 (74); a combiner takes its lock in the row that finds it free (75). `matchEnd_of_read` covers MATCH of the turbo code too. -/
theorem codingJobs : Obligations.CodingJobs := by
  refine ⟨?stop, ?lenc, ?lencPoison, ?ldec, ?pdec, ?penc, ?tdec, ?tenc, ?dematch, ?match_, ?hcNew, ?hcCombine, ?hcRead, ?lock⟩
  case stop =>
    intro h i k n z e m row
    refine ⟨fun s idle => ?_, fun s j job err => ?_⟩
    · rw [exec_poolError h i k n z e s m row, poolErr_of_idle e idle, settled_self]
    · rw [exec_poolError h i k n z e s m row, err, poolErr_of_notPresent job]
  case lenc =>
    rintro h i s s1 s2 j m _ _ job rfl read rfl write
    exact congrArg (settledNext s) (lencEnd_of_read job read write :)
  case lencPoison =>
    intro h i s s1 s2 j m job read write
    exact congrArg (settledNext s) (lencEnd_of_poison job read write :)
  case ldec =>
    rintro h i s s1 s2 j ls _ _ _ _ _ it w job rfl rfl rfl rfl rfl read decoded write
    exact congrArg (settledNext s) (ldecEnd_of_read job read decoded write :)
  case pdec =>
    intro h i s s1 s2 j ls m ok rank pm job read decoded write
    exact congrArg (settledNext s) (pdecEnd_of_read job read decoded write :)
  case penc =>
    intro h i s s1 s2 j m job read write
    exact congrArg (settledNext s) (pencEnd_of_read job read write :)
  case tdec =>
    rintro h i s s1 s2 s3 s4 j l0 l1 l2 _ _ it w job rfl rfl read0 read1 read2 decoded write
    exact congrArg (settledNext s) (tdecEnd_of_read job read0 read1 read2 decoded write :)
  case tenc =>
    intro h i s s1 s2 j m job read write
    exact congrArg (settledNext s) (tencEnd_of_read job read write :)
  case dematch =>
    intro h i s s1 s2 j ls job dir read write
    exact ⟨congrArg (settledNext s) (dematchEnd_of_read job dir read write :),
      settledNext_of_unchanged (matchEnd_of_dematch job dir)⟩
  case match_ =>
    intro h i s s1 s2 j m job dir ldpc read write
    rw [← matchLen_of_ldpc ldpc] at read
    exact ⟨congrArg (settledNext s) (matchEnd_of_read job dir read write),
      settledNext_of_unchanged (dematchEnd_of_match job dir)⟩
  case hcNew =>
    intro h i s s1 j l job op read
    exact congrArg (settledNext s) (hcNew_of_read job op read :)
  case hcCombine =>
    intro h i s s1 s2 j l old high comb eb en job op soft read
    exact congrArg (settledNext s) (hcCombine_of_read job op soft read :)
  case hcRead =>
    intro h i s s1 s2 j old high comb job op soft write
    exact congrArg (settledNext s) (hcRead_of_read job op soft write :)
  case lock =>
    rintro h i ⟨k, lt⟩ s s1 s2 n x d rfl free up begun legal
    have kind := unitKind_combiner i
    exact ⟨fun locked => settledNext_of_unchanged (poolStart_of_locked kind begun legal (.inl locked)),
      fun unlocked room => congrArg (settledNext s) (poolStart_of_unlocked kind free up begun legal unlocked room :)⟩

end Sys2Proof.Machine
end

section
/-! The controls of the fabric (R247, R354, R365, R366, R368): which registers an event may change, what route tables, router
reconfiguration, waiting packets and held headers do in each case, and the proof of O50. -/

namespace Sys2Proof.Machine

/-! ## The registers that an event may change -/

/-- The registers that raising an event of unit u may change: its bits, its counter, and those of the event packet it sends. -/
def evtKeys (e : EvtReg) (u i : Nat) : List Nat :=
  e.evt.key u i :: ((e.cnt.map fun c => c.key u i).toList ++ emitKeys)

theorem RegsBut.mono {ks ks' : List Nat} {a b : State} (h : RegsBut ks a b) (sub : ks ⊆ ks') : RegsBut ks' a b :=
  fun k n => h k fun m => n (sub m)

theorem emitKeys_subset_evtKeys (e : EvtReg) (u i : Nat) : emitKeys ⊆ evtKeys e u i :=
  fun _ m => List.mem_cons_of_mem _ (List.mem_append_right _ m)

theorem latch_regs (s : State) (e : EvtReg) (u i : Nat) (bits : W32) : RegsBut (evtKeys e u i) s (latch s e u i bits).1 := by
  have bitsSet (v : W32) : RegsBut (evtKeys e u i) s (wr s e.evt u i v) := .wr s e.evt u i v List.mem_cons_self
  unfold latch
  cases hc : e.cnt with
  | none => exact bitsSet _
  | some c => exact (bitsSet _).trans (.wr _ c u i _ (by simp [evtKeys, hc]))

/-- Raising an event leaves every register but its own and the Pennant's as it was. -/
theorem raiseI_regs (s : State) (e : EvtReg) (u i : Nat) (bits : W32) : RegsBut (evtKeys e u i) s (raiseI s e u i bits) := by
  unfold raiseI
  split
  · exact .refl _ s
  · simp only
    split
    · exact latch_regs s e u i bits
    · exact (latch_regs s e u i bits).trans (RegsBut.mono (emit_regs _ _ _) (emitKeys_subset_evtKeys e u i))

theorem OnlyEvents.variant {s t : State} (h : OnlyEvents s t) : t.variant = s.variant := (congrArg State.variant h :)

/-- A register beside an event's own reads as before when the event is raised. -/
theorem rd_raise_of_not_mem (s : State) {e : EvtReg} {u : Nat} (n : Nat) {r : Reg} {u' i' : Nat} (h : r.key u' i' ∉ evtKeys e u 0) :
    rd (raise s e u n) r u' i' = rd s r u' i' :=
  (raiseI_regs s e u 0 (w32 (2 ^ n))).rd (raise_events s e u n).variant r u' i' h

/-- A register beside the two words of a counter reads as before when the counter rises. -/
theorem rd_bump_ne (s : State) {r r' : Reg} {u i u' i' : Nat} (n : Nat) (low : r'.key u' i' ≠ r.key u i)
    (high : r'.key u' i' ≠ (r.next 1).key u i) : rd (bump s r u i n) r' u' i' = rd s r' u' i' :=
  (rd_wr_ne _ (r.next 1) r' u i u' i' _ high).trans (rd_wr_ne s r r' u i u' i' _ low)

/-! ## The port enables of a router -/

/-- The port enables of a router are none of the registers that its events change. -/
theorem rtPortEn_key_not_mem_evtKeys {k : Nat} (hk : k < 38) : R.rtPortEn.key k 0 ∉ evtKeys E.rt k 0 := by
  simp only [evtKeys, emitKeys, E.rt, Reg.key, Reg.next, R.rtPortEn, R.rtEvt, R.rtEvtCnt, R.rtB, R.pnEvseq, R.pnCount, R.pnEvt,
    R.pnEvtCnt, R.pnB, Option.map_some, Option.toList_some, List.cons_append, List.nil_append, List.mem_cons, List.not_mem_nil, or_false]
  omega

theorem rd_raise_rtPortEn (s : State) {k : Nat} (hk : k < 38) (n : Nat) : rd (raise s E.rt k n) R.rtPortEn k = rd s R.rtPortEn k :=
  rd_raise_of_not_mem s n (rtPortEn_key_not_mem_evtKeys hk)

theorem rd_bump_rtPortEn (s : State) (k i n : Nat) : rd (bump s R.rtCount k i n) R.rtPortEn k = rd s R.rtPortEn k := by
  refine rd_bump_ne s n ?low ?high <;> simp only [Reg.key, Reg.next, R.rtPortEn, R.rtCount, R.rtB] <;> omega

/-! ## Route tables (R354) -/

theorem exec_routeEntryCommit_of_mp {n : Fin 40} {s : State} (e : Fin 256) (v : W32) (here : niHere s.variant n.val = true) :
    exec (.routeEntryCommit .mp n e v) s = .next (commitRt s n.val e.val v) :=
  congrArg Host.Outcome.next (if_pos ⟨rfl, here⟩)

/-- A write of a route table by another than the management processor is ignored. -/
theorem exec_routeEntryCommit_of_other {w : Writer} (n : Fin 40) (e : Fin 256) (v : W32) (s : State) (h : w ≠ .mp) :
    exec (.routeEntryCommit w n e v) s = .next s :=
  congrArg Host.Outcome.next (if_neg fun c => h c.1)

/-! ## Router reconfiguration (R365, R368) -/

/-- A reconfiguration of port enables (OP 0 or 1) begins phase 1 at an idle router. -/
theorem rcfgGo_of_enable {s : State} {k : Nat} {v : W32} (idle : rdF s R.rtRcfg k 0 28 27 = 0) (op : fld v 14 13 < 2) :
    rcfgGo s k v = wrF (wr s R.rtRcfg k 0 (v &&& 0x03FFFFFF#32)) R.rtRcfg k 0 28 27 1 := by
  have legal : ¬ (fld v 14 13 = 3 ∨ (fld v 14 13 = 2 ∧ (popcount (v &&& 0x1FFF#32) ≠ 1 ∨ 575 < fld v 24 15))) := by
    rintro (op3 | ⟨op2, -⟩) <;> omega
  exact (if_neg (not_not.2 idle)).trans (if_neg legal)

theorem exec_rtRcfgGo_of_mp {k : Fin 38} {s : State} (v : W32) (here : routerHere s.variant k.val = true) :
    exec (.rtRcfgGo .mp k v) s = .next (rcfgGo s k.val v) :=
  congrArg Host.Outcome.next (if_neg (by simp [here]))

/-- A write of a router's reconfiguration by another than the management processor is ignored. -/
theorem exec_rtRcfgGo_of_other {w : Writer} (k : Fin 38) (v : W32) (s : State) (h : w ≠ .mp) :
    exec (.rtRcfgGo w k v) s = .next s :=
  congrArg Host.Outcome.next (if_pos (.inl h))

/-- Phase 1 ends with the named ports disabled (OP 0). -/
theorem exec_rcApply_of_disable {k : Fin 38} {s : State} (quiesce : rdF s R.rtRcfg k.val 0 28 27 = 1)
    (op : fld (rd s R.rtRcfg k.val) 14 13 = 0) :
    exec (.rcApply k) s = .next (raise (resumePorts (wrF (wr s R.rtPortEn k.val 0 (w32 (rd s R.rtPortEn k.val).toNat &&&
      ~~~w32 ((rd s R.rtRcfg k.val).toNat % 2 ^ 13))) R.rtRcfg k.val 0 28 27 0)) E.rt k.val 0) := by
  refine congrArg Host.Outcome.next ((if_neg (not_not.2 quiesce)).trans ?_)
  simp only [op]

/-- A router outside phase 1 has nothing to apply (log entry 5). -/
theorem exec_rcApply_of_idle {k : Fin 38} {s : State} (idle : rdF s R.rtRcfg k.val 0 28 27 ≠ 1) : exec (.rcApply k) s = .next s :=
  congrArg Host.Outcome.next (if_pos idle)

theorem exec_rcQuiesceTimeout_of_quiesce {k : Fin 38} {s : State} (quiesce : rdF s R.rtRcfg k.val 0 28 27 = 1) :
    exec (.rcQuiesceTimeout k) s = .next (raise (resumePorts (wrF s R.rtRcfg k.val 0 28 27 0)) E.rt k.val 1) :=
  congrArg Host.Outcome.next (if_neg (not_not.2 quiesce))

/-- No timeout of phase 1 runs outside it (log entry 5). -/
theorem exec_rcQuiesceTimeout_of_idle {k : Fin 38} {s : State} (idle : rdF s R.rtRcfg k.val 0 28 27 ≠ 1) :
    exec (.rcQuiesceTimeout k) s = .next s :=
  congrArg Host.Outcome.next (if_pos idle)

/-! ## Packets that wait at a port (R366) -/

/-- The waiting packet e of router k discarded and counted, with RC_DROP. -/
def waitDropped (s : State) (k : Nat) (e : Nat × Nat × FPkt) : State :=
  raise (bump (setFab s fun f => { f with portWait := removeFirst (fun x => decide (x = e)) f.portWait }) R.rtCount k 0 1) E.rt k 2

/-- Discarding a packet leaves the port enables of its router. -/
theorem rd_rtPortEn_waitDropped (s : State) {k : Nat} (hk : k < 38) (e : Nat × Nat × FPkt) :
    rd (waitDropped s k e) R.rtPortEn k = rd s R.rtPortEn k :=
  (rd_raise_rtPortEn _ hk 2).trans (rd_bump_rtPortEn (setFab s _) k 0 1)

/-- The packet that waited longest is discarded; at a port that is disabled, as its router then shows it, the hop counts as a bad
one too (log entry 116). -/
theorem exec_rcPortWaitTimeout_of_some {k : Fin 38} {e : Nat × Nat × FPkt} {s : State}
    (h : (s.fab.portWait.find? fun e => decide (e.1 = k.val)) = some e) :
    exec (.rcPortWaitTimeout k) s = .next (if rdB (waitDropped s k.val e) R.rtPortEn k.val 0 e.2.1 then waitDropped s k.val e
      else raise (bump (waitDropped s k.val e) R.rtCount k.val 3 1) E.rt k.val 5) := by
  have enables : rdB (waitDropped s k.val e) R.rtPortEn k.val 0 e.2.1 = rdB s R.rtPortEn k.val 0 e.2.1 :=
    congrArg (bit · e.2.1) (rd_rtPortEn_waitDropped s k.isLt e)
  rw [enables]
  show execRcPortWaitTimeout k s = _
  simp only [execRcPortWaitTimeout, h, waitDropped]

/-- Where no packet waits, none has waited too long (log entry 5). -/
theorem exec_rcPortWaitTimeout_of_none {k : Fin 38} {s : State}
    (h : (s.fab.portWait.find? fun e => decide (e.1 = k.val)) = none) : exec (.rcPortWaitTimeout k) s = .next s := by
  show execRcPortWaitTimeout k s = _
  simp only [execRcPortWaitTimeout, h]

/-! ## Injections (R368, R570) -/

theorem exec_niInjTmo_of_may {w : Writer} {n : Fin 40} {s : State} (may : mayInject s w = true) (here : niHere s.variant n.val = true) :
    exec (.niInjTmo w n) s = .next (wr s R.niInj n.val 0 1) :=
  congrArg Host.Outcome.next (if_pos (by simp [may, here]))

theorem exec_niInjTmo_of_may_not {w : Writer} (n : Fin 40) {s : State} (may : mayInject s w = false) :
    exec (.niInjTmo w n) s = .next s :=
  congrArg Host.Outcome.next (if_neg (by simp [may]))

theorem exec_rtInjArm_of_may {w : Writer} {k : Fin 38} (x : Fin 16) (ue : Bool) {s : State} (may : mayInject s w = true)
    (here : routerHere s.variant k.val = true) :
    exec (.rtInjArm w k x ue) s = .next (wr s R.rtInj k.val 0 (packF [(0, x.val), (4, b2n ue), (5, 1)])) :=
  congrArg Host.Outcome.next (if_pos (by simp [may, here]))

theorem exec_rtInjArm_of_may_not {w : Writer} (k : Fin 38) (x : Fin 16) (ue : Bool) {s : State} (may : mayInject s w = false) :
    exec (.rtInjArm w k x ue) s = .next s :=
  congrArg Host.Outcome.next (if_neg (by simp [may]))

/-! ## Held headers (R247) -/

theorem heldAccept_of_nil {s : State} {b q : Nat} (h : (queueOf s b q).held = []) : heldAccept s b q = s := by
  simp only [heldAccept, h]

/-- The oldest held header, once its words are free and XOFF has ended, is released as its entry check answers. -/
theorem heldAccept_of_fits {s s1 : State} {b q : Nat} {h : W64 × Bool} {l : List (W64 × Bool)} {fails : Bool}
    (held : (queueOf s b q).held = h :: l) (fits : hdrFits s b q h.1 = true) (on : qXoff s b q = false)
    (check : entryCheck (truncate s b q) b q false = (s1, fails)) :
    heldAccept s b q = if fails then syncQStat (heldRelease s1 b q .integrity) b q else acceptHdr (heldRelease s1 b q .ok) b q h.1 := by
  have room : ¬ ((!hdrFits s b q h.1 || qXoff s b q) = true) := by simp [fits, on]
  simp only [heldAccept, held, if_neg room, check]

theorem exec_qHeldHeaderAccept (b : Fin 16) (q : Fin 64) (s : State) :
    exec (.qHeldHeaderAccept b q) s = .next (answerHeld (heldAccept s b.val q.val)) := rfl

/-- Settles O50, row by row from the equations above. The model's choices in it: a row whose condition does not hold changes nothing
(log entry 5); the row that accepts a held header comes once its space is free and XOFF has ended (76); a packet that waited too
long at a disabled port counts as a bad hop too (116), where the port enables read after the discard are those before it. -/
theorem fabricControl : Obligations.FabricControl := by
  refine ⟨?commit, ?commitHost, ?go, ?goHost, ?apply, ?timeout, ?idle, ?wait, ?noWait, ?niInj, ?rtInj, ?noInj, ?held, ?noneHeld⟩
  case commit => exact fun _ e v _ here => exec_routeEntryCommit_of_mp e v here
  case commitHost => exact fun n e v s => exec_routeEntryCommit_of_other n e v s (by decide)
  case go => exact fun k v s here idle op =>
    (exec_rtRcfgGo_of_mp v here).trans (congrArg Host.Outcome.next (rcfgGo_of_enable idle op))
  case goHost => exact fun k v s => exec_rtRcfgGo_of_other k v s (by decide)
  case apply => exact fun _ _ quiesce op => exec_rcApply_of_disable quiesce op
  case timeout => exact fun _ _ quiesce => exec_rcQuiesceTimeout_of_quiesce quiesce
  case idle =>
    intro k s idle
    have notQuiesce : rdF s R.rtRcfg k.val 0 28 27 ≠ 1 := by omega
    exact ⟨exec_rcApply_of_idle notQuiesce, exec_rcQuiesceTimeout_of_idle notQuiesce⟩
  case wait =>
    rintro k e s waits _ rfl
    have drop := exec_rcPortWaitTimeout_of_some waits
    exact ⟨fun on => drop.trans (congrArg Host.Outcome.next (if_pos on)),
      fun off => drop.trans (congrArg Host.Outcome.next (if_neg (Bool.eq_false_iff.1 off)))⟩
  case noWait => exact fun _ _ none_ => exec_rcPortWaitTimeout_of_none none_
  case niInj => exact fun _ _ _ may here => exec_niInjTmo_of_may may here
  case rtInj => exact fun _ _ x ue _ may here => exec_rtInjArm_of_may x ue may here
  case noInj => exact fun _ n k x ue _ may => ⟨exec_niInjTmo_of_may_not n may, exec_rtInjArm_of_may_not k x ue may⟩
  case held =>
    intro b q h fab l s s1 held fits on
    exact ⟨fun sound => congrArg (Host.Outcome.next ∘ answerHeld) (heldAccept_of_fits held fits on sound),
      fun bad => congrArg (Host.Outcome.next ∘ answerHeld) (heldAccept_of_fits held fits on bad)⟩
  case noneHeld =>
    intro b q s none_
    rw [exec_qHeldHeaderAccept, heldAccept_of_nil none_]

end Sys2Proof.Machine
end

section
/-! Packets of the fabric (R344–R357, R364): requests at their source NI, routers, responses and timeouts, rate regulators and wake
buffers, and the proof of O49. -/

namespace Sys2Proof.Machine

/-! ## Requests at their source (R348, R353, R355, R356) -/

/-- NI n takes a request from its initiator: the NI exists, the virtual network is wired, no request of it waits for tokens, and
the domain of the NI is open. -/
structure TakesRequest (s : State) (n vn : Nat) (k : PKind) (a : Nat) : Prop where
  here : niHere s.variant n = true
  wired : vnWired n vn k a = true
  free : vnHeld s n vn = false
  opened : fnState s (niDomain n) = 0

section Requests
variable {s : State} {n vn a len : Nat} {k : PKind}

theorem TakesRequest.not_held_back (t : TakesRequest s n vn k a) :
    ¬ ((!niHere s.variant n) = true ∨ (!vnWired n vn k a) = true ∨ vnHeld s n vn = true ∨ fnState s (niDomain n) ≠ 0) := by
  simp [t.here, t.wired, t.free, t.opened]

theorem requestSend_of_bad (ws : List MWord) (t : TakesRequest s n vn k a) {st : Status} (bad : badRequest k a len = some st) :
    requestSend s n vn k a len ws = answerHere (raise s E.ni n 4) n k len st poisonW := by
  simp only [requestSend, if_neg t.not_held_back, bad]

theorem requestSend_of_miss (ws : List MWord) (t : TakesRequest s n vn k a) (good : badRequest k a len = none)
    (way : wayOf s n a = .miss) : requestSend s n vn k a len ws = answerHere (noteMiss s n) n k len .notPresent poisonW := by
  simp only [requestSend, if_neg t.not_held_back, good, way]

theorem requestSend_of_absent (ws : List MWord) (t : TakesRequest s n vn k a) (good : badRequest k a len = none)
    (way : wayOf s n a = .absent_) : requestSend s n vn k a len ws = answerHere s n k len .ok (cleanW 0) := by
  simp only [requestSend, if_neg t.not_held_back, good, way]

/-- A request on a virtual network that its initiator lacks changes nothing (log entry 115). -/
theorem requestSend_of_not_wired (ws : List MWord) (h : vnWired n vn k a = false) : requestSend s n vn k a len ws = s :=
  if_pos (.inr (.inl (by simp [h])))

/-- The read of an NI takes a slot: its generation moves on and it is outstanding. -/
def readSlotTaken (s : State) (n sl len : Nat) : State :=
  setFab s fun f => { f with
    gens := putKey f.gens (256 * n + sl) (some ((nextGen s n sl + 1) % 256))
    outst := f.outst ++ [{ ni := n, slot := sl, gen := nextGen s n sl, len := len, rd := true, fc := false, remote := false }] }

/-- A read along a route on the die takes the lowest free slot and goes to the regulator. -/
theorem requestSend_of_read (ws : List MWord) (t : TakesRequest s n vn .rd a) (good : badRequest .rd a len = none) {d sl : Nat} {e : RtEntry}
    (way : wayOf s n a = .send d e) (onDie : d ≠ 63) (slot : freeSlot s n = some sl) (armed : tmoArmed s n = false) :
    requestSend s n vn .rd a len ws = regulate (readSlotTaken s n sl len) n
      (mkPkt e n d vn .rd false a len sl (nextGen s n sl) [] (ownId s)) := by
  have notArmed (f : Fabric → Fabric) : tmoArmed (setFab s f) n = false := armed
  have noFc : ((decide (PKind.rd = .wr) || decide (PKind.rd = .wrp)) && isPush a) = false := rfl
  simp only [requestSend, if_neg t.not_held_back, good, way, slot, notArmed, noFc, if_true, onDie, decide_true,
    decide_false, Bool.false_eq_true, false_and, if_false]
  rfl

/-- Nothing waits at a regulator without a rate: the packet leaves at once. -/
theorem regulate_of_free {p : FPkt} (empty : (s.fab.queued.any fun e => decide (e.1 = n) && decide (e.2.vn = p.vn)) = false)
    (rate : rateOf s n p.vn = 0) : regulate s n p = launch s n p := by
  have noneBefore : (s.fab.queued.any fun e => decide (e.1 = n) && decide (e.2.vn = p.vn) && (!isResp p || isResp e.2)) = false := by
    rw [List.any_eq_false] at empty ⊢
    intro e he before
    exact empty e he (Bool.and_eq_true_iff.1 before).1
  simp only [regulate, noneBefore, if_pos rate, Bool.false_eq_true, if_false]

/-- An empty regulator holds no request back. -/
theorem vnHeld_of_empty (empty : (s.fab.queued.any fun e => decide (e.1 = n) && decide (e.2.vn = vn)) = false) :
    vnHeld s n vn = false := by
  rw [List.any_eq_false] at empty
  rw [vnHeld, List.any_eq_false]
  intro e he held
  exact empty e he (Bool.and_eq_true_iff.1 held).1

end Requests

theorem badRequest_of_long (k : PKind) (a : Nat) {len : Nat} (long : 33 ≤ len) : badRequest k a len = some .lengthRange :=
  (if_neg fun zero => by omega).trans (if_pos long)

/-- Only the host link's NI turns an answer into data all ones (R423). -/
theorem niAnswer_of_ne_host {n : Nat} (st : Status) (ws : List MWord) (s : State) (h : n ≠ 39) :
    niAnswer s n st ws = setFab s fun f => { f with answers := f.answers ++ [{ ni := n, status := st, words := ws }] } := by
  have kept : barLost n st = false := by simp [barLost, h]
  simp only [niAnswer, kept, Bool.false_and, Bool.false_eq_true, if_false]

/-! ## Routers (R344, R347, R350, R366) -/

/-- Router k has taken packet p off the link: the port that it names has served its network. -/
def packetTaken (s : State) (k : Nat) (p : FPkt) : State :=
  takeTurn (setFab s fun f => { f with flight := removeFirst (fun x => decide (x = p)) f.flight }) k (p.route % 16) p.vn

/-- Taking a packet changes the fabric's lists alone. -/
theorem packetTaken_eq_setFab (s : State) (k : Nat) (p : FPkt) : ∃ f, packetTaken s k p = setFab s f := by
  unfold packetTaken takeTurn
  split
  · exact ⟨fun f => { f with flight := _ }, rfl⟩
  · exact ⟨fun f => { f with flight := _, turn := putKey f.turn _ _ }, rfl⟩

theorem packetTaken_of_home {s : State} {k : Nat} {p : FPkt} (home : p.route % 16 = 0) : packetTaken s k p =
    takeTurn (setFab s fun f => { f with flight := removeFirst (fun x => decide (x = p)) f.flight }) k 0 p.vn :=
  congrArg (takeTurn _ k · p.vn) home

theorem packetTaken_variant (s : State) (k : Nat) (p : FPkt) : (packetTaken s k p).variant = s.variant := by
  obtain ⟨f, h⟩ := packetTaken_eq_setFab s k p
  rw [h, setFab_variant]

theorem linkStopped_packetTaken (s : State) (k : Nat) (p : FPkt) (x : Nat) : linkStopped (packetTaken s k p) k x = linkStopped s k x := by
  obtain ⟨f, h⟩ := packetTaken_eq_setFab s k p
  rw [h]
  rfl

theorem rdB_packetTaken (s : State) (k : Nat) (p : FPkt) (r : Reg) (u i b : Nat) : rdB (packetTaken s k p) r u i b = rdB s r u i b := by
  obtain ⟨f, h⟩ := packetTaken_eq_setFab s k p
  rw [h]
  rfl

/-- Words of which none is marked uncorrectable arrive as they were sent. -/
theorem words_of_no_mark (ws : List MWord) : (ws.zipIdx.map fun w => (w.1.1, w.1.2 || bit (0 : W32) w.2)) = ws := by
  have same : (fun w : MWord × Nat => (w.1.1, w.1.2 || bit (0 : W32) w.2)) = Prod.fst := by
    funext w
    simp [bit]
  rw [same, List.zipIdx_map_fst]

/-- Router k sends packet p along the port of its first hop, with the corruption that is armed there (R570). -/
def packetForwarded (s : State) (k : Nat) (p : FPkt) : State :=
  let x := p.route % 16
  let fire := rdB s R.rtInj k 0 5 && decide (rdF s R.rtInj k 0 3 0 = x)
  let s1 := if fire then wrB s R.rtInj k 0 5 false else s
  setFab s1 fun f => { f with flight := f.flight ++ [{ p with
    route := p.route / 16, hops := p.hops - 1, at_ := (routerPort s1.variant k x).getD k,
    hit := if fire then (if rdB s1 R.rtInj k 0 4 then 2 else 1) else 0 }] }

/-- Where no corruption is armed the packet leaves as it is, one hop shorter. -/
theorem packetForwarded_of_port {s : State} {k nb : Nat} {p : FPkt} (sound : p.hit = 0) (port : routerPort s.variant k (p.route % 16) = some nb)
    (unarmed : rdB s R.rtInj k 0 5 = false) : packetForwarded s k p = setFab s fun f => { f with
      flight := f.flight ++ [{ p with route := p.route / 16, hops := p.hops - 1, at_ := nb }] } := by
  simp only [packetForwarded, unarmed, port, Bool.false_and, Bool.false_eq_true, if_false, Option.getD_some, sound]

/-- Router k goes on with a sound packet that it has taken: a hop that it cannot follow, a stopped link, its own NI, or the link. -/
def routeOn (s : State) (k : Nat) (p : FPkt) : State :=
  let x := p.route % 16
  if x ≠ 0 && ((routerPort s.variant k x).isNone || decide (p.hops ≤ 1)) then raise (bump s R.rtCount k 3 1) E.rt k 5
  else if linkStopped s k x then setFab s fun f => { f with portWait := f.portWait ++ [(k, x, p)] }
  else if x = 0 then deliverPkt s p
  else packetForwarded s k p

/-- A packet that comes over a sound link is taken, and goes on by its hop. -/
theorem routerRx_of_sound {s : State} {k : Nat} {p : FPkt} (closed : openingAt s k = none) (next : nextPkt s k = some p)
    (sound : p.hit = 0) : routerRx s k 0 false 0 = routeOn (packetTaken s k p) k p := by
  obtain ⟨⟩ := p
  subst sound
  simp only [routerRx, closed, next, words_of_no_mark, ne_eq, not_true_eq_false, decide_false, Bool.or_false]
  rfl

theorem routerRx_of_opening {s : State} {k d : Nat} (ce : Nat) (h : Bool) (u : W32) (opening : openingAt s k = some d) :
    routerRx s k ce h u = deliverHeld s d := by
  simp only [routerRx, opening]

/-- A router without a packet changes nothing (log entry 5). -/
theorem routerRx_of_none {s : State} {k : Nat} (ce : Nat) (h : Bool) (u : W32) (closed : openingAt s k = none)
    (none_ : nextPkt s k = none) : routerRx s k ce h u = s := by
  simp only [routerRx, closed, none_]

section Routers
variable {s : State} {k : Nat} {p : FPkt}

/-- The router can follow a hop to its own NI, and one along a port that it has while hops are left. -/
theorem routeOn_of_followed (h : p.route % 16 = 0 ∨ ((routerPort s.variant k (p.route % 16)).isSome = true ∧ 1 < p.hops)) :
    routeOn s k p = if linkStopped s k (p.route % 16) then setFab s fun f => { f with portWait := f.portWait ++ [(k, p.route % 16, p)] }
      else if p.route % 16 = 0 then deliverPkt s p else packetForwarded s k p := by
  refine if_neg fun bad => ?_
  rcases h with atHome | ⟨port, hops⟩
  · simp [atHome] at bad
  · have noPort : (routerPort s.variant k (p.route % 16)).isNone = false := by simpa using port
    simp [noPort, Nat.not_le_of_lt hops] at bad

variable (closed : openingAt s k = none) (next : nextPkt s k = some p) (sound : p.hit = 0)
include closed next sound

/-- A hop that names no port, or one too many, is counted as bad, and the packet discarded. -/
theorem routerRx_of_bad (hop : p.route % 16 ≠ 0) (bad : routerPort s.variant k (p.route % 16) = none ∨ p.hops ≤ 1) :
    routerRx s k 0 false 0 = raise (bump (packetTaken s k p) R.rtCount k 3 1) E.rt k 5 := by
  refine (routerRx_of_sound closed next sound).trans (if_pos ?_)
  rw [packetTaken_variant]
  rcases bad with noPort | hops
  · simp [hop, noPort]
  · simp [hop, hops]

/-- A packet for a stopped link waits at its port. -/
theorem routerRx_of_stopped (followed : p.route % 16 = 0 ∨ ((routerPort s.variant k (p.route % 16)).isSome = true ∧ 1 < p.hops))
    (stopped : linkStopped s k (p.route % 16) = true) : routerRx s k 0 false 0 = setFab (packetTaken s k p) fun f => { f with
      portWait := f.portWait ++ [(k, p.route % 16, p)] } := by
  rw [← packetTaken_variant s k p] at followed
  rw [← linkStopped_packetTaken s k p] at stopped
  rw [routerRx_of_sound closed next sound, routeOn_of_followed followed, if_pos stopped]

/-- A packet whose hop is port 0 is handed to the router's own NI. -/
theorem routerRx_of_home (home : p.route % 16 = 0) (passes : linkStopped s k 0 = false) :
    routerRx s k 0 false 0 = deliverPkt (packetTaken s k p) p := by
  have passes' : ¬ linkStopped (packetTaken s k p) k (p.route % 16) = true := by simp [linkStopped_packetTaken, home, passes]
  rw [routerRx_of_sound closed next sound, routeOn_of_followed (.inl home), if_neg passes', if_pos home]

/-- A packet whose hop names a port with hops left goes to the router at its far end. -/
theorem routerRx_of_port {nb : Nat} (hop : p.route % 16 ≠ 0) (port : routerPort s.variant k (p.route % 16) = some nb) (hops : 1 < p.hops)
    (passes : linkStopped s k (p.route % 16) = false) (unarmed : rdB s R.rtInj k 0 5 = false) :
    routerRx s k 0 false 0 = setFab (packetTaken s k p) fun f => { f with
      flight := f.flight ++ [{ p with route := p.route / 16, hops := p.hops - 1, at_ := nb }] } := by
  rw [← packetTaken_variant s k p] at port
  rw [← rdB_packetTaken s k p] at unarmed
  have passes' : ¬ linkStopped (packetTaken s k p) k (p.route % 16) = true := by simp [linkStopped_packetTaken, passes]
  have followed := routeOn_of_followed (.inr ⟨Option.isSome_of_eq_some port, hops⟩)
  rw [routerRx_of_sound closed next sound, followed, if_neg passes', if_neg hop, packetForwarded_of_port sound port unarmed]

end Routers

/-! ## Responses and timeouts (R356, R357) -/

section Responses
variable {s : State} {n : Nat} {p : FPkt} {o : Outst}

/-- A response that no slot of its generation waits for is late. -/
theorem takeResp_of_late (late : ((bump s R.niCount n 1 1).fab.outst.find? fun o =>
    decide (o.ni = n) && decide (o.slot = p.slot) && decide (o.gen = p.gen)) = none) :
    takeResp s n p = noteLate (bump s R.niCount n 1 1) n := by
  simp only [takeResp, late]

variable (awaited : ((bump s R.niCount n 1 1).fab.outst.find? fun o =>
    decide (o.ni = n) && decide (o.slot = p.slot) && decide (o.gen = p.gen)) = some o) (sound : p.inj = false)
include awaited sound

/-- A response that a slot waits for frees the slot and goes to the NI's initiator. -/
theorem takeResp_of_initiator (own : o.eng = none) : takeResp s n p = niAnswer (setFab (bump s R.niCount n 1 1) fun f => { f with
    outst := removeFirst (fun x => decide (x = o)) f.outst }) n p.status p.words := by
  simp only [takeResp, awaited, own, sound, raiseIf, Bool.false_eq_true, if_false]

/-- The response to an engine's request goes to the engine. -/
theorem takeResp_of_engine {c : EngAcc} (engine : o.eng = some c) : takeResp s n p = setFab (bump s R.niCount n 1 1) fun f => { f with
    outst := removeFirst (fun x => decide (x = o)) f.outst, engAns := f.engAns ++ [(c, p.status, p.words)] } := by
  simp only [takeResp, awaited, engine, sound, raiseIf, Bool.false_eq_true, if_false]
  rfl

end Responses

theorem exec_niResponseRx_of_some {n : Fin 40} {s : State} {p : FPkt}
    (h : (s.fab.flight.find? fun p => decide (p.at_ = 64 + n.val)) = some p) : exec (.niResponseRx n) s =
    .next (takeResp (setFab s fun f => { f with flight := removeFirst (fun x => decide (x = p)) f.flight }) n.val p) := by
  show execNiResponseRx n s = _
  simp only [execNiResponseRx, h]

section Timeouts
variable {n : Fin 40} {sl : Fin 256} {s : State} {o : Outst}

/-- No timer runs for a slot that is free or holds a push (R253, log entry 5). -/
theorem exec_niTimeout_of_none
    (h : (s.fab.outst.find? fun o => decide (o.ni = n.val) && decide (o.slot = sl.val) && !o.fc) = none) :
    exec (.niTimeout n sl) s = .next s := by
  show execNiTimeout n sl s = _
  simp only [execNiTimeout, h]

variable (slot : (s.fab.outst.find? fun o => decide (o.ni = n.val) && decide (o.slot = sl.val) && !o.fc) = some o) (read : o.rd = true)
include slot read

theorem exec_niTimeout_of_initiator (own : o.eng = none) : exec (.niTimeout n sl) s = .next (niAnswer (noteTimeout (setFab s fun f =>
    { f with outst := removeFirst (fun x => decide (x = o)) f.outst }) n.val false) n.val .timeout (List.replicate o.len poisonW)) := by
  show execNiTimeout n sl s = _
  simp only [execNiTimeout, slot, own, read, if_true]

theorem exec_niTimeout_of_engine {c : EngAcc} (engine : o.eng = some c) : exec (.niTimeout n sl) s =
    .next (setFab (noteTimeout (setFab s fun f => { f with outst := removeFirst (fun x => decide (x = o)) f.outst }) n.val false)
      fun f => { f with engAns := f.engAns ++ [(c, .timeout, List.replicate o.len poisonW)] }) := by
  show execNiTimeout n sl s = _
  simp only [execNiTimeout, slot, engine, read, if_true]

end Timeouts

/-! ## Rate regulators (R355) -/

/-- Where nothing waits, the cycles fill the bucket. -/
theorem tokenRun_of_none {s : State} {n v : Nat} (fuel cycles : Nat) (none_ : nextQueued s n v = none) :
    tokenRun (fuel + 1) s n v cycles =
      setTokens s n v (Nat.min (tokensOf s n v + rateOf s n v * cycles) (burstOf s n v)) := by
  simp only [tokenRun, none_]

/-- Too few cycles for the tokens that are missing: fewer than the quotient, rounded up, at which enough have come in. -/
theorem lt_cycles_of_short {t rate cycles cost : Nat} (rated : rate ≠ 0) (short : t + rate * cycles < cost) :
    cycles < (cost - t + rate - 1) / rate := by
  rw [Nat.lt_iff_add_one_le, Nat.le_div_iff_mul_le (by omega), Nat.succ_mul, Nat.mul_comm]
  omega

/-- While the tokens do not suffice, the cycles fill the bucket and count as a stall. -/
theorem tokenRun_of_short {s : State} {n v cycles : Nat} {e : Nat × FPkt} (fuel : Nat) (waits : nextQueued s n v = some e)
    (rated : rateOf s n v ≠ 0) (short : tokensOf s n v + rateOf s n v * cycles < 256 * flitCount e.2) :
    tokenRun (fuel + 1) s n v cycles = bump (setTokens s n v (Nat.min (tokensOf s n v + rateOf s n v * cycles) (burstOf s n v)))
      R.niCount n 6 cycles := by
  have missing : ¬ (rateOf s n v = 0 ∨ 256 * flitCount e.2 ≤ tokensOf s n v) := by omega
  simp only [tokenRun, waits, if_neg missing, if_pos (lt_cycles_of_short rated short)]

/-! ## Wake buffers (R364) -/

/-- The last packet held for a domain that stays shut is answered FENCED. -/
theorem exec_wbExpire_of_last {d : Fin 39} {p : FPkt} {s : State} (shut : s.fab.opening.contains d.val = false)
    (held : (assoc s.fab.wake d.val).getD [] = [p]) : exec (.wbExpire d) s =
    .next (answerFenced (raise (raise (setFab s fun f => { f with wake := putKey f.wake d.val none }) E.rt (spineRouter d.val) 7)
      E.ni p.dst 3) p.dst p) := by
  show execWbExpire d s = _
  simp only [execWbExpire, shut, held, List.isEmpty_nil, Bool.false_eq_true, if_false, if_true]

/-- A domain for which no packet is held has none that waited too long (log entry 5). -/
theorem exec_wbExpire_of_none {d : Fin 39} {s : State} (none_ : assoc s.fab.wake d.val = none) : exec (.wbExpire d) s = .next s := by
  show execWbExpire d s = _
  simp only [execWbExpire, none_, Option.getD_none, ite_self]

/-- Settles O49, row by row from the equations above. The model's choices in it: a request on a virtual network that its initiator
lacks changes nothing (log entry 115), as does a row whose condition does not hold (5); a packet for a stopped port waits before it
is discarded (116); a router takes one packet in a row (87), and fabric cycles come with the row that brings tokens (88). -/
theorem fabricPackets : Obligations.FabricPackets := by
  refine ⟨?send, ?refuse, ?answer, ?notWired, ?home, ?forward, ?stopped, ?bad, ?opening, ?noPacket, ?response, ?timeout, ?noTimer,
    ?accrue, ?stall, ?expire, ?noneHeld⟩
  case send =>
    intro n vn fc a len ws d sl e s here wired empty opened good way onDie slot armed rate
    have takes : TakesRequest s n.val vn.val .rd (8 * a.toNat) := ⟨here, wired, vnHeld_of_empty empty, opened⟩
    exact congrArg Host.Outcome.next ((requestSend_of_read ws takes good way onDie slot armed).trans (regulate_of_free empty rate))
  case refuse =>
    intro n vn fc a len ws s here wired free opened
    have takes : TakesRequest s n.val vn.val .rd (8 * a.toNat) := ⟨here, wired, free, opened⟩
    exact ⟨fun long => congrArg Host.Outcome.next (requestSend_of_bad ws takes (badRequest_of_long .rd _ long)),
      fun good way => congrArg Host.Outcome.next (requestSend_of_miss ws takes good way),
      fun good way => congrArg Host.Outcome.next (requestSend_of_absent ws takes good way)⟩
  case answer => exact fun _ st ws s notHost => niAnswer_of_ne_host st ws s notHost
  case notWired => exact fun _ _ _ _ _ ws _ h => congrArg Host.Outcome.next (requestSend_of_not_wired ws h)
  case home =>
    intro k p s closed next sound home passes
    rw [← packetTaken_of_home home]
    exact congrArg Host.Outcome.next (routerRx_of_home closed next sound home passes)
  case forward =>
    intro k p nb s closed next sound hop port hops passes unarmed
    exact congrArg Host.Outcome.next (routerRx_of_port closed next sound hop port hops passes unarmed)
  case stopped =>
    intro k p s closed next sound followed stopped
    exact congrArg Host.Outcome.next (routerRx_of_stopped closed next sound followed stopped)
  case bad => exact fun _ _ _ closed next sound hop bad => congrArg Host.Outcome.next (routerRx_of_bad closed next sound hop bad)
  case opening => exact fun _ _ c h u _ opening => congrArg Host.Outcome.next (routerRx_of_opening c.val h u opening)
  case noPacket => exact fun _ c h u _ closed none_ => congrArg Host.Outcome.next (routerRx_of_none c.val h u closed none_)
  case response =>
    rintro n p o s _ arrives rfl
    have takes := exec_niResponseRx_of_some arrives
    refine ⟨fun awaited sound => ⟨fun own => ?_, fun c engine => ?_⟩, fun late => ?_⟩
    · exact takes.trans (congrArg Host.Outcome.next (takeResp_of_initiator awaited sound own))
    · exact takes.trans (congrArg Host.Outcome.next (takeResp_of_engine awaited sound engine))
    · exact takes.trans (congrArg Host.Outcome.next (takeResp_of_late late))
  case timeout => exact fun _ _ _ _ slot read => ⟨exec_niTimeout_of_initiator slot read, fun _ => exec_niTimeout_of_engine slot read⟩
  case noTimer => exact fun _ _ _ none_ => exec_niTimeout_of_none none_
  case accrue => exact fun _ _ c s none_ => congrArg Host.Outcome.next (tokenRun_of_none s.fab.queued.length c.val none_)
  case stall => exact fun _ _ _ _ s waits rated short => congrArg Host.Outcome.next (tokenRun_of_short s.fab.queued.length waits rated short)
  case expire => exact fun _ _ _ shut held => exec_wbExpire_of_last shut held
  case noneHeld => exact fun _ _ none_ => exec_wbExpire_of_none none_

end Sys2Proof.Machine
end

section
/-! The training of a lane (R383–R388): what the blocks of phases 4 and 5 leave alone, what each phase does when its condition is
met, what ends an attempt, a backoff or electrical idle, and the proof of O43. -/

namespace Sys2Proof.Machine

/-! ## Rows about a lane -/

/-- A row about a lane that the variant has takes its effect, and MACs, ports and the Hoist follow. -/
theorem onLane_of_here {s t u : State} {n : Nat} (here : laneHere s.variant n = true) (e : t = u) :
    onLane s n t = .next (lanesMoved u) := by
  rw [onLane, if_pos here, e]

theorem onLane_of_absent {s t : State} {n : Nat} (absent : laneHere s.variant n = false) : onLane s n t = .next s := by
  rw [onLane, if_neg (by simp [absent])]

/-! ## The state of a lane while blocks come in (R379) -/

/-- The status of a lane is none of the registers that its events change. -/
theorem laneStat_key_not_mem_evtKeys (n : Nat) : R.laneStat.key n 0 ∉ evtKeys E.lane n 0 := by
  simp only [evtKeys, emitKeys, E.lane, Reg.key, Reg.next, R.laneStat, R.laneEvt, R.laneEvtCnt, R.laneB, R.pnEvseq, R.pnCount, R.pnEvt,
    R.pnEvtCnt, R.pnB, Option.map_some, Option.toList_some, List.cons_append, List.nil_append, List.mem_cons, List.not_mem_nil, or_false]
  omega

theorem laneState_raise (s : State) (n k : Nat) : laneState (raise s E.lane n k) n = laneState s n :=
  congrArg (fld · 3 0) (rd_raise_of_not_mem s k (laneStat_key_not_mem_evtKeys n))

theorem laneState_bump_lnCount (s : State) (n i k : Nat) : laneState (bump s R.lnCount n i k) n = laneState s n := by
  refine congrArg (fld · 3 0) (rd_bump_ne s k ?low ?high) <;>
    simp only [Reg.key, Reg.next, R.laneStat, R.lnCount, R.laneB] <;> omega

/-- Wrong stuffed symbols are counted and reported and leave the state of their lane. -/
theorem laneState_stuffErrs (s : State) (n wrong : Nat) : laneState (stuffErrs s n wrong) n = laneState s n := by
  have reports (l : List Nat) (t : State) : laneState (l.foldl (fun a _ => raise a E.lane n 7) t) n = laneState t n := by
    induction l generalizing t with
    | nil => rfl
    | cons _ l ih => exact (ih _).trans (laneState_raise t n 7)
  exact (reports _ _).trans (laneState_bump_lnCount s n 5 wrong)

/-- Blocks that come in during training leave the state of their lane. -/
theorem laneState_trainBlocks (n : Nat) (bs : List Block) (s : State) : laneState (trainBlocks s n bs) n = laneState s n := by
  induction bs generalizing s with
  | nil => rfl
  | cons b bs ih => exact (ih _).trans (laneState_stuffErrs ..)

/-! ## The condition of a phase is met (R383) -/

section Phases
variable {s : State} {n : Nat} (freq : W32) (eqv : List W16) (skew : Bool) (sync : List Block)

theorem phasePass_of_sigdet (phase : laneState s n = 1) (signal : rdB s R.laneStat n 0 7 = false) :
    phasePass s n freq eqv skew sync = setLaneState s n 2 := by
  simp [phasePass, phase, signal]

theorem phasePass_of_cdr (phase : laneState s n = 2) (eth : laneRole s n = 1) :
    phasePass s n freq eqv skew sync = setLaneState (wr s R.lnFreq n 0 freq) n 3 := by
  simp [phasePass, phase, eth]

theorem phasePass_of_eq (phase : laneState s n = 3) : phasePass s n freq eqv skew sync =
    modLaneSt (setLaneState s n 4) n fun x => { x with eq := eqv.take 18, txRun := (0, 0), rxRun := (0, 0) } := by
  simp [phasePass, phase]

theorem blockMet_of_not_lace (role : laneRole s n ≠ 2) : blockMet s n = setLaneState s n 6 := if_pos role

theorem phasePass_of_block (phase : laneState s n = 4) (role : laneRole s n ≠ 2) :
    phasePass s n freq eqv skew sync = setLaneState s n 6 := by
  simp [phasePass, phase, role, blockMet_of_not_lace role]

/-- A Lace lane in phase 4 takes the blocks received, and fails its attempt where its port's lanes are too far apart. -/
theorem phasePass_of_block_lace (phase : laneState s n = 4) (lace : laneRole s n = 2) :
    phasePass s n freq eqv skew sync =
      if skew then failAttempt (trainBlocks s n sync) n 5 else blockMet (trainBlocks s n sync) n := by
  simp [phasePass, phase, lace, laneState_trainBlocks]

theorem phasePass_of_descr (phase : laneState s n = 5) (role : laneRole s n ≠ 2) :
    phasePass s n freq eqv skew sync = setLaneState s n 6 := by
  simp [phasePass, phase, role]

theorem phasePass_of_descr_lace (phase : laneState s n = 5) (lace : laneRole s n = 2) :
    phasePass s n freq eqv skew sync = descrMet (trainBlocks s n sync) n sync := by
  simp [phasePass, phase, lace, laneState_trainBlocks]

theorem phasePass_of_handshake (phase : laneState s n = 6) (role : laneRole s n ≠ 2) (sends : receiveOnly s n = false) :
    phasePass s n freq eqv skew sync = laneUp s n := by
  simp [phasePass, phase, role, sends]

/-- The load of a Lace lane's descrambler that the payload bits of the SYNC blocks received confirm (R377). -/
def syncLoad (bs : List Block) : Option W32 :=
  syncOf ((bs.filter fun b => decide ((typeOf b.typ).map (fun x => x.1) = some tSYNC)).map fun b => b.payload.flatMap bitsOf)

theorem descrMet_of_none (s : State) (n : Nat) {bs : List Block} (load : syncLoad bs = none) :
    descrMet s n bs = syncOut s n bs.length := by
  unfold syncLoad at load
  simp only [descrMet, load]

theorem descrMet_of_some (s : State) (n : Nat) {bs : List Block} {w : W32} (load : syncLoad bs = some w) :
    descrMet s n bs = modLaneSt (setLaneState (syncOut s n bs.length) n 6) n fun x => { x with rxScr := w } := by
  unfold syncLoad at load
  simp only [descrMet, load]

end Phases

/-! ## The rows of training (R383–R385) -/

section Rows
variable {n : Fin 256} {s : State}

theorem exec_trainingPhasePass_of_here {f : W32} {e : List W16} {k : Bool} {bs : List Block} {t : State}
    (here : laneHere s.variant n.val = true) (pass : phasePass s n.val f e k bs = t) :
    exec (.trainingPhasePass n f e k bs) s = .next (lanesMoved (linkSync t n.val)) :=
  onLane_of_here here (by rw [pass])

section Here
variable (here : laneHere s.variant n.val = true)
include here

theorem exec_trainingPhaseTimeout_of_phase {ph : Fin 7} (sends : receiveOnly s n.val = false) (phase : laneState s n.val = ph.val) :
    exec (.trainingPhaseTimeout ⟨n, ph⟩) s = .next (lanesMoved (failAttempt s n.val 1)) :=
  onLane_of_here here (if_neg (by simp [sends, phase]))

/-- The timeout of a phase that the lane has passed changes nothing on it (log entry 140). -/
theorem exec_trainingPhaseTimeout_of_passed {ph : Fin 7} (passed : laneState s n.val ≠ ph.val) :
    exec (.trainingPhaseTimeout ⟨n, ph⟩) s = .next (lanesMoved s) :=
  onLane_of_here here (if_pos (.inr passed))

theorem exec_backoffEnd_of_backoff (backoff : laneState s n.val = 8) :
    exec (.backoffEnd n) s = .next (lanesMoved (linkSync (beginAttempt s n.val false) n.val)) :=
  onLane_of_here here (if_pos backoff)

theorem exec_noPartnerRetry_of_first (noPartner : laneState s n.val = 9) (first : (laneSt s n.val).retried = false) :
    exec (.noPartnerRetry n) s = .next (lanesMoved (linkSync (beginAttempt (modLaneSt s n.val
      fun x => { x with retried := true }) n.val false) n.val)) :=
  onLane_of_here here (if_pos ⟨noPartner, .inr first⟩)

theorem exec_eqBgStep_of_up {i : Fin 13} {v : W16} (up : laneState s n.val = 7) (on : rdB s R.laneCtl n.val 0 8 = true) :
    exec (.eqBgStep n i v) s = .next (lanesMoved (modLaneSt s n.val fun x => { x with eq := setNth x.eq i.val v })) :=
  onLane_of_here here (if_pos ⟨up, on⟩)

/-! ## Electrical idle (R387, R388) -/

theorem exec_eiEntry_of_request {p : Nat} (port : lanePort s n.val = some p) (lace : laneRole s n.val = 2) (up : laneState s n.val = 7)
    (line : portRing s p = false) (upstream : rdB s R.lcStat p 0 3 = false) (downstream : rdB s R.lcStat p 0 4 = false)
    (others : ∀ k ∈ portLanes s p, laneState s k = 7 ∨ laneState s k = 10) (asked : (portOf s p).eiReq = true) :
    exec (.eiEntry n) s = .next (lanesMoved (linkSync (setLaneState s n.val 10) n.val)) := by
  refine onLane_of_here here ?_
  rw [port]
  exact if_pos ⟨lace, up, by simpa [line, upstream, downstream, asked] using others⟩

theorem exec_eiExitRequest_of_waiting {p : Nat} (idle : laneState s n.val = 10) (port : lanePort s n.val = some p)
    (waits : (portOf s p).txq ≠ []) (stays : (laneSt s n.val).exiting = false) : exec (.eiExitRequest n) s =
    .next (lanesMoved (modLaneSt s n.val fun x => { x with exiting := true, line := x.line ++ exitBurst (portL56 s p) })) := by
  refine onLane_of_here here ?_
  rw [port]
  exact if_pos ⟨idle, waits, stays⟩

theorem exec_eiSync64Missing_of_idle (idle : laneState s n.val = 10) :
    exec (.eiSync64Missing n) s = .next (lanesMoved (retrain (raise s E.lane n.val 8) n.val)) :=
  onLane_of_here here (if_pos idle)

/-- A lane of no port has left electrical idle when its exit is complete. -/
theorem exec_eiExitComplete_of_no_port {t : State} (idle : laneState s n.val = 10)
    (left : linkSync (bump (modLaneSt (setLaneState s n.val 7) n.val fun x => { x with exiting := false }) R.lnCount n.val 6 1) n.val = t)
    (port : lanePort t n.val = none) : exec (.eiExitComplete n) s = .next (lanesMoved t) := by
  refine onLane_of_here here ((if_neg (not_not.2 idle)).trans ?_)
  simp only [left, port]

theorem exec_laneRetrainBit_of_here (w : Writer) :
    exec (.laneRetrainBit w n) s = .next (lanesMoved (if w = .mp then retrainCmd s n.val else s)) :=
  onLane_of_here here rfl

end Here
end Rows

/-- Settles O43, phase by phase and row by row from the equations above. The model's choices in it: a row about an absent lane changes
nothing (log entry 5), the measurements and blocks of a phase come with its row (89), a Lace lane answers SYNC blocks by as many of its
own (137), and a timeout names its phase (140). -/
theorem laneTraining : Obligations.LaneTraining := by
  refine ⟨?sigdet, ?cdr, ?eq, ?block, ?descr, ?blockLace, ?unsynced, ?synced, ?handshake, ?absent, ?timeout, ?passed, ?backoff, ?retry,
    ?background, ?enterIdle, ?leaveIdle, ?missing, ?left, ?bit⟩
  case sigdet => exact fun _ _ _ _ _ _ here phase signal => exec_trainingPhasePass_of_here here (phasePass_of_sigdet _ _ _ _ phase signal)
  case cdr => exact fun _ _ _ _ _ _ here phase eth => exec_trainingPhasePass_of_here here (phasePass_of_cdr _ _ _ _ phase eth)
  case eq => exact fun _ _ _ _ _ _ here phase => exec_trainingPhasePass_of_here here (phasePass_of_eq _ _ _ _ phase)
  case block =>
    intro n f e k bs s here phase eth
    exact exec_trainingPhasePass_of_here here (phasePass_of_block _ _ _ _ phase (by simp [eth]))
  case descr => exact fun _ _ _ _ _ _ here phase role => exec_trainingPhasePass_of_here here (phasePass_of_descr _ _ _ _ phase role)
  case blockLace =>
    intro n f e bs s here phase lace
    exact ⟨exec_trainingPhasePass_of_here here (phasePass_of_block_lace f e false bs phase lace),
      exec_trainingPhasePass_of_here here (phasePass_of_block_lace f e true bs phase lace)⟩
  case unsynced =>
    intro n f e k bs s here phase lace load
    exact exec_trainingPhasePass_of_here here ((phasePass_of_descr_lace _ _ _ _ phase lace).trans (descrMet_of_none _ _ load))
  case synced =>
    intro n f w e k bs s here phase lace load
    exact exec_trainingPhasePass_of_here here ((phasePass_of_descr_lace _ _ _ _ phase lace).trans (descrMet_of_some _ _ load))
  case handshake =>
    intro n f e k bs s here phase eth sends
    exact exec_trainingPhasePass_of_here here (phasePass_of_handshake _ _ _ _ phase (by simp [eth]) sends)
  case absent =>
    exact fun _ _ _ _ _ _ absent => ⟨onLane_of_absent absent, fun _ => onLane_of_absent absent, onLane_of_absent absent⟩
  case timeout => exact fun _ _ _ here sends phase => exec_trainingPhaseTimeout_of_phase here sends phase
  case passed => exact fun _ _ _ here passed => exec_trainingPhaseTimeout_of_passed here passed
  case backoff => exact fun _ _ here backoff => exec_backoffEnd_of_backoff here backoff
  case retry => exact fun _ _ here noPartner first => exec_noPartnerRetry_of_first here noPartner first
  case background => exact fun _ _ _ _ here up on => exec_eqBgStep_of_up here up on
  case enterIdle =>
    exact fun _ _ _ here port lace up line upstream downstream others asked =>
      exec_eiEntry_of_request here port lace up line upstream downstream others asked
  case leaveIdle => exact fun _ _ _ here idle port waits stays => exec_eiExitRequest_of_waiting here idle port waits stays
  case missing => exact fun _ _ here idle => exec_eiSync64Missing_of_idle here idle
  case left => exact fun _ _ _ here idle left port => exec_eiExitComplete_of_no_port here idle left port
  case bit => exact fun _ _ here => ⟨exec_laneRetrainBit_of_here here .mp, exec_laneRetrainBit_of_here here .host⟩

end Sys2Proof.Machine
end

section
/-! The detectors of a lane, the injections, PLLs and references of its quad, the recovered-clock tracks, the checkers and the error
injector (R375, R381, R382, R390, R391, R394, R570): what each does in each case of O44, and its proof. -/

namespace Sys2Proof.Machine

/-! ## LOS and LOL (R381, R382) -/

/-- A detector that no injection forces takes its change as it is. -/
theorem detectorChange_of_free {s : State} {n kind : Nat} {on : Bool} {act : State → Bool → State} (free : laneForced s n kind = false) :
    detectorChange s n kind on act = act s false :=
  if_pos (by simp [free])

section Detectors
variable {s : State} {n : Nat}

theorem losChange_of_clear (lost : rdB s R.laneStat n 0 7 = true) (active : laneState s n ≠ 10) :
    losChange s n false false = raise (bump (wrB s R.laneStat n 0 7 false) R.lnCount n 2 1) E.lane n 0 := by
  simp [losChange, lost, active, markInj]

/-- An UP lane that loses its signal retrains. -/
theorem losChange_of_up (present : rdB s R.laneStat n 0 7 = false) (up : laneState s n = 7) : losChange s n true false =
    retrain (raise (bump (wrB s R.laneStat n 0 7 true) R.lnCount n 2 1) E.lane n 0) n := by
  simp [losChange, present, up, markInj]

theorem lolChange_of_clear (lost : rdB s R.laneStat n 0 8 = true) :
    lolChange s n false false = raise (bump (wrB s R.laneStat n 0 8 false) R.lnCount n 3 1) E.lane n 1 := by
  simp [lolChange, lost, markInj]

/-- An UP lane that loses lock retrains. -/
theorem lolChange_of_up (locked : rdB s R.laneStat n 0 8 = false) (up : laneState s n = 7) : lolChange s n true false =
    retrain (raise (bump (wrB s R.laneStat n 0 8 true) R.lnCount n 3 1) E.lane n 1) n := by
  simp [lolChange, locked, up, markInj]

end Detectors

theorem exec_losChange_of_free {n : Fin 256} {on : Bool} {s t : State} (here : laneHere s.variant n.val = true)
    (free : laneForced s n.val 1 = false) (change : losChange s n.val on false = t) : exec (.losChange n on) s = .next (lanesMoved t) :=
  onLane_of_here here ((detectorChange_of_free free).trans change)

theorem exec_lolChange_of_free {n : Fin 256} {on : Bool} {s t : State} (here : laneHere s.variant n.val = true)
    (free : laneForced s n.val 2 = false) (change : lolChange s n.val on false = t) : exec (.lolChange n on) s = .next (lanesMoved t) :=
  onLane_of_here here ((detectorChange_of_free free).trans change)

/-! ## Injections (R394, R570) -/

theorem exec_laneShellInjArm_of_may {w : Writer} {n : Fin 256} {kind : Fin 4} {d : Fin 65536} {s : State} (may : mayInject s w = true)
    (here : laneHere s.variant n.val = true) :
    exec (.laneShellInjArm w n kind d) s = .next (lanesMoved (laneInjArm s n.val kind.val d.val)) :=
  onLane_of_here here (if_pos may)

theorem laneInjArm_los (s : State) (n d : Nat) :
    laneInjArm s n 1 d = losChange (wr s R.laneInj n 0 (packF [(0, 1), (2, 1), (16, d)])) n true true := rfl

/-- KIND 3 is ignored. -/
theorem laneInjArm_ignored (s : State) (n d : Nat) : laneInjArm s n 3 d = s := rfl

theorem quadInjArm_pll1 (s : State) (q d : Nat) :
    quadInjArm s q 2 d = pllLose (wr s R.quadInj q 0 (packF [(0, 2), (2, 1), (16, d)])) q 1 true := rfl

theorem exec_quadShellInjArm_of_may {w : Writer} {q : Fin 64} {kind : Fin 4} {d : Fin 65536} {s : State} (may : mayInject s w = true)
    (here : quadHere s.variant q.val = true) :
    exec (.quadShellInjArm w q kind d) s = .next (lanesMoved (quadInjArm s q.val kind.val d.val)) :=
  congrArg Host.Outcome.next (if_pos (by simp [may, here]))

/-! ## PLLs and references of a quad (R394) -/

section Quads
variable {q : Fin 64} {s : State}

theorem exec_pllUnlock_of_absent {p : Fin 2} {regained : Bool} (absent : quadHere s.variant q.val = false) :
    exec (.pllUnlock q p regained) s = .next s :=
  congrArg Host.Outcome.next (if_pos (by simp [absent]))

theorem exec_refLoss_of_absent {regained : Bool} (absent : quadHere s.variant q.val = false) : exec (.refLoss q regained) s = .next s :=
  congrArg Host.Outcome.next (if_pos (by simp [absent]))

section Here
variable (here : quadHere s.variant q.val = true)
include here

theorem exec_pllUnlock_of_lost {p : Fin 2} : exec (.pllUnlock q p false) s = .next (lanesMoved (pllLose s q.val p.val false)) :=
  congrArg Host.Outcome.next (if_neg (by simp [here]))

/-- A PLL that no injection holds unlocked sets its bit when it has lock again. -/
theorem exec_pllUnlock_of_regained {p : Fin 2} (free : rdB s R.quadInj q.val 0 2 = false) :
    exec (.pllUnlock q p true) s = .next (wrB s R.quadStat q.val 0 p.val true) := by
  refine congrArg Host.Outcome.next ((if_neg (by simp [here])).trans ?_)
  simp [free]

theorem exec_refLoss_of_lost : exec (.refLoss q false) s = .next (raise (wrB s R.quadStat q.val 0 2 false) E.quad q.val 1) :=
  congrArg Host.Outcome.next (if_neg (by simp [here]))

theorem exec_refLoss_of_regained : exec (.refLoss q true) s = .next (wrB s R.quadStat q.val 0 2 true) :=
  congrArg Host.Outcome.next (if_neg (by simp [here]))

end Here
end Quads

/-! ## Recovered-clock tracks (R375) -/

section Tracks
variable {t : Fin 4} {s : State}

/-- An enabled track holds when its lane is not UP, and the hold is recorded (log entry 141). -/
theorem exec_trackHold_of_not_up (enabled : rdB s R.rclkSel 0 t.val 8 = true) (down : laneState s (rdF s R.rclkSel 0 t.val 7 0) ≠ 7)
    (runs : rdB s R.rclkSel 0 t.val 9 = false) :
    exec (.trackHold t) s = .next { wrB s R.rclkSel 0 t.val 9 true with rclkHold := s.rclkHold ++ [t.val] } := by
  unfold rdB at enabled runs
  unfold rdF at down
  exact congrArg Host.Outcome.next (if_pos (by simp [enabled, down, runs]))

/-- A track that is not enabled has nothing to hold, and one that holds does not hold again (log entry 5). -/
theorem exec_trackHold_of_off_or_held (h : rdB s R.rclkSel 0 t.val 8 = false ∨ rdB s R.rclkSel 0 t.val 9 = true) :
    exec (.trackHold t) s = .next s := by
  unfold rdB at h
  exact congrArg Host.Outcome.next (if_neg (by rcases h with off | held <;> simp [*]))

theorem exec_trackHoldRelease_of_up (up : laneState s (rdF s R.rclkSel 0 t.val 7 0) = 7) :
    exec (.trackHoldRelease t) s = .next (wrB s R.rclkSel 0 t.val 9 false) :=
  congrArg Host.Outcome.next (if_pos up)

end Tracks

/-! ## Checkers and the error injector (R390, R391) -/

section Checkers
variable {n : Fin 256} {s : State} (here : laneHere s.variant n.val = true)
include here

theorem exec_checkerLock_of_here (bs : List Bool) : exec (.checkerLock n bs) s =
    .next (lanesMoved (if rdB s R.laneStat n.val 0 9 then s else chkBits s n.val bs)) :=
  onLane_of_here here rfl

theorem exec_checkerLockLoss_of_here (bs : List Bool) : exec (.checkerLockLoss n bs) s =
    .next (lanesMoved (if rdB s R.laneStat n.val 0 9 then chkBits s n.val bs else s)) :=
  onLane_of_here here rfl

theorem exec_laneInjgo_of_here (w : Writer) :
    exec (.laneInjgo w n) s = .next (lanesMoved (if mayInject s w then injGo s n.val else s)) :=
  onLane_of_here here rfl

end Checkers

/-- In mode 1 one bit more is to be flipped. -/
theorem injGo_of_one {s : State} {n : Nat} (may : mayFlip s n = true) (one : rdF s R.lnTest n 0 8 7 = 1) :
    injGo s n = modLaneSt s n fun x => { x with flips := x.flips + 1 } := by
  simp [injGo, may, one]

/-- A lane neither in TEST nor UP flips no bit. -/
theorem injGo_of_not_mayFlip {s : State} {n : Nat} (h : mayFlip s n = false) : injGo s n = s :=
  if_pos (by simp [h])

theorem mayFlip_iff {s : State} {n : Nat} : mayFlip s n = true ↔ laneState s n = 11 ∨ laneState s n = 7 := by
  simp [mayFlip]

/-- Settles O44, row by row from the equations above. The model's choices in it: a row whose condition does not hold changes nothing
(log entry 5), detector changes and received bits come with their rows (89), and a track's hold is recorded in the state (141). -/
theorem laneDetectors : Obligations.LaneDetectors := by
  refine ⟨?signal, ?noSignal, ?lock, ?noLock, ?laneInj, ?quadInj, ?pllLost, ?pllBack, ?reference, ?noQuad, ?hold, ?noHold, ?release,
    ?checker, ?flip, ?noFlip⟩
  case signal => exact fun _ _ here free lost active => exec_losChange_of_free here free (losChange_of_clear lost active)
  case noSignal =>
    rintro n s _ here free present up rfl
    exact exec_losChange_of_free here free (losChange_of_up present up)
  case lock => exact fun _ _ here free lost => exec_lolChange_of_free here free (lolChange_of_clear lost)
  case noLock =>
    rintro n s _ here free locked up rfl
    exact exec_lolChange_of_free here free (lolChange_of_up locked up)
  case laneInj =>
    intro w n d s may here
    refine ⟨?los, ?ignored⟩
    case los => exact (exec_laneShellInjArm_of_may may here).trans (by rw [← laneInjArm_los]; rfl)
    case ignored => exact exec_laneShellInjArm_of_may may here
  case quadInj =>
    intro w q d s may here
    rw [← quadInjArm_pll1]
    exact exec_quadShellInjArm_of_may may here
  case pllLost => exact fun _ _ _ here => exec_pllUnlock_of_lost here
  case pllBack => exact fun _ _ _ here free => exec_pllUnlock_of_regained here free
  case reference => exact fun _ _ here => ⟨exec_refLoss_of_lost here, exec_refLoss_of_regained here⟩
  case noQuad => exact fun _ _ _ _ absent => ⟨exec_pllUnlock_of_absent absent, exec_refLoss_of_absent absent⟩
  case hold => exact fun _ _ enabled down runs => exec_trackHold_of_not_up enabled down runs
  case noHold => exact fun _ _ h => exec_trackHold_of_off_or_held h
  case release => exact fun _ _ up => exec_trackHoldRelease_of_up up
  case checker =>
    intro n bs s here
    simp +contextual [exec_checkerLock_of_here here, exec_checkerLockLoss_of_here here]
  case flip =>
    intro w n s here may test one
    rw [exec_laneInjgo_of_here here, if_pos may, injGo_of_one (mayFlip_iff.2 (.inl test)) one]
  case noFlip =>
    intro w n s here off
    rw [exec_laneInjgo_of_here here, injGo_of_not_mayFlip (by simp [mayFlip, off]), ite_self]

end Sys2Proof.Machine
end

section
/-! The commands of lanes, tests, clocks and references (R395–R401): what the body of each does, and the proof of O45. -/

namespace Sys2Proof.Machine

/-! ## Words and their masks -/

/-- A field whose bits all stand in a mask is not changed by it. -/
theorem fld_and_of_mask {n : Nat} (w m : BitVec n) {hi lo : Nat} (ones : ∀ k ≤ hi, bit m k = true) : fld (w &&& m) hi lo = fld w hi lo := by
  refine fld_eq_of_bits fun k _ top => ?_
  have one := ones k top
  simp only [bit] at one ⊢
  rw [BitVec.getLsbD_and, one, Bool.and_true]

/-- A word without bits outside a mask has none outside a wider one. -/
theorem onlyBits_mono {w m m' : W32} (h : onlyBits w m = true) (wider : ~~~m &&& ~~~m' = ~~~m') : onlyBits w m' = true := by
  simp only [onlyBits, decide_eq_true_eq] at h ⊢
  rw [← wider, ← BitVec.and_assoc, h, BitVec.zero_and]

theorem bit_of_onlyBits {w m : W32} (h : onlyBits w m = true) {k : Nat} (outside : bit (~~~m) k = true) : bit w k = false := by
  simp only [onlyBits, decide_eq_true_eq] at h
  have none_ := congrArg (bit · k) h
  simp only [bit] at outside none_ ⊢
  simpa [BitVec.getLsbD_and, outside] using none_

/-! ## What the commands do (R395–R401) -/

section Commands
variable {q : Req} {s : State} {w : W32}

/-- `LANE_CONFIG` of one lane that becomes an Ethernet lane. -/
theorem laneConfig_of_eth {ctl t0 t1 : W32} (ps : q.params = [w, ctl, t0, t1])
    (bits : wellFormed q.params [0x1FFFF#32, 0xFFF001FF#32, 0xFFFFFFFF#32, 0x00FFFFFF#32] = true) (one : fld w 16 8 = 1)
    (here : laneHere s.variant (fld w 7 0) = true) (eth : fld ctl 2 0 = 1) (rate : fld ctl 5 3 ≤ 2)
    (los : R.lnLosCfg.legal (packF [(0, fld ctl 27 20), (8, fld ctl 31 28)]) = true) (trn0 : R.lnTrn0.legal t0 = true)
    (trn1 : R.lnTrn1.legal t1 = true) (codes : (quadCodes s (fld w 7 0 / 4) fun k =>
      if k = fld w 7 0 then (1, fld ctl 5 3) else (laneRole s k, laneRate s k)).length ≤ 2)
    (pcie : carriesPcie s (fld w 7 0) = false) (ssc : ssc0 s = false) (lace : laneRole s (fld w 7 0) ≠ 2) :
    laneConfig q s = done (lanesMoved (laneApply s (ctl &&& 0x1FF#32) (packF [(0, fld ctl 27 20), (8, fld ctl 31 28)]) t0 t1 (fld w 7 0)))
      .ok := by
  have role : fld (ctl &&& 0x1FF#32) 2 0 = 1 := (fld_and_of_mask ctl _ (by decide)).trans eth
  have code : fld (ctl &&& 0x1FF#32) 5 3 = fld ctl 5 3 := fld_and_of_mask ctl _ (by decide)
  have last : ¬ 256 < fld w 7 0 + 1 := by
    have : fld w 7 0 < 256 := Nat.mod_lt _ (by decide)
    omega
  have two : ¬ 2 < (quadCodes s (fld w 7 0 / 4) fun k =>
      if k = fld w 7 0 then (1, fld ctl 5 3) else (laneRole s k, laneRate s k)).length := Nat.not_lt.2 codes
  unfold laneConfig
  rw [bits]
  simp [par, nth, ps, one, here, role, code, rate, los, trn0, trn1, two, pcie, ssc, lace, last, sscBroken, rateFits]

theorem laneStatus_of_here (ps : q.params = [w]) (bits : onlyBits w 0xFF#32 = true) (here : laneHere s.variant (fld w 7 0) = true) :
    laneStatus q s = doneW s [rd s R.laneStat (fld w 7 0), rd s R.lnFreq (fld w 7 0), rd s R.lnLast (fld w 7 0),
      rd s R.lnCount (fld w 7 0) 1, rd s (R.lnCount.next 1) (fld w 7 0) 1] := by
  simp [laneStatus, par, nth, ps, bits, here]

/-- `LANE_RETRAIN` of one lane. -/
theorem laneRetrain_of_one (ps : q.params = [w]) (bits : onlyBits w 0x1FFFF#32 = true) (one : fld w 16 8 = 1)
    (here : laneHere s.variant (fld w 7 0) = true) (on : laneState s (fld w 7 0) ≠ 0) (noTest : laneState s (fld w 7 0) ≠ 11)
    (noPcie : laneState s (fld w 7 0) ≠ 12) : laneRetrain q s = done (lanesMoved (retrainCmd s (fld w 7 0))) .ok := by
  have last : ¬ 256 < fld w 7 0 + 1 := by
    have : fld w 7 0 < 256 := Nat.mod_lt _ (by decide)
    omega
  simp [laneRetrain, retrainAll, par, nth, ps, bits, one, here, on, noTest, noPcie, last]

/-- `LANE_TEST` of a TEST lane, without an injection. -/
theorem laneTest_of_test {l lo hi : W32} (ps : q.params = [w, l, lo, hi]) (bits : onlyBits w 0x003FFFFF#32 = true)
    (lane : onlyBits l 0xFF#32 = true) (legal : R.lnTest.legal w = true) (here : laneHere s.variant (fld l 7 0) = true)
    (test : laneRole s (fld l 7 0) = 4) (noInj : fld w 8 7 = 0) : laneTest q s = done (testWrite
      (wr (wr s R.lnUserLo (fld l 7 0) 0 lo) R.lnUserHi (fld l 7 0) 0 hi) (fld l 7 0) w) .ok := by
  simp [laneTest, par, nth, ps, bits, lane, legal, here, test, noInj]

theorem laneTestRead_of_here (ps : q.params = [w]) (bits : onlyBits w 0xFF#32 = true) (here : laneHere s.variant (fld w 7 0) = true) :
    laneTestRead q s = doneW s [rd s R.lnChkErrLo (fld w 7 0), rd s R.lnChkErrHi (fld w 7 0), rd s R.lnChkBitsLo (fld w 7 0),
      rd s R.lnChkBitsHi (fld w 7 0), rd s R.laneStat (fld w 7 0)] := by
  simp [laneTestRead, par, nth, ps, bits, here]

/-- `REFCLK_CONFIG` with the frequencies in force and every track off. -/
theorem refclkConfig_of_same (ps : q.params = [w, 0, 0, 0, 0]) (bits : onlyBits w 0xFF#32 = true) (same : w = s.refclk)
    (here : laneHere s.variant 0 = true) : refclkConfig q s = done ((List.range 4).foldl (fun a k =>
      wr a R.rclkSel 0 k (setBit 0#32 9 (decide (rd a R.rclkSel 0 k &&& 0x1FF#32 = 0#32) && rdB a R.rclkSel 0 k 9))) s) .ok := by
  have freqs : onlyBits w 0x1FF#32 = true := onlyBits_mono bits (by decide)
  have noSsc : bit w 8 = false := bit_of_onlyBits bits (by decide)
  have zero : onlyBits 0#32 0x1FF#32 = true := by decide
  have form : wellFormed q.params [0x1FF#32, 0x1FF#32, 0x1FF#32, 0x1FF#32, 0x1FF#32] = true := by simp [ps, freqs, zero]
  have first : par q 0 = w := by simp [par, nth, ps]
  have tracks (k : Nat) : par q (1 + k) = 0#32 := by
    rw [Nat.add_comm, par, ps]
    rcases k with _ | _ | _ | _ | k <;> simp [nth]
  have lane : fld (0#32) 7 0 = 0 := by decide
  have unchanged (k : Nat) : bit (w ^^^ w) k = false := by simp [bit]
  have kept : { s with refclk := w } = s := by rw [same]
  simp only [refclkConfig, form, first, tracks, lane, kept, ← same, unchanged]
  simp [here, noSsc, sscBroken]

theorem quadRef_of_off (ps : q.params = [w]) (bits : onlyBits w 0x3FF#32 = true) (shore : fld w 7 6 = 0)
    (here : quadHere s.variant (fld w 5 0) = true) (off : ∀ i < 4, laneRole s (4 * fld w 5 0 + i) = 0) :
    quadRef q s = done (wr s R.qref (fld w 5 0) 0 (packF [(0, 0), (2, fld w 9 8)])) .ok := by
  simp +contextual [quadRef, par, nth, ps, bits, shore, here, off]

end Commands

/-- Settles O45, command by command from the equations above. -/
theorem laneCommands : Obligations.LaneCommands := by
  refine ⟨?config, ?status, ?retrain, ?test, ?testRead, ?refclk, ?quadRef⟩
  case config =>
    intro q s w ctl t0 t1 h ps bits one here eth rate los trn0 trn1 codes pcie ssc lace
    exact congrArg Host.Outcome.next (runCommand_done (f := fun t => lanesMoved (laneApply t (ctl &&& 0x1FF#32)
        (packF [(0, fld ctl 27 20), (8, fld ctl 31 28)]) t0 t1 (fld w 7 0))) h
      (congrArg some (laneConfig_of_eth ps bits one here eth rate los trn0 trn1 codes pcie ssc lace)))
  case status =>
    intro q s w h ps bits here
    exact congrArg Host.Outcome.next
      (runCommand_answers h (congrArg some (laneStatus_of_here ps bits here)) rfl (unseated_seated h.free) rfl rfl)
  case retrain =>
    intro q s w h ps bits one here on noTest noPcie
    exact congrArg Host.Outcome.next (runCommand_done (f := fun t => lanesMoved (retrainCmd t (fld w 7 0))) h
      (congrArg some (laneRetrain_of_one ps bits one here on noTest noPcie)))
  case test =>
    intro q s w l lo hi h ps bits lane legal here test noInj
    exact congrArg Host.Outcome.next (runCommand_done h (congrArg some (laneTest_of_test ps bits lane legal here test noInj)))
  case testRead =>
    intro q s w h ps bits here
    exact congrArg Host.Outcome.next
      (runCommand_answers h (congrArg some (laneTestRead_of_here ps bits here)) rfl (unseated_seated h.free) rfl rfl)
  case refclk =>
    intro q s w h ps bits same here
    exact congrArg Host.Outcome.next (runCommand_done h (congrArg some (refclkConfig_of_same ps bits same here)))
  case quadRef =>
    intro q s w h ps bits shore here off
    exact congrArg Host.Outcome.next (runCommand_answers h (congrArg some (quadRef_of_off ps bits shore here off)) rfl
      ((unseated_wr ..).trans (congrArg (wr · R.qref _ _ _) (unseated_seated h.free))) rfl rfl)

end Sys2Proof.Machine
end

section
/-! Queue pairs, host DMA, the function reset and the PCIe link (R422–R424, R426, R486, R492): what each row does in each case of O41,
and its proof. -/

namespace Sys2Proof.Machine

/-! ## Completion queues leave the submissions (R424, R487) -/

@[simp] theorem cqWrite_subs (s : State) (p : Nat) (ws : List W32) (irq : Bool) : (cqWrite s p ws irq).host.subs = s.host.subs := rfl

@[simp] theorem cqDrainN_subs (n p : Nat) (s : State) : (cqDrainN n s p).host.subs = s.host.subs := by
  induction n generalizing s with
  | zero => rfl
  | succ n ih =>
    unfold cqDrainN
    split
    · rfl
    · split
      · rfl
      · rw [ih]
        split <;> simp

@[simp] theorem cqPost_subs (s : State) (p : Nat) (ws : List W32) (irq : Bool) : (cqPost s p ws irq).host.subs = s.host.subs :=
  cqDrainN_subs _ p _

/-! ## Refused submissions (R480, R490) -/

section Submissions
variable {s : State} {p : Nat}

theorem subDrainN_of_not_refused (n : Nat) (h : ((s.host.subs.find? fun x => decide (x.qp = p)).map fun x => x.bad.isSome) ≠ some true) :
    subDrainN n s p = s := by
  cases n with
  | zero => rfl
  | succ n =>
    unfold subDrainN
    split
    · rfl
    next x oldest =>
      have good : x.bad = none := by simpa [oldest] using h
      simp only [good]

/-- A refused submission at the front completes, and the drain ends at one that is not refused. -/
theorem subDrain_of_refused {x : Sub} {st : Status} {l : List Sub} (front : s.host.subs = x :: l) (own : x.qp = p)
    (bad : x.bad = some st) (live : x.dead = false)
    (rest : ((l.find? fun x => decide (x.qp = p)).map fun x => x.bad.isSome) ≠ some true) :
    subDrain s p = cqPost (setHost s fun h => { h with subs := l }) p (bareEntry x.sqix st) true := by
  have popped : (setHost s fun h => { h with subs := removeFirst (fun y => decide (y.qp = p)) h.subs }) =
      setHost s fun h => { h with subs := l } := by
    simp [setHost, front, removeFirst, own]
  simp only [subDrain, front, List.length_cons, subDrainN, List.find?_cons, own, decide_true, bad, live, popped, Bool.false_eq_true, if_false]
  exact subDrainN_of_not_refused _ (by rwa [cqPost_subs])

end Submissions

/-! ## Doorbells, enables and heads (R424) -/

section Pairs
variable {p : Fin 64} {s : State}

theorem exec_pcieSqDoorbell_of_fits {tail : Fin 8192} (on : qpEn s p.val = true) (hasSq : p.val ≠ 8)
    (fits : (tail.val + 8192 - (rd s R.sqHead p.val).toNat) % 8192 ≤ qpSize s p.val) :
    exec (.pcieSqDoorbell p tail) s = .next (wr s R.sqTail p.val 0 (w32 tail.val)) :=
  congrArg Host.Outcome.next (if_neg (by simp [on, hasSq, fits]))

/-- A tail beyond the ring is ignored. -/
theorem exec_pcieSqDoorbell_of_beyond {tail : Fin 8192}
    (beyond : qpSize s p.val < (tail.val + 8192 - (rd s R.sqHead p.val).toNat) % 8192) : exec (.pcieSqDoorbell p tail) s = .next s :=
  congrArg Host.Outcome.next (if_pos (.inr (.inr beyond)))

theorem exec_qpEnable_of_off {n : Fin 16} (off : qpEn s p.val = false) (low : 4 ≤ n.val) (high : n.val ≤ 12) :
    exec (.qpEnable p n) s = .next (qpClear (wr s R.qpCfg p.val 0 (packF [(0, n.val), (4, 1)])) p.val) :=
  congrArg Host.Outcome.next (if_neg (by simp [off, low, high]))

theorem exec_qpDisable_of_on (on : qpEn s p.val = true) : exec (.qpDisable p) s = .next (qpStop s p.val) :=
  congrArg Host.Outcome.next (if_pos on)

/-- A pair that is off has nothing to stop (log entry 5). -/
theorem exec_qpDisable_of_off (off : qpEn s p.val = false) : exec (.qpDisable p) s = .next s :=
  congrArg Host.Outcome.next (if_neg (by simp [off]))

theorem exec_cqHeadWrite_of_on {h : Fin 8192} (on : qpEn s p.val = true) :
    exec (.cqHeadWrite p h) s = .next (cqDrain (wr s R.cqHead p.val 0 (w32 h.val)) p.val) :=
  congrArg Host.Outcome.next (if_pos on)

end Pairs

/-! ## Entries of a submission queue (R424, R486) -/

/-- The submission that entry `e` at the head of pair p makes, refused with `bad` where there is such a status. -/
def submission (s : State) (p : Nat) (e : List W32) (bad : Option Status) : Sub :=
  { qp := p, sqix := (sqTake s p).2, rlen := fld (nth e 1 0) 12 0, rbuf := pair64 (nth e 4 0) (nth e 5 0), dead := false, bad := bad }

section Entries
variable {p : Fin 8} {e : List W32} {s : State} (on : qpEn s p.val = true) (waits : sqOcc s p.val ≠ 0) (up : fwUp s = true)
include on waits up

theorem pennantSqEntry_not_passed_over : ¬ ((!qpEn s p.val) = true ∨ sqOcc s p.val = 0 ∨ (!fwUp s) = true) := by simp [on, waits, up]

theorem exec_pennantSqEntry_of_good (good : sqFault e = none) : exec (.pennantSqEntry p e false) s =
    .next (setHost (sqTake s p.val).1 fun h => { h with subs := h.subs ++ [submission s p.val e none] }) := by
  refine congrArg Host.Outcome.next ((if_neg (pennantSqEntry_not_passed_over on waits up)).trans ?_)
  simp only [good]
  rfl

/-- A faulty entry is refused whether or not its packet could be read. -/
theorem exec_pennantSqEntry_of_fault {st : Status} (r : Bool) (fault : sqFault e = some st) : exec (.pennantSqEntry p e r) s =
    .next (subDrain (setHost (sqTake s p.val).1 fun h => { h with subs := h.subs ++ [submission s p.val e (some st)] }) p.val) := by
  refine congrArg Host.Outcome.next ((if_neg (pennantSqEntry_not_passed_over on waits up)).trans ?_)
  simp only [fault]
  rfl

/-- A good entry whose packet could not be read is refused, counted and raised (check 6 of R480). -/
theorem exec_pennantSqEntry_of_unread (good : sqFault e = none) : exec (.pennantSqEntry p e true) s =
    .next (subDrain (setHost (raise (bump (sqTake s p.val).1 R.pnCount 0 3 1) E.pn 0 1) fun h => { h with
      subs := h.subs ++ [submission s p.val e (some .integrity)] }) p.val) := by
  refine congrArg Host.Outcome.next ((if_neg (pennantSqEntry_not_passed_over on waits up)).trans ?_)
  simp only [good]
  rfl

end Entries

/-! ## Host DMA (R424) -/

/-- The transfer that entry `e` at the head of pair p asks for. -/
def dmaTransfer (s : State) (p : Nat) (e : List W32) : HostDma := { qp := p, sqix := (sqTake s p).2, words := e }

section Dma
variable {p : Fin 64} {s : State}

/-- An entry of sixteen words is checked, and queued where it passes (log entry 144). -/
theorem exec_hostDmaEntry_of_whole {e : List W32} (dma : 9 ≤ p.val) (on : qpEn s p.val = true) (waits : sqOcc s p.val ≠ 0)
    (whole : e.length = 16) : exec (.hostDmaEntry p e) s =
    .next (if dmaBad e then dmaPost (sqTake s p.val).1 (dmaTransfer s p.val e) .badParam
      else setHost (sqTake s p.val).1 fun h => { h with dmas := h.dmas ++ [dmaTransfer s p.val e] }) := by
  have words : (e ++ List.replicate 16 0#32).take 16 = e := List.take_left' whole
  refine congrArg Host.Outcome.next ((if_neg (by simp [on, waits, dma])).trans ?_)
  simp only [words]
  rfl

/-- The length of a transfer in bytes and its address in the device. -/
def HostDma.len (d : HostDma) : Nat := fld (nth d.words 1 0) 24 0 + 1
def HostDma.addr (d : HostDma) : Nat := pair64 (nth d.words 4 0) (nth d.words 5 0) % 2 ^ 48

/-- A transfer is no longer on its way. -/
def transferEnded (s : State) (d : HostDma) : State :=
  setHost s fun h => { h with dmas := removeFirst (fun x => decide (x = d)) h.dmas }

variable {data : List Byte} {d : HostDma} {s1 : State} {st : Status}
  (oldest : (s.host.dmas.find? fun d => decide (d.qp = p.val)) = some d)
include oldest

theorem exec_hostDmaComplete_of_in (into : bit (nth d.words 0 0) 0 = false)
    (run : dmaIn (d.len / 256 + 2) s d.addr ((data ++ List.replicate d.len 0#8).take d.len) = (s1, st)) :
    exec (.hostDmaComplete p data) s = .next (settled s (dmaPost (transferEnded s1 d) d st)) := by
  change execHostDmaComplete p data s = _
  unfold HostDma.len HostDma.addr at run
  simp only [execHostDmaComplete, oldest, into, run]
  rfl

theorem exec_hostDmaComplete_of_out {out : List Byte} {ep : Bool} (outOf : bit (nth d.words 0 0) 0 = true)
    (run : dmaOut (d.len / 256 + 2) s d.addr d.len [] false = (s1, st, out, ep)) :
    exec (.hostDmaComplete p data) s = .next (settled s (dmaPost (setHost (transferEnded s1 d) fun h => { h with
      bufOut := h.bufOut ++ [(pair64 (nth d.words 2 0) (nth d.words 3 0), bytesWords out.length out, ep)] }) d st)) := by
  change execHostDmaComplete p data s = _
  unfold HostDma.len HostDma.addr at run
  simp only [execHostDmaComplete, oldest, outOf, run]
  rfl

end Dma

/-! ## Poisoned writes and the link (R422, R423) -/

/-- A poisoned write that the fabric does not answer OK is dropped and counted. -/
theorem exec_pcieEpWriteRx_of_write {a : BitVec 45} {ws : List W64} {s s1 : State} {st : Status}
    (write : netWrite s 39 (8 * a.toNat) (ws.map fun w => (w, true)) = (s1, st)) :
    exec (.pcieEpWriteRx a ws) s = .next (settled s (if st = .ok then s1 else bump s1 R.pcieDrop 0 0 1)) := by
  change execPcieEpWriteRx a ws s = _
  simp only [execPcieEpWriteRx, write]

section Link
variable {x : PcieTrain} {s : State}

theorem exec_pcieLinkStateChange_of_up (legal : trainLegal x = true) (lanes : ∀ k < x.lanes, laneState s k = 12) :
    exec (.pcieLinkStateChange true x) s = .next (setHost s fun h => { h with up := true, lanes := x.lanes, train := x }) := by
  have all : ((List.range x.lanes).all fun n => decide (laneState s n = 12)) = true := by simpa using lanes
  exact congrArg Host.Outcome.next (if_neg (by simp [legal, all]))

/-- A training outside what the endpoint supports changes nothing (log entry 171). -/
theorem exec_pcieLinkStateChange_of_illegal (illegal : trainLegal x = false) : exec (.pcieLinkStateChange true x) s = .next s :=
  congrArg Host.Outcome.next (if_pos (by simp [illegal]))

theorem exec_pcieLinkStateChange_of_down : exec (.pcieLinkStateChange false x) s = .next (setHost s fun h => { h with up := false }) :=
  congrArg Host.Outcome.next (if_neg (by simp))

end Link

/-- Settles O41, row by row from the equations above. The model's choices in it: an entry, a completion or a stop that nothing asks for
changes nothing (log entry 5), the checks of a host DMA entry are those of log entry 144, and a training that the endpoint does not
support changes nothing (log entry 171). -/
theorem queuePairs : Obligations.QueuePairs := by
  refine ⟨?doorbell, ?beyond, ?enable, ?disable, ?isOff, ?head, ?entry, ?fault, ?unread, ?notRefused, ?refused, ?dma, ?dmaBad, ?dmaIn,
    ?dmaOut, ?reset, ?poison, ?poisonLost, ?linkUp, ?illegal, ?linkDown⟩
  case doorbell => exact fun _ _ _ on hasSq fits => exec_pcieSqDoorbell_of_fits on hasSq fits
  case beyond => exact fun _ _ _ beyond => exec_pcieSqDoorbell_of_beyond beyond
  case enable => exact fun _ _ _ off low high => exec_qpEnable_of_off off low high
  case disable => exact fun _ _ on => exec_qpDisable_of_on on
  case isOff => exact fun _ _ off => exec_qpDisable_of_off off
  case head => exact fun _ _ _ on => exec_cqHeadWrite_of_on on
  case entry => exact fun _ _ _ on waits up good => exec_pennantSqEntry_of_good on waits up good
  case fault => exact fun _ _ r _ _ on waits up fault => exec_pennantSqEntry_of_fault on waits up r fault
  case unread => exact fun _ _ _ on waits up good => exec_pennantSqEntry_of_unread on waits up good
  case notRefused => exact fun _ _ h => subDrainN_of_not_refused _ h
  case refused => exact fun _ _ _ _ _ front own bad live rest => subDrain_of_refused front own bad live rest
  case dma =>
    intro p e s dma on waits whole good
    rw [exec_hostDmaEntry_of_whole dma on waits whole, good]
    rfl
  case dmaBad =>
    intro p e s dma on waits whole bad
    rw [exec_hostDmaEntry_of_whole dma on waits whole, bad]
    rfl
  case dmaIn => exact fun _ _ _ _ _ _ oldest into run => exec_hostDmaComplete_of_in oldest into run
  case dmaOut => exact fun _ _ _ _ _ _ _ _ oldest outOf run => exec_hostDmaComplete_of_out oldest outOf run
  case reset => exact fun _ => rfl
  case poison => exact fun _ _ _ _ write => exec_pcieEpWriteRx_of_write write
  case poisonLost => exact fun _ _ _ _ write => exec_pcieEpWriteRx_of_write write
  case linkUp => exact fun _ _ legal lanes => exec_pcieLinkStateChange_of_up legal lanes
  case illegal => exact fun _ _ illegal => exec_pcieLinkStateChange_of_illegal illegal
  case linkDown => exact fun _ _ => exec_pcieLinkStateChange_of_down

end Sys2Proof.Machine
end

section
/-! The I3C target and the pins (R427, R429, R435–R437, R489): what each row and command does in each case of O42, and its proof. -/

namespace Sys2Proof.Machine

/-! ## The I3C target (R427, R489) -/

section I3c
variable {s : State}

theorem i3cAsk_of_addressed {a : Nat} (bs : List Byte) (addressed : s.host.i3cDyn = some a) : i3cAsk s bs = i3cSay s bs :=
  if_pos (by simp [addressed])

/-- A target without a dynamic address answers no CCC addressed to it. -/
theorem i3cAsk_of_unaddressed (bs : List Byte) (unaddressed : s.host.i3cDyn = none) : i3cAsk s bs = s :=
  if_neg (by simp [unaddressed])

theorem exec_i3cEntdaa_of_unaddressed {a : Fin 128} (unaddressed : s.host.i3cDyn = none) : exec (.i3cEntdaa a) s =
    .next (setHost s fun h => { h with i3cOut := Config.i3cPid ++ [Config.i3cBcr, Config.i3cDcr], i3cDyn := some a.val }) :=
  congrArg Host.Outcome.next (if_neg (by simp [unaddressed]))

theorem exec_i3cEntdaa_of_addressed {a : Fin 128} {b : Nat} (addressed : s.host.i3cDyn = some b) : exec (.i3cEntdaa a) s = .next s :=
  congrArg Host.Outcome.next (if_pos (by simp [addressed]))

theorem exec_i3cSetdasa_of_match {a b : Fin 128} (unaddressed : s.host.i3cDyn = none) (own : a.val = s.host.i3cStatic) :
    exec (.i3cSetdasa a b) s = .next (setHost s fun h => { h with i3cDyn := some b.val }) :=
  congrArg Host.Outcome.next (if_pos ⟨own, unaddressed⟩)

theorem exec_i3cSetdasa_of_other {a b : Fin 128} (other : a.val ≠ s.host.i3cStatic) : exec (.i3cSetdasa a b) s = .next s :=
  congrArg Host.Outcome.next (if_neg fun h => other h.1)

/-- The GET commands whose answer is a register or the configuration ask the target for those bytes. -/
theorem exec_i3cGet (s : State) : ∀ r ∈ [(Instr.i3cGetpid, Config.i3cPid), (Instr.i3cGetbcr, [Config.i3cBcr]),
    (Instr.i3cGetdcr, [Config.i3cDcr]), (Instr.i3cGetmwl, (bytesOf 2 s.host.mwl).reverse),
    (Instr.i3cGetmrl, (bytesOf 2 s.host.mrl).reverse)], exec r.1 s = .next (i3cAsk s r.2) := by
  simp only [List.forall_mem_cons]
  exact ⟨rfl, rfl, rfl, rfl, rfl, List.forall_mem_nil _⟩

theorem exec_i3cGet_of_unaddressed (unaddressed : s.host.i3cDyn = none) :
    ∀ i ∈ [Instr.i3cGetpid, .i3cGetbcr, .i3cGetdcr, .i3cGetmwl, .i3cGetmrl, .i3cGetstatus], exec i s = .next s := by
  have get := exec_i3cGet s
  simp only [List.forall_mem_cons, i3cAsk_of_unaddressed _ unaddressed] at get ⊢
  obtain ⟨pid, bcr, dcr, mwl, mrl, _⟩ := get
  have status : exec .i3cGetstatus s = .next s := congrArg Host.Outcome.next (if_pos (by simp [unaddressed]))
  exact ⟨pid, bcr, dcr, mwl, mrl, status, List.forall_mem_nil _⟩

section Addressed
variable {a : Nat} (addressed : s.host.i3cDyn = some a)
include addressed

/-- The two status bytes are a free value (log entry 93). -/
theorem exec_i3cGetstatus_of_addressed :
    exec .i3cGetstatus s = .next (setHost (drawFree s).2 fun h => { h with i3cOut := bytesOf 2 (drawFree s).1.toNat }) :=
  congrArg Host.Outcome.next (if_neg (by simp [addressed]))

theorem exec_i3cEnec_of_addressed {e : Byte} (ints : bit e 0 = true) :
    exec (.i3cEnec e) s = .next (ibiSync (setHost s fun h => { h with i3cEv := true })) :=
  congrArg Host.Outcome.next (if_pos (by simp [addressed, ints]))

theorem exec_i3cDisec_of_addressed {e : Byte} (ints : bit e 0 = true) :
    exec (.i3cDisec e) s = .next (ibiSync (setHost s fun h => { h with i3cEv := false })) :=
  congrArg Host.Outcome.next (if_pos (by simp [addressed, ints]))

theorem exec_i3cSetmwl_of_addressed {n : Fin 65536} : exec (.i3cSetmwl n) s = .next (setHost s fun h => { h with mwl := n.val }) :=
  congrArg Host.Outcome.next (if_pos (by simp [addressed]))

theorem exec_i3cSetmrl_of_addressed {n : Fin 65536} : exec (.i3cSetmrl n) s = .next (setHost s fun h => { h with mrl := n.val }) :=
  congrArg Host.Outcome.next (if_pos (by simp [addressed]))

end Addressed

/-- A read of the target takes the pending reply before any event. -/
theorem exec_i3cPrivateRead_of_reply {r : Reply} (pending : s.pn.i3cReply = some r) : exec .i3cPrivateRead s =
    .next (ibiSync (i3cSay (setPn s fun n => { n with i3cReply := none }) (wordBytes (replyPacket s r)))) := by
  change execI3cPrivateRead s = _
  simp only [execI3cPrivateRead, pending]

theorem exec_i3cPrivateRead_of_nothing (noReply : s.pn.i3cReply = none) (noEvent : s.pn.i3cSink.buf = []) :
    exec .i3cPrivateRead s = .next (i3cSay s []) := by
  change execI3cPrivateRead s = _
  simp only [execI3cPrivateRead, noReply, noEvent]

theorem exec_i3cPrivateRead_of_event {ev : Event} {l : List Event} (noReply : s.pn.i3cReply = none) (events : s.pn.i3cSink.buf = ev :: l) :
    exec .i3cPrivateRead s = .next (ibiSync (sinkPop (i3cSay s (wordBytes (eventPacket s ev 0 true))) .i3c)) := by
  change execI3cPrivateRead s = _
  simp only [execI3cPrivateRead, noReply, events]

end I3c

/-! ## Pins (R429, R437) -/

section Pins
variable {k : Fin 16} {s : State}

/-- In EVENT mode an edge latches its bit (log entry 190). -/
theorem exec_gpioEdge_of_event {v : Bool} (edge : bit s.host.gpioIn k.val ≠ v) (event : fld (nth s.host.gpio k.val 0) 1 0 = 2) :
    exec (.gpioEdge k v) s = .next (setHost s fun h => { h with
      gpioIn := setBit h.gpioIn k.val v, gpioEdge := setBit h.gpioEdge k.val true }) := by
  refine congrArg Host.Outcome.next ((if_neg edge).trans ?_)
  simp only [setHost, if_pos event]

/-- A pin that keeps its level has no edge (log entry 5). -/
theorem exec_gpioEdge_of_level {v : Bool} (level : bit s.host.gpioIn k.val = v) : exec (.gpioEdge k v) s = .next s :=
  congrArg Host.Outcome.next (if_pos level)

theorem exec_gpioMarkPulse_of_due (mark : fld (nth s.host.gpio k.val 0) 1 0 = 3)
    (due : tickNow s % markPeriod (nth s.host.gpio k.val 0) = fld (nth s.host.gpio k.val 0) 19 7) :
    exec (.gpioMarkPulse k) s = .next (setHost s fun h => { h with marks := h.marks ++ [(k.val, s.ats)] }) :=
  congrArg Host.Outcome.next (if_pos ⟨mark, decide_eq_true due⟩)

/-- No pulse but on a MARK pin at its tick (log entry 5). -/
theorem exec_gpioMarkPulse_of_not_due (h : fld (nth s.host.gpio k.val 0) 1 0 ≠ 3 ∨
    tickNow s % markPeriod (nth s.host.gpio k.val 0) ≠ fld (nth s.host.gpio k.val 0) 19 7) : exec (.gpioMarkPulse k) s = .next s :=
  congrArg Host.Outcome.next (if_neg fun pulses => h.elim (· pulses.1) (· (of_decide_eq_true pulses.2)))

end Pins

/-! ## The commands of the ports (R435–R437) -/

/-- Unseating commutes with a change of the host link's record. -/
theorem unseated_setHost (s : State) (op : Nat) (q : Req) (f : HostLink → HostLink) :
    unseated (setHost s f) op q = setHost (unseated s op q) f := rfl

/-- A command that only changes the host link's record leaves the rest of the state as it was. -/
theorem answered_setHost {s : State} {op : Nat} {q : Req} (h : Starts s op q) (f : HostLink → HostLink) (ws : List W32) :
    answered s op q (setHost · f) ws = reply (setHost s f) op q .ok ws := by
  rw [answered, unseated_setHost, unseated_seated h.free]

section Commands
variable {q : Req} {s : State}

theorem synceOutConfig_of_form {w : W32} (ps : q.params = [w]) (bits : onlyBits w 0xFF#32 = true) :
    synceOutConfig q s = done (setHost s fun h => { h with synce := w }) .ok := by
  simp [synceOutConfig, wellFormed, par, nth, ps, bits]

theorem pinConfig_of_form (bits : wellFormed q.params (List.replicate 16 0x000FFFFF#32 ++ [0xFF#32, 0xFF#32]) = true)
    (marks : ∀ w ∈ q.params.take 16, fld w 4 3 < 2 ∧ fld w 19 7 < markPeriod w) :
    pinConfig q s = done ((s.fh.macs.map fun e => e.1).foldl startLine (setHost s fun h => { h with
      gpio := q.params.take 16, fcInPol := BitVec.ofNat 16 (par q 16).toNat, fcOutPol := BitVec.ofNat 16 (par q 17).toNat })) .ok := by
  have noneBad : ((q.params.take 16).any fun w => decide (2 ≤ fld w 4 3) || decide (markPeriod w ≤ fld w 19 7)) = false := by
    rw [List.any_eq_false]
    intro w here
    obtain ⟨boundary, off⟩ := marks w here
    simp [boundary, off]
  exact if_neg (by rw [bits, noneBad]; decide)

theorem ptpConfig_of_form (bits : wellFormed q.params [0x7FF#32, 0xFFFFFFFF#32, 0xFFFFFFFF#32, 0xFFFFFFFF#32, 0xFFFFFFFF#32, 0xFF#32] = true)
    {ms : List Nat} (macs : ((List.range 128).filter fun m => bit (par q (1 + m / 32)) (m % 32)) = ms) (most : ms.length ≤ 16)
    (one : bit (par q 0) 2 = true ∨ ms.length ≤ 1) (here : ∀ m ∈ ms, laneHere s.variant (2 * m) = true ∧ macEn s m = true) :
    ptpConfig q s = done (setHost s fun h => { h with ptp := q.params }) .ok := by
  have counts : ¬ (16 < ms.length ∨ (!bit (par q 0) 2) = true ∧ 1 < ms.length) := by
    rintro (many | ⟨boundary, many⟩)
    · omega
    · rcases one with b | few
      · simp [b] at boundary
      · omega
  have noneAbsent : (ms.any fun m => !laneHere s.variant (2 * m)) = false := by
    simp +contextual [List.any_eq_false, here]
  have noneOff : (ms.any fun m => !macEn s m) = false := by
    simp +contextual [List.any_eq_false, here]
  simp only [ptpConfig, bits, macs, if_neg counts, noneAbsent, noneOff, Bool.not_true, Bool.false_eq_true, if_false]

end Commands

/-- Settles O42, row by row and command by command from the equations above. The model's choices in it: a pin that keeps its level and a
MARK pin that is not due change nothing (log entry 5), the status bytes of GETSTATUS are a free value (93), and an edge latches its bit of
GPIO_EDGE (190). -/
theorem i3cAndPins : Obligations.I3cAndPins := by
  refine ⟨?assign, ?assigned, ?setAddress, ?otherStatic, ?reset, ?get, ?noGet, ?status, ?events, ?lengths, ?action, ?reply, ?nothing, ?event,
    ?edge, ?level, ?noPulse, ?pulse, ?synce, ?pins, ?ptp⟩
  case assign => exact fun _ _ unaddressed => exec_i3cEntdaa_of_unaddressed unaddressed
  case assigned => exact fun _ _ _ addressed => exec_i3cEntdaa_of_addressed addressed
  case setAddress => exact fun _ _ _ unaddressed own => exec_i3cSetdasa_of_match unaddressed own
  case otherStatic => exact fun _ _ _ other => exec_i3cSetdasa_of_other other
  case reset => exact fun _ => rfl
  case get =>
    intro a s addressed r row
    rw [exec_i3cGet s r row, i3cAsk_of_addressed _ addressed, i3cSay]
  case noGet => exact fun _ unaddressed => exec_i3cGet_of_unaddressed unaddressed
  case status => exact fun _ _ addressed => exec_i3cGetstatus_of_addressed addressed
  case events =>
    exact fun _ _ _ addressed ints => ⟨exec_i3cEnec_of_addressed addressed ints, exec_i3cDisec_of_addressed addressed ints⟩
  case lengths => exact fun _ _ _ addressed => ⟨exec_i3cSetmwl_of_addressed addressed, exec_i3cSetmrl_of_addressed addressed⟩
  case action => exact fun _ _ => rfl
  case reply => exact fun _ _ pending => exec_i3cPrivateRead_of_reply pending
  case nothing => exact fun _ noReply noEvent => exec_i3cPrivateRead_of_nothing noReply noEvent
  case event => exact fun _ _ _ noReply events => exec_i3cPrivateRead_of_event noReply events
  case edge => exact fun _ _ _ edge event => exec_gpioEdge_of_event edge event
  case level => exact fun _ _ _ level => exec_gpioEdge_of_level level
  case noPulse => exact fun _ _ h => exec_gpioMarkPulse_of_not_due h
  case pulse => exact fun _ _ mark due => exec_gpioMarkPulse_of_due mark due
  case synce =>
    intro q s w h ps bits
    rw [← answered_setHost h]
    exact congrArg Host.Outcome.next (runCommand_done h (congrArg some (synceOutConfig_of_form ps bits)))
  case pins => exact fun _ _ h bits marks => congrArg Host.Outcome.next (runCommand_done h (congrArg some (pinConfig_of_form bits marks)))
  case ptp =>
    intro q s ms h bits macs most one here
    rw [← answered_setHost h]
    exact congrArg Host.Outcome.next (runCommand_done h (congrArg some (ptpConfig_of_form bits macs most one here)))

end Sys2Proof.Machine
end

section
/-! Frames, pauses, fronthaul jobs and the fronthaul commands (R404–R416, R429, R431, R432, R434): what each row and command does in each
case of O51, and its proof. -/

namespace Sys2Proof.Machine

/-! ## Received frames (R404, R407, R430) -/

section Frames
variable {s : State} {m : Nat} {src : Producer} {f : EthFrame}

theorem ethRx_of_down (down : macUp s m = false) : ethRx s m src f = s := if_pos (by simp [down])

/-- A frame with a good FCS of 64 bytes up to the MAC's longest is counted and classified whole, at its time of arrival. -/
theorem ethRx_of_good (up : macUp s m = true) (fcs : f.fcsOk = true) (short : 60 ≤ f.bytes.length)
    (long : f.bytes.length + 4 ≤ (nth (macOf s m).cfg 1 0#32).toNat) :
    ethRx s m src f = classify (macCount (macCount s m 0 1) m 1 (f.bytes.length + 4)) m src f.bytes
      (rxStamp s m ((f.stamp.toNat : Int) + offsetNow s)) none := by
  refine (if_neg (by simp [up])).trans (if_neg ?_)
  simp only [fcs, Bool.not_true, Bool.false_eq_true, false_or, not_or, not_lt]
  exact ⟨by omega, long⟩

/-- A frame with a bad FCS of which nothing entered a queue is an error, and no more. -/
theorem ethRx_of_bad_fcs (up : macUp s m = true) (fcs : f.fcsOk = false) (none_ : f.entered = 0) :
    ethRx s m src f = macCount s m 2 1 := by
  refine (if_neg (by simp [up])).trans ((if_pos (.inl (by simp [fcs]))).trans ?_)
  simp only [fcs, if_pos none_, Bool.false_eq_true, if_false]

end Frames

/-- The state in which a frame is received: FEC counts come first where the MAC has FEC lock. -/
def fecTaken (s : State) (m : Nat) (f : EthFrame) : State := if rdB s R.macStat m 0 2 then fecCount s m f.fecFixed f.fecBad else s

theorem exec_ethFrameRx (m : Fin 128) (f : EthFrame) (s : State) :
    exec (.ethFrameRx m f) s = .next (ethRx (fecTaken s m.val f) m.val (.mac m) f) := rfl

/-! ## Holds of a MAC (R404) -/

section Holds
variable {m : Fin 128} {s : State}

theorem exec_pfcFrameRx_of_down {p : Fin 8} {n : Fin 65536} (down : macUp s m.val = false) : exec (.pfcFrameRx m p n) s = .next s :=
  congrArg Host.Outcome.next (if_pos (by simp [down]))

theorem exec_pauseFrameRx_of_down {n : Fin 65536} (down : macUp s m.val = false) : exec (.pauseFrameRx m n) s = .next s :=
  congrArg Host.Outcome.next (if_pos (.inl (by simp [down])))

theorem exec_pfcFrameRx_of_up {p : Fin 8} {n : Fin 65536} (up : macUp s m.val = true) (pfc : bit (nth (macOf s m.val).cfg 0 0#32) 12 = true) :
    exec (.pfcFrameRx m p n) s =
      .next (startLine (wrB (macCount s m.val 14 1) R.macStat m.val 0 (6 + p.val) (decide (n.val ≠ 0))) m.val) :=
  congrArg Host.Outcome.next ((if_neg (by simp [up])).trans (if_neg (by simp [pfc])))

theorem exec_pauseFrameRx_of_up {n : Fin 65536} (up : macUp s m.val = true) (pause : bit (nth (macOf s m.val).cfg 0 0#32) 13 = true) :
    exec (.pauseFrameRx m n) s = .next (startLine (modMac s m.val fun c => { c with paused := decide (n.val ≠ 0) }) m.val) :=
  congrArg Host.Outcome.next (if_neg (by simp [up, pause]))

theorem exec_pfcRepeat_of_xoff {p : Fin 8} (xoff : (macOf s m.val).xoff.getLsbD p.val = true) :
    exec (.pfcRepeat m p) s = .next (pfcSend s m.val p.val (fld (nth (macOf s m.val).cfg 2 0) 15 0)) :=
  congrArg Host.Outcome.next (if_pos xoff)

/-- Nothing is repeated for a priority that is not stopped (log entry 5). -/
theorem exec_pfcRepeat_of_xon {p : Fin 8} (xon : (macOf s m.val).xoff.getLsbD p.val = false) : exec (.pfcRepeat m p) s = .next s :=
  congrArg Host.Outcome.next (if_neg (by simp [xon]))

/-- A delay request is answered with the times of its arrival and of the answer (R406). -/
theorem exec_ecpriDmrRx_of_up {sa : BitVec 48} {id : Byte} {rx tx : W64} (up : macUp s m.val = true)
    (dmr : bit (nth (macOf s m.val).cfg 0 0#32) 14 = true) : exec (.ecpriDmrRx m sa id rx tx) s = .next (macSend s m.val
      (toBe 6 sa.toNat ++ toBe 6 (pair64 (nth (macOf s m.val).cfg 3 0) (nth (macOf s m.val).cfg 4 0)) ++
        [0xAE#8, 0xFE#8, 0x10#8, 0x05#8, 0x00#8, 0x14#8, id, 0x02#8] ++ toBe 10 (rxStamp s m.val rx.toNat) ++
        toBe 8 (wrapTo 64 ((txStamp s m.val tx.toNat : Int) - rxStamp s m.val rx.toNat)))) :=
  congrArg Host.Outcome.next (if_neg (by simp [up, dmr]))

end Holds

/-- Without a MAC no line has to go on when a pin changes. -/
theorem exec_fcInChange_of_no_mac {k : Fin 8} {v : Bool} {s : State} (noMac : s.fh.macs = []) :
    exec (.fcInChange k v) s = .next (setHost s fun h => { h with fcIn := setBit h.fcIn k.val v }) := by
  change execFcInChange k v s = _
  simp only [execFcInChange, setHost_fh, noMac, List.map_nil, List.foldl_nil]

/-! ## Fronthaul jobs begin (R412–R414) -/

/-- The job of direction `tx` that task i of MAC m begins with descriptor d, with these frames to send. -/
def newFhJob (s : State) (m : Fin 128) (tx : Bool) (i : Nat) (t : Task) (d : List W32) (frames : List FhFrame) : FhJob :=
  { task := i, mac := m.val, tx := tx, flow := fld (nth d 0 0) 15 4, entry := (flowOn s (fld (nth d 0 0) 15 4)).getD [], desc := d,
    param := t.param, frames := frames, sent := 0, unsent := 0 }

/-- The frames of all symbols of an FHTX job. -/
def fhJobFrames (s : State) (m : Fin 128) (i : Nat) (d : List W32) : List FhFrame :=
  (jobSyms d).flatMap fun l => symFrames s m.val i ((flowOn s (fld (nth d 0 0) 15 4)).getD []) d l

/-- A job has begun. -/
def fhJobBegun (s : State) (j : FhJob) : State := setFh s fun h => { h with jobs := h.jobs ++ [j] }

section Jobs
variable {m : Fin 128} {s s1 s2 : State} {i : Nat} {t : Task} {d : List W32}

section Receive
variable (begun : beginTask s (.mac m false) = some (s1, i, t))
include begun

theorem fhrxStart_of_bad_desc {st : Status} (desc : fhDesc s1 m.val t = (s2, .error st)) : fhrxStart s m = complete s2 i (st16 st) := by
  simp only [fhrxStart, begun, desc]

theorem fhrxStart_of_ok (desc : fhDesc s1 m.val t = (s2, .ok d)) (ok : fhrxCheck s2 m.val d = .ok)
    (goesOn : fhrxOver (fhJobBegun s2 (newFhJob s2 m false i t d [])) (newFhJob s2 m false i t d []) = false) :
    fhrxStart s m = fhJobBegun s2 (newFhJob s2 m false i t d []) := by
  simp only [fhrxStart, begun, desc, ok]
  exact if_neg (Bool.eq_false_iff.1 goesOn)

end Receive

section Transmit
variable {s3 : State} (begun : beginTask s (.mac m true) = some (s1, i, t)) (desc : fhDesc s1 m.val t = (s2, .ok d))
  (ok : fhtxCheck s2 m.val d = .ok)
include begun desc ok

/-- A job whose messages have a sectionType that the hardware cannot fill ends at its start. -/
theorem fhtxStart_of_bad_section (bad : cplaneBad s2 m.val d = (s3, true)) : fhtxStart s m = complete s3 i (st16 .badParam) := by
  simp only [fhtxStart, begun, desc, ok, true_or, if_true, bad]

theorem fhtxStart_of_ok (good : cplaneBad s2 m.val d = (s3, false)) :
    fhtxStart s m = fhJobBegun s3 (newFhJob s3 m true i t d (fhJobFrames s3 m i d)) := by
  simp only [fhtxStart, begun, desc, ok, true_or, if_true, good, Bool.false_eq_true, if_false]
  rfl

end Transmit

/-- A job that does not take its headers from memory has no message to look into. -/
theorem cplaneBad_of_no_fill {m : Nat} (noFill : bit (nth d 7 0) 0 = false) : cplaneBad s m d = (s, false) :=
  if_pos (congrArg not noFill)

end Jobs

/-! ## Fronthaul jobs go on and end (R413–R416) -/

section Windows
variable {m : Fin 128} {i : Fin 131072} {l : Fin 14} {s : State}

theorem exec_fhrxComplete_of_none (noJob : fhJobOf s m.val i.val = none) : exec (.fhrxComplete m i) s = .next s := by
  change execFhrxComplete m i s = _
  simp only [execFhrxComplete, noJob]

theorem exec_fhtxFrameEligible_of_none (noJob : fhJobOf s m.val i.val = none) : exec (.fhtxFrameEligible m i l) s = .next s := by
  change execFhtxFrameEligible m i l s = _
  simp only [execFhtxFrameEligible, noJob]

theorem exec_fhtxCloseExpire_of_none (noJob : fhJobOf s m.val i.val = none) : exec (.fhtxCloseExpire m i l) s = .next s := by
  change execFhtxCloseExpire m i l s = _
  simp only [execFhtxCloseExpire, noJob]

/-- A frame of symbol l of task i. -/
def frameOf (i l : Nat) (x : FhFrame) : Bool := decide (x.task = i) && decide (x.sym = l)

section Job
variable {j : FhJob} (job : fhJobOf s m.val i.val = some j)
include job

theorem exec_fhrxComplete_of_rx (rx : j.tx = false) :
    exec (.fhrxComplete m i) s = .next (if fhrxOver s j then fhrxEnd s j else s) := by
  change execFhrxComplete m i s = _
  simp only [execFhrxComplete, job, rx]
  cases fhrxOver s j <;> rfl

theorem exec_fhtxFrameEligible_of_before (before : (s.ats.toNat : Int) < (jobWindow s j l.val).1) :
    exec (.fhtxFrameEligible m i l) s = .next s := by
  change execFhtxFrameEligible m i l s = _
  simp only [execFhtxFrameEligible, job, if_pos before]

theorem exec_fhtxFrameEligible_of_open (opened : (jobWindow s j l.val).1 ≤ (s.ats.toNat : Int)) : exec (.fhtxFrameEligible m i l) s =
    .next (startLine (modMac (modJob s m.val i.val fun k => { k with frames := k.frames.filter fun x => decide (x.sym ≠ l.val) }) m.val
      fun c => { c with wait := c.wait ++ (j.frames.filter fun x => decide (x.sym = l.val)).map fun x => { x with elig := true } }) m.val) := by
  change execFhtxFrameEligible m i l s = _
  simp only [execFhtxFrameEligible, job, if_neg (not_lt.2 opened)]

theorem exec_fhtxCloseExpire_of_before (before : (s.ats.toNat : Int) < (jobWindow s j l.val).2) :
    exec (.fhtxCloseExpire m i l) s = .next s := by
  change execFhtxCloseExpire m i l s = _
  simp only [execFhtxCloseExpire, job, if_pos before]

/-- At its close the frames of a symbol that have not begun are gone, and count as late. -/
theorem exec_fhtxCloseExpire_of_closed (closed : (jobWindow s j l.val).2 ≤ (s.ats.toNat : Int)) : exec (.fhtxCloseExpire m i l) s =
    .next (fhtxEnd (dropFrames (modJob (modMac s m.val fun c => { c with wait := c.wait.filter fun x => !frameOf i.val l.val x }) m.val i.val
      fun k => { k with frames := k.frames.filter fun x => !frameOf i.val l.val x }) m.val i.val
      ((j.frames.filter (frameOf i.val l.val)).length + ((macOf s m.val).wait.filter (frameOf i.val l.val)).length) true) m.val i.val) := by
  change execFhtxCloseExpire m i l s = _
  simp only [execFhtxCloseExpire, job, if_neg (not_lt.2 closed)]
  rfl

end Job
end Windows

section Line
variable {m : Nat} {s s1 : State}

theorem frameSent_of_idle (idle : (macOf s m).line = none) : frameSent s m = s := by
  simp only [frameSent, idle]

/-- A frame of a job that has left the line is sent and counted, and the line goes on. -/
theorem frameSent_of_job {x : FhFrame} {j : FhJob} {bs : List Byte} (onLine : (macOf s m).line = some x)
    (job : fhJobOf (modMac s m fun c => { c with line := none }) m x.task = some j)
    (bytes : frameBytes (modMac s m fun c => { c with line := none }) m j x = (s1, some bs)) :
    frameSent s m = fhtxEnd (startLine (countFrames (macCount (macCount (macSend s1 m bs) m 9 1) m 10 (bs.length + 4)) m x.task 1 0) m)
      m x.task := by
  have job' : fhJobOf s m x.task = some j := job
  simp only [frameSent, onLine, job', bytes]

end Line

/-! ## The commands of MACs and flows (R431, R432, R434) -/

section Commands
variable {q : Req} {s : State} {w : W32}

/-- `FH_MAC_CONFIG` with EN = 0 at 10 Gbit/s, without addresses or a default queue. -/
theorem fhMacConfig_of_off {f : W32} (ps : q.params = [w, f, 0, 0, 0, 0]) (bits : onlyBits w 0x7FFF#32 = true)
    (frame : onlyBits f 0x3FFF#32 = true) (here : laneHere s.variant (2 * fld w 6 0) = true) (off : bit w 7 = false)
    (speed : fld w 10 8 = 0) (least : 1518 ≤ f.toNat) (most : f.toNat ≤ 9600) :
    fhMacConfig q s = done (fhDrop (macSync (modMac (wr s R.macCfg (fld w 6 0) 0 w) (fld w 6 0) fun c => { c with cfg := q.params })
      (fld w 6 0))) .ok := by
  have zero (mask : W32) : onlyBits 0#32 mask = true := by simp [onlyBits]
  have form : wellFormed q.params [0x7FFF#32, 0x3FFF#32, 0xFFFF#32, 0xFFFFFFFF#32, 0xFFFF#32, 0x7FF#32] = true := by
    simp [wellFormed, ps, bits, frame, zero]
  have p0 : par q 0 = w := by simp [par, nth, ps]
  have p1 : par q 1 = f := by simp [par, nth, ps]
  have p5 : par q 5 = 0 := by simp [par, nth, ps]
  have noQueue : bit (0 : W32) 10 = false := by decide
  simp only [fhMacConfig, form, p0, p1, p5, here, off, speed, noQueue, speedFec, speedLanes]
  simp [least, most]

theorem fhMacStatus_of_here (ps : q.params = [w]) (bits : onlyBits w 0x7F#32 = true) (here : laneHere s.variant (2 * w.toNat) = true) :
    fhMacStatus q s = doneW s [macStatView s w.toNat, rd s R.macEvt w.toNat] := by
  simp [fhMacStatus, wellFormed, par, nth, ps, bits, here]

/-- A flow that is not configured is a receive flow. -/
theorem fhFlowStatus_of_none (ps : q.params = [w]) (bits : onlyBits w 0xFFF#32 = true) (noFlow : flowOn s w.toNat = none) :
    fhFlowStatus q s = doneW s ([(flowStat s w.toNat).recv, (flowStat s w.toNat).early, (flowStat s w.toNat).late,
      (flowStat s w.toNat).gap].flatMap fun n => [lo32 n, hi32 n]) := by
  have first : par q 0 = w := by simp [par, nth, ps]
  simp only [fhFlowStatus, first, noFlow, wellFormed, ps]
  simp [bits]

end Commands

/-- Settles O51, row by row and command by command from the equations above. The model's choices in it: before a window, without a job
and on an idle line a row changes nothing (log entry 5), and a frame comes whole in its row (log entry 91). -/
theorem fronthaul : Obligations.Fronthaul := by
  refine ⟨?frame, ?down, ?pfc, ?pause, ?expiry, ?repeats, ?noRepeat, ?delay, ?rxBad, ?rxStart, ?rxEnd, ?txStart, ?txFill, ?before, ?eligible,
    ?noJob, ?sent, ?idle, ?late, ?pin, ?macConfig, ?macStatus, ?flowStatus⟩
  case frame =>
    rintro m f s _ rfl up
    exact ⟨fun fcs short long => congrArg Host.Outcome.next (ethRx_of_good up fcs short long),
      fun fcs none_ => congrArg Host.Outcome.next (ethRx_of_bad_fcs up fcs none_)⟩
  case down =>
    refine fun m f p n s down => ⟨fun noFec => ?_, exec_pfcFrameRx_of_down down, exec_pauseFrameRx_of_down down⟩
    rw [exec_ethFrameRx, fecTaken, noFec, if_neg Bool.false_ne_true, ethRx_of_down down]
  case pfc => exact fun _ _ _ _ up on => exec_pfcFrameRx_of_up up on
  case pause => exact fun _ _ _ up on => exec_pauseFrameRx_of_up up on
  case expiry => exact fun _ _ => ⟨rfl, rfl⟩
  case repeats => exact fun _ _ _ xoff => exec_pfcRepeat_of_xoff xoff
  case noRepeat => exact fun _ _ _ xon => exec_pfcRepeat_of_xon xon
  case delay => exact fun _ _ _ _ _ _ up dmr => exec_ecpriDmrRx_of_up up dmr
  case rxBad => exact fun _ s _ _ _ _ _ begun desc => congrArg (settledNext s) (fhrxStart_of_bad_desc begun desc)
  case rxStart =>
    rintro m s s1 s2 i t d _ begun desc ok rfl goesOn
    exact congrArg (settledNext s) (fhrxStart_of_ok begun desc ok goesOn)
  case rxEnd =>
    intro m i j s job rx
    rw [exec_fhrxComplete_of_rx job rx]
    exact ⟨fun isOver => by rw [if_pos isOver], fun goesOn => by rw [goesOn, if_neg Bool.false_ne_true]⟩
  case txStart =>
    intro m s s1 s2 i t d begun desc ok noFill
    exact congrArg (settledNext s) (fhtxStart_of_ok begun desc ok (cplaneBad_of_no_fill noFill))
  case txFill =>
    intro m s s1 s2 s3 i t d begun desc ok
    exact ⟨fun bad => congrArg (settledNext s) (fhtxStart_of_bad_section begun desc ok bad),
      fun good => congrArg (settledNext s) (fhtxStart_of_ok begun desc ok good)⟩
  case before => exact fun _ _ _ _ _ job => ⟨exec_fhtxFrameEligible_of_before job, exec_fhtxCloseExpire_of_before job⟩
  case eligible => exact fun _ _ _ _ _ job opened => exec_fhtxFrameEligible_of_open job opened
  case noJob =>
    exact fun _ _ _ _ noJob => ⟨exec_fhtxFrameEligible_of_none noJob, exec_fhtxCloseExpire_of_none noJob, exec_fhrxComplete_of_none noJob⟩
  case sent => exact fun _ _ _ _ s _ onLine job bytes => congrArg (settledNext s) (frameSent_of_job onLine job bytes)
  case idle => exact fun _ _ idle => settledNext_of_unchanged (frameSent_of_idle idle)
  case late => exact fun _ _ _ _ _ job closed => exec_fhtxCloseExpire_of_closed job closed
  case pin => exact fun _ _ _ noMac => exec_fcInChange_of_no_mac noMac
  case macConfig =>
    intro q s w f h ps bits frame here off speed least most
    exact congrArg Host.Outcome.next (runCommand_done h (congrArg some (fhMacConfig_of_off ps bits frame here off speed least most)))
  case macStatus =>
    intro q s w h ps bits here
    exact congrArg Host.Outcome.next
      (runCommand_answers h (congrArg some (fhMacStatus_of_here ps bits here)) rfl (unseated_seated h.free) rfl rfl)
  case flowStatus =>
    intro q s w h ps bits none_
    exact congrArg Host.Outcome.next
      (runCommand_answers h (congrArg some (fhFlowStatus_of_none ps bits none_)) rfl (unseated_seated h.free) rfl rfl)

end Sys2Proof.Machine
end

section
/-! Packets received, forwarded commands, fragments, domain commits at a target and event sinks (R465, R466, R480, R485–R494, R509): what each
row does in each case of O40, and its proof. -/

namespace Sys2Proof.Machine

/-! ## A received packet (R480) -/

section Packets
variable {s : State} {p : Packet}

section BadHeader
variable (unarmed : rdB s R.pnInj 0 0 0 = false) (bad : headerOk p = false)
include unarmed bad

/-- A packet over PCIe whose header fails waits in its stream to be answered. -/
theorem receive_of_bad_header_pcie {qp : Fin 8} {n : Nat} (pcie : p.carrier = .pcie qp n) :
    receive s p = settle (arrive (headerFailed s false)
      { opcode := 0, req := { packetReq p with tag := 0, params := [] }, fail := some .integrity, noHdr := true }) := by
  simp [receive, unarmed, bad, pcie]

/-- A packet over Lace whose header fails is a header failure, and no more. -/
theorem receive_of_bad_header_lace {src : W16} {n x : Nat} (lace : p.carrier = .lace src n x) : receive s p = headerFailed s false := by
  simp [receive, unarmed, bad, lace]

end BadHeader

/-- A good packet over PCIe joins its stream. -/
theorem receive_of_good_pcie {qp : Fin 8} {n : Nat} (pcie : p.carrier = .pcie qp n) (unarmed : rdB s R.pnInj 0 0 0 = false)
    (header : headerOk p = true) (good : packetFault s p (rdB s R.pnInj 0 0 1) = none) :
    receive s p = settle (arrive s
      { opcode := fld (pkW p 0) 15 0, req := packetReq p, fail := none, fwd := packetTarget s p }) := by
  simp [receive, acceptPacket, isLace, unarmed, header, good, pcie]

theorem exec_commandPacketRx_of_pcie {qp : Fin 8} {n : Nat} (pcie : p.carrier = .pcie qp n) :
    exec (.commandPacketRx p) s = .next (receive s p) := by
  change execCommandPacketRx p s = _
  simp only [execCommandPacketRx, pcie]

theorem exec_commandPacketRx_of_lace {src : W16} {n x : Nat} (lace : p.carrier = .lace src n x) :
    exec (.commandPacketRx p) s = .next (receive s p) := by
  change execCommandPacketRx p s = _
  simp only [execCommandPacketRx, lace]

theorem exec_i3cPrivateWrite_of_i3c {n : Nat} (i3c : p.carrier = .i3c n) : exec (.i3cPrivateWrite p) s = .next (i3cWrite s p) := by
  change execI3cPrivateWrite p s = _
  simp only [execI3cPrivateWrite, i3c]

theorem i3cWrite_of_busy (busy : streamBusy s 8 = true) : i3cWrite s p = { s with readStat := .busy } :=
  if_pos (by simp [i3cNack, busy])

theorem i3cWrite_of_free (free : streamBusy s 8 = false) (idle : s.pn.waiting = []) (noReply : s.pn.i3cReply = none) (up : fwUp s = true) :
    i3cWrite s p = receive { s with readStat := .ok } p :=
  if_neg (by simp [i3cNack, free, idle, noReply, up])

end Packets

theorem exec_pnInjArm_of_may {w : Writer} {v : W32} {s : State} (may : mayInject s w = true) :
    exec (.pnInjArm w v) s = .next (wr s R.pnInj 0 0 (rd s R.pnInj ||| (v &&& 3#32))) :=
  congrArg Host.Outcome.next (if_pos may)

/-! ## Forwarded commands (R493) -/

section Forwards
variable {s : State} {x : Fin 65536} {f : Forward}

/-- A reply that nothing waits for is counted and raised. -/
theorem exec_forwardReplyRx_of_late {st : Status} {ws : List W32} (late : (s.pn.forwards.find? fun f => decide (f.xid = x.val)) = none) :
    exec (.forwardReplyRx x st ws) s = .next (raise (bump s R.pnCount 0 5 1) E.pn 0 3) := by
  refine congrArg Host.Outcome.next ?_
  simp only [forwardReply, late]

theorem exec_forwardReplyRx_of_waiting {st : Status} {ws : List W32}
    (waits : (s.pn.forwards.find? fun f => decide (f.xid = x.val)) = some f) :
    exec (.forwardReplyRx x st ws) s = .next (forwardEnd s f st ws) := by
  refine congrArg Host.Outcome.next ?_
  simp only [forwardReply, waits]

theorem exec_forwardTimeout_of_waiting (waits : (s.pn.forwards.find? fun f => decide (f.xid = x.val)) = some f) :
    exec (.forwardTimeout x) s = .next (forwardEnd (raise s E.pn 0 4) f .timeout []) := by
  change execForwardTimeout x s = _
  simp only [execForwardTimeout, waits]

end Forwards

/-! ## Fragments (R494) -/

section Fragments
variable {s : State} {src : W16} {x : Fin 65536}

/-- The 32-bit words of a fragment. -/
def fragmentWords (d : List TWord) : List W32 := d.flatMap fun w => [lo32 w.1.toNat, hi32 w.1.toNat]

/-- The first fragment of two is kept until the second comes. -/
theorem exec_laceFragmentRx_of_first {d : List TWord} (fresh : partialOf s src x.val = none) : exec (.laceFragmentRx src x 0 1 d) s =
    .next (setPn (dropPartial s src x.val) fun p => { p with partials := p.partials ++ [{
      src := src, xid := x.val, last := 1, frags := putKey [] 0 (some (fragmentWords d)), bad := d.any fun w => w.2 }] }) := by
  refine congrArg Host.Outcome.next ?_
  simp only [fresh]
  rfl

/-- A packet of one fragment is whole. -/
theorem exec_laceFragmentRx_of_only {d : List TWord} (fresh : partialOf s src x.val = none) : exec (.laceFragmentRx src x 0 0 d) s =
    .next (lacePacket (dropPartial s src x.val) src x.val (fragmentWords d) (d.any fun w => w.2)) := by
  change execLaceFragmentRx src x 0 0 d s = _
  simp [execLaceFragmentRx, fresh, wholePacket, putKey, assoc, fragmentWords]

theorem exec_fragmentTimeout_of_partial {y : Partial} (kept : partialOf s src x.val = some y) :
    exec (.fragmentTimeout src x) s = .next (headerFailed (dropPartial s src x.val) false) :=
  congrArg Host.Outcome.next (if_pos (by simp [kept]))

end Fragments

/-! ## Domain commits (R465, R466) -/

section Targets
variable {s : State} {op : Fin 65536} {tag : W16}

theorem exec_prepareRx_of_joined {s1 : State} {inner out : List W32} {st : Status} (member : joined s = true)
    (prepared : prepareHere s inner 9 = (s1, st, out)) :
    exec (.prepareRx inner) s = .next (laceMsg s1 12 (mhId s) (packF [(0, statNum st)] :: out)) := by
  refine congrArg Host.Outcome.next ((if_neg (by simp [member])).trans ?_)
  simp only [prepared]

theorem exec_confirmRx_of_prepared {c : Commit} (prepared : preparedOf s op.val tag = some c) : exec (.confirmRx op tag) s =
    .next (laceMsg (confirmHere s op.val tag) 12 (mhId s) [packF [(0, op.val), (16, tag.toNat)]]) :=
  congrArg Host.Outcome.next (if_neg (by simp [prepared]))

theorem exec_abortRx_of_prepared {c : Commit} (prepared : preparedOf s op.val tag = some c) :
    exec (.abortRx op tag) s = .next (discardPrepared s c) := by
  refine congrArg Host.Outcome.next ?_
  simp only [abortHere, prepared]

/-- A message about a commit that is not staged here changes nothing (log entry 5). -/
theorem exec_confirmRx_of_none (none_ : preparedOf s op.val tag = none) : exec (.confirmRx op tag) s = .next s :=
  congrArg Host.Outcome.next (if_pos (by simp [none_]))

theorem exec_abortRx_of_none (none_ : preparedOf s op.val tag = none) : exec (.abortRx op tag) s = .next s := by
  refine congrArg Host.Outcome.next ?_
  simp only [abortHere, none_]

end Targets

section Masthead
variable {s : State} {x : Fin 11} {c : DCommit} (held : domainOf s x.val = some c)
include held

theorem exec_domainCommitDecision_of_held (rs : List (Fin 65536 × Status)) :
    exec (.domainCommitDecision x rs) s = .next (settle (domainDecide s c (rs.map fun e => (e.1.val, e.2)))) := by
  change execDomainCommitDecision x rs s = _
  simp only [execDomainCommitDecision, held]

theorem exec_domainAckDeadline_of_held : exec (.domainAckDeadline x) s = .next (settle (domainDeadline s c)) := by
  change execDomainAckDeadline x s = _
  simp only [execDomainAckDeadline, held]

theorem exec_confirmAckRx_of_held (dev : Fin 65536) : exec (.confirmAckRx x dev) s = .next (settle (domainAck s c dev.val)) := by
  change execConfirmAckRx x dev s = _
  simp only [execConfirmAckRx, held]

end Masthead

/-! ## Event sinks (R485) -/

section Sinks
variable {s : State}

/-- The oldest event of the PCIe sink is delivered while QP8 has room. -/
theorem exec_eventSinkDrain_of_room {ev : Event} {r : List Event} (oldest : s.pn.pcieSink.buf = ev :: r) (on : qpEn s 8 = true)
    (room : cqOcc s 8 < qpSize s 8) : exec (.eventSinkDrain 0) s = .next (cqPost (sinkPop s .pcie) 8
      ([0, w32 ev.seq, 0, 0] ++ (eventPacket s ev 0 false ++ List.replicate 12 0#32).take 12) true) := by
  change execEventSinkDrain 0 s = _
  simp [execEventSinkDrain, oldest, on, room]

/-- An empty sink delivers nothing (log entry 5). -/
theorem exec_eventSinkDrain_of_empty {k : Fin 3} (notI3c : k.val ≠ 1) (pcie : s.pn.pcieSink.buf = []) (lace : s.pn.laceSink.buf = []) :
    exec (.eventSinkDrain k) s = .next s := by
  change execEventSinkDrain k s = _
  match k with
  | 0 => simp [execEventSinkDrain, pcie]
  | 1 => exact absurd rfl notI3c
  | 2 => simp [execEventSinkDrain, lace]

end Sinks

/-- Settles O40, row by row from the equations above. The model's choices in it: a message about a commit that is not staged here and the
drain of an empty sink change nothing (log entry 5). -/
theorem packetsReceived : Obligations.PacketsReceived := by
  refine ⟨?badPcie, ?badLace, ?good, ?i3cBusy, ?i3cFree, ?arm, ?late, ?replied, ?forwardTimeout, ?firstFragment, ?onlyFragment, ?fragmentTimeout,
    ?prepare, ?confirm, ?notPrepared, ?expired, ?masthead, ?drain, ?empty⟩
  case badPcie =>
    exact fun _ _ _ _ pcie unarmed bad =>
      (exec_commandPacketRx_of_pcie pcie).trans (congrArg Host.Outcome.next (receive_of_bad_header_pcie unarmed bad pcie))
  case badLace =>
    exact fun _ _ _ _ _ lace unarmed bad =>
      (exec_commandPacketRx_of_lace lace).trans (congrArg Host.Outcome.next (receive_of_bad_header_lace unarmed bad lace))
  case good =>
    exact fun _ _ _ _ pcie unarmed header good =>
      (exec_commandPacketRx_of_pcie pcie).trans (congrArg Host.Outcome.next (receive_of_good_pcie pcie unarmed header good))
  case i3cBusy =>
    exact fun _ _ _ i3c busy => (exec_i3cPrivateWrite_of_i3c i3c).trans (congrArg Host.Outcome.next (i3cWrite_of_busy busy))
  case i3cFree =>
    exact fun _ _ _ i3c free idle noReply up =>
      (exec_i3cPrivateWrite_of_i3c i3c).trans (congrArg Host.Outcome.next (i3cWrite_of_free free idle noReply up))
  case arm => exact fun _ _ _ may => exec_pnInjArm_of_may may
  case late => exact fun _ _ _ _ late => exec_forwardReplyRx_of_late late
  case replied => exact fun _ _ _ _ _ waits => exec_forwardReplyRx_of_waiting waits
  case forwardTimeout => exact fun _ _ _ waits => exec_forwardTimeout_of_waiting waits
  case firstFragment => exact fun _ _ _ _ fresh => exec_laceFragmentRx_of_first fresh
  case onlyFragment => exact fun _ _ _ _ fresh => exec_laceFragmentRx_of_only fresh
  case fragmentTimeout => exact fun _ _ _ _ kept => exec_fragmentTimeout_of_partial kept
  case prepare => exact fun _ _ _ _ _ member prepared => exec_prepareRx_of_joined member prepared
  case confirm => exact fun _ _ _ _ prepared => ⟨exec_confirmRx_of_prepared prepared, exec_abortRx_of_prepared prepared⟩
  case notPrepared => exact fun _ _ _ none_ => ⟨exec_confirmRx_of_none none_, exec_abortRx_of_none none_⟩
  case expired => exact fun _ _ => rfl
  case masthead =>
    exact fun _ rs _ _ held =>
      ⟨exec_domainCommitDecision_of_held held rs, exec_domainAckDeadline_of_held held, exec_confirmAckRx_of_held held⟩
  case drain => exact fun _ _ _ oldest on room => exec_eventSinkDrain_of_room oldest on room
  case empty => exact fun _ _ notI3c pcie lace => exec_eventSinkDrain_of_empty notI3c pcie lace

end Sys2Proof.Machine
end

section
/-! The link layer of a Lace port (R441–R449, R457): how a port's record reads after a change, what each received block and each timer does in
each case of O46, and its proof. -/

namespace Sys2Proof.Machine

/-! ## The record of a port -/

/-- An entry stored is found, in a map that need not be canonical. -/
theorem assoc_putKey_some {α : Type} : ∀ (l : List (Nat × α)) (q : Nat) (v : α), assoc (putKey l q (some v)) q = some v
  | [], _, _ => by simp [putKey, assoc]
  | (k, w) :: r, q, v => by
    rcases Nat.lt_trichotomy q k with lt | rfl | gt
    · simp [putKey, assoc, lt]
    · simp [putKey, assoc]
    · simp [putKey, assoc, Nat.not_lt.2 gt.le, gt.ne, gt.ne', assoc_putKey_some r q v]

/-- A port reads as changed, where the change does not leave it as at reset. -/
theorem portOf_modPort {s : State} {p : Nat} {f : LPort → LPort} (stored : f (portOf s p) ≠ LPort.reset) :
    portOf (modPort s p f) p = f (portOf s p) := by
  have found : assoc (modPort s p f).lace.ports p = some (f (portOf s p)) := by
    simp only [modPort, putPort, setLace_lace, if_neg stored, assoc_putKey_some]
  rw [portOf, found, Option.getD_some]

/-! ## FLIT blocks (R445–R447) -/

section Flits
variable {s s1 : State} {p seq : Nat} {b : Block} {t : Option Byte}

/-- A received FLIT block counts towards the next LCTL block. -/
def flitCounted (s : State) (p : Nat) : State := modPort s p fun y => { y with since := y.since + 1 }

theorem portOf_flitCounted (s : State) (p : Nat) :
    portOf (flitCounted s p) p = { portOf s p with since := (portOf s p).since + 1 } :=
  portOf_modPort fun e => Nat.succ_ne_zero _ (congrArg LPort.since e)

/-- The type that a received block is taken for is the type of its byte. -/
theorem typeOf_of_recvBlock {x : Byte} (read : recvBlock s p b = (s1, some x)) : (typeOf b.typ).map (fun y => y.1) = some x := by
  have good : (goodType b).map (fun y => y.1) = some x := congrArg Prod.snd read
  obtain ⟨y, filtered, rfl⟩ := Option.map_eq_some_iff.1 good
  rw [(Option.filter_eq_some_iff.1 filtered).1, Option.map_some]

/-- A port that is not UP takes no FLIT (log entry 5). -/
theorem flitRx_of_not_up (down : portState s p ≠ 3) : flitRx s p seq b = s := if_pos down

section Counted
variable (up : portState s p = 3) (read : recvBlock s p b = (s1, t)) (flit : (typeOf b.typ).map (fun x => x.1) = some tFLIT)
include up read flit

/-- A good FLIT in order is kept, and answered where it is the 32nd since the last LCTL block. -/
theorem flitRx_of_in_order (good : t = some tFLIT) (order : seq = (portOf s1 p).rxSeq) : flitRx s p seq b = (
    let s2 := modPort (flitCounted s1 p) p fun y => { y with
      rxSeq := (y.rxSeq + 1) % 256, naked := false, ackDue := true, rx := y.rx ++ [b.payload], eiReq := false, spliceAt := none }
    if 31 ≤ (portOf s1 p).since then sendLctl s2 p false else s2) := by
  have counted := portOf_flitCounted s1 p
  unfold flitCounted at counted ⊢
  unfold flitRx
  simp [up, read, flit, good, order, b2n, counted]

/-- Of a failure one NAK is sent. -/
theorem flitRx_of_failure (bad : t ≠ some tFLIT ∨ seq ≠ (portOf s1 p).rxSeq)
    (first : (portOf s1 p).naked = false ∨ seq = (portOf s1 p).rxSeq) :
    flitRx s p seq b = sendLctl (modPort (flitCounted s1 p) p fun y => { y with naked := true }) p true := by
  have counted := portOf_flitCounted s1 p
  unfold flitCounted at counted ⊢
  unfold flitRx
  have notGood : (decide (t = some tFLIT) && decide (seq = (portOf s1 p).rxSeq)) = false := by
    rcases bad with h | h <;> simp [h]
  simp [up, read, flit, b2n, counted, notGood, first]

/-- A FLIT out of order behind a failure that has its NAK is only counted. -/
theorem flitRx_of_naked (order : seq ≠ (portOf s1 p).rxSeq) (naked : (portOf s1 p).naked = true) :
    flitRx s p seq b = if 31 ≤ (portOf s1 p).since then sendLctl (flitCounted s1 p) p false else flitCounted s1 p := by
  have counted := portOf_flitCounted s1 p
  unfold flitCounted at counted ⊢
  unfold flitRx
  simp [up, read, flit, b2n, counted, order, naked]

end Counted
end Flits

/-! ## LCTL blocks, acknowledgements and replay (R446, R447) -/

section Lctl
variable {s s1 : State} {p : Fin 32} {b : Block}

/-- An LCTL block without a NAK acknowledges, adds credits and pumps the queue. -/
theorem lctlRx_of_ack {p : Nat} (up : portState s p = 3) (read : recvBlock s p b = (s1, some tLCTL))
    (noNak : bit (nth b.payload 0 0#32) 8 = false) : lctlRx s p b = pump (modPort s1 p fun y => { y with
      unacked := ackTo_ y.unacked (fld (nth b.payload 0 0#32) 7 0), spliceAt := none,
      credits := (y.credits.zipIdx).map fun c => c.1 + fld (nth b.payload (1 + c.2) 0) 15 0 }) p := by
  simp [lctlRx, up, read, noNak]

theorem exec_lctlSendTimer_of_due (up : portState s p.val = 3) (due : (portOf s p.val).ackDue = true) :
    exec (.lctlSendTimer p) s = .next (sendLctl s p.val false) :=
  congrArg Host.Outcome.next (if_pos ⟨up, .inl due⟩)

/-- No control block and no replay leaves a port that is not UP (log entry 5). -/
theorem exec_lctlSendTimer_of_not_up (down : portState s p.val ≠ 3) : exec (.lctlSendTimer p) s = .next s :=
  congrArg Host.Outcome.next (if_neg fun h => down h.1)

theorem exec_replayTimeout_of_not_up (down : portState s p.val ≠ 3) : exec (.replayTimeout p) s = .next s :=
  congrArg Host.Outcome.next (if_neg down)

theorem exec_replayTimeout_of_up (up : portState s p.val = 3) : exec (.replayTimeout p) s = .next (replay s p.val) :=
  congrArg Host.Outcome.next (if_pos up)

/-- Nothing is replayed where everything is acknowledged (log entry 5). -/
theorem replay_of_all_acked {p : Nat} (acked : (portOf s p).unacked = []) : replay s p = s := by
  simp only [replay, acked]

end Lctl

/-! ## Handshakes (R443, R456) -/

section Handshakes
variable {s s1 : State} {p : Nat} {b : Block}

theorem exec_hskSendTimer_of_handshake {p : Fin 32} (handshake : portState s p.val = 2)
    (sends : receiveOnly s (nth (portLanes s p.val) 0 0) = false) :
    exec (.hskSendTimer p) s = .next (sendBlock s p.val tHSK (hskPayload s p.val none)) :=
  congrArg Host.Outcome.next (if_pos ⟨handshake, by simp [sends]⟩)

theorem exec_hskSendTimer_of_splice {p : Fin 32} (splice : portState s p.val = 5) :
    exec (.hskSendTimer p) s = .next (sendBlock s p.val tHSK (hskPayload s p.val (some (portOf s p.val).rxSeq))) :=
  congrArg Host.Outcome.next ((if_neg fun h => by omega).trans (if_pos splice))

/-- After a handshake block the Hoist and a splice in progress follow. -/
theorem exec_hskRx_of_eq {p : Fin 32} {t : State} (e : hskRx s p.val b = t) : exec (.hskRx p b) s = .next (spliceCheck (hoistFix t)) :=
  congrArg (fun a => Host.Outcome.next (spliceCheck (hoistFix a))) e

/-- Of a port whose handshake fails, the lanes in phase 6 end their attempt (log entry 178). -/
theorem hskFail_eq (s : State) (p r : Nat) : hskFail s p r =
    let s2 := raise (wrF s R.lcStat p 0 24 22 r) E.lc p 5
    portSync ((portLanes s2 p).foldl (fun a n => if laneRole a n = 2 ∧ laneState a n = 6 ∧ (lanePort a n).getD p = p then
      failLane a n 0 else a) s2) p := by
  simp only [hskFail, Bool.and_eq_true, decide_eq_true_eq, and_assoc]

variable (read : recvBlock s p b = (s1, some tHSK))
include read

theorem hskRx_of_fault {r : Nat} (fault : hskFault s1 p b.payload = some r) : hskRx s p b = hskFail s1 p r := by
  simp [hskRx, read, fault]

/-- An UP ring port takes the spliced device that names itself as its new partner. -/
theorem hskRx_of_splice (good : hskFault s1 p b.payload = none) (up : portState s1 p = 3)
    (splice : bit (nth b.payload 0 0#32) 18 = true) (ring : portRing s1 p = true) : hskRx s p b = newPartner s1 p b.payload := by
  simp [hskRx, read, good, up, splice, ring]

/-- The partner's ACK completes the handshake of a port that sends. -/
theorem hskRx_of_ack {s2 : State} (good : hskFault s1 p b.payload = none) (handshake : portState s1 p = 2)
    (ack : bit (nth b.payload 0 0#32) 17 = true)
    (shown : modPort (showPartner s1 p b.payload) p (fun y => { y with hsRx := true, hsAck := true }) = s2)
    (sends : receiveOnly s2 (nth (portLanes s2 p) 0 0) = false) : hskRx s p b = handshakeDone s2 p := by
  subst shown
  simp [hskRx, read, good, handshake, ack, sends]

end Handshakes

/-! ## Link loss and electrical idle (R448, R449, R457) -/

section Idle
variable {s s1 : State} {p : Fin 32} {b : Block}

theorem exec_laceLinkLoss_of_reason {m : Bool} (live : portState s p.val = 3 ∨ portState s p.val = 4)
    (reason : m = true ∨ linesBad s p.val = true ∨ (portOf s p.val).leave = true) :
    exec (.laceLinkLoss ⟨p, m⟩) s = .next (linkLost s p.val) :=
  congrArg Host.Outcome.next (if_pos ⟨live, by simpa [or_assoc] using reason⟩)

/-- Without a reason no link is lost (log entry 5). -/
theorem exec_laceLinkLoss_of_no_reason (lines : linesBad s p.val = false) (stays : (portOf s p.val).leave = false) :
    exec (.laceLinkLoss ⟨p, false⟩) s = .next s :=
  congrArg Host.Outcome.next (if_neg fun h => by simp [lines, stays] at h)

/-- A port that is DOWN has no link to lose (log entry 5). -/
theorem exec_laceLinkLoss_of_down {m : Bool} (down : portState s p.val = 0) : exec (.laceLinkLoss ⟨p, m⟩) s = .next s :=
  congrArg Host.Outcome.next (if_neg fun h => by
    have live : portState s p.val = 3 ∨ portState s p.val = 4 := h.1
    omega)

theorem mayIdle_iff {p : Nat} : mayIdle s p = true ↔
    portRing s p = false ∧ portState s p = 3 ∧ rdB s R.lcStat p 0 3 = false ∧ rdB s R.lcStat p 0 4 = false := by
  simp [mayIdle, and_assoc]

theorem exec_eiIdleTimer_of_idle (on : rdB s R.lcCfg p.val 0 13 = true) (may : mayIdle s p.val = true)
    (noFlit : (portOf s p.val).txq = []) (acked : (portOf s p.val).unacked = []) (first : (portOf s p.val).eiReq = false) :
    exec (.eiIdleTimer p) s =
      .next (modPort (sendBlock s p.val tEIE (List.replicate 16 0#32)) p.val fun y => { y with eiReq := true }) :=
  congrArg Host.Outcome.next (if_pos (by simp [on, may, noFlit, acked, first]))

/-- Electrical idle is announced only where the port's configuration allows it (log entry 5). -/
theorem exec_eiIdleTimer_of_off (off : rdB s R.lcCfg p.val 0 13 = false) : exec (.eiIdleTimer p) s = .next s :=
  congrArg Host.Outcome.next (if_neg (by simp [off]))

section Eie
variable (up : portState s p.val = 3) (read : recvBlock s p.val b = (s1, some tEIE))
include up read

theorem exec_eieRx_of_leave (leave : nth b.payload 0 0#32 = 0x4C454156#32) :
    exec (.eieRx p b) s = .next (modPort s1 p.val fun y => { y with leave := true }) := by
  refine congrArg Host.Outcome.next ?_
  simp [read, up, leave]

theorem exec_eieRx_of_idle (idle : nth b.payload 0 0#32 ≠ 0x4C454156#32) (may : mayIdle s1 p.val = true) :
    exec (.eieRx p b) s = .next (modPort s1 p.val fun y => { y with eiReq := true }) := by
  refine congrArg Host.Outcome.next ?_
  simp [read, up, idle, may]

end Eie
end Idle

/-- Settles O46, block by block and timer by timer from the equations above. The model's choices in it: a block or a timer without a reason
changes nothing (log entry 5), and a handshake that fails ends the attempt of the port's lanes in phase 6 (log entry 178). -/
theorem laceLinks : Obligations.LaceLinks := by
  refine ⟨?inOrder, ?outOfOrder, ?naked, ?badCrc, ?flitDown, ?ack, ?due, ?timersDown, ?replays, ?acked, ?handshake, ?splice, ?fault, ?partner,
    ?complete, ?loss, ?noLoss, ?lossDown, ?announce, ?noIdle, ?eie⟩
  case inOrder => exact fun _ _ _ _ _ up read order => congrArg Host.Outcome.next (flitRx_of_in_order up read (typeOf_of_recvBlock read) rfl order)
  case outOfOrder =>
    exact fun _ _ _ _ _ up read order first =>
      congrArg Host.Outcome.next (flitRx_of_failure up read (typeOf_of_recvBlock read) (.inr order) (.inl first))
  case naked => exact fun _ _ _ _ _ up read order naked => congrArg Host.Outcome.next (flitRx_of_naked up read (typeOf_of_recvBlock read) order naked)
  case badCrc =>
    exact fun _ _ _ _ _ up read flit first => congrArg Host.Outcome.next (flitRx_of_failure up read flit (.inl nofun) first)
  case flitDown => exact fun _ _ _ _ down => congrArg Host.Outcome.next (flitRx_of_not_up down)
  case ack => exact fun _ _ _ _ up read noNak => congrArg Host.Outcome.next (lctlRx_of_ack up read noNak)
  case due => exact fun _ _ up due => exec_lctlSendTimer_of_due up due
  case timersDown => exact fun _ _ down => ⟨exec_lctlSendTimer_of_not_up down, exec_replayTimeout_of_not_up down⟩
  case replays => exact fun _ _ up => exec_replayTimeout_of_up up
  case acked => exact fun _ _ up acked => (exec_replayTimeout_of_up up).trans (congrArg Host.Outcome.next (replay_of_all_acked acked))
  case handshake => exact fun _ _ handshake sends => exec_hskSendTimer_of_handshake handshake sends
  case splice => exact fun _ _ splice => exec_hskSendTimer_of_splice splice
  case fault =>
    exact fun _ _ _ _ _ read fault =>
      exec_hskRx_of_eq ((hskRx_of_fault read fault).trans (hskFail_eq ..))
  case partner =>
    exact fun _ _ _ _ read good up splice ring => exec_hskRx_of_eq (hskRx_of_splice read good up splice ring)
  case complete =>
    exact fun _ _ _ _ _ read good handshake ack shown sends =>
      exec_hskRx_of_eq (hskRx_of_ack read good handshake ack shown sends)
  case loss => exact fun _ _ _ live reason => exec_laceLinkLoss_of_reason live reason
  case noLoss => exact fun _ _ lines stays => exec_laceLinkLoss_of_no_reason lines stays
  case lossDown => exact fun _ _ _ down => exec_laceLinkLoss_of_down down
  case announce =>
    exact fun _ _ on ring up noHoist noPartnerHoist noFlit acked first =>
      exec_eiIdleTimer_of_idle on (mayIdle_iff.2 ⟨ring, up, noHoist, noPartnerHoist⟩) noFlit acked first
  case noIdle => exact fun _ _ off => exec_eiIdleTimer_of_off off
  case eie => exact fun _ _ _ _ up read => ⟨exec_eieRx_of_leave up read, exec_eieRx_of_idle up read⟩

end Sys2Proof.Machine
end

section
/-! Joining a Lace domain, the ring bypass, markers, the Hoist, the masthead and remote packets (R439, R442, R444, R452, R456–R464, R467, R469):
what each row does in each case of O47, and its proof. -/

namespace Sys2Proof.Machine

/-! ## Joining (R439, R469) -/

section Joining
variable {s : State}

/-- Only the acting masthead answers a device that wants an ID (log entry 5). -/
theorem exec_joinRequestRx_of_not_masthead {w : Fin 65536} {sb : Bool} {g : List (Fin 65536)} (other : acting s ≠ 2) :
    exec (.joinRequestRx w sb g) s = .next s :=
  congrArg Host.Outcome.next (if_pos other)

theorem exec_joinRequestRx_of_free {w : Fin 65536} {sb : Bool} (masthead : acting s = 2) (notOwn : w.val ≠ ownId s)
    (free : (s.lace.members.any fun m => decide (m.1 = w.val)) = false) : exec (.joinRequestRx w sb []) s =
      .next (laceMsg (setLace s fun l => { l with members := l.members ++ [(w.val, sb)] }) 2 w.val
        [1#32, packF [(0, mhId s), (16, epochNow s)]]) := by
  refine congrArg Host.Outcome.next ((if_neg (by simp [masthead])).trans ?_)
  simp only [List.foldl_nil, notOwn, free, decide_false, Bool.or_self, Bool.false_eq_true, if_false]
  rfl

theorem exec_joinRequestRx_of_own {w : Fin 65536} {sb : Bool} (masthead : acting s = 2) (own : w.val = ownId s) :
    exec (.joinRequestRx w sb []) s = .next (laceMsg s 2 w.val [0#32, packF [(0, mhId s), (16, epochNow s)]]) := by
  refine congrArg Host.Outcome.next ((if_neg (by simp [masthead])).trans ?_)
  simp only [List.foldl_nil, own, decide_true, Bool.true_or, if_true]
  rfl

section Asked
variable {j : LJoin} {mh ep : Fin 65536} {sb : Bool} (asks : s.lace.join = some j) (asked : j.stage = 1)
include asks asked

theorem exec_joinGrantRx_of_granted :
    exec (.joinGrantRx true mh ep sb) s = .next (joinRest (hoistFix (becomeJoined s j.devid mh.val ep.val 0)) j) := by
  refine congrArg Host.Outcome.next ?_
  simp [asks, asked]

theorem exec_joinGrantRx_of_refused : exec (.joinGrantRx false mh ep sb) s = .next (joinEnd (j.did.foldl closeGroup s) j .state) := by
  refine congrArg Host.Outcome.next ?_
  simp [asks, asked]

end Asked

section Member
variable {mh ep : Fin 65536} {sb : Bool} (idle : s.lace.join = none) (member : joined s = true)
include idle member

/-- A grant for a device that has joined designates it as standby, or ends its designation. -/
theorem exec_joinGrantRx_of_designation (notMasthead : acting s ≠ 2) (other : acting s ≠ 1 ∨ mh.val ≠ ownId s) :
    exec (.joinGrantRx true mh ep sb) s = .next (wrF s R.ldId 0 0 20 19 (b2n sb)) := by
  have noCall : ¬ (acting s = 1 ∧ mh.val = ownId s) := fun h => other.elim (· h.1) (· h.2)
  refine congrArg Host.Outcome.next ?_
  simp [idle, member, notMasthead, noCall]

/-- A grant that names the standby itself is the masthead's call to hand over (log entry 36). -/
theorem exec_joinGrantRx_of_call (standby : acting s = 1) (own : mh.val = ownId s) :
    exec (.joinGrantRx true mh ep sb) s = .next (setLace s fun l => { l with called := true }) := by
  refine congrArg Host.Outcome.next ?_
  simp [idle, member, standby, own]

/-- A device whose ID another holds leaves, as on command. -/
theorem exec_joinGrantRx_of_conflict (notMasthead : acting s ≠ 2) : exec (.joinGrantRx false mh ep sb) s = .next (leavesEnd (startLeave s
    ((List.range 4).filter fun k => groupJoined s k || decide (s.lace.splicing = some k)) true)) := by
  refine congrArg Host.Outcome.next ?_
  simp [idle, member, notMasthead]

end Member
end Joining

/-! ## The ring bypass (R456, R457) -/

section Bypass
variable {k : Fin 4} {s : State}

/-- The state in which port p of an opening group resumes the passing traffic and says so: `w` and `e` are the numbers that the taps expect
next in the west and the east. -/
def spliceTaken (s : State) (k w e : Nat) (a : State) (p : Nat) : State :=
  let onWest := decide (rdF a R.lcCfg p 0 7 0 / 4 = 56 + 2 * k)
  let tap := if onWest then w else e
  let a1 := modPort (setPortState (resumeTap s a p) p 5) p fun x => { x with rxSeq := tap, txSeq := if onWest then e else w }
  sendBlock a1 p tHSK (hskPayload a1 p (some tap))

theorem exec_splice_of_ready {w e : Fin 256} (splices : s.lace.splicing = some k.val) (closed : groupClosed s k.val = true)
    (ports : ringPorts s k.val ≠ []) (ready : ∀ p ∈ ringPorts s k.val, ∀ n ∈ portLanes s p, laneState s n = 6) :
    exec (.splice k w e) s = .next ((ringPorts s k.val).foldl (spliceTaken s k.val w.val e.val) (wrB s R.ldBypass 0 0 k.val false)) := by
  have inSync : ((ringPorts s k.val).all fun p => (portLanes s p).all fun n => decide (laneState s n = 6)) = true := by
    simpa only [List.all_eq_true, decide_eq_true_eq] using ready
  exact congrArg Host.Outcome.next (if_neg (by simp [splices, closed, ports, inSync]))

/-- A group that is not in its splice has none to open or to give up (log entry 5). -/
theorem exec_splice_of_other {w e : Fin 256} (other : s.lace.splicing ≠ some k.val) : exec (.splice k w e) s = .next s :=
  congrArg Host.Outcome.next (if_pos (.inl other))

theorem exec_spliceTimeout_of_other (other : s.lace.splicing ≠ some k.val) : exec (.spliceTimeout k) s = .next s :=
  congrArg Host.Outcome.next (if_pos other)

theorem exec_spliceTimeout_of_join {j : LJoin} (splices : s.lace.splicing = some k.val) (joins : (closeGroup s k.val).lace.join = some j) :
    exec (.spliceTimeout k) s = .next (leavesEnd (joinEnd (closeGroup s k.val) j .timeout)) := by
  refine congrArg Host.Outcome.next ((if_neg (by simp [splices])).trans ?_)
  simp only [joins]

theorem exec_bypassCloseLeave_of_leaving (leaves : k.val ∈ s.lace.leaving) (noSplice : s.lace.splicing = none) :
    exec (.bypassCloseLeave k) s = .next (leavesEnd (closeGroup s k.val)) :=
  congrArg Host.Outcome.next (if_neg (by simp [leaves, noSplice]))

/-- The switch of a group that does not leave stays as it is (log entry 5). -/
theorem exec_bypassCloseLeave_of_staying (stays : k.val ∉ s.lace.leaving) : exec (.bypassCloseLeave k) s = .next s :=
  congrArg Host.Outcome.next (if_pos (.inl (by simp [stays])))

end Bypass

/-! ## Markers (R442, R459–R463) -/

section Markers
variable {p : Fin 32} {b : Block} {st : W64} {s s1 : State}

/-- A marker at an UP port that is the first of its period ends the port's own period, and is taken. -/
theorem exec_markerRx_of_first (read : recvBlock s p.val b = (s1, some tMARKER)) (up : portState s p.val = 3) (up1 : portState s1 p.val = 3)
    (seen : (portOf (periodEnd s1 p.val) p.val).ignore = 0)
    (first : portWidth s p.val = 1 ∨ (portOf s p.val).lastMk.map (fun m => m.1) ≠ some (fld (nth b.payload 1 0) 31 20)) :
    exec (.markerRx p b st) s = .next (markerTake (periodEnd s1 p.val) p.val b.payload st) := by
  have noCopy (c : Bool) : (decide (1 < portWidth s p.val) && c &&
      decide ((portOf s p.val).lastMk.map (fun m => m.1) = some (fld (nth b.payload 1 0) 31 20))) = false := by
    rcases first with one | other
    · simp [one]
    · simp only [other, decide_false, Bool.and_false]
  change execMarkerRx p b st s = _
  simp only [execMarkerRx, read, noCopy]
  simp [up, up1, seen]

/-- A marker that cannot be read ends the port's own period all the same. -/
theorem exec_markerRx_of_bad (read : recvBlock s p.val b = (s1, none)) (up : portState s1 p.val = 3) :
    exec (.markerRx p b st) s = .next (periodEnd s1 p.val) := by
  change execMarkerRx p b st s = _
  simp [execMarkerRx, read, up]

/-- The copy of a marker on another lane is not taken again. -/
theorem exec_markerRx_of_copy (read : recvBlock s p.val b = (s1, some tMARKER)) (wide : 1 < portWidth s p.val)
    (copy : (portOf s p.val).lastMk.map (fun m => m.1) = some (fld (nth b.payload 1 0#32) 31 20)) :
    exec (.markerRx p b st) s = .next s1 := by
  change execMarkerRx p b st s = _
  simp [execMarkerRx, read, wide, copy]

end Markers

/-! ## The Hoist and the masthead (R458, R463, R464) -/

section Hoist
variable {s : State}

theorem exec_hoistLost_of_no_upstream (member : joined s = true) (notMasthead : acting s ≠ 2) (noUpstream : upstream s = none) :
    exec .hoistLost s = .next (loseRef (selectUp (raise s E.ld 0 4)) 0) := by
  refine congrArg Host.Outcome.next ((if_neg (by simp [member, notMasthead])).trans ?_)
  simp only [noUpstream]

/-- The masthead has no upstream to lose (log entry 5). -/
theorem exec_hoistLost_of_masthead (masthead : acting s = 2) : exec .hoistLost s = .next s :=
  congrArg Host.Outcome.next (if_pos (.inr masthead))

theorem exec_mhFailover_of_reason (member : joined s = true) (standby : acting s = 1)
    (reason : s.lace.called = true ∨ beatStands s = true) : exec .mhFailover s = .next (raise (beMasthead (wrF (wr s R.ldDom 0 0
      (packF [(0, ownId s), (16, nextEpoch (epochNow s))])) R.ldId 0 0 20 19 2)) E.ld 0 2) :=
  congrArg Host.Outcome.next (if_neg (by
    simp only [member, standby, Bool.or_eq_false_iff, not_or, not_and_or, Bool.not_eq_false]
    exact ⟨by decide, by decide, reason⟩))

/-- A device that is no standby, or has no reason to take over, does nothing (log entry 5). -/
theorem exec_mhFailover_of_no_reason (h : acting s ≠ 1 ∨ (s.lace.called = false ∧ beatStands s = false)) :
    exec .mhFailover s = .next s :=
  congrArg Host.Outcome.next (if_pos (.inr (h.imp_right fun none_ => by simp [none_])))

theorem exec_hoistAlignStep_of_due (due : s.lace.tset = true) (qualified : rdB s R.ldHoist 0 0 9 = true) (noCell : anyCell s = false) :
    exec .hoistAlignStep s = .next (timeStep {
      stream := 10, tag := 0, note := false, crcv := false, self := true, source := 0,
      params := [1, 2, w32 (cdiv (s.ats.toNat + tcHyper) tcHyper), 0, 0] } false (setLace s fun l => { l with tset := false })).st := by
  have noCell1 : ¬ anyCell (setLace s fun l => { l with tset := false }) = true := by
    change ¬ anyCell s = true
    simp [noCell]
  exact congrArg Host.Outcome.next ((if_neg (by simp [due, qualified])).trans (if_neg noCell1))

/-- An alignment step that TSET has not asked for, or that has been issued, is not issued (log entry 5). -/
theorem exec_hoistAlignStep_of_not_due (notDue : s.lace.tset = false) : exec .hoistAlignStep s = .next s :=
  congrArg Host.Outcome.next (if_pos (.inl (by simp [notDue])))

end Hoist

/-! ## Remote packets and injections (R444, R452, R467) -/

section Remote
variable {p : Fin 32} {s : State}

/-- A request without payload is one flit: it leaves the port's buffer, and its flit is owed to the partner. -/
theorem exec_remotePacketRx_of_flit {h : List W32} {r : List (List W32)} {k : FPkt} (oldest : (portOf s p.val).rx = h :: r)
    (short : headLen h = 0) (packet : packetOf [h] = some k) (request : fld (nth h 1 0) 24 22 ≠ 4) : exec (.remotePacketRx p) s =
      .next (remotePacket (modPort s p.val fun y => { y with
        rx := r, owed := modNth y.owed (2 * fld (nth h 1 0) 21 20) (fun c => c + 1) }) p.val k) := by
  have oneWay : fld (nth h 1 0#32) 24 22 ≠ 4 := request
  refine congrArg Host.Outcome.next ?_
  simp [oldest, short, packet, oneWay, modPort]

/-- A port that has received no flit has no packet (log entry 5). -/
theorem exec_remotePacketRx_of_empty (empty : (portOf s p.val).rx = []) : exec (.remotePacketRx p) s = .next s := by
  refine congrArg Host.Outcome.next ?_
  simp only [empty]

theorem exec_lcInjArm_of_may {w : Writer} {v : W32} (may : mayInject s w = true) :
    exec (.lcInjArm w p v) s = .next (wr s R.lcInj p.val 0 (rd s R.lcInj p.val ||| (v &&& 3#32))) :=
  congrArg Host.Outcome.next (if_pos may)

end Remote

/-- Settles O47, row by row from the equations above. The model's choices in it: a row without a reason changes nothing (log entry 5), the
masthead calls for the handover by a grant that names the standby itself (36), and a standby without an upstream may take over (139). -/
theorem laceDomain : Obligations.LaceDomain := by
  refine ⟨?grants, ?ownId, ?notMasthead, ?granted, ?refused, ?member, ?splice, ?noSplice, ?spliceTimeout, ?leaves, ?stays, ?marker, ?badMarker,
    ?copy, ?hoistLost, ?hoistHere, ?takesOver, ?standsBy, ?aligns, ?noAlign, ?remote, ?noRemote, ?inject⟩
  case grants => exact fun _ _ _ masthead notOwn free => exec_joinRequestRx_of_free masthead notOwn free
  case ownId => exact fun _ _ _ masthead own => exec_joinRequestRx_of_own masthead own
  case notMasthead => exact fun _ _ _ _ other => exec_joinRequestRx_of_not_masthead other
  case granted => exact fun _ _ _ _ _ asks asked => exec_joinGrantRx_of_granted asks asked
  case refused => exact fun _ _ _ _ _ asks asked => exec_joinGrantRx_of_refused asks asked
  case member =>
    exact fun _ _ _ _ idle member notMasthead => ⟨exec_joinGrantRx_of_designation idle member notMasthead,
      exec_joinGrantRx_of_call idle member, exec_joinGrantRx_of_conflict idle member notMasthead⟩
  case splice => exact fun _ _ _ _ splices closed ports ready => exec_splice_of_ready splices closed ports ready
  case noSplice => exact fun _ _ _ _ other => ⟨exec_splice_of_other other, exec_spliceTimeout_of_other other⟩
  case spliceTimeout => exact fun _ _ _ splices joins => exec_spliceTimeout_of_join splices joins
  case leaves => exact fun _ _ leaves noSplice => exec_bypassCloseLeave_of_leaving leaves noSplice
  case stays => exact fun _ _ stays => exec_bypassCloseLeave_of_staying stays
  case marker => exact fun _ _ _ _ _ read up up1 seen first => exec_markerRx_of_first read up up1 seen first
  case badMarker => exact fun _ _ _ _ _ read up => exec_markerRx_of_bad read up
  case copy => exact fun _ _ _ _ _ read wide copy => exec_markerRx_of_copy read wide copy
  case hoistLost => exact fun _ member notMasthead noUpstream => exec_hoistLost_of_no_upstream member notMasthead noUpstream
  case hoistHere => exact fun _ masthead => exec_hoistLost_of_masthead masthead
  case takesOver => exact fun _ member standby reason => exec_mhFailover_of_reason member standby reason
  case standsBy => exact fun _ h => exec_mhFailover_of_no_reason h
  case aligns => exact fun _ due qualified noCell => exec_hoistAlignStep_of_due due qualified noCell
  case noAlign => exact fun _ notDue => exec_hoistAlignStep_of_not_due notDue
  case remote => exact fun _ _ _ _ _ oldest short packet request => exec_remotePacketRx_of_flit oldest short packet request
  case noRemote => exact fun _ _ empty => exec_remotePacketRx_of_empty empty
  case inject => exact fun _ _ _ _ may => exec_lcInjArm_of_may may

end Sys2Proof.Machine
end

section
/-! The Lace commands (R468–R476): what the body of each does in each case of O48, how a command that holds its stream ends, and the proof. -/

namespace Sys2Proof.Machine

/-! ## Bits and fields of a word -/

/-- A field that is 0 has no bit set. -/
theorem bit_of_fld_eq_zero {n : Nat} {w : BitVec n} {hi lo k : Nat} (zero : fld w hi lo = 0) (low : lo ≤ k) (high : k ≤ hi) :
    bit w k = false := by
  have clear := congrArg (Nat.testBit · (k - lo)) zero
  have inside : k - lo < hi + 1 - lo := by omega
  simpa [fld, Nat.testBit_mod_two_pow, Nat.testBit_div_two_pow, inside, Nat.sub_add_cancel low, bit, BitVec.getLsbD] using clear

/-- A bit written reads as written. -/
theorem bit_setBit_self {w : W32} {k : Nat} (b : Bool) (inside : k < 32) : bit (setBit w k b) k = b := by
  have one : (BitVec.ofNat 32 (2 ^ k)).getLsbD k = true := by
    rw [BitVec.getLsbD_ofNat, Nat.testBit_two_pow_self, decide_eq_true inside, Bool.and_true]
  have mask : (2 ^ (k + 1 - k) - 1) * 2 ^ k = 2 ^ k := by simp
  have value : BitVec.ofNat 32 (2 ^ k * if b then 1 else 0) = if b then BitVec.ofNat 32 (2 ^ k) else 0#32 := by cases b <;> simp
  simp only [bit, setBit, setFld, mask, value, BitVec.getLsbD_or, BitVec.getLsbD_and, BitVec.getLsbD_not, one]
  cases b
  · simp
  · simp only [if_true, one, Bool.and_self, Bool.or_true]

/-- A word has no bit outside a mask where each such bit is clear. -/
theorem onlyBits_of_bits {w m : W32} (clear : ∀ k < 32, bit (~~~m) k = true → bit w k = false) : onlyBits w m = true := by
  rw [onlyBits, decide_eq_true_eq]
  refine BitVec.eq_of_getLsbD_eq fun k inside => ?_
  rw [BitVec.getLsbD_and, BitVec.getLsbD_zero]
  rcases outside : (~~~m).getLsbD k with _ | _
  · simp
  · rw [Bool.and_true]
    exact clear k inside outside

/-- Writing a bit of the mask leaves the bits outside it clear. -/
theorem onlyBits_setBit {w m : W32} {j : Nat} {b : Bool} (bits : onlyBits w m = true) (inMask : bit (~~~m) j = false) :
    onlyBits (setBit w j b) m = true := by
  refine onlyBits_of_bits fun k _ outside => ?_
  have other : k ≠ j := by
    rintro rfl
    simp [inMask] at outside
  exact (bit_setFld_of_outside w _ (by omega)).trans (bit_of_onlyBits bits outside)

/-! ## A command that holds its stream ends (R490) -/

/-- An element behind others that do not satisfy the predicate is the one removed. -/
theorem removeFirst_append_of_last {α : Type} {p : α → Bool} {x : α} (last : p x = true) :
    ∀ {l : List α}, (∀ y ∈ l, p y = false) → removeFirst p (l ++ [x]) = l
  | [], _ => by simp [removeFirst, last]
  | y :: ys, others => by
    have rest := removeFirst_append_of_last last fun z hz => others z (List.mem_cons_of_mem _ hz)
    simp [removeFirst, others y List.mem_cons_self, rest]

/-- A command that ends in the state in which it was seated has only replied. -/
theorem endHeld_seated {s : State} {op : Nat} {q : Req} {st : Status} {ws : List W32} (free : streamBusy s q.stream.val = false) :
    endHeld (seated s op q) op q st ws = reply s op q st ws := by
  have others : ∀ h ∈ s.pn.held, (decide (h.opcode = op) && decide (h.req = q)) = false := by
    intro h held
    have elsewhere := List.any_eq_false.1 free h held
    simp only [Bool.and_eq_false_iff, decide_eq_false_iff_not]
    exact .inr fun e => elsewhere (by simp [e])
  have own : (decide ((heldOf op q).opcode = op) && decide ((heldOf op q).req = q)) = true := by simp [heldOf]
  have seat : (seated s op q).pn.held = s.pn.held ++ [heldOf op q] := rfl
  have held : ((s.pn.held ++ [heldOf op q]).any fun h => decide (h.opcode = op) && decide (h.req = q)) = true :=
    List.any_eq_true.2 ⟨_, List.mem_append_right _ List.mem_cons_self, own⟩
  have left : setPn (seated s op q) (fun p => { p with
      held := removeFirst (fun h => decide (h.opcode = op) && decide (h.req = q)) p.held }) = s := by
    simp only [setPn, seat, removeFirst_append_of_last (p := fun h : Held => decide (h.opcode = op) && decide (h.req = q)) own others]
    rfl
  rw [endHeld, seat, if_pos held, left]

/-! ## `LACE_STATUS` and `LACE_PORT_CONFIG` (R468, R471) -/

section Commands
variable {q : Req} {s : State} {w : W32}

theorem laceStatus_of_form (ps : q.params = []) : laceStatus q s = doneW s
    ([rd s R.ldId, rd s R.ldDom, rd s R.ldHoist, rd s R.ldHerr, rd s R.ldBypass, rd s R.ldEvt] ++
      (List.range 32).map fun p => portShown s p (rd s R.lcStat p)) :=
  if_neg (by simp [ps])

/-- The port that w names is configured and disabled: its registers are written, its waiting flits dropped. -/
def portDisabled (w a : W32) (t : State) : State :=
  hoistFix (portSync (setLace (ringsSync (wr (wr (modPort t (fld w 4 0) fun x => { x with txq := [] })
    R.lcCfg (fld w 4 0) 0 (packF [(0, fld w 12 5), (10, b2n (bit w 15)), (13, b2n (bit w 17))])) R.lcAsym (fld w 4 0) 0 a))
    fun l => { l with shown := (l.shown ++ [fld w 4 0]).dedup }) (fld w 4 0))

/-- `LACE_PORT_CONFIG` of a port of one lane that is DOWN, with EN 0. -/
theorem lacePortConfig_of_disable {a : W32} (ps : q.params = [w, a]) (bits : onlyBits w 0x3FFFF#32 = true) (one : fld w 14 13 = 0)
    (here : laneHere s.variant (fld w 12 5) = true) (lace : laneRole s (fld w 12 5) = 2)
    (rate : laneRate s (fld w 12 5) = if bit w 15 then 4 else 3)
    (free : ∀ x, x < 32 → x ≠ fld w 4 0 → portEn s x = true → fld w 12 5 ∉ portLanes s x) (notJoined : portJoined s (fld w 4 0) = false)
    (noRing : portRing s (fld w 4 0) = false) (down : portState s (fld w 4 0) = 0) (off : bit w 16 = false) :
    lacePortConfig q s = done (portDisabled w a s) .ok := by
  have noneShares : ¬ ∃ x < 32, (¬ x = fld w 4 0 ∧ portEn s x = true) ∧ fld w 12 5 ∈ portLanes s x :=
    fun ⟨x, inRange, ⟨other, on⟩, shares⟩ => free x inRange other on shares
  simp only [lacePortConfig, wellFormed, par, nth, ps]
  simp [bits, one, here, lace, rate, noneShares, notJoined, noRing, down, off, portDisabled, packF, b2n, Nat.mod_one]

/-! ## `LACE_JOIN` (R469) -/

/-- A device strapped MASTHEAD that names no group joins at once, as masthead of epoch 1. -/
theorem laceJoin_of_masthead (ps : q.params = [w]) (bits : onlyBits w 0x001FFFFF#32 = true) (notJoined : joined s = false)
    (idle : s.lace.join = none) (strap : rdF s R.ldId 0 0 18 17 = 2) (plain : fld w 20 16 = 0) :
    laceJoin q s = done (setLace (beMasthead (becomeJoined s (fld w 15 0) (fld w 15 0) 1 2)) fun l => { l with tset := false }) .ok := by
  have noStep : bit w 16 = false := bit_of_fld_eq_zero plain le_rfl (by decide)
  have noGroups : ((List.range 4).filter fun k => bit w (17 + k) && !groupJoined s k) = [] := by
    rw [List.filter_eq_nil_iff]
    intro k inRange
    have := List.mem_range.1 inRange
    simp [bit_of_fld_eq_zero (k := 17 + k) plain (by omega) (by omega)]
  have first : par q 0 = w := by simp [par, nth, ps]
  simp only [laceJoin, first, noGroups, noStep]
  simp [ps, wellFormed, bits, notJoined, idle, strap]

theorem laceJoin_of_joined (ps : q.params = [w]) (bits : onlyBits w 0x001FFFFF#32 = true) (member : joined s = true) :
    laceJoin q s = done s .state := by
  simp [laceJoin, ps, wellFormed, bits, member]

/-! ## `LACE_LEAVE` (R470, R457) -/

/-- The groups that leave: those named, or all, which are joined or in their splice. -/
def leavingGroups (s : State) (w : W32) : List Nat :=
  (List.range 4).filter fun k => (bit w k || bit w 4) && (groupJoined s k || decide (s.lace.splicing = some k))

theorem leavingGroups_eq_nil (noSplice : s.lace.splicing = none) (none_ : ∀ k < 4, bit w k = true ∨ bit w 4 = true → groupJoined s k = false) :
    leavingGroups s w = [] := by
  rw [leavingGroups, List.filter_eq_nil_iff]
  intro k inRange named
  simp only [noSplice, Bool.and_eq_true, Bool.or_eq_true, reduceCtorEq, decide_false, Bool.or_false] at named
  simp [none_ k (List.mem_range.1 inRange) named.1] at named

/-- A word with one bit set names one group. -/
theorem leavingGroups_of_one {k : Nat} (inRange : k < 4) (joins : groupJoined s k = true) : leavingGroups s (w32 (2 ^ k)) = [k] := by
  have named : ∀ k < 4, ∀ j < 5, bit (w32 (2 ^ k)) j = decide (j = k) := by decide
  have single : ∀ k < 4, ((List.range 4).filter fun j => decide (j = k)) = [k] := by decide
  rw [← single k inRange, leavingGroups]
  refine List.filter_congr fun j hj => ?_
  have := List.mem_range.1 hj
  rw [named k inRange j (by omega), named k inRange 4 (by omega)]
  by_cases e : j = k
  · subst e
    simp [joins]
  · simp [e, show 4 ≠ k by omega]

/-- Groups begin to leave, and the device its domain where w says so; other devices hear of it from one that is no masthead. -/
def leaveStarted (s : State) (w : W32) : State :=
  let s1 := startLeave s (leavingGroups s w) (bit w 4)
  if bit w 4 = true ∧ acting s ≠ 2 then laceMsg s1 3 (mhId s) [0x4C454156#32, w32 (ownId s)] else s1

theorem laceLeave_of_joined (ps : q.params = [w]) (bits : onlyBits w 0x1F#32 = true) (member : joined s = true)
    (may : bit w 4 = false ∨ acting s ≠ 2 ∨ s.lace.members = []) : laceLeave q s = holding (leavesEnd (leaveStarted s w)) := by
  have first : par q 0 = w := by simp [par, nth, ps]
  have notBarred : ¬ (bit w 4 = true ∧ acting s = 2 ∧ s.lace.members ≠ []) := by
    rintro ⟨all, masthead, others⟩
    rcases may with part | notMasthead | alone
    · simp [part] at all
    · exact notMasthead masthead
    · exact others alone
  simp only [laceLeave, first, if_neg notBarred]
  simp [ps, wellFormed, bits, member, leaveStarted, leavingGroups]

theorem laceLeave_of_not_joined (ps : q.params = [w]) (bits : onlyBits w 0x1F#32 = true) (notJoined : joined s = false) :
    laceLeave q s = done s .state := by
  simp [laceLeave, ps, wellFormed, bits, notJoined]

/-- Where no group leaves, only the domain may. -/
theorem startLeave_nil {all : Bool} (none_ : s.lace.leaving = []) :
    startLeave s [] all = setLace s fun l => { l with leaveAll := l.leaveAll || all } := by
  simp [startLeave, setLace, none_]

/-- Without a group that leaves, a device that stays in its domain begins nothing. -/
theorem leaveStarted_of_none (noGroups : leavingGroups s w = []) (none_ : s.lace.leaving = []) (part : bit w 4 = false) :
    leaveStarted s w = s := by
  simp only [leaveStarted, noGroups, part, startLeave_nil none_, Bool.or_false, Bool.false_eq_true, false_and, if_false]
  rfl

theorem leaveStarted_of_masthead (noGroups : leavingGroups s w = []) (none_ : s.lace.leaving = []) (all : bit w 4 = true)
    (masthead : acting s = 2) : leaveStarted s w = setLace s fun l => { l with leaveAll := true } := by
  simp only [leaveStarted, noGroups, all, startLeave_nil none_, Bool.or_true, masthead, ne_eq, not_true_eq_false, and_false, if_false]

/-- A device that is no masthead tells the masthead that it leaves (log entry 36). -/
theorem leaveStarted_of_member (noGroups : leavingGroups s w = []) (none_ : s.lace.leaving = []) (all : bit w 4 = true)
    (notMasthead : acting s ≠ 2) : leaveStarted s w =
      laceMsg (setLace s fun l => { l with leaveAll := true }) 3 (mhId s) [0x4C454156#32, w32 (ownId s)] := by
  simp only [leaveStarted, noGroups, all, startLeave_nil none_, Bool.or_true, ne_eq, notMasthead, not_false_eq_true, and_self, if_true]

/-- A joined group tells its neighbours, and waits for the marker boundary. -/
theorem leaveStarted_of_group {k : Nat} (group : leavingGroups s w = [k]) (part : bit w 4 = false) (noSplice : s.lace.splicing ≠ some k) :
    leaveStarted s w = setLace (sayLeave s k) fun l => { l with leaving := (l.leaving ++ [k]).dedup } := by
  have told : [k].filter (fun j => decide (s.lace.splicing ≠ some j)) = [k] := by simp [noSplice]
  simp only [leaveStarted, group, part, startLeave, told, List.foldl_cons, List.foldl_nil, Bool.or_false, Bool.false_eq_true, false_and, if_false]

/-- Leaves wait while a group has yet to close. -/
theorem leavesEnd_of_leaving (waits : s.lace.leaving ≠ []) : leavesEnd s = s :=
  if_pos (by simp [waits])

/-- The domain is left once no group leaves any more; without a command that waits for it nothing is answered. -/
theorem leavesEnd_of_all (none_ : s.lace.leaving = []) (all : s.lace.leaveAll = true)
    (unasked : ∀ h ∈ (leaveDomain (setLace s fun l => { l with leaveAll := false })).pn.held, h.opcode ≠ 0x0603) :
    leavesEnd s = leaveDomain (setLace s fun l => { l with leaveAll := false }) := by
  have noneWait : ((leaveDomain (setLace s fun l => { l with leaveAll := false })).pn.held.filter fun h => decide (h.opcode = 0x0603)) = [] := by
    simpa [List.filter_eq_nil_iff] using unasked
  refine (if_neg (by simp [none_])).trans ?_
  simp only [all, if_true, noneWait, List.foldl_nil]

/-- A command to leave that has nothing to wait for ends at once. -/
theorem leavesEnd_seated (free : streamBusy s q.stream.val = false) (none_ : s.lace.leaving = []) (stays : s.lace.leaveAll = false)
    (only : ∀ h ∈ s.pn.held, h.opcode ≠ 0x0603) : leavesEnd (seated s 0x0603 q) = reply s 0x0603 q .ok [] := by
  have own : ((seated s 0x0603 q).pn.held.filter fun h => decide (h.opcode = 0x0603)) = [heldOf 0x0603 q] := by
    change ((s.pn.held ++ [heldOf 0x0603 q]).filter fun h => decide (h.opcode = 0x0603)) = _
    have others : (s.pn.held.filter fun h => decide (h.opcode = 0x0603)) = [] := by simpa [List.filter_eq_nil_iff] using only
    simp [others, heldOf]
  refine (if_neg (by simp [none_])).trans ?_
  simp only [seated_lace, stays, Bool.false_eq_true, if_false, own, List.foldl_cons, List.foldl_nil]
  exact endHeld_seated free

/-! ## `LACE_ROUTE_SET`, `LACE_EXPORT_SET` and `LACE_TRANSIT_SET` (R472–R474) -/

/-- Entry (fld w 7 0) of every route table leads to a device by the hops l, over the shore that the first hop's port has in s. -/
def laceRouted (s : State) (w x : W32) (l : Nat) (t : State) : State :=
  (nisHere s).foldl (fun a n =>
    let r := rtEntry a n (16 + rdF s R.lcCfg (l % 64) 0 7 0 / 16)
    commitRt (stageRt (stageRt (stageRt a n (fld w 7 0) 1 r.w1) n (fld w 7 0) 2 (setFld r.w2 31 16 (l % 2 ^ 16)))
      n (fld w 7 0) 3 (w32 (l / 2 ^ 16))) n (fld w 7 0)
      (packF [(0, fld r.w0 3 0), (4, b2n (bit w 8)), (7, 1), (8, niDomain (16 + rdF s R.lcCfg (l % 64) 0 7 0 / 16)), (16, x.toNat)])) t

theorem laceRouted_seated (op : Nat) (x : W32) (l : Nat) : laceRouted (seated s op q) w x l = laceRouted s w x l := by
  funext t
  simp only [laceRouted, nisHere, seated_variant, rdF_seated]

theorem laceRouteSet_of_hops {x lo hi : W32} (ps : q.params = [w, x, lo, hi]) (bits : onlyBits w 0x1FF#32 = true)
    (dev : onlyBits x 0xFFFF#32 = true) (high : onlyBits hi 0xFFFF#32 = true) (entry : 64 ≤ fld w 7 0) (port : pair64 lo hi % 64 < 32)
    (on : portEn s (pair64 lo hi % 64) = true) (hops : ∀ i, i < 8 → pair64 lo hi / 64 ^ i % 64 < 32 ∨ pair64 lo hi / 64 ^ i % 64 = 63)
    (ends : ∃ i, i < 8 ∧ pair64 lo hi / 64 ^ i % 64 = 63) : laceRouteSet q s = done (laceRouted s w x (pair64 lo hi) s) .ok := by
  have noBadHop : (((List.range 8).map fun i => pair64 lo hi / 64 ^ i % 64).any fun y => decide (32 ≤ y) && decide (y ≠ 63)) = false := by
    simp only [List.any_map, List.any_eq_false, List.mem_range, Function.comp, Bool.and_eq_true, decide_eq_true_eq]
    intro i small
    have := hops i small
    omega
  have terminated : ((List.range 8).map fun i => pair64 lo hi / 64 ^ i % 64).contains 63 = true := by
    simpa using ends
  have form : wellFormed q.params [0x1FF#32, 0xFFFF#32, 0xFFFFFFFF#32, 0xFFFF#32] = true := by simp [wellFormed, ps, bits, dev, high]
  have p0 : par q 0 = w := by simp [par, nth, ps]
  have p1 : par q 1 = x := by simp [par, nth, ps]
  have p2 : par q 2 = lo := by simp [par, nth, ps]
  have p3 : par q 3 = hi := by simp [par, nth, ps]
  simp only [laceRouteSet, form, p0, p1, p2, p3, noBadHop, terminated]
  simp [Nat.not_lt.2 entry, Nat.not_le.2 port, on, laceRouted]

/-- Window v of `EXPORT_WIN` has its six words written. -/
def exportWritten (v : Nat) (w1 e sz b hi d : W32) (t : State) : State :=
  wr (wr (wr (wr (wr (wr t (R.exportWin 0) 0 v w1) (R.exportWin 1) 0 v e) (R.exportWin 2) 0 v sz) (R.exportWin 3) 0 v b)
    (R.exportWin 4) 0 v hi) (R.exportWin 5) 0 v d

/-- `LACE_EXPORT_SET` of a window that is closed, below 4 GiB. -/
theorem laceExportSet_of_closed {e sz b d : W32} (ps : q.params = [w, 0, e, sz, b, 0, d]) (bits : onlyBits w 7#32 = true)
    (eBits : onlyBits e 0x7FFFFFFF#32 = true) (szBits : onlyBits sz 0x7FFFFFFF#32 = true) (some_ : sz.toNat ≠ 0) (szUnit : sz.toNat % 65536 = 0)
    (eUnit : e.toNat % 65536 = 0) (bUnit : b.toNat % 65536 = 0) (devs : fld d 15 0 ≤ fld d 31 16) :
    laceExportSet q s = done (exportWritten (fld w 2 0) 0 e sz b 0 d s) .ok := by
  have zero (mask : W32) : onlyBits 0#32 mask = true := by simp [onlyBits]
  have form : wellFormed q.params [0x7#32, 0x7#32, 0x7FFFFFFF#32, 0x7FFFFFFF#32, 0xFFFFFFFF#32, 0xFFFF#32, 0xFFFFFFFF#32] = true := by
    simp [wellFormed, ps, bits, eBits, szBits, zero]
  have base : pair64 b 0 = b.toNat := by simp [pair64]
  have local_ (a : Nat) (below : a < 2 ^ 33) : isRemote a = false := by
    have : a / 2 ^ 47 = 0 := Nat.div_eq_of_lt (by omega)
    rw [isRemote, this]
    rfl
  have bLocal := local_ b.toNat (by omega)
  have endLocal := local_ (b.toNat + sz.toNat - 1) (by omega)
  have closed : bit (0 : W32) 0 = false := by decide
  have p0 : par q 0 = w := by simp [par, nth, ps]
  have p1 : par q 1 = 0 := by simp [par, nth, ps]
  have p2 : par q 2 = e := by simp [par, nth, ps]
  have p3 : par q 3 = sz := by simp [par, nth, ps]
  have p4 : par q 4 = b := by simp [par, nth, ps]
  have p5 : par q 5 = 0 := by simp [par, nth, ps]
  have p6 : par q 6 = d := by simp [par, nth, ps]
  have belowMram : ¬ (b.toNat < 0x050000000000 ∧ 0x040000000000 < b.toNat + sz.toNat) := by omega
  simp only [laceExportSet, form, p0, p1, p2, p3, p4, p5, p6, base, bLocal, endLocal, closed]
  simp [some_, szUnit, eUnit, bUnit, belowMram, Nat.not_lt.2 devs, List.range_succ, exportWritten, p1, p2, p3, p4, p5, p6]

/-- `LACE_TRANSIT_SET` of devices 5 to 7. -/
theorem laceTransitSet_of_five_to_seven {r : W32} (ps : q.params = [w, r]) (bits : onlyBits w 7#32 = true) (first : fld r 15 0 = 5)
    (last : fld r 31 16 = 7) : laceTransitSet q s = done (wr s R.transitMap (fld w 1 0) 0
      (if bit w 2 then rd s R.transitMap (fld w 1 0) 0 ||| 0xE0#32 else rd s R.transitMap (fld w 1 0) 0 &&& ~~~0xE0#32)) .ok := by
  have p0 : par q 0 = w := by simp [par, nth, ps]
  have p1 : par q 1 = r := by simp [par, nth, ps]
  have form : wellFormed q.params [0x7#32, 0xFFFFFFFF#32] = true := by simp [wellFormed, ps, bits]
  simp only [laceTransitSet, form, p0, p1, first, last]
  rfl

/-! ## `LACE_DOMAIN_COMMIT` and `LACE_MASTHEAD` (R475, R476) -/

/-- Only the acting masthead starts a domain commit. -/
theorem laceDomainCommit_of_not_masthead (other : acting s ≠ 2) : laceDomainCommit q s = done s .notPermitted := if_pos other

/-- A domain commit for every device starts. -/
theorem laceDomainCommit_of_all {b0 b1 : W32} {pk : List W32} (ps : q.params = 0 :: b0 :: b1 :: pk) (masthead : acting s = 2)
    (whole : 4 ≤ pk.length) (bound : bndFault s b0 b1 = false) (header : innerHdrBad pk = false) (commits : pktOp pk ∈ commitOps)
    (same : otherInstant pk (boundary b0 b1) = false)
    (inner : bndFault s (bndW0 (pktOp pk) (pk.drop 4)) (bndW1 (pktOp pk) (pk.drop 4)) = false) (ahead : passed s (boundary b0 b1) = false) :
    laceDomainCommit q s = domainStart s q 0x0608 (boundary b0 b1) (everyDevice s) pk := by
  have p0 : par q 0 = 0 := by simp [par, nth, ps]
  have p1 : par q 1 = b0 := by simp [par, nth, ps]
  have p2 : par q 2 = b1 := by simp [par, nth, ps]
  have all : fld (0 : W32) 15 0 = 0 := by decide
  have rest : q.params.drop 3 = pk := by simp [ps]
  have long : ¬ q.params.length < 7 := by simp [ps]; omega
  have plain : onlyBits 0#32 0xFFFF#32 = true := by decide
  simp only [laceDomainCommit, p0, p1, p2, all]
  simp [masthead, rest, long, plain, bound, header, commits, same, inner, ahead]

section Masthead
variable (masthead : acting s = 2) (standby : s.lace.members.find? (fun m => decide (m.1 = fld w 31 16)) = some (fld w 31 16, true))
include masthead standby

/-- The device that w names is designated, and the standby before it no more. -/
def standbyDesignated (w : W32) (t : State) : State :=
  laceMsg (setLace (match t.lace.standby with
    | some old => if old = fld w 31 16 then t else laceMsg t 5 old [0]
    | none => t) fun l => { l with standby := some (fld w 31 16) }) 5 (fld w 31 16) [1]

theorem laceMasthead_of_designate (form : wellFormed q.params [0xFFFF0001#32] = true) (dev : fld (par q 0) 31 16 = fld w 31 16)
    (designates : bit (par q 0) 0 = true) : laceMasthead q s = done (standbyDesignated w s) .ok := by
  simp only [laceMasthead, form, dev, standby, designates]
  rcases before : s.lace.standby with _ | old
  · simp [masthead, standbyDesignated, before]
  · simp [masthead, standbyDesignated, before]

theorem laceMasthead_of_handover (form : wellFormed q.params [0xFFFF0001#32] = true) (dev : fld (par q 0) 31 16 = fld w 31 16)
    (handover : bit (par q 0) 0 = false) (designated : s.lace.standby = some (fld w 31 16)) :
    laceMasthead q s = done (laceMsg s 4 (fld w 31 16) []) .ok := by
  simp only [laceMasthead, form, dev, standby, handover]
  simp [masthead, designated]

end Masthead

/-- The parameter of an OP of `LACE_MASTHEAD`: bit 0 says which, and the device stays as it was. -/
theorem withBit0_param {b : Bool} (ps : q.params = [w]) : (withBit0 q b).params = [setBit w 0 b] := by
  simp [withBit0, par, nth, ps, setNth]

theorem withBit0_form {b : Bool} (ps : q.params = [w]) (bits : onlyBits w 0xFFFF0001#32 = true) :
    wellFormed (withBit0 q b).params [0xFFFF0001#32] = true ∧ fld (par (withBit0 q b) 0) 31 16 = fld w 31 16 ∧
      bit (par (withBit0 q b) 0) 0 = b := by
  have first : par (withBit0 q b) 0 = setBit w 0 b := by simp [par, nth, withBit0_param ps]
  have masked : onlyBits (setBit w 0 b) 0xFFFF0001#32 = true := onlyBits_setBit bits (by decide)
  rw [first, withBit0_param ps]
  exact ⟨by simp [wellFormed, masked], fld_setFld_of_disjoint w _ (.inr (by decide)), bit_setBit_self b (by decide)⟩

end Commands

/-- Settles O48, command by command from the equations above. The model's choice in it: the layout of the messages between
devices, LEAVE among them (log entry 36). -/
theorem laceCommands : Obligations.LaceCommands := by
  refine ⟨?status, ?portConfig, ?join, ?joinJoined, ?leaveNone, ?leaveGroup, ?leaveMasthead, ?leaveMember, ?leaveEnds, ?leaveOut, ?routeSet,
    ?exportSet, ?transitSet, ?commitElsewhere, ?commit, ?designate, ?handover⟩
  case status =>
    intro q s h ps
    exact congrArg Host.Outcome.next
      (runCommand_answers h (congrArg some (laceStatus_of_form ps)) rfl (unseated_seated h.free) rfl rfl)
  case portConfig =>
    intro q s w a h ps bits one here lace rate free notJoined noRing down off
    exact congrArg Host.Outcome.next (runCommand_done (f := portDisabled w a) h
      (congrArg some (lacePortConfig_of_disable ps bits one here lace rate free notJoined noRing down off)))
  case join =>
    intro q s w h ps bits notJoined idle strap plain
    exact congrArg Host.Outcome.next (runCommand_done
      (f := fun t => setLace (beMasthead (becomeJoined t (fld w 15 0) (fld w 15 0) 1 2)) fun l => { l with tset := false }) h
      (congrArg some (laceJoin_of_masthead ps bits notJoined idle strap plain)))
  case joinJoined =>
    intro q s w h ps bits member
    exact congrArg Host.Outcome.next
      (runCommand_answers h (congrArg some (laceJoin_of_joined ps bits member)) rfl (unseated_seated h.free) rfl rfl)
  case leaveNone =>
    intro q s w h ps bits member none_ noSplice noLeave stays only
    have part : bit w 4 = false := bit_of_onlyBits bits (by decide)
    have noGroups : leavingGroups (seated s 0x0603 q) w = [] :=
      leavingGroups_eq_nil noSplice fun k small named => none_ k small (named.resolve_right (by simp [part]))
    refine congrArg Host.Outcome.next ((runCommand_holds h
      (congrArg some (laceLeave_of_joined ps (onlyBits_mono bits (by decide)) member (.inl part))) rfl).trans ?_)
    exact (congrArg leavesEnd (leaveStarted_of_none noGroups noLeave part)).trans (leavesEnd_seated h.free noLeave stays only)
  case leaveGroup =>
    intro q s k h small ps member joins noSplice
    have bits : ∀ k < 4, onlyBits (w32 (2 ^ k)) 0x1F#32 = true ∧ bit (w32 (2 ^ k)) 4 = false := by decide
    obtain ⟨form, part⟩ := bits k small
    have started := leaveStarted_of_group (s := seated s 0x0603 q) (leavingGroups_of_one small joins) part noSplice
    refine congrArg Host.Outcome.next ((runCommand_holds h (congrArg some (laceLeave_of_joined ps form member (.inl part))) rfl).trans ?_)
    exact (congrArg leavesEnd started).trans (leavesEnd_of_leaving (by simp [setLace]))
  case leaveMasthead =>
    intro q s h ps member masthead alone none_ noSplice noLeave
    have noGroups := leavingGroups_eq_nil (s := seated s 0x0603 q) (w := 0x10#32) noSplice fun k small _ => none_ k small
    refine congrArg Host.Outcome.next ((runCommand_holds h
      (congrArg some (laceLeave_of_joined ps (by decide) member (.inr (.inr alone)))) rfl).trans ?_)
    exact congrArg leavesEnd (leaveStarted_of_masthead noGroups noLeave (by decide) masthead)
  case leaveMember =>
    intro q s h ps member notMasthead none_ noSplice noLeave
    have noGroups := leavingGroups_eq_nil (s := seated s 0x0603 q) (w := 0x10#32) noSplice fun k small _ => none_ k small
    refine congrArg Host.Outcome.next ((runCommand_holds h
      (congrArg some (laceLeave_of_joined ps (by decide) member (.inr (.inl notMasthead)))) rfl).trans ?_)
    exact congrArg leavesEnd (leaveStarted_of_member noGroups noLeave (by decide) notMasthead)
  case leaveEnds => exact fun s none_ all unasked => leavesEnd_of_all none_ all unasked
  case leaveOut =>
    intro q s w h ps bits notJoined
    exact congrArg Host.Outcome.next
      (runCommand_answers h (congrArg some (laceLeave_of_not_joined ps bits notJoined)) rfl (unseated_seated h.free) rfl rfl)
  case routeSet =>
    intro q s w x lo hi h ps bits dev high entry port on hops ends
    have routed := laceRouteSet_of_hops (s := seated s 0x0605 q) ps bits dev high entry port on hops ends
    rw [laceRouted_seated] at routed
    exact congrArg Host.Outcome.next (runCommand_done (f := laceRouted s w x (pair64 lo hi)) h (congrArg some routed))
  case exportSet =>
    intro q s w e sz b d h ps bits eBits szBits some_ szUnit eUnit bUnit devs
    refine congrArg Host.Outcome.next (runCommand_answers h
      (congrArg some (laceExportSet_of_closed ps bits eBits szBits some_ szUnit eUnit bUnit devs)) rfl ?_ rfl rfl)
    simp only [exportWritten, done, unseated_wr, unseated_seated h.free]
  case transitSet =>
    intro q s w r h ps bits first last
    refine congrArg Host.Outcome.next (runCommand_answers h
      (congrArg some (laceTransitSet_of_five_to_seven ps bits first last)) rfl ?_ rfl rfl)
    exact (unseated_wr ..).trans (congrArg (wr · R.transitMap _ _ _) (unseated_seated h.free))
  case commitElsewhere =>
    intro q s ps h _ other
    exact congrArg Host.Outcome.next
      (runCommand_answers h (congrArg some (laceDomainCommit_of_not_masthead other)) rfl (unseated_seated h.free) rfl rfl)
  case commit =>
    rintro q s w b0 b1 pk h ps rfl masthead whole bound header commits same inner ahead
    exact congrArg Host.Outcome.next (runCommand_holds h
      (congrArg some (laceDomainCommit_of_all ps masthead whole bound header commits same inner ahead)) rfl)
  case designate =>
    intro q s w h ps bits masthead standby
    obtain ⟨form, dev, designates⟩ := withBit0_form (b := true) ps bits
    exact congrArg Host.Outcome.next (runCommand_done (f := standbyDesignated w) h
      (congrArg some (laceMasthead_of_designate masthead standby form dev designates)))
  case handover =>
    intro q s w h ps bits masthead standby designated
    obtain ⟨form, dev, handover⟩ := withBit0_form (b := false) ps bits
    exact congrArg Host.Outcome.next (runCommand_done (f := fun t => laceMsg t 4 (fld w 31 16) []) h
      (congrArg some (laceMasthead_of_handover masthead standby form dev handover designated)))

end Sys2Proof.Machine
end

section
/-! The Pennant's own commands (R501): what `DEV_ECHO` answers on each side of its limit of 16 words, and the proof of O16. -/

namespace Sys2Proof.Machine

section Echo
variable {q : Req} {s : State}

/-- `DEV_ECHO` of at most 16 words ends OK with the same words and has no effect of its own. -/
theorem devEcho_of_short (short : q.params.length ≤ 16) : devEcho q s = doneW s q.params := if_neg (Nat.not_lt.mpr short)

/-- `DEV_ECHO` of more than 16 words ends with `LENGTH_RANGE` and no effect. -/
theorem devEcho_of_long (long : 16 < q.params.length) : devEcho q s = done s .lengthRange := if_pos long

end Echo

/-- Settles O16: the body leaves the state as it is, so only the reply remains once the stream is free again. -/
theorem devEchoReplies : Obligations.DevEchoReplies := by
  intro q s starts
  have untouched : unseated (seated s 0x0101 q) 0x0101 q = s := unseated_seated starts.free
  refine ⟨?short, ?long⟩
  case short =>
    intro short
    exact congrArg Host.Outcome.next
      (runCommand_answers starts (congrArg some (devEcho_of_short short)) rfl untouched rfl rfl)
  case long =>
    intro long
    exact congrArg Host.Outcome.next
      (runCommand_answers starts (congrArg some (devEcho_of_long long)) rfl untouched rfl rfl)

end Sys2Proof.Machine
end

section
/-! Steps of the block: the command at the front of the queue, the clock edge of an empty one (R30, R490), what every step keeps, and
the proofs of O1, O2, O4, O5, O6 and O7. -/

namespace Sys2Proof.Machine

theorem step_of_empty {s : State} (h : s.pending = []) : step s = .next (clockEdge s) := by simp only [step, h]

/-- Settles O1: the step looks at the queue's front alone. -/
theorem stepRunsFront : Obligations.StepRunsFront := fun _ _ _ => rfl

/-- Settles O2: a step on an empty queue is a clock edge (log entries 1 and 134). -/
theorem idleStepIsClockEdge : Obligations.IdleStepIsClockEdge := fun _ h => step_of_empty h

/-- Settles O4: the maps are empty, there are 39 domains, and no stream executes a command. -/
theorem resetIsWellKept : Obligations.ResetIsWellKept where
  regs := rfl
  mem := rfl
  dom := rfl
  pn := ⟨Nat.zero_le _, Nat.zero_le _, Nat.zero_le _, List.nodup_nil⟩

/-! ## What every step keeps -/

/-- Every command, whatever its operands, answers a next state and keeps the variant, the queue's rest, the invariant and the fuses. -/
theorem kept_exec {s0 s : State} (k0 : Kept s0 s) : ∀ c : Instr, ∃ t, exec c s = .next t ∧ Kept s0 t
  | .devCaps q => kept_execDevCaps k0 q
  | .registerWrite w a v => kept_execRegisterWrite k0 w a v
  | .limitTakeEffect => kept_execLimitTakeEffect k0
  | .atsCaptureRead who => kept_execAtsCaptureRead k0 who
  | .refQualify r => kept_execRefQualify k0 r
  | .refLost r => kept_execRefLost k0 r
  | .ppsEdgeMissed => kept_execPpsEdgeMissed k0
  | .freqSettled => kept_execFreqSettled k0
  | .phaseMeasurement err freq => kept_execPhaseMeasurement k0 err freq
  | .revertHoldoffExpiry r => kept_execRevertHoldoffExpiry k0 r
  | .holdoverEstimateUpdate => kept_execHoldoverEstimateUpdate k0
  | .timeStepApply err => kept_execTimeStepApply k0 err
  | .ppsInEdge stamp wide => kept_execPpsInEdge k0 stamp wide
  | .todMessageRx bytes inTime => kept_execTodMessageRx k0 bytes inTime
  | .timeStatus q => kept_execTimeStatus k0 q
  | .timeRefConfig q => kept_execTimeRefConfig k0 q
  | .timeStep q => kept_execTimeStep k0 q
  | .timeStepCancel q => kept_execTimeStepCancel k0 q
  | .tddTableSet q => kept_execTddTableSet k0 q
  | .commitApply => kept_execCommitApply k0
  | .benchMemRead b w => kept_execBenchMemRead k0 b w
  | .benchMemWrite b off data poison => kept_execBenchMemWrite k0 b off data poison
  | .scrubAccess b line => kept_execScrubAccess k0 b line
  | .dmaStart b n => kept_execDmaStart k0 b n
  | .dmaAbort b n => kept_execDmaAbort k0 b n
  | .dmaTaskStart b n => kept_execDmaTaskStart k0 b n
  | .dmaRequestComplete b n src dst => kept_execDmaRequestComplete k0 b n src dst
  | .dsStage x => kept_execDsStage k0 x
  | .engineTaskStart x => kept_execEngineTaskStart k0 x
  | .bundleIssue id => kept_execBundleIssue k0 id
  | .branchResolve id => kept_execBranchResolve k0 id
  | .interruptAccept id => kept_execInterruptAccept k0 id
  | .coreTaskStart id => kept_execCoreTaskStart k0 id
  | .awlWatchdogExpiry id => kept_execAwlWatchdogExpiry k0 id
  | .tickcmpReached id => kept_execTickcmpReached k0 id
  | .coreIpiWrite id v => kept_execCoreIpiWrite k0 id v
  | .waitevComplete id => kept_execWaitevComplete k0 id
  | .add id d a b => kept_execAdd k0 id d a b
  | .sub id d a b => kept_execSub k0 id d a b
  | .and id d a b => kept_execAnd k0 id d a b
  | .or id d a b => kept_execOr k0 id d a b
  | .xor id d a b => kept_execXor k0 id d a b
  | .sll id d a b => kept_execSll k0 id d a b
  | .srl id d a b => kept_execSrl k0 id d a b
  | .sra id d a b => kept_execSra k0 id d a b
  | .slt id d a b => kept_execSlt k0 id d a b
  | .sltu id d a b => kept_execSltu k0 id d a b
  | .min id d a b => kept_execMin k0 id d a b
  | .max id d a b => kept_execMax k0 id d a b
  | .minu id d a b => kept_execMinu k0 id d a b
  | .maxu id d a b => kept_execMaxu k0 id d a b
  | .adds id d a b => kept_execAdds k0 id d a b
  | .subs id d a b => kept_execSubs k0 id d a b
  | .abs id d a => kept_execAbs k0 id d a
  | .clz id d a => kept_execClz k0 id d a
  | .cls id d a => kept_execCls k0 id d a
  | .mul id d a b => kept_execMul k0 id d a b
  | .mulh id d a b => kept_execMulh k0 id d a b
  | .mulhu id d a b => kept_execMulhu k0 id d a b
  | .addi id d a imm => kept_execAddi k0 id d a imm
  | .andi id d a imm => kept_execAndi k0 id d a imm
  | .ori id d a imm => kept_execOri k0 id d a imm
  | .xori id d a imm => kept_execXori k0 id d a imm
  | .slli id d a sh => kept_execSlli k0 id d a sh
  | .srli id d a sh => kept_execSrli k0 id d a sh
  | .srai id d a sh => kept_execSrai k0 id d a sh
  | .rori id d a sh => kept_execRori k0 id d a sh
  | .slti id d a imm => kept_execSlti k0 id d a imm
  | .lui id d imm => kept_execLui k0 id d imm
  | .padd id d a b => kept_execPadd k0 id d a b
  | .psub id d a b => kept_execPsub k0 id d a b
  | .pmov id d a => kept_execPmov k0 id d a
  | .smov id d a => kept_execSmov k0 id d a
  | .pdiff id d a b => kept_execPdiff k0 id d a b
  | .paddi id d a imm => kept_execPaddi k0 id d a imm
  | .beq id a b off => kept_execBeq k0 id a b off
  | .bne id a b off => kept_execBne k0 id a b off
  | .blt id a b off => kept_execBlt k0 id a b off
  | .bge id a b off => kept_execBge k0 id a b off
  | .bltu id a b off => kept_execBltu k0 id a b off
  | .bgeu id a b off => kept_execBgeu k0 id a b off
  | .br id off => kept_execBr k0 id off
  | .call id off => kept_execCall k0 id off
  | .jr id a => kept_execJr k0 id a
  | .bkany id k off => kept_execBkany k0 id k off
  | .bknone id k off => kept_execBknone k0 id k off
  | .csrr id d csr => kept_execCsrr k0 id d csr
  | .csrw id a csr => kept_execCsrw k0 id a csr
  | .csrs id a csr => kept_execCsrs k0 id a csr
  | .csrc id a csr => kept_execCsrc k0 id a csr
  | .irqHold id => kept_execIrqHold k0 id
  | .irqRelease id => kept_execIrqRelease k0 id
  | .waitev id => kept_execWaitev k0 id
  | .eret id => kept_execEret k0 id
  | .trap id code => kept_execTrap k0 id code
  | .brk id => kept_execBrk k0 id
  | .fence id => kept_execFence k0 id
  | .tdone id a => kept_execTdone k0 id a
  | .lexit0 id => kept_execLexit0 k0 id
  | .lexit1 id => kept_execLexit1 k0 id
  | .loop0 id last cnt ci stg sp rb => kept_execLoop0 k0 id last cnt ci stg sp rb
  | .loop1 id last cnt ci stg sp rb => kept_execLoop1 k0 id last cnt ci stg sp rb
  | .ldw id m1 r p upd imm inc => kept_execLdw k0 id m1 r p upd imm inc
  | .ldh id m1 r p upd imm inc => kept_execLdh k0 id m1 r p upd imm inc
  | .ldhu id m1 r p upd imm inc => kept_execLdhu k0 id m1 r p upd imm inc
  | .ldb id m1 r p upd imm inc => kept_execLdb k0 id m1 r p upd imm inc
  | .ldbu id m1 r p upd imm inc => kept_execLdbu k0 id m1 r p upd imm inc
  | .ldp id m1 r p upd imm inc => kept_execLdp k0 id m1 r p upd imm inc
  | .stw id m1 r p upd imm inc => kept_execStw k0 id m1 r p upd imm inc
  | .sth id m1 r p upd imm inc => kept_execSth k0 id m1 r p upd imm inc
  | .stb id m1 r p upd imm inc => kept_execStb k0 id m1 r p upd imm inc
  | .stp id m1 r p upd imm inc => kept_execStp k0 id m1 r p upd imm inc
  | .ldv id m1 r p upd k imm inc => kept_execLdv k0 id m1 r p upd k imm inc
  | .stv id m1 r p upd k imm inc => kept_execStv k0 id m1 r p upd k imm inc
  | .ldvBc id m1 r p upd k imm inc => kept_execLdvBc k0 id m1 r p upd k imm inc
  | .lda id m1 r p upd imm inc => kept_execLda k0 id m1 r p upd imm inc
  | .sta id m1 r p upd imm inc => kept_execSta k0 id m1 r p upd imm inc
  | .vgather id m1 r p k x w => kept_execVgather k0 id m1 r p k x w
  | .vscatter id m1 r p k x w => kept_execVscatter k0 id m1 r p k x w
  | .vlds id m1 r p k x w => kept_execVlds k0 id m1 r p k x w
  | .vsts id m1 r p k x w => kept_execVsts k0 id m1 r p k x w
  | .cmac id d a b k z => kept_execCmac k0 id d a b k z
  | .cmacj id d a b k z => kept_execCmacj k0 id d a b k z
  | .cmsc id d a b k z => kept_execCmsc k0 id d a b k z
  | .cmscj id d a b k z => kept_execCmscj k0 id d a b k z
  | .csq id d a k z => kept_execCsq k0 id d a k z
  | .rmac16 id d a b k z => kept_execRmac16 k0 id d a b k z
  | .rmac8 id d a b k z => kept_execRmac8 k0 id d a b k z
  | .cmul id d a b k => kept_execCmul k0 id d a b k
  | .cmulj id d a b k => kept_execCmulj k0 id d a b k
  | .crotj id d a k => kept_execCrotj k0 id d a k
  | .crotnj id d a k => kept_execCrotnj k0 id d a k
  | .rmul16 id d a b k => kept_execRmul16 k0 id d a b k
  | .accx id d a b k sr rt sh => kept_execAccx k0 id d a b k sr rt sh
  | .accxWl id d a b k sr rt sh => kept_execAccxWl k0 id d a b k sr rt sh
  | .accxWh id d a b k sr rt sh => kept_execAccxWh k0 id d a b k sr rt sh
  | .accz id d k => kept_execAccz k0 id d k
  | .accmv id d a => kept_execAccmv k0 id d a
  | .norm id d a k => kept_execNorm k0 id d a k
  | .expb id d a k => kept_execExpb k0 id d a k
  | .shlB id d a b k => kept_execShlB k0 id d a b k
  | .shlBi id d a b k => kept_execShlBi k0 id d a b k
  | .setvl id d a et => kept_execSetvl k0 id d a et
  | .vadd id d a b k et => kept_execVadd k0 id d a b k et
  | .vsub id d a b k et => kept_execVsub k0 id d a b k et
  | .vadds id d a b k et => kept_execVadds k0 id d a b k et
  | .vsubs id d a b k et => kept_execVsubs k0 id d a b k et
  | .vneg id d a k et => kept_execVneg k0 id d a k et
  | .vabs id d a k et => kept_execVabs k0 id d a k et
  | .vmin id d a b k et => kept_execVmin k0 id d a b k et
  | .vmax id d a b k et => kept_execVmax k0 id d a b k et
  | .vavg id d a b k et => kept_execVavg k0 id d a b k et
  | .vmul id d a b k et => kept_execVmul k0 id d a b k et
  | .vmov id d a k et => kept_execVmov k0 id d a k et
  | .vand id d a b k et => kept_execVand k0 id d a b k et
  | .vor id d a b k et => kept_execVor k0 id d a b k et
  | .vxor id d a b k et => kept_execVxor k0 id d a b k et
  | .vandn id d a b k et => kept_execVandn k0 id d a b k et
  | .vnot id d a k et => kept_execVnot k0 id d a k et
  | .vsll id d a b k et => kept_execVsll k0 id d a b k et
  | .vsrl id d a b k et => kept_execVsrl k0 id d a b k et
  | .vsra id d a b k et => kept_execVsra k0 id d a b k et
  | .vslli id d a b k et => kept_execVslli k0 id d a b k et
  | .vsrli id d a b k et => kept_execVsrli k0 id d a b k et
  | .vsrai id d a b k et => kept_execVsrai k0 id d a b k et
  | .vsrar id d a b k et => kept_execVsrar k0 id d a b k et
  | .vceq id d a b k et => kept_execVceq k0 id d a b k et
  | .vcne id d a b k et => kept_execVcne k0 id d a b k et
  | .vclt id d a b k et => kept_execVclt k0 id d a b k et
  | .vcle id d a b k et => kept_execVcle k0 id d a b k et
  | .vcltu id d a b k et => kept_execVcltu k0 id d a b k et
  | .vcleu id d a b k et => kept_execVcleu k0 id d a b k et
  | .vconj id d a k et => kept_execVconj k0 id d a k et
  | .vcswap id d a k et => kept_execVcswap k0 id d a k et
  | .vcmag2 id d a k => kept_execVcmag2 k0 id d a k
  | .vwidl id d a k et => kept_execVwidl k0 id d a k et
  | .vwidh id d a k et => kept_execVwidh k0 id d a k et
  | .vnarr id d a b k et => kept_execVnarr k0 id d a b k et
  | .vfadd id d a b k et => kept_execVfadd k0 id d a b k et
  | .vfsub id d a b k et => kept_execVfsub k0 id d a b k et
  | .vfmul id d a b k => kept_execVfmul k0 id d a b k
  | .vfcmul id d a b k => kept_execVfcmul k0 id d a b k
  | .vfma id d a b k => kept_execVfma k0 id d a b k
  | .vfcma id d a b k => kept_execVfcma k0 id d a b k
  | .vfms id d a b k => kept_execVfms k0 id d a b k
  | .vfcms id d a b k => kept_execVfcms k0 id d a b k
  | .vfmin id d a b k => kept_execVfmin k0 id d a b k
  | .vfcmulj id d a b k => kept_execVfcmulj k0 id d a b k
  | .vfmax id d a b k => kept_execVfmax k0 id d a b k
  | .vfcmaj id d a b k => kept_execVfcmaj k0 id d a b k
  | .vfabs id d a k => kept_execVfabs k0 id d a k
  | .vfneg id d a k et => kept_execVfneg k0 id d a k et
  | .vfrcp id d a k => kept_execVfrcp k0 id d a k
  | .vfrsq id d a k => kept_execVfrsq k0 id d a k
  | .vcvtF32I32 id d a k => kept_execVcvtF32I32 k0 id d a k
  | .vcvtI32F32 id d a k => kept_execVcvtI32F32 k0 id d a k
  | .vcvtCf16Ci16 id d a b k => kept_execVcvtCf16Ci16 k0 id d a b k
  | .vcvtCi16Cf16 id d a b k => kept_execVcvtCi16Cf16 k0 id d a b k
  | .vcvtF32l id d a k => kept_execVcvtF32l k0 id d a k
  | .vcvtF32h id d a k => kept_execVcvtF32h k0 id d a k
  | .vcvtCf16F32 id d a b k => kept_execVcvtCf16F32 k0 id d a b k
  | .vperm id d a b k et => kept_execVperm k0 id d a b k et
  | .vzipl id d a b k et => kept_execVzipl k0 id d a b k et
  | .vziph id d a b k et => kept_execVziph k0 id d a b k et
  | .vuzpe id d a b k et => kept_execVuzpe k0 id d a b k et
  | .vuzpo id d a b k et => kept_execVuzpo k0 id d a b k et
  | .vsldn id d a b k et => kept_execVsldn k0 id d a b k et
  | .vslup id d a b k et => kept_execVslup k0 id d a b k et
  | .vrev id d a k et => kept_execVrev k0 id d a k et
  | .vbcast id d a b k et => kept_execVbcast k0 id d a b k et
  | .vins id d a b et => kept_execVins k0 id d a b et
  | .vext id d a b et => kept_execVext k0 id d a b et
  | .vsel id d a b k et => kept_execVsel k0 id d a b k et
  | .vradd id d a k et => kept_execVradd k0 id d a k et
  | .vrmax id d a k et => kept_execVrmax k0 id d a k et
  | .vrmin id d a k et => kept_execVrmin k0 id d a k et
  | .vrimax id d a k et => kept_execVrimax k0 id d a k et
  | .vfradd id d a k => kept_execVfradd k0 id d a k
  | .kand id d a b => kept_execKand k0 id d a b
  | .kor id d a b => kept_execKor k0 id d a b
  | .kxor id d a b => kept_execKxor k0 id d a b
  | .kandn id d a b => kept_execKandn k0 id d a b
  | .knot id d a => kept_execKnot k0 id d a
  | .kvl id d et => kept_execKvl k0 id d et
  | .kpois id d a et => kept_execKpois k0 id d a et
  | .kpop id d a => kept_execKpop k0 id d a
  | .kfirst id d a => kept_execKfirst k0 id d a
  | .kset id d a b => kept_execKset k0 id d a b
  | .kget id d a b => kept_execKget k0 id d a b
  | .eyBfpUnpack id d a b w => kept_execEyBfpUnpack k0 id d a b w
  | .eyBfpPack id d a b w => kept_execEyBfpPack k0 id d a b w
  | .eySeqStep id d a => kept_execEySeqStep k0 id d a
  | .eySeqInit id d a => kept_execEySeqInit k0 id d a
  | .eySeqSkip id d a b => kept_execEySeqSkip k0 id d a b
  | .eyCrc id d a b gen order => kept_execEyCrc k0 id d a b gen order
  | .eyDemap id d a b k modn => kept_execEyDemap k0 id d a b k modn
  | .eyPhase id d a b k adv conj => kept_execEyPhase k0 id d a b k adv conj
  | .shankTaskStart b => kept_execShankTaskStart k0 b
  | .xadd b f => kept_execXadd k0 b f
  | .xsub b f => kept_execXsub k0 b f
  | .xaddi b f => kept_execXaddi k0 b f
  | .xld b f => kept_execXld k0 b f
  | .xst b f => kept_execXst k0 b f
  | .xstat b f => kept_execXstat k0 b f
  | .sloop b f => kept_execSloop k0 b f
  | .sbnz b f => kept_execSbnz k0 b f
  | .sj b f => kept_execSj k0 b f
  | .send b f => kept_execSend k0 b f
  | .lld b f => kept_execLld k0 b f
  | .lst b f => kept_execLst k0 b f
  | .llds b f => kept_execLlds k0 b f
  | .lsts b f => kept_execLsts k0 b f
  | .lldh b f => kept_execLldh k0 b f
  | .ldup b f => kept_execLdup k0 b f
  | .lmlen b f => kept_execLmlen k0 b f
  | .lmld b f => kept_execLmld k0 b f
  | .ladd b f => kept_execLadd k0 b f
  | .lsub b f => kept_execLsub k0 b f
  | .lcmul b f => kept_execLcmul k0 b f
  | .lcmulj b f => kept_execLcmulj k0 b f
  | .lconj b f => kept_execLconj k0 b f
  | .lcvt b f => kept_execLcvt k0 b f
  | .lrsq b f => kept_execLrsq k0 b f
  | .lfcma b f => kept_execLfcma k0 b f
  | .lcmac b f => kept_execLcmac k0 b f
  | .lcmacj b f => kept_execLcmacj k0 b f
  | .lcmsc b f => kept_execLcmsc k0 b f
  | .lmv16 b f => kept_execLmv16 k0 b f
  | .lmv8 b f => kept_execLmv8 k0 b f
  | .laccz b f => kept_execLaccz k0 b f
  | .laccx b f => kept_execLaccx k0 b f
  | .lchol b f => kept_execLchol k0 b f
  | .shankResume b => kept_execShankResume k0 b
  | .cmaSegmentStart b => kept_execCmaSegmentStart k0 b
  | .cmaVectorExit b ev => kept_execCmaVectorExit k0 b ev
  | .cmaLoadComplete b err stall => kept_execCmaLoadComplete k0 b err stall
  | .cmaJobComplete b => kept_execCmaJobComplete k0 b
  | .cmaBandSample b cur => kept_execCmaBandSample k0 b cur
  | .cmaBgCalStep b err => kept_execCmaBgCalStep k0 b err
  | .cmaFullCalStart b => kept_execCmaFullCalStart k0 b
  | .cmaFullCalEnd b ev trim => kept_execCmaFullCalEnd k0 b ev trim
  | .cmaCalStartBit w b => kept_execCmaCalStartBit k0 w b
  | .cmaShellInjArm w b => kept_execCmaShellInjArm k0 w b
  | .cmaSparePreload b => kept_execCmaSparePreload k0 b
  | .cmaStatus q => kept_execCmaStatus k0 q
  | .cmaCalibrate q => kept_execCmaCalibrate k0 q
  | .cmaConfig q => kept_execCmaConfig k0 q
  | .cmaPreload q => kept_execCmaPreload k0 q
  | .cmaService q => kept_execCmaService k0 q
  | .fftOfdmRx b ix err => kept_execFftOfdmRx k0 b ix err
  | .fftOfdmTx b ix err => kept_execFftOfdmTx k0 b ix err
  | .fftDft b ix err => kept_execFftDft k0 b ix err
  | .fftIdft b ix err => kept_execFftIdft k0 b ix err
  | .fftPrach b ix err => kept_execFftPrach k0 b ix err
  | .fftRaw b ix err => kept_execFftRaw k0 b ix err
  | .ifftRaw b ix err => kept_execIfftRaw k0 b ix err
  | .fftConvert b ix err => kept_execFftConvert k0 b ix err
  | .ldecComplete h ix err => kept_execLdecComplete k0 h ix err
  | .lencComplete h ix err => kept_execLencComplete k0 h ix err
  | .pdecComplete h ix err => kept_execPdecComplete k0 h ix err
  | .pencComplete h ix err => kept_execPencComplete k0 h ix err
  | .tdecComplete h ix err => kept_execTdecComplete k0 h ix err
  | .tencComplete h ix err => kept_execTencComplete k0 h ix err
  | .dematchComplete h ix err => kept_execDematchComplete k0 h ix err
  | .matchComplete h ix err => kept_execMatchComplete k0 h ix err
  | .hcNewComplete h ix err => kept_execHcNewComplete k0 h ix err
  | .hcCombineComplete h ix err => kept_execHcCombineComplete k0 h ix err
  | .hcReadComplete h ix err => kept_execHcReadComplete k0 h ix err
  | .hcLockAcquire h ix => kept_execHcLockAcquire k0 h ix
  | .qHdrWrite b q src hdr parityBad => kept_execQHdrWrite k0 b q src hdr parityBad
  | .qHeldHeaderAccept b q => kept_execQHeldHeaderAccept k0 b q
  | .qPushWord b q src word parityBad => kept_execQPushWord k0 b q src word parityBad
  | .qAbortWrite b q src => kept_execQAbortWrite k0 b q src
  | .qPopRead b q n parityBad => kept_execQPopRead k0 b q n parityBad
  | .qReleaseWrite b q n => kept_execQReleaseWrite k0 b q n
  | .qPktTimeout b q => kept_execQPktTimeout k0 b q
  | .qFlush b q => kept_execQFlush k0 b q
  | .qXcntRead b q => kept_execQXcntRead k0 b q
  | .qInjArm w b q skip => kept_execQInjArm k0 w b q skip
  | .queueConfig q => kept_execQueueConfig k0 q
  | .queueStatus q => kept_execQueueStatus k0 q
  | .hbmPartition q => kept_execHbmPartition k0 q
  | .hbmRead a n ondieCe ondieUe => kept_execHbmRead k0 a n ondieCe ondieUe
  | .hbmWrite a data poison => kept_execHbmWrite k0 a data poison
  | .bar2Write a data poison => kept_execBar2Write k0 a data poison
  | .hbmScrub a => kept_execHbmScrub k0 a
  | .patternLoad q => kept_execPatternLoad k0 q
  | .patternImageReadDone ix ov => kept_execPatternImageReadDone k0 ix ov
  | .patternUnload q => kept_execPatternUnload k0 q
  | .patternStatus q => kept_execPatternStatus k0 q
  | .slotreqRingConfig q => kept_execSlotreqRingConfig k0 q
  | .cordStatus q => kept_execCordStatus k0 q
  | .cellStart q => kept_execCellStart k0 q
  | .cellStop q => kept_execCellStop k0 q
  | .srTailWrite r v => kept_execSrTailWrite k0 r v
  | .instantiate => kept_execInstantiate k0
  | .instanceCreated => kept_execInstanceCreated k0
  | .delayRelease => kept_execDelayRelease k0
  | .taskCompletion => kept_execTaskCompletion k0
  | .dispatchGrant x => kept_execDispatchGrant k0 x
  | .eraseDone ix tmo => kept_execEraseDone k0 ix tmo
  | .notifyTaskStart n ov => kept_execNotifyTaskStart k0 n ov
  | .notifyAckRx dev result seq => kept_execNotifyAckRx k0 dev result seq
  | .notifyAckTimeout seq => kept_execNotifyAckTimeout k0 seq
  | .remoteCompletionRx src cell rtick tmpl g seq => kept_execRemoteCompletionRx k0 src cell rtick tmpl g seq
  | .earlyEntryExpire => kept_execEarlyEntryExpire k0
  | .deadlineCheck => kept_execDeadlineCheck k0
  | .gvLoadUpdate busy => kept_execGvLoadUpdate k0 busy
  | .lookaheadRecompute => kept_execLookaheadRecompute k0
  | .spareDesignateStartup => kept_execSpareDesignateStartup k0
  | .govPolicySet q => kept_execGovPolicySet k0 q
  | .placeExclude q => kept_execPlaceExclude k0 q
  | .govStatus q => kept_execGovStatus k0 q
  | .govCellStats q => kept_execGovCellStats k0 q
  | .niRequestSend n vn kind fc a len words => kept_execNiRequestSend k0 n vn kind fc a len words
  | .routerPacketRx k ce headUe payUe => kept_execRouterPacketRx k0 k ce headUe payUe
  | .niResponseRx n => kept_execNiResponseRx k0 n
  | .niTimeout n slot => kept_execNiTimeout k0 n slot
  | .niTokenRelease n vn cycles => kept_execNiTokenRelease k0 n vn cycles
  | .routeEntryCommit w n e v => kept_execRouteEntryCommit k0 w n e v
  | .fenceRequest d => kept_execFenceRequest k0 d
  | .fenceDrainEnd d => kept_execFenceDrainEnd k0 d
  | .fenceMsgRx n d => kept_execFenceMsgRx k0 n d
  | .fenceAckRx n d => kept_execFenceAckRx k0 n d
  | .fenceTimeout d => kept_execFenceTimeout k0 d
  | .unfenceStart d => kept_execUnfenceStart k0 d
  | .unfenceMsgRx n d => kept_execUnfenceMsgRx k0 n d
  | .wbExpire d => kept_execWbExpire k0 d
  | .rtRcfgGo w k v => kept_execRtRcfgGo k0 w k v
  | .rcApply k => kept_execRcApply k0 k
  | .rcQuiesceTimeout k => kept_execRcQuiesceTimeout k0 k
  | .rcPortWaitTimeout k => kept_execRcPortWaitTimeout k0 k
  | .niInjTmo w n => kept_execNiInjTmo k0 w n
  | .rtInjArm w k port ue => kept_execRtInjArm k0 w k port ue
  | .laneConfig q => kept_execLaneConfig k0 q
  | .laneStatus q => kept_execLaneStatus k0 q
  | .laneRetrain q => kept_execLaneRetrain k0 q
  | .laneRetrainBit w n => kept_execLaneRetrainBit k0 w n
  | .laneTest q => kept_execLaneTest k0 q
  | .laneTestRead q => kept_execLaneTestRead k0 q
  | .refclkConfig q => kept_execRefclkConfig k0 q
  | .quadRef q => kept_execQuadRef k0 q
  | .losChange n on => kept_execLosChange k0 n on
  | .lolChange n on => kept_execLolChange k0 n on
  | .trainingPhasePass n freq eqv skew sync => kept_execTrainingPhasePass k0 n freq eqv skew sync
  | .trainingPhaseTimeout n => kept_execTrainingPhaseTimeout k0 n
  | .backoffEnd n => kept_execBackoffEnd k0 n
  | .noPartnerRetry n => kept_execNoPartnerRetry k0 n
  | .eqBgStep n item v => kept_execEqBgStep k0 n item v
  | .eiEntry n => kept_execEiEntry k0 n
  | .eiExitRequest n => kept_execEiExitRequest k0 n
  | .eiExitComplete n => kept_execEiExitComplete k0 n
  | .eiSync64Missing n => kept_execEiSync64Missing k0 n
  | .trackHold t => kept_execTrackHold k0 t
  | .trackHoldRelease t => kept_execTrackHoldRelease k0 t
  | .checkerLockLoss n bits => kept_execCheckerLockLoss k0 n bits
  | .laneInjgo w n => kept_execLaneInjgo k0 w n
  | .laneShellInjArm w n kind dur => kept_execLaneShellInjArm k0 w n kind dur
  | .quadShellInjArm w q kind dur => kept_execQuadShellInjArm k0 w q kind dur
  | .pllUnlock q pll regained => kept_execPllUnlock k0 q pll regained
  | .refLoss q regained => kept_execRefLoss k0 q regained
  | .fhMacConfig q => kept_execFhMacConfig k0 q
  | .fhMacStatus q => kept_execFhMacStatus k0 q
  | .fhFlowConfig q => kept_execFhFlowConfig k0 q
  | .fhFlowStatus q => kept_execFhFlowStatus k0 q
  | .ptpConfig q => kept_execPtpConfig k0 q
  | .synceOutConfig q => kept_execSynceOutConfig k0 q
  | .pinConfig q => kept_execPinConfig k0 q
  | .ethFrameRx m f => kept_execEthFrameRx k0 m f
  | .pfcFrameRx m prio quanta => kept_execPfcFrameRx k0 m prio quanta
  | .pauseFrameRx m quanta => kept_execPauseFrameRx k0 m quanta
  | .pfcHoldExpiry m prio => kept_execPfcHoldExpiry k0 m prio
  | .pfcRepeat m prio => kept_execPfcRepeat k0 m prio
  | .ecpriDmrRx m sa id rx tx => kept_execEcpriDmrRx k0 m sa id rx tx
  | .fhrxJobStart m => kept_execFhrxJobStart k0 m
  | .fhrxComplete m ix => kept_execFhrxComplete k0 m ix
  | .fhtxJobStart m => kept_execFhtxJobStart k0 m
  | .fhtxFrameEligible m ix l => kept_execFhtxFrameEligible k0 m ix l
  | .fhtxFrameSent m => kept_execFhtxFrameSent k0 m
  | .fhtxCloseExpire m ix l => kept_execFhtxCloseExpire k0 m ix l
  | .ppsOutPulse => kept_execPpsOutPulse k0
  | .todTxSend => kept_execTodTxSend k0
  | .fcInChange k level => kept_execFcInChange k0 k level
  | .gpioEdge k level => kept_execGpioEdge k0 k level
  | .gpioMarkPulse k => kept_execGpioMarkPulse k0 k
  | .pcieSqDoorbell p tail => kept_execPcieSqDoorbell k0 p tail
  | .pennantSqEntry p e readErr => kept_execPennantSqEntry k0 p e readErr
  | .hostDmaEntry p e => kept_execHostDmaEntry k0 p e
  | .hostDmaComplete p data => kept_execHostDmaComplete k0 p data
  | .qpEnable p log2n => kept_execQpEnable k0 p log2n
  | .qpDisable p => kept_execQpDisable k0 p
  | .cqHeadWrite p head => kept_execCqHeadWrite k0 p head
  | .pcieFlr => kept_execPcieFlr k0
  | .pcieEpWriteRx a words => kept_execPcieEpWriteRx k0 a words
  | .i3cPrivateWrite p => kept_execI3cPrivateWrite k0 p
  | .i3cPrivateRead => kept_execI3cPrivateRead k0
  | .i3cEntdaa addr => kept_execI3cEntdaa k0 addr
  | .i3cSetdasa static_ dyn => kept_execI3cSetdasa k0 static_ dyn
  | .i3cRstdaa => kept_execI3cRstdaa k0
  | .i3cGetpid => kept_execI3cGetpid k0
  | .i3cGetbcr => kept_execI3cGetbcr k0
  | .i3cGetdcr => kept_execI3cGetdcr k0
  | .i3cGetstatus => kept_execI3cGetstatus k0
  | .i3cEnec events => kept_execI3cEnec k0 events
  | .i3cDisec events => kept_execI3cDisec k0 events
  | .i3cSetmwl n => kept_execI3cSetmwl k0 n
  | .i3cSetmrl n => kept_execI3cSetmrl k0 n
  | .i3cGetmwl => kept_execI3cGetmwl k0
  | .i3cGetmrl => kept_execI3cGetmrl k0
  | .i3cRstact action => kept_execI3cRstact k0 action
  | .lacePortConfig q => kept_execLacePortConfig k0 q
  | .laceJoin q => kept_execLaceJoin k0 q
  | .laceLeave q => kept_execLaceLeave k0 q
  | .laceStatus q => kept_execLaceStatus k0 q
  | .laceRouteSet q => kept_execLaceRouteSet k0 q
  | .laceExportSet q => kept_execLaceExportSet k0 q
  | .laceTransitSet q => kept_execLaceTransitSet k0 q
  | .laceDomainCommit q => kept_execLaceDomainCommit k0 q
  | .laceMastheadHandover q => kept_execLaceMastheadHandover k0 q
  | .laceMastheadDesignate q => kept_execLaceMastheadDesignate k0 q
  | .hskRx p b => kept_execHskRx k0 p b
  | .hskSendTimer p => kept_execHskSendTimer k0 p
  | .flitRx p seq b => kept_execFlitRx k0 p seq b
  | .lctlRx p b => kept_execLctlRx k0 p b
  | .lctlSendTimer p => kept_execLctlSendTimer k0 p
  | .replayTimeout p => kept_execReplayTimeout k0 p
  | .laceLinkLoss p => kept_execLaceLinkLoss k0 p
  | .markerRx p b stamp => kept_execMarkerRx k0 p b stamp
  | .eieRx p b => kept_execEieRx k0 p b
  | .eiIdleTimer p => kept_execEiIdleTimer k0 p
  | .remotePacketRx p => kept_execRemotePacketRx k0 p
  | .splice k west east => kept_execSplice k0 k west east
  | .spliceTimeout k => kept_execSpliceTimeout k0 k
  | .bypassCloseLeave k => kept_execBypassCloseLeave k0 k
  | .mhFailover => kept_execMhFailover k0
  | .hoistLost => kept_execHoistLost k0
  | .hoistAlignStep => kept_execHoistAlignStep k0
  | .joinRequestRx want standby gone => kept_execJoinRequestRx k0 want standby gone
  | .prepareRx inner => kept_execPrepareRx k0 inner
  | .domainCommitDecision stream replies => kept_execDomainCommitDecision k0 stream replies
  | .confirmRx op tag => kept_execConfirmRx k0 op tag
  | .abortRx op tag => kept_execAbortRx k0 op tag
  | .prepExpired named => kept_execPrepExpired k0 named
  | .domainAckDeadline stream => kept_execDomainAckDeadline k0 stream
  | .lcInjArm w p v => kept_execLcInjArm k0 w p v
  | .commandPacketRx p => kept_execCommandPacketRx k0 p
  | .forwardReplyRx xid st ws => kept_execForwardReplyRx k0 xid st ws
  | .forwardTimeout xid => kept_execForwardTimeout k0 xid
  | .laceFragmentRx src xid frag last data => kept_execLaceFragmentRx k0 src xid frag last data
  | .fragmentTimeout src xid => kept_execFragmentTimeout k0 src xid
  | .eventSinkDrain k => kept_execEventSinkDrain k0 k
  | .devEcho q => kept_execDevEcho k0 q
  | .pennantConfig q => kept_execPennantConfig k0 q
  | .commitStatus q => kept_execCommitStatus k0 q
  | .commitCancel q => kept_execCommitCancel k0 q
  | .commitGroup q => kept_execCommitGroup k0 q
  | .eventSinkSet q => kept_execEventSinkSet k0 q
  | .eventEnable q => kept_execEventEnable k0 q
  | .eventStatus q => kept_execEventStatus k0 q
  | .pnInjArm w v => kept_execPnInjArm k0 w v
  | .pwrStatus q => kept_execPwrStatus k0 q
  | .pwrDomainSet q => kept_execPwrDomainSet k0 q
  | .pwrLimitSet q => kept_execPwrLimitSet k0 q
  | .pwrIdleConfig q => kept_execPwrIdleConfig k0 q
  | .pwrFitCap q => kept_execPwrFitCap k0 q
  | .fitRampEnd d => kept_execFitRampEnd k0 d
  | .powerLoopStep p draws => kept_execPowerLoopStep k0 p draws
  | .ilimHit d fallen => kept_execIlimHit k0 d fallen
  | .ivrOverCurrent d => kept_execIvrOverCurrent k0 d
  | .idleEntry d edges => kept_execIdleEntry k0 d edges
  | .idleExit d => kept_execIdleExit k0 d
  | .lowPowerEntryStart d idle quiet => kept_execLowPowerEntryStart k0 d idle quiet
  | .entryStepDone d => kept_execEntryStepDone k0 d
  | .wakeEvent d src => kept_execWakeEvent k0 d src
  | .prewake d => kept_execPrewake k0 d
  | .exitStepDone d bad => kept_execExitStepDone k0 d bad
  | .brownOut d => kept_execBrownOut k0 d
  | .ivrShellInjArm w d kind dur => kept_execIvrShellInjArm k0 w d kind dur
  | .sensorSample readings => kept_execSensorSample k0 readings
  | .externalTempRead t0 t1 mram => kept_execExternalTempRead k0 t0 t1 mram
  | .throttleStep => kept_execThrottleStep k0
  | .throttleRecoverStep => kept_execThrottleRecoverStep k0
  | .thermalRestartTimer => kept_execThermalRestartTimer k0
  | .thermalRestartRelease bootSel laceRole => kept_execThermalRestartRelease k0 bootSel laceRole
  | .sensorShellInjArm w k kind value dur => kept_execSensorShellInjArm k0 w k kind value dur
  | .mramShellInjArm w kind => kept_execMramShellInjArm k0 w kind
  | .thermStatus q => kept_execThermStatus k0 q
  | .thermConfig q => kept_execThermConfig k0 q
  | .thermRestart q => kept_execThermRestart k0 q
  | .journalRead q => kept_execJournalRead k0 q
  | .ledgerRead q => kept_execLedgerRead k0 q
  | .journalCompact q => kept_execJournalCompact k0 q
  | .compaction => kept_execCompaction k0
  | .bootProfileBegin q => kept_execBootProfileBegin k0 q
  | .bootProfileData q => kept_execBootProfileData k0 q
  | .bootProfileCommit q => kept_execBootProfileCommit k0 q
  | .bootProfileClear q => kept_execBootProfileClear k0 q
  | .bootProfileRead q => kept_execBootProfileRead k0 q
  | .ledgerSecondUpdate avg => kept_execLedgerSecondUpdate k0 avg
  | .ledgerPeriodicWrite => kept_execLedgerPeriodicWrite k0
  | .telemetrySample => kept_execTelemetrySample k0
  | .mpWatchdogExpiry pair => kept_execMpWatchdogExpiry k0 pair
  | .lockstepMismatch pair => kept_execLockstepMismatch k0 pair
  | .detStatus q => kept_execDetStatus k0 q
  | .detInject q => kept_execDetInject k0 q
  | .detLogRead q => kept_execDetLogRead k0 q
  | .pwrOkRise freq => kept_execPwrOkRise k0 freq
  | .pwrOkFall => kept_execPwrOkFall k0
  | .supplyOutOfRange => kept_execSupplyOutOfRange k0
  | .oscInLoss => kept_execOscInLoss k0
  | .resetNAssert => kept_execResetNAssert k0
  | .resetRelease bootSel laceRole => kept_execResetRelease k0 bootSel laceRole
  | .imageFetchComplete img clean => kept_execImageFetchComplete k0 img clean
  | .bootPushGo w => kept_execBootPushGo k0 w
  | .laceBootChunkRx idx ws => kept_execLaceBootChunkRx k0 idx ws
  | .laceBootRetry => kept_execLaceBootRetry k0
  | .urvarStartup => kept_execUrvarStartup k0
  | .fwStatus q => kept_execFwStatus k0 q
  | .fwUpdateBegin q => kept_execFwUpdateBegin k0 q
  | .fwUpdateData q => kept_execFwUpdateData k0 q
  | .fwActivateActivate q flashOk => kept_execFwActivateActivate k0 q flashOk
  | .fwActivateConfirm q raise_ => kept_execFwActivateConfirm k0 q raise_
  | .fwActivateFallback => kept_execFwActivateFallback k0
  | .idCertRead q => kept_execIdCertRead k0 q
  | .attestQuote q => kept_execAttestQuote k0 q
  | .attestLog q first => kept_execAttestLog k0 q first
  | .ownerKeyInstall q => kept_execOwnerKeyInstall k0 q
  | .debugUnlockChallenge q => kept_execDebugUnlockChallenge k0 q
  | .debugUnlockOpen q => kept_execDebugUnlockOpen k0 q
  | .debugUnlockClose q => kept_execDebugUnlockClose k0 q
  | .diagSessionChallenge q => kept_execDiagSessionChallenge k0 q
  | .diagSessionOpen q => kept_execDiagSessionOpen k0 q
  | .diagSessionClose q => kept_execDiagSessionClose k0 q
  | .challengeExpiry kind => kept_execChallengeExpiry k0 kind
  | .checkerLock n bits => kept_execCheckerLock k0 n bits
  | .pcieLinkStateChange up train => kept_execPcieLinkStateChange k0 up train
  | .vaoRise => kept_execVaoRise k0
  | .vaoLoss => kept_execVaoLoss k0
  | .debugRequest id => kept_execDebugRequest k0 id
  | .confirmAckRx stream dev => kept_execConfirmAckRx k0 stream dev
  | .joinGrantRx granted mh epoch standby => kept_execJoinGrantRx k0 granted mh epoch standby

/-- A step answers a next state and keeps everything of the state without the front command. -/
theorem kept_step (s : State) : ∃ t, step s = .next t ∧ Kept { s with pending := s.pending.tail } t := by
  cases queue : s.pending with
  | nil =>
    have same : ({ s with pending := [] } : State) = s := by rw [← queue]
    exact ⟨clockEdge s, step_of_empty queue, by rw [List.tail_nil, same]; exact kept_clockEdge (Kept.refl s)⟩
  | cons c rest =>
    have runs : step s = exec c { s with pending := rest } := by simp only [step, queue]
    rw [runs]
    exact kept_exec (Kept.refl _) c

theorem Kept.of_step {s t : State} (h : step s = .next t) : Kept { s with pending := s.pending.tail } t := by
  obtain ⟨u, next, kept⟩ := kept_step s
  rw [next] at h
  cases h
  exact kept

theorem Kept.inv {s t : State} (h : Kept s t) (i : Inv s) : Inv t := ⟨h.regs i.regs, h.mem i.mem, h.dom i.dom, h.pn i.pn⟩

/-- Settles O5: taking the front command from the queue keeps the invariant, and so does every operation after it. -/
theorem stepKeepsInv : Obligations.StepKeepsInv := fun _ _ i h => (Kept.of_step h).inv ⟨i.regs, i.mem, i.dom, i.pn⟩

/-- Settles O6: every command answers a next state, and none touches the queue or the variant. -/
theorem everyStepRuns : Obligations.EveryStepRuns := fun s =>
  let ⟨t, next, kept⟩ := kept_step s
  ⟨t, next, kept.variant, kept.pending⟩

/-- Settles O7: no operation clears a fuse, a reset or a loss of power included. -/
theorem fusesStand : Obligations.FusesStand := fun _ _ h => (Kept.of_step h).fuse

end Sys2Proof.Machine
end

section
/-! Fit levels, the power limit, the regulators and the transitions of the power domains, and the power commands (R512–R537): what
each row and command does in each case of O31, O32 and O33, and their proofs. -/

namespace Sys2Proof.Machine

/-! ## The record of a domain -/

theorem modNth_congr {α : Type} {f g : α → α} {d : α} :
    ∀ {l : List α} {i : Nat}, f (nth l i d) = g (nth l i d) → modNth l i f = modNth l i g
  | [], _, _ => rfl
  | x :: xs, 0, h => congrArg (· :: xs) (show f x = g x from h)
  | x :: xs, _ + 1, h => congrArg (x :: ·) (modNth_congr (l := xs) (by simpa [nth] using h))

/-- Two changes that agree on the record of a domain change it alike. -/
theorem setDom_congr {s : State} {d : Nat} {f g : Domain → Domain} (h : f (domOf s d) = g (domOf s d)) : setDom s d f = setDom s d g :=
  congrArg (fun x => ({ s with dom := x } : State)) (modNth_congr h)

/-! ## Fit levels (R513) -/

section Limits
variable {s : State}

/-- The end of a step of a ramp that has more than one level to go up. -/
theorem exec_fitRampEnd_of_far {d : Fin 18} {g : Nat} (goal : (domOf s d.val).fitGoal = some g) (far : (domOf s d.val).fitNow + 1 < g) :
    exec (.fitRampEnd d) s = .next (setDom s d.val fun y => { y with fitNow := (domOf s d.val).fitNow + 1 }) := by
  have up : (domOf s d.val).fitNow < g := by omega
  have short : (domOf s d.val).fitNow + 1 ≠ g := by omega
  refine congrArg Host.Outcome.next ?_
  simp only [goal, if_pos up, if_pos short]

/-- The end of a ramp's last step, with no change requested meanwhile. -/
theorem exec_fitRampEnd_of_last {d : Fin 18} {g : Nat} (goal : (domOf s d.val).fitGoal = some g) (last : (domOf s d.val).fitNow + 1 = g)
    (noNext : (domOf s d.val).fitNext = none) :
    exec (.fitRampEnd d) s = .next (setDom s d.val fun y => { y with fitNow := g, fitGoal := none, fitNext := none }) := by
  have up : (domOf s d.val).fitNow < g := by omega
  refine congrArg Host.Outcome.next ?_
  simp only [goal, if_pos up, last]
  exact setDom_congr (by simp [noNext])

/-! ## The power limit (R514) -/

section Loop
variable {p : Fin 65536} {draws : List Nat} {limit : Nat} (hl : rdF s R.pwrLimit 0 0 15 0 * rdF s R.pwrStat 0 0 22 16 = limit)
include hl

/-- Between 90 % and 100 % of the limit a reading is recorded and nothing else happens. -/
theorem exec_powerLoopStep_of_within (below : 100 * p.val ≤ limit) (above : 9 * limit ≤ 1000 * p.val) :
    exec (.powerLoopStep p draws) s = .next (wrF s R.pwrStat 0 0 15 0 p.val) :=
  congrArg Host.Outcome.next ((if_neg (by rw [hl]; omega)).trans (if_neg (by rw [hl]; omega)))

/-- Above the limit, with LIMITING set, the domain that draws most of those above F0 loses a level. -/
theorem exec_powerLoopStep_of_over {d : Nat} (exceeds : limit < 100 * p.val)
    (limiting : rdB (wrF s R.pwrStat 0 0 15 0 p.val) R.pwrStat 0 0 23 = true)
    (most : pickBest (fun a b => decide (b < a)) (((fitDomains s).filter fun d => decide (0 < effCap s d)).map fun d => (d, nth draws d 0)) = some d) :
    exec (.powerLoopStep p draws) s =
      .next (syncFit (setPd (wrF s R.pwrStat 0 0 15 0 p.val) d 16 15 (rdF s R.pdStat d 0 16 15 - 1)) d) := by
  refine congrArg Host.Outcome.next ((if_pos (by rw [hl]; exact exceeds)).trans ?_)
  simp only [limiting, if_true, most]

/-- Above the limit with every domain at F0: LIMITING is set with its event, and the second event is raised. -/
theorem exec_powerLoopStep_of_floor (exceeds : limit < 100 * p.val)
    (limiting : rdB (wrF s R.pwrStat 0 0 15 0 p.val) R.pwrStat 0 0 23 = false) (floor : ∀ d ∈ fitDomains s, effCap s d = 0) :
    exec (.powerLoopStep p draws) s =
      .next (raise (raise (wrB (wrF s R.pwrStat 0 0 15 0 p.val) R.pwrStat 0 0 23 true) E.pwr 0 0) E.pwr 0 1) := by
  have none_ : ((fitDomains s).filter fun d => decide (0 < effCap s d)) = [] :=
    List.filter_eq_nil_iff.2 fun d hd => by simp [floor d hd]
  refine congrArg Host.Outcome.next ((if_pos (by rw [hl]; exact exceeds)).trans ?_)
  simp only [limiting, none_, List.map_nil, pickBest, Bool.false_eq_true, if_false]

end Loop

/-! ## The regulators (R515, R528, R532) -/

section Regulators
variable {d : Fin 39} (here : domainHere s.variant d.val = true) (ivr : d.val < 38)
include here ivr

/-- A domain that is present has a regulator, the management domain apart. -/
theorem hasIvr : ¬ ((!domainHere s.variant d.val) = true ∨ 38 ≤ d.val) := by
  rw [here]
  simp [ivr]

theorem exec_ilimHit_of_reached : exec (.ilimHit d false) s = .next (raise (wrB s R.ivrStat d.val 0 1 true) E.ivr d.val 0) :=
  congrArg Host.Outcome.next (if_neg (hasIvr here ivr))

theorem exec_ilimHit_of_fallen : exec (.ilimHit d true) s = .next (wrB s R.ivrStat d.val 0 1 false) :=
  congrArg Host.Outcome.next (if_neg (hasIvr here ivr))

theorem exec_ivrOverCurrent_of_here :
    exec (.ivrOverCurrent d) s = .next (syncFit (wrB (raise s E.ivr d.val 1) R.pdStat d.val 0 17 true) d.val) :=
  congrArg Host.Outcome.next (if_neg (hasIvr here ivr))

end Regulators

/-- A brown-out of a domain that is neither in RETAIN nor about to be has no effect (log entry 5). -/
theorem exec_brownOut_of_powered {d : Fin 39} (low : d.val < 36) (powered : pdState s d.val ≠ 2 ∧ pdState s d.val ≠ 4) :
    exec (.brownOut d) s = .next s :=
  congrArg Host.Outcome.next ((if_pos (decide_eq_true low)).trans (if_pos (by simp [powered])))

/-- A brown-out of a domain in RETAIN (R528). -/
theorem exec_brownOut_of_retain {d : Fin 39} (low : d.val < 36) (retain : pdState s d.val = 2) : exec (.brownOut d) s = .next (
    applyPending (ivrLeaves (bump (ledAdd (raise (pdEvent (wr (setDom (rest (loseOff s d.val) d.val 3) d.val fun x =>
      { x with brown := true, image := true, offPath := true }) R.pdLost d.val 0 (lostMask d.val)) d.val 3) E.ivr d.val 2) 24 1)
      R.pdCount d.val 1 1) d.val 2) d.val) := by
  refine congrArg Host.Outcome.next ((if_pos (decide_eq_true low)).trans ((if_neg (by simp [retain])).trans ?_))
  simp only [retain]
  rfl

theorem exec_ivrShellInjArm_of_brownOut {w : Writer} {d : Fin 38} {dur : Fin 65536} (here : domainHere s.variant d.val = true)
    (may : mayInject s w = true) :
    exec (.ivrShellInjArm w d 3 dur) s = .next (wr s R.ivrInj d.val 0 (packF [(0, 3), (2, 1), (16, dur.val)])) :=
  congrArg Host.Outcome.next (if_pos (by simp [here, may]))

end Limits

/-- Settles O31, row by row from the equations above. The model's choice in it: a brown-out of a domain outside RETAIN changes nothing
(log entry 5). -/
theorem powerLimits : Obligations.PowerLimits := by
  refine ⟨?far, ?last, ?within, ?exceeds, ?floor, ?ilim, ?ilimFallen, ?overCurrent, ?powered, ?retain, ?inj⟩
  case far => exact fun _ _ _ goal far => exec_fitRampEnd_of_far goal far
  case last => exact fun _ _ _ goal last noNext => exec_fitRampEnd_of_last goal last noNext
  case within => exact fun _ _ _ below above => exec_powerLoopStep_of_within rfl below above
  case exceeds => exact fun _ _ _ _ exceeds limiting most => exec_powerLoopStep_of_over rfl exceeds limiting most
  case floor => exact fun _ _ _ exceeds limiting floor => exec_powerLoopStep_of_floor rfl exceeds limiting floor
  case ilim => exact fun _ _ here ivr => exec_ilimHit_of_reached here ivr
  case ilimFallen => exact fun _ _ here ivr => exec_ilimHit_of_fallen here ivr
  case overCurrent => exact fun _ _ here ivr => exec_ivrOverCurrent_of_here here ivr
  case powered => exact fun _ _ low state => exec_brownOut_of_powered low (by omega)
  case retain => exact fun _ _ low retain => exec_brownOut_of_retain low retain
  case inj => exact fun _ _ _ _ here may => exec_ivrShellInjArm_of_brownOut here may

end Sys2Proof.Machine
end

section
/-! The transitions of the power domains and the power commands (R516–R537): what each row and command does in each case of O32 and
O33, and their proofs. -/

namespace Sys2Proof.Machine

section Transitions
variable {s : State} {d : Fin 39}

/-! ## IDLE, wakes and the start of an entry (R517, R520–R524, R531) -/

theorem exec_idleEntry_of_idle {n : Nat} (here : domainHere s.variant d.val = true) (gates : d.val < 38) (runs : pdState s d.val = 0)
    (auto : rdB s R.pdCfg d.val 0 16 = true) (free : pdHeld s d.val = false) (long : rdF s R.pdCfg d.val 0 7 0 ≤ n)
    (quiet : domainRuns s d.val = false) : exec (.idleEntry d n) s = .next (rest s d.val 1) :=
  congrArg Host.Outcome.next (if_pos (by simp [here, hasIdle, gates, runs, auto, free, long, quiet]))

/-- A domain that has not been idle long enough stays in RUN (log entry 5). -/
theorem exec_idleEntry_of_early {n : Nat} (early : n < rdF s R.pdCfg d.val 0 7 0) : exec (.idleEntry d n) s = .next s :=
  congrArg Host.Outcome.next (if_neg (by simp [early]))

theorem exec_idleExit_of_idle (idle : pdState s d.val = 1) (free : pdHeld s d.val = false) :
    exec (.idleExit d) s = .next (rest s d.val 0) :=
  congrArg Host.Outcome.next (if_pos ⟨idle, free⟩)

theorem exec_wakeEvent_of_source {src : Fin 7} (some_ : src.val ≠ 0)
    (packet : src.val ≠ 3 ∨ (hasWop s.variant = true ∧ R.spineDomain d.val = true)) :
    exec (.wakeEvent d src) s = .next (wakeDomain s d.val src.val) := by
  refine congrArg Host.Outcome.next (if_neg ?_)
  rcases packet with other | ⟨wop, spine⟩
  · simp [some_, other]
  · simp [some_, wop, spine]

/-- A wake of a domain in RETAIN or OFF that is not held begins its exit. -/
theorem wakeDomain_of_asleep {src : Nat} (here : domainHere s.variant d.val = true) (low : d.val < 36) (free : pdHeld s d.val = false)
    (asleep : pdState s d.val = 2 ∨ pdState s d.val = 3) : wakeDomain s d.val src = startExit s d.val src := by
  refine (if_neg (by simp [here, low])).trans ((if_neg (by simp [free])).trans ?_)
  rcases asleep with retain | off
  · simp only [retain]
  · simp only [off]

/-- A held domain that is not entering a state is woken by a command, the debugger or its heat alone. -/
theorem wakeDomain_of_held {src : Nat} (held : pdHeld s d.val = true) (settled : pdState s d.val ≠ 4) (weak : src < 4) :
    wakeDomain s d.val src = s := by
  have others : src ≠ 4 ∧ src ≠ 5 ∧ src ≠ 6 := by omega
  unfold wakeDomain
  split
  · rfl
  · exact if_pos ⟨held, others.1, others.2.1, others.2.2, settled⟩

/-- A wake that comes from no source, or that leaves the domain as it is, changes nothing. -/
theorem exec_wakeEvent_of_stays {src : Fin 7} (stays : wakeDomain s d.val src.val = s) : exec (.wakeEvent d src) s = .next s := by
  refine congrArg Host.Outcome.next ?_
  split
  · rfl
  · exact stays

/-- Without a wake buffer no packet wakes a domain (log entry 5). -/
theorem exec_wakeEvent_of_no_buffer (none_ : hasWop s.variant = false ∨ R.spineDomain d.val = false) :
    exec (.wakeEvent d 3) s = .next s :=
  congrArg Host.Outcome.next (if_pos (.inr (by rcases none_ with h | h <;> simp [h])))

theorem exec_lowPowerEntryStart_of_commanded {a b : Nat} (here : domainHere s.variant d.val = true) (awake : pdState s d.val < 2)
    (free : busy s d.val = false) (waits : (domOf s d.val).waitRet = true) (cool : hot s d.val = false) :
    exec (.lowPowerEntryStart d a b) s = .next (startEntry s d.val false (domOf s d.val).slow false) := by
  refine congrArg Host.Outcome.next ((if_neg ?_).trans ((if_pos waits).trans (if_neg (by simp [cool]))))
  simp [here, free, Nat.le_of_lt_succ awake]

theorem exec_lowPowerEntryStart_of_auto {a b : Nat} (here : domainHere s.variant d.val = true) (small : d.val < 20)
    (awake : pdState s d.val < 2) (free : busy s d.val = false) (noWait : (domOf s d.val).waitRet = false)
    (auto : rdB s R.pdCfg d.val 0 17 = true) (unheld : pdHeld s d.val = false) (long : rdF s R.pdCfg d.val 0 15 8 ≤ a)
    (far : dueFar s d.val b false (rdB s R.pdCfg d.val 0 19) = true) (cool : hot s d.val = false) :
    exec (.lowPowerEntryStart d a b) s = .next (startEntry s d.val false (rdB s R.pdCfg d.val 0 19) true) := by
  refine congrArg Host.Outcome.next ((if_neg ?_).trans ((if_neg (by simp [noWait])).trans ((if_neg ?_).trans (if_pos (by simp [cool])))))
  · simp [here, free, Nat.le_of_lt_succ awake]
  · simp [auto, small, unheld, long, far]

/-- Pre-wake of a bench in RETAIN whose next due tick less WAKE and MARGIN is reached. -/
theorem exec_prewake_of_due {k : Fin 16} (retain : pdState s k.val = 2) (free : pdHeld s k.val = false)
    (valid : rdB s R.gvDueValid 0 0 k.val = true)
    (near : ticksAhead s (rd s R.gvNextDue 0 k.val).toNat ≤ wakeTicks s k.val false (domOf s k.val).slow + margin s)
    (fresh : s.tim.barTo < s.ats.toNat ∨ (domOf s k.val).preFor ≠ some (dueTick s k.val)) :
    exec (.prewake k) s = .next (startExit (setDom s k.val fun y => { y with preFor := some (dueTick s k.val) }) k.val 1) := by
  have once : ¬ (s.ats.toNat ≤ s.tim.barTo ∧ (domOf s k.val).preFor = some (dueTick s k.val)) := fun ⟨barred, done⟩ =>
    fresh.elim (fun later => Nat.not_lt.2 barred later) (fun other => other done)
  have notOff : decide (pdState s k.val = 3) = false := by simp [retain]
  refine congrArg Host.Outcome.next (if_pos ⟨.inl retain, by simp [free], valid, ?_, once⟩)
  simpa only [notOff] using near

/-- A due tick that a backward step brings again brings no second pre-wake (R41, log entry 14). -/
theorem exec_prewake_of_again {k : Fin 16} (barred : s.ats.toNat ≤ s.tim.barTo) (done : (domOf s k.val).preFor = some (dueTick s k.val)) :
    exec (.prewake k) s = .next s :=
  congrArg Host.Outcome.next (if_neg fun ⟨_, _, _, _, once⟩ => once ⟨barred, done⟩)

/-! ## The steps of an entry (R522) -/

section Entry
variable (entering : pdState s d.val = 4)
include entering

theorem exec_entryStepDone_of_fenced (first : pdStep s d.val = 0) (fenced : fnState s d.val = 3) (noTask : domainTasks s d.val = false) :
    exec (.entryStepDone d) s = .next (setPd s d.val 12 10 1) :=
  congrArg Host.Outcome.next ((if_neg (not_not.2 entering)).trans ((if_pos first).trans (if_neg (by simp [fenced, noTask]))))

/-- The first step waits for the fence and for the domain's tasks (log entry 5). -/
theorem exec_entryStepDone_of_unfenced (first : pdStep s d.val = 0) (waits : fnState s d.val ≠ 3 ∨ domainTasks s d.val = true) :
    exec (.entryStepDone d) s = .next s :=
  congrArg Host.Outcome.next ((if_neg (not_not.2 entering)).trans ((if_pos first).trans (if_pos waits)))

theorem exec_entryStepDone_of_removing (later : pdStep s d.val ≠ 0) (removing : (domOf s d.val).removing = true) :
    exec (.entryStepDone d) s = .next (reachLow s d.val) :=
  congrArg Host.Outcome.next ((if_neg (not_not.2 entering)).trans ((if_neg later).trans (if_pos removing)))

section Steps
variable (notRemoving : (domOf s d.val).removing = false)
include notRemoving

/-- A wake that came during an entry is taken at the next step that may still abandon it. -/
theorem exec_entryStepDone_of_woken (later : pdStep s d.val ≠ 0) (may : abortable s d.val = true)
    (woken : (domOf s d.val).pendSrc ≠ 0) (noRequest : rdB s R.pdStat d.val 0 5 = false) :
    exec (.entryStepDone d) s = .next (abandon s d.val (domOf s d.val).pendSrc) :=
  congrArg Host.Outcome.next ((if_neg (not_not.2 entering)).trans ((if_neg later).trans ((if_neg (by simp [notRemoving])).trans
    (if_pos ⟨may, woken, by simp [noRequest]⟩))))

/-- What an entry does at each step after the first when nothing has woken the domain. -/
theorem exec_entryStepDone_of_step (noWake : (domOf s d.val).pendSrc = 0) (later : pdStep s d.val ≠ 0) : exec (.entryStepDone d) s = .next (
    if pdStep s d.val = 1 then setPd s d.val 12 10 2
    else if pdStep s d.val = 2 then
      if (domOf s d.val).offPath then setDom (setDom s d.val fun y => { y with image := true }) d.val fun y => { y with removing := true }
      else setPd (setDom s d.val fun y => { y with image := true }) d.val 12 10 3
    else if pdStep s d.val = 3 then
      setPd (setDom s d.val fun y => { y with canaryOn := y.canary, canary := 0, crcTaken := y.slow }) d.val 12 10 4
    else if pdStep s d.val = 4 then setPd s d.val 12 10 5
    else if (rdB (reachLow s d.val) R.ivrInj d.val 0 2 && decide (rdF (reachLow s d.val) R.ivrInj d.val 0 1 0 = 3)) ∧
        pdState (reachLow s d.val) d.val = 2 then brownOut (wrB (reachLow s d.val) R.ivrInj d.val 0 2 false) d.val true
      else reachLow s d.val) :=
  congrArg Host.Outcome.next ((if_neg (not_not.2 entering)).trans ((if_neg later).trans ((if_neg (by simp [notRemoving])).trans
    (if_neg (by simp [noWake])))))

end Steps
end Entry

/-! ## The steps of an exit (R525, R526) -/

section Exit
variable {bad : W32} (exiting : pdState s d.val = 5)
include exiting

theorem exec_exitStepDone_of_regulator (step : pdStep s d.val = 1) :
    exec (.exitStepDone d bad) s = .next (setPd (wrB s R.ivrStat d.val 0 0 true) d.val 12 10 2) := by
  refine congrArg Host.Outcome.next ((if_neg (not_not.2 exiting)).trans ?_)
  simp only [step]

theorem exec_exitStepDone_of_power (step : pdStep s d.val = 2) : exec (.exitStepDone d bad) s = .next (setPd s d.val 12 10 3) := by
  refine congrArg Host.Outcome.next ((if_neg (not_not.2 exiting)).trans ?_)
  simp only [step]

/-- The banks that an exit from RETAIN finds bad are lost, counted in the ledger, and raise their event. -/
theorem exec_exitStepDone_of_lost (step : pdStep s d.val = 3) (retained : (domOf s d.val).offPath = false)
    (some_ : (bad ||| (domOf s d.val).canaryOn) &&& lostMask d.val ≠ 0) : exec (.exitStepDone d bad) s =
    .next (setPd (pdEvent (ledAdd (loseBanks (wr s R.pdLost d.val 0 ((bad ||| (domOf s d.val).canaryOn) &&& lostMask d.val)) d.val
      ((bad ||| (domOf s d.val).canaryOn) &&& lostMask d.val)) 23 (popcount ((bad ||| (domOf s d.val).canaryOn) &&& lostMask d.val)))
      d.val 2) d.val 12 10 4) := by
  have banks : ¬ ((bad ||| (domOf s d.val).canaryOn) &&& lostMask d.val = 0#32) := some_
  refine congrArg Host.Outcome.next ((if_neg (not_not.2 exiting)).trans ?_)
  simp only [step, retained, Bool.false_eq_true, if_false, false_or, if_neg banks]

theorem exec_exitStepDone_of_logic (step : pdStep s d.val = 4) : exec (.exitStepDone d bad) s = .next (exitDone s d.val) := by
  refine congrArg Host.Outcome.next ((if_neg (not_not.2 exiting)).trans ?_)
  simp only [step]

end Exit
end Transitions

/-- Settles O32, row by row from the equations above. The model's choices in it: a row that comes too early, or without its reason,
changes nothing (log entry 5), and a due tick that recurs brings no second pre-wake (log entry 14). -/
theorem domainTransitions : Obligations.DomainTransitions := by
  refine ⟨?idle, ?early, ?idleExit, ?wake, ?noBuffer, ?held, ?commanded, ?auto, ?prewake, ?again, ?fenced, ?canary, ?unfenced, ?next,
    ?image, ?removing, ?low, ?woken, ?regulator, ?power, ?lost, ?logic⟩
  case idle => exact fun _ _ _ here gates runs auto free long quiet => exec_idleEntry_of_idle here gates runs auto free long quiet
  case early => exact fun _ _ _ early => exec_idleEntry_of_early early
  case idleExit => exact fun _ _ idle free => exec_idleExit_of_idle idle free
  case wake => exact fun _ _ _ some_ packet here low free asleep =>
    (exec_wakeEvent_of_source some_ packet).trans (congrArg Host.Outcome.next (wakeDomain_of_asleep here low free asleep))
  case noBuffer => exact fun _ _ none_ => exec_wakeEvent_of_no_buffer none_
  case held => exact fun _ _ _ held settled weak => exec_wakeEvent_of_stays (wakeDomain_of_held held settled weak)
  case commanded => exact fun _ _ _ _ here awake free waits cool => exec_lowPowerEntryStart_of_commanded here awake free waits cool
  case auto => exact fun _ _ _ _ here small awake free noWait auto unheld long far cool =>
    exec_lowPowerEntryStart_of_auto here small awake free noWait auto unheld long far cool
  case prewake => exact fun _ _ retain free valid near fresh => exec_prewake_of_due retain free valid near fresh
  case again => exact fun _ _ barred done => exec_prewake_of_again barred done
  case fenced => exact fun _ _ entering first fenced noTask => exec_entryStepDone_of_fenced entering first fenced noTask
  case canary =>
    intro d s entering step notRemoving noWake
    rw [exec_entryStepDone_of_step entering notRemoving noWake (by omega)]
    simp only [step]
    rfl
  case unfenced => exact fun _ _ entering first waits => exec_entryStepDone_of_unfenced entering first waits
  case next =>
    rintro d s n (rfl | rfl) entering step notRemoving noWake <;>
      (rw [exec_entryStepDone_of_step entering notRemoving noWake (by omega)]; simp only [step]; rfl)
  case image =>
    intro d s entering step notRemoving noWake off
    rw [exec_entryStepDone_of_step entering notRemoving noWake (by omega)]
    simp only [step, off]
    rfl
  case removing => exact fun _ _ entering later removing => exec_entryStepDone_of_removing entering later removing
  case low =>
    intro d s entering step notRemoving noWake unarmed
    rw [exec_entryStepDone_of_step entering notRemoving noWake (by omega)]
    simp only [step, unarmed, Bool.false_and, Bool.false_eq_true, false_and, if_false]
    rfl
  case woken => exact fun _ _ entering later notRemoving may woken noRequest =>
    exec_entryStepDone_of_woken entering notRemoving later may woken noRequest
  case regulator => exact fun _ _ _ exiting step => exec_exitStepDone_of_regulator exiting step
  case power => exact fun _ _ _ exiting step => exec_exitStepDone_of_power exiting step
  case lost => exact fun _ _ _ exiting step retained some_ => exec_exitStepDone_of_lost exiting step retained some_
  case logic => exact fun _ _ _ exiting step => exec_exitStepDone_of_logic exiting step

/-! ## Commands (R533–R537) -/

/-- A word below 2^n has no bit set outside its lowest n. -/
theorem onlyBits_of_lt {w m : W32} {n : Nat} (small : w.toNat < 2 ^ n) (mask : ∀ k < 32, k < n → bit m k = true) : onlyBits w m = true := by
  refine onlyBits_of_bits fun k inside outside => ?_
  have high : n ≤ k := by
    by_contra low
    have inMask : m.getLsbD k = true := mask k inside (by omega)
    simp [bit, inMask] at outside
  exact Nat.testBit_lt_two_pow (Nat.lt_of_lt_of_le small (Nat.pow_le_pow_right (by decide) high))

section Commands
variable {q : Req} {s : State} {w d : W32}

theorem pwrStatus_of_bad (ps : q.params = [d]) (beyond : 39 ≤ d.toNat) : pwrStatus q s = done s .badParam :=
  if_pos (.inr (by simpa [par, nth, ps] using Nat.lt_of_succ_le beyond))

/-- `PWR_STATUS` of a domain number that the manual knows. -/
theorem pwrStatus_of_lt (ps : q.params = [d]) (inRange : d.toNat < 39) : pwrStatus q s =
    if !domainHere s.variant d.toNat then done s .notPresent
    else doneW s [rd s R.pdStat d.toNat, rd s R.pdCfg d.toNat, rd s R.pdWake d.toNat, rd s R.pdWtick d.toNat, rd s R.pdLost d.toNat,
      rd s R.pwrStat, rd s R.pwrLimit, if d.toNat = 38 then 0#32 else rd s R.ivrIout d.toNat] := by
  have bits : onlyBits d 0x3F#32 = true := onlyBits_of_lt (n := 6) (by omega) (by decide)
  have first : par q 0 = d := by simp [par, nth, ps]
  rw [pwrStatus, first]
  exact if_neg (by simp [ps, bits, Nat.le_of_lt_succ inRange])

section DomainSet
variable (ps : q.params = [w]) (bits : onlyBits w 0x7FF#32 = true) (bench : fld w 5 0 < 16) (here : domainHere s.variant (fld w 5 0) = true)
  (load : bit w 10 = false)
include ps bits bench here load

/-- `PWR_DOMAIN_SET` of a bench to another state than RETAIN, without LOADED: it is held pending during a transition, and starts its own
otherwise. -/
theorem pwrDomainSet_of_bench (notRetain : fld w 7 6 ≠ 2) (notEntering : pdState s (fld w 5 0) ≠ 4) : pwrDomainSet q s =
    if pdState s (fld w 5 0) = 5 then done (pend s (fld w 5 0) (fld w 7 6) 4 (bit w 8) (bit w 9)) .deferred
    else done (commandState s (fld w 5 0) (fld w 7 6) (bit w 8) (bit w 9)) .ok := by
  have first : par q 0 = w := by simp [par, nth, ps]
  have inRange : ¬ 38 < fld w 5 0 := by omega
  have low : fld w 5 0 < 36 := by omega
  have notShore : ¬ 20 ≤ fld w 5 0 := by omega
  have notHbm : ¬ (fld w 5 0 = 18 ∨ fld w 5 0 = 19) := by omega
  simp [pwrDomainSet, first, ps, bits, inRange, here, load, stateAllowed, low, notShore, notHbm, notRetain, notEntering]

theorem pwrDomainSet_of_off (off : fld w 7 6 = 3) (awake : pdState s (fld w 5 0) < 2) : pwrDomainSet q s =
    done (startEntry (setDom (holdSync (setPd s (fld w 5 0) 8 8 (b2n (bit w 8)))) (fld w 5 0) fun x => { x with waitRet := false })
      (fld w 5 0) true (bit w 9) false) .ok := by
  have state : pdState s (fld w 5 0) = 0 ∨ pdState s (fld w 5 0) = 1 := by omega
  rw [pwrDomainSet_of_bench ps bits bench here load (by omega) (by omega), if_neg (by omega), off]
  rcases state with run | idle
  · simp [commandState, run]
  · simp [commandState, idle]

theorem pwrDomainSet_of_run (run : fld w 7 6 = 0) (retain : pdState s (fld w 5 0) = 2) : pwrDomainSet q s =
    done (startExit (setDom (holdSync (setPd s (fld w 5 0) 8 8 (b2n (bit w 8)))) (fld w 5 0) fun x => { x with waitRet := false })
      (fld w 5 0) 4) .ok := by
  rw [pwrDomainSet_of_bench ps bits bench here load (by omega) (by omega), if_neg (by omega), run]
  simp [commandState, retain]

theorem pwrDomainSet_of_exiting (notRetain : fld w 7 6 ≠ 2) (exiting : pdState s (fld w 5 0) = 5) : pwrDomainSet q s =
    done (pend s (fld w 5 0) (fld w 7 6) 4 (bit w 8) (bit w 9)) .deferred := by
  rw [pwrDomainSet_of_bench ps bits bench here load notRetain (by omega), if_pos exiting]

end DomainSet

theorem pwrLimitSet_of_range (ps : q.params = [w]) (lo : 500 ≤ fld w 15 0) (hi : fld w 15 0 ≤ 10 * tdp s.variant) (short : 100 ≤ fld w 31 16)
    (long : fld w 31 16 ≤ 10000) : pwrLimitSet q s = done (wr s R.pwrLimit 0 0 w) .ok := by
  have first : par q 0 = w := by simp [par, nth, ps]
  rw [pwrLimitSet, first]
  exact if_neg (by simp [ps]; omega)

/-- `PWR_IDLE_CONFIG` of one domain that has low-power states, with the power manager's settings. -/
theorem pwrIdleConfig_of_low {w2 : W32} (ps : q.params = [d, w, w2]) (bits : onlyBits w 0xFFFFF#32 = true) (bits2 : onlyBits w2 0xFFFF#32 = true)
    (low : d.toNat < 36) (here : domainHere s.variant d.toNat = true) (some_ : fld w2 15 8 ≠ 0) :
    pwrIdleConfig q s = done (wr (writePdCfg s w d.toNat) R.pwrCfg 0 0 w2) .ok := by
  have dBits : onlyBits d 0x3F#32 = true := onlyBits_of_lt (n := 6) (by omega) (by decide)
  have inRange : ¬ 38 < d.toNat := by omega
  have one : d.toNat ≠ 63 := by omega
  have written : w2 ≠ 0#32 := by
    rintro rfl
    exact some_ (by decide)
  simp [pwrIdleConfig, par, nth, ps, dBits, bits, bits2, inRange, one, here, hasLow, low, some_, written]

/-- `PWR_FIT_CAP` of one domain with fit levels. -/
theorem pwrFitCap_of_one (ps : q.params = [w]) (bits : onlyBits w 0xFF#32 = true) (fit : fld w 5 0 < 18)
    (here : domainHere s.variant (fld w 5 0) = true) : pwrFitCap q s = done (syncFit
      (wrF (wrB s R.pdStat (fld w 5 0) 0 17 false) R.pdCfg (fld w 5 0) 0 21 20 (fld w 7 6)) (fld w 5 0)) .ok := by
  have inRange : ¬ 37 < fld w 5 0 := by omega
  have hasFit : ¬ 18 ≤ fld w 5 0 := by omega
  have one : fld w 5 0 ≠ 63 := by omega
  simp [pwrFitCap, par, nth, ps, bits, inRange, hasFit, one, here, setHostCap, fit]

end Commands

/-- Settles O33, command by command from the equations above. The model's choice in it: `PWR_LIMIT_SET` and `PWR_IDLE_CONFIG` take
effect at once (log entry 96). -/
theorem powerCommands : Obligations.PowerCommands := by
  refine ⟨?status, ?beyond, ?absent, ?off, ?run, ?pending, ?limit, ?idle, ?cap⟩
  case status =>
    intro q s d h ps inRange here
    exact congrArg Host.Outcome.next (runCommand_answers h (congrArg some ((pwrStatus_of_lt ps inRange).trans (if_neg (by simp [here]))))
      rfl (unseated_seated h.free) rfl rfl)
  case beyond =>
    intro q s d h ps beyond
    exact congrArg Host.Outcome.next
      (runCommand_answers h (congrArg some (pwrStatus_of_bad ps beyond)) rfl (unseated_seated h.free) rfl rfl)
  case absent =>
    intro q s d h ps inRange absent
    exact congrArg Host.Outcome.next (runCommand_answers h (congrArg some ((pwrStatus_of_lt ps inRange).trans (if_pos (by simp [absent]))))
      rfl (unseated_seated h.free) rfl rfl)
  case off =>
    intro q s w h ps bits bench here load off awake
    exact congrArg Host.Outcome.next (runCommand_done (f := fun t => startEntry (setDom (holdSync (setPd t (fld w 5 0) 8 8 (b2n (bit w 8))))
      (fld w 5 0) fun x => { x with waitRet := false }) (fld w 5 0) true (bit w 9) false) h
      (congrArg some (pwrDomainSet_of_off ps bits bench here load off awake)))
  case run =>
    intro q s w h ps bits bench here load run retain
    exact congrArg Host.Outcome.next (runCommand_done (f := fun t => startExit (setDom (holdSync (setPd t (fld w 5 0) 8 8 (b2n (bit w 8))))
      (fld w 5 0) fun x => { x with waitRet := false }) (fld w 5 0) 4) h
      (congrArg some (pwrDomainSet_of_run ps bits bench here load run retain)))
  case pending =>
    intro q s w h ps bits bench here load idle exiting
    have answer := runCommand_answers h (congrArg some (pwrDomainSet_of_exiting ps bits bench here load (by omega) exiting)) rfl rfl rfl rfl
    rw [idle] at answer
    exact congrArg Host.Outcome.next answer
  case limit =>
    intro q s w h ps lo hi short long
    exact congrArg Host.Outcome.next (runCommand_answers h (congrArg some (pwrLimitSet_of_range ps lo hi short long)) rfl
      ((unseated_wr ..).trans (congrArg (wr · R.pwrLimit 0 0 w) (unseated_seated h.free))) rfl rfl)
  case idle =>
    intro q s d w w2 h ps bits bits2 low here some_
    exact congrArg Host.Outcome.next (runCommand_answers h (congrArg some (pwrIdleConfig_of_low ps bits bits2 low here some_)) rfl
      (by simp only [done, writePdCfg, unseated_wr, unseated_seated h.free, rd_seated]) rfl rfl)
  case cap =>
    intro q s w h ps bits fit here
    exact congrArg Host.Outcome.next (runCommand_done (f := fun t => syncFit (wrF (wrB t R.pdStat (fld w 5 0) 0 17 false) R.pdCfg (fld w 5 0)
      0 21 20 (fld w 7 6)) (fld w 5 0)) h (congrArg some (pwrFitCap_of_one ps bits fit here)))

end Sys2Proof.Machine
end

section
/-! Resets, supplies, watchdogs, the debugger, the boot ROM and Urvar's start-up (R545, R549, R555, R559, R574, R581–R592, R598, R600,
R624, R625): what each row does in each case of O37 and O38, and their proofs. -/

namespace Sys2Proof.Machine

section Supplies
variable {s : State}

/-! ## Supplies and the oscillator (R582, R624, R625) -/

theorem exec_pwrOkFall_of_up (high : s.boot.pwrOk = true) (up : fwUp s = true) : exec .pwrOkFall s =
    .next (powerDown (setStore (log s 0x10 0 (ledgerWords s)) fun t => { t with sinceWrite := 0 })) :=
  congrArg Host.Outcome.next ((if_neg (by simp [high])).trans (congrArg powerDown (if_pos up)))

theorem exec_pwrOkFall_of_not_up (high : s.boot.pwrOk = true) (down : fwUp s = false) : exec .pwrOkFall s = .next (powerDown s) :=
  congrArg Host.Outcome.next ((if_neg (by simp [high])).trans (congrArg powerDown (if_neg (by simp [down]))))

/-- A fall of `PWR_OK` that is low already has no effect (log entry 5). -/
theorem exec_pwrOkFall_of_low (low : s.boot.pwrOk = false) : exec .pwrOkFall s = .next s :=
  congrArg Host.Outcome.next (if_pos (by simp [low]))

theorem exec_supplyOutOfRange : exec .supplyOutOfRange s = .next (if s.boot.pwrOk then powerDown s else s) := rfl

theorem exec_oscInLoss : exec .oscInLoss s = .next (if s.boot.pwrOk then powerDown s else s) := rfl

/-- The oscillator measured at 25 MHz: code 3, in range for the device and for air-time. -/
theorem exec_pwrOkRise_25MHz (low : s.boot.pwrOk = false) : exec (.pwrOkRise 25000000) s = .next (setTh (wrF (wr (setBoot s fun b =>
    { b with pwrOk := true, powerCycle := true, oscHold := false }) R.timStat 0 0 7) R.thStat 0 0 28 27 0) fun t =>
      { t with restart := false }) :=
  congrArg Host.Outcome.next (if_neg (by simp [low]))

/-! ## The release of reset (R545, R583) -/

theorem exec_resetRelease_of_ready {b r : Fin 4} (high : s.boot.pwrOk = true) (inRange : s.boot.oscHold = false) (off : phase s = 0)
    (running : tstate s = 0) : exec (.resetRelease b r) s = .next (resetRelease s b.val r.val) :=
  congrArg Host.Outcome.next (if_neg (by simp [high, inRange, off, running]))

theorem exec_resetRelease_of_low {b r : Fin 4} (low : s.boot.pwrOk = false) : exec (.resetRelease b r) s = .next s :=
  congrArg Host.Outcome.next (if_pos (.inl (by simp [low])))

theorem exec_thermalRestartRelease_of_restarting {b r : Fin 4} (high : s.boot.pwrOk = true) (restarting : tstate s = 3) :
    exec (.thermalRestartRelease b r) s = .next (resetRelease
      (setTh (wrF (resetCore s) R.thStat 0 0 28 27 0) fun t => { t with restart := false }) b.val r.val) :=
  congrArg Host.Outcome.next (if_neg (by simp [high, restarting]))

/-! ## Restarts (R574, R600) -/

/-- A restart of the control pair while the device runs is logged and drops the commands under way. -/
theorem pairRestart_control {did : Nat} (running : tstate s = 0) (ready : phase s = 7) (settled : onTrial s = false) :
    pairRestart s did 0 = restartMp (dropExecuting (log
      { s with
        det := { s.det with
          restarts := (s.det.restarts.1 + 1, s.det.restarts.2), kickOff := s.det.kickOff.filter fun x => decide (x ≠ 0),
          cmpForce := s.det.cmpForce.filter fun x => decide (x ≠ 0) } }
      0x22 (packF [(0, did), (16, 0)]) [packF [(0, did), (16, 0)], lo32 s.ats.toNat, hi32 s.ats.toNat, w32 (s.det.restarts.1 + 1)])) := by
  simp [pairRestart, running, ready, settled]

/-- A restart of the management pair while the device runs is logged, and nothing else. -/
theorem pairRestart_management {did : Nat} (running : tstate s = 0) (ready : phase s = 7) (settled : onTrial s = false) :
    pairRestart s did 1 = log
      { s with
        det := { s.det with
          restarts := (s.det.restarts.1, s.det.restarts.2 + 1), kickOff := s.det.kickOff.filter fun x => decide (x ≠ 1),
          cmpForce := s.det.cmpForce.filter fun x => decide (x ≠ 1) } }
      0x22 (packF [(0, did), (16, 1)]) [packF [(0, did), (16, 1)], lo32 s.ats.toNat, hi32 s.ats.toNat, w32 (s.det.restarts.2 + 1)] := by
  simp [pairRestart, running, ready, settled]

theorem exec_fwActivateFallback_of_trial (trial : onTrial s = true) : exec .fwActivateFallback s = .next (fallBack s) :=
  congrArg Host.Outcome.next (if_pos trial)

/-- Without an activation on trial the 2 s timer has no effect (log entry 5). -/
theorem exec_fwActivateFallback_of_settled (settled : onTrial s = false) : exec .fwActivateFallback s = .next s :=
  congrArg Host.Outcome.next (if_neg (by simp [settled]))

/-! ## The debugger (R523, R598) -/

theorem exec_debugRequest_of_open {id : CoreId} {sc : Nat} (unlock : s.boot.unlock = some sc) (cores : sc / 2 % 2 = 1)
    (here : benchHere s.variant id.bench.val = true) : exec (.debugRequest id) s = .next (wakeDomain (putCore s id.bench.val id.core.val
      { coreOf s id.bench.val id.core.val with debug := true, dbgReq := true }) id.bench.val 5) := by
  refine congrArg Host.Outcome.next ?_
  simp [unlock, cores, here]

theorem exec_debugRequest_of_locked {id : CoreId} (locked : s.boot.unlock = none) : exec (.debugRequest id) s = .next s := by
  refine congrArg Host.Outcome.next ?_
  simp [locked]

end Supplies

/-- Settles O37, row by row from the equations above. The model's choices in it: a row without its reason changes nothing (log entry 5),
and what a loss of the always-on supply leaves (log entry 42). -/
theorem resetsAndPower : Obligations.ResetsAndPower := by
  refine ⟨?resetN, ?orderly, ?notUp, ?low, ?lost, ?always, ?rise, ?release, ?held, ?thermal, ?watchdog, ?lockstep, ?trial, ?settled, ?nonce,
    ?debug, ?locked⟩
  case resetN => exact fun _ => rfl
  case orderly => exact fun _ high up => exec_pwrOkFall_of_up high up
  case notUp => exact fun _ high down => exec_pwrOkFall_of_not_up high down
  case low =>
    exact fun _ low =>
      ⟨exec_pwrOkFall_of_low low, by rw [exec_supplyOutOfRange, low]; rfl, by rw [exec_oscInLoss, low]; rfl⟩
  case lost => exact fun _ high => ⟨by rw [exec_supplyOutOfRange, high]; rfl, by rw [exec_oscInLoss, high]; rfl⟩
  case always => exact fun _ => ⟨rfl, rfl⟩
  case rise => exact fun _ low => exec_pwrOkRise_25MHz low
  case release => exact fun _ _ _ high inRange off running => exec_resetRelease_of_ready high inRange off running
  case held => exact fun _ _ _ low => exec_resetRelease_of_low low
  case thermal => exact fun _ _ _ high restarting => exec_thermalRestartRelease_of_restarting high restarting
  case watchdog => exact fun _ running ready settled => congrArg Host.Outcome.next (pairRestart_control running ready settled)
  case lockstep => exact fun _ running ready settled => congrArg Host.Outcome.next (pairRestart_management running ready settled)
  case trial => exact fun _ trial => exec_fwActivateFallback_of_trial trial
  case settled => exact fun _ settled => exec_fwActivateFallback_of_settled settled
  case nonce => exact fun _ => ⟨rfl, rfl⟩
  case debug => exact fun _ _ _ unlock cores here => exec_debugRequest_of_open unlock cores here
  case locked => exact fun _ _ locked => exec_debugRequest_of_locked locked

section Rom
variable {s : State}

/-! ## The boot ROM (R584–R587) -/

/-- Outside the phase in which the ROM waits for an image, a fetch has no effect (log entry 5). -/
theorem exec_imageFetchComplete_of_phase {img : List W32} {clean : Bool} (elsewhere : phase s ≠ 2) :
    exec (.imageFetchComplete img clean) s = .next s :=
  congrArg Host.Outcome.next (if_pos (.inl elsewhere))

/-- Without a selector that the ROM knows, slot 0 is the preferred one. -/
theorem preferredSlot_of_no_selector (none_ : s.boot.selMagic ≠ 0x5345#32) : preferredSlot s = 0 := if_neg none_

/-- The first slot read is slot 0, never written by the device (log entry 41). -/
theorem qspiFetched_of_first {img : List W32} {clean : Bool} (fresh : s.boot.tried = false) (none_ : s.boot.selMagic ≠ 0x5345#32)
    (empty : s.boot.flash0 = []) : qspiFetched s img clean =
    (let s1 := setBoot s fun b => { b with flash0 := img }
     if verifyCode s1 img clean = 0 then startImage (wrB s1 R.bootStat 0 0 7 false) img
     else wrB (setBoot (wr s1 R.bootErr 0 0 (packF [(0, verifyCode s1 img clean), (8, 0)])) fun b => { b with tried := true })
       R.bootStat 0 0 9 true) := by
  have filled : fillFlash s 0 img = setBoot s fun b => { b with flash0 := img } := by simp [fillFlash, flashImage, empty]
  have content : flashImage (setBoot s fun b => { b with flash0 := img }) 0 = img := rfl
  simp only [qspiFetched, fresh, preferredSlot_of_no_selector none_, Bool.false_eq_true, if_false, filled, content]
  rfl

theorem exec_imageFetchComplete_of_flash {img : List W32} {clean : Bool} (rom : phase s = 2) (going : s.boot.romWait = false)
    (flash : bootSrc s = 0) : exec (.imageFetchComplete img clean) s = .next (qspiFetched s img clean) :=
  congrArg Host.Outcome.next ((if_neg (by simp [rom, going])).trans (if_pos flash))

theorem exec_imageFetchComplete_of_chunks {img l : List W32} {clean : Bool} (rom : phase s = 2) (going : s.boot.romWait = false)
    (lace : bootSrc s = 2) (all : chunkImage s = some l) : exec (.imageFetchComplete img clean) s = .next (
      if verifyCode s l clean = 0 then startImage s l
      else setBoot (bootFailed s (verifyCode s l clean) 0) fun b => { b with chunks := [] }) := by
  refine congrArg Host.Outcome.next ((if_neg (by simp [rom, going])).trans ((if_neg (by simp [lace])).trans ((if_pos lace).trans ?_)))
  simp only [all]

section Push
variable (rom : phase s = 2) (push : bootSrc s = 1)
include rom push

theorem exec_bootPushGo_of_long (long : 3146240 < rdF s R.bootPush 0 0 21 0) :
    exec (.bootPushGo .host) s = .next (wr s R.bootErr 0 0 0x0A#32) :=
  congrArg Host.Outcome.next ((if_neg (by simp [rom, push])).trans (if_pos (.inr long)))

theorem exec_bootPushGo_of_fits {s1 : State} {ws : List MWord} (lo : 576 ≤ rdF s R.bootPush 0 0 21 0)
    (hi : rdF s R.bootPush 0 0 21 0 ≤ 3146240) (read : readWords s 0 ((rdF s R.bootPush 0 0 21 0 + 7) / 8) = (s1, ws)) :
    exec (.bootPushGo .host) s = .next (
      let img := (ws.flatMap fun x => [lo32 x.1.toNat, hi32 x.1.toNat]).take (rdF s R.bootPush 0 0 21 0 / 4)
      let c := verifyCode s1 img (!(ws.any fun x => x.2))
      if c = 0 then startImage s1 img else bootFailed s1 c 0) := by
  refine congrArg Host.Outcome.next ((if_neg (by simp [rom, push])).trans ((if_neg (by omega)).trans ?_))
  simp only [read]

end Push

theorem laceBooting_of_lace (rom : phase s = 2) (lace : bootSrc s = 2) : laceBooting s = true := by simp [laceBooting, rom, lace]

theorem exec_laceBootChunkRx_of_lace {i : Fin 65536} {ws : List W32} (rom : phase s = 2) (lace : bootSrc s = 2) :
    exec (.laceBootChunkRx i ws) s = .next (setBoot s fun b => { b with chunks := putKey b.chunks i.val (some (ws.take 62)) }) :=
  congrArg Host.Outcome.next (if_pos (laceBooting_of_lace rom lace))

/-- A chunk that comes when the ROM waits for none has no effect (log entry 5). -/
theorem exec_laceBootChunkRx_of_phase {i : Fin 65536} {ws : List W32} (elsewhere : phase s ≠ 2) :
    exec (.laceBootChunkRx i ws) s = .next s :=
  congrArg Host.Outcome.next (if_neg (by simp [laceBooting, elsewhere]))

/-- Without chunk 0 the ROM does not know how many chunks there are: it asks for all of them. -/
theorem exec_laceBootRetry_of_no_chunk0 (rom : phase s = 2) (lace : bootSrc s = 2) (missing : assoc s.boot.chunks 0 = none) :
    exec .laceBootRetry s = .next (laceMsg s 6 0 [0x424F4F54#32]) := by
  have count : chunkCount s = none := by simp [chunkCount, missing]
  have image : chunkImage s = none := by simp only [chunkImage, count]
  refine congrArg Host.Outcome.next ((if_neg (by simp [laceBooting_of_lace rom lace, image])).trans ?_)
  simp only [count, List.map_nil]

/-! ## Start-up (R591) -/

theorem exec_urvarStartup_of_first (running : tstate s = 0) (start : phase s = 4) (first : s.boot.mpOnly = false) :
    exec .urvarStartup s = .next (progress (queueProfile (measureProfile (measure (setPhase (replayAll (writeRoutes s)) 6))))) := by
  refine congrArg Host.Outcome.next ((if_neg (by simp [running])).trans ((if_neg (by simp [start])).trans ?_))
  simp only [first, Bool.false_eq_true, if_false]

/-- A restart of the management processor alone leaves the routes and the profile as they are (R600). -/
theorem exec_urvarStartup_of_mpOnly (running : tstate s = 0) (start : phase s = 4) (again : s.boot.mpOnly = true) :
    exec .urvarStartup s = .next (progress (measureProfile (measure (setPhase (replayAll s) 6)))) := by
  refine congrArg Host.Outcome.next ((if_neg (by simp [running])).trans ((if_neg (by simp [start])).trans ?_))
  simp only [again, if_true]

/-- After a thermal trip Urvar does not start (log entry 5). -/
theorem exec_urvarStartup_of_tripped (tripped : tstate s ≠ 0) : exec .urvarStartup s = .next s :=
  congrArg Host.Outcome.next (if_pos tripped)

end Rom

/-- Settles O38, row by row from the equations above. The model's choices in it: a row without its reason changes nothing (log entry 5),
and a flash slot that the device never wrote holds what the operand says (log entry 41). -/
theorem bootRom : Obligations.BootRom := by
  refine ⟨?flash, ?chunks, ?fetchElsewhere, ?long, ?push, ?chunk, ?chunkElsewhere, ?retry, ?first, ?again, ?tripped⟩
  case flash =>
    intro img s rom going flash fresh none_ empty
    rw [exec_imageFetchComplete_of_flash rom going flash, qspiFetched_of_first fresh none_ empty]
  case chunks => exact fun _ _ _ _ rom going lace all => exec_imageFetchComplete_of_chunks rom going lace all
  case fetchElsewhere => exact fun _ _ _ elsewhere => exec_imageFetchComplete_of_phase elsewhere
  case long => exact fun _ rom push long => exec_bootPushGo_of_long rom push long
  case push =>
    intro s s1 ws img c rom push lo hi read image code
    subst code image
    exact exec_bootPushGo_of_fits rom push lo hi read
  case chunk => exact fun _ _ _ rom lace => exec_laceBootChunkRx_of_lace rom lace
  case chunkElsewhere => exact fun _ _ _ elsewhere => exec_laceBootChunkRx_of_phase elsewhere
  case retry => exact fun _ rom lace missing => exec_laceBootRetry_of_no_chunk0 rom lace missing
  case first => exact fun _ running start first => exec_urvarStartup_of_first running start first
  case again => exact fun _ running start again => exec_urvarStartup_of_mpOnly running start again
  case tripped => exact fun _ tripped => exec_urvarStartup_of_tripped tripped

end Sys2Proof.Machine
end

section
/-! Temperature readings, throttling, the ledger's upkeep and the detector samples (R539–R545, R556, R559, R561, R577): what each row does
in each case of O35, and its proof. -/

namespace Sys2Proof.Machine

section Temperatures
variable {s : State}

/-! ## The sample (R539, R541–R545): every present sensor is valid, so SENSOR_DEGRADED is clear -/

section Sample
variable {rs : List Reading} {s0 s1 s2 : State} {k : Nat} {v : Int} (expired : tsExpire s = s0)
  (taken : ((List.range 64).filter (sensorHere s0.variant)).foldl (fun a k => sensorTake a k (nth rs k none)) s0 = s1)
  (all : ((List.range 64).filter (sensorHere s0.variant)).length = (validOf s0 rs).length) (hot : hottest (validOf s0 rs) = some (k, v))
  (head : wrB (wrF (wrF s1 R.thStat 0 0 11 0 (tj12 v)) R.thStat 0 0 17 12 k) R.thStat 0 0 29 false = s2)
include expired taken all hot head

/-- After a trip only the sensors and device Tj are set. -/
theorem exec_sensorSample_of_tripped (tripped : tstate s2 ≠ 0) : exec (.sensorSample rs) s = .next s2 := by
  have none_ : ((List.range 64).filter (sensorHere s0.variant)).length - (validOf s0 rs).length = 0 := by omega
  refine congrArg Host.Outcome.next ?_
  simp only [sensorSample, expired, taken, none_, hot, Nat.not_lt_zero, false_and, if_false, Nat.zero_lt_succ, if_true, head]
  exact if_pos tripped

/-- Below the shutdown level the zones, the arrays and the levels follow, and no run towards the shutdown is counted. -/
theorem exec_sensorSample_of_cool (running : tstate s2 = 0) (cool : deviceTj s2 < 960) : exec (.sensorSample rs) s = .next (
    let t := levelsTake (arraysTake (((List.range 38).filter (domainHere s2.variant)).foldl (fun a d =>
      match hottest ((validOf s0 rs).filter fun e => (zoneOf e.1).contains d) with
      | some (_, w) => zoneTake a d w true
      | none => zoneTake a d (deviceTj s2) false) s2) rs) (deviceTj s2)
    setTh t fun x => { x with shutRun := 0 }) := by
  have none_ : ((List.range 64).filter (sensorHere s0.variant)).length - (validOf s0 rs).length = 0 := by omega
  have low : ¬ 960 ≤ deviceTj s2 := by omega
  refine congrArg Host.Outcome.next ?_
  simp only [sensorSample, expired, taken, none_, hot, Nat.not_lt_zero, false_and, if_false, Nat.zero_lt_succ, if_true, head, low]
  exact (if_neg (by simp [running])).trans rfl

end Sample

/-! ## The external readings (R540, R542) -/

theorem exec_externalTempRead_of_cool {t0 t1 m : Int} {s1 : State} (running : tstate s = 0) (stack : stackHere s.variant 1 = true)
    (cool0 : t0 < 8 * rdF s R.thCfg 0 0 15 8) (cool1 : t1 < 8 * rdF s R.thCfg 0 0 15 8) (cold : s.th.hbmHot = false)
    (read : wr (wr s R.thHbm 0 0 (packF [(0, readField (some t0)), (16, readField (some t1))])) R.thMram 0 0
      (packF [(0, readField (some m))]) = s1) (full : thPct s1 = 100) :
    exec (.externalTempRead (some t0) (some t1) (some m)) s = .next (setTh s1 fun t => { t with hbmHot := false }) := by
  have still : s1.th.hbmHot = false := by rw [← read]; exact cold
  have same : throttled (setTh s1 fun t => { t with hbmHot := false }) = throttled s1 := by simp [throttled, setTh, still]; rfl
  have low0 : ¬ 8 * (rdF s R.thCfg 0 0 15 8 : Int) ≤ t0 := by omega
  have low1 : ¬ 8 * (rdF s R.thCfg 0 0 15 8 : Int) ≤ t1 := by omega
  have pct : ¬ thPct (setTh s1 fun t => { t with hbmHot := false }) < 100 := by
    rw [show thPct (setTh s1 fun t => { t with hbmHot := false }) = thPct s1 from rfl]
    omega
  refine congrArg Host.Outcome.next ((if_neg (by simp [running])).trans ?_)
  simp only [stack, if_true, read, low0, low1, decide_false, Bool.or_false, Bool.false_and, raiseIf, Bool.false_eq_true, if_false, same,
    Bool.and_not_self, pct]

/-! ## Throttling (R542) -/

section Throttling
variable (running : tstate s = 0)
include running

theorem exec_throttleStep_of_above (throt : throttled s = true) (above : 45 < thPct s) :
    exec .throttleStep s = .next (setPct s (thPct s - 5)) := by
  refine congrArg Host.Outcome.next ((if_pos ⟨running, throt⟩).trans ?_)
  have floor : ¬ thPct s - 5 ≤ 40 := by omega
  have best : Nat.max 40 (thPct s - 5) = thPct s - 5 := Nat.max_eq_right (by omega)
  simp only [throttleStep, floor, decide_false, raiseIf, Bool.false_eq_true, if_false, best]
  exact if_neg (by omega)

theorem exec_throttleStep_of_last (throt : throttled s = true) (last : thPct s = 45) :
    exec .throttleStep s = .next (raise (setPct s 40) E.th 0 4) := by
  refine congrArg Host.Outcome.next ((if_pos ⟨running, throt⟩).trans ?_)
  simp only [throttleStep, last]
  rfl

theorem exec_throttleRecoverStep_of_cool (free : throttled s = false) (cool : deviceTj s < 800) (below : thPct s ≤ 95) :
    exec .throttleRecoverStep s = .next (setPct s (thPct s + 5)) := by
  have best : Nat.min 100 (thPct s + 5) = thPct s + 5 := Nat.min_eq_right (by omega)
  exact congrArg Host.Outcome.next ((if_pos (by simp [running, free, cool])).trans (congrArg (setPct s) best))

end Throttling

/-- A throttle step without a reason to throttle has no effect (log entry 5). -/
theorem exec_throttleStep_of_free (free : throttled s = false) : exec .throttleStep s = .next s :=
  congrArg Host.Outcome.next (if_neg (by simp [free]))

/-! ## The restart timer and the shells (R545, R561) -/

theorem exec_thermalRestartTimer_of_auto (cool : deviceTj s < 720) (tripped : tstate s = 1) (auto : rdB s R.thCfg 0 0 0 = true) :
    exec .thermalRestartTimer s = .next (wrF s R.thStat 0 0 28 27 3) :=
  congrArg Host.Outcome.next (if_pos ⟨cool, .inl ⟨tripped, .inl auto⟩⟩)

/-- Before device Tj has fallen the restart timer has no effect (log entry 5). -/
theorem exec_thermalRestartTimer_of_hot (hot : 720 ≤ deviceTj s) : exec .thermalRestartTimer s = .next s :=
  congrArg Host.Outcome.next (if_neg fun ⟨cool, _⟩ => absurd cool (by omega))

theorem exec_sensorShellInjArm_of_override {w : Writer} {k : Fin 64} {v : Fin 4096} {dur : Fin 65536} (may : mayInject s w = true)
    (here : sensorHere s.variant k.val = true) (timed : dur.val ≠ 0) : exec (.sensorShellInjArm w k 1 v dur) s =
      .next (setTh (wr s R.tsInj k.val 0 (packF [(0, 1), (2, 1), (3, v.val), (16, dur.val)])) fun t =>
        { t with injEnd := putKey t.injEnd k.val (some (s.ats.toNat + dur.val * tcPerMs)) }) := by
  refine congrArg Host.Outcome.next ((if_pos (by simp [may, here])).trans ?_)
  simp [sensorInjArm, timed, b2n]

theorem exec_mramShellInjArm_of_may {w : Writer} (may : mayInject s w = true) :
    exec (.mramShellInjArm w 2) s = .next (wr s R.mrInj 0 0 (packF [(0, 2), (2, 1)])) :=
  congrArg Host.Outcome.next (if_pos ⟨may, by decide⟩)

/-! ## The ledger and the journal (R556, R559) -/

/-- Without firmware only the always-on seconds count. -/
theorem exec_ledgerSecondUpdate_of_not_up {avg : Int} (down : fwUp s = false) :
    exec (.ledgerSecondUpdate avg) s = .next (setTh s fun t => { t with seconds := t.seconds + 1 }) :=
  congrArg Host.Outcome.next (if_neg (by simp [down]))

theorem exec_ledgerSecondUpdate_of_up {avg : Int} (running : tstate s = 0) (up : fwUp s = true) :
    exec (.ledgerSecondUpdate avg) s = .next (ledgerSecond (setTh s fun t => { t with seconds := t.seconds + 1 }) avg) :=
  congrArg Host.Outcome.next (if_pos ⟨running, up⟩)

theorem exec_ledgerPeriodicWrite_of_due (up : fwUp s = true) (due : 600 ≤ s.store.sinceWrite) : exec .ledgerPeriodicWrite s =
    .next (setStore (log s 0x10 0 (ledgerWords s)) fun t => { t with sinceWrite := 0 }) :=
  congrArg Host.Outcome.next (if_pos ⟨up, due⟩)

/-- Within the ten minutes the ledger is not written (log entry 5). -/
theorem exec_ledgerPeriodicWrite_of_early (early : s.store.sinceWrite < 600) : exec .ledgerPeriodicWrite s = .next s :=
  congrArg Host.Outcome.next (if_neg fun ⟨_, due⟩ => absurd due (by omega))

theorem exec_compaction_of_few (few : freeSegs s.store.journal < 16) (room : journalFull s.store.journal = false) (up : fwUp s = true) :
    exec .compaction s = .next (compact s) :=
  congrArg Host.Outcome.next (if_pos ⟨few, by simp [room], up⟩)

/-- With 16 segments free nothing is compacted (log entry 5). -/
theorem exec_compaction_of_many (many : 16 ≤ freeSegs s.store.journal) : exec .compaction s = .next s :=
  congrArg Host.Outcome.next (if_neg fun ⟨few, _⟩ => absurd few (by omega))

/-! ## The detector samples (R577) -/

theorem exec_telemetrySample_of_up (up : fwUp s = true) : exec .telemetrySample s = .next (setDet (sampleUnit (sampledDids.foldl
    (fun a did => (didList a.variant did).foldl (fun b i => sampleUnit b did i) a) s) 0x0F 64) fun d => { d with eccHits := [] }) :=
  congrArg Host.Outcome.next (if_neg (by simp [up]))

/-- Without firmware nothing is sampled (log entry 5). -/
theorem exec_telemetrySample_of_not_up (down : fwUp s = false) : exec .telemetrySample s = .next s :=
  congrArg Host.Outcome.next (if_pos (by simp [down]))

end Temperatures

/-- Settles O35, row by row from the equations above. The model's choices in it: a row without its reason changes nothing (log entry 5), how
an array's temperature is rounded (log entry 98), and what a degraded device takes for its Tj (log entry 184). -/
theorem thermalEvents : Obligations.ThermalEvents := by
  refine ⟨?sample, ?external, ?step, ?lastStep, ?noStep, ?recover, ?restart, ?hot, ?sensorInj, ?mramInj, ?second, ?fwSecond, ?write, ?early,
    ?compact, ?many, ?noSample, ?telemetry⟩
  case sample =>
    exact fun _ _ _ _ _ _ _ expired taken all hot head =>
      ⟨exec_sensorSample_of_tripped expired taken all hot head, exec_sensorSample_of_cool expired taken all hot head⟩
  case external =>
    exact fun _ _ _ _ _ running stack cool0 cool1 cold read full =>
      exec_externalTempRead_of_cool running stack cool0 cool1 cold read full
  case step => exact fun _ running throt above _ => exec_throttleStep_of_above running throt above
  case lastStep => exact fun _ running throt last => exec_throttleStep_of_last running throt last
  case noStep => exact fun _ free => exec_throttleStep_of_free free
  case recover => exact fun _ running free cool below => exec_throttleRecoverStep_of_cool running free cool below
  case restart => exact fun _ cool tripped auto => exec_thermalRestartTimer_of_auto cool tripped auto
  case hot => exact fun _ hot => exec_thermalRestartTimer_of_hot hot
  case sensorInj => exact fun _ _ _ _ _ may here timed => exec_sensorShellInjArm_of_override may here timed
  case mramInj => exact fun _ _ may => exec_mramShellInjArm_of_may may
  case second => exact fun _ _ down => exec_ledgerSecondUpdate_of_not_up down
  case fwSecond => exact fun _ _ running up => exec_ledgerSecondUpdate_of_up running up
  case write => exact fun _ up due => exec_ledgerPeriodicWrite_of_due up due
  case early => exact fun _ early => exec_ledgerPeriodicWrite_of_early early
  case compact => exact fun _ few room up => exec_compaction_of_few few room up
  case many => exact fun _ many => exec_compaction_of_many many
  case noSample => exact fun _ down => exec_telemetrySample_of_not_up down
  case telemetry => exact fun _ up => exec_telemetrySample_of_up up

end Sys2Proof.Machine
end

section
/-! `DET_STATUS` (R578): what it replies for a DID without a thermal unit of its own, and the refutation of O36, whose clause for it leaves
out the counter that is read as a level (R16). -/

namespace Sys2Proof.Machine

/-- `DET_STATUS` of a DID that has not been logged yet: the sum is over the counts and the levels. -/
theorem detStatus_of_unlogged {q : Req} {s : State} {d : W32} (ps : q.params = [d]) (inRange : d.toNat < 32) (valid : didValid d.toNat = true)
    (notThermal : d.toNat ≠ 0x0F) (some_ : didList s.variant d.toNat ≠ []) (unlogged : assoc s.det.last d.toNat = none) :
    detStatus q s =
      let us := (didList s.variant d.toNat).map (detUnit s d.toNat)
      let sum := listSum (us.map fun u => u.count + u.level)
      doneW s [packF [(0, (didList s.variant d.toNat).length), (16, (us.filter fun u => decide (u.bits ≠ 0)).length)],
        lo32 sum, hi32 sum, 0, 0, 0] := by
  have bits : onlyBits d 0xFF#32 = true := onlyBits_of_lt (n := 8) (by omega) (by decide)
  have first : par q 0 = d := by simp [par, nth, ps]
  rw [detStatus, first]
  refine (if_neg (by simp [ps, bits, valid, wellFormed])).trans ?_
  simp [some_, notThermal, unlogged]

/-- `DET_STATUS` of such a DID that starts at once. -/
theorem exec_detStatus_of_unlogged {q : Req} {s : State} {d : W32} (h : Starts s 0x0C01 q) (ps : q.params = [d]) (inRange : d.toNat < 32)
    (valid : didValid d.toNat = true) (notThermal : d.toNat ≠ 0x0F) (some_ : didList s.variant d.toNat ≠ [])
    (unlogged : assoc s.det.last d.toNat = none) : exec (.detStatus q) s = .next (reply s 0x0C01 q .ok
      [packF [(0, (didList s.variant d.toNat).length),
          (16, (((didList s.variant d.toNat).map (detUnit s d.toNat)).filter fun u => decide (u.bits ≠ 0)).length)],
        lo32 (listSum (((didList s.variant d.toNat).map (detUnit s d.toNat)).map fun u => u.count + u.level)),
        hi32 (listSum (((didList s.variant d.toNat).map (detUnit s d.toNat)).map fun u => u.count + u.level)), 0, 0, 0]) :=
  congrArg Host.Outcome.next (runCommand_answers h (congrArg some (detStatus_of_unlogged ps inRange valid notThermal some_ unlogged)) rfl
    (unseated_seated h.free) rfl rfl)

theorem bump_pn (s : State) (r : Reg) (u i n : Nat) : (bump s r u i n).pn = s.pn := rfl

/-- An OK reply in the boot profile's stream is recorded with its words. -/
theorem reply_words_of_profile {s : State} {op : Nat} {q : Req} {ws : List W32} (profile : q.stream.val = 10) :
    ((reply s op q .ok ws).pn.replies.map fun r => r.words) = (s.pn.replies.map fun r => r.words) ++ [ws] := by
  simp only [reply, profile, Nat.reduceEqDiff, decide_false, Bool.false_and, Bool.false_eq_true, if_false, if_true]
  split <;> simp [bump_pn]

/-- A device whose lane 0 has counted one error of its checker, and `DET_STATUS` of the lane checkers from the boot profile. -/
def checkerErred : State := wr State.reset R.lnChkErrLo 0 0 1#32
def checkerStatus : Req := { stream := 10, tag := 0, note := false, crcv := false, self := false, source := 0, params := [0x0B#32] }

theorem checkerStatus_starts : Starts checkerErred 0x0C01 checkerStatus where
  up := .inr rfl
  idle := rfl
  free := by decide
  told := by decide
  allowed := by decide

set_option maxRecDepth 4000 in
/-- The error is counted as a level: the counts alone sum to 0, counts and levels to 1. -/
theorem checkerErred_sums : listSum (((didList checkerErred.variant 0x0B).map (detUnit checkerErred 0x0B)).map fun u => u.count) = 0 ∧
    listSum (((didList checkerErred.variant 0x0B).map (detUnit checkerErred 0x0B)).map fun u => u.count + u.level) = 1 := by
  decide

/-- Refutes O36: its clause for `DET_STATUS` sums the counts of a DID's units, and for DID 0x0B the reply adds the level of the checker's
error counter to each (`detStatus_of_unlogged`). In `checkerErred` word 1 of the reply is 1, where the clause gives 0. -/
theorem not_thermalAndStoreCommands : ¬ Obligations.ThermalAndStoreCommands := by
  rintro ⟨-, -, -, -, -, -, -, -, -, -, -, -, status, -⟩
  have starts := checkerStatus_starts
  have claimed := status checkerStatus checkerErred 0x0B#32 starts rfl (by decide) (by decide) (by decide) (by decide) rfl
  have answer := exec_detStatus_of_unlogged (d := 0x0B#32) starts rfl (by decide) (by decide) (by decide) (by decide) rfl
  have replies := congrArg (fun t => t.pn.replies.map fun r => r.words) (Host.Outcome.next.inj (answer.symm.trans claimed))
  simp only [reply_words_of_profile (q := checkerStatus) rfl, List.append_cancel_left_eq, List.cons.injEq] at replies
  obtain ⟨⟨-, word1, -⟩, -⟩ := replies
  obtain ⟨counts, levels⟩ := checkerErred_sums
  rw [show (0x0B#32).toNat = 0x0B from rfl, counts, levels] at word1
  exact absurd word1 (by decide)

end Sys2Proof.Machine
end

section
/-! The firmware and identity commands (R595–R611): what each command's body does in each case of O39, and its proof. -/

namespace Sys2Proof.Machine

/-! ## What a record of the journal leaves alone -/

theorem OnlyEvents.boot {s t : State} (h : OnlyEvents s t) : t.boot = s.boot := (congrArg State.boot h :)

theorem raiseIf_events (c : Bool) (s : State) (e : EvtReg) (u k : Nat) : OnlyEvents s (raiseIf c s e u k) := by
  cases c
  · exact .refl s
  · exact raise_events ..

theorem syncSegs_events (s : State) : OnlyEvents s (syncSegs s) :=
  ((((wr_events ..).trans (raiseIf_events ..)).trans (raiseIf_events ..)).trans (wr_events ..) :)

theorem openSeg_boot (s : State) (epoch seq : Nat) : (openSeg s epoch seq).boot = s.boot := by
  unfold openSeg
  split <;> rfl

theorem writeRec_boot (s : State) (epoch : Nat) (r : JRec) : (writeRec s epoch r).boot = s.boot := by
  unfold writeRec
  extract_lets armed r' s1 fits s2
  have disarmed : s1.boot = s.boot := by
    simp only [s1]
    split <;> rfl
  have room : s2.boot = s1.boot := by
    simp only [s2]
    split
    · rfl
    · exact openSeg_boot ..
  clear_value s2
  split
  · exact room.trans disarmed
  · rw [(syncSegs_events _).boot]
    simp only [bump, wr64, wr_boot, setJournal, rawClear, setStore_boot, room, disarmed]

theorem log_boot (s : State) (typ : Nat) (key : W32) (ws : List W32) : (log s typ key ws).boot = s.boot := by
  simp only [log, append]
  split
  · rfl
  · split
    · rfl
    · exact writeRec_boot ..

/-! ## Commands with an OP word -/

section Op
variable {q : Req} {op : Nat}

theorem withOp_par_zero : par (withOp q op) 0 = w32 op := rfl

theorem withOp_length : (withOp q op).params.length = q.params.length + 1 := rfl

end Op

/-! ## Firmware (R604–R607) -/

section Firmware
variable {q : Req} {s : State} {g : Staging}

theorem fwStatus_of_no_staging (ps : q.params = []) (none_ : s.boot.staging = none) : fwStatus q s =
    doneW s [rd s R.bootStat, rd s R.fwVer, rd s R.secStat, rd s R.bootErr, imgVersion s.boot.other, 0xFFFFFFFF#32,
      packF [(0, s.boot.profRun), (16, b2n s.boot.profBad)], packF [(0, s.boot.profFail), (16, statNum s.boot.profStat)]] := by
  simp [fwStatus, ps, none_]

theorem fwUpdateBegin_of_range {n : W32} (ps : q.params = [n]) (lo : 576 ≤ n.toNat) (hi : n.toNat ≤ 3146240) (whole : n.toNat % 64 = 0)
    (idle : s.boot.activating = false) :
    fwUpdateBegin q s = done (setBoot s fun b => { b with staging := some { len := n.toNat, words := [] } }) .ok := by
  have first : par q 0 = n := by simp [par, nth, ps]
  have small : ¬ 3146240 < n.toNat := by omega
  have bad : ¬ (n.toNat < 576 ∨ n.toNat % 64 ≠ 0) := by omega
  simp only [fwUpdateBegin, first, ps, List.length_singleton, ne_eq, not_true, if_false, small, bad, idle, Bool.false_eq_true]

theorem fwUpdateData_of_fits {off w : W32} {ws : List W32} (ps : q.params = off :: w :: ws) (few : ws.length < 1019)
    (aligned : off.toNat % 4 = 0) (staging : s.boot.staging = some g) (fits : off.toNat + 4 * (ws.length + 1) ≤ g.len) :
    fwUpdateData q s = done (setBoot s fun b => { b with
      staging := some { g with words := layWords g.words (off.toNat / 4) (w :: ws) } }) .ok := by
  have first : par q 0 = off := by simp [par, nth, ps]
  have shape : ¬ (q.params.length < 2 ∨ 1020 < q.params.length ∨ off.toNat % 4 ≠ 0) := by
    simp only [ps, List.length_cons]
    omega
  have data : q.params.drop 1 = w :: ws := by rw [ps]; rfl
  have within : ¬ g.len < off.toNat + 4 * (w :: ws).length := by
    simp only [List.length_cons]
    omega
  simp only [fwUpdateData, first, shape, if_false, data, staging, within]

/-- Before its OP acts, `FW_ACTIVATE` forgets how the flash write will end. -/
theorem fwActivateCmd_of_activate (ps : q.params = []) : fwActivateCmd (withOp q 0) s =
    fwActivate (!s.boot.flashBad) (setBoot s fun b => { b with flashBad := false }) := by
  have one : (withOp q 0).params.length = 1 := by rw [withOp_length, ps]; rfl
  simp [fwActivateCmd, withOp_par_zero, one, show onlyBits (w32 0) 3#32 = true by decide, show bit (w32 0) 0 = false by decide,
    show bit (w32 0) 1 = false by decide]

theorem fwActivateCmd_of_confirm (ps : q.params = []) : fwActivateCmd (withOp q 1) s =
    fwConfirm false (setBoot s fun b => { b with flashBad := false }) := by
  have one : (withOp q 1).params.length = 1 := by rw [withOp_length, ps]; rfl
  simp [fwActivateCmd, withOp_par_zero, one, show onlyBits (w32 1) 3#32 = true by decide, show bit (w32 1) 0 = true by decide,
    show bit (w32 1) 1 = false by decide]

/-- An ACTIVATE with a complete image staged, no trial and no domain commit under way, where the device did not boot from flash. -/
theorem fwActivate_of_whole {ok : Bool} (staging : s.boot.staging = some g) (whole : 4 * g.words.length = g.len)
    (noTrial : rdB s R.bootStat 0 0 8 = false) (free : mastheadBusy s = false) (push : bootSrc s = 1) : fwActivate ok s =
    if verifyCode s (stagedImage g) true = 0 then
      holding (showImage (restartMp (wrB (wrB (setBoot s fun b => { b with
        other := b.running, running := stagedImage g, staging := none, activating := true }) R.bootStat 0 0 8 true) R.bootStat 0 0 9 false)))
    else done (wr s R.bootErr 0 0 (packF [(0, verifyCode s (stagedImage g) true), (8, b2n (rdB s R.bootStat 0 0 7))]))
      (verifyStatus (verifyCode s (stagedImage g) true)) := by
  have noFlash : writeFlash s (stagedImage g) = s := if_pos (by simp [push])
  by_cases good : verifyCode s (stagedImage g) true = 0
  · simp [fwActivate, staging, whole, noTrial, free, push, good, noFlash]
  · simp [fwActivate, staging, whole, noTrial, free, good]

theorem fwActivate_of_no_staging {ok : Bool} (none_ : s.boot.staging = none) : fwActivate ok s = done s .state := by
  simp only [fwActivate, none_]

/-- A CONFIRM without RAISE of an image on trial, where the device did not boot from flash. -/
theorem fwConfirm_of_trial (trial : rdB s R.bootStat 0 0 8 = true) (push : bootSrc s = 1) : fwConfirm false s =
    done (log (wrB s R.bootStat 0 0 8 false) 0x30 0
      ([packF [(0, b2n (rdB s R.bootStat 0 0 7)), (1, 1)], imgVersion s.boot.running, w32 (imgSvn s.boot.running)] ++
        bytesWords 12 (imgDigest s.boot.running))) .ok := by
  have running : (wrB s R.bootStat 0 0 8 false).boot = s.boot := rfl
  simp [fwConfirm, trial, push, running]

theorem fwConfirm_of_no_trial (noTrial : rdB s R.bootStat 0 0 8 = false) : fwConfirm false s = done s .state := by
  simp [fwConfirm, noTrial]

end Firmware

/-! ## Identity (R608–R610) -/

section Identity
variable {q : Req} {s : State}

theorem idCertRead_of_range {off n : W32} (ps : q.params = [off, n]) (aligned : off.toNat % 4 = 0) (lo : 4 ≤ n.toNat) (hi : n.toNat ≤ 200)
    (whole : n.toNat % 4 = 0) (copy : s.store.copy0 = true) : idCertRead q s =
    doneW s (w32 Config.certChain.length :: bytesWords 50 ((Config.certChain.drop off.toNat).take n.toNat)) := by
  have first : par q 0 = off := by simp [par, nth, ps]
  have second : par q 1 = n := by simp [par, nth, ps]
  have shape : ¬ (q.params.length ≠ 2 ∨ off.toNat % 4 ≠ 0 ∨ n.toNat < 4 ∨ 200 < n.toNat ∨ n.toNat % 4 ≠ 0) := by
    simp only [ps, List.length_cons, List.length_nil]
    omega
  simp only [idCertRead, first, second, shape, if_false, copy, Bool.not_true, Bool.false_and, Bool.false_eq_true]

theorem attest_of_quote (eight : q.params.length = 8) : attest (withOp q 0) s =
    doneW s ([6#32] ++ sha384w (wordBytes (measLog s (List.range 6))) ++
      Config.burgeeSign (sha384w (wordBytes (q.params ++ measLog s (List.range 6))))) := by
  have nine : (withOp q 0).params.length = 9 := by rw [withOp_length, eight]
  have nonce : (withOp q 0).params.drop 1 = q.params := rfl
  simp [attest, withOp_par_zero, nine, nonce, show onlyBits (w32 0) 0xF#32 = true by decide, show bit (w32 0) 0 = false by decide,
    show fld (w32 0) 3 1 = 0 by decide]

/-- The OP word of a LOG: OP and FIRST, no bit else. -/
theorem logWord (first : Fin 8) : onlyBits (w32 (1 + 2 * first.val)) 0xF#32 = true ∧ bit (w32 (1 + 2 * first.val)) 0 = true ∧
    fld (w32 (1 + 2 * first.val)) 3 1 = first.val := by
  revert first
  decide

theorem attest_of_log {first : Fin 8} (ps : q.params = []) (inRange : first.val ≤ 5) : attest (withOp q (1 + 2 * first.val)) s =
    doneW s (measLog s ((List.range 6).filter fun i => decide (first.val ≤ i) && decide (i ≤ first.val + 3))) := by
  obtain ⟨only, log, from_⟩ := logWord first
  have one : (withOp q (1 + 2 * first.val)).params.length = 1 := by rw [withOp_length, ps]; rfl
  have low : ¬ 5 < first.val := by omega
  simp [attest, withOp_par_zero, one, only, log, from_, low]

theorem ownerKeyInstall_of_free (whole : q.params.length = 48) (free : s.boot.ownerFused = none) : ownerKeyInstall q s =
    if ecdsaOk Config.ownerInstallKey (q.params.drop 24) (sha384 (wordBytes (q.params.take 24 ++ bindWords))) then
      done (log (wrB (setBoot s fun b => { b with ownerFused := some (sha384w (wordBytes (q.params.take 24))) }) R.bootStat 0 0 10 true)
        0x32 0 (sha384w (wordBytes (q.params.take 24)))) .ok
    else done s .authFail := by
  by_cases signed : ecdsaOk Config.ownerInstallKey (q.params.drop 24) (sha384 (wordBytes (q.params.take 24 ++ bindWords))) = true
  · simp [ownerKeyInstall, whole, free, signed]
  · simp [ownerKeyInstall, whole, free, signed]

theorem ownerKeyInstall_of_fused {h : List W32} (whole : q.params.length = 48) (fused : s.boot.ownerFused = some h) :
    ownerKeyInstall q s = done s .state := by
  simp [ownerKeyInstall, whole, fused]

end Identity

/-! ## Tokens (R597, R598, R611) -/

section Tokens
variable {q : Req} {s : State} {kind : Nat}

theorem tokenCmd_of_challenge (ps : q.params = []) : tokenCmd kind (withOp q 0) s = challenge kind s := by
  have one : (withOp q 0).params.length = 1 := by rw [withOp_length, ps]; rfl
  simp [tokenCmd, withOp_par_zero, one, show onlyBits (w32 0) 3#32 = true by decide, show fld (w32 0) 1 0 = 0 by decide]

theorem tokenCmd_of_open : tokenCmd kind (withOp q 1) s = openToken kind (withOp q 1) q.params s := by
  have token : (withOp q 1).params.drop 1 = q.params := rfl
  have some_ : (withOp q 1).params ≠ [] := List.cons_ne_nil _ _
  simp [tokenCmd, withOp_par_zero, token, some_, show onlyBits (w32 1) 3#32 = true by decide, show fld (w32 1) 1 0 = 1 by decide]

theorem tokenCmd_of_close (ps : q.params = []) : tokenCmd kind (withOp q 2) s = closeToken kind s := by
  have one : (withOp q 2).params.length = 1 := by rw [withOp_length, ps]; rfl
  simp [tokenCmd, withOp_par_zero, one, show onlyBits (w32 2) 3#32 = true by decide, show fld (w32 2) 1 0 = 2 by decide]

theorem challenge_unlock : challenge 1 s = doneW (setBoot s fun b =>
    { b with nonce1 := some (Config.nonce s.boot.drawn).toNat, drawn := b.drawn + 1 })
    [lo32 (Config.nonce s.boot.drawn).toNat, hi32 (Config.nonce s.boot.drawn).toNat] := rfl

theorem challenge_diag : challenge 2 s = doneW (setBoot s fun b =>
    { b with nonce2 := some (Config.nonce s.boot.drawn).toNat, drawn := b.drawn + 1 })
    [lo32 (Config.nonce s.boot.drawn).toNat, hi32 (Config.nonce s.boot.drawn).toNat] := rfl

/-- The state after a token's outcome has been recorded and, unless there was none or its form was wrong, its nonce used up. -/
def tokenLogged (s : State) (kind : Nat) (q : Req) (tok : List W32) (st : Status) : State :=
  let s1 := log s 0x33 0 [packF [(0, kind), (4, fld (nth tok 0 0) 31 24), (12, statNum st)], nth tok 3 0, nth tok 4 0, w32 q.stream.val]
  if st = .state ∨ st = .badParam then s1 else spend s1 kind

theorem spend_sticky : (spend s kind).boot.sticky = s.boot.sticky := by
  by_cases one : kind = 1 <;> simp [spend, setBoot, one]

theorem tokenLogged_sticky {tok : List W32} {st : Status} : (tokenLogged s kind q tok st).boot.sticky = s.boot.sticky := by
  simp only [tokenLogged]
  split
  · exact congrArg Boot.sticky (log_boot ..)
  · exact spend_sticky.trans (congrArg Boot.sticky (log_boot ..))

section Open
variable {tok : List W32} (long : tok.length = 32) (noOwner : s.boot.ownerFused = none)
include long noOwner

/-- A first debug unlock since reset marks the lifecycle. -/
theorem openToken_of_unlock (first : s.boot.sticky % 2 = 0) : openToken 1 q tok s =
    done (if tokenStatus s 1 tok = .ok then wrB (setBoot (tokenLogged s 1 q tok (tokenStatus s 1 tok)) fun b => { b with
      unlock := some (fld (nth tok 0 0) 31 24), sticky := b.sticky + 1 }) R.bootStat 0 0 11 true
      else tokenLogged s 1 q tok (tokenStatus s 1 tok)) (tokenStatus s 1 tok) := by
  have mark : (tokenLogged s 1 q tok .ok).boot.sticky % 2 = 0 := by rw [tokenLogged_sticky, first]
  by_cases good : tokenStatus s 1 tok = .ok
  · simp only [tokenLogged] at mark
    simp [openToken, long, noOwner, good, tokenLogged, setBoot] at mark ⊢
    simp [mark]
  · simp [openToken, long, noOwner, good, tokenLogged]

/-- A diagnostic session after another one leaves the lifecycle's mark. -/
theorem openToken_of_diag (again : s.boot.sticky / 2 % 2 = 1) : openToken 2 q tok s =
    done (if tokenStatus s 2 tok = .ok then wrB (setBoot (tokenLogged s 2 q tok (tokenStatus s 2 tok)) fun b => { b with
      diag := some q.stream.val }) R.bootStat 0 0 12 true else tokenLogged s 2 q tok (tokenStatus s 2 tok)) (tokenStatus s 2 tok) := by
  have mark : (tokenLogged s 2 q tok .ok).boot.sticky / 2 % 2 = 1 := by rw [tokenLogged_sticky, again]
  by_cases good : tokenStatus s 2 tok = .ok
  · simp only [tokenLogged] at mark
    simp [openToken, long, noOwner, good, tokenLogged, setBoot] at mark ⊢
    simp [mark]
  · simp [openToken, long, noOwner, good, tokenLogged]

end Open

end Tokens

/-! ## `FW_ACTIVATE` as a row -/

/-- What the row knows of the flash write does not matter to how the command starts. -/
theorem Starts.of_flash {s : State} {op : Nat} {q : Req} (h : Starts s op q) (bad : Bool) :
    Starts (setBoot s fun b => { b with flashBad := bad }) op q where
  up := h.up
  idle := h.idle
  free := h.free
  told := h.told
  allowed := h.allowed

theorem unseated_setBoot {s : State} {op : Nat} {q : Req} (free : streamBusy s q.stream.val = false) (f : Boot → Boot) :
    unseated (setBoot (seated s op q) f) op q = setBoot s f :=
  congrArg (setBoot · f) (unseated_seated free)

theorem fwActivateCmd_of_row {s : State} {q r : Req} {op : Nat} {bad : Bool} (ps : q.params = []) :
    fwActivateCmd (withOp q 0) (seated (setBoot s fun b => { b with flashBad := bad }) op r) =
      fwActivate (!bad) (setBoot (seated s op r) fun b => { b with flashBad := false }) :=
  (fwActivateCmd_of_activate ps).trans rfl

/-- `FW_ACTIVATE` is not a domain commit. -/
theorem mastheadBusy_seated {s : State} {q : Req} (free : mastheadBusy s = false) : mastheadBusy (seated s 0x0D04 q) = false := by
  unfold mastheadBusy at free ⊢
  simp [seated, setPn, heldOf, free]

/-- An ACTIVATE of a complete image: it holds its stream where the image verifies, and records its code otherwise. -/
theorem exec_fwActivateActivate_of_whole {q : Req} {s : State} {g : Staging} (h : Starts s 0x0D04 (withOp q 0)) (ps : q.params = [])
    (staging : s.boot.staging = some g) (whole : 4 * g.words.length = g.len) (noTrial : rdB s R.bootStat 0 0 8 = false)
    (free : mastheadBusy s = false) (push : bootSrc s = 1) : exec (.fwActivateActivate q true) s = .next (
      let s1 := setBoot (seated s 0x0D04 (withOp q 0)) fun b => { b with flashBad := false }
      let c := verifyCode s1 (stagedImage g) true
      if c = 0 then showImage (restartMp (wrB (wrB (setBoot s1 fun b => { b with
        other := b.running, running := stagedImage g, staging := none, activating := true }) R.bootStat 0 0 8 true) R.bootStat 0 0 9 false))
      else reply (unseated (wr s1 R.bootErr 0 0 (packF [(0, c), (8, b2n (rdB s R.bootStat 0 0 7))])) 0x0D04 (withOp q 0))
        0x0D04 (withOp q 0) (verifyStatus c) []) := by
  have act := fwActivateCmd_of_row (s := s) (op := 0x0D04) (r := withOp q 0) (bad := false) ps
  rw [fwActivate_of_whole (s := setBoot (seated s 0x0D04 (withOp q 0)) fun b => { b with flashBad := false })
    staging whole noTrial (mastheadBusy_seated free) push] at act
  refine congrArg Host.Outcome.next ?_
  simp only
  split
  case isTrue good =>
    rw [if_pos good] at act
    have held := runCommand_holds (h.of_flash false) (congrArg some act) rfl
    exact held
  case isFalse bad =>
    rw [if_neg bad] at act
    have refused := runCommand_starts (h.of_flash false) (congrArg some act) rfl
    exact refused

/-- Settles O39, command by command from the equations above. The model's choices in it: which status a failed verification gives (log
entry 101), when a confirmation is measured (log entry 188), and what the end of a debug unlock does to the cores (log entry 133). -/
theorem identityCommands : Obligations.IdentityCommands := by
  refine ⟨?status, ?begin, ?data, ?activate, ?noStaging, ?confirm, ?noTrial, ?cert, ?quote, ?log, ?install, ?installed, ?unlockChallenge,
    ?diagChallenge, ?unlockOpen, ?diagOpen, ?unlockClose, ?diagClose⟩
  case status =>
    exact fun _ _ h ps none_ =>
      congrArg Host.Outcome.next (runCommand_answers h (congrArg some (fwStatus_of_no_staging ps none_)) rfl (unseated_seated h.free) rfl rfl)
  case begin =>
    exact fun _ _ n h ps lo hi whole idle =>
      congrArg Host.Outcome.next (runCommand_done (f := fun t => setBoot t fun b => { b with staging := some { len := n.toNat, words := [] } })
        h (congrArg some (fwUpdateBegin_of_range ps lo hi whole idle)))
  case data =>
    exact fun _ _ off w ws g h ps few aligned staging fits =>
      congrArg Host.Outcome.next (runCommand_done (f := fun t => setBoot t fun b => { b with
        staging := some { g with words := layWords g.words (off.toNat / 4) (w :: ws) } }) h
        (congrArg some (fwUpdateData_of_fits ps few aligned staging fits)))
  case activate =>
    intro q s s1 g c h ps staging whole noTrial free push at_ code
    subst code at_
    exact exec_fwActivateActivate_of_whole h ps staging whole noTrial free push
  case noStaging =>
    intro q s ok h ps none_
    have act := (fwActivateCmd_of_row (s := s) (op := 0x0D04) (r := withOp q 0) (bad := !ok) ps).trans (fwActivate_of_no_staging none_)
    exact congrArg Host.Outcome.next
      (runCommand_answers (h.of_flash (!ok)) (congrArg some act) rfl (unseated_setBoot h.free _) rfl rfl)
  case confirm =>
    exact fun _ s h ps trial push =>
      congrArg Host.Outcome.next (runCommand_done (f := fun t =>
        Machine.log (wrB (setBoot t fun b => { b with flashBad := false }) R.bootStat 0 0 8 false) 0x30 0
          ([packF [(0, b2n (rdB s R.bootStat 0 0 7)), (1, 1)], imgVersion s.boot.running, w32 (imgSvn s.boot.running)] ++
            bytesWords 12 (imgDigest s.boot.running))) h
        (congrArg some ((fwActivateCmd_of_confirm ps).trans (fwConfirm_of_trial trial push))))
  case noTrial =>
    exact fun _ _ h ps noTrial =>
      congrArg Host.Outcome.next (runCommand_answers h
        (congrArg some ((fwActivateCmd_of_confirm ps).trans (fwConfirm_of_no_trial noTrial))) rfl (unseated_setBoot h.free _) rfl rfl)
  case cert =>
    exact fun _ _ _ _ h ps aligned lo hi whole copy =>
      congrArg Host.Outcome.next (runCommand_answers h (congrArg some (idCertRead_of_range ps aligned lo hi whole copy)) rfl
        (unseated_seated h.free) rfl rfl)
  case quote =>
    exact fun _ _ h eight =>
      congrArg Host.Outcome.next (runCommand_answers h (congrArg some (attest_of_quote eight)) rfl (unseated_seated h.free) rfl rfl)
  case log =>
    exact fun _ _ _ h ps inRange =>
      congrArg Host.Outcome.next (runCommand_answers h (congrArg some (attest_of_log ps inRange)) rfl (unseated_seated h.free) rfl rfl)
  case install =>
    intro q s h whole free
    have install := ownerKeyInstall_of_free (s := seated s 0x0D07 q) whole free
    refine congrArg Host.Outcome.next ?_
    split
    case isTrue signed =>
      exact runCommand_done (f := fun t => Machine.log (wrB (setBoot t fun b => { b with
        ownerFused := some (sha384w (wordBytes (q.params.take 24))) }) R.bootStat 0 0 10 true) 0x32 0
        (sha384w (wordBytes (q.params.take 24)))) h (congrArg some (install.trans (if_pos signed)))
    case isFalse unsigned =>
      exact runCommand_answers h (congrArg some (install.trans (if_neg unsigned))) rfl (unseated_seated h.free) rfl rfl
  case installed =>
    exact fun _ _ _ h whole fused =>
      congrArg Host.Outcome.next (runCommand_answers h (congrArg some (ownerKeyInstall_of_fused whole fused)) rfl
        (unseated_seated h.free) rfl rfl)
  case unlockChallenge =>
    intro q s h ps
    have issued := runCommand_starts h (congrArg some ((tokenCmd_of_challenge ps).trans challenge_unlock)) rfl
    exact congrArg Host.Outcome.next issued
  case diagChallenge =>
    intro q s h ps
    have issued := runCommand_starts h (congrArg some ((tokenCmd_of_challenge ps).trans challenge_diag)) rfl
    exact congrArg Host.Outcome.next issued
  case unlockOpen =>
    intro q s st h long noOwner first outcome
    subst outcome
    have opened := runCommand_starts h (congrArg some ((tokenCmd_of_open (kind := 1)).trans (openToken_of_unlock long noOwner first))) rfl
    exact congrArg Host.Outcome.next opened
  case diagOpen =>
    intro q s st h long noOwner again outcome
    subst outcome
    have opened := runCommand_starts h (congrArg some ((tokenCmd_of_open (kind := 2)).trans (openToken_of_diag long noOwner again))) rfl
    exact congrArg Host.Outcome.next opened
  case unlockClose =>
    exact fun _ _ h ps => congrArg Host.Outcome.next (runCommand_done (f := fun t =>
      wrB (setBoot (detachAll t) fun b => { b with unlock := none }) R.bootStat 0 0 11 false) h (congrArg some (tokenCmd_of_close ps)))
  case diagClose =>
    exact fun _ _ h ps => congrArg Host.Outcome.next (runCommand_done (f := fun t =>
      wrB (setBoot t fun b => { b with diag := none }) R.bootStat 0 0 12 false) h (congrArg some (tokenCmd_of_close ps)))

end Sys2Proof.Machine
end

section
/-! What reset leaves, the register file, a timing event, and how a Pennant command waits or is refused (O3, O8–O11). -/

namespace Sys2Proof.Machine

/-- Settles O3 by evaluation of the state after reset. -/
theorem resetRegisters : Obligations.ResetRegisters := by
  unfold Obligations.ResetRegisters
  decide

/-- Settles O8, from the rules of the register file. -/
theorem registerReadBack : Obligations.RegisterReadBack :=
  fun s r u i v rise => ⟨rd_wr_self rise r u i v, fun r' u' i' other => rd_wr_ne s r r' u i u' i' v other, rfl⟩

/-! ## Events (R21, R484) -/

/-- An event that latches reads its bits as set, and its counter has risen by their number. -/
theorem latch_reads {s : State} {e : EvtReg} {c : Reg} {u i : Nat} (bits : W32) (counted : e.cnt = some c)
    (apart : c.key u i ≠ e.evt.key u i) (rise : keysRise s.regs = true) :
    rd (latch s e u i bits).1 e.evt u i = rd s e.evt u i ||| bits ∧
    rd (latch s e u i bits).1 c u i = w32 (satU 32 ((rd s c u i).toNat + popcount bits)) := by
  have rise' : keysRise (wr s e.evt u i (rd s e.evt u i ||| bits)).regs = true := keysRise_wr rise ..
  have before : rd (wr s e.evt u i (rd s e.evt u i ||| bits)) c u i = rd s c u i := rd_wr_ne _ _ _ _ _ _ _ _ apart
  simp only [latch, counted]
  exact ⟨(rd_wr_ne _ _ _ _ _ _ _ _ apart.symm).trans (rd_wr_self rise ..), (rd_wr_self rise' ..).trans (by rw [before])⟩

/-- A register that is none of the Pennant's own reads after an event as the latch left it. -/
theorem rd_raise_eq_latch {s : State} {e : EvtReg} {u k : Nat} {r : Reg} {u' i' : Nat} (some_ : w32 (2 ^ k) ≠ 0#32)
    (apart : r.key u' i' ∉ emitKeys) : rd (raise s e u k) r u' i' = rd (latch s e u 0 (w32 (2 ^ k))).1 r u' i' := by
  rw [raise, raiseI, if_neg some_]
  simp only
  split
  · rfl
  · exact (emit_regs _ _ _).rd (emit_events _ _ _).variant r u' i' apart

/-- Settles O9: the latch gives the two registers, and generating the event touches neither. -/
theorem eventLatchesAndCounts : Obligations.EventLatchesAndCounts := by
  intro s k small rise
  have some_ : w32 (2 ^ k) ≠ 0#32 := (by decide : ∀ j < 9, w32 (2 ^ j) ≠ 0#32) k small
  have one : popcount (w32 (2 ^ k)) = 1 := (by decide : ∀ j < 9, popcount (w32 (2 ^ j)) = 1) k small
  obtain ⟨bits, count⟩ := latch_reads (s := s) (e := E.tim) (u := 0) (i := 0) (w32 (2 ^ k)) rfl (by decide) rise
  rw [one] at count
  exact ⟨(rd_raise_eq_latch some_ (by decide)).trans bits, (rd_raise_eq_latch some_ (by decide)).trans count, raise_events s E.tim 0 k⟩

/-! ## Every command is run by its opcode (R480, R500) -/

theorem exec_of_commandOf {c : Instr} {op : Nat} {q : Req} (s : State) (h : commandOf c = some (op, q)) :
    exec c s = .next (runCommand op q s) := by
  unfold commandOf at h
  split at h
  all_goals cases h
  all_goals rfl

/-- The index has a body for every command. -/
theorem body_isSome_of_commandOf {c : Instr} {op : Nat} {q : Req} (s : State) (h : commandOf c = some (op, q)) :
    (body op q s).isSome = true := by
  unfold commandOf at h
  split at h
  all_goals cases h
  all_goals rfl

/-- Settles O10: a command whose stream is busy may not start, and waits. -/
theorem commandWaitsForItsStream : Obligations.CommandWaitsForItsStream := by
  intro c op q s command idle busy
  have waits : mayStart s (heldOf op q) = false := by simp [mayStart, heldOf, busy]
  rw [exec_of_commandOf s command, runCommand_wait idle waits]

/-- Settles O11: over I3C, stream 8, the index permits its own set alone. -/
theorem commandOutsideI3cSet : Obligations.CommandOutsideI3cSet := by
  intro c op q s command outside i3c up idle free
  have starts : mayStart s (heldOf op q) = true := by simp [mayStart, heldOf, up, i3c, free]
  have shut : permitted s op q = false := by simp [permitted, i3c, outside]
  rw [exec_of_commandOf s command, runCommand_refused idle starts (body_isSome_of_commandOf _ command) shut]

end Sys2Proof.Machine
end

section
/-! The timing unit (R25–R41, R420, R421): captures, references, the pins, the holdover estimate and time steps, with the proofs of O12
to O15. -/

namespace Sys2Proof.Machine

/-- Settles O15 by evaluation of the position of that air-time. -/
theorem airTimeWorkedExample : Obligations.AirTimeWorkedExample := by
  unfold Obligations.AirTimeWorkedExample
  decide

/-! ## Captures (R30, R31) -/

/-- Settles O12: the capture is stored under its reader, and every other entry stays. -/
theorem airTimeCapture : Obligations.AirTimeCapture := by
  intro who s rise
  have own : assoc (putKey s.tim.captures who (some (s.ats, rd s R.atsOffset))) who = some (s.ats, rd s R.atsOffset) :=
    assoc_putKey_self rise
  have view (off : Nat) : captureView (setTim s fun t => { t with captures := putKey t.captures who (some (s.ats, rd s R.atsOffset)) }) who off =
      match off with
      | 0x48 => lo32 (s.ats.toNat / 4 * 4) | 0x4C => hi32 (s.ats.toNat / 4 * 4) | 0x50 => rd s R.atsOffset | 0x54 => atHfn s.ats.toNat
      | 0x58 => atFrame s.ats.toNat | 0x5C => atSlot s.ats.toNat | 0x60 => atSym s.ats.toNat | 0x64 => lo32 (s.ats.toNat / tcTick)
      | 0x68 => hi32 (s.ats.toNat / tcTick) | _ => 0 := by
    simp only [captureView, setTim, own] <;> rfl
  refine ⟨_, rfl, view _, view _, view _, view _, view _, view _, view _, view _, view _, ?_, rfl⟩
  intro other off apart
  simp only [captureView, setTim, assoc_putKey_ne apart]

/-! ## References (R32–R34) -/

section References
variable {s : State}

/-- A reference other than PTP that may qualify is marked and considered. -/
theorem exec_refQualify_of_may {r : Fin 4} (may : mayQualify s r.val = true) (notPtp : r.val ≠ 2) :
    exec (.refQualify r) s = .next (qualifyRef s r.val) :=
  congrArg Host.Outcome.next ((if_neg (by simp [may])).trans (if_neg notPtp))

/-- A reference whose conditions do not hold does not qualify (log entry 5). -/
theorem exec_refQualify_of_not {r : Fin 4} (not_ : mayQualify s r.val = false) : exec (.refQualify r) s = .next s :=
  congrArg Host.Outcome.next (if_pos (by simp [not_]))

theorem exec_refQualify_ptp (may : ptpRuns s = true) : exec (.refQualify 2) s = .next (ptpLeaps (qualifyRef s 2)) :=
  congrArg Host.Outcome.next ((if_neg (by simp [mayQualify, may])).trans (if_pos rfl))

/-- Only the leap seconds, and the free value that decides on them, may differ. -/
theorem ptpLeaps_frame : { ptpLeaps s with freeCtr := s.freeCtr, tim := { (ptpLeaps s).tim with leaps := s.tim.leaps } } = s := by
  by_cases brings : (Config.freeWord s.freeCtr).getLsbD 8 = true
  · rw [show ptpLeaps s = setTim { s with freeCtr := s.freeCtr + 1 } fun t =>
      { t with leaps := some (BitVec.ofNat 8 (Config.freeWord s.freeCtr).toNat) } from if_pos brings]
    rfl
  · rw [show ptpLeaps s = { s with freeCtr := s.freeCtr + 1 } from if_neg brings]

theorem exec_refLost_of_not_pps {r : Fin 4} (notPps : r.val ≠ 1) : exec (.refLost r) s = .next (loseRef s r.val) :=
  congrArg Host.Outcome.next (if_neg fun h => notPps h.1)

theorem exec_refLost_pps (missed : 2 ≤ s.tim.missed) : exec (.refLost 1) s = .next (loseRef s 1) :=
  congrArg Host.Outcome.next (if_neg fun h => absurd h.2 (by omega))

/-- From FREE the best reference is acquired. -/
theorem considerRefs_of_free (free : timState s = 0) (some_ : bestRef s ≠ 0) :
    considerRefs s = syncHoldLim (syncAssist (enterAcquire s (bestRef s))) := by
  simp only [considerRefs, free, true_or, if_true, some_, if_false]

theorem exec_freqSettled_of_small (acquire : timState s = 1) (small : (sext 32 (rd s R.atPhaseErr).toNat).natAbs ≤ 1966) :
    exec .freqSettled s = .next (enterLocked s) :=
  congrArg Host.Outcome.next ((if_neg (by simp [acquire])).trans (if_pos (by simp [underMicro, small])))

theorem exec_freqSettled_of_large (acquire : timState s = 1) (large : 1966 < (sext 32 (rd s R.atPhaseErr).toNat).natAbs) :
    exec .freqSettled s = .next (setStepReq (setTimState s 3)) :=
  congrArg Host.Outcome.next ((if_neg (by simp [acquire])).trans (if_neg (by simp [underMicro]; omega)))

theorem exec_revertHoldoffExpiry_of_better {r : Fin 3} (state : timState s = 2 ∨ timState s = 3) (revert : rdF s R.atCtl 0 0 15 8 ≠ 0)
    (higher : r.val + 1 < refInUse s) (good : refGood s r.val = true) :
    exec (.revertHoldoffExpiry r) s = .next (syncHoldLim (enterAcquire s (r.val + 1))) :=
  congrArg Host.Outcome.next (if_pos ⟨state, revert, higher, good⟩)

theorem exec_phaseMeasurement_of_acquire {e : Int} {f : W32} (used : refInUse s ≠ 0) (acquire : timState s = 1) :
    exec (.phaseMeasurement e f) s = .next (setTim (wr (wr s R.atPhaseErr 0 0 (satErr e)) R.atFreqOff 0 0 f) fun t =>
      { t with lastErr := e.natAbs }) := by
  refine congrArg Host.Outcome.next ((if_neg used).trans ?_)
  simp only [acquire]

end References

/-- Settles O13, row by row from the equations above. The model's choices in it: a reference whose conditions do not hold does not qualify
(log entry 5), a phase measurement (log entry 8), 1 µs as 1,966 Tc (log entry 10), and whether PTP brings the leap seconds (log entry 122). -/
theorem referenceTransitions : Obligations.ReferenceTransitions := by
  refine ⟨?qualify, ?hoist, ?noHoist, ?notYet, ?ptp, ?loseHoist, ?lose, ?losePps, ?free, ?locked, ?held, ?revert, ?measured, ?missed⟩
  case qualify =>
    rintro ⟨r, lt⟩ s (⟨rfl, edges⟩ | ⟨rfl, source, running⟩)
    · exact exec_refQualify_of_may (by simp [mayQualify, edges]) (show (1 : Nat) ≠ 2 by decide)
    · exact exec_refQualify_of_may (by simp [mayQualify, source, running]) (show (3 : Nat) ≠ 2 by decide)
  case hoist => exact fun _ good => exec_refQualify_of_may (r := 0) good (by decide)
  case noHoist => exact fun _ bad => exec_refQualify_of_not (r := 0) bad
  case notYet =>
    rintro ⟨r, lt⟩ s (⟨rfl, edges⟩ | ⟨rfl, stopped⟩ | ⟨rfl, track⟩)
    · exact exec_refQualify_of_not (by simp [mayQualify]; omega)
    · exact exec_refQualify_of_not (by simp [mayQualify, stopped])
    · exact exec_refQualify_of_not (by rcases track with off | held <;> simp [mayQualify, *])
  case ptp => exact fun _ runs => ⟨_, exec_refQualify_ptp runs, ptpLeaps_frame⟩
  case loseHoist => exact fun _ => exec_refLost_of_not_pps (r := 0) (by decide)
  case lose =>
    intro r s high
    have notHoist : r.val ≠ 0 := by omega
    have notPps : r.val ≠ 1 := by omega
    rw [exec_refLost_of_not_pps notPps, loseRef, if_neg notPps, if_neg notHoist]
  case losePps => exact fun _ missed => exec_refLost_pps missed
  case free => exact fun _ free some_ => considerRefs_of_free free some_
  case locked => exact fun _ acquire small => exec_freqSettled_of_small acquire small
  case held => exact fun _ acquire large _ => exec_freqSettled_of_large acquire large
  case revert => exact fun _ _ state revert higher good => exec_revertHoldoffExpiry_of_better state revert higher good
  case measured => exact fun _ _ _ used acquire => exec_phaseMeasurement_of_acquire used acquire
  case missed => exact fun _ => rfl

/-! ## Numbers as bytes (R24) -/

theorem bytesOf_length (k n : Nat) : (bytesOf k n).length = k := by simp [bytesOf]

theorem bytesOf_succ (k n : Nat) : bytesOf (k + 1) n = BitVec.ofNat 8 n :: bytesOf k (n / 256) := by
  simp only [bytesOf, List.range_succ_eq_map, List.map_cons, List.map_map, Nat.mul_zero, pow_zero, Nat.div_one, List.cons.injEq, true_and]
  refine List.map_congr_left fun i _ => ?_
  rw [Function.comp_apply, show 8 * i.succ = 8 + 8 * i by omega, pow_add, ← Nat.div_div_eq_div_mul,
    show 2 ^ 8 = 256 from rfl]

/-- The bytes of a number give it back, modulo what they hold. -/
theorem ofBytes_bytesOf : ∀ k n : Nat, ofBytes (bytesOf k n) = n % 2 ^ (8 * k)
  | 0, n => by simp [bytesOf, ofBytes, Nat.mod_one]
  | k + 1, n => by
    rw [bytesOf_succ, ofBytes, ofBytes_bytesOf k, show 8 * (k + 1) = 8 + 8 * k by omega, pow_add, Nat.mod_mul, BitVec.toNat_ofNat,
      show 2 ^ 8 = 256 from rfl]

/-! ## The pins (R420, R421) -/

section Pins
variable {s : State}

/-- The time of an edge: its stamp with the compensation added. -/
def edgeTime (s : State) (stamp : W64) : Nat := wrapTo 64 (stamp.toNat + sext 32 s.tim.ppsComp.toNat)

/-- An edge that comes a second after the last, with a time-of-day message before it, counts as good. -/
theorem exec_ppsInEdge_of_good {stamp : W64} {p : Nat} (heard : ppsIgnored s = false) (last : s.tim.lastEdge = some p)
    (told : s.tim.todFresh ≠ none) (late : p + tcPerSec ≤ edgeTime s stamp + 19660) (early : edgeTime s stamp ≤ p + tcPerSec + 19660) :
    exec (.ppsInEdge stamp true) s = .next (setTim s fun a => { a with
      edges := Nat.min 4 (s.tim.edges + 1), missed := 0, lastEdge := some (edgeTime s stamp), todFresh := none }) := by
  unfold edgeTime at late early ⊢
  have fresh : s.tim.todFresh.isNone = false := by simpa [Option.isSome_iff_ne_none] using told
  refine congrArg Host.Outcome.next ((if_neg (by simp [heard])).trans ((if_neg (by simp)).trans ?_))
  simp only [last, fresh, late, early, decide_true, Bool.and_self, Bool.false_eq_true, if_false, if_true]

/-- A narrow pulse is no edge (log entry 11). -/
theorem exec_ppsInEdge_of_narrow {stamp : W64} (heard : ppsIgnored s = false) : exec (.ppsInEdge stamp false) s = .next s :=
  congrArg Host.Outcome.next ((if_neg (by simp [heard])).trans (if_pos rfl))

theorem exec_todMessageRx_of_valid {bytes : List Byte} (valid : todValid bytes = true) : exec (.todMessageRx bytes true) s =
    .next (setTim s fun a => { a with todFresh := some (ofBytes ((bytes.drop 4).take 6)), leaps := some (nth bytes 10 0) }) :=
  congrArg Host.Outcome.next (if_pos (by simp [valid]))

/-- A message that is wrong or comes too late has no effect. -/
theorem exec_todMessageRx_of_invalid {bytes : List Byte} {b : Bool} (invalid : todValid bytes = false ∨ b = false) :
    exec (.todMessageRx bytes b) s = .next s :=
  congrArg Host.Outcome.next (if_neg (by rcases invalid with bad | rfl <;> simp [*]))

theorem exec_ppsOutPulse_of_due (due : ppsDue s = true) :
    exec .ppsOutPulse s = .next (setTim s fun a => { a with ppsOut := some ((ppsBase s + 2) / tcPerSec) }) :=
  congrArg Host.Outcome.next (if_pos due)

/-- Between the seconds there is no pulse (log entry 5). -/
theorem exec_ppsOutPulse_of_not_due (early : ppsDue s = false) : exec .ppsOutPulse s = .next s :=
  congrArg Host.Outcome.next (if_neg (by simp [early]))

/-- The second, the leap seconds and the flags of a message, and its reserved bytes. -/
def todBody (s : State) (sec : Nat) (free : W64) : List Byte :=
  bytesOf 2 0x0C01 ++ (bytesOf 6 sec ++
    ([s.tim.leaps.getD 0, BitVec.ofNat 8 ((if timState s = 0 then 0 else 1) + 2 * (free.toNat % 4))] ++ bytesOf 4 0))

theorem todMessage_eq (sec : Nat) (free : W64) :
    todMessage s sec free = bytesOf 2 0x4ED7 ++ (todBody s sec free ++ bytesOf 2 (crc16 (todBody s sec free)).toNat) := by
  simp only [todMessage, todBody, List.append_assoc]

theorem todBody_length (sec : Nat) (free : W64) : (todBody s sec free).length = 14 := by simp [todBody, bytesOf_length]

/-- What the time-of-day message sent carries: its head, the second, and the check over all but its first two bytes. -/
theorem todMessage_fields (sec : Nat) (free : W64) : (todMessage s sec free).length = 18 ∧
    ofBytes ((todMessage s sec free).take 4) = 0x0C014ED7 ∧ ofBytes (((todMessage s sec free).drop 4).take 6) = sec % 2 ^ 48 ∧
    ofBytes (((todMessage s sec free).drop 16).take 2) = (crc16 (((todMessage s sec free).drop 2).take 14)).toNat := by
  have tail : (todMessage s sec free).drop 2 = todBody s sec free ++ bytesOf 2 (crc16 (todBody s sec free)).toNat := by
    rw [todMessage_eq, List.drop_left' (bytesOf_length 2 _)]
  have body : ((todMessage s sec free).drop 2).take 14 = todBody s sec free := by rw [tail, List.take_left' (todBody_length sec free)]
  have check : (todMessage s sec free).drop 16 = bytesOf 2 (crc16 (todBody s sec free)).toNat := by
    have parts : (todMessage s sec free).drop 16 = ((todMessage s sec free).drop 2).drop 14 := by rw [List.drop_drop]
    rw [parts, tail, List.drop_left' (todBody_length sec free)]
  refine ⟨?length, ?head, ?second, ?crc⟩
  case length => rw [todMessage_eq, List.length_append, List.length_append, bytesOf_length, bytesOf_length, todBody_length]
  case head =>
    rw [todMessage_eq, todBody, List.append_assoc, ← List.append_assoc, List.take_left' (by simp [bytesOf_length])]
    decide
  case second =>
    rw [show 4 = 2 + 2 from rfl, ← List.drop_drop, tail, todBody, List.append_assoc, List.drop_left' (bytesOf_length 2 _),
      List.append_assoc, List.take_left' (bytesOf_length 6 sec)]
    exact ofBytes_bytesOf 6 sec
  case crc =>
    rw [check, body, List.take_of_length_le (by rw [bytesOf_length]), ofBytes_bytesOf]
    exact Nat.mod_eq_of_lt (crc16 _).isLt

end Pins

/-! ## The holdover estimate (R35) -/

theorem OnlyEvents.ats {s t : State} (h : OnlyEvents s t) : t.ats = s.ats := (congrArg State.ats h :)
theorem OnlyEvents.tim {s t : State} (h : OnlyEvents s t) : t.tim = s.tim := (congrArg State.tim h :)
theorem OnlyEvents.mem {s t : State} (h : OnlyEvents s t) : t.mem = s.mem := (congrArg State.mem h :)

/-- The timing unit with an estimate recorded, in ns, and its event where it has come to exceed the limit. -/
def estimated (s : State) (est : Nat) : State :=
  let high := decide ((rd s R.atHoldLim).toNat ≠ 0) && decide ((rd s R.atHoldLim).toNat < est)
  raiseIf (high && !s.tim.estOver) (syncHoldLim (setTim (wr (setTim { s with freeCtr := s.freeCtr + 1 } fun a => { a with held := s.tim.held + 1 })
    R.atHoldErr 0 0 (w32 (satU 32 est))) fun a => { a with estKnown := true, estOver := high })) E.tim 0 3

/-- The estimate before its rounding. -/
def estimateOf (s : State) : Nat × Bool :=
  holdEst s.tim.e0 (rdF s R.atHoldCfg 0 0 15 0) (rdF s R.atHoldCfg 0 0 31 16) (s.tim.held + 1) (rdB s R.atStat 0 0 9)

theorem exec_holdoverEstimateUpdate_of_holdover {s : State} (holdover : timState s = 4) : exec .holdoverEstimateUpdate s =
    .next (estimated s (if (estimateOf s).2 && (Config.freeWord s.freeCtr).getLsbD 0 then (estimateOf s).1 + 1 else (estimateOf s).1)) :=
  congrArg Host.Outcome.next (if_neg (by simp [holdover]))

theorem estimated_held (s : State) (est : Nat) : (estimated s est).tim.held = s.tim.held + 1 :=
  congrArg AirTime.held (raiseIf_events ..).tim

theorem rd_raiseIf_of_not_mem {c : Bool} (s : State) {e : EvtReg} {u : Nat} (n : Nat) {r : Reg} {u' i' : Nat} (h : r.key u' i' ∉ evtKeys e u 0) :
    rd (raiseIf c s e u n) r u' i' = rd s r u' i' := by
  cases c
  · rfl
  · exact rd_raise_of_not_mem s n h

theorem rd_estimated {s : State} (rise : keysRise s.regs = true) (est : Nat) : rd (estimated s est) R.atHoldErr = w32 (satU 32 est) :=
  (rd_raiseIf_of_not_mem _ _ (by decide)).trans ((rd_wr_ne _ _ _ _ _ _ _ _ (by decide)).trans (rd_wr_self rise ..))

theorem estimated_mem (s : State) (est : Nat) : (estimated s est).mem = s.mem := (raiseIf_events ..).mem
theorem estimated_ats (s : State) (est : Nat) : (estimated s est).ats = s.ats := (raiseIf_events ..).ats

/-! ## Time steps (R40, R41, R49) -/

theorem setSink_commits (s : State) (k : SinkId) (b : Sink) : (setSink s k b).pn.commits = s.pn.commits := by cases k <;> rfl

theorem ibiEvent_commits (s : State) (k : SinkId) : (ibiEvent s k).pn.commits = s.pn.commits := by
  unfold ibiEvent
  split <;> rfl

theorem offer_commits (s : State) (k : SinkId) (e : Event) : (offer s k e).1.pn.commits = s.pn.commits := by
  unfold offer
  simp only
  split
  · exact (ibiEvent_commits ..).trans (setSink_commits ..)
  · exact setSink_commits ..

theorem offerAll_commits (e : Event) : ∀ (l : List SinkId) (s : State), (offerAll s e l).1.pn.commits = s.pn.commits
  | [], _ => rfl
  | k :: ks, s => (offerAll_commits e ks _).trans (offer_commits s k e)

theorem latch_commits (s : State) (e : EvtReg) (u i : Nat) (bits : W32) : (latch s e u i bits).1.pn.commits = s.pn.commits := by
  unfold latch
  cases e.cnt <;> rfl

theorem emitN_commits : ∀ (n : Nat) (s : State) (k : Nat) (ws : List W32), (emitN n s k ws).pn.commits = s.pn.commits
  | 0, _, _, _ => rfl
  | n + 1, s, k, ws => by
    have offered := offerAll_commits { kind := k, seq := (rd s R.pnEvseq).toNat, ats := s.ats, words := ws }
      (sinksOf (wr s R.pnEvseq 0 0 (w32 ((rd s R.pnEvseq).toNat + 1))) k) (wr s R.pnEvseq 0 0 (w32 ((rd s R.pnEvseq).toNat + 1)))
    simp only [emitN]
    split
    · split
      · exact (latch_commits ..).trans offered
      · exact (emitN_commits n _ _ _).trans ((latch_commits ..).trans offered)
    · exact offered

/-- An event leaves the pending commits as they are. -/
theorem raise_commits (s : State) (e : EvtReg) (u k : Nat) : (raise s e u k).pn.commits = s.pn.commits := by
  unfold raise raiseI
  split
  · rfl
  · simp only
    split
    · exact latch_commits ..
    · exact (emitN_commits ..).trans (latch_commits ..)

section Notice
variable (s : State) (op : Nat) (tag : W16) (stream : Nat) (w0 w1 : W32) (st : Status)

theorem emitCommit_ats : (emitCommit s op tag stream w0 w1 st).ats = s.ats := (emit_events s 2 _).ats

theorem emitCommit_commits : (emitCommit s op tag stream w0 w1 st).pn.commits = s.pn.commits := emitN_commits 2 s 2 _

end Notice

/-- The step leaves the pending commits, and an OFFSET sets its register. -/
def stepTaken (s : State) (c : Commit) : State :=
  if fld (nth c.params 0 0#32) 1 0 = 2 then wr (dropStep s) R.atsOffset 0 0 (nth c.params 3 0#32) else dropStep s

/-- Air-time moves by the step. -/
def stepMoved (s : State) (c : Commit) (err : Int) : State :=
  { stepTaken s c with ats := BitVec.ofNat 64 (wrapTo 64 ((s.ats.toNat : Int) + stepDelta s c.params err)) }

/-- The ticks that the step skips or repeats are noted. -/
def stepNoted (s : State) (c : Commit) (err : Int) : State :=
  let d := stepDelta s c.params err
  setTim (skipFar (stepMoved s c err) (tickNow s) (tickNow (stepMoved s c err))) fun t =>
    { t with lastDelta := w32 (wrapTo 32 (satS 32 d)), barTo := if d < 0 then Nat.max s.tim.barTo s.ats.toNat else s.tim.barTo,
             skipFrom := if 0 ≤ d then tickNow s else 0, skipTo := if 0 ≤ d then tickNow (stepMoved s c err) else 0 }

/-- From OFFSET_HELD the step leads back to ACQUIRE. -/
def reacquire (s : State) : State := if timState s = 3 then setTimState (wrB s R.atStat 0 0 10 false) 1 else s

theorem applyStep_of_not_align {s : State} {c : Commit} {err : Int} (notAlign : fld (nth c.params 0 0#32) 1 0 ≠ 1) : applyStep s c err =
    if c.note then emitCommit (reacquire (raise (stepNoted s c err) E.tim 0 5)) c.opcode c.tag c.stream c.w0 c.w1 .ok
    else reacquire (raise (stepNoted s c err) E.tim 0 5) :=
  if_neg fun h => notAlign h.1

theorem skipFar_ats (s : State) (a b : Nat) : (skipFar s a b).ats = s.ats := by
  unfold skipFar
  split <;> rfl

theorem skipFar_commits (s : State) (a b : Nat) : (skipFar s a b).pn.commits = s.pn.commits := by
  unfold skipFar
  split <;> rfl

theorem reacquire_ats (s : State) : (reacquire s).ats = s.ats := by
  unfold reacquire
  split <;> rfl

theorem reacquire_commits (s : State) : (reacquire s).pn.commits = s.pn.commits := by
  unfold reacquire
  split <;> rfl

theorem stepNoted_ats (s : State) (c : Commit) (err : Int) :
    (stepNoted s c err).ats = BitVec.ofNat 64 (wrapTo 64 ((s.ats.toNat : Int) + stepDelta s c.params err)) := by
  rw [stepNoted, setTim_ats, skipFar_ats, stepMoved]

theorem stepTaken_commits (s : State) (c : Commit) : (stepTaken s c).pn.commits = (dropStep s).pn.commits := by
  unfold stepTaken
  split <;> rfl

theorem stepNoted_commits (s : State) (c : Commit) (err : Int) : (stepNoted s c err).pn.commits = (dropStep s).pn.commits := by
  rw [stepNoted, setTim_pn, skipFar_commits, stepMoved, stepTaken_commits]

theorem moved_ats (s : State) (c : Commit) (err : Int) : (reacquire (raise (stepNoted s c err) E.tim 0 5)).ats =
    BitVec.ofNat 64 (wrapTo 64 ((s.ats.toNat : Int) + stepDelta s c.params err)) := by
  rw [reacquire_ats, (raise_events ..).ats, stepNoted_ats]

theorem moved_commits (s : State) (c : Commit) (err : Int) :
    (reacquire (raise (stepNoted s c err) E.tim 0 5)).pn.commits = (dropStep s).pn.commits := by
  rw [reacquire_commits, raise_commits, stepNoted_commits]

/-- No step is pending once it has been dropped. -/
theorem pendingStep_of_dropped {s t : State} (h : t.pn.commits = (dropStep s).pn.commits) : pendingStep t = none := by
  rw [pendingStep, h]
  exact List.find?_eq_none.2 fun c mem => by simpa using (List.mem_filter.1 mem).2

theorem applyStep_ats {s : State} {c : Commit} {err : Int} (notAlign : fld (nth c.params 0 0#32) 1 0 ≠ 1) : (applyStep s c err).ats =
    BitVec.ofNat 64 (wrapTo 64 ((s.ats.toNat : Int) + stepDelta s c.params err)) := by
  by_cases note : c.note = true
  · rw [applyStep_of_not_align notAlign, if_pos note, emitCommit_ats, moved_ats]
  · rw [applyStep_of_not_align notAlign, if_neg note, moved_ats]

theorem applyStep_pendingStep {s : State} {c : Commit} {err : Int} (notAlign : fld (nth c.params 0 0#32) 1 0 ≠ 1) :
    pendingStep (applyStep s c err) = none := by
  by_cases note : c.note = true
  · exact pendingStep_of_dropped (by rw [applyStep_of_not_align notAlign, if_pos note, emitCommit_commits, moved_commits])
  · exact pendingStep_of_dropped (by rw [applyStep_of_not_align notAlign, if_neg note, moved_commits])

theorem exec_timeStepApply_of_due {s : State} {c : Commit} {err : Int} (pending : pendingStep s = some c) (confirmed : c.prepared = false)
    (due : c.bnd ≤ s.ats.toNat) : exec (.timeStepApply err) s = .next (applyStep (applyDue s) c err) := by
  refine congrArg Host.Outcome.next ?_
  simp only [pending, confirmed, Bool.false_eq_true, false_or, Nat.not_lt.2 due, if_false]

/-- Settles O14, row by row from the equations above. The model's choices in it: a pulse that is not due and an edge that is narrow have no
effect (log entries 5 and 11), the free flags of the message sent (log entry 12), the rounding of the estimate (log entry 9), and the
order in which a step takes effect (log entry 14). -/
theorem pinsHoldoverSteps : Obligations.PinsHoldoverSteps := by
  refine ⟨?edge, ?narrow, ?told, ?notTold, ?pulse, ?sent, ?estimate, ?step⟩
  case edge => exact fun _ _ _ heard last told late early => exec_ppsInEdge_of_good heard last told late early
  case narrow => exact fun _ _ heard => exec_ppsInEdge_of_narrow heard
  case told => exact fun _ _ valid => exec_todMessageRx_of_valid valid
  case notTold => exact fun _ _ _ invalid => exec_todMessageRx_of_invalid invalid
  case pulse => exact fun _ => ⟨exec_ppsOutPulse_of_due, exec_ppsOutPulse_of_not_due⟩
  case sent =>
    intro s
    obtain ⟨length, head, second, crc⟩ := todMessage_fields (s := { s with freeCtr := s.freeCtr + 1 }) (ppsBase s / tcPerSec + 1)
      (Config.freeWord s.freeCtr)
    exact ⟨_, _, rfl, rfl, length, head, second, crc, rfl⟩
  case estimate =>
    intro s holdover rise
    refine ⟨_, _, exec_holdoverEstimateUpdate_of_holdover holdover, estimated_held .., ?_, rd_estimated rise _, estimated_mem ..,
      estimated_ats ..⟩
    split
    · exact .inr rfl
    · exact .inl rfl
  case step =>
    exact fun e s c pending confirmed due notAlign =>
      ⟨_, exec_timeStepApply_of_due pending confirmed due, rfl, applyStep_ats notAlign, applyStep_pendingStep notAlign⟩

end Sys2Proof.Machine
end

section
/-! What a reply records, counts and leaves alone (R16, R424, R482, R487, R509), and the proof of O17. -/

namespace Sys2Proof.Machine

/-! ## 64-bit counters (R16) -/

theorem pair64_lo32_hi32 (n : Nat) : pair64 (lo32 n) (hi32 n) = n % 2 ^ 64 := by
  simp only [pair64, lo32, hi32, BitVec.toNat_ofNat]
  omega

theorem pair64_lt (lo hi : W32) : pair64 lo hi < 2 ^ 64 := by
  have low := lo.isLt
  have high := hi.isLt
  unfold pair64
  omega

/-- A 64-bit register written reads back. -/
theorem rd64_wr64_self {s : State} (rise : keysRise s.regs = true) (r : Reg) (u i n : Nat) : rd64 (wr64 s r u i n) r u i = n % 2 ^ 64 := by
  have apart : r.key u i ≠ (r.next 1).key u i := by
    simp only [Reg.next, Reg.key]
    omega
  rw [rd64, wr64, rd_wr_ne _ _ _ _ _ _ _ _ apart, rd_wr_self rise, rd_wr_self (keysRise_wr rise ..), pair64_lo32_hi32]

/-- A 64-bit register reads as before where neither of its words changes. -/
theorem rd64_of_regsBut {ks : List Nat} {s t : State} (h : RegsBut ks s t) (v : t.variant = s.variant) (r : Reg) (u i : Nat)
    (low : r.key u i ∉ ks) (high : (r.next 1).key u i ∉ ks) : rd64 t r u i = rd64 s r u i := by
  rw [rd64, rd64, h.rd v r u i low, h.rd v (r.next 1) u i high]

theorem keysRise_bump {s : State} (rise : keysRise s.regs = true) (r : Reg) (u i n : Nat) : keysRise (bump s r u i n).regs = true :=
  keysRise_wr (keysRise_wr rise ..) ..

/-! ## The completion of a submission (R424, R487) -/

/-- Nothing but the host link, the Lace link with its list of replies sent, and the completion tail of queue pair p differs. -/
structure Completes (p : Nat) (s t : State) : Prop where
  frame : { t with regs := s.regs, host := s.host, lace := s.lace, pn := { t.pn with laceSent := s.pn.laceSent } } = s
  regs : RegsBut [R.cqTail.key p 0] s t

theorem Completes.refl (p : Nat) (s : State) : Completes p s s := ⟨rfl, .refl _ s⟩

theorem Completes.trans {p : Nat} {a b c : State} (h : Completes p a b) (k : Completes p b c) : Completes p a c where
  frame := by
    rw [← h.frame]
    calc { c with regs := a.regs, host := a.host, lace := a.lace, pn := { c.pn with laceSent := a.pn.laceSent } }
        = (fun x : State => { x with regs := a.regs, host := a.host, lace := a.lace, pn := { x.pn with laceSent := a.pn.laceSent } })
            { c with regs := b.regs, host := b.host, lace := b.lace, pn := { c.pn with laceSent := b.pn.laceSent } } := rfl
      _ = _ := by rw [k.frame]
  regs := h.regs.trans k.regs

theorem Completes.setHost (p : Nat) (s : State) (f : HostLink → HostLink) : Completes p s (setHost s f) := ⟨rfl, .of_eq rfl⟩

theorem Completes.cqWrite (s : State) (p : Nat) (ws : List W32) (irq : Bool) : Completes p s (cqWrite s p ws irq) :=
  ⟨rfl, (RegsBut.of_eq rfl).trans (.wr _ R.cqTail p 0 _ List.mem_cons_self)⟩

theorem Completes.cqDrainN : ∀ (n : Nat) (s : State) (p : Nat), Completes p s (cqDrainN n s p)
  | 0, s, p => .refl p s
  | n + 1, s, p => by
    simp only [Machine.cqDrainN]
    split
    · exact .refl p s
    · split
      · exact .refl p s
      · refine .trans ?_ (cqDrainN n _ p)
        split
        · exact (Completes.setHost ..).trans (Completes.cqWrite ..)
        · exact .setHost ..

theorem Completes.cqPost (s : State) (p : Nat) (ws : List W32) (irq : Bool) : Completes p s (cqPost s p ws irq) :=
  (Completes.setHost ..).trans (Completes.cqDrainN ..)

theorem Completes.subDrainN : ∀ (n : Nat) (s : State) (p : Nat), Completes p s (subDrainN n s p)
  | 0, s, p => .refl p s
  | n + 1, s, p => by
    simp only [Machine.subDrainN]
    split
    · exact .refl p s
    · split
      · exact .refl p s
      · refine .trans ?_ (subDrainN n _ p)
        split
        · exact .setHost ..
        · exact (Completes.setHost ..).trans (Completes.cqPost ..)

theorem Completes.cqReply (s : State) (r : Reply) : Completes r.stream s (cqReply s r) := by
  unfold Machine.cqReply
  split
  · exact .refl _ s
  · simp only
    refine .trans ?_ (Completes.subDrainN ..)
    split
    · exact .setHost ..
    · exact (Completes.setHost ..).trans (Completes.cqPost ..)

/-! ## A reply over Lace (R481, R494) -/

theorem Completes.setLace (p : Nat) (s : State) (f : Lace → Lace) : Completes p s (setLace s f) := ⟨rfl, .of_eq rfl⟩

theorem Completes.laceMsgs (p kind dev : Nat) : ∀ (l : List (List W32)) (s : State),
    Completes p s (l.foldl (fun a w => laceMsg a kind dev w) s)
  | [], s => .refl p s
  | _ :: ws, s => (Completes.setLace p s _).trans (laceMsgs p kind dev ws _)

theorem Completes.laceReply (p : Nat) (s : State) (q : Req) (r : Reply) : Completes p s (laceReply s q r) := by
  unfold Machine.laceReply
  split
  · exact .refl p s
  · have listed : Completes p s { s with pn := { s.pn with laceSent := s.pn.laceSent ++ [(q.source.toNat, r.opcode, r.tag.toNat)] } } :=
      ⟨rfl, .of_eq rfl⟩
    exact listed.trans (Completes.laceMsgs ..)

/-! ## The reply (R482, R509) -/

/-- The reply of a command that came over PCIe or Lace. -/
def replyOf (s : State) (op : Nat) (q : Req) (st : Status) (ws : List W32) : Reply :=
  { stream := q.stream.val, tag := q.tag, opcode := op, self := q.self, target := q.source, crcv := replyCrc s q, status := st, words := ws }

/-- The command is counted, and its refusal. -/
def commandCounted (s : State) (st : Status) : State :=
  if st = .ok then bump s R.pnCount 0 0 1 else bump (bump s R.pnCount 0 0 1) R.pnCount 0 1 1

/-- The reply is recorded. -/
def recorded (s : State) (op : Nat) (q : Req) (st : Status) (ws : List W32) : State :=
  { commandCounted s st with
    pn := { (commandCounted s st).pn with replies := (commandCounted s st).pn.replies ++ [replyOf s op q st ws] } }

theorem completes_reply {s : State} {op : Nat} {q : Req} {st : Status} {ws : List W32} (link : q.stream.val < 8 ∨ q.stream.val = 9) :
    Completes q.stream.val (recorded s op q st ws) (reply s op q st ws) := by
  have notI3c : decide (q.stream.val = 8) = false := by simp; omega
  rcases link with pcie | lace
  · have notLace : q.stream.val ≠ 9 := by omega
    have notProfile : q.stream.val ≠ 10 := by omega
    have same : reply s op q st ws = cqReply (recorded s op q st ws) (replyOf s op q st ws) := by
      simp only [reply, notI3c, Bool.false_and, Bool.false_eq_true, if_false, notLace, notProfile]
      rfl
    have sent := Completes.cqReply (recorded s op q st ws) (replyOf s op q st ws)
    rw [same]
    exact sent
  · have same : reply s op q st ws = laceReply (recorded s op q st ws) q (replyOf s op q st ws) := by
      simp only [reply, notI3c, Bool.false_and, Bool.false_eq_true, if_false, if_pos lace]
      rfl
    rw [same]
    exact Completes.laceReply ..

/-- Counting a command changes the two counters alone. -/
theorem commandCounted_frame (s : State) (st : Status) : { commandCounted s st with regs := s.regs } = s := by
  by_cases ok : st = .ok <;> simp only [commandCounted, ok, if_true, if_false] <;> rfl

theorem rd64_commandCounted {s : State} (rise : keysRise s.regs = true) (st : Status) :
    rd64 (commandCounted s st) R.pnCount 0 0 = (rd64 s R.pnCount 0 0 + 1) % 2 ^ 64 ∧
    rd64 (commandCounted s st) R.pnCount 0 1 = (rd64 s R.pnCount 0 1 + (if st = .ok then 0 else 1)) % 2 ^ 64 := by
  have first : rd64 (bump s R.pnCount 0 0 1) R.pnCount 0 0 = (rd64 s R.pnCount 0 0 + 1) % 2 ^ 64 := rd64_wr64_self rise ..
  have apart : RegsBut [R.pnCount.key 0 0, (R.pnCount.next 1).key 0 0] s (bump s R.pnCount 0 0 1) :=
    .bump _ _ _ _ _ (by decide) (by decide)
  have second : rd64 (bump s R.pnCount 0 0 1) R.pnCount 0 1 = rd64 s R.pnCount 0 1 :=
    rd64_of_regsBut apart rfl _ _ _ (by decide) (by decide)
  by_cases ok : st = .ok
  · rw [commandCounted, if_pos ok, if_pos ok]
    exact ⟨first, second.trans (Nat.mod_eq_of_lt (pair64_lt _ _)).symm⟩
  · have apart' : RegsBut [R.pnCount.key 0 1, (R.pnCount.next 1).key 0 1] (bump s R.pnCount 0 0 1)
        (bump (bump s R.pnCount 0 0 1) R.pnCount 0 1 1) := .bump _ _ _ _ _ (by decide) (by decide)
    rw [commandCounted, if_neg ok, if_neg ok]
    refine ⟨(rd64_of_regsBut apart' rfl _ _ _ (by decide) (by decide)).trans first, ?_⟩
    rw [← second]
    exact rd64_wr64_self (keysRise_bump rise ..) ..

/-- The two counters are not the completion tail of a queue pair. -/
theorem pnCount_not_cqTail {p i : Nat} (low : i < 8) : R.pnCount.key 0 i ∉ [R.cqTail.key p 0] ∧ (R.pnCount.next 1).key 0 i ∉ [R.cqTail.key p 0] := by
  simp only [List.mem_singleton, Reg.key, Reg.next, R.pnCount, R.pnB, R.cqTail, R.qpB]
  omega

/-- Settles O17: the reply is recorded and counted, and sending it touches the links and a completion tail alone. -/
theorem replyIsRecorded : Obligations.ReplyIsRecorded := by
  intro s op q st ws link
  have sent := completes_reply (s := s) (op := op) (st := st) (ws := ws) link
  have counted := commandCounted_frame s st
  have variant : (reply s op q st ws).variant = (recorded s op q st ws).variant := (congrArg State.variant sent.frame :)
  refine ⟨?replies, ?counts, ?mem, ?ats, ?queues, ?cord, ?dom, ?held⟩
  case replies =>
    have before := congrArg (fun t : State => t.pn.replies) counted
    have after := congrArg (fun t : State => t.pn.replies) sent.frame
    exact after.trans (congrArg (· ++ [replyOf s op q st ws]) before)
  case counts =>
    intro rise
    obtain ⟨commands, refusals⟩ := rd64_commandCounted rise st
    exact ⟨(rd64_of_regsBut sent.regs variant _ _ _ (pnCount_not_cqTail (by decide)).1 (pnCount_not_cqTail (by decide)).2).trans commands,
      (rd64_of_regsBut sent.regs variant _ _ _ (pnCount_not_cqTail (by decide)).1 (pnCount_not_cqTail (by decide)).2).trans refusals⟩
  case mem => exact (congrArg State.mem sent.frame :).trans (congrArg State.mem counted :)
  case ats => exact (congrArg State.ats sent.frame :).trans (congrArg State.ats counted :)
  case queues => exact (congrArg State.queues sent.frame :).trans (congrArg State.queues counted :)
  case cord => exact (congrArg State.cord sent.frame :).trans (congrArg State.cord counted :)
  case dom => exact (congrArg State.dom sent.frame :).trans (congrArg State.dom counted :)
  case held =>
    exact (congrArg (fun t : State => t.pn.held) sent.frame :).trans (congrArg (fun t : State => t.pn.held) counted :)

end Sys2Proof.Machine
end

section
/-! The Pennant chapter's own commands (R7, R47, R502–R508): what each command's body does in each case of O18, and its proof. -/

namespace Sys2Proof.Machine

/-- The mask of quads that `DEV_CAPS` replies with. -/
def quadMask (v : Variant) (k : Nat) : W32 := packF ((List.range 32).map fun i => (i, b2n (quadHere v (32 * k + i))))

theorem bit_quadMask (v : Variant) : ∀ k < 2, ∀ i < 32, bit (quadMask v k) i = quadHere v (32 * k + i) := by
  cases v <;> decide

section Commands
variable {q : Req} {s : State} {w : W32}

theorem par_zero {ps : List W32} (h : q.params = w :: ps) : par q 0 = w := by simp [par, nth, h]

theorem devCaps_of_empty (ps : q.params = []) : devCaps q s = doneW s [Variant.caps s.variant, quadMask s.variant 0, quadMask s.variant 1] :=
  if_neg (by simp [ps])

theorem pennantConfig_of_host (stream : q.stream.val ≤ 7 ∨ q.stream.val = 10) (ps : q.params = [w]) (bits : onlyBits w 0xFF03#32 = true)
    (some_ : fld w 15 8 ≠ 0) : pennantConfig q s = done (wr s R.pnCfg 0 0 w) .ok := by
  have notLink : ¬ (q.stream.val = 8 ∨ q.stream.val = 9) := by omega
  simp [pennantConfig, par_zero ps, notLink, ps, bits, some_]

theorem eventSinkSet_of_kind (stream : q.stream.val ≠ 8) (ps : q.params = [w]) (bits : onlyBits w 0xFFFF003F#32 = true)
    (lo : 1 ≤ fld w 2 0) (hi : fld w 2 0 ≤ 6) (lace : bit w 5 = false ∨ joined s = true) :
    eventSinkSet q s = done (wr s R.pnEvsink 0 (fld w 2 0) (packF [(0, fld w 5 3), (16, fld w 31 16)])) .ok := by
  have kind : fld w 2 0 ≠ 0 ∧ fld w 2 0 ≠ 7 := by omega
  have reachable : ¬ (bit w 5 = true ∧ joined s = false) := by rcases lace with none_ | joins <;> simp [*]
  simp [eventSinkSet, par_zero ps, stream, ps, bits, kind, reachable]

theorem eventEnable_of_event {lo hi mask set : W32} {e : EvtReg} {u i : Nat} {r : Reg} (ps : q.params = [lo, hi, mask, set])
    (top : onlyBits hi 0xFFFF#32 = true) (one : onlyBits set 1#32 = true) (at_ : evtAt (pair64 lo hi) = some (e, u, i)) (en : e.en = some r)
    (bits : onlyBits mask r.rw = true) (here : e.evt.blk.here s.variant u = true) : eventEnable q s =
    done (wr s r u i (if bit set 0 then rd s r u i ||| mask else rd s r u i &&& ~~~mask)) .ok := by
  simp [eventEnable, par, nth, ps, top, one, at_, en, bits, here]

theorem eventStatus_of_empty (ps : q.params = []) :
    eventStatus q s = doneW s [rd s R.pnEvseq, evqView s, rd s R.pnCount 0 7, rd s (R.pnCount.next 1) 0 7] :=
  if_neg (by simp [ps])

theorem commitStatus_of_first (ps : q.params = [w]) (bits : onlyBits w 0xFFF#32 = true) : commitStatus q s = doneW s
    ([w32 s.pn.commits.length, w32 (((commitList s).drop w.toNat).take 250).length] ++
      (((commitList s).drop w.toNat).take 250).flatMap fun c => [packF [(0, c.opcode), (16, c.tag.toNat)], w32 c.stream, c.w0, c.w1]) := by
  simp [commitStatus, par_zero ps, ps, bits]

/-- `COMMIT_CANCEL` of a commit that starts no cell, before its arm point. -/
theorem commitCancel_of_pending {a b : W32} {c : Commit} (ps : q.params = [a, b]) (stream : b.toNat ≤ 10) (notStep : fld a 15 0 ≠ 0x0703)
    (first : s.pn.commits.find? (fun c => decide (c.opcode = fld a 15 0) && decide (c.tag = BitVec.ofNat 16 (fld a 31 16)) &&
      decide (c.stream = b.toNat)) = some c) (noStart : startsOf c = []) (early : passed s c.bnd = false) :
    commitCancel q s = done (cellsSync (setPn s fun p => { p with commits := removeFirst (fun d => decide (d = c)) p.commits })) .ok := by
  have second : par q 1 = b := by simp [par, nth, ps]
  have bits : onlyBits b 0xF#32 = true := onlyBits_of_lt (n := 4) (by omega) (by decide)
  have inRange : ¬ 10 < b.toNat := by omega
  rw [commitCancel, par_zero ps, second]
  refine (if_neg (by simp [ps, bits, notStep, inRange])).trans ?_
  simp only [first]
  have rest : (setPn s fun p => { p with commits := removeFirst (fun d => decide (d = c)) p.commits }) =
      setPn s fun p => { p with commits := removeFirst (fun d => decide (d = c)) s.pn.commits } := rfl
  simp [noStart, early, rest]

theorem timeStatus_of_no_step (ps : q.params = []) (none_ : pendingStep s = none) : timeStatus q s =
    doneW s [rd s R.atStat, lo32 s.ats.toNat, hi32 s.ats.toNat, rd s R.atPhaseErr, rd s R.atFreqOff, rd s R.atHoldErr, 0, 0,
      s.tim.lastDelta, match s.tim.leaps with
        | none => 0
        | some l => packF [(0, l.toNat), (8, 1)]] := by
  simp only [timeStatus, ps, List.length_nil, ne_eq, not_true, if_false, none_]
  rfl

end Commands

/-- Settles O18, command by command from the equations above. -/
theorem pennantCommands : Obligations.PennantCommands := by
  refine ⟨?caps, ?config, ?sink, ?enable, ?events, ?commits, ?cancel, ?time⟩
  case caps =>
    intro q s h ps
    refine ⟨quadMask s.variant 0, quadMask s.variant 1, congrArg Host.Outcome.next
      (runCommand_answers h (congrArg some (devCaps_of_empty ps)) rfl (unseated_seated h.free) rfl rfl), ?_, ?_⟩
    · intro k inRange
      simpa using bit_quadMask s.variant 0 (by decide) k inRange
    · exact fun k inRange => bit_quadMask s.variant 1 (by decide) k inRange
  case config =>
    exact fun _ _ w h stream ps bits some_ =>
      congrArg Host.Outcome.next (runCommand_answers h (congrArg some (pennantConfig_of_host stream ps bits some_)) rfl
        ((unseated_wr ..).trans (congrArg (wr · R.pnCfg 0 0 w) (unseated_seated h.free))) rfl rfl)
  case sink =>
    intro q s w h ps bits lo hi lace
    have stream : q.stream.val ≠ 8 := by
      intro i3c
      have shut : permitted s 0x0E01 q = false := by simp [permitted, i3c, i3cOps]
      exact absurd h.allowed (by simp [shut])
    exact congrArg Host.Outcome.next (runCommand_answers h (congrArg some (eventSinkSet_of_kind stream ps bits lo hi lace)) rfl
      ((unseated_wr ..).trans (congrArg (wr · R.pnEvsink 0 _ _) (unseated_seated h.free))) rfl rfl)
  case enable =>
    intro q s lo hi mask set e u i r h ps top one at_ en bits here
    exact congrArg Host.Outcome.next (runCommand_answers h (congrArg some (eventEnable_of_event ps top one at_ en bits here)) rfl
      ((unseated_wr ..).trans (congrArg (wr · r u i _) (unseated_seated h.free))) rfl rfl)
  case events =>
    exact fun _ _ h ps =>
      congrArg Host.Outcome.next (runCommand_answers h (congrArg some (eventStatus_of_empty ps)) rfl (unseated_seated h.free) rfl rfl)
  case commits =>
    exact fun _ _ _ h ps bits =>
      congrArg Host.Outcome.next (runCommand_answers h (congrArg some (commitStatus_of_first ps bits)) rfl (unseated_seated h.free) rfl rfl)
  case cancel =>
    intro q s a b c h ps stream notStep first noStart early
    have cancelled := commitCancel_of_pending (s := seated s 0x0202 q) ps stream notStep first noStart early
    exact congrArg Host.Outcome.next (runCommand_done (f := fun t => cellsSync (setPn t fun p =>
      { p with commits := removeFirst (fun d => decide (d = c)) p.commits })) h (congrArg some cancelled))
  case time =>
    exact fun _ _ h ps none_ =>
      congrArg Host.Outcome.next (runCommand_answers h (congrArg some (timeStatus_of_no_step ps none_)) rfl (unseated_seated h.free) rfl rfl)

end Sys2Proof.Machine
end

section
/-! Commits (R15, R40, R48–R50, R495–R497, R505): the checks they pass, their staging and what is applied, with the proof of O19. -/

namespace Sys2Proof.Machine

/-! ## Staging (R495, R496) -/

/-- A state with one more pending commit. -/
def withCommit (s : State) (c : Commit) : State := setPn s fun p => { p with commits := p.commits ++ [c] }

section Staging
variable {s : State} {q : Req} {c : Commit}

theorem stage_of_room (room : commitLoad s + commitWeight c ≤ 4096) (early : passed s c.bnd = false) : stage s c = (withCommit s c, .ok) := by
  rw [stage, if_neg (by omega), if_neg (by simp [early])]
  rfl

theorem commitWeight_of_single (single : c.inner = []) : commitWeight c = 1 := by simp [commitWeight, single]

theorem commitRec_of_plain {op : Nat} {prepared : Bool} (plain : op ≠ 0x0301) :
    commitRec s op q prepared = mkCommit op q (bndW0 op q.params) (bndW1 op q.params) prepared :=
  if_neg plain

theorem commitRec_of_start {h : Nat} (next : nextHandle s = some h) : commitRec s 0x0301 q false =
    { mkCommit 0x0301 q (bndW0 0x0301 q.params) (bndW1 0x0301 q.params) false with params := q.params ++ [w32 h] } := by
  rw [commitRec, if_pos rfl, next]
  rfl

/-- A commit that passes its checks is staged with what its staging changes at once. -/
theorem stageOne_of_ok {op : Nat} (ok : commitCheck s op q.params = .ok) (record : commitRec s op q false = c) (single : c.inner = [])
    (room : commitLoad s < 4096) (early : passed s c.bnd = false) :
    stageOne s op q false = (stagedNow (withCommit s c) c, .ok, commitOut c) := by
  have weight := commitWeight_of_single single
  simp only [stageOne, ok, record, stage_of_room (s := s) (c := c) (by omega) early]

theorem commitCmd_of_ok {op : Nat} (notGroup : op ≠ 0x0203) (notStep : op ≠ 0x0703) (ok : commitCheck s op q.params = .ok)
    (record : commitRec s op q false = c) (single : c.inner = []) (room : commitLoad s < 4096) (early : passed s c.bnd = false) :
    commitCmd op q s = { st := stagedNow (withCommit s c) c, stat := .ok, out := commitOut c, hold := false } := by
  simp only [commitCmd, stageAny, notGroup, notStep, if_false, stageOne_of_ok ok record single room early]

end Staging

section Answers
variable {s : State} {q : Req} {op : Nat}

/-- A command that starts at once and whose body ends OK with words has had that body's effect and answers them. -/
theorem runCommand_doneW {f : State → State} {ws : List W32} (h : Starts s op q)
    (e : body op q (seated s op q) = some { st := f (seated s op q), stat := .ok, out := ws, hold := false }) :
    runCommand op q s = answered s op q f ws :=
  runCommand_starts (d := { st := f (seated s op q), stat := .ok, out := ws, hold := false }) h e rfl

theorem unseated_withCommit {c : Commit} (free : streamBusy s q.stream.val = false) :
    unseated (withCommit (seated s op q) c) op q = withCommit s c :=
  congrArg (withCommit · c) (unseated_seated free)

theorem commitCheck_seated (o : Nat) (ps : List W32) : commitCheck (seated s op q) o ps = commitCheck s o ps := rfl
theorem nextHandle_seated : nextHandle (seated s op q) = nextHandle s := rfl
theorem stepCheck_seated (ps : List W32) : stepCheck (seated s op q) ps false = stepCheck s ps false := rfl

/-- A commit command other than a step, a group or a `CELL_START`. -/
theorem runCommand_of_commit (h : Starts s op q) (isBody : ∀ t, body op q t = some (commitCmd op q t)) (notGroup : op ≠ 0x0203)
    (notStep : op ≠ 0x0703) (notStart : op ≠ 0x0301) (ok : commitCheck s op q.params = .ok) (room : commitLoad s < 4096)
    (early : passed s (boundary (bndW0 op q.params) (bndW1 op q.params)) = false) :
    runCommand op q s = answered s op q (fun t => stagedNow (withCommit t (mkCommit op q (bndW0 op q.params) (bndW1 op q.params) false))
      (mkCommit op q (bndW0 op q.params) (bndW1 op q.params) false)) [] := by
  have staged := commitCmd_of_ok (s := seated s op q) notGroup notStep ((commitCheck_seated ..).trans ok) (commitRec_of_plain notStart) rfl
    room early
  have noWords : commitOut (mkCommit op q (bndW0 op q.params) (bndW1 op q.params) false) = [] := if_neg notStart
  rw [noWords] at staged
  exact runCommand_doneW h ((isBody _).trans (congrArg some staged))

end Answers

/-! ## `CELL_START` (R306) -/

/-- The record of a `CELL_START` carries the new handle behind its words. -/
def cellRecord (q : Req) (h : Nat) : Commit :=
  { mkCommit 0x0301 q (bndW0 0x0301 q.params) (bndW1 0x0301 q.params) false with params := q.params ++ [w32 h] }

section Cells
variable {s : State} {q : Req} {h : Nat} (four : q.params.length = 4)
include four

theorem cellRecord_handle : nth (cellRecord q h).params 4 0#32 = w32 h := by simp [cellRecord, nth, four]

theorem commitOut_cellRecord : commitOut (cellRecord q h) = [w32 h] := by
  rw [← cellRecord_handle (h := h) four]
  exact if_pos rfl

theorem stagedNow_cellRecord : stagedNow s (cellRecord q h) = cellStartStaged s (q.params ++ [w32 h]) (w32 h).toNat := by
  change cellStartStaged s (q.params ++ [w32 h]) (nth (cellRecord q h).params 4 0#32).toNat = _
  rw [cellRecord_handle four]

theorem exec_cellStart_of_ok (starts : Starts s 0x0301 q) (ok : cellStartCheck s q.params = .ok) (next : nextHandle s = some h)
    (room : commitLoad s < 4096) (early : passed s (boundary (bndW0 0x0301 q.params) (bndW1 0x0301 q.params)) = false) :
    exec (.cellStart q) s = .next (answered s 0x0301 q (fun t =>
      cellStartStaged (withCommit t (cellRecord q h)) (q.params ++ [w32 h]) (w32 h).toNat) [w32 h]) := by
  have check : commitCheck (seated s 0x0301 q) 0x0301 q.params = .ok := ok
  have staged := commitCmd_of_ok (by decide) (by decide) check (c := cellRecord q h) (commitRec_of_start (nextHandle_seated.trans next)) rfl
    room early
  rw [commitOut_cellRecord four, stagedNow_cellRecord four] at staged
  exact congrArg Host.Outcome.next (runCommand_doneW (f := fun t =>
    cellStartStaged (withCommit t (cellRecord q h)) (q.params ++ [w32 h]) (w32 h).toNat) starts (congrArg some staged))

end Cells

/-! ## Time steps (R40, R48–R50) -/

section Steps
variable {s : State} {q : Req}

theorem timeRefConfig_of_member {a b c d : W32} (ps : q.params = [a, b, c, d]) (bits : onlyBits a 0x0001FF0F#32 = true)
    (member : isMasthead s = false) : timeRefConfig q s = done (considerRefs (setTim
      (wr (wr (wr s R.atCtl 0 0 a) R.atHoldCfg 0 0 b) R.atHoldLim 0 0 c) fun t => { t with ppsComp := d })) .ok := by
  simp [timeRefConfig, par, nth, ps, bits, member]

/-- A step accepted: it is pending, and the commits for later boundaries are refused. -/
def stepStaged (q : Req) (s : State) : State :=
  cellsSync (wrB (stepAccepted (withCommit s (mkCommit 0x0703 q (par q 1) (par q 2) false)) (boundary (par q 1) (par q 2))).1
    R.atStat 0 0 11 true)

/-- The commits that a step refuses do not include itself. -/
theorem later_withCommit {h : Nat} {c : Commit} (own : c.bnd = h) :
    (withCommit s c).pn.commits.filter (fun d => decide (h < d.bnd)) = s.pn.commits.filter fun d => decide (h < d.bnd) := by
  simp [withCommit, setPn, List.filter_append, own]

theorem stepAccepted_count (h : Nat) : (stepAccepted s h).2 = (s.pn.commits.filter fun c => decide (h < c.bnd)).length := rfl

theorem stageStep_of_ok (ok : stepCheck s q.params false = .ok) (room : commitLoad s < 4096)
    (early : passed s (boundary (par q 1) (par q 2)) = false) : stageStep s q false =
    { st := stepStaged q s, stat := .ok, hold := false,
      out := [w32 (s.pn.commits.filter fun c => decide (boundary (par q 1) (par q 2) < c.bnd)).length] } := by
  have staged : stage s (mkCommit 0x0703 q (par q 1) (par q 2) false) =
      (withCommit s (mkCommit 0x0703 q (par q 1) (par q 2) false), .ok) :=
    stage_of_room (by rw [commitWeight_of_single rfl]; omega) early
  have step : timeStep q false s = doneW (wrB (stepAccepted (withCommit s (mkCommit 0x0703 q (par q 1) (par q 2) false))
      (boundary (par q 1) (par q 2))).1 R.atStat 0 0 11 true)
      [w32 (s.pn.commits.filter fun c => decide (boundary (par q 1) (par q 2) < c.bnd)).length] := by
    rw [← later_withCommit (h := boundary (par q 1) (par q 2)) (c := mkCommit 0x0703 q (par q 1) (par q 2) false) rfl, ← stepAccepted_count]
    simp only [timeStep, ok, staged]
    rfl
  simp only [stageStep, step, doneW, if_true, stepStaged]

theorem timeStepCancel_of_pending {c : Commit} (ps : q.params = []) (pending : pendingStep s = some c) (early : passed s c.bnd = false) :
    timeStepCancel q s = done (dropStep s) .ok := by
  simp [timeStepCancel, ps, pending, early]

theorem unseated_dropStep {op : Nat} (free : streamBusy s q.stream.val = false) : unseated (dropStep (seated s op q)) op q = dropStep s :=
  congrArg dropStep (unseated_seated free)

end Steps

/-! ## Groups (R505) -/

section Groups
variable {s : State} {q : Req}

/-- A group whose inner commands pass, with the state that its checks leave. -/
theorem stageGroup_of_ok {pks : List (List W32)} {x : State} {e : Nat} {inner : List Inner} (long : 3 ≤ q.params.length)
    (some_ : (par q 0).toNat ≠ 0) (few : (par q 0).toNat ≤ 32) (packets : innerPackets (par q 0).toNat (q.params.drop 3) = some pks)
    (bnd : bndFault s (par q 1) (par q 2) = false)
    (checked : stageInner q (boundary (par q 1) (par q 2)) false s 0 pks = (x, (e, .ok), inner)) (commands : inner ≠ [])
    (room : commitLoad s + inner.length ≤ 4096) (early : passed s (boundary (par q 1) (par q 2)) = false) :
    stageGroup s q false = (govSync (setPn x fun p => { p with
      commits := s.pn.commits ++ [{ mkCommit 0x0203 q (par q 1) (par q 2) false with inner := inner }] }), .ok, groupWord 0x3F .ok) := by
  have weight : commitWeight { mkCommit 0x0203 q (par q 1) (par q 2) false with inner := inner } = inner.length := by
    simp [commitWeight, commands]
  have staged : stage s { mkCommit 0x0203 q (par q 1) (par q 2) false with inner := inner } =
      (withCommit s { mkCommit 0x0203 q (par q 1) (par q 2) false with inner := inner }, .ok) :=
    stage_of_room (by omega) early
  have shape : ¬ (q.params.length < 3 ∨ (par q 0).toNat = 0 ∨ 32 < (par q 0).toNat) := by omega
  simp only [stageGroup, shape, if_false, packets, bnd, Bool.false_eq_true, checked, staged]

end Groups

/-! ## Application (R497) -/

section Application
variable {s : State}

theorem applyDueN_of_none (n : Nat) (none_ : firstCommit s = none) : applyDueN n s = s := by
  cases n
  · rfl
  · simp only [applyDueN, none_]

/-- A commit alone that is due is the first to apply. -/
theorem firstCommit_of_alone {c : Commit} (alone : s.pn.commits = [c]) (due : commitDue s c = true) : firstCommit s = some c := by
  simp [firstCommit, alone, due, sortBy, insertBy]

theorem applyDue_of_alone {c : Commit} (alone : s.pn.commits = [c]) (due : commitDue s c = true) : applyDue s = applyCommit s c := by
  have one : s.pn.commits.length = 1 := by rw [alone]; rfl
  rw [applyDue, one]
  simp only [applyDueN, firstCommit_of_alone alone due]

end Application

/-- Settles O19, command by command from the equations above. The model's choice in it: without a due commit `COMMIT_APPLY` changes nothing
(log entry 5). -/
theorem commitCommands : Obligations.CommitCommands := by
  refine ⟨?refConfig, ?step, ?cancel, ?governed, ?plain, ?start, ?group, ?none_, ?alone⟩
  case refConfig =>
    exact fun _ _ a b c d h ps bits member =>
      congrArg Host.Outcome.next (runCommand_done (f := fun t => considerRefs (setTim
        (wr (wr (wr t R.atCtl 0 0 a) R.atHoldCfg 0 0 b) R.atHoldLim 0 0 c) fun t => { t with ppsComp := d })) h
        (congrArg some (timeRefConfig_of_member ps bits member)))
  case step =>
    intro q s h member ok room early
    have command : timeStepCmd q (seated s 0x0703 q) = stageStep (seated s 0x0703 q) q false := if_neg fun mh => member mh.1
    exact congrArg Host.Outcome.next (runCommand_doneW (f := stepStaged q) h
      (congrArg some (command.trans (stageStep_of_ok ((stepCheck_seated _).trans ok) room early))))
  case cancel =>
    exact fun _ _ _ h ps pending early =>
      congrArg Host.Outcome.next (runCommand_answers h (congrArg some (timeStepCancel_of_pending ps pending early)) rfl
        (unseated_dropStep h.free) rfl rfl)
  case governed =>
    intro q s op i row h ok room early
    simp only [List.mem_cons, Prod.mk.injEq, List.not_mem_nil, or_false] at row
    rcases row with ⟨rfl, rfl⟩ | ⟨rfl, rfl⟩
    · exact congrArg Host.Outcome.next
        (runCommand_of_commit h (fun _ => rfl) (by decide) (by decide) (by decide) ok room early)
    · exact congrArg Host.Outcome.next
        (runCommand_of_commit h (fun _ => rfl) (by decide) (by decide) (by decide) ok room early)
  case plain =>
    intro q s op i row h ok room early
    have kept : ∀ o ∈ [0x0110, 0x0111, 0x0503, 0x0308], ∀ t c, c.opcode = o → stagedNow t c = t := by
      intro o mem t c code
      simp only [List.mem_cons, List.not_mem_nil, or_false] at mem
      rcases mem with rfl | rfl | rfl | rfl <;> simp [stagedNow, code]
    have answer (isBody : ∀ t, body op q t = some (commitCmd op q t)) (mem : op ∈ [0x0110, 0x0111, 0x0503, 0x0308]) :
        runCommand op q s = reply (withCommit s (mkCommit op q (bndW0 op q.params) (bndW1 op q.params) false)) op q .ok [] := by
      have plain : op ≠ 0x0203 ∧ op ≠ 0x0703 ∧ op ≠ 0x0301 := by
        simp only [List.mem_cons, List.not_mem_nil, or_false] at mem
        omega
      rw [runCommand_of_commit h isBody plain.1 plain.2.1 plain.2.2 ok room early, answered, kept op mem _ _ rfl, unseated_withCommit h.free]
    simp only [List.mem_cons, Prod.mk.injEq, List.not_mem_nil, or_false] at row
    rcases row with ⟨rfl, rfl⟩ | ⟨rfl, rfl⟩ | ⟨rfl, rfl⟩ | ⟨rfl, rfl⟩
    all_goals exact congrArg Host.Outcome.next (answer (fun _ => rfl) (by decide))
  case start => exact fun _ _ _ h ok next four room early => exec_cellStart_of_ok four h ok next room early
  case group =>
    intro q s pks x e inner h long some_ few packets bnd checked commands room early
    have staged := stageGroup_of_ok (s := seated s 0x0203 q) long some_ few packets bnd checked commands room early
    have command : commitCmd 0x0203 q (seated s 0x0203 q) = 
      { st := govSync (setPn x fun p => { p with commits := s.pn.commits ++ [{ mkCommit 0x0203 q (par q 1) (par q 2) false with inner := inner }] }),
        stat := .ok, out := groupWord 0x3F .ok, hold := false } := by
      simp only [commitCmd, stageAny, if_true, staged]
      rfl
    exact congrArg Host.Outcome.next (runCommand_doneW (f := fun _ => govSync (setPn x fun p => { p with
      commits := s.pn.commits ++ [{ mkCommit 0x0203 q (par q 1) (par q 2) false with inner := inner }] })) h (congrArg some command))
  case none_ => exact fun _ none_ => congrArg Host.Outcome.next (applyDueN_of_none _ none_)
  case alone => exact fun _ _ alone due => congrArg Host.Outcome.next (applyDue_of_alone alone due)

end Sys2Proof.Machine
end

section
/-! The memories and their ports (R53–R58, R260–R263, R353, R423): bytes stored read back, and what a read, a write and a scrub of bench memory
and HBM do in each case of O20 and O21. -/

namespace Sys2Proof.Machine

/-! ## Bytes (R53) -/

theorem keysRise_bytes_of_wf {m : Memory} (wf : m.wf = true) : keysRise m.bytes = true := by
  simp only [Memory.wf, Bool.and_eq_true] at wf
  exact wf.1.1.1

section Bytes
variable {m : Memory} {a x : Nat} {b : Byte}

theorem Memory.byte_setByte_self (rise : keysRise m.bytes = true) : (m.setByte a b).byte a = b := by
  simp only [Memory.byte, Memory.setByte, assoc_putKey_self rise]
  split <;> simp_all

theorem Memory.byte_setByte_ne (apart : x ≠ a) : (m.setByte a b).byte x = m.byte x := by
  simp only [Memory.byte, Memory.setByte, assoc_putKey_ne apart]

theorem Memory.setByte_rise (rise : keysRise m.bytes = true) : keysRise (m.setByte a b).bytes = true := keysRise_putKey _ _ rise

end Bytes

/-- A byte outside a stored run reads as before. -/
theorem Memory.byte_setBytes_outside : ∀ (bs : List Byte) {m : Memory} {a x : Nat}, x < a ∨ a + bs.length ≤ x →
    (m.setBytes a bs).byte x = m.byte x
  | [], _, _, _, _ => rfl
  | b :: bs, m, a, x, outside => by
    simp only [List.length_cons] at outside
    exact (byte_setBytes_outside bs (by omega)).trans (Memory.byte_setByte_ne (by omega))

/-- A byte of a stored run reads as stored. -/
theorem Memory.byte_setBytes_inside : ∀ (bs : List Byte) {m : Memory} {a k : Nat}, keysRise m.bytes = true → k < bs.length →
    (m.setBytes a bs).byte (a + k) = nth bs k 0
  | b :: bs, m, a, 0, rise, _ => (byte_setBytes_outside bs (.inl (by omega))).trans (Memory.byte_setByte_self rise)
  | b :: bs, m, a, k + 1, rise, inside => by
    rw [show a + (k + 1) = a + 1 + k by omega]
    exact byte_setBytes_inside bs (Memory.setByte_rise rise) (by simpa using inside)

/-- Storing bytes leaves the check states. -/
theorem Memory.setBytes_marks : ∀ (bs : List Byte) (m : Memory) (a : Nat),
    (m.setBytes a bs).marks = m.marks ∧ (m.setBytes a bs).lost = m.lost
  | [], _, _ => ⟨rfl, rfl⟩
  | _ :: bs, m, a => setBytes_marks bs (m.setByte a _) (a + 1)

/-- Settles O20, by induction on the run. -/
theorem memoryReadBack : Obligations.MemoryReadBack :=
  fun m a bs wf => ⟨fun _ inside => Memory.byte_setBytes_inside bs (keysRise_bytes_of_wf wf) inside,
    fun _ outside => Memory.byte_setBytes_outside bs outside, (Memory.setBytes_marks bs m a).1, (Memory.setBytes_marks bs m a).2⟩

/-! ## The words of a bench's memory (R56, R57) -/

/-- Eight bytes are a number below 2^64. -/
theorem ofBytes_lt : ∀ bs : List Byte, ofBytes bs < 256 ^ bs.length
  | [] => by simp [ofBytes]
  | b :: bs => by
    have tail := ofBytes_lt bs
    have head := b.isLt
    simp only [ofBytes, List.length_cons, pow_succ]
    omega

/-- Eight bytes at a word's address are a full write of it. -/
theorem writeBytes_word {s : State} {a : Nat} {data : List Byte} (aligned : a % 8 = 0) (eight : data.length = 8) :
    writeBytes s a data = writeWord s a (cleanW (ofBytes data)) := by
  have fits : data.take 8 = data := List.take_of_length_le (by omega)
  have rest : data.drop 8 = [] := List.drop_eq_nil_of_le (by omega)
  cases data with
  | nil => simp at eight
  | cons x xs => simp only [writeBytes, eight, writeBytesN, aligned, Nat.sub_zero, fits, rest, and_self, if_true]

section Bench
variable {s : State} {b : Fin 16} (here : benchHere s.variant b.val = true)
include here

theorem unitOf_bench {o : Nat} (inside : o < 0x800000) : unitOf s.variant (benchBase b.val + o) = .bench b.val := by
  have low : b.val < 16 := b.isLt
  have notHbm : ¬ benchBase b.val + o < 0x000800000000 := by simp only [benchBase]; omega
  have inBench : 0x010000000000 ≤ benchBase b.val + o ∧ benchBase b.val + o < 0x010010000000 := by simp only [benchBase]; omega
  have number : (benchBase b.val + o - 0x010000000000) / 0x1000000 = b.val := by simp only [benchBase]; omega
  have offset : benchBase b.val + o - benchBase b.val = o := by omega
  simp only [unitOf, notHbm, if_false, inBench, and_self, if_true, number, here, offset, inside, Bool.not_true, Bool.false_eq_true]

/-- The unit of a word of a bench's memory. -/
theorem unitOf_bench_word (w : Fin 1048576) : unitOf s.variant (benchBase b.val + 8 * w.val) = .bench b.val :=
  unitOf_bench here (by omega)

variable {w : Fin 1048576}

theorem exec_benchMemRead_of_here {t : State} {x : MWord} (read : readWord s (benchBase b.val + 8 * w.val) = (t, x)) :
    exec (.benchMemRead b w) s = .next (answer t .ok [x]) := by
  refine congrArg Host.Outcome.next ((if_neg (by simp [here])).trans ?_)
  simp only [read]

theorem readWord_bench_clean (mark : s.mem.mark ((benchBase b.val + 8 * w.val) / 8) = .clean) :
    readWord s (benchBase b.val + 8 * w.val) = (s, cleanW (s.mem.data ((benchBase b.val + 8 * w.val) / 8))) := by
  simp only [readWord, unitOf_bench_word here w, mark]

omit here in
/-- The settings of a memory are not among the registers of its counters and events. -/
theorem rdB_memCfg_counted (t : State) (k : Nat) :
    rdB (raise (bump t R.memCount b.val 0 1) E.mem b.val 0) R.memCfg b.val 0 k = rdB t R.memCfg b.val 0 k := by
  have low : b.val < 16 := b.isLt
  have apart : R.memCfg.key b.val 0 ∉ evtKeys E.mem b.val 0 := by
    simp only [evtKeys, emitKeys, E.mem, Reg.key, Reg.next, R.memCfg, R.memEvt, R.memEvtCnt, R.benB, R.pnEvseq, R.pnCount, R.pnEvt,
      R.pnEvtCnt, R.pnB, Option.map_some, Option.toList_some, List.cons_append, List.nil_append, List.mem_cons, List.not_mem_nil, or_false]
    omega
  rw [rdB, rdB, rd_raise_of_not_mem _ _ apart, rd_bump_ne]
  · simp only [Reg.key, R.memCfg, R.memCount, R.benB]
    omega
  · simp only [Reg.key, Reg.next, R.memCfg, R.memCount, R.benB]
    omega

/-- A single flipped bit is corrected and counted; without CE_WB it stays in the memory. -/
theorem readWord_bench_single (untouched : s.det.eccAddrs = []) (keep : rdB s R.memCfg b.val 0 8 = false)
    (mark : s.mem.mark ((benchBase b.val + 8 * w.val) / 8) = .single) : readWord s (benchBase b.val + 8 * w.val) =
    (raise (bump s R.memCount b.val 0 1) E.mem b.val 0, cleanW (s.mem.data ((benchBase b.val + 8 * w.val) / 8))) := by
  have noted (a : Nat) : noteEcc s a = s := if_neg (by simp [untouched])
  have back : ceWb (raise (bump s R.memCount b.val 0 1) E.mem b.val 0) (.bench b.val) = false := (rdB_memCfg_counted s 8).trans keep
  simp only [readWord, unitOf_bench_word here w, mark, noted, countEcc, raiseEcc, back, Bool.false_eq_true, if_false]

theorem readWord_bench_poison (mark : s.mem.mark ((benchBase b.val + 8 * w.val) / 8) = .poison) :
    readWord s (benchBase b.val + 8 * w.val) = (bump s R.memCount b.val 2 1, poisonW) := by
  simp only [readWord, unitOf_bench_word here w, mark, countEcc, Bool.false_eq_true, if_false]

/-- The state in which an uncorrectable word of a bench's memory is counted, its event raised and its address kept. -/
def benchUncorrected (s : State) (b w : Nat) : State :=
  errAddr (raise (bump s R.memCount b 1 1) E.mem b 1) (.bench b) (benchBase b + 8 * w)

omit here in
theorem benchUncorrected_mem (n : Nat) : (benchUncorrected s b.val n).mem = s.mem := (raise_events ..).mem

theorem readWord_bench_double (untouched : s.det.eccAddrs = []) (mark : s.mem.mark ((benchBase b.val + 8 * w.val) / 8) = .double) :
    readWord s (benchBase b.val + 8 * w.val) = ({ benchUncorrected s b.val w.val with
      mem := (s.mem.setData ((benchBase b.val + 8 * w.val) / 8) 0).setMark ((benchBase b.val + 8 * w.val) / 8) .poison }, poisonW) := by
  have noted (a : Nat) : noteEcc s a = s := if_neg (by simp [untouched])
  have same := benchUncorrected_mem (s := s) (b := b) w.val
  simp only [benchUncorrected] at same
  simp only [readWord, unitOf_bench_word here w, mark, noted, countEcc, raiseEcc, Bool.false_eq_true, if_false, same, benchUncorrected]

section Write
variable {off : Fin 8388608} {data : List Byte} (whole : off.val % 8 = 0) (eight : data.length = 8)
include whole eight

omit here in
/-- A word inside the memory is written in full. -/
theorem portWrite_bench_word (poison : Bool) : portWrite s (benchBase b.val + off.val) (benchBase b.val + 0x800000) data poison =
    if poison then writeWord s (8 * ((benchBase b.val + off.val) / 8)) poisonW
    else writeWord s (benchBase b.val + off.val) (cleanW (ofBytes data)) := by
  have aligned : (benchBase b.val + off.val) % 8 = 0 := by simp only [benchBase]; omega
  have fits : data.take (benchBase b.val + 0x800000 - (benchBase b.val + off.val)) = data := List.take_of_length_le (by omega)
  have some_ : data.isEmpty = false := by cases data <;> simp at eight ⊢
  have one : (benchBase b.val + off.val + data.length - 1) / 8 + 1 - (benchBase b.val + off.val) / 8 = 1 := by omega
  simp only [portWrite, fits, some_, Bool.false_eq_true, if_false, one, poisonWords, writeBytes_word aligned eight]

omit here whole eight in
theorem writeWord_bench {x : MWord} (here : benchHere s.variant b.val = true) : writeWord s (benchBase b.val + off.val) x =
    if x.2 then { s with mem := (s.mem.setData ((benchBase b.val + off.val) / 8) 0).setMark ((benchBase b.val + off.val) / 8) .poison }
    else { s with mem := (s.mem.setData ((benchBase b.val + off.val) / 8) x.1.toNat).setMark ((benchBase b.val + off.val) / 8) .clean } := by
  simp only [writeWord, unitOf_bench here off.isLt]

theorem exec_benchMemWrite_of_clean : exec (.benchMemWrite b off data false) s = .next { s with
    mem := (s.mem.setData ((benchBase b.val + off.val) / 8) (ofBytes data)).setMark ((benchBase b.val + off.val) / 8) .clean } := by
  have value : (cleanW (ofBytes data)).1.toNat = ofBytes data :=
    (BitVec.toNat_ofNat ..).trans (Nat.mod_eq_of_lt (by have small := ofBytes_lt data; rw [eight] at small; omega))
  have word := writeWord_bench (off := off) (x := cleanW (ofBytes data)) here
  rw [value] at word
  exact congrArg Host.Outcome.next ((if_neg (by simp [here])).trans ((portWrite_bench_word whole eight false).trans word))

theorem exec_benchMemWrite_of_poison : exec (.benchMemWrite b off data true) s = .next { s with
    mem := (s.mem.setData ((benchBase b.val + off.val) / 8) 0).setMark ((benchBase b.val + off.val) / 8) .poison } := by
  have word := writeWord_bench (off := off) (x := poisonW) here
  have aligned : 8 * ((benchBase b.val + off.val) / 8) = benchBase b.val + off.val := by simp only [benchBase]; omega
  have port := portWrite_bench_word (s := s) (b := b) whole eight true
  rw [aligned] at port
  exact congrArg Host.Outcome.next ((if_neg (by simp [here])).trans (port.trans word))

end Write

theorem exec_scrubAccess_of_on {line : Fin 131072} (on : rdF s R.memCfg b.val 0 7 0 ≠ 0) :
    exec (.scrubAccess b line) s = .next (scrubWords s (benchBase b.val + 64 * line.val) 8) :=
  congrArg Host.Outcome.next (if_neg (by simp [here, on]))

end Bench

/-- A bench that the variant does not have reads 0 and takes no writes. -/
theorem exec_benchMemRead_of_absent {s : State} {b : Fin 16} {w : Fin 1048576} (gone : benchHere s.variant b.val = false) :
    exec (.benchMemRead b w) s = .next { s with readStat := .ok, readData := [cleanW 0] } :=
  congrArg Host.Outcome.next (if_pos (by simp [gone]))

theorem exec_benchMemWrite_of_absent {s : State} {b : Fin 16} {off : Fin 8388608} {data : List Byte} {p : Bool}
    (gone : benchHere s.variant b.val = false) : exec (.benchMemWrite b off data p) s = .next s :=
  congrArg Host.Outcome.next (if_pos (by simp [gone]))

theorem exec_scrubAccess_of_off {s : State} {b : Fin 16} {line : Fin 131072} (off : rdF s R.memCfg b.val 0 7 0 = 0) :
    exec (.scrubAccess b line) s = .next s :=
  congrArg Host.Outcome.next (if_pos (.inr off))

/-! ## HBM (R260, R261) -/

section Hbm
variable {s : State} {a : Fin 34359738368}

section Read
variable {n : Fin 33} {ce : Nat} (here : hbmHere s (a.val / 8 * 8) = true) (unarmed : s.det.armed = [])
include here unarmed

theorem exec_hbmRead_of_here (ue : Bool) : exec (.hbmRead a n ce ue) s = .next (
    if ue then answer (ondieBurst (bump s R.hbmCount (a.val / 8 * 8 / 0x400000000) 3 ce) (a.val / 8 * 8) n.val) .ok
      (List.replicate n.val poisonW)
    else
      let r := readWords (bump s R.hbmCount (a.val / 8 * 8 / 0x400000000) 3 ce) (a.val / 8 * 8) n.val
      answer r.1 .ok r.2) := by
  have same : ({ s with det := { s.det with armed := [] } } : State) = s := by rw [← unarmed]
  refine congrArg Host.Outcome.next ((if_neg (by simp [here])).trans ?_)
  simp only [unarmed, List.any_nil, Bool.or_false, List.filter_nil, same]

end Read

theorem exec_hbmRead_of_absent {n : Fin 33} {ce : Nat} {ue : Bool} (gone : hbmHere s (a.val / 8 * 8) = false) :
    exec (.hbmRead a n ce ue) s = .next (answer s .notPresent (List.replicate n.val poisonW)) :=
  congrArg Host.Outcome.next (if_pos (by simp [gone]))

theorem exec_hbmWrite_of_here {data : List Byte} (here : hbmHere s a.val = true) (some_ : data ≠ [])
    (fits : a.val + data.length ≤ hbmEnd a.val) :
    exec (.hbmWrite a data false) s = .next (answer (writeBytes (mendLines s a.val data.length) a.val data) .ok []) := by
  have length : Nat.min data.length (hbmEnd a.val - a.val) = data.length := Nat.min_eq_left (by omega)
  have whole : data.take (hbmEnd a.val - a.val) = data := List.take_of_length_le (by omega)
  refine congrArg Host.Outcome.next ((if_neg (by simp [here])).trans ?_)
  simp [portWrite, length, whole, some_]

theorem exec_hbmWrite_of_absent {data : List Byte} {p : Bool} (gone : hbmHere s a.val = false) :
    exec (.hbmWrite a data p) s = .next (answer s .notPresent []) :=
  congrArg Host.Outcome.next (if_pos (by simp [gone]))

theorem exec_hbmScrub_of_on (here : hbmHere s a.val = true) (on : rdF s R.hbmCfg (a.val / 0x400000000) 0 7 0 ≠ 0) :
    exec (.hbmScrub a) s = .next (readWord s (a.val / 8 * 8) true).1 :=
  congrArg Host.Outcome.next (if_neg (by simp [here, on]))

theorem exec_hbmScrub_of_off (off : rdF s R.hbmCfg (a.val / 0x400000000) 0 7 0 = 0) : exec (.hbmScrub a) s = .next s :=
  congrArg Host.Outcome.next (if_pos (.inr off))

/-! ## BAR2 (R263, R353, R423) -/

section Bar2
variable {b : Byte}

/-- A byte ends before its stack does. -/
theorem take_hbmEnd_byte : [b].take (hbmEnd a.val - a.val) = [b] := by
  refine List.take_of_length_le ?_
  simp only [List.length_singleton, hbmEnd]
  omega

/-- A write of one byte is one run. -/
theorem bar2Runs_byte (at_ : Nat) : bar2Runs 2 at_ [b] = [(at_, [b])] := by
  have run : [b].take (0x200000 - at_ % 0x200000) = [b] := List.take_of_length_le (by simp only [List.length_singleton]; omega)
  have rest : [b].drop (0x200000 - at_ % 0x200000) = [] := List.drop_eq_nil_of_le (by simp only [List.length_singleton]; omega)
  rw [bar2Runs]
  simp only [run, rest, bar2Runs]
  exact List.cons_ne_nil _ _

/-- The one run of a write of one byte, as the write cuts it. -/
theorem bar2Runs_of_byte : bar2Runs ([b].length / 0x200000 + 2) a.val ([b].take (hbmEnd a.val - a.val)) = [(a.val, [b])] := by
  have two : [b].length / 0x200000 + 2 = 2 := by norm_num
  rw [take_hbmEnd_byte, two, bar2Runs_byte]

theorem bar2Write_of_plain (here : hbmHere s a.val = true) (plain : inRegion s 4 a.val = false) :
    bar2Write s a.val [b] false = writeBytes (mendLines s a.val 1) a.val [b] := by
  refine (if_neg (by simp [here])).trans ?_
  rw [bar2Runs_of_byte]
  refine (if_neg (by simp [plain])).trans ?_
  rw [List.foldl_cons, List.foldl_nil, if_neg (by simp [plain]), portWrite, take_hbmEnd_byte]
  rfl

theorem bar2Write_of_pattern {p : Bool} (here : hbmHere s a.val = true) (pattern : inRegion s 4 a.val = true) :
    bar2Write s a.val [b] p = bump (raise s E.hbm (a.val / 0x400000000) 4) R.hbmCount (a.val / 0x400000000) 5 1 := by
  refine (if_neg (by simp [here])).trans ?_
  rw [bar2Runs_of_byte]
  exact (if_pos (by simp [pattern])).trans (by rw [List.foldl_cons, List.foldl_nil, if_pos pattern])

theorem exec_bar2Write_of_sent {data : List Byte} {p : Bool} {d : Nat} {e : RtEntry} (way : wayOf s 39 a.val = .send d e)
    (up : fnState s (niDomain d) = 0) : exec (.bar2Write a data p) s = .next (bar2Write s a.val data p) := by
  have gate : gateOf s (niDomain d) = .pass := by simp only [gateOf, up]
  have pass : gatePass s (niDomain d) = s := if_neg (by simp [up])
  refine congrArg Host.Outcome.next ?_
  simp only [hostWrite, way, gate, pass]

/-- A write that the route table answers at its source. -/
theorem exec_bar2Write_of_way {data : List Byte} {p : Bool} :
    (wayOf s 39 a.val = .noMem → exec (.bar2Write a data p) s = .next (bump s R.pcieDrop 0 0 1)) ∧
    (wayOf s 39 a.val = .miss → exec (.bar2Write a data p) s = .next (bump (noteMiss s 39) R.pcieDrop 0 0 1)) ∧
    (wayOf s 39 a.val = .fenced → exec (.bar2Write a data p) s = .next (bump (noteFenced s 39) R.pcieDrop 0 0 1)) ∧
    (wayOf s 39 a.val = .absent_ → exec (.bar2Write a data p) s = .next s) := by
  have written {t : State} (h : hostWrite s a.val (fun t => bar2Write t a.val data p) = t) : exec (.bar2Write a data p) s = .next t :=
    congrArg Host.Outcome.next h
  refine ⟨fun way => written ?_, fun way => written ?_, fun way => written ?_, fun way => written ?_⟩
  all_goals simp only [hostWrite, way]

end Bar2

end Hbm

/-- Settles O21, row by row from the equations above. The model's choices in it: what an uncorrectable word becomes (log entries 24 and 126),
which other words of a line a short HBM write mends (log entry 165), a scrubber that is off (log entry 5), and that a BAR2 write is dropped
where its target does not take it (log entry 173). -/
theorem memoryPorts : Obligations.MemoryPorts := by
  refine ⟨?clean, ?single, ?poison, ?double, ?absent, ?write, ?writePoison, ?writeAbsent, ?scrub, ?noScrub, ?hbm, ?ondie, ?noHbm,
    ?hbmWrite, ?noHbmWrite, ?bar2, ?ways, ?hbmScrub, ?noHbmScrub⟩
  case clean => exact fun _ _ _ here mark => exec_benchMemRead_of_here here (readWord_bench_clean here mark)
  case single => exact fun _ _ _ here untouched keep mark => exec_benchMemRead_of_here here (readWord_bench_single here untouched keep mark)
  case poison => exact fun _ _ _ here mark => exec_benchMemRead_of_here here (readWord_bench_poison here mark)
  case double =>
    exact fun _ _ _ here untouched mark =>
      ⟨_, exec_benchMemRead_of_here here (readWord_bench_double here untouched mark), rfl, rfl⟩
  case absent => exact fun _ _ _ gone => exec_benchMemRead_of_absent gone
  case write => exact fun _ _ _ _ here whole eight => exec_benchMemWrite_of_clean here whole eight
  case writePoison => exact fun _ _ _ _ here whole eight => exec_benchMemWrite_of_poison here whole eight
  case writeAbsent => exact fun _ _ _ _ _ gone => exec_benchMemWrite_of_absent gone
  case scrub => exact fun _ _ _ here on => exec_scrubAccess_of_on here on
  case noScrub => exact fun _ _ _ off => exec_scrubAccess_of_off off
  case hbm => exact fun _ _ _ _ here unarmed => exec_hbmRead_of_here here unarmed false
  case ondie => exact fun _ _ _ _ here unarmed => exec_hbmRead_of_here here unarmed true
  case noHbm => exact fun _ _ _ _ _ gone => exec_hbmRead_of_absent gone
  case hbmWrite => exact fun _ _ _ here some_ fits => exec_hbmWrite_of_here here some_ fits
  case noHbmWrite => exact fun _ _ _ _ gone => exec_hbmWrite_of_absent gone
  case bar2 =>
    intro a b d e s way up here
    refine ⟨fun plain => ?_, fun p pattern => ?_⟩
    · rw [exec_bar2Write_of_sent way up, bar2Write_of_plain here plain]
    · rw [exec_bar2Write_of_sent way up, bar2Write_of_pattern here pattern]
  case ways => exact fun _ _ _ _ => exec_bar2Write_of_way
  case hbmScrub => exact fun _ _ here on => exec_hbmScrub_of_on here on
  case noHbmScrub => exact fun _ _ off => exec_hbmScrub_of_off off

end Sys2Proof.Machine
end


section
/-! Stream queues (R243, R246, R247, R249–R252, R255–R257, R265): what a header, a word and the other operations of a queue do in
each case of O22 and O23, and the proofs of both. -/

namespace Sys2Proof.Machine

section Entry
variable {s : State} {b q : Nat} {src : Producer} {hdr : W64}

/-- Nothing strikes a word whose parity is right while no fault is armed (R256). -/
theorem entryCheck_of_disarmed (disarmed : rdB s R.qInj b q 0 = false) : entryCheck s b q false = (s, false) := by
  have off : bit (rd s R.qInj b q) 0 = false := disarmed
  simp [entryCheck, off]

theorem truncate_of_closed (closed : openPkt (queueOf s b q) = none) : truncate s b q = s := by
  rw [truncate, closed]

/-! ### The first failing check of a header (R246) -/

theorem hdrCheck_of_off (off : qOn s b q = false) : hdrCheck s b q src hdr = .state := if_pos (by simp [off])

theorem hdrCheck_of_foreign (on : qOn s b q = true) (foreign : ownSrc s b q src = false) : hdrCheck s b q src hdr = .notPermitted :=
  (if_neg (by simp [on])).trans (if_pos (by simp [foreign]))

theorem hdrCheck_of_reserved (on : qOn s b q = true) (own : ownSrc s b q src = true) (set : fld hdr 23 16 ≠ 0) :
    hdrCheck s b q src hdr = .badParam :=
  (if_neg (by simp [on])).trans ((if_neg (by simp [own])).trans (if_pos set))

theorem hdrCheck_of_large (on : qOn s b q = true) (own : ownSrc s b q src = true) (clear : fld hdr 23 16 = 0)
    (large : qWords s b q < fld hdr 15 0 + 1) : hdrCheck s b q src hdr = .lengthRange :=
  (if_neg (by simp [on])).trans ((if_neg (by simp [own])).trans ((if_neg (by simp [clear])).trans (if_pos large)))

theorem hdrCheck_of_right (on : qOn s b q = true) (own : ownSrc s b q src = true) (clear : fld hdr 23 16 = 0)
    (small : fld hdr 15 0 + 1 ≤ qWords s b q) : hdrCheck s b q src hdr = .ok :=
  (if_neg (by simp [on])).trans ((if_neg (by simp [own])).trans ((if_neg (by simp [clear])).trans (if_neg (Nat.not_lt.mpr small))))

/-! ### Which headers wait (R247, R253) -/

theorem mustHold_of_refused (refused : hdrCheck s b q src hdr ≠ .ok) : mustHold s b q src hdr = false := by
  simp [mustHold, refused]

/-- A MAC cannot be held. -/
theorem mustHold_mac (m : Fin 128) : mustHold s b q (.mac m) hdr = false := by simp [mustHold]

theorem mustHold_of_room (empty : (queueOf s b q).held = []) (fits : hdrFits s b q hdr = true) (flows : qXoff s b q = false) :
    mustHold s b q src hdr = false := by
  simp [mustHold, empty, fits, flows]

theorem mustHold_of_no_room (right : hdrCheck s b q src hdr = .ok) (none_ : hdrFits s b q hdr = false ∨ qXoff s b q = true)
    (notMac : ∀ m, src ≠ .mac m) : mustHold s b q src hdr = true := by
  have busy : (hdrFits s b q hdr && !qXoff s b q && (queueOf s b q).held.isEmpty) = false := by
    rcases none_ with full | xoff
    · simp [full]
    · simp [xoff]
  cases src with
  | mac m => exact absurd rfl (notMac m)
  | fabric _ => simp [mustHold, right, busy]
  | lace _ => simp [mustHold, right, busy]
  | host => simp [mustHold, right, busy]

end Entry

/-! ### A header at a queue with no packet open and no fault armed -/

section Header
variable {b : Fin 16} {q : Fin 64} {src : Producer} {hdr : W64} {s : State}

theorem exec_qHdrWrite_of_taken (here : benchHere s.variant b.val = true) (closed : openPkt (queueOf s b.val q.val) = none)
    (disarmed : rdB s R.qInj b.val q.val 0 = false) (enters : mustHold s b.val q.val src hdr = false) :
    exec (.qHdrWrite b q src hdr false) s = .next (takeHdr s b.val q.val src hdr) := by
  refine congrArg Host.Outcome.next ((if_neg (by simp [here])).trans ?_)
  simp only [truncate_of_closed closed, ite_self, enters, Bool.and_false, Bool.false_eq_true, if_false, entryCheck_of_disarmed disarmed]

theorem exec_qHdrWrite_of_held (here : benchHere s.variant b.val = true) (closed : openPkt (queueOf s b.val q.val) = none)
    (empty : (queueOf s b.val q.val).held = []) (waits : mustHold s b.val q.val src hdr = true) :
    exec (.qHdrWrite b q src hdr false) s = .next (syncQStat (answer
      (putQueue s b.val q.val { queueOf s b.val q.val with held := [(hdr, false)] }) .busy []) b.val q.val) := by
  refine congrArg Host.Outcome.next ((if_neg (by simp [here])).trans ?_)
  simp only [truncate_of_closed closed, ite_self, waits, Bool.not_false, Bool.and_true, if_true, empty, List.nil_append]

theorem takeHdr_of_refused {st : Status} {b q : Nat} (refused : hdrCheck s b q src hdr = st) (bad : st ≠ .ok) :
    takeHdr s b q src hdr = refuseHdr s b q st := by
  unfold takeHdr
  rw [refused]
  cases st with
  | ok => exact absurd rfl bad
  | _ => rfl

theorem takeHdr_of_right {b q : Nat} (right : hdrCheck s b q src hdr = .ok) : takeHdr s b q src hdr =
    if hdrFits s b q hdr then acceptHdr s b q hdr else answer (raiseI (bump s (R.qCount 4) b q 1) E.q b q 0x40#32) .noResource [] := by
  rw [takeHdr, right]

theorem exec_qHdrWrite_of_refused {st : Status} (here : benchHere s.variant b.val = true) (closed : openPkt (queueOf s b.val q.val) = none)
    (disarmed : rdB s R.qInj b.val q.val 0 = false) (refused : hdrCheck s b.val q.val src hdr = st) (bad : st ≠ .ok) :
    exec (.qHdrWrite b q src hdr false) s = .next (refuseHdr s b.val q.val st) := by
  rw [exec_qHdrWrite_of_taken here closed disarmed (mustHold_of_refused (refused ▸ bad)), takeHdr_of_refused refused bad]

end Header

/-- Settles O22: the checks of R246 in their order, then room, XOFF and the kind of producer. -/
theorem queueHeaders : Obligations.QueueHeaders := by
  intro b q src hdr s here empty closed disarmed
  have refuse {st : Status} (refused : hdrCheck s b.val q.val src hdr = st) (bad : st ≠ .ok) :=
    exec_qHdrWrite_of_refused here closed disarmed refused bad
  refine ⟨?off, ?foreign, ?reserved, ?large, ?accepted, ?dropped, ?held⟩
  case off => exact fun off => refuse (hdrCheck_of_off off) (by decide)
  case foreign => exact fun on foreign => refuse (hdrCheck_of_foreign on foreign) (by decide)
  case reserved => exact fun on own set => refuse (hdrCheck_of_reserved on own set) (by decide)
  case large => exact fun on own clear large => refuse (hdrCheck_of_large on own clear large) (by decide)
  case accepted =>
    intro on own clear small fits way
    have enters : mustHold s b.val q.val src hdr = false := by
      rcases way with flows | ⟨m, rfl⟩
      · exact mustHold_of_room empty fits flows
      · exact mustHold_mac m
    rw [exec_qHdrWrite_of_taken here closed disarmed enters, takeHdr_of_right (hdrCheck_of_right on own clear small), if_pos fits]
  case dropped =>
    rintro on own clear small full ⟨m, rfl⟩
    rw [exec_qHdrWrite_of_taken here closed disarmed (mustHold_mac m), takeHdr_of_right (hdrCheck_of_right on own clear small),
      if_neg (by simp [full])]
  case held =>
    exact fun on own clear small none_ notMac => exec_qHdrWrite_of_held here closed empty
      (mustHold_of_no_room (hdrCheck_of_right on own clear small) none_ notMac)

/-! ## Words, pops and the other operations (R249–R252, R255–R257) -/

section Operations
variable {b : Fin 16} {q : Fin 64} {src : Producer} {w : TWord} {s : State}

theorem exec_qPushWord_of_open {p : QPkt} (here : benchHere s.variant b.val = true) (disarmed : rdB s R.qInj b.val q.val 0 = false)
    (opened : openPkt (queueOf s b.val q.val) = some p) (on : qOn s b.val q.val = true) (own : ownSrc s b.val q.val src = true) :
    exec (.qPushWord b q src w false) s = .next (
      let o := (p.start + 1 + p.got) % qWords s b.val q.val
      let t := putQueue (writeWord s (qAddr s b.val q.val o) w) b.val q.val { queueOf s b.val q.val with
        last := tickNow s, pkts := modLast (queueOf s b.val q.val).pkts fun r => { r with got := r.got + 1, poison := r.poison || w.2 } }
      syncQStat (wr (bump t (R.qCount 1) b.val q.val 1) R.qWrptr b.val q.val (w32 ((o + 1) % qWords s b.val q.val))) b.val q.val) := by
  refine congrArg Host.Outcome.next ((if_neg (by simp [here])).trans ?_)
  simp only [entryCheck_of_disarmed disarmed, opened, on, own, Bool.not_true, Bool.or_self, Bool.false_eq_true, if_false, Bool.false_or]

theorem exec_qPushWord_of_closed (here : benchHere s.variant b.val = true) (disarmed : rdB s R.qInj b.val q.val 0 = false)
    (closed : openPkt (queueOf s b.val q.val) = none) : exec (.qPushWord b q src w false) s =
    .next (raiseI (bump s (R.qCount 5) b.val q.val 1) E.q b.val q.val 0x80#32) := by
  refine congrArg Host.Outcome.next ((if_neg (by simp [here])).trans ?_)
  simp only [entryCheck_of_disarmed disarmed, closed]

theorem exec_qPopRead_of_available {n : Fin 257} (here : benchHere s.variant b.val = true) (on : qOn s b.val q.val = true)
    (port : qInplace s b.val q.val = false) (enough : n.val ≤ popAvail s b.val q.val (queueOf s b.val q.val).pkts) :
    exec (.qPopRead b q n []) s =
    .next (answer (popMany s b.val q.val [] 0 n.val).1 .ok (popMany s b.val q.val [] 0 n.val).2) :=
  congrArg Host.Outcome.next ((if_neg (by simp [here])).trans ((if_neg (by simp [on, port])).trans (if_neg (Nat.not_lt.mpr enough))))

theorem exec_qReleaseWrite_of_inplace {n : Fin 65536} (here : benchHere s.variant b.val = true) (inplace : qInplace s b.val q.val = true)
    (held : n.val ≤ (queueOf s b.val q.val).pkts.length) : exec (.qReleaseWrite b q n) s = .next (releaseN s b.val q.val n.val) :=
  congrArg Host.Outcome.next ((if_pos (by simp [here, inplace])).trans (congrArg (releaseN s b.val q.val) (Nat.min_eq_left held)))

theorem exec_qReleaseWrite_of_port {n : Fin 65536} (port : qInplace s b.val q.val = false) : exec (.qReleaseWrite b q n) s = .next s :=
  congrArg Host.Outcome.next (if_neg (by simp [port]))

theorem exec_qAbortWrite_of_own (on : qOn s b.val q.val = true) (own : ownSrc s b.val q.val src = true) :
    exec (.qAbortWrite b q src) s = .next (truncate s b.val q.val) :=
  congrArg Host.Outcome.next (if_pos (by simp [on, own]))

theorem exec_qPktTimeout_of_stale (set : rdF s R.qCfg b.val q.val 23 16 ≠ 0)
    (late : (queueOf s b.val q.val).last + rdF s R.qCfg b.val q.val 23 16 < tickNow s) :
    exec (.qPktTimeout b q) s = .next (truncate s b.val q.val) :=
  congrArg Host.Outcome.next (if_pos (by simp [pktStale, set, late]))

/-- Before PKT_TMO ticks are over, and with none set, no packet is truncated (log entry 5). -/
theorem exec_qPktTimeout_of_fresh (fresh : rdF s R.qCfg b.val q.val 23 16 = 0 ∨
    tickNow s ≤ (queueOf s b.val q.val).last + rdF s R.qCfg b.val q.val 23 16) : exec (.qPktTimeout b q) s = .next s := by
  refine congrArg Host.Outcome.next (if_neg ?_)
  simp only [pktStale, ne_eq, Bool.and_eq_true, decide_eq_true_eq]
  omega

theorem exec_qFlush_of_off (here : benchHere s.variant b.val = true) (off : qOn s b.val q.val = false) :
    exec (.qFlush b q) s = .next (emptyQueue s b.val q.val) :=
  congrArg Host.Outcome.next (if_pos (by simp [here, off]))

theorem exec_qFlush_of_on (on : qOn s b.val q.val = true) : exec (.qFlush b q) s = .next s :=
  congrArg Host.Outcome.next (if_neg (by simp [on]))

theorem exec_qXcntRead_of_here (here : benchHere s.variant b.val = true) : exec (.qXcntRead b q) s =
    .next (answer (wr s R.qXcnt b.val q.val 0) .ok [cleanW (rd s R.qXcnt b.val q.val).toNat]) :=
  congrArg Host.Outcome.next (if_pos here)

theorem exec_qInjArm_of_may {who : Writer} {k : Fin 65536} (here : benchHere s.variant b.val = true) (may : mayInject s who = true) :
    exec (.qInjArm who b q k) s = .next (wr s R.qInj b.val q.val (packF [(0, 1), (1, k.val)])) :=
  congrArg Host.Outcome.next (if_pos (by simp [here, may]))

theorem queueStatus_of_here {p : Req} {x : W32} (ps : p.params = [x]) (bits : onlyBits x 0x3FF#32 = true)
    (here : benchHere s.variant (fld x 3 0) = true) : queueStatus p s =
    doneW s [rd s R.qStat (fld x 3 0) (fld x 9 4), w32 (queueOf s (fld x 3 0) (fld x 9 4)).occ, rd s R.qEvt (fld x 3 0) (fld x 9 4),
      rd s R.qXcnt (fld x 3 0) (fld x 9 4), rd s R.qRdptr (fld x 3 0) (fld x 9 4), rd s R.qWrptr (fld x 3 0) (fld x 9 4)] := by
  rw [queueStatus, par_zero ps]
  exact (if_neg (by simp [wellFormed, ps, bits])).trans (if_neg (by simp [here]))

end Operations

/-- Settles O23, row by row from the equations above. The model's choice in it: a time-out that has not come changes nothing (log
entry 5). -/
theorem queueWords : Obligations.QueueWords := by
  refine ⟨?push, ?orphan, ?pop, ?release, ?port, ?abort, ?stale, ?fresh, ?flush, ?flushOn, ?xcnt, ?inject, ?status⟩
  case push => exact fun _ _ _ _ _ _ here disarmed opened on own => exec_qPushWord_of_open here disarmed opened on own
  case orphan => exact fun _ _ _ _ _ here disarmed closed => exec_qPushWord_of_closed here disarmed closed
  case pop => exact fun _ _ _ _ here on port enough => exec_qPopRead_of_available here on port enough
  case release => exact fun _ _ _ _ here inplace held => exec_qReleaseWrite_of_inplace here inplace held
  case port => exact fun _ _ _ _ port => exec_qReleaseWrite_of_port port
  case abort => exact fun _ _ _ _ on own => exec_qAbortWrite_of_own on own
  case stale => exact fun _ _ _ set late => exec_qPktTimeout_of_stale set late
  case fresh => exact fun _ _ _ fresh => exec_qPktTimeout_of_fresh fresh
  case flush => exact fun _ _ _ here off => exec_qFlush_of_off here off
  case flushOn => exact fun _ _ _ on => exec_qFlush_of_on on
  case xcnt => exact fun _ _ _ here => exec_qXcntRead_of_here here
  case inject => exact fun _ _ _ _ _ here may => exec_qInjArm_of_may here may
  case status =>
    intro p s w h ps bits here
    exact congrArg Host.Outcome.next (runCommand_answers h (congrArg some (queueStatus_of_here ps bits here)) rfl
      (unseated_seated h.free) rfl rfl)

end Sys2Proof.Machine
end


section
/-! DMA channels (R60–R64): the start, the abort, the task and a request of a COPY descriptor, and the proof of O25. -/

namespace Sys2Proof.Machine

section Channel
variable {b : Fin 16} {n : Fin 4} {s : State}

theorem exec_dmaStart_of_host (here : benchHere s.variant b.val = true) (host : rdB s R.dmaCtl b.val n.val 0 = true)
    (stopped : dmaState s b.val n.val ≠ 1) : exec (.dmaStart b n) s =
    .next (dmaBegin s b.val n.val (pair64 (rd s R.dmaDescLo b.val n.val) (rd s R.dmaDescHi b.val n.val)) none) :=
  congrArg Host.Outcome.next (if_pos (by simp [here, host, stopped]))

theorem exec_dmaStart_of_running (runs : dmaState s b.val n.val = 1) : exec (.dmaStart b n) s = .next s :=
  congrArg Host.Outcome.next (if_neg (by simp [runs]))

theorem exec_dmaAbort_of_running (here : benchHere s.variant b.val = true) (runs : dmaState s b.val n.val = 1) :
    exec (.dmaAbort b n) s = .next (setDma s b.val n.val { dmaOf s b.val n.val with abort := true }) :=
  congrArg Host.Outcome.next (if_pos (by simp [here, runs]))

/-- The start of the next staged task of a channel in SCHED mode. -/
theorem dmaTaskStart_of_staged {s1 : State} {i : Nat} {t : Task} (sched : rdB s R.dmaCtl b.val n.val 0 = false)
    (stopped : dmaState s b.val n.val ≠ 1) (up : awake s b.val = true) (staged : beginTask s (dmaSite b n) = some (s1, i, t)) :
    dmaTaskStart s b n = dmaBegin s1 b.val n.val t.param (some i) := by
  refine (if_neg (by simp [sched, stopped, up])).trans ?_
  rw [staged]

theorem exec_dmaTaskStart_of_staged {s1 : State} {i : Nat} {t : Task} (sched : rdB s R.dmaCtl b.val n.val 0 = false)
    (stopped : dmaState s b.val n.val ≠ 1) (up : awake s b.val = true) (staged : beginTask s (dmaSite b n) = some (s1, i, t)) :
    exec (.dmaTaskStart b n) s = .next (dmaBegin s1 b.val n.val t.param (some i)) :=
  congrArg Host.Outcome.next (dmaTaskStart_of_staged sched stopped up staged)

end Channel

/-! ## Requests of a COPY descriptor (R62) -/

/-- The address that the request in progress reads, for a descriptor without strides. -/
def srcAddr (c : DmaChan) : Nat := reqAddr (dAddr c.desc 4) 0 c

/-- The address that it writes. -/
def dstAddr (c : DmaChan) : Nat := reqAddr (dAddr c.desc 6) 0 c

/-- The words that it moves. -/
def copyWords (c : DmaChan) : Nat := reqWords c.desc c (srcAddr c) (dstAddr c)

theorem dStride_of_copy {d : List W32} (copy : dOp d = 0) (k : Nat) : dStride d k = 0 := if_neg (by simp [copy])

section Request
variable {b n : Nat} {s s1 s2 : State} {ws : List MWord} {src dst : Over}

/-- A request whose read and write succeed moves the chain on. -/
theorem dmaRequest_of_copied (runs : dmaState s b n = 1) (copy : dOp (dmaOf s b n).desc = 0) (fetched : (dmaOf s b n).desc ≠ [])
    (reads : netRead s b (srcAddr (dmaOf s b n)) (copyWords (dmaOf s b n)) src = (s1, .ok, ws)) (clean : (ws.any fun x => x.2) = false)
    (writes : netWrite s1 b (dstAddr (dmaOf s b n)) ws dst = (s2, .ok)) :
    dmaRequest s b n src dst = dmaAdvance s2 b n (copyWords (dmaOf s b n)) := by
  simp only [srcAddr, dstAddr, copyWords] at reads writes ⊢
  simp only [dmaRequest, runs, fetched, List.isEmpty_iff, dStride_of_copy copy, copy, reads, clean, writes, ne_eq, not_true_eq_false,
    Bool.false_eq_true, if_false, OfNat.zero_ne_ofNat]

/-- A request whose read fails ends the chain with SRC_FAULT, whatever the status (log entry 112). -/
theorem dmaRequest_of_src_fault {st : Status} (runs : dmaState s b n = 1) (copy : dOp (dmaOf s b n).desc = 0)
    (fetched : (dmaOf s b n).desc ≠ []) (reads : netRead s b (srcAddr (dmaOf s b n)) (copyWords (dmaOf s b n)) src = (s1, st, ws))
    (fails : st ≠ .ok) : dmaRequest s b n src dst = dmaEnd s1 b n 3 4 (st16 st) := by
  simp only [srcAddr, dstAddr, copyWords] at reads
  simp only [dmaRequest, runs, fetched, List.isEmpty_iff, dStride_of_copy copy, copy, reads, fails, ne_eq, not_true_eq_false,
    not_false_eq_true, if_true, if_false, OfNat.zero_ne_ofNat]

end Request

/-- Settles O25, row by row from the equations above. The model's choice in it: every failing status of a read ends the channel with
SRC_FAULT (log entry 112). -/
theorem dmaChains : Obligations.DmaChains := by
  refine ⟨?start, ?running, ?abort, ?task, ?copied, ?fault⟩
  case start => exact fun _ _ _ here host stopped => exec_dmaStart_of_host here host stopped
  case running => exact fun _ _ _ runs => exec_dmaStart_of_running runs
  case abort => exact fun _ _ _ here runs => exec_dmaAbort_of_running here runs
  case task => exact fun _ _ _ _ _ _ sched stopped up staged => exec_dmaTaskStart_of_staged sched stopped up staged
  case copied =>
    intro b n s s1 s2 ws runs copy fetched reads clean writes
    exact congrArg (settledNext s) (dmaRequest_of_copied runs copy fetched reads clean writes)
  case fault =>
    intro b n s s1 src dst st ws runs copy fetched reads fails _
    exact congrArg (settledNext s) (dmaRequest_of_src_fault runs copy fetched reads fails)

end Sys2Proof.Machine
end


section
/-! The limits taking effect (R17, R412): the Shores whose domain is excluded are kept too, which is why O24 fails. -/

namespace Sys2Proof.Machine

theorem OnlyEvents.gov {s t : State} (h : OnlyEvents s t) : t.gov = s.gov := (congrArg State.gov h :)
theorem OnlyEvents.cord {s t : State} (h : OnlyEvents s t) : t.cord = s.cord := (congrArg State.cord h :)

theorem foldl_events {α : Type} {f : State → α → State} (each : ∀ t x, OnlyEvents t (f t x)) :
    ∀ (l : List α) (s : State), OnlyEvents s (l.foldl f s)
  | [], s => .refl s
  | x :: l, s => (each s x).trans (foldl_events each l (f s x))

theorem govSync_events (s : State) : OnlyEvents s (govSync s) :=
  ((foldl_events (fun _ _ => wr_events ..) _ s).trans (wr_events ..)).trans (raiseIf_events ..)

theorem capSync_events (s : State) : OnlyEvents s (capSync s) :=
  (foldl_events (fun _ _ => wr_events ..) _ s).trans (govSync_events _)

/-- The exclusion registers of benches and coding halves after the limits take effect. -/
def exclTaken (s : State) : State :=
  ((List.range 2).filter (halfHere s.variant)).foldl
    (fun a h => wr (wr a R.gvExclPoolLo 0 h (lo32 (exclPool s h))) R.gvExclPoolHi 0 h (hi32 (exclPool s h)))
    (((List.range 16).filter (benchHere s.variant)).foldl
      (fun a b => wr a R.gvExcl 0 b (packF [(0, exclBench s b), (16, nth s.gov.hostB b 0)])) s)

theorem exclTaken_events (s : State) : OnlyEvents s (exclTaken s) :=
  (foldl_events (fun _ _ => wr_events ..) _ s).trans (foldl_events (fun _ _ => (wr_events ..).trans (wr_events ..)) _ _)

/-- The Shores whose domain the limits exclude. -/
def shoresOut (s : State) : List Nat := (List.range 16).filter fun k => (domOf s (20 + k)).excl

theorem limitsTake_eq (s : State) : limitsTake s = capSync (returnStaged (setGov (exclTaken s) fun g => { g with shores := shoresOut s })
    fun x => excluded (setGov (exclTaken s) fun g => { g with shores := shoresOut s }) x) := rfl

theorem returnStaged_of_no_tasks {s : State} {p : Site → Bool} (none_ : s.cord.tasks = []) : returnStaged s p = s := by
  rw [returnStaged, none_]
  rfl

/-- With no task to return, the Shores that stand afterwards are those that stood before the capacities were taken. -/
theorem capSync_returnStaged_shores {s : State} {p : Site → Bool} (none_ : s.cord.tasks = []) :
    (capSync (returnStaged s p)).gov.shores = s.gov.shores := by
  rw [returnStaged_of_no_tasks none_, (capSync_events s).gov]

/-- A device that excludes the domain of Shore 0, before its limits take effect. -/
def shoreShutOut : State := setDom State.reset 20 fun d => { d with excl := true }

theorem exclTaken_shoreShutOut : (exclTaken shoreShutOut).cord.tasks = [] ∧ (exclTaken shoreShutOut).gov.shores = [] := by
  rw [(exclTaken_events shoreShutOut).cord, (exclTaken_events shoreShutOut).gov]
  exact ⟨rfl, rfl⟩

theorem limitsTake_shoreShutOut : (limitsTake shoreShutOut).gov.shores = [0] := by
  have idle : (setGov (exclTaken shoreShutOut) fun g => { g with shores := shoresOut shoreShutOut }).cord.tasks = [] := by
    rw [setGov_cord]
    exact exclTaken_shoreShutOut.1
  rw [limitsTake_eq, capSync_returnStaged_shores idle, setGov_gov]
  decide

/-- Refutes O24: its clause for `LIMIT_TAKE_EFFECT` gives the exclusion registers of benches and coding halves and leaves out that the
excluded Shores are kept too, where the sites of their MACs are looked up (`limitsTake_eq`). In `shoreShutOut` Shore 0 is shut out
afterwards, where the clause has none. -/
theorem not_registerWrites : ¬ Obligations.RegisterWrites := by
  rintro ⟨-, -, -, -, -, -, -, -, -, -, limits⟩
  have claimed : limitsTake shoreShutOut = capSync (returnStaged (exclTaken shoreShutOut) fun x => excluded (exclTaken shoreShutOut) x) :=
    Host.Outcome.next.inj (limits shoreShutOut)
  obtain ⟨idle, noShore⟩ := exclTaken_shoreShutOut
  have shores : (limitsTake shoreShutOut).gov.shores = [] := by
    rw [claimed, capSync_returnStaged_shores idle, noShore]
  exact absurd (limitsTake_shoreShutOut.symm.trans shores) (by decide)

end Sys2Proof.Machine
end


section
/-! Tasks (R65, R286, R289, R292, R299, R328): the grant of a staging slot and the start at each kind of site, and the proof of O26. -/

namespace Sys2Proof.Machine

/-! ## Staging and placing (R65, R292, R328) -/

section Grants
variable {x : Site} {s : State} {i : Nat} {t : Task}

theorem exec_dsStage_of_granted (first : ((stagedAt s x).find? fun e => !e.2.arrived) = some (i, t)) :
    exec (.dsStage x) s = .next (putTask s i { t with arrived := true }) := by
  refine congrArg Host.Outcome.next ?_
  rw [first]

/-- A site that is absent, excluded, in HOST mode, asleep or full takes nothing. -/
theorem grantAt_of_closed (closed : siteHere s.variant x = false ∨ excluded s x = true ∨ siteHosted s x = true ∨ siteAwake s x = false ∨
    stageDepth s x ≤ slotsUsed s x) : grantAt s x = s :=
  if_pos (by simpa only [Bool.not_eq_true'] using closed)

theorem grantAt_of_open (here : siteHere s.variant x = true) (free : excluded s x = false) (sched : siteHosted s x = false)
    (up : siteAwake s x = true) (room : slotsUsed s x < stageDepth s x)
    (first : ((sortBy (ranksBefore s) (s.cord.tasks.filter fun e => decide (e.2.cls = siteClass x) && eligible s e)).find? fun e =>
      takesPf s x e.2 || takesSpill s x e.2) = some (i, t)) : grantAt s x = (
      let t1 := setCord (putTask s i { t with st := .staged, site := some x, arrived := false, sseq := s.cord.sctr }) fun c =>
        { c with sctr := c.sctr + 1 }
      if takesPf s x t = true then t1 else bump t1 R.gvCount 0 18 1) := by
  refine (if_neg (by simp [here, free, sched, up, room])).trans ?_
  simp only [first]

end Grants

/-! ## Starts (R286) -/

section Starts
variable {s s1 : State} {i : Nat} {t : Task}

/-- The core that begins a task (R112). -/
theorem coreTaskStart_of_staged {b : Fin 16} {c : Fin 8} (idle : (coreOf s b.val c.val).task = none) (up : awake s b.val = true)
    (staged : beginTask s (.bench b ⟨c.val, by omega⟩) = some (s1, i, t)) : coreTaskStart s { bench := b, core := c } =
    putCore s1 b.val c.val { coreOf s b.val c.val with
      pc := w32 (0x80000 + 16 * t.entry), status := 0x43000#32, taskPc := w32 (0x80000 + 16 * t.entry),
      taskParam := coreAddrOf b.val c.val t.param, taskId := w32 i, task := some i, idle := false, waiting := false,
      holdN := 0, wdFirst := false, wdAt := tickNow s1, pre := [] } := by
  refine (if_neg (by simp [idle, up])).trans ?_
  rw [staged]

/-- A core goes on with the task it has (log entry 5). -/
theorem coreTaskStart_of_busy {id : CoreId} (busy : (coreOf s id.bench.val id.core.val).task ≠ none) : coreTaskStart s id = s :=
  if_pos (.inl (Option.isSome_iff_ne_none.mpr busy))

theorem exec_engineTaskStart_of_absent {x : Site} (gone : siteHere s.variant x = false) : exec (.engineTaskStart x) s = .next s :=
  congrArg Host.Outcome.next (if_neg (by simp [gone]))

theorem exec_engineTaskStart_of_here {x : Site} {u : State} (here : siteHere s.variant x = true) (start : engineStart s x = u) :
    exec (.engineTaskStart x) s = .next (settled s u) :=
  congrArg Host.Outcome.next ((if_pos here).trans (congrArg (settled s) start))

theorem engineStart_core (b : Fin 16) (c : Fin 8) :
    engineStart s (.bench b ⟨c.val, by omega⟩) = coreTaskStart s { bench := b, core := c } := dif_pos c.isLt

theorem engineStart_dma (b : Fin 16) (n : Fin 4) : engineStart s (dmaSite b n) = dmaTaskStart s b n := by
  have channel : (⟨12 + n.val - 12, by omega⟩ : Fin 4) = n := Fin.ext (by simp)
  have above (k : Nat) (h : k < 12) : ¬ 12 + n.val = k := by omega
  exact (dif_neg (by simp only; omega)).trans ((if_neg (above 8 (by decide))).trans ((if_neg (above 9 (by decide))).trans
    ((if_neg (above 10 (by decide))).trans ((if_neg (above 11 (by decide))).trans (congrArg (dmaTaskStart s b) channel)))))

theorem siteHere_bench_of_ne {v : Variant} {b : Fin 16} {k : Fin 16} (here : benchHere v b.val = true) (notArray : k.val ≠ 11) :
    siteHere v (.bench b k) = true := (if_neg notArray).trans here

end Starts

/-! ## Notify engines (R299) -/

section Notify
variable {n : Fin 4} {s s1 s2 : State} {i : Nat} {t : Task} {b : List W32} (room : notifyWaits s n < 16)
  (staged : beginTask s (.notify n) = some (s1, i, t))
include room staged

/-- A NOTIFY of kind 0 is an event alone. -/
theorem notifyStart_of_event (reads : net32s s1 36 t.param 16 = (s2, .ok, b, false)) (right : notifyBad b = false)
    (local_ : fld (nth b 0 0) 1 0 = 0) :
    notifyStart s n none = complete (emitNotify s2 t (fld (nth b 1 0) 15 0)) i (st16 .ok) := by
  refine (if_neg (Nat.not_le.mpr room)).trans ?_
  rw [staged]
  simp only [reads, right, local_, ne_eq, not_true_eq_false, Bool.false_eq_true, if_true, if_false, zero_ne_one]

theorem notifyStart_of_poison (reads : net32s s1 36 t.param 16 = (s2, .ok, b, true)) :
    notifyStart s n none = complete s2 i (st16 .integrity) := by
  refine (if_neg (Nat.not_le.mpr room)).trans ?_
  rw [staged]
  simp only [reads, ne_eq, not_true_eq_false, if_true, if_false]

end Notify

/-- Settles O26, site by site from the equations above. The model's choices in it: a grant is a row of its own, and a start runs at the
site that the row names (log entry 84); a core that has a task, and a site that is absent, change nothing (log entry 5). -/
theorem tasksStart : Obligations.TasksStart := by
  refine ⟨?stage, fun _ _ => rfl, ?closed, ?grant, ?core, ?busy, ?absent, ?dma, ?engineCore, ?bench, ?array, ?pool, ?mac, fun _ _ => rfl,
    ?event, ?poison⟩
  case stage => exact fun _ _ _ _ first => exec_dsStage_of_granted first
  case closed => exact fun _ _ closed => grantAt_of_closed closed
  case grant => exact fun _ _ _ _ here free sched up room first => grantAt_of_open here free sched up room first
  case core => exact fun _ _ _ _ _ idle up staged => congrArg Host.Outcome.next (coreTaskStart_of_staged idle up staged)
  case busy => exact fun _ _ busy => congrArg Host.Outcome.next (coreTaskStart_of_busy busy)
  case absent => exact fun _ _ gone => exec_engineTaskStart_of_absent gone
  case dma =>
    intro b n s s1 i t here sched stopped up staged
    exact exec_engineTaskStart_of_here (siteHere_bench_of_ne here (by simp only; omega))
      ((engineStart_dma b n).trans (dmaTaskStart_of_staged sched stopped up staged))
  case engineCore =>
    intro b c s s1 i t here idle up staged
    exact exec_engineTaskStart_of_here (siteHere_bench_of_ne here (by simp only; omega))
      ((engineStart_core b c).trans (coreTaskStart_of_staged idle up staged))
  case bench =>
    intro b s here
    exact ⟨exec_engineTaskStart_of_here (siteHere_bench_of_ne here (by decide)) rfl,
      exec_engineTaskStart_of_here (siteHere_bench_of_ne here (by decide)) rfl,
      exec_engineTaskStart_of_here (siteHere_bench_of_ne here (by decide)) rfl⟩
  case array => exact fun _ _ here => exec_engineTaskStart_of_here here rfl
  case pool => exact fun _ _ _ here => exec_engineTaskStart_of_here here rfl
  case mac => exact fun _ _ here => ⟨exec_engineTaskStart_of_here here rfl, exec_engineTaskStart_of_here here rfl⟩
  case event =>
    exact fun n s s1 s2 i t b room staged reads right local_ => congrArg (settledNext s) (notifyStart_of_event room staged reads right local_)
  case poison =>
    exact fun n s s1 s2 i t b room staged reads => congrArg (settledNext s) (notifyStart_of_poison room staged reads)

end Sys2Proof.Machine
end


section
/-! Completions, releases, erasure and notices (R286, R288, R294, R295, R297, R300–R302), and the proof of O27. -/

namespace Sys2Proof.Machine

section Completion
variable {s : State} {i : Nat} {st : W16} {r : List (Nat × W16)}

/-- The first completion ends a task that is staged or runs. -/
theorem takeCompletion_of_live {t : Task} (first : s.cord.inbox = (i, st) :: r) (task : taskOf s i = some t)
    (live : t.st = .staged ∨ t.st = .run) : takeCompletion s = finish (setCord s (fun c => { c with inbox := r }), [(i, st)]) := by
  have alive : (decide (t.st = .staged) || decide (t.st = .run)) = true := by simpa using live
  have same : taskOf (setCord s fun c => { c with inbox := r }) i = some t := task
  simp only [takeCompletion, first, same, alive, if_true]

/-- A completion for no task is an orphan (R294). -/
theorem takeCompletion_of_orphan (first : s.cord.inbox = (i, st) :: r) (none_ : taskOf s i = none) :
    takeCompletion s = raise (bump (setCord s fun c => { c with inbox := r }) R.cwCount 0 15 1) E.cw 0 10 := by
  have same : taskOf (setCord s fun c => { c with inbox := r }) i = none := none_
  simp only [takeCompletion, first, same, Bool.false_eq_true, if_false]

end Completion

/-! ## The delay lists (R288) -/

section Delay
variable {s : State} {i : Nat} {t : Task}

theorem putTask_of_only {t' : Task} (only : s.cord.tasks = [(i, t)]) : putTask s i t' = setCord s fun c => { c with tasks := [(i, t')] } := by
  have put : putKey s.cord.tasks i (some t') = [(i, t')] := by simp [only, putKey]
  rw [← put]
  rfl

/-- A task of classes 0 to 11 enters READY behind those that are there. -/
theorem enterReady_of_engine (low : t.cls < 12) : enterReady s i t false =
    (putTask (setCord s fun c => { c with rctr := c.rctr + 1 }) i { t with st := .ready, rseq := s.cord.rctr, rats := s.ats }, []) :=
  if_neg (by omega)

/-- The one delayed task whose tick has come becomes READY. -/
theorem delayRelease_of_only (only : s.cord.tasks = [(i, t)]) (delayed : t.st = .delay) (due : t.pastRel = true ∨ tickReached s t.release = true)
    (low : t.cls < 12) : delayRelease s = bump (setCord s fun c => { c with
      tasks := [(i, { t with st := .ready, rseq := s.cord.rctr, rats := s.ats })], rctr := c.rctr + 1 }) R.cwCount 0 5 0 := by
  have reached : releaseReached s t = true := by simpa [releaseReached] using due
  have list : sortBy (delayBefore s) (s.cord.tasks.filter fun e => decide (e.2.st = .delay) && releaseReached s e.2) = [(i, t)] := by
    simp [only, delayed, reached, sortBy, insertBy]
  have ready : finish (readyEach s [(i, t)]) = setCord s fun c => { c with
      tasks := [(i, { t with st := .ready, rseq := s.cord.rctr, rats := s.ats })], rctr := c.rctr + 1 } := by
    rw [readyEach, enterReady_of_engine low, putTask_of_only (s := setCord s fun c => { c with rctr := c.rctr + 1 }) only]
    rfl
  simp only [delayRelease, list, List.take_succ_cons, List.take_nil, ready]
  rfl

end Delay

/-! ## Erasure (R297) -/

theorem eraseDone_of_written {s s1 s2 : State} {i : Nat} {t : Task} (task : taskOf s i = some t) (erasing : t.st = .erase)
    (first : eraseLines s (eraseBase t t.er0.1) none t.er0.2 0 = (s1, none))
    (second : eraseLines s1 (eraseBase t t.er1.1) none t.er1.2 0 = (s2, none)) :
    eraseDone s i none = finish (modTask s2 i fun x => { x with skipped := true }, [(i, st16 .partialDone)]) := by
  simp only [eraseDone, task, erasing, ne_eq, not_true_eq_false, if_false, first, second, reduceCtorEq, or_self, Option.or_none,
    Option.getD_none]

/-! ## Records of other devices (R300, R301) -/

theorem toNat_packF_pair (a k b : Nat) : (packF [(0, a), (k, b)]).toNat = (a + 2 ^ k * b) % 2 ^ 32 := by
  simp [packF]

/-- What the Cordwainer reads in a completion record. -/
theorem remoteTake_complRec (src cell : W16) (rtick : W32) (tmpl : Fin 2048) (g : Fin 3) (seq : W32) (s : State) :
    remoteTake s (complRec src.toNat cell.toNat rtick.toNat tmpl.val g.val seq.toNat) =
      ((remoteRx s cell.toNat rtick.toNat tmpl.val g.val).1,
        ackRec (ownDev s) (remoteRx s cell.toNat rtick.toNat tmpl.val g.val).2 seq.toNat) := by
  have cell_ : fld (packF [(0, src.toNat), (16, cell.toNat)]) 31 16 = cell.toNat := by
    rw [fld, toNat_packF_pair]
    have := src.isLt
    have := cell.isLt
    omega
  have tmpl_ : fld (packF [(0, tmpl.val), (11, g.val)]) 10 0 = tmpl.val := by
    rw [fld, toNat_packF_pair]
    omega
  have group : Nat.min 2 (fld (packF [(0, tmpl.val), (11, g.val)]) 12 11) = g.val := by
    have read : fld (packF [(0, tmpl.val), (11, g.val)]) 12 11 = g.val := by
      rw [fld, toNat_packF_pair]
      omega
    rw [read]
    exact Nat.min_eq_right (by omega)
  have word (w : W32) : (w32 w.toNat).toNat = w.toNat := by simp [w32]
  simp only [remoteTake, complRec, nth, List.getElem?_cons_zero, List.getElem?_cons_succ, Option.getD_some, cell_, tmpl_, group, word]

/-! ## Early entries and acknowledgements (R301, R302) -/

section Notices
variable {s : State} {w : NotifyWait}

theorem exec_earlyEntryExpire_of_only {e : Early} (only : s.cord.early = [e]) (due : e.past = true ∨ tickReached s e.rtick = true) :
    exec .earlyEntryExpire s = .next (raise (bump (setCord s fun c => { c with early := [] }) R.cwCount 0 13 1) E.cw 0 8) := by
  have reached : earlyReached s e = true := by simpa [earlyReached] using due
  have first : s.cord.early.find? (earlyReached s) = some e := by simp [only, reached]
  have rest : removeFirst (fun x => decide (x = e)) s.cord.early = [] := by simp [only, removeFirst]
  refine congrArg Host.Outcome.next ?_
  simp only [first, setCord, rest]

theorem removeFirst_notify (only : s.cord.notify = [w]) : removeFirst (fun x => decide (x = w)) s.cord.notify = [] := by
  simp [only, removeFirst]

theorem ackTake_of_only {dev result seq : Nat} (only : s.cord.notify = [w]) (from_ : w.dev = dev) (number : w.seq = seq) :
    ackTake s dev result seq = complete (setCord s fun c => { c with notify := [] }) w.task (st16 (ackStatus result)) := by
  have first : (s.cord.notify.find? fun w => decide (w.dev = dev) && decide (w.seq = seq)) = some w := by simp [only, from_, number]
  simp only [ackTake, first, setCord, removeFirst_notify only]

theorem ackTake_of_late {dev result seq : Nat} (none_ : s.cord.notify = []) : ackTake s dev result seq = bump s R.cwCount 0 14 1 := by
  simp only [ackTake, none_, List.find?_nil]

theorem exec_notifyAckTimeout_of_only {seq : W32} (only : s.cord.notify = [w]) (number : w.seq = seq.toNat) : exec (.notifyAckTimeout seq) s =
    .next (complete (raise (setCord s fun c => { c with notify := [] }) E.cw 0 7) w.task (st16 .remoteUnreachable)) := by
  have first : (s.cord.notify.find? fun w => decide (w.seq = seq.toNat)) = some w := by simp [only, number]
  refine congrArg Host.Outcome.next ?_
  simp only [first, setCord, removeFirst_notify only]

end Notices

/-- Settles O27, row by row from the equations above. -/
theorem tasksComplete : Obligations.TasksComplete := by
  refine ⟨?live, ?orphan, ?delay, ?erase, ?remote, ?early, ?ack, ?late, ?timeout⟩
  case live =>
    exact fun s i st r t first task live => congrArg (fun x => Host.Outcome.next (wakeReady x)) (takeCompletion_of_live first task live)
  case orphan =>
    exact fun s i st r first none_ => congrArg (fun x => Host.Outcome.next (wakeReady x)) (takeCompletion_of_orphan first none_)
  case delay =>
    exact fun s i t only delayed due low => congrArg (fun x => Host.Outcome.next (wakeReady x)) (delayRelease_of_only only delayed due low)
  case erase =>
    exact fun i s s1 s2 t task erasing first second =>
      congrArg (fun x => settledNext s (wakeReady x)) (eraseDone_of_written task erasing first second)
  case remote =>
    intro src cell rtick tmpl g seq s
    refine ⟨_, _, rfl, rfl, ?_⟩
    simp only [remoteTake_complRec]
  case early => exact fun _ _ only due => exec_earlyEntryExpire_of_only only due
  case ack => exact fun _ _ _ _ _ only from_ number => congrArg Host.Outcome.next (ackTake_of_only only from_ number)
  case late => exact fun _ _ _ _ none_ => congrArg Host.Outcome.next (ackTake_of_late none_)
  case timeout => exact fun _ _ _ only number => exec_notifyAckTimeout_of_only only number

end Sys2Proof.Machine
end


section
/-! Instances, the deadline check and the governor's own steps (R275, R276, R287, R320, R329, R332, R334, R335), and the proof of O29. -/

namespace Sys2Proof.Machine

/-! ## Instantiation (R275, R276, R287) -/

section Creation
variable {s : State} {c : Cell} {t p num : Nat} {x : Pat}

/-- A slot whose pattern needs no request is turned into tasks in its time. -/
theorem instantiate_of_no_request (pat : patOf s p = some x) (noReq : reqOf x.image = 0) (number : nextInst s 16384 s.cord.nextNum = some num)
    (room : liveCount s + descCount x.image ≤ 131072) (inTime : tickNow s ≤ t - c.lead) (unskipped : s.tim.skipTo < t - c.lead) :
    instantiate s c p t = createInst s c p x.image t num none false none := by
  have outside : ¬ (s.tim.skipFrom ≤ t - c.lead ∧ t - c.lead ≤ s.tim.skipTo) := by omega
  have fits : ¬ 131072 < liveCount s + descCount x.image := by omega
  have onTime : decide (t - c.lead < tickNow s) = false := by simp; omega
  simp only [instantiate, pat, noReq, if_true, tryCreate, number, fits, if_false, outside, onTime]
  rfl

theorem exec_instantiate_of_no_request (first : firstDue s = some (c, t, p)) (pat : patOf s p = some x) (noReq : reqOf x.image = 0)
    (number : nextInst s 16384 s.cord.nextNum = some num) (room : liveCount s + descCount x.image ≤ 131072)
    (inTime : tickNow s ≤ t - c.lead) (unskipped : s.tim.skipTo < t - c.lead) : exec .instantiate s = .next (settled s
      (freeStopped (modCell (createInst s c p x.image t num none false none) c.h fun y => { y with from_ := t + 1 }))) := by
  refine congrArg Host.Outcome.next ?_
  simp only [first, instantiate_of_no_request pat noReq number room inTime unskipped]

theorem creationEnd_of_tasks {x : Inst} (oldest : creatingInst s = some x) (none_ : x.waiting = []) (tasks : x.live ≠ 0) : creationEnd s =
    finish (evalTasks (modInst s x.num fun y => { y with creating := false, waiting := [] }) (x.tasks.filterMap id)) := by
  simp only [creationEnd, oldest, none_, tasks, if_false, lateRemote]

theorem creationEnd_of_no_tasks {x : Inst} (oldest : creatingInst s = some x) (none_ : x.waiting = []) (noTasks : x.live = 0) :
    creationEnd s = retire (modInst s x.num fun y => { y with creating := false, waiting := [] }) x := by
  simp only [creationEnd, oldest, none_, noTasks, if_true, lateRemote]

end Creation

/-! ## The deadline check (R320) -/

theorem waits_of_lateTask {s : State} {i : Nat} {t : Task} (late : lateTask s (i, t) = true) :
    (decide (t.st = .staged) || decide (t.st = .run)) = false := by
  simp only [lateTask, Bool.and_eq_true, Bool.or_eq_true, decide_eq_true_eq] at late
  obtain ⟨⟨⟨(waits | delayed) | ready, -⟩, -⟩, -⟩ := late
  · simp [waits]
  · simp [delayed]
  · simp [ready]

/-- The one task past its deadline takes its late action. -/
theorem exec_deadlineCheck_of_only {s : State} {i : Nat} {t : Task} (only : s.cord.tasks = [(i, t)]) (late : lateTask s (i, t) = true) :
    exec .deadlineCheck s = .next (bump (lateAction s i) R.gvCount 0 17 0) := by
  have list (older : Nat × Task → Nat × Task → Bool) : sortBy older (s.cord.tasks.filter (lateTask s)) = [(i, t)] := by
    simp [only, late, sortBy, insertBy]
  have past : (s.cord.tasks.filter fun e => (decide (e.2.st = .staged) || decide (e.2.st = .run)) && deadlineReached s e.2 && !e.2.acted) = [] := by
    simp only [only, List.filter_cons, waits_of_lateTask late, Bool.false_and, Bool.false_eq_true, if_false, List.filter_nil]
  refine congrArg Host.Outcome.next ?_
  simp only [list, past]
  rfl

/-! ## Spares, the lookahead and the rings (R283, R332, R334, R335) -/

theorem exec_spareDesignateStartup_of_settled {s : State} (first : s.gov.started = false) (settled_ : arraysSettled s = true) :
    exec .spareDesignateStartup s = .next (designate (setGov s fun g => { g with started := true })) :=
  congrArg Host.Outcome.next (if_neg (by simp [first, settled_]))

theorem lookBench_events (s a : State) (b : Nat) : OnlyEvents a (lookBench s a b) := by
  unfold lookBench
  extract_lets _ l
  clear_value l
  cases l with
  | nil => exact wr_events ..
  | cons _ _ => exact (wr_events ..).trans (wr_events ..)

theorem wakeReady_of_no_tasks {s : State} (none_ : s.cord.tasks = []) : wakeReady s = s := by
  rw [wakeReady, none_]
  rfl

theorem exec_lookaheadRecompute_of_no_tasks {s : State} (none_ : s.cord.tasks = []) :
    exec .lookaheadRecompute s = .next (((List.range 16).filter (benchHere s.variant)).foldl (lookBench s) s) :=
  congrArg Host.Outcome.next (wakeReady_of_no_tasks
    ((congrArg Cord.tasks (foldl_events (fun a b => lookBench_events s a b) _ s).cord).trans none_))

section Ring
variable {r : Fin 64} {v : W32} {s : State}

theorem exec_srTailWrite_of_room (on : rdB s R.srCfg r.val 0 5 = true)
    (room : (fld v 16 0 + 2 ^ 17 - (rd s R.srDone r.val).toNat) % 2 ^ 17 ≤ ringSize s r.val) :
    exec (.srTailWrite r v) s = .next (wr s R.srTail r.val 0 (w32 (fld v 16 0))) :=
  congrArg Host.Outcome.next ((if_neg (by simp [on])).trans (if_neg (Nat.not_lt.mpr room)))

theorem exec_srTailWrite_of_overrun (on : rdB s R.srCfg r.val 0 5 = true)
    (overrun : ringSize s r.val < (fld v 16 0 + 2 ^ 17 - (rd s R.srDone r.val).toNat) % 2 ^ 17) :
    exec (.srTailWrite r v) s = .next (raise s E.cw 0 11) :=
  congrArg Host.Outcome.next ((if_neg (by simp [on])).trans (if_pos overrun))

end Ring

/-- Settles O29, row by row from the equations above. The model's choices in it: the tasks of a slot are written in one step (log entry 80), the
rounding of a load average is a free draw (83), and the check's order and limit (85). -/
theorem instancesAndDeadlines : Obligations.InstancesAndDeadlines := by
  refine ⟨?create, ?tasks, ?noTasks, ?late, ?load, ?spares, ?look, ?tail, ?overrun⟩
  case create =>
    exact fun _ _ _ _ _ _ first pat noReq number room inTime unskipped =>
      exec_instantiate_of_no_request first pat noReq number room inTime unskipped
  case tasks =>
    exact fun s x oldest none_ tasks => congrArg (fun y => Host.Outcome.next (wakeReady y)) (creationEnd_of_tasks oldest none_ tasks)
  case noTasks =>
    exact fun s x oldest none_ noTasks => congrArg (fun y => Host.Outcome.next (wakeReady y)) (creationEnd_of_no_tasks oldest none_ noTasks)
  case late => exact fun _ _ _ only late => exec_deadlineCheck_of_only only late
  case load => exact fun _ s => ⟨bit (drawFree s).1, rfl⟩
  case spares => exact fun _ first settled_ => exec_spareDesignateStartup_of_settled first settled_
  case look => exact fun _ none_ => exec_lookaheadRecompute_of_no_tasks none_
  case tail => exact fun _ _ _ on room => exec_srTailWrite_of_room on room
  case overrun => exact fun _ _ _ on overrun => exec_srTailWrite_of_overrun on overrun

end Sys2Proof.Machine
end


section
/-! The load of a pattern (R271, R308): a read that times out is noted at the Cordwainer's NI before the command ends, which is why O30
fails. -/

namespace Sys2Proof.Machine

theorem settle_of_no_waiting {s : State} (none_ : s.pn.waiting = []) : settle s = s := by
  rw [settle, none_]
  rfl

/-- A load whose command holds no stream ends without a reply. -/
theorem finishLoad_of_unheld {s : State} {l : PatLoad} {st : Status} {ws : List W32} (none_ : s.pn.held = []) :
    finishLoad s l st ws = setCord s fun c => { c with loads := c.loads.filter fun x => decide (x.index ≠ l.index) } :=
  if_neg (by simp [none_])

/-- The end of a read that timed out. -/
theorem patternRead_of_timeout {s : State} {i : Nat} {l : PatLoad} (load : (s.cord.loads.find? fun l => decide (l.index = i)) = some l) :
    patternRead s i (some (.timeout, [])) = finishLoad (netGiveUp s 36 l.src l.len) l .timeout [] := by
  rw [patternRead, load]
  rfl

/-- A load of 64 bytes into index 0 in a device after reset. -/
def firstLoad : PatLoad :=
  { index := 0, src := 0, len := 64, req := { stream := 10, tag := 0, note := false, crcv := false, self := false, source := 0, params := [] } }
def loading : State := setCord State.reset fun c => { c with loads := [firstLoad] }

/-- The read that is given up leaves one time-out counted, and no command. -/
theorem netGiveUp_loading : rd (netGiveUp loading 36 0 64) R.niCount 36 2 = 1#32 ∧ (netGiveUp loading 36 0 64).pn.waiting = [] ∧
    (netGiveUp loading 36 0 64).pn.held = [] ∧ (netGiveUp loading 36 0 64).fab.ask = [] := by
  decide

theorem rd_loading : rd loading R.niCount 36 2 = 0#32 := by decide

/-- The end of a load in a state with no command: the load alone goes. -/
theorem rd_settled_finishLoad {s t : State} {l : PatLoad} {st : Status} {r : Reg} {u i : Nat} (held : t.pn.held = [])
    (waiting : t.pn.waiting = []) (ask : t.fab.ask = []) : rd (settled s (settle (finishLoad t l st []))) r u i = rd t r u i := by
  rw [finishLoad_of_unheld held, settle_of_no_waiting (s := setCord t _) waiting]
  refine (congrArg (rd · r u i) (if_pos ?_)).trans rfl
  rw [setCord_fab, ask]
  exact Nat.zero_le _

/-- Refutes O30: its clause for a failing `PATTERN_IMAGE_READ_DONE` ends the load on the state as it was for every status but OK and
DEFERRED, and a read that ends in TIMEOUT is first given up and counted at NI 36 (`patternRead_of_timeout`; R356). In `loading` the count
is 1 afterwards, where the clause leaves 0. -/
theorem not_cordwainerCommands : ¬ Obligations.CordwainerCommands := by
  rintro ⟨-, ended, -⟩
  have claimed := ended 0 loading firstLoad .timeout rfl (by decide) (by decide)
  have answer : exec (.patternImageReadDone 0 (some (.timeout, []))) loading =
      .next (settled loading (settle (finishLoad (netGiveUp loading 36 0 64) firstLoad .timeout []))) :=
    congrArg (fun t => Host.Outcome.next (settled loading (settle t))) (patternRead_of_timeout rfl)
  have same := congrArg (rd · R.niCount 36 2) (Host.Outcome.next.inj (answer.symm.trans claimed))
  obtain ⟨counted, waiting, held, ask⟩ := netGiveUp_loading
  simp only [rd_settled_finishLoad held waiting ask, counted, rd_settled_finishLoad (t := loading) rfl rfl rfl, rd_loading] at same
  exact absurd same (by decide)

end Sys2Proof.Machine
end
